-- ==== Sys2Proof/Word.lean ====
section
/-! DEFINITION. The word types of the model and nothing else: registers are 64 bits wide (spec/18_register_space.md),
memory lines 64 bytes (spec/06_cache_hierarchy.md, R145). -/

namespace Sys2Proof

/-- A register, or an integer register of a hart. -/
abbrev Word := BitVec 64

/-- One byte of memory. -/
abbrev Byte := BitVec 8

/-- The 64 bytes of one line; byte k stands at bits [8k+7:8k] (R203). -/
abbrev Line := BitVec 512

/-- A map from numbers to values in one canonical form: the keys rise strictly, and no entry holds the value an
unlisted key reads as. -/
abbrev Sparse (V : Type) := List (Nat × V)

end Sys2Proof
end

