-- ==== Sys2Proof/Syntax.lean ====
section
/-! DEFINITION. The commands of the block: one constructor of Instr per row of spec/opcode_table.json, and the types of
their operands. A command is an operation or event the manual calls whole and indivisible
(spec/95_what_each_step_holds.md). -/

namespace Sys2Proof

/-- Who writes a register or gives a command: its requester ID (R18), its world (R274), and whether it comes through
Uzomuris's management port (R54, R462). -/
structure Who where
  rid : Nat
  world : Nat
  uz : Bool := false
  deriving DecidableEq, Repr

/-- A register of a hart that a load fills or a store reads: integer, floating-point or vector. -/
inductive HReg where
  | x (n : Nat)
  | f (n : Nat)
  | v (n : Nat)
  deriving DecidableEq, Repr

/-- The AMO operations of AMOArithmetic (R197) and the compare-and-swap of Zacas (R240). -/
inductive AmoOp where
  | add | swap | and | or | xor | min | max | minu | maxu | cas
  deriving DecidableEq, Repr

/-- The cache-block operations of R158. -/
inductive CboOp where
  | clean | flush | inval | zero
  deriving DecidableEq, Repr

/-- The messages of R182 and R204. -/
inductive MsgKind where
  | RD_SHARED | RD_OWN | UPGRADE | RD_OWN_ZERO | CMO_CLEAN | CMO_FLUSH | CMO_INVAL | RD_ONCE | EVICT_CLEAN
  | COMP_ACK | WCHK | IO_RD | HALL_RD
  | WR_FULL | WR_PART | IO_ATOMIC | WB_DATA | DATA | IO_WR | IO_RSP | TRACE_REC
  | SNP_SHARED | SNP_OWN | SNP_INV | SNP_ONCE | SNP_CLEAN | BACK_INV | RSP | FWD_DATA | COMP | WB_ACK
  | WB_ACK_STALE | WCHK_RSP | IO_ACK | UNAVAIL
  deriving DecidableEq, Repr

/-- A message with the fields of R181, R182 and R205. `die` is the compute die that sends or receives it (for a message
of an I/O agent, 12). Fields a message does not have stay at their defaults. -/
structure Msg where
  kind : MsgKind
  die : Nat := 12
  line : Nat := 0
  sub : Nat := 0
  rid : Nat := 0
  world : Nat := 0
  label : Nat := 0
  acc : Nat := 0
  tag : Nat := 0
  /-- RD_SHARED KIND: 0 load, 1 fetch, 2 walk, 3 tile, 4 prefetch. -/
  rkind : Nat := 0
  keep : Bool := false
  fwd : Nat := 0
  repair : Bool := false
  /-- RSP HELD: 0 none, 1 clean copies, 2 O copy, 3 E or M copy. -/
  held : Nat := 0
  /-- RSP DATA: 0 none, 1 included, 2 forwarded. -/
  dcode : Nat := 0
  dirty : Bool := false
  poison : Bool := false
  /-- COMP STATE: 0 S, 1 E, 2 O, 3 M. -/
  grant : Nat := 0
  /-- COMP SRC: 0 no data, 1 from hall, 2 forwarded. -/
  src : Nat := 0
  data : Line := 0
  mask : Word := 0
  /-- log2 of the size of an IO_RD or IO_WR, the operation of an IO_ATOMIC, the status of an IO_RSP, the CHECK code of a
  WCHK_RSP, or the REASON of an UNAVAIL. -/
  code : Nat := 0
  pass : Bool := false
  /-- The regulation class, fixed at the injection port (R258); 16 before it. -/
  cls : Nat := 16
  deriving DecidableEq, Repr

/-- A packet of the gallery: the header unit of R203 (its fields as the message carries them, with where it comes from
and where it goes) and its number of units. `cmd` is the CMD value, which bits [7:6] tie to a plane (R204). -/
structure Packet where
  destR : Nat
  destPort : Nat
  srcR : Nat
  srcPort : Nat
  vc : Nat
  cmd : Nat
  units : Nat
  msg : Msg
  deriving DecidableEq, Repr

/-- What the sideband code of R206 finds on a unit that crosses a link. -/
inductive UnitError where
  | none | corrected | uncorrectable
  deriving DecidableEq, Repr

/-- What it finds on the units of a packet: the header unit, and the data unit of a packet that has one. -/
structure HopErrors where
  head : UnitError
  data : UnitError
  deriving DecidableEq, Repr

/-- One Jotor bundle as it arrives (R228): its units, its 16-byte trailer, and whether every beat was data or trailer
(R226). The receiver computes the CRC itself. -/
structure Bundle where
  units : List Line
  trailer : BitVec 128
  beatsOk : Bool := true
  deriving DecidableEq, Repr

/-- The fields of a die IDENT (R230). -/
structure Ident where
  link : Nat
  stepping : Nat
  serial : Nat
  cap : Nat
  failMask : Nat
  deriving DecidableEq, Repr

/-- What a die brings to its reset (R236, R244, R417): whether each link trains, with the spare-wire replacements and the
number of failing wires, the IDENT each link sends, and the remap entries of the life record are the model's own. -/
structure DieStart where
  trainA : Bool
  trainB : Bool
  wiresA : Nat := 0
  wiresB : Nat := 0
  sparesA : Nat := 0xFFFFFFF
  sparesB : Nat := 0xFFFFFFF
  identA : Ident
  identB : Ident
  deriving DecidableEq, Repr

/-- A report to the fault collector (R327): the fields of FC_FIRST_INFO, the address, the package time of detection and
MERGED. -/
structure Report where
  source : Nat
  rid : Nat
  world : Nat
  acc : Nat
  detail : Nat
  addr : Nat
  time : Nat
  merged : Nat := 0
  deriving DecidableEq, Repr

/-- An assignable block of R290. -/
inductive Blk where
  | fn (i : Nat)
  | inst (i : Nat)
  | mbx (i : Nat)
  | src (i : Nat)
  | uzmb (i : Nat)
  deriving DecidableEq, Repr

/-- A landing cache (by die) or a hall cache (by hall): what LND_CTL and HALL_CACHE_CTL command (R170). -/
inductive CacheSel where
  | landing (die : Nat)
  | hall (h : Nat)
  deriving DecidableEq, Repr

/-- The request whose access reads an array word (R328): its requester, world and access type, and the line it is for. -/
structure Met where
  rid : Nat
  world : Nat
  acc : Nat
  line : Nat
  deriving DecidableEq, Repr

/-- One RCP word access that meets wrong bits (R304 to R306): the array, its instance, bank and word location, and the bits that
are wrong: data bits, and the parity bits of rows and of columns. `fresh`: the location has been written, filled or invalidated since its latest correction (R308,
R309). `copies`: 0 one word or one of two copies, 1 both copies, 2 a directory body whose tag is good (R313). `copy` is the copy that fails
in an array held in two. `by_` names the access whose read meets the error, where it is not the hart's own. -/
structure ArrErr where
  array : Nat
  inst : Nat
  bank : Nat
  loc : Nat
  bits : List Nat
  rowPar : List Nat
  colPar : List Nat
  fresh : Bool := false
  copies : Nat := 0
  copy : Nat := 0
  by_ : Option Met := none
  deriving DecidableEq, Repr

/-- The wrong bits of one codeword of the DRAM code: device d with the 64-bit pattern of its wrong bits (R314, R315). -/
abbrev EccErr := List (Nat × Word)

/-- What a channel finds at memory training (R418): its DIMM, the reuse test and the outcome of full training. -/
structure ChannelStart where
  capGib : Nat
  dimmType : Nat
  org : Nat
  spd : Nat
  mts : Nat
  reuseOk : Bool
  trainOk : Bool
  deriving DecidableEq, Repr

/-- What the package meets at a package reset: the channels (one per hall), the dies, the straps, the pair links that
train, the first image with its load address, and the registers the platform descriptor sets (R416). -/
structure PkgStart where
  channels : List ChannelStart
  dies : List DieStart
  pairRole : Nat := 0
  pairUp : Nat := 0
  imageAddr : Nat := 0
  image : List Byte := []
  domains : Bool := false
  hetero : Bool := false
  tjTarget : Nat := 100
  tdp : Nat := 850
  labelMap : List (Nat × Nat) := []
  mfgMode : Bool := false
  deriving DecidableEq, Repr

/-- The IDENT of a package over Jotor-P (R395). -/
structure PairIdent where
  role : Nat
  serial : Nat
  cap : Nat
  state : Nat
  srcAtSep : Bool
  tracking : Bool
  deriving DecidableEq, Repr

/-- A PAIR_CFG control unit (R403): a region table (BASE, LIMIT and REMOTE words), the digest of the committed settings, or a
life-record summary. -/
inductive PairCfg where
  | table (entries : List (Word × Word × Word))
  | digest (d : Nat)
  | summary (bytes : List Byte)
  deriving DecidableEq, Repr

/-- A request of a device (R317, R345): a read, a write of the bytes of a line that `mask` selects, an AtomicOp; a translation request of
ATS, which asks for a right to write or not; a request for an address that ATS has translated; a request with a PASID. -/
inductive DevReq where
  | read
  | write (v : Line) (mask : Word)
  | poisoned (v : Line) (mask : Word)
  | media
  | atomic (code : Nat) (args : Line)
  | translate (wr : Bool)
  | translated (q : DevReq)
  | withPasid (pasid : Nat) (q : DevReq)
  deriving DecidableEq, Repr

/-- The commands of the 6288, one per row of spec/opcode_table.json. -/
inductive Instr where
  -- registers and harts
  | registerWrite (who : Who) (off : Nat) (v : Word)
  | load (h : Nat) (rd : HReg) (va size : Nat) (signed : Bool) (err : Option ArrErr)
  | store (h : Nat) (rs : HReg) (va size : Nat) (err : Option ArrErr)
  | amo (h : Nat) (op : AmoOp) (rd rs : Nat) (va size : Nat)
  | lr (h rd va size : Nat)
  | sc (h rd rs va size : Nat)
  | fence (h pred succ : Nat)
  | instructionFetch (h va : Nat)
  | cboClean (h va : Nat)
  | cboFlush (h va : Nat)
  | cboInval (h va : Nat)
  | cboZero (h va : Nat)
  | prefetchIssue (h pa : Nat) (next : Nat)
  | interruptTaken (h cause : Nat)
  | mret (h : Nat)
  | wfi (h : Nat)
  | predictorClearDone (h : Nat)
  | mworldWrite (h : Nat) (v : Word)
  | sqoslabelWrite (h : Nat) (v : Word)
  | tileCsrAccess (h rd : Nat) (isFault : Bool) (wr : Option Word)
  | machineTimerInterrupt (h : Nat)
  | eventOccurrence (n : Nat)
  | msiDeliver (n : Nat)
  | evrSrcWrite (who : Who) (n : Nat) (v : Word)
  | evrSrcWriteDone (n : Nat)
  | evrDropClear (who : Who)
  | evrSwtrig (who : Who) (v : Word)
  | evrTimerWrite (who : Who) (n : Nat) (v : Word)
  | evrTimerFire (n : Nat)
  | deviceMsi (fn die core file ident : Nat)
  | hartReset (who : Who) (h : Nat)
  | hartResetDone (h : Nat)
  | corePowerOff (who : Who) (h : Nat)
  | corePowerOn (who : Who) (h : Nat)
  | msipWrite (who : Who) (h : Nat) (b : Bool)
  | coreFailed (die phys : Nat)
  | haltreq (h : Nat)
  | resumereq (h : Nat)
  | triggerFire (h : Nat) (debugAction : Bool) (addr : Nat)
  | dmcontrolHartreset (h : Nat)
  | ndmreset (st : PkgStart)
  | abstractRegisterAccess (h regno : Nat) (wr : Option Word)
  -- the tile unit
  | tmma (h c a b : Nat) (bad : List (Nat × Nat))
  | tmmat (h c a b : Nat) (bad : List (Nat × Nat))
  | taddAa (h d s : Nat) (bad : List (Nat × Nat))
  | taddAt (h d s : Nat) (bad : List (Nat × Nat))
  | tzeroTile (h t : Nat)
  | tzeroAcc (h a : Nat)
  | tchkTile (h t : Nat)
  | tchkAcc (h a : Nat)
  | tcfgTile (h t rs1 : Nat)
  | tcfgAcc (h a rs1 : Nat)
  | tsumsTile (h rd t rs1 : Nat)
  | tsumsAcc (h rd a rs1 : Nat)
  | tcvt (h t a rs1 rm : Nat)
  | tload (h t rs1 rs2 : Nat)
  | tstore (h t rs1 rs2 : Nat)
  | tloadu (h t rs1 rs2 : Nat)
  | tstoreu (h t rs1 rs2 : Nat)
  | tsave (h rs1 : Nat)
  | trestore (h rs1 : Nat)
  | tileInstructionComplete (h : Nat)
  -- caches and maintenance
  | l2Eviction (h line : Nat)
  | wbBufferHit (h line : Nat)
  | cmeClean (who : Who) (die : Nat) (v : Word)
  | cmeInvalidate (who : Who) (die : Nat) (v : Word)
  | cmeCleanInvalidate (who : Who) (die : Nat) (v : Word)
  | cmeAbort (who : Who) (die : Nat)
  | cmeDone (die : Nat)
  | hallMntClean (who : Who) (hall : Nat) (v : Word)
  | hallMntInvalidate (who : Who) (hall : Nat) (v : Word)
  | hallMntCleanInvalidate (who : Who) (hall : Nat) (v : Word)
  | hallMntAbort (who : Who) (hall : Nat)
  | hallMntDone (hall : Nat)
  | pkgRatBaseWrite (who : Who) (n : Nat) (v : Word)
  | pkgRatLimitWrite (who : Who) (n : Nat) (v : Word)
  | disableTracking (who : Who) (c : CacheSel)
  | disableDark (who : Who) (c : CacheSel)
  | disableOff (who : Who) (c : CacheSel)
  | enableInvalidate (who : Who) (c : CacheSel)
  | enableKeep (who : Who) (c : CacheSel)
  | forceKeep (who : Who) (c : CacheSel)
  | cacheCmdDone (c : CacheSel)
  -- coherence messages
  | rdShared (m : Msg)
  | rdOwn (m : Msg)
  | upgrade (m : Msg)
  | rdOwnZero (m : Msg)
  | cmoClean (m : Msg)
  | cmoFlush (m : Msg)
  | cmoInval (m : Msg)
  | rdOnce (m : Msg)
  | wrFull (m : Msg)
  | wrPart (m : Msg)
  | ioAtomic (m : Msg)
  | wbData (m : Msg)
  | evictClean (m : Msg)
  | compAck (m : Msg)
  | snpShared (m : Msg)
  | snpOwn (m : Msg)
  | snpInv (m : Msg)
  | snpOnce (m : Msg)
  | snpClean (m : Msg)
  | backInv (m : Msg)
  | rsp (m : Msg)
  | fwdData (m : Msg)
  | comp (m : Msg)
  | data (m : Msg)
  | wbAck (m : Msg)
  | wbAckStale (m : Msg)
  | wchk (m : Msg)
  | wchkRsp (m : Msg)
  | ioRd (m : Msg)
  | ioWr (m : Msg)
  | ioRsp (m : Msg)
  | ioAck (m : Msg)
  | hallRd (m : Msg)
  | holdWindowEnd (h line : Nat)
  | hallDiePurge (hall die : Nat)
  | diePurgeDone (die : Nat)
  -- the gallery
  | packetHop (r port plane vc : Nat) (inj : Option Packet) (err : HopErrors)
  | creditReturn (r port plane vc : Nat)
  | fenceMark (r port src plane vc : Nat)
  | fenceDrained (r port : Nat)
  | unfence (who : Who) (r : Nat) (v : Word)
  | fenceHoldTimeout (r : Nat)
  | unavail (m : Msg)
  | galPortCtlWrite (who : Who) (r : Nat) (v : Word)
  | galIdWrite (who : Who) (r : Nat) (v : Word)
  | traceRec (r : Nat)
  -- Jotor links and dies
  | bundleReceive (k : Nat) (atDie : Bool) (b : Bundle)
  | nak (k : Nat) (atDie : Bool) (ackSeq : Nat)
  | replayTimeout (k : Nat) (atDie : Bool)
  | linkDown (k : Nat) (atDie : Bool) (lastSeq : Nat)
  | linkSync (k : Nat) (atDie : Bool) (lastSeq : Nat)
  | ident (die : Nat) (st : DieStart)
  | identAck (die : Nat)
  | hold (die cause : Nat)
  | keepalive (k : Nat)
  | quiesce (who : Who) (die : Nat)
  | quiesced (die : Nat)
  | dieQuiesceDone (die : Nat)
  | dieReset (who : Who) (die : Nat) (st : DieStart)
  | diePowerOff (who : Who) (die : Nat)
  | dieResponseTimeout (die : Nat)
  -- time, supply and power
  | refclkFailure
  | holdoverExit
  | supplyChange (rail mv tj : Nat)
  | droopEvent (die mv : Nat)
  | brownout (die : Nat)
  | retentionLost (die : Nat)
  | railRecovery (die mv : Nat)
  | iodBrownout (retention : Bool)
  | phyRailFault (rail : Nat)
  | vMinReset (who : Who) (die : Nat)
  | pacerUpdate (die : Nat)
  | pkgPacerUpdate
  | droopNAssert
  | droopNRelease
  | droopHoldExpiry (die : Nat)
  | pmbusTelemetryRead (rail : Nat) (answered : Bool)
  | powerSample (watts : Nat)
  | peakOverrun
  | pkgPowerCfgWrite (who : Who) (v : Word)
  -- halls, flights and regulation
  | tread (hall : Nat) (ready : List Nat) (err : EccErr)
  | revolutionBoundary (hall : Nat)
  | dimmThermalRead (hall celsius : Nat)
  | tokenRefill (port : Nat)
  | limitDivision
  | qosBytesSum
  | windowEnd (hall : Nat)
  | qosCommit (who : Who) (v : Word)
  | qosCommitDone
  | scaleRecompute
  -- worlds and ownership
  | wldCommit (who : Who)
  | wldFormatDone
  | transit (who : Who) (v : Word)
  | scrub (who : Who) (v : Word)
  | transfer (who : Who) (v : Word)
  | unassign (who : Who) (v : Word)
  | assign (who : Who) (v : Word)
  | share (who : Who) (v : Word)
  | unshare (who : Who) (v : Word)
  | potOpDone
  | potQuery (who : Who) (v : Word)
  | release (who : Who) (b : Blk) (dst : Nat)
  | releaseDone (b : Blk)
  | claim (who : Who) (b : Blk)
  | powerDownRequest (who : Who) (kind index : Nat)
  | powerUpRequest (who : Who) (kind index : Nat)
  | powerDownDone
  | consentWrite (who : Who) (w : Nat) (v : Word)
  | unlockToken (token : List Byte)
  | debugGrantExpiry
  | revoke (who : Who)
  -- stored data and faults
  | mend (array inst bank : Nat)
  | mendForced (array inst bank : Nat)
  | patrolRead (hall : Nat) (err : EccErr)
  | chanReturn (who : Who) (hall : Nat)
  | chanReturnDone (hall : Nat) (trainOk : Bool)
  | faultReport (unit : Nat)
  | reportOverflow (unit : Nat)
  | pendClear (who : Who) (n : Nat)
  | faultConditionEnd (n : Nat)
  | fcSrcWrite (who : Who) (n : Nat) (v : Word)
  | collectorParityError
  -- stations
  | portCommit (who : Who) (n : Nat)
  | portLinkUp (n j rate width : Nat) (flit cxl : Bool)
  | ecamAccess (who : Who) (addr : Nat) (wr : Option Word)
  | pcieWindowAccess (who : Who) (addr size : Nat) (wr : Option Word)
  | downstreamRequest (n j rid addr : Nat) (req : DevReq)
  | bar2Request (n f off : Nat) (req : DevReq)
  | ssbFrame (n : Nat) (b0 b1 b2 b3 : Byte)
  | slotControlWrite (n j : Nat) (v : Word)
  | pwrGoodTimeout (n j : Nat)
  | perstRelease (n j : Nat)
  | winCommit (who : Who) (n : Nat)
  | winDrainDone (n : Nat)
  | barUpperWrite (n f bar : Nat) (v : BitVec 32)
  | dStateChange (n f : Nat) (d3 : Bool)
  | perstInFall (n j : Nat)
  | pmeReceived (n j : Nat)
  | flr (who : Who) (n f : Nat)
  | flrDone (n f : Nat)
  | completionTimeout (n j tag : Nat)
  | lateCompletion (n j tag : Nat)
  | intxReceived (n j : Nat)
  | restart (who : Who) (n j : Nat)
  | pageSelWrite (n f : Nat) (v : Word)
  -- service engines
  | seDbTailWrite (who : Who) (c k : Nat) (v : Word)
  | seDbCplHeadWrite (who : Who) (c k : Nat) (v : Word)
  | descriptorFetch (c k : Nat)
  | segmentBoundary (c e : Nat)
  | copy (c k j : Nat)
  | fill (c k j : Nat)
  | compare (c k j : Nat)
  | atomic (c k j : Nat)
  | pack (c k j : Nat)
  | unpack (c k j : Nat)
  | verify (c k j : Nat)
  | gcmEnc (c k j : Nat)
  | gcmDec (c k j : Nat)
  | xtsEnc (c k j : Nat)
  | xtsDec (c k j : Nat)
  | hash (c k j : Nat)
  | deflateC (c k j : Nat)
  | deflateD (c k j : Nat)
  | lz4fC (c k j : Nat)
  | lz4fD (c k j : Nat)
  | descriptorCompletion (c k : Nat)
  | seInstShareWrite (who : Who) (c k : Nat) (v : Word)
  | enable (who : Who) (c k : Nat)
  | reset (who : Who) (c k : Nat)
  | drainLimitExpiry (c k : Nat)
  | instanceResetDone (c k : Nat)
  | ringError (c k cause : Nat)
  | mailboxDelivery (c k : Nat)
  | seDbReturn (who : Who) (c k : Nat) (v : Word)
  -- pair operation
  | pairAliveToggle
  | pairAliveTimeout
  | pairDiscovery (a b : PairIdent)
  | pairHb (state : Nat) (source safe notReady : Bool) (time queued : Nat)
  | pairHbSend
  | pairHbTimeout
  | pairYield
  | pairCfg (u : PairCfg)
  | mirWr (link region : Nat) (poison copy : Bool) (line seq : Nat) (data : Line)
  | mirAck (region seq : Nat) (refused : Bool)
  | mirAckSend
  | pairCommit (who : Who)
  | forceSource (who : Who)
  | resync (n page : Nat)
  | resyncDone
  | pairLinkRetry (trains : Nat) (peer : PairIdent)
  -- Uzomuris
  | standbyPowerGood (slotA slotB : Bool) (st : PkgStart)
  | uzomurisReset
  | watchdogRestart
  | packageReset (st : PkgStart)
  | pkgReset (who : Who) (st : PkgStart)
  | resetNFall (st : PkgStart)
  | mainPowerOn (hot : Bool) (st : PkgStart)
  | powerOffRequest
  | pkgCommit (who : Who)
  | thermalSensorRead (temps : List Nat)
  | dimmCapStep
  | thermtrip (die : Nat)
  | mctpMessage (type : Nat) (body : List Byte) (st : PkgStart)
  | uzMbxGo (who : Who) (i : Nat) (v : Word)
  | uzMbxAnswer (i : Nat)
  | lifeRecordWrite (type : Nat) (payload : List Byte)
  | hourlyRecords
  | compaction
  | uzLrReadWrite (who : Who) (v : Word)
  | fenceCommand (who : Who) (r : Nat) (v : Word)
  | pairAliveIEdge
  | portLinkDown (n j : Nat)
  | aerErrorMessage (n j : Nat) (fatal : Bool)
  | hostConfigWrite (n f off : Nat) (v : BitVec 32)
  | iommuCommand (n : Nat)
  | redfishRequest (op : Nat) (image : List Byte) (st : PkgStart)
  | lagLimitReached (n : Nat)
  | compactionDone
  | corePowerOffDone (h : Nat)
  | mainPowerOnRetry (hot : Bool) (st : PkgStart)
  deriving DecidableEq, Repr

end Sys2Proof
end

