-- ==== Sys2Proof/Decode.lean ====
section
/-! DEFINITION. Decoding a word of spec/opcode_table.json. The table gives no row any bits: a command of the 6288 is an
operation or an event, not an encoded word. -/

namespace Sys2Proof

/-- The command that a word spells by the table's bits: none, since no row of the table has bits. -/
def decodeTableWord (_nbits _w : Nat) : Option Instr := none

end Sys2Proof
end

