-- ==== Sys2Proof/Config.lean ====
section
/-! DEFINITION. What one part fixes (fuses) and the free values: constants with no body, of which nothing in Lean can
prove a value. -/

namespace Sys2Proof

/-- PKG_SERIAL, from fuses (spec/18_register_space.md): any 64-bit number. Free value. -/
opaque Config.pkgSerial : Nat

/-- FORBID_INV and FORBID_NINV of WLD_DBG_FUSE, from fuses (R299, spec/11_worlds.md). Free value. -/
opaque Config.dbgFuse : Nat

/-- Whether the signature in the last 96 bytes of an unlock token, over its first 64, is that of the key whose digest is fused (R301): the
manual gives neither key nor digest. Free value. -/
opaque Config.tokenSigned : List Byte → Bool

/-- The bytes that an SPDM measurement digests (R424), by its index and the values it is of; the manual gives no layout. Free value. -/
opaque Config.measuredBytes : Nat → List Nat → List Byte

/-- Whether the event router merges an occurrence with an MSI of the same source that is in flight, which R77 allows.
Free value. -/
opaque Config.msiMerged : Nat → Bool

/-- A choice the manual leaves open among several candidates: which line leaves a set whose replacement it does not give (R176, R282), and
which way or engine a fault concerns that names none (R333): a number taken modulo the number of candidates. Free value. -/
opaque Config.victim : Nat → Nat

/-- A number the manual leaves open: the measured currents, an undefined destination's bytes and the like. Free value. -/
opaque Config.freeNat : Nat → Nat

/-- The handshakes of a hart's retire stage in a tick of package time (R34; their rate follows the supply and the temperature, R32), by a
count and the hart. Free value. -/
opaque Config.handshakes : Nat → Nat → Nat

/-- The direction that an entry of the branch predictor holds after a later misprediction (R71 says when an entry is allocated, and not how
it changes after that). Free value. -/
opaque Config.redirected : Nat → Bool

/-- The largest difference between two receivers of package time that has been measured (MAX_SKEW of PKG_TIME_STATUS), of
package time; the manual bounds it by 2 ticks (R35). Free value. -/
opaque Config.maxSkew : Nat → Nat

/-- Whether REFCLK, after a failure, is back within its window at a package time of the holdover (R37): the board's. Free value. -/
opaque Config.refclkBack : Nat → Bool

/-- Whether refresh takes a maintenance tread (R252, R253: the manual gives the number of maintenance treads and not how many of them
refresh needs). Free value. -/
opaque Config.refreshTread : Nat → Bool

/-- The PMBus page of a rail of a multi-rail regulator, from the platform descriptor (R56). Free value. -/
opaque Config.railPage : Nat → Nat

/-- The SHA-384 digest of the committed settings (R403), from the registers that hold them: the manual gives no order of
the settings in it. Free value. -/
opaque Config.cfgDigest : List (Nat × Word) → Nat

end Sys2Proof
end

