-- ==== Sys2Proof/Machine/Registers.lean ====
section
/-! DEFINITION. The register space of the 6288: every register of the index of spec/18_register_space.md under the
manual's own name, its offset in register space (R433), its reset value and its field table (each from the locator
line and the table of the chapter that owns the block). -/

namespace Sys2Proof.Machine

/-- The access types of R8. -/
inductive Access where
  | rw | ro | wo | w1c | w1s | rwl | rws
  deriving DecidableEq, Repr

/-- One field of a register: bits [hi:lo], its access type (R8), and the range a write is brought into where the
field's table says that writes outside it take the nearer limit. -/
structure Field where
  hi : Nat
  lo : Nat
  acc : Access
  clamp : Option (Nat × Nat) := none
  deriving DecidableEq, Repr

/-- WLD_DBG_FUSE: its masks from fuses, and LOCKED, which every part has set when it leaves production (R299, R300). -/
def fuseWord : Nat := Config.dbgFuse % 2 ^ 32 + 2 ^ 32

/-- The registers of the package, one constructor per register or register family. A block that occurs more than
once gives its instance first (the router r, the hall n, the link k, the station n, the cluster c, the die n),
then the index within the family. -/
inductive Reg where
  | PKG_ID
  | PKG_SERIAL
  | PKG_CTL
  | PKG_ADDR_MAP
  | PKG_TIME
  | PKG_TIME_STATUS
  | PKG_PACER_CFG
  | PKG_POWER_CFG
  | PKG_POWER_STATUS
  | PKG_RAT_CTL
  | PKG_COH_CFG
  | PKG_DIE_CTL (i : Nat)
  | PKG_DIE_STATUS (i : Nat)
  | PKG_DIE_CFG
  | PKG_CAP_COMMON
  | PKG_DIE_SERIAL (i : Nat)
  | PKG_DIE_CAP (i : Nat)
  | PKG_RAT_BASE (i : Nat)
  | PKG_RAT_LIMIT (i : Nat)
  | FC_STATUS
  | FC_FIRST_INFO
  | FC_FIRST_ADDR
  | FC_FIRST_TIME
  | FC_ESC_INFO
  | FC_ESC_ADDR
  | FC_ESC_TIME
  | FC_PEND_SUM (i : Nat)
  | FC_NOTICE_INFO (i : Nat)
  | FC_NOTICE_ADDR (i : Nat)
  | FC_REPORT (i : Nat)
  | FC_SRC (n : Nat)
  | EVR_SWTRIG
  | EVR_DROP_STATUS
  | EVR_TIMER (i : Nat)
  | EVR_SRC (n : Nat)
  | WLD_CTL
  | WLD_VIOL_INFO
  | WLD_VIOL_ADDR
  | WLD_POT_TABLE (i : Nat)
  | WLD_POT_FIRST (i : Nat)
  | WLD_POT_LAST (i : Nat)
  | WLD_POT_OP
  | WLD_POT_OP_PAGE
  | WLD_POT_STATUS
  | WLD_POT_QUERY
  | WLD_PAGES (i : Nat)
  | WLD_WORLD_CFG (i : Nat)
  | WLD_CONSENT (i : Nat)
  | WLD_PWR_REQ
  | WLD_PWR_STATUS
  | WLD_DBG_FUSE
  | WLD_DBG_GRANT
  | WLD_FN_OWN (i : Nat)
  | WLD_INST_OWN (i : Nat)
  | WLD_MBX_OWN (i : Nat)
  | WLD_SRC_OWN (i : Nat)
  | WLD_UZMB_OWN (i : Nat)
  | QOS_CTL
  | QOS_CAPACITY
  | QOS_STATUS
  | QOS_MISS
  | QOS_CLASS (i : Nat)
  | QOS_LABEL_MAP (i : Nat)
  | QOS_BYTES (i : Nat)
  | UZ_STATUS
  | UZ_CTL
  | UZ_THERM_CFG
  | UZ_LR_STATUS
  | UZ_LR_READ
  | UZ_LR_DATA (i : Nat)
  | UZ_ARR_SEL
  | UZ_ARR_STATUS
  | UZ_MBX_CTL (i : Nat)
  | UZ_MBX_DATA (i j : Nat)
  | PAIR_CFG
  | PAIR_CTL
  | PAIR_STATUS
  | PAIR_PARTNER_SERIAL
  | PAIR_DIRTY_BASE
  | PAIR_RESYNC_STATUS
  | PAIR_REGION_BASE (i : Nat)
  | PAIR_REGION_LIMIT (i : Nat)
  | PAIR_REGION_REMOTE (i : Nat)
  | PAIR_REGION_STATUS (i : Nat)
  | GAL_ID (r : Nat)
  | GAL_PORT_CTL (r : Nat)
  | GAL_FENCE_CTL (r : Nat)
  | GAL_FENCE_STATUS (r : Nat)
  | GAL_ERR_STATUS (r : Nat)
  | GAL_PRB_CTL (r : Nat)
  | GAL_PRB_FILTER (r : Nat)
  | GAL_PRB_REQ (r : Nat)
  | GAL_PRB_ADDR_LO (r : Nat)
  | GAL_PRB_ADDR_HI (r : Nat)
  | GAL_PRB_TBASE (r : Nat)
  | GAL_PRB_TLIMIT (r : Nat)
  | GAL_PRB_TPTR (r : Nat)
  | GAL_PRB_CNT (r i : Nat)
  | HALL_FLIGHT_STATUS (n : Nat)
  | HALL_CLASS_STAT (n i : Nat)
  | HALL_CLASS_BYTES (n i : Nat)
  | HALL_CACHE_CTL (n : Nat)
  | HALL_CACHE_STATUS (n : Nat)
  | HALL_MNT_BASE (n : Nat)
  | HALL_MNT_LIMIT (n : Nat)
  | HALL_MNT_CTL (n : Nat)
  | HALL_MNT_STATUS (n : Nat)
  | HALL_DIR_STATUS (n : Nat)
  | HALL_DIR_COUNT (n : Nat)
  | HALL_ARR_SEL (n : Nat)
  | HALL_ARR_STATUS (n : Nat)
  | HALL_DRAM_STATUS (n : Nat)
  | HALL_DRAM_DEV (n i : Nat)
  | HALL_PATROL_CFG (n : Nat)
  | HALL_PATROL_STATUS (n : Nat)
  | HALL_DRAM_CTL (n : Nat)
  | JL_CFG (k : Nat)
  | JL_STATUS (k : Nat)
  | JL_RETRY (k : Nat)
  | JL_ARR_SEL (k : Nat)
  | JL_ARR_STATUS (k : Nat)
  | PORT_CFG (n : Nat)
  | PORT_CTL (n : Nat)
  | PORT_STATUS (n i : Nat)
  | PORT_ECAM (n i : Nat)
  | PORT_CXL_BASE (n i : Nat)
  | PORT_CXL_LIMIT (n i : Nat)
  | PORT_EP_CFG (n i : Nat)
  | PORT_WIN_CTL (n : Nat)
  | PORT_SLOT (n i : Nat)
  | PORT_CT (n i : Nat)
  | PORT_ERR (n i : Nat)
  | PORT_ARR_SEL (n : Nat)
  | PORT_ARR_STATUS (n : Nat)
  | PORT_MWIN_BASE (n i : Nat)
  | PORT_MWIN_LIMIT (n i : Nat)
  | PORT_FN_CFG (n i : Nat)
  | PORT_FN_WIN (n i : Nat)
  | SE_CL_CFG (c : Nat)
  | SE_ENG_STATUS (c i : Nat)
  | SE_ARR_SEL (c : Nat)
  | SE_ARR_STATUS (c : Nat)
  | SE_INST_CFG (c k : Nat)
  | SE_INST_DRING (c k : Nat)
  | SE_INST_CRING (c k : Nat)
  | SE_INST_DLV (c k : Nat)
  | SE_INST_SHARE (c k : Nat)
  | SE_INST_CTL (c k : Nat)
  | SE_INST_STATUS (c k : Nat)
  | SE_DB_TAIL (c k : Nat)
  | SE_DB_CPL_HEAD (c k : Nat)
  | SE_DB_STATUS (c k : Nat)
  | SE_DB_RETURN (c k : Nat)
  | SE_DB_DLV_TAIL (c k : Nat)
  | CD_CORE_MAP_0 (n : Nat)
  | CD_CORE_MAP_1 (n : Nat)
  | CD_CORE_STATUS (n : Nat)
  | CD_PACER_CFG (n : Nat)
  | CD_PACER_STATUS (n : Nat)
  | CD_SUPPLY_CFG (n : Nat)
  | CD_SUPPLY_STATUS (n : Nat)
  | CD_RESET_VECTOR (n : Nat)
  | CD_CORE_CTL (n i : Nat)
  | CD_MTIMECMP (n i : Nat)
  | CD_IMSIC_OWNER (n i : Nat)
  | LND_CTL (n : Nat)
  | LND_STATUS (n : Nat)
  | CME_BASE (n : Nat)
  | CME_LIMIT (n : Nat)
  | CME_CTL (n : Nat)
  | CME_STATUS (n : Nat)
  | CD_ARR_SEL (n : Nat)
  | CD_ARR_STATUS (n : Nat)
  deriving DecidableEq, Repr

namespace F

def PKG_ID_PART : Field := ⟨15, 0, .ro, none⟩
def PKG_ID_IOD_STEPPING : Field := ⟨23, 16, .ro, none⟩
def PKG_ID_MAP_VERSION : Field := ⟨31, 24, .ro, none⟩
def PKG_ID_VENDOR : Field := ⟨47, 32, .ro, none⟩
def PKG_SERIAL_SERIAL : Field := ⟨63, 0, .ro, none⟩
def PKG_CTL_COMMIT : Field := ⟨0, 0, .wo, none⟩
def PKG_CTL_COMMITTED : Field := ⟨1, 1, .ro, none⟩
def PKG_ADDR_MAP_DOMAINS : Field := ⟨0, 0, .rwl, none⟩
def PKG_ADDR_MAP_HALL_CAP_GIB : Field := ⟨40, 32, .ro, none⟩
def PKG_TIME_TIME : Field := ⟨63, 0, .ro, none⟩
def PKG_TIME_STATUS_RUNNING : Field := ⟨0, 0, .ro, none⟩
def PKG_TIME_STATUS_REFCLK_OK : Field := ⟨1, 1, .ro, none⟩
def PKG_TIME_STATUS_HOLDOVER : Field := ⟨2, 2, .ro, none⟩
def PKG_TIME_STATUS_HOLDOVER_SEEN : Field := ⟨3, 3, .w1c, none⟩
def PKG_TIME_STATUS_MAX_SKEW : Field := ⟨23, 16, .ro, none⟩
def PKG_PACER_CFG_PKG_RATE : Field := ⟨10, 0, .rws, some (20, 1000)⟩
def PKG_PACER_CFG_PKG_EN : Field := ⟨16, 16, .rws, none⟩
def PKG_PACER_CFG_EMERG_PCT : Field := ⟨39, 32, .rws, none⟩
def PKG_PACER_CFG_DROOP_HOLD : Field := ⟨47, 40, .rws, none⟩
def PKG_PACER_CFG_DROOP_N_EN : Field := ⟨48, 48, .rws, none⟩
def PKG_POWER_CFG_TDP_W : Field := ⟨9, 0, .rws, none⟩
def PKG_POWER_CFG_PEAK_W : Field := ⟨26, 16, .rws, none⟩
def PKG_POWER_CFG_PEAK_MS : Field := ⟨39, 32, .rws, none⟩
def PKG_POWER_CFG_TAU : Field := ⟨47, 40, .rws, none⟩
def PKG_POWER_STATUS_PKG_W : Field := ⟨10, 0, .ro, none⟩
def PKG_POWER_STATUS_AVG_W : Field := ⟨26, 16, .ro, none⟩
def PKG_POWER_STATUS_CAPPING : Field := ⟨32, 32, .ro, none⟩
def PKG_POWER_STATUS_PEAK_ACTIVE : Field := ⟨33, 33, .ro, none⟩
def PKG_POWER_STATUS_PEAK_OVERRUN : Field := ⟨34, 34, .w1c, none⟩
def PKG_POWER_STATUS_CFG_REJECT : Field := ⟨35, 35, .w1c, none⟩
def PKG_RAT_CTL_DEFAULT_POLICY : Field := ⟨1, 0, .rws, none⟩
def PKG_RAT_CTL_REJECT : Field := ⟨8, 8, .w1c, none⟩
def PKG_RAT_CTL_RESERVED_WAYS : Field := ⟨27, 16, .ro, none⟩
def PKG_COH_CFG_HOLD_MIN : Field := ⟨9, 0, .rws, none⟩
def PKG_COH_CFG_HOLD_MAX : Field := ⟨31, 16, .ro, none⟩
def PKG_DIE_CTL_CMD : Field := ⟨1, 0, .wo, none⟩
def PKG_DIE_STATUS_STATE : Field := ⟨2, 0, .ro, none⟩
def PKG_DIE_STATUS_CAUSE : Field := ⟨7, 4, .ro, none⟩
def PKG_DIE_STATUS_REFUSED : Field := ⟨8, 8, .w1c, none⟩
def PKG_DIE_STATUS_SINGLE_LINK : Field := ⟨9, 9, .ro, none⟩
def PKG_DIE_STATUS_MSI_DROPS : Field := ⟨31, 16, .ro, none⟩
def PKG_DIE_CFG_HETERO_ALLOW : Field := ⟨0, 0, .rwl, none⟩
def PKG_DIE_CFG_DIE_TIMEOUT_US : Field := ⟨31, 16, .rws, some (20, 65535)⟩
def PKG_CAP_COMMON_CAP : Field := ⟨31, 0, .ro, none⟩
def PKG_DIE_SERIAL_SERIAL : Field := ⟨63, 0, .ro, none⟩
def PKG_DIE_CAP_CAP : Field := ⟨31, 0, .ro, none⟩
def PKG_DIE_CAP_STEPPING : Field := ⟨39, 32, .ro, none⟩
def PKG_RAT_BASE_VALID : Field := ⟨0, 0, .rws, none⟩
def PKG_RAT_BASE_POLICY : Field := ⟨2, 1, .rws, none⟩
def PKG_RAT_BASE_PIN : Field := ⟨3, 3, .rws, none⟩
def PKG_RAT_BASE_BASE : Field := ⟨51, 12, .rws, none⟩
def PKG_RAT_LIMIT_WAYS : Field := ⟨11, 0, .rws, none⟩
def PKG_RAT_LIMIT_LIMIT : Field := ⟨51, 12, .rws, none⟩
def FC_STATUS_SAFE : Field := ⟨0, 0, .ro, none⟩
def FC_STATUS_SAFE_RESET_ONLY : Field := ⟨1, 1, .ro, none⟩
def FC_STATUS_CLEAR_FAIL : Field := ⟨2, 2, .w1c, none⟩
def FC_STATUS_CLEAR_FAIL_SRC : Field := ⟨18, 8, .ro, none⟩
def FC_STATUS_UNCAPTURED : Field := ⟨63, 32, .ro, none⟩
def FC_INFO_SOURCE : Field := ⟨10, 0, .ro, none⟩
def FC_INFO_SEV : Field := ⟨14, 12, .ro, none⟩
def FC_INFO_REQ_ID : Field := ⟨31, 16, .ro, none⟩
def FC_INFO_WORLD : Field := ⟨35, 32, .ro, none⟩
def FC_INFO_ACC : Field := ⟨39, 36, .ro, none⟩
def FC_INFO_DETAIL : Field := ⟨55, 40, .ro, none⟩
def FC_INFO_OVERRUN : Field := ⟨62, 62, .w1c, none⟩
def FC_INFO_VALID : Field := ⟨63, 63, .w1c, none⟩
def FC_ADDR_ADDR : Field := ⟨51, 0, .ro, none⟩
def FC_TIME_TIME : Field := ⟨63, 0, .ro, none⟩
def FC_PEND_SUM_PEND : Field := ⟨63, 0, .ro, none⟩
def FC_NOTICE_INFO_SOURCE : Field := ⟨10, 0, .ro, none⟩
def FC_NOTICE_INFO_SEV : Field := ⟨14, 12, .ro, none⟩
def FC_NOTICE_INFO_ACC : Field := ⟨19, 16, .ro, none⟩
def FC_NOTICE_INFO_OVERRUN : Field := ⟨62, 62, .w1c, none⟩
def FC_NOTICE_INFO_VALID : Field := ⟨63, 63, .w1c, none⟩
def FC_NOTICE_ADDR_ADDR : Field := ⟨51, 0, .ro, none⟩
def FC_REPORT_WORD : Field := ⟨63, 0, .wo, none⟩
def FC_SRC_SEV : Field := ⟨2, 0, .rws, none⟩
def FC_SRC_APPLIED : Field := ⟨6, 4, .ro, none⟩
def FC_SRC_PEND : Field := ⟨7, 7, .w1c, none⟩
def FC_SRC_CAUSE : Field := ⟨8, 8, .ro, none⟩
def FC_SRC_COUNT : Field := ⟨47, 16, .ro, none⟩
def EVR_SWTRIG_SOURCE : Field := ⟨10, 0, .wo, none⟩
def EVR_DROP_STATUS_COUNT : Field := ⟨31, 0, .ro, none⟩
def EVR_DROP_STATUS_LAST_SRC : Field := ⟨42, 32, .ro, none⟩
def EVR_DROP_STATUS_REASON : Field := ⟨50, 48, .ro, none⟩
def EVR_DROP_STATUS_CLEAR : Field := ⟨51, 51, .wo, none⟩
def EVR_TIMER_CMP : Field := ⟨62, 0, .rw, none⟩
def EVR_TIMER_ARM : Field := ⟨63, 63, .rw, none⟩
def EVR_SRC_IDENTITY : Field := ⟨10, 0, .rw, none⟩
def EVR_SRC_FILE : Field := ⟨14, 12, .rw, none⟩
def EVR_SRC_HART : Field := ⟨24, 16, .rw, none⟩
def EVR_SRC_OWNER : Field := ⟨35, 32, .ro, none⟩
def EVR_SRC_ENABLE : Field := ⟨36, 36, .rw, none⟩
def EVR_SRC_PENDING : Field := ⟨37, 37, .ro, none⟩
def WLD_CTL_COMMIT : Field := ⟨0, 0, .wo, none⟩
def WLD_CTL_COMMITTED : Field := ⟨1, 1, .ro, none⟩
def WLD_CTL_FORMAT_BUSY : Field := ⟨2, 2, .ro, none⟩
def WLD_CTL_COMMIT_ERR : Field := ⟨3, 3, .w1c, none⟩
def WLD_CTL_SCRUB_INST : Field := ⟨13, 4, .rwl, none⟩
def WLD_VIOL_INFO_REQ_ID : Field := ⟨15, 0, .ro, none⟩
def WLD_VIOL_INFO_WORLD : Field := ⟨19, 16, .ro, none⟩
def WLD_VIOL_INFO_KIND : Field := ⟨23, 20, .ro, none⟩
def WLD_VIOL_INFO_OVERRUN : Field := ⟨62, 62, .w1c, none⟩
def WLD_VIOL_INFO_VALID : Field := ⟨63, 63, .w1c, none⟩
def WLD_VIOL_ADDR_OFFSET : Field := ⟨29, 0, .ro, none⟩
def WLD_VIOL_ADDR_COUNT : Field := ⟨63, 32, .ro, none⟩
def WLD_POT_TABLE_VALID : Field := ⟨0, 0, .rwl, none⟩
def WLD_POT_TABLE_VALUE : Field := ⟨51, 12, .rwl, none⟩
def WLD_POT_SEG_VALUE : Field := ⟨51, 12, .rwl, none⟩
def WLD_POT_OP_OP : Field := ⟨2, 0, .wo, none⟩
def WLD_POT_OP_TO : Field := ⟨7, 4, .rws, none⟩
def WLD_POT_OP_COUNT_M1 : Field := ⟨28, 8, .rws, none⟩
def WLD_POT_OP_PAGE_PAGE : Field := ⟨39, 0, .rws, none⟩
def WLD_POT_STATUS_BUSY : Field := ⟨0, 0, .ro, none⟩
def WLD_POT_STATUS_RESULT : Field := ⟨3, 1, .ro, none⟩
def WLD_POT_STATUS_DONE : Field := ⟨4, 4, .w1c, none⟩
def WLD_POT_STATUS_FAIL_PAGE : Field := ⟨47, 8, .ro, none⟩
def WLD_POT_QUERY_PAGE : Field := ⟨39, 0, .rws, none⟩
def WLD_POT_QUERY_ENTRY : Field := ⟨55, 40, .ro, none⟩
def WLD_POT_QUERY_COVERED : Field := ⟨56, 56, .ro, none⟩
def WLD_POT_QUERY_UNREADABLE : Field := ⟨57, 57, .ro, none⟩
def WLD_PAGES_NORTH : Field := ⟨31, 0, .ro, none⟩
def WLD_PAGES_SOUTH : Field := ⟨63, 32, .ro, none⟩
def WLD_WORLD_CFG_CLEAR_ON_ENTRY : Field := ⟨0, 0, .rws, none⟩
def WLD_WORLD_CFG_GUARD_TILE : Field := ⟨1, 1, .rws, none⟩
def WLD_WORLD_CFG_INV_DBG : Field := ⟨2, 2, .rws, none⟩
def WLD_WORLD_CFG_NINV_DBG : Field := ⟨3, 3, .rws, none⟩
def WLD_WORLD_CFG_INV_EFF : Field := ⟨4, 4, .ro, none⟩
def WLD_WORLD_CFG_NINV_EFF : Field := ⟨5, 5, .ro, none⟩
def WLD_CONSENT_HALLS : Field := ⟨15, 0, .rw, none⟩
def WLD_CONSENT_CLUSTERS : Field := ⟨17, 16, .rw, none⟩
def WLD_PWR_REQ_KIND : Field := ⟨1, 0, .wo, none⟩
def WLD_PWR_REQ_ACTION : Field := ⟨3, 2, .wo, none⟩
def WLD_PWR_REQ_INDEX : Field := ⟨7, 4, .wo, none⟩
def WLD_PWR_STATUS_BUSY : Field := ⟨0, 0, .ro, none⟩
def WLD_PWR_STATUS_RESULT : Field := ⟨3, 1, .ro, none⟩
def WLD_PWR_STATUS_WORLD : Field := ⟨7, 4, .ro, none⟩
def WLD_PWR_STATUS_MISSING : Field := ⟨31, 16, .ro, none⟩
def WLD_DBG_FUSE_FORBID_INV : Field := ⟨15, 0, .ro, none⟩
def WLD_DBG_FUSE_FORBID_NINV : Field := ⟨31, 16, .ro, none⟩
def WLD_DBG_FUSE_LOCKED : Field := ⟨32, 32, .ro, none⟩
def WLD_DBG_GRANT_GRANT_INV : Field := ⟨15, 0, .ro, none⟩
def WLD_DBG_GRANT_GRANT_NINV : Field := ⟨31, 16, .ro, none⟩
def WLD_DBG_GRANT_REVOKE : Field := ⟨32, 32, .wo, none⟩
def WLD_OWN_OWNER : Field := ⟨3, 0, .rwl, none⟩
def WLD_OWN_STATE : Field := ⟨5, 4, .ro, none⟩
def WLD_OWN_NEXT : Field := ⟨11, 8, .ro, none⟩
def WLD_OWN_RESULT : Field := ⟨14, 12, .ro, none⟩
def WLD_OWN_OP : Field := ⟨17, 16, .wo, none⟩
def WLD_OWN_TO : Field := ⟨23, 20, .wo, none⟩
def QOS_CTL_COMMIT : Field := ⟨0, 0, .wo, none⟩
def QOS_CTL_MON_EN : Field := ⟨1, 1, .rws, none⟩
def QOS_CTL_WINDOW : Field := ⟨27, 16, .rws, none⟩
def QOS_CAPACITY_CAPACITY : Field := ⟨15, 0, .rws, none⟩
def QOS_STATUS_RESULT : Field := ⟨2, 0, .ro, none⟩
def QOS_STATUS_BUSY : Field := ⟨3, 3, .ro, none⟩
def QOS_STATUS_SHORTFALL : Field := ⟨4, 4, .ro, none⟩
def QOS_STATUS_WARMUP : Field := ⟨5, 5, .ro, none⟩
def QOS_STATUS_SCALE : Field := ⟨26, 16, .ro, none⟩
def QOS_STATUS_COMMITTED_SUM : Field := ⟨47, 32, .ro, none⟩
def QOS_MISS_MISS : Field := ⟨15, 0, .w1c, none⟩
def QOS_MISS_BANK : Field := ⟨31, 16, .w1c, none⟩
def QOS_CLASS_GUAR : Field := ⟨15, 0, .rws, none⟩
def QOS_CLASS_LIMIT : Field := ⟨31, 16, .rws, none⟩
def QOS_CLASS_BURST : Field := ⟨43, 32, .rws, none⟩
def QOS_CLASS_DOMAIN : Field := ⟨45, 44, .rws, none⟩
def QOS_LABEL_MAP_CLASS : Field := ⟨3, 0, .rws, none⟩
def QOS_BYTES_BYTES : Field := ⟨47, 0, .ro, none⟩
def UZ_STATUS_STAGE : Field := ⟨3, 0, .ro, none⟩
def UZ_STATUS_FIRST_LIFE : Field := ⟨4, 4, .ro, none⟩
def UZ_STATUS_LR_LOST : Field := ⟨5, 5, .ro, none⟩
def UZ_STATUS_FW_SLOT : Field := ⟨6, 6, .ro, none⟩
def UZ_STATUS_TRAIN_FULL : Field := ⟨31, 16, .ro, none⟩
def UZ_STATUS_WDOG_COUNT : Field := ⟨47, 32, .ro, none⟩
def UZ_CTL_PKG_RESET : Field := ⟨0, 0, .wo, none⟩
def UZ_THERM_CFG_TJ_TARGET : Field := ⟨7, 0, .rws, some (70, 105)⟩
def UZ_THERM_CFG_DIMM_STEP_PCT : Field := ⟨15, 8, .rws, some (1, 25)⟩
def UZ_THERM_CFG_HOTTEST_C : Field := ⟨23, 16, .ro, none⟩
def UZ_THERM_CFG_HOTTEST_DIE : Field := ⟨27, 24, .ro, none⟩
def UZ_LR_STATUS_HALF : Field := ⟨0, 0, .ro, none⟩
def UZ_LR_STATUS_COMPACTING : Field := ⟨1, 1, .ro, none⟩
def UZ_LR_STATUS_RECORDS : Field := ⟨31, 16, .ro, none⟩
def UZ_LR_STATUS_GEN : Field := ⟨47, 32, .ro, none⟩
def UZ_LR_STATUS_TORN : Field := ⟨55, 48, .ro, none⟩
def UZ_LR_READ_INDEX : Field := ⟨15, 0, .rw, none⟩
def UZ_LR_READ_VALID : Field := ⟨16, 16, .ro, none⟩
def UZ_LR_DATA_DATA : Field := ⟨63, 0, .ro, none⟩
def CD_ARR_SEL_ARRAY : Field := ⟨7, 0, .rw, none⟩
def CD_ARR_SEL_UNIT : Field := ⟨12, 8, .rw, none⟩
/-- UNIT in the other ARR_SEL registers: always 0 (R324). -/
def ARR_SEL_UNIT : Field := ⟨12, 8, .ro, none⟩
def CD_ARR_SEL_BANK : Field := ⟨19, 16, .rw, none⟩
def CD_ARR_STATUS_CORR : Field := ⟨15, 0, .ro, none⟩
def CD_ARR_STATUS_MEND_DROPS : Field := ⟨23, 16, .ro, none⟩
def CD_ARR_STATUS_SPARES_USED : Field := ⟨27, 24, .ro, none⟩
def CD_ARR_STATUS_WAYS_DISABLED : Field := ⟨30, 28, .ro, none⟩
def CD_ARR_STATUS_FULL : Field := ⟨31, 31, .ro, none⟩
def CD_ARR_STATUS_UNCORR : Field := ⟨47, 32, .ro, none⟩
def UZ_MBX_CTL_LEN : Field := ⟨7, 0, .rw, none⟩
def UZ_MBX_CTL_GO : Field := ⟨8, 8, .wo, none⟩
def UZ_MBX_CTL_BUSY : Field := ⟨9, 9, .ro, none⟩
def UZ_MBX_CTL_REFUSED : Field := ⟨10, 10, .w1c, none⟩
def UZ_MBX_DATA_WORD : Field := ⟨63, 0, .rw, none⟩
def PAIR_CFG_HB_PERIOD_US : Field := ⟨15, 0, .rws, some (10, 10000)⟩
def PAIR_CFG_HB_TIMEOUT_US : Field := ⟨31, 16, .rws, none⟩
def PAIR_CFG_LABEL : Field := ⟨37, 32, .rws, none⟩
def PAIR_CFG_LAG_MAX_US : Field := ⟨59, 40, .rws, some (10, 1000000)⟩
def PAIR_CTL_COMMIT : Field := ⟨0, 0, .wo, none⟩
def PAIR_CTL_FORCE_SOURCE : Field := ⟨1, 1, .wo, none⟩
def PAIR_STATUS_STATE : Field := ⟨2, 0, .ro, none⟩
def PAIR_STATUS_SOURCE : Field := ⟨3, 3, .ro, none⟩
def PAIR_STATUS_ROLE : Field := ⟨5, 4, .ro, none⟩
def PAIR_STATUS_HEARD : Field := ⟨6, 6, .ro, none⟩
def PAIR_STATUS_ALIVE : Field := ⟨7, 7, .ro, none⟩
def PAIR_STATUS_LINKS : Field := ⟨9, 8, .ro, none⟩
def PAIR_STATUS_CFG_MATCH : Field := ⟨10, 10, .ro, none⟩
def PAIR_STATUS_RESULT : Field := ⟨13, 11, .ro, none⟩
def PAIR_STATUS_DONE : Field := ⟨14, 14, .w1c, none⟩
def PAIR_PARTNER_SERIAL_SERIAL : Field := ⟨63, 0, .ro, none⟩
def PAIR_DIRTY_BASE_BASE : Field := ⟨51, 12, .rws, none⟩
def PAIR_RESYNC_STATUS_PAGES_LEFT : Field := ⟨39, 0, .ro, none⟩
def PAIR_REGION_BASE_MODE : Field := ⟨1, 0, .rws, none⟩
def PAIR_REGION_BASE_PAGE : Field := ⟨51, 12, .rws, none⟩
def PAIR_REGION_PAGE : Field := ⟨51, 12, .rws, none⟩
def PAIR_REGION_STATUS_LAGGING : Field := ⟨0, 0, .ro, none⟩
def PAIR_REGION_STATUS_TARGET : Field := ⟨1, 1, .ro, none⟩
def PAIR_REGION_STATUS_LAG_US : Field := ⟨31, 8, .ro, none⟩
def PAIR_REGION_STATUS_DIRTY_PAGES : Field := ⟨63, 32, .ro, none⟩
def GAL_ID_X : Field := ⟨2, 0, .rws, none⟩
def GAL_ID_Y : Field := ⟨5, 3, .rws, none⟩
def GAL_PORT_CTL_DIS_A0 : Field := ⟨0, 0, .rws, none⟩
def GAL_PORT_CTL_DIS_A1 : Field := ⟨1, 1, .rws, none⟩
def GAL_FENCE_CTL_CMD : Field := ⟨1, 0, .wo, none⟩
def GAL_FENCE_CTL_PORT : Field := ⟨2, 2, .rws, none⟩
def GAL_FENCE_CTL_FENCE_LIMIT : Field := ⟨39, 16, .rws, some (1000, 16777215)⟩
def GAL_FENCE_STATUS_STATE_A0 : Field := ⟨1, 0, .ro, none⟩
def GAL_FENCE_STATUS_STATE_A1 : Field := ⟨3, 2, .ro, none⟩
def GAL_FENCE_STATUS_REFUSED : Field := ⟨4, 4, .w1c, none⟩
def GAL_FENCE_STATUS_UNAVAIL_COUNT : Field := ⟨31, 16, .ro, none⟩
def GAL_FENCE_STATUS_HELD : Field := ⟨37, 32, .ro, none⟩
def GAL_ERR_STATUS_CORR : Field := ⟨15, 0, .ro, none⟩
def GAL_ERR_STATUS_UNCORR_DATA : Field := ⟨31, 16, .ro, none⟩
def GAL_ERR_STATUS_HDR_UNCORR : Field := ⟨32, 32, .w1c, none⟩
def GAL_ERR_STATUS_HDR_PORT : Field := ⟨35, 33, .ro, none⟩
def GAL_PRB_CTL_EN : Field := ⟨0, 0, .rws, none⟩
def GAL_PRB_CTL_TRACE : Field := ⟨1, 1, .rws, none⟩
def GAL_PRB_CTL_WRAP : Field := ⟨2, 2, .rws, none⟩
def GAL_PRB_CTL_IN_MASK : Field := ⟨8, 3, .rws, none⟩
def GAL_PRB_CTL_TRACE_WORLD : Field := ⟨12, 9, .rws, none⟩
def GAL_PRB_CTL_TRACE_LABEL : Field := ⟨18, 13, .rws, none⟩
def GAL_PRB_CTL_FULL : Field := ⟨32, 32, .w1c, none⟩
def GAL_PRB_CTL_TERR : Field := ⟨33, 33, .w1c, none⟩
def GAL_PRB_CTL_TDROP : Field := ⟨63, 48, .ro, none⟩
def GAL_PRB_FILTER_PLANES : Field := ⟨2, 0, .rws, none⟩
def GAL_PRB_FILTER_CMD_VAL : Field := ⟨10, 3, .rws, none⟩
def GAL_PRB_FILTER_CMD_EN : Field := ⟨11, 11, .rws, none⟩
def GAL_PRB_FILTER_WORLD_VAL : Field := ⟨15, 12, .rws, none⟩
def GAL_PRB_FILTER_WORLD_EN : Field := ⟨16, 16, .rws, none⟩
def GAL_PRB_FILTER_LABEL_VAL : Field := ⟨22, 17, .rws, none⟩
def GAL_PRB_FILTER_LABEL_MASK : Field := ⟨28, 23, .rws, none⟩
def GAL_PRB_FILTER_ADDR_EN : Field := ⟨29, 29, .rws, none⟩
def GAL_PRB_REQ_REQ_VAL : Field := ⟨15, 0, .rws, none⟩
def GAL_PRB_REQ_REQ_MASK : Field := ⟨31, 16, .rws, none⟩
def GAL_PRB_LINE : Field := ⟨51, 6, .rws, none⟩
def GAL_PRB_TPTR_NEXT : Field := ⟨51, 6, .rws, none⟩
def GAL_PRB_CNT_COUNT : Field := ⟨47, 0, .rws, none⟩
def HALL_FLIGHT_STATUS_IN_SERVICE : Field := ⟨0, 0, .ro, none⟩
def HALL_FLIGHT_STATUS_REFRESH_X2 : Field := ⟨1, 1, .ro, none⟩
def HALL_FLIGHT_STATUS_THROTTLE : Field := ⟨2, 2, .ro, none⟩
def HALL_FLIGHT_STATUS_WARMUP : Field := ⟨3, 3, .ro, none⟩
def HALL_FLIGHT_STATUS_MTS_100 : Field := ⟨15, 8, .ro, none⟩
def HALL_FLIGHT_STATUS_MAINT : Field := ⟨26, 16, .ro, none⟩
def HALL_FLIGHT_STATUS_GUAR : Field := ⟨42, 32, .ro, none⟩
def HALL_FLIGHT_STATUS_OPEN : Field := ⟨58, 48, .ro, none⟩
def HALL_CLASS_STAT_TREADS : Field := ⟨10, 0, .ro, none⟩
def HALL_CLASS_STAT_LAST_WIN : Field := ⟨38, 16, .ro, none⟩
def HALL_CLASS_STAT_LAST_BACKLOG : Field := ⟨39, 39, .ro, none⟩
def HALL_CLASS_STAT_LAST_MISS : Field := ⟨40, 40, .ro, none⟩
def HALL_CLASS_STAT_MISSES : Field := ⟨63, 48, .ro, none⟩
def HALL_CLASS_BYTES_BYTES : Field := ⟨47, 0, .ro, none⟩
def LND_CTL_CMD : Field := ⟨2, 0, .wo, none⟩
def LND_STATUS_MODE : Field := ⟨1, 0, .ro, none⟩
def LND_STATUS_BUSY : Field := ⟨2, 2, .ro, none⟩
def LND_STATUS_DARK_SEEN : Field := ⟨3, 3, .ro, none⟩
def LND_STATUS_REFUSED : Field := ⟨4, 4, .w1c, none⟩
def LND_STATUS_FORCED : Field := ⟨5, 5, .ro, none⟩
def CME_BASE_BASE : Field := ⟨51, 6, .rw, none⟩
def CME_LIMIT_LIMIT : Field := ⟨51, 6, .rw, none⟩
def HALL_MNT_CTL_OP : Field := ⟨1, 0, .rw, none⟩
def HALL_MNT_CTL_START : Field := ⟨4, 4, .wo, none⟩
def HALL_MNT_CTL_ABORT : Field := ⟨5, 5, .wo, none⟩
def CME_STATUS_BUSY : Field := ⟨0, 0, .ro, none⟩
def CME_STATUS_RESULT : Field := ⟨3, 1, .ro, none⟩
def CME_STATUS_DONE : Field := ⟨4, 4, .w1c, none⟩
def CME_STATUS_START_REFUSED : Field := ⟨5, 5, .w1c, none⟩
def CME_STATUS_WB_LINES : Field := ⟨47, 16, .ro, none⟩
def CME_STATUS_WORLD : Field := ⟨51, 48, .ro, none⟩
def HALL_DIR_STATUS_PURGE_BUSY : Field := ⟨0, 0, .ro, none⟩
def HALL_DIR_STATUS_PURGE_DIE : Field := ⟨7, 4, .ro, none⟩
def HALL_DIR_STATUS_BCAST_ENTRIES : Field := ⟨36, 16, .ro, none⟩
def HALL_DIR_COUNT_STALE_WB : Field := ⟨15, 0, .ro, none⟩
def HALL_DIR_COUNT_POISONED : Field := ⟨31, 16, .ro, none⟩
def HALL_DIR_COUNT_BACK_INV : Field := ⟨63, 32, .ro, none⟩
def HALL_DRAM_STATUS_CE : Field := ⟨31, 0, .ro, none⟩
def HALL_DRAM_STATUS_UE : Field := ⟨47, 32, .ro, none⟩
def HALL_DRAM_STATUS_POISON_WRITTEN : Field := ⟨63, 48, .ro, none⟩
/-- DEV_i of HALL_DRAM_DEV, 10 fields of 6 bits. -/
def HALL_DRAM_DEV_DEV (i : Nat) : Field := ⟨6 * i + 5, 6 * i, .ro, none⟩
def HALL_PATROL_CFG_PERIOD_H : Field := ⟨7, 0, .rws, some (1, 168)⟩
def HALL_PATROL_CFG_EN : Field := ⟨8, 8, .rws, none⟩
def HALL_PATROL_STATUS_POS : Field := ⟨31, 0, .ro, none⟩
def HALL_PATROL_STATUS_PASSES : Field := ⟨47, 32, .ro, none⟩
def HALL_PATROL_STATUS_REPAIRED : Field := ⟨63, 48, .ro, none⟩
def HALL_DRAM_CTL_CMD : Field := ⟨1, 0, .wo, none⟩
def HALL_DRAM_CTL_BUSY : Field := ⟨2, 2, .ro, none⟩
def HALL_DRAM_CTL_REFUSED : Field := ⟨3, 3, .w1c, none⟩
def HALL_DRAM_CTL_DISCARDED : Field := ⟨51, 20, .ro, none⟩
def JL_CFG_REPLAY_TIMEOUT : Field := ⟨15, 0, .rws, some (200, 65535)⟩
def JL_CFG_FAIL_CONSEC : Field := ⟨23, 16, .ro, none⟩
def JL_CFG_FAIL_RATE : Field := ⟨39, 24, .ro, none⟩
def JL_STATUS_STATE : Field := ⟨2, 0, .ro, none⟩
def JL_STATUS_UP_SPARE0 : Field := ⟨10, 4, .ro, none⟩
def JL_STATUS_UP_SPARE1 : Field := ⟨17, 11, .ro, none⟩
def JL_STATUS_DN_SPARE0 : Field := ⟨24, 18, .ro, none⟩
def JL_STATUS_DN_SPARE1 : Field := ⟨31, 25, .ro, none⟩
def JL_STATUS_FAIL_CAUSE : Field := ⟨34, 32, .ro, none⟩
def JL_STATUS_FAILED_SEEN : Field := ⟨35, 35, .w1c, none⟩
def JL_RETRY_RETRIES : Field := ⟨31, 0, .ro, none⟩
def JL_RETRY_BURSTS : Field := ⟨47, 32, .ro, none⟩
def JL_RETRY_MAX_CONSEC : Field := ⟨55, 48, .ro, none⟩
def PORT_CFG_BIFUR : Field := ⟨1, 0, .rwl, none⟩
def PORT_CFG_EP : Field := ⟨7, 4, .rwl, none⟩
def PORT_CFG_CXL : Field := ⟨11, 8, .rwl, none⟩
def PORT_CFG_MAX_RATE : Field := ⟨14, 12, .rwl, none⟩
def PORT_CTL_COMMIT : Field := ⟨0, 0, .wo, none⟩
def PORT_CTL_COMMITTED : Field := ⟨1, 1, .ro, none⟩
def PORT_CTL_COMMIT_ERR : Field := ⟨2, 2, .w1c, none⟩
def PORT_CTL_RESTART : Field := ⟨7, 4, .wo, none⟩
def PORT_CTL_STOPPED : Field := ⟨11, 8, .ro, none⟩
def PORT_STATUS_LINK_UP : Field := ⟨0, 0, .ro, none⟩
def PORT_STATUS_RATE : Field := ⟨3, 1, .ro, none⟩
def PORT_STATUS_WIDTH : Field := ⟨8, 4, .ro, none⟩
def PORT_STATUS_FLIT : Field := ⟨9, 9, .ro, none⟩
def PORT_STATUS_CXL_UP : Field := ⟨10, 10, .ro, none⟩
def PORT_STATUS_DSTATE : Field := ⟨12, 11, .ro, none⟩
def PORT_ECAM_VALID : Field := ⟨0, 0, .rws, none⟩
def PORT_ECAM_BUS_MAX : Field := ⟨15, 8, .rws, none⟩
def PORT_ECAM_BASE : Field := ⟨51, 28, .rws, none⟩
def PORT_CXL_BASE_VALID : Field := ⟨0, 0, .rwl, none⟩
def PORT_CXL_BASE_ADDR : Field := ⟨51, 28, .rwl, none⟩
def PORT_CXL_LIMIT_ADDR : Field := ⟨51, 28, .rwl, none⟩
def PORT_EP_CFG_BAR2_LOG2 : Field := ⟨5, 0, .rwl, some (30, 40)⟩
def PORT_EP_CFG_VF_BAR2_LOG2 : Field := ⟨13, 8, .rwl, some (20, 36)⟩
def PORT_EP_CFG_TOTAL_VFS : Field := ⟨23, 16, .rwl, none⟩
def PORT_WIN_CTL_COMMIT : Field := ⟨0, 0, .wo, none⟩
def PORT_WIN_CTL_WINDOW_DRAIN : Field := ⟨1, 1, .rws, none⟩
def PORT_WIN_CTL_BUSY : Field := ⟨2, 2, .ro, none⟩
def PORT_WIN_CTL_RESULT : Field := ⟨5, 3, .ro, none⟩
def PORT_WIN_CTL_DONE : Field := ⟨6, 6, .w1c, none⟩
def PORT_SLOT_IN : Field := ⟨7, 0, .ro, none⟩
def PORT_SLOT_OUT : Field := ⟨15, 8, .ro, none⟩
def PORT_SLOT_BAD_FRAMES : Field := ⟨31, 16, .ro, none⟩
def PORT_SLOT_SSB_FAIL : Field := ⟨32, 32, .w1c, none⟩
def PORT_CT_CT_US : Field := ⟨21, 0, .rws, some (50, 4000000)⟩
def PORT_ERR_CT_COUNT : Field := ⟨15, 0, .ro, none⟩
def PORT_ERR_LATE_CPL : Field := ⟨31, 16, .ro, none⟩
def PORT_ERR_RETIRED : Field := ⟨41, 32, .ro, none⟩
def PORT_ERR_INTX_DROPS : Field := ⟨63, 48, .ro, none⟩
def PORT_MWIN_BASE_VALID : Field := ⟨0, 0, .rws, none⟩
def PORT_MWIN_BASE_PORT : Field := ⟨2, 1, .rws, none⟩
def PORT_MWIN_BASE_BASE : Field := ⟨51, 12, .rws, none⟩
def PORT_MWIN_LIMIT_FN : Field := ⟨7, 0, .rws, none⟩
def PORT_MWIN_LIMIT_LIMIT : Field := ⟨51, 12, .rws, none⟩
def PORT_FN_CFG_LABEL : Field := ⟨5, 0, .rws, none⟩
def PORT_FN_CFG_RID_VALID : Field := ⟨8, 8, .rws, none⟩
def PORT_FN_CFG_FLR_CAP : Field := ⟨9, 9, .rws, none⟩
def PORT_FN_CFG_FLR : Field := ⟨10, 10, .wo, none⟩
def PORT_FN_CFG_FLR_BUSY : Field := ⟨11, 11, .ro, none⟩
def PORT_FN_CFG_RID : Field := ⟨31, 16, .rws, none⟩
def PORT_FN_WIN_VALID : Field := ⟨0, 0, .rws, none⟩
def PORT_FN_WIN_TARGET : Field := ⟨51, 20, .rws, none⟩
def SE_CL_CFG_DRAIN_LIMIT : Field := ⟨23, 0, .rws, some (1000, 16777215)⟩
def SE_ENG_STATUS_IN_SERVICE : Field := ⟨0, 0, .ro, none⟩
def SE_ENG_STATUS_ACTIVE : Field := ⟨6, 1, .ro, none⟩
def SE_ENG_STATUS_SEGMENTS : Field := ⟨63, 16, .ro, none⟩
def SE_INST_CFG_TYPE : Field := ⟨2, 0, .rw, none⟩
def SE_INST_CFG_LOG2 : Field := ⟨8, 4, .rw, none⟩
def SE_INST_CFG_BIND_VALID : Field := ⟨16, 16, .rw, none⟩
def SE_INST_CFG_BIND_STATION : Field := ⟨20, 17, .rw, none⟩
def SE_INST_CFG_BIND_FN : Field := ⟨28, 21, .rw, none⟩
def SE_INST_CFG_BIND_PAGE : Field := ⟨41, 29, .rw, none⟩
def SE_INST_CFG_VEC : Field := ⟨55, 45, .rw, none⟩
def SE_INST_RING_BASE : Field := ⟨63, 12, .rw, none⟩
def SE_INST_DLV_VALID : Field := ⟨0, 0, .rw, none⟩
def SE_INST_DLV_BASE : Field := ⟨63, 12, .rw, none⟩
def SE_INST_SHARE_WEIGHT : Field := ⟨7, 0, .rw, none⟩
def SE_INST_SHARE_CAP : Field := ⟨14, 8, .rw, some (1, 64)⟩
def SE_INST_SHARE_LABEL : Field := ⟨21, 16, .rw, none⟩
def SE_INST_CTL_CMD : Field := ⟨1, 0, .wo, none⟩
def SE_INST_STATUS_STATE : Field := ⟨2, 0, .ro, none⟩
def SE_INST_STATUS_REFUSED : Field := ⟨3, 3, .w1c, none⟩
def SE_INST_STATUS_RESET_DONE : Field := ⟨4, 4, .w1c, none⟩
def SE_INST_STATUS_ERR_CAUSE : Field := ⟨11, 8, .ro, none⟩
def SE_INST_STATUS_HEAD : Field := ⟨31, 16, .ro, none⟩
def SE_INST_STATUS_INFLIGHT : Field := ⟨38, 32, .ro, none⟩
def SE_INST_STATUS_COMPLETED : Field := ⟨63, 40, .ro, none⟩
def SE_DB_TAIL_INDEX : Field := ⟨15, 0, .rw, none⟩
def SE_DB_CPL_HEAD_INDEX : Field := ⟨15, 0, .rw, none⟩
def SE_DB_RETURN_INDEX : Field := ⟨15, 0, .wo, none⟩
def SE_DB_DLV_TAIL_INDEX : Field := ⟨15, 0, .ro, none⟩
/-- PHYS_i of CD_CORE_MAP_0, 12 fields of 5 bits. -/
def CD_CORE_MAP_0_PHYS (i : Nat) : Field := ⟨5 * i + 4, 5 * i, .ro, none⟩
/-- PHYS_i of CD_CORE_MAP_1, 12 fields of 5 bits. -/
def CD_CORE_MAP_1_PHYS (i : Nat) : Field := ⟨5 * i + 4, 5 * i, .ro, none⟩
def CD_CORE_STATUS_PHYS_FAILED : Field := ⟨25, 0, .ro, none⟩
def CD_CORE_STATUS_SPARES_FREE : Field := ⟨33, 32, .ro, none⟩
def CD_CORE_STATUS_ABSENT : Field := ⟨44, 40, .ro, none⟩
def CD_CORE_STATUS_SUBST_RESET : Field := ⟨55, 48, .ro, none⟩
def CD_PACER_CFG_RATE : Field := ⟨7, 0, .rws, some (5, 200)⟩
def CD_PACER_CFG_ICC_MAX : Field := ⟨15, 8, .rws, some (20, 90)⟩
def CD_PACER_CFG_PACE_EN : Field := ⟨16, 16, .rws, none⟩
def CD_PACER_CFG_DROOP_EN : Field := ⟨17, 17, .rws, none⟩
def CD_PACER_STATUS_EST_A : Field := ⟨7, 0, .ro, none⟩
def CD_PACER_STATUS_ALLOW_A : Field := ⟨15, 8, .ro, none⟩
def CD_PACER_STATUS_LIMITING : Field := ⟨16, 16, .ro, none⟩
def CD_PACER_STATUS_EMERGENCY : Field := ⟨17, 17, .ro, none⟩
def CD_PACER_STATUS_CAP_A : Field := ⟨31, 24, .ro, none⟩
def CD_PACER_STATUS_PACED_US : Field := ⟨63, 32, .ro, none⟩
def CD_SUPPLY_CFG_DROOP_MARK_MV : Field := ⟨9, 0, .rws, some (500, 900)⟩
def CD_SUPPLY_CFG_VSET_MIN_MV : Field := ⟨25, 16, .rws, some (550, 950)⟩
def CD_SUPPLY_STATUS_V_NOW_MV : Field := ⟨9, 0, .ro, none⟩
def CD_SUPPLY_STATUS_V_MIN_MV : Field := ⟨25, 16, .ro, none⟩
def CD_SUPPLY_STATUS_DROOP_COUNT : Field := ⟨47, 32, .ro, none⟩
def CD_SUPPLY_STATUS_BROWNOUT : Field := ⟨48, 48, .w1c, none⟩
def CD_SUPPLY_STATUS_RETENTION_LOST : Field := ⟨49, 49, .w1c, none⟩
def CD_SUPPLY_STATUS_BELOW_FUNC : Field := ⟨50, 50, .ro, none⟩
def CD_SUPPLY_STATUS_V_MIN_RESET : Field := ⟨51, 51, .wo, none⟩
def CD_RESET_VECTOR_ADDR : Field := ⟨51, 2, .rws, none⟩
def CD_CORE_CTL_RESET : Field := ⟨0, 0, .wo, none⟩
def CD_CORE_CTL_MSIP : Field := ⟨1, 1, .rws, none⟩
def CD_CORE_CTL_POWER_OFF : Field := ⟨2, 2, .rws, none⟩
def CD_CORE_CTL_BUSY : Field := ⟨8, 8, .ro, none⟩
def CD_CORE_CTL_OFF : Field := ⟨9, 9, .ro, none⟩
def CD_CORE_CTL_OFFLINE : Field := ⟨10, 10, .ro, none⟩
def CD_MTIMECMP_CMP : Field := ⟨63, 0, .rws, none⟩
/-- OWN_i of CD_IMSIC_OWNER, 8 fields of 4 bits. -/
def CD_IMSIC_OWNER_OWN (i : Nat) : Field := ⟨4 * i + 3, 4 * i, .rws, none⟩
def CME_CTL_OP : Field := ⟨1, 0, .rw, none⟩
def CME_CTL_LND : Field := ⟨2, 2, .rw, none⟩
def CME_CTL_L2 : Field := ⟨3, 3, .rw, none⟩
def CME_CTL_START : Field := ⟨4, 4, .wo, none⟩
def CME_CTL_ABORT : Field := ⟨5, 5, .wo, none⟩
def CME_CTL_CORES : Field := ⟨31, 8, .rw, none⟩

end F

/-- The offset of a register in register space (R433 and the locator lines). -/
def Reg.offset : Reg → Nat
  | .PKG_ID => 0x0 + 0x0
  | .PKG_SERIAL => 0x0 + 0x8
  | .PKG_CTL => 0x0 + 0x10
  | .PKG_ADDR_MAP => 0x0 + 0x100
  | .PKG_TIME => 0x0 + 0x200
  | .PKG_TIME_STATUS => 0x0 + 0x208
  | .PKG_PACER_CFG => 0x0 + 0x210
  | .PKG_POWER_CFG => 0x0 + 0x218
  | .PKG_POWER_STATUS => 0x0 + 0x220
  | .PKG_RAT_CTL => 0x0 + 0x300
  | .PKG_COH_CFG => 0x0 + 0x400
  | .PKG_DIE_CTL i => 0x0 + 0x500 + i * 0x10
  | .PKG_DIE_STATUS i => 0x0 + 0x508 + i * 0x10
  | .PKG_DIE_CFG => 0x0 + 0x600
  | .PKG_CAP_COMMON => 0x0 + 0x608
  | .PKG_DIE_SERIAL i => 0x0 + 0x700 + i * 0x8
  | .PKG_DIE_CAP i => 0x0 + 0x780 + i * 0x8
  | .PKG_RAT_BASE i => 0x0 + 0x1000 + i * 0x10
  | .PKG_RAT_LIMIT i => 0x0 + 0x1008 + i * 0x10
  | .FC_STATUS => 0x10000 + 0x8
  | .FC_FIRST_INFO => 0x10000 + 0x100
  | .FC_FIRST_ADDR => 0x10000 + 0x108
  | .FC_FIRST_TIME => 0x10000 + 0x110
  | .FC_ESC_INFO => 0x10000 + 0x120
  | .FC_ESC_ADDR => 0x10000 + 0x128
  | .FC_ESC_TIME => 0x10000 + 0x130
  | .FC_PEND_SUM i => 0x10000 + 0x200 + i * 0x8
  | .FC_NOTICE_INFO i => 0x10000 + 0x400 + i * 0x10
  | .FC_NOTICE_ADDR i => 0x10000 + 0x408 + i * 0x10
  | .FC_REPORT i => 0x10000 + 0x800 + i * 0x8
  | .FC_SRC n => 0x10000 + 0x1000 + n * 0x8
  | .EVR_SWTRIG => 0x20000 + 0x100
  | .EVR_DROP_STATUS => 0x20000 + 0x110
  | .EVR_TIMER i => 0x20000 + 0x1000 + i * 0x8
  | .EVR_SRC n => 0x20000 + 0x4000 + n * 0x8
  | .WLD_CTL => 0x30000 + 0x0
  | .WLD_VIOL_INFO => 0x30000 + 0x10
  | .WLD_VIOL_ADDR => 0x30000 + 0x18
  | .WLD_POT_TABLE i => 0x30000 + 0x100 + i * 0x20
  | .WLD_POT_FIRST i => 0x30000 + 0x108 + i * 0x20
  | .WLD_POT_LAST i => 0x30000 + 0x110 + i * 0x20
  | .WLD_POT_OP => 0x30000 + 0x200
  | .WLD_POT_OP_PAGE => 0x30000 + 0x208
  | .WLD_POT_STATUS => 0x30000 + 0x210
  | .WLD_POT_QUERY => 0x30000 + 0x218
  | .WLD_PAGES i => 0x30000 + 0x300 + i * 0x8
  | .WLD_WORLD_CFG i => 0x30000 + 0x400 + i * 0x8
  | .WLD_CONSENT i => 0x30000 + 0x480 + i * 0x8
  | .WLD_PWR_REQ => 0x30000 + 0x500
  | .WLD_PWR_STATUS => 0x30000 + 0x508
  | .WLD_DBG_FUSE => 0x30000 + 0x600
  | .WLD_DBG_GRANT => 0x30000 + 0x608
  | .WLD_FN_OWN i => 0x30000 + 0x2000 + i * 0x8
  | .WLD_INST_OWN i => 0x30000 + 0x8000 + i * 0x8
  | .WLD_MBX_OWN i => 0x30000 + 0xa000 + i * 0x8
  | .WLD_SRC_OWN i => 0x30000 + 0xb000 + i * 0x8
  | .WLD_UZMB_OWN i => 0x30000 + 0xf000 + i * 0x8
  | .QOS_CTL => 0x40000 + 0x0
  | .QOS_CAPACITY => 0x40000 + 0x8
  | .QOS_STATUS => 0x40000 + 0x10
  | .QOS_MISS => 0x40000 + 0x18
  | .QOS_CLASS i => 0x40000 + 0x100 + i * 0x8
  | .QOS_LABEL_MAP i => 0x40000 + 0x200 + i * 0x8
  | .QOS_BYTES i => 0x40000 + 0x400 + i * 0x8
  | .UZ_STATUS => 0x50000 + 0x0
  | .UZ_CTL => 0x50000 + 0x8
  | .UZ_THERM_CFG => 0x50000 + 0x10
  | .UZ_LR_STATUS => 0x50000 + 0x100
  | .UZ_LR_READ => 0x50000 + 0x108
  | .UZ_LR_DATA i => 0x50000 + 0x200 + i * 0x8
  | .UZ_ARR_SEL => 0x50000 + 0xf00
  | .UZ_ARR_STATUS => 0x50000 + 0xf08
  | .UZ_MBX_CTL i => 0x50000 + 0x1000 + i * 0x200
  | .UZ_MBX_DATA i j => 0x50000 + 0x1100 + i * 0x200 + j * 8
  | .PAIR_CFG => 0x60000 + 0x0
  | .PAIR_CTL => 0x60000 + 0x8
  | .PAIR_STATUS => 0x60000 + 0x10
  | .PAIR_PARTNER_SERIAL => 0x60000 + 0x18
  | .PAIR_DIRTY_BASE => 0x60000 + 0x20
  | .PAIR_RESYNC_STATUS => 0x60000 + 0x28
  | .PAIR_REGION_BASE i => 0x60000 + 0x100 + i * 0x20
  | .PAIR_REGION_LIMIT i => 0x60000 + 0x108 + i * 0x20
  | .PAIR_REGION_REMOTE i => 0x60000 + 0x110 + i * 0x20
  | .PAIR_REGION_STATUS i => 0x60000 + 0x118 + i * 0x20
  | .GAL_ID r => 0x1000000 + r * 0x10000 + 0x0
  | .GAL_PORT_CTL r => 0x1000000 + r * 0x10000 + 0x8
  | .GAL_FENCE_CTL r => 0x1000000 + r * 0x10000 + 0x100
  | .GAL_FENCE_STATUS r => 0x1000000 + r * 0x10000 + 0x108
  | .GAL_ERR_STATUS r => 0x1000000 + r * 0x10000 + 0x200
  | .GAL_PRB_CTL r => 0x1000000 + r * 0x10000 + 0x300
  | .GAL_PRB_FILTER r => 0x1000000 + r * 0x10000 + 0x308
  | .GAL_PRB_REQ r => 0x1000000 + r * 0x10000 + 0x310
  | .GAL_PRB_ADDR_LO r => 0x1000000 + r * 0x10000 + 0x318
  | .GAL_PRB_ADDR_HI r => 0x1000000 + r * 0x10000 + 0x320
  | .GAL_PRB_TBASE r => 0x1000000 + r * 0x10000 + 0x328
  | .GAL_PRB_TLIMIT r => 0x1000000 + r * 0x10000 + 0x330
  | .GAL_PRB_TPTR r => 0x1000000 + r * 0x10000 + 0x338
  | .GAL_PRB_CNT r i => 0x1000000 + r * 0x10000 + 0x340 + i * 0x8
  | .HALL_FLIGHT_STATUS n => 0x2000000 + n * 0x100000 + 0x100
  | .HALL_CLASS_STAT n i => 0x2000000 + n * 0x100000 + 0x200 + i * 0x10
  | .HALL_CLASS_BYTES n i => 0x2000000 + n * 0x100000 + 0x208 + i * 0x10
  | .HALL_CACHE_CTL n => 0x2000000 + n * 0x100000 + 0x1000
  | .HALL_CACHE_STATUS n => 0x2000000 + n * 0x100000 + 0x1008
  | .HALL_MNT_BASE n => 0x2000000 + n * 0x100000 + 0x1100
  | .HALL_MNT_LIMIT n => 0x2000000 + n * 0x100000 + 0x1108
  | .HALL_MNT_CTL n => 0x2000000 + n * 0x100000 + 0x1110
  | .HALL_MNT_STATUS n => 0x2000000 + n * 0x100000 + 0x1118
  | .HALL_DIR_STATUS n => 0x2000000 + n * 0x100000 + 0x1200
  | .HALL_DIR_COUNT n => 0x2000000 + n * 0x100000 + 0x1208
  | .HALL_ARR_SEL n => 0x2000000 + n * 0x100000 + 0x1400
  | .HALL_ARR_STATUS n => 0x2000000 + n * 0x100000 + 0x1408
  | .HALL_DRAM_STATUS n => 0x2000000 + n * 0x100000 + 0x1500
  | .HALL_DRAM_DEV n i => 0x2000000 + n * 0x100000 + 0x1508 + i * 0x8
  | .HALL_PATROL_CFG n => 0x2000000 + n * 0x100000 + 0x1600
  | .HALL_PATROL_STATUS n => 0x2000000 + n * 0x100000 + 0x1608
  | .HALL_DRAM_CTL n => 0x2000000 + n * 0x100000 + 0x1700
  | .JL_CFG k => 0x3000000 + k * 0x10000 + 0x0
  | .JL_STATUS k => 0x3000000 + k * 0x10000 + 0x8
  | .JL_RETRY k => 0x3000000 + k * 0x10000 + 0x10
  | .JL_ARR_SEL k => 0x3000000 + k * 0x10000 + 0xf00
  | .JL_ARR_STATUS k => 0x3000000 + k * 0x10000 + 0xf08
  | .PORT_CFG n => 0x4000000 + n * 0x100000 + 0x0
  | .PORT_CTL n => 0x4000000 + n * 0x100000 + 0x8
  | .PORT_STATUS n i => 0x4000000 + n * 0x100000 + 0x100 + i * 0x8
  | .PORT_ECAM n i => 0x4000000 + n * 0x100000 + 0x200 + i * 0x8
  | .PORT_CXL_BASE n i => 0x4000000 + n * 0x100000 + 0x300 + i * 0x10
  | .PORT_CXL_LIMIT n i => 0x4000000 + n * 0x100000 + 0x308 + i * 0x10
  | .PORT_EP_CFG n i => 0x4000000 + n * 0x100000 + 0x400 + i * 0x8
  | .PORT_WIN_CTL n => 0x4000000 + n * 0x100000 + 0x500
  | .PORT_SLOT n i => 0x4000000 + n * 0x100000 + 0x600 + i * 0x8
  | .PORT_CT n i => 0x4000000 + n * 0x100000 + 0x700 + i * 0x8
  | .PORT_ERR n i => 0x4000000 + n * 0x100000 + 0x800 + i * 0x8
  | .PORT_ARR_SEL n => 0x4000000 + n * 0x100000 + 0xf00
  | .PORT_ARR_STATUS n => 0x4000000 + n * 0x100000 + 0xf08
  | .PORT_MWIN_BASE n i => 0x4000000 + n * 0x100000 + 0x1000 + i * 0x10
  | .PORT_MWIN_LIMIT n i => 0x4000000 + n * 0x100000 + 0x1008 + i * 0x10
  | .PORT_FN_CFG n i => 0x4000000 + n * 0x100000 + 0x4000 + i * 0x8
  | .PORT_FN_WIN n i => 0x4000000 + n * 0x100000 + 0x5000 + i * 0x8
  | .SE_CL_CFG c => 0x5000000 + c * 0x1000000 + 0x0
  | .SE_ENG_STATUS c i => 0x5000000 + c * 0x1000000 + 0x100 + i * 0x8
  | .SE_ARR_SEL c => 0x5000000 + c * 0x1000000 + 0xf00
  | .SE_ARR_STATUS c => 0x5000000 + c * 0x1000000 + 0xf08
  | .SE_INST_CFG c k => 0x5000000 + c * 0x1000000 + 0x10000 + k * 0x40
  | .SE_INST_DRING c k => 0x5000000 + c * 0x1000000 + 0x10008 + k * 0x40
  | .SE_INST_CRING c k => 0x5000000 + c * 0x1000000 + 0x10010 + k * 0x40
  | .SE_INST_DLV c k => 0x5000000 + c * 0x1000000 + 0x10018 + k * 0x40
  | .SE_INST_SHARE c k => 0x5000000 + c * 0x1000000 + 0x10020 + k * 0x40
  | .SE_INST_CTL c k => 0x5000000 + c * 0x1000000 + 0x10028 + k * 0x40
  | .SE_INST_STATUS c k => 0x5000000 + c * 0x1000000 + 0x10030 + k * 0x40
  | .SE_DB_TAIL c k => 0x5000000 + c * 0x1000000 + 0x800000 + k * 0x1000
  | .SE_DB_CPL_HEAD c k => 0x5000000 + c * 0x1000000 + 0x800008 + k * 0x1000
  | .SE_DB_STATUS c k => 0x5000000 + c * 0x1000000 + 0x800010 + k * 0x1000
  | .SE_DB_RETURN c k => 0x5000000 + c * 0x1000000 + 0x800018 + k * 0x1000
  | .SE_DB_DLV_TAIL c k => 0x5000000 + c * 0x1000000 + 0x800020 + k * 0x1000
  | .CD_CORE_MAP_0 n => 0x10000000 + n * 0x1000000 + 0x100
  | .CD_CORE_MAP_1 n => 0x10000000 + n * 0x1000000 + 0x108
  | .CD_CORE_STATUS n => 0x10000000 + n * 0x1000000 + 0x110
  | .CD_PACER_CFG n => 0x10000000 + n * 0x1000000 + 0x200
  | .CD_PACER_STATUS n => 0x10000000 + n * 0x1000000 + 0x208
  | .CD_SUPPLY_CFG n => 0x10000000 + n * 0x1000000 + 0x210
  | .CD_SUPPLY_STATUS n => 0x10000000 + n * 0x1000000 + 0x218
  | .CD_RESET_VECTOR n => 0x10000000 + n * 0x1000000 + 0x300
  | .CD_CORE_CTL n i => 0x10000000 + n * 0x1000000 + 0x400 + i * 0x8
  | .CD_MTIMECMP n i => 0x10000000 + n * 0x1000000 + 0x500 + i * 0x8
  | .CD_IMSIC_OWNER n i => 0x10000000 + n * 0x1000000 + 0x600 + i * 0x8
  | .LND_CTL n => 0x10000000 + n * 0x1000000 + 0x1000
  | .LND_STATUS n => 0x10000000 + n * 0x1000000 + 0x1008
  | .CME_BASE n => 0x10000000 + n * 0x1000000 + 0x1100
  | .CME_LIMIT n => 0x10000000 + n * 0x1000000 + 0x1108
  | .CME_CTL n => 0x10000000 + n * 0x1000000 + 0x1110
  | .CME_STATUS n => 0x10000000 + n * 0x1000000 + 0x1118
  | .CD_ARR_SEL n => 0x10000000 + n * 0x1000000 + 0x1400
  | .CD_ARR_STATUS n => 0x10000000 + n * 0x1000000 + 0x1408

/-- The default severity of fault source n: its SEV at reset (R326, R414, R425). -/
def fcDefaultSev (n : Nat) : Nat :=
  if n = 0 then 4 else if n ≤ 4 then 4 else if n ≤ 7 then 2 else if n = 8 then 4 else if n ≤ 12 then 1
  else if n = 13 then 2 else if n = 14 then 4 else if n = 15 then 2 else if n = 16 then 1 else if n = 17 then 2
  else if n < 32 then 0
  else if n < 40 then (if n = 37 then 1 else 2)
  else if n < 48 then 0
  else if n < 56 then (if n = 51 ∨ n = 52 ∨ n = 55 then 1 else 2)
  else if n = 56 then 4
  else if n < 64 then 0
  else if n < 208 then
    match (n - 64) % 12 with
    | 0 | 1 | 4 | 5 | 6 => 1
    | 2 | 3 | 9 => 3
    | _ => 2
  else if n < 400 then
    match (n - 208) % 12 with
    | 0 | 1 | 2 | 3 | 8 | 9 => 1
    | 6 | 7 | 11 => 3
    | _ => 2
  else if n < 452 then (if n % 2 = 0 then 2 else 3)
  else if n < 492 then (if (n - 452) % 4 = 0 then 1 else 2)
  else if n < 500 then
    match (n - 492) % 4 with
    | 0 => 1
    | 2 => 3
    | _ => 2
  else if n < 512 then 0
  else if n < 1536 then 1 else 0

/-- Routers that carry two attachments: the edge routers of R22 (R201). -/
def hasA1 (r : Nat) : Bool := (r % 8 == 0 || r % 8 == 7) && 8 ≤ r && r < 40

/-- Reset of GAL_FENCE_STATUS (its locator line, R219). -/
def galFenceStatusReset (r : Nat) : Nat :=
  if r = 32 ∨ r = 39 then 0x2 else if hasA1 r then 0xA else 0xE

/-- The reset value of a register (its locator line). Two come from fuses and stand in Config. -/
def Reg.reset : Reg → Nat
  | .PKG_ID => 0x1f3a01a26288
  | .PKG_SERIAL => Config.pkgSerial
  | .PKG_PACER_CFG => 0x10a190001012c
  | .PKG_POWER_CFG => 0xa0a047e0352
  | .PKG_COH_CFG => 0x10000030
  | .PKG_DIE_CFG => 0xc80000
  | .FC_SRC n => fcDefaultSev n
  | .WLD_DBG_FUSE => fuseWord
  | .WLD_UZMB_OWN _ => 1
  | .QOS_CTL => 0x400000
  | .QOS_STATUS => 0x4000000
  | .QOS_CLASS _ => 0x40ffff0000
  | .UZ_THERM_CFG => 0x564
  | .PAIR_CFG => 0x3e80003e80064
  | .GAL_ID r => r
  | .GAL_FENCE_CTL _ => 0xc3500000
  | .GAL_FENCE_STATUS r => galFenceStatusReset r
  | .HALL_PATROL_CFG _ => 0x118
  | .JL_CFG k => (if k < 24 then 0x3E81003E8 else 0x3E8104E20)
  | .JL_STATUS _ => 0xfffffff0
  | .PORT_CFG _ => 0x6000
  | .PORT_EP_CFG _ _ => 0x141e
  | .PORT_CT _ _ => 0xc350
  | .SE_CL_CFG _ => 0x186a0
  | .SE_ENG_STATUS _ _ => 0x1
  | .SE_INST_CFG _ k => (if k < 512 then 0x60 else 0x65)
  | .SE_INST_SHARE _ _ => 0x1010
  | .CD_CORE_MAP_0 _ => 0x5a928398a418820
  | .CD_CORE_MAP_1 _ => 0xbdab49ca307b9ac
  | .CD_CORE_STATUS _ => 0x200000000
  | .CD_PACER_CFG _ => 0x35a28
  | .CD_PACER_STATUS _ => 0xff000000
  | .CD_SUPPLY_CFG _ => 0x2580244
  | .CD_SUPPLY_STATUS _ => 0x3ff0000
  | .CD_MTIMECMP _ _ => 0xffffffffffffffff
  | .CME_CTL _ => 0xffffff0c
  | _ => 0

/-- The field table of a register; a bit no field covers is reserved, reads 0 and ignores writes (R9). -/
def Reg.fields : Reg → List Field
  | .PKG_ID => [F.PKG_ID_PART, F.PKG_ID_IOD_STEPPING, F.PKG_ID_MAP_VERSION, F.PKG_ID_VENDOR]
  | .PKG_SERIAL => [F.PKG_SERIAL_SERIAL]
  | .PKG_CTL => [F.PKG_CTL_COMMIT, F.PKG_CTL_COMMITTED]
  | .PKG_ADDR_MAP => [F.PKG_ADDR_MAP_DOMAINS, F.PKG_ADDR_MAP_HALL_CAP_GIB]
  | .PKG_TIME => [F.PKG_TIME_TIME]
  | .PKG_TIME_STATUS => [F.PKG_TIME_STATUS_RUNNING, F.PKG_TIME_STATUS_REFCLK_OK, F.PKG_TIME_STATUS_HOLDOVER, F.PKG_TIME_STATUS_HOLDOVER_SEEN, F.PKG_TIME_STATUS_MAX_SKEW]
  | .PKG_PACER_CFG => [F.PKG_PACER_CFG_PKG_RATE, F.PKG_PACER_CFG_PKG_EN, F.PKG_PACER_CFG_EMERG_PCT, F.PKG_PACER_CFG_DROOP_HOLD, F.PKG_PACER_CFG_DROOP_N_EN]
  | .PKG_POWER_CFG => [F.PKG_POWER_CFG_TDP_W, F.PKG_POWER_CFG_PEAK_W, F.PKG_POWER_CFG_PEAK_MS, F.PKG_POWER_CFG_TAU]
  | .PKG_POWER_STATUS => [F.PKG_POWER_STATUS_PKG_W, F.PKG_POWER_STATUS_AVG_W, F.PKG_POWER_STATUS_CAPPING, F.PKG_POWER_STATUS_PEAK_ACTIVE, F.PKG_POWER_STATUS_PEAK_OVERRUN, F.PKG_POWER_STATUS_CFG_REJECT]
  | .PKG_RAT_CTL => [F.PKG_RAT_CTL_DEFAULT_POLICY, F.PKG_RAT_CTL_REJECT, F.PKG_RAT_CTL_RESERVED_WAYS]
  | .PKG_COH_CFG => [F.PKG_COH_CFG_HOLD_MIN, F.PKG_COH_CFG_HOLD_MAX]
  | .PKG_DIE_CTL _ => [F.PKG_DIE_CTL_CMD]
  | .PKG_DIE_STATUS _ => [F.PKG_DIE_STATUS_STATE, F.PKG_DIE_STATUS_CAUSE, F.PKG_DIE_STATUS_REFUSED, F.PKG_DIE_STATUS_SINGLE_LINK, F.PKG_DIE_STATUS_MSI_DROPS]
  | .PKG_DIE_CFG => [F.PKG_DIE_CFG_HETERO_ALLOW, F.PKG_DIE_CFG_DIE_TIMEOUT_US]
  | .PKG_CAP_COMMON => [F.PKG_CAP_COMMON_CAP]
  | .PKG_DIE_SERIAL _ => [F.PKG_DIE_SERIAL_SERIAL]
  | .PKG_DIE_CAP _ => [F.PKG_DIE_CAP_CAP, F.PKG_DIE_CAP_STEPPING]
  | .PKG_RAT_BASE _ => [F.PKG_RAT_BASE_VALID, F.PKG_RAT_BASE_POLICY, F.PKG_RAT_BASE_PIN, F.PKG_RAT_BASE_BASE]
  | .PKG_RAT_LIMIT _ => [F.PKG_RAT_LIMIT_WAYS, F.PKG_RAT_LIMIT_LIMIT]
  | .FC_STATUS => [F.FC_STATUS_SAFE, F.FC_STATUS_SAFE_RESET_ONLY, F.FC_STATUS_CLEAR_FAIL, F.FC_STATUS_CLEAR_FAIL_SRC, F.FC_STATUS_UNCAPTURED]
  | .FC_FIRST_INFO => [F.FC_INFO_SOURCE, F.FC_INFO_SEV, F.FC_INFO_REQ_ID, F.FC_INFO_WORLD, F.FC_INFO_ACC, F.FC_INFO_DETAIL, F.FC_INFO_OVERRUN, F.FC_INFO_VALID]
  | .FC_FIRST_ADDR => [F.FC_ADDR_ADDR]
  | .FC_FIRST_TIME => [F.FC_TIME_TIME]
  | .FC_ESC_INFO => [F.FC_INFO_SOURCE, F.FC_INFO_SEV, F.FC_INFO_REQ_ID, F.FC_INFO_WORLD, F.FC_INFO_ACC, F.FC_INFO_DETAIL, F.FC_INFO_OVERRUN, F.FC_INFO_VALID]
  | .FC_ESC_ADDR => [F.FC_ADDR_ADDR]
  | .FC_ESC_TIME => [F.FC_TIME_TIME]
  | .FC_PEND_SUM _ => [F.FC_PEND_SUM_PEND]
  | .FC_NOTICE_INFO _ => [F.FC_NOTICE_INFO_SOURCE, F.FC_NOTICE_INFO_SEV, F.FC_NOTICE_INFO_ACC, F.FC_NOTICE_INFO_OVERRUN, F.FC_NOTICE_INFO_VALID]
  | .FC_NOTICE_ADDR _ => [F.FC_NOTICE_ADDR_ADDR]
  | .FC_REPORT _ => [F.FC_REPORT_WORD]
  | .FC_SRC _ => [F.FC_SRC_SEV, F.FC_SRC_APPLIED, F.FC_SRC_PEND, F.FC_SRC_CAUSE, F.FC_SRC_COUNT]
  | .EVR_SWTRIG => [F.EVR_SWTRIG_SOURCE]
  | .EVR_DROP_STATUS => [F.EVR_DROP_STATUS_COUNT, F.EVR_DROP_STATUS_LAST_SRC, F.EVR_DROP_STATUS_REASON, F.EVR_DROP_STATUS_CLEAR]
  | .EVR_TIMER _ => [F.EVR_TIMER_CMP, F.EVR_TIMER_ARM]
  | .EVR_SRC _ => [F.EVR_SRC_IDENTITY, F.EVR_SRC_FILE, F.EVR_SRC_HART, F.EVR_SRC_OWNER, F.EVR_SRC_ENABLE, F.EVR_SRC_PENDING]
  | .WLD_CTL => [F.WLD_CTL_COMMIT, F.WLD_CTL_COMMITTED, F.WLD_CTL_FORMAT_BUSY, F.WLD_CTL_COMMIT_ERR, F.WLD_CTL_SCRUB_INST]
  | .WLD_VIOL_INFO => [F.WLD_VIOL_INFO_REQ_ID, F.WLD_VIOL_INFO_WORLD, F.WLD_VIOL_INFO_KIND, F.WLD_VIOL_INFO_OVERRUN, F.WLD_VIOL_INFO_VALID]
  | .WLD_VIOL_ADDR => [F.WLD_VIOL_ADDR_OFFSET, F.WLD_VIOL_ADDR_COUNT]
  | .WLD_POT_TABLE _ => [F.WLD_POT_TABLE_VALID, F.WLD_POT_TABLE_VALUE]
  | .WLD_POT_FIRST _ => [F.WLD_POT_SEG_VALUE]
  | .WLD_POT_LAST _ => [F.WLD_POT_SEG_VALUE]
  | .WLD_POT_OP => [F.WLD_POT_OP_OP, F.WLD_POT_OP_TO, F.WLD_POT_OP_COUNT_M1]
  | .WLD_POT_OP_PAGE => [F.WLD_POT_OP_PAGE_PAGE]
  | .WLD_POT_STATUS => [F.WLD_POT_STATUS_BUSY, F.WLD_POT_STATUS_RESULT, F.WLD_POT_STATUS_DONE, F.WLD_POT_STATUS_FAIL_PAGE]
  | .WLD_POT_QUERY => [F.WLD_POT_QUERY_PAGE, F.WLD_POT_QUERY_ENTRY, F.WLD_POT_QUERY_COVERED, F.WLD_POT_QUERY_UNREADABLE]
  | .WLD_PAGES _ => [F.WLD_PAGES_NORTH, F.WLD_PAGES_SOUTH]
  | .WLD_WORLD_CFG _ => [F.WLD_WORLD_CFG_CLEAR_ON_ENTRY, F.WLD_WORLD_CFG_GUARD_TILE, F.WLD_WORLD_CFG_INV_DBG, F.WLD_WORLD_CFG_NINV_DBG, F.WLD_WORLD_CFG_INV_EFF, F.WLD_WORLD_CFG_NINV_EFF]
  | .WLD_CONSENT _ => [F.WLD_CONSENT_HALLS, F.WLD_CONSENT_CLUSTERS]
  | .WLD_PWR_REQ => [F.WLD_PWR_REQ_KIND, F.WLD_PWR_REQ_ACTION, F.WLD_PWR_REQ_INDEX]
  | .WLD_PWR_STATUS => [F.WLD_PWR_STATUS_BUSY, F.WLD_PWR_STATUS_RESULT, F.WLD_PWR_STATUS_WORLD, F.WLD_PWR_STATUS_MISSING]
  | .WLD_DBG_FUSE => [F.WLD_DBG_FUSE_FORBID_INV, F.WLD_DBG_FUSE_FORBID_NINV, F.WLD_DBG_FUSE_LOCKED]
  | .WLD_DBG_GRANT => [F.WLD_DBG_GRANT_GRANT_INV, F.WLD_DBG_GRANT_GRANT_NINV, F.WLD_DBG_GRANT_REVOKE]
  | .WLD_FN_OWN _ => [F.WLD_OWN_OWNER, F.WLD_OWN_STATE, F.WLD_OWN_NEXT, F.WLD_OWN_RESULT, F.WLD_OWN_OP, F.WLD_OWN_TO]
  | .WLD_INST_OWN _ => [F.WLD_OWN_OWNER, F.WLD_OWN_STATE, F.WLD_OWN_NEXT, F.WLD_OWN_RESULT, F.WLD_OWN_OP, F.WLD_OWN_TO]
  | .WLD_MBX_OWN _ => [F.WLD_OWN_OWNER, F.WLD_OWN_STATE, F.WLD_OWN_NEXT, F.WLD_OWN_RESULT, F.WLD_OWN_OP, F.WLD_OWN_TO]
  | .WLD_SRC_OWN _ => [F.WLD_OWN_OWNER, F.WLD_OWN_STATE, F.WLD_OWN_NEXT, F.WLD_OWN_RESULT, F.WLD_OWN_OP, F.WLD_OWN_TO]
  | .WLD_UZMB_OWN _ => [F.WLD_OWN_OWNER, F.WLD_OWN_STATE, F.WLD_OWN_NEXT, F.WLD_OWN_RESULT, F.WLD_OWN_OP, F.WLD_OWN_TO]
  | .QOS_CTL => [F.QOS_CTL_COMMIT, F.QOS_CTL_MON_EN, F.QOS_CTL_WINDOW]
  | .QOS_CAPACITY => [F.QOS_CAPACITY_CAPACITY]
  | .QOS_STATUS => [F.QOS_STATUS_RESULT, F.QOS_STATUS_BUSY, F.QOS_STATUS_SHORTFALL, F.QOS_STATUS_WARMUP, F.QOS_STATUS_SCALE, F.QOS_STATUS_COMMITTED_SUM]
  | .QOS_MISS => [F.QOS_MISS_MISS, F.QOS_MISS_BANK]
  | .QOS_CLASS _ => [F.QOS_CLASS_GUAR, F.QOS_CLASS_LIMIT, F.QOS_CLASS_BURST, F.QOS_CLASS_DOMAIN]
  | .QOS_LABEL_MAP _ => [F.QOS_LABEL_MAP_CLASS]
  | .QOS_BYTES _ => [F.QOS_BYTES_BYTES]
  | .UZ_STATUS => [F.UZ_STATUS_STAGE, F.UZ_STATUS_FIRST_LIFE, F.UZ_STATUS_LR_LOST, F.UZ_STATUS_FW_SLOT, F.UZ_STATUS_TRAIN_FULL, F.UZ_STATUS_WDOG_COUNT]
  | .UZ_CTL => [F.UZ_CTL_PKG_RESET]
  | .UZ_THERM_CFG => [F.UZ_THERM_CFG_TJ_TARGET, F.UZ_THERM_CFG_DIMM_STEP_PCT, F.UZ_THERM_CFG_HOTTEST_C, F.UZ_THERM_CFG_HOTTEST_DIE]
  | .UZ_LR_STATUS => [F.UZ_LR_STATUS_HALF, F.UZ_LR_STATUS_COMPACTING, F.UZ_LR_STATUS_RECORDS, F.UZ_LR_STATUS_GEN, F.UZ_LR_STATUS_TORN]
  | .UZ_LR_READ => [F.UZ_LR_READ_INDEX, F.UZ_LR_READ_VALID]
  | .UZ_LR_DATA _ => [F.UZ_LR_DATA_DATA]
  | .UZ_ARR_SEL => [F.CD_ARR_SEL_ARRAY, F.ARR_SEL_UNIT, F.CD_ARR_SEL_BANK]
  | .UZ_ARR_STATUS => [F.CD_ARR_STATUS_CORR, F.CD_ARR_STATUS_MEND_DROPS, F.CD_ARR_STATUS_SPARES_USED, F.CD_ARR_STATUS_WAYS_DISABLED, F.CD_ARR_STATUS_FULL, F.CD_ARR_STATUS_UNCORR]
  | .UZ_MBX_CTL _ => [F.UZ_MBX_CTL_LEN, F.UZ_MBX_CTL_GO, F.UZ_MBX_CTL_BUSY, F.UZ_MBX_CTL_REFUSED]
  | .UZ_MBX_DATA _ _ => [F.UZ_MBX_DATA_WORD]
  | .PAIR_CFG => [F.PAIR_CFG_HB_PERIOD_US, F.PAIR_CFG_HB_TIMEOUT_US, F.PAIR_CFG_LABEL, F.PAIR_CFG_LAG_MAX_US]
  | .PAIR_CTL => [F.PAIR_CTL_COMMIT, F.PAIR_CTL_FORCE_SOURCE]
  | .PAIR_STATUS => [F.PAIR_STATUS_STATE, F.PAIR_STATUS_SOURCE, F.PAIR_STATUS_ROLE, F.PAIR_STATUS_HEARD, F.PAIR_STATUS_ALIVE, F.PAIR_STATUS_LINKS, F.PAIR_STATUS_CFG_MATCH, F.PAIR_STATUS_RESULT, F.PAIR_STATUS_DONE]
  | .PAIR_PARTNER_SERIAL => [F.PAIR_PARTNER_SERIAL_SERIAL]
  | .PAIR_DIRTY_BASE => [F.PAIR_DIRTY_BASE_BASE]
  | .PAIR_RESYNC_STATUS => [F.PAIR_RESYNC_STATUS_PAGES_LEFT]
  | .PAIR_REGION_BASE _ => [F.PAIR_REGION_BASE_MODE, F.PAIR_REGION_BASE_PAGE]
  | .PAIR_REGION_LIMIT _ => [F.PAIR_REGION_PAGE]
  | .PAIR_REGION_REMOTE _ => [F.PAIR_REGION_PAGE]
  | .PAIR_REGION_STATUS _ => [F.PAIR_REGION_STATUS_LAGGING, F.PAIR_REGION_STATUS_TARGET, F.PAIR_REGION_STATUS_LAG_US, F.PAIR_REGION_STATUS_DIRTY_PAGES]
  | .GAL_ID _ => [F.GAL_ID_X, F.GAL_ID_Y]
  | .GAL_PORT_CTL _ => [F.GAL_PORT_CTL_DIS_A0, F.GAL_PORT_CTL_DIS_A1]
  | .GAL_FENCE_CTL _ => [F.GAL_FENCE_CTL_CMD, F.GAL_FENCE_CTL_PORT, F.GAL_FENCE_CTL_FENCE_LIMIT]
  | .GAL_FENCE_STATUS _ => [F.GAL_FENCE_STATUS_STATE_A0, F.GAL_FENCE_STATUS_STATE_A1, F.GAL_FENCE_STATUS_REFUSED, F.GAL_FENCE_STATUS_UNAVAIL_COUNT, F.GAL_FENCE_STATUS_HELD]
  | .GAL_ERR_STATUS _ => [F.GAL_ERR_STATUS_CORR, F.GAL_ERR_STATUS_UNCORR_DATA, F.GAL_ERR_STATUS_HDR_UNCORR, F.GAL_ERR_STATUS_HDR_PORT]
  | .GAL_PRB_CTL _ => [F.GAL_PRB_CTL_EN, F.GAL_PRB_CTL_TRACE, F.GAL_PRB_CTL_WRAP, F.GAL_PRB_CTL_IN_MASK, F.GAL_PRB_CTL_TRACE_WORLD, F.GAL_PRB_CTL_TRACE_LABEL, F.GAL_PRB_CTL_FULL, F.GAL_PRB_CTL_TERR, F.GAL_PRB_CTL_TDROP]
  | .GAL_PRB_FILTER _ => [F.GAL_PRB_FILTER_PLANES, F.GAL_PRB_FILTER_CMD_VAL, F.GAL_PRB_FILTER_CMD_EN, F.GAL_PRB_FILTER_WORLD_VAL, F.GAL_PRB_FILTER_WORLD_EN, F.GAL_PRB_FILTER_LABEL_VAL, F.GAL_PRB_FILTER_LABEL_MASK, F.GAL_PRB_FILTER_ADDR_EN]
  | .GAL_PRB_REQ _ => [F.GAL_PRB_REQ_REQ_VAL, F.GAL_PRB_REQ_REQ_MASK]
  | .GAL_PRB_ADDR_LO _ => [F.GAL_PRB_LINE]
  | .GAL_PRB_ADDR_HI _ => [F.GAL_PRB_LINE]
  | .GAL_PRB_TBASE _ => [F.GAL_PRB_LINE]
  | .GAL_PRB_TLIMIT _ => [F.GAL_PRB_LINE]
  | .GAL_PRB_TPTR _ => [F.GAL_PRB_TPTR_NEXT]
  | .GAL_PRB_CNT _ _ => [F.GAL_PRB_CNT_COUNT]
  | .HALL_FLIGHT_STATUS _ => [F.HALL_FLIGHT_STATUS_IN_SERVICE, F.HALL_FLIGHT_STATUS_REFRESH_X2, F.HALL_FLIGHT_STATUS_THROTTLE, F.HALL_FLIGHT_STATUS_WARMUP, F.HALL_FLIGHT_STATUS_MTS_100, F.HALL_FLIGHT_STATUS_MAINT, F.HALL_FLIGHT_STATUS_GUAR, F.HALL_FLIGHT_STATUS_OPEN]
  | .HALL_CLASS_STAT _ _ => [F.HALL_CLASS_STAT_TREADS, F.HALL_CLASS_STAT_LAST_WIN, F.HALL_CLASS_STAT_LAST_BACKLOG, F.HALL_CLASS_STAT_LAST_MISS, F.HALL_CLASS_STAT_MISSES]
  | .HALL_CLASS_BYTES _ _ => [F.HALL_CLASS_BYTES_BYTES]
  | .HALL_CACHE_CTL _ => [F.LND_CTL_CMD]
  | .HALL_CACHE_STATUS _ => [F.LND_STATUS_MODE, F.LND_STATUS_BUSY, F.LND_STATUS_DARK_SEEN, F.LND_STATUS_REFUSED, F.LND_STATUS_FORCED]
  | .HALL_MNT_BASE _ => [F.CME_BASE_BASE]
  | .HALL_MNT_LIMIT _ => [F.CME_LIMIT_LIMIT]
  | .HALL_MNT_CTL _ => [F.HALL_MNT_CTL_OP, F.HALL_MNT_CTL_START, F.HALL_MNT_CTL_ABORT]
  | .HALL_MNT_STATUS _ => [F.CME_STATUS_BUSY, F.CME_STATUS_RESULT, F.CME_STATUS_DONE, F.CME_STATUS_START_REFUSED, F.CME_STATUS_WB_LINES, F.CME_STATUS_WORLD]
  | .HALL_DIR_STATUS _ => [F.HALL_DIR_STATUS_PURGE_BUSY, F.HALL_DIR_STATUS_PURGE_DIE, F.HALL_DIR_STATUS_BCAST_ENTRIES]
  | .HALL_DIR_COUNT _ => [F.HALL_DIR_COUNT_STALE_WB, F.HALL_DIR_COUNT_POISONED, F.HALL_DIR_COUNT_BACK_INV]
  | .HALL_ARR_SEL _ => [F.CD_ARR_SEL_ARRAY, F.ARR_SEL_UNIT, F.CD_ARR_SEL_BANK]
  | .HALL_ARR_STATUS _ => [F.CD_ARR_STATUS_CORR, F.CD_ARR_STATUS_MEND_DROPS, F.CD_ARR_STATUS_SPARES_USED, F.CD_ARR_STATUS_WAYS_DISABLED, F.CD_ARR_STATUS_FULL, F.CD_ARR_STATUS_UNCORR]
  | .HALL_DRAM_STATUS _ => [F.HALL_DRAM_STATUS_CE, F.HALL_DRAM_STATUS_UE, F.HALL_DRAM_STATUS_POISON_WRITTEN]
  | .HALL_DRAM_DEV _ _ => (List.range 10).map F.HALL_DRAM_DEV_DEV
  | .HALL_PATROL_CFG _ => [F.HALL_PATROL_CFG_PERIOD_H, F.HALL_PATROL_CFG_EN]
  | .HALL_PATROL_STATUS _ => [F.HALL_PATROL_STATUS_POS, F.HALL_PATROL_STATUS_PASSES, F.HALL_PATROL_STATUS_REPAIRED]
  | .HALL_DRAM_CTL _ => [F.HALL_DRAM_CTL_CMD, F.HALL_DRAM_CTL_BUSY, F.HALL_DRAM_CTL_REFUSED, F.HALL_DRAM_CTL_DISCARDED]
  | .JL_CFG _ => [F.JL_CFG_REPLAY_TIMEOUT, F.JL_CFG_FAIL_CONSEC, F.JL_CFG_FAIL_RATE]
  | .JL_STATUS _ => [F.JL_STATUS_STATE, F.JL_STATUS_UP_SPARE0, F.JL_STATUS_UP_SPARE1, F.JL_STATUS_DN_SPARE0, F.JL_STATUS_DN_SPARE1, F.JL_STATUS_FAIL_CAUSE, F.JL_STATUS_FAILED_SEEN]
  | .JL_RETRY _ => [F.JL_RETRY_RETRIES, F.JL_RETRY_BURSTS, F.JL_RETRY_MAX_CONSEC]
  | .JL_ARR_SEL _ => [F.CD_ARR_SEL_ARRAY, F.ARR_SEL_UNIT, F.CD_ARR_SEL_BANK]
  | .JL_ARR_STATUS _ => [F.CD_ARR_STATUS_CORR, F.CD_ARR_STATUS_MEND_DROPS, F.CD_ARR_STATUS_SPARES_USED, F.CD_ARR_STATUS_WAYS_DISABLED, F.CD_ARR_STATUS_FULL, F.CD_ARR_STATUS_UNCORR]
  | .PORT_CFG _ => [F.PORT_CFG_BIFUR, F.PORT_CFG_EP, F.PORT_CFG_CXL, F.PORT_CFG_MAX_RATE]
  | .PORT_CTL _ => [F.PORT_CTL_COMMIT, F.PORT_CTL_COMMITTED, F.PORT_CTL_COMMIT_ERR, F.PORT_CTL_RESTART, F.PORT_CTL_STOPPED]
  | .PORT_STATUS _ _ => [F.PORT_STATUS_LINK_UP, F.PORT_STATUS_RATE, F.PORT_STATUS_WIDTH, F.PORT_STATUS_FLIT, F.PORT_STATUS_CXL_UP, F.PORT_STATUS_DSTATE]
  | .PORT_ECAM _ _ => [F.PORT_ECAM_VALID, F.PORT_ECAM_BUS_MAX, F.PORT_ECAM_BASE]
  | .PORT_CXL_BASE _ _ => [F.PORT_CXL_BASE_VALID, F.PORT_CXL_BASE_ADDR]
  | .PORT_CXL_LIMIT _ _ => [F.PORT_CXL_LIMIT_ADDR]
  | .PORT_EP_CFG _ _ => [F.PORT_EP_CFG_BAR2_LOG2, F.PORT_EP_CFG_VF_BAR2_LOG2, F.PORT_EP_CFG_TOTAL_VFS]
  | .PORT_WIN_CTL _ => [F.PORT_WIN_CTL_COMMIT, F.PORT_WIN_CTL_WINDOW_DRAIN, F.PORT_WIN_CTL_BUSY, F.PORT_WIN_CTL_RESULT, F.PORT_WIN_CTL_DONE]
  | .PORT_SLOT _ _ => [F.PORT_SLOT_IN, F.PORT_SLOT_OUT, F.PORT_SLOT_BAD_FRAMES, F.PORT_SLOT_SSB_FAIL]
  | .PORT_CT _ _ => [F.PORT_CT_CT_US]
  | .PORT_ERR _ _ => [F.PORT_ERR_CT_COUNT, F.PORT_ERR_LATE_CPL, F.PORT_ERR_RETIRED, F.PORT_ERR_INTX_DROPS]
  | .PORT_ARR_SEL _ => [F.CD_ARR_SEL_ARRAY, F.ARR_SEL_UNIT, F.CD_ARR_SEL_BANK]
  | .PORT_ARR_STATUS _ => [F.CD_ARR_STATUS_CORR, F.CD_ARR_STATUS_MEND_DROPS, F.CD_ARR_STATUS_SPARES_USED, F.CD_ARR_STATUS_WAYS_DISABLED, F.CD_ARR_STATUS_FULL, F.CD_ARR_STATUS_UNCORR]
  | .PORT_MWIN_BASE _ _ => [F.PORT_MWIN_BASE_VALID, F.PORT_MWIN_BASE_PORT, F.PORT_MWIN_BASE_BASE]
  | .PORT_MWIN_LIMIT _ _ => [F.PORT_MWIN_LIMIT_FN, F.PORT_MWIN_LIMIT_LIMIT]
  | .PORT_FN_CFG _ _ => [F.PORT_FN_CFG_LABEL, F.PORT_FN_CFG_RID_VALID, F.PORT_FN_CFG_FLR_CAP, F.PORT_FN_CFG_FLR, F.PORT_FN_CFG_FLR_BUSY, F.PORT_FN_CFG_RID]
  | .PORT_FN_WIN _ _ => [F.PORT_FN_WIN_VALID, F.PORT_FN_WIN_TARGET]
  | .SE_CL_CFG _ => [F.SE_CL_CFG_DRAIN_LIMIT]
  | .SE_ENG_STATUS _ _ => [F.SE_ENG_STATUS_IN_SERVICE, F.SE_ENG_STATUS_ACTIVE, F.SE_ENG_STATUS_SEGMENTS]
  | .SE_ARR_SEL _ => [F.CD_ARR_SEL_ARRAY, F.ARR_SEL_UNIT, F.CD_ARR_SEL_BANK]
  | .SE_ARR_STATUS _ => [F.CD_ARR_STATUS_CORR, F.CD_ARR_STATUS_MEND_DROPS, F.CD_ARR_STATUS_SPARES_USED, F.CD_ARR_STATUS_WAYS_DISABLED, F.CD_ARR_STATUS_FULL, F.CD_ARR_STATUS_UNCORR]
  | .SE_INST_CFG _ _ => [F.SE_INST_CFG_TYPE, F.SE_INST_CFG_LOG2, F.SE_INST_CFG_BIND_VALID, F.SE_INST_CFG_BIND_STATION, F.SE_INST_CFG_BIND_FN, F.SE_INST_CFG_BIND_PAGE, F.SE_INST_CFG_VEC]
  | .SE_INST_DRING _ _ => [F.SE_INST_RING_BASE]
  | .SE_INST_CRING _ _ => [F.SE_INST_RING_BASE]
  | .SE_INST_DLV _ _ => [F.SE_INST_DLV_VALID, F.SE_INST_DLV_BASE]
  | .SE_INST_SHARE _ _ => [F.SE_INST_SHARE_WEIGHT, F.SE_INST_SHARE_CAP, F.SE_INST_SHARE_LABEL]
  | .SE_INST_CTL _ _ => [F.SE_INST_CTL_CMD]
  | .SE_INST_STATUS _ _ => [F.SE_INST_STATUS_STATE, F.SE_INST_STATUS_REFUSED, F.SE_INST_STATUS_RESET_DONE, F.SE_INST_STATUS_ERR_CAUSE, F.SE_INST_STATUS_HEAD, F.SE_INST_STATUS_INFLIGHT, F.SE_INST_STATUS_COMPLETED]
  | .SE_DB_TAIL _ _ => [F.SE_DB_TAIL_INDEX]
  | .SE_DB_CPL_HEAD _ _ => [F.SE_DB_CPL_HEAD_INDEX]
  | .SE_DB_STATUS _ _ => []
  | .SE_DB_RETURN _ _ => [F.SE_DB_RETURN_INDEX]
  | .SE_DB_DLV_TAIL _ _ => [F.SE_DB_DLV_TAIL_INDEX]
  | .CD_CORE_MAP_0 _ => (List.range 12).map F.CD_CORE_MAP_0_PHYS
  | .CD_CORE_MAP_1 _ => (List.range 12).map F.CD_CORE_MAP_1_PHYS
  | .CD_CORE_STATUS _ => [F.CD_CORE_STATUS_PHYS_FAILED, F.CD_CORE_STATUS_SPARES_FREE, F.CD_CORE_STATUS_ABSENT, F.CD_CORE_STATUS_SUBST_RESET]
  | .CD_PACER_CFG _ => [F.CD_PACER_CFG_RATE, F.CD_PACER_CFG_ICC_MAX, F.CD_PACER_CFG_PACE_EN, F.CD_PACER_CFG_DROOP_EN]
  | .CD_PACER_STATUS _ => [F.CD_PACER_STATUS_EST_A, F.CD_PACER_STATUS_ALLOW_A, F.CD_PACER_STATUS_LIMITING, F.CD_PACER_STATUS_EMERGENCY, F.CD_PACER_STATUS_CAP_A, F.CD_PACER_STATUS_PACED_US]
  | .CD_SUPPLY_CFG _ => [F.CD_SUPPLY_CFG_DROOP_MARK_MV, F.CD_SUPPLY_CFG_VSET_MIN_MV]
  | .CD_SUPPLY_STATUS _ => [F.CD_SUPPLY_STATUS_V_NOW_MV, F.CD_SUPPLY_STATUS_V_MIN_MV, F.CD_SUPPLY_STATUS_DROOP_COUNT, F.CD_SUPPLY_STATUS_BROWNOUT, F.CD_SUPPLY_STATUS_RETENTION_LOST, F.CD_SUPPLY_STATUS_BELOW_FUNC, F.CD_SUPPLY_STATUS_V_MIN_RESET]
  | .CD_RESET_VECTOR _ => [F.CD_RESET_VECTOR_ADDR]
  | .CD_CORE_CTL _ _ => [F.CD_CORE_CTL_RESET, F.CD_CORE_CTL_MSIP, F.CD_CORE_CTL_POWER_OFF, F.CD_CORE_CTL_BUSY, F.CD_CORE_CTL_OFF, F.CD_CORE_CTL_OFFLINE]
  | .CD_MTIMECMP _ _ => [F.CD_MTIMECMP_CMP]
  | .CD_IMSIC_OWNER _ _ => (List.range 8).map F.CD_IMSIC_OWNER_OWN
  | .LND_CTL _ => [F.LND_CTL_CMD]
  | .LND_STATUS _ => [F.LND_STATUS_MODE, F.LND_STATUS_BUSY, F.LND_STATUS_DARK_SEEN, F.LND_STATUS_REFUSED, F.LND_STATUS_FORCED]
  | .CME_BASE _ => [F.CME_BASE_BASE]
  | .CME_LIMIT _ => [F.CME_LIMIT_LIMIT]
  | .CME_CTL _ => [F.CME_CTL_OP, F.CME_CTL_LND, F.CME_CTL_L2, F.CME_CTL_START, F.CME_CTL_ABORT, F.CME_CTL_CORES]
  | .CME_STATUS _ => [F.CME_STATUS_BUSY, F.CME_STATUS_RESULT, F.CME_STATUS_DONE, F.CME_STATUS_START_REFUSED, F.CME_STATUS_WB_LINES, F.CME_STATUS_WORLD]
  | .CD_ARR_SEL _ => [F.CD_ARR_SEL_ARRAY, F.CD_ARR_SEL_UNIT, F.CD_ARR_SEL_BANK]
  | .CD_ARR_STATUS _ => [F.CD_ARR_STATUS_CORR, F.CD_ARR_STATUS_MEND_DROPS, F.CD_ARR_STATUS_SPARES_USED, F.CD_ARR_STATUS_WAYS_DISABLED, F.CD_ARR_STATUS_FULL, F.CD_ARR_STATUS_UNCORR]

/-- The index of an element at distance d from the start of a family of n elements spaced by st, when the distance
names one. -/
def famIdx (d st n : Nat) : Option Nat := if d % st = 0 ∧ d / st < n then some (d / st) else none

/-- The register at offset o within the block PKG, if any (R435: an offset that names none reads zero). -/
def regInPKG (o : Nat) : Option Reg :=
  match o with
  | 0x0 => some (.PKG_ID)
  | 0x8 => some (.PKG_SERIAL)
  | 0x10 => some (.PKG_CTL)
  | 0x100 => some (.PKG_ADDR_MAP)
  | 0x200 => some (.PKG_TIME)
  | 0x208 => some (.PKG_TIME_STATUS)
  | 0x210 => some (.PKG_PACER_CFG)
  | 0x218 => some (.PKG_POWER_CFG)
  | 0x220 => some (.PKG_POWER_STATUS)
  | 0x300 => some (.PKG_RAT_CTL)
  | 0x400 => some (.PKG_COH_CFG)
  | 0x600 => some (.PKG_DIE_CFG)
  | 0x608 => some (.PKG_CAP_COMMON)
  | _ =>
    (if 0x500 ≤ o then (famIdx (o - 0x500) 0x10 12).map (fun i => Reg.PKG_DIE_CTL i) else none)
    <|> (if 0x508 ≤ o then (famIdx (o - 0x508) 0x10 12).map (fun i => Reg.PKG_DIE_STATUS i) else none)
    <|> (if 0x700 ≤ o then (famIdx (o - 0x700) 0x8 12).map (fun i => Reg.PKG_DIE_SERIAL i) else none)
    <|> (if 0x780 ≤ o then (famIdx (o - 0x780) 0x8 12).map (fun i => Reg.PKG_DIE_CAP i) else none)
    <|> (if 0x1000 ≤ o then (famIdx (o - 0x1000) 0x10 64).map (fun i => Reg.PKG_RAT_BASE i) else none)
    <|> (if 0x1008 ≤ o then (famIdx (o - 0x1008) 0x10 64).map (fun i => Reg.PKG_RAT_LIMIT i) else none)

/-- The register at offset o within the block FC, if any (R435: an offset that names none reads zero). -/
def regInFC (o : Nat) : Option Reg :=
  match o with
  | 0x8 => some (.FC_STATUS)
  | 0x100 => some (.FC_FIRST_INFO)
  | 0x108 => some (.FC_FIRST_ADDR)
  | 0x110 => some (.FC_FIRST_TIME)
  | 0x120 => some (.FC_ESC_INFO)
  | 0x128 => some (.FC_ESC_ADDR)
  | 0x130 => some (.FC_ESC_TIME)
  | _ =>
    (if 0x200 ≤ o then (famIdx (o - 0x200) 0x8 24).map (fun i => Reg.FC_PEND_SUM i) else none)
    <|> (if 0x400 ≤ o then (famIdx (o - 0x400) 0x10 16).map (fun i => Reg.FC_NOTICE_INFO i) else none)
    <|> (if 0x408 ≤ o then (famIdx (o - 0x408) 0x10 16).map (fun i => Reg.FC_NOTICE_ADDR i) else none)
    <|> (if 0x800 ≤ o then (famIdx (o - 0x800) 0x8 8).map (fun i => Reg.FC_REPORT i) else none)
    <|> (if 0x1000 ≤ o then (famIdx (o - 0x1000) 0x8 1536).map (fun i => Reg.FC_SRC i) else none)

/-- The register at offset o within the block EVR, if any (R435: an offset that names none reads zero). -/
def regInEVR (o : Nat) : Option Reg :=
  match o with
  | 0x100 => some (.EVR_SWTRIG)
  | 0x110 => some (.EVR_DROP_STATUS)
  | _ =>
    (if 0x1000 ≤ o then (famIdx (o - 0x1000) 0x8 64).map (fun i => Reg.EVR_TIMER i) else none)
    <|> (if 0x4000 ≤ o then (famIdx (o - 0x4000) 0x8 2048).map (fun i => Reg.EVR_SRC i) else none)

/-- The register at offset o within the block WLD, if any (R435: an offset that names none reads zero). -/
def regInWLD (o : Nat) : Option Reg :=
  match o with
  | 0x0 => some (.WLD_CTL)
  | 0x10 => some (.WLD_VIOL_INFO)
  | 0x18 => some (.WLD_VIOL_ADDR)
  | 0x200 => some (.WLD_POT_OP)
  | 0x208 => some (.WLD_POT_OP_PAGE)
  | 0x210 => some (.WLD_POT_STATUS)
  | 0x218 => some (.WLD_POT_QUERY)
  | 0x500 => some (.WLD_PWR_REQ)
  | 0x508 => some (.WLD_PWR_STATUS)
  | 0x600 => some (.WLD_DBG_FUSE)
  | 0x608 => some (.WLD_DBG_GRANT)
  | _ =>
    (if 0x100 ≤ o then (famIdx (o - 0x100) 0x20 4).map (fun i => Reg.WLD_POT_TABLE i) else none)
    <|> (if 0x108 ≤ o then (famIdx (o - 0x108) 0x20 4).map (fun i => Reg.WLD_POT_FIRST i) else none)
    <|> (if 0x110 ≤ o then (famIdx (o - 0x110) 0x20 4).map (fun i => Reg.WLD_POT_LAST i) else none)
    <|> (if 0x300 ≤ o then (famIdx (o - 0x300) 0x8 16).map (fun i => Reg.WLD_PAGES i) else none)
    <|> (if 0x400 ≤ o then (famIdx (o - 0x400) 0x8 16).map (fun i => Reg.WLD_WORLD_CFG i) else none)
    <|> (if 0x480 ≤ o then (famIdx (o - 0x480) 0x8 16).map (fun i => Reg.WLD_CONSENT i) else none)
    <|> (if 0x2000 ≤ o then (famIdx (o - 0x2000) 0x8 2560).map (fun i => Reg.WLD_FN_OWN i) else none)
    <|> (if 0x8000 ≤ o then (famIdx (o - 0x8000) 0x8 1024).map (fun i => Reg.WLD_INST_OWN i) else none)
    <|> (if 0xa000 ≤ o then (famIdx (o - 0xa000) 0x8 64).map (fun i => Reg.WLD_MBX_OWN i) else none)
    <|> (if 0xb000 ≤ o then (famIdx (o - 0xb000) 0x8 2048).map (fun i => Reg.WLD_SRC_OWN i) else none)
    <|> (if 0xf000 ≤ o then (famIdx (o - 0xf000) 0x8 16).map (fun i => Reg.WLD_UZMB_OWN i) else none)

/-- The register at offset o within the block QOS, if any (R435: an offset that names none reads zero). -/
def regInQOS (o : Nat) : Option Reg :=
  match o with
  | 0x0 => some (.QOS_CTL)
  | 0x8 => some (.QOS_CAPACITY)
  | 0x10 => some (.QOS_STATUS)
  | 0x18 => some (.QOS_MISS)
  | _ =>
    (if 0x100 ≤ o then (famIdx (o - 0x100) 0x8 16).map (fun i => Reg.QOS_CLASS i) else none)
    <|> (if 0x200 ≤ o then (famIdx (o - 0x200) 0x8 64).map (fun i => Reg.QOS_LABEL_MAP i) else none)
    <|> (if 0x400 ≤ o then (famIdx (o - 0x400) 0x8 16).map (fun i => Reg.QOS_BYTES i) else none)

/-- The register at offset o within the block UZ, if any (R435: an offset that names none reads zero). -/
def regInUZ (o : Nat) : Option Reg :=
  match o with
  | 0x0 => some (.UZ_STATUS)
  | 0x8 => some (.UZ_CTL)
  | 0x10 => some (.UZ_THERM_CFG)
  | 0x100 => some (.UZ_LR_STATUS)
  | 0x108 => some (.UZ_LR_READ)
  | 0xf00 => some (.UZ_ARR_SEL)
  | 0xf08 => some (.UZ_ARR_STATUS)
  | _ =>
    (if 0x200 ≤ o then (famIdx (o - 0x200) 0x8 32).map (fun i => Reg.UZ_LR_DATA i) else none)
    <|> (if 0x1000 ≤ o then (famIdx (o - 0x1000) 0x200 16).map (fun i => Reg.UZ_MBX_CTL i) else none)
    <|> (if 0x1100 ≤ o ∧ o < 0x1100 + 16 * 0x200 ∧ (o - 0x1100) % 8 = 0 ∧ (o - 0x1100) % 0x200 / 8 < 31 then
      some (.UZ_MBX_DATA ((o - 0x1100) / 0x200) ((o - 0x1100) % 0x200 / 8)) else none)

/-- The register at offset o within the block PAIR, if any (R435: an offset that names none reads zero). -/
def regInPAIR (o : Nat) : Option Reg :=
  match o with
  | 0x0 => some (.PAIR_CFG)
  | 0x8 => some (.PAIR_CTL)
  | 0x10 => some (.PAIR_STATUS)
  | 0x18 => some (.PAIR_PARTNER_SERIAL)
  | 0x20 => some (.PAIR_DIRTY_BASE)
  | 0x28 => some (.PAIR_RESYNC_STATUS)
  | _ =>
    (if 0x100 ≤ o then (famIdx (o - 0x100) 0x20 16).map (fun i => Reg.PAIR_REGION_BASE i) else none)
    <|> (if 0x108 ≤ o then (famIdx (o - 0x108) 0x20 16).map (fun i => Reg.PAIR_REGION_LIMIT i) else none)
    <|> (if 0x110 ≤ o then (famIdx (o - 0x110) 0x20 16).map (fun i => Reg.PAIR_REGION_REMOTE i) else none)
    <|> (if 0x118 ≤ o then (famIdx (o - 0x118) 0x20 16).map (fun i => Reg.PAIR_REGION_STATUS i) else none)

/-- The register at offset o within the block GAL, if any (R435: an offset that names none reads zero). -/
def regInGAL (r : Nat) (o : Nat) : Option Reg :=
  match o with
  | 0x0 => some (.GAL_ID r)
  | 0x8 => some (.GAL_PORT_CTL r)
  | 0x100 => some (.GAL_FENCE_CTL r)
  | 0x108 => some (.GAL_FENCE_STATUS r)
  | 0x200 => some (.GAL_ERR_STATUS r)
  | 0x300 => some (.GAL_PRB_CTL r)
  | 0x308 => some (.GAL_PRB_FILTER r)
  | 0x310 => some (.GAL_PRB_REQ r)
  | 0x318 => some (.GAL_PRB_ADDR_LO r)
  | 0x320 => some (.GAL_PRB_ADDR_HI r)
  | 0x328 => some (.GAL_PRB_TBASE r)
  | 0x330 => some (.GAL_PRB_TLIMIT r)
  | 0x338 => some (.GAL_PRB_TPTR r)
  | _ =>
    (if 0x340 ≤ o then (famIdx (o - 0x340) 0x8 3).map (fun i => Reg.GAL_PRB_CNT r i) else none)

/-- The register at offset o within the block HALL, if any (R435: an offset that names none reads zero). -/
def regInHALL (n : Nat) (o : Nat) : Option Reg :=
  match o with
  | 0x100 => some (.HALL_FLIGHT_STATUS n)
  | 0x1000 => some (.HALL_CACHE_CTL n)
  | 0x1008 => some (.HALL_CACHE_STATUS n)
  | 0x1100 => some (.HALL_MNT_BASE n)
  | 0x1108 => some (.HALL_MNT_LIMIT n)
  | 0x1110 => some (.HALL_MNT_CTL n)
  | 0x1118 => some (.HALL_MNT_STATUS n)
  | 0x1200 => some (.HALL_DIR_STATUS n)
  | 0x1208 => some (.HALL_DIR_COUNT n)
  | 0x1400 => some (.HALL_ARR_SEL n)
  | 0x1408 => some (.HALL_ARR_STATUS n)
  | 0x1500 => some (.HALL_DRAM_STATUS n)
  | 0x1600 => some (.HALL_PATROL_CFG n)
  | 0x1608 => some (.HALL_PATROL_STATUS n)
  | 0x1700 => some (.HALL_DRAM_CTL n)
  | _ =>
    (if 0x200 ≤ o then (famIdx (o - 0x200) 0x10 16).map (fun i => Reg.HALL_CLASS_STAT n i) else none)
    <|> (if 0x208 ≤ o then (famIdx (o - 0x208) 0x10 16).map (fun i => Reg.HALL_CLASS_BYTES n i) else none)
    <|> (if 0x1508 ≤ o then (famIdx (o - 0x1508) 0x8 2).map (fun i => Reg.HALL_DRAM_DEV n i) else none)

/-- The register at offset o within the block JL, if any (R435: an offset that names none reads zero). -/
def regInJL (k : Nat) (o : Nat) : Option Reg :=
  match o with
  | 0x0 => some (.JL_CFG k)
  | 0x8 => some (.JL_STATUS k)
  | 0x10 => some (.JL_RETRY k)
  | 0xf00 => some (.JL_ARR_SEL k)
  | 0xf08 => some (.JL_ARR_STATUS k)
  | _ =>
    none

/-- The register at offset o within the block PORT, if any (R435: an offset that names none reads zero). -/
def regInPORT (n : Nat) (o : Nat) : Option Reg :=
  match o with
  | 0x0 => some (.PORT_CFG n)
  | 0x8 => some (.PORT_CTL n)
  | 0x500 => some (.PORT_WIN_CTL n)
  | 0xf00 => some (.PORT_ARR_SEL n)
  | 0xf08 => some (.PORT_ARR_STATUS n)
  | _ =>
    (if 0x100 ≤ o then (famIdx (o - 0x100) 0x8 4).map (fun i => Reg.PORT_STATUS n i) else none)
    <|> (if 0x200 ≤ o then (famIdx (o - 0x200) 0x8 4).map (fun i => Reg.PORT_ECAM n i) else none)
    <|> (if 0x300 ≤ o then (famIdx (o - 0x300) 0x10 4).map (fun i => Reg.PORT_CXL_BASE n i) else none)
    <|> (if 0x308 ≤ o then (famIdx (o - 0x308) 0x10 4).map (fun i => Reg.PORT_CXL_LIMIT n i) else none)
    <|> (if 0x400 ≤ o then (famIdx (o - 0x400) 0x8 4).map (fun i => Reg.PORT_EP_CFG n i) else none)
    <|> (if 0x600 ≤ o then (famIdx (o - 0x600) 0x8 4).map (fun i => Reg.PORT_SLOT n i) else none)
    <|> (if 0x700 ≤ o then (famIdx (o - 0x700) 0x8 4).map (fun i => Reg.PORT_CT n i) else none)
    <|> (if 0x800 ≤ o then (famIdx (o - 0x800) 0x8 4).map (fun i => Reg.PORT_ERR n i) else none)
    <|> (if 0x1000 ≤ o then (famIdx (o - 0x1000) 0x10 32).map (fun i => Reg.PORT_MWIN_BASE n i) else none)
    <|> (if 0x1008 ≤ o then (famIdx (o - 0x1008) 0x10 32).map (fun i => Reg.PORT_MWIN_LIMIT n i) else none)
    <|> (if 0x4000 ≤ o then (famIdx (o - 0x4000) 0x8 256).map (fun i => Reg.PORT_FN_CFG n i) else none)
    <|> (if 0x5000 ≤ o then (famIdx (o - 0x5000) 0x8 256).map (fun i => Reg.PORT_FN_WIN n i) else none)

/-- The register at offset o within the block SE, if any (R435: an offset that names none reads zero). -/
def regInSE (c : Nat) (o : Nat) : Option Reg :=
  match o with
  | 0x0 => some (.SE_CL_CFG c)
  | 0xf00 => some (.SE_ARR_SEL c)
  | 0xf08 => some (.SE_ARR_STATUS c)
  | _ =>
    (if 0x100 ≤ o then (famIdx (o - 0x100) 0x8 8).map (fun i => Reg.SE_ENG_STATUS c i) else none)
    <|> (if 0x10000 ≤ o then (famIdx (o - 0x10000) 0x40 544).map (fun i => Reg.SE_INST_CFG c i) else none)
    <|> (if 0x10008 ≤ o then (famIdx (o - 0x10008) 0x40 544).map (fun i => Reg.SE_INST_DRING c i) else none)
    <|> (if 0x10010 ≤ o then (famIdx (o - 0x10010) 0x40 544).map (fun i => Reg.SE_INST_CRING c i) else none)
    <|> (if 0x10018 ≤ o then (famIdx (o - 0x10018) 0x40 544).map (fun i => Reg.SE_INST_DLV c i) else none)
    <|> (if 0x10020 ≤ o then (famIdx (o - 0x10020) 0x40 544).map (fun i => Reg.SE_INST_SHARE c i) else none)
    <|> (if 0x10028 ≤ o then (famIdx (o - 0x10028) 0x40 544).map (fun i => Reg.SE_INST_CTL c i) else none)
    <|> (if 0x10030 ≤ o then (famIdx (o - 0x10030) 0x40 544).map (fun i => Reg.SE_INST_STATUS c i) else none)
    <|> (if 0x800000 ≤ o then (famIdx (o - 0x800000) 0x1000 544).map (fun i => Reg.SE_DB_TAIL c i) else none)
    <|> (if 0x800008 ≤ o then (famIdx (o - 0x800008) 0x1000 544).map (fun i => Reg.SE_DB_CPL_HEAD c i) else none)
    <|> (if 0x800010 ≤ o then (famIdx (o - 0x800010) 0x1000 544).map (fun i => Reg.SE_DB_STATUS c i) else none)
    <|> (if 0x800018 ≤ o then (famIdx (o - 0x800018) 0x1000 544).map (fun i => Reg.SE_DB_RETURN c i) else none)
    <|> (if 0x800020 ≤ o then (famIdx (o - 0x800020) 0x1000 544).map (fun i => Reg.SE_DB_DLV_TAIL c i) else none)

/-- The register at offset o within the block CD, if any (R435: an offset that names none reads zero). -/
def regInCD (n : Nat) (o : Nat) : Option Reg :=
  match o with
  | 0x100 => some (.CD_CORE_MAP_0 n)
  | 0x108 => some (.CD_CORE_MAP_1 n)
  | 0x110 => some (.CD_CORE_STATUS n)
  | 0x200 => some (.CD_PACER_CFG n)
  | 0x208 => some (.CD_PACER_STATUS n)
  | 0x210 => some (.CD_SUPPLY_CFG n)
  | 0x218 => some (.CD_SUPPLY_STATUS n)
  | 0x300 => some (.CD_RESET_VECTOR n)
  | 0x1000 => some (.LND_CTL n)
  | 0x1008 => some (.LND_STATUS n)
  | 0x1100 => some (.CME_BASE n)
  | 0x1108 => some (.CME_LIMIT n)
  | 0x1110 => some (.CME_CTL n)
  | 0x1118 => some (.CME_STATUS n)
  | 0x1400 => some (.CD_ARR_SEL n)
  | 0x1408 => some (.CD_ARR_STATUS n)
  | _ =>
    (if 0x400 ≤ o then (famIdx (o - 0x400) 0x8 24).map (fun i => Reg.CD_CORE_CTL n i) else none)
    <|> (if 0x500 ≤ o then (famIdx (o - 0x500) 0x8 24).map (fun i => Reg.CD_MTIMECMP n i) else none)
    <|> (if 0x600 ≤ o then (famIdx (o - 0x600) 0x8 24).map (fun i => Reg.CD_IMSIC_OWNER n i) else none)

/-- Where an offset of register space falls: a register, a hole inside a block's extent (R435), an IOMMU register
page (R438), an interrupt file (R74), or no block at all (R433). -/
inductive RegSel where
  | reg (r : Reg)
  | hole
  | iommu (station o : Nat)
  | file (die core file o : Nat)
  | outside
  deriving DecidableEq, Repr

/-- The selection of a register, or a hole. -/
def RegSel.ofOption : Option Reg → RegSel
  | some r => .reg r
  | none => .hole

/-- The decoding of a register-space offset (R433, R74, R438). -/
def regDecode (a : Nat) : RegSel :=
  if a < 0x70000 then
    match a / 0x10000 with
    | 0 => .ofOption (regInPKG (a % 0x10000))
    | 1 => .ofOption (regInFC (a % 0x10000))
    | 2 => .ofOption (regInEVR (a % 0x10000))
    | 3 => .ofOption (regInWLD (a % 0x10000))
    | 4 => .ofOption (regInQOS (a % 0x10000))
    | 5 => .ofOption (regInUZ (a % 0x10000))
    | _ => .ofOption (regInPAIR (a % 0x10000))
  else if 0x1000000 ≤ a ∧ a < 0x1000000 + 48 * 0x10000 then
    .ofOption (regInGAL ((a - 0x1000000) / 0x10000) (a % 0x10000))
  else if 0x2000000 ≤ a ∧ a < 0x2000000 + 16 * 0x100000 then
    .ofOption (regInHALL ((a - 0x2000000) / 0x100000) (a % 0x100000))
  else if 0x3000000 ≤ a ∧ a < 0x3000000 + 26 * 0x10000 then
    .ofOption (regInJL ((a - 0x3000000) / 0x10000) (a % 0x10000))
  else if 0x4000000 ≤ a ∧ a < 0x4000000 + 10 * 0x100000 then
    if 0x8000 ≤ a % 0x100000 ∧ a % 0x100000 < 0x9000 then .iommu ((a - 0x4000000) / 0x100000) (a % 0x1000)
    else .ofOption (regInPORT ((a - 0x4000000) / 0x100000) (a % 0x100000))
  else if 0x5000000 ≤ a ∧ a < 0x5000000 + 2 * 0x1000000 then
    .ofOption (regInSE ((a - 0x5000000) / 0x1000000) (a % 0x1000000))
  else if 0x10000000 ≤ a ∧ a < 0x10000000 + 12 * 0x1000000 then
    if 0x800000 ≤ a % 0x1000000 ∧ a % 0x1000000 < 0x800000 + 24 * 0x8000 then
      .file ((a - 0x10000000) / 0x1000000) ((a % 0x1000000 - 0x800000) / 0x8000)
        (a % 0x8000 / 0x1000) (a % 0x1000)
    else .ofOption (regInCD ((a - 0x10000000) / 0x1000000) (a % 0x1000000))
  else .outside

end Sys2Proof.Machine
end

