-- ==== Sys2Proof/Machine/State.lean ====
section
/-! DEFINITION. The state of one HLP6288-A package as plain data, the reasons a step can stop, and the state after
reset: the part with its standby rails off, before the rise of PWRGD_STBY (R417, R450). -/

namespace Sys2Proof.Machine

/-- No command ends in a fault: whatever the manual calls a fault is an effect on the state (a trap of a hart, a report to
the fault collector). The one reason below is raised by nothing in this model. -/
inductive Fault where
  /-- Raised by no command: kept so that the type is not empty. Safe. -/
  | unreachable
  deriving DecidableEq, Repr

/-- The reasons a command is refused. -/
inductive Refusal where
  /-- The command has no meaning in the model. Raised by an arm of exec only. Safe. -/
  | notModelled (mnemonic : String)
  /-- The command's operands name something the package does not have (a die above 11, a hart above 287, a message of
  another row's kind). Raised by every command whose operands Instr.wellFormed refuses. Safe: no such command exists. -/
  | badOperand
  deriving DecidableEq, Repr

/-- The states of a line in an L2 (R174). -/
inductive Moesi where
  | I | S | E | O | M
  deriving DecidableEq, Repr

/-- What a hart is doing. -/
inductive HartRun where
  /-- Held in reset, or never started (R417 before step 14, R83 steps 1 to 4). -/
  | held
  | running
  /-- In WFI (R34). -/
  | wfi
  /-- Halted for debug (R85). -/
  | halted
  /-- A predictor clear runs (R70): the hart executes nothing. -/
  | clearing
  deriving DecidableEq, Repr

/-- A tile register (R87) and the check data the unit holds for it (R131). Elements are keyed 32i + j; unlisted ones
are zero. -/
structure Tile where
  cfg : Word
  el : Sparse Nat
  rowSum : Sparse Int
  colSum : Sparse Int
  lane : Sparse Nat
  deriving DecidableEq, Repr

/-- An accumulator (R87) and its held column sums (R132). -/
structure TAcc where
  cfg : Word
  el : Sparse Nat
  colSum : Sparse Nat
  deriving DecidableEq, Repr

/-- One interrupt file (R74): pending and enabled identities, eidelivery and eithreshold. -/
structure IFile where
  eip : List Nat
  eie : List Nat
  delivery : Word
  threshold : Word
  deriving DecidableEq, Repr

/-- A demand miss that trains a prefetcher: the world and the context hash of R68, and its address (or line). -/
structure MissAt where
  world : Nat
  hash : Nat
  addr : Nat
  deriving DecidableEq, Repr

/-- A trained stream of a prefetcher (R71, R72): the world and context hash of R68, its stride in bytes, and the address it reached
last. -/
structure Stream where
  world : Nat
  hash : Nat
  stride : Int
  last : Nat
  deriving DecidableEq, Repr

/-- An entry of the branch direction predictor, with its tag (R68): the branch's address and the direction it predicts. -/
structure DirectionEntry where
  world : Nat
  hash : Nat
  pc : Nat
  taken : Bool
  deriving DecidableEq, Repr

/-- An entry of the branch target buffer. -/
structure TargetEntry where
  world : Nat
  hash : Nat
  pc : Nat
  target : Nat
  deriving DecidableEq, Repr

/-- An entry of the return stack. -/
structure ReturnEntry where
  world : Nat
  hash : Nat
  addr : Nat
  deriving DecidableEq, Repr

/-- An entry of the loop predictor: the branch that closes the loop, the iterations of the execution under way, the trip count of the
latest completed one, and how many completed ones in a row had it. -/
structure LoopEntry where
  world : Nat
  hash : Nat
  pc : Nat
  count : Nat
  trip : Nat
  same : Nat
  deriving DecidableEq, Repr

/-- The branch predictors of a hart's core (R68 to R71). The latest entry is first. -/
structure Predictors where
  dir : List DirectionEntry
  tgt : List TargetEntry
  ras : List ReturnEntry
  loops : List LoopEntry
  deriving DecidableEq, Repr

/-- One hart: its architectural registers, its tile state, its interrupt files and what it waits for. -/
structure Hart where
  run : HartRun
  /-- Privilege: 0 U, 1 S, 3 M; `virt` is V. -/
  priv : Nat
  virt : Bool
  pc : Word
  x : Sparse Word
  f : Sparse Word
  v : Sparse (BitVec 256)
  /-- CSRs by number; an unlisted one holds its reset value. -/
  csr : Sparse Word
  /-- The reservation of an LR: the line (R197: a 64-byte reservation set). -/
  resv : Option Nat
  /-- Instructions issued and not yet performed, oldest first. -/
  hq : List Instr
  tile : Sparse Tile
  tacc : Sparse TAcc
  /-- Tile instructions sent to the unit and not yet completed, oldest first: the steps each occupies (R116, R122). -/
  tsent : List Nat
  /-- Instructions performed since the youngest of those was sent: they retire after it (R116). -/
  younger : Nat
  file : Sparse IFile
  /-- Lines present in L1I, oldest first, and in L1D, each with its way (R145 to R147): an L1 holds no data that differs from L2. -/
  l1i : List Nat
  l1d : List (Nat × Nat)
  /-- Bits of lines present in an L1 that parity did not see go wrong (R306), keyed line * 2, plus 1 in L1D. -/
  l1x : Sparse Line := []
  /-- A haltreq that waits for a world with invasive debug enabled (R86). -/
  haltPending : Bool
  /-- A halt that takes place once the access that has begun is over (R86): its cause. -/
  haltWait : Option Nat := none
  /-- The lines of main memory that accesses of the oldest waiting instruction wait for (R175, R188). -/
  awaits : List Nat := []
  /-- An access of the hart that was refused (R64, R217): the line or register, the CHECK code (0 when no world check
  refused it) and the POT entry. -/
  refusal : Option (Nat × Nat × Nat)
  /-- An access to an I/O region that is outstanding: whether it has been answered, and the status and data of the
  answer (R205). -/
  io : Option (Option (Nat × Word))
  /-- The transaction tag of an access to an I/O region that is outstanding (R181). -/
  ioTag : Nat
  /-- What the accesses of the oldest waiting instruction have read so far (R114): number of the access and bytes. -/
  got : List (Nat × Nat)
  /-- The physical addresses of its accesses, by number, once every one has been translated: a tile instruction is then sent (R116). -/
  xlat : List (Nat × Nat)
  /-- An interrupt accepted and waiting for the tile unit to drain (R117): its cause. -/
  irqWait : Option Nat
  /-- The demand misses the prefetchers have trained on since the latest clear (R71, R72), latest first: addresses of L1D
  misses and lines of L2 misses. -/
  l1dMiss : List MissAt
  l2Miss : List MissAt
  /-- The streams the prefetchers have trained, 64 of L1D and 32 of L2, latest first. -/
  l1dStreams : List Stream
  l2Streams : List Stream
  pred : Predictors
  /-- The instruction fetched last, by address and word, while nothing but its own outcome has decided what is fetched next. -/
  fetched : Option (Nat × Nat)
  /-- The triggers (R85): tdata1 and tdata2 by index, eight of mcontrol6 and one of icount. -/
  trig1 : Sparse Word
  trig2 : Sparse Word
  deriving DecidableEq, Repr

/-- A line in an L2 (R174), with the world that admitted it (R148) and its poison (R317). `hold` is, while the hold
of R188 lasts, the package time at which the line was installed and that at which its minimum ends; `winning` says that
the access that won it has not completed, and `pinned` that this access was an LR whose SC has not been executed. `way` is the way of
its set in which it stands (R145). -/
structure L2Line where
  st : Moesi
  world : Nat
  data : Line
  poison : Bool
  hold : Option (Nat × Nat)
  pinned : Bool
  winning : Bool := false
  way : Nat := 0
  deriving DecidableEq, Repr

/-- An entry of an L2 write-back buffer (R147, R167, R192). -/
structure WbEntry where
  h : Nat
  line : Nat
  st : Moesi
  world : Nat
  data : Line
  poison : Bool
  sent : Bool
  superseded : Bool
  /-- KEEP and the transaction tag of the WB_DATA sent (R181, R182). -/
  keep : Bool := false
  tag : Nat := 0
  /-- The world and label of the maintenance operation that writes the line back (R160, R464); none for an eviction. -/
  cme : Option (Nat × Nat) := none
  deriving DecidableEq, Repr

/-- A line of a landing cache (R149, R150). -/
structure LndLine where
  data : Line
  poison : Bool
  world : Nat
  shadowed : Bool
  way : Nat := 0
  deriving DecidableEq, Repr

/-- A request of a die for a line at its home (R175, R183): the message sent, and what has come back. -/
structure Miss where
  req : Msg
  h : Nat
  comp : Option Msg
  data : Option Msg
  fwd : Option Msg
  deriving DecidableEq, Repr

/-- A directory entry (R178). -/
structure DirEntry where
  state : Nat
  bcast : Bool
  owner : Nat
  ptrs : List Nat
  deriving DecidableEq, Repr

/-- A line of a hall cache (R153 to R155). -/
structure HcLine where
  data : Line
  poison : Bool
  dirty : Bool
  way : Nat
  deriving DecidableEq, Repr

/-- A transaction that occupies its line at the home (R187): the request, the directory entry when it started, the dies
whose RSP it awaits, the line an answer brought back with its poison, what the owner answered (HELD, and whether it
forwarded, dirty), whether a lost die failed to answer (R195), and whether the hall has answered, so that only COMP_ACK
is missing. A back-invalidation (R180) is a transaction whose request is a BACK_INV. -/
structure Txn where
  req : Msg
  before : DirEntry
  await : List Nat
  got : Option (Line × Bool)
  ownerHeld : Nat
  fwd : Bool
  fwdDirty : Bool
  lost : Bool
  granted : Bool
  /-- When the transaction started: its snoops have been unanswered since then (R245). -/
  since : Nat := 0
  /-- Of a back-invalidation, the line of the request that waits for the way (R180). -/
  forLine : Option Nat := none
  deriving DecidableEq, Repr

/-- One tread of a flight (R252). -/
inductive TreadType where
  | maint
  | guar (c : Nat)
  | opn
  deriving DecidableEq, Repr

/-- A request that waits at a hall for a tread (R256): its class, its line, its direction, whether the line read is
allocated in the hall cache (R154), and the request a read answers; whether its data has been taken already, as that of a whole
transaction is, so that it waits for its burst alone (R251, log entry 19); and whether it is maintenance work: a patrol read or
write-back, or a fetch of POT entries (R252). -/
structure TreadReq where
  cls : Nat
  line : Nat
  write : Bool
  alloc : Bool
  req : Msg
  done : Bool := false
  maint : Bool := false
  /-- What the burst's codeword held has been acted on by the command that began it (R320). -/
  known : Bool := false
  deriving DecidableEq, Repr

/-- What a hall holds beside its registers. -/
structure HallSt where
  flight : List TreadType
  pos : Nat
  waiting : List TreadReq
  /-- The return buffer: the data that the channel has delivered over the bridge and that has not left the hall (R40, R214). -/
  ret : List Msg
  /-- For each class, the treads since a younger request of the class went first (R256). -/
  bypass : Sparse Nat
  /-- The class after which the open-tread rotation goes on (R256). -/
  rr : Nat
  dimmC : Nat
  /-- Window bookkeeping (R269): boundaries until the end of the window plus 1 (0 before the first window, 1 when the
  window is complete and awaits its verdict), its length in revolutions, treads credited
  per class, classes without backlog at some tread, classes with a bank-limited tread, and whether the next window to
  begin is a warm-up window. -/
  winLeft : Nat
  winLen : Nat
  credited : Sparse Nat
  idle : List Nat
  bankLtd : List Nat
  warm : Bool
  /-- The scaled guaranteed treads in force, by class (R260). -/
  g : Sparse Nat
  /-- RETURN has written every line of the channel poisoned (R323). -/
  allPoison : Bool
  /-- The latest training of the channel failed (R418). -/
  trainBad : Bool
  /-- POISON_SEEN of R320: poisoned lines the patrol engine has read. -/
  poisonSeen : Nat
  /-- When the patrol engine last read a line (R319). -/
  patrolAt : Nat := 0
  deriving DecidableEq, Repr

/-- A bundle a transmitter has sent (R228, R231): its SEQ, its units with the SLOT_MAP code of each, the packets they are, and
whether the receiver has passed it on. -/
structure SentBundle where
  seq : Nat
  units : List Line
  slots : List Nat
  pkts : List Packet
  passed : Bool
  /-- A unit of it in the replay buffer cannot be read: it cannot be resent (R313). -/
  bad : Bool := false
  deriving DecidableEq, Repr

/-- One end of a Jotor link (R228 to R233). -/
structure LinkEnd where
  nextSeq : Nat
  expSeq : Nat
  /-- Unacknowledged bundles, oldest first. -/
  replay : List SentBundle
  /-- Packets that wait here for the link ahead of any other: those that left the mesh for it, and those of a failed sibling. -/
  out : List Packet
  /-- Control units that wait to be sent (R230). -/
  ctl : List Line
  /-- The receive buffer: packets received in order and not yet passed on, 24 units for each VC (R229). -/
  rxBuf : List Packet
  /-- The VC whose count the next trailer returns first (R229). -/
  crNext : Nat
  /-- The IDENT that has arrived here as a control unit since training (R230, R238). -/
  identIn : Option Ident
  /-- The same of a link of Jotor-P (R395). -/
  pairIdent : Option PairIdent := none
  /-- On Jotor-P, the packets received in order and not yet passed on, as their units (R229, R404). -/
  pairBuf : List (List Line) := []
  /-- SENT and FREED of each VC, and the FREED the other end reported last (R229). -/
  sent : Sparse Nat
  freed : Sparse Nat
  peerFreed : Sparse Nat
  /-- The expected SEQ for which a NAK has been sent (R231). -/
  nakFor : Option Nat
  /-- The SEQ that fails now and how many times in a row it has failed. -/
  failSeq : Nat
  failRun : Nat
  /-- Package times of this end's retries, latest first (R233). -/
  retryAt : List Nat
  /-- The units of the bundle passed on last. -/
  rx : List Line
  /-- The NAK and acknowledgement this end sends in its next trailer. -/
  nakOut : Bool
  /-- Bundles resent, waiting on the wire. -/
  resend : List SentBundle
  lastHeard : Nat
  /-- The latest acknowledgement, or the first bundle sent after none was outstanding: REPLAY_TIMEOUT counts from here. -/
  waitFrom : Nat
  /-- Failures of the link, as the life record counts them. -/
  fails : Nat
  deriving DecidableEq, Repr

/-- What a compute die holds beside its registers and its cores. -/
structure DieSt where
  mv : Nat
  tj : Nat
  belowSince : Option Nat
  /-- The rail has been below its retention floor since the die was last powered or reset (R49). -/
  floorLost : Bool
  setMv : Nat
  /-- CAP_EN of IDENT_ACK (R239): the capabilities the die's harts have. -/
  capEn : Nat
  ident : Ident
  /-- What a reset of the die found, while its links wait for the rail to be within R43 (R236). -/
  startWait : Option DieStart := none
  /-- The lines that an ENABLE_INVALIDATE or DISABLE_OFF of its landing cache has still to drop: an outstanding UPGRADE concerns
  them (R170, R183). -/
  lndLeft : List Nat := []
  /-- The die's estimated current in units of 0.01 A, of which EST_A shows whole amperes (R52). -/
  est : Nat := 0
  /-- The IDENT of the present reset has been accepted (R238); QUIESCED has been sent (R243). -/
  identOk : Bool
  quiesced : Bool
  /-- The allowance of the pacer in units of 0.01 A (R52), and the demand it last saw. -/
  allow : Nat
  demand : Nat
  issue : Nat
  /-- The core whose tile unit the pacer grants a step next (R52, R119). -/
  grantNext : Nat
  pkgShare : Nat
  droopEnd : Option Nat
  /-- Ticks during which the pacer limited (PACED_US). -/
  pacedNs : Nat
  /-- Failure marks of the life record (R14). -/
  failMark : Nat
  /-- The die has been lost and some hall's purge has not ended (R195). -/
  purging : Bool
  /-- The halls that have been notified of the loss (R195 step 2). -/
  told : List Nat
  /-- The thermal reductions in force (R421): steps of set-point and of CAP_A. -/
  thermSteps : Nat
  thermOk : Nat
  deriving DecidableEq, Repr

/-- The PMBus commands Uzomuris uses (R56); PAGE selects the rail of a multi-rail regulator. -/
inductive PmbusCmd where
  | page (n : Nat)
  | operation (on : Bool)
  | voutCommand (mv : Nat)
  | voutTransitionRate
  | readVin
  | readVout
  | readIout
  | readTemperature1
  | statusWord
  | clearFaults
  deriving DecidableEq, Repr

/-- A recent-correction entry (R309). -/
structure RcEntry where
  loc : Nat
  count : Nat
  rewritten : Bool
  force : Bool
  deriving DecidableEq, Repr

/-- A spare of a bank (R310): free, standing for a word, or unusable. -/
inductive Spare where
  | free
  | used (word : Nat)
  | dead
  deriving DecidableEq, Repr

/-- One bank of an RCP array (R308 to R311). A word is a location, plus 2^24 in the second copy of an array held in two. -/
structure Bank where
  /-- Latest updated first. -/
  recent : List RcEntry
  mends : List (Nat × Nat)
  spares : List Spare
  waysOff : List Nat
  slotsOff : List Nat
  /-- The location the bank was last found bad at (R333). -/
  last : Option Nat := none
  corr : Nat
  drops : Nat
  uncorr : Nat
  deriving DecidableEq, Repr

/-- A packet in a fence hold (R216): the injection port that holds it and since when. -/
structure HeldPkt where
  r : Nat
  port : Nat
  pkt : Packet
  since : Nat
  deriving DecidableEq, Repr

/-- The gallery. Buffers are keyed ((r * 8 + input port) * 3 + plane) * 4 + vc; port 6 is the control port. -/
structure Gallery where
  buf : Sparse (List Packet)
  /-- Units of each buffer that its sender counts as in use (R209), by the same key. -/
  used : Sparse Nat
  /-- How many times in a row a VC was passed over at an output (R210): ((r * 8 + output) * 3 + plane) * 4 + vc. -/
  passed : Sparse Nat
  /-- The input that was served last, by the same output key. -/
  lastIn : Sparse Nat
  hold : List HeldPkt
  /-- Packets released from a fence hold that wait at their injection port, ahead of later packets for the same port (R216). -/
  released : List HeldPkt
  /-- The VCs (keyed as buffers) of injection ports whose fence hold had no room for a packet (R216). -/
  stuck : List Nat
  /-- FENCE_MARKs that have arrived at a fenced port: (r * 2 + port, source * 12 + plane * 4 + vc). -/
  marks : List (Nat × Nat)
  /-- When the latest fence of each port began, by r * 2 + port. -/
  fencedAt : Sparse Nat := []
  /-- The records buffered by each probe (R224). -/
  trace : Sparse (List (BitVec 256))
  deriving DecidableEq, Repr

/-- A descriptor in flight (R377): its ring index, its 64 bytes, the engine that has started it, the segments it has had,
its outcome (STATUS and RESULT), and whether a mailbox has delivered it. -/
structure Flight where
  j : Nat
  desc : List Byte
  engine : Option Nat
  segs : Nat
  outcome : Option (Nat × Word)
  delivered : Bool
  /-- Data of it was lost in its engine's SRAM: what it writes is poisoned (R313). -/
  bad : Bool := false
  deriving DecidableEq, Repr

/-- What an instance holds beside its registers. -/
structure InstSt where
  inflight : List Flight
  phase : Bool
  cplNext : Nat
  resetAt : Option Nat
  /-- Segments had in the present round, by engine (R384). -/
  credit : Sparse Nat
  /-- A completion write was refused (R388): no later completion is written (R378). -/
  cplOff : Bool
  deriving DecidableEq, Repr

/-- A non-posted request of a port (R365). -/
structure PortReq where
  tag : Nat
  who : Who
  at_ : Nat
  acc : Nat
  addr : Nat
  fn : Nat
  /-- The window set under which it was translated (R362): the number of the changeover. -/
  era : Nat
  /-- The units reserved in the bridge for its answer (R40, R214). -/
  units : Nat := 1
  /-- The transaction tag and the size of the access it answers (R181, R205). -/
  msgTag : Nat := 0
  code : Nat := 0
  /-- The station's own request, for which nobody waits (R364 step 4). -/
  own : Bool := false
  deriving DecidableEq, Repr

/-- What port j of station n holds beside its registers. -/
structure PortSt where
  outst : List PortReq
  retired : List Nat
  nextTag : Nat
  slotCtl : Word
  slotSts : Word
  inHist : List Nat
  badRun : Nat
  lastIn : Nat
  perst : Bool
  pwrAt : Option Nat
  goodAt : Option Nat
  perstHigh : Bool
  dpc : Bool
  aer : Nat
  linkDis : Bool
  /-- The configuration space of a root port (R347), by dword; power to the slot cut until software turns it off and on
  again (R356); windows changed by the commit under way (R362); and the latest completion sent to a device or host: status,
  data and poison. -/
  cfg : Sparse (BitVec 32)
  cut : Bool
  winChanged : Bool
  cpl : Option (Nat × Line × Bool)
  /-- The attention button as last accepted (R354). -/
  attn : Bool := false
  /-- The functions whose PME messages the endpoint has sent upstream (R363). -/
  pmeOut : List Nat := []
  deriving DecidableEq, Repr

/-- What a station function holds beside its registers: its configuration space, its BARs in force, the lower BAR dword
held for its upper one (R361), power state, pending MSI-X vectors. -/
structure FnSt where
  cfg : Sparse (BitVec 32)
  bar : Sparse Nat
  barLow : Sparse (BitVec 32)
  memEn : Bool
  d3 : Bool
  pmeSts : Bool
  pmeEn : Bool
  msix : List Nat
  pageSel : Nat
  flrSince : Option Nat
  disabled : Bool
  /-- The commit under way changes this function's window (R362). -/
  winPend : Bool
  deriving DecidableEq, Repr

/-- A mirror line the source has queued or sent and the target has not acknowledged (R404). -/
structure MirLine where
  region : Nat
  seq : Nat
  line : Nat
  data : Line
  poison : Bool
  copy : Bool
  at_ : Nat
  /-- The pair link that carries it (R399, R406), and whether a bundle has. -/
  link : Nat := 24
  sent : Bool := false
  deriving DecidableEq, Repr

/-- The pair (spec/16_pair_operation.md). -/
structure PairSt where
  queue : List MirLine
  seq : Sparse Nat
  rxSeq : Sparse Nat
  /-- The acknowledgements the target owes, oldest first: region, SEQ and REFUSED (R404). -/
  ackOwed : List (Nat × Nat × Bool)
  /-- Completions held for a synchronous region (R401): the message and the SEQ per region it waits for. -/
  held : List (Msg × Nat × Nat)
  /-- The region table in force: BASE, LIMIT and REMOTE words per region. -/
  base : Sparse Word
  limit : Sparse Word
  remote : Sparse Word
  hbAt : Option Nat
  aliveAt : Option Nat
  yielded : Bool
  partnerYielded : Bool
  partnerReady : Bool
  partnerState : Nat
  srcAtSep : Bool
  tracking : Bool
  split : Bool
  /-- Regions that are copied completely (R396, R398): the next page to copy, counted from BASE, plus 1; 0 for none. -/
  fullCopy : Sparse Nat
  /-- Digests of the committed settings (R403): the partner's latest, and this package's. -/
  partnerDigest : Option Nat
  ownDigest : Nat
  hbOut : Nat
  /-- What PAIR_CFG has told the partner, the latest of each kind (R403). -/
  said : List PairCfg := []
  deriving DecidableEq, Repr

/-- A record of the life record (R427). `whole` is false for a record whose write was cut short (R428). -/
structure JRec where
  seq : Nat
  type : Nat
  time : Nat
  boot : Nat
  payload : List Byte
  whole : Bool := true
  deriving DecidableEq, Repr

/-- Uzomuris: the journal in MRAM, the rails it keeps, its firmware slots, its mailboxes. -/
structure UzSt where
  on : Bool
  half0 : List JRec
  half1 : List JRec
  gen0 : Nat
  gen1 : Nat
  formatted : Bool
  nextSeq : Nat
  boot : Nat
  /-- Records raised during a compaction (R430). -/
  sram : List JRec
  mainsOn : Bool
  tripped : Bool
  /-- Package droop events (R55), and the droop events of each compute die (R47), as the life record adds them up. -/
  droops : Nat
  dieDroops : Sparse Nat
  /-- When a hall throttled last (R422). -/
  throttleAt : Option Nat
  slotVer : List Nat
  slotOk : List Bool
  minVer : Nat
  nonce : Option (List Byte)
  /-- The debug grant in force (R301): when it began and when it ends. -/
  grantStart : Nat
  grantEnd : Option Nat
  image : List Byte
  resetPending : Bool
  lastAnswer : List Byte
  retryAt : Option Nat
  deriving DecidableEq, Repr

/-- A maintenance operation that runs (R159): its engine (die d, or 16 + hall), what it was started with, and the lines it
still waits for (R163). -/
structure MntRun where
  key : Nat
  op : Nat
  lnd : Bool
  cores : Nat
  world : Nat
  label : Nat
  wait : List Nat
  /-- The lines among these for which a cache-block operation is under way (R464). -/
  sent : List Nat := []
  /-- A home has refused a line of the range (R162). -/
  refused : Bool := false
  deriving DecidableEq, Repr

/-- A POT operation that runs (R288): whether its entries have been written (step 2), or it still waits for a power
request (R297). -/
structure PotOp where
  op : Nat
  page : Nat
  count : Nat
  dst : Nat
  started : Bool
  deriving DecidableEq, Repr

/-- The levels on the package control pins that are inputs or held outputs (R450). The ERR pins are functions of the
collector (R337). -/
structure Pins where
  pwrgd : Bool
  resetN : Bool
  droopN : Bool
  thermtripN : Bool
  pairAliveI : Bool
  pairAliveO : Bool
  pairRole : Nat
  mfgMode : Bool
  wakeN : List Nat
  deriving DecidableEq, Repr

/-- Everything the package holds but DRAM and the waiting commands. `free` is the MODEL's own counter: a command that
meets a value the manual leaves open reads it and advances it, and the value is an opaque function of Config applied to
it. -/
structure Chip where
  /-- Registers that do not hold their reset value, keyed by offset (R433). -/
  regs : Sparse Word
  /-- IOMMU register pages (R438), keyed station * 512 + offset / 8. -/
  iommu : Sparse Word
  /-- Package time (R6). -/
  now : Nat
  /-- During a holdover, since when REFCLK has been back in its window (R37). -/
  refclkGoodAt : Option Nat
  harts : Sparse Hart
  dies : Sparse DieSt
  /-- L2 lines keyed line * 288 + hart. -/
  l2 : Sparse L2Line
  wb : List WbEntry
  /-- Landing-cache lines keyed line * 12 + die. -/
  lnd : Sparse (Option LndLine)
  miss : List Miss
  /-- Snoops that wait at a die for the end of a hold (R188), oldest first. -/
  snoopQ : List Msg
  /-- Hits held for a world check (R148): hart, line and the transaction tag of the WCHK (R181). -/
  wchk : List (Nat × Nat × Nat)
  dir : Sparse DirEntry
  /-- The way in which the entry of a line stands, or room for one is kept (R177, R180). -/
  dirWay : Sparse (Option Nat)
  /-- The replacement state of the sets of L1D, L2, the landing and hall caches and the directory (R147, R155, R180). -/
  lru : Sparse Nat
  txn : List Txn
  homeQ : List Msg
  hc : Sparse (Option HcLine)
  /-- Ownership-cache lines keyed (line of POT entries) * 16 + hall (R282). -/
  ownc : Sparse (Option Line)
  halls : Sparse HallSt
  /-- Messages sent and not yet put on their way packet by packet, oldest first. -/
  net : List Msg
  /-- Packets that have left the mesh and wait at the port they are for, oldest first: keyed router * 3 + port, 2 for the control port.
  At a station this is the bridge's buffer towards it (R214). -/
  dlv : Sparse (List Packet)
  gal : Gallery
  /-- Jotor link ends keyed 2k (I/O die) and 2k + 1 (compute die, or the partner). -/
  link : Sparse LinkEnd
  /-- Token balances keyed port * 16 + class (R264), and the requests held at each (R265). -/
  tokens : Sparse Int
  portRate : Sparse Nat
  injQ : List (Nat × Msg)
  active : List Nat
  /-- The committed QoS set (R259): label map, class words, capacity. -/
  qosMap : Sparse Nat
  qosCls : Sparse Word
  qosCap : Nat
  banks : Sparse Bank
  /-- Reports held by each reporting unit (R329), keyed by unit, and the count of reports lost to a full hold. -/
  fcHold : Sparse (List Report)
  fcLost : Sparse Nat
  /-- Sources whose COUNT has changed since it was last recorded (R342). -/
  cntNew : List Nat := []
  /-- Lines that a die has still to write back and drop (R333): die and line. -/
  toDrop : List (Nat × Nat) := []
  /-- Requests held by the safe state (R339). -/
  safeQ : List Msg
  /-- MSIs formed and not yet delivered: source and the EVR_SRC entry they were formed from (R77, R81). -/
  msi : List (Nat × Word)
  /-- Device MSIs and MSI-X messages sent: function and vector. -/
  msix : List (Nat × Nat)
  /-- Units without power: (kind, index) of WLD_PWR_REQ (R297), and the request in progress. -/
  down : List (Nat × Nat)
  pwrReq : Option (Nat × Nat)
  pot : Option PotOp
  /-- The maintenance engines that run (R159 to R165). -/
  mnt : List MntRun
  /-- Rails by number: 0–11 VCD_n, 12 VIOD, 13 VPHY_D, 14 VPHY_S0, 15 VPHY_S1 (R416), in mV. -/
  rail : Sparse Nat
  railBadAt : Sparse Nat
  pmbusMiss : Sparse Nat
  /-- The PMBus commands of the latest exchange with the regulator of each rail (R56). -/
  pmbus : Sparse (List PmbusCmd)
  /-- The set-point of VIOD in mV (R43); VIOD has been below the retention floor since the latest package reset, and the droop events
  the I/O die's supervisor has counted (R50). -/
  viodSet : Nat
  viodFloor : Bool
  iodDroops : Nat
  /-- Power: the 100 µs samples of the averaging window (latest first), the start of a peak episode. -/
  watts : List Nat
  peakAt : Option Nat
  peakBar : Bool
  portSt : Sparse PortSt
  fnSt : Sparse FnSt
  /-- The station windows in force, keyed by the offset of the staged register, and the changeover number. -/
  winNow : Sparse Word
  winEra : Sparse Nat
  insts : Sparse InstSt
  engRR : Sparse Nat
  pair : PairSt
  uz : UzSt
  pins : Pins
  /-- The debug module's data register and command error (R85: the Debug Specification's data0/data1 and cmderr). -/
  dmData : Word
  dmErr : Nat
  /-- The program buffer of the debug module: 16 words (R85). -/
  dmProg : Sparse Nat
  free : Nat
  deriving DecidableEq, Repr

/-- The package: the chip, and the memory behind its channels. -/
structure Pkg where
  chip : Chip
  /-- DRAM, and the memory of CXL devices, byte by byte by physical address (R25). -/
  dram : List Host.Cell
  /-- Lines stored with the poison pattern (R316), by line number: 1 poisoned, 2 not poisoned; a line that is not listed
  has the poison its channel was last filled with (R323). -/
  dpoison : Sparse Nat
  deriving DecidableEq, Repr

/-- The state: the package, and the commands that wait, first in, first out. -/
structure State extends Pkg where
  pending : List Instr
  deriving DecidableEq, Repr

/-- An unconfigured tile register (R89). -/
def Tile.reset : Tile := { cfg := 0, el := [], rowSum := [], colSum := [], lane := [] }

/-- An unconfigured accumulator (R89, R132). -/
def TAcc.reset : TAcc := { cfg := 0, el := [], colSum := [] }

/-- An interrupt file after reset (R83 step 4: cleared). -/
def IFile.reset : IFile := { eip := [], eie := [], delivery := 0, threshold := 0 }

/-- No predictor entry is valid (R71). -/
def Predictors.reset : Predictors := { dir := [], tgt := [], ras := [], loops := [] }

/-- A hart before it is started: held in reset, in M-mode (R417 step 14), every register clear (R83, R90). -/
def Hart.reset : Hart :=
  { run := .held, priv := 3, virt := false, pc := 0, x := [], f := [], v := [], csr := [], resv := none, hq := [],
    tile := [], tacc := [], tsent := [], younger := 0, file := [], l1i := [], l1d := [], haltPending := false, refusal := none, io := none, ioTag := 0, got := [],
    xlat := [], irqWait := none, l1dMiss := [], l2Miss := [], l1dStreams := [], l2Streams := [], pred := Predictors.reset,
    fetched := none, trig1 := [], trig2 := [] }

/-- An invalid line of an L2. -/
def L2Line.invalid : L2Line := { st := .I, world := 0, data := 0, poison := false, hold := none, pinned := false }

/-- An entry of an empty directory. -/
def DirEntry.none : DirEntry := { state := 0, bcast := false, owner := 0, ptrs := [] }

/-- A hall before its channel is trained. -/
def HallSt.reset : HallSt :=
  { flight := [], pos := 0, waiting := [], ret := [], bypass := [], rr := 0, dimmC := 0, winLeft := 0, winLen := 0, credited := [], idle := [],
    bankLtd := [], warm := false, g := [], allPoison := false, trainBad := false, poisonSeen := 0 }

/-- A link end before training. -/
def LinkEnd.reset : LinkEnd :=
  { nextSeq := 0, expSeq := 0, replay := [], out := [], ctl := [], rxBuf := [], crNext := 0, identIn := none, sent := [], freed := [], peerFreed := [], nakFor := none, failSeq := 0,
    failRun := 0, retryAt := [], rx := [], nakOut := false, resend := [], lastHeard := 0, waitFrom := 0, fails := 0 }

/-- A compute die with its rail off. -/
def DieSt.reset : DieSt :=
  { mv := 0, tj := 0, belowSince := none, floorLost := false, setMv := 0, capEn := 0,
    ident := { link := 0, stepping := 0, serial := 0, cap := 0, failMask := 0 }, identOk := false, quiesced := false, allow := 0,
    demand := 0, issue := 8, grantNext := 0, pkgShare := 0, droopEnd := none, pacedNs := 0, failMark := 0, purging := false, told := [], thermSteps := 0, thermOk := 0 }

/-- A bank with no correction, every spare free (R312 with FIRST_LIFE). -/
def Bank.reset : Bank :=
  { recent := [], mends := [], spares := [], waysOff := [], slotsOff := [], corr := 0, drops := 0, uncorr := 0 }

/-- An instance after reset (R376, R387). -/
def InstSt.reset : InstSt :=
  { inflight := [], phase := true, cplNext := 0, resetAt := none, credit := [], cplOff := false }

/-- A port before the PORT commit. -/
def PortSt.reset : PortSt :=
  { outst := [], retired := [], nextTag := 0, slotCtl := 0x7C0, slotSts := 0, inHist := [], badRun := 0, lastIn := 0,
    perst := false, pwrAt := none, goodAt := none, perstHigh := false, dpc := false, aer := 0,
    linkDis := false, cfg := [], cut := false, winChanged := false, cpl := none }

/-- A function at its reset values. -/
def FnSt.reset : FnSt :=
  { cfg := [], bar := [], barLow := [], memEn := false, d3 := false, pmeSts := false, pmeEn := false, msix := [],
    pageSel := 0, flrSince := none, disabled := false, winPend := false }

/-- The pair before start-up. -/
def PairSt.reset : PairSt :=
  { queue := [], seq := [], rxSeq := [], ackOwed := [], held := [], base := [], limit := [], remote := [], hbAt := none,
    aliveAt := none, yielded := false, partnerYielded := false, partnerReady := false,
    partnerState := 0, srcAtSep := false, tracking := false, split := false, fullCopy := [],
    partnerDigest := none, ownDigest := 0, hbOut := 0 }

/-- Uzomuris without standby power, with an unformatted journal. -/
def UzSt.reset : UzSt :=
  { on := false, half0 := [], half1 := [], gen0 := 0, gen1 := 0, formatted := false, nextSeq := 0, boot := 0, sram := [],
    mainsOn := false, tripped := false, droops := 0, dieDroops := [], throttleAt := none, slotVer := [0, 0], slotOk := [true, true], minVer := 0,
    nonce := none, grantStart := 0, grantEnd := none, image := [], resetPending := false, lastAnswer := [],
    retryAt := none }

/-- The pins before power: the inputs inactive, THERMTRIP_N released. -/
def Pins.reset : Pins :=
  { pwrgd := false, resetN := true, droopN := true, thermtripN := true, pairAliveI := false, pairAliveO := false,
    pairRole := 0, mfgMode := false, wakeN := [] }

/-- An empty gallery. -/
def Gallery.reset : Gallery :=
  { buf := [], used := [], passed := [], lastIn := [], hold := [], released := [], stuck := [], marks := [], trace := [] }

/-- The chip right after reset: every register at its reset value, no hart started, package time not yet running
(R36). -/
def Chip.reset : Chip :=
  { regs := [], iommu := [], now := 0, refclkGoodAt := none, harts := [], dies := [], l2 := [], wb := [], lnd := [],
    miss := [], snoopQ := [], wchk := [], dir := [], dirWay := [], lru := [], txn := [], homeQ := [], hc := [], ownc := [],
    halls := [], net := [], dlv := [], gal := Gallery.reset, link := [], tokens := [], portRate := [], injQ := [],
    active := [], qosMap := [], qosCls := [], qosCap := 0, banks := [], fcHold := [], fcLost := [],
    safeQ := [], msi := [], msix := [], down := [], pwrReq := none, pot := none, mnt := [], rail := [],
    railBadAt := [], pmbusMiss := [], pmbus := [], viodSet := 0, viodFloor := false, iodDroops := 0, watts := [], peakAt := none, peakBar := false, portSt := [], fnSt := [],
    winNow := [], winEra := [], insts := [], engRR := [], pair := PairSt.reset, uz := UzSt.reset, pins := Pins.reset,
    dmData := 0, dmErr := 0, dmProg := [], free := 0 }

/-- The package right after reset: no byte of memory listed. -/
def Pkg.reset : Pkg := { chip := Chip.reset, dram := [], dpoison := [] }

/-- The state right after reset: nothing waits. -/
def State.reset : State := { toPkg := Pkg.reset, pending := [] }

end Sys2Proof.Machine
end

