-- ==== Sys2Proof/Machine/Ops.lean ====
section
/-! DEFINITION. The named operations every family is written over: numbers as bits, sparse maps in canonical form,
reading and writing registers and their fields, fault reports (R327 to R329), world violations (R303), event sources
(R77 to R82) and interrupt files (R74, R75). -/

namespace Sys2Proof.Machine

-- numbers as bits

/-- Bits [hi:lo] of a number. -/
def bits (n hi lo : Nat) : Nat := n / 2 ^ lo % 2 ^ (hi - lo + 1)

/-- Bit i of a number. -/
def bitAt (n i : Nat) : Bool := n.testBit i

/-- A number with bit i set, or cleared. -/
def withBit (n i : Nat) (b : Bool) : Nat :=
  if b then (if n.testBit i then n else n + 2 ^ i) else (if n.testBit i then n - 2 ^ i else n)

/-- 1 for true, 0 for false: a flag as a field holds it. -/
def flag (b : Bool) : Nat := if b then 1 else 0

/-- A list without its first element equal to x. -/
def dropFirst {α : Type} [DecidableEq α] (x : α) : List α → List α
  | [] => []
  | y :: ys => if y = x then ys else y :: dropFirst x ys

/-- The index of the first element that satisfies p. -/
def firstIdx {α : Type} (p : α → Bool) : List α → Option Nat
  | [] => none
  | x :: xs => if p x then some 0 else (firstIdx p xs).map (· + 1)

/-- f applied to the number from 0 up to n - 1 in turn. -/
def forUpTo {α : Type} (n : Nat) (f : Nat → α → α) (a : α) : α := (List.range n).foldl (fun acc i => f i acc) a

-- sparse maps

/-- The value at key k, where d is what an unlisted key reads as. -/
def sget {V : Type} (d : V) (k : Nat) : Sparse V → V
  | [] => d
  | (j, v) :: m => if j = k then v else sget d k m

/-- Insert an entry below the first larger key. -/
def sinsert {V : Type} (k : Nat) (v : V) : Sparse V → Sparse V
  | [] => [(k, v)]
  | (j, w) :: m => if k < j then (k, v) :: (j, w) :: m else (j, w) :: sinsert k v m

/-- Every entry but that of key k. -/
def serase {V : Type} (k : Nat) (m : Sparse V) : Sparse V := m.filter (fun e => e.1 != k)

/-- The map with v at key k: writing what an unlisted key reads as removes the entry. -/
def sset {V : Type} [DecidableEq V] (d : V) (k : Nat) (v : V) (m : Sparse V) : Sparse V :=
  if v = d then serase k m else sinsert k v (serase k m)

/-- The canonical form: keys rise strictly and no entry holds the unlisted value. -/
def Sparse.wf {V : Type} (d : V) (m : Sparse V) : Prop := m.Pairwise (fun a b => a.1 < b.1) ∧ ∀ e ∈ m, e.2 ≠ d

-- fields

/-- The number of bits of a field. -/
def Field.width (f : Field) : Nat := f.hi - f.lo + 1

/-- The field's value in a register. -/
def Field.get (f : Field) (w : Word) : Nat := w.toNat / 2 ^ f.lo % 2 ^ f.width

/-- The bits the field stands at. -/
def Field.mask (f : Field) : Word := BitVec.ofNat 64 ((2 ^ f.width - 1) * 2 ^ f.lo)

/-- The register with the field set to n, reduced to the field's width. -/
def Field.put (f : Field) (w : Word) (n : Nat) : Word :=
  (w &&& ~~~f.mask) ||| (BitVec.ofNat 64 (n % 2 ^ f.width * 2 ^ f.lo))

-- registers

/-- The stored value of a register. -/
def Chip.reg (c : Chip) (r : Reg) : Word := sget (BitVec.ofNat 64 r.reset) r.offset c.regs

/-- Store a register. -/
def Chip.setReg (c : Chip) (r : Reg) (v : Word) : Chip :=
  { c with regs := sset (BitVec.ofNat 64 r.reset) r.offset v c.regs }

/-- A register back at its reset value. -/
def Chip.resetReg (c : Chip) (r : Reg) : Chip := c.setReg r (BitVec.ofNat 64 r.reset)

/-- A field of a register. -/
def Chip.fld (c : Chip) (r : Reg) (f : Field) : Nat := f.get (c.reg r)

/-- A one-bit field of a register. -/
def Chip.bit (c : Chip) (r : Reg) (f : Field) : Bool := c.fld r f != 0

/-- Set a field of a register. -/
def Chip.setFld (c : Chip) (r : Reg) (f : Field) (n : Nat) : Chip := c.setReg r (f.put (c.reg r) n)

/-- Set a one-bit field of a register. -/
def Chip.setBit (c : Chip) (r : Reg) (f : Field) (b : Bool) : Chip := c.setFld r f (flag b)

/-- Add to a counter that saturates at the largest number its field holds. -/
def Chip.bump (c : Chip) (r : Reg) (f : Field) (n : Nat := 1) : Chip :=
  c.setFld r f (min (c.fld r f + n) (2 ^ f.width - 1))

/-- The base of register space (R433). -/
def regBase : Nat := 0xFF00000000000

/-- The physical address of a register. -/
def Reg.addr (r : Reg) : Nat := regBase + r.offset

-- the state's parts

/-- The hart with hart ID h. -/
def Chip.hart (c : Chip) (h : Nat) : Hart := sget Hart.reset h c.harts

/-- Store a hart. -/
def Chip.setHart (c : Chip) (h : Nat) (x : Hart) : Chip := { c with harts := sset Hart.reset h x c.harts }

/-- Change a hart. -/
def Chip.onHart (c : Chip) (h : Nat) (f : Hart → Hart) : Chip := c.setHart h (f (c.hart h))

/-- Compute die d. -/
def Chip.die (c : Chip) (d : Nat) : DieSt := sget DieSt.reset d c.dies

/-- Change a compute die. -/
def Chip.onDie (c : Chip) (d : Nat) (f : DieSt → DieSt) : Chip :=
  { c with dies := sset DieSt.reset d (f (c.die d)) c.dies }

/-- The compute die of a hart (R12). -/
def hartDie (h : Nat) : Nat := h / 24

/-- The logical core of a hart (R12). -/
def hartCore (h : Nat) : Nat := h % 24

/-- CD_CORE_CTL of a hart. -/
def coreCtl (h : Nat) : Reg := .CD_CORE_CTL (hartDie h) (hartCore h)

/-- The physical core bound to a logical core, 31 for an absent one (R14). -/
def Chip.corePhys (c : Chip) (h : Nat) : Nat :=
  if hartCore h < 12 then c.fld (.CD_CORE_MAP_0 (hartDie h)) (F.CD_CORE_MAP_0_PHYS (hartCore h))
  else c.fld (.CD_CORE_MAP_1 (hartDie h)) (F.CD_CORE_MAP_1_PHYS (hartCore h - 12))

/-- The state of a compute die (PKG_DIE_STATUS_n): 0 off, 1 starting, 2 running, 3 quiescing, 4 quiesced, 5 lost,
6 held out. -/
def Chip.dieState (c : Chip) (d : Nat) : Nat := c.fld (.PKG_DIE_STATUS d) F.PKG_DIE_STATUS_STATE

/-- A die that runs: its harts execute and its agents answer (R243: a quiescing die still does). -/
def Chip.dieUp (c : Chip) (d : Nat) : Bool := c.dieState d == 2 || c.dieState d == 3

/-- A hart that an MSI reaches: neither absent, offline nor powered off, on a die that runs (R16); a quiescing die's files
take none (R243 step 1). -/
def Chip.hartThere (c : Chip) (h : Nat) : Bool :=
  h < 288 && c.corePhys h != 31 && !c.bit (coreCtl h) F.CD_CORE_CTL_OFFLINE && !c.bit (coreCtl h) F.CD_CORE_CTL_OFF
    && c.dieState (hartDie h) == 2

/-- The owner world of file f of a hart (CD_IMSIC_OWNER_i). -/
def Chip.fileOwner (c : Chip) (h f : Nat) : Nat :=
  c.fld (.CD_IMSIC_OWNER (hartDie h) (hartCore h)) (F.CD_IMSIC_OWNER_OWN f)

/-- The next free value: the counter, which the reader advances. -/
def Chip.nextFree (c : Chip) : Chip := { c with free := c.free + 1 }

/-- Send a message. -/
def Chip.send (c : Chip) (m : Msg) : Chip := { c with net := c.net ++ [m] }

-- who acts

end Sys2Proof.Machine

namespace Sys2Proof

/-- Acts with the rights of the Sealed world: W1, or Uzomuris through its management port (R462). -/
def Who.sealed (w : Who) : Bool := w.world == 1 || w.uz

end Sys2Proof

namespace Sys2Proof.Machine

/-- A write or command of Uzomuris itself: its rights are those of W1, its world on record is W2 (R462). -/
def uzWho : Who := { rid := 0x5000, world := 2, uz := true }

-- fault reports

/-- The reporting units of R329, numbered: die aggregators, halls, routers, link ends, stations, engine clusters, the
event router, the world controller, the regulation monitor, the I/O die supervisors and Uzomuris. -/
def unitDie (d : Nat) : Nat := d
def unitHall (h : Nat) : Nat := 16 + h
def unitRouter (r : Nat) : Nat := 32 + r
def unitLink (k : Nat) (atDie : Bool) : Nat := 96 + 2 * k + flag atDie
def unitStation (n : Nat) : Nat := 160 + n
def unitCluster (c : Nat) : Nat := 170 + c
def unitEvr : Nat := 172
def unitWld : Nat := 173
def unitMon : Nat := 174
def unitSup (i : Nat) : Nat := 175 + i
def unitUz : Nat := 180

/-- A fault is level (R326, and the pair's list of sources): it reports a condition that can last. -/
def levelSource (n : Nat) : Bool :=
  n ≤ 6 || n == 14 || n == 33 || n == 34 || (37 ≤ n && n ≤ 39) || n == 56 || (64 ≤ n && n < 208 && (n - 64) % 12 == 2) ||
    (208 ≤ n && n < 400 && (n - 208) % 12 == 11) || (400 ≤ n && n < 452 && (n - 400) % 2 == 0)

/-- Fold a further occurrence into the report its unit still holds (R329). -/
def mergeReport (src : Nat) : List Report → List Report
  | [] => []
  | r :: rs => if r.source = src then { r with merged := r.merged + 1 } :: rs else r :: mergeReport src rs

/-- A unit detects a fault: it holds the report until the collector accepts it; a further occurrence is folded, and a
report that finds the hold of 16 full is counted (R329). -/
def Chip.hold (c : Chip) (u : Nat) (r : Report) : Chip :=
  let held := sget [] u c.fcHold
  if held.any (fun x => x.source == r.source) then
    { c with fcHold := sset [] u (mergeReport r.source held) c.fcHold }
  else if held.length < 16 then { c with fcHold := sset [] u (held ++ [r]) c.fcHold }
  else { c with fcLost := sset 0 u (sget 0 u c.fcLost + 1) c.fcLost }

/-- Report a fault detected now (R327, R328). -/
def Chip.report (c : Chip) (u source rid world acc : Nat) (detail : Nat := 0) (addr : Nat := 0) : Chip :=
  c.hold u { source := source, rid := rid, world := world, acc := acc, detail := detail, addr := addr, time := c.now }

/-- The condition of a level source begins or ends (CAUSE of FC_SRC_n). -/
def Chip.setCause (c : Chip) (n : Nat) (b : Bool) : Chip := c.setBit (.FC_SRC n) F.FC_SRC_CAUSE b

/-- The condition of a level source begins: CAUSE, and a report. -/
def Chip.reportLevel (c : Chip) (u source rid world acc : Nat) (detail : Nat := 0) (addr : Nat := 0) : Chip :=
  (c.setCause source true).report u source rid world acc detail addr

/-- The world a report of a request names (R330 rules 3 and 4): the request's for a hart, function or instance, W1
otherwise. -/
def reqWorld (rid world : Nat) : Nat := if rid / 4096 = 0 ∨ rid / 4096 = 2 ∨ rid / 4096 = 3 then world else 1

-- world violations

/-- A world violation (R303): the first is captured, each is counted and reported. `kind`: 1 register write refused,
2 power request denied, 3 hand-over command refused, 4 device MSI dropped. -/
def Chip.violate (c : Chip) (who : Who) (kind off : Nat) : Chip :=
  let c1 :=
    if c.bit .WLD_VIOL_INFO F.WLD_VIOL_INFO_VALID then c.setBit .WLD_VIOL_INFO F.WLD_VIOL_INFO_OVERRUN true
    else
      (((((c.setFld .WLD_VIOL_INFO F.WLD_VIOL_INFO_REQ_ID who.rid).setFld .WLD_VIOL_INFO F.WLD_VIOL_INFO_WORLD
        who.world).setFld .WLD_VIOL_INFO F.WLD_VIOL_INFO_KIND kind).setFld .WLD_VIOL_INFO F.WLD_VIOL_INFO_VALID 1).setFld
        .WLD_VIOL_ADDR F.WLD_VIOL_ADDR_OFFSET off)
  (c1.bump .WLD_VIOL_ADDR F.WLD_VIOL_ADDR_COUNT).report unitWld 11 who.rid (reqWorld who.rid who.world) 1 0
    (regBase + off)

/-- A write of a register refused for its world. -/
def Chip.refuseWrite (c : Chip) (who : Who) (r : Reg) : Chip := c.violate who 1 r.offset

/-- Do f if the writer may, else record the world violation (R303). -/
def Chip.ifMay (c : Chip) (ok : Bool) (who : Who) (r : Reg) (f : Chip → Chip) : Chip :=
  if ok then f c else c.refuseWrite who r

-- interrupt files

/-- Interrupt file f of a hart. -/
def Hart.ifile (x : Hart) (f : Nat) : IFile := sget IFile.reset f x.file

/-- Change an interrupt file. -/
def Hart.onFile (x : Hart) (f : Nat) (g : IFile → IFile) : Hart :=
  { x with file := sset IFile.reset f (g (x.ifile f)) x.file }

/-- Add a number to a list that holds none twice. -/
def addOnce (n : Nat) (l : List Nat) : List Nat := if l.contains n then l else l ++ [n]

/-- A write of an identity to seteipnum: identities 1 to 2,047 (R74); another number has no effect. -/
def IFile.setEip (id : Nat) (x : IFile) : IFile :=
  if 1 ≤ id ∧ id ≤ 2047 then { x with eip := addOnce id x.eip } else x

/-- A file meets the three conditions of R75: an identity pending and enabled by its own bits, admitted by its own
threshold (0 admits every identity, P admits those below P), with its own eidelivery at 1. -/
def IFile.signals (x : IFile) : Bool :=
  x.delivery == 1 && x.eip.any (fun i => x.eie.contains i && (x.threshold == 0 || i < x.threshold.toNat))

-- event sources

/-- The owner world of an event source: EVR_SRC_n.OWNER reads WLD_SRC_OWN_n (R290). -/
def Chip.srcOwner (c : Chip) (n : Nat) : Nat := c.fld (.WLD_SRC_OWN n) F.WLD_OWN_OWNER

/-- EVR_SRC_n as it reads. -/
def Chip.srcEntry (c : Chip) (n : Nat) : Word := F.EVR_SRC_OWNER.put (c.reg (.EVR_SRC n)) (c.srcOwner n)

/-- An MSI of source n is formed from the entry as it stands (R81). -/
def Chip.formMsi (c : Chip) (n : Nat) : Chip := { c with msi := c.msi ++ [(n, c.srcEntry n)] }

/-- An occurrence of event source n (R77, R79): an MSI is formed, or PENDING sets while ENABLE is clear. An occurrence
while an earlier MSI of the source is in flight may be merged with it: whether it is, is a free value. A source whose
block entry is RELEASING or RELEASED raises nothing (R292). -/
def Chip.raiseEvent (c : Chip) (n : Nat) : Chip :=
  if c.fld (.WLD_SRC_OWN n) F.WLD_OWN_STATE ≠ 0 then c
  else if c.bit (.EVR_SRC n) F.EVR_SRC_ENABLE then
    if c.msi.any (fun e => e.1 == n) then
      if Config.msiMerged c.free then c.nextFree else c.nextFree.formMsi n
    else c.formMsi n
  else c.setBit (.EVR_SRC n) F.EVR_SRC_PENDING true

/-- Why the router drops an MSI (R80), by REASON: 4 hart out of range, 1 hart unavailable, 2 owner mismatch,
3 identity 0; 0 when it does not. -/
def Chip.msiDropReason (c : Chip) (entry : Word) : Nat :=
  let h := F.EVR_SRC_HART.get entry
  if 288 ≤ h then 4
  else if !c.hartThere h then 1
  else if c.fileOwner h (F.EVR_SRC_FILE.get entry) ≠ F.EVR_SRC_OWNER.get entry then 2
  else if F.EVR_SRC_IDENTITY.get entry = 0 then 3
  else 0

/-- The router delivers one MSI: IDENTITY is written to the seteipnum of the target file, or the MSI is dropped,
counted and reported (R77, R80). -/
def Chip.deliverMsi (c : Chip) (n : Nat) (entry : Word) : Chip :=
  let why := c.msiDropReason entry
  if why = 0 then
    c.onHart (F.EVR_SRC_HART.get entry) (fun x => x.onFile (F.EVR_SRC_FILE.get entry)
      (IFile.setEip (F.EVR_SRC_IDENTITY.get entry)))
  else
    (((c.bump .EVR_DROP_STATUS F.EVR_DROP_STATUS_COUNT).setFld .EVR_DROP_STATUS F.EVR_DROP_STATUS_LAST_SRC n).setFld
      .EVR_DROP_STATUS F.EVR_DROP_STATUS_REASON why).report unitEvr 10 0x7040 1 15

/-- Deliver every MSI that satisfies p, in the order in which they were formed, and keep the others. -/
def Chip.deliverWhere (c : Chip) (p : Nat × Word → Bool) : Chip :=
  (c.msi.filter p).foldl (fun x e => x.deliverMsi e.1 e.2) { c with msi := c.msi.filter (fun e => !p e) }

-- outcomes

/-- The outcome of a command. -/
abbrev Result := Host.Outcome State Fault Refusal

/-- A command whose operands name things the package has does what `o` says; any other is refused. -/
def need (ok : Bool) (o : Result) : Result :=
  if ok then o else .refused .badOperand

/-- A command that acts on the chip alone: memory and the waiting commands stay as they are. -/
def State.onChip (s : State) (f : Chip → Chip) : Result :=
  .next { s with chip := f s.chip }

/-- A command that acts on the chip and memory: the waiting commands stay as they are. -/
def State.onPkg (s : State) (f : Pkg → Pkg) : Result :=
  .next { s with toPkg := f s.toPkg }

/-- Change the chip of a package and leave its memory alone. -/
def Pkg.onChip (p : Pkg) (f : Chip → Chip) : Pkg := { p with chip := f p.chip }

end Sys2Proof.Machine
end

