-- ==== Sys2Proof/Machine/Operands.lean ====
section
/-! DEFINITION. The forms an operand takes: bytes and masks of a line, the regions of the physical address map (R25), the
home of a line (R29 to R31), the class of a request (R258), and the links and tags a message uses. -/

namespace Sys2Proof.Machine

-- bytes of a line

/-- Byte k of a line. -/
def Line.byte (l : Line) (k : Nat) : Byte := BitVec.ofNat 8 (l.toNat / 2 ^ (8 * k))

/-- The line whose byte k is f k. -/
def Line.ofBytes (f : Nat → Byte) : Line :=
  (List.range 64).foldr (fun k acc => (acc <<< 8) ||| (f k).setWidth 512) 0

/-- The line with byte k set to b. -/
def Line.setByte (l : Line) (k : Nat) (b : Byte) : Line :=
  (l &&& ~~~((0xFF : Line) <<< (8 * k))) ||| (b.setWidth 512 <<< (8 * k))

/-- `new` at the bytes the mask selects, `old` elsewhere (WR_PART). -/
def Line.merge (old new : Line) (mask : Word) : Line :=
  forUpTo 64 (fun k acc => if mask.toNat.testBit k then Line.setByte acc k (Line.byte new k) else acc) old

/-- `n` bytes of a line from byte k, little-endian. -/
def Line.slice (l : Line) (k n : Nat) : Nat := l.toNat / 2 ^ (8 * k) % 2 ^ (8 * n)

/-- The line with n bytes from byte k set to v, little-endian. -/
def Line.patch (l : Line) (k n v : Nat) : Line :=
  forUpTo n (fun i acc => Line.setByte acc (k + i) (BitVec.ofNat 8 (v / 2 ^ (8 * i)))) l

/-- The bytes of a number, little-endian. -/
def toBytes (n v : Nat) : List Byte := (List.range n).map (fun i => BitVec.ofNat 8 (v / 2 ^ (8 * i)))

/-- The number a list of bytes spells, little-endian. -/
def ofBytes : List Byte → Nat
  | [] => 0
  | b :: bs => b.toNat + 256 * ofBytes bs

/-- Bytes [i, i + n) of a token or message as a number, little-endian. -/
def sliceNum (l : List Byte) (i n : Nat) : Nat := ofBytes ((l.drop i).take n)

/-- The lines that `n` bytes from address a touch, in ascending order. -/
def linesOf (a n : Nat) : List Nat := (List.range ((a + n - 1) / 64 - a / 64 + 1)).map (· + a / 64)

-- the address map

/-- Capacity of each hall's channel in GiB. -/
def Chip.capGib (c : Chip) : Nat := c.fld .PKG_ADDR_MAP F.PKG_ADDR_MAP_HALL_CAP_GIB

/-- DRAM_TOP (R26). -/
def Chip.dramTop (c : Chip) : Nat := 16 * c.capGib * 2 ^ 30

/-- Two-domain mode. -/
def Chip.domains (c : Chip) : Bool := c.bit .PKG_ADDR_MAP F.PKG_ADDR_MAP_DOMAINS

/-- The ports a station forms, and whether port j is one of them (R343). -/
def Chip.portCount (c : Chip) (n : Nat) : Nat := match c.fld (.PORT_CFG n) F.PORT_CFG_BIFUR with | 0 => 1 | 1 => 2 | _ => 4
def Chip.portFormed (c : Chip) (n j : Nat) : Bool := j < c.portCount n

/-- PORT_CXL window j of station n as committed: valid after the PORT commit, with CXL set for a port that is formed (R344, R350, R351). -/
def Chip.cxlWindow (c : Chip) (n j : Nat) : Bool :=
  c.bit (.PORT_CTL n) F.PORT_CTL_COMMITTED && c.portFormed n j && c.bit (.PORT_CXL_BASE n j) F.PORT_CXL_BASE_VALID
    && bitAt (c.fld (.PORT_CFG n) F.PORT_CFG_CXL) j

/-- An address lies in CXL window j of station n. -/
def Chip.inCxl (c : Chip) (pa n j : Nat) : Bool :=
  c.cxlWindow n j && c.fld (.PORT_CXL_BASE n j) F.PORT_CXL_BASE_ADDR ≤ pa / 2 ^ 28
    && pa / 2 ^ 28 ≤ c.fld (.PORT_CXL_LIMIT n j) F.PORT_CXL_LIMIT_ADDR

/-- The value in force of a staged window register of a station (R360). -/
def Chip.winReg (c : Chip) (r : Reg) : Word := sget 0 r.offset c.winNow

/-- An address lies in memory window e of station n, by the window set in force (R348, R360). -/
def Chip.inMwin (c : Chip) (pa n e : Nat) : Bool :=
  let b := c.winReg (.PORT_MWIN_BASE n e)
  F.PORT_MWIN_BASE_VALID.get b == 1 && F.PORT_MWIN_BASE_BASE.get b ≤ pa / 4096
    && pa / 4096 ≤ F.PORT_MWIN_LIMIT_LIMIT.get (c.winReg (.PORT_MWIN_LIMIT n e))

/-- The number of memory window entries of a station (PORT_MWIN_BASE_e). -/
def mwinCount : Nat := 32

/-- An address lies in the ECAM window of port j of station n (R347), in the window set in force. -/
def Chip.inEcam (c : Chip) (pa n j : Nat) : Bool :=
  let w := c.winReg (.PORT_ECAM n j)
  F.PORT_ECAM_VALID.get w == 1 && F.PORT_ECAM_BASE.get w == pa / 2 ^ 28 && pa / 2 ^ 20 % 256 ≤ F.PORT_ECAM_BUS_MAX.get w

/-- What a physical address selects (R25). -/
inductive Region where
  | dram
  | cxl (n j : Nat)
  | ecam (n j : Nat)
  | mwin (n e : Nat)
  | regs (off : Nat)
  /-- Reserved, at or above DRAM_TOP, or in no programmed window (R26). -/
  | refused
  deriving DecidableEq, Repr

/-- All pairs of a number below n and a number below m, ascending. -/
def pairs (n m : Nat) : List (Nat × Nat) := (List.range n).flatMap (fun i => (List.range m).map (fun j => (i, j)))

/-- The region of a physical address (R25, R26). -/
def Chip.region (c : Chip) (pa : Nat) : Region :=
  if pa < 0x40000000000 then (if pa < c.dramTop then .dram else .refused)
  else if pa < 0x100000000000 then .refused
  else if pa < 0x8000000000000 then
    match (pairs 10 4).find? (fun p => c.inCxl pa p.1 p.2) with
    | some p => .cxl p.1 p.2
    | none => .refused
  else if pa < 0xF000000000000 then
    match (pairs 10 4).find? (fun p => c.inEcam pa p.1 p.2) with
    | some p => .ecam p.1 p.2
    | none =>
      match (pairs 10 mwinCount).find? (fun p => c.inMwin pa p.1 p.2) with
      | some p => .mwin p.1 p.2
      | none => .refused
  else if regBase ≤ pa then (if pa < regBase + 2 ^ 30 then .regs (pa - regBase) else .refused)
  else .refused

/-- Main memory: homed at a hall, cached and coherent (R28, R197). -/
def Region.homed : Region → Bool
  | .dram | .cxl _ _ => true
  | _ => false

/-- A station lies in the north half (R22). -/
def stationNorth (n : Nat) : Bool := n == 0 || n == 1 || n == 2 || n == 5 || n == 6 || n == 7

/-- The fold of the nibbles pa[15:12] to pa[51:48] (R29). -/
def foldNibbles (pa : Nat) : Nat := (List.range 10).foldl (fun f j => f ^^^ (pa / 2 ^ (4 * (j + 3)) % 16)) 0

/-- The home hall and the channel-local address of a homed address (R29, R30, R31). -/
def Chip.home (c : Chip) (pa : Nat) : Nat × Nat :=
  if !c.domains then ((pa / 256 % 16) ^^^ foldNibbles pa, pa / 4096 * 256 + pa % 256)
  else if pa < 0x40000000000 then
    let split := 8 * c.capGib * 2 ^ 30
    let dom := if pa < split then 0 else 1
    let o := pa - dom * split
    (8 * dom + ((o / 256 % 8) ^^^ (foldNibbles o % 8)), o / 2048 * 256 + o % 256)
  else
    let south := match c.region pa with
      | .cxl n _ => if stationNorth n then 0 else 1
      | _ => 0
    (8 * south + ((pa / 256 % 8) ^^^ (foldNibbles pa % 8)), pa / 2048 * 256 + pa % 256)

/-- The home hall of a line. -/
def Chip.homeHall (c : Chip) (line : Nat) : Nat := (c.home (line * 64)).1

/-- The channel-local address of a line. -/
def Chip.homeLocal (c : Chip) (line : Nat) : Nat := (c.home (line * 64)).2

/-- Link A (0) or B (1) of a compute die for a line (R23), the sibling while the selected one is failed (R24). -/
def Chip.linkFor (c : Chip) (d line : Nat) : Nat :=
  let sel := (line % 2 + line / 64 % 2) % 2
  if c.fld (.JL_STATUS (2 * d + sel)) F.JL_STATUS_STATE == 3 then 1 - sel else sel

-- requests

/-- Requester type (R18). -/
def ridType (rid : Nat) : Nat := rid / 4096

/-- Requester index (R18). -/
def ridIndex (rid : Nat) : Nat := rid % 4096

/-- The regulation class of a request (R258), under the committed label map (R259). -/
def Chip.classOf (c : Chip) (rid label : Nat) : Nat :=
  if ridType rid = 4 ∨ ridType rid = 5 then 15 else sget 0 label c.qosMap

/-- The class a message carries (R258): fixed at its injection port, or that of its requester and label. -/
def Chip.msgClass (c : Chip) (m : Msg) : Nat := if m.cls < 16 then m.cls else c.classOf m.rid m.label

end Sys2Proof.Machine

namespace Sys2Proof

/-- The requests that a compute die sends to a hall (R182). -/
def MsgKind.fromDie : MsgKind → Bool
  | .RD_SHARED | .RD_OWN | .UPGRADE | .RD_OWN_ZERO | .CMO_CLEAN | .CMO_FLUSH | .CMO_INVAL | .EVICT_CLEAN | .COMP_ACK
  | .WCHK | .WB_DATA => true
  | _ => false

/-- The requests that write memory or gain ownership, which the safe state holds (R339). -/
def MsgKind.safeHeld : MsgKind → Bool
  | .RD_OWN | .UPGRADE | .RD_OWN_ZERO | .WR_FULL | .WR_PART | .IO_ATOMIC | .WB_DATA | .CMO_INVAL => true
  | _ => false

/-- The traffic that an injection port holds for tokens (R264). -/
def MsgKind.tokenHeld : MsgKind → Bool
  | .RD_SHARED | .RD_OWN | .RD_OWN_ZERO | .RD_ONCE | .WR_FULL | .WR_PART | .IO_ATOMIC => true
  | _ => false

/-- The reply of a hall to a request: its fields, with another kind. -/
def Msg.reply (m : Msg) (k : MsgKind) : Msg :=
  { kind := k, die := m.die, line := m.line, rid := m.rid, world := m.world, label := m.label, acc := m.acc, tag := m.tag
    sub := m.sub, cls := m.cls }

/-- A request that leaves its requester a copy, so that its line needs an entry (R177). -/
def MsgKind.needsEntry : MsgKind → Bool
  | .RD_SHARED | .RD_OWN | .UPGRADE | .RD_OWN_ZERO => true
  | _ => false

/-- A message of the row's kind from a compute die, or from an I/O agent. -/
def Msg.fits (m : Msg) (k : MsgKind) : Bool := m.kind == k && m.line < 2 ^ 46 && m.die ≤ 12

end Sys2Proof

namespace Sys2Proof.Machine

/-- The cluster of the instance with requester index i (R371): 512 engine and 32 mailbox instances each. -/
def instCluster (i : Nat) : Nat := if i < 1024 then i / 512 else (i - 1024) / 32

/-- The injection port of a request (R264): die d, 12 + n for station P_n, 22 + q for Q_q, 24 + c for SE_c. Uzomuris
and the halls have none. -/
def injPort (m : Msg) : Option Nat :=
  if m.die < 12 then some m.die
  else if ridType m.rid = 2 then some (12 + ridIndex m.rid / 256)
  else if ridType m.rid = 6 then some (22 + ridIndex m.rid)
  else if ridType m.rid = 3 then  some (24 + instCluster (ridIndex m.rid))
  else none

end Sys2Proof.Machine
end

