-- ==== Sys2Proof/Machine/Packets.lean ====
section
/-! DEFINITION. Messages as packets of the gallery and as units of the Jotor links: the attachment ports (R20 to R22, R201), the code,
plane and virtual channel of each message (R204, R208), where it comes from and where it goes (R23, R24, R213), its header (R203,
R205) and its Jotor units (R227); and the arrival of a message, in order, at the end of its way (R211, R232). -/

namespace Sys2Proof.Machine

-- attachments

/-- What an attachment port carries (R20 to R22). -/
inductive Attach where
  | hall (n : Nat)
  | link (k : Nat)
  | station (n : Nat)
  | cluster (c : Nat)
  | pair (q : Nat)
  | uz
  | fc
  | none
  deriving DecidableEq, Repr

/-- The attachment of port A0 (0) or A1 (1) of a router. -/
def attachOf (r port : Nat) : Attach :=
  match r, port with
  | 8, 0 => .station 0
  | 8, _ => .station 1
  | 16, 0 => .station 2
  | 16, _ => .cluster 0
  | 24, 0 => .station 3
  | 24, _ => .station 4
  | 32, 0 => .pair 0
  | 32, _ => .uz
  | 15, 0 => .station 5
  | 15, _ => .station 6
  | 23, 0 => .station 7
  | 23, _ => .cluster 1
  | 31, 0 => .station 8
  | 31, _ => .station 9
  | 39, 0 => .pair 1
  | 39, _ => .fc
  | _, 0 =>
    if r < 8 then .hall r
    else if 40 ≤ r then .hall (r - 32)
    else if r < 15 then .link (2 * (r - 9))
    else if r < 23 then .link (2 * (r - 17) + 1)
    else if r < 31 then .link (2 * (r - 19) + 1)
    else .link (2 * (r - 27))
  | _, _ => .none

/-- Every attachment port: a router and 0 for A0, 1 for A1. -/
def attachPorts : List (Nat × Nat) := pairs 48 2

/-- The port of an attachment (R20 to R22, R225). -/
def portOf (a : Attach) : Option (Nat × Nat) := attachPorts.find? (fun p => attachOf p.1 p.2 == a)

/-- The same, for an attachment that has one; Uzomuris's own port otherwise. -/
def portAt (a : Attach) : Nat × Nat := (portOf a).getD (32, 1)

/-- STATE of an attachment port: 0 open, 1 fencing, 2 fenced, 3 disabled or absent. -/
def portStateField (port : Nat) : Field := if port = 0 then F.GAL_FENCE_STATUS_STATE_A0 else F.GAL_FENCE_STATUS_STATE_A1
def Chip.portState (c : Chip) (r port : Nat) : Nat := c.fld (.GAL_FENCE_STATUS r) (portStateField port)

end Sys2Proof.Machine

namespace Sys2Proof

/-- The CMD value of a message (R204). -/
def MsgKind.cmd : MsgKind → Nat
  | .RD_SHARED => 0x01 | .RD_OWN => 0x02 | .UPGRADE => 0x03 | .RD_OWN_ZERO => 0x04 | .CMO_CLEAN => 0x05 | .CMO_FLUSH => 0x06
  | .CMO_INVAL => 0x07 | .RD_ONCE => 0x08 | .EVICT_CLEAN => 0x09 | .COMP_ACK => 0x0A | .WCHK => 0x0B | .IO_RD => 0x0C
  | .HALL_RD => 0x0D
  | .WR_FULL => 0x41 | .WR_PART => 0x42 | .IO_ATOMIC => 0x43 | .WB_DATA => 0x44 | .DATA => 0x45 | .IO_WR => 0x46 | .IO_RSP => 0x47
  | .TRACE_REC => 0x48
  | .SNP_SHARED => 0x81 | .SNP_OWN => 0x82 | .SNP_INV => 0x83 | .SNP_ONCE => 0x84 | .SNP_CLEAN => 0x85 | .BACK_INV => 0x86
  | .RSP => 0x87 | .FWD_DATA => 0x88 | .COMP => 0x89 | .WB_ACK => 0x8A | .WB_ACK_STALE => 0x8B | .WCHK_RSP => 0x8C
  | .IO_ACK => 0x8D | .UNAVAIL => 0x8E

/-- The virtual channel that carries a message (R208). -/
def MsgKind.vc : MsgKind → Nat
  | .RD_SHARED | .RD_OWN | .UPGRADE | .RD_OWN_ZERO | .CMO_CLEAN | .CMO_FLUSH | .CMO_INVAL | .EVICT_CLEAN | .WCHK => 0
  | .RD_ONCE | .IO_RD => 1
  | .HALL_RD => 2
  | .COMP_ACK => 3
  | .WB_DATA => 0
  | .WR_FULL | .WR_PART | .IO_ATOMIC | .IO_WR => 1
  | .DATA | .IO_RSP => 2
  | .TRACE_REC => 3
  | .SNP_SHARED | .SNP_OWN | .SNP_INV | .SNP_ONCE | .SNP_CLEAN | .BACK_INV => 0
  | .RSP | .FWD_DATA => 1
  | .COMP | .WB_ACK | .WB_ACK_STALE | .WCHK_RSP | .IO_ACK | .UNAVAIL => 2

/-- A message that carries a line or operands: in a data unit on the data plane, in bits [1023:512] on the coherence plane (R182, R203,
R227). Of IO_WR and IO_RSP, up to 8 bytes travel in AUX and 64 bytes in a data unit (R205); so, here, do 16 and 32 bytes (log entry 109,
DESIGN CHOICE: the manual does not say where they travel). `dcode` of an IO_RSP is 1 when it brings a data unit. -/
def Msg.carries (m : Msg) : Bool :=
  match m.kind with
  | .WR_FULL | .WR_PART | .IO_ATOMIC | .WB_DATA | .DATA | .TRACE_REC | .FWD_DATA => true
  | .IO_WR => decide (4 ≤ m.code)
  | .RSP | .IO_RSP => m.dcode == 1
  | _ => false

/-- The packet's plane: bits [7:6] of CMD: 0 request, 1 data, 2 coherence (R204). -/
def MsgKind.plane (k : MsgKind) : Nat := k.cmd / 64

/-- Gallery units of a message: its header, and on the data plane a data unit (R203). -/
def Msg.units (m : Msg) : Nat := if m.kind.plane = 1 && m.carries then 2 else 1

/-- The units of the answer to a request: of a HALL_RD the header and a line, of an IO_RD of more than 8 bytes likewise, else one. -/
def Msg.answerUnits (m : Msg) : Nat := if m.kind = .HALL_RD ∨ (m.kind = .IO_RD ∧ 4 ≤ m.code) then 2 else 1

/-- Jotor units of a message (R227). -/
def Msg.jotorUnits (m : Msg) : Nat := if m.carries then 2 else 1

/-- The Jotor VC of a message (R229). -/
def Msg.jotorVc (m : Msg) : Nat := 4 * m.kind.plane + m.kind.vc

/-- ARGS of a message (R205): bits no field takes are zero. -/
def Msg.args (m : Msg) : Nat :=
  match m.kind with
  | .RD_SHARED => m.rkind % 8
  | .WB_DATA => if m.keep then 1 else 0
  | .SNP_SHARED | .SNP_OWN => m.fwd % 16
  | .SNP_ONCE => if m.repair then 1 else 0
  | .RSP => m.held % 4 + 4 * (m.dcode % 4)
  | .COMP => m.grant % 4 + 4 * (m.src % 4)
  | .IO_RD | .IO_WR => m.code % 8
  | .IO_ATOMIC => m.code % 256
  | .IO_RSP | .UNAVAIL => m.code % 16
  | .WCHK_RSP => (if m.pass then 1 else 0) + 2 * (m.code % 16)
  | _ => 0

/-- AUX of a message (R203): the byte mask of WR_PART, or up to 8 bytes of register data. -/
def Msg.aux (m : Msg) : Nat :=
  match m.kind with
  | .WR_PART => m.mask.toNat
  | .IO_WR | .IO_RSP => if m.carries then 0 else m.data.toNat % 2 ^ 64
  | _ => 0

/-- The header unit of a packet, bits [255:0] (R203). -/
def Packet.header (p : Packet) : Nat :=
  let m := p.msg
  p.destR % 64 + p.destPort % 4 * 2 ^ 6 + p.srcR % 64 * 2 ^ 8 + p.srcPort % 4 * 2 ^ 14 + p.vc % 8 * 2 ^ 16 + p.cmd % 256 * 2 ^ 20
    + m.rid % 65536 * 2 ^ 28 + m.world % 16 * 2 ^ 44 + m.label % 64 * 2 ^ 48 + m.acc % 16 * 2 ^ 54 + m.tag % 1024 * 2 ^ 58
    + m.line % 2 ^ 46 * 2 ^ 68 + m.sub % 64 * 2 ^ 114 + (if m.poison then 2 ^ 120 else 0) + (if m.dirty then 2 ^ 121 else 0)
    + (if p.units = 2 then 2 ^ 122 else 0) + m.args * 2 ^ 128 + m.aux * 2 ^ 160

/-- The units of a packet on a Jotor link (R227), 64 bytes each: the header unit, then the line it carries. -/
def Packet.onLink (p : Packet) : List Line :=
  BitVec.ofNat 512 p.header :: (if p.msg.carries then [p.msg.data] else [])

/-- The unit of a packet on the coherence plane of the gallery, 128 bytes: the line it carries stands at bits [1023:512] (R203). -/
def Packet.cohUnit (p : Packet) : BitVec 1024 :=
  BitVec.ofNat 1024 (p.header + (if p.msg.carries then p.msg.data.toNat * 2 ^ 512 else 0))

/-- Packets that keep their order (R211): one source port, one destination port, one plane and one VC. -/
def Packet.flow (p : Packet) : Nat × Nat × Nat × Nat × Nat × Nat := (p.srcR, p.srcPort, p.destR, p.destPort, p.cmd / 64, p.vc)

/-- A snoop or back-invalidation, which a hall sends to a die (R185). -/
def MsgKind.isSnoop : MsgKind → Bool
  | .SNP_SHARED | .SNP_OWN | .SNP_INV | .SNP_ONCE | .SNP_CLEAN | .BACK_INV => true
  | _ => false

end Sys2Proof

namespace Sys2Proof.Machine

-- where a message comes from and where it goes

/-- The port of the link that die d uses for a line (R23, R24). -/
def Chip.diePort (c : Chip) (d line : Nat) : Nat × Nat := portAt (.link (2 * d + c.linkFor d line))

/-- The port of a hall's own line. -/
def Chip.hallPort (c : Chip) (line : Nat) : Nat × Nat := portAt (.hall (c.homeHall line))

/-- The port of a requester (R18): a compute die's link for the line, or the I/O agent's own. -/
def Chip.agentPort (c : Chip) (m : Msg) : Nat × Nat :=
  if m.die < 12 then c.diePort m.die m.line
  else match ridType m.rid with
    | 2 => portAt (.station (ridIndex m.rid / 256))
    | 3 => portAt (.cluster (instCluster (ridIndex m.rid)))
    | 4 => portAt (.hall (ridIndex m.rid % 16))
    | 6 => portAt (.pair (ridIndex m.rid % 2))
    | _ => portAt .uz

/-- The router and port that a register access goes to (R213): 2 for a control port. -/
def Chip.regPort (c : Chip) (off : Nat) : Nat × Nat :=
  if off / 0x10000 = 1 then portAt .fc
  else if off / 0x10000 = 6 then portAt (.pair 0)
  else if off < 0x1000000 then portAt .uz
  else if off < 0x2000000 then ((off - 0x1000000) / 0x10000 % 48, 2)
  else if off < 0x3000000 then ((portAt (.hall ((off - 0x2000000) / 0x100000 % 16))).1, 2)
  else if off < 0x4000000 then
    let k := (off - 0x3000000) / 0x10000
    if k = 24 then portAt (.pair 0) else if k = 25 then portAt (.pair 1) else ((portAt (.link (k % 24))).1, 2)
  else if off < 0x5000000 then ((portAt (.station ((off - 0x4000000) / 0x100000 % 10))).1, 2)
  else if off < 0x7000000 then ((portAt (.cluster ((off - 0x5000000) / 0x1000000 % 2))).1, 2)
  else
    let d := (off - 0x10000000) / 0x1000000 % 12
    portAt (.link (2 * d + flag (c.fld (.JL_STATUS (2 * d)) F.JL_STATUS_STATE == 3)))

/-- The port that the target of an address stands at (R28, R213): a home hall, a register block, or a station. -/
def Chip.targetPort (c : Chip) (m : Msg) : Nat × Nat :=
  match c.region (m.line * 64 + m.sub) with
  | .regs off => c.regPort off
  | .ecam n _ | .mwin n _ => portAt (.station n)
  | .dram | .cxl _ _ => c.hallPort m.line
  | .refused => portAt .uz

/-- The station of a line in a CXL window, to which its home forwards a read (R28). -/
def Chip.cxlPort (c : Chip) (line : Nat) : Nat × Nat :=
  match c.region (line * 64) with
  | .cxl n _ => portAt (.station n)
  | _ => c.hallPort line

/-- The port a message is injected at. Of FWD_DATA, `fwd` is the die that forwards; UNAVAIL comes from the injection port of the
request it answers (R216). -/
def Chip.srcPort (c : Chip) (m : Msg) : Nat × Nat :=
  match m.kind with
  | .IO_RSP | .IO_ACK => c.targetPort m
  | .COMP | .DATA | .WB_ACK | .WB_ACK_STALE | .WCHK_RSP => c.hallPort m.line
  | .RSP => c.diePort m.die m.line
  | .FWD_DATA => c.diePort m.fwd m.line
  | .HALL_RD => if ridType m.rid = 4 then c.agentPort m else c.hallPort m.line
  | k => if k.isSnoop then c.hallPort m.line else c.agentPort m

/-- The port a message goes to. -/
def Chip.dstPort (c : Chip) (m : Msg) : Nat × Nat :=
  match m.kind with
  | .IO_RD | .IO_WR => c.targetPort m
  | .RSP => c.hallPort m.line
  | .TRACE_REC => portAt .uz
  | .HALL_RD => if ridType m.rid = 4 then c.hallPort m.line else c.cxlPort m.line
  | .COMP | .DATA | .WB_ACK | .WB_ACK_STALE | .WCHK_RSP | .IO_RSP | .IO_ACK | .FWD_DATA | .UNAVAIL => c.agentPort m
  | k => if k.isSnoop then c.diePort m.die m.line else c.hallPort m.line

/-- The packet of a message (R203). -/
def Chip.packetOf (c : Chip) (m : Msg) : Packet :=
  let s := c.srcPort m
  let d := c.dstPort m
  { destR := d.1, destPort := d.2, srcR := s.1, srcPort := s.2, vc := m.kind.vc, cmd := m.kind.cmd, units := m.units, msg := m }

/-- The link and end at which a packet leaves or enters a compute die: the Jotor link at a port. -/
def linkAt (r port : Nat) : Option Nat :=
  match (if port < 2 then attachOf r port else .none) with
  | .link k => some k
  | _ => none

/-- A message sent and not yet put on its way: what a die sends from a link's port waits to cross that link. -/
def Chip.waitsFor (c : Chip) (k : Nat) : List Packet :=
  (c.net.map c.packetOf).filter (fun p => linkAt p.srcR p.srcPort == some k)

-- the arrival of a message

/-- The link that takes a failed link's traffic: its die's other link, or the other pair link. -/
def linkSibling (k : Nat) : Nat := if k < 24 then 4 * (k / 2) + 1 - k else 49 - k

/-- A link has failed (STATE 3). -/
def Chip.linkFailed (c : Chip) (k : Nat) : Bool := c.fld (.JL_STATUS k) F.JL_STATUS_STATE == 3

-- bridges

/-- Units of a list of packets. -/
def unitsOf (l : List Packet) : Nat := (l.map (fun p => p.units)).sum

/-- The packets that have left the mesh at a port and wait for the unit there: of a station, in the bridge towards it (R214). -/
def Chip.delivered (c : Chip) (r port : Nat) : List Packet := sget [] (r * 3 + port) c.dlv

/-- The buffer of a bridge in each direction, in units (R214). -/
def bridgeCap : Nat := 32

/-- A port whose attachment is a station controller, behind a bridge (R214): P_0 to P_9, Q_0 and Q_1. -/
def isBridge (r port : Nat) : Bool :=
  port < 2 && (match attachOf r port with
    | .station _ | .pair _ => true
    | _ => false)

/-- The units that the bridge of a port towards the gallery holds or has reserved (R40, R214): the packets that its station has sent and
that wait to enter the mesh, and the answer to each request that is outstanding on the ports of a station. -/
def Chip.bridgeBack (c : Chip) (r port : Nat) : Nat :=
  unitsOf ((c.net.map c.packetOf).filter (fun p => p.srcR == r && p.srcPort == port))
    + (match attachOf r port with
      | .station n => ((List.range 4).map (fun j =>
          ((sget PortSt.reset (n * 4 + j) c.portSt).outst.map (fun q => q.units)).sum)).sum
      | _ => 0)

/-- A station takes a packet from its bridge: a request only when there is room for its answer, which it reserves (R40). -/
def Chip.bridgeTakes (c : Chip) (p : Packet) : Bool :=
  !isBridge p.destR p.destPort || !(p.msg.kind == .IO_RD || p.msg.kind == .IO_WR || p.msg.kind == .HALL_RD)
    || c.bridgeBack p.destR p.destPort + p.msg.answerUnits ≤ bridgeCap

/-- A destination accepts whatever arrives on request-plane VC 3, data-plane VC 2 and coherence-plane VCs 1 and 2 (R209). -/
def alwaysTaken (plane vc : Nat) : Bool := (plane == 0 && vc == 3) || (plane == 1 && vc == 2) || (plane == 2 && 1 ≤ vc)

/-- A packet of a message stands in a list. -/
def hasMsg (m : Msg) (l : List Packet) : Bool := l.any (fun p => p.msg == m)

/-- A list of packets without the first of a message. -/
def dropMsg (m : Msg) : List Packet → List Packet
  | [] => []
  | p :: ps => if p.msg = m then ps else p :: dropMsg m ps

/-- The first packet of a message's flow in a list is the message's own (R211). -/
def firstOfFlow (m : Msg) (l : List Packet) : Bool :=
  match l.find? (fun p => p.msg == m) with
  | some q => l.find? (fun p => p.flow == q.flow) == some q
  | none => false

/-- The receiver of a link passes a packet on: its units are freed (R229). -/
def LinkEnd.consume (e : LinkEnd) (m : Msg) : LinkEnd :=
  { e with rxBuf := dropMsg m e.rxBuf
           freed := sset 0 m.jotorVc ((sget 0 m.jotorVc e.freed + m.jotorUnits) % 256) e.freed }

/-- A message is on its way: in a buffer of the mesh or a fence hold, or on a link, and not yet at its end. -/
def Chip.onItsWay (c : Chip) (m : Msg) : Bool :=
  c.gal.buf.any (fun e => hasMsg m e.2) || c.gal.hold.any (fun h => h.pkt.msg == m)
    || c.link.any (fun e => hasMsg m e.2.out || e.2.replay.any (fun s => !s.passed && hasMsg m s.pkts)
      || (e.1 % 2 == 0 && hasMsg m e.2.rxBuf))

/-- An earlier packet of a flow is on its way, or waits at its end; packets behind a held packet pass it (R216). -/
def Chip.flowAhead (c : Chip) (p : Packet) : Bool :=
  let same := fun (q : Packet) => q.flow == p.flow
  c.gal.buf.any (fun e => e.2.any same) || c.gal.released.any (fun h => same h.pkt) || c.dlv.any (fun e => e.2.any same)
    || c.link.any (fun e => e.2.out.any same || e.2.rxBuf.any same || e.2.replay.any (fun s => !s.passed && s.pkts.any same))

/-- The key of a buffer; input ports 0 to 5 as R201 numbers them, 6 the control port. -/
def bufKey (r port plane vc : Nat) : Nat := ((r * 8 + port) * 3 + plane) * 4 + vc

/-- The first packet that a fence hold has released to the injection port of a packet, for the same destination port: it goes ahead of
later packets for that port (R216). -/
def Chip.releasedFor (c : Chip) (p : Packet) : Option HeldPkt :=
  c.gal.released.find? (fun h => h.r == p.srcR && h.port == 4 + p.srcPort && h.pkt.destR == p.destR && h.pkt.destPort == p.destPort)

/-- The rail of the die behind a packet's destination link is below 0.50 V: what is for the die waits upstream (R51). -/
def Chip.dieStalls (c : Chip) (p : Packet) : Bool :=
  match linkAt p.destR p.destPort with
  | some k => (c.die (k / 2)).belowSince.isSome
  | none => false

/-- A message is the next of its VC to leave the receive buffer at a link's end, by its key: what a failed link brought is ahead of what
came over its sibling (R229, R234). -/
def Chip.rxNext (c : Chip) (key : Nat) (m : Msg) : Bool :=
  let of := fun (n : Nat) => (sget LinkEnd.reset n c.link).rxBuf.find? (fun p => p.msg.jotorVc == m.jotorVc)
  (of key).map (fun p => p.msg) == some m
    && !(c.linkFailed (linkSibling (key / 2)) && (of (2 * linkSibling (key / 2) + key % 2)).isSome)

/-- A register access: IO_RD or IO_WR to a register block, which no fence holds (R216). -/
def msgIsReg (m : Msg) : Bool := (m.kind == .IO_RD || m.kind == .IO_WR) && regBase / 64 ≤ m.line
def pktIsReg (p : Packet) : Bool := msgIsReg p.msg

/-- The state of the port a packet is for: the control port is never fenced. -/
def Chip.destState (c : Chip) (p : Packet) : Nat := if p.destPort < 2 then c.portState p.destR p.destPort else 0

/-- A message may arrive now. One that has crossed the mesh, or a link to its die, arrives in the order of its flow (R211, R232); a die
whose rail is below 0.50 V takes nothing (R39, R41). A message that has been sent and not taken hop by hop arrives in one step, its
whole way (log entry 74), if the port it is for is open, or is fenced and the message a register access (R216), its injection port takes
its VC, and none of its flow is ahead of it. One that nothing in the package has sent comes from outside. -/
def Chip.canArrive (c : Chip) (m : Msg) : Bool :=
  match c.dlv.find? (fun e => hasMsg m e.2) with
  | some e => firstOfFlow m e.2 && (e.2.filter (fun p => p.msg == m)).all c.bridgeTakes
  | none =>
    match c.link.find? (fun e => e.1 % 2 == 1 && hasMsg m e.2.rxBuf) with
    | some e => c.rxNext e.1 m && (c.die (e.1 / 4)).belowSince.isNone
    | none =>
      if c.onItsWay m then false
      else
        match c.gal.released.find? (fun h => h.pkt.msg == m) with
        | some h => c.releasedFor h.pkt == some h && !c.dieStalls h.pkt && c.bridgeTakes h.pkt
        | none =>
          if c.net.contains m then
            let p := c.packetOf m
            (c.destState p == 0 || (pktIsReg p && c.destState p != 3)) && !c.flowAhead p && (c.releasedFor p).isNone
              && !c.gal.stuck.contains (bufKey p.srcR (4 + p.srcPort) m.kind.plane p.vc) && !c.dieStalls p && c.bridgeTakes p
              && !(c.net.takeWhile (fun x => x != m)).any (fun x => (c.packetOf x).flow == p.flow)
          else true

/-- End `atDie` of link k: the I/O die's, or the compute die's or partner's. -/
def linkKey (k : Nat) (atDie : Bool) : Nat := 2 * k + flag atDie
def Chip.linkEnd (c : Chip) (k : Nat) (atDie : Bool) : LinkEnd := sget LinkEnd.reset (linkKey k atDie) c.link
def Chip.setLinkEnd (c : Chip) (k : Nat) (atDie : Bool) (e : LinkEnd) : Chip :=
  { c with link := sset LinkEnd.reset (linkKey k atDie) e c.link }

/-- The compute die that sent a message, if one did. -/
def Msg.fromDie? (m : Msg) : Option Nat :=
  match m.kind with
  | .FWD_DATA => if m.fwd < 12 then some m.fwd else none
  | .RSP | .RD_ONCE | .IO_RD | .IO_WR => if m.die < 12 then some m.die else none
  | k => if k.fromDie && m.die < 12 then some m.die else none

/-- The I/O die has heard the die that sent a message, on the link of its line (R245). -/
def Chip.hear (c : Chip) (m : Msg) : Chip :=
  match Msg.fromDie? m with
  | some d =>
    let k := 2 * d + c.linkFor d m.line
    c.setLinkEnd k false { c.linkEnd k false with lastHeard := c.now }
  | none => c

/-- Take a message that arrives from where it stands: it has crossed the mesh, or a link to its die; or it makes its whole way now. -/
def Chip.arrive (c : Chip) (m : Msg) : Chip :=
  match c.dlv.find? (fun e => hasMsg m e.2) with
  | some e => { c with dlv := sset [] e.1 (dropMsg m e.2) c.dlv }
  | none =>
    match c.link.find? (fun e => e.1 % 2 == 1 && hasMsg m e.2.rxBuf) with
    | some e => { c with link := sset LinkEnd.reset e.1 (e.2.consume m) c.link }
    | none =>
      match c.gal.released.find? (fun h => h.pkt.msg == m) with
      | some h => { c with gal := { c.gal with released := dropFirst h c.gal.released } }
      | none => ({ c with net := dropFirst m c.net } : Chip).hear m

/-- What a message does, when it may arrive; nothing while it may not. -/
def Pkg.ifArrives (p : Pkg) (m : Msg) (f : Pkg → Pkg) : Pkg := if p.chip.canArrive m then f p else p
def Chip.ifArrives (c : Chip) (m : Msg) (f : Chip → Chip) : Chip := if c.canArrive m then f c else c

end Sys2Proof.Machine
end

