-- ==== Sys2Proof/Machine/Life.lean ====
section
/-! DEFINITION. The life record as the other units use it: appending a record to the current half of the journal (R427,
R430); and the pair's own record and digest (R403, R412, R430). -/

namespace Sys2Proof.Machine

/-- Change what the pair holds. -/
def Chip.onPair (c : Chip) (f : PairSt → PairSt) : Chip := { c with pair := f c.pair }

/-- The current half of the journal (HALF of UZ_LR_STATUS). -/
def Chip.lrHalf (c : Chip) : Nat := c.fld .UZ_LR_STATUS F.UZ_LR_STATUS_HALF

/-- The records of a half, slot 1 first. -/
def UzSt.half (u : UzSt) (h : Nat) : List JRec := if h = 0 then u.half0 else u.half1

/-- Store the records of a half. -/
def UzSt.setHalf (u : UzSt) (h : Nat) (l : List JRec) : UzSt := if h = 0 then { u with half0 := l } else { u with half1 := l }

/-- A record of the journal that replays (R427): the records of the current half, latest first. -/
def Chip.records (c : Chip) : List JRec := ((c.uz.half c.lrHalf).filter (fun r => r.whole)).reverse

/-- A compaction runs. -/
def Chip.compacting (c : Chip) : Bool := c.bit .UZ_LR_STATUS F.UZ_LR_STATUS_COMPACTING

/-- A record is written: into the next slot of the current half with the next SEQ, or held in SRAM while a compaction runs
(R427, R430). A half without a free slot raises fault 50 (R425). -/
def Chip.lifeWrite (c : Chip) (type : Nat) (payload : List Byte) : Chip :=
  if !c.uz.on || !c.uz.formatted then c
  else
    let r : JRec := { seq := c.uz.nextSeq, type := type, time := c.now, boot := c.uz.boot, payload := payload }
    if c.compacting then
      if c.uz.sram.length < 1024 then { c with uz := { c.uz with sram := c.uz.sram ++ [r] } }
      else c.report unitUz 50 0x5000 1 15
    else if (c.uz.half c.lrHalf).length < 32767 then
      let l := c.uz.half c.lrHalf ++ [r]
      ({ c with uz := { c.uz.setHalf c.lrHalf l with nextSeq := c.uz.nextSeq + 1 } } : Chip).setFld .UZ_LR_STATUS
        F.UZ_LR_STATUS_RECORDS l.length
    else c.report unitUz 50 0x5000 1 15

/-- FC_FIRST_INFO of a report applied with a severity (R327). -/
def Report.info (r : Report) (sev : Nat) : Word :=
  F.FC_INFO_SEV.put (F.FC_INFO_DETAIL.put (F.FC_INFO_ACC.put (F.FC_INFO_WORLD.put
    (F.FC_INFO_REQ_ID.put (F.FC_INFO_SOURCE.put 0 r.source) r.rid) r.world) r.acc) r.detail) sev

/-- The kind of a PAIR_CFG control unit. -/
def pairCfgKind : PairCfg → Nat
  | .table _ => 0
  | .digest _ => 1
  | .summary _ => 2

/-- Uzomuris tells the partner with PAIR_CFG (R403). -/
def Chip.pairSay (c : Chip) (u : PairCfg) : Chip :=
  if c.fld .PAIR_STATUS F.PAIR_STATUS_STATE < 2 ∨ c.pair.yielded then c
  else { c with pair := { c.pair with said := c.pair.said.filter (fun x => pairCfgKind x != pairCfgKind u) ++ [u] } }

/-- The life-record summary is sent to the partner (R403). Its bytes have no layout in the manual: they are a free value (log entry 134). -/
def Chip.saySummary (c : Chip) : Chip :=
  if c.fld .PAIR_STATUS F.PAIR_STATUS_STATE < 2 ∨ c.pair.yielded then c
  else c.nextFree.pairSay (.summary (toBytes 224 (Config.freeNat c.free)))

/-- A FAULT record (R342, R430), and, from severity NOTIFY on, the summary to the partner (R403); `cap` has bit 0 for a capture into FIRST and bit 1 for one into ESC. -/
def Chip.faultRecord (c : Chip) (r : Report) (sev cap : Nat) : Chip :=
  let c1 := c.lifeWrite 0x40 (toBytes 8 (Report.info r sev).toNat ++ toBytes 8 r.addr ++ toBytes 8 r.time ++ toBytes 4 r.merged ++ toBytes 1 cap)
  if 2 ≤ sev then c1.saySummary else c1

/-- STATE of PAIR_STATUS. -/
def Chip.pairState (c : Chip) : Nat := c.fld .PAIR_STATUS F.PAIR_STATUS_STATE

/-- The PAIR_STATE record (R430): STATE, SRC_AT_SEP and TRACKING, the partner's serial number. -/
def Chip.pairRecord (c : Chip) : Chip :=
  c.lifeWrite 0x60 (toBytes 1 c.pairState ++ toBytes 1 (flag c.pair.srcAtSep + 2 * flag c.pair.tracking) ++ toBytes 6 0
    ++ toBytes 8 (c.reg .PAIR_PARTNER_SERIAL).toNat)

/-- TRACKING sets with the first mark after a separation (R412). -/
def Chip.track (c : Chip) : Chip :=
  if c.pairState = 3 ∧ !c.pair.tracking then ({ c with pair := { c.pair with tracking := true } } : Chip).pairRecord else c

/-- CFG_MATCH follows the two digests (R403): event 583 when it changes, fault 39 while they differ. -/
def Chip.rematch (c : Chip) : Chip :=
  match c.pair.partnerDigest with
  | none => c
  | some d =>
    let same := d == c.pair.ownDigest
    let c1 := if same == c.bit .PAIR_STATUS F.PAIR_STATUS_CFG_MATCH then c
      else (c.setBit .PAIR_STATUS F.PAIR_STATUS_CFG_MATCH same).raiseEvent 583
    if same then c1.setCause 39 false
    else if c.bit (.FC_SRC 39) F.FC_SRC_CAUSE then c1
    else c1.reportLevel unitUz 39 0x5000 1 15

/-- The digest of the committed settings of the PKG, WLD and QOS blocks is taken, compared, and told to the partner (R403). -/
def Chip.newDigest (c : Chip) : Chip :=
  if c.pairState = 0 then c
  else
    let d := Config.cfgDigest (c.regs.filter (fun e => e.1 / 65536 == 0 || e.1 / 65536 == 3 || e.1 / 65536 == 4))
    (({ c with pair := { c.pair with ownDigest := d } } : Chip).rematch).pairSay (.digest d)

end Sys2Proof.Machine
end

