-- ==== Sys2Proof/Machine/Flags.lean ====
section
/-! DEFINITION. The computed flags: the verdict of a world check (R283), the effective debug enables (R302), the pins of
the fault collector (R337), the summary of pending faults, and the interrupt-pending bits of a hart (R75, R76). -/

namespace Sys2Proof.Machine

/-- OWNER of a POT entry (R277). -/
def potOwner (e : Nat) : Nat := e % 16

/-- STATE of a POT entry (R277). -/
def potState (e : Nat) : Nat := e / 16 % 4

/-- SCRUBBED of a POT entry (R277). -/
def potScrubbed (e : Nat) : Bool := bitAt e 6

/-- A POT entry from its three fields. -/
def potEntry (owner state : Nat) (scrubbed : Bool) : Nat := owner + 16 * state + 64 * flag scrubbed

/-- The CHECK code with which a request of world w to a page with the given entry is refused, 0 when it is admitted
(R283); none is an unreadable entry (R282). -/
def potCheck (entry : Option Nat) (w : Nat) : Nat :=
  match entry with
  | none => 4
  | some e =>
    if potState e = 3 then 2
    else if potOwner e = 2 then (if w = 2 then 0 else 1)
    else if potState e = 0 then (if w = 1 then 0 else 3)
    else if potState e = 1 then (if w = potOwner e ∨ w = 1 then 0 else 1)
    else (if w = potOwner e ∨ w = 0 ∨ w = 1 then 0 else 1)

/-- LOCKED: the production lock, from fuses (R299), which a package leaves production with (R300). -/
def fuseLocked : Bool := bitAt fuseWord 32

/-- The effective invasive debug enable of world w (R302). -/
def Chip.invEff (c : Chip) (w : Nat) : Bool :=
  c.bit (.WLD_WORLD_CFG w) F.WLD_WORLD_CFG_INV_DBG && !bitAt fuseWord w
    && (!fuseLocked || bitAt (c.fld .WLD_DBG_GRANT F.WLD_DBG_GRANT_GRANT_INV) w)

/-- The effective non-invasive debug enable of world w (R302). -/
def Chip.ninvEff (c : Chip) (w : Nat) : Bool :=
  c.bit (.WLD_WORLD_CFG w) F.WLD_WORLD_CFG_NINV_DBG && !bitAt fuseWord (16 + w)
    && (!fuseLocked || bitAt (c.fld .WLD_DBG_GRANT F.WLD_DBG_GRANT_GRANT_NINV) w)

/-- The production lock is open (R302). -/
def Chip.lockOpen (c : Chip) : Bool := !fuseLocked || bitAt (c.fld .WLD_DBG_GRANT F.WLD_DBG_GRANT_GRANT_INV) 1

/-- Some source has PEND set with APPLIED equal to sev (R337). -/
def Chip.pendApplied (c : Chip) (sev : Nat) : Bool :=
  (List.range 1536).any (fun n => c.bit (.FC_SRC n) F.FC_SRC_PEND && c.fld (.FC_SRC n) F.FC_SRC_APPLIED == sev)

/-- ERR_NOTIFY_N, ERR_CONTAIN_N and ERR_SAFE_N: high, or low (false) while some source holds them (R337). -/
def Chip.errNotifyN (c : Chip) : Bool := !c.pendApplied 2
def Chip.errContainN (c : Chip) : Bool := !c.pendApplied 3
def Chip.errSafeN (c : Chip) : Bool := !c.pendApplied 4

/-- The package is in the safe state (R339). -/
def Chip.safe (c : Chip) : Bool := c.bit .FC_STATUS F.FC_STATUS_SAFE

/-- Stations, engines and pair stations issue nothing: the safe state (R339) or a thermal trip (R458). -/
def Chip.still (c : Chip) : Bool := c.safe || c.uz.tripped

/-- FC_PEND_SUM_k: bit j is PEND of source 64k + j. -/
def Chip.pendSum (c : Chip) (k : Nat) : Nat :=
  (List.range 64).foldl (fun acc j => acc + flag (c.bit (.FC_SRC (64 * k + j)) F.FC_SRC_PEND) * 2 ^ j) 0

-- interrupts of a hart

/-- CSR numbers the model gives a meaning to. -/
def csrMworld : Nat := 0x7C0
def csrMwfinfo : Nat := 0x7C1
def csrSqoslabel : Nat := 0x5C0
def csrTcsr : Nat := 0x800
def csrTfault : Nat := 0x801

/-- The reset value of a CSR: mworld resets to 0x111 (R63); of the standard ones (R60), mstatus with UXL and SXL at 2, vsstatus and
hstatus with UXL and VSXL at 2 (RV64), mideleg with the bits of the VS level and SGEIP, which read as one, dcsr with the version of the
Debug Specification 1.0 and prv at M; every other zero. -/
def csrReset (n : Nat) : Word :=
  if n = csrMworld then 0x111 else if n = 0x300 then 0xA00000000 else if n = 0x200 ∨ n = 0x600 then 0x200000000
  else if n = 0x303 then 0x1444 else if n = 0x7B0 then 0x40000003 else 0

/-- A CSR as stored. -/
def Hart.getCsr (x : Hart) (n : Nat) : Word := sget (csrReset n) n x.csr

/-- Store a CSR. -/
def Hart.setCsr (x : Hart) (n : Nat) (v : Word) : Hart := { x with csr := sset (csrReset n) n v x.csr }

/-- Bits [hi:lo] of a CSR. -/
def Hart.csrBits (x : Hart) (n hi lo : Nat) : Nat := bits (x.getCsr n).toNat hi lo

/-- Set bits [hi:lo] of a CSR. -/
def Hart.putCsr (x : Hart) (n hi lo v : Nat) : Hart := x.setCsr n (Field.put ⟨hi, lo, .rw, none⟩ (x.getCsr n) v)

/-- mworld.WORLD: the world of the hart now (R63). -/
def Hart.world (x : Hart) : Nat := x.csrBits csrMworld 3 0

/-- sqoslabel.LABEL (R65). -/
def Hart.label (x : Hart) : Nat := x.csrBits csrSqoslabel 5 0

/-- World pending (R75): some file whose owner is not the running world signals. -/
def Chip.worldPending (c : Chip) (h : Nat) : Bool :=
  (List.range 8).any (fun f => c.fileOwner h f != (c.hart h).world && ((c.hart h).ifile f).signals)

/-- mip.SEIP: the S-level file, only while its owner is the running world (R75). -/
def Chip.seip (c : Chip) (h : Nat) : Bool := c.fileOwner h 0 == (c.hart h).world && ((c.hart h).ifile 0).signals

/-- hgeip: guest file f, only while its owner is the running world (R75). -/
def Chip.hgeip (c : Chip) (h : Nat) : Nat :=
  (List.range 7).foldl (fun acc i =>
    acc + flag (c.fileOwner h (i + 1) == (c.hart h).world && ((c.hart h).ifile (i + 1)).signals) * 2 ^ (i + 1)) 0

/-- The machine timer interrupt (R76). -/
def Chip.mtip (c : Chip) (h : Nat) : Bool :=
  c.fld (.CD_MTIMECMP (hartDie h) (hartCore h)) F.CD_MTIMECMP_CMP ≤ c.now

/-- The machine software interrupt (R76). -/
def Chip.msip (c : Chip) (h : Nat) : Bool := c.bit (coreCtl h) F.CD_CORE_CTL_MSIP

/-- STCE of menvcfg: the supervisor timer interrupt follows stimecmp (Sstc, R60). -/
def Hart.stce (x : Hart) : Bool := x.csrBits 0x30A 63 63 == 1

/-- The supervisor timer interrupt (Sstc): time has reached stimecmp; while STCE is clear, what software has written. -/
def Chip.stip (c : Chip) (h : Nat) : Bool :=
  let x := c.hart h
  if x.stce then (x.getCsr 0x14D).toNat ≤ c.now else x.csrBits 0x344 5 5 == 1

/-- The timer interrupt of the VS level: hvip.VSTIP, or, with STCE of both envcfgs, the guest's time has reached vstimecmp. -/
def Chip.vstip (c : Chip) (h : Nat) : Bool :=
  let x := c.hart h
  x.csrBits 0x645 6 6 == 1 || (x.stce && x.csrBits 0x60A 63 63 == 1
    && (x.getCsr 0x24D).toNat ≤ (c.now + (x.getCsr 0x605).toNat) % 2 ^ 64)

/-- VSEIP comes from the guest file that hstatus.VGEIN selects. -/
def Chip.vseip (c : Chip) (h : Nat) : Bool :=
  let g := (c.hart h).csrBits 0x600 17 12
  g != 0 && bitAt (c.hgeip h) g

/-- mip as it reads: the bits of the files, the timers and MSIP over what software has written, those of the VS level from hvip too; MEIP
reads 0 (R74). SGEIP is set while an enabled guest file signals. -/
def Chip.mip (c : Chip) (h : Nat) : Nat :=
  let x := c.hart h
  let sw := (x.getCsr 0x344).toNat
  let put := fun (b : Bool) (i : Nat) (n : Nat) => withBit n i (b || n.testBit i)
  let n := withBit sw 11 false
  let n := withBit n 7 (c.mtip h)
  let n := withBit n 3 (c.msip h)
  let n := withBit n 5 (c.stip h)
  let n := withBit n 2 (x.csrBits 0x645 2 2 == 1)
  let n := withBit n 6 (c.vstip h)
  let n := put (c.seip h) 9 n
  let n := withBit n 10 (c.vseip h || x.csrBits 0x645 10 10 == 1)
  let n := withBit n 12 ((c.hgeip h &&& (x.getCsr 0x607).toNat) != 0)
  withBit n 16 (c.worldPending h)

end Sys2Proof.Machine
end

