-- ==== Sys2Proof/Machine/Cache.lean ====
section
/-! DEFINITION. The caches of a compute die: L2 lines and their holds (R174, R188), the write-back buffers (R147, R167),
the landing cache (R149 to R151), the snoop filter (R175, R176), and what leaves a die: requests with their tokens
(R264) and the hold of the safe state (R339). -/

namespace Sys2Proof.Machine

-- choosing a victim

/-- One element of a list, chosen by a free value; none of an empty list. -/
def pick (l : List Nat) (free : Nat) : Option Nat := l[Config.victim free % l.length]?

/-- The leaf that tree pseudo-LRU selects among those allowed (R147, R155, R180), below a node of a binary tree of depth k whose lowest
leaf is `base`: at each node the side its bit names, or the other where that side has no allowed leaf (log entry 90, DESIGN CHOICE). -/
def plruFind (bits : Nat) (ok : Nat → Bool) : Nat → Nat → Nat → Option Nat
  | 0, _, base => if ok base then some base else none
  | k + 1, node, base =>
    let s := flag (bits.testBit node)
    match plruFind bits ok k (2 * node + s) (base + s * 2 ^ k) with
    | some w => some w
    | none => plruFind bits ok k (2 * node + (1 - s)) (base + (1 - s) * 2 ^ k)

/-- The tree after a use of a leaf: each node on its path names the other side. -/
def plruUse (leaf : Nat) : Nat → Nat → Nat → Nat
  | 0, _, bits => bits
  | k + 1, node, bits =>
    let s := flag (leaf.testBit k)
    plruUse leaf k (2 * node + s) (withBit bits node (s == 0))

/-- The structures whose replacement is tree pseudo-LRU: L1D and L2 of a hart, the landing cache of a die, the hall cache and the
directory of a hall. -/
inductive Lru where
  | l1d (h : Nat)
  | l2 (h : Nat)
  | lnd (d : Nat)
  | hall (n : Nat)
  | dir (n : Nat)
  deriving DecidableEq, Repr

/-- The key of a set's tree. -/
def Lru.key (l : Lru) (set : Nat) : Nat :=
  65536 * (match l with
    | .l1d h => h
    | .l2 h => 288 + h
    | .lnd d => 576 + d
    | .hall n => 588 + n
    | .dir n => 604 + n) + set

/-- A way of a set is used. -/
def Chip.useWay (c : Chip) (l : Lru) (set way : Nat) : Chip :=
  { c with lru := sset 0 (l.key set) (plruUse way 5 1 (sget 0 (l.key set) c.lru)) c.lru }

/-- The way that tree pseudo-LRU selects in a set among those allowed. -/
def Chip.lruWay (c : Chip) (l : Lru) (set : Nat) (ok : Nat → Bool) : Option Nat := plruFind (sget 0 (l.key set) c.lru) ok 5 1 0

-- messages leave a die

/-- Token balances are kept in units of 1/tokUnit byte, in which every share of R266 (a 26th, 31/32 among k active ports, a
32nd among the others) is whole: the least common multiple of 1 to 26, times 32. -/
def tokUnit : Nat := 26771144400 * 32

/-- The token balance of an injection port for a class (R264). -/
def Chip.tokenOf (c : Chip) (port cls : Nat) : Int := sget 0 (port * 16 + cls) c.tokens

/-- The class word of a class in the committed set; the reset value of QOS_CLASS_c before the first commit. -/
def Chip.clsWord (c : Chip) (cls : Nat) : Word := sget 0x40FFFF0000 cls c.qosCls

/-- LIMIT of a class in the committed set is 0xFFFF: no port holds the class (R266). -/
def Chip.unlimited (c : Chip) (cls : Nat) : Bool := cls == 15 || F.QOS_CLASS_LIMIT.get (c.clsWord cls) == 0xFFFF

/-- A port charged or held a request of a class: it is active for the class (R266). -/
def Chip.markActive (c : Chip) (port cls : Nat) : Chip := { c with active := addOnce (port * 16 + cls) c.active }

/-- Take 64 bytes from a token balance. -/
def Chip.charge (c : Chip) (port cls : Nat) : Chip :=
  { c.markActive port cls with tokens := sset 0 (port * 16 + cls) (c.tokenOf port cls - 64 * tokUnit) c.tokens }

/-- A request is held while the balance is below 64 bytes (R264); an unlimited class never is (R266). -/
def Chip.mayGo (c : Chip) (port cls : Nat) : Bool := c.unlimited cls || 64 * tokUnit ≤ c.tokenOf port cls

/-- A request meets its injection port's tokens: it is charged and sent, or held in its class's queue (R264, R265), which it
keeps when a commit changes the map (R267). -/
def Chip.sendTokens (c : Chip) (m0 : Msg) : Chip :=
  match injPort m0 with
  | none => c.send m0
  | some port =>
    let cls := c.classOf m0.rid m0.label
    let m : Msg := { m0 with cls := cls }
    if cls = 15 then c.send m
    else if m.kind = .WB_DATA then (c.charge port cls).send m
    else if m.kind.tokenHeld then
      if !c.mayGo port cls || c.injQ.any (fun q => q.1 == port * 16 + cls) then
        { c.markActive port cls with injQ := c.injQ ++ [(port * 16 + cls, m)] }
      else (c.charge port cls).send m
    else c.send m

/-- The queue of a message that R264 may hold: its injection port and class; none of one that is never held. -/
def Chip.tokenQueue (c : Chip) (m : Msg) : Option Nat :=
  match injPort m with
  | none => none
  | some port => let k := c.classOf m.rid m.label; if k = 15 ∨ !m.kind.tokenHeld then none else some (port * 16 + k)

/-- The safe state holds a message that writes memory or gains ownership, unless it is Uzomuris's (R339). -/
def Chip.safeHolds (c : Chip) (m : Msg) : Bool := c.safe && m.kind.safeHeld && ridType m.rid != 5

/-- A message has to wait at its agent, for a die at the snoop filter: its class's queue of 32 is full, or an earlier one of the queue waits
there (R265). -/
def Chip.queueFull (c : Chip) (m : Msg) : Bool :=
  match c.tokenQueue m with
  | none => false
  | some q => 32 ≤ (c.injQ.filter (fun x => x.1 == q)).length || c.safeQ.any (fun x => c.tokenQueue x == some q)

/-- A request leaves its agent: it waits there in arrival order while the safe state holds it (R339) or its class's queue is full (R265);
any other goes on to its injection port. -/
def Chip.issue (c : Chip) (m : Msg) : Chip :=
  if c.safeHolds m || c.queueFull m then { c with safeQ := c.safeQ ++ [m] } else c.sendTokens m

/-- The messages that waited at their agents go as far as they may, in arrival order (R265, R340). -/
def Chip.reissue (c : Chip) : Chip := c.safeQ.foldl (fun x m => x.issue m) { c with safeQ := [] }

-- L2 lines

/-- The key of a line in the L2 of a hart. -/
def l2Key (h line : Nat) : Nat := line * 288 + h

/-- A line in the L2 of a hart. -/
def Chip.l2at (c : Chip) (h line : Nat) : L2Line := sget L2Line.invalid (l2Key h line) c.l2

/-- The banks of R307, keyed by ARRAY, instance and bank. -/
def bankKey (a i b : Nat) : Nat := a * 65536 + i * 16 + b

/-- A word has been written since its latest correction (R308, R309): its pending mend is cancelled and REWRITTEN sets. -/
def Bank.rewritten (b : Bank) (w : Nat) : Bank :=
  { b with mends := b.mends.filter (fun x => x.1 != w)
           recent := b.recent.map (fun r => if r.loc = w then { r with rewritten := true } else r) }

/-- A word of a bank is written (R308, R309). -/
def wroteWord (a i b w : Nat) (m : Sparse Bank) : Sparse Bank :=
  let k := bankKey a i b
  sset Bank.reset k ((sget Bank.reset k m).rewritten w) m

/-- The word of a line in an L2 bank: words are numbered set by set, way by way (R311). -/
def l2Word (line way : Nat) : Nat := line % 1024 / 8 * 16 + way

/-- The L2 arrays of a hart as a line's words are written (R308): its tag, and its data where the line enters, leaves or changes. -/
def wroteL2 (h line : Nat) (old l : L2Line) (m : Sparse Bank) : Sparse Bank :=
  let w := l2Word line (if l.st = .I then old.way else l.way)
  let t := wroteWord 5 h (line % 8) w m
  if old.st = .I ∨ l.st = .I ∨ old.data ≠ l.data then wroteWord 4 h (line % 8) w t else t

/-- Store a line in the L2 of a hart. -/
def Chip.setL2 (c : Chip) (h line : Nat) (l : L2Line) : Chip :=
  { c with l2 := sset L2Line.invalid (l2Key h line) l c.l2, banks := wroteL2 h line (c.l2at h line) l c.banks }

/-- The harts of a die. -/
def dieHarts (d : Nat) : List Nat := (List.range 24).map (fun i => 24 * d + i)

/-- The harts of a die whose L2 holds a line. -/
def Chip.holders (c : Chip) (d line : Nat) : List Nat := (dieHarts d).filter (fun h => (c.l2at h line).st != .I)

/-- The lines an L2 holds. -/
def Chip.l2Lines (c : Chip) (h : Nat) : List Nat :=
  (c.l2.filter (fun e => e.1 % 288 == h && e.2.st != .I)).map (fun e => e.1 / 288)

/-- The lines the L2s of a die hold, each once. -/
def Chip.dieLines (c : Chip) (d : Nat) : List Nat :=
  ((c.l2.filter (fun e => e.1 % 288 / 24 == d && e.2.st != .I)).map (fun e => e.1 / 288)).eraseDups

/-- A line leaves L2: it leaves both L1s first (R146), and a reservation on it is lost (R197). -/
def Chip.dropL2 (c : Chip) (h line : Nat) : Chip :=
  (c.setL2 h line L2Line.invalid).onHart h (fun x =>
    { x with l1i := x.l1i.filter (· != line), l1d := x.l1d.filter (·.1 != line)
             resv := if x.resv = some line then none else x.resv })

/-- Dirty: M or O (R174). -/
def Moesi.dirty : Moesi → Bool
  | .M | .O => true
  | _ => false

/-- E, M or O: the states in which an L2 owns the line for its die (R150, R176). -/
def Moesi.owns : Moesi → Bool
  | .E | .M | .O => true
  | _ => false

/-- Strength of a copy, for the strongest copy of R185. -/
def Moesi.rank : Moesi → Nat
  | .I => 0 | .S => 1 | .E => 2 | .O => 3 | .M => 4

/-- The hold of R188 on an L2 line lasts: until its minimum has passed and its access has completed, at most 4,096
ticks. -/
def Chip.held (c : Chip) (l : L2Line) : Bool :=
  match l.hold with
  | none => false
  | some (start, minEnd) => c.now < minEnd || ((l.pinned || l.winning) && c.now < start + 4096)

/-- Some L2 of a die holds a line against snoops (R188). -/
def Chip.dieHolds (c : Chip) (d line : Nat) : Bool := (dieHarts d).any (fun h => c.held (c.l2at h line))

-- the landing cache

/-- MODE of a landing cache (R168). -/
def Chip.lndMode (c : Chip) (d : Nat) : Nat := c.fld (.LND_STATUS d) F.LND_STATUS_MODE

/-- A landing copy, served or not. -/
def Chip.lndAt (c : Chip) (d line : Nat) : Option LndLine := sget none (line * 12 + d) c.lnd

/-- The landing arrays of a die as a line's words are written (R308). -/
def wroteLnd (d line : Nat) (old new : Option LndLine) (m : Sparse Bank) : Sparse Bank :=
  match new.or old with
  | none => m
  | some x =>
    let w := line % 32768 / 16 * 24 + x.way
    let t := wroteWord 8 d (line % 16) w m
    if old.map (fun y => y.data) = new.map (fun y => y.data) then t else wroteWord 7 d (line % 16) w t

/-- Store or remove a landing copy. -/
def Chip.setLnd (c : Chip) (d line : Nat) (v : Option LndLine) : Chip :=
  { c with lnd := sset none (line * 12 + d) v c.lnd, banks := wroteLnd d line (c.lndAt d line) v c.banks }

/-- A landing copy that can be served: the cache is enabled and the copy not shadowed (R150, R168), nor one that a command has still to
drop (R170). -/
def Chip.lndLive (c : Chip) (d line : Nat) : Option LndLine :=
  if c.lndMode d = 0 ∧ !(c.die d).lndLeft.contains line then (c.lndAt d line).filter (fun l => !l.shadowed) else none

/-- An invalidation reaches a landing copy: while the cache tracks (MODE 0 or 1) the copy is removed, in the dark it is
acknowledged without effect (R168). -/
def Chip.lndInval (c : Chip) (d line : Nat) : Chip := if c.lndMode d ≤ 1 then c.setLnd d line none else c

/-- A write passes through the landing cache: an enabled cache updates a copy that is present, a tracking-disabled one
invalidates it (R150, R168). -/
def Chip.lndUpdate (c : Chip) (d line : Nat) (data : Line) (poison shadowed : Bool) : Chip :=
  match c.lndAt d line with
  | none => c
  | some l =>
    if c.lndMode d = 0 then c.setLnd d line (some { l with data := data, poison := poison, shadowed := shadowed })
    else c.lndInval d line

/-- A line that a die owned is being cleaned, and its home has not written it yet (R158, R184). -/
def Chip.cleaning (c : Chip) (d line : Nat) : Bool :=
  c.txn.any (fun t => t.req.line == line && t.req.kind == .CMO_CLEAN && !t.granted && 2 ≤ t.before.state && t.before.owner == d)

/-- An L2 of a die owns a line, or the line waits in a write-back buffer for its acknowledgement, or is being cleaned: a landing copy of it
is shadowed (R150). -/
def Chip.ownedOn (c : Chip) (d line : Nat) : Bool :=
  (c.holders d line).any (fun h => (c.l2at h line).st.owns) || c.wb.any (fun e => e.h / 24 == d && e.line == line && !e.superseded)
    || c.cleaning d line

/-- The L2 that owned a line has given it up with the copy's data unchanged: the landing copy is unshadowed (R150), unless the array is in
the dark, in which nothing reaches it (R168). -/
def Chip.lndUnshadow (c : Chip) (d line : Nat) : Chip :=
  match c.lndAt d line with
  | some x => if c.lndMode d ≤ 1 && !c.ownedOn d line then c.setLnd d line (some { x with shadowed := false }) else c
  | none => c

/-- The lowest transaction tag that no outstanding transaction of a die uses, of 1,024 (R181). -/
def Chip.freeTag (c : Chip) (d : Nat) : Option Nat :=
  (List.range 1024).find? (fun t => !c.miss.any (fun m => m.req.die == d && m.req.tag == t)
    && !c.wb.any (fun e => e.h / 24 == d && e.sent && e.tag == t)
    && !c.wchk.any (fun w => w.1 / 24 == d && w.2.2 == t)
    && !(dieHarts d).any (fun h => (c.hart h).io == some none && (c.hart h).ioTag == t))

/-- The die holds no copy of a line that its home must know of: no L2 line, no line in the array of the landing cache (a
disabled one too, R168), no write-back under way. -/
def Chip.dieEmpty (c : Chip) (d line : Nat) : Bool :=
  (c.holders d line).isEmpty && (c.lndAt d line).isNone
    && !c.wb.any (fun e => e.h / 24 == d && e.line == line && !e.superseded)

/-- EVICT_CLEAN of a die (R186). It is not answered (R182), so that its tag is out of use only while the message is sent: the lowest that
no transaction of the die has, and 0 while all 1,024 have one (log entry 113, DESIGN CHOICE). -/
def Chip.cleanNotice (c : Chip) (d line rid world label acc : Nat) : Chip :=
  if c.dieEmpty d line then
    c.issue { kind := .EVICT_CLEAN, die := d, line := line, rid := rid, world := world, label := label, acc := acc
              tag := (c.freeTag d).getD 0 }
  else c

/-- EVICT_CLEAN, when the die's last copy of a line has left and none was dirty (R186). `h` is the hart whose request or
L2 caused it. -/
def Chip.evictClean (c : Chip) (d line h : Nat) : Chip := c.cleanNotice d line h (c.hart h).world (c.hart h).label 1

/-- The landing lines in the set of a line: 32,768 sets (R145). -/
def Chip.lndSet (c : Chip) (d line : Nat) : List Nat :=
  (c.lnd.filter (fun e => e.1 % 12 == d && e.1 / 12 % 32768 == line % 32768 && e.2.isSome)).map (fun e => e.1 / 12)

/-- The disabled ways of bank `bank` of an instance, in its data array `a` and its tag array a + 1 (R307, R311). -/
def Chip.waysOff (c : Chip) (a inst bank : Nat) : List Nat :=
  (sget Bank.reset (bankKey a inst bank) c.banks).waysOff ++ (sget Bank.reset (bankKey (a + 1) inst bank) c.banks).waysOff

/-- A line of a die is no victim while an outstanding UPGRADE concerns it (R183). -/
def Chip.victimOk (c : Chip) (d line : Nat) : Bool :=
  !c.miss.any (fun m => m.req.die == d && m.req.line == line && m.req.kind == .UPGRADE)

/-- The line that stands in a way of a landing set. -/
def Chip.lndInWay (c : Chip) (d line way : Nat) : Option Nat :=
  (c.lndSet d line).find? (fun x => match c.lndAt d x with | some y => y.way == way | none => false)

/-- The way of the landing cache that a line takes, of 24 (R145): its own, the lowest invalid one, or the one that tree pseudo-LRU selects
(R147) among those whose line may leave. -/
def Chip.lndWay (c : Chip) (d line : Nat) : Option Nat :=
  match c.lndAt d line with
  | some x => some x.way
  | none =>
    let ways := (List.range 24).filter (fun w => !(c.waysOff 7 d (line % 16)).contains w)
    match ways.find? (fun w => (c.lndInWay d line w).isNone) with
    | some w => some w
    | none => c.lruWay (.lnd d) (line % 32768) (fun w => ways.contains w
        && (match c.lndInWay d line w with | some v => c.victimOk d v | none => false))

/-- The landing cache allocates a clean copy (R149): nothing while it is disabled; a full set first loses a line, whose
copy, if it was the die's last, is given back to its home. -/
def Chip.lndAlloc (c : Chip) (d line h : Nat) (data : Line) (poison : Bool) (world : Nat) (shadowed : Bool) : Chip :=
  if c.lndMode d ≠ 0 then c
  else
    match c.lndWay d line with
    | none => c
    | some w =>
      let c1 := match (c.lndInWay d line w).filter (· != line) with
        | some v => (c.setLnd d v none).evictClean d v h
        | none => c
      (c1.setLnd d line (some { data := data, poison := poison, world := world, shadowed := shadowed, way := w })).useWay (.lnd d)
        (line % 32768) w

-- the write-back buffer

/-- The write-back entry of a die for a line that still stands for the line (not superseded). -/
def Chip.wbOf (c : Chip) (d line : Nat) : Option WbEntry :=
  c.wb.find? (fun e => e.h / 24 == d && e.line == line && !e.superseded)

/-- Any write-back entry of a die for a line, superseded or not. -/
def Chip.wbAny (c : Chip) (d line : Nat) : Option WbEntry := c.wb.find? (fun e => e.h / 24 == d && e.line == line)

/-- The entry of a die for a line is superseded (R192). -/
def Chip.supersede (c : Chip) (d line : Nat) : Chip :=
  { c with wb := c.wb.map (fun e => if e.h / 24 == d && e.line == line then { e with superseded := true } else e) }

/-- The requester ID of a die's CME (R18). -/
def cmeRid (d : Nat) : Nat := 0x1000 + 16 * d

/-- The message of a write-back: of an eviction with the label in force in the hart (R65), of a maintenance operation with its own world
and label (R160). -/
def Chip.wbMsg (c : Chip) (e : WbEntry) : Msg :=
  let m : Msg := { kind := .WB_DATA, die := e.h / 24, line := e.line, rid := e.h, world := e.world, label := (c.hart e.h).label, acc := 1
                   keep := e.keep, tag := e.tag, dirty := true, poison := e.poison, data := e.data }
  match e.cme with
  | some (world, label) => { m with rid := cmeRid m.die, world := world, label := label, acc := 7 }
  | none => m

/-- A write-back is passed to the die's egress (R167), once it has a transaction tag (R181): KEEP says that the die still holds clean
copies (R182), in an L2 or in the landing array. -/
def Chip.sendWb (c : Chip) (e : WbEntry) : Chip :=
  match c.freeTag (e.h / 24) with
  | none => c
  | some t =>
    let new : WbEntry := { e with
      sent := true, tag := t
      keep := !(c.holders (e.h / 24) e.line).isEmpty || (c.lndAt (e.h / 24) e.line).isSome }
    { c.issue (c.wbMsg new) with wb := c.wb.map (fun x => if x = e then new else x) }

/-- Send the write-back of an L2 for a line, if it has not been sent. -/
def Chip.sendWbOf (c : Chip) (h line : Nat) : Chip :=
  match c.wb.find? (fun e => e.h == h && e.line == line && !e.sent) with
  | some e => c.sendWb e
  | none => c

/-- The entries an L2's write-back buffer holds. -/
def Chip.wbCount (c : Chip) (h : Nat) : Nat := (c.wb.filter (fun e => e.h == h)).length

/-- The line of an L2 is clean, or its write-back buffer of 16 entries has room for it (R147). -/
def Chip.wbOpen (c : Chip) (h line : Nat) : Bool := !(c.l2at h line).st.dirty || c.wbCount h < 16

/-- A line leaves an L2 (R147, R149, R150, R167, R186): a dirty line enters the write-back buffer, and stays while that is full; a clean
one allocates a landing copy, and the die's last copy sends EVICT_CLEAN. -/
def Chip.evictL2 (c : Chip) (h line : Nat) : Chip :=
  let l := c.l2at h line
  let d := hartDie h
  match l.st with
  | .I => c
  | .M | .O =>
    if c.wbCount h < 16 then
      { c.dropL2 h line with wb := c.wb ++ [{ h := h, line := line, st := l.st, world := l.world, data := l.data
                                              poison := l.poison, sent := false, superseded := false }] }
    else c
  | .E | .S =>
    let c1 := c.dropL2 h line
    (match c1.lndAt d line with
      | some _ => c1.lndUnshadow d line
      | none => c1.lndAlloc d line h l.data l.poison l.world (c1.ownedOn d line)).evictClean d line h

/-- The lines of an L2 in the set of a line: 1,024 sets (R145). -/
def Chip.l2Set (c : Chip) (h line : Nat) : List Nat := (c.l2Lines h).filter (fun x => x % 1024 == line % 1024)

/-- The line that stands in a way of an L2 set. -/
def Chip.l2InWay (c : Chip) (h line way : Nat) : Option Nat := (c.l2Set h line).find? (fun x => (c.l2at h x).way == way)

/-- The way of an L2 that a line takes, of 16 (R145): its own, the lowest invalid one, or the one that tree pseudo-LRU selects (R147) among
those whose line may leave: not one an outstanding UPGRADE concerns (R183), nor a dirty one while the write-back buffer is full. -/
def Chip.l2Way (c : Chip) (h line : Nat) : Option Nat :=
  if (c.l2at h line).st ≠ .I then some (c.l2at h line).way
  else
    let ways := (List.range 16).filter (fun w => !(c.waysOff 4 h (line % 8)).contains w)
    match ways.find? (fun w => (c.l2InWay h line w).isNone) with
    | some w => some w
    | none => c.lruWay (.l2 h) (line % 1024) (fun w => ways.contains w
        && (match c.l2InWay h line w with | some v => c.victimOk (hartDie h) v && c.wbOpen h v | none => false))

/-- Put a line into an L2, in the way it takes; the line that stood there leaves. -/
def Chip.l2Put (c : Chip) (h line : Nat) (l : L2Line) : Chip :=
  match c.l2Way h line with
  | none => c
  | some w =>
    let c1 := match (c.l2InWay h line w).filter (· != line) with
      | some v => c.evictL2 h v
      | none => c
    (c1.setL2 h line { l with way := w }).useWay (.l2 h) (line % 1024) w

/-- A line of an L2 is used. -/
def Chip.useL2 (c : Chip) (h line : Nat) : Chip := c.useWay (.l2 h) (line % 1024) (c.l2at h line).way

/-- Lines of an L2 that stand in a disabled way of their bank leave (R311), as far as the write-back buffer has room and no outstanding
UPGRADE concerns them (R183). -/
def Chip.sweepL2 (c : Chip) (h : Nat) : Chip :=
  (c.l2Lines h).foldl (fun x line =>
    if (x.waysOff 4 h (line % 8)).contains (x.l2at h line).way && x.victimOk (hartDie h) line then x.evictL2 h line else x) c

/-- The snoop filter evicts the entry of a line: the line leaves every L2 it names (R176). -/
def Chip.filterEvict (c : Chip) (d line : Nat) : Chip := (c.holders d line).foldl (fun x h => x.evictL2 h line) c

/-- The snoop filter may evict the entry of a line: no outstanding UPGRADE concerns it (R183), no L2 it names holds the line against
snoops (R188), and a dirty line finds room in its write-back buffer (R147). -/
def Chip.filterMay (c : Chip) (d line : Nat) : Bool :=
  c.victimOk d line && !c.dieHolds d line && (c.holders d line).all (fun h => c.wbOpen h line)

/-- A die writes back and drops a line it holds (R333), landing copy included; one that may not leave yet leaves later. -/
def Chip.dropLine (c : Chip) (d line : Nat) : Chip :=
  if !c.filterMay d line then (if c.toDrop.contains (d, line) then c else { c with toDrop := c.toDrop ++ [(d, line)] })
  else
    let y := c.filterEvict d line
    if (y.lndAt d line).isSome then (y.setLnd d line none).evictClean d line (24 * d) else y

/-- The lines that a die has still to drop leave as far as they may now (R333). -/
def Chip.dropAgain (c : Chip) (d : Nat) : Chip :=
  (c.toDrop.filter (fun e => e.1 == d)).foldl (fun x e => x.dropLine d e.2) { c with toDrop := c.toDrop.filter (fun e => e.1 != d) }

/-- Make room in the snoop filter for a line: 32,768 sets of 16 ways (R176); none while no entry may leave. -/
def Chip.filterRoom (c : Chip) (d line : Nat) : Option Chip :=
  let set := (c.dieLines d).filter (fun x => x % 32768 == line % 32768)
  if set.contains line || set.length < 16 - (sget Bank.reset (bankKey 6 d (line % 16)) c.banks).waysOff.length
  then some c
  else (pick (set.filter (c.filterMay d)) c.free).map (fun v => c.nextFree.filterEvict d v)

/-- The chip with room for a line in the snoop filter and in an L2, if there can be. -/
def Chip.roomFor (c : Chip) (h line : Nat) : Option Chip :=
  (c.filterRoom (hartDie h) line).filter (fun x => (x.l2Way h line).isSome)

/-- A line can be installed in an L2 now. -/
def Chip.l2HasRoom (c : Chip) (h line : Nat) : Bool := (c.roomFor h line).isSome

/-- Install a line in an L2 that has room for it (R183): a landing copy is shadowed while the L2 owns the line (R150); a line won in M or
E is held, until the access that waits for it has completed and for a minimum (R188). -/
def Chip.installL2 (c : Chip) (h line : Nat) (st : Moesi) (world : Nat) (data : Line) (poison : Bool) : Chip :=
  let d := hartDie h
  let won : Bool := st == .M || st == .E
  let hold := if won then some (c.now, c.now + c.fld .PKG_COH_CFG F.PKG_COH_CFG_HOLD_MIN) else none
  let c1 := ((c.roomFor h line).getD c).l2Put h line { st := st, world := world, data := data, poison := poison, hold := hold, pinned := false
                                                       winning := won && (c.hart h).awaits.contains line }
  if st.owns then
    match c1.lndAt d line with
    | some x => if c1.lndMode d ≤ 1 then c1.setLnd d line (some { x with shadowed := true }) else c1
    | none => c1
  else c1

-- snoops

/-- What a die answers to a snoop (R185): HELD, DATA, DIRTY, POISON, and the line where DATA is 1 or 2. -/
structure SnoopAns where
  held : Nat
  dcode : Nat
  dirty : Bool
  poison : Bool
  data : Line
  deriving DecidableEq, Repr

/-- No copy. -/
def SnoopAns.none : SnoopAns := { held := 0, dcode := 0, dirty := false, poison := false, data := 0 }

/-- The strongest copy of a die (R185): its state, data and poison, and whether it stands in a write-back buffer. -/
def Chip.strongest (c : Chip) (d line : Nat) : Moesi × Line × Bool × Bool :=
  let best := (c.holders d line).foldl (fun (b : Moesi × Line × Bool × Bool) h =>
      let l := c.l2at h line
      if b.1.rank < l.st.rank then (l.st, l.data, l.poison, false) else b) (.I, 0, false, false)
  let best := match c.wbOf d line with
    | some e => if best.1.rank < e.st.rank then (e.st, e.data, e.poison, true) else best
    | none => best
  match best.1, c.lndLive d line with
  | .I, some l => (.S, l.data, l.poison, false)
  | _, _ => best

/-- Remove every copy of a line from a die: its L2s, its L1s and the landing copy. -/
def Chip.dieDrop (c : Chip) (d line : Nat) : Chip :=
  ((c.holders d line).foldl (fun x h => x.dropL2 h line) c).lndInval d line

/-- Change the state of every L2 copy of a line on a die. -/
def Chip.dieMap (c : Chip) (d line : Nat) (f : Moesi → Moesi) : Chip :=
  (c.holders d line).foldl (fun x h => x.setL2 h line { x.l2at h line with st := f (x.l2at h line).st }) c

/-- HELD of a strongest copy that stays. -/
def heldCode : Moesi → Nat
  | .I => 0 | .S => 1 | .O => 2 | .E | .M => 3

/-- SNP_SHARED (R185, R192): forward the line and keep a copy; from a write-back buffer ownership goes with it. The owner of a line in E
becomes a sharer, and the landing copy, which has the same data, is unshadowed (log entry 91, DESIGN CHOICE: R150 names no such case). -/
def Chip.snoopShared (c : Chip) (d line : Nat) : Chip × SnoopAns :=
  match c.strongest d line with
  | (.I, _, _, _) => (c.lndInval d line, SnoopAns.none)
  | (st, data, poison, inWb) =>
    if inWb then ((c.dieDrop d line).supersede d line,
      { held := 0, dcode := 2, dirty := true, poison := poison, data := data })
    else
      let c1 := c.dieMap d line (fun s => match s with | .M => .O | .E => .S | x => x)
      let c2 := c1.lndUnshadow d line
      (c2, { held := if st.dirty then 2 else 1, dcode := 2, dirty := st.dirty, poison := poison, data := data })

/-- SNP_OWN, SNP_INV and BACK_INV (R185): no copy stays; SNP_OWN forwards the line from any copy, the others return a
dirty one. -/
def Chip.snoopTake (c : Chip) (d line : Nat) (own : Bool) : Chip × SnoopAns :=
  let c1 := (c.dieDrop d line).supersede d line
  match c.strongest d line with
  | (.I, _, _, _) => (c1, SnoopAns.none)
  | (st, data, poison, _) =>
    if own then (c1, { held := 0, dcode := 2, dirty := st.dirty, poison := poison, data := data })
    else if st.dirty then (c1, { held := 0, dcode := 1, dirty := true, poison := poison, data := data })
    else (c1, SnoopAns.none)

/-- SNP_ONCE (R185): a copy of an E, M or O line is returned and nothing changes; with REPAIR a clean copy too. -/
def Chip.snoopOnce (c : Chip) (d line : Nat) (repair : Bool) : Chip × SnoopAns :=
  match c.strongest d line with
  | (.I, _, _, _) => (c, SnoopAns.none)
  | (.S, data, poison, _) =>
    (c, if repair then { held := 1, dcode := 1, dirty := false, poison := poison, data := data }
        else { held := 1, dcode := 0, dirty := false, poison := false, data := 0 })
  | (st, data, poison, _) =>
    (c, { held := heldCode st, dcode := 1, dirty := st.dirty, poison := poison, data := data })

/-- SNP_CLEAN (R185, R158): dirty data is returned, M becomes E and O becomes S. A landing copy stays shadowed, and takes the data when the
home has written it (log entry 92, DEDUCED: a landing copy is never newer than its home, R150). -/
def Chip.snoopClean (c : Chip) (d line : Nat) : Chip × SnoopAns :=
  match c.strongest d line with
  | (.I, _, _, _) => (c.lndInval d line, SnoopAns.none)
  | (st, data, poison, inWb) =>
    if st.dirty then
      let c1 := c.dieMap d line (fun s => match s with | .M => .E | .O => .S | x => x)
      (if inWb then c1.supersede d line else c1,
        { held := if st = .M then 3 else 1, dcode := 1, dirty := true, poison := poison, data := data })
    else (c, { held := heldCode st, dcode := 0, dirty := false, poison := false, data := 0 })

/-- A die's answer to a snoop of any kind (R185). -/
def Chip.snoop (c : Chip) (m : Msg) : Chip × SnoopAns :=
  match m.kind with
  | .SNP_SHARED => c.snoopShared m.die m.line
  | .SNP_OWN => c.snoopTake m.die m.line true
  | .SNP_ONCE => c.snoopOnce m.die m.line m.repair
  | .SNP_CLEAN => c.snoopClean m.die m.line
  | _ => c.snoopTake m.die m.line false

end Sys2Proof.Machine
end

