-- ==== Sys2Proof/Machine/Memory.lean ====
section
/-! DEFINITION. Memory as a hall sees it: the bytes behind the channels and their poison (R316, R317), the hall cache and
the region attribute table (R153 to R155), the page ownership table and its caches (R277, R278, R282), mirroring of what
is written (R399, R402, R412), and the accesses of I/O agents, engines and Uzomuris as whole transactions (R182, R184,
R200). -/

namespace Sys2Proof.Machine

-- bytes

/-- Memory in canonical form: addresses rise strictly and no listed byte is zero, which is what an unlisted address reads
as. -/
abbrev Memory.wf (m : List Host.Cell) : Prop := Sparse.wf (0 : Byte) m

/-- The byte of memory at an address. -/
def Pkg.byteAt (p : Pkg) (a : Nat) : Byte := sget 0 a p.dram

/-- Store one byte. -/
def Pkg.putByte (p : Pkg) (a : Nat) (b : Byte) : Pkg := { p with dram := sset 0 a b p.dram }

/-- The 64 bytes of a line. -/
def Pkg.lineBytes (p : Pkg) (line : Nat) : Line := Line.ofBytes (fun k => p.byteAt (line * 64 + k))

/-- Store the 64 bytes of a line. -/
def Pkg.putLine (p : Pkg) (line : Nat) (v : Line) : Pkg :=
  forUpTo 64 (fun k q => q.putByte (line * 64 + k) (Line.byte v k)) p

/-- A hall. -/
def Chip.hall (c : Chip) (n : Nat) : HallSt := sget HallSt.reset n c.halls

/-- Change a hall. -/
def Chip.onHall (c : Chip) (n : Nat) (f : HallSt → HallSt) : Chip :=
  { c with halls := sset HallSt.reset n (f (c.hall n)) c.halls }

/-- The poison a line of package DRAM was last filled with as its channel returned to service (R323); a line of a CXL window was not. -/
def Chip.filledPoison (c : Chip) (line : Nat) : Bool := line < 0x1000000000 && (c.hall (c.homeHall line)).allPoison

/-- A line is stored with the poison pattern (R316). -/
def Pkg.linePoison (p : Pkg) (line : Nat) : Bool :=
  match sget 0 line p.dpoison with
  | 0 => p.chip.filledPoison line
  | n => n == 1

/-- Mark or clear the poison pattern of a line. -/
def Pkg.setPoison (p : Pkg) (line : Nat) (b : Bool) : Pkg :=
  let base := p.chip.filledPoison line
  { p with dpoison := sset 0 line (if b = base then 0 else if b then 1 else 2) p.dpoison }

/-- A channel is in service (IN_SERVICE). -/
def Chip.inService (c : Chip) (n : Nat) : Bool := c.bit (.HALL_FLIGHT_STATUS n) F.HALL_FLIGHT_STATUS_IN_SERVICE

/-- A line lies in a CXL window: its home forwards it to the station and it takes no tread (R28, R251). -/
def Chip.isCxl (c : Chip) (line : Nat) : Bool :=
  match c.region (line * 64) with
  | .cxl _ _ => true
  | _ => false

/-- The memory behind a line can be reached: its channel is in service (R323), or, in a CXL window, the device's link is up and carries
CXL.mem (R346, R356). -/
def Chip.chanUp (c : Chip) (line : Nat) : Bool :=
  match c.region (line * 64) with
  | .cxl n j => c.bit (.PORT_STATUS n j) F.PORT_STATUS_LINK_UP && c.bit (.PORT_STATUS n j) F.PORT_STATUS_CXL_UP
  | _ => c.inService (c.homeHall line)

/-- What the channel delivers for a line: poisoned while it is out of service (R323) or the port refuses the request (R356). -/
def Pkg.chanRead (p : Pkg) (line : Nat) : Line × Bool :=
  if p.chip.chanUp line then (p.lineBytes line, p.linePoison line) else (0, true)

/-- Write a line to its channel: discarded while the channel is out of service, where it is counted (R323), or the port refuses it (R356); a poisoned line is
stored with the pattern of R316 and counted in POISON_WRITTEN. -/
def Pkg.chanWrite (p : Pkg) (line : Nat) (v : Line) (poison : Bool) : Pkg :=
  let n := p.chip.homeHall line
  if p.chip.chanUp line then
    let q := (p.putLine line v).setPoison line poison
    if poison && !p.chip.isCxl line then
      q.onChip (fun c => c.bump (.HALL_DRAM_STATUS n) F.HALL_DRAM_STATUS_POISON_WRITTEN)
    else q
  else if p.chip.isCxl line then p
  else p.onChip (fun c => c.bump (.HALL_DRAM_CTL n) F.HALL_DRAM_CTL_DISCARDED)

/-- The contents of package DRAM are lost (R419, R456); the memory of CXL devices stands. -/
def Pkg.dropDram (p : Pkg) : Pkg :=
  { p with dram := p.dram.filter (fun e => 0x40000000000 ≤ e.1), dpoison := p.dpoison.filter (fun e => 0x1000000000 ≤ e.1) }

/-- A request joins the requests that wait at a hall for a tread (R256). -/
def Chip.waitTread (c : Chip) (t : TreadReq) : Chip :=
  c.onHall (c.homeHall t.line) (fun h => { h with waiting := h.waiting ++ [t] })

/-- A burst of a line is owed on its channel: its data has been read or written already (log entry 19), and it takes its tread when its
turn comes (R251, R252). -/
def Chip.owesBurst (c : Chip) (line cls : Nat) (write maint : Bool) (req : Msg := { kind := .RD_ONCE }) (known : Bool := false) : Chip :=
  if c.isCxl line || !c.inService (c.homeHall line) then c
  else c.waitTread { cls := cls, line := line, write := write, alloc := false, req := req, done := true, maint := maint, known := known }

/-- A line is written to its channel on behalf of a class: the write takes a tread (R251), as maintenance work where it is an engine's
(R160); it is visible at once. -/
def Pkg.treadWrite (p : Pkg) (line : Nat) (v : Line) (poison : Bool) (cls : Nat) (maint : Bool := false) : Pkg :=
  (p.chanWrite line v poison).onChip (fun c => c.owesBurst line cls true maint)

-- the region attribute table

/-- RAT entry n holds page `pg` (R153). -/
def Chip.ratHit (c : Chip) (n pg : Nat) : Bool :=
  c.bit (.PKG_RAT_BASE n) F.PKG_RAT_BASE_VALID && c.fld (.PKG_RAT_BASE n) F.PKG_RAT_BASE_BASE ≤ pg
    && pg ≤ c.fld (.PKG_RAT_LIMIT n) F.PKG_RAT_LIMIT_LIMIT

/-- The valid entry of the lowest index that holds a page (R153). -/
def Chip.ratEntry (c : Chip) (pg : Nat) : Option Nat := (List.range 64).find? (fun n => c.ratHit n pg)

/-- The policy of a line (R153). -/
def Chip.policy (c : Chip) (line : Nat) : Nat :=
  match c.ratEntry (line / 64) with
  | some n => c.fld (.PKG_RAT_BASE n) F.PKG_RAT_BASE_POLICY
  | none => c.fld .PKG_RAT_CTL F.PKG_RAT_CTL_DEFAULT_POLICY

/-- The union of WAYS over the valid entries with PIN, as bits; `n` and its WAYS may be given as they would stand after a
write (R155, R156). -/
def Chip.reservedWays (c : Chip) : Nat :=
  (List.range 64).foldl (fun acc n =>
    if c.bit (.PKG_RAT_BASE n) F.PKG_RAT_BASE_VALID && c.bit (.PKG_RAT_BASE n) F.PKG_RAT_BASE_PIN then
      acc ||| c.fld (.PKG_RAT_LIMIT n) F.PKG_RAT_LIMIT_WAYS
    else acc) 0

/-- The ways a line may be allocated in (R155). -/
def Chip.mayWays (c : Chip) (line : Nat) : List Nat :=
  let all := List.range 12
  let free := all.filter (fun w => !bitAt c.reservedWays w)
  match c.ratEntry (line / 64) with
  | none => free
  | some n =>
    let ways := c.fld (.PKG_RAT_LIMIT n) F.PKG_RAT_LIMIT_WAYS
    if c.bit (.PKG_RAT_BASE n) F.PKG_RAT_BASE_PIN then all.filter (fun w => bitAt ways w)
    else
      let l := free.filter (fun w => ways == 0 || bitAt ways w)
      if l.isEmpty then free else l

-- the hall cache

/-- MODE of a hall cache (R168, R173). -/
def Chip.hcMode (c : Chip) (n : Nat) : Nat := c.fld (.HALL_CACHE_STATUS n) F.LND_STATUS_MODE

/-- A line in the hall cache of its home. -/
def Chip.hcAt (c : Chip) (line : Nat) : Option HcLine := sget none line c.hc

/-- The set of a line in its hall cache: local[20:6] (R153). -/
def Chip.hcSet (c : Chip) (line : Nat) : Nat := c.homeLocal line / 64 % 32768

/-- The hall cache arrays of a hall as the words of a set's line are written (R308): both copies of its tag, and its data. -/
def wroteHc (n set : Nat) (old new : Option HcLine) (m : Sparse Bank) : Sparse Bank :=
  match new.or old with
  | none => m
  | some x =>
    let w := set / 16 * 12 + x.way
    let t := wroteWord 0x0A n (set % 16) (w + 2 ^ 24) (wroteWord 0x0A n (set % 16) w m)
    if old.map (fun y => y.data) = new.map (fun y => y.data) then t else wroteWord 0x09 n (set % 16) w t

/-- Store or remove a hall cache line. -/
def Chip.setHc (c : Chip) (line : Nat) (v : Option HcLine) : Chip :=
  { c with hc := sset none line v c.hc, banks := wroteHc (c.homeHall line) (c.hcSet line) (c.hcAt line) v c.banks }

/-- The ways of the hall cache bank of a line that are disabled (R311). -/
def Chip.hcWaysOff (c : Chip) (line : Nat) : List Nat :=
  let n := c.homeHall line
  let b := c.hcSet line % 16
  (sget Bank.reset (bankKey 0x09 n b) c.banks).waysOff ++ (sget Bank.reset (bankKey 0x0A n b) c.banks).waysOff

/-- The line that stands in a way of the set of `line`. -/
def Chip.hcInWay (c : Chip) (line way : Nat) : Option Nat :=
  (c.hc.find? (fun e => c.homeHall e.1 == c.homeHall line && c.hcSet e.1 == c.hcSet line
    && (match e.2 with | some x => x.way == way | none => false))).map (fun e => e.1)

/-- A line of a hall cache is used (R155). -/
def Chip.useHc (c : Chip) (line way : Nat) : Chip := c.useWay (.hall (c.homeHall line)) (c.hcSet line) way

/-- A hall cache line is written. -/
def Chip.putHc (c : Chip) (line : Nat) (x : HcLine) : Chip := (c.setHc line (some x)).useHc line x.way

/-- A line leaves the hall cache, written to its channel first if it is dirty. -/
def Pkg.hcEvict (p : Pkg) (line cls : Nat) (maint : Bool := false) : Pkg :=
  match p.chip.hcAt line with
  | none => p
  | some x =>
    let q := if x.dirty then p.treadWrite line x.data x.poison cls maint else p
    q.onChip (fun c => c.setHc line none)

/-- Allocate a line in the hall cache (R155): the lowest-numbered invalid way of those it may take, else the one that tree pseudo-LRU
selects over them, whose dirty data is written in a tread of the allocating request's class (R258); a write with no way to take goes to the
channel. -/
def Pkg.hcAlloc (p : Pkg) (line : Nat) (v : Line) (poison dirty : Bool) (cls : Nat) : Pkg :=
  let ways := (p.chip.mayWays line).filter (fun w => !(p.chip.hcWaysOff line).contains w)
  match ways.find? (fun w => (p.chip.hcInWay line w).isNone) with
  | some w => p.onChip (fun c => c.putHc line { data := v, poison := poison, dirty := dirty, way := w })
  | none =>
    match p.chip.lruWay (.hall (p.chip.homeHall line)) (p.chip.hcSet line) ways.contains with
    | none => if dirty then p.treadWrite line v poison cls else p
    | some w =>
      let q := match p.chip.hcInWay line w with
        | some old => p.hcEvict old cls
        | none => p
      q.onChip (fun c => c.putHc line { data := v, poison := poison, dirty := dirty, way := w })

/-- The value memory holds for a line, the hall cache counted as memory (R158, R177). -/
def Pkg.memRead (p : Pkg) (line : Nat) : Line × Bool :=
  match p.chip.hcAt line with
  | some x => if p.chip.hcMode (p.chip.homeHall line) = 0 then (x.data, x.poison) else p.chanRead line
  | none => p.chanRead line

/-- A line is read from memory for a whole transaction of a class, under its region's policy (R154, R168): from the hall cache, where a line
of a bypass region is first written out and invalidated; else from the channel, which owes the burst (R251), and allocated in a write-back
or write-through region. -/
def Pkg.memFetch (p : Pkg) (line cls : Nat) (maint : Bool := false) (req : Msg := { kind := .RD_ONCE }) : Pkg × Line × Bool :=
  let on : Bool := p.chip.hcMode (p.chip.homeHall line) == 0
  let bypass : Bool := on && p.chip.policy line == 3
  match (if on && !bypass then p.chip.hcAt line else none) with
  | some x => (p.onChip (fun c => c.useHc line x.way), x.data, x.poison)
  | none =>
    let q := (if bypass then p.hcEvict line cls maint else p).onChip (fun c => c.owesBurst line cls false maint req)
    let v := q.chanRead line
    (if on && p.chip.policy line ≤ 1 then q.hcAlloc line v.1 v.2 false cls else q, v.1, v.2)

/-- A maintenance engine of a line's home waits for the line's fill (R163). -/
def Chip.hallAwaited (c : Chip) (line : Nat) : Bool := c.mnt.any (fun r => r.key == 16 + c.homeHall line && r.wait.contains line)

/-- A line is written to memory under its region's policy (R154); a disabled hall cache is passed by, and an enabled or
tracking one loses a copy that a write reaches (R168). -/
def Pkg.memWrite (p : Pkg) (line : Nat) (v : Line) (poison : Bool) (cls : Nat) : Pkg :=
  let n := p.chip.homeHall line
  let mode := p.chip.hcMode n
  if mode ≠ 0 then
    (if mode = 1 then p.onChip (fun c => c.setHc line none) else p).treadWrite line v poison cls
  else
    match p.chip.policy line, p.chip.hcAt line with
    | 0, some x => p.onChip (fun c => c.putHc line { x with data := v, poison := poison, dirty := true })
    | 0, none => p.hcAlloc line v poison true cls
    | 1, some x =>
      (p.onChip (fun c => c.putHc line { x with data := v, poison := poison, dirty := false })).treadWrite line v
        poison cls
    | 1, none => p.treadWrite line v poison cls
    | 2, some x =>
      let q := p.onChip (fun c => c.putHc line { x with data := v, poison := poison })
      if x.dirty then q else q.treadWrite line v poison cls
    | 2, none => p.treadWrite line v poison cls
    | _, some _ => (p.onChip (fun c => c.setHc line none)).treadWrite line v poison cls
    | _, none => p.treadWrite line v poison cls

-- the directory, as whole transactions use it

/-- The directory entry of a line. -/
def Chip.dirAt (c : Chip) (line : Nat) : DirEntry := sget DirEntry.none line c.dir

/-- The key of a directory set: hall and local[21:6] (R177). -/
def Chip.dirSetOf (c : Chip) (line : Nat) : Nat × Nat := (c.homeHall line, c.homeLocal line / 64 % 65536)

/-- The directory array as a line's word is written, in both copies (R308). -/
def wroteDir (set : Nat × Nat) (way : Option Nat) (m : Sparse Bank) : Sparse Bank :=
  match way with
  | none => m
  | some w =>
    let k := set.2 / 16 * 16 + w
    wroteWord 0x0B set.1 (set.2 % 16) (k + 2 ^ 24) (wroteWord 0x0B set.1 (set.2 % 16) k m)

/-- Store a directory entry. -/
def Chip.setDir (c : Chip) (line : Nat) (e : DirEntry) : Chip :=
  { c with dir := sset DirEntry.none line e c.dir, banks := wroteDir (c.dirSetOf line) (sget none line c.dirWay) c.banks }

/-- The entry of a line names an owner that is lost, and the home has not been notified yet: an access would await the owner's answer
until it is (R195 steps 1 to 3). -/
def Chip.ownerGone (c : Chip) (line : Nat) : Bool :=
  let e := c.dirAt line
  2 ≤ e.state && (c.die e.owner).purging && !(c.die e.owner).told.contains (c.homeHall line)

/-- No transaction occupies a line, no hold keeps it and no request waits for it: an access may take its turn (R187,
R188). -/
def Chip.lineIdle (c : Chip) (line : Nat) : Bool :=
  !c.ownerGone line && !c.txn.any (fun t => t.req.line == line) && !c.homeQ.any (fun m => m.line == line)
    && !(List.range 12).any (fun d => c.dieHolds d line)

/-- A port has been fenced for its FENCE_LIMIT (R216). The wait of an I/O agent's whole transaction, and of an access to a window that is one
step, is counted from the fence (log entry 111, DESIGN CHOICE: its requests stand in no fence hold). -/
def Chip.fenceEnds (c : Chip) (p : Nat × Nat) : Bool :=
  sget 0 (p.1 * 2 + p.2) c.gal.fencedAt + c.fld (.GAL_FENCE_CTL p.1) F.GAL_FENCE_CTL_FENCE_LIMIT ≤ c.now

/-- A port answers nothing that is sent to it (R216, R220): it is disabled, or has been fenced for its limit. -/
def Chip.portShut (c : Chip) (p : Nat × Nat) : Bool :=
  let st := c.portState p.1 p.2
  st == 3 || (st != 0 && c.fenceEnds p)

/-- What is sent to a port is not held (R215, R216): the port is open, or the packet is answered at once. -/
def Chip.portTakes (c : Chip) (p : Nat × Nat) : Bool := c.portState p.1 p.2 == 0 || c.portShut p

/-- A request of an I/O agent for a line is not held (R215, R216): the port of its home is open, or the request is answered at once,
because the port is disabled (R220) or has been fenced for its limit. -/
def Chip.homeTakes (c : Chip) (line : Nat) : Bool := c.portTakes (c.hallPort line)

/-- A home does not take requests (R216, R220): its port is disabled, or has been fenced for its limit. -/
def Chip.homeShut (c : Chip) (line : Nat) : Bool := c.portShut (c.hallPort line)

/-- UNAVAIL to an I/O agent or a hall (R216, R217, R220): the router of the agent's own port counts the packet and reports it. -/
def Chip.agentUnavail (c : Chip) (rid world acc line : Nat) : Chip :=
  let r := (c.agentPort { kind := .RD_ONCE, rid := rid, line := line }).1
  (c.bump (.GAL_FENCE_STATUS r) F.GAL_FENCE_STATUS_UNAVAIL_COUNT).report (unitRouter r) 9 rid (reqWorld rid world) acc 0 (line * 64)

/-- The copy of a line whose state the strongest copy of some die has, in an L2 or a write-back buffer. -/
def Chip.copyIn (c : Chip) (line : Nat) (st : Moesi → Bool) : Option (Line × Bool) :=
  match (List.range 12).find? (fun d => st (c.strongest d line).1) with
  | some d => let s := c.strongest d line; some (s.2.1, s.2.2.1)
  | none => none

/-- The dirty copy of a line, which a write merges (R184). -/
def Chip.dirtyCopy (c : Chip) (line : Nat) : Option (Line × Bool) := c.copyIn line Moesi.dirty

/-- The owner's copy of a line, which a read returns (R184, R185: SNP_ONCE). -/
def Chip.ownerCopy (c : Chip) (line : Nat) : Option (Line × Bool) := c.copyIn line Moesi.owns

/-- The value of a line anywhere in the package: an owner's copy, else memory (R184, RD_ONCE). -/
def Pkg.coherentRead (p : Pkg) (line : Nat) : Line × Bool :=
  match p.chip.dirtyCopy line with
  | some x => x
  | none => p.memRead line

/-- The same as a whole transaction of a class, `copy` being what a die returns of the line: what memory gives is fetched (R251). -/
def Pkg.fetchOr (p : Pkg) (copy : Option (Line × Bool)) (line cls : Nat) (req : Msg := { kind := .RD_ONCE }) : Pkg × Line × Bool :=
  match copy with
  | some x => (p, x.1, x.2)
  | none => p.memFetch line cls false req

/-- A write's whole transaction reads the line: dirty data, else memory. -/
def Pkg.coherentFetch (p : Pkg) (line cls : Nat) (req : Msg := { kind := .RD_ONCE }) : Pkg × Line × Bool :=
  p.fetchOr (p.chip.dirtyCopy line) line cls req

/-- A hall serves a read of a line itself (R268): from its cache, its channel or a CXL forward. -/
def Chip.serves (c : Chip) (line : Nat) : Bool :=
  (c.hcMode (c.homeHall line) == 0 && (c.hcAt line).isSome) || c.chanUp line

/-- Every copy of a line leaves every die, and its directory entry is freed. -/
def Chip.purgeLine (c : Chip) (line : Nat) : Chip :=
  (forUpTo 12 (fun d x => (x.snoopTake d line false).1) c).setDir line DirEntry.none

-- mirroring

/-- The region of the table in force that holds a page: BASE in bits [51:12], MODE in bits [1:0] (R398). -/
def Chip.mirrorRegion (c : Chip) (pg : Nat) : Option Nat :=
  (List.range 16).find? (fun n =>
    let b := sget 0 n c.pair.base
    F.PAIR_REGION_BASE_MODE.get b != 0 && F.PAIR_REGION_BASE_PAGE.get b ≤ pg
      && pg ≤ F.PAIR_REGION_PAGE.get (sget 0 n c.pair.limit))

/-- This package is source. -/
def Chip.isSource (c : Chip) : Bool := c.bit .PAIR_STATUS F.PAIR_STATUS_SOURCE

/-- A region of this package is a target region: the package holds the copy, or it has yielded (R400, R408, R411). -/
def Chip.targetLine (c : Chip) (line : Nat) : Bool :=
  (c.mirrorRegion (line / 64)).isSome && !c.isSource

/-- A line is read and written for the hall itself, with no policy but that of memory: the copies of dies leave first. -/
def Pkg.rawWrite (p : Pkg) (line : Nat) (v : Line) (poison : Bool) (cls : Nat) : Pkg :=
  (p.onChip (fun c => c.purgeLine line)).memWrite line v poison cls

/-- The address and bit of a page of region n in the dirty bitmap (R412). -/
def Chip.dirtyBit (c : Chip) (n pg : Nat) : Nat × Nat :=
  let i := pg - F.PAIR_REGION_BASE_PAGE.get (sget 0 n c.pair.base)
  (c.fld .PAIR_DIRTY_BASE F.PAIR_DIRTY_BASE_BASE * 4096 + 2 ^ 25 * n + i / 8, i % 8)

/-- A page of a region is marked dirty in the bitmap (R412). -/
def Pkg.pageDirty (p : Pkg) (n pg : Nat) : Bool :=
  let ab := p.chip.dirtyBit n pg
  ((p.coherentRead (ab.1 / 64)).1.toNat / 2 ^ (8 * (ab.1 % 64))).testBit ab.2

/-- Set or clear the bit of a page in the dirty bitmap (R412): a write of requester type 4 and world W1. -/
def Pkg.setDirty (p : Pkg) (n pg : Nat) (b : Bool) : Pkg :=
  if p.pageDirty n pg == b then (if b then p.onChip Chip.track else p)
  else
    let ab := p.chip.dirtyBit n pg
    let old := p.coherentFetch (ab.1 / 64) 15
    let k := ab.1 % 64
    let v := Line.setByte old.2.1 k (BitVec.ofNat 8 (withBit (Line.byte old.2.1 k).toNat ab.2 b))
    (old.1.rawWrite (ab.1 / 64) v old.2.2 15).onChip (fun c =>
      let cnt := c.fld (.PAIR_REGION_STATUS n) F.PAIR_REGION_STATUS_DIRTY_PAGES
      let c1 := c.setFld (.PAIR_REGION_STATUS n) F.PAIR_REGION_STATUS_DIRTY_PAGES (if b then cnt + 1 else cnt - 1)
      let c2 := if b then c1.track else c1
      if !b && cnt ≤ 1 then
        (c2.setBit (.PAIR_REGION_STATUS n) F.PAIR_REGION_STATUS_LAGGING false).setCause 37
          ((List.range 16).any (fun i => i != n && c2.bit (.PAIR_REGION_STATUS i) F.PAIR_REGION_STATUS_LAGGING))
      else c2)

/-- A line could not be queued, or its lag would pass LAG_MAX_US: its page is marked dirty, LAGGING sets, event 581 and
fault 37 are raised (R402, R414). -/
def Pkg.setLagging (p : Pkg) (n pg : Nat) : Pkg :=
  (p.setDirty n pg true).onChip (fun c =>
    if c.bit (.PAIR_REGION_STATUS n) F.PAIR_REGION_STATUS_LAGGING then c
    else ((c.setBit (.PAIR_REGION_STATUS n) F.PAIR_REGION_STATUS_LAGGING true).raiseEvent 581).reportLevel unitUz 37
      0x5000 1 15)

/-- The pair link a region uses: JL_24 for an even region and JL_25 for an odd one, the sibling while its own has failed
(R399), and until every line of the region that the sibling carried is acknowledged (R406). -/
def Chip.pairLink (c : Chip) (n : Nat) : Nat :=
  let own := 24 + n % 2
  if c.fld (.JL_STATUS own) F.JL_STATUS_STATE == 2 && !c.pair.queue.any (fun q => q.region == n && q.link != own) then own
  else 49 - own

/-- The unacknowledged lines of the station of a pair link. -/
def Chip.pairQueued (c : Chip) (k : Nat) : Nat := (c.pair.queue.filter (fun q => q.link == k)).length

/-- A line enters a region's mirror stream with the next SEQ (R399, R404). -/
def Chip.enqueueMirror (c : Chip) (n line : Nat) (v : Line) (poison copy : Bool) : Chip :=
  let seq := sget 0 n c.pair.seq + 1
  { c with pair := { c.pair with
      seq := sset 0 n seq c.pair.seq
      queue := c.pair.queue ++ [{ region := n, seq := seq, line := line, data := v, poison := poison, copy := copy
                                  at_ := c.now, link := c.pairLink n }] } }

/-- The home hall forwards a line of an enabled region that it writes to memory (R399): while the source is ALONE or its
target is not ready, the page is marked dirty instead (R397, R410); a queue of 131,072 lines is full (R400, R402). -/
def Pkg.mirror (p : Pkg) (line : Nat) (v : Line) (poison : Bool) : Pkg :=
  match p.chip.mirrorRegion (line / 64) with
  | none => p
  | some n =>
    if !p.chip.isSource || p.chip.pair.yielded then p
    else if p.chip.pairState = 3 ∨ !p.chip.pair.partnerReady then p.setDirty n (line / 64) true
    else if p.chip.pairState = 2 ∨ p.chip.pairState = 5 then
      if 131072 ≤ p.chip.pairQueued (p.chip.pairLink n) then p.setLagging n (line / 64)
      else p.onChip (fun c => c.enqueueMirror n line v poison false)
    else p

/-- The pages of unacknowledged lines are marked dirty, and the lines leave the queue; a completion held for one of these pages
now waits until the page has been copied (R401, R405). -/
def Pkg.markUnacked (p : Pkg) (sel : MirLine → Bool) : Pkg :=
  let out := p.chip.pair.queue.filter sel
  out.foldl (fun q e => q.setDirty e.region (e.line / 64) true)
    (p.onChip (fun c => c.onPair (fun s => { s with
      queue := s.queue.filter (fun e => !sel e)
      held := s.held.map (fun h =>
        if out.any (fun e => e.region == h.2.1 && e.line / 64 == h.1.line / 64) then (h.1, h.2.1, 0) else h) })))

/-- A pair link has failed: the pages of its unacknowledged lines are marked dirty (R248, R405). -/
def Pkg.pairFailed (p : Pkg) (k : Nat) : Pkg :=
  if 24 ≤ k ∧ p.chip.fld (.JL_STATUS k) F.JL_STATUS_STATE = 3 then p.markUnacked (fun e => e.link == k) else p

/-- The target has not acknowledged a line of a synchronous region in a range of lines (R401), or such a region has pages that
were marked because a line could not be queued (R402). -/
def Chip.syncWaits (c : Chip) (lo hi : Nat) : Bool :=
  c.pair.queue.any (fun q => lo ≤ q.line && q.line ≤ hi
    && F.PAIR_REGION_BASE_MODE.get (sget 0 q.region c.pair.base) == 1)
  || (List.range 16).any (fun n => c.bit (.PAIR_REGION_STATUS n) F.PAIR_REGION_STATUS_LAGGING
    && F.PAIR_REGION_BASE_MODE.get (sget 0 n c.pair.base) == 1
    && 64 * F.PAIR_REGION_BASE_PAGE.get (sget 0 n c.pair.base) ≤ hi
    && lo < 64 * (F.PAIR_REGION_PAGE.get (sget 0 n c.pair.limit) + 1))

/-- A write that the home performs: under the region's policy, and mirrored (R154, R399). -/
def Pkg.homeWrite (p : Pkg) (line : Nat) (v : Line) (poison : Bool) (cls : Nat) : Pkg :=
  (p.memWrite line v poison cls).mirror line v poison

-- a lost die

/-- A compute die is lost, or the halls' purges for its loss have not all ended (R195). -/
def Chip.dieLost (c : Chip) (d : Nat) : Bool := c.dieState d == 5 || (c.die d).purging

/-- The home of a line knows of the loss of a die: it has been notified (R195 step 2), or the purges have ended. -/
def Chip.lostAt (c : Chip) (d line : Nat) : Bool :=
  c.dieLost d && (!(c.die d).purging || (c.die d).told.contains (c.homeHall line))

/-- Remove a sharer; a broadcast entry does not change (R179), and a shared entry without a sharer is free. -/
def DirEntry.drop (e : DirEntry) (d : Nat) : DirEntry :=
  if e.bcast then e
  else
    let l := e.ptrs.filter (· != d)
    if e.state = 1 ∧ l = [] then DirEntry.none else { e with ptrs := l }

/-- The dies an entry names as sharers: the pointers, or in broadcast mode every compute die that is not lost (one that does
not run holds no copy and answers nothing: log entry 67, DEDUCED); those of `ex` left out. -/
def Chip.sharersOf (c : Chip) (e : DirEntry) (ex : List Nat) : List Nat :=
  (if e.bcast then (List.range 12).filter (fun d => c.dieUp d && !c.dieLost d) else e.ptrs).filter (fun d => !ex.contains d)

/-- Every sharer an entry names loses its copy, as by SNP_INV (R195 step 4). -/
def Chip.dropSharers (c : Chip) (e : DirEntry) (d line : Nat) : Chip :=
  (c.sharersOf e [d]).foldl (fun x s => (x.snoopTake s line false).1) c

/-- The purge of one line for a lost die d (R195 step 4): an owned line is written poisoned and every sharer loses it, a
pointer goes. -/
def Pkg.purgeLost (p : Pkg) (d line : Nat) : Pkg :=
  let e := p.chip.dirAt line
  if 2 ≤ e.state ∧ e.owner = d then
    let q := p.onChip (fun c => c.dropSharers e d line)
    (q.homeWrite line (q.memRead line).1 true 15).onChip (fun c =>
      (c.setDir line DirEntry.none).bump (.HALL_DIR_COUNT (c.homeHall line)) F.HALL_DIR_COUNT_POISONED)
  else p.onChip (fun c => c.setDir line (e.drop d))

/-- The purge of one line for every die that its home knows to be lost (R195 steps 3 to 5). -/
def Pkg.purgeLine (p : Pkg) (line : Nat) : Pkg :=
  ((List.range 12).filter (fun d => p.chip.lostAt d line)).foldl (fun q d => q.purgeLost d line) p

-- page ownership

/-- The valid segment that covers a page (R278). -/
def Chip.potSegment (c : Chip) (pg : Nat) : Option Nat :=
  (List.range 4).find? (fun s => c.bit (.WLD_POT_TABLE s) F.WLD_POT_TABLE_VALID
    && c.fld (.WLD_POT_FIRST s) F.WLD_POT_SEG_VALUE ≤ pg && pg ≤ c.fld (.WLD_POT_LAST s) F.WLD_POT_SEG_VALUE)

/-- The address of the POT entry of a page (R278). -/
def Chip.potAddr (c : Chip) (pg : Nat) : Option Nat :=
  (c.potSegment pg).map (fun s =>
    c.fld (.WLD_POT_TABLE s) F.WLD_POT_TABLE_VALUE * 4096 + 2 * (pg - c.fld (.WLD_POT_FIRST s) F.WLD_POT_SEG_VALUE))

/-- COMMITTED of WLD_CTL: ownership checks are in force. -/
def Chip.wldCommitted (c : Chip) : Bool := c.bit .WLD_CTL F.WLD_CTL_COMMITTED

/-- The POT entry of a page as memory holds it: 0x0000 for a page that no segment covers (R278), none for one that cannot
be read (R282). -/
def Pkg.potEntryOf (p : Pkg) (pg : Nat) : Option Nat :=
  match p.chip.potAddr pg with
  | none => some 0
  | some a =>
    let l := p.memRead (a / 64)
    if l.2 then none else some (Line.slice l.1 (a % 64) 2)

/-- The key of an ownership cache line: the line of entries and the hall. -/
def owncKey (hall entryLine : Nat) : Nat := entryLine * 16 + hall

/-- The ownership cache lines of a hall that stand in a set: 64 sets of 8 ways (R282). -/
def Chip.owncSet (c : Chip) (hall el : Nat) : List Nat :=
  (c.ownc.filter (fun e => e.1 % 16 == hall && e.1 / 16 % 64 == el % 64 && e.2.isSome)).map (fun e => e.1)

/-- The lines that a set of an ownership cache may hold: 8 ways, less the slots of the set that are removed (R282, R311; slot l belongs to set
l / 8, log entry 114, DESIGN CHOICE). -/
def Chip.owncWays (c : Chip) (hall el : Nat) : Nat :=
  8 - ((sget Bank.reset (bankKey 0x0C hall 0) c.banks).slotsOff.filter (fun l => l / 8 % 64 == el % 64)).length

/-- A set of an ownership cache holds at most n lines: a free value chooses the line that leaves. -/
def Chip.owncTrim (c : Chip) (hall el n : Nat) : Chip :=
  let set := c.owncSet hall el
  if set.length ≤ n then c
  else
    match pick set c.free with
    | some v => { c.nextFree with ownc := sset none v none c.ownc }
    | none => c

/-- A line of POT entries enters an ownership cache (R282); nothing while its set has no slot left. -/
def Chip.owncFill (c : Chip) (hall el : Nat) (v : Line) : Chip :=
  let n := c.owncWays hall el
  if n = 0 then c
  else
    let c1 := if (sget none (owncKey hall el) c.ownc).isSome then c else c.owncTrim hall el (n - 1)
    { c1 with ownc := sset none (owncKey hall el) (some v) c1.ownc }

/-- A line of POT entries is fetched for a hall (R282): from its home, under its region's policy (R154), whose channel read is maintenance
work (R252); UNAVAIL, of a home whose port is shut, is as a poisoned line. -/
def Pkg.potFetch (p : Pkg) (hall line : Nat) : Pkg × Line × Bool :=
  if p.chip.homeHall line ≠ hall ∧ p.chip.homeShut line then (p.onChip (fun c => c.agentUnavail (0x4000 + hall) 2 7 line), 0, true)
  else p.memFetch line 15 true { kind := .HALL_RD, line := line, rid := 0x4000 + hall, world := 2, acc := 7 }

/-- The entry of a line's page has to be fetched through a port that is fenced (R215, R282): what needs it waits (log entry 130, DEDUCED). -/
def Chip.potWaits (c : Chip) (line : Nat) : Bool :=
  c.wldCommitted && (match c.potAddr (line / 64) with
    | none => false
    | some a =>
      (sget none (owncKey (c.homeHall line) (a / 64)) c.ownc).isNone && c.homeHall (a / 64) != c.homeHall line && !c.homeTakes (a / 64))

/-- A hall looks up the entry of a page: a hit in its ownership cache, or a fetch that fills it; an unreadable entry is
not cached (R282). A page that no segment covers has no line to fetch. -/
def Pkg.owncLookup (p : Pkg) (hall pg : Nat) : Pkg × Option Nat :=
  match p.chip.potAddr pg with
  | none => (p, some 0)
  | some a =>
    match sget none (owncKey hall (a / 64)) p.chip.ownc with
    | some l => (p, some (Line.slice l (a % 64) 2))
    | none =>
      let r := p.potFetch hall (a / 64)
      if r.2.2 then (r.1, none)
      else (r.1.onChip (fun c => c.owncFill hall (a / 64) r.2.1), some (Line.slice r.2.1 (a % 64) 2))

/-- The world check of a request at its home (R280, R283, R284): the CHECK code, 0 when admitted, and the entry. Before
COMMITTED a hart's, Uzomuris's or the hall's own request is not checked, and every other is refused as R26 describes. -/
def Pkg.worldCheck (p : Pkg) (rid world line : Nat) : Pkg × Nat × Nat :=
  if !p.chip.wldCommitted then
    (p, if ridType rid = 2 ∨ (ridType rid = 3 ∧ ridIndex rid ≠ p.chip.fld .WLD_CTL F.WLD_CTL_SCRUB_INST) ∨ ridType rid = 6
      then 15 else 0, 0)
  else
    let r := p.owncLookup (p.chip.homeHall line) (line / 64)
    (r.1, potCheck r.2 world, r.2.getD 0)

/-- A refusal of R26 (an address refusal) is reported under source 12. -/
def Chip.addrRefusal (c : Chip) (rid world acc addr : Nat) : Chip :=
  let u := if ridType rid = 0 then unitDie (hartDie rid) else if ridType rid = 2 then unitStation (ridIndex rid / 256)
    else if ridType rid = 3 then unitCluster (instCluster (ridIndex rid)) else unitUz
  c.report u 12 rid (reqWorld rid world) acc 0 addr

/-- A refusal of R283 is reported under the refusing hall's world-check source, unless a prefetch met it. -/
def Chip.checkRefusal (c : Chip) (rid world acc addr : Nat) : Chip :=
  if acc = 8 then c
  else
    let n := c.homeHall (addr / 64)
    c.report (unitHall n) (208 + 12 * n) rid (reqWorld rid world) acc 0 addr

/-- The owner world of a page in a report of R322: OWNER for an owned or shared page, W1 otherwise and before
COMMITTED. The hall looks the entry up in its ownership cache. -/
def Pkg.poisonOwner (p : Pkg) (line : Nat) : Pkg × Nat :=
  if !p.chip.wldCommitted then (p, 1)
  else
    let r := p.owncLookup (p.chip.homeHall line) (line / 64)
    (r.1, match r.2 with
      | some e => if (potState e = 1 ∨ potState e = 2) ∧ potOwner e ≠ 2 then potOwner e else 1
      | none => 1)

/-- HALL_CLASS_BYTES of a hall counts 64 bytes of a class served (R268). -/
def Chip.countBytes (c : Chip) (n cls : Nat) : Chip :=
  c.setFld (.HALL_CLASS_BYTES n cls) F.HALL_CLASS_BYTES_BYTES
    ((c.fld (.HALL_CLASS_BYTES n cls) F.HALL_CLASS_BYTES_BYTES + 64) % 2 ^ 48)

-- whole transactions of I/O agents

/-- The outcome of a whole access to main memory: the CHECK code that refused it (0 none; 15 a refusal of R26), the line
and its poison. -/
structure IoAnswer where
  check : Nat
  data : Line
  poison : Bool
  deriving DecidableEq, Repr

/-- A line is admitted for an I/O agent: an address that is main memory (R26), a home whose port takes requests (R216, R220, answered
UNAVAIL), and the world check (R283), each refusal reported. -/
def Pkg.allow (p : Pkg) (rid world acc line : Nat) : Pkg × Nat :=
  if !(p.chip.region (line * 64)).homed then
    (p.onChip (fun c => c.addrRefusal rid world acc (line * 64)), 15)
  else if p.chip.homeShut line then (p.onChip (fun c => c.agentUnavail rid world acc line), 15)
  else
    let r := p.worldCheck rid world line
    if r.2.1 = 0 then (r.1, 0)
    else if r.2.1 = 15 then (r.1.onChip (fun c => c.addrRefusal rid world acc (line * 64)), 15)
    else (r.1.onChip (fun c => c.checkRefusal rid world acc (line * 64)), r.2.1)

/-- An I/O agent's request waits for its tokens: its port is active for the class (R264, R266). -/
def Chip.noteShort (c : Chip) (rid label : Nat) : Chip :=
  match injPort { kind := .RD_ONCE, rid := rid } with
  | some port => if c.mayGo port (c.classOf rid label) then c else c.markActive port (c.classOf rid label)
  | none => c

/-- The tokens of a line that a whole transaction reads or writes are taken at its injection port (R264). -/
def Chip.chargeIo (c : Chip) (rid label : Nat) : Chip :=
  match injPort { kind := .RD_ONCE, rid := rid } with
  | some port => if c.classOf rid label = 15 then c else c.charge port (c.classOf rid label)
  | none => c

/-- The injection port of an I/O agent lets a request of its label go now (R264). -/
def Chip.ioMayGo (c : Chip) (rid label : Nat) : Bool :=
  match injPort { kind := .RD_ONCE, rid := rid } with
  | some port => c.mayGo port (c.classOf rid label)
  | none => true

/-- RD_ONCE as a whole transaction (R184), with an access type: no copy is kept. A lost owner's line is purged first (R195 step 5). -/
def Pkg.ioReadAs (p : Pkg) (acc rid world label line : Nat) : Pkg × IoAnswer :=
  let a := (p.onChip (fun c => c.chargeIo rid label)).allow rid world acc line
  if a.2 ≠ 0 then (a.1, { check := a.2, data := 0, poison := false })
  else
    let cls := a.1.chip.classOf rid label
    let b := a.1.purgeLine line
    let own := b.chip.ownerCopy line
    let v := (if own.isNone && b.chip.serves line then b.onChip (fun c => c.countBytes (c.homeHall line) cls) else b).fetchOr own line cls
      { kind := .RD_ONCE, line := line, rid := rid, world := world, label := label, acc := acc }
    (v.1, { check := 0, data := v.2.1, poison := v.2.2 })

/-- A read by an I/O agent. -/
def Pkg.ioRead (p : Pkg) (rid world label line : Nat) : Pkg × IoAnswer := p.ioReadAs 0 rid world label line

/-- Hold and forward: the target's own writes to a target region are refused but for pair stations and Uzomuris (R400). -/
def Chip.targetRefuses (c : Chip) (rid line : Nat) : Bool :=
  c.targetLine line && ridType rid != 6 && ridType rid != 5

/-- WR_FULL or WR_PART as a whole transaction (R184, R317): a lost owner's line is purged first (R195 step 5), every copy leaves, dirty data is merged, a write of all 64
bytes clears poison and a shorter one keeps it. -/
def Pkg.ioWrite (p : Pkg) (rid world label line : Nat) (v : Line) (mask : Word) (poison : Bool) : Pkg × Nat :=
  let a := (p.onChip (fun c => c.chargeIo rid label)).allow rid world 1 line
  if a.2 ≠ 0 then a
  else if a.1.chip.targetRefuses rid line then
    (a.1.onChip (fun c => c.addrRefusal rid world 1 (line * 64)), 15)
  else
    let cls := a.1.chip.classOf rid label
    let b := a.1.purgeLine line
    let full := mask == BitVec.allOnes 64
    let old := if full then (b, 0, false) else b.coherentFetch line cls { kind := .WR_PART, line := line, rid := rid, world := world, label := label, acc := 1 }
    let q := old.1.onChip (fun c => (c.purgeLine line).countBytes (c.homeHall line) cls)
    (q.homeWrite line (if full then v else Line.merge old.2.1 v mask) (poison || old.2.2) cls, 0)

/-- n bytes of memory from address a, read line by line: the bytes and whether every line was admitted and none was
poisoned. -/
def Pkg.readBytes (p : Pkg) (rid world label a n : Nat) : Pkg × List Byte × Nat × Bool :=
  if n = 0 then (p, [], 0, false)
  else
    let r := (linesOf a n).foldl (fun (acc : Pkg × List Byte × Nat × Bool) line =>
      let x := acc.1.ioRead rid world label line
      let lo := if line = a / 64 then a % 64 else 0
      let hi := min 64 (a + n - line * 64)
      (x.1, acc.2.1 ++ (List.range (hi - lo)).map (fun i => Line.byte x.2.data (lo + i)),
        if acc.2.2.1 ≠ 0 then acc.2.2.1 else x.2.check, acc.2.2.2 || x.2.poison)) (p, [], 0, false)
    r

/-- The bytes of a list that fall into a line, with their mask, for a write from address a. -/
def lineSpan (a : Nat) (l : List Byte) (line : Nat) : Line × Word :=
  forUpTo 64 (fun k acc =>
    match (if line * 64 + k < a then none else l[line * 64 + k - a]?) with
    | some b => (Line.setByte acc.1 k b, acc.2 ||| (1#64 <<< k))
    | none => acc) (0, 0)

/-- Write a list of bytes to memory from address a, line by line in ascending order: the first CHECK code met, 0 for
none; a line that is refused is not written. -/
def Pkg.writeBytes (p : Pkg) (rid world label a : Nat) (l : List Byte) (poison : Bool) : Pkg × Nat :=
  if l.isEmpty then (p, 0)
  else
    (linesOf a l.length).foldl (fun (acc : Pkg × Nat) line =>
      let s := lineSpan a l line
      let x := acc.1.ioWrite rid world label line s.1 s.2 poison
      (x.1, if acc.2 ≠ 0 then acc.2 else x.2)) (p, 0)

/-- An I/O agent's access to a line may take its turn now (R187, R215): the POT entry of its page can be looked up, too (R282). -/
def Chip.ioIdle (c : Chip) (line : Nat) : Bool := c.lineIdle line && c.homeTakes line && !c.potWaits line

/-- Every line of a range is idle for an I/O agent (R187, R215). -/
def Chip.rangeIdle (c : Chip) (a n : Nat) : Bool := n == 0 || (linesOf a n).all c.ioIdle

end Sys2Proof.Machine
end

