-- ==== Sys2Proof/Machine/Home.lean ====
section
/-! DEFINITION. The home hall: the directory (R177 to R180), the transactions on a line and their order (R184, R187,
R465), stale write-backs (R191), world checks (R148, R283), and the purge of a lost or quiesced die (R195, R196). One
meaning for each message a hall receives. -/

namespace Sys2Proof.Machine

-- directory entries

/-- Add a sharer: a fourth makes the sharer set unknown (R179). -/
def DirEntry.add (e : DirEntry) (d : Nat) : DirEntry :=
  if e.bcast || e.ptrs.contains d then e
  else if e.ptrs.length < 3 then { e with ptrs := e.ptrs ++ [d] }
  else { e with bcast := true, ptrs := [] }

/-- OWNED by a die. -/
def DirEntry.owned (d : Nat) : DirEntry := { state := 2, bcast := false, owner := d, ptrs := [] }

/-- The entry of its sharers alone, as a SHARED entry, or free when none remain. -/
def DirEntry.sharersOnly (e : DirEntry) : DirEntry :=
  if e.state = 3 ∧ (e.bcast ∨ e.ptrs ≠ []) then { e with state := 1, owner := 0 } else DirEntry.none

/-- The entry without a die as a sharer; what a transaction remembers of a line keeps its state. -/
def DirEntry.without (e : DirEntry) (d : Nat) : DirEntry := { e with ptrs := e.ptrs.filter (· != d) }

/-- EVICT_CLEAN from a die (R184): a pointer goes, or an OWNED entry of that die is freed; of an OWNED_SHARED entry the
owner's leaving leaves the sharers (R465). -/
def DirEntry.evict (e : DirEntry) (d : Nat) : DirEntry :=
  match e.state with
  | 1 => e.drop d
  | 2 => if e.owner = d then DirEntry.none else e
  | 3 => if e.owner = d then e.sharersOnly else e.drop d
  | _ => e

/-- The snoops a request needs (R184, R465), by die and kind. -/
def Chip.snoops (c : Chip) (m : Msg) (e : DirEntry) : List (Nat × MsgKind) :=
  let inv := fun (ex : List Nat) => (c.sharersOf e ex).map (fun d => (d, MsgKind.SNP_INV))
  match m.kind, e.state with
  | .RD_SHARED, 2 | .RD_SHARED, 3 => [(e.owner, .SNP_SHARED)]
  | .RD_OWN, 1 | .UPGRADE, 1 | .RD_OWN_ZERO, 1 => inv [m.die]
  | .RD_OWN, 2 => [(e.owner, .SNP_OWN)]
  | .RD_OWN, 3 => (e.owner, .SNP_OWN) :: inv [m.die, e.owner]
  | .UPGRADE, 2 => if e.owner = m.die then [] else [(e.owner, .SNP_OWN)]
  | .UPGRADE, 3 => (if e.owner = m.die then [] else [(e.owner, .SNP_OWN)]) ++ inv [m.die, e.owner]
  | .RD_OWN_ZERO, 2 => [(e.owner, .SNP_INV)]
  | .RD_OWN_ZERO, 3 => (e.owner, .SNP_INV) :: inv [m.die, e.owner]
  | .CMO_CLEAN, 2 | .CMO_CLEAN, 3 => [(e.owner, .SNP_CLEAN)]
  | .CMO_FLUSH, 1 | .CMO_INVAL, 1 | .WR_FULL, 1 | .WR_PART, 1 | .IO_ATOMIC, 1 | .BACK_INV, 1 => inv []
  | .CMO_FLUSH, 2 | .CMO_INVAL, 2 | .WR_FULL, 2 | .WR_PART, 2 | .IO_ATOMIC, 2 | .BACK_INV, 2 => [(e.owner, .SNP_INV)]
  | .CMO_FLUSH, 3 | .CMO_INVAL, 3 | .WR_FULL, 3 | .WR_PART, 3 | .IO_ATOMIC, 3 | .BACK_INV, 3 =>
    (e.owner, .SNP_INV) :: inv [e.owner]
  | .RD_ONCE, 2 | .RD_ONCE, 3 => [(e.owner, .SNP_ONCE)]
  | _, _ => []

/-- Send a coherence message to a die, unless the home knows that the die is lost (R195 step 2). -/
def Chip.sendDie (c : Chip) (m : Msg) : Chip := if m.die < 12 && c.lostAt m.die m.line then c else c.send m

-- the transactions of a home

/-- The transaction on a line. -/
def Chip.txnOf (c : Chip) (line : Nat) : Option Txn := c.txn.find? (fun t => t.req.line == line)

/-- Store a transaction in the place of the one on its line. -/
def Chip.setTxn (c : Chip) (t : Txn) : Chip :=
  { c with txn := c.txn.filter (fun x => x.req.line != t.req.line) ++ [t] }

/-- The transaction on a line ends. -/
def Chip.endTxn (c : Chip) (line : Nat) : Chip := { c with txn := c.txn.filter (fun x => x.req.line != line) }

/-- A read that its home has answered keeps no copy, and its transaction ends (R187). -/
def Chip.answered (c : Chip) (m : Msg) : Chip := if m.kind = .RD_ONCE then c.endTxn m.line else c

-- home data

/-- DATA for a request, which the hall does not serve itself: a die's copy, or poison in the place of a channel that is out. -/
def Chip.passData (c : Chip) (m : Msg) (v : Line) (poison : Bool) : Chip :=
  c.sendDie { m.reply .DATA with data := v, poison := poison }

/-- DATA that the hall serves from its cache, its channel or a CXL forward, counted for the request's class (R268; log entry 89). -/
def Chip.sendData (c : Chip) (m : Msg) (v : Line) (poison : Bool) : Chip :=
  (c.countBytes (c.homeHall m.line) (c.msgClass m)).passData m v poison

/-- A read goes to the channel: forwarded to the station for a CXL line (R28), answered poisoned while the channel is out
of service (R323), and otherwise waiting for a tread (R251). -/
def Pkg.readChannel (p : Pkg) (m : Msg) (alloc : Bool) : Pkg :=
  if p.chip.isCxl m.line then p.onChip (fun c => c.send { m with kind := .HALL_RD })
  else if !p.chip.inService (p.chip.homeHall m.line) then p.onChip (fun c => (c.passData m 0 true).answered m)
  else p.onChip (fun c => c.waitTread { cls := c.msgClass m, line := m.line, write := false, alloc := alloc
                                        req := m })

/-- Home data for a request (R154): served from the hall cache at once, which ends the transaction of a read that keeps no copy (R187), or
read from the channel and allocated by policy. -/
def Pkg.homeData (p : Pkg) (m : Msg) : Pkg :=
  let pol := p.chip.policy m.line
  if p.chip.hcMode (p.chip.homeHall m.line) ≠ 0 then p.readChannel m false
  else
    match p.chip.hcAt m.line with
    | some x =>
      if pol = 3 then (p.hcEvict m.line (p.chip.msgClass m)).readChannel m false
      else p.onChip (fun c => ((c.useHc m.line x.way).sendData m x.data x.poison).answered m)
    | none => p.readChannel m (pol ≤ 1)

-- transactions

/-- WB_DATA (R184, R191): accepted from the die the entry names as owner, else discarded as stale and counted. One that SNP_CLEAN has
superseded (R192) still comes from the owner the entry names, and is accepted (log entry 127, DEDUCED). -/
def Pkg.writeBack (p : Pkg) (m : Msg) : Pkg :=
  let e := p.chip.dirAt m.line
  if 2 ≤ e.state ∧ e.owner = m.die then
    let e1 := if e.state = 2 then DirEntry.none else e.sharersOnly
    let e2 := if m.keep then { e1.add m.die with state := 1 } else e1
    let cls := p.chip.msgClass m
    ((p.homeWrite m.line m.data m.poison cls).onChip (fun c => c.setDir m.line e2)).onChip (fun c =>
      (c.countBytes (c.homeHall m.line) cls).sendDie { m.reply .WB_ACK with data := m.data, poison := m.poison })
  else
    p.onChip (fun c => (c.bump (.HALL_DIR_COUNT (c.homeHall m.line)) F.HALL_DIR_COUNT_STALE_WB).sendDie
      (m.reply .WB_ACK_STALE))

/-- A write-back of a lost die that was received whole before the loss, and whose turn on its line has come, is accepted as any other (R195
step 2). -/
def Pkg.wbFirst (p : Pkg) (line : Nat) : Pkg :=
  match p.chip.homeQ.find? (fun m => m.line == line) with
  | some m =>
    if m.kind = .WB_DATA && m.die < 12 && p.chip.lostAt m.die line then
      (p.onChip (fun c => { c with homeQ := dropFirst m c.homeQ })).writeBack m
    else p
  | none => p

/-- A line whose transaction has ended is purged for every die that its home knows to be lost (R195 steps 2 to 5). -/
def Pkg.purgeAfter (p : Pkg) (line : Nat) : Pkg := (p.wbFirst line).purgeLine line

/-- The transaction on a line ends without COMP_ACK where its requester is lost (R195 step 3). -/
def Pkg.endLost (p : Pkg) (m : Msg) : Pkg :=
  if m.die < 12 && p.chip.lostAt m.die m.line then (p.onChip (fun c => c.endTxn m.line)).purgeAfter m.line else p

/-- A grant: the entry takes its state, COMP goes to the requester, home data follows where COMP names it, and the line
stays occupied until COMP_ACK (R183, R184). A requester that is lost receives nothing (R195 step 3). -/
def Pkg.grant (p : Pkg) (t : Txn) (e : DirEntry) (state src : Nat) : Pkg :=
  let m := t.req
  let q := p.onChip (fun c =>
    ((c.setDir m.line e).setTxn { t with granted := true }).sendDie
      { m.reply .COMP with grant := state, src := src, poison := t.lost })
  if m.die < 12 && q.chip.lostAt m.die m.line then q.endLost m
  else if src = 1 then q.homeData m
  else q

/-- A completion is given now, or, in a synchronous region whose line the request caused to be written, once the target
has acknowledged the line or its page has been copied (R401, R402). -/
def Pkg.complete (p : Pkg) (m : Msg) (wrote : Bool) : Pkg :=
  match p.chip.mirrorRegion (m.line / 64) with
  | some n =>
    if wrote && F.PAIR_REGION_BASE_MODE.get (sget 0 n p.chip.pair.base) == 1 && p.chip.isSource && !p.chip.pair.yielded
        && (p.chip.pairState == 2 || p.chip.pairState == 5) && p.chip.pair.partnerReady then
      let seq := if p.pageDirty n (m.line / 64) then 0 else sget 0 n p.chip.pair.seq
      p.onChip (fun c => { c with pair := { c.pair with held := c.pair.held ++ [(m, n, seq)] } })
    else (p.onChip (fun c => if m.die < 12 then c.sendDie m else (c.send m).endTxn m.line)).endLost m
  | none => (p.onChip (fun c => if m.die < 12 then c.sendDie m else (c.send m).endTxn m.line)).endLost m

/-- A CMO is done: the entry takes its state and COMP goes to the requester (R184). -/
def Pkg.finishCmo (p : Pkg) (t : Txn) (e : DirEntry) (wrote : Bool) : Pkg :=
  (p.onChip (fun c => (c.setDir t.req.line e).setTxn { t with granted := true })).complete
    { t.req.reply .COMP with poison := t.lost } wrote

/-- The operation of IO_ATOMIC (R383): the code, the old bytes and the operand words; none for a code it does not name. -/
def atomicOp (code old a b : Nat) : Option Nat :=
  match code with
  | 1 => some ((old + a) % 2 ^ 32)
  | 2 => some ((old + a) % 2 ^ 64)
  | 3 => some (a % 2 ^ 32)
  | 4 => some (a % 2 ^ 64)
  | 5 => some (if old = a % 2 ^ 32 then b % 2 ^ 32 else old)
  | 6 => some (if old = a % 2 ^ 64 then b % 2 ^ 64 else old)
  | 7 => some (if old = a % 2 ^ 128 then b % 2 ^ 128 else old)
  | _ => none

/-- The width in bytes of an operation of R383. -/
def atomicSize (code : Nat) : Nat :=
  match code with
  | 1 | 3 | 5 => 4
  | 7 => 16
  | _ => 8

/-- The operands of an IO_ATOMIC data unit: the first value from byte 0, a CAS's second from byte 8, or 16 for the
128-bit one (R383). -/
def atomicArgs (code : Nat) (l : Line) : Nat × Nat :=
  if code = 7 then (Line.slice l 0 16, Line.slice l 16 16) else (Line.slice l 0 8, Line.slice l 8 8)

/-- IO_ATOMIC as a whole transaction (R184, R383): every copy leaves, the operation is performed on the bytes at an offset of the line,
and the answer is the line as it was. -/
def Pkg.ioAtomic (p : Pkg) (rid world label line off code : Nat) (args : Nat × Nat) : Pkg × IoAnswer :=
  let a := (p.onChip (fun c => c.chargeIo rid label)).allow rid world 6 line
  if a.2 ≠ 0 then (a.1, { check := a.2, data := 0, poison := false })
  else if a.1.chip.targetRefuses rid line then
    (a.1.onChip (fun c => c.addrRefusal rid world 6 (line * 64)), { check := 15, data := 0, poison := false })
  else
    let cls := a.1.chip.classOf rid label
    let old := (a.1.purgeLine line).coherentFetch line cls { kind := .IO_ATOMIC, line := line, rid := rid, world := world, label := label, acc := 6 }
    let n := atomicSize code
    let v := Line.slice old.2.1 off n
    let q := old.1.onChip (fun c => (c.purgeLine line).countBytes (c.homeHall line) cls)
    (q.homeWrite line (Line.patch old.2.1 off n ((atomicOp code v args.1 args.2).getD v)) old.2.2 cls,
      { check := 0, data := old.2.1, poison := old.2.2 })

/-- The line an I/O write leaves (R184, R317): the message's bytes over dirty data or memory; a write of all 64 bytes
clears poison. -/
def ioWriteLine (m : Msg) (old : Line × Bool) : Line × Bool :=
  match m.kind with
  | .WR_FULL => (m.data, m.poison)
  | .WR_PART => (Line.merge old.1 m.data m.mask, m.poison || (old.2 && m.mask != BitVec.allOnes 64))
  | _ =>
    let n := atomicSize m.code
    let args := atomicArgs m.code m.data
    (Line.patch old.1 m.sub n ((atomicOp m.code (Line.slice old.1 m.sub n) args.1 args.2).getD
      (Line.slice old.1 m.sub n)), old.2)

/-- Every answer has arrived: the hall applies the row of R184 (and R465) to the request. UPGRADE from the owner of a broadcast OWNED_SHARED
entry takes the table's cell, COMP M with SRC 0 (log entry 94, DESIGN CHOICE: the last sentence of R184 has broadcast UPGRADEs served with
data, and home data would be older than the owner's copy). A landing copy of a cleaned line takes the data once the home has written it, and
is then unshadowed where no L2 owns the line (R150). A write of part of a line, or an atomic, that no die's dirty data meets reads memory, in a
tread (R251). -/
def Pkg.finish (p0 : Pkg) (t : Txn) : Pkg :=
  let m := t.req
  let e := t.before
  let r := m.die
  let reads : Bool := t.got.isNone && ((m.kind == .WR_PART && m.mask != BitVec.allOnes 64) || m.kind == .IO_ATOMIC)
  let mem := if reads then p0.memFetch m.line (p0.chip.msgClass m) false m else (p0, p0.memRead m.line)
  let p := mem.1
  let old := t.got.getD mem.2
  let old := if t.lost then (old.1, true) else old
  match m.kind with
  | .RD_SHARED =>
    let shared : DirEntry := if p.chip.targetLine m.line then { state := 1, bcast := false, owner := 0, ptrs := [r] }
      else DirEntry.owned r
    let st := if p.chip.targetLine m.line then 0 else 1
    match e.state with
    | 1 => p.grant t (e.add r) 0 1
    | 2 =>
      if t.fwd then
        if t.ownerHeld = 2 then p.grant t { state := 3, bcast := false, owner := e.owner, ptrs := [r] } 0 2
        else if t.ownerHeld ≠ 0 then p.grant t { state := 1, bcast := false, owner := 0, ptrs := [e.owner, r] } 0 2
        else if t.fwdDirty then p.grant t (DirEntry.owned r) 3 2
        else p.grant t (DirEntry.owned r) 1 2
      else p.grant t shared st 1
    | 3 =>
      if t.fwd then
        if t.ownerHeld = 2 then p.grant t (e.add r) 0 2
        else if t.ownerHeld ≠ 0 then
          p.grant t (((({ e with state := 1, owner := 0 } : DirEntry).add e.owner).add r)) 0 2
        else p.grant t { e with owner := r, ptrs := e.ptrs.filter (· != r) } 2 2
      else p.grant t (({ e with state := 1, owner := 0 } : DirEntry).add r) 0 1
    | _ => p.grant t shared st 1
  | .RD_OWN | .UPGRADE =>
    let src :=
      if t.lost then 1
      else match e.state with
        | 1 => if m.kind = .UPGRADE ∧ !e.bcast ∧ e.ptrs.contains r then 0 else 1
        | 2 | 3 => if m.kind = .UPGRADE ∧ e.owner = r then 0 else if t.fwd then 2 else 1
        | _ => 1
    p.grant t (DirEntry.owned r) 3 src
  | .RD_OWN_ZERO => p.grant t (DirEntry.owned r) 3 0
  | .CMO_CLEAN =>
    let q := match t.got with
      | some x => p.homeWrite m.line x.1 x.2 (p.chip.msgClass m)
      | none => p
    let e' := match e.state with
      | 2 => if t.ownerHeld = 0 then DirEntry.none else e
      | 3 =>
        if t.ownerHeld = 0 then e.sharersOnly
        else if t.got.isSome || t.ownerHeld ≠ 3 then ({ e with state := 1, owner := 0 } : DirEntry).add e.owner
        else e
      | _ => e
    (q.finishCmo t e' t.got.isSome).onChip (fun c => match t.got with
      | some x => (c.lndUpdate e.owner m.line x.1 x.2 true).lndUnshadow e.owner m.line
      | none => c)
  | .CMO_FLUSH =>
    let q := match t.got with
      | some x => p.homeWrite m.line x.1 x.2 (p.chip.msgClass m)
      | none => p
    q.finishCmo t DirEntry.none t.got.isSome
  | .CMO_INVAL => p.finishCmo t DirEntry.none false
  | .BACK_INV =>
    let q := match t.got with
      | some x => p.homeWrite m.line x.1 x.2 15
      | none => p
    q.onChip (fun c => (c.setDir m.line DirEntry.none).endTxn m.line)
  | .RD_ONCE =>
    match t.got with
    | some x => p.onChip (fun c => (c.passData m x.1 (x.2 || t.lost)).endTxn m.line)
    | none =>
      if t.lost then p.onChip (fun c => (c.passData m 0 true).endTxn m.line)
      else p.homeData m
  | .WR_FULL | .WR_PART =>
    let w := ioWriteLine m old
    let cls := p.chip.msgClass m
    ((p.onChip (fun c => ((c.setDir m.line DirEntry.none).setTxn { t with granted := true }).countBytes
      (c.homeHall m.line) cls)).homeWrite m.line w.1 w.2 cls).complete (m.reply .COMP) true
  | .IO_ATOMIC =>
    let w := ioWriteLine m old
    let cls := p.chip.msgClass m
    ((p.onChip (fun c => ((c.setDir m.line DirEntry.none).setTxn { t with granted := true }).countBytes
      (c.homeHall m.line) cls)).homeWrite m.line w.1 w.2 cls).complete
        { m.reply .DATA with data := BitVec.ofNat 512 (Line.slice old.1 m.sub (atomicSize m.code)), poison := old.2 } true
  | _ => p.onChip (fun c => c.endTxn m.line)

/-- The lines that occupy a way of the directory set of a line: those with an entry, and those whose transaction keeps room for one. -/
def Chip.dirSetLines (c : Chip) (line : Nat) : List Nat :=
  (c.dirWay.filter (fun e => c.dirSetOf e.1 == c.dirSetOf line && e.2.isSome
    && ((c.dirAt e.1).state != 0 || (c.txnOf e.1).isSome))).map (fun e => e.1)

/-- The line that occupies a way of the directory set of a line. -/
def Chip.dirInWay (c : Chip) (line way : Nat) : Option Nat := (c.dirSetLines line).find? (fun x => sget none x c.dirWay == some way)

/-- The ways of the directory set of a line that are not disabled (R311), of 16. -/
def Chip.dirWays (c : Chip) (line : Nat) : List Nat :=
  let off := (sget Bank.reset (bankKey 0x0B (c.homeHall line) (c.homeLocal line / 64 % 16)) c.banks).waysOff
  (List.range 16).filter (fun w => !off.contains w)

/-- A free way of the directory set of a line (R180): the lowest. -/
def Chip.dirFreeWay (c : Chip) (line : Nat) : Option Nat := (c.dirWays line).find? (fun w => (c.dirInWay line w).isNone)

/-- An entry of the directory is used: its way becomes the most recently used one of its set (R180). -/
def Chip.useDir (c : Chip) (line : Nat) : Chip :=
  match sget none line c.dirWay with
  | some w => c.useWay (.dir (c.homeHall line)) (c.dirSetOf line).2 w
  | none => c

/-- A line takes a way of its directory set; the ways that freed entries of the set left are forgotten. -/
def Chip.takeDirWay (c : Chip) (line way : Nat) : Chip :=
  let kept := c.dirSetLines line
  ({ c with dirWay := sset none line (some way) (c.dirWay.filter (fun e => c.dirSetOf e.1 != c.dirSetOf line || kept.contains e.1)) } :
    Chip).useDir line

/-- Start a back-invalidation of an entry (R180, R313), for a request that waits for its way or for none. -/
def Pkg.backInv (p : Pkg) (v : Nat) (for_ : Option Nat) : Pkg :=
  let e := p.chip.dirAt v
  let m : Msg := { kind := .BACK_INV, line := v, rid := 0x4000 + p.chip.homeHall v, world := 2, acc := 7 }
  let dies := (p.chip.snoops m e).map (fun x => x.1)
  let t : Txn := { req := m, before := e, await := dies, got := none, ownerHeld := 0, fwd := false, fwdDirty := false
                   lost := false, granted := false, since := p.chip.now, forLine := for_ }
  let n := p.chip.homeHall v
  let q := p.onChip (fun c => dies.foldl (fun x d => x.sendDie { m with die := d }) ((c.setTxn t).setFld
    (.HALL_DIR_COUNT n) F.HALL_DIR_COUNT_BACK_INV ((c.fld (.HALL_DIR_COUNT n) F.HALL_DIR_COUNT_BACK_INV + 1) % 2 ^ 32)))
  if dies = [] then q.finish t else q

/-- An entry whose line may be busy is back-invalidated when its turn on the line comes (R180, R187). -/
def Pkg.backInvTurn (p : Pkg) (line : Nat) : Pkg :=
  if (p.chip.txnOf line).isNone && !p.chip.homeQ.any (fun m => m.line == line) then p.backInv line none
  else p.onChip (fun c => { c with homeQ := c.homeQ ++ [{ kind := .BACK_INV, line := line, rid := 0x4000 + c.homeHall line, world := 2, acc := 7 }] })

/-- The body of an entry is lost (R313): it names every compute die from now on, and they are back-invalidated. -/
def Pkg.bodyLost (p : Pkg) (line : Nat) : Pkg :=
  (p.onChip (fun c => c.setDir line { state := 1, bcast := true, owner := 0, ptrs := [] })).backInvTurn line

/-- Room for a new entry in the directory set of a line (R180): yes; or no, and the victim that tree pseudo-LRU selects among the ways
whose line is not busy is being back-invalidated for the request, or every way is busy. A victim that names no die is freed at once. -/
def Pkg.dirRoom (p : Pkg) (line : Nat) : Pkg × Bool :=
  let c := p.chip
  if (c.dirAt line).state ≠ 0 then (p.onChip (fun c => c.useDir line), true)
  else
    match c.dirFreeWay line with
    | some w => (p.onChip (fun c => c.takeDirWay line w), true)
    | none =>
      if c.txn.any (fun t => t.forLine == some line) then (p, false)
      else
        let idle := fun (w : Nat) => (c.dirWays line).contains w
          && (match c.dirInWay line w with | some v => (c.txnOf v).isNone | none => false)
        match c.lruWay (.dir (c.homeHall line)) (c.dirSetOf line).2 idle with
        | none => (p, false)
        | some w =>
          match c.dirInWay line w with
          | none => (p, false)
          | some v =>
            let q := p.backInv v (some line)
            if (q.chip.txnOf v).isNone then (q.onChip (fun c => c.takeDirWay line w), true) else (q, false)

/-- A refused request is answered: a die with the CHECK code and the entry, an I/O agent with Unsupported Request
(R283). -/
def Chip.sendRefusal (c : Chip) (m : Msg) (check entry : Nat) : Chip :=
  if m.die < 12 then
    c.sendDie { m.reply .WCHK_RSP with pass := false, code := check, mask := BitVec.ofNat 64 entry }
  else c.send { m.reply .IO_RSP with code := 1 }

/-- A request whose line no transaction occupies is started (R251, R184): the ownership check, then the directory. -/
def Pkg.startReq (p : Pkg) (m : Msg) : Pkg :=
  match m.kind with
  | .WB_DATA => p.writeBack m
  | .EVICT_CLEAN => p.onChip (fun c => c.setDir m.line ((c.dirAt m.line).evict m.die))
  | .BACK_INV => p.backInv m.line none
  | _ =>
    let w := p.worldCheck m.rid m.world m.line
    if w.2.1 = 15 then w.1.onChip (fun c => (c.addrRefusal m.rid m.world m.acc (m.line * 64 + m.sub)).sendRefusal m 0 0)
    else if w.2.1 ≠ 0 then
      w.1.onChip (fun c => (c.checkRefusal m.rid m.world m.acc (m.line * 64 + m.sub)).sendRefusal m w.2.1 w.2.2)
    else if w.1.chip.targetLine m.line && m.kind.safeHeld && ridType m.rid != 6 && ridType m.rid != 5 then
      w.1.onChip (fun c => (c.addrRefusal m.rid m.world m.acc (m.line * 64 + m.sub)).sendRefusal m 0 0)
    else
      let p1 := w.1.purgeLine m.line
      let e1 := p1.chip.dirAt m.line
      let e := if (m.kind = .RD_SHARED ∨ m.kind = .RD_OWN) ∧ 2 ≤ e1.state ∧ e1.owner = m.die then e1.evict m.die else e1
      let p2 := p1.onChip (fun c => c.setDir m.line e)
      let room := if m.kind.needsEntry then p2.dirRoom m.line else (p2, true)
      if room.2 then
        let sn := room.1.chip.snoops m e
        let t : Txn := { req := m, before := e, await := sn.map (fun x => x.1), got := none, ownerHeld := 0, fwd := false
                         fwdDirty := false, lost := false, granted := false, since := p.chip.now }
        let q := room.1.onChip (fun c => sn.foldl (fun x s =>
          x.sendDie { m.reply s.2 with die := s.1, fwd := m.die, rkind := m.rkind }) (c.setTxn t))
        if sn = [] then q.finish t else q
      else room.1.onChip (fun c => { c with homeQ := m :: c.homeQ })

/-- A request that waits at its home may start: its line is not occupied (R187), and its page's entry can be looked up (R282). -/
def Chip.mayStart (c : Chip) (m : Msg) : Bool :=
  (c.txnOf m.line).isNone && (m.kind == .WB_DATA || m.kind == .EVICT_CLEAN || m.kind == .BACK_INV || !c.potWaits m.line)

/-- Serve a request that waits at its home if its turn has come: it is the first of its line, and may start (R187). -/
def Pkg.serve1 (p : Pkg) (m : Msg) : Pkg :=
  if p.chip.mayStart m && p.chip.homeQ.find? (fun x => x.line == m.line) == some m then
    (p.onChip (fun c => { c with homeQ := dropFirst m c.homeQ })).startReq m
  else p

/-- A transaction has ended somewhere: the waiting requests take their turn, in order of arrival on each line (R187). -/
def Pkg.next (p : Pkg) : Pkg := p.chip.homeQ.foldl Pkg.serve1 p

/-- A transaction has all its answers: what its request asks is done, and a request for which a way has been freed takes it before any other
(R180). -/
def Pkg.close (p : Pkg) (t : Txn) : Pkg :=
  let q := p.finish t
  match t.forLine.bind (fun l => q.chip.homeQ.find? (fun m => m.line == l)) with
  | some m => q.serve1 m
  | none => q

/-- A request arrives at its home (R187): one from a die that the home knows to be lost is discarded (R195 step 2); one whose line is
occupied waits; another is started. -/
def Pkg.arrive (p : Pkg) (m : Msg) : Pkg :=
  let p1 := p.onChip (fun c => c.arrive m)
  if m.die < 12 && p1.chip.lostAt m.die m.line then p1
  else if !p1.chip.mayStart m || p1.chip.homeQ.any (fun x => x.line == m.line) then
    p1.onChip (fun c => { c with homeQ := c.homeQ ++ [m] })
  else (p1.startReq m).next

/-- An answer to a snoop arrives (R184): the transaction that awaits the die takes it, and goes on when none is missing. -/
def Pkg.answer (p : Pkg) (m : Msg) : Pkg :=
  let p1 := p.onChip (fun c => c.arrive m)
  match p1.chip.txnOf m.line with
  | none => p1
  | some t =>
    if !t.await.contains m.die then p1
    else
      let owner := 2 ≤ t.before.state && t.before.owner == m.die
      let t1 : Txn := { t with
        await := dropFirst m.die t.await
        got := if m.dcode = 1 then some (m.data, m.poison) else t.got
        ownerHeld := if owner then m.held else t.ownerHeld
        fwd := if owner then m.dcode == 2 else t.fwd
        fwdDirty := if owner then m.dirty else t.fwdDirty }
      let p2 := p1.onChip (fun c => c.setTxn t1)
      if t1.await = [] then (p2.close t1).next else p2

/-- COMP_ACK ends the transaction of its sender on the line (R187); an entry that names a lost die is then purged
(R195 step 4). -/
def Pkg.compAck (p : Pkg) (m : Msg) : Pkg :=
  let p1 := p.onChip (fun c => c.arrive m)
  match p1.chip.txnOf m.line with
  | some t =>
    if t.granted && t.req.die == m.die then ((p1.onChip (fun c => c.endTxn m.line)).purgeAfter m.line).next else p1
  | none => p1

/-- WCHK (R148): the hall checks a hit by another world against the page's entry and answers. -/
def Pkg.wchk (p : Pkg) (m : Msg) : Pkg :=
  let w := (p.onChip (fun c => c.arrive m)).worldCheck m.rid m.world m.line
  let q := if w.2.1 = 0 then w.1 else w.1.onChip (fun c => c.checkRefusal m.rid m.world m.acc (m.line * 64 + m.sub))
  q.onChip (fun c => c.sendDie { m.reply .WCHK_RSP with pass := w.2.1 == 0, code := w.2.1
                                                        mask := BitVec.ofNat 64 w.2.2 })

/-- HALL_RD (R282, R28): a POT line is fetched into the ownership cache of the hall that asks; a CXL read is performed by
the station and its data answered to the requester. -/
def Pkg.hallRd (p : Pkg) (m : Msg) : Pkg :=
  let p1 := p.onChip (fun c => c.arrive m)
  if ridType m.rid = 4 then
    let r := p1.potFetch (ridIndex m.rid) m.line
    if r.2.2 then r.1 else r.1.onChip (fun c => c.owncFill (ridIndex m.rid) m.line r.2.1)
  else
    let l := p1.chanRead m.line
    let q := if p1.chip.hcMode (p1.chip.homeHall m.line) = 0 ∧ p1.chip.policy m.line ≤ 1 ∧ (p1.chip.hcAt m.line).isNone
          ∧ !(l.2 && p1.chip.hallAwaited m.line) then
        p1.hcAlloc m.line l.1 l.2 false (p1.chip.msgClass m)
      else p1
    (q.onChip (fun c => ((if c.chanUp m.line then c.sendData m l.1 l.2 else c.passData m l.1 l.2)).answered m)).next

/-- A hall is told of the loss of die d (R195): queued requests of the die are discarded; a transaction that awaits the answer of an owner
goes on from the purged line, as if its dirty data were lost, and the answer of a lost sharer, which held no dirty data, is taken as HELD 0
without data (log entry 93, DESIGN CHOICE: step 3 speaks of every awaited RSP alike); one that it requested completes without it; every entry is
purged, that of a line with a transaction when the transaction ends. -/
def Pkg.hallPurgeRun (p0 : Pkg) (n d : Nat) : Pkg :=
  let p := p0.onChip (fun c => c.onDie d (fun x => { x with told := addOnce n x.told }))
  let mine := fun (c : Chip) (line : Nat) => c.homeHall line == n
  let p1 := p.onChip (fun c =>
    let c1 := ((c.setFld (.HALL_DIR_STATUS n) F.HALL_DIR_STATUS_PURGE_DIE d).setBit (.HALL_DIR_STATUS n)
      F.HALL_DIR_STATUS_PURGE_BUSY true)
    { c1 with homeQ := c1.homeQ.filter (fun m => !(m.die == d && mine c1 m.line && m.kind != .WB_DATA)) })
  let open_ := p1.chip.txn.filter (fun t => mine p1.chip t.req.line && !t.granted)
  let p2 := open_.foldl (fun q t =>
    let gone := t.await.contains d && 2 ≤ t.before.state && t.before.owner == d
    let t1 : Txn := { t with
      await := dropFirst d t.await
      lost := t.lost || gone
      before := if gone then DirEntry.none else t.before.without d }
    let q1 := q.onChip (fun c => c.setTxn t1)
    let q2 := if gone then q1.purgeLost d t.req.line else q1
    if t.await.contains d && t1.await = [] then q2.close t1 else q2) p1
  let ended := p2.chip.txn.filter (fun t => mine p2.chip t.req.line && t.req.die == d && t.granted)
  let p3 := ended.foldl (fun q t => (q.onChip (fun c => c.endTxn t.req.line)).wbFirst t.req.line) p2
  let lines := (p3.chip.dir.filter (fun e => mine p3.chip e.1 && (p3.chip.txnOf e.1).isNone
    && ((2 ≤ e.2.state && e.2.owner == d) || e.2.ptrs.contains d))).map (fun e => e.1)
  (lines.foldl (fun q line => q.purgeLost d line) p3).next

/-- HALL_DIE_PURGE: nothing unless the die has been lost and its purge has not ended (R195 step 1). -/
def Pkg.hallPurge (p : Pkg) (n d : Nat) : Pkg := if (p.chip.die d).purging then p.hallPurgeRun n d else p

/-- The halls purge every entry naming a quiesced die (R196): as a lost die's, with nothing written poisoned. -/
def Chip.quiescePurge (c0 : Chip) (d : Nat) : Chip :=
  let c := forUpTo 16 (fun n x => x.setFld (.HALL_DIR_STATUS n) F.HALL_DIR_STATUS_PURGE_DIE d) c0
  (c.dir.map (fun e => e.1)).foldl (fun x line =>
    let e := x.dirAt line
    if 2 ≤ e.state ∧ e.owner = d then (x.dropSharers e d line).setDir line DirEntry.none
    else x.setDir line (e.drop d)) c

-- the commands

def execRdShared (m : Msg) (s : State) : Result := need (m.fits .RD_SHARED) (s.onPkg (fun p => p.ifArrives m (fun q => q.arrive m)))
def execRdOwn (m : Msg) (s : State) : Result := need (m.fits .RD_OWN) (s.onPkg (fun p => p.ifArrives m (fun q => q.arrive m)))
def execUpgrade (m : Msg) (s : State) : Result := need (m.fits .UPGRADE) (s.onPkg (fun p => p.ifArrives m (fun q => q.arrive m)))
def execRdOwnZero (m : Msg) (s : State) : Result := need (m.fits .RD_OWN_ZERO) (s.onPkg (fun p => p.ifArrives m (fun q => q.arrive m)))
def execCmoClean (m : Msg) (s : State) : Result := need (m.fits .CMO_CLEAN) (s.onPkg (fun p => p.ifArrives m (fun q => q.arrive m)))
def execCmoFlush (m : Msg) (s : State) : Result := need (m.fits .CMO_FLUSH) (s.onPkg (fun p => p.ifArrives m (fun q => q.arrive m)))
def execCmoInval (m : Msg) (s : State) : Result := need (m.fits .CMO_INVAL) (s.onPkg (fun p => p.ifArrives m (fun q => q.arrive m)))
def execRdOnce (m : Msg) (s : State) : Result := need (m.fits .RD_ONCE) (s.onPkg (fun p => p.ifArrives m (fun q => q.arrive m)))
def execWrFull (m : Msg) (s : State) : Result := need (m.fits .WR_FULL) (s.onPkg (fun p => p.ifArrives m (fun q => q.arrive m)))
def execWrPart (m : Msg) (s : State) : Result := need (m.fits .WR_PART) (s.onPkg (fun p => p.ifArrives m (fun q => q.arrive m)))
def execIoAtomic (m : Msg) (s : State) : Result := need (m.fits .IO_ATOMIC) (s.onPkg (fun p => p.ifArrives m (fun q => q.arrive m)))
def execEvictClean (m : Msg) (s : State) : Result := need (m.fits .EVICT_CLEAN) (s.onPkg (fun p => p.ifArrives m (fun q => q.arrive m)))
def execCompAck (m : Msg) (s : State) : Result := need (m.fits .COMP_ACK) (s.onPkg (fun p => p.ifArrives m (fun q => q.compAck m)))
def execRsp (m : Msg) (s : State) : Result := need (m.fits .RSP) (s.onPkg (fun p => p.ifArrives m (fun q => q.answer m)))
/-- WCHK reaches its home (R148); it stays on its way while the entry of its page waits for a fenced port (R282). -/
def execWchk (m : Msg) (s : State) : Result :=
  need (m.fits .WCHK) (s.onPkg (fun p => p.ifArrives m (fun q => if q.chip.potWaits m.line then q else q.wchk m)))

/-- WB_DATA reaches its home (R191): its entry has been passed to the egress, and the write-back takes its turn. -/
def execWbData (m : Msg) (s : State) : Result :=
  need (m.fits .WB_DATA) (s.onPkg (fun p => p.ifArrives m (fun q => (q.onChip (fun c => { c with
    wb := c.wb.map (fun e => if e.h / 24 = m.die ∧ e.line = m.line then { e with sent := true } else e) })).arrive m)))

def execHallRd (m : Msg) (s : State) : Result := need (m.fits .HALL_RD) (s.onPkg (fun p => p.ifArrives m (fun q => q.hallRd m)))

end Sys2Proof.Machine
end

