-- ==== Sys2Proof/Machine/Arrays.lean ====
section
/-! DEFINITION. On-chip arrays under row-column parity: corrections, mends, hard words, spares, disabled ways and
uncorrectable words (R304 to R313), and the array status registers (R324). -/

namespace Sys2Proof.Machine

/-- A bank. -/
def Chip.bank (c : Chip) (k : Nat) : Bank := sget Bank.reset k c.banks

/-- Change a bank. -/
def Chip.onBank (c : Chip) (k : Nat) (f : Bank → Bank) : Chip := { c with banks := sset Bank.reset k (f (c.bank k)) c.banks }

/-- The number of instances and banks of an array (R307): per-core arrays have a hart ID, the others of a die the die;
an L1 array has bank 0 for L1I and bank 1 for L1D. -/
def arrayInsts (a : Nat) : Nat :=
  if a ≤ 5 then 288 else if a ≤ 8 then 12 else if a ≤ 0x0C then 16 else if a = 0x0D then 26 else 13
def arrayBanks (a i : Nat) : Nat :=
  if a ≤ 2 then 2 else if a ≤ 5 then 8 else if a ≤ 0x0B then 16 else if a = 0x0C then 1
  else if a = 0x0D then (if i < 24 then 2 else 1) else if i = 10 ∨ i = 11 then 8 else 4

/-- The ARRAY identifiers of R307. -/
def arrayId (a : Nat) : Bool := a == 1 || a == 2 || (4 ≤ a && a ≤ 0x0E)

/-- An array, instance and bank name a bank the package has. -/
def bankOk (a i b : Nat) : Bool := arrayId a && i < arrayInsts a && b < arrayBanks a i

/-- Ways of the structure an array belongs to, 0 where the last resort is no way disable (R307, R311). -/
def arrayWays (a b : Nat) : Nat :=
  if a ≤ 2 then (if b = 0 then 4 else 8) else if a ≤ 6 then 16 else if a ≤ 8 then 24 else if a ≤ 0x0A then 12
  else if a = 0x0B then 16 else 0

/-- Spares per bank (R307). -/
def arraySpares (a : Nat) : Nat := if a ≤ 2 then 2 else 8

/-- The kinds of array fault (R325, R326). -/
inductive ArrFault where
  | corrected | remap | uncorrectable | poisoned | full | exhausted | tagLoss
  deriving DecidableEq, Repr

/-- The source number of an array fault (R326, R425). -/
def arraySource (a i : Nat) (k : ArrFault) : Nat :=
  if a ≤ 8 then
    let d := if a ≤ 5 then hartDie i else i
    64 + 12 * d + (match k with
      | .corrected => 4 | .remap => 5 | .uncorrectable => 6 | .poisoned => 7 | .full => 8 | _ => 9)
  else if a ≤ 0x0C then
    208 + 12 * i + (match k with
      | .corrected => 1 | .remap => 2 | .uncorrectable => 3 | .poisoned => 4 | .full => 5 | .exhausted => 6 | .tagLoss => 7)
  else if a = 0x0D then
    (match k with
      | .corrected | .remap | .uncorrectable => 16
      | .full => 17
      | _ => 400 + 2 * i + 1)
  else
    let low := match k with
      | .corrected | .remap => true
      | _ => false
    if i < 10 then 452 + 4 * i + flag (!low) else if i < 12 then 492 + 4 * (i - 10) + flag (!low) else 54

/-- The unit that reports faults of an array, and the requester ID of a fault that no request met (R18, R328). -/
def arrayUnit (a i b : Nat) : Nat :=
  if a ≤ 5 then unitDie (hartDie i) else if a ≤ 8 then unitDie i else if a ≤ 0x0C then unitHall i
  else if a = 0x0D then unitLink i (b == 1) else if i < 10 then unitStation i else if i < 12 then unitCluster (i - 10)
  else unitUz
def arrayRid (a i : Nat) : Nat :=
  if a ≤ 5 then i else if a ≤ 8 then 0x1000 + 16 * i + 2 else if a ≤ 0x0C then 0x4000 + i
  else if a = 0x0D then (if i < 24 then 0x1000 + 16 * (i / 2) + 2 else 0x7000 + 24 + i)
  else if i < 10 then 0x2000 + 256 * i else if i < 12 then 0x3000 + 512 * (i - 10) else 0x5000

/-- The request that met an array error; none for an error no request met. -/
abbrev Meets := Option Met

/-- The word of an error: its location, in the second copy of an array held in two apart from the first (R313). -/
def errWord (e : ArrErr) : Nat := e.loc + 2 ^ 24 * e.copy

/-- Spare s of a bank (R310). -/
def Bank.spare (b : Bank) (s : Nat) : Spare := b.spares.getD s .free
def Bank.setSpare (b : Bank) (s : Nat) (v : Spare) : Bank :=
  { b with spares := (List.range (max b.spares.length (s + 1))).map (fun i => if i = s then v else b.spare i) }

/-- The lowest free spare of n. -/
def Bank.freeSpare (b : Bank) (n : Nat) : Option Nat := (List.range n).find? (fun s => b.spare s == .free)

/-- A word takes a spare (R310): the spare it stood in, which became hard, is unusable. -/
def Bank.remapTo (b : Bank) (s w : Nat) : Bank :=
  ({ b with spares := b.spares.map (fun x => if x = .used w then .dead else x) } : Bank).setSpare s (.used w)

/-- Report an array fault (R328): a per-core array names its core's hart, another the request or the unit. Nothing but
corrections of the Uzomuris SRAM goes unreported: source 54 names only what it cannot correct. -/
def Pkg.arrayReport (p : Pkg) (e : ArrErr) (k : ArrFault) (m : Meets) : Pkg :=
  if e.array = 0x0E ∧ e.inst = 12 ∧ (k = .corrected ∨ k = .remap) then p
  else
    let rid := if e.array ≤ 5 then e.inst else match m with
      | some x => x.rid
      | none => arrayRid e.array e.inst
    let detail := if e.array = 0x0D then (if arraySource e.array e.inst k < 400 then 0x0D + 256 * e.bank + 512 * e.inst else 0)
      else if e.array = 0x0E ∧ e.inst = 12 then 0 else e.array + 256 * e.bank
    match m with
    | some x =>
      let w := if k = .poisoned then p.poisonOwner x.line else (p, reqWorld rid x.world)
      w.1.onChip (fun c => c.report (arrayUnit e.array e.inst e.bank) (arraySource e.array e.inst k) rid w.2 x.acc detail
        (x.line * 64))
    | none =>
      p.onChip (fun c => c.report (arrayUnit e.array e.inst e.bank) (arraySource e.array e.inst k) rid 1 15 detail)

/-- The remap entries of a bank, as R312 lays them out. -/
def Bank.entries (b : Bank) (a i n : Nat) : List Nat :=
  let base := a + 2 ^ 8 * i + 2 ^ 20 * n
  ((List.range b.spares.length).filterMap (fun s => match b.spare s with
      | .used w => some (base + 2 ^ 24 * (w % 2 ^ 24) + 2 ^ 48 * s)
      | _ => none))
    ++ b.waysOff.map (fun w => base + 2 ^ 24 * w + 2 ^ 51)

/-- A REMAP record of a bank (R310, R430). -/
def Chip.remapRecord (c : Chip) (a i n : Nat) : Chip :=
  let es := ((c.bank (bankKey a i n)).entries a i n).take 26
  c.lifeWrite 0x20 (toBytes 8 es.length ++ es.flatMap (toBytes 8))

/-- The bank that a REMAP record's entries give (R312): spares in use and disabled ways; an entry does not tell the copies of an array held
in two apart (log entry 116). -/
def remapBank (l : List Byte) : Bank :=
  ((List.range (min 26 (sliceNum l 0 8))).map (fun i => sliceNum l (8 + 8 * i) 8)).foldl (fun b e =>
    if bitAt e 51 then { b with waysOff := addOnce (bits e 47 24) b.waysOff }
    else b.setSpare (bits e 50 48) (.used (bits e 47 24))) Bank.reset

/-- The remap entries of some banks are restored from the life record, and nothing else of those banks is left (R309, R312): the latest
record of a bank counts. -/
def Chip.restoreBanks (c : Chip) (p : Nat → Bool) : Chip :=
  let old := c.records.reverse.filter (fun r => r.type == 0x20 && sliceNum r.payload 0 8 != 0)
  let put := fun (m : Sparse Bank) (r : JRec) =>
    let e := sliceNum r.payload 8 8
    let k := bankKey (bits e 7 0) (bits e 19 8) (bits e 23 20)
    if p k && bankOk (bits e 7 0) (bits e 19 8) (bits e 23 20) then sset Bank.reset k (remapBank r.payload) m else m
  { c with banks := old.foldl put (c.banks.filter (fun e => !p e.1)) }

/-- The lines of a snoop filter set lose the one that stands in a disabled way (R311): the manual gives an entry's way no rule, so a free
value says which line that is, or that none stands there. -/
def Chip.filterTrim (c : Chip) (d line : Nat) : Chip :=
  let set := (c.dieLines d).filter (fun x => x % 32768 == line % 32768)
  let full : Bool := 16 - (c.bank (bankKey 6 d (line % 16))).waysOff.length < set.length
  let may := (set.filter (c.filterMay d)).map (· + 1)
  match pick (if full then may else 0 :: may) c.free with
  | some 0 => c.nextFree
  | some (v + 1) => c.nextFree.filterEvict d v
  | none => c

/-- The lines of a landing bank that stand in a way. -/
def Chip.lndOfWay (c : Chip) (d b w : Nat) : List Nat :=
  (c.lnd.filter (fun x => x.1 % 12 == d && x.1 / 12 % 16 == b && (match x.2 with | some y => y.way == w | none => false))).map
    (fun x => x.1 / 12)

/-- The lines of a hall cache bank that stand in a way. -/
def Chip.hcOfWay (c : Chip) (n b w : Nat) : List Nat :=
  (c.hc.filter (fun x => c.homeHall x.1 == n && c.hcSet x.1 % 16 == b
    && (match x.2 with | some y => y.way == w | none => false))).map (fun x => x.1)

/-- The lines of a directory bank whose entries stand in a way. -/
def Chip.dirOfWay (c : Chip) (n b w : Nat) : List Nat :=
  (c.dirWay.filter (fun x => c.homeHall x.1 == n && (c.dirSetOf x.1).2 % 16 == b && x.2 == some w
    && (c.dirAt x.1).state != 0)).map (fun x => x.1)

/-- Way w of a bank is disabled (R311): the lines of the way are written back and leave; of an L2, the dirty lines that find no room in its
write-back buffer stay until it has room. The directory entries of the way are back-invalidated first, each in its turn (R333). -/
def Pkg.wayDisable (p : Pkg) (e : ArrErr) (w : Nat) : Pkg :=
  let i := e.inst
  let p1 := if e.array = 0x0B then (p.chip.dirOfWay i e.bank w).foldl (fun r x => r.backInvTurn x) p else p
  let q := p1.onChip (fun c => c.onBank (bankKey e.array i e.bank) (fun b => { b with waysOff := addOnce w b.waysOff }))
  if e.array ≤ 2 then
    q.onChip (fun c => c.onHart i (fun x => if e.bank = 0 then { x with l1i := [] } else { x with l1d := x.l1d.filter (fun l => l.2 != w) }))
  else if e.array ≤ 5 then q.onChip (fun c => c.sweepL2 i)
  else if e.array = 6 then q.onChip (fun c => ((c.dieLines i).filter (fun l => l % 16 == e.bank)).foldl (fun x line => x.filterTrim i line) c)
  else if e.array ≤ 8 then
    q.onChip (fun c => (c.lndOfWay i e.bank w).foldl (fun x l => (x.setLnd i l none).evictClean i l (24 * i)) c)
  else if e.array ≤ 0x0A then (q.chip.hcOfWay i e.bank w).foldl (fun r l => r.hcEvict l 15) q
  else q

/-- A hard word (R310, R311): it is copied to the lowest free spare; with no free spare its way is disabled or its slot
removed, which shrinks an ownership cache by a line; and a bank with 4 ways disabled already is exhausted. -/
def Pkg.hardWord (p : Pkg) (e : ArrErr) (m : Meets) : Pkg :=
  let k := bankKey e.array e.inst e.bank
  let b := p.chip.bank k
  let p1 := p.onChip (fun c => c.onBank k (fun b => { b with recent := b.recent.filter (fun r => r.loc != errWord e)
                                                             mends := b.mends.filter (fun x => x.1 != errWord e)
                                                             last := some e.loc }))
  match b.freeSpare (arraySpares e.array) with
  | some s =>
    (p1.onChip (fun c => (c.onBank k (fun b => b.remapTo s (errWord e))).remapRecord e.array e.inst e.bank)).arrayReport e .remap m
  | none =>
    let p2 := p1.arrayReport e .full m
    let w := arrayWays e.array e.bank
    if w = 0 then
      if e.array = 0x0E ∧ e.inst = 12 then p2
      else p2.onChip (fun c =>
        let c1 := c.onBank k (fun b => { b with slotsOff := addOnce e.loc b.slotsOff })
        if e.array = 0x0C then c1.owncTrim e.inst (e.loc / 8) (c1.owncWays e.inst (e.loc / 8)) else c1)
    else if 4 ≤ b.waysOff.length then p2.arrayReport e .exhausted m
    else (p2.wayDisable e (e.loc % w)).onChip (fun c => c.remapRecord e.array e.inst e.bank)

/-- The recent-correction memory takes a correction at a location (R309): the entry, updated or new, stands first. -/
def Bank.recordCorrection (b : Bank) (loc : Nat) : Bank × RcEntry :=
  match b.recent.find? (fun r => r.loc == loc) with
  | some r =>
    let r1 : RcEntry := if r.rewritten then { r with count := r.count + 1, rewritten := false } else r
    ({ b with recent := r1 :: b.recent.filter (fun x => x.loc != loc) }, r1)
  | none =>
    let r1 : RcEntry := { loc := loc, count := 1, rewritten := false, force := false }
    ({ b with recent := r1 :: b.recent.take 15 }, r1)

/-- A correction (R304, R308, R309): the data is used, a mend is queued, and a third recurrence makes the word hard. -/
def Pkg.correct (p : Pkg) (e : ArrErr) (m : Meets) : Pkg :=
  let k := bankKey e.array e.inst e.bank
  let b0 := if e.fresh then (p.chip.bank k).rewritten (errWord e) else p.chip.bank k
  let r := b0.recordCorrection (errWord e)
  let b1 : Bank := { r.1 with corr := min 65535 (b0.corr + 1) }
  let b2 : Bank :=
    if r.2.force then { b1.rewritten (errWord e) with recent := (b1.rewritten (errWord e)).recent.map (fun x =>
      if x.loc = errWord e then { x with force := false } else x) }
    else if b1.mends.any (fun x => x.1 == errWord e) then b1
    else if b1.mends.length < 4 then { b1 with mends := b1.mends ++ [((errWord e), p.chip.now)] }
    else { b1 with drops := min 255 (b1.drops + 1)
                   recent := b1.recent.map (fun x => if x.loc = errWord e then { x with force := true } else x) }
  let p1 := (p.onChip (fun c => c.onBank k (fun _ => b2))).arrayReport e .corrected m
  if r.2.count = 3 then p1.hardWord e m else p1

/-- The bundles of a replay buffer that stand in a slot: a bundle's slot is its SEQ modulo the buffer's depth, eight words each (log entry
117, DESIGN CHOICE). -/
def SentBundle.inSlot (k loc : Nat) (s : SentBundle) : Bool := s.seq % (if k < 24 then 64 else 192) == loc / 8

/-- A unit in a replay buffer is lost (R313): the bundle it belongs to, where one needs it, cannot be resent. -/
def Chip.loseUnit (c : Chip) (e : ArrErr) : Chip :=
  let mark := fun (s : SentBundle) => if s.inSlot e.inst e.loc then { s with bad := true } else s
  let x := c.linkEnd e.inst (e.bank == 1)
  c.setLinkEnd e.inst (e.bank == 1) { x with replay := x.replay.map mark, resend := x.resend.map mark }

/-- Data in an engine's SRAM is lost (R307, R313): what the descriptors inside it write is poisoned. -/
def Chip.loseEngine (c : Chip) (k e : Nat) : Chip :=
  { c with insts := c.insts.map (fun x => if x.1 / 544 == k then
      (x.1, { x.2 with inflight := x.2.inflight.map (fun f => if f.engine == some e && f.outcome.isNone then { f with bad := true } else f) })
      else x) }

/-- What an uncorrectable word does to the line it belongs to (R313), and whether data was lost. `line` is the line of the
access. -/
def Pkg.lose (p : Pkg) (e : ArrErr) (line : Nat) : Pkg × ArrFault :=
  match e.array with
  | 1 | 2 => (p.onChip (fun c => c.onHart e.inst (fun x => { x with
      l1i := x.l1i.filter (· != line), l1d := x.l1d.filter (·.1 != line) })), .uncorrectable)
  | 4 | 5 =>
    let l := p.chip.l2at e.inst line
    if l.st.dirty then
      (p.onChip (fun c => (c.setL2 e.inst line { l with poison := true }).evictL2 e.inst line), .poisoned)
    else (p.onChip (fun c => if l.st = .I then c else (c.dropL2 e.inst line).evictClean (hartDie e.inst) line e.inst),
      .uncorrectable)
  | 6 => (p, .uncorrectable)
  | 7 => (p.onChip (fun c => (c.setLnd e.inst line none).evictClean e.inst line (24 * e.inst)), .uncorrectable)
  | 8 => (p.onChip (fun c => c.setLnd e.inst line none), .uncorrectable)
  | 9 =>
    match p.chip.hcAt line with
    | some x =>
      if x.dirty then ((p.onChip (fun c => c.setHc line none)).treadWrite line x.data true 15, .poisoned)
      else (p.onChip (fun c => c.setHc line none), .uncorrectable)
    | none => (p, .uncorrectable)
  | 0x0A => (p, if e.copies = 1 then .tagLoss else .uncorrectable)
  | 0x0B =>
    if e.copies = 1 then (p, .tagLoss)
    else if e.copies = 2 then
      (p.bodyLost line, .uncorrectable)
    else (p, .uncorrectable)
  | 0x0C =>
    (p.onChip (fun c => match c.potAddr (line / 64) with
      | some a => { c with ownc := sset none (owncKey e.inst (a / 64)) none c.ownc }
      | none => c), .uncorrectable)
  | 0x0D =>
    if (p.chip.linkEnd e.inst (e.bank == 1)).replay.any (SentBundle.inSlot e.inst e.loc) then (p.onChip (fun c => c.loseUnit e), .exhausted)
    else (p, .uncorrectable)
  | _ => (if e.inst = 10 ∨ e.inst = 11 then p.onChip (fun c => c.loseEngine (e.inst - 10) e.bank) else p, .uncorrectable)

/-- An uncorrectable word (R313): handled by array, counted, reported, and remapped at once. -/
def Pkg.uncorrectable (p : Pkg) (e : ArrErr) (m : Meets) : Pkg :=
  let k := bankKey e.array e.inst e.bank
  let line := match m with
    | some x => x.line
    | none => 0
  let r := p.lose e line
  let q := r.1.onChip (fun c => c.onBank k (fun b => { b with uncorr := min 65535 (b.uncorr + 1) }))
  (q.arrayReport e r.2 m).hardWord e m

/-- The rows and columns of a word of an array (R307); plain parity is a row for each parity bit. -/
def arrayGrid (a : Nat) : Nat × Nat :=
  if a = 1 then (8, 64) else if a = 2 then (1, 48) else if a = 5 ∨ a = 8 ∨ a = 0x0A then (6, 8) else if a = 6 then (8, 8)
  else if a = 0x0B then (3, 17) else (16, 32)

/-- The row and column parities that fail (R304): each covers the data bits of its row or column and its own check bit. An L1
array has no column parities (R307). -/
def failRows (e : ArrErr) : List Nat :=
  let g := arrayGrid e.array
  (List.range g.1).filter (fun i => ((e.bits.filter (fun b => b / g.2 == i)).length + flag (e.rowPar.contains i)) % 2 == 1)
def failCols (e : ArrErr) : List Nat :=
  let g := arrayGrid e.array
  if e.array ≤ 2 then []
  else (List.range g.2).filter (fun j => ((e.bits.filter (fun b => b % g.2 == j)).length + flag (e.colPar.contains j)) % 2 == 1)

/-- What a read does with the failing parities (R304). -/
inductive RcpOutcome where
  | correct
  | corrected
  | uncorrectable
  deriving DecidableEq, Repr

/-- None, one row or column or one of each, or any other combination; any failing parity of an L1 array (R307). -/
def rcpOutcome (e : ArrErr) : RcpOutcome :=
  let n := (failRows e).length
  let k := (failCols e).length
  if n = 0 ∧ k = 0 then .correct
  else if 2 < e.array ∧ n ≤ 1 ∧ k ≤ 1 then .corrected
  else .uncorrectable

/-- The data bits that are wrong in the word as it is used (R306, "escapes"): the bit where one failing row and one failing column
meet has been inverted. -/
def escapedBits (e : ArrErr) : List Nat :=
  match failRows e, failCols e with
  | [i], [j] =>
    let b := i * (arrayGrid e.array).2 + j
    if e.bits.contains b then e.bits.filter (· != b) else b :: e.bits
  | _, _ => e.bits

/-- A line with bits inverted; bit k of a 64-byte word is bit k of the line. -/
def flipBits (v : Line) (l : List Nat) : Line := l.foldl (fun x b => x ^^^ ((1 : Line) <<< b)) v

/-- The 24 bits of a directory entry (R178), and the entry that 24 bits spell (log entry 132, DESIGN CHOICE: they are bits 23 to 0 of the
array's word). -/
def DirEntry.toBits (d : DirEntry) : Nat :=
  d.state + 4 * flag d.bcast + 8 * d.owner + 128 * d.ptrs.length + (d.ptrs.zipIdx.map (fun x => x.1 * 2 ^ (9 + 4 * x.2))).foldl (· + ·) 0
def DirEntry.ofBits (n : Nat) : DirEntry :=
  if n % 4 = 0 then DirEntry.none
  else { state := n % 4, bcast := bitAt n 2, owner := bits n 6 3, ptrs := (List.range (bits n 8 7)).map (fun i => bits n (12 + 4 * i) (9 + 4 * i)) }

/-- Wrong data that escapes stands in the copy that was read (R306), in the arrays whose words the manual lays out: the L1s, an L2, a landing
cache, a hall cache, the entries of a directory (bits 23 to 0 of their words), an ownership cache. Nothing is written there: the parity is as
it was. -/
def Chip.escape (c : Chip) (e : ArrErr) (line : Nat) : Chip :=
  let l := escapedBits e
  match e.array with
  | 1 =>
    let has : Bool := if e.bank = 0 then (c.hart e.inst).l1i.contains line else (c.hart e.inst).l1d.any (fun x => x.1 == line)
    if has then c.onHart e.inst (fun x => { x with l1x := sset 0 (2 * line + e.bank) (flipBits (sget 0 (2 * line + e.bank) x.l1x) l) x.l1x })
    else c
  | 4 =>
    let x := c.l2at e.inst line
    if x.st = .I then c else { c with l2 := sset L2Line.invalid (l2Key e.inst line) { x with data := flipBits x.data l } c.l2 }
  | 7 =>
    match c.lndAt e.inst line with
    | some x => { c with lnd := sset none (line * 12 + e.inst) (some { x with data := flipBits x.data l }) c.lnd }
    | none => c
  | 9 =>
    match c.hcAt line with
    | some x => { c with hc := sset none line (some { x with data := flipBits x.data l }) c.hc }
    | none => c
  | 0x0B =>
    let n := (l.filter (· < 24)).foldl (fun n b => n ^^^ 2 ^ b) (c.dirAt line).toBits
    { c with dir := sset DirEntry.none line (DirEntry.ofBits n) c.dir }
  | 0x0C =>
    match c.potAddr (line / 64) with
    | some a =>
      let k := owncKey e.inst (a / 64)
      match sget none k c.ownc with
      | some v => { c with ownc := sset none k (some (flipBits v l)) c.ownc }
      | none => c
    | none => c
  | _ => c

/-- Wrong bits escape into the access's line; nothing where none is wrong or no access met them. -/
def Pkg.escapeInto (p : Pkg) (e : ArrErr) (m : Meets) : Pkg :=
  match m with
  | some x => if (escapedBits e).isEmpty then p else p.onChip (fun c => c.escape e x.line)
  | none => p

/-- A read of an RCP word (R304): its data is used, or a correction is, or the word is uncorrectable. What parity does not see
escapes (R306). -/
def Pkg.arrayRead (p : Pkg) (e : ArrErr) (m : Meets) : Pkg :=
  match rcpOutcome e with
  | .correct => p.escapeInto e m
  | .corrected => (p.correct e m).escapeInto e m
  | .uncorrectable => p.uncorrectable e m

/-- The oldest pending mend of a bank is written (R308): REWRITTEN sets. -/
def Chip.mend (c : Chip) (k : Nat) : Chip :=
  c.onBank k (fun b => match b.mends with
    | [] => b
    | (loc, _) :: _ => b.rewritten loc)

/-- A mend pending for 5,000 ticks takes the bank's next port slot (R308). -/
def Chip.mendForced (c : Chip) (k : Nat) : Chip :=
  match (c.bank k).mends with
  | (_, t) :: _ => if t + 5000 ≤ c.now then c.mend k else c
  | [] => c

/-- MEND (R308): the bank's port is idle. -/
def execMend (a i b : Nat) (s : State) : Result :=
  need (bankOk a i b) (s.onChip (fun c => c.mend (bankKey a i b)))

/-- MEND_FORCED (R308). -/
def execMendForced (a i b : Nat) (s : State) : Result :=
  need (bankOk a i b) (s.onChip (fun c => c.mendForced (bankKey a i b)))

/-- ARR_STATUS of a selected bank (R324): zero for a bank the block does not have. -/
def Chip.arrStatus (c : Chip) (ok : Bool) (a i b : Nat) : Word :=
  if !ok then 0
  else
    let x := c.bank (bankKey a i b)
    BitVec.ofNat 64 (x.corr + 2 ^ 16 * x.drops + 2 ^ 24 * (x.spares.filter (fun s => match s with | .used _ => true | _ => false)).length + 2 ^ 28 * x.waysOff.length
      + 2 ^ 31 * flag (x.freeSpare (arraySpares a)).isNone + 2 ^ 32 * x.uncorr)

end Sys2Proof.Machine
end

