-- ==== Sys2Proof/Machine/TileData.lean ====
section
/-! DEFINITION. What a tile register holds and how it is computed: configuration words (R88), the four formats and
binary32 as exact numbers (R91 to R94), rounding and conversion (R102, R103, R107, R108), the packed rows and the tile
record with its CRC-32C (R95, R123 to R125), and the check data (R131, R132, R135, R136). -/

namespace Sys2Proof.Machine

-- configuration words

/-- KIND of a configuration word. -/
def cfgKind (w : Nat) : Nat := w % 256

/-- The signed value of the low 8 bits of a number. -/
def signed8 (n : Nat) : Int := if n % 256 < 128 then (n % 256 : Nat) else (n % 256 : Nat) - 256

/-- SCALE of a configuration word. -/
def cfgScale (w : Nat) : Int := signed8 (w / 256)

/-- Valid rows and columns. -/
def cfgRows (w : Nat) : Nat := w / 2 ^ 16 % 32 + 1
def cfgCols (w : Nat) : Nat := w / 2 ^ 21 % 32 + 1

/-- F12R and F12P. -/
def kindFloat (k : Nat) : Bool := k == 1 || k == 2

/-- A value TCFG accepts for a tile register or an accumulator (R99). -/
def cfgOk (acc : Bool) (v : Nat) : Bool :=
  v < 2 ^ 26 && (v % 256 != 0 || v == 0)
    && (if acc then cfgKind v == 0 || cfgKind v == 5 || cfgKind v == 6 else cfgKind v ≤ 4)
    && (if kindFloat (cfgKind v) then -64 ≤ cfgScale v && cfgScale v ≤ 63 else v / 256 % 256 == 0)

/-- The configuration word with another SCALE. -/
def cfgWithScale (w : Nat) (s : Int) : Nat := w % 256 + (s % 256).toNat * 256 + w / 2 ^ 16 * 2 ^ 16

-- exact numbers

/-- The value of an element: NaN, an infinity, or a finite number, sign and magnitude in units of 2^−256, in which every
value, product and scaled target of R91 to R107 is a whole number. -/
inductive Val where
  | nan (signalling : Bool)
  | inf (neg : Bool)
  | fin (neg : Bool) (mag : Nat)
  deriving DecidableEq, Repr

/-- A binary format: fraction bits, exponent of the smallest normal number. -/
structure Fmt where
  frac : Nat
  emin : Int
  deriving DecidableEq, Repr

def fmtF12R : Fmt := { frac := 6, emin := -14 }
def fmtF12P : Fmt := { frac := 8, emin := -2 }
def fmtF32 : Fmt := { frac := 23, emin := -126 }

/-- The place of the last bit of the smallest numbers of a format, in units of 2^−256. -/
def Fmt.low (f : Fmt) : Nat := (256 + f.emin - f.frac).toNat

/-- The magnitude of an encoding without its sign. -/
def Fmt.mag (f : Fmt) (enc : Nat) : Nat :=
  let e := enc / 2 ^ f.frac
  if e = 0 then enc * 2 ^ f.low else (2 ^ f.frac + enc % 2 ^ f.frac) * 2 ^ (f.low + e - 1)

/-- The encoding, without its sign, of a magnitude that the format has. -/
def Fmt.enc (f : Fmt) (mag : Nat) : Nat :=
  if mag < 2 ^ (f.low + f.frac) then mag / 2 ^ f.low
  else
    let k := Nat.log2 mag - f.frac
    (k - f.low) * 2 ^ f.frac + mag / 2 ^ k

/-- A rounding mode (R107): 0 RNE, 1 RTZ, 2 RDN, 3 RUP, 4 RMM; the multiple of 2^k to which a magnitude rounds, and
whether it was inexact. -/
def roundAt (rm : Nat) (neg : Bool) (mag k : Nat) : Nat × Bool :=
  let q := mag / 2 ^ k
  let r := mag % 2 ^ k
  let up :=
    match rm with
    | 0 => 2 ^ k < 2 * r || (2 * r == 2 ^ k && q % 2 == 1)
    | 1 => false
    | 2 => neg && r != 0
    | 3 => !neg && r != 0
    | _ => 2 ^ k ≤ 2 * r
  ((if up && r != 0 then q + 1 else q) * 2 ^ k, r != 0)

/-- The place of the last kept bit of a magnitude, with the exponent range of the format or without it. -/
def Fmt.place (f : Fmt) (mag : Nat) (bounded : Bool) : Nat :=
  if bounded then max f.low (Nat.log2 mag - f.frac) else Nat.log2 mag - f.frac

/-- Flags as fcsr.fflags holds them. -/
def flagNV : Nat := 16
def flagOF : Nat := 4
def flagUF : Nat := 2
def flagNX : Nat := 1

/-- The largest finite magnitudes. -/
def maxF12R : Nat := fmtF12R.mag 0x7BF
def maxF12P : Nat := fmtF12P.mag 0x7FF
def maxF32 : Nat := fmtF32.mag 0x7F7FFFFF

/-- An F12R element (R91). -/
def valF12R (e : Nat) : Val :=
  let m := e % 2 ^ 11
  if m = 0x7C0 then .inf (e.testBit 11) else if 0x7C0 < m then .nan false else .fin (e.testBit 11) (fmtF12R.mag m)

/-- An F12P element (R92). -/
def valF12P (e : Nat) : Val := if e % 4096 = 0x800 then .nan false else .fin (e.testBit 11) (fmtF12P.mag (e % 2 ^ 11))

/-- A binary32 number. -/
def valF32 (e : Nat) : Val :=
  let m := e % 2 ^ 31
  if m = 0x7F800000 then .inf (e.testBit 31)
  else if 0x7F800000 < m then .nan (!m.testBit 22)
  else .fin (e.testBit 31) (fmtF32.mag m)

/-- An integer as an exact value. -/
def valInt (n : Int) : Val := .fin (decide (n < 0)) (n.natAbs * 2 ^ 256)

/-- The value times 2^s; s is chosen so that no bit is lost. -/
def Val.scale (v : Val) (s : Int) : Val :=
  match v with
  | .fin neg mag => .fin neg (if 0 ≤ s then mag * 2 ^ s.toNat else mag / 2 ^ (-s).toNat)
  | x => x

/-- An integer element of a tile (R93), and for a float kind its encoding as an unsigned integer (R131). -/
def elemInt (kind e : Nat) : Int := if kind = 3 ∧ e.testBit 11 then (e % 4096 : Nat) - 4096 else (e % 4096 : Nat)

/-- The value of an element of a tile (R94). -/
def elemVal (cfg e : Nat) : Val :=
  match cfgKind cfg with
  | 1 => (valF12R e).scale (cfgScale cfg)
  | 2 => (valF12P e).scale (cfgScale cfg)
  | k => valInt (elemInt k e)

/-- The two's-complement value of 32 bits. -/
def int32 (n : Nat) : Int := if n.testBit 31 then (n % 2 ^ 32 : Nat) - 2 ^ 32 else (n % 2 ^ 32 : Nat)

/-- The 32 bits of an integer. -/
def enc32 (n : Int) : Nat := (n % 2 ^ 32).toNat

/-- The lane integer m(i, k) of an element (R131): its value in units of 2^SCALE × u; 0 for NaN and infinities. -/
def laneInt (kind e : Nat) : Int :=
  match (if kind = 1 then valF12R e else valF12P e) with
  | .fin neg mag =>
    let n : Nat := mag / 2 ^ (if kind = 1 then fmtF12R.low else fmtF12P.low)
    if neg then -(n : Int) else n
  | _ => 0

-- sums of products

/-- A product of two values (R103): a 0 × ∞ makes `none`. -/
def Val.mul (a b : Val) : Option Val :=
  match a, b with
  | .nan s, .nan t => some (.nan (s || t))
  | .nan s, _ | _, .nan s => some (.nan s)
  | .inf s, .inf t => some (.inf (s != t))
  | .inf s, .fin t m | .fin t m, .inf s => if m = 0 then none else some (.inf (s != t))
  | .fin s m, .fin t n => some (.fin (s != t) (m * n / 2 ^ 256))

/-- Round an exact finite value to binary32, to nearest with ties to even: the encoding and the flags (R103 row 6). -/
def roundF32 (neg : Bool) (mag : Nat) : Nat × Nat :=
  let sign := 2 ^ 31 * flag neg
  let r := roundAt 0 neg mag (fmtF32.place mag true)
  let u := roundAt 0 neg mag (fmtF32.place mag false)
  if maxF32 < r.1 then (sign + 0x7F800000, flagOF + flagNX)
  else (sign + fmtF32.enc r.1, if !r.2 then 0 else if u.1 < 2 ^ (fmtF32.low + 23) then flagUF + flagNX else flagNX)

/-- The float accumulation of R102 and R103: the previous accumulator and the terms (products, or the added value). -/
def accFloat (prev : Nat) (terms : List (Option Val)) : Nat × Nat :=
  let all := some (valF32 prev) :: terms
  let isNan := fun (t : Option Val) => match t with | some (.nan _) => true | _ => false
  let isSnan := fun (t : Option Val) => match t with | some (.nan s) => s | _ => false
  let isInf := fun (neg : Bool) (t : Option Val) => t == some (.inf neg)
  if all.any isNan then (0x7FC00000, if all.any isSnan then flagNV else 0)
  else if all.any (·.isNone) || (all.any (isInf true) && all.any (isInf false)) then (0x7FC00000, flagNV)
  else if all.any (isInf true) then (0xFF800000, 0)
  else if all.any (isInf false) then (0x7F800000, 0)
  else
    let sum : Int := all.foldl (fun acc t => match t with
      | some (.fin neg m) => if neg then acc - (m : Int) else acc + (m : Int)
      | _ => acc) 0
    if sum = 0 then
      (if all.all (fun t => t == some (.fin true 0)) then 0x80000000 else 0, 0)
    else roundF32 (decide (sum < 0)) sum.natAbs

/-- The integer accumulation of R105: wrap, or clamp the exact total; whether it was clamped. -/
def accInt (sat : Bool) (prev : Nat) (sum : Int) : Nat × Bool :=
  let t := int32 prev + sum
  if sat then
    if t < -(2 ^ 31) then (0x80000000, true) else if 2 ^ 31 - 1 < t then (0x7FFFFFFF, true) else (enc32 t, false)
  else (enc32 t, false)

-- TCVT

/-- TCVT to a float format (R107, R108): the encoding and the flags of target t. -/
def cvtFloat (r12 : Bool) (rm : Nat) (t : Val) : Nat × Nat :=
  let f := if r12 then fmtF12R else fmtF12P
  let top := if r12 then maxF12R else maxF12P
  let topEnc := if r12 then 0x7BF else 0x7FF
  match t with
  | .nan s => (if r12 then 0x7E0 else 0x800, if s then flagNV else 0)
  | .inf neg => if r12 then (0x7C0 + 0x800 * flag neg, 0) else (0x7FF + 0x800 * flag neg, flagOF + flagNX)
  | .fin neg mag =>
    let r := roundAt rm neg mag (f.place mag true)
    if top < r.1 then
      if !r12 then (topEnc + 0x800 * flag neg, flagOF + flagNX)
      else
        let toInf := rm == 0 || rm == 4 || (rm == 2 && neg) || (rm == 3 && !neg)
        ((if toInf then 0x7C0 else topEnc) + 0x800 * flag neg, flagOF + flagNX)
    else
      let fl := if !r.2 then 0 else if mag < 2 ^ (f.low + f.frac) then flagUF + flagNX else flagNX
      if r.1 = 0 then (if r12 then 0x800 * flag neg else 0, fl) else (f.enc r.1 + 0x800 * flag neg, fl)

/-- TCVT to I12 or U12 (R107, R108): `isF32` says that v is F32. -/
def cvtInt (i12 isF32 : Bool) (rm : Nat) (t : Val) : Nat × Nat :=
  let lo : Int := if i12 then -2048 else 0
  let hi : Int := if i12 then 2047 else 4095
  let enc := fun (n : Int) => (n % 4096).toNat
  match t with
  | .nan _ => (0, flagNV)
  | .inf neg => (enc (if neg then lo else hi), if isF32 then flagNV else 0)
  | .fin neg mag =>
    let r := roundAt rm neg mag 256
    let n : Int := if neg then -((r.1 / 2 ^ 256 : Nat) : Int) else ((r.1 / 2 ^ 256 : Nat) : Int)
    if n < lo then (enc lo, if isF32 then flagNV else 0)
    else if hi < n then (enc hi, if isF32 then flagNV else 0)
    else (enc n, if r.2 && isF32 then flagNX else 0)

-- registers and their check data

/-- Element (i, j) of a tile register or an accumulator. -/
def elAt (el : Sparse Nat) (i j : Nat) : Nat := sget 0 (32 * i + j) el

/-- The elements f(i, j) inside a shape; zero outside it (R89). -/
def mkEl (cfg : Nat) (f : Nat → Nat → Nat) : Sparse Nat :=
  if cfgKind cfg = 0 then []
  else
    (List.range 1024).filterMap (fun k =>
      let v := if k / 32 < cfgRows cfg ∧ k % 32 < cfgCols cfg then f (k / 32) (k % 32) else 0
      if v = 0 then none else some (k, v))

/-- 2^31 − 1, the modulus of the checksum lane. -/
def laneMod : Nat := 2 ^ 31 - 1

/-- A sparse map of f(0) to f(31). -/
def mkMap {V : Type} [DecidableEq V] (d : V) (f : Nat → V) : Sparse V :=
  (List.range 32).filterMap (fun i => if f i = d then none else some (i, f i))

/-- The sum of f(0) to f(31). -/
def sum32 (f : Nat → Int) : Int := (List.range 32).foldl (fun acc i => acc + f i) 0

/-- The row margin sum, column margin sum and lane column sum that the contents give (R131). -/
def rowSumOf (cfg : Nat) (el : Sparse Nat) (i : Nat) : Int := sum32 (fun j => elemInt (cfgKind cfg) (elAt el i j))
def colSumOf (cfg : Nat) (el : Sparse Nat) (j : Nat) : Int := sum32 (fun i => elemInt (cfgKind cfg) (elAt el i j))
def laneOf (cfg : Nat) (el : Sparse Nat) (k : Nat) : Nat :=
  if kindFloat (cfgKind cfg) then (sum32 (fun i => laneInt (cfgKind cfg) (elAt el i k)) % (laneMod : Int)).toNat else 0

/-- The held column sum that the contents of an accumulator give (R132). -/
def heldOf (el : Sparse Nat) (j : Nat) : Nat :=
  (List.range 32).foldl (fun acc i => (acc + elAt el i j) % 2 ^ 32) 0

/-- A tile register with given contents, and the check data computed from them (R133). -/
def mkTile (cfg : Nat) (f : Nat → Nat → Nat) : Tile :=
  let el := mkEl cfg f
  { cfg := BitVec.ofNat 64 cfg, el := el, rowSum := mkMap 0 (rowSumOf cfg el), colSum := mkMap 0 (colSumOf cfg el)
    lane := mkMap 0 (laneOf cfg el) }

/-- An accumulator with given contents, and its held column sums computed from them. -/
def mkAcc (cfg : Nat) (f : Nat → Nat → Nat) : TAcc :=
  let el := mkEl cfg f
  { cfg := BitVec.ofNat 64 cfg, el := el, colSum := mkMap 0 (heldOf el) }

/-- The configuration word as a number. -/
def Tile.word (t : Tile) : Nat := t.cfg.toNat
def TAcc.word (a : TAcc) : Nat := a.cfg.toNat

/-- A failed check: KIND, REG, INDEX, IS_ROW of tfault. -/
structure TFail where
  kind : Nat
  reg : Nat
  index : Nat := 0
  row : Bool := false
  deriving DecidableEq, Repr

/-- The operand check of a tile register (R135): its lowest failing column, or else row; with `lanes` the lane column sums
count as column comparisons (TCHK, TSAVE). -/
def Tile.check (t : Tile) (reg kind : Nat) (lanes : Bool) : Option TFail :=
  let badCol := (List.range 32).find? (fun j => sget 0 j t.colSum != colSumOf t.word t.el j
    || (lanes && sget 0 j t.lane != laneOf t.word t.el j))
  match badCol with
  | some j => some { kind := kind, reg := reg, index := j }
  | none =>
    ((List.range 32).find? (fun i => sget 0 i t.rowSum != rowSumOf t.word t.el i)).map (fun i =>
      { kind := kind, reg := reg, index := i, row := true })

/-- The operand check of an accumulator: its lowest column whose sum differs from the held one. -/
def TAcc.check (a : TAcc) (reg kind : Nat) : Option TFail :=
  ((List.range 32).find? (fun j => sget 0 j a.colSum != heldOf a.el j)).map (fun j =>
    { kind := kind, reg := reg, index := j })

-- records

/-- One step of CRC-32C, bit-reflected (R124). -/
def crc32cByte (crc : Nat) (b : Byte) : Nat :=
  forUpTo 8 (fun _ c => if c % 2 = 1 then (c / 2) ^^^ 0x82F63B78 else c / 2) (crc ^^^ b.toNat)

/-- CRC-32C of a list of bytes (R124). -/
def crc32c (l : List Byte) : Nat := (l.foldl crc32cByte 0xFFFFFFFF) ^^^ 0xFFFFFFFF

/-- The 48 bytes of row i, packed (R95). -/
def packRow (el : Nat → Nat) : List Byte :=
  (List.range 16).flatMap (fun k => toBytes 3 (el (2 * k) % 4096 + el (2 * k + 1) % 4096 * 4096))

/-- Element j of a packed row. -/
def unpackEl (row : List Byte) (j : Nat) : Nat := ofBytes ((row.drop (j / 2 * 3)).take 3) / 4096 ^ (j % 2) % 4096

/-- The stream of R124 in a record: bytes 4 to 15 and the data rows. -/
def recStream (r : List Byte) : List Byte := (r.drop 4).take 12 ++ r.drop 64

/-- The 1,600 bytes of a tile record (R112, R123). -/
def mkRecord (cfg tag : Nat) (el : Nat → Nat → Nat) : List Byte :=
  let head := toBytes 4 cfg ++ toBytes 8 tag
  let rows := (List.range 32).flatMap (fun i => packRow (el i))
  toBytes 4 (crc32c (head ++ rows)) ++ head ++ toBytes 48 0 ++ rows

/-- The configuration word a record's header holds. -/
def recCfg (r : List Byte) : Nat := ofBytes ((r.drop 4).take 4)

/-- A record's header is valid (R125). -/
def recHeaderOk (r : List Byte) : Bool :=
  let w := recCfg r
  cfgKind w != 0 && cfgOk false w && ((r.drop 16).take 48).all (· == 0)

/-- The checks of R126 that fail, as KINDs in their order. -/
def recFails (r : List Byte) (tag : Nat) : List Nat :=
  (if crc32c (recStream r) ≠ ofBytes (r.take 4) then [1] else []) ++ (if !recHeaderOk r then [3] else [])
    ++ (if ofBytes ((r.drop 8).take 8) ≠ tag then [2] else [])

/-- Element (i, j) of a record's data rows. -/
def recEl (r : List Byte) (i j : Nat) : Nat := unpackEl ((r.drop (64 + 48 * i)).take 48) j

end Sys2Proof.Machine
end

