-- ==== Sys2Proof/Machine/Trap.lean ====
section
/-! DEFINITION. Taking a trap and returning from one: the world gate (R63), the registers a trap saves into, delegation
(R67, R318), what a trap ends (R188), the performance counters (R73), and the halts of external debug (R86). -/

namespace Sys2Proof.Machine

/-- The CSRs of the RISC-V privileged architecture that the model names. -/
def csrMstatus : Nat := 0x300
def csrMedeleg : Nat := 0x302
def csrMideleg : Nat := 0x303
def csrMie : Nat := 0x304
def csrMtvec : Nat := 0x305
def csrMcountinhibit : Nat := 0x320
def csrMepc : Nat := 0x341
def csrMcause : Nat := 0x342
def csrMtval : Nat := 0x343
def csrMip : Nat := 0x344
def csrMtinst : Nat := 0x34A
def csrMtval2 : Nat := 0x34B
def csrStvec : Nat := 0x105
def csrSepc : Nat := 0x141
def csrScause : Nat := 0x142
def csrStval : Nat := 0x143
def csrSatp : Nat := 0x180
def csrHstatus : Nat := 0x600
def csrHedeleg : Nat := 0x602
def csrHideleg : Nat := 0x603
def csrHtval : Nat := 0x643
def csrHtinst : Nat := 0x64A
def csrHgatp : Nat := 0x680
def csrVsstatus : Nat := 0x200
def csrVstvec : Nat := 0x205
def csrVsepc : Nat := 0x241
def csrVscause : Nat := 0x242
def csrVstval : Nat := 0x243
def csrVsatp : Nat := 0x280
def csrMinstret : Nat := 0xB02
def csrMenvcfg : Nat := 0x30A
def csrSenvcfg : Nat := 0x10A
def csrHenvcfg : Nat := 0x60A
def csrDcsr : Nat := 0x7B0
def csrDpc : Nat := 0x7B1

/-- A one-bit field of a CSR. -/
def Hart.csrBit (x : Hart) (n i : Nat) : Bool := (x.getCsr n).toNat.testBit i

/-- Set a one-bit field of a CSR. -/
def Hart.putBit (x : Hart) (n i : Nat) (b : Bool) : Hart := x.putCsr n i i (flag b)

/-- What a trap carries: its cause, whether it is an interrupt, xtval, and for a guest-page fault the guest physical
address. `check` is the CHECK code and the POT entry of a world-check fault with its hall (R64). -/
structure TrapInfo where
  cause : Nat
  int : Bool := false
  tval : Word := 0
  gpa : Nat := 0
  inst : Word := 0
  check : Option (Nat × Nat × Nat) := none
  deriving DecidableEq, Repr

/-- The context hash of R68: of the ASID in force (0 in bare mode), of the VMID with V set, and of V. -/
def Hart.ctxHash (x : Hart) : Nat :=
  let atp := if x.virt then csrVsatp else csrSatp
  let asid := if x.csrBits atp 63 60 = 0 then 0 else x.csrBits atp 59 44
  let vmid := if x.virt then x.csrBits csrHgatp 57 44 else 0
  (asid % 4096) ^^^ (asid / 4096 * 256) ^^^ (vmid % 4096) ^^^ (vmid / 4096 * 1024) ^^^ (if x.virt then 2048 else 0)

/-- Every predictor and prefetcher entry of the hart's core is invalid (R70, R71). -/
def Hart.forget (x : Hart) : Hart :=
  { x with l1dMiss := [], l2Miss := [], l1dStreams := [], l2Streams := [], pred := Predictors.reset }

/-- The privilege a trap goes to: 3 M, 1 with V clear HS, 1 with V set VS (medeleg, mideleg, hedeleg, hideleg). World
pending is always taken in M-mode (R75). -/
def Hart.trapTarget (x : Hart) (t : TrapInfo) : Nat × Bool :=
  let m := if t.int then csrMideleg else csrMedeleg
  let hd := if t.int then csrHideleg else csrHedeleg
  if x.priv = 3 || !x.csrBit m t.cause || (t.int && t.cause == 16) then (3, false)
  else if x.virt && x.csrBit hd t.cause then (1, true)
  else (1, false)

/-- The handler's address: the base of xtvec, and in vectored mode 4 times the cause further for an interrupt. -/
def trapVector (tvec : Word) (t : TrapInfo) : Word :=
  let base := tvec &&& ~~~3#64
  if t.int && tvec.toNat % 4 == 1 then base + BitVec.ofNat 64 (4 * t.cause) else base

/-- A trap writes a guest virtual address to xtval (GVA): an exception of a fetch, load, store or tile record whose address was
a virtual one of a guest, which in M-mode only MPRV with MPV makes it. -/
def Hart.trapGva (x : Hart) (t : TrapInfo) : Bool :=
  let fetch := t.cause == 0 || t.cause == 1 || t.cause == 12 || t.cause == 20
  let addressed := fetch || [3, 4, 5, 6, 7, 13, 15, 21, 23].contains t.cause || (t.cause == 24 && t.tval != 0)
  !t.int && addressed && (x.virt || (x.priv == 3 && !fetch && x.csrBit csrMstatus 17 && x.csrBit csrMstatus 39
    && x.csrBits csrMstatus 12 11 != 3))

/-- xcause. -/
def trapCause (t : TrapInfo) : Word := BitVec.ofNat 64 (t.cause + 2 ^ 63 * flag t.int)

/-- GUARD_REQ reads the setting of the world a hart enters (R130, R276). -/
def Chip.guardOf (c : Chip) (w : Nat) : Bool := c.bit (.WLD_WORLD_CFG w) F.WLD_WORLD_CFG_GUARD_TILE

/-- Gate entry (R63): PREV takes WORLD, WORLD becomes 1, GUARD_REQ takes W1's setting. -/
def Chip.gateEntry (c : Chip) (x : Hart) : Hart :=
  ((x.putCsr csrMworld 11 8 x.world).putCsr csrMworld 3 0 1).putBit csrTcsr 16 (c.guardOf 1)

/-- mwfinfo records a world-check fault (R64): the fields are overwritten, OVERRUN sets if VALID was set. -/
def Hart.recordCheck (x : Hart) (world : Nat) : Option (Nat × Nat × Nat) → Hart
  | none => x
  | some (check, entry, hall) =>
    let ended := x.csrBit csrMwfinfo 63 || x.csrBit csrMwfinfo 62
    let v := world + 16 * potOwner entry + 256 * potState entry + 1024 * check + 65536 * hall
      + 2 ^ 62 * flag ended + 2 ^ 63
    x.setCsr csrMwfinfo (BitVec.ofNat 64 v)

/-- The registers a trap writes at its target: pc, cause, tval and status, the mode and the handler's address. -/
def Chip.enterTrap (c : Chip) (x : Hart) (t : TrapInfo) : Hart :=
  let gva := x.trapGva t
  match x.trapTarget t with
  | (3, _) =>
    let x := c.gateEntry x
    let x := ((x.setCsr csrMepc x.pc).setCsr csrMcause (trapCause t)).setCsr csrMtval t.tval
    let x := (x.setCsr csrMtval2 (BitVec.ofNat 64 (t.gpa / 4))).putBit csrMstatus 39 x.virt
    let x := (x.putBit csrMstatus 38 gva).setCsr csrMtinst t.inst
    let x := ((x.putBit csrMstatus 7 (x.csrBit csrMstatus 3)).putBit csrMstatus 3 false).putCsr csrMstatus 12 11 x.priv
    { x with pc := trapVector (x.getCsr csrMtvec) t, priv := 3, virt := false }
  | (_, false) =>
    let x := ((x.setCsr csrSepc x.pc).setCsr csrScause (trapCause t)).setCsr csrStval t.tval
    let x := (x.setCsr csrHtval (BitVec.ofNat 64 (t.gpa / 4))).putBit csrHstatus 7 x.virt
    let x := (x.putBit csrHstatus 6 gva).setCsr csrHtinst t.inst
    let x := if x.virt then x.putBit csrHstatus 8 (x.priv == 1) else x
    let x := ((x.putBit csrMstatus 5 (x.csrBit csrMstatus 1)).putBit csrMstatus 1 false).putBit csrMstatus 8 (x.priv == 1)
    { x with pc := trapVector (x.getCsr csrStvec) t, priv := 1, virt := false }
  | (_, true) =>
    let t' := if t.int && (t.cause == 2 || t.cause == 6 || t.cause == 10) then { t with cause := t.cause - 1 } else t
    let x := ((x.setCsr csrVsepc x.pc).setCsr csrVscause (trapCause t')).setCsr csrVstval t.tval
    let x := ((x.putBit csrVsstatus 5 (x.csrBit csrVsstatus 1)).putBit csrVsstatus 1 false).putBit csrVsstatus 8
      (x.priv == 1)
    { x with pc := trapVector (x.getCsr csrVstvec) t', priv := 1, virt := true }

/-- The access that won lines has completed (R188): those of an L2 are held for it no longer, but for their minimum. -/
def Chip.settle (c : Chip) (h : Nat) : Chip :=
  (c.l2Lines h).foldl (fun x line =>
    if (x.l2at h line).winning then x.setL2 h line { x.l2at h line with winning := false } else x) c

/-- The hold of an LR ends: its line is no longer pinned (R188). -/
def Chip.unpin (c : Chip) (h : Nat) : Chip :=
  (c.l2Lines h).foldl (fun x line =>
    if (x.l2at h line).pinned then x.setL2 h line { x.l2at h line with pinned := false } else x) c

/-- The instructions of a hart that have not completed are discarded, with what their accesses have found. -/
def Hart.discard (x : Hart) : Hart := { x with hq := [], got := [], xlat := [], awaits := [], refusal := none }

/-- A hart halts for debug (R85, R86): dpc and dcsr take the pc and the mode. -/
def Hart.halt (x : Hart) (why : Nat) : Hart :=
  let x := x.setCsr csrDpc x.pc
  let x := ((x.putCsr csrDcsr 8 6 why).putCsr csrDcsr 1 0 x.priv).putBit csrDcsr 5 x.virt
  { x.discard with run := .halted, haltPending := false, haltWait := none, fetched := none }

/-- A pending haltreq takes effect at a gate crossing into a world with invasive debug enabled (R86), once a predictor clear that the
crossing starts has completed (R70). -/
def Chip.haltAtGate (c : Chip) (h : Nat) : Chip :=
  let x := c.hart h
  if x.haltPending && x.run != .clearing && x.run != .held && c.invEff x.world then c.onHart h (fun x => x.halt 3) else c

/-- The instruction of a hart has ended while dcsr.step is set (R85, the Debug Specification's single step): the hart halts where its world
has invasive debug enabled (R86), before the instruction that follows. -/
def Chip.stepHalt (c : Chip) (h : Nat) : Chip :=
  let x := c.hart h
  if x.run = .running && x.csrBit csrDcsr 2 && c.invEff x.world then
    c.onHart h (fun x => (match x.fetched with
      | some (pc, w) => { x with pc := BitVec.ofNat 64 (pc + (if w % 4 = 3 then 4 else 2)) }
      | none => x).halt 4)
  else c

/-- Taking a trap: mwfinfo for a world-check fault (R64), the target's registers, the gate (R63), and the end of an LR's
hold (R188). Instructions that have not completed are discarded. With dcsr.step set the hart then halts (R85). -/
def Chip.takeTrap (c : Chip) (h : Nat) (t : TrapInfo) : Chip :=
  let x0 := c.hart h
  let x1 := x0.recordCheck x0.world t.check
  let x2 := c.enterTrap x1 t
  let c1 := c.setHart h { x2.discard with io := none, irqWait := none, fetched := none
                                          run := if x0.run = .wfi then .running else x0.run }
  let c2 := (c1.unpin h).settle h
  (if x2.priv = 3 then c2.haltAtGate h else c2).stepHalt h

/-- An exception. -/
def Chip.except (c : Chip) (h cause : Nat) (tval : Word := 0) : Chip := c.takeTrap h { cause := cause, tval := tval }

/-- An illegal-instruction or virtual-instruction exception (cause 2 or 22) of an instruction whose word the command does not
give: xtval takes the word, a free value (R3: Sstvala). -/
def Chip.illegal (c : Chip) (h cause : Nat) : Chip :=
  c.nextFree.except h cause (BitVec.ofNat 64 (Config.freeNat c.free % 2 ^ 32))

-- counters

/-- The bit of mhpmevent that inhibits counting in the hart's mode (Sscofpmf): MINH 62, SINH 61, UINH 60, VSINH 59, VUINH 58. -/
def Hart.inhibitBit (x : Hart) : Nat :=
  if x.priv = 3 then 62 else if x.virt then (if x.priv = 1 then 59 else 58) else if x.priv = 1 then 61 else 60

/-- The hart's programmable counters count an event while the running world has non-invasive debug enabled, or WMATCH is
set and the world is the counter's (R73), outside the modes its Sscofpmf bits inhibit; an overflow sets OF and pends the local
counter-overflow interrupt. -/
def Chip.countEvent (c : Chip) (h ev : Nat) (n : Nat := 1) : Chip :=
  c.onHart h (fun x => (List.range 29).foldl (fun x i =>
    let e := x.getCsr (0x323 + i)
    let w := x.world
    if e.toNat % 65536 == ev && !x.csrBit csrMcountinhibit (3 + i) && !e.toNat.testBit x.inhibitBit
        && (c.ninvEff w || (e.toNat.testBit 56 && bits e.toNat 55 52 == w)) then
      let old := (x.getCsr (0xB03 + i)).toNat
      let x := x.setCsr (0xB03 + i) (BitVec.ofNat 64 (old + n))
      if 2 ^ 64 ≤ old + n && !e.toNat.testBit 63 then (x.putBit (0x323 + i) 63 true).putBit csrMip 13 true else x
    else x) x)

/-- An instruction retires: minstret always counts it, and event 0x0002 (R73). -/
def Chip.retire (c : Chip) (h : Nat) : Chip :=
  (c.onHart h (fun x => x.setCsr csrMinstret (x.getCsr csrMinstret + 1))).countEvent h 2

/-- An instruction other than a tile instruction has been performed: it retires, once the older instructions of the tile unit have
(R116). -/
def Chip.finish (c : Chip) (h : Nat) : Chip :=
  if (c.hart h).tsent = [] then c.retire h else c.onHart h (fun x => { x with younger := x.younger + 1 })

/-- The instructions that waited for the tile unit retire. -/
def Chip.retireYounger (c : Chip) (h : Nat) : Chip :=
  (forUpTo (c.hart h).younger (fun _ x => x.retire h) c).onHart h (fun x => { x with younger := 0 })

-- interrupts

/-- mie as it stands. -/
def Chip.mie (c : Chip) (h : Nat) : Nat := ((c.hart h).getCsr csrMie).toNat

/-- An interrupt is pending and enabled, and its target's global enable admits it in the running mode. -/
def Chip.irqReady (c : Chip) (h cause : Nat) : Bool :=
  let x := c.hart h
  let tgt := x.trapTarget { cause := cause, int := true }
  bitAt (c.mip h) cause && bitAt (c.mie h) cause
    && (if tgt.1 == 3 then x.priv < 3 || x.csrBit csrMstatus 3
        else if tgt.2 then x.virt && (x.priv < 1 || x.csrBit csrVsstatus 1)
        else if !x.virt && bitAt 0x444 cause && x.csrBit csrHideleg cause then false
        else x.priv < 3 && (x.virt || x.priv < 1 || x.csrBit csrMstatus 1))

/-- A hart in WFI wakes when some enabled interrupt is pending (R34). -/
def Chip.wake (c : Chip) (h : Nat) : Chip :=
  if (c.hart h).run = .wfi ∧ (c.mip h &&& c.mie h) ≠ 0 then c.onHart h (fun x => { x with run := .running }) else c

-- the gate, out

/-- MRET (R63): the mode and world it returns to; a gate exit, when the target is below M, enters NEXT, gives GUARD_REQ
that world's setting (R130) and clears the predictors when R70 demands it. -/
def Chip.mret (c : Chip) (h : Nat) : Chip :=
  let x := c.hart h
  if x.priv ≠ 3 then c.except h 2 0x30200073
  else
    let mpp := x.csrBits csrMstatus 12 11
    let mpp := if mpp = 2 then 0 else mpp
    let mpv := mpp != 3 && x.csrBit csrMstatus 39
    let x1 := ((x.putBit csrMstatus 3 (x.csrBit csrMstatus 7)).putBit csrMstatus 7 true).putCsr csrMstatus 12 11 0
    let x1 := (x1.putBit csrMstatus 39 false).putBit csrMstatus 17 (x.csrBit csrMstatus 17 && mpp == 3)
    let x2 := { x1 with priv := mpp, virt := mpv, pc := x.getCsr csrMepc, fetched := none }
    if mpp = 3 then c.setHart h x2
    else
      let w := x.csrBits csrMworld 7 4
      let force := x.csrBit csrMworld 12
      let clear := force || (w != x.world && c.bit (.WLD_WORLD_CFG w) F.WLD_WORLD_CFG_CLEAR_ON_ENTRY)
      let x3 := ((x2.putCsr csrMworld 3 0 w).putBit csrMworld 12 false).putBit csrTcsr 16 (c.guardOf w)
      let x4 := if clear then { (x3.putBit csrMworld 13 true).forget with run := .clearing } else x3
      (c.setHart h x4).haltAtGate h

/-- The predictor clear completes (R70): CLEARING clears and execution begins in the new world, or a haltreq made meanwhile takes
effect (R86). -/
def Chip.clearDone (c : Chip) (h : Nat) : Chip :=
  if (c.hart h).run = .clearing then
    (c.onHart h (fun x => { x.putBit csrMworld 13 false with run := .running })).haltAtGate h
  else c

end Sys2Proof.Machine
end

