-- ==== Sys2Proof/Machine/Tile.lean ====
section
/-! DEFINITION. The tile instructions that touch no memory, as functions of the hart (R96 to R111, R129 to R139): the
configuration and operand rules, the operand and compute checks, and the results. -/

namespace Sys2Proof.Machine

-- integer registers

/-- Integer register n; x0 reads as zero. -/
def Hart.xr (x : Hart) (n : Nat) : Word := if n = 0 then 0 else sget 0 n x.x

/-- Write integer register n; a write of x0 is discarded. -/
def Hart.setX (x : Hart) (n : Nat) (v : Word) : Hart := if n = 0 then x else { x with x := sset 0 n v x.x }

-- tile state of a hart

/-- Tile register t and accumulator a. -/
def Hart.tileAt (x : Hart) (t : Nat) : Tile := sget Tile.reset t x.tile
def Hart.accAt (x : Hart) (a : Nat) : TAcc := sget TAcc.reset a x.tacc

/-- UNG of tile register t, SUSPECT of accumulator a (tcsr). -/
def Hart.ung (x : Hart) (t : Nat) : Bool := x.csrBit csrTcsr (4 + t)
def Hart.suspect (x : Hart) (a : Nat) : Bool := x.csrBit csrTcsr (12 + a)

/-- GUARD_REQ (R130). -/
def Hart.guarded (x : Hart) : Bool := x.csrBit csrTcsr 16

/-- A tile register is written: its contents and check data, and UNG (R129). -/
def Hart.putTile (x : Hart) (t : Nat) (v : Tile) (ung : Bool) : Hart :=
  { x.putBit csrTcsr (4 + t) ung with tile := sset Tile.reset t v x.tile }

/-- An accumulator is written. -/
def Hart.putAcc (x : Hart) (a : Nat) (v : TAcc) : Hart := { x with tacc := sset TAcc.reset a v x.tacc }

/-- mstatus.SD and vsstatus.SD reflect FS, VS and XS (R90). -/
def Hart.syncSd (x : Hart) : Hart :=
  let dirty := fun (y : Hart) (n : Nat) => y.csrBits n 14 13 == 3 || y.csrBits n 16 15 == 3 || y.csrBits n 10 9 == 3
  let y := x.putBit csrMstatus 63 (dirty x csrMstatus)
  y.putBit csrVsstatus 63 (dirty y csrVsstatus)

/-- FS, VS or XS becomes Dirty: in mstatus, and in vsstatus too with V set, as the privileged architecture has it (R3). -/
def Hart.dirty (x : Hart) (hi lo : Nat) : Hart :=
  let y := x.putCsr csrMstatus hi lo 3
  (if x.virt then y.putCsr csrVsstatus hi lo 3 else y).syncSd

/-- XS becomes Dirty (R66). -/
def Hart.dirtyXs (x : Hart) : Hart := x.dirty 16 15

/-- Tile instructions and tile CSRs are usable: XS is not Off (R66). -/
def Hart.tileOn (x : Hart) : Bool := x.csrBits csrMstatus 16 15 != 0 && (!x.virt || x.csrBits csrVsstatus 16 15 != 0)

/-- fcsr, of which fflags is bits [4:0] and frm bits [7:5]. -/
def csrFcsr : Nat := 0x003

/-- Float flags are accumulated and FS becomes Dirty; while FS is Off they are discarded (R104). -/
def Hart.orFlags (x : Hart) (fl : Nat) : Hart :=
  let st := if x.virt then csrVsstatus else csrMstatus
  if x.csrBits st 14 13 = 0 then x
  else ((x.setCsr csrFcsr (x.getCsr csrFcsr ||| BitVec.ofNat 64 fl)).putCsr st 14 13 3).syncSd

-- outcomes

/-- What a tile instruction does: raises illegal-instruction, fails checks (setting SUSPECT of the listed accumulators), or
completes. -/
inductive TOut where
  | illegal
  | fail (fs : List TFail) (suspect : List Nat)
  | done (x : Hart)
  deriving DecidableEq, Repr

/-- The failing check that tfault reports (R138): the lowest KIND, then the lowest REG; of two with the same, an operand check, which stands
first (log entry 121, DESIGN CHOICE). -/
def worstFail : List TFail → TFail
  | [] => { kind := 0, reg := 0 }
  | f :: fs => fs.foldl (fun b g => if g.kind < b.kind ∨ (g.kind = b.kind ∧ g.reg < b.reg) then g else b) f

/-- tfault after a failure (R67, R135, R138). -/
def tfaultWord (fs : List TFail) : Word :=
  let w := worstFail fs
  BitVec.ofNat 64 (w.kind + 16 * w.reg + 256 * w.index + 2 ^ 13 * flag w.row + 2 ^ 16 * flag (1 < fs.length))

/-- An accumulator operand is suspect (R139): KIND 8 of the one with the lowest number. -/
def Hart.suspects (x : Hart) (l : List Nat) : List TFail :=
  match (List.range 4).find? (fun a => l.contains a && x.suspect a) with
  | some a => [{ kind := 8, reg := 8 + a }]
  | none => []

/-- A compute check of an operation on accumulator c fails in some of its n columns (R136 to R138): it counts once, with its lowest column.
KIND 4 is the column prediction of an integer operation, 5 and 6 are the residue check and the checksum lane of a float one. -/
def colFail (kind c n : Nat) (fails : Nat → Bool) : List TFail :=
  match (List.range n).find? fails with
  | some j => [{ kind := kind, reg := 8 + c, index := j }]
  | none => []

-- configuration, zeroing, checking, sums

/-- TCFG of a tile register and of an accumulator (R99, R129, R139). -/
def tcfgTile (x : Hart) (t : Nat) (v : Word) : TOut :=
  if cfgOk false v.toNat then .done ((x.putTile t (mkTile v.toNat (fun _ _ => 0)) false).dirtyXs) else .illegal
def tcfgAcc (x : Hart) (a : Nat) (v : Word) : TOut :=
  if cfgOk true v.toNat then
    .done (((x.putAcc a (mkAcc v.toNat (fun _ _ => 0))).putBit csrTcsr (12 + a) false).dirtyXs)
  else .illegal

/-- TZERO of a tile register and of an accumulator (R109, R129, R139, R463). -/
def tzeroTile (x : Hart) (t : Nat) : TOut :=
  .done ((x.putTile t (mkTile (x.tileAt t).word (fun _ _ => 0)) false).dirtyXs)
def tzeroAcc (x : Hart) (a : Nat) : TOut :=
  .done (((x.putAcc a (mkAcc (x.accAt a).word (fun _ _ => 0))).putBit csrTcsr (12 + a) false).dirtyXs)

/-- TCHK of a tile register and of an accumulator (R110, R135, R463). -/
def tchkTile (x : Hart) (t : Nat) : TOut :=
  match (x.tileAt t).check t 7 true with
  | some f => .fail [f] []
  | none => .done x
def tchkAcc (x : Hart) (a : Nat) : TOut :=
  match (x.accAt a).check (8 + a) 7 with
  | some f => .fail [f] []
  | none => .done x

/-- What TSUMS reads of a tile register (R111, R134): none is illegal-instruction. -/
def tsumsTileVal (t : Tile) (sel : Nat) : Option Word :=
  if sel = 64 then some t.cfg
  else if 64 ≤ sel then none
  else if t.word = 0 then some 0
  else if sel < 32 then some (if sel < cfgRows t.word then BitVec.ofInt 64 (sget 0 sel t.rowSum) else 0)
  else some (if sel - 32 < cfgCols t.word then BitVec.ofInt 64 (sget 0 (sel - 32) t.colSum) else 0)

/-- What TSUMS reads of an accumulator. -/
def tsumsAccVal (a : TAcc) (sel : Nat) : Option Word :=
  if sel = 64 then some a.cfg
  else if 64 ≤ sel ∨ sel < 32 then none
  else some (if a.word ≠ 0 ∧ sel - 32 < cfgCols a.word then BitVec.ofNat 64 (sget 0 (sel - 32) a.colSum) else 0)

/-- TSUMS writes rd (R111). -/
def tsums (x : Hart) (rd : Nat) (v : Option Word) : TOut :=
  match v with
  | some w => .done (x.setX rd w)
  | none => .illegal

-- multiply-accumulate

/-- Operands of TMMA and TMMAT agree (R100, R101). -/
def tmmaOk (trans : Bool) (a b c : Nat) : Bool :=
  cfgKind a != 0 && cfgKind b != 0 && cfgKind c != 0 && kindFloat (cfgKind a) == kindFloat (cfgKind b)
    && cfgKind c == (if kindFloat (cfgKind a) then 5 else 6) && cfgRows c == cfgRows a
    && (if trans then cfgCols b == cfgCols a && cfgCols c == cfgRows b
        else cfgRows b == cfgCols a && cfgCols c == cfgCols b)

/-- TMMA and TMMAT (R101 to R105, R135 to R139): `bl k j` is the element of B that meets column k of A for column j. -/
def tmma (x : Hart) (trans : Bool) (c a b : Nat) (bad : List (Nat × Nat)) : TOut :=
  let ta := x.tileAt a
  let tb := x.tileAt b
  let tc := x.accAt c
  let kc := cfgCols ta.word
  if !tmmaOk trans ta.word tb.word tc.word || (x.guarded && (x.ung a || x.ung b)) then .illegal
  else if x.suspect c then .fail (x.suspects [c]) []
  else
    let float := kindFloat (cfgKind ta.word)
    let el := fun k j => if trans then elAt tb.el j k else elAt tb.el k j
    let nc := cfgCols tc.word
    let operand := ([ta.check a 4 false].filterMap id ++ (if a = b then [] else [tb.check b 4 false].filterMap id))
      ++ [tc.check (8 + c) 4].filterMap id
    if float then
      let term := fun i j => (List.range kc).map (fun k =>
        (elemVal ta.word (elAt ta.el i k)).mul (elemVal tb.word (el k j)))
      let special := fun (cfg e : Nat) => match elemVal cfg e with
        | .fin _ _ => false
        | _ => true
      let aSpecial := ta.el.any (fun e => special ta.word e.2)
      let lane := fun (j : Nat) =>
        (List.range kc).foldl (fun acc k =>
            (acc + sget 0 k ta.lane * laneInt (cfgKind tb.word) (el k j)) % (laneMod : Int)) 0
          != (List.range kc).foldl (fun acc k =>
            (acc + laneOf ta.word ta.el k * laneInt (cfgKind tb.word) (el k j)) % (laneMod : Int)) 0
      let fails := operand ++ colFail 5 c nc (fun j => bad.contains (5, j)) ++ colFail 6 c nc (fun j =>
        !aSpecial && !(List.range kc).any (fun k => special tb.word (el k j)) && (lane j || bad.contains (6, j)))
      if fails ≠ [] then .fail fails [c]
      else
        let new := fun i j => accFloat (elAt tc.el i j) (term i j)
        let flags := (List.range (cfgRows tc.word * nc)).foldl (fun f k => f ||| (new (k / nc) (k % nc)).2) 0
        .done (((x.putAcc c (mkAcc tc.word (fun i j => (new i j).1))).orFlags flags).dirtyXs)
    else
      let ea := fun i k => elemInt (cfgKind ta.word) (elAt ta.el i k)
      let eb := fun k j => elemInt (cfgKind tb.word) (el k j)
      let sat := x.csrBit csrTcsr 0
      let s := fun i j => (List.range kc).foldl (fun acc k => acc + ea i k * eb k j) (0 : Int)
      let p := fun j => (List.range kc).foldl (fun acc k => acc + sget 0 k ta.colSum * eb k j) (0 : Int)
      let rb := fun k => if trans then sget 0 k tb.colSum else sget 0 k tb.rowSum
      let psum := (List.range nc).foldl (fun acc j => acc + p j) (0 : Int)
      let pref := (List.range kc).foldl (fun acc k => acc + sget 0 k ta.colSum * rb k) (0 : Int)
      let predicted := fun j => enc32 ((sget 0 j tc.colSum : Nat) + p j)
      let result := fun j => enc32 ((List.range (cfgRows tc.word)).foldl (fun acc i => acc + int32 (elAt tc.el i j) + s i j) 0)
      let predBad : List TFail :=
        if enc32 psum ≠ enc32 pref then [{ kind := 4, reg := 8 + c }]
        else colFail 4 c nc (fun j => result j != predicted j || bad.contains (4, j))
      let fails := operand ++ predBad
      if fails ≠ [] then .fail fails [c]
      else
        let new := fun i j => accInt sat (elAt tc.el i j) (s i j)
        .done ((x.putAcc c (mkAcc tc.word (fun i j => (new i j).1))).dirtyXs)

-- TADD

/-- TADD (R106, R137): the added register's configuration word, its element values as terms and integers, its predicted column
sums, its operand check; `suspectIn` lists the accumulators read. A column in which the added register holds NaN or infinity is not checked
by the checksum lane (log entry 120, DESIGN CHOICE). -/
def taddWith (x : Hart) (d : Nat) (float : Bool) (term : Nat → Nat → Val) (int : Nat → Nat → Int) (pred : Nat → Int)
    (check : List TFail) (suspectIn : List Nat) (bad : List (Nat × Nat)) : TOut :=
  let td := x.accAt d
  if x.suspects suspectIn ≠ [] then .fail (x.suspects suspectIn) []
  else
    let operand := check ++ [td.check (8 + d) 4].filterMap id
    let nc := cfgCols td.word
    if float then
      let special := fun (j : Nat) => (List.range (cfgRows td.word)).any (fun i => match term i j with
        | .fin _ _ => false
        | _ => true)
      let fails := operand ++ colFail 5 d nc (fun j => bad.contains (5, j))
        ++ colFail 6 d nc (fun j => !special j && bad.contains (6, j))
      if fails ≠ [] then .fail fails [d]
      else
        let new := fun i j => accFloat (elAt td.el i j) [some (term i j)]
        let flags := (List.range (cfgRows td.word * nc)).foldl (fun f k => f ||| (new (k / nc) (k % nc)).2) 0
        .done (((x.putAcc d (mkAcc td.word (fun i j => (new i j).1))).orFlags flags).dirtyXs)
    else
      let sat := x.csrBit csrTcsr 0
      let result := fun j => enc32 ((List.range (cfgRows td.word)).foldl (fun acc i => acc + int32 (elAt td.el i j) + int i j) 0)
      let fails := operand ++ colFail 4 d nc (fun j => result j != enc32 ((sget 0 j td.colSum : Nat) + pred j) || bad.contains (4, j))
      if fails ≠ [] then .fail fails [d]
      else
        .done ((x.putAcc d (mkAcc td.word (fun i j => (accInt sat (elAt td.el i j) (int i j)).1))).dirtyXs)

/-- TADD.AA (R100, R106). -/
def taddAa (x : Hart) (d s : Nat) (bad : List (Nat × Nat)) : TOut :=
  let td := x.accAt d
  let ts := x.accAt s
  if cfgKind td.word = 0 ∨ cfgKind ts.word = 0 ∨ cfgKind td.word ≠ cfgKind ts.word ∨ cfgRows td.word ≠ cfgRows ts.word
      ∨ cfgCols td.word ≠ cfgCols ts.word then .illegal
  else
    taddWith x d (cfgKind td.word == 5) (fun i j => valF32 (elAt ts.el i j)) (fun i j => int32 (elAt ts.el i j))
      (fun j => (sget 0 j ts.colSum : Nat)) (if s = d then [] else [ts.check (8 + s) 4].filterMap id) [d, s] bad

/-- TADD.AT (R100, R106, R130). -/
def taddAt (x : Hart) (d s : Nat) (bad : List (Nat × Nat)) : TOut :=
  let td := x.accAt d
  let ts := x.tileAt s
  if cfgKind td.word = 0 ∨ cfgKind ts.word = 0 ∨ cfgKind td.word ≠ (if kindFloat (cfgKind ts.word) then 5 else 6)
      ∨ cfgRows td.word ≠ cfgRows ts.word ∨ cfgCols td.word ≠ cfgCols ts.word ∨ (x.guarded ∧ x.ung s) then .illegal
  else
    taddWith x d (cfgKind td.word == 5) (fun i j => elemVal ts.word (elAt ts.el i j))
      (fun i j => elemInt (cfgKind ts.word) (elAt ts.el i j)) (fun j => sget 0 j ts.colSum)
      ([ts.check s 4 false].filterMap id) [d] bad

-- TCVT

/-- The rounding mode of a TCVT: rrr, or frm where rrr is 7; none is illegal-instruction (R98, R100). -/
def Hart.tcvtMode (x : Hart) (rrr : Nat) : Option Nat :=
  if rrr < 5 then some rrr
  else if rrr = 7 then (let m := x.csrBits csrFcsr 7 5; if m < 5 then some m else none)
  else none

/-- TCVT (R100, R107, R108, R138). -/
def tcvt (x : Hart) (t a rs1 rrr : Nat) : TOut :=
  let d := x.tileAt t
  let s := x.accAt a
  let sh := (x.xr rs1).toInt
  match x.tcvtMode rrr with
  | none => .illegal
  | some rm =>
    if cfgKind d.word = 0 ∨ cfgKind s.word = 0 ∨ sh < -64 ∨ 63 < sh then .illegal
    else if x.suspect a then .fail (x.suspects [a]) []
    else
      match s.check (8 + a) 4 with
      | some f => .fail [f] [a]
      | none =>
        let k := cfgKind d.word
        let float := kindFloat k
        let f32 := cfgKind s.word == 5
        let v := fun i j => if f32 then valF32 (elAt s.el i j) else valInt (int32 (elAt s.el i j))
        let new := fun i j => if float then cvtFloat (k == 1) rm ((v i j).scale (-sh))
          else cvtInt (k == 3) f32 rm ((v i j).scale (-sh))
        let cfg := cfgWithScale (k + s.word / 2 ^ 16 * 2 ^ 16) (if float then sh else 0)
        let nc := cfgCols s.word
        let flags := (List.range (cfgRows s.word * nc)).foldl (fun f n => f ||| (new (n / nc) (n % nc)).2) 0
        let y := x.putTile t (mkTile cfg (fun i j => (new i j).1)) false
        .done ((if float || f32 then y.orFlags flags else y).dirtyXs)

-- encodings

/-- An R-type encoding (R96, R97). -/
def encR (f7 rs2 rs1 f3 rd op : Nat) : Nat :=
  f7 * 2 ^ 25 + rs2 * 2 ^ 20 + rs1 * 2 ^ 15 + f3 * 2 ^ 12 + rd * 2 ^ 7 + op

end Sys2Proof.Machine

namespace Sys2Proof

open Sys2Proof.Machine (encR)

/-- The bits of a tile instruction (R96, R97), which an illegal-instruction exception writes to xtval (R98). -/
def Instr.tileBits : Instr → Nat
  | .tmma _ c a b _ => encR 0 b a 0 c 0x0B
  | .tmmat _ c a b _ => encR 1 b a 0 c 0x0B
  | .taddAa _ d s _ => encR 2 s 0 0 d 0x0B
  | .taddAt _ d s _ => encR 3 s 0 0 d 0x0B
  | .tzeroTile _ t => encR 4 0 0 0 t 0x0B
  | .tzeroAcc _ a => encR 5 0 0 0 a 0x0B
  | .tchkTile _ t => encR 6 0 0 0 t 0x0B
  | .tchkAcc _ a => encR 7 0 0 0 a 0x0B
  | .tcfgTile _ t rs1 => encR 0 0 rs1 1 t 0x0B
  | .tcfgAcc _ a rs1 => encR 1 0 rs1 1 a 0x0B
  | .tsumsTile _ rd t rs1 => encR 0 t rs1 2 rd 0x0B
  | .tsumsAcc _ rd a rs1 => encR 1 a rs1 2 rd 0x0B
  | .tcvt _ t a rs1 rm => encR rm a rs1 3 t 0x0B
  | .tload _ t rs1 rs2 => encR 0 rs2 rs1 0 t 0x2B
  | .tstore _ t rs1 rs2 => encR 0 rs2 rs1 1 t 0x2B
  | .tloadu _ t rs1 rs2 => encR 0 rs2 rs1 2 t 0x2B
  | .tstoreu _ t rs1 rs2 => encR 0 rs2 rs1 3 t 0x2B
  | .tsave _ rs1 => encR 0 0 rs1 4 0 0x2B
  | .trestore _ rs1 => encR 0 0 rs1 5 0 0x2B
  | _ => 0

end Sys2Proof

namespace Sys2Proof.Machine

/-- The tile instruction of hart h that a word of custom-0 or custom-1 spells (R96, R97); none for every other word of the two (R98): a
non-zero bit where the tables show 0, a register the unit does not have, and an rrr of 5 or 6 among them. -/
def tileDecode (h w : Nat) : Option Instr :=
  let d := bits w 11 7
  let a := bits w 19 15
  let b := bits w 24 20
  let f7 := bits w 31 25
  let t := fun (n : Nat) => n < 8
  let acc := fun (n : Nat) => n < 4
  let i : Option (Instr × Bool) := match w % 128, bits w 14 12, f7 with
    | 0x0B, 0, 0 => some (.tmma h d a b [], acc d && t a && t b)
    | 0x0B, 0, 1 => some (.tmmat h d a b [], acc d && t a && t b)
    | 0x0B, 0, 2 => some (.taddAa h d b [], acc d && acc b)
    | 0x0B, 0, 3 => some (.taddAt h d b [], acc d && t b)
    | 0x0B, 0, 4 => some (.tzeroTile h d, t d)
    | 0x0B, 0, 5 => some (.tzeroAcc h d, acc d)
    | 0x0B, 0, 6 => some (.tchkTile h d, t d)
    | 0x0B, 0, 7 => some (.tchkAcc h d, acc d)
    | 0x0B, 1, 0 => some (.tcfgTile h d a, t d)
    | 0x0B, 1, 1 => some (.tcfgAcc h d a, acc d)
    | 0x0B, 2, 0 => some (.tsumsTile h d b a, t b)
    | 0x0B, 2, 1 => some (.tsumsAcc h d b a, acc b)
    | 0x0B, 3, rm => some (.tcvt h d b a rm, t d && acc b && rm < 8 && rm != 5 && rm != 6)
    | 0x2B, 0, 0 => some (.tload h d a b, t d)
    | 0x2B, 1, 0 => some (.tstore h d a b, t d)
    | 0x2B, 2, 0 => some (.tloadu h d a b, t d)
    | 0x2B, 3, 0 => some (.tstoreu h d a b, t d)
    | 0x2B, 4, 0 => some (.tsave h a, true)
    | 0x2B, 5, 0 => some (.trestore h a, true)
    | _, _, _ => none
  (i.filter (fun x => x.2 && x.1.tileBits == w)).map (fun x => x.1)

/-- An instruction word of custom-0 or custom-1 that spells no tile instruction (R98). -/
def tileUndefined (w : Nat) : Bool := (w % 128 == 0x0B || w % 128 == 0x2B) && (tileDecode 0 w).isNone

/-- The steps a tile instruction takes (R101, R106, R107, R109, R110); one that moves data takes none. -/
def Hart.tileSteps (x : Hart) : Instr → Nat
  | .tmma _ _ a _ _ | .tmmat _ _ a _ _ => cfgCols (x.tileAt a).word
  | .taddAa _ _ _ _ | .taddAt _ _ _ _ | .tcvt _ _ _ _ _ => 8
  | .tchkTile _ _ => 16
  | .tchkAcc _ _ => 32
  | _ => 1

/-- A tile instruction is sent (R116) and counted as held by the unit until it completes. -/
def Chip.tileSent (c : Chip) (h steps : Nat) : Chip := c.onHart h (fun x => { x with tsent := x.tsent ++ [steps] })

/-- A tile instruction traps on failed checks (R67, R135, R138, R141): tfault, SUSPECT, the report under the die's tile
integrity or tile compute source, and cause 24 or 25. A cause-24 report carries the access type of a tile load, that of TCHK too (log entry
122, DESIGN CHOICE). -/
def Chip.tileFail (c : Chip) (h : Nat) (fs : List TFail) (suspect : List Nat) (xtval : Word) : Chip :=
  let w := worstFail fs
  let integrity := w.kind == 1 || w.kind == 2 || w.kind == 3 || w.kind == 7
  let d := hartDie h
  let c1 := c.onHart h (fun x => (suspect.foldl (fun y a => y.putBit csrTcsr (12 + a) true)
    (x.setCsr csrTfault (tfaultWord fs))).dirtyXs)
  let c2 := c1.report (unitDie d) (64 + 12 * d + flag (!integrity)) h (c.hart h).world (if integrity then 4 else 14)
    (w.kind + 16 * w.reg) xtval.toNat
  c2.except h (if integrity then 24 else 25) xtval

/-- A register-to-register tile instruction is performed (R66, R98, R116, R117). -/
def Chip.tileRun (c : Chip) (h : Nat) (i : Instr) (f : Hart → TOut) : Chip :=
  let x := c.hart h
  if !x.tileOn then c.except h 2 (BitVec.ofNat 64 i.tileBits)
  else
    match f x with
    | .illegal => c.except h 2 (BitVec.ofNat 64 i.tileBits)
    | .fail fs suspect => c.tileFail h fs suspect 0
    | .done y => (c.setHart h y).tileSent h (x.tileSteps i)

end Sys2Proof.Machine
end

