-- ==== Sys2Proof/Machine/Predict.lean ====
section
/-! DEFINITION. The predictors of a core (R68 to R72): what they hold for the hart's world and context, when they are trained, what they
predict, and the events they count (R73). They change no architectural result (R69). -/

namespace Sys2Proof.Machine

-- streams

/-- The addresses of the misses that match the hart's current world and context hash (R68). -/
def Hart.mine (x : Hart) (l : List MissAt) : List Nat :=
  (l.filter (fun e => e.world == x.world && e.hash == x.ctxHash)).map (fun e => e.addr)

/-- The address a stream expects an access at in the next page: the first one it reaches beyond its own (R72). -/
def Stream.resumesAt (s : Stream) (a : Nat) : Bool :=
  let k := ((a : Int) - s.last) / s.stride
  s.stride != 0 && s.last + k * s.stride == (a : Int) && 1 ≤ k && a / 4096 != s.last / 4096
    && (s.last + (k - 1) * s.stride) / 4096 == ((s.last / 4096 : Nat) : Int)

/-- A stream is the hart's own (R68). -/
def Hart.owns (x : Hart) (s : Stream) : Bool := s.world == x.world && s.hash == x.ctxHash

/-- A demand access carries a stream of the hart on into the next page (R72). -/
def Hart.carryOn (x : Hart) (a : Nat) (l : List Stream) : List Stream :=
  l.map (fun s => if x.owns s && s.resumesAt a then { s with last := a } else s)

/-- The stride of a miss at `a` that two earlier ones of its page share (R71): their addresses, latest first. -/
def strideOf (a : Nat) (l : List Nat) : Option Int :=
  l.findSome? (fun (b : Nat) =>
    let s : Int := (a : Int) - b
    if s != 0 && l.any (fun (d : Nat) => (b : Int) - d == s) then some s else none)

/-- The longest run in one direction that ends at a miss: three earlier misses in order, latest first. -/
def risesTo (up : Bool) (a : Nat) : Nat → List Nat → Bool
  | 0, _ => true
  | n + 1, l =>
    match l with
    | [] => false
    | b :: bs => ((if up then b < a else a < b) && risesTo up b n bs) || risesTo up a (n + 1) bs

/-- A stream is trained unless the hart has it: the prefetcher keeps n, the latest first. -/
def Hart.train (x : Hart) (n : Nat) (s : Stream) (l : List Stream) : List Stream :=
  if l.any (fun t => x.owns t && t.stride == s.stride && t.last / 4096 == s.last / 4096) then l else s :: l.take (n - 1)

/-- A demand miss of L1D at an address trains the stride prefetcher (R71): three misses with one stride in one page. The latest 4,096 misses
are kept, and others may stand between the three (log entry 119, DESIGN CHOICE). -/
def Hart.l1dTrain (x : Hart) (a : Nat) : Hart :=
  let page := (x.mine x.l1dMiss).filter (fun b => b / 4096 == a / 4096)
  let y : Hart := { x with l1dMiss := { world := x.world, hash := x.ctxHash, addr := a } :: x.l1dMiss.take 4095 }
  match strideOf a page with
  | some s => { y with l1dStreams := x.train 64 { world := x.world, hash := x.ctxHash, stride := s, last := a } x.l1dStreams }
  | none => y

/-- A demand miss of L2 at a line trains the stream prefetcher (R71): four misses in ascending or descending order in one page. The latest
2,048 misses are kept, and others may stand between the four (log entry 119, DESIGN CHOICE). -/
def Hart.l2Train (x : Hart) (line : Nat) : Hart :=
  let page := (x.mine x.l2Miss).filter (fun b => b / 64 == line / 64)
  let y : Hart := { x with l2Miss := { world := x.world, hash := x.ctxHash, addr := line } :: x.l2Miss.take 2047 }
  let add := fun (s : Int) => { y with
    l2Streams := x.train 32 { world := x.world, hash := x.ctxHash, stride := s, last := line * 64 } x.l2Streams }
  if risesTo true line 3 page then add 64 else if risesTo false line 3 page then add (-64) else y

/-- A trained stream of the hart reaches `next` from its page (R72): in steps of its stride, in the page of `pa`. -/
def Hart.streamTrained (x : Hart) (pa next : Nat) : Bool :=
  (x.l1dStreams ++ x.l2Streams).any (fun s => x.owns s && s.last / 4096 == pa / 4096 && s.stride != 0
    && 1 ≤ ((next : Int) - s.last) / s.stride && s.last + ((next : Int) - s.last) / s.stride * s.stride == (next : Int))

-- what an instruction is, to the predictors

/-- The classes of an instruction that decide what is fetched next: a conditional branch and its target, a JAL and its target, a JALR; a
call pushes and a return pops (the link registers of the RISC-V manual). -/
inductive Flow where
  | none
  | branch (target : Nat)
  | jal (target : Nat) (call : Bool)
  | jalr (call ret : Bool)
  deriving DecidableEq, Repr

/-- An instruction of four bytes: its two lowest bits are set. -/
def isWide (w : Nat) : Bool := w % 4 == 3

/-- The address a number of n bits beyond pc, as a signed offset. -/
def offsetBy (pc n v : Nat) : Nat := (pc + v + (if v.testBit (n - 1) then 2 ^ 64 - 2 ^ n else 0)) % 2 ^ 64

/-- A link register. -/
def isLink (r : Nat) : Bool := r == 1 || r == 5

/-- The class of an instruction word at an address (RV64GC, R60). -/
def flowOf (pc w : Nat) : Flow :=
  let rd := bits w 11 7
  let rs1 := bits w 19 15
  if isWide w then
    match w % 128 with
    | 0x63 => .branch (offsetBy pc 13 (bits w 11 8 * 2 + bits w 30 25 * 32 + bits w 7 7 * 2048 + bits w 31 31 * 4096))
    | 0x6F => .jal (offsetBy pc 21 (bits w 30 21 * 2 + bits w 20 20 * 2048 + bits w 19 12 * 4096 + bits w 31 31 * 2 ^ 20)) (isLink rd)
    | 0x67 => .jalr (isLink rd) (isLink rs1 && !(isLink rd && rd == rs1))
    | _ => .none
  else
    match w % 4, bits w 15 13 with
    | 1, 5 => .jal (offsetBy pc 12 (bits w 5 3 * 2 + bits w 11 11 * 16 + bits w 2 2 * 32 + bits w 7 7 * 64 + bits w 6 6 * 128
        + bits w 10 9 * 256 + bits w 8 8 * 1024 + bits w 12 12 * 2048)) false
    | 1, 6 | 1, 7 => .branch (offsetBy pc 9 (bits w 4 3 * 2 + bits w 11 10 * 8 + bits w 2 2 * 32 + bits w 6 5 * 64
        + bits w 12 12 * 256))
    | 2, 4 =>
      if bits w 6 2 = 0 ∧ rd ≠ 0 then (if bits w 12 12 = 0 then .jalr false (isLink rd) else .jalr true (rd == 5)) else .none
    | _, _ => .none

-- branches

/-- The direction the predictors give a branch: the loop predictor's exit, else the direction entry, else not taken (R71). -/
def Hart.directionOf (x : Hart) (pc : Nat) : Option Bool :=
  let hit := fun (w h p : Nat) => w == x.world && h == x.ctxHash && p == pc
  match x.pred.loops.find? (fun e => hit e.world e.hash e.pc) with
  | some e =>
    if 2 ≤ e.same && e.count + 1 == e.trip then some false
    else (x.pred.dir.find? (fun d => hit d.world d.hash d.pc)).map (fun d => d.taken)
  | none => (x.pred.dir.find? (fun d => hit d.world d.hash d.pc)).map (fun d => d.taken)

/-- The target entry of a branch or jump. -/
def Hart.targetOf (x : Hart) (pc : Nat) : Option Nat :=
  (x.pred.tgt.find? (fun e => e.world == x.world && e.hash == x.ctxHash && e.pc == pc)).map (fun e => e.target)

/-- The direction entry of a branch is allocated at its first misprediction (R71); a later one leaves the direction a free value gives. -/
def Hart.noteDirection (x : Hart) (pc : Nat) (taken again : Bool) : Hart :=
  let mine := fun (e : DirectionEntry) => e.world == x.world && e.hash == x.ctxHash && e.pc == pc
  let d := x.pred.dir
  let new : List DirectionEntry :=
    if d.any mine then d.map (fun e => if mine e then { e with taken := again } else e)
    else { world := x.world, hash := x.ctxHash, pc := pc, taken := taken } :: d.take 16383
  { x with pred := { x.pred with dir := new } }

/-- The target entry of a taken branch or jump is allocated when it resolves (R71). -/
def Hart.noteTarget (x : Hart) (pc target : Nat) : Hart :=
  let others := x.pred.tgt.filter (fun e => !(e.world == x.world && e.hash == x.ctxHash && e.pc == pc))
  { x with pred := { x.pred with tgt := { world := x.world, hash := x.ctxHash, pc := pc, target := target } :: others.take 8191 } }

/-- A conditional branch that closes a loop trains the loop predictor (R71): each taken one is an iteration, and one not taken completes
an execution of the loop. -/
def Hart.noteLoop (x : Hart) (pc : Nat) (taken : Bool) : Hart :=
  let mine := fun (e : LoopEntry) => e.world == x.world && e.hash == x.ctxHash && e.pc == pc
  let old := (x.pred.loops.find? mine).getD { world := x.world, hash := x.ctxHash, pc := pc, count := 0, trip := 0, same := 0 }
  let new : LoopEntry :=
    if taken then { old with count := old.count + 1 }
    else { old with count := 0, trip := old.count + 1, same := if old.trip = old.count + 1 then old.same + 1 else 1 }
  { x with pred := { x.pred with loops := new :: (x.pred.loops.filter (fun e => !mine e)).take 127 } }

/-- A call puts its return address on the return stack of 64 entries; a return takes the top one off. -/
def Hart.push (x : Hart) (addr : Nat) : Hart :=
  { x with pred := { x.pred with ras := { world := x.world, hash := x.ctxHash, addr := addr } :: x.pred.ras.take 63 } }
def Hart.pop (x : Hart) : Hart := { x with pred := { x.pred with ras := x.pred.ras.tail } }

/-- The top of the return stack predicts a return, if it is the hart's own (R68). -/
def Hart.returnTo (x : Hart) : Option Nat :=
  (x.pred.ras.head?.filter (fun e => e.world == x.world && e.hash == x.ctxHash)).map (fun e => e.addr)

/-- A conditional branch at pc resolves: its lookups are counted (R73), and it trains the predictors. -/
def Chip.branchResolved (c : Chip) (h pc target next : Nat) (taken : Bool) : Chip :=
  let x := c.hart h
  let guess := x.directionOf pc
  let wrong : Bool := guess.getD false != taken
  let c1 := if guess.isNone then c.countEvent h 0x11 else c
  let c2 := if taken && (x.targetOf pc).isNone then c1.countEvent h 0x12 else c1
  let c3 := if wrong then (c2.countEvent h 0x10).nextFree.onHart h (fun y => y.noteDirection pc taken (Config.redirected c.free)) else c2
  let c4 := if taken then c3.onHart h (fun y => y.noteTarget pc next) else c3
  if target < pc then c4.onHart h (fun y => y.noteLoop pc taken) else c4

/-- A return resolves: it is counted when the return stack was empty or wrong (R73). -/
def Chip.returnResolved (c : Chip) (h next : Nat) : Chip :=
  let c1 := if (c.hart h).returnTo = some next then c else c.countEvent h 0x13
  c1.onHart h Hart.pop

/-- The hart fetches at `next`: the instruction fetched before it has resolved, and trains the predictors. -/
def Chip.resolve (c : Chip) (h next : Nat) : Chip :=
  match (c.hart h).fetched with
  | none => c
  | some (pc, w) =>
    let seq := (pc + (if isWide w then 4 else 2)) % 2 ^ 64
    match flowOf pc w with
    | .none => c
    | .branch target => c.branchResolved h pc target next (next != seq)
    | .jal _ call =>
      let c1 := c.onHart h (fun y => y.noteTarget pc next)
      if call then c1.onHart h (fun y => y.push seq) else c1
    | .jalr call ret =>
      let c1 := if ret then c.returnResolved h next else c
      let c2 := c1.onHart h (fun y => y.noteTarget pc next)
      if call then c2.onHart h (fun y => y.push seq) else c2

end Sys2Proof.Machine
end

