-- ==== Sys2Proof/Machine/Translate.lean ====
section
/-! DEFINITION. How a hart reaches a line (L2 hit, write-back buffer, snoop filter, landing cache, home: R148, R167, R175,
R194), and how it forms the physical address: PMP (R60), Sv39, Sv48, Sv57 and the second stages of the hypervisor
extension (R3, R60), whose walks are requests of the hart (R65, R274). -/

namespace Sys2Proof.Machine

-- reaching a line

/-- What reaching a line gives: the line, a wait for a message, or a refusal with the CHECK code (0 when no world check
made it) and the POT entry. -/
inductive Acq where
  | ready (l : L2Line)
  | wait
  | refused (check entry : Nat)
  deriving DecidableEq, Repr

/-- What the access needs of the line: to read it, to own it, or to own it without its data (cbo.zero). -/
inductive Want where
  | read
  | own
  | zero
  deriving DecidableEq, Repr

/-- A request of a hart carries its requester ID, world and label (R65, R274). -/
def Chip.hartMsg (c : Chip) (h : Nat) (k : MsgKind) (line acc : Nat) : Msg :=
  { kind := k, die := hartDie h, line := line, rid := h, world := (c.hart h).world, label := (c.hart h).label
    acc := acc }

/-- The die has a request outstanding for a line (R175). -/
def Chip.missOf (c : Chip) (d line : Nat) : Option Miss := c.miss.find? (fun m => m.req.die == d && m.req.line == line)

/-- Send a request of a die to the home, unless the die has one outstanding for the line (R175) or no transaction tag is free (R181). `h` is
the hart, or for the die's CME a number that no hart has. -/
def Chip.sendMiss (c : Chip) (h : Nat) (m : Msg) : Chip :=
  if (c.missOf m.die m.line).isSome then c
  else
    match c.freeTag m.die with
    | none => c
    | some t =>
      let m := { m with tag := t }
      let c1 := ({ c with miss := c.miss ++ [{ req := m, h := h, comp := none, data := none, fwd := none }] } : Chip).issue m
      if h < 288 then c1.countEvent h 0x23 else c1

/-- A hit by another world than the line's is held while the home checks it (R148); the check is one of the die's transactions (R181). -/
def Chip.sendCheck (c : Chip) (h line acc : Nat) : Chip :=
  if c.wchk.any (fun w => w.1 == h && w.2.1 == line) then c
  else
    match c.freeTag (hartDie h) with
    | none => c
    | some t => ({ c with wchk := c.wchk ++ [(h, line, t)] } : Chip).issue { c.hartMsg h .WCHK line acc with tag := t }

/-- A write-back that has not been sent is cancelled: the line returns to its L2 in the state it had (R167), which gives up another where
its set has been filled since; none while none of these may leave. -/
def Chip.cancelWb (c : Chip) (e : WbEntry) : Option Chip :=
  (({ c with wb := c.wb.filter (fun x => x != e) } : Chip).roomFor e.h e.line).map (fun x => x.l2Put e.h e.line
    { st := e.st, world := e.world, data := e.data, poison := e.poison, hold := none, pinned := false })

/-- Every L2 copy of a line on a die but that of hart h leaves. -/
def Chip.dropOthers (c : Chip) (h line : Nat) : Chip :=
  ((c.holders (hartDie h) line).filter (· != h)).foldl (fun x s => x.dropL2 s line) c

/-- The strongest L2 copy of a line on a die: the hart that has it. -/
def Chip.bestHolder (c : Chip) (d line : Nat) : Option Nat :=
  (c.holders d line).foldl (fun b s => match b with
    | none => some s
    | some t => if (c.l2at t line).st.rank < (c.l2at s line).st.rank then some s else some t) none

/-- A miss in the hart's own L2, after its write-back buffer has been looked at: the snoop filter serves it from a sibling
L2 or the landing cache, or one request goes to the home (R175). A sibling's line in E becomes S, and the landing copy, which has the
same data, is unshadowed (log entry 91, DESIGN CHOICE: R150 names no such case). What a sibling or the landing cache would supply waits for
room in the L2 (R147). -/
def Chip.missAt (c : Chip) (h line : Nat) (want : Want) (acc rkind : Nat) : Chip × Acq :=
  let d := hartDie h
  let w := (c.hart h).world
  let sib := c.bestHolder d line
  let sl := match sib with
    | some s => c.l2at s line
    | none => L2Line.invalid
  if (c.missOf d line).isSome then (c, .wait)
  else if c.held sl then (c, .wait)
  else if want = .read ∧ sl.st ≠ .I then
    if sl.world ≠ w then (c.sendCheck h line acc, .wait)
    else if !c.l2HasRoom h line then (c, .wait)
    else
      let c1 := c.dieMap d line (fun s => match s with | .M => .O | .E => .S | x => x)
      let c2 := c1.lndUnshadow d line
      let c3 := c2.installL2 h line .S w sl.data sl.poison
      (c3, .ready (c3.l2at h line))
  else if want ≠ .read ∧ (sl.st = .E ∨ sl.st = .M) then
    if sl.world ≠ w then (c.sendCheck h line acc, .wait)
    else if !c.l2HasRoom h line then (c, .wait)
    else
      let c1 := ((c.dropOthers h line).lndInval d line).installL2 h line .M w sl.data sl.poison
      (c1, .ready (c1.l2at h line))
  else
    match (if want = .read then c.lndLive d line else none) with
    | some x =>
      if x.world ≠ w then (c.sendCheck h line acc, .wait)
      else if !c.l2HasRoom h line then (c, .wait)
      else
        let c1 := ((c.countEvent h 0x22).useWay (.lnd d) (line % 32768) x.way).installL2 h line .S w x.data x.poison
        (c1, .ready (c1.l2at h line))
    | none =>
      let has := sl.st != .I || (c.lndLive d line).isSome
      let k : MsgKind := match want with
        | .read => .RD_SHARED
        | .own => if has then .UPGRADE else .RD_OWN
        | .zero => .RD_OWN_ZERO
      (c.sendMiss h { c.hartMsg h k line acc with rkind := rkind }, .wait)

/-- A write-back of a die for a line stands in the way of a request that needs more than the die's L2s give (R167, R194): while it has been
sent, the request waits for its acknowledgement; else it is cancelled, and the request goes on. -/
def Chip.pastWb (c : Chip) (d line : Nat) (k : Chip → Chip × Acq) : Chip × Acq :=
  match c.wbAny d line with
  | none => k c
  | some e =>
    if e.sent || e.superseded then (c, .wait)
    else
      match c.cancelWb e with
      | none => (c, .wait)
      | some c1 => k c1

/-- A demand access of a hart meets L2 (R71 to R73): it carries the streams of the L2 prefetcher on into the next page; the first time an
access waits or misses it is counted, and trains. A prefetch is none. -/
def Chip.noteDemand (c : Chip) (h line : Nat) : Chip :=
  let miss : Bool := (c.l2at h line).st == .I && !(c.hart h).awaits.contains line
  (if miss then c.countEvent h 0x21 else c).onHart h (fun x =>
    let y : Hart := { x with l2Streams := x.carryOn (line * 64) x.l2Streams, awaits := addOnce line x.awaits }
    if miss then y.l2Train line else y)

/-- An access of a hart has its line. -/
def Chip.gotLine (c : Chip) (h line : Nat) : Chip := c.onHart h (fun x => { x with awaits := x.awaits.filter (· != line) })

/-- A request of a hart for a line in its L2 or beyond: an L2 hit by the line's own world is served at once (R148), a store hit in E
becomes M (R147), one in S or O asks for UPGRADE, and a cbo.zero for ownership without data (R158); a miss meets the write-back buffer first
(R167, R194). -/
def Chip.seek (c : Chip) (h line : Nat) (want : Want) (acc rkind : Nat) : Chip × Acq :=
  let l := c.l2at h line
  if l.st ≠ .I then
    if l.world ≠ (c.hart h).world then (c.sendCheck h line acc, .wait)
    else if want = .read then (c.useL2 h line, .ready l)
    else if l.st = .E ∨ l.st = .M then
      let c1 := (c.setL2 h line { l with st := .M }).useL2 h line
      (c1, .ready (c1.l2at h line))
    else c.pastWb (hartDie h) line (fun c1 => (c1.sendMiss h (c1.hartMsg h (if want = .zero then .RD_OWN_ZERO else .UPGRADE) line acc), .wait))
  else
    c.pastWb (hartDie h) line (fun c1 =>
      let own := c1.l2at h line
      if own.st = .I then c1.missAt h line want acc rkind
      else if own.world ≠ (c.hart h).world then (c1.sendCheck h line acc, .wait)
      else if want = .read ∨ own.st = .M then (c1, .ready own)
      else (c1.sendMiss h (c1.hartMsg h (if want = .zero then .RD_OWN_ZERO else .UPGRADE) line acc), .wait))

/-- A demand access of a hart reaches a line of main memory: it takes a refusal that has come for it (R64), or seeks the line. -/
def Chip.reach (c : Chip) (h line : Nat) (want : Want) (acc rkind : Nat) : Chip × Acq :=
  match (c.hart h).refusal.filter (fun r => r.1 == line) with
  | some (_, check, entry) => (c.onHart h (fun x => { x with refusal := none }), .refused check entry)
  | none =>
    let r := (c.noteDemand h line).seek h line want acc rkind
    match r.2 with
    | .ready l => (r.1.gotLine h line, .ready l)
    | x => (r.1, x)

-- physical memory protection

/-- pmpcfg of entry i, and its address register. -/
def Hart.pmpCfg (x : Hart) (i : Nat) : Nat := bits (x.getCsr (0x3A0 + 2 * (i / 8))).toNat (8 * (i % 8) + 7) (8 * (i % 8))
def Hart.pmpAddr (x : Hart) (i : Nat) : Nat := (x.getCsr (0x3B0 + i)).toNat % 2 ^ 54

/-- The number of one bits at the bottom of a number, at most 54. -/
def trailingOnes (n : Nat) : Nat := ((List.range 54).takeWhile (fun i => n.testBit i)).length

/-- The bytes a PMP entry covers: first and first beyond; TOR and NAPOT, on the 4 KiB granularity of R60. -/
def Hart.pmpRange (x : Hart) (i : Nat) : Option (Nat × Nat) :=
  match bits (x.pmpCfg i) 4 3 with
  | 1 => some ((if i = 0 then 0 else x.pmpAddr (i - 1) / 1024 * 4096), x.pmpAddr i / 1024 * 4096)
  | 3 =>
    let a := x.pmpAddr i ||| 511
    let k := trailingOnes a
    some (a / 2 ^ k * 2 ^ (k + 2), (a / 2 ^ k + 1) * 2 ^ (k + 2))
  | _ => none

/-- PMP admits an access of n bytes at pa by privilege `priv`: acc 0 fetch, 1 load, 2 store. The first entry that matches
any byte decides; an M-mode access that none matches is admitted. -/
def Hart.pmpOk (x : Hart) (pa n priv acc : Nat) : Bool :=
  match (List.range 16).find? (fun i => match x.pmpRange i with
      | some (lo, hi) => lo < pa + n && pa < hi
      | none => false) with
  | none => priv == 3
  | some i =>
    let cfg := x.pmpCfg i
    let whole := match x.pmpRange i with
      | some (lo, hi) => lo ≤ pa && pa + n ≤ hi
      | none => false
    whole && ((priv == 3 && !cfg.testBit 7) || cfg.testBit (if acc = 0 then 2 else if acc = 1 then 0 else 1))

-- translation

/-- The outcome of a translation. -/
inductive Xlate where
  | pa (a : Nat)
  | wait
  | trap (t : TrapInfo)
  deriving DecidableEq, Repr

/-- The exception of an access type (0 fetch, 1 load, 2 store or AMO). -/
def accessFault (acc : Nat) : Nat := if acc = 0 then 1 else if acc = 1 then 5 else 7
def pageFault (acc : Nat) : Nat := if acc = 0 then 12 else if acc = 1 then 13 else 15
def guestPageFault (acc : Nat) : Nat := if acc = 0 then 20 else if acc = 1 then 21 else 23
def misalignedFault (acc : Nat) : Nat := if acc = 0 then 0 else if acc = 1 then 4 else 6

/-- The ACC code of R203 of an access type. -/
def accCode (acc : Nat) : Nat := if acc = 0 then 2 else if acc = 1 then 0 else 1

/-- A refused access (R64): an access fault that carries the CHECK, the entry and the hall; CHECK 0 is a refusal of
another origin. -/
def refusalTrap (acc : Nat) (va : Word) (check entry hall : Nat) : TrapInfo :=
  { cause := accessFault acc, tval := va, check := if check = 0 then none else some (check, entry, hall) }

/-- Consuming poison (R318): cause 19, reported under the poison-consumed source of the die. -/
def Chip.poisonTrap (c : Chip) (h addr acc : Nat) (va : Word) : Chip × TrapInfo :=
  (c.report (unitDie (hartDie h)) (64 + 12 * hartDie h + 10) h (c.hart h).world acc 0 addr, { cause := 19, tval := va })

/-- An address refusal of a hart (R26). -/
def Chip.hartRefusal (c : Chip) (h acc addr : Nat) : Chip :=
  c.report (unitDie (hartDie h)) 12 h (c.hart h).world acc 0 addr

/-- A page-table entry is read from memory: a walk is a request of the hart (R65, R274). -/
def Chip.readPte (c : Chip) (h pa acc : Nat) (va : Word) : Chip × Option (Nat ⊕ TrapInfo) :=
  let x := c.hart h
  if !x.pmpOk pa 8 1 1 then (c, some (.inr { cause := accessFault acc, tval := va }))
  else if !(c.region pa).homed then
    (c.hartRefusal h 3 pa, some (.inr { cause := accessFault acc, tval := va }))
  else
    let r := c.reach h (pa / 64) .read 3 2
    match r.2 with
    | .wait => (r.1, none)
    | .refused check entry => (r.1, some (.inr (refusalTrap acc va check entry (c.homeHall (pa / 64)))))
    | .ready l =>
      if l.poison then
        let p := r.1.poisonTrap h pa 3 va
        (p.1, some (.inr p.2))
      else (r.1, some (.inl (Line.slice l.data (pa % 64) 8)))

/-- A page-table entry is valid: V, no W without R, no reserved bit (Svpbmt under PBMTE of the envcfg that governs it,
Svnapot only at the last level with the 64 KiB pattern; D, A, U and PBMT only in a leaf). -/
def pteValid (pte lvl : Nat) (pbmte : Bool) : Bool :=
  (pte.testBit 1 || pte.testBit 3 || (!pte.testBit 4 && !pte.testBit 6 && !pte.testBit 7 && bits pte 62 61 == 0))
    && pte.testBit 0 && !(pte.testBit 2 && !pte.testBit 1) && bits pte 60 54 == 0
    && (if pbmte then bits pte 62 61 != 3 else bits pte 62 61 == 0)
    && (!pte.testBit 63 || (lvl == 0 && (pte.testBit 1 || pte.testBit 3) && bits pte 13 10 == 8))

/-- A page-table entry is a leaf. -/
def pteLeaf (pte : Nat) : Bool := pte.testBit 1 || pte.testBit 3

/-- The physical address a leaf at a level gives: a superpage must be aligned; a NAPOT leaf maps 64 KiB. -/
def leafAddr (pte lvl a : Nat) : Option Nat :=
  let ppn := bits pte 53 10
  if ppn % 2 ^ (9 * lvl) ≠ 0 then none
  else if pte.testBit 63 then some (ppn / 16 * 2 ^ 16 + a % 2 ^ 16)
  else some (ppn * 4096 + a % 2 ^ (12 + 9 * lvl))

/-- A bit of an envcfg CSR as it acts: that of henvcfg needs that of menvcfg too. -/
def Hart.envOn (x : Hart) (cfg i : Nat) : Bool := x.csrBit cfg i && (cfg != csrHenvcfg || x.csrBit csrMenvcfg i)

/-- Hardware updates A and D of a page-table entry (Svadu, R240 bit 10, under ADUE of the envcfg `cfg` that governs the
stage): the entry's line is won and written. -/
def Chip.updatePte (c : Chip) (h pa pte acc cfg : Nat) (va : Word) : Chip × Xlate :=
  let x := c.hart h
  if !bitAt (c.die (hartDie h)).capEn 10 || !x.envOn cfg 61 || !x.pmpOk pa 8 1 2 then (c, .trap { cause := pageFault acc, tval := va })
  else
    let r := c.reach h (pa / 64) .own 3 2
    match r.2 with
    | .wait => (r.1, .wait)
    | .refused check entry => (r.1, .trap (refusalTrap acc va check entry (c.homeHall (pa / 64))))
    | .ready l =>
      let new := pte ||| 0x40 ||| (if acc = 2 then 0x80 else 0)
      (r.1.setL2 h (pa / 64) { l with st := .M, data := Line.patch l.data (pa % 64) 8 new }, .pa pa)

/-- A leaf entry may be used: A is set, and D for a store, or hardware sets them. -/
def Chip.leafReady (c : Chip) (h pa pte acc cfg : Nat) (va : Word) : Chip × Xlate :=
  if pte.testBit 6 && (acc != 2 || pte.testBit 7) then (c, .pa pa) else c.updatePte h pa pte acc cfg va

/-- A guest-page fault carries the guest physical address; one of an implicit access to a guest's page-table entry (`walk`: it
reads, or writes) carries the pseudoinstruction of that access too. -/
def gFault (acc walk : Nat) (va : Word) (gpa : Nat) : TrapInfo :=
  { cause := guestPageFault acc, tval := va, gpa := gpa, inst := if walk = 0 then 0 else if walk = 1 then 0x3000 else 0x3020 }

/-- The second stage (hgatp): `lvl` levels remain of `n`. `walk` is 0 for the access itself, 1 for the read and 2 for the
update of a guest's page-table entry on its behalf, which need the permissions of a load and a store. -/
def Chip.gWalk (c : Chip) (h gpa acc walk : Nat) (va : Word) (n base : Nat) : Nat → Chip × Xlate
  | 0 => (c, .trap (gFault acc walk va gpa))
  | lvl + 1 =>
    let idx := gpa / 2 ^ (12 + 9 * lvl) % (if lvl + 1 = n then 2 ^ 11 else 2 ^ 9)
    let r := c.readPte h (base + 8 * idx) acc va
    match r.2 with
    | none => (r.1, .wait)
    | some (.inr t) => (r.1, .trap t)
    | some (.inl pte) =>
      let fault : Chip × Xlate := (r.1, .trap (gFault acc walk va gpa))
      let perm := if walk = 0 then acc else walk
      if !pteValid pte lvl ((c.hart h).csrBit csrMenvcfg 62) then fault
      else if !pteLeaf pte then r.1.gWalk h gpa acc walk va n (bits pte 53 10 * 4096) lvl
      else if !pte.testBit 4 then fault
      else if !(if perm = 0 then pte.testBit 3 else if perm = 1 then
          pte.testBit 1 || ((c.hart h).csrBit csrMstatus 19 && pte.testBit 3) else pte.testBit 2) then fault
      else match leafAddr pte lvl gpa with
        | some a =>
          let u := r.1.leafReady h (base + 8 * idx) pte perm csrMenvcfg va
          match u.2 with
          | .pa _ => (u.1, .pa a)
          | .wait => (u.1, .wait)
          | .trap t => (u.1, .trap (if t.cause = pageFault perm then gFault acc walk va gpa
            else if t.cause = accessFault perm then { t with cause := accessFault acc } else t))
        | none => fault

/-- The number of levels of an address-translation mode (8 Sv39, 9 Sv48, 10 Sv57), 0 for Bare. -/
def modeLevels (mode : Nat) : Nat := if mode = 8 then 3 else if mode = 9 then 4 else if mode = 10 then 5 else 0

/-- A guest physical address goes through the second stage. -/
def Chip.gStage (c : Chip) (h gpa acc walk : Nat) (va : Word) : Chip × Xlate :=
  let g := ((c.hart h).getCsr csrHgatp).toNat
  let n := modeLevels (g / 2 ^ 60)
  if n = 0 then (c, .pa gpa)
  else if 2 ^ (14 + 9 * n) ≤ gpa then (c, .trap (gFault acc walk va gpa))
  else c.gWalk h gpa acc walk va n (g % 2 ^ 44 * 4096) n

/-- The first stage: `lvl` levels remain; with V set, the address of each entry goes through the second stage. -/
def Chip.sWalk (c : Chip) (h acc : Nat) (va : Word) (priv : Nat) (virt : Bool) (base : Nat) : Nat → Chip × Xlate
  | 0 => (c, .trap { cause := pageFault acc, tval := va })
  | lvl + 1 =>
    let x := c.hart h
    let a := base + 8 * (va.toNat / 2 ^ (12 + 9 * lvl) % 512)
    let g := if virt then c.gStage h a acc 1 va else (c, .pa a)
    match g.2 with
    | .wait => (g.1, .wait)
    | .trap t => (g.1, .trap t)
    | .pa pa =>
      let r := g.1.readPte h pa acc va
      match r.2 with
      | none => (r.1, .wait)
      | some (.inr t) => (r.1, .trap t)
      | some (.inl pte) =>
        let fault : Chip × Xlate := (r.1, .trap { cause := pageFault acc, tval := va })
        let st := if virt then csrVsstatus else csrMstatus
        if !pteValid pte lvl (x.envOn (if virt then csrHenvcfg else csrMenvcfg) 62) then fault
        else if !pteLeaf pte then r.1.sWalk h acc va priv virt (bits pte 53 10 * 4096) lvl
        else if priv = 0 ∧ !pte.testBit 4 then fault
        else if priv = 1 ∧ pte.testBit 4 ∧ (acc = 0 ∨ !x.csrBit st 18) then fault
        else if !(if acc = 0 then pte.testBit 3 else if acc = 1 then
            pte.testBit 1 || ((x.csrBit csrMstatus 19 || x.csrBit st 19) && pte.testBit 3) else pte.testBit 2) then fault
        else match leafAddr pte lvl va.toNat with
          | some p =>
            let again := virt && !(pte.testBit 6 && (acc != 2 || pte.testBit 7)) && x.envOn csrHenvcfg 61
            let w := if again then r.1.gStage h a acc 2 va else (r.1, .pa pa)
            let u := match w.2 with
              | .pa _ => w.1.leafReady h pa pte acc (if virt then csrHenvcfg else csrMenvcfg) va
              | _ => w
            match u.2 with
            | .pa _ => (u.1, .pa p)
            | .wait => (u.1, .wait)
            | .trap t => (u.1, .trap t)
          | none => fault

/-- The privilege and virtualization mode of an access: MPRV redirects loads and stores of M-mode. -/
def Hart.effective (x : Hart) (acc : Nat) : Nat × Bool :=
  if acc ≠ 0 ∧ x.priv = 3 ∧ x.csrBit csrMstatus 17 then
    (x.csrBits csrMstatus 12 11, x.csrBit csrMstatus 39 && x.csrBits csrMstatus 12 11 != 3)
  else (x.priv, x.virt)

/-- The effective address of an explicit access under pointer masking (Ssnpm, which RVA23S64 makes mandatory: R3): with PMM 2 in senvcfg for
U-mode, in henvcfg for VS-mode, the upper seven bits are ignored: bit 56 takes their place under translation, zeros without it. MXR
switches it off. -/
def Hart.pointer (x : Hart) (va : Word) : Word :=
  let e := x.effective 1
  let on : Bool := (e.1 == 0 && x.csrBits csrSenvcfg 33 32 == 2) || (e.1 == 1 && e.2 && x.csrBits csrHenvcfg 33 32 == 2)
  let mxr : Bool := x.csrBit csrMstatus 19 || (e.2 && x.csrBit csrVsstatus 19)
  if !on || mxr then va
  else
    let low := va &&& 0x1FFFFFFFFFFFFFF
    if modeLevels ((x.getCsr (if e.2 then csrVsatp else csrSatp)).toNat / 2 ^ 60) = 0 ∨ low.toNat < 2 ^ 56 then low
    else low ||| 0xFE00000000000000

/-- The same for an address operand. -/
def Hart.eaddr (x : Hart) (va : Nat) : Nat := (x.pointer (BitVec.ofNat 64 va)).toNat

/-- A virtual address is canonical for n levels. -/
def canonical (va : Word) (n : Nat) : Bool :=
  let top := va.toNat / 2 ^ (11 + 9 * n)
  top == 0 || top == 2 ^ (53 - 9 * n) - 1

/-- The physical address of n bytes at a virtual address within one page (acc 0 fetch, 1 load, 2 store), with PMP. -/
def Chip.translate (c : Chip) (h : Nat) (va : Word) (n acc : Nat) : Chip × Xlate :=
  let x := c.hart h
  let e := x.effective acc
  let r : Chip × Xlate :=
    if e.1 = 3 then (c, .pa va.toNat)
    else
      let atp := (x.getCsr (if e.2 then csrVsatp else csrSatp)).toNat
      let lv := modeLevels (atp / 2 ^ 60)
      let s : Chip × Xlate :=
        if lv = 0 then (c, .pa va.toNat)
        else if !canonical va lv then (c, .trap { cause := pageFault acc, tval := va })
        else c.sWalk h acc va e.1 e.2 (atp % 2 ^ 44 * 4096) lv
      match s.2 with
      | .pa a => if e.2 then s.1.gStage h a acc 0 va else s
      | _ => s
  match r.2 with
  | .pa a =>
    if 2 ^ 52 ≤ a ∨ !x.pmpOk a n e.1 acc then (r.1, .trap { cause := accessFault acc, tval := va }) else r
  | _ => r

end Sys2Proof.Machine
end

