-- ==== Sys2Proof/Machine/HartMem.lean ====
section
/-! DEFINITION. The instructions of a hart: loads, stores, AMOs, LR and SC (R60, R197, R198), fetches, cache-block
operations (R158), tile loads, stores, saves and restores (R112 to R115, R120, R121, R126), accesses to register space and
to the PCIe windows (R28, R434), CSR accesses, MRET and WFI. A hart performs its instructions in program order; one that
waits for a message is tried again when a message reaches its die. -/

namespace Sys2Proof.Machine

/-- How performing an instruction ends: it has its effect, it waits, or the hart has trapped or stopped. -/
inductive Perf where
  | done
  | wait
  | ended
  deriving DecidableEq, Repr

-- the accesses of an instruction

/-- One access of an instruction: its number, its address and its bytes, all in one line. -/
structure Piece where
  k : Nat
  va : Nat
  n : Nat
  deriving DecidableEq, Repr

/-- The accesses that n bytes at an address make: one for each line touched. -/
def linePieces (va n : Nat) : List (Nat × Nat) :=
  (linesOf va n).map (fun line =>
    let lo := max va (line * 64)
    (lo % 2 ^ 64, min (va + n) (line * 64 + 64) - lo))

/-- Number a list of accesses. -/
def numberPieces (l : List (Nat × Nat)) : List Piece := (l.zip (List.range l.length)).map (fun e => { k := e.2, va := e.1.1, n := e.1.2 })

/-- Insert an access below the first one at a higher address. -/
def insertPiece (p : Piece) : List Piece → List Piece
  | [] => [p]
  | q :: qs => if p.va < q.va then p :: q :: qs else q :: insertPiece p qs

/-- The accesses by ascending address, so that the lowest faulting address is found first (R115). -/
def sortPieces (l : List Piece) : List Piece := l.foldl (fun acc p => insertPiece p acc) []

/-- Take a trap and stop. -/
def Chip.stopWith (c : Chip) (h : Nat) (t : TrapInfo) : Chip × Perf := (c.takeTrap h t, .ended)

/-- Trap as an illegal or virtual instruction, and stop. -/
def Chip.stopIllegal (c : Chip) (h cause : Nat) : Chip × Perf := (c.illegal h cause, .ended)

/-- Translate every access before the first is made (R116): all the physical addresses, a wait, or the trap of the lowest
faulting address. -/
def Chip.xlatAll (c : Chip) (h acc : Nat) : List Piece → Chip × (Option (List (Piece × Nat)) ⊕ TrapInfo)
  | [] => (c, .inl (some []))
  | p :: ps =>
    let r := c.translate h (BitVec.ofNat 64 p.va) p.n acc
    match r.2 with
    | .wait => (r.1, .inl none)
    | .trap t => (r.1, .inr t)
    | .pa a =>
      let s := r.1.xlatAll h acc ps
      match s.2 with
      | .inl (some l) => (s.1, .inl (some ((p, a) :: l)))
      | x => (s.1, x)

/-- Translate the accesses of the oldest waiting instruction, in the order of `ps`, once: a retry finds the addresses it kept. -/
def Chip.xlatOnce (c : Chip) (h acc : Nat) (ps : List Piece) : Chip × (Option (List (Piece × Nat)) ⊕ TrapInfo) :=
  match (c.hart h).xlat with
  | [] =>
    let r := c.xlatAll h acc ps
    match r.2 with
    | .inl (some l) => (r.1.onHart h (fun x => { x with xlat := l.map (fun e => (e.1.k, e.2)) }), .inl (some l))
    | x => (r.1, x)
  | saved => (c, .inl (some (ps.filterMap (fun p => (saved.find? (fun e => e.1 == p.k)).map (fun e => (p, e.2))))))

/-- The data an access has read, if it has. -/
def Hart.gotAt (x : Hart) (k : Nat) : Option Nat := (x.got.find? (fun e => e.1 == k)).map (fun e => e.2)

/-- Note what an access has read, or that it has been made. -/
def Chip.noteGot (c : Chip) (h k v : Nat) : Chip := c.onHart h (fun x => { x with got := x.got ++ [(k, v)] })

/-- The bits of a line that a hart's L1 gives wrong without a report (R306): of L1D to a load, of L1I to a fetch. -/
def Hart.l1Wrong (x : Hart) (code line : Nat) : Line :=
  if code = 0 ∧ x.l1d.any (fun e => e.1 == line) then sget 0 (2 * line + 1) x.l1x
  else if code = 2 ∧ x.l1i.contains line then sget 0 (2 * line) x.l1x
  else 0

/-- A store updates the L1D copy of a line (R146), with fresh parity. -/
def Hart.l1Store (x : Hart) (line off n : Nat) : Hart :=
  { x with l1x := sset 0 (2 * line + 1) (Line.patch (sget 0 (2 * line + 1) x.l1x) off n 0) x.l1x }

/-- One read access to main memory: a value, a wait, or a trap. `code` is its ACC, `rk` the KIND of its RD_SHARED. -/
def Chip.readMain (c : Chip) (h pa n code rk acc : Nat) (va : Word) : Chip × (Option Nat ⊕ TrapInfo) :=
  if !(c.region pa).homed then (c.hartRefusal h code pa, .inr { cause := accessFault acc, tval := va })
  else
    let r := c.reach h (pa / 64) .read code rk
    match r.2 with
    | .wait => (r.1, .inl none)
    | .refused check entry => (r.1, .inr (refusalTrap acc va check entry (c.homeHall (pa / 64))))
    | .ready l =>
      if l.poison then
        let p := r.1.poisonTrap h pa code va
        (p.1, .inr p.2)
      else (r.1, .inl (some (Line.slice (l.data ^^^ (r.1.hart h).l1Wrong code (pa / 64)) (pa % 64) n)))

/-- Make every read access of an instruction: those behind one that waits are begun too, but only the first that waits
decides (R114, R115). True when every access has its data. -/
def Chip.readAll (c : Chip) (h code rk acc : Nat) : List (Piece × Nat) → Bool → Chip × (Bool ⊕ TrapInfo)
  | [], ok => (c, .inl ok)
  | (p, pa) :: ps, ok =>
    if ((c.hart h).gotAt p.k).isSome then c.readAll h code rk acc ps ok
    else
      let r := c.readMain h pa p.n code rk acc (BitVec.ofNat 64 p.va)
      match r.2 with
      | .inl (some v) => (r.1.noteGot h p.k v).readAll h code rk acc ps ok
      | .inl none => r.1.readAll h code rk acc ps false
      | .inr t => if ok then (r.1, .inr t) else c.readAll h code rk acc ps false

/-- Write n bytes of a line the L2 owns; a write of all 64 clears its poison (R317), another keeps it. -/
def L2Line.write (l : L2Line) (off n v : Nat) : L2Line :=
  { l with st := .M, data := Line.patch l.data off n v, poison := l.poison && n != 64 }

/-- n bytes are stored at an address whose line the L2 owns: its data word is written (R308), and L1D's copy updated (R146). -/
def Chip.l2Store (c : Chip) (h pa : Nat) (l : L2Line) (n v : Nat) : Chip :=
  let c1 := c.setL2 h (pa / 64) (l.write (pa % 64) n v)
  ({ c1 with banks := wroteWord 4 h (pa / 64 % 8) (l2Word (pa / 64) l.way) c1.banks } : Chip).onHart h (fun x =>
    x.l1Store (pa / 64) (pa % 64) n)

/-- Make the store accesses of an instruction in order (R198, R199): each once its line is held in M. `drop` says that L1D
copies of the lines are invalidated (tile stores, R114). -/
def Chip.storeAll (c : Chip) (h code : Nat) (drop : Bool) (val : Nat → Nat) : List (Piece × Nat) → Chip × (Bool ⊕ TrapInfo)
  | [] => (c, .inl true)
  | (p, pa) :: ps =>
    if ((c.hart h).gotAt p.k).isSome then c.storeAll h code drop val ps
    else if !(c.region pa).homed then
      (c.hartRefusal h code pa, .inr { cause := accessFault 2, tval := BitVec.ofNat 64 p.va })
    else
      let r := c.reach h (pa / 64) .own code 0
      match r.2 with
      | .wait => (r.1, .inl false)
      | .refused check entry => (r.1, .inr (refusalTrap 2 (BitVec.ofNat 64 p.va) check entry (c.homeHall (pa / 64))))
      | .ready l =>
        let c1 := r.1.l2Store h pa l p.n (val p.k)
        let c2 := if drop then c1.onHart h (fun x => { x with l1d := x.l1d.filter (·.1 != pa / 64) }) else c1
        (c2.noteGot h p.k 0).storeAll h code drop val ps

/-- The data of n accesses in order, as one number, each access's bytes above those before it. -/
def Hart.joined (x : Hart) (l : List Piece) : Nat :=
  (l.foldl (fun (acc : Nat × Nat) p => (acc.1 + (x.gotAt p.k).getD 0 * 2 ^ (8 * acc.2), acc.2 + p.n)) (0, 0)).1

/-- The bytes of a number that access k of a list writes. -/
def pieceVal (l : List Piece) (v k : Nat) : Nat :=
  let before := (l.filter (fun p => p.k < k)).foldl (fun acc p => acc + p.n) 0
  v / 2 ^ (8 * before)

-- register space and the PCIe windows

/-- An offset in an interrupt-file page (R74). -/
def isImsicPage (off : Nat) : Bool :=
  0x10000000 ≤ off && off < 0x1C000000 && 0x800000 ≤ off % 0x1000000 && off % 0x1000000 < 0x800000 + 24 * 0x8000

/-- An offset in the report window of the collector (R327). -/
def isReportWindow (off : Nat) : Bool :=
  (Reg.FC_REPORT 0).offset ≤ off && off < (Reg.FC_REPORT 0).offset + 64

/-- An offset in a station's IOMMU page (R438). -/
def isIommuPage (off : Nat) : Bool :=
  0x4000000 ≤ off && off < 0x4000000 + 10 * 0x100000 && 0x8000 ≤ off % 0x100000 && off % 0x100000 < 0x9000

/-- log2 of an access size of 1, 2, 4 or 8 bytes. -/
def sizeCode (n : Nat) : Nat := Nat.log2 n

/-- One access to an I/O region (R28, R205, R434): the message goes out, and the access waits for its answer. A read
completes with IO_RSP and a write with IO_ACK; any other status than success is the matching access fault (R26, R365). -/
def Chip.ioAccess (c : Chip) (h pa n acc code : Nat) (va : Word) (wr : Option Nat) : Chip × (Option Nat ⊕ TrapInfo) :=
  let x := c.hart h
  match x.refusal.filter (fun r => r.1 == pa / 64) with
  | some (_, check, entry) =>
    (c.onHart h (fun x => { x with refusal := none, io := none }), .inr (refusalTrap acc va check entry 0))
  | none =>
    match x.io with
    | some (some (st, v)) =>
      let c1 := c.onHart h (fun x => { x with io := none })
      if st = 0 then (c1, .inl (some (v.toNat % 2 ^ (8 * n))))
      else (c1, .inr { cause := accessFault acc, tval := va })
    | some none => (c, .inl none)
    | none =>
      match c.freeTag (hartDie h) with
      | none => (c, .inl none)
      | some t =>
        let m : Msg := { c.hartMsg h (if wr.isSome then .IO_WR else .IO_RD) (pa / 64) code with
          sub := pa % 64, code := sizeCode n, tag := t, data := BitVec.ofNat 512 (wr.getD 0) }
        ((c.onHart h (fun x => { x with io := some none, ioTag := t })).issue m, .inl none)

/-- A hart's access to register space keeps R434 and R60: aligned, and 64 bits wide but for the three exceptions. -/
def Chip.regAccessTrap (c : Chip) (h pa n acc code : Nat) (va : Word) : Option (Chip × TrapInfo) :=
  match c.region pa with
  | .regs off =>
    if pa % (min n 8) ≠ 0 then some (c, { cause := misalignedFault acc, tval := va })
    else if n < 8 && !isImsicPage off && !isReportWindow off && !isIommuPage off then
      some (c.hartRefusal h code pa, { cause := accessFault acc, tval := va })
    else none
  | .refused => some (c.hartRefusal h code pa, { cause := accessFault acc, tval := va })
  | _ => none

/-- The naturally aligned accesses of at most 8 bytes that n bytes at an address of an I/O region make, in ascending
order; `f` bounds the recursion. -/
def ioPieces : Nat → Nat → Nat → List (Nat × Nat)
  | 0, _, _ => []
  | f + 1, a, n =>
    if n = 0 then []
    else
      let w := if a % 8 = 0 ∧ 8 ≤ n then 8 else if a % 4 = 0 ∧ 4 ≤ n then 4 else if a % 2 = 0 ∧ 2 ≤ n then 2 else 1
      (a, w) :: ioPieces f (a + w) (n - w)

/-- Make the I/O accesses of an instruction one after the other. -/
def Chip.ioAll (c : Chip) (h acc code : Nat) (wr : Option (Nat → Nat)) : List (Piece × Nat) → Chip × (Bool ⊕ TrapInfo)
  | [] => (c, .inl true)
  | (p, pa) :: ps =>
    if ((c.hart h).gotAt p.k).isSome then c.ioAll h acc code wr ps
    else
      let va := BitVec.ofNat 64 p.va
      match c.regAccessTrap h pa p.n acc code va with
      | some r => (r.1, .inr r.2)
      | none =>
        if (c.region pa).homed then (c, .inr { cause := accessFault acc, tval := va })
        else
          let r := c.ioAccess h pa p.n acc code va (wr.map (fun f => f p.k))
          match r.2 with
          | .inl (some v) => (r.1.noteGot h p.k v).ioAll h acc code wr ps
          | .inl none => (r.1, .inl false)
          | .inr t => (r.1, .inr t)

/-- The region of the first byte of an access decides how it is made: main memory, an I/O region, or the trap of its
translation. -/
inductive Where where
  | main
  | io (regs : Bool)
  | wait
  | trap (t : TrapInfo)
  deriving DecidableEq, Repr

/-- Where an access goes. -/
def Chip.whereTo (c : Chip) (h va acc code : Nat) : Chip × Where :=
  let r : Chip × Xlate := match (c.hart h).xlat.head? with
    | some e => (c, .pa e.2)
    | none => c.translate h (BitVec.ofNat 64 va) 1 acc
  match r.2 with
  | .wait => (r.1, .wait)
  | .trap t => (r.1, .trap t)
  | .pa a =>
    match r.1.region a with
    | .dram | .cxl _ _ => (r.1, .main)
    | .refused => (r.1.hartRefusal h code a, .trap { cause := accessFault acc, tval := BitVec.ofNat 64 va })
    | .regs _ => (r.1, .io true)
    | _ => (r.1, .io false)

/-- The hart's own registers a load fills: sign or zero extension for an integer register, NaN boxing for a float one. -/
def Hart.fill (x : Hart) (rd : HReg) (size v : Nat) (signed : Bool) : Hart :=
  match rd with
  | .x n => x.setX n (if signed && v.testBit (8 * size - 1) then BitVec.ofNat 64 (2 ^ 64 - 2 ^ (8 * size) + v)
                      else BitVec.ofNat 64 v)
  | .f n => { x with f := sset 0 n (BitVec.ofNat 64 (2 ^ 64 - 2 ^ (8 * size) + v)) x.f }.dirty 14 13
  | .v n => { x with v := sset 0 n (((sget 0 n x.v) &&& ~~~(BitVec.ofNat 256 (2 ^ (8 * size) - 1)))
                ||| BitVec.ofNat 256 v) x.v }.dirty 10 9

/-- The bytes a store takes from a register. -/
def Hart.source (x : Hart) (rs : HReg) : Nat :=
  match rs with
  | .x n => (x.xr n).toNat
  | .f n => (sget 0 n x.f).toNat
  | .v n => (sget 0 n x.v).toNat

/-- A floating-point or vector register is usable: FS or VS is not Off, in vsstatus too with V set. -/
def Hart.regOn (x : Hart) (r : HReg) : Bool :=
  let on := fun (hi lo : Nat) => x.csrBits csrMstatus hi lo != 0 && (!x.virt || x.csrBits csrVsstatus hi lo != 0)
  match r with
  | .x _ => true
  | .f _ => on 14 13
  | .v _ => on 10 9

/-- A demand access of L1D carries the hart's streams on into the next page (R72). -/
def Chip.demand (c : Chip) (h pa : Nat) : Chip := c.onHart h (fun x => { x with l1dStreams := x.carryOn pa x.l1dStreams })

/-- The way of L1D that a line takes, of 8 (R145): its own, the lowest free one that is not disabled (R311), or the one that tree
pseudo-LRU selects (R147). -/
def Chip.l1dWay (c : Chip) (h line : Nat) : Option Nat :=
  let set := (c.hart h).l1d.filter (fun e => e.1 % 128 == line % 128)
  match set.find? (fun e => e.1 == line) with
  | some e => some e.2
  | none =>
    let ways := (List.range 8).filter (fun w => !(c.waysOff 1 h 1).contains w)
    match ways.find? (fun w => !set.any (fun e => e.2 == w)) with
    | some w => some w
    | none => c.lruWay (.l1d h) (line % 128) ways.contains

/-- L1D takes a line a load missed (R145), while L2 holds it (R146); a miss is counted (R73) and trains the prefetcher (R71). -/
def Chip.fillL1d (c0 : Chip) (h pa : Nat) : Chip :=
  let line := pa / 64
  let c := c0.demand h pa
  let hit := (c.hart h).l1d.any (fun e => e.1 == line)
  let c1 := if hit then c else (c.countEvent h 0x20).onHart h (fun x => x.l1dTrain pa)
  match c1.l1dWay h line with
  | none => c1
  | some w =>
    if (c1.l2at h line).st = .I then c1
    else (c1.onHart h (fun x => { x with
      l1x := if hit then x.l1x else sset 0 (2 * line + 1) 0 x.l1x
      l1d := if hit then x.l1d else x.l1d.filter (fun e => !(e.1 % 128 == line % 128 && e.2 == w)) ++ [(line, w)] })).useWay (.l1d h) (line % 128) w

/-- L1I takes a line a fetch missed (R145, R147): 4 ways, replaced round-robin. -/
def Chip.fillL1i (c : Chip) (h line : Nat) : Chip :=
  let x := c.hart h
  if x.l1i.contains line then c
  else
    let ways := 4 - (c.waysOff 1 h 0).length
    let set := x.l1i.filter (fun l => l % 256 == line % 256)
    let out := if set.length < ways then [] else set.take 1
    if ways = 0 then c else c.onHart h (fun x => { x with l1x := sset 0 (2 * line) 0 x.l1x, l1i := x.l1i.filter (fun l => !out.contains l) ++ [line] })

/-- A load (R197). -/
def Chip.load (c : Chip) (h : Nat) (rd : HReg) (va size : Nat) (signed : Bool) : Chip × Perf :=
  if !(c.hart h).regOn rd then c.stopIllegal h 2
  else
    let w := c.whereTo h va 1 0
    match w.2 with
    | .wait => (w.1, .wait)
    | .trap t => w.1.stopWith h t
    | .main =>
      let ps := numberPieces (linePieces va size)
      let t := w.1.xlatOnce h 1 ps
      match t.2 with
      | .inr tr => t.1.stopWith h tr
      | .inl none => (t.1, .wait)
      | .inl (some l) =>
        let r := t.1.readAll h 0 0 1 l true
        match r.2 with
        | .inr tr => r.1.stopWith h tr
        | .inl false => (r.1, .wait)
        | .inl true =>
          let v := (r.1.hart h).joined ps
          ((l.foldl (fun x e => x.fillL1d h e.2) r.1).onHart h (fun x => x.fill rd size v signed), .done)
    | .io regs =>
      if regs && va % (min size 8) != 0 then w.1.stopWith h { cause := misalignedFault 1, tval := BitVec.ofNat 64 va }
      else
        let ps := numberPieces (ioPieces size va size)
        let t := w.1.xlatOnce h 1 ps
        match t.2 with
        | .inr tr => t.1.stopWith h tr
        | .inl none => (t.1, .wait)
        | .inl (some l) =>
          let r := t.1.ioAll h 1 0 none l
          match r.2 with
          | .inr tr => r.1.stopWith h tr
          | .inl false => (r.1, .wait)
          | .inl true =>
            let v := (r.1.hart h).joined ps
            (r.1.onHart h (fun x => x.fill rd size v signed), .done)

/-- A store (R146, R197, R198). -/
def Chip.store (c : Chip) (h : Nat) (rs : HReg) (va size : Nat) : Chip × Perf :=
  if !(c.hart h).regOn rs then c.stopIllegal h 2
  else
    let v := (c.hart h).source rs
    let w := c.whereTo h va 2 1
    match w.2 with
    | .wait => (w.1, .wait)
    | .trap t => w.1.stopWith h t
    | .main =>
      let ps := numberPieces (linePieces va size)
      let t := w.1.xlatOnce h 2 ps
      match t.2 with
      | .inr tr => t.1.stopWith h tr
      | .inl none => (t.1, .wait)
      | .inl (some l) =>
        let r := t.1.storeAll h 1 false (pieceVal ps v) l
        match r.2 with
        | .inr tr => r.1.stopWith h tr
        | .inl false => (r.1, .wait)
        | .inl true => (l.foldl (fun x e => x.demand h e.2) r.1, .done)
    | .io regs =>
      if regs && va % (min size 8) != 0 then w.1.stopWith h { cause := misalignedFault 2, tval := BitVec.ofNat 64 va }
      else
        let ps := numberPieces (ioPieces size va size)
        let t := w.1.xlatOnce h 2 ps
        match t.2 with
        | .inr tr => t.1.stopWith h tr
        | .inl none => (t.1, .wait)
        | .inl (some l) =>
          let r := t.1.ioAll h 2 1 (some (fun k => pieceVal ps v k % 2 ^ (8 * (match ps.find? (fun p => p.k == k) with
            | some p => p.n
            | none => 8)))) l
          match r.2 with
          | .inr tr => r.1.stopWith h tr
          | .inl false => (r.1, .wait)
          | .inl true => (r.1, .done)

-- atomics

/-- The signed value of n bytes. -/
def signedOf (n v : Nat) : Int := if v.testBit (8 * n - 1) then (v : Int) - 2 ^ (8 * n) else v

/-- The value an AMO writes: `old` and `arg` of n bytes, `cmp` the compare value of a CAS. -/
def amoResult (op : AmoOp) (n old arg cmp : Nat) : Nat :=
  match op with
  | .add => (old + arg) % 2 ^ (8 * n)
  | .swap => arg
  | .and => old &&& arg
  | .or => old ||| arg
  | .xor => old ^^^ arg
  | .min => if signedOf n old < signedOf n arg then old else arg
  | .max => if signedOf n arg < signedOf n old then old else arg
  | .minu => min old arg
  | .maxu => max old arg
  | .cas => if old = cmp then arg else old

/-- n bytes from an integer register, or for 16 bytes from an even register and the next. -/
def Hart.amoArg (x : Hart) (r n : Nat) : Nat :=
  if n = 16 then (if r = 0 then 0 else (x.xr r).toNat + (x.xr (r + 1)).toNat * 2 ^ 64) else (x.xr r).toNat % 2 ^ (8 * n)

/-- Write what an AMO read to rd, sign-extended; 16 bytes go to a register pair. -/
def Hart.amoDest (x : Hart) (rd n v : Nat) : Hart :=
  if n = 16 then
    (if rd = 0 then x else (x.setX rd (BitVec.ofNat 64 v)).setX (rd + 1) (BitVec.ofNat 64 (v / 2 ^ 64)))
  else x.setX rd (BitVec.ofInt 64 (signedOf n v))

/-- The preamble of an atomic access: alignment, translation, and main memory only (R60, R197). -/
def Chip.atomicAt (c : Chip) (h va size acc : Nat) : Chip × (Option Nat ⊕ TrapInfo) :=
  let w := BitVec.ofNat 64 va
  if va % size ≠ 0 then (c, .inr { cause := misalignedFault acc, tval := w })
  else
    let r := c.translate h w size acc
    match r.2 with
    | .wait => (r.1, .inl none)
    | .trap t => (r.1, .inr t)
    | .pa a =>
      match r.1.region a with
      | .dram | .cxl _ _ => (r.1, .inl (some a))
      | .refused => (r.1.hartRefusal h (if acc = 1 then 0 else 6) a, .inr { cause := accessFault acc, tval := w })
      | _ => (r.1, .inr { cause := accessFault acc, tval := w })

/-- An AMO (R197): performed at the L2 with the line in M; a poisoned line is consumed (R318). The Zacas operations need
bit 8 of the die's enabled capabilities (R241). -/
def Chip.amo (c : Chip) (h : Nat) (op : AmoOp) (rd rs va size : Nat) : Chip × Perf :=
  if op = .cas ∧ !bitAt (c.die (hartDie h)).capEn 8 then c.stopIllegal h 2
  else
    let a := c.atomicAt h va size 2
    match a.2 with
    | .inr t => a.1.stopWith h t
    | .inl none => (a.1, .wait)
    | .inl (some pa) =>
      let r := a.1.reach h (pa / 64) .own 6 0
      match r.2 with
      | .wait => (r.1, .wait)
      | .refused check entry => r.1.stopWith h (refusalTrap 2 (BitVec.ofNat 64 va) check entry (c.homeHall (pa / 64)))
      | .ready l =>
        if l.poison then
          let p := r.1.poisonTrap h pa 6 (BitVec.ofNat 64 va)
          p.1.stopWith h p.2
        else
          let old := Line.slice l.data (pa % 64) size
          let x := r.1.hart h
          let new := amoResult op size old (x.amoArg rs size) (x.amoArg rd size)
          ((r.1.l2Store h pa l size new).onHart h (fun x => x.amoDest rd size old), .done)

/-- LR (R188, R197): the line is held in M, the hart takes a reservation on it, and where this LR won the line it is pinned. -/
def Chip.lr (c : Chip) (h rd va size : Nat) : Chip × Perf :=
  let a := c.atomicAt h va size 1
  match a.2 with
  | .inr t => a.1.stopWith h t
  | .inl none => (a.1, .wait)
  | .inl (some pa) =>
    let r := a.1.reach h (pa / 64) .own 0 0
    match r.2 with
    | .wait => (r.1, .wait)
    | .refused check entry => r.1.stopWith h (refusalTrap 1 (BitVec.ofNat 64 va) check entry (c.homeHall (pa / 64)))
    | .ready l =>
      if l.poison then
        let p := r.1.poisonTrap h pa 0 (BitVec.ofNat 64 va)
        p.1.stopWith h p.2
      else
        ((((r.1.unpin h).setL2 h (pa / 64) { l with pinned := l.winning }).useL2 h (pa / 64)).onHart h (fun x =>
          { x.amoDest rd size (Line.slice l.data (pa % 64) size) with resv := some (pa / 64) }), .done)

/-- SC (R188, R197): it stores while the reservation on its line lasts, and ends it and the hold. -/
def Chip.sc (c : Chip) (h rd rs va size : Nat) : Chip × Perf :=
  let a := c.atomicAt h va size 2
  match a.2 with
  | .inr t => a.1.stopWith h t
  | .inl none => (a.1, .wait)
  | .inl (some pa) =>
    if (c.hart h).resv ≠ some (pa / 64) then
      ((a.1.unpin h).onHart h (fun x => { x.setX rd 1 with resv := none }), .done)
    else
      let r := a.1.reach h (pa / 64) .own 1 0
      match r.2 with
      | .wait => (r.1, .wait)
      | .refused check entry => r.1.stopWith h (refusalTrap 2 (BitVec.ofNat 64 va) check entry (c.homeHall (pa / 64)))
      | .ready l =>
        (((r.1.l2Store h pa l size ((c.hart h).amoArg rs size)).unpin h).onHart h (fun x =>
          { x.setX rd 0 with resv := none }), .done)

-- fetch

/-- Two bytes of an instruction, access k of a fetch (R65, R274): L1I takes the line. -/
def Chip.fetchParcel (c : Chip) (h k va : Nat) : Chip × (Option Nat ⊕ TrapInfo) :=
  match (c.hart h).gotAt k with
  | some v => (c, .inl (some v))
  | none =>
    let w := BitVec.ofNat 64 va
    let r := c.translate h w 2 0
    match r.2 with
    | .wait => (r.1, .inl none)
    | .trap t => (r.1, .inr t)
    | .pa a =>
      let s := r.1.readMain h a 2 2 1 0 w
      match s.2 with
      | .inl (some v) => ((s.1.fillL1i h (a / 64)).noteGot h k v, .inl (some v))
      | x => (s.1, x)

/-- The instruction at an address has been fetched: its outcome trains the predictors when the next one is (R71). -/
def Chip.fetchDone (c : Chip) (h va w : Nat) : Chip × Perf := (c.onHart h (fun x => { x with fetched := some (va, w) }), .done)

/-- An instruction fetch (R65, R274): the pc takes the address, the instruction fetched before it has resolved (R71), and a word of
custom-0 or custom-1 that spells no tile instruction raises illegal-instruction (R98). -/
def Chip.fetch (c : Chip) (h va : Nat) : Chip × Perf :=
  let c0 := (c.resolve h va).onHart h (fun x => { x with pc := BitVec.ofNat 64 va, fetched := none })
  let r := c0.fetchParcel h 0 va
  match r.2 with
  | .inr t => r.1.stopWith h t
  | .inl none => (r.1, .wait)
  | .inl (some lo) =>
    if !isWide lo then r.1.fetchDone h va lo
    else
      let s := r.1.fetchParcel h 1 ((va + 2) % 2 ^ 64)
      match s.2 with
      | .inr t => s.1.stopWith h t
      | .inl none => (s.1, .wait)
      | .inl (some hi) =>
        let w := lo + 65536 * hi
        if tileUndefined w then s.1.stopWith h { cause := 2, tval := BitVec.ofNat 64 w } else s.1.fetchDone h va w

-- cache-block operations

/-- What the envcfg CSRs make of a cache-block operation: done as asked, flushed instead of invalidated, or an exception
(illegal instruction 2, virtual instruction 22), by the privileged architecture (R158). -/
def Hart.cboGate (x : Hart) (op : CboOp) : CboOp ⊕ Nat :=
  let off := fun (n : Nat) => match op with
    | .inval => x.csrBits n 5 4 == 0
    | .zero => !x.csrBit n 7
    | _ => !x.csrBit n 6
  let flush := fun (n : Nat) => x.csrBits n 5 4 == 1
  if x.priv = 3 then .inl op
  else if off csrMenvcfg || (!x.virt && x.priv == 0 && off csrSenvcfg) then .inr 2
  else if x.virt && (off csrHenvcfg || (x.priv == 0 && off csrSenvcfg)) then .inr 22
  else if op = .inval ∧ (flush csrMenvcfg || (x.virt && flush csrHenvcfg) || (x.priv == 0 && flush csrSenvcfg)) then
    .inl .flush
  else .inl op

/-- A trap of a cache-block operation is of the store kind. -/
def cboTrap (t : TrapInfo) : TrapInfo :=
  { t with cause := if t.cause = 5 then 7 else if t.cause = 13 then 15 else if t.cause = 21 then 23 else t.cause }

/-- cbo.clean, cbo.flush and cbo.inval (R158): the home deals with every copy, and the instruction completes with its
COMP. -/
def Chip.cboMgmt (c : Chip) (h va : Nat) (k : MsgKind) : Chip × Perf :=
  let w := BitVec.ofNat 64 va
  let r := c.translate h w 1 1
  match r.2 with
  | .wait => (r.1, .wait)
  | .trap t => r.1.stopWith h (cboTrap t)
  | .pa a =>
    let line := a / 64
    if !(r.1.region a).homed then
      (match r.1.region a with | .refused => r.1.hartRefusal h 7 a | _ => r.1).stopWith h { cause := 7, tval := w }
    else
      match (r.1.hart h).refusal.filter (fun e => e.1 == line) with
      | some (_, check, entry) =>
        (r.1.onHart h (fun x => { x with refusal := none, io := none })).stopWith h
          (refusalTrap 2 w check entry (c.homeHall line))
      | none =>
        match (r.1.hart h).io with
        | some (some _) => (r.1.onHart h (fun x => { x with io := none }), .done)
        | some none => (r.1, .wait)
        | none =>
          if (r.1.missOf (hartDie h) line).isSome then (r.1, .wait)
          else
            let s := r.1.sendMiss h (r.1.hartMsg h k line 7)
            ((if (s.missOf (hartDie h) line).isSome then s.onHart h (fun x => { x with io := some none }) else s), .wait)

/-- cbo.zero (R158): the block is obtained in M without a read from DRAM and 64 zero bytes are written. -/
def Chip.cboZero (c : Chip) (h va : Nat) : Chip × Perf :=
  let a0 := va / 64 * 64
  let w := BitVec.ofNat 64 va
  let r := c.translate h (BitVec.ofNat 64 a0) 64 2
  match r.2 with
  | .wait => (r.1, .wait)
  | .trap t => r.1.stopWith h { t with tval := w }
  | .pa a =>
    if !(r.1.region a).homed then
      (match r.1.region a with | .refused => r.1.hartRefusal h 1 a | _ => r.1).stopWith h { cause := 7, tval := w }
    else
      let s := r.1.reach h (a / 64) .zero 1 0
      match s.2 with
      | .wait => (s.1, .wait)
      | .refused check entry => s.1.stopWith h (refusalTrap 2 w check entry (c.homeHall (a / 64)))
      | .ready l => (s.1.l2Store h (a / 64 * 64) l 64 0, .done)

/-- A cache-block operation. -/
def Chip.cbo (c : Chip) (h va : Nat) (op : CboOp) : Chip × Perf :=
  match (c.hart h).cboGate op with
  | .inr cause => c.stopIllegal h cause
  | .inl .clean => c.cboMgmt h va .CMO_CLEAN
  | .inl .flush => c.cboMgmt h va .CMO_FLUSH
  | .inl .inval => c.cboMgmt h va .CMO_INVAL
  | .inl .zero => c.cboZero h va

-- tile memory instructions

/-- The lines of n bytes at a 64-byte-aligned address, as accesses. -/
def lineList (va n : Nat) : List Piece := numberPieces ((List.range (n / 64)).map (fun i => ((va + 64 * i) % 2 ^ 64, 64)))

/-- The bytes an instruction's accesses have read, in order. -/
def Hart.gotBytes (x : Hart) (l : List Piece) : List Byte := l.flatMap (fun p => toBytes p.n ((x.gotAt p.k).getD 0))

/-- Begin a tile memory instruction: XS, and for a record or save area its alignment (R66, R112, R120). -/
def Chip.tileGate (c : Chip) (h : Nat) (i : Instr) (aligned : Bool) (acc : Nat) (legal : Bool) : Option (Chip × Perf) :=
  let x := c.hart h
  if !x.tileOn || !legal then some (c.stopWith h { cause := 2, tval := BitVec.ofNat 64 i.tileBits })
  else if aligned && (match i with
      | .tload _ _ r _ | .tstore _ _ r _ | .tsave _ r | .trestore _ r => (x.xr r).toNat % 64 != 0
      | _ => false) then
    some (c.stopWith h { cause := misalignedFault acc, tval := match i with
      | .tload _ _ r _ | .tstore _ _ r _ | .tsave _ r | .trestore _ r => x.pointer (x.xr r)
      | _ => 0 })
  else none

/-- Make all read accesses of a tile instruction, then go on with the hart as it then stands. -/
def Chip.tileRead (c : Chip) (h : Nat) (ps : List Piece) (k : Chip → Chip × Perf) : Chip × Perf :=
  let t := c.xlatOnce h 1 (sortPieces ps)
  match t.2 with
  | .inr tr => t.1.stopWith h tr
  | .inl none => (t.1, .wait)
  | .inl (some l) =>
    let r := t.1.readAll h 4 3 1 l true
    match r.2 with
    | .inr tr => r.1.stopWith h tr
    | .inl false => (r.1, .wait)
    | .inl true => k r.1

/-- Every line a tile store writes is found in main memory and won, by ascending address: an access fault precedes causes 24 and 25, and
names the lowest address (R67, R100, R115). A mark notes a line that has been won once. -/
def Chip.probeAll (c : Chip) (h : Nat) : List (Piece × Nat) → Chip × (Bool ⊕ TrapInfo)
  | [] => (c, .inl true)
  | (p, pa) :: ps =>
    let mark := p.k + 2 ^ 20
    if ((c.hart h).gotAt mark).isSome then c.probeAll h ps
    else if !(c.region pa).homed then
      (c.hartRefusal h 5 pa, .inr { cause := accessFault 2, tval := BitVec.ofNat 64 p.va })
    else
      let r := c.reach h (pa / 64) .own 5 0
      match r.2 with
      | .wait => (r.1, .inl false)
      | .refused check entry => (r.1, .inr (refusalTrap 2 (BitVec.ofNat 64 p.va) check entry (c.homeHall (pa / 64))))
      | .ready _ => (r.1.noteGot h mark 0).probeAll h ps

/-- The translations of a tile store, and the faults of its accesses, come before its operand checks (R67, R116). -/
def Chip.tileFind (c : Chip) (h : Nat) (ps : List Piece) (k : Chip → Chip × Perf) : Chip × Perf :=
  let t := c.xlatOnce h 2 (sortPieces ps)
  match t.2 with
  | .inr tr => t.1.stopWith h tr
  | .inl none => (t.1, .wait)
  | .inl (some l) =>
    let r := t.1.probeAll h l
    match r.2 with
    | .inr tr => r.1.stopWith h tr
    | .inl false => (r.1, .wait)
    | .inl true => k r.1

/-- Make all store accesses of a tile instruction in their order. -/
def Chip.tileWrite (c : Chip) (h : Nat) (ps : List Piece) (val : Nat → Nat) (k : Chip → Chip × Perf) : Chip × Perf :=
  let t := c.xlatOnce h 2 (sortPieces ps)
  match t.2 with
  | .inr tr => t.1.stopWith h tr
  | .inl none => (t.1, .wait)
  | .inl (some l) =>
    let ordered := ps.filterMap (fun p => l.find? (fun e => e.1.k == p.k))
    let r := t.1.storeAll h 5 true val ordered
    match r.2 with
    | .inr tr => r.1.stopWith h tr
    | .inl false => (r.1, .wait)
    | .inl true => k r.1

/-- Failed checks end a tile memory instruction (R126, R135). A check that only sets SECOND has KIND 9 in the list, above
every KIND there is, so that the first of R126's order is the one tfault names. -/
def Chip.tileStop (c : Chip) (h : Nat) (fs : List TFail) (xtval : Word) : Chip × Perf := (c.tileFail h fs [] xtval, .ended)

/-- TLOAD (R112, R126, R127). -/
def Chip.tload (c : Chip) (h t rs1 rs2 : Nat) : Chip × Perf :=
  let x := c.hart h
  match c.tileGate h (.tload h t rs1 rs2) true 1 true with
  | some r => r
  | none =>
    let ps := lineList (x.pointer (x.xr rs1)).toNat 1600
    c.tileRead h ps (fun c =>
      let y := c.hart h
      let rec_ := y.gotBytes ps
      let fails := (recFails rec_ (x.xr rs2).toNat).map (fun k => ({ kind := k, reg := t } : TFail))
      match fails with
      | [] => ((c.setHart h ((y.putTile t (mkTile (recCfg rec_) (recEl rec_)) false).dirtyXs)).tileSent h 0, .done)
      | f :: fs => c.tileStop h ([f] ++ fs.map (fun g => { g with kind := 9 })) (x.xr rs1))

/-- TSTORE (R112, R130, R135). -/
def Chip.tstore (c : Chip) (h t rs1 rs2 : Nat) : Chip × Perf :=
  let x := c.hart h
  let s := x.tileAt t
  match c.tileGate h (.tstore h t rs1 rs2) true 2 (cfgKind s.word != 0 && !(x.guarded && x.ung t)) with
  | some r => r
  | none =>
    let ps := lineList (x.pointer (x.xr rs1)).toNat 1600
    c.tileFind h ps (fun c =>
      match s.check t 4 false with
      | some f => c.tileStop h [f] 0
      | none =>
        let bytes := mkRecord s.word (x.xr rs2).toNat (elAt s.el)
        c.tileWrite h ps (fun k => ofBytes ((bytes.drop (64 * k)).take 64)) (fun c => (c.tileSent h 0, .done)))

/-- The rows of an unguarded tile access (R113): each row's accesses, by row. -/
def rowPieces (cfg : Nat) (ea : Word → Word) (base stride : Word) : List (Nat × Nat × Nat) :=
  (List.range (cfgRows cfg)).flatMap (fun i =>
    (linePieces ((ea (base + BitVec.ofNat 64 i * stride)).toNat) ((cfgCols cfg + 1) / 2 * 3)).map (fun e => (i, e.1, e.2)))

/-- The bytes of a row before an access of it. -/
def rowOffset (l : List (Nat × Nat × Nat)) (k : Nat) : Nat :=
  let i := (l.getD k (0, 0, 0)).1
  ((l.take k).filter (fun e => e.1 == i)).foldl (fun acc e => acc + e.2.2) 0

/-- TLOADU (R113, R129, R130). -/
def Chip.tloadu (c : Chip) (h t rs1 rs2 : Nat) : Chip × Perf :=
  let x := c.hart h
  let cfg := (x.tileAt t).word
  match c.tileGate h (.tloadu h t rs1 rs2) false 1 (cfgKind cfg != 0 && !x.guarded) with
  | some r => r
  | none =>
    let rows := rowPieces cfg x.pointer (x.xr rs1) (x.xr rs2)
    let ps := numberPieces (rows.map (fun e => (e.2.1, e.2.2)))
    c.tileRead h ps (fun c =>
      let y := c.hart h
      let row := fun (i : Nat) => (ps.filter (fun p => (rows.getD p.k (0, 0, 0)).1 == i)).flatMap (fun p =>
        toBytes p.n ((y.gotAt p.k).getD 0))
      ((c.setHart h ((y.putTile t (mkTile cfg (fun i j => unpackEl (row i) j)) true).dirtyXs)).tileSent h 0, .done))

/-- The bytes TSTOREU writes for a row: bits [23:12] of the last group are zero when the column count is odd (R113). -/
def rowBytes (cfg : Nat) (el : Sparse Nat) (i : Nat) : List Byte :=
  (packRow (fun j => if j < cfgCols cfg then elAt el i j else 0)).take ((cfgCols cfg + 1) / 2 * 3)

/-- TSTOREU (R113, R130, R135). -/
def Chip.tstoreu (c : Chip) (h t rs1 rs2 : Nat) : Chip × Perf :=
  let x := c.hart h
  let s := x.tileAt t
  match c.tileGate h (.tstoreu h t rs1 rs2) false 2 (cfgKind s.word != 0 && !(x.guarded && x.ung t)) with
  | some r => r
  | none =>
    let rows := rowPieces s.word x.pointer (x.xr rs1) (x.xr rs2)
    let ps := numberPieces (rows.map (fun e => (e.2.1, e.2.2)))
    c.tileFind h ps (fun c =>
      match s.check t 4 false with
      | some f => c.tileStop h [f] 0
      | none =>
        c.tileWrite h ps (fun k => ofBytes ((rowBytes s.word s.el (rows.getD k (0, 0, 0)).1).drop (rowOffset rows k)))
          (fun c => (c.tileSent h 0, .done)))

/-- The save area (R120). -/
def Hart.saveArea (x : Hart) : List Byte :=
  let body := [1#8, 0#8] ++ toBytes 1 (x.csrBits csrTcsr 11 4) ++ toBytes 1 (x.csrBits csrTcsr 15 12)
    ++ (List.range 8).flatMap (fun t => toBytes 4 (x.tileAt t).word)
    ++ (List.range 4).flatMap (fun a => toBytes 4 (x.accAt a).word) ++ toBytes 8 0
    ++ (List.range 8).flatMap (fun t => (List.range 32).flatMap (fun i => packRow (elAt (x.tileAt t).el i)))
    ++ (List.range 4).flatMap (fun a => (List.range 1024).flatMap (fun k => toBytes 4 (sget 0 k (x.accAt a).el)))
  toBytes 4 (crc32c body) ++ body

/-- TSAVE (R120, R121, R135): every register is checked before the first line is written. -/
def Chip.tsave (c : Chip) (h rs1 : Nat) : Chip × Perf :=
  let x := c.hart h
  match c.tileGate h (.tsave h rs1) true 2 true with
  | some r => r
  | none =>
    let ps := lineList (x.pointer (x.xr rs1)).toNat 28736
    c.tileFind h ps (fun c =>
      let fails := (List.range 8).filterMap (fun t => (x.tileAt t).check t 4 true)
        ++ (List.range 4).filterMap (fun a => (x.accAt a).check (8 + a) 4)
      if fails ≠ [] then c.tileStop h fails 0
      else
        let bytes := x.saveArea
        c.tileWrite h ps (fun k => ofBytes ((bytes.drop (64 * k)).take 64)) (fun c => (c.tileSent h 0, .done)))

/-- The checks of a save area that fail (R121): KIND 1 for the checksum, 3 for anything else. The zero bits [7:4] of byte 7 are checked as a
reserved byte is (log entry 95, DESIGN CHOICE: R120 has them zero, and R121 does not name them). -/
def saveFails (b : List Byte) : List Nat :=
  let word := fun (o : Nat) => ofBytes ((b.drop o).take 4)
  (if crc32c (b.drop 4) ≠ word 0 then [1] else [])
    ++ (if (b.drop 4).take 2 ≠ [1#8, 0#8] ∨ ((b.drop 56).take 8).any (· != 0)
          ∨ (ofBytes ((b.drop 7).take 1)) / 16 ≠ 0
          ∨ (List.range 8).any (fun t => !cfgOk false (word (8 + 4 * t)))
          ∨ (List.range 4).any (fun a => !cfgOk true (word (40 + 4 * a))) then [3] else [])

/-- The hart with its tile state read back from a save area (R121). -/
def Hart.restore (x : Hart) (b : List Byte) : Hart :=
  let word := fun (o : Nat) => ofBytes ((b.drop o).take 4)
  let x1 := forUpTo 8 (fun t y =>
    y.putTile t (mkTile (word (8 + 4 * t)) (fun i j => unpackEl ((b.drop (64 + 1536 * t + 48 * i)).take 48) j))
      (bitAt (ofBytes ((b.drop 6).take 1)) t)) x
  let x2 := forUpTo 4 (fun a y =>
    (y.putAcc a (mkAcc (word (40 + 4 * a)) (fun i j => word (12352 + 4096 * a + 128 * i + 4 * j)))).putBit csrTcsr
      (12 + a) (bitAt (ofBytes ((b.drop 7).take 1)) a)) x1
  x2.dirtyXs

/-- TRESTORE (R121). -/
def Chip.trestore (c : Chip) (h rs1 : Nat) : Chip × Perf :=
  let x := c.hart h
  match c.tileGate h (.trestore h rs1) true 1 true with
  | some r => r
  | none =>
    let ps := lineList (x.pointer (x.xr rs1)).toNat 28736
    c.tileRead h ps (fun c =>
      let y := c.hart h
      let b := y.gotBytes ps
      match saveFails b with
      | [] => ((c.setHart h (y.restore b)).tileSent h 0, .done)
      | k :: ks => c.tileStop h ([{ kind := k, reg := 0 }] ++ ks.map (fun _ => { kind := 9, reg := 0 })) (x.xr rs1))

-- CSRs, WFI and fences

/-- A CSR instruction of privilege `lvl` is legal in the hart's mode: illegal-instruction below it, virtual-instruction for
a hypervisor-visible one with V set. -/
def Hart.csrTrap (x : Hart) (lvl : Nat) (virtOk : Bool) : Option Nat :=
  if x.priv < lvl then some (if x.virt && lvl = 1 then 22 else 2)
  else if x.virt && !virtOk then some 22
  else none

/-- A write of mworld (R63): NEXT, but not 2, and FORCE_CLEAR. -/
def Hart.writeMworld (x : Hart) (v : Word) : Hart :=
  let n := bits v.toNat 7 4
  let y := if n = 2 then x else x.putCsr csrMworld 7 4 n
  y.putBit csrMworld 12 (v.toNat.testBit 12)

/-- WFI (R34): it waits while no enabled interrupt is pending. -/
def Chip.wfi (c : Chip) (h : Nat) : Chip × Perf :=
  let x := c.hart h
  if x.priv = 0 ∧ !x.virt then c.stopWith h { cause := 2, tval := 0x10500073 }
  else if x.priv < 3 ∧ x.csrBit csrMstatus 21 then c.stopWith h { cause := 2, tval := 0x10500073 }
  else if x.virt ∧ (x.priv = 0 ∨ x.csrBit csrHstatus 21) then c.stopWith h { cause := 22, tval := 0x10500073 }
  else if (c.mip h &&& c.mie h) ≠ 0 then (c, .done)
  else (c.onHart h (fun y => { y with run := .wfi }), .done)

/-- An access to tcsr or tfault (R66): reads rd, and a write changes INT_SAT of tcsr alone. -/
def Chip.tileCsr (c : Chip) (h rd : Nat) (isFault : Bool) (wr : Option Word) : Chip × Perf :=
  let x := c.hart h
  if !x.tileOn then c.stopIllegal h 2
  else
    let old := x.getCsr (if isFault then csrTfault else csrTcsr)
    let y := match wr with
      | some v => if isFault then x else (x.putBit csrTcsr 0 (v.toNat.testBit 0)).dirtyXs
      | none => x
    (c.setHart h (y.setX rd old), .done)

-- performing

/-- An instruction occupies the tile unit (R96, R97). -/
def isTile (i : Instr) : Bool := i.tileBits != 0

/-- The outcome of a register-to-register tile instruction: it completes unless it trapped, which discards what waits. -/
def Chip.tileReg (c : Chip) (h : Nat) (i : Instr) (f : Hart → TOut) : Chip × Perf :=
  let x := c.hart h
  let stops := !x.tileOn || (match f x with
    | .done _ => false
    | _ => true)
  (c.tileRun h i f, if stops then .ended else .done)

/-- TSAVE, which waits for every older tile instruction to complete (R121). -/
def isSave : Instr → Bool
  | .tsave _ _ => true
  | _ => false

/-- Perform one instruction of a hart. An instruction of the tile unit waits while the unit holds 8, and while an older
instruction that is not one has not retired (R116). -/
def Chip.perform (c : Chip) (h : Nat) (i : Instr) : Chip × Perf :=
  if isTile i ∧ (8 ≤ (c.hart h).tsent.length ∨ (c.hart h).younger ≠ 0 ∨ (isSave i ∧ (c.hart h).tsent ≠ [])) then (c, .wait)
  else
    match i with
    | .load _ rd va size signed _ => c.load h rd ((c.hart h).eaddr va) size signed
    | .store _ rs va size _ => c.store h rs ((c.hart h).eaddr va) size
    | .amo _ op rd rs va size => c.amo h op rd rs ((c.hart h).eaddr va) size
    | .lr _ rd va size => c.lr h rd ((c.hart h).eaddr va) size
    | .sc _ rd rs va size => c.sc h rd rs ((c.hart h).eaddr va) size
    | .instructionFetch _ va => c.fetch h va
    | .cboClean _ va => c.cbo h ((c.hart h).eaddr va) .clean
    | .cboFlush _ va => c.cbo h ((c.hart h).eaddr va) .flush
    | .cboInval _ va => c.cbo h ((c.hart h).eaddr va) .inval
    | .cboZero _ va => c.cbo h ((c.hart h).eaddr va) .zero
    | .mret _ => (c.mret h, if (c.hart h).priv = 3 then .done else .ended)
    | .mworldWrite _ v =>
      (match (c.hart h).csrTrap 3 true with
        | some k => c.stopIllegal h k
        | none => (c.onHart h (fun x => x.writeMworld v), .done))
    | .sqoslabelWrite _ v =>
      (match (c.hart h).csrTrap 1 false with
        | some k => c.stopIllegal h k
        | none => (c.onHart h (fun x => x.setCsr csrSqoslabel (BitVec.ofNat 64 (v.toNat % 64))), .done))
    | .tileCsrAccess _ rd f wr => c.tileCsr h rd f wr
    | .wfi _ => c.wfi h
    | .tmma _ a ta tb bad => c.tileReg h i (fun x => tmma x false a ta tb bad)
    | .tmmat _ a ta tb bad => c.tileReg h i (fun x => tmma x true a ta tb bad)
    | .taddAa _ d s bad => c.tileReg h i (fun x => taddAa x d s bad)
    | .taddAt _ d s bad => c.tileReg h i (fun x => taddAt x d s bad)
    | .tzeroTile _ t => c.tileReg h i (fun x => tzeroTile x t)
    | .tzeroAcc _ a => c.tileReg h i (fun x => tzeroAcc x a)
    | .tchkTile _ t => c.tileReg h i (fun x => tchkTile x t)
    | .tchkAcc _ a => c.tileReg h i (fun x => tchkAcc x a)
    | .tcfgTile _ t r => c.tileReg h i (fun x => tcfgTile x t (x.xr r))
    | .tcfgAcc _ a r => c.tileReg h i (fun x => tcfgAcc x a (x.xr r))
    | .tsumsTile _ rd t r => c.tileReg h i (fun x => tsums x rd (tsumsTileVal (x.tileAt t) (x.xr r).toNat))
    | .tsumsAcc _ rd a r => c.tileReg h i (fun x => tsums x rd (tsumsAccVal (x.accAt a) (x.xr r).toNat))
    | .tcvt _ t a r rm => c.tileReg h i (fun x => tcvt x t a r rm)
    | .tload _ t r1 r2 => c.tload h t r1 r2
    | .tstore _ t r1 r2 => c.tstore h t r1 r2
    | .tloadu _ t r1 r2 => c.tloadu h t r1 r2
    | .tstoreu _ t r1 r2 => c.tstoreu h t r1 r2
    | .tsave _ r1 => c.tsave h r1
    | .trestore _ r1 => c.trestore h r1
    | _ => (c, .done)

/-- An instruction retires once it is performed and older ones have retired: a tile instruction retires when the unit completes it
(R116), and a fetch alone is none. -/
def retiresNow (i : Instr) : Bool :=
  match i with
  | .instructionFetch _ _ => false
  | _ => !isTile i

/-- A hart performs what waits, oldest first, while it runs: `k` bounds how many instructions. -/
def Chip.drain (c : Chip) (h : Nat) : Nat → Chip
  | 0 => c
  | k + 1 =>
    let x := c.hart h
    match x.run, x.hq with
    | .running, i :: _ =>
      let r := c.perform h i
      match r.2 with
      | .wait => r.1
      | .ended => r.1.drain h k
      | .done =>
        let c1 := (r.1.settle h).onHart h (fun y => { y.discard with hq := y.hq.drop 1 })
        (if retiresNow i then (c1.finish h).stepHalt h else if isTile i then c1.stepHalt h else c1).drain h k
    | _, _ => c

/-- The oldest instruction has an access that cannot be undone: an I/O access that is outstanding, or those of a tile instruction that has
been sent to the unit (R116). -/
def Hart.begun (x : Hart) : Bool := x.io != none || (x.xlat != [] && x.hq.head?.any isTile)

/-- A hart halts: at once, or when the access that has begun is over (log entry 128, DEDUCED); what has not begun is discarded. -/
def Hart.haltSoon (x : Hart) (why : Nat) : Hart :=
  if x.begun then { x with hq := x.hq.take 1, haltWait := some why } else x.halt why

/-- An interrupt that waited for the tile unit and for an outstanding I/O access is taken, if it is still pending and
enabled (R117). -/
def Chip.irqPoll (c : Chip) (h : Nat) : Chip :=
  let x := c.hart h
  match x.irqWait with
  | none => c
  | some cause =>
    if x.tsent ≠ [] ∨ x.begun ∨ x.run ≠ .running then c
    else if c.irqReady h cause then c.takeTrap h { cause := cause, int := true }
    else c.onHart h (fun x => { x with irqWait := none })

/-- A halt that waited for an access takes place; in a world whose invasive debug is disabled the request stays pending (R86). -/
def Chip.haltPoll (c : Chip) (h : Nat) : Chip :=
  let x := c.hart h
  match x.haltWait with
  | none => c
  | some why =>
    if x.begun ∨ x.run ≠ .running then c
    else if c.invEff x.world then c.onHart h (fun x => x.halt why)
    else c.onHart h (fun x => { x with haltWait := none, haltPending := true })

/-- A hart performs everything it can; then an interrupt or a halt that waited may be taken. -/
def Chip.run (c : Chip) (h : Nat) : Chip := ((c.drain h (c.hart h).hq.length).irqPoll h).haltPoll h

/-- The harts of a die go on: a message has reached the die. -/
def Chip.runDie (c : Chip) (d : Nat) : Chip :=
  (dieHarts d).foldl (fun x h => if (x.hart h).hq.isEmpty then x else x.run h) c

/-- A hart executes an instruction: it joins those that wait and is performed in its turn. A hart that does not run, or
that drains for an interrupt or a halt, executes nothing. -/
def Chip.issueInstr (c : Chip) (h : Nat) (i : Instr) : Chip :=
  if (c.hart h).run = .running ∧ (c.hart h).irqWait = none ∧ (c.hart h).haltWait = none then (c.onHart h (fun x => { x with hq := x.hq ++ [i] })).run h
  else c

end Sys2Proof.Machine
end

