-- ==== Sys2Proof/Machine/Die.lean ====
section
/-! DEFINITION. What a compute die does with the messages that reach it (R183, R185, R188, R191, R192, R217), and the
evictions and prefetches it starts itself (R72, R167, R186). -/

namespace Sys2Proof.Machine

-- grants

/-- The request of a die for a line is answered: it no longer stands among the outstanding ones. -/
def Chip.dropMiss (c : Chip) (d line : Nat) : Chip :=
  { c with miss := c.miss.filter (fun m => !(m.req.die == d && m.req.line == line)) }

/-- COMP_ACK of a request (R183). -/
def Chip.ackComp (c : Chip) (m : Msg) : Chip := c.issue { m.reply .COMP_ACK with rkind := 0 }

/-- An answer to a hart's I/O access or cache-block operation: only one that waits takes it. -/
def Chip.giveIo (c : Chip) (h st : Nat) (v : Word) : Chip :=
  c.onHart h (fun x => if x.io = some none then { x with io := some (some (st, v)) } else x)

/-- The copy a die keeps of a line under an outstanding UPGRADE (R183): the strongest, else what the landing array holds. -/
def Chip.ownCopy (c : Chip) (d line : Nat) : Line × Bool × Bool :=
  let s := c.strongest d line
  match s.1, c.lndAt d line with
  | .I, some l => (l.data, l.poison, false)
  | _, _ => (s.2.1, s.2.2.1, s.1.dirty)

/-- The line that a COMP's SRC names (R183): the die's own copy, home data, or the forwarded line; none while it has not
come. -/
def Chip.grantData (c : Chip) (x : Miss) (comp : Msg) : Option (Line × Bool × Bool) :=
  match comp.src with
  | 0 => if x.req.kind = .RD_OWN_ZERO then some (0, false, false) else some (c.ownCopy x.req.die x.req.line)
  | 1 => x.data.map (fun m => (m.data, m.poison, false))
  | _ => x.fwd.map (fun m => (m.data, m.poison, m.dirty))

/-- COMP.STATE as a state of an L2 line. -/
def grantState (n : Nat) : Moesi := match n with | 0 => .S | 1 => .E | 2 => .O | _ => .M

/-- A maintenance engine of a die waits for the fill of a line (R163). -/
def Chip.engineAwaits (c : Chip) (d line : Nat) : Bool := c.mnt.any (fun r => r.key == d && r.wait.contains line)

/-- A poisoned fill that a maintenance engine waits for leaves no line (R163). -/
def Chip.dropFill (c : Chip) (d line h : Nat) : Chip :=
  (((c.holders d line).foldl (fun x k => x.dropL2 k line) c).setLnd d line none).evictClean d line h

/-- The run of a die's CME that has a cache-block operation for a line under way. -/
def MntRun.awaits (r : MntRun) (m : Msg) : Bool := m.rid == cmeRid r.key && r.sent.contains m.line

/-- The line waits no longer. -/
def MntRun.drop (r : MntRun) (line : Nat) : MntRun :=
  { r with wait := r.wait.filter (· != line), sent := r.sent.filter (· != line) }

/-- A cache-block operation of a CME has been performed at the home (R464): a line written back is counted in WB_LINES. -/
def Chip.cmeAnswered (c : Chip) (m : Msg) : Chip :=
  let c1 := if m.kind = .CMO_CLEAN && c.mnt.any (fun r => r.awaits m) then c.bump (.CME_STATUS m.die) F.CME_STATUS_WB_LINES else c
  { c1 with mnt := c1.mnt.map (fun r => if r.awaits m then r.drop m.line else r) }

/-- Install a line when COMP and the data it names are both there and the L2 has room (R147, R149, R183); a cache-block operation needs no
data. An access that waits is performed with it. -/
def Chip.tryInstall (c : Chip) (d line : Nat) : Chip :=
  match c.missOf d line with
  | none => c
  | some x =>
    match x.comp with
    | none => c
    | some comp =>
      match x.req.kind with
      | .CMO_CLEAN | .CMO_FLUSH | .CMO_INVAL =>
        let c1 := (c.dropMiss d line).ackComp x.req
        (if x.h < 288 then c1.giveIo x.h 0 0 else c1.cmeAnswered x.req).runDie d
      | _ =>
        match c.grantData x comp with
        | none => c
        | some (v, poison, dirty) =>
          let st := grantState comp.grant
          let bad := poison || comp.poison
          let c1 := c.dropMiss d line
          let c2 := if st = .M then c1.dropOthers x.h line else c1
          if !c2.l2HasRoom x.h line then c
          else
            let c3 := c2.installL2 x.h line st x.req.world v bad
            let c4 := if x.req.kind = .RD_SHARED ∧ !dirty then c3.lndAlloc d line x.h v bad x.req.world st.owns else c3
            let c5 := (c4.ackComp x.req).runDie d
            if bad && c.engineAwaits d line then c5.dropFill d line x.h else c5

/-- Fills that waited for room in an L2 of a die are installed, as far as there is room now, and the lines that the die has still to drop
leave (R333). -/
def Chip.retryInstalls (c : Chip) (d : Nat) : Chip :=
  (((c.miss.filter (fun m => m.req.die == d && m.comp.isSome)).map (fun m => m.req.line)).foldl (fun x l => x.tryInstall d l) c).dropAgain d

-- snoops

/-- A die answers a snoop (R185): RSP to the home, and FWD_DATA to the die that the snoop names where the line is
forwarded. -/
def Chip.answerSnoop (c : Chip) (m : Msg) : Chip :=
  let r := c.snoop m
  let a := r.2
  let c1 := if a.dcode = 2 then
      r.1.sendDie { m.reply .FWD_DATA with die := m.fwd, fwd := m.die, dirty := a.dirty, poison := a.poison, data := a.data }
    else r.1
  c1.send { m.reply .RSP with held := a.held, dcode := a.dcode, dirty := a.dirty, poison := a.poison, data := a.data }

/-- A snoop reaches a die: one that meets a hold, or earlier snoops of its line that wait, is queued (R188). A die that
does not run answers nothing. -/
def Chip.snoopArrive (c : Chip) (m : Msg) : Chip :=
  let c1 := c.arrive m
  if !c1.dieUp m.die then c1
  else if c1.dieHolds m.die m.line || c1.snoopQ.any (fun s => s.die == m.die && s.line == m.line) then
    { c1 with snoopQ := c1.snoopQ ++ [m] }
  else ((c1.answerSnoop m).runDie m.die).retryInstalls m.die

/-- The queued snoops of a line at a die are served in arrival order (R188). -/
def Chip.serveSnoops (c : Chip) (d line : Nat) : Chip :=
  if c.dieHolds d line then c
  else
    let mine := fun (s : Msg) => s.die == d && s.line == line
    (((c.snoopQ.filter mine).foldl (fun (x : Chip) m => x.answerSnoop m)
      { c with snoopQ := c.snoopQ.filter (fun s => !mine s) }).runDie d).retryInstalls d

/-- The hold of an L2 on a line ends (R188): nothing while it still lasts. -/
def Chip.holdEnd (c : Chip) (h line : Nat) : Chip :=
  let l := c.l2at h line
  if c.held l then c
  else (c.setL2 h line { l with hold := none, pinned := false, winning := false }).serveSnoops (hartDie h) line

/-- Note a message on the outstanding request whose transaction tag it carries (R181, R183), and install the line if nothing is missing; its
completion can make room for others that wait. -/
def Chip.noteMiss (c : Chip) (m : Msg) (f : Miss → Miss) : Chip :=
  let c1 := c.arrive m
  if m.die < 12 then
    (({ c1 with miss := c1.miss.map (fun x => if x.req.die = m.die ∧ x.req.line = m.line ∧ x.req.tag = m.tag then f x else x) } :
      Chip).tryInstall m.die m.line).retryInstalls m.die
  else c1

/-- COMP, DATA and FWD_DATA reach a die (R183). -/
def Chip.compArrive (c : Chip) (m : Msg) : Chip := c.noteMiss m (fun x => { x with comp := some m })
def Chip.dataArrive (c : Chip) (m : Msg) : Chip := c.noteMiss m (fun x => { x with data := some m })
def Chip.fwdArrive (c : Chip) (m : Msg) : Chip := c.noteMiss m (fun x => { x with fwd := some m })

-- acknowledgements of write-backs

/-- The home acknowledges a write-back (R150, R191): the entry is freed, and a landing copy takes the written data, unless
the write-back was stale. Where the home kept the die's name for copies that have left meanwhile, EVICT_CLEAN tells it (R177, R186). What
waited for room in the buffer goes on (R147, R311). -/
def Chip.wbAcked (c : Chip) (m : Msg) (stale : Bool) : Chip :=
  let c1 := c.arrive m
  match c1.wb.find? (fun e => e.h / 24 == m.die && e.line == m.line && e.sent) with
  | none => c1
  | some e =>
    let c2 : Chip := { c1 with wb := dropFirst e c1.wb }
    let c3 := if stale then c2 else c2.lndUpdate m.die m.line e.data e.poison false
    let c4 := if !stale && e.keep then c3.evictClean m.die m.line e.h else c3
    ((c4.sweepL2 e.h).retryInstalls m.die).runDie m.die

-- refusals

/-- A held hit has been answered. -/
def Chip.dropCheck (c : Chip) (h line : Nat) : Chip := { c with wchk := c.wchk.filter (fun w => !(w.1 == h && w.2.1 == line)) }

/-- A refusal reaches the hart whose access it is for (R64): one whose access has been discarded, or that has left the world that was
refused, keeps none, and the operation it waited for is over. -/
def Hart.takeRefusal (x : Hart) (world line check entry : Nat) : Hart :=
  if x.hq.isEmpty || x.world != world then { x with io := if x.hq.isEmpty && x.io == some none then none else x.io }
  else { x with refusal := some (line, check, entry) }

/-- A request of a hart has been refused: its outstanding request and its held hit end, and the hart takes the refusal at
the access it belongs to; a prefetch is dropped and counted (R72, R148, R283); a maintenance engine notes it (R162). -/
def Chip.refused (c : Chip) (m : Msg) (check entry : Nat) : Chip :=
  let c2 := (c.dropMiss m.die m.line).dropCheck m.rid m.line
  if 288 ≤ m.rid then { c2 with mnt := c2.mnt.map (fun r => if r.awaits m then { r.drop m.line with refused := true } else r) }
  else if m.acc = 8 then c2.countEvent m.rid 0x31
  else (c2.onHart m.rid (fun x => x.takeRefusal m.world m.line check entry)).runDie m.die

/-- The line that a hit by a hart met takes the hart's world (R148): the hart's own L2 line, else a sibling's, else the landing copy. -/
def Chip.retag (c : Chip) (h d line world : Nat) : Chip :=
  match (if (c.l2at h line).st != .I then some h else c.bestHolder d line) with
  | some k => c.setL2 k line { c.l2at k line with world := world }
  | none =>
    match c.lndAt d line with
    | some l => c.setLnd d line (some { l with world := world })
    | none => c

/-- WCHK_RSP (R148): the held hit is served and the line takes the requester's world, or the request is refused. -/
def Chip.wchkAnswer (c : Chip) (m : Msg) : Chip :=
  let c1 := c.arrive m
  if !m.pass then c1.refused m m.code m.mask.toNat
  else
    ((c1.dropCheck m.rid m.line).retag m.rid m.die m.line m.world).runDie m.die

/-- UNAVAIL (R217): a hart takes an access fault that writes no mwfinfo; for an I/O agent the request ends. -/
def Chip.unavailable (c : Chip) (m : Msg) : Chip :=
  let c1 := c.arrive m
  if m.die < 12 then
    if m.rid < 288 ∧ (c1.hart m.rid).io = some none ∧ (c1.missOf m.die m.line).isNone then
      (c1.giveIo m.rid 1 0).runDie m.die
    else c1.refused m 0 0
  else c1

/-- IO_RSP and IO_ACK reach the requester (R200, R205). -/
def Chip.ioAnswer (c : Chip) (m : Msg) (st : Nat) : Chip :=
  let c1 := c.arrive m
  if m.die < 12 ∧ m.rid < 288 then (c1.giveIo m.rid st (m.data.setWidth 64)).runDie m.die else c1

-- evictions

/-- An L2 chooses a line as its victim (R147, R167, R183): not one an outstanding UPGRADE concerns, nor a dirty one while
the write-back buffer is full. -/
def Chip.evict (c : Chip) (h line : Nat) : Chip :=
  if !c.victimOk (hartDie h) line then c
  else (c.evictL2 h line).retryInstalls (hartDie h)

/-- A request for a line in the write-back buffer of an L2 (R167): an unsent write-back is cancelled, a sent one is waited
for. -/
def Chip.wbHit (c : Chip) (h line : Nat) : Chip :=
  match c.wb.find? (fun e => e.h == h && e.line == line && !e.sent && !e.superseded) with
  | some e => ((c.cancelWb e).getD c).runDie (hartDie h)
  | none => c

/-- Every write-back that has not been passed to its die's egress is (R167). -/
def Chip.sendWritebacks (c : Chip) : Chip :=
  (c.wb.filter (fun e => !e.sent)).foldl (fun (x : Chip) e => x.sendWb e) c

-- prefetches

/-- The world of the copy that a read of a hart hits on its die (R148, R175): its own L2's, else a sibling's, else the landing cache's. -/
def Chip.hitWorld (c : Chip) (h line : Nat) : Option Nat :=
  match (if (c.l2at h line).st != .I then some h else c.bestHolder (hartDie h) line) with
  | some k => some (c.l2at k line).world
  | none => (c.lndLive (hartDie h) line).map (fun l => l.world)

/-- A prefetch (R72): from the stream at `pa`, of the address `next` in the same page; a hit that would need a world check
is dropped (R148). -/
def Chip.prefetch (c : Chip) (h pa next : Nat) : Chip :=
  let line := next / 64
  let d := hartDie h
  if (c.hart h).run ≠ .running ∨ !(c.hart h).streamTrained pa next ∨ pa / 4096 ≠ next / 4096 ∨ !(c.region next).homed then c
  else
    let c1 := c.countEvent h 0x30
    if (c1.hitWorld h line).any (fun w => w != (c.hart h).world) then c1.countEvent h 0x31
    else if (c1.wbAny d line).isSome then c1
    else (c1.seek h line .read 8 4).1

-- the commands

def execSnpShared (m : Msg) (s : State) : Result := need (m.fits .SNP_SHARED && m.die < 12) (s.onChip (fun c => c.ifArrives m (fun x => x.snoopArrive m)))
def execSnpOwn (m : Msg) (s : State) : Result := need (m.fits .SNP_OWN && m.die < 12) (s.onChip (fun c => c.ifArrives m (fun x => x.snoopArrive m)))
def execSnpInv (m : Msg) (s : State) : Result := need (m.fits .SNP_INV && m.die < 12) (s.onChip (fun c => c.ifArrives m (fun x => x.snoopArrive m)))
def execSnpOnce (m : Msg) (s : State) : Result := need (m.fits .SNP_ONCE && m.die < 12) (s.onChip (fun c => c.ifArrives m (fun x => x.snoopArrive m)))
def execSnpClean (m : Msg) (s : State) : Result := need (m.fits .SNP_CLEAN && m.die < 12) (s.onChip (fun c => c.ifArrives m (fun x => x.snoopArrive m)))
def execBackInv (m : Msg) (s : State) : Result := need (m.fits .BACK_INV && m.die < 12) (s.onChip (fun c => c.ifArrives m (fun x => x.snoopArrive m)))
def execFwdData (m : Msg) (s : State) : Result := need (m.fits .FWD_DATA) (s.onChip (fun c => c.ifArrives m (fun x => x.fwdArrive m)))
def execComp (m : Msg) (s : State) : Result := need (m.fits .COMP) (s.onChip (fun c => c.ifArrives m (fun x => x.compArrive m)))
def execData (m : Msg) (s : State) : Result := need (m.fits .DATA) (s.onChip (fun c => c.ifArrives m (fun x => x.dataArrive m)))
def execWbAck (m : Msg) (s : State) : Result := need (m.fits .WB_ACK) (s.onChip (fun c => c.ifArrives m (fun x => x.wbAcked m false)))
def execWbAckStale (m : Msg) (s : State) : Result := need (m.fits .WB_ACK_STALE) (s.onChip (fun c => c.ifArrives m (fun x => x.wbAcked m true)))
def execWchkRsp (m : Msg) (s : State) : Result := need (m.fits .WCHK_RSP) (s.onChip (fun c => c.ifArrives m (fun x => x.wchkAnswer m)))
def execIoAck (m : Msg) (s : State) : Result := need (m.fits .IO_ACK) (s.onChip (fun c => c.ifArrives m (fun x => x.ioAnswer m 0)))

/-- A line number, and a hart ID. -/
def lineOk (line : Nat) : Bool := line < 2 ^ 46
def hartOk (h : Nat) : Bool := h < 288

def execHoldWindowEnd (h line : Nat) (s : State) : Result :=
  need (hartOk h && lineOk line) (s.onChip (fun c => c.holdEnd h line))
def execL2Eviction (h line : Nat) (s : State) : Result := need (hartOk h && lineOk line) (s.onChip (fun c => c.evict h line))
def execWbBufferHit (h line : Nat) (s : State) : Result := need (hartOk h && lineOk line) (s.onChip (fun c => c.wbHit h line))
def execPrefetchIssue (h pa next : Nat) (s : State) : Result :=
  need (hartOk h && pa < 2 ^ 52 && next < 2 ^ 52) (s.onChip (fun c => c.prefetch h pa next))

/-- HALL_DIE_PURGE (R195). -/
def execHallDiePurge (n d : Nat) (s : State) : Result := need (n < 16 && d < 12) (s.onPkg (fun p => p.hallPurge n d))

/-- No directory entry names a die (R195 step 4). -/
def Chip.dirFree (c : Chip) (d : Nat) : Bool :=
  c.dir.all (fun e => !((2 ≤ e.2.state && e.2.owner == d) || e.2.ptrs.contains d))

/-- The walk of a lost die ends in every hall (R195 step 6): once all sixteen have been notified and no entry names it, PURGE_BUSY
clears, unless another die is purged still, and the die-state event is raised. -/
def Chip.purgeDone (c : Chip) (d : Nat) : Chip :=
  if (c.die d).purging && c.dirFree d && (List.range 16).all (fun n => (c.die d).told.contains n) then
    let others := (List.range 12).any (fun x => x != d && (c.die x).purging)
    ((forUpTo 16 (fun n x => if others then x else x.setBit (.HALL_DIR_STATUS n) F.HALL_DIR_STATUS_PURGE_BUSY false) c).onDie d (fun x =>
      { x with purging := false, told := [] })).raiseEvent (192 + d)
  else c

/-- DIE_PURGE_DONE (R195). -/
def execDiePurgeDone (d : Nat) (s : State) : Result := need (d < 12) (s.onChip (fun c => c.purgeDone d))

end Sys2Proof.Machine
end

