-- ==== Sys2Proof/Machine/Crypto.lean ====
section
/-! DEFINITION. What the crypto engine computes (R382): AES in GCM and XTS, SHA-2 and SHA-3. The manual names the algorithms
and leaves their definition to the standards it names them by (FIPS 197, SP 800-38D, IEEE 1619, FIPS 180-4, FIPS 202). Bytes
are numbers below 256 here. -/

namespace Sys2Proof.Machine

/-- A list of bytes as numbers, and back. -/
def nums (l : List Byte) : List Nat := l.map (fun b => b.toNat)
def unnums (l : List Nat) : List Byte := l.map (BitVec.ofNat 8)

/-- Element-wise exclusive or, as long as both lists last. -/
def xorL (a b : List Nat) : List Nat := List.zipWith (· ^^^ ·) a b

/-- A number as n bytes, most significant first, and back. -/
def beBytes (n v : Nat) : List Nat := (List.range n).map (fun i => v / 256 ^ (n - 1 - i) % 256)
def beNat (l : List Nat) : Nat := l.foldl (fun a b => a * 256 + b) 0

/-- The list cut into pieces of n, the last one shorter; `fuel` is at least the number of pieces. -/
def chunks (n : Nat) : Nat → List Nat → List (List Nat)
  | 0, _ => []
  | fuel + 1, l => if l.isEmpty then [] else l.take n :: chunks n fuel (l.drop n)

-- AES

/-- Multiplication by x, and of two elements, in GF(2^8) modulo x^8 + x^4 + x^3 + x + 1. -/
def aesXtime (a : Nat) : Nat := if 128 ≤ a then (2 * a % 256) ^^^ 0x1B else 2 * a
def aesMul (a b : Nat) : Nat :=
  (forUpTo 8 (fun i (s : Nat × Nat) => (if b.testBit i then s.1 ^^^ s.2 else s.1, aesXtime s.2)) (0, a)).1

/-- The inverse, a^254; 0 for 0. -/
def aesInv (a : Nat) : Nat := (forUpTo 7 (fun _ (s : Nat × Nat) =>
  let q := aesMul s.2 s.2
  (aesMul s.1 q, q)) (1, a)).1

/-- A byte rotated left. -/
def rotl8 (a n : Nat) : Nat := (a * 2 ^ n % 256) ||| (a / 2 ^ (8 - n))

/-- The substitution box and its inverse. -/
def aesSub (a : Nat) : Nat :=
  let i := aesInv a
  i ^^^ rotl8 i 1 ^^^ rotl8 i 2 ^^^ rotl8 i 3 ^^^ rotl8 i 4 ^^^ 0x63
def aesUnsub (a : Nat) : Nat := aesInv (rotl8 a 1 ^^^ rotl8 a 3 ^^^ rotl8 a 6 ^^^ 0x05)

/-- Column word i of the key schedule from the words before it, latest first; nk words of key. -/
def aesNextWord (nk i : Nat) (ws : List (List Nat)) : List Nat :=
  let prev := ws.headD []
  let back := ws.getD (nk - 1) []
  let t :=
    if i % nk = 0 then
      xorL ((prev.drop 1 ++ prev.take 1).map aesSub) [forUpTo (i / nk - 1) (fun _ r => aesXtime r) 1, 0, 0, 0]
    else if 6 < nk ∧ i % nk = 4 then prev.map aesSub
    else prev
  xorL back t

/-- The round keys of a key of 16 or 32 bytes, first round first. -/
def aesKeys (key : List Nat) : List (List Nat) :=
  let nk := key.length / 4
  let ws := forUpTo (4 * (nk + 7) - nk) (fun i ws => aesNextWord nk (nk + i) ws :: ws) (chunks 4 nk key).reverse
  chunks 16 (nk + 7) ws.reverse.flatten

/-- ShiftRows, its inverse, and MixColumns with a row of coefficients; byte 4c + r stands in row r, column c. -/
def aesShift (s : List Nat) : List Nat := (List.range 16).map (fun k => s.getD ((k + 4 * (k % 4)) % 16) 0)
def aesUnshift (s : List Nat) : List Nat := (List.range 16).map (fun k => s.getD ((k + 12 * (k % 4)) % 16) 0)
def aesMix (co s : List Nat) : List Nat :=
  (List.range 16).map (fun k =>
    (List.range 4).foldl (fun a r => a ^^^ aesMul (co.getD ((r + 4 - k % 4) % 4) 0) (s.getD (k / 4 * 4 + r) 0)) 0)

/-- Encrypt one block under round keys. -/
def aesEnc (rk : List (List Nat)) (b : List Nat) : List Nat :=
  match rk with
  | [] => b
  | k0 :: rest =>
    let mid := rest.dropLast.foldl (fun s k => xorL (aesMix [2, 3, 1, 1] (aesShift (s.map aesSub))) k) (xorL b k0)
    xorL (aesShift (mid.map aesSub)) (rest.getLastD [])

/-- Decrypt one block under round keys. -/
def aesDec (rk : List (List Nat)) (b : List Nat) : List Nat :=
  match rk.reverse with
  | [] => b
  | kn :: rest =>
    let mid := rest.dropLast.foldl (fun s k => aesMix [14, 11, 13, 9] (xorL ((aesUnshift s).map aesUnsub) k)) (xorL b kn)
    xorL ((aesUnshift mid).map aesUnsub) (rest.getLastD [])

-- GCM

/-- A product in GF(2^128) as GCM writes it: the most significant bit is the coefficient of x^0. -/
def gcmMul (x y : Nat) : Nat :=
  (forUpTo 128 (fun i (s : Nat × Nat) =>
    (if x.testBit (127 - i) then s.1 ^^^ s.2 else s.1, if s.2 % 2 = 1 then (s.2 / 2) ^^^ (0xE1 * 2 ^ 120) else s.2 / 2)) (0, y)).1

/-- Bytes padded with zeros to whole blocks. -/
def gcmPad (l : List Nat) : List Nat := l ++ List.replicate ((16 - l.length % 16) % 16) 0

/-- GHASH of whole blocks. -/
def ghash (h : Nat) (l : List Nat) : Nat := (chunks 16 l.length l).foldl (fun y b => gcmMul (y ^^^ beNat b) h) 0

/-- The counter stream applied to data: block i under the counter 2 + i. -/
def gcmCtr (rk : List (List Nat)) (iv data : List Nat) : List Nat :=
  ((chunks 16 data.length data).zipIdx.map (fun p => xorL p.1 (aesEnc rk (iv ++ beBytes 4 (2 + p.2))))).flatten

/-- The tag of a ciphertext and its additional data. -/
def gcmTag (rk : List (List Nat)) (iv aad ct : List Nat) : List Nat :=
  let h := beNat (aesEnc rk (List.replicate 16 0))
  let s := ghash h (gcmPad aad ++ gcmPad ct ++ beBytes 8 (8 * aad.length) ++ beBytes 8 (8 * ct.length))
  xorL (beBytes 16 s) (aesEnc rk (iv ++ beBytes 4 1))

/-- GCM_ENC: the ciphertext and its tag. -/
def gcmSeal (key iv aad pt : List Nat) : List Nat × List Nat :=
  let rk := aesKeys key
  let ct := gcmCtr rk iv pt
  (ct, gcmTag rk iv aad ct)

/-- GCM_DEC: the plaintext, none where the tag does not match. -/
def gcmOpen (key iv aad ct tag : List Nat) : Option (List Nat) :=
  let rk := aesKeys key
  if gcmTag rk iv aad ct = tag then some (gcmCtr rk iv ct) else none

-- XTS

/-- The tweak of the next block. -/
def xtsNext (t : List Nat) : List Nat :=
  let v := (t.foldr (fun b a => a * 256 + b) 0) * 2
  let w := if 2 ^ 128 ≤ v then (v % 2 ^ 128) ^^^ 0x87 else v
  (List.range 16).map (fun i => w / 256 ^ i % 256)

/-- One block under a tweak. -/
def xtsBlock (f : List Nat → List Nat) (t b : List Nat) : List Nat := xorL (f (xorL b t)) t

/-- The blocks of a data unit in turn. Before a final piece shorter than a block, ciphertext stealing takes the tweaks of the
last two blocks: in order when encrypting, and exchanged when decrypting. -/
def xtsRun (f : List Nat → List Nat) (swap : Bool) (t : List Nat) : List (List Nat) → List Nat
  | [] => []
  | [b] => xtsBlock f t b
  | [b, s] =>
    let t2 := xtsNext t
    if s.length = 16 then xtsBlock f t b ++ xtsBlock f t2 s
    else
      let x := xtsBlock f (if swap then t2 else t) b
      xtsBlock f (if swap then t else t2) (s ++ x.drop s.length) ++ x.take s.length
  | b :: rest => xtsBlock f t b ++ xtsRun f swap (xtsNext t) rest

/-- XTS of one data unit under two keys of equal length, the data key first. -/
def xts (dec : Bool) (keys tweak data : List Nat) : List Nat :=
  let n := keys.length / 2
  let rk := aesKeys (keys.take n)
  let t := aesEnc (aesKeys (keys.drop n)) tweak
  xtsRun (if dec then aesDec rk else aesEnc rk) dec t (chunks 16 data.length data)

-- SHA-2

/-- The first n prime numbers. -/
def primes (n : Nat) : List Nat :=
  ((List.range 410).filter (fun p => 2 ≤ p && (List.range p).all (fun d => d < 2 || p % d != 0))).take n

/-- The largest number of at most `bits` bits whose k-th power is at most v. -/
def rootFloor (k v bits : Nat) : Nat :=
  forUpTo bits (fun i r => let t := r + 2 ^ (bits - 1 - i); if t ^ k ≤ v then t else r) 0

/-- The first w bits of the fractional part of the k-th root of p. -/
def rootFrac (k p w : Nat) : Nat := rootFloor k (p * 2 ^ (k * w)) (w + 5) % 2 ^ w

/-- Rotate a w-bit word right. -/
def rotr (w x n : Nat) : Nat := (x / 2 ^ n) ||| (x * 2 ^ (w - n) % 2 ^ w)

/-- The amounts by which SHA-256 and SHA-512 rotate and shift: Σ0, Σ1, σ0, σ1. -/
structure ShaRot where
  w : Nat
  s0 : Nat × Nat × Nat
  s1 : Nat × Nat × Nat
  g0 : Nat × Nat × Nat
  g1 : Nat × Nat × Nat

def sha256Rot : ShaRot := { w := 32, s0 := (2, 13, 22), s1 := (6, 11, 25), g0 := (7, 18, 3), g1 := (17, 19, 10) }
def sha512Rot : ShaRot := { w := 64, s0 := (28, 34, 39), s1 := (14, 18, 41), g0 := (1, 8, 7), g1 := (19, 61, 6) }

/-- The message schedule, latest word first. -/
def shaSchedule (r : ShaRot) (rounds : Nat) (block : List Nat) : List Nat :=
  forUpTo (rounds - 16) (fun _ ws =>
    let g := fun (a : Nat × Nat × Nat) (x : Nat) => rotr r.w x a.1 ^^^ rotr r.w x a.2.1 ^^^ (x / 2 ^ a.2.2)
    (g r.g1 (ws.getD 1 0) + ws.getD 6 0 + g r.g0 (ws.getD 14 0) + ws.getD 15 0) % 2 ^ r.w :: ws)
    ((chunks (r.w / 8) 16 block).map beNat).reverse

/-- One block of SHA-2. -/
def shaBlock (r : ShaRot) (ks h block : List Nat) : List Nat :=
  let ws := (shaSchedule r ks.length block).reverse
  let s := fun (a : Nat × Nat × Nat) (x : Nat) => rotr r.w x a.1 ^^^ rotr r.w x a.2.1 ^^^ rotr r.w x a.2.2
  let m := 2 ^ r.w
  let fin := (List.zip ks ws).foldl (fun (v : List Nat) kw =>
    let g := fun i => v.getD i 0
    let ch := (g 4 &&& g 5) ^^^ ((m - 1 - g 4) &&& g 6)
    let maj := (g 0 &&& g 1) ^^^ (g 0 &&& g 2) ^^^ (g 1 &&& g 2)
    let t1 := g 7 + s r.s1 (g 4) + ch + kw.1 + kw.2
    let t2 := s r.s0 (g 0) + maj
    [(t1 + t2) % m, g 0, g 1, g 2, (g 3 + t1) % m, g 4, g 5, g 6]) h
  List.zipWith (fun a b => (a + b) % m) h fin

/-- SHA-2 with initial values h and a digest of n bytes. -/
def sha2 (r : ShaRot) (rounds : Nat) (h : List Nat) (n : Nat) (msg : List Nat) : List Nat :=
  let blk := r.w * 2
  let len := r.w / 4
  let pad := (2 * blk - (msg.length + 1 + len) % blk) % blk
  let full := msg ++ [0x80] ++ List.replicate pad 0 ++ beBytes len (8 * msg.length)
  let ks := (primes rounds).map (fun p => rootFrac 3 p r.w)
  (((chunks blk full.length full).foldl (shaBlock r ks) h).flatMap (beBytes (r.w / 8))).take n

-- SHA-3

/-- Rotate a 64-bit lane left. -/
def rotl64 (x n : Nat) : Nat := (x * 2 ^ (n % 64) % 2 ^ 64) ||| (x / 2 ^ (64 - n % 64))

/-- The round constants: bit 2^j − 1 of round i is output 7i + j of the degree-8 feedback register. -/
def keccakRc (i : Nat) : Nat :=
  let step := fun (r : Nat) => if 128 ≤ r then (2 * r % 256) ^^^ 0x71 else 2 * r
  (List.range 7).foldl (fun a j => if (forUpTo (7 * i + j) (fun _ r => step r) 1) % 2 = 1 then a + 2 ^ (2 ^ j - 1) else a) 0

/-- One round; lane (x, y) stands at 5y + x. -/
def keccakRound (s : List Nat) (i : Nat) : List Nat :=
  let at_ := fun (l : List Nat) x y => l.getD (5 * (y % 5) + x % 5) 0
  let c := (List.range 5).map (fun x => (List.range 5).foldl (fun a y => a ^^^ at_ s x y) 0)
  let t := (List.range 25).map (fun k => s.getD k 0 ^^^ c.getD ((k + 4) % 5) 0 ^^^ rotl64 (c.getD ((k + 1) % 5) 0) 1)
  -- the walk of rho and pi: at step n the lane (x, y) rotates by (n + 1)(n + 2)/2 and moves to (y, 2x + 3y)
  let b := (forUpTo 24 (fun n (w : List Nat × Nat × Nat) =>
    let x := w.2.1
    let y := w.2.2
    (w.1.set (5 * ((2 * x + 3 * y) % 5) + y) (rotl64 (at_ t x y) ((n + 1) * (n + 2) / 2)), y, (2 * x + 3 * y) % 5)) (t, 1, 0)).1
  let chi := (List.range 25).map (fun k =>
    at_ b (k % 5) (k / 5) ^^^ ((2 ^ 64 - 1 - at_ b (k % 5 + 1) (k / 5)) &&& at_ b (k % 5 + 2) (k / 5)))
  chi.set 0 (chi.getD 0 0 ^^^ keccakRc i)

/-- SHA-3 with a digest of n bytes. -/
def sha3 (n : Nat) (msg : List Nat) : List Nat :=
  let rate := 200 - 2 * n
  let z := rate - msg.length % rate
  let full := msg ++ (if z = 1 then [0x86] else [0x06] ++ List.replicate (z - 2) 0 ++ [0x80])
  let le := fun (l : List Nat) => l.foldr (fun b a => a * 256 + b) 0
  let fin := (chunks rate full.length full).foldl (fun s blk =>
    let lanes := (chunks 8 25 blk).map le
    forUpTo 24 (fun i t => keccakRound t i) ((List.range 25).map (fun k => s.getD k 0 ^^^ lanes.getD k 0)))
    (List.replicate 25 0)
  (fin.flatMap (fun v => (List.range 8).map (fun i => v / 256 ^ i % 256))).take n

/-- HASH by ALG. -/
def digest (alg : Nat) (msg : List Nat) : List Nat :=
  let half := fun k w => ((primes 16).drop k |>.take 8).map (fun p => rootFrac 2 p w)
  match alg with
  | 0 => sha2 sha256Rot 64 (half 0 32) 32 msg
  | 1 => sha2 sha512Rot 80 (half 8 64) 48 msg
  | 2 => sha2 sha512Rot 80 (half 0 64) 64 msg
  | 3 => sha3 32 msg
  | 4 => sha3 48 msg
  | _ => sha3 64 msg

end Sys2Proof.Machine
end

