-- ==== Sys2Proof/Machine/Compress.lean ====
section
/-! DEFINITION. What the compression engine computes (R382): raw DEFLATE and LZ4 frames in each direction. The manual names
the formats and leaves them to RFC 1951 and the LZ4 frame format. The bytes a compressor writes are open; they decompress to
the input. -/

namespace Sys2Proof.Machine

-- DEFLATE

/-- A stream of bits: the bits to come as a number, the next one lowest, and how many they are. -/
structure Bits where
  v : Nat
  n : Nat
  deriving DecidableEq, Repr

/-- The bits of a list of bytes. -/
def bitsOf (l : List Nat) : Bits := { v := l.foldr (fun b a => a * 256 + b) 0, n := 8 * l.length }

/-- Take k bits as a number, the first one lowest; none where the stream is too short. -/
def Bits.take (b : Bits) (k : Nat) : Option (Nat × Bits) :=
  if b.n < k then none else some (b.v % 2 ^ k, { v := b.v / 2 ^ k, n := b.n - k })

/-- Leave the bits of the current byte. -/
def Bits.align (b : Bits) : Bits := { v := b.v / 2 ^ (b.n % 8), n := b.n - b.n % 8 }

/-- The number of codes of a length. -/
def lenCount (lens : List Nat) (k : Nat) : Nat := (lens.filter (· == k)).length

/-- The first canonical code of length k. -/
def firstCode (lens : List Nat) : Nat → Nat
  | 0 => 0
  | k + 1 => 2 * (firstCode lens k + (if k = 0 then 0 else lenCount lens k))

/-- A set of code lengths is used: complete, or of at most one code, which then has one bit. -/
def lensOk (lens : List Nat) : Bool :=
  let used := lens.filter (· != 0)
  let room := used.foldl (fun a k => a + 2 ^ (15 - k)) 0
  room == 2 ^ 15 || used.isEmpty || used == [1]

/-- Read one symbol: bit by bit, the first bit highest; `k` bits have been read and spell `code`. -/
def huffSym (lens : List Nat) (b : Bits) (k code : Nat) : Nat → Option (Nat × Bits)
  | 0 => none
  | fuel + 1 =>
    match b.take 1 with
    | none => none
    | some (x, b1) =>
      let code1 := 2 * code + x
      let first := firstCode lens (k + 1)
      if first ≤ code1 ∧ code1 < first + lenCount lens (k + 1) then
        ((((List.range lens.length).filter (fun s => lens.getD s 0 == k + 1))[code1 - first]?)).map (fun s => (s, b1))
      else huffSym lens b1 (k + 1) code1 fuel

/-- A symbol of a code. -/
def Bits.sym (b : Bits) (lens : List Nat) : Option (Nat × Bits) := huffSym lens b 0 0 15

/-- The base and extra bits of a length symbol, and of a distance symbol. -/
def lenSym (s : Nat) : Nat × Nat :=
  let i := s - 257
  if i < 8 then (3 + i, 0) else if i = 28 then (258, 0) else (3 + (4 + i % 4) * 2 ^ (i / 4 - 1), i / 4 - 1)
def distSym (i : Nat) : Nat × Nat := if i < 4 then (1 + i, 0) else (1 + (2 + i % 2) * 2 ^ (i / 2 - 1), i / 2 - 1)

/-- Copy n bytes from d bytes back; the output stands latest byte first. -/
def copyBack (out : List Nat) (d n : Nat) : List Nat := forUpTo n (fun _ o => o.getD (d - 1) 0 :: o) out

/-- The symbols of a compressed block up to its end. -/
def inflateBlock (lit dist : List Nat) (b : Bits) (out : List Nat) : Nat → Option (Bits × List Nat)
  | 0 => none
  | fuel + 1 =>
    match b.sym lit with
    | none => none
    | some (s, b1) =>
      if s < 256 then inflateBlock lit dist b1 (s :: out) fuel
      else if s = 256 then some (b1, out)
      else if 285 < s then none
      else do
        let (x, b2) ← b1.take (lenSym s).2
        let (t, b3) ← b2.sym dist
        if 29 < t then none
        else
          let (y, b4) ← b3.take (distSym t).2
          let d := (distSym t).1 + y
          if out.length < d then none else inflateBlock lit dist b4 (copyBack out d ((lenSym s).1 + x)) fuel

/-- The code lengths of a dynamic block, as the code-length code spells them. -/
def readLens (cl : List Nat) (want : Nat) (b : Bits) (acc : List Nat) : Nat → Option (List Nat × Bits)
  | 0 => none
  | fuel + 1 =>
    if want < acc.length then none
    else if acc.length = want then some (acc, b)
    else do
      let (s, b1) ← b.sym cl
      if s < 16 then readLens cl want b1 (acc ++ [s]) fuel
      else if s = 16 then
        if acc.isEmpty then none
        else
          let (x, b2) ← b1.take 2
          readLens cl want b2 (acc ++ List.replicate (3 + x) (acc.getLastD 0)) fuel
      else if s = 17 then
        let (x, b2) ← b1.take 3
        readLens cl want b2 (acc ++ List.replicate (3 + x) 0) fuel
      else
        let (x, b2) ← b1.take 7
        readLens cl want b2 (acc ++ List.replicate (11 + x) 0) fuel

/-- n lengths of 3 bits each. -/
def readThrees (b : Bits) : Nat → Option (List Nat × Bits)
  | 0 => some ([], b)
  | n + 1 => do
    let (x, b1) ← b.take 3
    let (l, b2) ← readThrees b1 n
    some (x :: l, b2)

/-- The order in which code lengths of the code-length code come. -/
def clOrder : List Nat := [16, 17, 18, 0, 8, 7, 9, 6, 10, 5, 11, 4, 12, 3, 13, 2, 14, 1, 15]

/-- The fixed code lengths. -/
def fixedLit : List Nat :=
  List.replicate 144 8 ++ List.replicate 112 9 ++ List.replicate 24 7 ++ List.replicate 8 8
def fixedDist : List Nat := List.replicate 30 5

/-- The codes of a dynamic block. -/
def dynamicCodes (b : Bits) : Option (List Nat × List Nat × Bits) := do
  let (hlit, b1) ← b.take 5
  let (hdist, b2) ← b1.take 5
  let (hclen, b3) ← b2.take 4
  let (three, b4) ← readThrees b3 (hclen + 4)
  let cl := (List.range 19).map (fun s => match firstIdx (· == s) clOrder with | some i => three.getD i 0 | none => 0)
  let nlit := hlit + 257
  let (lens, b5) ← readLens cl (nlit + hdist + 1) b4 [] 321
  let lit := lens.take nlit
  let dist := lens.drop nlit
  if 286 < nlit ∨ 29 < hdist ∨ !lensOk cl ∨ !lensOk lit ∨ !lensOk dist ∨ lit.getD 256 0 = 0 then none
  else some (lit, dist, b5)

/-- A stored block. -/
def storedBlock (b : Bits) (out : List Nat) : Option (Bits × List Nat) := do
  let (len, b1) ← b.align.take 16
  let (nlen, b2) ← b1.take 16
  if len + nlen ≠ 0xFFFF then none
  else
    let (x, b3) ← b2.take (8 * len)
    some (b3, (List.range len).foldl (fun o i => x / 256 ^ i % 256 :: o) out)

/-- The blocks of a stream up to the final one: the output, latest byte first, and the bits after it. -/
def inflateBlocks (b : Bits) (out : List Nat) : Nat → Option (Bits × List Nat)
  | 0 => none
  | fuel + 1 => do
    let (final, b1) ← b.take 1
    let (type, b2) ← b1.take 2
    let (b3, o) ←
      match type with
      | 0 => storedBlock b2 out
      | 1 => inflateBlock fixedLit (fixedDist ++ [5, 5]) b2 out (b2.n + 1)
      | 2 =>
        match dynamicCodes b2 with
        | some (lit, dist, b4) => inflateBlock lit dist b4 out (b4.n + 1)
        | none => none
      | _ => none
    if final = 1 then some (b3, o) else inflateBlocks b3 o fuel

/-- DEFLATE_D: the output, and whether whole bytes follow the final block; none where the input is malformed. -/
def inflate (l : List Nat) : Option (List Nat × Bool) :=
  (inflateBlocks (bitsOf l) [] (8 * l.length + 1)).map (fun r => (r.2.reverse, decide (8 ≤ r.1.n)))

/-- A stream of bits, as bytes. -/
def packBits (l : List Bool) : List Nat :=
  (List.range ((l.length + 7) / 8)).map (fun i =>
    ((l.drop (8 * i)).take 8).foldr (fun b a => 2 * a + flag b) 0)

/-- The k bits of a code, its highest first. -/
def codeBits (k v : Nat) : List Bool := (List.range k).map (fun i => v.testBit (k - 1 - i))

/-- The input as one block of literals in the fixed code. -/
def deflateLiteral (l : List Nat) : List Nat :=
  packBits ([true, true, false]
    ++ l.flatMap (fun b => if b < 144 then codeBits 8 (48 + b) else codeBits 9 (256 + b)) ++ codeBits 7 0)

-- xxHash32

/-- The primes of xxHash32. -/
def xxP1 : Nat := 2654435761
def xxP2 : Nat := 2246822519
def xxP3 : Nat := 3266489917
def xxP4 : Nat := 668265263
def xxP5 : Nat := 374761393

/-- A 32-bit word rotated left. -/
def rotl32 (x n : Nat) : Nat := (x * 2 ^ n % 2 ^ 32) ||| (x / 2 ^ (32 - n))

/-- The number a list of numbers below 256 spells, little-endian. -/
def leNat (l : List Nat) : Nat := l.foldr (fun b a => a * 256 + b) 0

/-- xxHash32 with seed 0. -/
def xxh32 (l : List Nat) : Nat :=
  let n := l.length
  let m := 2 ^ 32
  let round := fun (acc w : Nat) => rotl32 ((acc + w * xxP2) % m) 13 * xxP1 % m
  let stripes := chunks 16 (n / 16) l
  let acc := stripes.foldl (fun a s => List.zipWith round a ((chunks 4 4 s).map leNat))
    [(xxP1 + xxP2) % m, xxP2, 0, m - xxP1]
  let h0 :=
    if 16 ≤ n then
      (rotl32 (acc.getD 0 0) 1 + rotl32 (acc.getD 1 0) 7 + rotl32 (acc.getD 2 0) 12 + rotl32 (acc.getD 3 0) 18) % m
    else xxP5
  let rest := l.drop (n / 16 * 16)
  let h1 := (chunks 4 (rest.length / 4) rest).foldl (fun h w => rotl32 ((h + leNat w * xxP3) % m) 17 * xxP4 % m) ((h0 + n) % m)
  let h2 := (rest.drop (rest.length / 4 * 4)).foldl (fun h b => rotl32 ((h + b * xxP5) % m) 11 * xxP1 % m) h1
  let h3 := (h2 ^^^ (h2 / 2 ^ 15)) * xxP2 % m
  let h4 := (h3 ^^^ (h3 / 2 ^ 13)) * xxP3 % m
  h4 ^^^ (h4 / 2 ^ 16)

-- LZ4 frames

/-- A length of a sequence: 15 in the token is continued by bytes up to one below 255. -/
def lz4Len (base : Nat) : List Nat → Nat → Option (Nat × List Nat)
  | l, 0 => some (base, l)
  | l, fuel + 1 =>
    match l with
    | [] => none
    | b :: rest => if b = 255 then lz4Len (base + 255) rest fuel else some (base + b, rest)

/-- The sequences of a block; the output stands latest byte first, `hist` bytes of it may be copied from at its start. -/
def lz4Seqs (l out : List Nat) (hist : Nat) : Nat → Option (List Nat)
  | 0 => none
  | fuel + 1 =>
    match l with
    | [] => none
    | tok :: rest => do
      let (lits, r1) ← if tok / 16 = 15 then lz4Len 15 rest (rest.length + 1) else some (tok / 16, rest)
      if r1.length < lits then none
      else
        let o := (r1.take lits).foldl (fun o b => b :: o) out
        match r1.drop lits with
        | [] => some o
        | lo :: hi :: r2 =>
          let d := lo + 256 * hi
          let (ml, r3) ← if tok % 16 = 15 then lz4Len 15 r2 (r2.length + 1) else some (tok % 16, r2)
          if d = 0 ∨ o.length < d + hist then none else lz4Seqs r3 (copyBack o d (ml + 4)) hist fuel
        | _ => none

/-- What the descriptor of a frame says. -/
structure Lz4Flags where
  indep : Bool
  bsum : Bool
  csum : Bool
  size : Option Nat
  maxBlock : Nat
  deriving DecidableEq, Repr

/-- The header of a frame, and what follows it. -/
def lz4Header (l : List Nat) : Option (Lz4Flags × List Nat) :=
  let flg := l.getD 4 0
  let bd := l.getD 5 0
  let n := if flg.testBit 3 then 10 else 2
  let desc := (l.drop 4).take n
  if leNat (l.take 4) ≠ 0x184D2204 ∨ l.length < 5 + n ∨ flg / 64 ≠ 1 ∨ flg.testBit 1 ∨ flg.testBit 0 ∨ 128 ≤ bd ∨ bd % 16 ≠ 0
      ∨ bd / 16 < 4 ∨ l.getD (4 + n) 0 ≠ xxh32 desc / 256 % 256 then none
  else some ({ indep := flg.testBit 5, bsum := flg.testBit 4, csum := flg.testBit 2
               size := if flg.testBit 3 then some (leNat (desc.drop 2)) else none
               maxBlock := 2 ^ (8 + 2 * (bd / 16)) }, l.drop (5 + n))

/-- The blocks of a frame up to its end mark. -/
def lz4Blocks (f : Lz4Flags) (l out : List Nat) : Nat → Option (List Nat × List Nat)
  | 0 => none
  | fuel + 1 =>
    if l.length < 4 then none
    else
      let w := leNat (l.take 4)
      let n := w % 2 ^ 31
      let body := (l.drop 4).take n
      let after := l.drop (4 + n)
      if w = 0 then some (out, l.drop 4)
      else if body.length < n ∨ (f.bsum ∧ (after.length < 4 ∨ leNat (after.take 4) ≠ xxh32 body)) then none
      else
        let o :=
          if 2 ^ 31 ≤ w then some (body.foldl (fun o b => b :: o) out)
          else lz4Seqs body out (if f.indep then out.length else 0) (n + 1)
        match o with
        | none => none
        | some o =>
          if out.length + f.maxBlock < o.length then none else lz4Blocks f (if f.bsum then after.drop 4 else after) o fuel

/-- LZ4F_D: the content of the frame, and whether bytes follow it; none where the input is malformed or a checksum it carries
does not match. -/
def lz4Decode (l : List Nat) : Option (List Nat × Bool) :=
  match lz4Header l with
  | none => none
  | some (f, rest) =>
    match lz4Blocks f rest [] (rest.length + 1) with
    | none => none
    | some (out, tail) =>
      let r := out.reverse
      if f.size.any (· != r.length) ∨ (f.csum ∧ (tail.length < 4 ∨ leNat (tail.take 4) ≠ xxh32 r)) then none
      else some (r, decide ((if f.csum then 4 else 0) < tail.length))

/-- The header of the frames LZ4F_C writes: independent blocks of 64 KiB and a content checksum. -/
def lz4Head : List Nat :=
  let d := [0x64, 0x40]
  [0x04, 0x22, 0x4D, 0x18] ++ d ++ [xxh32 d / 256 % 256]

/-- A number below 2^32, little-endian. -/
def le4 (v : Nat) : List Nat := (List.range 4).map (fun i => v / 256 ^ i % 256)

/-- The input as a frame of uncompressed blocks. -/
def lz4Plain (l : List Nat) : List Nat :=
  lz4Head ++ ((chunks 65536 l.length l).flatMap (fun b => le4 (2 ^ 31 + b.length) ++ b)) ++ le4 0 ++ le4 (xxh32 l)

-- compressors

/-- The bytes a compressor writes, from two free numbers (a length and the bytes): any that decompress to the input, and
otherwise the plain form. -/
def compressed (lz4 : Bool) (input : List Nat) (len v : Nat) : List Nat :=
  let cand := (List.range len).map (fun i => v / 256 ^ i % 256)
  let good : Bool :=
    if lz4 then cand.take 7 == lz4Head && lz4Decode cand == some (input, false) else inflate cand == some (input, false)
  if good then cand else if lz4 then lz4Plain input else deflateLiteral input

end Sys2Proof.Machine
end

