-- ==== Sys2Proof/Machine/Fields.lean ====
section
/-! DEFINITION. A register write by access type (R8, R437, R461): the fields it changes, the lock of a committed block, and
the refusal of a write to a register of the Sealed world. -/

namespace Sys2Proof.Machine

/-- The register has an RW-S field: it accepts writes only from W1 and Uzomuris (R461). -/
def Reg.sealedOnly (r : Reg) : Bool := r.fields.any (fun f => f.acc == .rws)

/-- The commit of the register's block has been made (R437): of PKG, of WLD (whose fields lock when its format
begins, R279) or of its station. -/
def Chip.blockCommitted (c : Chip) (r : Reg) : Bool :=
  let o := r.offset
  if o < 0x10000 then c.bit .PKG_CTL F.PKG_CTL_COMMITTED
  else if 0x30000 ≤ o ∧ o < 0x40000 then c.wldCommitted || c.bit .WLD_CTL F.WLD_CTL_FORMAT_BUSY
  else if 0x4000000 ≤ o ∧ o < 0x5000000 then c.bit (.PORT_CTL ((o - 0x4000000) / 0x100000)) F.PORT_CTL_COMMITTED
  else false

/-- A number brought into the range of a field that clamps. -/
def Field.clamped (f : Field) (n : Nat) : Nat :=
  match f.clamp with
  | none => n
  | some (lo, hi) => if n < lo then lo else if hi < n then hi else n

/-- One field of a write (R8, R436): RO and WO fields store nothing, and an RW-L field of a committed block stays. -/
def Field.write (f : Field) (locked : Bool) (old v : Word) : Word :=
  match f.acc with
  | .rw | .rws => f.put old (f.clamped (f.get v))
  | .rwl => if locked then old else f.put old (f.clamped (f.get v))
  | .w1c => old &&& ~~~(v &&& f.mask)
  | .w1s => old ||| (v &&& f.mask)
  | .ro | .wo => old

/-- The value of a register after a write of v that is accepted. -/
def Chip.afterWrite (c : Chip) (r : Reg) (v : Word) : Word :=
  r.fields.foldl (fun w f => f.write (c.blockCommitted r) w v) (c.reg r)

/-- Store an accepted write, field by field. -/
def Chip.storeFields (c : Chip) (r : Reg) (v : Word) : Chip := c.setReg r (c.afterWrite r v)

/-- A write to a register that has no effect beyond its fields (R8, R461). -/
def Chip.writeFields (c : Chip) (who : Who) (r : Reg) (v : Word) : Chip :=
  c.ifMay (!r.sealedOnly || who.sealed) who r (fun x => x.storeFields r v)

end Sys2Proof.Machine
end

