-- ==== Sys2Proof/Machine/Csrs.lean ====
section
/-! DEFINITION. The CSRs of a hart as the debug module reads and writes them (R85): the vendor's (R63 to R66, R241), those of the interrupt
files (R74), the counters (R34, R73), the triggers (R85), and those that R3 and R60 take over from the RISC-V specifications (log entry
13). -/

namespace Sys2Proof.Machine

/-- Write the bits of a CSR that a mask names. -/
def Hart.mergeCsr (x : Hart) (n mask : Nat) (v : Word) : Hart :=
  x.setCsr n ((x.getCsr n &&& ~~~(BitVec.ofNat 64 mask)) ||| (v &&& BitVec.ofNat 64 mask))

/-- The number with exactly the listed bits set. -/
def bitSet (l : List Nat) : Nat := l.foldl (fun acc i => acc ||| 2 ^ i) 0

-- which bits software writes

/-- The bits of mstatus that sstatus shows; SPELP is one where the die has landing pads (R241). -/
def sstatusMask (pads : Bool) : Nat := 0x80000003000DE762 + (if pads then 2 ^ 23 else 0)

/-- The bits of mstatus software writes: XS is writable (R90), MPP is dealt with by its values. -/
def mstatusMask (pads : Bool) : Nat :=
  bitSet [1, 3, 5, 7, 8, 9, 10, 13, 14, 15, 16, 17, 18, 19, 20, 21, 22, 38, 39] ||| (if pads then bitSet [23, 41] else 0)

/-- The bits of the CSRs that software writes as they are, once a write is legal: LPE, MLPE and ADUE exist only with the capabilities of
R241 (`pads` bit 9, `adue` bit 10); PMM of senvcfg and henvcfg takes 0 and 2; mhpmevent has the reserved bits of R73; mcycle and minstret are inhibited by nothing. -/
def csrMask (pads adue : Bool) (n : Nat) : Nat :=
  let lpe := if pads then bitSet [2] else 0
  let env := bitSet [0, 4, 5, 6, 7] ||| lpe
  let top := bitSet [62, 63] ||| (if adue then bitSet [61] else 0)
  if n = csrMenvcfg then env ||| top
  else if n = csrHenvcfg then env ||| top ||| bitSet [33]
  else if n = csrSenvcfg then env ||| bitSet [33]
  else if n = 0x747 then (if pads then bitSet [10] else 0)
  else if n = csrMedeleg then bitSet [0, 1, 2, 3, 4, 5, 6, 7, 8, 9, 10, 12, 13, 15, 18, 19, 20, 21, 22, 23, 24, 25]
  else if n = csrHedeleg then bitSet [0, 1, 2, 3, 4, 5, 6, 7, 8, 12, 13, 15, 18, 19, 24, 25]
  else if n = csrMideleg then bitSet [1, 5, 9, 13]
  else if n = csrHideleg then 0x444
  else if n = csrMie then bitSet [1, 2, 3, 5, 6, 7, 9, 10, 11, 12, 13, 16]
  else if n = csrMip ∨ n = 0x309 then bitSet [1, 5, 9, 13]
  else if n = 0x645 then 0x444
  else if n = 0x607 then 0xFE
  else if n = csrHstatus then bitSet [6, 7, 8, 9, 20, 21, 22, 48, 49]
  else if n = csrMtvec ∨ n = csrStvec ∨ n = csrVstvec then 2 ^ 64 - 3
  else if n = csrMepc ∨ n = csrSepc ∨ n = csrVsepc ∨ n = csrDpc then 2 ^ 64 - 2
  else if n = csrMcountinhibit then 2 ^ 32 - 8
  else if n = 0x106 ∨ n = 0x306 ∨ n = 0x606 then 2 ^ 32 - 1
  else if 0x323 ≤ n ∧ n ≤ 0x33F then 0xFDF000000000FFFF
  else if n = csrSqoslabel then 63
  else if n = csrFcsr then 0xFF
  else if n = 0x008 then 0xFF
  else if n = 0x009 then 1
  else if n = 0x00A then 3
  else if n = 0x150 ∨ n = 0x250 ∨ n = 0x350 then 0xFFF
  else if n = 0x30C ∨ n = 0x60C then bitSet [58, 59, 62, 63]
  else if n = csrDcsr then bitSet [2, 4, 5, 10, 11, 12, 13, 15, 16, 17]
  else if 0x3B0 ≤ n ∧ n ≤ 0x3BF then 2 ^ 50 - 1
  else if [0x140, 0x240, 0x340, csrMcause, csrMtval, csrScause, csrStval, csrVscause, csrVstval, csrMtval2, csrMtinst, csrHtval,
      csrHtinst, 0x14D, 0x24D, 0x605, 0xB00, csrMinstret, 0x7B2, 0x7B3].contains n || (0xB03 ≤ n && n ≤ 0xB1F) then 2 ^ 64 - 1
  else 0

-- interrupt files

/-- The interrupt file a hart's CSRs reach: the S-level one, or the guest file that hstatus.VGEIN selects; only while the running world
owns it, since a file of another world is no part of the running world's state (R75; log entry 97, DESIGN CHOICE). -/
def Chip.csrFile (c : Chip) (h : Nat) (guest : Bool) : Option Nat :=
  let f := if guest then (c.hart h).csrBits csrHstatus 17 12 else 0
  if (guest && (f == 0 || 7 < f)) || c.fileOwner h f != (c.hart h).world then none else some f

/-- The 64 identities of eip or eie register 2k of a file, as bits: identity 0 does not exist. -/
def idBits (l : List Nat) (k : Nat) : Nat := (List.range 64).foldl (fun acc i => acc + flag (l.contains (64 * k + i)) * 2 ^ i) 0

/-- A register of an interrupt file that siselect or vsiselect names (the AIA's numbers, R74). -/
def IFile.readAt (x : IFile) (sel : Nat) : Word :=
  if sel = 0x70 then x.delivery
  else if sel = 0x72 then x.threshold
  else if 0x80 ≤ sel ∧ sel ≤ 0xBF ∧ sel % 2 = 0 then BitVec.ofNat 64 (idBits x.eip ((sel - 0x80) / 2))
  else if 0xC0 ≤ sel ∧ sel ≤ 0xFF ∧ sel % 2 = 0 then BitVec.ofNat 64 (idBits x.eie ((sel - 0xC0) / 2))
  else 0

/-- Give the 64 identities of register 2k the bits of a word. -/
def putIds (l : List Nat) (k : Nat) (v : Word) : List Nat :=
  l.filter (fun i => i / 64 != k) ++ (List.range 64).filterMap (fun i =>
    if v.toNat.testBit i && 64 * k + i != 0 then some (64 * k + i) else none)

def IFile.writeAt (x : IFile) (sel : Nat) (v : Word) : IFile :=
  if sel = 0x70 then { x with delivery := v &&& 1 }
  else if sel = 0x72 then { x with threshold := v &&& 0x7FF }
  else if 0x80 ≤ sel ∧ sel ≤ 0xBF ∧ sel % 2 = 0 then { x with eip := putIds x.eip ((sel - 0x80) / 2) v }
  else if 0xC0 ≤ sel ∧ sel ≤ 0xFF ∧ sel % 2 = 0 then { x with eie := putIds x.eie ((sel - 0xC0) / 2) v }
  else x

/-- The identity that stopei or vstopei names: the lowest that is pending, enabled and admitted by the threshold; 0 for none. -/
def IFile.top (x : IFile) : Nat :=
  (x.eip.filter (fun i => x.eie.contains i && (x.threshold == 0 || i < x.threshold.toNat))).foldl (fun acc i =>
    if acc = 0 ∨ i < acc then i else acc) 0

/-- A write of stopei or vstopei claims that identity. -/
def IFile.claim (x : IFile) : IFile := { x with eip := x.eip.filter (· != x.top) }

/-- Read and change the file that CSRs reach. -/
def Chip.readFile (c : Chip) (h : Nat) (guest : Bool) (f : IFile → Word) : Word :=
  match c.csrFile h guest with
  | some n => f ((c.hart h).ifile n)
  | none => 0
def Chip.changeFile (c : Chip) (h : Nat) (guest : Bool) (f : IFile → IFile) : Chip :=
  match c.csrFile h guest with
  | some n => c.onHart h (fun x => x.onFile n f)
  | none => c

/-- The register that siselect (vsiselect for the guest) names. -/
def Hart.fileSel (x : Hart) (guest : Bool) : Nat := (x.getCsr (if guest then 0x250 else 0x150)).toNat

/-- The major interrupt that stands highest among some, by the AIA's default order; world pending stands last. -/
def topIrq (pend : Nat) : Word :=
  match [11, 3, 7, 9, 1, 5, 12, 10, 2, 6, 13, 16].find? (fun i => bitAt pend i) with
  | some i => BitVec.ofNat 64 (65536 * i + 1)
  | none => 0

-- triggers

/-- The triggers of a hart (R85): 0 to 7 are mcontrol6 (type 6), 8 is icount (type 3), all disabled at reset. -/
def trigReset (i : Nat) : Word := BitVec.ofNat 64 ((if i = 8 then 3 else 6) * 2 ^ 60)
def Hart.trigAt (x : Hart) (i : Nat) : Word := sget (trigReset i) i x.trig1

/-- A write of tdata1: the trigger keeps its type, or is disabled as type 15; the action is a breakpoint or Debug Mode entry, and dmode is
written by a debugger, which every access here is. -/
def trigWrite (i : Nat) (v : Word) : Word :=
  let own := if i = 8 then 3 else 6
  let mask := if i = 8 then 2 ^ 59 + (2 ^ 27 - 2 ^ 6) + 1 else 2 ^ 59 + (2 ^ 25 - 2 ^ 21) + 0x71FDF
  if v.toNat / 2 ^ 60 = own then BitVec.ofNat 64 (own * 2 ^ 60) ||| (v &&& BitVec.ofNat 64 mask) else 0xF000000000000000

-- physical memory protection

/-- A PMP address as it reads on the granularity of 4 KiB (R60): low bits one in a NAPOT entry, zero in another. -/
def Hart.pmpRead (x : Hart) (i : Nat) : Word :=
  let v := x.getCsr (0x3B0 + i)
  if bits (x.pmpCfg i) 4 3 = 3 then v ||| 0x1FF else v &&& ~~~0x3FF#64

/-- A PMP entry is locked: its own lock, and for its address that of a TOR entry that follows. -/
def Hart.pmpLocked (x : Hart) (i : Nat) : Bool := (x.pmpCfg i).testBit 7
def Hart.pmpAddrLocked (x : Hart) (i : Nat) : Bool :=
  x.pmpLocked i || (i < 15 && x.pmpLocked (i + 1) && bits (x.pmpCfg (i + 1)) 4 3 == 1)

/-- A write of pmpcfg: byte by byte, a locked entry keeps its byte, W without R is no legal value, and NA4 cannot be chosen. -/
def Hart.pmpCfgWrite (x : Hart) (n : Nat) (v : Word) : Hart :=
  (List.range 8).foldl (fun (y : Hart) k =>
    let i := 4 * (n - 0x3A0) + k
    let b := bits v.toNat (8 * k + 7) (8 * k)
    if y.pmpLocked i || (b.testBit 1 && !b.testBit 0) then y
    else y.putCsr n (8 * k + 7) (8 * k) ((b &&& 0x87) + (if bits b 4 3 = 2 then bits (y.pmpCfg i) 4 3 else bits b 4 3) * 8)) x

-- reading

/-- A CSR as software reads it. -/
def Chip.readCsr (c : Chip) (h n : Nat) : Word :=
  let x := c.hart h
  let pads := bitAt (c.die (hartDie h)).capEn 9
  let step := c.fld (.PKG_DIE_CAP (hartDie h)) F.PKG_DIE_CAP_STEPPING
  let of := BitVec.ofNat 64
  if n = 0xF12 then 0x8000000000006288#64
  else if n = 0xF13 then of step
  else if n = 0xF14 then of h
  else if n = 0x301 then of (2 ^ 63 + 0xB411AF)
  else if n = csrMip then of (c.mip h)
  else if n = 0xE12 then of (c.hgeip h)
  else if n = 0xC01 then of c.now
  else if n = 0xC00 then x.getCsr 0xB00
  else if n = 0xC02 then x.getCsr csrMinstret
  else if 0xC03 ≤ n ∧ n ≤ 0xC1F then x.getCsr (n - 0x100)
  else if n = 0xDA0 then of ((List.range 29).foldl (fun acc i => acc + flag (x.csrBit (0x323 + i) 63) * 2 ^ (i + 3)) 0)
  else if n = 0xC21 then 0x8000000000000000#64
  else if n = 0xC22 then 32
  else if n = 0x001 then of (x.csrBits csrFcsr 4 0)
  else if n = 0x002 then of (x.csrBits csrFcsr 7 5)
  else if n = 0x00F then of (x.csrBits 0x009 0 0 + 2 * x.csrBits 0x00A 1 0)
  else if n = 0x100 then of ((x.getCsr csrMstatus).toNat &&& sstatusMask pads)
  else if n = 0x104 then of ((x.getCsr csrMie).toNat &&& (x.getCsr csrMideleg).toNat &&& 0x2222)
  else if n = 0x144 then of (c.mip h &&& (x.getCsr csrMideleg).toNat &&& 0x2222)
  else if n = 0x604 then of ((x.getCsr csrMie).toNat &&& 0x1444)
  else if n = 0x644 then of (c.mip h &&& 0x1444)
  else if n = 0x204 then of (((x.getCsr csrMie).toNat &&& (x.getCsr csrHideleg).toNat &&& 0x444) / 2)
  else if n = 0x244 then of ((c.mip h &&& (x.getCsr csrHideleg).toNat &&& 0x444) / 2)
  else if n = 0x309 then of (c.mip h &&& 0x222)
  else if n = csrHenvcfg then
    x.getCsr n &&& (~~~(7#64 <<< 61) ||| (x.getCsr csrMenvcfg &&& (7#64 <<< 61)))
  else if n = 0x151 then c.readFile h false (fun f => f.readAt (x.fileSel false))
  else if n = 0x251 then c.readFile h true (fun f => f.readAt (x.fileSel true))
  else if n = 0x15C then c.readFile h false (fun f => of (f.top * 65537))
  else if n = 0x25C then c.readFile h true (fun f => of (f.top * 65537))
  else if n = 0xFB0 then topIrq (c.mip h &&& c.mie h &&& ((2 ^ 64 - 1) ^^^ (x.getCsr csrMideleg).toNat))
  else if n = 0xDB0 then topIrq (c.mip h &&& c.mie h &&& (x.getCsr csrMideleg).toNat &&& ((2 ^ 64 - 1) ^^^ (x.getCsr csrHideleg).toNat))
  else if n = 0xEB0 then topIrq ((c.mip h &&& c.mie h &&& (x.getCsr csrHideleg).toNat &&& 0x444) / 2)
  else if 0x3B0 ≤ n ∧ n ≤ 0x3BF then x.pmpRead (n - 0x3B0)
  else if n = 0x7A1 then x.trigAt (x.getCsr 0x7A0).toNat
  else if n = 0x7A2 then sget 0 (x.getCsr 0x7A0).toNat x.trig2
  else if n = 0x7A4 then (if x.getCsr 0x7A0 = 8 then 0x1008008 else 0x1008040)
  else x.getCsr n

-- writing

/-- An address-translation mode that R60 has. -/
def atpMode (v : Word) : Bool := [0, 8, 9, 10].contains (v.toNat / 2 ^ 60)

/-- A write of mstatus: MPP takes M, S or U. -/
def Hart.writeMstatus (x : Hart) (pads : Bool) (v : Word) : Hart :=
  let y := x.mergeCsr csrMstatus (mstatusMask pads) v
  (if bits v.toNat 12 11 = 2 then y else y.putCsr csrMstatus 12 11 (bits v.toNat 12 11)).syncSd

/-- A CSR write: the vendor CSRs keep their access types (R63 to R66), a view writes what it shows, a write of a value that is not legal
leaves the field as it is, and a read-only CSR keeps its value. -/
def Chip.writeCsr (c : Chip) (h n : Nat) (v : Word) : Chip :=
  let cap := (c.die (hartDie h)).capEn
  let pads := bitAt cap 9
  let on := c.onHart h
  if n = csrMworld then on (fun x => x.writeMworld v)
  else if n = csrMwfinfo then on (fun x => x.setCsr n (x.getCsr n &&& ~~~(v &&& (3#64 <<< 62))))
  else if n = csrTcsr then on (fun x => x.putBit csrTcsr 0 (v.toNat.testBit 0))
  else if n = csrTfault ∨ 0xC00 ≤ n then c
  else if n = 0x001 then on (fun x => x.mergeCsr csrFcsr 0x1F v)
  else if n = 0x002 then on (fun x => x.putCsr csrFcsr 7 5 (v.toNat % 8))
  else if n = 0x00F then on (fun x => (x.putCsr 0x009 0 0 v.toNat).putCsr 0x00A 1 0 (v.toNat / 2))
  else if n = csrMstatus then on (fun x => x.writeMstatus pads v)
  else if n = 0x100 then on (fun x => (x.mergeCsr csrMstatus (sstatusMask pads &&& mstatusMask pads) v).syncSd)
  else if n = csrVsstatus then on (fun x => (x.mergeCsr n (sstatusMask pads &&& mstatusMask pads) v).syncSd)
  else if n = 0x104 then on (fun x => x.mergeCsr csrMie ((x.getCsr csrMideleg).toNat &&& 0x2222) v)
  else if n = 0x144 then on (fun x => x.mergeCsr csrMip ((x.getCsr csrMideleg).toNat &&& 0x2002) v)
  else if n = 0x309 then on (fun x => x.mergeCsr csrMip 0x222 v)
  else if n = csrMip then on (fun x => (x.mergeCsr csrMip (csrMask pads false n) v).mergeCsr 0x645 4 v)
  else if n = 0x604 then on (fun x => x.mergeCsr csrMie 0x1444 v)
  else if n = 0x644 then on (fun x => x.mergeCsr 0x645 4 v)
  else if n = 0x204 then on (fun x => x.mergeCsr csrMie ((x.getCsr csrHideleg).toNat &&& 0x444) (v <<< 1))
  else if n = 0x244 then on (fun x => x.mergeCsr 0x645 ((x.getCsr csrHideleg).toNat &&& 4) (v <<< 1))
  else if n = csrHstatus then on (fun x =>
    let y := x.mergeCsr n (csrMask pads false n) v
    if bits v.toNat 17 12 ≤ 7 then y.putCsr n 17 12 (bits v.toNat 17 12) else y)
  else if n = csrSatp ∨ n = csrVsatp then (if atpMode v then on (fun x => x.setCsr n v) else c)
  else if n = csrHgatp then on (fun x =>
    let y := x.mergeCsr n (0x3FFF * 2 ^ 44 + 0xFFFFFFFFFFC) v
    if atpMode v then y.putCsr n 63 60 (v.toNat / 2 ^ 60) else y)
  else if n = csrDcsr then on (fun x =>
    let y := x.mergeCsr n (csrMask pads false n) v
    if v.toNat % 4 = 2 then y else y.putCsr n 1 0 (v.toNat % 4))
  else if n = 0x3A0 ∨ n = 0x3A2 then on (fun x => x.pmpCfgWrite n v)
  else if 0x3B0 ≤ n ∧ n ≤ 0x3BF then
    (if (c.hart h).pmpAddrLocked (n - 0x3B0) then c else on (fun x => x.mergeCsr n (csrMask pads false n) v))
  else if n = 0x7A0 then (if v.toNat ≤ 8 then on (fun x => x.setCsr n v) else c)
  else if n = 0x7A1 then on (fun x =>
    let i := (x.getCsr 0x7A0).toNat
    { x with trig1 := sset (trigReset i) i (trigWrite i v) x.trig1 })
  else if n = 0x7A2 then on (fun x => { x with trig2 := sset 0 (x.getCsr 0x7A0).toNat v x.trig2 })
  else if n = 0x151 then c.changeFile h false (fun f => f.writeAt ((c.hart h).fileSel false) v)
  else if n = 0x251 then c.changeFile h true (fun f => f.writeAt ((c.hart h).fileSel true) v)
  else if n = 0x15C then c.changeFile h false IFile.claim
  else if n = 0x25C then c.changeFile h true IFile.claim
  else on (fun x => x.mergeCsr n (csrMask pads (bitAt cap 10) n) v)

/-- The CSRs that a hart has: those of RVA23S64 with H and the AIA without an M-level file, of the debug and trigger modules, and the
vendor's (R3, R60, R74, R85). -/
def csrKnown (n : Nat) : Bool :=
  [0x001, 0x002, 0x003, 0x008, 0x009, 0x00A, 0x00F, 0xC20, 0xC21, 0xC22, 0x100, 0x104, 0x105, 0x106, 0x10A, 0x10C, 0x10D,
    0x10E, 0x10F, 0x140, 0x141, 0x142, 0x143, 0x144, 0x14D, 0x150, 0x151, 0x15C, 0x180, 0xDA0, 0xDB0, 0x200, 0x204, 0x205,
    0x240, 0x241, 0x242, 0x243, 0x244, 0x24D, 0x250, 0x251, 0x25C, 0x280, 0xEB0].contains n
    || [0x600, 0x602, 0x603, 0x604, 0x605, 0x606, 0x607, 0x608, 0x609, 0x60A, 0x60C, 0x60D, 0x60E, 0x60F, 0x643, 0x644, 0x645, 0x646,
      0x647, 0x64A, 0x680, 0xE12, 0xF11, 0xF12, 0xF13, 0xF14, 0xF15, 0x300, 0x301, 0x302, 0x303, 0x304, 0x305, 0x306, 0x308,
      0x309, 0x30A, 0x30C, 0x30D, 0x30E, 0x30F, 0x320, 0x340, 0x341, 0x342, 0x343, 0x344, 0x34A, 0x34B, 0x350, 0x351, 0xFB0,
      0x3A0, 0x3A2, 0x747, 0x7A0, 0x7A1, 0x7A2, 0x7A4, 0x7B0, 0x7B1, 0x7B2, 0x7B3, 0xB00, 0xB02].contains n
    || [csrMworld, csrMwfinfo, csrSqoslabel, csrTcsr, csrTfault].contains n || (0x3B0 ≤ n && n ≤ 0x3BF) || (0x323 ≤ n && n ≤ 0x33F)
    || (0xB03 ≤ n && n ≤ 0xB1F) || (0xC00 ≤ n && n ≤ 0xC1F)

-- the debug module

/-- A hart that the debug module reports unavailable (R85): absent, offline, powered off, or on a die that does not run. -/
def Chip.dmUnavail (c : Chip) (h : Nat) : Bool :=
  c.corePhys h == 31 || c.bit (coreCtl h) F.CD_CORE_CTL_OFFLINE || c.bit (coreCtl h) F.CD_CORE_CTL_OFF || !c.dieUp (hartDie h)

/-- An abstract register access of the debug module (R85): the CSRs, integer and floating-point registers of a halted
hart, by the numbers of the Debug Specification; cmderr 4 for a hart that is unavailable or not halted, 3 for another number. -/
def Chip.abstractAccess (c : Chip) (h regno : Nat) (wr : Option Word) : Chip :=
  if c.dmUnavail h || (c.hart h).run != .halted then { c with dmErr := 4 }
  else if regno < 0x1000 && !csrKnown regno then { c with dmErr := 3 }
  else
    match wr with
    | none =>
      if regno < 0x1000 then { c with dmData := c.readCsr h regno, dmErr := 0 }
      else if regno < 0x1020 then { c with dmData := (c.hart h).xr (regno - 0x1000), dmErr := 0 }
      else if regno < 0x1040 then { c with dmData := sget 0 (regno - 0x1020) (c.hart h).f, dmErr := 0 }
      else { c with dmErr := 3 }
    | some v =>
      let d : Chip := { c with dmData := v, dmErr := 0 }
      if regno < 0x1000 then d.writeCsr h regno v
      else if regno < 0x1020 then d.onHart h (fun x => x.setX (regno - 0x1000) v)
      else if regno < 0x1040 then d.onHart h (fun x => { x with f := sset 0 (regno - 0x1020) v x.f })
      else { c with dmErr := 3 }

end Sys2Proof.Machine
end

