-- ==== Sys2Proof/Machine/Harts.lean ====
section
/-! DEFINITION. The harts' commands: instructions, interrupts and the timer (R75, R76, R117), the event router (R77 to
R82), reset and power of one core (R83, R84), a failing core (R15), and external debug (R85, R86). -/

namespace Sys2Proof.Machine

-- operands

/-- A register number, and an access of a hart: its size and address. -/
def regOk (n : Nat) : Bool := n < 32
def vaOk (va : Nat) : Bool := va < 2 ^ 64
def sizeOk (n : Nat) : Bool := n == 1 || n == 2 || n == 4 || n == 8

/-- A load or store names a register and a size it can have. -/
def hregOk (r : HReg) (size : Nat) : Bool :=
  match r with
  | .x n => regOk n && sizeOk size
  | .f n => regOk n && (size == 2 || size == 4 || size == 8)
  | .v n => regOk n && (sizeOk size || size == 16 || size == 32)

/-- An AMO's size and registers: 16 bytes for a compare-and-swap of a register pair. -/
def amoOk (op : AmoOp) (rd rs size : Nat) : Bool :=
  regOk rd && regOk rs && (size == 4 || size == 8 || (size == 16 && op == .cas && rd % 2 == 0 && rs % 2 == 0))

/-- An array error, if there is one, names a word of a bank, each wrong bit once, and an access that can be. -/
def errOk (e : Option ArrErr) : Bool :=
  match e with
  | none => true
  | some e =>
    let g := arrayGrid e.array
    bankOk e.array e.inst e.bank && e.bits.all (· < g.1 * g.2) && decide e.bits.Nodup && e.rowPar.all (· < g.1)
      && e.colPar.all (fun j => 2 < e.array && decide (j < g.2)) && e.loc < 2 ^ 24
      && e.copy < (if e.array = 0x0A ∨ e.array = 0x0B then 2 else 1)
      && e.by_.all (fun m => m.rid < 2 ^ 16 && m.world < 16 && m.acc < 16 && m.line < 2 ^ 46)

-- loads and stores with array errors

/-- The line an access of a hart reaches, if its translation can be made now. -/
def Chip.lineOfAccess (c : Chip) (h va acc : Nat) : Option Nat :=
  match (c.translate h ((c.hart h).pointer (BitVec.ofNat 64 va)) 1 acc).2 with
  | .pa a => some (a / 64)
  | _ => none

/-- The access whose read meets an array error: the one the error names, whose agent reads the word at this time (a fetch, an AMO, a walk, a
tile load, a snoop, a hall, an engine, a station, a link's replay; log entry 73, DESIGN CHOICE), or else that of a hart that runs. -/
def Chip.meets (c : Chip) (h va acc : Nat) (e : ArrErr) : Meets :=
  match e.by_ with
  | some m => some m
  | none =>
    if (c.hart h).run ≠ HartRun.running then none
    else (c.lineOfAccess h va acc).map (fun line =>
      { rid := h, world := (c.hart h).world, acc := if acc = 1 then 0 else 1, line := line })

/-- A read of an array word meets an error (R304, R313), and the access of the hart is then performed. -/
def Pkg.access (p : Pkg) (h va acc : Nat) (err : Option ArrErr) (i : Instr) : Pkg :=
  let q := match err with
    | none => p
    | some e => match p.chip.meets h va acc e with
      | some m => p.arrayRead e (some m)
      | none => p
  q.onChip (fun c => c.issueInstr h i)

def execLoad (h : Nat) (rd : HReg) (va size : Nat) (signed : Bool) (err : Option ArrErr) (s : State) : Result :=
  need (hartOk h && hregOk rd size && vaOk va && errOk err)
    (s.onPkg (fun p => p.access h va 1 err (.load h rd va size signed none)))
def execStore (h : Nat) (rs : HReg) (va size : Nat) (err : Option ArrErr) (s : State) : Result :=
  need (hartOk h && hregOk rs size && vaOk va && errOk err)
    (s.onPkg (fun p => p.access h va 2 err (.store h rs va size none)))

-- the other instructions

def execAmo (h : Nat) (op : AmoOp) (rd rs va size : Nat) (s : State) : Result :=
  need (hartOk h && amoOk op rd rs size && vaOk va) (s.onChip (fun c => c.issueInstr h (.amo h op rd rs va size)))
def execLr (h rd va size : Nat) (s : State) : Result :=
  need (hartOk h && regOk rd && (size == 4 || size == 8) && vaOk va) (s.onChip (fun c => c.issueInstr h (.lr h rd va size)))
def execSc (h rd rs va size : Nat) (s : State) : Result :=
  need (hartOk h && regOk rd && regOk rs && (size == 4 || size == 8) && vaOk va)
    (s.onChip (fun c => c.issueInstr h (.sc h rd rs va size)))

/-- FENCE (R198): the instructions of a hart are performed in order, so a fence whose turn has come has nothing left to
wait for. -/
def execFence (h pred succ : Nat) (s : State) : Result :=
  need (hartOk h && pred < 16 && succ < 16) (s.onChip (fun c => c.issueInstr h (.fence h pred succ)))
def execInstructionFetch (h va : Nat) (s : State) : Result :=
  need (hartOk h && vaOk va && va % 2 == 0) (s.onChip (fun c => c.issueInstr h (.instructionFetch h va)))
def execCboClean (h va : Nat) (s : State) : Result := need (hartOk h && vaOk va) (s.onChip (fun c => c.issueInstr h (.cboClean h va)))
def execCboFlush (h va : Nat) (s : State) : Result := need (hartOk h && vaOk va) (s.onChip (fun c => c.issueInstr h (.cboFlush h va)))
def execCboInval (h va : Nat) (s : State) : Result := need (hartOk h && vaOk va) (s.onChip (fun c => c.issueInstr h (.cboInval h va)))
def execCboZero (h va : Nat) (s : State) : Result := need (hartOk h && vaOk va) (s.onChip (fun c => c.issueInstr h (.cboZero h va)))
def execMret (h : Nat) (s : State) : Result := need (hartOk h) (s.onChip (fun c => c.issueInstr h (.mret h)))
def execPredictorClearDone (h : Nat) (s : State) : Result := need (hartOk h) (s.onChip (fun c => (c.clearDone h).run h))
def execMworldWrite (h : Nat) (v : Word) (s : State) : Result := need (hartOk h) (s.onChip (fun c => c.issueInstr h (.mworldWrite h v)))
def execSqoslabelWrite (h : Nat) (v : Word) (s : State) : Result := need (hartOk h) (s.onChip (fun c => c.issueInstr h (.sqoslabelWrite h v)))
def execTileCsrAccess (h rd : Nat) (isFault : Bool) (wr : Option Word) (s : State) : Result :=
  need (hartOk h && regOk rd) (s.onChip (fun c => c.issueInstr h (.tileCsrAccess h rd isFault wr)))
def execWfi (h : Nat) (s : State) : Result := need (hartOk h) (s.onChip (fun c => c.issueInstr h (.wfi h)))

-- tile instructions

/-- Tile registers T0 to T7 and accumulators ACC0 to ACC3. -/
def tOk (t : Nat) : Bool := t < 8
def aOk (a : Nat) : Bool := a < 4

/-- Failing compute checks: a KIND of R137 or R136 and a column. -/
def badOk (bad : List (Nat × Nat)) : Bool := bad.all (fun b => 4 ≤ b.1 && b.1 ≤ 6 && b.2 < 32)

def execTmma (h c a b : Nat) (bad : List (Nat × Nat)) (s : State) : Result :=
  need (hartOk h && aOk c && tOk a && tOk b && badOk bad) (s.onChip (fun x => x.issueInstr h (.tmma h c a b bad)))
def execTmmat (h c a b : Nat) (bad : List (Nat × Nat)) (s : State) : Result :=
  need (hartOk h && aOk c && tOk a && tOk b && badOk bad) (s.onChip (fun x => x.issueInstr h (.tmmat h c a b bad)))
def execTaddAa (h d a : Nat) (bad : List (Nat × Nat)) (s : State) : Result :=
  need (hartOk h && aOk d && aOk a && badOk bad) (s.onChip (fun x => x.issueInstr h (.taddAa h d a bad)))
def execTaddAt (h d t : Nat) (bad : List (Nat × Nat)) (s : State) : Result :=
  need (hartOk h && aOk d && tOk t && badOk bad) (s.onChip (fun x => x.issueInstr h (.taddAt h d t bad)))
def execTzeroTile (h t : Nat) (s : State) : Result := need (hartOk h && tOk t) (s.onChip (fun x => x.issueInstr h (.tzeroTile h t)))
def execTzeroAcc (h a : Nat) (s : State) : Result := need (hartOk h && aOk a) (s.onChip (fun x => x.issueInstr h (.tzeroAcc h a)))
def execTchkTile (h t : Nat) (s : State) : Result := need (hartOk h && tOk t) (s.onChip (fun x => x.issueInstr h (.tchkTile h t)))
def execTchkAcc (h a : Nat) (s : State) : Result := need (hartOk h && aOk a) (s.onChip (fun x => x.issueInstr h (.tchkAcc h a)))
def execTcfgTile (h t r : Nat) (s : State) : Result :=
  need (hartOk h && tOk t && regOk r) (s.onChip (fun x => x.issueInstr h (.tcfgTile h t r)))
def execTcfgAcc (h a r : Nat) (s : State) : Result :=
  need (hartOk h && aOk a && regOk r) (s.onChip (fun x => x.issueInstr h (.tcfgAcc h a r)))
def execTsumsTile (h rd t r : Nat) (s : State) : Result :=
  need (hartOk h && regOk rd && tOk t && regOk r) (s.onChip (fun x => x.issueInstr h (.tsumsTile h rd t r)))
def execTsumsAcc (h rd a r : Nat) (s : State) : Result :=
  need (hartOk h && regOk rd && aOk a && regOk r) (s.onChip (fun x => x.issueInstr h (.tsumsAcc h rd a r)))
def execTcvt (h t a r rm : Nat) (s : State) : Result :=
  need (hartOk h && tOk t && aOk a && regOk r && rm < 8) (s.onChip (fun x => x.issueInstr h (.tcvt h t a r rm)))
def execTload (h t r1 r2 : Nat) (s : State) : Result :=
  need (hartOk h && tOk t && regOk r1 && regOk r2) (s.onChip (fun x => x.issueInstr h (.tload h t r1 r2)))
def execTstore (h t r1 r2 : Nat) (s : State) : Result :=
  need (hartOk h && tOk t && regOk r1 && regOk r2) (s.onChip (fun x => x.issueInstr h (.tstore h t r1 r2)))
def execTloadu (h t r1 r2 : Nat) (s : State) : Result :=
  need (hartOk h && tOk t && regOk r1 && regOk r2) (s.onChip (fun x => x.issueInstr h (.tloadu h t r1 r2)))
def execTstoreu (h t r1 r2 : Nat) (s : State) : Result :=
  need (hartOk h && tOk t && regOk r1 && regOk r2) (s.onChip (fun x => x.issueInstr h (.tstoreu h t r1 r2)))
def execTsave (h r1 : Nat) (s : State) : Result :=
  need (hartOk h && regOk r1) (s.onChip (fun x => x.issueInstr h (.tsave h r1)))
def execTrestore (h r1 : Nat) (s : State) : Result :=
  need (hartOk h && regOk r1) (s.onChip (fun x => x.issueInstr h (.trestore h r1)))

/-- The oldest tile instruction in the unit completes (R116): it retires, and with the last one the instructions behind it; its steps
are counted, a waiting interrupt may be taken (R117), and the next tile instruction can be sent. -/
def Chip.tileComplete (c : Chip) (h : Nat) : Chip :=
  match (c.hart h).tsent with
  | [] => c
  | n :: rest =>
    let c1 := ((c.onHart h (fun x => { x with tsent := rest })).retire h).countEvent h 0x40 n
    (if rest = [] then c1.retireYounger h else c1).run h

def execTileInstructionComplete (h : Nat) (s : State) : Result := need (hartOk h) (s.onChip (fun c => c.tileComplete h))

-- interrupts

/-- An interrupt is taken (R117): at once, or, once the tile unit is empty, the tile instruction that has begun its accesses has completed and
an outstanding I/O access has its answer, with every instruction that has not begun discarded. -/
def Chip.interrupt (c : Chip) (h cause : Nat) : Chip :=
  let c0 := c.wake h
  let x := c0.hart h
  if x.run ≠ .running ∨ !c0.irqReady h cause then c0
  else
    (c0.onHart h (fun x => { (if x.begun then { x with hq := x.hq.take 1 } else x.discard) with irqWait := some cause })).irqPoll h

def execInterruptTaken (h cause : Nat) (s : State) : Result :=
  need (hartOk h && cause < 64) (s.onChip (fun c => c.interrupt h cause))

/-- The machine timer interrupt is raised while package time is at or past CD_MTIMECMP_i (R76): mip shows it, and a hart in
WFI wakes. -/
def execMachineTimerInterrupt (h : Nat) (s : State) : Result := need (hartOk h) (s.onChip (fun c => (c.wake h).run h))

-- the event router

/-- An event source and an event timer. -/
def srcOk (n : Nat) : Bool := n < 2048
def timerOk (n : Nat) : Bool := n < 64

/-- The world that writes owns the source, or Uzomuris writes its entry (R79). -/
def Chip.maySource (c : Chip) (who : Who) (n : Nat) : Bool := who.uz || who.world == c.srcOwner n

/-- The world that raises a source, or writes its timer, owns it (R82); Uzomuris has the rights of W1 (R462). -/
def Chip.mayRaise (c : Chip) (who : Who) (n : Nat) : Bool := (if who.uz then 1 else who.world) == c.srcOwner n

def execEventOccurrence (n : Nat) (s : State) : Result := need (srcOk n) (s.onChip (fun c => c.raiseEvent n))

/-- The router delivers the oldest MSI of a source (R77), which may wake its hart. -/
def Chip.deliverNext (c : Chip) (n : Nat) : Chip :=
  match c.msi.find? (fun e => e.1 == n) with
  | none => c
  | some e =>
    let h := F.EVR_SRC_HART.get e.2
    let c1 := ({ c with msi := dropFirst e c.msi } : Chip).deliverMsi e.1 e.2
    if h < 288 then (c1.wake h).run h else c1

def execMsiDeliver (n : Nat) (s : State) : Result := need (srcOk n) (s.onChip (fun c => c.deliverNext n))

/-- A write to EVR_SRC_n (R79): IDENTITY, FILE, HART and ENABLE; setting ENABLE while PENDING is set sends one MSI. -/
def Chip.srcWrite (c : Chip) (n : Nat) (v : Word) : Chip :=
  let r := Reg.EVR_SRC n
  let c1 := (((c.setFld r F.EVR_SRC_IDENTITY (F.EVR_SRC_IDENTITY.get v)).setFld r F.EVR_SRC_FILE
    (F.EVR_SRC_FILE.get v)).setFld r F.EVR_SRC_HART (F.EVR_SRC_HART.get v)).setFld r F.EVR_SRC_ENABLE
    (F.EVR_SRC_ENABLE.get v)
  if c1.bit r F.EVR_SRC_ENABLE && c1.bit r F.EVR_SRC_PENDING then (c1.setBit r F.EVR_SRC_PENDING false).formMsi n else c1

def execEvrSrcWrite (who : Who) (n : Nat) (v : Word) (s : State) : Result :=
  need (srcOk n) (s.onChip (fun c => c.ifMay (c.maySource who n) who (.EVR_SRC n) (fun x => x.srcWrite n v)))

/-- The write completes once every MSI formed from the old entry has been written into its file or dropped (R81), which may
wake the harts concerned. -/
def Chip.settleSource (c : Chip) (n : Nat) : Chip :=
  let old := fun (e : Nat × Word) => e.1 == n && e.2 != c.srcEntry n
  ((c.msi.filter old).map (fun e => F.EVR_SRC_HART.get e.2)).foldl (fun x h => if h < 288 then (x.wake h).run h else x)
    (c.deliverWhere old)

def execEvrSrcWriteDone (n : Nat) (s : State) : Result := need (srcOk n) (s.onChip (fun c => c.settleSource n))

/-- CLEAR of EVR_DROP_STATUS sets COUNT to 0. -/
def execEvrDropClear (_ : Who) (s : State) : Result :=
  s.onChip (fun c => c.setFld .EVR_DROP_STATUS F.EVR_DROP_STATUS_COUNT 0)

/-- EVR_SWTRIG (R82): 960 to 1,023 raise that source for its owner; other values are ignored. -/
def Chip.swTrig (c : Chip) (who : Who) (v : Word) : Chip :=
  let n := F.EVR_SWTRIG_SOURCE.get v
  if 960 ≤ n ∧ n ≤ 1023 then c.ifMay (c.mayRaise who n) who .EVR_SWTRIG (fun x => x.raiseEvent n) else c

def execEvrSwtrig (who : Who) (v : Word) (s : State) : Result := s.onChip (fun c => c.swTrig who v)

/-- A timer fires: ARM clears and source 608 + n is raised (R82). -/
def Chip.timerFire (c : Chip) (n : Nat) : Chip :=
  if c.bit (.EVR_TIMER n) F.EVR_TIMER_ARM && c.fld (.EVR_TIMER n) F.EVR_TIMER_CMP ≤ c.now then
    (c.setBit (.EVR_TIMER n) F.EVR_TIMER_ARM false).raiseEvent (608 + n)
  else c

/-- A write to EVR_TIMER_n (R82): an armed compare value already past fires at once. -/
def execEvrTimerWrite (who : Who) (n : Nat) (v : Word) (s : State) : Result :=
  need (timerOk n) (s.onChip (fun c =>
    c.ifMay (c.mayRaise who (608 + n)) who (.EVR_TIMER n) (fun x => (x.setReg (.EVR_TIMER n) v).timerFire n)))

def execEvrTimerFire (n : Nat) (s : State) : Result := need (timerOk n) (s.onChip (fun c => c.timerFire n))

-- reset and power of one core

/-- BUSY, OFF and OFFLINE of CD_CORE_CTL_i. -/
def Chip.coreBusy (c : Chip) (h : Nat) : Bool := c.bit (coreCtl h) F.CD_CORE_CTL_BUSY
def Chip.coreOff (c : Chip) (h : Nat) : Bool := c.bit (coreCtl h) F.CD_CORE_CTL_OFF
def Chip.coreOffline (c : Chip) (h : Nat) : Bool :=
  c.bit (coreCtl h) F.CD_CORE_CTL_OFFLINE || c.corePhys h == 31 || !c.dieUp (hartDie h)

/-- A hart stops: nothing that has not completed will (R83 steps 1 and 2). A haltreq that waits goes on waiting (R86). -/
def Hart.stop (x : Hart) : Hart :=
  { x.discard with run := .held, fetched := none, irqWait := none, haltWait := none, haltPending := x.haltPending || x.haltWait == some 3 }

/-- Step 1 of R83: BUSY sets, and the hart stops. -/
def Chip.stopCore (c : Chip) (h : Nat) : Chip := (c.setBit (coreCtl h) F.CD_CORE_CTL_BUSY true).onHart h Hart.stop

/-- A hart reset starts (R83 step 1). -/
def Chip.startReset (c : Chip) (h : Nat) : Chip := if c.coreOffline h || c.coreOff h then c else c.stopCore h

/-- A line of a failed core's L2 is written back (R333), as its die records it: an owned line may be dirty; whether the L2 can supply the
line is a free value, and one it cannot is written back poisoned. -/
def Chip.evictFailed (c : Chip) (h line : Nat) : Chip :=
  let l := c.l2at h line
  if c.wbCount h < 16 then
    let c1 := c.nextFree
    { c1.dropL2 h line with wb := c1.wb ++ [{ h := h, line := line, st := if l.st = .E then .M else l.st, world := l.world, data := l.data
                                              poison := l.poison || Config.freeNat c.free % 2 == 1, sent := false, superseded := false }] }
  else c

/-- The L2 of a core is emptied (R83 step 3): dirty lines are written back while the write-back buffer has room, clean ones given back to
their homes; of a failed core, every line its die records in E, M or O is written back (R333). A line that an outstanding UPGRADE of the die
concerns stays until its answer (R183). -/
def Chip.flushL2 (c : Chip) (h : Nat) : Chip :=
  (c.l2Lines h).foldl (fun x line =>
    if !x.victimOk (hartDie h) line then x
    else if x.coreOffline h && (x.l2at h line).st.owns then (x.evictFailed h line).sendWbOf h line
    else if (x.l2at h line).st.dirty then (x.evictL2 h line).sendWbOf h line
    else ((x.dropL2 h line).lndUnshadow (hartDie h) line).evictClean (hartDie h) line h) c

/-- No request of a hart is outstanding (R83 step 2). -/
def Chip.quiet (c : Chip) (h : Nat) : Bool :=
  !c.miss.any (fun m => m.h == h) && !c.wchk.any (fun w => w.1 == h) && (c.hart h).io != some none

/-- The write-backs of a core that have not been sent are (R83 step 3). -/
def Chip.sendOwn (c : Chip) (h : Nat) : Chip := (c.wb.filter (fun e => e.h == h && !e.sent)).foldl (fun x e => x.sendWb e) c

/-- The L2 of a core is empty, and every line it wrote back is at its home (R83 step 3). -/
def Chip.l2Gone (c : Chip) (h : Nat) : Bool := (c.l2Lines h).isEmpty && c.wbCount h == 0

/-- The address at which a die's harts start. -/
def Chip.resetPc (c : Chip) (d : Nat) : Word := BitVec.ofNat 64 (c.fld (.CD_RESET_VECTOR d) F.CD_RESET_VECTOR_ADDR * 4)

/-- A hart at the start: M-mode, world W1, everything at reset (R83 steps 4 and 5). A haltreq that waits takes effect if W1 has invasive
debug enabled (R86). -/
def Chip.startHart (c : Chip) (h : Nat) : Chip :=
  (c.setHart h { Hart.reset with run := .running, pc := c.resetPc (hartDie h), haltPending := (c.hart h).haltPending }).haltAtGate h

/-- A hart reset completes (R83 steps 2 to 5), once its issued requests have and its L2 is empty and written back: BUSY stays set while a line
waits for the write-back buffer, or a write-back for its acknowledgement. sqoslabel keeps its value until then (R65). -/
def Chip.finishReset (c : Chip) (h : Nat) : Chip :=
  if !c.coreBusy h || c.coreOffline h || c.bit (coreCtl h) F.CD_CORE_CTL_POWER_OFF || !c.quiet h then c
  else
    let c1 := (c.flushL2 h).sendOwn h
    if !c1.l2Gone h then c1
    else ((c1.setBit (coreCtl h) F.CD_CORE_CTL_BUSY false).startHart h).runDie (hartDie h)

/-- POWER_OFF is written 1 (R84): steps 1 to 4 of R83 run, for a core that has failed too (R333); there is none of a logical core that is
absent or on a die that does not run. -/
def Chip.powerOff (c : Chip) (h : Nat) : Chip :=
  let c1 := c.setBit (coreCtl h) F.CD_CORE_CTL_POWER_OFF true
  if c1.coreOff h || c1.corePhys h == 31 || !c1.dieUp (hartDie h) then c1 else c1.stopCore h

/-- The power-off completes (R84): the L2 is empty, power is removed and OFF sets. A haltreq that waits goes on waiting (R86). -/
def Chip.powerOffDone (c : Chip) (h : Nat) : Chip :=
  if !c.coreBusy h || !c.bit (coreCtl h) F.CD_CORE_CTL_POWER_OFF || !c.quiet h then c
  else
    let c1 := (c.flushL2 h).sendOwn h
    if !c1.l2Gone h then c1
    else
      (((c1.setBit (coreCtl h) F.CD_CORE_CTL_BUSY false).setBit (coreCtl h) F.CD_CORE_CTL_OFF true).setHart h
        { Hart.reset with haltPending := (c1.hart h).haltPending }).runDie (hartDie h)

/-- POWER_OFF is written 0 (R84): power is restored, and the reset of R83 goes on from step 4. The hart of a failed core stays offline
(R15). -/
def Chip.powerOn (c : Chip) (h : Nat) : Chip :=
  let c1 := c.setBit (coreCtl h) F.CD_CORE_CTL_POWER_OFF false
  if c1.coreOff h then (c1.setBit (coreCtl h) F.CD_CORE_CTL_OFF false).setBit (coreCtl h) F.CD_CORE_CTL_BUSY (!c1.coreOffline h) else c1

/-- MSIP is written (R76). -/
def Chip.writeMsip (c : Chip) (h : Nat) (b : Bool) : Chip := ((c.setBit (coreCtl h) F.CD_CORE_CTL_MSIP b).wake h).run h

def execHartReset (who : Who) (h : Nat) (s : State) : Result :=
  need (hartOk h) (s.onChip (fun c => c.ifMay who.sealed who (coreCtl h) (fun x => x.startReset h)))
def execHartResetDone (h : Nat) (s : State) : Result := need (hartOk h) (s.onChip (fun c => c.finishReset h))
def execCorePowerOff (who : Who) (h : Nat) (s : State) : Result :=
  need (hartOk h) (s.onChip (fun c => c.ifMay who.sealed who (coreCtl h) (fun x => x.powerOff h)))
def execCorePowerOffDone (h : Nat) (s : State) : Result := need (hartOk h) (s.onChip (fun c => c.powerOffDone h))
def execCorePowerOn (who : Who) (h : Nat) (s : State) : Result :=
  need (hartOk h) (s.onChip (fun c => c.ifMay who.sealed who (coreCtl h) (fun x => x.powerOn h)))
def execMsipWrite (who : Who) (h : Nat) (b : Bool) (s : State) : Result :=
  need (hartOk h) (s.onChip (fun c => c.ifMay who.sealed who (coreCtl h) (fun x => x.writeMsip h b)))

/-- The CORE_MAP record of a die (R430). -/
def Chip.coreMapRecord (c : Chip) (d : Nat) : Chip :=
  c.lifeWrite 0x21 (toBytes 8 d ++ (List.range 24).flatMap (fun i => toBytes 1 (c.corePhys (24 * d + i)))
    ++ toBytes 4 (c.die d).failMark)

/-- The fields of CD_CORE_STATUS that follow from the failed physical cores and the map. -/
def Chip.countCores (c : Chip) (d failed : Nat) : Chip :=
  let bound := (dieHarts d).map c.corePhys
  let free := (List.range 26).filter (fun p => !bitAt failed p && !bound.contains p)
  ((c.setFld (.CD_CORE_STATUS d) F.CD_CORE_STATUS_PHYS_FAILED failed).setFld (.CD_CORE_STATUS d) F.CD_CORE_STATUS_SPARES_FREE
    free.length).setFld (.CD_CORE_STATUS d) F.CD_CORE_STATUS_ABSENT (bound.filter (· == 31)).length

/-- A physical core fails while its die runs (R15): its failure mark is written to the life record, the hart of the logical
core bound to it goes offline, and the core-failed fault is reported under that hart's ID, or, of a spare, under the die's
(R328). -/
def Chip.coreFailed (c : Chip) (d phys : Nat) : Chip :=
  if !c.dieUp d then c
  else
    let c0 := (c.onDie d (fun x => { x with failMark := withBit x.failMark phys true })).coreMapRecord d
    let c1 := c0.countCores d (withBit (c0.fld (.CD_CORE_STATUS d) F.CD_CORE_STATUS_PHYS_FAILED) phys true)
    match (dieHarts d).find? (fun h => c1.corePhys h == phys) with
    | none => c1.report (unitDie d) (64 + 12 * d + 3) (0x1000 + 16 * d + 2) 1 15
    | some h =>
      ((c1.setBit (coreCtl h) F.CD_CORE_CTL_OFFLINE true).onHart h Hart.stop).report (unitDie d) (64 + 12 * d + 3) h 1 15

def execCoreFailed (d phys : Nat) (s : State) : Result := need (d < 12 && phys < 26) (s.onChip (fun c => c.coreFailed d phys))

-- external debug

/-- haltreq (R86): the hart halts while its world has invasive debug enabled; else the request stays pending. It stays pending too while a
predictor clear runs (R70) and while the hart is held in reset. An unavailable hart has none. -/
def Chip.haltreq (c : Chip) (h : Nat) : Chip :=
  let x := c.hart h
  if c.dmUnavail h || x.run == .halted || x.haltWait != none then c
  else if x.run != .clearing && x.run != .held && c.invEff x.world then c.onHart h (fun x => x.haltSoon 3)
  else c.onHart h (fun x => { x with haltPending := true })

/-- resumereq (R34, R85): a halted hart goes on at dpc in the mode dcsr holds. A hart in M-mode is always in W1 (R63): one that resumes there
from another world passes the gate (log entry 98, DEDUCED). -/
def Chip.resumereq (c : Chip) (h : Nat) : Chip :=
  if (c.hart h).run = .halted then
    c.onHart h (fun x =>
      let m := x.csrBits csrDcsr 1 0
      let y := if m = 3 ∧ x.world ≠ 1 then c.gateEntry x else x
      { y with run := .running, pc := x.getCsr csrDpc, priv := m, virt := x.csrBit csrDcsr 5 && m != 3 })
  else c

/-- A trigger fires (R86): a breakpoint exception in every world, Debug Mode only where invasive debug is enabled. -/
def Chip.trigger (c : Chip) (h : Nat) (debugAction : Bool) (addr : Nat) : Chip :=
  if (c.hart h).run ≠ .running then c
  else if !debugAction then c.except h 3 (BitVec.ofNat 64 addr)
  else if c.invEff (c.hart h).world then c.onHart h (fun x => x.haltSoon 2)
  else c

def execHaltreq (h : Nat) (s : State) : Result := need (hartOk h) (s.onChip (fun c => c.haltreq h))
def execResumereq (h : Nat) (s : State) : Result := need (hartOk h) (s.onChip (fun c => c.resumereq h))
def execTriggerFire (h : Nat) (debugAction : Bool) (addr : Nat) (s : State) : Result :=
  need (hartOk h && vaOk addr) (s.onChip (fun c => c.trigger h debugAction addr))

/-- dmcontrol.hartreset (R83, R85): an unavailable hart has none. -/
def execDmcontrolHartreset (h : Nat) (s : State) : Result :=
  need (hartOk h) (s.onChip (fun c => if c.hartThere h then c.startReset h else c))

def execAbstractRegisterAccess (h regno : Nat) (wr : Option Word) (s : State) : Result :=
  need (hartOk h && regno < 65536) (s.onChip (fun c => c.abstractAccess h regno wr))

end Sys2Proof.Machine
end

