-- ==== Sys2Proof/Machine/Maintenance.lean ====
section
/-! DEFINITION. Cache maintenance: the engines of the dies and of the halls (R159 to R166, R464), the region attribute
table (R156, R157), and disabling and re-enabling the landing and hall caches (R168 to R173). -/

namespace Sys2Proof.Machine

-- the region attribute table

/-- A write that leaves a region entry valid is refused (R156): LIMIT below BASE, PIN without WAYS, or more than ten ways
reserved. `c` is the chip as the write would leave it. -/
def Chip.ratBad (c : Chip) (n : Nat) : Bool :=
  c.fld (.PKG_RAT_LIMIT n) F.PKG_RAT_LIMIT_LIMIT < c.fld (.PKG_RAT_BASE n) F.PKG_RAT_BASE_BASE
    || (c.bit (.PKG_RAT_BASE n) F.PKG_RAT_BASE_PIN && c.fld (.PKG_RAT_LIMIT n) F.PKG_RAT_LIMIT_WAYS == 0)
    || 10 < ((List.range 12).filter (fun w => bitAt c.reservedWays w)).length

/-- RESERVED_WAYS follows the table. -/
def Chip.ratUpdate (c : Chip) : Chip := c.setFld .PKG_RAT_CTL F.PKG_RAT_CTL_RESERVED_WAYS c.reservedWays

/-- A write to PKG_RAT_BASE_n (R156): refused as a whole with REJECT, or in effect in every hall. -/
def Chip.ratBaseWrite (c : Chip) (who : Who) (n : Nat) (v : Word) : Chip :=
  c.ifMay who.sealed who (.PKG_RAT_BASE n) (fun x =>
    let y := x.storeFields (.PKG_RAT_BASE n) v
    if y.bit (.PKG_RAT_BASE n) F.PKG_RAT_BASE_VALID && y.ratBad n then x.setBit .PKG_RAT_CTL F.PKG_RAT_CTL_REJECT true
    else y.ratUpdate)

/-- A write to PKG_RAT_LIMIT_n (R156): refused while VALID is set. -/
def Chip.ratLimitWrite (c : Chip) (who : Who) (n : Nat) (v : Word) : Chip :=
  c.ifMay who.sealed who (.PKG_RAT_LIMIT n) (fun x =>
    if x.bit (.PKG_RAT_BASE n) F.PKG_RAT_BASE_VALID then x.setBit .PKG_RAT_CTL F.PKG_RAT_CTL_REJECT true
    else x.storeFields (.PKG_RAT_LIMIT n) v)

def execPkgRatBaseWrite (who : Who) (n : Nat) (v : Word) (s : State) : Result :=
  need (n < 64) (s.onChip (fun c => c.ratBaseWrite who n v))
def execPkgRatLimitWrite (who : Who) (n : Nat) (v : Word) (s : State) : Result :=
  need (n < 64) (s.onChip (fun c => c.ratLimitWrite who n v))

-- the engine of a die

/-- The L2s of a die that an operation selects. -/
def MntRun.harts (r : MntRun) : List Nat := (dieHarts r.key).filter (fun h => bitAt r.cores (h % 24))

/-- A die gives its last copy of a line back to its home for its CME (R186, R464). -/
def Chip.cmeEvict (c : Chip) (r : MntRun) (line : Nat) : Chip := c.cleanNotice r.key line (cmeRid r.key) r.world r.label 7

/-- A line leaves the selected arrays of a die; a landing cache in the dark keeps what it holds (R168), and one that is not selected keeps
its copy, which no L2 that has gone shadows (R150). -/
def Chip.cmeRemove (c : Chip) (r : MntRun) (line : Nat) : Chip :=
  let c1 := r.harts.foldl (fun x h => if (x.l2at h line).st = .I then x else x.dropL2 h line) c
  if r.lnd then c1.lndInval r.key line else c1.lndUnshadow r.key line

/-- The line is present in a selected array. -/
def Chip.cmePresent (c : Chip) (r : MntRun) (line : Nat) : Bool :=
  r.harts.any (fun h => (c.l2at h line).st != .I) || (r.lnd && (c.lndAt r.key line).isSome)

/-- The L2 of the die that holds a line in M or O, selected or not: R464 speaks of what the die holds. -/
def Chip.cmeOwner (c : Chip) (r : MntRun) (line : Nat) : Option Nat := (dieHarts r.key).find? (fun h => (c.l2at h line).st.dirty)

/-- OP 3 on a dirty line (R464): it enters the write-back buffer of its L2, the selected copies leave, and WB_DATA goes to the home with the
operation's world and label (R160); nothing while the buffer is full (R147). An L2 that is not selected keeps the line, clean, in S (log
entry 115, DEDUCED: WB_DATA with KEEP leaves the home SHARED with the die, R184). -/
def Chip.cmeWriteBack (c : Chip) (r : MntRun) (h line : Nat) : Chip :=
  let l := c.l2at h line
  if c.wbCount h < 16 then
    let e : WbEntry := { h := h, line := line, st := l.st, world := l.world, data := l.data, poison := l.poison, sent := false
                         superseded := false, cme := some (r.world, r.label) }
    let c1 : Chip := { c.setL2 h line { l with st := .S } with wb := c.wb ++ [e] }
    ((c1.cmeRemove r line).sendWbOf h line).bump (.CME_STATUS r.key) F.CME_STATUS_WB_LINES
  else c

/-- OP 1 or OP 2 on a dirty line (R464): a cache-block operation of the die's CME. -/
def MntRun.cmo (r : MntRun) (line : Nat) : Msg :=
  { kind := if r.op = 1 then .CMO_CLEAN else .CMO_INVAL, die := r.key, line := line, rid := cmeRid r.key, world := r.world
    label := r.label, acc := 7 }

/-- A CME performs its operation on one line with the messages of R464; whether the line waits for an answer. -/
def Chip.cmeLine (c : Chip) (r : MntRun) (line : Nat) : Chip × Bool :=
  if !c.cmePresent r line then (c, false)
  else
    match c.cmeOwner r line with
    | some h => if r.op = 3 then (c.cmeWriteBack r h line, true) else (c.sendMiss (288 + r.key) (r.cmo line), true)
    | none => (if r.op = 1 then c else (c.cmeRemove r line).cmeEvict r line, false)

/-- An engine that reaches a line waits (R163): for a fill or a write-back under way, for a hold (R188), and for the safe state when it
would discard or write back (R339). -/
def Chip.cmeWaits (c : Chip) (r : MntRun) (line : Nat) : Bool :=
  (c.missOf r.key line).isSome || c.wb.any (fun e => e.line == line && e.h / 24 == r.key) || c.dieHolds r.key line
    || (c.safe && r.op != 1)

/-- The lines of a range an engine of a die has to visit: those present, those on their way in and those on their way
out. -/
def Chip.cmeLines (c : Chip) (r : MntRun) (lo hi : Nat) : List Nat :=
  let landed := (c.lnd.filter (fun e => e.1 % 12 == r.key && e.2.isSome)).map (fun e => e.1 / 12)
  let coming := (c.miss.filter (fun m => m.req.die == r.key)).map (fun m => m.req.line)
  let going := (c.wb.filter (fun e => e.h / 24 == r.key)).map (fun e => e.line)
  (c.dieLines r.key ++ landed ++ coming ++ going).eraseDups.filter (fun l => lo ≤ l && l ≤ hi)

/-- The engine visits lines: those that wait, or whose operation is under way, are left for later. -/
def Chip.cmeVisit (c : Chip) (r : MntRun) (ls : List Nat) : Chip × MntRun :=
  ls.foldl (fun (a : Chip × MntRun) l =>
    if a.1.cmeWaits r l then (a.1, { a.2 with wait := a.2.wait ++ [l] })
    else
      let x := a.1.cmeLine r l
      if x.2 then (x.1, { a.2 with wait := a.2.wait ++ [l], sent := if (x.1.missOf r.key l).isSome then addOnce l a.2.sent else a.2.sent })
      else (x.1, a.2)) (c, { r with wait := [] })

-- the engine of a hall

/-- The lines homed in a hall that a request under way may bring into its cache (R162, R163): those of the requests of dies, of transactions,
of requests that wait at the home, of messages on their way to it or to a station, and of the reads that wait for a tread. -/
def Chip.hallComing (c : Chip) (n : Nat) : List Nat :=
  let there := fun (m : Msg) => m.kind.fromDie || m.kind.tokenHeld || m.kind == .HALL_RD
  (c.miss.map (fun m => m.req.line) ++ c.txn.map (fun t => t.req.line) ++ c.homeQ.map (fun m => m.line)
    ++ (c.net.filter there).map (fun m => m.line)
    ++ ((c.hall n).waiting.filter (fun t => t.alloc && !t.write)).map (fun t => t.line)).filter (fun l => c.homeHall l == n)

/-- A line may be on its way into a hall cache (R163). -/
def Chip.mntWaits (c : Chip) (n line : Nat) : Bool := (c.hallComing n).contains line

/-- An operation of a hall on one line of its cache (R159): its DRAM writes are maintenance work of class 15 (R160). A hall cache in the dark keeps
what it holds (R168). -/
def Pkg.hallLine (p : Pkg) (n op line : Nat) : Pkg :=
  match p.chip.hcAt line with
  | none => p
  | some x =>
    if p.chip.hcMode n > 1 then p
    else if op = 1 then
      if x.dirty then (p.onChip (fun c => c.setHc line (some { x with dirty := false }))).treadWrite line x.data x.poison 15 true else p
    else if op = 2 then p.onChip (fun c => c.setHc line none)
    else p.hcEvict line 15 true

/-- A hall engine performs its operation on one line; a line written back is counted in WB_LINES. -/
def Pkg.mntLine (p : Pkg) (r : MntRun) (line : Nat) : Pkg :=
  let n := r.key - 16
  let dirty := (p.chip.hcAt line).any (fun x => x.dirty) && p.chip.hcMode n ≤ 1 && r.op != 2
  let q := p.hallLine n r.op line
  if dirty then q.onChip (fun c => c.bump (.HALL_MNT_STATUS n) F.CME_STATUS_WB_LINES) else q

/-- The lines of a range an engine of a hall has to visit: those in its cache and those on their way in. -/
def Chip.mntLines (c : Chip) (n lo hi : Nat) : List Nat :=
  ((c.hc.filter (fun e => e.2.isSome)).map (fun e => e.1) ++ c.hallComing n).eraseDups.filter
    (fun l => lo ≤ l && l ≤ hi && c.homeHall l == n)

/-- The engine visits lines. -/
def Pkg.mntVisit (p : Pkg) (r : MntRun) (ls : List Nat) : Pkg × MntRun :=
  ls.foldl (fun (a : Pkg × MntRun) l =>
    if a.1.chip.mntWaits (r.key - 16) l then (a.1, { a.2 with wait := a.2.wait ++ [l] }) else (a.1.mntLine r l, a.2))
    (p, { r with wait := [] })

-- starting, aborting and ending

/-- The registers of an engine: CTL, STATUS, BASE, LIMIT and its event source (R78, R166). -/
def mntCtl (key : Nat) : Reg := if key < 16 then .CME_CTL key else .HALL_MNT_CTL (key - 16)
def mntSts (key : Nat) : Reg := if key < 16 then .CME_STATUS key else .HALL_MNT_STATUS (key - 16)
def mntBase (key : Nat) : Reg := if key < 16 then .CME_BASE key else .HALL_MNT_BASE (key - 16)
def mntLimit (key : Nat) : Reg := if key < 16 then .CME_LIMIT key else .HALL_MNT_LIMIT (key - 16)

/-- The event source of an engine: 128 + n for a CME, 144 + n for a hall engine (R164). -/
def mntEvent (key : Nat) : Nat := 128 + key

/-- The writers the engine registers accept (R160). -/
def mntMay (who : Who) : Bool := who.world == 0 || who.sealed

/-- Every end of an operation (R164): BUSY clears, RESULT and DONE are set, the completion event is raised. -/
def Chip.mntEnd (c : Chip) (key result : Nat) : Chip :=
  (((({ c with mnt := c.mnt.filter (fun r => r.key != key) } : Chip).setBit (mntSts key) F.CME_STATUS_BUSY false).setFld
    (mntSts key) F.CME_STATUS_RESULT result).setBit (mntSts key) F.CME_STATUS_DONE true).raiseEvent (mntEvent key)

/-- Visit lines with the engine a run belongs to, and keep those that wait. -/
def Pkg.mntRun (p : Pkg) (r : MntRun) (ls : List Nat) : Pkg :=
  let a : Pkg × MntRun := if r.key < 16 then (let x := p.chip.cmeVisit r ls; ({ p with chip := x.1 }, x.2)) else p.mntVisit r ls
  a.1.onChip (fun c => { c with mnt := c.mnt.filter (fun x => x.key != r.key) ++ [a.2] })

/-- START (R160, R164): denied, ended at once for an empty range, or begun; the walk visits every line of the range, as both walks of R161 do. OP 0
names no operation. -/
def Pkg.mntStart (p : Pkg) (who : Who) (key : Nat) : Pkg :=
  let c := p.chip
  let op := c.fld (mntCtl key) F.CME_CTL_OP
  let lo := c.fld (mntBase key) F.CME_BASE_BASE
  let hi := c.fld (mntLimit key) F.CME_LIMIT_LIMIT
  let c1 := ((c.setFld (mntSts key) F.CME_STATUS_RESULT 0).setFld (mntSts key) F.CME_STATUS_WB_LINES 0).setFld
    (mntSts key) F.CME_STATUS_WORLD who.world
  if op = 0 then p
  else if op = 2 && !who.sealed then { p with chip := c1.mntEnd key 3 }
  else if hi < lo then { p with chip := c1.mntEnd key 4 }
  else
    let r : MntRun := { key := key, op := op, lnd := c.bit (.CME_CTL key) F.CME_CTL_LND
                        cores := if c.bit (.CME_CTL key) F.CME_CTL_L2 then c.fld (.CME_CTL key) F.CME_CTL_CORES else 0
                        world := who.world, label := if who.rid < 288 then (c.hart who.rid).label else 0, wait := [] }
    ({ p with chip := c1.setBit (mntSts key) F.CME_STATUS_BUSY true } : Pkg).mntRun r
      (if key < 16 then c.cmeLines r lo hi else c.mntLines (key - 16) lo hi)

/-- A write to CME_CTL or HALL_MNT_CTL (R160, R164). -/
def Pkg.mntCtlWrite (p : Pkg) (who : Who) (key : Nat) (v : Word) : Pkg :=
  let c := p.chip
  if !mntMay who then { p with chip := c.refuseWrite who (mntCtl key) }
  else
    let start := F.CME_CTL_START.get v == 1
    if start && c.bit (mntSts key) F.CME_STATUS_BUSY then
      { p with chip := c.setBit (mntSts key) F.CME_STATUS_START_REFUSED true }
    else
      let q : Pkg := { p with chip := c.storeFields (mntCtl key) v }
      if start then q.mntStart who key
      else if F.CME_CTL_ABORT.get v == 1 && c.bit (mntSts key) F.CME_STATUS_BUSY then q.onChip (fun c => c.mntEnd key 2)
      else q

/-- A write to another register of an engine (R160). -/
def Chip.mntRegWrite (c : Chip) (who : Who) (r : Reg) (v : Word) : Chip :=
  c.ifMay (mntMay who) who r (fun x => x.storeFields r v)

/-- The walk ends (R162, R164): the lines that waited take the operation; while one still waits, or the target of a pair has
not acknowledged a line of a synchronous region in the range (R401), the operation goes on. One of whose lines a home refused (R283) is
denied, not done, since R162 does not hold of that line (log entry 99, DEDUCED). -/
def Pkg.mntDone (p : Pkg) (key : Nat) : Pkg :=
  match p.chip.mnt.find? (fun r => r.key == key) with
  | none => p
  | some r =>
    let q := p.mntRun r r.wait
    if q.chip.mnt.any (fun x => x.key == key && !x.wait.isEmpty)
        || q.chip.syncWaits (q.chip.fld (mntBase key) F.CME_BASE_BASE) (q.chip.fld (mntLimit key) F.CME_LIMIT_LIMIT) then q
    else q.onChip (fun c => c.mntEnd key (if r.refused then 3 else 1))

/-- A value written to an engine's CTL register that starts operation op. -/
def startsOp (v : Word) (op : Nat) : Bool := F.CME_CTL_START.get v == 1 && F.CME_CTL_OP.get v == op

/-- The value that writes ABORT and leaves the other fields of an engine's CTL register as they are. -/
def Chip.abortValue (c : Chip) (key : Nat) : Word := F.CME_CTL_ABORT.put (c.reg (mntCtl key)) 1

def execCmeClean (who : Who) (d : Nat) (v : Word) (s : State) : Result :=
  need (d < 12 && startsOp v 1) (s.onPkg (fun p => p.mntCtlWrite who d v))
def execCmeInvalidate (who : Who) (d : Nat) (v : Word) (s : State) : Result :=
  need (d < 12 && startsOp v 2) (s.onPkg (fun p => p.mntCtlWrite who d v))
def execCmeCleanInvalidate (who : Who) (d : Nat) (v : Word) (s : State) : Result :=
  need (d < 12 && startsOp v 3) (s.onPkg (fun p => p.mntCtlWrite who d v))
def execCmeAbort (who : Who) (d : Nat) (s : State) : Result :=
  need (d < 12) (s.onPkg (fun p => p.mntCtlWrite who d (p.chip.abortValue d)))
def execCmeDone (d : Nat) (s : State) : Result := need (d < 12) (s.onPkg (fun p => p.mntDone d))
def execHallMntClean (who : Who) (n : Nat) (v : Word) (s : State) : Result :=
  need (n < 16 && startsOp v 1) (s.onPkg (fun p => p.mntCtlWrite who (16 + n) v))
def execHallMntInvalidate (who : Who) (n : Nat) (v : Word) (s : State) : Result :=
  need (n < 16 && startsOp v 2) (s.onPkg (fun p => p.mntCtlWrite who (16 + n) v))
def execHallMntCleanInvalidate (who : Who) (n : Nat) (v : Word) (s : State) : Result :=
  need (n < 16 && startsOp v 3) (s.onPkg (fun p => p.mntCtlWrite who (16 + n) v))
def execHallMntAbort (who : Who) (n : Nat) (s : State) : Result :=
  need (n < 16) (s.onPkg (fun p => p.mntCtlWrite who (16 + n) (p.chip.abortValue (16 + n))))
def execHallMntDone (n : Nat) (s : State) : Result := need (n < 16) (s.onPkg (fun p => p.mntDone (16 + n)))

-- disabling and re-enabling

/-- The control and status registers of a cache that can be disabled (R173). -/
def cacheCtl : CacheSel → Reg
  | .landing d => .LND_CTL d
  | .hall n => .HALL_CACHE_CTL n
def cacheSts : CacheSel → Reg
  | .landing d => .LND_STATUS d
  | .hall n => .HALL_CACHE_STATUS n

/-- The lines a cache holds. -/
def Chip.cacheLines (c : Chip) : CacheSel → List Nat
  | .landing d => (c.lnd.filter (fun e => e.1 % 12 == d && e.2.isSome)).map (fun e => e.1 / 12)
  | .hall n => (c.hc.filter (fun e => e.2.isSome && c.homeHall e.1 == n)).map (fun e => e.1)

/-- A landing copy may go (R170): no outstanding UPGRADE of the die rests on it alone (R183). -/
def Chip.lndMayDrop (c : Chip) (d line : Nat) : Bool := c.victimOk d line || !(c.holders d line).isEmpty

/-- A landing line leaves the array; the die's last copy of a line is given back to its home (R186). One on which an outstanding UPGRADE
rests leaves when the UPGRADE has its answer, before the command ends. -/
def Chip.lndDrop (c : Chip) (d line : Nat) : Chip :=
  if c.lndMayDrop d line then
    (c.setLnd d line none).cmeEvict { key := d, op := 2, lnd := true, cores := 0, world := 1, label := 0, wait := [] } line
  else c.onDie d (fun x => { x with lndLeft := addOnce line x.lndLeft })

/-- A line leaves the cache. -/
def Chip.cacheDrop (c : Chip) (s : CacheSel) (line : Nat) : Chip :=
  match s with
  | .landing d => c.lndDrop d line
  | .hall _ => c.setHc line none

/-- Every line of a cache is invalidated. -/
def Chip.cacheClear (c : Chip) (s : CacheSel) : Chip := (c.cacheLines s).foldl (fun x l => x.cacheDrop s l) c

/-- A hall cache that leaves MODE 0 first writes back every dirty line (R169). -/
def Pkg.cacheClean (p : Pkg) (s : CacheSel) : Pkg :=
  match s with
  | .landing _ => p
  | .hall n => (p.chip.cacheLines s).foldl (fun q l => q.hallLine n 1 l) p

/-- MODE and BUSY after a command. -/
def Chip.setMode (c : Chip) (s : CacheSel) (mode : Nat) (busy : Bool) : Chip :=
  (c.setFld (cacheSts s) F.LND_STATUS_MODE mode).setBit (cacheSts s) F.LND_STATUS_BUSY busy

/-- A cache is disabled (R168 to R170): a dark disable sets DARK_SEEN, and an array that is powered off loses what it
holds. -/
def Pkg.cacheDisable (p : Pkg) (s : CacheSel) (mode : Nat) : Pkg :=
  (p.cacheClean s).onChip (fun c =>
    let c1 := c.setMode s mode true
    let c2 := if mode = 1 then c1 else c1.setBit (cacheSts s) F.LND_STATUS_DARK_SEEN true
    if mode = 3 then
      match s with
      | .landing d => (c2.cacheLines s).foldl (fun x l =>
          if x.lndMayDrop d l then x.setLnd d l none else x.onDie d (fun y => { y with lndLeft := addOnce l y.lndLeft })) c2
      | .hall n => { c2 with hc := c2.hc.filter (fun e => c2.homeHall e.1 != n) }
    else c2)

/-- ENABLE_INVALIDATE (R170, R172). -/
def Chip.cacheEnable (c : Chip) (s : CacheSel) : Chip :=
  (((c.setMode s 0 true).cacheClear s).setBit (cacheSts s) F.LND_STATUS_DARK_SEEN false).setBit (cacheSts s) F.LND_STATUS_FORCED false

/-- A command of LND_CTL or HALL_CACHE_CTL (R170, R171): from W1 or Uzomuris, in the modes the table gives, and not while
another runs. -/
def Pkg.cacheCmd (p : Pkg) (who : Who) (s : CacheSel) (cmd : Nat) : Pkg :=
  let c := p.chip
  let mode := c.fld (cacheSts s) F.LND_STATUS_MODE
  let ok := match cmd with
    | 1 => mode == 0
    | 2 => mode ≤ 1
    | 3 => mode ≤ 2
    | 4 => 1 ≤ mode
    | 5 => mode == 1 && !c.bit (cacheSts s) F.LND_STATUS_DARK_SEEN
    | _ => mode == 2
  if !who.sealed then { p with chip := c.refuseWrite who (cacheCtl s) }
  else if cmd = 0 ∨ 7 ≤ cmd then p
  else if c.bit (cacheSts s) F.LND_STATUS_BUSY || !ok then { p with chip := c.setBit (cacheSts s) F.LND_STATUS_REFUSED true }
  else
    match cmd with
    | 1 | 2 | 3 => p.cacheDisable s cmd
    | 4 => p.onChip (fun c => c.cacheEnable s)
    | 5 => p.onChip (fun c => c.setMode s 0 false)
    | _ => p.onChip (fun c => ((c.setMode s 0 false).setBit (cacheSts s) F.LND_STATUS_FORCED true).report
        (match s with | .landing d => unitDie d | .hall n => unitHall n) 13 who.rid who.world 1 0
        (cacheCtl s).addr)

/-- A cache the package has. -/
def cacheOk : CacheSel → Bool
  | .landing d => d < 12
  | .hall n => n < 16

def execDisableTracking (who : Who) (c : CacheSel) (s : State) : Result := need (cacheOk c) (s.onPkg (fun p => p.cacheCmd who c 1))
def execDisableDark (who : Who) (c : CacheSel) (s : State) : Result := need (cacheOk c) (s.onPkg (fun p => p.cacheCmd who c 2))
def execDisableOff (who : Who) (c : CacheSel) (s : State) : Result := need (cacheOk c) (s.onPkg (fun p => p.cacheCmd who c 3))
def execEnableInvalidate (who : Who) (c : CacheSel) (s : State) : Result := need (cacheOk c) (s.onPkg (fun p => p.cacheCmd who c 4))
def execEnableKeep (who : Who) (c : CacheSel) (s : State) : Result := need (cacheOk c) (s.onPkg (fun p => p.cacheCmd who c 5))
def execForceKeep (who : Who) (c : CacheSel) (s : State) : Result := need (cacheOk c) (s.onPkg (fun p => p.cacheCmd who c 6))

/-- The landing lines that a command has still to drop leave where they may. -/
def Chip.dropLeft (c : Chip) (d : Nat) : Chip :=
  (c.die d).lndLeft.foldl (fun x l =>
    let y := x.onDie d (fun z => { z with lndLeft := z.lndLeft.filter (· != l) })
    if (x.lndAt d l).isNone then y
    else if !x.lndMayDrop d l then x
    else if y.lndMode d = 3 then y.setLnd d l none
    else y.lndDrop d l) c

/-- The command that took time has completed (R169, R170), once no line is left that it has to drop. -/
def Chip.cacheCmdEnd (c : Chip) (s : CacheSel) : Chip :=
  match s with
  | .landing d =>
    let x := c.dropLeft d
    if (x.die d).lndLeft.isEmpty then x.setBit (cacheSts s) F.LND_STATUS_BUSY false else x
  | .hall _ => c.setBit (cacheSts s) F.LND_STATUS_BUSY false

/-- CACHE_CMD_DONE (R169, R170). -/
def execCacheCmdDone (c : CacheSel) (s : State) : Result := need (cacheOk c) (s.onChip (fun x => x.cacheCmdEnd c))

end Sys2Proof.Machine
end

