-- ==== Sys2Proof/Machine/Worlds.lean ====
section
/-! DEFINITION. Worlds and ownership: the WLD commit (R279), the operations on the page ownership table (R287 to R289),
consent and who may power a unit down (R295, R296, R298), and the debug unlock (R301). -/

namespace Sys2Proof.Machine

-- memory written by the world controller

/-- The bytes of a line that lie in the n bytes from address a. -/
def rangeMask (a n line : Nat) : Word :=
  (List.range 64).foldl (fun m k => if a ≤ line * 64 + k ∧ line * 64 + k < a + n then m ||| (1#64 <<< k) else m) 0

/-- The requester ID and the label of the writes through SCRUB_INST (R258, R279): the instance's own. -/
def Chip.scrubRid (c : Chip) : Nat := 0x3000 + c.fld .WLD_CTL F.WLD_CTL_SCRUB_INST
def Chip.scrubLabel (c : Chip) : Nat :=
  let i := c.fld .WLD_CTL F.WLD_CTL_SCRUB_INST
  c.fld (.SE_INST_SHARE (i / 512) (i % 512)) F.SE_INST_SHARE_LABEL

/-- The writes through SCRUB_INST have tokens (R264). -/
def Chip.scrubGo (c : Chip) : Bool := c.ioMayGo c.scrubRid c.scrubLabel

/-- A write of the world controller through SCRUB_INST, which no ownership check meets (R284): every copy leaves, memory takes the bytes, and
its tokens are taken (R264). A part of a line is merged with what a tread reads (R251). -/
def Pkg.wldWrite (p : Pkg) (line : Nat) (v : Line) (mask : Word) : Pkg :=
  let rid := p.chip.scrubRid
  let label := p.chip.scrubLabel
  let cls := p.chip.classOf rid label
  let full := mask == BitVec.allOnes 64
  let q := p.onChip (fun c => c.chargeIo rid label)
  let old := if full then (q, 0, false)
    else q.coherentFetch line cls { kind := .WR_PART, line := line, rid := rid, world := 2, label := label, acc := 1 }
  (old.1.onChip (fun c => (c.purgeLine line).countBytes (c.homeHall line) cls)).homeWrite line (if full then v else Line.merge old.2.1 v mask)
    old.2.2 cls

/-- Write zeros to n bytes from address a. -/
def Pkg.wldZero (p : Pkg) (a n : Nat) : Pkg :=
  if n = 0 then p else (linesOf a n).foldl (fun q l => q.wldWrite l 0 (rangeMask a n l)) p

/-- Every hall's ownership cache drops a line of entries (R288). -/
def Chip.owncDrop (c : Chip) (entryLine : Nat) : Chip := { c with ownc := c.ownc.filter (fun e => e.1 / 16 != entryLine) }

/-- The entry of a page is written, and the ownership caches drop the old one (R288 step 2). -/
def Pkg.potWrite (p : Pkg) (pg e : Nat) : Pkg :=
  match p.chip.potAddr pg with
  | none => p
  | some a =>
    (p.wldWrite (a / 64) (Line.patch 0 (a % 64) 2 e) (rangeMask a 2 (a / 64))).onChip (fun c =>
      c.owncDrop (a / 64))

-- the WLD commit

/-- A segment is in use; its first and last page, and the page of its table. -/
def Chip.segValid (c : Chip) (s : Nat) : Bool := c.bit (.WLD_POT_TABLE s) F.WLD_POT_TABLE_VALID
def Chip.segFirst (c : Chip) (s : Nat) : Nat := c.fld (.WLD_POT_FIRST s) F.WLD_POT_SEG_VALUE
def Chip.segLast (c : Chip) (s : Nat) : Nat := c.fld (.WLD_POT_LAST s) F.WLD_POT_SEG_VALUE
def Chip.segTable (c : Chip) (s : Nat) : Nat := c.fld (.WLD_POT_TABLE s) F.WLD_POT_TABLE_VALUE

/-- The bytes of a segment's table. -/
def Chip.segBytes (c : Chip) (s : Nat) : Nat := 2 * (c.segLast s + 1 - c.segFirst s)

/-- The commit is refused (R279). -/
def Chip.wldCommitBad (c : Chip) : Bool :=
  let used := (List.range 4).filter c.segValid
  let inst := c.fld .WLD_CTL F.WLD_CTL_SCRUB_INST
  !c.segValid 0 || c.segFirst 0 != 0 || c.segLast 0 + 1 != c.dramTop / 4096
    || used.any (fun s => used.any (fun t => s < t && c.segFirst s ≤ c.segLast t && c.segFirst t ≤ c.segLast s))
    || used.any (fun s => c.segLast s < c.segFirst s)
    || used.any (fun s => c.dramTop < c.segTable s * 4096 + c.segBytes s)
    || c.fld (.SE_INST_CFG (inst / 512) (inst % 512)) F.SE_INST_CFG_TYPE != 1
    || c.fld (.WLD_INST_OWN inst) F.WLD_OWN_OWNER != 1
    || c.bit .WLD_CTL F.WLD_CTL_FORMAT_BUSY || c.wldCommitted

/-- The commit (R279): refused with COMMIT_ERR, or the fields lock and the format begins. -/
def Chip.wldCommit (c : Chip) : Chip :=
  if c.wldCommitBad then c.setBit .WLD_CTL F.WLD_CTL_COMMIT_ERR true else c.setBit .WLD_CTL F.WLD_CTL_FORMAT_BUSY true

/-- A write to WLD_CTL: COMMIT is accepted from W1 and Uzomuris. -/
def Chip.wldCtlWrite (c : Chip) (who : Who) (v : Word) : Chip :=
  if F.WLD_CTL_COMMIT.get v = 1 then c.ifMay who.sealed who .WLD_CTL (fun x => (x.storeFields .WLD_CTL v).wldCommit)
  else c.storeFields .WLD_CTL v

def execWldCommit (who : Who) (s : State) : Result :=
  s.onChip (fun c => c.wldCtlWrite who (F.WLD_CTL_COMMIT.put (c.reg .WLD_CTL &&& ~~~F.WLD_CTL_COMMIT_ERR.mask) 1))

/-- The table of a segment is written (R279): 0x0000 for every page. -/
def Pkg.formatSegment (p : Pkg) (s : Nat) : Pkg :=
  if p.chip.segValid s then p.wldZero (p.chip.segTable s * 4096) (p.chip.segBytes s) else p

-- operations on the page ownership table

/-- The lines of a page. -/
def pageLines (pg : Nat) : List Nat := (List.range 64).map (· + pg * 64)

/-- The pages of an operation. -/
def PotOp.pages (o : PotOp) : List Nat := (List.range o.count).map (· + o.page)

/-- A hall is powered down or being powered down (R297). -/
def Chip.hallDown (c : Chip) (n : Nat) : Bool := c.down.contains (3, n) || c.pwrReq == some (3, n)

/-- A page has lines homed in a hall that is down (R289). -/
def Chip.pageDown (c : Chip) (pg : Nat) : Bool := (pageLines pg).any (fun l => c.hallDown (c.homeHall l))

/-- An entry is in a state from which the operation may start (R287). -/
def potFrom (op e : Nat) : Bool :=
  potOwner e != 2 &&
    (match op with
      | 1 => potState e == 1 || potState e == 2
      | 2 => potState e == 0 || potState e == 3
      | 3 | 4 => potState e == 3 && potScrubbed e
      | 5 => potState e == 0 && potScrubbed e
      | 6 => potState e == 1
      | _ => potState e == 2)

/-- The entry an operation leaves (R287). -/
def potAfter (op dst e : Nat) : Nat :=
  match op with
  | 1 => potEntry (potOwner e) 3 false
  | 2 => potEntry (potOwner e) (potState e) true
  | 3 | 5 => potEntry dst 1 false
  | 4 => potEntry 0 0 true
  | 6 => potEntry (potOwner e) 2 (potScrubbed e)
  | _ => potEntry (potOwner e) 1 (potScrubbed e)

/-- The RESULT with which a page fails the check of an operation, 0 when it passes (R288, R289). -/
def Pkg.potFail (p : Pkg) (op pg : Nat) : Nat :=
  if (p.chip.potSegment pg).isNone then 3
  else match p.potEntryOf pg with
    | none => 2
    | some e => if potFrom op e then 0 else 2

/-- WLD_PAGES_w counts a page in state 1 or 2 (R290): one page more or one less in its half. -/
def Chip.countPage (c : Chip) (w pg : Nat) (more : Bool) : Chip :=
  let f := if c.domains ∧ 8 ≤ c.homeHall (pg * 64) then F.WLD_PAGES_SOUTH else F.WLD_PAGES_NORTH
  c.setFld (.WLD_PAGES w) f (if more then c.fld (.WLD_PAGES w) f + 1 else c.fld (.WLD_PAGES w) f - 1)

/-- WLD_PAGES before and after an entry changes. -/
def Chip.recountPage (c : Chip) (pg e e' : Nat) : Chip :=
  let counted := fun (x : Nat) => potState x == 1 || potState x == 2
  let c1 := if counted e then c.countPage (potOwner e) pg false else c
  if counted e' then c1.countPage (potOwner e') pg true else c1

-- the format

/-- The entries of the pages that hold the table of a segment become 0x0012, owned by W2 (R279), and WLD_PAGES counts them. -/
def Pkg.formatOwn (p : Pkg) (s : Nat) : Pkg :=
  if p.chip.segValid s then
    ((List.range ((p.chip.segBytes s + 4095) / 4096)).map (· + p.chip.segTable s)).foldl (fun q pg =>
      (q.potWrite pg 0x12).onChip (fun c => c.recountPage pg ((q.potEntryOf pg).getD 0) 0x12)) p
  else p

/-- The format of the tables ends (R279): every entry has been written, as its writes have tokens (R264), and ownership checks are in
force. -/
def Pkg.formatDone (p : Pkg) : Pkg :=
  if !p.chip.scrubGo then p.onChip (fun c => c.noteShort c.scrubRid c.scrubLabel)
  else if p.chip.bit .WLD_CTL F.WLD_CTL_FORMAT_BUSY then
    (forUpTo 4 (fun s q => q.formatOwn s) (forUpTo 4 (fun s q => q.formatSegment s) p)).onChip (fun c =>
      ((({ c with ownc := [] } : Chip).setBit .WLD_CTL F.WLD_CTL_FORMAT_BUSY false).setBit .WLD_CTL F.WLD_CTL_COMMITTED true).newDigest)
  else p

def execWldFormatDone (s : State) : Result := s.onPkg Pkg.formatDone

-- the steps of an operation

/-- The entry of a page takes the state an operation leaves (R288 step 2). -/
def Pkg.potStep2 (p : Pkg) (o : PotOp) (pg : Nat) : Pkg :=
  match p.potEntryOf pg with
  | none => p
  | some e =>
    let e' := potAfter o.op o.dst e
    (p.potWrite pg e').onChip (fun c => c.recountPage pg e e')

/-- Every end of an operation: BUSY clears, RESULT and DONE are set (R288 step 5). -/
def Chip.potEnd (c : Chip) (result : Nat) : Chip :=
  ((({ c with pot := none } : Chip).setBit .WLD_POT_STATUS F.WLD_POT_STATUS_BUSY false).setFld .WLD_POT_STATUS
    F.WLD_POT_STATUS_RESULT result).setBit .WLD_POT_STATUS F.WLD_POT_STATUS_DONE true

/-- An operation waits for a power request (R297) and, since it writes memory, for the end of the safe state (R339) and for tokens
(R264). -/
def Chip.potHeld (c : Chip) : Bool := c.bit .WLD_PWR_STATUS F.WLD_PWR_STATUS_BUSY || c.safe || !c.scrubGo

/-- Steps 1 and 2 of R288: every page is checked, then every entry is written. An operation on lines of a hall that is powered down or being
powered down is refused at once (R289). -/
def Pkg.potBegin (p : Pkg) (o : PotOp) : Pkg :=
  if o.pages.any p.chip.pageDown then p.onChip (fun c => c.potEnd 4)
  else if p.chip.potHeld then p.onChip (fun c => { c.noteShort c.scrubRid c.scrubLabel with pot := some o })
  else match o.pages.find? (fun pg => p.potFail o.op pg != 0) with
    | some pg => p.onChip (fun c => (c.setFld .WLD_POT_STATUS F.WLD_POT_STATUS_FAIL_PAGE pg).potEnd (p.potFail o.op pg))
    | none => (o.pages.foldl (fun q pg => q.potStep2 o pg) p).onChip (fun c => { c with pot := some { o with started := true } })

/-- The cache action of an operation on one line (R287). -/
def Pkg.potCache (p : Pkg) (op line : Nat) : Pkg :=
  match op with
  | 1 => p.onChip (fun c => (c.purgeLine line).setHc line none)
  | 2 => p.wldWrite line 0 (BitVec.allOnes 64)
  | 7 =>
    let q := match p.chip.dirtyCopy line with
      | some x => p.homeWrite line x.1 x.2 15
      | none => p
    (q.onChip (fun c => c.purgeLine line)).hcEvict line 15
  | _ => p

/-- A write to WLD_POT_OP (R287, R289): from W1 and Uzomuris; refused while an operation runs, before the commit, and for
TO 2. -/
def Pkg.potOpWrite (p : Pkg) (who : Who) (v : Word) : Pkg :=
  let c := p.chip
  let op := F.WLD_POT_OP_OP.get v
  if !who.sealed then { p with chip := c.refuseWrite who .WLD_POT_OP }
  else if op ≠ 0 ∧ c.bit .WLD_POT_STATUS F.WLD_POT_STATUS_BUSY then
    { p with chip := c.setFld .WLD_POT_STATUS F.WLD_POT_STATUS_RESULT 5 }
  else
    let c1 := c.storeFields .WLD_POT_OP v
    if op = 0 then { p with chip := c1 }
    else
      let o : PotOp := { op := op, page := c.fld .WLD_POT_OP_PAGE F.WLD_POT_OP_PAGE_PAGE
                         count := F.WLD_POT_OP_COUNT_M1.get v + 1, dst := F.WLD_POT_OP_TO.get v, started := false }
      if !c.wldCommitted then { p with chip := c1.potEnd 7 }
      else if (op = 3 ∨ op = 5) ∧ o.dst = 2 then { p with chip := c1.potEnd 6 }
      else
        let c2 := (c1.setBit .WLD_POT_STATUS F.WLD_POT_STATUS_BUSY true).setFld .WLD_POT_STATUS F.WLD_POT_STATUS_RESULT 0
        ({ p with chip := c2 } : Pkg).potBegin o

/-- Steps 3 to 5 of R288: once every request admitted under an old entry has completed, the cache action runs and the
operation ends. -/
def Pkg.potDone (p : Pkg) : Pkg :=
  match p.chip.pot with
  | none => p
  | some o =>
    if !o.started then p.potBegin o
    else if o.op = 2 ∧ !p.chip.scrubGo then p.onChip (fun c => c.noteShort c.scrubRid c.scrubLabel)
    else if o.pages.all (fun pg => (pageLines pg).all p.chip.lineIdle) && !(p.chip.safe && o.op == 2) then
      (o.pages.foldl (fun q pg => (pageLines pg).foldl (fun r l => r.potCache o.op l) q) p).onChip (fun c => c.potEnd 1)
    else p

/-- A value written to WLD_POT_OP that names operation op. -/
def potOpIs (v : Word) (op : Nat) : Bool := F.WLD_POT_OP_OP.get v == op

def execTransit (who : Who) (v : Word) (s : State) : Result := need (potOpIs v 1) (s.onPkg (fun p => p.potOpWrite who v))
def execScrub (who : Who) (v : Word) (s : State) : Result := need (potOpIs v 2) (s.onPkg (fun p => p.potOpWrite who v))
def execTransfer (who : Who) (v : Word) (s : State) : Result := need (potOpIs v 3) (s.onPkg (fun p => p.potOpWrite who v))
def execUnassign (who : Who) (v : Word) (s : State) : Result := need (potOpIs v 4) (s.onPkg (fun p => p.potOpWrite who v))
def execAssign (who : Who) (v : Word) (s : State) : Result := need (potOpIs v 5) (s.onPkg (fun p => p.potOpWrite who v))
def execShare (who : Who) (v : Word) (s : State) : Result := need (potOpIs v 6) (s.onPkg (fun p => p.potOpWrite who v))
def execUnshare (who : Who) (v : Word) (s : State) : Result := need (potOpIs v 7) (s.onPkg (fun p => p.potOpWrite who v))
def execPotOpDone (s : State) : Result := s.onPkg Pkg.potDone

/-- A page written to WLD_POT_QUERY is looked up in memory. -/
def Pkg.potQuery (p : Pkg) (who : Who) (v : Word) : Pkg :=
  p.onChip (fun c => c.ifMay who.sealed who .WLD_POT_QUERY (fun x =>
    let pg := F.WLD_POT_QUERY_PAGE.get v
    let e := p.potEntryOf pg
    (((x.storeFields .WLD_POT_QUERY v).setFld .WLD_POT_QUERY F.WLD_POT_QUERY_ENTRY (e.getD 0)).setBit .WLD_POT_QUERY
      F.WLD_POT_QUERY_COVERED (x.potSegment pg).isSome).setBit .WLD_POT_QUERY F.WLD_POT_QUERY_UNREADABLE e.isNone))

def execPotQuery (who : Who) (v : Word) (s : State) : Result := s.onPkg (fun p => p.potQuery who v)

-- consent and power

/-- WLD_CONSENT_w accepts writes from world w and from Uzomuris (R298). -/
def Chip.consentWrite (c : Chip) (who : Who) (w : Nat) (v : Word) : Chip :=
  c.ifMay (who.world == w || who.uz) who (.WLD_CONSENT w) (fun x => x.storeFields (.WLD_CONSENT w) v)

/-- A world ID. -/
def worldOk (w : Nat) : Bool := w < 16

def execConsentWrite (who : Who) (w : Nat) (v : Word) (s : State) : Result :=
  need (worldOk w) (s.onChip (fun c => c.consentWrite who w v))

/-- The owner in an ownership entry that is not RELEASED. -/
def Chip.liveOwner (c : Chip) (r : Reg) : Option Nat :=
  if c.fld r F.WLD_OWN_STATE = 2 then none else some (c.fld r F.WLD_OWN_OWNER)

/-- The ownership entries of a station's functions, and of a cluster's instances and mailboxes (R290). -/
def stationBlocks (n : Nat) : List Reg := (List.range 256).map (fun f => Reg.WLD_FN_OWN (256 * n + f))
def clusterBlocks (i : Nat) : List Reg :=
  (List.range 512).map (fun k => Reg.WLD_INST_OWN (512 * i + k)) ++ (List.range 32).map (fun k => Reg.WLD_MBX_OWN (32 * i + k))

/-- The worlds with pages in a hall's half (R296). -/
def Chip.hallStake (c : Chip) (n w : Nat) : Bool :=
  if !c.domains ∨ n < 8 then c.fld (.WLD_PAGES w) F.WLD_PAGES_NORTH != 0 else c.fld (.WLD_PAGES w) F.WLD_PAGES_SOUTH != 0

/-- The worlds whose ownership (R295) or consent (R296) a request to power a unit down lacks, by kind: 1 station,
2 cluster, 3 hall. -/
def Chip.powerMissing (c : Chip) (who : Who) (kind index : Nat) : List Nat :=
  let owners := fun (l : List Reg) (w : Nat) => l.any (fun r => c.liveOwner r == some w)
  match kind with
  | 1 =>
    if who.world = 2 ∨ who.uz then []
    else (List.range 16).filter (fun w => w != who.world && owners (stationBlocks index) w)
  | 2 => (List.range 16).filter (fun w => w != who.world && w != 2 && owners (clusterBlocks index) w
      && !bitAt (c.fld (.WLD_CONSENT w) F.WLD_CONSENT_CLUSTERS) index)
  | _ => (List.range 16).filter (fun w => w != who.world && w != 2 && c.hallStake index w
      && !bitAt (c.fld (.WLD_CONSENT w) F.WLD_CONSENT_HALLS) index)

/-- A hall homes a line of a POT table (R296): every hall of a domain homes lines of each page, so the first and the last
page of a table decide. -/
def Chip.hallHasPot (c : Chip) (n : Nat) : Bool :=
  (List.range 4).any (fun s => c.segValid s &&
    (let a := c.segTable s * 4096
     let k := c.segBytes s
     (linesOf a (min k 4096) ++ linesOf (a + k - min k 4096) (min k 4096)).any (fun l => c.homeHall l == n)))

/-- A hall that R218 refuses to fence: its directory holds an entry, or its cache a dirty line. -/
def Chip.hallInUse (c : Chip) (n : Nat) : Bool :=
  c.dir.any (fun e => e.2.state != 0 && c.homeHall e.1 == n)
    || c.hc.any (fun e => (match e.2 with | some x => x.dirty | none => false) && c.homeHall e.1 == n)

-- debug unlock

/-- A record of a grant or of its end (R301). -/
def Chip.grantRecord (c : Chip) : Chip :=
  c.lifeWrite 0x50 (toBytes 2 (c.fld .WLD_DBG_GRANT F.WLD_DBG_GRANT_GRANT_INV)
    ++ toBytes 2 (c.fld .WLD_DBG_GRANT F.WLD_DBG_GRANT_GRANT_NINV)
    ++ toBytes 4 ((c.uz.grantEnd.getD c.uz.grantStart - c.uz.grantStart) / 10 ^ 9) ++ toBytes 8 c.uz.grantStart
    ++ toBytes 8 (c.uz.grantEnd.getD 0))

/-- Every grant ends (R301). -/
def Chip.endGrant (c : Chip) : Chip :=
  if c.uz.grantEnd.isNone then c
  else
    let c1 := c.grantRecord
    ({ c1 with uz := { c1.uz with grantEnd := none } } : Chip).setReg .WLD_DBG_GRANT 0

/-- REVOKE, from W1 or Uzomuris (R301). -/
def Chip.dbgGrantWrite (c : Chip) (who : Who) (v : Word) : Chip :=
  if F.WLD_DBG_GRANT_REVOKE.get v = 1 then c.ifMay who.sealed who .WLD_DBG_GRANT Chip.endGrant else c

def execRevoke (who : Who) (s : State) : Result := s.onChip (fun c => c.dbgGrantWrite who (F.WLD_DBG_GRANT_REVOKE.put 0 1))

/-- The fields of an unlock token are as R301 lays them out: version, zeros, the package's serial, the nonce issued last,
a duration in range. -/
def Chip.tokenFormOk (c : Chip) (t : List Byte) : Bool :=
  t.length == 160 && sliceNum t 0 1 == 1 && sliceNum t 1 7 == 0 && sliceNum t 8 8 == Config.pkgSerial % 2 ^ 64
    && c.uz.nonce == some ((t.drop 16).take 32) && 1 ≤ sliceNum t 52 4 && sliceNum t 52 4 ≤ 86400
    && sliceNum t 56 8 == 0

/-- Uzomuris verifies an unlock token (R301, R425): one it refuses raises fault 55; the nonce is used once. A grant that runs ends, with its
record, as the new one begins. -/
def Chip.unlock (c : Chip) (t : List Byte) : Chip :=
  if !c.tokenFormOk t then c.report unitUz 55 0x5000 1 15
  else
    let c0 := if Config.tokenSigned t then c.endGrant else c
    let c1 : Chip := { c0 with uz := { c0.uz with nonce := none } }
    if Config.tokenSigned t then
      ((({ c1 with uz := { c1.uz with grantStart := c1.now, grantEnd := some (c1.now + sliceNum t 52 4 * 10 ^ 9) } } :
        Chip).setFld .WLD_DBG_GRANT F.WLD_DBG_GRANT_GRANT_INV (sliceNum t 48 2)).setFld .WLD_DBG_GRANT
          F.WLD_DBG_GRANT_GRANT_NINV (sliceNum t 50 2)).grantRecord
    else c1.report unitUz 55 0x5000 1 15

def execUnlockToken (token : List Byte) (s : State) : Result := s.onChip (fun c => c.unlock token)

/-- The duration of a grant has passed in package time (R301). -/
def execDebugGrantExpiry (s : State) : Result :=
  s.onChip (fun c => match c.uz.grantEnd with
    | some t => if t ≤ c.now then c.endGrant else c
    | none => c)

end Sys2Proof.Machine
end

