-- ==== Sys2Proof/Machine/Gallery.lean ====
section
/-! DEFINITION. The gallery mesh: routing, buffers, credits and arbitration (R201 to R211), fences and reconfiguration
(R215 to R221), unit errors (R206) and the probes (R222 to R224). -/

namespace Sys2Proof.Machine

-- attachments

def Chip.setPortState (c : Chip) (r port st : Nat) : Chip := c.setFld (.GAL_FENCE_STATUS r) (portStateField port) st

/-- The domain behind an attachment issues new requests: its port is open (R215). -/
def Chip.domainOpen (c : Chip) (a : Attach) : Bool :=
  match portOf a with
  | some p => c.portState p.1 p.2 == 0
  | none => false

-- packets

/-- Planes: 0 request, 1 data, 2 coherence (R204). -/
def cmdPlane (cmd : Nat) : Nat := cmd / 64

/-- The buffer of a VC at a router's input, in units (R208). -/
def bufCap (plane : Nat) : Nat := if plane = 2 then 2 else 4

/-- The VCs of a plane. -/
def vcCount (plane : Nat) : Nat := if plane = 2 then 3 else 4

/-- The packets in a buffer, and the units of it that its sender counts as in use (R209). -/
def Chip.bufAt (c : Chip) (k : Nat) : List Packet := sget [] k c.gal.buf
def Chip.usedAt (c : Chip) (k : Nat) : Nat := sget 0 k c.gal.used

/-- A packet enters a buffer. -/
def Chip.pushBuf (c : Chip) (k : Nat) (p : Packet) : Chip :=
  { c with gal := { c.gal with buf := sset [] k (c.bufAt k ++ [p]) c.gal.buf
                               used := sset 0 k (c.usedAt k + p.units) c.gal.used } }

/-- The packet at the front of a buffer leaves it. -/
def Chip.popBuf (c : Chip) (k : Nat) : Chip := { c with gal := { c.gal with buf := sset [] k (c.bufAt k).tail c.gal.buf } }

/-- A buffer has room for a whole packet (R209). -/
def Chip.hasRoom (c : Chip) (k plane units : Nat) : Bool := c.usedAt k + units ≤ bufCap plane

/-- The output a packet leaves a router by: along the row, then along the column, then through DEST_PORT (R207, R221). -/
def Chip.outPort (c : Chip) (r : Nat) (p : Packet) : Nat :=
  let x := c.fld (.GAL_ID r) F.GAL_ID_X
  let y := c.fld (.GAL_ID r) F.GAL_ID_Y
  if x < p.destR % 8 then 0
  else if p.destR % 8 < x then 1
  else if y < p.destR / 8 then 2
  else if p.destR / 8 < y then 3
  else 4 + p.destPort

/-- The neighbour a mesh port connects to, and its input port (R201). -/
def neighbour (r out : Nat) : Option (Nat × Nat) :=
  match out with
  | 0 => if r % 8 < 7 then some (r + 1, 1) else none
  | 1 => if 0 < r % 8 then some (r - 1, 0) else none
  | 2 => if r / 8 < 5 then some (r + 8, 3) else none
  | 3 => if 0 < r / 8 then some (r - 8, 2) else none
  | _ => none

/-- The front packet of a buffer can leave by an output: to a neighbour with room; to a station, whose bridge always takes an answer (R209)
and a request when it has room for all its units beside the requests it holds (R214); or to another attachment, which accepts it. -/
def Chip.canLeave (c : Chip) (r out plane vc : Nat) (p : Packet) : Bool :=
  match neighbour r out with
  | some n => c.hasRoom (bufKey n.1 n.2 plane vc) plane p.units
  | none => 4 ≤ out && (!isBridge r (out - 4) || alwaysTaken plane vc
      || unitsOf ((c.delivered r (out - 4)).filter (fun q => !alwaysTaken (cmdPlane q.cmd) q.vc)) + p.units ≤ bridgeCap)

/-- The inputs whose front packet is ready to leave by an output on a VC. -/
def Chip.readyInputs (c : Chip) (r out plane vc : Nat) : List Nat :=
  (List.range 7).filter (fun i =>
    match (c.bufAt (bufKey r i plane vc)).head? with
    | some p => c.outPort r p == out && c.canLeave r out plane vc p
    | none => false)

/-- The VC that wins an output (R210): one passed over sixteen times, else the highest-numbered with a packet and a
credit. Of several passed over so often the highest-numbered wins (log entry 86, DESIGN CHOICE: the manual does not say which). -/
def Chip.winningVc (c : Chip) (r out plane : Nat) : Option Nat :=
  let ready := (List.range (vcCount plane)).reverse.filter (fun v => !(c.readyInputs r out plane v).isEmpty)
  match ready.find? (fun v => 16 ≤ sget 0 (bufKey r out plane v) c.gal.passed) with
  | some v => some v
  | none => ready.head?

/-- The input that wins on a VC: round robin after the one served last (R210). -/
def Chip.winningInput (c : Chip) (r out plane vc : Nat) : Option Nat :=
  let last := sget 0 (bufKey r out plane vc) c.gal.lastIn
  let ready := c.readyInputs r out plane vc
  ((List.range 7).map (fun i => (last + 1 + i) % 7)).find? (fun i => ready.contains i)

/-- The output has served an input on a VC: the other VCs with a packet ready were passed over once more. -/
def Chip.served (c : Chip) (r out plane vc port : Nat) : Chip :=
  let c1 := (List.range (vcCount plane)).foldl (fun (x : Chip) v =>
    let k := bufKey r out plane v
    if v = vc then { x with gal := { x.gal with passed := sset 0 k 0 x.gal.passed } }
    else if (c.readyInputs r out plane v).isEmpty then x
    else { x with gal := { x.gal with passed := sset 0 k (sget 0 k x.gal.passed + 1) x.gal.passed } }) c
  { c1 with gal := { c1.gal with lastIn := sset 0 (bufKey r out plane vc) port c1.gal.lastIn } }

-- probes

/-- The probe of a router selects a packet that enters at an input port (R222); FENCE_MARK and TRACE_REC are never seen. -/
def Chip.probeMatch (c : Chip) (r port : Nat) (p : Packet) : Bool :=
  let g := fun (f : Field) => c.fld (.GAL_PRB_FILTER r) f
  let m := p.msg
  let inMask := c.fld (.GAL_PRB_CTL r) F.GAL_PRB_CTL_IN_MASK
  c.bit (.GAL_PRB_CTL r) F.GAL_PRB_CTL_EN && p.cmd % 64 != 63 && p.cmd != 0x48 && (inMask == 0 || bitAt inMask port)
    && (g F.GAL_PRB_FILTER_PLANES == 0 || bitAt (g F.GAL_PRB_FILTER_PLANES) (cmdPlane p.cmd))
    && (g F.GAL_PRB_FILTER_CMD_EN == 0 || p.cmd == g F.GAL_PRB_FILTER_CMD_VAL)
    && (g F.GAL_PRB_FILTER_WORLD_EN == 0 || m.world == g F.GAL_PRB_FILTER_WORLD_VAL)
    && ((m.label ^^^ g F.GAL_PRB_FILTER_LABEL_VAL) &&& g F.GAL_PRB_FILTER_LABEL_MASK) == 0
    && ((m.rid ^^^ c.fld (.GAL_PRB_REQ r) F.GAL_PRB_REQ_REQ_VAL) &&& c.fld (.GAL_PRB_REQ r) F.GAL_PRB_REQ_REQ_MASK) == 0
    && (g F.GAL_PRB_FILTER_ADDR_EN == 0 || (c.fld (.GAL_PRB_ADDR_LO r) F.GAL_PRB_LINE ≤ m.line
      && m.line ≤ c.fld (.GAL_PRB_ADDR_HI r) F.GAL_PRB_LINE))

/-- The record of a traced packet (R224). -/
def traceRecord (now port vc : Nat) (p : Packet) : BitVec 256 :=
  let m := p.msg
  BitVec.ofNat 256 (now % 2 ^ 64 + m.line % 2 ^ 46 * 2 ^ 64 + m.sub % 64 * 2 ^ 110 + p.cmd * 2 ^ 116
    + cmdPlane p.cmd * 2 ^ 124 + port * 2 ^ 126 + vc * 2 ^ 129 + m.rid % 65536 * 2 ^ 132 + m.world % 16 * 2 ^ 148
    + m.label % 64 * 2 ^ 152 + m.acc % 16 * 2 ^ 158 + m.tag % 1024 * 2 ^ 162 + p.srcR * 2 ^ 172 + p.destR * 2 ^ 178
    + flag m.poison * 2 ^ 184)

/-- Add to a count of a probe, which wraps. -/
def Chip.probeAdd (c : Chip) (r i n : Nat) : Chip :=
  c.setFld (.GAL_PRB_CNT r i) F.GAL_PRB_CNT_COUNT (c.fld (.GAL_PRB_CNT r i) F.GAL_PRB_CNT_COUNT + n)

/-- A probe counts a matching packet if its world lets it, and traces it if the trace buffer's world may see it (R223,
R224): a record that finds the buffer of 16 full is dropped. -/
def Chip.probe (c : Chip) (r port vc : Nat) (p : Packet) : Chip :=
  if !c.probeMatch r port p || !c.ninvEff p.msg.world then c
  else
    let c1 := (c.probeAdd r 0 1).probeAdd r 1 p.units
    let tw := c.fld (.GAL_PRB_CTL r) F.GAL_PRB_CTL_TRACE_WORLD
    if c.bit (.GAL_PRB_CTL r) F.GAL_PRB_CTL_TRACE && (tw == 1 || tw == p.msg.world)
        && !c.bit (.GAL_PRB_CTL r) F.GAL_PRB_CTL_FULL && !c.bit (.GAL_PRB_CTL r) F.GAL_PRB_CTL_TERR then
      let l := sget [] r c1.gal.trace
      if l.length < 16 then
        { c1 with gal := { c1.gal with trace := sset [] r (l ++ [traceRecord c1.now port vc p]) c1.gal.trace } }
      else c1.bump (.GAL_PRB_CTL r) F.GAL_PRB_CTL_TDROP
    else c1

-- a packet enters a router

/-- A fault of a router (R204, R206), reported under its own identity (R328). -/
def Chip.routerFault (c : Chip) (r source : Nat) : Chip := c.report (unitRouter r) source (0x7000 + r) 1 15

/-- A packet enters a router at an input port, over a link on which each of its units may have met errors (R204, R206): every
corrected error is counted; a data unit that cannot be corrected poisons the packet; a header that cannot be corrected, or a CMD of
another plane, discards it. -/
def Chip.enterRouter (c : Chip) (r port plane vc : Nat) (p : Packet) (head data : UnitError) : Chip :=
  if head = .uncorrectable then
    ((c.setBit (.GAL_ERR_STATUS r) F.GAL_ERR_STATUS_HDR_UNCORR true).setFld (.GAL_ERR_STATUS r)
      F.GAL_ERR_STATUS_HDR_PORT port).routerFault r 8
  else if cmdPlane p.cmd ≠ plane then c.routerFault r 7
  else
    let d := if p.units = 2 then data else .none
    let c1 := c.bump (.GAL_ERR_STATUS r) F.GAL_ERR_STATUS_CORR (flag (head == .corrected) + flag (d == .corrected))
    let c2 := c1.bump (.GAL_ERR_STATUS r) F.GAL_ERR_STATUS_UNCORR_DATA (flag (d == .uncorrectable))
    let q : Packet := if d = .uncorrectable then { p with msg := { p.msg with poison := true } } else p
    (c2.probe r port vc q).pushBuf (bufKey r port plane vc) q

/-- A packet for a failed link, at that link's router, goes on to the router of the die's other link (R234 step 4). -/
def Chip.readdress (c : Chip) (r : Nat) (p : Packet) : Packet :=
  match linkAt p.destR p.destPort with
  | some k =>
    if r = p.destR ∧ c.linkFailed k ∧ !c.linkFailed (linkSibling k) then { p with destR := (portAt (.link (linkSibling k))).1 } else p
  | none => p

-- injection and the fence hold

/-- A message that expects an answer (R182). -/
def expectsAnswer : MsgKind → Bool
  | .RD_SHARED | .RD_OWN | .UPGRADE | .RD_OWN_ZERO | .CMO_CLEAN | .CMO_FLUSH | .CMO_INVAL | .RD_ONCE | .WCHK | .IO_RD
  | .HALL_RD | .WR_FULL | .WR_PART | .IO_ATOMIC | .WB_DATA | .IO_WR
  | .SNP_SHARED | .SNP_OWN | .SNP_INV | .SNP_ONCE | .SNP_CLEAN | .BACK_INV => true
  | _ => false

/-- UNAVAIL for a message, to its requester (R216): the hall, of a snoop. -/
def Chip.unavailFor (c : Chip) (m : Msg) (reason : Nat) : Msg :=
  let u : Msg := { m.reply .UNAVAIL with code := reason }
  if m.kind.isSnoop then { u with die := 12, rid := 0x4000 + c.homeHall m.line } else u

/-- A packet that cannot be delivered is answered with UNAVAIL, or discarded; it is counted, and the destination
unavailable fault is reported (R216, R217, R220). A packet to a disabled port counts in UNAVAIL_COUNT whether or not it was ever held
(log entry 87, DESIGN CHOICE: the manual speaks of packets removed from the fence holds, and names R220 beside R216). -/
def Chip.undeliverable (c : Chip) (r : Nat) (p : Packet) (reason : Nat) : Chip :=
  let m := p.msg
  let c1 := (c.bump (.GAL_FENCE_STATUS r) F.GAL_FENCE_STATUS_UNAVAIL_COUNT).report (unitRouter r) 9 m.rid
    (reqWorld m.rid m.world) m.acc 0 (m.line * 64 + m.sub)
  if expectsAnswer m.kind then c1.send (c1.unavailFor m reason) else c1

/-- The compute die whose link a packet is for. -/
def pktDie (p : Packet) : Option Nat :=
  match (if p.destPort < 2 then attachOf p.destR p.destPort else .none) with
  | .link k => some (k / 2)
  | _ => none

/-- A write to an interrupt-file page (R74). -/
def pktIsMsi (p : Packet) : Bool :=
  p.msg.kind == .IO_WR && pktIsReg p && 0x800000 ≤ (p.msg.line * 64 - regBase) % 0x1000000

/-- A packet for a port that is disabled (R220), or for a lost die (R246): of the latter only register accesses are
answered, and device MSIs are counted, as are those to any die that does not run (R16). -/
def Chip.disabledAnswer (c : Chip) (r : Nat) (p : Packet) : Chip :=
  match pktDie p with
  | none => c.undeliverable r p 2
  | some d =>
    if c.dieState d ≠ 5 then (if pktIsMsi p then c.bump (.PKG_DIE_STATUS d) F.PKG_DIE_STATUS_MSI_DROPS else c).undeliverable r p 2
    else if pktIsMsi p then c.bump (.PKG_DIE_STATUS d) F.PKG_DIE_STATUS_MSI_DROPS
    else if pktIsReg p then c.undeliverable r p 2
    else c

/-- A packet leaves the mesh (R207): onto the link of its die, or to the unit at its port; a disabled port answers (R216, R220). -/
def Chip.leaveMesh (c : Chip) (r : Nat) (p : Packet) : Chip :=
  if c.destState p = 3 then c.disabledAnswer r p
  else match linkAt p.destR p.destPort with
    | some k => let e := c.linkEnd k false; c.setLinkEnd k false { e with out := e.out ++ [p] }
    | none => { c with dlv := sset [] (p.destR * 3 + p.destPort) (c.delivered p.destR p.destPort ++ [p]) c.dlv }

/-- The packet at the front of a buffer moves on (R209): to the next router, or out of the mesh. -/
def Chip.moveOn (c : Chip) (r port plane vc out : Nat) (p : Packet) (head data : UnitError) : Chip :=
  let c1 := (c.served r out plane vc port).popBuf (bufKey r port plane vc)
  match neighbour r out with
  | some n => c1.enterRouter n.1 n.2 plane vc p head data
  | none => c1.leaveMesh r p

/-- A packet already in the mesh takes its hop when it has won its output (R210); one that waits for a credit while the
probe counts it is counted as waiting. -/
def Chip.hop (c : Chip) (r port plane vc : Nat) (head data : UnitError) : Chip :=
  match c.bufAt (bufKey r port plane vc) with
  | [] => c
  | p0 :: rest =>
    let p := c.readdress r p0
    let out := c.outPort r p
    let c1 : Chip := { c with gal := { c.gal with buf := sset [] (bufKey r port plane vc) (p :: rest) c.gal.buf } }
    if !c1.canLeave r out plane vc p then
      if c1.probeMatch r port p && c1.ninvEff p.msg.world then c1.probeAdd r 2 p.units else c1
    else if c1.winningVc r out plane = some vc ∧ c1.winningInput r out plane vc = some port then
      c1.moveOn r port plane vc out p head data
    else c1

/-- The packets in the hold of an injection port. -/
def Chip.heldAt (c : Chip) (r port : Nat) : List HeldPkt := c.gal.hold.filter (fun h => h.r == r && h.port == port)

/-- The holds of a router have changed: HELD, and the VCs that wait for room in a hold which has some go on (R216). -/
def Chip.heldCount (c : Chip) (r : Nat) : Chip :=
  ({ c with gal := { c.gal with
      stuck := c.gal.stuck.filter (fun k => k / 96 != r || 8 ≤ (c.heldAt r (k / 12 % 8)).length) } } : Chip).setFld
    (.GAL_FENCE_STATUS r) F.GAL_FENCE_STATUS_HELD (c.gal.hold.filter (fun h => h.r == r)).length

/-- A packet stands ready at an injection port, in its order (R211): one released from the fence hold, ahead of later packets for its port
(R216); else the packet of a message that a unit there has sent, or, at a link, of a message that the link has brought into its receive
buffer (R229). -/
def Chip.offered (c : Chip) (r port : Nat) (p : Packet) : Bool :=
  match c.releasedFor p, linkAt r (port - 4) with
  | some h, _ => h.pkt == p
  | none, some k => p == { c.packetOf p.msg with srcR := r, srcPort := port - 4 } && c.rxNext (linkKey k false) p.msg
  | none, none => p == c.packetOf p.msg && firstOfFlow p.msg (c.net.map c.packetOf)

/-- An injection port has taken the packet it was offered: a link's receive buffer frees its units (R41, R229). -/
def Chip.taken (c : Chip) (r port : Nat) (p : Packet) : Chip :=
  match c.releasedFor p, linkAt r (port - 4) with
  | some h, _ => { c with gal := { c.gal with released := dropFirst h c.gal.released } }
  | none, some k => c.setLinkEnd k false ((c.linkEnd k false).consume p.msg)
  | none, none => { c with net := dropFirst p.msg c.net }

/-- An injection port takes a packet (R209, R216, R220): a packet for a fenced port goes into the fence hold, and while that is full
the port takes nothing more on the packet's VC; one for a disabled port is answered at once, and any other enters the router's own
input buffer. -/
def Chip.inject (c : Chip) (r port plane vc : Nat) (p : Packet) (head data : UnitError) : Chip :=
  if p.srcR ≠ r ∨ port ≠ 4 + p.srcPort then c
  else if c.gal.stuck.contains (bufKey r port plane vc) || !c.offered r port p then c
  else
    let st := c.destState p
    if st = 3 then (c.taken r port p).disabledAnswer r p
    else if st ≠ 0 && !pktIsReg p then
      if (c.heldAt r port).length < 8 then
        let c1 := c.taken r port p
        ({ c1 with gal := { c1.gal with hold := c1.gal.hold ++ [{ r := r, port := port, pkt := p, since := c.now }] } } :
          Chip).heldCount r
      else { c with gal := { c.gal with stuck := bufKey r port plane vc :: c.gal.stuck } }
    else if c.hasRoom (bufKey r port plane vc) plane p.units then
      (c.taken r port p).enterRouter r port plane vc p head data
    else c

/-- A packet's fields name routers and ports that exist, and its CMD, VC and length are those of its message (R203, R204, R208). -/
def packetOk (p : Packet) : Bool :=
  p.destR < 48 && p.destPort < 3 && p.srcR < 48 && p.srcPort < 3 && p.cmd == p.msg.kind.cmd && p.vc == p.msg.kind.vc
    && p.units == p.msg.units

/-- An input port, a plane and a VC of a router. -/
def vcOk (r port plane vc : Nat) : Bool := r < 48 && port < 7 && plane < 3 && vc < vcCount plane

/-- PACKET_HOP (R209): a packet enters the mesh at an injection port, or takes one hop. -/
def execPacketHop (r port plane vc : Nat) (inj : Option Packet) (err : HopErrors) (s : State) : Result :=
  need (vcOk r port plane vc && (match inj with | some p => packetOk p && p.vc == vc | none => true))
    (s.onChip (fun c => match inj with
      | some p => c.inject r port plane vc p err.head err.data
      | none => c.hop r port plane vc err.head err.data))

/-- A receiving router returns a credit for a freed unit (R209). -/
def Chip.credit (c : Chip) (k : Nat) : Chip :=
  let full := ((c.bufAt k).map (fun p => p.units)).sum
  if full < c.usedAt k then { c with gal := { c.gal with used := sset 0 k (c.usedAt k - 1) c.gal.used } } else c

def execCreditReturn (r port plane vc : Nat) (s : State) : Result :=
  need (vcOk r port plane vc) (s.onChip (fun c => c.credit (bufKey r port plane vc)))

-- fences

/-- The injection ports: 3r + 0 for A0 of router r, 3r + 1 for A1, 3r + 2 for its control port. One that is disabled or
absent sends no markers (R215). -/
def Chip.injects (c : Chip) (src : Nat) : Bool := src % 3 == 2 || c.portState (src / 3) (src % 3) != 3

/-- A packet from an injection port for a port is still in the mesh on a VC; the markers do not order register accesses (R216). -/
def Chip.ahead (c : Chip) (r port src plane vc : Nat) : Bool :=
  c.gal.buf.any (fun e => e.1 % 4 == vc && e.1 / 4 % 3 == plane &&
    e.2.any (fun p => p.destR == r && p.destPort == port && 3 * p.srcR + p.srcPort == src && !pktIsReg p))

/-- The key of a marker: its source, plane and VC. -/
def markKey (src plane vc : Nat) : Nat := src * 12 + plane * 4 + vc

/-- A FENCE_MARK arrives at the fenced router behind every earlier packet of its VC (R211, R215). -/
def Chip.fenceMark (c : Chip) (r port src plane vc : Nat) : Chip :=
  if c.portState r port = 1 ∧ c.injects src ∧ !c.ahead r port src plane vc then
    { c with gal := { c.gal with
        marks := if c.gal.marks.contains (r * 2 + port, markKey src plane vc) then c.gal.marks
                 else c.gal.marks ++ [(r * 2 + port, markKey src plane vc)] } }
  else c

def execFenceMark (r port src plane vc : Nat) (s : State) : Result :=
  need (r < 48 && port < 2 && src < 144 && plane < 3 && vc < vcCount plane) (s.onChip (fun c => c.fenceMark r port src plane vc))

/-- Every marker has arrived (R215 step 4). -/
def Chip.allMarks (c : Chip) (r port : Nat) : Bool :=
  (List.range 144).all (fun src => !c.injects src || (List.range 3).all (fun plane => (List.range (vcCount plane)).all
    (fun vc => c.gal.marks.contains (r * 2 + port, markKey src plane vc))))

/-- The domain behind a port has answered every request it accepted and has every answer it awaits (R215 step 3). -/
def Chip.drained (c : Chip) (a : Attach) : Bool :=
  match a with
  | .hall n => !c.txn.any (fun t => c.homeHall t.req.line == n) && !c.homeQ.any (fun m => c.homeHall m.line == n)
      && (c.hall n).waiting.isEmpty
  | .link k => !c.miss.any (fun m => m.req.die == k / 2) && !c.wb.any (fun e => e.h / 24 == k / 2)
      && !c.snoopQ.any (fun m => m.die == k / 2)
  | .station n => (List.range 4).all (fun j => (sget PortSt.reset (n * 4 + j) c.portSt).outst.isEmpty)
  | .cluster i => (List.range 544).all (fun k => (sget InstSt.reset (i * 544 + k) c.insts).inflight.isEmpty)
  | .pair q => !c.pair.queue.any (fun x => x.link == 24 + q)
  | _ => true

/-- A fence is complete (R215 step 4). -/
def Chip.fenceDrained (c : Chip) (r port : Nat) : Chip :=
  if c.portState r port = 1 ∧ c.allMarks r port ∧ (c.delivered r port).all pktIsReg ∧ c.drained (attachOf r port) then
    ({ c with gal := { c.gal with marks := c.gal.marks.filter (fun m => m.1 != r * 2 + port) } } : Chip).setPortState r port 2
  else c

def execFenceDrained (r port : Nat) (s : State) : Result :=
  need (r < 48 && port < 2) (s.onChip (fun c => c.fenceDrained r port))

/-- A FENCE is refused (R218). -/
def Chip.fenceBad (c : Chip) (who : Who) (r port : Nat) : Bool :=
  c.portState r port == 1 ||
    (match attachOf r port with
      | .uz | .fc | .link _ => true
      | .hall n => c.hallInUse n || c.hallHasPot n || !(c.powerMissing who 3 n).isEmpty
      | .station n => !(c.powerMissing who 1 n).isEmpty
      | .cluster i => !(c.powerMissing who 2 i).isEmpty
      | _ => false)

/-- REFUSED of a router. -/
def Chip.galRefuse (c : Chip) (r : Nat) : Chip := c.setBit (.GAL_FENCE_STATUS r) F.GAL_FENCE_STATUS_REFUSED true

/-- A fence begins (R215 step 1), whoever commands it: markers of an earlier fence are forgotten. -/
def Chip.beginFence (c : Chip) (r port : Nat) : Chip :=
  ({ c with gal := { c.gal with
      marks := c.gal.marks.filter (fun m => m.1 != r * 2 + port)
      fencedAt := sset 0 (r * 2 + port) c.now c.gal.fencedAt } } : Chip).setPortState r port 1

/-- The held packets for a port return to their injection ports, in arrival order and ahead of later packets (R216). -/
def Chip.releaseHeld (c : Chip) (r port : Nat) : Chip :=
  let mine := fun (h : HeldPkt) => h.pkt.destR == r && h.pkt.destPort == port
  let out := c.gal.hold.filter mine
  out.foldl (fun (x : Chip) h => x.heldCount h.r)
    { c with gal := { c.gal with hold := c.gal.hold.filter (fun h => !mine h), released := c.gal.released ++ out } }

/-- A port opens: STATE 0, and its held packets are released. -/
def Chip.openPort (c : Chip) (r port : Nat) : Chip := (c.setPortState r port 0).releaseHeld r port

/-- UNFENCE (R218): accepted only in STATE 2. -/
def Chip.unfence (c : Chip) (r port : Nat) : Chip := if c.portState r port = 2 then c.openPort r port else c.galRefuse r

/-- A write to GAL_FENCE_CTL, from W1 or Uzomuris (R461): PORT and FENCE_LIMIT, and the command. FENCE starts fencing an open port and leaves
one that is fenced or disabled as it is (R215; log entry 118, DESIGN CHOICE); a refused FENCE changes nothing but REFUSED (R218). -/
def Chip.fenceCtlWrite (c : Chip) (who : Who) (r : Nat) (v : Word) : Chip :=
  c.ifMay who.sealed who (.GAL_FENCE_CTL r) (fun x =>
    let y := x.storeFields (.GAL_FENCE_CTL r) v
    let port := F.GAL_FENCE_CTL_PORT.get v
    match F.GAL_FENCE_CTL_CMD.get v with
    | 1 => if x.fenceBad who r port then x.galRefuse r else if x.portState r port = 0 then y.beginFence r port else y
    | 2 => y.unfence r port
    | _ => y)

def execFenceCommand (who : Who) (r : Nat) (v : Word) (s : State) : Result :=
  need (r < 48 && F.GAL_FENCE_CTL_CMD.get v == 1) (s.onChip (fun c => c.fenceCtlWrite who r v))
def execUnfence (who : Who) (r : Nat) (v : Word) (s : State) : Result :=
  need (r < 48 && F.GAL_FENCE_CTL_CMD.get v == 2) (s.onPkg (fun p => (p.onChip (fun c => c.fenceCtlWrite who r v)).next))

/-- The oldest packet held at a router has been held for the FENCE_LIMIT of the router it is for (R216). -/
def Chip.holdTimeout (c : Chip) (r : Nat) : Chip :=
  match c.gal.hold.find? (fun h => h.r == r
      && h.since + c.fld (.GAL_FENCE_CTL h.pkt.destR) F.GAL_FENCE_CTL_FENCE_LIMIT ≤ c.now) with
  | none => c
  | some h => (({ c with gal := { c.gal with hold := dropFirst h c.gal.hold } } : Chip).undeliverable r h.pkt 1).heldCount r

def execFenceHoldTimeout (r : Nat) (s : State) : Result :=
  need (r < 48) (s.onPkg (fun p => (p.onChip (fun c => c.holdTimeout r)).next))

-- reconfiguration

/-- The packets held for a port that is now disabled are answered at once (R220). -/
def Chip.answerHeld (c : Chip) (r port : Nat) : Chip :=
  (c.gal.hold.filter (fun h => h.pkt.destR == r && h.pkt.destPort == port)).foldl (fun (x : Chip) h =>
    (({ x with gal := { x.gal with hold := dropFirst h x.gal.hold } } : Chip).disabledAnswer h.r h.pkt).heldCount h.r) c

/-- DIS of a port is set or cleared (R220). -/
def Chip.setDis (c : Chip) (r port : Nat) (dis : Bool) : Chip :=
  if dis then (c.setPortState r port 3).answerHeld r port else c.setPortState r port 2

/-- A write to GAL_PORT_CTL (R220): refused as a whole unless every port it changes is fenced or disabled, and for an
absent port's DIS cleared. -/
def Chip.portCtlWrite (c : Chip) (who : Who) (r : Nat) (v : Word) : Chip :=
  c.ifMay who.sealed who (.GAL_PORT_CTL r) (fun x =>
    let old := fun (p : Nat) => bitAt (x.reg (.GAL_PORT_CTL r)).toNat p
    let new := fun (p : Nat) => bitAt v.toNat p
    let changed := (List.range 2).filter (fun p => old p != new p)
    if changed.any (fun p => x.portState r p < 2 || (attachOf r p == .none && !new p)) then x.galRefuse r
    else changed.foldl (fun y p => y.setDis r p (new p)) (x.storeFields (.GAL_PORT_CTL r) v))

def execGalPortCtlWrite (who : Who) (r : Nat) (v : Word) (s : State) : Result :=
  need (r < 48) (s.onChip (fun c => c.portCtlWrite who r v))

/-- The gallery is quiet: every attachment port is fenced, disabled or absent (R221). -/
def Chip.galQuiet (c : Chip) : Bool := attachPorts.all (fun p => 2 ≤ c.portState p.1 p.2)

/-- A write to GAL_ID (R221): only while the gallery is quiet; Y of 6 or 7 is refused. -/
def Chip.galIdWrite (c : Chip) (who : Who) (r : Nat) (v : Word) : Chip :=
  c.ifMay who.sealed who (.GAL_ID r) (fun x =>
    if !x.galQuiet || 6 ≤ F.GAL_ID_Y.get v then x.galRefuse r else x.storeFields (.GAL_ID r) v)

def execGalIdWrite (who : Who) (r : Nat) (v : Word) (s : State) : Result :=
  need (r < 48) (s.onChip (fun c => c.galIdWrite who r v))

-- trace

/-- A write to GAL_PRB_TPTR is ignored while the probe operates. -/
def Chip.tptrWrite (c : Chip) (who : Who) (r : Nat) (v : Word) : Chip :=
  c.ifMay who.sealed who (.GAL_PRB_TPTR r) (fun x =>
    if x.bit (.GAL_PRB_CTL r) F.GAL_PRB_CTL_EN then x else x.storeFields (.GAL_PRB_TPTR r) v)

/-- A write to GAL_PRB_CTL: FULL, which a one clears, sets again while TPTR stands beyond TLIMIT and the probe does not wrap (R10). -/
def Chip.probeCtlWrite (c : Chip) (who : Who) (r : Nat) (v : Word) : Chip :=
  let c1 := c.writeFields who (.GAL_PRB_CTL r) v
  if c.bit (.GAL_PRB_CTL r) F.GAL_PRB_CTL_FULL && !c1.bit (.GAL_PRB_CTL r) F.GAL_PRB_CTL_WRAP
      && c.fld (.GAL_PRB_TLIMIT r) F.GAL_PRB_LINE < c.fld (.GAL_PRB_TPTR r) F.GAL_PRB_TPTR_NEXT then
    c1.setBit (.GAL_PRB_CTL r) F.GAL_PRB_CTL_FULL true
  else c1

/-- TPTR after a line of records has been written there (R224): it advances, and at TLIMIT it wraps or tracing stops. -/
def Chip.tptrNext (c : Chip) (r : Nat) : Chip :=
  let at_ := c.fld (.GAL_PRB_TPTR r) F.GAL_PRB_TPTR_NEXT
  if at_ = c.fld (.GAL_PRB_TLIMIT r) F.GAL_PRB_LINE then
    if c.bit (.GAL_PRB_CTL r) F.GAL_PRB_CTL_WRAP then
      c.setFld (.GAL_PRB_TPTR r) F.GAL_PRB_TPTR_NEXT (c.fld (.GAL_PRB_TBASE r) F.GAL_PRB_LINE)
    else (c.setFld (.GAL_PRB_TPTR r) F.GAL_PRB_TPTR_NEXT (at_ + 1)).setBit (.GAL_PRB_CTL r) F.GAL_PRB_CTL_FULL true
  else c.setFld (.GAL_PRB_TPTR r) F.GAL_PRB_TPTR_NEXT (at_ + 1)

/-- TRACE_REC (R224): Uzomuris's DMA writes a line of two records at TPTR; a refused write stops tracing. -/
def Pkg.traceRec (p : Pkg) (r : Nat) : Pkg :=
  let c := p.chip
  let line := c.fld (.GAL_PRB_TPTR r) F.GAL_PRB_TPTR_NEXT
  if c.bit (.GAL_PRB_CTL r) F.GAL_PRB_CTL_FULL || c.bit (.GAL_PRB_CTL r) F.GAL_PRB_CTL_TERR || !c.ioIdle line then p
  else
    match sget [] r c.gal.trace with
    | a :: b :: rest =>
      let q : Pkg := { p with chip := { c with gal := { c.gal with trace := sset [] r rest c.gal.trace } } }
      let w := q.ioWrite 0x5004 (c.fld (.GAL_PRB_CTL r) F.GAL_PRB_CTL_TRACE_WORLD)
        (c.fld (.GAL_PRB_CTL r) F.GAL_PRB_CTL_TRACE_LABEL) line (a.setWidth 512 ||| (b.setWidth 512 <<< 256))
        (BitVec.allOnes 64) false
      if w.2 ≠ 0 then w.1.onChip (fun x => x.setBit (.GAL_PRB_CTL r) F.GAL_PRB_CTL_TERR true)
      else w.1.onChip (fun x => x.tptrNext r)
    | _ => p

def execTraceRec (r : Nat) (s : State) : Result := need (r < 48) (s.onPkg (fun p => p.traceRec r))

end Sys2Proof.Machine
end

