-- ==== Sys2Proof/Machine/Links.lean ====
section
/-! DEFINITION. Jotor links and compute dies: bundles, credits, replay and failure of a link (R226 to R235), training and
discovery (R236 to R241), the core map (R13, R14), and the states, commands and loss of a die (R242 to R247). -/

namespace Sys2Proof.Machine

-- link ends

/-- Sequence numbers count modulo 256 on a die link and 1,024 on Jotor-P; the replay buffer holds 64 or 192 bundles (R231,
R248). -/
def seqMod (k : Nat) : Nat := if k < 24 then 256 else 1024
def replayCap (k : Nat) : Nat := if k < 24 then 64 else 192

/-- The bundles that the replay buffer of an end has room for: one fewer for each slot removed (R311). -/
def Chip.replayDepth (c : Chip) (k : Nat) (atDie : Bool) : Nat :=
  replayCap k - ((c.bank (bankKey 0x0D k (flag atDie))).slotsOff.map (· / 8)).eraseDups.length

/-- STATE of a link: 0 down, 1 training, 2 up, 3 failed, 4 disabled. -/
def Chip.linkState (c : Chip) (k : Nat) : Nat := c.fld (.JL_STATUS k) F.JL_STATUS_STATE

/-- The last SEQ an end has received in order: M - 1 after training (R236). -/
def LinkEnd.lastSeq (e : LinkEnd) (k : Nat) : Nat := (e.expSeq + seqMod k - 1) % seqMod k

-- bundles

/-- The fields of a trailer (R228). -/
def Bundle.field (b : Bundle) (hi lo : Nat) : Nat := bits b.trailer.toNat hi lo
def bndSeq (k : Nat) (b : Bundle) : Nat := Bundle.field b 39 32 + (if k < 24 then 0 else 256 * Bundle.field b 107 106)
def bndAck (k : Nat) (b : Bundle) : Nat := Bundle.field b 49 42 + (if k < 24 then 0 else 256 * Bundle.field b 109 108)

/-- CRC-32 of R228. -/
def crc32 (l : List Byte) : Nat :=
  (l.foldl (fun (c : BitVec 32) b =>
    (List.range 8).foldl (fun (x : BitVec 32) _ => if x.getLsbD 0 then (x >>> 1) ^^^ 0xEDB88320#32 else x >>> 1)
      (c ^^^ b.setWidth 32)) 0xFFFFFFFF#32 ^^^ 0xFFFFFFFF#32).toNat

/-- The bytes the CRC of a bundle covers: its units in order, then trailer bytes 4 to 15. -/
def bndBytes (b : Bundle) : List Byte :=
  b.units.flatMap (fun u => toBytes 64 u.toNat) ++ toBytes 12 (b.trailer.toNat / 2 ^ 32)

/-- A bundle arrives whole: its beats, its COUNT and its CRC. -/
def bndGood (b : Bundle) : Bool := b.beatsOk && Bundle.field b 53 50 == b.units.length && crc32 (bndBytes b) == Bundle.field b 31 0

/-- The Jotor VC of a header unit (R229): of its plane and VC on a die link, of its CMD on Jotor-P, where MIR_WR takes VC 0 and MIR_ACK
VC 1 (R248, R404). -/
def headerVc (k h : Nat) : Nat := if k < 24 then bits h 27 20 / 64 * 4 + bits h 18 16 else if bits h 7 0 = 2 then 1 else 0

/-- A trailer returns three running counts (R229). -/
def LinkEnd.credits (e : LinkEnd) (b : Bundle) : LinkEnd :=
  let one := fun (i : Nat) (x : LinkEnd) =>
    { x with peerFreed := sset 0 (Bundle.field b (73 + 12 * i) (70 + 12 * i)) (Bundle.field b (81 + 12 * i) (74 + 12 * i)) x.peerFreed }
  forUpTo 3 one e

/-- A trailer acknowledges bundles (R231). -/
def LinkEnd.acked (e : LinkEnd) (k now ack : Nat) : LinkEnd :=
  let m := seqMod k
  let keep := e.replay.filter (fun x => m / 2 ≤ (ack + m - x.seq) % m)
  { e with replay := keep, waitFrom := if keep = e.replay then e.waitFrom else now }

-- the transmitter

/-- Units the transmitter may still send on a VC (R229). -/
def LinkEnd.room (e : LinkEnd) (v : Nat) : Nat := 24 - (sget 0 v e.sent + 256 - sget 0 v e.peerFreed) % 256

/-- The packets that go into a bundle with `left` units of room, in order (R228): it is closed when the next packet does not fit; a packet
whose VC has no credit for it stays, with those behind it on its VC, and others pass. A packet never spans two bundles (R227). -/
def LinkEnd.fit (e : LinkEnd) : Nat → List Nat → Sparse Nat → List Packet → List Packet
  | _, _, _, [] => []
  | left, stopped, used, p :: ps =>
    let v := p.msg.jotorVc
    let n := p.msg.jotorUnits
    if stopped.contains v then e.fit left stopped used ps
    else if left < n then []
    else if e.room v < sget 0 v used + n then e.fit left (v :: stopped) used ps
    else p :: e.fit (left - n) stopped (sset 0 v (sget 0 v used + n) used) ps

/-- The trailer an end sends (R228): SEQ, its NAK and acknowledgement, COUNT, SLOT_MAP, and the counts of three VCs, taken in rotation so
that every VC appears in every four trailers (R229). Bits no field takes are zero. -/
def LinkEnd.trailer (e : LinkEnd) (k seq : Nat) (units : List Line) (slots : List Nat) : BitVec 128 :=
  let ack := e.lastSeq k
  let credit := fun (i : Nat) =>
    let v := (e.crNext + i) % 11
    (v + 16 * (sget 0 v e.freed % 256)) * 2 ^ (70 + 12 * i)
  let body := seq % 256 * 2 ^ 32 + (if units = [] then 2 ^ 40 else 0) + flag e.nakOut * 2 ^ 41 + ack % 256 * 2 ^ 42
    + units.length * 2 ^ 50 + (slots.zipIdx.map (fun x => x.1 % 4 * 2 ^ (54 + 2 * x.2))).sum
    + credit 0 + credit 1 + credit 2 + seq / 256 % 4 * 2 ^ 106 + ack / 256 % 4 * 2 ^ 108
  let b : Bundle := { units := units, trailer := BitVec.ofNat 128 body }
  BitVec.ofNat 128 (body + crc32 (bndBytes b))

/-- The bundle in which an end sends what it sends now (R228). -/
def LinkEnd.form (e : LinkEnd) (k : Nat) (s : SentBundle) : Bundle :=
  { units := s.units, trailer := e.trailer k s.seq s.units s.slots }

/-- A control unit (R230): its type, the link it names and a SEQ. -/
def ctlUnit (type link seq : Nat) : Line := BitVec.ofNat 512 (type + 256 * link + 65536 * seq)

/-- The IDENT of a die of the package: stepping B0 or B1 (R1), each with its own capability vector (R240), and fields that fit their bytes
(R230). -/
def identOk (i : Ident) : Bool :=
  i.link < 2 && ((i.stepping == 0xB0 && i.cap == 0xF) || (i.stepping == 0xB1 && i.cap == 0x70F)) && i.serial < 2 ^ 64
    && i.failMask < 2 ^ 26

/-- The fields of an IDENT unit (R230). -/
def ctlIdent (u : Line) : Ident :=
  let n := u.toNat
  { link := bits n 15 8, stepping := bits n 23 16, serial := bits n 95 32, cap := bits n 127 96, failMask := bits n 159 128 }

/-- The capabilities that a die is to enable (R241). -/
def Chip.capEnFor (c : Chip) (d : Nat) : Nat :=
  if c.bit .PKG_DIE_CFG F.PKG_DIE_CFG_HETERO_ALLOW then (c.die d).ident.cap else c.fld .PKG_CAP_COMMON F.PKG_CAP_COMMON_CAP

/-- The IDENT_ACK and HOLD that the I/O die sends a die (R230): its number, HETERO_ALLOW and CAP_EN; its CAUSE. -/
def Chip.identAckUnit (c : Chip) (d : Nat) : Line :=
  BitVec.ofNat 512 (2 + 256 * d + 65536 * c.fld .PKG_DIE_CFG F.PKG_DIE_CFG_HETERO_ALLOW + 2 ^ 96 * c.capEnFor d)
def Chip.holdUnit (c : Chip) (d : Nat) : Line := BitVec.ofNat 512 (3 + 256 * c.fld (.PKG_DIE_STATUS d) F.PKG_DIE_STATUS_CAUSE)

/-- A control unit that a die link carries towards end `atDie` (R230): a type of the table in its direction, its unused bytes zero. An
IDENT is that of a die of the package; what the I/O die sends is what it has to say. -/
def Chip.ctlOk (c : Chip) (k : Nat) (atDie : Bool) (u : Line) : Bool :=
  let n := u.toNat
  match n % 256, atDie with
  | 1, false => bits n 31 24 == 1 && n < 2 ^ 160 && identOk (ctlIdent u)
  | 2, true => u == c.identAckUnit (k / 2)
  | 3, true => u == c.holdUnit (k / 2)
  | 6, false | 7, false => n < 256
  | _, _ => false

/-- The units of a bundle with their SLOT_MAP codes (R228). -/
def bndSlots (b : Bundle) : List Nat := (List.range b.units.length).map (fun u => Bundle.field b (55 + 2 * u) (54 + 2 * u))

/-- The control units of a bundle. -/
def bndCtl (b : Bundle) : List Line :=
  (b.units.zipIdx.filter (fun x => Bundle.field b (55 + 2 * x.2) (54 + 2 * x.2) == 2)).map (fun x => x.1)

/-- The control units of a bundle that has been sent. -/
def SentBundle.ctl (s : SentBundle) : List Line := ((s.units.zip s.slots).filter (fun x => x.2 == 2)).map (fun x => x.1)

/-- What end `atDie` of a die link has to send: the packets that wait here for it, and, at a die, what the die has sent (R23). -/
def Chip.toSend (c : Chip) (k : Nat) (atDie : Bool) : List Packet :=
  (c.linkEnd k atDie).out ++ (if atDie then c.waitsFor k else [])

/-- The bundle that end `atDie` of a die link sends next (R231): the first of those it resends, which it cannot where a unit of it is lost
(R313), or a new one, with the control units given and then the packets that fit (log entry 125, DESIGN CHOICE: R228 gives them no order);
none while its replay buffer is full or it has nothing to send. -/
def Chip.sends (c : Chip) (k : Nat) (atDie : Bool) (ctl : List Line) : Option SentBundle :=
  let e := c.linkEnd k atDie
  match e.resend with
  | s :: _ => if s.bad then none else some s
  | [] =>
    let pk := e.fit (8 - ctl.length) [] [] (c.toSend k atDie)
    if c.replayDepth k atDie ≤ e.replay.length || (ctl.isEmpty && pk.isEmpty) then none
    else some { seq := e.nextSeq, units := ctl ++ pk.flatMap Packet.onLink
                slots := ctl.map (fun _ => 2) ++ pk.flatMap (fun p => if p.msg.carries then [0, 1] else [0])
                pkts := pk, passed := false }

/-- A trailer has been sent: its NAK, and the rotation of the counts. -/
def LinkEnd.sentTrailer (e : LinkEnd) : LinkEnd := { e with nakOut := false, crNext := (e.crNext + 3) % 11 }

/-- The transmitter has sent a new bundle: it stays in the replay buffer until it is acknowledged, and its packets are on the link. -/
def LinkEnd.note (e : LinkEnd) (k now : Nat) (s : SentBundle) : LinkEnd :=
  { e with
    replay := e.replay ++ [s]
    waitFrom := if e.replay.isEmpty then now else e.waitFrom
    nextSeq := (e.nextSeq + 1) % seqMod k
    sent := s.pkts.foldl (fun m p => sset 0 p.msg.jotorVc ((sget 0 p.msg.jotorVc m + p.msg.jotorUnits) % 256) m) e.sent
    out := s.pkts.foldl (fun l p => dropFirst p l) e.out
    ctl := e.ctl.filter (fun u => !s.units.contains u) }

/-- End `atDie` of a die link has sent a bundle. -/
def Chip.noteSent (c : Chip) (k : Nat) (atDie : Bool) (s : SentBundle) : Chip :=
  let e := c.linkEnd k atDie
  if e.resend.isEmpty then
    let waited := s.pkts.filter (fun p => !e.out.contains p)
    ({ c with net := waited.foldl (fun l p => dropFirst p.msg l) c.net } : Chip).setLinkEnd k atDie (e.note k c.now s).sentTrailer
  else c.setLinkEnd k atDie ({ e with resend := e.resend.tail } : LinkEnd).sentTrailer

-- the receiver

/-- The receiver accepts a bundle (R231): its packets enter the receive buffer of their VC, and the next SEQ is expected. -/
def LinkEnd.pass (e : LinkEnd) (k : Nat) (s : SentBundle) : LinkEnd :=
  { e with expSeq := (e.expSeq + 1) % seqMod k, rxBuf := e.rxBuf ++ s.pkts, rx := s.units, nakFor := none, nakOut := false
           failRun := 0 }

/-- The transmitter's copy of a bundle its receiver has accepted. -/
def LinkEnd.passedOn (e : LinkEnd) (seq : Nat) : LinkEnd :=
  { e with replay := e.replay.map (fun s => if s.seq = seq then { s with passed := true } else s) }

-- failure of a link

/-- The LINK record (R430): bursts, longest run and failures of every link. -/
def Chip.linkRecord (c : Chip) : Chip :=
  c.lifeWrite 0x14 ((List.range 26).flatMap (fun k => toBytes 2 (c.fld (.JL_RETRY k) F.JL_RETRY_BURSTS)
    ++ toBytes 1 (c.fld (.JL_RETRY k) F.JL_RETRY_MAX_CONSEC) ++ toBytes 1 (min 255 (c.linkEnd k false).fails)))

/-- The requester ID of a link's faults (R328). -/
def linkRid (k : Nat) : Nat := if k < 24 then 0x1000 + 16 * (k / 2) + 2 else 0x7000 + 48 + (k - 24)

/-- The attachment ports of a die's links. -/
def diePorts (d : Nat) : List (Nat × Nat) := [portOf (.link (2 * d)), portOf (.link (2 * d + 1))].filterMap id

/-- What a die held is gone: its caches, its outstanding requests and what it had not yet sent on a link, its harts. A haltreq that waits is
the debug module's, and goes on waiting (R86). -/
def Chip.dieClear (c : Chip) (d : Nat) : Chip :=
  { c with
    l2 := c.l2.filter (fun e => e.1 % 288 / 24 != d)
    lnd := c.lnd.filter (fun e => e.1 % 12 != d)
    wb := c.wb.filter (fun e => e.h / 24 != d)
    miss := c.miss.filter (fun m => m.req.die != d)
    snoopQ := c.snoopQ.filter (fun m => m.die != d)
    wchk := c.wchk.filter (fun w => w.1 / 24 != d)
    net := c.net.filter (fun m => Msg.fromDie? m != some d)
    mnt := c.mnt.filter (fun r => r.key != d)
    injQ := c.injQ.filter (fun q => q.2.die != d)
    safeQ := c.safeQ.filter (fun m => m.die != d)
    harts := (dieHarts d).foldl (fun x h => sset Hart.reset h { Hart.reset with haltPending := (c.hart h).haltPending } x) c.harts }

/-- STATE of a die. -/
def Chip.setDieState (c : Chip) (d st cause : Nat) : Chip :=
  (c.setFld (.PKG_DIE_STATUS d) F.PKG_DIE_STATUS_STATE st).setFld (.PKG_DIE_STATUS d) F.PKG_DIE_STATUS_CAUSE cause

/-- The commands Uzomuris gives the regulator of a rail, PAGE selecting the rail's page before each (R56). -/
def Chip.pmbusSend (c : Chip) (rail : Nat) (l : List PmbusCmd) : Chip :=
  { c with pmbus := sset [] rail (l.flatMap (fun x => [.page (Config.railPage rail), x])) c.pmbus }

/-- The rail of a die is turned off with OPERATION: the die draws nothing. -/
def Chip.railOff (c : Chip) (d : Nat) : Chip :=
  let c1 := (({ c with rail := sset 0 d 0 c.rail } : Chip).onDie d (fun x => { x with
    mv := 0, setMv := 0, belowSince := none, allow := 0, demand := 0, est := 0, startWait := none })).pmbusSend d [.operation false]
  (c1.setFld (.CD_SUPPLY_STATUS d) F.CD_SUPPLY_STATUS_V_NOW_MV 0).setBit (.CD_SUPPLY_STATUS d) F.CD_SUPPLY_STATUS_BELOW_FUNC true

/-- STATE of the die links of a die that are in state `was`. -/
def Chip.moveLinks (c : Chip) (d st : Nat) (was : List Nat) : Chip :=
  forUpTo 2 (fun i x =>
    if was.contains (x.linkState (2 * d + i)) then x.setFld (.JL_STATUS (2 * d + i)) F.JL_STATUS_STATE st else x) c

/-- What the ends of a die's links hold is gone. -/
def Chip.clearLinks (c : Chip) (d : Nat) : Chip :=
  forUpTo 4 (fun i x =>
    let e := x.linkEnd (2 * d + i / 2) (i % 2 == 1)
    x.setLinkEnd (2 * d + i / 2) (i % 2 == 1) { LinkEnd.reset with lastHeard := e.lastHeard, fails := e.fails }) c

/-- The ports of a die are disabled without a fence (R246, R238); its links, but a failed one, read as disabled, and what waits on them
is discarded. -/
def Chip.disableDie (c : Chip) (d : Nat) : Chip :=
  (diePorts d).foldl (fun x p => (x.setPortState p.1 p.2 3).answerHeld p.1 p.2) ((c.moveLinks d 4 [1, 2]).clearLinks d)

/-- Messages on their way to a die: discarded when it is lost (R246 step 1). -/
def toDie (d : Nat) (m : Msg) : Bool :=
  m.die == d && (match m.kind with
    | .SNP_SHARED | .SNP_OWN | .SNP_INV | .SNP_ONCE | .SNP_CLEAN | .BACK_INV | .FWD_DATA | .COMP | .DATA | .WB_ACK
    | .WB_ACK_STALE | .WCHK_RSP | .IO_RSP | .IO_ACK | .UNAVAIL => true
    | _ => false)

/-- A die is lost (R246): its STATE and CAUSE, its ports, what it held and what was on its way to it, its rail, and the
report. The halls' purges follow (R195). -/
def Chip.loseDie (c : Chip) (d cause : Nat) : Chip :=
  if c.dieState d = 0 ∨ 5 ≤ c.dieState d then c
  else
    let c1 := (c.setDieState d 5 (if c.dieState d = 3 ∧ cause = 2 then 5 else cause)).disableDie d
    let c2 : Chip := { c1 with net := c1.net.filter (fun m => !toDie d m) }
    (((c2.dieClear d).onDie d (fun x => { x with purging := true, told := [] })).railOff d).report unitUz (64 + 12 * d + 11)
      (0x1000 + 16 * d + 2) 1 15

/-- A link fails (R233): STATE and FAIL_CAUSE, the link-failed fault and the link event, and the record of the life record. -/
def Chip.markFailed (c : Chip) (k cause : Nat) : Chip :=
  let e := c.linkEnd k false
  let c1 := ((((c.setLinkEnd k false { e with fails := e.fails + 1 }).setFld (.JL_STATUS k) F.JL_STATUS_STATE 3).setFld
    (.JL_STATUS k) F.JL_STATUS_FAIL_CAUSE cause).setBit (.JL_STATUS k) F.JL_STATUS_FAILED_SEEN true).reportLevel
      (unitLink k false) (400 + 2 * k) (linkRid k) 1 15
  let c2 := (c1.raiseEvent (204 + k)).linkRecord
  if 24 ≤ k then c2 else c2.setBit (.PKG_DIE_STATUS (k / 2)) F.PKG_DIE_STATUS_SINGLE_LINK true

/-- An end of a failed link sends a control unit over the sibling, with the last SEQ it received in order on the failed link (R234):
type 4 LINK_DOWN, 5 LINK_SYNC. -/
def Chip.sendLinkCtl (c : Chip) (k : Nat) (atDie : Bool) (type : Nat) : Chip :=
  let s := c.linkEnd (linkSibling k) atDie
  c.setLinkEnd (linkSibling k) atDie { s with ctl := s.ctl ++ [ctlUnit type (k % 2) ((c.linkEnd k atDie).lastSeq k)] }

/-- End `atDie` declares its link failed (R233 to R235): LINK_DOWN goes out over the sibling; a die both of whose links are failed is
lost, also while it starts. -/
def Chip.failLink (c : Chip) (k cause : Nat) (atDie : Bool) : Chip :=
  if c.linkState k = 3 then c
  else
    let c1 := c.markFailed k cause
    if c1.linkState (linkSibling k) = 2 then c1.sendLinkCtl k atDie 4
    else if k < 24 ∧ 1 ≤ c.dieState (k / 2) then c1.loseDie (k / 2) 1
    else c1

/-- The retries of an end in the present and the seven preceding intervals of 125,000 ticks. -/
def LinkEnd.recentRetries (e : LinkEnd) (now : Nat) : List Nat := e.retryAt.filter (fun t => now / 125000 ≤ t / 125000 + 7)

/-- One retry (R231, R233): every unacknowledged bundle is sent again; bursts are counted; more than 1,000 retries in the
eight intervals fail the link. RETRIES counts at the I/O die end; so, here, do BURSTS and MAX_CONSEC (log entry 80, DESIGN CHOICE: the
manual speaks of each link). -/
def Chip.retry (c : Chip) (k : Nat) (atDie : Bool) : Chip :=
  let e := c.linkEnd k atDie
  if e.replay.isEmpty then c
  else
    let newBurst : Bool := match e.retryAt.head? with
      | some t => t + 10000 < c.now
      | none => true
    let e1 : LinkEnd := { e with retryAt := c.now :: e.recentRetries c.now, resend := e.replay, waitFrom := c.now }
    let c1 := c.setLinkEnd k atDie e1
    let c2 := if atDie then c1
      else
        let r := c1.setFld (.JL_RETRY k) F.JL_RETRY_RETRIES (c1.fld (.JL_RETRY k) F.JL_RETRY_RETRIES + 1)
        if newBurst then r.bump (.JL_RETRY k) F.JL_RETRY_BURSTS else r
    if 1000 < e1.retryAt.length then c2.failLink k 2 atDie else c2

/-- The receiver discards a bundle (R231, R233): it asks for replay after a CRC failure, and once for each expected SEQ
after one out of order; sixteen consecutive failures of one SEQ fail the link. -/
def Chip.discard (c : Chip) (k : Nat) (atDie good : Bool) : Chip :=
  let e := c.linkEnd k atDie
  if good then c.setLinkEnd k atDie { e with nakFor := some e.expSeq, nakOut := e.nakOut || e.nakFor != some e.expSeq }
  else
    let run := (if e.failSeq = e.expSeq then e.failRun else 0) + 1
    let c1 := c.setLinkEnd k atDie { e with nakFor := some e.expSeq, nakOut := true, failSeq := e.expSeq, failRun := run }
    let c2 := if atDie then c1
      else c1.setFld (.JL_RETRY k) F.JL_RETRY_MAX_CONSEC (max (min run 255) (c1.fld (.JL_RETRY k) F.JL_RETRY_MAX_CONSEC))
    if 16 ≤ run then c2.failLink k 1 atDie else c2

/-- A trailer that arrives whole is read (R228, R229, R231): credits, acknowledgements and NAK. -/
def Chip.readTrailer (c : Chip) (k : Nat) (atDie : Bool) (b : Bundle) : Chip :=
  let c1 := c.setLinkEnd k atDie (((c.linkEnd k atDie).credits b).acked k c.now (bndAck k b))
  if Bundle.field b 41 41 = 1 then c1.retry k atDie else c1


/-- The bundles of an end that the other end has not received, as the SEQ it reports says (R234). -/
def LinkEnd.unheard (e : LinkEnd) (k lastSeq : Nat) : List SentBundle :=
  let m := seqMod k
  e.replay.filter (fun x => (x.seq + m - (lastSeq + 1) % m) % m < m / 2)

/-- An end of a failed link resends, over the sibling and ahead of what waits there, the units of every bundle after the SEQ the other
end reported that can be resent (R313), and those that waited for the failed link (R234 step 3); an IDENT, which names its link, goes with it. -/
def Chip.failover (c : Chip) (k : Nat) (atDie : Bool) (lastSeq : Nat) : Chip :=
  if c.linkState k ≠ 3 ∨ c.linkState (linkSibling k) ≠ 2 then c
  else
    let e := c.linkEnd k atDie
    let l := (e.unheard k lastSeq).filter (fun x => !x.bad)
    let s := c.linkEnd (linkSibling k) atDie
    (c.setLinkEnd k atDie { e with replay := [], resend := [], out := [], ctl := [] }).setLinkEnd (linkSibling k) atDie
      { s with out := l.flatMap (fun x => x.pkts) ++ e.out ++ s.out
               ctl := s.ctl ++ (l.flatMap SentBundle.ctl ++ e.ctl).filter (fun u => u.toNat % 256 != 1) }

/-- LINK_DOWN reaches an end (R234 step 2): it stops the failed link, answers LINK_SYNC with its own last SEQ, and resends. -/
def Chip.linkDown (c : Chip) (k : Nat) (atDie : Bool) (lastSeq : Nat) : Chip :=
  let c1 := if c.linkState k = 2 ∧ c.linkState (linkSibling k) = 2 then c.markFailed k 0 else c
  if c1.linkState k ≠ 3 ∨ c1.linkState (linkSibling k) ≠ 2 then c1
  else (c1.sendLinkCtl k atDie 5).failover k atDie lastSeq

-- control units

/-- A link of the package. -/
def linkOk (k : Nat) : Bool := k < 26

/-- NAK reaches a transmitter (R231). -/
def Chip.nak (c : Chip) (k : Nat) (atDie : Bool) (ack : Nat) : Chip :=
  if c.linkState k ≠ 2 then c else (c.setLinkEnd k atDie ((c.linkEnd k atDie).acked k c.now ack)).retry k atDie

def execNak (k : Nat) (atDie : Bool) (ackSeq : Nat) (s : State) : Result :=
  need (linkOk k && ackSeq < seqMod k) (s.onPkg (fun p => (p.onChip (fun c => c.nak k atDie ackSeq)).pairFailed k))

/-- REPLAY_TIMEOUT ticks have passed with unacknowledged bundles and no acknowledgement (R231). -/
def Chip.replayTimeout (c : Chip) (k : Nat) (atDie : Bool) : Chip :=
  if c.linkState k = 2 ∧ (c.linkEnd k atDie).waitFrom + c.fld (.JL_CFG k) F.JL_CFG_REPLAY_TIMEOUT ≤ c.now then c.retry k atDie
  else c

def execReplayTimeout (k : Nat) (atDie : Bool) (s : State) : Result := need (linkOk k) (s.onPkg (fun p => (p.onChip (fun c => c.replayTimeout k atDie)).pairFailed k))

def execLinkDown (k : Nat) (atDie : Bool) (lastSeq : Nat) (s : State) : Result :=
  need (linkOk k && lastSeq < seqMod k) (s.onPkg (fun p => (p.onChip (fun c => c.linkDown k atDie lastSeq)).pairFailed k))
def execLinkSync (k : Nat) (atDie : Bool) (lastSeq : Nat) (s : State) : Result :=
  need (linkOk k && lastSeq < seqMod k) (s.onChip (fun c => c.failover k atDie lastSeq))

-- training

/-- A link is trained (R236, R237): spares recorded and every count cleared, or failed with its cause. -/
def Chip.trainLink (c : Chip) (k : Nat) (ok : Bool) (wires spares : Nat) : Chip :=
  let c1 := (((c.setReg (.JL_STATUS k) (c.reg (.JL_STATUS k) &&& F.JL_STATUS_FAILED_SEEN.mask)).setFld (.JL_STATUS k)
    ⟨31, 4, .ro, none⟩ spares).setFld (.JL_RETRY k) F.JL_RETRY_RETRIES 0).setFld (.JL_STATUS k) F.JL_STATUS_STATE 1
  let fresh := fun (x : Chip) (at_ : Bool) =>
    x.setLinkEnd k at_ { LinkEnd.reset with lastHeard := c.now, fails := (c.linkEnd k at_).fails }
  if ok then ((fresh (fresh c1 false) true).setFld (.JL_STATUS k) F.JL_STATUS_STATE 2).setCause (400 + 2 * k) false
  else (fresh (fresh c1 false) true).markFailed k (if 2 < wires then 4 else 3)

-- the core map

/-- The map and failure marks that the life record holds for a die (R14, R430): the identity map with no history. -/
def Chip.prevMap (c : Chip) (d : Nat) : List Nat × Nat :=
  match c.records.find? (fun r => r.type == 0x21 && r.payload.head? == some (BitVec.ofNat 8 d)) with
  | some r => ((List.range 24).map (fun i => sliceNum r.payload (8 + i) 1), sliceNum r.payload 32 4)
  | none => (List.range 24, 0)

/-- The map of R14: a logical core keeps a physical core that is not failed; each other takes, in ascending order, the
lowest that is neither failed nor bound, or is absent (31). -/
def buildMap (prev : List Nat) (failed : Nat) : List Nat :=
  let good := fun (p : Nat) => p < 26 && !bitAt failed p
  let kept := prev.map (fun p => if good p then some p else none)
  ((List.range 24).foldl (fun (acc : List Nat × List Nat) i =>
    match kept.getD i none with
    | some p => (acc.1 ++ [p], acc.2)
    | none =>
      match (List.range 26).find? (fun p => good p && !acc.2.contains p) with
      | some p => (acc.1 ++ [p], acc.2 ++ [p])
      | none => (acc.1 ++ [31], acc.2)) ([], kept.filterMap id)).1

/-- Write a die's map (R13). -/
def Chip.writeMap (c : Chip) (d : Nat) (m : List Nat) : Chip :=
  forUpTo 24 (fun i x =>
    if i < 12 then x.setFld (.CD_CORE_MAP_0 d) (F.CD_CORE_MAP_0_PHYS i) (m.getD i 31)
    else x.setFld (.CD_CORE_MAP_1 d) (F.CD_CORE_MAP_1_PHYS (i - 12)) (m.getD i 31)) c

/-- Uzomuris builds the map of a die held in reset (R14): each changed binding is recorded, and CD_CORE_STATUS counts. -/
def Chip.buildCoreMap (c : Chip) (d failMask : Nat) : Chip :=
  let prev := c.prevMap d
  let failed := failMask ||| prev.2 ||| (c.die d).failMark
  let m := buildMap prev.1 failed
  let changed := (List.range 24).filter (fun i => prev.1.getD i 31 != m.getD i 31)
  let c1 := (c.writeMap d m).onDie d (fun x => { x with failMark := prev.2 ||| x.failMark })
  let c2 := changed.foldl (fun (x : Chip) i => x.lifeWrite 0x22 (toBytes 1 d ++ toBytes 1 i ++ toBytes 1 (prev.1.getD i 31)
    ++ toBytes 1 (m.getD i 31))) c1
  ((c2.countCores d failed).setFld (.CD_CORE_STATUS d) F.CD_CORE_STATUS_SUBST_RESET changed.length).coreMapRecord d

-- discovery

/-- The set-point in mV from which a compute die's rail starts (R417 step 9). -/
def startMv : Nat := 800

/-- The set-point at which a die's rail is turned on: the higher of 0.80 V and VSET_MIN_MV, in 5 mV steps (R43, R417 step 9). -/
def Chip.onMv (c : Chip) (d : Nat) : Nat :=
  (max startMv (c.fld (.CD_SUPPLY_CFG d) F.CD_SUPPLY_CFG_VSET_MIN_MV) + 4) / 5 * 5

/-- The rail of a die is on at a set-point. -/
def Chip.railOn (c : Chip) (d mv : Nat) : Chip :=
  (({ c with rail := sset 0 d mv c.rail } : Chip).onDie d (fun x =>
    { x with mv := mv, setMv := mv, belowSince := none })).pmbusSend d [.voutTransitionRate, .voutCommand mv, .operation true]

/-- The registers of a compute die's block, but its reset vector and its core map. -/
def cdRegister (d off : Nat) : Bool :=
  let b := 0x10000000 + d * 0x1000000
  b ≤ off && off < b + 0x1000000 && off != (Reg.CD_RESET_VECTOR d).offset && off != (Reg.CD_CORE_MAP_0 d).offset
    && off != (Reg.CD_CORE_MAP_1 d).offset

/-- The bank of an array of compute die d, its ends of its links' replay buffers among them (R307, R312). -/
def dieBank (d k : Nat) : Bool :=
  let a := k / 65536
  let i := k / 16 % 4096
  if a ≤ 5 then hartDie i == d else if a ≤ 8 then i == d else a == 0x0D && i < 24 && i / 2 == d && k % 16 == 1

/-- A die is held out (R238): STATE 6 with its CAUSE, its ports disabled, the die-state event. -/
def Chip.holdOut (c : Chip) (d cause : Nat) : Chip := ((c.setDieState d 6 cause).disableDie d).raiseEvent (192 + d)

/-- A die's rail is within R43: its level is within 10 mV of its set-point. -/
def Chip.railWithin (c : Chip) (d : Nat) : Bool :=
  let x := c.die d
  decide (x.mv ≤ x.setMv + 10) && decide (x.setMv ≤ x.mv + 10)

/-- The links of a die held in reset are trained (R236); a die neither of whose links trains is held out (R238). -/
def Chip.trainDie (c : Chip) (d : Nat) (st : DieStart) : Chip :=
  let c1 := (c.trainLink (2 * d) st.trainA st.wiresA st.sparesA).trainLink (2 * d + 1) st.trainB st.wiresB st.sparesB
  if c1.linkState (2 * d) ≠ 2 ∧ c1.linkState (2 * d + 1) ≠ 2 then c1.holdOut d 12 else c1

/-- A die that waits in reset for its rail trains its links once the rail is within R43 (R236). -/
def Chip.trainWaiting (c : Chip) (d : Nat) : Chip :=
  match (c.die d).startWait with
  | some st => if c.railWithin d then (c.onDie d (fun x => { x with startWait := none })).trainDie d st else c
  | none => c

/-- A die is held in reset and its links are trained (R236, R244): the rail of a die that was off or lost is first restored; its
registers take their reset values, its landing cache, predictors and recent-correction memories are empty (R309), and its remap entries are
restored (R312); the links train once
the rail is within R43. What the supervisor sees of the rail stays as it is (R51). -/
def Chip.startDie (c : Chip) (d : Nat) (st : DieStart) : Chip :=
  let c1 := ((c.dieClear d).restoreBanks (dieBank d)).setReg (.PKG_DIE_STATUS d) (F.PKG_DIE_STATUS_STATE.put
    (c.reg (.PKG_DIE_STATUS d) &&& F.PKG_DIE_STATUS_REFUSED.mask) 1)
  let on := if c.dieState d = 0 ∨ c.dieState d = 5 then c1.railOn d (c.onMv d) else c1
  let c2 := ({ on with regs := on.regs.filter (fun e => !cdRegister d e.1) } : Chip).onDie d (fun x =>
    { x with identOk := false, quiesced := false, droopEnd := none, thermSteps := 0, thermOk := 0, allow := 0, demand := 0, est := 0
             issue := 8, grantNext := 0, pacedNs := 0, floorLost := x.mv < 420, startWait := some st })
  ((((c2.clearLinks d).moveLinks d 0 [1, 2, 3, 4]).setFld (.CD_SUPPLY_STATUS d) F.CD_SUPPLY_STATUS_V_NOW_MV
    (min (c2.die d).mv 1023)).setBit (.CD_SUPPLY_STATUS d) F.CD_SUPPLY_STATUS_BELOW_FUNC ((c2.die d).mv < 500)).trainWaiting d

/-- Why an IDENT is not accepted (R238), 0 when it is: the wrong position, the two IDENTs differing, another serial number
than at package start, a capability missing. Of a die held out at package start no serial number has been recorded, and a later one is
compared with 0 (log entry 81, DESIGN CHOICE: the manual does not say what is recorded for such a die). -/
def Chip.identCause (c : Chip) (d : Nat) (st : DieStart) : Nat :=
  let a := c.linkState (2 * d) == 2
  let b := c.linkState (2 * d + 1) == 2
  let id := if a then st.identA else st.identB
  let common := c.fld .PKG_CAP_COMMON F.PKG_CAP_COMMON_CAP
  let started := c.bit .PKG_CTL F.PKG_CTL_COMMITTED
  if (a && st.identA.link != 0) || (b && st.identB.link != 1) then 11
  else if a && b && !(st.identA.serial == st.identB.serial && st.identA.stepping == st.identB.stepping
      && st.identA.cap == st.identB.cap && st.identA.failMask == st.identB.failMask) then 8
  else if started && id.serial != (c.reg (.PKG_DIE_SERIAL d)).toNat then 9
  else if started && !c.bit .PKG_DIE_CFG F.PKG_DIE_CFG_HETERO_ALLOW && id.cap &&& common != common then 10
  else 0

/-- The IDENTs of a starting die (R238, R239, R244): accepted, recorded at package start, and its core map built from the
failing-core mask; or the die is held out. -/
def Chip.identArrive (c : Chip) (d : Nat) (st : DieStart) : Chip :=
  if c.dieState d ≠ 1 ∨ (c.die d).identOk ∨ (c.linkState (2 * d) ≠ 2 ∧ c.linkState (2 * d + 1) ≠ 2) then c
  else
    let why := c.identCause d st
    let id := if c.linkState (2 * d) = 2 then st.identA else st.identB
    if why ≠ 0 then c.holdOut d why
    else
      let c1 := c.onDie d (fun x => { x with ident := id, identOk := true })
      let c2 := if c.bit .PKG_CTL F.PKG_CTL_COMMITTED then c1
        else ((c1.setReg (.PKG_DIE_SERIAL d) (BitVec.ofNat 64 id.serial)).setFld (.PKG_DIE_CAP d) F.PKG_DIE_CAP_CAP
          id.cap).setFld (.PKG_DIE_CAP d) F.PKG_DIE_CAP_STEPPING id.stepping
      let single := c.linkState (2 * d) != 2 || c.linkState (2 * d + 1) != 2
      (c2.setBit (.PKG_DIE_STATUS d) F.PKG_DIE_STATUS_SINGLE_LINK single).buildCoreMap d id.failMask

/-- IDENT_ACK with its CAP_EN (R239, R244): after the PKG commit the die enables exactly those capabilities, its links open,
its harts start at CD_RESET_VECTOR, and it runs. A die that was lost is not released before the halls have purged it. -/
def Chip.identAck (c : Chip) (d cap : Nat) : Chip :=
  if c.dieState d ≠ 1 ∨ !(c.die d).identOk ∨ !c.bit .PKG_CTL F.PKG_CTL_COMMITTED ∨ (c.die d).purging then c
  else
    let c1 := (c.onDie d (fun x => { x with capEn := cap })).setDieState d 2 0
    let ports := (List.range 2).filterMap (fun i => if c1.linkState (2 * d + i) = 2 then portOf (.link (2 * d + i)) else none)
    let c2 := ports.foldl (fun (x : Chip) p => x.openPort p.1 p.2) c1
    ((dieHarts d).foldl (fun (x : Chip) h => if x.corePhys h = 31 then x else x.startHart h) c2).raiseEvent (192 + d)

/-- HOLD reaches a die (R238): its harts stay absent. -/
def Chip.holdArrive (c : Chip) (d cause : Nat) : Chip :=
  if c.dieState d = 6 ∧ c.fld (.PKG_DIE_STATUS d) F.PKG_DIE_STATUS_CAUSE = cause then (c.dieClear d).disableDie d else c

/-- The spare wires of a trained link (R236, JL_STATUS): spares 0 and 1 of each direction take the place of data wires, no wire twice, or
of none (127). A link trains only when at most two wires of each direction fail, so that each has its spare. -/
def sparesOk (ok : Bool) (wires spares : Nat) : Bool :=
  let at_ := fun (i : Nat) => bits spares (7 * i + 6) (7 * i)
  let one := fun (i : Nat) => at_ i < 64 || at_ i == 127
  let used := fun (i : Nat) => flag (at_ i != 127) + flag (at_ (i + 1) != 127)
  spares < 2 ^ 28 && one 0 && one 1 && one 2 && one 3 && (at_ 0 == 127 || at_ 0 != at_ 1) && (at_ 2 == 127 || at_ 2 != at_ 3)
    && (!ok || wires == max (used 0) (used 2))

def dieStartOk (st : DieStart) : Bool :=
  identOk st.identA && identOk st.identB && sparesOk st.trainA st.wiresA st.sparesA && sparesOk st.trainB st.wiresB st.sparesB
def dieOk (d : Nat) : Bool := d < 12

def execIdent (d : Nat) (st : DieStart) (s : State) : Result :=
  need (dieOk d && dieStartOk st) (s.onChip (fun c => c.identArrive d st))
def execIdentAck (d : Nat) (s : State) : Result := need (dieOk d) (s.onChip (fun c => c.identAck d (c.capEnFor d)))
def execHold (d cause : Nat) (s : State) : Result := need (dieOk d && cause < 16) (s.onChip (fun c => c.holdArrive d cause))

/-- KEEPALIVE (R245): the I/O die has heard the die on a link. -/
def execKeepalive (k : Nat) (s : State) : Result :=
  need (k < 24) (s.onChip (fun c =>
    if c.linkState k = 2 then c.setLinkEnd k false { c.linkEnd k false with lastHeard := c.now } else c))

-- commands of a die

/-- PKG_DIE_CTL_n (R242): from W1 and Uzomuris, in the states the table gives. -/
def Chip.dieCmd (c : Chip) (who : Who) (d : Nat) (accepted : List Nat) (f : Chip → Chip) : Chip :=
  c.ifMay who.sealed who (.PKG_DIE_CTL d) (fun x =>
    if accepted.contains (x.dieState d) then f x else x.setBit (.PKG_DIE_STATUS d) F.PKG_DIE_STATUS_REFUSED true)

/-- The dirty lines of an L2. -/
def Chip.dirtyLines (c : Chip) (h : Nat) : List Nat := (c.l2Lines h).filter (fun line => (c.l2at h line).st.dirty)

/-- Every L2 of a die writes back its dirty lines (R243 step 2). -/
def Chip.flushDie (c : Chip) (d : Nat) : Chip :=
  ((dieHarts d).foldl (fun x h => (x.dirtyLines h).foldl (fun y line => y.evictL2 h line) x) c).sendWritebacks

/-- A quiescing die has nothing more to do (R243 steps 1 to 3): no request, no dirty line, no write-back, no snoop that
waits, no home transaction that still asks it or counts on its copies. -/
def Chip.dieSettled (c : Chip) (d : Nat) : Bool :=
  !c.miss.any (fun m => m.req.die == d) && (dieHarts d).all (fun h => (c.dirtyLines h).isEmpty)
    && !c.wb.any (fun e => e.h / 24 == d) && !c.snoopQ.any (fun m => m.die == d)
    && !c.txn.any (fun t => !t.granted && (t.await.contains d || t.before.ptrs.contains d
      || (2 ≤ t.before.state && t.before.owner == d)))

/-- QUIESCE (R243): every hart stops, what has not retired is discarded, and the L2s write back. -/
def Chip.startQuiesce (c : Chip) (d : Nat) : Chip :=
  ((dieHarts d).foldl (fun (x : Chip) h => x.onHart h Hart.stop) ((c.setDieState d 3 0).onDie d (fun x =>
    { x with quiesced := false }))).flushDie d

/-- QUIESCED (R243 steps 3 and 4): once every issued request has completed and every dirty line is home, the halls purge
the entries that name the die. -/
def Chip.quiescedArrive (c : Chip) (d : Nat) : Chip :=
  if c.dieState d ≠ 3 then c
  else if c.dieSettled d then (c.quiescePurge d).onDie d (fun x => { x with quiesced := true })
  else c.flushDie d

/-- The quiesce ends (R243 step 5): both ports fenced, STATE 4, the die-state event. -/
def Chip.quiesceDone (c : Chip) (d : Nat) : Chip :=
  if c.dieState d ≠ 3 ∨ !(c.die d).quiesced then c
  else ((diePorts d).foldl (fun (x : Chip) p => x.setPortState p.1 p.2 2) (c.setDieState d 4 0)).raiseEvent (192 + d)

def execQuiesce (who : Who) (d : Nat) (s : State) : Result :=
  need (dieOk d) (s.onChip (fun c => c.dieCmd who d [2] (fun x => x.startQuiesce d)))
def execQuiesced (d : Nat) (s : State) : Result := need (dieOk d) (s.onChip (fun c => c.quiescedArrive d))
def execDieQuiesceDone (d : Nat) (s : State) : Result := need (dieOk d) (s.onChip (fun c => c.quiesceDone d))
def execDieReset (who : Who) (d : Nat) (st : DieStart) (s : State) : Result :=
  need (dieOk d && dieStartOk st) (s.onChip (fun c => c.dieCmd who d [0, 4, 5, 6] (fun x => x.startDie d st)))

/-- POWER_OFF (R242): the rail is turned off and the links are down, but a failed one, which stays failed to the next reset (R235); the
die-state event. -/
def Chip.dieOff (c : Chip) (d : Nat) : Chip :=
  (((((c.dieClear d).moveLinks d 0 [1, 2, 4]).clearLinks d).setDieState d 0 0).railOff d).raiseEvent (192 + d)

def execDiePowerOff (who : Who) (d : Nat) (s : State) : Result :=
  need (dieOk d) (s.onChip (fun c => c.dieCmd who d [4, 5, 6] (fun x => x.dieOff d)))

/-- A die makes no progress (R245): a snoop to it has been unanswered, or both its links silent, for DIE_TIMEOUT_US. -/
def Chip.dieStuck (c : Chip) (d : Nat) : Bool :=
  let t := c.fld .PKG_DIE_CFG F.PKG_DIE_CFG_DIE_TIMEOUT_US * 1000
  c.txn.any (fun x => x.await.contains d && x.since + t ≤ c.now)
    || ((c.linkEnd (2 * d) false).lastHeard + t ≤ c.now && (c.linkEnd (2 * d + 1) false).lastHeard + t ≤ c.now)

def execDieResponseTimeout (d : Nat) (s : State) : Result :=
  need (dieOk d) (s.onChip (fun c => if c.dieUp d && c.dieStuck d then c.loseDie d 2 else c))

-- bundles reach an end

/-- A control unit that an end of a link receives does what it says (R230, R234, R238, R239, R243): an IDENT is kept until every trained
link of the die has brought one. Those that only Jotor-P carries are read in Machine/Pair.lean (R395, R404). -/
def Chip.control (c : Chip) (k : Nat) (atDie : Bool) (u : Line) : Chip :=
  let n := u.toNat
  let d := k / 2
  match n % 256, atDie with
  | 1, false =>
    if 24 ≤ k then c
    else
      let c1 := c.setLinkEnd k false { c.linkEnd k false with identIn := some (ctlIdent u) }
      let id := fun (i : Nat) => (c1.linkEnd (2 * d + i) false).identIn
      let blank : Ident := { link := 0, stepping := 0, serial := 0, cap := 0, failMask := 0 }
      if (List.range 2).all (fun i => c1.linkState (2 * d + i) != 2 || (id i).isSome) then
        c1.identArrive d { trainA := c1.linkState (2 * d) == 2, trainB := c1.linkState (2 * d + 1) == 2
                           identA := (id 0).getD blank, identB := (id 1).getD blank }
      else c1
  | 2, true => if k < 24 then c.identAck d (bits n 127 96) else c
  | 3, true => if k < 24 then c.holdArrive d (bits n 15 8) else c
  | 4, _ => c.linkDown (k / 2 * 2 + bits n 15 8 % 2) atDie (bits n 31 16 % seqMod k)
  | 5, _ => c.failover (k / 2 * 2 + bits n 15 8 % 2) atDie (bits n 31 16 % seqMod k)
  | 7, false => if k < 24 then c.quiescedArrive d else c
  | _, _ => c

/-- A bundle on a die link (R226 to R232). The other end sends the next of those it resends, or a new one, which enters its replay buffer;
what arrives is that bundle, or one that fails its CRC. A good bundle that the other end has not sent does not arrive. -/
def Chip.dieBundle (c : Chip) (k : Nat) (atDie : Bool) (b : Bundle) : Chip :=
  let o := c.linkEnd k (!atDie)
  let good := bndGood b
  let ctl := if good then bndCtl b else o.ctl
  if !ctl.all (fun u => c.ctlOk k atDie u || o.ctl.contains u) then c
  else
    match c.sends k (!atDie) ctl with
    | none => if good then c else c.discard k atDie false
    | some s =>
      if !good then (c.noteSent k (!atDie) s).discard k atDie false
      else if b.units ≠ s.units ∨ b.trailer ≠ (o.form k s).trailer then c
      else
        let c2 := (c.noteSent k (!atDie) s).readTrailer k atDie b
        if s.seq = (c2.linkEnd k atDie).expSeq then
          let c3 := c2.setLinkEnd k atDie ((c2.linkEnd k atDie).pass k s)
          (bndCtl b).foldl (fun x u => x.control k atDie u)
            (c3.setLinkEnd k (!atDie) ((c3.linkEnd k (!atDie)).passedOn s.seq))
        else c2.discard k atDie true

-- Jotor-P

/-- The packets that units on Jotor-P spell (R227, R404): MIR_WR is a header unit and its line, MIR_ACK one unit; control units stand
between packets. None where they spell none: no bundle begins in the midst of a packet. -/
def pairPackets : List (Nat × Line) → Option (List (List Line))
  | [] => some []
  | (2, _) :: l => pairPackets l
  | (0, h) :: (1, v) :: l => if h.toNat % 256 = 1 then (pairPackets l).map ([h, v] :: ·) else none
  | (0, h) :: l => if h.toNat % 256 = 2 then (pairPackets l).map ([h] :: ·) else none
  | _ => none

/-- The units of MIR_WR and MIR_ACK (R404). -/
def mirWrUnits (region line seq : Nat) (poison copy : Bool) (data : Line) : List Line :=
  [BitVec.ofNat 512 (1 + 256 * region + 4096 * flag poison + 8192 * flag copy + 2 ^ 16 * line + 2 ^ 64 * seq), data]
def mirAckUnits (region seq : Nat) (refused : Bool) : List Line :=
  [BitVec.ofNat 512 (2 + 256 * region + 2 ^ 64 * seq + 2 ^ 96 * flag refused)]

/-- The IDENT this package sends on pair link k (R395, R406): STATE before a start is that of the latest PAIR_STATE record of another start;
on a retraining it is the current one. -/
def Chip.pairIdentUnit (c : Chip) (k : Nat) : Line :=
  let before := match c.records.find? (fun r => r.type == 0x60 && 1 < sliceNum r.payload 0 1) with
    | some r => sliceNum r.payload 0 1
    | none => 0
  let st := if c.fld .PAIR_STATUS F.PAIR_STATUS_STATE = 1 then before else c.fld .PAIR_STATUS F.PAIR_STATUS_STATE
  BitVec.ofNat 512 (1 + 2 ^ 8 * (k - 24) + 2 ^ 16 * c.fld .PAIR_STATUS F.PAIR_STATUS_ROLE + 2 ^ 24 + 2 ^ 32 * (Config.pkgSerial % 2 ^ 64)
    + 2 ^ 96 * c.fld .PKG_CAP_COMMON F.PKG_CAP_COMMON_CAP + 2 ^ 128 * st + 2 ^ 136 * flag c.pair.srcAtSep + 2 ^ 137 * flag c.pair.tracking)

/-- The target's address of a line of region n (R399). -/
def Chip.remoteLine (c : Chip) (n line : Nat) : Nat :=
  line - 64 * F.PAIR_REGION_BASE_PAGE.get (sget 0 n c.pair.base) + 64 * F.PAIR_REGION_PAGE.get (sget 0 n c.pair.remote)

/-- The MIR_WRs that have not been sent yet on a pair link, and the MIR_ACKs that are owed on it (R399, R404). -/
def Chip.mirNext (c : Chip) (k : Nat) : List MirLine := c.pair.queue.filter (fun e => e.link == k && !e.sent)
def Chip.ackNext (c : Chip) (k : Nat) : List (Nat × Nat × Bool) := c.pair.ackOwed.filter (fun a => c.pairLink a.1 == k)
def Chip.mirUnits (c : Chip) (e : MirLine) : List Line :=
  mirWrUnits e.region (c.remoteLine e.region e.line) (e.seq % 2 ^ 32) e.poison e.copy e.data

/-- The packets of a VC. -/
def ofVc (v : Nat) (l : List (List Line)) : List (List Line) := l.filter (fun p => headerVc 24 (p.headD 0).toNat == v)

/-- A bundle that this package sends on pair link k carries what it has to send: lines and acknowledgements in their order, its IDENT, the
control units that wait, and PAIR_CFG, whose contents R404 does not lay out (log entry 74). -/
def Chip.pairSays (c : Chip) (k : Nat) (l : List (List Line)) (ctl : List Line) : Bool :=
  let w := ofVc 0 l
  let a := ofVc 1 l
  w == ((c.mirNext k).take w.length).map c.mirUnits && a == ((c.ackNext k).take a.length).map (fun x => mirAckUnits x.1 x.2.1 x.2.2)
    && ctl.all (fun u => u == c.pairIdentUnit k || (u.toNat % 256 == 10 && !c.pair.said.isEmpty) || (c.linkEnd k false).ctl.contains u)

/-- What a bundle carried has been sent. -/
def Chip.pairSent (c : Chip) (k : Nat) (l : List (List Line)) : Chip :=
  let w := (c.mirNext k).take (ofVc 0 l).length
  let a := (c.ackNext k).take (ofVc 1 l).length
  { c with pair := { c.pair with queue := c.pair.queue.map (fun e => if w.contains e then { e with sent := true } else e)
                                 ackOwed := c.pair.ackOwed.filter (fun x => !a.contains x) } }

/-- A control unit of pair link k (R230, R395, R404): a type that Jotor-P carries, its unused bytes zero. -/
def pairCtlOk (k : Nat) (u : Line) : Bool :=
  let n := u.toNat
  match n % 256 with
  | 1 => bits n 15 8 == k - 24 && bits n 23 16 < 4 && bits n 31 24 == 1 && bits n 135 128 < 8 && n < 2 ^ 138
  | 4 | 5 => bits n 15 8 < 2 && bits n 31 16 < seqMod k && n < 2 ^ 32
  | 8 => bits n 15 8 < 8 && bits n 23 16 < 8 && bits n 63 24 == 0 && n < 2 ^ 160
  | 9 => n < 256
  | t => t == 10

/-- The units of packets of Jotor-P on a VC. -/
def pairUnits (v : Nat) (l : List (List Line)) : Nat :=
  ((ofVc v l).map List.length).sum

/-- A running count of R229 for each VC of Jotor-P, with the units of some packets added. -/
def addUnits (l : List (List Line)) (m : Sparse Nat) : Sparse Nat :=
  forUpTo 2 (fun v x => sset 0 v ((sget 0 v x + pairUnits v l) % 256) x) m

/-- The first n units of a VC leave the receive buffer of Jotor-P. -/
def LinkEnd.pairFree (e : LinkEnd) (v n : Nat) : LinkEnd :=
  let l := ofVc v e.pairBuf
  let gone := ((List.range (l.length + 1)).find? (fun i => n ≤ pairUnits v (l.take i))).getD 0
  { e with pairBuf := (l.take gone).foldl (fun x p => dropFirst p x) e.pairBuf, freed := sset 0 v ((sget 0 v e.freed + n) % 256) e.freed }

/-- The partner's end as the counts of its trailer show it (R229): the partner has passed on packets that it had received. None where a
count says that it passed on what it never received, or names other VCs than its rotation (log entry 131, DEDUCED). -/
def LinkEnd.partnerFreed (e : LinkEnd) (b : Bundle) : Option LinkEnd :=
  (List.range 3).foldl (fun x i =>
    match x with
    | none => none
    | some y =>
      let v := (e.crNext + i) % 11
      let n := (Bundle.field b (81 + 12 * i) (74 + 12 * i) + 256 - sget 0 v y.freed) % 256
      if (List.range 25).any (fun j => pairUnits v ((ofVc v y.pairBuf).take j) == n) then
        some (y.pairFree v n)
      else none) (some e)

/-- The transmitter of a bundle on Jotor-P, as that bundle's counts show it: of this package it is as it stands. -/
def LinkEnd.shownBy (o : LinkEnd) (atDie : Bool) (b : Bundle) : Option LinkEnd := if atDie then some o else o.partnerFreed b

/-- The bundle that the other end of a pair link sends next (R231): the first of those it resends, or a new one. Which units are in it is
not known before it arrives whole; then they stand in the replay buffer, and a later sending is the same. -/
def LinkEnd.pairSends (o : LinkEnd) (depth : Nat) (b : Bundle) : Option SentBundle :=
  match o.resend with
  | s :: _ =>
    if s.bad then none
    else if s.units = [] then some { s with units := b.units, slots := bndSlots b }
    else if s.units = b.units ∧ s.slots = bndSlots b then some s else none
  | [] =>
    if depth ≤ o.replay.length then none
    else some { seq := o.nextSeq, units := b.units, slots := bndSlots b, pkts := [], passed := false }

/-- A bundle of Jotor-P has been sent: it stays in the replay buffer, with its units once they are known. -/
def LinkEnd.pairNote (o : LinkEnd) (k now : Nat) (s : SentBundle) : LinkEnd :=
  let o1 := if o.resend.isEmpty then o.note k now s
    else { o with resend := o.resend.tail, replay := o.replay.map (fun x => if x.seq = s.seq then { s with passed := x.passed } else x) }
  o1.sentTrailer

/-- A trailer-only bundle arrives (R228, R231): read when its CRC is good, and otherwise nothing. Its trailer is the one that the other end
sends. -/
def Chip.trailerOnly (c : Chip) (k : Nat) (atDie : Bool) (b : Bundle) : Chip :=
  match (c.linkEnd k (!atDie)).shownBy (k < 24 || atDie) b with
  | none => c
  | some o =>
    if bndGood b && b.trailer == o.trailer k (bndSeq k b) [] [] then (c.setLinkEnd k (!atDie) o.sentTrailer).readTrailer k atDie b
    else c

/-- A bundle on a pair link (R227 to R232, R248). One whose CRC fails was sent, and stays to be resent. One that arrives whole is the next
that the other end sends: packets that have their credits (R229), from this package what it has to send, and its trailer. Its packets enter the receive buffer. The control units
of an accepted bundle are answered. -/
def Chip.pairBundle (c : Chip) (k : Nat) (atDie : Bool) (b : Bundle) : Chip × List Line :=
  let o := c.linkEnd k (!atDie)
  if !bndGood b then
    let sent : Option SentBundle := match o.resend with
      | s :: _ => if s.bad then none else some s
      | [] => if c.replayDepth k (!atDie) ≤ o.replay.length then none
        else some { seq := o.nextSeq, units := [], slots := [], pkts := [], passed := false }
    ((match sent with
      | some s => c.setLinkEnd k (!atDie) (o.pairNote k c.now s)
      | none => c).discard k atDie false, [])
  else
    match pairPackets ((bndSlots b).zip b.units), o.pairSends (c.replayDepth k (!atDie)) b, o.shownBy atDie b with
    | some l, some s, some o1 =>
      let known : Bool := match o.resend with
        | x :: _ => x.units != []
        | [] => false
      if (!known && (List.range 2).any (fun v => o1.room v < pairUnits v l)) || b.trailer != (o1.form k s).trailer
        || !(bndCtl b).all (pairCtlOk k) || (atDie && !known && !c.pairSays k l (bndCtl b)) then (c, [])
      else
        let o2 := o1.pairNote k c.now s
        let c0 := if atDie && !known then c.pairSent k l else c
        let c1 := (c0.setLinkEnd k (!atDie) (if known then o2 else { o2 with sent := addUnits l o2.sent })).readTrailer k atDie b
        if s.seq = (c1.linkEnd k atDie).expSeq then
          let e := (c1.linkEnd k atDie).pass k s
          let c2 := c1.setLinkEnd k atDie { e with pairBuf := e.pairBuf ++ l }
          (c2.setLinkEnd k (!atDie) ((c2.linkEnd k (!atDie)).passedOn s.seq), bndCtl b)
        else (c1.discard k atDie true, [])
    | _, _, _ => (c, [])

/-- A bundle reaches an end of a link (R231), and the control units of one accepted on Jotor-P: one whose beats are neither data nor trailer
fails its CRC (R226). -/
def Chip.bundle (c : Chip) (k : Nat) (atDie : Bool) (b : Bundle) : Chip × List Line :=
  if c.linkState k ≠ 2 then (c, [])
  else
    let c0 := c.setLinkEnd k atDie { c.linkEnd k atDie with lastHeard := c.now }
    if b.units.isEmpty ∧ Bundle.field b 53 50 = 0 then (c0.trailerOnly k atDie b, [])
    else if k < 24 then (c0.dieBundle k atDie b, [])
    else c0.pairBundle k atDie b

end Sys2Proof.Machine
end

