-- ==== Sys2Proof/Machine/Supply.lean ====
section
/-! DEFINITION. Time and supply: the time base (R36, R37), droops, brown-out and retention (R38, R39, R47 to R51), the
pacers (R52, R53), DROOP_N (R55), PMBus (R56), and power limits (R57 to R59). -/

namespace Sys2Proof.Machine

-- the time base

/-- REFCLK fails (R37): holdover is entered, and the time-base fault and event are raised. A failure during a holdover ends a return of
REFCLK that has begun. -/
def Chip.refclkFail (c : Chip) : Chip :=
  let c0 := ({ c with refclkGoodAt := none } : Chip).setBit .PKG_TIME_STATUS F.PKG_TIME_STATUS_REFCLK_OK false
  if c.bit .PKG_TIME_STATUS F.PKG_TIME_STATUS_HOLDOVER then c0
  else
    ((c0.setBit .PKG_TIME_STATUS F.PKG_TIME_STATUS_HOLDOVER true).setBit .PKG_TIME_STATUS F.PKG_TIME_STATUS_HOLDOVER_SEEN
      true).reportLevel unitUz 5 0x5000 1 15 |>.raiseEvent 17

/-- During a holdover REFCLK is back within its window: REFCLK_OK sets, and the 100 µs of R37 begin. When it is back is the board's: a
free value of each tick (log entry 75). -/
def Chip.refclkBack (c : Chip) : Chip :=
  if c.bit .PKG_TIME_STATUS F.PKG_TIME_STATUS_HOLDOVER && c.refclkGoodAt.isNone && Config.refclkBack c.now then
    ({ c with refclkGoodAt := some c.now } : Chip).setBit .PKG_TIME_STATUS F.PKG_TIME_STATUS_REFCLK_OK true
  else c

/-- REFCLK has been good for 100 µs (R37): holdover ends without a step in the count. -/
def Chip.refclkGood (c : Chip) : Chip :=
  match c.refclkGoodAt with
  | none => c
  | some t =>
    if c.bit .PKG_TIME_STATUS F.PKG_TIME_STATUS_HOLDOVER && t + 100000 ≤ c.now then
      ((({ c with refclkGoodAt := none } : Chip).setBit .PKG_TIME_STATUS F.PKG_TIME_STATUS_HOLDOVER false).setCause 5
        false).raiseEvent 17
    else c

def execRefclkFailure (s : State) : Result := s.onChip Chip.refclkFail
def execHoldoverExit (s : State) : Result := s.onChip Chip.refclkGood

/-- The largest difference between two receivers of package time so far (MAX_SKEW): at most 2 ticks (R35), and never falling. -/
def Chip.noteSkew (c : Chip) : Chip :=
  c.setFld .PKG_TIME_STATUS F.PKG_TIME_STATUS_MAX_SKEW (max (Config.maxSkew c.now % 3)
    (c.fld .PKG_TIME_STATUS F.PKG_TIME_STATUS_MAX_SKEW))

/-- A hart is neither in WFI nor halted, nor held in reset: its retire stage runs (R34). -/
def Hart.retireRuns (x : Hart) : Bool := x.run == .running || x.run == .clearing

/-- The handshakes of a hart's retire stage in a tick (R34): as many as a free value says, none while its die's rail is below 0.50 V. -/
def Chip.handshakesOf (c : Chip) (h : Nat) : Nat :=
  if (c.die (hartDie h)).belowSince.isSome then 0 else Config.handshakes c.free h

/-- A tick of a hart whose retire stage runs: mcycle counts its handshakes (R7, R34), and so do the events of R73 that are handshakes, those
while the pacer limits and those under DROOP_N's emergency; event 0x0005 counts the tick. -/
def Chip.hartTick (c : Chip) (h : Nat) : Chip :=
  let n := c.handshakesOf h
  let c1 := (c.onHart h (fun x => x.setCsr 0xB00 (x.getCsr 0xB00 + BitVec.ofNat 64 n))).countEvent h 0x1 n
  let c2 := if c.bit (.CD_PACER_STATUS (hartDie h)) F.CD_PACER_STATUS_LIMITING then c1.countEvent h 0x3 n else c1
  let c3 := if c.bit (.CD_PACER_STATUS (hartDie h)) F.CD_PACER_STATUS_EMERGENCY then c2.countEvent h 0x4 n else c2
  c3.countEvent h 0x5

/-- The harts whose retire stage runs. -/
def Chip.retiring (c : Chip) : List Nat := (c.harts.filter (fun e => e.2.retireRuns)).map (fun e => e.1)

/-- Package time advances by one tick while it runs (R6, R36), in which the harts' counters count (R34), and every write-back waiting in an
L2's buffer is passed to its die's egress (R167). -/
def Chip.tick (c : Chip) : Chip :=
  let c1 := if c.bit .PKG_TIME_STATUS F.PKG_TIME_STATUS_RUNNING then
      (c.retiring.foldl Chip.hartTick
        ((({ c with now := (c.now + 1) % 2 ^ 64 } : Chip).noteSkew).refclkBack)).nextFree
    else c
  c1.sendWritebacks

-- rails

/-- The lowest level of a die's rail is kept (V_MIN_MV). -/
def Chip.noteMin (c : Chip) (d mv : Nat) : Chip :=
  c.setFld (.CD_SUPPLY_STATUS d) F.CD_SUPPLY_STATUS_V_MIN_MV (min mv (c.fld (.CD_SUPPLY_STATUS d) F.CD_SUPPLY_STATUS_V_MIN_MV))

/-- The level of a compute die's rail (R38, R39): BELOW_FUNC follows it; a level below the retention floor, for however short a time, is
kept until the die is next reset (R49). A die that waits in reset for its rail trains its links once it is within R43 (R236). -/
def Chip.setDieMv (c : Chip) (d mv : Nat) : Chip :=
  let c1 := ({ c with rail := sset 0 d mv c.rail } : Chip).onDie d (fun x =>
    { x with mv := mv, floorLost := x.floorLost || mv < 420
             belowSince := if mv < 500 then some (x.belowSince.getD c.now) else none })
  ((c1.setFld (.CD_SUPPLY_STATUS d) F.CD_SUPPLY_STATUS_V_NOW_MV (min mv 1023)).setBit (.CD_SUPPLY_STATUS d)
    F.CD_SUPPLY_STATUS_BELOW_FUNC (mv < 500)).noteMin d mv |>.trainWaiting d

/-- The limits of R43 of the I/O die's own rails, in mV: VIOD against 0.50 V (R50), the clocked rails against their
windows (R51). -/
def railLow (rail : Nat) : Nat := match rail with | 12 => 500 | 13 => 1067 | 14 => 873 | _ => 1164
def railHigh (rail : Nat) : Nat := match rail with | 12 => 900 | 13 => 1133 | 14 => 927 | _ => 1236

/-- The fault of a rail of the I/O die: 1 for VIOD, 2 to 4 for the clocked rails (R326). -/
def railFault (rail : Nat) : Nat := rail - 11

/-- The level of VIOD or of a clocked rail: the time from which it is out of its limits; its fault's condition ends when it
returns. -/
def Chip.setRail (c : Chip) (rail mv : Nat) : Chip :=
  let bad : Bool := mv < railLow rail || (rail != 12 && railHigh rail < mv)
  let since := sget 0 rail c.railBadAt
  let c1 : Chip := { c with rail := sset 0 rail mv c.rail
                            railBadAt := sset 0 rail (if bad then (if since = 0 then c.now + 1 else since) else 0) c.railBadAt
                            viodFloor := c.viodFloor || (rail == 12 && mv < 420) }
  if bad then c1 else c1.setCause (railFault rail) false

/-- A change of voltage or temperature (R38): it alters durations only; the supervisors note the level. -/
def Chip.supplyChange (c : Chip) (rail mv tj : Nat) : Chip :=
  if rail < 12 then (c.setDieMv rail mv).onDie rail (fun x => { x with tj := tj }) else c.setRail rail mv

/-- Main rails lost otherwise than by a power-off lose the contents of DRAM (R456). -/
def Pkg.supplyChange (p : Pkg) (rail mv tj : Nat) : Pkg :=
  let q := p.onChip (fun c => c.supplyChange rail mv tj)
  if 12 ≤ rail ∧ mv = 0 then q.dropDram else q

def execSupplyChange (rail mv tj : Nat) (s : State) : Result :=
  need (rail < 16 && mv < 1024 * 2 && tj < 256) (s.onPkg (fun p => p.supplyChange rail mv tj))

/-- The level below which the I/O die's supervisor counts a droop event of VIOD, in mV: the reset value of DROOP_MARK_MV (log entry
76, DESIGN CHOICE: the manual gives VIOD no register for it). -/
def iodDroopMark : Nat := 580

/-- A droop event of a compute die's rail (R47), which Uzomuris adds to the life record's count; a dip below the retention floor is
kept (R49). -/
def Chip.droop (c : Chip) (d mv : Nat) : Chip :=
  if mv < c.fld (.CD_SUPPLY_CFG d) F.CD_SUPPLY_CFG_DROOP_MARK_MV then
    let n := sget 0 d c.uz.dieDroops
    let c1 : Chip := { c with uz := { c.uz with dieDroops := sset 0 d ((n + 1) % 2 ^ 32) c.uz.dieDroops } }
    ((c1.onDie d (fun x => { x with floorLost := x.floorLost || mv < 420 })).noteMin d mv).bump (.CD_SUPPLY_STATUS d)
      F.CD_SUPPLY_STATUS_DROOP_COUNT
  else c

/-- A droop event of VIOD (R50): as R47 and R49, in the I/O die's own supervisor. -/
def Chip.iodDroop (c : Chip) (mv : Nat) : Chip :=
  if mv < iodDroopMark then { c with iodDroops := c.iodDroops + 1, viodFloor := c.viodFloor || mv < 420 } else c

/-- DROOP_EVENT of the rail of die d, or of the I/O die (12). -/
def execDroopEvent (d mv : Nat) (s : State) : Result :=
  need (d < 13 && mv < 1024) (s.onChip (fun c => if d = 12 then c.iodDroop mv else c.droop d mv))

/-- A die's rail has been below 0.50 V for more than 1,000 ticks (R48). -/
def Chip.browned (c : Chip) (d : Nat) : Bool :=
  match (c.die d).belowSince with
  | some t => t + 1000 < c.now
  | none => false

/-- The die brown-out fault of a die (R326), reported by the I/O die on its behalf (R328). -/
def Chip.brownoutFault (c : Chip) (d : Nat) : Chip :=
  c.reportLevel (unitSup 0) (64 + 12 * d + 2) (0x1000 + 16 * d + 2) 1 15

def Chip.brownout (c : Chip) (d : Nat) : Chip :=
  if c.browned d && c.dieState d != 0 && c.dieState d != 5 then
    (c.setBit (.CD_SUPPLY_STATUS d) F.CD_SUPPLY_STATUS_BROWNOUT true).brownoutFault d
  else c

def execBrownout (d : Nat) (s : State) : Result := need (dieOk d) (s.onChip (fun c => c.brownout d))

/-- A powered die's rail is, or for some time was, below the retention floor (R49). -/
def Chip.belowFloor (c : Chip) (d : Nat) : Bool :=
  ((c.die d).mv < 420 || (c.die d).floorLost) && c.dieState d != 0 && c.dieState d != 5

/-- Retention is lost (R49): RETENTION_LOST, the die brown-out fault at once, and the die is lost (R245). -/
def Chip.retentionLost (c : Chip) (d : Nat) : Chip :=
  if c.belowFloor d then
    ((c.setBit (.CD_SUPPLY_STATUS d) F.CD_SUPPLY_STATUS_RETENTION_LOST true).brownoutFault d).loseDie d 3
  else c

def execRetentionLost (d : Nat) (s : State) : Result := need (dieOk d) (s.onChip (fun c => c.retentionLost d))

/-- The rail returns above 0.50 V (R39): work goes on where it stood. -/
def execRailRecovery (d mv : Nat) (s : State) : Result :=
  need (dieOk d && 500 ≤ mv && mv < 1024) (s.onChip (fun c => if c.dieState d = 0 ∨ c.dieState d = 5 then c else c.setDieMv d mv))

/-- The I/O die browns out (R50). Below the retention floor a package reset is owed, which Uzomuris performs with PACKAGE_RESET once
VIOD is back within R43 (resetPending). -/
def Chip.iodBrownout (c : Chip) (retention : Bool) : Chip :=
  let mv := sget 0 12 c.rail
  let since := sget 0 12 c.railBadAt
  let f := fun (x : Chip) => x.reportLevel (unitSup 0) 1 (0x7000 + 67) 1 15
  if retention then
    if mv < 420 || c.viodFloor then { f c with uz := { c.uz with resetPending := true } } else c
  else if since ≠ 0 ∧ since + 1000 ≤ c.now then f c
  else c

def execIodBrownout (retention : Bool) (s : State) : Result := s.onChip (fun c => c.iodBrownout retention)

/-- A clocked rail has been outside its window for more than 200 ticks (R51). -/
def Chip.phyFault (c : Chip) (rail : Nat) : Chip :=
  let since := sget 0 rail c.railBadAt
  if since ≠ 0 ∧ since + 200 ≤ c.now then c.reportLevel (unitSup (rail - 12)) (railFault rail) (0x7000 + 68 + (rail - 13)) 1 15
  else c

def execPhyRailFault (rail : Nat) (s : State) : Result :=
  need (13 ≤ rail && rail < 16) (s.onChip (fun c => c.phyFault rail))

/-- A write to CD_SUPPLY_STATUS: the W1C bits, which set again while their cause holds (R10), and V_MIN_RESET. -/
def Chip.supplyStatusWrite (c : Chip) (who : Who) (d : Nat) (v : Word) : Chip :=
  let r := Reg.CD_SUPPLY_STATUS d
  let c1 := c.writeFields who r v
  let c2 := if c1.browned d && c.bit r F.CD_SUPPLY_STATUS_BROWNOUT then c1.setBit r F.CD_SUPPLY_STATUS_BROWNOUT true else c1
  let c3 := if F.CD_SUPPLY_STATUS_V_MIN_RESET.get v = 1 then c2.setFld r F.CD_SUPPLY_STATUS_V_MIN_MV 1023 else c2
  if c3.bit r F.CD_SUPPLY_STATUS_BROWNOUT || c3.bit r F.CD_SUPPLY_STATUS_RETENTION_LOST then c3
  else c3.setCause (64 + 12 * d + 2) false

def execVMinReset (who : Who) (d : Nat) (s : State) : Result :=
  need (dieOk d) (s.onChip (fun c => c.supplyStatusWrite who d (F.CD_SUPPLY_STATUS_V_MIN_RESET.put 0 1)))

-- the pacers

/-- The ceiling of a die in units of 0.01 A: the lower of ICC_MAX and CAP_A (R52). -/
def Chip.ceiling (c : Chip) (d : Nat) : Nat :=
  100 * min (c.fld (.CD_PACER_CFG d) F.CD_PACER_CFG_ICC_MAX) (c.fld (.CD_PACER_STATUS d) F.CD_PACER_STATUS_CAP_A)

/-- The issue widths of the pacer, one step down, and one step up once it no longer limits (log entry 77, DESIGN CHOICE: the manual gives
the steps down only, and the model goes back one step at each update). -/
def widthDown (n : Nat) : Nat := match n with | 8 => 6 | 6 => 4 | 4 => 2 | _ => 1
def widthUp (n : Nat) : Nat := match n with | 1 => 2 | 2 => 4 | 4 => 6 | _ => 8

/-- EMERGENCY of a die: the response to DROOP_N is in force. -/
def Chip.emergency (c : Chip) (d : Nat) : Bool := c.bit (.CD_PACER_STATUS d) F.CD_PACER_STATUS_EMERGENCY

/-- By how much the allowance may grow in an update (R52, R53), in units of 0.01 A: RATE × 10 ns, within what is left of the die's share of
PKG_RATE; nothing while EMERGENCY is set (R55). -/
def Chip.growth (c : Chip) (d : Nat) : Nat :=
  let rate := c.fld (.CD_PACER_CFG d) F.CD_PACER_CFG_RATE
  if c.emergency d then 0
  else if c.bit .PKG_PACER_CFG F.PKG_PACER_CFG_PKG_EN then min rate (c.die d).pkgShare else rate

/-- The allowance after an update (R52, R53), in units of 0.01 A: it falls with the estimate, grows from there by no more than it may, and
never passes the ceiling. So the current, which stays within the allowance, rises by no more than the growth of each update. -/
def Chip.newAllow (c : Chip) (d est : Nat) : Nat := min (min (c.die d).allow est + c.growth d) (c.ceiling d)

/-- The pacer spaces the tile step grants among a die's cores in round-robin order (R52): of the cores whose tile unit has work, only
the one whose turn it is gets its step, and each step withheld is counted (R119): one for each other core at each update (log entry 110,
DESIGN CHOICE: the manual gives no number). A core whose tile instructions occupy no step has none to withhold. -/
def Chip.spaceGrants (c : Chip) (d : Nat) : Chip :=
  let busy := (dieHarts d).filter (fun h => (c.hart h).tsent.any (fun n => n != 0))
  let turn := busy.find? (fun h => (c.die d).grantNext ≤ h % 24) |>.orElse (fun _ => busy.head?)
  match turn with
  | none => c
  | some g => ((busy.filter (· != g)).foldl (fun (x : Chip) h => x.countEvent h 0x41) c).onDie d (fun x =>
      { x with grantNext := (g % 24 + 1) % 24 })

/-- The estimate of a die's current in units of 0.01 A (R52): a free value that, while the pacer works, does not rise above the allowance, and
in no case passes the ceiling by more than 5 %. -/
def Chip.estimate (c : Chip) (d : Nat) : Nat :=
  let top := c.ceiling d * 105 / 100
  min (Config.freeNat c.free) (if c.bit (.CD_PACER_CFG d) F.CD_PACER_CFG_PACE_EN || c.emergency d then min top (c.die d).allow else top)

/-- PACER_UPDATE (R52, R119): the estimate and the demand of the die's work are free values, the estimate within its bounds; the
allowance follows; while the demand or the estimate exceeds it the issue width steps down, and at width 1 the tile steps are spaced. With
PACE_EN clear the ceiling alone limits. -/
def Chip.pacerUpdate (c : Chip) (d : Nat) : Chip :=
  let est := c.estimate d
  let demand := Config.freeNat (c.free + 1)
  let c0 := c.nextFree.nextFree
  let pace := c.bit (.CD_PACER_CFG d) F.CD_PACER_CFG_PACE_EN || c.emergency d
  let allow := if pace then c0.newAllow d est else c0.ceiling d
  let lim : Bool := allow < demand || allow < est
  let c1 := if lim && (c.die d).issue == 1 then c0.spaceGrants d else c0
  let c2 := c1.onDie d (fun x => { x with allow := allow, demand := demand, est := est
                                          pkgShare := x.pkgShare - (if pace then c.growth d else 0)
                                          issue := if lim then widthDown x.issue else widthUp x.issue
                                          pacedNs := if lim then x.pacedNs + 10 else x.pacedNs })
  (((c2.setFld (.CD_PACER_STATUS d) F.CD_PACER_STATUS_EST_A (min 255 (est / 100))).setFld (.CD_PACER_STATUS d)
    F.CD_PACER_STATUS_ALLOW_A (min 255 (allow / 100))).setBit (.CD_PACER_STATUS d) F.CD_PACER_STATUS_LIMITING lim).setFld
    (.CD_PACER_STATUS d) F.CD_PACER_STATUS_PACED_US ((c2.die d).pacedNs / 1000)

def execPacerUpdate (d : Nat) (s : State) : Result := need (dieOk d) (s.onChip (fun c => c.pacerUpdate d))

/-- PKG_PACER_UPDATE (R53): PKG_RATE × 100 ns, in units of 0.01 A, is divided equally among the running dies whose demand exceeds
their allowance, none receiving more than its own RATE allows. -/
def Chip.pkgPacer (c : Chip) : Chip :=
  let short := (List.range 12).filter (fun d => c.dieUp d && decide ((c.die d).allow < (c.die d).demand))
  let total := c.fld .PKG_PACER_CFG F.PKG_PACER_CFG_PKG_RATE * 10
  forUpTo 12 (fun d x =>
    let own := x.fld (.CD_PACER_CFG d) F.CD_PACER_CFG_RATE * 10
    x.onDie d (fun y => { y with pkgShare := if short.contains d then min own (total / short.length) else 0 })) c

def execPkgPacerUpdate (s : State) : Result := s.onChip Chip.pkgPacer

-- DROOP_N

/-- The compute dies that respond to DROOP_N. -/
def Chip.droopDies (c : Chip) : List Nat :=
  (List.range 12).filter (fun d => c.dieUp d && c.bit (.CD_PACER_CFG d) F.CD_PACER_CFG_DROOP_EN)

/-- DROOP_N is asserted (R55): Uzomuris counts it, and while the pin is sampled each responding die keeps EMERG_PCT % of its allowance
and EMERGENCY sets. EMERG_PCT is used as written (log entry 78, DESIGN CHOICE: its range is 1 to 100, and the manual says nothing of a
write outside it). -/
def Chip.droopAssert (c : Chip) : Chip :=
  let c0 : Chip := { c with pins := { c.pins with droopN := false }, uz := { c.uz with droops := c.uz.droops + 1 } }
  if !c.pins.droopN then c
  else if !c.bit .PKG_PACER_CFG F.PKG_PACER_CFG_DROOP_N_EN then c0
  else
    let pct := c.fld .PKG_PACER_CFG F.PKG_PACER_CFG_EMERG_PCT
    let c1 := c0.droopDies.foldl (fun (x : Chip) d =>
      let a := (x.die d).allow * pct / 100
      ((x.onDie d (fun y => { y with allow := a, droopEnd := none })).setBit (.CD_PACER_STATUS d)
        F.CD_PACER_STATUS_EMERGENCY true).setFld (.CD_PACER_STATUS d) F.CD_PACER_STATUS_ALLOW_A (min 255 (a / 100))) c0
    c1.raiseEvent 19

/-- DROOP_N rises (R55): the reduced allowances are held for DROOP_HOLD × 100 ticks. -/
def Chip.droopRelease (c : Chip) : Chip :=
  let hold := c.fld .PKG_PACER_CFG F.PKG_PACER_CFG_DROOP_HOLD * 100
  if c.pins.droopN then c
  else ((List.range 12).filter c.emergency).foldl (fun (x : Chip) d =>
    x.onDie d (fun y => { y with droopEnd := some (c.now + hold) })) { c with pins := { c.pins with droopN := true } }

/-- The hold has passed: EMERGENCY clears and the allowance grows again (R55). -/
def Chip.droopHoldEnd (c : Chip) (d : Nat) : Chip :=
  match (c.die d).droopEnd with
  | some t =>
    if t ≤ c.now ∧ c.pins.droopN then
      (c.onDie d (fun x => { x with droopEnd := none })).setBit (.CD_PACER_STATUS d) F.CD_PACER_STATUS_EMERGENCY false
    else c
  | none => c

def execDroopNAssert (s : State) : Result := s.onChip Chip.droopAssert
def execDroopNRelease (s : State) : Result := s.onChip Chip.droopRelease
def execDroopHoldExpiry (d : Nat) (s : State) : Result := need (dieOk d) (s.onChip (fun c => c.droopHoldEnd d))

-- PMBus

/-- The set-point of a rail is given to its regulator. -/
def Chip.voutCommand (c : Chip) (rail mv : Nat) : Chip := c.pmbusSend rail [.voutTransitionRate, .voutCommand mv]

/-- A read of a regulator's telemetry (R56): the rail's input and output, current, temperature and status; three misses in a row raise the
regulator communication fault, which lasts while some regulator does not answer. -/
def Chip.telemetry (c : Chip) (rail : Nat) (answered : Bool) : Chip :=
  let n := if answered then 0 else sget 0 rail c.pmbusMiss + 1
  let c1 := ({ c with pmbusMiss := sset 0 rail n c.pmbusMiss } : Chip).pmbusSend rail
    [.readVin, .readVout, .readIout, .readTemperature1, .statusWord]
  if n = 3 then c1.reportLevel unitUz 6 0x5000 1 15
  else if answered then c1.setCause 6 (c1.pmbusMiss.any (fun e => 3 ≤ e.2))
  else c1

def execPmbusTelemetryRead (rail : Nat) (answered : Bool) (s : State) : Result :=
  need (rail < 16) (s.onChip (fun c => c.telemetry rail answered))

-- power

/-- Whether some CAP_A or lowered set-point is in force (CAPPING). -/
def Chip.capped (c : Chip) : Bool :=
  (List.range 12).any (fun d => c.dieUp d
    && (c.fld (.CD_PACER_STATUS d) F.CD_PACER_STATUS_CAP_A != 255 || (c.die d).setMv < startMv))

/-- CAPPING follows what is in force. -/
def Chip.noteCapping (c : Chip) : Chip := c.setBit .PKG_POWER_STATUS F.PKG_POWER_STATUS_CAPPING c.capped

/-- Uzomuris lowers a die's ceiling to a value the manual leaves open, a free value below the one in force. -/
def Chip.lowerCap (c : Chip) (d : Nat) : Chip :=
  c.nextFree.setFld (.CD_PACER_STATUS d) F.CD_PACER_STATUS_CAP_A
    (min (Config.freeNat c.free % 255) (c.fld (.CD_PACER_STATUS d) F.CD_PACER_STATUS_CAP_A - 1))

/-- The regulator of a rail does not answer: its last set-point is held (R56). -/
def Chip.regulatorLost (c : Chip) (rail : Nat) : Bool := 3 ≤ sget 0 rail c.pmbusMiss

/-- Uzomuris gives a die's rail a set-point, in steps of 5 mV (R43), unless its regulator does not answer (R56). -/
def Chip.setPoint (c : Chip) (d mv : Nat) : Chip :=
  if c.regulatorLost d then c
  else (c.onDie d (fun x => { x with setMv := mv / 5 * 5 })).voutCommand d (mv / 5 * 5)

/-- The lowest set-point of a die's rail: VSET_MIN_MV in steps of 5 mV (R43). -/
def Chip.lowestMv (c : Chip) (d : Nat) : Nat := (c.fld (.CD_SUPPLY_CFG d) F.CD_SUPPLY_CFG_VSET_MIN_MV + 4) / 5 * 5

/-- Uzomuris lowers a die's set-point to a free value of 5 mV steps below the one in force, not below VSET_MIN_MV (R43, R58). -/
def Chip.lowerMv (c : Chip) (d : Nat) : Chip :=
  c.nextFree.setPoint d (max (c.lowestMv d) (min ((c.die d).setMv - 5) (Config.freeNat c.free)))

/-- Uzomuris raises a die's set-point to the one it started with. -/
def Chip.raiseMv (c : Chip) (d : Nat) : Chip := c.setPoint d (max (c.die d).setMv startMv)

/-- To reduce power Uzomuris first lowers CAP_A, then set-points (R58); a die whose regulator does not answer (R56), or whose set-point can
be lowered no further, is capped by CAP_A again. -/
def Chip.capPower (c : Chip) : Chip :=
  let dies := (List.range 12).filter c.dieUp
  if dies.any (fun d => c.fld (.CD_PACER_STATUS d) F.CD_PACER_STATUS_CAP_A == 255) then
    (dies.foldl (fun (x : Chip) d => x.lowerCap d) c).noteCapping
  else
    (dies.foldl (fun (x : Chip) d =>
      if x.regulatorLost d ∨ (x.die d).setMv ≤ x.lowestMv d then x.lowerCap d else x.lowerMv d) c).noteCapping

/-- To restore power Uzomuris raises set-points first, then releases CAP_A (R58); a rail whose regulator does not answer keeps its
set-point (R56), and a die at its thermal target its reduction. -/
def Chip.restorePower (c : Chip) : Chip :=
  let dies := (List.range 12).filter (fun d => c.dieUp d && (c.die d).thermSteps == 0)
  if dies.any (fun d => !c.regulatorLost d && decide ((c.die d).setMv < startMv)) then
    (dies.foldl (fun (x : Chip) d => x.raiseMv d) c).noteCapping
  else (dies.foldl (fun (x : Chip) d => x.setFld (.CD_PACER_STATUS d) F.CD_PACER_STATUS_CAP_A 255) c).noteCapping

/-- TDP_W and PEAK_MS. -/
def Chip.tdp (c : Chip) : Nat := c.fld .PKG_POWER_CFG F.PKG_POWER_CFG_TDP_W
def Chip.peakMs (c : Chip) : Nat := c.fld .PKG_POWER_CFG F.PKG_POWER_CFG_PEAK_MS

/-- The samples of the averaging window: TAU × 100 ms at one sample per 100 µs. -/
def Chip.window (c : Chip) (w : Nat) : List Nat := (w :: c.watts).take (c.fld .PKG_POWER_CFG F.PKG_POWER_CFG_TAU * 1000)

/-- POWER_SAMPLE (R57): the 100 µs average and the running average; a peak episode starts when the first passes TDP_W, if
peaks are allowed and the running average has come back since the last one, and ends when it falls back; power is capped
while it is over its limits and restored below them. -/
def Chip.powerSample (c : Chip) (w : Nat) : Chip :=
  let win := c.window w
  let avg := win.sum / win.length
  let c1 := ((({ c with watts := win } : Chip).setFld .PKG_POWER_STATUS F.PKG_POWER_STATUS_PKG_W (min w 2047)).setFld
    .PKG_POWER_STATUS F.PKG_POWER_STATUS_AVG_W (min avg 2047))
  let bar := c.peakBar && c.tdp < avg
  let c2 : Chip := { c1 with peakBar := bar }
  let active := c.bit .PKG_POWER_STATUS F.PKG_POWER_STATUS_PEAK_ACTIVE
  let above : Bool := c.fld .PKG_POWER_CFG F.PKG_POWER_CFG_PEAK_W < w || c.tdp * 101 < avg * 100
  if active then
    if w ≤ c.tdp then
      ({ c2 with peakAt := none, peakBar := decide (c.tdp < avg) } : Chip).setBit .PKG_POWER_STATUS
        F.PKG_POWER_STATUS_PEAK_ACTIVE false
    else if above then c2.capPower
    else c2
  else if c.tdp < w then
    if bar || c.peakMs == 0 then c2.capPower
    else
      let c3 := ({ c2 with peakAt := some c.now } : Chip).setBit .PKG_POWER_STATUS F.PKG_POWER_STATUS_PEAK_ACTIVE true
      if above then c3.capPower else c3
  else if c.tdp * 101 < avg * 100 then c2.capPower
  else if c2.capped then c2.restorePower
  else c2

def execPowerSample (watts : Nat) (s : State) : Result := s.onChip (fun c => c.powerSample watts)

/-- An episode that lasts PEAK_MS is ended by CAP_A ceilings (R57). -/
def Chip.peakOverrun (c : Chip) : Chip :=
  match c.peakAt with
  | none => c
  | some t =>
    if t + c.peakMs * 1000000 ≤ c.now then
      let c1 := ((List.range 12).filter c.dieUp).foldl (fun (x : Chip) d => x.lowerCap d) c
      ((({ c1 with peakAt := none, peakBar := true } : Chip).setBit .PKG_POWER_STATUS F.PKG_POWER_STATUS_PEAK_ACTIVE
        false).setBit .PKG_POWER_STATUS F.PKG_POWER_STATUS_PEAK_OVERRUN true).noteCapping.raiseEvent 18
    else c

def execPeakOverrun (s : State) : Result := s.onChip Chip.peakOverrun

/-- Every field of a value for PKG_POWER_CFG is in its range (R59). -/
def powerCfgOk (v : Word) : Bool :=
  let tdp := F.PKG_POWER_CFG_TDP_W.get v
  let peak := F.PKG_POWER_CFG_PEAK_W.get v
  600 ≤ tdp && tdp ≤ 950 && tdp ≤ peak && peak ≤ 1150 && F.PKG_POWER_CFG_PEAK_MS.get v ≤ 10
    && 1 ≤ F.PKG_POWER_CFG_TAU.get v && F.PKG_POWER_CFG_TAU.get v ≤ 100

/-- A write to PKG_POWER_CFG (R59): ignored as a whole with CFG_REJECT, or in effect. -/
def Chip.powerCfgWrite (c : Chip) (who : Who) (v : Word) : Chip :=
  c.ifMay who.sealed who .PKG_POWER_CFG (fun x =>
    if powerCfgOk v then x.storeFields .PKG_POWER_CFG v
    else x.setBit .PKG_POWER_STATUS F.PKG_POWER_STATUS_CFG_REJECT true)

def execPkgPowerCfgWrite (who : Who) (v : Word) (s : State) : Result := s.onChip (fun c => c.powerCfgWrite who v)

end Sys2Proof.Machine
end

