-- ==== Sys2Proof/Machine/Halls.lean ====
section
/-! DEFINITION. Halls and bandwidth regulation (spec/10_halls_and_flights.md): the flight and its treads (R252 to R256), the
DRAM code and the patrol engine (R314 to R322), a channel out of service (R323), guarantees, limits and windows (R258 to
R272). -/

namespace Sys2Proof.Machine

-- the shared state of regulation

/-- The rate all channels run at, in units of 100 MT/s (R250): 0 untrained. -/
def Chip.mts100 (c : Chip) : Nat :=
  (List.range 16).foldl (fun m n => max m (c.fld (.HALL_FLIGHT_STATUS n) F.HALL_FLIGHT_STATUS_MTS_100)) 0

/-- MAINT of a hall (R253): 48, or 88 while its DIMM needs double refresh. -/
def Chip.maint (c : Chip) (n : Nat) : Nat :=
  if c.bit (.HALL_FLIGHT_STATUS n) F.HALL_FLIGHT_STATUS_REFRESH_X2 then 88 else 48

/-- A hall throttles (R254). -/
def Chip.throttles (c : Chip) (n : Nat) : Bool := c.bit (.HALL_FLIGHT_STATUS n) F.HALL_FLIGHT_STATUS_THROTTLE

/-- Half of the package a DOMAIN covers holds hall n (R260). -/
def inDomain (dom n : Nat) : Bool := dom == 0 || (dom == 1 && n < 8) || (dom == 2 && 8 ≤ n)

/-- 16 times the share s_(c,h) of a class word in hall n (R260), in units of 0.1 GB/s: GUAR, or twice it in one half. -/
def share16 (w : Word) (n : Nat) : Nat :=
  let dom := F.QOS_CLASS_DOMAIN.get w
  if inDomain dom n then F.QOS_CLASS_GUAR.get w * (if dom = 0 then 1 else 2) else 0

/-- The sum of the shares of the committed classes in hall n, times 16. -/
def Chip.guarSum (c : Chip) (n : Nat) : Nat := (List.range 15).foldl (fun a k => a + share16 (c.clsWord k) n) 0

/-- SCALE of QOS_STATUS. -/
def Chip.scale (c : Chip) : Nat := c.fld .QOS_STATUS F.QOS_STATUS_SCALE

/-- The guaranteed treads of class k in hall n (R260): ceil(SCALE × s / P). -/
def Chip.guarTreads (c : Chip) (n k : Nat) : Nat :=
  let p := 128 * c.fld (.HALL_FLIGHT_STATUS n) F.HALL_FLIGHT_STATUS_MTS_100
  if p = 0 then 0 else (c.scale * share16 (c.clsWord k) n + p - 1) / p

/-- D_h times 16 × 3,904 (R271), in units of 0.1 GB/s. -/
def Chip.capacityOf (c : Chip) (n : Nat) : Nat :=
  if c.inService n then c.qosCap * (1024 - c.maint n) * (if c.throttles n then 3 else 4) else 0

/-- Every window ends at once without a verdict, and the next is a warm-up window (R270). -/
def Chip.endWindow (c : Chip) (n : Nat) : Chip :=
  (c.onHall n (fun h => { h with winLeft := 0, warm := true })).setBit (.HALL_FLIGHT_STATUS n) F.HALL_FLIGHT_STATUS_WARMUP
    false

/-- WARMUP of QOS_STATUS: some hall is in a warm-up window. -/
def Chip.noteWarm (c : Chip) : Chip :=
  c.setBit .QOS_STATUS F.QOS_STATUS_WARMUP
    ((List.range 16).any (fun n => c.bit (.HALL_FLIGHT_STATUS n) F.HALL_FLIGHT_STATUS_WARMUP))

/-- The windows of every hall end (R270). -/
def Chip.endWindows (c : Chip) : Chip := (forUpTo 16 (fun n x => x.endWindow n) c).noteWarm

/-- f < 1, and floor(1,024 × f) (R271). -/
def Chip.factor (c : Chip) : Bool × Nat :=
  let d := (List.range 16).foldl (fun a n => a + c.capacityOf n) 0
  let g := 3904 * (List.range 16).foldl (fun a n => a + c.guarSum n) 0
  let one := fun (d g : Nat) (acc : Bool × Nat) => if g = 0 then acc else (acc.1 || d < g, min acc.2 (1024 * d / g))
  (List.range 16).foldl (fun acc n => if c.inService n then one (c.capacityOf n) (3904 * c.guarSum n) acc else acc)
    (one d g (false, 1024))

/-- f is recomputed (R271, R272): a change of SCALE ends every window (R270), and SHORTFALL raises event source 80 when it
sets and when it clears. -/
def Chip.rescale (c : Chip) : Chip :=
  let f := c.factor
  let c1 := c.setFld .QOS_STATUS F.QOS_STATUS_SCALE f.2
  let c2 := if f.2 = c.scale then c1 else c1.endWindows
  if f.1 = c.bit .QOS_STATUS F.QOS_STATUS_SHORTFALL then c2
  else (c2.setBit .QOS_STATUS F.QOS_STATUS_SHORTFALL f.1).raiseEvent 80

def execScaleRecompute (s : State) : Result := s.onChip Chip.rescale

-- the flight

/-- Assign a type to the first free position at or after p, counting modulo 1,024 (R255). -/
def takeTread (p : Nat) (t : TreadType) (l : List (Option TreadType)) : List (Option TreadType) :=
  match (List.range 1024).find? (fun i => (l.getD ((p + i) % 1024) none).isNone) with
  | some i => l.set ((p + i) % 1024) (some t)
  | none => l

/-- The classes with g > 0, by descending g, ties by ascending class (R255). -/
def guarOrder (g : Nat → Nat) : List Nat :=
  ((List.range 15).filter (fun k => g k != 0)).foldl (fun acc k =>
    acc.takeWhile (fun j => g k ≤ g j) ++ [k] ++ acc.dropWhile (fun j => g k ≤ g j)) []

/-- The flight of a revolution (R255). -/
def buildFlight (maint : Nat) (g : Nat → Nat) : List TreadType :=
  let l0 := List.replicate 1024 (none : Option TreadType)
  let l1 := forUpTo maint (fun k l => takeTread (k * 1024 / maint) .maint l) l0
  let l2 := (guarOrder g).foldl (fun l k =>
    forUpTo (g k) (fun j l => takeTread ((2 * j + 1) * 1024 / (2 * g k)) (.guar k) l) l) l1
  l2.map (fun x => x.getD .opn)

/-- WINDOW of QOS_CTL, 0 taken as 1. -/
def Chip.windowLen (c : Chip) : Nat := max 1 (c.fld .QOS_CTL F.QOS_CTL_WINDOW)

/-- A window begins at a revolution boundary while MON_EN is set (R269, R270). -/
def Chip.beginWindow (c : Chip) (n : Nat) : Chip :=
  if !c.bit .QOS_CTL F.QOS_CTL_MON_EN then c.setBit (.HALL_FLIGHT_STATUS n) F.HALL_FLIGHT_STATUS_WARMUP false
  else
    (c.onHall n (fun h => { h with winLeft := c.windowLen + 1, winLen := c.windowLen, credited := [], idle := []
                                   bankLtd := [], warm := false })).setBit (.HALL_FLIGHT_STATUS n)
      F.HALL_FLIGHT_STATUS_WARMUP (c.hall n).warm

/-- A revolution boundary (R255): the flight of the next revolution is built from MAINT and the guaranteed treads now in
force. A window that is complete awaits its verdict; another one begins here where none runs. -/
def Chip.revolution (c : Chip) (n : Nat) : Chip :=
  let h := c.hall n
  if !c.inService n || (h.flight != [] && h.pos < 1024) then c
  else
    let left := if c.bit .QOS_CTL F.QOS_CTL_MON_EN then (if 1 < h.winLeft then h.winLeft - 1 else h.winLeft) else 0
    let fl := buildFlight (c.maint n) (c.guarTreads n)
    let r := Reg.HALL_FLIGHT_STATUS n
    let c1 := c.onHall n (fun h => { h with
      flight := fl, pos := 0, winLeft := left, g := mkMap 0 (fun k => if k < 15 then c.guarTreads n k else 0) })
    let c2 := ((c1.setFld r F.HALL_FLIGHT_STATUS_MAINT (fl.filter (· == .maint)).length).setFld r
      F.HALL_FLIGHT_STATUS_OPEN (fl.filter (· == .opn)).length).setFld r F.HALL_FLIGHT_STATUS_GUAR
      (fl.filter (fun t => match t with | .guar _ => true | _ => false)).length
    let c3 := forUpTo 15 (fun k x => x.setFld (.HALL_CLASS_STAT n k) F.HALL_CLASS_STAT_TREADS (c.guarTreads n k)) c2
    (if left = 0 then c3.beginWindow n else c3).noteWarm

/-- A hall number. -/
def hallOk (n : Nat) : Bool := n < 16

def execRevolutionBoundary (n : Nat) (s : State) : Result := need (hallOk n) (s.onChip (fun c => c.revolution n))

/-- A window ends (R269): LAST_WIN, LAST_BACKLOG and, outside a warm-up window, the verdict on every class with guaranteed
treads; at the boundary the next window begins. -/
def Chip.windowEnd (c : Chip) (n : Nat) : Chip :=
  let h := c.hall n
  if h.winLeft ≠ 1 then c
  else
    let warm := c.bit (.HALL_FLIGHT_STATUS n) F.HALL_FLIGHT_STATUS_WARMUP
    let c1 := forUpTo 16 (fun k (x : Chip) =>
      let r := Reg.HALL_CLASS_STAT n k
      let back : Bool := !h.idle.contains k
      let got := sget 0 k h.credited
      let g := sget 0 k h.g
      let miss : Bool := !warm && k < 15 && 0 < g && back && got < h.winLen * g
      let x1 := ((x.setFld r F.HALL_CLASS_STAT_LAST_WIN got).setBit r F.HALL_CLASS_STAT_LAST_BACKLOG back).setBit r
        F.HALL_CLASS_STAT_LAST_MISS miss
      if miss then
        let x2 := (x1.bump r F.HALL_CLASS_STAT_MISSES).setFld .QOS_MISS F.QOS_MISS_MISS
          (withBit (x1.fld .QOS_MISS F.QOS_MISS_MISS) k true)
        let x3 := if h.bankLtd.contains k then
            x2.setFld .QOS_MISS F.QOS_MISS_BANK (withBit (x2.fld .QOS_MISS F.QOS_MISS_BANK) k true) else x2
        x3.raiseEvent (64 + k)
      else x1) c
    let c2 := c1.onHall n (fun h => { h with winLeft := 0 })
    (if h.pos = 0 then c2.beginWindow n else c2.setBit (.HALL_FLIGHT_STATUS n) F.HALL_FLIGHT_STATUS_WARMUP false).noteWarm

def execWindowEnd (n : Nat) (s : State) : Result := need (hallOk n) (s.onChip (fun c => c.windowEnd n))

/-- A reading of the DIMM's sensor (R253, R254, R326, R459): double refresh from 85 °C, throttling from 95 °C until below 92 °C,
and the channel fault while it is at 105 °C or above. Out of service both flags read 0 (R323). -/
def Chip.dimmRead (c : Chip) (n t : Nat) : Chip :=
  let r := Reg.HALL_FLIGHT_STATUS n
  let c1 := c.onHall n (fun h => { h with dimmC := t })
  let c2 := if c.inService n then
      (c1.setBit r F.HALL_FLIGHT_STATUS_REFRESH_X2 (85 ≤ t)).setBit r F.HALL_FLIGHT_STATUS_THROTTLE
        (95 ≤ t || (c.throttles n && 92 ≤ t))
    else c1
  let src := 208 + 12 * n + 11
  if 105 ≤ t then
    if c.bit (.FC_SRC src) F.FC_SRC_CAUSE then c2 else c2.reportLevel (unitHall n) src (0x4000 + n) 1 15
  else if (c.hall n).trainBad then c2
  else c2.setCause src false

def execDimmThermalRead (n t : Nat) (s : State) : Result := need (hallOk n && t < 256) (s.onChip (fun c => c.dimmRead n t))

-- the DRAM code

/-- What the decoder delivers (R315, R316): the line, its poison, the device a correction is attributed to, and whether
the codeword was found uncorrectable. -/
structure Decoded where
  data : Line
  poison : Bool
  dev : Option Nat
  ue : Bool
  deriving DecidableEq, Repr

/-- A pattern with one wrong bit. -/
def oneBit (w : Word) : Bool := w != 0 && (w &&& (w - 1)) == 0

/-- The devices with wrong bits. -/
def wrongDevices (e : EccErr) : EccErr := e.filter (fun x => x.2 != 0)

/-- A line with the bits of a device's pattern inverted (R314): device d of 0 to 7 carries DQ 4d to 4d + 3, and bit 4b + i of its 64 bits is
beat b on DQ 4d + i, which is data bit 32b + 4d + i; devices 8 and 9 carry check bits. -/
def flipDevice (v : Line) (x : Nat × Word) : Line :=
  if x.1 < 8 then
    forUpTo 64 (fun k (l : Line) => if x.2.getLsbD k then l ^^^ ((1 : Line) <<< (32 * (k / 4) + 4 * x.1 + k % 4)) else l) v
  else v

/-- Decode a codeword (R315, R316): errors of one device are corrected, on a poisoned line recognised with it; one bit in
each of two devices is detected; what becomes of any other pattern is a free value: it is detected, or miscorrected as an error of one
device, or escapes, and then the stored line is delivered with its wrong bits (R314). -/
def decodeLine (v : Line) (poison : Bool) (e : EccErr) (free : Nat) : Decoded :=
  match wrongDevices e with
  | [] => { data := v, poison := poison, dev := none, ue := false }
  | [(d, _)] => { data := v, poison := poison, dev := if poison then none else some d, ue := false }
  | l =>
    if l.length = 2 ∧ l.all (fun x => oneBit x.2) then { data := 0, poison := false, dev := none, ue := true }
    else
      let w := l.foldl flipDevice v
      let dev := Config.freeNat (free + 2) % 10
      match Config.freeNat free % 3 with
      | 0 => { data := 0, poison := false, dev := none, ue := true }
      | 1 => { data := flipDevice w (dev, BitVec.ofNat 64 (Config.freeNat (free + 1))), poison := false, dev := some dev, ue := false }
      | _ => { data := w, poison := false, dev := none, ue := false }

/-- An error operand names each device once. -/
def eccOk (e : EccErr) : Bool := e.all (fun x => x.1 < 10) && decide (e.map (fun x => x.1)).Nodup

/-- The first source of R321 that holds a copy of a line: the hall cache, the owner, each sharer in ascending order. -/
def Pkg.copyOf (p : Pkg) (line : Nat) : Option (Line × Bool) :=
  let c := p.chip
  match (if c.hcMode (c.homeHall line) = 0 then c.hcAt line else none) with
  | some x => some (x.data, x.poison)
  | none =>
    let e := c.dirAt line
    let ask := fun (d : Nat) (rep : Bool) => let a := (c.snoopOnce d line rep).2; if a.dcode = 1 then some (a.data, a.poison) else none
    match (if 2 ≤ e.state then ask e.owner false else none) with
    | some x => some x
    | none => (c.sharersOf e []).findSome? (fun d => ask d true)

/-- A repair transaction (R321): the line is rewritten from the first copy found, or written poisoned and reported with
the owner of its page (R322). -/
def Pkg.repair (p : Pkg) (n line rid world acc : Nat) : Pkg :=
  let sub := bits (p.chip.homeLocal line) 6 6
  let c1 := p.chip.bump (.HALL_DRAM_STATUS n) F.HALL_DRAM_STATUS_UE
  let p1 : Pkg := { p with chip := c1 }
  let det := 15 + 16 * sub
  match p1.copyOf line with
  | some x =>
    (p1.chanWrite line x.1 x.2).onChip (fun c => ((c.owesBurst line 15 true true).bump (.HALL_PATROL_STATUS n) F.HALL_PATROL_STATUS_REPAIRED).report
      (unitHall n) (208 + 12 * n + 9) rid (reqWorld rid world) acc det (line * 64))
  | none =>
    let w := p1.poisonOwner line
    (w.1.chanWrite line 0 true).onChip (fun c =>
      (c.owesBurst line 15 true true).report (unitHall n) (208 + 12 * n + 10) rid w.2 acc det (line * 64))

/-- A correction by the DRAM code (R315): counted by device, reported, and the corrected line written back. -/
def Pkg.dramCorrected (p : Pkg) (n line dev rid world acc : Nat) (v : Line) (poison : Bool) : Pkg :=
  let sub := bits (p.chip.homeLocal line) 6 6
  (p.chanWrite line v poison).onChip (fun c =>
    (((c.owesBurst line 15 true true).setFld (.HALL_DRAM_STATUS n) F.HALL_DRAM_STATUS_CE ((c.fld (.HALL_DRAM_STATUS n) F.HALL_DRAM_STATUS_CE + 1) %
      2 ^ 32)).bump (.HALL_DRAM_DEV n sub) (F.HALL_DRAM_DEV_DEV dev)).report (unitHall n) (208 + 12 * n + 8) rid
      (reqWorld rid world) acc (dev + 16 * sub) (line * 64))

/-- A read of a line from its channel on behalf of a request (R315, R321): what the requester receives. -/
def Pkg.dramRead (p : Pkg) (n line rid world acc : Nat) (e : EccErr) : Pkg × Line × Bool :=
  let v := p.chanRead line
  let d := decodeLine v.1 v.2 e p.chip.free
  let p1 := if (wrongDevices e).length < 2 then p else p.onChip (fun c => c.nextFree.nextFree.nextFree)
  if d.ue then
    let q := p1.repair n line rid world acc
    (q, q.chanRead line)
  else match d.dev with
    | some k => (p1.dramCorrected n line k rid world acc d.data d.poison, d.data, d.poison)
    | none => (p1, d.data, d.poison)

-- treads

/-- The class of waiting request i of a hall. -/
def HallSt.clsAt (h : HallSt) (i : Nat) : Nat := ((h.waiting[i]?).map (fun t => t.cls)).getD 16

/-- The oldest waiting request of a class. -/
def HallSt.oldest (h : HallSt) (k : Nat) : Option Nat := (List.range h.waiting.length).find? (fun i => h.clsAt i == k)

/-- Waiting write i stands whole on the clocked side of the bridge (R40), whose buffer towards the PHY holds the 32 oldest (R214). -/
def HallSt.crossed (h : HallSt) (i : Nat) : Bool := ((h.waiting.take i).filter (fun t => t.write)).length < bridgeCap

/-- The return buffer of a hall, the bridge's buffer from the PHY, has room for a line (R40, R214). -/
def Chip.retRoom (c : Chip) (n : Nat) : Bool := ((c.hall n).ret.filter (fun m => c.net.contains m)).length < bridgeCap

/-- Where the data of a read goes takes it: no port on its way is fenced, and the rail of its die is not below 0.50 V (R40, R257). -/
def Chip.takesData (c : Chip) (m : Msg) : Bool :=
  if m.die < 12 then (c.die m.die).belowSince.isNone && (diePorts m.die).any (fun q => c.portState q.1 q.2 == 0)
  else
    let q := c.agentPort m
    c.portState q.1 q.2 == 0 && 500 ≤ sget 0 12 c.rail

/-- The bank of waiting request i can deliver its burst now: one of `ready`; or the oldest request of a class that others of its class
have bypassed for 64 treads (R256). -/
def HallSt.bankReady (h : HallSt) (ready : List Nat) (i : Nat) : Bool :=
  ready.contains i || (h.oldest (h.clsAt i) == some i && 64 ≤ sget 0 (h.clsAt i) h.bypass)

/-- Waiting request i may go but for its bank (R256): a write stands on the clocked side, and a read has its return buffer reserved (R40); and
its class's oldest has not been bypassed for 64 treads, or is it. -/
def Chip.mayTread (c : Chip) (n i : Nat) : Bool :=
  let h := c.hall n
  let k := h.clsAt i
  (h.oldest k == some i || sget 0 k h.bypass < 64) &&
    (match h.waiting[i]? with
      | some t => if t.write then h.crossed i else c.retRoom n && (t.done || c.takesData t.req)
      | none => false)

/-- The requests that wait at a hall and can go in a tread now (R256). -/
def Chip.usable (c : Chip) (n : Nat) (ready : List Nat) : List Nat :=
  let h := c.hall n
  (List.range h.waiting.length).filter (fun i => h.bankReady ready i && c.mayTread n i)

/-- A class has a request that only its bank keeps from a tread (R269). -/
def Chip.bankKeeps (c : Chip) (n k : Nat) : Bool :=
  (List.range (c.hall n).waiting.length).any (fun i => (c.hall n).clsAt i == k && c.mayTread n i)

/-- One more tread has passed since each class's oldest request was bypassed; request i, which goes now, bypasses its class's oldest or is
it (R256). -/
def HallSt.noteBypass (h : HallSt) (pick : Option Nat) : Sparse Nat :=
  let l := h.bypass.map (fun e => (e.1, e.2 + 1))
  match pick with
  | none => l
  | some i =>
    let k := h.clsAt i
    if h.oldest k = some i then sset 0 k 0 l else if sget 0 k h.bypass = 0 then sset 0 k 1 l else l

/-- The request an open tread goes to (R252, R256): the oldest usable one of the next class in the rotation. -/
def HallSt.openPick (h : HallSt) (use : List Nat) : Option Nat :=
  ((List.range 16).map (fun k => (h.rr + 1 + k) % 16)).findSome? (fun k => use.find? (fun i => h.clsAt i == k))

/-- The request a tread goes to. A guaranteed tread that its class cannot use is open; a maintenance tread that refresh leaves free goes to
maintenance work first, and is open when there is none (R252, R253). -/
def HallSt.treadPick (h : HallSt) (use : List Nat) (t : TreadType) : Option Nat :=
  let own := match t with
    | .opn => none
    | .maint => use.find? (fun i => (h.waiting[i]?).any (fun x => x.maint))
    | .guar k => use.find? (fun i => h.clsAt i == k)
  match own with
  | some i => some i
  | none => h.openPick use

/-- A guaranteed tread goes to open traffic because its class could not use it for bank timing (R269). -/
def Chip.bankLimited (c : Chip) (n : Nat) (t : TreadType) (pick : Option Nat) : Option Nat :=
  match t, pick with
  | .guar k, some i => if (c.hall n).clsAt i ≠ k ∧ c.bankKeeps n k then some k else none
  | _, _ => none

/-- A list without the element at index i. -/
def dropAt {α : Type} : Nat → List α → List α
  | _, [] => []
  | 0, _ :: l => l
  | i + 1, x :: l => x :: dropAt i l

/-- A burst is read for a request: its data is answered and, by policy, allocated in the hall cache (R154), unless it is poisoned and a
maintenance engine waits for it (R163). -/
def Pkg.treadRead (p : Pkg) (n : Nat) (t : TreadReq) (e : EccErr) : Pkg :=
  let r := p.dramRead n t.line t.req.rid t.req.world t.req.acc e
  let q := if t.alloc ∧ r.1.chip.hcMode n = 0 ∧ (r.1.chip.hcAt t.line).isNone ∧ !(r.2.2 && r.1.chip.hallAwaited t.line) then
      r.1.hcAlloc t.line r.2.1 r.2.2 false t.cls
    else r.1
  (q.onChip (fun c => ((c.sendData t.req r.2.1 r.2.2).onHall n (fun h => { h with
    ret := h.ret.filter (fun m => c.net.contains m) ++ [{ t.req.reply .DATA with data := r.2.1, poison := r.2.2 }] })).answered t.req)).next

/-- A burst crosses the channel: a read is answered; the codeword of a read whose data a whole transaction has taken already is decoded, and
acted on, now (R315, R321; log entry 19), unless the command that began it has done so. -/
def Pkg.burst (p : Pkg) (n : Nat) (t : TreadReq) (e : EccErr) : Pkg :=
  if t.write then p
  else if t.done then (if t.known then p else (p.dramRead n t.line t.req.rid t.req.world t.req.acc e).1)
  else p.treadRead n t e

/-- Refresh takes a tread: a maintenance tread, as the free value says (R253). -/
def Chip.refreshes (c : Chip) (t : TreadType) : Bool := t == .maint && Config.refreshTread c.free

/-- One tread (R252 to R254, R256): its request leaves the queue and is credited in a guaranteed or open tread (R268), and a read is
answered. -/
def Pkg.tread (p : Pkg) (n : Nat) (ready : List Nat) (e : EccErr) : Pkg :=
  let c := p.chip
  let h := c.hall n
  match h.flight[h.pos]? with
  | none => p
  | some t =>
    if !c.inService n || c.uz.tripped then p
    else
      let idle := (List.range 16).foldl (fun l k => if h.waiting.any (fun x => x.cls == k) then l else addOnce k l) h.idle
      let counting : Bool := decide (1 < h.winLeft)
      let quiet : Bool := (c.throttles n && h.pos % 4 == 3 && t != .maint) || c.refreshes t
      let pick := if quiet then none else h.treadPick (c.usable n ready) t
      let h1 : HallSt := { h with
        pos := h.pos + 1, idle := if counting then idle else h.idle, bypass := h.noteBypass pick
        bankLtd := match c.bankLimited n t pick with
          | some k => if counting then addOnce k h.bankLtd else h.bankLtd
          | none => h.bankLtd }
      let p := if t = .maint then p.onChip Chip.nextFree else p
      match pick.bind (fun i => (h.waiting[i]?).map (fun w => (i, w))) with
      | none => p.onChip (fun c => c.onHall n (fun _ => h1))
      | some (i, w) =>
        let h2 : HallSt := { h1 with
          waiting := dropAt i h1.waiting, rr := if t == .guar w.cls then h1.rr else w.cls
          credited := if counting && t != .maint then sset 0 w.cls (sget 0 w.cls h1.credited + 1) h1.credited else h1.credited }
        (p.onChip (fun c => c.onHall n (fun _ => h2))).burst n w e

def execTread (n : Nat) (ready : List Nat) (e : EccErr) (s : State) : Result :=
  need (hallOk n && eccOk e) (s.onPkg (fun p => p.tread n ready e))

-- the patrol engine

/-- The line whose home is hall n at channel-local line i: the inverse of R29 and R30. -/
def Chip.lineAt (c : Chip) (n i : Nat) : Nat :=
  if !c.domains then
    let base := i / 4 * 4096
    (base + ((n ^^^ foldNibbles base) % 16) * 256) / 64 + i % 4
  else
    let base := i / 4 * 2048
    (base + (((n % 8) ^^^ (foldNibbles base % 8)) % 8) * 256 + (if n < 8 then 0 else 8 * c.capGib * 2 ^ 30)) / 64 + i % 4

/-- The lines of a channel. -/
def Chip.chanLines (c : Chip) : Nat := c.capGib * 2 ^ 24

/-- The patrol engine moves to the next line (R319). -/
def Chip.patrolNext (c : Chip) (n : Nat) : Chip :=
  let pos := c.fld (.HALL_PATROL_STATUS n) F.HALL_PATROL_STATUS_POS
  if pos + 1 < c.chanLines then c.setFld (.HALL_PATROL_STATUS n) F.HALL_PATROL_STATUS_POS (pos + 1)
  else (c.setFld (.HALL_PATROL_STATUS n) F.HALL_PATROL_STATUS_POS 0).bump (.HALL_PATROL_STATUS n) F.HALL_PATROL_STATUS_PASSES

/-- The next patrol read is due (R319): one line every PERIOD_H × 3.6 × 10^12 / L ticks. -/
def Chip.patrolDue (c : Chip) (n : Nat) : Bool :=
  (c.hall n).patrolAt * c.chanLines + max 1 (c.fld (.HALL_PATROL_CFG n) F.HALL_PATROL_CFG_PERIOD_H) * 3600000000000 ≤ c.now * c.chanLines

/-- PATROL_READ (R319, R320): when it is due, the next line is read once it is its turn on the line and the return buffer has room (R40), and
its outcome acted on. The engine reads no further line before the burst of the last one has had its tread (R253). -/
def Pkg.patrol (p : Pkg) (n : Nat) (e : EccErr) : Pkg :=
  let c := p.chip
  if !c.bit (.HALL_PATROL_CFG n) F.HALL_PATROL_CFG_EN || !c.inService n then p
  else
    let line := c.lineAt n (c.fld (.HALL_PATROL_STATUS n) F.HALL_PATROL_STATUS_POS)
    if !c.lineIdle line || !c.retRoom n || (c.hall n).waiting.any (fun t => t.known) || !c.patrolDue n then p
    else
      let r := p.dramRead n line (0x4000 + n) 1 7 e
      r.1.onChip (fun c =>
        let c1 := (((c.patrolNext n).countBytes n 15).onHall n (fun h => { h with patrolAt := c.now })).owesBurst line 15 false true
          { kind := .HALL_RD, line := line, rid := 0x4000 + n, world := 1, acc := 7 } true
        if r.2.2 && (wrongDevices e).length < 2 then c1.onHall n (fun h => { h with poisonSeen := h.poisonSeen + 1 }) else c1)

def execPatrolRead (n : Nat) (e : EccErr) (s : State) : Result :=
  need (hallOk n && eccOk e) (s.onPkg (fun p => p.patrol n e))

-- a channel out of service

/-- The channel of a hall leaves service (R323): no flight runs, and what waited is answered. -/
def Chip.channelOut (c : Chip) (n : Nat) : Chip :=
  if !c.inService n then c
  else
    let r := Reg.HALL_FLIGHT_STATUS n
    let w := (c.hall n).waiting
    let mts := c.fld r F.HALL_FLIGHT_STATUS_MTS_100
    let c1 := (c.onHall n (fun h => { h with flight := [], pos := 0, waiting := [], winLeft := 0 })).setReg r
      (F.HALL_FLIGHT_STATUS_MTS_100.put 0 mts)
    ((w.filter (fun t => !t.write && !t.done)).foldl (fun (x : Chip) t => (x.passData t.req 0 true).answered t.req) c1).noteWarm

/-- HALL_DRAM_CTL (R323): RETURN is accepted from W1 and Uzomuris, and refused in service or while one runs. -/
def Chip.dramCtlWrite (c : Chip) (who : Who) (n : Nat) (v : Word) : Chip :=
  let r := Reg.HALL_DRAM_CTL n
  if !who.sealed then c.refuseWrite who r
  else
    let c1 := c.storeFields r v
    if F.HALL_DRAM_CTL_CMD.get v ≠ 1 then c1
    else if c.inService n || c.bit r F.HALL_DRAM_CTL_BUSY then c1.setBit r F.HALL_DRAM_CTL_REFUSED true
    else c1.setBit r F.HALL_DRAM_CTL_BUSY true

def execChanReturn (who : Who) (n : Nat) (s : State) : Result :=
  need (hallOk n) (s.onChip (fun c => c.dramCtlWrite who n (F.HALL_DRAM_CTL_CMD.put 0 1)))

/-- The channel returns to service (R323): every line has been written poisoned. -/
def Pkg.channelIn (p : Pkg) (n : Nat) : Pkg :=
  let c := p.chip
  let mine := fun (line : Nat) => line * 64 < c.dramTop && c.homeHall line == n
  { chip := ((((c.onHall n (fun h => { h with allPoison := true, trainBad := false })).setBit (.HALL_FLIGHT_STATUS n)
        F.HALL_FLIGHT_STATUS_IN_SERVICE true).setFld (.HALL_DRAM_STATUS n) F.HALL_DRAM_STATUS_POISON_WRITTEN 65535).endWindow
        n).noteWarm
    dram := p.dram.filter (fun e => !mine (e.1 / 64))
    dpoison := p.dpoison.filter (fun e => !mine e.1) }

/-- The end of a RETURN (R323, R418): the channel has been retrained, or its training failed and it stays out of service. -/
def Pkg.chanReturnDone (p : Pkg) (n : Nat) (ok : Bool) : Pkg :=
  let r := Reg.HALL_DRAM_CTL n
  let src := 208 + 12 * n + 11
  if !p.chip.bit r F.HALL_DRAM_CTL_BUSY then p
  else
    let q := p.onChip (fun c => c.setBit r F.HALL_DRAM_CTL_BUSY false)
    if ok then (q.channelIn n).onChip (fun c => if (c.hall n).dimmC < 105 then c.setCause src false else c)
    else q.onChip (fun c => (c.onHall n (fun h => { h with trainBad := true })).reportLevel (unitHall n) src (0x4000 + n) 1 15)

def execChanReturnDone (n : Nat) (ok : Bool) (s : State) : Result :=
  need (hallOk n) (s.onPkg (fun p => p.chanReturnDone n ok))

-- regulation

/-- LIMIT of a class of the committed set. -/
def Chip.limitOf (c : Chip) (k : Nat) : Nat := F.QOS_CLASS_LIMIT.get (c.clsWord k)

/-- BURST of a class of the committed set, 0 taken as 1. -/
def Chip.burstOf (c : Chip) (k : Nat) : Nat := max 1 (F.QOS_CLASS_BURST.get (c.clsWord k))

/-- The rate of a port for class k (R266), in units of 1/tokUnit byte per 10 ticks; LIMIT counts 0.1 GB/s, which is one
byte in 10 ticks. -/
def Chip.shareOf (c : Chip) (port k : Nat) : Nat :=
  let on := ((List.range 26).filter (fun q => c.active.contains (q * 16 + k))).length
  let total := c.limitOf k * tokUnit
  if on = 0 ∨ on = 26 then total / 26
  else if c.active.contains (port * 16 + k) then total * 31 / (32 * on)
  else total / (32 * (26 - on))

/-- The division of every LIMIT among the ports (R266). -/
def Chip.divide (c : Chip) : Chip :=
  { c with portRate := (pairs 26 15).foldl (fun m pk => sset 0 (pk.1 * 16 + pk.2) (c.shareOf pk.1 pk.2) m) [] }

/-- LIMIT_DIVISION (R266): the activity of the 1,000 ticks before counts, and a new period begins, in which a port that still holds a
request is active for its class. -/
def Chip.limitDivision (c : Chip) : Chip :=
  { c.divide with active := (c.injQ.map (fun q => q.1) ++ c.safeQ.filterMap c.tokenQueue).eraseDups }

def execLimitDivision (s : State) : Result := s.onChip Chip.limitDivision

/-- The oldest request held at a port for a class, which the safe state does not hold (R264, R339). -/
def Chip.heldNext (c : Chip) (port k : Nat) : Option (Nat × Msg) :=
  (c.injQ.find? (fun q => q.1 == port * 16 + k)).filter (fun q => !(c.safe && q.2.kind.safeHeld))

/-- The held requests of a class at a port go, in arrival order, while the balance lasts (R265). -/
def Chip.releaseTokens (c : Chip) (port k : Nat) : Nat → Chip
  | 0 => c
  | n + 1 =>
    match c.heldNext port k with
    | none => c
    | some q =>
      if c.mayGo port k then
        ((({ c with injQ := dropFirst q c.injQ } : Chip).charge port k).send q.2).releaseTokens port k n
      else c

/-- One class of TOKEN_REFILL (R264): the balance grows by the port's rate up to BURST × 64 bytes; an unlimited class is
always full. -/
def Chip.refill (c : Chip) (port k : Nat) : Chip :=
  let top : Int := c.burstOf k * 64 * tokUnit
  let add : Int := Int.ofNat (sget 0 (port * 16 + k) c.portRate)
  let bal := if c.unlimited k then top else min top (c.tokenOf port k + add)
  ({ c with tokens := sset 0 (port * 16 + k) bal c.tokens } : Chip).releaseTokens port k c.injQ.length

/-- TOKEN_REFILL (R264): what the queues have released makes room for the messages that wait at their agents (R265). -/
def Chip.tokenRefill (c : Chip) (port : Nat) : Chip := (forUpTo 15 (fun k x => x.refill port k) c).reissue

def execTokenRefill (port : Nat) (s : State) : Result := need (port < 26) (s.onChip (fun c => c.tokenRefill port))

/-- QOS_BYTES_SUM (R268). -/
def Chip.bytesSum (c : Chip) : Chip :=
  forUpTo 16 (fun k x => x.setFld (.QOS_BYTES k) F.QOS_BYTES_BYTES
    ((List.range 16).foldl (fun a n => a + x.fld (.HALL_CLASS_BYTES n k) F.HALL_CLASS_BYTES_BYTES) 0)) c

def execQosBytesSum (s : State) : Result := s.onChip Chip.bytesSum

/-- The staged word of a class; class 15 reads its reset value. -/
def Chip.stagedCls (c : Chip) (k : Nat) : Word := if k = 15 then 0x40FFFF0000 else c.reg (.QOS_CLASS k)

/-- The staged CAPACITY. -/
def Chip.stagedCap (c : Chip) : Nat := c.fld .QOS_CAPACITY F.QOS_CAPACITY_CAPACITY

/-- The RESULT with which a commit is refused, 1 when it is accepted (R261). -/
def Chip.commitResult (c : Chip) : Nat :=
  let cls := (List.range 15).map c.stagedCls
  let bad := cls.any (fun w =>
      let lim := F.QOS_CLASS_LIMIT.get w
      let dom := F.QOS_CLASS_DOMAIN.get w
      lim < F.QOS_CLASS_GUAR.get w || lim == 0 || dom == 3 || (dom != 0 && !c.domains))
    || (List.range 64).any (fun l => c.fld (.QOS_LABEL_MAP l) F.QOS_LABEL_MAP_CLASS == 15)
    || c.stagedCap == 0 || 9 * 16 * 8 * c.mts100 < 10 * c.stagedCap
  let ended := (List.range 16).any (fun n => c.stagedCap < cls.foldl (fun a w => a + share16 w n) 0)
  if bad then 3 else if ended then 2 else 1

/-- The staged set becomes the committed one, everywhere at once (R259, R263 steps 3 to 5). -/
def Chip.takeStaged (c : Chip) : Chip :=
  let c1 : Chip := { c with
    qosMap := (List.range 64).foldl (fun m l => sset 0 l (c.fld (.QOS_LABEL_MAP l) F.QOS_LABEL_MAP_CLASS) m) []
    qosCls := (List.range 15).foldl (fun m k => sset 0x40FFFF0000 k (c.stagedCls k) m) []
    qosCap := c.stagedCap }
  c1.rescale.divide.endWindows

/-- COMMIT (R261, R263). -/
def Chip.qosCommit (c : Chip) : Chip :=
  if c.bit .QOS_STATUS F.QOS_STATUS_BUSY then c.setFld .QOS_STATUS F.QOS_STATUS_RESULT 4
  else if c.commitResult ≠ 1 then c.setFld .QOS_STATUS F.QOS_STATUS_RESULT c.commitResult
  else (c.setBit .QOS_STATUS F.QOS_STATUS_BUSY true).takeStaged

/-- A write to QOS_CTL, accepted from W1 and Uzomuris: MON_EN and WINDOW, then COMMIT. MON_EN that sets makes the next
windows warm-up windows (R270). -/
def Chip.qosCtlWrite (c : Chip) (who : Who) (v : Word) : Chip :=
  c.ifMay who.sealed who .QOS_CTL (fun x =>
    let on : Bool := !x.bit .QOS_CTL F.QOS_CTL_MON_EN && F.QOS_CTL_MON_EN.get v == 1
    let x1 := x.storeFields .QOS_CTL v
    let x2 := if on then x1.endWindows else x1
    if F.QOS_CTL_COMMIT.get v = 1 then x2.qosCommit else x2)

def execQosCommit (who : Who) (v : Word) (s : State) : Result :=
  need (F.QOS_CTL_COMMIT.get v == 1) (s.onChip (fun c => c.qosCtlWrite who v))

/-- The accepted commit ends (R263 step 6). -/
def Chip.qosCommitDone (c : Chip) : Chip :=
  if c.bit .QOS_STATUS F.QOS_STATUS_BUSY then
    (((c.setFld .QOS_STATUS F.QOS_STATUS_RESULT 1).setBit .QOS_STATUS F.QOS_STATUS_BUSY false).setFld .QOS_STATUS
      F.QOS_STATUS_COMMITTED_SUM ((List.range 15).foldl (fun a k => a + F.QOS_CLASS_GUAR.get (c.clsWord k)) 0)).newDigest
  else c

def execQosCommitDone (s : State) : Result := s.onChip Chip.qosCommitDone

end Sys2Proof.Machine
end

