-- ==== Sys2Proof/Machine/Instances.lean ====
section
/-! DEFINITION. Instances of the service engines (spec/15_service_engines.md): their registers, rings and doorbells (R371 to
R377), their states, reset and drain (R386 to R388), and the functions they are bound to (R374, R375). -/

namespace Sys2Proof.Machine

-- what an instance is

/-- The key of slot k of cluster c. -/
def instKey (c k : Nat) : Nat := c * 544 + k

/-- What an instance holds beside its registers. -/
def Chip.inst (x : Chip) (c k : Nat) : InstSt := sget InstSt.reset (instKey c k) x.insts
def Chip.onInst (x : Chip) (c k : Nat) (f : InstSt → InstSt) : Chip :=
  { x with insts := sset InstSt.reset (instKey c k) (f (x.inst c k)) x.insts }

/-- A slot of a cluster; a mailbox slot. -/
def instOk (c k : Nat) : Bool := c < 2 && k < 544
def isMbx (k : Nat) : Bool := 512 ≤ k

/-- The requester index, requester ID, ownership entry and event of a slot (R371). -/
def instIndex (c k : Nat) : Nat := if k < 512 then 512 * c + k else 1024 + 32 * c + (k - 512)
def instRid (c k : Nat) : Nat := 0x3000 + instIndex c k
def instOwn (c k : Nat) : Reg := if k < 512 then .WLD_INST_OWN (512 * c + k) else .WLD_MBX_OWN (32 * c + (k - 512))
def instEvent (c k : Nat) : Nat := if k < 512 then 1024 + (512 * c + k) else 896 + (32 * c + (k - 512))

/-- The owner world of a slot, the LABEL of its share, its state and TYPE. -/
def Chip.instOwner (x : Chip) (c k : Nat) : Nat := x.fld (instOwn c k) F.WLD_OWN_OWNER
def Chip.instLabel (x : Chip) (c k : Nat) : Nat := x.fld (.SE_INST_SHARE c k) F.SE_INST_SHARE_LABEL
def Chip.instState (x : Chip) (c k : Nat) : Nat := x.fld (.SE_INST_STATUS c k) F.SE_INST_STATUS_STATE
def Chip.setInstState (x : Chip) (c k st : Nat) : Chip := x.setFld (.SE_INST_STATUS c k) F.SE_INST_STATUS_STATE st
def Chip.instType (x : Chip) (c k : Nat) : Nat := if isMbx k then 5 else x.fld (.SE_INST_CFG c k) F.SE_INST_CFG_TYPE

/-- The ring size of a slot. -/
def Chip.ringSize (x : Chip) (c k : Nat) : Nat := 2 ^ x.fld (.SE_INST_CFG c k) F.SE_INST_CFG_LOG2

/-- A cluster is powered down (R297). -/
def Chip.clusterDown (x : Chip) (c : Nat) : Bool := x.down.contains (2, c)

/-- The writer may use an instance's registers and doorbell page (R292, R373). -/
def Chip.mayInst (x : Chip) (who : Who) (c k : Nat) : Bool :=
  !x.clusterDown c && (who.uz || (x.fld (instOwn c k) F.WLD_OWN_STATE == 0 && who.world == x.instOwner c k))

/-- A write to an instance is refused for its world (R373); one that is handed over refuses every access (R292). -/
def Chip.instOther (x : Chip) (who : Who) (c k : Nat) : Bool :=
  !x.clusterDown c && !who.uz && x.fld (instOwn c k) F.WLD_OWN_STATE == 0 && who.world != x.instOwner c k

/-- A write to an instance (R373): from its owner and Uzomuris; from another world it is a world violation (R303). -/
def Chip.byInst (x : Chip) (who : Who) (c k : Nat) (r : Reg) (f : Chip → Chip) : Chip :=
  if x.mayInst who c k then f x else if x.instOther who c k then x.refuseWrite who r else x

/-- A command, write or RETURN of an instance was refused. -/
def Chip.instRefuse (x : Chip) (c k : Nat) : Chip := x.setBit (.SE_INST_STATUS c k) F.SE_INST_STATUS_REFUSED true

/-- INFLIGHT follows the descriptors in flight. -/
def Chip.noteInflight (x : Chip) (c k : Nat) : Chip :=
  x.setFld (.SE_INST_STATUS c k) F.SE_INST_STATUS_INFLIGHT (x.inst c k).inflight.length

/-- ACTIVE of an engine: the descriptors it has in progress. -/
def Chip.engActive (x : Chip) (c e : Nat) : Nat :=
  (List.range 544).foldl (fun a k => a + ((x.inst c k).inflight.filter (fun f =>
    f.engine == some e && f.outcome.isNone)).length) 0
def Chip.noteActive (x : Chip) (c : Nat) : Chip :=
  forUpTo 8 (fun e y => y.setFld (.SE_ENG_STATUS c e) F.SE_ENG_STATUS_ACTIVE (x.engActive c e)) x

/-- The fault of an instance (R381, R388): source 512 + i; a mailbox instance has none. -/
def Chip.instFault (x : Chip) (c k : Nat) : Chip :=
  if isMbx k then x
  else x.report (unitCluster c) (512 + instIndex c k) (instRid c k) (x.instOwner c k) 15

/-- An instance consumes a poisoned line (R318). -/
def Chip.instPoison (x : Chip) (c k acc pa : Nat) : Chip :=
  x.report (unitCluster c) (492 + 4 * c + 3) (instRid c k) (reqWorld (instRid c k) (x.instOwner c k)) acc 0 pa

/-- The cluster and slot of a requester index (R371). -/
def instSlot (i : Nat) : Nat × Nat := if i < 1024 then (i / 512, i % 512) else ((i - 1024) / 32, 512 + (i - 1024) % 32)

/-- UNAVAIL reaches an instance (R217, R381): the oldest descriptor that an engine has started and that has no outcome ends with
STATUS 2. -/
def Chip.instUnavail (x : Chip) (m : Msg) : Chip :=
  if ridType m.rid ≠ 3 then x
  else
    let s := instSlot (ridIndex m.rid)
    match (x.inst s.1 s.2).inflight.find? (fun f => f.engine.isSome && f.outcome.isNone) with
    | none => x
    | some f =>
      (x.onInst s.1 s.2 (fun y => { y with
        inflight := y.inflight.map (fun g => if g.j = f.j then { g with outcome := some (2, 0) } else g) })).noteActive s.1

-- reset and drain

/-- In-flight descriptors that no engine has started, and that no hart serves, are discarded (R387 step 2, R391). -/
def Chip.discardUnstarted (x : Chip) (c k : Nat) : Chip :=
  ((x.onInst c k (fun s => { s with
    inflight := s.inflight.takeWhile (fun f => f.engine.isSome || f.outcome.isSome || f.delivered) })).noteInflight c k).noteActive c

/-- A reset starts (R387 step 1): fetching stops, in STATE 2, or 4 when contained. An instance that is contained already
stays so. -/
def Chip.instReset (x : Chip) (c k : Nat) (contained : Bool) : Chip :=
  let st := x.instState c k
  let dst := if contained || st == 4 then 4 else 2
  if st = 2 ∧ !contained then x
  else ((x.setInstState c k dst).onInst c k (fun s => { s with resetAt := some (s.resetAt.getD x.now) })).discardUnstarted c k

/-- A ring error (R388): STATE 3 with ERR_CAUSE; descriptors in progress drain. -/
def Chip.ringError (x : Chip) (c k cause : Nat) : Chip :=
  if x.instState c k ≠ 1 then x
  else
    ((((x.setInstState c k 3).setFld (.SE_INST_STATUS c k) F.SE_INST_STATUS_ERR_CAUSE cause).onInst c k (fun s =>
      { s with resetAt := some x.now })).discardUnstarted c k).instFault c k

def execRingError (c k cause : Nat) (s : State) : Result :=
  need (instOk c k && 1 ≤ cause && cause ≤ 5) (s.onChip (fun x => x.ringError c k cause))

/-- The indices of an instance return to 0. -/
def Chip.zeroRings (x : Chip) (c k : Nat) : Chip :=
  (((((x.setFld (.SE_INST_STATUS c k) F.SE_INST_STATUS_HEAD 0).resetReg (.SE_DB_TAIL c k)).resetReg (.SE_DB_CPL_HEAD c
    k)).resetReg (.SE_DB_DLV_TAIL c k)).onInst c k (fun s => { s with inflight := [], phase := true, cplNext := 0, cplOff := false })).noteInflight
      c k

/-- A reset completes (R387 step 6), once no work of the instance is left: STATE 0, or 4 where it is contained. -/
def Chip.instResetDone (x : Chip) (c k : Nat) : Chip :=
  let st := x.instState c k
  if (st = 2 ∨ st = 4) ∧ (x.inst c k).resetAt.isSome ∧ (x.inst c k).inflight = [] then
    ((((x.zeroRings c k).onInst c k (fun s => { s with resetAt := none })).setInstState c k (if st = 4 then 4 else 0)).setBit
      (.SE_INST_STATUS c k) F.SE_INST_STATUS_RESET_DONE true)
  else x

def execInstanceResetDone (c k : Nat) (s : State) : Result := need (instOk c k) (s.onChip (fun x => x.instResetDone c k))

-- stations' functions, as instances see them

/-- The function indices of one port, and the port of a function index (R343). -/
def Chip.fnRange (x : Chip) (n : Nat) : Nat := 256 / x.portCount n
def Chip.portOfFn (x : Chip) (n f : Nat) : Nat := f / x.fnRange n

/-- The station is committed; port j, which is formed, is an endpoint. -/
def Chip.portCommitted (x : Chip) (n : Nat) : Bool := x.bit (.PORT_CTL n) F.PORT_CTL_COMMITTED
def Chip.isEp (x : Chip) (n j : Nat) : Bool := x.portFormed n j && bitAt (x.fld (.PORT_CFG n) F.PORT_CFG_EP) j

/-- The number of a function within its port: 0 the PF, v its VF v (R357). -/
def Chip.vfOf (x : Chip) (n f : Nat) : Nat := f % x.fnRange n

/-- The SR-IOV capability of an endpoint port's PF (R345), at 0x160 of its configuration space (log entry 101, PRESUMED): VF Enable and VF
Memory Space Enable at 0x168, NumVFs at 0x170. -/
def Chip.sriov (x : Chip) (n j i : Nat) : Nat :=
  (sget 0 i (sget FnSt.reset (n * 256 + j * x.fnRange n) x.fnSt).cfg).toNat
def Chip.vfEnable (x : Chip) (n j : Nat) : Bool := (x.sriov n j 0x5A).testBit 0
def Chip.vfMemory (x : Chip) (n j : Nat) : Bool := (x.sriov n j 0x5A).testBit 3
def Chip.numVfs (x : Chip) (n j : Nat) : Nat := min (x.sriov n j 0x5C % 65536) (x.fld (.PORT_EP_CFG n j) F.PORT_EP_CFG_TOTAL_VFS)

/-- An endpoint function: the PF, or a VF that the port offers and its host has enabled (R345). -/
def Chip.epFn (x : Chip) (n f : Nat) : Bool :=
  let j := x.portOfFn n f
  x.portCommitted n && x.isEp n j && (x.vfOf n f == 0 || (x.vfEnable n j && decide (x.vfOf n f ≤ x.numVfs n j)))

/-- The ownership entry and owner of a function. -/
def fnOwn (n f : Nat) : Reg := .WLD_FN_OWN (256 * n + f)
def Chip.fnOwner (x : Chip) (n f : Nat) : Nat := x.fld (fnOwn n f) F.WLD_OWN_OWNER

/-- The pages of a function's BAR_0 (R357). -/
def Chip.bar0Pages (x : Chip) (n f : Nat) : Nat := if x.vfOf n f = 0 then 8192 else 16

/-- An instance is bound, and to which function (R374). -/
def Chip.bound (x : Chip) (c k : Nat) : Option (Nat × Nat) :=
  let r := Reg.SE_INST_CFG c k
  if x.bit r F.SE_INST_CFG_BIND_VALID then some (x.fld r F.SE_INST_CFG_BIND_STATION, x.fld r F.SE_INST_CFG_BIND_FN) else none

/-- Every slot. -/
def slots : List (Nat × Nat) := pairs 2 544

/-- The instances bound to a function. -/
def Chip.boundTo (x : Chip) (n f : Nat) : List (Nat × Nat) := slots.filter (fun s => x.bound s.1 s.2 == some (n, f))

-- configuration and commands

/-- ENABLE of a bound instance is refused (R375). -/
def Chip.bindBad (x : Chip) (c k : Nat) : Bool :=
  match x.bound c k with
  | none => false
  | some (n, f) =>
    let pg := x.fld (.SE_INST_CFG c k) F.SE_INST_CFG_BIND_PAGE
    10 ≤ n || !x.epFn n f || x.fnOwner n f != x.instOwner c k || pg == 0 || x.bar0Pages n f ≤ pg
      || (x.boundTo n f).any (fun s => s != (c, k) && x.fld (.SE_INST_CFG s.1 s.2) F.SE_INST_CFG_BIND_PAGE == pg)

/-- ENABLE is refused (R386, R375, R280). -/
def Chip.enableBad (x : Chip) (c k : Nat) : Bool :=
  let lg := x.fld (.SE_INST_CFG c k) F.SE_INST_CFG_LOG2
  x.instState c k != 0 || x.instType c k == 0 || lg < 6 || 16 < lg
    || (isMbx k && !x.bit (.SE_INST_DLV c k) F.SE_INST_DLV_VALID) || x.bindBad c k
    || (!x.wldCommitted && (isMbx k || instIndex c k != x.fld .WLD_CTL F.WLD_CTL_SCRUB_INST))

/-- ENABLE (R376, R386). -/
def Chip.instEnable (x : Chip) (c k : Nat) : Chip :=
  if x.enableBad c k then x.instRefuse c k else (x.zeroRings c k).setInstState c k 1

/-- RESET (R386): accepted in RUNNING, ERROR and DISABLED. -/
def Chip.instResetCmd (x : Chip) (c k : Nat) : Chip :=
  let st := x.instState c k
  if st = 0 ∨ st = 1 ∨ st = 3 then x.instReset c k false else x.instRefuse c k

/-- A write to SE_INST_CTL (R386). -/
def Chip.instCtlWrite (x : Chip) (who : Who) (c k : Nat) (v : Word) : Chip :=
  x.byInst who c k (.SE_INST_CTL c k) (fun y =>
    match F.SE_INST_CTL_CMD.get v with
    | 1 => y.instEnable c k
    | 2 => y.instResetCmd c k
    | _ => y)

def execEnable (who : Who) (c k : Nat) (s : State) : Result := need (instOk c k) (s.onChip (fun x => x.instCtlWrite who c k 1))
def execReset (who : Who) (c k : Nat) (s : State) : Result := need (instOk c k) (s.onChip (fun x => x.instCtlWrite who c k 2))

/-- A write to SE_INST_CFG: TYPE and LOG2 change in DISABLED only, and TYPE of a mailbox never; a change of a BIND field in
another state is ignored and sets REFUSED; VEC changes always. -/
def Chip.instCfgWrite (x : Chip) (who : Who) (c k : Nat) (v : Word) : Chip :=
  let r := Reg.SE_INST_CFG c k
  x.byInst who c k r (fun x =>
    let bindF := [F.SE_INST_CFG_BIND_VALID, F.SE_INST_CFG_BIND_STATION, F.SE_INST_CFG_BIND_FN, F.SE_INST_CFG_BIND_PAGE]
    let put := fun (y : Chip) (f : Field) => y.setFld r f (f.get v)
    let x1 := put x F.SE_INST_CFG_VEC
    if x.instState c k = 0 then
      let x2 := (F.SE_INST_CFG_LOG2 :: bindF).foldl put x1
      if isMbx k then x2 else put x2 F.SE_INST_CFG_TYPE
    else if bindF.any (fun f => f.get v != x.fld r f) then x1.instRefuse c k
    else x1)

/-- A write to a ring base: in DISABLED only; DLV exists for mailboxes. -/
def Chip.instRingWrite (x : Chip) (who : Who) (c k : Nat) (r : Reg) (v : Word) : Chip :=
  x.byInst who c k r (fun y => if y.instState c k = 0 then y.storeFields r v else y)

/-- A write to SE_INST_SHARE (R385): in every state. -/
def Chip.instShareWrite (x : Chip) (who : Who) (c k : Nat) (v : Word) : Chip :=
  x.byInst who c k (.SE_INST_SHARE c k) (fun y => y.storeFields (.SE_INST_SHARE c k) v)

def execSeInstShareWrite (who : Who) (c k : Nat) (v : Word) (s : State) : Result :=
  need (instOk c k) (s.onChip (fun x => x.instShareWrite who c k v))

-- doorbells

/-- Port j of station n, and function f of station n. -/
def Chip.port (c : Chip) (n j : Nat) : PortSt := sget PortSt.reset (n * 4 + j) c.portSt
def Chip.onPort (c : Chip) (n j : Nat) (g : PortSt → PortSt) : Chip :=
  { c with portSt := sset PortSt.reset (n * 4 + j) (g (c.port n j)) c.portSt }
def Chip.fn (c : Chip) (n f : Nat) : FnSt := sget FnSt.reset (n * 256 + f) c.fnSt
def Chip.onFn (c : Chip) (n f : Nat) (g : FnSt → FnSt) : Chip :=
  { c with fnSt := sset FnSt.reset (n * 256 + f) (g (c.fn n f)) c.fnSt }

/-- Memory Space Enable of an endpoint function: its own, or VF Memory Space Enable of its PF. -/
def Chip.memOn (x : Chip) (n f : Nat) : Bool :=
  if x.vfOf n f = 0 then (x.fn n f).memEn else x.vfMemory n (x.portOfFn n f)

/-- A port is stopped (R369). -/
def Chip.stopped (c : Chip) (n j : Nat) : Bool := bitAt (c.fld (.PORT_CTL n) F.PORT_CTL_STOPPED) j

/-- A function issues nothing: it is handed over (R292), reset (R364), contained (R333), or its port is stopped (R369). -/
def Chip.fnSilent (c : Chip) (n f : Nat) : Bool :=
  c.fld (fnOwn n f) F.WLD_OWN_STATE != 0 || c.bit (.PORT_FN_CFG n f) F.PORT_FN_CFG_FLR_BUSY || (c.fn n f).disabled
    || c.stopped n (c.portOfFn n f)

/-- A function answers its BARs (R357, R363, R364): its link is up, memory space is enabled, and it is neither in D3hot, handed over,
reset nor contained. -/
def Chip.barOn (x : Chip) (n f : Nat) : Bool :=
  x.memOn n f && !(x.fn n f).d3 && !x.fnSilent n f
    && x.bit (.PORT_STATUS n (x.portOfFn n f)) F.PORT_STATUS_LINK_UP

/-- A doorbell write to an instance that runs: an index at or beyond the ring size is a ring error (R377). -/
def Chip.doorbell (x : Chip) (c k : Nat) (r : Reg) (v : Word) : Chip :=
  if x.instState c k ≠ 1 then x
  else
    let i := F.SE_DB_TAIL_INDEX.get v
    if x.ringSize c k ≤ i then x.ringError c k 1 else x.setFld r F.SE_DB_TAIL_INDEX i

/-- A write that comes through BAR_0 of a function reaches the doorbell page of an instance bound to it, while the function
answers its BARs (R357, R363, R374). -/
def Chip.throughBar (x : Chip) (who : Who) (c k : Nat) : Bool :=
  who.rid / 4096 != 2 ||
    (x.bound c k == some (who.rid % 4096 / 256, who.rid % 256) && x.barOn (who.rid % 4096 / 256) (who.rid % 256))

/-- A write to SE_DB_TAIL or SE_DB_CPL_HEAD from the owner or Uzomuris (R373). -/
def Chip.doorbellWrite (x : Chip) (who : Who) (c k : Nat) (r : Reg) (v : Word) : Chip :=
  x.byInst who c k r (fun y => if y.throughBar who c k then y.doorbell c k r v else y)

def execSeDbTailWrite (who : Who) (c k : Nat) (v : Word) (s : State) : Result :=
  need (instOk c k) (s.onChip (fun x => x.doorbellWrite who c k (.SE_DB_TAIL c k) v))
def execSeDbCplHeadWrite (who : Who) (c k : Nat) (v : Word) (s : State) : Result :=
  need (instOk c k) (s.onChip (fun x => x.doorbellWrite who c k (.SE_DB_CPL_HEAD c k) v))

end Sys2Proof.Machine
end

