-- ==== Sys2Proof/Machine/Iommu.lean ====
section
/-! DEFINITION. The IOMMU of a station (R285, R286, R438): its registers, the translation of a function's requests through
its device context, its command and fault queues, and device MSIs. The layouts of its registers, contexts, page tables and
queue records are those of the RISC-V IOMMU Specification 1.0, to which R285 refers. -/

namespace Sys2Proof.Machine

-- registers

/-- Doubleword i of the register page of station n. -/
def Chip.iommuReg (c : Chip) (n i : Nat) : Nat := (sget 0 (n * 512 + i) c.iommu).toNat
def Chip.setIommu (c : Chip) (n i v : Nat) : Chip :=
  { c with iommu := sset 0 (n * 512 + i) (BitVec.ofNat 64 v) c.iommu }

/-- Set bits [hi:lo] of a doubleword of the register page. -/
def Chip.putIommu (c : Chip) (n i hi lo v : Nat) : Chip :=
  c.setIommu n i (Field.put ⟨hi, lo, .rw, none⟩ (BitVec.ofNat 64 (c.iommuReg n i)) v).toNat

/-- The capabilities register (R285): version 1.0; Sv39, Sv48, Sv57 and the same x4; MSI_FLAT; AMO_HWAD; ATS; interrupts
as MSIs; HPM; 52-bit physical addresses; PD8, PD17, PD20. -/
def iommuCaps : Nat :=
  0x10 + 2 ^ 9 + 2 ^ 10 + 2 ^ 11 + 2 ^ 17 + 2 ^ 18 + 2 ^ 19 + 2 ^ 22 + 2 ^ 24 + 2 ^ 25 + 2 ^ 30 + 52 * 2 ^ 32 + 2 ^ 38 + 2 ^ 39
    + 2 ^ 40

-- interrupts and counters

/-- Interrupt file addresses in register space (R74): die, core and file. -/
def imsicOf (off : Nat) : Nat × Nat × Nat :=
  ((off - 0x10000000) / 0x1000000, off % 0x1000000 / 0x8000 - 0x100, off % 0x8000 / 0x1000)

/-- The offset of an interrupt file. -/
def imsicOff (die core file : Nat) : Nat := 0x10000000 + die * 0x1000000 + 0x800000 + core * 0x8000 + file * 0x1000

/-- An MSI for a hart of die d that is not there is dropped and counted (R16): every MSI but those of the event router. -/
def Chip.msiDropped (c : Chip) (d : Nat) : Chip := c.bump (.PKG_DIE_STATUS d) F.PKG_DIE_STATUS_MSI_DROPS

/-- The MSI of the IOMMU's own interrupt `src` (0 command queue, 1 fault queue, 2 counters): the one its vector selects, in world W1, unless
that vector is masked. -/
def Chip.iommuMsi (c : Chip) (n src : Nat) : Chip :=
  let vec := c.iommuReg n 95 / 2 ^ (4 * src) % 16
  let addr := c.iommuReg n (96 + 2 * vec)
  let off := addr - regBase
  if !bitAt (c.iommuReg n (97 + 2 * vec)) 32 && regBase ≤ addr && 0x10000000 ≤ off && off < 0x1C000000 && 0x800000 ≤ off % 0x1000000
      && off % 0x1000000 < 0x8C0000 then
    let t := imsicOf off
    let h := 24 * t.1 + t.2.1
    if !c.hartThere h then c.msiDropped t.1
    else if c.fileOwner h t.2.2 == 1 then
      ((c.onHart h (fun x => x.onFile t.2.2 (IFile.setEip (c.iommuReg n (97 + 2 * vec) % 2 ^ 32)))).wake h).run h
    else c
  else c

/-- An interrupt of the IOMMU: its pending bit sets, and where it was clear the MSI is written. -/
def Chip.iommuIrq (c : Chip) (n src : Nat) : Chip :=
  if bitAt (c.iommuReg n 10) (32 + src) then c else (c.putIommu n 10 (32 + src) (32 + src) 1).iommuMsi n src

/-- A vector is unmasked: the interrupts that wait for it are written. -/
def Chip.iommuUnmask (c : Chip) (n vec : Nat) : Chip :=
  forUpTo 3 (fun src x =>
    if bitAt (x.iommuReg n 10) (32 + src) && x.iommuReg n 95 / 2 ^ (4 * src) % 16 == vec then x.iommuMsi n src else x) c

/-- Event `ev` of the IOMMU for device ID f (R285): each of the eight counters whose event it is, that is not inhibited, and whose device
filter admits f, counts it; one that overflows sets its OF, and where that was clear raises the counters' interrupt. -/
def Chip.iommuCount (c : Chip) (n f ev : Nat) : Chip :=
  forUpTo 8 (fun i x =>
    let e := x.iommuReg n (44 + i)
    if e % 2 ^ 15 != ev || bitAt (x.iommuReg n 11) (33 + i) || (e.testBit 61 && !e.testBit 62 && bits e 59 36 != f) then x
    else
      let v := x.iommuReg n (13 + i)
      let y := x.setIommu n (13 + i) ((v + 1) % 2 ^ 64)
      if v + 1 = 2 ^ 64 ∧ !e.testBit 63 then (y.setIommu n (44 + i) (e + 2 ^ 63)).iommuIrq n 2 else y) c

-- walks

/-- Read 8 bytes of a table with the rights of a world: none where the read is refused or poisoned. -/
def Pkg.walkWord (p : Pkg) (rid world label pa : Nat) : Pkg × Option Nat :=
  let r := p.ioReadAs 3 rid world label (pa / 64)
  (r.1, if r.2.check = 0 ∧ !r.2.poison then some (Line.slice r.2.data (pa % 64) 8) else none)

/-- What a function's walks carry: its requester ID, its owner world and its label. -/
structure Walker where
  rid : Nat
  world : Nat
  label : Nat

/-- The outcome of a translation: a physical address, or the cause of a fault. -/
abbrev IoX := Nat ⊕ Nat

/-- The access, page and guest-page fault causes of a read or a write. -/
def ioAccessCause (wr : Bool) : Nat := if wr then 7 else 5
def ioPageCause (wr : Bool) : Nat := if wr then 15 else 13
def ioGuestCause (wr : Bool) : Nat := if wr then 23 else 21

/-- A leaf whose A or D bit must be set: hardware sets it where the context allows (AMO_HWAD), else the access faults. -/
def Pkg.ioSetAd (p : Pkg) (w : Walker) (pa pte : Nat) (wr hw : Bool) (a cause : Nat) : Pkg × IoX :=
  if pte.testBit 6 && (!wr || pte.testBit 7) then (p, .inl a)
  else if !hw then (p, .inr cause)
  else
    let q := p.writeBytes w.rid w.world w.label pa (toBytes 8 (pte ||| 0x40 ||| (if wr then 0x80 else 0))) false
    (q.1, if q.2 = 0 then .inl a else .inr (ioAccessCause wr))

/-- A leaf grants an access: U, and W for a write or R for a read. -/
def ioLeafOk (pte : Nat) (wr : Bool) : Bool := pte.testBit 4 && (if wr then pte.testBit 2 else pte.testBit 1)

/-- The second stage: `lvl` of `n` levels remain. -/
def Pkg.ioG (p : Pkg) (w : Walker) (hw wr : Bool) (gpa n base : Nat) : Nat → Pkg × IoX
  | 0 => (p, .inr (ioGuestCause wr))
  | lvl + 1 =>
    let idx := gpa / 2 ^ (12 + 9 * lvl) % (if lvl + 1 = n then 2 ^ 11 else 2 ^ 9)
    let r := p.walkWord w.rid w.world w.label (base + 8 * idx)
    match r.2 with
    | none => (r.1, .inr (ioAccessCause wr))
    | some pte =>
      if !pteValid pte lvl false then (r.1, .inr (ioGuestCause wr))
      else if !pteLeaf pte then r.1.ioG w hw wr gpa n (bits pte 53 10 * 4096) lvl
      else match leafAddr pte lvl gpa with
        | some a =>
          if ioLeafOk pte wr then r.1.ioSetAd w (base + 8 * idx) pte wr hw a (ioGuestCause wr)
          else (r.1, .inr (ioGuestCause wr))
        | none => (r.1, .inr (ioGuestCause wr))

/-- A guest physical address through iohgatp. -/
def Pkg.ioGStage (p : Pkg) (w : Walker) (gatp : Nat) (hw wr : Bool) (gpa : Nat) : Pkg × IoX :=
  let n := modeLevels (gatp / 2 ^ 60)
  if n = 0 then (p, .inl gpa)
  else if 2 ^ (14 + 9 * n) ≤ gpa then (p, .inr (ioGuestCause wr))
  else p.ioG w hw wr gpa n (gatp % 2 ^ 44 * 4096) n

/-- The first stage: the address of each table entry goes through the second stage. -/
def Pkg.ioS (p : Pkg) (w : Walker) (gatp : Nat) (hwS hwG wr : Bool) (va base : Nat) : Nat → Pkg × IoX
  | 0 => (p, .inr (ioPageCause wr))
  | lvl + 1 =>
    let g := p.ioGStage w gatp hwG false (base + 8 * (va / 2 ^ (12 + 9 * lvl) % 512))
    match g.2 with
    | .inr k => (g.1, .inr (if k = ioAccessCause false then ioAccessCause wr else ioGuestCause wr))
    | .inl pa =>
      let r := g.1.walkWord w.rid w.world w.label pa
      match r.2 with
      | none => (r.1, .inr (ioAccessCause wr))
      | some pte =>
        if !pteValid pte lvl false then (r.1, .inr (ioPageCause wr))
        else if !pteLeaf pte then r.1.ioS w gatp hwS hwG wr va (bits pte 53 10 * 4096) lvl
        else match leafAddr pte lvl va with
          | some a =>
            if ioLeafOk pte wr then r.1.ioSetAd w pa pte wr hwS a (ioPageCause wr) else (r.1, .inr (ioPageCause wr))
          | none => (r.1, .inr (ioPageCause wr))

-- contexts

/-- Walk a device directory to the device context of a device ID (base format: 7, 9 and 8 bits a level; log entry 126, DEDUCED): its address,
or the cause of a fault. The walk carries W1 (R285), and the function's label (R258). -/
def Pkg.ddtWalk (p : Pkg) (w : Walker) (did base : Nat) : Nat → Pkg × IoX
  | 0 => (p, .inl (base + 32 * (did % 128)))
  | lvl + 1 =>
    let r := p.walkWord w.rid 1 w.label (base + 8 * (did / 2 ^ (7 + 9 * lvl) % 2 ^ 9))
    match r.2 with
    | none => (r.1, .inr 257)
    | some e => if !e.testBit 0 then (r.1, .inr 258) else r.1.ddtWalk w did (bits e 53 10 * 4096) lvl

/-- Walk a process directory (8, 9 and 3 bits a level) to the context of a process: its physical address, or the cause of a fault. The
directory lies in guest physical memory; its walk carries W1. -/
def Pkg.pdtWalk (p : Pkg) (w : Walker) (gatp : Nat) (hwG : Bool) (pid base : Nat) : Nat → Pkg × IoX
  | 0 =>
    let g := p.ioGStage w gatp hwG false (base + 16 * (pid % 256))
    (g.1, match g.2 with
      | .inl pa => .inl pa
      | .inr _ => .inr 265)
  | lvl + 1 =>
    let g := p.ioGStage w gatp hwG false (base + 8 * (pid / 2 ^ (8 + 9 * lvl) % 512))
    match g.2 with
    | .inr _ => (g.1, .inr 265)
    | .inl pa =>
      let r := g.1.walkWord w.rid 1 w.label pa
      match r.2 with
      | none => (r.1, .inr 265)
      | some e => if !e.testBit 0 then (r.1, .inr 266) else r.1.pdtWalk w gatp hwG pid (bits e 53 10 * 4096) lvl

/-- A function as the walker of its own tables. -/
def Chip.fnWalker (c : Chip) (n f : Nat) : Walker :=
  { rid := 0x2000 + 256 * n + f, world := c.fnOwner n f, label := c.fld (.PORT_FN_CFG n f) F.PORT_FN_CFG_LABEL }

/-- Both stages of a device context: `fsc` and `gatp`, with SADE and GADE in `tc`. A request that is translated is counted as a miss of the
translations the IOMMU caches, of which the model keeps none, and each stage as a walk. -/
def Pkg.ioStages (p0 : Pkg) (w : Walker) (tc gatp fsc iova : Nat) (wr : Bool) : Pkg × IoX :=
  let f := w.rid % 256
  let st := w.rid / 256 % 16
  let p := p0.onChip (fun c =>
    let c1 := if fsc / 2 ^ 60 = 0 ∧ gatp / 2 ^ 60 = 0 then c else c.iommuCount st f 4
    let c2 := if fsc / 2 ^ 60 = 0 then c1 else c1.iommuCount st f 7
    if gatp / 2 ^ 60 = 0 then c2 else c2.iommuCount st f 8)
  let hwG := tc.testBit 7
  let n := modeLevels (fsc / 2 ^ 60)
  if n = 0 then p.ioGStage w gatp hwG wr iova
  else if !canonical (BitVec.ofNat 64 iova) n then (p, .inr (ioPageCause wr))
  else
    let r := p.ioS w gatp (tc.testBit 8) hwG wr iova (fsc % 2 ^ 44 * 4096) n
    match r.2 with
    | .inl gpa => r.1.ioGStage w gatp hwG wr gpa
    | .inr k => (r.1, .inr k)

/-- How a request comes to the IOMMU (R345): with a PASID or without; untranslated (0), translated (1), or a translation request (2). -/
structure IoKind where
  pid : Option Nat := none
  ats : Nat := 0
  deriving DecidableEq, Repr

/-- The bits of a process_id that a directory's mode takes: PD8, PD17, PD20. -/
def pdBits (mode : Nat) : Nat := match mode with | 1 => 8 | 2 => 17 | _ => 20

/-- Translate under the device context at an address: V; EN_ATS, of a request that ATS concerns; PDTV, of one with a PASID; a translated
address as it is; a process context where PDTV is set, of process 0 where DPE is; then both stages. -/
def Pkg.ioUnder (p : Pkg) (w : Walker) (dc iova : Nat) (wr : Bool) (k : IoKind) : Pkg × IoX :=
  let r := p.readBytes w.rid 1 w.label dc 32
  if r.2.2.1 ≠ 0 ∨ r.2.2.2 then (r.1, .inr 257)
  else
    let word := fun (i : Nat) => ofBytes ((r.2.1.drop (8 * i)).take 8)
    let tc := word 0
    let gatp := word 1
    let fsc := word 3
    if !tc.testBit 0 then (r.1, .inr 258)
    else if (k.ats ≠ 0 && !tc.testBit 1) || (k.pid.isSome && !tc.testBit 5) then (r.1, .inr 260)
    else if k.ats = 1 then (r.1, .inl iova)
    else if !tc.testBit 5 then r.1.ioStages w tc gatp fsc iova wr
    else if (k.pid.isNone && !tc.testBit 9) || fsc / 2 ^ 60 = 0 then r.1.ioStages w tc gatp 0 iova wr
    else
      let pid := k.pid.getD 0
      if 2 ^ pdBits (fsc / 2 ^ 60) ≤ pid then (r.1, .inr 260)
      else
        let d := (r.1.onChip (fun c => c.iommuCount (w.rid / 256 % 16) (w.rid % 256) 6)).pdtWalk w gatp (tc.testBit 7) pid
          (fsc % 2 ^ 44 * 4096) (fsc / 2 ^ 60 - 1)
        match d.2 with
        | .inr k => (d.1, .inr k)
        | .inl pc =>
          let ta := d.1.walkWord w.rid 1 w.label pc
          let fs := ta.1.walkWord w.rid 1 w.label (pc + 8)
          match ta.2, fs.2 with
          | some t, some s => if t.testBit 0 then fs.1.ioStages w tc gatp s iova wr else (fs.1, .inr 266)
          | _, _ => (fs.1, .inr 265)

-- faults and commands

/-- A fault of a request joins the fault queue, which lies in pages of W1 (R285): FQMF where the write is refused, FQOF
where the queue is full. -/
def Pkg.iommuFault (p : Pkg) (n f cause ttyp iova : Nat) (pid : Option Nat := none) : Pkg :=
  let c := p.chip
  let csr := c.iommuReg n 9 / 2 ^ 32
  if !csr.testBit 0 || csr.testBit 8 || csr.testBit 9 then p
  else
    let fqb := c.iommuReg n 5
    let size := 2 ^ (fqb % 32 + 1)
    let head := c.iommuReg n 6 % 2 ^ 32
    let tail := c.iommuReg n 6 / 2 ^ 32
    let irq := fun (x : Chip) => if csr.testBit 1 then x.iommuIrq n 1 else x
    if (tail + 1) % size = head then p.onChip (fun x => irq (x.putIommu n 9 41 41 1))
    else
      let proc := match pid with
        | some k => k * 2 ^ 12 + 2 ^ 32
        | none => 0
      let r := toBytes 8 (cause + proc + ttyp * 2 ^ 34 + f * 2 ^ 40) ++ toBytes 8 0 ++ toBytes 8 iova ++ toBytes 8 0
      let q := p.writeBytes (0x2000 + 256 * n + f) 1 (c.fnWalker n f).label (bits fqb 53 10 * 4096 + 32 * tail) r false
      if q.2 ≠ 0 then q.1.onChip (fun x => irq (x.putIommu n 9 40 40 1))
      else q.1.onChip (fun x => irq (x.putIommu n 6 63 32 ((tail + 1) % size)))

/-- The translation of an IOVA of function f (R285): the mode of ddtp, the device context and both stages. -/
def Pkg.ioTranslate (p : Pkg) (n f iova : Nat) (wr : Bool) (k : IoKind) : Pkg × IoX :=
  let ddtp := p.chip.iommuReg n 2
  let mode := ddtp % 16
  let w := p.chip.fnWalker n f
  if mode = 1 then (p, if k.ats = 0 then .inl iova else .inr 260)
  else if mode = 0 ∨ 5 ≤ mode then (p, .inr 256)
  else if mode = 2 ∧ 128 ≤ f then (p, .inr 260)
  else
    let d := (p.onChip (fun c => c.iommuCount n f 5)).ddtWalk w f (bits ddtp 53 10 * 4096) (mode - 2)
    match d.2 with
    | .inl dc => d.1.ioUnder w dc iova wr k
    | .inr e => (d.1, .inr e)

/-- A request of function f for an IOVA: its physical address; a fault is recorded and answers none. -/
def Pkg.iommu (p : Pkg) (n f iova : Nat) (wr : Bool) (k : IoKind := {}) : Pkg × Option Nat :=
  let r := (p.onChip (fun c => c.iommuCount n f (k.ats + 1))).ioTranslate n f iova wr k
  match r.2 with
  | .inl pa => (r.1, some pa)
  | .inr e => (r.1.iommuFault n f e (4 * k.ats + (if wr then 3 else 2)) iova k.pid, none)

/-- A translation request of ATS (R345): the completion's entry, with the rights R (bit 0) and W (bit 1) that the tables give; no right
where the page gives none. None where the function may not ask. -/
def Pkg.ioAts (p : Pkg) (n f iova : Nat) (wr : Bool) (pid : Option Nat) : Pkg × Option Nat :=
  let k : IoKind := { pid := pid, ats := 2 }
  let r := (p.onChip (fun c => c.iommuCount n f 3)).ioTranslate n f iova false k
  match r.2 with
  | .inl pa =>
    let w := if wr then r.1.ioTranslate n f iova true k else (r.1, .inr 0)
    (w.1, some (pa / 4096 * 4096 + 1 + (match w.2 with
      | .inl _ => 2
      | .inr _ => 0)))
  | .inr e => if e = ioPageCause false ∨ e = ioGuestCause false then (r.1, some 0) else (r.1.iommuFault n f e 8 iova pid, none)

/-- The command queue is enabled and not stopped by an error. -/
def Chip.cqOn (c : Chip) (n : Nat) : Bool :=
  let csr := c.iommuReg n 9 % 2 ^ 32
  csr.testBit 0 && !csr.testBit 8 && !csr.testBit 9 && !csr.testBit 10

/-- IOMMU_COMMAND (R285): the next command of the command queue, fetched with W1's rights, as a request of the station's function 0, with
its label (log entry 112, DESIGN CHOICE: the manual does not say whose it is). No translation is cached in the
model, so an invalidation changes nothing; IOFENCE.C writes its data; a command of another opcode stops the queue. -/
def Pkg.iommuCommand (p : Pkg) (n : Nat) : Pkg :=
  let c := p.chip
  let cqb := c.iommuReg n 3
  let size := 2 ^ (cqb % 32 + 1)
  let head := c.iommuReg n 4 % 2 ^ 32
  let tail := c.iommuReg n 4 / 2 ^ 32
  let rid := 0x2000 + 256 * n
  let label := (c.fnWalker n 0).label
  let irq := fun (x : Chip) => if bitAt (c.iommuReg n 9) 1 then x.iommuIrq n 0 else x
  if !c.cqOn n || head == tail || c.still then p
  else
    let r := p.readBytes rid 1 label (bits cqb 53 10 * 4096 + 16 * head) 16
    if r.2.2.1 ≠ 0 ∨ r.2.2.2 then r.1.onChip (fun x => irq (x.putIommu n 9 8 8 1))
    else
      let w0 := ofBytes (r.2.1.take 8)
      let w1 := ofBytes (r.2.1.drop 8)
      let next := fun (q : Pkg) => q.onChip (fun x => x.putIommu n 4 31 0 ((head + 1) % size))
      match w0 % 128 with
      | 1 | 3 | 4 => next r.1
      | 2 =>
        if w0.testBit 10 then
          let q := r.1.writeBytes rid 1 label (w1 % 2 ^ 62 * 4) (toBytes 4 (w0 / 2 ^ 32)) false
          if q.2 = 0 then next q.1 else q.1.onChip (fun x => irq (x.putIommu n 9 8 8 1))
        else next r.1
      | _ => r.1.onChip (fun x => irq (x.putIommu n 9 10 10 1))

def execIommuCommand (n : Nat) (s : State) : Result := need (n < 10) (s.onPkg (fun p => p.iommuCommand n))

/-- A doubleword of the register page as it reads: the capabilities, and the counters' overflow bits (iocountovf), which are their OF bits. -/
def Chip.iommuRead (c : Chip) (n i : Nat) : Nat :=
  if i = 0 then iommuCaps
  else if i = 11 then
    c.iommuReg n 11 + (List.range 8).foldl (fun acc k => acc + flag (bitAt (c.iommuReg n (44 + k)) 63) * 2 ^ (k + 1)) 0
  else c.iommuReg n i

/-- The bits of a doubleword that software writes as they are; the others are reserved, or the IOMMU's own: ddtp, cqb, fqb, the queues'
pointers, cqcsr and fqcsr, ipsr, iocountinh, iohpmcycles with eight counters and their events, icvec, and the 16 entries of the MSI
configuration table. There is no page-request queue. -/
def iommuMask (i : Nat) : Nat :=
  let ppn := (2 ^ 44 - 1) * 2 ^ 10
  let csr := 3 + 3 * 2 ^ 32
  if i = 2 then ppn + 15
  else if i = 3 ∨ i = 5 then ppn + 31
  else if i = 4 then (2 ^ 32 - 1) * 2 ^ 32
  else if i = 6 then 2 ^ 32 - 1
  else if i = 9 then csr
  else if i = 11 then 0x1FF * 2 ^ 32
  else if i = 12 ∨ (13 ≤ i ∧ i ≤ 20) ∨ (44 ≤ i ∧ i ≤ 51) then 2 ^ 64 - 1
  else if i = 95 then 0xFFF
  else if 96 ≤ i ∧ i ≤ 127 then (if i % 2 = 0 then 2 ^ 56 - 4 else 2 ^ 33 - 1)
  else 0

/-- The value of a doubleword after a write of v: the IOMMU's own bits stay, the queues' ON bits follow their enables, error and pending bits
clear by writing 1, a mode of ddtp that does not exist leaves ddtp's mode as it is. -/
def iommuStored (i old v : Nat) : Nat :=
  let m := iommuMask i
  let w1c := fun (b : Nat) (x : Nat) => withBit x b (bitAt old b && !bitAt v b)
  let on := fun (b : Nat) (x : Nat) => withBit x (b + 16) (bitAt x b)
  let x := (old &&& (2 ^ 64 - 1 ^^^ m)) ||| (v &&& m)
  match i with
  | 2 => if 5 ≤ v % 16 then x / 16 * 16 + old % 16 else x
  | 9 => on 32 (on 0 (w1c 41 (w1c 40 (w1c 11 (w1c 10 (w1c 9 (w1c 8 x)))))))
  | 10 => w1c 34 (w1c 33 (w1c 32 x))
  | _ => x

/-- A write of 4 or 8 bytes to the register page (R285, R438): from W1 and Uzomuris only. -/
def Chip.iommuWrite (c : Chip) (who : Who) (n off size v : Nat) : Chip :=
  if !who.sealed then c.violate who 1 (0x4000000 + n * 0x100000 + 0x8000 + off)
  else
    let old := c.iommuReg n (off / 8)
    let raw := (Field.put ⟨8 * (off % 8) + 8 * size - 1, 8 * (off % 8), .rw, none⟩ (BitVec.ofNat 64 old) v).toNat
    let full := if size = 8 then v else if off / 8 = 9 ∨ off / 8 = 10 then
        -- the half that is not written keeps its write-one-to-clear bits
        (if off % 8 = 0 then v % 2 ^ 32 + (if off / 8 = 9 then old / 2 ^ 32 % 2 ^ 8 * 2 ^ 32 else 0) else old % 2 ^ 8 + v % 2 ^ 32 * 2 ^ 32)
      else raw
    let i := off / 8
    let c1 := c.setIommu n i (iommuStored i old (full % 2 ^ 64))
    if 96 ≤ i ∧ i ≤ 127 ∧ i % 2 = 1 ∧ bitAt old 32 ∧ !bitAt (c1.iommuReg n i) 32 then c1.iommuUnmask n ((i - 97) / 2) else c1

-- functions that issue nothing

-- device MSIs

/-- A device MSI (R286): written into its file where the file's owner is the function's owner world, else dropped with a
record in the fault queue and a world violation; before the WLD commit it is refused as R26 describes (R280). A function that issues
nothing sends none; one to a hart that is not there is
counted (R16). -/
def Pkg.deviceMsi (p : Pkg) (fn die core file id : Nat) : Pkg :=
  let c := p.chip
  let n := fn / 256
  let f := fn % 256
  let h := 24 * die + core
  if c.fnSilent n f then p
  else if !c.wldCommitted then
    p.onChip (fun x => x.addrRefusal (0x2000 + fn) (x.fnOwner n f) 1 (regBase + imsicOff die core file))
  else if !c.hartThere h then p.onChip (fun x => x.msiDropped die)
  else if c.fileOwner h file ≠ c.fnOwner n f then
    let off := imsicOff die core file
    (p.iommuFault n f 262 3 (regBase + off)).onChip (fun x =>
      x.violate { rid := 0x2000 + fn, world := c.fnOwner n f } 4 off)
  else p.onChip (fun x => ((x.onHart h (fun y => y.onFile file (IFile.setEip id))).wake h).run h)

def execDeviceMsi (fn die core file id : Nat) (s : State) : Result :=
  need (fn < 2560 && die < 12 && core < 24 && file < 8 && id < 2 ^ 32) (s.onPkg (fun p => p.deviceMsi fn die core file id))

end Sys2Proof.Machine
end

