-- ==== Sys2Proof/Machine/Stations.lean ====
section
/-! DEFINITION. The dual-role stations (spec/14_expansion_ports.md): the PORT commit, links, accesses through the ECAM and
memory windows, requests of functions, the slot sideband bus, window commits, power states, function-level reset, timeouts
and errors (R343 to R369). Where a register of configuration space has no place in the manual, the layout is that of PCI
Express Base 6.0 with the PCI power management capability at 0x40, the PCI Express capability at 0x48 and DPC at 0x180. -/

namespace Sys2Proof.Machine

-- ports and functions

/-- A station and port; a station and function index. -/
def portOk (n j : Nat) : Bool := n < 10 && j < 4
def fnOk (n f : Nat) : Bool := n < 10 && f < 256

/-- Event m of port j of station n (R367). -/
def Chip.portEvent (c : Chip) (n j m : Nat) : Chip := c.raiseEvent (256 + 32 * n + 8 * j + m)

/-- A port error (R368), met by a request of `rid` or, without one, reported for the station. -/
def Chip.portError (c : Chip) (n j code : Nat) (rid : Nat := 0x2000 + 256 * n) (world : Nat := 1) (acc : Nat := 15)
    (addr : Nat := 0) : Chip :=
  c.report (unitStation n) (452 + 4 * n + 2) rid (reqWorld rid world) acc (j + 16 * code) addr

/-- LINK_UP of a port. -/
def Chip.linkUp (c : Chip) (n j : Nat) : Bool := c.bit (.PORT_STATUS n j) F.PORT_STATUS_LINK_UP

/-- A root port. -/
def Chip.isRoot (c : Chip) (n j : Nat) : Bool := c.portCommitted n && c.portFormed n j && !c.isEp n j

-- answers to requests

/-- The requester of a message. -/
def msgWho (m : Msg) : Who := { rid := m.rid, world := m.world, uz := ridType m.rid == 5 }

/-- IO_RSP with a status and data, or IO_ACK for a write that succeeds (R200, R205). -/
def Chip.ioReply (c : Chip) (m : Msg) (st : Nat) (v : Nat := 0) : Chip :=
  if m.kind = .IO_WR ∧ st = 0 then c.sendDie (m.reply .IO_ACK)
  else c.sendDie { m.reply .IO_RSP with code := st, dcode := flag (st == 0 && decide (4 ≤ m.code)), data := BitVec.ofNat 512 v }

/-- A request that a station answers later (R365), as a message. -/
def PortReq.msg (q : PortReq) : Msg :=
  { kind := .IO_RD, die := if q.who.rid < 288 then q.who.rid / 24 else 12, line := q.addr / 64, sub := q.addr % 64
    rid := q.who.rid, world := q.who.world, acc := q.acc, tag := q.msgTag, code := q.code }

/-- A request that a port sent is answered with a status, where somebody waits for it. -/
def Chip.replyTo (c : Chip) (q : PortReq) (st : Nat) : Chip := if q.own then c else c.ioReply q.msg st

/-- Every request outstanding at a port completes with Unsupported Request (R356, R369). -/
def Chip.failOutstanding (c : Chip) (n j : Nat) : Chip :=
  ((c.port n j).outst.foldl (fun (x : Chip) q => x.replyTo q 1) c).onPort n j (fun s => { s with outst := [] })

/-- A completion a station sends to a device below it or to its host. -/
def Chip.cpl (c : Chip) (n j st : Nat) (v : Line) (poison : Bool) : Chip :=
  c.onPort n j (fun s => { s with cpl := some (st, v, poison) })

/-- Unsupported Request. -/
def Chip.unsupported (c : Chip) (n j : Nat) : Chip := c.cpl n j 1 0 false

/-- An AER error of a port is logged: bits 0 to 31 are the uncorrectable error status, bits 32 and up the root error status; at an endpoint it raises event 8j + 4 (R367). -/
def Chip.aerLog (c : Chip) (n j bit : Nat) : Chip :=
  let c1 := c.onPort n j (fun s => { s with aer := withBit s.aer bit true })
  if c.isEp n j then c1.portEvent n j 4 else c1

-- links

/-- A change of Slot Status (R354): event 8j + 1 when the enable at bit `en` of Slot Control is set. -/
def Chip.slotStatus (c : Chip) (n j : Nat) (en : Nat) (g : Word → Word) : Chip :=
  let s := c.port n j
  let c1 := c.onPort n j (fun s => { s with slotSts := g s.slotSts })
  if g s.slotSts ≠ s.slotSts ∧ bitAt s.slotCtl.toNat en then c1.portEvent n j 1 else c1

/-- Set bits of a word. -/
def orBits (m : Nat) (w : Word) : Word := w ||| BitVec.ofNat 64 m

/-- The data link layer goes down (R356, R366): event 8j + 0, retired tags return to use, what is outstanding fails. -/
def Chip.linkLoss (c : Chip) (n j : Nat) : Chip :=
  if !c.linkUp n j then c
  else
    let c1 := ((c.failOutstanding n j).onPort n j (fun s => { s with retired := [] })).setReg (.PORT_STATUS n j)
      (F.PORT_STATUS_DSTATE.put 0 (c.fld (.PORT_STATUS n j) F.PORT_STATUS_DSTATE))
    let c2 := (c1.setFld (.PORT_ERR n j) F.PORT_ERR_RETIRED 0).portEvent n j 0
    if c2.isRoot n j then c2.slotStatus n j 12 (orBits 0x100) else c2

def execPortLinkDown (n j : Nat) (s : State) : Result := need (portOk n j) (s.onChip (fun c => c.linkLoss n j))

/-- MAX_RATE of a station, 0 and 7 taken as 6; the width of a port. -/
def Chip.maxRate (c : Chip) (n : Nat) : Nat :=
  let r := c.fld (.PORT_CFG n) F.PORT_CFG_MAX_RATE
  if r = 0 ∨ r = 7 then 6 else r
def Chip.portWidth (c : Chip) (n : Nat) : Nat := 16 / c.portCount n

/-- A link trains (R344 to R346): at most to MAX_RATE and the port's width, in flit mode always at 64 GT/s, in CXL mode only
where the port offers it; that of a root port only once PERST_N to its slot is released (R355). -/
def Chip.linkTrain (c : Chip) (n j rate width : Nat) (flit cxl : Bool) : Chip :=
  let s := c.port n j
  if !c.portCommitted n || !c.portFormed n j || c.stopped n j || c.linkUp n j || s.linkDis || s.dpc || s.perst
      || (!c.isEp n j && !s.perstHigh) || rate == 0 || c.maxRate n < rate || width == 0 || c.portWidth n < width then c
  else
    let r := Reg.PORT_STATUS n j
    let c1 := ((((c.setBit r F.PORT_STATUS_LINK_UP true).setFld r F.PORT_STATUS_RATE rate).setFld r F.PORT_STATUS_WIDTH
      width).setBit r F.PORT_STATUS_FLIT (flit || rate == 6)).setBit r F.PORT_STATUS_CXL_UP
      (cxl && !c.isEp n j && bitAt (c.fld (.PORT_CFG n) F.PORT_CFG_CXL) j)
    let c2 := c1.portEvent n j 0
    if c2.isRoot n j then c2.slotStatus n j 12 (orBits 0x100) else c2

def execPortLinkUp (n j rate width : Nat) (flit cxl : Bool) (s : State) : Result :=
  need (portOk n j && rate < 8 && width ≤ 16) (s.onChip (fun c => c.linkTrain n j rate width flit cxl))

-- the PORT commit

/-- A valid CXL window of a station breaks R351. -/
def Chip.cxlBad (c : Chip) (n j : Nat) : Bool :=
  let lo := c.fld (.PORT_CXL_BASE n j) F.PORT_CXL_BASE_ADDR
  let hi := c.fld (.PORT_CXL_LIMIT n j) F.PORT_CXL_LIMIT_ADDR
  c.bit (.PORT_CXL_BASE n j) F.PORT_CXL_BASE_VALID &&
    (hi < lo || lo < 0x10000 || 0x800000 ≤ hi
      || (pairs 10 4).any (fun q => q.1 != n && c.portCommitted q.1 && c.bit (.PORT_CXL_BASE q.1 q.2) F.PORT_CXL_BASE_VALID
          && lo ≤ c.fld (.PORT_CXL_LIMIT q.1 q.2) F.PORT_CXL_LIMIT_ADDR
          && c.fld (.PORT_CXL_BASE q.1 q.2) F.PORT_CXL_BASE_ADDR ≤ hi))

/-- The commit is refused (R344). -/
def Chip.portCommitBad (c : Chip) (n : Nat) : Bool :=
  c.fld (.PORT_CFG n) F.PORT_CFG_BIFUR == 3
    || (List.range 4).any (fun j => c.isEp n j && bitAt (c.fld (.PORT_CFG n) F.PORT_CFG_CXL) j)
    || (List.range 4).any (fun j => c.cxlBad n j)
    || (List.range 4).any (fun j => c.isEp n j && c.fnRange n ≤ c.fld (.PORT_EP_CFG n j) F.PORT_EP_CFG_TOTAL_VFS)

/-- COMMIT (R344): it locks, or is refused with COMMIT_ERR. -/
def Chip.portCommit (c : Chip) (n : Nat) : Chip :=
  if c.portCommitted n then c
  else if c.portCommitBad n then c.setBit (.PORT_CTL n) F.PORT_CTL_COMMIT_ERR true
  else c.setBit (.PORT_CTL n) F.PORT_CTL_COMMITTED true

/-- STOPPED of a port. -/
def Chip.setStopped (c : Chip) (n j : Nat) (b : Bool) : Chip :=
  c.setFld (.PORT_CTL n) F.PORT_CTL_STOPPED (withBit (c.fld (.PORT_CTL n) F.PORT_CTL_STOPPED) j b)

/-- A port stops (R369): Link Disable, every outstanding request answered, event 8j + 7. -/
def Chip.stopPort (c : Chip) (n j : Nat) : Chip :=
  if c.stopped n j then c
  else (((c.failOutstanding n j).linkLoss n j).onPort n j (fun s => { s with linkDis := true })).setStopped n j true
    |>.portEvent n j 7

/-- RESTART (R369): a stopped port may train again. -/
def Chip.restartPort (c : Chip) (n j : Nat) : Chip :=
  if c.stopped n j then ((c.setStopped n j false).onPort n j (fun s => { s with linkDis := false })).portEvent n j 7 else c

/-- A write to PORT_CTL: COMMIT and RESTART are accepted from W1 and Uzomuris. -/
def Chip.stationCtlWrite (c : Chip) (who : Who) (n : Nat) (v : Word) : Chip :=
  let r := Reg.PORT_CTL n
  let cmd : Bool := F.PORT_CTL_COMMIT.get v == 1 || F.PORT_CTL_RESTART.get v != 0
  if cmd && !who.sealed then c.refuseWrite who r
  else
    let c1 := c.storeFields r v
    let c2 := if F.PORT_CTL_COMMIT.get v = 1 then c1.portCommit n else c1
    forUpTo 4 (fun j x => if bitAt (F.PORT_CTL_RESTART.get v) j then x.restartPort n j else x) c2

def execPortCommit (who : Who) (n : Nat) (s : State) : Result :=
  need (n < 10) (s.onChip (fun c => c.stationCtlWrite who n (F.PORT_CTL_COMMIT.put 0 1)))
def execRestart (who : Who) (n j : Nat) (s : State) : Result :=
  need (portOk n j) (s.onChip (fun c => c.stationCtlWrite who n (F.PORT_CTL_RESTART.put 0 (2 ^ j))))

-- outbound requests

/-- A tag that is neither outstanding nor retired, of 768 (R345, R366). -/
def PortSt.freeTag (s : PortSt) : Option Nat :=
  (List.range 768).find? (fun t => !s.outst.any (fun q => q.tag == t) && !s.retired.contains t)

/-- A request goes out through a port (R356, R365): refused while the link is down or the port is stopped; a posted write is
acknowledged; whether a device completes a non-posted request at once, with which status and which data, is a free value,
and a request it has not completed is outstanding. One that finds all 768 tags in use waits on its way (R345). -/
def Chip.outbound (c : Chip) (n j : Nat) (m : Msg) (fn : Nat) (posted : Bool) : Chip :=
  if c.stopped n j || !c.linkUp n j then c.ioReply m 1
  else if posted then c.ioReply m 0
  else
    match (c.port n j).freeTag with
    | none => c.send m
    | some tag =>
      let f := c.free
      let c1 := c.nextFree.nextFree.nextFree
      if Config.freeNat f % 2 = 0 then
        c1.ioReply m (Config.freeNat (f + 1) % 3) (Config.freeNat (f + 2) % 2 ^ (8 * 2 ^ m.code))
      else
        let q : PortReq :=
          { tag := tag, who := msgWho m, at_ := c.now, acc := m.acc, addr := m.line * 64 + m.sub, fn := fn
            era := sget 0 n c.winEra, units := m.answerUnits, msgTag := m.tag, code := m.code }
        c1.onPort n j (fun s => { s with outst := s.outst ++ [q] })

/-- An access to a function is admitted (R280, R284, R347, R348): while the function is handed over for Uzomuris only (R292); else for its
owner and, where the requester is no station function (R284), for W1. Before the WLD commit it is so for every hart, and for nobody else. -/
def Chip.mayFn (c : Chip) (who : Who) (n f : Nat) : Bool :=
  who.uz || (c.fld (fnOwn n f) F.WLD_OWN_STATE == 0 &&
    (if c.wldCommitted then who.world == c.fnOwner n f || (who.world == 1 && ridType who.rid != 2) else who.rid < 288))

/-- CHECK 5 for a hart; Unsupported Request for a device (R284). -/
def Chip.ioRefuse (c : Chip) (m : Msg) : Chip :=
  if m.rid < 288 then c.refused m 5 0 else c.ioReply m 1

/-- The lowest function index of a port that RID binds to a bus, device and function (R347, R349). -/
def Chip.boundFn (c : Chip) (n j bdf : Nat) : Option Nat :=
  ((List.range (c.fnRange n)).map (· + j * c.fnRange n)).find? (fun f =>
    c.bit (.PORT_FN_CFG n f) F.PORT_FN_CFG_RID_VALID && c.fld (.PORT_FN_CFG n f) F.PORT_FN_CFG_RID == bdf)

/-- The reset value of the writable part of a dword of a root port's configuration space (log entry 101, PRESUMED, the base
specification's): 512-byte read requests with relaxed ordering and no-snoop; the masks and severities of AER. -/
def rootInit (i : Nat) : BitVec 32 :=
  match i with
  | 0x14 => 0x2810
  | 0x43 => 0x462030
  | 0x45 => 0x2000
  | _ => 0

/-- The bits of a dword of a root port's configuration space that software writes (log entry 101, PRESUMED). What R345 does not name
is absent, so no bit of it is writable: I/O space, expansion ROM, interrupts of the port itself, phantom functions, eDPC. -/
def rootMask (i : Nat) : BitVec 32 :=
  match i with
  | 0x01 => 0x546
  | 0x03 => 0xFF
  | 0x06 => 0xFFFFFF
  | 0x08 => 0xFFF0FFF0
  | 0x09 => 0xFFF0FFF0
  | 0x0A => 0xFFFFFFFF
  | 0x0B => 0xFFFFFFFF
  | 0x0F => 0x4300FF
  | 0x11 => 0x103
  | 0x14 => 0x79FF
  | 0x16 => 0xCCA
  | 0x19 => 0x1F
  | 0x1C => 0x1000
  | 0x1E => 0xF
  | 0x42 => 0x7FFF030
  | 0x43 => 0x7FFF030
  | 0x45 => 0xF1C1
  | 0x46 => 0x140
  | 0x4B => 0x7
  | 0x59 => 0xD0000
  | 0x61 => 0x1F0000
  | 0x6A => 0x3
  | _ => 0

/-- What software has written to a dword of a root port's configuration space. -/
def PortSt.cfgAt (s : PortSt) (i : Nat) : BitVec 32 := sget (rootInit i) i s.cfg

/-- A write of Slot Control (R354): it takes effect in the next frame. -/
def Chip.slotControl (c : Chip) (n j : Nat) (v : Word) : Chip :=
  if !c.isRoot n j then c
  else c.onPort n j (fun s => { s with slotCtl := v &&& 0x1FFF, cut := s.cut && !bitAt v.toNat 10 })

def execSlotControlWrite (n j : Nat) (v : Word) (s : State) : Result :=
  need (portOk n j) (s.onChip (fun c => c.slotControl n j v))

/-- The range of Device Control 2 that holds a completion timeout of us microseconds (R365). -/
def ctRange (us : Nat) : Nat :=
  if us ≤ 100 then 1 else if us ≤ 10000 then 2 else if us ≤ 55000 then 5 else if us ≤ 210000 then 6 else if us ≤ 900000 then 9
  else if us ≤ 3500000 then 10 else if us ≤ 13000000 then 13 else 14

/-- The fixed bits of a root port's configuration space (R345; the places are the base specification's: log entry 101, PRESUMED): the
type 1 header (class 0x060400), power management at 0x40 (D0, D3hot and D3cold; PME), the PCI Express capability at 0x48, AER at 0x100,
ACS at 0x160, DPC at 0x180 and PTM at 0x1A0. -/
def Chip.rootFixed (c : Chip) (n j i : Nat) : Nat :=
  let s := c.port n j
  let sts := c.reg (.PORT_STATUS n j)
  let rate := c.maxRate n
  match i with
  | 0x00 => 0x1F3A
  | 0x01 => 0x100000
  | 0x02 => 0x6040000
  | 0x03 => 0x10000
  | 0x09 => 0x10001
  | 0x0D => 0x40
  | 0x10 => 0xC8034801
  | 0x11 => 0x8
  | 0x12 => 0x1420010
  | 0x13 => 0x8022
  | 0x15 => rate + (c.portWidth n) * 2 ^ 4 + 0x780800 + j * 2 ^ 24
  | 0x16 => 16 * flag s.linkDis + F.PORT_STATUS_RATE.get sts * 2 ^ 16 + F.PORT_STATUS_WIDTH.get sts * 2 ^ 20 + flag (c.linkUp n j) * 2 ^ 29
  | 0x17 => 0x7F + j * 2 ^ 19
  | 0x18 => s.slotCtl.toNat + s.slotSts.toNat * 2 ^ 16
  | 0x1B => 0x30380
  | 0x1C => ctRange (c.fld (.PORT_CT n j) F.PORT_CT_CT_US)
  | 0x1D => 2 ^ (rate + 1) - 2
  | 0x40 => 0x16010001
  | 0x41 => s.aer % 2 ^ 32
  | 0x4C => s.aer / 2 ^ 32
  | 0x58 => 0x1801000D
  | 0x59 => 0xD
  | 0x60 => 0x1A01001D
  | 0x62 => flag s.dpc
  | 0x68 => 0x1001F
  | 0x69 => 0x6
  | _ => 0

/-- A root port's own configuration dword as it reads. -/
def Chip.rootCfgRead (c : Chip) (n j i : Nat) : Nat :=
  c.rootFixed n j i ||| ((c.port n j).cfgAt i &&& rootMask i).toNat

/-- Software turns the link of a root port off or on (Link Disable); a stopped port stays off (R369). -/
def Chip.linkDisable (c : Chip) (n j : Nat) (off : Bool) : Chip :=
  (if off && !(c.port n j).linkDis then (c.failOutstanding n j).linkLoss n j else c).onPort n j (fun s =>
    { s with linkDis := off || c.stopped n j })

/-- Write one to clear. -/
def clearOnes (a v : Nat) : Nat := a ^^^ (a &&& v)

/-- A write of a root port's own configuration dword: Slot Control and Status, AER and DPC status (a one clears), Link Disable, Secondary
Bus Reset (the link goes down), and the writable bits of the rest. -/
def Chip.rootCfgWrite (c : Chip) (n j i : Nat) (v : Nat) : Chip :=
  let c1 := c.onPort n j (fun s => { s with cfg := sset (rootInit i) i (BitVec.ofNat 32 v &&& rootMask i) s.cfg })
  match i with
  | 0x0F => if v.testBit 22 then (c1.failOutstanding n j).linkLoss n j else c1
  | 0x16 => c1.linkDisable n j (v.testBit 4)
  | 0x18 => (c.slotControl n j (BitVec.ofNat 64 (v % 2 ^ 16))).onPort n j (fun s =>
      { s with slotSts := s.slotSts &&& ~~~(BitVec.ofNat 64 (v / 2 ^ 16) &&& 0x11F) })
  | 0x41 => c.onPort n j (fun s => { s with aer := s.aer / 2 ^ 32 * 2 ^ 32 + clearOnes (s.aer % 2 ^ 32) v })
  | 0x4C => c.onPort n j (fun s => { s with aer := s.aer % 2 ^ 32 + clearOnes (s.aer / 2 ^ 32) v * 2 ^ 32 })
  | 0x62 => if v.testBit 0 then c.onPort n j (fun s => { s with dpc := false }) else c
  | _ => c1

/-- Bus, device and function of an address in an ECAM window, and its dword. -/
def ecamBdf (a : Nat) : Nat := a % 2 ^ 28 / 4096
def ecamDword (a : Nat) : Nat := a % 4096 / 4

/-- An ECAM access is admitted (R347): to the root port and to what no function names, from W0 and W1; to a function, as R347 says. -/
def Chip.ecamMay (c : Chip) (who : Who) (n j bdf : Nat) : Bool :=
  match (if bdf = 0 then none else c.boundFn n j bdf) with
  | some f => c.mayFn who n f
  | none => who.world == 0 || who.sealed

/-- A bus behind a root port: from its secondary to its subordinate bus number (R347). -/
def Chip.busBehind (c : Chip) (n j bus : Nat) : Bool :=
  let w := ((c.port n j).cfgAt 6).toNat
  bits w 15 8 ≤ bus && bus ≤ bits w 23 16

/-- An access through the ECAM window of root port j (R347). -/
def Chip.ecam (c : Chip) (n j : Nat) (m : Msg) : Chip :=
  let a := m.line * 64 + m.sub
  let bdf := ecamBdf a
  let i := ecamDword a
  if !c.ecamMay (msgWho m) n j bdf then c.ioRefuse m
  else if bdf = 0 then
    if m.kind = .IO_WR then (c.rootCfgWrite n j i (m.data.toNat % 2 ^ 32)).ioReply m 0 else c.ioReply m 0 (c.rootCfgRead n j i)
  else if c.busBehind n j (bdf / 256) then c.outbound n j m ((c.boundFn n j bdf).getD 256) false
  else c.ioReply m 1

/-- An access through memory window e (R348): the root port that owns it, for the owner of the window's function. -/
def Chip.mwinAccess (c : Chip) (n e : Nat) (m : Msg) : Chip :=
  let j := F.PORT_MWIN_BASE_PORT.get (c.winReg (.PORT_MWIN_BASE n e))
  let f := F.PORT_MWIN_LIMIT_FN.get (c.winReg (.PORT_MWIN_LIMIT n e))
  if c.mayFn (msgWho m) n f then c.outbound n j m f (m.kind == .IO_WR) else c.ioRefuse m

/-- An access to the PCIe window region (R347, R348, R26). -/
def Chip.stationIo (c : Chip) (m : Msg) : Chip :=
  let a := m.line * 64 + m.sub
  match c.region a with
  | .ecam n j => c.ecam n j m
  | .mwin n e => c.mwinAccess n e m
  | _ => (c.addrRefusal m.rid m.world m.acc a).ioReply m 1

/-- An access to the PCIe window region on its way to its station (R215, R216, R220): a fenced port holds it until the fence has lasted its
limit; then, and where the port is disabled, it is answered at the requester's own port. -/
def Chip.windowIo (c : Chip) (m : Msg) : Chip :=
  let p := c.packetOf m
  if p.destPort < 2 && c.portShut (p.destR, p.destPort) then
    c.undeliverable p.srcR p (if c.destState p = 3 then 2 else 1)
  else if c.destState p = 0 then c.stationIo m
  else c

/-- The message of an access to an I/O region. -/
def ioMsg (who : Who) (addr code : Nat) (wr : Option Word) : Msg :=
  { kind := if wr.isSome then .IO_WR else .IO_RD, die := if who.rid < 288 then who.rid / 24 else 12, line := addr / 64
    sub := addr % 64, rid := who.rid, world := who.world, acc := if wr.isSome then 1 else 0, code := code
    data := BitVec.ofNat 512 (wr.getD 0).toNat }

/-- An address; a requester (R18, R274). -/
def addrOk (a : Nat) : Bool := a < 2 ^ 52
def whoOk (who : Who) : Bool := who.rid < 2 ^ 16 && who.world < 16

def execEcamAccess (who : Who) (addr : Nat) (wr : Option Word) (s : State) : Result :=
  need (addrOk addr && whoOk who && addr % 4 == 0) (s.onChip (fun c => c.windowIo (ioMsg who addr 2 wr)))
def execPcieWindowAccess (who : Who) (addr size : Nat) (wr : Option Word) (s : State) : Result :=
  need (addrOk addr && whoOk who && size ≤ 3 && addr % 64 + 2 ^ size ≤ 64)
    (s.onChip (fun c => c.windowIo (ioMsg who addr size wr)))

-- requests of functions

/-- A station issues requests: not in the safe state (R339), with its port open (R215). -/
def Chip.stationOpen (c : Chip) (n : Nat) : Bool := !c.still && c.domainOpen (.station n) && !c.down.contains (1, n)

/-- A station's request for a function may leave now: its class has tokens, too (R264). -/
def Chip.stationGo (c : Chip) (n f : Nat) : Bool :=
  let w := c.fnWalker n f
  c.stationOpen n && c.ioMayGo w.rid w.label

/-- An AtomicOp names an operation of R383 at an address aligned to its width; a PASID has 20 bits. -/
def reqOk (addr : Nat) (q : DevReq) : Bool :=
  match q with
  | .atomic code _ => 1 ≤ code && code ≤ 7 && addr % atomicSize code == 0
  | .withPasid k q => k < 2 ^ 20 && reqOk addr q
  | .translated q => reqOk addr q
  | _ => true

/-- What a request does, whatever its PASID and address type. -/
def reqBase : DevReq → DevReq
  | .withPasid _ q => reqBase q
  | .translated q => reqBase q
  | q => q

/-- A poisoned TLP, or one that asks for what a port does not implement, is an error of the port (R368). -/
def Chip.noteTlp (c : Chip) (n j : Nat) (q : DevReq) : Chip :=
  match reqBase q with
  | .poisoned _ _ => (c.aerLog n j 12).portError n j 5
  | _ => c
def Chip.unsupportedTlp (c : Chip) (n j : Nat) : Chip := (c.unsupported n j).portError n j 4

/-- How a request comes to the IOMMU. -/
def reqKind : DevReq → IoKind
  | .withPasid k q => { reqKind q with pid := some k }
  | .translated q => { reqKind q with ats := 1 }
  | .translate _ => { ats := 2 }
  | _ => {}

/-- A request that needs no right to write. -/
def reqIsRead (q : DevReq) : Bool := reqBase q == .read

/-- A request of function f for a physical address (R200, R284, R317, R318, R345): main memory is read or written under f's owner
world, or takes an AtomicOp; a peer's window, of whichever port, is reached through its owner (R348); an interrupt file takes an MSI. Before
the WLD commit every request is refused as R26 describes (R280). -/
def Pkg.fnAccess (p : Pkg) (n j f pa : Nat) (q : DevReq) : Pkg :=
  let w := p.chip.fnWalker n f
  let line := pa / 64
  let refuse := fun (c : Chip) => (c.addrRefusal w.rid w.world (flag (!reqIsRead q)) pa).unsupported n j
  let answer := fun (acc : Nat) (r : Pkg × IoAnswer) (v : Line) =>
    if r.2.check ≠ 0 then r.1.onChip (fun c => c.unsupported n j)
    else r.1.onChip (fun c =>
      let c1 := if r.2.poison then
          c.report (unitStation n) (452 + 4 * n + 3) w.rid (reqWorld w.rid w.world) acc 0 pa else c
      c1.cpl n j 0 v r.2.poison)
  let put := fun (v : Line) (mask : Word) (bad : Bool) =>
    let r := p.ioWrite w.rid w.world w.label line v mask bad
    if r.2 ≠ 0 then r.1.onChip (fun c => c.unsupported n j) else r.1
  if !p.chip.wldCommitted then p.onChip refuse
  else match p.chip.region pa with
  | .dram | .cxl _ _ =>
    if !p.chip.ioIdle line then p
    else match reqBase q with
      | .read =>
        let r := p.ioRead w.rid w.world w.label line
        answer 0 r r.2.data
      | .write v mask => put v mask false
      | .poisoned v mask => (put v mask true).onChip (fun c => c.noteTlp n j q)
      | .atomic code args =>
        let r := p.ioAtomic w.rid w.world w.label line (pa % 64) code (atomicArgs code args)
        answer 6 r (BitVec.ofNat 512 (Line.slice r.2.data (pa % 64) (atomicSize code)))
      | _ => p
  | .ecam _ _ | .mwin _ _ =>
    let who : Who := { rid := w.rid, world := w.world }
    match reqBase q with
    | .read => p.onChip (fun c => c.windowIo { ioMsg who pa 3 none with line := line })
    | .write v _ => p.onChip (fun c => c.windowIo { ioMsg who pa 3 (some (v.setWidth 64)) with line := line })
    | .poisoned v _ => p.onChip (fun c =>
        (c.windowIo { ioMsg who pa 3 (some (v.setWidth 64)) with line := line, poison := true }).noteTlp n j q)
    | _ => p.onChip (fun c => c.unsupportedTlp n j)
  | .regs off =>
    match reqBase q with
    | .write v _ =>
      if 0x10000000 ≤ off && off < 0x1C000000 && 0x800000 ≤ off % 0x1000000 && off % 0x1000000 < 0x8C0000 then
        let t := imsicOf off
        p.deviceMsi (256 * n + f) t.1 t.2.1 t.2.2 (Line.slice v (pa % 64) 4)
      else p.onChip refuse
    | _ => p.onChip (fun c => (refuse c).noteTlp n j q)
  | .refused => p.onChip (fun c => (refuse c).noteTlp n j q)

/-- A request of a function for an IOVA: through the IOMMU (R285), or Unsupported Request; a translation request is answered with the
entry (R345). -/
def Pkg.fnRequest (p : Pkg) (n j f iova : Nat) (q : DevReq) : Pkg :=
  if p.chip.fnSilent n f then p.onChip (fun c => c.unsupported n j)
  else if !p.chip.stationGo n f then
    p.onChip (fun c => if c.stationOpen n then c.noteShort (c.fnWalker n f).rid (c.fnWalker n f).label else c)
  else
    match reqBase q with
    | .translate wr =>
      let r := p.ioAts n f iova wr (reqKind q).pid
      r.1.onChip (fun c => match r.2 with
        | some e => c.cpl n j 0 (BitVec.ofNat 512 e) false
        | none => c.unsupported n j)
    | _ =>
      let r := p.iommu n f iova (!reqIsRead q) (reqKind q)
      match r.2 with
      | none => r.1.onChip (fun c => c.unsupported n j)
      | some pa => if addrOk pa then r.1.fnAccess n j f pa q else r.1.onChip (fun c => c.unsupported n j)

/-- ACS source validation of a root port (R345), where its ACS Control enables it: a requester's bus must be one of those behind the port. -/
def Chip.acsBlocks (c : Chip) (n j rid : Nat) : Bool :=
  ((c.port n j).cfgAt 0x59).toNat.testBit 16 && !c.busBehind n j (rid / 256)

/-- A CXL device finds a line of its memory bad (R346): it answers the line poisoned from then on, until it is written. -/
def Pkg.mediaBad (p : Pkg) (n j addr : Nat) : Pkg :=
  if p.chip.region addr = .cxl n j ∧ p.chip.chanUp (addr / 64) then p.setPoison (addr / 64) true else p

/-- A request from a device below a root port (R349): bound to the lowest function index whose RID is the request's, or
unmapped; one that ACS blocks is an AER error of the port (bit 21, ACS Violation) and port error 7. -/
def Pkg.downstream (p : Pkg) (n j rid addr : Nat) (q : DevReq) : Pkg :=
  if !p.chip.isRoot n j || !p.chip.linkUp n j then p
  else if reqBase q = .media then p.mediaBad n j addr
  else if p.chip.acsBlocks n j rid then p.onChip (fun c => ((c.unsupported n j).aerLog n j 21).portError n j 7)
  else match p.chip.boundFn n j rid with
    | some f => p.fnRequest n j f addr q
    | none => p.onChip (fun c => (c.unsupported n j).portError n j 6)

def execDownstreamRequest (n j rid addr : Nat) (q : DevReq) (s : State) : Result :=
  need (portOk n j && rid < 2 ^ 16 && addr < 2 ^ 64 && reqOk addr q) (s.onPkg (fun p => p.downstream n j rid addr q))

/-- The size of BAR_2 of a function (R357). -/
def Chip.bar2Size (c : Chip) (n f : Nat) : Nat :=
  let r := Reg.PORT_EP_CFG n (c.portOfFn n f)
  2 ^ (if c.vfOf n f = 0 then c.fld r F.PORT_EP_CFG_BAR2_LOG2 else c.fld r F.PORT_EP_CFG_VF_BAR2_LOG2)

/-- An inbound request at offset `off` of BAR_2 of function f (R358, R363): Unsupported Request in D3hot, with memory space
disabled, beyond the BAR, with no window, or with what an endpoint does not implement (R345, port error 4); else a request of f for TARGET + off. -/
def Pkg.bar2 (p : Pkg) (n f off : Nat) (q : DevReq) : Pkg :=
  let c := p.chip
  let j := c.portOfFn n f
  let w := c.winReg (.PORT_FN_WIN n f)
  if !c.epFn n f || !c.linkUp n j then p
  else if reqKind q != {} || reqBase q == .media then p.onChip (fun c => c.unsupportedTlp n j)
  else if !c.barOn n f || c.bar2Size n f ≤ off || F.PORT_FN_WIN_VALID.get w == 0 then p.onChip (fun c => c.unsupported n j)
  else p.fnRequest n j f (F.PORT_FN_WIN_TARGET.get w * 2 ^ 20 + off) q

def execBar2Request (n f off : Nat) (q : DevReq) (s : State) : Result :=
  need (fnOk n f && off < 2 ^ 40 && reqOk off q) (s.onPkg (fun p => p.bar2 n f off q))

/-- An answer to a request that a function made of another station's window reaches it, and goes on to the device (R217, R284). -/
def Chip.peerAnswer (c : Chip) (m : Msg) (st : Nat) : Chip :=
  if ridType m.rid = 2 then
    let n := m.rid / 256 % 16
    c.cpl n (c.portOfFn n (m.rid % 256)) st m.data m.poison
  else c

def execUnavail (m : Msg) (s : State) : Result := need (m.fits .UNAVAIL) (s.onChip (fun c => c.ifArrives m (fun x => ((x.unavailable m).peerAnswer m 1).instUnavail m)))
def execIoRsp (m : Msg) (s : State) : Result := need (m.fits .IO_RSP) (s.onChip (fun c => c.ifArrives m (fun x => (x.ioAnswer m m.code).peerAnswer m m.code)))

-- the slot sideband bus

/-- The out byte without its parity bit, for a root port (R353): power, the two indicators, PERST_N and the reference
clock. -/
def PortSt.outBits (s : PortSt) : Nat :=
  let ctl := s.slotCtl.toNat
  let pwr : Bool := !bitAt ctl 10 && !s.cut
  flag pwr + 2 * bits ctl 9 8 + 8 * bits ctl 7 6 + 32 * flag (pwr && s.perstHigh) + 64 * flag pwr

/-- Odd parity over bits 0 to 6 (R352). -/
def parityBit (b : Nat) : Bool := ((List.range 7).filter (fun i => b.testBit i)).length % 2 == 0
def parityOk (b : Byte) : Bool := b.toNat.testBit 7 == parityBit b.toNat

/-- The out byte of a port: 0x9E for an endpoint or absent port (R353). -/
def Chip.outByte (c : Chip) (n j : Nat) : Nat :=
  if c.isRoot n j then let b := (c.port n j).outBits; b + 128 * flag (parityBit b) else 0x9E

/-- The slot is shut (R356): power, PERST_N and the clock are taken away, DPC triggers where it is enabled, outstanding
requests fail and the link goes down. -/
def Chip.dpcOn (c : Chip) (n j : Nat) : Nat := bits ((c.port n j).cfgAt 0x61).toNat 17 16
def Chip.dpcTrigger (c : Chip) (n j : Nat) : Chip :=
  if c.dpcOn n j = 0 ∨ (c.port n j).dpc then c
  else ((c.onPort n j (fun s => { s with dpc := true })).linkLoss n j).portEvent n j 2
def Chip.slotShut (c : Chip) (n j : Nat) : Chip :=
  ((((c.onPort n j (fun s => { s with cut := true, perstHigh := false, pwrAt := none, goodAt := none })).dpcTrigger n
    j).failOutstanding n j).linkLoss n j)

/-- Bit i has had the same value in the last three in bytes. -/
def debounced (h : List Nat) (i : Nat) : Option Bool :=
  match h with
  | a :: b :: c :: _ => if a.testBit i == b.testBit i && b.testBit i == c.testBit i then some (a.testBit i) else none
  | _ => none

/-- A debounced slot input (R354): its state bit and, on a change, its changed bit in Slot Status. -/
def Chip.slotInput (c : Chip) (n j inBit state changed en : Nat) : Chip :=
  match debounced (c.port n j).inHist inBit with
  | none => c
  | some v =>
    if bitAt (c.port n j).slotSts.toNat state = v then c
    else c.slotStatus n j en (fun w => BitVec.ofNat 64 (withBit (withBit w.toNat state v) changed true))

/-- The attention button (R354): a change that is accepted to pressed sets Attention Button Pressed. -/
def Chip.attnInput (c : Chip) (n j : Nat) : Chip :=
  match debounced (c.port n j).inHist 1 with
  | none => c
  | some v =>
    let c1 := c.onPort n j (fun s => { s with attn := v })
    if v ∧ !(c.port n j).attn then c1.slotStatus n j 0 (orBits 1) else c1

/-- WAKE_N of a station (R363): driven low while port 0, an endpoint, has PERST_IN_N low and a function with PME_Status and
PME_En. -/
def Chip.noteWake (c : Chip) (n : Nat) : Chip :=
  let low : Bool := c.isEp n 0 && (c.port n 0).perst && (List.range 256).any (fun f =>
    c.portOfFn n f == 0 && (c.fn n f).pmeSts && (c.fn n f).pmeEn)
  { c with pins := { c.pins with wakeN := if low then addOnce n c.pins.wakeN else c.pins.wakeN.filter (· != n) } }

/-- The Initiate FLR configuration write to the device behind a root-port index with FLR_CAP (R364 step 4): the device completes it at
once, or it is outstanding at the port; which is a free value. -/
def Chip.flrSend (c : Chip) (n f : Nat) : Chip :=
  let j := c.portOfFn n f
  let r := Reg.PORT_FN_CFG n f
  if !c.isRoot n j || !c.linkUp n j || !c.bit r F.PORT_FN_CFG_RID_VALID || !c.bit r F.PORT_FN_CFG_FLR_CAP then c
  else match (c.port n j).freeTag with
    | none => c
    | some tag =>
      if Config.freeNat c.free % 2 = 0 then c.nextFree
      else
        let q : PortReq :=
          { tag := tag, who := { rid := 0x2000 + 256 * n + f, world := 1 }, at_ := c.now, acc := 1, addr := 0, fn := f
            era := sget 0 n c.winEra, units := 0, own := true }
        c.nextFree.onPort n j (fun s => { s with outst := s.outst ++ [q] })

/-- A function-level reset starts (R364 steps 1, 2 and 4), or joins one that runs. -/
def Chip.flrStart (c : Chip) (n f : Nat) : Chip :=
  if c.bit (.PORT_FN_CFG n f) F.PORT_FN_CFG_FLR_BUSY then c
  else
    let c1 := ((c.setBit (.PORT_FN_CFG n f) F.PORT_FN_CFG_FLR_BUSY true).onFn n f (fun s =>
      { s with msix := [], flrSince := some c.now })).flrSend n f
    (c1.boundTo n f).foldl (fun (x : Chip) s => x.instReset s.1 s.2 false) c1

/-- The functions of a port. -/
def Chip.portFns (c : Chip) (n j : Nat) : List Nat := (List.range (c.fnRange n)).map (· + j * c.fnRange n)

/-- PERST_IN_N falls (R363): D3cold, with a function-level reset of every function and the link down. -/
def Chip.perstFall (c : Chip) (n j : Nat) : Chip :=
  if !c.portCommitted n || !c.isEp n j || (c.port n j).perst then c
  else
    let c1 := (c.onPort n j (fun s => { s with perst := true })).linkLoss n j
    (((c1.portFns n j).filter (fun f => c1.epFn n f)).foldl (fun (x : Chip) f => x.flrStart n f) c1).noteWake n

def execPerstInFall (n j : Nat) (s : State) : Result := need (portOk n j) (s.onChip (fun c => c.perstFall n j))

/-- An accepted in byte of port j (R353 to R356). -/
def Chip.slotByte (c : Chip) (n j b : Nat) : Chip :=
  let old := c.port n j
  let up := c.linkUp n j
  let c1 := (c.onPort n j (fun s => { s with inHist := (b :: s.inHist).take 3, lastIn := b })).setFld (.PORT_SLOT n j)
    F.PORT_SLOT_IN b
  if c.isEp n j then
    if b.testBit 5 then (c1.onPort n j (fun s => { s with perst := false })).noteWake n else c1.perstFall n j
  else if !c.isRoot n j then c1
  else
    let c2 := ((c1.slotInput n j 0 6 3 3).slotInput n j 3 5 2 2).attnInput n j
    let gone : Bool := up && bitAt old.slotSts.toNat 6 && !bitAt (c2.port n j).slotSts.toNat 6
    let c3 := if b.testBit 2 then (c2.slotStatus n j 1 (orBits 2)).slotShut n j else c2
    let c4 := if gone then (c3.slotShut n j).portError n j 1 else c3
    let pwr : Bool := (c4.outByte n j).testBit 0
    c4.onPort n j (fun s => { s with
      goodAt := if b.testBit 4 && pwr then some (s.goodAt.getD c.now) else none })

/-- A frame of the slot sideband bus (R352): the out bytes are driven, and the in bytes are accepted or discarded. -/
def Chip.ssbFrame (c : Chip) (n : Nat) (l : List Byte) : Chip :=
  let c1 := forUpTo 4 (fun j (x : Chip) =>
    let out := x.outByte n j
    let x1 := x.setFld (.PORT_SLOT n j) F.PORT_SLOT_OUT out
    x1.onPort n j (fun s => { s with pwrAt := if out.testBit 0 && x.isRoot n j then some (s.pwrAt.getD c.now) else none
                                     perstHigh := s.perstHigh && out.testBit 0 })) c
  if l.all parityOk then
    (forUpTo 4 (fun j x => x.slotByte n j (l.getD j 0).toNat) c1).onPort n 0 (fun s => { s with badRun := 0 })
  else
    let run := (c1.port n 0).badRun + 1
    let c2 := forUpTo 4 (fun j x => x.bump (.PORT_SLOT n j) F.PORT_SLOT_BAD_FRAMES)
      (c1.onPort n 0 (fun s => { s with badRun := run }))
    if run = 8 then
      ((List.range 4).filter (fun j => c2.isRoot n j)).foldl (fun (x : Chip) j =>
        (x.setBit (.PORT_SLOT n j) F.PORT_SLOT_SSB_FAIL true).portError n j 10) c2
    else c2

/-- A write to PORT_SLOT_j: SSB_FAIL, which a one clears, sets again while frames are discarded (R10, R352). -/
def Chip.slotWrite (c : Chip) (who : Who) (n j : Nat) (v : Word) : Chip :=
  let c1 := c.writeFields who (.PORT_SLOT n j) v
  if 8 ≤ (c.port n 0).badRun && c.bit (.PORT_SLOT n j) F.PORT_SLOT_SSB_FAIL then c1.setBit (.PORT_SLOT n j) F.PORT_SLOT_SSB_FAIL true
  else c1

def execSsbFrame (n : Nat) (b0 b1 b2 b3 : Byte) (s : State) : Result :=
  need (n < 10) (s.onChip (fun c => c.ssbFrame n [b0, b1, b2, b3]))

/-- No PWR_GOOD within 500 ms of PWR_EN (R355): Power Fault Detected, event 8j + 1, PWR_EN clears. -/
def Chip.pwrGoodLate (c : Chip) (n j : Nat) : Chip :=
  match (c.port n j).pwrAt, (c.port n j).goodAt with
  | some t, none =>
    if t + 500000000 ≤ c.now then
      (((c.onPort n j (fun s => { s with slotSts := orBits 2 s.slotSts })).portEvent n j 1).onPort n j (fun s =>
        { s with cut := true, perstHigh := false, pwrAt := none }))
    else c
  | _, _ => c

def execPwrGoodTimeout (n j : Nat) (s : State) : Result := need (portOk n j) (s.onChip (fun c => c.pwrGoodLate n j))

/-- PERST_N is released 100 ms after PWR_GOOD (R355), in the next frame. -/
def Chip.perstRelease (c : Chip) (n j : Nat) : Chip :=
  match (c.port n j).goodAt with
  | some t => if t + 100000000 ≤ c.now then c.onPort n j (fun s => { s with perstHigh := true }) else c
  | none => c

def execPerstRelease (n j : Nat) (s : State) : Result := need (portOk n j) (s.onChip (fun c => c.perstRelease n j))

-- window commits

/-- The valid windows of a station in a window set: first and last byte (R347, R348). -/
def windowsOf (n : Nat) (get : Reg → Word) : List (Nat × Nat) :=
  ((List.range 4).filterMap (fun j =>
      let w := get (.PORT_ECAM n j)
      let b := F.PORT_ECAM_BASE.get w * 2 ^ 28
      if F.PORT_ECAM_VALID.get w = 1 then some (b, b + (F.PORT_ECAM_BUS_MAX.get w + 1) * 2 ^ 20 - 1) else none))
    ++ (List.range 32).filterMap (fun e =>
      let w := get (.PORT_MWIN_BASE n e)
      if F.PORT_MWIN_BASE_VALID.get w = 1 then
        some (F.PORT_MWIN_BASE_BASE.get w * 4096, F.PORT_MWIN_LIMIT_LIMIT.get (get (.PORT_MWIN_LIMIT n e)) * 4096 + 4095)
      else none)

/-- Two ranges overlap. -/
def overlaps (a b : Nat × Nat) : Bool := a.1 ≤ b.2 && b.1 ≤ a.2

/-- Some element meets a later one. -/
def anyPair {α : Type} (r : α → α → Bool) : List α → Bool
  | [] => false
  | x :: l => l.any (r x) || anyPair r l

/-- A window commit is refused (R360). -/
def Chip.winBad (c : Chip) (n : Nat) : Bool :=
  let l := windowsOf n c.reg
  anyPair overlaps l || l.any (fun w => w.2 < w.1 || w.1 < 0x8000000000000 || 0xF000000000000 ≤ w.2)
    || ((List.range 10).filter (· != n)).any (fun m => (windowsOf m c.winReg).any (fun w => l.any (overlaps w)))
    || (List.range 32).any (fun e => F.PORT_MWIN_BASE_VALID.get (c.reg (.PORT_MWIN_BASE n e)) == 1 &&
        c.portOfFn n (F.PORT_MWIN_LIMIT_FN.get (c.reg (.PORT_MWIN_LIMIT n e)))
          != F.PORT_MWIN_BASE_PORT.get (c.reg (.PORT_MWIN_BASE n e)))

/-- The staged registers of a station with the port each belongs to (R360). -/
def Chip.winRegs (c : Chip) (n : Nat) : List (Reg × Nat) :=
  (List.range 4).map (fun j => (Reg.PORT_ECAM n j, j))
    ++ (List.range 32).flatMap (fun e =>
      let j := F.PORT_MWIN_BASE_PORT.get (c.reg (.PORT_MWIN_BASE n e))
      [(Reg.PORT_MWIN_BASE n e, j), (Reg.PORT_MWIN_LIMIT n e, j)])
    ++ (List.range 256).map (fun f => (Reg.PORT_FN_WIN n f, c.portOfFn n f))

/-- A commit ends (R362): RESULT, DONE, and event 8j + 5 for every port whose windows changed. -/
def Chip.winEnd (c : Chip) (n : Nat) : Chip :=
  let r := Reg.PORT_WIN_CTL n
  let c1 := ((c.setBit r F.PORT_WIN_CTL_BUSY false).setFld r F.PORT_WIN_CTL_RESULT 1).setBit r F.PORT_WIN_CTL_DONE true
  let c2 := forUpTo 256 (fun f x => x.onFn n f (fun s => { s with winPend := false })) c1
  forUpTo 4 (fun j (x : Chip) =>
    if (x.port n j).winChanged then (x.onPort n j (fun s => { s with winChanged := false })).portEvent n j 5 else x) c2

/-- The station changes over to its staged set (R360, R362). -/
def Chip.winSwitch (c : Chip) (n : Nat) : Chip :=
  let changed := (c.winRegs n).filter (fun p => c.reg p.1 != c.winReg p.1)
  let c1 : Chip := { c with
    winNow := changed.foldl (fun m p => sset 0 p.1.offset (c.reg p.1) m) c.winNow
    winEra := sset 0 n (sget 0 n c.winEra + 1) c.winEra }
  let c2 := changed.foldl (fun (x : Chip) p => x.onPort n p.2 (fun s => { s with winChanged := true })) c1
  if c.bit (.PORT_WIN_CTL n) F.PORT_WIN_CTL_WINDOW_DRAIN then
    (forUpTo 256 (fun f (x : Chip) =>
      if c.reg (.PORT_FN_WIN n f) ≠ c.winReg (.PORT_FN_WIN n f) then x.onFn n f (fun s => { s with winPend := true }) else x)
      c2).setBit (.PORT_WIN_CTL n) F.PORT_WIN_CTL_BUSY true
  else c2.winEnd n

/-- A write to PORT_WIN_CTL (R360): COMMIT is accepted from W1 and Uzomuris. -/
def Chip.winCtlWrite (c : Chip) (who : Who) (n : Nat) (v : Word) : Chip :=
  let r := Reg.PORT_WIN_CTL n
  c.ifMay who.sealed who r (fun x =>
    let x1 := x.storeFields r v
    if F.PORT_WIN_CTL_COMMIT.get v ≠ 1 then x1
    else if x1.bit r F.PORT_WIN_CTL_BUSY then x1.setFld r F.PORT_WIN_CTL_RESULT 3
    else if x1.winBad n then (x1.setFld r F.PORT_WIN_CTL_RESULT 2).setBit r F.PORT_WIN_CTL_DONE true
    else x1.winSwitch n)

def execWinCommit (who : Who) (n : Nat) (s : State) : Result :=
  need (n < 10) (s.onChip (fun c =>
    c.winCtlWrite who n (F.PORT_WIN_CTL_COMMIT.put (c.reg (.PORT_WIN_CTL n) &&& ~~~F.PORT_WIN_CTL_DONE.mask) 1)))

/-- No request translated under an old set is outstanding (R362). -/
def Chip.winDrained (c : Chip) (n : Nat) : Bool :=
  (List.range 4).all (fun j => (c.port n j).outst.all (fun q => q.era == sget 0 n c.winEra))

def execWinDrainDone (n : Nat) (s : State) : Result :=
  need (n < 10) (s.onChip (fun c =>
    if c.bit (.PORT_WIN_CTL n) F.PORT_WIN_CTL_BUSY && c.winDrained n then c.winEnd n else c))

-- configuration by the host

/-- The size of BAR 0, 2 or 4 of a function (R357). -/
def Chip.barSize (c : Chip) (n f bar : Nat) : Nat :=
  match bar with
  | 0 => if c.vfOf n f = 0 then 2 ^ 25 else 2 ^ 16
  | 2 => c.bar2Size n f
  | _ => if c.vfOf n f = 0 then 2 ^ 22 else 2 ^ 14

/-- The upper dword of a 64-bit BAR is written (R361): both dwords take effect together, bits below the size zero. -/
def Chip.barUpper (c : Chip) (n f bar : Nat) (v : BitVec 32) : Chip :=
  if !c.epFn n f then c
  else
    let size := c.barSize n f bar
    c.onFn n f (fun s =>
      let a := v.toNat * 2 ^ 32 + (sget 0 bar s.barLow).toNat
      { s with bar := sset 0 bar (a / size * size) s.bar })

/-- BAR 0, 2 or 4. -/
def barOk (b : Nat) : Bool := b == 0 || b == 2 || b == 4

def execBarUpperWrite (n f bar : Nat) (v : BitVec 32) (s : State) : Result :=
  need (fnOk n f && barOk bar) (s.onChip (fun c => c.barUpper n f bar v))

/-- An MSI-X message of a function (R363, R379): sent to the host, or pending in D3hot with PME_Status and,
with PME_En, a PME message. -/
def Chip.sendMsix (c : Chip) (n f vec : Nat) : Chip :=
  if (c.fn n f).d3 then
    let c1 := (c.onFn n f (fun s => { s with msix := addOnce vec s.msix, pmeSts := true })).noteWake n
    if (c.fn n f).pmeEn ∧ c.linkUp n (c.portOfFn n f) then
      c1.onPort n (c.portOfFn n f) (fun s => { s with pmeOut := s.pmeOut ++ [f] })
    else c1
  else { c with msix := c.msix ++ [(256 * n + f, vec)] }

/-- A host moves a function between D0 and D3hot (R363): event 8j + 3; in D0 the pending vectors are sent. -/
def Chip.setD (c : Chip) (n f : Nat) (d3 : Bool) : Chip :=
  if !c.epFn n f || (c.fn n f).d3 == d3 then c
  else
    let j := c.portOfFn n f
    let vs := (c.fn n f).msix
    let c1 := c.onFn n f (fun s => { s with d3 := d3, msix := if d3 then s.msix else [] })
    let c2 := if d3 then c1 else vs.foldl (fun (x : Chip) v => x.sendMsix n f v) c1
    (if c.vfOf n f = 0 then c2.setFld (.PORT_STATUS n j) F.PORT_STATUS_DSTATE (if d3 then 3 else 0) else c2).portEvent n j 3

def execDStateChange (n f : Nat) (d3 : Bool) (s : State) : Result := need (fnOk n f) (s.onChip (fun c => c.setD n f d3))

/-- A host's configuration write to an endpoint function (R345, R357, R361, R363, R364): Memory Space Enable, the BARs, PMCSR,
Initiate FLR, VF Enable (whose clearing resets the VFs) and NumVFs, and the rest of its writable space. -/
def Chip.hostConfig (c : Chip) (n f off : Nat) (v : BitVec 32) : Chip :=
  if !c.epFn n f || c.bit (.PORT_FN_CFG n f) F.PORT_FN_CFG_FLR_BUSY then c
  else
    let low := fun (bar : Nat) => c.onFn n f (fun s => { s with barLow := sset 0 bar v s.barLow })
    match off / 4 with
    | 0 | 2 | 11 => c
    | 1 => c.onFn n f (fun s => { s with memEn := v.toNat.testBit 1 })
    | 4 => low 0
    | 5 => c.barUpper n f 0 v
    | 6 => low 2
    | 7 => c.barUpper n f 2 v
    | 8 => low 4
    | 9 => c.barUpper n f 4 v
    | 17 =>
      (((c.onFn n f (fun s => { s with pmeEn := v.toNat.testBit 8, pmeSts := s.pmeSts && !v.toNat.testBit 15 })).setD n f
        (bits v.toNat 1 0 == 3))).noteWake n
    | 20 => if v.toNat.testBit 15 then c.flrStart n f else c
    | 0x5A =>
      let c1 := c.onFn n f (fun s => { s with cfg := sset 0 0x5A (v &&& 0x19) s.cfg })
      if c.vfOf n f = 0 ∧ c.vfEnable n (c.portOfFn n f) ∧ !v.toNat.testBit 0 then
        ((c.portFns n (c.portOfFn n f)).filter (fun g => g != f && c.epFn n g)).foldl (fun (x : Chip) g => x.flrStart n g) c1
      else c1
    | 0x5C =>
      if c.vfEnable n (c.portOfFn n f) then c
      else c.onFn n f (fun s => { s with cfg := sset 0 0x5C (v &&& 0xFFFF) s.cfg })
    | i => c.onFn n f (fun s => { s with cfg := sset 0 i v s.cfg })

def execHostConfigWrite (n f off : Nat) (v : BitVec 32) (s : State) : Result :=
  need (fnOk n f && off < 4096 && off % 4 == 0) (s.onChip (fun c => c.hostConfig n f off v))

/-- A PME message reaches a root port, or the board drives WAKE_N low (R363). -/
def execPmeReceived (n j : Nat) (s : State) : Result :=
  need (portOk n j) (s.onChip (fun c => if c.isRoot n j then c.portEvent n j 3 else c))

/-- PORT_FNP_PAGE_SEL of a function is written by its host through BAR_0 (R357, R359). -/
def Chip.pageSel (c : Chip) (n f : Nat) (v : Word) : Chip :=
  if c.epFn n f && c.barOn n f then c.onFn n f (fun s => { s with pageSel := v.toNat % 2 ^ 13 }) else c

def execPageSelWrite (n f : Nat) (v : Word) (s : State) : Result := need (fnOk n f) (s.onChip (fun c => c.pageSel n f v))

/-- The registers of the function register page as they read (R359), by offset. -/
def Chip.fnpRead (c : Chip) (n f off : Nat) : Nat :=
  let j := c.portOfFn n f
  match off with
  | 0 => 0x10000006288 + f * 2 ^ 16 + c.vfOf n f * 2 ^ 24 + n * 2 ^ 32 + j * 2 ^ 36
  | 8 => F.PORT_FN_WIN_VALID.get (c.winReg (.PORT_FN_WIN n f)) + 2 * flag (c.fn n f).winPend + (c.boundTo n f).length * 2 ^ 16
  | 16 => (c.fn n f).pageSel
  | 24 =>
    if c.bar0Pages n f ≤ (c.fn n f).pageSel then 0
    else match (c.boundTo n f).find? (fun s => c.fld (.SE_INST_CFG s.1 s.2) F.SE_INST_CFG_BIND_PAGE == (c.fn n f).pageSel) with
    | some (k, i) => 1 + 2 * c.instType k i + 16 * c.instState k i
        + c.fld (.SE_INST_CFG k i) F.SE_INST_CFG_VEC * 2 ^ 16 + c.fld (.SE_INST_CFG k i) F.SE_INST_CFG_LOG2 * 2 ^ 32
    | none => 0
  | _ => 0

-- function-level reset

/-- A write to PORT_FN_CFG (R364): accepted from W1 and Uzomuris; FLR starts a reset. -/
def Chip.fnCfgWrite (c : Chip) (who : Who) (n f : Nat) (v : Word) : Chip :=
  c.ifMay who.sealed who (.PORT_FN_CFG n f) (fun x =>
    let x1 := x.storeFields (.PORT_FN_CFG n f) v
    if F.PORT_FN_CFG_FLR.get v = 1 then x1.flrStart n f else x1)

def execFlr (who : Who) (n f : Nat) (s : State) : Result :=
  need (fnOk n f) (s.onChip (fun c => c.fnCfgWrite who n f (F.PORT_FN_CFG_FLR.put (c.reg (.PORT_FN_CFG n f)) 1)))

/-- A function-level reset completes (R364 step 5), once no request of f is outstanding and its instances are reset: its
configuration space returns to reset; PME context, LABEL, RID and TARGET are kept. -/
def Chip.flrEnd (c : Chip) (n f : Nat) : Chip :=
  let j := c.portOfFn n f
  if !c.bit (.PORT_FN_CFG n f) F.PORT_FN_CFG_FLR_BUSY then c
  else if (c.port n j).outst.any (fun q => q.fn == f) || (c.boundTo n f).any (fun s => c.instState s.1 s.2 == 2) then c
  else
    let c1 := (c.setBit (.PORT_FN_CFG n f) F.PORT_FN_CFG_FLR_BUSY false).onFn n f (fun s =>
      { FnSt.reset with disabled := s.disabled, winPend := s.winPend, pmeSts := s.pmeSts, pmeEn := s.pmeEn })
    (if c.epFn n f && c.vfOf n f == 0 then c1.setFld (.PORT_STATUS n j) F.PORT_STATUS_DSTATE 0 else c1).portEvent n j 6

def execFlrDone (n f : Nat) (s : State) : Result := need (fnOk n f) (s.onChip (fun c => c.flrEnd n f))

-- timeouts and errors

/-- RETIRED follows the retired tags; above 512 port error 11 is raised once (R366). -/
def Chip.noteRetired (c : Chip) (n j : Nat) : Chip :=
  c.setFld (.PORT_ERR n j) F.PORT_ERR_RETIRED (c.port n j).retired.length

/-- A request times out (R365, R366): status 3 to its requester, CT_COUNT, port error 2, and its tag is retired. -/
def Chip.cplTimeout (c : Chip) (n j tag : Nat) : Chip :=
  match (c.port n j).outst.find? (fun q => q.tag == tag) with
  | none => c
  | some q =>
    if q.at_ + 1000 * c.fld (.PORT_CT n j) F.PORT_CT_CT_US ≤ c.now then
      let c1 := ((((c.onPort n j (fun s => { s with
        outst := s.outst.filter (fun x => x.tag != tag), retired := s.retired ++ [tag] })).replyTo q 3).aerLog n j
        14).bump (.PORT_ERR n j) F.PORT_ERR_CT_COUNT).portError n j 2 q.who.rid q.who.world q.acc q.addr
      let c2 := c1.noteRetired n j
      if (c2.port n j).retired.length = 513 then c2.portError n j 11 else c2
    else c

def execCompletionTimeout (n j tag : Nat) (s : State) : Result :=
  need (portOk n j && tag < 768) (s.onChip (fun c => c.cplTimeout n j tag))

/-- A completion for a retired tag (R366): discarded, counted, and the tag returns to use. -/
def Chip.cplLate (c : Chip) (n j tag : Nat) : Chip :=
  if (c.port n j).retired.contains tag then
    ((((c.onPort n j (fun s => { s with retired := s.retired.filter (· != tag) })).aerLog n j 16).bump (.PORT_ERR n j)
      F.PORT_ERR_LATE_CPL).portError n j 3).noteRetired n j
  else c

def execLateCompletion (n j tag : Nat) (s : State) : Result :=
  need (portOk n j && tag < 768) (s.onChip (fun c => c.cplLate n j tag))

/-- A received INTx message is dropped and counted (R345). -/
def execIntxReceived (n j : Nat) (s : State) : Result :=
  need (portOk n j) (s.onChip (fun c => if c.isRoot n j then c.bump (.PORT_ERR n j) F.PORT_ERR_INTX_DROPS else c))

/-- ERR_FATAL or ERR_NONFATAL reaches a root port (R367, R368): logged, event 8j + 4, port error 8 or 9; DPC triggers where
it is enabled for the message. -/
def Chip.aerMessage (c : Chip) (n j : Nat) (fatal : Bool) : Chip :=
  if !c.isRoot n j then c
  else
    let c1 := (((c.aerLog n j 34).aerLog n j (if fatal then 38 else 37)).portEvent n j 4).portError n j (if fatal then 8 else 9)
    if (fatal && c.dpcOn n j != 0) || c.dpcOn n j == 2 then c1.dpcTrigger n j else c1

def execAerErrorMessage (n j : Nat) (fatal : Bool) (s : State) : Result :=
  need (portOk n j) (s.onChip (fun c => c.aerMessage n j fatal))

end Sys2Proof.Machine
end

