-- ==== Sys2Proof/Machine/Pair.lean ====
section
/-! DEFINITION. Mirrored pairs (spec/16_pair_operation.md): liveness and heartbeats (R394, R407), discovery (R395 to R397,
R406), the region table (R398, R403), the mirror stream and its acknowledgements (R399 to R405), separation, yield and takeover
(R408 to R411), and resynchronisation (R412, R413). -/

namespace Sys2Proof.Machine

-- state, events and faults

/-- A pair fault (R414), reported by Uzomuris. -/
def Chip.pairFault (c : Chip) (n : Nat) : Chip := c.report unitUz n 0x5000 1 15

/-- PAIR_ALIVE_O is driven in this STATE (R394). -/
def aliveState (st : Nat) : Bool := st == 2 || st == 3 || st == 4 || st == 5 || st == 7

/-- PAIR_ALIVE_O takes a level. -/
def Chip.setAliveO (c : Chip) (b : Bool) : Chip := { c with pins := { c.pins with pairAliveO := b } }

/-- A control unit waits for its bundle on each working pair link; a newer one of its type takes its place. -/
def Chip.pairCtl (c : Chip) (u : Line) : Chip :=
  ([24, 25].filter (fun k => c.linkState k == 2)).foldl (fun (x : Chip) k =>
    let e := x.linkEnd k false
    x.setLinkEnd k false { e with ctl := e.ctl.filter (fun y => y.toNat % 256 != u.toNat % 256) ++ [u] }) c

/-- STATE changes (R414): event 576 and a PAIR_STATE record; the level faults 34 (HELD_OUT) and 38 (INCOMPLETE) end with
their STATE; PAIR_ALIVE_O goes low outside the states of R394. -/
def Chip.setPairState (c : Chip) (st : Nat) : Chip :=
  if c.pairState = st then c
  else
    let c1 := (((c.setFld .PAIR_STATUS F.PAIR_STATUS_STATE st).setCause 34 (st == 6)).setCause 38 (st == 7)).raiseEvent 576
    (if aliveState st then c1 else c1.setAliveO false).pairRecord

/-- The TARGET flags follow the region table in force. -/
def Chip.noteTargets (c : Chip) : Chip :=
  forUpTo 16 (fun n x => x.setBit (.PAIR_REGION_STATUS n) F.PAIR_REGION_STATUS_TARGET
    (!x.isSource && F.PAIR_REGION_BASE_MODE.get (sget 0 n x.pair.base) != 0)) c

/-- SOURCE sets or clears. -/
def Chip.setSource (c : Chip) (b : Bool) : Chip := (c.setBit .PAIR_STATUS F.PAIR_STATUS_SOURCE b).noteTargets

-- held completions

/-- A completion of R401 is given. -/
def Chip.giveHeld (c : Chip) (m : Msg) : Chip := if m.die < 12 then c.sendDie m else (c.send m).endTxn m.line

/-- The completions held that satisfy p are given. -/
def Chip.release (c : Chip) (p : Msg × Nat × Nat → Bool) : Chip :=
  (c.pair.held.filter p).foldl (fun x e => x.giveHeld e.1) (c.onPair (fun s => { s with held := s.held.filter (fun e => !p e) }))

/-- A held completion whose page has been copied (R402). -/
def Pkg.copied (p : Pkg) (e : Msg × Nat × Nat) : Bool :=
  e.2.2 == 0 && !p.pageDirty e.2.1 (e.1.line / 64) && !p.chip.pair.queue.any (fun q => q.line / 64 == e.1.line / 64)

-- separation

/-- The pair separates: SRC_AT_SEP is what the package was (R395). TRACKING sets with the first mark that follows (R412) and
clears only when a resynchronisation is done (R413). -/
def Chip.separate (c : Chip) : Chip := c.onPair (fun s => { s with srcAtSep := c.isSource })

/-- A source enters ALONE (R410). -/
def Pkg.sourceAlone (p : Pkg) : Pkg :=
  ((p.onChip (fun c => c.separate.setPairState 3)).markUnacked (fun _ => true)).onChip (fun c =>
    ((c.release (fun _ => true)).raiseEvent 578).pairFault 32)

/-- A package takes over (R409): it becomes source, alone, and tracks dirty pages from now on. -/
def Chip.takeOver (c : Chip) : Chip :=
  ((((((c.onPair (fun s => { s with yielded := false, queue := [] })).setSource true).setPairState 3).release
    (fun _ => true)).raiseEvent 577).pairFault 32)

/-- A target is detached (R407). -/
def Chip.detach (c : Chip) : Chip := (c.separate.setPairState 4).raiseEvent 579

/-- Mirror lines that were received whole wait to be applied (R409 step 2). -/
def Chip.linesWait (c : Chip) : Bool :=
  c.wldCommitted && [24, 25].any (fun k => (c.linkEnd k false).pairBuf.any (fun l => headerVc 24 (l.headD 0).toNat == 0))

/-- What the partner being heard and alive comes to (R407, R409): fault 33 while it is heard and silent on the wire; a partner
that is not heard leaves a source ALONE, and a target DETACHED, in takeover once it has applied every line received whole, or INCOMPLETE. -/
def Pkg.pairWatch (p : Pkg) : Pkg :=
  let c := p.chip
  let heard := c.bit .PAIR_STATUS F.PAIR_STATUS_HEARD
  let alive := c.bit .PAIR_STATUS F.PAIR_STATUS_ALIVE
  let joined : Bool := c.pairState == 2 || c.pairState == 5
  let q := p.onChip (fun x =>
    if joined && heard && !alive then
      (if x.bit (.FC_SRC 33) F.FC_SRC_CAUSE then x else x.reportLevel unitUz 33 0x5000 1 15)
    else x.setCause 33 false)
  if !joined || heard || c.pair.yielded then q
  else if c.isSource then q.sourceAlone
  else if alive then q.onChip Chip.detach
  else if c.pairState = 2 then (if c.linesWait then q else q.onChip (fun x => x.separate.takeOver))
  else q.onChip (fun x => (x.separate.setPairState 7).reportLevel unitUz 38 0x5000 1 15)

/-- PAIR_ALIVE_TOGGLE (R394). -/
def Chip.aliveToggle (c : Chip) : Chip :=
  if aliveState c.pairState && !c.safe then c.setAliveO (!c.pins.pairAliveO) else c.setAliveO false

def execPairAliveToggle (s : State) : Result := s.onChip Chip.aliveToggle

/-- An edge on PAIR_ALIVE_I (R394): the partner is alive. -/
def Pkg.aliveEdge (p : Pkg) : Pkg :=
  (p.onChip (fun c =>
    let c1 : Chip := { c with pins := { c.pins with pairAliveI := !c.pins.pairAliveI } }
    if c.fld .PAIR_STATUS F.PAIR_STATUS_ROLE % 3 = 0 ∨ c.pair.partnerYielded then c1
    else (c1.onPair (fun s => { s with aliveAt := some c.now })).setBit .PAIR_STATUS F.PAIR_STATUS_ALIVE true)).pairWatch

def execPairAliveIEdge (s : State) : Result := s.onPkg Pkg.aliveEdge

/-- No edge within the preceding 50 µs (R394): the partner is not alive. -/
def Pkg.aliveTimeout (p : Pkg) : Pkg :=
  if p.chip.pair.aliveAt.all (fun t => t + 50000 ≤ p.chip.now) then
    (p.onChip (fun c => c.setBit .PAIR_STATUS F.PAIR_STATUS_ALIVE false)).pairWatch
  else p

def execPairAliveTimeout (s : State) : Result := s.onPkg Pkg.aliveTimeout

-- heartbeats

/-- HB_TIMEOUT_US in ticks, at least four periods. -/
def Chip.hbTimeout (c : Chip) : Nat :=
  1000 * max (c.fld .PAIR_CFG F.PAIR_CFG_HB_TIMEOUT_US) (4 * c.fld .PAIR_CFG F.PAIR_CFG_HB_PERIOD_US)

/-- What a heartbeat does to STATE (R397, R402, R407, R411): a source whose target is not ready, or a source alone that hears a
target again, is in RESYNC; a detached target that has not yielded returns to RESYNC; the package of a split that is not
made source becomes target. -/
def Chip.hbState (c : Chip) (source notReady : Bool) : Chip :=
  match c.pairState with
  | 2 => if c.isSource && notReady then c.setPairState 5 else c
  | 3 => if source then c else c.setPairState 5
  | 4 => if c.pair.yielded then c else c.setPairState 5
  | 6 =>
    if c.pair.split && source then ((c.onPair (fun s => { s with split := false })).setSource false).setPairState 5 else c
  | _ => c

/-- A source whose target has become ready sends it the region table in force (R397). -/
def Chip.sayTable (c : Chip) (now : Bool) : Chip :=
  if now then c.pairSay (.table ((List.range 16).map (fun n => (sget 0 n c.pair.base, sget 0 n c.pair.limit, sget 0 n c.pair.remote)))) else c

/-- A heartbeat arrives (R407): the partner is heard. A yielded partner's is ignored until the links have trained again
(R408). -/
def Pkg.heartbeat (p : Pkg) (state : Nat) (source notReady : Bool) : Pkg :=
  if p.chip.pairState < 2 ∨ p.chip.pair.partnerYielded then p
  else
    (p.onChip (fun c => (((c.onPair (fun s => { s with hbAt := some c.now, partnerState := state
                                                       partnerReady := !notReady })).setBit .PAIR_STATUS
      F.PAIR_STATUS_HEARD true).hbState source notReady).sayTable (p.chip.isSource && !p.chip.pair.partnerReady && !notReady))).pairWatch

def execPairHb (state : Nat) (source _safe notReady : Bool) (time queued : Nat) (s : State) : Result :=
  need (state < 8 && time < 2 ^ 64 && queued < 2 ^ 32) (s.onPkg (fun p => p.heartbeat state source notReady))

/-- A pair link is up. -/
def Chip.pairLinkUp (c : Chip) : Bool := c.linkState 24 == 2 || c.linkState 25 == 2

/-- PAIR_HB as this package sends it (R397, R404). -/
def Chip.hbUnit (c : Chip) : Line :=
  BitVec.ofNat 512 (8 + 2 ^ 8 * c.pairState + 2 ^ 16 * (flag c.isSource + 2 * flag c.safe + 4 * flag (!c.wldCommitted))
    + 2 ^ 64 * (c.now % 2 ^ 64) + 2 ^ 128 * (c.pair.queue.length % 2 ^ 32))

/-- Uzomuris sends a heartbeat on each working pair link, unless the package has yielded (R407, R408). -/
def Chip.hbSend (c : Chip) : Chip :=
  if c.pairLinkUp && 2 ≤ c.pairState && !c.pair.yielded then
    (c.onPair (fun s => { s with hbOut := s.hbOut + 1 })).pairCtl c.hbUnit else c

def execPairHbSend (s : State) : Result := s.onChip Chip.hbSend

/-- No heartbeat for HB_TIMEOUT_US: the partner is not heard (R407). -/
def Pkg.hbTimedOut (p : Pkg) : Pkg :=
  if p.chip.pair.hbAt.all (fun t => t + p.chip.hbTimeout ≤ p.chip.now) then
    (p.onChip (fun c => c.setBit .PAIR_STATUS F.PAIR_STATUS_HEARD false)).pairWatch
  else p

def execPairHbTimeout (s : State) : Result := s.onPkg Pkg.hbTimedOut

/-- PAIR_YIELD arrives (R407): the partner is neither heard nor alive. -/
def Pkg.partnerYields (p : Pkg) : Pkg :=
  (p.onChip (fun c => ((c.onPair (fun s => { s with partnerYielded := true, hbAt := none, aliveAt := none })).setBit
    .PAIR_STATUS F.PAIR_STATUS_HEARD false).setBit .PAIR_STATUS F.PAIR_STATUS_ALIVE false)).pairWatch

def execPairYield (s : State) : Result := s.onPkg Pkg.partnerYields

/-- The package sends PAIR_YIELD (R407, R408): a source stops being one and discards its queue. -/
def Chip.pairYield (c : Chip) : Chip :=
  if c.pairState < 2 ∨ c.pair.yielded then c.setAliveO false
  else
    let c1 := (c.onPair (fun s => { s with yielded := true, queue := [] })).pairCtl 9
    (if c.isSource then ((c1.onPair (fun s => { s with srcAtSep := true })).setSource false).pairRecord else c1).setAliveO false

/-- A yielded package whose safe state ends without a package reset is DETACHED (R408). -/
def Chip.pairAfterSafe (c : Chip) : Chip :=
  if c.pair.yielded ∧ c.pairState ≠ 4 then (c.setPairState 4).raiseEvent 579 else c

-- discovery

/-- Every enabled region is copied completely (R396). -/
def Chip.copyAll (c : Chip) : Chip :=
  c.onPair (fun s => { s with fullCopy := (List.range 16).foldl (fun m n =>
    sset 0 n (if F.PAIR_REGION_BASE_MODE.get (sget 0 n s.base) = 0 then 0 else 1) m) s.fullCopy })

/-- Discovery made this package the source: PAIRED. -/
def Chip.becomeSource (c : Chip) (all : Bool) : Chip :=
  ((if all then c.copyAll else c).setSource true).setPairState 2

/-- Discovery made this package the target: RESYNC. -/
def Chip.becomeTarget (c : Chip) : Chip := (c.setSource false).setPairState 5

/-- The package is held out (R396). -/
def Chip.heldOut (c : Chip) (fault : Nat) (split : Bool) : Chip :=
  ((c.onPair (fun s => { s with split := split })).setSource false |>.setPairState 6).pairFault fault

/-- Discovery on the partner's two IDENTs (R396). -/
def Chip.discover (c : Chip) (a b : PairIdent) : Chip :=
  let role := c.fld .PAIR_STATUS F.PAIR_STATUS_ROLE
  let old := (c.reg .PAIR_PARTNER_SERIAL).toNat
  let mine := c.pair.tracking
  if a ≠ b ∨ a.role = role then c.heldOut 34 false
  else
    let c1 := ((c.onPair (fun s => { s with
      yielded := false, partnerYielded := false, partnerReady := false, split := false, hbAt := some c.now, queue := []
      seq := [], rxSeq := [], ackOwed := [], fullCopy := [] })).setBit .PAIR_STATUS F.PAIR_STATUS_HEARD true).setReg
        .PAIR_PARTNER_SERIAL (BitVec.ofNat 64 a.serial)
    let c2 :=
      if mine && a.tracking then c1.heldOut 35 true
      else if mine then c1.becomeSource (a.srcAtSep || a.serial != old)
      else if a.tracking then c1.becomeTarget
      else if role = 1 then c1.becomeSource true
      else c1.becomeTarget
    (if c2.pairState = c.pairState then c2.pairRecord else c2).newDigest

/-- The fields of an IDENT. -/
def PairIdentOk (i : PairIdent) : Bool := i.role < 4 && i.serial < 2 ^ 64 && i.cap < 2 ^ 32 && i.state < 8

/-- PAIR_DISCOVERY: both links have trained after a start (R395). -/
def Chip.discovery (c : Chip) (a b : PairIdent) : Chip := if c.pairState = 1 then c.discover a b else c

def execPairDiscovery (a b : PairIdent) (s : State) : Result :=
  need (PairIdentOk a && PairIdentOk b) (s.onChip (fun c => c.discovery a b))

-- what a bundle on a pair link brings

/-- The fields of the IDENT of Jotor-P (R395). -/
def pairIdentOf (n : Nat) : PairIdent :=
  { role := bits n 23 16, serial := bits n 95 32, cap := bits n 127 96, state := bits n 135 128, srcAtSep := n.testBit 136
    tracking := n.testBit 137 }

/-- An IDENT arrives on a pair link (R395): after a start, discovery runs once both links have trained and brought one. -/
def Chip.pairIdentIn (c : Chip) (k : Nat) (i : PairIdent) : Chip :=
  let c1 := c.setLinkEnd k false { c.linkEnd k false with pairIdent := some i }
  match c1.linkState 24, c1.linkState 25, (c1.linkEnd 24 false).pairIdent, (c1.linkEnd 25 false).pairIdent with
  | 2, 2, some a, some b => c1.discovery a b
  | _, _, _, _ => c1

/-- A control unit of Jotor-P that this package receives does what it says (R230, R234, R395, R407). The contents of PAIR_CFG (R403) come with
PAIR_CFG's own command: R404 does not lay them out (log entry 74). -/
def Pkg.pairControl (p : Pkg) (k : Nat) (u : Line) : Pkg :=
  let n := u.toNat
  match n % 256 with
  | 1 => p.onChip (fun c => c.pairIdentIn k (pairIdentOf n))
  | 4 | 5 => p.onChip (fun c => c.control k false u)
  | 8 => p.heartbeat (bits n 15 8) (n.testBit 16) (n.testBit 18)
  | 9 => p.partnerYields
  | _ => p

/-- A bundle reaches an end of a link (R226 to R234). -/
def Pkg.bundle (p : Pkg) (k : Nat) (atDie : Bool) (b : Bundle) : Pkg :=
  let r := p.chip.bundle k atDie b
  ((if atDie then [] else r.2).foldl (fun (q : Pkg) u => q.pairControl k u) { p with chip := r.1 }).pairFailed k

def execBundleReceive (k : Nat) (atDie : Bool) (b : Bundle) (s : State) : Result :=
  need (linkOk k && b.units.length ≤ 8) (s.onPkg (fun p => p.bundle k atDie b))

/-- A message of Jotor-P is taken from pair link k (R229, R404): it is the first of its VC in the receive buffer, which it leaves, and its
credits return; or the buffer holds none of its VC, and it has crossed the link in one step (log entry 74). -/
def Chip.pairTake (c : Chip) (k v : Nat) (units : List Line) : Option Chip :=
  let e := c.linkEnd k false
  match e.pairBuf.find? (fun l => headerVc 24 (l.headD 0).toNat == v) with
  | some l => if l = units then some (c.setLinkEnd k false (e.pairFree v units.length)) else none
  | none => if c.linkState k = 2 then some c else none

/-- PAIR_LINK_RETRY (R406): each pair link that is not up is trained; `trains` says which do. With another link up in PAIRED or
RESYNC a retrained link takes back its regions; otherwise discovery runs on the IDENT. -/
def Pkg.linkRetry (p : Pkg) (trains : Nat) (peer : PairIdent) : Pkg :=
  let c := p.chip
  if c.fld .PAIR_STATUS F.PAIR_STATUS_ROLE ≠ 1 ∧ c.fld .PAIR_STATUS F.PAIR_STATUS_ROLE ≠ 2 ∨ c.pairState = 0 then p
  else
    let tried := [24, 25].filter (fun k => c.linkState k != 2)
    let c1 := tried.foldl (fun (x : Chip) k =>
      if bitAt trains (k - 24) then x.trainLink k true 0 0xFFFFFFF
      else if x.linkState k = 3 then x else x.setFld (.JL_STATUS k) F.JL_STATUS_STATE 1) c
    if !tried.any (fun k => bitAt trains (k - 24)) then { p with chip := c1 }
    else if c.pairLinkUp && (c.pairState == 2 || c.pairState == 5) then { p with chip := c1 }
    else (({ p with chip := c1 } : Pkg).markUnacked (fun _ => true)).onChip (fun x => x.discover peer peer)

def execPairLinkRetry (trains : Nat) (peer : PairIdent) (s : State) : Result :=
  need (trains < 4 && PairIdentOk peer) (s.onPkg (fun p => p.linkRetry trains peer))

/-- Containment of a pair link through link data loss (R405): the link is failed, and the pages of its unacknowledged lines are
marked dirty. -/
def Pkg.pairLinkLost (p : Pkg) (k : Nat) : Pkg :=
  (p.markUnacked (fun e => e.link == k)).onChip (fun c => c.failLink k 1 false)

-- the region table

/-- One region: MODE, first and last local page, first partner page. -/
structure RegionRow where
  mode : Nat
  first : Nat
  last : Nat
  remote : Nat
  deriving DecidableEq, Repr

/-- A region from its three words. -/
def regionRow (base limit remote : Word) : RegionRow :=
  { mode := F.PAIR_REGION_BASE_MODE.get base, first := F.PAIR_REGION_BASE_PAGE.get base, last := F.PAIR_REGION_PAGE.get limit
    remote := F.PAIR_REGION_PAGE.get remote }

/-- A table is refused (R398): MODE 3, an empty range, one that lies outside this package's DRAM or exceeds 1 TiB, or two
regions that overlap on either package. -/
def Chip.tableBad (c : Chip) (rows : List RegionRow) : Bool :=
  let on := rows.filter (fun r => r.mode != 0)
  on.any (fun r => r.mode == 3 || r.last < r.first || c.dramTop / 4096 ≤ r.last || 2 ^ 28 ≤ r.last - r.first)
    || anyPair (fun (a b : RegionRow) => overlaps (a.first, a.last) (b.first, b.last)
      || overlaps (a.remote, a.remote + (a.last - a.first)) (b.remote, b.remote + (b.last - b.first))) on

/-- The table is installed; a region whose MODE becomes non-zero is copied completely. -/
def Chip.installTable (c : Chip) (words : List (Word × Word × Word)) : Chip :=
  (forUpTo 16 (fun n x =>
    let w := words.getD n (0, 0, 0)
    let isNew : Bool := F.PAIR_REGION_BASE_MODE.get w.1 != 0 && F.PAIR_REGION_BASE_MODE.get (sget 0 n c.pair.base) == 0
    x.onPair (fun s => { s with
      base := sset 0 n w.1 s.base, limit := sset 0 n w.2.1 s.limit, remote := sset 0 n w.2.2 s.remote
      fullCopy := if isNew && c.isSource then sset 0 n 1 s.fullCopy else s.fullCopy })) c).noteTargets

/-- A command of PAIR_CTL ends. -/
def Chip.pairResult (c : Chip) (r : Nat) : Chip :=
  (c.setFld .PAIR_STATUS F.PAIR_STATUS_RESULT r).setBit .PAIR_STATUS F.PAIR_STATUS_DONE true

/-- COMMIT (R398): on the source, in PAIRED, or in RESYNC while the target is not ready (R397). A ready target is sent the table; whether the target refuses the
table is a free value. -/
def Chip.regionCommit (c : Chip) : Chip :=
  let words := (List.range 16).map (fun n =>
    (c.reg (.PAIR_REGION_BASE n), c.reg (.PAIR_REGION_LIMIT n), c.reg (.PAIR_REGION_REMOTE n)))
  if !c.isSource || !(c.pairState == 2 || (c.pairState == 5 && !c.pair.partnerReady)) then c.pairResult 4
  else if c.tableBad (words.map (fun w => regionRow w.1 w.2.1 w.2.2)) then c.pairResult 2
  else if !c.pair.partnerReady then ((c.installTable words).pairResult 1).raiseEvent 582
  else
    let c1 := c.nextFree.pairSay (.table words)
    if Config.freeNat c.free % 2 = 1 then c1.pairResult 3 else ((c1.installTable words).pairResult 1).raiseEvent 582

/-- FORCE_SOURCE (R396, R411): after a split, in DETACHED and in INCOMPLETE. -/
def Chip.forceSource (c : Chip) : Chip :=
  match c.pairState with
  | 6 =>
    if c.pair.split then (((c.onPair (fun s => { s with split := false })).becomeSource true).pairFault 35).pairResult 1
    else c.pairResult 4
  | 4 | 7 => (c.takeOver.pairFault 35).pairResult 1
  | _ => c.pairResult 4

/-- A write to PAIR_CTL, from W1 and Uzomuris. -/
def Chip.pairCtlWrite (c : Chip) (who : Who) (v : Word) : Chip :=
  c.ifMay who.sealed who .PAIR_CTL (fun x =>
    let x1 := if F.PAIR_CTL_COMMIT.get v = 1 then x.regionCommit else x
    if F.PAIR_CTL_FORCE_SOURCE.get v = 1 then x1.forceSource else x1)

def execPairCommit (who : Who) (s : State) : Result := s.onChip (fun c => c.pairCtlWrite who 1)
def execForceSource (who : Who) (s : State) : Result := s.onChip (fun c => c.pairCtlWrite who 2)

/-- The view of a region at the target: its range is the source's REMOTE, and its REMOTE the source's range (R398). -/
def mirrorView (w : Word × Word × Word) : Word × Word × Word :=
  let r := regionRow w.1 w.2.1 w.2.2
  (BitVec.ofNat 64 (r.mode + 4096 * r.remote), BitVec.ofNat 64 (4096 * (r.remote + (r.last - r.first))),
    BitVec.ofNat 64 (4096 * r.first))

/-- A PAIR_CFG control unit arrives (R397, R403): a target that is ready installs a table that it does not refuse; a digest is
compared; a summary is recorded. -/
def Chip.pairCfg (c : Chip) (u : PairCfg) : Chip :=
  if c.pairState < 2 then c
  else match u with
    | .table entries =>
      let words := entries.map mirrorView
      if c.isSource || !c.wldCommitted || c.tableBad (words.map (fun w => regionRow w.1 w.2.1 w.2.2)) then c
      else (forUpTo 16 (fun n x =>
        let w := words.getD n (0, 0, 0)
        ((x.setReg (.PAIR_REGION_BASE n) w.1).setReg (.PAIR_REGION_LIMIT n) w.2.1).setReg (.PAIR_REGION_REMOTE n) w.2.2) c).installTable
          words
    | .digest d => (c.onPair (fun s => { s with partnerDigest := some d })).rematch
    | .summary l => c.lifeWrite 0x61 l

def execPairCfg (u : PairCfg) (s : State) : Result :=
  need (match u with
    | .table l => l.length == 16
    | .digest d => d < 2 ^ 384
    | .summary l => l.length ≤ 224) (s.onChip (fun c => c.pairCfg u))

-- the mirror stream

/-- The requester ID of pair station q (R400). -/
def pairRid (q : Nat) : Nat := 0x6000 + q

/-- A pair station may write a line (R187, R215, R339). -/
def Chip.pairOpen (c : Chip) (q line : Nat) : Bool := !c.still && c.domainOpen (.pair q) && c.ioIdle line

/-- A pair station may write a line now: its class has tokens, too (R264). -/
def Chip.pairGo (c : Chip) (q line : Nat) : Bool :=
  c.pairOpen q line && c.ioMayGo (pairRid q) (c.fld .PAIR_CFG F.PAIR_CFG_LABEL)

/-- The target accepts mirror lines (R397, R400): until it takes over (R409 step 2), and not while it is not ready or has yielded. -/
def Chip.mirTakes (c : Chip) : Bool :=
  !c.isSource && !c.pair.yielded && (c.pairState == 2 || c.pairState == 4 || c.pairState == 5 || c.pairState == 7) && c.wldCommitted

/-- An acknowledgement is owed (R404): of the highest SEQ applied in order, or of one line that was refused. -/
def PairSt.owe (s : PairSt) (n seq : Nat) (refused : Bool) : PairSt :=
  { s with rxSeq := sset 0 n seq s.rxSeq
           ackOwed := (if refused then s.ackOwed else s.ackOwed.filter (fun a => a.1 != n || a.2.2)) ++ [(n, seq, refused)] }

/-- A line is refused at the target (R404): fault 36. -/
def Chip.mirRefuse (c : Chip) (n seq : Nat) : Chip := (c.pairFault 36).onPair (fun s => s.owe n seq true)

/-- A mirror line is applied at the target (R397, R400, R404): in the order of its region's stream it is written as WR_FULL and
acknowledged. At a gap, outside the region, or where its home refuses it, it is refused, and the stream goes on from its SEQ. -/
def Pkg.mirWr (p : Pkg) (q n line seq : Nat) (poison : Bool) (v : Line) : Pkg :=
  let c := p.chip
  if (sget 0 n c.pair.rxSeq + 1) % 2 ^ 32 ≠ seq ∨ c.mirrorRegion (line / 64) ≠ some n then p.onChip (fun x => x.mirRefuse n seq)
  else
    let w := p.ioWrite (pairRid q) 1 (c.fld .PAIR_CFG F.PAIR_CFG_LABEL) line v (BitVec.allOnes 64) poison
    w.1.onChip (fun x => if w.2 = 0 then x.onPair (fun s => s.owe n seq false) else x.mirRefuse n seq)

/-- A mirror line is taken from its link and applied; one that the target does not accept, or cannot write yet, stays where it is, and makes
the pair station's port active where it waits for tokens (R266). -/
def Pkg.mirArrive (p : Pkg) (link n line seq : Nat) (poison copy : Bool) (v : Line) : Pkg :=
  match p.chip.pairTake link 0 (mirWrUnits n line seq poison copy v) with
  | some c =>
    if c.mirTakes && c.pairGo (link - 24) line then (({ p with chip := c } : Pkg).mirWr (link - 24) n line seq poison v).pairWatch
    else if p.chip.mirTakes && p.chip.pairOpen (link - 24) line then
      p.onChip (fun x => x.noteShort (pairRid (link - 24)) (x.fld .PAIR_CFG F.PAIR_CFG_LABEL))
    else p
  | none => p

def execMirWr (link region : Nat) (poison copy : Bool) (line seq : Nat) (data : Line) (s : State) : Result :=
  need (24 ≤ link && link < 26 && region < 16 && line < 2 ^ 46 && seq < 2 ^ 32)
    (s.onPkg (fun p => p.mirArrive link region line seq poison copy data))

/-- The lines of a region up to the one whose SEQ an acknowledgement names. -/
def PairSt.acked (s : PairSt) (n seq : Nat) : Option MirLine := s.queue.find? (fun e => e.region == n && e.seq % 2 ^ 32 == seq)

/-- MIR_ACK arrives at the source (R401, R402, R404): the lines up to SEQ leave the queue; a refused line raises fault 36, and its page is
marked dirty with those of the lines before it that nothing has acknowledged; completions whose lines are acknowledged, or whose pages have been copied, are given. -/
def Pkg.mirAck (p : Pkg) (n seq : Nat) (refused : Bool) : Pkg :=
  match p.chip.pair.acked n seq with
  | none => p
  | some e =>
    let mine := fun (x : MirLine) => x.region == n && decide (x.seq ≤ e.seq)
    let q1 := if refused then (p.markUnacked mine).onChip (fun c => c.pairFault 36)
      else p.onChip (fun c => c.onPair (fun s => { s with queue := s.queue.filter (fun x => !mine x) }))
    q1.onChip (fun c => c.release (fun h => h.2.1 == n && ((h.2.2 != 0 && h.2.2 ≤ e.seq) || q1.copied h)))

/-- An acknowledgement is taken from the pair link that it is the next of. -/
def Pkg.ackArrive (p : Pkg) (n seq : Nat) (refused : Bool) : Pkg :=
  let u := mirAckUnits n seq refused
  match (p.chip.pairTake 24 1 u).or (p.chip.pairTake 25 1 u) with
  | some c => ({ p with chip := c } : Pkg).mirAck n seq refused
  | none => p

def execMirAck (region seq : Nat) (refused : Bool) (s : State) : Result :=
  need (region < 16 && seq < 2 ^ 32) (s.onPkg (fun p => p.ackArrive region seq refused))

/-- The target sends the acknowledgements it owes (R404). -/
def execMirAckSend (s : State) : Result := s.onChip (fun c => c.onPair (fun x => { x with ackOwed := [] }))

/-- The lag of a region in µs (R402). -/
def Chip.lagUs (c : Chip) (n : Nat) : Nat :=
  match c.pair.queue.find? (fun e => e.region == n) with
  | some e => (c.now - e.at_) / 1000
  | none => 0

/-- The oldest lines of an asynchronous region reach LAG_MAX_US (R402): their pages are marked dirty and LAGGING sets. -/
def Pkg.lagReached (p : Pkg) (n : Nat) : Pkg :=
  let c := p.chip
  let late := fun (e : MirLine) => e.region == n && e.at_ + 1000 * c.fld .PAIR_CFG F.PAIR_CFG_LAG_MAX_US ≤ c.now
  if F.PAIR_REGION_BASE_MODE.get (sget 0 n c.pair.base) ≠ 2 ∨ !c.isSource then p
  else (c.pair.queue.filter late).foldl (fun q e => q.setLagging n (e.line / 64))
    (p.onChip (fun x => x.onPair (fun s => { s with queue := s.queue.filter (fun e => !late e) })))

def execLagLimitReached (n : Nat) (s : State) : Result := need (n < 16) (s.onPkg (fun p => p.lagReached n))

-- resynchronisation

/-- The pages of a region. -/
def Chip.regionPages (c : Chip) (n : Nat) : Nat :=
  let r := regionRow (sget 0 n c.pair.base) (sget 0 n c.pair.limit) 0
  if r.mode = 0 then 0 else r.last + 1 - r.first

/-- Pages still to be copied: those of complete copies, and those marked dirty. -/
def Chip.pagesLeft (c : Chip) : Nat :=
  (List.range 16).foldl (fun a n =>
    let k := sget 0 n c.pair.fullCopy
    a + max (if k = 0 then 0 else c.regionPages n + 1 - k) (c.fld (.PAIR_REGION_STATUS n) F.PAIR_REGION_STATUS_DIRTY_PAGES)) 0

/-- PAGES_LEFT follows. -/
def Chip.notePages (c : Chip) : Chip := c.setFld .PAIR_RESYNC_STATUS F.PAIR_RESYNC_STATUS_PAGES_LEFT c.pagesLeft

/-- A resynchronisation copies page i of region n (R413): its bit is cleared, then its lines are read at their homes and enter
the region's stream with COPY set. The page is marked, or next in a complete copy; the queue has room and the lines are
idle. -/
def Pkg.resync (p : Pkg) (n i : Nat) : Pkg :=
  let c := p.chip
  let pg := F.PAIR_REGION_BASE_PAGE.get (sget 0 n c.pair.base) + i
  let isNext : Bool := sget 0 n c.pair.fullCopy == i + 1
  let lines := (List.range 64).map (· + 64 * pg)
  if !c.isSource || c.still || !(c.pairState == 2 || c.pairState == 5) || !c.pair.partnerReady || c.regionPages n ≤ i
      || !(isNext || p.pageDirty n pg) || 131072 < c.pairQueued (c.pairLink n) + 64 || !lines.all c.ioIdle then p
  else
    let q := (p.setDirty n pg false).onChip (fun x =>
      if isNext then x.onPair (fun s => { s with fullCopy := sset 0 n (if i + 1 < x.regionPages n then i + 2 else 0) s.fullCopy })
      else x)
    (lines.foldl (fun (a : Pkg) l =>
      let v := a.coherentFetch l (c.classOf (pairRid (c.pairLink n - 24)) (c.fld .PAIR_CFG F.PAIR_CFG_LABEL))
      v.1.onChip (fun x => x.enqueueMirror n l v.2.1 v.2.2 true)) q).onChip Chip.notePages

def execResync (n page : Nat) (s : State) : Result := need (n < 16 && page < 2 ^ 28) (s.onPkg (fun p => p.resync n page))

/-- A resynchronisation is done (R413): at the source no page is left and every line is acknowledged; both packages are PAIRED,
event 580, and TRACKING and SRC_AT_SEP clear. -/
def Chip.resyncDone (c : Chip) : Chip :=
  let ready : Bool := if c.isSource then (c.pairState == 2 || c.pairState == 5) && c.pair.partnerReady && c.pagesLeft == 0
      && c.pair.queue.isEmpty
    else c.pairState == 5
  if ready then
    let c1 := c.onPair (fun s => { s with tracking := false, srcAtSep := false })
    ((if c.pairState = 2 then c1.pairRecord else c1.setPairState 2).raiseEvent 580).notePages
  else c

def execResyncDone (s : State) : Result := s.onChip Chip.resyncDone

end Sys2Proof.Machine
end

