-- ==== Sys2Proof/Machine/Uzomuris.lean ====
section
/-! DEFINITION. Uzomuris (spec/17_uzomuris_and_life_record.md): the journal (R427 to R432), start-up, package reset and main
power (R415 to R420, R450, R456), temperature (R421, R422, R458), management services and mailboxes (R423 to R426). -/

namespace Sys2Proof.Machine

/-- Change what Uzomuris holds. -/
def Chip.onUz (c : Chip) (f : UzSt → UzSt) : Chip := { c with uz := f c.uz }

/-- A fault of Uzomuris (R425). -/
def Chip.uzFault (c : Chip) (n : Nat) : Chip := c.report unitUz n 0x5000 1 15

-- the journal

/-- The 256 bytes of a record (R427). -/
def JRec.bytes (r : JRec) : List Byte :=
  let body := toBytes 8 r.seq ++ toBytes 2 r.type ++ toBytes 2 1 ++ toBytes 8 r.time ++ toBytes 4 r.boot ++ toBytes 4 0
    ++ (r.payload ++ List.replicate (224 - r.payload.length) 0).take 224
  toBytes 4 (crc32c body) ++ body

/-- The records of a half that replay applies (R427): up to a torn one or a break of SEQ. -/
def replayed : List JRec → List JRec
  | [] => []
  | [r] => if r.whole then [r] else []
  | r :: s :: rest => if !r.whole then [] else if s.seq = r.seq + 1 then r :: replayed (s :: rest) else [r]

/-- GEN of a half, 0 for one without a valid header. -/
def UzSt.gen (u : UzSt) (h : Nat) : Nat := if h = 0 then u.gen0 else u.gen1

/-- The half that replay takes: the valid one with the larger GEN. -/
def UzSt.newer (u : UzSt) : Nat := if u.gen0 < u.gen1 then 1 else 0

/-- A counter record of zeros: the unit, its alignment, and n bytes. -/
def zeroCounters (type unit n : Nat) : Nat × List Byte := (type, toBytes 8 unit ++ toBytes n 0)

/-- The records a formatted journal begins with (R429, R431): every histogram and count at zero, identity core maps, no remap
entry, no pair history. -/
def coldRecords : List (Nat × List Byte) :=
  (List.range 13).flatMap (fun d => [zeroCounters 0x10 d 80, zeroCounters 0x11 d 64, zeroCounters 0x12 d 60])
    ++ [(0x13, toBytes 52 0), (0x14, toBytes 104 0)]
    ++ (List.range 28).map (fun u => zeroCounters 0x15 u 160)
    ++ [(0x20, toBytes 8 0)]
    ++ (List.range 12).map (fun d => (0x21, toBytes 8 d ++ (List.range 24).flatMap (toBytes 1) ++ toBytes 4 0))
    ++ [(0x41, []), (0x50, toBytes 24 0), (0x60, toBytes 16 0), (0x70, toBytes 16 0)]

/-- UZ_LR_STATUS follows the journal. -/
def Chip.noteJournal (c : Chip) : Chip :=
  ((c.setFld .UZ_LR_STATUS F.UZ_LR_STATUS_RECORDS (c.uz.half c.lrHalf).length).setFld .UZ_LR_STATUS F.UZ_LR_STATUS_GEN
    (c.uz.gen c.lrHalf))

/-- The journal is replayed (R427, R428). -/
def Chip.replay (c : Chip) : Chip :=
  let h := c.uz.newer
  let l := c.uz.half h
  let k := replayed l
  let next := match k.getLast? with
    | some r => r.seq + 1
    | none => c.uz.nextSeq
  let c1 := (c.onUz (fun u => { u.setHalf h k with nextSeq := next, boot := u.boot + 1 })).setFld .UZ_LR_STATUS
    F.UZ_LR_STATUS_HALF h
  (if (l.drop k.length).head?.any (fun r => !r.whole) then c1.bump .UZ_LR_STATUS F.UZ_LR_STATUS_TORN else c1).noteJournal

/-- The journal is formatted (R429): GEN 1 in half 0 and the cold records; FIRST_LIFE, or LR_LOST with fault 49. No history of
remap entries is left (R431). -/
def Chip.formatJournal (c : Chip) : Chip :=
  let lost := c.uz.formatted
  let c1 := ({ c with banks := [] } : Chip).onUz (fun u => { u with
    half0 := [], half1 := [], gen0 := 1, gen1 := 0, formatted := true, nextSeq := 1, boot := 0 })
  let c2 := (coldRecords.foldl (fun (x : Chip) r => x.lifeWrite r.1 r.2) (c1.setFld .UZ_LR_STATUS F.UZ_LR_STATUS_HALF 0)).noteJournal
  if lost then (c2.setBit .UZ_STATUS F.UZ_STATUS_LR_LOST true).uzFault 49 else c2.setBit .UZ_STATUS F.UZ_STATUS_FIRST_LIFE true

/-- Step 3 of R417: replay, or format. -/
def Chip.openJournal (c : Chip) : Chip := if c.uz.gen0 = 0 ∧ c.uz.gen1 = 0 then c.formatJournal else c.replay

/-- LIFE_RECORD_WRITE. -/
def execLifeRecordWrite (type : Nat) (payload : List Byte) (s : State) : Result :=
  need (type < 2 ^ 16 && payload.length ≤ 224) (s.onChip (fun c => c.lifeWrite type payload))

/-- What identifies a record of a kept kind (R430): its TYPE, and for a kind with one record per unit its first byte, for a REMAP record the
bank of its entries (log entry 117, DESIGN CHOICE); none for a kind that is not kept as the latest. -/
def JRec.keptKey (r : JRec) : Option (Nat × Nat) :=
  if r.type = 0x10 ∨ r.type = 0x11 ∨ r.type = 0x12 ∨ r.type = 0x15 ∨ r.type = 0x21 ∨ r.type = 0x30 then
    some (r.type, ((r.payload.head?).getD 0).toNat)
  else if r.type = 0x20 then some (0x20, sliceNum r.payload 8 3)
  else if r.type = 0x13 ∨ r.type = 0x14 ∨ r.type = 0x50 ∨ r.type = 0x60 ∨ r.type = 0x61 ∨ r.type = 0x70 then
    some (r.type, 0)
  else none

/-- The latest record of each kept kind, in journal order. -/
def latestKept : List JRec → List JRec
  | [] => []
  | r :: rest => if r.keptKey.isSome && !rest.any (fun s => s.keptKey == r.keptKey) then r :: latestKept rest else latestKept rest

/-- Entries of FAULT_TOTALS and FAULT_COUNTS: 2 bytes of source and 4 of count. -/
def totalsOf (l : List Byte) : Nat → List (Nat × Nat)
  | 0 => []
  | n + 1 => if l.length < 6 then [] else (sliceNum l 0 2, sliceNum l 2 4) :: totalsOf (l.drop 6) n

/-- Per-source counts as records of at most 37 entries. -/
def totalsRecords (t : Sparse Nat) : Nat → List (List Byte)
  | 0 => []
  | n + 1 =>
    if t.isEmpty then []
    else (t.take 37).flatMap (fun e => toBytes 2 e.1 ++ toBytes 4 e.2) :: totalsRecords (t.drop 37) n

/-- Older fault history folded into per-source counts (R430). -/
def foldTotals (old : List JRec) (faults : List JRec) : Sparse Nat :=
  let add := fun (m : Sparse Nat) (e : Nat × Nat) => sset 0 e.1 (sget 0 e.1 m + e.2) m
  let base := (old.flatMap (fun r => totalsOf r.payload 37)).foldl add []
  (faults.map (fun r => (sliceNum r.payload 0 2 % 2048, 1 + sliceNum r.payload 24 4))).foldl add base

/-- A compaction begins when the current half reaches 24,576 records (R430). -/
def Chip.compact (c : Chip) : Chip :=
  if c.uz.on && !c.compacting && 24576 ≤ (c.uz.half c.lrHalf).length then c.setBit .UZ_LR_STATUS F.UZ_LR_STATUS_COMPACTING true
  else c

def execCompaction (s : State) : Result := s.onChip Chip.compact

/-- A compaction ends (R430): what is kept, the latest 8,192 fault records and the folded totals stand in the other half under
GEN + 1, followed by the records held in SRAM. -/
def Chip.compactDone (c : Chip) : Chip :=
  if !c.compacting then c
  else
    let cur := c.uz.half c.lrHalf
    let h := 1 - c.lrHalf
    let faults := cur.filter (fun r => r.type == 0x40)
    let old := faults.take (faults.length - 8192)
    let totals := totalsRecords (foldTotals (cur.filter (fun r => r.type == 0x41)) old) 2048
    let mk := fun (p : List Byte) => ({ seq := 0, type := 0x41, time := c.now, boot := c.uz.boot, payload := p } : JRec)
    let body := latestKept cur ++ faults.drop (faults.length - 8192) ++ totals.map mk ++ c.uz.sram
    let numbered := body.zipIdx.map (fun e => { e.1 with seq := c.uz.nextSeq + 1 + e.2 })
    let u0 := c.uz.setHalf h numbered
    let u1 : UzSt := { u0 with nextSeq := c.uz.nextSeq + 1 + numbered.length, sram := []
                               gen0 := if h = 0 then c.uz.gen1 + 1 else c.uz.gen0
                               gen1 := if h = 1 then c.uz.gen0 + 1 else c.uz.gen1 }
    (((c.onUz (fun _ => u1)).setBit .UZ_LR_STATUS F.UZ_LR_STATUS_COMPACTING false).setFld .UZ_LR_STATUS F.UZ_LR_STATUS_HALF
      h).noteJournal

def execCompactionDone (s : State) : Result := s.onChip Chip.compactDone

/-- The record at an index (R432). -/
def Chip.recordAt (c : Chip) (i : Nat) : Option JRec := (c.uz.half c.lrHalf)[i]?

/-- A write to UZ_LR_READ, from W1 and Uzomuris: UZ_LR_DATA_k are loaded, or VALID is 0 (R432). -/
def Chip.lrReadWrite (c : Chip) (who : Who) (v : Word) : Chip :=
  c.ifMay who.sealed who .UZ_LR_READ (fun x =>
    let i := F.UZ_LR_READ_INDEX.get v
    let x1 := x.setFld .UZ_LR_READ F.UZ_LR_READ_INDEX i
    match x.recordAt i with
    | none => x1.setBit .UZ_LR_READ F.UZ_LR_READ_VALID false
    | some r => (forUpTo 32 (fun k y => y.setReg (.UZ_LR_DATA k) (BitVec.ofNat 64 (sliceNum r.bytes (8 * k) 8))) x1).setBit
        .UZ_LR_READ F.UZ_LR_READ_VALID true)

def execUzLrReadWrite (who : Who) (v : Word) (s : State) : Result := s.onChip (fun c => c.lrReadWrite who v)

/-- n bytes the manual leaves open, drawn from one free value. -/
def freeBytes (n k : Nat) : List Byte := toBytes n (Config.freeNat k)

/-- The V_MIN_MV band of VMIN_HIST (R430). -/
def vminBin (mv : Nat) : Nat :=
  if mv < 420 then 0 else if mv < 500 then 1 else if mv < 600 then 2 + (mv - 500) / 10 else if mv < 650 then 12
  else if mv < 700 then 13 else 14

/-- The VMIN_HIST record of a die, one hour added; V_MIN_RESET follows (R430). -/
def Chip.vminRecord (c : Chip) (d : Nat) : Chip :=
  let old := match c.records.find? (fun r => r.type == 0x12 && r.payload.head? == some (BitVec.ofNat 8 d)) with
    | some r => r.payload
    | none => []
  let b := vminBin (c.fld (.CD_SUPPLY_STATUS d) F.CD_SUPPLY_STATUS_V_MIN_MV)
  let body := (List.range 15).flatMap (fun i => toBytes 4 (sliceNum old (8 + 4 * i) 4 + flag (i == b)))
  (c.lifeWrite 0x12 (toBytes 8 d ++ body)).setFld (.CD_SUPPLY_STATUS d) F.CD_SUPPLY_STATUS_V_MIN_MV 1023

/-- The hourly records (R430). The seconds and corrections of the histograms, and the energy, are free values; FAULT_COUNTS
holds the sources whose count has changed since the latest hourly records (R342). The partner gets the summary (R403). -/
def Chip.hourly (c : Chip) : Chip :=
  if !c.uz.on then c
  else
    let counters := fun (type n : Nat) (x : Chip) (u : Nat) =>
      x.nextFree.lifeWrite type (toBytes 8 u ++ freeBytes n x.free)
    let c1 := (List.range 13).foldl (counters 0x10 80) c
    let c2 := (List.range 13).foldl (counters 0x11 64) c1
    let c3 := (List.range 12).foldl (fun (x : Chip) d => x.vminRecord d) c2
    let c4 := c3.lifeWrite 0x13 ((List.range 12).flatMap (fun d =>
      toBytes 4 (sget 0 d c.uz.dieDroops)) ++ toBytes 4 c.uz.droops)
    let c5 := (List.range 28).foldl (counters 0x15 160) c4.linkRecord
    let counts := (List.range 1536).filterMap (fun n => if c.cntNew.contains n then some (n, c.fld (.FC_SRC n) F.FC_SRC_COUNT) else none)
    let c6 := (totalsRecords counts 2048).foldl (fun (x : Chip) l => x.lifeWrite 0x42 l) { c5 with cntNew := [] }
    (c6.nextFree.lifeWrite 0x70 (freeBytes 16 c6.free)).saySummary

def execHourlyRecords (s : State) : Result := s.onChip Chip.hourly

-- package reset

/-- STAGE of UZ_STATUS. -/
def Chip.stage (c : Chip) (n : Nat) : Chip := c.setFld .UZ_STATUS F.UZ_STATUS_STAGE n

/-- The registers that a package reset leaves: those of Uzomuris, of package time, and PAIR_PARTNER_SERIAL. -/
def keptReg (off : Nat) : Bool :=
  (0x50000 ≤ off && off < 0x60000) || off == Reg.PKG_TIME_STATUS.offset || off == Reg.PAIR_PARTNER_SERIAL.offset

/-- The main rails are up. -/
def Chip.mainsUp (c : Chip) : Bool := c.uz.mainsOn && !(c.uz.tripped && sget 0 12 c.rail == 0)

/-- Every die, station and cluster is held in reset (R419): what remains is package time, Uzomuris and its reports, the supply, and the
record of the pair; the remap entries are restored from the life record (R312). A debug grant ends (R301). -/
def Chip.heldReset (c : Chip) : Chip :=
  let k := (c.endGrant).restoreBanks (fun _ => true)
  let dies := (List.range 12).foldl (fun m d =>
    sset DieSt.reset d { DieSt.reset with mv := (k.die d).mv, tj := (k.die d).tj, setMv := (k.die d).setMv
                                          belowSince := (k.die d).belowSince, floorLost := (k.die d).mv < 420 } m) []
  let r : Chip := { Chip.reset with
    regs := k.regs.filter (fun e => keptReg e.1), now := k.now, refclkGoodAt := k.refclkGoodAt, banks := k.banks
    link := k.link.foldl (fun m e => sset LinkEnd.reset e.1 { LinkEnd.reset with fails := e.2.fails } m) []
    cntNew := (List.range 1536).filter (fun n => k.cntNew.contains n || k.fld (.FC_SRC n) F.FC_SRC_COUNT != 0)
    fcHold := sset [] unitUz (sget [] unitUz k.fcHold) [], fcLost := sset 0 unitUz (sget 0 unitUz k.fcLost) [], rail := k.rail, railBadAt := k.railBadAt
    pmbusMiss := k.pmbusMiss, pmbus := k.pmbus, viodSet := k.viodSet, watts := k.watts, peakBar := k.peakBar || k.peakAt.isSome, dies := dies, uz := { k.uz with resetPending := false, nonce := none }
    pins := { k.pins with pairAliveO := false, wakeN := [] }
    pair := { PairSt.reset with srcAtSep := k.pair.srcAtSep, tracking := k.pair.tracking, aliveAt := k.pair.aliveAt }
    free := k.free }
  forUpTo 6 (fun i x => if k.bit (.FC_SRC (i + 1)) F.FC_SRC_CAUSE then x.setCause (i + 1) true else x) r

/-- A channel at memory training (R418): its record is reused where the DIMM and rate match it and the test passes; else it is
trained from the start. A channel that fails leaves service. -/
def Chip.trainChannel (c : Chip) (n : Nat) (s : ChannelStart) : Chip :=
  let rec_ := c.records.find? (fun r => r.type == 0x30 && r.payload.head? == some (BitVec.ofNat 8 n))
  let reuse : Bool := s.reuseOk && rec_.any (fun r => sliceNum r.payload 8 8 == s.spd && sliceNum r.payload 16 2 == s.mts)
  let full := c.fld .UZ_STATUS F.UZ_STATUS_TRAIN_FULL
  let c1 := if reuse then c.setFld .UZ_STATUS F.UZ_STATUS_TRAIN_FULL (withBit full n false)
    else (c.setFld .UZ_STATUS F.UZ_STATUS_TRAIN_FULL (withBit full n true)).uzFault 51
  if reuse || s.trainOk then
    let c2 := if reuse then c1 else c1.lifeWrite 0x30 (toBytes 8 n ++ toBytes 8 s.spd ++ toBytes 2 s.mts)
    ((c2.setBit (.HALL_FLIGHT_STATUS n) F.HALL_FLIGHT_STATUS_IN_SERVICE true).setFld (.HALL_FLIGHT_STATUS n)
      F.HALL_FLIGHT_STATUS_MTS_100 s.mts)
  else (c1.onHall n (fun h => { h with trainBad := true })).reportLevel (unitHall n) (208 + 12 * n + 11) (0x4000 + n) 1 15

/-- The highest rate of a DIMM in units of 100 MT/s (R250): type 0 is an MRDIMM, type 1 an RDIMM. -/
def dimmRate (t : Nat) : Nat := if t = 0 then 88 else 64

/-- What the channels meet is one of R250's configurations: all sixteen at one trained rate, none above its DIMM's highest. -/
def ratesOk (l : List ChannelStart) : Bool :=
  l.all (fun s => s.dimmType < 2 && 1 ≤ s.mts && s.mts ≤ dimmRate s.dimmType && l.head?.all (fun a => s.mts == a.mts))

/-- The sixteen channels carry DIMMs of the same type, capacity and organisation (R27). -/
def dimmsAgree (l : List ChannelStart) : Bool :=
  match l with
  | [] => false
  | a :: rest => rest.all (fun b => b.capGib == a.capGib && b.dimmType == a.dimmType && b.org == a.org)

/-- Open the port of an attachment. -/
def Chip.openAttach (c : Chip) (a : Attach) : Chip :=
  match portOf a with
  | some p => c.openPort p.1 p.2
  | none => c

/-- A die that brings nothing. -/
def noDie : DieStart :=
  { trainA := false, trainB := false, identA := { link := 0, stepping := 0, serial := 0, cap := 0, failMask := 0 }
    identB := { link := 1, stepping := 0, serial := 0, cap := 0, failMask := 0 } }

/-- The owner of an event source after start-up (R78). -/
def srcStartOwner (n : Nat) : Nat :=
  if n < 16 then n
  else if n ≤ 20 ∨ (32 ≤ n ∧ n < 48) ∨ (64 ≤ n ∧ n ≤ 80) ∨ (128 ≤ n ∧ n < 140) ∨ (144 ≤ n ∧ n < 160) ∨ (192 ≤ n ∧ n < 230)
      ∨ (576 ≤ n ∧ n < 592) then 1
  else 0

/-- The commit of start-up: as any commit it is refused by R261, where nothing changes but RESULT. -/
def Chip.startCommit (c : Chip) : Chip :=
  (if c.commitResult = 1 then c.takeStaged else c).setFld .QOS_STATUS F.QOS_STATUS_RESULT c.commitResult

/-- Step 7 of R417: the descriptor's settings, CAPACITY and the label map are committed (R262). -/
def Chip.startSettings (c : Chip) (st : PkgStart) : Chip :=
  let c1 := (((c.setBit .PKG_ADDR_MAP F.PKG_ADDR_MAP_DOMAINS st.domains).setBit .PKG_DIE_CFG F.PKG_DIE_CFG_HETERO_ALLOW
    st.hetero).setFld .UZ_THERM_CFG F.UZ_THERM_CFG_TJ_TARGET (max 70 (min 105 st.tjTarget))).setFld .PKG_POWER_CFG
      F.PKG_POWER_CFG_TDP_W (max 600 (min 950 st.tdp))
  let c2 := st.labelMap.foldl (fun (x : Chip) e => x.setFld (.QOS_LABEL_MAP e.1) F.QOS_LABEL_MAP_CLASS e.2) c1
  (c2.setFld .QOS_CAPACITY F.QOS_CAPACITY_CAPACITY (c2.mts100 * 128 * 85 / 100)).startCommit

/-- Step 8 of R417: the strap (R393), and the training of the pair links. -/
def Chip.startPair (c : Chip) (st : PkgStart) : Chip :=
  let c1 := (({ c with pins := { c.pins with pairRole := st.pairRole } } : Chip).setFld .PAIR_STATUS F.PAIR_STATUS_ROLE
    st.pairRole)
  if st.pairRole = 3 then c1.uzFault 34
  else if st.pairRole = 0 then c1
  else
    let c2 := [24, 25].foldl (fun (x : Chip) k => x.trainLink k (bitAt st.pairUp (k - 24)) 0 0xFFFFFFF) c1
    c2.setPairState 1

/-- Steps 9 and 10 of R417: the dies are held in reset, trained and identified. -/
def Chip.startDies (c : Chip) (st : PkgStart) : Chip :=
  forUpTo 12 (fun d x => (x.startDie d (st.dies.getD d noDie)).identArrive d (st.dies.getD d noDie)) c

/-- Step 11 of R417: the common capabilities (R2, R241), the commit of the PKG block, and the ownership entries (R78, R290).
Where no die is accepted PKG_CAP_COMMON is 0 (log entry 100, DESIGN CHOICE: the manual gives no value for the AND over no dies). -/
def Chip.startOwners (c : Chip) : Chip :=
  let there := (List.range 12).filter (fun d => c.dieState d == 1 && (c.die d).identOk)
  let cap := there.foldl (fun a d => a &&& (c.die d).ident.cap) (if there.isEmpty then 0 else 2 ^ 32 - 1)
  let c1 := (c.setFld .PKG_CAP_COMMON F.PKG_CAP_COMMON_CAP cap).setBit .PKG_CTL F.PKG_CTL_COMMITTED true
  (forUpTo 2048 (fun n x => x.setFld (.WLD_SRC_OWN n) F.WLD_OWN_OWNER (srcStartOwner n)) c1).setFld (.WLD_INST_OWN 0)
    F.WLD_OWN_OWNER 1 |>.newDigest

/-- Step 12 of R417: the ports of stations, clusters and pair stations open; those of the dies open with IDENT_ACK. -/
def Chip.startPorts (c : Chip) : Chip :=
  ((List.range 10).map Attach.station ++ [Attach.cluster 0, Attach.cluster 1, Attach.pair 0, Attach.pair 1]).foldl (fun x a => x.openAttach a) c

/-- Step 13 of R417: the first image is copied to DRAM, and the reset vector of every die set. -/
def Pkg.startImage (p : Pkg) (st : PkgStart) : Pkg :=
  let q := st.image.zipIdx.foldl (fun (q : Pkg) e =>
    if st.imageAddr + e.2 < p.chip.dramTop then q.putByte (st.imageAddr + e.2) e.1 else q) p
  q.onChip (fun c => (forUpTo 12 (fun d x => x.setFld (.CD_RESET_VECTOR d) F.CD_RESET_VECTOR_ADDR (st.imageAddr / 4)) c).onUz
    (fun u => { u with image := st.image }))

/-- Steps 5 to 14 of R417. With channels that do not train or do not agree, start-up stops at step 6 and the memory
configuration fault is raised (R27); HALL_CAP_GIB then stays 0 (log entry 79, DESIGN CHOICE: step 6 sets it before the check, and the
manual gives no value for DIMMs that differ). -/
def Pkg.startPackage (p : Pkg) (st : PkgStart) : Pkg :=
  let c6 := (st.channels.zipIdx.foldl (fun (x : Chip) e => x.trainChannel e.2 e.1)
    ({ p.chip with pins := { p.chip.pins with mfgMode := st.mfgMode } } : Chip)).stage 6
  if !(dimmsAgree st.channels && (List.range 16).all c6.inService) then
    { p with chip := c6.reportLevel unitUz 14 0x5000 1 15 }
  else
    let cap := (st.channels.head?.map (fun s => s.capGib)).getD 0
    let c7 := (forUpTo 16 (fun n x => x.openAttach (.hall n)) (c6.setFld .PKG_ADDR_MAP F.PKG_ADDR_MAP_HALL_CAP_GIB cap)).startSettings
      st
    let c12 := ((c7.startPair st).startDies st).startOwners.startPorts
    (({ p with chip := c12 } : Pkg).startImage st).onChip (fun c => (forUpTo 12 (fun d x => x.identAck d (x.capEnFor d)) c).stage 15)

/-- Every die reads below 100 °C. -/
def Chip.cool (c : Chip) : Bool :=
  (List.range 12).all (fun d => decide ((c.die d).tj < 100)) && c.fld .UZ_THERM_CFG F.UZ_THERM_CFG_HOTTEST_C < 100

/-- The trip latch is released (R458). -/
def Chip.releaseTrip (c : Chip) : Chip :=
  { c with pins := { c.pins with thermtripN := true }, uz := { c.uz with tripped := false } }

/-- The four main supplies of the I/O die come on, in the descriptor's order (R417 step 4, R455). -/
def Chip.mainsOn (c : Chip) : Chip :=
  { c with rail := [(12, 800), (13, 1100), (14, 900), (15, 1200)].foldl (fun m e => sset 0 e.1 e.2 m) c.rail
           railBadAt := [12, 13, 14, 15].foldl (fun m k => sset 0 k 0 m) c.railBadAt, viodSet := 800, viodFloor := false
           pmbus := [(14, 900), (15, 1200), (13, 1100), (12, 800)].foldl (fun m e =>
             sset [] e.1 [.page (Config.railPage e.1), .voutTransitionRate, .voutCommand e.2, .operation true] m) c.pmbus
           uz := { c.uz with mainsOn := true } }

/-- VIOD is within R43: its set-point less 10 mV, up to 0.90 V. -/
def Chip.viodGood (c : Chip) : Bool := c.viodSet ≤ sget 0 12 c.rail + 10 && sget 0 12 c.rail ≤ 900

/-- Every main rail is off. -/
def Chip.mainsOff (c : Chip) : Chip :=
  { c with rail := [], railBadAt := [], viodSet := 0
           pmbus := (List.range 16).foldl (fun m r => sset [] r [.page (Config.railPage r), .operation false] m) c.pmbus
           uz := { c.uz with mainsOn := false } }

/-- A main power-on (R420): after a thermal trip with a sensor still at 100 °C or more the rails go off again, and it is tried
again after 60 s. -/
def Pkg.mainOn (p : Pkg) (hot : Bool) (st : PkgStart) : Pkg :=
  let c := p.chip
  if !c.uz.on || c.mainsUp then p
  else if c.uz.tripped && hot then
    p.onChip (fun x => ((x.mainsOff).onUz (fun u => { u with retryAt := some (x.now + 60000000000) })).faultRecord
      { source := 56, rid := 0x5000, world := 1, acc := 15, detail := 0, addr := 0, time := x.now } 4 0)
  else
    ((p.onChip (fun x => ((if x.uz.tripped then x.mainsOff else x).releaseTrip.mainsOn.heldReset).onUz (fun u =>
      { u with retryAt := none }))).dropDram).startPackage st

/-- A package reset (R419): PAIR_YIELD, everything held in reset, steps 5 to 14; with the main rails off it is a main power-on
(R420), which meets the sensors as they were last read. While a sensor keeps THERMTRIP_N low it stops at its first step (R458). One that VIOD
owes (R50) waits until VIOD is back within R43. -/
def Pkg.resetPackage (p : Pkg) (st : PkgStart) : Pkg :=
  let c := p.chip
  if !c.uz.on then p
  else if !c.mainsUp then p.mainOn (!c.cool) st
  else if c.uz.resetPending && !c.viodGood then p
  else
    let c1 := if c.uz.tripped && c.cool then c.pairYield.releaseTrip else c.pairYield
    let q := (({ p with chip := c1.heldReset } : Pkg).dropDram)
    if c1.uz.tripped then q.onChip (fun x => x.stage 5) else q.startPackage st

/-- A power-off (R456): everything held in reset, then the rails off. -/
def Pkg.powerOffAll (p : Pkg) : Pkg :=
  if p.chip.uz.on && p.chip.mainsUp then (p.onChip (fun c => c.pairYield.heldReset.mainsOff)).dropDram else p

/-- The operands of a package reset name what the package has. -/
def pkgStartOk (st : PkgStart) : Bool :=
  st.channels.length == 16 && st.channels.all (fun s => 1 ≤ s.capGib && s.capGib ≤ 256 && s.org < 256 && s.spd < 2 ^ 64)
    && ratesOk st.channels
    && st.dies.length == 12 && st.dies.all dieStartOk && st.pairRole < 4 && st.pairUp < 4 && st.imageAddr % 4096 == 0
    && st.imageAddr < 2 ^ 42 && st.image.length ≤ 16384 * 1024 && st.tjTarget < 256 && st.tdp < 65536
    && st.labelMap.all (fun e => e.1 < 64 && e.2 < 16)

def execPackageReset (st : PkgStart) (s : State) : Result := need (pkgStartOk st) (s.onPkg (fun p => p.resetPackage st))

/-- RESET_N falls, and has risen again before step 5 (R450). -/
def execResetNFall (st : PkgStart) (s : State) : Result := need (pkgStartOk st) (s.onPkg (fun p => p.resetPackage st))

/-- A write to UZ_CTL with PKG_RESET, from W1 and Uzomuris. -/
def Pkg.uzCtlReset (p : Pkg) (who : Who) (st : PkgStart) : Pkg :=
  if who.sealed then p.resetPackage st else p.onChip (fun c => c.refuseWrite who .UZ_CTL)

def execPkgReset (who : Who) (st : PkgStart) (s : State) : Result := need (pkgStartOk st) (s.onPkg (fun p => p.uzCtlReset who st))

/-- ndmreset (R85): honoured while the production lock is open. -/
def execNdmreset (st : PkgStart) (s : State) : Result :=
  need (pkgStartOk st) (s.onPkg (fun p => if p.chip.lockOpen then p.resetPackage st else p))

def execMainPowerOn (hot : Bool) (st : PkgStart) (s : State) : Result :=
  need (pkgStartOk st) (s.onPkg (fun p => p.mainOn hot st))

/-- The retry of a main power-on, 60 s after it found a hot sensor (R420). -/
def execMainPowerOnRetry (hot : Bool) (st : PkgStart) (s : State) : Result :=
  need (pkgStartOk st) (s.onPkg (fun p => if p.chip.uz.retryAt.any (fun t => t ≤ p.chip.now) then p.mainOn hot st else p))

def execPowerOffRequest (s : State) : Result := s.onPkg Pkg.powerOffAll

/-- The commit of the PKG block (R437), from Uzomuris alone (R462). -/
def Chip.pkgCtlWrite (c : Chip) (who : Who) (v : Word) : Chip :=
  c.ifMay who.uz who .PKG_CTL (fun x =>
    if F.PKG_CTL_COMMIT.get v = 1 then (x.setBit .PKG_CTL F.PKG_CTL_COMMITTED true).newDigest else x)

def execPkgCommit (who : Who) (s : State) : Result := s.onChip (fun c => c.pkgCtlWrite who 1)

-- start-up

/-- What survives a Uzomuris reset: the journal, with the droop events added up in it, the fuses and the firmware slots in flash. -/
def UzSt.kept (u : UzSt) : UzSt :=
  { UzSt.reset with
    half0 := u.half0, half1 := u.half1, gen0 := u.gen0, gen1 := u.gen1, formatted := u.formatted, nextSeq := u.nextSeq,
    boot := u.boot, slotVer := u.slotVer, slotOk := u.slotOk, minVer := u.minVer, droops := u.droops, dieDroops := u.dieDroops }

/-- Power is lost (R428): whether a record was being written is free; one that was stands in the next slot, cut short. -/
def Chip.tearRecord (c : Chip) : Chip :=
  let h := c.lrHalf
  if c.uz.on && c.uz.formatted && (c.uz.half h).length < 32767 && Config.freeNat c.free % 2 == 1 then
    let r : JRec := { seq := c.uz.nextSeq, type := 0, time := c.now, boot := c.uz.boot, payload := [], whole := false }
    c.nextFree.onUz (fun u => u.setHalf h (u.half h ++ [r]))
  else c.nextFree

/-- A Uzomuris reset (R415, R450): the standby power-good input falls, package time stops, and nothing is left but what the
journal and the flash hold. -/
def Chip.uzReset (c : Chip) : Chip :=
  let pins : Pins := { Pins.reset with
    resetN := c.pins.resetN, droopN := c.pins.droopN, pairAliveI := c.pins.pairAliveI, pairRole := c.pins.pairRole, mfgMode := c.pins.mfgMode }
  { Chip.reset with
    uz := c.tearRecord.uz.kept, free := c.tearRecord.free, pins := pins }

def execUzomurisReset (s : State) : Result := s.onPkg (fun p => (p.onChip Chip.uzReset).dropDram)

/-- A slot passes step 2 of R417: its signature and descriptor, and its version. -/
def UzSt.slotGood (u : UzSt) (i : Nat) (signed : Bool) : Bool :=
  signed && u.slotOk.getD i false && u.minVer ≤ u.slotVer.getD i 0

/-- The pair history that the journal holds (R395, R431). -/
def Chip.restorePair (c : Chip) : Chip :=
  match c.records.find? (fun r => r.type == 0x60) with
  | some r =>
    let flags := sliceNum r.payload 1 1
    (({ c with pair := { c.pair with srcAtSep := bitAt flags 0, tracking := bitAt flags 1 } } : Chip).setReg
      .PAIR_PARTNER_SERIAL (BitVec.ofNat 64 (sliceNum r.payload 8 8)))
  | none => c

/-- Steps 3 and 4 of R417, with a firmware slot chosen. -/
def Chip.standby (c : Chip) (slot : Nat) : Chip :=
  let c1 := ((({ c with now := 0, uz := { c.uz with on := true } } : Chip).setBit .UZ_STATUS F.UZ_STATUS_FW_SLOT (slot == 1)).setBit
    .PKG_TIME_STATUS F.PKG_TIME_STATUS_RUNNING true).setBit .PKG_TIME_STATUS F.PKG_TIME_STATUS_REFCLK_OK true
  c1.openJournal.restorePair.mainsOn

/-- Start-up (R417): the rise of PWRGD_STBY. With MFG_MODE high only step 1 is performed (R451); with no good slot fault 48 is
recorded and Uzomuris stops at step 2. -/
def Pkg.startUp (p : Pkg) (slotA slotB : Bool) (st : PkgStart) : Pkg :=
  if p.chip.pins.pwrgd then p
  else
    let c := (({ p.chip with pins := { p.chip.pins with pwrgd := true, mfgMode := st.mfgMode } } : Chip)).stage 1
    if st.mfgMode then { p with chip := c }
    else if c.uz.slotGood 0 slotA then
      (({ p with chip := ((c.standby 0).heldReset) } : Pkg).dropDram).startPackage st
    else if c.uz.slotGood 1 slotB then
      (({ p with chip := ((c.standby 1).uzFault 48).heldReset } : Pkg).dropDram).startPackage st
    else
      -- the record needs the journal: it is opened for this write alone
      let c1 := ({ c with uz := { c.uz with on := true } } : Chip).openJournal
      let c2 := c1.faultRecord { source := 48, rid := 0x5000, world := 1, acc := 15, detail := 0, addr := 0, time := 0 } 2 0
      { p with chip := ({ c2 with uz := { c2.uz with on := false } } : Chip).stage 2 }

def execStandbyPowerGood (slotA slotB : Bool) (st : PkgStart) (s : State) : Result :=
  need (pkgStartOk st) (s.onPkg (fun p => p.startUp slotA slotB st))

/-- A watchdog restart of the Uzomuris cores (R415). -/
def Chip.watchdog (c : Chip) : Chip :=
  if c.uz.on then (c.bump .UZ_STATUS F.UZ_STATUS_WDOG_COUNT).uzFault 53 else c

def execWatchdogRestart (s : State) : Result := s.onChip Chip.watchdog

-- temperature

/-- A thermal reduction of a die (R421): the set-point while it can fall, then CAP_A. -/
def Chip.thermDown (c : Chip) (d : Nat) : Chip :=
  let lo := (c.fld (.CD_SUPPLY_CFG d) F.CD_SUPPLY_CFG_VSET_MIN_MV + 4) / 5 * 5
  let c1 := if (c.die d).thermSteps = 0 then (c.raiseEvent 20).uzFault 52 else c
  (if lo < (c1.die d).setMv ∧ !c1.regulatorLost d then c1.lowerMv d else c1.lowerCap d).onDie d (fun x =>
    { x with thermSteps := x.thermSteps + 1, thermOk := 0 })

/-- The reductions are released in the reverse order: CAP_A, then the set-point, unless its regulator does not answer (R56, R421). -/
def Chip.thermUp (c : Chip) (d : Nat) : Chip :=
  if c.fld (.CD_PACER_STATUS d) F.CD_PACER_STATUS_CAP_A ≠ 255 then c.setFld (.CD_PACER_STATUS d) F.CD_PACER_STATUS_CAP_A 255
  else (c.raiseMv d).onDie d (fun x => { x with thermSteps := 0 })

/-- A reading of a die's hottest sensor, taken every 1 ms (R421). -/
def Chip.thermDie (c : Chip) (d t : Nat) : Chip :=
  let target := c.fld .UZ_THERM_CFG F.UZ_THERM_CFG_TJ_TARGET
  let c1 := c.onDie d (fun x => { x with tj := t })
  if !c1.dieUp d then c1
  else if target ≤ t ∨ ((c1.die d).thermSteps ≠ 0 ∧ target < t + 2) then c1.thermDown d
  else if (c1.die d).thermSteps = 0 then c1
  else if t + 2 < target then
    let c2 := c1.onDie d (fun x => { x with thermOk := x.thermOk + 1 })
    if 100 ≤ (c2.die d).thermOk then c2.thermUp d else c2
  else c1.onDie d (fun x => { x with thermOk := 0 })

/-- Every sensor is read (R421): twelve compute dies and the I/O die. -/
def Chip.thermRead (c : Chip) (temps : List Nat) : Chip :=
  if !c.uz.on then c
  else
    let hot := temps.foldl max 0
    let die := (firstIdx (· == hot) temps).getD 0
    let c1 := ((c.setFld .UZ_THERM_CFG F.UZ_THERM_CFG_HOTTEST_C hot).setFld .UZ_THERM_CFG F.UZ_THERM_CFG_HOTTEST_DIE die)
    (forUpTo 12 (fun d x => x.thermDie d (temps.getD d 0)) c1).noteCapping

def execThermalSensorRead (temps : List Nat) (s : State) : Result :=
  need (temps.length == 13 && temps.all (· < 256)) (s.onChip (fun c => c.thermRead temps))

/-- CAP_A of a die lowered by one step of R422, or raised by one. -/
def Chip.dimmCap (c : Chip) (down : Bool) (d : Nat) : Chip :=
  let icc := c.fld (.CD_PACER_CFG d) F.CD_PACER_CFG_ICC_MAX
  let cap := c.fld (.CD_PACER_STATUS d) F.CD_PACER_STATUS_CAP_A
  let step := icc * c.fld .UZ_THERM_CFG F.UZ_THERM_CFG_DIMM_STEP_PCT / 100
  let base := min cap icc
  let dst := if down then min base (max (icc / 2) (base - step)) else if icc ≤ cap + step then 255 else cap + step
  c.setFld (.CD_PACER_STATUS d) F.CD_PACER_STATUS_CAP_A dst

/-- DIMM_CAP_STEP, every 10 ms (R422). -/
def Chip.dimmStep (c : Chip) : Chip :=
  if !c.uz.on then c
  else if (List.range 16).any c.throttles then
    ((forUpTo 12 (fun d x => x.dimmCap true d) c).onUz (fun u => { u with throttleAt := some c.now })).noteCapping
  else match c.uz.throttleAt with
    | none => c
    | some t =>
      if t + 100000000 ≤ c.now then
        let c1 := forUpTo 12 (fun d x => x.dimmCap false d) c
        (if (List.range 12).all (fun d => c1.fld (.CD_PACER_STATUS d) F.CD_PACER_STATUS_CAP_A == 255) then
          c1.onUz (fun u => { u with throttleAt := none }) else c1).noteCapping
      else c

def execDimmCapStep (s : State) : Result := s.onChip Chip.dimmStep

/-- A thermal trip (R458): THERMTRIP_N falls, every hart stops fetching, every allowance is zero, and stations and halls issue
nothing; the trip is recorded, with the tripped die in DETAIL, and reported. -/
def Chip.trip (c : Chip) (d : Nat) : Chip :=
  let r : Report := { source := 56, rid := 0x5000, world := 1, acc := 15, detail := 0, addr := 0, time := c.now }
  let c1 := ((({ c with pins := { c.pins with thermtripN := false }, uz := { c.uz with tripped := true } } : Chip).faultRecord
    { r with detail := d } 4 0).setCause 56 true).hold unitUz r
  let c2 := forUpTo 288 (fun h x => if (x.hart h).run = .held then x else x.onHart h Hart.stop) c1
  forUpTo 12 (fun i x => (x.onDie i (fun y => { y with allow := 0 })).setFld (.CD_PACER_STATUS i) F.CD_PACER_STATUS_ALLOW_A 0) c2

def execThermtrip (d : Nat) (s : State) : Result := need (d < 13) (s.onChip (fun c => if c.uz.tripped then c else c.trip d))

-- management services

/-- A firmware update into the inactive slot (R423): refused below the fused minimum version. The version is the image's first
four bytes. -/
def Chip.firmware (c : Chip) (image : List Byte) : Chip :=
  let v := sliceNum image 0 4
  let i := 1 - c.fld .UZ_STATUS F.UZ_STATUS_FW_SLOT
  if v < c.uz.minVer then c else c.onUz (fun u => { u with slotVer := u.slotVer.set i v, slotOk := u.slotOk.set i true })

/-- What a management request asks for. -/
inductive Manage where
  | read
  | reset
  | powerOff
  | powerOn
  | firmware (image : List Byte)
  | measurement (i : Nat)
  | nonce
  | token (t : List Byte)
  | record (i : Nat)
  deriving DecidableEq, Repr

/-- The request that an MCTP message of a type spells (R423): PLDM firmware update is type 5, and SetStateEffecterStates of
type 2 names power-on, power-off or reset; SPDM GET_MEASUREMENTS names an index; the vendor-defined codes are 1 nonce, 2
unlock token, 3 life record. -/
def manageOf (type : Nat) (b : List Byte) : Manage :=
  match type with
  | 1 =>
    if sliceNum b 1 1 % 64 = 5 then .firmware (b.drop 3)
    else if sliceNum b 1 1 % 64 = 2 ∧ sliceNum b 2 1 = 0x39 then
      match sliceNum b 7 1 with
      | 1 => .powerOn
      | 2 => .powerOff
      | 3 => .reset
      | _ => .read
    else .read
  | 5 => if sliceNum b 1 1 = 0xE0 then .measurement (sliceNum b 3 1) else .read
  | 0x7E =>
    if sliceNum b 0 2 ≠ 0x3A1F then .read
    else match sliceNum b 2 1 with
      | 1 => .nonce
      | 2 => .token (b.drop 3)
      | 3 => .record (sliceNum b 3 2)
      | _ => .read
  | _ => .read

/-- What a measurement is of (R424), beside the first image and the digest of R403: the firmware that runs, with its version; the fuses; the
effective enables of every world; the dies' serial numbers and steppings and the core maps (log entry 129, DESIGN CHOICE). The boot ROM and
the platform descriptor are the part's own. -/
def Chip.measured (c : Chip) (i : Nat) : List Nat :=
  let mask := fun (f : Nat → Bool) => (List.range 16).foldl (fun m w => m + flag (f w) * 2 ^ w) 0
  match i with
  | 2 => let s := c.fld .UZ_STATUS F.UZ_STATUS_FW_SLOT; [s, c.uz.slotVer.getD s 0]
  | 5 => [fuseWord]
  | 6 => [mask c.invEff, mask c.ninvEff]
  | 8 => (List.range 12).flatMap (fun d => [(c.die d).ident.serial, (c.die d).ident.stepping, (c.reg (.CD_CORE_MAP_0 d)).toNat,
      (c.reg (.CD_CORE_MAP_1 d)).toNat])
  | _ => []

/-- The answer to a request (R423, R424, R432), and its effect on the chip. What the manual does not state of an answer is a
free value. -/
def Chip.manage (c : Chip) (q : Manage) : Chip :=
  let answer := fun (x : Chip) (l : List Byte) => x.onUz (fun u => { u with lastAnswer := l })
  match q with
  | .firmware image => answer (c.nextFree.firmware image) (freeBytes 4 c.free)
  | .measurement 4 => answer c (unnums (digest 1 (nums c.uz.image)))
  | .measurement 7 => answer c (toBytes 48 c.pair.ownDigest)
  | .measurement i =>
    if 1 ≤ i ∧ i ≤ 8 then answer c (unnums (digest 1 (nums (Config.measuredBytes i (c.measured i))))) else answer c.nextFree (freeBytes 48 c.free)
  | .nonce =>
    let n := freeBytes 32 c.free
    answer (c.nextFree.onUz (fun u => { u with nonce := some n })) n
  | .token t => answer (c.unlock t) []
  | .record i => answer c (match c.recordAt i with | some r => r.bytes | none => [])
  | _ => answer c.nextFree (freeBytes 8 c.free)

/-- A management request on a binding outside the package (R423). -/
def Pkg.serve (p : Pkg) (q : Manage) (st : PkgStart) : Pkg :=
  if !p.chip.uz.on then p
  else match q with
    | .reset => p.resetPackage st
    | .powerOff => p.powerOffAll
    | .powerOn => p.mainOn (!p.chip.cool) st
    | _ => p.onChip (fun c => c.manage q)

def execMctpMessage (type : Nat) (body : List Byte) (st : PkgStart) (s : State) : Result :=
  need (type < 256 && pkgStartOk st) (s.onPkg (fun p => p.serve (manageOf type body) st))

/-- A Redfish request (R423): 1 reset, 2 power-off, 3 power-on, 4 firmware update, any other a read. -/
def redfishOf (op : Nat) (image : List Byte) : Manage :=
  match op with
  | 1 => .reset
  | 2 => .powerOff
  | 3 => .powerOn
  | 4 => .firmware image
  | _ => .read

def execRedfishRequest (op : Nat) (image : List Byte) (st : PkgStart) (s : State) : Result :=
  need (op < 5 && pkgStartOk st) (s.onPkg (fun p => p.serve (redfishOf op image) st))

-- mailboxes

/-- The owner of Uzomuris mailbox i may use it, and Uzomuris; none may while it is handed over (R292). -/
def Chip.mayMbx (c : Chip) (who : Who) (i : Nat) : Bool :=
  who.uz || (c.fld (.WLD_UZMB_OWN i) F.WLD_OWN_STATE == 0 && who.world == c.fld (.WLD_UZMB_OWN i) F.WLD_OWN_OWNER)

/-- A write to UZ_MBX_CTL_i (R426). -/
def Chip.uzMbxWrite (c : Chip) (who : Who) (i : Nat) (v : Word) : Chip :=
  let r := Reg.UZ_MBX_CTL i
  c.ifMay (c.mayMbx who i) who r (fun x =>
    let n := F.UZ_MBX_CTL_LEN.get v
    let x1 := x.storeFields r v
    if F.UZ_MBX_CTL_GO.get v ≠ 1 then x1
    else if x.bit r F.UZ_MBX_CTL_BUSY || n == 0 || 248 < n then x1.setBit r F.UZ_MBX_CTL_REFUSED true
    else x1.setBit r F.UZ_MBX_CTL_BUSY true)

def execUzMbxGo (who : Who) (i : Nat) (v : Word) (s : State) : Result :=
  need (i < 16 && F.UZ_MBX_CTL_GO.get v == 1) (s.onChip (fun c => c.uzMbxWrite who i v))

/-- The bytes of a mailbox's message. -/
def Chip.mbxBytes (c : Chip) (i : Nat) : List Byte :=
  ((List.range 31).flatMap (fun j => toBytes 8 (c.reg (.UZ_MBX_DATA i j)).toNat)).take (c.fld (.UZ_MBX_CTL i) F.UZ_MBX_CTL_LEN)

/-- A mailbox request is within what its owner's world may reach (R426): only W1 resets the package, changes its power or its
firmware, or reads the life record. -/
def manageMay (world : Nat) (q : Manage) : Bool :=
  match q with
  | .reset | .powerOff | .powerOn | .firmware _ | .record _ => world == 1
  | _ => true

/-- Uzomuris answers (R426): the answer stands in the buffer, BUSY clears, event 32 + i. A reset it grants is performed by a
PACKAGE_RESET that follows, a power-off at once (R456). -/
def Pkg.mbxAnswer (p : Pkg) (i : Nat) : Pkg :=
  let c := p.chip
  if !c.uz.on || !c.bit (.UZ_MBX_CTL i) F.UZ_MBX_CTL_BUSY then p
  else
    let m := c.mbxBytes i
    let q := manageOf ((m.head?).getD 0).toNat (m.drop 1)
    let ok := manageMay (c.fld (.WLD_UZMB_OWN i) F.WLD_OWN_OWNER) q
    let c1 := c.manage (if ok then q else .read)
    let c2 := if ok && q == .reset then c1.onUz (fun u => { u with resetPending := true }) else c1
    let c3 := ((forUpTo 31 (fun j x => x.setReg (.UZ_MBX_DATA i j) (BitVec.ofNat 64 (sliceNum c2.uz.lastAnswer (8 * j) 8))) c2).setBit
      (.UZ_MBX_CTL i) F.UZ_MBX_CTL_BUSY false).raiseEvent (32 + i)
    let q : Pkg := { p with chip := c3 }
    if ok && manageOf ((m.head?).getD 0).toNat (m.drop 1) == .powerOff then q.powerOffAll else q

def execUzMbxAnswer (i : Nat) (s : State) : Result := need (i < 16) (s.onPkg (fun p => p.mbxAnswer i))

end Sys2Proof.Machine
end

