-- ==== Sys2Proof/Machine/Faults.lean ====
section
/-! DEFINITION. The fault collector (spec/13_fault_collection.md): accepting reports (R327 to R331), notices (R332), capture
(R335), containment (R333), clearing (R338), the safe state (R339 to R341) and the records of faults (R342). -/

namespace Sys2Proof.Machine

-- notices and captures

/-- A notice to world w (R332): to W1 in place of W2; ADDR reads 0 unless w is the owner world or W1. -/
def Chip.notice (c : Chip) (w : Nat) (r : Report) (sev : Nat) : Chip :=
  let w := if w = 2 then 1 else w
  let n := Reg.FC_NOTICE_INFO w
  let c1 := if c.bit n F.FC_NOTICE_INFO_VALID then c.setBit n F.FC_NOTICE_INFO_OVERRUN true else c
  (((((c1.setFld n F.FC_NOTICE_INFO_SOURCE r.source).setFld n F.FC_NOTICE_INFO_SEV sev).setFld n F.FC_NOTICE_INFO_ACC
    r.acc).setBit n F.FC_NOTICE_INFO_VALID true).setFld (.FC_NOTICE_ADDR w) F.FC_NOTICE_ADDR_ADDR
      (if w = 1 ∨ w = r.world then r.addr else 0)).raiseEvent w

/-- Notices of a CONTAIN: to the owner world and to W1, each once. -/
def Chip.noticeBoth (c : Chip) (r : Report) (sev : Nat) : Chip :=
  let c1 := c.notice r.world r sev
  if r.world = 1 ∨ r.world = 2 then c1 else c1.notice 1 r sev

/-- A capture into FIRST or ESC. -/
def Chip.fillFirst (c : Chip) (r : Report) (sev : Nat) : Chip :=
  ((c.setReg .FC_FIRST_INFO (F.FC_INFO_VALID.put (Report.info r sev) 1)).setFld .FC_FIRST_ADDR F.FC_ADDR_ADDR r.addr).setReg
    .FC_FIRST_TIME (BitVec.ofNat 64 r.time)
def Chip.fillEsc (c : Chip) (r : Report) (sev : Nat) : Chip :=
  ((c.setReg .FC_ESC_INFO (F.FC_INFO_OVERRUN.put (F.FC_INFO_VALID.put (Report.info r sev) 1)
    (c.fld .FC_ESC_INFO F.FC_INFO_OVERRUN))).setFld .FC_ESC_ADDR F.FC_ADDR_ADDR r.addr).setReg .FC_ESC_TIME
      (BitVec.ofNat 64 r.time)

/-- The capture of R335, in the order of acceptance (R336), and where the occurrence went: 1 into FIRST, 2 into ESC, 0 into neither. -/
def Chip.capture (c : Chip) (r : Report) (sev : Nat) : Chip × Nat :=
  let esc := c.bit .FC_ESC_INFO F.FC_INFO_VALID
  if !c.bit .FC_FIRST_INFO F.FC_INFO_VALID then (c.fillFirst r sev, 1)
  else if !esc && c.fld .FC_FIRST_INFO F.FC_INFO_SEV < sev then (c.fillEsc r sev, 2)
  else
    let c1 := if esc && c.fld .FC_ESC_INFO F.FC_INFO_SEV < sev then c.setBit .FC_ESC_INFO F.FC_INFO_OVERRUN true else c
    (c1.bump .FC_STATUS F.FC_STATUS_UNCAPTURED, 0)

-- containment

/-- Contain units (R326). -/
inductive ContainUnit where
  | nothing
  | requester
  | core
  | die (d : Nat)
  | set (n : Nat)
  | channel (n : Nat)
  | station (n : Nat)
  | port (n : Nat)
  | engine (c : Nat)
  | inst (i : Nat)
  | pairLink (k : Nat)
  deriving DecidableEq, Repr

/-- The contain unit of a fault of compute die d (R326): the core for a per-core array. -/
def dieUnit (d k : Nat) (r : Report) : ContainUnit :=
  if k = 0 ∨ k = 1 ∨ k = 10 then .requester
  else if k = 2 then .die d
  else if k = 3 then .core
  else if k = 11 then .nothing
  else
    let a := r.detail % 256
    if a = 1 ∨ a = 2 ∨ a = 4 ∨ a = 5 then .core else .die d

/-- The contain unit of a source (R326). -/
def containUnit (r : Report) : ContainUnit :=
  let n := r.source
  if n = 9 ∨ n = 11 ∨ n = 12 then .requester
  else if n < 64 then .nothing
  else if n < 208 then dieUnit ((n - 64) / 12) ((n - 64) % 12) r
  else if n < 400 then
    let h := (n - 208) / 12
    let k := (n - 208) % 12
    if k = 0 then .requester else if k ≤ 7 then .set h else .channel h
  else if n < 452 then
    let k := (n - 400) / 2
    if k < 24 then .die (k / 2) else .pairLink k
  else if n < 492 then
    let s := (n - 452) / 4
    match (n - 452) % 4 with
    | 2 => .port s
    | 3 => .requester
    | _ => .station s
  else if n < 500 then (if (n - 492) % 4 = 3 then .requester else .engine ((n - 492) / 4))
  else if n < 512 then .nothing
  else .inst (n - 512)

/-- A core is isolated (R333): its hart is offline, its L2 is written back, and it is powered off once what it had issued has
completed. -/
def Chip.isolateCore (c : Chip) (h : Nat) : Chip :=
  let r := coreCtl h
  if c.coreOff h || !c.dieUp (hartDie h) then c
  else
    let c1 := ((c.setBit r F.CD_CORE_CTL_OFFLINE true).onHart h Hart.stop).flushL2 h
    ((c1.setBit r F.CD_CORE_CTL_POWER_OFF true).setBit r F.CD_CORE_CTL_BUSY true).powerOffDone h

/-- A function is isolated (R333): function-level reset, and disabled until its next hand-over. -/
def Chip.isolateFn (c : Chip) (n f : Nat) : Chip :=
  if (c.fn n f).disabled then c else (c.flrStart n f).onFn n f (fun s => { s with disabled := true })

/-- An instance is contained (R333, R387): it stops until its next hand-over. -/
def Chip.isolateInst (c : Chip) (i : Nat) : Chip :=
  let k := instCluster i
  let j := if i < 1024 then i % 512 else 512 + (i - 1024) % 32
  if c.instState k j = 4 then c
  else (c.instReset k j true).setFld (.SE_INST_STATUS k j) F.SE_INST_STATUS_ERR_CAUSE 5

/-- A station is isolated: every port stops, and its functions are reset, those bound below a root port too. -/
def Chip.isolateStation (c : Chip) (n : Nat) : Chip :=
  forUpTo 256 (fun f x => if x.epFn n f || x.bit (.PORT_FN_CFG n f) F.PORT_FN_CFG_RID_VALID then x.flrStart n f else x)
    (forUpTo 4 (fun j x => if x.portFormed n j then x.stopPort n j else x) c)

/-- The engine that a report of cluster k names: the bank of its arrays (R307: one bank per engine); for an engine failure, whose
report names no engine, one in service that a free value selects. -/
def Chip.failedEngine (c : Chip) (k : Nat) (r : Report) : Nat :=
  if (r.source - 492) % 4 < 2 then r.detail / 256 % 8
  else (pick ((List.range 8).filter (fun e => c.bit (.SE_ENG_STATUS k e) F.SE_ENG_STATUS_IN_SERVICE)) c.free).getD 0

/-- An engine leaves service (R333): the work inside it is squashed and completes with STATUS 10. -/
def Chip.engineOut (c : Chip) (k e : Nat) : Chip :=
  if !c.bit (.SE_ENG_STATUS k e) F.SE_ENG_STATUS_IN_SERVICE then c
  else
    (forUpTo 544 (fun j x =>
      if (x.inst k j).inflight.any (fun f => f.engine == some e && f.outcome.isNone) then
        x.onInst k j (fun s => { s with inflight := s.inflight.map (fun f =>
          if f.engine = some e ∧ f.outcome = none then { f with outcome := some (10, 0) } else f) })
      else x) (c.setBit (.SE_ENG_STATUS k e) F.SE_ENG_STATUS_IN_SERVICE false)).noteActive k

/-- A directory entry's tag is lost (R333): every die writes back and drops each line of the set, landing copies too. -/
def Chip.dropSet (c : Chip) (n line : Nat) : Chip :=
  let off := fun (l : Nat) => c.homeHall l == n && (c.dirSetOf l).2 == (c.dirSetOf line).2
  forUpTo 12 (fun d (x : Chip) =>
    let held := x.dieLines d ++ (x.lnd.filter (fun e => e.1 % 12 == d)).map (fun e => e.1 / 12)
    (held.filter off).eraseDups.foldl (fun y l => y.dropLine d l) x) c

/-- A set is isolated (R333): the affected way leaves as R311 removes it. The report names the bank; its way is that of the location at
which the bank was last found bad. -/
def Pkg.isolateSet (p : Pkg) (n : Nat) (r : Report) : Pkg :=
  let a := r.detail % 256
  let b := r.detail / 256 % 16
  let k := bankKey a n b
  let q := if a = 0x0B ∧ (r.source - 208) % 12 = 7 then p.onChip (fun c => c.dropSet n (r.addr / 64)) else p
  match (q.chip.bank k).last with
  | none => q
  | some loc =>
    let w := loc % arrayWays a b
    if arrayWays a b = 0 ∨ (q.chip.bank k).waysOff.contains w then q
    else (q.wayDisable { array := a, inst := n, bank := b, loc := loc, bits := [], rowPar := [], colPar := [] } w).onChip (fun c =>
      c.remapRecord a n b)

/-- RETENTION_LOST of a brown-out source (R49, R50). -/
def Chip.retentionFault (c : Chip) (n : Nat) : Bool :=
  if n = 1 then sget 0 12 c.rail < 420 || c.viodFloor
  else 64 ≤ n && n < 208 && (n - 64) % 12 == 2 && c.bit (.CD_SUPPLY_STATUS ((n - 64) / 12)) F.CD_SUPPLY_STATUS_RETENTION_LOST

/-- A requester is isolated (R333): a hart as its core, a function, an instance; none of another type. -/
def Chip.isolateReq (c : Chip) (rid : Nat) : Option Chip :=
  let i := ridIndex rid
  match ridType rid with
  | 0 => if i < 288 then some (c.isolateCore i) else none
  | 2 => if i < 2560 then some (c.isolateFn (i / 256) (i % 256)) else none
  | 3 => if i < 1088 then some (c.isolateInst i) else none
  | _ => none

/-- The contain unit of a report is isolated (R333), or none where it has none. -/
def Pkg.isolate (p : Pkg) (r : Report) : Option Pkg :=
  let on := fun (c : Chip) => some { p with chip := c }
  match containUnit r with
  | .nothing => none
  | .requester => (p.chip.isolateReq r.rid).map (fun c => { p with chip := c })
  | .core => if ridType r.rid = 0 ∧ ridIndex r.rid < 288 then on (p.chip.isolateCore (ridIndex r.rid)) else none
  | .die d => on (p.chip.loseDie d (if p.chip.retentionFault r.source then 3 else 4))
  | .set n => some (p.isolateSet n r)
  | .channel n => some (p.onChip (fun c => c.channelOut n)).next
  | .station n => on (p.chip.isolateStation n)
  | .port n => on (if p.chip.portFormed n (r.detail % 16) then p.chip.stopPort n (r.detail % 16) else p.chip)
  | .engine k => on ((p.chip.engineOut k (p.chip.failedEngine k r)).nextFree)
  | .inst i => on (p.chip.isolateInst i)
  | .pairLink k => some (p.pairLinkLost k)

-- the safe state

/-- The safe state begins (R339): SAFE, event 16, and the pair is yielded (R408). -/
def Chip.enterSafe (c : Chip) : Chip :=
  if c.safe then c else ((c.setBit .FC_STATUS F.FC_STATUS_SAFE true).raiseEvent 16).pairYield

/-- The safe state ends once no source holds it (R340): what it held is released in arrival order. -/
def Chip.leaveSafe (c : Chip) : Chip :=
  if !c.safe || c.bit .FC_STATUS F.FC_STATUS_SAFE_RESET_ONLY || c.pendApplied 4 then c
  else
    (c.setBit .FC_STATUS F.FC_STATUS_SAFE false).reissue.pairAfterSafe

-- acceptance

/-- The severity a report is applied with (R331): SEV, 4 for source 0, at least CONTAIN for a retention loss (R49). -/
def Chip.severity (c : Chip) (n : Nat) : Nat :=
  if n = 0 then 4
  else if c.retentionFault n then max 3 (c.fld (.FC_SRC n) F.FC_SRC_SEV)
  else c.fld (.FC_SRC n) F.FC_SRC_SEV

/-- What the severity does (R331). -/
def Pkg.applySeverity (p : Pkg) (r : Report) (sev : Nat) : Pkg :=
  match sev with
  | 2 => p.onChip (fun c => c.notice r.world r 2)
  | 3 =>
    match p.isolate r with
    | some q => q.onChip (fun c => c.noticeBoth r 3)
    | none => p.onChip (fun c => c.notice r.world r 3)
  | 4 => p.onChip (fun c => (c.notice 1 r 4).enterSafe)
  | _ => p

/-- The occurrence is recorded (R331, R335, R342): PEND, APPLIED, the captures, and a record for each that is NOTIFY or worse or
goes into FIRST, and for every one in the safe state. -/
def Chip.noteOccurrence (c : Chip) (r : Report) (sev : Nat) : Chip :=
  let k := (((c.setFld (.FC_SRC r.source) F.FC_SRC_APPLIED sev).setBit (.FC_SRC r.source) F.FC_SRC_PEND true).capture r sev)
  if 2 ≤ sev ∨ k.2 = 1 ∨ c.safe then k.1.faultRecord r sev k.2 else k.1

/-- A source's COUNT goes up (R331), for the next hourly records (R342). -/
def Chip.countSource (c : Chip) (n k : Nat) : Chip :=
  let c1 := c.bump (.FC_SRC n) F.FC_SRC_COUNT k
  { c1 with cntNew := addOnce n c1.cntNew }

/-- The collector accepts a report (R331): counted, then handled by its severity; the safe state ends where the occurrence takes the place of
the last one that held it (R340). After an entry into the safe state through source 0 it only counts, and forwards to Uzomuris (R340). -/
def Pkg.acceptReport (p : Pkg) (r : Report) : Pkg :=
  if 1536 ≤ r.source then p
  else
    let sev := p.chip.severity r.source
    let p1 := p.onChip (fun c => c.countSource r.source (1 + r.merged))
    if p.chip.bit .FC_STATUS F.FC_STATUS_SAFE_RESET_ONLY then p1.onChip (fun c => c.faultRecord r 0 0)
    else if sev = 0 then (if p.chip.safe then p1.onChip (fun c => c.faultRecord r 0 0) else p1)
    else ((p1.onChip (fun c => c.noteOccurrence r sev)).applySeverity r sev).onChip Chip.leaveSafe

/-- FAULT_REPORT: the collector accepts the oldest report that a unit holds. -/
def Pkg.faultReport (p : Pkg) (u : Nat) : Pkg :=
  match sget [] u p.chip.fcHold with
  | [] => p
  | r :: rest => (p.onChip (fun c => { c with fcHold := sset [] u rest c.fcHold })).acceptReport r

/-- The reporting units (R329). -/
def unitOk (u : Nat) : Bool :=
  u < 12 || (16 ≤ u && u < 32) || (32 ≤ u && u < 80) || (96 ≤ u && u < 148) || (160 ≤ u && u < 170) || (170 ≤ u && u < 179) || u == 180

def execFaultReport (u : Nat) (s : State) : Result := need (unitOk u) (s.onPkg (fun p => p.faultReport u))

/-- The requester ID of a reporting unit (R18, R328). -/
def unitRid (u : Nat) : Nat :=
  if u < 12 then 0x1000 + 16 * u + 2
  else if u < 32 then 0x4000 + (u - 16)
  else if u < 80 then 0x7000 + (u - 32)
  else if u < 160 then linkRid ((u - 96) / 2)
  else if u < 170 then 0x2000 + 256 * (u - 160)
  else if u < 172 then 0x3000 + 512 * (u - 170)
  else if u < 180 then 0x7000 + 64 + (u - 172)
  else 0x5000

/-- Reports lost to a full hold are reported as source 15, with their count in ADDR, once room returns (R329). -/
def Chip.reportOverflow (c : Chip) (u : Nat) : Chip :=
  let n := sget 0 u c.fcLost
  let held := sget [] u c.fcHold
  if n = 0 ∨ 16 ≤ held.length ∨ held.any (fun r => r.source == 15) then c
  else ({ c with fcLost := sset 0 u 0 c.fcLost } : Chip).report u 15 (unitRid u) 1 15 0 n

def execReportOverflow (u : Nat) (s : State) : Result := need (unitOk u) (s.onChip (fun c => c.reportOverflow u))

-- clearing

/-- PEND of a source is written 1 (R338): it clears, or, while the condition of a level source holds, stays set and the attempt
is recorded. The state that only a package reset ends keeps every PEND, and with it the pins (R340). -/
def Chip.clearPend (c : Chip) (n : Nat) : Chip :=
  if !c.bit (.FC_SRC n) F.FC_SRC_PEND || c.bit .FC_STATUS F.FC_STATUS_SAFE_RESET_ONLY then c
  else if levelSource n && c.bit (.FC_SRC n) F.FC_SRC_CAUSE then
    (c.setBit .FC_STATUS F.FC_STATUS_CLEAR_FAIL true).setFld .FC_STATUS F.FC_STATUS_CLEAR_FAIL_SRC n
  else (c.setBit (.FC_SRC n) F.FC_SRC_PEND false).leaveSafe

/-- A write to FC_SRC_n (R334): SEV 0 to 4, fixed for source 0, and PEND. -/
def Chip.fcSrcWrite (c : Chip) (n : Nat) (v : Word) : Chip :=
  let sev := F.FC_SRC_SEV.get v
  let c1 := if n = 0 ∨ 4 < sev then c else c.setFld (.FC_SRC n) F.FC_SRC_SEV sev
  if F.FC_SRC_PEND.get v = 1 then c1.clearPend n else c1

/-- A source of the collector. -/
def sourceOk (n : Nat) : Bool := n < 1536

def execFcSrcWrite (who : Who) (n : Nat) (v : Word) (s : State) : Result :=
  need (sourceOk n) (s.onChip (fun c => c.ifMay who.sealed who (.FC_SRC n) (fun x => x.fcSrcWrite n v)))
def execPendClear (who : Who) (n : Nat) (s : State) : Result :=
  need (sourceOk n) (s.onChip (fun c => c.ifMay who.sealed who (.FC_SRC n) (fun x => x.clearPend n)))

/-- The condition of a level source as the state shows it (R326). Nothing shows the end of sources 0 and 14 before a package
reset. -/
def Chip.condHolds (c : Chip) (n : Nat) : Bool :=
  let mv := sget 0 (n + 11) c.rail
  if n = 0 ∨ n = 14 then true
  else if n = 1 then mv < 500
  else if n ≤ 4 then mv < railLow (n + 11) || railHigh (n + 11) < mv
  else if n = 5 then c.bit .PKG_TIME_STATUS F.PKG_TIME_STATUS_HOLDOVER
  else if n = 6 then c.pmbusMiss.any (fun e => 3 ≤ e.2)
  else if n = 33 then (c.pairState == 2 || c.pairState == 5) && c.bit .PAIR_STATUS F.PAIR_STATUS_HEARD
    && !c.bit .PAIR_STATUS F.PAIR_STATUS_ALIVE
  else if n = 34 then c.pairState == 6
  else if n = 37 then (List.range 16).any (fun i => c.bit (.PAIR_REGION_STATUS i) F.PAIR_REGION_STATUS_LAGGING)
  else if n = 38 then c.pairState == 7
  else if n = 39 then c.pair.partnerDigest.any (fun d => d != c.pair.ownDigest)
  else if n = 56 then !c.pins.thermtripN
  else if n < 208 then
    let r := Reg.CD_SUPPLY_STATUS ((n - 64) / 12)
    c.bit r F.CD_SUPPLY_STATUS_BROWNOUT || c.bit r F.CD_SUPPLY_STATUS_RETENTION_LOST
  else if n < 400 then (c.hall ((n - 208) / 12)).trainBad || 105 ≤ (c.hall ((n - 208) / 12)).dimmC
  else c.linkState ((n - 400) / 2) == 3

/-- The condition of a level source ends (R338): CAUSE clears, and PEND stays. -/
def execFaultConditionEnd (n : Nat) (s : State) : Result :=
  need (sourceOk n) (s.onChip (fun c => if levelSource n && !c.condHolds n then c.setCause n false else c))

/-- The requester IDs of the I/O die's units (R18), numbered: indices 0 to 49 and 64 to 70 of type 7. -/
def ioUnitRid (k : Nat) : Nat := 0x7000 + (if k % 57 < 50 then k % 57 else k % 57 + 14)

/-- A parity error in the collector (R341, R340): source 0 is raised directly; SAFE_RESET_ONLY sets, and Uzomuris will reset the
package. R18 gives the collector no requester ID of its own: which unit's of the I/O die the report records is a free value. -/
def Pkg.collectorParity (p : Pkg) : Pkg :=
  let r : Report := { source := 0, rid := ioUnitRid (Config.freeNat p.chip.free), world := 1, acc := 15, detail := 0, addr := 0,
                      time := p.chip.now }
  ((p.onChip (fun c => c.nextFree.setCause 0 true)).acceptReport r).onChip (fun c =>
    (c.setBit .FC_STATUS F.FC_STATUS_SAFE_RESET_ONLY true).onUz (fun u => { u with resetPending := true }))

def execCollectorParityError (s : State) : Result := s.onPkg Pkg.collectorParity

/-- The report that the first 32 bytes of a write into the report window spell (R327). -/
def reportOf (v : Line) : Report :=
  let w := BitVec.ofNat 64 (Line.slice v 0 8)
  { source := F.FC_INFO_SOURCE.get w, rid := F.FC_INFO_REQ_ID.get w, world := F.FC_INFO_WORLD.get w, acc := F.FC_INFO_ACC.get w,
    detail := F.FC_INFO_DETAIL.get w, addr := Line.slice v 8 8 % 2 ^ 52, time := Line.slice v 16 8, merged := Line.slice v 24 4 }

/-- A requester whose writes the report window takes (R327): the three agents of a die, halls, stations, engine clusters, Uzomuris, and the
I/O die units of type 7, under the requester IDs that R18 and R328 give. -/
def mayReport (rid : Nat) : Bool :=
  let i := ridIndex rid
  match ridType rid with
  | 1 => i / 16 < 12 && i % 16 < 3
  | 2 => i / 256 < 10 && i % 256 == 0
  | 3 => i == 0 || i == 512
  | 4 => i < 16
  | 5 => i == 0
  | 7 => i < 50 || (64 ≤ i && i < 71)
  | _ => false

end Sys2Proof.Machine
end

