-- ==== Sys2Proof/Machine/Handover.lean ====
section
/-! DEFINITION. Hand-over of assignable blocks (R290 to R293) and power requests (R294 to R297). -/

namespace Sys2Proof.Machine

-- assignable blocks

/-- The ownership entry of a block (R290). -/
def ownReg : Blk → Reg
  | .fn i => .WLD_FN_OWN i
  | .inst i => .WLD_INST_OWN i
  | .mbx i => .WLD_MBX_OWN i
  | .src i => .WLD_SRC_OWN i
  | .uzmb i => .WLD_UZMB_OWN i

/-- A block the package has. -/
def blkOk : Blk → Bool
  | .fn i => i < 2560
  | .inst i => i < 1024
  | .mbx i => i < 64
  | .src i => i < 2048
  | .uzmb i => i < 16

/-- The slot of an engine or mailbox instance. -/
def blkSlot : Blk → Option (Nat × Nat)
  | .inst i => some (i / 512, i % 512)
  | .mbx i => some (i / 32, 512 + i % 32)
  | _ => none

/-- RESULT of an ownership entry. -/
def Chip.ownResult (c : Chip) (b : Blk) (n : Nat) : Chip := c.setFld (ownReg b) F.WLD_OWN_RESULT n

/-- An event source is cleared (R293, R79, R81). -/
def Chip.clearSource (c : Chip) (n : Nat) : Chip :=
  let c1 := c.resetReg (.EVR_SRC n)
  if 608 ≤ n ∧ n < 672 then c1.resetReg (.EVR_TIMER (n - 608)) else c1

/-- The message and doorbell of a Uzomuris mailbox are discarded (R293). -/
def Chip.clearMbx (c : Chip) (i : Nat) : Chip :=
  forUpTo 31 (fun j x => x.resetReg (.UZ_MBX_DATA i j)) (c.resetReg (.UZ_MBX_CTL i))

/-- The interrupts of a slot that have not been sent are discarded (R293): its event, and the completion vector that waits in its
function. -/
def Chip.dropPending (c : Chip) (k j : Nat) : Chip :=
  let c1 := c.setBit (.EVR_SRC (instEvent k j)) F.EVR_SRC_PENDING false
  match c1.bound k j with
  | some (n, f) => c1.onFn n f (fun s => { s with msix := s.msix.filter (· != c1.fld (.SE_INST_CFG k j) F.SE_INST_CFG_VEC) })
  | none => c1

/-- The quiesce and reset of a block begin (R293). -/
def Chip.startQuiesceBlk (c : Chip) : Blk → Chip
  | .fn i => c.flrStart (i / 256) (i % 256)
  | .inst i => (c.dropPending (i / 512) (i % 512)).instReset (i / 512) (i % 512) false
  | .mbx i => (c.dropPending (i / 32) (512 + i % 32)).instReset (i / 32) (512 + i % 32) false
  | .src i => c.clearSource i
  | .uzmb i => c.clearMbx i

/-- A RELEASE is refused (R291): SCRUB_INST, or a slot of a cluster that is powered down. -/
def Chip.releaseBad (c : Chip) (b : Blk) : Bool :=
  (match b with
    | .inst i => i == c.fld .WLD_CTL F.WLD_CTL_SCRUB_INST
    | _ => false)
    || (match blkSlot b with
      | some s => c.clusterDown s.1
      | none => false)

/-- RELEASE (R291). -/
def Chip.handOff (c : Chip) (who : Who) (b : Blk) (dst : Nat) : Chip :=
  let r := ownReg b
  if !(who.sealed || who.world == c.fld r F.WLD_OWN_OWNER) then c.violate who 3 r.offset
  else if c.fld r F.WLD_OWN_STATE = 1 then c.ownResult b 4
  else if c.fld r F.WLD_OWN_STATE ≠ 0 then c.ownResult b 3
  else if c.releaseBad b then c.ownResult b 2
  else (((c.setFld r F.WLD_OWN_NEXT dst).setFld r F.WLD_OWN_STATE 1).ownResult b 0).startQuiesceBlk b

/-- Nothing of a releasing block is left (R293): its reset is complete and its MSIs are written or dropped. -/
def Chip.blkQuiet (c : Chip) (b : Blk) : Bool :=
  match b with
  | .fn i => !c.bit (.PORT_FN_CFG (i / 256) (i % 256)) F.PORT_FN_CFG_FLR_BUSY
  | .src i => !c.msi.any (fun e => e.1 == i)
  | .uzmb _ => true
  | .inst _ | .mbx _ =>
    match blkSlot b with
    | some (k, j) => (c.instState k j == 0 || c.instState k j == 4) && (c.inst k j).resetAt.isNone
        && !c.msi.any (fun e => e.1 == instEvent k j)
    | none => true

/-- Every SE_INST register of a slot returns to its reset value (R373). -/
def Chip.clearSlot (c : Chip) (k j : Nat) : Chip :=
  [Reg.SE_INST_CFG k j, .SE_INST_DRING k j, .SE_INST_CRING k j, .SE_INST_DLV k j, .SE_INST_SHARE k j, .SE_INST_CTL k j,
    .SE_INST_STATUS k j].foldl (fun (x : Chip) r => x.resetReg r) c

/-- The release completes: STATE 2 (R293). -/
def Chip.handOffDone (c : Chip) (b : Blk) : Chip :=
  let r := ownReg b
  if c.fld r F.WLD_OWN_STATE = 1 ∧ c.blkQuiet b then
    let c1 := (c.setFld r F.WLD_OWN_STATE 2).ownResult b 1
    match blkSlot b with
    | some (k, j) => c1.clearSlot k j
    | none => c1
  else c

/-- What a CLAIM does to the block (R333, R375): a function is enabled again, and where its owner changes, the instances bound to
it are reset and unbound. -/
def Chip.afterClaim (c : Chip) (b : Blk) (changed : Bool) : Chip :=
  match b with
  | .fn i =>
    let c1 := c.onFn (i / 256) (i % 256) (fun s => { s with disabled := false })
    if changed then
      (c1.boundTo (i / 256) (i % 256)).foldl (fun (x : Chip) s =>
        (x.instReset s.1 s.2 false).setBit (.SE_INST_CFG s.1 s.2) F.SE_INST_CFG_BIND_VALID false) c1
    else c1
  | _ => c

/-- CLAIM (R291). -/
def Chip.takeOn (c : Chip) (who : Who) (b : Blk) : Chip :=
  let r := ownReg b
  let next := c.fld r F.WLD_OWN_NEXT
  if !(who.uz || who.world == next) then c.violate who 3 r.offset
  else if c.fld r F.WLD_OWN_STATE = 1 then c.ownResult b 4
  else if c.fld r F.WLD_OWN_STATE ≠ 2 then c.ownResult b 3
  else (((c.setFld r F.WLD_OWN_OWNER next).setFld r F.WLD_OWN_STATE 0).ownResult b 1).afterClaim b
    (c.fld r F.WLD_OWN_OWNER != next)

def execRelease (who : Who) (b : Blk) (dst : Nat) (s : State) : Result :=
  need (blkOk b && dst < 16) (s.onChip (fun c => c.handOff who b dst))
def execReleaseDone (b : Blk) (s : State) : Result := need (blkOk b) (s.onChip (fun c => c.handOffDone b))
def execClaim (who : Who) (b : Blk) (s : State) : Result := need (blkOk b) (s.onChip (fun c => c.takeOn who b))

/-- A write to an ownership entry (R290): OWNER, from W1 and Uzomuris until the WLD commit is accepted (R279), and the command. -/
def Chip.ownWrite (c : Chip) (who : Who) (b : Blk) (v : Word) : Chip :=
  let r := ownReg b
  let c1 := if who.sealed && !c.wldCommitted && !c.bit .WLD_CTL F.WLD_CTL_FORMAT_BUSY then c.setFld r F.WLD_OWN_OWNER (F.WLD_OWN_OWNER.get v) else c
  match F.WLD_OWN_OP.get v with
  | 1 => c1.handOff who b (F.WLD_OWN_TO.get v)
  | 2 => c1.takeOn who b
  | _ => if who.sealed then c1 else c1.refuseWrite who r

-- power requests

/-- The attachment of a unit that power requests name (R294). -/
def powerUnit (kind index : Nat) : Attach :=
  match kind with
  | 1 => .station index
  | 2 => .cluster index
  | _ => .hall index

/-- A unit of a kind (R294): P_0 to P_9, SE_0 and SE_1, H_0 to H_15. -/
def powerIndexOk (kind index : Nat) : Bool :=
  match kind with
  | 1 => index < 10
  | 2 => index < 2
  | _ => index < 16

/-- The state of a unit's port, and its fence. -/
def Chip.unitFenced (c : Chip) (a : Attach) : Bool :=
  match portOf a with
  | some p => 2 ≤ c.portState p.1 p.2
  | none => true
def Chip.unitFence (c : Chip) (a : Attach) : Chip :=
  match portOf a with
  | some p => if c.portState p.1 p.2 = 0 then c.beginFence p.1 p.2 else c
  | none => c

/-- A POT operation runs: a power request waits for it (R297). -/
def Chip.potRuns (c : Chip) : Bool := c.pot.any (fun o => o.started)

/-- RESULT, MISSING and WORLD of a power request. -/
def Chip.pwrResult (c : Chip) (who : Who) (result missing : Nat) : Chip :=
  ((c.setFld .WLD_PWR_STATUS F.WLD_PWR_STATUS_RESULT result).setFld .WLD_PWR_STATUS F.WLD_PWR_STATUS_MISSING missing).setFld
    .WLD_PWR_STATUS F.WLD_PWR_STATUS_WORLD who.world

/-- A power-down request (R295 to R297). -/
def Chip.powerDown (c : Chip) (who : Who) (kind index : Nat) : Chip :=
  if c.bit .WLD_PWR_STATUS F.WLD_PWR_STATUS_BUSY then c.setFld .WLD_PWR_STATUS F.WLD_PWR_STATUS_RESULT 4
  else if !powerIndexOk kind index then c.pwrResult who 3 0
  else
    let m := c.powerMissing who kind index
    if m ≠ [] then
      let c1 := c.pwrResult who 2 (m.foldl (fun a w => a + 2 ^ w) 0)
      c1.violate who 2 (Reg.WLD_PWR_REQ).offset
    else if kind = 3 ∧ (c.hallHasPot index ∨ c.hallInUse index) then c.pwrResult who 2 0
    else
      let c1 := ({ c with pwrReq := some (kind, index) } : Chip).pwrResult who 0 0 |>.setBit .WLD_PWR_STATUS
        F.WLD_PWR_STATUS_BUSY true
      if c.potRuns then c1 else c1.unitFence (powerUnit kind index)

/-- Every world's consent for a unit is cleared (R297). -/
def Chip.clearConsent (c : Chip) (kind index : Nat) : Chip :=
  let f := if kind = 2 then F.WLD_CONSENT_CLUSTERS else F.WLD_CONSENT_HALLS
  if kind = 1 then c
  else forUpTo 16 (fun w x => x.setFld (.WLD_CONSENT w) f (withBit (x.fld (.WLD_CONSENT w) f) index false)) c

/-- A unit has power again, and takes requests (R297). -/
def Chip.powerRestore (c : Chip) (kind index : Nat) : Chip :=
  let up := fun (x : Chip) => match portOf (powerUnit kind index) with
    | some p => if x.portState p.1 p.2 = 2 then x.openPort p.1 p.2 else x
    | none => x
  let c1 := ({ c with down := c.down.filter (fun u => u != (kind, index)) } : Chip).clearConsent kind index
  if c.down.contains (kind, index) then up c1 else c1

/-- The request that ran is done. -/
def Chip.powerEnd (c : Chip) : Chip :=
  (({ c with pwrReq := none } : Chip).setBit .WLD_PWR_STATUS F.WLD_PWR_STATUS_BUSY false).setFld .WLD_PWR_STATUS
    F.WLD_PWR_STATUS_RESULT 1

/-- A power request goes on (R297), once no POT operation runs: a power-down completes when its fence has, and power is removed, or begins its
fence; a power-up, kept as its kind plus 3, takes effect. -/
def Chip.powerDownEnd (c : Chip) : Chip :=
  match c.pwrReq with
  | none => c
  | some (kind, index) =>
    if c.potRuns then c
    else if 3 < kind then (c.powerRestore (kind - 3) index).powerEnd
    else if c.unitFenced (powerUnit kind index) then
      ({ c with down := if c.down.contains (kind, index) then c.down else c.down ++ [(kind, index)] } : Chip).powerEnd
    else c.unitFence (powerUnit kind index)

/-- A power-up request, honoured from every world (R297): it waits for a POT operation that runs. -/
def Chip.powerUp (c : Chip) (who : Who) (kind index : Nat) : Chip :=
  if c.bit .WLD_PWR_STATUS F.WLD_PWR_STATUS_BUSY then c.setFld .WLD_PWR_STATUS F.WLD_PWR_STATUS_RESULT 4
  else if !powerIndexOk kind index then c.pwrResult who 3 0
  else if c.potRuns then
    (({ c with pwrReq := some (kind + 3, index) } : Chip).pwrResult who 0 0).setBit .WLD_PWR_STATUS F.WLD_PWR_STATUS_BUSY true
  else (c.powerRestore kind index).pwrResult who 1 0

/-- A kind and an index as WLD_PWR_REQ holds them; KIND 0 is ignored. -/
def pwrOk (kind index : Nat) : Bool := 1 ≤ kind && kind ≤ 3 && index < 16

def execPowerDownRequest (who : Who) (kind index : Nat) (s : State) : Result :=
  need (pwrOk kind index) (s.onChip (fun c => c.powerDown who kind index))
def execPowerUpRequest (who : Who) (kind index : Nat) (s : State) : Result :=
  need (pwrOk kind index) (s.onChip (fun c => c.powerUp who kind index))
def execPowerDownDone (s : State) : Result := s.onChip Chip.powerDownEnd

/-- A write to WLD_PWR_REQ. -/
def Chip.pwrReqWrite (c : Chip) (who : Who) (v : Word) : Chip :=
  let kind := F.WLD_PWR_REQ_KIND.get v
  if kind = 0 then c
  else match F.WLD_PWR_REQ_ACTION.get v with
    | 1 => c.powerDown who kind (F.WLD_PWR_REQ_INDEX.get v)
    | 2 => c.powerUp who kind (F.WLD_PWR_REQ_INDEX.get v)
    | _ => c

end Sys2Proof.Machine
end

