-- ==== Sys2Proof/Machine/Mailbox.lean ====
section
/-! DEFINITION. Mailbox instances (R390, R391): delivery to the hart group, and the return of a delivered descriptor. -/

namespace Sys2Proof.Machine

/-- The descriptor in flight with ring index j. -/
def Chip.flightAt (x : Chip) (c k j : Nat) : Option Flight := (x.inst c k).inflight.find? (fun f => f.j == j)

/-- Change the descriptor in flight with ring index j. -/
def Chip.onFlight (x : Chip) (c k j : Nat) (g : Flight → Flight) : Chip :=
  x.onInst c k (fun s => { s with inflight := s.inflight.map (fun f => if f.j = j then g f else f) })

/-- An instance issues requests: it is neither RELEASING nor RELEASED (R292), its cluster has power and its port is open (R215, R297), and
nothing holds writes (R339, R458). -/
def Chip.instOpen (x : Chip) (c k : Nat) : Bool :=
  x.fld (instOwn c k) F.WLD_OWN_STATE == 0 && !x.still && x.domainOpen (.cluster c) && !x.clusterDown c

/-- An instance's requests may leave now: its class has tokens, too (R264). -/
def Chip.instGo (x : Chip) (c k : Nat) : Bool := x.instOpen c k && x.ioMayGo (instRid c k) (x.instLabel c k)

/-- A request of an instance that has to wait for tokens makes its port active (R266). -/
def Chip.instShort (x : Chip) (c k : Nat) : Chip :=
  if x.instOpen c k then x.noteShort (instRid c k) (x.instLabel c k) else x

/-- The address of delivery entry j. -/
def Chip.dlvAddr (x : Chip) (c k j : Nat) : Nat := x.fld (.SE_INST_DLV c k) F.SE_INST_DLV_BASE * 4096 + 64 * j

/-- The oldest descriptor is copied into its delivery entry: the index advances and the event is raised (R390); a refused write is
a ring error (R388). -/
def Pkg.deliver (p : Pkg) (c k : Nat) : Pkg :=
  match (p.chip.inst c k).inflight.find? (fun f => !f.delivered) with
  | none => p
  | some f =>
    let a := p.chip.dlvAddr c k f.j
    if !isMbx k || p.chip.instState c k != 1 then p
    else if 2 ^ 52 ≤ a then p.onChip (fun x => x.ringError c k 4)
    else if !p.chip.rangeIdle a 64 then p
    else if !p.chip.instGo c k then p.onChip (fun x => x.instShort c k)
    else
      let w := p.writeBytes (instRid c k) (p.chip.instOwner c k) (p.chip.instLabel c k) a f.desc false
      if w.2 ≠ 0 then w.1.onChip (fun x => x.ringError c k 4)
      else w.1.onChip (fun x => ((x.onFlight c k f.j (fun g => { g with delivered := true })).setFld (.SE_DB_DLV_TAIL c k)
        F.SE_DB_TAIL_INDEX ((f.j + 1) % x.ringSize c k)).raiseEvent (instEvent c k))

def execMailboxDelivery (c k : Nat) (s : State) : Result :=
  need (c < 2 && 512 ≤ k && k < 544) (s.onPkg (fun p => p.deliver c k))

/-- A RETURN (R391): the mailbox reads bytes 0 to 15 of the delivery entry, USER, STATUS and RESULT at their places in a
completion; an index that is not in flight sets REFUSED. -/
def Pkg.dbReturn (p : Pkg) (who : Who) (c k : Nat) (v : Word) : Pkg :=
  if !isMbx k then p
  else if !p.chip.mayInst who c k then p.onChip (fun x => x.byInst who c k (.SE_DB_RETURN c k) id)
  else if !p.chip.throughBar who c k then p
  else
    let j := F.SE_DB_TAIL_INDEX.get v
    match p.chip.flightAt c k j with
    | none => p.onChip (fun x => x.instRefuse c k)
    | some f =>
      if !f.delivered || f.outcome.isSome then p.onChip (fun x => x.instRefuse c k)
      else
        let a := p.chip.dlvAddr c k j % 2 ^ 52
        let q := p.readBytes (instRid c k) (p.chip.instOwner c k) (p.chip.instLabel c k) a 16
        let r := if q.2.2.2 then (q.1.onChip (fun x => x.instPoison c k 0 a), q.2) else q
        let l := r.2.1
        let out : Nat × Word :=
          if r.2.2.1 ≠ 0 then (2, 0) else if r.2.2.2 then (3, 0) else (sliceNum l 6 1, BitVec.ofNat 64 (sliceNum l 8 8))
        let user := if r.2.2.1 ≠ 0 ∨ r.2.2.2 then (f.desc.drop 4).take 4 else l.take 4
        r.1.onChip (fun x => x.onFlight c k j (fun g =>
          { g with outcome := some out, desc := g.desc.take 4 ++ user ++ g.desc.drop 8 }))

def execSeDbReturn (who : Who) (c k : Nat) (v : Word) (s : State) : Result :=
  need (c < 2 && 512 ≤ k && k < 544) (s.onPkg (fun p => p.dbReturn who c k v))

end Sys2Proof.Machine
end

