-- ==== Sys2Proof/Machine/RegAccess.lean ====
section
/-! DEFINITION. Accesses to register space and to the PCIe window region (spec/18_register_space.md): what each register reads as,
the effect of each register's write, and IO_RD and IO_WR (R205, R213, R433 to R438, R461, R462). -/

namespace Sys2Proof.Machine

-- who may

/-- The assignable block a register belongs to (R290, R292). -/
def Reg.blk : Reg → Option Blk
  | .PORT_FN_CFG n f | .PORT_FN_WIN n f => some (.fn (256 * n + f))
  | .EVR_SRC n => some (.src n)
  | .EVR_TIMER n => some (.src (608 + n))
  | .UZ_MBX_CTL i | .UZ_MBX_DATA i _ => some (.uzmb i)
  | .SE_INST_CFG c k | .SE_INST_DRING c k | .SE_INST_CRING c k | .SE_INST_DLV c k | .SE_INST_SHARE c k | .SE_INST_CTL c k
  | .SE_INST_STATUS c k | .SE_DB_TAIL c k | .SE_DB_CPL_HEAD c k | .SE_DB_STATUS c k | .SE_DB_RETURN c k | .SE_DB_DLV_TAIL c k =>
    some (if k < 512 then .inst (512 * c + k) else .mbx (32 * c + (k - 512)))
  | _ => none

/-- A register refuses an access with CHECK 5: its block is handed over (R292), or is an instance of another world (R373). -/
def Chip.blockRefuses (c : Chip) (who : Who) (r : Reg) : Bool :=
  match r.blk with
  | none => false
  | some b =>
    let other := match b with
      | .inst _ | .mbx _ => who.world != c.fld (ownReg b) F.WLD_OWN_OWNER
      | _ => false
    !who.uz && (c.fld (ownReg b) F.WLD_OWN_STATE != 0 || other)

/-- A write that an assignable block refuses: of an instance of another world it is a world violation (R303); one that is handed over
refuses every access (R292). -/
def Chip.blockWrong (c : Chip) (who : Who) (r : Reg) : Chip :=
  match r.blk with
  | some b => if c.fld (ownReg b) F.WLD_OWN_STATE = 0 then c.refuseWrite who r else c
  | none => c

/-- The block of an offset has power (R213): a die that is not off, a unit that is not powered down. -/
def Chip.blockPowered (c : Chip) (off : Nat) : Bool :=
  if 0x2000000 ≤ off ∧ off < 0x3000000 then !c.down.contains (3, (off - 0x2000000) / 0x100000)
  else if 0x4000000 ≤ off ∧ off < 0x5000000 then !c.down.contains (1, (off - 0x4000000) / 0x100000)
  else if 0x5000000 ≤ off ∧ off < 0x7000000 then !c.down.contains (2, (off - 0x5000000) / 0x1000000)
  else if 0x10000000 ≤ off ∧ off < 0x1C000000 then c.dieState ((off - 0x10000000) / 0x1000000) != 0
  else true

-- reading

/-- ARR_STATUS of the bank that an ARR_SEL selects (R324). -/
def Chip.selStatus (c : Chip) (sel : Reg) (inst : Nat → Nat → Option Nat) : Word :=
  let a := c.fld sel F.CD_ARR_SEL_ARRAY
  let b := c.fld sel F.CD_ARR_SEL_BANK
  match inst a (c.fld sel F.CD_ARR_SEL_UNIT) with
  | some i => c.arrStatus (bankOk a i b) a i b
  | none => 0

/-- The instance of an array in a compute die's block, and in a hall's. -/
def cdArray (d a u : Nat) : Option Nat :=
  if a = 1 ∨ a = 2 ∨ a = 4 ∨ a = 5 then (if u < 24 then some (24 * d + u) else none)
  else if 6 ≤ a ∧ a ≤ 8 then some d else none
def hallArray (n a : Nat) : Option Nat := if 9 ≤ a ∧ a ≤ 0x0C then some n else none

/-- The lines of a hall whose directory entry is in broadcast mode. -/
def Chip.bcastEntries (c : Chip) (n : Nat) : Nat :=
  (c.dir.filter (fun e => e.2.bcast && e.2.state != 0 && c.homeHall e.1 == n)).length

/-- What a register reads as: computed fields over what it stores. -/
def Chip.readView (c : Chip) (r : Reg) : Word :=
  let w := c.reg r
  match r with
  | .PKG_TIME => BitVec.ofNat 64 c.now
  | .PKG_SERIAL => BitVec.ofNat 64 Config.pkgSerial
  | .EVR_SRC n => c.srcEntry n
  | .FC_PEND_SUM k => BitVec.ofNat 64 (c.pendSum k)
  | .FC_REPORT _ => 0
  | .SE_DB_STATUS k j => c.reg (.SE_INST_STATUS k j)
  | .SE_DB_RETURN _ _ => 0
  | .CD_ARR_STATUS d => c.selStatus (.CD_ARR_SEL d) (cdArray d)
  | .HALL_ARR_STATUS n => c.selStatus (.HALL_ARR_SEL n) (fun a _ => hallArray n a)
  | .JL_ARR_STATUS k => c.selStatus (.JL_ARR_SEL k) (fun a _ => if a = 0x0D then some k else none)
  | .PORT_ARR_STATUS n => c.selStatus (.PORT_ARR_SEL n) (fun a _ => if a = 0x0E then some n else none)
  | .SE_ARR_STATUS k => c.selStatus (.SE_ARR_SEL k) (fun a _ => if a = 0x0E then some (10 + k) else none)
  | .UZ_ARR_STATUS => c.selStatus .UZ_ARR_SEL (fun a _ => if a = 0x0E then some 12 else none)
  | .HALL_DIR_STATUS n => F.HALL_DIR_STATUS_BCAST_ENTRIES.put w (c.bcastEntries n)
  | .WLD_WORLD_CFG i => F.WLD_WORLD_CFG_NINV_EFF.put (F.WLD_WORLD_CFG_INV_EFF.put w (flag (c.invEff i))) (flag (c.ninvEff i))
  | .WLD_DBG_FUSE => BitVec.ofNat 64 fuseWord
  | .PAIR_STATUS => F.PAIR_STATUS_LINKS.put w (flag (c.linkState 24 == 2) + 2 * flag (c.linkState 25 == 2))
  | .PAIR_RESYNC_STATUS => F.PAIR_RESYNC_STATUS_PAGES_LEFT.put w c.pagesLeft
  | .PAIR_REGION_STATUS n => F.PAIR_REGION_STATUS_LAG_US.put w (min (c.lagUs n) (2 ^ F.PAIR_REGION_STATUS_LAG_US.width - 1))
  | .CD_CORE_CTL d i =>
    F.CD_CORE_CTL_OFFLINE.put w (flag (c.bit r F.CD_CORE_CTL_OFFLINE || c.corePhys (24 * d + i) == 31 || c.dieState d == 5))
  | _ => w

/-- The world of a request may read a register: the collector's and Uzomuris's registers read zero for the others (R303). -/
def Chip.mayRead (c : Chip) (who : Who) (r : Reg) : Bool :=
  match r with
  | .FC_NOTICE_INFO w | .FC_NOTICE_ADDR w => who.sealed || who.world == w
  | .FC_STATUS | .FC_FIRST_INFO | .FC_FIRST_ADDR | .FC_FIRST_TIME | .FC_ESC_INFO | .FC_ESC_ADDR | .FC_ESC_TIME | .FC_PEND_SUM _
  | .FC_REPORT _ | .FC_SRC _ => who.sealed
  | .UZ_STATUS | .UZ_CTL | .UZ_THERM_CFG | .UZ_LR_STATUS | .UZ_LR_READ | .UZ_LR_DATA _ | .UZ_ARR_SEL | .UZ_ARR_STATUS => who.sealed
  | .UZ_MBX_CTL i | .UZ_MBX_DATA i _ => c.mayMbx who i
  | _ => true

/-- A read of a register by a requester. -/
def Chip.regRead (c : Chip) (who : Who) (r : Reg) : Word := if c.mayRead who r then c.readView r else 0

-- writing

/-- RESET of a die through its register: the outcome of training is not the write's to give; both links train and the die sends
the IDENT it sent last (another outcome is the operand of DIE_RESET). -/
def Chip.lastStart (c : Chip) (d : Nat) : DieStart :=
  let i := (c.die d).ident
  { trainA := true, trainB := true, identA := { i with link := 0 }, identB := { i with link := 1 } }

/-- A write to PKG_DIE_CTL_n (R242). -/
def Chip.dieCtlWrite (c : Chip) (who : Who) (d : Nat) (v : Word) : Chip :=
  match F.PKG_DIE_CTL_CMD.get v with
  | 1 => c.dieCmd who d [2] (fun x => x.startQuiesce d)
  | 2 => c.dieCmd who d [0, 4, 5, 6] (fun x => x.startDie d (c.lastStart d))
  | 3 => c.dieCmd who d [4, 5, 6] (fun x => x.dieOff d)
  | _ => c.ifMay who.sealed who (.PKG_DIE_CTL d) id

/-- A write to CD_CORE_CTL_i (R76, R83, R84). -/
def Chip.coreCtlWrite (c : Chip) (who : Who) (h : Nat) (v : Word) : Chip :=
  let r := coreCtl h
  c.ifMay who.sealed who r (fun x =>
    let off := F.CD_CORE_CTL_POWER_OFF.get v == 1
    let x1 := x.writeMsip h (F.CD_CORE_CTL_MSIP.get v == 1)
    let x2 := if off == x1.bit r F.CD_CORE_CTL_POWER_OFF then x1 else if off then x1.powerOff h else x1.powerOn h
    if F.CD_CORE_CTL_RESET.get v = 1 then x2.startReset h else x2)

/-- A write to a register of the fault collector. -/
def Chip.fcWrite (c : Chip) (who : Who) (r : Reg) (v : Word) : Chip :=
  match r with
  | .FC_REPORT _ => if mayReport who.rid then c else c.refuseWrite who r
  | .FC_SRC n => c.ifMay who.sealed who r (fun x => x.fcSrcWrite n v)
  | _ => c.ifMay (c.mayRead who r) who r (fun x => x.storeFields r v)

/-- A write to a register of Uzomuris (R303): PKG_RESET asks Uzomuris for a package reset. -/
def Chip.uzWrite (c : Chip) (who : Who) (r : Reg) (v : Word) : Chip :=
  match r with
  | .UZ_LR_READ => c.lrReadWrite who v
  | .UZ_MBX_CTL i => c.uzMbxWrite who i v
  | .UZ_CTL => c.ifMay who.sealed who r (fun x =>
      if F.UZ_CTL_PKG_RESET.get v = 1 then x.onUz (fun u => { u with resetPending := true }) else x)
  | _ => c.ifMay (c.mayRead who r) who r (fun x => x.storeFields r v)

/-- A write to a register of the pair, from W1 and Uzomuris only. -/
def Chip.pairWrite (c : Chip) (who : Who) (r : Reg) (v : Word) : Chip :=
  match r with
  | .PAIR_CTL => c.pairCtlWrite who v
  | .PAIR_DIRTY_BASE => c.ifMay who.sealed who r (fun x => if x.pairState ≤ 2 then x.storeFields r v else x)
  | _ => c.ifMay who.sealed who r (fun x => x.storeFields r v)

/-- A write to a register of the event router (R79 to R82). One to EVR_SRC_n completes once every MSI formed from the old entry has been
delivered or dropped (R81). -/
def Chip.evrWrite (c : Chip) (who : Who) (r : Reg) (v : Word) : Chip :=
  match r with
  | .EVR_SWTRIG => c.swTrig who v
  | .EVR_DROP_STATUS => if F.EVR_DROP_STATUS_CLEAR.get v = 1 then c.setFld r F.EVR_DROP_STATUS_COUNT 0 else c
  | .EVR_TIMER n => c.ifMay (c.mayRaise who (608 + n)) who r (fun x => (x.setReg r v).timerFire n)
  | .EVR_SRC n => c.ifMay (c.maySource who n) who r (fun x => (x.srcWrite n v).settleSource n)
  | _ => c.writeFields who r v

/-- A write to a register of an instance (R373, R377, R386). -/
def Chip.seWrite (x : Chip) (who : Who) (r : Reg) (v : Word) : Chip :=
  match r with
  | .SE_INST_CFG c k => x.instCfgWrite who c k v
  | .SE_INST_DRING c k | .SE_INST_CRING c k => x.instRingWrite who c k r v
  | .SE_INST_DLV c k => if isMbx k then x.instRingWrite who c k r v else x
  | .SE_INST_SHARE c k => x.instShareWrite who c k v
  | .SE_INST_CTL c k => x.instCtlWrite who c k v
  | .SE_INST_STATUS c k => x.byInst who c k r (fun y => y.storeFields r v)
  | .SE_DB_TAIL c k | .SE_DB_CPL_HEAD c k => x.doorbellWrite who c k r v
  | .SE_DB_STATUS _ _ | .SE_DB_DLV_TAIL _ _ => x
  | _ => x.writeFields who r v

/-- The effect of a write that reaches a register: the same effect as the row of the command it gives. -/
def Pkg.writeReg (p : Pkg) (who : Who) (r : Reg) (v : Word) : Pkg :=
  let on := fun (f : Chip → Chip) => p.onChip f
  match r with
  | .PKG_CTL => on (fun c => c.pkgCtlWrite who v)
  | .PKG_POWER_CFG => on (fun c => c.powerCfgWrite who v)
  | .PKG_RAT_BASE n => on (fun c => c.ratBaseWrite who n v)
  | .PKG_RAT_LIMIT n => on (fun c => c.ratLimitWrite who n v)
  | .PKG_DIE_CTL d => on (fun c => c.dieCtlWrite who d v)
  | .FC_STATUS | .FC_FIRST_INFO | .FC_FIRST_ADDR | .FC_FIRST_TIME | .FC_ESC_INFO | .FC_ESC_ADDR | .FC_ESC_TIME | .FC_PEND_SUM _
  | .FC_NOTICE_INFO _ | .FC_NOTICE_ADDR _ | .FC_REPORT _ | .FC_SRC _ => on (fun c => c.fcWrite who r v)
  | .EVR_SWTRIG | .EVR_DROP_STATUS | .EVR_TIMER _ | .EVR_SRC _ => on (fun c => c.evrWrite who r v)
  | .WLD_CTL => on (fun c => c.wldCtlWrite who v)
  | .WLD_POT_OP => p.potOpWrite who v
  | .WLD_POT_QUERY => p.potQuery who v
  | .WLD_CONSENT w => on (fun c => c.consentWrite who w v)
  | .WLD_PWR_REQ => on (fun c => c.pwrReqWrite who v)
  | .WLD_DBG_GRANT => on (fun c => c.dbgGrantWrite who v)
  | .WLD_FN_OWN i => on (fun c => c.ownWrite who (.fn i) v)
  | .WLD_INST_OWN i => on (fun c => c.ownWrite who (.inst i) v)
  | .WLD_MBX_OWN i => on (fun c => c.ownWrite who (.mbx i) v)
  | .WLD_SRC_OWN i => on (fun c => c.ownWrite who (.src i) v)
  | .WLD_UZMB_OWN i => on (fun c => c.ownWrite who (.uzmb i) v)
  | .QOS_CTL => on (fun c => c.qosCtlWrite who v)
  | .QOS_CLASS k => on (fun c => c.ifMay who.sealed who r (fun x => if k = 15 then x else x.storeFields r v))
  | .UZ_STATUS | .UZ_CTL | .UZ_THERM_CFG | .UZ_LR_STATUS | .UZ_LR_READ | .UZ_LR_DATA _ | .UZ_ARR_SEL | .UZ_ARR_STATUS
  | .UZ_MBX_CTL _ | .UZ_MBX_DATA _ _ => on (fun c => c.uzWrite who r v)
  | .PAIR_CFG | .PAIR_CTL | .PAIR_STATUS | .PAIR_PARTNER_SERIAL | .PAIR_DIRTY_BASE | .PAIR_RESYNC_STATUS | .PAIR_REGION_BASE _
  | .PAIR_REGION_LIMIT _ | .PAIR_REGION_REMOTE _ | .PAIR_REGION_STATUS _ => on (fun c => c.pairWrite who r v)
  | .GAL_ID n => on (fun c => c.galIdWrite who n v)
  | .GAL_PORT_CTL n => on (fun c => c.portCtlWrite who n v)
  | .GAL_FENCE_CTL n => on (fun c => c.fenceCtlWrite who n v)
  | .GAL_PRB_TPTR n => on (fun c => c.tptrWrite who n v)
  | .HALL_CACHE_CTL n => p.cacheCmd who (.hall n) (F.LND_CTL_CMD.get v)
  | .HALL_MNT_CTL n => p.mntCtlWrite who (16 + n) v
  | .HALL_MNT_BASE _ | .HALL_MNT_LIMIT _ | .HALL_MNT_STATUS _ | .CME_BASE _ | .CME_LIMIT _ | .CME_STATUS _ =>
    on (fun c => c.mntRegWrite who r v)
  | .HALL_DRAM_CTL n => on (fun c => c.dramCtlWrite who n v)
  | .PORT_CTL n => on (fun c => c.stationCtlWrite who n v)
  | .PORT_WIN_CTL n => on (fun c => c.winCtlWrite who n v)
  | .PORT_FN_CFG n f => on (fun c => c.fnCfgWrite who n f v)
  | .PORT_SLOT n j => on (fun c => c.slotWrite who n j v)
  | .GAL_PRB_CTL n => on (fun c => c.probeCtlWrite who n v)
  | .SE_DB_RETURN c k => p.dbReturn who c k v
  | .SE_INST_CFG _ _ | .SE_INST_DRING _ _ | .SE_INST_CRING _ _ | .SE_INST_DLV _ _ | .SE_INST_SHARE _ _ | .SE_INST_CTL _ _
  | .SE_INST_STATUS _ _ | .SE_DB_TAIL _ _ | .SE_DB_CPL_HEAD _ _ | .SE_DB_STATUS _ _ | .SE_DB_DLV_TAIL _ _ =>
    on (fun c => c.seWrite who r v)
  | .CD_SUPPLY_STATUS d => on (fun c => c.supplyStatusWrite who d v)
  | .CD_CORE_CTL d i => on (fun c => c.coreCtlWrite who (24 * d + i) v)
  | .CD_MTIMECMP d i => on (fun c => c.ifMay who.sealed who r (fun x => ((x.storeFields r v).wake (24 * d + i)).run (24 * d + i)))
  | .LND_CTL d => p.cacheCmd who (.landing d) (F.LND_CTL_CMD.get v)
  | .CME_CTL d => p.mntCtlWrite who d v
  | _ => on (fun c => c.writeFields who r v)

/-- A register write at an offset of register space (R433, R435): ignored where no register stands, where the block has no power
(R213) or is lost (R247), and where its assignable block refuses the access (R292, R373: a hart takes the access fault of
CHECK 5, which its own access carries). -/
def Pkg.registerWrite (p : Pkg) (who : Who) (off : Nat) (v : Word) : Pkg :=
  let lost : Bool := 0x10000000 ≤ off && off < 0x1C000000 && 5 ≤ p.chip.dieState ((off - 0x10000000) / 0x1000000)
  match regDecode off with
  | .outside => if who.uz then p else p.onChip (fun c => c.addrRefusal who.rid who.world 1 (regBase + off))
  | .reg r =>
    if !p.chip.blockPowered off || lost then p
    else if p.chip.blockRefuses who r then p.onChip (fun c => c.blockWrong who r)
    else p.writeReg who r v
  | .iommu n o => if p.chip.blockPowered off then p.onChip (fun c => c.iommuWrite who n (o / 8 * 8) 8 v.toNat) else p
  | .hole | .file _ _ _ _ => p

def execRegisterWrite (who : Who) (off : Nat) (v : Word) (s : State) : Result :=
  need (whoOk who && off < 2 ^ 30 && off % 8 == 0) (s.onPkg (fun p => p.registerWrite who off v))

-- IO_RD and IO_WR

/-- The offset in register space of a message. -/
def ioOff (m : Msg) : Nat := m.line * 64 + m.sub - regBase

/-- An access of a width the register does not take (R434): reported as an address refusal. -/
def Chip.ioWidth (c : Chip) (m : Msg) : Chip := (c.addrRefusal m.rid m.world m.acc (regBase + ioOff m)).ioReply m 1

/-- A read that reaches a register block. -/
def Chip.ioReadReg (c : Chip) (m : Msg) : Chip :=
  let off := ioOff m
  match regDecode off with
  | .outside => if ridType m.rid = 5 then c.ioReply m 0 0 else c.ioWidth m
  | .hole => if m.code = 3 then c.ioReply m 0 0 else c.ioWidth m
  | .file _ _ _ _ => c.ioReply m 0 0
  | .iommu n o =>
    if m.code = 2 ∨ m.code = 3 then c.ioReply m 0 (c.iommuRead n (o / 8) / 2 ^ (8 * (o % 8)) % 2 ^ (8 * 2 ^ m.code))
    else c.ioWidth m
  | .reg r =>
    if m.code ≠ 3 then c.ioWidth m
    else if c.blockRefuses (msgWho m) r then c.ioRefuse m
    else c.ioReply m 0 (c.regRead (msgWho m) r).toNat

/-- A number with its four bytes in the other order. -/
def swap32 (n : Nat) : Nat := ofBytes (toBytes 4 n).reverse

/-- A write to an interrupt-file page (R74): 32 bits to seteipnum_le or seteipnum_be; an MSI to the file of a hart that is not
there is dropped and counted (R16). -/
def Chip.fileWrite (c : Chip) (d i f o size v : Nat) : Chip :=
  let h := 24 * d + i
  if size ≠ 4 ∨ 4 < o then c
  else if !c.hartThere h then c.msiDropped d
  else
    let id := if o = 0 then v % 2 ^ 32 else swap32 v
    ((c.onHart h (fun x => x.onFile f (IFile.setEip id))).wake h).run h

/-- A write that reaches a register block. -/
def Pkg.ioWriteReg (p : Pkg) (m : Msg) : Pkg :=
  let off := ioOff m
  let v := m.data.toNat
  let done := fun (q : Pkg) => q.onChip (fun c => c.ioReply m 0)
  let width := fun (_ : Unit) => p.onChip (fun c => c.ioWidth m)
  match regDecode off with
  | .outside => if ridType m.rid = 5 then done p else width ()
  | .hole => if m.code = 3 then done p else width ()
  | .file d i f o => done (p.onChip (fun c => c.fileWrite d i f o (2 ^ m.code) v))
  | .iommu n o =>
    if m.code = 2 ∨ m.code = 3 then done (p.onChip (fun c => c.iommuWrite (msgWho m) n o (2 ^ m.code) (v % 2 ^ (8 * 2 ^ m.code))))
    else width ()
  | .reg (.FC_REPORT i) =>
    if mayReport m.rid then (if m.code = 6 ∧ i = 0 then done (p.acceptReport (reportOf m.data)) else done p)
    else done (p.onChip (fun c => c.refuseWrite (msgWho m) (.FC_REPORT i)))
  | .reg r =>
    if m.code ≠ 3 then width ()
    else if p.chip.blockRefuses (msgWho m) r then p.onChip (fun c => (c.blockWrong (msgWho m) r).ioRefuse m)
    else done (p.writeReg (msgWho m) r (BitVec.ofNat 64 v))

/-- The packet of a message for a compute die's block, as the gallery answers it when the die's ports are disabled (R220, R246). -/
def Chip.dieAnswer (c : Chip) (d : Nat) (m : Msg) : Chip :=
  match portOf (.link (2 * d)) with
  | some q => c.disabledAnswer q.1 { destR := q.1, destPort := q.2, srcR := q.1, srcPort := q.2, vc := 1, cmd := 0x0C, units := 1, msg := m }
  | none => c

/-- An access to register space: of a lost or held-out die (R247, R220), of a block without power (R213), where an MSI is counted (R16), or
of a block. -/
def Pkg.regAccess (p : Pkg) (m : Msg) : Pkg :=
  let off := ioOff m
  let d := (off - 0x10000000) / 0x1000000
  if 0x10000000 ≤ off ∧ off < 0x1C000000 ∧ 5 ≤ p.chip.dieState d then p.onChip (fun c => c.dieAnswer d m)
  else if !p.chip.blockPowered off then
    p.onChip (fun c => (if m.kind = .IO_WR ∧ pktIsMsi (c.packetOf m) then c.msiDropped d else c).ioReply m 0 0)
  else if m.kind = .IO_WR then p.ioWriteReg m
  else p.onChip (fun c => c.ioReadReg m)

/-- IO_RD or IO_WR arrives (R205, R213): at a register block or a PCIe window. -/
def Pkg.ioArrive (p : Pkg) (m : Msg) : Pkg :=
  let q := p.onChip (fun c => c.arrive m)
  match q.chip.region (m.line * 64 + m.sub) with
  | .regs _ => q.regAccess m
  | _ => q.onChip (fun c => c.stationIo m)

/-- An access of 2^code bytes, naturally aligned (R205). -/
def ioMsgOk (m : Msg) (k : MsgKind) : Bool := m.fits k && m.code ≤ 6 && m.sub < 64 && m.sub % 2 ^ m.code == 0

def execIoRd (m : Msg) (s : State) : Result := need (ioMsgOk m .IO_RD) (s.onPkg (fun p => p.ifArrives m (fun q => q.ioArrive m)))
def execIoWr (m : Msg) (s : State) : Result := need (ioMsgOk m .IO_WR) (s.onPkg (fun p => p.ifArrives m (fun q => q.ioArrive m)))

end Sys2Proof.Machine
end

