-- ==== Sys2Proof/Machine/EngMem.lean ====
section
/-! DEFINITION. What an instance of the service engines reads and writes (R374, R284, R318, R365): main memory, register space, the
PCIe windows, and the memory of the host that its function serves. An operation is one whole transaction; while a line it needs
is in a transaction (R187) the command waits and changes nothing. -/

namespace Sys2Proof.Machine

/-- The accesses of an instance so far: the package, whether a line was busy, the first STATUS of an access that failed (R381),
and whether a source was poisoned. -/
structure Eng where
  p : Pkg
  wait : Bool
  st : Nat
  poison : Bool
  deriving DecidableEq, Repr

/-- Slot k of cluster c, as the engines carry it. -/
structure Slot where
  c : Nat
  k : Nat
  deriving DecidableEq, Repr

/-- No access yet. -/
def Eng.start (p : Pkg) : Eng := { p := p, wait := false, st := 0, poison := false }
def Eng.onChip (x : Eng) (f : Chip → Chip) : Eng := { x with p := x.p.onChip f }
/-- An access failed: the first STATUS stands. -/
def Eng.fail (x : Eng) (st : Nat) : Eng := { x with st := if x.st = 0 then st else x.st }
/-- Nothing more is done: a line is busy, or an access failed. -/
def Eng.ended (x : Eng) : Bool := x.wait || x.st != 0

def Slot.rid (o : Slot) : Nat := instRid o.c o.k
def Eng.world (x : Eng) (o : Slot) : Nat := x.p.chip.instOwner o.c o.k
def Eng.label (x : Eng) (o : Slot) : Nat := x.p.chip.instLabel o.c o.k

/-- Fresh free bytes. -/
def Eng.freeBytes (x : Eng) (n : Nat) : Eng × List Byte := (x.onChip Chip.nextFree, toBytes n (Config.freeNat x.p.chip.free))
/-- A fresh free word. -/
def Eng.freeWord (x : Eng) : Eng × Word := (x.onChip Chip.nextFree, BitVec.ofNat 64 (Config.freeNat x.p.chip.free))

-- where an address lies

/-- What an address of an instance selects. -/
inductive Spot where
  | pkg (pa : Nat)
  | host (n f : Nat)
  | none
  deriving DecidableEq, Repr

/-- An address that breaks the table of R374. -/
def Chip.addrBad (x : Chip) (o : Slot) (a : Nat) : Bool :=
  if (x.bound o.c o.k).isSome then 2 ^ 63 ≤ a && 2 ^ 52 ≤ a % 2 ^ 63 else 2 ^ 52 ≤ a

/-- The place of an address (R374): an IOVA goes through the function's IOMMU, and a fault there refuses the access. -/
def Eng.spot (x : Eng) (o : Slot) (a : Nat) (wr : Bool) : Eng × Spot :=
  match x.p.chip.bound o.c o.k with
  | none => (x, .pkg a)
  | some (n, f) =>
    if a < 2 ^ 63 then (x, .host n f)
    else
      let r := x.p.iommu n f (a % 2 ^ 52) wr
      match r.2 with
      | some pa => ({ x with p := r.1 }, .pkg pa)
      | none => (({ x with p := r.1 } : Eng).fail 2, .none)

/-- A read of the host's memory: refused where the port is down or stopped, or the function is reset, handed over or contained (R364); else the host's answer, which is its own: data,
Unsupported Request, or a completion timeout, which the port logs (R365). -/
def Eng.hostRead (x : Eng) (n f cnt : Nat) : Eng × List Byte :=
  let j := x.p.chip.portOfFn n f
  if x.p.chip.fnSilent n f || !x.p.chip.linkUp n j then (x.fail 2, toBytes cnt 0)
  else
    let how := Config.freeNat x.p.chip.free % 3
    let y := (x.onChip Chip.nextFree).freeBytes cnt
    if how = 0 then y
    else if how = 1 then (y.1.fail 2, y.2)
    else ((y.1.onChip (fun c => ((c.aerLog n j 14).bump (.PORT_ERR n j) F.PORT_ERR_CT_COUNT).portError n j 2)).fail 4, y.2)

/-- A write to the host's memory is posted. -/
def Eng.hostWrite (x : Eng) (n f : Nat) : Eng :=
  let j := x.p.chip.portOfFn n f
  if x.p.chip.fnSilent n f || !x.p.chip.linkUp n j then x.fail 2 else x

-- register space and windows

/-- The register at an offset, where its assignable block refuses an instance's access with CHECK 5 (R292, R373). -/
def Chip.engRefused (c : Chip) (who : Who) (off : Nat) : Option Reg :=
  match regDecode off with
  | .reg r => if c.blockRefuses who r then some r else none
  | _ => none

/-- A word of register space as it reads. -/
def Chip.engRegRead (c : Chip) (who : Who) (off : Nat) : Word :=
  if !c.blockPowered off then 0
  else match regDecode off with
    | .reg r => c.regRead who r
    | .iommu n o => BitVec.ofNat 64 (c.iommuRead n (o / 8))
    | _ => 0

/-- The word offsets of a span of register space. -/
def wordsOf (off n : Nat) : List Nat := (List.range (n / 8)).map (fun i => off + 8 * i)

/-- A span that is not whole words, or has a word where no register space is, is refused as R434 and R26 say. -/
def regSpanBad (off n : Nat) : Bool :=
  off % 8 != 0 || n % 8 != 0 || (wordsOf off n).any (fun w => regDecode w == .outside)

/-- The registers of a span that refuse an instance's access. -/
def Eng.refusedRegs (x : Eng) (who : Who) (off n : Nat) : List Reg := (wordsOf off n).filterMap (x.p.chip.engRefused who)

/-- The port that a window's address goes to. -/
def Chip.windowPort (c : Chip) (pa : Nat) : Nat × Nat :=
  match c.region pa with
  | .mwin n e => (n, F.PORT_MWIN_BASE_PORT.get (c.winReg (.PORT_MWIN_BASE n e)))
  | .ecam n j => (n, j)
  | _ => (0, 0)

/-- The station admits an instance to a window's address (R347, R348). -/
def Chip.engWindow (c : Chip) (who : Who) (pa : Nat) : Bool :=
  match c.region pa with
  | .mwin n e => c.mayFn who n (F.PORT_MWIN_LIMIT_FN.get (c.winReg (.PORT_MWIN_LIMIT n e)))
  | .ecam n j => c.ecamMay who n j (ecamBdf pa)
  | _ => false

/-- An access to a window on its way to its station: held while the station's port is fenced, an error completion where the port answers
nothing (R215 to R217, R220) or the station refuses it (R347, R348). -/
def Eng.window (x : Eng) (who : Who) (pa acc : Nat) : Eng :=
  let p := x.p.chip.packetOf (ioMsg who pa 3 none)
  let port := (p.destR, p.destPort)
  if x.p.chip.portShut port then (x.onChip (fun c => c.agentUnavail who.rid who.world acc (pa / 64))).fail 2
  else if !x.p.chip.portTakes port then { x with wait := true }
  else if !x.p.chip.engWindow who pa then x.fail 2
  else x

/-- A device answers a non-posted request of an instance: its data is free, and so is a refusal or a timeout. -/
def Eng.device (x : Eng) (n j cnt : Nat) : Eng × List Byte :=
  if x.p.chip.stopped n j || !x.p.chip.linkUp n j then (x.fail 2, toBytes cnt 0)
  else
    let how := Config.freeNat x.p.chip.free % 3
    let y := (x.onChip Chip.nextFree).freeBytes cnt
    if how = 0 then y else (y.1.fail (2 * how), y.2)

/-- Bytes of the root port's own configuration space (R347). -/
def Chip.rootBytes (c : Chip) (n j pa cnt : Nat) : List Byte :=
  (List.range cnt).map (fun i => BitVec.ofNat 8 (c.rootCfgRead n j (ecamDword (pa + i)) / 256 ^ ((pa + i) % 4)))

/-- A read through a window (R347, R348): the root port itself answers bus 0, device 0, function 0; a bus that is not behind it is refused;
the rest goes to the device. -/
def Eng.windowRead (x : Eng) (who : Who) (pa cnt : Nat) : Eng × List Byte :=
  let y := x.window who pa 0
  let q := y.p.chip.windowPort pa
  if y.ended then (y, toBytes cnt 0)
  else match y.p.chip.region pa with
    | .ecam n j =>
      if ecamBdf pa = 0 then (y, y.p.chip.rootBytes n j pa cnt)
      else if y.p.chip.busBehind n j (ecamBdf pa / 256) then y.device n j cnt
      else (y.fail 2, toBytes cnt 0)
    | _ => y.device q.1 q.2 cnt

/-- A write through a window: of configuration space dword by dword; of a memory window posted. -/
def Eng.windowWrite (x : Eng) (who : Who) (pa : Nat) (l : List Byte) : Eng :=
  let y := x.window who pa 1
  let q := y.p.chip.windowPort pa
  if y.ended then y
  else match y.p.chip.region pa with
    | .ecam n j =>
      if pa % 4 ≠ 0 ∨ l.length % 4 ≠ 0 then y.fail 2
      else if ecamBdf pa = 0 then
        (List.range (l.length / 4)).foldl (fun (z : Eng) i =>
          z.onChip (fun c => c.rootCfgWrite n j (ecamDword (pa + 4 * i)) (sliceNum l (4 * i) 4))) y
      else if y.p.chip.busBehind n j (ecamBdf pa / 256) then (y.device n j 0).1
      else y.fail 2
    | _ => if y.p.chip.stopped q.1 q.2 || !y.p.chip.linkUp q.1 q.2 then y.fail 2 else y

/-- Before the WLD commit every request of an instance but SCRUB_INST is refused as R26 describes (R280). -/
def Chip.instShut (c : Chip) (rid : Nat) : Bool := !c.wldCommitted && ridIndex rid != c.fld .WLD_CTL F.WLD_CTL_SCRUB_INST

-- one line

/-- The bytes of one access that lies in one line. -/
def Eng.read1 (x : Eng) (o : Slot) (a cnt : Nat) : Eng × List Byte :=
  let s := x.spot o a false
  let y := s.1
  let who : Who := { rid := o.rid, world := y.world o }
  let refuse := fun (pa : Nat) => ((y.onChip (fun c => c.addrRefusal who.rid who.world 0 pa)).fail 2, toBytes cnt 0)
  match s.2 with
  | .none => (y, toBytes cnt 0)
  | .host n f => y.hostRead n f cnt
  | .pkg pa =>
    if y.p.chip.instShut who.rid then refuse pa
    else match y.p.chip.region pa with
    | .dram | .cxl _ _ =>
      if !y.p.chip.ioIdle (pa / 64) then ({ y with wait := true }, toBytes cnt 0)
      else
        let r := y.p.ioRead who.rid who.world (y.label o) (pa / 64)
        let l := (List.range cnt).map (fun i => Line.byte r.2.data (pa % 64 + i))
        if r.2.check ≠ 0 then (({ y with p := r.1 } : Eng).fail 2, l)
        else if r.2.poison then
          let q := r.1.onChip (fun c => c.instPoison o.c o.k 0 pa)
          ({ y with p := q, poison := true }, l)
        else ({ y with p := r.1 }, l)
    | .regs off =>
      if regSpanBad off cnt then refuse pa
      else if y.refusedRegs who off cnt ≠ [] then (y.fail 2, toBytes cnt 0)
      else (y, (wordsOf off cnt).flatMap (fun w => toBytes 8 (y.p.chip.engRegRead who w).toNat))
    | .ecam _ _ | .mwin _ _ => y.windowRead who pa cnt
    | .refused => refuse pa

/-- The write of one access that lies in one line. -/
def Eng.write1 (x : Eng) (o : Slot) (a : Nat) (l : List Byte) : Eng :=
  let s := x.spot o a true
  let y := s.1
  let who : Who := { rid := o.rid, world := y.world o }
  let refuse := fun (pa : Nat) => (y.onChip (fun c => c.addrRefusal who.rid who.world 1 pa)).fail 2
  match s.2 with
  | .none => y
  | .host n f => y.hostWrite n f
  | .pkg pa =>
    if y.p.chip.instShut who.rid then refuse pa
    else match y.p.chip.region pa with
    | .dram | .cxl _ _ =>
      if !y.p.chip.ioIdle (pa / 64) then { y with wait := true }
      else
        let w := lineSpan pa l (pa / 64)
        let r := y.p.ioWrite who.rid who.world (y.label o) (pa / 64) w.1 w.2 y.poison
        if r.2 ≠ 0 then ({ y with p := r.1 } : Eng).fail 2 else { y with p := r.1 }
    | .regs off =>
      let bad := y.refusedRegs who off l.length
      if regSpanBad off l.length then refuse pa
      else if bad ≠ [] then (y.onChip (fun c => bad.foldl (fun (z : Chip) r => z.blockWrong who r) c)).fail 2
      else
        let q := (wordsOf off l.length).foldl (fun (p : Pkg) w =>
          p.registerWrite who w (BitVec.ofNat 64 (sliceNum l (w - off) 8))) y.p
        { y with p := q }
    | .ecam _ _ | .mwin _ _ => y.windowWrite who pa l
    | .refused => refuse pa

/-- An access of an instance to an address that the package refuses is reported (R26). -/
def Eng.refusedAt (x : Eng) (o : Slot) (t : Spot) (acc : Nat) : Eng :=
  match t with
  | .pkg pa => if x.p.chip.region pa = .refused ∨ x.p.chip.instShut o.rid then x.onChip (fun c => c.addrRefusal o.rid (x.world o) acc pa) else x
  | _ => x

/-- An atomic operation on main memory (R383): the bytes it found. Any other target is refused. -/
def Eng.atomic1 (x : Eng) (o : Slot) (a code : Nat) (args : Nat × Nat) : Eng × List Byte :=
  let n := atomicSize code
  let s := x.spot o a true
  let y := s.1
  let who : Who := { rid := o.rid, world := y.world o }
  let main := match s.2 with
    | .pkg pa => if (y.p.chip.region pa).homed && !y.p.chip.instShut who.rid then some pa else none
    | _ => none
  match main with
  | none => ((y.refusedAt o s.2 6).fail 2, toBytes n 0)
  | some pa =>
    if !y.p.chip.ioIdle (pa / 64) then ({ y with wait := true }, toBytes n 0)
    else
      let r := y.p.ioAtomic who.rid who.world (y.label o) (pa / 64) (pa % 64) code args
      let l := toBytes n (Line.slice r.2.data (pa % 64) n)
      if r.2.check ≠ 0 then (({ y with p := r.1 } : Eng).fail 2, l)
      else if r.2.poison then
        let q := r.1.onChip (fun c => c.instPoison o.c o.k 6 pa)
        ({ y with p := q, poison := true }, l)
      else ({ y with p := r.1 }, l)

-- spans

/-- The part of a span that lies in one line: its first address and its length. -/
def spanIn (a n line : Nat) : Nat × Nat :=
  let lo := max a (line * 64)
  (lo, min (a + n) (line * 64 + 64) - lo)

/-- n bytes from address a, line by line; nothing is read after an access fails. -/
def Eng.read (x : Eng) (o : Slot) (a n : Nat) : Eng × List Byte :=
  if n = 0 then (x, [])
  else (linesOf a n).foldl (fun (acc : Eng × List Byte) line =>
    let s := spanIn a n line
    if acc.1.ended then (acc.1, acc.2 ++ toBytes s.2 0)
    else
      let r := acc.1.read1 o s.1 s.2
      (r.1, acc.2 ++ r.2)) (x, [])

/-- Bytes to address a, line by line, poisoned where a source was (R318); nothing is written after an access fails. -/
def Eng.write (x : Eng) (o : Slot) (a : Nat) (l : List Byte) : Eng :=
  if l.isEmpty then x
  else (linesOf a l.length).foldl (fun (y : Eng) line =>
    let s := spanIn a l.length line
    if y.ended then y else y.write1 o s.1 ((l.drop (s.1 - a)).take s.2)) x

/-- A page is owned by a world (R382: key material). -/
def Pkg.pageOwned (p : Pkg) (world line : Nat) : Bool :=
  !p.chip.wldCommitted || (match p.potEntryOf (line / 64) with
    | some e => potState e == 1 && potOwner e == world
    | none => false)

/-- Key material at address a: every line of it in a page the instance's world owns. -/
def Eng.readKey (x : Eng) (o : Slot) (a n : Nat) : Eng × List Byte :=
  let w := x.world o
  let spots := (linesOf a n).map (fun line => (x.spot o (spanIn a n line).1 false).2)
  let bad := fun (t : Spot) => match t with
    | .pkg pa => !(x.p.chip.region pa).homed || !x.p.pageOwned w (pa / 64)
    | _ => true
  match spots.find? bad with
  | some t => ((x.refusedAt o t 0).fail 2, toBytes n 0)
  | none => x.read o a n

end Sys2Proof.Machine
end

