-- ==== Sys2Proof/Machine/Engines.lean ====
section
/-! DEFINITION. The engines' work (spec/15_service_engines.md, R143, R144): descriptor fetch, the sharing of the engines, the
operations, and completion. -/

namespace Sys2Proof.Machine

-- descriptors

/-- A field of a descriptor: n bytes from byte i. -/
def Flight.num (f : Flight) (i n : Nat) : Nat := sliceNum f.desc i n
def Flight.op (f : Flight) : Nat := f.num 0 1
def Flight.src (f : Flight) : Nat := f.num 8 8
def Flight.dst (f : Flight) : Nat := f.num 16 8
def Flight.len (f : Flight) : Nat := f.num 24 8
def Flight.cap (f : Flight) : Nat := f.num 32 8
/-- FENCE and IRQ of FLAGS. -/
def Flight.fence (f : Flight) : Bool := bitAt (f.num 1 1) 1
def Flight.irq (f : Flight) : Bool := bitAt (f.num 1 1) 0

/-- The matrix of a tile operation (R143): rows, columns, records per row of records, records. -/
def Flight.rows (f : Flight) : Nat := f.num 32 4
def Flight.cols (f : Flight) : Nat := f.num 36 4
def Flight.across (f : Flight) : Nat := (f.cols + 31) / 32
def Flight.records (f : Flight) : Nat := (f.rows + 31) / 32 * f.across
def Flight.pitch (f : Flight) : Nat := f.num 40 8
def Flight.format (f : Flight) : Nat := f.num 48 1
def Flight.wide (f : Flight) : Bool := f.num 50 1 == 1
def Flight.stride (f : Flight) : Nat := f.num 56 8
/-- The shape and the configuration word of record n. -/
def Flight.recRows (f : Flight) (n : Nat) : Nat := min 32 (f.rows - 32 * (n / f.across))
def Flight.recCols (f : Flight) (n : Nat) : Nat := min 32 (f.cols - 32 * (n % f.across))
def Flight.recWord (f : Flight) (n : Nat) : Nat :=
  f.format + f.num 49 1 * 2 ^ 8 + (f.recRows n - 1) * 2 ^ 16 + (f.recCols n - 1) * 2 ^ 21
def Flight.recTag (f : Flight) (n : Nat) : Nat := (f.num 24 8 + n) % 2 ^ 64

/-- KEYLEN in bytes. -/
def Flight.keyBytes (f : Flight) : Nat := if f.num 60 1 = 1 then 32 else 16
/-- The digest length of ALG. -/
def digestLen (alg : Nat) : Nat := match alg with | 0 | 3 => 32 | 1 | 4 => 48 | _ => 64

/-- The TYPE an OP belongs to (R370, R382); 0 for a value that names no operation. -/
def opType (op : Nat) : Nat :=
  if 1 ≤ op ∧ op ≤ 4 then 1 else if 0x10 ≤ op ∧ op ≤ 0x12 then 2 else if 0x20 ≤ op ∧ op ≤ 0x24 then 3
  else if 0x30 ≤ op ∧ op ≤ 0x33 then 4 else 0

/-- The bytes from byte 8 on that an operation uses, as first byte and length (R382). -/
def opBytes (op : Nat) : List (Nat × Nat) :=
  match op with
  | 0x01 | 0x03 => [(8, 24)]
  | 0x02 => [(16, 24)]
  | 0x04 => [(8, 16), (32, 1), (40, 16)]
  | 0x10 | 0x11 => [(8, 43), (56, 8)]
  | 0x12 => [(8, 8), (24, 16), (48, 3), (56, 8)]
  | 0x20 | 0x21 => [(8, 53)]
  | 0x22 | 0x23 => [(8, 40), (60, 1)]
  | 0x24 => [(8, 24), (60, 1)]
  | 0x30 | 0x32 | 0x33 => [(8, 33)]
  | _ => [(8, 32)]

/-- A reserved byte of a descriptor is not zero. -/
def Flight.reservedBad (f : Flight) : Bool :=
  4 ≤ f.num 1 1 || f.num 2 2 != 0
    || (List.range 64).any (fun i => 8 ≤ i && f.num i 1 != 0 && !(opBytes f.op).any (fun s => s.1 ≤ i && i < s.1 + s.2))

/-- A length is 0 or above its maximum, or a field holds a value that the operation's table does not give. The address of a record may be any
(log entry 124, DESIGN CHOICE). -/
def Flight.fieldBad (f : Flight) : Bool :=
  let lenBad := f.len == 0 || 2 ^ 40 < f.len
  match opType f.op with
  | 1 =>
    if f.op = 4 then f.num 32 1 == 0 || 6 < f.num 32 1 || f.dst % atomicSize (f.num 32 1) != 0 else lenBad
  | 2 =>
    f.rows == 0 || 32768 < f.rows || f.cols == 0 || 32768 < f.cols || f.stride % 64 != 0 || f.stride < 1600
      || !cfgOk false (f.recWord 0) || cfgKind f.format == 0 || 2 ≤ f.num 50 1
  | 3 =>
    lenBad || (if f.op = 0x24 then 6 ≤ f.num 60 1 else 2 ≤ f.num 60 1) || ((f.op == 0x22 || f.op == 0x23) && f.len < 16)
  | _ => lenBad || (f.op == 0x30 && f.num 40 1 != 1 && f.num 40 1 != 2) || (f.op == 0x33 && f.num 40 1 != 0)

/-- The addresses an operation uses. -/
def Flight.addrs (f : Flight) : List Nat :=
  match f.op with
  | 0x02 => [f.dst]
  | 0x12 => [f.src]
  | 0x20 | 0x21 => [f.src, f.dst, f.num 32 8, f.num 40 8] ++ (if f.num 56 4 = 0 then [] else [f.num 48 8])
  | 0x22 | 0x23 => [f.src, f.dst, f.num 32 8, f.num 40 8]
  | _ => [f.src, f.dst]

/-- A descriptor is invalid (R381). -/
def Chip.descBad (x : Chip) (o : Slot) (f : Flight) : Bool :=
  opType f.op == 0 || opType f.op != x.instType o.c o.k || f.reservedBad || f.fieldBad || f.addrs.any (x.addrBad o)

/-- Where the operation writes: address and length, as the descriptor bounds it. -/
def Flight.dest (f : Flight) : List (Nat × Nat) :=
  match f.op with
  | 0x01 | 0x02 | 0x21 | 0x22 | 0x23 => [(f.dst, f.len)]
  | 0x04 => [(f.dst, atomicSize (f.num 32 1)), (f.src, atomicSize (f.num 32 1))]
  | 0x10 => (List.range f.records).map (fun n => (f.dst + f.stride * n, 1600))
  | 0x11 => (List.range f.rows).map (fun i => (f.dst + f.pitch * i, if f.wide then 2 * f.cols else (f.cols + 1) / 2 * 3))
  | 0x20 => [(f.dst, f.len + 16)]
  | 0x24 => [(f.dst, digestLen (f.num 60 1))]
  | 0x30 | 0x31 | 0x32 | 0x33 => [(f.dst, f.cap)]
  | _ => []

-- fetch

/-- The instance may fetch (R377, R363, R389). -/
def Chip.mayFetch (x : Chip) (c k : Nat) : Bool :=
  let r := Reg.SE_INST_STATUS c k
  let size := x.ringSize c k
  let head := x.fld r F.SE_INST_STATUS_HEAD
  x.instState c k == 1 && head != x.fld (.SE_DB_TAIL c k) F.SE_DB_TAIL_INDEX
    && (x.inst c k).inflight.length < x.fld (.SE_INST_SHARE c k) F.SE_INST_SHARE_CAP
    && (head + size - x.fld (.SE_DB_CPL_HEAD c k) F.SE_DB_TAIL_INDEX) % size < size - 1
    && !(match x.bound c k with | some (n, f) => (x.fn n f).d3 | none => false)
    && !(instIndex c k == x.fld .WLD_CTL F.WLD_CTL_SCRUB_INST && (x.bit .WLD_POT_STATUS F.WLD_POT_STATUS_BUSY || x.bit .WLD_CTL F.WLD_CTL_FORMAT_BUSY))

/-- The base of a ring. -/
def Chip.ringBase (x : Chip) (r : Reg) : Nat := x.fld r F.SE_INST_RING_BASE * 4096

/-- Descriptor HEAD is fetched (R377); a fetch that is refused or poisoned is a ring error (R388). An invalid descriptor of an
engine completes with STATUS 1 without touching memory (R381). -/
def Pkg.descFetch (p : Pkg) (c k : Nat) : Pkg :=
  let o : Slot := { c := c, k := k }
  if !p.chip.mayFetch c k then p
  else if !p.chip.instGo c k then p.onChip (fun x => x.instShort c k)
  else
    let j := p.chip.fld (.SE_INST_STATUS c k) F.SE_INST_STATUS_HEAD
    let a := p.chip.ringBase (.SE_INST_DRING c k)
    if p.chip.addrBad o a then p.onChip (fun x => x.ringError c k 2)
    else
      let r := (Eng.start p).read o (a + 64 * j) 64
      if r.1.wait then p
      else if r.1.st ≠ 0 ∨ r.1.poison then r.1.p.onChip (fun x => x.ringError c k 2)
      else
        let f : Flight := { j := j, desc := r.2, engine := none, segs := 0, outcome := none, delivered := false }
        let g := if !isMbx k && p.chip.descBad o f then { f with outcome := some (1, 0) } else f
        r.1.p.onChip (fun x => ((x.setFld (.SE_INST_STATUS c k) F.SE_INST_STATUS_HEAD ((j + 1) % x.ringSize c k)).onInst c k
          (fun s => { s with inflight := s.inflight ++ [g] })).noteInflight c k)

def execDescriptorFetch (c k : Nat) (s : State) : Result := need (instOk c k) (s.onPkg (fun p => p.descFetch c k))

-- the sharing of the engines

/-- The TYPE of an engine (R370). -/
def engType (e : Nat) : Nat := if e < 4 then 1 else if e < 6 then 2 else if e = 6 then 3 else 4

/-- The segments of a descriptor (R370): 64 KiB of input, or 8 records. -/
def Flight.need (f : Flight) : Nat :=
  if opType f.op = 2 then (f.records + 7) / 8 else if f.op = 4 then 1 else max 1 ((f.len + 65535) / 65536)

/-- A descriptor is in progress in an engine. -/
def Flight.inside (f : Flight) (e : Nat) : Bool := f.engine == some e && f.outcome.isNone

/-- The first descriptor of a list that no engine has started, if it may start (R380): a descriptor with FENCE only when it is
the oldest in flight. -/
def nextStart (l : List Flight) : Option Flight :=
  match l.find? (fun f => f.engine.isNone && f.outcome.isNone) with
  | some f => if f.fence && (l.head?.map (fun g => g.j)) != some f.j then none else some f
  | none => none

/-- The descriptor of an instance that is ready for an engine (R384): the one it has there, which wants another segment, or the
next to start, while the engine holds fewer than 32 and none of the instance (R370), and the instance runs (R387). -/
def Chip.readyFor (x : Chip) (c k e : Nat) : Option Flight :=
  let l := (x.inst c k).inflight
  if x.instType c k ≠ engType e ∨ isMbx k then none
  else match l.find? (fun f => f.inside e) with
    | some f => if f.segs < f.need then some f else none
    | none =>
      if x.instState c k == 1 && x.fld (.SE_ENG_STATUS c e) F.SE_ENG_STATUS_ACTIVE < 32 then nextStart l else none

/-- WEIGHT (0 counts as 1), and the segments an instance has had of an engine in the present round. -/
def Chip.weightOf (x : Chip) (c k : Nat) : Nat := max 1 (x.fld (.SE_INST_SHARE c k) F.SE_INST_SHARE_WEIGHT)
def Chip.hadOf (x : Chip) (c k e : Nat) : Nat := sget 0 e (x.inst c k).credit
def Chip.setHad (x : Chip) (c k e n : Nat) : Chip := x.onInst c k (fun s => { s with credit := sset 0 e n s.credit })

/-- The slots with a descriptor ready, from the one after the slot served last, in turn. -/
def Chip.readySlots (x : Chip) (c e : Nat) : List Nat :=
  let from_ := sget 0 (c * 8 + e) x.engRR
  ((List.range 512).map (fun i => (from_ + i) % 512)).filter (fun k => (x.readyFor c k e).isSome)

/-- The slot an engine serves (R372, R384): the next in turn that has had fewer than WEIGHT segments; when none has, a new round. -/
def Chip.choose (x : Chip) (c e : Nat) : Option Nat :=
  let l := x.readySlots c e
  match l.find? (fun k => x.hadOf c k e < x.weightOf c k) with
  | some k => some k
  | none => l.head?

/-- A segment boundary of an engine (R384): the chosen instance receives one segment. What an instance had counts while it stays
ready, and starts again with each round. -/
def Chip.segment (x : Chip) (c e : Nat) : Chip :=
  match x.choose c e with
  | none => x
  | some k =>
    match x.readyFor c k e with
    | none => x
    | some f =>
      let ready := x.readySlots c e
      let fresh : Bool := ready.all (fun i => x.weightOf c i ≤ x.hadOf c i e)
      let x1 := (List.range 512).foldl (fun (y : Chip) i =>
        if y.hadOf c i e != 0 && (fresh || !ready.contains i) then y.setHad c i e 0 else y) x
      let x2 := (x1.setHad c k e (x1.hadOf c k e + 1)).onFlight c k f.j (fun g =>
        { g with engine := some e, segs := g.segs + 1 })
      let x3 := x2.setFld (.SE_ENG_STATUS c e) F.SE_ENG_STATUS_SEGMENTS
        ((x2.fld (.SE_ENG_STATUS c e) F.SE_ENG_STATUS_SEGMENTS + 1) % 2 ^ 48)
      ({ x3 with engRR := sset 0 (c * 8 + e) ((k + 1) % 512) x3.engRR } : Chip).noteActive c

/-- An engine in service, in a cluster whose requests may leave. -/
def Chip.engGo (x : Chip) (c e : Nat) : Bool :=
  x.bit (.SE_ENG_STATUS c e) F.SE_ENG_STATUS_IN_SERVICE && !x.clusterDown c && !x.still

def execSegmentBoundary (c e : Nat) (s : State) : Result :=
  need (c < 2 && e < 8) (s.onChip (fun x => if x.engGo c e then x.segment c e else x))

-- operations

/-- What an operation leaves: the accesses made, its RESULT, and a STATUS of its own (0 for none). -/
structure Done where
  x : Eng
  res : Word
  st : Nat := 0

/-- STATUS (R381): an access that failed, then a poisoned source, whose destination is written poisoned (R318), then the operation's own. -/
def Done.status (d : Done) : Nat := if d.x.st ≠ 0 then d.x.st else if d.x.poison then 3 else d.st

/-- An operation runs when its engine has given it all its segments: its memory effects, and its outcome. Data lost in the engine's SRAM is
as a poisoned source (R313). -/
def Pkg.runOp (p : Pkg) (c k j op : Nat) (body : Slot → Flight → Eng → Done) : Pkg :=
  match p.chip.flightAt c k j with
  | none => p
  | some f =>
    if isMbx k || f.op != op || f.engine.isNone || f.outcome.isSome || f.segs < f.need then p
    else if !p.chip.instGo c k then p.onChip (fun x => x.instShort c k)
    else
      let d := body { c := c, k := k } f { Eng.start p with poison := f.bad }
      if d.x.wait then p
      else d.x.p.onChip (fun x => (x.onFlight c k j (fun g => { g with outcome := some (d.status, d.res) })).noteActive c)

/-- The operands of an operation row: an engine instance and a ring index. -/
def jobOk (c k j : Nat) : Bool := c < 2 && k < 512 && j < 2 ^ 16

/-- A RESULT that is stated for success only: free where the operation failed. -/
def Eng.resultOr (x : Eng) (st : Nat) (v : Word) : Done :=
  if x.st ≠ 0 ∨ x.poison ∨ st ≠ 0 then { x := (x.freeWord).1, res := x.freeWord.2, st := st } else { x := x, res := v, st := st }

/-- COPY: LEN bytes from SRC to DST. -/
def opCopy (o : Slot) (f : Flight) (x : Eng) : Done :=
  let r := x.read o f.src f.len
  { x := r.1.write o f.dst r.2, res := 0 }

/-- FILL: the 8-byte pattern from DST on. -/
def opFill (o : Slot) (f : Flight) (x : Eng) : Done :=
  let pat := f.num 32 8
  { x := x.write o f.dst ((List.range f.len).map (fun i => BitVec.ofNat 8 (pat / 2 ^ (8 * (i % 8))))), res := 0 }

/-- COMPARE: the offset of the first byte that differs, or all ones. -/
def opCompare (o : Slot) (f : Flight) (x : Eng) : Done :=
  let a := x.read o f.src f.len
  let b := a.1.read o f.dst f.len
  let v := firstIdx (fun (q : Byte × Byte) => q.1 != q.2) (a.2.zip b.2)
  b.1.resultOr 0 (match v with | some i => BitVec.ofNat 64 i | none => BitVec.allOnes 64)

/-- ATOMIC (R383): the operation at DST, and the old value to SRC; DST that is not main memory is refused. -/
def opAtomic (o : Slot) (f : Flight) (x : Eng) : Done :=
  let code := f.num 32 1
  let r := x.atomic1 o f.dst code (f.num 40 8, f.num 48 8)
  { x := r.1.write o f.src r.2, res := 0 }

-- tiles

/-- The plain row segment of row i of record n: its address and length (R143). -/
def Flight.rowAt (f : Flight) (base n i : Nat) : Nat × Nat :=
  let row := 32 * (n / f.across) + i
  let q := n % f.across
  if f.wide then (base + f.pitch * row + 64 * q, 2 * f.recCols n)
  else (base + f.pitch * row + 48 * q, (f.recCols n + 1) / 2 * 3)

/-- Element j of a plain row segment. -/
def Flight.elOf (f : Flight) (l : List Byte) (j : Nat) : Nat := if f.wide then sliceNum l (2 * j) 2 else unpackEl l j

/-- A container whose upper bits break R143. -/
def Flight.elBad (f : Flight) (v : Nat) : Bool :=
  f.wide && v / 4096 != (if f.format = 3 ∧ v.testBit 11 then 15 else 0)

/-- The bytes of a plain row segment that holds the given elements. -/
def Flight.rowBytes (f : Flight) (n : Nat) (el : Nat → Nat) : List Byte :=
  if f.wide then
    (List.range (f.recCols n)).flatMap (fun j =>
      toBytes 2 (el j + (if f.format = 3 ∧ (el j).testBit 11 then 0xF000 else 0)))
  else
    (packRow (fun j => if j < f.recCols n then el j else 0)).take ((f.recCols n + 1) / 2 * 3)

/-- The rows of record n as PACK reads them. -/
def Eng.plainRows (x : Eng) (o : Slot) (f : Flight) (n : Nat) : Eng × List (List Byte) :=
  (List.range (f.recRows n)).foldl (fun (acc : Eng × List (List Byte)) i =>
    let s := f.rowAt f.src n i
    let r := acc.1.read o s.1 s.2
    (r.1, acc.2 ++ [r.2])) (x, [])

/-- The first element error of record n: its row and column in the matrix. -/
def Flight.elError (f : Flight) (n : Nat) (rows : List (List Byte)) : Option (Nat × Nat) :=
  ((pairs (f.recRows n) (f.recCols n)).find? (fun q => f.elBad (f.elOf (rows.getD q.1 []) q.2))).map (fun q =>
    (32 * (n / f.across) + q.1, 32 * (n % f.across) + q.2))

/-- PACK of record n (R143): the record that TSTORE writes, or the element error that stops the operation. A poisoned source is not judged:
its record is written poisoned (R318). -/
def Done.packRec (d : Done) (o : Slot) (f : Flight) (n : Nat) : Done :=
  if d.st ≠ 0 ∨ d.x.ended then d
  else
    let r := d.x.plainRows o f n
    match if r.1.poison then none else f.elError n r.2 with
    | some (i, j) => { x := r.1, res := BitVec.ofNat 64 (i + j * 2 ^ 32), st := 9 }
    | none =>
      let el := fun i j => if i < f.recRows n ∧ j < f.recCols n then f.elOf (r.2.getD i []) j % 4096 else 0
      { d with x := r.1.write o (f.dst + f.stride * n) (mkRecord (f.recWord n) (f.recTag n) el) }

def opPack (o : Slot) (f : Flight) (x : Eng) : Done :=
  (List.range f.records).foldl (fun (d : Done) n => d.packRec o f n) { x := x, res := 0 }

/-- The KIND under which record n fails (R126, R382): 1 checksum, 3 header, or a FORMAT or shape other than the descriptor's,
2 tag; 0 where it passes. -/
def Flight.recKind (f : Flight) (n : Nat) (r : List Byte) : Nat :=
  let l := recFails r (f.recTag n)
  let w := recCfg r
  if l.contains 1 then 1
  else if l.contains 3 || cfgKind w != f.format || cfgRows w != f.recRows n || cfgCols w != f.recCols n then 3
  else if l.contains 2 then 2 else 0

/-- What UNPACK and VERIFY count. -/
structure Tally where
  x : Eng
  done : Nat
  failed : Nat
  first : Nat
  kind : Nat

/-- RESULT of UNPACK and VERIFY (R382). -/
def Tally.word (t : Tally) : Word :=
  BitVec.ofNat 64 (t.done % 2 ^ 21 + t.failed % 2 ^ 21 * 2 ^ 21 + t.first % 2 ^ 20 * 2 ^ 42 + t.kind % 4 * 2 ^ 62)

/-- The plain rows of record n are written. -/
def Eng.putRows (x : Eng) (o : Slot) (f : Flight) (n : Nat) (r : List Byte) : Eng :=
  (List.range (f.recRows n)).foldl (fun (y : Eng) i =>
    if y.ended then y else y.write o (f.rowAt f.dst n i).1 (f.rowBytes n (recEl r i))) x

/-- Record n is verified (R144): a failure is reported under the instance's source with the header's address, as the descriptor gives it (log
entry 123, DESIGN CHOICE), and its rows are not written; a record read poisoned is not judged. -/
def Tally.step (t : Tally) (o : Slot) (f : Flight) (rows : Bool) (n : Nat) : Tally :=
  if t.x.ended then t
  else
    let a := f.src + f.stride * n
    let r := ({ t.x with poison := false } : Eng).read o a 1600
    let poisoned := r.1.poison
    let kind := if poisoned ∨ r.1.ended then 0 else f.recKind n r.2
    let all := fun (y : Eng) => { y with poison := y.poison || t.x.poison }
    if kind ≠ 0 then
      let y := (all r.1).onChip (fun c =>
        c.report (unitCluster o.c) (512 + instIndex o.c o.k) o.rid (c.instOwner o.c o.k) 0 0 (a % 2 ^ 52))
      { x := y, done := t.done + 1, failed := t.failed + 1, first := if t.failed = 0 then n else t.first
        kind := if t.failed = 0 then kind else t.kind }
    else
      let y := if rows then r.1.putRows o f n r.2 else r.1
      { t with x := all y, done := t.done + 1 }

def opVerifyWith (rows : Bool) (o : Slot) (f : Flight) (x : Eng) : Done :=
  let t := (List.range f.records).foldl (fun (t : Tally) n => t.step o f rows n)
    { x := x, done := 0, failed := 0, first := 0, kind := 0 }
  { x := t.x, res := t.word, st := if t.failed = 0 then 0 else 8 }

def opUnpack (o : Slot) (f : Flight) (x : Eng) : Done := opVerifyWith true o f x
def opVerify (o : Slot) (f : Flight) (x : Eng) : Done := opVerifyWith false o f x

-- cryptography

/-- GCM: key, IV and additional data are read, then the input. -/
def Eng.gcmInputs (x : Eng) (o : Slot) (f : Flight) (n : Nat) : Eng × List Nat × List Nat × List Nat × List Nat :=
  let k := x.readKey o (f.num 32 8) f.keyBytes
  let iv := k.1.read o (f.num 40 8) 12
  let aad := iv.1.read o (f.num 48 8) (f.num 56 4)
  let inp := aad.1.read o f.src n
  (inp.1, nums k.2, nums iv.2, nums aad.2, nums inp.2)

/-- GCM_ENC: the ciphertext at DST, and the tag after it. -/
def opGcmEnc (o : Slot) (f : Flight) (x : Eng) : Done :=
  let r := x.gcmInputs o f f.len
  if r.1.ended then { x := r.1, res := 0 }
  else
    let q := gcmSeal r.2.1 r.2.2.1 r.2.2.2.1 r.2.2.2.2
    { x := r.1.write o f.dst (unnums (q.1 ++ q.2)), res := 0 }

/-- GCM_DEC: the tag stands after the ciphertext at SRC; on a mismatch DST is zeroed, with STATUS 7. -/
def opGcmDec (o : Slot) (f : Flight) (x : Eng) : Done :=
  let r := x.gcmInputs o f (f.len + 16)
  if r.1.ended then { x := r.1, res := 0 }
  else
    let inp := r.2.2.2.2
    match gcmOpen r.2.1 r.2.2.1 r.2.2.2.1 (inp.take f.len) (inp.drop f.len) with
    | some pt => { x := r.1.write o f.dst (unnums pt), res := 0 }
    | none =>
      { x := r.1.write o f.dst (List.replicate f.len 0), res := 0, st := 7 }

def opXts (dec : Bool) (o : Slot) (f : Flight) (x : Eng) : Done :=
  let k := x.readKey o (f.num 32 8) (2 * f.keyBytes)
  let t := k.1.read o (f.num 40 8) 16
  let r := t.1.read o f.src f.len
  if r.1.ended then { x := r.1, res := 0 }
  else { x := r.1.write o f.dst (unnums (xts dec (nums k.2) (nums t.2) (nums r.2))), res := 0 }

def opXtsEnc (o : Slot) (f : Flight) (x : Eng) : Done := opXts false o f x
def opXtsDec (o : Slot) (f : Flight) (x : Eng) : Done := opXts true o f x

/-- HASH: the digest at DST, its length as RESULT. -/
def opHash (o : Slot) (f : Flight) (x : Eng) : Done :=
  let r := x.read o f.src f.len
  let d := digest (f.num 60 1) (nums r.2)
  let y := if r.1.ended then r.1 else r.1.write o f.dst (unnums d)
  y.resultOr 0 (BitVec.ofNat 64 (digestLen (f.num 60 1)))

-- compression

/-- A coder cannot go on: its STATUS, or, with a poisoned source, a poisoned destination (R318). -/
def Eng.coderStops (x : Eng) (o : Slot) (f : Flight) (st : Nat) : Done :=
  if x.poison then (x.write o f.dst (List.replicate f.cap 0)).resultOr 0 0 else x.resultOr st 0

/-- The output of a coder goes to DST: STATUS 5 where it exceeds the capacity. -/
def Eng.putOut (x : Eng) (o : Slot) (f : Flight) (out : List Nat) : Done :=
  if x.ended then x.resultOr 0 0
  else if f.cap < out.length then x.coderStops o f 5
  else (x.write o f.dst (unnums out)).resultOr 0 (BitVec.ofNat 64 out.length)

/-- A compressor: any stream that decompresses to the input, of the free bytes' choosing. -/
def opCompress (lz4 : Bool) (o : Slot) (f : Flight) (x : Eng) : Done :=
  let r := x.read o f.src f.len
  let n := r.1.freeWord
  let v := n.1.freeWord
  v.1.putOut o f (compressed lz4 (nums r.2) (Config.freeNat r.1.p.chip.free % (2 * f.len + 1024)) (Config.freeNat n.1.p.chip.free))

/-- A decompressor: STATUS 6 for malformed input; whether bytes after the end of the stream make it malformed is free. -/
def opExpand (run : List Nat → Option (List Nat × Bool)) (o : Slot) (f : Flight) (x : Eng) : Done :=
  let r := x.read o f.src f.len
  if r.1.ended then r.1.resultOr 0 0
  else match run (nums r.2) with
    | none => r.1.coderStops o f 6
    | some (out, more) =>
      if more && Config.freeNat r.1.p.chip.free % 2 == 1 then r.1.freeWord.1.coderStops o f 6 else r.1.freeWord.1.putOut o f out

def opDeflateC (o : Slot) (f : Flight) (x : Eng) : Done := opCompress false o f x
def opDeflateD (o : Slot) (f : Flight) (x : Eng) : Done := opExpand inflate o f x
def opLz4fC (o : Slot) (f : Flight) (x : Eng) : Done := opCompress true o f x
def opLz4fD (o : Slot) (f : Flight) (x : Eng) : Done := opExpand lz4Decode o f x

def execCopy (c k j : Nat) (s : State) : Result := need (jobOk c k j) (s.onPkg (fun p => p.runOp c k j 0x01 opCopy))
def execFill (c k j : Nat) (s : State) : Result := need (jobOk c k j) (s.onPkg (fun p => p.runOp c k j 0x02 opFill))
def execCompare (c k j : Nat) (s : State) : Result := need (jobOk c k j) (s.onPkg (fun p => p.runOp c k j 0x03 opCompare))
def execAtomic (c k j : Nat) (s : State) : Result := need (jobOk c k j) (s.onPkg (fun p => p.runOp c k j 0x04 opAtomic))
def execPack (c k j : Nat) (s : State) : Result := need (jobOk c k j) (s.onPkg (fun p => p.runOp c k j 0x10 opPack))
def execUnpack (c k j : Nat) (s : State) : Result := need (jobOk c k j) (s.onPkg (fun p => p.runOp c k j 0x11 opUnpack))
def execVerify (c k j : Nat) (s : State) : Result := need (jobOk c k j) (s.onPkg (fun p => p.runOp c k j 0x12 opVerify))
def execGcmEnc (c k j : Nat) (s : State) : Result := need (jobOk c k j) (s.onPkg (fun p => p.runOp c k j 0x20 opGcmEnc))
def execGcmDec (c k j : Nat) (s : State) : Result := need (jobOk c k j) (s.onPkg (fun p => p.runOp c k j 0x21 opGcmDec))
def execXtsEnc (c k j : Nat) (s : State) : Result := need (jobOk c k j) (s.onPkg (fun p => p.runOp c k j 0x22 opXtsEnc))
def execXtsDec (c k j : Nat) (s : State) : Result := need (jobOk c k j) (s.onPkg (fun p => p.runOp c k j 0x23 opXtsDec))
def execHash (c k j : Nat) (s : State) : Result := need (jobOk c k j) (s.onPkg (fun p => p.runOp c k j 0x24 opHash))
def execDeflateC (c k j : Nat) (s : State) : Result := need (jobOk c k j) (s.onPkg (fun p => p.runOp c k j 0x30 opDeflateC))
def execDeflateD (c k j : Nat) (s : State) : Result := need (jobOk c k j) (s.onPkg (fun p => p.runOp c k j 0x31 opDeflateD))
def execLz4fC (c k j : Nat) (s : State) : Result := need (jobOk c k j) (s.onPkg (fun p => p.runOp c k j 0x32 opLz4fC))
def execLz4fD (c k j : Nat) (s : State) : Result := need (jobOk c k j) (s.onPkg (fun p => p.runOp c k j 0x33 opLz4fD))

-- completion

/-- A line of an undefined destination (R381): free bytes, where the instance may write it. -/
def Pkg.spoilLine (p : Pkg) (o : Slot) (pa : Nat) (w : Word) : Pkg :=
  let line := pa / 64
  if !(p.chip.region pa).homed then p
  else
    let q := p.worldCheck o.rid (p.chip.instOwner o.c o.k) line
    if q.2.1 ≠ 0 || q.1.chip.targetRefuses o.rid line || !q.1.chip.ioIdle line then q.1
    else
      let old := q.1.coherentRead line
      let v := Line.merge old.1 (BitVec.ofNat 512 (Config.freeNat q.1.chip.free)) w
      (q.1.onChip (fun c => (c.purgeLine line).nextFree)).homeWrite line v old.2 (q.1.chip.classOf o.rid (q.1.chip.instLabel o.c o.k))

/-- The destination of a descriptor becomes undefined (R381, R387). -/
def Pkg.spoil (p : Pkg) (o : Slot) (f : Flight) : Pkg :=
  f.dest.foldl (fun (q : Pkg) d =>
    if d.2 = 0 then q
    else (linesOf d.1 d.2).foldl (fun (q : Pkg) line =>
      let s := spanIn d.1 d.2 line
      let r := (Eng.start q).spot o s.1 true
      match r.2 with
      | .pkg pa => r.1.p.spoilLine o pa (rangeMask pa s.2 (pa / 64))
      | _ => r.1.p) q) p

/-- A STATUS after which the destination is undefined: 2 to 10, but for what the manual says stands there (3 poisoned, 7 zero, 8 the
rows of the records that passed). -/
def spoils (st : Nat) : Bool := 2 ≤ st && st != 3 && st != 7 && st != 8

/-- A line that the descriptor wrote waits for the pair's target (R401). -/
def Chip.destWaits (x : Chip) (o : Slot) (f : Flight) : Bool :=
  !isMbx o.k && match x.bound o.c o.k with
  | none => f.dest.any (fun d => d.2 != 0 && x.syncWaits (d.1 / 64) ((d.1 + d.2 - 1) / 64))
  | some _ => f.dest != [] && x.syncWaits 0 (2 ^ 46)

/-- The 16 bytes of a completion (R378). -/
def Flight.record (f : Flight) (st : Nat) (res : Word) (phase : Bool) : List Byte :=
  (f.desc.drop 4).take 4 ++ toBytes 2 f.j ++ toBytes 1 st ++ toBytes 1 (flag phase) ++ toBytes 8 res.toNat

/-- The completion is visible: indices, the fault of a STATUS other than 0, and the event (R378, R379, R381). -/
def Chip.completed (x : Chip) (o : Slot) (f : Flight) (st : Nat) : Chip :=
  let r := Reg.SE_INST_STATUS o.c o.k
  let x1 := x.onInst o.c o.k (fun s => { s with
    inflight := s.inflight.drop 1
    cplNext := (f.j + 1) % x.ringSize o.c o.k
    phase := if f.j + 1 = x.ringSize o.c o.k then !s.phase else s.phase })
  let x2 := ((x1.setFld r F.SE_INST_STATUS_COMPLETED ((x1.fld r F.SE_INST_STATUS_COMPLETED + 1) % 2 ^ 24)).noteInflight o.c
    o.k).noteActive o.c
  let x3 := if st = 0 ∨ st = 8 then x2 else x2.instFault o.c o.k
  if !f.irq then x3
  else match x3.bound o.c o.k with
    | some (n, g) => x3.sendMsix n g (x3.fld (.SE_INST_CFG o.c o.k) F.SE_INST_CFG_VEC)
    | none => if isMbx o.k then x3 else x3.raiseEvent (instEvent o.c o.k)

/-- DRAIN_LIMIT after the reset that runs has passed. -/
def Chip.drainOver (x : Chip) (c k : Nat) : Bool :=
  match (x.inst c k).resetAt with
  | some t => t + x.fld (.SE_CL_CFG c) F.SE_CL_CFG_DRAIN_LIMIT ≤ x.now
  | none => false

/-- The completion of the oldest descriptor in flight (R378, R379): written once the descriptor's outcome is known and its writes
are visible; a refused write is a ring error (R388). -/
def Pkg.complete1 (p : Pkg) (c k : Nat) : Pkg :=
  let o : Slot := { c := c, k := k }
  match (p.chip.inst c k).inflight.head? with
  | none => p
  | some f =>
    match f.outcome with
    | none => p
    | some (st, res) =>
      let a := p.chip.ringBase (.SE_INST_CRING c k)
      if (p.chip.inst c k).cplOff || p.chip.destWaits o f then p
      else if !p.chip.instGo c k then p.onChip (fun x => x.instShort c k)
      else
        let q := if !isMbx k && spoils st then p.spoil o f else p
        let bad := q.chip.addrBad o a
        let y := if bad then (Eng.start q).fail 2
          else (Eng.start q).write o (a + 16 * f.j) (f.record st res (q.chip.inst c k).phase)
        if y.wait then p
        else if y.st ≠ 0 then y.p.onChip (fun x =>
          (x.ringError c k 3).onInst c k (fun s => { s with cplOff := true }))
        else y.p.onChip (fun x => x.completed o f st)

def execDescriptorCompletion (c k : Nat) (s : State) : Result := need (instOk c k) (s.onPkg (fun p => p.complete1 c k))

/-- DRAIN_LIMIT after a reset began (R387 step 4): what is still in progress is squashed, its destination undefined, and nothing
after it completes; nothing at all completes while the instance is handed over (R292). -/
def Pkg.drainExpired (p : Pkg) (c k : Nat) : Pkg :=
  let s := p.chip.inst c k
  if !p.chip.drainOver c k then p
  else
    let keep := if s.cplOff || p.chip.fld (instOwn c k) F.WLD_OWN_STATE != 0 then [] else s.inflight.takeWhile (fun f => f.outcome.isSome)
    let lost := s.inflight.filter (fun f => f.engine.isSome && !keep.contains f)
    let q := lost.foldl (fun (q : Pkg) f => q.spoil { c := c, k := k } f) p
    q.onChip (fun x => ((x.onInst c k (fun s => { s with inflight := keep })).noteInflight c k).noteActive c)

def execDrainLimitExpiry (c k : Nat) (s : State) : Result := need (instOk c k) (s.onPkg (fun p => p.drainExpired c k))

end Sys2Proof.Machine
end

