-- ==== Sys2Proof/Machine/Dispatch.lean ====
section
/-! DEFINITION. The dispatch of a command to its meaning: one arm per constructor of Instr. -/

namespace Sys2Proof.Machine

def exec (i : Instr) (s : State) : Host.Outcome State Fault Refusal :=
  match i with
  | .registerWrite who off v => Sys2Proof.Machine.execRegisterWrite who off v s
  | .load h rd va size signed err => Sys2Proof.Machine.execLoad h rd va size signed err s
  | .store h rs va size err => Sys2Proof.Machine.execStore h rs va size err s
  | .amo h op rd rs va size => Sys2Proof.Machine.execAmo h op rd rs va size s
  | .lr h rd va size => Sys2Proof.Machine.execLr h rd va size s
  | .sc h rd rs va size => Sys2Proof.Machine.execSc h rd rs va size s
  | .fence h pred succ => Sys2Proof.Machine.execFence h pred succ s
  | .instructionFetch h va => Sys2Proof.Machine.execInstructionFetch h va s
  | .cboClean h va => Sys2Proof.Machine.execCboClean h va s
  | .cboFlush h va => Sys2Proof.Machine.execCboFlush h va s
  | .cboInval h va => Sys2Proof.Machine.execCboInval h va s
  | .cboZero h va => Sys2Proof.Machine.execCboZero h va s
  | .prefetchIssue h pa next => Sys2Proof.Machine.execPrefetchIssue h pa next s
  | .interruptTaken h cause => Sys2Proof.Machine.execInterruptTaken h cause s
  | .mret h => Sys2Proof.Machine.execMret h s
  | .wfi h => Sys2Proof.Machine.execWfi h s
  | .predictorClearDone h => Sys2Proof.Machine.execPredictorClearDone h s
  | .mworldWrite h v => Sys2Proof.Machine.execMworldWrite h v s
  | .sqoslabelWrite h v => Sys2Proof.Machine.execSqoslabelWrite h v s
  | .tileCsrAccess h rd isFault wr => Sys2Proof.Machine.execTileCsrAccess h rd isFault wr s
  | .machineTimerInterrupt h => Sys2Proof.Machine.execMachineTimerInterrupt h s
  | .eventOccurrence n => Sys2Proof.Machine.execEventOccurrence n s
  | .msiDeliver n => Sys2Proof.Machine.execMsiDeliver n s
  | .evrSrcWrite who n v => Sys2Proof.Machine.execEvrSrcWrite who n v s
  | .evrSrcWriteDone n => Sys2Proof.Machine.execEvrSrcWriteDone n s
  | .evrDropClear who => Sys2Proof.Machine.execEvrDropClear who s
  | .evrSwtrig who v => Sys2Proof.Machine.execEvrSwtrig who v s
  | .evrTimerWrite who n v => Sys2Proof.Machine.execEvrTimerWrite who n v s
  | .evrTimerFire n => Sys2Proof.Machine.execEvrTimerFire n s
  | .deviceMsi fn die core file ident => Sys2Proof.Machine.execDeviceMsi fn die core file ident s
  | .hartReset who h => Sys2Proof.Machine.execHartReset who h s
  | .hartResetDone h => Sys2Proof.Machine.execHartResetDone h s
  | .corePowerOff who h => Sys2Proof.Machine.execCorePowerOff who h s
  | .corePowerOn who h => Sys2Proof.Machine.execCorePowerOn who h s
  | .msipWrite who h b => Sys2Proof.Machine.execMsipWrite who h b s
  | .coreFailed die phys => Sys2Proof.Machine.execCoreFailed die phys s
  | .haltreq h => Sys2Proof.Machine.execHaltreq h s
  | .resumereq h => Sys2Proof.Machine.execResumereq h s
  | .triggerFire h debugAction addr => Sys2Proof.Machine.execTriggerFire h debugAction addr s
  | .dmcontrolHartreset h => Sys2Proof.Machine.execDmcontrolHartreset h s
  | .ndmreset st => Sys2Proof.Machine.execNdmreset st s
  | .abstractRegisterAccess h regno wr => Sys2Proof.Machine.execAbstractRegisterAccess h regno wr s
  | .tmma h c a b bad => Sys2Proof.Machine.execTmma h c a b bad s
  | .tmmat h c a b bad => Sys2Proof.Machine.execTmmat h c a b bad s
  | .taddAa h d src bad => Sys2Proof.Machine.execTaddAa h d src bad s
  | .taddAt h d src bad => Sys2Proof.Machine.execTaddAt h d src bad s
  | .tzeroTile h t => Sys2Proof.Machine.execTzeroTile h t s
  | .tzeroAcc h a => Sys2Proof.Machine.execTzeroAcc h a s
  | .tchkTile h t => Sys2Proof.Machine.execTchkTile h t s
  | .tchkAcc h a => Sys2Proof.Machine.execTchkAcc h a s
  | .tcfgTile h t rs1 => Sys2Proof.Machine.execTcfgTile h t rs1 s
  | .tcfgAcc h a rs1 => Sys2Proof.Machine.execTcfgAcc h a rs1 s
  | .tsumsTile h rd t rs1 => Sys2Proof.Machine.execTsumsTile h rd t rs1 s
  | .tsumsAcc h rd a rs1 => Sys2Proof.Machine.execTsumsAcc h rd a rs1 s
  | .tcvt h t a rs1 rm => Sys2Proof.Machine.execTcvt h t a rs1 rm s
  | .tload h t rs1 rs2 => Sys2Proof.Machine.execTload h t rs1 rs2 s
  | .tstore h t rs1 rs2 => Sys2Proof.Machine.execTstore h t rs1 rs2 s
  | .tloadu h t rs1 rs2 => Sys2Proof.Machine.execTloadu h t rs1 rs2 s
  | .tstoreu h t rs1 rs2 => Sys2Proof.Machine.execTstoreu h t rs1 rs2 s
  | .tsave h rs1 => Sys2Proof.Machine.execTsave h rs1 s
  | .trestore h rs1 => Sys2Proof.Machine.execTrestore h rs1 s
  | .tileInstructionComplete h => Sys2Proof.Machine.execTileInstructionComplete h s
  | .l2Eviction h line => Sys2Proof.Machine.execL2Eviction h line s
  | .wbBufferHit h line => Sys2Proof.Machine.execWbBufferHit h line s
  | .cmeClean who die v => Sys2Proof.Machine.execCmeClean who die v s
  | .cmeInvalidate who die v => Sys2Proof.Machine.execCmeInvalidate who die v s
  | .cmeCleanInvalidate who die v => Sys2Proof.Machine.execCmeCleanInvalidate who die v s
  | .cmeAbort who die => Sys2Proof.Machine.execCmeAbort who die s
  | .cmeDone die => Sys2Proof.Machine.execCmeDone die s
  | .hallMntClean who hall v => Sys2Proof.Machine.execHallMntClean who hall v s
  | .hallMntInvalidate who hall v => Sys2Proof.Machine.execHallMntInvalidate who hall v s
  | .hallMntCleanInvalidate who hall v => Sys2Proof.Machine.execHallMntCleanInvalidate who hall v s
  | .hallMntAbort who hall => Sys2Proof.Machine.execHallMntAbort who hall s
  | .hallMntDone hall => Sys2Proof.Machine.execHallMntDone hall s
  | .pkgRatBaseWrite who n v => Sys2Proof.Machine.execPkgRatBaseWrite who n v s
  | .pkgRatLimitWrite who n v => Sys2Proof.Machine.execPkgRatLimitWrite who n v s
  | .disableTracking who c => Sys2Proof.Machine.execDisableTracking who c s
  | .disableDark who c => Sys2Proof.Machine.execDisableDark who c s
  | .disableOff who c => Sys2Proof.Machine.execDisableOff who c s
  | .enableInvalidate who c => Sys2Proof.Machine.execEnableInvalidate who c s
  | .enableKeep who c => Sys2Proof.Machine.execEnableKeep who c s
  | .forceKeep who c => Sys2Proof.Machine.execForceKeep who c s
  | .cacheCmdDone c => Sys2Proof.Machine.execCacheCmdDone c s
  | .rdShared m => Sys2Proof.Machine.execRdShared m s
  | .rdOwn m => Sys2Proof.Machine.execRdOwn m s
  | .upgrade m => Sys2Proof.Machine.execUpgrade m s
  | .rdOwnZero m => Sys2Proof.Machine.execRdOwnZero m s
  | .cmoClean m => Sys2Proof.Machine.execCmoClean m s
  | .cmoFlush m => Sys2Proof.Machine.execCmoFlush m s
  | .cmoInval m => Sys2Proof.Machine.execCmoInval m s
  | .rdOnce m => Sys2Proof.Machine.execRdOnce m s
  | .wrFull m => Sys2Proof.Machine.execWrFull m s
  | .wrPart m => Sys2Proof.Machine.execWrPart m s
  | .ioAtomic m => Sys2Proof.Machine.execIoAtomic m s
  | .wbData m => Sys2Proof.Machine.execWbData m s
  | .evictClean m => Sys2Proof.Machine.execEvictClean m s
  | .compAck m => Sys2Proof.Machine.execCompAck m s
  | .snpShared m => Sys2Proof.Machine.execSnpShared m s
  | .snpOwn m => Sys2Proof.Machine.execSnpOwn m s
  | .snpInv m => Sys2Proof.Machine.execSnpInv m s
  | .snpOnce m => Sys2Proof.Machine.execSnpOnce m s
  | .snpClean m => Sys2Proof.Machine.execSnpClean m s
  | .backInv m => Sys2Proof.Machine.execBackInv m s
  | .rsp m => Sys2Proof.Machine.execRsp m s
  | .fwdData m => Sys2Proof.Machine.execFwdData m s
  | .comp m => Sys2Proof.Machine.execComp m s
  | .data m => Sys2Proof.Machine.execData m s
  | .wbAck m => Sys2Proof.Machine.execWbAck m s
  | .wbAckStale m => Sys2Proof.Machine.execWbAckStale m s
  | .wchk m => Sys2Proof.Machine.execWchk m s
  | .wchkRsp m => Sys2Proof.Machine.execWchkRsp m s
  | .ioRd m => Sys2Proof.Machine.execIoRd m s
  | .ioWr m => Sys2Proof.Machine.execIoWr m s
  | .ioRsp m => Sys2Proof.Machine.execIoRsp m s
  | .ioAck m => Sys2Proof.Machine.execIoAck m s
  | .hallRd m => Sys2Proof.Machine.execHallRd m s
  | .holdWindowEnd h line => Sys2Proof.Machine.execHoldWindowEnd h line s
  | .hallDiePurge hall die => Sys2Proof.Machine.execHallDiePurge hall die s
  | .diePurgeDone die => Sys2Proof.Machine.execDiePurgeDone die s
  | .packetHop r port plane vc inj err => Sys2Proof.Machine.execPacketHop r port plane vc inj err s
  | .creditReturn r port plane vc => Sys2Proof.Machine.execCreditReturn r port plane vc s
  | .fenceMark r port src plane vc => Sys2Proof.Machine.execFenceMark r port src plane vc s
  | .fenceDrained r port => Sys2Proof.Machine.execFenceDrained r port s
  | .unfence who r v => Sys2Proof.Machine.execUnfence who r v s
  | .fenceHoldTimeout r => Sys2Proof.Machine.execFenceHoldTimeout r s
  | .unavail m => Sys2Proof.Machine.execUnavail m s
  | .galPortCtlWrite who r v => Sys2Proof.Machine.execGalPortCtlWrite who r v s
  | .galIdWrite who r v => Sys2Proof.Machine.execGalIdWrite who r v s
  | .traceRec r => Sys2Proof.Machine.execTraceRec r s
  | .bundleReceive k atDie b => Sys2Proof.Machine.execBundleReceive k atDie b s
  | .nak k atDie ackSeq => Sys2Proof.Machine.execNak k atDie ackSeq s
  | .replayTimeout k atDie => Sys2Proof.Machine.execReplayTimeout k atDie s
  | .linkDown k atDie lastSeq => Sys2Proof.Machine.execLinkDown k atDie lastSeq s
  | .linkSync k atDie lastSeq => Sys2Proof.Machine.execLinkSync k atDie lastSeq s
  | .ident die st => Sys2Proof.Machine.execIdent die st s
  | .identAck die => Sys2Proof.Machine.execIdentAck die s
  | .hold die cause => Sys2Proof.Machine.execHold die cause s
  | .keepalive k => Sys2Proof.Machine.execKeepalive k s
  | .quiesce who die => Sys2Proof.Machine.execQuiesce who die s
  | .quiesced die => Sys2Proof.Machine.execQuiesced die s
  | .dieQuiesceDone die => Sys2Proof.Machine.execDieQuiesceDone die s
  | .dieReset who die st => Sys2Proof.Machine.execDieReset who die st s
  | .diePowerOff who die => Sys2Proof.Machine.execDiePowerOff who die s
  | .dieResponseTimeout die => Sys2Proof.Machine.execDieResponseTimeout die s
  | .refclkFailure => Sys2Proof.Machine.execRefclkFailure s
  | .holdoverExit => Sys2Proof.Machine.execHoldoverExit s
  | .supplyChange rail mv tj => Sys2Proof.Machine.execSupplyChange rail mv tj s
  | .droopEvent die mv => Sys2Proof.Machine.execDroopEvent die mv s
  | .brownout die => Sys2Proof.Machine.execBrownout die s
  | .retentionLost die => Sys2Proof.Machine.execRetentionLost die s
  | .railRecovery die mv => Sys2Proof.Machine.execRailRecovery die mv s
  | .iodBrownout retention => Sys2Proof.Machine.execIodBrownout retention s
  | .phyRailFault rail => Sys2Proof.Machine.execPhyRailFault rail s
  | .vMinReset who die => Sys2Proof.Machine.execVMinReset who die s
  | .pacerUpdate die => Sys2Proof.Machine.execPacerUpdate die s
  | .pkgPacerUpdate => Sys2Proof.Machine.execPkgPacerUpdate s
  | .droopNAssert => Sys2Proof.Machine.execDroopNAssert s
  | .droopNRelease => Sys2Proof.Machine.execDroopNRelease s
  | .droopHoldExpiry die => Sys2Proof.Machine.execDroopHoldExpiry die s
  | .pmbusTelemetryRead rail answered => Sys2Proof.Machine.execPmbusTelemetryRead rail answered s
  | .powerSample watts => Sys2Proof.Machine.execPowerSample watts s
  | .peakOverrun => Sys2Proof.Machine.execPeakOverrun s
  | .pkgPowerCfgWrite who v => Sys2Proof.Machine.execPkgPowerCfgWrite who v s
  | .tread hall ready err => Sys2Proof.Machine.execTread hall ready err s
  | .revolutionBoundary hall => Sys2Proof.Machine.execRevolutionBoundary hall s
  | .dimmThermalRead hall celsius => Sys2Proof.Machine.execDimmThermalRead hall celsius s
  | .tokenRefill port => Sys2Proof.Machine.execTokenRefill port s
  | .limitDivision => Sys2Proof.Machine.execLimitDivision s
  | .qosBytesSum => Sys2Proof.Machine.execQosBytesSum s
  | .windowEnd hall => Sys2Proof.Machine.execWindowEnd hall s
  | .qosCommit who v => Sys2Proof.Machine.execQosCommit who v s
  | .qosCommitDone => Sys2Proof.Machine.execQosCommitDone s
  | .scaleRecompute => Sys2Proof.Machine.execScaleRecompute s
  | .wldCommit who => Sys2Proof.Machine.execWldCommit who s
  | .wldFormatDone => Sys2Proof.Machine.execWldFormatDone s
  | .transit who v => Sys2Proof.Machine.execTransit who v s
  | .scrub who v => Sys2Proof.Machine.execScrub who v s
  | .transfer who v => Sys2Proof.Machine.execTransfer who v s
  | .unassign who v => Sys2Proof.Machine.execUnassign who v s
  | .assign who v => Sys2Proof.Machine.execAssign who v s
  | .share who v => Sys2Proof.Machine.execShare who v s
  | .unshare who v => Sys2Proof.Machine.execUnshare who v s
  | .potOpDone => Sys2Proof.Machine.execPotOpDone s
  | .potQuery who v => Sys2Proof.Machine.execPotQuery who v s
  | .release who b dst => Sys2Proof.Machine.execRelease who b dst s
  | .releaseDone b => Sys2Proof.Machine.execReleaseDone b s
  | .claim who b => Sys2Proof.Machine.execClaim who b s
  | .powerDownRequest who kind index => Sys2Proof.Machine.execPowerDownRequest who kind index s
  | .powerUpRequest who kind index => Sys2Proof.Machine.execPowerUpRequest who kind index s
  | .powerDownDone => Sys2Proof.Machine.execPowerDownDone s
  | .consentWrite who w v => Sys2Proof.Machine.execConsentWrite who w v s
  | .unlockToken token => Sys2Proof.Machine.execUnlockToken token s
  | .debugGrantExpiry => Sys2Proof.Machine.execDebugGrantExpiry s
  | .revoke who => Sys2Proof.Machine.execRevoke who s
  | .mend array inst bank => Sys2Proof.Machine.execMend array inst bank s
  | .mendForced array inst bank => Sys2Proof.Machine.execMendForced array inst bank s
  | .patrolRead hall err => Sys2Proof.Machine.execPatrolRead hall err s
  | .chanReturn who hall => Sys2Proof.Machine.execChanReturn who hall s
  | .chanReturnDone hall trainOk => Sys2Proof.Machine.execChanReturnDone hall trainOk s
  | .faultReport unit => Sys2Proof.Machine.execFaultReport unit s
  | .reportOverflow unit => Sys2Proof.Machine.execReportOverflow unit s
  | .pendClear who n => Sys2Proof.Machine.execPendClear who n s
  | .faultConditionEnd n => Sys2Proof.Machine.execFaultConditionEnd n s
  | .fcSrcWrite who n v => Sys2Proof.Machine.execFcSrcWrite who n v s
  | .collectorParityError => Sys2Proof.Machine.execCollectorParityError s
  | .portCommit who n => Sys2Proof.Machine.execPortCommit who n s
  | .portLinkUp n j rate width flit cxl => Sys2Proof.Machine.execPortLinkUp n j rate width flit cxl s
  | .ecamAccess who addr wr => Sys2Proof.Machine.execEcamAccess who addr wr s
  | .pcieWindowAccess who addr size wr => Sys2Proof.Machine.execPcieWindowAccess who addr size wr s
  | .downstreamRequest n j rid addr wr => Sys2Proof.Machine.execDownstreamRequest n j rid addr wr s
  | .bar2Request n f off wr => Sys2Proof.Machine.execBar2Request n f off wr s
  | .ssbFrame n b0 b1 b2 b3 => Sys2Proof.Machine.execSsbFrame n b0 b1 b2 b3 s
  | .slotControlWrite n j v => Sys2Proof.Machine.execSlotControlWrite n j v s
  | .pwrGoodTimeout n j => Sys2Proof.Machine.execPwrGoodTimeout n j s
  | .perstRelease n j => Sys2Proof.Machine.execPerstRelease n j s
  | .winCommit who n => Sys2Proof.Machine.execWinCommit who n s
  | .winDrainDone n => Sys2Proof.Machine.execWinDrainDone n s
  | .barUpperWrite n f bar v => Sys2Proof.Machine.execBarUpperWrite n f bar v s
  | .dStateChange n f d3 => Sys2Proof.Machine.execDStateChange n f d3 s
  | .perstInFall n j => Sys2Proof.Machine.execPerstInFall n j s
  | .pmeReceived n j => Sys2Proof.Machine.execPmeReceived n j s
  | .flr who n f => Sys2Proof.Machine.execFlr who n f s
  | .flrDone n f => Sys2Proof.Machine.execFlrDone n f s
  | .completionTimeout n j tag => Sys2Proof.Machine.execCompletionTimeout n j tag s
  | .lateCompletion n j tag => Sys2Proof.Machine.execLateCompletion n j tag s
  | .intxReceived n j => Sys2Proof.Machine.execIntxReceived n j s
  | .restart who n j => Sys2Proof.Machine.execRestart who n j s
  | .pageSelWrite n f v => Sys2Proof.Machine.execPageSelWrite n f v s
  | .seDbTailWrite who c k v => Sys2Proof.Machine.execSeDbTailWrite who c k v s
  | .seDbCplHeadWrite who c k v => Sys2Proof.Machine.execSeDbCplHeadWrite who c k v s
  | .descriptorFetch c k => Sys2Proof.Machine.execDescriptorFetch c k s
  | .segmentBoundary c e => Sys2Proof.Machine.execSegmentBoundary c e s
  | .copy c k j => Sys2Proof.Machine.execCopy c k j s
  | .fill c k j => Sys2Proof.Machine.execFill c k j s
  | .compare c k j => Sys2Proof.Machine.execCompare c k j s
  | .atomic c k j => Sys2Proof.Machine.execAtomic c k j s
  | .pack c k j => Sys2Proof.Machine.execPack c k j s
  | .unpack c k j => Sys2Proof.Machine.execUnpack c k j s
  | .verify c k j => Sys2Proof.Machine.execVerify c k j s
  | .gcmEnc c k j => Sys2Proof.Machine.execGcmEnc c k j s
  | .gcmDec c k j => Sys2Proof.Machine.execGcmDec c k j s
  | .xtsEnc c k j => Sys2Proof.Machine.execXtsEnc c k j s
  | .xtsDec c k j => Sys2Proof.Machine.execXtsDec c k j s
  | .hash c k j => Sys2Proof.Machine.execHash c k j s
  | .deflateC c k j => Sys2Proof.Machine.execDeflateC c k j s
  | .deflateD c k j => Sys2Proof.Machine.execDeflateD c k j s
  | .lz4fC c k j => Sys2Proof.Machine.execLz4fC c k j s
  | .lz4fD c k j => Sys2Proof.Machine.execLz4fD c k j s
  | .descriptorCompletion c k => Sys2Proof.Machine.execDescriptorCompletion c k s
  | .seInstShareWrite who c k v => Sys2Proof.Machine.execSeInstShareWrite who c k v s
  | .enable who c k => Sys2Proof.Machine.execEnable who c k s
  | .reset who c k => Sys2Proof.Machine.execReset who c k s
  | .drainLimitExpiry c k => Sys2Proof.Machine.execDrainLimitExpiry c k s
  | .instanceResetDone c k => Sys2Proof.Machine.execInstanceResetDone c k s
  | .ringError c k cause => Sys2Proof.Machine.execRingError c k cause s
  | .mailboxDelivery c k => Sys2Proof.Machine.execMailboxDelivery c k s
  | .seDbReturn who c k v => Sys2Proof.Machine.execSeDbReturn who c k v s
  | .pairAliveToggle => Sys2Proof.Machine.execPairAliveToggle s
  | .pairAliveTimeout => Sys2Proof.Machine.execPairAliveTimeout s
  | .pairDiscovery a b => Sys2Proof.Machine.execPairDiscovery a b s
  | .pairHb state source safe notReady time queued => Sys2Proof.Machine.execPairHb state source safe notReady time queued s
  | .pairHbSend => Sys2Proof.Machine.execPairHbSend s
  | .pairHbTimeout => Sys2Proof.Machine.execPairHbTimeout s
  | .pairYield => Sys2Proof.Machine.execPairYield s
  | .pairCfg u => Sys2Proof.Machine.execPairCfg u s
  | .mirWr link region poison copy line seq data => Sys2Proof.Machine.execMirWr link region poison copy line seq data s
  | .mirAck region seq refused => Sys2Proof.Machine.execMirAck region seq refused s
  | .mirAckSend => Sys2Proof.Machine.execMirAckSend s
  | .pairCommit who => Sys2Proof.Machine.execPairCommit who s
  | .forceSource who => Sys2Proof.Machine.execForceSource who s
  | .resync n page => Sys2Proof.Machine.execResync n page s
  | .resyncDone => Sys2Proof.Machine.execResyncDone s
  | .pairLinkRetry trains peer => Sys2Proof.Machine.execPairLinkRetry trains peer s
  | .standbyPowerGood slotA slotB st => Sys2Proof.Machine.execStandbyPowerGood slotA slotB st s
  | .uzomurisReset => Sys2Proof.Machine.execUzomurisReset s
  | .watchdogRestart => Sys2Proof.Machine.execWatchdogRestart s
  | .packageReset st => Sys2Proof.Machine.execPackageReset st s
  | .pkgReset who st => Sys2Proof.Machine.execPkgReset who st s
  | .resetNFall st => Sys2Proof.Machine.execResetNFall st s
  | .mainPowerOn hot st => Sys2Proof.Machine.execMainPowerOn hot st s
  | .powerOffRequest => Sys2Proof.Machine.execPowerOffRequest s
  | .pkgCommit who => Sys2Proof.Machine.execPkgCommit who s
  | .thermalSensorRead temps => Sys2Proof.Machine.execThermalSensorRead temps s
  | .dimmCapStep => Sys2Proof.Machine.execDimmCapStep s
  | .thermtrip die => Sys2Proof.Machine.execThermtrip die s
  | .mctpMessage type body st => Sys2Proof.Machine.execMctpMessage type body st s
  | .uzMbxGo who n v => Sys2Proof.Machine.execUzMbxGo who n v s
  | .uzMbxAnswer n => Sys2Proof.Machine.execUzMbxAnswer n s
  | .lifeRecordWrite type payload => Sys2Proof.Machine.execLifeRecordWrite type payload s
  | .hourlyRecords => Sys2Proof.Machine.execHourlyRecords s
  | .compaction => Sys2Proof.Machine.execCompaction s
  | .uzLrReadWrite who v => Sys2Proof.Machine.execUzLrReadWrite who v s
  | .fenceCommand who r v => Sys2Proof.Machine.execFenceCommand who r v s
  | .pairAliveIEdge => Sys2Proof.Machine.execPairAliveIEdge s
  | .portLinkDown n j => Sys2Proof.Machine.execPortLinkDown n j s
  | .aerErrorMessage n j fatal => Sys2Proof.Machine.execAerErrorMessage n j fatal s
  | .hostConfigWrite n f off v => Sys2Proof.Machine.execHostConfigWrite n f off v s
  | .iommuCommand n => Sys2Proof.Machine.execIommuCommand n s
  | .redfishRequest op image st => Sys2Proof.Machine.execRedfishRequest op image st s
  | .lagLimitReached n => Sys2Proof.Machine.execLagLimitReached n s
  | .compactionDone => Sys2Proof.Machine.execCompactionDone s
  | .corePowerOffDone h => Sys2Proof.Machine.execCorePowerOffDone h s
  | .mainPowerOnRetry hot st => Sys2Proof.Machine.execMainPowerOnRetry hot st s

end Sys2Proof.Machine
end

