-- ==== Sys2Proof/Machine/Step.lean ====
section
/-! DEFINITION. One step of the block: the command at the front of the queue, or one tick of package time. -/

namespace Sys2Proof.Machine

/-- One step. The command at the front of the queue is performed with the queue's rest; an empty queue lets package time
advance by one count (R37; assumption 2, DESIGN CHOICE). -/
def step (s : State) : Host.Outcome State Fault Refusal :=
  match s.pending with
  | [] => s.onChip Chip.tick
  | i :: rest => exec i { s with pending := rest }

/-- The state with the command a word spells put at the front of its queue; the state itself where the word spells
none. -/
def State.withFetchWord (s : State) (nbits w : Nat) : State :=
  match decodeTableWord nbits w with
  | some i => { s with pending := i :: s.pending }
  | none => s

end Sys2Proof.Machine
end

