-- ==== Sys2Proof/WellFormed.lean ====
section
/-! DEFINITION. Which commands are well-formed: every operand in the range the manual gives it (a hart 0 to 287, a slot 0 to 543
and so on), and a message of the kind its row names. Every well-formed command has a meaning that answers a next state. -/

namespace Sys2Proof

open Sys2Proof.Machine in
/-- The operand checks of each command. -/
def Instr.wellFormed (i : Instr) : Bool :=
  match i with
  | .registerWrite who off _ => whoOk who && off < 2 ^ 30 && off % 8 == 0
  | .load h rd va size _ err => hartOk h && hregOk rd size && vaOk va && errOk err
  | .store h rs va size err => hartOk h && hregOk rs size && vaOk va && errOk err
  | .amo h op rd rs va size => hartOk h && amoOk op rd rs size && vaOk va
  | .lr h rd va size => hartOk h && regOk rd && (size == 4 || size == 8) && vaOk va
  | .sc h rd rs va size => hartOk h && regOk rd && regOk rs && (size == 4 || size == 8) && vaOk va
  | .fence h pred succ => hartOk h && pred < 16 && succ < 16
  | .instructionFetch h va => hartOk h && vaOk va && va % 2 == 0
  | .cboClean h va => hartOk h && vaOk va
  | .cboFlush h va => hartOk h && vaOk va
  | .cboInval h va => hartOk h && vaOk va
  | .cboZero h va => hartOk h && vaOk va
  | .prefetchIssue h pa next => hartOk h && pa < 2 ^ 52 && next < 2 ^ 52
  | .interruptTaken h cause => hartOk h && cause < 64
  | .mret h => hartOk h
  | .wfi h => hartOk h
  | .predictorClearDone h => hartOk h
  | .mworldWrite h _ => hartOk h
  | .sqoslabelWrite h _ => hartOk h
  | .tileCsrAccess h rd _ _ => hartOk h && regOk rd
  | .machineTimerInterrupt h => hartOk h
  | .eventOccurrence n => srcOk n
  | .msiDeliver n => srcOk n
  | .evrSrcWrite _ n _ => srcOk n
  | .evrSrcWriteDone n => srcOk n
  | .evrDropClear _ => true
  | .evrSwtrig _ _ => true
  | .evrTimerWrite _ n _ => timerOk n
  | .evrTimerFire n => timerOk n
  | .deviceMsi fn die core file id => fn < 2560 && die < 12 && core < 24 && file < 8 && id < 2 ^ 32
  | .hartReset _ h => hartOk h
  | .hartResetDone h => hartOk h
  | .corePowerOff _ h => hartOk h
  | .corePowerOn _ h => hartOk h
  | .msipWrite _ h _ => hartOk h
  | .coreFailed d phys => d < 12 && phys < 26
  | .haltreq h => hartOk h
  | .resumereq h => hartOk h
  | .triggerFire h _ addr => hartOk h && vaOk addr
  | .dmcontrolHartreset h => hartOk h
  | .ndmreset st => pkgStartOk st
  | .abstractRegisterAccess h regno _ => hartOk h && regno < 65536
  | .tmma h c a b bad => hartOk h && aOk c && tOk a && tOk b && badOk bad
  | .tmmat h c a b bad => hartOk h && aOk c && tOk a && tOk b && badOk bad
  | .taddAa h d a bad => hartOk h && aOk d && aOk a && badOk bad
  | .taddAt h d t bad => hartOk h && aOk d && tOk t && badOk bad
  | .tzeroTile h t => hartOk h && tOk t
  | .tzeroAcc h a => hartOk h && aOk a
  | .tchkTile h t => hartOk h && tOk t
  | .tchkAcc h a => hartOk h && aOk a
  | .tcfgTile h t r => hartOk h && tOk t && regOk r
  | .tcfgAcc h a r => hartOk h && aOk a && regOk r
  | .tsumsTile h rd t r => hartOk h && regOk rd && tOk t && regOk r
  | .tsumsAcc h rd a r => hartOk h && regOk rd && aOk a && regOk r
  | .tcvt h t a r rm => hartOk h && tOk t && aOk a && regOk r && rm < 8
  | .tload h t r1 r2 => hartOk h && tOk t && regOk r1 && regOk r2
  | .tstore h t r1 r2 => hartOk h && tOk t && regOk r1 && regOk r2
  | .tloadu h t r1 r2 => hartOk h && tOk t && regOk r1 && regOk r2
  | .tstoreu h t r1 r2 => hartOk h && tOk t && regOk r1 && regOk r2
  | .tsave h r1 => hartOk h && regOk r1
  | .trestore h r1 => hartOk h && regOk r1
  | .tileInstructionComplete h => hartOk h
  | .l2Eviction h line => hartOk h && lineOk line
  | .wbBufferHit h line => hartOk h && lineOk line
  | .cmeClean _ d v => d < 12 && startsOp v 1
  | .cmeInvalidate _ d v => d < 12 && startsOp v 2
  | .cmeCleanInvalidate _ d v => d < 12 && startsOp v 3
  | .cmeAbort _ d => d < 12
  | .cmeDone d => d < 12
  | .hallMntClean _ n v => n < 16 && startsOp v 1
  | .hallMntInvalidate _ n v => n < 16 && startsOp v 2
  | .hallMntCleanInvalidate _ n v => n < 16 && startsOp v 3
  | .hallMntAbort _ n => n < 16
  | .hallMntDone n => n < 16
  | .pkgRatBaseWrite _ n _ => n < 64
  | .pkgRatLimitWrite _ n _ => n < 64
  | .disableTracking _ c => cacheOk c
  | .disableDark _ c => cacheOk c
  | .disableOff _ c => cacheOk c
  | .enableInvalidate _ c => cacheOk c
  | .enableKeep _ c => cacheOk c
  | .forceKeep _ c => cacheOk c
  | .cacheCmdDone c => cacheOk c
  | .rdShared m => m.fits .RD_SHARED
  | .rdOwn m => m.fits .RD_OWN
  | .upgrade m => m.fits .UPGRADE
  | .rdOwnZero m => m.fits .RD_OWN_ZERO
  | .cmoClean m => m.fits .CMO_CLEAN
  | .cmoFlush m => m.fits .CMO_FLUSH
  | .cmoInval m => m.fits .CMO_INVAL
  | .rdOnce m => m.fits .RD_ONCE
  | .wrFull m => m.fits .WR_FULL
  | .wrPart m => m.fits .WR_PART
  | .ioAtomic m => m.fits .IO_ATOMIC
  | .wbData m => m.fits .WB_DATA
  | .evictClean m => m.fits .EVICT_CLEAN
  | .compAck m => m.fits .COMP_ACK
  | .snpShared m => m.fits .SNP_SHARED && m.die < 12
  | .snpOwn m => m.fits .SNP_OWN && m.die < 12
  | .snpInv m => m.fits .SNP_INV && m.die < 12
  | .snpOnce m => m.fits .SNP_ONCE && m.die < 12
  | .snpClean m => m.fits .SNP_CLEAN && m.die < 12
  | .backInv m => m.fits .BACK_INV && m.die < 12
  | .rsp m => m.fits .RSP
  | .fwdData m => m.fits .FWD_DATA
  | .comp m => m.fits .COMP
  | .data m => m.fits .DATA
  | .wbAck m => m.fits .WB_ACK
  | .wbAckStale m => m.fits .WB_ACK_STALE
  | .wchk m => m.fits .WCHK
  | .wchkRsp m => m.fits .WCHK_RSP
  | .ioRd m => ioMsgOk m .IO_RD
  | .ioWr m => ioMsgOk m .IO_WR
  | .ioRsp m => m.fits .IO_RSP
  | .ioAck m => m.fits .IO_ACK
  | .hallRd m => m.fits .HALL_RD
  | .holdWindowEnd h line => hartOk h && lineOk line
  | .hallDiePurge n d => n < 16 && d < 12
  | .diePurgeDone d => d < 12
  | .packetHop r port plane vc inj _ => vcOk r port plane vc && (match inj with | some p => packetOk p && p.vc == vc | none => true)
  | .creditReturn r port plane vc => vcOk r port plane vc
  | .fenceMark r port src plane vc => r < 48 && port < 2 && src < 144 && plane < 3 && vc < vcCount plane
  | .fenceDrained r port => r < 48 && port < 2
  | .unfence _ r v => r < 48 && F.GAL_FENCE_CTL_CMD.get v == 2
  | .fenceHoldTimeout r => r < 48
  | .unavail m => m.fits .UNAVAIL
  | .galPortCtlWrite _ r _ => r < 48
  | .galIdWrite _ r _ => r < 48
  | .traceRec r => r < 48
  | .bundleReceive k _ b => linkOk k && b.units.length ≤ 8
  | .nak k _ ackSeq => linkOk k && ackSeq < seqMod k
  | .replayTimeout k _ => linkOk k
  | .linkDown k _ lastSeq => linkOk k && lastSeq < seqMod k
  | .linkSync k _ lastSeq => linkOk k && lastSeq < seqMod k
  | .ident d st => dieOk d && dieStartOk st
  | .identAck d => dieOk d
  | .hold d cause => dieOk d && cause < 16
  | .keepalive k => k < 24
  | .quiesce _ d => dieOk d
  | .quiesced d => dieOk d
  | .dieQuiesceDone d => dieOk d
  | .dieReset _ d st => dieOk d && dieStartOk st
  | .diePowerOff _ d => dieOk d
  | .dieResponseTimeout d => dieOk d
  | .refclkFailure => true
  | .holdoverExit => true
  | .supplyChange rail mv tj => rail < 16 && mv < 1024 * 2 && tj < 256
  | .droopEvent d mv => d < 13 && mv < 1024
  | .brownout d => dieOk d
  | .retentionLost d => dieOk d
  | .railRecovery d mv => dieOk d && 500 ≤ mv && mv < 1024
  | .iodBrownout _ => true
  | .phyRailFault rail => 13 ≤ rail && rail < 16
  | .vMinReset _ d => dieOk d
  | .pacerUpdate d => dieOk d
  | .pkgPacerUpdate => true
  | .droopNAssert => true
  | .droopNRelease => true
  | .droopHoldExpiry d => dieOk d
  | .pmbusTelemetryRead rail _ => rail < 16
  | .powerSample _ => true
  | .peakOverrun => true
  | .pkgPowerCfgWrite _ _ => true
  | .tread n _ e => hallOk n && eccOk e
  | .revolutionBoundary n => hallOk n
  | .dimmThermalRead n t => hallOk n && t < 256
  | .tokenRefill port => port < 26
  | .limitDivision => true
  | .qosBytesSum => true
  | .windowEnd n => hallOk n
  | .qosCommit _ v => F.QOS_CTL_COMMIT.get v == 1
  | .qosCommitDone => true
  | .scaleRecompute => true
  | .wldCommit _ => true
  | .wldFormatDone => true
  | .transit _ v => potOpIs v 1
  | .scrub _ v => potOpIs v 2
  | .transfer _ v => potOpIs v 3
  | .unassign _ v => potOpIs v 4
  | .assign _ v => potOpIs v 5
  | .share _ v => potOpIs v 6
  | .unshare _ v => potOpIs v 7
  | .potOpDone => true
  | .potQuery _ _ => true
  | .release _ b dst => blkOk b && dst < 16
  | .releaseDone b => blkOk b
  | .claim _ b => blkOk b
  | .powerDownRequest _ kind index => pwrOk kind index
  | .powerUpRequest _ kind index => pwrOk kind index
  | .powerDownDone => true
  | .consentWrite _ w _ => worldOk w
  | .unlockToken _ => true
  | .debugGrantExpiry => true
  | .revoke _ => true
  | .mend a i b => bankOk a i b
  | .mendForced a i b => bankOk a i b
  | .patrolRead n e => hallOk n && eccOk e
  | .chanReturn _ n => hallOk n
  | .chanReturnDone n _ => hallOk n
  | .faultReport u => unitOk u
  | .reportOverflow u => unitOk u
  | .pendClear _ n => sourceOk n
  | .faultConditionEnd n => sourceOk n
  | .fcSrcWrite _ n _ => sourceOk n
  | .collectorParityError => true
  | .portCommit _ n => n < 10
  | .portLinkUp n j rate width _ _ => portOk n j && rate < 8 && width ≤ 16
  | .ecamAccess who addr _ => addrOk addr && whoOk who && addr % 4 == 0
  | .pcieWindowAccess who addr size _ => addrOk addr && whoOk who && size ≤ 3 && addr % 64 + 2 ^ size ≤ 64
  | .downstreamRequest n j rid addr q => portOk n j && rid < 2 ^ 16 && addr < 2 ^ 64 && reqOk addr q
  | .bar2Request n f off q => fnOk n f && off < 2 ^ 40 && reqOk off q
  | .ssbFrame n _ _ _ _ => n < 10
  | .slotControlWrite n j _ => portOk n j
  | .pwrGoodTimeout n j => portOk n j
  | .perstRelease n j => portOk n j
  | .winCommit _ n => n < 10
  | .winDrainDone n => n < 10
  | .barUpperWrite n f bar _ => fnOk n f && barOk bar
  | .dStateChange n f _ => fnOk n f
  | .perstInFall n j => portOk n j
  | .pmeReceived n j => portOk n j
  | .flr _ n f => fnOk n f
  | .flrDone n f => fnOk n f
  | .completionTimeout n j tag => portOk n j && tag < 768
  | .lateCompletion n j tag => portOk n j && tag < 768
  | .intxReceived n j => portOk n j
  | .restart _ n j => portOk n j
  | .pageSelWrite n f _ => fnOk n f
  | .seDbTailWrite _ c k _ => instOk c k
  | .seDbCplHeadWrite _ c k _ => instOk c k
  | .descriptorFetch c k => instOk c k
  | .segmentBoundary c e => c < 2 && e < 8
  | .copy c k j => jobOk c k j
  | .fill c k j => jobOk c k j
  | .compare c k j => jobOk c k j
  | .atomic c k j => jobOk c k j
  | .pack c k j => jobOk c k j
  | .unpack c k j => jobOk c k j
  | .verify c k j => jobOk c k j
  | .gcmEnc c k j => jobOk c k j
  | .gcmDec c k j => jobOk c k j
  | .xtsEnc c k j => jobOk c k j
  | .xtsDec c k j => jobOk c k j
  | .hash c k j => jobOk c k j
  | .deflateC c k j => jobOk c k j
  | .deflateD c k j => jobOk c k j
  | .lz4fC c k j => jobOk c k j
  | .lz4fD c k j => jobOk c k j
  | .descriptorCompletion c k => instOk c k
  | .seInstShareWrite _ c k _ => instOk c k
  | .enable _ c k => instOk c k
  | .reset _ c k => instOk c k
  | .drainLimitExpiry c k => instOk c k
  | .instanceResetDone c k => instOk c k
  | .ringError c k cause => instOk c k && 1 ≤ cause && cause ≤ 5
  | .mailboxDelivery c k => c < 2 && 512 ≤ k && k < 544
  | .seDbReturn _ c k _ => c < 2 && 512 ≤ k && k < 544
  | .pairAliveToggle => true
  | .pairAliveTimeout => true
  | .pairDiscovery a b => PairIdentOk a && PairIdentOk b
  | .pairHb state _ _ _ time queued => state < 8 && time < 2 ^ 64 && queued < 2 ^ 32
  | .pairHbSend => true
  | .pairHbTimeout => true
  | .pairYield => true
  | .pairCfg u => match u with | .table l => l.length == 16 | .digest d => d < 2 ^ 384 | .summary l => l.length ≤ 224
  | .mirWr link region _ _ line seq _ => 24 ≤ link && link < 26 && region < 16 && line < 2 ^ 46 && seq < 2 ^ 32
  | .mirAck region seq _ => region < 16 && seq < 2 ^ 32
  | .mirAckSend => true
  | .pairCommit _ => true
  | .forceSource _ => true
  | .resync n page => n < 16 && page < 2 ^ 28
  | .resyncDone => true
  | .pairLinkRetry trains peer => trains < 4 && PairIdentOk peer
  | .standbyPowerGood _ _ st => pkgStartOk st
  | .uzomurisReset => true
  | .watchdogRestart => true
  | .packageReset st => pkgStartOk st
  | .pkgReset _ st => pkgStartOk st
  | .resetNFall st => pkgStartOk st
  | .mainPowerOn _ st => pkgStartOk st
  | .powerOffRequest => true
  | .pkgCommit _ => true
  | .thermalSensorRead temps => temps.length == 13 && temps.all (· < 256)
  | .dimmCapStep => true
  | .thermtrip d => d < 13
  | .mctpMessage type _ st => type < 256 && pkgStartOk st
  | .uzMbxGo _ i v => i < 16 && F.UZ_MBX_CTL_GO.get v == 1
  | .uzMbxAnswer i => i < 16
  | .lifeRecordWrite type payload => type < 2 ^ 16 && payload.length ≤ 224
  | .hourlyRecords => true
  | .compaction => true
  | .uzLrReadWrite _ _ => true
  | .fenceCommand _ r v => r < 48 && F.GAL_FENCE_CTL_CMD.get v == 1
  | .pairAliveIEdge => true
  | .portLinkDown n j => portOk n j
  | .aerErrorMessage n j _ => portOk n j
  | .hostConfigWrite n f off _ => fnOk n f && off < 4096 && off % 4 == 0
  | .iommuCommand n => n < 10
  | .redfishRequest op _ st => op < 5 && pkgStartOk st
  | .lagLimitReached n => n < 16
  | .compactionDone => true
  | .corePowerOffDone h => hartOk h
  | .mainPowerOnRetry _ st => pkgStartOk st

end Sys2Proof
end

