-- ==== Sys2Proof/Safety.lean ====
section
/-! DEFINITION. What statements about the block are written in: the reads of a state that they compare, the invariant that every step
keeps, and short names for what a command leaves. -/

namespace Sys2Proof.Machine

/-- The byte of main memory that an address reads as. -/
def State.readByte (s : State) (a : Nat) : Byte := s.toPkg.byteAt a

/-- The invariant of every run: memory is in canonical form. -/
def State.Inv (s : State) : Prop := Memory.wf s.dram

/-- A command answers a next state in which the chip is c and all else, memory and the waiting commands, is as before. -/
abbrev Gives (i : Instr) (s : State) (c : Chip) : Prop := exec i s = .next { s with chip := c }

/-- A command answers a next state in which the package (chip and memory) is p and the waiting commands are as before. -/
abbrev GivesPkg (i : Instr) (s : State) (p : Pkg) : Prop := exec i s = .next { s with toPkg := p }

/-- A hart that runs, with nothing waiting or half done, no interrupt or halt being taken and no single step asked for: it performs an
instruction at once and goes on. -/
structure Chip.Free (c : Chip) (h : Nat) : Prop where
  hart : h < 288
  run : (c.hart h).run = .running
  hq : (c.hart h).hq = []
  irq : (c.hart h).irqWait = none
  halt : (c.hart h).haltWait = none
  step : (c.hart h).csrBit csrDcsr 2 = false
  awaits : (c.hart h).awaits = []
  got : (c.hart h).got = []
  xlat : (c.hart h).xlat = []

/-- The chip with an instruction at hart h. -/
def Chip.given (c : Chip) (h : Nat) (i : Instr) : Chip := c.onHart h (fun x => { x with hq := [i] })

/-- The instruction has been performed: the lines it has won are held for it no longer, and it leaves its hart's queue, with the addresses
and the data of its accesses. -/
def Chip.leave (c : Chip) (h : Nat) : Chip := (c.settle h).onHart h (fun x => { x.discard with hq := x.hq.drop 1 })

/-- A demand access finds its line in the L2 (R72): it carries the hart's streams of L2 misses on into the next page. -/
def Chip.hits (c : Chip) (h pa : Nat) : Chip := c.onHart h (fun x => { x with l2Streams := x.carryOn (pa / 64 * 64) x.l2Streams })

/-- A read finds its line in the L2, which is used. -/
def Chip.readHit (c : Chip) (h pa : Nat) : Chip := (c.hits h pa).useL2 h (pa / 64)

/-- The tile unit is usable by hart h and holds fewer than 8 instructions (R66, R116). -/
structure Chip.TileFree (c : Chip) (h : Nat) : Prop where
  free : c.Free h
  on : (c.hart h).tileOn = true
  room : (c.hart h).tsent.length < 8
  older : (c.hart h).younger = 0

/-- A line of main memory that the L2 of hart h holds for the hart's own world, not poisoned, with no refusal pending. -/
structure Chip.Holds (c : Chip) (h pa : Nat) (l : L2Line) : Prop where
  homed : (c.region pa).homed = true
  clear : (c.hart h).refusal = none
  line : c.l2at h (pa / 64) = l
  valid : l.st ≠ .I
  world : l.world = (c.hart h).world
  good : l.poison = false

/-- Such a line that the L2 owns: in E or M. -/
structure Chip.Owns (c : Chip) (h pa : Nat) (l : L2Line) : Prop where
  holds : c.Holds h pa l
  owned : l.st = .E ∨ l.st = .M

/-- An access that writes finds its line in an L2 that owns it: the line is in M, and used. -/
def Chip.won (c : Chip) (h pa : Nat) (l : L2Line) : Chip := ((c.hits h pa).setL2 h (pa / 64) { l with st := .M }).useL2 h (pa / 64)

/-- A tile register, and an accumulator, whose check data is that of its contents (R131, R132). -/
def Tile.Healthy (t : Tile) : Prop := t = mkTile t.word (elAt t.el)
def TAcc.Healthy (a : TAcc) : Prop := a = mkAcc a.word (elAt a.el)

/-- Every access of a tile instruction of hart h is translated: access k of it to the physical address pa k, inside one line. -/
def Chip.Translated (c : Chip) (h acc : Nat) (ps : List Piece) (pa : Nat → Nat) : Prop :=
  ∀ p ∈ ps, c.translate h (BitVec.ofNat 64 p.va) p.n acc = (c, .pa (pa p.k)) ∧ pa p.k % 64 + p.n ≤ 64

/-- The L2 of hart h holds every line that the accesses reach; it owns every one. -/
def Chip.HoldsAll (c : Chip) (h : Nat) (ps : List Piece) (pa : Nat → Nat) : Prop := ∀ p ∈ ps, c.Holds h (pa p.k) (c.l2at h (pa p.k / 64))
def Chip.OwnsAll (c : Chip) (h : Nat) (ps : List Piece) (pa : Nat → Nat) : Prop := ∀ p ∈ ps, c.Owns h (pa p.k) (c.l2at h (pa p.k / 64))

/-- The bytes that the L2 of hart h holds for the accesses, in order. -/
def Chip.bytesHeld (c : Chip) (h : Nat) (ps : List Piece) (pa : Nat → Nat) : List Byte :=
  ps.flatMap (fun p => toBytes p.n (Line.slice (c.l2at h (pa p.k / 64)).data (pa p.k % 64) p.n))

/-- The chip once the accesses have been translated, lowest address first. -/
def Chip.afterXlat (c : Chip) (h : Nat) (ps : List Piece) (pa : Nat → Nat) : Chip :=
  c.onHart h (fun x => { x with xlat := (sortPieces ps).map (fun p => (p.k, pa p.k)) })

/-- The chip once a tile instruction has made its read accesses, each of which its L2 serves. -/
def Chip.afterReads (c : Chip) (h : Nat) (ps : List Piece) (pa : Nat → Nat) : Chip :=
  (sortPieces ps).foldl (fun y p => (y.readHit h (pa p.k)).noteGot h p.k
    (Line.slice (c.l2at h (pa p.k / 64)).data (pa p.k % 64) p.n)) (c.afterXlat h ps pa)

/-- The chip once a tile instruction that stores has found its lines owned by its L2. -/
def Chip.afterProbes (c : Chip) (h : Nat) (ps : List Piece) (pa : Nat → Nat) : Chip :=
  (sortPieces ps).foldl (fun y p => (y.won h (pa p.k) (y.l2at h (pa p.k / 64))).noteGot h (p.k + 2 ^ 20) 0) (c.afterXlat h ps pa)

/-- The chip once it has then made its store accesses: access k writes val k, and the line leaves L1D (R114). -/
def Chip.afterStores (c : Chip) (h : Nat) (ps : List Piece) (pa : Nat → Nat) (val : Nat → Nat) : Chip :=
  ps.foldl (fun y p =>
    let line := pa p.k / 64
    let z := y.won h (pa p.k) (y.l2at h line)
    ((z.l2Store h (pa p.k) (z.l2at h line) p.n (val p.k)).onHart h (fun x =>
      { x with l1d := x.l1d.filter (fun e => e.1 != line) })).noteGot h p.k 0) (c.afterProbes h ps pa)

/-- No compute die is lost (R195). -/
def Chip.NoneLost (c : Chip) : Prop := ∀ d, d < 12 → c.dieLost d = false

/-- A request reaches a home at which nothing is under way, before ownership checks are in force: it is started at once, for a line that
no partner's package is the source of. -/
structure Pkg.IdleHome (p : Pkg) (m : Msg) : Prop where
  line : m.line < 2 ^ 46
  alive : m.die < 12 → p.chip.dieLost m.die = false
  noTxn : p.chip.txn = []
  noQueue : p.chip.homeQ = []
  unchecked : p.chip.wldCommitted = false
  own : p.chip.targetLine m.line = false

/-- The commands whose effect can reach memory behind a channel. Every other changes the chip alone. -/
def reachesMemory : Instr → Bool
  | .registerWrite .. | .load .. | .store .. | .deviceMsi .. | .ndmreset .. | .cmeClean .. | .cmeInvalidate ..
  | .cmeCleanInvalidate .. | .cmeAbort .. | .cmeDone .. | .hallMntClean .. | .hallMntInvalidate .. | .hallMntCleanInvalidate ..
  | .hallMntAbort .. | .hallMntDone .. | .disableTracking .. | .disableDark .. | .disableOff .. | .enableInvalidate ..
  | .enableKeep .. | .forceKeep .. | .rdShared .. | .rdOwn .. | .upgrade .. | .rdOwnZero .. | .cmoClean .. | .cmoFlush ..
  | .cmoInval .. | .rdOnce .. | .wrFull .. | .wrPart .. | .ioAtomic .. | .wbData .. | .evictClean .. | .compAck .. | .rsp ..
  | .wchk .. | .ioRd .. | .ioWr .. | .hallRd .. | .hallDiePurge .. | .traceRec .. | .supplyChange .. | .tread .. | .wldFormatDone
  | .transit .. | .scrub .. | .transfer .. | .unassign .. | .assign .. | .share .. | .unshare .. | .potOpDone | .potQuery ..
  | .patrolRead .. | .chanReturnDone .. | .faultReport .. | .collectorParityError | .downstreamRequest .. | .bar2Request ..
  | .descriptorFetch .. | .copy .. | .fill .. | .compare .. | .atomic .. | .pack .. | .unpack .. | .verify .. | .gcmEnc ..
  | .gcmDec .. | .xtsEnc .. | .xtsDec .. | .hash .. | .deflateC .. | .deflateD .. | .lz4fC .. | .lz4fD .. | .descriptorCompletion ..
  | .drainLimitExpiry .. | .mailboxDelivery .. | .seDbReturn .. | .pairAliveTimeout | .pairHb .. | .pairHbTimeout | .pairYield
  | .mirWr .. | .mirAck .. | .resync .. | .pairLinkRetry .. | .standbyPowerGood .. | .uzomurisReset | .packageReset ..
  | .pkgReset .. | .resetNFall .. | .mainPowerOn .. | .powerOffRequest | .mctpMessage .. | .pairAliveIEdge | .iommuCommand ..
  | .redfishRequest .. | .lagLimitReached .. | .mainPowerOnRetry .. | .unfence .. | .fenceHoldTimeout .. | .bundleReceive .. => true
  | _ => false

end Sys2Proof.Machine
end

