-- ==== Sys2Proof/Certificates/Slice0/Obligations.lean ====
section
/-! DEFINITION. The statements for the provers. In a statement about an instruction of a hart, `c` is the chip with the instruction at
its hart; what is not named in a statement's next state is as it was. -/

open Sys2Proof Sys2Proof.Machine

-- the block

/-- A step performs the command at the front of the queue with the queue's rest (the block's own frame). -/
def Obligations.StepRunsFront : Prop :=
  ∀ (s : State) (i : Instr) (rest : List Instr), s.pending = i :: rest →
    Sys2Proof.Machine.step s = Sys2Proof.Machine.exec i { s with pending := rest }

/-- An empty queue lets package time advance by one count while the time base runs (model's choice, assumption 2). -/
def Obligations.StepIdles : Prop :=
  ∀ s : State, s.pending = [] → Sys2Proof.Machine.step s = .next { s with chip := s.chip.tick }

/-- Every well-formed command answers a next state, and a command with an operand outside its range is refused. -/
def Obligations.CommandsCompleteOrRefused : Prop :=
  (∀ (i : Instr) (s : State), i.wellFormed = true → ∃ t, Sys2Proof.Machine.exec i s = .next t)
  ∧ (∀ (i : Instr) (s : State), i.wellFormed = false → Sys2Proof.Machine.exec i s = .refused .badOperand)

/-- No command changes the queue of waiting commands, and one that acts on the chip alone (most commands of the table) changes no byte of
memory and the poison of no line. -/
def Obligations.CommandFrame : Prop :=
  ∀ (i : Instr) (s t : State), Sys2Proof.Machine.exec i s = .next t → t.pending = s.pending
    ∧ (reachesMemory i = false → (∀ a, t.readByte a = s.readByte a) ∧ t.dpoison = s.dpoison)

/-- Every step keeps memory in canonical form. -/
def Obligations.StepKeepsMemoryCanonical : Prop :=
  ∀ s t : State, s.Inv → Sys2Proof.Machine.step s = .next t → t.Inv

/-- Reset: memory is canonical, nothing waits, every register reads its reset value, no package time has passed. -/
def Obligations.ResetState : Prop :=
  State.reset.Inv ∧ State.reset.pending = [] ∧ (∀ r : Reg, State.reset.chip.reg r = BitVec.ofNat 64 r.reset)
    ∧ State.reset.chip.now = 0

-- harts: registers, memory and synchronisation

/-- A load and a store within one line that the hart's L2 holds: the register takes the bytes (with the bits of the line that L1D has
wrong unseen, log entry 73, the model's choice: none where no error was met), the line takes the register's. The address is the effective
one. A load or a store with wrong bits in an array reads the word first (R304), for the access that the error names or else for its own,
and is then performed; where the error names none and the hart does not run or no line can be told, the wrong bits are met by nothing.
What row-column parity makes of wrong bits (R304, R306): one wrong bit is corrected; two data bits are found; a data bit with the parity
bit of its own row or column escapes, as do a row and a column parity bit, which invert a right bit, and the corners of a rectangle; under
the plain parity of an L1 array one wrong bit is uncorrectable. -/
def Obligations.LoadStoreHit : Prop :=
  ((∀ (s : State) (h : Nat) (rd : HReg) (va size pa : Nat) (signed : Bool) (l : L2Line),
    let i := Instr.load h rd va size signed none
    let c := s.chip.given h i
    let ea := (c.hart h).eaddr va
    s.chip.Free h → hregOk rd size = true → va < 2 ^ 64 → ea % 64 + size ≤ 64 → (c.hart h).regOn rd = true
    → c.translate h (BitVec.ofNat 64 ea) 1 1 = (c, .pa pa)
    → c.translate h (BitVec.ofNat 64 ea) size 1 = (c, .pa pa) → c.Holds h pa l →
    let v := Line.slice (l.data ^^^ (c.hart h).l1Wrong 0 (pa / 64)) (pa % 64) size
    Gives i s (((((c.readHit h pa).fillL1d h pa).onHart h (fun x => x.fill rd size v signed)).leave h).finish h))
  ∧ (∀ (s : State) (h : Nat) (rs : HReg) (va size pa : Nat) (l : L2Line),
    let i := Instr.store h rs va size none
    let c := s.chip.given h i
    let ea := (c.hart h).eaddr va
    s.chip.Free h → hregOk rs size = true → va < 2 ^ 64 → ea % 64 + size ≤ 64 → (c.hart h).regOn rs = true
    → c.translate h (BitVec.ofNat 64 ea) 1 2 = (c, .pa pa)
    → c.translate h (BitVec.ofNat 64 ea) size 2 = (c, .pa pa) → c.Owns h pa l →
    Gives i s (((((c.won h pa l).l2Store h pa { l with st := .M } size ((c.hart h).source rs)).demand h pa).leave h).finish h)))
  ∧ (∀ (s : State) (h : Nat) (reg : HReg) (va size : Nat) (signed : Bool) (e : ArrErr), errOk (some e) = true →
    let after := fun (m : Met) => { s with toPkg := s.toPkg.arrayRead e (some m) }
    let own := fun (acc line : Nat) => after { rid := h, world := (s.chip.hart h).world, acc := acc, line := line }
    (∀ m, e.by_ = some m → Sys2Proof.Machine.exec (.load h reg va size signed (some e)) s
        = Sys2Proof.Machine.exec (.load h reg va size signed none) (after m)
      ∧ Sys2Proof.Machine.exec (.store h reg va size (some e)) s = Sys2Proof.Machine.exec (.store h reg va size none) (after m))
    ∧ (∀ line, e.by_ = none → (s.chip.hart h).run = .running → s.chip.lineOfAccess h va 1 = some line →
      Sys2Proof.Machine.exec (.load h reg va size signed (some e)) s
        = Sys2Proof.Machine.exec (.load h reg va size signed none) (own 0 line))
    ∧ (∀ line, e.by_ = none → (s.chip.hart h).run = .running → s.chip.lineOfAccess h va 2 = some line →
      Sys2Proof.Machine.exec (.store h reg va size (some e)) s = Sys2Proof.Machine.exec (.store h reg va size none) (own 1 line))
    ∧ (e.by_ = none → (s.chip.hart h).run ≠ .running ∨ (s.chip.lineOfAccess h va 1 = none ∧ s.chip.lineOfAccess h va 2 = none) →
      Sys2Proof.Machine.exec (.load h reg va size signed (some e)) s = Sys2Proof.Machine.exec (.load h reg va size signed none) s
      ∧ Sys2Proof.Machine.exec (.store h reg va size (some e)) s = Sys2Proof.Machine.exec (.store h reg va size none) s))
  ∧ (∀ e : ArrErr, let g := arrayGrid e.array
    (2 < e.array →
      (∀ b, b < g.1 * g.2 → e.bits = [b] → e.rowPar = [] → e.colPar = [] → rcpOutcome e = .corrected ∧ escapedBits e = [])
      ∧ (∀ i, i < g.1 → e.bits = [] → e.rowPar = [i] → e.colPar = [] → rcpOutcome e = .corrected ∧ escapedBits e = [])
      ∧ (∀ j, j < g.2 → e.bits = [] → e.rowPar = [] → e.colPar = [j] → rcpOutcome e = .corrected ∧ escapedBits e = [])
      ∧ (∀ a b, a < g.1 * g.2 → b < g.1 * g.2 → a ≠ b → e.bits = [a, b] → e.rowPar = [] → e.colPar = [] → rcpOutcome e = .uncorrectable)
      ∧ (∀ b, b < g.1 * g.2 → e.bits = [b] → (e.rowPar = [b / g.2] ∧ e.colPar = []) ∨ (e.rowPar = [] ∧ e.colPar = [b % g.2]) →
        rcpOutcome e = .corrected ∧ escapedBits e = [b])
      ∧ (∀ i j, i < g.1 → j < g.2 → e.bits = [] → e.rowPar = [i] → e.colPar = [j] →
        rcpOutcome e = .corrected ∧ escapedBits e = [i * g.2 + j])
      ∧ (∀ i k j l, i < g.1 → k < g.1 → j < g.2 → l < g.2 → i ≠ k → j ≠ l →
        e.bits = [i * g.2 + j, i * g.2 + l, k * g.2 + j, k * g.2 + l] → e.rowPar = [] → e.colPar = [] →
        rcpOutcome e = .correct ∧ escapedBits e = e.bits))
    ∧ (e.array = 1 ∨ e.array = 2 → ∀ b, b < g.1 * g.2 → e.bits = [b] → e.rowPar = [] → rcpOutcome e = .uncorrectable))

/-- AMO, LR and SC on a line the L2 owns (R188, R197): the AMO writes its result and rd takes the old value; LR reserves the line, and
pins it where the LR itself won it; SC stores under its reservation and fails without. -/
def Obligations.AtomicsHit : Prop :=
  (∀ (s : State) (h : Nat) (op : AmoOp) (rd rs va size pa : Nat) (l : L2Line),
    let i := Instr.amo h op rd rs va size
    let c := s.chip.given h i
    let ea := (c.hart h).eaddr va
    s.chip.Free h → amoOk op rd rs size = true → va < 2 ^ 64 → va % size = 0
    → (op = .cas → bitAt (c.die (hartDie h)).capEn 8 = true)
    → c.translate h (BitVec.ofNat 64 ea) size 2 = (c, .pa pa) → c.Owns h pa l →
    let old := Line.slice l.data (pa % 64) size
    let new := amoResult op size old ((c.hart h).amoArg rs size) ((c.hart h).amoArg rd size)
    Gives i s (((((c.won h pa l).l2Store h pa { l with st := .M } size new).onHart h
      (fun x => x.amoDest rd size old)).leave h).finish h))
  ∧ (∀ (s : State) (h rd va size pa : Nat) (l : L2Line),
    let i := Instr.lr h rd va size
    let c := s.chip.given h i
    let ea := (c.hart h).eaddr va
    s.chip.Free h → rd < 32 → (size = 4 ∨ size = 8) → va < 2 ^ 64 → va % size = 0
    → c.translate h (BitVec.ofNat 64 ea) size 1 = (c, .pa pa) → c.Owns h pa l →
    Gives i s (((((((c.won h pa l).unpin h).setL2 h (pa / 64) { l with st := .M, pinned := l.winning }).useL2 h (pa / 64)).onHart h
      (fun x => { x.amoDest rd size (Line.slice l.data (pa % 64) size) with resv := some (pa / 64) })).leave h).finish h))
  ∧ (∀ (s : State) (h rd rs va size pa : Nat) (l : L2Line),
    let i := Instr.sc h rd rs va size
    let c := s.chip.given h i
    let ea := (c.hart h).eaddr va
    s.chip.Free h → rd < 32 → rs < 32 → (size = 4 ∨ size = 8) → va < 2 ^ 64 → va % size = 0
    → c.translate h (BitVec.ofNat 64 ea) size 2 = (c, .pa pa) → c.Owns h pa l →
    ((c.hart h).resv = some (pa / 64) →
      Gives i s ((((((c.won h pa l).l2Store h pa { l with st := .M } size ((c.hart h).amoArg rs size)).unpin h).onHart h
        (fun x => { x.setX rd 0 with resv := none })).leave h).finish h))
    ∧ ((c.hart h).resv ≠ some (pa / 64) →
      Gives i s ((((c.unpin h).onHart h (fun x => { x.setX rd 1 with resv := none })).leave h).finish h)))

/-- FENCE, a fetch, the cache-block operations and a prefetch. A fetch reads one or two parcels, which L1I takes; a word of custom-0 or
custom-1 that spells no tile instruction traps (R98). In M-mode cbo.clean, cbo.flush and cbo.inval send CMO_CLEAN, CMO_FLUSH and CMO_INVAL
to the home, once the die has a free transaction tag (R181), and wait for its COMP, and cbo.zero writes 64 zero bytes to an owned line
(R158, R198). A hardware prefetch of a trained stream stays within the 4 KiB page, and reads its line at the L2; one that crosses the page
is not issued (R72). -/
def Obligations.FenceFetchCboPrefetch : Prop :=
  ((∀ (s : State) (h p q : Nat), s.chip.Free h → p < 16 → q < 16 →
    Gives (.fence h p q) s (((s.chip.given h (.fence h p q)).leave h).finish h))
  ∧ (∀ (s : State) (h va pa : Nat) (l : L2Line),
    let i := Instr.instructionFetch h va
    let c := ((s.chip.given h i).resolve h va).onHart h (fun x => { x with pc := BitVec.ofNat 64 va, fetched := none })
    let parcel := fun (a : Nat) (x : Chip) => (x.readHit h a).fillL1i h (a / 64)
    let lo := Line.slice (l.data ^^^ (c.hart h).l1Wrong 2 (pa / 64)) (pa % 64) 2
    s.chip.Free h → va < 2 ^ 64 → va % 2 = 0 → c.translate h (BitVec.ofNat 64 va) 2 0 = (c, .pa pa) → c.Holds h pa l →
    (isWide lo = false → Gives i s (((parcel pa c).onHart h (fun x => { x with fetched := some (va, lo) })).leave h))
    ∧ (∀ l', isWide lo = true →
      let c1 := (parcel pa c).noteGot h 0 lo
      c1.translate h (BitVec.ofNat 64 ((va + 2) % 2 ^ 64)) 2 0 = (c1, .pa (pa + 2)) → c1.Holds h (pa + 2) l' →
      let hi := Line.slice (l'.data ^^^ (c1.hart h).l1Wrong 2 ((pa + 2) / 64)) ((pa + 2) % 64) 2
      let w := lo + 65536 * hi
      (tileUndefined w = false → Gives i s (((parcel (pa + 2) c1).onHart h (fun x => { x with fetched := some (va, w) })).leave h))
      ∧ (tileUndefined w = true →
        Gives i s (((parcel (pa + 2) c1).noteGot h 1 hi).takeTrap h { cause := 2, tval := BitVec.ofNat 64 w }))))
  ∧ (∀ (s : State) (h va pa : Nat) (k : MsgKind) (i : Instr),
    (i = .cboClean h va ∧ k = .CMO_CLEAN) ∨ (i = .cboFlush h va ∧ k = .CMO_FLUSH) ∨ (i = .cboInval h va ∧ k = .CMO_INVAL) →
    let c := s.chip.given h i
    s.chip.Free h → va < 2 ^ 64 → (c.hart h).priv = 3 → (c.hart h).csrBit csrMstatus 17 = false → (c.hart h).refusal = none
    → (c.hart h).io = none → c.translate h (BitVec.ofNat 64 va) 1 1 = (c, .pa pa) → (c.region pa).homed = true
    → c.missOf (hartDie h) (pa / 64) = none →
    ((c.freeTag (hartDie h)).isSome = true →
      Gives i s ((c.sendMiss h (c.hartMsg h k (pa / 64) 7)).onHart h (fun x => { x with io := some none })))
    ∧ (c.freeTag (hartDie h) = none → Gives i s c))
  ∧ (∀ (s : State) (h va pa : Nat) (l : L2Line),
    let i := Instr.cboZero h va
    let c := s.chip.given h i
    s.chip.Free h → va < 2 ^ 64 → (c.hart h).priv = 3 → (c.hart h).csrBit csrMstatus 17 = false
    → c.translate h (BitVec.ofNat 64 (va / 64 * 64)) 64 2 = (c, .pa pa) → c.Owns h pa l →
    Gives i s ((((c.won h pa l).l2Store h (pa / 64 * 64) { l with st := .M } 64 0).leave h).finish h)))
  ∧ ((∀ (s : State) (h pa next : Nat), h < 288 → pa < 2 ^ 52 → next < 2 ^ 52 → (s.chip.hart h).run = .running →
    (s.chip.hart h).streamTrained pa next = true → pa / 4096 = next / 4096 → (s.chip.region next).homed = true →
    let line := next / 64
    (s.chip.hitWorld h line = none → s.chip.wbAny (hartDie h) line = none →
      Gives (.prefetchIssue h pa next) s ((s.chip.countEvent h 0x30).seek h line .read 8 4).1)
    ∧ (∀ w, s.chip.hitWorld h line = some w → w ≠ (s.chip.hart h).world →
      Gives (.prefetchIssue h pa next) s ((s.chip.countEvent h 0x30).countEvent h 0x31)))
  ∧ (∀ (s : State) (h pa next : Nat), h < 288 → pa < 2 ^ 52 → next < 2 ^ 52 → pa / 4096 ≠ next / 4096 →
    Gives (.prefetchIssue h pa next) s s.chip))

/-- MRET (R63, R70, R130): it returns to mepc with the mode of MPP (U for the reserved 2) and the interrupt enable of MPIE. Within M-mode
the world stays. Below M the hart enters NEXT, FORCE_CLEAR clears and GUARD_REQ takes the entered world's setting; with FORCE_CLEAR, or
entering another world with CLEAR_ON_ENTRY, it clears every predictor and waits, CLEARING set, and otherwise it runs on; a haltreq that
waits takes effect where the entered world has invasive debug enabled (R86). Below M-mode MRET is an illegal instruction.
PREDICTOR_CLEAR_DONE ends the clear and the hart performs what waits, or halts. -/
def Obligations.ReturnFromM : Prop :=
  (∀ (s : State) (h : Nat), s.chip.Free h → (s.chip.hart h).priv = 3 →
    Gives (.mret h) s ((((s.chip.given h (.mret h)).mret h).leave h).finish h))
  ∧ (∀ (s : State) (h : Nat), s.chip.Free h → (s.chip.hart h).priv = 3 →
    let x := s.chip.hart h
    let mpp := x.csrBits csrMstatus 12 11
    let w := x.csrBits csrMworld 7 4
    let clears : Bool := x.csrBit csrMworld 12 || (w != x.world && s.chip.bit (.WLD_WORLD_CFG w) F.WLD_WORLD_CFG_CLEAR_ON_ENTRY)
    ∃ t, Sys2Proof.Machine.exec (.mret h) s = .next t ∧ (∀ k, k ≠ h → t.chip.hart k = s.chip.hart k) ∧ t.chip.regs = s.chip.regs
      ∧ let y := t.chip.hart h
      y.pc = x.getCsr csrMepc ∧ y.priv = (if mpp = 2 then 0 else mpp) ∧ y.x = x.x ∧ y.hq = []
      ∧ y.csrBit csrMstatus 3 = x.csrBit csrMstatus 7 ∧ y.csrBit csrMstatus 7 = true ∧ y.csrBits csrMstatus 12 11 = 0
      ∧ (mpp = 3 → y.world = x.world ∧ y.run = .running)
      ∧ (mpp ≠ 3 → y.world = w ∧ y.csrBit csrMworld 12 = false ∧ y.csrBit csrTcsr 16 = s.chip.guardOf w
        ∧ (clears = true → y.run = .clearing ∧ y.csrBit csrMworld 13 = true ∧ y.pred = Predictors.reset ∧ y.l1dStreams = []
          ∧ y.l2Streams = [])
        ∧ (clears = false → x.haltPending = false ∨ s.chip.invEff w = false → y.run = .running)
        ∧ (clears = false → x.haltPending = true → s.chip.invEff w = true → y.run = .halted)))
  ∧ (∀ (s : State) (h : Nat), s.chip.Free h → (s.chip.hart h).priv < 3 →
    Gives (.mret h) s ((s.chip.given h (.mret h)).except h 2 0x30200073))
  ∧ (∀ (s : State) (h : Nat), h < 288 → (s.chip.hart h).run = .clearing →
    let c := s.chip.onHart h (fun x => { x.putBit csrMworld 13 false with run := .running })
    ((s.chip.hart h).haltPending = false ∨ s.chip.invEff (s.chip.hart h).world = false → Gives (.predictorClearDone h) s (c.run h)
      ∧ ((s.chip.hart h).hq = [] → (s.chip.hart h).irqWait = none → (s.chip.hart h).haltWait = none →
        ∃ t, Sys2Proof.Machine.exec (.predictorClearDone h) s = .next t ∧ t.chip = c ∧ (t.chip.hart h).run = .running
          ∧ (t.chip.hart h).csrBit csrMworld 13 = false ∧ (t.chip.hart h).world = (s.chip.hart h).world))
    ∧ ((s.chip.hart h).haltPending = true → s.chip.invEff (s.chip.hart h).world = true →
      ∃ t, Sys2Proof.Machine.exec (.predictorClearDone h) s = .next t ∧ (t.chip.hart h).run = .halted
        ∧ (t.chip.hart h).getCsr csrDpc = (s.chip.hart h).pc ∧ (t.chip.hart h).haltPending = false))
  ∧ (∀ (s : State) (h : Nat), h < 288 → (s.chip.hart h).run = .running → (s.chip.hart h).hq = [] → (s.chip.hart h).irqWait = none →
    (s.chip.hart h).haltWait = none → Gives (.predictorClearDone h) s s.chip)

/-- Gate entry (R63): a trap to M-mode puts the old world into PREV and makes the hart's world 1, saves the pc, the cause and xtval, and
goes to mtvec in M-mode with interrupts disabled. -/
def Obligations.TrapEntersW1 : Prop :=
  ∀ (c : Chip) (h : Nat) (t : TrapInfo), ((c.hart h).trapTarget t).1 = 3 → (c.hart h).haltPending = false →
    (c.hart h).csrBit csrDcsr 2 = false → t.check = none →
    let x := c.hart h
    let y := (c.takeTrap h t).hart h
    y.world = 1 ∧ y.csrBits csrMworld 11 8 = x.world ∧ y.priv = 3 ∧ y.virt = false
    ∧ y.getCsr csrMepc = x.pc ∧ y.getCsr csrMcause = trapCause t ∧ y.getCsr csrMtval = t.tval
    ∧ y.pc = trapVector (x.getCsr csrMtvec) t
    ∧ y.csrBit csrMstatus 3 = false ∧ y.csrBit csrMstatus 7 = x.csrBit csrMstatus 3
    ∧ y.csrBits csrMstatus 12 11 = x.priv ∧ y.hq = []

/-- The vendor CSRs (R63, R65): a write of 2 to NEXT of mworld is ignored, every other value is taken, and WORLD and PREV stay; a hart
below M-mode that writes mworld takes an illegal-instruction exception; sqoslabel raises virtual-instruction with V set, and takes bits
[5:0] otherwise; an access to a tile CSR reads it, and a write reaches bit 0 of tcsr alone. -/
def Obligations.VendorCsrs : Prop :=
  ((∀ (s : State) (h : Nat) (v : Word), s.chip.Free h → (s.chip.hart h).priv = 3 →
    Gives (.mworldWrite h v) s
      ((((s.chip.given h (.mworldWrite h v)).onHart h (fun x => x.writeMworld v)).leave h).finish h))
  ∧ (∀ (x : Hart) (v : Word),
    (x.writeMworld v).world = x.world ∧ (x.writeMworld v).csrBits csrMworld 11 8 = x.csrBits csrMworld 11 8
    ∧ (x.writeMworld v).csrBits csrMworld 7 4
      = (if bits v.toNat 7 4 = 2 then x.csrBits csrMworld 7 4 else bits v.toNat 7 4)))
  ∧ ((∀ (s : State) (h : Nat) (v : Word), s.chip.Free h → (s.chip.hart h).priv < 3 →
    let i := Instr.mworldWrite h v
    Gives i s ((s.chip.given h i).illegal h 2))
  ∧ (∀ (s : State) (h : Nat) (v : Word), s.chip.Free h → 1 ≤ (s.chip.hart h).priv → (s.chip.hart h).virt = false →
    let i := Instr.sqoslabelWrite h v
    Gives i s ((((s.chip.given h i).onHart h (fun x => x.setCsr csrSqoslabel (BitVec.ofNat 64 (v.toNat % 64)))).leave h).finish h))
  ∧ (∀ (s : State) (h : Nat) (v : Word), s.chip.Free h → (s.chip.hart h).virt = true → 1 ≤ (s.chip.hart h).priv →
    (s.chip.hart h).priv < 3 →
    let i := Instr.sqoslabelWrite h v
    Gives i s ((s.chip.given h i).illegal h 22))
  ∧ (∀ (s : State) (h rd : Nat) (f : Bool) (wr : Option Word), s.chip.Free h → rd < 32 → (s.chip.hart h).tileOn = true →
    let i := Instr.tileCsrAccess h rd f wr
    let c := s.chip.given h i
    let old := (c.hart h).getCsr (if f then csrTfault else csrTcsr)
    Gives i s (((c.onHart h (fun x => (match wr with
      | some v => if f then x else (x.putBit csrTcsr 0 (v.toNat.testBit 0)).dirtyXs
      | none => x).setX rd old)).leave h).finish h)))

-- harts: interrupts, the event router, reset, power and debug

/-- A pending and enabled interrupt of a hart with an empty tile unit and no I/O access is taken at once; while the tile unit works it is
noted and what has not begun is discarded, but a tile instruction that has begun its accesses is kept (R117). WFI waits while no enabled
interrupt is pending (R34), and the machine timer interrupt wakes the hart once package time reaches CD_MTIMECMP_i (R76). -/
def Obligations.InterruptsAndWfi : Prop :=
  ((∀ (s : State) (h cause : Nat), s.chip.Free h → cause < 64 → s.chip.irqReady h cause = true → (s.chip.hart h).tsent = []
    → (s.chip.hart h).io = none →
    let x := s.chip.hart h
    let t := ({ cause := cause, int := true } : TrapInfo)
    Gives (.interruptTaken h cause) s (s.chip.takeTrap h t)
    ∧ ((x.trapTarget t).1 = 3 → x.haltPending = false → ∃ u, Sys2Proof.Machine.exec (.interruptTaken h cause) s = .next u ∧
      let y := u.chip.hart h
      y.priv = 3 ∧ y.world = 1 ∧ y.getCsr csrMepc = x.pc ∧ y.getCsr csrMcause = BitVec.ofNat 64 (2 ^ 63 + cause)
      ∧ y.pc = trapVector (x.getCsr csrMtvec) t ∧ y.csrBit csrMstatus 3 = false ∧ y.irqWait = none
      ∧ (∀ k, k ≠ h → u.chip.hart k = s.chip.hart k)))
  ∧ (∀ (s : State) (h cause : Nat), s.chip.Free h → cause < 64 → s.chip.irqReady h cause = true → (s.chip.hart h).tsent ≠ []
    → (s.chip.hart h).io = none →
    Gives (.interruptTaken h cause) s (s.chip.onHart h (fun x => { x.discard with irqWait := some cause })))
  ∧ (∀ (s : State) (h cause : Nat), h < 288 → cause < 64 → (s.chip.hart h).run = .running → s.chip.irqReady h cause = true
    → (s.chip.hart h).begun = true →
    Gives (.interruptTaken h cause) s (s.chip.onHart h (fun x => { x with irqWait := some cause, hq := x.hq.take 1 })))
  ∧ (∀ (s : State) (h cause : Nat), s.chip.Free h → cause < 64 → s.chip.irqReady h cause = false → Gives (.interruptTaken h cause) s s.chip))
  ∧ ((∀ (s : State) (h : Nat), s.chip.Free h → let x := s.chip.hart h
    x.priv = 3 ∨ (x.priv = 1 ∧ x.csrBit csrMstatus 21 = false) → x.virt = false ∨ x.csrBit csrHstatus 21 = false →
    (s.chip.mip h &&& s.chip.mie h = 0 →
      Gives (.wfi h) s ((((s.chip.given h (.wfi h)).onHart h (fun x => { x with run := .wfi })).leave h).finish h)
      ∧ ∃ t, Sys2Proof.Machine.exec (.wfi h) s = .next t ∧ (t.chip.hart h).run = .wfi ∧ (t.chip.hart h).pc = x.pc ∧ (t.chip.hart h).hq = [])
    ∧ (s.chip.mip h &&& s.chip.mie h ≠ 0 → Gives (.wfi h) s (((s.chip.given h (.wfi h)).leave h).finish h)
      ∧ ∃ t, Sys2Proof.Machine.exec (.wfi h) s = .next t ∧ (t.chip.hart h).run = .running ∧ (t.chip.hart h).hq = []))
  ∧ (∀ (s : State) (h : Nat), h < 288 → (s.chip.hart h).hq = [] → (s.chip.hart h).irqWait = none → (s.chip.hart h).haltWait = none →
    let due : Bool := decide (s.chip.fld (.CD_MTIMECMP (hartDie h) (hartCore h)) F.CD_MTIMECMP_CMP ≤ s.chip.now)
    ∃ t, Sys2Proof.Machine.exec (.machineTimerInterrupt h) s = .next t ∧ bitAt (t.chip.mip h) 7 = due
      ∧ ((s.chip.hart h).run = .wfi → s.chip.mip h &&& s.chip.mie h ≠ 0 →
        t.chip = s.chip.onHart h (fun x => { x with run := .running }))
      ∧ ((s.chip.hart h).run ≠ .wfi ∨ s.chip.mip h &&& s.chip.mie h = 0 → t.chip = s.chip)))

/-- An occurrence of a source forms one MSI from its entry, or sets PENDING while ENABLE is clear (R77, R79); the router writes the
identity of the oldest MSI of a source into the target file of a hart that may take it, and drops and reports one for a hart out of range
(R80). A write to EVR_SRC_n is taken from the owner world, and from any other it is ignored and recorded as a world violation (R79); it
completes once no MSI of the old entry is left (R81). EVR_SWTRIG and the event timers (R82). A device's MSI (R286, R292, R16) is written
where the file's owner is the function's owner, counted for a hart that is not there, and none while the function is handed over. -/
def Obligations.EventsAndMsis : Prop :=
  ((∀ (s : State) (n : Nat), n < 2048 → s.chip.fld (.WLD_SRC_OWN n) F.WLD_OWN_STATE = 0 →
    (s.chip.bit (.EVR_SRC n) F.EVR_SRC_ENABLE = false →
      Gives (.eventOccurrence n) s (s.chip.setBit (.EVR_SRC n) F.EVR_SRC_PENDING true))
    ∧ (s.chip.bit (.EVR_SRC n) F.EVR_SRC_ENABLE = true → s.chip.msi.any (fun e => e.1 == n) = false →
      Gives (.eventOccurrence n) s { s.chip with msi := s.chip.msi ++ [(n, s.chip.srcEntry n)] }))
  ∧ (∀ (s : State) (n : Nat) (e : Word) (rest : List (Nat × Word)), n < 2048 → s.chip.msi = (n, e) :: rest →
    let h := F.EVR_SRC_HART.get e
    let c := ({ s.chip with msi := rest } : Chip)
    c.msiDropReason e = 0 → (s.chip.hart h).run = .running → (s.chip.hart h).hq = [] → (s.chip.hart h).irqWait = none →
    (s.chip.hart h).haltWait = none →
    Gives (.msiDeliver n) s (c.onHart h (fun x => x.onFile (F.EVR_SRC_FILE.get e) (IFile.setEip (F.EVR_SRC_IDENTITY.get e)))))
  ∧ (∀ (s : State) (n : Nat) (e : Word) (rest : List (Nat × Word)), n < 2048 → s.chip.msi = (n, e) :: rest →
    let c := ({ s.chip with msi := rest } : Chip)
    288 ≤ F.EVR_SRC_HART.get e →
    Gives (.msiDeliver n) s ((((c.bump .EVR_DROP_STATUS F.EVR_DROP_STATUS_COUNT).setFld .EVR_DROP_STATUS
      F.EVR_DROP_STATUS_LAST_SRC n).setFld .EVR_DROP_STATUS F.EVR_DROP_STATUS_REASON 4).report unitEvr 10 0x7040 1 15)))
  ∧ ((∀ (s : State) (who : Who) (n : Nat) (v : Word), n < 2048 → s.chip.maySource who n = true →
    Gives (.evrSrcWrite who n v) s (s.chip.srcWrite n v))
  ∧ (∀ (s : State) (who : Who) (n : Nat) (v : Word), n < 2048 → s.chip.maySource who n = false →
    Gives (.evrSrcWrite who n v) s (s.chip.refuseWrite who (.EVR_SRC n)))
  ∧ (∀ (s : State) (n : Nat), n < 2048 →
    Gives (.evrSrcWriteDone n) s (s.chip.settleSource n)
    ∧ ∀ e ∈ (s.chip.deliverWhere (fun e => e.1 == n && e.2 != s.chip.srcEntry n)).msi, e.1 = n → e.2 = s.chip.srcEntry n)
  ∧ (∀ (s : State) (who : Who), Gives (.evrDropClear who) s (s.chip.setFld .EVR_DROP_STATUS F.EVR_DROP_STATUS_COUNT 0))
  ∧ (∀ (s : State) (who : Who) (v : Word), 960 ≤ F.EVR_SWTRIG_SOURCE.get v → F.EVR_SWTRIG_SOURCE.get v ≤ 1023 →
    s.chip.mayRaise who (F.EVR_SWTRIG_SOURCE.get v) = true →
    Gives (.evrSwtrig who v) s (s.chip.raiseEvent (F.EVR_SWTRIG_SOURCE.get v)))
  ∧ (∀ (s : State) (who : Who) (v : Word), F.EVR_SWTRIG_SOURCE.get v < 960 → Gives (.evrSwtrig who v) s s.chip)
  ∧ (∀ (s : State) (who : Who) (n : Nat) (v : Word), n < 64 → s.chip.mayRaise who (608 + n) = true →
    Gives (.evrTimerWrite who n v) s ((s.chip.setReg (.EVR_TIMER n) v).timerFire n))
  ∧ (∀ (s : State) (n : Nat), n < 64 → s.chip.bit (.EVR_TIMER n) F.EVR_TIMER_ARM = true →
    s.chip.fld (.EVR_TIMER n) F.EVR_TIMER_CMP ≤ s.chip.now →
    Gives (.evrTimerFire n) s ((s.chip.setBit (.EVR_TIMER n) F.EVR_TIMER_ARM false).raiseEvent (608 + n))))
  ∧ (∀ (s : State) (fn die core file id : Nat), fn < 2560 → die < 12 → core < 24 → file < 8 → id < 2 ^ 32 →
    let h := 24 * die + core
    let silent := s.chip.fnSilent (fn / 256) (fn % 256)
    let i := Instr.deviceMsi fn die core file id
    let owner := s.chip.fnOwner (fn / 256) (fn % 256)
    (silent = true → Gives i s s.chip)
    ∧ (silent = false → s.chip.wldCommitted = false →
      Gives i s (s.chip.addrRefusal (0x2000 + fn) owner 1 (regBase + imsicOff die core file)))
    ∧ (silent = false → s.chip.wldCommitted = true → s.chip.hartThere h = false → Gives i s (s.chip.msiDropped die))
    ∧ (silent = false → s.chip.wldCommitted = true → s.chip.hartThere h = true → s.chip.fileOwner h file = owner →
      Gives i s (((s.chip.onHart h (fun y => y.onFile file (IFile.setEip id))).wake h).run h))
    ∧ (silent = false → s.chip.wldCommitted = true → s.chip.hartThere h = true → s.chip.fileOwner h file ≠ owner →
      GivesPkg i s ((s.toPkg.iommuFault (fn / 256) (fn % 256) 262 3 (regBase + imsicOff die core file)).onChip (fun x =>
        x.violate { rid := 0x2000 + fn, world := owner } 4 (imsicOff die core file)))))

/-- Reset and power of one core (R83, R84): RESET from W1 sets BUSY and stops the hart; once its requests have completed and its L2 is
empty it starts in M-mode, in W1, at CD_RESET_VECTOR with every register at reset; power-off sets OFF; the debug module's hartreset resets
a hart that is there; any write from a world other than W1 and Uzomuris is ignored and recorded as a world violation. A core that fails
while its die runs (R15): the failure mark is recorded, the hart of the logical core bound to it goes offline, and core-failed is reported
under that hart. -/
def Obligations.CoreControl : Prop :=
  ((∀ (s : State) (who : Who) (h : Nat), h < 288 → who.sealed = true → s.chip.coreOffline h = false → s.chip.coreOff h = false →
    let busy := fun (c : Chip) => (c.setBit (coreCtl h) F.CD_CORE_CTL_BUSY true).onHart h Hart.stop
    Gives (.hartReset who h) s (busy s.chip)
    ∧ (let c := s.chip.setBit (coreCtl h) F.CD_CORE_CTL_POWER_OFF true
      c.coreOff h = false → c.corePhys h ≠ 31 → c.dieUp (hartDie h) = true → Gives (.corePowerOff who h) s (busy c)))
  ∧ (∀ (s : State) (h : Nat), h < 288 → s.chip.coreBusy h = true → s.chip.coreOffline h = false →
    s.chip.bit (coreCtl h) F.CD_CORE_CTL_POWER_OFF = false → s.chip.quiet h = true →
    let f := (s.chip.flushL2 h).sendOwn h
    let start := fun (x : Chip) => (((x.setBit (coreCtl h) F.CD_CORE_CTL_BUSY false).setHart h
      { Hart.reset with run := .running, pc := x.resetPc (hartDie h) })).runDie (hartDie h)
    (f.l2Gone h = false → Gives (.hartResetDone h) s f)
    ∧ (f.l2Gone h = true → (f.hart h).haltPending = false → Gives (.hartResetDone h) s (start f))
    ∧ (s.chip.l2Gone h = true → (s.chip.hart h).haltPending = false → Gives (.hartResetDone h) s (start s.chip)))
  ∧ (∀ (s : State) (h : Nat), h < 288 → s.chip.coreBusy h = true → s.chip.bit (coreCtl h) F.CD_CORE_CTL_POWER_OFF = true →
    s.chip.quiet h = true →
    let f := (s.chip.flushL2 h).sendOwn h
    let off := fun (x : Chip) => (((x.setBit (coreCtl h) F.CD_CORE_CTL_BUSY false).setBit (coreCtl h) F.CD_CORE_CTL_OFF true).setHart h
      { Hart.reset with haltPending := (x.hart h).haltPending }).runDie (hartDie h)
    (f.l2Gone h = false → Gives (.corePowerOffDone h) s f)
    ∧ (f.l2Gone h = true → Gives (.corePowerOffDone h) s (off f))
    ∧ (s.chip.l2Gone h = true → Gives (.corePowerOffDone h) s (off s.chip)))
  ∧ (∀ (s : State) (who : Who) (h : Nat), h < 288 → who.sealed = true →
    let c := s.chip.setBit (coreCtl h) F.CD_CORE_CTL_POWER_OFF false
    c.coreOff h = true →
    Gives (.corePowerOn who h) s ((c.setBit (coreCtl h) F.CD_CORE_CTL_OFF false).setBit (coreCtl h) F.CD_CORE_CTL_BUSY (!c.coreOffline h)))
  ∧ (∀ (s : State) (who : Who) (h : Nat) (b : Bool), h < 288 → who.sealed = true →
    Gives (.msipWrite who h b) s (((s.chip.setBit (coreCtl h) F.CD_CORE_CTL_MSIP b).wake h).run h))
  ∧ (∀ (s : State) (h : Nat), h < 288 → s.chip.hartThere h = true → s.chip.coreOffline h = false → s.chip.coreOff h = false →
    Gives (.dmcontrolHartreset h) s ((s.chip.setBit (coreCtl h) F.CD_CORE_CTL_BUSY true).onHart h Hart.stop)))
  ∧ (∀ (s : State) (who : Who) (h : Nat) (b : Bool), h < 288 → who.sealed = false →
    let c := s.chip.refuseWrite who (coreCtl h)
    Gives (.hartReset who h) s c ∧ Gives (.corePowerOff who h) s c ∧ Gives (.corePowerOn who h) s c
    ∧ Gives (.msipWrite who h b) s c)
  ∧ (∀ (s : State) (d phys h : Nat), d < 12 → phys < 26 → s.chip.dieUp d = true →
    let c0 := (s.chip.onDie d (fun x => { x with failMark := withBit x.failMark phys true })).coreMapRecord d
    let c := c0.countCores d (withBit (c0.fld (.CD_CORE_STATUS d) F.CD_CORE_STATUS_PHYS_FAILED) phys true)
    (dieHarts d).find? (fun h => c.corePhys h == phys) = some h →
    Gives (.coreFailed d phys) s
      (((c.setBit (coreCtl h) F.CD_CORE_CTL_OFFLINE true).onHart h Hart.stop).report (unitDie d) (64 + 12 * d + 3) h 1 15))

/-- External debug (R85, R86): haltreq halts a hart whose world has invasive debug enabled, after an access that has begun, and otherwise
waits; resumereq goes on at dpc, through the gate into M-mode (log entry 98, the model's choice); a trigger halts only where invasive
debug is enabled, and raises a breakpoint exception in every world; with dcsr.step set the hart halts at the end of one instruction;
abstract access reads and writes registers of a halted hart. -/
def Obligations.ExternalDebug : Prop :=
  (∀ (s : State) (h : Nat), h < 288 → s.chip.dmUnavail h = false → (s.chip.hart h).haltWait = none →
    let pend := s.chip.onHart h (fun x => { x with haltPending := true })
    ((s.chip.hart h).run = .running ∨ (s.chip.hart h).run = .wfi →
      (s.chip.invEff (s.chip.hart h).world = true →
        ((s.chip.hart h).begun = false → Gives (.haltreq h) s (s.chip.onHart h (fun x => x.halt 3)))
        ∧ ((s.chip.hart h).begun = true →
          Gives (.haltreq h) s (s.chip.onHart h (fun x => { x with hq := x.hq.take 1, haltWait := some 3 }))))
      ∧ (s.chip.invEff (s.chip.hart h).world = false → Gives (.haltreq h) s pend))
    ∧ ((s.chip.hart h).run = .clearing ∨ (s.chip.hart h).run = .held → Gives (.haltreq h) s pend))
  ∧ (∀ (s : State) (h : Nat), h < 288 → (s.chip.hart h).run = .halted →
    let m := (s.chip.hart h).csrBits csrDcsr 1 0
    let on := fun (x : Hart) => { x with run := .running, pc := (s.chip.hart h).getCsr csrDpc, priv := m
                                         virt := (s.chip.hart h).csrBit csrDcsr 5 && m != 3 }
    (m ≠ 3 ∨ (s.chip.hart h).world = 1 → Gives (.resumereq h) s (s.chip.onHart h on))
    ∧ (m = 3 → (s.chip.hart h).world ≠ 1 → Gives (.resumereq h) s (s.chip.onHart h (fun x => on (s.chip.gateEntry x)))))
  ∧ (∀ (s : State) (h a : Nat), h < 288 → a < 2 ^ 64 → (s.chip.hart h).run = .running →
    Gives (.triggerFire h false a) s (s.chip.except h 3 (BitVec.ofNat 64 a))
    ∧ (s.chip.invEff (s.chip.hart h).world = true → (s.chip.hart h).begun = false →
      Gives (.triggerFire h true a) s (s.chip.onHart h (fun x => x.halt 2)))
    ∧ (s.chip.invEff (s.chip.hart h).world = true → (s.chip.hart h).begun = true →
      Gives (.triggerFire h true a) s (s.chip.onHart h (fun x => { x with hq := x.hq.take 1, haltWait := some 2 })))
    ∧ (s.chip.invEff (s.chip.hart h).world = false → Gives (.triggerFire h true a) s s.chip))
  ∧ (∀ (s : State) (h : Nat), h < 288 → (s.chip.hart h).run = .running → (s.chip.hart h).hq = [] → (s.chip.hart h).irqWait = none →
    (s.chip.hart h).haltWait = none → (s.chip.hart h).csrBit csrDcsr 2 = true → s.chip.invEff (s.chip.hart h).world = true →
    ∃ t, Sys2Proof.Machine.exec (.fence h 15 15) s = .next t ∧ (t.chip.hart h).run = .halted
      ∧ (t.chip.hart h).csrBits csrDcsr 8 6 = 4
      ∧ ∀ pc w, (s.chip.hart h).fetched = some (pc, w) →
        (t.chip.hart h).getCsr csrDpc = BitVec.ofNat 64 (pc + (if w % 4 = 3 then 4 else 2)))
  ∧ (∀ (s : State) (h n : Nat) (v : Word), h < 288 → n < 32 → s.chip.dmUnavail h = false → (s.chip.hart h).run = .halted →
    Gives (.abstractRegisterAccess h (0x1000 + n) none) s { s.chip with dmData := (s.chip.hart h).xr n, dmErr := 0 }
    ∧ Gives (.abstractRegisterAccess h (0x1000 + n) (some v)) s
      (({ s.chip with dmData := v, dmErr := 0 } : Chip).onHart h (fun x => x.setX n v)))

/-- Package resets (R85, R302, R416, R419): a command of the package reset, the fall of RESET_N, and ndmreset while W1's invasive debug is
granted, each perform the package reset; ndmreset changes nothing otherwise. On a package that runs, the reset leaves package time, the
waiting commands and the journal as they were, ends a debug grant, and leaves no line in a cache, no request outstanding, and every hart
in M-mode and W1 with nothing waiting, its integer registers zero, held or started; where the DIMMs do not agree the start stops at step 6
with source 14's condition raised, every hart held and main memory empty (R27). While Uzomuris has no power there is nothing to reset. -/
def Obligations.PackageResets : Prop :=
  ∀ (s : State) (st : PkgStart), pkgStartOk st = true →
    let granted := bitAt (s.chip.fld .WLD_DBG_GRANT F.WLD_DBG_GRANT_GRANT_INV) 1
    (granted = false → GivesPkg (.ndmreset st) s s.toPkg)
    ∧ ∀ i ∈ [Instr.packageReset st, .resetNFall st, .ndmreset st], i ≠ .ndmreset st ∨ granted = true →
      GivesPkg i s (s.toPkg.resetPackage st)
      ∧ (s.chip.uz.on = false → Gives i s s.chip)
      ∧ (s.chip.uz.on = true → s.chip.mainsUp = true → s.chip.uz.tripped = false → s.chip.uz.resetPending = false →
        ∃ t, Sys2Proof.Machine.exec i s = .next t ∧ t.pending = s.pending ∧ t.chip.now = s.chip.now
          ∧ s.chip.uz.half0 <+: t.chip.uz.half0 ∧ s.chip.uz.half1 <+: t.chip.uz.half1
          ∧ t.chip.uz.grantEnd = none ∧ t.chip.fld .WLD_DBG_GRANT F.WLD_DBG_GRANT_GRANT_INV = 0
          ∧ t.chip.l2 = [] ∧ t.chip.wb = [] ∧ t.chip.lnd = [] ∧ t.chip.hc = [] ∧ t.chip.ownc = [] ∧ t.chip.miss = [] ∧ t.chip.txn = []
          ∧ (∀ h, h < 288 → (t.chip.hart h).hq = [] ∧ (t.chip.hart h).priv = 3 ∧ (t.chip.hart h).world = 1 ∧ (t.chip.hart h).x = []
            ∧ ((t.chip.hart h).run = .held ∨ (t.chip.hart h).run = .running))
          ∧ (dimmsAgree st.channels = false → t.chip.fld .UZ_STATUS F.UZ_STATUS_STAGE = 6
            ∧ t.chip.bit (.FC_SRC 14) F.FC_SRC_CAUSE = true ∧ (∀ h, h < 288 → (t.chip.hart h).run = .held)
            ∧ ∀ a, a < 0x40000000000 → t.readByte a = 0))

-- the tile unit

/-- TCFG and TZERO (R99, R100): TCFG of a tile register or an accumulator with a word that R89 allows configures it, its elements zero and
its uncorrectable bit clear, and the unit holds the instruction until it completes; another word is an illegal-instruction exception;
TZERO keeps the configuration and makes every element zero. -/
def Obligations.TileConfigure : Prop :=
  (∀ (s : State) (h t r : Nat), s.chip.TileFree h → t < 8 → r < 32 →
    let i := Instr.tcfgTile h t r
    let c := s.chip.given h i
    let v := (c.hart h).xr r
    (cfgOk false v.toNat = true →
      Gives i s (((c.setHart h (((c.hart h).putTile t (mkTile v.toNat (fun _ _ => 0)) false).dirtyXs)).tileSent h 1).leave h))
    ∧ (cfgOk false v.toNat = false → Gives i s (c.except h 2 (BitVec.ofNat 64 i.tileBits))))
  ∧ (∀ (s : State) (h a r : Nat), s.chip.TileFree h → a < 4 → r < 32 →
    let i := Instr.tcfgAcc h a r
    let c := s.chip.given h i
    let v := (c.hart h).xr r
    (cfgOk true v.toNat = true →
      Gives i s (((c.setHart h ((((c.hart h).putAcc a (mkAcc v.toNat (fun _ _ => 0))).putBit csrTcsr (12 + a)
        false).dirtyXs)).tileSent h 1).leave h))
    ∧ (cfgOk true v.toNat = false → Gives i s (c.except h 2 (BitVec.ofNat 64 i.tileBits))))
  ∧ (∀ (s : State) (h t : Nat), s.chip.TileFree h → t < 8 →
    let i := Instr.tzeroTile h t
    let c := s.chip.given h i
    Gives i s (((c.setHart h (((c.hart h).putTile t (mkTile ((c.hart h).tileAt t).word (fun _ _ => 0)) false).dirtyXs)).tileSent
      h 1).leave h))
  ∧ (∀ (s : State) (h a : Nat), s.chip.TileFree h → a < 4 →
    let i := Instr.tzeroAcc h a
    let c := s.chip.given h i
    Gives i s (((c.setHart h ((((c.hart h).putAcc a (mkAcc ((c.hart h).accAt a).word (fun _ _ => 0))).putBit csrTcsr (12 + a)
      false).dirtyXs)).tileSent h 1).leave h))

/-- TCHK completes when the register's contents agree with its check data, and otherwise raises cause 24 with KIND 7 in tfault (R110,
R67); TSUMS reads the configuration word or a margin sum into rd (R111). -/
def Obligations.TileCheckAndSums : Prop :=
  (∀ (s : State) (h t : Nat), s.chip.TileFree h → t < 8 →
    let i := Instr.tchkTile h t
    let c := s.chip.given h i
    (((c.hart h).tileAt t).check t 7 true = none → Gives i s (((c.setHart h (c.hart h)).tileSent h 16).leave h))
    ∧ (∀ f, ((c.hart h).tileAt t).check t 7 true = some f → Gives i s (c.tileFail h [f] [] 0)))
  ∧ (∀ (s : State) (h a : Nat), s.chip.TileFree h → a < 4 →
    let i := Instr.tchkAcc h a
    let c := s.chip.given h i
    (((c.hart h).accAt a).check (8 + a) 7 = none → Gives i s (((c.setHart h (c.hart h)).tileSent h 32).leave h))
    ∧ (∀ f, ((c.hart h).accAt a).check (8 + a) 7 = some f → Gives i s (c.tileFail h [f] [] 0)))
  ∧ (∀ (s : State) (h rd t r : Nat), s.chip.TileFree h → rd < 32 → t < 8 → r < 32 →
    let i := Instr.tsumsTile h rd t r
    let c := s.chip.given h i
    let x := c.hart h
    (x.xr r = 64#64 → Gives i s (((c.setHart h (x.setX rd (x.tileAt t).cfg)).tileSent h 1).leave h))
    ∧ (∀ j, j < 32 → x.xr r = BitVec.ofNat 64 j → (x.tileAt t).word ≠ 0 → j < cfgRows (x.tileAt t).word →
      Gives i s (((c.setHart h (x.setX rd (BitVec.ofInt 64 (sget 0 j (x.tileAt t).rowSum)))).tileSent h 1).leave h)))
  ∧ (∀ (s : State) (h rd a r j : Nat), s.chip.TileFree h → rd < 32 → a < 4 → r < 32 →
    let i := Instr.tsumsAcc h rd a r
    let c := s.chip.given h i
    let x := c.hart h
    j < 32 → x.xr r = BitVec.ofNat 64 (32 + j) → (x.accAt a).word ≠ 0 → j < cfgCols (x.accAt a).word →
      Gives i s (((c.setHart h (x.setX rd (BitVec.ofNat 64 (sget 0 j (x.accAt a).colSum)))).tileSent h 1).leave h))

/-- TMMA and TMMAT on healthy integer operands of agreeing shapes complete: every element of the accumulator takes its old value plus the
sum of products, wrapping or saturating as INT_SAT says (R101, R105), and no proof-of-compute check fails (R136). -/
def Obligations.TmmaInteger : Prop :=
  ∀ (s : State) (h a ta tb : Nat) (trans : Bool), s.chip.TileFree h → a < 4 → ta < 8 → tb < 8 →
    let i := if trans then Instr.tmmat h a ta tb [] else Instr.tmma h a ta tb []
    let x := s.chip.hart h
    let A := x.tileAt ta
    let B := x.tileAt tb
    let C := x.accAt a
    A.Healthy → B.Healthy → C.Healthy →
    tmmaOk trans A.word B.word C.word = true → kindFloat (cfgKind A.word) = false → x.suspect a = false → x.guarded = false →
    ∃ t, Sys2Proof.Machine.exec i s = .next t ∧
      ∀ r k, r < cfgRows C.word → k < cfgCols C.word →
        elAt ((t.chip.hart h).accAt a).el r k
          = (accInt (x.csrBit csrTcsr 0) (elAt C.el r k) ((List.range (cfgCols A.word)).foldl (fun acc q =>
              acc + elemInt (cfgKind A.word) (elAt A.el r q)
                * elemInt (cfgKind B.word) (if trans then elAt B.el k q else elAt B.el q k)) 0)).1

/-- TADD on healthy integer operands completes: the sum, element by element (R106). TCVT of a healthy accumulator to an integer format
completes: each element is scaled by 2 to the power −shift and rounded (R107); the accumulator stays. -/
def Obligations.TaddTcvtInteger : Prop :=
  ((∀ (s : State) (h d a : Nat), s.chip.TileFree h → d < 4 → a < 4 →
    let x := s.chip.hart h
    let D := x.accAt d
    let S := x.accAt a
    D.Healthy → S.Healthy → cfgKind D.word = 6 → cfgKind S.word = 6 →
    cfgRows D.word = cfgRows S.word → cfgCols D.word = cfgCols S.word → x.suspect d = false → x.suspect a = false →
    ∃ t, Sys2Proof.Machine.exec (.taddAa h d a []) s = .next t ∧
      ∀ r k, r < cfgRows D.word → k < cfgCols D.word →
        elAt ((t.chip.hart h).accAt d).el r k = (accInt (x.csrBit csrTcsr 0) (elAt D.el r k) (int32 (elAt S.el r k))).1)
  ∧ (∀ (s : State) (h d b : Nat), s.chip.TileFree h → d < 4 → b < 8 →
    let x := s.chip.hart h
    let D := x.accAt d
    let S := x.tileAt b
    D.Healthy → S.Healthy → cfgKind D.word = 6 → cfgKind S.word ≠ 0 →
    kindFloat (cfgKind S.word) = false → cfgRows D.word = cfgRows S.word → cfgCols D.word = cfgCols S.word →
    x.suspect d = false → x.guarded = false →
    ∃ t, Sys2Proof.Machine.exec (.taddAt h d b []) s = .next t ∧
      ∀ r k, r < cfgRows D.word → k < cfgCols D.word →
        elAt ((t.chip.hart h).accAt d).el r k
          = (accInt (x.csrBit csrTcsr 0) (elAt D.el r k) (elemInt (cfgKind S.word) (elAt S.el r k))).1))
  ∧ (∀ (s : State) (h b a r rm : Nat), s.chip.TileFree h → b < 8 → a < 4 → r < 32 → rm < 5 →
    let x := s.chip.hart h
    let D := x.tileAt b
    let S := x.accAt a
    S.Healthy → cfgKind D.word = 3 ∨ cfgKind D.word = 4 → cfgKind S.word = 6 → x.suspect a = false →
    -64 ≤ (x.xr r).toInt → (x.xr r).toInt ≤ 63 →
    ∃ t, Sys2Proof.Machine.exec (.tcvt h b a r rm) s = .next t ∧ (t.chip.hart h).accAt a = S ∧
      ∀ i k, i < cfgRows S.word → k < cfgCols S.word →
        elAt ((t.chip.hart h).tileAt b).el i k
          = (cvtInt (cfgKind D.word == 3) false rm ((valInt (int32 (elAt S.el i k))).scale (-(x.xr r).toInt))).1)

/-- The oldest instruction of the tile unit completes: it retires, its steps are counted, and the next is tried (R73, R116). Younger
instructions of the hart retire once the unit is empty. -/
def Obligations.TileInstructionComplete : Prop :=
  ∀ (s : State) (h n : Nat) (rest : List Nat), h < 288 → (s.chip.hart h).tsent = n :: rest →
    let c := ((s.chip.onHart h (fun x => { x with tsent := rest })).retire h).countEvent h 0x40 n
    Gives (.tileInstructionComplete h) s ((if rest = [] then c.retireYounger h else c).run h)

/-- A record that TSTORE forms passes the checks of TLOAD with its tag, and gives the word and the elements back (R112, R123 to R126). -/
def Obligations.RecordRoundTrip : Prop :=
  ∀ (cfg tag : Nat) (el : Nat → Nat → Nat), cfgOk false cfg = true → cfgKind cfg ≠ 0 → tag < 2 ^ 64 → (∀ i j, el i j < 4096) →
    let r := mkRecord cfg tag el
    r.length = 1600 ∧ recFails r tag = [] ∧ recCfg r = cfg ∧ (∀ i j, i < 32 → j < 32 → recEl r i j = el i j)
    ∧ (∀ t, t < 2 ^ 64 → t ≠ tag → recFails r t = [2])

/-- TLOAD and TRESTORE of lines that the hart's L2 holds complete where no check fails, and otherwise trap with the checks that fail in
the order of R126 (R112, R121, R126); TLOADU takes rows without a check and marks the tile register unguarded (R113, R129). TSTORE, TSAVE
and TSTOREU of registers whose checks pass, to lines that the hart's L2 owns, complete: a record with the tag of rs2, the save area, the
packed rows (R112, R113, R120, R135). -/
def Obligations.TileLoadsStores : Prop :=
  ((∀ (s : State) (h t r1 r2 : Nat) (pa : Nat → Nat), s.chip.TileFree h → t < 8 → r1 < 32 → r2 < 32 →
    let i := Instr.tload h t r1 r2
    let c := s.chip.given h i
    let x := c.hart h
    let ps := lineList (x.pointer (x.xr r1)).toNat 1600
    let b := c.bytesHeld h ps pa
    let c' := c.afterReads h ps pa
    (x.xr r1).toNat % 64 = 0 → c.Translated h 1 ps pa → c.HoldsAll h ps pa →
    (recFails b (x.xr r2).toNat = [] →
      Gives i s (((c'.setHart h (((c'.hart h).putTile t (mkTile (recCfg b) (recEl b)) false).dirtyXs)).tileSent h 0).leave h))
    ∧ (∀ k ks, recFails b (x.xr r2).toNat = k :: ks →
      Gives i s (c'.tileFail h ({ kind := k, reg := t } :: ks.map (fun _ => { kind := 9, reg := t })) [] (x.xr r1))))
  ∧ (∀ (s : State) (h r1 : Nat) (pa : Nat → Nat), s.chip.TileFree h → r1 < 32 →
    let i := Instr.trestore h r1
    let c := s.chip.given h i
    let x := c.hart h
    let ps := lineList (x.pointer (x.xr r1)).toNat 28736
    let b := c.bytesHeld h ps pa
    let c' := c.afterReads h ps pa
    (x.xr r1).toNat % 64 = 0 → c.Translated h 1 ps pa → c.HoldsAll h ps pa →
    (saveFails b = [] → Gives i s (((c'.setHart h ((c'.hart h).restore b)).tileSent h 0).leave h))
    ∧ (∀ k ks, saveFails b = k :: ks →
      Gives i s (c'.tileFail h ({ kind := k, reg := 0 } :: ks.map (fun _ => { kind := 9, reg := 0 })) [] (x.xr r1))))
  ∧ (∀ (s : State) (h t r1 r2 : Nat) (pa : Nat → Nat), s.chip.TileFree h → t < 8 → r1 < 32 → r2 < 32 →
    let i := Instr.tloadu h t r1 r2
    let c := s.chip.given h i
    let x := c.hart h
    let cfg := (x.tileAt t).word
    let rows := rowPieces cfg x.pointer (x.xr r1) (x.xr r2)
    let ps := numberPieces (rows.map (fun e => (e.2.1, e.2.2)))
    let row := fun (n : Nat) => c.bytesHeld h (ps.filter (fun p => (rows.getD p.k (0, 0, 0)).1 == n)) pa
    let c' := c.afterReads h ps pa
    cfgKind cfg ≠ 0 → x.guarded = false → c.Translated h 1 ps pa → c.HoldsAll h ps pa →
    Gives i s (((c'.setHart h (((c'.hart h).putTile t (mkTile cfg (fun n j => unpackEl (row n) j)) true).dirtyXs)).tileSent h 0).leave h)))
  ∧ ((∀ (s : State) (h t r1 r2 : Nat) (pa : Nat → Nat), s.chip.TileFree h → t < 8 → r1 < 32 → r2 < 32 →
    let i := Instr.tstore h t r1 r2
    let c := s.chip.given h i
    let x := c.hart h
    let ps := lineList (x.pointer (x.xr r1)).toNat 1600
    let b := mkRecord (x.tileAt t).word (x.xr r2).toNat (elAt (x.tileAt t).el)
    (x.xr r1).toNat % 64 = 0 → cfgKind (x.tileAt t).word ≠ 0 → (x.guarded && x.ung t) = false →
    (x.tileAt t).check t 4 false = none → c.Translated h 2 ps pa → c.OwnsAll h ps pa →
    Gives i s (((c.afterStores h ps pa (fun k => ofBytes ((b.drop (64 * k)).take 64))).tileSent h 0).leave h))
  ∧ (∀ (s : State) (h r1 : Nat) (pa : Nat → Nat), s.chip.TileFree h → r1 < 32 → (s.chip.hart h).tsent = [] →
    let i := Instr.tsave h r1
    let c := s.chip.given h i
    let x := c.hart h
    let ps := lineList (x.pointer (x.xr r1)).toNat 28736
    (x.xr r1).toNat % 64 = 0 → (∀ t, t < 8 → (x.tileAt t).check t 4 true = none) →
    (∀ a, a < 4 → (x.accAt a).check (8 + a) 4 = none) → c.Translated h 2 ps pa → c.OwnsAll h ps pa →
    Gives i s (((c.afterStores h ps pa (fun k => ofBytes ((x.saveArea.drop (64 * k)).take 64))).tileSent h 0).leave h))
  ∧ (∀ (s : State) (h t r1 r2 : Nat) (pa : Nat → Nat), s.chip.TileFree h → t < 8 → r1 < 32 → r2 < 32 →
    let i := Instr.tstoreu h t r1 r2
    let c := s.chip.given h i
    let x := c.hart h
    let T := x.tileAt t
    let rows := rowPieces T.word x.pointer (x.xr r1) (x.xr r2)
    let ps := numberPieces (rows.map (fun e => (e.2.1, e.2.2)))
    cfgKind T.word ≠ 0 → (x.guarded && x.ung t) = false → T.check t 4 false = none → c.Translated h 2 ps pa → c.OwnsAll h ps pa →
    Gives i s (((c.afterStores h ps pa (fun k =>
      ofBytes ((rowBytes T.word T.el (rows.getD k (0, 0, 0)).1).drop (rowOffset rows k)))).tileSent h 0).leave h)))

/-- TSTORE of a healthy tile register to 25 lines that the L2 owns leaves in them the 1,600 bytes of its record (R112). -/
def Obligations.TstoreWritesRecord : Prop :=
  ∀ (s : State) (h t r1 r2 pa : Nat) (l : Nat → L2Line), s.chip.TileFree h → t < 8 → r1 < 32 → r2 < 32 →
    let c := s.chip.given h (.tstore h t r1 r2)
    let x := s.chip.hart h
    let a := (x.pointer (x.xr r1)).toNat
    a % 64 = 0 → pa % 64 = 0 → (x.tileAt t).Healthy → cfgKind (x.tileAt t).word ≠ 0 → x.guarded = false →
    (∀ k, k < 25 → c.translate h (BitVec.ofNat 64 (a + 64 * k)) 64 2 = (c, .pa (pa + 64 * k))) →
    (∀ k, k < 25 → c.Owns h (pa + 64 * k) (l k)) →
    ∃ s', Sys2Proof.Machine.exec (.tstore h t r1 r2) s = .next s' ∧ ∀ n, n < 1600 →
      Line.byte (s'.chip.l2at h (pa / 64 + n / 64)).data (n % 64)
        = (mkRecord (x.tileAt t).word (x.xr r2).toNat (elAt (x.tileAt t).el)).getD n 0

-- caches of a die and of a hall

/-- An L2 gives up a line: a dirty one goes to the write-back buffer unless that is full (R147, R167), a clean one of which the die keeps
no copy is announced with EVICT_CLEAN (R186), and a line that an outstanding UPGRADE concerns stays (R183). A request for a line in the
write-back buffer cancels a write-back that has not been sent, where the L2 has room for the line again, and waits for one that has
(R167). Disabling and re-enabling a landing or hall cache (R168 to R173): a command of a mode that may take it changes MODE, a dark
disable sets DARK_SEEN, power off loses the contents, ENABLE_INVALIDATE empties the cache, ENABLE_KEEP and FORCE_KEEP keep it (the latter
is reported); one that may not sets REFUSED, and one from another world than W1 is a world violation. A landing copy that alone bears an
outstanding UPGRADE of the die (R183) serves no hit and leaves when it may, and BUSY clears only then. -/
def Obligations.CacheEvictionsModes : Prop :=
  ((∀ (s : State) (h line : Nat), h < 288 → line < 2 ^ 46 → s.chip.victimOk (hartDie h) line = true →
    let l := s.chip.l2at h line
    let c := s.chip.dropL2 h line
    (l.st.dirty = true → s.chip.wbCount h < 16 →
      Gives (.l2Eviction h line) s (({ c with wb := s.chip.wb ++ [{ h := h, line := line, st := l.st, world := l.world, data := l.data
                                                                    poison := l.poison, sent := false, superseded := false }] } :
        Chip).retryInstalls (hartDie h)))
    ∧ (l.st.dirty = true → 16 ≤ s.chip.wbCount h → Gives (.l2Eviction h line) s (s.chip.retryInstalls (hartDie h)))
    ∧ (l.st = .E ∨ l.st = .S → s.chip.lndMode (hartDie h) = 1 → s.chip.lndAt (hartDie h) line = none →
      c.holders (hartDie h) line = [] → s.chip.wb = [] →
      Gives (.l2Eviction h line) s ((c.issue {
        kind := .EVICT_CLEAN, die := hartDie h, line := line, rid := h, world := (c.hart h).world, label := (c.hart h).label, acc := 1
        tag := (c.freeTag (hartDie h)).getD 0 }).retryInstalls (hartDie h))))
  ∧ (∀ (s : State) (h line : Nat), h < 288 → line < 2 ^ 46 → s.chip.victimOk (hartDie h) line = false →
    Gives (.l2Eviction h line) s s.chip)
  ∧ (∀ (s : State) (h line : Nat) (e : WbEntry), h < 288 → line < 2 ^ 46 → s.chip.wb = [e] → e.h = h → e.line = line →
    (∀ c, e.sent = false → e.superseded = false → ({ s.chip with wb := [] } : Chip).roomFor h line = some c →
      Gives (.wbBufferHit h line) s ((c.l2Put h line {
        st := e.st, world := e.world, data := e.data, poison := e.poison, hold := none, pinned := false }).runDie (hartDie h)))
    ∧ (e.sent = false → e.superseded = false → ({ s.chip with wb := [] } : Chip).roomFor h line = none →
      Gives (.wbBufferHit h line) s (s.chip.runDie (hartDie h)))
    ∧ (e.sent = true → Gives (.wbBufferHit h line) s s.chip)))
  ∧ (∀ (s : State) (who : Who) (k : CacheSel), cacheOk k = true →
    let c := s.chip
    let sts := cacheSts k
    let mode := c.fld sts F.LND_STATUS_MODE
    let kept := fun (x : Chip) => ∀ line ∈ x.cacheLines k,
      ∃ d, k = .landing d ∧ x.victimOk d line = false ∧ x.holders d line = [] ∧ line ∈ (x.die d).lndLeft
    let dark := fun (x : Chip) => x.setBit sts F.LND_STATUS_DARK_SEEN true
    (who.sealed = true → c.bit sts F.LND_STATUS_BUSY = false →
      (mode = 0 → GivesPkg (.disableTracking who k) s ((s.toPkg.cacheClean k).onChip (fun x => x.setMode k 1 true)))
      ∧ (mode ≤ 1 → GivesPkg (.disableDark who k) s ((s.toPkg.cacheClean k).onChip (fun x => dark (x.setMode k 2 true))))
      ∧ (mode ≤ 2 → ∃ t, Sys2Proof.Machine.exec (.disableOff who k) s = .next t ∧ t.chip.fld sts F.LND_STATUS_MODE = 3
        ∧ t.chip.bit sts F.LND_STATUS_DARK_SEEN = true ∧ kept t.chip)
      ∧ (1 ≤ mode → ∃ t, Sys2Proof.Machine.exec (.enableInvalidate who k) s = .next t ∧ t.chip.fld sts F.LND_STATUS_MODE = 0
        ∧ t.chip.bit sts F.LND_STATUS_DARK_SEEN = false ∧ t.chip.bit sts F.LND_STATUS_FORCED = false ∧ kept t.chip
        ∧ t.dram = s.dram)
      ∧ (mode = 1 → c.bit sts F.LND_STATUS_DARK_SEEN = false → Gives (.enableKeep who k) s (c.setMode k 0 false))
      ∧ (mode = 2 → Gives (.forceKeep who k) s
        (((c.setMode k 0 false).setBit sts F.LND_STATUS_FORCED true).report (match k with | .landing d => unitDie d | .hall n => unitHall n)
          13 who.rid who.world 1 0 (cacheCtl k).addr))
      ∧ (mode ≠ 0 → Gives (.disableTracking who k) s (c.setBit sts F.LND_STATUS_REFUSED true))
      ∧ (mode = 0 ∨ c.bit sts F.LND_STATUS_DARK_SEEN = true →
        Gives (.enableKeep who k) s (c.setBit sts F.LND_STATUS_REFUSED true)))
    ∧ (who.sealed = true → c.bit sts F.LND_STATUS_BUSY = true →
      ∀ i ∈ [Instr.disableTracking who k, .disableDark who k, .disableOff who k, .enableInvalidate who k, .enableKeep who k,
        .forceKeep who k], Gives i s (c.setBit sts F.LND_STATUS_REFUSED true))
    ∧ (who.sealed = false →
      ∀ i ∈ [Instr.disableTracking who k, .disableDark who k, .disableOff who k, .enableInvalidate who k, .enableKeep who k,
        .forceKeep who k], Gives i s (c.refuseWrite who (cacheCtl k)))
    ∧ (∀ n, k = .hall n → Gives (.cacheCmdDone k) s (c.setBit sts F.LND_STATUS_BUSY false))
    ∧ (∀ d, k = .landing d →
      ((c.die d).lndLeft = [] → Gives (.cacheCmdDone k) s (c.setBit sts F.LND_STATUS_BUSY false))
      ∧ (∀ line, (c.die d).lndLeft = [line] →
        let y := c.onDie d (fun z => { z with lndLeft := [] })
        ((c.lndAt d line).isSome = true → c.victimOk d line = false → c.holders d line = [] → Gives (.cacheCmdDone k) s c)
        ∧ ((c.lndAt d line).isSome = true → c.victimOk d line = true →
          Gives (.cacheCmdDone k) s ((if mode = 3 then y.setLnd d line none else y.lndDrop d line).setBit sts F.LND_STATUS_BUSY false)
          ∧ ∃ u, Sys2Proof.Machine.exec (.cacheCmdDone k) s = .next u ∧ u.chip.lndAt d line = none
            ∧ u.chip.bit sts F.LND_STATUS_BUSY = false)
        ∧ (c.lndAt d line = none → Gives (.cacheCmdDone k) s (y.setBit sts F.LND_STATUS_BUSY false)))))

/-- A write to the region attribute table (R156), by the monitor or Uzomuris. A BASE value that sets VALID is refused as a whole, and sets
REJECT, when LIMIT is below its BASE, when it sets PIN and the entry's WAYS is 0, or when more than ten ways would then be reserved: the
ways of the valid entries with PIN, this one as written. Any other BASE value is stored, and RESERVED_WAYS then has exactly those ways. A
write to the LIMIT of a valid entry is refused too, and one to the LIMIT of another entry is stored. -/
def Obligations.RegionTable : Prop :=
  ∀ (s : State) (who : Who) (n : Nat) (v : Word), n < 64 →
    let c := s.chip
    let valid : Bool := F.PKG_RAT_BASE_VALID.get v == 1
    let pin : Bool := F.PKG_RAT_BASE_PIN.get v == 1
    let pins := fun (m : Nat) =>
      if m = n then valid && pin else c.bit (.PKG_RAT_BASE m) F.PKG_RAT_BASE_VALID && c.bit (.PKG_RAT_BASE m) F.PKG_RAT_BASE_PIN
    let reserved := fun (w : Nat) => (List.range 64).any (fun m => pins m && bitAt (c.fld (.PKG_RAT_LIMIT m) F.PKG_RAT_LIMIT_WAYS) w)
    let bad := c.fld (.PKG_RAT_LIMIT n) F.PKG_RAT_LIMIT_LIMIT < F.PKG_RAT_BASE_BASE.get v
      ∨ (pin = true ∧ c.fld (.PKG_RAT_LIMIT n) F.PKG_RAT_LIMIT_WAYS = 0) ∨ 10 < ((List.range 12).filter reserved).length
    let y := c.storeFields (.PKG_RAT_BASE n) v
    (who.sealed = true → valid = true → bad → Gives (.pkgRatBaseWrite who n v) s (c.setBit .PKG_RAT_CTL F.PKG_RAT_CTL_REJECT true))
    ∧ (who.sealed = true → ¬ (valid = true ∧ bad) →
      Gives (.pkgRatBaseWrite who n v) s (y.setFld .PKG_RAT_CTL F.PKG_RAT_CTL_RESERVED_WAYS y.reservedWays)
      ∧ ∃ t, Sys2Proof.Machine.exec (.pkgRatBaseWrite who n v) s = .next t
        ∧ (∀ f ∈ [F.PKG_RAT_BASE_VALID, F.PKG_RAT_BASE_POLICY, F.PKG_RAT_BASE_PIN, F.PKG_RAT_BASE_BASE],
          t.chip.fld (.PKG_RAT_BASE n) f = f.get v)
        ∧ (∀ w, bitAt (t.chip.fld .PKG_RAT_CTL F.PKG_RAT_CTL_RESERVED_WAYS) w = (decide (w < 12) && reserved w))
        ∧ t.chip.bit .PKG_RAT_CTL F.PKG_RAT_CTL_REJECT = c.bit .PKG_RAT_CTL F.PKG_RAT_CTL_REJECT
        ∧ (∀ m, m < 64 → m ≠ n → t.chip.reg (.PKG_RAT_BASE m) = c.reg (.PKG_RAT_BASE m))
        ∧ (∀ m, m < 64 → t.chip.reg (.PKG_RAT_LIMIT m) = c.reg (.PKG_RAT_LIMIT m)))
    ∧ (who.sealed = true → c.bit (.PKG_RAT_BASE n) F.PKG_RAT_BASE_VALID = true →
      Gives (.pkgRatLimitWrite who n v) s (c.setBit .PKG_RAT_CTL F.PKG_RAT_CTL_REJECT true))
    ∧ (who.sealed = true → c.bit (.PKG_RAT_BASE n) F.PKG_RAT_BASE_VALID = false →
      Gives (.pkgRatLimitWrite who n v) s (c.storeFields (.PKG_RAT_LIMIT n) v)
      ∧ ∃ t, Sys2Proof.Machine.exec (.pkgRatLimitWrite who n v) s = .next t
        ∧ t.chip.fld (.PKG_RAT_LIMIT n) F.PKG_RAT_LIMIT_WAYS = F.PKG_RAT_LIMIT_WAYS.get v
        ∧ t.chip.fld (.PKG_RAT_LIMIT n) F.PKG_RAT_LIMIT_LIMIT = F.PKG_RAT_LIMIT_LIMIT.get v
        ∧ ∀ r, r.offset ≠ (Reg.PKG_RAT_LIMIT n).offset → t.chip.reg r = c.reg r)
    ∧ (who.sealed = false → Gives (.pkgRatBaseWrite who n v) s (c.refuseWrite who (.PKG_RAT_BASE n))
      ∧ Gives (.pkgRatLimitWrite who n v) s (c.refuseWrite who (.PKG_RAT_LIMIT n)))

/-- A maintenance engine (R160, R164): START with BUSY set is refused, INVALIDATE from another world than W1 ends at once with RESULT 3,
an empty range with RESULT 4, and any other START sets BUSY, WORLD and a zero WB_LINES and begins the walk of its lines. Every end of a
maintenance operation clears BUSY, sets RESULT and DONE and raises the completion event (R164): RESULT 2 for ABORT, 1 when the walk has
visited its lines, and 3 where a home refused one of them (log entry 99, the model's choice). What the engine of a die does with a line it
reaches (R159, R464). A line that no selected array holds is passed over. The die's dirty copy counts whether or not its L2 is selected.
OP 3 of every L2: the line leaves every L2 of the die, and dirty data is on its way to memory in a write-back buffer. OP 1 and OP 2 of a
dirty line send CMO_CLEAN and CMO_INVAL to its home. OP 2 and OP 3 of a clean line write nothing back. -/
def Obligations.Maintenance : Prop :=
  (∀ (s : State) (who : Who) (d n : Nat) (v : Word), d < 12 → n < 16 → mntMay who = true →
    ∀ e ∈ ([(.cmeClean who d v, d, 1), (.cmeInvalidate who d v, d, 2), (.cmeCleanInvalidate who d v, d, 3),
        (.hallMntClean who n v, 16 + n, 1), (.hallMntInvalidate who n v, 16 + n, 2), (.hallMntCleanInvalidate who n v, 16 + n, 3)] :
        List (Instr × Nat × Nat)),
    let i := e.1
    let key := e.2.1
    let op := e.2.2
    let sts := mntSts key
    startsOp v op = true →
    (s.chip.bit sts F.CME_STATUS_BUSY = true → Gives i s (s.chip.setBit sts F.CME_STATUS_START_REFUSED true))
    ∧ (s.chip.bit sts F.CME_STATUS_BUSY = false →
      let c := s.chip.storeFields (mntCtl key) v
      let lo := c.fld (mntBase key) F.CME_BASE_BASE
      let hi := c.fld (mntLimit key) F.CME_LIMIT_LIMIT
      let c1 := ((c.setFld sts F.CME_STATUS_RESULT 0).setFld sts F.CME_STATUS_WB_LINES 0).setFld sts F.CME_STATUS_WORLD who.world
      let r : MntRun := { key := key, op := op, lnd := c.bit (.CME_CTL key) F.CME_CTL_LND
                          cores := if c.bit (.CME_CTL key) F.CME_CTL_L2 then c.fld (.CME_CTL key) F.CME_CTL_CORES else 0
                          world := who.world, label := if who.rid < 288 then (c.hart who.rid).label else 0, wait := [] }
      let lines := if key < 16 then c.cmeLines r lo hi else c.mntLines (key - 16) lo hi
      (op = 2 → who.sealed = false → Gives i s (c1.mntEnd key 3))
      ∧ (¬ (op = 2 ∧ who.sealed = false) → hi < lo → Gives i s (c1.mntEnd key 4))
      ∧ (¬ (op = 2 ∧ who.sealed = false) → lo ≤ hi →
        GivesPkg i s (({ s.toPkg with chip := c1.setBit sts F.CME_STATUS_BUSY true } : Pkg).mntRun r lines)
        ∧ (lines = [] → ∃ t, Sys2Proof.Machine.exec i s = .next t ∧ t.chip.bit sts F.CME_STATUS_BUSY = true
          ∧ t.chip.fld sts F.CME_STATUS_WORLD = who.world % 16 ∧ t.chip.fld sts F.CME_STATUS_WB_LINES = 0
          ∧ (t.chip.mnt.find? (fun r => r.key == key)).isSome = true ∧ t.dram = s.dram ∧ t.chip.l2 = s.chip.l2))))
  ∧ ((∀ (s : State) (who : Who) (key : Nat), (key < 12 ∨ (16 ≤ key ∧ key < 32)) → mntMay who = true →
    let i := if key < 16 then Instr.cmeAbort who key else Instr.hallMntAbort who (key - 16)
    F.CME_CTL_START.get (s.chip.abortValue key) = 0 → s.chip.bit (mntSts key) F.CME_STATUS_BUSY = true →
    Gives i s ((s.chip.storeFields (mntCtl key) (s.chip.abortValue key)).mntEnd key 2))
  ∧ (∀ (s : State) (key : Nat) (r : MntRun), (key < 12 ∨ (16 ≤ key ∧ key < 32)) →
    let i := if key < 16 then Instr.cmeDone key else Instr.hallMntDone (key - 16)
    s.chip.mnt = [r] → r.key = key → r.wait = [] → s.chip.pair.queue = [] →
    Gives i s (s.chip.mntEnd key (if r.refused then 3 else 1)))
  ∧ (∀ (c : Chip) (key result : Nat), (key < 12 ∨ (16 ≤ key ∧ key < 32)) → result < 8 →
    let d := c.mntEnd key result
    d.bit (mntSts key) F.CME_STATUS_BUSY = false ∧ d.fld (mntSts key) F.CME_STATUS_RESULT = result
    ∧ d.bit (mntSts key) F.CME_STATUS_DONE = true))
  ∧ (∀ (c : Chip) (r : MntRun) (line : Nat), r.key < 12 →
    (∀ h, r.op = 3 → r.cores = 2 ^ 24 - 1 → c.cmeOwner r line = some h → c.wbCount h < 16 →
      let t := (c.cmeLine r line).1
      (∀ k, k / 24 = r.key → (t.l2at k line).st = .I)
      ∧ ∃ e ∈ t.wb, e.h = h ∧ e.line = line ∧ e.data = (c.l2at h line).data ∧ e.poison = (c.l2at h line).poison)
    ∧ (∀ h, c.cmeOwner r line = some h → c.cmePresent r line = true →
      (r.op = 1 → c.cmeLine r line = (c.sendMiss (288 + r.key) (r.cmo line), true) ∧ (r.cmo line).kind = .CMO_CLEAN)
      ∧ (r.op = 2 → c.cmeLine r line = (c.sendMiss (288 + r.key) (r.cmo line), true) ∧ (r.cmo line).kind = .CMO_INVAL))
    ∧ (c.cmeOwner r line = none → (c.cmeLine r line).2 = false ∧ (c.cmeLine r line).1.wb = c.wb
      ∧ (r.op = 1 → (c.cmeLine r line).1 = c)
      ∧ (r.op = 2 ∨ r.op = 3 → r.cores = 2 ^ 24 - 1 → ∀ k, k / 24 = r.key → ((c.cmeLine r line).1.l2at k line).st = .I))
    ∧ (c.cmePresent r line = false → c.cmeLine r line = (c, false))
    ∧ (c.cmePresent r line = true ↔ (∃ h, h / 24 = r.key ∧ bitAt r.cores (h % 24) = true ∧ (c.l2at h line).st ≠ .I)
      ∨ (r.lnd = true ∧ (c.lndAt r.key line).isSome = true))
    ∧ (∀ h, c.cmeOwner r line = some h → h / 24 = r.key ∧ (c.l2at h line).st.dirty = true))

-- coherence

/-- The home grants a line that no die holds, where the directory has a way for it (R180, R183, R184): its entry becomes OWNED by the
requesting die, COMP gives E to RD_SHARED and M to the others, and the line stays occupied until COMP_ACK. A request that the ownership
check refuses is answered with the CHECK code, is reported under the hall's source, and changes no directory entry (R283). -/
def Obligations.HomeGrantsRefuses : Prop :=
  (∀ (s : State) (m : Msg), m.die < 12 → s.toPkg.IdleHome m → s.chip.canArrive m = true → ridType m.rid = 0 →
    s.chip.dirAt m.line = DirEntry.none → (s.chip.dirFreeWay m.line).isSome = true →
    ∀ e ∈ ([(.rdShared m, .RD_SHARED, 1, 1), (.rdOwn m, .RD_OWN, 3, 1), (.upgrade m, .UPGRADE, 3, 1), (.rdOwnZero m, .RD_OWN_ZERO, 3, 0)] :
        List (Instr × MsgKind × Nat × Nat)), m.kind = e.2.1 →
      ∃ t, Sys2Proof.Machine.exec e.1 s = .next t ∧ t.chip.dirAt m.line = DirEntry.owned m.die
        ∧ ({ m.reply .COMP with grant := e.2.2.1, src := e.2.2.2 } : Msg) ∈ t.chip.net ∧ (t.chip.txnOf m.line).isSome = true)
  ∧ (∀ (s : State) (m : Msg) (q : Pkg) (k e : Nat), m.line < 2 ^ 46 → m.die < 12 → s.chip.canArrive m = true →
    s.chip.dieLost m.die = false → s.chip.txn = [] → s.chip.homeQ = [] → s.chip.potWaits m.line = false →
    (s.toPkg.onChip (fun c => c.arrive m)).worldCheck m.rid m.world m.line = (q, k, e) → k ≠ 0 → k ≠ 15 →
    ∀ r ∈ ([(.rdShared m, .RD_SHARED), (.rdOwn m, .RD_OWN), (.upgrade m, .UPGRADE), (.rdOwnZero m, .RD_OWN_ZERO),
        (.cmoClean m, .CMO_CLEAN), (.cmoFlush m, .CMO_FLUSH), (.cmoInval m, .CMO_INVAL)] : List (Instr × MsgKind)), m.kind = r.2 →
      GivesPkg r.1 s (q.onChip (fun c => (c.checkRefusal m.rid m.world m.acc (m.line * 64 + m.sub)).sendDie { m.reply .WCHK_RSP with
        pass := false, code := k, mask := BitVec.ofNat 64 e })))

/-- A request to own a line that other dies share (R184): each of them receives SNP_INV, and the last RSP makes the requesting die the
line's owner in M; COMP_ACK ends the transaction (R187). -/
def Obligations.HomeInvalidates : Prop :=
  (∀ (s : State) (m : Msg) (e : DirEntry) (d : Nat), m.die < 12 → s.toPkg.IdleHome m → s.chip.canArrive m = true → ridType m.rid = 0 →
    s.chip.dirAt m.line = e → e.state = 1 → e.bcast = false → d ∈ e.ptrs → d ≠ m.die → d < 12 → s.chip.NoneLost →
    ∀ r ∈ ([(.rdOwn m, .RD_OWN), (.upgrade m, .UPGRADE), (.rdOwnZero m, .RD_OWN_ZERO)] : List (Instr × MsgKind)), m.kind = r.2 →
      ∃ t, Sys2Proof.Machine.exec r.1 s = .next t ∧ t.chip.dirAt m.line = e
        ∧ ({ m.reply .SNP_INV with die := d, fwd := m.die, rkind := m.rkind } : Msg) ∈ t.chip.net
        ∧ ∃ x, t.chip.txnOf m.line = some x ∧ x.await = e.ptrs.filter (· ≠ m.die))
  ∧ (∀ (s : State) (m : Msg) (x : Txn), m.kind = .RSP → m.line < 2 ^ 46 → m.die < 12 → s.chip.canArrive m = true → m.dcode = 0 →
    s.chip.txn = [x] → s.chip.homeQ = [] → x.req.line = m.line → x.await = [m.die] → x.before.state = 1 → x.lost = false →
    (x.req.kind = .RD_OWN ∨ x.req.kind = .UPGRADE ∨ x.req.kind = .RD_OWN_ZERO) → x.req.die < 12 →
    s.chip.dieLost x.req.die = false →
    ∃ t, Sys2Proof.Machine.exec (.rsp m) s = .next t ∧ t.chip.dirAt m.line = DirEntry.owned x.req.die
      ∧ ∃ y ∈ t.chip.net, y.kind = .COMP ∧ y.die = x.req.die ∧ y.line = m.line ∧ y.grant = 3)
  ∧ (∀ (s : State) (m : Msg) (x : Txn), m.kind = .COMP_ACK → m.line < 2 ^ 46 → m.die ≤ 12 → s.chip.canArrive m = true → s.chip.txn = [x] →
    s.chip.homeQ = [] → x.req.line = m.line → x.granted = true → x.req.die = m.die → s.chip.NoneLost →
    Gives (.compAck m) s { s.chip.arrive m with txn := [] })

/-- Cache-block operations of a hart and accesses of an I/O agent to a line that no die holds (R184, R317): a CMO completes with COMP;
WR_FULL leaves its line in memory, WR_PART its bytes, IO_ATOMIC its result, with the old bytes in DATA; RD_ONCE takes the line that the
hall cache holds. -/
def Obligations.HomeIo : Prop :=
  (∀ (s : State) (m : Msg), m.die < 12 → s.toPkg.IdleHome m → s.chip.canArrive m = true → ridType m.rid = 0 →
    s.chip.dirAt m.line = DirEntry.none → s.chip.mirrorRegion (m.line / 64) = none →
    ∀ r ∈ ([(.cmoClean m, .CMO_CLEAN), (.cmoFlush m, .CMO_FLUSH), (.cmoInval m, .CMO_INVAL)] : List (Instr × MsgKind)), m.kind = r.2 →
      ∃ t, Sys2Proof.Machine.exec r.1 s = .next t ∧ t.chip.dirAt m.line = DirEntry.none ∧ t.dram = s.dram ∧ m.reply .COMP ∈ t.chip.net)
  ∧ (∀ (s : State) (m : Msg), m.die = 12 → s.toPkg.IdleHome m → s.chip.canArrive m = true → ridType m.rid = 5 →
    s.chip.dirAt m.line = DirEntry.none → s.chip.mirrorRegion (m.line / 64) = none → s.chip.isCxl m.line = false →
    s.chip.inService (s.chip.homeHall m.line) = true →
    let old := s.toPkg.memRead m.line
    (m.kind = .WR_FULL → ∃ t, Sys2Proof.Machine.exec (.wrFull m) s = .next t ∧ t.toPkg.memRead m.line = (m.data, m.poison)
      ∧ m.reply .COMP ∈ t.chip.net ∧ t.chip.txn = [])
    ∧ (m.kind = .WR_PART → ∃ t, Sys2Proof.Machine.exec (.wrPart m) s = .next t
      ∧ t.toPkg.memRead m.line = (Line.merge old.1 m.data m.mask, m.poison || (old.2 && m.mask != BitVec.allOnes 64))
      ∧ m.reply .COMP ∈ t.chip.net ∧ t.chip.txn = [])
    ∧ (m.kind = .IO_ATOMIC → ∀ new, atomicOp m.code (Line.slice old.1 m.sub (atomicSize m.code)) (atomicArgs m.code m.data).1
          (atomicArgs m.code m.data).2 = some new →
      ∃ t, Sys2Proof.Machine.exec (.ioAtomic m) s = .next t
        ∧ t.toPkg.memRead m.line = (Line.patch old.1 m.sub (atomicSize m.code) new, old.2) ∧ t.chip.txn = []
        ∧ ({ m.reply .DATA with
              data := BitVec.ofNat 512 (Line.slice old.1 m.sub (atomicSize m.code)), poison := old.2 } : Msg) ∈ t.chip.net))
  ∧ (∀ (s : State) (m : Msg) (x : HcLine), m.kind = .RD_ONCE → m.die = 12 → s.toPkg.IdleHome m → s.chip.canArrive m = true →
    ridType m.rid = 5 → s.chip.dirAt m.line = DirEntry.none → s.chip.hcMode (s.chip.homeHall m.line) = 0 → s.chip.hcAt m.line = some x →
    s.chip.policy m.line ≠ 3 →
    ∃ t, Sys2Proof.Machine.exec (.rdOnce m) s = .next t ∧ t.dram = s.dram ∧ t.chip.txn = []
      ∧ ({ m.reply .DATA with data := x.data, poison := x.poison } : Msg) ∈ t.chip.net)

/-- Write-backs and evictions at the home (R184, R191): WB_DATA from the die that the entry names as owner is written and acknowledged,
and from another die it is discarded, counted and answered with WB_ACK_STALE; EVICT_CLEAN frees the entry of the evicting owner; WCHK is
answered; HALL_RD fills the ownership cache of the hall that asks with what memory holds, and nothing where the home's port is shut
(R282). -/
def Obligations.HomeWriteBack : Prop :=
  (∀ (s : State) (m : Msg), m.kind = .WB_DATA → m.line < 2 ^ 46 → m.die < 12 → s.chip.canArrive m = true → s.chip.dieLost m.die = false →
    s.chip.txn = [] → s.chip.homeQ = [] → s.chip.wb = [] →
    (s.chip.dirAt m.line = DirEntry.owned m.die → s.chip.mirrorRegion (m.line / 64) = none → s.chip.isCxl m.line = false →
      s.chip.inService (s.chip.homeHall m.line) = true →
      ∃ t, Sys2Proof.Machine.exec (.wbData m) s = .next t ∧ t.toPkg.memRead m.line = (m.data, m.poison)
        ∧ t.chip.dirAt m.line = (if m.keep then { state := 1, bcast := false, owner := 0, ptrs := [m.die] } else DirEntry.none)
        ∧ ({ m.reply .WB_ACK with data := m.data, poison := m.poison } : Msg) ∈ t.chip.net)
    ∧ (¬ (2 ≤ (s.chip.dirAt m.line).state ∧ (s.chip.dirAt m.line).owner = m.die) →
      Gives (.wbData m) s (((s.chip.arrive m).bump (.HALL_DIR_COUNT (s.chip.homeHall m.line)) F.HALL_DIR_COUNT_STALE_WB).sendDie
        (m.reply .WB_ACK_STALE))))
  ∧ (∀ (s : State) (m : Msg), m.kind = .EVICT_CLEAN → m.line < 2 ^ 46 → m.die < 12 → s.chip.canArrive m = true →
    s.chip.dieLost m.die = false → s.chip.txn = [] → s.chip.homeQ = [] → s.chip.dirAt m.line = DirEntry.owned m.die →
    Gives (.evictClean m) s ((s.chip.arrive m).setDir m.line DirEntry.none))
  ∧ (∀ (s : State) (m : Msg), m.kind = .WCHK → m.line < 2 ^ 46 → m.die < 12 → s.chip.canArrive m = true → s.chip.wldCommitted = false →
    ridType m.rid = 0 →
    Gives (.wchk m) s ((s.chip.arrive m).sendDie { m.reply .WCHK_RSP with pass := true, code := 0, mask := 0 }))
  ∧ (∀ (s : State) (m : Msg), m.kind = .HALL_RD → m.line < 2 ^ 46 → m.die ≤ 12 → s.chip.canArrive m = true → ridType m.rid = 4 →
    let hall := ridIndex m.rid
    let shut := s.chip.homeHall m.line ≠ hall ∧ s.chip.homeShut m.line = true
    let r := (s.toPkg.onChip (fun c => c.arrive m)).potFetch hall m.line
    (r.2.2 = false → GivesPkg (.hallRd m) s (r.1.onChip (fun c => c.owncFill hall m.line r.2.1)))
    ∧ (r.2.2 = false → 0 < s.chip.owncWays hall m.line →
      ∃ t, Sys2Proof.Machine.exec (.hallRd m) s = .next t ∧ sget none (owncKey hall m.line) t.chip.ownc = some r.2.1)
    ∧ (r.2.2 = true → GivesPkg (.hallRd m) s r.1)
    ∧ (shut → Gives (.hallRd m) s ((s.chip.arrive m).agentUnavail (0x4000 + hall) 2 7 m.line))
    ∧ (¬ shut → s.chip.isCxl m.line = false → s.chip.inService (s.chip.homeHall m.line) = true → r.2 = s.toPkg.memRead m.line))

/-- A hall that is told of the loss of a die marks the purge and frees its entries of that die (R195), and nothing happens for a die whose
purge is not under way; when all sixteen have been told and no entry names the die, the busy flags clear unless another die is being
purged, and the die-state event is raised. The end of a hold serves the snoops that waited for it (R188). -/
def Obligations.LostDiePurge : Prop :=
  (∀ (s : State) (n d : Nat), n < 16 → d < 12 →
    ((s.chip.die d).purging = false → Gives (.hallDiePurge n d) s s.chip)
    ∧ ((s.chip.die d).purging = true → s.chip.txn = [] → s.chip.homeQ = [] →
      ∃ t, Sys2Proof.Machine.exec (.hallDiePurge n d) s = .next t ∧ (t.chip.die d).told.contains n = true
        ∧ t.chip.bit (.HALL_DIR_STATUS n) F.HALL_DIR_STATUS_PURGE_BUSY = true
        ∧ t.chip.fld (.HALL_DIR_STATUS n) F.HALL_DIR_STATUS_PURGE_DIE = d
        ∧ ∀ line, s.chip.homeHall line = n → ¬ (2 ≤ (t.chip.dirAt line).state ∧ (t.chip.dirAt line).owner = d)
          ∧ ((t.chip.dirAt line).bcast = false → d ∉ (t.chip.dirAt line).ptrs)))
  ∧ (∀ (s : State) (d : Nat), d < 12 → (s.chip.die d).purging = true → s.chip.dirFree d = true →
    (∀ n, n < 16 → (s.chip.die d).told.contains n = true) →
    let ends := fun (c : Chip) => (c.onDie d (fun x => { x with purging := false, told := [] })).raiseEvent (192 + d)
    ((∀ x, x < 12 → x ≠ d → (s.chip.die x).purging = false) →
      Gives (.diePurgeDone d) s (ends (forUpTo 16 (fun n x => x.setBit (.HALL_DIR_STATUS n) F.HALL_DIR_STATUS_PURGE_BUSY false) s.chip)))
    ∧ ((∃ x, x < 12 ∧ x ≠ d ∧ (s.chip.die x).purging = true) → Gives (.diePurgeDone d) s (ends s.chip)))
  ∧ (∀ (s : State) (h line : Nat), h < 288 → line < 2 ^ 46 →
    let l := s.chip.l2at h line
    (s.chip.held l = true → Gives (.holdWindowEnd h line) s s.chip)
    ∧ (s.chip.held l = false → Gives (.holdWindowEnd h line) s
      ((s.chip.setL2 h line { l with hold := none, pinned := false, winning := false }).serveSnoops (hartDie h) line)))

/-- A die answers a snoop at once, or queues it behind a hold (R185, R188); a die that does not run answers nothing. SNP_OWN, SNP_INV and
BACK_INV leave no copy in an L2 of the die; from a die whose one copy is in M, SNP_SHARED leaves O and forwards the dirty line, SNP_CLEAN
leaves E and returns it, SNP_ONCE changes nothing. -/
def Obligations.DieSnoops : Prop :=
  (∀ (s : State) (m : Msg), m.line < 2 ^ 46 → m.die < 12 → s.chip.canArrive m = true →
    ∀ r ∈ ([(.snpShared m, .SNP_SHARED), (.snpOwn m, .SNP_OWN), (.snpInv m, .SNP_INV), (.snpOnce m, .SNP_ONCE), (.snpClean m, .SNP_CLEAN),
        (.backInv m, .BACK_INV)] : List (Instr × MsgKind)), m.kind = r.2 →
    (s.chip.dieUp m.die = true → s.chip.snoopQ = [] → s.chip.dieHolds m.die m.line = false →
      Gives r.1 s ((((s.chip.arrive m).answerSnoop m).runDie m.die).retryInstalls m.die))
    ∧ (s.chip.dieUp m.die = true → s.chip.snoopQ = [] → s.chip.dieHolds m.die m.line = true →
      Gives r.1 s { s.chip.arrive m with snoopQ := [m] })
    ∧ (s.chip.dieUp m.die = false → Gives r.1 s (s.chip.arrive m)))
  ∧ (∀ (c : Chip) (m : Msg) (h : Nat), m.kind = .SNP_OWN ∨ m.kind = .SNP_INV ∨ m.kind = .BACK_INV → h / 24 = m.die →
    ((c.snoop m).1.l2at h m.line).st = .I)
  ∧ (∀ (c : Chip) (m : Msg) (h : Nat), c.holders m.die m.line = [h] → (c.l2at h m.line).st = .M → c.wbOf m.die m.line = none →
    let l := c.l2at h m.line
    (m.kind = .SNP_SHARED → ((c.snoop m).1.l2at h m.line).st = .O
      ∧ (c.snoop m).2 = { held := 2, dcode := 2, dirty := true, poison := l.poison, data := l.data })
    ∧ (m.kind = .SNP_CLEAN → ((c.snoop m).1.l2at h m.line).st = .E
      ∧ (c.snoop m).2 = { held := 3, dcode := 1, dirty := true, poison := l.poison, data := l.data })
    ∧ (m.kind = .SNP_ONCE → c.snoop m = (c, { held := 3, dcode := 1, dirty := true, poison := l.poison, data := l.data })))

/-- Answers reach a die. DATA and FWD_DATA wait for COMP, and COMP with its data installs the line where the L2 has room, answers COMP_ACK
and lets the die's harts go on (R147, R183); acknowledged write-backs leave the buffer (R191), and where the home kept the die's name for
copies that have left, EVICT_CLEAN tells it (R177); a passed world check moves the line that was hit to the requester's world (R148), a
refused one goes to the access that waits for it, and to none in a hart that has left the refused world (R64); a register access takes its
answer, and UNAVAIL gives it an access fault (R205, R217). -/
def Obligations.DieAnswers : Prop :=
  (∀ (s : State) (m : Msg) (x : Miss), m.line < 2 ^ 46 → m.die < 12 → s.chip.canArrive m = true → s.chip.miss = [x] →
    x.req.die = m.die → x.req.line = m.line → x.req.tag = m.tag → x.comp = none →
    let c := s.chip.arrive m
    let none_ : Chip := { c with miss := [] }
    (m.kind = .DATA → Gives (.data m) s { c with miss := [{ x with data := some m }] })
    ∧ (m.kind = .FWD_DATA → Gives (.fwdData m) s { c with miss := [{ x with fwd := some m }] })
    ∧ (∀ y, m.kind = .COMP → m.src = 1 → x.data = some y → x.req.kind = .RD_OWN → m.grant = 3 →
      s.chip.engineAwaits m.die m.line = false → (none_.dropOthers x.h m.line).l2HasRoom x.h m.line = true →
      Gives (.comp m) s (((((none_.dropOthers x.h m.line).installL2 x.h m.line .M x.req.world y.data (y.poison || m.poison)).ackComp
        x.req).runDie m.die).retryInstalls m.die))
    ∧ (∀ y, m.kind = .COMP → m.src = 1 → x.data = some y → x.req.kind = .RD_SHARED → m.grant = 1 →
      s.chip.engineAwaits m.die m.line = false → none_.l2HasRoom x.h m.line = true →
      Gives (.comp m) s (((((none_.installL2 x.h m.line .E x.req.world y.data (y.poison || m.poison)).lndAlloc m.die m.line x.h y.data
        (y.poison || m.poison) x.req.world true).ackComp x.req).runDie m.die).retryInstalls m.die)))
  ∧ (∀ (s : State) (m : Msg) (e : WbEntry), m.line < 2 ^ 46 → m.die < 12 → s.chip.canArrive m = true → s.chip.wb = [e] → e.sent = true →
    e.h / 24 = m.die → e.line = m.line →
    let gone : Chip := { s.chip.arrive m with wb := [] }
    let goOn := fun (c : Chip) => ((c.sweepL2 e.h).retryInstalls m.die).runDie m.die
    (m.kind = .WB_ACK → e.keep = false → Gives (.wbAck m) s (goOn (gone.lndUpdate m.die m.line e.data e.poison false)))
    ∧ (m.kind = .WB_ACK → e.keep = true →
      Gives (.wbAck m) s (goOn ((gone.lndUpdate m.die m.line e.data e.poison false).evictClean m.die m.line e.h)))
    ∧ (m.kind = .WB_ACK_STALE → Gives (.wbAckStale m) s (goOn gone)))
  ∧ (∀ (s : State) (m : Msg) (h tag : Nat), m.kind = .WCHK_RSP → m.line < 2 ^ 46 → m.die < 12 → m.rid / 24 = m.die →
    s.chip.canArrive m = true → s.chip.wchk = [(m.rid, m.line, tag)] → s.chip.miss = [] →
    let c : Chip := { s.chip.arrive m with wchk := [] }
    (m.pass = true → s.chip.lndAt m.die m.line = none → s.chip.holders m.die m.line = [h] →
      Gives (.wchkRsp m) s ((c.setL2 h m.line { s.chip.l2at h m.line with world := m.world }).runDie m.die))
    ∧ (m.pass = false → m.acc ≠ 8 → (s.chip.hart m.rid).hq ≠ [] → (s.chip.hart m.rid).world = m.world →
      Gives (.wchkRsp m) s ((c.onHart m.rid (fun x => { x with refusal := some (m.line, m.code, m.mask.toNat) })).runDie m.die))
    ∧ (m.pass = false → m.acc ≠ 8 → (s.chip.hart m.rid).hq ≠ [] → (s.chip.hart m.rid).world ≠ m.world →
      Gives (.wchkRsp m) s ((c.onHart m.rid (fun x => x)).runDie m.die))
    ∧ (m.pass = false → m.acc = 8 → Gives (.wchkRsp m) s (c.countEvent m.rid 0x31)))
  ∧ (∀ (s : State) (m : Msg), m.line < 2 ^ 46 → m.die < 12 → m.rid < 288 → s.chip.canArrive m = true → (s.chip.hart m.rid).io = some none →
    let took := fun (st : Nat) (v : Word) =>
      ((s.chip.arrive m).onHart m.rid (fun x => { x with io := some (some (st, v)) })).runDie m.die
    (m.kind = .IO_RSP → Gives (.ioRsp m) s (took m.code (m.data.setWidth 64)))
    ∧ (m.kind = .IO_ACK → Gives (.ioAck m) s (took 0 (m.data.setWidth 64)))
    ∧ (m.kind = .UNAVAIL → s.chip.missOf m.die m.line = none → Gives (.unavail m) s (took 1 0)))

-- the gallery

/-- Packets (R206 to R210, R216, R220, R224, R234): one that an open port offers enters its router, each corrected error counted and an
uncorrectable data unit poisoning it; one that has won its output takes its hop, or leaves the mesh for its die's link or the unit at its
port; one whose header cannot be corrected is discarded and recorded; a packet for a fenced port goes into the fence hold; a credit frees
one unit; a packet held for FENCE_LIMIT is answered with UNAVAIL; a line of two trace records is written at TPTR, and a refused write sets
TERR. -/
def Obligations.GalleryPackets : Prop :=
  (∀ (s : State) (r port plane vc : Nat) (p : Packet) (head data : UnitError), vcOk r port plane vc = true → packetOk p = true → p.vc = vc →
    s.chip.offered r port p = true → s.chip.gal.stuck.contains (bufKey r port plane vc) = false → p.srcR = r → port = 4 + p.srcPort →
    let k := bufKey r port plane vc
    (s.chip.destState p = 0 → s.chip.hasRoom k plane p.units = true → cmdPlane p.cmd = plane → head ≠ .uncorrectable →
      s.chip.bit (.GAL_PRB_CTL r) F.GAL_PRB_CTL_EN = false →
      let d := if p.units = 2 then data else .none
      Gives (.packetHop r port plane vc (some p) ⟨head, data⟩) s (((((s.chip.taken r port p).bump (.GAL_ERR_STATUS r) F.GAL_ERR_STATUS_CORR
        (flag (head == .corrected) + flag (d == .corrected))).bump (.GAL_ERR_STATUS r) F.GAL_ERR_STATUS_UNCORR_DATA
          (flag (d == .uncorrectable))).pushBuf k
            (if d = .uncorrectable then { p with msg := { p.msg with poison := true } } else p))))
    ∧ (s.chip.destState p = 2 → pktIsReg p = false → (s.chip.heldAt r port).length < 8 →
      let c := s.chip.taken r port p
      Gives (.packetHop r port plane vc (some p) ⟨head, data⟩) s (({ c with gal := { c.gal with
        hold := c.gal.hold ++ [{ r := r, port := port, pkt := p, since := s.chip.now }] } } : Chip).heldCount r)))
  ∧ (∀ (s : State) (r port plane vc : Nat) (p0 : Packet) (rest : List Packet), vcOk r port plane vc = true →
    let k := bufKey r port plane vc
    s.chip.bufAt k = p0 :: rest →
    let p := s.chip.readdress r p0
    let c1 : Chip := { s.chip with gal := { s.chip.gal with buf := sset [] k (p :: rest) s.chip.gal.buf } }
    let out := s.chip.outPort r p
    let c := (c1.served r out plane vc port).popBuf k
    c1.canLeave r out plane vc p = true → c1.winningVc r out plane = some vc → c1.winningInput r out plane vc = some port →
    (∀ x, neighbour r out = none → s.chip.destState p ≠ 3 → linkAt p.destR p.destPort = some x →
      let e := c.linkEnd x false
      Gives (.packetHop r port plane vc none ⟨.none, .none⟩) s (c.setLinkEnd x false { e with out := e.out ++ [p] }))
    ∧ (neighbour r out = none → s.chip.destState p ≠ 3 → linkAt p.destR p.destPort = none →
      Gives (.packetHop r port plane vc none ⟨.none, .none⟩) s { c with
        dlv := sset [] (p.destR * 3 + p.destPort) (c.delivered p.destR p.destPort ++ [p]) c.dlv })
    ∧ (∀ n, neighbour r out = some n → cmdPlane p.cmd = plane → s.chip.bit (.GAL_PRB_CTL n.1) F.GAL_PRB_CTL_EN = false →
      Gives (.packetHop r port plane vc none ⟨.corrected, .none⟩) s (((c.bump (.GAL_ERR_STATUS n.1) F.GAL_ERR_STATUS_CORR 1).bump
        (.GAL_ERR_STATUS n.1) F.GAL_ERR_STATUS_UNCORR_DATA 0).pushBuf (bufKey n.1 n.2 plane vc) p))
    ∧ (∀ n data, neighbour r out = some n → Gives (.packetHop r port plane vc none ⟨.uncorrectable, data⟩) s
      (((c.setBit (.GAL_ERR_STATUS n.1) F.GAL_ERR_STATUS_HDR_UNCORR true).setFld (.GAL_ERR_STATUS n.1) F.GAL_ERR_STATUS_HDR_PORT
        n.2).report (unitRouter n.1) 8 (0x7000 + n.1) 1 15)))
  ∧ (∀ (s : State) (r port plane vc : Nat), vcOk r port plane vc = true →
    let k := bufKey r port plane vc
    ((s.chip.bufAt k).map (fun p => p.units)).sum < s.chip.usedAt k →
    Gives (.creditReturn r port plane vc) s { s.chip with gal := { s.chip.gal with used := sset 0 k (s.chip.usedAt k - 1) s.chip.gal.used } })
  ∧ (∀ (s : State) (r : Nat) (h : HeldPkt), r < 48 → s.chip.gal.hold = [h] → h.r = r → s.chip.homeQ = [] →
    (h.since + s.chip.fld (.GAL_FENCE_CTL h.pkt.destR) F.GAL_FENCE_CTL_FENCE_LIMIT ≤ s.chip.now →
      Gives (.fenceHoldTimeout r) s ((({ s.chip with gal := { s.chip.gal with hold := [] } } : Chip).undeliverable r h.pkt 1).heldCount r))
    ∧ (s.chip.now < h.since + s.chip.fld (.GAL_FENCE_CTL h.pkt.destR) F.GAL_FENCE_CTL_FENCE_LIMIT →
      Gives (.fenceHoldTimeout r) s s.chip))
  ∧ (∀ (s : State) (r : Nat) (a b : BitVec 256) (rest : List (BitVec 256)), r < 48 → sget [] r s.chip.gal.trace = a :: b :: rest →
    let c := s.chip
    let ctl := Reg.GAL_PRB_CTL r
    let line := c.fld (.GAL_PRB_TPTR r) F.GAL_PRB_TPTR_NEXT
    c.bit ctl F.GAL_PRB_CTL_FULL = false → c.bit ctl F.GAL_PRB_CTL_TERR = false → c.ioIdle line = true →
    let q : Pkg := { s.toPkg with chip := { c with gal := { c.gal with trace := sset [] r rest c.gal.trace } } }
    let w := q.ioWrite 0x5004 (c.fld ctl F.GAL_PRB_CTL_TRACE_WORLD) (c.fld ctl F.GAL_PRB_CTL_TRACE_LABEL) line
      (a.setWidth 512 ||| (b.setWidth 512 <<< 256)) (BitVec.allOnes 64) false
    (w.2 = 0 → GivesPkg (.traceRec r) s (w.1.onChip (fun x => x.tptrNext r)))
    ∧ (w.2 ≠ 0 → GivesPkg (.traceRec r) s (w.1.onChip (fun x => x.setBit ctl F.GAL_PRB_CTL_TERR true))))

/-- Fences and reconfiguration (R215 to R221): FENCE takes an open port to STATE 1, each marker is noted once, and with every marker there
and the domain drained the port is fenced; a FENCE of a port that is fenced or disabled leaves it so (log entry 118, the model's choice);
UNFENCE opens a fenced port; DIS of a fenced port disables it; GAL_ID changes only while the gallery is quiet; what may not be done sets
REFUSED, and a write from another world than W1 is a world violation. -/
def Obligations.GalleryFences : Prop :=
  (∀ (s : State) (who : Who) (r : Nat) (v : Word), r < 48 → who.sealed = true →
    let y := s.chip.storeFields (.GAL_FENCE_CTL r) v
    let port := F.GAL_FENCE_CTL_PORT.get v
    (F.GAL_FENCE_CTL_CMD.get v = 1 → s.chip.fenceBad who r port = false → s.chip.portState r port = 0 →
      Gives (.fenceCommand who r v) s (y.beginFence r port))
    ∧ (F.GAL_FENCE_CTL_CMD.get v = 1 → s.chip.fenceBad who r port = true →
      Gives (.fenceCommand who r v) s (s.chip.setBit (.GAL_FENCE_STATUS r) F.GAL_FENCE_STATUS_REFUSED true))
    ∧ (F.GAL_FENCE_CTL_CMD.get v = 1 → s.chip.fenceBad who r port = false → s.chip.portState r port ≠ 0 → Gives (.fenceCommand who r v) s y)
    ∧ (F.GAL_FENCE_CTL_CMD.get v = 2 → s.chip.homeQ = [] → y.portState r port = 2 → Gives (.unfence who r v) s ((y.setPortState r port 0).releaseHeld r port))
    ∧ (F.GAL_FENCE_CTL_CMD.get v = 2 → s.chip.homeQ = [] → y.portState r port ≠ 2 →
      Gives (.unfence who r v) s (y.setBit (.GAL_FENCE_STATUS r) F.GAL_FENCE_STATUS_REFUSED true)))
  ∧ (∀ (s : State) (who : Who) (r : Nat) (v : Word), r < 48 → who.sealed = false →
    (F.GAL_FENCE_CTL_CMD.get v = 1 → Gives (.fenceCommand who r v) s (s.chip.refuseWrite who (.GAL_FENCE_CTL r)))
    ∧ (F.GAL_FENCE_CTL_CMD.get v = 2 → s.chip.homeQ = [] → Gives (.unfence who r v) s (s.chip.refuseWrite who (.GAL_FENCE_CTL r)))
    ∧ Gives (.galPortCtlWrite who r v) s (s.chip.refuseWrite who (.GAL_PORT_CTL r))
    ∧ Gives (.galIdWrite who r v) s (s.chip.refuseWrite who (.GAL_ID r)))
  ∧ (∀ (s : State) (r port src plane vc : Nat), r < 48 → port < 2 → src < 144 → plane < 3 → vc < vcCount plane →
    s.chip.portState r port = 1 → s.chip.injects src = true → s.chip.ahead r port src plane vc = false →
    s.chip.gal.marks.contains (r * 2 + port, markKey src plane vc) = false →
    Gives (.fenceMark r port src plane vc) s
      { s.chip with gal := { s.chip.gal with marks := s.chip.gal.marks ++ [(r * 2 + port, markKey src plane vc)] } })
  ∧ (∀ (s : State) (r port : Nat), r < 48 → port < 2 → s.chip.portState r port = 1 → s.chip.allMarks r port = true →
    (s.chip.delivered r port).all pktIsReg = true → s.chip.drained (attachOf r port) = true →
    Gives (.fenceDrained r port) s (({ s.chip with gal := { s.chip.gal with
      marks := s.chip.gal.marks.filter (fun m => m.1 != r * 2 + port) } } : Chip).setPortState r port 2))
  ∧ (∀ (s : State) (r port : Nat), r < 48 → port < 2 → s.chip.allMarks r port = false → Gives (.fenceDrained r port) s s.chip)
  ∧ (∀ (s : State) (who : Who) (r : Nat) (v : Word), r < 48 → who.sealed = true →
    (bitAt (s.chip.reg (.GAL_PORT_CTL r)).toNat 0 = false → bitAt v.toNat 0 = true →
      bitAt (s.chip.reg (.GAL_PORT_CTL r)).toNat 1 = bitAt v.toNat 1 →
      (s.chip.portState r 0 = 2 → ∃ t, Sys2Proof.Machine.exec (.galPortCtlWrite who r v) s = .next t ∧ t.chip.portState r 0 = 3)
      ∧ (s.chip.portState r 0 < 2 →
        Gives (.galPortCtlWrite who r v) s (s.chip.setBit (.GAL_FENCE_STATUS r) F.GAL_FENCE_STATUS_REFUSED true)))
    ∧ (s.chip.galQuiet = true → F.GAL_ID_Y.get v < 6 → Gives (.galIdWrite who r v) s (s.chip.storeFields (.GAL_ID r) v))
    ∧ (s.chip.galQuiet = false ∨ 6 ≤ F.GAL_ID_Y.get v →
      Gives (.galIdWrite who r v) s (s.chip.setBit (.GAL_FENCE_STATUS r) F.GAL_FENCE_STATUS_REFUSED true)))

-- Jotor links and compute dies

/-- Bundles (R228 to R235): the bundle that an end sends next, arriving whole and in order on a die link, is accepted, and stays in the
sender's replay buffer; one that fails its CRC is discarded and asked for again, and the sixteenth failure of one SEQ fails the link; NAK
and the replay timeout send every unacknowledged bundle again; LINK_DOWN stops a link, and on a failed link the sibling sends what the
other end has not had, control units among it; KEEPALIVE is noted. -/
def Obligations.LinkBundles : Prop :=
  (∀ (s : State) (k : Nat) (atDie : Bool) (b : Bundle) (z : SentBundle), k < 24 → b.units.length ≤ 8 → b.units ≠ [] →
    s.chip.linkState k = 2 → bndGood b = true → bndCtl b = [] → Bundle.field b 41 41 = 0 →
    let e := s.chip.linkEnd k atDie
    let o := s.chip.linkEnd k (!atDie)
    s.chip.sends k (!atDie) [] = some z → b.units = z.units → b.trailer = (o.form k z).trailer → z.seq = e.expSeq → o.resend = [] →
    ∃ t, Sys2Proof.Machine.exec (.bundleReceive k atDie b) s = .next t ∧ (t.chip.linkEnd k atDie).rx = b.units
      ∧ (t.chip.linkEnd k atDie).rxBuf = e.rxBuf ++ z.pkts ∧ (t.chip.linkEnd k atDie).expSeq = (e.expSeq + 1) % seqMod k
      ∧ (t.chip.linkEnd k atDie).nakFor = none ∧ ∃ x ∈ (t.chip.linkEnd k (!atDie)).replay, x.seq = z.seq ∧ x.passed = true)
  ∧ (∀ (s : State) (k : Nat) (b : Bundle), k < 24 → b.units.length ≤ 8 → b.units ≠ [] → s.chip.linkState k = 2 → bndGood b = false →
    let e := s.chip.linkEnd k true
    let run := (if e.failSeq = e.expSeq then e.failRun else 0) + 1
    let c0 := s.chip.setLinkEnd k true { e with lastHeard := s.chip.now }
    let c1 := match s.chip.sends k false (s.chip.linkEnd k false).ctl with
      | none => c0
      | some z => c0.noteSent k false z
    let c := c1.setLinkEnd k true { e with
      lastHeard := s.chip.now, nakFor := some e.expSeq, nakOut := true, failSeq := e.expSeq, failRun := run }
    (run < 16 → Gives (.bundleReceive k true b) s c)
    ∧ (16 ≤ run → ∃ t, Sys2Proof.Machine.exec (.bundleReceive k true b) s = .next t ∧ t.chip.linkState k = 3
      ∧ t.chip.fld (.JL_STATUS k) F.JL_STATUS_FAIL_CAUSE = 1))
  ∧ (∀ (s : State) (k ack : Nat) (atDie : Bool), k < 26 → ack < seqMod k → s.chip.linkState k = 2 →
    (s.chip.linkEnd k atDie).retryAt = [] →
    let e := (s.chip.linkEnd k atDie).acked k s.chip.now ack
    e.replay ≠ [] → ∃ t, Sys2Proof.Machine.exec (.nak k atDie ack) s = .next t
      ∧ (t.chip.linkEnd k atDie).resend = e.replay ∧ (t.chip.linkEnd k atDie).replay = e.replay)
  ∧ (∀ (s : State) (k : Nat) (atDie : Bool), k < 26 → s.chip.linkState k = 2 → (s.chip.linkEnd k atDie).retryAt = [] →
    let e := s.chip.linkEnd k atDie
    let due := e.waitFrom + s.chip.fld (.JL_CFG k) F.JL_CFG_REPLAY_TIMEOUT
    (due ≤ s.chip.now → e.replay ≠ [] → ∃ t, Sys2Proof.Machine.exec (.replayTimeout k atDie) s = .next t
      ∧ (t.chip.linkEnd k atDie).resend = e.replay)
    ∧ (s.chip.now < due → Gives (.replayTimeout k atDie) s s.chip))
  ∧ (∀ (s : State) (k last : Nat) (atDie : Bool), k < 26 → last < seqMod k → s.chip.linkState (linkSibling k) = 2 →
    let e := s.chip.linkEnd k atDie
    let unheard := e.replay.filter (fun x => !x.bad && decide ((x.seq + seqMod k - (last + 1) % seqMod k) % seqMod k < seqMod k / 2))
    let onward := fun (x : Chip) =>
      let z := x.linkEnd (linkSibling k) atDie
      (x.setLinkEnd k atDie { e with replay := [], resend := [], out := [], ctl := [] }).setLinkEnd (linkSibling k) atDie
        { z with out := unheard.flatMap (fun x => x.pkts) ++ e.out ++ z.out
                 ctl := z.ctl ++ (unheard.flatMap SentBundle.ctl ++ e.ctl).filter (fun u => u.toNat % 256 != 1) }
    (s.chip.linkState k = 3 → GivesPkg (.linkDown k atDie last) s
        ((s.toPkg.onChip (fun _ => onward (s.chip.sendLinkCtl k atDie 5))).pairFailed k)
      ∧ Gives (.linkSync k atDie last) s (onward s.chip))
    ∧ (s.chip.linkState k = 2 → Gives (.linkSync k atDie last) s s.chip
      ∧ ∃ t, Sys2Proof.Machine.exec (.linkDown k atDie last) s = .next t ∧ t.chip.linkState k = 3))
  ∧ (∀ (s : State) (k : Nat), k < 24 → s.chip.linkState k = 2 → Gives (.keepalive k) s
    (s.chip.setLinkEnd k false { s.chip.linkEnd k false with lastHeard := s.chip.now }))

/-- A die starts (R236 to R244): its reset trains its links once its rail is within R43 (a rail that was off or lost is turned on), its
IDENT is accepted or the die held out with the cause, and IDENT_ACK after the package commit enables its capabilities and starts every
bound hart in M-mode and world W1 at CD_RESET_VECTOR. A die stops (R242 to R246): QUIESCE of a running die stops its harts and empties
their L2s of dirty lines as far as the write-back buffers have room (R147), QUIESCED lets the halls purge it, and the end of the quiesce
fences its ports; POWER_OFF turns its rail off and takes its links down, but a failed one (R235); a die that makes no progress for
DIE_TIMEOUT_US is lost; a command in another state sets REFUSED, and one from another world than W1 is a world violation. -/
def Obligations.DieStartStop : Prop :=
  ((∀ (s : State) (who : Who) (d : Nat) (st : DieStart), d < 12 → dieStartOk st = true → who.sealed = true →
    let ready : Bool := s.chip.dieState d == 0 || s.chip.dieState d == 5 || s.chip.railWithin d
    ([0, 4, 5, 6].contains (s.chip.dieState d) = true → ready = true → st.trainA = true ∨ st.trainB = true →
      ∃ t, Sys2Proof.Machine.exec (.dieReset who d st) s = .next t ∧ t.chip.dieState d = 1
        ∧ (st.trainA = true → t.chip.linkState (2 * d) = 2) ∧ (st.trainB = true → t.chip.linkState (2 * d + 1) = 2))
    ∧ ([0, 4, 5, 6].contains (s.chip.dieState d) = true → ready = false →
      ∃ t, Sys2Proof.Machine.exec (.dieReset who d st) s = .next t ∧ t.chip.dieState d = 1 ∧ (t.chip.die d).startWait = some st
        ∧ t.chip.linkState (2 * d) = 0 ∧ t.chip.linkState (2 * d + 1) = 0)
    ∧ ([0, 4, 5, 6].contains (s.chip.dieState d) = true → ready = true → st.trainA = false → st.trainB = false →
      ∃ t, Sys2Proof.Machine.exec (.dieReset who d st) s = .next t ∧ t.chip.dieState d = 6
        ∧ t.chip.fld (.PKG_DIE_STATUS d) F.PKG_DIE_STATUS_CAUSE = 12)
    ∧ ([0, 4, 5, 6].contains (s.chip.dieState d) = false →
      Gives (.dieReset who d st) s (s.chip.setBit (.PKG_DIE_STATUS d) F.PKG_DIE_STATUS_REFUSED true)))
  ∧ (∀ (s : State) (d : Nat) (st : DieStart), d < 12 → dieStartOk st = true → s.chip.dieState d = 1 → (s.chip.die d).identOk = false →
    s.chip.linkState (2 * d) = 2 ∨ s.chip.linkState (2 * d + 1) = 2 →
    let id := if s.chip.linkState (2 * d) = 2 then st.identA else st.identB
    (s.chip.identCause d st = 0 → ∃ t, Sys2Proof.Machine.exec (.ident d st) s = .next t ∧ (t.chip.die d).identOk = true
      ∧ (t.chip.die d).ident = id ∧ t.chip.dieState d = 1
      ∧ (s.chip.bit .PKG_CTL F.PKG_CTL_COMMITTED = false → t.chip.reg (.PKG_DIE_SERIAL d) = BitVec.ofNat 64 id.serial))
    ∧ (s.chip.identCause d st ≠ 0 → Gives (.ident d st) s (s.chip.holdOut d (s.chip.identCause d st))))
  ∧ (∀ (s : State) (d : Nat), d < 12 → s.chip.dieState d = 1 → (s.chip.die d).identOk = true →
    s.chip.bit .PKG_CTL F.PKG_CTL_COMMITTED = true → (s.chip.die d).purging = false →
    ∃ t, Sys2Proof.Machine.exec (.identAck d) s = .next t ∧ t.chip.dieState d = 2
      ∧ ((t.chip.die d).capEn = if s.chip.bit .PKG_DIE_CFG F.PKG_DIE_CFG_HETERO_ALLOW then (s.chip.die d).ident.cap
          else s.chip.fld .PKG_CAP_COMMON F.PKG_CAP_COMMON_CAP)
      ∧ ∀ h, hartDie h = d → s.chip.corePhys h ≠ 31 → (s.chip.hart h).haltPending = false → (t.chip.hart h).run = .running ∧ (t.chip.hart h).priv = 3
        ∧ (t.chip.hart h).world = 1 ∧ (t.chip.hart h).pc = s.chip.resetPc d)
  ∧ (∀ (s : State) (d cause : Nat), d < 12 → cause < 16 → s.chip.dieState d = 6 →
    s.chip.fld (.PKG_DIE_STATUS d) F.PKG_DIE_STATUS_CAUSE = cause → Gives (.hold d cause) s ((s.chip.dieClear d).disableDie d)))
  ∧ ((∀ (s : State) (who : Who) (d : Nat), d < 12 → who.sealed = true →
    (s.chip.dieState d = 2 → ∃ t, Sys2Proof.Machine.exec (.quiesce who d) s = .next t ∧ t.chip.dieState d = 3
      ∧ ∀ h, hartDie h = d → (t.chip.hart h).run = .held ∧ (t.chip.hart h).hq = []
        ∧ ((s.chip.dirtyLines h).length + s.chip.wbCount h ≤ 16 → ∀ line, (t.chip.l2at h line).st.dirty = false))
    ∧ (s.chip.dieState d ≠ 2 → Gives (.quiesce who d) s (s.chip.setBit (.PKG_DIE_STATUS d) F.PKG_DIE_STATUS_REFUSED true))
    ∧ ([4, 5, 6].contains (s.chip.dieState d) = true → Gives (.diePowerOff who d) s
      ((((((s.chip.dieClear d).moveLinks d 0 [1, 2, 4]).clearLinks d).setDieState d 0 0).railOff d).raiseEvent (192 + d))))
  ∧ (∀ (s : State) (who : Who) (d : Nat) (st : DieStart), d < 12 → who.sealed = false → dieStartOk st = true →
    let c := s.chip.refuseWrite who (.PKG_DIE_CTL d)
    Gives (.quiesce who d) s c ∧ Gives (.diePowerOff who d) s c ∧ Gives (.dieReset who d st) s c)
  ∧ (∀ (s : State) (d : Nat), d < 12 → s.chip.dieState d = 3 →
    (s.chip.dieSettled d = true →
      Gives (.quiesced d) s ((s.chip.quiescePurge d).onDie d (fun x => { x with quiesced := true })))
    ∧ ((s.chip.die d).quiesced = true → ∃ t, Sys2Proof.Machine.exec (.dieQuiesceDone d) s = .next t ∧ t.chip.dieState d = 4
      ∧ ∀ p ∈ diePorts d, t.chip.portState p.1 p.2 = 2)
    ∧ ((s.chip.die d).quiesced = false → Gives (.dieQuiesceDone d) s s.chip))
  ∧ (∀ (s : State) (d : Nat), d < 12 → s.chip.dieUp d = true →
    (s.chip.dieStuck d = true → ∃ t, Sys2Proof.Machine.exec (.dieResponseTimeout d) s = .next t ∧ t.chip.dieState d = 5
      ∧ ∀ h, hartDie h = d → t.chip.hart h = { Hart.reset with haltPending := (s.chip.hart h).haltPending })
    ∧ (s.chip.dieStuck d = false → Gives (.dieResponseTimeout d) s s.chip)))

-- time, supply and power

/-- The time base and the rails (R37 to R39, R47 to R51, R56): a lost reference sets HOLDOVER, clears REFCLK_OK and raises the condition
of source 5, and once it has been good for 100 µs the holdover and the condition end, neither stepping package time; a change of a die's
rail is reported in V_NOW_MV and BELOW_FUNC and leaves the harts, the L2s, memory and package time as they were; a DRAM rail at zero loses
the DRAM's bytes; a brown-out that lasts is reported, and a rail that is or has been below the retention floor takes its die to FAILED; a
droop below its mark is counted (that of VIOD below the mark of log entry 76). -/
def Obligations.SupplyRails : Prop :=
  (∀ s : State, s.chip.bit .PKG_TIME_STATUS F.PKG_TIME_STATUS_HOLDOVER = false →
    ∃ t, Sys2Proof.Machine.exec .refclkFailure s = .next t ∧ t.chip.bit .PKG_TIME_STATUS F.PKG_TIME_STATUS_HOLDOVER = true
      ∧ t.chip.bit .PKG_TIME_STATUS F.PKG_TIME_STATUS_REFCLK_OK = false ∧ t.chip.bit (.FC_SRC 5) F.FC_SRC_CAUSE = true
      ∧ t.chip.now = s.chip.now)
  ∧ (∀ (s : State) (g : Nat), s.chip.bit .PKG_TIME_STATUS F.PKG_TIME_STATUS_HOLDOVER = true → s.chip.refclkGoodAt = some g →
    (g + 100000 ≤ s.chip.now →
      ∃ t, Sys2Proof.Machine.exec .holdoverExit s = .next t ∧ t.chip.bit .PKG_TIME_STATUS F.PKG_TIME_STATUS_HOLDOVER = false
        ∧ t.chip.bit (.FC_SRC 5) F.FC_SRC_CAUSE = false ∧ t.chip.now = s.chip.now)
    ∧ (s.chip.now < g + 100000 → Gives .holdoverExit s s.chip))
  ∧ (∀ (s : State) (rail mv tj : Nat), mv < 2048 → tj < 256 →
    (rail < 12 → ∃ t, Sys2Proof.Machine.exec (.supplyChange rail mv tj) s = .next t
      ∧ t.chip.fld (.CD_SUPPLY_STATUS rail) F.CD_SUPPLY_STATUS_V_NOW_MV = min mv 1023
      ∧ (t.chip.bit (.CD_SUPPLY_STATUS rail) F.CD_SUPPLY_STATUS_BELOW_FUNC = true ↔ mv < 500)
      ∧ t.chip.harts = s.chip.harts ∧ t.chip.l2 = s.chip.l2 ∧ t.dram = s.dram ∧ t.chip.now = s.chip.now)
    ∧ (12 ≤ rail → rail < 16 → ∃ t, Sys2Proof.Machine.exec (.supplyChange rail mv tj) s = .next t ∧ sget 0 rail t.chip.rail = mv
      ∧ (mv = 0 → ∀ a, a < 0x40000000000 → t.readByte a = 0) ∧ (mv ≠ 0 → t.dram = s.dram)))
  ∧ (∀ (s : State) (d mv : Nat), d < 12 → mv < 1024 →
    (mv < s.chip.fld (.CD_SUPPLY_CFG d) F.CD_SUPPLY_CFG_DROOP_MARK_MV →
      let n := sget 0 d s.chip.uz.dieDroops
      Gives (.droopEvent d mv) s ((((({ s.chip with uz := { s.chip.uz with
        dieDroops := sset 0 d ((n + 1) % 2 ^ 32) s.chip.uz.dieDroops } } : Chip).onDie d (fun x => { x with
          floorLost := x.floorLost || mv < 420 })).noteMin d mv).bump (.CD_SUPPLY_STATUS d) F.CD_SUPPLY_STATUS_DROOP_COUNT)))
    ∧ (s.chip.fld (.CD_SUPPLY_CFG d) F.CD_SUPPLY_CFG_DROOP_MARK_MV ≤ mv → Gives (.droopEvent d mv) s s.chip)
    ∧ (500 ≤ mv → s.chip.dieState d ≠ 0 → s.chip.dieState d ≠ 5 → Gives (.railRecovery d mv) s (s.chip.setDieMv d mv)))
  ∧ (∀ (s : State) (mv : Nat), mv < 1024 →
    (mv < iodDroopMark → Gives (.droopEvent 12 mv) s { s.chip with
      iodDroops := s.chip.iodDroops + 1, viodFloor := s.chip.viodFloor || mv < 420 })
    ∧ (iodDroopMark ≤ mv → Gives (.droopEvent 12 mv) s s.chip))
  ∧ (∀ (s : State) (d since : Nat), d < 12 → (s.chip.die d).belowSince = some since → s.chip.dieState d ≠ 0 → s.chip.dieState d ≠ 5 →
    (since + 1000 < s.chip.now → Gives (.brownout d) s
      (((s.chip.setBit (.CD_SUPPLY_STATUS d) F.CD_SUPPLY_STATUS_BROWNOUT true).setBit (.FC_SRC (64 + 12 * d + 2)) F.FC_SRC_CAUSE
        true).report (unitSup 0) (64 + 12 * d + 2) (0x1000 + 16 * d + 2) 1 15))
    ∧ (s.chip.now ≤ since + 1000 → Gives (.brownout d) s s.chip))
  ∧ (∀ (s : State) (d : Nat), d < 12 → s.chip.dieUp d = true →
    ((s.chip.die d).mv < 420 ∨ (s.chip.die d).floorLost = true → ∃ t, Sys2Proof.Machine.exec (.retentionLost d) s = .next t ∧ t.chip.dieState d = 5
      ∧ t.chip.bit (.CD_SUPPLY_STATUS d) F.CD_SUPPLY_STATUS_RETENTION_LOST = true
      ∧ t.chip.bit (.FC_SRC (64 + 12 * d + 2)) F.FC_SRC_CAUSE = true)
    ∧ (420 ≤ (s.chip.die d).mv → (s.chip.die d).floorLost = false → Gives (.retentionLost d) s s.chip))
  ∧ (∀ s : State, let f := (s.chip.setBit (.FC_SRC 1) F.FC_SRC_CAUSE true).report (unitSup 0) 1 (0x7000 + 67) 1 15
    (sget 0 12 s.chip.railBadAt ≠ 0 → sget 0 12 s.chip.railBadAt + 1000 ≤ s.chip.now → Gives (.iodBrownout false) s f)
    ∧ (sget 0 12 s.chip.rail < 420 ∨ s.chip.viodFloor = true → Gives (.iodBrownout true) s { f with uz := { s.chip.uz with resetPending := true } }))
  ∧ (∀ (s : State) (rail : Nat), 13 ≤ rail → rail < 16 → sget 0 rail s.chip.railBadAt ≠ 0 →
    sget 0 rail s.chip.railBadAt + 200 ≤ s.chip.now →
    Gives (.phyRailFault rail) s ((s.chip.setBit (.FC_SRC (rail - 11)) F.FC_SRC_CAUSE true).report (unitSup (rail - 12)) (rail - 11)
      (0x7000 + 68 + (rail - 13)) 1 15))
  ∧ (∀ (s : State) (who : Who) (d : Nat), d < 12 → ∃ t, Sys2Proof.Machine.exec (.vMinReset who d) s = .next t
    ∧ t.chip.fld (.CD_SUPPLY_STATUS d) F.CD_SUPPLY_STATUS_V_MIN_MV = 1023)
  ∧ (∀ (s : State) (rail : Nat), rail < 16 →
    (sget 0 rail s.chip.pmbusMiss = 2 → Gives (.pmbusTelemetryRead rail false) s
      (((({ s.chip with pmbusMiss := sset 0 rail 3 s.chip.pmbusMiss } : Chip).pmbusSend rail [.readVin, .readVout, .readIout,
        .readTemperature1, .statusWord]).setBit (.FC_SRC 6) F.FC_SRC_CAUSE true).report unitUz 6 0x5000 1 15))
    ∧ (∃ t, Sys2Proof.Machine.exec (.pmbusTelemetryRead rail true) s = .next t ∧ sget 0 rail t.chip.pmbusMiss = 0))

/-- Pacers, DROOP_N and power limits (R52 to R59): an allowance never passes the ceiling, nor the estimate the ceiling by more than 5 %;
the allowance grows by at most RATE, and does not grow in an emergency; while the pacer works the estimate never passes the allowance that
was in force, and the next allowance is at most one growth above the estimate, so that the current rises no faster; the package's growth
goes only to running dies short of it; DROOP_N cuts the allowances to EMERG_PCT until its hold is over; a peak episode begins and ends
with the 100 µs average, and one of PEAK_MS is overrun; a value out of range changes no field. -/
def Obligations.SupplyPower : Prop :=
  (∀ (s : State) (d : Nat), d < 12 → ∃ t, Sys2Proof.Machine.exec (.pacerUpdate d) s = .next t
    ∧ (t.chip.die d).allow ≤ s.chip.ceiling d
    ∧ t.chip.fld (.CD_PACER_STATUS d) F.CD_PACER_STATUS_EST_A * 10000 ≤ s.chip.ceiling d * 105
    ∧ (s.chip.bit (.CD_PACER_CFG d) F.CD_PACER_CFG_PACE_EN = true →
      (t.chip.die d).allow ≤ (s.chip.die d).allow + s.chip.fld (.CD_PACER_CFG d) F.CD_PACER_CFG_RATE)
    ∧ (s.chip.emergency d = true → (t.chip.die d).allow ≤ (s.chip.die d).allow)
    ∧ (s.chip.bit (.CD_PACER_CFG d) F.CD_PACER_CFG_PACE_EN = true ∨ s.chip.emergency d = true →
      (t.chip.die d).est ≤ (s.chip.die d).allow ∧ (t.chip.die d).allow ≤ (t.chip.die d).est + s.chip.growth d))
  ∧ (∀ s : State, ∃ t, Sys2Proof.Machine.exec .pkgPacerUpdate s = .next t ∧ ∀ d, d < 12 →
    (t.chip.die d).pkgShare ≤ s.chip.fld (.CD_PACER_CFG d) F.CD_PACER_CFG_RATE * 10
    ∧ ((s.chip.die d).demand ≤ (s.chip.die d).allow ∨ s.chip.dieUp d = false → (t.chip.die d).pkgShare = 0))
  ∧ (∀ s : State, s.chip.pins.droopN = true → s.chip.bit .PKG_PACER_CFG F.PKG_PACER_CFG_DROOP_N_EN = true →
    ∃ t, Sys2Proof.Machine.exec .droopNAssert s = .next t ∧ t.chip.pins.droopN = false ∧ t.chip.uz.droops = s.chip.uz.droops + 1
      ∧ ∀ d ∈ s.chip.droopDies, t.chip.emergency d = true
        ∧ (t.chip.die d).allow = (s.chip.die d).allow * s.chip.fld .PKG_PACER_CFG F.PKG_PACER_CFG_EMERG_PCT / 100)
  ∧ (∀ s : State, s.chip.pins.droopN = true → s.chip.bit .PKG_PACER_CFG F.PKG_PACER_CFG_DROOP_N_EN = false →
    Gives .droopNAssert s { s.chip with
      pins := { s.chip.pins with droopN := false }, uz := { s.chip.uz with droops := s.chip.uz.droops + 1 } })
  ∧ (∀ s : State, s.chip.pins.droopN = false → ∃ t, Sys2Proof.Machine.exec .droopNRelease s = .next t ∧ t.chip.pins.droopN = true ∧ ∀ d, d < 12 →
    s.chip.emergency d = true →
    (t.chip.die d).droopEnd = some (s.chip.now + s.chip.fld .PKG_PACER_CFG F.PKG_PACER_CFG_DROOP_HOLD * 100))
  ∧ (∀ (s : State) (d e : Nat), d < 12 → (s.chip.die d).droopEnd = some e →
    (e ≤ s.chip.now → s.chip.pins.droopN = true → Gives (.droopHoldExpiry d) s
      ((s.chip.onDie d (fun x => { x with droopEnd := none })).setBit (.CD_PACER_STATUS d) F.CD_PACER_STATUS_EMERGENCY false))
    ∧ (s.chip.now < e → Gives (.droopHoldExpiry d) s s.chip))
  ∧ (∀ (s : State) (w : Nat),
    (s.chip.bit .PKG_POWER_STATUS F.PKG_POWER_STATUS_PEAK_ACTIVE = true → w ≤ s.chip.tdp →
      ∃ t, Sys2Proof.Machine.exec (.powerSample w) s = .next t ∧ t.chip.bit .PKG_POWER_STATUS F.PKG_POWER_STATUS_PEAK_ACTIVE = false
        ∧ t.chip.fld .PKG_POWER_STATUS F.PKG_POWER_STATUS_PKG_W = min w 2047)
    ∧ (s.chip.bit .PKG_POWER_STATUS F.PKG_POWER_STATUS_PEAK_ACTIVE = false → s.chip.tdp < w → s.chip.peakBar = false →
      s.chip.peakMs ≠ 0 → ∃ t, Sys2Proof.Machine.exec (.powerSample w) s = .next t ∧ t.chip.peakAt = some s.chip.now
        ∧ t.chip.bit .PKG_POWER_STATUS F.PKG_POWER_STATUS_PEAK_ACTIVE = true))
  ∧ (∀ (s : State) (b : Nat), s.chip.peakAt = some b →
    (b + s.chip.peakMs * 1000000 ≤ s.chip.now → ∃ t, Sys2Proof.Machine.exec .peakOverrun s = .next t
      ∧ t.chip.bit .PKG_POWER_STATUS F.PKG_POWER_STATUS_PEAK_ACTIVE = false
      ∧ t.chip.bit .PKG_POWER_STATUS F.PKG_POWER_STATUS_PEAK_OVERRUN = true ∧ t.chip.peakAt = none)
    ∧ (s.chip.now < b + s.chip.peakMs * 1000000 → Gives .peakOverrun s s.chip))
  ∧ (∀ (s : State) (who : Who) (v : Word),
    (who.sealed = true → powerCfgOk v = true → Gives (.pkgPowerCfgWrite who v) s (s.chip.storeFields .PKG_POWER_CFG v))
    ∧ (who.sealed = true → powerCfgOk v = false → Gives (.pkgPowerCfgWrite who v) s
      (s.chip.setBit .PKG_POWER_STATUS F.PKG_POWER_STATUS_CFG_REJECT true))
    ∧ (who.sealed = false → Gives (.pkgPowerCfgWrite who v) s (s.chip.refuseWrite who .PKG_POWER_CFG)))

-- halls and bandwidth regulation

/-- The flight of R255 has 1,024 treads: exactly MAINT maintenance treads and, for each class, exactly its guaranteed treads. -/
def Obligations.FlightBuilt : Prop :=
  ∀ (maint : Nat) (g : Nat → Nat), 0 < maint → maint + (List.range 15).foldl (fun a k => a + g k) 0 ≤ 1024 →
    let f := buildFlight maint g
    f.length = 1024 ∧ (f.filter (· == .maint)).length = maint ∧ ∀ k, k < 15 → (f.filter (· == .guar k)).length = g k

/-- Halls (R251 to R256, R269, R315 to R323): a revolution builds its flight anew; a guaranteed tread goes to a usable request of its
class, and a read is answered with its line; a window gives a class that had backlog and fewer treads than guaranteed its miss; the sensor
sets double refresh and throttling; the patrol engine reads a line when it is due, and moves on; RETURN leaves every line of the channel
poisoned. -/
def Obligations.HallFlights : Prop :=
  (∀ (s : State) (n : Nat), n < 16 → s.chip.inService n = true → (s.chip.hall n).flight = [] ∨ 1024 ≤ (s.chip.hall n).pos →
    ∃ t, Sys2Proof.Machine.exec (.revolutionBoundary n) s = .next t ∧ (t.chip.hall n).pos = 0
      ∧ (t.chip.hall n).flight = buildFlight (s.chip.maint n) (s.chip.guarTreads n))
  ∧ (∀ (s : State) (n k i : Nat) (ready : List Nat) (w : TreadReq), n < 16 → s.chip.inService n = true → s.chip.uz.tripped = false →
    s.chip.throttles n = false → (s.chip.hall n).flight[(s.chip.hall n).pos]? = some (.guar k) →
    (s.chip.usable n ready).find? (fun i => (s.chip.hall n).clsAt i == k) = some i → (s.chip.hall n).waiting[i]? = some w →
    (w.write = true → ∃ t, Sys2Proof.Machine.exec (.tread n ready []) s = .next t ∧ (t.chip.hall n).pos = (s.chip.hall n).pos + 1
      ∧ (t.chip.hall n).waiting = dropAt i (s.chip.hall n).waiting ∧ t.dram = s.dram)
    ∧ (w.write = false → w.done = false → w.req.die = 12 → s.chip.homeQ = [] → ∃ t, Sys2Proof.Machine.exec (.tread n ready []) s = .next t
      ∧ ({ w.req.reply .DATA with data := (s.toPkg.chanRead w.line).1, poison := (s.toPkg.chanRead w.line).2 } : Msg) ∈ t.chip.net))
  ∧ (∀ (s : State) (n k : Nat), n < 16 → k < 15 → (s.chip.hall n).winLeft = 1 →
    s.chip.bit (.HALL_FLIGHT_STATUS n) F.HALL_FLIGHT_STATUS_WARMUP = false → (s.chip.hall n).idle.contains k = false →
    sget 0 k (s.chip.hall n).credited < (s.chip.hall n).winLen * sget 0 k (s.chip.hall n).g →
    ∃ t, Sys2Proof.Machine.exec (.windowEnd n) s = .next t ∧ bitAt (t.chip.fld .QOS_MISS F.QOS_MISS_MISS) k = true
      ∧ t.chip.bit (.HALL_CLASS_STAT n k) F.HALL_CLASS_STAT_LAST_MISS = true)
  ∧ (∀ (s : State) (n x : Nat), n < 16 → x < 105 → s.chip.inService n = true →
    ∃ t, Sys2Proof.Machine.exec (.dimmThermalRead n x) s = .next t
      ∧ (t.chip.bit (.HALL_FLIGHT_STATUS n) F.HALL_FLIGHT_STATUS_REFRESH_X2 = true ↔ 85 ≤ x)
      ∧ (t.chip.throttles n = true ↔ 95 ≤ x ∨ (s.chip.throttles n = true ∧ 92 ≤ x)))
  ∧ (∀ (s : State) (n : Nat), n < 16 → s.chip.bit (.HALL_PATROL_CFG n) F.HALL_PATROL_CFG_EN = true → s.chip.inService n = true →
    let line := s.chip.lineAt n (s.chip.fld (.HALL_PATROL_STATUS n) F.HALL_PATROL_STATUS_POS)
    (s.chip.lineIdle line = true → s.chip.retRoom n = true → (s.chip.hall n).waiting.any (fun t => t.known) = false →
      s.chip.patrolDue n = true → (s.toPkg.chanRead line).2 = false →
      Gives (.patrolRead n []) s ((((s.chip.patrolNext n).countBytes n 15).onHall n (fun h => { h with patrolAt := s.chip.now })).owesBurst
        line 15 false true { kind := .HALL_RD, line := line, rid := 0x4000 + n, world := 1, acc := 7 } true))
    ∧ (s.chip.lineIdle line = false ∨ s.chip.patrolDue n = false → Gives (.patrolRead n []) s s.chip))
  ∧ (∀ (p : Pkg) (n line rid world acc d : Nat) (w : Word), w ≠ 0 →
    (p.dramRead n line rid world acc [(d, w)]).2 = p.chanRead line)
  ∧ (∀ (s : State) (who : Who) (n : Nat), n < 16 →
    let r := Reg.HALL_DRAM_CTL n
    let c := s.chip.storeFields r (F.HALL_DRAM_CTL_CMD.put 0 1)
    (who.sealed = true → s.chip.inService n = false → s.chip.bit r F.HALL_DRAM_CTL_BUSY = false →
      Gives (.chanReturn who n) s (c.setBit r F.HALL_DRAM_CTL_BUSY true))
    ∧ (who.sealed = true → s.chip.inService n = true → Gives (.chanReturn who n) s (c.setBit r F.HALL_DRAM_CTL_REFUSED true))
    ∧ (who.sealed = false → Gives (.chanReturn who n) s (s.chip.refuseWrite who r)))
  ∧ (∀ (s : State) (n : Nat), n < 16 → s.chip.bit (.HALL_DRAM_CTL n) F.HALL_DRAM_CTL_BUSY = true →
    (∃ t, Sys2Proof.Machine.exec (.chanReturnDone n true) s = .next t ∧ t.chip.inService n = true
      ∧ ∀ line, line * 64 < s.chip.dramTop → s.chip.homeHall line = n → (t.toPkg.chanRead line).2 = true)
    ∧ (∃ t, Sys2Proof.Machine.exec (.chanReturnDone n false) s = .next t
      ∧ t.chip.bit (.FC_SRC (208 + 12 * n + 11)) F.FC_SRC_CAUSE = true ∧ t.chip.inService n = s.chip.inService n ∧ t.dram = s.dram))

/-- Bandwidth regulation (R259 to R272): a commit that R261 refuses changes nothing but RESULT, and an accepted one puts the whole staged
set in force at once; SCALE and SHORTFALL follow the recomputation; a balance grows by the port's share up to BURST; a division divides
every LIMIT by the activity of the period, and in the next a port that still holds a request is active; QOS_BYTES sums the halls' counts.
-/
def Obligations.Regulation : Prop :=
  (∀ (s : State) (who : Who) (v : Word), F.QOS_CTL_COMMIT.get v = 1 → F.QOS_CTL_MON_EN.get v = 0 → who.sealed = true →
    let c := s.chip.storeFields .QOS_CTL v
    (s.chip.bit .QOS_STATUS F.QOS_STATUS_BUSY = true → Gives (.qosCommit who v) s (c.setFld .QOS_STATUS F.QOS_STATUS_RESULT 4))
    ∧ (s.chip.bit .QOS_STATUS F.QOS_STATUS_BUSY = false → c.commitResult ≠ 1 →
      Gives (.qosCommit who v) s (c.setFld .QOS_STATUS F.QOS_STATUS_RESULT c.commitResult))
    ∧ (s.chip.bit .QOS_STATUS F.QOS_STATUS_BUSY = false → c.commitResult = 1 →
      ∃ t, Sys2Proof.Machine.exec (.qosCommit who v) s = .next t ∧ t.chip.bit .QOS_STATUS F.QOS_STATUS_BUSY = true
        ∧ (∀ l, l < 64 → sget 0 l t.chip.qosMap = s.chip.fld (.QOS_LABEL_MAP l) F.QOS_LABEL_MAP_CLASS)
        ∧ (∀ k, k < 15 → t.chip.clsWord k = s.chip.reg (.QOS_CLASS k))
        ∧ t.chip.qosCap = s.chip.fld .QOS_CAPACITY F.QOS_CAPACITY_CAPACITY))
  ∧ (∀ (s : State) (who : Who) (v : Word), F.QOS_CTL_COMMIT.get v = 1 → who.sealed = false →
    Gives (.qosCommit who v) s (s.chip.refuseWrite who .QOS_CTL))
  ∧ (∀ s : State, s.chip.bit .QOS_STATUS F.QOS_STATUS_BUSY = true →
    ∃ t, Sys2Proof.Machine.exec .qosCommitDone s = .next t ∧ t.chip.bit .QOS_STATUS F.QOS_STATUS_BUSY = false
      ∧ t.chip.fld .QOS_STATUS F.QOS_STATUS_RESULT = 1)
  ∧ (∀ s : State, ∃ t, Sys2Proof.Machine.exec .scaleRecompute s = .next t ∧ t.chip.scale = s.chip.factor.2
    ∧ (t.chip.bit .QOS_STATUS F.QOS_STATUS_SHORTFALL = s.chip.factor.1))
  ∧ (∀ (s : State) (port k : Nat), port < 26 → k < 15 → s.chip.injQ = [] → s.chip.safeQ = [] →
    ∃ t, Sys2Proof.Machine.exec (.tokenRefill port) s = .next t
      ∧ t.chip.tokenOf port k = (if s.chip.unlimited k then (s.chip.burstOf k * 64 * tokUnit : Int)
          else min (s.chip.burstOf k * 64 * tokUnit : Int) (s.chip.tokenOf port k + (sget 0 (port * 16 + k) s.chip.portRate : Nat))))
  ∧ (∀ s : State, ∃ t, Sys2Proof.Machine.exec .limitDivision s = .next t
    ∧ (∀ q, q ∈ t.chip.active ↔ (∃ x ∈ s.chip.injQ, x.1 = q) ∨ ∃ m ∈ s.chip.safeQ, s.chip.tokenQueue m = some q)
    ∧ ∀ port k, port < 26 → k < 15 → sget 0 (port * 16 + k) t.chip.portRate = s.chip.shareOf port k)
  ∧ (∀ s : State, ∃ t, Sys2Proof.Machine.exec .qosBytesSum s = .next t ∧ ∀ k, k < 16 →
    t.chip.fld (.QOS_BYTES k) F.QOS_BYTES_BYTES
      = (List.range 16).foldl (fun a n => a + s.chip.fld (.HALL_CLASS_BYTES n k) F.HALL_CLASS_BYTES_BYTES) 0 % 2 ^ 48)

-- worlds

/-- The page ownership table (R279, R287 to R290): the commit begins the format or is refused with COMMIT_ERR, and the format's end puts
ownership checks in force; a write to WLD_POT_OP is refused for another world, while an operation runs, before the commit, for TO 2 and
for a page in the wrong state or homed in a hall that is powered down, waits for a power request, for the safe state and for tokens, and
else writes the entry of every page; the operation ends with DONE; each operation leaves the entry of R287's table. -/
def Obligations.PageOwnership : Prop :=
  (∀ (s : State) (who : Who),
    (who.sealed = true → s.chip.wldCommitBad = false → ∃ t, Sys2Proof.Machine.exec (.wldCommit who) s = .next t
      ∧ t.chip.bit .WLD_CTL F.WLD_CTL_FORMAT_BUSY = true ∧ t.chip.wldCommitted = false)
    ∧ (who.sealed = true → s.chip.wldCommitBad = true → ∃ t, Sys2Proof.Machine.exec (.wldCommit who) s = .next t
      ∧ t.chip.bit .WLD_CTL F.WLD_CTL_COMMIT_ERR = true ∧ t.chip.wldCommitted = s.chip.wldCommitted)
    ∧ (who.sealed = false → Gives (.wldCommit who) s (s.chip.refuseWrite who .WLD_CTL)))
  ∧ (∀ s : State,
    (s.chip.bit .WLD_CTL F.WLD_CTL_FORMAT_BUSY = true → s.chip.scrubGo = true → ∃ t, Sys2Proof.Machine.exec .wldFormatDone s = .next t
      ∧ t.chip.wldCommitted = true ∧ t.chip.bit .WLD_CTL F.WLD_CTL_FORMAT_BUSY = false ∧ t.chip.ownc = [])
    ∧ (s.chip.scrubGo = false → Gives .wldFormatDone s (s.chip.noteShort s.chip.scrubRid s.chip.scrubLabel)))
  ∧ (∀ (s : State) (who : Who) (v : Word), ∀ r ∈ ([(.transit who v, 1), (.scrub who v, 2), (.transfer who v, 3), (.unassign who v, 4),
        (.assign who v, 5), (.share who v, 6), (.unshare who v, 7)] : List (Instr × Nat)), F.WLD_POT_OP_OP.get v = r.2 →
    let i := r.1
    let op := r.2
    let busy := s.chip.bit .WLD_POT_STATUS F.WLD_POT_STATUS_BUSY
    let c := s.chip.storeFields .WLD_POT_OP v
    let dst := F.WLD_POT_OP_TO.get v
    let n := F.WLD_POT_OP_COUNT_M1.get v + 1
    let o : PotOp := { op := op, page := s.chip.fld .WLD_POT_OP_PAGE F.WLD_POT_OP_PAGE_PAGE, count := n, dst := dst, started := true }
    let c2 := (c.setBit .WLD_POT_STATUS F.WLD_POT_STATUS_BUSY true).setFld .WLD_POT_STATUS F.WLD_POT_STATUS_RESULT 0
    let p : Pkg := { s.toPkg with chip := c2 }
    let may := who.sealed = true ∧ busy = false ∧ s.chip.wldCommitted = true ∧ ¬((op = 3 ∨ op = 5) ∧ dst = 2)
    (may → o.pages.any s.chip.pageDown = true → Gives i s (c2.potEnd 4))
    ∧ (may → o.pages.any s.chip.pageDown = false → s.chip.potHeld = true →
      Gives i s { c2.noteShort s.chip.scrubRid s.chip.scrubLabel with pot := some { o with started := false } })
    ∧ (who.sealed = false → Gives i s (s.chip.refuseWrite who .WLD_POT_OP))
    ∧ (who.sealed = true → busy = true → Gives i s (s.chip.setFld .WLD_POT_STATUS F.WLD_POT_STATUS_RESULT 5))
    ∧ (who.sealed = true → busy = false → s.chip.wldCommitted = false → Gives i s (c.potEnd 7))
    ∧ (who.sealed = true → busy = false → s.chip.wldCommitted = true → (op = 3 ∨ op = 5) → dst = 2 → Gives i s (c.potEnd 6))
    ∧ (may → s.chip.potHeld = false →
      o.pages.any s.chip.pageDown = false → (∀ pg ∈ o.pages, p.potFail op pg = 0) →
      GivesPkg i s ((o.pages.foldl (fun q pg => q.potStep2 o pg) p).onChip (fun x => { x with pot := some o })))
    ∧ (∀ pg, may → s.chip.potHeld = false →
      o.pages.any s.chip.pageDown = false → o.pages.find? (fun x => p.potFail op x != 0) = some pg →
      GivesPkg i s (p.onChip (fun x => (x.setFld .WLD_POT_STATUS F.WLD_POT_STATUS_FAIL_PAGE pg).potEnd (p.potFail op pg)))))
  ∧ (∀ e dst : Nat, dst < 16 → (∀ op, op = 3 ∨ op = 5 → potAfter op dst e = potEntry dst 1 false)
    ∧ potState (potAfter 1 dst e) = 3 ∧ potScrubbed (potAfter 1 dst e) = false ∧ potScrubbed (potAfter 2 dst e) = true
    ∧ potState (potAfter 2 dst e) = potState e ∧ potAfter 4 dst e = potEntry 0 0 true ∧ potState (potAfter 6 dst e) = 2
    ∧ potState (potAfter 7 dst e) = 1 ∧ ∀ op, op = 1 ∨ op = 2 ∨ op = 6 ∨ op = 7 → potOwner (potAfter op dst e) = potOwner e)
  ∧ (∀ (s : State) (o : PotOp), s.chip.pot = some o → o.started = true → (o.op = 2 → s.chip.safe = false ∧ s.chip.scrubGo = true) →
    (∀ pg ∈ o.pages, ∀ l ∈ pageLines pg, s.chip.lineIdle l = true) →
    GivesPkg .potOpDone s ((o.pages.foldl (fun q pg => (pageLines pg).foldl (fun r l => r.potCache o.op l) q) s.toPkg).onChip (fun c =>
      c.potEnd 1)))
  ∧ (∀ (c : Chip) (n : Nat), n < 8 → (c.potEnd n).bit .WLD_POT_STATUS F.WLD_POT_STATUS_BUSY = false
    ∧ (c.potEnd n).bit .WLD_POT_STATUS F.WLD_POT_STATUS_DONE = true ∧ (c.potEnd n).fld .WLD_POT_STATUS F.WLD_POT_STATUS_RESULT = n)
  ∧ (∀ (s : State) (who : Who) (v : Word), let pg := F.WLD_POT_QUERY_PAGE.get v
    (who.sealed = true → ∃ t, Sys2Proof.Machine.exec (.potQuery who v) s = .next t ∧ t.dram = s.dram
      ∧ t.chip.fld .WLD_POT_QUERY F.WLD_POT_QUERY_ENTRY = (s.toPkg.potEntryOf pg).getD 0
      ∧ t.chip.bit .WLD_POT_QUERY F.WLD_POT_QUERY_COVERED = (s.chip.potSegment pg).isSome
      ∧ t.chip.bit .WLD_POT_QUERY F.WLD_POT_QUERY_UNREADABLE = (s.toPkg.potEntryOf pg).isNone)
    ∧ (who.sealed = false → Gives (.potQuery who v) s (s.chip.refuseWrite who .WLD_POT_QUERY)))

/-- Hand-over, power requests, consent and the debug grant (R291 to R298, R301): RELEASE and CLAIM move a block through its three states
or answer why not; a power-down without every ownership or consent it needs is refused and recorded, one in progress refuses a second, and
it ends with the unit down; a power-up clears the consents; each waits for a POT operation that runs; a grant ends at its expiry or at
REVOKE; a token whose signature verifies grants what it says, and one that does not fit raises fault 55. -/
def Obligations.HandOverPower : Prop :=
  (∀ (s : State) (who : Who) (b : Blk) (dst : Nat), blkOk b = true → dst < 16 → let r := ownReg b
    let mine : Bool := who.sealed || who.world == s.chip.fld r F.WLD_OWN_OWNER
    (mine = true → s.chip.fld r F.WLD_OWN_STATE = 0 → s.chip.releaseBad b = false →
      Gives (.release who b dst) s ((((s.chip.setFld r F.WLD_OWN_NEXT dst).setFld r F.WLD_OWN_STATE 1).ownResult b 0).startQuiesceBlk b))
    ∧ (mine = true → s.chip.fld r F.WLD_OWN_STATE = 0 → s.chip.releaseBad b = true → Gives (.release who b dst) s (s.chip.ownResult b 2))
    ∧ (mine = true → s.chip.fld r F.WLD_OWN_STATE = 1 → Gives (.release who b dst) s (s.chip.ownResult b 4))
    ∧ (mine = true → 2 ≤ s.chip.fld r F.WLD_OWN_STATE → Gives (.release who b dst) s (s.chip.ownResult b 3))
    ∧ (mine = false → Gives (.release who b dst) s (s.chip.violate who 3 r.offset)))
  ∧ (∀ (s : State) (b : Blk), blkOk b = true → let r := ownReg b
    s.chip.fld r F.WLD_OWN_STATE = 1 → s.chip.blkQuiet b = true → ∃ t, Sys2Proof.Machine.exec (.releaseDone b) s = .next t
      ∧ t.chip.fld r F.WLD_OWN_STATE = 2 ∧ t.chip.fld r F.WLD_OWN_RESULT = 1 ∧ t.chip.fld r F.WLD_OWN_NEXT = s.chip.fld r F.WLD_OWN_NEXT)
  ∧ (∀ (s : State) (who : Who) (b : Blk), blkOk b = true → let r := ownReg b
    let next := s.chip.fld r F.WLD_OWN_NEXT
    let mine : Bool := who.uz || who.world == next
    (mine = true → s.chip.fld r F.WLD_OWN_STATE = 2 → Gives (.claim who b) s
      ((((s.chip.setFld r F.WLD_OWN_OWNER next).setFld r F.WLD_OWN_STATE 0).ownResult b 1).afterClaim b
        (s.chip.fld r F.WLD_OWN_OWNER != next)))
    ∧ (mine = true → s.chip.fld r F.WLD_OWN_STATE = 0 → Gives (.claim who b) s (s.chip.ownResult b 3))
    ∧ (mine = false → Gives (.claim who b) s (s.chip.violate who 3 r.offset)))
  ∧ (∀ (s : State) (who : Who) (kind index : Nat), 1 ≤ kind → kind ≤ 3 → index < 16 →
    let busy := s.chip.bit .WLD_PWR_STATUS F.WLD_PWR_STATUS_BUSY
    let m := s.chip.powerMissing who kind index
    (busy = true → Gives (.powerDownRequest who kind index) s (s.chip.setFld .WLD_PWR_STATUS F.WLD_PWR_STATUS_RESULT 4)
      ∧ Gives (.powerUpRequest who kind index) s (s.chip.setFld .WLD_PWR_STATUS F.WLD_PWR_STATUS_RESULT 4))
    ∧ (busy = false → powerIndexOk kind index = false → Gives (.powerDownRequest who kind index) s (s.chip.pwrResult who 3 0)
      ∧ Gives (.powerUpRequest who kind index) s (s.chip.pwrResult who 3 0))
    ∧ (busy = false → powerIndexOk kind index = true → m ≠ [] → Gives (.powerDownRequest who kind index) s
      ((s.chip.pwrResult who 2 (m.foldl (fun a w => a + 2 ^ w) 0)).violate who 2 Reg.WLD_PWR_REQ.offset))
    ∧ (busy = false → powerIndexOk kind index = true → m = [] → ¬(kind = 3 ∧ (s.chip.hallHasPot index = true ∨ s.chip.hallInUse index = true)) →
      s.chip.potRuns = false → Gives (.powerDownRequest who kind index) s
        (((({ s.chip with pwrReq := some (kind, index) } : Chip).pwrResult who 0 0).setBit .WLD_PWR_STATUS F.WLD_PWR_STATUS_BUSY
          true).unitFence (powerUnit kind index)))
    ∧ (busy = false → powerIndexOk kind index = true → s.chip.potRuns = true → Gives (.powerUpRequest who kind index) s
      ((({ s.chip with pwrReq := some (kind + 3, index) } : Chip).pwrResult who 0 0).setBit .WLD_PWR_STATUS F.WLD_PWR_STATUS_BUSY true))
    ∧ (busy = false → powerIndexOk kind index = true → s.chip.potRuns = false → ∃ t, Sys2Proof.Machine.exec (.powerUpRequest who kind index) s = .next t
      ∧ (kind, index) ∉ t.chip.down ∧ t.chip.fld .WLD_PWR_STATUS F.WLD_PWR_STATUS_RESULT = 1 ∧ ∀ w, w < 16 →
        (kind = 2 → bitAt (t.chip.fld (.WLD_CONSENT w) F.WLD_CONSENT_CLUSTERS) index = false)
        ∧ (kind = 3 → bitAt (t.chip.fld (.WLD_CONSENT w) F.WLD_CONSENT_HALLS) index = false)))
  ∧ (∀ (s : State) (kind index : Nat), 1 ≤ kind → s.chip.pwrReq = some (kind + 3, index) → s.chip.potRuns = false →
    ∃ t, Sys2Proof.Machine.exec .powerDownDone s = .next t ∧ (kind, index) ∉ t.chip.down ∧ t.chip.pwrReq = none
      ∧ t.chip.bit .WLD_PWR_STATUS F.WLD_PWR_STATUS_BUSY = false ∧ t.chip.fld .WLD_PWR_STATUS F.WLD_PWR_STATUS_RESULT = 1)
  ∧ (∀ (s : State) (kind index : Nat), kind ≤ 3 → s.chip.pwrReq = some (kind, index) → s.chip.potRuns = false →
    s.chip.unitFenced (powerUnit kind index) = true → ∃ t, Sys2Proof.Machine.exec .powerDownDone s = .next t
      ∧ (kind, index) ∈ t.chip.down ∧ t.chip.pwrReq = none ∧ t.chip.bit .WLD_PWR_STATUS F.WLD_PWR_STATUS_BUSY = false
      ∧ t.chip.fld .WLD_PWR_STATUS F.WLD_PWR_STATUS_RESULT = 1)
  ∧ (∀ (s : State) (who : Who) (w : Nat) (v : Word), w < 16 →
    (who.world = w ∨ who.uz = true → Gives (.consentWrite who w v) s (s.chip.storeFields (.WLD_CONSENT w) v))
    ∧ (who.world ≠ w → who.uz = false → Gives (.consentWrite who w v) s (s.chip.refuseWrite who (.WLD_CONSENT w))))
  ∧ (∀ (s : State) (who : Who), (who.sealed = true → Gives (.revoke who) s s.chip.endGrant)
    ∧ (who.sealed = false → Gives (.revoke who) s (s.chip.refuseWrite who .WLD_DBG_GRANT)))
  ∧ (∀ (s : State) (e : Nat), s.chip.uz.grantEnd = some e →
    (e ≤ s.chip.now → Gives .debugGrantExpiry s s.chip.endGrant) ∧ (s.chip.now < e → Gives .debugGrantExpiry s s.chip)
    ∧ s.chip.endGrant.uz.grantEnd = none ∧ s.chip.endGrant.reg .WLD_DBG_GRANT = 0)
  ∧ (∀ (s : State) (token : List Byte),
    (s.chip.tokenFormOk token = false → Gives (.unlockToken token) s (s.chip.report unitUz 55 0x5000 1 15))
    ∧ (s.chip.tokenFormOk token = true → ∃ t, Sys2Proof.Machine.exec (.unlockToken token) s = .next t ∧ t.chip.uz.nonce = none
      ∧ (Config.tokenSigned token = true → t.chip.uz.grantEnd = some (s.chip.now + sliceNum token 52 4 * 10 ^ 9)
        ∧ t.chip.fld .WLD_DBG_GRANT F.WLD_DBG_GRANT_GRANT_INV = sliceNum token 48 2
        ∧ t.chip.fld .WLD_DBG_GRANT F.WLD_DBG_GRANT_GRANT_NINV = sliceNum token 50 2)
      ∧ (Config.tokenSigned token = false → t.chip.uz.grantEnd = s.chip.uz.grantEnd
        ∧ t.chip.reg .WLD_DBG_GRANT = s.chip.reg .WLD_DBG_GRANT)))

-- faults and register space

/-- The fault collector (R327 to R331, R334 to R342): the oldest report of a unit is counted and, at LOG or worse, sets PEND and APPLIED
and is captured into an empty FIRST; at NOTIFY it fills the notice of its world; SAFE begins the safe state; PEND clears unless the
condition of a level source lasts; a parity error ends in the safe state that only a package reset leaves; lost reports come as source 15;
mends. -/
def Obligations.FaultCollector : Prop :=
  (∀ (s : State) (u : Nat) (r : Report) (rest : List Report), unitOk u = true → sget [] u s.chip.fcHold = r :: rest → r.source < 1536 →
    r.world < 16 → s.chip.bit .FC_STATUS F.FC_STATUS_SAFE_RESET_ONLY = false →
    let sev := s.chip.severity r.source
    let w := if r.world = 2 then 1 else r.world
    let held : Chip := { s.chip with fcHold := sset [] u rest s.chip.fcHold }
    (sev = 0 → s.chip.safe = false →
      Gives (.faultReport u) s { held.bump (.FC_SRC r.source) F.FC_SRC_COUNT (1 + r.merged) with
        cntNew := addOnce r.source s.chip.cntNew })
    ∧ (sev = 1 ∨ sev = 2 → ∃ t, Sys2Proof.Machine.exec (.faultReport u) s = .next t ∧ t.dram = s.dram
      ∧ (u ≠ unitUz → s.chip.safe = false → sget [] u t.chip.fcHold = rest)
      ∧ t.chip.bit (.FC_SRC r.source) F.FC_SRC_PEND = true ∧ t.chip.fld (.FC_SRC r.source) F.FC_SRC_APPLIED = sev
      ∧ (s.chip.bit .FC_FIRST_INFO F.FC_INFO_VALID = false →
        t.chip.reg .FC_FIRST_INFO = F.FC_INFO_VALID.put (Report.info r sev) 1 ∧ t.chip.reg .FC_FIRST_TIME = BitVec.ofNat 64 r.time)
      ∧ (sev = 2 → t.chip.bit (.FC_NOTICE_INFO w) F.FC_NOTICE_INFO_VALID = true
        ∧ t.chip.fld (.FC_NOTICE_INFO w) F.FC_NOTICE_INFO_SOURCE = r.source ∧ t.chip.fld (.FC_NOTICE_INFO w) F.FC_NOTICE_INFO_SEV = 2
        ∧ (s.chip.bit (.FC_NOTICE_INFO w) F.FC_NOTICE_INFO_VALID = true → t.chip.bit (.FC_NOTICE_INFO w) F.FC_NOTICE_INFO_OVERRUN = true)))
    ∧ (sev = 4 → ∃ t, Sys2Proof.Machine.exec (.faultReport u) s = .next t ∧ t.chip.safe = true))
  ∧ (∀ (s : State) (u : Nat), unitOk u = true → sget 0 u s.chip.fcLost ≠ 0 → (sget [] u s.chip.fcHold).length < 16 →
    (∀ r ∈ sget [] u s.chip.fcHold, r.source ≠ 15) → Gives (.reportOverflow u) s
      (({ s.chip with fcLost := sset 0 u 0 s.chip.fcLost } : Chip).report u 15 (unitRid u) 1 15 0 (sget 0 u s.chip.fcLost)))
  ∧ (∀ (s : State) (who : Who) (n : Nat), n < 1536 → let r := Reg.FC_SRC n
    let open_ : Bool := s.chip.bit r F.FC_SRC_PEND && !s.chip.bit .FC_STATUS F.FC_STATUS_SAFE_RESET_ONLY
    let lasts : Bool := levelSource n && s.chip.bit r F.FC_SRC_CAUSE
    (who.sealed = true → open_ = true → lasts = false →
      Gives (.pendClear who n) s (s.chip.setBit r F.FC_SRC_PEND false).leaveSafe)
    ∧ (who.sealed = true → open_ = true → lasts = true → ∃ t, Sys2Proof.Machine.exec (.pendClear who n) s = .next t
      ∧ t.chip.bit r F.FC_SRC_PEND = true ∧ t.chip.bit .FC_STATUS F.FC_STATUS_CLEAR_FAIL = true
      ∧ t.chip.fld .FC_STATUS F.FC_STATUS_CLEAR_FAIL_SRC = n)
    ∧ (who.sealed = true → open_ = false → Gives (.pendClear who n) s s.chip)
    ∧ (who.sealed = false → Gives (.pendClear who n) s (s.chip.refuseWrite who r))
    ∧ (∀ v : Word,
      (who.sealed = true → F.FC_SRC_PEND.get v = 0 → n ≠ 0 → F.FC_SRC_SEV.get v ≤ 4 →
        Gives (.fcSrcWrite who n v) s (s.chip.setFld r F.FC_SRC_SEV (F.FC_SRC_SEV.get v)))
      ∧ (who.sealed = true → F.FC_SRC_PEND.get v = 0 → n = 0 ∨ 4 < F.FC_SRC_SEV.get v → Gives (.fcSrcWrite who n v) s s.chip)
      ∧ (who.sealed = false → Gives (.fcSrcWrite who n v) s (s.chip.refuseWrite who r)))
    ∧ (levelSource n = true → s.chip.condHolds n = false → Gives (.faultConditionEnd n) s (s.chip.setCause n false))
    ∧ (s.chip.condHolds n = true → Gives (.faultConditionEnd n) s s.chip))
  ∧ (∀ s : State, ∃ t, Sys2Proof.Machine.exec .collectorParityError s = .next t
    ∧ t.chip.bit .FC_STATUS F.FC_STATUS_SAFE_RESET_ONLY = true ∧ t.chip.bit (.FC_SRC 0) F.FC_SRC_CAUSE = true
    ∧ t.chip.uz.resetPending = true ∧ (s.chip.bit .FC_STATUS F.FC_STATUS_SAFE_RESET_ONLY = false → t.chip.safe = true))
  ∧ (∀ (s : State) (a i b loc t : Nat) (rest : List (Nat × Nat)), bankOk a i b = true → let k := bankKey a i b
    (s.chip.bank k).mends = (loc, t) :: rest → Gives (.mend a i b) s (s.chip.onBank k (fun x => x.rewritten loc))
      ∧ (t + 5000 ≤ s.chip.now → Gives (.mendForced a i b) s (s.chip.onBank k (fun x => x.rewritten loc)))
      ∧ (s.chip.now < t + 5000 → Gives (.mendForced a i b) s s.chip))

/-- Accesses to register space (R205, R213, R327, R433 to R435, R461): an aligned 8-byte read answers what the register reads as, and a
write has the effect of the register's row, where the block is powered, present and does not refuse the world; the space between registers
reads zero; another width is refused; a unit's 64-byte write to the report window is a report. A write to a register without a command of
its own (R8): from a world it accepts, the fields its access types permit change, and from another world it is ignored and recorded as a
world violation (here CD_RESET_VECTOR, an RW-S register). -/
def Obligations.RegisterAccess : Prop :=
  (∀ (s : State) (m : Msg) (o : Nat), s.chip.canArrive m = true → let c := s.chip.arrive m
    let off := ioOff m
    let reached : Prop := s.chip.region (m.line * 64 + m.sub) = .regs o ∧ s.chip.blockPowered off = true
      ∧ ¬(0x10000000 ≤ off ∧ off < 0x1C000000 ∧ 5 ≤ s.chip.dieState ((off - 0x10000000) / 0x1000000))
    (∀ r, regDecode off = .reg r → reached → m.code = 3 → s.chip.blockRefuses (msgWho m) r = false →
      (ioMsgOk m .IO_RD = true → Gives (.ioRd m) s (c.ioReply m 0 (s.chip.regRead (msgWho m) r).toNat))
      ∧ (ioMsgOk m .IO_WR = true → (∀ i, r ≠ .FC_REPORT i) → GivesPkg (.ioWr m) s
        ((({ s.toPkg with chip := c } : Pkg).writeReg (msgWho m) r (BitVec.ofNat 64 m.data.toNat)).onChip (fun x => x.ioReply m 0))))
    ∧ (∀ r, regDecode off = .reg r → reached → m.code = 3 → s.chip.blockRefuses (msgWho m) r = true →
      (ioMsgOk m .IO_RD = true → Gives (.ioRd m) s (c.ioRefuse m))
      ∧ (ioMsgOk m .IO_WR = true → (∀ i, r ≠ .FC_REPORT i) → Gives (.ioWr m) s ((c.blockWrong (msgWho m) r).ioRefuse m)))
    ∧ (∀ r, regDecode off = .reg r → reached → m.code ≠ 3 → (ioMsgOk m .IO_RD = true → Gives (.ioRd m) s (c.ioWidth m))
      ∧ (ioMsgOk m .IO_WR = true → (∀ i, r ≠ .FC_REPORT i) → Gives (.ioWr m) s (c.ioWidth m)))
    ∧ (regDecode off = .hole → reached → m.code = 3 → (ioMsgOk m .IO_RD = true → Gives (.ioRd m) s (c.ioReply m 0 0))
      ∧ (ioMsgOk m .IO_WR = true → Gives (.ioWr m) s (c.ioReply m 0)))
    ∧ (regDecode off = .reg (.FC_REPORT 0) → reached → ioMsgOk m .IO_WR = true → m.code = 6 → mayReport m.rid = true →
      GivesPkg (.ioWr m) s ((({ s.toPkg with chip := c } : Pkg).acceptReport (reportOf m.data)).onChip (fun x => x.ioReply m 0)))
    ∧ (∀ r, regDecode off = .reg (.FC_REPORT r) → reached → ioMsgOk m .IO_WR = true → mayReport m.rid = false →
      Gives (.ioWr m) s ((c.refuseWrite (msgWho m) (.FC_REPORT r)).ioReply m 0))
    ∧ (s.chip.region (m.line * 64 + m.sub) = .regs o → s.chip.blockPowered off = false →
      ¬(0x10000000 ≤ off ∧ off < 0x1C000000 ∧ 5 ≤ s.chip.dieState ((off - 0x10000000) / 0x1000000)) →
      (ioMsgOk m .IO_RD = true → Gives (.ioRd m) s (c.ioReply m 0 0))
      ∧ (ioMsgOk m .IO_WR = true → Gives (.ioWr m) s
        ((if pktIsMsi (c.packetOf m) then c.msiDropped ((off - 0x10000000) / 0x1000000) else c).ioReply m 0 0))))
  ∧ ((∀ (s : State) (who : Who) (h : Nat) (v : Word), whoOk who = true → who.sealed = true → h < 12 →
    s.chip.dieState h ≠ 0 → s.chip.dieState h < 5 →
    GivesPkg (.registerWrite who (Reg.CD_RESET_VECTOR h).offset v) s
      { s.toPkg with chip := s.chip.storeFields (.CD_RESET_VECTOR h) v })
  ∧ (∀ (s : State) (who : Who) (h : Nat) (v : Word), whoOk who = true → who.sealed = false → h < 12 →
    s.chip.dieState h ≠ 0 → s.chip.dieState h < 5 →
    GivesPkg (.registerWrite who (Reg.CD_RESET_VECTOR h).offset v) s
      { s.toPkg with chip := s.chip.refuseWrite who (.CD_RESET_VECTOR h) })
  ∧ (∀ (c : Chip) (h : Nat) (v : Word),
    (c.storeFields (.CD_RESET_VECTOR h) v).fld (.CD_RESET_VECTOR h) F.CD_RESET_VECTOR_ADDR = F.CD_RESET_VECTOR_ADDR.get v))

-- the dual-role stations

/-- Ports, slots and errors (R344 to R346, R352 to R356, R363, R365 to R369): the commit locks or is refused; a link trains within its
bounds and its loss fails what is outstanding and returns retired tags; a frame of the sideband bus is taken or discarded by parity; the
slot's two times; a completion timeout retires the tag and a late completion returns it; dropped INTx; error messages with DPC;
PERST_IN_N; a stopped port restarts. -/
def Obligations.PortLinksErrors : Prop :=
  (∀ (s : State) (who : Who) (n : Nat), n < 10 →
    (who.sealed = true → s.chip.portCommitted n = false → s.chip.portCommitBad n = false →
      ∃ t, Sys2Proof.Machine.exec (.portCommit who n) s = .next t ∧ t.chip.portCommitted n = true)
    ∧ (who.sealed = true → s.chip.portCommitted n = false → s.chip.portCommitBad n = true →
      ∃ t, Sys2Proof.Machine.exec (.portCommit who n) s = .next t ∧ t.chip.portCommitted n = false
        ∧ t.chip.bit (.PORT_CTL n) F.PORT_CTL_COMMIT_ERR = true)
    ∧ (who.sealed = false → Gives (.portCommit who n) s (s.chip.refuseWrite who (.PORT_CTL n))))
  ∧ (∀ (s : State) (n j : Nat), n < 10 → j < 4 → let p := s.chip.port n j
    (∀ who : Who, (who.sealed = true → s.chip.stopped n j = true → ∃ t, Sys2Proof.Machine.exec (.restart who n j) s = .next t
        ∧ t.chip.stopped n j = false ∧ (t.chip.port n j).linkDis = false)
      ∧ (who.sealed = false → Gives (.restart who n j) s (s.chip.refuseWrite who (.PORT_CTL n))))
    ∧ (∀ (rate width : Nat) (flit cxl : Bool), rate < 8 → width ≤ 16 →
      (s.chip.portCommitted n = true → s.chip.portFormed n j = true → s.chip.stopped n j = false → s.chip.linkUp n j = false →
        p.linkDis = false → p.dpc = false → p.perst = false → s.chip.isEp n j = true ∨ p.perstHigh = true → 1 ≤ rate → rate ≤ s.chip.maxRate n → 1 ≤ width →
        width ≤ s.chip.portWidth n → ∃ t, Sys2Proof.Machine.exec (.portLinkUp n j rate width flit cxl) s = .next t
          ∧ t.chip.linkUp n j = true ∧ t.chip.fld (.PORT_STATUS n j) F.PORT_STATUS_RATE = rate
          ∧ t.chip.fld (.PORT_STATUS n j) F.PORT_STATUS_WIDTH = width
          ∧ t.chip.bit (.PORT_STATUS n j) F.PORT_STATUS_FLIT = (flit || rate == 6))
      ∧ (s.chip.stopped n j = true ∨ (s.chip.isEp n j = false ∧ p.perstHigh = false) ∨ s.chip.maxRate n < rate ∨ s.chip.portWidth n < width →
        Gives (.portLinkUp n j rate width flit cxl) s s.chip))
    ∧ (s.chip.linkUp n j = true → ∃ t, Sys2Proof.Machine.exec (.portLinkDown n j) s = .next t ∧ t.chip.linkUp n j = false
      ∧ (t.chip.port n j).outst = [] ∧ (t.chip.port n j).retired = [] ∧ t.chip.fld (.PORT_ERR n j) F.PORT_ERR_RETIRED = 0)
    ∧ (s.chip.linkUp n j = false → Gives (.portLinkDown n j) s s.chip)
    ∧ (∀ v : Word, (s.chip.isRoot n j = true → Gives (.slotControlWrite n j v) s
        (s.chip.onPort n j (fun x => { x with slotCtl := v &&& 0x1FFF, cut := x.cut && !bitAt v.toNat 10 })))
      ∧ (s.chip.isRoot n j = false → Gives (.slotControlWrite n j v) s s.chip))
    ∧ (∀ b, p.pwrAt = some b → p.goodAt = none →
      (b + 500000000 ≤ s.chip.now → ∃ t, Sys2Proof.Machine.exec (.pwrGoodTimeout n j) s = .next t
        ∧ (t.chip.port n j).slotSts = p.slotSts ||| 2 ∧ (t.chip.port n j).cut = true ∧ (t.chip.port n j).perstHigh = false)
      ∧ (s.chip.now < b + 500000000 → Gives (.pwrGoodTimeout n j) s s.chip))
    ∧ (∀ g, p.goodAt = some g →
      (g + 100000000 ≤ s.chip.now → Gives (.perstRelease n j) s (s.chip.onPort n j (fun x => { x with perstHigh := true })))
      ∧ (s.chip.now < g + 100000000 → Gives (.perstRelease n j) s s.chip) ∧ Gives (.pwrGoodTimeout n j) s s.chip)
    ∧ (∀ (tag : Nat) (q : PortReq), tag < 768 → p.outst.find? (fun x => x.tag == tag) = some q →
      (q.at_ + 1000 * s.chip.fld (.PORT_CT n j) F.PORT_CT_CT_US ≤ s.chip.now →
        ∃ t, Sys2Proof.Machine.exec (.completionTimeout n j tag) s = .next t
          ∧ t.chip.fld (.PORT_ERR n j) F.PORT_ERR_CT_COUNT = min (s.chip.fld (.PORT_ERR n j) F.PORT_ERR_CT_COUNT + 1) 65535
          ∧ tag ∈ (t.chip.port n j).retired ∧ ∀ x ∈ (t.chip.port n j).outst, x.tag ≠ tag)
      ∧ (s.chip.now < q.at_ + 1000 * s.chip.fld (.PORT_CT n j) F.PORT_CT_CT_US → Gives (.completionTimeout n j tag) s s.chip))
    ∧ (∀ tag, tag < 768 →
      (tag ∈ p.retired → ∃ t, Sys2Proof.Machine.exec (.lateCompletion n j tag) s = .next t ∧ tag ∉ (t.chip.port n j).retired
        ∧ t.chip.fld (.PORT_ERR n j) F.PORT_ERR_LATE_CPL = min (s.chip.fld (.PORT_ERR n j) F.PORT_ERR_LATE_CPL + 1) 65535)
      ∧ (tag ∉ p.retired → Gives (.lateCompletion n j tag) s s.chip))
    ∧ (s.chip.isRoot n j = true →
      Gives (.intxReceived n j) s (s.chip.bump (.PORT_ERR n j) F.PORT_ERR_INTX_DROPS)
      ∧ Gives (.pmeReceived n j) s (s.chip.portEvent n j 3)
      ∧ ∀ fatal : Bool, let k := if fatal then 8 else 9
        let c1 := (((s.chip.aerLog n j 34).aerLog n j (if fatal then 38 else 37)).portEvent n j 4).portError n j k
        (s.chip.dpcOn n j = 0 → Gives (.aerErrorMessage n j fatal) s c1)
        ∧ (s.chip.dpcOn n j = 2 ∨ (fatal = true ∧ s.chip.dpcOn n j ≠ 0) →
          ∃ t, Sys2Proof.Machine.exec (.aerErrorMessage n j fatal) s = .next t ∧ (t.chip.port n j).dpc = true))
    ∧ (s.chip.isRoot n j = false → Gives (.intxReceived n j) s s.chip ∧ Gives (.pmeReceived n j) s s.chip
      ∧ ∀ fatal : Bool, Gives (.aerErrorMessage n j fatal) s s.chip)
    ∧ (s.chip.portCommitted n = true → s.chip.isEp n j = true → p.perst = false →
      ∃ t, Sys2Proof.Machine.exec (.perstInFall n j) s = .next t ∧ (t.chip.port n j).perst = true ∧ t.chip.linkUp n j = false))
  ∧ (∀ (s : State) (n : Nat) (b0 b1 b2 b3 : Byte), n < 10 → let l := [b0, b1, b2, b3]
    (l.all parityOk = true → ∃ t, Sys2Proof.Machine.exec (.ssbFrame n b0 b1 b2 b3) s = .next t ∧ (t.chip.port n 0).badRun = 0
      ∧ ∀ j, j < 4 → t.chip.fld (.PORT_SLOT n j) F.PORT_SLOT_IN = (l.getD j 0).toNat
        ∧ t.chip.fld (.PORT_SLOT n j) F.PORT_SLOT_OUT = s.chip.outByte n j)
    ∧ (l.all parityOk = false → ∃ t, Sys2Proof.Machine.exec (.ssbFrame n b0 b1 b2 b3) s = .next t
      ∧ (t.chip.port n 0).badRun = (s.chip.port n 0).badRun + 1
      ∧ ∀ j, j < 4 → t.chip.fld (.PORT_SLOT n j) F.PORT_SLOT_IN = s.chip.fld (.PORT_SLOT n j) F.PORT_SLOT_IN
        ∧ t.chip.fld (.PORT_SLOT n j) F.PORT_SLOT_BAD_FRAMES = min (s.chip.fld (.PORT_SLOT n j) F.PORT_SLOT_BAD_FRAMES + 1) 65535
        ∧ ((s.chip.port n 0).badRun = 7 → s.chip.isRoot n j = true → t.chip.bit (.PORT_SLOT n j) F.PORT_SLOT_SSB_FAIL = true)))

/-- Windows, functions and their requests (R285, R347 to R349, R357 to R364): accesses through the ECAM and memory windows are answered,
passed on or refused by owner; a request below a root port is bound by RID or unmapped; BAR_2 goes through its window; a window commit
changes over a good staged set at once and drains; the host's configuration writes; power states; function-level reset and its end; the
IOMMU's command queue. -/
def Obligations.PortFunctionsWindows : Prop :=
  (∀ (s : State) (who : Who) (addr n j : Nat) (wr : Option Word), addrOk addr = true → whoOk who = true → addr % 4 = 0 →
    s.chip.region addr = .ecam n j → (who.rid / 4096 = 5 ↔ who.uz = true) → let m := ioMsg who addr 2 wr
    s.chip.destState (s.chip.packetOf m) = 0 →
    let bdf := addr % 2 ^ 28 / 4096
    (bdf = 0 → who.world = 0 ∨ who.sealed = true → (wr = none →
        Gives (.ecamAccess who addr wr) s (s.chip.ioReply m 0 (s.chip.rootCfgRead n j (addr % 4096 / 4))))
      ∧ (∀ v, wr = some v → Gives (.ecamAccess who addr wr) s
        ((s.chip.rootCfgWrite n j (addr % 4096 / 4) (v.toNat % 2 ^ 32)).ioReply m 0)))
    ∧ (bdf = 0 → who.world ≠ 0 → who.sealed = false → Gives (.ecamAccess who addr wr) s (s.chip.ioRefuse m))
    ∧ (let bus := ((s.chip.port n j).cfgAt 6).toNat
      let inside := bits bus 15 8 ≤ bdf / 256 ∧ bdf / 256 ≤ bits bus 23 16
      (∀ f, bdf ≠ 0 → s.chip.boundFn n j bdf = some f →
        (s.chip.mayFn who n f = false → Gives (.ecamAccess who addr wr) s (s.chip.ioRefuse m))
        ∧ (s.chip.mayFn who n f = true → inside → Gives (.ecamAccess who addr wr) s (s.chip.outbound n j m f false))
        ∧ (s.chip.mayFn who n f = true → ¬ inside → Gives (.ecamAccess who addr wr) s (s.chip.ioReply m 1)))
      ∧ (bdf ≠ 0 → s.chip.boundFn n j bdf = none → who.world = 0 ∨ who.sealed = true →
        (inside → Gives (.ecamAccess who addr wr) s (s.chip.outbound n j m 256 false))
        ∧ (¬ inside → Gives (.ecamAccess who addr wr) s (s.chip.ioReply m 1)))
      ∧ (bdf ≠ 0 → s.chip.boundFn n j bdf = none → who.world ≠ 0 → who.sealed = false →
        Gives (.ecamAccess who addr wr) s (s.chip.ioRefuse m))))
  ∧ (∀ (s : State) (who : Who) (addr size n e : Nat) (wr : Option Word), addrOk addr = true → whoOk who = true → size ≤ 3 →
    addr % 64 + 2 ^ size ≤ 64 → s.chip.region addr = .mwin n e → (who.rid / 4096 = 5 ↔ who.uz = true) →
    let m := ioMsg who addr size wr
    s.chip.destState (s.chip.packetOf m) = 0 →
    let j := F.PORT_MWIN_BASE_PORT.get (s.chip.winReg (.PORT_MWIN_BASE n e))
    let f := F.PORT_MWIN_LIMIT_FN.get (s.chip.winReg (.PORT_MWIN_LIMIT n e))
    (s.chip.mayFn who n f = true → s.chip.linkUp n j = false ∨ s.chip.stopped n j = true →
      Gives (.pcieWindowAccess who addr size wr) s (s.chip.ioReply m 1))
    ∧ (s.chip.mayFn who n f = true → s.chip.linkUp n j = true → s.chip.stopped n j = false → wr.isSome = true →
      Gives (.pcieWindowAccess who addr size wr) s (s.chip.ioReply m 0))
    ∧ (s.chip.mayFn who n f = true → wr = none → Gives (.pcieWindowAccess who addr size wr) s (s.chip.outbound n j m f false))
    ∧ (s.chip.mayFn who n f = false → Gives (.pcieWindowAccess who addr size wr) s (s.chip.ioRefuse m)))
  ∧ (∀ (s : State) (who : Who) (addr : Nat) (wr : Option Word), addrOk addr = true → whoOk who = true → addr % 4 = 0 →
    let m := ioMsg who addr 2 wr
    let p := s.chip.packetOf m
    p.destPort < 2 →
    (s.chip.destState p ≠ 0 → s.chip.portShut (p.destR, p.destPort) = false →
      Gives (.ecamAccess who addr wr) s s.chip ∧ Gives (.pcieWindowAccess who addr 2 wr) s s.chip)
    ∧ (s.chip.portShut (p.destR, p.destPort) = true →
      let c1 := s.chip.undeliverable p.srcR p (if s.chip.destState p = 3 then 2 else 1)
      Gives (.ecamAccess who addr wr) s c1 ∧ Gives (.pcieWindowAccess who addr 2 wr) s c1))
  ∧ (∀ (s : State) (n j rid addr : Nat) (wr : DevReq), n < 10 → j < 4 → rid < 65536 → addr < 2 ^ 64 → reqOk addr wr = true →
    s.chip.isRoot n j = true →
    s.chip.linkUp n j = true →
    (reqBase wr = .media → s.chip.region addr = .cxl n j → s.chip.chanUp (addr / 64) = true →
      ∃ t, Sys2Proof.Machine.exec (.downstreamRequest n j rid addr wr) s = .next t ∧ t.linePoison (addr / 64) = true ∧ t.chip = s.chip)
    ∧ (reqBase wr ≠ .media → s.chip.acsBlocks n j rid = true →
      Gives (.downstreamRequest n j rid addr wr) s (((s.chip.unsupported n j).aerLog n j 21).portError n j 7))
    ∧ (reqBase wr ≠ .media → s.chip.acsBlocks n j rid = false → s.chip.boundFn n j rid = none →
      Gives (.downstreamRequest n j rid addr wr) s ((s.chip.unsupported n j).portError n j 6))
    ∧ ∀ f, reqBase wr ≠ .media → s.chip.acsBlocks n j rid = false → s.chip.boundFn n j rid = some f →
      (s.chip.fnSilent n f = true → Gives (.downstreamRequest n j rid addr wr) s (s.chip.unsupported n j))
      ∧ (s.chip.fnSilent n f = false → s.chip.stationOpen n = false → Gives (.downstreamRequest n j rid addr wr) s s.chip)
      ∧ (s.chip.fnSilent n f = false → s.chip.stationGo n f = true → s.chip.iommuReg n 2 % 16 = 1 → (reqKind wr).ats ≠ 0 →
        ∃ t, Sys2Proof.Machine.exec (.downstreamRequest n j rid addr wr) s = .next t ∧ (t.chip.port n j).cpl = some (1, 0, false))
      ∧ (s.chip.fnSilent n f = false → s.chip.stationGo n f = true → s.chip.iommuReg n 2 % 16 = 1 → (reqKind wr).ats = 0 → addr < 2 ^ 52 →
        GivesPkg (.downstreamRequest n j rid addr wr) s
          ((s.toPkg.onChip (fun c => c.iommuCount n f 1)).fnAccess n j f addr wr)))
  ∧ (∀ (s : State) (n f off : Nat) (wr : DevReq), n < 10 → f < 256 → off < 2 ^ 40 → reqOk off wr = true →
    s.chip.epFn n f = true →
    let j := s.chip.portOfFn n f
    let w := s.chip.winReg (.PORT_FN_WIN n f)
    s.chip.linkUp n j = true →
    let known : Prop := reqKind wr = {} ∧ reqBase wr ≠ .media
    (¬known → Gives (.bar2Request n f off wr) s ((s.chip.unsupported n j).portError n j 4))
    ∧ (known → s.chip.barOn n f = false ∨ s.chip.bar2Size n f ≤ off ∨ F.PORT_FN_WIN_VALID.get w = 0 →
      Gives (.bar2Request n f off wr) s (s.chip.unsupported n j))
    ∧ (known → s.chip.barOn n f = true → off < s.chip.bar2Size n f → F.PORT_FN_WIN_VALID.get w ≠ 0 →
      GivesPkg (.bar2Request n f off wr) s (s.toPkg.fnRequest n j f (F.PORT_FN_WIN_TARGET.get w * 2 ^ 20 + off) wr)))
  ∧ (∀ (s : State) (who : Who) (n : Nat), n < 10 → let r := Reg.PORT_WIN_CTL n
    (who.sealed = false → Gives (.winCommit who n) s (s.chip.refuseWrite who r))
    ∧ (who.sealed = true → s.chip.bit r F.PORT_WIN_CTL_BUSY = true → ∃ t, Sys2Proof.Machine.exec (.winCommit who n) s = .next t
      ∧ t.chip.fld r F.PORT_WIN_CTL_RESULT = 3 ∧ t.chip.winNow = s.chip.winNow)
    ∧ (who.sealed = true → s.chip.bit r F.PORT_WIN_CTL_BUSY = false → s.chip.winBad n = true →
      ∃ t, Sys2Proof.Machine.exec (.winCommit who n) s = .next t ∧ t.chip.fld r F.PORT_WIN_CTL_RESULT = 2
        ∧ t.chip.bit r F.PORT_WIN_CTL_DONE = true ∧ t.chip.winNow = s.chip.winNow)
    ∧ (who.sealed = true → s.chip.bit r F.PORT_WIN_CTL_BUSY = false → s.chip.winBad n = false →
      ∃ t, Sys2Proof.Machine.exec (.winCommit who n) s = .next t ∧ (∀ q ∈ s.chip.winRegs n, t.chip.winReg q.1 = s.chip.reg q.1)
        ∧ t.chip.bit r F.PORT_WIN_CTL_BUSY = s.chip.bit r F.PORT_WIN_CTL_WINDOW_DRAIN)
    ∧ (s.chip.bit r F.PORT_WIN_CTL_BUSY = true → s.chip.winDrained n = true →
      ∃ t, Sys2Proof.Machine.exec (.winDrainDone n) s = .next t ∧ t.chip.bit r F.PORT_WIN_CTL_BUSY = false
        ∧ t.chip.bit r F.PORT_WIN_CTL_DONE = true ∧ t.chip.fld r F.PORT_WIN_CTL_RESULT = 1)
    ∧ (s.chip.winDrained n = false → Gives (.winDrainDone n) s s.chip))
  ∧ (∀ (s : State) (n f : Nat), n < 10 → f < 256 → let x := s.chip.fn n f
    let busy := s.chip.bit (.PORT_FN_CFG n f) F.PORT_FN_CFG_FLR_BUSY
    (s.chip.epFn n f = true →
      (∀ (bar : Nat) (v : BitVec 32), barOk bar = true → ∃ t, Sys2Proof.Machine.exec (.barUpperWrite n f bar v) s = .next t
        ∧ sget 0 bar (t.chip.fn n f).bar = (v.toNat * 2 ^ 32 + (sget 0 bar x.barLow).toNat) / s.chip.barSize n f bar * s.chip.barSize n f bar)
      ∧ (x.d3 = false → ∃ t, Sys2Proof.Machine.exec (.dStateChange n f true) s = .next t ∧ (t.chip.fn n f).d3 = true
        ∧ (t.chip.fn n f).msix = x.msix)
      ∧ (x.d3 = true → ∃ t, Sys2Proof.Machine.exec (.dStateChange n f false) s = .next t ∧ (t.chip.fn n f).d3 = false
        ∧ (t.chip.fn n f).msix = [] ∧ t.chip.msix = s.chip.msix ++ x.msix.map (fun v => (256 * n + f, v)))
      ∧ (∀ v : Word, (s.chip.barOn n f = true → Gives (.pageSelWrite n f v) s
          (s.chip.onFn n f (fun y => { y with pageSel := v.toNat % 2 ^ 13 })))
        ∧ (s.chip.barOn n f = false → Gives (.pageSelWrite n f v) s s.chip))
      ∧ (busy = false → ∀ (off : Nat) (v : BitVec 32), off < 4096 → off % 4 = 0 →
        (off = 4 → Gives (.hostConfigWrite n f off v) s (s.chip.onFn n f (fun y => { y with memEn := v.toNat.testBit 1 })))
        ∧ (off = 20 → Gives (.hostConfigWrite n f off v) s (s.chip.barUpper n f 0 v))
        ∧ (off = 80 → v.toNat.testBit 15 = true → Gives (.hostConfigWrite n f off v) s (s.chip.flrStart n f))
        ∧ (88 ≤ off → off ≠ 360 → off ≠ 368 → Gives (.hostConfigWrite n f off v) s
          (s.chip.onFn n f (fun y => { y with cfg := sset 0 (off / 4) v y.cfg })))
        ∧ (off = 360 → ¬ (s.chip.vfOf n f = 0 ∧ s.chip.vfEnable n (s.chip.portOfFn n f) = true ∧ v.toNat.testBit 0 = false) →
          Gives (.hostConfigWrite n f off v) s (s.chip.onFn n f (fun y => { y with cfg := sset 0 90 (v &&& 0x19) y.cfg })))
        ∧ (off = 360 → s.chip.vfOf n f = 0 → s.chip.vfEnable n (s.chip.portOfFn n f) = true → v.toNat.testBit 0 = false →
          ∃ t, Sys2Proof.Machine.exec (.hostConfigWrite n f off v) s = .next t
            ∧ ∀ g ∈ s.chip.portFns n (s.chip.portOfFn n f), g ≠ f → s.chip.epFn n g = true →
              t.chip.bit (.PORT_FN_CFG n g) F.PORT_FN_CFG_FLR_BUSY = true)
        ∧ (off = 368 → (s.chip.vfEnable n (s.chip.portOfFn n f) = true → Gives (.hostConfigWrite n f off v) s s.chip)
          ∧ (s.chip.vfEnable n (s.chip.portOfFn n f) = false → Gives (.hostConfigWrite n f off v) s
            (s.chip.onFn n f (fun y => { y with cfg := sset 0 92 (v &&& 0xFFFF) y.cfg }))))))
    ∧ (s.chip.epFn n f = false → ∀ (off : Nat) (v : BitVec 32) (d3 : Bool) (w : Word), off < 4096 → off % 4 = 0 →
      Gives (.hostConfigWrite n f off v) s s.chip ∧ Gives (.dStateChange n f d3) s s.chip ∧ Gives (.pageSelWrite n f w) s s.chip
        ∧ Gives (.barUpperWrite n f 0 v) s s.chip)
    ∧ (∀ who : Who, (who.sealed = true → busy = false → ∃ t, Sys2Proof.Machine.exec (.flr who n f) s = .next t
        ∧ t.chip.bit (.PORT_FN_CFG n f) F.PORT_FN_CFG_FLR_BUSY = true ∧ (t.chip.fn n f).msix = [])
      ∧ (who.sealed = false → Gives (.flr who n f) s (s.chip.refuseWrite who (.PORT_FN_CFG n f))))
    ∧ (busy = true → (∀ q ∈ (s.chip.port n (s.chip.portOfFn n f)).outst, q.fn ≠ f) →
      (∀ q ∈ s.chip.boundTo n f, s.chip.instState q.1 q.2 ≠ 2) → ∃ t, Sys2Proof.Machine.exec (.flrDone n f) s = .next t
        ∧ t.chip.bit (.PORT_FN_CFG n f) F.PORT_FN_CFG_FLR_BUSY = false ∧ t.chip.fn n f =
          { FnSt.reset with disabled := x.disabled, winPend := x.winPend, pmeSts := x.pmeSts, pmeEn := x.pmeEn })
    ∧ (busy = false → Gives (.flrDone n f) s s.chip))
  ∧ (∀ (s : State) (n : Nat), n < 10 →
    let head := s.chip.iommuReg n 4 % 2 ^ 32
    let size := 2 ^ (s.chip.iommuReg n 3 % 32 + 1)
    let r := s.toPkg.readBytes (0x2000 + 256 * n) 1 (s.chip.fnWalker n 0).label (bits (s.chip.iommuReg n 3) 53 10 * 4096 + 16 * head) 16
    let op := ofBytes (r.2.1.take 8) % 128
    (s.chip.cqOn n = false ∨ head = s.chip.iommuReg n 4 / 2 ^ 32 → Gives (.iommuCommand n) s s.chip)
    ∧ (s.chip.cqOn n = true → head ≠ s.chip.iommuReg n 4 / 2 ^ 32 → s.chip.still = false → r.2.2.1 = 0 → r.2.2.2 = false →
      op = 1 ∨ op = 3 ∨ op = 4 →
      GivesPkg (.iommuCommand n) s (r.1.onChip (fun c => c.putIommu n 4 31 0 ((head + 1) % size)))))

-- the service engines

/-- Instances and rings (R373, R375 to R379, R384 to R391): ENABLE, RESET and the end of a reset; a ring error; doorbells and the share; a
descriptor is fetched into the list in flight, or its ring fails; a segment goes to a slot with a descriptor ready; the completion of the
oldest descriptor is written and counted, or its ring fails; a drain that is over leaves only descriptors with an outcome; a mailbox
delivers its oldest descriptor and takes its return. -/
def Obligations.EngineRings : Prop :=
  (∀ (s : State) (who : Who) (c k : Nat), instOk c k = true → let may := s.chip.mayInst who c k
    let st := s.chip.instState c k
    let r := Reg.SE_INST_STATUS c k
    (may = true → s.chip.enableBad c k = false → Gives (.enable who c k) s ((s.chip.zeroRings c k).setInstState c k 1))
    ∧ (may = true → s.chip.enableBad c k = true → Gives (.enable who c k) s (s.chip.instRefuse c k))
    ∧ (may = true → st = 0 ∨ st = 1 ∨ st = 3 → ∃ t, Sys2Proof.Machine.exec (.reset who c k) s = .next t ∧ t.chip.instState c k = 2
      ∧ (t.chip.inst c k).resetAt.isSome = true)
    ∧ (may = true → st = 2 ∨ 4 ≤ st → Gives (.reset who c k) s (s.chip.instRefuse c k))
    ∧ (may = false → s.chip.instOther who c k = false → Gives (.enable who c k) s s.chip ∧ Gives (.reset who c k) s s.chip)
    ∧ (s.chip.instOther who c k = true → let x := s.chip.refuseWrite who (.SE_INST_CTL c k)
      Gives (.enable who c k) s x ∧ Gives (.reset who c k) s x)
    ∧ (st = 2 ∨ st = 4 → (s.chip.inst c k).resetAt.isSome = true → (s.chip.inst c k).inflight = [] →
      ∃ t, Sys2Proof.Machine.exec (.instanceResetDone c k) s = .next t ∧ t.chip.instState c k = (if st = 4 then 4 else 0)
        ∧ t.chip.bit r F.SE_INST_STATUS_RESET_DONE = true ∧ t.chip.fld r F.SE_INST_STATUS_HEAD = 0)
    ∧ ((s.chip.inst c k).inflight ≠ [] → Gives (.instanceResetDone c k) s s.chip)
    ∧ (∀ cause, 1 ≤ cause → cause ≤ 5 →
      (st = 1 → ∃ t, Sys2Proof.Machine.exec (.ringError c k cause) s = .next t ∧ t.chip.instState c k = 3
        ∧ t.chip.fld r F.SE_INST_STATUS_ERR_CAUSE = cause)
      ∧ (st ≠ 1 → Gives (.ringError c k cause) s s.chip))
    ∧ (∀ v : Word, let i := F.SE_DB_TAIL_INDEX.get v
      (may = true → Gives (.seInstShareWrite who c k v) s (s.chip.storeFields (.SE_INST_SHARE c k) v))
      ∧ (may = true → s.chip.throughBar who c k = true → st = 1 → i < s.chip.ringSize c k →
        Gives (.seDbTailWrite who c k v) s (s.chip.setFld (.SE_DB_TAIL c k) F.SE_DB_TAIL_INDEX i)
        ∧ Gives (.seDbCplHeadWrite who c k v) s (s.chip.setFld (.SE_DB_CPL_HEAD c k) F.SE_DB_TAIL_INDEX i))
      ∧ (may = true → s.chip.throughBar who c k = true → st = 1 → s.chip.ringSize c k ≤ i →
        Gives (.seDbTailWrite who c k v) s (s.chip.ringError c k 1) ∧ Gives (.seDbCplHeadWrite who c k v) s (s.chip.ringError c k 1))
      ∧ (may = false → s.chip.instOther who c k = false → Gives (.seInstShareWrite who c k v) s s.chip
        ∧ Gives (.seDbTailWrite who c k v) s s.chip ∧ Gives (.seDbCplHeadWrite who c k v) s s.chip)
      ∧ (s.chip.instOther who c k = true → Gives (.seInstShareWrite who c k v) s (s.chip.refuseWrite who (.SE_INST_SHARE c k))
        ∧ Gives (.seDbTailWrite who c k v) s (s.chip.refuseWrite who (.SE_DB_TAIL c k))
        ∧ Gives (.seDbCplHeadWrite who c k v) s (s.chip.refuseWrite who (.SE_DB_CPL_HEAD c k)))))
  ∧ (∀ (s : State) (c k : Nat), instOk c k = true → let o : Slot := { c := c, k := k }
    let j := s.chip.fld (.SE_INST_STATUS c k) F.SE_INST_STATUS_HEAD
    let a := s.chip.ringBase (.SE_INST_DRING c k)
    let r := (Eng.start s.toPkg).read o (a + 64 * j) 64
    let f : Flight := { j := j, desc := r.2, engine := none, segs := 0, outcome := none, delivered := false }
    let g := if !isMbx k && s.chip.descBad o f then { f with outcome := some (1, 0) } else f
    (s.chip.mayFetch c k = false → Gives (.descriptorFetch c k) s s.chip)
    ∧ (s.chip.mayFetch c k = true → s.chip.instGo c k = false → Gives (.descriptorFetch c k) s (s.chip.instShort c k))
    ∧ (s.chip.mayFetch c k = true → s.chip.instGo c k = true → s.chip.addrBad o a = false → r.1.wait = false → r.1.st = 0 →
      r.1.poison = false → GivesPkg (.descriptorFetch c k) s (r.1.p.onChip (fun x =>
        ((x.setFld (.SE_INST_STATUS c k) F.SE_INST_STATUS_HEAD ((j + 1) % x.ringSize c k)).onInst c k (fun y =>
          { y with inflight := y.inflight ++ [g] })).noteInflight c k)))
    ∧ (s.chip.mayFetch c k = true → s.chip.instGo c k = true → s.chip.addrBad o a = false → r.1.wait = false →
      r.1.st ≠ 0 ∨ r.1.poison = true → GivesPkg (.descriptorFetch c k) s (r.1.p.onChip (fun x => x.ringError c k 2))))
  ∧ (∀ (s : State) (c e k : Nat) (f : Flight), c < 2 → e < 8 → s.chip.engGo c e = true → s.chip.choose c e = some k →
    s.chip.readyFor c k e = some f → ∃ t, Sys2Proof.Machine.exec (.segmentBoundary c e) s = .next t
      ∧ (∃ g ∈ (t.chip.inst c k).inflight, g.j = f.j ∧ g.engine = some e ∧ g.segs = f.segs + 1)
      ∧ t.chip.fld (.SE_ENG_STATUS c e) F.SE_ENG_STATUS_SEGMENTS =
        (s.chip.fld (.SE_ENG_STATUS c e) F.SE_ENG_STATUS_SEGMENTS + 1) % 2 ^ 48)
  ∧ (∀ (s : State) (c e : Nat), c < 2 → e < 8 → s.chip.choose c e = none → Gives (.segmentBoundary c e) s s.chip)
  ∧ (∀ (x : Chip) (c e k : Nat), x.choose c e = some k → k < 512 ∧ (x.readyFor c k e).isSome = true
    ∧ ((∃ i ∈ x.readySlots c e, x.hadOf c i e < x.weightOf c i) → x.hadOf c k e < x.weightOf c k))
  ∧ (∀ (s : State) (c k st : Nat) (f : Flight) (rest : List Flight) (res : Word), instOk c k = true →
    (s.chip.inst c k).inflight = f :: rest → let o : Slot := { c := c, k := k }
    let a := s.chip.ringBase (.SE_INST_CRING c k)
    let y := (Eng.start s.toPkg).write o (a + 16 * f.j) (f.record st res (s.chip.inst c k).phase)
    (f.outcome = none → Gives (.descriptorCompletion c k) s s.chip)
    ∧ (f.outcome = some (st, res) → isMbx k = true ∨ spoils st = false → s.chip.instGo c k = true → (s.chip.inst c k).cplOff = false →
      s.chip.destWaits o f = false → s.chip.addrBad o a = false → y.wait = false →
      (y.st = 0 → GivesPkg (.descriptorCompletion c k) s (y.p.onChip (fun x => x.completed o f st)))
      ∧ (y.st ≠ 0 → GivesPkg (.descriptorCompletion c k) s (y.p.onChip (fun x =>
        (x.ringError c k 3).onInst c k (fun z => { z with cplOff := true })))))
    ∧ (let x := s.chip.completed o f st
       (x.inst c k).inflight = rest ∧ (x.inst c k).cplNext = (f.j + 1) % s.chip.ringSize c k
       ∧ x.fld (.SE_INST_STATUS c k) F.SE_INST_STATUS_COMPLETED =
         (s.chip.fld (.SE_INST_STATUS c k) F.SE_INST_STATUS_COMPLETED + 1) % 2 ^ 24))
  ∧ (∀ (s : State) (c k : Nat), instOk c k = true →
    (s.chip.drainOver c k = true → ∃ t, Sys2Proof.Machine.exec (.drainLimitExpiry c k) s = .next t
      ∧ ∀ f ∈ (t.chip.inst c k).inflight, f.outcome.isSome = true)
    ∧ (s.chip.drainOver c k = false → Gives (.drainLimitExpiry c k) s s.chip))
  ∧ (∀ (s : State) (c k : Nat) (f : Flight), c < 2 → 512 ≤ k → k < 544 →
    (s.chip.inst c k).inflight.find? (fun g => !g.delivered) = some f → s.chip.instState c k = 1 → s.chip.instGo c k = true →
    let a := s.chip.dlvAddr c k f.j
    let w := s.toPkg.writeBytes (instRid c k) (s.chip.instOwner c k) (s.chip.instLabel c k) a f.desc false
    (2 ^ 52 ≤ a → Gives (.mailboxDelivery c k) s (s.chip.ringError c k 4))
    ∧ (a < 2 ^ 52 → s.chip.rangeIdle a 64 = true →
    (w.2 = 0 → GivesPkg (.mailboxDelivery c k) s (w.1.onChip (fun x => ((x.onFlight c k f.j (fun g =>
      { g with delivered := true })).setFld (.SE_DB_DLV_TAIL c k) F.SE_DB_TAIL_INDEX ((f.j + 1) % x.ringSize c k)).raiseEvent
        (instEvent c k))))
    ∧ (w.2 ≠ 0 → GivesPkg (.mailboxDelivery c k) s (w.1.onChip (fun x => x.ringError c k 4)))))
  ∧ (∀ (s : State) (who : Who) (c k : Nat) (v : Word), c < 2 → 512 ≤ k → k < 544 → s.chip.mayInst who c k = true →
    s.chip.throughBar who c k = true → let j := F.SE_DB_TAIL_INDEX.get v
    let r := s.toPkg.readBytes (instRid c k) (s.chip.instOwner c k) (s.chip.instLabel c k) (s.chip.dlvAddr c k j % 2 ^ 52) 16
    (s.chip.flightAt c k j = none → Gives (.seDbReturn who c k v) s (s.chip.instRefuse c k))
    ∧ (∀ f, s.chip.flightAt c k j = some f → f.delivered = false ∨ f.outcome.isSome = true →
      Gives (.seDbReturn who c k v) s (s.chip.instRefuse c k))
    ∧ (∀ f, s.chip.flightAt c k j = some f → f.delivered = true → f.outcome = none → r.2.2.1 = 0 → r.2.2.2 = false →
      GivesPkg (.seDbReturn who c k v) s (r.1.onChip (fun x => x.onFlight c k j (fun g =>
        { g with outcome := some (sliceNum r.2.1 6 1, BitVec.ofNat 64 (sliceNum r.2.1 8 8))
                 desc := g.desc.take 4 ++ r.2.1.take 4 ++ g.desc.drop 8 })))))

/-- Operations (R380 to R382): a descriptor that its engine has given all its segments runs once, whole: its accesses are made and its
STATUS and RESULT recorded; a descriptor of another operation, one no engine has started or one that has run changes nothing. A failed
access stops a COPY; COMPARE answers the first offset that differs; a failed GCM tag gives STATUS 7. -/
def Obligations.EngineOperations : Prop :=
  (∀ (s : State) (c k j op : Nat) (i : Instr) (body : Slot → Flight → Eng → Done) (f : Flight), c < 2 → k < 512 → j < 65536 →
    (i, op, body) ∈ ([(.copy c k j, 0x01, opCopy), (.fill c k j, 0x02, opFill), (.compare c k j, 0x03, opCompare),
      (.atomic c k j, 0x04, opAtomic), (.pack c k j, 0x10, opPack), (.unpack c k j, 0x11, opUnpack), (.verify c k j, 0x12, opVerify),
      (.gcmEnc c k j, 0x20, opGcmEnc), (.gcmDec c k j, 0x21, opGcmDec), (.xtsEnc c k j, 0x22, opXtsEnc), (.xtsDec c k j, 0x23, opXtsDec),
      (.hash c k j, 0x24, opHash), (.deflateC c k j, 0x30, opDeflateC), (.deflateD c k j, 0x31, opDeflateD),
      (.lz4fC c k j, 0x32, opLz4fC), (.lz4fD c k j, 0x33, opLz4fD)] : List (Instr × Nat × (Slot → Flight → Eng → Done))) →
    s.chip.flightAt c k j = some f →
    (f.op = op → f.engine.isSome = true → f.outcome = none → f.need ≤ f.segs → s.chip.instGo c k = true →
      let d := body { c := c, k := k } f { Eng.start s.toPkg with poison := f.bad }
      (d.x.wait = true → Gives i s s.chip)
      ∧ (d.x.wait = false → GivesPkg i s (d.x.p.onChip (fun x => (x.onFlight c k j (fun g =>
        { g with outcome := some (d.status, d.res) })).noteActive c))))
    ∧ (f.op = op → f.engine.isSome = true → f.outcome = none → f.need ≤ f.segs → s.chip.instGo c k = false → Gives i s (s.chip.instShort c k))
    ∧ (f.op ≠ op ∨ f.engine = none ∨ f.outcome.isSome = true ∨ f.segs < f.need → Gives i s s.chip))
  ∧ (∀ (o : Slot) (f : Flight) (x : Eng), (x.read o f.src f.len).1.ended = true → (opCopy o f x).x = (x.read o f.src f.len).1)
  ∧ (∀ (o : Slot) (f : Flight) (x : Eng), let a := x.read o f.src f.len
    let b := a.1.read o f.dst f.len
    b.1.st = 0 → b.1.poison = false →
    (a.2 = b.2 → (opCompare o f x).res = BitVec.allOnes 64)
    ∧ (∀ n, n < a.2.length → a.2.length = b.2.length → n < 2 ^ 64 → a.2.take n = b.2.take n → a.2[n]? ≠ b.2[n]? →
      (opCompare o f x).res = BitVec.ofNat 64 n))
  ∧ (∀ (o : Slot) (f : Flight) (x : Eng), let r := x.gcmInputs o f (f.len + 16)
    r.1.ended = false →
    gcmOpen r.2.1 r.2.2.1 r.2.2.2.1 (r.2.2.2.2.take f.len) (r.2.2.2.2.drop f.len) = none → (opGcmDec o f x).st = 7)

/-- What the coders promise (R382): GCM_DEC of what GCM_ENC seals gives the plaintext back, and whatever bytes the free values make a
compressor write, decompressing them gives its input back with nothing left over. -/
def Obligations.CodersRoundTrip : Prop :=
  (∀ key iv aad pt : List Nat, key.length = 16 ∨ key.length = 32 → iv.length = 12 → (∀ b ∈ key ++ iv ++ aad ++ pt, b < 256) →
    gcmOpen key iv aad (gcmSeal key iv aad pt).1 (gcmSeal key iv aad pt).2 = some pt)
  ∧ (∀ (input : List Nat) (len v : Nat), (∀ b ∈ input, b < 256) →
    inflate (compressed false input len v) = some (input, false) ∧ lz4Decode (compressed true input len v) = some (input, false))

-- mirrored pairs

/-- Liveness and roles (R394 to R396, R406 to R411): PAIR_ALIVE_O toggles in its states; an edge and its absence set and clear ALIVE, a
heartbeat and its absence HEARD; a package that no longer hears its partner separates: a source is ALONE, a target DETACHED, takes over or
is INCOMPLETE; discovery gives the roles from the two records of the separation; a retrained link comes back; FORCE_SOURCE. -/
def Obligations.PairRoles : Prop :=
  (∀ s : State,
    (aliveState s.chip.pairState = true → s.chip.safe = false → Gives .pairAliveToggle s (s.chip.setAliveO (!s.chip.pins.pairAliveO)))
    ∧ (aliveState s.chip.pairState = false ∨ s.chip.safe = true → Gives .pairAliveToggle s (s.chip.setAliveO false))
    ∧ (s.chip.pairLinkUp = true → 2 ≤ s.chip.pairState → s.chip.pair.yielded = false →
      Gives .pairHbSend s ((s.chip.onPair (fun x => { x with hbOut := x.hbOut + 1 })).pairCtl s.chip.hbUnit))
    ∧ (s.chip.pairLinkUp = false ∨ s.chip.pairState < 2 ∨ s.chip.pair.yielded = true → Gives .pairHbSend s s.chip))
  ∧ (∀ s : State, (s.chip.pairState = 2 ∨ s.chip.pairState = 5 → s.chip.bit .PAIR_STATUS F.PAIR_STATUS_HEARD = true) →
    (s.chip.fld .PAIR_STATUS F.PAIR_STATUS_ROLE = 1 ∨ s.chip.fld .PAIR_STATUS F.PAIR_STATUS_ROLE = 2 → s.chip.pair.partnerYielded = false →
      ∃ t, Sys2Proof.Machine.exec .pairAliveIEdge s = .next t ∧ t.chip.bit .PAIR_STATUS F.PAIR_STATUS_ALIVE = true
        ∧ t.chip.pair.aliveAt = some s.chip.now ∧ t.chip.pairState = s.chip.pairState)
    ∧ ((∀ e, s.chip.pair.aliveAt = some e → e + 50000 ≤ s.chip.now) →
      ∃ t, Sys2Proof.Machine.exec .pairAliveTimeout s = .next t ∧ t.chip.bit .PAIR_STATUS F.PAIR_STATUS_ALIVE = false
        ∧ (t.chip.bit (.FC_SRC 33) F.FC_SRC_CAUSE = true ↔ s.chip.pairState = 2 ∨ s.chip.pairState = 5)))
  ∧ (∀ (s : State) (e : Nat), s.chip.pair.aliveAt = some e → s.chip.now < e + 50000 → Gives .pairAliveTimeout s s.chip)
  ∧ (∀ (s : State) (e : Nat), s.chip.pair.hbAt = some e →
    (s.chip.now < e + s.chip.hbTimeout → Gives .pairHbTimeout s s.chip)
    ∧ (e + s.chip.hbTimeout ≤ s.chip.now → s.chip.pair.yielded = false →
      let alive := s.chip.bit .PAIR_STATUS F.PAIR_STATUS_ALIVE
      (s.chip.pairState = 2 ∨ s.chip.pairState = 5 → s.chip.isSource = true →
        ∃ t, Sys2Proof.Machine.exec .pairHbTimeout s = .next t ∧ t.chip.pairState = 3 ∧ t.chip.pair.queue = [] ∧ t.chip.pair.held = [])
      ∧ (s.chip.pairState = 2 ∨ s.chip.pairState = 5 → s.chip.isSource = false → alive = true →
        ∃ t, Sys2Proof.Machine.exec .pairHbTimeout s = .next t ∧ t.chip.pairState = 4 ∧ t.chip.isSource = false)
      ∧ (s.chip.pairState = 2 → s.chip.isSource = false → alive = false →
        ∃ t, Sys2Proof.Machine.exec .pairHbTimeout s = .next t ∧ t.chip.pairState = (if s.chip.linesWait then 2 else 3)
          ∧ t.chip.isSource = !s.chip.linesWait)
      ∧ (s.chip.pairState = 5 → s.chip.isSource = false → alive = false →
        ∃ t, Sys2Proof.Machine.exec .pairHbTimeout s = .next t ∧ t.chip.pairState = 7 ∧ t.chip.isSource = false)))
  ∧ (∀ (s : State) (state time queued : Nat) (source safe notReady : Bool), state < 8 → time < 2 ^ 64 → queued < 2 ^ 32 →
    let st := s.chip.pairState
    (2 ≤ st → s.chip.pair.partnerYielded = false → ∃ t, Sys2Proof.Machine.exec (.pairHb state source safe notReady time queued) s = .next t
      ∧ t.chip.bit .PAIR_STATUS F.PAIR_STATUS_HEARD = true ∧ t.chip.pair.hbAt = some s.chip.now
      ∧ t.chip.pair.partnerReady = !notReady ∧ t.chip.pairState =
        (if (st = 2 ∧ s.chip.isSource = true ∧ notReady = true) ∨ (st = 3 ∧ source = false) ∨ (st = 4 ∧ s.chip.pair.yielded = false)
            ∨ (st = 6 ∧ s.chip.pair.split = true ∧ source = true) then 5 else st))
    ∧ (st < 2 ∨ s.chip.pair.partnerYielded = true → Gives (.pairHb state source safe notReady time queued) s s.chip))
  ∧ (∀ s : State, (s.chip.pairState ≠ 2 → s.chip.pairState ≠ 5 → ∃ t, Sys2Proof.Machine.exec .pairYield s = .next t
      ∧ t.chip.pair.partnerYielded = true ∧ t.chip.bit .PAIR_STATUS F.PAIR_STATUS_HEARD = false
      ∧ t.chip.bit .PAIR_STATUS F.PAIR_STATUS_ALIVE = false)
    ∧ (s.chip.pairState = 2 → s.chip.isSource = false → s.chip.pair.yielded = false → s.chip.linesWait = false →
      ∃ t, Sys2Proof.Machine.exec .pairYield s = .next t ∧ t.chip.pairState = 3 ∧ t.chip.isSource = true))
  ∧ (∀ (s : State) (a b : PairIdent), PairIdentOk a = true → PairIdentOk b = true →
    (s.chip.pairState = 1 → ∃ t, Sys2Proof.Machine.exec (.pairDiscovery a b) s = .next t ∧
      (a ≠ b ∨ a.role = s.chip.fld .PAIR_STATUS F.PAIR_STATUS_ROLE → t.chip.pairState = 6 ∧ t.chip.isSource = false)
      ∧ (a = b → a.role ≠ s.chip.fld .PAIR_STATUS F.PAIR_STATUS_ROLE →
        (s.chip.pair.tracking = true → a.tracking = true → t.chip.pairState = 6 ∧ t.chip.pair.split = true ∧ t.chip.isSource = false)
        ∧ (s.chip.pair.tracking = true → a.tracking = false → t.chip.pairState = 2 ∧ t.chip.isSource = true)
        ∧ (s.chip.pair.tracking = false → a.tracking = true → t.chip.pairState = 5 ∧ t.chip.isSource = false)
        ∧ (s.chip.pair.tracking = false → a.tracking = false →
          (s.chip.fld .PAIR_STATUS F.PAIR_STATUS_ROLE = 1 → t.chip.pairState = 2 ∧ t.chip.isSource = true)
          ∧ (s.chip.fld .PAIR_STATUS F.PAIR_STATUS_ROLE ≠ 1 → t.chip.pairState = 5 ∧ t.chip.isSource = false))))
    ∧ (s.chip.pairState ≠ 1 → Gives (.pairDiscovery a b) s s.chip))
  ∧ (∀ (s : State) (trains k : Nat) (peer : PairIdent), trains < 4 → PairIdentOk peer = true → k = 24 ∨ k = 25 →
    s.chip.fld .PAIR_STATUS F.PAIR_STATUS_ROLE = 1 ∨ s.chip.fld .PAIR_STATUS F.PAIR_STATUS_ROLE = 2 →
    s.chip.pairState = 2 ∨ s.chip.pairState = 5 → s.chip.linkState k ≠ 2 → s.chip.linkState (49 - k) = 2 → bitAt trains (k - 24) = true →
    ∃ t, Sys2Proof.Machine.exec (.pairLinkRetry trains peer) s = .next t ∧ t.chip.linkState k = 2
      ∧ t.chip.linkState (49 - k) = 2 ∧ t.chip.pairState = s.chip.pairState)
  ∧ (∀ (s : State) (who : Who), (who.sealed = true →
      (s.chip.pairState = 4 ∨ s.chip.pairState = 7 → ∃ t, Sys2Proof.Machine.exec (.forceSource who) s = .next t
        ∧ t.chip.pairState = 3 ∧ t.chip.isSource = true ∧ t.chip.fld .PAIR_STATUS F.PAIR_STATUS_RESULT = 1)
      ∧ (s.chip.pairState = 6 → s.chip.pair.split = true → ∃ t, Sys2Proof.Machine.exec (.forceSource who) s = .next t
        ∧ t.chip.pairState = 2 ∧ t.chip.isSource = true ∧ t.chip.fld .PAIR_STATUS F.PAIR_STATUS_RESULT = 1)
      ∧ (s.chip.pairState ≠ 4 → s.chip.pairState ≠ 7 → s.chip.pairState ≠ 6 ∨ s.chip.pair.split = false →
        Gives (.forceSource who) s (s.chip.pairResult 4)))
    ∧ (who.sealed = false → Gives (.forceSource who) s (s.chip.refuseWrite who .PAIR_CTL)))

/-- The region table and the mirror stream (R397 to R404, R412, R413): COMMIT is refused away from the source, for a bad table, or by the
target, and else installs the staged table; a target installs the mirrored view; a digest that differs raises its fault; a mirror line is
applied in sequence and acknowledged, or refused; an acknowledgement frees the queue; a lagging region gives up its late lines;
resynchronisation copies a page's 64 lines and ends PAIRED. Whether the target refuses a table is a free value. -/
def Obligations.PairMirror : Prop :=
  (∀ (s : State) (who : Who), let rows := (List.range 16).map (fun n =>
      regionRow (s.chip.reg (.PAIR_REGION_BASE n)) (s.chip.reg (.PAIR_REGION_LIMIT n)) (s.chip.reg (.PAIR_REGION_REMOTE n)))
    let may : Bool := s.chip.isSource && (s.chip.pairState == 2 || (s.chip.pairState == 5 && !s.chip.pair.partnerReady))
    (who.sealed = true → may = false → Gives (.pairCommit who) s (s.chip.pairResult 4))
    ∧ (who.sealed = true → may = true → s.chip.tableBad rows = true → Gives (.pairCommit who) s (s.chip.pairResult 2))
    ∧ (who.sealed = true → may = true → s.chip.tableBad rows = false → s.chip.pair.partnerReady = false →
      ∃ t, Sys2Proof.Machine.exec (.pairCommit who) s = .next t ∧ t.chip.fld .PAIR_STATUS F.PAIR_STATUS_RESULT = 1
        ∧ ∀ n, n < 16 → sget 0 n t.chip.pair.base = s.chip.reg (.PAIR_REGION_BASE n)
          ∧ sget 0 n t.chip.pair.limit = s.chip.reg (.PAIR_REGION_LIMIT n) ∧ sget 0 n t.chip.pair.remote = s.chip.reg (.PAIR_REGION_REMOTE n))
    ∧ (who.sealed = true → may = true → s.chip.tableBad rows = false → s.chip.pair.partnerReady = true →
      ∃ t, Sys2Proof.Machine.exec (.pairCommit who) s = .next t ∧
        (t.chip.fld .PAIR_STATUS F.PAIR_STATUS_RESULT = 1 ∨ (t.chip.fld .PAIR_STATUS F.PAIR_STATUS_RESULT = 3
          ∧ t.chip.pair.base = s.chip.pair.base ∧ t.chip.pair.limit = s.chip.pair.limit ∧ t.chip.pair.remote = s.chip.pair.remote)))
    ∧ (who.sealed = false → Gives (.pairCommit who) s (s.chip.refuseWrite who .PAIR_CTL)))
  ∧ (∀ (s : State) (l : List (Word × Word × Word)), l.length = 16 → 2 ≤ s.chip.pairState → s.chip.isSource = false →
    s.chip.wldCommitted = true → s.chip.tableBad ((l.map mirrorView).map (fun w => regionRow w.1 w.2.1 w.2.2)) = false →
    ∃ t, Sys2Proof.Machine.exec (.pairCfg (.table l)) s = .next t ∧ ∀ (n : Nat) (w : Word × Word × Word), l[n]? = some w →
      sget 0 n t.chip.pair.base = (mirrorView w).1 ∧ sget 0 n t.chip.pair.limit = (mirrorView w).2.1
        ∧ sget 0 n t.chip.pair.remote = (mirrorView w).2.2)
  ∧ (∀ (s : State) (d : Nat), d < 2 ^ 384 → 2 ≤ s.chip.pairState → ∃ t, Sys2Proof.Machine.exec (.pairCfg (.digest d)) s = .next t
    ∧ t.chip.pair.partnerDigest = some d ∧ (t.chip.bit .PAIR_STATUS F.PAIR_STATUS_CFG_MATCH = true ↔ d = s.chip.pair.ownDigest)
    ∧ (t.chip.bit (.FC_SRC 39) F.FC_SRC_CAUSE = true ↔ d ≠ s.chip.pair.ownDigest))
  ∧ (∀ (s : State) (link n line seq : Nat) (poison copy : Bool) (v : Line), 24 ≤ link → link < 26 → n < 16 → line < 2 ^ 46 →
    seq < 2 ^ 32 →
    let label := s.chip.fld .PAIR_CFG F.PAIR_CFG_LABEL
    let go : Prop := s.chip.isSource = false ∧ s.chip.pair.yielded = false ∧ s.chip.wldCommitted = true
      ∧ (s.chip.pairState = 2 ∨ s.chip.pairState = 4 ∨ s.chip.pairState = 5 ∨ s.chip.pairState = 7)
    let took := s.chip.pairTake link 0 (mirWrUnits n line seq poison copy v)
    (∀ c, took = some c → go → c.pairGo (link - 24) line = true → let i := Instr.mirWr link n poison copy line seq v
      let fits : Prop := (sget 0 n s.chip.pair.rxSeq + 1) % 2 ^ 32 = seq ∧ s.chip.mirrorRegion (line / 64) = some n
      let w := ({ s.toPkg with chip := c } : Pkg).ioWrite (pairRid (link - 24)) 1 label line v (BitVec.allOnes 64) poison
      (fits → w.2 = 0 → GivesPkg i s (w.1.onChip (fun x => x.onPair (fun y => { y with
        rxSeq := sset 0 n seq y.rxSeq, ackOwed := y.ackOwed.filter (fun a => a.1 != n || a.2.2) ++ [(n, seq, false)] }))).pairWatch)
      ∧ (fits → w.2 ≠ 0 → GivesPkg i s (w.1.onChip (fun x => x.mirRefuse n seq)).pairWatch)
      ∧ (¬fits → GivesPkg i s (({ s.toPkg with chip := c } : Pkg).onChip (fun x => x.mirRefuse n seq)).pairWatch))
    ∧ (took = none → Gives (.mirWr link n poison copy line seq v) s s.chip)
    ∧ (s.chip.isSource = true → Gives (.mirWr link n poison copy line seq v) s s.chip))
  ∧ (∀ (s : State) (n seq : Nat) (refused : Bool), n < 16 → seq < 2 ^ 32 →
    let took := (s.chip.pairTake 24 1 (mirAckUnits n seq refused)).or (s.chip.pairTake 25 1 (mirAckUnits n seq refused))
    (took = none → Gives (.mirAck n seq refused) s s.chip)
    ∧ (∀ c, took = some c → s.chip.pair.acked n seq = none → Gives (.mirAck n seq refused) s c)
    ∧ ∀ c e, took = some c → s.chip.pair.acked n seq = some e → ∃ t, Sys2Proof.Machine.exec (.mirAck n seq refused) s = .next t
      ∧ t.chip.pair.queue = s.chip.pair.queue.filter (fun x => !(x.region == n && decide (x.seq ≤ e.seq)))
      ∧ (refused = false → ∀ h ∈ t.chip.pair.held, h.2.1 = n → h.2.2 = 0 ∨ e.seq < h.2.2))
  ∧ (∀ s : State, Gives .mirAckSend s (s.chip.onPair (fun x => { x with ackOwed := [] })))
  ∧ (∀ (s : State) (n : Nat), n < 16 →
    let late := fun (e : MirLine) => e.region == n && e.at_ + 1000 * s.chip.fld .PAIR_CFG F.PAIR_CFG_LAG_MAX_US ≤ s.chip.now
    let async : Prop := F.PAIR_REGION_BASE_MODE.get (sget 0 n s.chip.pair.base) = 2 ∧ s.chip.isSource = true
    (async → ∃ t, Sys2Proof.Machine.exec (.lagLimitReached n) s = .next t
      ∧ t.chip.pair.queue = s.chip.pair.queue.filter (fun e => !late e)
      ∧ (s.chip.pair.queue.any late = true → t.chip.bit (.PAIR_REGION_STATUS n) F.PAIR_REGION_STATUS_LAGGING = true))
    ∧ (¬async → Gives (.lagLimitReached n) s s.chip))
  ∧ (∀ (s : State) (n i : Nat), n < 16 → i < 2 ^ 28 →
    let pg := F.PAIR_REGION_BASE_PAGE.get (sget 0 n s.chip.pair.base) + i
    (s.chip.isSource = true → s.chip.still = false → s.chip.pairState = 2 ∨ s.chip.pairState = 5 → s.chip.pair.partnerReady = true →
      i < s.chip.regionPages n → sget 0 n s.chip.pair.fullCopy = i + 1 ∨ s.toPkg.pageDirty n pg = true →
      s.chip.pairQueued (s.chip.pairLink n) + 64 ≤ 131072 → (∀ k, k < 64 → s.chip.ioIdle (k + 64 * pg) = true) →
      ∃ t, Sys2Proof.Machine.exec (.resync n i) s = .next t ∧ t.chip.pair.queue.length = s.chip.pair.queue.length + 64
        ∧ (sget 0 n s.chip.pair.fullCopy = i + 1 →
          sget 0 n t.chip.pair.fullCopy = if i + 1 < s.chip.regionPages n then i + 2 else 0))
    ∧ (s.chip.isSource = false ∨ s.chip.regionPages n ≤ i → Gives (.resync n i) s s.chip))
  ∧ (∀ s : State, let ready : Bool := if s.chip.isSource then (s.chip.pairState == 2 || s.chip.pairState == 5)
        && s.chip.pair.partnerReady && s.chip.pagesLeft == 0 && s.chip.pair.queue.isEmpty else s.chip.pairState == 5
    (ready = true → ∃ t, Sys2Proof.Machine.exec .resyncDone s = .next t ∧ t.chip.pairState = 2 ∧ t.chip.pair.tracking = false
      ∧ t.chip.pair.srcAtSep = false)
    ∧ (ready = false → Gives .resyncDone s s.chip))

-- Uzomuris and the life record

/-- Power, start-up and temperature (R415 to R422, R437, R450, R451, R456, R458): the rise of standby power starts from the first good
slot or stops at step 2, and a start with DIMMs that do not agree stops at step 6; a Uzomuris reset keeps the journal alone; main power
on, off and its retry; the PKG commit; temperatures are recorded, a throttling hall lowers the ceilings, and a trip stops the package. -/
def Obligations.UzomurisPower : Prop :=
  (∀ (s : State) (a b : Bool) (st : PkgStart), pkgStartOk st = true → let i := Instr.standbyPowerGood a b st
    let c := ({ s.chip with pins := { s.chip.pins with pwrgd := true, mfgMode := st.mfgMode } } : Chip).stage 1
    (s.chip.pins.pwrgd = true → Gives i s s.chip)
    ∧ (s.chip.pins.pwrgd = false → st.mfgMode = true → Gives i s c)
    ∧ (s.chip.pins.pwrgd = false → st.mfgMode = false → s.chip.uz.slotGood 0 a = true →
      GivesPkg i s ((({ s.toPkg with chip := (c.standby 0).heldReset } : Pkg).dropDram).startPackage st))
    ∧ (s.chip.pins.pwrgd = false → st.mfgMode = false → s.chip.uz.slotGood 0 a = false → s.chip.uz.slotGood 1 b = true →
      GivesPkg i s ((({ s.toPkg with chip := ((c.standby 1).uzFault 48).heldReset } : Pkg).dropDram).startPackage st))
    ∧ (s.chip.pins.pwrgd = false → st.mfgMode = false → s.chip.uz.slotGood 0 a = false → s.chip.uz.slotGood 1 b = false →
      ∃ t, Sys2Proof.Machine.exec i s = .next t ∧ t.chip.fld .UZ_STATUS F.UZ_STATUS_STAGE = 2 ∧ t.chip.uz.on = false))
  ∧ (∀ (p : Pkg) (st : PkgStart), dimmsAgree st.channels = false →
    (p.startPackage st).chip.fld .UZ_STATUS F.UZ_STATUS_STAGE = 6 ∧ (p.startPackage st).chip.bit (.FC_SRC 14) F.FC_SRC_CAUSE = true)
  ∧ (∀ s : State, ∃ t, Sys2Proof.Machine.exec .uzomurisReset s = .next t ∧ t.chip.uz.on = false ∧ t.chip.now = 0
    ∧ s.chip.uz.half0 <+: t.chip.uz.half0 ∧ s.chip.uz.half1 <+: t.chip.uz.half1 ∧ t.chip.harts = [] ∧ t.chip.regs = []
    ∧ ∀ x, x < 0x40000000000 → t.readByte x = 0)
  ∧ (∀ s : State, (s.chip.uz.on = true → Gives .watchdogRestart s ((s.chip.bump .UZ_STATUS F.UZ_STATUS_WDOG_COUNT).uzFault 53))
    ∧ (s.chip.uz.on = false → Gives .watchdogRestart s s.chip))
  ∧ (∀ (s : State) (who : Who) (st : PkgStart), pkgStartOk st = true →
    (who.sealed = true → GivesPkg (.pkgReset who st) s (s.toPkg.resetPackage st))
    ∧ (who.sealed = false → Gives (.pkgReset who st) s (s.chip.refuseWrite who .UZ_CTL)))
  ∧ (∀ (s : State) (hot : Bool) (st : PkgStart), pkgStartOk st = true →
    let q := ((s.toPkg.onChip (fun x => ((if x.uz.tripped then x.mainsOff else x).releaseTrip.mainsOn.heldReset).onUz (fun u => { u with retryAt := none }))).dropDram).startPackage st
    (s.chip.uz.on = true → s.chip.mainsUp = false → s.chip.uz.tripped = false ∨ hot = false →
      GivesPkg (.mainPowerOn hot st) s q
      ∧ ∀ e, s.chip.uz.retryAt = some e → (e ≤ s.chip.now → GivesPkg (.mainPowerOnRetry hot st) s q)
        ∧ (s.chip.now < e → Gives (.mainPowerOnRetry hot st) s s.chip))
    ∧ (s.chip.uz.on = true → s.chip.mainsUp = false → s.chip.uz.tripped = true → hot = true →
      ∃ t, Sys2Proof.Machine.exec (.mainPowerOn hot st) s = .next t ∧ t.chip.uz.retryAt = some (s.chip.now + 60000000000)
        ∧ t.chip.uz.mainsOn = false ∧ t.chip.rail = [])
    ∧ (s.chip.uz.on = false ∨ s.chip.mainsUp = true → Gives (.mainPowerOn hot st) s s.chip))
  ∧ (∀ s : State, (s.chip.uz.on = true → s.chip.mainsUp = true → ∃ t, Sys2Proof.Machine.exec .powerOffRequest s = .next t
      ∧ t.chip.uz.mainsOn = false ∧ t.chip.rail = [] ∧ t.chip.harts = [] ∧ ∀ x, x < 0x40000000000 → t.readByte x = 0)
    ∧ (s.chip.uz.on = false ∨ s.chip.mainsUp = false → Gives .powerOffRequest s s.chip))
  ∧ (∀ (s : State) (who : Who), (who.uz = true → ∃ t, Sys2Proof.Machine.exec (.pkgCommit who) s = .next t
      ∧ t.chip.bit .PKG_CTL F.PKG_CTL_COMMITTED = true)
    ∧ (who.uz = false → Gives (.pkgCommit who) s (s.chip.refuseWrite who .PKG_CTL)))
  ∧ (∀ (s : State) (temps : List Nat), temps.length = 13 → (∀ x ∈ temps, x < 256) →
    (s.chip.uz.on = true → ∃ t, Sys2Proof.Machine.exec (.thermalSensorRead temps) s = .next t
      ∧ t.chip.fld .UZ_THERM_CFG F.UZ_THERM_CFG_HOTTEST_C = temps.foldl max 0
      ∧ ∀ d, d < 12 → (t.chip.die d).tj = temps.getD d 0)
    ∧ (s.chip.uz.on = false → Gives (.thermalSensorRead temps) s s.chip))
  ∧ (∀ s : State, s.chip.uz.on = true →
    ((List.range 16).any s.chip.throttles = true → ∃ t, Sys2Proof.Machine.exec .dimmCapStep s = .next t
      ∧ t.chip.uz.throttleAt = some s.chip.now ∧ ∀ d, d < 12 →
        t.chip.fld (.CD_PACER_STATUS d) F.CD_PACER_STATUS_CAP_A ≤ s.chip.fld (.CD_PACER_STATUS d) F.CD_PACER_STATUS_CAP_A)
    ∧ ((List.range 16).any s.chip.throttles = false → (∀ e, s.chip.uz.throttleAt = some e → s.chip.now < e + 100000000) →
      Gives .dimmCapStep s s.chip))
  ∧ (∀ (s : State) (d : Nat), d < 13 →
    (s.chip.uz.tripped = false → ∃ t, Sys2Proof.Machine.exec (.thermtrip d) s = .next t ∧ t.chip.pins.thermtripN = false
      ∧ t.chip.uz.tripped = true ∧ t.chip.bit (.FC_SRC 56) F.FC_SRC_CAUSE = true ∧ (∀ h, h < 288 → (t.chip.hart h).run = .held)
      ∧ ∀ k, k < 12 → (t.chip.die k).allow = 0)
    ∧ (s.chip.uz.tripped = true → Gives (.thermtrip d) s s.chip))

/-- The life record and the management services (R423, R424, R426 to R432): a record takes the next slot and SEQ, or waits in SRAM while a
compaction runs; a compaction begins at 24,576 records and leaves the other half numbered on from the old; a record reads back with its
CRC; hourly records restart V_MIN; requests on the bindings and through a mailbox are served, a mailbox of another world as a read. -/
def Obligations.LifeRecordManagement : Prop :=
  (∀ (s : State) (type : Nat) (l : List Byte), type < 65536 → l.length ≤ 224 → let h := s.chip.lrHalf
    let r : JRec := { seq := s.chip.uz.nextSeq, type := type, time := s.chip.now, boot := s.chip.uz.boot, payload := l }
    let i := Instr.lifeRecordWrite type l
    (s.chip.uz.on = true → s.chip.uz.formatted = true → s.chip.compacting = false → (s.chip.uz.half h).length < 32767 →
      ∃ t, Sys2Proof.Machine.exec i s = .next t ∧ t.chip.uz.half h = s.chip.uz.half h ++ [r]
        ∧ t.chip.uz.nextSeq = s.chip.uz.nextSeq + 1
        ∧ t.chip.fld .UZ_LR_STATUS F.UZ_LR_STATUS_RECORDS = (s.chip.uz.half h).length + 1)
    ∧ (s.chip.uz.on = true → s.chip.uz.formatted = true → s.chip.compacting = true → s.chip.uz.sram.length < 1024 →
      Gives i s { s.chip with uz := { s.chip.uz with sram := s.chip.uz.sram ++ [r] } })
    ∧ (s.chip.uz.on = true → s.chip.uz.formatted = true → s.chip.compacting = false → 32767 ≤ (s.chip.uz.half h).length →
      Gives i s (s.chip.uzFault 50))
    ∧ (s.chip.uz.on = false ∨ s.chip.uz.formatted = false → Gives i s s.chip))
  ∧ (∀ r : JRec, r.bytes.length = 256 ∧ r.bytes.take 4 = toBytes 4 (crc32c (r.bytes.drop 4)))
  ∧ (∀ s : State, let n := (s.chip.uz.half s.chip.lrHalf).length
    (s.chip.uz.on = true → s.chip.compacting = false → 24576 ≤ n →
      Gives .compaction s (s.chip.setBit .UZ_LR_STATUS F.UZ_LR_STATUS_COMPACTING true))
    ∧ (n < 24576 ∨ s.chip.compacting = true → Gives .compaction s s.chip)
    ∧ (s.chip.compacting = true → ∃ t, Sys2Proof.Machine.exec .compactionDone s = .next t ∧ t.chip.compacting = false
      ∧ t.chip.lrHalf = 1 - s.chip.lrHalf ∧ t.chip.uz.sram = []
      ∧ t.chip.uz.gen (1 - s.chip.lrHalf) = s.chip.uz.gen s.chip.lrHalf + 1
      ∧ ∀ (k : Nat) (r : JRec), (t.chip.uz.half (1 - s.chip.lrHalf))[k]? = some r → r.seq = s.chip.uz.nextSeq + 1 + k)
    ∧ (s.chip.compacting = false → Gives .compactionDone s s.chip))
  ∧ (∀ (s : State) (who : Who) (v : Word), let k := F.UZ_LR_READ_INDEX.get v
    (who.sealed = true → ∀ r, s.chip.recordAt k = some r → ∃ t, Sys2Proof.Machine.exec (.uzLrReadWrite who v) s = .next t
      ∧ t.chip.bit .UZ_LR_READ F.UZ_LR_READ_VALID = true
      ∧ ∀ j, j < 32 → t.chip.reg (.UZ_LR_DATA j) = BitVec.ofNat 64 (sliceNum r.bytes (8 * j) 8))
    ∧ (who.sealed = true → s.chip.recordAt k = none → ∃ t, Sys2Proof.Machine.exec (.uzLrReadWrite who v) s = .next t
      ∧ t.chip.bit .UZ_LR_READ F.UZ_LR_READ_VALID = false)
    ∧ (who.sealed = false → Gives (.uzLrReadWrite who v) s (s.chip.refuseWrite who .UZ_LR_READ)))
  ∧ (∀ s : State, (s.chip.uz.on = true → ∃ t, Sys2Proof.Machine.exec .hourlyRecords s = .next t ∧ ∀ d, d < 12 →
      t.chip.fld (.CD_SUPPLY_STATUS d) F.CD_SUPPLY_STATUS_V_MIN_MV = 1023)
    ∧ (s.chip.uz.on = false → Gives .hourlyRecords s s.chip))
  ∧ (∀ (s : State) (i : Instr) (q : Manage) (type op : Nat) (l : List Byte) (st : PkgStart), pkgStartOk st = true →
    (i = .mctpMessage type l st ∧ type < 256 ∧ q = manageOf type l) ∨ (i = .redfishRequest op l st ∧ op < 5 ∧ q = redfishOf op l) →
    (s.chip.uz.on = false → Gives i s s.chip)
    ∧ (s.chip.uz.on = true → q = .reset → GivesPkg i s (s.toPkg.resetPackage st))
    ∧ (s.chip.uz.on = true → q = .powerOff → GivesPkg i s s.toPkg.powerOffAll)
    ∧ (s.chip.uz.on = true → q = .powerOn → GivesPkg i s (s.toPkg.mainOn (!s.chip.cool) st))
    ∧ (s.chip.uz.on = true → q = .nonce → ∃ t, Sys2Proof.Machine.exec i s = .next t ∧ t.chip.uz.nonce = some t.chip.uz.lastAnswer)
    ∧ (∀ k, s.chip.uz.on = true → q = .record k → ∃ t, Sys2Proof.Machine.exec i s = .next t
      ∧ t.chip.uz.lastAnswer = (match s.chip.recordAt k with | some r => r.bytes | none => []))
    ∧ (∀ image, s.chip.uz.on = true → q = .firmware image → sliceNum image 0 4 < s.chip.uz.minVer →
      ∃ t, Sys2Proof.Machine.exec i s = .next t ∧ t.chip.uz.slotVer = s.chip.uz.slotVer ∧ t.chip.uz.slotOk = s.chip.uz.slotOk)
    ∧ (∀ image, s.chip.uz.on = true → q = .firmware image → s.chip.uz.minVer ≤ sliceNum image 0 4 →
      ∃ t, Sys2Proof.Machine.exec i s = .next t ∧ t.chip.uz.slotVer =
        s.chip.uz.slotVer.set (1 - s.chip.fld .UZ_STATUS F.UZ_STATUS_FW_SLOT) (sliceNum image 0 4)))
  ∧ (∀ (s : State) (who : Who) (k : Nat) (v : Word), k < 16 → F.UZ_MBX_CTL_GO.get v = 1 → let r := Reg.UZ_MBX_CTL k
    let n := F.UZ_MBX_CTL_LEN.get v
    (s.chip.mayMbx who k = true → s.chip.bit r F.UZ_MBX_CTL_BUSY = false → 1 ≤ n → n ≤ 248 →
      ∃ t, Sys2Proof.Machine.exec (.uzMbxGo who k v) s = .next t ∧ t.chip.bit r F.UZ_MBX_CTL_BUSY = true
        ∧ t.chip.fld r F.UZ_MBX_CTL_LEN = n)
    ∧ (s.chip.mayMbx who k = true → s.chip.bit r F.UZ_MBX_CTL_BUSY = true ∨ n = 0 ∨ 248 < n →
      ∃ t, Sys2Proof.Machine.exec (.uzMbxGo who k v) s = .next t ∧ t.chip.bit r F.UZ_MBX_CTL_REFUSED = true)
    ∧ (s.chip.mayMbx who k = false → Gives (.uzMbxGo who k v) s (s.chip.refuseWrite who r)))
  ∧ (∀ (s : State) (k : Nat), k < 16 →
    let q := manageOf (((s.chip.mbxBytes k).head?).getD 0).toNat ((s.chip.mbxBytes k).drop 1)
    (s.chip.uz.on = true → s.chip.bit (.UZ_MBX_CTL k) F.UZ_MBX_CTL_BUSY = true →
      ∃ t, Sys2Proof.Machine.exec (.uzMbxAnswer k) s = .next t ∧ t.chip.bit (.UZ_MBX_CTL k) F.UZ_MBX_CTL_BUSY = false
        ∧ (∀ j, j < 31 → t.chip.reg (.UZ_MBX_DATA k j) = BitVec.ofNat 64 (sliceNum t.chip.uz.lastAnswer (8 * j) 8))
        ∧ (q = .reset → s.chip.fld (.WLD_UZMB_OWN k) F.WLD_OWN_OWNER = 1 → t.chip.uz.resetPending = true)
        ∧ (q = .reset → s.chip.fld (.WLD_UZMB_OWN k) F.WLD_OWN_OWNER ≠ 1 → t.chip.uz.resetPending = s.chip.uz.resetPending)
        ∧ (q = .powerOff → s.chip.fld (.WLD_UZMB_OWN k) F.WLD_OWN_OWNER = 1 → s.chip.mainsUp = true → t.chip.uz.mainsOn = false))
    ∧ (s.chip.bit (.UZ_MBX_CTL k) F.UZ_MBX_CTL_BUSY = false → Gives (.uzMbxAnswer k) s s.chip))

-- rules stated whole

/-- The hall hash (R29, R30, R31): the home hall and the channel-local address of an address of main memory in one-domain mode, in
two-domain mode, and of an address of a CXL window in either; the local address of the last is at or above 2^40 and below 2^49. -/
def Obligations.HomeMap : Prop :=
  let bits : Nat → Nat → Nat → Nat := fun x lo n => ((BitVec.ofNat 52 x).extractLsb' lo n).toNat
  let fold : Nat → Nat := fun x => bits x 12 4 ^^^ bits x 16 4 ^^^ bits x 20 4 ^^^ bits x 24 4 ^^^ bits x 28 4 ^^^ bits x 32 4
    ^^^ bits x 36 4 ^^^ bits x 40 4 ^^^ bits x 44 4 ^^^ bits x 48 4
  let keep : Nat → Nat → Nat := fun x lo => ((BitVec.ofNat 52 x >>> lo) <<< 8 ||| (BitVec.ofNat 52 x &&& 0xFF)).toNat
  ∀ (c : Chip) (pa : Nat),
    let dom := if pa < 8 * c.capGib * 2 ^ 30 then 0 else 1
    let o := pa - dom * (8 * c.capGib * 2 ^ 30)
    (c.domains = false → pa < 2 ^ 51 → c.home pa = (bits pa 8 4 ^^^ fold pa, keep pa 12))
    ∧ (c.domains = true → c.capGib ≤ 256 → pa < 16 * c.capGib * 2 ^ 30 →
      c.home pa = (8 * dom + (bits o 8 3 ^^^ fold o % 8), keep o 11))
    ∧ (∀ n a, c.domains = true → 2 ^ 44 ≤ pa → pa < 2 ^ 51 → c.region pa = .cxl n a →
      c.home pa = (8 * (if stationNorth n then 0 else 1) + (bits pa 8 3 ^^^ fold pa % 8), keep pa 11))
    ∧ (2 ^ 44 ≤ pa → pa < 2 ^ 51 → 2 ^ 40 ≤ (c.home pa).2 ∧ (c.home pa).2 < 2 ^ 49)

/-- A notice to a world (R332): a notice to W2 goes to W1; the notice registers take its source, severity, access type and address, the
address only for the owner world or W1; OVERRUN sets where VALID was; the world's event source is raised again; no other register changes
before that. -/
def Obligations.FaultNotice : Prop :=
  ∀ (c : Chip) (w : Nat) (r : Report) (sev : Nat), w < 16 → r.source < 2 ^ 11 → sev < 8 → r.acc < 16 → r.addr < 2 ^ 52 →
    let v := if w = 2 then 1 else w
    let n := Reg.FC_NOTICE_INFO v
    ∃ d : Chip, c.notice w r sev = d.raiseEvent v
      ∧ d.fld n F.FC_NOTICE_INFO_SOURCE = r.source ∧ d.fld n F.FC_NOTICE_INFO_SEV = sev ∧ d.fld n F.FC_NOTICE_INFO_ACC = r.acc
      ∧ d.bit n F.FC_NOTICE_INFO_VALID = true
      ∧ d.bit n F.FC_NOTICE_INFO_OVERRUN = (c.bit n F.FC_NOTICE_INFO_VALID || c.bit n F.FC_NOTICE_INFO_OVERRUN)
      ∧ d.fld (.FC_NOTICE_ADDR v) F.FC_NOTICE_ADDR_ADDR = (if v = 1 ∨ v = r.world then r.addr else 0)
      ∧ (∀ q : Reg, q.offset ≠ n.offset → q.offset ≠ (Reg.FC_NOTICE_ADDR v).offset → d.reg q = c.reg q) ∧ { d with regs := c.regs } = c

/-- Consent (R298): a write to WLD_CONSENT_w from world w or from Uzomuris changes the register's fields; any other is ignored and
recorded as a world violation: by the consent command and by a write of the register alike. -/
def Obligations.ConsentWrites : Prop :=
  ∀ (s : State) (who : Who) (w : Nat) (v : Word), w < 16 →
    let r := Reg.WLD_CONSENT w
    (who.world = w ∨ who.uz = true → Gives (.consentWrite who w v) s (s.chip.storeFields r v)
      ∧ (F.WLD_CONSENT_CLUSTERS.get v = (s.chip.storeFields r v).fld r F.WLD_CONSENT_CLUSTERS)
      ∧ (F.WLD_CONSENT_HALLS.get v = (s.chip.storeFields r v).fld r F.WLD_CONSENT_HALLS)
      ∧ ∀ q : Reg, q.offset ≠ r.offset → (s.chip.storeFields r v).reg q = s.chip.reg q)
    ∧ (who.world ≠ w → who.uz = false → Gives (.consentWrite who w v) s (s.chip.violate who 1 r.offset)
      ∧ (s.chip.violate who 1 r.offset).reg r = s.chip.reg r)
    ∧ (whoOk who = true →
      Sys2Proof.Machine.exec (.registerWrite who r.offset v) s = Sys2Proof.Machine.exec (.consentWrite who w v) s)
end

