-- ==== Sys2Proof/Laws/Sparse.lean ====
section
/-! SUPPORT. Laws of the maps in canonical form, of the fields of a register, and of commands whose operands are judged first. -/

namespace Sys2Proof.Machine

-- maps

theorem sget_serase_self {V : Type} (d : V) (k : Nat) (m : Sparse V) : sget d k (serase k m) = d := by
  induction m with
  | nil => rfl
  | cons e m ih =>
    by_cases h : e.1 = k
    · simpa [serase, h] using ih
    · simpa [serase, sget, h] using ih

theorem sget_serase_ne {V : Type} (d : V) {j k : Nat} (h : j ≠ k) (m : Sparse V) : sget d j (serase k m) = sget d j m := by
  induction m with
  | nil => rfl
  | cons e m ih =>
    by_cases hk : e.1 = k
    · have : ¬ k = j := fun x => h x.symm
      simpa [serase, sget, hk, this] using ih
    · by_cases hj : e.1 = j
      · subst hj; simp [serase, sget, hk]
      · simpa [serase, sget, hk, hj] using ih

theorem sget_sinsert_ne {V : Type} (d : V) {j k : Nat} (h : j ≠ k) (v : V) (m : Sparse V) :
    sget d j (sinsert k v m) = sget d j m := by
  induction m with
  | nil => simp [sinsert, sget, Ne.symm h]
  | cons e m ih =>
    simp only [sinsert]
    split
    · simp [sget, Ne.symm h]
    · simp [sget, ih]

theorem sget_sinsert_self {V : Type} (d : V) (k : Nat) (v : V) (m : Sparse V) (h : ∀ e ∈ m, e.1 ≠ k) :
    sget d k (sinsert k v m) = v := by
  induction m with
  | nil => simp [sinsert, sget]
  | cons e m ih =>
    simp only [sinsert]
    split
    · simp [sget]
    · simp [sget, h e (by simp), ih (fun x hx => h x (by simp [hx]))]

/-- What was stored reads back. -/
@[simp] theorem sget_sset_self {V : Type} [DecidableEq V] (d : V) (k : Nat) (v : V) (m : Sparse V) : sget d k (sset d k v m) = v := by
  unfold sset
  split
  · rename_i h; rw [sget_serase_self, h]
  · exact sget_sinsert_self d k v _ (by simp [serase])

/-- Every other key reads as before. -/
theorem sget_sset_ne {V : Type} [DecidableEq V] (d d' : V) {j k : Nat} (h : j ≠ k) (v : V) (m : Sparse V) :
    sget d' j (sset d k v m) = sget d' j m := by
  unfold sset
  split
  · exact sget_serase_ne d' h m
  · rw [sget_sinsert_ne d' h, sget_serase_ne d' h]

/-- A part of a map in canonical form is in canonical form. -/
theorem Sparse.wf_filter {V : Type} {d : V} {m : Sparse V} (h : Sparse.wf d m) (p : Nat × V → Bool) : Sparse.wf d (m.filter p) :=
  ⟨h.1.filter p, fun e he => h.2 e (List.mem_of_mem_filter he)⟩

theorem mem_sinsert {V : Type} {k : Nat} {v : V} {m : Sparse V} {e : Nat × V} (h : e ∈ sinsert k v m) : e = (k, v) ∨ e ∈ m := by
  induction m with
  | nil => simpa [sinsert] using h
  | cons x m ih =>
    simp only [sinsert] at h
    split at h
    · simpa using h
    · rcases List.mem_cons.mp h with h | h
      · exact .inr (by simp [h])
      · rcases ih h with h | h
        · exact .inl h
        · exact .inr (by simp [h])

theorem sinsert_pairwise {V : Type} {k : Nat} {v : V} {m : Sparse V} (h : m.Pairwise (fun a b => a.1 < b.1)) (hk : ∀ e ∈ m, e.1 ≠ k) :
    (sinsert k v m).Pairwise (fun a b => a.1 < b.1) := by
  induction m with
  | nil => simp [sinsert]
  | cons x m ih =>
    obtain ⟨hx, hm⟩ := List.pairwise_cons.mp h
    simp only [sinsert]
    split
    · rename_i hlt
      refine List.pairwise_cons.mpr ⟨fun b hb => ?_, h⟩
      rcases List.mem_cons.mp hb with rfl | hb
      · exact hlt
      · exact lt_trans hlt (hx b hb)
    · rename_i hnot
      refine List.pairwise_cons.mpr ⟨fun b hb => ?_, ih hm (fun e he => hk e (by simp [he]))⟩
      rcases mem_sinsert hb with rfl | hb
      · have := hk x (by simp); simp only at *; omega
      · exact hx b hb

/-- A store keeps the canonical form. -/
theorem sset_wf {V : Type} [DecidableEq V] {d : V} {m : Sparse V} (h : Sparse.wf d m) (k : Nat) (v : V) : Sparse.wf d (sset d k v m) := by
  have he : Sparse.wf d (serase k m) := Sparse.wf_filter h _
  unfold sset
  split
  · exact he
  · rename_i hv
    refine ⟨sinsert_pairwise he.1 (by simp [serase]), fun e hm => ?_⟩
    rcases mem_sinsert hm with rfl | hm
    · exact hv
    · exact he.2 e hm

/-- A key below every listed one is unlisted. -/
theorem sget_of_lt {V : Type} {d : V} {m : Sparse V} {k : Nat} (h : ∀ e ∈ m, k < e.1) : sget d k m = d := by
  induction m with
  | nil => rfl
  | cons e m ih =>
    have := h e (by simp)
    simp [sget, show e.1 ≠ k by omega, ih (fun x hx => h x (by simp [hx]))]

-- fields

theorem Field.get_lt (f : Field) (w : Word) : f.get w < 2 ^ f.width := Nat.mod_lt _ (by positivity)

theorem Field.get_testBit (f : Field) (w : Word) (i : Nat) : (f.get w).testBit i = (decide (i < f.width) && w.getLsbD (f.lo + i)) := by
  simp [Field.get, Nat.testBit_mod_two_pow, Nat.testBit_div_two_pow, BitVec.getLsbD, Nat.add_comm]

theorem Field.mask_getLsbD (f : Field) (h : f.hi < 64) (h' : f.lo ≤ f.hi) (i : Nat) :
    f.mask.getLsbD i = (decide (f.lo ≤ i) && decide (i ≤ f.hi)) := by
  have hw : f.width = f.hi - f.lo + 1 := rfl
  simp only [Field.mask, BitVec.getLsbD_ofNat, ← Nat.shiftLeft_eq, Nat.testBit_shiftLeft, Nat.testBit_two_pow_sub_one]
  by_cases h1 : f.lo ≤ i <;> by_cases h2 : i ≤ f.hi <;> simp [h1, h2] <;> omega

theorem Field.put_getLsbD (f : Field) (w : Word) (n : Nat) (h : f.hi < 64) (h' : f.lo ≤ f.hi) (i : Nat) (hi : i < 64) :
    (f.put w n).getLsbD i = if f.lo ≤ i ∧ i ≤ f.hi then n.testBit (i - f.lo) else w.getLsbD i := by
  have hw : f.width = f.hi - f.lo + 1 := rfl
  simp only [Field.put, BitVec.getLsbD_or, BitVec.getLsbD_and, BitVec.getLsbD_not, f.mask_getLsbD h h', BitVec.getLsbD_ofNat,
    ← Nat.shiftLeft_eq, Nat.testBit_shiftLeft, Nat.testBit_mod_two_pow]
  by_cases h1 : f.lo ≤ i <;> by_cases h2 : i ≤ f.hi <;> simp [h1, h2, hi] <;> omega

/-- A field reads what was put there, reduced to its width. -/
@[simp] theorem Field.get_put (f : Field) (w : Word) (n : Nat) (h : f.hi < 64) (h' : f.lo ≤ f.hi) : f.get (f.put w n) = n % 2 ^ f.width := by
  have hw : f.width = f.hi - f.lo + 1 := rfl
  refine Nat.eq_of_testBit_eq fun i => ?_
  rw [Field.get_testBit, Nat.testBit_mod_two_pow]
  by_cases hi : i < f.width
  · rw [f.put_getLsbD w n h h' _ (by omega)]
    simp [hi, show f.lo + i ≤ f.hi by omega]
  · simp [hi]

/-- Setting a field leaves a field that shares no bit with it. -/
theorem Field.get_put_disjoint (f g : Field) (w : Word) (n : Nat) (h : f.hi < 64) (h' : f.lo ≤ f.hi) (hd : g.hi < f.lo ∨ f.hi < g.lo)
    (hg : g.lo ≤ g.hi) : g.get (f.put w n) = g.get w := by
  have hw : g.width = g.hi - g.lo + 1 := rfl
  refine Nat.eq_of_testBit_eq fun i => ?_
  rw [Field.get_testBit, Field.get_testBit]
  by_cases hi : i < g.width
  · by_cases h64 : g.lo + i < 64
    · rw [f.put_getLsbD w n h h' _ h64, if_neg (by omega)]
    · simp [BitVec.getLsbD_of_ge _ _ (show 64 ≤ g.lo + i by omega)]
  · simp [hi]

-- outcomes

@[simp] theorem need_true (o : Result) : need true o = o := rfl
@[simp] theorem need_false (o : Result) : need false o = .refused .badOperand := rfl

/-- A command with judged operands answers a next state exactly where they are in range and its effect does. -/
theorem need_eq_next {ok : Bool} {o : Result} {t : State} : need ok o = .next t ↔ ok = true ∧ o = .next t := by
  cases ok <;> simp

@[simp] theorem State.onChip_eq_next {s t : State} {f : Chip → Chip} : s.onChip f = .next t ↔ t = { s with chip := f s.chip } := by
  simp [State.onChip, eq_comm]
@[simp] theorem State.onPkg_eq_next {s t : State} {f : Pkg → Pkg} : s.onPkg f = .next t ↔ t = { s with toPkg := f s.toPkg } := by
  simp [State.onPkg, eq_comm]

end Sys2Proof.Machine
end

