-- ==== Sys2Proof/Laws/State.lean ====
section
/-! SUPPORT. The updates of the chip that every family is written over: each leaves every field but its own as it was (by rfl), and its own
field reads as what was stored. -/

namespace Sys2Proof.Machine

-- setReg changes regs alone

@[simp] theorem Chip.setReg_iommu (c : Chip) (r : Reg) (v : Word) : (c.setReg r v).iommu = c.iommu := rfl
@[simp] theorem Chip.setReg_now (c : Chip) (r : Reg) (v : Word) : (c.setReg r v).now = c.now := rfl
@[simp] theorem Chip.setReg_refclkGoodAt (c : Chip) (r : Reg) (v : Word) : (c.setReg r v).refclkGoodAt = c.refclkGoodAt := rfl
@[simp] theorem Chip.setReg_harts (c : Chip) (r : Reg) (v : Word) : (c.setReg r v).harts = c.harts := rfl
@[simp] theorem Chip.setReg_dies (c : Chip) (r : Reg) (v : Word) : (c.setReg r v).dies = c.dies := rfl
@[simp] theorem Chip.setReg_l2 (c : Chip) (r : Reg) (v : Word) : (c.setReg r v).l2 = c.l2 := rfl
@[simp] theorem Chip.setReg_wb (c : Chip) (r : Reg) (v : Word) : (c.setReg r v).wb = c.wb := rfl
@[simp] theorem Chip.setReg_lnd (c : Chip) (r : Reg) (v : Word) : (c.setReg r v).lnd = c.lnd := rfl
@[simp] theorem Chip.setReg_miss (c : Chip) (r : Reg) (v : Word) : (c.setReg r v).miss = c.miss := rfl
@[simp] theorem Chip.setReg_snoopQ (c : Chip) (r : Reg) (v : Word) : (c.setReg r v).snoopQ = c.snoopQ := rfl
@[simp] theorem Chip.setReg_wchk (c : Chip) (r : Reg) (v : Word) : (c.setReg r v).wchk = c.wchk := rfl
@[simp] theorem Chip.setReg_dir (c : Chip) (r : Reg) (v : Word) : (c.setReg r v).dir = c.dir := rfl
@[simp] theorem Chip.setReg_dirWay (c : Chip) (r : Reg) (v : Word) : (c.setReg r v).dirWay = c.dirWay := rfl
@[simp] theorem Chip.setReg_lru (c : Chip) (r : Reg) (v : Word) : (c.setReg r v).lru = c.lru := rfl
@[simp] theorem Chip.setReg_txn (c : Chip) (r : Reg) (v : Word) : (c.setReg r v).txn = c.txn := rfl
@[simp] theorem Chip.setReg_homeQ (c : Chip) (r : Reg) (v : Word) : (c.setReg r v).homeQ = c.homeQ := rfl
@[simp] theorem Chip.setReg_hc (c : Chip) (r : Reg) (v : Word) : (c.setReg r v).hc = c.hc := rfl
@[simp] theorem Chip.setReg_ownc (c : Chip) (r : Reg) (v : Word) : (c.setReg r v).ownc = c.ownc := rfl
@[simp] theorem Chip.setReg_halls (c : Chip) (r : Reg) (v : Word) : (c.setReg r v).halls = c.halls := rfl
@[simp] theorem Chip.setReg_net (c : Chip) (r : Reg) (v : Word) : (c.setReg r v).net = c.net := rfl
@[simp] theorem Chip.setReg_dlv (c : Chip) (r : Reg) (v : Word) : (c.setReg r v).dlv = c.dlv := rfl
@[simp] theorem Chip.setReg_gal (c : Chip) (r : Reg) (v : Word) : (c.setReg r v).gal = c.gal := rfl
@[simp] theorem Chip.setReg_link (c : Chip) (r : Reg) (v : Word) : (c.setReg r v).link = c.link := rfl
@[simp] theorem Chip.setReg_tokens (c : Chip) (r : Reg) (v : Word) : (c.setReg r v).tokens = c.tokens := rfl
@[simp] theorem Chip.setReg_portRate (c : Chip) (r : Reg) (v : Word) : (c.setReg r v).portRate = c.portRate := rfl
@[simp] theorem Chip.setReg_injQ (c : Chip) (r : Reg) (v : Word) : (c.setReg r v).injQ = c.injQ := rfl
@[simp] theorem Chip.setReg_active (c : Chip) (r : Reg) (v : Word) : (c.setReg r v).active = c.active := rfl
@[simp] theorem Chip.setReg_qosMap (c : Chip) (r : Reg) (v : Word) : (c.setReg r v).qosMap = c.qosMap := rfl
@[simp] theorem Chip.setReg_qosCls (c : Chip) (r : Reg) (v : Word) : (c.setReg r v).qosCls = c.qosCls := rfl
@[simp] theorem Chip.setReg_qosCap (c : Chip) (r : Reg) (v : Word) : (c.setReg r v).qosCap = c.qosCap := rfl
@[simp] theorem Chip.setReg_banks (c : Chip) (r : Reg) (v : Word) : (c.setReg r v).banks = c.banks := rfl
@[simp] theorem Chip.setReg_fcHold (c : Chip) (r : Reg) (v : Word) : (c.setReg r v).fcHold = c.fcHold := rfl
@[simp] theorem Chip.setReg_fcLost (c : Chip) (r : Reg) (v : Word) : (c.setReg r v).fcLost = c.fcLost := rfl
@[simp] theorem Chip.setReg_cntNew (c : Chip) (r : Reg) (v : Word) : (c.setReg r v).cntNew = c.cntNew := rfl
@[simp] theorem Chip.setReg_toDrop (c : Chip) (r : Reg) (v : Word) : (c.setReg r v).toDrop = c.toDrop := rfl
@[simp] theorem Chip.setReg_safeQ (c : Chip) (r : Reg) (v : Word) : (c.setReg r v).safeQ = c.safeQ := rfl
@[simp] theorem Chip.setReg_msi (c : Chip) (r : Reg) (v : Word) : (c.setReg r v).msi = c.msi := rfl
@[simp] theorem Chip.setReg_msix (c : Chip) (r : Reg) (v : Word) : (c.setReg r v).msix = c.msix := rfl
@[simp] theorem Chip.setReg_down (c : Chip) (r : Reg) (v : Word) : (c.setReg r v).down = c.down := rfl
@[simp] theorem Chip.setReg_pwrReq (c : Chip) (r : Reg) (v : Word) : (c.setReg r v).pwrReq = c.pwrReq := rfl
@[simp] theorem Chip.setReg_pot (c : Chip) (r : Reg) (v : Word) : (c.setReg r v).pot = c.pot := rfl
@[simp] theorem Chip.setReg_mnt (c : Chip) (r : Reg) (v : Word) : (c.setReg r v).mnt = c.mnt := rfl
@[simp] theorem Chip.setReg_rail (c : Chip) (r : Reg) (v : Word) : (c.setReg r v).rail = c.rail := rfl
@[simp] theorem Chip.setReg_railBadAt (c : Chip) (r : Reg) (v : Word) : (c.setReg r v).railBadAt = c.railBadAt := rfl
@[simp] theorem Chip.setReg_pmbusMiss (c : Chip) (r : Reg) (v : Word) : (c.setReg r v).pmbusMiss = c.pmbusMiss := rfl
@[simp] theorem Chip.setReg_pmbus (c : Chip) (r : Reg) (v : Word) : (c.setReg r v).pmbus = c.pmbus := rfl
@[simp] theorem Chip.setReg_viodSet (c : Chip) (r : Reg) (v : Word) : (c.setReg r v).viodSet = c.viodSet := rfl
@[simp] theorem Chip.setReg_viodFloor (c : Chip) (r : Reg) (v : Word) : (c.setReg r v).viodFloor = c.viodFloor := rfl
@[simp] theorem Chip.setReg_iodDroops (c : Chip) (r : Reg) (v : Word) : (c.setReg r v).iodDroops = c.iodDroops := rfl
@[simp] theorem Chip.setReg_watts (c : Chip) (r : Reg) (v : Word) : (c.setReg r v).watts = c.watts := rfl
@[simp] theorem Chip.setReg_peakAt (c : Chip) (r : Reg) (v : Word) : (c.setReg r v).peakAt = c.peakAt := rfl
@[simp] theorem Chip.setReg_peakBar (c : Chip) (r : Reg) (v : Word) : (c.setReg r v).peakBar = c.peakBar := rfl
@[simp] theorem Chip.setReg_portSt (c : Chip) (r : Reg) (v : Word) : (c.setReg r v).portSt = c.portSt := rfl
@[simp] theorem Chip.setReg_fnSt (c : Chip) (r : Reg) (v : Word) : (c.setReg r v).fnSt = c.fnSt := rfl
@[simp] theorem Chip.setReg_winNow (c : Chip) (r : Reg) (v : Word) : (c.setReg r v).winNow = c.winNow := rfl
@[simp] theorem Chip.setReg_winEra (c : Chip) (r : Reg) (v : Word) : (c.setReg r v).winEra = c.winEra := rfl
@[simp] theorem Chip.setReg_insts (c : Chip) (r : Reg) (v : Word) : (c.setReg r v).insts = c.insts := rfl
@[simp] theorem Chip.setReg_engRR (c : Chip) (r : Reg) (v : Word) : (c.setReg r v).engRR = c.engRR := rfl
@[simp] theorem Chip.setReg_pair (c : Chip) (r : Reg) (v : Word) : (c.setReg r v).pair = c.pair := rfl
@[simp] theorem Chip.setReg_uz (c : Chip) (r : Reg) (v : Word) : (c.setReg r v).uz = c.uz := rfl
@[simp] theorem Chip.setReg_pins (c : Chip) (r : Reg) (v : Word) : (c.setReg r v).pins = c.pins := rfl
@[simp] theorem Chip.setReg_dmData (c : Chip) (r : Reg) (v : Word) : (c.setReg r v).dmData = c.dmData := rfl
@[simp] theorem Chip.setReg_dmErr (c : Chip) (r : Reg) (v : Word) : (c.setReg r v).dmErr = c.dmErr := rfl
@[simp] theorem Chip.setReg_dmProg (c : Chip) (r : Reg) (v : Word) : (c.setReg r v).dmProg = c.dmProg := rfl
@[simp] theorem Chip.setReg_free (c : Chip) (r : Reg) (v : Word) : (c.setReg r v).free = c.free := rfl

-- setFld changes regs alone

@[simp] theorem Chip.setFld_iommu (c : Chip) (r : Reg) (f : Field) (n : Nat) : (c.setFld r f n).iommu = c.iommu := rfl
@[simp] theorem Chip.setFld_now (c : Chip) (r : Reg) (f : Field) (n : Nat) : (c.setFld r f n).now = c.now := rfl
@[simp] theorem Chip.setFld_refclkGoodAt (c : Chip) (r : Reg) (f : Field) (n : Nat) : (c.setFld r f n).refclkGoodAt = c.refclkGoodAt := rfl
@[simp] theorem Chip.setFld_harts (c : Chip) (r : Reg) (f : Field) (n : Nat) : (c.setFld r f n).harts = c.harts := rfl
@[simp] theorem Chip.setFld_dies (c : Chip) (r : Reg) (f : Field) (n : Nat) : (c.setFld r f n).dies = c.dies := rfl
@[simp] theorem Chip.setFld_l2 (c : Chip) (r : Reg) (f : Field) (n : Nat) : (c.setFld r f n).l2 = c.l2 := rfl
@[simp] theorem Chip.setFld_wb (c : Chip) (r : Reg) (f : Field) (n : Nat) : (c.setFld r f n).wb = c.wb := rfl
@[simp] theorem Chip.setFld_lnd (c : Chip) (r : Reg) (f : Field) (n : Nat) : (c.setFld r f n).lnd = c.lnd := rfl
@[simp] theorem Chip.setFld_miss (c : Chip) (r : Reg) (f : Field) (n : Nat) : (c.setFld r f n).miss = c.miss := rfl
@[simp] theorem Chip.setFld_snoopQ (c : Chip) (r : Reg) (f : Field) (n : Nat) : (c.setFld r f n).snoopQ = c.snoopQ := rfl
@[simp] theorem Chip.setFld_wchk (c : Chip) (r : Reg) (f : Field) (n : Nat) : (c.setFld r f n).wchk = c.wchk := rfl
@[simp] theorem Chip.setFld_dir (c : Chip) (r : Reg) (f : Field) (n : Nat) : (c.setFld r f n).dir = c.dir := rfl
@[simp] theorem Chip.setFld_dirWay (c : Chip) (r : Reg) (f : Field) (n : Nat) : (c.setFld r f n).dirWay = c.dirWay := rfl
@[simp] theorem Chip.setFld_lru (c : Chip) (r : Reg) (f : Field) (n : Nat) : (c.setFld r f n).lru = c.lru := rfl
@[simp] theorem Chip.setFld_txn (c : Chip) (r : Reg) (f : Field) (n : Nat) : (c.setFld r f n).txn = c.txn := rfl
@[simp] theorem Chip.setFld_homeQ (c : Chip) (r : Reg) (f : Field) (n : Nat) : (c.setFld r f n).homeQ = c.homeQ := rfl
@[simp] theorem Chip.setFld_hc (c : Chip) (r : Reg) (f : Field) (n : Nat) : (c.setFld r f n).hc = c.hc := rfl
@[simp] theorem Chip.setFld_ownc (c : Chip) (r : Reg) (f : Field) (n : Nat) : (c.setFld r f n).ownc = c.ownc := rfl
@[simp] theorem Chip.setFld_halls (c : Chip) (r : Reg) (f : Field) (n : Nat) : (c.setFld r f n).halls = c.halls := rfl
@[simp] theorem Chip.setFld_net (c : Chip) (r : Reg) (f : Field) (n : Nat) : (c.setFld r f n).net = c.net := rfl
@[simp] theorem Chip.setFld_dlv (c : Chip) (r : Reg) (f : Field) (n : Nat) : (c.setFld r f n).dlv = c.dlv := rfl
@[simp] theorem Chip.setFld_gal (c : Chip) (r : Reg) (f : Field) (n : Nat) : (c.setFld r f n).gal = c.gal := rfl
@[simp] theorem Chip.setFld_link (c : Chip) (r : Reg) (f : Field) (n : Nat) : (c.setFld r f n).link = c.link := rfl
@[simp] theorem Chip.setFld_tokens (c : Chip) (r : Reg) (f : Field) (n : Nat) : (c.setFld r f n).tokens = c.tokens := rfl
@[simp] theorem Chip.setFld_portRate (c : Chip) (r : Reg) (f : Field) (n : Nat) : (c.setFld r f n).portRate = c.portRate := rfl
@[simp] theorem Chip.setFld_injQ (c : Chip) (r : Reg) (f : Field) (n : Nat) : (c.setFld r f n).injQ = c.injQ := rfl
@[simp] theorem Chip.setFld_active (c : Chip) (r : Reg) (f : Field) (n : Nat) : (c.setFld r f n).active = c.active := rfl
@[simp] theorem Chip.setFld_qosMap (c : Chip) (r : Reg) (f : Field) (n : Nat) : (c.setFld r f n).qosMap = c.qosMap := rfl
@[simp] theorem Chip.setFld_qosCls (c : Chip) (r : Reg) (f : Field) (n : Nat) : (c.setFld r f n).qosCls = c.qosCls := rfl
@[simp] theorem Chip.setFld_qosCap (c : Chip) (r : Reg) (f : Field) (n : Nat) : (c.setFld r f n).qosCap = c.qosCap := rfl
@[simp] theorem Chip.setFld_banks (c : Chip) (r : Reg) (f : Field) (n : Nat) : (c.setFld r f n).banks = c.banks := rfl
@[simp] theorem Chip.setFld_fcHold (c : Chip) (r : Reg) (f : Field) (n : Nat) : (c.setFld r f n).fcHold = c.fcHold := rfl
@[simp] theorem Chip.setFld_fcLost (c : Chip) (r : Reg) (f : Field) (n : Nat) : (c.setFld r f n).fcLost = c.fcLost := rfl
@[simp] theorem Chip.setFld_cntNew (c : Chip) (r : Reg) (f : Field) (n : Nat) : (c.setFld r f n).cntNew = c.cntNew := rfl
@[simp] theorem Chip.setFld_toDrop (c : Chip) (r : Reg) (f : Field) (n : Nat) : (c.setFld r f n).toDrop = c.toDrop := rfl
@[simp] theorem Chip.setFld_safeQ (c : Chip) (r : Reg) (f : Field) (n : Nat) : (c.setFld r f n).safeQ = c.safeQ := rfl
@[simp] theorem Chip.setFld_msi (c : Chip) (r : Reg) (f : Field) (n : Nat) : (c.setFld r f n).msi = c.msi := rfl
@[simp] theorem Chip.setFld_msix (c : Chip) (r : Reg) (f : Field) (n : Nat) : (c.setFld r f n).msix = c.msix := rfl
@[simp] theorem Chip.setFld_down (c : Chip) (r : Reg) (f : Field) (n : Nat) : (c.setFld r f n).down = c.down := rfl
@[simp] theorem Chip.setFld_pwrReq (c : Chip) (r : Reg) (f : Field) (n : Nat) : (c.setFld r f n).pwrReq = c.pwrReq := rfl
@[simp] theorem Chip.setFld_pot (c : Chip) (r : Reg) (f : Field) (n : Nat) : (c.setFld r f n).pot = c.pot := rfl
@[simp] theorem Chip.setFld_mnt (c : Chip) (r : Reg) (f : Field) (n : Nat) : (c.setFld r f n).mnt = c.mnt := rfl
@[simp] theorem Chip.setFld_rail (c : Chip) (r : Reg) (f : Field) (n : Nat) : (c.setFld r f n).rail = c.rail := rfl
@[simp] theorem Chip.setFld_railBadAt (c : Chip) (r : Reg) (f : Field) (n : Nat) : (c.setFld r f n).railBadAt = c.railBadAt := rfl
@[simp] theorem Chip.setFld_pmbusMiss (c : Chip) (r : Reg) (f : Field) (n : Nat) : (c.setFld r f n).pmbusMiss = c.pmbusMiss := rfl
@[simp] theorem Chip.setFld_pmbus (c : Chip) (r : Reg) (f : Field) (n : Nat) : (c.setFld r f n).pmbus = c.pmbus := rfl
@[simp] theorem Chip.setFld_viodSet (c : Chip) (r : Reg) (f : Field) (n : Nat) : (c.setFld r f n).viodSet = c.viodSet := rfl
@[simp] theorem Chip.setFld_viodFloor (c : Chip) (r : Reg) (f : Field) (n : Nat) : (c.setFld r f n).viodFloor = c.viodFloor := rfl
@[simp] theorem Chip.setFld_iodDroops (c : Chip) (r : Reg) (f : Field) (n : Nat) : (c.setFld r f n).iodDroops = c.iodDroops := rfl
@[simp] theorem Chip.setFld_watts (c : Chip) (r : Reg) (f : Field) (n : Nat) : (c.setFld r f n).watts = c.watts := rfl
@[simp] theorem Chip.setFld_peakAt (c : Chip) (r : Reg) (f : Field) (n : Nat) : (c.setFld r f n).peakAt = c.peakAt := rfl
@[simp] theorem Chip.setFld_peakBar (c : Chip) (r : Reg) (f : Field) (n : Nat) : (c.setFld r f n).peakBar = c.peakBar := rfl
@[simp] theorem Chip.setFld_portSt (c : Chip) (r : Reg) (f : Field) (n : Nat) : (c.setFld r f n).portSt = c.portSt := rfl
@[simp] theorem Chip.setFld_fnSt (c : Chip) (r : Reg) (f : Field) (n : Nat) : (c.setFld r f n).fnSt = c.fnSt := rfl
@[simp] theorem Chip.setFld_winNow (c : Chip) (r : Reg) (f : Field) (n : Nat) : (c.setFld r f n).winNow = c.winNow := rfl
@[simp] theorem Chip.setFld_winEra (c : Chip) (r : Reg) (f : Field) (n : Nat) : (c.setFld r f n).winEra = c.winEra := rfl
@[simp] theorem Chip.setFld_insts (c : Chip) (r : Reg) (f : Field) (n : Nat) : (c.setFld r f n).insts = c.insts := rfl
@[simp] theorem Chip.setFld_engRR (c : Chip) (r : Reg) (f : Field) (n : Nat) : (c.setFld r f n).engRR = c.engRR := rfl
@[simp] theorem Chip.setFld_pair (c : Chip) (r : Reg) (f : Field) (n : Nat) : (c.setFld r f n).pair = c.pair := rfl
@[simp] theorem Chip.setFld_uz (c : Chip) (r : Reg) (f : Field) (n : Nat) : (c.setFld r f n).uz = c.uz := rfl
@[simp] theorem Chip.setFld_pins (c : Chip) (r : Reg) (f : Field) (n : Nat) : (c.setFld r f n).pins = c.pins := rfl
@[simp] theorem Chip.setFld_dmData (c : Chip) (r : Reg) (f : Field) (n : Nat) : (c.setFld r f n).dmData = c.dmData := rfl
@[simp] theorem Chip.setFld_dmErr (c : Chip) (r : Reg) (f : Field) (n : Nat) : (c.setFld r f n).dmErr = c.dmErr := rfl
@[simp] theorem Chip.setFld_dmProg (c : Chip) (r : Reg) (f : Field) (n : Nat) : (c.setFld r f n).dmProg = c.dmProg := rfl
@[simp] theorem Chip.setFld_free (c : Chip) (r : Reg) (f : Field) (n : Nat) : (c.setFld r f n).free = c.free := rfl

-- setBit changes regs alone

@[simp] theorem Chip.setBit_iommu (c : Chip) (r : Reg) (f : Field) (b : Bool) : (c.setBit r f b).iommu = c.iommu := rfl
@[simp] theorem Chip.setBit_now (c : Chip) (r : Reg) (f : Field) (b : Bool) : (c.setBit r f b).now = c.now := rfl
@[simp] theorem Chip.setBit_refclkGoodAt (c : Chip) (r : Reg) (f : Field) (b : Bool) : (c.setBit r f b).refclkGoodAt = c.refclkGoodAt := rfl
@[simp] theorem Chip.setBit_harts (c : Chip) (r : Reg) (f : Field) (b : Bool) : (c.setBit r f b).harts = c.harts := rfl
@[simp] theorem Chip.setBit_dies (c : Chip) (r : Reg) (f : Field) (b : Bool) : (c.setBit r f b).dies = c.dies := rfl
@[simp] theorem Chip.setBit_l2 (c : Chip) (r : Reg) (f : Field) (b : Bool) : (c.setBit r f b).l2 = c.l2 := rfl
@[simp] theorem Chip.setBit_wb (c : Chip) (r : Reg) (f : Field) (b : Bool) : (c.setBit r f b).wb = c.wb := rfl
@[simp] theorem Chip.setBit_lnd (c : Chip) (r : Reg) (f : Field) (b : Bool) : (c.setBit r f b).lnd = c.lnd := rfl
@[simp] theorem Chip.setBit_miss (c : Chip) (r : Reg) (f : Field) (b : Bool) : (c.setBit r f b).miss = c.miss := rfl
@[simp] theorem Chip.setBit_snoopQ (c : Chip) (r : Reg) (f : Field) (b : Bool) : (c.setBit r f b).snoopQ = c.snoopQ := rfl
@[simp] theorem Chip.setBit_wchk (c : Chip) (r : Reg) (f : Field) (b : Bool) : (c.setBit r f b).wchk = c.wchk := rfl
@[simp] theorem Chip.setBit_dir (c : Chip) (r : Reg) (f : Field) (b : Bool) : (c.setBit r f b).dir = c.dir := rfl
@[simp] theorem Chip.setBit_dirWay (c : Chip) (r : Reg) (f : Field) (b : Bool) : (c.setBit r f b).dirWay = c.dirWay := rfl
@[simp] theorem Chip.setBit_lru (c : Chip) (r : Reg) (f : Field) (b : Bool) : (c.setBit r f b).lru = c.lru := rfl
@[simp] theorem Chip.setBit_txn (c : Chip) (r : Reg) (f : Field) (b : Bool) : (c.setBit r f b).txn = c.txn := rfl
@[simp] theorem Chip.setBit_homeQ (c : Chip) (r : Reg) (f : Field) (b : Bool) : (c.setBit r f b).homeQ = c.homeQ := rfl
@[simp] theorem Chip.setBit_hc (c : Chip) (r : Reg) (f : Field) (b : Bool) : (c.setBit r f b).hc = c.hc := rfl
@[simp] theorem Chip.setBit_ownc (c : Chip) (r : Reg) (f : Field) (b : Bool) : (c.setBit r f b).ownc = c.ownc := rfl
@[simp] theorem Chip.setBit_halls (c : Chip) (r : Reg) (f : Field) (b : Bool) : (c.setBit r f b).halls = c.halls := rfl
@[simp] theorem Chip.setBit_net (c : Chip) (r : Reg) (f : Field) (b : Bool) : (c.setBit r f b).net = c.net := rfl
@[simp] theorem Chip.setBit_dlv (c : Chip) (r : Reg) (f : Field) (b : Bool) : (c.setBit r f b).dlv = c.dlv := rfl
@[simp] theorem Chip.setBit_gal (c : Chip) (r : Reg) (f : Field) (b : Bool) : (c.setBit r f b).gal = c.gal := rfl
@[simp] theorem Chip.setBit_link (c : Chip) (r : Reg) (f : Field) (b : Bool) : (c.setBit r f b).link = c.link := rfl
@[simp] theorem Chip.setBit_tokens (c : Chip) (r : Reg) (f : Field) (b : Bool) : (c.setBit r f b).tokens = c.tokens := rfl
@[simp] theorem Chip.setBit_portRate (c : Chip) (r : Reg) (f : Field) (b : Bool) : (c.setBit r f b).portRate = c.portRate := rfl
@[simp] theorem Chip.setBit_injQ (c : Chip) (r : Reg) (f : Field) (b : Bool) : (c.setBit r f b).injQ = c.injQ := rfl
@[simp] theorem Chip.setBit_active (c : Chip) (r : Reg) (f : Field) (b : Bool) : (c.setBit r f b).active = c.active := rfl
@[simp] theorem Chip.setBit_qosMap (c : Chip) (r : Reg) (f : Field) (b : Bool) : (c.setBit r f b).qosMap = c.qosMap := rfl
@[simp] theorem Chip.setBit_qosCls (c : Chip) (r : Reg) (f : Field) (b : Bool) : (c.setBit r f b).qosCls = c.qosCls := rfl
@[simp] theorem Chip.setBit_qosCap (c : Chip) (r : Reg) (f : Field) (b : Bool) : (c.setBit r f b).qosCap = c.qosCap := rfl
@[simp] theorem Chip.setBit_banks (c : Chip) (r : Reg) (f : Field) (b : Bool) : (c.setBit r f b).banks = c.banks := rfl
@[simp] theorem Chip.setBit_fcHold (c : Chip) (r : Reg) (f : Field) (b : Bool) : (c.setBit r f b).fcHold = c.fcHold := rfl
@[simp] theorem Chip.setBit_fcLost (c : Chip) (r : Reg) (f : Field) (b : Bool) : (c.setBit r f b).fcLost = c.fcLost := rfl
@[simp] theorem Chip.setBit_cntNew (c : Chip) (r : Reg) (f : Field) (b : Bool) : (c.setBit r f b).cntNew = c.cntNew := rfl
@[simp] theorem Chip.setBit_toDrop (c : Chip) (r : Reg) (f : Field) (b : Bool) : (c.setBit r f b).toDrop = c.toDrop := rfl
@[simp] theorem Chip.setBit_safeQ (c : Chip) (r : Reg) (f : Field) (b : Bool) : (c.setBit r f b).safeQ = c.safeQ := rfl
@[simp] theorem Chip.setBit_msi (c : Chip) (r : Reg) (f : Field) (b : Bool) : (c.setBit r f b).msi = c.msi := rfl
@[simp] theorem Chip.setBit_msix (c : Chip) (r : Reg) (f : Field) (b : Bool) : (c.setBit r f b).msix = c.msix := rfl
@[simp] theorem Chip.setBit_down (c : Chip) (r : Reg) (f : Field) (b : Bool) : (c.setBit r f b).down = c.down := rfl
@[simp] theorem Chip.setBit_pwrReq (c : Chip) (r : Reg) (f : Field) (b : Bool) : (c.setBit r f b).pwrReq = c.pwrReq := rfl
@[simp] theorem Chip.setBit_pot (c : Chip) (r : Reg) (f : Field) (b : Bool) : (c.setBit r f b).pot = c.pot := rfl
@[simp] theorem Chip.setBit_mnt (c : Chip) (r : Reg) (f : Field) (b : Bool) : (c.setBit r f b).mnt = c.mnt := rfl
@[simp] theorem Chip.setBit_rail (c : Chip) (r : Reg) (f : Field) (b : Bool) : (c.setBit r f b).rail = c.rail := rfl
@[simp] theorem Chip.setBit_railBadAt (c : Chip) (r : Reg) (f : Field) (b : Bool) : (c.setBit r f b).railBadAt = c.railBadAt := rfl
@[simp] theorem Chip.setBit_pmbusMiss (c : Chip) (r : Reg) (f : Field) (b : Bool) : (c.setBit r f b).pmbusMiss = c.pmbusMiss := rfl
@[simp] theorem Chip.setBit_pmbus (c : Chip) (r : Reg) (f : Field) (b : Bool) : (c.setBit r f b).pmbus = c.pmbus := rfl
@[simp] theorem Chip.setBit_viodSet (c : Chip) (r : Reg) (f : Field) (b : Bool) : (c.setBit r f b).viodSet = c.viodSet := rfl
@[simp] theorem Chip.setBit_viodFloor (c : Chip) (r : Reg) (f : Field) (b : Bool) : (c.setBit r f b).viodFloor = c.viodFloor := rfl
@[simp] theorem Chip.setBit_iodDroops (c : Chip) (r : Reg) (f : Field) (b : Bool) : (c.setBit r f b).iodDroops = c.iodDroops := rfl
@[simp] theorem Chip.setBit_watts (c : Chip) (r : Reg) (f : Field) (b : Bool) : (c.setBit r f b).watts = c.watts := rfl
@[simp] theorem Chip.setBit_peakAt (c : Chip) (r : Reg) (f : Field) (b : Bool) : (c.setBit r f b).peakAt = c.peakAt := rfl
@[simp] theorem Chip.setBit_peakBar (c : Chip) (r : Reg) (f : Field) (b : Bool) : (c.setBit r f b).peakBar = c.peakBar := rfl
@[simp] theorem Chip.setBit_portSt (c : Chip) (r : Reg) (f : Field) (b : Bool) : (c.setBit r f b).portSt = c.portSt := rfl
@[simp] theorem Chip.setBit_fnSt (c : Chip) (r : Reg) (f : Field) (b : Bool) : (c.setBit r f b).fnSt = c.fnSt := rfl
@[simp] theorem Chip.setBit_winNow (c : Chip) (r : Reg) (f : Field) (b : Bool) : (c.setBit r f b).winNow = c.winNow := rfl
@[simp] theorem Chip.setBit_winEra (c : Chip) (r : Reg) (f : Field) (b : Bool) : (c.setBit r f b).winEra = c.winEra := rfl
@[simp] theorem Chip.setBit_insts (c : Chip) (r : Reg) (f : Field) (b : Bool) : (c.setBit r f b).insts = c.insts := rfl
@[simp] theorem Chip.setBit_engRR (c : Chip) (r : Reg) (f : Field) (b : Bool) : (c.setBit r f b).engRR = c.engRR := rfl
@[simp] theorem Chip.setBit_pair (c : Chip) (r : Reg) (f : Field) (b : Bool) : (c.setBit r f b).pair = c.pair := rfl
@[simp] theorem Chip.setBit_uz (c : Chip) (r : Reg) (f : Field) (b : Bool) : (c.setBit r f b).uz = c.uz := rfl
@[simp] theorem Chip.setBit_pins (c : Chip) (r : Reg) (f : Field) (b : Bool) : (c.setBit r f b).pins = c.pins := rfl
@[simp] theorem Chip.setBit_dmData (c : Chip) (r : Reg) (f : Field) (b : Bool) : (c.setBit r f b).dmData = c.dmData := rfl
@[simp] theorem Chip.setBit_dmErr (c : Chip) (r : Reg) (f : Field) (b : Bool) : (c.setBit r f b).dmErr = c.dmErr := rfl
@[simp] theorem Chip.setBit_dmProg (c : Chip) (r : Reg) (f : Field) (b : Bool) : (c.setBit r f b).dmProg = c.dmProg := rfl
@[simp] theorem Chip.setBit_free (c : Chip) (r : Reg) (f : Field) (b : Bool) : (c.setBit r f b).free = c.free := rfl

-- setHart changes harts alone

@[simp] theorem Chip.setHart_regs (c : Chip) (h : Nat) (x : Hart) : (c.setHart h x).regs = c.regs := rfl
@[simp] theorem Chip.setHart_iommu (c : Chip) (h : Nat) (x : Hart) : (c.setHart h x).iommu = c.iommu := rfl
@[simp] theorem Chip.setHart_now (c : Chip) (h : Nat) (x : Hart) : (c.setHart h x).now = c.now := rfl
@[simp] theorem Chip.setHart_refclkGoodAt (c : Chip) (h : Nat) (x : Hart) : (c.setHart h x).refclkGoodAt = c.refclkGoodAt := rfl
@[simp] theorem Chip.setHart_dies (c : Chip) (h : Nat) (x : Hart) : (c.setHart h x).dies = c.dies := rfl
@[simp] theorem Chip.setHart_l2 (c : Chip) (h : Nat) (x : Hart) : (c.setHart h x).l2 = c.l2 := rfl
@[simp] theorem Chip.setHart_wb (c : Chip) (h : Nat) (x : Hart) : (c.setHart h x).wb = c.wb := rfl
@[simp] theorem Chip.setHart_lnd (c : Chip) (h : Nat) (x : Hart) : (c.setHart h x).lnd = c.lnd := rfl
@[simp] theorem Chip.setHart_miss (c : Chip) (h : Nat) (x : Hart) : (c.setHart h x).miss = c.miss := rfl
@[simp] theorem Chip.setHart_snoopQ (c : Chip) (h : Nat) (x : Hart) : (c.setHart h x).snoopQ = c.snoopQ := rfl
@[simp] theorem Chip.setHart_wchk (c : Chip) (h : Nat) (x : Hart) : (c.setHart h x).wchk = c.wchk := rfl
@[simp] theorem Chip.setHart_dir (c : Chip) (h : Nat) (x : Hart) : (c.setHart h x).dir = c.dir := rfl
@[simp] theorem Chip.setHart_dirWay (c : Chip) (h : Nat) (x : Hart) : (c.setHart h x).dirWay = c.dirWay := rfl
@[simp] theorem Chip.setHart_lru (c : Chip) (h : Nat) (x : Hart) : (c.setHart h x).lru = c.lru := rfl
@[simp] theorem Chip.setHart_txn (c : Chip) (h : Nat) (x : Hart) : (c.setHart h x).txn = c.txn := rfl
@[simp] theorem Chip.setHart_homeQ (c : Chip) (h : Nat) (x : Hart) : (c.setHart h x).homeQ = c.homeQ := rfl
@[simp] theorem Chip.setHart_hc (c : Chip) (h : Nat) (x : Hart) : (c.setHart h x).hc = c.hc := rfl
@[simp] theorem Chip.setHart_ownc (c : Chip) (h : Nat) (x : Hart) : (c.setHart h x).ownc = c.ownc := rfl
@[simp] theorem Chip.setHart_halls (c : Chip) (h : Nat) (x : Hart) : (c.setHart h x).halls = c.halls := rfl
@[simp] theorem Chip.setHart_net (c : Chip) (h : Nat) (x : Hart) : (c.setHart h x).net = c.net := rfl
@[simp] theorem Chip.setHart_dlv (c : Chip) (h : Nat) (x : Hart) : (c.setHart h x).dlv = c.dlv := rfl
@[simp] theorem Chip.setHart_gal (c : Chip) (h : Nat) (x : Hart) : (c.setHart h x).gal = c.gal := rfl
@[simp] theorem Chip.setHart_link (c : Chip) (h : Nat) (x : Hart) : (c.setHart h x).link = c.link := rfl
@[simp] theorem Chip.setHart_tokens (c : Chip) (h : Nat) (x : Hart) : (c.setHart h x).tokens = c.tokens := rfl
@[simp] theorem Chip.setHart_portRate (c : Chip) (h : Nat) (x : Hart) : (c.setHart h x).portRate = c.portRate := rfl
@[simp] theorem Chip.setHart_injQ (c : Chip) (h : Nat) (x : Hart) : (c.setHart h x).injQ = c.injQ := rfl
@[simp] theorem Chip.setHart_active (c : Chip) (h : Nat) (x : Hart) : (c.setHart h x).active = c.active := rfl
@[simp] theorem Chip.setHart_qosMap (c : Chip) (h : Nat) (x : Hart) : (c.setHart h x).qosMap = c.qosMap := rfl
@[simp] theorem Chip.setHart_qosCls (c : Chip) (h : Nat) (x : Hart) : (c.setHart h x).qosCls = c.qosCls := rfl
@[simp] theorem Chip.setHart_qosCap (c : Chip) (h : Nat) (x : Hart) : (c.setHart h x).qosCap = c.qosCap := rfl
@[simp] theorem Chip.setHart_banks (c : Chip) (h : Nat) (x : Hart) : (c.setHart h x).banks = c.banks := rfl
@[simp] theorem Chip.setHart_fcHold (c : Chip) (h : Nat) (x : Hart) : (c.setHart h x).fcHold = c.fcHold := rfl
@[simp] theorem Chip.setHart_fcLost (c : Chip) (h : Nat) (x : Hart) : (c.setHart h x).fcLost = c.fcLost := rfl
@[simp] theorem Chip.setHart_cntNew (c : Chip) (h : Nat) (x : Hart) : (c.setHart h x).cntNew = c.cntNew := rfl
@[simp] theorem Chip.setHart_toDrop (c : Chip) (h : Nat) (x : Hart) : (c.setHart h x).toDrop = c.toDrop := rfl
@[simp] theorem Chip.setHart_safeQ (c : Chip) (h : Nat) (x : Hart) : (c.setHart h x).safeQ = c.safeQ := rfl
@[simp] theorem Chip.setHart_msi (c : Chip) (h : Nat) (x : Hart) : (c.setHart h x).msi = c.msi := rfl
@[simp] theorem Chip.setHart_msix (c : Chip) (h : Nat) (x : Hart) : (c.setHart h x).msix = c.msix := rfl
@[simp] theorem Chip.setHart_down (c : Chip) (h : Nat) (x : Hart) : (c.setHart h x).down = c.down := rfl
@[simp] theorem Chip.setHart_pwrReq (c : Chip) (h : Nat) (x : Hart) : (c.setHart h x).pwrReq = c.pwrReq := rfl
@[simp] theorem Chip.setHart_pot (c : Chip) (h : Nat) (x : Hart) : (c.setHart h x).pot = c.pot := rfl
@[simp] theorem Chip.setHart_mnt (c : Chip) (h : Nat) (x : Hart) : (c.setHart h x).mnt = c.mnt := rfl
@[simp] theorem Chip.setHart_rail (c : Chip) (h : Nat) (x : Hart) : (c.setHart h x).rail = c.rail := rfl
@[simp] theorem Chip.setHart_railBadAt (c : Chip) (h : Nat) (x : Hart) : (c.setHart h x).railBadAt = c.railBadAt := rfl
@[simp] theorem Chip.setHart_pmbusMiss (c : Chip) (h : Nat) (x : Hart) : (c.setHart h x).pmbusMiss = c.pmbusMiss := rfl
@[simp] theorem Chip.setHart_pmbus (c : Chip) (h : Nat) (x : Hart) : (c.setHart h x).pmbus = c.pmbus := rfl
@[simp] theorem Chip.setHart_viodSet (c : Chip) (h : Nat) (x : Hart) : (c.setHart h x).viodSet = c.viodSet := rfl
@[simp] theorem Chip.setHart_viodFloor (c : Chip) (h : Nat) (x : Hart) : (c.setHart h x).viodFloor = c.viodFloor := rfl
@[simp] theorem Chip.setHart_iodDroops (c : Chip) (h : Nat) (x : Hart) : (c.setHart h x).iodDroops = c.iodDroops := rfl
@[simp] theorem Chip.setHart_watts (c : Chip) (h : Nat) (x : Hart) : (c.setHart h x).watts = c.watts := rfl
@[simp] theorem Chip.setHart_peakAt (c : Chip) (h : Nat) (x : Hart) : (c.setHart h x).peakAt = c.peakAt := rfl
@[simp] theorem Chip.setHart_peakBar (c : Chip) (h : Nat) (x : Hart) : (c.setHart h x).peakBar = c.peakBar := rfl
@[simp] theorem Chip.setHart_portSt (c : Chip) (h : Nat) (x : Hart) : (c.setHart h x).portSt = c.portSt := rfl
@[simp] theorem Chip.setHart_fnSt (c : Chip) (h : Nat) (x : Hart) : (c.setHart h x).fnSt = c.fnSt := rfl
@[simp] theorem Chip.setHart_winNow (c : Chip) (h : Nat) (x : Hart) : (c.setHart h x).winNow = c.winNow := rfl
@[simp] theorem Chip.setHart_winEra (c : Chip) (h : Nat) (x : Hart) : (c.setHart h x).winEra = c.winEra := rfl
@[simp] theorem Chip.setHart_insts (c : Chip) (h : Nat) (x : Hart) : (c.setHart h x).insts = c.insts := rfl
@[simp] theorem Chip.setHart_engRR (c : Chip) (h : Nat) (x : Hart) : (c.setHart h x).engRR = c.engRR := rfl
@[simp] theorem Chip.setHart_pair (c : Chip) (h : Nat) (x : Hart) : (c.setHart h x).pair = c.pair := rfl
@[simp] theorem Chip.setHart_uz (c : Chip) (h : Nat) (x : Hart) : (c.setHart h x).uz = c.uz := rfl
@[simp] theorem Chip.setHart_pins (c : Chip) (h : Nat) (x : Hart) : (c.setHart h x).pins = c.pins := rfl
@[simp] theorem Chip.setHart_dmData (c : Chip) (h : Nat) (x : Hart) : (c.setHart h x).dmData = c.dmData := rfl
@[simp] theorem Chip.setHart_dmErr (c : Chip) (h : Nat) (x : Hart) : (c.setHart h x).dmErr = c.dmErr := rfl
@[simp] theorem Chip.setHart_dmProg (c : Chip) (h : Nat) (x : Hart) : (c.setHart h x).dmProg = c.dmProg := rfl
@[simp] theorem Chip.setHart_free (c : Chip) (h : Nat) (x : Hart) : (c.setHart h x).free = c.free := rfl

-- onHart changes harts alone

@[simp] theorem Chip.onHart_regs (c : Chip) (h : Nat) (f : Hart → Hart) : (c.onHart h f).regs = c.regs := rfl
@[simp] theorem Chip.onHart_iommu (c : Chip) (h : Nat) (f : Hart → Hart) : (c.onHart h f).iommu = c.iommu := rfl
@[simp] theorem Chip.onHart_now (c : Chip) (h : Nat) (f : Hart → Hart) : (c.onHart h f).now = c.now := rfl
@[simp] theorem Chip.onHart_refclkGoodAt (c : Chip) (h : Nat) (f : Hart → Hart) : (c.onHart h f).refclkGoodAt = c.refclkGoodAt := rfl
@[simp] theorem Chip.onHart_dies (c : Chip) (h : Nat) (f : Hart → Hart) : (c.onHart h f).dies = c.dies := rfl
@[simp] theorem Chip.onHart_l2 (c : Chip) (h : Nat) (f : Hart → Hart) : (c.onHart h f).l2 = c.l2 := rfl
@[simp] theorem Chip.onHart_wb (c : Chip) (h : Nat) (f : Hart → Hart) : (c.onHart h f).wb = c.wb := rfl
@[simp] theorem Chip.onHart_lnd (c : Chip) (h : Nat) (f : Hart → Hart) : (c.onHart h f).lnd = c.lnd := rfl
@[simp] theorem Chip.onHart_miss (c : Chip) (h : Nat) (f : Hart → Hart) : (c.onHart h f).miss = c.miss := rfl
@[simp] theorem Chip.onHart_snoopQ (c : Chip) (h : Nat) (f : Hart → Hart) : (c.onHart h f).snoopQ = c.snoopQ := rfl
@[simp] theorem Chip.onHart_wchk (c : Chip) (h : Nat) (f : Hart → Hart) : (c.onHart h f).wchk = c.wchk := rfl
@[simp] theorem Chip.onHart_dir (c : Chip) (h : Nat) (f : Hart → Hart) : (c.onHart h f).dir = c.dir := rfl
@[simp] theorem Chip.onHart_dirWay (c : Chip) (h : Nat) (f : Hart → Hart) : (c.onHart h f).dirWay = c.dirWay := rfl
@[simp] theorem Chip.onHart_lru (c : Chip) (h : Nat) (f : Hart → Hart) : (c.onHart h f).lru = c.lru := rfl
@[simp] theorem Chip.onHart_txn (c : Chip) (h : Nat) (f : Hart → Hart) : (c.onHart h f).txn = c.txn := rfl
@[simp] theorem Chip.onHart_homeQ (c : Chip) (h : Nat) (f : Hart → Hart) : (c.onHart h f).homeQ = c.homeQ := rfl
@[simp] theorem Chip.onHart_hc (c : Chip) (h : Nat) (f : Hart → Hart) : (c.onHart h f).hc = c.hc := rfl
@[simp] theorem Chip.onHart_ownc (c : Chip) (h : Nat) (f : Hart → Hart) : (c.onHart h f).ownc = c.ownc := rfl
@[simp] theorem Chip.onHart_halls (c : Chip) (h : Nat) (f : Hart → Hart) : (c.onHart h f).halls = c.halls := rfl
@[simp] theorem Chip.onHart_net (c : Chip) (h : Nat) (f : Hart → Hart) : (c.onHart h f).net = c.net := rfl
@[simp] theorem Chip.onHart_dlv (c : Chip) (h : Nat) (f : Hart → Hart) : (c.onHart h f).dlv = c.dlv := rfl
@[simp] theorem Chip.onHart_gal (c : Chip) (h : Nat) (f : Hart → Hart) : (c.onHart h f).gal = c.gal := rfl
@[simp] theorem Chip.onHart_link (c : Chip) (h : Nat) (f : Hart → Hart) : (c.onHart h f).link = c.link := rfl
@[simp] theorem Chip.onHart_tokens (c : Chip) (h : Nat) (f : Hart → Hart) : (c.onHart h f).tokens = c.tokens := rfl
@[simp] theorem Chip.onHart_portRate (c : Chip) (h : Nat) (f : Hart → Hart) : (c.onHart h f).portRate = c.portRate := rfl
@[simp] theorem Chip.onHart_injQ (c : Chip) (h : Nat) (f : Hart → Hart) : (c.onHart h f).injQ = c.injQ := rfl
@[simp] theorem Chip.onHart_active (c : Chip) (h : Nat) (f : Hart → Hart) : (c.onHart h f).active = c.active := rfl
@[simp] theorem Chip.onHart_qosMap (c : Chip) (h : Nat) (f : Hart → Hart) : (c.onHart h f).qosMap = c.qosMap := rfl
@[simp] theorem Chip.onHart_qosCls (c : Chip) (h : Nat) (f : Hart → Hart) : (c.onHart h f).qosCls = c.qosCls := rfl
@[simp] theorem Chip.onHart_qosCap (c : Chip) (h : Nat) (f : Hart → Hart) : (c.onHart h f).qosCap = c.qosCap := rfl
@[simp] theorem Chip.onHart_banks (c : Chip) (h : Nat) (f : Hart → Hart) : (c.onHart h f).banks = c.banks := rfl
@[simp] theorem Chip.onHart_fcHold (c : Chip) (h : Nat) (f : Hart → Hart) : (c.onHart h f).fcHold = c.fcHold := rfl
@[simp] theorem Chip.onHart_fcLost (c : Chip) (h : Nat) (f : Hart → Hart) : (c.onHart h f).fcLost = c.fcLost := rfl
@[simp] theorem Chip.onHart_cntNew (c : Chip) (h : Nat) (f : Hart → Hart) : (c.onHart h f).cntNew = c.cntNew := rfl
@[simp] theorem Chip.onHart_toDrop (c : Chip) (h : Nat) (f : Hart → Hart) : (c.onHart h f).toDrop = c.toDrop := rfl
@[simp] theorem Chip.onHart_safeQ (c : Chip) (h : Nat) (f : Hart → Hart) : (c.onHart h f).safeQ = c.safeQ := rfl
@[simp] theorem Chip.onHart_msi (c : Chip) (h : Nat) (f : Hart → Hart) : (c.onHart h f).msi = c.msi := rfl
@[simp] theorem Chip.onHart_msix (c : Chip) (h : Nat) (f : Hart → Hart) : (c.onHart h f).msix = c.msix := rfl
@[simp] theorem Chip.onHart_down (c : Chip) (h : Nat) (f : Hart → Hart) : (c.onHart h f).down = c.down := rfl
@[simp] theorem Chip.onHart_pwrReq (c : Chip) (h : Nat) (f : Hart → Hart) : (c.onHart h f).pwrReq = c.pwrReq := rfl
@[simp] theorem Chip.onHart_pot (c : Chip) (h : Nat) (f : Hart → Hart) : (c.onHart h f).pot = c.pot := rfl
@[simp] theorem Chip.onHart_mnt (c : Chip) (h : Nat) (f : Hart → Hart) : (c.onHart h f).mnt = c.mnt := rfl
@[simp] theorem Chip.onHart_rail (c : Chip) (h : Nat) (f : Hart → Hart) : (c.onHart h f).rail = c.rail := rfl
@[simp] theorem Chip.onHart_railBadAt (c : Chip) (h : Nat) (f : Hart → Hart) : (c.onHart h f).railBadAt = c.railBadAt := rfl
@[simp] theorem Chip.onHart_pmbusMiss (c : Chip) (h : Nat) (f : Hart → Hart) : (c.onHart h f).pmbusMiss = c.pmbusMiss := rfl
@[simp] theorem Chip.onHart_pmbus (c : Chip) (h : Nat) (f : Hart → Hart) : (c.onHart h f).pmbus = c.pmbus := rfl
@[simp] theorem Chip.onHart_viodSet (c : Chip) (h : Nat) (f : Hart → Hart) : (c.onHart h f).viodSet = c.viodSet := rfl
@[simp] theorem Chip.onHart_viodFloor (c : Chip) (h : Nat) (f : Hart → Hart) : (c.onHart h f).viodFloor = c.viodFloor := rfl
@[simp] theorem Chip.onHart_iodDroops (c : Chip) (h : Nat) (f : Hart → Hart) : (c.onHart h f).iodDroops = c.iodDroops := rfl
@[simp] theorem Chip.onHart_watts (c : Chip) (h : Nat) (f : Hart → Hart) : (c.onHart h f).watts = c.watts := rfl
@[simp] theorem Chip.onHart_peakAt (c : Chip) (h : Nat) (f : Hart → Hart) : (c.onHart h f).peakAt = c.peakAt := rfl
@[simp] theorem Chip.onHart_peakBar (c : Chip) (h : Nat) (f : Hart → Hart) : (c.onHart h f).peakBar = c.peakBar := rfl
@[simp] theorem Chip.onHart_portSt (c : Chip) (h : Nat) (f : Hart → Hart) : (c.onHart h f).portSt = c.portSt := rfl
@[simp] theorem Chip.onHart_fnSt (c : Chip) (h : Nat) (f : Hart → Hart) : (c.onHart h f).fnSt = c.fnSt := rfl
@[simp] theorem Chip.onHart_winNow (c : Chip) (h : Nat) (f : Hart → Hart) : (c.onHart h f).winNow = c.winNow := rfl
@[simp] theorem Chip.onHart_winEra (c : Chip) (h : Nat) (f : Hart → Hart) : (c.onHart h f).winEra = c.winEra := rfl
@[simp] theorem Chip.onHart_insts (c : Chip) (h : Nat) (f : Hart → Hart) : (c.onHart h f).insts = c.insts := rfl
@[simp] theorem Chip.onHart_engRR (c : Chip) (h : Nat) (f : Hart → Hart) : (c.onHart h f).engRR = c.engRR := rfl
@[simp] theorem Chip.onHart_pair (c : Chip) (h : Nat) (f : Hart → Hart) : (c.onHart h f).pair = c.pair := rfl
@[simp] theorem Chip.onHart_uz (c : Chip) (h : Nat) (f : Hart → Hart) : (c.onHart h f).uz = c.uz := rfl
@[simp] theorem Chip.onHart_pins (c : Chip) (h : Nat) (f : Hart → Hart) : (c.onHart h f).pins = c.pins := rfl
@[simp] theorem Chip.onHart_dmData (c : Chip) (h : Nat) (f : Hart → Hart) : (c.onHart h f).dmData = c.dmData := rfl
@[simp] theorem Chip.onHart_dmErr (c : Chip) (h : Nat) (f : Hart → Hart) : (c.onHart h f).dmErr = c.dmErr := rfl
@[simp] theorem Chip.onHart_dmProg (c : Chip) (h : Nat) (f : Hart → Hart) : (c.onHart h f).dmProg = c.dmProg := rfl
@[simp] theorem Chip.onHart_free (c : Chip) (h : Nat) (f : Hart → Hart) : (c.onHart h f).free = c.free := rfl

-- onDie changes dies alone

@[simp] theorem Chip.onDie_regs (c : Chip) (d : Nat) (f : DieSt → DieSt) : (c.onDie d f).regs = c.regs := rfl
@[simp] theorem Chip.onDie_iommu (c : Chip) (d : Nat) (f : DieSt → DieSt) : (c.onDie d f).iommu = c.iommu := rfl
@[simp] theorem Chip.onDie_now (c : Chip) (d : Nat) (f : DieSt → DieSt) : (c.onDie d f).now = c.now := rfl
@[simp] theorem Chip.onDie_refclkGoodAt (c : Chip) (d : Nat) (f : DieSt → DieSt) : (c.onDie d f).refclkGoodAt = c.refclkGoodAt := rfl
@[simp] theorem Chip.onDie_harts (c : Chip) (d : Nat) (f : DieSt → DieSt) : (c.onDie d f).harts = c.harts := rfl
@[simp] theorem Chip.onDie_l2 (c : Chip) (d : Nat) (f : DieSt → DieSt) : (c.onDie d f).l2 = c.l2 := rfl
@[simp] theorem Chip.onDie_wb (c : Chip) (d : Nat) (f : DieSt → DieSt) : (c.onDie d f).wb = c.wb := rfl
@[simp] theorem Chip.onDie_lnd (c : Chip) (d : Nat) (f : DieSt → DieSt) : (c.onDie d f).lnd = c.lnd := rfl
@[simp] theorem Chip.onDie_miss (c : Chip) (d : Nat) (f : DieSt → DieSt) : (c.onDie d f).miss = c.miss := rfl
@[simp] theorem Chip.onDie_snoopQ (c : Chip) (d : Nat) (f : DieSt → DieSt) : (c.onDie d f).snoopQ = c.snoopQ := rfl
@[simp] theorem Chip.onDie_wchk (c : Chip) (d : Nat) (f : DieSt → DieSt) : (c.onDie d f).wchk = c.wchk := rfl
@[simp] theorem Chip.onDie_dir (c : Chip) (d : Nat) (f : DieSt → DieSt) : (c.onDie d f).dir = c.dir := rfl
@[simp] theorem Chip.onDie_dirWay (c : Chip) (d : Nat) (f : DieSt → DieSt) : (c.onDie d f).dirWay = c.dirWay := rfl
@[simp] theorem Chip.onDie_lru (c : Chip) (d : Nat) (f : DieSt → DieSt) : (c.onDie d f).lru = c.lru := rfl
@[simp] theorem Chip.onDie_txn (c : Chip) (d : Nat) (f : DieSt → DieSt) : (c.onDie d f).txn = c.txn := rfl
@[simp] theorem Chip.onDie_homeQ (c : Chip) (d : Nat) (f : DieSt → DieSt) : (c.onDie d f).homeQ = c.homeQ := rfl
@[simp] theorem Chip.onDie_hc (c : Chip) (d : Nat) (f : DieSt → DieSt) : (c.onDie d f).hc = c.hc := rfl
@[simp] theorem Chip.onDie_ownc (c : Chip) (d : Nat) (f : DieSt → DieSt) : (c.onDie d f).ownc = c.ownc := rfl
@[simp] theorem Chip.onDie_halls (c : Chip) (d : Nat) (f : DieSt → DieSt) : (c.onDie d f).halls = c.halls := rfl
@[simp] theorem Chip.onDie_net (c : Chip) (d : Nat) (f : DieSt → DieSt) : (c.onDie d f).net = c.net := rfl
@[simp] theorem Chip.onDie_dlv (c : Chip) (d : Nat) (f : DieSt → DieSt) : (c.onDie d f).dlv = c.dlv := rfl
@[simp] theorem Chip.onDie_gal (c : Chip) (d : Nat) (f : DieSt → DieSt) : (c.onDie d f).gal = c.gal := rfl
@[simp] theorem Chip.onDie_link (c : Chip) (d : Nat) (f : DieSt → DieSt) : (c.onDie d f).link = c.link := rfl
@[simp] theorem Chip.onDie_tokens (c : Chip) (d : Nat) (f : DieSt → DieSt) : (c.onDie d f).tokens = c.tokens := rfl
@[simp] theorem Chip.onDie_portRate (c : Chip) (d : Nat) (f : DieSt → DieSt) : (c.onDie d f).portRate = c.portRate := rfl
@[simp] theorem Chip.onDie_injQ (c : Chip) (d : Nat) (f : DieSt → DieSt) : (c.onDie d f).injQ = c.injQ := rfl
@[simp] theorem Chip.onDie_active (c : Chip) (d : Nat) (f : DieSt → DieSt) : (c.onDie d f).active = c.active := rfl
@[simp] theorem Chip.onDie_qosMap (c : Chip) (d : Nat) (f : DieSt → DieSt) : (c.onDie d f).qosMap = c.qosMap := rfl
@[simp] theorem Chip.onDie_qosCls (c : Chip) (d : Nat) (f : DieSt → DieSt) : (c.onDie d f).qosCls = c.qosCls := rfl
@[simp] theorem Chip.onDie_qosCap (c : Chip) (d : Nat) (f : DieSt → DieSt) : (c.onDie d f).qosCap = c.qosCap := rfl
@[simp] theorem Chip.onDie_banks (c : Chip) (d : Nat) (f : DieSt → DieSt) : (c.onDie d f).banks = c.banks := rfl
@[simp] theorem Chip.onDie_fcHold (c : Chip) (d : Nat) (f : DieSt → DieSt) : (c.onDie d f).fcHold = c.fcHold := rfl
@[simp] theorem Chip.onDie_fcLost (c : Chip) (d : Nat) (f : DieSt → DieSt) : (c.onDie d f).fcLost = c.fcLost := rfl
@[simp] theorem Chip.onDie_cntNew (c : Chip) (d : Nat) (f : DieSt → DieSt) : (c.onDie d f).cntNew = c.cntNew := rfl
@[simp] theorem Chip.onDie_toDrop (c : Chip) (d : Nat) (f : DieSt → DieSt) : (c.onDie d f).toDrop = c.toDrop := rfl
@[simp] theorem Chip.onDie_safeQ (c : Chip) (d : Nat) (f : DieSt → DieSt) : (c.onDie d f).safeQ = c.safeQ := rfl
@[simp] theorem Chip.onDie_msi (c : Chip) (d : Nat) (f : DieSt → DieSt) : (c.onDie d f).msi = c.msi := rfl
@[simp] theorem Chip.onDie_msix (c : Chip) (d : Nat) (f : DieSt → DieSt) : (c.onDie d f).msix = c.msix := rfl
@[simp] theorem Chip.onDie_down (c : Chip) (d : Nat) (f : DieSt → DieSt) : (c.onDie d f).down = c.down := rfl
@[simp] theorem Chip.onDie_pwrReq (c : Chip) (d : Nat) (f : DieSt → DieSt) : (c.onDie d f).pwrReq = c.pwrReq := rfl
@[simp] theorem Chip.onDie_pot (c : Chip) (d : Nat) (f : DieSt → DieSt) : (c.onDie d f).pot = c.pot := rfl
@[simp] theorem Chip.onDie_mnt (c : Chip) (d : Nat) (f : DieSt → DieSt) : (c.onDie d f).mnt = c.mnt := rfl
@[simp] theorem Chip.onDie_rail (c : Chip) (d : Nat) (f : DieSt → DieSt) : (c.onDie d f).rail = c.rail := rfl
@[simp] theorem Chip.onDie_railBadAt (c : Chip) (d : Nat) (f : DieSt → DieSt) : (c.onDie d f).railBadAt = c.railBadAt := rfl
@[simp] theorem Chip.onDie_pmbusMiss (c : Chip) (d : Nat) (f : DieSt → DieSt) : (c.onDie d f).pmbusMiss = c.pmbusMiss := rfl
@[simp] theorem Chip.onDie_pmbus (c : Chip) (d : Nat) (f : DieSt → DieSt) : (c.onDie d f).pmbus = c.pmbus := rfl
@[simp] theorem Chip.onDie_viodSet (c : Chip) (d : Nat) (f : DieSt → DieSt) : (c.onDie d f).viodSet = c.viodSet := rfl
@[simp] theorem Chip.onDie_viodFloor (c : Chip) (d : Nat) (f : DieSt → DieSt) : (c.onDie d f).viodFloor = c.viodFloor := rfl
@[simp] theorem Chip.onDie_iodDroops (c : Chip) (d : Nat) (f : DieSt → DieSt) : (c.onDie d f).iodDroops = c.iodDroops := rfl
@[simp] theorem Chip.onDie_watts (c : Chip) (d : Nat) (f : DieSt → DieSt) : (c.onDie d f).watts = c.watts := rfl
@[simp] theorem Chip.onDie_peakAt (c : Chip) (d : Nat) (f : DieSt → DieSt) : (c.onDie d f).peakAt = c.peakAt := rfl
@[simp] theorem Chip.onDie_peakBar (c : Chip) (d : Nat) (f : DieSt → DieSt) : (c.onDie d f).peakBar = c.peakBar := rfl
@[simp] theorem Chip.onDie_portSt (c : Chip) (d : Nat) (f : DieSt → DieSt) : (c.onDie d f).portSt = c.portSt := rfl
@[simp] theorem Chip.onDie_fnSt (c : Chip) (d : Nat) (f : DieSt → DieSt) : (c.onDie d f).fnSt = c.fnSt := rfl
@[simp] theorem Chip.onDie_winNow (c : Chip) (d : Nat) (f : DieSt → DieSt) : (c.onDie d f).winNow = c.winNow := rfl
@[simp] theorem Chip.onDie_winEra (c : Chip) (d : Nat) (f : DieSt → DieSt) : (c.onDie d f).winEra = c.winEra := rfl
@[simp] theorem Chip.onDie_insts (c : Chip) (d : Nat) (f : DieSt → DieSt) : (c.onDie d f).insts = c.insts := rfl
@[simp] theorem Chip.onDie_engRR (c : Chip) (d : Nat) (f : DieSt → DieSt) : (c.onDie d f).engRR = c.engRR := rfl
@[simp] theorem Chip.onDie_pair (c : Chip) (d : Nat) (f : DieSt → DieSt) : (c.onDie d f).pair = c.pair := rfl
@[simp] theorem Chip.onDie_uz (c : Chip) (d : Nat) (f : DieSt → DieSt) : (c.onDie d f).uz = c.uz := rfl
@[simp] theorem Chip.onDie_pins (c : Chip) (d : Nat) (f : DieSt → DieSt) : (c.onDie d f).pins = c.pins := rfl
@[simp] theorem Chip.onDie_dmData (c : Chip) (d : Nat) (f : DieSt → DieSt) : (c.onDie d f).dmData = c.dmData := rfl
@[simp] theorem Chip.onDie_dmErr (c : Chip) (d : Nat) (f : DieSt → DieSt) : (c.onDie d f).dmErr = c.dmErr := rfl
@[simp] theorem Chip.onDie_dmProg (c : Chip) (d : Nat) (f : DieSt → DieSt) : (c.onDie d f).dmProg = c.dmProg := rfl
@[simp] theorem Chip.onDie_free (c : Chip) (d : Nat) (f : DieSt → DieSt) : (c.onDie d f).free = c.free := rfl

-- nextFree changes free alone

@[simp] theorem Chip.nextFree_regs (c : Chip) : (c.nextFree).regs = c.regs := rfl
@[simp] theorem Chip.nextFree_iommu (c : Chip) : (c.nextFree).iommu = c.iommu := rfl
@[simp] theorem Chip.nextFree_now (c : Chip) : (c.nextFree).now = c.now := rfl
@[simp] theorem Chip.nextFree_refclkGoodAt (c : Chip) : (c.nextFree).refclkGoodAt = c.refclkGoodAt := rfl
@[simp] theorem Chip.nextFree_harts (c : Chip) : (c.nextFree).harts = c.harts := rfl
@[simp] theorem Chip.nextFree_dies (c : Chip) : (c.nextFree).dies = c.dies := rfl
@[simp] theorem Chip.nextFree_l2 (c : Chip) : (c.nextFree).l2 = c.l2 := rfl
@[simp] theorem Chip.nextFree_wb (c : Chip) : (c.nextFree).wb = c.wb := rfl
@[simp] theorem Chip.nextFree_lnd (c : Chip) : (c.nextFree).lnd = c.lnd := rfl
@[simp] theorem Chip.nextFree_miss (c : Chip) : (c.nextFree).miss = c.miss := rfl
@[simp] theorem Chip.nextFree_snoopQ (c : Chip) : (c.nextFree).snoopQ = c.snoopQ := rfl
@[simp] theorem Chip.nextFree_wchk (c : Chip) : (c.nextFree).wchk = c.wchk := rfl
@[simp] theorem Chip.nextFree_dir (c : Chip) : (c.nextFree).dir = c.dir := rfl
@[simp] theorem Chip.nextFree_dirWay (c : Chip) : (c.nextFree).dirWay = c.dirWay := rfl
@[simp] theorem Chip.nextFree_lru (c : Chip) : (c.nextFree).lru = c.lru := rfl
@[simp] theorem Chip.nextFree_txn (c : Chip) : (c.nextFree).txn = c.txn := rfl
@[simp] theorem Chip.nextFree_homeQ (c : Chip) : (c.nextFree).homeQ = c.homeQ := rfl
@[simp] theorem Chip.nextFree_hc (c : Chip) : (c.nextFree).hc = c.hc := rfl
@[simp] theorem Chip.nextFree_ownc (c : Chip) : (c.nextFree).ownc = c.ownc := rfl
@[simp] theorem Chip.nextFree_halls (c : Chip) : (c.nextFree).halls = c.halls := rfl
@[simp] theorem Chip.nextFree_net (c : Chip) : (c.nextFree).net = c.net := rfl
@[simp] theorem Chip.nextFree_dlv (c : Chip) : (c.nextFree).dlv = c.dlv := rfl
@[simp] theorem Chip.nextFree_gal (c : Chip) : (c.nextFree).gal = c.gal := rfl
@[simp] theorem Chip.nextFree_link (c : Chip) : (c.nextFree).link = c.link := rfl
@[simp] theorem Chip.nextFree_tokens (c : Chip) : (c.nextFree).tokens = c.tokens := rfl
@[simp] theorem Chip.nextFree_portRate (c : Chip) : (c.nextFree).portRate = c.portRate := rfl
@[simp] theorem Chip.nextFree_injQ (c : Chip) : (c.nextFree).injQ = c.injQ := rfl
@[simp] theorem Chip.nextFree_active (c : Chip) : (c.nextFree).active = c.active := rfl
@[simp] theorem Chip.nextFree_qosMap (c : Chip) : (c.nextFree).qosMap = c.qosMap := rfl
@[simp] theorem Chip.nextFree_qosCls (c : Chip) : (c.nextFree).qosCls = c.qosCls := rfl
@[simp] theorem Chip.nextFree_qosCap (c : Chip) : (c.nextFree).qosCap = c.qosCap := rfl
@[simp] theorem Chip.nextFree_banks (c : Chip) : (c.nextFree).banks = c.banks := rfl
@[simp] theorem Chip.nextFree_fcHold (c : Chip) : (c.nextFree).fcHold = c.fcHold := rfl
@[simp] theorem Chip.nextFree_fcLost (c : Chip) : (c.nextFree).fcLost = c.fcLost := rfl
@[simp] theorem Chip.nextFree_cntNew (c : Chip) : (c.nextFree).cntNew = c.cntNew := rfl
@[simp] theorem Chip.nextFree_toDrop (c : Chip) : (c.nextFree).toDrop = c.toDrop := rfl
@[simp] theorem Chip.nextFree_safeQ (c : Chip) : (c.nextFree).safeQ = c.safeQ := rfl
@[simp] theorem Chip.nextFree_msi (c : Chip) : (c.nextFree).msi = c.msi := rfl
@[simp] theorem Chip.nextFree_msix (c : Chip) : (c.nextFree).msix = c.msix := rfl
@[simp] theorem Chip.nextFree_down (c : Chip) : (c.nextFree).down = c.down := rfl
@[simp] theorem Chip.nextFree_pwrReq (c : Chip) : (c.nextFree).pwrReq = c.pwrReq := rfl
@[simp] theorem Chip.nextFree_pot (c : Chip) : (c.nextFree).pot = c.pot := rfl
@[simp] theorem Chip.nextFree_mnt (c : Chip) : (c.nextFree).mnt = c.mnt := rfl
@[simp] theorem Chip.nextFree_rail (c : Chip) : (c.nextFree).rail = c.rail := rfl
@[simp] theorem Chip.nextFree_railBadAt (c : Chip) : (c.nextFree).railBadAt = c.railBadAt := rfl
@[simp] theorem Chip.nextFree_pmbusMiss (c : Chip) : (c.nextFree).pmbusMiss = c.pmbusMiss := rfl
@[simp] theorem Chip.nextFree_pmbus (c : Chip) : (c.nextFree).pmbus = c.pmbus := rfl
@[simp] theorem Chip.nextFree_viodSet (c : Chip) : (c.nextFree).viodSet = c.viodSet := rfl
@[simp] theorem Chip.nextFree_viodFloor (c : Chip) : (c.nextFree).viodFloor = c.viodFloor := rfl
@[simp] theorem Chip.nextFree_iodDroops (c : Chip) : (c.nextFree).iodDroops = c.iodDroops := rfl
@[simp] theorem Chip.nextFree_watts (c : Chip) : (c.nextFree).watts = c.watts := rfl
@[simp] theorem Chip.nextFree_peakAt (c : Chip) : (c.nextFree).peakAt = c.peakAt := rfl
@[simp] theorem Chip.nextFree_peakBar (c : Chip) : (c.nextFree).peakBar = c.peakBar := rfl
@[simp] theorem Chip.nextFree_portSt (c : Chip) : (c.nextFree).portSt = c.portSt := rfl
@[simp] theorem Chip.nextFree_fnSt (c : Chip) : (c.nextFree).fnSt = c.fnSt := rfl
@[simp] theorem Chip.nextFree_winNow (c : Chip) : (c.nextFree).winNow = c.winNow := rfl
@[simp] theorem Chip.nextFree_winEra (c : Chip) : (c.nextFree).winEra = c.winEra := rfl
@[simp] theorem Chip.nextFree_insts (c : Chip) : (c.nextFree).insts = c.insts := rfl
@[simp] theorem Chip.nextFree_engRR (c : Chip) : (c.nextFree).engRR = c.engRR := rfl
@[simp] theorem Chip.nextFree_pair (c : Chip) : (c.nextFree).pair = c.pair := rfl
@[simp] theorem Chip.nextFree_uz (c : Chip) : (c.nextFree).uz = c.uz := rfl
@[simp] theorem Chip.nextFree_pins (c : Chip) : (c.nextFree).pins = c.pins := rfl
@[simp] theorem Chip.nextFree_dmData (c : Chip) : (c.nextFree).dmData = c.dmData := rfl
@[simp] theorem Chip.nextFree_dmErr (c : Chip) : (c.nextFree).dmErr = c.dmErr := rfl
@[simp] theorem Chip.nextFree_dmProg (c : Chip) : (c.nextFree).dmProg = c.dmProg := rfl

-- send changes net alone

@[simp] theorem Chip.send_regs (c : Chip) (m : Msg) : (c.send m).regs = c.regs := rfl
@[simp] theorem Chip.send_iommu (c : Chip) (m : Msg) : (c.send m).iommu = c.iommu := rfl
@[simp] theorem Chip.send_now (c : Chip) (m : Msg) : (c.send m).now = c.now := rfl
@[simp] theorem Chip.send_refclkGoodAt (c : Chip) (m : Msg) : (c.send m).refclkGoodAt = c.refclkGoodAt := rfl
@[simp] theorem Chip.send_harts (c : Chip) (m : Msg) : (c.send m).harts = c.harts := rfl
@[simp] theorem Chip.send_dies (c : Chip) (m : Msg) : (c.send m).dies = c.dies := rfl
@[simp] theorem Chip.send_l2 (c : Chip) (m : Msg) : (c.send m).l2 = c.l2 := rfl
@[simp] theorem Chip.send_wb (c : Chip) (m : Msg) : (c.send m).wb = c.wb := rfl
@[simp] theorem Chip.send_lnd (c : Chip) (m : Msg) : (c.send m).lnd = c.lnd := rfl
@[simp] theorem Chip.send_miss (c : Chip) (m : Msg) : (c.send m).miss = c.miss := rfl
@[simp] theorem Chip.send_snoopQ (c : Chip) (m : Msg) : (c.send m).snoopQ = c.snoopQ := rfl
@[simp] theorem Chip.send_wchk (c : Chip) (m : Msg) : (c.send m).wchk = c.wchk := rfl
@[simp] theorem Chip.send_dir (c : Chip) (m : Msg) : (c.send m).dir = c.dir := rfl
@[simp] theorem Chip.send_dirWay (c : Chip) (m : Msg) : (c.send m).dirWay = c.dirWay := rfl
@[simp] theorem Chip.send_lru (c : Chip) (m : Msg) : (c.send m).lru = c.lru := rfl
@[simp] theorem Chip.send_txn (c : Chip) (m : Msg) : (c.send m).txn = c.txn := rfl
@[simp] theorem Chip.send_homeQ (c : Chip) (m : Msg) : (c.send m).homeQ = c.homeQ := rfl
@[simp] theorem Chip.send_hc (c : Chip) (m : Msg) : (c.send m).hc = c.hc := rfl
@[simp] theorem Chip.send_ownc (c : Chip) (m : Msg) : (c.send m).ownc = c.ownc := rfl
@[simp] theorem Chip.send_halls (c : Chip) (m : Msg) : (c.send m).halls = c.halls := rfl
@[simp] theorem Chip.send_dlv (c : Chip) (m : Msg) : (c.send m).dlv = c.dlv := rfl
@[simp] theorem Chip.send_gal (c : Chip) (m : Msg) : (c.send m).gal = c.gal := rfl
@[simp] theorem Chip.send_link (c : Chip) (m : Msg) : (c.send m).link = c.link := rfl
@[simp] theorem Chip.send_tokens (c : Chip) (m : Msg) : (c.send m).tokens = c.tokens := rfl
@[simp] theorem Chip.send_portRate (c : Chip) (m : Msg) : (c.send m).portRate = c.portRate := rfl
@[simp] theorem Chip.send_injQ (c : Chip) (m : Msg) : (c.send m).injQ = c.injQ := rfl
@[simp] theorem Chip.send_active (c : Chip) (m : Msg) : (c.send m).active = c.active := rfl
@[simp] theorem Chip.send_qosMap (c : Chip) (m : Msg) : (c.send m).qosMap = c.qosMap := rfl
@[simp] theorem Chip.send_qosCls (c : Chip) (m : Msg) : (c.send m).qosCls = c.qosCls := rfl
@[simp] theorem Chip.send_qosCap (c : Chip) (m : Msg) : (c.send m).qosCap = c.qosCap := rfl
@[simp] theorem Chip.send_banks (c : Chip) (m : Msg) : (c.send m).banks = c.banks := rfl
@[simp] theorem Chip.send_fcHold (c : Chip) (m : Msg) : (c.send m).fcHold = c.fcHold := rfl
@[simp] theorem Chip.send_fcLost (c : Chip) (m : Msg) : (c.send m).fcLost = c.fcLost := rfl
@[simp] theorem Chip.send_cntNew (c : Chip) (m : Msg) : (c.send m).cntNew = c.cntNew := rfl
@[simp] theorem Chip.send_toDrop (c : Chip) (m : Msg) : (c.send m).toDrop = c.toDrop := rfl
@[simp] theorem Chip.send_safeQ (c : Chip) (m : Msg) : (c.send m).safeQ = c.safeQ := rfl
@[simp] theorem Chip.send_msi (c : Chip) (m : Msg) : (c.send m).msi = c.msi := rfl
@[simp] theorem Chip.send_msix (c : Chip) (m : Msg) : (c.send m).msix = c.msix := rfl
@[simp] theorem Chip.send_down (c : Chip) (m : Msg) : (c.send m).down = c.down := rfl
@[simp] theorem Chip.send_pwrReq (c : Chip) (m : Msg) : (c.send m).pwrReq = c.pwrReq := rfl
@[simp] theorem Chip.send_pot (c : Chip) (m : Msg) : (c.send m).pot = c.pot := rfl
@[simp] theorem Chip.send_mnt (c : Chip) (m : Msg) : (c.send m).mnt = c.mnt := rfl
@[simp] theorem Chip.send_rail (c : Chip) (m : Msg) : (c.send m).rail = c.rail := rfl
@[simp] theorem Chip.send_railBadAt (c : Chip) (m : Msg) : (c.send m).railBadAt = c.railBadAt := rfl
@[simp] theorem Chip.send_pmbusMiss (c : Chip) (m : Msg) : (c.send m).pmbusMiss = c.pmbusMiss := rfl
@[simp] theorem Chip.send_pmbus (c : Chip) (m : Msg) : (c.send m).pmbus = c.pmbus := rfl
@[simp] theorem Chip.send_viodSet (c : Chip) (m : Msg) : (c.send m).viodSet = c.viodSet := rfl
@[simp] theorem Chip.send_viodFloor (c : Chip) (m : Msg) : (c.send m).viodFloor = c.viodFloor := rfl
@[simp] theorem Chip.send_iodDroops (c : Chip) (m : Msg) : (c.send m).iodDroops = c.iodDroops := rfl
@[simp] theorem Chip.send_watts (c : Chip) (m : Msg) : (c.send m).watts = c.watts := rfl
@[simp] theorem Chip.send_peakAt (c : Chip) (m : Msg) : (c.send m).peakAt = c.peakAt := rfl
@[simp] theorem Chip.send_peakBar (c : Chip) (m : Msg) : (c.send m).peakBar = c.peakBar := rfl
@[simp] theorem Chip.send_portSt (c : Chip) (m : Msg) : (c.send m).portSt = c.portSt := rfl
@[simp] theorem Chip.send_fnSt (c : Chip) (m : Msg) : (c.send m).fnSt = c.fnSt := rfl
@[simp] theorem Chip.send_winNow (c : Chip) (m : Msg) : (c.send m).winNow = c.winNow := rfl
@[simp] theorem Chip.send_winEra (c : Chip) (m : Msg) : (c.send m).winEra = c.winEra := rfl
@[simp] theorem Chip.send_insts (c : Chip) (m : Msg) : (c.send m).insts = c.insts := rfl
@[simp] theorem Chip.send_engRR (c : Chip) (m : Msg) : (c.send m).engRR = c.engRR := rfl
@[simp] theorem Chip.send_pair (c : Chip) (m : Msg) : (c.send m).pair = c.pair := rfl
@[simp] theorem Chip.send_uz (c : Chip) (m : Msg) : (c.send m).uz = c.uz := rfl
@[simp] theorem Chip.send_pins (c : Chip) (m : Msg) : (c.send m).pins = c.pins := rfl
@[simp] theorem Chip.send_dmData (c : Chip) (m : Msg) : (c.send m).dmData = c.dmData := rfl
@[simp] theorem Chip.send_dmErr (c : Chip) (m : Msg) : (c.send m).dmErr = c.dmErr := rfl
@[simp] theorem Chip.send_dmProg (c : Chip) (m : Msg) : (c.send m).dmProg = c.dmProg := rfl
@[simp] theorem Chip.send_free (c : Chip) (m : Msg) : (c.send m).free = c.free := rfl

-- a message that arrives leaves where it stood, and a link hears its die

theorem Chip.hear_form (c : Chip) (m : Msg) : ∃ l, c.hear m = { c with link := l } := by
  unfold Chip.hear
  split
  · exact ⟨_, rfl⟩
  · exact ⟨c.link, rfl⟩
theorem Chip.arrive_form (c : Chip) (m : Msg) : ∃ n d l g, c.arrive m = { c with net := n, dlv := d, link := l, gal := g } := by
  unfold Chip.arrive
  split
  · exact ⟨c.net, _, c.link, c.gal, rfl⟩
  · split
    · exact ⟨c.net, c.dlv, _, c.gal, rfl⟩
    · split
      · exact ⟨c.net, c.dlv, c.link, _, rfl⟩
      · obtain ⟨l, e⟩ := Chip.hear_form { c with net := dropFirst m c.net } m
        exact ⟨_, c.dlv, l, c.gal, e⟩

-- arrive changes net, dlv, link, gal alone

@[simp] theorem Chip.arrive_regs (c : Chip) (m : Msg) : (c.arrive m).regs = c.regs := by
  obtain ⟨_, _, _, _, e⟩ := c.arrive_form m; rw [e]
@[simp] theorem Chip.arrive_iommu (c : Chip) (m : Msg) : (c.arrive m).iommu = c.iommu := by
  obtain ⟨_, _, _, _, e⟩ := c.arrive_form m; rw [e]
@[simp] theorem Chip.arrive_now (c : Chip) (m : Msg) : (c.arrive m).now = c.now := by
  obtain ⟨_, _, _, _, e⟩ := c.arrive_form m; rw [e]
@[simp] theorem Chip.arrive_refclkGoodAt (c : Chip) (m : Msg) : (c.arrive m).refclkGoodAt = c.refclkGoodAt := by
  obtain ⟨_, _, _, _, e⟩ := c.arrive_form m; rw [e]
@[simp] theorem Chip.arrive_harts (c : Chip) (m : Msg) : (c.arrive m).harts = c.harts := by
  obtain ⟨_, _, _, _, e⟩ := c.arrive_form m; rw [e]
@[simp] theorem Chip.arrive_dies (c : Chip) (m : Msg) : (c.arrive m).dies = c.dies := by
  obtain ⟨_, _, _, _, e⟩ := c.arrive_form m; rw [e]
@[simp] theorem Chip.arrive_l2 (c : Chip) (m : Msg) : (c.arrive m).l2 = c.l2 := by
  obtain ⟨_, _, _, _, e⟩ := c.arrive_form m; rw [e]
@[simp] theorem Chip.arrive_wb (c : Chip) (m : Msg) : (c.arrive m).wb = c.wb := by
  obtain ⟨_, _, _, _, e⟩ := c.arrive_form m; rw [e]
@[simp] theorem Chip.arrive_lnd (c : Chip) (m : Msg) : (c.arrive m).lnd = c.lnd := by
  obtain ⟨_, _, _, _, e⟩ := c.arrive_form m; rw [e]
@[simp] theorem Chip.arrive_miss (c : Chip) (m : Msg) : (c.arrive m).miss = c.miss := by
  obtain ⟨_, _, _, _, e⟩ := c.arrive_form m; rw [e]
@[simp] theorem Chip.arrive_snoopQ (c : Chip) (m : Msg) : (c.arrive m).snoopQ = c.snoopQ := by
  obtain ⟨_, _, _, _, e⟩ := c.arrive_form m; rw [e]
@[simp] theorem Chip.arrive_wchk (c : Chip) (m : Msg) : (c.arrive m).wchk = c.wchk := by
  obtain ⟨_, _, _, _, e⟩ := c.arrive_form m; rw [e]
@[simp] theorem Chip.arrive_dir (c : Chip) (m : Msg) : (c.arrive m).dir = c.dir := by
  obtain ⟨_, _, _, _, e⟩ := c.arrive_form m; rw [e]
@[simp] theorem Chip.arrive_dirWay (c : Chip) (m : Msg) : (c.arrive m).dirWay = c.dirWay := by
  obtain ⟨_, _, _, _, e⟩ := c.arrive_form m; rw [e]
@[simp] theorem Chip.arrive_lru (c : Chip) (m : Msg) : (c.arrive m).lru = c.lru := by
  obtain ⟨_, _, _, _, e⟩ := c.arrive_form m; rw [e]
@[simp] theorem Chip.arrive_txn (c : Chip) (m : Msg) : (c.arrive m).txn = c.txn := by
  obtain ⟨_, _, _, _, e⟩ := c.arrive_form m; rw [e]
@[simp] theorem Chip.arrive_homeQ (c : Chip) (m : Msg) : (c.arrive m).homeQ = c.homeQ := by
  obtain ⟨_, _, _, _, e⟩ := c.arrive_form m; rw [e]
@[simp] theorem Chip.arrive_hc (c : Chip) (m : Msg) : (c.arrive m).hc = c.hc := by
  obtain ⟨_, _, _, _, e⟩ := c.arrive_form m; rw [e]
@[simp] theorem Chip.arrive_ownc (c : Chip) (m : Msg) : (c.arrive m).ownc = c.ownc := by
  obtain ⟨_, _, _, _, e⟩ := c.arrive_form m; rw [e]
@[simp] theorem Chip.arrive_halls (c : Chip) (m : Msg) : (c.arrive m).halls = c.halls := by
  obtain ⟨_, _, _, _, e⟩ := c.arrive_form m; rw [e]
@[simp] theorem Chip.arrive_tokens (c : Chip) (m : Msg) : (c.arrive m).tokens = c.tokens := by
  obtain ⟨_, _, _, _, e⟩ := c.arrive_form m; rw [e]
@[simp] theorem Chip.arrive_portRate (c : Chip) (m : Msg) : (c.arrive m).portRate = c.portRate := by
  obtain ⟨_, _, _, _, e⟩ := c.arrive_form m; rw [e]
@[simp] theorem Chip.arrive_injQ (c : Chip) (m : Msg) : (c.arrive m).injQ = c.injQ := by
  obtain ⟨_, _, _, _, e⟩ := c.arrive_form m; rw [e]
@[simp] theorem Chip.arrive_active (c : Chip) (m : Msg) : (c.arrive m).active = c.active := by
  obtain ⟨_, _, _, _, e⟩ := c.arrive_form m; rw [e]
@[simp] theorem Chip.arrive_qosMap (c : Chip) (m : Msg) : (c.arrive m).qosMap = c.qosMap := by
  obtain ⟨_, _, _, _, e⟩ := c.arrive_form m; rw [e]
@[simp] theorem Chip.arrive_qosCls (c : Chip) (m : Msg) : (c.arrive m).qosCls = c.qosCls := by
  obtain ⟨_, _, _, _, e⟩ := c.arrive_form m; rw [e]
@[simp] theorem Chip.arrive_qosCap (c : Chip) (m : Msg) : (c.arrive m).qosCap = c.qosCap := by
  obtain ⟨_, _, _, _, e⟩ := c.arrive_form m; rw [e]
@[simp] theorem Chip.arrive_banks (c : Chip) (m : Msg) : (c.arrive m).banks = c.banks := by
  obtain ⟨_, _, _, _, e⟩ := c.arrive_form m; rw [e]
@[simp] theorem Chip.arrive_fcHold (c : Chip) (m : Msg) : (c.arrive m).fcHold = c.fcHold := by
  obtain ⟨_, _, _, _, e⟩ := c.arrive_form m; rw [e]
@[simp] theorem Chip.arrive_fcLost (c : Chip) (m : Msg) : (c.arrive m).fcLost = c.fcLost := by
  obtain ⟨_, _, _, _, e⟩ := c.arrive_form m; rw [e]
@[simp] theorem Chip.arrive_cntNew (c : Chip) (m : Msg) : (c.arrive m).cntNew = c.cntNew := by
  obtain ⟨_, _, _, _, e⟩ := c.arrive_form m; rw [e]
@[simp] theorem Chip.arrive_toDrop (c : Chip) (m : Msg) : (c.arrive m).toDrop = c.toDrop := by
  obtain ⟨_, _, _, _, e⟩ := c.arrive_form m; rw [e]
@[simp] theorem Chip.arrive_safeQ (c : Chip) (m : Msg) : (c.arrive m).safeQ = c.safeQ := by
  obtain ⟨_, _, _, _, e⟩ := c.arrive_form m; rw [e]
@[simp] theorem Chip.arrive_msi (c : Chip) (m : Msg) : (c.arrive m).msi = c.msi := by
  obtain ⟨_, _, _, _, e⟩ := c.arrive_form m; rw [e]
@[simp] theorem Chip.arrive_msix (c : Chip) (m : Msg) : (c.arrive m).msix = c.msix := by
  obtain ⟨_, _, _, _, e⟩ := c.arrive_form m; rw [e]
@[simp] theorem Chip.arrive_down (c : Chip) (m : Msg) : (c.arrive m).down = c.down := by
  obtain ⟨_, _, _, _, e⟩ := c.arrive_form m; rw [e]
@[simp] theorem Chip.arrive_pwrReq (c : Chip) (m : Msg) : (c.arrive m).pwrReq = c.pwrReq := by
  obtain ⟨_, _, _, _, e⟩ := c.arrive_form m; rw [e]
@[simp] theorem Chip.arrive_pot (c : Chip) (m : Msg) : (c.arrive m).pot = c.pot := by
  obtain ⟨_, _, _, _, e⟩ := c.arrive_form m; rw [e]
@[simp] theorem Chip.arrive_mnt (c : Chip) (m : Msg) : (c.arrive m).mnt = c.mnt := by
  obtain ⟨_, _, _, _, e⟩ := c.arrive_form m; rw [e]
@[simp] theorem Chip.arrive_rail (c : Chip) (m : Msg) : (c.arrive m).rail = c.rail := by
  obtain ⟨_, _, _, _, e⟩ := c.arrive_form m; rw [e]
@[simp] theorem Chip.arrive_railBadAt (c : Chip) (m : Msg) : (c.arrive m).railBadAt = c.railBadAt := by
  obtain ⟨_, _, _, _, e⟩ := c.arrive_form m; rw [e]
@[simp] theorem Chip.arrive_pmbusMiss (c : Chip) (m : Msg) : (c.arrive m).pmbusMiss = c.pmbusMiss := by
  obtain ⟨_, _, _, _, e⟩ := c.arrive_form m; rw [e]
@[simp] theorem Chip.arrive_pmbus (c : Chip) (m : Msg) : (c.arrive m).pmbus = c.pmbus := by
  obtain ⟨_, _, _, _, e⟩ := c.arrive_form m; rw [e]
@[simp] theorem Chip.arrive_viodSet (c : Chip) (m : Msg) : (c.arrive m).viodSet = c.viodSet := by
  obtain ⟨_, _, _, _, e⟩ := c.arrive_form m; rw [e]
@[simp] theorem Chip.arrive_viodFloor (c : Chip) (m : Msg) : (c.arrive m).viodFloor = c.viodFloor := by
  obtain ⟨_, _, _, _, e⟩ := c.arrive_form m; rw [e]
@[simp] theorem Chip.arrive_iodDroops (c : Chip) (m : Msg) : (c.arrive m).iodDroops = c.iodDroops := by
  obtain ⟨_, _, _, _, e⟩ := c.arrive_form m; rw [e]
@[simp] theorem Chip.arrive_watts (c : Chip) (m : Msg) : (c.arrive m).watts = c.watts := by
  obtain ⟨_, _, _, _, e⟩ := c.arrive_form m; rw [e]
@[simp] theorem Chip.arrive_peakAt (c : Chip) (m : Msg) : (c.arrive m).peakAt = c.peakAt := by
  obtain ⟨_, _, _, _, e⟩ := c.arrive_form m; rw [e]
@[simp] theorem Chip.arrive_peakBar (c : Chip) (m : Msg) : (c.arrive m).peakBar = c.peakBar := by
  obtain ⟨_, _, _, _, e⟩ := c.arrive_form m; rw [e]
@[simp] theorem Chip.arrive_portSt (c : Chip) (m : Msg) : (c.arrive m).portSt = c.portSt := by
  obtain ⟨_, _, _, _, e⟩ := c.arrive_form m; rw [e]
@[simp] theorem Chip.arrive_fnSt (c : Chip) (m : Msg) : (c.arrive m).fnSt = c.fnSt := by
  obtain ⟨_, _, _, _, e⟩ := c.arrive_form m; rw [e]
@[simp] theorem Chip.arrive_winNow (c : Chip) (m : Msg) : (c.arrive m).winNow = c.winNow := by
  obtain ⟨_, _, _, _, e⟩ := c.arrive_form m; rw [e]
@[simp] theorem Chip.arrive_winEra (c : Chip) (m : Msg) : (c.arrive m).winEra = c.winEra := by
  obtain ⟨_, _, _, _, e⟩ := c.arrive_form m; rw [e]
@[simp] theorem Chip.arrive_insts (c : Chip) (m : Msg) : (c.arrive m).insts = c.insts := by
  obtain ⟨_, _, _, _, e⟩ := c.arrive_form m; rw [e]
@[simp] theorem Chip.arrive_engRR (c : Chip) (m : Msg) : (c.arrive m).engRR = c.engRR := by
  obtain ⟨_, _, _, _, e⟩ := c.arrive_form m; rw [e]
@[simp] theorem Chip.arrive_pair (c : Chip) (m : Msg) : (c.arrive m).pair = c.pair := by
  obtain ⟨_, _, _, _, e⟩ := c.arrive_form m; rw [e]
@[simp] theorem Chip.arrive_uz (c : Chip) (m : Msg) : (c.arrive m).uz = c.uz := by
  obtain ⟨_, _, _, _, e⟩ := c.arrive_form m; rw [e]
@[simp] theorem Chip.arrive_pins (c : Chip) (m : Msg) : (c.arrive m).pins = c.pins := by
  obtain ⟨_, _, _, _, e⟩ := c.arrive_form m; rw [e]
@[simp] theorem Chip.arrive_dmData (c : Chip) (m : Msg) : (c.arrive m).dmData = c.dmData := by
  obtain ⟨_, _, _, _, e⟩ := c.arrive_form m; rw [e]
@[simp] theorem Chip.arrive_dmErr (c : Chip) (m : Msg) : (c.arrive m).dmErr = c.dmErr := by
  obtain ⟨_, _, _, _, e⟩ := c.arrive_form m; rw [e]
@[simp] theorem Chip.arrive_dmProg (c : Chip) (m : Msg) : (c.arrive m).dmProg = c.dmProg := by
  obtain ⟨_, _, _, _, e⟩ := c.arrive_form m; rw [e]
@[simp] theorem Chip.arrive_free (c : Chip) (m : Msg) : (c.arrive m).free = c.free := by
  obtain ⟨_, _, _, _, e⟩ := c.arrive_form m; rw [e]

-- setL2 changes l2, banks alone

@[simp] theorem Chip.setL2_regs (c : Chip) (h line : Nat) (l : L2Line) : (c.setL2 h line l).regs = c.regs := rfl
@[simp] theorem Chip.setL2_iommu (c : Chip) (h line : Nat) (l : L2Line) : (c.setL2 h line l).iommu = c.iommu := rfl
@[simp] theorem Chip.setL2_now (c : Chip) (h line : Nat) (l : L2Line) : (c.setL2 h line l).now = c.now := rfl
@[simp] theorem Chip.setL2_refclkGoodAt (c : Chip) (h line : Nat) (l : L2Line) : (c.setL2 h line l).refclkGoodAt = c.refclkGoodAt := rfl
@[simp] theorem Chip.setL2_harts (c : Chip) (h line : Nat) (l : L2Line) : (c.setL2 h line l).harts = c.harts := rfl
@[simp] theorem Chip.setL2_dies (c : Chip) (h line : Nat) (l : L2Line) : (c.setL2 h line l).dies = c.dies := rfl
@[simp] theorem Chip.setL2_wb (c : Chip) (h line : Nat) (l : L2Line) : (c.setL2 h line l).wb = c.wb := rfl
@[simp] theorem Chip.setL2_lnd (c : Chip) (h line : Nat) (l : L2Line) : (c.setL2 h line l).lnd = c.lnd := rfl
@[simp] theorem Chip.setL2_miss (c : Chip) (h line : Nat) (l : L2Line) : (c.setL2 h line l).miss = c.miss := rfl
@[simp] theorem Chip.setL2_snoopQ (c : Chip) (h line : Nat) (l : L2Line) : (c.setL2 h line l).snoopQ = c.snoopQ := rfl
@[simp] theorem Chip.setL2_wchk (c : Chip) (h line : Nat) (l : L2Line) : (c.setL2 h line l).wchk = c.wchk := rfl
@[simp] theorem Chip.setL2_dir (c : Chip) (h line : Nat) (l : L2Line) : (c.setL2 h line l).dir = c.dir := rfl
@[simp] theorem Chip.setL2_dirWay (c : Chip) (h line : Nat) (l : L2Line) : (c.setL2 h line l).dirWay = c.dirWay := rfl
@[simp] theorem Chip.setL2_lru (c : Chip) (h line : Nat) (l : L2Line) : (c.setL2 h line l).lru = c.lru := rfl
@[simp] theorem Chip.setL2_txn (c : Chip) (h line : Nat) (l : L2Line) : (c.setL2 h line l).txn = c.txn := rfl
@[simp] theorem Chip.setL2_homeQ (c : Chip) (h line : Nat) (l : L2Line) : (c.setL2 h line l).homeQ = c.homeQ := rfl
@[simp] theorem Chip.setL2_hc (c : Chip) (h line : Nat) (l : L2Line) : (c.setL2 h line l).hc = c.hc := rfl
@[simp] theorem Chip.setL2_ownc (c : Chip) (h line : Nat) (l : L2Line) : (c.setL2 h line l).ownc = c.ownc := rfl
@[simp] theorem Chip.setL2_halls (c : Chip) (h line : Nat) (l : L2Line) : (c.setL2 h line l).halls = c.halls := rfl
@[simp] theorem Chip.setL2_net (c : Chip) (h line : Nat) (l : L2Line) : (c.setL2 h line l).net = c.net := rfl
@[simp] theorem Chip.setL2_dlv (c : Chip) (h line : Nat) (l : L2Line) : (c.setL2 h line l).dlv = c.dlv := rfl
@[simp] theorem Chip.setL2_gal (c : Chip) (h line : Nat) (l : L2Line) : (c.setL2 h line l).gal = c.gal := rfl
@[simp] theorem Chip.setL2_link (c : Chip) (h line : Nat) (l : L2Line) : (c.setL2 h line l).link = c.link := rfl
@[simp] theorem Chip.setL2_tokens (c : Chip) (h line : Nat) (l : L2Line) : (c.setL2 h line l).tokens = c.tokens := rfl
@[simp] theorem Chip.setL2_portRate (c : Chip) (h line : Nat) (l : L2Line) : (c.setL2 h line l).portRate = c.portRate := rfl
@[simp] theorem Chip.setL2_injQ (c : Chip) (h line : Nat) (l : L2Line) : (c.setL2 h line l).injQ = c.injQ := rfl
@[simp] theorem Chip.setL2_active (c : Chip) (h line : Nat) (l : L2Line) : (c.setL2 h line l).active = c.active := rfl
@[simp] theorem Chip.setL2_qosMap (c : Chip) (h line : Nat) (l : L2Line) : (c.setL2 h line l).qosMap = c.qosMap := rfl
@[simp] theorem Chip.setL2_qosCls (c : Chip) (h line : Nat) (l : L2Line) : (c.setL2 h line l).qosCls = c.qosCls := rfl
@[simp] theorem Chip.setL2_qosCap (c : Chip) (h line : Nat) (l : L2Line) : (c.setL2 h line l).qosCap = c.qosCap := rfl
@[simp] theorem Chip.setL2_fcHold (c : Chip) (h line : Nat) (l : L2Line) : (c.setL2 h line l).fcHold = c.fcHold := rfl
@[simp] theorem Chip.setL2_fcLost (c : Chip) (h line : Nat) (l : L2Line) : (c.setL2 h line l).fcLost = c.fcLost := rfl
@[simp] theorem Chip.setL2_cntNew (c : Chip) (h line : Nat) (l : L2Line) : (c.setL2 h line l).cntNew = c.cntNew := rfl
@[simp] theorem Chip.setL2_toDrop (c : Chip) (h line : Nat) (l : L2Line) : (c.setL2 h line l).toDrop = c.toDrop := rfl
@[simp] theorem Chip.setL2_safeQ (c : Chip) (h line : Nat) (l : L2Line) : (c.setL2 h line l).safeQ = c.safeQ := rfl
@[simp] theorem Chip.setL2_msi (c : Chip) (h line : Nat) (l : L2Line) : (c.setL2 h line l).msi = c.msi := rfl
@[simp] theorem Chip.setL2_msix (c : Chip) (h line : Nat) (l : L2Line) : (c.setL2 h line l).msix = c.msix := rfl
@[simp] theorem Chip.setL2_down (c : Chip) (h line : Nat) (l : L2Line) : (c.setL2 h line l).down = c.down := rfl
@[simp] theorem Chip.setL2_pwrReq (c : Chip) (h line : Nat) (l : L2Line) : (c.setL2 h line l).pwrReq = c.pwrReq := rfl
@[simp] theorem Chip.setL2_pot (c : Chip) (h line : Nat) (l : L2Line) : (c.setL2 h line l).pot = c.pot := rfl
@[simp] theorem Chip.setL2_mnt (c : Chip) (h line : Nat) (l : L2Line) : (c.setL2 h line l).mnt = c.mnt := rfl
@[simp] theorem Chip.setL2_rail (c : Chip) (h line : Nat) (l : L2Line) : (c.setL2 h line l).rail = c.rail := rfl
@[simp] theorem Chip.setL2_railBadAt (c : Chip) (h line : Nat) (l : L2Line) : (c.setL2 h line l).railBadAt = c.railBadAt := rfl
@[simp] theorem Chip.setL2_pmbusMiss (c : Chip) (h line : Nat) (l : L2Line) : (c.setL2 h line l).pmbusMiss = c.pmbusMiss := rfl
@[simp] theorem Chip.setL2_pmbus (c : Chip) (h line : Nat) (l : L2Line) : (c.setL2 h line l).pmbus = c.pmbus := rfl
@[simp] theorem Chip.setL2_viodSet (c : Chip) (h line : Nat) (l : L2Line) : (c.setL2 h line l).viodSet = c.viodSet := rfl
@[simp] theorem Chip.setL2_viodFloor (c : Chip) (h line : Nat) (l : L2Line) : (c.setL2 h line l).viodFloor = c.viodFloor := rfl
@[simp] theorem Chip.setL2_iodDroops (c : Chip) (h line : Nat) (l : L2Line) : (c.setL2 h line l).iodDroops = c.iodDroops := rfl
@[simp] theorem Chip.setL2_watts (c : Chip) (h line : Nat) (l : L2Line) : (c.setL2 h line l).watts = c.watts := rfl
@[simp] theorem Chip.setL2_peakAt (c : Chip) (h line : Nat) (l : L2Line) : (c.setL2 h line l).peakAt = c.peakAt := rfl
@[simp] theorem Chip.setL2_peakBar (c : Chip) (h line : Nat) (l : L2Line) : (c.setL2 h line l).peakBar = c.peakBar := rfl
@[simp] theorem Chip.setL2_portSt (c : Chip) (h line : Nat) (l : L2Line) : (c.setL2 h line l).portSt = c.portSt := rfl
@[simp] theorem Chip.setL2_fnSt (c : Chip) (h line : Nat) (l : L2Line) : (c.setL2 h line l).fnSt = c.fnSt := rfl
@[simp] theorem Chip.setL2_winNow (c : Chip) (h line : Nat) (l : L2Line) : (c.setL2 h line l).winNow = c.winNow := rfl
@[simp] theorem Chip.setL2_winEra (c : Chip) (h line : Nat) (l : L2Line) : (c.setL2 h line l).winEra = c.winEra := rfl
@[simp] theorem Chip.setL2_insts (c : Chip) (h line : Nat) (l : L2Line) : (c.setL2 h line l).insts = c.insts := rfl
@[simp] theorem Chip.setL2_engRR (c : Chip) (h line : Nat) (l : L2Line) : (c.setL2 h line l).engRR = c.engRR := rfl
@[simp] theorem Chip.setL2_pair (c : Chip) (h line : Nat) (l : L2Line) : (c.setL2 h line l).pair = c.pair := rfl
@[simp] theorem Chip.setL2_uz (c : Chip) (h line : Nat) (l : L2Line) : (c.setL2 h line l).uz = c.uz := rfl
@[simp] theorem Chip.setL2_pins (c : Chip) (h line : Nat) (l : L2Line) : (c.setL2 h line l).pins = c.pins := rfl
@[simp] theorem Chip.setL2_dmData (c : Chip) (h line : Nat) (l : L2Line) : (c.setL2 h line l).dmData = c.dmData := rfl
@[simp] theorem Chip.setL2_dmErr (c : Chip) (h line : Nat) (l : L2Line) : (c.setL2 h line l).dmErr = c.dmErr := rfl
@[simp] theorem Chip.setL2_dmProg (c : Chip) (h line : Nat) (l : L2Line) : (c.setL2 h line l).dmProg = c.dmProg := rfl
@[simp] theorem Chip.setL2_free (c : Chip) (h line : Nat) (l : L2Line) : (c.setL2 h line l).free = c.free := rfl

-- onHall changes halls alone

@[simp] theorem Chip.onHall_regs (c : Chip) (n : Nat) (f : HallSt → HallSt) : (c.onHall n f).regs = c.regs := rfl
@[simp] theorem Chip.onHall_iommu (c : Chip) (n : Nat) (f : HallSt → HallSt) : (c.onHall n f).iommu = c.iommu := rfl
@[simp] theorem Chip.onHall_now (c : Chip) (n : Nat) (f : HallSt → HallSt) : (c.onHall n f).now = c.now := rfl
@[simp] theorem Chip.onHall_refclkGoodAt (c : Chip) (n : Nat) (f : HallSt → HallSt) : (c.onHall n f).refclkGoodAt = c.refclkGoodAt := rfl
@[simp] theorem Chip.onHall_harts (c : Chip) (n : Nat) (f : HallSt → HallSt) : (c.onHall n f).harts = c.harts := rfl
@[simp] theorem Chip.onHall_dies (c : Chip) (n : Nat) (f : HallSt → HallSt) : (c.onHall n f).dies = c.dies := rfl
@[simp] theorem Chip.onHall_l2 (c : Chip) (n : Nat) (f : HallSt → HallSt) : (c.onHall n f).l2 = c.l2 := rfl
@[simp] theorem Chip.onHall_wb (c : Chip) (n : Nat) (f : HallSt → HallSt) : (c.onHall n f).wb = c.wb := rfl
@[simp] theorem Chip.onHall_lnd (c : Chip) (n : Nat) (f : HallSt → HallSt) : (c.onHall n f).lnd = c.lnd := rfl
@[simp] theorem Chip.onHall_miss (c : Chip) (n : Nat) (f : HallSt → HallSt) : (c.onHall n f).miss = c.miss := rfl
@[simp] theorem Chip.onHall_snoopQ (c : Chip) (n : Nat) (f : HallSt → HallSt) : (c.onHall n f).snoopQ = c.snoopQ := rfl
@[simp] theorem Chip.onHall_wchk (c : Chip) (n : Nat) (f : HallSt → HallSt) : (c.onHall n f).wchk = c.wchk := rfl
@[simp] theorem Chip.onHall_dir (c : Chip) (n : Nat) (f : HallSt → HallSt) : (c.onHall n f).dir = c.dir := rfl
@[simp] theorem Chip.onHall_dirWay (c : Chip) (n : Nat) (f : HallSt → HallSt) : (c.onHall n f).dirWay = c.dirWay := rfl
@[simp] theorem Chip.onHall_lru (c : Chip) (n : Nat) (f : HallSt → HallSt) : (c.onHall n f).lru = c.lru := rfl
@[simp] theorem Chip.onHall_txn (c : Chip) (n : Nat) (f : HallSt → HallSt) : (c.onHall n f).txn = c.txn := rfl
@[simp] theorem Chip.onHall_homeQ (c : Chip) (n : Nat) (f : HallSt → HallSt) : (c.onHall n f).homeQ = c.homeQ := rfl
@[simp] theorem Chip.onHall_hc (c : Chip) (n : Nat) (f : HallSt → HallSt) : (c.onHall n f).hc = c.hc := rfl
@[simp] theorem Chip.onHall_ownc (c : Chip) (n : Nat) (f : HallSt → HallSt) : (c.onHall n f).ownc = c.ownc := rfl
@[simp] theorem Chip.onHall_net (c : Chip) (n : Nat) (f : HallSt → HallSt) : (c.onHall n f).net = c.net := rfl
@[simp] theorem Chip.onHall_dlv (c : Chip) (n : Nat) (f : HallSt → HallSt) : (c.onHall n f).dlv = c.dlv := rfl
@[simp] theorem Chip.onHall_gal (c : Chip) (n : Nat) (f : HallSt → HallSt) : (c.onHall n f).gal = c.gal := rfl
@[simp] theorem Chip.onHall_link (c : Chip) (n : Nat) (f : HallSt → HallSt) : (c.onHall n f).link = c.link := rfl
@[simp] theorem Chip.onHall_tokens (c : Chip) (n : Nat) (f : HallSt → HallSt) : (c.onHall n f).tokens = c.tokens := rfl
@[simp] theorem Chip.onHall_portRate (c : Chip) (n : Nat) (f : HallSt → HallSt) : (c.onHall n f).portRate = c.portRate := rfl
@[simp] theorem Chip.onHall_injQ (c : Chip) (n : Nat) (f : HallSt → HallSt) : (c.onHall n f).injQ = c.injQ := rfl
@[simp] theorem Chip.onHall_active (c : Chip) (n : Nat) (f : HallSt → HallSt) : (c.onHall n f).active = c.active := rfl
@[simp] theorem Chip.onHall_qosMap (c : Chip) (n : Nat) (f : HallSt → HallSt) : (c.onHall n f).qosMap = c.qosMap := rfl
@[simp] theorem Chip.onHall_qosCls (c : Chip) (n : Nat) (f : HallSt → HallSt) : (c.onHall n f).qosCls = c.qosCls := rfl
@[simp] theorem Chip.onHall_qosCap (c : Chip) (n : Nat) (f : HallSt → HallSt) : (c.onHall n f).qosCap = c.qosCap := rfl
@[simp] theorem Chip.onHall_banks (c : Chip) (n : Nat) (f : HallSt → HallSt) : (c.onHall n f).banks = c.banks := rfl
@[simp] theorem Chip.onHall_fcHold (c : Chip) (n : Nat) (f : HallSt → HallSt) : (c.onHall n f).fcHold = c.fcHold := rfl
@[simp] theorem Chip.onHall_fcLost (c : Chip) (n : Nat) (f : HallSt → HallSt) : (c.onHall n f).fcLost = c.fcLost := rfl
@[simp] theorem Chip.onHall_cntNew (c : Chip) (n : Nat) (f : HallSt → HallSt) : (c.onHall n f).cntNew = c.cntNew := rfl
@[simp] theorem Chip.onHall_toDrop (c : Chip) (n : Nat) (f : HallSt → HallSt) : (c.onHall n f).toDrop = c.toDrop := rfl
@[simp] theorem Chip.onHall_safeQ (c : Chip) (n : Nat) (f : HallSt → HallSt) : (c.onHall n f).safeQ = c.safeQ := rfl
@[simp] theorem Chip.onHall_msi (c : Chip) (n : Nat) (f : HallSt → HallSt) : (c.onHall n f).msi = c.msi := rfl
@[simp] theorem Chip.onHall_msix (c : Chip) (n : Nat) (f : HallSt → HallSt) : (c.onHall n f).msix = c.msix := rfl
@[simp] theorem Chip.onHall_down (c : Chip) (n : Nat) (f : HallSt → HallSt) : (c.onHall n f).down = c.down := rfl
@[simp] theorem Chip.onHall_pwrReq (c : Chip) (n : Nat) (f : HallSt → HallSt) : (c.onHall n f).pwrReq = c.pwrReq := rfl
@[simp] theorem Chip.onHall_pot (c : Chip) (n : Nat) (f : HallSt → HallSt) : (c.onHall n f).pot = c.pot := rfl
@[simp] theorem Chip.onHall_mnt (c : Chip) (n : Nat) (f : HallSt → HallSt) : (c.onHall n f).mnt = c.mnt := rfl
@[simp] theorem Chip.onHall_rail (c : Chip) (n : Nat) (f : HallSt → HallSt) : (c.onHall n f).rail = c.rail := rfl
@[simp] theorem Chip.onHall_railBadAt (c : Chip) (n : Nat) (f : HallSt → HallSt) : (c.onHall n f).railBadAt = c.railBadAt := rfl
@[simp] theorem Chip.onHall_pmbusMiss (c : Chip) (n : Nat) (f : HallSt → HallSt) : (c.onHall n f).pmbusMiss = c.pmbusMiss := rfl
@[simp] theorem Chip.onHall_pmbus (c : Chip) (n : Nat) (f : HallSt → HallSt) : (c.onHall n f).pmbus = c.pmbus := rfl
@[simp] theorem Chip.onHall_viodSet (c : Chip) (n : Nat) (f : HallSt → HallSt) : (c.onHall n f).viodSet = c.viodSet := rfl
@[simp] theorem Chip.onHall_viodFloor (c : Chip) (n : Nat) (f : HallSt → HallSt) : (c.onHall n f).viodFloor = c.viodFloor := rfl
@[simp] theorem Chip.onHall_iodDroops (c : Chip) (n : Nat) (f : HallSt → HallSt) : (c.onHall n f).iodDroops = c.iodDroops := rfl
@[simp] theorem Chip.onHall_watts (c : Chip) (n : Nat) (f : HallSt → HallSt) : (c.onHall n f).watts = c.watts := rfl
@[simp] theorem Chip.onHall_peakAt (c : Chip) (n : Nat) (f : HallSt → HallSt) : (c.onHall n f).peakAt = c.peakAt := rfl
@[simp] theorem Chip.onHall_peakBar (c : Chip) (n : Nat) (f : HallSt → HallSt) : (c.onHall n f).peakBar = c.peakBar := rfl
@[simp] theorem Chip.onHall_portSt (c : Chip) (n : Nat) (f : HallSt → HallSt) : (c.onHall n f).portSt = c.portSt := rfl
@[simp] theorem Chip.onHall_fnSt (c : Chip) (n : Nat) (f : HallSt → HallSt) : (c.onHall n f).fnSt = c.fnSt := rfl
@[simp] theorem Chip.onHall_winNow (c : Chip) (n : Nat) (f : HallSt → HallSt) : (c.onHall n f).winNow = c.winNow := rfl
@[simp] theorem Chip.onHall_winEra (c : Chip) (n : Nat) (f : HallSt → HallSt) : (c.onHall n f).winEra = c.winEra := rfl
@[simp] theorem Chip.onHall_insts (c : Chip) (n : Nat) (f : HallSt → HallSt) : (c.onHall n f).insts = c.insts := rfl
@[simp] theorem Chip.onHall_engRR (c : Chip) (n : Nat) (f : HallSt → HallSt) : (c.onHall n f).engRR = c.engRR := rfl
@[simp] theorem Chip.onHall_pair (c : Chip) (n : Nat) (f : HallSt → HallSt) : (c.onHall n f).pair = c.pair := rfl
@[simp] theorem Chip.onHall_uz (c : Chip) (n : Nat) (f : HallSt → HallSt) : (c.onHall n f).uz = c.uz := rfl
@[simp] theorem Chip.onHall_pins (c : Chip) (n : Nat) (f : HallSt → HallSt) : (c.onHall n f).pins = c.pins := rfl
@[simp] theorem Chip.onHall_dmData (c : Chip) (n : Nat) (f : HallSt → HallSt) : (c.onHall n f).dmData = c.dmData := rfl
@[simp] theorem Chip.onHall_dmErr (c : Chip) (n : Nat) (f : HallSt → HallSt) : (c.onHall n f).dmErr = c.dmErr := rfl
@[simp] theorem Chip.onHall_dmProg (c : Chip) (n : Nat) (f : HallSt → HallSt) : (c.onHall n f).dmProg = c.dmProg := rfl
@[simp] theorem Chip.onHall_free (c : Chip) (n : Nat) (f : HallSt → HallSt) : (c.onHall n f).free = c.free := rfl

-- what an update stores reads back

@[simp] theorem Chip.reg_setReg (c : Chip) (r : Reg) (v : Word) : (c.setReg r v).reg r = v := by
  simp [Chip.reg, Chip.setReg]
theorem Chip.reg_setReg_ne (c : Chip) {q r : Reg} (v : Word) (h : q.offset ≠ r.offset) : (c.setReg r v).reg q = c.reg q := by
  simp [Chip.reg, Chip.setReg, sget_sset_ne, h]
@[simp] theorem Chip.reg_setFld (c : Chip) (r : Reg) (f : Field) (n : Nat) : (c.setFld r f n).reg r = f.put (c.reg r) n := by
  simp [Chip.setFld]
theorem Chip.reg_setFld_ne (c : Chip) {q r : Reg} (f : Field) (n : Nat) (h : q.offset ≠ r.offset) : (c.setFld r f n).reg q = c.reg q :=
  c.reg_setReg_ne _ h
theorem Chip.reg_setBit_ne (c : Chip) {q r : Reg} (f : Field) (b : Bool) (h : q.offset ≠ r.offset) : (c.setBit r f b).reg q = c.reg q :=
  c.reg_setReg_ne _ h
theorem Chip.fld_setFld_ne (c : Chip) {q r : Reg} (f g : Field) (n : Nat) (h : q.offset ≠ r.offset) : (c.setFld r f n).fld q g = c.fld q g := by
  simp [Chip.fld, c.reg_setFld_ne f n h]
@[simp] theorem Chip.fld_setFld (c : Chip) (r : Reg) (f : Field) (n : Nat) (h : f.hi < 64) (h' : f.lo ≤ f.hi) :
    (c.setFld r f n).fld r f = n % 2 ^ f.width := by
  simp [Chip.fld, Field.get_put f _ n h h']
theorem Chip.fld_setFld_disjoint (c : Chip) (r : Reg) (f g : Field) (n : Nat) (h : f.hi < 64) (h' : f.lo ≤ f.hi) (hd : g.hi < f.lo ∨ f.hi < g.lo)
    (hg : g.lo ≤ g.hi) : (c.setFld r f n).fld r g = c.fld r g := by
  simp [Chip.fld, Field.get_put_disjoint f g _ n h h' hd hg]
@[simp] theorem Chip.hart_setHart (c : Chip) (h : Nat) (x : Hart) : (c.setHart h x).hart h = x := by simp [Chip.hart, Chip.setHart]
theorem Chip.hart_setHart_ne (c : Chip) {h k : Nat} (x : Hart) (e : k ≠ h) : (c.setHart h x).hart k = c.hart k := by
  simp [Chip.hart, Chip.setHart, sget_sset_ne, e]
@[simp] theorem Chip.hart_onHart (c : Chip) (h : Nat) (f : Hart → Hart) : (c.onHart h f).hart h = f (c.hart h) := by simp [Chip.onHart]
theorem Chip.hart_onHart_ne (c : Chip) {h k : Nat} (f : Hart → Hart) (e : k ≠ h) : (c.onHart h f).hart k = c.hart k := by
  simp [Chip.onHart, c.hart_setHart_ne _ e]
@[simp] theorem Chip.die_onDie (c : Chip) (d : Nat) (f : DieSt → DieSt) : (c.onDie d f).die d = f (c.die d) := by simp [Chip.die, Chip.onDie]
theorem Chip.die_onDie_ne (c : Chip) {d k : Nat} (f : DieSt → DieSt) (e : k ≠ d) : (c.onDie d f).die k = c.die k := by
  simp [Chip.die, Chip.onDie, sget_sset_ne, e]
@[simp] theorem Chip.hall_onHall (c : Chip) (n : Nat) (f : HallSt → HallSt) : (c.onHall n f).hall n = f (c.hall n) := by
  simp [Chip.hall, Chip.onHall]
theorem Chip.hall_onHall_ne (c : Chip) {n k : Nat} (f : HallSt → HallSt) (e : k ≠ n) : (c.onHall n f).hall k = c.hall k := by
  simp [Chip.hall, Chip.onHall, sget_sset_ne, e]

end Sys2Proof.Machine
end

