-- ==== Sys2Proof/Laws/Memory.lean ====
section
/-! SUPPORT. Memory: what is stored reads back, every other byte reads as before, and every operation that stores keeps the canonical form.
The three places where memory is written are one byte (`putByte`), the loss of package DRAM (`dropDram`) and a channel that returns to
service (`channelIn`). -/

namespace Sys2Proof.Machine

@[simp] theorem Pkg.onChip_dram (p : Pkg) (f : Chip → Chip) : (p.onChip f).dram = p.dram := rfl
@[simp] theorem Pkg.onChip_dpoison (p : Pkg) (f : Chip → Chip) : (p.onChip f).dpoison = p.dpoison := rfl
@[simp] theorem Pkg.onChip_chip (p : Pkg) (f : Chip → Chip) : (p.onChip f).chip = f p.chip := rfl
@[simp] theorem Pkg.byteAt_onChip (p : Pkg) (f : Chip → Chip) (a : Nat) : (p.onChip f).byteAt a = p.byteAt a := rfl
@[simp] theorem Pkg.putByte_chip (p : Pkg) (a : Nat) (b : Byte) : (p.putByte a b).chip = p.chip := rfl
@[simp] theorem Pkg.putByte_dpoison (p : Pkg) (a : Nat) (b : Byte) : (p.putByte a b).dpoison = p.dpoison := rfl
@[simp] theorem Pkg.setPoison_chip (p : Pkg) (l : Nat) (b : Bool) : (p.setPoison l b).chip = p.chip := rfl
@[simp] theorem Pkg.setPoison_dram (p : Pkg) (l : Nat) (b : Bool) : (p.setPoison l b).dram = p.dram := rfl

-- one byte

@[simp] theorem Pkg.byteAt_putByte (p : Pkg) (a : Nat) (b : Byte) : (p.putByte a b).byteAt a = b := by
  simp [Pkg.byteAt, Pkg.putByte]
theorem Pkg.byteAt_putByte_ne (p : Pkg) {x a : Nat} (b : Byte) (h : x ≠ a) : (p.putByte a b).byteAt x = p.byteAt x := by
  simp [Pkg.byteAt, Pkg.putByte, sget_sset_ne _ _ h]
theorem Pkg.putByte_wf {p : Pkg} (h : Memory.wf p.dram) (a : Nat) (b : Byte) : Memory.wf (p.putByte a b).dram := sset_wf h a b

-- what is done for each of n numbers

theorem forUpTo_inv {α : Type} (P : α → Prop) (n : Nat) (f : Nat → α → α) (a : α) (h : P a) (hf : ∀ i x, P x → P (f i x)) :
    P (forUpTo n f a) := by
  unfold forUpTo
  induction List.range n generalizing a with
  | nil => exact h
  | cons i l ih => exact ih _ (hf i a h)

theorem forUpTo_succ {α : Type} (n : Nat) (f : Nat → α → α) (a : α) : forUpTo (n + 1) f a = f n (forUpTo n f a) := by
  simp [forUpTo, List.range_succ]

-- one line

@[simp] theorem Pkg.putLine_chip (p : Pkg) (l : Nat) (v : Line) : (p.putLine l v).chip = p.chip :=
  forUpTo_inv (fun (q : Pkg) => q.chip = p.chip) _ _ _ rfl (fun _ _ h => h)
@[simp] theorem Pkg.putLine_dpoison (p : Pkg) (l : Nat) (v : Line) : (p.putLine l v).dpoison = p.dpoison :=
  forUpTo_inv (fun (q : Pkg) => q.dpoison = p.dpoison) _ _ _ rfl (fun _ _ h => h)

/-- A line's store: its 64 bytes read as the line's, every other byte as before. -/
theorem Pkg.byteAt_putLine (p : Pkg) (l : Nat) (v : Line) (a : Nat) :
    (p.putLine l v).byteAt a = if l * 64 ≤ a ∧ a < l * 64 + 64 then Line.byte v (a - l * 64) else p.byteAt a := by
  have key : ∀ n, (forUpTo n (fun k (q : Pkg) => q.putByte (l * 64 + k) (Line.byte v k)) p).byteAt a =
      if l * 64 ≤ a ∧ a < l * 64 + n then Line.byte v (a - l * 64) else p.byteAt a := by
    intro n
    induction n with
    | zero => simp [forUpTo]
    | succ n ih =>
      rw [forUpTo_succ]
      by_cases h : a = l * 64 + n
      · subst h; simp
      · rw [Pkg.byteAt_putByte_ne _ _ h, ih]
        by_cases h1 : l * 64 ≤ a ∧ a < l * 64 + n
        · rw [if_pos h1, if_pos (by omega)]
        · rw [if_neg h1, if_neg (by omega)]
  exact key 64

theorem Pkg.putLine_wf {p : Pkg} (h : Memory.wf p.dram) (l : Nat) (v : Line) : Memory.wf (p.putLine l v).dram :=
  forUpTo_inv (fun (q : Pkg) => Memory.wf q.dram) _ _ _ h (fun _ _ hq => Pkg.putByte_wf hq _ _)

/-- A write to a channel keeps the canonical form, in service or not (R323). -/
theorem Pkg.chanWrite_wf {p : Pkg} (h : Memory.wf p.dram) (l : Nat) (v : Line) (b : Bool) : Memory.wf (p.chanWrite l v b).dram := by
  unfold Pkg.chanWrite
  simp only
  split
  · split <;> simpa using Pkg.putLine_wf h l v
  · split <;> simpa using h

theorem Pkg.treadWrite_wf {p : Pkg} (h : Memory.wf p.dram) (l : Nat) (v : Line) (b : Bool) (cls : Nat) (m : Bool := false) :
    Memory.wf (p.treadWrite l v b cls m).dram := Pkg.chanWrite_wf h l v b

theorem Pkg.hcEvict_wf {p : Pkg} (h : Memory.wf p.dram) (l cls : Nat) (m : Bool := false) : Memory.wf (p.hcEvict l cls m).dram := by
  unfold Pkg.hcEvict
  split
  · exact h
  · simp only
    split
    · simpa using Pkg.treadWrite_wf h l _ _ cls m
    · simpa using h

theorem Pkg.hcAlloc_wf {p : Pkg} (h : Memory.wf p.dram) (l : Nat) (v : Line) (b d : Bool) (cls : Nat) :
    Memory.wf (p.hcAlloc l v b d cls).dram := by
  unfold Pkg.hcAlloc
  simp only
  split
  · simpa using h
  · split
    · split
      · exact Pkg.treadWrite_wf h l v b cls
      · exact h
    · split
      · exact Pkg.hcEvict_wf h _ cls
      · exact h

/-- A line fetched from memory under its region's policy keeps the canonical form (R154). -/
theorem Pkg.memFetch_wf {p : Pkg} (h : Memory.wf p.dram) (l cls : Nat) (m : Bool := false) (r : Msg := { kind := .RD_ONCE }) :
    Memory.wf (p.memFetch l cls m r).1.dram := by
  unfold Pkg.memFetch
  simp only
  split
  · exact h
  · have hq : ∀ (f : Chip → Chip) (a : Bool), Memory.wf ((if a then p.hcEvict l cls m else p).onChip f).dram := by
      intro f a; cases a
      · exact h
      · exact Pkg.hcEvict_wf h l cls m
    split
    · exact Pkg.hcAlloc_wf (hq _ _) l _ _ _ cls
    · exact hq _ _

/-- A line written to memory under its region's policy keeps the canonical form (R154). -/
theorem Pkg.memWrite_wf {p : Pkg} (h : Memory.wf p.dram) (l : Nat) (v : Line) (b : Bool) (cls : Nat) :
    Memory.wf (p.memWrite l v b cls).dram := by
  unfold Pkg.memWrite
  simp only
  split
  · split
    · exact Pkg.treadWrite_wf (p := p.onChip _) h l v b cls
    · exact Pkg.treadWrite_wf h l v b cls
  · split
    · exact h
    · exact Pkg.hcAlloc_wf h l v b true cls
    · exact Pkg.treadWrite_wf (p := p.onChip _) h l v b cls
    · exact Pkg.treadWrite_wf h l v b cls
    · split
      · exact h
      · exact Pkg.treadWrite_wf (p := p.onChip _) h l v b cls
    · exact Pkg.treadWrite_wf h l v b cls
    · exact Pkg.treadWrite_wf (p := p.onChip _) h l v b cls
    · exact Pkg.treadWrite_wf h l v b cls

theorem Pkg.rawWrite_wf {p : Pkg} (h : Memory.wf p.dram) (l : Nat) (v : Line) (b : Bool) (cls : Nat) :
    Memory.wf (p.rawWrite l v b cls).dram :=
  Pkg.memWrite_wf (p := p.onChip _) h l v b cls

/-- A fetch that takes the newest copy, or memory's where there is none, keeps the canonical form. -/
theorem Pkg.fetchOr_wf {p : Pkg} (h : Memory.wf p.dram) (x : Option (Line × Bool)) (l cls : Nat) (r : Msg := { kind := .RD_ONCE }) :
    Memory.wf (p.fetchOr x l cls r).1.dram := by
  unfold Pkg.fetchOr
  split
  · exact h
  · exact Pkg.memFetch_wf h l cls false r

theorem Pkg.coherentFetch_wf {p : Pkg} (h : Memory.wf p.dram) (l cls : Nat) (r : Msg := { kind := .RD_ONCE }) :
    Memory.wf (p.coherentFetch l cls r).1.dram := Pkg.fetchOr_wf h _ l cls r

theorem Pkg.setDirty_wf {p : Pkg} (h : Memory.wf p.dram) (n pg : Nat) (b : Bool) : Memory.wf (p.setDirty n pg b).dram := by
  unfold Pkg.setDirty
  simp only
  split
  · split <;> exact h
  · rw [Pkg.onChip_dram]
    exact Pkg.rawWrite_wf (Pkg.coherentFetch_wf h _ _) _ _ _ _

theorem Pkg.mirror_wf {p : Pkg} (h : Memory.wf p.dram) (l : Nat) (v : Line) (b : Bool) : Memory.wf (p.mirror l v b).dram := by
  unfold Pkg.mirror
  split
  · exact h
  · split
    · exact h
    · split
      · exact Pkg.setDirty_wf h _ _ _
      · split
        · split
          · exact Pkg.setDirty_wf h _ _ _
          · exact h
        · exact h

/-- A write that the home performs, mirrored or not, keeps the canonical form (R399). -/
theorem Pkg.homeWrite_wf {p : Pkg} (h : Memory.wf p.dram) (l : Nat) (v : Line) (b : Bool) (cls : Nat) :
    Memory.wf (p.homeWrite l v b cls).dram :=
  Pkg.mirror_wf (Pkg.memWrite_wf h l v b cls) l v b

-- the two bulk losses

theorem Pkg.dropDram_wf {p : Pkg} (h : Memory.wf p.dram) : Memory.wf p.dropDram.dram := Sparse.wf_filter h _

theorem Pkg.channelIn_wf {p : Pkg} (h : Memory.wf p.dram) (n : Nat) : Memory.wf (p.channelIn n).dram := Sparse.wf_filter h _

end Sys2Proof.Machine
end

