-- ==== Sys2Proof/Laws/Ops.lean ====
section
/-! SUPPORT. What each shared operation of the chip can change: it is the chip with the named parts as the operation leaves them, and every
other part as it was. -/

namespace Sys2Proof.Machine

/-- A fault detected now changes what its unit holds, and the count of lost reports (R329). -/
theorem Chip.hold_frame (c : Chip) (u : Nat) (r : Report) :
    c.hold u r = { c with fcHold := (c.hold u r).fcHold, fcLost := (c.hold u r).fcLost } := by
  unfold Chip.hold
  simp only
  split
  · rfl
  · split <;> rfl

theorem Chip.report_frame (c : Chip) (u src rid w acc d a : Nat) :
    c.report u src rid w acc d a = { c with fcHold := (c.report u src rid w acc d a).fcHold, fcLost := (c.report u src rid w acc d a).fcLost } :=
  c.hold_frame u _

@[simp] theorem Chip.report_regs (c : Chip) (u src rid w acc d a : Nat) : (c.report u src rid w acc d a).regs = c.regs := by
  rw [c.report_frame]
@[simp] theorem Chip.report_reg (c : Chip) (u src rid w acc d a : Nat) (r : Reg) : (c.report u src rid w acc d a).reg r = c.reg r := by
  simp [Chip.reg]
@[simp] theorem Chip.report_fld (c : Chip) (u src rid w acc d a : Nat) (r : Reg) (f : Field) :
    (c.report u src rid w acc d a).fld r f = c.fld r f := by
  simp [Chip.fld]
@[simp] theorem Chip.report_harts (c : Chip) (u src rid w acc d a : Nat) : (c.report u src rid w acc d a).harts = c.harts := by
  rw [c.report_frame]
@[simp] theorem Chip.report_now (c : Chip) (u src rid w acc d a : Nat) : (c.report u src rid w acc d a).now = c.now := by
  rw [c.report_frame]

/-- A unit with room for one more report, and none of that source, holds it last. -/
theorem Chip.hold_new (c : Chip) (u : Nat) (r : Report) (h : (sget [] u c.fcHold).length < 16)
    (hn : ∀ x ∈ sget [] u c.fcHold, x.source ≠ r.source) :
    c.hold u r = { c with fcHold := sset [] u (sget [] u c.fcHold ++ [r]) c.fcHold } := by
  unfold Chip.hold
  simp only
  rw [if_neg, if_pos h]
  simp only [List.any_eq_true, beq_iff_eq, not_exists, not_and]
  exact hn

/-- The condition of a level source that begins changes CAUSE of its source, and what its unit holds. -/
theorem Chip.reportLevel_frame (c : Chip) (u src rid w acc d a : Nat) :
    c.reportLevel u src rid w acc d a = { c with regs := (c.setCause src true).regs, fcHold := (c.reportLevel u src rid w acc d a).fcHold
                                                 fcLost := (c.reportLevel u src rid w acc d a).fcLost } := by
  unfold Chip.reportLevel
  rw [Chip.report_frame]
  rfl

/-- A world violation changes the two violation registers and what the world controller holds (R303). -/
theorem Chip.violate_frame (c : Chip) (who : Who) (k off : Nat) :
    c.violate who k off = { c with regs := (c.violate who k off).regs, fcHold := (c.violate who k off).fcHold
                                   fcLost := (c.violate who k off).fcLost } := by
  unfold Chip.violate
  simp only
  rw [Chip.report_frame]
  split <;> rfl

theorem Chip.violate_reg_ne (c : Chip) (who : Who) (k off : Nat) {q : Reg} (h : q.offset ≠ Reg.WLD_VIOL_INFO.offset)
    (h' : q.offset ≠ Reg.WLD_VIOL_ADDR.offset) : (c.violate who k off).reg q = c.reg q := by
  unfold Chip.violate
  simp only [Chip.report_reg, Chip.bump, Chip.setBit]
  rw [Chip.reg_setFld_ne _ _ _ h']
  split
  · rw [Chip.reg_setFld_ne _ _ _ h]
  · rw [Chip.reg_setFld_ne _ _ _ h', Chip.reg_setFld_ne _ _ _ h, Chip.reg_setFld_ne _ _ _ h, Chip.reg_setFld_ne _ _ _ h,
      Chip.reg_setFld_ne _ _ _ h]

/-- An occurrence of an event source forms an MSI, sets PENDING of its entry, or does nothing (R77, R79, R292). -/
theorem Chip.raiseEvent_cases (c : Chip) (n : Nat) :
    c.raiseEvent n = c ∨ c.raiseEvent n = c.formMsi n ∨ c.raiseEvent n = c.nextFree ∨ c.raiseEvent n = c.nextFree.formMsi n
      ∨ c.raiseEvent n = c.setBit (.EVR_SRC n) F.EVR_SRC_PENDING true := by
  unfold Chip.raiseEvent
  split
  · simp
  · split
    · split
      · split <;> simp
      · simp
    · simp

theorem Chip.raiseEvent_frame (c : Chip) (n : Nat) :
    c.raiseEvent n = { c with regs := (c.raiseEvent n).regs, msi := (c.raiseEvent n).msi, free := (c.raiseEvent n).free } := by
  rcases c.raiseEvent_cases n with h | h | h | h | h <;> rw [h] <;> rfl

/-- A write that a world may make has its effect; any other is a world violation. -/
theorem Chip.ifMay_of_true {ok : Bool} (c : Chip) (who : Who) (r : Reg) (f : Chip → Chip) (h : ok = true) : c.ifMay ok who r f = f c := by
  simp [Chip.ifMay, h]
theorem Chip.ifMay_of_false {ok : Bool} (c : Chip) (who : Who) (r : Reg) (f : Chip → Chip) (h : ok = false) :
    c.ifMay ok who r f = c.refuseWrite who r := by
  simp [Chip.ifMay, h]

end Sys2Proof.Machine
end

