-- ==== Sys2Proof/Machine/Contacts.lean ====
section
/-! DEFINITION. The contact array (spec/19_signals_and_package.md, R440 to R447, R450): what the contact at a row and a column
carries. It is a table of the package, read by no command: the pins that commands move are in State. -/

namespace Sys2Proof.Machine

/-- The pins of row 66, columns 31 to 44 (R450). -/
inductive CtlPin where
  | refclkP | refclkN | pwrgdStby | resetN | thermtripN | droopN | errNotifyN | errContainN | errSafeN | pairAliveI | pairAliveO
  | pairRole0 | pairRole1 | mfgMode
  deriving DecidableEq, Repr

/-- The pins of row 68, columns 31 to 58 (R446). -/
inductive UzPin where
  | spiClk | spiCsN | spiIo (i : Nat) | i3cScl (bus : Nat) | i3cSda (bus : Nat) | smbClk | smbDat | smbAlertN | ncsiRefClk
  | ncsiTxd (i : Nat) | ncsiTxEn | ncsiRxd (i : Nat) | ncsiCrsDv | ncsiRxEr | uartTx | uartRx | tck | tms | tdi | tdo | trstN
  deriving DecidableEq, Repr

/-- What a contact carries (R441). Rails are numbered as in R416, with 16 for VAUX_0 and 17 for VAUX_1; stations 0 to 9 are P_n,
10 and 11 are Q_0 and Q_1; `neg` is the complement of a differential pair. -/
inductive Contact where
  | dq (hall sub n : Nat)
  | dqs (hall sub dev : Nat) (neg : Bool)
  | ca (hall sub n : Nat)
  | csN (hall sub n : Nat)
  | ck (hall sub : Nat) (neg : Bool)
  | dresetN (hall : Nat)
  | dalertN (hall sub : Nat)
  | lbdq (hall sub : Nat)
  | lbdqs (hall sub : Nat)
  | tx (station lane : Nat) (neg : Bool)
  | rx (station lane : Nat) (neg : Bool)
  | ssbCk (station : Nat)
  | ssbDq (station : Nat)
  | wakeN (station : Nat)
  | uz (pin : UzPin)
  | control (pin : CtlPin)
  | sense (rail : Nat) (neg : Bool)
  | power (rail : Nat)
  | reserved
  | ground
  deriving DecidableEq, Repr

/-- The pins of row 66 in column order. -/
def ctlPins : List CtlPin :=
  [.refclkP, .refclkN, .pwrgdStby, .resetN, .thermtripN, .droopN, .errNotifyN, .errContainN, .errSafeN, .pairAliveI, .pairAliveO,
    .pairRole0, .pairRole1, .mfgMode]

/-- The pins of row 68 in column order. -/
def uzPins : List UzPin :=
  [.spiClk, .spiCsN, .spiIo 0, .spiIo 1, .spiIo 2, .spiIo 3, .i3cScl 0, .i3cSda 0, .i3cScl 1, .i3cSda 1, .smbClk, .smbDat,
    .smbAlertN, .ncsiRefClk, .ncsiTxd 0, .ncsiTxd 1, .ncsiTxEn, .ncsiRxd 0, .ncsiRxd 1, .ncsiCrsDv, .ncsiRxEr, .uartTx, .uartRx,
    .tck, .tms, .tdi, .tdo, .trstN]

/-- Block row b and column c (1 to 6) of a subchannel (R443): ten device rows, then CA, CS_N and CK. -/
def subchannelContact (hall sub b c : Nat) : Contact :=
  if b ≤ 10 then
    let d := b - 1
    match c with
    | 1 => .dq hall sub (4 * d)
    | 2 => .dq hall sub (4 * d + 1)
    | 3 => .dqs hall sub d false
    | 4 => .dqs hall sub d true
    | 5 => .dq hall sub (4 * d + 2)
    | _ => .dq hall sub (4 * d + 3)
  else
    let i := 6 * (b - 11) + (c - 1)
    if i < 14 then .ca hall sub i
    else if i < 16 then .csN hall sub (i - 14)
    else if i < 18 then .ck hall sub (i == 17)
    else .ground

/-- Block row b and block column c of a channel (R443). -/
def channelContact (hall b c : Nat) : Contact :=
  if c ≤ 6 then subchannelContact hall 0 b c
  else if 8 ≤ c then subchannelContact hall 1 b (c - 7)
  else match b with
    | 1 => .dresetN hall
    | 2 => .dalertN hall 0
    | 3 => .dalertN hall 1
    | 4 => .lbdq hall 0
    | 5 => .lbdqs hall 0
    | 6 => .lbdq hall 1
    | 7 => .lbdqs hall 1
    | _ => .ground

/-- Block row b and block column c of a station (R444). -/
def stationContact (station b c : Nat) : Contact :=
  let lane := 2 * (b - 1) + (c - 1) / 6
  match (c - 1) % 6 with
  | 0 => .tx station lane false
  | 1 => .tx station lane true
  | 3 => .rx station lane false
  | 4 => .rx station lane true
  | _ => .ground

/-- The station of row band i (0 to 5) on a side (R442): P_0 to P_4 and Q_0 west, P_5 to P_9 and Q_1 east. -/
def bandStation (i : Nat) (east : Bool) : Nat := if i = 5 then (if east then 11 else 10) else if east then i + 5 else i

/-- The sideband contacts of P_n (R444): SSB_CK, SSB_DQ and WAKE_N in the first three rows of its block. -/
def sidebandContact (station b : Nat) : Contact :=
  if 10 ≤ station then .ground
  else match b with
    | 1 => .ssbCk station
    | 2 => .ssbDq station
    | 3 => .wakeN station
    | _ => .ground

/-- The columns of [a, b) in a row whose row plus column is even. -/
def evenCols (r a b : Nat) : Nat := (b + 1 - r % 2) / 2 - (a + 1 - r % 2) / 2

/-- A power area (R445): its rail, rows, columns and count. -/
structure PowerArea where
  rail : Nat
  row0 : Nat
  row1 : Nat
  col0 : Nat
  col1 : Nat
  count : Nat
  deriving DecidableEq, Repr

/-- A position lies in an area. -/
def PowerArea.has (p : PowerArea) (r c : Nat) : Bool := p.row0 ≤ r && r ≤ p.row1 && p.col0 ≤ c && c ≤ p.col1

/-- The rail takes the positions of an area whose row plus column is even, in ascending row and then column order, up to its
count; the others are ground. -/
def PowerArea.contact (p : PowerArea) (r c : Nat) : Contact :=
  let before := (List.range (r - p.row0)).foldl (fun a i => a + evenCols (p.row0 + i) p.col0 (p.col1 + 1)) 0
    + evenCols r p.col0 c
  if (r + c) % 2 = 0 ∧ before < p.count then .power p.rail else .ground

/-- The power areas (R445). -/
def powerAreas : List PowerArea :=
  (List.range 6).map (fun k => { rail := k, row0 := 17, row1 := 32, col0 := 15 + 13 * k, col1 := 27 + 13 * k, count := 96 })
    ++ (List.range 6).map (fun k =>
      { rail := 6 + k, row0 := 49, row1 := 64, col0 := 15 + 13 * k, col1 := 27 + 13 * k, count := 96 })
    ++ [{ rail := 12, row0 := 33, row1 := 48, col0 := 15, col1 := 92, count := 288 },
      { rail := 13, row0 := 15, row1 := 16, col0 := 2, col1 := 105, count := 20 },
      { rail := 13, row0 := 73, row1 := 74, col0 := 2, col1 := 105, count := 20 },
      { rail := 14, row0 := 17, row1 := 64, col0 := 14, col1 := 14, count := 24 },
      { rail := 14, row0 := 17, row1 := 64, col0 := 95, col1 := 95, count := 24 },
      { rail := 15, row0 := 65, row1 := 66, col0 := 1, col1 := 12, count := 8 },
      { rail := 15, row0 := 65, row1 := 66, col0 := 97, col1 := 108, count := 8 },
      { rail := 16, row0 := 67, row1 := 67, col0 := 31, col1 := 46, count := 8 },
      { rail := 17, row0 := 67, row1 := 67, col0 := 47, col1 := 54, count := 4 }]

/-- The contact at a row and a column (R440, R442): every position that no group takes is ground, and none lies outside 88 rows
and 108 columns. -/
def contactAt (r c : Nat) : Option Contact :=
  if r < 1 ∨ 88 < r ∨ c < 1 ∨ 108 < c then none
  else some (
    if r ≤ 14 ∧ 2 ≤ c ∧ c ≤ 105 then channelContact ((c - 2) / 13) r ((c - 2) % 13 + 1)
    else if 75 ≤ r ∧ 2 ≤ c ∧ c ≤ 105 then channelContact (8 + (c - 2) / 13) (89 - r) ((c - 2) % 13 + 1)
    else if 17 ≤ r ∧ r ≤ 64 ∧ c ≤ 12 then stationContact (bandStation ((r - 17) / 8) false) ((r - 17) % 8 + 1) c
    else if 17 ≤ r ∧ r ≤ 64 ∧ 97 ≤ c then stationContact (bandStation ((r - 17) / 8) true) ((r - 17) % 8 + 1) (109 - c)
    else if 17 ≤ r ∧ r ≤ 64 ∧ c = 13 then sidebandContact (bandStation ((r - 17) / 8) false) ((r - 17) % 8 + 1)
    else if 17 ≤ r ∧ r ≤ 64 ∧ c = 96 then sidebandContact (bandStation ((r - 17) / 8) true) ((r - 17) % 8 + 1)
    else if r = 69 ∧ 31 ≤ c ∧ c ≤ 70 ∨ r = 71 ∨ r = 72 then .reserved
    else if r = 66 ∧ 31 ≤ c ∧ c ≤ 44 then (match ctlPins[c - 31]? with | some p => .control p | none => .ground)
    else if r = 68 ∧ 31 ≤ c ∧ c ≤ 58 then (match uzPins[c - 31]? with | some p => .uz p | none => .ground)
    else if r = 70 ∧ 31 ≤ c ∧ c ≤ 62 then .sense ((c - 31) / 2) ((c - 31) % 2 == 1)
    else match powerAreas.find? (fun p => p.has r c) with
      | some p => p.contact r c
      | none => .ground)

/-- The contacts of a kind. -/
def contactCount (sel : Contact → Bool) : Nat :=
  (List.range 88).foldl (fun a r => a + ((List.range 108).filter (fun c => (contactAt (r + 1) (c + 1)).any sel)).length) 0

end Sys2Proof.Machine
end

