-- ==== Sys2Proof/Tests/Slice0.lean ====
section
/-! SUPPORT. The model's own tests: an ill-formed term for each operand check, a concrete state and operands for the hypotheses of every
statement, with what the command answers there, and a few values worked out by hand from the spec. -/

set_option Elab.async false

namespace Sys2Proof.Tests
open Sys2Proof.Machine

/-- The state whose chip is c, with memory and the queue as at reset. -/
def st (c : Chip) : State := { State.reset with chip := c }

/-- The command leaves the chip as c, and memory and the queue as they were. -/
def gives (i : Instr) (s : State) (c : Chip) : Bool :=
  match exec i s with
  | .next t => t = { s with chip := c }
  | _ => false

/-- The command leaves the package as p. -/
def givesPkg (i : Instr) (s : State) (p : Pkg) : Bool :=
  match exec i s with
  | .next t => t = { s with toPkg := p }
  | _ => false

/-- The command answers a next state of which q holds. -/
def answers (i : Instr) (s : State) (q : State → Bool) : Bool :=
  match exec i s with
  | .next t => q t
  | _ => false

/-- W1, W5 and Uzomuris as writers. -/
def w1 : Who := { rid := 0, world := 1 }
def w5 : Who := { rid := 0, world := 5 }

/-- A line of an L2 in a state, of world 1. -/
def lineIn (s : Moesi) (data : Line := 0) : L2Line := { st := s, world := 1, data := data, poison := false, hold := none, pinned := false }

/-- Sixteen halls of 16 GiB, dies 0 to 11 running, every logical core bound to the physical core of its number, hart 0 running in M-mode in
W1 with x5 = 7. -/
def up : Chip :=
  let c := { Chip.reset with harts := [(0, { Hart.reset with run := .running, x := [(5, 7)], csr := [(csrMworld, 0x11), (csrMstatus, 0x1E600)] })] }
  let c := c.setFld .PKG_ADDR_MAP F.PKG_ADDR_MAP_HALL_CAP_GIB 16
  let c := forUpTo 12 (fun d x => x.setFld (.PKG_DIE_STATUS d) F.PKG_DIE_STATUS_STATE 2) c
  let c := forUpTo 12 (fun i x => (x.setFld (.CD_CORE_MAP_0 0) (F.CD_CORE_MAP_0_PHYS i) i).setFld (.CD_CORE_MAP_1 0) (F.CD_CORE_MAP_1_PHYS i) (12 + i)) c
  forUpTo 16 (fun n x => x.setBit (.HALL_FLIGHT_STATUS n) F.HALL_FLIGHT_STATUS_IN_SERVICE true) c

/-- The ports of the halls are open. -/
def openHalls (c : Chip) : Chip := forUpTo 16 (fun n x => x.openAttach (.hall n)) c

/-- Hart 0 is free where a computation says so. -/
theorem free0 (c : Chip) (e : (c.hart 0).run = .running ∧ (c.hart 0).hq = [] ∧ (c.hart 0).irqWait = none ∧ (c.hart 0).haltWait = none
    ∧ (c.hart 0).csrBit csrDcsr 2 = false ∧ (c.hart 0).awaits = [] ∧ (c.hart 0).got = [] ∧ (c.hart 0).xlat = []) : c.Free 0 :=
  ⟨by decide, e.1, e.2.1, e.2.2.1, e.2.2.2.1, e.2.2.2.2.1, e.2.2.2.2.2.1, e.2.2.2.2.2.2.1, e.2.2.2.2.2.2.2⟩

theorem up_free : up.Free 0 := free0 up (by decide +kernel)

-- the block

theorem witness_step : ({ State.reset with pending := [.fence 0 1 1] } : State).pending = [.fence 0 1 1] := rfl
theorem witness_idle : State.reset.pending = [] := rfl
theorem witness_wellFormed : (Instr.eventOccurrence 3).wellFormed = true ∧ (Instr.eventOccurrence 2048).wellFormed = false := by decide
theorem witness_frame : (∃ t, exec (.eventOccurrence 3) State.reset = .next t) ∧ reachesMemory (.eventOccurrence 3) = false := ⟨⟨_, rfl⟩, rfl⟩
theorem test_reset_inv : State.reset.Inv := by simp [State.Inv, Memory.wf, Sparse.wf, State.reset, Pkg.reset]
theorem step_reset : step State.reset = State.reset.onChip Chip.tick := by unfold step; rw [witness_idle]
theorem onChip_next (s : State) (f : Chip → Chip) : ∃ t, s.onChip f = .next t := ⟨_, rfl⟩
theorem witness_keeps : State.reset.Inv ∧ ∃ t, step State.reset = .next t := ⟨test_reset_inv, step_reset ▸ onChip_next _ _⟩

-- harts


/-- The line of bytes 1, 2, 3 … -/
def count : Line := Line.ofBytes (fun k => BitVec.ofNat 8 (k + 1))

/-- Hart 0's L2 holds the line of address 0x1000 in a state. -/
def holding (s : Moesi) : Chip := up.setL2 0 0x40 (lineIn s count)

theorem holding_free (s : Moesi) : (holding s).Free 0 := by
  cases s <;> exact free0 _ (by decide +kernel)

def i1 : Instr := .load 0 (.x 6) 0x1008 8 false none
theorem witness_load : let c := (holding .S).given 0 i1
    hregOk (.x 6) 8 = true ∧ (c.hart 0).regOn (.x 6) = true ∧ c.translate 0 0x1008 1 1 = (c, .pa 0x1008)
    ∧ c.translate 0 0x1008 8 1 = (c, .pa 0x1008) ∧ c.Holds 0 0x1008 (lineIn .S count) := by
  refine ⟨by decide +kernel, by decide +kernel, by decide +kernel, by decide +kernel, ?_⟩
  exact ⟨by decide +kernel, by decide +kernel, by decide +kernel, by decide +kernel, by decide +kernel, by decide +kernel⟩
/-- Bytes 9 to 16 of the line, little-endian. -/
theorem test_load : answers i1 (st (holding .S)) (fun t => (t.chip.hart 0).xr 6 == 0x100F0E0D0C0B0A09) = true := by decide +kernel

def i2 : Instr := .store 0 (.x 5) 0x1008 8 none
theorem witness_store : let c := (holding .E).given 0 i2
    hregOk (.x 5) 8 = true ∧ (c.hart 0).regOn (.x 5) = true ∧ c.translate 0 0x1008 1 2 = (c, .pa 0x1008)
    ∧ c.translate 0 0x1008 8 2 = (c, .pa 0x1008) ∧ c.Owns 0 0x1008 (lineIn .E count) := by
  refine ⟨by decide +kernel, by decide +kernel, by decide +kernel, by decide +kernel, ?_, by decide⟩
  exact ⟨by decide +kernel, by decide +kernel, by decide +kernel, by decide +kernel, by decide +kernel, by decide +kernel⟩
theorem test_store : answers i2 (st (holding .E)) (fun t => Line.slice (t.chip.l2at 0 0x40).data 8 8 == 7
    && (t.chip.l2at 0 0x40).st == .M && Line.slice (t.chip.l2at 0 0x40).data 0 8 == 0x0807060504030201) = true := by decide +kernel

/-- Wrong bits in the word of the L2 data array that a load reads: R306's single bit, and the corners of a rectangle. -/
def wrongBits (l : List Nat) : ArrErr := { array := 4, inst := 0, bank := 0, loc := 5, bits := l, rowPar := [], colPar := [] }
theorem witness_arrayError : errOk (some (wrongBits [64])) = true ∧ errOk (some (wrongBits [64, 65, 96, 97])) = true
    ∧ ((holding .E).hart 0).run = .running ∧ (holding .E).lineOfAccess 0 0x1008 1 = some 0x40
    ∧ (holding .E).lineOfAccess 0 0x1008 2 = some 0x40 ∧ ((State.reset.chip).hart 0).run ≠ .running := by decide +kernel
theorem test_arrayCorrected : answers (.load 0 (.x 6) 0x1008 8 false (some (wrongBits [64]))) (st (holding .S)) (fun t =>
    (t.chip.hart 0).xr 6 == 0x100F0E0D0C0B0A09 && (t.chip.bank (bankKey 4 0 0)).corr == 1) = true := by decide +kernel
theorem test_arrayEscape : answers (.load 0 (.x 6) 0x1008 8 false (some (wrongBits [64, 65, 96, 97]))) (st (holding .S)) (fun t =>
    (t.chip.hart 0).xr 6 == 0x100F0E0E0C0B0A0A && (t.chip.bank (bankKey 4 0 0)).corr == 0) = true := by decide +kernel
theorem witness_rcp : (2 < (wrongBits [64]).array ∧ 511 < 16 * 32) ∧ arrayGrid 1 = (8, 64) := by decide

def i3 : Instr := .amo 0 .add 6 5 0x1008 8
theorem witness_amo : let c := (holding .E).given 0 i3
    amoOk .add 6 5 8 = true ∧ c.translate 0 0x1008 8 2 = (c, .pa 0x1008) ∧ c.Owns 0 0x1008 (lineIn .E count) := by
  refine ⟨by decide +kernel, by decide +kernel, ?_, by decide⟩
  exact ⟨by decide +kernel, by decide +kernel, by decide +kernel, by decide +kernel, by decide +kernel, by decide +kernel⟩
theorem test_amo : answers i3 (st (holding .E)) (fun t => (t.chip.hart 0).xr 6 == 0x100F0E0D0C0B0A09
    && Line.slice (t.chip.l2at 0 0x40).data 8 8 == 0x100F0E0D0C0B0A10) = true := by decide +kernel
def i4 : Instr := .amo 0 .cas 6 8 0x1000 16
theorem witness_cas : amoOk .cas 6 8 16 = true ∧ bitAt ((up.onDie 0 (fun x => { x with capEn := 256 })).die (hartDie 0)).capEn 8 = true := by
  decide +kernel

def i5 : Instr := .lr 0 6 0x1008 8
theorem witness_lr : let c := (holding .E).given 0 i5
    c.translate 0 0x1008 8 1 = (c, .pa 0x1008) ∧ c.Owns 0 0x1008 (lineIn .E count) := by
  refine ⟨by decide +kernel, ?_, by decide⟩
  exact ⟨by decide +kernel, by decide +kernel, by decide +kernel, by decide +kernel, by decide +kernel, by decide +kernel⟩
def i6 : Instr := .sc 0 6 5 0x1008 8
theorem witness_sc : let c := (holding .E).given 0 i6
    c.translate 0 0x1008 8 2 = (c, .pa 0x1008) ∧ c.Owns 0 0x1008 (lineIn .E count) ∧ (c.hart 0).resv ≠ some 0x40
    ∧ (((holding .E).onHart 0 (fun x => { x with resv := some 0x40 })).hart 0).resv = some 0x40 := by
  refine ⟨by decide +kernel, ⟨?_, by decide⟩, by decide +kernel, by decide +kernel⟩
  exact ⟨by decide +kernel, by decide +kernel, by decide +kernel, by decide +kernel, by decide +kernel, by decide +kernel⟩
theorem test_sc : answers i6 (st (holding .E)) (fun t => (t.chip.hart 0).xr 6 == 1 && (t.chip.l2at 0 0x40).data == count)
    && answers i6 (st ((holding .E).onHart 0 (fun x => { x with resv := some 0x40 }))) (fun t => (t.chip.hart 0).xr 6 == 0
      && Line.slice (t.chip.l2at 0 0x40).data 8 8 == 7 && (t.chip.hart 0).resv == none) = true := by decide +kernel

def i7 : Instr := .instructionFetch 0 0x1006
theorem witness_fetch : let c := (((holding .S).given 0 i7).resolve 0 0x1006).onHart 0 (fun x => { x with pc := 0x1006, fetched := none })
    c.translate 0 0x1006 2 0 = (c, .pa 0x1006) ∧ c.Holds 0 0x1006 (lineIn .S count) ∧ isWide (Line.slice count 6 2) = true
    ∧ isWide (Line.slice count 8 2) = false := by
  refine ⟨by decide +kernel, ?_, by decide +kernel, by decide +kernel⟩
  exact ⟨by decide +kernel, by decide +kernel, by decide +kernel, by decide +kernel, by decide +kernel, by decide +kernel⟩
theorem witness_fetch2 : let c := (((holding .S).given 0 i7).resolve 0 0x1006).onHart 0 (fun x => { x with pc := 0x1006, fetched := none })
    let c1 := ((c.useL2 0 0x40).fillL1i 0 0x40).noteGot 0 0 (Line.slice count 6 2)
    c1.translate 0 0x1008 2 0 = (c1, .pa 0x1008) ∧ c1.Holds 0 0x1008 (lineIn .S count)
    ∧ tileUndefined (Line.slice count 6 2 + 65536 * Line.slice count 8 2) = false ∧ tileUndefined 0xFE00702B = true := by
  refine ⟨by decide +kernel, ?_, by decide +kernel, by decide +kernel⟩
  exact ⟨by decide +kernel, by decide +kernel, by decide +kernel, by decide +kernel, by decide +kernel, by decide +kernel⟩
/-- The bytes 7, 8, 9 and 10 are one instruction word. -/
theorem test_fetch : answers i7 (st (holding .S)) (fun t => (t.chip.hart 0).fetched == some (0x1006, 0x0A090807)) = true := by decide +kernel
def i8 : Instr := .cboFlush 0 0x1000
theorem witness_cbo : let c := up.given 0 i8
    (c.hart 0).priv = 3 ∧ (c.hart 0).csrBit csrMstatus 17 = false ∧ (c.hart 0).refusal = none ∧ (c.hart 0).io = none ∧ c.translate 0 0x1000 1 1 = (c, .pa 0x1000)
    ∧ (c.region 0x1000).homed = true ∧ c.missOf (hartDie 0) (0x1000 / 64) = none := by decide +kernel
theorem test_cbo : answers i8 (st up) (fun t => t.chip.net.map (fun m => (m.kind, m.line, m.acc)) == [(.CMO_FLUSH, 0x40, 7)]) = true := by
  decide +kernel
def i9 : Instr := .cboZero 0 0x1008
theorem witness_cboZero : let c := (holding .M).given 0 i9
    (c.hart 0).priv = 3 ∧ (c.hart 0).csrBit csrMstatus 17 = false ∧ c.translate 0 (BitVec.ofNat 64 (0x1008 / 64 * 64)) 64 2 = (c, .pa 0x1000)
    ∧ c.Owns 0 0x1000 (lineIn .M count) := by
  refine ⟨by decide +kernel, by decide +kernel, by decide +kernel, ?_, by decide⟩
  exact ⟨by decide +kernel, by decide +kernel, by decide +kernel, by decide +kernel, by decide +kernel, by decide +kernel⟩
def streaming : Chip := up.onHart 0 (fun x => ((x.l1dTrain 0x1080).l1dTrain 0x1100).l1dTrain 0x1180)
theorem witness_prefetch : let c := streaming.countEvent 0 0x30
    (streaming.hart 0).run = .running ∧ (streaming.hart 0).streamTrained 0x1180 0x1200 = true ∧ 0x1180 / 4096 = 0x1200 / 4096
    ∧ (streaming.region 0x1200).homed = true ∧ c.holders (hartDie 0) (0x1200 / 64) = [] ∧ c.lndLive (hartDie 0) (0x1200 / 64) = none
    ∧ c.wbAny (hartDie 0) (0x1200 / 64) = none := by decide +kernel
theorem witness_prefetchWorld : streaming.hitWorld 0 0x48 = none ∧ streaming.wbAny (hartDie 0) 0x48 = none ∧ (streaming.hart 0).world = 1
    ∧ (streaming.setL2 0 0x48 { lineIn .S with world := 5 }).hitWorld 0 0x48 = some 5 := by decide +kernel
theorem test_prefetch : answers (.prefetchIssue 0 0x1180 0x1200) (st streaming) (fun t => t.chip.net.map (fun m => m.line) == [0x48])
    && gives (.prefetchIssue 0 0x1FC0 0x2000) (st streaming) streaming = true := by decide +kernel

/-- Hart 0 with CSRs and a privilege of its own. -/
def at_ (priv : Nat) (csrs : List (Nat × Word)) : Chip :=
  up.onHart 0 (fun x => { x with priv := priv, csr := csrs.foldl (fun m e => sset (Hart.reset.getCsr e.1) e.1 e.2 m) x.csr })
theorem witness_mret : let c := at_ 3 [(csrMepc, 0x8000), (csrMstatus, 0x0), (csrMworld, 0x1151)]
    c.Free 0 ∧ (at_ 0 []).Free 0 ∧ (c.hart 0).priv = 3 ∧ (c.hart 0).haltPending = false ∧ (c.hart 0).csrBits csrMstatus 12 11 ≠ 3
    ∧ (c.hart 0).csrBit csrMworld 12 = true ∧ (up.hart 0).csrBits csrMstatus 12 11 = 0
    ∧ ((at_ 3 [(csrMstatus, 0x1800)]).hart 0).csrBits csrMstatus 12 11 = 3
    ∧ ((at_ 3 [(csrMstatus, 0x1000)]).hart 0).csrBits csrMstatus 12 11 = 2 ∧ ((at_ 0 []).hart 0).priv < 3 :=
  ⟨free0 _ (by decide +kernel), free0 _ (by decide +kernel), by decide +kernel⟩
def clears (c : Chip) (w : Nat) : Bool :=
  (c.hart 0).csrBit csrMworld 12 || (w != (c.hart 0).world && c.bit (.WLD_WORLD_CFG w) F.WLD_WORLD_CFG_CLEAR_ON_ENTRY)
theorem witness_mretWorld : let c := at_ 3 [(csrMworld, 0x51)]
    clears c 5 = false ∧ clears (c.setBit (.WLD_WORLD_CFG 5) F.WLD_WORLD_CFG_CLEAR_ON_ENTRY true) 5 = true
    ∧ ((c.onHart 0 (fun x => { x with haltPending := true })).hart 0).haltPending = true := by decide +kernel
theorem test_mret : answers (.mret 0) (st (at_ 3 [(csrMepc, 0x8000), (csrMstatus, 0x0), (csrMworld, 0x1151)])) (fun t =>
    (t.chip.hart 0).world == 5 && (t.chip.hart 0).priv == 0 && (t.chip.hart 0).pc == 0x8000 && (t.chip.hart 0).run == .clearing)
    && answers (.mret 0) (st ((at_ 3 [(csrMstatus, 0x80), (csrMworld, 0x51)]).setBit (.WLD_WORLD_CFG 5) F.WLD_WORLD_CFG_GUARD_TILE true)) (fun t =>
      (t.chip.hart 0).run == .running && (t.chip.hart 0).csrBit csrMstatus 3 && (t.chip.hart 0).csrBit csrTcsr 16) = true := by
  decide +kernel
theorem witness_clearing : let c := up.onHart 0 (fun x => { x with run := .clearing })
    (c.hart 0).run = .clearing ∧ (c.hart 0).hq = [] ∧ (c.hart 0).irqWait = none ∧ (c.hart 0).haltWait = none ∧ (c.hart 0).haltPending = false
    ∧ ((c.onHart 0 (fun x => { x with haltPending := true })).hart 0).haltPending = true ∧ (up.hart 0).run = .running := by decide +kernel
theorem test_clearing : answers (.predictorClearDone 0) (st (up.onHart 0 (fun x => { x.putBit csrMworld 13 true with run := .clearing })))
    (fun t => (t.chip.hart 0).run == .running && !(t.chip.hart 0).csrBit csrMworld 13) = true := by decide +kernel
def brk : TrapInfo := { cause := 3, tval := 0x1234 }
theorem witness_trap : ((at_ 0 [(csrMworld, 0x1055)]).hart 0).trapTarget brk = (3, false)
    ∧ ((at_ 0 [(csrMworld, 0x1055)]).hart 0).haltPending = false ∧ ((at_ 0 [(csrMworld, 0x1055)]).hart 0).csrBit csrDcsr 2 = false ∧ brk.check = none := by decide +kernel
theorem witness_vendor : (up.hart 0).priv = 3 ∧ ((at_ 0 []).hart 0).priv < 3 ∧ 1 ≤ (up.hart 0).priv ∧ (up.hart 0).virt = false
    ∧ (((at_ 1 []).onHart 0 (fun x => { x with virt := true })).hart 0).virt = true ∧ (up.hart 0).tileOn = true := by decide +kernel
/-- NEXT 2 is ignored, NEXT 7 is taken (R63). -/
theorem test_mworld : ((up.hart 0).writeMworld 0x21).getCsr csrMworld = 0x11 ∧ ((up.hart 0).writeMworld 0x7F).getCsr csrMworld = 0x71 := by
  decide +kernel

-- interrupts, events, reset, power and debug

/-- CD_MTIMECMP_0 has been reached, with MTIE set. -/
def due : Chip := (({ up with now := 5 } : Chip).setFld (.CD_MTIMECMP 0 0) F.CD_MTIMECMP_CMP 5).onHart 0 (fun x =>
  x.setCsr 0x304 0x80 |>.putBit csrMstatus 3 true)
theorem witness_interrupt : due.Free 0 ∧ due.irqReady 0 7 = true ∧ (due.hart 0).tsent = [] ∧ (due.hart 0).io = none
    ∧ (due.hart 0).trapTarget { cause := 7, int := true } = (3, false) ∧ (due.hart 0).haltPending = false ∧ due.irqReady 0 3 = false
    ∧ ((due.onHart 0 (fun x => { x with tsent := [1] })).hart 0).tsent ≠ []
    ∧ (due.onHart 0 (fun x => { x with tsent := [1] })).irqReady 0 7 = true
    ∧ (let c := due.onHart 0 (fun x => { x with hq := [.tload 0 0 5 6], xlat := [(0, 0x1000)] })
       (c.hart 0).begun = true ∧ c.irqReady 0 7 = true) := ⟨free0 _ (by decide +kernel), by decide +kernel⟩
theorem witness_interruptWaits : (due.onHart 0 (fun x => { x with tsent := [1] })).Free 0 := free0 _ (by decide +kernel)
theorem test_interrupt : answers (.interruptTaken 0 7) (st due) (fun t => (t.chip.hart 0).getCsr csrMcause == 0x8000000000000007
    && (t.chip.hart 0).world == 1 && (t.chip.hart 0).getCsr csrMepc == (due.hart 0).pc && !(t.chip.hart 0).csrBit csrMstatus 3) = true := by
  decide +kernel
def dueWfi : Chip := due.onHart 0 (fun x => { x with run := .wfi })
theorem witness_wfi : up.Free 0 ∧ due.Free 0 ∧ (up.hart 0).priv = 3 ∧ ((at_ 1 []).hart 0).csrBit csrMstatus 21 = false ∧ (up.hart 0).virt = false
    ∧ up.mip 0 &&& up.mie 0 = 0 ∧ due.mip 0 &&& due.mie 0 ≠ 0 ∧ (dueWfi.hart 0).run = .wfi ∧ dueWfi.mip 0 &&& dueWfi.mie 0 ≠ 0
    ∧ (dueWfi.hart 0).hq = [] ∧ (dueWfi.hart 0).irqWait = none ∧ (dueWfi.hart 0).haltWait = none :=
  ⟨up_free, free0 _ (by decide +kernel), by decide +kernel⟩
/-- CD_MTIMECMP_0 of 5 at package time 5: MTIP. -/
theorem test_wfi : answers (.machineTimerInterrupt 0) (st dueWfi) (fun t => (t.chip.hart 0).run == .running && bitAt (t.chip.mip 0) 7)
    && answers (.wfi 0) (st up) (fun t => (t.chip.hart 0).run == .wfi) && answers (.wfi 0) (st due) (fun t => (t.chip.hart 0).run == .running)
    = true := by decide +kernel
/-- Source 3 enabled for file 1 of hart 0, identity 9; the file belongs to world 0. -/
def entry : Word := F.EVR_SRC_IDENTITY.put (F.EVR_SRC_FILE.put (F.EVR_SRC_ENABLE.put 0 1) 1) 9
def routed : Chip := up.setReg (.EVR_SRC 3) entry
theorem witness_events : up.fld (.WLD_SRC_OWN 3) F.WLD_OWN_STATE = 0 ∧ up.bit (.EVR_SRC 3) F.EVR_SRC_ENABLE = false
    ∧ routed.bit (.EVR_SRC 3) F.EVR_SRC_ENABLE = true ∧ routed.msi.any (fun e => e.1 == 3) = false
    ∧ 288 ≤ F.EVR_SRC_HART.get (F.EVR_SRC_HART.put entry 300) := by decide +kernel
def mine3 : Chip := (routed.setFld (.WLD_SRC_OWN 3) F.WLD_OWN_OWNER 5).setFld (.CD_IMSIC_OWNER 0 0) (F.CD_IMSIC_OWNER_OWN 1) 5
theorem witness_msi : ({ mine3 with msi := [] } : Chip).msiDropReason (mine3.srcEntry 3) = 0 ∧ (mine3.hart 0).run = .running
    ∧ (mine3.hart 0).hq = [] ∧ (mine3.hart 0).irqWait = none := by decide +kernel
theorem test_msi : answers (.msiDeliver 3) (st { mine3 with msi := [(3, mine3.srcEntry 3)] }) (fun t =>
    t.chip.msi == [] && ((t.chip.hart 0).ifile 1).eip == [9]) = true := by decide +kernel
theorem witness_sources : up.maySource w1 3 = (up.srcOwner 3 == 1) ∧ mine3.maySource w5 3 = true ∧ mine3.maySource w1 3 = false
    ∧ F.EVR_SWTRIG_SOURCE.get 960 = 960 ∧ F.EVR_SWTRIG_SOURCE.get 1023 = 1023 ∧ F.EVR_SWTRIG_SOURCE.get 959 < 960
    ∧ (up.setFld (.WLD_SRC_OWN 960) F.WLD_OWN_OWNER 5).maySource w5 960 = true
    ∧ (up.setFld (.WLD_SRC_OWN 671) F.WLD_OWN_OWNER 5).maySource w5 (608 + 63) = true := by decide +kernel
theorem witness_timer : let c := (up.setBit (.EVR_TIMER 63) F.EVR_TIMER_ARM true)
    c.bit (.EVR_TIMER 63) F.EVR_TIMER_ARM = true ∧ c.fld (.EVR_TIMER 63) F.EVR_TIMER_CMP ≤ c.now := by decide +kernel
theorem witness_deviceMsi : up.fnSilent 9 255 = false ∧ (up.setFld (fnOwn 9 255) F.WLD_OWN_STATE 1).fnSilent 9 255 = true
    ∧ (up.setFld (.PKG_DIE_STATUS 11) F.PKG_DIE_STATUS_STATE 5).hartThere 287 = false ∧ up.hartThere 0 = true ∧ up.fileOwner 0 7 = up.fnOwner 9 255 := by decide +kernel
theorem witness_msiCommitted : let c := up.setBit .WLD_CTL F.WLD_CTL_COMMITTED true
    up.wldCommitted = false ∧ c.wldCommitted = true ∧ c.fnSilent 9 255 = false ∧ c.hartThere 0 = true ∧ c.fileOwner 0 7 = c.fnOwner 9 255
    ∧ (c.setFld (.PKG_DIE_STATUS 11) F.PKG_DIE_STATUS_STATE 5).hartThere 287 = false
    ∧ (let d := c.setFld (.WLD_FN_OWN 2559) F.WLD_OWN_OWNER 5
       d.fileOwner 0 7 ≠ d.fnOwner 9 255) := by decide +kernel
theorem witness_core : up.coreOffline 0 = false ∧ up.coreOff 0 = false
    ∧ (up.setBit (coreCtl 0) F.CD_CORE_CTL_POWER_OFF true).coreOff 0 = false
    ∧ (up.setBit (coreCtl 0) F.CD_CORE_CTL_BUSY true).coreBusy 0 = true ∧ up.quiet 0 = true ∧ w1.sealed = true ∧ w5.sealed = false
    ∧ ((up.setBit (coreCtl 0) F.CD_CORE_CTL_OFF true).setBit (coreCtl 0) F.CD_CORE_CTL_POWER_OFF false).coreOff 0 = true
    ∧ up.hartThere 0 = true := by decide +kernel
/-- A core whose L2 holds a dirty line waits for the write-back's acknowledgement, one with a shared line does not (R83, R84). -/
theorem witness_coreFlush : let c := (up.setBit (coreCtl 0) F.CD_CORE_CTL_BUSY true).setL2 0 0x40 (lineIn .M)
    let d := (up.setBit (coreCtl 0) F.CD_CORE_CTL_BUSY true).setBit (coreCtl 0) F.CD_CORE_CTL_POWER_OFF true
    c.coreBusy 0 = true ∧ c.quiet 0 = true ∧ ((c.flushL2 0).sendOwn 0).l2Gone 0 = false ∧ d.l2Gone 0 = true ∧ d.quiet 0 = true
    ∧ (((d.setL2 0 0x40 (lineIn .M)).flushL2 0).sendOwn 0).l2Gone 0 = false ∧ ((d.flushL2 0).sendOwn 0).l2Gone 0 = true := by decide +kernel
theorem test_core : answers (.hartReset w1 0) (st up) (fun t => answers (.hartResetDone 0) t (fun u =>
    (u.chip.hart 0).xr 5 == 0 && (u.chip.hart 0).world == 1 && (u.chip.hart 0).priv == 3)) = true := by decide +kernel
theorem witness_coreFailed : let c0 := (up.onDie 0 (fun x => { x with failMark := withBit x.failMark 23 true })).coreMapRecord 0
    let c := c0.countCores 0 (withBit (c0.fld (.CD_CORE_STATUS 0) F.CD_CORE_STATUS_PHYS_FAILED) 23 true)
    up.dieUp 0 = true ∧ (dieHarts 0).find? (fun h => c.corePhys h == 23) = some 23 := by decide +kernel
def halted5 : Chip := (up.onHart 0 (fun x => x.putCsr csrMworld 3 0 5)).onHart 0 (fun x => x.halt 3)
theorem witness_debug : up.dmUnavail 0 = false ∧ (up.hart 0).run = .running ∧ up.invEff 5 = false
    ∧ ((up.onHart 0 (fun x => x.halt 3)).hart 0).run = .halted ∧ ((up.onHart 0 (fun x => x.halt 3)).hart 0).world = 1
    ∧ (halted5.hart 0).world ≠ 1 ∧ (halted5.hart 0).csrBits csrDcsr 1 0 = 3
    ∧ ((up.onHart 0 (fun x => { x with run := .clearing })).dmUnavail 0) = false := by
  refine ⟨by decide +kernel, by decide +kernel, ?_, by decide +kernel, by decide +kernel, by decide +kernel, by decide +kernel,
    by decide +kernel⟩
  simp only [Chip.invEff, show up.bit (.WLD_WORLD_CFG 5) F.WLD_WORLD_CFG_INV_DBG = false from by decide +kernel, Bool.false_and]
/-- A hart halted in world 5 resumes into M-mode through the gate: W1, with the old world in PREV (R63). -/
theorem test_resume : answers (.resumereq 0) (st halted5) (fun t => (t.chip.hart 0).world == 1 && (t.chip.hart 0).priv == 3
    && (t.chip.hart 0).csrBits csrMworld 11 8 == 5) = true := by decide +kernel
theorem bit32 (n : Nat) (h : n < 2 ^ 32) : bitAt (n + 2 ^ 32) 32 = true := by
  unfold bitAt
  rw [Nat.testBit_eq_decide_div_mod_eq]
  have : (n + 2 ^ 32) / 2 ^ 32 = 1 := by omega
  rw [this]; rfl
/-- A part that has left production has LOCKED set (R300), whatever its other fuses. -/
theorem fuse_locked : fuseLocked = true := by
  unfold fuseLocked fuseWord
  exact bit32 _ (Nat.mod_lt _ (Nat.two_pow_pos 32))
/-- World 1 with invasive debug enabled in WLD_WORLD_CFG, and granted by a token. -/
def granted1 : Chip := (up.setBit (.WLD_WORLD_CFG 1) F.WLD_WORLD_CFG_INV_DBG true).setFld .WLD_DBG_GRANT F.WLD_DBG_GRANT_GRANT_INV 2
/-- A hart that single-steps, halted in no way yet, and one whose access has begun when a haltreq comes. -/
theorem witness_singleStep : let c := granted1.onHart 0 (fun x => { x.putBit csrDcsr 2 true with fetched := some (0x1000, 0xF) })
    (c.hart 0).run = .running ∧ (c.hart 0).hq = [] ∧ (c.hart 0).irqWait = none ∧ (c.hart 0).haltWait = none
    ∧ (c.hart 0).csrBit csrDcsr 2 = true ∧ (c.hart 0).world = 1 ∧ (c.hart 0).fetched = some (0x1000, 0xF)
    ∧ ((granted1.onHart 0 (fun x => { x with hq := [.tload 0 0 5 6], xlat := [(0, 0x1000)] })).hart 0).begun = true := by decide +kernel
/-- Where the fuses forbid nothing, a world whose enable is set and that is granted may be debugged. -/
theorem witness_invEff (h : Config.dbgFuse = 0) : granted1.invEff 1 = true := by
  have e : granted1.bit (.WLD_WORLD_CFG 1) F.WLD_WORLD_CFG_INV_DBG = true := by decide +kernel
  have g : bitAt (granted1.fld .WLD_DBG_GRANT F.WLD_DBG_GRANT_GRANT_INV) 1 = true := by decide +kernel
  have f : bitAt fuseWord 1 = false := by unfold fuseWord; rw [h]; decide +kernel
  simp [Chip.invEff, e, g, f]
def start : PkgStart := {
  channels := List.replicate 16 { capGib := 16, dimmType := 1, org := 1, spd := 5, mts := 64, reuseOk := false, trainOk := true }
  dies := List.replicate 12 { trainA := true, trainB := true, identA := { link := 0, stepping := 0xB1, serial := 1, cap := 0x70F, failMask := 0 },
                              identB := { link := 1, stepping := 0xB1, serial := 1, cap := 0x70F, failMask := 0 } } }
theorem witness_start : pkgStartOk start = true := by decide +kernel
theorem witness_lock : up.lockOpen = false := by
  simp only [Chip.lockOpen, fuse_locked]; decide +kernel
theorem witness_unlocked : granted1.lockOpen = true := by
  simp only [Chip.lockOpen, fuse_locked]; decide +kernel

-- the tile unit

theorem up_tileFree : up.TileFree 0 := ⟨up_free, by decide +kernel, by decide +kernel, by decide +kernel⟩

/-- The configuration word of 2 by 2 elements of a kind. -/
def cfg22 (kind : Nat) : Nat := kind + 2 ^ 16 + 2 ^ 21

/-- 2 by 2 matrices of I12 in T0 and T1 (kind 3) and of 32-bit accumulators in A0 and A1 (kind 6). -/
def matA : Tile := mkTile (cfg22 3) (fun i j => 2 * i + j + 1)
def matB : Tile := mkTile (cfg22 3) (fun i j => if i = 0 then 4095 else 2 + j)
def accC : TAcc := mkAcc (cfg22 6) (fun i j => if i = 0 ∧ j = 0 then 100 else 0)
def tiles : Chip := up.onHart 0 (fun x => { x with tile := [(0, matA), (1, matB)], tacc := [(0, accC), (1, accC)], x := [(5, 7), (6, 0x2000000)] })

theorem tiles_free : tiles.TileFree 0 :=
  ⟨free0 tiles (by decide +kernel), by decide +kernel, by decide +kernel, by decide +kernel⟩
theorem witness_tcfg : cfgOk false (cfg22 3) = true ∧ cfgOk false (2 ^ 26) = false ∧ cfgOk true (cfg22 6) = true ∧ cfgOk true (cfg22 3) = false
    ∧ cfgOk false ((up.hart 0).xr 5).toNat = false ∧ cfgOk false ((up.hart 0).xr 0).toNat = true ∧ cfgOk true ((up.hart 0).xr 0).toNat = true := by
  decide +kernel
theorem test_tcfg : answers (.tcfgTile 0 7 0) (st tiles) (fun t => ((t.chip.hart 0).tileAt 7).word == 0 && (t.chip.hart 0).tsent == [1])
    && answers (.tcfgTile 0 7 5) (st tiles) (fun t => (t.chip.hart 0).getCsr csrMcause == 2) = true := by decide +kernel
theorem witness_check : ((tiles.hart 0).tileAt 0).check 0 7 true = none ∧ ((tiles.hart 0).accAt 0).check 8 7 = none
    ∧ ({ matA with el := [(0, 9)] } : Tile).check 0 7 true = some { kind := 7, reg := 0, index := 0 }
    ∧ ({ accC with el := [] } : TAcc).check 8 7 = some { kind := 7, reg := 8, index := 0 } := by decide +kernel
theorem witness_tsums : ((tiles.hart 0).tileAt 0).word ≠ 0 ∧ 1 < cfgRows ((tiles.hart 0).tileAt 0).word
    ∧ ((tiles.hart 0).accAt 0).word ≠ 0 ∧ 1 < cfgCols ((tiles.hart 0).accAt 0).word := by decide +kernel
theorem matA_healthy : matA.Healthy := by unfold Tile.Healthy; decide +kernel
theorem matB_healthy : matB.Healthy := by unfold Tile.Healthy; decide +kernel
theorem accC_healthy : accC.Healthy := by unfold TAcc.Healthy; decide +kernel
theorem witness_tmma : (tiles.hart 0).tileAt 0 = matA ∧ (tiles.hart 0).tileAt 1 = matB ∧ (tiles.hart 0).accAt 0 = accC ∧ (tiles.hart 0).accAt 1 = accC
    ∧ tmmaOk false matA.word matB.word accC.word = true ∧ tmmaOk true matA.word matB.word accC.word = true
    ∧ kindFloat (cfgKind matA.word) = false ∧ (tiles.hart 0).suspect 0 = false ∧ (tiles.hart 0).guarded = false := by decide +kernel
/-- [[1, 2], [3, 4]] times [[−1, −1], [2, 3]] is [[3, 5], [5, 9]], added to [[100, 0], [0, 0]]. -/
theorem test_tmma : answers (.tmma 0 0 0 1 []) (st tiles) (fun t => (List.range 4).map (fun k =>
    elAt ((t.chip.hart 0).accAt 0).el (k / 2) (k % 2)) == [103, 5, 5, 9]) = true := by decide +kernel
theorem witness_taddTcvt : cfgKind accC.word = 6 ∧ cfgKind matA.word = 3 ∧ cfgRows accC.word = cfgRows matA.word
    ∧ cfgCols accC.word = cfgCols matA.word ∧ (tiles.hart 0).suspect 1 = false ∧ -64 ≤ ((tiles.hart 0).xr 5).toInt
    ∧ ((tiles.hart 0).xr 5).toInt ≤ 63 := by decide +kernel
/-- 100 / 128 rounds to 1 to the nearest even. -/
theorem test_tcvt : answers (.tcvt 0 0 0 5 0) (st tiles) (fun t => (List.range 4).map (fun k =>
    elAt ((t.chip.hart 0).tileAt 0).el (k / 2) (k % 2)) == [1, 0, 0, 0]) = true := by decide +kernel
theorem witness_tileComplete : ((tiles.onHart 0 (fun x => { x with tsent := [4, 1] })).hart 0).tsent = 4 :: [1] := by decide +kernel
theorem witness_record : cfgOk false (cfg22 3) = true ∧ cfgKind (cfg22 3) ≠ 0 ∧ (7 : Nat) < 2 ^ 64 ∧ (7 : Nat) ≠ 8 := by decide

-- tile loads and stores

/-- In M-mode with no PMP entry set an address below 2^52 translates to itself. -/
theorem translate_m (c : Chip) (h : Nat) (va : Word) (n acc : Nat) (he : (c.hart h).effective acc = (3, false))
    (hp : ∀ i, i < 16 → (c.hart h).pmpRange i = none) (hv : va.toNat < 2 ^ 52) : c.translate h va n acc = (c, .pa va.toNat) := by
  have hk : (c.hart h).pmpOk va.toNat n 3 acc = true := by
    unfold Hart.pmpOk
    split
    · rfl
    · rename_i i hi
      have h1 := List.mem_range.mp (List.mem_of_find?_eq_some hi)
      have h2 := List.find?_some hi
      rw [hp i h1] at h2
      exact absurd h2 (by simp)
  unfold Chip.translate
  simp only [he, ↓reduceIte, hk]
  rw [if_neg]
  simp only [Bool.not_true, Bool.false_eq_true, or_false]
  omega


/-- CRC-32C with every step evaluated before the next, for the kernel. -/
def crcGo : List Byte → Nat → Nat
  | [], a => a
  | b :: bs, a => if a = a then crcGo bs (crc32cByte a b) else 0
theorem crcGo_eq (l : List Byte) (a : Nat) : crcGo l a = l.foldl crc32cByte a := by
  induction l generalizing a with
  | nil => rfl
  | cons b bs ih => simp [crcGo, ih]
theorem crc32c_eq (l : List Byte) : crc32c l = crcGo l 0xFFFFFFFF ^^^ 0xFFFFFFFF := by rw [crcGo_eq]; rfl
/-- The check value of CRC-32C over the digits 1 to 9. -/
theorem test_crc32c : crc32c [0x31, 0x32, 0x33, 0x34, 0x35, 0x36, 0x37, 0x38, 0x39] = 0xE3069283 := by decide +kernel

/-- Hart 0's L2 holds the n lines from 0x2000000 on in a state: the first holds v, the others zeros. -/
def heldOn (c : Chip) (n v : Nat) (m : Moesi) : Chip :=
  { c with l2 := (List.range n).map (fun k => (l2Key 0 (0x80000 + k), lineIn m (if k = 0 then BitVec.ofNat 512 v else 0))) }

def held (n v : Nat) (m : Moesi) : Chip := heldOn tiles n v m

theorem sget_range {V : Type} (d : V) (f : Nat → V) (n k : Nat) (hk : k < n) :
    sget d (l2Key 0 (0x80000 + k)) ((List.range n).map (fun j => (l2Key 0 (0x80000 + j), f j))) = f k := by
  have key : ∀ (l : List Nat), k ∈ l → sget d (l2Key 0 (0x80000 + k)) (l.map (fun j => (l2Key 0 (0x80000 + j), f j))) = f k := by
    intro l
    induction l with
    | nil => intro h; simp at h
    | cons j l ih =>
      intro h
      by_cases e : j = k
      · subst e; simp [sget]
      · have : ¬ l2Key 0 (0x80000 + j) = l2Key 0 (0x80000 + k) := by unfold l2Key; omega
        simp only [List.map_cons, sget, if_neg this]
        exact ih (by rcases List.mem_cons.mp h with h | h; exacts [absurd h.symm e, h])
  exact key _ (List.mem_range.mpr hk)

/-- The physical address of access k. -/
def place (k : Nat) : Nat := 0x2000000 + 64 * k

theorem held_line (n v : Nat) (m : Moesi) (i : Instr) (k : Nat) (hk : k < n) :
    ((held n v m).given 0 i).l2at 0 (place k / 64) = lineIn m (if k = 0 then BitVec.ofNat 512 v else 0) := by
  have e : place k / 64 = 0x80000 + k := by unfold place; omega
  rw [e]
  exact sget_range _ _ n k hk

theorem heldOn_hart (c : Chip) (n v : Nat) (m : Moesi) (i : Instr) : ((heldOn c n v m).given 0 i).hart 0 = (c.given 0 i).hart 0 := rfl
theorem heldOn_region (c : Chip) (n v : Nat) (m : Moesi) (i : Instr) (a : Nat) :
    ((heldOn c n v m).given 0 i).region a = c.region a := rfl
theorem held_hart (n v : Nat) (m : Moesi) (i : Instr) : ((held n v m).given 0 i).hart 0 = (tiles.given 0 i).hart 0 := heldOn_hart _ _ _ _ _

theorem given_mode (n v acc : Nat) (m : Moesi) (hacc : acc < 3) (i : Instr) : (((held n v m).given 0 i).hart 0).effective acc = (3, false)
    ∧ ∀ j, j < 16 → (((held n v m).given 0 i).hart 0).pmpRange j = none := by
  have e1 : (((held n v m).given 0 i).hart 0).effective acc = (tiles.hart 0).effective acc := by
    rw [held_hart]; simp only [Chip.given, Chip.onHart, Chip.hart_setHart]; generalize tiles.hart 0 = x; rfl
  have e2 : ∀ j, (((held n v m).given 0 i).hart 0).pmpRange j = (tiles.hart 0).pmpRange j := by
    intro j; rw [held_hart]; simp only [Chip.given, Chip.onHart, Chip.hart_setHart]; generalize tiles.hart 0 = x; rfl
  refine ⟨e1.trans ?_, fun j hj => (e2 j).trans ?_⟩
  · have : ∀ a : Fin 3, (tiles.hart 0).effective a.1 = (3, false) := by decide +kernel
    exact this ⟨acc, hacc⟩
  · have : ∀ j : Fin 16, (tiles.hart 0).pmpRange j.1 = none := by decide +kernel
    exact this ⟨j, hj⟩

theorem lineList_mem {va n : Nat} {p : Piece} (h : p ∈ lineList va (64 * n)) : p.k < n ∧ p.va = (va + 64 * p.k) % 2 ^ 64 ∧ p.n = 64 := by
  unfold lineList numberPieces at h
  rw [Nat.mul_div_cancel_left _ (by omega)] at h
  obtain ⟨e, he, rfl⟩ := List.mem_map.mp h
  obtain ⟨j, hj, rfl⟩ := List.mem_iff_getElem.mp he
  simp at hj ⊢
  exact hj

theorem held_at (n v acc : Nat) (m : Moesi) (i : Instr) (hacc : acc < 3) (a n' : Nat) (ha : a < 2 ^ 52) :
    ((held n v m).given 0 i).translate 0 (BitVec.ofNat 64 a) n' acc = ((held n v m).given 0 i, .pa a) := by
  obtain ⟨he, hp⟩ := given_mode n v acc m hacc i
  have ht := translate_m _ 0 (BitVec.ofNat 64 a) n' acc he hp (by simp only [BitVec.toNat_ofNat]; omega)
  rw [ht]; simp only [BitVec.toNat_ofNat]; congr 2; omega

/-- The accesses of a record or of a save area at 0x2000000 are translated. -/
theorem held_translated (n v acc : Nat) (m : Moesi) (i : Instr) (hacc : acc < 3) (hn : n < 1000) :
    ((held n v m).given 0 i).Translated 0 acc (lineList 0x2000000 (64 * n)) place := by
  intro p hp
  obtain ⟨h1, h2, h3⟩ := lineList_mem hp
  have e : p.va = place p.k := by unfold place; omega
  rw [e, h3]
  exact ⟨held_at n v acc m i hacc _ 64 (by unfold place; omega), by unfold place; omega⟩

theorem tiles_homed : ∀ k : Fin 449, (tiles.region (0x2000000 + 64 * k.1)).homed = true := by decide +kernel
theorem tiles_clear : (tiles.hart 0).refusal = none ∧ (tiles.hart 0).world = 1 := by decide +kernel

theorem held_holds (n v : Nat) (m : Moesi) (i : Instr) (hn : n ≤ 449) (hm : m ≠ .I) (k : Nat) (hk : k < n) :
    ((held n v m).given 0 i).Holds 0 (place k) (((held n v m).given 0 i).l2at 0 (place k / 64)) := by
  have hc : (((held n v m).given 0 i).hart 0).refusal = none ∧ (((held n v m).given 0 i).hart 0).world = 1 := by
    rw [held_hart]
    have := tiles_clear
    simp only [Chip.given, Chip.onHart, Chip.hart_setHart]; revert this; generalize tiles.hart 0 = x; exact id
  have hr : (((held n v m).given 0 i).region (place k)).homed = true := by
    unfold held; rw [heldOn_region]; exact tiles_homed ⟨k, by omega⟩
  refine ⟨hr, hc.1, rfl, ?_, ?_, ?_⟩ <;> rw [held_line n v m i k hk]
  · exact hm
  · exact hc.2.symm
  · rfl

theorem held_holdsAll (n v : Nat) (m : Moesi) (i : Instr) (hn : n ≤ 449) (hm : m ≠ .I) :
    ((held n v m).given 0 i).HoldsAll 0 (lineList 0x2000000 (64 * n)) place :=
  fun _ hp => held_holds n v m i hn hm _ (lineList_mem hp).1
theorem held_ownsAll (n v : Nat) (i : Instr) (hn : n ≤ 449) :
    ((held n v .M).given 0 i).OwnsAll 0 (lineList 0x2000000 (64 * n)) place := by
  intro p hp
  refine ⟨held_holds n v .M i hn (by decide) _ (lineList_mem hp).1, .inr ?_⟩
  rw [held_line n v .M i p.k (lineList_mem hp).1]; rfl

theorem toBytes_zero (n : Nat) : toBytes n 0 = List.replicate n 0#8 := by simp [toBytes, List.map_const']

theorem slice_whole (l : Line) : Line.slice l 0 64 = l.toNat := by
  unfold Line.slice
  rw [Nat.mul_zero, pow_zero, Nat.div_one]
  exact Nat.mod_eq_of_lt l.isLt

/-- The bytes that the lines hold: the first line's, and zeros. -/
theorem held_bytes (n v va : Nat) (m : Moesi) (i : Instr) (hv : (BitVec.ofNat 512 v).toNat = v) :
    ((held (n + 1) v m).given 0 i).bytesHeld 0 (lineList va (64 * (n + 1))) place = toBytes 64 v ++ List.replicate (64 * n) 0#8 := by
  let g := fun (k : Nat) => toBytes 64 (Line.slice (((held (n + 1) v m).given 0 i).l2at 0 (place k / 64)).data (place k % 64) 64)
  have gk : ∀ k, k < n + 1 → g k = if k = 0 then toBytes 64 v else List.replicate 64 0#8 := by
    intro k hk
    have e : place k % 64 = 0 := by unfold place; omega
    simp only [g, held_line (n + 1) v m i k hk, e, lineIn]
    split
    · congr 1
      exact (slice_whole _).trans hv
    · rw [slice_whole, show (0 : Line).toNat = 0 from by decide +kernel, toBytes_zero]
  have key : ∀ j, j ≤ n + 1 → (List.range j).flatMap g = (if j = 0 then [] else toBytes 64 v ++ List.replicate (64 * (j - 1)) 0#8) := by
    intro j hj
    induction j with
    | zero => rfl
    | succ j ih =>
      rw [List.range_succ, List.flatMap_append, ih (by omega)]
      simp only [List.flatMap_cons, List.flatMap_nil, List.append_nil, gk j (by omega)]
      by_cases h : j = 0
      · subst h; simp
      · rw [if_neg h, if_neg h, if_neg (by omega), List.append_assoc, List.replicate_append_replicate]
        congr 2; omega
  have e : (lineList va (64 * (n + 1))).map (fun p => (p.k, p.n)) = (List.range (n + 1)).map (fun k => (k, 64)) := by
    unfold lineList numberPieces
    rw [Nat.mul_div_cancel_left _ (by omega)]
    apply List.ext_getElem
    · simp
    · intro j h1 h2; simp
  have e2 : ((held (n + 1) v m).given 0 i).bytesHeld 0 (lineList va (64 * (n + 1))) place
      = ((lineList va (64 * (n + 1))).map (fun p => (p.k, p.n))).flatMap (fun q =>
        toBytes q.2 (Line.slice (((held (n + 1) v m).given 0 i).l2at 0 (place q.1 / 64)).data (place q.1 % 64) q.2)) := by
    unfold Chip.bytesHeld; rw [List.flatMap_map]
  rw [e2, e, List.flatMap_map]
  exact (key (n + 1) (le_refl _)).trans (by simp)

theorem tiles_x6 (i : Instr) : ((tiles.given 0 i).hart 0).xr 6 = 0x2000000 ∧ ((tiles.given 0 i).hart 0).xr 5 = 7 := by
  have h : (tiles.hart 0).xr 6 = 0x2000000 ∧ (tiles.hart 0).xr 5 = 7 := by decide +kernel
  simp only [Chip.given, Chip.onHart, Chip.hart_setHart]; revert h; generalize tiles.hart 0 = x; exact id

set_option maxRecDepth 100000

/-- A record of zeros with tag 7: its CRC is 0x546C62EA. -/
def head7 : Nat := 1416390682 + cfg22 3 * 2 ^ 32 + 7 * 2 ^ 64
theorem witness_tload : let c := (held 25 head7 .S).given 0 (.tload 0 3 6 5)
    c.Translated 0 1 (lineList 0x2000000 1600) place ∧ c.HoldsAll 0 (lineList 0x2000000 1600) place
    ∧ recFails (c.bytesHeld 0 (lineList 0x2000000 1600) place) 7 = [] := by
  refine ⟨held_translated 25 head7 1 _ _ (by omega) (by omega), held_holdsAll 25 head7 _ _ (by omega) (by decide), ?_⟩
  rw [show (1600 : Nat) = 64 * (24 + 1) from rfl, held_bytes _ _ _ _ _ (by decide +kernel)]
  unfold recFails
  rw [crc32c_eq]
  decide +kernel
theorem witness_tload_fails : let c := (held 25 0 .S).given 0 (.tload 0 3 6 5)
    c.Translated 0 1 (lineList 0x2000000 1600) place ∧ c.HoldsAll 0 (lineList 0x2000000 1600) place
    ∧ recFails (c.bytesHeld 0 (lineList 0x2000000 1600) place) 7 ≠ [] := by
  refine ⟨held_translated 25 0 1 _ _ (by omega) (by omega), held_holdsAll 25 0 _ _ (by omega) (by decide), ?_⟩
  rw [show (1600 : Nat) = 64 * (24 + 1) from rfl, held_bytes _ _ _ _ _ (by decide +kernel)]
  unfold recFails
  rw [show (!recHeaderOk (toBytes 64 0 ++ List.replicate (64 * 24) 0#8)) = true from by decide +kernel, if_pos rfl]
  intro h; have := congrArg List.length h; simp only [List.length_append, List.length_cons, List.length_nil] at this; omega

theorem crc32c_lt (l : List Byte) : crc32c l < 2 ^ 32 := by
  have hb : ∀ c (b : Byte), c < 2 ^ 32 → crc32cByte c b < 2 ^ 32 := by
    intro c b hc
    unfold crc32cByte forUpTo
    have h0 : c ^^^ b.toNat < 2 ^ 32 := Nat.xor_lt_two_pow hc (by have := b.isLt; omega)
    generalize c ^^^ b.toNat = a at h0
    induction List.range 8 generalizing a with
    | nil => exact h0
    | cons _ l ih =>
      refine ih _ ?_
      show (if a % 2 = 1 then a / 2 ^^^ 2197175160 else a / 2) < 2 ^ 32
      split
      · exact Nat.xor_lt_two_pow (by omega) (by norm_num)
      · omega
  have hf : ∀ (l : List Byte) a, a < 2 ^ 32 → l.foldl crc32cByte a < 2 ^ 32 := by
    intro l
    induction l with
    | nil => intro a h; exact h
    | cons b l ih => intro a h; exact ih _ (hb a b h)
  exact Nat.xor_lt_two_pow (hf l _ (by norm_num)) (by norm_num)

/-- An empty save area with its CRC: its first line, and zeros. -/
def saveCrc : Nat := crc32c ([1#8, 0#8] ++ List.replicate 28730 0#8)
theorem head_bytes (w : Nat) (h : w < 2 ^ 32) : toBytes 64 (w + 2 ^ 32) = toBytes 4 w ++ ([1#8, 0#8] ++ List.replicate 58 0#8) := by
  have e : ∀ i, 4 ≤ i → (w + 2 ^ 32) / 2 ^ (8 * i) = 2 ^ 32 / 2 ^ (8 * i) := by
    intro i hi
    rw [show 8 * i = 32 + (8 * i - 32) by omega, pow_add, ← Nat.div_div_eq_div_mul, ← Nat.div_div_eq_div_mul]
    congr 1; omega
  have e4 : ∀ i, i < 4 → BitVec.ofNat 8 ((w + 2 ^ 32) / 2 ^ (8 * i)) = BitVec.ofNat 8 (w / 2 ^ (8 * i)) := by
    intro i hi
    apply BitVec.eq_of_toNat_eq
    simp only [BitVec.toNat_ofNat]
    interval_cases i <;> omega
  unfold toBytes
  rw [show (64 : Nat) = 4 + 60 from rfl, List.range_add, List.map_append, List.map_map]
  congr 1
  · exact List.map_congr_left (fun i hi => e4 i (List.mem_range.mp hi))
  · have : (List.range 60).map ((fun i => BitVec.ofNat 8 ((w + 2 ^ 32) / 2 ^ (8 * i))) ∘ (fun x => 4 + x))
        = (List.range 60).map (fun i => BitVec.ofNat 8 (2 ^ 32 / 2 ^ (8 * (4 + i)))) :=
      List.map_congr_left (fun i _ => by simp only [Function.comp_apply, e (4 + i) (by omega)])
    rw [this]; decide +kernel
theorem ofBytes_four (w : Nat) (h : w < 2 ^ 32) : ofBytes (toBytes 4 w) = w := by
  simp only [toBytes, List.range_succ, List.range_zero, List.nil_append, List.map_cons, List.map_nil, ofBytes,
    List.cons_append, BitVec.toNat_ofNat]
  omega
theorem saveCrc_fits : (BitVec.ofNat 512 (saveCrc + 2 ^ 32)).toNat = saveCrc + 2 ^ 32 := by
  have h : saveCrc < 2 ^ 32 := crc32c_lt _
  rw [BitVec.toNat_ofNat]
  exact Nat.mod_eq_of_lt (lt_of_le_of_lt (show saveCrc + 2 ^ 32 ≤ 2 ^ 33 by omega) (Nat.pow_lt_pow_right (by omega) (by omega)))
theorem witness_trestore : let c := (held 449 (saveCrc + 2 ^ 32) .S).given 0 (.trestore 0 6)
    c.Translated 0 1 (lineList 0x2000000 28736) place ∧ c.HoldsAll 0 (lineList 0x2000000 28736) place
    ∧ saveFails (c.bytesHeld 0 (lineList 0x2000000 28736) place) = [] := by
  refine ⟨held_translated 449 _ 1 _ _ (by omega) (by omega), held_holdsAll 449 _ _ _ (by omega) (by decide), ?_⟩
  rw [show (28736 : Nat) = 64 * (448 + 1) from rfl, held_bytes _ _ _ _ _ saveCrc_fits, head_bytes saveCrc (crc32c_lt _), List.append_assoc, List.append_assoc,
    List.replicate_append_replicate]
  have h4 : (toBytes 4 saveCrc).length = 4 := by simp [toBytes]
  have hd : ∀ k l, (toBytes 4 saveCrc ++ l).drop (4 + k) = l.drop k := by
    intro k l; rw [← List.drop_drop, List.drop_left' h4]
  generalize hB : ([1#8, 0#8] ++ List.replicate (58 + 64 * 448) 0#8) = body
  unfold saveFails
  simp only [show ∀ l : List Byte, (toBytes 4 saveCrc ++ l).drop 4 = l from fun l => hd 0 l,
    show ∀ l : List Byte, (toBytes 4 saveCrc ++ l).drop 56 = l.drop 52 from hd 52,
    show ∀ l : List Byte, (toBytes 4 saveCrc ++ l).drop 7 = l.drop 3 from hd 3,
    show ∀ (l : List Byte) t, (toBytes 4 saveCrc ++ l).drop (8 + 4 * t) = l.drop (4 + 4 * t) from
      fun l t => by rw [show 8 + 4 * t = 4 + (4 + 4 * t) by omega]; exact hd _ l,
    show ∀ (l : List Byte) t, (toBytes 4 saveCrc ++ l).drop (40 + 4 * t) = l.drop (36 + 4 * t) from
      fun l t => by rw [show 40 + 4 * t = 4 + (36 + 4 * t) by omega]; exact hd _ l, List.drop_zero]
  rw [List.take_left' h4, ofBytes_four saveCrc (crc32c_lt _), if_neg, if_neg]
  · rfl
  · subst hB; decide +kernel
  · simp only [saveCrc, ne_eq, not_not, ← hB]

theorem rows2 : numberPieces ((rowPieces (cfg22 3) (fun a => a) 0x2000000 7).map (fun e => (e.2.1, e.2.2)))
    = [{ k := 0, va := 0x2000000, n := 3 }, { k := 1, va := 0x2000007, n := 3 }] := by decide +kernel
/-- Where the two rows stand. -/
def row2 (k : Nat) : Nat := 0x2000000 + 7 * k
theorem held_rows (acc : Nat) (hacc : acc < 3) (i : Instr) : let c := (held 1 0x030201 .M).given 0 i
    c.Translated 0 acc [{ k := 0, va := 0x2000000, n := 3 }, { k := 1, va := 0x2000007, n := 3 }] row2
    ∧ c.OwnsAll 0 [{ k := 0, va := 0x2000000, n := 3 }, { k := 1, va := 0x2000007, n := 3 }] row2 := by
  intro c
  have hh := held_holds 1 0x030201 .M i (by omega) (by decide) 0 (by omega)
  have hl := held_line 1 0x030201 .M i 0 (by omega)
  have h7 : (c.region 0x2000007).homed = true := by
    have : (tiles.region 0x2000007).homed = true := by decide +kernel
    show (((held 1 0x030201 .M).given 0 i).region 0x2000007).homed = true
    unfold held; rw [heldOn_region]; exact this
  refine ⟨fun p hp => ?_, fun p hp => ?_⟩
  · fin_cases hp
    · exact ⟨held_at 1 _ acc .M i hacc 0x2000000 3 (by norm_num), by decide⟩
    · exact ⟨held_at 1 _ acc .M i hacc 0x2000007 3 (by norm_num), by decide⟩
  · fin_cases hp
    · exact ⟨hh, .inr (by rw [show row2 0 = place 0 from rfl, hl]; rfl)⟩
    · exact ⟨⟨h7, hh.clear, rfl, hh.valid, hh.world, hh.good⟩, .inr (by rw [show row2 1 / 64 = place 0 / 64 from by decide, hl]; rfl)⟩
theorem witness_tileStores : let x := tiles.hart 0
    cfgKind (x.tileAt 0).word ≠ 0 ∧ (x.guarded && x.ung 0) = false ∧ x.guarded = false ∧ (x.tileAt 0).check 0 4 false = none
    ∧ x.tsent = [] := by decide +kernel
theorem witness_tloadu : let c := (held 1 0x030201 .M).given 0 (.tloadu 0 0 6 5)
    c.Translated 0 1 (numberPieces ((rowPieces (cfg22 3) (fun a => a) 0x2000000 7).map (fun e => (e.2.1, e.2.2)))) row2
    ∧ c.HoldsAll 0 (numberPieces ((rowPieces (cfg22 3) (fun a => a) 0x2000000 7).map (fun e => (e.2.1, e.2.2)))) row2 := by
  rw [rows2]
  exact ⟨(held_rows 1 (by omega) _).1, fun p hp => ((held_rows 1 (by omega) _).2 p hp).holds⟩
theorem witness_tstoreu : let c := (held 1 0x030201 .M).given 0 (.tstoreu 0 0 6 5)
    c.Translated 0 2 (numberPieces ((rowPieces (cfg22 3) (fun a => a) 0x2000000 7).map (fun e => (e.2.1, e.2.2)))) row2
    ∧ c.OwnsAll 0 (numberPieces ((rowPieces (cfg22 3) (fun a => a) 0x2000000 7).map (fun e => (e.2.1, e.2.2)))) row2 := by
  rw [rows2]; exact held_rows 2 (by omega) _
/-- M-mode addresses are not masked (PMM 0). -/
theorem witness_pointer : (tiles.hart 0).pointer 0x2000007 = 0x2000007 := by decide +kernel
theorem witness_tstore : let c := (held 25 0 .M).given 0 (.tstore 0 0 6 5)
    c.Translated 0 2 (lineList 0x2000000 1600) place ∧ c.OwnsAll 0 (lineList 0x2000000 1600) place :=
  ⟨held_translated 25 0 2 _ _ (by omega) (by omega), held_ownsAll 25 0 _ (by omega)⟩
theorem witness_tsave : let c := (held 449 0 .M).given 0 (.tsave 0 6)
    c.Translated 0 2 (lineList 0x2000000 28736) place ∧ c.OwnsAll 0 (lineList 0x2000000 28736) place :=
  ⟨held_translated 449 0 2 _ _ (by omega) (by omega), held_ownsAll 449 0 _ (by omega)⟩
theorem witness_tsave_checks : (∀ t : Fin 8, ((tiles.hart 0).tileAt t.1).check t.1 4 true = none)
    ∧ ∀ a : Fin 4, ((tiles.hart 0).accAt a.1).check (8 + a.1) 4 = none := by decide +kernel
theorem heldOn_free (c : Chip) (n v : Nat) (m : Moesi) (h : c.TileFree 0) : (heldOn c n v m).TileFree 0 :=
  ⟨⟨h.free.hart, h.free.run, h.free.hq, h.free.irq, h.free.halt, h.free.step, h.free.awaits, h.free.got, h.free.xlat⟩, h.on, h.room, h.older⟩
theorem held_free (n v : Nat) (m : Moesi) : (held n v m).TileFree 0 := heldOn_free _ _ _ _ tiles_free

-- caches

/-- Hart 0's L2 holds line 0x40 in a state. -/
def holds (s : Moesi) : Chip := up.setL2 0 0x40 (lineIn s)
def wbe (h : Nat) (sent : Bool) : WbEntry := { h := h, line := 0x40, st := .M, world := 1, data := 0, poison := false, sent := sent, superseded := false }
def mode (k : CacheSel) (m : Nat) : Chip := up.setFld (cacheSts k) F.LND_STATUS_MODE m

theorem witness_evict : (holds .M).victimOk 0 0x40 = true ∧ ((holds .M).l2at 0 0x40).st.dirty = true ∧ (holds .M).wbCount 0 < 16
    ∧ 16 ≤ ({ holds .M with wb := List.replicate 16 (wbe 0 false) } : Chip).wbCount 0
    ∧ (let c := (holds .E).setFld (.LND_STATUS 0) F.LND_STATUS_MODE 1
       (c.l2at 0 0x40).st = .E ∧ c.lndMode 0 = 1 ∧ c.lndAt 0 0x40 = none ∧ (c.dropL2 0 0x40).holders 0 0x40 = [] ∧ c.wb = [])
    ∧ ({ up with miss := [{ req := { kind := .UPGRADE, die := 0, line := 0x40 }, h := 0, comp := none, data := none, fwd := none }] } : Chip).victimOk
      0 0x40 = false := by decide +kernel
theorem test_evict : answers (.l2Eviction 0 0x40) (st (holds .M)) (fun t => t.chip.wb == [wbe 0 false] && (t.chip.l2at 0 0x40).st == .I)
    && answers (.l2Eviction 0 0x40) (st ((holds .E).setFld (.LND_STATUS 0) F.LND_STATUS_MODE 1)) (fun t =>
      t.chip.net.map (fun m => (m.kind, m.line)) == [(.EVICT_CLEAN, 0x40)]) = true := by decide +kernel
theorem witness_wbRoom : (({ up with wb := [] } : Chip).roomFor 0 0x40).isSome = true := by decide +kernel
/-- The set of line 0x40 in hart 0's L2 holds sixteen shared lines, each with an UPGRADE out: no way can be freed. -/
def crowded : Chip := { forUpTo 16 (fun k x => x.setL2 0 (0x40 + 1024 * (k + 1)) { lineIn .S with way := k }) up with
  wb := [wbe 0 false], miss := (List.range 16).map (fun k => { req := { kind := .UPGRADE, die := 0, line := 0x40 + 1024 * (k + 1) }, h := 0
                                                               comp := none, data := none, fwd := none }) }
theorem witness_wbNoRoom : crowded.wb = [wbe 0 false] ∧ ({ crowded with wb := [] } : Chip).roomFor 0 0x40 = none := by decide +kernel
theorem witness_wbHit : ({ up with wb := [wbe 0 false] } : Chip).wb = [wbe 0 false] ∧ (wbe 0 false).h = 0 ∧ (wbe 0 false).line = 0x40
    ∧ (wbe 0 false).sent = false ∧ (wbe 0 false).superseded = false ∧ (wbe 0 true).sent = true := by decide +kernel
theorem witness_cacheMode : cacheOk (.landing 11) = true ∧ cacheOk (.hall 15) = true ∧ up.bit (cacheSts (.hall 15)) F.LND_STATUS_BUSY = false
    ∧ up.fld (cacheSts (.hall 15)) F.LND_STATUS_MODE = 0 ∧ (mode (.hall 15) 1).fld (cacheSts (.hall 15)) F.LND_STATUS_MODE = 1
    ∧ (mode (.landing 11) 2).fld (cacheSts (.landing 11)) F.LND_STATUS_MODE = 2 ∧ (mode (.landing 11) 1).bit (cacheSts (.landing 11)) F.LND_STATUS_DARK_SEEN = false
    ∧ ((mode (.landing 11) 1).setBit (cacheSts (.landing 11)) F.LND_STATUS_DARK_SEEN true).bit (cacheSts (.landing 11)) F.LND_STATUS_DARK_SEEN = true
    ∧ (up.setBit (cacheSts (.hall 0)) F.LND_STATUS_BUSY true).bit (cacheSts (.hall 0)) F.LND_STATUS_BUSY = true ∧ w1.sealed = true ∧ w5.sealed = false := by
  decide +kernel
/-- ENABLE_KEEP is refused once the cache has been dark (R172). -/
theorem test_enableKeep : answers (.enableKeep w1 (.landing 11)) (st (mode (.landing 11) 1)) (fun t => t.chip.lndMode 11 == 0)
    && answers (.enableKeep w1 (.landing 11)) (st ((mode (.landing 11) 1).setBit (.LND_STATUS 11) F.LND_STATUS_DARK_SEEN true)) (fun t =>
      t.chip.lndMode 11 == 1 && t.chip.bit (.LND_STATUS 11) F.LND_STATUS_REFUSED) = true := by decide +kernel
/-- A landing copy that was to leave, under an UPGRADE of its die, free to leave, and gone (R183). -/
def leaving (m : List Miss) : Chip := { (up.setLnd 0 0x40 (some { data := 5, poison := false, world := 1, shadowed := false })).onDie 0 (fun z =>
  { z with lndLeft := [0x40] }) with miss := m }
def upgrading : Miss := { req := { kind := .UPGRADE, die := 0, line := 0x40 }, h := 0, comp := none, data := none, fwd := none }
theorem witness_lndLeft : ((leaving []).die 0).lndLeft = [0x40] ∧ ((leaving []).lndAt 0 0x40).isSome = true ∧ (leaving []).victimOk 0 0x40 = true
    ∧ (leaving []).holders 0 0x40 = [] ∧ (leaving [upgrading]).victimOk 0 0x40 = false ∧ ((leaving []).setLnd 0 0x40 none).lndAt 0 0x40 = none
    ∧ (up.die 0).lndLeft = [] := by decide +kernel
/-- A valid entry whose LIMIT is below its BASE, one that fits, and one that stands. -/
theorem witness_rat : let y := up.storeFields (.PKG_RAT_BASE 63) 0x40000001
    let z := up.storeFields (.PKG_RAT_BASE 63) 0x1
    (y.bit (.PKG_RAT_BASE 63) F.PKG_RAT_BASE_VALID && y.ratBad 63) = true ∧ (z.bit (.PKG_RAT_BASE 63) F.PKG_RAT_BASE_VALID && z.ratBad 63) = false
    ∧ z.bit (.PKG_RAT_BASE 63) F.PKG_RAT_BASE_VALID = true ∧ up.bit (.PKG_RAT_BASE 63) F.PKG_RAT_BASE_VALID = false := by decide +kernel
/-- A BASE value is bad for its address, for a pin with no way, and for more than ten reserved ways. -/
theorem witness_ratBad : F.PKG_RAT_BASE_VALID.get 0x40000001 = 1 ∧ F.PKG_RAT_BASE_PIN.get 9 = 1
    ∧ up.fld (.PKG_RAT_LIMIT 63) F.PKG_RAT_LIMIT_LIMIT < F.PKG_RAT_BASE_BASE.get 0x40000001 ∧ up.fld (.PKG_RAT_LIMIT 63) F.PKG_RAT_LIMIT_WAYS = 0
    ∧ (let c := up.setReg (.PKG_RAT_LIMIT 63) 0x45FFFFFF
       10 < ((List.range 12).filter (fun w => bitAt (c.fld (.PKG_RAT_LIMIT 63) F.PKG_RAT_LIMIT_WAYS) w)).length)
    ∧ (let c := up.setReg (.PKG_RAT_LIMIT 63) 0x45FFFF00
       ¬(c.fld (.PKG_RAT_LIMIT 63) F.PKG_RAT_LIMIT_LIMIT < F.PKG_RAT_BASE_BASE.get 9) ∧ c.fld (.PKG_RAT_LIMIT 63) F.PKG_RAT_LIMIT_WAYS ≠ 0) := by
  decide +kernel
/-- The worked example of chapter 06: LIMIT 0x4_5FFF with WAYS 0xF00, then BASE 0x4_0000 with PIN and VALID, reserve ways 0xF00. -/
theorem test_rat : answers (.pkgRatLimitWrite w1 0 0x45FFFF00) (st up) (fun t => answers (.pkgRatBaseWrite w1 0 0x40000009) t (fun u =>
    u.chip.fld .PKG_RAT_CTL F.PKG_RAT_CTL_RESERVED_WAYS == 0xF00 && u.chip.fld (.PKG_RAT_BASE 0) F.PKG_RAT_BASE_BASE == 0x40000
      && u.chip.fld (.PKG_RAT_LIMIT 0) F.PKG_RAT_LIMIT_LIMIT == 0x45FFF)) = true := by decide +kernel

-- maintenance

/-- START with an operation. -/
def goes (op : Nat) : Word := F.CME_CTL_START.put (F.CME_CTL_OP.put 0 op) 1
theorem witness_mnt : startsOp (goes 1) 1 = true ∧ startsOp (goes 2) 2 = true ∧ startsOp (goes 3) 3 = true ∧ mntMay w1 = true ∧ mntMay w5 = false
    ∧ mntMay { rid := 3, world := 0 } = true ∧ up.bit (mntSts 11) F.CME_STATUS_BUSY = false
    ∧ (up.setBit (mntSts 31) F.CME_STATUS_BUSY true).bit (mntSts 31) F.CME_STATUS_BUSY = true
    ∧ (let c := (up.setFld (mntBase 0) F.CME_BASE_BASE 5).storeFields (mntCtl 0) (goes 1)
       c.fld (mntLimit 0) F.CME_LIMIT_LIMIT < c.fld (mntBase 0) F.CME_BASE_BASE)
    ∧ (let c := up.storeFields (mntCtl 0) (goes 1)
       c.fld (mntBase 0) F.CME_BASE_BASE ≤ c.fld (mntLimit 0) F.CME_LIMIT_LIMIT
       ∧ c.cmeLines { key := 0, op := 1, lnd := false, cores := 0, world := 1, label := 0, wait := [] } 0 0 = [] ∧ c.mntLines 0 0 0 = [])
    ∧ F.CME_CTL_START.get (up.abortValue 0) = 0 := by decide +kernel
def visit (op : Nat) : MntRun := { key := 0, op := op, lnd := false, cores := 2 ^ 24 - 1, world := 1, label := 0, wait := [] }
theorem witness_mntDone : ({ up with mnt := [visit 1] } : Chip).mnt = [visit 1] ∧ (visit 1).key = 0 ∧ (visit 1).wait = [] ∧ up.pair.queue = [] := by
  decide +kernel
theorem witness_mntLine : (holds .M).cmeOwner (visit 3) 0x40 = some 0 ∧ (visit 3).cores = 2 ^ 24 - 1 ∧ (holds .M).wbCount 0 < 16
    ∧ (visit 1).op = 1 ∧ (holds .M).cmeOwner (visit 1) 0x40 = some 0 ∧ (holds .M).cmeOwner (visit 2) 0x40 = some 0
    ∧ (holds .S).cmeOwner (visit 2) 0x40 = none := by decide +kernel

/-- A dirty line of an L2 that is not selected, in no selected array (R464). -/
theorem witness_cmePresent : (holds .M).cmePresent (visit 1) 0x40 = true ∧ (holds .M).cmePresent (visit 1) 0x41 = false
    ∧ (holds .M).cmePresent { visit 1 with cores := 2 } 0x40 = false ∧ (holds .M).cmeOwner { visit 1 with cores := 2 } 0x40 = some 0
    ∧ ({ up with mnt := [{ visit 1 with refused := true }] } : Chip).mnt = [{ visit 1 with refused := true }] := by decide +kernel

-- coherence

def rd (k : MsgKind) (d : Nat) : Msg := { kind := k, die := d, line := 0x40, rid := 24 * d, world := 1 }
def pk (c : Chip) : Pkg := { Pkg.reset with chip := c }
theorem idleHome (k : MsgKind) (d : Nat) (hd : d < 12) : (pk up).IdleHome (rd k d) := by
  have h : ∀ e : Fin 12, up.dieLost e.1 = false := by decide +kernel
  exact ⟨by norm_num [rd], fun _ => h ⟨d, hd⟩, by decide +kernel, by decide +kernel, by decide +kernel, by
    have : (pk up).chip.targetLine 0x40 = false := by decide +kernel
    exact this⟩
theorem witness_grant : ridType (rd .RD_OWN_ZERO 11).rid = 0 ∧ up.canArrive (rd .RD_OWN_ZERO 11) = true
    ∧ up.canArrive (rd .RD_SHARED 0) = true ∧ up.dirAt 0x40 = DirEntry.none ∧ (up.dirFreeWay 0x40).isSome = true := by decide +kernel
theorem test_grant : answers (.rdShared (rd .RD_SHARED 3)) (st up) (fun t => t.chip.dirAt 0x40 == DirEntry.owned 3
    && t.chip.net.any (fun m => m.kind == .COMP && m.die == 3 && m.grant == 1)) = true := by decide +kernel
/-- Checks in force, with no segment: every page reads FREE, and a request of world 5 is refused with CHECK 3. -/
def checked : Chip := up.setBit .WLD_CTL F.WLD_CTL_COMMITTED true
theorem up_noneLost : up.NoneLost := by
  have h : ∀ d : Fin 12, up.dieLost d.1 = false := by decide +kernel
  exact fun d hd => h ⟨d, hd⟩
theorem witness_refuse : (((pk checked).onChip (fun c => c.arrive (rd .RD_SHARED 3))).worldCheck 72 5 0x40).2 = (3, 0) := by decide +kernel
def shared (l : List Nat) : DirEntry := { state := 1, bcast := false, owner := 0, ptrs := l }
theorem witness_invalidate : (up.setDir 0x40 (shared [3, 7])).dirAt 0x40 = shared [3, 7] ∧ (shared [3, 7]).state = 1 ∧ 7 ∈ (shared [3, 7]).ptrs
    ∧ (shared [3, 7]).bcast = false ∧ (∀ d : Fin 12, (up.setDir 0x40 (shared [3, 7])).dieLost d.1 = false)
    ∧ (up.setDir 0x40 (shared [3, 7])).canArrive (rd .RD_OWN 3) = true := by decide +kernel
theorem test_invalidate : answers (.rdOwn (rd .RD_OWN 3)) (st (up.setDir 0x40 (shared [3, 7]))) (fun t =>
    t.chip.net.map (fun m => (m.kind, m.die)) == [(.SNP_INV, 7)]) = true := by decide +kernel
def txn (req : Msg) (await : List Nat) (granted : Bool) : Txn :=
  { req := req, before := shared [3, 7], await := await, got := none, ownerHeld := 0, fwd := false, fwdDirty := false, lost := false, granted := granted }
theorem witness_rsp : let x := txn (rd .RD_OWN 3) [7] false
    x.req.line = (rd .RSP 7).line ∧ x.await = [(rd .RSP 7).die] ∧ x.before.state = 1 ∧ x.lost = false ∧ x.req.kind = .RD_OWN ∧ x.req.die < 12
    ∧ (rd .RSP 7).dcode = 0 ∧ ({ up with txn := [x] } : Chip).txn = [x] ∧ ({ up with txn := [x] } : Chip).homeQ = []
    ∧ ({ up with txn := [x] } : Chip).dieLost 3 = false ∧ ({ up with txn := [x] } : Chip).canArrive (rd .RSP 7) = true := by
  decide +kernel
theorem test_rsp : answers (.rsp (rd .RSP 7)) (st { up.setDir 0x40 (shared [3, 7]) with txn := [txn (rd .RD_OWN 3) [7] false] }) (fun t =>
    t.chip.dirAt 0x40 == DirEntry.owned 3) = true := by decide +kernel
theorem witness_compAck : let x := txn (rd .RD_OWN 3) [] true
    x.req.line = (rd .COMP_ACK 3).line ∧ x.granted = true ∧ x.req.die = (rd .COMP_ACK 3).die
    ∧ ({ up with txn := [x] } : Chip).canArrive (rd .COMP_ACK 3) = true := by decide +kernel
def io (k : MsgKind) : Msg := { kind := k, die := 12, line := 0x40, rid := 0x5000, world := 1, data := 5, mask := 0xFF, code := 0 }
theorem witness_homeIo : (pk up).IdleHome (io .WR_FULL) ∧ ridType (io .WR_FULL).rid = 5 ∧ up.canArrive (io .WR_FULL) = true ∧ up.mirrorRegion (0x40 / 64) = none ∧ up.isCxl 0x40 = false
    ∧ up.inService (up.homeHall 0x40) = true ∧ (atomicOp 7 0 (atomicArgs 7 5).1 (atomicArgs 7 5).2).isSome = true := by
  refine ⟨⟨by norm_num [io], fun h => ?_, by decide +kernel, by decide +kernel, by decide +kernel, by decide +kernel⟩, by decide +kernel⟩
  exact absurd h (by decide)
theorem test_homeIo : answers (.wrFull (io .WR_FULL)) (st up) (fun t => t.toPkg.memRead 0x40 == (5, false))
    && answers (.wrPart (io .WR_PART)) (st up) (fun t => t.toPkg.memRead 0x40 == (5, false)) = true := by decide +kernel
theorem witness_hallHit : let c := up.setHc 0x40 (some { data := 9, poison := false, dirty := false, way := 0 })
    c.hcMode (c.homeHall 0x40) = 0 ∧ c.hcAt 0x40 = some { data := 9, poison := false, dirty := false, way := 0 } ∧ c.policy 0x40 ≠ 3 := by decide +kernel
theorem witness_writeBack : let c := up.setDir 0x40 (DirEntry.owned 3)
    c.dirAt 0x40 = DirEntry.owned 3 ∧ c.dieLost 3 = false ∧ (rd .WB_DATA 3).keep = false
    ∧ ¬ (2 ≤ (c.dirAt 0x40).state ∧ (c.dirAt 0x40).owner = 4) ∧ up.wldCommitted = false
    ∧ ridType ({ kind := .HALL_RD, die := 12, line := 0x40, rid := 0x400F } : Msg).rid = 4 ∧ ((pk up).memRead 0x40).2 = false
    ∧ c.canArrive (rd .WB_DATA 3) = true ∧ c.canArrive (rd .EVICT_CLEAN 3) = true ∧ c.canArrive (rd .WCHK 3) = true ∧ c.wb = []
    ∧ c.canArrive { kind := .HALL_RD, die := 12, line := 0x40, rid := 0x400F } = true := by decide +kernel
/-- The home of line 0x40 is hall 1; its port is disabled when hall 15 reads a line of the ownership table there (R282). -/
theorem witness_hallRdShut : let c := (openHalls up).setPortState 1 0 3
    let m : Msg := { kind := .HALL_RD, die := 12, line := 0x40, rid := 0x400F }
    c.homeHall m.line ≠ ridIndex m.rid ∧ c.homeShut m.line = true ∧ c.canArrive m = true ∧ (openHalls up).homeShut 0x40 = false
    ∧ 0 < up.owncWays 15 0x40 ∧ ((pk (openHalls up)).potFetch 15 0x40).2.2 = false
    ∧ (let p : Pkg := { pk up with dpoison := [(0x40, 1)] }
       (p.potFetch 15 0x40).2.2 = true) := by decide +kernel
/-- Every hall has been told of the loss of die 11. -/
def purged : Chip := up.onDie 11 (fun x => { x with purging := true, told := List.range 16 })
theorem witness_purge : (∀ n : Fin 16, (purged.die 11).told.contains n.1 = true) ∧ purged.dirFree 11 = true ∧ (purged.die 11).purging = true
    ∧ (∀ x : Fin 12, x.1 ≠ 11 → (purged.die x.1).purging = false) ∧ (up.die 11).purging = false ∧ purged.txn = [] ∧ purged.homeQ = []
    ∧ ((purged.onDie 3 (fun x => { x with purging := true })).die 3).purging = true
    ∧ (holds .M).held ((holds .M).l2at 0 0x40) = false
    ∧ (holds .M).held { lineIn .M with pinned := true, hold := some (0, 100) } = true := by decide +kernel
theorem test_purge : answers (.hallDiePurge 15 11) (st (up.onDie 11 (fun x => { x with purging := true }))) (fun t =>
    (t.chip.die 11).told == [15] && t.chip.bit (.HALL_DIR_STATUS 15) F.HALL_DIR_STATUS_PURGE_BUSY) = true := by decide +kernel
theorem witness_snoop : (holds .M).canArrive (rd .SNP_INV 0) = true ∧ up.dieUp 0 = true ∧ (holds .M).dieHolds 0 0x40 = false
    ∧ (up.setL2 0 0x40 { lineIn .M with pinned := true, hold := some (0, 100) }).dieHolds 0 0x40 = true
    ∧ (up.setFld (.PKG_DIE_STATUS 0) F.PKG_DIE_STATUS_STATE 5).dieUp 0 = false ∧ (holds .M).holders 0 0x40 = [0]
    ∧ ((holds .M).l2at 0 0x40).st = .M ∧ (holds .M).wbOf 0 0x40 = none
    ∧ (up.setFld (.PKG_DIE_STATUS 0) F.PKG_DIE_STATUS_STATE 5).canArrive (rd .BACK_INV 0) = true := by decide +kernel
theorem test_snoop : answers (.snpShared (rd .SNP_SHARED 0)) (st (holds .M)) (fun t => (t.chip.l2at 0 0x40).st == .O)
    && answers (.snpInv (rd .SNP_INV 0)) (st (holds .M)) (fun t => (t.chip.l2at 0 0x40).st == .I) = true := by decide +kernel
def miss (k : MsgKind) (data : Option Msg) : Miss := { req := rd k 0, h := 0, comp := none, data := data, fwd := none }
theorem witness_answer : (miss .RD_OWN none).req.die = 0 ∧ (miss .RD_OWN none).req.line = 0x40 ∧ (miss .RD_OWN none).comp = none
    ∧ (miss .RD_OWN (some (rd .DATA 0))).data = some (rd .DATA 0) ∧ (miss .RD_OWN none).req.kind = .RD_OWN
    ∧ (miss .RD_OWN none).req.tag = (rd .COMP 0).tag
    ∧ ({ up with miss := [miss .RD_OWN none] } : Chip).canArrive (rd .DATA 0) = true
    ∧ ({ up with miss := [miss .RD_OWN (some (rd .DATA 0))] } : Chip).canArrive { rd .COMP 0 with src := 1, grant := 3 } = true
    ∧ up.engineAwaits 0 0x40 = false ∧ (({ up with miss := [] } : Chip).dropOthers 0 0x40).l2HasRoom 0 0x40 = true
    ∧ ({ up with miss := [] } : Chip).l2HasRoom 0 0x40 = true := by decide +kernel
theorem test_comp : answers (.comp { rd .COMP 0 with src := 1, grant := 3 }) (st { up with miss := [miss .RD_OWN (some { rd .DATA 0 with data := 77 })] })
    (fun t => (t.chip.l2at 0 0x40).st == .M && (t.chip.l2at 0 0x40).data == 77 && t.chip.miss == []
      && t.chip.net.map (fun m => m.kind) == [.COMP_ACK]) = true := by decide +kernel
theorem witness_wbAck : ({ up with wb := [wbe 0 true] } : Chip).wb = [wbe 0 true] ∧ (wbe 0 true).h / 24 = 0 ∧ (wbe 0 true).keep = false
    ∧ ({ wbe 0 true with keep := true } : WbEntry).keep = true ∧ ({ up with wb := [wbe 0 true] } : Chip).canArrive (rd .WB_ACK 0) = true := by
  decide +kernel
theorem witness_wchk : let c := { holds .S with wchk := [(0, 0x40, 3)] }
    c.wchk = [((rd .WCHK_RSP 0).rid, 0x40, 3)] ∧ c.miss = [] ∧ c.lndAt 0 0x40 = none ∧ c.holders 0 0x40 = [0]
    ∧ ((c.given 0 (.fence 0 1 1)).hart 0).hq ≠ [] ∧ c.canArrive { rd .WCHK_RSP 0 with pass := true } = true := by decide +kernel
/-- A hart that waits for a check's answer, in the world that asked and in another (R64). -/
theorem witness_wchkWorld : let c := ({ holds .S with wchk := [(0, 0x40, 3)] } : Chip).given 0 (.fence 0 1 1)
    c.wchk = [((rd .WCHK_RSP 0).rid, (rd .WCHK_RSP 0).line, 3)] ∧ c.miss = [] ∧ (c.hart 0).hq ≠ [] ∧ (c.hart 0).world = (rd .WCHK_RSP 0).world
    ∧ ((c.onHart 0 (fun x => x.putCsr csrMworld 3 0 5)).hart 0).world ≠ (rd .WCHK_RSP 0).world := by decide +kernel
theorem witness_ioRsp : ((up.onHart 0 (fun x => { x with io := some none })).hart 0).io = some none ∧ up.missOf 0 0x40 = none
    ∧ (up.onHart 0 (fun x => { x with io := some none })).canArrive (rd .IO_RSP 0) = true := by decide +kernel

-- the gallery

/-- A read of hall 1's line from Uzomuris, at port A1 of router 32, to router 1. -/
def rdOnce : Msg := { kind := .RD_ONCE, die := 12, line := 0x40, rid := 0x5000 }
def pk1 : Packet := { destR := 1, destPort := 0, srcR := 32, srcPort := 1, vc := 1, cmd := 8, units := 1, msg := rdOnce }
/-- A line for die 1 on its way to the router of link 3; and a read that this link has brought. -/
def dieData : Msg := { kind := .DATA, die := 1, line := 0x40, rid := 0x100 }
def dieRead : Msg := { kind := .RD_SHARED, die := 1, line := 0x40, rid := 0x100 }
/-- Every attachment port open. -/
def open0 : Chip := attachPorts.foldl (fun x p => x.setPortState p.1 p.2 0) up
def inMesh (r port : Nat) : Chip := open0.pushBuf (bufKey r port 0 1) pk1
def pk2 : Packet := open0.packetOf dieData
def toLink : Chip := open0.pushBuf (bufKey 18 0 1 2) pk2
theorem witness_packetIn : let c := open0.send rdOnce
    vcOk 32 5 0 1 = true ∧ packetOk pk1 = true ∧ c.offered 32 5 pk1 = true ∧ c.gal.stuck.contains (bufKey 32 5 0 1) = false ∧ 5 = 4 + pk1.srcPort
    ∧ c.destState pk1 = 0 ∧ cmdPlane pk1.cmd = 0 ∧ c.hasRoom (bufKey 32 5 0 1) 0 pk1.units = true ∧ c.bit (.GAL_PRB_CTL 32) F.GAL_PRB_CTL_EN = false
    ∧ (c.setPortState 1 0 2).destState pk1 = 2 ∧ pktIsReg pk1 = false ∧ (c.setPortState 1 0 2).offered 32 5 pk1 = true
    ∧ ((c.setPortState 1 0 2).heldAt 32 5).length < 8 := by decide +kernel
/-- A link offers what stands first in its receive buffer, and it is taken from there (R229). -/
theorem witness_offered : let c := open0.setLinkEnd 3 false { LinkEnd.reset with rxBuf := [open0.packetOf dieRead] }
    c.offered 18 4 (open0.packetOf dieRead) = true ∧ packetOk (open0.packetOf dieRead) = true
    ∧ ((c.taken 18 4 (open0.packetOf dieRead)).linkEnd 3 false).rxBuf = [] := by decide +kernel
theorem witness_packetHop : (inMesh 1 0).bufAt (bufKey 1 0 0 1) = [pk1] ∧ (inMesh 1 0).outPort 1 pk1 = 4 ∧ (inMesh 1 0).canLeave 1 4 0 1 pk1 = true
    ∧ (inMesh 1 0).winningVc 1 4 0 = some 1 ∧ (inMesh 1 0).winningInput 1 4 0 1 = some 0 ∧ neighbour 1 4 = none ∧ linkAt 1 0 = none
    ∧ (inMesh 32 5).outPort 32 pk1 = 0 ∧ (inMesh 32 5).canLeave 32 0 0 1 pk1 = true ∧ (inMesh 32 5).winningVc 32 0 0 = some 1
    ∧ (inMesh 32 5).winningInput 32 0 0 1 = some 5 ∧ neighbour 32 0 = some (33, 1)
    ∧ toLink.bufAt (bufKey 18 0 1 2) = [pk2] ∧ toLink.outPort 18 pk2 = 4 ∧ toLink.canLeave 18 4 1 2 pk2 = true ∧ linkAt pk2.destR pk2.destPort = some 3
    ∧ toLink.winningVc 18 4 1 = some 2 ∧ toLink.winningInput 18 4 1 2 = some 0 := by decide +kernel
/-- A packet goes along its row first (R207). -/
theorem test_packetHop : answers (.packetHop 32 5 0 1 none ⟨.none, .none⟩) (st (inMesh 32 5)) (fun t => t.chip.bufAt (bufKey 33 1 0 1) == [pk1]
    && t.chip.bufAt (bufKey 32 5 0 1) == []) = true := by decide +kernel
/-- A request keeps its fields at the bits of R203 and R205: DEST 1, SRC 32 at port 1, VC 1, CMD 0x08, REQ_ID, ADDR. -/
theorem test_header : pk1.header = 1 + 32 * 2 ^ 8 + 1 * 2 ^ 14 + 1 * 2 ^ 16 + 8 * 2 ^ 20 + 0x5000 * 2 ^ 28 + 0x40 * 2 ^ 68 := by decide +kernel
theorem witness_creditReturn : let c := { open0 with gal := { open0.gal with used := [(bufKey 47 6 2 2, 1)] } }
    vcOk 47 6 2 2 = true ∧ ((c.bufAt (bufKey 47 6 2 2)).map (fun p => p.units)).sum < c.usedAt (bufKey 47 6 2 2) := by decide +kernel
def heldPkt (since : Nat) : HeldPkt := { r := 47, port := 6, pkt := pk1, since := since }
def heldChip (now : Nat) : Chip := { up.setFld (.GAL_FENCE_CTL 1) F.GAL_FENCE_CTL_FENCE_LIMIT 100 with now := now, gal := { up.gal with hold := [heldPkt 0] } }
theorem witness_holdTimeout : (heldChip 100).gal.hold = [heldPkt 0] ∧ (heldPkt 0).r = 47
    ∧ (heldPkt 0).since + (heldChip 100).fld (.GAL_FENCE_CTL (heldPkt 0).pkt.destR) F.GAL_FENCE_CTL_FENCE_LIMIT ≤ (heldChip 100).now
    ∧ (heldChip 99).now < (heldPkt 0).since + (heldChip 99).fld (.GAL_FENCE_CTL (heldPkt 0).pkt.destR) F.GAL_FENCE_CTL_FENCE_LIMIT := by decide +kernel
def traced : Chip := { up with gal := { up.gal with trace := [(47, [1, 2])] } }
theorem witness_trace : (let c := openHalls traced; c.ioIdle (c.fld (.GAL_PRB_TPTR 47) F.GAL_PRB_TPTR_NEXT) = true) ∧ sget [] 47 traced.gal.trace = [1, 2] ∧ traced.bit (.GAL_PRB_CTL 47) F.GAL_PRB_CTL_FULL = false
    ∧ traced.bit (.GAL_PRB_CTL 47) F.GAL_PRB_CTL_TERR = false ∧ traced.lineIdle (traced.fld (.GAL_PRB_TPTR 47) F.GAL_PRB_TPTR_NEXT) = true
    ∧ ((pk traced).ioWrite 0x5004 1 0 0 0 (BitVec.allOnes 64) false).2 = 0
    ∧ ((pk (checked)).ioWrite 0x5004 5 0 0 0 (BitVec.allOnes 64) false).2 ≠ 0 := by decide +kernel

/-- FENCE and UNFENCE of a port. -/
def fenceCmd (port cmd : Nat) : Word := F.GAL_FENCE_CTL_CMD.put (F.GAL_FENCE_CTL_PORT.put 0 port) cmd
theorem witness_fence : w1.sealed = true ∧ w5.sealed = false ∧ F.GAL_FENCE_CTL_CMD.get (fenceCmd 0 1) = 1 ∧ F.GAL_FENCE_CTL_CMD.get (fenceCmd 1 2) = 2
    ∧ F.GAL_FENCE_CTL_PORT.get (fenceCmd 1 2) = 1
    ∧ (let y := open0.storeFields (.GAL_FENCE_CTL 32) (fenceCmd 0 1)
       y.fenceBad w1 32 0 = false ∧ y.portState 32 0 = 0)
    ∧ (open0.storeFields (.GAL_FENCE_CTL 9) (fenceCmd 0 1)).fenceBad w1 9 0 = true
    ∧ ((open0.setPortState 47 1 2).storeFields (.GAL_FENCE_CTL 47) (fenceCmd 1 2)).portState 47 1 = 2
    ∧ (open0.storeFields (.GAL_FENCE_CTL 47) (fenceCmd 1 2)).portState 47 1 ≠ 2 := by decide +kernel
theorem witness_fenceDisabled : let c := open0.setPortState 47 1 3
    c.fenceBad w1 47 1 = false ∧ c.portState 47 1 ≠ 0 ∧ F.GAL_FENCE_CTL_CMD.get (fenceCmd 1 1) = 1 ∧ F.GAL_FENCE_CTL_PORT.get (fenceCmd 1 1) = 1 := by
  decide +kernel
theorem test_fence : answers (.fenceCommand w1 32 (fenceCmd 0 1)) (st open0) (fun t => t.chip.portState 32 0 == 1 && t.chip.portState 32 1 == 0) = true := by
  decide +kernel
/-- Every mesh port fenced, so that the gallery is quiet, and one port still fencing with every marker but the control ports'. -/
def quiet : Chip := attachPorts.foldl (fun x p => x.setPortState p.1 p.2 3) up
def marked : Chip := { quiet.setPortState 8 0 1 with gal := { quiet.gal with marks := quiet.gal.marks ++ (List.range 144).flatMap (fun s => if s % 3 = 2 ∨ s = 24 then
  (List.range 3).flatMap (fun p => (List.range (vcCount p)).map (fun v => (16, markKey s p v))) else []) } }
theorem witness_mark : let c := quiet.setPortState 8 0 1
    c.portState 8 0 = 1 ∧ c.injects 143 = true ∧ c.ahead 8 0 143 2 2 = false ∧ c.gal.marks.contains (8 * 2 + 0, markKey 143 2 2) = false
    ∧ c.allMarks 8 0 = false := by decide +kernel
theorem witness_drained : marked.portState 8 0 = 1 ∧ (marked.delivered 8 0).all pktIsReg = true ∧ marked.drained (attachOf 8 0) = true := by decide +kernel
theorem witness_allMarks : marked.allMarks 8 0 = true := by
  have h : ∀ src : Fin 144, marked.injects src.1 = true → src.1 % 3 = 2 ∨ src.1 = 24 := by decide +kernel
  have m : marked.gal.marks = quiet.gal.marks ++ (List.range 144).flatMap (fun s => if s % 3 = 2 ∨ s = 24 then
    (List.range 3).flatMap (fun p => (List.range (vcCount p)).map (fun v => (16, markKey s p v))) else []) := by rfl
  unfold Chip.allMarks
  simp only [List.all_eq_true, List.mem_range, Bool.or_eq_true, Bool.not_eq_true', List.contains_iff_mem]
  intro src hs
  by_cases hi : marked.injects src = true
  · refine .inr (fun plane hp vc hv => ?_)
    rw [m]
    refine List.mem_append_right _ (List.mem_flatMap.mpr ⟨src, List.mem_range.mpr hs, ?_⟩)
    rw [if_pos (h ⟨src, hs⟩ hi)]
    exact List.mem_flatMap.mpr ⟨plane, List.mem_range.mpr hp, List.mem_map.mpr ⟨vc, List.mem_range.mpr hv, rfl⟩⟩
  · exact .inl (by simpa using hi)
theorem witness_portCtl : bitAt (up.reg (.GAL_PORT_CTL 8)).toNat 0 = false ∧ bitAt (1 : Word).toNat 0 = true
    ∧ bitAt (up.reg (.GAL_PORT_CTL 8)).toNat 1 = bitAt (1 : Word).toNat 1 ∧ (up.setPortState 8 0 2).portState 8 0 = 2 ∧ open0.portState 8 0 < 2
    ∧ bitAt ((up.setPortState 8 0 2).reg (.GAL_PORT_CTL 8)).toNat 0 = false := by decide +kernel
theorem witness_galId : quiet.galQuiet = true ∧ F.GAL_ID_Y.get (F.GAL_ID_Y.put 0 5) < 6 ∧ open0.galQuiet = false
    ∧ 6 ≤ F.GAL_ID_Y.get (F.GAL_ID_Y.put 0 6) := by decide +kernel

-- links and dies

set_option maxRecDepth 100000

/-- A bundle of one zero unit with a sequence number: its slot is a control unit (2), its COUNT 1. -/
def bndOf (seq crc : Nat) : Bundle := { units := [0], trailer := BitVec.ofNat 128 (crc + seq * 2 ^ 32 + 1 * 2 ^ 50 + 2 * 2 ^ 54) }
def bnd : Bundle := bndOf 0 (crc32 (bndBytes (bndOf 0 0)))
/-- CRC-32 of the nine ASCII digits, as every description of the polynomial gives it. -/
theorem test_crc32 : crc32 ((List.range 9).map (fun i => BitVec.ofNat 8 (0x31 + i))) = 0xCBF43926 := by decide +kernel
def linkUp (k : Nat) : Chip := up.setFld (.JL_STATUS k) F.JL_STATUS_STATE 2
/-- The I/O die has a line for die 1 waiting for link 3; the bundle that takes it there. -/
def sending : Chip := (linkUp 3).setLinkEnd 3 false { LinkEnd.reset with out := [pk2] }
def sentBnd : SentBundle := { seq := 0, units := pk2.onLink, slots := [0, 1], pkts := [pk2], passed := false }
theorem witness_bundle : let b := (sending.linkEnd 3 false).form 3 sentBnd
    b.units.length ≤ 8 ∧ b.units ≠ [] ∧ sending.linkState 3 = 2 ∧ bndGood b = true ∧ bndCtl b = [] ∧ Bundle.field b 41 41 = 0
    ∧ sending.sends 3 false [] = some sentBnd ∧ sentBnd.seq = (sending.linkEnd 3 true).expSeq ∧ (sending.linkEnd 3 false).resend = []
    ∧ bndGood (bndOf 0 0) = false := by decide +kernel
def failing (run : Nat) : Chip := (linkUp 0).setLinkEnd 0 true { LinkEnd.reset with failSeq := 0, failRun := run }
theorem witness_bundleBad : (failing 15).linkState 0 = 2
    ∧ 16 ≤ (if ((failing 15).linkEnd 0 true).failSeq = ((failing 15).linkEnd 0 true).expSeq then ((failing 15).linkEnd 0 true).failRun else 0) + 1
    ∧ (if ((failing 14).linkEnd 0 true).failSeq = ((failing 14).linkEnd 0 true).expSeq then ((failing 14).linkEnd 0 true).failRun else 0) + 1 < 16 := by
  decide +kernel
theorem test_bundleBad : answers (.bundleReceive 0 true (bndOf 0 0)) (st (failing 15)) (fun t => t.chip.linkState 0 == 3)
    && answers (.bundleReceive 0 true (bndOf 0 0)) (st (failing 14)) (fun t => t.chip.linkState 0 == 2) = true := by decide +kernel
def unacked (now : Nat) : Chip := { (linkUp 23).setLinkEnd 23 false { LinkEnd.reset with nextSeq := 1, replay := [sentBnd] } with now := now }
theorem witness_replay : (unacked 0).linkState 23 = 2 ∧ ((unacked 0).linkEnd 23 false).retryAt = []
    ∧ (((unacked 0).linkEnd 23 false).acked 23 (unacked 0).now 255).replay ≠ [] ∧ ((unacked 0).linkEnd 23 false).replay ≠ []
    ∧ ((unacked 0x10000).linkEnd 23 false).waitFrom + (unacked 0x10000).fld (.JL_CFG 23) F.JL_CFG_REPLAY_TIMEOUT ≤ (unacked 0x10000).now
    ∧ (unacked 0).now < ((unacked 0).linkEnd 23 false).waitFrom + (unacked 0).fld (.JL_CFG 23) F.JL_CFG_REPLAY_TIMEOUT := by decide +kernel
theorem witness_linkDown : let c := (linkUp 1).setFld (.JL_STATUS 0) F.JL_STATUS_STATE 3
    c.linkState 0 = 3 ∧ linkSibling 0 = 1 ∧ c.linkState (linkSibling 0) = 2 ∧ linkSibling 1 = 0
    ∧ ((linkUp 0).setFld (.JL_STATUS 1) F.JL_STATUS_STATE 2).linkState 0 = 2
    ∧ ((linkUp 0).setFld (.JL_STATUS 1) F.JL_STATUS_STATE 2).linkState (linkSibling 0) = 2 := by decide +kernel

def ident (link cap fail : Nat) : Ident := { link := link, stepping := 0xB1, serial := 77, cap := cap, failMask := fail }
def dieStart (a b : Bool) (la : Nat) : DieStart := { trainA := a, trainB := b, identA := ident la 0x70F 0, identB := ident 1 0x70F 0 }
def dieIn (d s : Nat) : Chip := up.setFld (.PKG_DIE_STATUS d) F.PKG_DIE_STATUS_STATE s
def starting : Chip := ((dieIn 11 1).setFld (.JL_STATUS 22) F.JL_STATUS_STATE 2).setFld (.JL_STATUS 23) F.JL_STATUS_STATE 2
theorem witness_dieStart : dieStartOk (dieStart true false 0) = true ∧ (dieStart true false 0).trainA = true ∧ (dieStart false false 0).trainA = false
    ∧ (dieStart false false 0).trainB = false ∧ [0, 4, 5, 6].contains ((dieIn 11 0).dieState 11) = true
    ∧ [0, 4, 5, 6].contains ((dieIn 11 2).dieState 11) = false ∧ starting.dieState 11 = 1 ∧ starting.identCause 11 (dieStart true true 0) = 0
    ∧ starting.linkState 22 = 2 ∧ starting.identCause 11 (dieStart true true 1) ≠ 0 ∧ starting.bit .PKG_CTL F.PKG_CTL_COMMITTED = false := by decide +kernel
/-- A die that is neither B0 nor B1, or of another capability vector than its stepping's, does not exist (R1, R240). -/
theorem test_identOk : identOk (ident 0 0x70F 0) = true ∧ identOk { ident 0 0xF 0 with stepping := 0xB0 } = true ∧ identOk (ident 0 5 0) = false := by decide
theorem test_dieStart : answers (.dieReset w1 11 (dieStart false false 0)) (st (dieIn 11 0)) (fun t => t.chip.dieState 11 == 6
      && t.chip.fld (.PKG_DIE_STATUS 11) F.PKG_DIE_STATUS_CAUSE == 12)
    && answers (.ident 11 (dieStart true true 1)) (st starting) (fun t => t.chip.dieState 11 == 6
      && t.chip.fld (.PKG_DIE_STATUS 11) F.PKG_DIE_STATUS_CAUSE == 11) = true := by decide +kernel
/-- A held-out die whose rail is outside R43, and a rail that is turned on with the reset. -/
theorem witness_dieWaits : (let c := (dieIn 11 6).onDie 11 (fun x => { x with mv := 400 })
    [0, 4, 5, 6].contains (c.dieState 11) = true ∧ (c.dieState 11 == 0 || c.dieState 11 == 5 || c.railWithin 11) = false)
    ∧ ((dieIn 11 0).dieState 11 == 0) = true := by decide +kernel
theorem witness_identFresh : (starting.die 11).identOk = false := by decide +kernel
theorem witness_identAck : let c := ((dieIn 0 1).setBit .PKG_CTL F.PKG_CTL_COMMITTED true).onDie 0 (fun x => { x with identOk := true })
    c.dieState 0 = 1 ∧ (c.die 0).identOk = true ∧ c.bit .PKG_CTL F.PKG_CTL_COMMITTED = true ∧ (c.die 0).purging = false ∧ (c.hart 23).haltPending = false ∧ hartDie 23 = 0 ∧ c.corePhys 23 ≠ 31 := by decide +kernel
theorem witness_hold : let c := (dieIn 11 6).setFld (.PKG_DIE_STATUS 11) F.PKG_DIE_STATUS_CAUSE 15
    c.dieState 11 = 6 ∧ c.fld (.PKG_DIE_STATUS 11) F.PKG_DIE_STATUS_CAUSE = 15 := by decide +kernel
theorem witness_dieStop : up.dieState 11 = 2 ∧ (up.dirtyLines 287).length + up.wbCount 287 ≤ 16 ∧ (dieIn 11 0).dieState 11 ≠ 2 ∧ [4, 5, 6].contains ((dieIn 11 6).dieState 11) = true
    ∧ (dieIn 11 3).dieState 11 = 3 ∧ (dieIn 11 3).dieSettled 11 = true ∧ ((dieIn 11 1).die 11).purging = false
    ∧ (((dieIn 11 3).onDie 11 (fun x => { x with quiesced := true })).die 11).quiesced = true ∧ ((dieIn 11 3).die 11).quiesced = false
    ∧ up.dieUp 11 = true ∧ up.dieStuck 11 = false ∧ ({ up with now := 1000000000 } : Chip).dieStuck 11 = true
    ∧ ({ up with now := 1000000000 } : Chip).dieUp 11 = true := by decide +kernel

-- time, supply and power

theorem witness_time : up.bit .PKG_TIME_STATUS F.PKG_TIME_STATUS_HOLDOVER = false
    ∧ (up.setBit .PKG_TIME_STATUS F.PKG_TIME_STATUS_HOLDOVER true).bit .PKG_TIME_STATUS F.PKG_TIME_STATUS_HOLDOVER = true := by decide +kernel
def droopy : Chip := up.setFld (.CD_SUPPLY_CFG 11) F.CD_SUPPLY_CFG_DROOP_MARK_MV 700
theorem witness_droop : 699 < droopy.fld (.CD_SUPPLY_CFG 11) F.CD_SUPPLY_CFG_DROOP_MARK_MV ∧ droopy.fld (.CD_SUPPLY_CFG 11) F.CD_SUPPLY_CFG_DROOP_MARK_MV ≤ 700
    ∧ up.dieState 11 ≠ 0 ∧ up.dieState 11 ≠ 5 := by decide +kernel
def low (now mv : Nat) : Chip := { up.onDie 11 (fun x => { x with belowSince := some 5, mv := mv }) with now := now }
theorem witness_brownout : ((low 1006 499).die 11).belowSince = some 5 ∧ (low 1006 499).dieState 11 ≠ 0 ∧ 5 + 1000 < (low 1006 499).now
    ∧ (low 1005 499).now ≤ 5 + 1000 ∧ (low 0 419).dieUp 11 = true ∧ ((low 0 419).die 11).mv < 420 ∧ 420 ≤ ((low 0 420).die 11).mv := by decide +kernel
/-- The fault comes after more than 1 µs below the functional floor (R48), not at it. -/
theorem test_brownout : answers (.brownout 11) (st (low 1006 499)) (fun t => t.chip.bit (.CD_SUPPLY_STATUS 11) F.CD_SUPPLY_STATUS_BROWNOUT)
    && gives (.brownout 11) (st (low 1005 499)) (low 1005 499) = true := by decide +kernel
theorem witness_iodRails : let c := { up with rail := [(12, 419)], railBadAt := [(12, 1), (15, 1)], now := 1001 }
    sget 0 12 c.railBadAt ≠ 0 ∧ sget 0 12 c.railBadAt + 1000 ≤ c.now ∧ sget 0 12 c.rail < 420 ∧ sget 0 15 c.railBadAt ≠ 0
    ∧ sget 0 15 c.railBadAt + 200 ≤ c.now ∧ sget 0 15 ({ c with pmbusMiss := [(15, 2)] } : Chip).pmbusMiss = 2 := by decide +kernel
theorem witness_pacer : let c := up.setBit (.CD_PACER_CFG 11) F.CD_PACER_CFG_PACE_EN true
    c.bit (.CD_PACER_CFG 11) F.CD_PACER_CFG_PACE_EN = true ∧ (c.setBit (.CD_PACER_STATUS 11) F.CD_PACER_STATUS_EMERGENCY true).emergency 11 = true
    ∧ (up.die 11).demand ≤ (up.die 11).allow := by decide +kernel
def droopN (en : Bool) : Chip := up.setBit .PKG_PACER_CFG F.PKG_PACER_CFG_DROOP_N_EN en
theorem witness_droopN : (droopN true).bit .PKG_PACER_CFG F.PKG_PACER_CFG_DROOP_N_EN = true
    ∧ (droopN true).pins.droopN = true ∧ (droopN false).pins.droopN = true
    ∧ ({ up with pins := { up.pins with droopN := false } } : Chip).pins.droopN = false
    ∧ (droopN false).bit .PKG_PACER_CFG F.PKG_PACER_CFG_DROOP_N_EN = false
    ∧ (up.setBit (.CD_PACER_STATUS 11) F.CD_PACER_STATUS_EMERGENCY true).emergency 11 = true
    ∧ (let c := { up.onDie 11 (fun x => { x with droopEnd := some 9 }) with now := 9, pins := { up.pins with droopN := true } }
       (c.die 11).droopEnd = some 9 ∧ 9 ≤ c.now ∧ c.pins.droopN = true ∧ ({ c with now := 8 } : Chip).now < 9) := by decide +kernel
def peaky (b : Bool) : Chip := (((up.setFld .PKG_POWER_CFG F.PKG_POWER_CFG_TDP_W 500).setFld .PKG_POWER_CFG F.PKG_POWER_CFG_PEAK_MS 10).setBit
  .PKG_POWER_STATUS F.PKG_POWER_STATUS_PEAK_ACTIVE b)
theorem witness_power : (peaky true).bit .PKG_POWER_STATUS F.PKG_POWER_STATUS_PEAK_ACTIVE = true ∧ 500 ≤ (peaky true).tdp
    ∧ (peaky false).bit .PKG_POWER_STATUS F.PKG_POWER_STATUS_PEAK_ACTIVE = false ∧ (peaky false).tdp < 501 ∧ (peaky false).peakBar = false
    ∧ (peaky false).peakMs ≠ 0 ∧ (let c := { peaky true with peakAt := some 0, now := 10000000 }
      c.peakAt = some 0 ∧ 0 + c.peakMs * 1000000 ≤ c.now ∧ ({ c with now := 9999999 } : Chip).now < 0 + c.peakMs * 1000000)
    ∧ powerCfgOk (up.reg .PKG_POWER_CFG) = true ∧ powerCfgOk 0 = false := by decide +kernel
theorem test_power : answers (.powerSample 501) (st (peaky false)) (fun t => t.chip.bit .PKG_POWER_STATUS F.PKG_POWER_STATUS_PEAK_ACTIVE)
    && answers (.powerSample 500) (st (peaky true)) (fun t => !t.chip.bit .PKG_POWER_STATUS F.PKG_POWER_STATUS_PEAK_ACTIVE) = true := by decide +kernel

theorem witness_rails : iodDroopMark = 580
    ∧ ({ up with refclkGoodAt := some 7, now := 100007 } : Chip).refclkGoodAt = some 7 ∧ 7 + 100000 ≤ ({ up with now := 100007 } : Chip).now
    ∧ ({ up with now := 100006 } : Chip).now < 7 + 100000
    ∧ ((low 0 600).die 11).floorLost = false ∧ (((low 0 600).onDie 11 (fun x => { x with floorLost := true })).die 11).floorLost = true
    ∧ ({ up with viodFloor := true } : Chip).viodFloor = true ∧ (dieIn 11 5).dieUp 11 = false := by decide +kernel
theorem witness_droopDies : 11 ∈ (droopN true).droopDies := by decide +kernel

-- halls and bandwidth regulation

theorem witness_flight : 0 < 42 ∧ 42 + (List.range 15).foldl (fun a k => a + (if k = 14 then 982 else 0)) 0 ≤ 1024 := by decide
def hallOf (t : TreadType) (write : Bool) : Chip := { open0 with rail := [(12, 900)] }.onHall 15 (fun x => { x with flight := t :: List.replicate 1023 .maint, pos := 0, waiting := [{
  cls := 14, line := up.lineAt 15 0, write := write, alloc := false, req := { io .RD_ONCE with line := up.lineAt 15 0 } }] })
theorem witness_hall : up.inService 15 = true ∧ (up.hall 15).flight = [] ∧ (let c := hallOf (.guar 14) false
    c.inService 15 = true ∧ c.uz.tripped = false ∧ c.throttles 15 = false ∧ (c.hall 15).flight[(c.hall 15).pos]? = some (.guar 14)
    ∧ (c.usable 15 [0]).find? (fun i => (c.hall 15).clsAt i == 14) = some 0
    ∧ ((c.hall 15).waiting[0]?).map (fun w => (w.write, w.req.die)) = some (false, 12) ∧ ((c.hall 15).waiting[0]?).map (fun w => w.done) = some false ∧ c.homeQ = []
    ∧ (((hallOf (.guar 14) true).hall 15).waiting[0]?).map (fun w => w.write) = some true) := by decide +kernel
theorem witness_window : let c := up.onHall 15 (fun x => { x with winLeft := 1, winLen := 2, credited := [(14, 3)], g := [(14, 2)] })
    (c.hall 15).winLeft = 1 ∧ c.bit (.HALL_FLIGHT_STATUS 15) F.HALL_FLIGHT_STATUS_WARMUP = false ∧ (c.hall 15).idle.contains 14 = false
    ∧ sget 0 14 (c.hall 15).credited < (c.hall 15).winLen * sget 0 14 (c.hall 15).g := by decide +kernel
def patrolling : Chip := up.setBit (.HALL_PATROL_CFG 15) F.HALL_PATROL_CFG_EN true
theorem witness_patrol : patrolling.bit (.HALL_PATROL_CFG 15) F.HALL_PATROL_CFG_EN = true ∧ patrolling.inService 15 = true
    ∧ patrolling.lineIdle (patrolling.lineAt 15 (patrolling.fld (.HALL_PATROL_STATUS 15) F.HALL_PATROL_STATUS_POS)) = true
    ∧ (patrolling.hall 15).waiting.any (fun t => t.maint && !t.write) = false ∧ ((pk patrolling).chanRead (patrolling.lineAt 15 0)).2 = false := by decide +kernel
theorem witness_patrolDue : patrolling.retRoom 15 = true ∧ patrolling.patrolDue 15 = false
    ∧ ({ patrolling with now := 10 ^ 15 } : Chip).patrolDue 15 = true ∧ (patrolling.hall 15).waiting.any (fun t => t.known) = false := by
  decide +kernel
def outOf : Chip := up.setBit (.HALL_FLIGHT_STATUS 15) F.HALL_FLIGHT_STATUS_IN_SERVICE false
theorem witness_return : outOf.inService 15 = false ∧ outOf.bit (.HALL_DRAM_CTL 15) F.HALL_DRAM_CTL_BUSY = false ∧ up.inService 15 = true
    ∧ (outOf.setBit (.HALL_DRAM_CTL 15) F.HALL_DRAM_CTL_BUSY true).bit (.HALL_DRAM_CTL 15) F.HALL_DRAM_CTL_BUSY = true
    ∧ 0 * 64 < up.dramTop ∧ up.homeHall 0 = 0 := by decide +kernel
theorem test_return : answers (.chanReturnDone 0 true) (st (up.setBit (.HALL_DRAM_CTL 0) F.HALL_DRAM_CTL_BUSY true)) (fun t =>
    (t.toPkg.chanRead 0).2 && t.chip.inService 0) = true := by decide +kernel
def qos (busy : Bool) : Chip := ((up.setFld .QOS_CAPACITY F.QOS_CAPACITY_CAPACITY 6000).setFld (.HALL_FLIGHT_STATUS 0)
  F.HALL_FLIGHT_STATUS_MTS_100 64).setBit .QOS_STATUS F.QOS_STATUS_BUSY busy
def commit : Word := F.QOS_CTL_COMMIT.put 0 1
theorem witness_qos : F.QOS_CTL_COMMIT.get commit = 1 ∧ F.QOS_CTL_MON_EN.get commit = 0 ∧ (qos true).bit .QOS_STATUS F.QOS_STATUS_BUSY = true
    ∧ (qos false).bit .QOS_STATUS F.QOS_STATUS_BUSY = false ∧ ((qos false).storeFields .QOS_CTL commit).commitResult = 1
    ∧ (((qos false).setFld .QOS_CAPACITY F.QOS_CAPACITY_CAPACITY 0).storeFields .QOS_CTL commit).commitResult ≠ 1
    ∧ up.injQ = [] := by decide +kernel
theorem test_tokenRefill : answers (.tokenRefill 25) (st up) (fun t => (List.range 15).all (fun k => t.chip.tokenOf 25 k
    == (up.burstOf k * 64 * tokUnit : Int))) = true := by decide +kernel

-- worlds

/-- A good WLD staging: 256 GiB in segment 0 from page 0, its table inside, an engine instance of type 1 owned by W1 to scrub through. -/
def staged : Chip := (((((up.setBit (.WLD_POT_TABLE 0) F.WLD_POT_TABLE_VALID true).setFld (.WLD_POT_FIRST 0) F.WLD_POT_SEG_VALUE 0).setFld
  (.WLD_POT_LAST 0) F.WLD_POT_SEG_VALUE (up.dramTop / 4096 - 1)).setFld (.WLD_POT_TABLE 0) F.WLD_POT_TABLE_VALUE 1).setFld (.SE_INST_CFG 0 0)
  F.SE_INST_CFG_TYPE 1).setFld (.WLD_INST_OWN 0) F.WLD_OWN_OWNER 1
theorem witness_wldCommit : staged.wldCommitBad = false ∧ up.wldCommitBad = true
    ∧ (up.setBit .WLD_CTL F.WLD_CTL_FORMAT_BUSY true).bit .WLD_CTL F.WLD_CTL_FORMAT_BUSY = true := by decide +kernel
/-- The checks are in force, over segment 0 with its table at page 1. -/
def owned : Chip := staged.setBit .WLD_CTL F.WLD_CTL_COMMITTED true
def potV (op dst n : Nat) : Word := F.WLD_POT_OP_COUNT_M1.put (F.WLD_POT_OP_TO.put (F.WLD_POT_OP_OP.put 0 op) dst) (n - 1)
def potOp (op page n dst : Nat) : PotOp := { op := op, page := page, count := n, dst := dst, started := true }
/-- Class 0 limited, with no token left at any port. -/
def noTokens (c : Chip) : Chip := { c with qosCls := [(0, 0x4000000000)] }
theorem witness_noTokens : owned.scrubGo = true ∧ (noTokens owned).scrubGo = false ∧ (noTokens owned).potHeld = true
    ∧ [7].any (noTokens owned).pageDown = false := by decide +kernel
/-- Page 7 is FREE (0x0000): it may be scrubbed (2) and not shared (6). -/
theorem witness_pot : F.WLD_POT_OP_OP.get (potV 7 0 1) = 7 ∧ up.wldCommitted = false ∧ owned.wldCommitted = true ∧ owned.potHeld = false
    ∧ F.WLD_POT_OP_TO.get (potV 5 2 1) = 2 ∧ F.WLD_POT_OP_OP.get (potV 5 2 1) = 5
    ∧ (potOp 2 7 1 0).pages = [7] ∧ (potOp 2 7 1 0).pages.any owned.pageDown = false ∧ (pk owned).potFail 2 7 = 0
    ∧ (potOp 6 7 1 0).pages.find? (fun x => (pk owned).potFail 6 x != 0) = some 7
    ∧ (let c := { up with pot := some (potOp 2 7 1 0) }
       c.pot = some (potOp 2 7 1 0) ∧ c.safe = false ∧ ∀ l ∈ pageLines 7, c.lineIdle l = true) := by decide +kernel
/-- A scrub of page 7 marks its entry scrubbed, and the operation ends with RESULT 1 (R287, R288). -/
theorem test_pot : answers (.scrub w1 (potV 2 0 1)) (st (owned.setFld .WLD_POT_OP_PAGE F.WLD_POT_OP_PAGE_PAGE 7)) (fun t =>
    t.toPkg.potEntryOf 7 == some 0x100 || ((t.toPkg.potEntryOf 7).map potScrubbed == some true && (t.toPkg.potEntryOf 7).map potState == some 0))
    = true := by decide +kernel

/-- A page of a hall that is powered down (R289), and power requests while an operation runs (R297). -/
theorem witness_pageDown : [7].any ({ owned with down := (List.range 16).map (fun n => (3, n)) } : Chip).pageDown = true
    ∧ ({ up with pot := some (potOp 2 7 1 0) } : Chip).potRuns = true ∧ up.potRuns = false
    ∧ (let c := ({ up with pwrReq := some (2 + 3, 1), down := [(2, 1)] } : Chip)
       c.pwrReq = some (2 + 3, 1) ∧ c.potRuns = false) := by decide +kernel
def ownIn (b : Blk) (s owner next : Nat) : Chip := ((up.setFld (ownReg b) F.WLD_OWN_STATE s).setFld (ownReg b) F.WLD_OWN_OWNER owner).setFld (ownReg b)
  F.WLD_OWN_NEXT next
theorem witness_release : blkOk (.fn 2559) = true ∧ blkOk (.inst 1023) = true ∧ blkOk (.mbx 63) = true ∧ blkOk (.src 2047) = true ∧ blkOk (.uzmb 15) = true
    ∧ (w5.sealed || w5.world == (ownIn (.fn 2559) 0 5 0).fld (ownReg (.fn 2559)) F.WLD_OWN_OWNER) = true
    ∧ (w5.sealed || w5.world == (ownIn (.fn 2559) 0 6 0).fld (ownReg (.fn 2559)) F.WLD_OWN_OWNER) = false
    ∧ (ownIn (.fn 2559) 0 5 0).fld (ownReg (.fn 2559)) F.WLD_OWN_STATE = 0 ∧ (ownIn (.fn 2559) 0 5 0).releaseBad (.fn 2559) = false
    ∧ (up.setFld .WLD_CTL F.WLD_CTL_SCRUB_INST 1023).releaseBad (.inst 1023) = true
    ∧ (ownIn (.fn 2559) 1 5 0).fld (ownReg (.fn 2559)) F.WLD_OWN_STATE = 1 ∧ 2 ≤ (ownIn (.fn 2559) 2 5 0).fld (ownReg (.fn 2559)) F.WLD_OWN_STATE
    ∧ (ownIn (.src 2047) 1 5 0).blkQuiet (.src 2047) = true
    ∧ (w5.uz || w5.world == (ownIn (.uzmb 15) 2 1 5).fld (ownReg (.uzmb 15)) F.WLD_OWN_NEXT) = true
    ∧ (w5.uz || w5.world == (ownIn (.uzmb 15) 2 1 6).fld (ownReg (.uzmb 15)) F.WLD_OWN_NEXT) = false := by decide +kernel
theorem test_release : answers (.release w5 (.uzmb 15) 6) (st (ownIn (.uzmb 15) 0 5 0)) (fun t => answers (.releaseDone (.uzmb 15)) t (fun u =>
    answers (.claim { w5 with world := 6 } (.uzmb 15)) u (fun x => x.chip.fld (.WLD_UZMB_OWN 15) F.WLD_OWN_OWNER == 6
      && x.chip.fld (.WLD_UZMB_OWN 15) F.WLD_OWN_STATE == 0))) = true := by decide +kernel
def staked : Chip := up.setFld (.WLD_PAGES 5) F.WLD_PAGES_NORTH 1
def w6 : Who := { rid := 0, world := 6 }
theorem witness_powerRequest : (up.setBit .WLD_PWR_STATUS F.WLD_PWR_STATUS_BUSY true).bit .WLD_PWR_STATUS F.WLD_PWR_STATUS_BUSY = true
    ∧ up.bit .WLD_PWR_STATUS F.WLD_PWR_STATUS_BUSY = false ∧ powerIndexOk 2 2 = false ∧ powerIndexOk 1 10 = false ∧ powerIndexOk 3 15 = true
    ∧ staked.powerMissing w6 3 15 = [5] ∧ staked.powerMissing w5 3 15 = [] ∧ staked.hallHasPot 15 = false ∧ staked.hallInUse 15 = false
    ∧ staked.potRuns = false := by decide +kernel
theorem witness_powerDone : let c := { (forUpTo 48 (fun r x => x.setPortState r 0 2) up) with pwrReq := some (3, 15) }
    c.pwrReq = some (3, 15) ∧ c.potRuns = false ∧ c.unitFenced (powerUnit 3 15) = true := by decide +kernel
theorem test_consent : gives (.consentWrite w6 5 3) (st up) (up.refuseWrite w6 (.WLD_CONSENT 5))
    && answers (.consentWrite w5 5 0x30000) (st up) (fun t => t.chip.fld (.WLD_CONSENT 5) F.WLD_CONSENT_CLUSTERS == 3) = true := by decide +kernel
theorem witness_grantEnd : let c := { up with uz := { up.uz with grantEnd := some 9 }, now := 9 }
    c.uz.grantEnd = some 9 ∧ 9 ≤ c.now ∧ ({ c with now := 8 } : Chip).now < 9 ∧ up.tokenFormOk [] = false ∧ w1.world ≠ 5 ∧ w1.uz = false := by
  decide +kernel
/-- A token of the form R301 gives, for a package with serial number 7. -/
def token : List Byte := [1#8] ++ List.replicate 7 0 ++ [7] ++ List.replicate 7 0 ++ List.replicate 36 0 ++ [1] ++ List.replicate 107 0
theorem witness_token (h : Config.pkgSerial % 2 ^ 64 = 7) : ({ up with uz := { up.uz with nonce := some (List.replicate 32 0) } } : Chip).tokenFormOk token = true := by
  unfold Chip.tokenFormOk
  rw [h]
  decide +kernel

-- faults

def rep (source world : Nat) : Report := { source := source, rid := 0x5000, world := world, acc := 0, detail := 0, addr := 0x1000, time := 77 }
def faulty (source world sev : Nat) : Chip := { up.setFld (.FC_SRC source) F.FC_SRC_SEV sev with fcHold := [(180, [rep source world])] }
theorem witness_fault : unitOk 180 = true ∧ sget [] 180 (faulty 1535 15 2).fcHold = [rep 1535 15] ∧ (rep 1535 15).source < 1536 ∧ (rep 1535 15).world < 16
    ∧ (faulty 1535 15 2).bit .FC_STATUS F.FC_STATUS_SAFE_RESET_ONLY = false ∧ (faulty 1535 15 0).severity 1535 = 0 ∧ (faulty 1535 15 1).severity 1535 = 1
    ∧ (faulty 1535 15 2).severity 1535 = 2 ∧ (faulty 1535 15 4).severity 1535 = 4 ∧ (faulty 1535 15 0).safe = false
    ∧ (faulty 1535 2 2).bit .FC_FIRST_INFO F.FC_INFO_VALID = false
    ∧ ((faulty 1535 2 2).setBit (.FC_NOTICE_INFO 1) F.FC_NOTICE_INFO_VALID true).bit (.FC_NOTICE_INFO 1) F.FC_NOTICE_INFO_VALID = true := by decide +kernel
/-- A NOTIFY of W2 goes to W1's notice, and not to W2's (R332). -/
theorem test_notice : answers (.faultReport 180) (st (faulty 1535 2 2)) (fun t => t.chip.bit (.FC_NOTICE_INFO 1) F.FC_NOTICE_INFO_VALID
    && !t.chip.bit (.FC_NOTICE_INFO 2) F.FC_NOTICE_INFO_VALID && t.chip.fld (.FC_NOTICE_INFO 1) F.FC_NOTICE_INFO_SOURCE == 1535) = true := by
  decide +kernel
theorem witness_overflow : let c := { up with fcLost := [(11, 3)] }
    unitOk 11 = true ∧ sget 0 11 c.fcLost ≠ 0 ∧ (sget [] 11 c.fcHold).length < 16 ∧ ∀ r ∈ sget [] 11 c.fcHold, r.source ≠ 15 := by decide +kernel
def pend (n : Nat) (cause : Bool) : Chip := (up.setBit (.FC_SRC n) F.FC_SRC_PEND true).setBit (.FC_SRC n) F.FC_SRC_CAUSE cause
theorem witness_pend : (let c := pend 5 false
    (c.bit (.FC_SRC 5) F.FC_SRC_PEND && !c.bit .FC_STATUS F.FC_STATUS_SAFE_RESET_ONLY) = true ∧ (levelSource 5 && c.bit (.FC_SRC 5) F.FC_SRC_CAUSE) = false)
    ∧ (levelSource 5 && (pend 5 true).bit (.FC_SRC 5) F.FC_SRC_CAUSE) = true
    ∧ (up.bit (.FC_SRC 1535) F.FC_SRC_PEND && !up.bit .FC_STATUS F.FC_STATUS_SAFE_RESET_ONLY) = false
    ∧ F.FC_SRC_PEND.get (F.FC_SRC_SEV.put 0 4) = 0 ∧ F.FC_SRC_SEV.get (F.FC_SRC_SEV.put 0 4) ≤ 4 ∧ 4 < F.FC_SRC_SEV.get (F.FC_SRC_SEV.put 0 5)
    ∧ F.FC_SRC_PEND.get (F.FC_SRC_SEV.put 0 5) = 0 ∧ up.condHolds 5 = false ∧ levelSource 5 = true ∧ up.condHolds 14 = true := by decide +kernel
/-- The safe state held by source 20's APPLIED, and by none; and the report of a count that was not recorded. -/
theorem witness_leaveSafe : let c := ((pend 5 false).setBit .FC_STATUS F.FC_STATUS_SAFE true)
    c.safe = true ∧ (c.setBit (.FC_SRC 5) F.FC_SRC_PEND false).leaveSafe.safe = false
    ∧ (let d := (c.setBit (.FC_SRC 20) F.FC_SRC_PEND true).setFld (.FC_SRC 20) F.FC_SRC_APPLIED 4
       (d.setBit (.FC_SRC 5) F.FC_SRC_PEND false).leaveSafe.safe = true) := by decide +kernel
theorem witness_mend : let c := { up.onBank (bankKey 1 287 0) (fun x => { x with mends := [(4, 10)] }) with now := 5010 }
    bankOk 1 287 0 = true ∧ (c.bank (bankKey 1 287 0)).mends = [(4, 10)] ∧ 10 + 5000 ≤ c.now ∧ ({ c with now := 5009 } : Chip).now < 10 + 5000 := by
  decide +kernel

-- register space

def regMsg (wr : Bool) (off code : Nat) : Msg := ioMsg { rid := 0x5000, world := 1, uz := true } (regBase + off) code (if wr then some 3 else none)
theorem witness_regAccess : let a := Reg.WLD_CTL.offset
    up.canArrive (regMsg false a 3) = true ∧ up.canArrive (regMsg true a 3) = true ∧ regDecode a = .reg .WLD_CTL ∧ ioOff (regMsg false a 3) = a ∧ (up.region ((regMsg false a 3).line * 64 + (regMsg false a 3).sub) = .regs a)
    ∧ up.blockPowered a = true ∧ ¬(0x10000000 ≤ a ∧ a < 0x1C000000) ∧ up.blockRefuses (msgWho (regMsg false a 3)) .WLD_CTL = false
    ∧ ioMsgOk (regMsg false a 3) .IO_RD = true ∧ ioMsgOk (regMsg true a 3) .IO_WR = true ∧ (regMsg false a 2).code ≠ 3
    ∧ ioMsgOk (regMsg true a 2) .IO_WR = true := by decide +kernel
/-- An engine instance that W1 owns refuses W5 (R373), and a station that is powered down reads zero (R297). -/
theorem witness_regRefuse : (ownIn (.inst 1023) 0 1 0).blockRefuses w5 (.SE_INST_CFG 1 511) = true
    ∧ ({ up with down := [(1, 9)] } : Chip).blockPowered (Reg.PORT_CFG 9).offset = false := by decide +kernel
theorem witness_regHole : regDecode (Reg.WLD_CTL.offset + 0x7FFF8) = .hole ∨ (List.range 4096).any (fun i => regDecode (Reg.WLD_CTL.offset + 8 * i) == .hole) = true := by
  decide +kernel
/-- An MSI to an interrupt file of a die that is off reaches nothing powered, and is counted (R16). -/
theorem witness_msiOff : let c := up.setFld (.PKG_DIE_STATUS 11) F.PKG_DIE_STATUS_STATE 0
    let a := imsicOff 11 0 0
    let m := ioMsg w1 (regBase + a) 2 (some 9)
    c.canArrive m = true ∧ c.region (m.line * 64 + m.sub) = .regs a ∧ ioOff m = a ∧ c.blockPowered a = false ∧ ioMsgOk m .IO_WR = true
    ∧ pktIsMsi (c.packetOf m) = true ∧ ¬(0x10000000 ≤ a ∧ a < 0x1C000000 ∧ 5 ≤ c.dieState ((a - 0x10000000) / 0x1000000)) := by decide +kernel
theorem witness_report : let a := (Reg.FC_REPORT 0).offset
    regDecode a = .reg (.FC_REPORT 0) ∧ (up.region ((regMsg true a 6).line * 64 + (regMsg true a 6).sub) = .regs a) ∧ ioMsgOk (regMsg true a 6) .IO_WR = true
    ∧ mayReport (regMsg true a 6).rid = true ∧ mayReport 0 = false := by decide +kernel
theorem witness_resetVector : whoOk w1 = true ∧ w5.sealed = false ∧ up.dieState 11 ≠ 0 ∧ up.dieState 11 < 5 := by decide +kernel

-- the dual-role stations

/-- Station 9 committed, all its ports formed by bifurcation into four, ports 0 to 2 root ports and port 3 an endpoint port. -/
def station : Chip := (((up.setFld (.PORT_CFG 9) F.PORT_CFG_BIFUR 2).setFld (.PORT_CFG 9) F.PORT_CFG_EP 8).setBit (.PORT_CTL 9) F.PORT_CTL_COMMITTED true)
def linked : Chip := forUpTo 4 (fun j c => c.setBit (.PORT_STATUS 9 j) F.PORT_STATUS_LINK_UP true) (station.setPortState 31 1 0)
theorem witness_portCommit : up.portCommitted 9 = false ∧ up.portCommitBad 9 = false ∧ (up.setFld (.PORT_CFG 9) F.PORT_CFG_BIFUR 3).portCommitted 9 = false
    ∧ (up.setFld (.PORT_CFG 9) F.PORT_CFG_BIFUR 3).portCommitBad 9 = true ∧ (station.setStopped 9 3 true).stopped 9 3 = true := by decide +kernel
theorem witness_portLink : station.portCommitted 9 = true ∧ station.portFormed 9 3 = true ∧ station.stopped 9 3 = false ∧ station.linkUp 9 3 = false
    ∧ (station.port 9 3).linkDis = false ∧ (station.port 9 3).dpc = false ∧ (station.port 9 3).perst = false ∧ 6 ≤ station.maxRate 9
    ∧ 4 ≤ station.portWidth 9 ∧ station.maxRate 9 < 7 ∧ station.portWidth 9 < 5 ∧ linked.linkUp 9 3 = true ∧ linked.isRoot 9 2 = true
    ∧ linked.isRoot 9 3 = false ∧ linked.isEp 9 3 = true := by decide +kernel
theorem test_portLink : answers (.portLinkUp 9 3 6 4 false true) (st station) (fun t => t.chip.linkUp 9 3
    && t.chip.bit (.PORT_STATUS 9 3) F.PORT_STATUS_FLIT && !t.chip.bit (.PORT_STATUS 9 3) F.PORT_STATUS_CXL_UP) = true := by decide +kernel
def slotted (now : Nat) (good : Option Nat) : Chip := { station.onPort 9 2 (fun p => { p with pwrAt := some 5, goodAt := good }) with now := now }
theorem witness_slot : ((slotted 500000005 none).port 9 2).pwrAt = some 5 ∧ ((slotted 500000005 none).port 9 2).goodAt = none
    ∧ 5 + 500000000 ≤ (slotted 500000005 none).now ∧ (slotted 500000004 none).now < 5 + 500000000
    ∧ ((slotted 100000007 (some 7)).port 9 2).goodAt = some 7 ∧ 7 + 100000000 ≤ (slotted 100000007 (some 7)).now
    ∧ (slotted 100000006 (some 7)).now < 7 + 100000000 := by decide +kernel
def preq (tag fn : Nat) : PortReq := { tag := tag, who := w1, at_ := 0, acc := 0, addr := 0x8000000000000, fn := fn, era := 0 }
def outstanding (now : Nat) : Chip := { (linked.setFld (.PORT_CT 9 2) F.PORT_CT_CT_US 10).onPort 9 2 (fun p => { p with outst := [preq 767 130], retired := [0] }) with now := now }
theorem witness_completion : ((outstanding 10000).port 9 2).outst.find? (fun x => x.tag == 767) = some (preq 767 130)
    ∧ (preq 767 130).at_ + 1000 * (outstanding 10000).fld (.PORT_CT 9 2) F.PORT_CT_CT_US ≤ (outstanding 10000).now
    ∧ (outstanding 9999).now < (preq 767 130).at_ + 1000 * (outstanding 9999).fld (.PORT_CT 9 2) F.PORT_CT_CT_US
    ∧ 0 ∈ ((outstanding 0).port 9 2).retired ∧ 767 ∉ ((outstanding 0).port 9 2).retired := by decide +kernel
theorem test_completion : answers (.completionTimeout 9 2 767) (st (outstanding 10000)) (fun t => (t.chip.port 9 2).retired.contains 767
    && t.chip.fld (.PORT_ERR 9 2) F.PORT_ERR_CT_COUNT == 1) && gives (.completionTimeout 9 2 767) (st (outstanding 9999)) (outstanding 9999)
    = true := by decide +kernel
theorem witness_dpc : station.dpcOn 9 2 = 0 ∧ (station.onPort 9 2 (fun p => { p with cfg := sset 0 0x61 0x20000 p.cfg })).dpcOn 9 2 = 2
    ∧ (station.onPort 9 2 (fun p => { p with cfg := sset 0 0x61 0x10000 p.cfg })).dpcOn 9 2 = 1 := by decide +kernel
/-- Parity of a frame's bytes (R355): 0x80 and 0x01 are good, 0x00 and 0x81 are not. -/
theorem witness_ssb : [0x80#8, 0x80, 0x01, 0x01].all parityOk = true ∧ [0x80#8, 0x80, 0x01, 0x81].all parityOk = false
    ∧ ((station.onPort 9 0 (fun p => { p with badRun := 7 })).port 9 0).badRun = 7 := by decide +kernel

/-- Function 0x82 of station 9, owned by W5, below root port 2, bound to bus 1 device 0 function 0; an ECAM window and a memory window for it. -/
def below : Chip :=
  let c := ((linked.setBit (.PORT_FN_CFG 9 130) F.PORT_FN_CFG_RID_VALID true).setFld (.PORT_FN_CFG 9 130) F.PORT_FN_CFG_RID 0x100).setFld (.WLD_FN_OWN (256 * 9 + 130))
    F.WLD_OWN_OWNER 5
  let e := F.PORT_ECAM_VALID.put (F.PORT_ECAM_BUS_MAX.put (F.PORT_ECAM_BASE.put 0 0x800000) 1) 1
  let b := F.PORT_MWIN_BASE_VALID.put (F.PORT_MWIN_BASE_PORT.put (F.PORT_MWIN_BASE_BASE.put 0 0x8010000000) 2) 1
  let l := F.PORT_MWIN_LIMIT_FN.put (F.PORT_MWIN_LIMIT_LIMIT.put 0 0x801000FFFF) 130
  let c := c.setBit .WLD_CTL F.WLD_CTL_COMMITTED true
  ({ c with winNow := [((Reg.PORT_ECAM 9 2).offset, e), ((Reg.PORT_MWIN_BASE 9 31).offset, b), ((Reg.PORT_MWIN_LIMIT 9 31).offset, l)].foldl (fun m x =>
    sset 0 x.1 x.2 m) c.winNow } : Chip).onPort 9 2 (fun p => { p with cfg := sset 0 6 0x010100 p.cfg })
theorem witness_ecam : below.region 0x8000000000000 = .ecam 9 2 ∧ below.region 0x8000000100000 = .ecam 9 2 ∧ addrOk 0x8000000100000 = true ∧ whoOk w5 = true
    ∧ (w5.rid / 4096 = 5 ↔ w5.uz = true) ∧ 0x8000000100000 % 2 ^ 28 / 4096 = 0x100 ∧ below.boundFn 9 2 0x100 = some 130 ∧ below.mayFn w5 9 130 = true
    ∧ below.mayFn w6 9 130 = false ∧ bits ((below.port 9 2).cfgAt 6).toNat 15 8 ≤ 0x100 / 256
    ∧ 0x100 / 256 ≤ bits ((below.port 9 2).cfgAt 6).toNat 23 16 ∧ w1.sealed = true ∧ w5.sealed = false ∧ w5.world ≠ 0
    ∧ below.destState (below.packetOf (ioMsg w5 0x8000000100000 2 none)) = 0 ∧ ridType w1.rid = 0 := by decide +kernel
/-- Station 9's port, fenced a moment ago, and disabled. -/
theorem witness_windowHeld : let p := below.packetOf (ioMsg w5 0x8000000100000 2 none)
    p.destPort < 2 ∧ (let c := below.setPortState 31 1 2; c.destState p ≠ 0 ∧ c.portShut (p.destR, p.destPort) = false)
    ∧ (below.setPortState 31 1 3).portShut (p.destR, p.destPort) = true := by decide +kernel
theorem witness_mwin : let a := 0x8010000000038
    below.region a = .mwin 9 31 ∧ a % 64 + 2 ^ 3 ≤ 64 ∧ below.mayFn w5 9 (F.PORT_MWIN_LIMIT_FN.get (below.winReg (.PORT_MWIN_LIMIT 9 31))) = true
    ∧ F.PORT_MWIN_BASE_PORT.get (below.winReg (.PORT_MWIN_BASE 9 31)) = 2 ∧ below.linkUp 9 2 = true ∧ below.stopped 9 2 = false
    ∧ (below.setBit (.PORT_STATUS 9 2) F.PORT_STATUS_LINK_UP false).linkUp 9 2 = false
    ∧ below.destState (below.packetOf (ioMsg w5 a 3 none)) = 0 := by decide +kernel
theorem witness_downstream : below.isRoot 9 2 = true ∧ below.boundFn 9 2 65535 = none ∧ below.fnSilent 9 130 = false ∧ below.stationGo 9 130 = true
    ∧ (below.setIommu 9 2 1).iommuReg 9 2 % 16 = 1 ∧ (below.setIommu 9 2 1).stationGo 9 130 = true
    ∧ (below.setFld (.WLD_FN_OWN (256 * 9 + 130)) F.WLD_OWN_STATE 2).fnSilent 9 130 = true
    ∧ below.acsBlocks 9 2 0x100 = false ∧ below.acsBlocks 9 2 65535 = false
    ∧ (below.onPort 9 2 (fun p => { p with cfg := sset 0 0x59 0x10000 p.cfg })).acsBlocks 9 2 65535 = true
    ∧ (reqKind (.translate false)).ats ≠ 0 ∧ (reqKind (.withPasid 5 .read)).ats = 0 ∧ reqOk 64 (.translated .read) = true
    ∧ (below.setPortState 31 1 2).stationOpen 9 = false ∧ (below.setPortState 31 1 2).fnSilent 9 130 = false := by decide +kernel
/-- Function 0xC0 of station 9 is the physical function of endpoint port 3. -/
def endpt (d3 memEn : Bool) : Chip := { linked.onFn 9 192 (fun x => { x with d3 := d3, memEn := memEn }) with
  winNow := sset 0 (Reg.PORT_FN_WIN 9 192).offset (F.PORT_FN_WIN_VALID.put 0 1) linked.winNow }
theorem witness_bar2 : (endpt false true).epFn 9 192 = true ∧ (endpt false true).portOfFn 9 192 = 3 ∧ (endpt false true).linkUp 9 3 = true
    ∧ ((endpt true true).fn 9 192).d3 = true ∧ (endpt false true).memOn 9 192 = true ∧ (endpt false false).memOn 9 192 = false ∧ reqKind .read = {} ∧ reqKind (.translate true) ≠ {} ∧ 0 < (endpt false true).bar2Size 9 192
    ∧ F.PORT_FN_WIN_VALID.get ((endpt false true).winReg (.PORT_FN_WIN 9 192)) ≠ 0 ∧ F.PORT_FN_WIN_VALID.get (linked.winReg (.PORT_FN_WIN 9 192)) = 0
    ∧ linked.epFn 9 130 = false := by decide +kernel
def winBusy : Chip := linked.setBit (.PORT_WIN_CTL 9) F.PORT_WIN_CTL_BUSY true
theorem witness_winBad : (linked.setReg (.PORT_ECAM 9 2) (F.PORT_ECAM_VALID.put 0 1)).winBad 9 = true ∧ linked.bit (.PORT_WIN_CTL 9) F.PORT_WIN_CTL_BUSY = false
    ∧ winBusy.bit (.PORT_WIN_CTL 9) F.PORT_WIN_CTL_BUSY = true ∧ winBusy.winDrained 9 = true
    ∧ ({ outstanding 0 with winEra := [(9, 1)] } : Chip).winDrained 9 = false := by decide +kernel
theorem witness_winGood : linked.winBad 9 = false := by decide +kernel
theorem witness_fn : barOk 4 = true ∧ ((endpt false true).fn 9 192).d3 = false ∧ (endpt false true).bit (.PORT_FN_CFG 9 192) F.PORT_FN_CFG_FLR_BUSY = false
    ∧ (let c := (endpt false true).setBit (.PORT_FN_CFG 9 192) F.PORT_FN_CFG_FLR_BUSY true
       c.bit (.PORT_FN_CFG 9 192) F.PORT_FN_CFG_FLR_BUSY = true ∧ (c.port 9 (c.portOfFn 9 192)).outst = []) ∧ (0x8000#32).toNat.testBit 15 = true := by
  decide +kernel
/-- A physical function whose host has enabled VFs (R345). -/
def sriov : Chip := ((endpt false true).setFld (.PORT_EP_CFG 9 3) F.PORT_EP_CFG_TOTAL_VFS 3).onFn 9 192 (fun x => { x with
  cfg := sset 0 92 2 (sset 0 90 9 x.cfg) })
theorem witness_sriov : sriov.epFn 9 192 = true ∧ sriov.epFn 9 193 = true ∧ sriov.vfOf 9 192 = 0 ∧ sriov.portOfFn 9 192 = 3
    ∧ sriov.vfEnable 9 3 = true ∧ (endpt false true).vfEnable 9 3 = false ∧ 193 ∈ sriov.portFns 9 3 ∧ (0 : BitVec 32).toNat.testBit 0 = false := by
  decide +kernel
theorem witness_flr : (endpt false true).boundTo 9 192 = [] := by decide +kernel
/-- A command queue of two entries at page 7, which W1 owns, with command 0 an IOTINVAL (opcode 1). -/
def cmdq : Pkg :=
  let p := (pk (((owned.setIommu 9 3 (7 * 1024)).setIommu 9 4 (1 * 2 ^ 32)).setIommu 9 9 1)).potWrite 7 (potEntry 1 1 false)
  { p with dram := p.dram ++ [((7 * 4096, 1) : Host.Cell)] }
theorem witness_iommu : up.cqOn 9 = false ∧ cmdq.chip.cqOn 9 = true ∧ cmdq.chip.iommuReg 9 4 % 2 ^ 32 ≠ cmdq.chip.iommuReg 9 4 / 2 ^ 32
    ∧ cmdq.chip.still = false ∧ (let r := cmdq.readBytes (0x2000 + 256 * 9) 1 (cmdq.chip.fnWalker 9 0).label (bits (cmdq.chip.iommuReg 9 3) 53 10 * 4096
        + 16 * (cmdq.chip.iommuReg 9 4 % 2 ^ 32)) 16
      r.2.2.1 = 0 ∧ r.2.2.2 = false ∧ ofBytes (r.2.1.take 8) % 128 = 1) := by decide +kernel

-- the service engines

/-- Slot 511 of cluster 1, a copy instance of W1 that scrubs: running, with a ring of 64 at page 8 and its completion ring at page 9, one
descriptor asked for. -/
def eng (state : Nat) : Chip :=
  let c := ((((openHalls up).setPortState 23 1 0).setFld .WLD_CTL F.WLD_CTL_SCRUB_INST 1023).setFld (.WLD_INST_OWN 1023) F.WLD_OWN_OWNER 1).setInstState 1 511 state
  let c := (((c.setFld (.SE_INST_CFG 1 511) F.SE_INST_CFG_TYPE 1).setFld (.SE_INST_CFG 1 511) F.SE_INST_CFG_LOG2 6).setFld (.SE_INST_DRING 1 511)
    F.SE_INST_RING_BASE 8).setFld (.SE_INST_CRING 1 511) F.SE_INST_RING_BASE 9
  ((c.setFld (.SE_DB_TAIL 1 511) F.SE_DB_TAIL_INDEX 1).setFld (.SE_INST_SHARE 1 511) F.SE_INST_SHARE_CAP 4).setFld (.SE_INST_STATUS 1 511)
    F.SE_INST_STATUS_HEAD 0
def slot : Slot := { c := 1, k := 511 }
theorem witness_inst : instOk 1 543 = true ∧ (eng 0).mayInst w1 1 511 = true ∧ (eng 0).mayInst w5 1 511 = false ∧ (eng 0).enableBad 1 511 = false
    ∧ (eng 1).enableBad 1 511 = true ∧ (eng 1).instState 1 511 = 1 ∧ (eng 3).instState 1 511 = 3 ∧ (eng 2).instState 1 511 = 2 ∧ 4 ≤ (eng 4).instState 1 511
    ∧ (let c := (eng 2).onInst 1 511 (fun x => { x with resetAt := some 0 })
       (c.inst 1 511).resetAt.isSome = true ∧ (c.inst 1 511).inflight = [] ∧ c.instState 1 511 = 2)
    ∧ (eng 1).throughBar w1 1 511 = true ∧ F.SE_DB_TAIL_INDEX.get 63 < (eng 1).ringSize 1 511 ∧ (eng 1).ringSize 1 511 ≤ F.SE_DB_TAIL_INDEX.get 64 := by
  decide +kernel
/-- The ring is fetched from while CAP, the completion ring and the doorbell let it; a poisoned descriptor is a ring error. -/
def badDesc : Pkg := { pk (eng 1) with dpoison := [(512, 1)] }
theorem witness_descriptorFetch : (eng 0).mayFetch 1 511 = false ∧ (eng 1).mayFetch 1 511 = true ∧ (eng 1).instGo 1 511 = true
    ∧ (eng 1).addrBad slot ((eng 1).ringBase (.SE_INST_DRING 1 511)) = false
    ∧ (let r := (Eng.start (pk (eng 1))).read slot (8 * 4096) 64
       r.1.wait = false ∧ r.1.st = 0 ∧ r.1.poison = false)
    ∧ (let r := (Eng.start badDesc).read slot (8 * 4096) 64
       r.1.wait = false ∧ r.1.poison = true) := by decide +kernel
def flight (op len segs : Nat) (engine : Option Nat) (outcome : Option (Nat × Word)) : Flight :=
  { j := 0, desc := toBytes 1 op ++ List.replicate 7 0 ++ toBytes 8 0x4000 ++ toBytes 8 0x5000 ++ toBytes 8 len ++ List.replicate 32 0
    engine := engine, segs := segs, outcome := outcome, delivered := false }
def engWith (f : Flight) : Chip := (eng 1).onInst 1 511 (fun x => { x with inflight := [f] })
theorem witness_segment : (eng 1).engGo 1 0 = true ∧ (engWith (flight 1 64 0 none none)).choose 1 0 = some 511
    ∧ (engWith (flight 1 64 0 none none)).readyFor 1 511 0 = some (flight 1 64 0 none none)
    ∧ (∃ i ∈ (engWith (flight 1 64 0 none none)).readySlots 1 0, (engWith (flight 1 64 0 none none)).hadOf 1 i 0 < (engWith (flight 1 64 0 none none)).weightOf 1 i) :=
  ⟨by decide +kernel, by decide +kernel, by decide +kernel, 511, by decide +kernel, by decide +kernel⟩
theorem witness_noSegment : (eng 1).choose 1 7 = none := by decide +kernel
def done : Flight := flight 1 64 1 (some 0) (some (0, 0))
def noRing : Chip := (engWith done).setFld .PKG_ADDR_MAP F.PKG_ADDR_MAP_HALL_CAP_GIB 0
theorem witness_cplWrite : ((engWith done).inst 1 511).inflight = [done] ∧ done.outcome = some (0, 0) ∧ spoils 0 = false ∧ isMbx 543 = true
    ∧ (engWith done).instGo 1 511 = true ∧ ((engWith done).inst 1 511).cplOff = false ∧ (engWith done).destWaits slot done = false
    ∧ (engWith done).addrBad slot (9 * 4096) = false
    ∧ (let y := (Eng.start (pk (engWith done))).write slot (9 * 4096) (done.record 0 0 true)
       y.wait = false ∧ y.st = 0)
    ∧ (let y := (Eng.start (pk noRing)).write slot (9 * 4096) (done.record 0 0 true)
       y.wait = false ∧ y.st ≠ 0) ∧ noRing.instGo 1 511 = true := by decide +kernel
theorem witness_drain : let c := { ((eng 2).onInst 1 511 (fun x => { x with resetAt := some 0 })).setFld (.SE_CL_CFG 1) F.SE_CL_CFG_DRAIN_LIMIT 100 with now := 100 }
    c.drainOver 1 511 = true ∧ ({ c with now := 99 } : Chip).drainOver 1 511 = false := by decide +kernel
/-- Mailbox 31 of cluster 1, of W1, with a descriptor to deliver to page 10. -/
def mbx (delivered : Bool) : Chip :=
  let c := ((((((openHalls owned).setPortState 23 1 0).setFld (.WLD_MBX_OWN 63) F.WLD_OWN_OWNER 1).setInstState 1 543 1).setFld (.SE_INST_CFG 1 543) F.SE_INST_CFG_LOG2
    6).setFld (.SE_INST_DLV 1 543) F.SE_INST_DLV_BASE 10)
  c.onInst 1 543 (fun x => { x with inflight := [{ flight 0x40 0 0 none none with delivered := delivered }] })
/-- With page 10 owned by W1, or in transit. -/
def mbxMem (delivered own : Bool) : Pkg := (pk (mbx delivered)).potWrite 10 (potEntry 1 (if own then 1 else 3) false)
theorem witness_mailbox : ((mbx false).inst 1 543).inflight.find? (fun g => !g.delivered) = some (flight 0x40 0 0 none none) ∧ (mbx false).instState 1 543 = 1
    ∧ (mbx false).instGo 1 543 = true ∧ (mbx false).rangeIdle ((mbx false).dlvAddr 1 543 0 % 2 ^ 52) 64 = true
    ∧ ((mbxMem false true).writeBytes (instRid 1 543) 1 ((mbx false).instLabel 1 543) 0xA000 (List.replicate 64 0) false).2 = 0
    ∧ ((mbxMem false false).writeBytes (instRid 1 543) 1 ((mbx false).instLabel 1 543) 0xA000 (List.replicate 64 0) false).2 ≠ 0
    ∧ (mbx false).instOwner 1 543 = 1 ∧ (mbx false).dlvAddr 1 543 0 = 0xA000 := by decide +kernel
theorem witness_mbxReturn : (mbx true).mayInst w1 1 543 = true ∧ (mbx true).throughBar w1 1 543 = true ∧ (mbx true).flightAt 1 543 63 = none
    ∧ ((mbx true).flightAt 1 543 0).map (fun f => (f.delivered, f.outcome)) = some (true, none)
    ∧ ((mbx false).flightAt 1 543 0).map (fun f => f.delivered) = some false
    ∧ (let r := (mbxMem true true).readBytes (instRid 1 543) 1 ((mbxMem true true).chip.instLabel 1 543) 0xA000 16
       r.2.2.1 = 0 ∧ r.2.2.2 = false) := by decide +kernel
def copying : Flight := flight 1 64 1 (some 0) none
theorem witness_operation : (engWith copying).flightAt 1 511 0 = some copying ∧ copying.op = 1
    ∧ copying.engine.isSome = true ∧ copying.outcome = none ∧ copying.need ≤ copying.segs ∧ (engWith copying).instGo 1 511 = true
    ∧ (opCopy slot copying (Eng.start (pk (engWith copying)))).x.wait = false ∧ (flight 1 65 0 (some 0) none).segs < (flight 1 65 0 (some 0) none).need
    ∧ copying.op ≠ 2 := by decide +kernel
/-- An instance without tokens, a descriptor whose fetch met poison, and a COPY whose source hall's port is fenced. -/
theorem witness_waits : (noTokens (engWith copying)).instGo 1 511 = false ∧ (noTokens (engWith copying)).instOpen 1 511 = true
    ∧ ({ copying with bad := true } : Flight).bad = true
    ∧ (let c := (attachPorts.foldl (fun (x : Chip) p => if p.2 = 0 then x.setPortState p.1 p.2 2 else x) (engWith copying)).setPortState 23 1 0
       (opCopy slot copying (Eng.start (pk c))).x.wait = true ∧ c.instGo 1 511 = true) := by decide +kernel
/-- A COPY of one line from 0x4000 to 0x5000. -/
theorem test_copy : answers (.copy 1 511 0) { st (engWith copying) with dram := [(0x4000, 7), (0x403F, 9)] } (fun t =>
    t.toPkg.coherentRead (0x5000 / 64) == (BitVec.ofNat 512 (7 + 9 * 2 ^ 504), false)) = true := by decide +kernel
theorem witness_failedRead : ((Eng.start badDesc).read slot (flight 1 64 1 (some 0) none).src 64).1.ended = false
    ∧ ((Eng.start (pk noRing)).read slot copying.src copying.len).1.ended = true := by decide +kernel
/-- COMPARE of lines that differ at byte 5. -/
def cmp : Flight := flight 3 64 1 (some 0) none
def cmpMem : Pkg := { pk (engWith cmp) with dram := [(0x4005, 1)] }
theorem witness_compare : let a := (Eng.start cmpMem).read slot cmp.src cmp.len
    let b := a.1.read slot cmp.dst cmp.len
    b.1.st = 0 ∧ b.1.poison = false ∧ 5 < a.2.length ∧ a.2.length = b.2.length ∧ a.2.take 5 = b.2.take 5 ∧ a.2[5]? ≠ b.2[5]?
    ∧ (opCompare slot cmp (Eng.start cmpMem)).res = 5 := by decide +kernel
theorem witness_equal : let a := (Eng.start (pk (engWith cmp))).read slot cmp.src cmp.len
    (a.1.read slot cmp.dst cmp.len).1.st = 0 ∧ (a.1.read slot cmp.dst cmp.len).1.poison = false ∧ a.2 = (a.1.read slot cmp.dst cmp.len).2 := by decide +kernel
/-- AES-GCM of an empty text under a zero key and IV: test case 1 of the algorithm's authors. -/
theorem test_gcm : gcmSeal (List.replicate 16 0) (List.replicate 12 0) [] [] = ([], [0x58, 0xe2, 0xfc, 0xce, 0xfa, 0x7e, 0x30, 0x61, 0x36, 0x7f, 0x1d, 0x57, 0xa4, 0xe7, 0x45, 0x5a]) := by
  decide +kernel
/-- GCM_DEC of a zero text under a zero key, with a zero tag. -/
def unsealing : Flight := flight 0x21 0 1 (some 0) none
theorem witness_unseal : let r := (Eng.start (pk (engWith unsealing))).gcmInputs slot unsealing (unsealing.len + 16)
    r.1.ended = false ∧ r.1.poison = false ∧ gcmOpen r.2.1 r.2.2.1 r.2.2.2.1 (r.2.2.2.2.take unsealing.len) (r.2.2.2.2.drop unsealing.len) = none := by
  decide +kernel
theorem witness_seal : (List.replicate 16 0).length = 16 ∧ (List.replicate 32 0).length = 32 ∧ (List.replicate 12 0).length = 12
    ∧ ∀ b ∈ List.replicate 16 0 ++ List.replicate 12 0 ++ [] ++ [255], b < 256 := by decide

-- mirrored pairs

/-- A package in a pair: its state, whether it is source, region 0 of 16 pages mirrored from page 0x100, both links up. -/
def pair (state : Nat) (source : Bool) : Chip :=
  let c := (((openHalls up).setFld .PAIR_STATUS F.PAIR_STATUS_STATE state).setBit .PAIR_STATUS F.PAIR_STATUS_SOURCE source).setFld .PAIR_STATUS F.PAIR_STATUS_ROLE 1
  let c := forUpTo 2 (fun k x => (x.setFld (.JL_STATUS (24 + k)) F.JL_STATUS_STATE 2).setPortState (32 + 7 * k) 0 0) c
  { c with pair := { c.pair with base := [(0, BitVec.ofNat 64 (1 + 4096 * 0x100))], limit := [(0, BitVec.ofNat 64 (4096 * 0x10F))] } }
def hb (c : Chip) (now : Nat) (alive : Bool) : Chip :=
  { (c.setBit .PAIR_STATUS F.PAIR_STATUS_ALIVE alive).onPair (fun x => { x with hbAt := some 0, aliveAt := some 0 }) with now := now }
theorem witness_alive : aliveState (pair 2 true).pairState = true ∧ (pair 2 true).safe = false ∧ aliveState (pair 6 true).pairState = false
    ∧ (pair 2 true).pairLinkUp = true ∧ 2 ≤ (pair 2 true).pairState ∧ (pair 2 true).pair.yielded = false ∧ up.pairLinkUp = false
    ∧ ((pair 2 true).setBit .PAIR_STATUS F.PAIR_STATUS_HEARD true).bit .PAIR_STATUS F.PAIR_STATUS_HEARD = true
    ∧ (pair 2 true).fld .PAIR_STATUS F.PAIR_STATUS_ROLE ≠ 0 ∧ (pair 2 true).pair.partnerYielded = false
    ∧ (pair 3 true).pair.aliveAt = none ∧ (pair 3 true).pairState ≠ 2 ∧ (pair 3 true).pairState ≠ 5
    ∧ (hb (pair 2 true) 49999 true).pair.aliveAt = some 0 ∧ (hb (pair 2 true) 49999 true).now < 0 + 50000 := by
  decide +kernel
theorem witness_hb : (hb (pair 2 true) 0 true).pair.hbAt = some 0 ∧ (hb (pair 2 true) 1000000000 true).pair.hbAt = some 0
    ∧ 0 + (hb (pair 2 true) 1000000000 true).hbTimeout ≤ (hb (pair 2 true) 1000000000 true).now ∧ (hb (pair 2 true) 0 true).now < 0 + (hb (pair 2 true) 0 true).hbTimeout
    ∧ (hb (pair 2 true) 0 true).pair.yielded = false ∧ (hb (pair 5 false) 0 false).pairState = 5 ∧ (hb (pair 5 false) 0 false).isSource = false
    ∧ (hb (pair 5 false) 0 false).bit .PAIR_STATUS F.PAIR_STATUS_ALIVE = false ∧ (hb (pair 2 true) 0 true).isSource = true := by decide +kernel
/-- A target that hears nothing takes over, is detached while the sideband lives, or is incomplete in RESYNC (R408). -/
theorem test_separation : answers .pairHbTimeout (st (hb (pair 2 true) 1000000000 true)) (fun t => t.chip.pairState == 3)
    && answers .pairHbTimeout (st (hb (pair 2 false) 1000000000 false)) (fun t => t.chip.pairState == 3 && t.chip.isSource)
    && answers .pairHbTimeout (st (hb (pair 2 false) 1000000000 true)) (fun t => t.chip.pairState == 4)
    && answers .pairHbTimeout (st (hb (pair 5 false) 1000000000 false)) (fun t => t.chip.pairState == 7) = true := by decide +kernel
def peer (role : Nat) (tracking : Bool) : PairIdent := { role := role, serial := 5, cap := 1, state := 7, srcAtSep := tracking, tracking := tracking }
def tracks (b : Bool) : Chip := (pair 1 false).onPair (fun x => { x with tracking := b })
theorem witness_discovery : PairIdentOk (peer 2 true) = true ∧ (tracks true).pairState = 1 ∧ peer 2 true ≠ peer 2 false ∧ (peer 1 false).role = (tracks true).fld .PAIR_STATUS F.PAIR_STATUS_ROLE
    ∧ (peer 2 true).role ≠ (tracks true).fld .PAIR_STATUS F.PAIR_STATUS_ROLE ∧ (tracks true).pair.tracking = true ∧ (tracks false).pair.tracking = false
    ∧ (pair 2 true).pairState ≠ 1 ∧ (let c := (pair 2 true).setFld (.JL_STATUS 24) F.JL_STATUS_STATE 3
      c.linkState 24 ≠ 2 ∧ c.linkState (49 - 24) = 2 ∧ bitAt 1 (24 - 24) = true ∧ c.pairState = 2) := by decide +kernel
theorem witness_force : (pair 4 false).pairState = 4 ∧ (pair 7 false).pairState = 7 ∧ ((pair 6 false).onPair (fun x => { x with split := true })).pair.split = true
    ∧ (pair 6 false).pair.split = false ∧ (pair 6 false).pairState = 6 := by decide +kernel

def rows (c : Chip) : List RegionRow := (List.range 16).map (fun n => regionRow (c.reg (.PAIR_REGION_BASE n)) (c.reg (.PAIR_REGION_LIMIT n)) (c.reg (.PAIR_REGION_REMOTE n)))
theorem witness_pairCommit : (pair 2 true).isSource = true ∧ (pair 2 true).tableBad (rows (pair 2 true)) = false ∧ (pair 2 true).pair.partnerReady = false
    ∧ (let c := (pair 2 true).setReg (.PAIR_REGION_BASE 15) 3
       c.tableBad (rows c) = true) ∧ (((pair 2 true).onPair (fun x => { x with partnerReady := true })).pair.partnerReady) = true
    ∧ (pair 4 true).isSource = true := by decide +kernel
def table : List (Word × Word × Word) := (1, 0, 0) :: List.replicate 15 (0, 0, 0)
def target : Chip := (pair 2 false).setBit .WLD_CTL F.WLD_CTL_COMMITTED true
theorem witness_pairCfg : table.length = 16 ∧ 2 ≤ target.pairState ∧ target.isSource = false ∧ target.wldCommitted = true
    ∧ target.tableBad ((table.map mirrorView).map (fun w => regionRow w.1 w.2.1 w.2.2)) = false ∧ table[15]? = some (0, 0, 0) := by decide +kernel
theorem witness_mirror : target.pair.yielded = false ∧ target.pairState = 2 ∧ target.mirrorRegion (0x4000 / 64) = some 0 ∧ target.pairGo (25 - 24) 0x4000 = true
    ∧ (sget 0 0 target.pair.rxSeq + 1) % 2 ^ 32 = 1
    ∧ target.pairTake 25 0 (mirWrUnits 0 0x4000 1 false false 0) = some target
    ∧ ((pair 2 false).setFld (.JL_STATUS 25) F.JL_STATUS_STATE 1).pairTake 25 0 (mirWrUnits 0 0x4000 1 false false 0) = none := by decide +kernel
/-- Before the page's owner is W1 the line is refused; W1 is admitted to a free page. -/
theorem witness_mirrorWrite : let p := { pk target with chip := ((((target.setBit (.WLD_POT_TABLE 0) F.WLD_POT_TABLE_VALID true).setFld (.WLD_POT_LAST 0)
      F.WLD_POT_SEG_VALUE (up.dramTop / 4096 - 1)).setFld (.WLD_POT_TABLE 0) F.WLD_POT_TABLE_VALUE 1)) }
    (p.ioWrite (pairRid 1) 1 0 0x4000 0 (BitVec.ofNat 64 (2 ^ 64 - 1)) false).2 = 0 ∧ p.chip.mirrorRegion (0x4000 / 64) = some 0
    ∧ p.chip.pairGo (25 - 24) 0x4000 = true := by decide +kernel
def queued : Chip := (pair 2 true).onPair (fun x => { x with queue := [{ region := 15, seq := 2 ^ 32 + 3, line := 0x4000, data := 0, poison := false, copy := false, at_ := 0 }] })
theorem witness_ack : queued.pair.acked 15 4 = none ∧ (queued.pair.acked 15 3).isSome = true
    ∧ queued.pairTake 24 1 (mirAckUnits 15 3 false) = some queued := by decide +kernel
theorem witness_lag : let c := (pair 2 true).onPair (fun x => { x with base := [(15, 2)] })
    F.PAIR_REGION_BASE_MODE.get (sget 0 15 c.pair.base) = 2 ∧ c.isSource = true
    ∧ ¬(F.PAIR_REGION_BASE_MODE.get (sget 0 0 c.pair.base) = 2 ∧ c.isSource = true) := by decide +kernel
def copyPage : Chip := (pair 5 true).onPair (fun x => { x with partnerReady := true, fullCopy := [(0, 16)] })
theorem witness_resync : copyPage.isSource = true ∧ copyPage.still = false ∧ copyPage.pairState = 5 ∧ copyPage.pair.partnerReady = true
    ∧ 15 < copyPage.regionPages 0 ∧ sget 0 0 copyPage.pair.fullCopy = 15 + 1 ∧ copyPage.pairQueued (copyPage.pairLink 0) + 64 ≤ 131072
    ∧ copyPage.regionPages 0 ≤ 16 ∧ ∀ k : Fin 64, copyPage.ioIdle (k.1 + 64 * 0x10F) = true := by decide +kernel
theorem witness_resyncDone : let c := (pair 5 true).onPair (fun x => { x with partnerReady := true })
    (if c.isSource then (c.pairState == 2 || c.pairState == 5) && c.pair.partnerReady && c.pagesLeft == 0 && c.pair.queue.isEmpty else c.pairState == 5) = true
    ∧ (if copyPage.isSource then (copyPage.pairState == 2 || copyPage.pairState == 5) && copyPage.pair.partnerReady && copyPage.pagesLeft == 0
      && copyPage.pair.queue.isEmpty else copyPage.pairState == 5) = false := by decide +kernel

-- Uzomuris and the life record

def noDies (agree : Bool) (mfg : Bool) : PkgStart :=
  { channels := (if agree then [] else [{ capGib := 32, dimmType := 0, org := 0, spd := 0, mts := 88, reuseOk := false, trainOk := true }])
      ++ List.replicate (if agree then 16 else 15) { capGib := 16, dimmType := 0, org := 0, spd := 0, mts := 88, reuseOk := false, trainOk := true }
    dies := List.replicate 12 (dieStart false false 0), mfgMode := mfg }
theorem witness_pkgStart : pkgStartOk (noDies true true) = true ∧ pkgStartOk (noDies false false) = true ∧ dimmsAgree (noDies false false).channels = false
    ∧ (noDies true true).mfgMode = true ∧ (noDies true false).mfgMode = false ∧ Chip.reset.pins.pwrgd = false
    ∧ ({ Chip.reset with pins := { Chip.reset.pins with pwrgd := true } } : Chip).pins.pwrgd = true
    ∧ ({ UzSt.reset with slotOk := [true, true], slotVer := [1, 1] } : UzSt).slotGood 0 true = true
    ∧ ({ UzSt.reset with slotOk := [true, true], slotVer := [1, 1] } : UzSt).slotGood 0 false = false := by decide +kernel
def uz (f : UzSt → UzSt) : Chip := up.onUz (fun u => f { u with on := true, mainsOn := true, formatted := true })
theorem witness_uz : (uz id).uz.on = true ∧ (uz (fun u => { u with on := false })).uz.on = false ∧ (uz id).mainsUp = true
    ∧ (uz (fun u => { u with mainsOn := false })).mainsUp = false ∧ (uz id).uz.tripped = false ∧ (uz (fun u => { u with tripped := true })).uz.tripped = true
    ∧ ({ uz (fun u => { u with mainsOn := false, retryAt := some 9 }) with now := 9 } : Chip).uz.retryAt = some 9
    ∧ (List.replicate 13 255).length = 13 ∧ (∀ x ∈ List.replicate 13 255, x < 256) ∧ (List.range 16).any (uz id).throttles = false
    ∧ (List.range 16).any ((uz id).setBit (.HALL_FLIGHT_STATUS 15) F.HALL_FLIGHT_STATUS_THROTTLE true).throttles = true := by decide +kernel
def compacts : Chip := (uz id).setBit .UZ_LR_STATUS F.UZ_LR_STATUS_COMPACTING true
def recs (n : Nat) : List JRec := List.replicate n { seq := 0, type := 1, time := 0, boot := 0, payload := [] }
theorem witness_life : (uz id).uz.on = true ∧ (uz id).uz.formatted = true ∧ (uz id).compacting = false ∧ ((uz id).uz.half (uz id).lrHalf).length < 32767
    ∧ compacts.compacting = true ∧ compacts.uz.sram.length < 1024 ∧ (uz id).lrHalf = 0 := by decide +kernel
theorem witness_lifeFull : ((uz (fun u => { u with half0 := recs 32767 })).uz.half 0).length = 32767 := by
  show (recs 32767).length = 32767
  exact List.length_replicate
theorem witness_lrRead : (uz (fun u => { u with half0 := recs 1 })).recordAt 0 = some { seq := 0, type := 1, time := 0, boot := 0, payload := [] }
    ∧ (uz id).recordAt 0 = none := by decide +kernel
/-- Requests of every kind: by MCTP and by Redfish. -/
theorem witness_manage : redfishOf 1 [] = .reset ∧ redfishOf 2 [] = .powerOff ∧ redfishOf 3 [] = .powerOn
    ∧ redfishOf 4 [5, 0, 0, 0] = .firmware [5, 0, 0, 0] ∧ sliceNum [5, 0, 0, 0] 0 4 = 5 ∧ redfishOf 0 [] = .read := by decide +kernel
theorem witness_manageVendor : manageOf 0x7E [0x1F, 0x3A, 0] = .nonce ∨ (List.range 256).any (fun k => manageOf 0x7E [0x1F, 0x3A, BitVec.ofNat 8 k] == .nonce) = true := by
  decide +kernel
def mbxGo : Word := F.UZ_MBX_CTL_LEN.put (F.UZ_MBX_CTL_GO.put 0 1) 248
theorem witness_mbx : F.UZ_MBX_CTL_GO.get mbxGo = 1 ∧ F.UZ_MBX_CTL_LEN.get mbxGo = 248 ∧ (uz id).mayMbx w1 15 = (((uz id).fld (.WLD_UZMB_OWN 15) F.WLD_OWN_OWNER) == 1)
    ∧ ((uz id).setFld (.WLD_UZMB_OWN 15) F.WLD_OWN_OWNER 5).mayMbx w5 15 = true ∧ ((uz id).setFld (.WLD_UZMB_OWN 15) F.WLD_OWN_OWNER 5).mayMbx w6 15 = false
    ∧ (uz id).bit (.UZ_MBX_CTL 15) F.UZ_MBX_CTL_BUSY = false ∧ ((uz id).setBit (.UZ_MBX_CTL 15) F.UZ_MBX_CTL_BUSY true).bit (.UZ_MBX_CTL 15) F.UZ_MBX_CTL_BUSY = true := by
  decide +kernel

-- the hall hash

/-- The worked example of chapter 01: PA 0x1_2345_6E80 is homed in H_9 at channel-local address 0x1234_5680. -/
theorem test_home : up.domains = false ∧ up.home 0x123456E80 = (9, 0x12345680) := by decide +kernel
theorem witness_home : (let c := up.setBit .PKG_ADDR_MAP F.PKG_ADDR_MAP_DOMAINS true
    c.domains = true ∧ c.capGib = 16) ∧ up.capGib ≤ 256 ∧ (let c := (((up.setBit .PKG_ADDR_MAP F.PKG_ADDR_MAP_DOMAINS true).setBit (.PORT_CXL_BASE 9 3)
      F.PORT_CXL_BASE_VALID true).setFld (.PORT_CXL_BASE 9 3) F.PORT_CXL_BASE_ADDR 0x10000).setFld (.PORT_CXL_LIMIT 9 3) F.PORT_CXL_LIMIT_ADDR 0x10000
    (((c.setBit (.PORT_CTL 9) F.PORT_CTL_COMMITTED true).setFld (.PORT_CFG 9) F.PORT_CFG_BIFUR 2).setFld (.PORT_CFG 9) F.PORT_CFG_CXL 8).region (2 ^ 44) = .cxl 9 3) := by
  decide +kernel

-- operand checks

def no (who : Nat) : Who := { rid := who, world := 16 }
def badMsg : Msg := { kind := .TRACE_REC }
def onlyDie (k : MsgKind) : Msg := { kind := k, die := 12 }
def farMsg (k : MsgKind) : Msg := { kind := k, die := 13 }
def badStart : PkgStart := { channels := [], dies := [] }
def badErr : Option ArrErr := some { array := 0, inst := 0, bank := 0, loc := 0, bits := [], rowPar := [], colPar := [] }
def badIdent : DieStart := dieStart true true 256
def badPair : PairIdent := { role := 4, serial := 0, cap := 0, state := 0, srcAtSep := false, tracking := false }
/-- Ill-formed commands of harts, tiles and caches: one for each operand check. -/
theorem test_illFormedHarts : ([.registerWrite (no 1) 0 0, .registerWrite w1 (2 ^ 30) 0, .registerWrite w1 4 0, .load 288 (.x 1) 0 8 true none,
  .load 0 (.x 32) 0 8 true none, .load 0 (.x 1) 0 3 true none, .load 0 (.f 1) 0 1 true none, .load 0 (.x 1) (2 ^ 64) 8 true none, .load 0 (.x 1) 0 8 true badErr,
  .store 0 (.v 1) 0 64 none, .amo 0 .add 1 2 0 16, .amo 0 .cas 1 2 0 16, .lr 0 32 0 8, .lr 0 1 0 2, .sc 0 1 32 0 8, .fence 0 16 0, .fence 0 0 16, .instructionFetch 0 1,
  .cboZero 288 0, .prefetchIssue 0 (2 ^ 52) 0, .prefetchIssue 0 0 (2 ^ 52), .interruptTaken 0 64, .eventOccurrence 2048, .evrTimerWrite w1 64 0, .deviceMsi 2560 0 0 0 0,
  .deviceMsi 0 12 0 0 0, .deviceMsi 0 0 24 0 0, .deviceMsi 0 0 0 8 0, .deviceMsi 0 0 0 0 (2 ^ 32), .coreFailed 12 0, .coreFailed 0 26, .triggerFire 0 true (2 ^ 64),
  .ndmreset badStart, .abstractRegisterAccess 0 65536 none, .tmma 0 8 0 0 [], .tmma 0 0 8 0 [], .tmma 0 0 0 8 [], .tmma 0 0 0 0 [(3, 0)], .tmma 0 0 0 0 [(4, 32)],
  .taddAa 0 8 0 [], .taddAt 0 0 8 [], .tcfgTile 0 0 32, .tcvt 0 0 0 0 8, .tload 0 0 32 0, .tload 0 0 0 32, .tsave 288 0, .l2Eviction 0 (2 ^ 46), .cmeClean w1 12 (goes 1),
  .cmeClean w1 0 (goes 2), .cmeInvalidate w1 0 (goes 3), .cmeCleanInvalidate w1 0 (goes 1), .hallMntClean w1 16 (goes 1), .pkgRatBaseWrite w1 64 0,
  .disableOff w1 (.landing 12), .disableOff w1 (.hall 16)] : List Instr).all (fun i => !i.wellFormed) = true := by decide +kernel
/-- Ill-formed messages: another kind than the row's, a line or a die out of range. -/
theorem test_illFormedMessages : ([.rdShared badMsg, .rdOwn badMsg, .upgrade badMsg, .rdOwnZero badMsg, .cmoClean badMsg, .cmoFlush badMsg, .cmoInval badMsg,
  .rdOnce badMsg, .wrFull badMsg, .wrPart badMsg, .ioAtomic badMsg, .wbData badMsg, .evictClean badMsg, .compAck badMsg, .snpShared badMsg, .snpOwn badMsg, .snpInv badMsg,
  .snpOnce badMsg, .snpClean badMsg, .backInv badMsg, .rsp badMsg, .fwdData badMsg, .comp badMsg, .data badMsg, .wbAck badMsg, .wbAckStale badMsg, .wchk badMsg, .wchkRsp badMsg,
  .ioRd badMsg, .ioWr badMsg, .ioRsp badMsg, .ioAck badMsg, .hallRd badMsg, .unavail badMsg, .snpShared (onlyDie .SNP_SHARED), .backInv (onlyDie .BACK_INV),
  .comp (farMsg .COMP), .ioRd { kind := .IO_RD, code := 7 }, .ioRd { kind := .IO_RD, sub := 64 }, .ioWr { kind := .IO_WR, code := 3, sub := 4 },
  .rdOnce { kind := .RD_ONCE, line := 2 ^ 46 }] : List Instr).all (fun i => !i.wellFormed) = true := by decide +kernel
/-- Ill-formed commands of the gallery, links, supply, halls, worlds and faults. -/
theorem test_illFormedPackage : ([.packetHop 48 0 0 0 none ⟨.none, .none⟩, .packetHop 0 7 0 0 none ⟨.none, .none⟩, .packetHop 0 0 3 0 none ⟨.none, .none⟩, .packetHop 0 0 2 3 none ⟨.none, .none⟩,
  .packetHop 32 5 0 0 (some pk1) ⟨.none, .none⟩, .packetHop 32 5 0 1 (some { pk1 with units := 3 }) ⟨.none, .none⟩, .packetHop 32 5 0 1 (some { pk1 with cmd := 9 }) ⟨.none, .none⟩, .fenceMark 0 2 0 0 0, .fenceMark 0 0 144 0 0, .fenceMark 0 0 0 3 0,
  .fenceMark 0 0 0 0 4, .fenceDrained 48 0, .unfence w1 0 (fenceCmd 0 1), .fenceCommand w1 0 (fenceCmd 0 2), .bundleReceive 26 true bnd,
  .bundleReceive 0 true { units := List.replicate 9 0, trailer := 0 }, .nak 0 true 256, .nak 25 true 1024, .linkDown 0 true 256, .ident 0 badIdent, .ident 12 (dieStart true true 0),
  .hold 0 16, .keepalive 24, .quiesce w1 12, .supplyChange 16 0 0, .supplyChange 0 2048 0, .supplyChange 0 0 256, .droopEvent 0 1024, .droopEvent 13 0, .railRecovery 0 499, .phyRailFault 12,
  .pmbusTelemetryRead 16 true, .tread 16 [] [], .tread 0 [] [(10, 0)], .tread 0 [] [(1, 0), (1, 1)], .dimmThermalRead 0 256, .tokenRefill 26, .qosCommit w1 0, .transit w1 (potV 2 0 1),
  .scrub w1 (potV 1 0 1), .transfer w1 0, .unassign w1 0, .assign w1 0, .share w1 0, .unshare w1 0, .release w1 (.fn 2560) 0, .release w1 (.src 0) 16, .claim w1 (.inst 1024),
  .releaseDone (.mbx 64), .claim w1 (.src 2048), .claim w1 (.uzmb 16), .powerDownRequest w1 0 0, .powerDownRequest w1 4 0, .powerUpRequest w1 3 16, .consentWrite w1 16 0,
  .mend 1 288 0, .mend 3 0 0, .faultReport 12, .pendClear w1 1536] : List Instr).all (fun i => !i.wellFormed) = true := by decide +kernel
/-- Ill-formed commands of the stations, engines, pair and Uzomuris. -/
theorem test_illFormedUnits : (([.portCommit w1 10, .portLinkUp 9 4 1 1 false false, .portLinkUp 9 0 8 1 false false, .portLinkUp 9 0 1 17 false false,
  .ecamAccess w1 (2 ^ 52) none, .ecamAccess (no 1) 0 none, .ecamAccess w1 2 none, .pcieWindowAccess w1 0 4 none, .pcieWindowAccess w1 60 3 none, .downstreamRequest 9 0 65536 0 .read,
  .downstreamRequest 9 0 0 (2 ^ 64) .read, .downstreamRequest 9 0 0 4 (.atomic 2 0), .bar2Request 9 256 0 .read, .bar2Request 9 0 (2 ^ 40) .read,
  .bar2Request 9 0 0 (.atomic 8 0), .barUpperWrite 9 0 1 0, .completionTimeout 9 0 768, .lateCompletion 9 0 768]
    : List Instr) ++ ([.hostConfigWrite 9 0 4096 0, .hostConfigWrite 9 0 2 0, .seDbTailWrite w1 2 0 0, .seDbTailWrite w1 1 544 0, .segmentBoundary 2 0, .segmentBoundary 1 8,
  .copy 1 512 0, .copy 1 0 65536, .ringError 1 0 0, .ringError 1 0 6, .mailboxDelivery 1 511, .mailboxDelivery 1 544, .pairDiscovery badPair (peer 1 true),
  .pairDiscovery (peer 1 true) badPair, .pairHb 8 true true true 0 0, .pairHb 0 true true true (2 ^ 64) 0, .pairHb 0 true true true 0 (2 ^ 32), .pairCfg (.table []),
  .pairCfg (.digest (2 ^ 384)), .mirWr 23 0 true true 0 0 0, .mirWr 26 0 true true 0 0 0, .mirWr 24 16 true true 0 0 0, .mirWr 24 0 true true (2 ^ 46) 0 0,
  .mirWr 24 0 true true 0 (2 ^ 32) 0, .mirAck 16 0 true, .resync 0 (2 ^ 28), .pairLinkRetry 4 (peer 1 true), .thermalSensorRead [], .thermalSensorRead (List.replicate 13 256),
  .thermtrip 13, .mctpMessage 256 [] (noDies true false), .uzMbxGo w1 16 mbxGo, .uzMbxGo w1 0 0, .lifeRecordWrite 65536 [], .lifeRecordWrite 0 (List.replicate 225 0),
  .redfishRequest 5 [] (noDies true false), .packageReset badStart, .iommuCommand 10, .lagLimitReached 16] : List Instr)).all (fun i => !i.wellFormed) = true := by decide +kernel

-- the contact array: the example of spec/19_signals_and_package.md and the counts of R441

theorem test_contactLane : contactAt 38 101 = some (.tx 7 11 true) ∧ contactAt 33 96 = some (.ssbCk 7) ∧ contactAt 35 96 = some (.wakeN 7) := by
  decide +kernel
theorem test_contactDq : contactAt 85 26 = some (.dq 9 1 14) ∧ contactAt 0 1 = none ∧ contactAt 88 109 = none := by decide +kernel
theorem test_contactPower : contactCount (fun x => match x with | .power _ => true | _ => false) = 1556 := by decide +kernel
theorem test_contactGround : contactCount (fun x => match x with | .ground => true | _ => false) = 4212 := by decide +kernel
theorem test_contactLanes : contactCount (fun x => match x with | .tx .. | .rx .. => true | _ => false) = 768 := by decide +kernel

end Sys2Proof.Tests
end

section
/-! The hall hash (R29 to R31): the bit slices of an address as quotients and remainders, what `Chip.home` answers in each mode, and the
obligation on the home map. -/

namespace Sys2Proof.Machine

/-- The slice `x[lo+n-1:lo]` of an address of 52 bits, as arithmetic. -/
theorem toNat_extractLsb'_ofNat {x : Nat} (h : x < 2 ^ 52) (lo n : Nat) :
    ((BitVec.ofNat 52 x).extractLsb' lo n).toNat = x / 2 ^ lo % 2 ^ n := by
  rw [BitVec.extractLsb'_toNat, BitVec.toNat_ofNat, Nat.mod_eq_of_lt h, Nat.shiftRight_eq_div_pow]

/-- The form `(x[51:lo] << 8) or x[7:0]` of R29 and R30, as arithmetic: no bit is lost, for the shift right is by at least 8. -/
theorem toNat_shift_or_low {x lo : Nat} (h : x < 2 ^ 52) (hlo : 8 ≤ lo) :
    ((BitVec.ofNat 52 x >>> lo) <<< 8 ||| (BitVec.ofNat 52 x &&& 0xFF)).toNat = x / 2 ^ lo * 2 ^ 8 + x % 2 ^ 8 := by
  have hfit : x / 2 ^ lo * 2 ^ 8 < 2 ^ 52 := calc
    x / 2 ^ lo * 2 ^ 8 ≤ x / 2 ^ lo * 2 ^ lo := Nat.mul_le_mul_left _ (Nat.pow_le_pow_right (by omega) hlo)
    _ ≤ x := Nat.div_mul_le_self x _
    _ < 2 ^ 52 := h
  have hlow : x &&& (0xFF : BitVec 52).toNat = x % 2 ^ 8 := Nat.and_two_pow_sub_one_eq_mod x 8
  have hor : x / 2 ^ lo * 2 ^ 8 ||| x % 2 ^ 8 = x / 2 ^ lo * 2 ^ 8 + x % 2 ^ 8 := by
    rw [Nat.mul_comm, Nat.two_pow_add_eq_or_of_lt (Nat.mod_lt x (by omega))]
  rw [BitVec.toNat_or, BitVec.toNat_shiftLeft, BitVec.toNat_ushiftRight, BitVec.toNat_and, BitVec.toNat_ofNat, Nat.mod_eq_of_lt h,
    Nat.shiftRight_eq_div_pow, Nat.shiftLeft_eq, Nat.mod_eq_of_lt hfit, hlow, hor]

/-- The fold of the ten nibbles, written out. -/
theorem foldNibbles_eq (x : Nat) :
    foldNibbles x = x / 2 ^ 12 % 2 ^ 4 ^^^ x / 2 ^ 16 % 2 ^ 4 ^^^ x / 2 ^ 20 % 2 ^ 4 ^^^ x / 2 ^ 24 % 2 ^ 4 ^^^ x / 2 ^ 28 % 2 ^ 4
      ^^^ x / 2 ^ 32 % 2 ^ 4 ^^^ x / 2 ^ 36 % 2 ^ 4 ^^^ x / 2 ^ 40 % 2 ^ 4 ^^^ x / 2 ^ 44 % 2 ^ 4 ^^^ x / 2 ^ 48 % 2 ^ 4 := by
  simp [foldNibbles, List.range, List.range.loop]

-- the home map, an equation per mode

/-- R29, which R31 keeps for a CXL window. -/
theorem Chip.home_of_oneDomain {c : Chip} (hd : c.domains = false) (pa : Nat) :
    c.home pa = (pa / 2 ^ 8 % 2 ^ 4 ^^^ foldNibbles pa, pa / 2 ^ 12 * 2 ^ 8 + pa % 2 ^ 8) := by
  simp [Chip.home, hd]

/-- R30: below 2^42 an address is counted from the start of its own half. -/
theorem Chip.home_of_twoDomain_low {c : Chip} (hd : c.domains = true) {pa dom o : Nat} (hlow : pa < 2 ^ 42)
    (hdom : dom = if pa < 8 * c.capGib * 2 ^ 30 then 0 else 1) (ho : o = pa - dom * (8 * c.capGib * 2 ^ 30)) :
    c.home pa = (8 * dom + (o / 2 ^ 8 % 2 ^ 3 ^^^ foldNibbles o % 8), o / 2 ^ 11 * 2 ^ 8 + o % 2 ^ 8) := by
  subst ho hdom
  have hlow' : pa < 0x40000000000 := hlow
  simp [Chip.home, hd, hlow']

/-- R31: in two-domain mode the half of the window's station is the domain of a CXL address. -/
theorem Chip.home_of_twoDomain_cxl {c : Chip} (hd : c.domains = true) {pa n a : Nat} (hhigh : 2 ^ 44 ≤ pa) (hr : c.region pa = .cxl n a) :
    c.home pa = (8 * (if stationNorth n then 0 else 1) + (pa / 2 ^ 8 % 2 ^ 3 ^^^ foldNibbles pa % 8), pa / 2 ^ 11 * 2 ^ 8 + pa % 2 ^ 8) := by
  have hhigh' : ¬ pa < 0x40000000000 := by omega
  simp [Chip.home, hd, hhigh', hr]

/-- From 2^44 on the channel-local address is the address without its four or three hash bits, whatever the region is (R31). -/
theorem Chip.home_local_of_high (c : Chip) {pa : Nat} (hhigh : 2 ^ 44 ≤ pa) :
    (c.home pa).2 = if c.domains then pa / 2 ^ 11 * 2 ^ 8 + pa % 2 ^ 8 else pa / 2 ^ 12 * 2 ^ 8 + pa % 2 ^ 8 := by
  have hhigh' : ¬ pa < 0x40000000000 := by omega
  cases hd : c.domains <;> simp [Chip.home, hd, hhigh']

/-- Settles O58: each mode's equation of `Chip.home`, with the slices, the fold and the kept bits of the address read as arithmetic. -/
theorem homeMap : Obligations.HomeMap := by
  unfold Obligations.HomeMap
  intro bits fold keep c pa dom o
  have hbits : ∀ {x}, x < 2 ^ 52 → ∀ lo n, bits x lo n = x / 2 ^ lo % 2 ^ n := toNat_extractLsb'_ofNat
  have hfold : ∀ {x}, x < 2 ^ 52 → fold x = foldNibbles x := fun h => by
    simp only [fold, hbits h, foldNibbles_eq]
  have hkeep : ∀ {x lo}, x < 2 ^ 52 → 8 ≤ lo → keep x lo = x / 2 ^ lo * 2 ^ 8 + x % 2 ^ 8 := toNat_shift_or_low
  refine ⟨fun hd hpa => ?oneDomain, fun hd hcap hpa => ?twoDomain, fun n a hd hlo hhi hr => ?cxl, fun hlo hhi => ?localRange⟩
  case oneDomain =>
    have hx : pa < 2 ^ 52 := by omega
    rw [Chip.home_of_oneDomain hd, hbits hx, hfold hx, hkeep hx (by omega)]
  case twoDomain =>
    have hlow : pa < 2 ^ 42 := by omega
    have hx : o < 2 ^ 52 := (Nat.sub_le pa _).trans_lt (by omega)
    rw [Chip.home_of_twoDomain_low (dom := dom) (o := o) hd hlow rfl rfl, hbits hx, hfold hx, hkeep hx (by omega)]
  case cxl =>
    have hx : pa < 2 ^ 52 := by omega
    rw [Chip.home_of_twoDomain_cxl hd hlo hr, hbits hx, hfold hx, hkeep hx (by omega)]
  case localRange =>
    rw [c.home_local_of_high hlo]
    split <;> omega

end Sys2Proof.Machine
end
section
/-! Who may write a consent (R298): what an accepted write of any register stores, the decoding and the write of WLD_CONSENT_w, and the
obligation on consent. -/

namespace Sys2Proof.Machine

-- an accepted write

/-- An accepted write stores the register field by field. -/
@[simp] theorem Chip.reg_storeFields (c : Chip) (r : Reg) (v : Word) : (c.storeFields r v).reg r = c.afterWrite r v :=
  c.reg_setReg r (c.afterWrite r v)

/-- An accepted write leaves every other register. -/
theorem Chip.reg_storeFields_ne (c : Chip) {q r : Reg} (v : Word) (h : q.offset ≠ r.offset) : (c.storeFields r v).reg q = c.reg q :=
  c.reg_setReg_ne (c.afterWrite r v) h

/-- Putting what a field of a word reads makes the field read the same there. -/
theorem Field.get_put_get (f : Field) (old v : Word) (h : f.hi < 64) (h' : f.lo ≤ f.hi) : f.get (f.put old (f.get v)) = f.get v := by
  rw [f.get_put old _ h h', Nat.mod_eq_of_lt (f.get_lt v)]

-- the fields of WLD_CONSENT_w

/-- Both fields of WLD_CONSENT_w are RW and neither clamps: a write that is accepted puts what it carries, in order of the fields. -/
theorem Chip.afterWrite_consent (c : Chip) (w : Nat) (v : Word) :
    c.afterWrite (.WLD_CONSENT w) v = F.WLD_CONSENT_CLUSTERS.put
      (F.WLD_CONSENT_HALLS.put (c.reg (.WLD_CONSENT w)) (F.WLD_CONSENT_HALLS.get v)) (F.WLD_CONSENT_CLUSTERS.get v) := rfl

theorem Chip.fld_clusters_storeFields_consent (c : Chip) (w : Nat) (v : Word) :
    (c.storeFields (.WLD_CONSENT w) v).fld (.WLD_CONSENT w) F.WLD_CONSENT_CLUSTERS = F.WLD_CONSENT_CLUSTERS.get v := by
  rw [Chip.fld, Chip.reg_storeFields, Chip.afterWrite_consent, Field.get_put_get _ _ _ (by decide) (by decide)]

theorem Chip.fld_halls_storeFields_consent (c : Chip) (w : Nat) (v : Word) :
    (c.storeFields (.WLD_CONSENT w) v).fld (.WLD_CONSENT w) F.WLD_CONSENT_HALLS = F.WLD_CONSENT_HALLS.get v := by
  rw [Chip.fld, Chip.reg_storeFields, Chip.afterWrite_consent,
    Field.get_put_disjoint _ _ _ _ (by decide) (by decide) (by decide) (by decide), Field.get_put_get _ _ _ (by decide) (by decide)]

-- the consent command

/-- World w and Uzomuris store the fields (R298). -/
theorem Chip.consentWrite_of_may (c : Chip) {who : Who} {w : Nat} (v : Word) (h : who.world = w ∨ who.uz = true) :
    c.consentWrite who w v = c.storeFields (.WLD_CONSENT w) v :=
  c.ifMay_of_true who _ _ (by simpa using h)

/-- Any other writer is a world violation: a register write refused, at the register's offset (R298, R303). -/
theorem Chip.consentWrite_of_not_may (c : Chip) {who : Who} {w : Nat} (v : Word) (hw : who.world ≠ w) (hu : who.uz = false) :
    c.consentWrite who w v = c.violate who 1 (Reg.WLD_CONSENT w).offset :=
  c.ifMay_of_false who _ _ (by simp [hw, hu])

theorem exec_consentWrite (who : Who) (w : Nat) (v : Word) (s : State) :
    exec (.consentWrite who w v) s = execConsentWrite who w v s := rfl

/-- The command for one of the sixteen worlds changes the chip alone. -/
theorem gives_consentWrite (s : State) (who : Who) {w : Nat} (v : Word) (h : w < 16) :
    Gives (.consentWrite who w v) s (s.chip.consentWrite who w v) := by
  have hok : worldOk w = true := decide_eq_true h
  rw [Gives, exec_consentWrite, execConsentWrite, hok, need_true, State.onChip]

/-- A world violation leaves the consent: its registers are WLD_VIOL_INFO and WLD_VIOL_ADDR (R303). -/
theorem Chip.reg_consent_violate (c : Chip) (who : Who) (kind off w : Nat) :
    (c.violate who kind off).reg (.WLD_CONSENT w) = c.reg (.WLD_CONSENT w) :=
  c.violate_reg_ne who kind off (by simp only [Reg.offset]; omega) (by simp only [Reg.offset]; omega)

-- a write of the register

theorem offset_consent (w : Nat) : (Reg.WLD_CONSENT w).offset = 0x30480 + w * 8 := by simp only [Reg.offset]

/-- The sixteen consents are registers of the block WLD, each at its own offset (R433). -/
theorem regDecode_consent : ∀ w < 16, regDecode (Reg.WLD_CONSENT w).offset = .reg (.WLD_CONSENT w) := by decide

/-- The block WLD is in no unit that loses its power (R213). -/
theorem Chip.blockPowered_consent (c : Chip) {w : Nat} (h : w < 16) : c.blockPowered (Reg.WLD_CONSENT w).offset = true := by
  rw [offset_consent, Chip.blockPowered, if_neg (by omega), if_neg (by omega), if_neg (by omega), if_neg (by omega)]

/-- A consent belongs to no assignable block, so none refuses the access (R290, R292). -/
theorem Chip.blockRefuses_consent (c : Chip) (who : Who) (w : Nat) : c.blockRefuses who (.WLD_CONSENT w) = false := rfl

/-- A write at the register's offset reaches the register, and has the effect of the consent command. -/
theorem Pkg.registerWrite_consent (p : Pkg) (who : Who) {w : Nat} (v : Word) (h : w < 16) :
    p.registerWrite who (Reg.WLD_CONSENT w).offset v = p.onChip (fun c => c.consentWrite who w v) := by
  have hdie : ¬ 0x10000000 ≤ (Reg.WLD_CONSENT w).offset := by rw [offset_consent]; omega
  simp only [Pkg.registerWrite, regDecode_consent w h, p.chip.blockPowered_consent h, Chip.blockRefuses_consent, hdie]
  rfl

theorem exec_registerWrite (who : Who) (off : Nat) (v : Word) (s : State) :
    exec (.registerWrite who off v) s = execRegisterWrite who off v s := rfl

/-- A consent's offset is one that a register write may name: in register space, and of a whole register. -/
theorem exec_registerWrite_consent (s : State) {who : Who} {w : Nat} (v : Word) (h : w < 16) (hwho : whoOk who = true) :
    exec (.registerWrite who (Reg.WLD_CONSENT w).offset v) s = .next { s with chip := s.chip.consentWrite who w v } := by
  have hok : (whoOk who && (Reg.WLD_CONSENT w).offset < 2 ^ 30 && (Reg.WLD_CONSENT w).offset % 8 == 0) = true := by
    simp only [hwho, offset_consent, Bool.true_and, Bool.and_eq_true, decide_eq_true_eq, beq_iff_eq]
    omega
  rw [exec_registerWrite, execRegisterWrite, hok, need_true, State.onPkg, Pkg.registerWrite_consent _ who v h]
  rfl

/-- Settles O60: the writer's two cases of the consent command, and the register write as that command. -/
theorem consentWrites : Obligations.ConsentWrites := by
  unfold Obligations.ConsentWrites
  intro s who w v hw r
  have hcmd := gives_consentWrite s who v hw
  refine ⟨fun hmay => ?accepted, fun hne hu => ?refused, fun hwho => ?byRegister⟩
  case accepted =>
    rw [s.chip.consentWrite_of_may v hmay] at hcmd
    exact ⟨hcmd, (s.chip.fld_clusters_storeFields_consent w v).symm, (s.chip.fld_halls_storeFields_consent w v).symm,
      fun q hq => s.chip.reg_storeFields_ne v hq⟩
  case refused =>
    rw [s.chip.consentWrite_of_not_may v hne hu] at hcmd
    exact ⟨hcmd, s.chip.reg_consent_violate who 1 r.offset w⟩
  case byRegister =>
    exact (exec_registerWrite_consent s v hw hwho).trans hcmd.symm

end Sys2Proof.Machine
end
section
/-! A notice to a world (R332): the two registers that `Chip.notice` writes before it raises the world's event, and the obligation on
notices. -/

namespace Sys2Proof.Machine

-- what an update of a field stores

/-- A field holds a number of its width. -/
theorem Chip.fld_setFld_of_lt (c : Chip) (r : Reg) (f : Field) {n : Nat} (h : f.hi < 64) (h' : f.lo ≤ f.hi) (hn : n < 2 ^ f.width) :
    (c.setFld r f n).fld r f = n := by
  rw [c.fld_setFld r f n h h', Nat.mod_eq_of_lt hn]

@[simp] theorem Chip.bit_setBit (c : Chip) (r : Reg) (f : Field) (b : Bool) (h : f.hi < 64) (h' : f.lo ≤ f.hi) :
    (c.setBit r f b).bit r f = b := by
  have hb : flag b < 2 ^ f.width := by cases b <;> simp [flag, Field.width]
  rw [Chip.bit, Chip.setBit, c.fld_setFld_of_lt r f h h' hb]
  cases b <;> rfl

-- the registers of a notice

/-- OVERRUN of world v's notice sets where its VALID is set. -/
def Chip.noticeOverrun (c : Chip) (v : Nat) : Chip :=
  if c.bit (.FC_NOTICE_INFO v) F.FC_NOTICE_INFO_VALID then c.setBit (.FC_NOTICE_INFO v) F.FC_NOTICE_INFO_OVERRUN true else c

/-- The fields of FC_NOTICE_INFO_v that every notice writes. -/
def Chip.noticeInfo (c : Chip) (v : Nat) (r : Report) (sev : Nat) : Chip :=
  let n := Reg.FC_NOTICE_INFO v
  (((c.setFld n F.FC_NOTICE_INFO_SOURCE r.source).setFld n F.FC_NOTICE_INFO_SEV sev).setFld n F.FC_NOTICE_INFO_ACC r.acc).setBit n
    F.FC_NOTICE_INFO_VALID true

/-- The address, which only the owner world and W1 are shown. -/
def Chip.noticeAddr (c : Chip) (v : Nat) (r : Report) : Chip :=
  c.setFld (.FC_NOTICE_ADDR v) F.FC_NOTICE_ADDR_ADDR (if v = 1 ∨ v = r.world then r.addr else 0)

/-- Both registers of the notice written, its event not yet raised. -/
def Chip.noticeFill (c : Chip) (v : Nat) (r : Report) (sev : Nat) : Chip :=
  ((c.noticeOverrun v).noticeInfo v r sev).noticeAddr v r

/-- A notice fills the registers of the world it goes to and raises that world's event source. -/
theorem Chip.notice_eq (c : Chip) (w : Nat) (r : Report) (sev : Nat) :
    c.notice w r sev = (c.noticeFill (if w = 2 then 1 else w) r sev).raiseEvent (if w = 2 then 1 else w) := rfl

theorem offset_noticeInfo_ne_noticeAddr (v : Nat) : (Reg.FC_NOTICE_INFO v).offset ≠ (Reg.FC_NOTICE_ADDR v).offset := by
  simp only [Reg.offset]
  omega

-- OVERRUN

theorem Chip.bit_overrun_noticeOverrun (c : Chip) (v : Nat) : (c.noticeOverrun v).bit (.FC_NOTICE_INFO v) F.FC_NOTICE_INFO_OVERRUN =
    (c.bit (.FC_NOTICE_INFO v) F.FC_NOTICE_INFO_VALID || c.bit (.FC_NOTICE_INFO v) F.FC_NOTICE_INFO_OVERRUN) := by
  unfold Chip.noticeOverrun
  split
  next hvalid => rw [c.bit_setBit _ _ _ (by decide) (by decide), hvalid, Bool.true_or]
  next hfree => rw [Bool.eq_false_iff.mpr hfree, Bool.false_or]

theorem Chip.reg_noticeOverrun_ne (c : Chip) {q : Reg} {v : Nat} (h : q.offset ≠ (Reg.FC_NOTICE_INFO v).offset) :
    (c.noticeOverrun v).reg q = c.reg q := by
  unfold Chip.noticeOverrun
  split
  · exact c.reg_setBit_ne _ _ h
  · rfl

theorem Chip.noticeOverrun_frame (c : Chip) (v : Nat) : { c.noticeOverrun v with regs := c.regs } = c := by
  unfold Chip.noticeOverrun
  split <;> rfl

-- the fields of FC_NOTICE_INFO_v: no two share a bit, so the last write of each is what it reads

theorem Chip.fld_source_noticeInfo (c : Chip) (v : Nat) {r : Report} (sev : Nat) (h : r.source < 2 ^ 11) :
    (c.noticeInfo v r sev).fld (.FC_NOTICE_INFO v) F.FC_NOTICE_INFO_SOURCE = r.source := by
  simp (disch := decide) only [Chip.noticeInfo, Chip.setBit, Chip.fld_setFld_disjoint]
  exact Chip.fld_setFld_of_lt _ _ _ (by decide) (by decide) h

theorem Chip.fld_sev_noticeInfo (c : Chip) (v : Nat) (r : Report) {sev : Nat} (h : sev < 8) :
    (c.noticeInfo v r sev).fld (.FC_NOTICE_INFO v) F.FC_NOTICE_INFO_SEV = sev := by
  simp (disch := decide) only [Chip.noticeInfo, Chip.setBit, Chip.fld_setFld_disjoint]
  exact Chip.fld_setFld_of_lt _ _ _ (by decide) (by decide) h

theorem Chip.fld_acc_noticeInfo (c : Chip) (v : Nat) {r : Report} (sev : Nat) (h : r.acc < 16) :
    (c.noticeInfo v r sev).fld (.FC_NOTICE_INFO v) F.FC_NOTICE_INFO_ACC = r.acc := by
  simp (disch := decide) only [Chip.noticeInfo, Chip.setBit, Chip.fld_setFld_disjoint]
  exact Chip.fld_setFld_of_lt _ _ _ (by decide) (by decide) h

theorem Chip.bit_valid_noticeInfo (c : Chip) (v : Nat) (r : Report) (sev : Nat) :
    (c.noticeInfo v r sev).bit (.FC_NOTICE_INFO v) F.FC_NOTICE_INFO_VALID = true :=
  Chip.bit_setBit _ _ _ _ (by decide) (by decide)

/-- OVERRUN stays as it was when the other fields are written. -/
theorem Chip.bit_overrun_noticeInfo (c : Chip) (v : Nat) (r : Report) (sev : Nat) :
    (c.noticeInfo v r sev).bit (.FC_NOTICE_INFO v) F.FC_NOTICE_INFO_OVERRUN = c.bit (.FC_NOTICE_INFO v) F.FC_NOTICE_INFO_OVERRUN := by
  simp (disch := decide) only [Chip.noticeInfo, Chip.bit, Chip.setBit, Chip.fld_setFld_disjoint]

theorem Chip.reg_noticeInfo_ne (c : Chip) {q : Reg} {v : Nat} (r : Report) (sev : Nat) (h : q.offset ≠ (Reg.FC_NOTICE_INFO v).offset) :
    (c.noticeInfo v r sev).reg q = c.reg q := by
  simp only [Chip.noticeInfo, Chip.reg_setBit_ne _ _ _ h, Chip.reg_setFld_ne _ _ _ h]

-- FC_NOTICE_ADDR_v

theorem Chip.fld_addr_noticeAddr (c : Chip) (v : Nat) {r : Report} (h : r.addr < 2 ^ 52) :
    (c.noticeAddr v r).fld (.FC_NOTICE_ADDR v) F.FC_NOTICE_ADDR_ADDR = if v = 1 ∨ v = r.world then r.addr else 0 := by
  refine Chip.fld_setFld_of_lt _ _ _ (by decide) (by decide) ?_
  split
  · exact h
  · decide

theorem Chip.reg_noticeAddr_ne (c : Chip) {q : Reg} {v : Nat} (r : Report) (h : q.offset ≠ (Reg.FC_NOTICE_ADDR v).offset) :
    (c.noticeAddr v r).reg q = c.reg q :=
  c.reg_setFld_ne _ _ h

-- both registers

/-- Writing the address leaves FC_NOTICE_INFO_v. -/
theorem Chip.fld_info_noticeFill (c : Chip) (v : Nat) (r : Report) (sev : Nat) (f : Field) :
    (c.noticeFill v r sev).fld (.FC_NOTICE_INFO v) f = ((c.noticeOverrun v).noticeInfo v r sev).fld (.FC_NOTICE_INFO v) f := by
  rw [Chip.fld, Chip.noticeFill, Chip.reg_noticeAddr_ne _ r (offset_noticeInfo_ne_noticeAddr v), Chip.fld]

theorem Chip.bit_info_noticeFill (c : Chip) (v : Nat) (r : Report) (sev : Nat) (f : Field) :
    (c.noticeFill v r sev).bit (.FC_NOTICE_INFO v) f = ((c.noticeOverrun v).noticeInfo v r sev).bit (.FC_NOTICE_INFO v) f := by
  rw [Chip.bit, Chip.fld_info_noticeFill, Chip.bit]

/-- Filling a notice leaves every register but its two. -/
theorem Chip.reg_noticeFill_ne (c : Chip) {q : Reg} {v : Nat} (r : Report) (sev : Nat) (hinfo : q.offset ≠ (Reg.FC_NOTICE_INFO v).offset)
    (haddr : q.offset ≠ (Reg.FC_NOTICE_ADDR v).offset) : (c.noticeFill v r sev).reg q = c.reg q := by
  rw [Chip.noticeFill, Chip.reg_noticeAddr_ne _ r haddr, Chip.reg_noticeInfo_ne _ r sev hinfo, c.reg_noticeOverrun_ne hinfo]

/-- Filling a notice changes registers alone. -/
theorem Chip.noticeFill_frame (c : Chip) (v : Nat) (r : Report) (sev : Nat) : { c.noticeFill v r sev with regs := c.regs } = c :=
  c.noticeOverrun_frame v

/-- Settles O59: the filled notice of the world it goes to, field by field, is the chip whose event is raised. -/
theorem faultNotice : Obligations.FaultNotice := by
  unfold Obligations.FaultNotice
  intro c w r sev _ hsource hsev hacc haddr v n
  refine ⟨c.noticeFill v r sev, c.notice_eq w r sev, ?source, ?sev, ?acc, ?valid, ?overrun, ?addr,
    fun q hinfo haddr => c.reg_noticeFill_ne r sev hinfo haddr, c.noticeFill_frame v r sev⟩
  case source => rw [c.fld_info_noticeFill, Chip.fld_source_noticeInfo _ v sev hsource]
  case sev => rw [c.fld_info_noticeFill, Chip.fld_sev_noticeInfo _ v r hsev]
  case acc => rw [c.fld_info_noticeFill, Chip.fld_acc_noticeInfo _ v sev hacc]
  case valid => rw [c.bit_info_noticeFill, Chip.bit_valid_noticeInfo]
  case overrun => rw [c.bit_info_noticeFill, Chip.bit_overrun_noticeInfo, c.bit_overrun_noticeOverrun]
  case addr => exact Chip.fld_addr_noticeAddr _ v haddr

end Sys2Proof.Machine
end

section
/-! The shape of every command, and the state after reset. -/

namespace Sys2Proof.Machine

/-- Every command judges its operands by `Instr.wellFormed`, and one that it accepts changes the package alone. -/
theorem exec_eq_need (i : Instr) (s : State) : ∃ p : Pkg, exec i s = need i.wellFormed (.next { s with toPkg := p }) := by
  cases i <;> exact ⟨_, rfl⟩

/-- What a command answers keeps the waiting commands. -/
theorem exec_eq_next_pending {i : Instr} {s t : State} (h : exec i s = .next t) : t.pending = s.pending := by
  obtain ⟨p, hp⟩ := exec_eq_need i s
  obtain ⟨-, ht⟩ := need_eq_next.mp (hp ▸ h)
  injection ht with ht
  exact ht ▸ rfl

/-- Settles O3: the operand check of each command is `Instr.wellFormed`. -/
theorem commandsCompleteOrRefused : Obligations.CommandsCompleteOrRefused := by
  unfold Obligations.CommandsCompleteOrRefused
  refine ⟨fun i s h => ?complete, fun i s h => ?refused⟩
  case complete =>
    obtain ⟨p, hp⟩ := exec_eq_need i s
    exact ⟨{ s with toPkg := p }, by rw [hp, h, need_true]⟩
  case refused =>
    obtain ⟨p, hp⟩ := exec_eq_need i s
    rw [hp, h, need_false]

/-- Settles O1: `step` of a queue with a command at the front is `exec` of that command. -/
theorem stepRunsFront : Obligations.StepRunsFront := by
  unfold Obligations.StepRunsFront
  intro s i rest h
  simp only [step, h]

/-- Settles O6: the chip after reset lists no register, no byte of memory and no command. -/
theorem resetState : Obligations.ResetState := by
  unfold Obligations.ResetState
  exact ⟨⟨List.Pairwise.nil, fun _ h => nomatch h⟩, rfl, fun _ => rfl, rfl⟩

-- a command that names no memory can still lose it: a mailbox request for power-off

@[simp] theorem Chip.raiseEvent_uz (c : Chip) (n : Nat) : (c.raiseEvent n).uz = c.uz := by rw [c.raiseEvent_frame]

/-- The request that the bytes of mailbox i spell. -/
def Chip.mbxRequest (c : Chip) (i : Nat) : Manage := manageOf (((c.mbxBytes i).head?).getD 0).toNat ((c.mbxBytes i).drop 1)

/-- The answer stands in the buffer of mailbox i, BUSY is clear, and the event has been raised (R426). -/
def Chip.mbxAnswered (c : Chip) (i : Nat) : Chip :=
  ((forUpTo 31 (fun j x => x.setReg (.UZ_MBX_DATA i j) (BitVec.ofNat 64 (sliceNum c.uz.lastAnswer (8 * j) 8))) c).setBit
    (.UZ_MBX_CTL i) F.UZ_MBX_CTL_BUSY false).raiseEvent (32 + i)

@[simp] theorem Chip.mbxAnswered_uz (c : Chip) (i : Nat) : (c.mbxAnswered i).uz = c.uz := by
  simp only [Chip.mbxAnswered, Chip.raiseEvent_uz, Chip.setBit_uz]
  exact forUpTo_inv (fun x : Chip => x.uz = c.uz) _ _ _ rfl fun _ _ h => h

/-- A mailbox request for a power-off that its owner may ask for ends in the power-off of the package. -/
theorem Pkg.mbxAnswer_of_powerOff {p : Pkg} {i : Nat} (hon : p.chip.uz.on = true) (hbusy : p.chip.bit (.UZ_MBX_CTL i) F.UZ_MBX_CTL_BUSY = true)
    (hq : p.chip.mbxRequest i = .powerOff) (hmay : p.chip.fld (.WLD_UZMB_OWN i) F.WLD_OWN_OWNER = 1) :
    p.mbxAnswer i = ({ p with chip := (p.chip.manage .powerOff).mbxAnswered i } : Pkg).powerOffAll := by
  unfold Chip.mbxRequest at hq
  simp only [Pkg.mbxAnswer, hon, hbusy, hq, hmay, manageMay]
  rfl

theorem Pkg.powerOffAll_dram {p : Pkg} (hon : p.chip.uz.on = true) (hmains : p.chip.uz.mainsOn = true) (htrip : p.chip.uz.tripped = false) :
    p.powerOffAll.dram = p.dram.filter (fun e => 0x40000000000 ≤ e.1) := by
  simp [Pkg.powerOffAll, Chip.mainsUp, hon, hmains, htrip, Pkg.dropDram, Pkg.onChip]

/-- The power-off that a mailbox request brings loses every byte of package DRAM (R456). -/
theorem Pkg.mbxAnswer_dram_of_powerOff {p : Pkg} {i : Nat} (hon : p.chip.uz.on = true) (hmains : p.chip.uz.mainsOn = true)
    (htrip : p.chip.uz.tripped = false) (hbusy : p.chip.bit (.UZ_MBX_CTL i) F.UZ_MBX_CTL_BUSY = true)
    (hq : p.chip.mbxRequest i = .powerOff) (hmay : p.chip.fld (.WLD_UZMB_OWN i) F.WLD_OWN_OWNER = 1) :
    (p.mbxAnswer i).dram = p.dram.filter (fun e => 0x40000000000 ≤ e.1) := by
  rw [Pkg.mbxAnswer_of_powerOff hon hbusy hq hmay]
  exact Pkg.powerOffAll_dram (by rw [Chip.mbxAnswered_uz]; exact hon) (by rw [Chip.mbxAnswered_uz]; exact hmains)
    (by rw [Chip.mbxAnswered_uz]; exact htrip)

/-- A powered package with one byte of main memory written, and in mailbox 0, which W1 owns, a PLDM request for power-off. -/
def powerOffAsked : State :=
  { State.reset with
    dram := [(0, 1)]
    chip := { Chip.reset with
      uz := { UzSt.reset with on := true, mainsOn := true }
      regs := ((((Chip.reset.setFld (.UZ_MBX_CTL 0) F.UZ_MBX_CTL_BUSY 1).setFld (.UZ_MBX_CTL 0) F.UZ_MBX_CTL_LEN 9).setReg
        (.UZ_MBX_DATA 0 0) 0x39020001).setReg (.UZ_MBX_DATA 0 1) 2).setFld (.WLD_UZMB_OWN 0) F.WLD_OWN_OWNER 1 |>.regs } }

/-- Refutes O4: UZ_MBX_ANSWER is none of the commands that reach memory, but the answer to a power-off request turns the package off, and
its DRAM loses what it held (R456). -/
theorem not_commandFrame : ¬ Obligations.CommandFrame := by
  unfold Obligations.CommandFrame
  intro h
  have hdram : (powerOffAsked.toPkg.mbxAnswer 0).dram = [] :=
    Pkg.mbxAnswer_dram_of_powerOff rfl rfl rfl (by decide) (by decide) (by decide)
  have hsame := ((h (.uzMbxAnswer 0) powerOffAsked _ rfl).2 rfl).1 0
  rw [State.readByte, Pkg.byteAt] at hsame
  rw [hdram] at hsame
  exact absurd hsame (by decide)

end Sys2Proof.Machine
end

section
/-! Memory stays in canonical form: every operation on the package, and on the accesses of an engine, keeps it, each by the lemmas of the
operations it is made of. Memory is written in three places alone (`putByte`, `dropDram`, `channelIn`). -/

namespace Sys2Proof.Machine

-- `grind` waits for the proof of each lemma it cites, and these lemmas cite one another: one proof is made at a time.
set_option Elab.async false

/-- The memory of a package is in canonical form. -/
def Pkg.Canonical (p : Pkg) : Prop := Memory.wf p.dram

@[simp] theorem Pkg.Canonical.onChip {p : Pkg} (hp : p.Canonical) (f : Chip → Chip) : (p.onChip f).Canonical := hp

@[simp] theorem Pkg.Canonical.withChip {p : Pkg} (hp : p.Canonical) (c : Chip) (e : Sparse Nat) : Pkg.Canonical ⟨c, p.dram, e⟩ := hp

@[simp] theorem Pkg.Canonical.putByte {p : Pkg} (hp : p.Canonical) (a : Nat) (b : Byte) : (p.putByte a b).Canonical :=
  Pkg.putByte_wf hp a b

@[simp] theorem Pkg.Canonical.putLine {p : Pkg} (hp : p.Canonical) (l : Nat) (v : Line) : (p.putLine l v).Canonical :=
  Pkg.putLine_wf hp l v

@[simp] theorem Pkg.Canonical.chanWrite {p : Pkg} (hp : p.Canonical) (l : Nat) (v : Line) (b : Bool) : (p.chanWrite l v b).Canonical :=
  Pkg.chanWrite_wf hp l v b

@[simp] theorem Pkg.Canonical.treadWrite {p : Pkg} (hp : p.Canonical) (l : Nat) (v : Line) (b : Bool) (cls : Nat) (m : Bool) : (p.treadWrite l v b cls m).Canonical :=
  Pkg.treadWrite_wf hp l v b cls m

@[simp] theorem Pkg.Canonical.hcEvict {p : Pkg} (hp : p.Canonical) (l cls : Nat) (m : Bool) : (p.hcEvict l cls m).Canonical :=
  Pkg.hcEvict_wf hp l cls m

@[simp] theorem Pkg.Canonical.hcAlloc {p : Pkg} (hp : p.Canonical) (l : Nat) (v : Line) (b d : Bool) (cls : Nat) : (p.hcAlloc l v b d cls).Canonical :=
  Pkg.hcAlloc_wf hp l v b d cls

@[simp] theorem Pkg.Canonical.memFetch {p : Pkg} (hp : p.Canonical) (l cls : Nat) (m : Bool) (r : Msg) : (p.memFetch l cls m r).1.Canonical :=
  Pkg.memFetch_wf hp l cls m r

@[simp] theorem Pkg.Canonical.memWrite {p : Pkg} (hp : p.Canonical) (l : Nat) (v : Line) (b : Bool) (cls : Nat) : (p.memWrite l v b cls).Canonical :=
  Pkg.memWrite_wf hp l v b cls

@[simp] theorem Pkg.Canonical.rawWrite {p : Pkg} (hp : p.Canonical) (l : Nat) (v : Line) (b : Bool) (cls : Nat) : (p.rawWrite l v b cls).Canonical :=
  Pkg.rawWrite_wf hp l v b cls

@[simp] theorem Pkg.Canonical.fetchOr {p : Pkg} (hp : p.Canonical) (x : Option (Line × Bool)) (l cls : Nat) (r : Msg) : (p.fetchOr x l cls r).1.Canonical :=
  Pkg.fetchOr_wf hp x l cls r

@[simp] theorem Pkg.Canonical.coherentFetch {p : Pkg} (hp : p.Canonical) (l cls : Nat) (r : Msg) : (p.coherentFetch l cls r).1.Canonical :=
  Pkg.coherentFetch_wf hp l cls r

@[simp] theorem Pkg.Canonical.setDirty {p : Pkg} (hp : p.Canonical) (n pg : Nat) (b : Bool) : (p.setDirty n pg b).Canonical :=
  Pkg.setDirty_wf hp n pg b

@[simp] theorem Pkg.Canonical.mirror {p : Pkg} (hp : p.Canonical) (l : Nat) (v : Line) (b : Bool) : (p.mirror l v b).Canonical :=
  Pkg.mirror_wf hp l v b

@[simp] theorem Pkg.Canonical.homeWrite {p : Pkg} (hp : p.Canonical) (l : Nat) (v : Line) (b : Bool) (cls : Nat) : (p.homeWrite l v b cls).Canonical :=
  Pkg.homeWrite_wf hp l v b cls

@[simp] theorem Pkg.Canonical.dropDram {p : Pkg} (hp : p.Canonical) : p.dropDram.Canonical :=
  Pkg.dropDram_wf hp

@[simp] theorem Pkg.Canonical.channelIn {p : Pkg} (hp : p.Canonical) (n : Nat) : (p.channelIn n).Canonical :=
  Pkg.channelIn_wf hp n

/-- A loop over a list keeps what each turn keeps. -/
theorem foldl_keeps {α β : Type} {P : β → Prop} {f : β → α → β} (hf : ∀ b a, P b → P (f b a)) (l : List α) {b : β} (hb : P b) : P (l.foldl f b) := by
  induction l generalizing b with
  | nil => exact hb
  | cons a l ih => exact ih (hf b a hb)

theorem Pkg.Canonical.foldl {α : Type} {f : Pkg → α → Pkg} {p : Pkg} (hp : p.Canonical) (l : List α)
    (hf : ∀ q a, q.Canonical → (f q a).Canonical) : (l.foldl f p).Canonical := foldl_keeps hf l hp

theorem Pkg.Canonical.foldl_fst {α β : Type} {f : Pkg × β → α → Pkg × β} {b : Pkg × β} (hb : b.1.Canonical) (l : List α)
    (hf : ∀ q a, q.1.Canonical → (f q a).1.Canonical) : (l.foldl f b).1.Canonical :=
  foldl_keeps (P := fun b : Pkg × β => b.1.Canonical) hf l hb

theorem Pkg.Canonical.forUpTo {f : Nat → Pkg → Pkg} {p : Pkg} (hp : p.Canonical) (n : Nat)
    (hf : ∀ i q, q.Canonical → (f i q).Canonical) : (forUpTo n f p).Canonical := forUpTo_inv Pkg.Canonical n f p hp hf

/-- The accesses of an engine have kept memory in canonical form. -/
def Eng.Canonical (x : Eng) : Prop := x.p.Canonical

@[simp] theorem Eng.Canonical.mem {x : Eng} (hx : x.Canonical) : x.p.Canonical := hx
@[simp] theorem Eng.canonical_mk (p : Pkg) (w : Bool) (st : Nat) (b : Bool) : Eng.Canonical ⟨p, w, st, b⟩ ↔ p.Canonical := Iff.rfl
@[simp] theorem Eng.Canonical.onChip {x : Eng} (hx : x.Canonical) (f : Chip → Chip) : (x.onChip f).Canonical := hx
@[simp] theorem Eng.Canonical.fail {x : Eng} (hx : x.Canonical) (st : Nat) : (x.fail st).Canonical := hx
@[simp] theorem Eng.start_canonical {p : Pkg} (hp : p.Canonical) : (Eng.start p).Canonical := hp
theorem Eng.Canonical.foldl {α : Type} {f : Eng → α → Eng} {x : Eng} (hx : x.Canonical) (l : List α)
    (hf : ∀ y a, y.Canonical → (f y a).Canonical) : (l.foldl f x).Canonical := foldl_keeps hf l hx

theorem Eng.Canonical.foldl_fst {α β : Type} {f : Eng × β → α → Eng × β} {b : Eng × β} (hb : b.1.Canonical) (l : List α)
    (hf : ∀ y a, y.1.Canonical → (f y a).1.Canonical) : (l.foldl f b).1.Canonical :=
  foldl_keeps (P := fun b : Eng × β => b.1.Canonical) hf l hb

@[simp] theorem Pkg.Canonical.setPoison {p : Pkg} (hp : p.Canonical) (line : Nat) (b : Bool) : (p.setPoison line b).Canonical := hp

/-- An operation of an engine has kept memory in canonical form. -/
def Done.Canonical (d : Done) : Prop := d.x.Canonical

@[simp] theorem Done.Canonical.eng {d : Done} (hd : d.Canonical) : d.x.Canonical := hd

@[simp] theorem Done.canonical_mk (x : Eng) (r : Word) (st : Nat) : Done.Canonical ⟨x, r, st⟩ ↔ x.Canonical := Iff.rfl

theorem Done.Canonical.foldl {α : Type} {f : Done → α → Done} {d : Done} (hd : d.Canonical) (l : List α)
    (hf : ∀ y a, y.Canonical → (f y a).Canonical) : (l.foldl f d).Canonical := foldl_keeps hf l hd

@[simp] theorem Pkg.Canonical.ifArrives {p : Pkg} (hp : p.Canonical) (m : Msg) {f : Pkg → Pkg} (hf : (f p).Canonical) :
    (p.ifArrives m f).Canonical := by
  unfold Pkg.ifArrives
  split
  · exact hf
  · exact hp

@[simp] theorem Pkg.Canonical.setLagging {p : Pkg} (hp : p.Canonical) (n pg : Nat) :
    (p.setLagging n pg).Canonical := by
  unfold Pkg.setLagging
  grind [Pkg.Canonical.onChip, Pkg.Canonical.setDirty]

@[simp] theorem Pkg.Canonical.markUnacked {p : Pkg} (hp : p.Canonical) (sel : MirLine → Bool) :
    (p.markUnacked sel).Canonical := by
  unfold Pkg.markUnacked
  grind [Pkg.Canonical.onChip, Pkg.Canonical.foldl, Pkg.Canonical.setDirty]

@[simp] theorem Pkg.Canonical.pairFailed {p : Pkg} (hp : p.Canonical) (k : Nat) :
    (p.pairFailed k).Canonical := by
  unfold Pkg.pairFailed
  grind [Pkg.Canonical.markUnacked]

@[simp] theorem Pkg.Canonical.purgeLost {p : Pkg} (hp : p.Canonical) (d line : Nat) :
    (p.purgeLost d line).Canonical := by
  unfold Pkg.purgeLost
  grind [Pkg.Canonical.onChip, Pkg.Canonical.homeWrite]

@[simp] theorem Pkg.Canonical.purgeLine {p : Pkg} (hp : p.Canonical) (line : Nat) :
    (p.purgeLine line).Canonical := by
  unfold Pkg.purgeLine
  grind [Pkg.Canonical.foldl, Pkg.Canonical.purgeLost]

@[simp] theorem Pkg.Canonical.potFetch {p : Pkg} (hp : p.Canonical) (hall line : Nat) :
    (p.potFetch hall line).1.Canonical := by
  unfold Pkg.potFetch
  grind [Pkg.Canonical.onChip, Pkg.Canonical.memFetch]

@[simp] theorem Pkg.Canonical.owncLookup {p : Pkg} (hp : p.Canonical) (hall pg : Nat) :
    (p.owncLookup hall pg).1.Canonical := by
  unfold Pkg.owncLookup
  grind [Pkg.Canonical.onChip, Pkg.Canonical.potFetch]

@[simp] theorem Pkg.Canonical.worldCheck {p : Pkg} (hp : p.Canonical) (rid world line : Nat) :
    (p.worldCheck rid world line).1.Canonical := by
  unfold Pkg.worldCheck
  grind [Pkg.Canonical.owncLookup]

@[simp] theorem Pkg.Canonical.poisonOwner {p : Pkg} (hp : p.Canonical) (line : Nat) :
    (p.poisonOwner line).1.Canonical := by
  unfold Pkg.poisonOwner
  grind [Pkg.Canonical.owncLookup]

@[simp] theorem Pkg.Canonical.allow {p : Pkg} (hp : p.Canonical) (rid world acc line : Nat) :
    (p.allow rid world acc line).1.Canonical := by
  unfold Pkg.allow
  grind [Pkg.Canonical.onChip, Pkg.Canonical.worldCheck]

@[simp] theorem Pkg.Canonical.ioReadAs {p : Pkg} (hp : p.Canonical) (acc rid world label line : Nat) :
    (p.ioReadAs acc rid world label line).1.Canonical := by
  unfold Pkg.ioReadAs
  grind [Pkg.Canonical.onChip, Pkg.Canonical.fetchOr, Pkg.Canonical.purgeLine, Pkg.Canonical.allow]

@[simp] theorem Pkg.Canonical.ioRead {p : Pkg} (hp : p.Canonical) (rid world label line : Nat) :
    (p.ioRead rid world label line).1.Canonical := by
  unfold Pkg.ioRead
  grind [Pkg.Canonical.ioReadAs]

@[simp] theorem Pkg.Canonical.ioWrite {p : Pkg} (hp : p.Canonical) (rid world label line : Nat) (v : Line) (mask : Word) (poison : Bool) :
    (p.ioWrite rid world label line v mask poison).1.Canonical := by
  unfold Pkg.ioWrite
  grind [Pkg.Canonical.onChip, Pkg.Canonical.coherentFetch, Pkg.Canonical.homeWrite, Pkg.Canonical.purgeLine, Pkg.Canonical.allow]

@[simp] theorem Pkg.Canonical.readBytes {p : Pkg} (hp : p.Canonical) (rid world label a n : Nat) :
    (p.readBytes rid world label a n).1.Canonical := by
  unfold Pkg.readBytes
  grind [Pkg.Canonical.foldl_fst, Pkg.Canonical.ioRead]

@[simp] theorem Pkg.Canonical.writeBytes {p : Pkg} (hp : p.Canonical) (rid world label a : Nat) (l : List Byte) (poison : Bool) :
    (p.writeBytes rid world label a l poison).1.Canonical := by
  unfold Pkg.writeBytes
  grind [Pkg.Canonical.foldl_fst, Pkg.Canonical.ioWrite]

@[simp] theorem Pkg.Canonical.readChannel {p : Pkg} (hp : p.Canonical) (m : Msg) (alloc : Bool) :
    (p.readChannel m alloc).Canonical := by
  unfold Pkg.readChannel
  grind [Pkg.Canonical.onChip]

@[simp] theorem Pkg.Canonical.homeData {p : Pkg} (hp : p.Canonical) (m : Msg) :
    (p.homeData m).Canonical := by
  unfold Pkg.homeData
  grind [Pkg.Canonical.onChip, Pkg.Canonical.hcEvict, Pkg.Canonical.readChannel]

@[simp] theorem Pkg.Canonical.writeBack {p : Pkg} (hp : p.Canonical) (m : Msg) :
    (p.writeBack m).Canonical := by
  unfold Pkg.writeBack
  grind [Pkg.Canonical.onChip, Pkg.Canonical.homeWrite]

@[simp] theorem Pkg.Canonical.wbFirst {p : Pkg} (hp : p.Canonical) (line : Nat) :
    (p.wbFirst line).Canonical := by
  unfold Pkg.wbFirst
  grind [Pkg.Canonical.onChip, Pkg.Canonical.writeBack]

@[simp] theorem Pkg.Canonical.purgeAfter {p : Pkg} (hp : p.Canonical) (line : Nat) :
    (p.purgeAfter line).Canonical := by
  unfold Pkg.purgeAfter
  grind [Pkg.Canonical.purgeLine, Pkg.Canonical.wbFirst]

@[simp] theorem Pkg.Canonical.endLost {p : Pkg} (hp : p.Canonical) (m : Msg) :
    (p.endLost m).Canonical := by
  unfold Pkg.endLost
  grind [Pkg.Canonical.onChip, Pkg.Canonical.purgeAfter]

@[simp] theorem Pkg.Canonical.grant {p : Pkg} (hp : p.Canonical) (t : Txn) (e : DirEntry) (state src : Nat) :
    (p.grant t e state src).Canonical := by
  unfold Pkg.grant
  grind [Pkg.Canonical.onChip, Pkg.Canonical.homeData, Pkg.Canonical.endLost]

@[simp] theorem Pkg.Canonical.complete {p : Pkg} (hp : p.Canonical) (m : Msg) (wrote : Bool) :
    (p.complete m wrote).Canonical := by
  unfold Pkg.complete
  grind [Pkg.Canonical.onChip, Pkg.Canonical.endLost]

@[simp] theorem Pkg.Canonical.finishCmo {p : Pkg} (hp : p.Canonical) (t : Txn) (e : DirEntry) (wrote : Bool) :
    (p.finishCmo t e wrote).Canonical := by
  unfold Pkg.finishCmo
  grind [Pkg.Canonical.onChip, Pkg.Canonical.complete]

@[simp] theorem Pkg.Canonical.ioAtomic {p : Pkg} (hp : p.Canonical) (rid world label line off code : Nat) (args : Nat × Nat) :
    (p.ioAtomic rid world label line off code args).1.Canonical := by
  unfold Pkg.ioAtomic
  grind [Pkg.Canonical.onChip, Pkg.Canonical.coherentFetch, Pkg.Canonical.homeWrite, Pkg.Canonical.purgeLine, Pkg.Canonical.allow]

@[simp] theorem Pkg.Canonical.finish {p0 : Pkg} (hp0 : p0.Canonical) (t : Txn) :
    (p0.finish t).Canonical := by
  unfold Pkg.finish
  grind [Pkg.Canonical.onChip, Pkg.Canonical.memFetch, Pkg.Canonical.homeWrite, Pkg.Canonical.homeData, Pkg.Canonical.grant,
    Pkg.Canonical.complete, Pkg.Canonical.finishCmo]

@[simp] theorem Pkg.Canonical.backInv {p : Pkg} (hp : p.Canonical) (v : Nat) (for_ : Option Nat) :
    (p.backInv v for_).Canonical := by
  unfold Pkg.backInv
  grind [Pkg.Canonical.onChip, Pkg.Canonical.finish]

@[simp] theorem Pkg.Canonical.backInvTurn {p : Pkg} (hp : p.Canonical) (line : Nat) :
    (p.backInvTurn line).Canonical := by
  unfold Pkg.backInvTurn
  grind [Pkg.Canonical.onChip, Pkg.Canonical.backInv]

@[simp] theorem Pkg.Canonical.bodyLost {p : Pkg} (hp : p.Canonical) (line : Nat) :
    (p.bodyLost line).Canonical := by
  unfold Pkg.bodyLost
  grind [Pkg.Canonical.onChip, Pkg.Canonical.backInvTurn]

@[simp] theorem Pkg.Canonical.dirRoom {p : Pkg} (hp : p.Canonical) (line : Nat) :
    (p.dirRoom line).1.Canonical := by
  unfold Pkg.dirRoom
  grind [Pkg.Canonical.onChip, Pkg.Canonical.backInv]

@[simp] theorem Pkg.Canonical.startReq {p : Pkg} (hp : p.Canonical) (m : Msg) :
    (p.startReq m).Canonical := by
  unfold Pkg.startReq
  grind [Pkg.Canonical.onChip, Pkg.Canonical.purgeLine, Pkg.Canonical.worldCheck, Pkg.Canonical.writeBack, Pkg.Canonical.finish,
    Pkg.Canonical.backInv, Pkg.Canonical.dirRoom]

@[simp] theorem Pkg.Canonical.serve1 {p : Pkg} (hp : p.Canonical) (m : Msg) :
    (p.serve1 m).Canonical := by
  unfold Pkg.serve1
  grind [Pkg.Canonical.onChip, Pkg.Canonical.startReq]

@[simp] theorem Pkg.Canonical.next {p : Pkg} (hp : p.Canonical) :
    (p.next).Canonical := by
  unfold Pkg.next
  grind [Pkg.Canonical.foldl, Pkg.Canonical.serve1]

@[simp] theorem Pkg.Canonical.close {p : Pkg} (hp : p.Canonical) (t : Txn) :
    (p.close t).Canonical := by
  unfold Pkg.close
  grind [Pkg.Canonical.finish, Pkg.Canonical.serve1]

@[simp] theorem Pkg.Canonical.arrive {p : Pkg} (hp : p.Canonical) (m : Msg) :
    (p.arrive m).Canonical := by
  unfold Pkg.arrive
  grind [Pkg.Canonical.onChip, Pkg.Canonical.startReq, Pkg.Canonical.next]

@[simp] theorem Pkg.Canonical.answer {p : Pkg} (hp : p.Canonical) (m : Msg) :
    (p.answer m).Canonical := by
  unfold Pkg.answer
  grind [Pkg.Canonical.onChip, Pkg.Canonical.next, Pkg.Canonical.close]

@[simp] theorem Pkg.Canonical.compAck {p : Pkg} (hp : p.Canonical) (m : Msg) :
    (p.compAck m).Canonical := by
  unfold Pkg.compAck
  grind [Pkg.Canonical.onChip, Pkg.Canonical.purgeAfter, Pkg.Canonical.next]

@[simp] theorem Pkg.Canonical.wchk {p : Pkg} (hp : p.Canonical) (m : Msg) :
    (p.wchk m).Canonical := by
  unfold Pkg.wchk
  grind [Pkg.Canonical.onChip, Pkg.Canonical.worldCheck]

@[simp] theorem Pkg.Canonical.hallRd {p : Pkg} (hp : p.Canonical) (m : Msg) :
    (p.hallRd m).Canonical := by
  unfold Pkg.hallRd
  grind [Pkg.Canonical.onChip, Pkg.Canonical.hcAlloc, Pkg.Canonical.potFetch, Pkg.Canonical.next]

@[simp] theorem Pkg.Canonical.hallPurgeRun {p0 : Pkg} (hp0 : p0.Canonical) (n d : Nat) :
    (p0.hallPurgeRun n d).Canonical := by
  unfold Pkg.hallPurgeRun
  grind [Pkg.Canonical.onChip, Pkg.Canonical.foldl, Pkg.Canonical.purgeLost, Pkg.Canonical.wbFirst, Pkg.Canonical.next,
    Pkg.Canonical.close]

@[simp] theorem Pkg.Canonical.hallPurge {p : Pkg} (hp : p.Canonical) (n d : Nat) :
    (p.hallPurge n d).Canonical := by
  unfold Pkg.hallPurge
  grind [Pkg.Canonical.hallPurgeRun]

@[simp] theorem Pkg.Canonical.arrayReport {p : Pkg} (hp : p.Canonical) (e : ArrErr) (k : ArrFault) (m : Meets) :
    (p.arrayReport e k m).Canonical := by
  unfold Pkg.arrayReport
  grind [Pkg.Canonical.onChip, Pkg.Canonical.poisonOwner]

@[simp] theorem Pkg.Canonical.wayDisable {p : Pkg} (hp : p.Canonical) (e : ArrErr) (w : Nat) :
    (p.wayDisable e w).Canonical := by
  unfold Pkg.wayDisable
  grind [Pkg.Canonical.onChip, Pkg.Canonical.foldl, Pkg.Canonical.hcEvict, Pkg.Canonical.backInvTurn]

@[simp] theorem Pkg.Canonical.hardWord {p : Pkg} (hp : p.Canonical) (e : ArrErr) (m : Meets) :
    (p.hardWord e m).Canonical := by
  unfold Pkg.hardWord
  grind [Pkg.Canonical.onChip, Pkg.Canonical.arrayReport, Pkg.Canonical.wayDisable]

@[simp] theorem Pkg.Canonical.correct {p : Pkg} (hp : p.Canonical) (e : ArrErr) (m : Meets) :
    (p.correct e m).Canonical := by
  unfold Pkg.correct
  grind [Pkg.Canonical.onChip, Pkg.Canonical.arrayReport, Pkg.Canonical.hardWord]

@[simp] theorem Pkg.Canonical.lose {p : Pkg} (hp : p.Canonical) (e : ArrErr) (line : Nat) :
    (p.lose e line).1.Canonical := by
  unfold Pkg.lose
  grind [Pkg.Canonical.onChip, Pkg.Canonical.treadWrite, Pkg.Canonical.bodyLost]

@[simp] theorem Pkg.Canonical.uncorrectable {p : Pkg} (hp : p.Canonical) (e : ArrErr) (m : Meets) :
    (p.uncorrectable e m).Canonical := by
  unfold Pkg.uncorrectable
  grind [Pkg.Canonical.onChip, Pkg.Canonical.arrayReport, Pkg.Canonical.hardWord, Pkg.Canonical.lose]

@[simp] theorem Pkg.Canonical.escapeInto {p : Pkg} (hp : p.Canonical) (e : ArrErr) (m : Meets) :
    (p.escapeInto e m).Canonical := by
  unfold Pkg.escapeInto
  grind [Pkg.Canonical.onChip]

@[simp] theorem Pkg.Canonical.arrayRead {p : Pkg} (hp : p.Canonical) (e : ArrErr) (m : Meets) :
    (p.arrayRead e m).Canonical := by
  unfold Pkg.arrayRead
  grind [Pkg.Canonical.correct, Pkg.Canonical.uncorrectable, Pkg.Canonical.escapeInto]

@[simp] theorem Pkg.Canonical.access {p : Pkg} (hp : p.Canonical) (h va acc : Nat) (err : Option ArrErr) (i : Instr) :
    (p.access h va acc err i).Canonical := by
  unfold Pkg.access
  grind [Pkg.Canonical.onChip, Pkg.Canonical.arrayRead]

@[simp] theorem Pkg.Canonical.hallLine {p : Pkg} (hp : p.Canonical) (n op line : Nat) :
    (p.hallLine n op line).Canonical := by
  unfold Pkg.hallLine
  grind [Pkg.Canonical.onChip, Pkg.Canonical.treadWrite, Pkg.Canonical.hcEvict]

@[simp] theorem Pkg.Canonical.mntLine {p : Pkg} (hp : p.Canonical) (r : MntRun) (line : Nat) :
    (p.mntLine r line).Canonical := by
  unfold Pkg.mntLine
  grind [Pkg.Canonical.onChip, Pkg.Canonical.hallLine]

@[simp] theorem Pkg.Canonical.mntVisit {p : Pkg} (hp : p.Canonical) (r : MntRun) (ls : List Nat) :
    (p.mntVisit r ls).1.Canonical := by
  unfold Pkg.mntVisit
  grind [Pkg.Canonical.foldl_fst, Pkg.Canonical.mntLine]

@[simp] theorem Pkg.Canonical.mntRun {p : Pkg} (hp : p.Canonical) (r : MntRun) (ls : List Nat) :
    (p.mntRun r ls).Canonical := by
  unfold Pkg.mntRun
  grind [Pkg.Canonical.onChip, Pkg.Canonical.withChip, Pkg.Canonical.mntVisit]

@[simp] theorem Pkg.Canonical.mntStart {p : Pkg} (hp : p.Canonical) (who : Who) (key : Nat) :
    (p.mntStart who key).Canonical := by
  unfold Pkg.mntStart
  grind [Pkg.Canonical.withChip, Pkg.Canonical.mntRun]

@[simp] theorem Pkg.Canonical.mntCtlWrite {p : Pkg} (hp : p.Canonical) (who : Who) (key : Nat) (v : Word) :
    (p.mntCtlWrite who key v).Canonical := by
  unfold Pkg.mntCtlWrite
  grind [Pkg.Canonical.onChip, Pkg.Canonical.withChip, Pkg.Canonical.mntStart]

@[simp] theorem Pkg.Canonical.mntDone {p : Pkg} (hp : p.Canonical) (key : Nat) :
    (p.mntDone key).Canonical := by
  unfold Pkg.mntDone
  grind [Pkg.Canonical.onChip, Pkg.Canonical.mntRun]

@[simp] theorem Pkg.Canonical.cacheClean {p : Pkg} (hp : p.Canonical) (s : CacheSel) :
    (p.cacheClean s).Canonical := by
  unfold Pkg.cacheClean
  grind [Pkg.Canonical.foldl, Pkg.Canonical.hallLine]

@[simp] theorem Pkg.Canonical.cacheDisable {p : Pkg} (hp : p.Canonical) (s : CacheSel) (mode : Nat) :
    (p.cacheDisable s mode).Canonical := by
  unfold Pkg.cacheDisable
  grind [Pkg.Canonical.onChip, Pkg.Canonical.cacheClean]

@[simp] theorem Pkg.Canonical.cacheCmd {p : Pkg} (hp : p.Canonical) (who : Who) (s : CacheSel) (cmd : Nat) :
    (p.cacheCmd who s cmd).Canonical := by
  unfold Pkg.cacheCmd
  grind [Pkg.Canonical.onChip, Pkg.Canonical.withChip, Pkg.Canonical.cacheDisable]

@[simp] theorem Pkg.Canonical.wldWrite {p : Pkg} (hp : p.Canonical) (line : Nat) (v : Line) (mask : Word) :
    (p.wldWrite line v mask).Canonical := by
  unfold Pkg.wldWrite
  grind [Pkg.Canonical.onChip, Pkg.Canonical.coherentFetch, Pkg.Canonical.homeWrite]

@[simp] theorem Pkg.Canonical.wldZero {p : Pkg} (hp : p.Canonical) (a n : Nat) :
    (p.wldZero a n).Canonical := by
  unfold Pkg.wldZero
  grind [Pkg.Canonical.foldl, Pkg.Canonical.wldWrite]

@[simp] theorem Pkg.Canonical.potWrite {p : Pkg} (hp : p.Canonical) (pg e : Nat) :
    (p.potWrite pg e).Canonical := by
  unfold Pkg.potWrite
  grind [Pkg.Canonical.onChip, Pkg.Canonical.wldWrite]

@[simp] theorem Pkg.Canonical.formatSegment {p : Pkg} (hp : p.Canonical) (s : Nat) :
    (p.formatSegment s).Canonical := by
  unfold Pkg.formatSegment
  grind [Pkg.Canonical.wldZero]

@[simp] theorem Pkg.Canonical.formatOwn {p : Pkg} (hp : p.Canonical) (s : Nat) :
    (p.formatOwn s).Canonical := by
  unfold Pkg.formatOwn
  grind [Pkg.Canonical.onChip, Pkg.Canonical.foldl, Pkg.Canonical.potWrite]

@[simp] theorem Pkg.Canonical.formatDone {p : Pkg} (hp : p.Canonical) :
    (p.formatDone).Canonical := by
  unfold Pkg.formatDone
  grind [Pkg.Canonical.onChip, Pkg.Canonical.forUpTo, Pkg.Canonical.formatSegment, Pkg.Canonical.formatOwn]

@[simp] theorem Pkg.Canonical.potStep2 {p : Pkg} (hp : p.Canonical) (o : PotOp) (pg : Nat) :
    (p.potStep2 o pg).Canonical := by
  unfold Pkg.potStep2
  grind [Pkg.Canonical.onChip, Pkg.Canonical.potWrite]

@[simp] theorem Pkg.Canonical.potBegin {p : Pkg} (hp : p.Canonical) (o : PotOp) :
    (p.potBegin o).Canonical := by
  unfold Pkg.potBegin
  grind [Pkg.Canonical.onChip, Pkg.Canonical.foldl, Pkg.Canonical.potStep2]

@[simp] theorem Pkg.Canonical.potCache {p : Pkg} (hp : p.Canonical) (op line : Nat) :
    (p.potCache op line).Canonical := by
  unfold Pkg.potCache
  grind [Pkg.Canonical.onChip, Pkg.Canonical.hcEvict, Pkg.Canonical.homeWrite, Pkg.Canonical.wldWrite]

@[simp] theorem Pkg.Canonical.potOpWrite {p : Pkg} (hp : p.Canonical) (who : Who) (v : Word) :
    (p.potOpWrite who v).Canonical := by
  unfold Pkg.potOpWrite
  grind [Pkg.Canonical.withChip, Pkg.Canonical.potBegin]

@[simp] theorem Pkg.Canonical.potDone {p : Pkg} (hp : p.Canonical) :
    (p.potDone).Canonical := by
  unfold Pkg.potDone
  grind [Pkg.Canonical.onChip, Pkg.Canonical.foldl, Pkg.Canonical.potBegin, Pkg.Canonical.potCache]

@[simp] theorem Pkg.Canonical.potQuery {p : Pkg} (hp : p.Canonical) (who : Who) (v : Word) :
    (p.potQuery who v).Canonical := by
  unfold Pkg.potQuery
  grind [Pkg.Canonical.onChip]

@[simp] theorem Pkg.Canonical.traceRec {p : Pkg} (hp : p.Canonical) (r : Nat) :
    (p.traceRec r).Canonical := by
  unfold Pkg.traceRec
  grind [Pkg.Canonical.onChip, Pkg.Canonical.withChip, Pkg.Canonical.ioWrite]

@[simp] theorem Pkg.Canonical.supplyChange {p : Pkg} (hp : p.Canonical) (rail mv tj : Nat) :
    (p.supplyChange rail mv tj).Canonical := by
  unfold Pkg.supplyChange
  grind [Pkg.Canonical.onChip, Pkg.Canonical.dropDram]

@[simp] theorem Pkg.Canonical.repair {p : Pkg} (hp : p.Canonical) (n line rid world acc : Nat) :
    (p.repair n line rid world acc).Canonical := by
  unfold Pkg.repair
  grind [Pkg.Canonical.onChip, Pkg.Canonical.withChip, Pkg.Canonical.chanWrite, Pkg.Canonical.poisonOwner]

@[simp] theorem Pkg.Canonical.dramCorrected {p : Pkg} (hp : p.Canonical) (n line dev rid world acc : Nat) (v : Line) (poison : Bool) :
    (p.dramCorrected n line dev rid world acc v poison).Canonical := by
  unfold Pkg.dramCorrected
  grind [Pkg.Canonical.onChip, Pkg.Canonical.chanWrite]

@[simp] theorem Pkg.Canonical.dramRead {p : Pkg} (hp : p.Canonical) (n line rid world acc : Nat) (e : EccErr) :
    (p.dramRead n line rid world acc e).1.Canonical := by
  unfold Pkg.dramRead
  grind [Pkg.Canonical.onChip, Pkg.Canonical.repair, Pkg.Canonical.dramCorrected]

@[simp] theorem Pkg.Canonical.treadRead {p : Pkg} (hp : p.Canonical) (n : Nat) (t : TreadReq) (e : EccErr) :
    (p.treadRead n t e).Canonical := by
  unfold Pkg.treadRead
  grind [Pkg.Canonical.onChip, Pkg.Canonical.hcAlloc, Pkg.Canonical.next, Pkg.Canonical.dramRead]

@[simp] theorem Pkg.Canonical.burst {p : Pkg} (hp : p.Canonical) (n : Nat) (t : TreadReq) (e : EccErr) :
    (p.burst n t e).Canonical := by
  unfold Pkg.burst
  grind [Pkg.Canonical.dramRead, Pkg.Canonical.treadRead]

@[simp] theorem Pkg.Canonical.tread {p : Pkg} (hp : p.Canonical) (n : Nat) (ready : List Nat) (e : EccErr) :
    (p.tread n ready e).Canonical := by
  unfold Pkg.tread
  grind [Pkg.Canonical.onChip, Pkg.Canonical.burst]

@[simp] theorem Pkg.Canonical.patrol {p : Pkg} (hp : p.Canonical) (n : Nat) (e : EccErr) :
    (p.patrol n e).Canonical := by
  unfold Pkg.patrol
  grind [Pkg.Canonical.onChip, Pkg.Canonical.dramRead]

@[simp] theorem Pkg.Canonical.chanReturnDone {p : Pkg} (hp : p.Canonical) (n : Nat) (ok : Bool) :
    (p.chanReturnDone n ok).Canonical := by
  unfold Pkg.chanReturnDone
  grind [Pkg.Canonical.onChip, Pkg.Canonical.channelIn]

@[simp] theorem Pkg.Canonical.walkWord {p : Pkg} (hp : p.Canonical) (rid world label pa : Nat) :
    (p.walkWord rid world label pa).1.Canonical := by
  unfold Pkg.walkWord
  grind [Pkg.Canonical.ioReadAs]

@[simp] theorem Pkg.Canonical.ioSetAd {p : Pkg} (hp : p.Canonical) (w : Walker) (pa pte : Nat) (wr hw : Bool) (a cause : Nat) :
    (p.ioSetAd w pa pte wr hw a cause).1.Canonical := by
  unfold Pkg.ioSetAd
  grind [Pkg.Canonical.writeBytes]

@[simp] theorem Pkg.Canonical.ioG {p : Pkg} (hp : p.Canonical) (w : Walker) (hw wr : Bool) (gpa n base : Nat) (k : Nat) :
    (p.ioG w hw wr gpa n base k).1.Canonical := by
  induction k generalizing p base with
  | zero => exact hp
  | succ lvl ih =>
    unfold Pkg.ioG
    grind [Pkg.Canonical.walkWord, Pkg.Canonical.ioSetAd]

@[simp] theorem Pkg.Canonical.ioGStage {p : Pkg} (hp : p.Canonical) (w : Walker) (gatp : Nat) (hw wr : Bool) (gpa : Nat) :
    (p.ioGStage w gatp hw wr gpa).1.Canonical := by
  unfold Pkg.ioGStage
  grind [Pkg.Canonical.ioG]

@[simp] theorem Pkg.Canonical.ioS {p : Pkg} (hp : p.Canonical) (w : Walker) (gatp : Nat) (hwS hwG wr : Bool) (va base : Nat) (k : Nat) :
    (p.ioS w gatp hwS hwG wr va base k).1.Canonical := by
  induction k generalizing p base with
  | zero => exact hp
  | succ lvl ih =>
    unfold Pkg.ioS
    grind [Pkg.Canonical.walkWord, Pkg.Canonical.ioSetAd, Pkg.Canonical.ioGStage]

@[simp] theorem Pkg.Canonical.ddtWalk {p : Pkg} (hp : p.Canonical) (w : Walker) (did base : Nat) (k : Nat) :
    (p.ddtWalk w did base k).1.Canonical := by
  induction k generalizing p base with
  | zero => exact hp
  | succ lvl ih =>
    unfold Pkg.ddtWalk
    grind [Pkg.Canonical.walkWord]

@[simp] theorem Pkg.Canonical.pdtWalk {p : Pkg} (hp : p.Canonical) (w : Walker) (gatp : Nat) (hwG : Bool) (pid base : Nat) (k : Nat) :
    (p.pdtWalk w gatp hwG pid base k).1.Canonical := by
  induction k generalizing p base with
  | zero => exact hp.ioGStage ..
  | succ lvl ih =>
    unfold Pkg.pdtWalk
    grind [Pkg.Canonical.walkWord, Pkg.Canonical.ioGStage]

@[simp] theorem Pkg.Canonical.ioStages {p0 : Pkg} (hp0 : p0.Canonical) (w : Walker) (tc gatp fsc iova : Nat) (wr : Bool) :
    (p0.ioStages w tc gatp fsc iova wr).1.Canonical := by
  unfold Pkg.ioStages
  grind [Pkg.Canonical.onChip, Pkg.Canonical.ioGStage, Pkg.Canonical.ioS]

@[simp] theorem Pkg.Canonical.ioUnder {p : Pkg} (hp : p.Canonical) (w : Walker) (dc iova : Nat) (wr : Bool) (k : IoKind) :
    (p.ioUnder w dc iova wr k).1.Canonical := by
  unfold Pkg.ioUnder
  grind (splits := 20) [Pkg.Canonical.onChip, Pkg.Canonical.readBytes, Pkg.Canonical.walkWord, Pkg.Canonical.pdtWalk,
    Pkg.Canonical.ioStages]

@[simp] theorem Pkg.Canonical.iommuFault {p : Pkg} (hp : p.Canonical) (n f cause ttyp iova : Nat) (pid : Option Nat) :
    (p.iommuFault n f cause ttyp iova pid).Canonical := by
  unfold Pkg.iommuFault
  grind [Pkg.Canonical.onChip, Pkg.Canonical.writeBytes]

@[simp] theorem Pkg.Canonical.ioTranslate {p : Pkg} (hp : p.Canonical) (n f iova : Nat) (wr : Bool) (k : IoKind) :
    (p.ioTranslate n f iova wr k).1.Canonical := by
  unfold Pkg.ioTranslate
  grind [Pkg.Canonical.onChip, Pkg.Canonical.ddtWalk, Pkg.Canonical.ioUnder]

@[simp] theorem Pkg.Canonical.iommu {p : Pkg} (hp : p.Canonical) (n f iova : Nat) (wr : Bool) (k : IoKind) :
    (p.iommu n f iova wr k).1.Canonical := by
  unfold Pkg.iommu
  grind [Pkg.Canonical.onChip, Pkg.Canonical.iommuFault, Pkg.Canonical.ioTranslate]

@[simp] theorem Pkg.Canonical.ioAts {p : Pkg} (hp : p.Canonical) (n f iova : Nat) (wr : Bool) (pid : Option Nat) :
    (p.ioAts n f iova wr pid).1.Canonical := by
  unfold Pkg.ioAts
  grind [Pkg.Canonical.onChip, Pkg.Canonical.iommuFault, Pkg.Canonical.ioTranslate]

@[simp] theorem Pkg.Canonical.iommuCommand {p : Pkg} (hp : p.Canonical) (n : Nat) :
    (p.iommuCommand n).Canonical := by
  unfold Pkg.iommuCommand
  grind [Pkg.Canonical.onChip, Pkg.Canonical.readBytes, Pkg.Canonical.writeBytes]

@[simp] theorem Pkg.Canonical.deviceMsi {p : Pkg} (hp : p.Canonical) (fn die core file id : Nat) :
    (p.deviceMsi fn die core file id).Canonical := by
  unfold Pkg.deviceMsi
  grind [Pkg.Canonical.onChip, Pkg.Canonical.iommuFault]

@[simp] theorem Pkg.Canonical.fnAccess {p : Pkg} (hp : p.Canonical) (n j f pa : Nat) (q : DevReq) :
    (p.fnAccess n j f pa q).Canonical := by
  unfold Pkg.fnAccess
  grind [Pkg.Canonical.onChip, Pkg.Canonical.ioRead, Pkg.Canonical.ioWrite, Pkg.Canonical.ioAtomic, Pkg.Canonical.deviceMsi]

@[simp] theorem Pkg.Canonical.fnRequest {p : Pkg} (hp : p.Canonical) (n j f iova : Nat) (q : DevReq) :
    (p.fnRequest n j f iova q).Canonical := by
  unfold Pkg.fnRequest
  grind [Pkg.Canonical.onChip, Pkg.Canonical.iommu, Pkg.Canonical.ioAts, Pkg.Canonical.fnAccess]

@[simp] theorem Pkg.Canonical.mediaBad {p : Pkg} (hp : p.Canonical) (n j addr : Nat) :
    (p.mediaBad n j addr).Canonical := by
  unfold Pkg.mediaBad
  split <;> simp [hp]

@[simp] theorem Pkg.Canonical.downstream {p : Pkg} (hp : p.Canonical) (n j rid addr : Nat) (q : DevReq) :
    (p.downstream n j rid addr q).Canonical := by
  unfold Pkg.downstream
  grind [Pkg.Canonical.onChip, Pkg.Canonical.fnRequest, Pkg.Canonical.mediaBad]

@[simp] theorem Pkg.Canonical.bar2 {p : Pkg} (hp : p.Canonical) (n f off : Nat) (q : DevReq) :
    (p.bar2 n f off q).Canonical := by
  unfold Pkg.bar2
  grind [Pkg.Canonical.onChip, Pkg.Canonical.fnRequest]

@[simp] theorem Pkg.Canonical.sourceAlone {p : Pkg} (hp : p.Canonical) :
    (p.sourceAlone).Canonical := by
  unfold Pkg.sourceAlone
  grind [Pkg.Canonical.onChip, Pkg.Canonical.markUnacked]

@[simp] theorem Pkg.Canonical.pairWatch {p : Pkg} (hp : p.Canonical) :
    (p.pairWatch).Canonical := by
  unfold Pkg.pairWatch
  grind [Pkg.Canonical.onChip, Pkg.Canonical.sourceAlone]

@[simp] theorem Pkg.Canonical.aliveEdge {p : Pkg} (hp : p.Canonical) :
    (p.aliveEdge).Canonical := by
  unfold Pkg.aliveEdge
  grind [Pkg.Canonical.onChip, Pkg.Canonical.pairWatch]

@[simp] theorem Pkg.Canonical.aliveTimeout {p : Pkg} (hp : p.Canonical) :
    (p.aliveTimeout).Canonical := by
  unfold Pkg.aliveTimeout
  grind [Pkg.Canonical.onChip, Pkg.Canonical.pairWatch]

@[simp] theorem Pkg.Canonical.heartbeat {p : Pkg} (hp : p.Canonical) (state : Nat) (source notReady : Bool) :
    (p.heartbeat state source notReady).Canonical := by
  unfold Pkg.heartbeat
  grind [Pkg.Canonical.onChip, Pkg.Canonical.pairWatch]

@[simp] theorem Pkg.Canonical.hbTimedOut {p : Pkg} (hp : p.Canonical) :
    (p.hbTimedOut).Canonical := by
  unfold Pkg.hbTimedOut
  grind [Pkg.Canonical.onChip, Pkg.Canonical.pairWatch]

@[simp] theorem Pkg.Canonical.partnerYields {p : Pkg} (hp : p.Canonical) :
    (p.partnerYields).Canonical := by
  unfold Pkg.partnerYields
  grind [Pkg.Canonical.onChip, Pkg.Canonical.pairWatch]

@[simp] theorem Pkg.Canonical.pairControl {p : Pkg} (hp : p.Canonical) (k : Nat) (u : Line) :
    (p.pairControl k u).Canonical := by
  unfold Pkg.pairControl
  grind [Pkg.Canonical.onChip, Pkg.Canonical.heartbeat, Pkg.Canonical.partnerYields]

@[simp] theorem Pkg.Canonical.bundle {p : Pkg} (hp : p.Canonical) (k : Nat) (atDie : Bool) (b : Bundle) :
    (p.bundle k atDie b).Canonical := by
  unfold Pkg.bundle
  grind [Pkg.Canonical.foldl, Pkg.Canonical.withChip, Pkg.Canonical.pairFailed, Pkg.Canonical.pairControl]

@[simp] theorem Pkg.Canonical.linkRetry {p : Pkg} (hp : p.Canonical) (trains : Nat) (peer : PairIdent) :
    (p.linkRetry trains peer).Canonical := by
  unfold Pkg.linkRetry
  grind [Pkg.Canonical.onChip, Pkg.Canonical.withChip, Pkg.Canonical.markUnacked]

@[simp] theorem Pkg.Canonical.pairLinkLost {p : Pkg} (hp : p.Canonical) (k : Nat) :
    (p.pairLinkLost k).Canonical := by
  unfold Pkg.pairLinkLost
  grind [Pkg.Canonical.onChip, Pkg.Canonical.markUnacked]

@[simp] theorem Pkg.Canonical.mirWr {p : Pkg} (hp : p.Canonical) (q n line seq : Nat) (poison : Bool) (v : Line) :
    (p.mirWr q n line seq poison v).Canonical := by
  unfold Pkg.mirWr
  grind [Pkg.Canonical.onChip, Pkg.Canonical.ioWrite]

@[simp] theorem Pkg.Canonical.mirArrive {p : Pkg} (hp : p.Canonical) (link n line seq : Nat) (poison copy : Bool) (v : Line) :
    (p.mirArrive link n line seq poison copy v).Canonical := by
  unfold Pkg.mirArrive
  grind [Pkg.Canonical.onChip, Pkg.Canonical.withChip, Pkg.Canonical.pairWatch, Pkg.Canonical.mirWr]

@[simp] theorem Pkg.Canonical.mirAck {p : Pkg} (hp : p.Canonical) (n seq : Nat) (refused : Bool) :
    (p.mirAck n seq refused).Canonical := by
  unfold Pkg.mirAck
  grind [Pkg.Canonical.onChip, Pkg.Canonical.markUnacked]

@[simp] theorem Pkg.Canonical.ackArrive {p : Pkg} (hp : p.Canonical) (n seq : Nat) (refused : Bool) :
    (p.ackArrive n seq refused).Canonical := by
  unfold Pkg.ackArrive
  grind [Pkg.Canonical.withChip, Pkg.Canonical.mirAck]

@[simp] theorem Pkg.Canonical.lagReached {p : Pkg} (hp : p.Canonical) (n : Nat) :
    (p.lagReached n).Canonical := by
  unfold Pkg.lagReached
  grind [Pkg.Canonical.onChip, Pkg.Canonical.foldl, Pkg.Canonical.setLagging]

@[simp] theorem Pkg.Canonical.resync {p : Pkg} (hp : p.Canonical) (n i : Nat) :
    (p.resync n i).Canonical := by
  unfold Pkg.resync
  grind [Pkg.Canonical.onChip, Pkg.Canonical.foldl, Pkg.Canonical.coherentFetch, Pkg.Canonical.setDirty]

@[simp] theorem Pkg.Canonical.startImage {p : Pkg} (hp : p.Canonical) (st : PkgStart) :
    (p.startImage st).Canonical := by
  unfold Pkg.startImage
  refine (hp.foldl _ fun q e hq => ?_).onChip _
  split
  · exact hq.putByte _ _
  · exact hq

@[simp] theorem Pkg.Canonical.startPackage {p : Pkg} (hp : p.Canonical) (st : PkgStart) :
    (p.startPackage st).Canonical := by
  unfold Pkg.startPackage
  extract_lets
  split
  · exact hp.withChip _ _
  · exact ((hp.withChip _ _).startImage st).onChip _

@[simp] theorem Pkg.Canonical.mainOn {p : Pkg} (hp : p.Canonical) (hot : Bool) (st : PkgStart) :
    (p.mainOn hot st).Canonical := by
  unfold Pkg.mainOn
  grind [Pkg.Canonical.onChip, Pkg.Canonical.dropDram, Pkg.Canonical.startPackage]

@[simp] theorem Pkg.Canonical.resetPackage {p : Pkg} (hp : p.Canonical) (st : PkgStart) :
    (p.resetPackage st).Canonical := by
  unfold Pkg.resetPackage
  grind [Pkg.Canonical.onChip, Pkg.Canonical.withChip, Pkg.Canonical.dropDram, Pkg.Canonical.startPackage, Pkg.Canonical.mainOn]

@[simp] theorem Pkg.Canonical.powerOffAll {p : Pkg} (hp : p.Canonical) :
    (p.powerOffAll).Canonical := by
  unfold Pkg.powerOffAll
  grind [Pkg.Canonical.onChip, Pkg.Canonical.dropDram]

@[simp] theorem Pkg.Canonical.uzCtlReset {p : Pkg} (hp : p.Canonical) (who : Who) (st : PkgStart) :
    (p.uzCtlReset who st).Canonical := by
  unfold Pkg.uzCtlReset
  grind [Pkg.Canonical.onChip, Pkg.Canonical.resetPackage]

@[simp] theorem Pkg.Canonical.startUp {p : Pkg} (hp : p.Canonical) (slotA slotB : Bool) (st : PkgStart) :
    (p.startUp slotA slotB st).Canonical := by
  unfold Pkg.startUp
  grind [Pkg.Canonical.withChip, Pkg.Canonical.dropDram, Pkg.Canonical.startPackage]

@[simp] theorem Pkg.Canonical.serve {p : Pkg} (hp : p.Canonical) (q : Manage) (st : PkgStart) :
    (p.serve q st).Canonical := by
  unfold Pkg.serve
  grind [Pkg.Canonical.onChip, Pkg.Canonical.mainOn, Pkg.Canonical.resetPackage, Pkg.Canonical.powerOffAll]

@[simp] theorem Pkg.Canonical.mbxAnswer {p : Pkg} (hp : p.Canonical) (i : Nat) :
    (p.mbxAnswer i).Canonical := by
  unfold Pkg.mbxAnswer
  grind [Pkg.Canonical.withChip, Pkg.Canonical.powerOffAll]

@[simp] theorem Pkg.Canonical.isolateSet {p : Pkg} (hp : p.Canonical) (n : Nat) (r : Report) :
    (p.isolateSet n r).Canonical := by
  unfold Pkg.isolateSet
  grind [Pkg.Canonical.onChip, Pkg.Canonical.wayDisable]

theorem Pkg.Canonical.isolate {p q : Pkg} (hp : p.Canonical) {r : Report} (hq : p.isolate r = some q) : q.Canonical := by
  unfold Pkg.isolate at hq
  grind [Option.map_eq_some_iff, Pkg.Canonical.onChip, Pkg.Canonical.withChip, Pkg.Canonical.next,
     Pkg.Canonical.isolateSet, Pkg.Canonical.pairLinkLost]

@[simp] theorem Pkg.Canonical.applySeverity {p : Pkg} (hp : p.Canonical) (r : Report) (sev : Nat) :
    (p.applySeverity r sev).Canonical := by
  unfold Pkg.applySeverity
  grind [Pkg.Canonical.onChip, Pkg.Canonical.isolate]

@[simp] theorem Pkg.Canonical.acceptReport {p : Pkg} (hp : p.Canonical) (r : Report) :
    (p.acceptReport r).Canonical := by
  unfold Pkg.acceptReport
  grind [Pkg.Canonical.onChip, Pkg.Canonical.applySeverity]

@[simp] theorem Pkg.Canonical.faultReport {p : Pkg} (hp : p.Canonical) (u : Nat) :
    (p.faultReport u).Canonical := by
  unfold Pkg.faultReport
  grind [Pkg.Canonical.onChip, Pkg.Canonical.acceptReport]

@[simp] theorem Pkg.Canonical.collectorParity {p : Pkg} (hp : p.Canonical) :
    (p.collectorParity).Canonical := by
  unfold Pkg.collectorParity
  grind [Pkg.Canonical.onChip, Pkg.Canonical.acceptReport]

@[simp] theorem Pkg.Canonical.deliver {p : Pkg} (hp : p.Canonical) (c k : Nat) :
    (p.deliver c k).Canonical := by
  unfold Pkg.deliver
  grind [Pkg.Canonical.onChip, Pkg.Canonical.writeBytes]

@[simp] theorem Pkg.Canonical.dbReturn {p : Pkg} (hp : p.Canonical) (who : Who) (c k : Nat) (v : Word) :
    (p.dbReturn who c k v).Canonical := by
  unfold Pkg.dbReturn
  grind [Pkg.Canonical.onChip, Pkg.Canonical.readBytes]

@[simp] theorem Pkg.Canonical.writeReg {p : Pkg} (hp : p.Canonical) (who : Who) (r : Reg) (v : Word) :
    (p.writeReg who r v).Canonical := by
  unfold Pkg.writeReg
  grind [Pkg.Canonical.onChip, Pkg.Canonical.mntCtlWrite, Pkg.Canonical.cacheCmd, Pkg.Canonical.potOpWrite, Pkg.Canonical.potQuery,
    Pkg.Canonical.dbReturn]

@[simp] theorem Pkg.Canonical.registerWrite {p : Pkg} (hp : p.Canonical) (who : Who) (off : Nat) (v : Word) :
    (p.registerWrite who off v).Canonical := by
  unfold Pkg.registerWrite
  grind [Pkg.Canonical.onChip, Pkg.Canonical.writeReg]

/-- The register write of a message, with what its offset selects as a variable: the kernel must not evaluate `regDecode`. -/
theorem Pkg.ioWriteReg_induction {P : Pkg → Prop} {p : Pkg} {m : Msg} (hdone : ∀ q, P q → P (q.onChip fun c => c.ioReply m 0))
    (hchip : ∀ f, P (p.onChip f)) (hp : P p) (hreport : ∀ r, P (p.acceptReport r)) (hreg : ∀ who r v, P (p.writeReg who r v)) :
    P (p.ioWriteReg m) := by
  suffices h : ∀ g, g = @Pkg.ioWriteReg → P (g p m) from h _ rfl
  intro g hg
  delta Pkg.ioWriteReg at hg
  rw [hg]
  beta_reduce
  extract_lets off v done width
  generalize regDecode off = sel
  split
  case h_1 | h_2 =>
    split
    · exact hdone _ hp
    · exact hchip _
  case h_3 => exact hdone _ (hchip _)
  case h_4 =>
    split
    · exact hdone _ (hchip _)
    · exact hchip _
  case h_5 =>
    split
    · split
      · exact hdone _ (hreport _)
      · exact hdone _ hp
    · exact hdone _ (hchip _)
  case h_6 =>
    split
    · exact hchip _
    · split
      · exact hchip _
      · exact hdone _ (hreg ..)

@[simp] theorem Pkg.Canonical.ioWriteReg {p : Pkg} (hp : p.Canonical) (m : Msg) :
    (p.ioWriteReg m).Canonical := by
  exact Pkg.ioWriteReg_induction (fun _ hq => hq.onChip _) (fun _ => hp.onChip _) hp hp.acceptReport hp.writeReg

@[simp] theorem Pkg.Canonical.regAccess {p : Pkg} (hp : p.Canonical) (m : Msg) :
    (p.regAccess m).Canonical := by
  unfold Pkg.regAccess
  extract_lets off d
  split
  · exact hp.onChip _
  · split
    · exact hp.onChip _
    · split
      · exact hp.ioWriteReg m
      · exact hp.onChip _

@[simp] theorem Pkg.Canonical.ioArrive {p : Pkg} (hp : p.Canonical) (m : Msg) :
    (p.ioArrive m).Canonical := by
  unfold Pkg.ioArrive
  grind [Pkg.Canonical.onChip, Pkg.Canonical.regAccess]

@[simp] theorem Eng.Canonical.freeBytes {x : Eng} (hx : x.Canonical) (n : Nat) :
    (x.freeBytes n).1.Canonical := by
  unfold Eng.freeBytes
  grind [Eng.Canonical.onChip]

@[simp] theorem Eng.Canonical.freeWord {x : Eng} (hx : x.Canonical) :
    (x.freeWord).1.Canonical := by
  unfold Eng.freeWord
  grind [Eng.Canonical.onChip]

@[simp] theorem Eng.Canonical.spot {x : Eng} (hx : x.Canonical) (o : Slot) (a : Nat) (wr : Bool) :
    (x.spot o a wr).1.Canonical := by
  unfold Eng.spot
  grind [Eng.Canonical.fail, Eng.canonical_mk, Eng.Canonical.mem, Pkg.Canonical.iommu]

@[simp] theorem Eng.Canonical.hostRead {x : Eng} (hx : x.Canonical) (n f cnt : Nat) :
    (x.hostRead n f cnt).1.Canonical := by
  unfold Eng.hostRead
  grind [Eng.Canonical.onChip, Eng.Canonical.fail, Eng.Canonical.freeBytes]

@[simp] theorem Eng.Canonical.hostWrite {x : Eng} (hx : x.Canonical) (n f : Nat) :
    (x.hostWrite n f).Canonical := by
  unfold Eng.hostWrite
  grind [Eng.Canonical.fail]

@[simp] theorem Eng.Canonical.window {x : Eng} (hx : x.Canonical) (who : Who) (pa acc : Nat) :
    (x.window who pa acc).Canonical := by
  unfold Eng.window
  grind [Eng.Canonical.onChip, Eng.Canonical.fail, Eng.canonical_mk, Eng.Canonical.mem]

@[simp] theorem Eng.Canonical.device {x : Eng} (hx : x.Canonical) (n j cnt : Nat) :
    (x.device n j cnt).1.Canonical := by
  unfold Eng.device
  grind [Eng.Canonical.onChip, Eng.Canonical.fail, Eng.Canonical.freeBytes]

@[simp] theorem Eng.Canonical.windowRead {x : Eng} (hx : x.Canonical) (who : Who) (pa cnt : Nat) :
    (x.windowRead who pa cnt).1.Canonical := by
  unfold Eng.windowRead
  grind [Eng.Canonical.fail, Eng.Canonical.window, Eng.Canonical.device]

@[simp] theorem Eng.Canonical.windowWrite {x : Eng} (hx : x.Canonical) (who : Who) (pa : Nat) (l : List Byte) :
    (x.windowWrite who pa l).Canonical := by
  unfold Eng.windowWrite
  grind [Eng.Canonical.onChip, Eng.Canonical.fail, Eng.Canonical.foldl, Eng.Canonical.window, Eng.Canonical.device]

@[simp] theorem Eng.Canonical.read1 {x : Eng} (hx : x.Canonical) (o : Slot) (a cnt : Nat) :
    (x.read1 o a cnt).1.Canonical := by
  unfold Eng.read1
  grind [Pkg.Canonical.onChip, Eng.Canonical.onChip, Eng.Canonical.fail, Eng.canonical_mk, Eng.Canonical.mem, Pkg.Canonical.ioRead,
    Eng.Canonical.spot, Eng.Canonical.hostRead, Eng.Canonical.windowRead]

@[simp] theorem Eng.Canonical.write1 {x : Eng} (hx : x.Canonical) (o : Slot) (a : Nat) (l : List Byte) :
    (x.write1 o a l).Canonical := by
  unfold Eng.write1
  grind [Eng.Canonical.onChip, Eng.Canonical.fail, Pkg.Canonical.foldl, Eng.canonical_mk, Eng.Canonical.mem, Pkg.Canonical.ioWrite,
    Pkg.Canonical.registerWrite, Eng.Canonical.spot, Eng.Canonical.hostWrite, Eng.Canonical.windowWrite]

@[simp] theorem Eng.Canonical.refusedAt {x : Eng} (hx : x.Canonical) (o : Slot) (t : Spot) (acc : Nat) :
    (x.refusedAt o t acc).Canonical := by
  unfold Eng.refusedAt
  grind [Eng.Canonical.onChip]

@[simp] theorem Eng.Canonical.atomic1 {x : Eng} (hx : x.Canonical) (o : Slot) (a code : Nat) (args : Nat × Nat) :
    (x.atomic1 o a code args).1.Canonical := by
  unfold Eng.atomic1
  grind [Pkg.Canonical.onChip, Eng.Canonical.fail, Eng.canonical_mk, Eng.Canonical.mem, Pkg.Canonical.ioAtomic, Eng.Canonical.spot,
    Eng.Canonical.refusedAt]

@[simp] theorem Eng.Canonical.read {x : Eng} (hx : x.Canonical) (o : Slot) (a n : Nat) :
    (x.read o a n).1.Canonical := by
  unfold Eng.read
  grind [Eng.Canonical.foldl_fst, Eng.Canonical.read1]

@[simp] theorem Eng.Canonical.write {x : Eng} (hx : x.Canonical) (o : Slot) (a : Nat) (l : List Byte) :
    (x.write o a l).Canonical := by
  unfold Eng.write
  grind [Eng.Canonical.foldl, Eng.Canonical.write1]

@[simp] theorem Eng.Canonical.readKey {x : Eng} (hx : x.Canonical) (o : Slot) (a n : Nat) :
    (x.readKey o a n).1.Canonical := by
  unfold Eng.readKey
  grind [Eng.Canonical.fail, Eng.Canonical.refusedAt, Eng.Canonical.read]

@[simp] theorem Pkg.Canonical.descFetch {p : Pkg} (hp : p.Canonical) (c k : Nat) :
    (p.descFetch c k).Canonical := by
  unfold Pkg.descFetch
  grind [Pkg.Canonical.onChip, Eng.start_canonical, Eng.Canonical.mem, Eng.Canonical.read]

@[simp] theorem Pkg.Canonical.runOp {p : Pkg} (hp : p.Canonical) (c k j op : Nat) {body : Slot → Flight → Eng → Done}
    (hbody : ∀ o f x, x.Canonical → (body o f x).Canonical) : (p.runOp c k j op body).Canonical := by
  unfold Pkg.runOp
  grind [Pkg.Canonical.onChip, Eng.canonical_mk, Eng.Canonical.mem, Eng.start_canonical, Done.Canonical.eng]

@[simp] theorem Eng.Canonical.resultOr {x : Eng} (hx : x.Canonical) (st : Nat) (v : Word) :
    (x.resultOr st v).Canonical := by
  unfold Eng.resultOr
  split
  · exact hx.freeWord
  · exact hx

@[simp] theorem opCopy_canonical {x : Eng} (hx : x.Canonical) (o : Slot) (f : Flight) :
    (opCopy o f x).Canonical := by
  unfold opCopy
  grind [Done.canonical_mk, Eng.Canonical.read, Eng.Canonical.write]

@[simp] theorem opFill_canonical {x : Eng} (hx : x.Canonical) (o : Slot) (f : Flight) :
    (opFill o f x).Canonical := by
  unfold opFill
  grind [Done.canonical_mk, Eng.Canonical.write]

@[simp] theorem opCompare_canonical {x : Eng} (hx : x.Canonical) (o : Slot) (f : Flight) :
    (opCompare o f x).Canonical := by
  unfold opCompare
  grind [Eng.Canonical.read, Eng.Canonical.resultOr]

@[simp] theorem opAtomic_canonical {x : Eng} (hx : x.Canonical) (o : Slot) (f : Flight) :
    (opAtomic o f x).Canonical := by
  unfold opAtomic
  grind [Done.canonical_mk, Eng.Canonical.atomic1, Eng.Canonical.write]

@[simp] theorem Eng.Canonical.plainRows {x : Eng} (hx : x.Canonical) (o : Slot) (f : Flight) (n : Nat) :
    (x.plainRows o f n).1.Canonical := by
  unfold Eng.plainRows
  grind [Eng.Canonical.foldl_fst, Eng.Canonical.read]

@[simp] theorem Done.Canonical.packRec {d : Done} (hd : d.Canonical) (o : Slot) (f : Flight) (n : Nat) :
    (d.packRec o f n).Canonical := by
  unfold Done.packRec
  split
  · exact hd
  · extract_lets y
    have hy : y.1.Canonical := hd.eng.plainRows o f n
    split
    · exact hy
    · exact hy.write ..

@[simp] theorem opPack_canonical {x : Eng} (hx : x.Canonical) (o : Slot) (f : Flight) :
    (opPack o f x).Canonical := by
  unfold opPack
  grind [Done.Canonical.foldl, Done.canonical_mk, Done.Canonical.packRec]

@[simp] theorem Eng.Canonical.putRows {x : Eng} (hx : x.Canonical) (o : Slot) (f : Flight) (n : Nat) (r : List Byte) :
    (x.putRows o f n r).Canonical := by
  unfold Eng.putRows
  grind [Eng.Canonical.foldl, Eng.Canonical.write]

/-- The verification of one record keeps memory in canonical form. -/
theorem Tally.step_canonical {t : Tally} (ht : t.x.Canonical) (o : Slot) (f : Flight) (rows : Bool) (n : Nat) :
    (t.step o f rows n).x.Canonical := by
  unfold Tally.step
  grind [Eng.canonical_mk, Eng.Canonical.mem, Eng.Canonical.onChip, Eng.Canonical.read, Eng.Canonical.putRows]

@[simp] theorem opVerifyWith_canonical {x : Eng} (hx : x.Canonical) (rows : Bool) (o : Slot) (f : Flight) :
    (opVerifyWith rows o f x).Canonical := by
  unfold opVerifyWith
  exact foldl_keeps (P := fun t : Tally => t.x.Canonical) (fun t n ht => Tally.step_canonical ht o f rows n) _ hx

@[simp] theorem opUnpack_canonical {x : Eng} (hx : x.Canonical) (o : Slot) (f : Flight) :
    (opUnpack o f x).Canonical := by
  unfold opUnpack
  grind [opVerifyWith_canonical]

@[simp] theorem opVerify_canonical {x : Eng} (hx : x.Canonical) (o : Slot) (f : Flight) :
    (opVerify o f x).Canonical := by
  unfold opVerify
  grind [opVerifyWith_canonical]

@[simp] theorem Eng.Canonical.gcmInputs {x : Eng} (hx : x.Canonical) (o : Slot) (f : Flight) (n : Nat) :
    (x.gcmInputs o f n).1.Canonical := by
  unfold Eng.gcmInputs
  grind [Eng.Canonical.read, Eng.Canonical.readKey]

@[simp] theorem opGcmEnc_canonical {x : Eng} (hx : x.Canonical) (o : Slot) (f : Flight) :
    (opGcmEnc o f x).Canonical := by
  unfold opGcmEnc
  grind [Done.canonical_mk, Eng.Canonical.write, Eng.Canonical.gcmInputs]

@[simp] theorem opGcmDec_canonical {x : Eng} (hx : x.Canonical) (o : Slot) (f : Flight) :
    (opGcmDec o f x).Canonical := by
  unfold opGcmDec
  grind [Done.canonical_mk, Eng.Canonical.write, Eng.Canonical.gcmInputs]

@[simp] theorem opXts_canonical {x : Eng} (hx : x.Canonical) (dec : Bool) (o : Slot) (f : Flight) :
    (opXts dec o f x).Canonical := by
  unfold opXts
  grind [Done.canonical_mk, Eng.Canonical.read, Eng.Canonical.write, Eng.Canonical.readKey]

@[simp] theorem opXtsEnc_canonical {x : Eng} (hx : x.Canonical) (o : Slot) (f : Flight) :
    (opXtsEnc o f x).Canonical := by
  unfold opXtsEnc
  grind [opXts_canonical]

@[simp] theorem opXtsDec_canonical {x : Eng} (hx : x.Canonical) (o : Slot) (f : Flight) :
    (opXtsDec o f x).Canonical := by
  unfold opXtsDec
  grind [opXts_canonical]

@[simp] theorem opHash_canonical {x : Eng} (hx : x.Canonical) (o : Slot) (f : Flight) :
    (opHash o f x).Canonical := by
  unfold opHash
  grind [Eng.Canonical.read, Eng.Canonical.write, Eng.Canonical.resultOr]

@[simp] theorem Eng.Canonical.coderStops {x : Eng} (hx : x.Canonical) (o : Slot) (f : Flight) (st : Nat) :
    (x.coderStops o f st).Canonical := by
  unfold Eng.coderStops
  grind [Eng.Canonical.write, Eng.Canonical.resultOr]

@[simp] theorem Eng.Canonical.putOut {x : Eng} (hx : x.Canonical) (o : Slot) (f : Flight) (out : List Nat) :
    (x.putOut o f out).Canonical := by
  unfold Eng.putOut
  grind [Eng.Canonical.write, Eng.Canonical.resultOr, Eng.Canonical.coderStops]

@[simp] theorem opCompress_canonical {x : Eng} (hx : x.Canonical) (lz4 : Bool) (o : Slot) (f : Flight) :
    (opCompress lz4 o f x).Canonical := by
  unfold opCompress
  grind [Eng.Canonical.freeWord, Eng.Canonical.read, Eng.Canonical.putOut]

@[simp] theorem opExpand_canonical {x : Eng} (hx : x.Canonical) (run : List Nat → Option (List Nat × Bool)) (o : Slot) (f : Flight) :
    (opExpand run o f x).Canonical := by
  unfold opExpand
  grind [Eng.Canonical.freeWord, Eng.Canonical.read, Eng.Canonical.resultOr, Eng.Canonical.coderStops, Eng.Canonical.putOut]

@[simp] theorem opDeflateC_canonical {x : Eng} (hx : x.Canonical) (o : Slot) (f : Flight) :
    (opDeflateC o f x).Canonical := by
  unfold opDeflateC
  grind [opCompress_canonical]

@[simp] theorem opDeflateD_canonical {x : Eng} (hx : x.Canonical) (o : Slot) (f : Flight) :
    (opDeflateD o f x).Canonical := by
  unfold opDeflateD
  grind [opExpand_canonical]

@[simp] theorem opLz4fC_canonical {x : Eng} (hx : x.Canonical) (o : Slot) (f : Flight) :
    (opLz4fC o f x).Canonical := by
  unfold opLz4fC
  grind [opCompress_canonical]

@[simp] theorem opLz4fD_canonical {x : Eng} (hx : x.Canonical) (o : Slot) (f : Flight) :
    (opLz4fD o f x).Canonical := by
  unfold opLz4fD
  grind [opExpand_canonical]

@[simp] theorem Pkg.Canonical.spoilLine {p : Pkg} (hp : p.Canonical) (o : Slot) (pa : Nat) (w : Word) :
    (p.spoilLine o pa w).Canonical := by
  unfold Pkg.spoilLine
  grind [Pkg.Canonical.onChip, Pkg.Canonical.homeWrite, Pkg.Canonical.worldCheck]

@[simp] theorem Pkg.Canonical.spoil {p : Pkg} (hp : p.Canonical) (o : Slot) (f : Flight) :
    (p.spoil o f).Canonical := by
  unfold Pkg.spoil
  grind [Eng.start_canonical, Pkg.Canonical.foldl, Eng.Canonical.mem, Eng.Canonical.spot, Pkg.Canonical.spoilLine]

@[simp] theorem Pkg.Canonical.complete1 {p : Pkg} (hp : p.Canonical) (c k : Nat) :
    (p.complete1 c k).Canonical := by
  unfold Pkg.complete1
  grind [Pkg.Canonical.onChip, Eng.Canonical.fail, Eng.start_canonical, Eng.Canonical.mem, Eng.Canonical.write, Pkg.Canonical.spoil]

@[simp] theorem Pkg.Canonical.drainExpired {p : Pkg} (hp : p.Canonical) (c k : Nat) :
    (p.drainExpired c k).Canonical := by
  unfold Pkg.drainExpired
  grind [Pkg.Canonical.onChip, Pkg.Canonical.foldl, Pkg.Canonical.spoil]

end Sys2Proof.Machine
end

section
/-! Every step keeps memory in canonical form: the command at the front of the queue does, by the lemma of the operation that it performs,
and a tick changes the chip alone. -/

namespace Sys2Proof.Machine

/-- Every command keeps memory in canonical form. -/
theorem exec_keeps_canonical (i : Instr) (s : State) :
    ∃ p : Pkg, exec i s = need i.wellFormed (.next { s with toPkg := p }) ∧ (s.toPkg.Canonical → p.Canonical) := by
  cases i <;> refine ⟨_, rfl, fun hp => ?_⟩
  case ndmreset | mainPowerOnRetry => simp only; split <;> simp [hp]
  case wbData | wchk => exact hp.ifArrives _ (by grind [Pkg.Canonical.onChip, Pkg.Canonical.arrive, Pkg.Canonical.wchk])
  case copy | fill | compare | atomic | pack | unpack | verify | gcmEnc | gcmDec | xtsEnc | xtsDec | hash | deflateC | deflateD | lz4fC | lz4fD =>
    exact hp.runOp _ _ _ _ fun o f x hx => by simp [hx]
  all_goals simp [hp]

/-- Settles O5: a tick changes no byte of memory, and every command keeps the canonical form. -/
theorem stepKeepsMemoryCanonical : Obligations.StepKeepsMemoryCanonical := by
  unfold Obligations.StepKeepsMemoryCanonical
  intro s t hs h
  unfold step at h
  split at h
  case h_1 =>
    rw [State.onChip_eq_next] at h
    exact h ▸ hs
  case h_2 i rest _ =>
    obtain ⟨p, hexec, hkeeps⟩ := exec_keeps_canonical i { s with pending := rest }
    obtain ⟨-, ht⟩ := need_eq_next.mp (hexec.symm.trans h)
    injection ht with ht
    exact ht ▸ hkeeps hs

end Sys2Proof.Machine
end

section
/-! Tile records (R112, R123 to R126): bytes give their number back, equal blocks give each block back, and so a record gives back what it
was formed of and passes its checks. -/

namespace Sys2Proof.Machine

-- bytes of a number

@[simp] theorem length_toBytes (n v : Nat) : (toBytes n v).length = n := by simp [toBytes]

theorem toBytes_succ (n v : Nat) : toBytes (n + 1) v = BitVec.ofNat 8 v :: toBytes n (v / 256) := by
  simp only [toBytes, List.range_succ_eq_map, List.map_cons, List.map_map]
  refine congrArg₂ _ (by simp) (List.map_congr_left fun i _ => ?_)
  simp only [Function.comp_apply]
  rw [show 2 ^ (8 * (i + 1)) = 256 * 2 ^ (8 * i) by rw [Nat.mul_add, Nat.pow_add]; omega, Nat.div_div_eq_div_mul]

/-- n bytes of a number spell it, reduced to n bytes. -/
theorem ofBytes_toBytes (n v : Nat) : ofBytes (toBytes n v) = v % 2 ^ (8 * n) := by
  induction n generalizing v with
  | zero => simp [toBytes, ofBytes, Nat.mod_one]
  | succ n ih =>
    rw [toBytes_succ, ofBytes, ih, BitVec.toNat_ofNat, Nat.mul_add, Nat.pow_add, Nat.mul_comm (2 ^ (8 * n)), Nat.mod_mul]

theorem ofBytes_toBytes_of_lt {n v : Nat} (h : v < 2 ^ (8 * n)) : ofBytes (toBytes n v) = v := by
  rw [ofBytes_toBytes, Nat.mod_eq_of_lt h]

-- blocks of one length

theorem length_flatMap_range {α : Type} {f : Nat → List α} {m : Nat} (hf : ∀ i, (f i).length = m) (n : Nat) :
    ((List.range n).flatMap f).length = m * n := by
  simp [List.length_flatMap, hf, Nat.mul_comm]

/-- Of n blocks of m elements, those from place m k on begin with block k. -/
theorem take_drop_flatMap_range {α : Type} {f : Nat → List α} {m : Nat} (hf : ∀ i, (f i).length = m) {n k : Nat} (hk : k < n) :
    (((List.range n).flatMap f).drop (m * k)).take m = f k := by
  obtain ⟨d, rfl⟩ := Nat.exists_eq_add_of_lt hk
  have hsplit : (List.range (k + d + 1)).flatMap f = (List.range k).flatMap f ++ (f k ++ (List.range d).flatMap (fun i => f (k + 1 + i))) := by
    rw [show k + d + 1 = k + 1 + d by omega, List.range_add, List.range_succ]
    simp [List.flatMap_map]
  rw [hsplit, List.drop_left' (length_flatMap_range hf k), List.take_left' (hf k)]

-- rows

theorem length_packRow (el : Nat → Nat) : (packRow el).length = 48 :=
  length_flatMap_range (fun _ => length_toBytes 3 _) 16

/-- A packed row gives its elements back (R95). -/
theorem unpackEl_packRow (el : Nat → Nat) {j : Nat} (hj : j < 32) : unpackEl (packRow el) j = el j % 4096 := by
  have hblock : ((packRow el).drop (3 * (j / 2))).take 3 = toBytes 3 (el (2 * (j / 2)) % 4096 + el (2 * (j / 2) + 1) % 4096 * 4096) :=
    take_drop_flatMap_range (fun _ => length_toBytes 3 _) (show j / 2 < 16 by omega)
  rw [unpackEl, Nat.mul_comm (j / 2) 3, hblock, ofBytes_toBytes_of_lt (by omega)]
  rcases Nat.mod_two_eq_zero_or_one j with h | h
  · rw [h, show 2 * (j / 2) = j by omega]; omega
  · rw [h, show 2 * (j / 2) + 1 = j by omega]; omega

-- the CRC

theorem crc32cByte_lt {crc : Nat} (h : crc < 2 ^ 32) (b : Byte) : crc32cByte crc b < 2 ^ 32 := by
  refine forUpTo_inv (· < 2 ^ 32) _ _ _ (Nat.xor_lt_two_pow h (by omega)) fun _ c hc => ?_
  split
  · exact Nat.xor_lt_two_pow (by omega) (by decide)
  · omega

/-- A CRC-32C fits four bytes. -/
theorem crc32c_lt (l : List Byte) : crc32c l < 2 ^ 32 := by
  refine Nat.xor_lt_two_pow ?_ (by decide)
  exact List.foldlRecOn (motive := (· < 2 ^ 32)) l crc32cByte (by decide : 0xFFFFFFFF < 2 ^ 32) fun _ h b _ => crc32cByte_lt h b

-- the record

/-- The data rows of a record. -/
def recRowsOf (el : Nat → Nat → Nat) : List Byte := (List.range 32).flatMap (fun i => packRow (el i))

theorem length_recRowsOf (el : Nat → Nat → Nat) : (recRowsOf el).length = 1536 :=
  length_flatMap_range (fun i => length_packRow (el i)) 32

theorem mkRecord_eq (cfg tag : Nat) (el : Nat → Nat → Nat) :
    mkRecord cfg tag el = toBytes 4 (crc32c (toBytes 4 cfg ++ toBytes 8 tag ++ recRowsOf el)) ++ (toBytes 4 cfg ++ (toBytes 8 tag ++
      (toBytes 48 0 ++ recRowsOf el))) := by
  simp [mkRecord, recRowsOf]

section
variable (cfg tag : Nat) (el : Nat → Nat → Nat)

theorem length_mkRecord : (mkRecord cfg tag el).length = 1600 := by simp [mkRecord_eq, length_recRowsOf]

theorem mkRecord_take_crc : (mkRecord cfg tag el).take 4 = toBytes 4 (crc32c (toBytes 4 cfg ++ toBytes 8 tag ++ recRowsOf el)) := by
  rw [mkRecord_eq, List.take_left' (length_toBytes 4 _)]

theorem mkRecord_drop_crc : (mkRecord cfg tag el).drop 4 = toBytes 4 cfg ++ (toBytes 8 tag ++ (toBytes 48 0 ++ recRowsOf el)) := by
  rw [mkRecord_eq, List.drop_left' (length_toBytes 4 _)]

theorem mkRecord_drop_cfg : (mkRecord cfg tag el).drop 8 = toBytes 8 tag ++ (toBytes 48 0 ++ recRowsOf el) := by
  rw [show 8 = 4 + 4 from rfl, ← List.drop_drop, mkRecord_drop_crc, List.drop_left' (length_toBytes 4 _)]

theorem mkRecord_drop_tag : (mkRecord cfg tag el).drop 16 = toBytes 48 0 ++ recRowsOf el := by
  rw [show 16 = 8 + 8 from rfl, ← List.drop_drop, mkRecord_drop_cfg, List.drop_left' (length_toBytes 8 _)]

theorem mkRecord_drop_header : (mkRecord cfg tag el).drop 64 = recRowsOf el := by
  rw [show 64 = 16 + 48 from rfl, ← List.drop_drop, mkRecord_drop_tag, List.drop_left' (length_toBytes 48 _)]

/-- The stream that the CRC covers is the one it was formed of (R124). -/
theorem recStream_mkRecord : recStream (mkRecord cfg tag el) = toBytes 4 cfg ++ toBytes 8 tag ++ recRowsOf el := by
  rw [recStream, mkRecord_drop_header, mkRecord_drop_crc, ← List.append_assoc, List.take_left' (by simp)]

theorem recEl_mkRecord {i j : Nat} (hi : i < 32) (hj : j < 32) : recEl (mkRecord cfg tag el) i j = el i j % 4096 := by
  rw [recEl, ← List.drop_drop, mkRecord_drop_header, recRowsOf, take_drop_flatMap_range (fun i => length_packRow (el i)) hi,
    unpackEl_packRow _ hj]

variable {cfg tag}

theorem recCfg_mkRecord (h : cfg < 2 ^ 32) : recCfg (mkRecord cfg tag el) = cfg := by
  rw [recCfg, mkRecord_drop_crc, List.take_left' (length_toBytes 4 _), ofBytes_toBytes_of_lt h]

theorem recTag_mkRecord (h : tag < 2 ^ 64) : ofBytes (((mkRecord cfg tag el).drop 8).take 8) = tag := by
  rw [mkRecord_drop_cfg, List.take_left' (length_toBytes 8 _), ofBytes_toBytes_of_lt h]

theorem recHeaderOk_mkRecord (hcfg : cfgOk false cfg = true) (hkind : cfgKind cfg ≠ 0) (h : cfg < 2 ^ 32) :
    recHeaderOk (mkRecord cfg tag el) = true := by
  have hzero : (((mkRecord cfg tag el).drop 16).take 48).all (· == 0) = true := by
    rw [mkRecord_drop_tag, List.take_left' (length_toBytes 48 _)]
    simp [toBytes]
  simp only [recHeaderOk, recCfg_mkRecord el h, hcfg, hzero, Bool.and_true, bne_iff_ne]
  exact hkind

/-- Of the checks of R126 a record of a valid word can fail one alone: that of its tag. -/
theorem recFails_mkRecord (hcfg : cfgOk false cfg = true) (hkind : cfgKind cfg ≠ 0) (h : cfg < 2 ^ 32) (htag : tag < 2 ^ 64) (t : Nat) :
    recFails (mkRecord cfg tag el) t = if tag ≠ t then [2] else [] := by
  rw [recFails, recStream_mkRecord, mkRecord_take_crc, ofBytes_toBytes_of_lt (crc32c_lt _), recHeaderOk_mkRecord el hcfg hkind h,
    recTag_mkRecord el htag]
  simp

end

theorem lt_of_cfgOk {acc : Bool} {v : Nat} (h : cfgOk acc v = true) : v < 2 ^ 26 := by
  simp only [cfgOk, Bool.and_eq_true, decide_eq_true_eq] at h
  obtain ⟨⟨⟨hv, -⟩, -⟩, -⟩ := h
  exact hv

/-- Settles O23: each part of a record stands where its check and its reader look for it. -/
theorem recordRoundTrip : Obligations.RecordRoundTrip := by
  unfold Obligations.RecordRoundTrip
  intro cfg tag el hcfg hkind htag hel r
  have hlt : cfg < 2 ^ 32 := (lt_of_cfgOk hcfg).trans (by decide)
  refine ⟨length_mkRecord .., ?_, recCfg_mkRecord el hlt, fun i j hi hj => ?_, fun t _ ht => ?_⟩
  · rw [recFails_mkRecord el hcfg hkind hlt htag, if_neg (not_not.mpr rfl)]
  · rw [recEl_mkRecord cfg tag el hi hj, Nat.mod_eq_of_lt (hel i j)]
  · rw [recFails_mkRecord el hcfg hkind hlt htag, if_pos ht.symm]

end Sys2Proof.Machine
end

section
/-! GCM (R382): AES makes blocks of 16 bytes, and the counter stream applied twice gives the data back. -/

namespace Sys2Proof.Machine

-- pieces of a list

@[simp] theorem chunks_nil (n fuel : Nat) : chunks n fuel [] = [] := by cases fuel <;> rfl

theorem chunks_succ (n fuel : Nat) {l : List Nat} (h : l ≠ []) :
    chunks n (fuel + 1) l = l.take n :: chunks n fuel (l.drop n) := by
  simp [chunks, h]

/-- A list of n pieces of m is cut into n pieces of m. -/
theorem chunks_exact {m : Nat} (hm : 0 < m) (n : Nat) (l : List Nat) (h : l.length = m * n) :
    (chunks m n l).length = n ∧ ∀ p ∈ chunks m n l, p.length = m := by
  induction n generalizing l with
  | zero => simp [chunks]
  | succ n ih =>
    have hl : m ≤ l.length := by rw [h]; exact Nat.le_mul_of_pos_right m (by omega)
    have hne : l ≠ [] := by rintro rfl; simp at hl; omega
    obtain ⟨hlen, hall⟩ := ih (l.drop m) (by rw [List.length_drop, h, Nat.mul_succ]; omega)
    rw [chunks_succ _ _ hne]
    simpa [hlen, hl] using hall

-- AES

@[simp] theorem length_xorL (a b : List Nat) : (xorL a b).length = min a.length b.length := by simp [xorL]

/-- What is masked twice with one stream stands again. -/
theorem xorL_xorL_self : ∀ {a k : List Nat}, a.length ≤ k.length → xorL (xorL a k) k = a
  | [], _, _ => by simp [xorL]
  | _ :: _, [], h => by simp at h
  | x :: a, y :: k, h => by
    have ih := xorL_xorL_self (a := a) (k := k) (by simpa using h)
    simp only [xorL, List.zipWith_cons_cons, Nat.xor_assoc, Nat.xor_self, Nat.xor_zero, List.cons.injEq, true_and] at ih ⊢
    exact ih

theorem length_aesNextWord {nk i : Nat} {ws : List (List Nat)} (hnk : 0 < nk) (hws : nk ≤ ws.length) (h4 : ∀ w ∈ ws, w.length = 4) :
    (aesNextWord nk i ws).length = 4 := by
  have hprev : (ws.headD []).length = 4 := by
    cases ws with
    | nil => simp at hws; omega
    | cons w ws => exact h4 w (by simp)
  have hback : (ws.getD (nk - 1) []).length = 4 := by
    rw [List.getD_eq_getElem _ _ (by omega)]
    exact h4 _ (List.getElem_mem _)
  unfold aesNextWord
  generalize ws.headD [] = prev at hprev ⊢
  rw [length_xorL, hback]
  split_ifs
  · simp only [length_xorL, List.length_map, List.length_append, List.length_drop, List.length_take, List.length_cons, List.length_nil]
    omega
  · simp [hprev]
  · simp [hprev]

/-- The column words of the key schedule after n steps, latest first. -/
def aesWords (nk : Nat) (key : List Nat) (n : Nat) : List (List Nat) :=
  forUpTo n (fun i ws => aesNextWord nk (nk + i) ws :: ws) (chunks 4 nk key).reverse

theorem aesKeys_eq {key : List Nat} {nk : Nat} (hkey : key.length = 4 * nk) :
    aesKeys key = chunks 16 (nk + 7) (aesWords nk key (4 * (nk + 7) - nk)).reverse.flatten := by
  rw [aesKeys, show key.length / 4 = nk by omega]
  rfl

theorem aesWords_lengths {key : List Nat} {nk : Nat} (hnk : 0 < nk) (hkey : key.length = 4 * nk) (n : Nat) :
    (aesWords nk key n).length = nk + n ∧ ∀ w ∈ aesWords nk key n, w.length = 4 := by
  induction n with
  | zero => simpa [aesWords, forUpTo] using chunks_exact (by decide) nk key hkey
  | succ n ih =>
    obtain ⟨ihlen, ihall⟩ := ih
    rw [aesWords, forUpTo_succ, ← aesWords]
    have hnew := length_aesNextWord (i := nk + n) hnk (by omega) ihall
    exact ⟨by simp [ihlen]; omega, by simpa using ⟨hnew, ihall⟩⟩

/-- The key schedule of a key of whole words: nk + 7 round keys of 16 bytes. -/
theorem aesKeys_lengths {key : List Nat} {nk : Nat} (hnk : 0 < nk) (hkey : key.length = 4 * nk) :
    (aesKeys key).length = nk + 7 ∧ ∀ k ∈ aesKeys key, k.length = 16 := by
  obtain ⟨hn, h4⟩ := aesWords_lengths hnk hkey (4 * (nk + 7) - nk)
  have hlens : (aesWords nk key (4 * (nk + 7) - nk)).reverse.map List.length = List.replicate (4 * (nk + 7)) 4 := by
    refine List.eq_replicate_iff.mpr ⟨by rw [List.length_map, List.length_reverse, hn]; omega, ?_⟩
    simp only [List.mem_map, List.mem_reverse, forall_exists_index, and_imp]
    rintro _ w hw rfl
    exact h4 w hw
  rw [aesKeys_eq hkey]
  refine chunks_exact (by decide) _ _ ?_
  rw [List.length_flatten, hlens, List.sum_replicate, smul_eq_mul]
  omega

/-- AES makes 16 bytes of 16, under at least two round keys of 16. -/
theorem length_aesEnc {rk : List (List Nat)} {b : List Nat} (hrk : 2 ≤ rk.length) (h16 : ∀ k ∈ rk, k.length = 16) :
    (aesEnc rk b).length = 16 := by
  match rk, hrk with
  | k0 :: k1 :: rest, _ =>
    have hlast : ((k1 :: rest).getLastD []).length = 16 := by
      rw [List.getLastD_cons, ← List.getLast_eq_getLastD (a := k1) (l := rest) (by simp)]
      exact h16 _ (List.mem_cons_of_mem _ (List.getLast_mem _))
    rw [aesEnc, length_xorL, hlast]
    simp [aesShift]

-- the counter stream

/-- The counter stream from block j on, of a key-stream function. -/
def ctrFrom (f : Nat → List Nat) (j fuel : Nat) (l : List Nat) : List Nat :=
  (((chunks 16 fuel l).zipIdx j).map (fun p => xorL p.1 (f p.2))).flatten

theorem gcmCtr_eq (rk : List (List Nat)) (iv l : List Nat) :
    gcmCtr rk iv l = ctrFrom (fun j => aesEnc rk (iv ++ beBytes 4 (2 + j))) 0 l.length l := rfl

@[simp] theorem ctrFrom_nil (f : Nat → List Nat) (j fuel : Nat) : ctrFrom f j fuel [] = [] := by simp [ctrFrom]

theorem ctrFrom_succ (f : Nat → List Nat) (j fuel : Nat) {l : List Nat} (h : l ≠ []) :
    ctrFrom f j (fuel + 1) l = xorL (l.take 16) (f j) ++ ctrFrom f (j + 1) fuel (l.drop 16) := by
  simp [ctrFrom, chunks_succ 16 fuel h]

section
variable {f : Nat → List Nat} (hf : ∀ j, (f j).length = 16)
include hf

theorem length_ctrFrom (j fuel : Nat) (l : List Nat) (h : l.length ≤ fuel) : (ctrFrom f j fuel l).length = l.length := by
  induction fuel generalizing j l with
  | zero => simp [List.length_eq_zero_iff.mp (Nat.le_zero.mp h)]
  | succ fuel ih =>
    rcases eq_or_ne l [] with rfl | hl
    · simp
    rw [ctrFrom_succ _ _ _ hl, List.length_append, ih _ _ (by simp; omega)]
    simp [hf]
    omega

/-- The counter stream applied twice gives the data back. -/
theorem ctrFrom_ctrFrom (j fuel : Nat) (l : List Nat) (h : l.length ≤ fuel) : ctrFrom f j fuel (ctrFrom f j fuel l) = l := by
  induction fuel generalizing j l with
  | zero => simp [List.length_eq_zero_iff.mp (Nat.le_zero.mp h)]
  | succ fuel ih =>
    rcases eq_or_ne l [] with rfl | hl
    · simp
    have hpos := List.length_pos_iff.mpr hl
    have hrest := length_ctrFrom hf (j + 1) fuel (l.drop 16) (by simp; omega)
    have hhead : (xorL (l.take 16) (f j)).length = min 16 l.length := by simp [hf]
    have htwo : ∀ a r : List Nat, a ≠ [] → a.length ≤ 16 → (a.length < 16 → r = []) →
        ctrFrom f j (fuel + 1) (a ++ r) = xorL a (f j) ++ ctrFrom f (j + 1) fuel r := by
      intro a r hne ha hr
      rw [ctrFrom_succ _ _ _ (by simp [hne])]
      rcases Nat.lt_or_ge a.length 16 with hlt | hge
      · rw [hr hlt, List.append_nil, List.take_of_length_le ha, List.drop_eq_nil_of_le ha]
      · rw [List.take_left' (by omega), List.drop_left' (by omega)]
    rw [ctrFrom_succ _ _ _ hl, htwo _ _ (List.ne_nil_of_length_pos (by omega)) (by omega)
      (fun hlt => List.length_eq_zero_iff.mp (by rw [hrest, List.length_drop]; omega)),
      ih _ _ (by simp; omega), xorL_xorL_self (by simp [hf]), List.take_append_drop]

end

/-- GCM_DEC of what GCM_ENC seals gives the plaintext back, under a key of whole words. -/
theorem gcmOpen_gcmSeal {key : List Nat} {nk : Nat} (hnk : 0 < nk) (hkey : key.length = 4 * nk) (iv aad pt : List Nat) :
    gcmOpen key iv aad (gcmSeal key iv aad pt).1 (gcmSeal key iv aad pt).2 = some pt := by
  obtain ⟨hlen, h16⟩ := aesKeys_lengths hnk hkey
  have hf : ∀ j, (aesEnc (aesKeys key) (iv ++ beBytes 4 (2 + j))).length = 16 := fun j => length_aesEnc (by omega) h16
  simp only [gcmOpen, gcmSeal, if_true, gcmCtr_eq, length_ctrFrom hf 0 pt.length pt le_rfl, ctrFrom_ctrFrom hf 0 pt.length pt le_rfl]

end Sys2Proof.Machine
end

section
/-! The compressors (R382): the plain forms, a block of fixed-code literals and a frame of uncompressed blocks, decompress to their input. -/

namespace Sys2Proof.Machine

-- bits

/-- A stream of given bits, the first one next. -/
def Bits.ofList (l : List Bool) : Bits := { v := l.foldr (fun b a => 2 * a + flag b) 0, n := l.length }

@[simp] theorem Bits.ofList_n (l : List Bool) : (Bits.ofList l).n = l.length := rfl

theorem Bits.ofList_cons_v (x : Bool) (l : List Bool) : (Bits.ofList (x :: l)).v = 2 * (Bits.ofList l).v + flag x := rfl

theorem flag_lt_two (x : Bool) : flag x < 2 := by cases x <;> decide

theorem Bits.take_one_ofList_cons (x : Bool) (l : List Bool) : (Bits.ofList (x :: l)).take 1 = some (flag x, Bits.ofList l) := by
  have hx := flag_lt_two x
  have hn : ¬ (Bits.ofList (x :: l)).n < 1 := by simp
  rw [Bits.take, if_neg hn, Bits.ofList_cons_v]
  refine congrArg some (Prod.ext (by simp; omega) ?_)
  simp only [Bits.ofList, List.length_cons, Nat.add_sub_cancel, Bits.mk.injEq, and_true]
  omega

theorem Bits.ofList_append_v (l m : List Bool) : (Bits.ofList (l ++ m)).v = (Bits.ofList l).v + 2 ^ l.length * (Bits.ofList m).v := by
  induction l with
  | nil => simp [Bits.ofList]
  | cons x l ih => rw [List.cons_append, Bits.ofList_cons_v, Bits.ofList_cons_v, ih, List.length_cons, Nat.pow_succ]; ring

theorem Bits.ofList_v_lt (l : List Bool) : (Bits.ofList l).v < 2 ^ l.length := by
  induction l with
  | nil => simp [Bits.ofList]
  | cons x l ih =>
    have hx := flag_lt_two x
    rw [Bits.ofList_cons_v, List.length_cons, Nat.pow_succ]
    omega

theorem packBits_nil : packBits [] = [] := rfl

theorem packBits_step {l : List Bool} (h : l ≠ []) : packBits l = (Bits.ofList (l.take 8)).v :: packBits (l.drop 8) := by
  have hpos := List.length_pos_iff.mpr h
  have hn : (l.length + 7) / 8 = ((l.drop 8).length + 7) / 8 + 1 := by simp; omega
  rw [packBits, hn, List.range_succ_eq_map, List.map_cons, List.map_map, packBits]
  refine congrArg₂ _ (by simp [Bits.ofList]) (List.map_congr_left fun i _ => ?_)
  simp [Nat.mul_add, Nat.add_comm]

theorem bitsOf_cons (b : Nat) (l : List Nat) : bitsOf (b :: l) = { v := b + 2 ^ 8 * (bitsOf l).v, n := 8 + (bitsOf l).n } := by
  simp only [bitsOf, List.foldr_cons, List.length_cons, Bits.mk.injEq]
  omega

theorem Bits.ofList_append (l m : List Bool) :
    Bits.ofList (l ++ m) = { v := (Bits.ofList l).v + 2 ^ l.length * (Bits.ofList m).v, n := l.length + m.length } := by
  rw [← Bits.ofList_append_v, ← List.length_append]; rfl

theorem Bits.ofList_zeros_v (k : Nat) : (Bits.ofList (List.replicate k false)).v = 0 := by
  induction k with
  | zero => rfl
  | succ k ih => rw [List.replicate_succ, Bits.ofList_cons_v, ih]; rfl

/-- The bits of bits packed into bytes: those bits, and zeros up to a whole byte. -/
theorem bitsOf_packBits (l : List Bool) : ∃ k < 8, bitsOf (packBits l) = Bits.ofList (l ++ List.replicate k false) := by
  rcases eq_or_ne l [] with rfl | hl
  · exact ⟨0, by decide, rfl⟩
  have hpos := List.length_pos_iff.mpr hl
  rw [packBits_step hl, bitsOf_cons]
  rcases Nat.lt_or_ge l.length 8 with hlt | hge
  · refine ⟨8 - l.length, by omega, ?_⟩
    rw [List.drop_eq_nil_of_le (by omega), List.take_of_length_le (by omega), Bits.ofList_append, Bits.ofList_zeros_v]
    simp [packBits_nil, bitsOf]
    omega
  · obtain ⟨k, hk, ih⟩ := bitsOf_packBits (l.drop 8)
    refine ⟨k, hk, ?_⟩
    have hsplit : l ++ List.replicate k false = l.take 8 ++ (l.drop 8 ++ List.replicate k false) := by
      rw [← List.append_assoc, List.take_append_drop]
    rw [ih, hsplit, Bits.ofList_append (l.take 8), List.length_take, Nat.min_eq_left hge]
    rfl
termination_by l.length
decreasing_by simp; omega

-- symbols of a code

/-- Reading the bits of a code of k bits from bit j on answers its symbol, where no shorter part of it, from its start, is a code. -/
theorem huffSym_codeBits (lens : List Nat) {k v s : Nat} (l : List Bool) (hv : v < 2 ^ k) (hk : 0 < k)
    (hshort : ∀ j, 0 < j → j < k → ¬ (firstCode lens j ≤ v / 2 ^ (k - j) ∧ v / 2 ^ (k - j) < firstCode lens j + lenCount lens j))
    (hcode : firstCode lens k ≤ v ∧ v < firstCode lens k + lenCount lens k)
    (hsym : (((List.range lens.length).filter (fun s => lens.getD s 0 == k))[v - firstCode lens k]?) = some s)
    (j fuel : Nat) (hj : j < k) (hfuel : k ≤ j + fuel) :
    huffSym lens (Bits.ofList ((codeBits k v).drop j ++ l)) j (v / 2 ^ (k - j)) fuel = some (s, Bits.ofList l) := by
  induction fuel generalizing j with
  | zero => omega
  | succ fuel ih => 
    have hdrop : (codeBits k v).drop j = v.testBit (k - 1 - j) :: (codeBits k v).drop (j + 1) := by
      rw [List.drop_eq_getElem_cons (by simpa [codeBits] using hj)]
      simp [codeBits]
    have hnext : 2 * (v / 2 ^ (k - j)) + flag (v.testBit (k - 1 - j)) = v / 2 ^ (k - (j + 1)) := by
      rw [show k - j = k - (j + 1) + 1 by omega, Nat.pow_succ, ← Nat.div_div_eq_div_mul, Nat.sub_right_comm, ← Nat.sub_add_eq, Nat.testBit_eq_decide_div_mod_eq]
      simp only [flag, decide_eq_true_eq]
      split <;> omega
    rw [huffSym, hdrop, List.cons_append, Bits.take_one_ofList_cons]
    simp only [hnext]
    rcases Nat.lt_or_ge (j + 1) k with h | h
    · rw [if_neg (hshort (j + 1) (by omega) h), ih (j + 1) h (by omega)]
    · obtain rfl : k = j + 1 := by omega
      rw [Nat.sub_self, Nat.pow_zero, Nat.div_one, if_pos hcode, hsym, List.drop_eq_nil_of_le (by simp [codeBits])]
      rfl


-- the fixed code

/-- The code of a symbol up to 256 in the fixed code: its bits and its value. -/
def fixedCode (s : Nat) : Nat × Nat := if s < 144 then (8, 48 + s) else if s < 256 then (9, 256 + s) else (7, 0)

theorem firstCode_fixedLit : ∀ j < 10, firstCode fixedLit j = [0, 0, 0, 0, 0, 0, 0, 0, 48, 400].getD j 0 := by decide +kernel

theorem lenCount_fixedLit : ∀ j < 10, lenCount fixedLit j = [0, 0, 0, 0, 0, 0, 0, 24, 152, 112].getD j 0 := by decide +kernel

/-- The symbols of each length of the fixed code, in order. -/
def fixedSymbols (k : Nat) : List Nat :=
  if k = 7 then List.range' 256 24 else if k = 8 then List.range' 0 144 ++ List.range' 280 8 else List.range' 144 112

theorem symbols_fixedLit : ∀ k ∈ [7, 8, 9],
    (List.range fixedLit.length).filter (fun s => fixedLit.getD s 0 == k) = fixedSymbols k := by
  decide +kernel

/-- No code of the fixed literal code begins another of at most 9 bits that lies in its length's range. -/
theorem fixedLit_prefixFree {k v : Nat} (hk : k < 10) (hv : firstCode fixedLit k ≤ v) (hlen : 7 ≤ k) (hv' : v < 2 ^ k) (j : Nat) (h0 : 0 < j) (hj : j < k) :
    ¬ (firstCode fixedLit j ≤ v / 2 ^ (k - j) ∧ v / 2 ^ (k - j) < firstCode fixedLit j + lenCount fixedLit j) := by
  rw [firstCode_fixedLit k hk] at hv
  rw [firstCode_fixedLit j (by omega), lenCount_fixedLit j (by omega)]
  interval_cases k <;> interval_cases j <;> simp at hv ⊢ <;> omega

/-- The bits of a code of the fixed literal code spell its symbol. -/
theorem sym_fixedCode {s : Nat} (hs : s ≤ 256) (l : List Bool) :
    (Bits.ofList (codeBits (fixedCode s).1 (fixedCode s).2 ++ l)).sym fixedLit = some (s, Bits.ofList l) := by
  have hread : ∀ k v, k ∈ [7, 8, 9] → v < 2 ^ k → firstCode fixedLit k ≤ v → v < firstCode fixedLit k + lenCount fixedLit k →
      (fixedSymbols k)[v - firstCode fixedLit k]? = some s → (Bits.ofList (codeBits k v ++ l)).sym fixedLit = some (s, Bits.ofList l) := by
    intro k v hk hv hlo hhi hsym
    have hk' : 7 ≤ k ∧ k < 10 := by simp at hk; omega
    have := huffSym_codeBits fixedLit l hv (by omega) (fixedLit_prefixFree hk'.2 hlo hk'.1 hv) ⟨hlo, hhi⟩
      (by rw [symbols_fixedLit k hk, hsym]) 0 15 (by omega) (by omega)
    rwa [List.drop_zero, Nat.sub_zero, Nat.div_eq_of_lt hv] at this
  unfold fixedCode
  split_ifs with h8 h9
  · have hsym : (fixedSymbols 8)[48 + s - firstCode fixedLit 8]? = some s := by
      simp [firstCode_fixedLit, fixedSymbols, List.getElem?_append, h8]
    refine hread 8 (48 + s) (by simp) (by omega) ?_ ?_ hsym <;> simp [firstCode_fixedLit, lenCount_fixedLit]
    omega
  · have hsym : (fixedSymbols 9)[256 + s - firstCode fixedLit 9]? = some s := by
      rw [firstCode_fixedLit 9 (by decide)]
      change (List.range' 144 112)[256 + s - 400]? = some s
      rw [List.getElem?_range' (by omega)]
      exact congrArg some (by omega)
    refine hread 9 (256 + s) (by simp) (by omega) ?_ ?_ hsym <;> simp [firstCode_fixedLit, lenCount_fixedLit] <;> omega
  · obtain rfl : s = 256 := by omega
    refine hread 7 0 ?_ ?_ ?_ ?_ ?_ <;> simp [firstCode_fixedLit, lenCount_fixedLit, fixedSymbols]

/-- A block of literals in the fixed code, up to its end. -/
theorem inflateBlock_literals {input : List Nat} (hin : ∀ b ∈ input, b < 256) (rest : List Bool) (out : List Nat) (fuel : Nat)
    (hfuel : input.length < fuel) (dist : List Nat) :
    inflateBlock fixedLit dist (Bits.ofList ((input ++ [256]).flatMap (fun s => codeBits (fixedCode s).1 (fixedCode s).2) ++ rest)) out fuel
      = some (Bits.ofList rest, input.reverse ++ out) := by
  induction input generalizing out fuel with
  | nil =>
    obtain ⟨fuel, rfl⟩ := Nat.exists_eq_succ_of_ne_zero (by omega : fuel ≠ 0)
    simp only [List.nil_append, List.flatMap_cons, List.flatMap_nil, List.append_nil, inflateBlock, sym_fixedCode le_rfl]
    simp
  | cons b input ih =>
    obtain ⟨fuel, rfl⟩ := Nat.exists_eq_succ_of_ne_zero (by simp at hfuel; omega : fuel ≠ 0)
    have hb : b < 256 := hin b (by simp)
    simp only [List.cons_append, List.flatMap_cons, List.append_assoc, inflateBlock, sym_fixedCode hb.le, hb, if_true]
    rw [ih (fun x hx => hin x (by simp [hx])) _ _ (by simpa using hfuel)]
    simp

theorem deflateLiteral_eq (input : List Nat) (hin : ∀ b ∈ input, b < 256) : deflateLiteral input
    = packBits ([true, true, false] ++ (input ++ [256]).flatMap (fun s => codeBits (fixedCode s).1 (fixedCode s).2)) := by
  have hcodes : input.flatMap (fun b => if b < 144 then codeBits 8 (48 + b) else codeBits 9 (256 + b))
      = input.flatMap (fun s => codeBits (fixedCode s).1 (fixedCode s).2) := by
    refine List.flatMap_congr fun b hb => ?_
    unfold fixedCode
    have := hin b hb
    split_ifs <;> rfl
  rw [deflateLiteral, hcodes, List.flatMap_append, List.append_assoc]
  rfl

theorem length_le_fixedCodes (input : List Nat) :
    input.length ≤ (input.flatMap (fun s => codeBits (fixedCode s).1 (fixedCode s).2)).length := by
  induction input with
  | nil => simp
  | cons b input ih =>
    have hb : 0 < (codeBits (fixedCode b).1 (fixedCode b).2).length := by
      simp only [codeBits, fixedCode, List.length_map, List.length_range]
      split_ifs <;> simp
    rw [List.flatMap_cons, List.length_append, List.length_cons]
    omega

/-- DEFLATE_D of the plain form gives the input back. -/
theorem inflate_deflateLiteral {input : List Nat} (hin : ∀ b ∈ input, b < 256) : inflate (deflateLiteral input) = some (input, false) := by
  rw [deflateLiteral_eq input hin]
  generalize hcodes : (input ++ [256]).flatMap (fun s => codeBits (fixedCode s).1 (fixedCode s).2) = codes
  have hlen : input.length + 1 ≤ codes.length := by
    have := length_le_fixedCodes (input ++ [256])
    rwa [hcodes, List.length_append] at this
  obtain ⟨k, hk, hbits⟩ := bitsOf_packBits ([true, true, false] ++ codes)
  have hhead : (Bits.ofList (true :: false :: (codes ++ List.replicate k false))).take 2
      = some (1, Bits.ofList (codes ++ List.replicate k false)) := by
    rw [Bits.take, if_neg (by simp), Bits.ofList_cons_v, Bits.ofList_cons_v]
    refine congrArg some (Prod.ext (by simp [flag]; omega) ?_)
    simp only [Bits.ofList, List.length_cons, Bits.mk.injEq, flag]
    simp
    omega
  have hblock := inflateBlock_literals hin (List.replicate k false) [] (codes.length + k + 1) (by omega) (fixedDist ++ [5, 5])
  rw [hcodes] at hblock
  rw [inflate, hbits]
  simp only [List.cons_append, List.nil_append, inflateBlocks, Bits.take_one_ofList_cons]
  simp [hhead, hblock, flag]
  omega

-- LZ4 frames

theorem leNat_cons (b : Nat) (l : List Nat) : leNat (b :: l) = leNat l * 256 + b := rfl

@[simp] theorem length_le4 (v : Nat) : (le4 v).length = 4 := by simp [le4]

theorem leNat_le4 {v : Nat} (h : v < 2 ^ 32) : leNat (le4 v) = v := by
  change ((((0 * 256 + v / 256 ^ 3 % 256) * 256 + v / 256 ^ 2 % 256) * 256 + v / 256 ^ 1 % 256) * 256 + v / 256 ^ 0 % 256) = v
  omega

theorem xxh32_lt (l : List Nat) : xxh32 l < 2 ^ 32 := by
  unfold xxh32
  extract_lets n m round stripes acc h0 rest h1 h2 h3 h4
  have h : h4 < 2 ^ 32 := Nat.mod_lt _ (by decide)
  exact Nat.xor_lt_two_pow h (by omega)

/-- What the header of a frame of LZ4F_C says. -/
def lz4PlainFlags : Lz4Flags := { indep := true, bsum := false, csum := true, size := none, maxBlock := 65536 }

theorem lz4Header_lz4Head (rest : List Nat) : lz4Header (lz4Head ++ rest) = some (lz4PlainFlags, rest) := by
  have h3 : Nat.testBit 0x64 3 = false := by decide
  have hflags : Nat.testBit 0x64 0 = false ∧ Nat.testBit 0x64 1 = false ∧ Nat.testBit 0x64 2 = true ∧ Nat.testBit 0x64 4 = false
      ∧ Nat.testBit 0x64 5 = true := by decide
  simp [lz4Header, lz4Head, leNat, h3, hflags, lz4PlainFlags]

/-- A frame of uncompressed blocks, up to its end mark. -/
theorem lz4Blocks_plain (n : Nat) (l tail out : List Nat) (fuel : Nat) (hn : l.length ≤ n) (hfuel : (chunks 65536 n l).length < fuel) :
    lz4Blocks lz4PlainFlags ((chunks 65536 n l).flatMap (fun b => le4 (2 ^ 31 + b.length) ++ b) ++ (le4 0 ++ tail)) out fuel
      = some (l.reverse ++ out, tail) := by
  induction n generalizing l out fuel with
  | zero =>
    obtain ⟨fuel, rfl⟩ := Nat.exists_eq_succ_of_ne_zero (by omega : fuel ≠ 0)
    obtain rfl := List.length_eq_zero_iff.mp (Nat.le_zero.mp hn)
    simp [lz4Blocks, List.take_left', List.drop_left', leNat_le4]
  | succ n ih =>
    obtain ⟨fuel, rfl⟩ := Nat.exists_eq_succ_of_ne_zero (by omega : fuel ≠ 0)
    rcases eq_or_ne l [] with rfl | hl
    · simp [lz4Blocks, List.take_left', List.drop_left', leNat_le4]
    have hpos := List.length_pos_iff.mpr hl
    have hb : (l.take 65536).length ≤ 65536 := List.length_take_le _ _
    generalize hblock : l.take 65536 = b at hb
    rw [chunks_succ _ _ hl] at hfuel ⊢
    have hw : leNat (le4 (2 ^ 31 + b.length)) = 2 ^ 31 + b.length := leNat_le4 (by omega)
    have hmod : (2 ^ 31 + b.length) % 2 ^ 31 = b.length := by omega
    rw [List.flatMap_cons, hblock, List.append_assoc, List.append_assoc, lz4Blocks, if_neg (by simp), List.take_left' (length_le4 _), hw]
    simp only [hmod]
    rw [← List.drop_drop, List.drop_left' (length_le4 _), List.take_left' rfl, List.drop_left' rfl, if_neg (by omega),
      if_neg (by simp [lz4PlainFlags]), if_pos (by omega)]
    simp only
    rw [if_neg (by simp [lz4PlainFlags]; omega)]
    have hout : b.foldl (fun o b => b :: o) out = b.reverse ++ out := by simp
    have hall : l.reverse = (l.drop 65536).reverse ++ b.reverse := by rw [← List.reverse_append, ← hblock, List.take_append_drop]
    rw [hout, hall, List.append_assoc, ← ih (l.drop 65536) (b.reverse ++ out) fuel (by simp; omega) (by simpa using hfuel)]
    rfl

theorem lz4Decode_lz4Plain (input : List Nat) : lz4Decode (lz4Plain input) = some (input, false) := by
  have hfuel : (chunks 65536 input.length input).length
      < ((chunks 65536 input.length input).flatMap (fun b => le4 (2 ^ 31 + b.length) ++ b) ++ (le4 0 ++ le4 (xxh32 input))).length + 1 := by
    have hpieces : ∀ ps : List (List Nat), ps.length ≤ (ps.flatMap (fun b => le4 (2 ^ 31 + b.length) ++ b)).length := by
      intro ps
      induction ps with
      | nil => simp
      | cons p ps ih => simp only [List.flatMap_cons, List.length_append, List.length_cons, length_le4]; omega
    have := hpieces (chunks 65536 input.length input)
    rw [List.length_append]
    omega
  have hblocks := lz4Blocks_plain input.length input (le4 (xxh32 input)) [] _ le_rfl hfuel
  rw [lz4Decode, lz4Plain, List.append_assoc, List.append_assoc, lz4Header_lz4Head]
  simp only [hblocks]
  simp [lz4PlainFlags, leNat_le4 (xxh32_lt input), List.take_of_length_le]

/-- Settles O53: the counter stream masks twice, and the plain forms of the compressors decompress to their input. -/
theorem codersRoundTrip : Obligations.CodersRoundTrip := by
  refine ⟨fun key iv aad pt hkey _ _ => ?_, fun input len v hin => ⟨?_, ?_⟩⟩
  · rcases hkey with h | h
    · exact gcmOpen_gcmSeal (nk := 4) (by decide) h iv aad pt
    · exact gcmOpen_gcmSeal (nk := 8) (by decide) h iv aad pt
  · unfold compressed
    extract_lets cand good
    split
    · simp_all [good]
    · exact inflate_deflateLiteral hin
  · unfold compressed
    extract_lets cand good
    split
    · simp_all [good]
    · exact lz4Decode_lz4Plain input
end Sys2Proof.Machine
end

section
/-! A hart: what its CSRs read after an update, and the steps in which it performs an instruction (R116). -/

namespace Sys2Proof.Machine

-- CSRs

@[simp] theorem Hart.getCsr_setCsr (x : Hart) (n : Nat) (v : Word) : (x.setCsr n v).getCsr n = v := by simp [Hart.getCsr, Hart.setCsr]

theorem Hart.getCsr_setCsr_ne (x : Hart) {m n : Nat} (v : Word) (h : m ≠ n) : (x.setCsr n v).getCsr m = x.getCsr m := by
  simp [Hart.getCsr, Hart.setCsr, sget_sset_ne _ _ h]

theorem Hart.csrBit_setCsr_ne (x : Hart) {m n : Nat} (v : Word) (i : Nat) (h : m ≠ n) : (x.setCsr n v).csrBit m i = x.csrBit m i := by
  rw [Hart.csrBit, x.getCsr_setCsr_ne v h, Hart.csrBit]

@[simp] theorem Hart.getCsr_putCsr (x : Hart) (n hi lo v : Nat) :
    (x.putCsr n hi lo v).getCsr n = Field.put ⟨hi, lo, .rw, none⟩ (x.getCsr n) v := x.getCsr_setCsr n _

theorem Hart.getCsr_putCsr_ne (x : Hart) {m n : Nat} (hi lo v : Nat) (h : m ≠ n) : (x.putCsr n hi lo v).getCsr m = x.getCsr m :=
  x.getCsr_setCsr_ne _ h

theorem Hart.getCsr_putBit_ne (x : Hart) {m n : Nat} (i : Nat) (b : Bool) (h : m ≠ n) : (x.putBit n i b).getCsr m = x.getCsr m :=
  x.getCsr_setCsr_ne _ h

theorem Hart.csrBits_eq_get (x : Hart) (n hi lo : Nat) : x.csrBits n hi lo = Field.get ⟨hi, lo, .rw, none⟩ (x.getCsr n) := rfl

theorem Hart.csrBit_eq_getLsbD (x : Hart) (n i : Nat) : x.csrBit n i = (x.getCsr n).getLsbD i := rfl

theorem Hart.csrBits_putCsr (x : Hart) (n v : Nat) {hi lo : Nat} (h : hi < 64) (h' : lo ≤ hi) :
    (x.putCsr n hi lo v).csrBits n hi lo = v % 2 ^ (hi - lo + 1) := by
  rw [Hart.csrBits_eq_get, x.getCsr_putCsr]
  exact Field.get_put _ _ _ h h'

theorem Hart.csrBits_putCsr_ne (x : Hart) {m n : Nat} (hi lo v hi' lo' : Nat) (h : m ≠ n) :
    (x.putCsr n hi lo v).csrBits m hi' lo' = x.csrBits m hi' lo' := by
  simp only [Hart.csrBits, x.getCsr_putCsr_ne hi lo v h]

theorem Hart.csrBits_putCsr_disjoint (x : Hart) (n v : Nat) {hi lo hi' lo' : Nat} (h : hi < 64) (h' : lo ≤ hi) (hd : hi' < lo ∨ hi < lo')
    (hg : lo' ≤ hi') : (x.putCsr n hi lo v).csrBits n hi' lo' = x.csrBits n hi' lo' := by
  rw [Hart.csrBits_eq_get, x.getCsr_putCsr]
  exact Field.get_put_disjoint _ ⟨hi', lo', .rw, none⟩ _ _ h h' hd hg

theorem Hart.csrBit_putCsr (x : Hart) (m n v i : Nat) {hi lo : Nat} (h : hi < 64) (h' : lo ≤ hi) (hi' : i < 64) :
    (x.putCsr n hi lo v).csrBit m i = if m = n ∧ lo ≤ i ∧ i ≤ hi then v.testBit (i - lo) else x.csrBit m i := by
  by_cases hm : m = n
  · subst hm
    rw [Hart.csrBit_eq_getLsbD, x.getCsr_putCsr, Field.put_getLsbD ⟨hi, lo, .rw, none⟩ _ _ h h' i hi']
    simp only [true_and, Hart.csrBit_eq_getLsbD]
  · rw [Hart.csrBit, x.getCsr_putCsr_ne _ _ _ hm, if_neg (fun hc => hm hc.1), Hart.csrBit]

theorem Hart.csrBit_putBit (x : Hart) (m n i j : Nat) (b : Bool) (hi : i < 64) (hj : j < 64) :
    (x.putBit n i b).csrBit m j = if m = n ∧ j = i then b else x.csrBit m j := by
  rw [Hart.putBit, x.csrBit_putCsr _ _ _ _ hi le_rfl hj]
  by_cases hc : m = n ∧ j = i
  · obtain ⟨rfl, rfl⟩ := hc
    cases b <;> simp [flag]
  · rw [if_neg hc, if_neg (by omega)]

theorem Hart.csrBits_putBit_disjoint (x : Hart) (n i : Nat) (b : Bool) {hi lo : Nat} (h : i < 64) (hd : hi < i ∨ i < lo) (hg : lo ≤ hi) :
    (x.putBit n i b).csrBits n hi lo = x.csrBits n hi lo :=
  x.csrBits_putCsr_disjoint n _ h le_rfl hd hg

theorem Hart.csrBits_putBit_ne (x : Hart) {m n : Nat} (i : Nat) (b : Bool) (hi lo : Nat) (h : m ≠ n) :
    (x.putBit n i b).csrBits m hi lo = x.csrBits m hi lo :=
  x.csrBits_putCsr_ne i i _ hi lo h

-- a hart that takes no interrupt, no halt and no single step

/-- No interrupt and no halt is being taken, and no single step is asked for. -/
def Hart.Calm (x : Hart) : Prop := x.irqWait = none ∧ x.haltWait = none ∧ x.csrBit csrDcsr 2 = false

theorem Hart.Calm.of_eq {x y : Hart} (h : x.Calm) (hi : y.irqWait = x.irqWait) (hh : y.haltWait = x.haltWait)
    (hd : y.getCsr csrDcsr = x.getCsr csrDcsr) : y.Calm := by
  obtain ⟨h1, h2, h3⟩ := h
  exact ⟨hi.trans h1, hh.trans h2, by rw [Hart.csrBit, hd]; exact h3⟩

theorem Hart.Calm.setCsr {x : Hart} (h : x.Calm) (n : Nat) (v : Word) (hn : csrDcsr ≠ n) : (x.setCsr n v).Calm :=
  h.of_eq rfl rfl (x.getCsr_setCsr_ne v hn)

theorem Hart.Calm.putCsr {x : Hart} (h : x.Calm) (n hi lo v : Nat) (hn : csrDcsr ≠ n) : (x.putCsr n hi lo v).Calm := h.setCsr n _ hn

theorem Hart.Calm.putBit {x : Hart} (h : x.Calm) (n i : Nat) (b : Bool) (hn : csrDcsr ≠ n) : (x.putBit n i b).Calm := h.putCsr n i i _ hn

theorem Hart.Calm.setX {x : Hart} (h : x.Calm) (n : Nat) (v : Word) : (x.setX n v).Calm := by
  unfold Hart.setX
  split
  · exact h
  · exact h

theorem Hart.Calm.syncSd {x : Hart} (h : x.Calm) : x.syncSd.Calm :=
  (h.putBit _ _ _ (by decide)).putBit _ _ _ (by decide)

theorem Hart.Calm.dirty {x : Hart} (h : x.Calm) (hi lo : Nat) : (x.dirty hi lo).Calm := by
  unfold Hart.dirty
  have hm : (x.putCsr csrMstatus hi lo 3).Calm := h.putCsr _ _ _ _ (by decide)
  split
  · exact (hm.putCsr _ _ _ _ (by decide)).syncSd
  · exact hm.syncSd

theorem Hart.Calm.dirtyXs {x : Hart} (h : x.Calm) : x.dirtyXs.Calm := h.dirty 16 15

theorem Hart.Calm.fill {x : Hart} (h : x.Calm) (rd : HReg) (size v : Nat) (signed : Bool) : (x.fill rd size v signed).Calm := by
  cases rd with
  | x n => exact h.setX n _
  | f n => exact Hart.Calm.dirty (x := { x with f := sset 0 n _ x.f }) h 14 13
  | v n => exact Hart.Calm.dirty (x := { x with v := sset 0 n _ x.v }) h 10 9

theorem Hart.Calm.amoDest {x : Hart} (h : x.Calm) (rd size v : Nat) : (x.amoDest rd size v).Calm := by
  unfold Hart.amoDest
  split
  · split
    · exact h
    · exact (h.setX _ _).setX _ _
  · exact h.setX _ _

theorem Hart.Calm.halt {x : Hart} (h : x.Calm) (why : Nat) : (x.halt why).Calm := by
  obtain ⟨hi, -, hd⟩ := h
  refine ⟨hi, rfl, ?_⟩
  change ((((x.setCsr csrDpc x.pc).putCsr csrDcsr 8 6 why).putCsr csrDcsr 1 0 _).putBit csrDcsr 5 _).csrBit csrDcsr 2 = false
  rw [Hart.csrBit_putBit _ _ _ _ _ _ (by decide) (by decide), if_neg (by decide), Hart.csrBit_putCsr _ _ _ _ _ (by decide) (by decide) (by decide),
    if_neg (by decide), Hart.csrBit_putCsr _ _ _ _ _ (by decide) (by decide) (by decide), if_neg (by decide),
    Hart.csrBit_setCsr_ne _ _ _ (by decide), hd]

-- what keeps a hart calm

/-- Hart h of a chip is calm. -/
def Chip.Calm (c : Chip) (h : Nat) : Prop := (c.hart h).Calm

theorem Chip.Calm.of_harts {c d : Chip} {h : Nat} (hc : c.Calm h) (e : d.harts = c.harts) : d.Calm h := by
  unfold Chip.Calm Chip.hart at *
  rwa [e]

theorem Chip.Calm.onHart {c : Chip} {h : Nat} (hc : c.Calm h) {f : Hart → Hart} (hf : ∀ x : Hart, x.Calm → (f x).Calm) (k : Nat) :
    (c.onHart k f).Calm h := by
  rcases eq_or_ne h k with rfl | hk
  · simpa [Chip.Calm] using hf _ hc
  · simpa [Chip.Calm, Chip.hart_onHart_ne _ _ hk] using hc

theorem Chip.Calm.foldl {α : Type} {c : Chip} {h : Nat} (hc : c.Calm h) {f : Chip → α → Chip} (hf : ∀ d a, d.Calm h → (f d a).Calm h)
    (l : List α) : (l.foldl f c).Calm h := foldl_keeps (P := fun d : Chip => d.Calm h) hf l hc

theorem Hart.Calm.counted {x : Hart} (h : x.Calm) (i old n : Nat) (hi : i < 29) (b : Bool) :
    (if b then ((x.setCsr (0xB03 + i) (BitVec.ofNat 64 (old + n))).putBit (0x323 + i) 63 true).putBit csrMip 13 true
      else x.setCsr (0xB03 + i) (BitVec.ofNat 64 (old + n))).Calm := by
  have hx := h.setCsr (0xB03 + i) (BitVec.ofNat 64 (old + n)) (by simp only [csrDcsr]; omega)
  split
  · exact (hx.putBit _ _ _ (by simp only [csrDcsr]; omega)).putBit _ _ _ (by decide)
  · exact hx

theorem Chip.Calm.countEvent {c : Chip} {h : Nat} (hc : c.Calm h) (k ev n : Nat) : (c.countEvent k ev n).Calm h := by
  refine hc.onHart (fun x hx => List.foldlRecOn _ _ hx fun y hy i hi => ?_) k
  have hi := List.mem_range.mp hi
  dsimp only
  split
  · exact hy.counted i _ n hi _
  · exact hy

theorem Chip.Calm.retire {c : Chip} {h : Nat} (hc : c.Calm h) (k : Nat) : (c.retire k).Calm h :=
  (hc.onHart (fun _ hx => hx.setCsr _ _ (by decide)) k).countEvent k 2 1

theorem Chip.Calm.finish {c : Chip} {h : Nat} (hc : c.Calm h) (k : Nat) : (c.finish k).Calm h := by
  unfold Chip.finish
  split
  · exact hc.retire k
  · exact hc.onHart (f := fun x => { x with younger := x.younger + 1 }) (fun _ hx => hx) k

@[simp] theorem Chip.hart_setL2 (c : Chip) (k line : Nat) (l : L2Line) (h : Nat) : (c.setL2 k line l).hart h = c.hart h := rfl

theorem Chip.hart_settle (c : Chip) (k h : Nat) : (c.settle k).hart h = c.hart h := by
  refine foldl_keeps (P := fun d : Chip => d.hart h = c.hart h) (fun d line hd => ?_) _ rfl
  split
  · exact hd
  · exact hd

theorem Chip.hart_unpin (c : Chip) (k h : Nat) : (c.unpin k).hart h = c.hart h := by
  refine foldl_keeps (P := fun d : Chip => d.hart h = c.hart h) (fun d line hd => ?_) _ rfl
  split
  · exact hd
  · exact hd

theorem Chip.Calm.settle {c : Chip} {h : Nat} (hc : c.Calm h) (k : Nat) : (c.settle k).Calm h := by
  rwa [Chip.Calm, Chip.hart_settle]

theorem Chip.Calm.unpin {c : Chip} {h : Nat} (hc : c.Calm h) (k : Nat) : (c.unpin k).Calm h := by
  rwa [Chip.Calm, Chip.hart_unpin]

theorem Chip.Calm.leave {c : Chip} {h : Nat} (hc : c.Calm h) (k : Nat) : (c.leave k).Calm h :=
  (hc.settle k).onHart (f := fun x => { x.discard with hq := x.hq.drop 1 }) (fun _ hx => hx) k

-- a calm hart is asked for nothing

theorem Chip.stepHalt_of_calm {c : Chip} {h : Nat} (hc : c.Calm h) : c.stepHalt h = c := by
  obtain ⟨-, -, hd⟩ := hc
  simp [Chip.stepHalt, hd]

theorem Chip.irqPoll_of_calm {c : Chip} {h : Nat} (hc : c.Calm h) : c.irqPoll h = c := by
  obtain ⟨hi, -, -⟩ := hc
  simp [Chip.irqPoll, hi]

theorem Chip.haltPoll_of_calm {c : Chip} {h : Nat} (hc : c.Calm h) : c.haltPoll h = c := by
  obtain ⟨-, hh, -⟩ := hc
  simp [Chip.haltPoll, hh]

theorem Chip.Free.calm {c : Chip} {h : Nat} (hf : c.Free h) : c.Calm h := ⟨hf.irq, hf.halt, hf.step⟩

theorem Chip.Free.calm_given {c : Chip} {h : Nat} (hf : c.Free h) (i : Instr) : (c.given h i).Calm h :=
  hf.calm.onHart (f := fun x => { x with hq := [i] }) (fun _ hx => hx) h

-- an instruction at a free hart

@[simp] theorem Chip.hart_given (c : Chip) (h : Nat) (i : Instr) : (c.given h i).hart h = { c.hart h with hq := [i] } := by
  simp [Chip.given]

/-- At a free hart the instruction stands alone and is performed at once. -/
theorem Chip.issueInstr_of_free {c : Chip} {h : Nat} (hf : c.Free h) (i : Instr) :
    c.issueInstr h i = (((c.given h i).drain h 1).irqPoll h).haltPoll h := by
  obtain ⟨-, hrun, hq, hirq, hhalt, -⟩ := hf
  have hgiven : c.onHart h (fun x => { x with hq := x.hq ++ [i] }) = c.given h i := by
    simp only [Chip.given, Chip.onHart, hq, List.nil_append]
  rw [Chip.issueInstr, if_pos ⟨hrun, hirq, hhalt⟩, hgiven, Chip.run, Chip.hart_given]
  rfl

theorem Chip.drain_given {c : Chip} {h : Nat} (hrun : (c.hart h).run = .running) (i : Instr) :
    (c.given h i).drain h 1 = match (c.given h i).perform h i with
      | (d, .wait) => d
      | (d, .ended) => d
      | (d, .done) => if retiresNow i then ((d.leave h).finish h).stepHalt h else if isTile i then (d.leave h).stepHalt h else d.leave h := by
  rw [Chip.drain]
  simp only [Chip.hart_given, hrun]
  rcases (c.given h i).perform h i with ⟨d, _ | _ | _⟩ <;> rfl

/-- An instruction of a free hart that has its effect leaves the hart's queue and, where it is not a tile instruction or a fetch, retires. -/
theorem Chip.issueInstr_of_done {c d : Chip} {h : Nat} {i : Instr} (hf : c.Free h) (hp : (c.given h i).perform h i = (d, .done))
    (hd : d.Calm h) : c.issueInstr h i = if retiresNow i then (d.leave h).finish h else d.leave h := by
  rw [Chip.issueInstr_of_free hf, Chip.drain_given hf.run, hp]
  have hl := hd.leave h
  dsimp only
  rw [Chip.stepHalt_of_calm (hl.finish h), Chip.stepHalt_of_calm hl]
  split_ifs
  · rw [Chip.irqPoll_of_calm (hl.finish h), Chip.haltPoll_of_calm (hl.finish h)]
  · rw [Chip.irqPoll_of_calm hl, Chip.haltPoll_of_calm hl]
  · rw [Chip.irqPoll_of_calm hl, Chip.haltPoll_of_calm hl]

theorem Chip.issueInstr_retires {c d : Chip} {h : Nat} {i : Instr} (hf : c.Free h) (hr : retiresNow i = true)
    (hp : (c.given h i).perform h i = (d, .done)) (hd : d.Calm h) : c.issueInstr h i = (d.leave h).finish h := by
  rw [Chip.issueInstr_of_done hf hp hd, if_pos hr]

theorem Chip.issueInstr_leaves {c d : Chip} {h : Nat} {i : Instr} (hf : c.Free h) (hr : retiresNow i = false)
    (hp : (c.given h i).perform h i = (d, .done)) (hd : d.Calm h) : c.issueInstr h i = d.leave h := by
  rw [Chip.issueInstr_of_done hf hp hd, if_neg (by simp [hr])]

/-- An instruction of a free hart that waits, or that traps. -/
theorem Chip.issueInstr_of_wait {c d : Chip} {h : Nat} {i : Instr} (hf : c.Free h) (hp : (c.given h i).perform h i = (d, .wait))
    (hd : d.Calm h) : c.issueInstr h i = d := by
  rw [Chip.issueInstr_of_free hf, Chip.drain_given hf.run, hp]
  rw [Chip.irqPoll_of_calm hd, Chip.haltPoll_of_calm hd]

theorem Chip.issueInstr_of_ended {c d : Chip} {h : Nat} {i : Instr} (hf : c.Free h) (hp : (c.given h i).perform h i = (d, .ended))
    (hd : d.Calm h) : c.issueInstr h i = d := by
  rw [Chip.issueInstr_of_free hf, Chip.drain_given hf.run, hp]
  rw [Chip.irqPoll_of_calm hd, Chip.haltPoll_of_calm hd]

-- operands in range

@[simp] theorem hartOk_of_lt {h : Nat} (hh : h < 288) : hartOk h = true := decide_eq_true hh
@[simp] theorem regOk_of_lt {r : Nat} (hr : r < 32) : regOk r = true := decide_eq_true hr
@[simp] theorem tOk_of_lt {t : Nat} (ht : t < 8) : tOk t = true := decide_eq_true ht
@[simp] theorem aOk_of_lt {a : Nat} (ha : a < 4) : aOk a = true := decide_eq_true ha

-- a command of the chip alone, and of the package

theorem gives_of_onChip {i : Instr} {s : State} {ok : Bool} {f : Chip → Chip} {c : Chip} (he : exec i s = need ok (s.onChip f))
    (hok : ok = true) (hc : f s.chip = c) : Gives i s c := by
  rw [Gives, he, hok, need_true, ← hc]; rfl

theorem gives_of_onPkg {i : Instr} {s : State} {ok : Bool} {f : Pkg → Pkg} {c : Chip} (he : exec i s = need ok (s.onPkg f))
    (hok : ok = true) (hc : f s.toPkg = { s.toPkg with chip := c }) : Gives i s c := by
  rw [Gives, he, hok, need_true, State.onPkg, hc]

theorem givesPkg_of_onPkg {i : Instr} {s : State} {ok : Bool} {f : Pkg → Pkg} {p : Pkg} (he : exec i s = need ok (s.onPkg f))
    (hok : ok = true) (hp : f s.toPkg = p) : GivesPkg i s p := by
  rw [GivesPkg, he, hok, need_true, ← hp]; rfl

-- a tile instruction completes

/-- Settles O22: the oldest tile instruction leaves the unit, as `Chip.tileComplete` says. -/
theorem tileInstructionComplete : Obligations.TileInstructionComplete := by
  unfold Obligations.TileInstructionComplete
  intro s h n rest hh hsent
  refine gives_of_onChip rfl (decide_eq_true hh) ?_
  simp only [Chip.tileComplete, hsent]

end Sys2Proof.Machine
end

section
/-! Traps and the vendor CSRs: what a trap keeps, and the CSR instructions of a free hart (R63, R65, R66). -/

namespace Sys2Proof.Machine

-- a trap leaves a hart calm

theorem Hart.Calm.of_csr {x y : Hart} (h : x.Calm) (hi : y.irqWait = x.irqWait) (hh : y.haltWait = x.haltWait) (hc : y.csr = x.csr) :
    y.Calm := h.of_eq hi hh (by rw [Hart.getCsr, hc, Hart.getCsr])

theorem Hart.Calm.gateEntry {x : Hart} (h : x.Calm) (c : Chip) : (c.gateEntry x).Calm :=
  ((h.putCsr _ _ _ _ (by decide)).putCsr _ _ _ _ (by decide)).putBit _ _ _ (by decide)

theorem Hart.Calm.recordCheck {x : Hart} (h : x.Calm) (w : Nat) (t : Option (Nat × Nat × Nat)) : (x.recordCheck w t).Calm := by
  rcases t with _ | ⟨check, entry, hall⟩
  · exact h
  · exact h.setCsr _ _ (by decide)

theorem Hart.Calm.enterTrap {x : Hart} (h : x.Calm) (c : Chip) (t : TrapInfo) : (c.enterTrap x t).Calm := by
  unfold Chip.enterTrap
  extract_lets gva m0 m1 m2 m3 m4 s1 s2 s3 s4 s5 t' v1 v2
  clear_value gva t'
  split
  · have h0 : m0.Calm := h.gateEntry c
    clear_value m0
    have h1 : m1.Calm := ((h0.setCsr _ _ (by decide)).setCsr _ _ (by decide)).setCsr _ _ (by decide)
    clear_value m1
    have h2 : m2.Calm := (h1.setCsr _ _ (by decide)).putBit _ _ _ (by decide)
    clear_value m2
    have h3 : m3.Calm := (h2.putBit _ _ _ (by decide)).setCsr _ _ (by decide)
    clear_value m3
    have h4 : m4.Calm := ((h3.putBit _ _ _ (by decide)).putBit _ _ _ (by decide)).putCsr _ _ _ _ (by decide)
    exact h4.of_csr rfl rfl rfl
  · have h1 : s1.Calm := ((h.setCsr _ _ (by decide)).setCsr _ _ (by decide)).setCsr _ _ (by decide)
    clear_value s1
    have h2 : s2.Calm := (h1.setCsr _ _ (by decide)).putBit _ _ _ (by decide)
    clear_value s2
    have h3 : s3.Calm := (h2.putBit _ _ _ (by decide)).setCsr _ _ (by decide)
    clear_value s3
    have h4 : s4.Calm := by
      simp only [s4]
      split
      · exact h3.putBit _ _ _ (by decide)
      · exact h3
    clear_value s4
    have h5 : s5.Calm := ((h4.putBit _ _ _ (by decide)).putBit _ _ _ (by decide)).putBit _ _ _ (by decide)
    exact h5.of_csr rfl rfl rfl
  · have h1 : v1.Calm := ((h.setCsr _ _ (by decide)).setCsr _ _ (by decide)).setCsr _ _ (by decide)
    clear_value v1
    have h2 : v2.Calm := ((h1.putBit _ _ _ (by decide)).putBit _ _ _ (by decide)).putBit _ _ _ (by decide)
    exact h2.of_csr rfl rfl rfl

theorem Chip.Calm.setHart {c : Chip} {h : Nat} {x : Hart} (hx : x.Calm) : (c.setHart h x).Calm h := by simpa [Chip.Calm] using hx

theorem Chip.Calm.haltAtGate {c : Chip} {h : Nat} (hc : c.Calm h) : (c.haltAtGate h).Calm h := by
  unfold Chip.haltAtGate
  dsimp only
  split
  · exact hc.onHart (fun _ hx => hx.halt 3) h
  · exact hc

theorem Chip.Calm.takeTrap {c : Chip} {h : Nat} (hc : c.Calm h) (t : TrapInfo) : (c.takeTrap h t).Calm h := by
  unfold Chip.takeTrap
  extract_lets x0 x1 x2 y c1 c2
  have h2 : x2.Calm := Hart.Calm.enterTrap (Hart.Calm.recordCheck hc _ _) _ _
  clear_value x2
  obtain ⟨-, hhalt, hstep⟩ := h2
  have hc1 : c1.Calm h := Chip.Calm.setHart ⟨rfl, hhalt, hstep⟩
  clear_value c1
  have hc2 : c2.Calm h := (hc1.unpin h).settle h
  clear_value c2
  split
  · rw [Chip.stepHalt_of_calm hc2.haltAtGate]
    exact hc2.haltAtGate
  · rw [Chip.stepHalt_of_calm hc2]
    exact hc2

theorem Chip.Calm.except {c : Chip} {h : Nat} (hc : c.Calm h) (cause : Nat) (tval : Word) : (c.except h cause tval).Calm h := hc.takeTrap _

theorem Chip.Calm.illegal {c : Chip} {h : Nat} (hc : c.Calm h) (cause : Nat) : (c.illegal h cause).Calm h := by
  have hn : c.nextFree.Calm h := hc.of_harts rfl
  rw [Chip.illegal]
  exact hn.except _ _

-- the vendor CSRs

/-- An instruction that is not of the tile unit does not wait for it. -/
theorem ite_tile_of_not {α : Type} {i : Instr} (hi : isTile i = false) {p : Prop} [Decidable p] {a b : α} :
    (if isTile i ∧ p then a else b) = b := by
  rw [if_neg (by simp [hi])]

theorem Hart.writeMworld_next (x : Hart) (v : Word) : (x.writeMworld v).csrBits csrMworld 7 4
    = if bits v.toNat 7 4 = 2 then x.csrBits csrMworld 7 4 else bits v.toNat 7 4 := by
  unfold Hart.writeMworld
  dsimp only
  rw [Hart.csrBits_putBit_disjoint _ _ _ _ (by decide) (by decide) (by decide)]
  split
  · rfl
  · rw [Hart.csrBits_putCsr _ _ _ (by decide) (by decide)]
    exact Nat.mod_eq_of_lt (Nat.mod_lt _ (by decide))

theorem Hart.writeMworld_prev (x : Hart) (v : Word) : (x.writeMworld v).csrBits csrMworld 11 8 = x.csrBits csrMworld 11 8 := by
  unfold Hart.writeMworld
  dsimp only
  rw [Hart.csrBits_putBit_disjoint _ _ _ _ (by decide) (by decide) (by decide)]
  split
  · rfl
  · exact Hart.csrBits_putCsr_disjoint _ _ _ (by decide) (by decide) (by decide) (by decide)

theorem Hart.writeMworld_world (x : Hart) (v : Word) : (x.writeMworld v).world = x.world := by
  unfold Hart.writeMworld Hart.world
  dsimp only
  rw [Hart.csrBits_putBit_disjoint _ _ _ _ (by decide) (by decide) (by decide)]
  split
  · rfl
  · exact Hart.csrBits_putCsr_disjoint _ _ _ (by decide) (by decide) (by decide) (by decide)

theorem Hart.Calm.writeMworld {x : Hart} (h : x.Calm) (v : Word) : (x.writeMworld v).Calm := by
  unfold Hart.writeMworld
  dsimp only
  split
  · exact h.putBit _ _ _ (by decide)
  · exact (h.putCsr _ _ _ _ (by decide)).putBit _ _ _ (by decide)

/-- An access to a tile CSR (R66): rd takes the old value, and a write reaches INT_SAT of tcsr. -/
def Hart.tileCsrAccess (x : Hart) (rd : Nat) (f : Bool) (wr : Option Word) : Hart :=
  (match wr with
    | some v => if f then x else (x.putBit csrTcsr 0 (v.toNat.testBit 0)).dirtyXs
    | none => x).setX rd (x.getCsr (if f then csrTfault else csrTcsr))

theorem Hart.Calm.tileCsrAccess {x : Hart} (h : x.Calm) (rd : Nat) (f : Bool) (wr : Option Word) : (x.tileCsrAccess rd f wr).Calm := by
  unfold Hart.tileCsrAccess
  refine Hart.Calm.setX ?_ _ _
  rcases wr with _ | v
  · exact h
  · cases f
    · exact (h.putBit _ _ _ (by decide)).dirtyXs
    · exact h

theorem Chip.tileCsr_of_on {c : Chip} {h : Nat} (hon : (c.hart h).tileOn = true) (rd : Nat) (f : Bool) (wr : Option Word) :
    c.tileCsr h rd f wr = (c.onHart h (fun x => x.tileCsrAccess rd f wr), .done) := by
  unfold Chip.tileCsr
  rw [if_neg (by simp [hon])]
  rfl

/-- Settles O12: the CSR checks of each instruction, and the fields that a write reaches. -/
theorem vendorCsrs : Obligations.VendorCsrs := by
  unfold Obligations.VendorCsrs
  refine ⟨⟨fun s h v hf hp => ?_, fun x v => ⟨x.writeMworld_world v, x.writeMworld_prev v, x.writeMworld_next v⟩⟩,
    fun s h v hf hp => ?_, fun s h v hf hp hv => ?_, fun s h v hf hv hp hp' => ?_, fun s h rd f wr hf hrd hon => ?_⟩
  · have hcalm := (hf.calm_given (.mworldWrite h v)).onHart (fun _ hx => hx.writeMworld v) h
    refine gives_of_onChip rfl (decide_eq_true hf.hart) (Chip.issueInstr_retires hf rfl ?_ hcalm)
    have htrap : ((s.chip.given h (.mworldWrite h v)).hart h).csrTrap 3 true = none := by simp [Hart.csrTrap, hp]
    rw [Chip.perform, ite_tile_of_not rfl]
    simp only [htrap]
  · refine gives_of_onChip rfl (decide_eq_true hf.hart) (Chip.issueInstr_of_ended hf ?_ ((hf.calm_given _).illegal 2))
    have htrap : ((s.chip.given h (.mworldWrite h v)).hart h).csrTrap 3 true = some 2 := by simp [Hart.csrTrap, hp]
    rw [Chip.perform, ite_tile_of_not rfl]
    simp only [htrap]
    rfl
  · have hcalm := (hf.calm_given (.sqoslabelWrite h v)).onHart
      (fun _ hx => hx.setCsr csrSqoslabel (BitVec.ofNat 64 (v.toNat % 64)) (by decide)) h
    refine gives_of_onChip rfl (decide_eq_true hf.hart) (Chip.issueInstr_retires hf rfl ?_ hcalm)
    have htrap : ((s.chip.given h (.sqoslabelWrite h v)).hart h).csrTrap 1 false = none := by
      simp [Hart.csrTrap, Nat.not_lt.mpr hp, hv]
    rw [Chip.perform, ite_tile_of_not rfl]
    simp only [htrap]
  · refine gives_of_onChip rfl (decide_eq_true hf.hart) (Chip.issueInstr_of_ended hf ?_ ((hf.calm_given _).illegal 22))
    have htrap : ((s.chip.given h (.sqoslabelWrite h v)).hart h).csrTrap 1 false = some 22 := by
      simp [Hart.csrTrap, Nat.not_lt.mpr hp, hv]
    rw [Chip.perform, ite_tile_of_not rfl]
    simp only [htrap]
    rfl
  · have hcalm := (hf.calm_given (.tileCsrAccess h rd f wr)).onHart (fun _ hx => hx.tileCsrAccess rd f wr) h
    refine gives_of_onChip rfl (by simp [hartOk, regOk, hf.hart, hrd]) (Chip.issueInstr_retires hf rfl ?_ hcalm)
    have hon' : ((s.chip.given h (.tileCsrAccess h rd f wr)).hart h).tileOn = true := by
      rw [Chip.hart_given]
      exact hon
    rw [Chip.perform, ite_tile_of_not rfl]
    exact Chip.tileCsr_of_on hon' rd f wr

end Sys2Proof.Machine
end

section
/-! MRET and the end of a predictor clear (R63, R70, R86, R130). -/

namespace Sys2Proof.Machine

-- a write of a CSR leaves the rest of the hart

@[simp] theorem Hart.setCsr_run (x : Hart) (n : Nat) (v : Word) : (x.setCsr n v).run = x.run := rfl
@[simp] theorem Hart.setCsr_priv (x : Hart) (n : Nat) (v : Word) : (x.setCsr n v).priv = x.priv := rfl
@[simp] theorem Hart.setCsr_virt (x : Hart) (n : Nat) (v : Word) : (x.setCsr n v).virt = x.virt := rfl
@[simp] theorem Hart.setCsr_pc (x : Hart) (n : Nat) (v : Word) : (x.setCsr n v).pc = x.pc := rfl
@[simp] theorem Hart.setCsr_x (x : Hart) (n : Nat) (v : Word) : (x.setCsr n v).x = x.x := rfl
@[simp] theorem Hart.setCsr_hq (x : Hart) (n : Nat) (v : Word) : (x.setCsr n v).hq = x.hq := rfl
@[simp] theorem Hart.setCsr_irqWait (x : Hart) (n : Nat) (v : Word) : (x.setCsr n v).irqWait = x.irqWait := rfl
@[simp] theorem Hart.setCsr_haltWait (x : Hart) (n : Nat) (v : Word) : (x.setCsr n v).haltWait = x.haltWait := rfl
@[simp] theorem Hart.setCsr_haltPending (x : Hart) (n : Nat) (v : Word) : (x.setCsr n v).haltPending = x.haltPending := rfl
@[simp] theorem Hart.setCsr_tsent (x : Hart) (n : Nat) (v : Word) : (x.setCsr n v).tsent = x.tsent := rfl
@[simp] theorem Hart.setCsr_younger (x : Hart) (n : Nat) (v : Word) : (x.setCsr n v).younger = x.younger := rfl
@[simp] theorem Hart.setCsr_io (x : Hart) (n : Nat) (v : Word) : (x.setCsr n v).io = x.io := rfl
@[simp] theorem Hart.setCsr_xlat (x : Hart) (n : Nat) (v : Word) : (x.setCsr n v).xlat = x.xlat := rfl
@[simp] theorem Hart.setCsr_fetched (x : Hart) (n : Nat) (v : Word) : (x.setCsr n v).fetched = x.fetched := rfl
@[simp] theorem Hart.setCsr_pred (x : Hart) (n : Nat) (v : Word) : (x.setCsr n v).pred = x.pred := rfl
@[simp] theorem Hart.setCsr_l1dStreams (x : Hart) (n : Nat) (v : Word) : (x.setCsr n v).l1dStreams = x.l1dStreams := rfl
@[simp] theorem Hart.setCsr_l2Streams (x : Hart) (n : Nat) (v : Word) : (x.setCsr n v).l2Streams = x.l2Streams := rfl

-- what retiring leaves of a hart

/-- Counting events writes no CSR but the event counters and selectors, minstret and mip. -/
def Counted (m : Nat) : Prop := m = csrMinstret ∨ m = csrMip ∨ (0xB03 ≤ m ∧ m < 0xB03 + 29) ∨ (0x323 ≤ m ∧ m < 0x323 + 29)

theorem not_counted_mstatus : ¬ Counted csrMstatus := by simp [Counted, csrMstatus, csrMinstret, csrMip]
theorem not_counted_mworld : ¬ Counted csrMworld := by simp [Counted, csrMworld, csrMinstret, csrMip]
theorem not_counted_tcsr : ¬ Counted csrTcsr := by simp [Counted, csrTcsr, csrMinstret, csrMip]

/-- Two harts differ in counting CSRs alone. -/
structure Hart.SameButCounts (x y : Hart) : Prop where
  csr : ∀ m, ¬ Counted m → y.getCsr m = x.getCsr m
  rest : { y with csr := x.csr } = x

theorem Hart.SameButCounts.refl (x : Hart) : x.SameButCounts x := ⟨fun _ _ => rfl, rfl⟩

theorem Hart.SameButCounts.setCsr {x y : Hart} (h : x.SameButCounts y) {n : Nat} (v : Word) (hn : Counted n) :
    x.SameButCounts (y.setCsr n v) :=
  ⟨fun m hm => by rw [y.getCsr_setCsr_ne v (by rintro rfl; exact hm hn), h.csr m hm], h.rest⟩

theorem Hart.SameButCounts.putBit {x y : Hart} (h : x.SameButCounts y) {n : Nat} (i : Nat) (b : Bool) (hn : Counted n) :
    x.SameButCounts (y.putBit n i b) := h.setCsr _ hn

theorem Chip.countEvent_same (c : Chip) (h ev n : Nat) : (c.hart h).SameButCounts ((c.countEvent h ev n).hart h) := by
  rw [Chip.countEvent, Chip.hart_onHart]
  refine List.foldlRecOn _ _ (Hart.SameButCounts.refl _) fun y hy i hi => ?_
  have hi := List.mem_range.mp hi
  have hcount : Counted (0xB03 + i) := .inr (.inr (.inl ⟨by omega, by omega⟩))
  have hsel : Counted (0x323 + i) := .inr (.inr (.inr ⟨by omega, by omega⟩))
  dsimp only
  split
  · split
    · exact ((hy.setCsr _ hcount).putBit _ _ hsel).putBit _ _ (.inr (.inl rfl))
    · exact hy.setCsr _ hcount
  · exact hy

theorem Hart.SameButCounts.trans {x y z : Hart} (h : x.SameButCounts y) (k : y.SameButCounts z) : x.SameButCounts z :=
  ⟨fun m hm => (k.csr m hm).trans (h.csr m hm), by rw [← h.rest]; conv_rhs => rw [← k.rest]⟩

theorem Chip.retire_same (c : Chip) (h : Nat) : (c.hart h).SameButCounts ((c.retire h).hart h) := by
  refine Hart.SameButCounts.trans (y := (c.hart h).setCsr csrMinstret ((c.hart h).getCsr csrMinstret + 1))
    ((Hart.SameButCounts.refl _).setCsr _ (.inl rfl)) ?_
  have := (c.onHart h (fun x => x.setCsr csrMinstret (x.getCsr csrMinstret + 1))).countEvent_same h 2 1
  rwa [Chip.hart_onHart] at this

/-- After an instruction has left its hart and retired, the hart is as it was but for what waited and the counts. -/
theorem Chip.hart_leave (c : Chip) (h : Nat) : (c.leave h).hart h = { (c.hart h).discard with hq := (c.hart h).hq.drop 1 } := by
  rw [Chip.leave, Chip.hart_onHart, Chip.hart_settle]

theorem Chip.finish_same (c : Chip) (h : Nat) : ∃ n, ({ c.hart h with younger := n } : Hart).SameButCounts ((c.finish h).hart h) := by
  unfold Chip.finish
  split
  · exact ⟨_, c.retire_same h⟩
  · exact ⟨_, by rw [Chip.hart_onHart]; exact Hart.SameButCounts.refl _⟩

theorem Chip.hart_countEvent_ne (c : Chip) {h k : Nat} (hk : k ≠ h) (ev n : Nat) : (c.countEvent h ev n).hart k = c.hart k :=
  c.hart_onHart_ne _ hk

theorem Chip.hart_finish_ne (c : Chip) {h k : Nat} (hk : k ≠ h) : (c.finish h).hart k = c.hart k := by
  unfold Chip.finish Chip.retire
  split
  · rw [Chip.hart_countEvent_ne _ hk, Chip.hart_onHart_ne _ _ hk]
  · rw [Chip.hart_onHart_ne _ _ hk]

theorem Chip.hart_leave_ne (c : Chip) {h k : Nat} (hk : k ≠ h) : (c.leave h).hart k = c.hart k := by
  rw [Chip.leave, Chip.hart_onHart_ne _ _ hk, Chip.hart_settle]

@[simp] theorem Chip.regs_settle (c : Chip) (h : Nat) : (c.settle h).regs = c.regs := by
  refine foldl_keeps (P := fun d : Chip => d.regs = c.regs) (fun d line hd => ?_) _ rfl
  split
  · exact hd
  · exact hd

@[simp] theorem Chip.regs_finish (c : Chip) (h : Nat) : (c.finish h).regs = c.regs := by
  unfold Chip.finish Chip.retire Chip.countEvent
  split
  · rw [Chip.onHart_regs, Chip.onHart_regs]
  · rw [Chip.onHart_regs]

@[simp] theorem Chip.regs_leave (c : Chip) (h : Nat) : (c.leave h).regs = c.regs := by
  rw [Chip.leave, Chip.onHart_regs, Chip.regs_settle]

-- halting

theorem Hart.getCsr_halt_ne (x : Hart) (why : Nat) {m : Nat} (hp : m ≠ csrDpc) (hd : m ≠ csrDcsr) : (x.halt why).getCsr m = x.getCsr m := by
  change ((((x.setCsr csrDpc x.pc).putCsr csrDcsr 8 6 why).putCsr csrDcsr 1 0 _).putBit csrDcsr 5 _).getCsr m = x.getCsr m
  rw [Hart.getCsr_putBit_ne _ _ _ hd, Hart.getCsr_putCsr_ne _ _ _ _ hd, Hart.getCsr_putCsr_ne _ _ _ _ hd, Hart.getCsr_setCsr_ne _ _ hp]

theorem Hart.getCsr_dpc_halt (x : Hart) (why : Nat) : (x.halt why).getCsr csrDpc = x.pc := by
  change ((((x.setCsr csrDpc x.pc).putCsr csrDcsr 8 6 why).putCsr csrDcsr 1 0 _).putBit csrDcsr 5 _).getCsr csrDpc = x.pc
  rw [Hart.getCsr_putBit_ne _ _ _ (by decide), Hart.getCsr_putCsr_ne _ _ _ _ (by decide), Hart.getCsr_putCsr_ne _ _ _ _ (by decide),
    Hart.getCsr_setCsr]

/-- A pending haltreq takes effect at a gate where the world entered has invasive debug enabled (R86). -/
theorem Chip.haltAtGate_of_halts {c : Chip} {h : Nat} (hp : (c.hart h).haltPending = true) (hr : (c.hart h).run = .running)
    (hi : c.invEff (c.hart h).world = true) : c.haltAtGate h = c.onHart h (fun x => x.halt 3) := by
  simp [Chip.haltAtGate, hp, hr, hi]

theorem Chip.haltAtGate_of_not {c : Chip} {h : Nat}
    (hn : (c.hart h).haltPending = false ∨ (c.hart h).run = .clearing ∨ c.invEff (c.hart h).world = false) : c.haltAtGate h = c := by
  rcases hn with hn | hn | hn <;> simp [Chip.haltAtGate, hn]

-- the return

/-- The mode MRET returns to: MPP, U for the reserved 2. -/
def Hart.mretMode (x : Hart) : Nat := if x.csrBits csrMstatus 12 11 = 2 then 0 else x.csrBits csrMstatus 12 11

/-- mstatus as MRET leaves it. -/
def Hart.mretStatus (x : Hart) : Hart :=
  ((((x.putBit csrMstatus 3 (x.csrBit csrMstatus 7)).putBit csrMstatus 7 true).putCsr csrMstatus 12 11 0).putBit csrMstatus 39
    false).putBit csrMstatus 17 (x.csrBit csrMstatus 17 && x.mretMode == 3)

/-- The hart as MRET leaves it, before the gate. -/
def Hart.returned (x : Hart) : Hart :=
  { x.mretStatus with
    priv := x.mretMode, virt := x.mretMode != 3 && x.csrBit csrMstatus 39, pc := x.getCsr csrMepc, fetched := none }

/-- MRET clears the predictors as it enters the world of NEXT. -/
def Chip.mretClears (c : Chip) (x : Hart) : Bool :=
  x.csrBit csrMworld 12
    || (x.csrBits csrMworld 7 4 != x.world && c.bit (.WLD_WORLD_CFG (x.csrBits csrMworld 7 4)) F.WLD_WORLD_CFG_CLEAR_ON_ENTRY)

/-- The world of NEXT is entered (R63, R130). -/
def Chip.enterNext (c : Chip) (x y : Hart) : Hart :=
  ((y.putCsr csrMworld 3 0 (x.csrBits csrMworld 7 4)).putBit csrMworld 12 false).putBit csrTcsr 16
    (c.guardOf (x.csrBits csrMworld 7 4))

/-- The predictors are cleared, and the hart waits for that (R70). -/
def Hart.startClear (y : Hart) : Hart := { (y.putBit csrMworld 13 true).forget with run := .clearing }

theorem Hart.startClear_csr (y : Hart) : y.startClear.csr = (y.putBit csrMworld 13 true).csr := rfl

/-- The hart past the gate, in the world of NEXT. -/
def Chip.gateExit (c : Chip) (x : Hart) : Hart :=
  if c.mretClears x then (c.enterNext x x.returned).startClear else c.enterNext x x.returned

theorem Chip.mret_eq {c : Chip} {h : Nat} (hp : (c.hart h).priv = 3) : c.mret h =
    if (c.hart h).mretMode = 3 then c.setHart h (c.hart h).returned else (c.setHart h (c.gateExit (c.hart h))).haltAtGate h := by
  unfold Chip.mret
  rw [if_neg (by simp [hp])]
  rfl

-- a record update that leaves the CSRs

theorem Hart.getCsr_of_csr {x y : Hart} (h : x.csr = y.csr) (m : Nat) : x.getCsr m = y.getCsr m := by rw [Hart.getCsr, h, Hart.getCsr]

theorem Hart.csrBit_of_csr {x y : Hart} (h : x.csr = y.csr) (m i : Nat) : x.csrBit m i = y.csrBit m i := by
  rw [Hart.csrBit, Hart.getCsr_of_csr h, Hart.csrBit]

theorem Hart.csrBits_of_csr {x y : Hart} (h : x.csr = y.csr) (m hi lo : Nat) : x.csrBits m hi lo = y.csrBits m hi lo := by
  rw [Hart.csrBits, Hart.getCsr_of_csr h, Hart.csrBits]

theorem Hart.returned_csr (x : Hart) : x.returned.csr = x.mretStatus.csr := rfl

theorem Hart.returned_mstatus (x : Hart) : x.returned.csrBit csrMstatus 3 = x.csrBit csrMstatus 7 ∧ x.returned.csrBit csrMstatus 7 = true
    ∧ x.returned.csrBits csrMstatus 12 11 = 0 := by
  rw [Hart.csrBit_of_csr x.returned_csr, Hart.csrBit_of_csr x.returned_csr, Hart.csrBits_of_csr x.returned_csr, Hart.mretStatus]
  refine ⟨?_, ?_, ?_⟩
  · simp (decide := true) only [Hart.csrBit_putBit, Hart.csrBit_putCsr, if_true, if_false]
  · simp (decide := true) only [Hart.csrBit_putBit, Hart.csrBit_putCsr, if_true, if_false]
  · rw [Hart.csrBits_putBit_disjoint _ _ _ _ (by decide) (by decide) (by decide),
      Hart.csrBits_putBit_disjoint _ _ _ _ (by decide) (by decide) (by decide), Hart.csrBits_putCsr _ _ _ (by decide) (by decide),
      Nat.zero_mod]

theorem Hart.returned_getCsr (x : Hart) {m : Nat} (hm : m ≠ csrMstatus) : x.returned.getCsr m = x.getCsr m := by
  rw [Hart.getCsr_of_csr x.returned_csr, Hart.mretStatus]
  simp only [Hart.getCsr_putBit_ne _ _ _ hm, Hart.getCsr_putCsr_ne _ _ _ _ hm]

theorem Hart.Calm.returned {x : Hart} (h : x.Calm) : x.returned.Calm := 
  h.of_eq (by simp [Hart.returned, Hart.mretStatus, Hart.putBit, Hart.putCsr]) (by simp [Hart.returned, Hart.mretStatus, Hart.putBit, Hart.putCsr])
    (x.returned_getCsr (by decide))

theorem Chip.enterNext_getCsr (c : Chip) (x y : Hart) {m : Nat} (hm : m ≠ csrMworld) (ht : m ≠ csrTcsr) :
    (c.enterNext x y).getCsr m = y.getCsr m := by
  rw [Chip.enterNext, Hart.getCsr_putBit_ne _ _ _ ht, Hart.getCsr_putBit_ne _ _ _ hm, Hart.getCsr_putCsr_ne _ _ _ _ hm]

theorem Chip.gateExit_of_clears {c : Chip} {x : Hart} (hc : c.mretClears x = true) :
    c.gateExit x = (c.enterNext x x.returned).startClear := by
  rw [Chip.gateExit, if_pos hc]

theorem Chip.gateExit_of_not_clears {c : Chip} {x : Hart} (hc : c.mretClears x = false) : c.gateExit x = c.enterNext x x.returned := by
  rw [Chip.gateExit, if_neg (by simp [hc])]

theorem Chip.gateExit_getCsr (c : Chip) (x : Hart) {m : Nat} (hm : m ≠ csrMworld) (ht : m ≠ csrTcsr) :
    (c.gateExit x).getCsr m = x.returned.getCsr m := by
  rcases hc : c.mretClears x with _ | _
  · rw [Chip.gateExit_of_not_clears hc, Chip.enterNext_getCsr _ _ _ hm ht]
  · rw [Chip.gateExit_of_clears hc, Hart.getCsr_of_csr (Hart.startClear_csr _),
      Hart.getCsr_putBit_ne _ _ _ hm, Chip.enterNext_getCsr _ _ _ hm ht]

theorem Hart.Calm.enterNext {y : Hart} (h : y.Calm) (c : Chip) (x : Hart) : (c.enterNext x y).Calm :=
  ((h.putCsr _ _ _ _ (by decide)).putBit _ _ _ (by decide)).putBit _ _ _ (by decide)

theorem Hart.Calm.startClear {y : Hart} (h : y.Calm) : y.startClear.Calm := by
  have hb := h.putBit csrMworld 13 true (by decide)
  exact hb.of_csr (by simp [Hart.startClear, Hart.forget]) (by simp [Hart.startClear, Hart.forget]) y.startClear_csr

theorem Hart.Calm.gateExit {x : Hart} (h : x.Calm) (c : Chip) : (c.gateExit x).Calm := by
  have hn := h.returned.enterNext c x
  rcases hc : c.mretClears x with _ | _
  · rw [Chip.gateExit_of_not_clears hc]
    exact hn
  · rw [Chip.gateExit_of_clears hc]
    exact hn.startClear

theorem Chip.Calm.mret {c : Chip} {h : Nat} (hc : c.Calm h) (hp : (c.hart h).priv = 3) : (c.mret h).Calm h := by
  rw [Chip.mret_eq hp]
  split
  · exact Chip.Calm.setHart (Hart.Calm.returned hc)
  · exact (Chip.Calm.setHart (Hart.Calm.gateExit hc c)).haltAtGate

theorem Chip.enterNext_world (c : Chip) (x y : Hart) : (c.enterNext x y).csrBits csrMworld 3 0 = x.csrBits csrMworld 7 4
    ∧ (c.enterNext x y).csrBit csrMworld 12 = false ∧ (c.enterNext x y).csrBit csrTcsr 16 = c.guardOf (x.csrBits csrMworld 7 4) := by
  have hw : x.csrBits csrMworld 7 4 % 2 ^ (3 - 0 + 1) = x.csrBits csrMworld 7 4 := Nat.mod_eq_of_lt (Nat.mod_lt _ (by decide))
  rw [Chip.enterNext]
  refine ⟨?_, ?_, ?_⟩
  · rw [Hart.csrBits_putBit_ne _ _ _ _ _ (by decide), Hart.csrBits_putBit_disjoint _ _ _ _ (by decide) (by decide) (by decide),
      Hart.csrBits_putCsr _ _ _ (by decide) (by decide), hw]
  · simp (decide := true) only [Hart.csrBit_putBit, if_true, if_false]
  · simp (decide := true) only [Hart.csrBit_putBit, if_true, if_false]

/-- Past the gate the hart is in the world of NEXT, with FORCE_CLEAR clear and GUARD_REQ that world's (R63, R130). -/
theorem Chip.gateExit_world (c : Chip) (x : Hart) : (c.gateExit x).world = x.csrBits csrMworld 7 4 ∧ (c.gateExit x).csrBit csrMworld 12 = false
    ∧ (c.gateExit x).csrBit csrTcsr 16 = c.guardOf (x.csrBits csrMworld 7 4) := by
  obtain ⟨h1, h2, h3⟩ := c.enterNext_world x x.returned
  rcases hc : c.mretClears x with _ | _
  · rw [Chip.gateExit_of_not_clears hc]
    exact ⟨h1, h2, h3⟩
  · rw [Chip.gateExit_of_clears hc, Hart.world, Hart.csrBits_of_csr (Hart.startClear_csr _), Hart.csrBit_of_csr (Hart.startClear_csr _),
      Hart.csrBit_of_csr (Hart.startClear_csr _),
      Hart.csrBits_putBit_disjoint _ _ _ _ (by decide) (by decide) (by decide),
      Hart.csrBit_putBit _ _ _ _ _ _ (by decide) (by decide), if_neg (by decide),
      Hart.csrBit_putBit _ _ _ _ _ _ (by decide) (by decide), if_neg (by decide)]
    exact ⟨h1, h2, h3⟩

theorem exec_mret_of_free {s : State} {h : Nat} (hf : s.chip.Free h) (hp : (s.chip.hart h).priv = 3) :
    Gives (.mret h) s ((((s.chip.given h (.mret h)).mret h).leave h).finish h) := by
  have hp' : ((s.chip.given h (.mret h)).hart h).priv = 3 := by rw [Chip.hart_given]; exact hp
  have hcalm := (hf.calm_given (.mret h)).mret hp'
  refine gives_of_onChip rfl (decide_eq_true hf.hart) (Chip.issueInstr_retires hf rfl ?_ hcalm)
  rw [Chip.perform, ite_tile_of_not rfl]
  simp only [hp', if_true]

/-- A hart that MRET leaves, retired: the hart's queue is empty, and all but the counts is as MRET made it. -/
theorem hart_after {d : Chip} {h : Nat} : ∃ n, ({ (d.hart h).discard with hq := (d.hart h).hq.drop 1, younger := n } : Hart).SameButCounts
    (((d.leave h).finish h).hart h) := by
  obtain ⟨n, hn⟩ := (d.leave h).finish_same h
  rw [Chip.hart_leave] at hn
  exact ⟨n, hn⟩

-- the fields that MRET sets

theorem Hart.returned_fields (x : Hart) : x.returned.pc = x.getCsr csrMepc ∧ x.returned.priv = x.mretMode ∧ x.returned.x = x.x
    ∧ x.returned.run = x.run ∧ x.returned.haltPending = x.haltPending ∧ x.returned.hq = x.hq := by
  simp [Hart.returned, Hart.mretStatus, Hart.putBit, Hart.putCsr]

theorem Chip.enterNext_fields (c : Chip) (x y : Hart) : (c.enterNext x y).pc = y.pc ∧ (c.enterNext x y).priv = y.priv
    ∧ (c.enterNext x y).x = y.x ∧ (c.enterNext x y).run = y.run ∧ (c.enterNext x y).haltPending = y.haltPending
    ∧ (c.enterNext x y).hq = y.hq := by
  simp [Chip.enterNext, Hart.putBit, Hart.putCsr]

theorem Hart.startClear_fields (y : Hart) : y.startClear.pc = y.pc ∧ y.startClear.priv = y.priv ∧ y.startClear.x = y.x
    ∧ y.startClear.run = .clearing ∧ y.startClear.haltPending = y.haltPending ∧ y.startClear.hq = y.hq := by
  simp [Hart.startClear, Hart.forget, Hart.putBit, Hart.putCsr]

theorem Hart.halt_fields (x : Hart) (why : Nat) : (x.halt why).pc = x.pc ∧ (x.halt why).priv = x.priv ∧ (x.halt why).x = x.x
    ∧ (x.halt why).run = .halted ∧ (x.halt why).haltPending = false ∧ (x.halt why).hq = [] := by
  simp [Hart.halt, Hart.discard, Hart.putBit, Hart.putCsr]

theorem Chip.gateExit_fields (c : Chip) (x : Hart) : (c.gateExit x).pc = x.getCsr csrMepc ∧ (c.gateExit x).priv = x.mretMode
    ∧ (c.gateExit x).x = x.x ∧ (c.gateExit x).run = (if c.mretClears x then .clearing else x.run)
    ∧ (c.gateExit x).haltPending = x.haltPending ∧ (c.gateExit x).hq = x.hq := by
  have hx := x.returned_fields
  have he := c.enterNext_fields x x.returned
  rcases hc : c.mretClears x with _ | _
  · rw [Chip.gateExit_of_not_clears hc]
    simp [hx, he]
  · have hs := (c.enterNext x x.returned).startClear_fields
    rw [Chip.gateExit_of_clears hc]
    simp [hx, he, hs]

/-- The haltreq that waits takes effect at MRET (R86). -/
def Chip.mretHalts (c : Chip) (x : Hart) : Bool :=
  x.haltPending && !c.mretClears x && c.invEff (x.csrBits csrMworld 7 4)

/-- What MRET leaves a running hart as. -/
theorem Chip.mret_hart {c : Chip} {h : Nat} (hp : (c.hart h).priv = 3) (hr : (c.hart h).run = .running) :
    (c.mret h).hart h = if (c.hart h).mretMode = 3 then (c.hart h).returned
      else if c.mretHalts (c.hart h) then (c.gateExit (c.hart h)).halt 3 else c.gateExit (c.hart h) := by
  rw [Chip.mret_eq hp]
  split
  · rw [Chip.hart_setHart]
  · obtain ⟨-, -, -, hrun, hpend, -⟩ := c.gateExit_fields (c.hart h)
    obtain ⟨hworld, -, -⟩ := c.gateExit_world (c.hart h)
    split
    next hh =>
      simp only [Chip.mretHalts, Bool.and_eq_true, Bool.not_eq_true'] at hh
      obtain ⟨⟨hh, hclear⟩, hinv⟩ := hh
      rw [Chip.haltAtGate_of_halts (by rw [Chip.hart_setHart, hpend, hh]) (by rw [Chip.hart_setHart, hrun, hclear, hr]; rfl)
        (by rw [Chip.hart_setHart, hworld]; exact hinv), Chip.hart_onHart, Chip.hart_setHart]
    next hh =>
      rw [Chip.haltAtGate_of_not, Chip.hart_setHart]
      rw [Chip.hart_setHart, hpend, hrun, hworld]
      simp only [Chip.mretHalts, Bool.and_eq_true, Bool.not_eq_true', not_and, Bool.not_eq_true] at hh
      rcases hpe : (c.hart h).haltPending with _ | _
      · exact .inl rfl
      rcases hcl : c.mretClears (c.hart h) with _ | _
      · exact .inr (.inr (hh ⟨hpe, hcl⟩))
      · exact .inr (.inl rfl)

-- the end of a clear

/-- A hart with nothing waiting, and no interrupt or halt being taken, stays as it is. -/
theorem Chip.run_of_idle {c : Chip} {h : Nat} (hq : (c.hart h).hq = []) (hi : (c.hart h).irqWait = none) (hw : (c.hart h).haltWait = none) :
    c.run h = c := by
  rw [Chip.run, hq, List.length_nil, Chip.drain]
  simp [Chip.irqPoll, Chip.haltPoll, hi, hw]

/-- The hart as the end of a clear leaves it. -/
def Hart.clearEnds (x : Hart) : Hart := { x.putBit csrMworld 13 false with run := .running }

theorem Hart.clearEnds_csr (x : Hart) : x.clearEnds.csr = (x.putBit csrMworld 13 false).csr := rfl

theorem Hart.clearEnds_world (x : Hart) : x.clearEnds.world = x.world := by
  rw [Hart.world, Hart.csrBits_of_csr x.clearEnds_csr, Hart.csrBits_putBit_disjoint _ _ _ _ (by decide) (by decide) (by decide), Hart.world]

theorem Hart.clearEnds_clearing (x : Hart) : x.clearEnds.csrBit csrMworld 13 = false := by
  rw [Hart.csrBit_of_csr x.clearEnds_csr, Hart.csrBit_putBit _ _ _ _ _ _ (by decide) (by decide), if_pos ⟨rfl, rfl⟩]

theorem Hart.clearEnds_fields (x : Hart) : x.clearEnds.run = .running ∧ x.clearEnds.haltPending = x.haltPending ∧ x.clearEnds.pc = x.pc
    ∧ x.clearEnds.hq = x.hq ∧ x.clearEnds.irqWait = x.irqWait ∧ x.clearEnds.haltWait = x.haltWait := by
  simp [Hart.clearEnds, Hart.putBit, Hart.putCsr]

theorem Chip.clearDone_of_clearing {c : Chip} {h : Nat} (hr : (c.hart h).run = .clearing) :
    c.clearDone h = (c.onHart h Hart.clearEnds).haltAtGate h := by
  rw [Chip.clearDone, if_pos hr]
  rfl

theorem Chip.clearDone_of_runs {c : Chip} {h : Nat} (hr : (c.hart h).run = .clearing)
    (hn : (c.hart h).haltPending = false ∨ c.invEff (c.hart h).world = false) : c.clearDone h = c.onHart h Hart.clearEnds := by
  obtain ⟨-, hp, -⟩ := (c.hart h).clearEnds_fields
  rw [Chip.clearDone_of_clearing hr, Chip.haltAtGate_of_not]
  rw [Chip.hart_onHart, hp, Hart.clearEnds_world]
  exact hn.imp_right .inr

theorem Chip.clearDone_of_halts {c : Chip} {h : Nat} (hr : (c.hart h).run = .clearing) (hp : (c.hart h).haltPending = true)
    (hi : c.invEff (c.hart h).world = true) : (c.clearDone h).hart h = (c.hart h).clearEnds.halt 3 := by
  obtain ⟨hrun, hpend, -⟩ := (c.hart h).clearEnds_fields
  rw [Chip.clearDone_of_clearing hr, Chip.haltAtGate_of_halts (by rw [Chip.hart_onHart, hpend, hp]) (by rw [Chip.hart_onHart, hrun])
    (by rw [Chip.hart_onHart, Hart.clearEnds_world]; exact hi), Chip.hart_onHart, Chip.hart_onHart]

theorem Chip.run_of_halted {c : Chip} {h : Nat} (hr : (c.hart h).run = .halted) (hq : (c.hart h).hq = []) (hw : (c.hart h).haltWait = none) :
    c.run h = c := by
  have hirq : c.irqPoll h = c := by
    unfold Chip.irqPoll
    dsimp only
    split
    · rfl
    · rw [if_pos (by simp [hr])]
  rw [Chip.run, hq, List.length_nil, Chip.drain, hirq]
  simp [Chip.haltPoll, hw]

-- MRET as a whole

theorem Chip.hart_haltAtGate_ne (c : Chip) {h k : Nat} (hk : k ≠ h) : (c.haltAtGate h).hart k = c.hart k := by
  unfold Chip.haltAtGate
  dsimp only
  split
  · rw [Chip.hart_onHart_ne _ _ hk]
  · rfl

theorem Chip.regs_haltAtGate (c : Chip) (h : Nat) : (c.haltAtGate h).regs = c.regs := by
  unfold Chip.haltAtGate
  dsimp only
  split
  · rw [Chip.onHart_regs]
  · rfl

theorem Chip.mret_frame {c : Chip} {h : Nat} (hp : (c.hart h).priv = 3) :
    (∀ k, k ≠ h → (c.mret h).hart k = c.hart k) ∧ (c.mret h).regs = c.regs := by
  rw [Chip.mret_eq hp]
  split
  · exact ⟨fun k hk => c.hart_setHart_ne _ hk, rfl⟩
  · exact ⟨fun k hk => by rw [Chip.hart_haltAtGate_ne _ hk, c.hart_setHart_ne _ hk], by rw [Chip.regs_haltAtGate]; rfl⟩

/-- Where MRET goes, gate or no gate. -/
theorem Chip.mret_target {c : Chip} {h : Nat} (hp : (c.hart h).priv = 3) (hr : (c.hart h).run = .running) :
    ((c.mret h).hart h).pc = (c.hart h).getCsr csrMepc ∧ ((c.mret h).hart h).priv = (c.hart h).mretMode
      ∧ ((c.mret h).hart h).x = (c.hart h).x ∧ ((c.mret h).hart h).getCsr csrMstatus = (c.hart h).returned.getCsr csrMstatus
      ∧ (((c.mret h).hart h).hq = (c.hart h).hq ∨ ((c.mret h).hart h).hq = []) := by
  rw [Chip.mret_hart hp hr]
  obtain ⟨hpc, hpriv, hx, -, -, hq⟩ := (c.hart h).returned_fields
  obtain ⟨gpc, gpriv, gx, -, -, gq⟩ := c.gateExit_fields (c.hart h)
  obtain ⟨lpc, lpriv, lx, -, -, lq⟩ := (c.gateExit (c.hart h)).halt_fields 3
  split
  · exact ⟨hpc, hpriv, hx, rfl, .inl hq⟩
  · split
    · exact ⟨lpc.trans gpc, lpriv.trans gpriv, lx.trans gx, by
        rw [Hart.getCsr_halt_ne _ _ (by decide) (by decide), Chip.gateExit_getCsr _ _ (by decide) (by decide)], .inr lq⟩
    · exact ⟨gpc, gpriv, gx, c.gateExit_getCsr _ (by decide) (by decide), .inl gq⟩

/-- Where MRET leaves M-mode, the hart is in the world of NEXT past the gate, halted or not. -/
theorem Chip.mret_gate {c : Chip} {h : Nat} (hp : (c.hart h).priv = 3) (hr : (c.hart h).run = .running) (hm : (c.hart h).mretMode ≠ 3) :
    ((c.mret h).hart h).world = (c.hart h).csrBits csrMworld 7 4 ∧ ((c.mret h).hart h).csrBit csrMworld 12 = false
      ∧ ((c.mret h).hart h).csrBit csrTcsr 16 = c.guardOf ((c.hart h).csrBits csrMworld 7 4) := by
  rw [Chip.mret_hart hp hr, if_neg hm]
  have hworld := c.gateExit_world (c.hart h)
  split
  · rw [Hart.world, Hart.csrBits, Hart.csrBit, Hart.csrBit, Hart.getCsr_halt_ne _ _ (by decide) (by decide),
      Hart.getCsr_halt_ne _ _ (by decide) (by decide)]
    exact hworld
  · exact hworld

theorem Chip.mret_clears {c : Chip} {h : Nat} (hp : (c.hart h).priv = 3) (hr : (c.hart h).run = .running) (hm : (c.hart h).mretMode ≠ 3)
    (hc : c.mretClears (c.hart h) = true) : (c.mret h).hart h = (c.enterNext (c.hart h) (c.hart h).returned).startClear := by
  rw [Chip.mret_hart hp hr, if_neg hm, if_neg (by simp [Chip.mretHalts, hc]), Chip.gateExit_of_clears hc]

theorem Chip.mret_run {c : Chip} {h : Nat} (hp : (c.hart h).priv = 3) (hr : (c.hart h).run = .running) (hm : (c.hart h).mretMode ≠ 3)
    (hc : c.mretClears (c.hart h) = false) : ((c.mret h).hart h).run = if c.mretHalts (c.hart h) then .halted else .running := by
  obtain ⟨-, -, -, grun, -⟩ := c.gateExit_fields (c.hart h)
  obtain ⟨-, -, -, lrun, -⟩ := (c.gateExit (c.hart h)).halt_fields 3
  rw [Chip.mret_hart hp hr, if_neg hm]
  split
  · exact lrun
  · rw [grun, hc, hr]
    rfl

/-- The fields of a hart after an instruction that made it `z`, which has left it and retired. -/
theorem Chip.hart_after_fields {d : Chip} {h : Nat} {z : Hart} (hz : d.hart h = z) (hq : z.hq.length ≤ 1) :
    let y := ((d.leave h).finish h).hart h
    y.pc = z.pc ∧ y.priv = z.priv ∧ y.x = z.x ∧ y.run = z.run ∧ y.hq = [] ∧ y.pred = z.pred ∧ y.l1dStreams = z.l1dStreams
      ∧ y.l2Streams = z.l2Streams ∧ (∀ m, ¬ Counted m → y.getCsr m = z.getCsr m) := by
  subst hz
  obtain ⟨n, hcsr, hrest⟩ := hart_after (d := d) (h := h)
  have hdrop : (d.hart h).hq.drop 1 = [] := List.drop_eq_nil_of_le hq
  exact ⟨(congrArg Hart.pc hrest :), (congrArg Hart.priv hrest :), (congrArg Hart.x hrest :), (congrArg Hart.run hrest :),
    (congrArg Hart.hq hrest :).trans hdrop, (congrArg Hart.pred hrest :), (congrArg Hart.l1dStreams hrest :),
    (congrArg Hart.l2Streams hrest :), fun m hm => (hcsr m hm).trans (Hart.getCsr_of_csr rfl m)⟩

/-- MRET from M-mode (R63, R70, R86, R130): where the hart goes, and as what. -/
theorem Chip.mret_after {c : Chip} {h : Nat} (hf : c.Free h) (hp : (c.hart h).priv = 3) :
    let x := c.hart h
    let w := x.csrBits csrMworld 7 4
    let y := ((((c.given h (.mret h)).mret h).leave h).finish h).hart h
    y.pc = x.getCsr csrMepc ∧ y.priv = x.mretMode ∧ y.x = x.x ∧ y.hq = []
      ∧ y.csrBit csrMstatus 3 = x.csrBit csrMstatus 7 ∧ y.csrBit csrMstatus 7 = true ∧ y.csrBits csrMstatus 12 11 = 0
      ∧ (x.mretMode = 3 → y.world = x.world ∧ y.run = .running)
      ∧ (x.mretMode ≠ 3 → y.world = w ∧ y.csrBit csrMworld 12 = false ∧ y.csrBit csrTcsr 16 = c.guardOf w
        ∧ (c.mretClears x = true → y.run = .clearing ∧ y.csrBit csrMworld 13 = true ∧ y.pred = Predictors.reset ∧ y.l1dStreams = []
          ∧ y.l2Streams = [])
        ∧ (c.mretClears x = false → y.run = if c.mretHalts x then .halted else .running)) := by
  intro x w y
  obtain ⟨b, hb⟩ : ∃ b, b = c.given h (.mret h) := ⟨_, rfl⟩
  have hbx : b.hart h = { x with hq := [.mret h] } := by rw [hb, Chip.hart_given]
  have hcsr : (b.hart h).csr = x.csr := by rw [hbx]
  have hp' : (b.hart h).priv = 3 := by rw [hbx]; exact hp
  have hr' : (b.hart h).run = .running := by rw [hbx]; exact hf.run
  have hmode : (b.hart h).mretMode = x.mretMode := by rw [Hart.mretMode, Hart.csrBits_of_csr hcsr, Hart.mretMode]
  have hw : (b.hart h).csrBits csrMworld 7 4 = w := Hart.csrBits_of_csr hcsr _ _ _
  have hclears : b.mretClears (b.hart h) = c.mretClears x := by
    rw [Chip.mretClears, Hart.csrBit_of_csr hcsr, hw, Hart.world, Hart.csrBits_of_csr hcsr, hb]
    rfl
  have hhalts : b.mretHalts (b.hart h) = c.mretHalts x := by
    rw [Chip.mretHalts, hclears, hw, show (b.hart h).haltPending = x.haltPending by rw [hbx], hb]
    rfl
  obtain ⟨tpc, tpriv, tx, tstatus, tq⟩ := Chip.mret_target hp' hr'
  have hq : ((b.mret h).hart h).hq.length ≤ 1 := by
    rcases tq with tq | tq
    · rw [tq, hbx]; exact le_rfl
    · rw [tq]; exact Nat.zero_le _
  obtain ⟨ypc, ypriv, yx, yrun, yq, ypred, yl1, yl2, ycsr⟩ := Chip.hart_after_fields rfl hq
  obtain ⟨m3, m7, m12⟩ := (b.hart h).returned_mstatus
  have ystatus := (ycsr csrMstatus not_counted_mstatus).trans tstatus
  have yworld := ycsr csrMworld not_counted_mworld
  have ytcsr := ycsr csrTcsr not_counted_tcsr
  have hy : (((b.mret h).leave h).finish h).hart h = y := by rw [hb]
  rw [hy] at ypc ypriv yx yrun yq ypred yl1 yl2 ystatus yworld ytcsr
  clear_value y
  refine ⟨ypc.trans (tpc.trans (Hart.getCsr_of_csr hcsr _)), (ypriv.trans tpriv).trans hmode, (yx.trans tx).trans (by rw [hbx]), yq,
    ?_, ?_, ?_, fun hm => ⟨?_, ?_⟩, fun hm => ?_⟩
  · rw [Hart.csrBit, ystatus]
    exact m3.trans (Hart.csrBit_of_csr hcsr _ _)
  · rw [Hart.csrBit, ystatus]
    exact m7
  · rw [Hart.csrBits, ystatus]
    exact m12
  · rw [Hart.world, Hart.csrBits, yworld, Chip.mret_hart hp' hr', if_pos (hmode.trans hm), Hart.returned_getCsr _ (by decide)]
    exact Hart.csrBits_of_csr hcsr _ _ _
  · rw [yrun, Chip.mret_hart hp' hr', if_pos (hmode.trans hm)]
    exact (b.hart h).returned_fields.2.2.2.1.trans hr'
  · have hm' : (b.hart h).mretMode ≠ 3 := by rwa [hmode]
    obtain ⟨gw, g12, g16⟩ := Chip.mret_gate hp' hr' hm'
    refine ⟨?_, ?_, ?_, fun hc => ?_, fun hc => ?_⟩
    · rw [Hart.world, Hart.csrBits, yworld]
      exact gw.trans hw
    · rw [Hart.csrBit, yworld]
      exact g12
    · rw [Hart.csrBit, ytcsr]
      refine g16.trans ?_
      rw [hw, hb]
      rfl
    · have hz := Chip.mret_clears hp' hr' hm' (hclears.trans hc)
      rw [hz] at yrun ypred yl1 yl2 yworld
      refine ⟨yrun, ?_, ypred, yl1, yl2⟩
      rw [Hart.csrBit, yworld]
      refine (Hart.csrBit_of_csr (Hart.startClear_csr _) csrMworld 13).trans ?_
      rw [Hart.csrBit_putBit _ _ _ _ _ _ (by decide) (by decide), if_pos ⟨rfl, rfl⟩]
    · rw [yrun, Chip.mret_run hp' hr' hm' (hclears.trans hc), hhalts]

theorem Chip.mret_after_frame {c : Chip} {h : Nat} (hp : (c.hart h).priv = 3) :
    let d := (((c.given h (.mret h)).mret h).leave h).finish h
    (∀ k, k ≠ h → d.hart k = c.hart k) ∧ d.regs = c.regs := by
  have hp' : ((c.given h (.mret h)).hart h).priv = 3 := by rw [Chip.hart_given]; exact hp
  obtain ⟨fhart, fregs⟩ := Chip.mret_frame hp'
  refine ⟨fun k hk => ?_, ?_⟩
  · rw [Chip.hart_finish_ne _ hk, Chip.hart_leave_ne _ hk, fhart k hk, Chip.given, Chip.hart_onHart_ne _ _ hk]
  · rw [Chip.regs_finish, Chip.regs_leave, fregs]
    rfl

/-- Settles O10: what the return, the gate and the end of a clear each do to the hart. -/
theorem returnFromM : Obligations.ReturnFromM := by
  unfold Obligations.ReturnFromM
  refine ⟨fun s h hf hp => exec_mret_of_free hf hp, fun s h hf hp => ?_, fun s h hf hp => ?_, fun s h hh hr => ⟨?_, ?_⟩,
    fun s h hh hr hq hi hw => ?_⟩
  · intro x mpp w clears
    obtain ⟨fhart, fregs⟩ := Chip.mret_after_frame hp
    obtain ⟨ypc, ypriv, yx, yq, y3, y7, y12, hin, hout⟩ := Chip.mret_after hf hp
    have hmode : mpp ≠ 3 → x.mretMode ≠ 3 := fun hm => by
      rw [Hart.mretMode]
      split
      · decide
      · exact hm
    have hthree : mpp = 3 → x.mretMode = 3 := fun hm => by
      rw [Hart.mretMode, if_neg (fun h2 : mpp = 2 => by omega)]
      exact hm
    refine ⟨_, exec_mret_of_free hf hp, ?_⟩
    dsimp only
    refine ⟨fhart, fregs, ypc, ypriv, yx, yq, y3, y7, y12, fun hm => hin (hthree hm), fun hm => ?_⟩
    obtain ⟨yw, yf, yg, yc, yr⟩ := hout (hmode hm)
    refine ⟨yw, yf, yg, yc, fun hc hn => (yr hc).trans ?_, fun hc hpe hi => (yr hc).trans ?_⟩
    · rw [if_neg]
      simp only [Chip.mretHalts, Bool.and_eq_true, not_and, Bool.not_eq_true]
      rcases hn with hn | hn
      · exact fun hh => absurd hh.1 (by simp [x, hn])
      · exact fun _ => hn
    · rw [if_pos]
      simp only [Chip.mretHalts, Bool.and_eq_true, Bool.not_eq_true']
      exact ⟨⟨hpe, hc⟩, hi⟩
  · have hp' : ((s.chip.given h (.mret h)).hart h).priv ≠ 3 := by rw [Chip.hart_given]; exact Nat.ne_of_lt hp
    refine gives_of_onChip rfl (decide_eq_true hf.hart) (Chip.issueInstr_of_ended hf ?_ ((hf.calm_given _).except 2 0x30200073))
    rw [Chip.perform, ite_tile_of_not rfl]
    simp only [hp', if_false, Chip.mret, ne_eq, not_false_eq_true, if_true]
  · intro hn
    have hexec : Gives (.predictorClearDone h) s ((s.chip.onHart h Hart.clearEnds).run h) :=
      gives_of_onChip rfl (decide_eq_true hh) (by rw [Chip.clearDone_of_runs hr hn])
    refine ⟨hexec, fun hq hi hw => ?_⟩
    obtain ⟨hrun, -, -, hq', hi', hw'⟩ := (s.chip.hart h).clearEnds_fields
    have hidle : (s.chip.onHart h Hart.clearEnds).run h = s.chip.onHart h Hart.clearEnds :=
      Chip.run_of_idle (by rw [Chip.hart_onHart, hq', hq]) (by rw [Chip.hart_onHart, hi', hi]) (by rw [Chip.hart_onHart, hw', hw])
    rw [hidle] at hexec
    refine ⟨_, hexec, rfl, ?_, ?_, ?_⟩
    · exact (congrArg Hart.run (s.chip.hart_onHart h Hart.clearEnds)).trans hrun
    · exact (congrArg (fun y : Hart => y.csrBit csrMworld 13) (s.chip.hart_onHart h Hart.clearEnds)).trans (Hart.clearEnds_clearing _)
    · exact (congrArg Hart.world (s.chip.hart_onHart h Hart.clearEnds)).trans (Hart.clearEnds_world _)
  · intro hp hi
    have hart := Chip.clearDone_of_halts hr hp hi
    obtain ⟨-, -, -, hrun, hpend, hq⟩ := (s.chip.hart h).clearEnds.halt_fields 3
    have hw : ((s.chip.hart h).clearEnds.halt 3).haltWait = none := by simp [Hart.halt]
    have hrest : (s.chip.clearDone h).run h = s.chip.clearDone h :=
      Chip.run_of_halted (by rw [hart, hrun]) (by rw [hart, hq]) (by rw [hart, hw])
    have hexec : Gives (.predictorClearDone h) s (s.chip.clearDone h) := gives_of_onChip rfl (decide_eq_true hh) hrest
    obtain ⟨-, -, hpc, -⟩ := (s.chip.hart h).clearEnds_fields
    refine ⟨_, hexec, ?_, ?_, ?_⟩
    · exact (congrArg Hart.run hart).trans hrun
    · exact (congrArg (fun y : Hart => y.getCsr csrDpc) hart).trans ((Hart.getCsr_dpc_halt _ _).trans hpc)
    · exact (congrArg Hart.haltPending hart).trans hpend
  · refine gives_of_onChip rfl (decide_eq_true hh) ?_
    rw [Chip.clearDone, if_neg (by simp [hr]), Chip.run_of_idle hq hi hw]

end Sys2Proof.Machine
end

section
/-! Tile instructions from register to register, at a hart whose tile unit has room (R96 to R111, R116). -/

namespace Sys2Proof.Machine

-- what tile instructions write keeps a hart calm

theorem Hart.Calm.putTile {x : Hart} (h : x.Calm) (t : Nat) (v : Tile) (ung : Bool) : (x.putTile t v ung).Calm :=
  (h.putBit csrTcsr (4 + t) ung (by decide)).of_csr (by simp [Hart.putTile]) (by simp [Hart.putTile]) (by simp [Hart.putTile])

theorem Hart.Calm.putAcc {x : Hart} (h : x.Calm) (a : Nat) (v : TAcc) : (x.putAcc a v).Calm := h.of_csr rfl rfl rfl

theorem Hart.Calm.putSuspect {x : Hart} (h : x.Calm) (a : Nat) (b : Bool) : (x.putBit csrTcsr (12 + a) b).Calm := h.putBit _ _ _ (by decide)

theorem Chip.Calm.tileSent {c : Chip} {h : Nat} (hc : c.Calm h) (k n : Nat) : (c.tileSent k n).Calm h :=
  hc.onHart (f := fun x => { x with tsent := x.tsent ++ [n] }) (fun _ hx => hx) k

theorem Chip.Calm.tileFail {c : Chip} {h : Nat} (hc : c.Calm h) (fs : List TFail) (suspect : List Nat) (v : Word) :
    (c.tileFail h fs suspect v).Calm h := by
  unfold Chip.tileFail
  extract_lets w integrity d c1 c2
  have h1 : c1.Calm h := hc.onHart (fun x hx => Hart.Calm.dirtyXs
    (foldl_keeps (P := Hart.Calm) (fun y a hy => hy.putSuspect a true) suspect (hx.setCsr csrTfault _ (by decide)))) h
  clear_value c1
  have h2 : c2.Calm h := h1.of_harts (by simp only [c2]; rw [Chip.report_frame])
  exact h2.except _ _

-- an instruction at a tile unit with room

theorem encR_ne_zero (a b c d e : Nat) {op : Nat} (h : 0 < op) : encR a b c d e op ≠ 0 := by
  unfold encR
  omega

/-- A tile instruction does not retire as it leaves its hart: the unit completes it. -/
theorem retiresNow_of_tileBits {i : Instr} (h : i.tileBits ≠ 0) : retiresNow i = false := by
  unfold retiresNow
  split
  · rfl
  · simp [isTile, h]

theorem Chip.TileFree.room_given {c : Chip} {h : Nat} (hf : c.TileFree h) {i : Instr} (hs : isSave i = false) :
    ¬(isTile i ∧ (8 ≤ ((c.given h i).hart h).tsent.length ∨ ((c.given h i).hart h).younger ≠ 0
      ∨ (isSave i ∧ ((c.given h i).hart h).tsent ≠ []))) := by
  have hroom := hf.room
  have hold := hf.older
  rw [Chip.hart_given]
  simp only [hs, hold]
  simp
  omega

theorem Chip.TileFree.on_given {c : Chip} {h : Nat} (hf : c.TileFree h) (i : Instr) : ((c.given h i).hart h).tileOn = true := by
  rw [Chip.hart_given]
  exact hf.on

theorem Chip.tileReg_of_done {c : Chip} {h : Nat} {i : Instr} {f : Hart → TOut} {y : Hart} (hon : (c.hart h).tileOn = true)
    (hf : f (c.hart h) = .done y) : c.tileReg h i f = ((c.setHart h y).tileSent h ((c.hart h).tileSteps i), .done) := by
  simp [Chip.tileReg, Chip.tileRun, hon, hf]

theorem Chip.tileReg_of_illegal {c : Chip} {h : Nat} {i : Instr} {f : Hart → TOut} (hon : (c.hart h).tileOn = true)
    (hf : f (c.hart h) = .illegal) : c.tileReg h i f = (c.except h 2 (BitVec.ofNat 64 i.tileBits), .ended) := by
  simp [Chip.tileReg, Chip.tileRun, hon, hf]

theorem Chip.tileReg_of_fail {c : Chip} {h : Nat} {i : Instr} {f : Hart → TOut} {fs : List TFail} {l : List Nat}
    (hon : (c.hart h).tileOn = true) (hf : f (c.hart h) = .fail fs l) : c.tileReg h i f = (c.tileFail h fs l 0, .ended) := by
  simp [Chip.tileReg, Chip.tileRun, hon, hf]

section
variable {c : Chip} {h : Nat} {i : Instr} {f : Hart → TOut} (hf : c.TileFree h)
  (hp : (c.given h i).perform h i = (c.given h i).tileReg h i f)
include hf hp

/-- A register-to-register tile instruction completes in the unit, and leaves the hart's queue. -/
theorem Chip.issueInstr_tile_done (ht : retiresNow i = false) {y : Hart} (hd : f ((c.given h i).hart h) = .done y) (hy : y.Calm) :
    c.issueInstr h i = (((c.given h i).setHart h y).tileSent h (((c.given h i).hart h).tileSteps i)).leave h :=
  Chip.issueInstr_leaves hf.free ht (hp.trans (Chip.tileReg_of_done (hf.on_given i) hd)) ((Chip.Calm.setHart hy).tileSent h _)

/-- A register-to-register tile instruction with a configuration or operand that is not allowed. -/
theorem Chip.issueInstr_tile_illegal (hd : f ((c.given h i).hart h) = .illegal) :
    c.issueInstr h i = (c.given h i).except h 2 (BitVec.ofNat 64 i.tileBits) :=
  Chip.issueInstr_of_ended hf.free (hp.trans (Chip.tileReg_of_illegal (hf.on_given i) hd)) ((hf.free.calm_given i).except _ _)

theorem Chip.issueInstr_tile_fail {fs : List TFail} {l : List Nat} (hd : f ((c.given h i).hart h) = .fail fs l) :
    c.issueInstr h i = (c.given h i).tileFail h fs l 0 :=
  Chip.issueInstr_of_ended hf.free (hp.trans (Chip.tileReg_of_fail (hf.on_given i) hd)) ((hf.free.calm_given i).tileFail _ _ _)

end

/-- Settles O18: the four instructions, each as its function from register to register says. -/
theorem tileConfigure : Obligations.TileConfigure := by
  unfold Obligations.TileConfigure
  refine ⟨fun s h t r hf ht hr => ⟨fun hv => ?_, fun hv => ?_⟩, fun s h a r hf ha hr => ⟨fun hv => ?_, fun hv => ?_⟩,
    fun s h t hf ht => ?_, fun s h a hf ha => ?_⟩
  · have hp : (s.chip.given h (.tcfgTile h t r)).perform h (.tcfgTile h t r)
        = (s.chip.given h (.tcfgTile h t r)).tileReg h (.tcfgTile h t r) (fun x => tcfgTile x t (x.xr r)) := by
      rw [Chip.perform, if_neg (hf.room_given rfl)]
    exact gives_of_onChip rfl (by simp [hf.free.hart, ht, hr])
      (Chip.issueInstr_tile_done hf hp (retiresNow_of_tileBits (encR_ne_zero _ _ _ _ _ (by decide)))
      (if_pos hv) ((hf.free.calm_given _).putTile _ _ _).dirtyXs)
  · have hp : (s.chip.given h (.tcfgTile h t r)).perform h (.tcfgTile h t r)
        = (s.chip.given h (.tcfgTile h t r)).tileReg h (.tcfgTile h t r) (fun x => tcfgTile x t (x.xr r)) := by
      rw [Chip.perform, if_neg (hf.room_given rfl)]
    exact gives_of_onChip rfl (by simp [hf.free.hart, ht, hr]) (Chip.issueInstr_tile_illegal hf hp (if_neg (Bool.eq_false_iff.mp hv)))
  · have hp : (s.chip.given h (.tcfgAcc h a r)).perform h (.tcfgAcc h a r)
        = (s.chip.given h (.tcfgAcc h a r)).tileReg h (.tcfgAcc h a r) (fun x => tcfgAcc x a (x.xr r)) := by
      rw [Chip.perform, if_neg (hf.room_given rfl)]
    exact gives_of_onChip rfl (by simp [hf.free.hart, ha, hr])
      (Chip.issueInstr_tile_done hf hp (retiresNow_of_tileBits (encR_ne_zero _ _ _ _ _ (by decide)))
      (if_pos hv) (((hf.free.calm_given _).putAcc _ _).putSuspect a false).dirtyXs)
  · have hp : (s.chip.given h (.tcfgAcc h a r)).perform h (.tcfgAcc h a r)
        = (s.chip.given h (.tcfgAcc h a r)).tileReg h (.tcfgAcc h a r) (fun x => tcfgAcc x a (x.xr r)) := by
      rw [Chip.perform, if_neg (hf.room_given rfl)]
    exact gives_of_onChip rfl (by simp [hf.free.hart, ha, hr]) (Chip.issueInstr_tile_illegal hf hp (if_neg (Bool.eq_false_iff.mp hv)))
  · have hp : (s.chip.given h (.tzeroTile h t)).perform h (.tzeroTile h t)
        = (s.chip.given h (.tzeroTile h t)).tileReg h (.tzeroTile h t) (fun x => tzeroTile x t) := by
      rw [Chip.perform, if_neg (hf.room_given rfl)]
    exact gives_of_onChip rfl (by simp [hf.free.hart, ht])
      (Chip.issueInstr_tile_done hf hp (retiresNow_of_tileBits (encR_ne_zero _ _ _ _ _ (by decide)))
      rfl ((hf.free.calm_given _).putTile _ _ _).dirtyXs)
  · have hp : (s.chip.given h (.tzeroAcc h a)).perform h (.tzeroAcc h a)
        = (s.chip.given h (.tzeroAcc h a)).tileReg h (.tzeroAcc h a) (fun x => tzeroAcc x a) := by
      rw [Chip.perform, if_neg (hf.room_given rfl)]
    exact gives_of_onChip rfl (by simp [hf.free.hart, ha])
      (Chip.issueInstr_tile_done hf hp (retiresNow_of_tileBits (encR_ne_zero _ _ _ _ _ (by decide)))
      rfl (((hf.free.calm_given _).putAcc _ _).putSuspect a false).dirtyXs)

-- checks and sums

theorem tchkTile_of_none {x : Hart} {t : Nat} (h : (x.tileAt t).check t 7 true = none) : tchkTile x t = .done x := by rw [tchkTile, h]
theorem tchkTile_of_some {x : Hart} {t : Nat} {f : TFail} (h : (x.tileAt t).check t 7 true = some f) : tchkTile x t = .fail [f] [] := by
  rw [tchkTile, h]
theorem tchkAcc_of_none {x : Hart} {a : Nat} (h : (x.accAt a).check (8 + a) 7 = none) : tchkAcc x a = .done x := by rw [tchkAcc, h]
theorem tchkAcc_of_some {x : Hart} {a : Nat} {f : TFail} (h : (x.accAt a).check (8 + a) 7 = some f) : tchkAcc x a = .fail [f] [] := by
  rw [tchkAcc, h]

theorem tsums_of_some {x : Hart} {rd : Nat} {v : Option Word} {w : Word} (h : v = some w) : tsums x rd v = .done (x.setX rd w) := by
  subst h
  rfl

/-- TSUMS of the selector 64 reads the configuration word. -/
theorem tsumsTileVal_cfg (t : Tile) : tsumsTileVal t (64#64).toNat = some t.cfg := by
  rw [show (64#64).toNat = 64 by decide, tsumsTileVal, if_pos rfl]

theorem toNat_ofNat_of_lt {n : Nat} (h : n < 128) : (BitVec.ofNat 64 n).toNat = n := by
  rw [BitVec.toNat_ofNat, Nat.mod_eq_of_lt (by omega)]

/-- TSUMS of a row in range reads its margin sum (R111). -/
theorem tsumsTileVal_row {t : Tile} {j : Nat} (hj : j < 32) (hw : t.word ≠ 0) (hr : j < cfgRows t.word) :
    tsumsTileVal t (BitVec.ofNat 64 j).toNat = some (BitVec.ofInt 64 (sget 0 j t.rowSum)) := by
  rw [toNat_ofNat_of_lt (by omega), tsumsTileVal, if_neg (by omega), if_neg (by omega), if_neg hw, if_pos hj, if_pos hr]

theorem tsumsAccVal_col {a : TAcc} {j : Nat} (hj : j < 32) (hw : a.word ≠ 0) (hc : j < cfgCols a.word) :
    tsumsAccVal a (BitVec.ofNat 64 (32 + j)).toNat = some (BitVec.ofNat 64 (sget 0 j a.colSum)) := by
  rw [toNat_ofNat_of_lt (by omega), tsumsAccVal, if_neg (by omega), if_neg (by omega), Nat.add_sub_cancel_left, if_pos ⟨hw, hc⟩]

/-- Settles O19: the operand check decides TCHK, and TSUMS reads the configuration word or a sum in range. -/
theorem tileCheckAndSums : Obligations.TileCheckAndSums := by
  unfold Obligations.TileCheckAndSums
  refine ⟨fun s h t hf ht => ⟨fun hc => ?_, fun f hc => ?_⟩, fun s h a hf ha => ⟨fun hc => ?_, fun f hc => ?_⟩,
    fun s h rd t r hf hd ht hr => ⟨fun hx => ?_, fun j hj hx hw hj' => ?_⟩, fun s h rd a r j hf hd ha hr => fun hj hx hw hj' => ?_⟩
  · have hp : (s.chip.given h (.tchkTile h t)).perform h (.tchkTile h t)
        = (s.chip.given h (.tchkTile h t)).tileReg h (.tchkTile h t) (fun x => tchkTile x t) := by
      rw [Chip.perform, if_neg (hf.room_given rfl)]
    exact gives_of_onChip rfl (by simp [hf.free.hart, ht])
      (Chip.issueInstr_tile_done hf hp (retiresNow_of_tileBits (encR_ne_zero _ _ _ _ _ (by decide)))
      (tchkTile_of_none hc) (hf.free.calm_given _))
  · have hp : (s.chip.given h (.tchkTile h t)).perform h (.tchkTile h t)
        = (s.chip.given h (.tchkTile h t)).tileReg h (.tchkTile h t) (fun x => tchkTile x t) := by
      rw [Chip.perform, if_neg (hf.room_given rfl)]
    exact gives_of_onChip rfl (by simp [hf.free.hart, ht]) (Chip.issueInstr_tile_fail hf hp (tchkTile_of_some hc))
  · have hp : (s.chip.given h (.tchkAcc h a)).perform h (.tchkAcc h a)
        = (s.chip.given h (.tchkAcc h a)).tileReg h (.tchkAcc h a) (fun x => tchkAcc x a) := by
      rw [Chip.perform, if_neg (hf.room_given rfl)]
    exact gives_of_onChip rfl (by simp [hf.free.hart, ha])
      (Chip.issueInstr_tile_done hf hp (retiresNow_of_tileBits (encR_ne_zero _ _ _ _ _ (by decide)))
      (tchkAcc_of_none hc) (hf.free.calm_given _))
  · have hp : (s.chip.given h (.tchkAcc h a)).perform h (.tchkAcc h a)
        = (s.chip.given h (.tchkAcc h a)).tileReg h (.tchkAcc h a) (fun x => tchkAcc x a) := by
      rw [Chip.perform, if_neg (hf.room_given rfl)]
    exact gives_of_onChip rfl (by simp [hf.free.hart, ha]) (Chip.issueInstr_tile_fail hf hp (tchkAcc_of_some hc))
  · have hp : (s.chip.given h (.tsumsTile h rd t r)).perform h (.tsumsTile h rd t r)
        = (s.chip.given h (.tsumsTile h rd t r)).tileReg h (.tsumsTile h rd t r) (fun x => tsums x rd (tsumsTileVal (x.tileAt t) (x.xr r).toNat)) := by
      rw [Chip.perform, if_neg (hf.room_given rfl)]
    exact gives_of_onChip rfl (by simp [hf.free.hart, hd, ht, hr])
      (Chip.issueInstr_tile_done hf hp (retiresNow_of_tileBits (encR_ne_zero _ _ _ _ _ (by decide)))
      (tsums_of_some (by rw [hx]; exact tsumsTileVal_cfg _)) ((hf.free.calm_given _).setX rd _))
  · have hp : (s.chip.given h (.tsumsTile h rd t r)).perform h (.tsumsTile h rd t r)
        = (s.chip.given h (.tsumsTile h rd t r)).tileReg h (.tsumsTile h rd t r) (fun x => tsums x rd (tsumsTileVal (x.tileAt t) (x.xr r).toNat)) := by
      rw [Chip.perform, if_neg (hf.room_given rfl)]
    exact gives_of_onChip rfl (by simp [hf.free.hart, hd, ht, hr])
      (Chip.issueInstr_tile_done hf hp (retiresNow_of_tileBits (encR_ne_zero _ _ _ _ _ (by decide)))
      (tsums_of_some (by rw [hx]; exact tsumsTileVal_row hj hw hj')) ((hf.free.calm_given _).setX rd _))
  · have hp : (s.chip.given h (.tsumsAcc h rd a r)).perform h (.tsumsAcc h rd a r)
        = (s.chip.given h (.tsumsAcc h rd a r)).tileReg h (.tsumsAcc h rd a r) (fun x => tsums x rd (tsumsAccVal (x.accAt a) (x.xr r).toNat)) := by
      rw [Chip.perform, if_neg (hf.room_given rfl)]
    exact gives_of_onChip rfl (by simp [hf.free.hart, hd, ha, hr])
      (Chip.issueInstr_tile_done hf hp (retiresNow_of_tileBits (encR_ne_zero _ _ _ _ _ (by decide)))
      (tsums_of_some (by rw [hx]; exact tsumsAccVal_col hj hw hj')) ((hf.free.calm_given _).setX rd _))

end Sys2Proof.Machine
end

section
/-! The contents and the check data of tile registers and accumulators (R89, R131, R132), and the sums of a matrix product (R101, R136). -/

namespace Sys2Proof.Machine

-- sparse maps of a function

/-- The entries of f at listed keys read as f there. -/
theorem sget_filterMap {V : Type} [DecidableEq V] (d : V) (f : Nat → V) (l : List Nat) (k : Nat) :
    sget d k (l.filterMap (fun i => if f i = d then none else some (i, f i))) = if k ∈ l then f k else d := by
  induction l with
  | nil => rfl
  | cons i l ih =>
    by_cases hi : f i = d
    · rw [List.filterMap_cons_none (by simp [hi]), ih]
      by_cases hk : k = i
      · subst hk
        simp [hi]
      · simp [hk]
    · rw [List.filterMap_cons_some (by rw [if_neg hi]), sget, ih]
      by_cases hk : i = k
      · simp [hk]
      · simp [hk, Ne.symm hk]

theorem sget_mkMap {V : Type} [DecidableEq V] (d : V) (f : Nat → V) {k : Nat} (hk : k < 32) : sget d k (mkMap d f) = f k := by
  rw [mkMap, sget_filterMap, if_pos (List.mem_range.mpr hk)]

theorem cfgRows_le (w : Nat) : cfgRows w ≤ 32 := by
  unfold cfgRows
  omega

theorem cfgCols_le (w : Nat) : cfgCols w ≤ 32 := by
  unfold cfgCols
  omega

/-- Contents made of f read as f inside the shape, and as zero outside it (R89). -/
theorem elAt_mkEl {cfg : Nat} (hk : cfgKind cfg ≠ 0) (f : Nat → Nat → Nat) {i j : Nat} (hi : i < 32) (hj : j < 32) :
    elAt (mkEl cfg f) i j = if i < cfgRows cfg ∧ j < cfgCols cfg then f i j else 0 := by
  rw [elAt, mkEl, if_neg hk]
  have h := sget_filterMap 0 (fun k => if k / 32 < cfgRows cfg ∧ k % 32 < cfgCols cfg then f (k / 32) (k % 32) else 0) (List.range 1024)
    (32 * i + j)
  rw [show (32 * i + j) / 32 = i by omega, show (32 * i + j) % 32 = j by omega, if_pos (List.mem_range.mpr (by omega))] at h
  exact h

-- healthy registers

section
variable {t : Tile} (h : t.Healthy)
include h

theorem Tile.Healthy.el_eq : t.el = mkEl t.word (elAt t.el) := congrArg Tile.el h
theorem Tile.Healthy.rowSum_eq {i : Nat} (hi : i < 32) : sget 0 i t.rowSum = rowSumOf t.word t.el i := by
  have hs := congrArg Tile.rowSum h
  rw [hs]
  exact (sget_mkMap 0 _ hi).trans (by rw [← h.el_eq])
theorem Tile.Healthy.colSum_eq {j : Nat} (hj : j < 32) : sget 0 j t.colSum = colSumOf t.word t.el j := by
  have hs := congrArg Tile.colSum h
  rw [hs]
  exact (sget_mkMap 0 _ hj).trans (by rw [← h.el_eq])
theorem Tile.Healthy.lane_eq {j : Nat} (hj : j < 32) : sget 0 j t.lane = laneOf t.word t.el j := by
  have hs := congrArg Tile.lane h
  rw [hs]
  exact (sget_mkMap 0 _ hj).trans (by rw [← h.el_eq])

/-- A healthy tile register passes its check (R135). -/
theorem Tile.Healthy.check_eq_none (reg kind : Nat) (lanes : Bool) : t.check reg kind lanes = none := by
  have hcol : (List.range 32).find? (fun j => sget 0 j t.colSum != colSumOf t.word t.el j
      || (lanes && sget 0 j t.lane != laneOf t.word t.el j)) = none := by
    rw [List.find?_eq_none]
    intro j hj
    have hj := List.mem_range.mp hj
    simp [h.colSum_eq hj, h.lane_eq hj]
  have hrow : (List.range 32).find? (fun i => sget 0 i t.rowSum != rowSumOf t.word t.el i) = none := by
    rw [List.find?_eq_none]
    intro i hi
    simp [h.rowSum_eq (List.mem_range.mp hi)]
  simp only [Tile.check, hcol, hrow, Option.map_none]

theorem Tile.Healthy.elAt_outside (hk : cfgKind t.word ≠ 0) {i j : Nat} (hi : i < 32) (hj : j < 32)
    (ho : cfgRows t.word ≤ i ∨ cfgCols t.word ≤ j) : elAt t.el i j = 0 := by
  rw [h.el_eq, elAt_mkEl hk _ hi hj, if_neg (by omega)]

end

section
variable {a : TAcc} (h : a.Healthy)
include h

theorem TAcc.Healthy.el_eq : a.el = mkEl a.word (elAt a.el) := congrArg TAcc.el h
theorem TAcc.Healthy.colSum_eq {j : Nat} (hj : j < 32) : sget 0 j a.colSum = heldOf a.el j := by
  have hs := congrArg TAcc.colSum h
  rw [hs]
  exact (sget_mkMap 0 _ hj).trans (by rw [← h.el_eq])

/-- A healthy accumulator passes its check. -/
theorem TAcc.Healthy.check_eq_none (reg kind : Nat) : a.check reg kind = none := by
  have hcol : (List.range 32).find? (fun j => sget 0 j a.colSum != heldOf a.el j) = none := by
    rw [List.find?_eq_none]
    intro j hj
    simp [h.colSum_eq (List.mem_range.mp hj)]
  rw [TAcc.check, hcol, Option.map_none]

theorem TAcc.Healthy.elAt_outside (hk : cfgKind a.word ≠ 0) {i j : Nat} (hi : i < 32) (hj : j < 32)
    (ho : cfgRows a.word ≤ i ∨ cfgCols a.word ≤ j) : elAt a.el i j = 0 := by
  rw [h.el_eq, elAt_mkEl hk _ hi hj, if_neg (by omega)]

end

-- sums

theorem foldl_add_range (f : Nat → Int) (n : Nat) : (List.range n).foldl (fun acc i => acc + f i) 0 = ∑ i ∈ Finset.range n, f i := by
  induction n with
  | zero => rfl
  | succ n ih => rw [List.range_succ, List.foldl_append, ih, Finset.sum_range_succ]; rfl

theorem sum32_eq (f : Nat → Int) : sum32 f = ∑ i ∈ Finset.range 32, f i := foldl_add_range f 32

/-- A sum over 32 of what is zero from n on is the sum over n. -/
theorem sum_range_32 {f : Nat → Int} {n : Nat} (hn : n ≤ 32) (hz : ∀ i, n ≤ i → i < 32 → f i = 0) :
    ∑ i ∈ Finset.range 32, f i = ∑ i ∈ Finset.range n, f i :=
  (Finset.sum_subset (Finset.range_mono hn) fun i hi hi' => hz i (by simpa using hi') (by simpa using hi)).symm

theorem elemInt_zero (k : Nat) : elemInt k 0 = 0 := by simp [elemInt]

theorem int32_emod (n : Nat) : (int32 n) % 2 ^ 32 = (n : Int) % 2 ^ 32 := by
  unfold int32
  split <;> omega

theorem heldOf_eq (el : Sparse Nat) (j : Nat) : (heldOf el j : Int) = (∑ i ∈ Finset.range 32, (elAt el i j : Int)) % 2 ^ 32 := by
  have key : ∀ n, (((List.range n).foldl (fun acc i => (acc + elAt el i j) % 2 ^ 32) 0 : Nat) : Int)
      = (∑ i ∈ Finset.range n, (elAt el i j : Int)) % 2 ^ 32 := by
    intro n
    induction n with
    | zero => rfl
    | succ n ih =>
      rw [List.range_succ, List.foldl_append, Finset.sum_range_succ, List.foldl_cons, List.foldl_nil, Int.natCast_mod, Int.natCast_add, ih]
      exact Int.emod_add_emod _ _ _
  exact key 32

theorem enc32_eq_of_emod {a b : Int} (h : a % 2 ^ 32 = b % 2 ^ 32) : enc32 a = enc32 b := by rw [enc32, enc32, h]

/-- The margin sums of a healthy register, over its shape (R131). -/
theorem Tile.Healthy.colSum_sum {t : Tile} (h : t.Healthy) (hk : cfgKind t.word ≠ 0) {j : Nat} (hj : j < 32) :
    sget 0 j t.colSum = ∑ i ∈ Finset.range (cfgRows t.word), elemInt (cfgKind t.word) (elAt t.el i j) := by
  rw [h.colSum_eq hj, colSumOf, sum32_eq, sum_range_32 (cfgRows_le _)]
  intro i hi hi'
  rw [h.elAt_outside hk hi' hj (.inl hi), elemInt_zero]

theorem Tile.Healthy.rowSum_sum {t : Tile} (h : t.Healthy) (hk : cfgKind t.word ≠ 0) {i : Nat} (hi : i < 32) :
    sget 0 i t.rowSum = ∑ j ∈ Finset.range (cfgCols t.word), elemInt (cfgKind t.word) (elAt t.el i j) := by
  rw [h.rowSum_eq hi, rowSumOf, sum32_eq, sum_range_32 (cfgCols_le _)]
  intro j hj hj'
  rw [h.elAt_outside hk hi hj' (.inr hj), elemInt_zero]

theorem TAcc.Healthy.colSum_sum {a : TAcc} (h : a.Healthy) (hk : cfgKind a.word ≠ 0) {j : Nat} (hj : j < 32) :
    ((sget 0 j a.colSum : Nat) : Int) = (∑ i ∈ Finset.range (cfgRows a.word), (elAt a.el i j : Int)) % 2 ^ 32 := by
  rw [h.colSum_eq hj, heldOf_eq, sum_range_32 (cfgRows_le _)]
  intro i hi hi'
  rw [h.elAt_outside hk hi' hj (.inl hi), Nat.cast_zero]

-- the proof of compute

theorem sum_int32_emod (f : Nat → Nat) (s : Finset Nat) : (∑ i ∈ s, int32 (f i)) % 2 ^ 32 = (∑ i ∈ s, (f i : Int)) % 2 ^ 32 := by
  rw [Finset.sum_int_mod, Finset.sum_int_mod s (2 ^ 32) (fun i => (f i : Int))]
  exact congrArg (· % (2 ^ 32 : Int)) (Finset.sum_congr rfl fun i _ => int32_emod (f i))

/-- A column of the result is as the column sums predict it (R136): the old column and the column of the product. -/
theorem enc32_column (c : Nat → Nat) (e : Nat → Nat → Int) (b : Nat → Int) (rows : Nat) (n : Nat) :
    enc32 ((List.range rows).foldl (fun acc i => acc + int32 (c i) + (List.range n).foldl (fun acc k => acc + e i k * b k) 0) 0)
      = enc32 ((∑ i ∈ Finset.range rows, (c i : Int)) % 2 ^ 32
        + (List.range n).foldl (fun acc k => acc + (∑ i ∈ Finset.range rows, e i k) * b k) 0) := by
  have hsplit : (List.range rows).foldl (fun acc i => acc + int32 (c i) + (List.range n).foldl (fun acc k => acc + e i k * b k) 0) 0
      = ∑ i ∈ Finset.range rows, int32 (c i) + ∑ k ∈ Finset.range n, (∑ i ∈ Finset.range rows, e i k) * b k := by
    simp only [add_assoc]
    rw [foldl_add_range (fun i => int32 (c i) + _), Finset.sum_add_distrib]
    refine congrArg _ ?_
    simp only [foldl_add_range, Finset.sum_mul]
    exact Finset.sum_comm
  rw [hsplit, foldl_add_range]
  refine enc32_eq_of_emod ?_
  rw [Int.emod_add_emod, ← Int.emod_add_emod, sum_int32_emod, Int.emod_add_emod]

/-- The sum of all columns of a product is the product of the sums (R136). -/
theorem sum_columns (r : Nat → Int) (b : Nat → Nat → Int) (rb : Nat → Int) (n m : Nat)
    (hb : ∀ k < n, rb k = ∑ j ∈ Finset.range m, b k j) :
    (List.range m).foldl (fun acc j => acc + (List.range n).foldl (fun acc k => acc + r k * b k j) 0) 0
      = (List.range n).foldl (fun acc k => acc + r k * rb k) 0 := by
  simp only [foldl_add_range]
  rw [Finset.sum_comm]
  refine Finset.sum_congr rfl fun k hk => ?_
  rw [hb k (Finset.mem_range.mp hk), Finset.mul_sum]

-- TMMA on integers

theorem colFail_eq_nil {kind c n : Nat} {fails : Nat → Bool} (h : ∀ j < n, fails j = false) : colFail kind c n fails = [] := by
  have : (List.range n).find? fails = none := List.find?_eq_none.mpr fun j hj => by simp [h j (List.mem_range.mp hj)]
  rw [colFail, this]

/-- The product that TMMA and TMMAT add to element (i, j). -/
def tmmaSum (trans : Bool) (A B : Tile) (i j : Nat) : Int :=
  (List.range (cfgCols A.word)).foldl (fun acc q => acc + elemInt (cfgKind A.word) (elAt A.el i q)
    * elemInt (cfgKind B.word) (if trans then elAt B.el j q else elAt B.el q j)) 0

/-- On healthy integer operands of agreeing shapes no check of TMMA fails (R136). -/
theorem tmma_of_healthy {x : Hart} {trans : Bool} {c a b : Nat} (hA : (x.tileAt a).Healthy) (hB : (x.tileAt b).Healthy)
    (hC : (x.accAt c).Healthy) (hok : tmmaOk trans (x.tileAt a).word (x.tileAt b).word (x.accAt c).word = true)
    (hint : kindFloat (cfgKind (x.tileAt a).word) = false) (hs : x.suspect c = false) (hg : x.guarded = false) :
    tmma x trans c a b [] = .done ((x.putAcc c (mkAcc (x.accAt c).word (fun i j =>
      (accInt (x.csrBit csrTcsr 0) (elAt (x.accAt c).el i j) (tmmaSum trans (x.tileAt a) (x.tileAt b) i j)).1))).dirtyXs) := by
  have hok' := hok
  simp only [tmmaOk, hint, Bool.and_eq_true, bne_iff_ne, beq_iff_eq] at hok'
  obtain ⟨⟨⟨⟨⟨⟨hka, hkb⟩, hkc⟩, -⟩, -⟩, hrows⟩, hshape⟩ := hok'
  unfold tmma
  extract_lets ta tb tc kc float el nc operand _ _ _ _ _ _ _ ea eb sat s p rb psum pref predicted result predBad fails new
  rw [if_neg (by simp [ta, tb, tc, hok, hg]), if_neg (by simp [hs]), if_neg (by simp [float, ta, hint])]
  have hoperand : operand = [] := by
    simp only [operand, ta, tb, tc, hA.check_eq_none, hB.check_eq_none, hC.check_eq_none]
    split <;> rfl
  have hkc32 : kc ≤ 32 := cfgCols_le _
  have hrb : ∀ k < kc, rb k = ∑ j ∈ Finset.range nc, eb k j := by
    intro k hk
    cases trans with
    | true =>
      simp only [if_true, Bool.and_eq_true, beq_iff_eq] at hshape
      obtain ⟨hbk, hcn⟩ := hshape
      rw [show nc = cfgRows tb.word from hcn]
      exact hB.colSum_sum hkb (by omega)
    | false =>
      simp only [Bool.false_eq_true, if_false, Bool.and_eq_true, beq_iff_eq] at hshape
      obtain ⟨hbk, hcn⟩ := hshape
      rw [show nc = cfgCols tb.word from hcn]
      exact hB.rowSum_sum hkb (by omega)
  have hpsum : psum = pref := sum_columns (fun k => sget 0 k ta.colSum) eb rb kc nc hrb
  have hcol : ∀ j < nc, result j = predicted j := by
    intro j hj
    have hj32 : j < 32 := lt_of_lt_of_le hj (cfgCols_le _)
    have hp : p j = (List.range kc).foldl (fun acc k => acc + (∑ i ∈ Finset.range (cfgRows tc.word), ea i k) * eb k j) 0 := by
      refine List.foldl_ext _ _ _ fun acc k hk => ?_
      rw [hA.colSum_sum hka (lt_of_lt_of_le (List.mem_range.mp hk) hkc32), ← hrows]
    change result j = enc32 (((sget 0 j tc.colSum : Nat) : Int) + p j)
    rw [hp, show ((sget 0 j tc.colSum : Nat) : Int) = _ from hC.colSum_sum hkc hj32]
    exact enc32_column (fun i => elAt tc.el i j) ea (fun k => eb k j) (cfgRows tc.word) kc
  have hpred : predBad = [] := by
    simp only [predBad, hpsum]
    rw [if_neg (by simp)]
    exact colFail_eq_nil fun j hj => by simp [hcol j hj]
  have hfails : fails = [] := by simp [fails, hoperand, hpred]
  rw [if_neg (by simp [hfails])]
  rfl

-- a tile instruction that completes

/-- A register-to-register tile instruction that completes leaves in the hart's registers what it computes. -/
theorem exec_tile_done {s : State} {h : Nat} {i : Instr} {f : Hart → TOut} {y : Hart} {ok : Bool} (hf : s.chip.TileFree h)
    (he : exec i s = need ok (s.onChip (fun c => c.issueInstr h i))) (hok : ok = true) (hi : i.tileBits ≠ 0)
    (hp : (s.chip.given h i).perform h i = (s.chip.given h i).tileReg h i f) (hd : f ((s.chip.given h i).hart h) = .done y) (hy : y.Calm) :
    ∃ t, exec i s = .next t ∧ (t.chip.hart h).tacc = y.tacc ∧ (t.chip.hart h).tile = y.tile := by
  refine ⟨_, gives_of_onChip he hok (Chip.issueInstr_tile_done hf hp (retiresNow_of_tileBits hi) hd hy), ?_⟩
  dsimp only
  rw [Chip.hart_leave, Chip.tileSent, Chip.hart_onHart, Chip.hart_setHart]
  exact ⟨rfl, rfl⟩

@[simp] theorem Hart.dirtyXs_tacc (x : Hart) : x.dirtyXs.tacc = x.tacc := by
  simp only [Hart.dirtyXs, Hart.dirty, Hart.syncSd, Hart.putBit, Hart.putCsr, Hart.setCsr]
  split <;> rfl

@[simp] theorem Hart.dirtyXs_tile (x : Hart) : x.dirtyXs.tile = x.tile := by
  simp only [Hart.dirtyXs, Hart.dirty, Hart.syncSd, Hart.putBit, Hart.putCsr, Hart.setCsr]
  split <;> rfl

theorem Hart.accAt_of_tacc {x y : Hart} (h : x.tacc = y.tacc) (a : Nat) : x.accAt a = y.accAt a := by rw [Hart.accAt, h, Hart.accAt]

theorem Hart.accAt_putAcc (x : Hart) (a : Nat) (v : TAcc) : (x.putAcc a v).dirtyXs.accAt a = v := by
  rw [Hart.accAt, Hart.dirtyXs_tacc, Hart.putAcc]
  exact sget_sset_self _ _ _ _

theorem mkAcc_el (cfg : Nat) (f : Nat → Nat → Nat) : (mkAcc cfg f).el = mkEl cfg f := rfl

/-- An accumulator that was written with elements f reads as f inside its shape. -/
theorem Hart.elAt_of_putAcc {z x : Hart} {a cfg : Nat} {f : Nat → Nat → Nat} (hz : z.tacc = (x.putAcc a (mkAcc cfg f)).dirtyXs.tacc)
    (hk : cfgKind cfg ≠ 0) {i j : Nat} (hi : i < cfgRows cfg) (hj : j < cfgCols cfg) : elAt (z.accAt a).el i j = f i j := by
  rw [Hart.accAt_of_tacc hz, Hart.accAt_putAcc, mkAcc_el,
    elAt_mkEl hk _ (lt_of_lt_of_le hi (cfgRows_le _)) (lt_of_lt_of_le hj (cfgCols_le _)), if_pos ⟨hi, hj⟩]

/-- TMMA and TMMAT on healthy integer operands. -/
theorem exec_tmma {s : State} {h a ta tb : Nat} {trans : Bool} {i : Instr} {ok : Bool} (hf : s.chip.TileFree h)
    (he : exec i s = need ok (s.onChip (fun c => c.issueInstr h i))) (hok : ok = true) (hi : i.tileBits ≠ 0)
    (hp : (s.chip.given h i).perform h i = (s.chip.given h i).tileReg h i (fun x => tmma x trans a ta tb []))
    (hA : ((s.chip.hart h).tileAt ta).Healthy) (hB : ((s.chip.hart h).tileAt tb).Healthy) (hC : ((s.chip.hart h).accAt a).Healthy)
    (htm : tmmaOk trans ((s.chip.hart h).tileAt ta).word ((s.chip.hart h).tileAt tb).word ((s.chip.hart h).accAt a).word = true)
    (hint : kindFloat (cfgKind ((s.chip.hart h).tileAt ta).word) = false) (hs : (s.chip.hart h).suspect a = false)
    (hg : (s.chip.hart h).guarded = false) :
    ∃ t, exec i s = .next t ∧ ∀ r k, r < cfgRows ((s.chip.hart h).accAt a).word → k < cfgCols ((s.chip.hart h).accAt a).word →
      elAt ((t.chip.hart h).accAt a).el r k = (accInt ((s.chip.hart h).csrBit csrTcsr 0) (elAt ((s.chip.hart h).accAt a).el r k)
        (tmmaSum trans ((s.chip.hart h).tileAt ta) ((s.chip.hart h).tileAt tb) r k)).1 := by
  have hx : (s.chip.given h i).hart h = { s.chip.hart h with hq := [i] } := Chip.hart_given _ _ _
  have hcalm := hf.free.calm_given i
  rw [Chip.Calm, hx] at hcalm
  have hdone := tmma_of_healthy (x := { s.chip.hart h with hq := [i] }) hA hB hC htm hint hs hg
  obtain ⟨t, ht, hacc, -⟩ := exec_tile_done hf he hok hi hp (by rw [hx]; exact hdone) (hcalm.putAcc _ _).dirtyXs
  refine ⟨t, ht, fun r k hr hk => ?_⟩
  have hkind : cfgKind ((s.chip.hart h).accAt a).word ≠ 0 := by
    simp only [tmmaOk, Bool.and_eq_true, bne_iff_ne] at htm
    tauto
  exact Hart.elAt_of_putAcc hacc hkind hr hk

/-- Settles O20: on healthy operands the column prediction holds, so the products are added. -/
theorem tmmaInteger : Obligations.TmmaInteger := by
  unfold Obligations.TmmaInteger
  intro s h a ta tb trans hf ha hta htb i x A B C hA hB hC htm hint hs hg
  cases trans with
  | true =>
    refine exec_tmma (i := .tmmat h a ta tb []) hf rfl (by simp [hf.free.hart, ha, hta, htb, badOk]) (encR_ne_zero _ _ _ _ _ (by decide)) ?_ hA hB hC htm hint hs hg
    rw [Chip.perform, if_neg (hf.room_given rfl)]
  | false =>
    refine exec_tmma (i := .tmma h a ta tb []) hf rfl (by simp [hf.free.hart, ha, hta, htb, badOk]) (encR_ne_zero _ _ _ _ _ (by decide)) ?_ hA hB hC htm hint hs hg
    rw [Chip.perform, if_neg (hf.room_given rfl)]

end Sys2Proof.Machine
end

section
/-! TADD and TCVT on integers (R106, R107, R137). -/

namespace Sys2Proof.Machine

theorem Hart.suspects_eq_nil {x : Hart} {l : List Nat} (h : ∀ a ∈ l, x.suspect a = false) : x.suspects l = [] := by
  have : (List.range 4).find? (fun a => l.contains a && x.suspect a) = none := by
    rw [List.find?_eq_none]
    intro a _
    by_cases ha : a ∈ l
    · simp [h a ha]
    · simp [ha]
  rw [Hart.suspects, this]

/-- The sum that TADD forms on integers, where what is added agrees with its predicted column sums (R137). -/
theorem taddWith_int {x : Hart} {d : Nat} {term : Nat → Nat → Val} {int : Nat → Nat → Int} {pred : Nat → Int} {sus : List Nat}
    (hD : (x.accAt d).Healthy) (hk : cfgKind (x.accAt d).word ≠ 0) (hs : ∀ a ∈ sus, x.suspect a = false)
    (hp : ∀ j < cfgCols (x.accAt d).word, (∑ i ∈ Finset.range (cfgRows (x.accAt d).word), int i j) % 2 ^ 32 = pred j % 2 ^ 32) :
    taddWith x d false term int pred [] sus []
      = .done ((x.putAcc d (mkAcc (x.accAt d).word (fun i j => (accInt (x.csrBit csrTcsr 0) (elAt (x.accAt d).el i j) (int i j)).1))).dirtyXs) := by
  have hcol : ∀ j < cfgCols (x.accAt d).word,
      enc32 ((List.range (cfgRows (x.accAt d).word)).foldl (fun acc i => acc + int32 (elAt (x.accAt d).el i j) + int i j) 0)
        = enc32 ((sget 0 j (x.accAt d).colSum : Nat) + pred j) := by
    intro j hj
    have hsum : (List.range (cfgRows (x.accAt d).word)).foldl (fun acc i => acc + int32 (elAt (x.accAt d).el i j) + int i j) 0
        = ∑ i ∈ Finset.range (cfgRows (x.accAt d).word), int32 (elAt (x.accAt d).el i j)
          + ∑ i ∈ Finset.range (cfgRows (x.accAt d).word), int i j := by
      simp only [add_assoc]
      rw [foldl_add_range (fun i => int32 (elAt (x.accAt d).el i j) + int i j), Finset.sum_add_distrib]
    rw [hsum, hD.colSum_sum hk (lt_of_lt_of_le hj (cfgCols_le _))]
    refine enc32_eq_of_emod ?_
    rw [Int.emod_add_emod, Int.add_emod, sum_int32_emod, hp j hj, ← Int.add_emod]
  have hfail : colFail 4 d (cfgCols (x.accAt d).word) (fun j =>
      enc32 ((List.range (cfgRows (x.accAt d).word)).foldl (fun acc i => acc + int32 (elAt (x.accAt d).el i j) + int i j) 0)
        != enc32 ((sget 0 j (x.accAt d).colSum : Nat) + pred j) || ([] : List (Nat × Nat)).contains (4, j)) = [] :=
    colFail_eq_nil fun j hj => by simp [hcol j hj]
  unfold taddWith
  dsimp only
  rw [if_neg (by simp [Hart.suspects_eq_nil hs]), if_neg (by simp), if_neg]
  rw [hfail, hD.check_eq_none]
  simp

theorem taddAa_of_healthy {x : Hart} {d s : Nat} (hD : (x.accAt d).Healthy) (hS : (x.accAt s).Healthy) (hkd : cfgKind (x.accAt d).word = 6)
    (hks : cfgKind (x.accAt s).word = 6) (hr : cfgRows (x.accAt d).word = cfgRows (x.accAt s).word)
    (hc : cfgCols (x.accAt d).word = cfgCols (x.accAt s).word) (hd : x.suspect d = false) (hs : x.suspect s = false) :
    taddAa x d s [] = .done ((x.putAcc d (mkAcc (x.accAt d).word (fun i j =>
      (accInt (x.csrBit csrTcsr 0) (elAt (x.accAt d).el i j) (int32 (elAt (x.accAt s).el i j))).1))).dirtyXs) := by
  unfold taddAa
  dsimp only
  have hcheck : (if s = d then [] else [(x.accAt s).check (8 + s) 4].filterMap id) = [] := by
    rw [hS.check_eq_none]
    split <;> rfl
  rw [if_neg (by simp [hkd, hks, hr, hc]), hcheck, show (cfgKind (x.accAt d).word == 5) = false by simp [hkd]]
  refine taddWith_int hD (by simp [hkd]) (by simp [hd, hs]) fun j hj => ?_
  rw [hS.colSum_sum (by simp [hks]) (lt_of_lt_of_le hj (cfgCols_le _)), ← hr, Int.emod_emod_of_dvd _ dvd_rfl]
  exact sum_int32_emod (fun i => elAt (x.accAt s).el i j) _

theorem taddAt_of_healthy {x : Hart} {d s : Nat} (hD : (x.accAt d).Healthy) (hS : (x.tileAt s).Healthy) (hkd : cfgKind (x.accAt d).word = 6)
    (hks : cfgKind (x.tileAt s).word ≠ 0) (hint : kindFloat (cfgKind (x.tileAt s).word) = false)
    (hr : cfgRows (x.accAt d).word = cfgRows (x.tileAt s).word) (hc : cfgCols (x.accAt d).word = cfgCols (x.tileAt s).word)
    (hd : x.suspect d = false) (hg : x.guarded = false) :
    taddAt x d s [] = .done ((x.putAcc d (mkAcc (x.accAt d).word (fun i j =>
      (accInt (x.csrBit csrTcsr 0) (elAt (x.accAt d).el i j) (elemInt (cfgKind (x.tileAt s).word) (elAt (x.tileAt s).el i j))).1))).dirtyXs) := by
  unfold taddAt
  dsimp only
  have hcheck : [(x.tileAt s).check s 4 false].filterMap id = [] := by
    rw [hS.check_eq_none]
    rfl
  rw [if_neg (by simp [hkd, hks, hint, hr, hc, hg]), hcheck, show (cfgKind (x.accAt d).word == 5) = false by simp [hkd]]
  refine taddWith_int hD (by simp [hkd]) (by simp [hd]) fun j hj => ?_
  rw [hS.colSum_sum hks (lt_of_lt_of_le hj (cfgCols_le _)), ← hr]

-- TCVT

/-- The configuration word of a register that TCVT writes on integers: its own kind and the accumulator's shape. -/
theorem cvt_cfg (k w : Nat) (hk : k < 256) : cfgKind (cfgWithScale (k + w / 2 ^ 16 * 2 ^ 16) 0) = k
    ∧ cfgRows (cfgWithScale (k + w / 2 ^ 16 * 2 ^ 16) 0) = cfgRows w ∧ cfgCols (cfgWithScale (k + w / 2 ^ 16 * 2 ^ 16) 0) = cfgCols w := by
  have hmod : (k + w / 2 ^ 16 * 2 ^ 16) % 256 = k := by omega
  have hdiv : (k + w / 2 ^ 16 * 2 ^ 16) / 2 ^ 16 = w / 2 ^ 16 := by omega
  have hword : cfgWithScale (k + w / 2 ^ 16 * 2 ^ 16) 0 = k + w / 2 ^ 16 * 2 ^ 16 := by
    rw [cfgWithScale, hmod, hdiv]
    simp
  rw [hword, cfgKind, cfgRows, cfgCols, cfgRows, cfgCols]
  omega

theorem Hart.elAt_of_putTile {z x : Hart} {t cfg : Nat} {f : Nat → Nat → Nat} {u : Bool} (hz : z.tile = (x.putTile t (mkTile cfg f) u).dirtyXs.tile)
    (hk : cfgKind cfg ≠ 0) {i j : Nat} (hi : i < cfgRows cfg) (hj : j < cfgCols cfg) : elAt (z.tileAt t).el i j = f i j := by
  have ht : z.tileAt t = mkTile cfg f := by
    rw [Hart.tileAt, hz, Hart.dirtyXs_tile, Hart.putTile]
    exact sget_sset_self _ _ _ _
  rw [ht, show (mkTile cfg f).el = mkEl cfg f from rfl,
    elAt_mkEl hk _ (lt_of_lt_of_le hi (cfgRows_le _)) (lt_of_lt_of_le hj (cfgCols_le _)), if_pos ⟨hi, hj⟩]

theorem tcvt_of_healthy {x : Hart} {t a r rm : Nat} (hS : (x.accAt a).Healthy) (hkd : cfgKind (x.tileAt t).word = 3 ∨ cfgKind (x.tileAt t).word = 4)
    (hks : cfgKind (x.accAt a).word = 6) (hs : x.suspect a = false) (hlo : -64 ≤ (x.xr r).toInt) (hhi : (x.xr r).toInt ≤ 63) (hrm : rm < 5) :
    tcvt x t a r rm = .done ((x.putTile t (mkTile (cfgWithScale (cfgKind (x.tileAt t).word + (x.accAt a).word / 2 ^ 16 * 2 ^ 16) 0)
      (fun i j => (cvtInt (cfgKind (x.tileAt t).word == 3) false rm ((valInt (int32 (elAt (x.accAt a).el i j))).scale (-(x.xr r).toInt))).1))
      false).dirtyXs) := by
  have hfloat : kindFloat (cfgKind (x.tileAt t).word) = false := by rcases hkd with h | h <;> simp [h, kindFloat]
  have hmode : x.tcvtMode rm = some rm := by rw [Hart.tcvtMode, if_pos hrm]
  unfold tcvt
  simp only [hmode]
  rw [if_neg (by rcases hkd with h | h <;> simp [h, hks] <;> omega), if_neg (by simp [hs]), hS.check_eq_none]
  simp [hfloat, hks]

theorem exec_tadd {s : State} {h d : Nat} {i : Instr} {ok : Bool} {f : Hart → TOut} {g : Nat → Nat → Nat} (hf : s.chip.TileFree h)
    (he : exec i s = need ok (s.onChip (fun c => c.issueInstr h i))) (hok : ok = true) (hi : i.tileBits ≠ 0)
    (hp : (s.chip.given h i).perform h i = (s.chip.given h i).tileReg h i f) (hk : cfgKind ((s.chip.hart h).accAt d).word ≠ 0)
    (hd : f { s.chip.hart h with hq := [i] }
      = .done ((({ s.chip.hart h with hq := [i] } : Hart).putAcc d (mkAcc ((s.chip.hart h).accAt d).word g)).dirtyXs)) :
    ∃ t, exec i s = .next t ∧ ∀ r k, r < cfgRows ((s.chip.hart h).accAt d).word → k < cfgCols ((s.chip.hart h).accAt d).word →
      elAt ((t.chip.hart h).accAt d).el r k = g r k := by
  have hx : (s.chip.given h i).hart h = { s.chip.hart h with hq := [i] } := Chip.hart_given _ _ _
  have hcalm := hf.free.calm_given i
  rw [Chip.Calm, hx] at hcalm
  obtain ⟨t, ht, hacc, -⟩ := exec_tile_done hf he hok hi hp (by rw [hx]; exact hd) (hcalm.putAcc _ _).dirtyXs
  exact ⟨t, ht, fun r k hr hk' => Hart.elAt_of_putAcc hacc hk hr hk'⟩

/-- Settles O21: on healthy operands the column prediction of TADD holds, and TCVT converts each element. -/
theorem taddTcvtInteger : Obligations.TaddTcvtInteger := by
  unfold Obligations.TaddTcvtInteger
  refine ⟨⟨fun s h d a hf hd ha => ?_, fun s h d b hf hd hb => ?_⟩, fun s h b a r rm hf hb ha hr hrm => ?_⟩
  · intro x D S hD hS hkd hks hrows hcols hsd hsa
    refine exec_tadd (i := .taddAa h d a []) (f := fun x => taddAa x d a []) hf rfl (by simp [hf.free.hart, hd, ha, badOk]) (encR_ne_zero _ _ _ _ _ (by decide)) ?_
      (by rw [hkd]; decide) (taddAa_of_healthy (x := { s.chip.hart h with hq := [.taddAa h d a []] }) hD hS hkd hks hrows hcols hsd hsa)
    rw [Chip.perform, if_neg (hf.room_given rfl)]
  · intro x D S hD hS hkd hks hint hrows hcols hsd hg
    refine exec_tadd (i := .taddAt h d b []) (f := fun x => taddAt x d b []) hf rfl (by simp [hf.free.hart, hd, hb, badOk]) (encR_ne_zero _ _ _ _ _ (by decide)) ?_
      (by rw [hkd]; decide) (taddAt_of_healthy (x := { s.chip.hart h with hq := [.taddAt h d b []] }) hD hS hkd hks hint hrows hcols hsd hg)
    rw [Chip.perform, if_neg (hf.room_given rfl)]
  · intro x D S hS hkd hks hsa hlo hhi
    have hx : (s.chip.given h (.tcvt h b a r rm)).hart h = { s.chip.hart h with hq := [.tcvt h b a r rm] } := Chip.hart_given _ _ _
    have hcalm := hf.free.calm_given (.tcvt h b a r rm)
    rw [Chip.Calm, hx] at hcalm
    have hdone := tcvt_of_healthy (x := { s.chip.hart h with hq := [.tcvt h b a r rm] }) (r := r) hS hkd hks hsa hlo hhi hrm
    have hperf : (s.chip.given h (.tcvt h b a r rm)).perform h (.tcvt h b a r rm)
        = (s.chip.given h (.tcvt h b a r rm)).tileReg h (.tcvt h b a r rm) (fun x => tcvt x b a r rm) := by
      rw [Chip.perform, if_neg (hf.room_given rfl)]
    obtain ⟨t, ht, hacc, htile⟩ := exec_tile_done (i := .tcvt h b a r rm) hf rfl (by simp [hf.free.hart, hb, ha, hr]; omega)
      (encR_ne_zero _ _ _ _ _ (by decide)) hperf (by rw [hx]; exact hdone) (hcalm.putTile _ _ _).dirtyXs
    obtain ⟨ck, cr, cc⟩ := cvt_cfg (cfgKind D.word) S.word (by rcases hkd with h | h <;> rw [h] <;> decide)
    refine ⟨t, ht, ?_, fun i k hi hk => ?_⟩
    · rw [Hart.accAt_of_tacc (hacc.trans (Hart.dirtyXs_tacc _)) a]
      rfl
    · have hne : cfgKind (cfgWithScale (cfgKind D.word + S.word / 2 ^ 16 * 2 ^ 16) 0) ≠ 0 := by
        rw [ck]
        rcases hkd with h | h <;> rw [h] <;> decide
      exact Hart.elAt_of_putTile htile hne (cr ▸ hi) (cc ▸ hk)

end Sys2Proof.Machine
end

section
/-! The flight of R255: each tread that is assigned takes one free position, so a type is in the flight as often as it was assigned. -/

namespace Sys2Proof.Machine

/-- `l'` is `l` with `n` of its 1,024 positions, free before, given to `t`. -/
structure Given (t : TreadType) (n : Nat) (l l' : List (Option TreadType)) : Prop where
  length : l'.length = l.length
  free : l'.count none + n = l.count none
  same : l'.count (some t) = l.count (some t) + n
  other : ∀ u, u ≠ t → l'.count (some u) = l.count (some u)

theorem Given.refl (t : TreadType) (l : List (Option TreadType)) : Given t 0 l l := ⟨rfl, rfl, rfl, fun _ _ => rfl⟩

theorem Given.trans {t : TreadType} {n m : Nat} {l l' l'' : List (Option TreadType)} (h : Given t n l l') (h' : Given t m l' l'') :
    Given t (n + m) l l'' :=
  ⟨h'.length.trans h.length, by have := h.free; have := h'.free; omega, by have := h.same; have := h'.same; omega,
    fun u hu => (h'.other u hu).trans (h.other u hu)⟩

theorem given_set {t : TreadType} {l : List (Option TreadType)} {i : Nat} (hi : i < l.length) (hn : l[i] = none) :
    Given t 1 l (l.set i (some t)) := by
  have hpos : 0 < l.count none := List.count_pos_iff.2 (hn ▸ List.getElem_mem hi)
  refine ⟨by simp, ?_, ?_, fun u hu => ?_⟩
  · simp only [List.count_set hi, hn]; simp; omega
  · simp only [List.count_set hi, hn]; simp
  · simp only [List.count_set hi, hn]; simp [Ne.symm hu]

/-- Counting on from `p` modulo 1,024, every position is met. -/
theorem exists_free_from {l : List (Option TreadType)} (p : Nat) (hl : l.length = 1024) (hf : 0 < l.count none) :
    ∃ i, i < 1024 ∧ (l.getD ((p + i) % 1024) none).isNone = true := by
  obtain ⟨j, hj, hjn⟩ := List.getElem_of_mem (List.count_pos_iff.1 hf)
  refine ⟨(j + 1024 - p % 1024) % 1024, by omega, ?_⟩
  have hij : (p + (j + 1024 - p % 1024) % 1024) % 1024 = j := by omega
  simp [hij, hj, hjn]

theorem takeTread_given {l : List (Option TreadType)} (p : Nat) (t : TreadType) (hl : l.length = 1024) (hf : 0 < l.count none) :
    Given t 1 l (takeTread p t l) := by
  unfold takeTread
  split
  next i hi =>
    have hlt : (p + i) % 1024 < l.length := by omega
    have hn := List.find?_some hi
    exact given_set hlt (by simpa [hlt] using hn)
  next hnone =>
    obtain ⟨i, hi, hfree⟩ := exists_free_from p hl hf
    exact absurd hfree (by simpa using List.find?_eq_none.1 hnone i (List.mem_range.2 hi))

theorem forUpTo_takeTread_given {l : List (Option TreadType)} (p : Nat → Nat) (t : TreadType) (n : Nat) (hl : l.length = 1024)
    (hf : n ≤ l.count none) : Given t n l (forUpTo n (fun k l => takeTread (p k) t l) l) := by
  induction n with
  | zero => exact Given.refl t l
  | succ n ih =>
    have h := ih (by omega)
    have hfree := h.free
    rw [forUpTo_succ]
    exact h.trans (takeTread_given _ t (h.length.trans hl) (by omega))

/-- The treads of the classes, one class after the other. -/
theorem guars_given (g : Nat → Nat) (p : Nat → Nat → Nat) (ks : List Nat) (l : List (Option TreadType)) (hks : ks.Nodup)
    (hl : l.length = 1024) (hf : (ks.map g).sum ≤ l.count none) :
    let l' := ks.foldl (fun l k => forUpTo (g k) (fun j l => takeTread (p k j) (.guar k) l) l) l
    l'.length = 1024 ∧ l'.count (some .maint) = l.count (some .maint)
      ∧ ∀ k, l'.count (some (.guar k)) = l.count (some (.guar k)) + if k ∈ ks then g k else 0 := by
  induction ks generalizing l with
  | nil => simpa using hl
  | cons k ks ih =>
    obtain ⟨hk, hks⟩ := List.nodup_cons.1 hks
    simp only [List.map_cons, List.sum_cons] at hf
    have h := forUpTo_takeTread_given (p k) (.guar k) (g k) hl (by omega)
    have hfree := h.free
    obtain ⟨hlen, hmaint, hguar⟩ := ih _ hks (h.length.trans hl) (by omega)
    refine ⟨hlen, hmaint.trans (h.other _ (by simp)), fun m => (hguar m).trans ?_⟩
    by_cases hm : m = k
    · subst hm; simp [h.same, hk]
    · rw [h.other _ (by simpa using hm)]; simp [hm]

theorem foldl_insert_perm (r : Nat → Nat → Bool) (ks acc : List Nat) :
    (ks.foldl (fun acc k => acc.takeWhile (r k) ++ [k] ++ acc.dropWhile (r k)) acc).Perm (ks ++ acc) := by
  induction ks generalizing acc with
  | nil => exact List.Perm.refl _
  | cons k ks ih =>
    have hstep : (acc.takeWhile (r k) ++ [k] ++ acc.dropWhile (r k)).Perm (k :: acc) := by
      simpa using (List.perm_middle (a := k) (l₁ := acc.takeWhile (r k)) (l₂ := acc.dropWhile (r k)))
    exact (ih _).trans ((hstep.append_left ks).trans List.perm_middle)

theorem guarOrder_perm (g : Nat → Nat) : (guarOrder g).Perm ((List.range 15).filter (fun k => g k != 0)) := by
  simpa [guarOrder] using foldl_insert_perm (fun k j => decide (g k ≤ g j)) ((List.range 15).filter (fun k => g k != 0)) []

theorem sum_map_filter_ne_zero (g : Nat → Nat) (ks : List Nat) : ((ks.filter (fun k => g k != 0)).map g).sum = (ks.map g).sum := by
  induction ks with
  | nil => rfl
  | cons k ks ih => by_cases hk : g k = 0 <;> simp [hk, ih]

theorem guarOrder_sum (g : Nat → Nat) : ((guarOrder g).map g).sum = (List.range 15).foldl (fun a k => a + g k) 0 := by
  rw [((guarOrder_perm g).map g).sum_eq, sum_map_filter_ne_zero, List.sum_eq_foldl, List.foldl_map]

theorem length_filter_flight {l : List (Option TreadType)} {t : TreadType} (ht : t ≠ .opn) :
    ((l.map (fun x => x.getD .opn)).filter (· == t)).length = l.count (some t) := by
  rw [← List.countP_eq_length_filter, List.countP_map, List.count]
  refine List.countP_congr fun x _ => ?_
  cases x <;> simp [Ne.symm ht]

/-- Settles O42: the maintenance treads and then those of each class are given free positions, of which there are enough. -/
theorem flightBuilt : Obligations.FlightBuilt := by
  intro maint g _ hsum
  have hlen0 : (List.replicate 1024 (none : Option TreadType)).length = 1024 := List.length_replicate
  have hfree : (List.replicate 1024 (none : Option TreadType)).count none = 1024 := List.count_replicate_self
  have hsome : ∀ t, (List.replicate 1024 (none : Option TreadType)).count (some t) = 0 := fun t => List.count_replicate
  have hm := forUpTo_takeTread_given (fun k => k * 1024 / maint) .maint maint hlen0 (by omega)
  have hmfree := hm.free
  have hperm := guarOrder_perm g
  obtain ⟨hlen, hmaint, hguar⟩ := guars_given g (fun k j => (2 * j + 1) * 1024 / (2 * g k)) (guarOrder g) _
    (hperm.nodup_iff.2 (List.nodup_range.filter _)) (hm.length.trans hlen0) (by rw [guarOrder_sum]; omega)
  refine ⟨by rw [buildFlight, List.length_map, hlen], ?_, fun k hk => ?_⟩
  · rw [buildFlight, length_filter_flight (by decide), hmaint, hm.same, hsome, Nat.zero_add]
  · rw [buildFlight, length_filter_flight (by simp), hguar, hm.other _ (by simp), hsome]
    by_cases hg : g k = 0 <;> simp [hperm.mem_iff, hk, hg]

end Sys2Proof.Machine
end

section
/-! What the fields of a register read after an update of another field, of another register, or after an accepted write of the whole
register. -/

namespace Sys2Proof.Machine

-- another field, another register

theorem Chip.bit_of_fld {c c' : Chip} {r : Reg} {f : Field} (h : c'.fld r f = c.fld r f) : c'.bit r f = c.bit r f := by
  rw [Chip.bit, Chip.bit, h]

theorem Chip.fld_of_reg {c c' : Chip} {r : Reg} (h : c'.reg r = c.reg r) (f : Field) : c'.fld r f = c.fld r f := by
  rw [Chip.fld, Chip.fld, h]

theorem Chip.bit_of_reg {c c' : Chip} {r : Reg} (h : c'.reg r = c.reg r) (f : Field) : c'.bit r f = c.bit r f :=
  Chip.bit_of_fld (Chip.fld_of_reg h f)

theorem Chip.fld_setBit_ne (c : Chip) {q r : Reg} (f g : Field) (b : Bool) (h : q.offset ≠ r.offset) :
    (c.setBit r f b).fld q g = c.fld q g := c.fld_setFld_ne f g _ h

theorem Chip.bit_setFld_ne (c : Chip) {q r : Reg} (f g : Field) (n : Nat) (h : q.offset ≠ r.offset) :
    (c.setFld r f n).bit q g = c.bit q g := Chip.bit_of_fld (c.fld_setFld_ne f g n h)

theorem Chip.bit_setBit_ne (c : Chip) {q r : Reg} (f g : Field) (b : Bool) (h : q.offset ≠ r.offset) :
    (c.setBit r f b).bit q g = c.bit q g := c.bit_setFld_ne f g _ h

/-- Two fields that share no bit, each within the register. -/
def Field.apart (f g : Field) : Bool :=
  decide (f.hi < 64) && decide (f.lo ≤ f.hi) && decide (g.lo ≤ g.hi) && (decide (g.hi < f.lo) || decide (f.hi < g.lo))

theorem Field.apart_iff {f g : Field} : f.apart g = true ↔ f.hi < 64 ∧ f.lo ≤ f.hi ∧ g.lo ≤ g.hi ∧ (g.hi < f.lo ∨ f.hi < g.lo) := by
  simp [Field.apart, and_assoc]

theorem Field.get_put_apart {f g : Field} (h : f.apart g = true) (w : Word) (n : Nat) : g.get (f.put w n) = g.get w := by
  obtain ⟨hhi, hlo, hg, hd⟩ := Field.apart_iff.1 h
  exact f.get_put_disjoint g w n hhi hlo hd hg

theorem Chip.fld_setFld_apart (c : Chip) (r : Reg) {f g : Field} (n : Nat) (h : f.apart g = true) :
    (c.setFld r f n).fld r g = c.fld r g := by
  rw [Chip.fld, c.reg_setFld, Field.get_put_apart h, Chip.fld]

theorem Chip.bit_setFld_apart (c : Chip) (r : Reg) {f g : Field} (n : Nat) (h : f.apart g = true) :
    (c.setFld r f n).bit r g = c.bit r g := Chip.bit_of_fld (c.fld_setFld_apart r n h)

theorem Chip.fld_setBit_apart (c : Chip) (r : Reg) {f g : Field} (b : Bool) (h : f.apart g = true) :
    (c.setBit r f b).fld r g = c.fld r g := c.fld_setFld_apart r _ h

theorem Chip.bit_setBit_apart (c : Chip) (r : Reg) {f g : Field} (b : Bool) (h : f.apart g = true) :
    (c.setBit r f b).bit r g = c.bit r g := c.bit_setFld_apart r _ h

-- an accepted write of a whole register

theorem Field.mask_bit_apart {f g : Field} (h : f.apart g = true) {i : Nat} (hi : i < g.width) : f.mask.getLsbD (g.lo + i) = false := by
  obtain ⟨hhi, hlo, hg, hd⟩ := Field.apart_iff.1 h
  rw [f.mask_getLsbD hhi hlo]
  simp only [Field.width] at hi
  simp only [Bool.and_eq_false_iff, decide_eq_false_iff_not]
  omega

/-- The part of a write that concerns one field leaves the fields apart from it. -/
theorem Field.get_write_apart {f g : Field} (h : f.apart g = true) (locked : Bool) (old v : Word) :
    g.get (f.write locked old v) = g.get old := by
  have hout : ∀ w : Word, (∀ i, i < g.width → w.getLsbD (g.lo + i) = old.getLsbD (g.lo + i)) → g.get w = g.get old := fun w hw =>
    Nat.eq_of_testBit_eq fun i => by
      rw [g.get_testBit, g.get_testBit]
      by_cases hi : i < g.width
      · rw [hw i hi]
      · simp [hi]
  have hmask := fun {i : Nat} (hi : i < g.width) => Field.mask_bit_apart h hi
  unfold Field.write
  split
  case h_1 | h_2 => exact Field.get_put_apart h _ _
  case h_3 => split <;> [rfl; exact Field.get_put_apart h _ _]
  case h_4 => exact hout _ fun i hi => by simpa [hmask hi] using fun e => BitVec.lt_of_getLsbD e
  case h_5 => exact hout _ fun i hi => by simp [hmask hi]
  case h_6 | h_7 => rfl

/-- The fields of a register share no bit. -/
def Reg.sound (r : Reg) : Prop := r.fields.Pairwise (fun f g => f.apart g = true ∧ g.apart f = true)

theorem foldl_write_apart (locked : Bool) (v : Word) {g : Field} (fs : List Field) (w : Word) (h : ∀ f ∈ fs, f.apart g = true) :
    g.get (fs.foldl (fun w f => f.write locked w v) w) = g.get w := by
  induction fs generalizing w with
  | nil => rfl
  | cons f fs ih =>
    rw [List.foldl_cons, ih _ fun f' h' => h f' (List.mem_cons_of_mem f h'), Field.get_write_apart (h f List.mem_cons_self)]

theorem get_foldl_write (locked : Bool) (v : Word) {g : Field} (fs : List Field) (w : Word) (hg : g ∈ fs)
    (h : fs.Pairwise (fun f g => f.apart g = true ∧ g.apart f = true)) :
    ∃ old, g.get old = g.get w ∧ g.get (fs.foldl (fun w f => f.write locked w v) w) = g.get (g.write locked old v) := by
  induction fs generalizing w with
  | nil => cases hg
  | cons f fs ih =>
    obtain ⟨hf, hfs⟩ := List.pairwise_cons.1 h
    rcases List.mem_cons.1 hg with rfl | hg
    · exact ⟨w, rfl, foldl_write_apart locked v fs _ fun f' h' => (hf f' h').2⟩
    · obtain ⟨old, hold, hnew⟩ := ih (f.write locked w v) hg hfs
      exact ⟨old, hold.trans (Field.get_write_apart (hf g hg).1 _ _ _), hnew⟩

/-- A field that is freely written takes what the write has there. -/
theorem Chip.fld_storeFields (c : Chip) {r : Reg} {f : Field} (v : Word) (hr : r.sound) (hf : f ∈ r.fields)
    (hacc : f.acc = .rws ∨ f.acc = .rw) (hclamp : f.clamp = none) (hhi : f.hi < 64) (hlo : f.lo ≤ f.hi) :
    (c.storeFields r v).fld r f = f.get v := by
  obtain ⟨old, -, hnew⟩ := get_foldl_write (c.blockCommitted r) v r.fields (c.reg r) hf hr
  rw [Chip.fld, Chip.reg_storeFields, Chip.afterWrite, hnew]
  rcases hacc with hacc | hacc <;> simp [Field.write, Field.clamped, hacc, hclamp, Field.get_put_get _ _ _ hhi hlo]

/-- A field that a write does not reach stays. -/
theorem Chip.fld_storeFields_ro (c : Chip) {r : Reg} {f : Field} (v : Word) (hr : r.sound) (hf : f ∈ r.fields)
    (hacc : f.acc = .ro ∨ f.acc = .wo) : (c.storeFields r v).fld r f = c.fld r f := by
  obtain ⟨old, hold, hnew⟩ := get_foldl_write (c.blockCommitted r) v r.fields (c.reg r) hf hr
  rw [Chip.fld, Chip.reg_storeFields, Chip.afterWrite, hnew, Chip.fld, ← hold]
  rcases hacc with hacc | hacc <;> simp [Field.write, hacc]

theorem Chip.fld_storeFields_ne (c : Chip) {q r : Reg} (v : Word) (f : Field) (h : q.offset ≠ r.offset) :
    (c.storeFields r v).fld q f = c.fld q f := Chip.fld_of_reg (c.reg_storeFields_ne v h) f

theorem Chip.bit_storeFields_ne (c : Chip) {q r : Reg} (v : Word) (f : Field) (h : q.offset ≠ r.offset) :
    (c.storeFields r v).bit q f = c.bit q f := Chip.bit_of_reg (c.reg_storeFields_ne v h) f

/-- The flag of a one-bit field. -/
theorem Field.get_ne_zero {f : Field} (h : f.width = 1) (v : Word) : (f.get v != 0) = (f.get v == 1) := by
  have hlt := f.get_lt v
  rw [h] at hlt
  have hb : f.get v = 0 ∨ f.get v = 1 := by omega
  rcases hb with hb | hb <;> simp [hb]

-- one bit of a number

theorem add_two_pow_eq_or {n i : Nat} (h : n.testBit i = false) : n + 2 ^ i = n ||| 2 ^ i := by
  have hr : n % 2 ^ (i + 1) < 2 ^ i := by
    refine Nat.lt_pow_two_of_testBit _ fun j hj => ?_
    rw [Nat.testBit_mod_two_pow]
    rcases Nat.lt_or_ge j (i + 1) with hlt | hge
    · rw [show j = i by omega, h]; simp
    · simp [Nat.not_lt.2 hge]
  have hlt : n % 2 ^ (i + 1) + 2 ^ i < 2 ^ (i + 1) := by
    have := Nat.pow_succ 2 i
    omega
  calc n + 2 ^ i = 2 ^ (i + 1) * (n / 2 ^ (i + 1)) + (n % 2 ^ (i + 1) + 2 ^ i) := by rw [← Nat.add_assoc, Nat.div_add_mod]
    _ = 2 ^ (i + 1) * (n / 2 ^ (i + 1)) ||| (n % 2 ^ (i + 1) ||| 2 ^ i) := by
      rw [Nat.two_pow_add_eq_or_of_lt hlt, Nat.or_two_pow_eq_add_of_lt hr]
    _ = n ||| 2 ^ i := by rw [← Nat.or_assoc, ← Nat.two_pow_add_eq_or_of_lt (Nat.mod_lt _ (by positivity)), Nat.div_add_mod]

theorem testBit_withBit (n i : Nat) (b : Bool) (j : Nat) : (withBit n i b).testBit j = if j = i then b else n.testBit j := by
  have hset : ∀ m : Nat, m.testBit i = false → (m + 2 ^ i).testBit j = if j = i then true else m.testBit j := fun m hm => by
    rw [add_two_pow_eq_or hm, Nat.testBit_or, Nat.testBit_two_pow]
    by_cases hj : j = i
    · simp [hj]
    · simp [hj, Ne.symm hj]
  have hsplit : n.testBit i = true → ∃ m, m.testBit i = false ∧ n = m + 2 ^ i ∧ ∀ j, j ≠ i → m.testBit j = n.testBit j := fun hn => by
    refine ⟨n ^^^ 2 ^ i, by simp [Nat.testBit_xor, hn], ?_, fun k hk => by simp [Nat.testBit_xor, Ne.symm hk]⟩
    rw [add_two_pow_eq_or (by simp [Nat.testBit_xor, hn])]
    refine Nat.eq_of_testBit_eq fun k => ?_
    by_cases hk : k = i
    · simp [hk, hn]
    · simp [Nat.testBit_xor, Ne.symm hk]
  unfold withBit
  cases hn : n.testBit i <;> cases b
  · simp only [Bool.false_eq_true, if_false]
    split
    next hj => rw [hj, hn]
    next => rfl
  · simpa using hset n hn
  · obtain ⟨m, hm, rfl, hrest⟩ := hsplit hn
    by_cases hj : j = i
    · simp [hj, hm]
    · simp [hj, hrest j hj]
  · simp only [if_true]
    split
    next hj => rw [hj, hn]
    next => rfl

theorem bitAt_withBit (n i : Nat) (b : Bool) (j : Nat) : bitAt (withBit n i b) j = if j = i then b else bitAt n j := testBit_withBit n i b j

end Sys2Proof.Machine
end

section
/-! The table of regions (R155, R156): the ways that a table reserves, and the writes to its entries. -/

namespace Sys2Proof.Machine

-- the registers of the table

theorem offset_ratBase_ne_ctl (n : Nat) (h : n < 64) : (Reg.PKG_RAT_BASE n).offset ≠ Reg.PKG_RAT_CTL.offset := by
  simp only [Reg.offset]; omega
theorem offset_ratLimit_ne_ctl (n : Nat) (h : n < 64) : (Reg.PKG_RAT_LIMIT n).offset ≠ Reg.PKG_RAT_CTL.offset := by
  simp only [Reg.offset]; omega
theorem offset_ratBase_ne_ratBase {n m : Nat} (h : m ≠ n) : (Reg.PKG_RAT_BASE m).offset ≠ (Reg.PKG_RAT_BASE n).offset := by
  simp only [Reg.offset]; omega
theorem offset_ratLimit_ne_ratBase (n m : Nat) : (Reg.PKG_RAT_LIMIT m).offset ≠ (Reg.PKG_RAT_BASE n).offset := by
  simp only [Reg.offset]; omega

theorem ratBase_sound (n : Nat) : (Reg.PKG_RAT_BASE n).sound := by
  rw [Reg.sound, Reg.fields]; decide
theorem ratLimit_sound (n : Nat) : (Reg.PKG_RAT_LIMIT n).sound := by
  rw [Reg.sound, Reg.fields]; decide

theorem Chip.fld_ratBase_storeFields (c : Chip) (n : Nat) (v : Word) {f : Field}
    (hf : f ∈ [F.PKG_RAT_BASE_VALID, F.PKG_RAT_BASE_POLICY, F.PKG_RAT_BASE_PIN, F.PKG_RAT_BASE_BASE]) :
    (c.storeFields (.PKG_RAT_BASE n) v).fld (.PKG_RAT_BASE n) f = f.get v := by
  refine c.fld_storeFields v (ratBase_sound n) hf ?_ ?_ ?_ ?_ <;> revert f <;> decide

theorem Chip.fld_ratLimit_storeFields (c : Chip) (n : Nat) (v : Word) {f : Field} (hf : f ∈ [F.PKG_RAT_LIMIT_WAYS, F.PKG_RAT_LIMIT_LIMIT]) :
    (c.storeFields (.PKG_RAT_LIMIT n) v).fld (.PKG_RAT_LIMIT n) f = f.get v := by
  refine c.fld_storeFields v (ratLimit_sound n) hf ?_ ?_ ?_ ?_ <;> revert f <;> decide

-- the ways that a table reserves

/-- The entry takes part in the reservation (R155). -/
def Chip.ratPins (c : Chip) (m : Nat) : Bool :=
  c.bit (.PKG_RAT_BASE m) F.PKG_RAT_BASE_VALID && c.bit (.PKG_RAT_BASE m) F.PKG_RAT_BASE_PIN

theorem bitAt_foldl_or (p : Nat → Bool) (g : Nat → Nat) (w : Nat) (ns : List Nat) (acc : Nat) :
    bitAt (ns.foldl (fun acc n => if p n then acc ||| g n else acc) acc) w
      = (bitAt acc w || ns.any (fun n => p n && bitAt (g n) w)) := by
  induction ns generalizing acc with
  | nil => simp
  | cons n ns ih =>
    rw [List.foldl_cons, ih]
    by_cases hp : p n = true <;> simp [hp, bitAt, Bool.or_assoc]

theorem Chip.bitAt_reservedWays (c : Chip) (w : Nat) :
    bitAt c.reservedWays w = (List.range 64).any (fun m => c.ratPins m && bitAt (c.fld (.PKG_RAT_LIMIT m) F.PKG_RAT_LIMIT_WAYS) w) := by
  rw [Chip.reservedWays, bitAt_foldl_or (fun n => c.bit (.PKG_RAT_BASE n) F.PKG_RAT_BASE_VALID && c.bit (.PKG_RAT_BASE n) F.PKG_RAT_BASE_PIN)
    (fun n => c.fld (.PKG_RAT_LIMIT n) F.PKG_RAT_LIMIT_WAYS)]
  simp [bitAt, Chip.ratPins]

theorem Chip.reservedWays_lt (c : Chip) : c.reservedWays < 2 ^ 12 := by
  refine Nat.lt_pow_two_of_testBit _ fun w hw => ?_
  have hway : ∀ m, bitAt (c.fld (.PKG_RAT_LIMIT m) F.PKG_RAT_LIMIT_WAYS) w = false := fun m =>
    Nat.testBit_lt_two_pow (lt_of_lt_of_le (F.PKG_RAT_LIMIT_WAYS.get_lt _) (Nat.pow_le_pow_right (by decide) hw))
  change bitAt c.reservedWays w = false
  simp [c.bitAt_reservedWays, hway]

theorem Chip.fld_reservedWays_ratUpdate (c : Chip) : c.ratUpdate.fld .PKG_RAT_CTL F.PKG_RAT_CTL_RESERVED_WAYS = c.reservedWays :=
  c.fld_setFld_of_lt _ _ (by decide) (by decide) c.reservedWays_lt

theorem Chip.reg_ratUpdate_ne (c : Chip) {q : Reg} (h : q.offset ≠ Reg.PKG_RAT_CTL.offset) : c.ratUpdate.reg q = c.reg q :=
  c.reg_setFld_ne _ _ h

theorem Chip.bit_reject_ratUpdate (c : Chip) :
    c.ratUpdate.bit .PKG_RAT_CTL F.PKG_RAT_CTL_REJECT = c.bit .PKG_RAT_CTL F.PKG_RAT_CTL_REJECT :=
  c.bit_setFld_apart _ _ (by decide)

/-- The reservation after a write of entry `n`. -/
theorem Chip.ratPins_storeFields (c : Chip) (n m : Nat) (v : Word) : (c.storeFields (.PKG_RAT_BASE n) v).ratPins m =
    if m = n then F.PKG_RAT_BASE_VALID.get v == 1 && F.PKG_RAT_BASE_PIN.get v == 1 else c.ratPins m := by
  split
  next hm =>
    rw [hm, Chip.ratPins, Chip.bit, Chip.bit, c.fld_ratBase_storeFields n v (by decide), c.fld_ratBase_storeFields n v (by decide),
      Field.get_ne_zero (by decide), Field.get_ne_zero (by decide)]
  next hm =>
    have hne := offset_ratBase_ne_ratBase hm
    rw [Chip.ratPins, c.bit_storeFields_ne v _ hne, c.bit_storeFields_ne v _ hne, Chip.ratPins]

theorem Chip.fld_ratLimit_storeFields_base (c : Chip) (n m : Nat) (v : Word) (f : Field) :
    (c.storeFields (.PKG_RAT_BASE n) v).fld (.PKG_RAT_LIMIT m) f = c.fld (.PKG_RAT_LIMIT m) f :=
  c.fld_storeFields_ne v f (offset_ratLimit_ne_ratBase n m)

/-- What a write of BASE of entry `n` would leave is refused. -/
theorem Chip.ratBad_storeFields (c : Chip) (n : Nat) (v : Word) : (c.storeFields (.PKG_RAT_BASE n) v).ratBad n = true ↔
    c.fld (.PKG_RAT_LIMIT n) F.PKG_RAT_LIMIT_LIMIT < F.PKG_RAT_BASE_BASE.get v
      ∨ ((F.PKG_RAT_BASE_PIN.get v == 1) = true ∧ c.fld (.PKG_RAT_LIMIT n) F.PKG_RAT_LIMIT_WAYS = 0)
      ∨ 10 < ((List.range 12).filter (fun w => bitAt (c.storeFields (.PKG_RAT_BASE n) v).reservedWays w)).length := by
  rw [Chip.ratBad, Chip.bit, c.fld_ratLimit_storeFields_base, c.fld_ratLimit_storeFields_base, c.fld_ratBase_storeFields n v (by decide),
    c.fld_ratBase_storeFields n v (by decide), Field.get_ne_zero (by decide)]
  simp [or_assoc]

theorem Chip.ratValid_storeFields (c : Chip) (n : Nat) (v : Word) :
    (c.storeFields (.PKG_RAT_BASE n) v).bit (.PKG_RAT_BASE n) F.PKG_RAT_BASE_VALID = (F.PKG_RAT_BASE_VALID.get v == 1) := by
  rw [Chip.bit, c.fld_ratBase_storeFields n v (by decide), Field.get_ne_zero (by decide)]

-- the writes

theorem Chip.ratBaseWrite_of_sealed (c : Chip) {who : Who} (h : who.sealed = true) (n : Nat) (v : Word) :
    c.ratBaseWrite who n v = if (c.storeFields (.PKG_RAT_BASE n) v).bit (.PKG_RAT_BASE n) F.PKG_RAT_BASE_VALID
        && (c.storeFields (.PKG_RAT_BASE n) v).ratBad n then c.setBit .PKG_RAT_CTL F.PKG_RAT_CTL_REJECT true
      else (c.storeFields (.PKG_RAT_BASE n) v).ratUpdate := by
  simp [Chip.ratBaseWrite, Chip.ifMay, h]

theorem gives_ratBaseWrite (s : State) (who : Who) {n : Nat} (v : Word) (hn : n < 64) :
    Gives (.pkgRatBaseWrite who n v) s (s.chip.ratBaseWrite who n v) := by
  show execPkgRatBaseWrite who n v s = _
  simp [execPkgRatBaseWrite, hn, State.onChip]

theorem gives_ratLimitWrite (s : State) (who : Who) {n : Nat} (v : Word) (hn : n < 64) :
    Gives (.pkgRatLimitWrite who n v) s (s.chip.ratLimitWrite who n v) := by
  show execPkgRatLimitWrite who n v s = _
  simp [execPkgRatLimitWrite, hn, State.onChip]

/-- Settles O27: the write of an entry is refused as a whole or in effect at once, and RESERVED_WAYS follows the table. -/
theorem regionTable : Obligations.RegionTable := by
  intro s who n v hn c valid pin pins reserved bad y
  have hpins : ∀ m, y.ratPins m = pins m := fun m => c.ratPins_storeFields n m v
  have hways : ∀ w, bitAt y.reservedWays w = reserved w := fun w => by
    rw [y.bitAt_reservedWays]
    simp only [hpins, y, c.fld_ratLimit_storeFields_base, reserved]
  have hbad : y.ratBad n = true ↔ bad := by
    rw [c.ratBad_storeFields n v, show (fun w => bitAt (c.storeFields (.PKG_RAT_BASE n) v).reservedWays w) = reserved from funext hways]
  have hvalid : y.bit (.PKG_RAT_BASE n) F.PKG_RAT_BASE_VALID = valid := c.ratValid_storeFields n v
  have hbase := gives_ratBaseWrite s who v hn
  have hlimit := gives_ratLimitWrite s who v hn
  refine ⟨fun hw hv hb => ?_, fun hw hvb => ?_, fun hw hv => ?_, fun hw hv => ?_, fun hw => ?_⟩
  · rw [Chip.ratBaseWrite_of_sealed _ hw, if_pos (by rw [hvalid, hv, hbad.2 hb]; rfl)] at hbase
    exact hbase
  · rw [Chip.ratBaseWrite_of_sealed _ hw, if_neg (by rw [Bool.and_eq_true, hvalid, hbad]; exact hvb)] at hbase
    refine ⟨hbase, _, hbase, fun f hf => ?_, fun w => ?_, ?_, fun m hm hmn => ?_, fun m hm => ?_⟩
    · rw [Chip.fld, y.reg_ratUpdate_ne (offset_ratBase_ne_ctl n hn)]
      exact c.fld_ratBase_storeFields n v hf
    · rw [y.fld_reservedWays_ratUpdate, ← hways]
      by_cases hw12 : w < 12
      · simp [hw12]
      · simpa [hw12, bitAt] using Nat.testBit_lt_two_pow (lt_of_lt_of_le y.reservedWays_lt (Nat.pow_le_pow_right (by decide) (by omega)))
    · exact y.bit_reject_ratUpdate.trans (c.bit_storeFields_ne v _ (offset_ratBase_ne_ctl n hn).symm)
    · exact (y.reg_ratUpdate_ne (offset_ratBase_ne_ctl m hm)).trans (c.reg_storeFields_ne v (offset_ratBase_ne_ratBase hmn))
    · exact (y.reg_ratUpdate_ne (offset_ratLimit_ne_ctl m hm)).trans (c.reg_storeFields_ne v (offset_ratLimit_ne_ratBase n m))
  · rw [Chip.ratLimitWrite, Chip.ifMay, if_pos hw, if_pos hv] at hlimit
    exact hlimit
  · rw [Chip.ratLimitWrite, Chip.ifMay, if_pos hw, if_neg (by rw [hv]; simp)] at hlimit
    exact ⟨hlimit, _, hlimit, c.fld_ratLimit_storeFields n v (by decide), c.fld_ratLimit_storeFields n v (by decide),
      fun r hr => c.reg_storeFields_ne v hr⟩
  · rw [Chip.ratBaseWrite, Chip.ifMay, if_neg (by simp [hw])] at hbase
    rw [Chip.ratLimitWrite, Chip.ifMay, if_neg (by simp [hw])] at hlimit
    exact ⟨hbase, hlimit⟩

end Sys2Proof.Machine
end

section
/-! Interrupts, WFI and the machine timer (R34, R76, R117). An interrupt that waits leaves what a trap reads of its hart, so the trap
that follows is that of the hart as it was. -/

namespace Sys2Proof.Machine

-- a hart whose instructions are discarded and for which an interrupt waits

/-- The hart with its instructions discarded and an interrupt waiting, or none. -/
def Hart.waits (x : Hart) (w : Option Nat) : Hart := { x.discard with irqWait := w }

theorem Hart.setCsr_waits (x : Hart) (w : Option Nat) (n : Nat) (v : Word) : (x.waits w).setCsr n v = (x.setCsr n v).waits w := (rfl)
theorem Hart.getCsr_waits (x : Hart) (w : Option Nat) (n : Nat) : (x.waits w).getCsr n = x.getCsr n := (rfl)
theorem Hart.csrBit_waits (x : Hart) (w : Option Nat) (n i : Nat) : (x.waits w).csrBit n i = x.csrBit n i := (rfl)
theorem Hart.csrBits_waits (x : Hart) (w : Option Nat) (n hi lo : Nat) : (x.waits w).csrBits n hi lo = x.csrBits n hi lo := (rfl)
theorem Hart.putCsr_waits (x : Hart) (w : Option Nat) (n hi lo v : Nat) : (x.waits w).putCsr n hi lo v = (x.putCsr n hi lo v).waits w := (rfl)
theorem Hart.putBit_waits (x : Hart) (w : Option Nat) (n i : Nat) (b : Bool) : (x.waits w).putBit n i b = (x.putBit n i b).waits w := (rfl)
theorem Hart.pc_waits (x : Hart) (w : Option Nat) : (x.waits w).pc = x.pc := (rfl)
theorem Hart.priv_waits (x : Hart) (w : Option Nat) : (x.waits w).priv = x.priv := (rfl)
theorem Hart.virt_waits (x : Hart) (w : Option Nat) : (x.waits w).virt = x.virt := (rfl)
theorem Hart.run_waits (x : Hart) (w : Option Nat) : (x.waits w).run = x.run := (rfl)
theorem Hart.world_waits (x : Hart) (w : Option Nat) : (x.waits w).world = x.world := (rfl)
theorem Hart.ifile_waits (x : Hart) (w : Option Nat) (f : Nat) : (x.waits w).ifile f = x.ifile f := (rfl)
theorem Hart.stce_waits (x : Hart) (w : Option Nat) : (x.waits w).stce = x.stce := (rfl)
theorem Hart.waits_goes (x : Hart) (w : Option Nat) (p : Word) (m : Nat) (v : Bool) :
    ({ x.waits w with pc := p, priv := m, virt := v } : Hart) = ({ x with pc := p, priv := m, virt := v } : Hart).waits w := rfl
theorem Hart.waits_waits (x : Hart) (w w' : Option Nat) : (x.waits w).waits w' = x.waits w' := (rfl)

theorem Hart.trapTarget_waits (x : Hart) (w : Option Nat) (t : TrapInfo) : (x.waits w).trapTarget t = x.trapTarget t := by
  simp only [Hart.trapTarget, Hart.priv_waits, Hart.virt_waits, Hart.csrBit_waits]

theorem Hart.trapGva_waits (x : Hart) (w : Option Nat) (t : TrapInfo) : (x.waits w).trapGva t = x.trapGva t := by
  simp only [Hart.trapGva, Hart.priv_waits, Hart.virt_waits, Hart.csrBit_waits, Hart.csrBits_waits]

theorem Chip.gateEntry_waits (c : Chip) (x : Hart) (w : Option Nat) : c.gateEntry (x.waits w) = (c.gateEntry x).waits w := by
  simp only [Chip.gateEntry, Hart.world_waits, Hart.putCsr_waits, Hart.putBit_waits]

theorem Chip.enterTrap_waits (c : Chip) (x : Hart) (w : Option Nat) (t : TrapInfo) :
    c.enterTrap (x.waits w) t = (c.enterTrap x t).waits w := by
  unfold Chip.enterTrap
  rw [Hart.trapTarget_waits, Hart.trapGva_waits]
  split
  · simp only [c.gateEntry_waits, Hart.setCsr_waits, Hart.putBit_waits, Hart.putCsr_waits, Hart.pc_waits, Hart.virt_waits, Hart.priv_waits,
      Hart.csrBit_waits, Hart.getCsr_waits, Hart.waits_goes]
  · simp only [Hart.setCsr_waits, Hart.putBit_waits, Hart.pc_waits, Hart.virt_waits, Hart.priv_waits]
    split
    · simp only [Hart.putBit_waits, Hart.priv_waits, Hart.csrBit_waits, Hart.getCsr_waits, Hart.waits_goes]
    · simp only [Hart.putBit_waits, Hart.priv_waits, Hart.csrBit_waits, Hart.getCsr_waits, Hart.waits_goes]
  · simp only [Hart.setCsr_waits, Hart.putBit_waits, Hart.pc_waits, Hart.priv_waits, Hart.csrBit_waits, Hart.getCsr_waits,
      Hart.waits_goes]


-- a trap into M-mode

theorem Hart.csrBits_setCsr_ne (x : Hart) {m n : Nat} (v : Word) (hi lo : Nat) (h : m ≠ n) : (x.setCsr n v).csrBits m hi lo = x.csrBits m hi lo := by
  rw [Hart.csrBits_eq_get, Hart.csrBits_eq_get, x.getCsr_setCsr_ne v h]

/-- The hart of a trap into M-mode with its cause recorded. -/
def Chip.trapCaused (c : Chip) (x : Hart) (t : TrapInfo) : Hart :=
  (((c.gateEntry x).setCsr csrMepc (c.gateEntry x).pc).setCsr csrMcause (trapCause t)).setCsr csrMtval t.tval

/-- … with what it knows of a guest. -/
def Chip.trapGuest (c : Chip) (x : Hart) (t : TrapInfo) : Hart :=
  ((((c.trapCaused x t).setCsr csrMtval2 (BitVec.ofNat 64 (t.gpa / 4))).putBit csrMstatus 39 (c.trapCaused x t).virt).putBit csrMstatus 38
    (x.trapGva t)).setCsr csrMtinst t.inst

/-- … with its status: every CSR as the trap leaves it. -/
def Chip.trapStatus (c : Chip) (x : Hart) (t : TrapInfo) : Hart :=
  (((c.trapGuest x t).putBit csrMstatus 7 ((c.trapGuest x t).csrBit csrMstatus 3)).putBit csrMstatus 3 false).putCsr csrMstatus 12 11
    (c.trapGuest x t).priv

theorem Chip.trapStatus_getCsr (c : Chip) (x : Hart) (t : TrapInfo) {m : Nat} (h : m ≠ csrMstatus) (h' : m ≠ csrMtinst) (h'' : m ≠ csrMtval2) :
    (c.trapStatus x t).getCsr m = (c.trapCaused x t).getCsr m := by
  rw [Chip.trapStatus, Hart.getCsr_putCsr_ne _ _ _ _ h, Hart.getCsr_putBit_ne _ _ _ h, Hart.getCsr_putBit_ne _ _ _ h, Chip.trapGuest,
    Hart.getCsr_setCsr_ne _ _ h', Hart.getCsr_putBit_ne _ _ _ h, Hart.getCsr_putBit_ne _ _ _ h, Hart.getCsr_setCsr_ne _ _ h'']

theorem Chip.trapCaused_getCsr (c : Chip) (x : Hart) (t : TrapInfo) {m : Nat} (h : m ≠ csrMepc) (h' : m ≠ csrMcause) (h'' : m ≠ csrMtval) :
    (c.trapCaused x t).getCsr m = (c.gateEntry x).getCsr m := by
  rw [Chip.trapCaused, Hart.getCsr_setCsr_ne _ _ h'', Hart.getCsr_setCsr_ne _ _ h', Hart.getCsr_setCsr_ne _ _ h]

theorem Chip.trapStatus_ie (c : Chip) (x : Hart) (t : TrapInfo) : (c.trapStatus x t).csrBit csrMstatus 3 = false := by
  rw [Chip.trapStatus, Hart.csrBit_putCsr _ _ _ _ _ (by decide) (by decide) (by decide), if_neg (by decide), Hart.csrBit_putBit _ _ _ _ _ _ (by decide) (by decide)]
  rfl

theorem Chip.trapStatus_world (c : Chip) (x : Hart) (t : TrapInfo) : (c.trapStatus x t).world = 1 := by
  have h : (c.trapStatus x t).getCsr csrMworld = (c.gateEntry x).getCsr csrMworld :=
    (c.trapStatus_getCsr x t (by decide) (by decide) (by decide)).trans (c.trapCaused_getCsr x t (by decide) (by decide) (by decide))
  rw [Hart.world, Hart.csrBits_eq_get, h, ← Hart.csrBits_eq_get, Chip.gateEntry, Hart.csrBits_putBit_ne _ _ _ _ _ (by decide),
    Hart.csrBits_putCsr _ _ _ (by decide) (by decide)]
  rfl

theorem Chip.trapStatus_haltPending (c : Chip) (x : Hart) (t : TrapInfo) : (c.trapStatus x t).haltPending = x.haltPending := by
  simp only [Chip.trapStatus, Chip.trapGuest, Chip.trapCaused, Chip.gateEntry, Hart.putCsr, Hart.putBit, Hart.setCsr_haltPending]

/-- The hart goes on at `p`, in M-mode. -/
def Hart.goesM (x : Hart) (p : Word) : Hart := { x with pc := p, priv := 3, virt := false }

theorem Hart.goesM_csr (x : Hart) (p : Word) : (x.goesM p).csr = x.csr := rfl
theorem Hart.goesM_fields (x : Hart) (p : Word) : (x.goesM p).priv = 3 ∧ (x.goesM p).pc = p ∧ (x.goesM p).haltPending = x.haltPending :=
  ⟨rfl, rfl, rfl⟩
theorem Hart.goesM_world (x : Hart) (p : Word) : (x.goesM p).world = x.world := by
  rw [Hart.world, Hart.csrBits_of_csr (x.goesM_csr p), Hart.world]

theorem Chip.enterTrap_toM (c : Chip) (x : Hart) (t : TrapInfo) (ht : (x.trapTarget t).1 = 3) :
    c.enterTrap x t = (c.trapStatus x t).goesM (trapVector ((c.trapStatus x t).getCsr csrMtvec) t) := by
  obtain ⟨v, hv⟩ : ∃ v, x.trapTarget t = (3, v) := ⟨_, Prod.ext ht rfl⟩
  unfold Chip.enterTrap
  rw [hv]
  rfl

/-- What a trap into M-mode makes of its hart (R63). -/
theorem Chip.enterTrap_fields (c : Chip) (x : Hart) (t : TrapInfo) (ht : (x.trapTarget t).1 = 3) : let y := c.enterTrap x t
    y.priv = 3 ∧ y.world = 1 ∧ y.getCsr csrMepc = x.pc ∧ y.getCsr csrMcause = trapCause t
      ∧ y.pc = trapVector (x.getCsr csrMtvec) t ∧ y.csrBit csrMstatus 3 = false ∧ y.haltPending = x.haltPending := by
  rw [c.enterTrap_toM x t ht]
  have hw := c.trapStatus_world x t
  have hie := c.trapStatus_ie x t
  have hhp := c.trapStatus_haltPending x t
  have hcsr := fun {m : Nat} => c.trapStatus_getCsr x t (m := m)
  have hepc : (c.trapStatus x t).getCsr csrMepc = x.pc := by
    rw [hcsr (by decide) (by decide) (by decide), Chip.trapCaused, Hart.getCsr_setCsr_ne _ _ (by decide),
      Hart.getCsr_setCsr_ne _ _ (by decide), Hart.getCsr_setCsr]
    simp only [Chip.gateEntry, Hart.putCsr, Hart.putBit, Hart.setCsr_pc]
  have hcause : (c.trapStatus x t).getCsr csrMcause = trapCause t := by
    rw [hcsr (by decide) (by decide) (by decide), Chip.trapCaused, Hart.getCsr_setCsr_ne _ _ (by decide), Hart.getCsr_setCsr]
  have htvec : (c.trapStatus x t).getCsr csrMtvec = x.getCsr csrMtvec := by
    rw [hcsr (by decide) (by decide) (by decide), c.trapCaused_getCsr x t (by decide) (by decide) (by decide), Chip.gateEntry,
      Hart.getCsr_putBit_ne _ _ _ (by decide), Hart.getCsr_putCsr_ne _ _ _ _ (by decide), Hart.getCsr_putCsr_ne _ _ _ _ (by decide)]
  clear hcsr
  rw [htvec]
  generalize c.trapStatus x t = z at *
  obtain ⟨hpriv, hpc, hhalt⟩ := z.goesM_fields (trapVector (x.getCsr csrMtvec) t)
  have hc := z.goesM_csr (trapVector (x.getCsr csrMtvec) t)
  exact ⟨hpriv, (z.goesM_world _).trans hw, (Hart.getCsr_of_csr hc _).trans hepc, (Hart.getCsr_of_csr hc _).trans hcause, hpc,
    (Hart.csrBit_of_csr hc _ _).trans hie, hhalt.trans hhp⟩

-- what is pending at a hart

theorem Hart.world_of_csr {x y : Hart} (h : x.csr = y.csr) : x.world = y.world := by
  rw [Hart.world, Hart.csrBits_of_csr h, Hart.world]

/-- The interrupts of a hart depend on its CSRs and files, on the registers and on package time. -/
theorem Chip.mip_congr {c d : Chip} {h : Nat} (hregs : d.regs = c.regs) (hnow : d.now = c.now) (hcsr : (d.hart h).csr = (c.hart h).csr)
    (hfile : (d.hart h).file = (c.hart h).file) : d.mip h = c.mip h := by
  have hreg : ∀ r, d.reg r = c.reg r := fun r => by rw [Chip.reg, hregs, Chip.reg]
  have hsig : ∀ f, (d.hart h).ifile f = (c.hart h).ifile f := fun f => by rw [Hart.ifile, hfile, Hart.ifile]
  have hworld := Hart.world_of_csr hcsr
  have hbits := fun n hi lo => Hart.csrBits_of_csr hcsr n hi lo
  have hget := fun n => Hart.getCsr_of_csr hcsr n
  have hown : ∀ f, d.fileOwner h f = c.fileOwner h f := fun f => by rw [Chip.fileOwner, Chip.fld, hreg, Chip.fileOwner, Chip.fld]
  have hgeip : d.hgeip h = c.hgeip h := by simp only [Chip.hgeip, hsig, hworld, hown]
  simp only [Chip.mip, Chip.mtip, Chip.msip, Chip.stip, Chip.vstip, Chip.seip, Chip.vseip, Chip.worldPending, hgeip, hsig, hworld, hown,
    Hart.stce, hget, hbits, Chip.bit, Chip.fld, hreg, hnow]
  rfl

theorem Chip.mip_waits (c : Chip) (h : Nat) (w : Option Nat) : (c.onHart h (fun x => x.waits w)).mip h = c.mip h :=
  Chip.mip_congr rfl rfl (by rw [Chip.hart_onHart]; rfl) (by rw [Chip.hart_onHart]; rfl)

theorem Chip.mip_given (c : Chip) (h : Nat) (i : Instr) : (c.given h i).mip h = c.mip h :=
  Chip.mip_congr rfl rfl (by rw [Chip.hart_given]) (by rw [Chip.hart_given])

theorem Chip.mie_given (c : Chip) (h : Nat) (i : Instr) : (c.given h i).mie h = c.mie h := by
  rw [Chip.mie, Chip.mie, Hart.getCsr_of_csr (y := c.hart h) (by rw [Chip.hart_given])]

theorem Chip.irqReady_waits (c : Chip) (h : Nat) (w : Option Nat) (cause : Nat) :
    (c.onHart h (fun x => x.waits w)).irqReady h cause = c.irqReady h cause := by
  simp only [Chip.irqReady, c.mip_waits, Chip.mie, Chip.hart_onHart, Hart.trapTarget_waits, Hart.getCsr_waits, Hart.csrBit_waits,
    Hart.priv_waits, Hart.virt_waits]

-- an interrupt that is taken at once

theorem serase_sset {V : Type} [DecidableEq V] (d : V) (k : Nat) (v : V) (m : Sparse V) : serase k (sset d k v m) = serase k m := by
  have hi : ∀ l : Sparse V, serase k (sinsert k v l) = serase k l := fun l => by
    induction l with
    | nil => simp [sinsert, serase]
    | cons e l ih =>
      simp only [sinsert]
      split
      · simp [serase]
      · simp only [serase, List.filter_cons] at ih ⊢
        rw [ih]
  unfold sset
  split
  · simp [serase]
  · rw [hi]; simp [serase]

theorem sset_sset {V : Type} [DecidableEq V] (d : V) (k : Nat) (v w : V) (m : Sparse V) : sset d k w (sset d k v m) = sset d k w m := by
  rw [sset, serase_sset, sset]

theorem Chip.setHart_onHart (c : Chip) (h : Nat) (f : Hart → Hart) (x : Hart) : (c.onHart h f).setHart h x = c.setHart h x := by
  simp only [Chip.onHart, Chip.setHart, sset_sset]

/-- The hart as a trap leaves it, before its lines are let go. -/
def Chip.trapped (c : Chip) (x : Hart) (t : TrapInfo) : Hart :=
  { ((c.enterTrap (x.recordCheck x.world t.check) t).waits none) with
    io := none, fetched := none, run := if x.run = .wfi then .running else x.run }

theorem Chip.trapped_waits (c : Chip) (x : Hart) (w : Option Nat) {t : TrapInfo} (ht : t.check = none) :
    c.trapped (x.waits w) t = c.trapped x t := by
  simp only [Chip.trapped, ht, Hart.recordCheck, c.enterTrap_waits, Hart.waits_waits, Hart.run_waits]

theorem Chip.takeTrap_eq (c : Chip) (h : Nat) (t : TrapInfo) : c.takeTrap h t =
    (let x2 := c.enterTrap ((c.hart h).recordCheck (c.hart h).world t.check) t
     let c2 := ((c.setHart h (c.trapped (c.hart h) t)).unpin h).settle h
     (if x2.priv = 3 then c2.haltAtGate h else c2).stepHalt h) := rfl

theorem Chip.takeTrap_waits (c : Chip) (h : Nat) (w : Option Nat) {t : TrapInfo} (ht : t.check = none) :
    (c.onHart h (fun x => x.waits w)).takeTrap h t = c.takeTrap h t := by
  have henter : ∀ x, (c.onHart h (fun x => x.waits w)).enterTrap x t = c.enterTrap x t := fun _ => rfl
  have htrapped : ∀ x, (c.onHart h (fun x => x.waits w)).trapped x t = c.trapped x t := fun _ => rfl
  rw [Chip.takeTrap_eq, Chip.takeTrap_eq]
  simp only [henter, htrapped, Chip.hart_onHart, c.trapped_waits _ w ht, Chip.setHart_onHart, ht, Hart.recordCheck, c.enterTrap_waits,
    Hart.priv_waits]

theorem Chip.onHart_congr (c : Chip) (h : Nat) {f g : Hart → Hart} (e : f (c.hart h) = g (c.hart h)) : c.onHart h f = c.onHart h g := by
  rw [Chip.onHart, e, Chip.onHart]

theorem Chip.interrupt_of_ready {c : Chip} {h cause : Nat} (hr : (c.hart h).run = .running) (hi : c.irqReady h cause = true) :
    c.interrupt h cause = (c.onHart h (fun x => { (if x.begun then { x with hq := x.hq.take 1 } else x.discard) with
      irqWait := some cause })).irqPoll h := by
  have hw : c.wake h = c := by simp [Chip.wake, hr]
  simp [Chip.interrupt, hw, hr, hi]

theorem Chip.interrupt_of_not_ready {c : Chip} {h cause : Nat} (hr : (c.hart h).run = .running) (hi : c.irqReady h cause = false) :
    c.interrupt h cause = c := by
  have hw : c.wake h = c := by simp [Chip.wake, hr]
  simp [Chip.interrupt, hw, hi]

theorem Chip.Free.not_begun {c : Chip} {h : Nat} (hf : c.Free h) (hio : (c.hart h).io = none) : (c.hart h).begun = false := by
  simp [Hart.begun, hio, hf.xlat]

theorem Chip.interrupt_of_free {c : Chip} {h cause : Nat} (hf : c.Free h) (hi : c.irqReady h cause = true) (hio : (c.hart h).io = none) :
    c.interrupt h cause = (c.onHart h (fun x => x.waits (some cause))).irqPoll h := by
  rw [Chip.interrupt_of_ready hf.run hi]
  exact congrArg (fun d => Chip.irqPoll d h) (c.onHart_congr h (by rw [if_neg (by simp [hf.not_begun hio])]; rfl))

theorem Chip.irqPoll_of_busy {c : Chip} {h : Nat} (hb : (c.hart h).tsent ≠ [] ∨ (c.hart h).begun = true) : c.irqPoll h = c := by
  unfold Chip.irqPoll
  dsimp only
  split
  · rfl
  · rw [if_pos (by tauto)]

/-- At a hart whose tile unit is empty and which awaits no I/O answer, the interrupt is taken at once. -/
theorem Chip.interrupt_taken {c : Chip} {h cause : Nat} (hf : c.Free h) (hi : c.irqReady h cause = true) (hts : (c.hart h).tsent = [])
    (hio : (c.hart h).io = none) : c.interrupt h cause = c.takeTrap h { cause := cause, int := true } := by
  have hb : ((c.hart h).waits (some cause)).begun = false := by
    have hx : ((c.hart h).waits (some cause)).xlat = [] := rfl
    simp [Hart.begun, hx, show ((c.hart h).waits (some cause)).io = none from hio]
  have hirq : ((c.hart h).waits (some cause)).irqWait = some cause := rfl
  have hsent : ((c.hart h).waits (some cause)).tsent = [] := hts
  rw [Chip.interrupt_of_free hf hi hio, Chip.irqPoll, Chip.hart_onHart, hirq]
  simp only [hb, hsent, Hart.run_waits, hf.run, c.irqReady_waits, hi, c.takeTrap_waits h (some cause) (t := { cause := cause, int := true }) rfl]
  simp

/-- A trap into M-mode, as the hart of it stands afterwards. -/
theorem Chip.hart_takeTrap {c : Chip} {h : Nat} {t : TrapInfo} (hc : c.Calm h) (ht : ((c.hart h).trapTarget t).1 = 3)
    (hcheck : t.check = none) (hp : (c.hart h).haltPending = false) :
    (c.takeTrap h t).hart h = c.trapped (c.hart h) t ∧ ∀ k, k ≠ h → (c.takeTrap h t).hart k = c.hart k := by
  have hcalm := hc.takeTrap t
  have hhart : (((c.setHart h (c.trapped (c.hart h) t)).unpin h).settle h).hart h = c.trapped (c.hart h) t := by
    rw [Chip.hart_settle, Chip.hart_unpin, Chip.hart_setHart]
  have hpend : (c.trapped (c.hart h) t).haltPending = false := by
    rw [show (c.trapped (c.hart h) t).haltPending = (c.enterTrap ((c.hart h).recordCheck (c.hart h).world t.check) t).haltPending from rfl, hcheck]
    exact (c.enterTrap_fields (c.hart h) t ht).2.2.2.2.2.2.trans hp
  have hc2 : (((c.setHart h (c.trapped (c.hart h) t)).unpin h).settle h).Calm h := by
    refine Chip.Calm.settle (Chip.Calm.unpin (Chip.Calm.setHart ?_) h) h
    obtain ⟨-, hhalt, hstep⟩ := Hart.Calm.enterTrap (Hart.Calm.recordCheck hc (c.hart h).world t.check) c t
    exact ⟨rfl, hhalt, hstep⟩
  have hgate : (((c.setHart h (c.trapped (c.hart h) t)).unpin h).settle h).haltAtGate h
      = ((c.setHart h (c.trapped (c.hart h) t)).unpin h).settle h := Chip.haltAtGate_of_not (Or.inl (by rw [hhart]; exact hpend))
  have htake : c.takeTrap h t = ((c.setHart h (c.trapped (c.hart h) t)).unpin h).settle h := by
    rw [Chip.takeTrap_eq]
    dsimp only
    rw [hgate, ite_self, Chip.stepHalt_of_calm hc2]
  rw [htake]
  exact ⟨hhart, fun k hk => by rw [Chip.hart_settle, Chip.hart_unpin, Chip.hart_setHart_ne _ _ hk]⟩

theorem Chip.trapped_fields (c : Chip) (x : Hart) (t : TrapInfo) (ht : (x.trapTarget t).1 = 3) (hcheck : t.check = none) : let y := c.trapped x t
    y.priv = 3 ∧ y.world = 1 ∧ y.getCsr csrMepc = x.pc ∧ y.getCsr csrMcause = trapCause t
      ∧ y.pc = trapVector (x.getCsr csrMtvec) t ∧ y.csrBit csrMstatus 3 = false ∧ y.irqWait = none := by
  obtain ⟨hpriv, hworld, hepc, hcause, hpc, hie, -⟩ := c.enterTrap_fields x t ht
  rw [Chip.trapped, hcheck, Hart.recordCheck]
  generalize c.enterTrap x t = z at *
  generalize trapVector (x.getCsr csrMtvec) t = p at *
  exact ⟨hpriv, (Hart.world_of_csr (y := z) rfl).trans hworld, (Hart.getCsr_of_csr (y := z) rfl _).trans hepc,
    (Hart.getCsr_of_csr (y := z) rfl _).trans hcause, hpc, (Hart.csrBit_of_csr (y := z) rfl _ _).trans hie, rfl⟩

-- WFI and the timer

/-- WFI of a hart whose mode may wait (R34). -/
theorem Chip.wfi_of_may {c : Chip} {h : Nat} (hm : (c.hart h).priv = 3 ∨ ((c.hart h).priv = 1 ∧ (c.hart h).csrBit csrMstatus 21 = false))
    (hv : (c.hart h).virt = false ∨ (c.hart h).csrBit csrHstatus 21 = false) :
    c.wfi h = if (c.mip h &&& c.mie h) ≠ 0 then (c, .done) else (c.onHart h (fun y => { y with run := .wfi }), .done) := by
  unfold Chip.wfi
  dsimp only
  rw [if_neg, if_neg, if_neg]
  · rcases hm with hm | ⟨hm, -⟩ <;> rcases hv with hv | hv <;> simp [hm, hv]
  · rcases hm with hm | ⟨hm, hm'⟩ <;> simp [hm]; simpa using hm'
  · rcases hm with hm | ⟨hm, -⟩ <;> simp [hm]

theorem Chip.bitAt_mip_timer (c : Chip) (h : Nat) : bitAt (c.mip h) 7 = c.mtip h := by
  simp only [Chip.mip, bitAt_withBit]
  rfl

theorem Chip.reg_of_regs {c d : Chip} (h : d.regs = c.regs) (r : Reg) : d.reg r = c.reg r := by rw [Chip.reg, h, Chip.reg]

/-- Waking changes nothing of a hart but whether it waits. -/
theorem Chip.wake_cases (c : Chip) (h : Nat) : c.wake h = c ∨ c.wake h = c.onHart h (fun x => { x with run := .running }) := by
  unfold Chip.wake
  split
  · exact Or.inr rfl
  · exact Or.inl rfl

theorem Chip.regs_wake (c : Chip) (h : Nat) : (c.wake h).regs = c.regs := by
  rcases c.wake_cases h with e | e <;> rw [e]; rfl
theorem Chip.now_wake (c : Chip) (h : Nat) : (c.wake h).now = c.now := by
  rcases c.wake_cases h with e | e <;> rw [e]; rfl
theorem Chip.hq_wake (c : Chip) (h : Nat) : ((c.wake h).hart h).hq = (c.hart h).hq := by
  rcases c.wake_cases h with e | e <;> rw [e]; rw [Chip.hart_onHart]
theorem Chip.irqWait_wake (c : Chip) (h : Nat) : ((c.wake h).hart h).irqWait = (c.hart h).irqWait := by
  rcases c.wake_cases h with e | e <;> rw [e]; rw [Chip.hart_onHart]
theorem Chip.haltWait_wake (c : Chip) (h : Nat) : ((c.wake h).hart h).haltWait = (c.hart h).haltWait := by
  rcases c.wake_cases h with e | e <;> rw [e]; rw [Chip.hart_onHart]

/-- Settles O13: an interrupt that waits for nothing is taken at once, and what waits in WFI goes on when one is pending. -/
theorem interruptsAndWfi : Obligations.InterruptsAndWfi := by
  refine ⟨⟨fun s h cause hf hcause hi hts hio => ?_, fun s h cause hf hcause hi hts hio => ?_, fun s h cause hh hcause hr hi hb => ?_,
    fun s h cause hf hcause hi => ?_⟩, fun s h hf => ?_, fun s h hh hq hirq hhalt => ?_⟩
  · have hok : (hartOk h && decide (cause < 64)) = true := by simp [hf.hart, hcause]
    have hgives : Gives (.interruptTaken h cause) s (s.chip.takeTrap h { cause := cause, int := true }) :=
      gives_of_onChip rfl hok (Chip.interrupt_taken hf hi hts hio)
    refine ⟨hgives, fun ht hp => ⟨_, hgives, ?_⟩⟩
    dsimp only
    obtain ⟨hhart, hrest⟩ := Chip.hart_takeTrap hf.calm ht rfl hp
    obtain ⟨hpriv, hworld, hepc, hmc, hpc, hie, hw⟩ := s.chip.trapped_fields (s.chip.hart h) _ ht rfl
    rw [hhart]
    refine ⟨hpriv, hworld, hepc, hmc.trans ?_, hpc, hie, hw, hrest⟩
    simp [trapCause, flag, Nat.add_comm]
  · have hok : (hartOk h && decide (cause < 64)) = true := by simp [hf.hart, hcause]
    refine gives_of_onChip rfl hok ?_
    show s.chip.interrupt h cause = _
    rw [Chip.interrupt_of_free hf hi hio, Chip.irqPoll_of_busy (Or.inl (by rw [Chip.hart_onHart]; exact hts))]
    rfl
  · have hok : (hartOk h && decide (cause < 64)) = true := by simp [hh, hcause]
    refine gives_of_onChip rfl hok ?_
    show s.chip.interrupt h cause = _
    have hstep : s.chip.onHart h (fun x => { (if x.begun then { x with hq := x.hq.take 1 } else x.discard) with irqWait := some cause })
        = s.chip.onHart h (fun x => { x with irqWait := some cause, hq := x.hq.take 1 }) := s.chip.onHart_congr h (by rw [if_pos hb])
    rw [Chip.interrupt_of_ready hr hi, hstep, Chip.irqPoll_of_busy (Or.inr ?_)]
    rw [Chip.hart_onHart]
    simpa [Hart.begun, List.head?_take] using hb
  · have hok : (hartOk h && decide (cause < 64)) = true := by simp [hf.hart, hcause]
    exact gives_of_onChip rfl hok (Chip.interrupt_of_not_ready hf.run hi)
  · intro x hm hv
    have hwfi : (s.chip.given h (.wfi h)).perform h (.wfi h) = if (s.chip.mip h &&& s.chip.mie h) ≠ 0 then (s.chip.given h (.wfi h), .done)
        else ((s.chip.given h (.wfi h)).onHart h (fun y => { y with run := .wfi }), .done) := by
      rw [Chip.perform, ite_tile_of_not rfl, Chip.wfi_of_may (by rw [Chip.hart_given]; exact hm) (by rw [Chip.hart_given]; exact hv), Chip.mip_given, Chip.mie_given]
    refine ⟨fun hp => ?_, fun hp => ?_⟩
    · have hcalm := (hf.calm_given (.wfi h)).onHart (f := fun y => { y with run := .wfi }) (fun y hy => hy.of_csr rfl rfl rfl) h
      have hgives := gives_of_onChip (i := .wfi h) (s := s) rfl (hartOk_of_lt hf.hart)
        (Chip.issueInstr_retires hf rfl (hwfi.trans (if_neg (by simpa using hp))) hcalm)
      refine ⟨hgives, _, hgives, ?_⟩
      dsimp only
      obtain ⟨hpc, -, -, hrun, hq, -⟩ := Chip.hart_after_fields (Chip.hart_onHart (s.chip.given h (.wfi h)) h (fun y => { y with run := .wfi }))
        (by rw [Chip.hart_given]; exact Nat.le_refl 1)
      rw [Chip.hart_given] at hpc
      exact ⟨hrun, hpc, hq⟩
    · have hgives := gives_of_onChip (i := .wfi h) (s := s) rfl (hartOk_of_lt hf.hart)
        (Chip.issueInstr_retires hf rfl (hwfi.trans (if_pos hp)) (hf.calm_given (.wfi h)))
      refine ⟨hgives, _, hgives, ?_⟩
      dsimp only
      obtain ⟨-, -, -, hrun, hq, -⟩ := Chip.hart_after_fields (Chip.hart_given s.chip h (.wfi h)) (Nat.le_refl 1)
      exact ⟨hrun.trans hf.run, hq⟩
  · have hgives : Gives (.machineTimerInterrupt h) s (s.chip.wake h) :=
      gives_of_onChip rfl (hartOk_of_lt hh) (Chip.run_of_idle (by rw [Chip.hq_wake]; exact hq) (by rw [Chip.irqWait_wake]; exact hirq)
        (by rw [Chip.haltWait_wake]; exact hhalt))
    refine ⟨_, hgives, ?_, fun hr hp => ?_, fun hn => ?_⟩
    · rw [Chip.bitAt_mip_timer]
      simp only [Chip.mtip, Chip.fld_of_reg (Chip.reg_of_regs (Chip.regs_wake s.chip h) _), Chip.now_wake]
    · exact if_pos ⟨hr, hp⟩
    · exact if_neg (by tauto)

end Sys2Proof.Machine
end

section
/-! The event router, the event timers and the MSIs of devices (R77 to R82, R286). -/

namespace Sys2Proof.Machine

-- an occurrence and a delivery

theorem Chip.raiseEvent_of_disabled {c : Chip} {n : Nat} (hown : c.fld (.WLD_SRC_OWN n) F.WLD_OWN_STATE = 0)
    (hen : c.bit (.EVR_SRC n) F.EVR_SRC_ENABLE = false) : c.raiseEvent n = c.setBit (.EVR_SRC n) F.EVR_SRC_PENDING true := by
  simp [Chip.raiseEvent, hown, hen]

theorem Chip.raiseEvent_of_enabled {c : Chip} {n : Nat} (hown : c.fld (.WLD_SRC_OWN n) F.WLD_OWN_STATE = 0)
    (hen : c.bit (.EVR_SRC n) F.EVR_SRC_ENABLE = true) (hnone : c.msi.any (fun e => e.1 == n) = false) :
    c.raiseEvent n = { c with msi := c.msi ++ [(n, c.srcEntry n)] } := by
  simp only [Chip.raiseEvent, hown, hen, hnone]
  rfl

theorem dropFirst_head {α : Type} [DecidableEq α] (a : α) (l : List α) : dropFirst a (a :: l) = l := by
  simp [dropFirst]

theorem Chip.deliverNext_of_head {c : Chip} {n : Nat} {e : Word} {rest : List (Nat × Word)} (hm : c.msi = (n, e) :: rest) :
    c.deliverNext n = if F.EVR_SRC_HART.get e < 288
      then ((({ c with msi := rest } : Chip).deliverMsi n e).wake (F.EVR_SRC_HART.get e)).run (F.EVR_SRC_HART.get e)
      else ({ c with msi := rest } : Chip).deliverMsi n e := by
  have hfind : c.msi.find? (fun e => e.1 == n) = some (n, e) := by simp [hm]
  unfold Chip.deliverNext
  rw [hfind]
  dsimp only
  rw [hm, dropFirst_head]

theorem Chip.hart_lt_of_noDrop {c : Chip} {e : Word} (h : c.msiDropReason e = 0) : F.EVR_SRC_HART.get e < 288 := by
  by_contra hn
  simp [Chip.msiDropReason, Nat.le_of_not_lt hn] at h

theorem Chip.wake_of_running {c : Chip} {h : Nat} (hr : (c.hart h).run = .running) : c.wake h = c := by simp [Chip.wake, hr]

theorem Chip.deliverMsi_dropped {c : Chip} {e : Word} (n : Nat) (h : 288 ≤ F.EVR_SRC_HART.get e) : c.deliverMsi n e =
    (((c.bump .EVR_DROP_STATUS F.EVR_DROP_STATUS_COUNT).setFld .EVR_DROP_STATUS F.EVR_DROP_STATUS_LAST_SRC n).setFld .EVR_DROP_STATUS
      F.EVR_DROP_STATUS_REASON 4).report unitEvr 10 0x7040 1 15 := by
  simp [Chip.deliverMsi, Chip.msiDropReason, h]

theorem Chip.deliverMsi_written {c : Chip} {e : Word} (n : Nat) (h : c.msiDropReason e = 0) : c.deliverMsi n e =
    c.onHart (F.EVR_SRC_HART.get e) (fun x => x.onFile (F.EVR_SRC_FILE.get e) (IFile.setEip (F.EVR_SRC_IDENTITY.get e))) := by
  simp only [Chip.deliverMsi, h]
  rfl

theorem Chip.msi_deliverMsi (c : Chip) (n : Nat) (e : Word) : (c.deliverMsi n e).msi = c.msi := by
  unfold Chip.deliverMsi
  dsimp only
  split
  · rfl
  · rw [Chip.report_frame]; rfl

theorem Chip.msi_deliverWhere (c : Chip) (p : Nat × Word → Bool) : (c.deliverWhere p).msi = c.msi.filter (fun e => !p e) := by
  have hfold : ∀ (l : List (Nat × Word)) (d : Chip), (l.foldl (fun x e => x.deliverMsi e.1 e.2) d).msi = d.msi := fun l => by
    induction l with
    | nil => exact fun _ => rfl
    | cons e l ih => exact fun d => (ih _).trans (d.msi_deliverMsi e.1 e.2)
  exact hfold _ _

/-- A delivery to a hart that runs with nothing waiting. -/
theorem Chip.deliverNext_written {c : Chip} {n : Nat} {e : Word} {rest : List (Nat × Word)} (hm : c.msi = (n, e) :: rest)
    (hd : ({ c with msi := rest } : Chip).msiDropReason e = 0) (hr : (c.hart (F.EVR_SRC_HART.get e)).run = .running)
    (hq : (c.hart (F.EVR_SRC_HART.get e)).hq = []) (hi : (c.hart (F.EVR_SRC_HART.get e)).irqWait = none)
    (hh : (c.hart (F.EVR_SRC_HART.get e)).haltWait = none) :
    c.deliverNext n = ({ c with msi := rest } : Chip).onHart (F.EVR_SRC_HART.get e) (fun x =>
      x.onFile (F.EVR_SRC_FILE.get e) (IFile.setEip (F.EVR_SRC_IDENTITY.get e))) := by
  rw [Chip.deliverNext_of_head hm, if_pos (Chip.hart_lt_of_noDrop hd), Chip.deliverMsi_written n hd, Chip.wake_of_running, Chip.run_of_idle]
  all_goals rw [Chip.hart_onHart]
  · exact hq
  · exact hi
  · exact hh
  · exact hr

-- the router's registers

theorem Chip.swTrig_of_raised {c : Chip} {who : Who} {v : Word} (h : 960 ≤ F.EVR_SWTRIG_SOURCE.get v) (h' : F.EVR_SWTRIG_SOURCE.get v ≤ 1023)
    (hm : c.mayRaise who (F.EVR_SWTRIG_SOURCE.get v) = true) : c.swTrig who v = c.raiseEvent (F.EVR_SWTRIG_SOURCE.get v) := by
  simp [Chip.swTrig, h, h', Chip.ifMay, hm]

theorem Chip.swTrig_of_low {c : Chip} {who : Who} {v : Word} (h : F.EVR_SWTRIG_SOURCE.get v < 960) : c.swTrig who v = c := by
  simp [Chip.swTrig, Nat.not_le.2 h]

theorem Chip.timerFire_of_due {c : Chip} {n : Nat} (ha : c.bit (.EVR_TIMER n) F.EVR_TIMER_ARM = true)
    (hd : c.fld (.EVR_TIMER n) F.EVR_TIMER_CMP ≤ c.now) :
    c.timerFire n = (c.setBit (.EVR_TIMER n) F.EVR_TIMER_ARM false).raiseEvent (608 + n) := by
  simp [Chip.timerFire, ha, hd]

/-- An operation on the chip of a package depends on that chip alone. -/
theorem Pkg.onChip_const (p : Pkg) (f : Chip → Chip) : p.onChip f = p.onChip (fun _ => f p.chip) := rfl

/-- Settles O14: what an occurrence, a delivery, a write of the router and an MSI of a device do. -/
theorem eventsAndMsis : Obligations.EventsAndMsis := by
  have hsrc : ∀ {n : Nat}, n < 2048 → srcOk n = true := decide_eq_true
  have htimer : ∀ {n : Nat}, n < 64 → timerOk n = true := decide_eq_true
  refine ⟨⟨fun s n hn hown => ⟨fun hen => ?_, fun hen hnone => ?_⟩, fun s n e rest hn hm => ?_, fun s n e rest hn hm => ?_⟩,
    ⟨fun s who n v hn hmay => ?_, fun s who n v hn hmay => ?_, fun s n hn => ⟨?_, fun e he hen => ?_⟩, fun s who => ?_,
      fun s who v hlo hhi hmay => ?_, fun s who v hlo => ?_, fun s who n v hn hmay => ?_, fun s n hn harm hdue => ?_⟩,
    fun s fn die core file id hfn hdie hcore hfile hid => ?_⟩
  · exact gives_of_onChip rfl (hsrc hn) (Chip.raiseEvent_of_disabled hown hen)
  · exact gives_of_onChip rfl (hsrc hn) (Chip.raiseEvent_of_enabled hown hen hnone)
  · intro h c hd hr hq hi hh
    exact gives_of_onChip rfl (hsrc hn) (Chip.deliverNext_written hm hd hr hq hi hh)
  · intro c hh
    refine gives_of_onChip rfl (hsrc hn) ?_
    show s.chip.deliverNext n = _
    rw [Chip.deliverNext_of_head hm, if_neg (Nat.not_lt.2 hh), Chip.deliverMsi_dropped n hh]
  · exact gives_of_onChip rfl (hsrc hn) (Chip.ifMay_of_true _ _ _ _ hmay)
  · exact gives_of_onChip rfl (hsrc hn) (Chip.ifMay_of_false _ _ _ _ hmay)
  · exact gives_of_onChip rfl (hsrc hn) rfl
  · rw [Chip.msi_deliverWhere] at he
    have hold := (List.mem_filter.1 he).2
    simpa [hen] using hold
  · rfl
  · exact gives_of_onChip (ok := true) rfl rfl (Chip.swTrig_of_raised hlo hhi hmay)
  · exact gives_of_onChip (ok := true) rfl rfl (Chip.swTrig_of_low hlo)
  · exact gives_of_onChip rfl (htimer hn) (Chip.ifMay_of_true _ _ _ _ hmay)
  · exact gives_of_onChip rfl (htimer hn) (Chip.timerFire_of_due harm hdue)
  · intro h silent i owner
    have hok : (decide (fn < 2560) && decide (die < 12) && decide (core < 24) && decide (file < 8) && decide (id < 2 ^ 32)) = true := by
      simp only [hfn, hdie, hcore, hfile, hid, decide_true, Bool.and_self]
    have hp : GivesPkg i s (s.toPkg.deviceMsi fn die core file id) := givesPkg_of_onPkg rfl hok rfl
    have hchip : ∀ {c : Chip}, s.toPkg.deviceMsi fn die core file id = s.toPkg.onChip (fun _ => c) → Gives i s c := fun hc => by
      rw [GivesPkg, hc] at hp
      exact hp
    have hif : s.toPkg.deviceMsi fn die core file id = if silent then s.toPkg
        else if !s.chip.wldCommitted then s.toPkg.onChip (fun x => x.addrRefusal (0x2000 + fn) owner 1 (regBase + imsicOff die core file))
        else if !s.chip.hartThere h then s.toPkg.onChip (fun x => x.msiDropped die)
        else if s.chip.fileOwner h file ≠ owner then
          (s.toPkg.iommuFault (fn / 256) (fn % 256) 262 3 (regBase + imsicOff die core file)).onChip (fun x =>
            x.violate { rid := 0x2000 + fn, world := owner } 4 (imsicOff die core file))
        else s.toPkg.onChip (fun x => ((x.onHart h (fun y => y.onFile file (IFile.setEip id))).wake h).run h) := rfl
    clear_value silent owner
    rw [hif] at hchip hp
    refine ⟨fun hs => hchip ?_, fun hs hw => hchip ?_, fun hs hw ht => hchip ?_, fun hs hw ht ho => hchip ?_, fun hs hw ht ho => ?_⟩
    · rw [if_pos hs]; rfl
    · rw [if_neg (by simp [hs]), if_pos (by simp [hw])]; exact Pkg.onChip_const _ _
    · rw [if_neg (by simp [hs]), if_neg (by simp [hw]), if_pos (by simp [ht])]; exact Pkg.onChip_const _ _
    · rw [if_neg (by simp [hs]), if_neg (by simp [hw]), if_neg (by simp [ht]), if_neg (by simp [ho])]; exact Pkg.onChip_const _ _
    · simpa [hs, hw, ht, ho] using hp

end Sys2Proof.Machine
end

section
/-! Reset, power and failure of a core (R15, R83, R84). -/

namespace Sys2Proof.Machine

-- an L2 that is empty and written back

theorem Chip.flushL2_of_gone {c : Chip} {h : Nat} (hg : c.l2Gone h = true) : c.flushL2 h = c := by
  obtain ⟨hlines, -⟩ := Bool.and_eq_true_iff.1 hg
  rw [Chip.flushL2, List.isEmpty_iff.1 hlines, List.foldl_nil]

theorem Chip.sendOwn_of_gone {c : Chip} {h : Nat} (hg : c.l2Gone h = true) : c.sendOwn h = c := by
  obtain ⟨-, hwb⟩ := Bool.and_eq_true_iff.1 hg
  have hnone : c.wb.filter (fun e => e.h == h) = [] := List.length_eq_zero_iff.1 (by simpa [Chip.wbCount] using hwb)
  have hown : c.wb.filter (fun e => e.h == h && !e.sent) = [] :=
    List.filter_eq_nil_iff.2 fun e he => by simp [by simpa using List.filter_eq_nil_iff.1 hnone e he]
  rw [Chip.sendOwn, hown, List.foldl_nil]

-- the start of a hart

theorem offset_resetVector_ne_coreCtl (h : Nat) : (Reg.CD_RESET_VECTOR (hartDie h)).offset ≠ (coreCtl h).offset := by
  simp only [coreCtl, Reg.offset, hartDie, hartCore]; omega

theorem Chip.startHart_of_calm {c : Chip} {h : Nat} (hp : (c.hart h).haltPending = false) :
    c.startHart h = c.setHart h { Hart.reset with run := .running, pc := c.resetPc (hartDie h) } := by
  rw [Chip.startHart, Chip.haltAtGate_of_not, hp]
  · rfl
  · exact Or.inl (by rw [Chip.hart_setHart]; exact hp)

theorem Chip.resetPc_setBit (c : Chip) (h : Nat) (f : Field) (b : Bool) :
    (c.setBit (coreCtl h) f b).resetPc (hartDie h) = c.resetPc (hartDie h) := by
  rw [Chip.resetPc, c.fld_setBit_ne _ _ _ (offset_resetVector_ne_coreCtl h), Chip.resetPc]

/-- The reset of a core completes, its L2 being empty and written back. -/
def Chip.coreStarted (c : Chip) (h : Nat) : Chip :=
  ((c.setBit (coreCtl h) F.CD_CORE_CTL_BUSY false).setHart h { Hart.reset with run := .running, pc := c.resetPc (hartDie h) }).runDie (hartDie h)

theorem Chip.finishReset_of_quiet {c : Chip} {h : Nat} (hb : c.coreBusy h = true) (ho : c.coreOffline h = false)
    (hp : c.bit (coreCtl h) F.CD_CORE_CTL_POWER_OFF = false) (hq : c.quiet h = true) : c.finishReset h =
      if ((c.flushL2 h).sendOwn h).l2Gone h then ((((c.flushL2 h).sendOwn h).setBit (coreCtl h) F.CD_CORE_CTL_BUSY false).startHart h).runDie
        (hartDie h) else (c.flushL2 h).sendOwn h := by
  unfold Chip.finishReset
  rw [if_neg (by simp [hb, ho, hp, hq])]
  dsimp only
  by_cases hg : ((c.flushL2 h).sendOwn h).l2Gone h = true
  · rw [if_neg (by simp [hg]), if_pos hg]
  · rw [if_pos (by simpa using hg), if_neg hg]

theorem Chip.startHart_started {c : Chip} {h : Nat} (hp : (c.hart h).haltPending = false) :
    ((c.setBit (coreCtl h) F.CD_CORE_CTL_BUSY false).startHart h).runDie (hartDie h) = c.coreStarted h := by
  rw [Chip.startHart_of_calm (c := c.setBit (coreCtl h) F.CD_CORE_CTL_BUSY false) hp, c.resetPc_setBit h, Chip.coreStarted]

/-- The power-off of a core completes. -/
def Chip.coreOffDone (c : Chip) (h : Nat) : Chip :=
  (((c.setBit (coreCtl h) F.CD_CORE_CTL_BUSY false).setBit (coreCtl h) F.CD_CORE_CTL_OFF true).setHart h
    { Hart.reset with haltPending := (c.hart h).haltPending }).runDie (hartDie h)

theorem Chip.powerOffDone_of_quiet {c : Chip} {h : Nat} (hb : c.coreBusy h = true)
    (hp : c.bit (coreCtl h) F.CD_CORE_CTL_POWER_OFF = true) (hq : c.quiet h = true) : c.powerOffDone h =
      if ((c.flushL2 h).sendOwn h).l2Gone h then ((c.flushL2 h).sendOwn h).coreOffDone h else (c.flushL2 h).sendOwn h := by
  unfold Chip.powerOffDone
  rw [if_neg (by simp [hb, hp, hq])]
  dsimp only
  by_cases hg : ((c.flushL2 h).sendOwn h).l2Gone h = true
  · rw [if_neg (by simp [hg]), if_pos hg, Chip.coreOffDone]
  · rw [if_pos (by simpa using hg), if_neg hg]

theorem Chip.coreFailed_of_bound {c : Chip} {d phys h : Nat} (hd : c.dieUp d = true) :
    let c0 := (c.onDie d (fun x => { x with failMark := withBit x.failMark phys true })).coreMapRecord d
    let c1 := c0.countCores d (withBit (c0.fld (.CD_CORE_STATUS d) F.CD_CORE_STATUS_PHYS_FAILED) phys true)
    (dieHarts d).find? (fun h => c1.corePhys h == phys) = some h →
    c.coreFailed d phys =
      ((c1.setBit (coreCtl h) F.CD_CORE_CTL_OFFLINE true).onHart h Hart.stop).report (unitDie d) (64 + 12 * d + 3) h 1 15 := by
  intro c0 c1 hfind
  unfold Chip.coreFailed
  rw [if_neg (by simp [hd])]
  dsimp only
  rw [show (dieHarts d).find? _ = some h from hfind]

/-- Settles O15: each command of a core in the states in which it has an effect. -/
theorem coreControl : Obligations.CoreControl := by
  refine ⟨⟨fun s who h hh hw ho hoff => ?_, fun s h hh hb ho hp hq => ?_, fun s h hh hb hp hq => ?_, fun s who h hh hw => ?_,
    fun s who h b hh hw => ?_, fun s h hh ht ho hoff => ?_⟩, fun s who h b hh hw => ?_, fun s d phys h hd hp hup => ?_⟩
  · refine ⟨?_, fun hoff' hphys hup => ?_⟩
    · refine gives_of_onChip rfl (hartOk_of_lt hh) ((Chip.ifMay_of_true _ _ _ _ hw).trans ?_)
      rw [Chip.startReset, ho, hoff]
      rfl
    · refine gives_of_onChip rfl (hartOk_of_lt hh) ((Chip.ifMay_of_true _ _ _ _ hw).trans ?_)
      exact if_neg (by simp [hoff', hphys, hup])
  · intro f start
    have hdone : Gives (.hartResetDone h) s (s.chip.finishReset h) := gives_of_onChip rfl (hartOk_of_lt hh) rfl
    rw [Chip.finishReset_of_quiet hb ho hp hq] at hdone
    refine ⟨fun hg => ?_, fun hg hpend => ?_, fun hg hpend => ?_⟩
    · rwa [if_neg (by simpa using hg)] at hdone
    · rwa [if_pos hg, Chip.startHart_started hpend] at hdone
    · rwa [Chip.flushL2_of_gone hg, Chip.sendOwn_of_gone hg, if_pos hg, Chip.startHart_started hpend] at hdone
  · intro f off
    have hdone : Gives (.corePowerOffDone h) s (s.chip.powerOffDone h) := gives_of_onChip rfl (hartOk_of_lt hh) rfl
    rw [Chip.powerOffDone_of_quiet hb hp hq] at hdone
    refine ⟨fun hg => ?_, fun hg => ?_, fun hg => ?_⟩
    · rwa [if_neg (by simpa using hg)] at hdone
    · rwa [if_pos hg] at hdone
    · rwa [Chip.flushL2_of_gone hg, Chip.sendOwn_of_gone hg, if_pos hg] at hdone
  · intro c hoff
    exact gives_of_onChip rfl (hartOk_of_lt hh) ((Chip.ifMay_of_true _ _ _ _ hw).trans (if_pos hoff))
  · exact gives_of_onChip rfl (hartOk_of_lt hh) (Chip.ifMay_of_true _ _ _ _ hw)
  · refine gives_of_onChip rfl (hartOk_of_lt hh) ((if_pos ht).trans ?_)
    rw [Chip.startReset, ho, hoff]
    rfl
  · exact ⟨gives_of_onChip rfl (hartOk_of_lt hh) (Chip.ifMay_of_false _ _ _ _ hw),
      gives_of_onChip rfl (hartOk_of_lt hh) (Chip.ifMay_of_false _ _ _ _ hw),
      gives_of_onChip rfl (hartOk_of_lt hh) (Chip.ifMay_of_false _ _ _ _ hw),
      gives_of_onChip rfl (hartOk_of_lt hh) (Chip.ifMay_of_false _ _ _ _ hw)⟩
  · intro c0 c hfind
    exact gives_of_onChip rfl (by simp [hd, hp]) (Chip.coreFailed_of_bound hup hfind)

end Sys2Proof.Machine
end

section
/-! External debug (R85, R86): halting, resuming, triggers, the single step and the abstract access. -/

namespace Sys2Proof.Machine

theorem Hart.haltSoon_of_not_begun {x : Hart} (why : Nat) (h : x.begun = false) : x.haltSoon why = x.halt why := by
  simp [Hart.haltSoon, h]

theorem Hart.haltSoon_of_begun {x : Hart} (why : Nat) (h : x.begun = true) :
    x.haltSoon why = { x with hq := x.hq.take 1, haltWait := some why } := by
  simp [Hart.haltSoon, h]

theorem Chip.haltreq_of_halts {c : Chip} {h : Nat} (hd : c.dmUnavail h = false) (hw : (c.hart h).haltWait = none)
    (hr : (c.hart h).run = .running ∨ (c.hart h).run = .wfi) (hi : c.invEff (c.hart h).world = true) :
    c.haltreq h = c.onHart h (fun x => x.haltSoon 3) := by
  rcases hr with hr | hr <;> simp [Chip.haltreq, hd, hw, hr, hi]

theorem Chip.haltreq_of_waits {c : Chip} {h : Nat} (hd : c.dmUnavail h = false) (hw : (c.hart h).haltWait = none)
    (hr : ((c.hart h).run = .running ∨ (c.hart h).run = .wfi) ∧ c.invEff (c.hart h).world = false
      ∨ (c.hart h).run = .clearing ∨ (c.hart h).run = .held) :
    c.haltreq h = c.onHart h (fun x => { x with haltPending := true }) := by
  rcases hr with ⟨hr | hr, hi⟩ | hr | hr
  · simp [Chip.haltreq, hd, hw, hr, hi]
  · simp [Chip.haltreq, hd, hw, hr, hi]
  · simp [Chip.haltreq, hd, hw, hr]
  · simp [Chip.haltreq, hd, hw, hr]

theorem Chip.trigger_of_halts {c : Chip} {h : Nat} (a : Nat) (hr : (c.hart h).run = .running) (hi : c.invEff (c.hart h).world = true) :
    c.trigger h true a = c.onHart h (fun x => x.haltSoon 2) := by
  simp [Chip.trigger, hr, hi]

-- the single step

theorem not_counted_dcsr : ¬ Counted csrDcsr := by simp [Counted, csrDcsr, csrMinstret, csrMip]

/-- The hart at the end of its one instruction: the next one is at the end of what was fetched. -/
def Hart.stepped (x : Hart) : Hart :=
  match x.fetched with
  | some (pc, w) => { x with pc := BitVec.ofNat 64 (pc + (if w % 4 = 3 then 4 else 2)) }
  | none => x

theorem Chip.stepHalt_of_halts {c : Chip} {h : Nat} (hr : (c.hart h).run = .running) (hs : (c.hart h).csrBit csrDcsr 2 = true)
    (hi : c.invEff (c.hart h).world = true) : c.stepHalt h = c.onHart h (fun x => x.stepped.halt 4) := by
  simp only [Chip.stepHalt, hr, hs, hi, Bool.and_self, decide_true, if_true]
  rfl

theorem Hart.csrBits_cause_halt (x : Hart) (why : Nat) : (x.halt why).csrBits csrDcsr 8 6 = why % 8 := by
  refine (Hart.csrBits_of_csr (y := (((x.setCsr csrDpc x.pc).putCsr csrDcsr 8 6 why).putCsr csrDcsr 1 0 x.priv).putBit csrDcsr 5 x.virt)
    rfl _ _ _).trans ?_
  rw [Hart.csrBits_putBit_disjoint _ _ _ _ (by decide) (by decide) (by decide),
    Hart.csrBits_putCsr_disjoint _ _ _ (by decide) (by decide) (by decide) (by decide), Hart.csrBits_putCsr _ _ _ (by decide) (by decide)]
  rfl

theorem Hart.haltWait_halt (x : Hart) (why : Nat) : (x.halt why).haltWait = none ∧ (x.halt why).run = .halted := ⟨rfl, rfl⟩

theorem Hart.irqWait_stepped (x : Hart) : x.stepped.irqWait = x.irqWait := by
  unfold Hart.stepped
  split <;> rfl

theorem Hart.irqWait_halt (x : Hart) (why : Nat) : (x.halt why).irqWait = x.irqWait := by
  simp only [Hart.halt, Hart.discard, Hart.putBit, Hart.putCsr, Hart.setCsr_irqWait]

/-- A hart that waits for no interrupt and no halt polls neither. -/
theorem Chip.polls_of_none {c : Chip} {h : Nat} (hi : (c.hart h).irqWait = none) (hw : (c.hart h).haltWait = none) :
    (c.irqPoll h).haltPoll h = c := by
  simp [Chip.irqPoll, Chip.haltPoll, hi, hw]

/-- The hart after FENCE has left it, retired. -/
theorem Chip.fence_after (c : Chip) (h : Nat) (i : Instr) : let x := (((c.given h i).leave h).finish h).hart h
    x.run = (c.hart h).run ∧ x.irqWait = (c.hart h).irqWait ∧ x.fetched = (c.hart h).fetched
      ∧ x.getCsr csrDcsr = (c.hart h).getCsr csrDcsr ∧ x.getCsr csrMworld = (c.hart h).getCsr csrMworld := by
  obtain ⟨n, hcsr, hrest⟩ := hart_after (d := c.given h i) (h := h)
  have hg := c.hart_given h i
  have hcsrg : ((c.given h i).hart h).csr = (c.hart h).csr := by rw [hg]
  refine ⟨(congrArg Hart.run hrest :).trans (by rw [hg]; rfl), (congrArg Hart.irqWait hrest :).trans (by rw [hg]; rfl),
    (congrArg Hart.fetched hrest :).trans (by rw [hg]; rfl), (hcsr _ not_counted_dcsr).trans ?_, (hcsr _ not_counted_mworld).trans ?_⟩
  · exact (Hart.getCsr_of_csr (y := (c.given h i).hart h) rfl _).trans (Hart.getCsr_of_csr hcsrg _)
  · exact (Hart.getCsr_of_csr (y := (c.given h i).hart h) rfl _).trans (Hart.getCsr_of_csr hcsrg _)

theorem Chip.invEff_of_regs {c d : Chip} (h : d.regs = c.regs) (w : Nat) : d.invEff w = c.invEff w := by
  simp only [Chip.invEff, Chip.bit, Chip.fld, Chip.reg, h]

/-- FENCE of a hart that is asked for a single step. -/
theorem Chip.fence_stepped {c : Chip} {h : Nat} (hr : (c.hart h).run = .running) (hq : (c.hart h).hq = []) (hirq : (c.hart h).irqWait = none)
    (hw : (c.hart h).haltWait = none) (hs : (c.hart h).csrBit csrDcsr 2 = true) (hi : c.invEff (c.hart h).world = true) :
    c.issueInstr h (.fence h 15 15)
      = (((c.given h (.fence h 15 15)).leave h).finish h).onHart h (fun x => x.stepped.halt 4) := by
  obtain ⟨hrun, hirq', hfet, hdcsr, hworld⟩ := c.fence_after h (.fence h 15 15)
  have hregs : (((c.given h (.fence h 15 15)).leave h).finish h).regs = c.regs := by rw [Chip.regs_finish, Chip.regs_leave]; rfl
  have hperf : (c.given h (.fence h 15 15)).perform h (.fence h 15 15) = (c.given h (.fence h 15 15), .done) := by
    unfold Chip.perform
    rw [ite_tile_of_not rfl]
  have hgiven : c.onHart h (fun x => { x with hq := x.hq ++ [.fence h 15 15] }) = c.given h (.fence h 15 15) := by
    simp only [Chip.given, Chip.onHart, hq, List.nil_append]
  rw [Chip.issueInstr, if_pos ⟨hr, hirq, hw⟩, hgiven, Chip.run, Chip.hart_given]
  rw [show ([Instr.fence h 15 15] : List Instr).length = 1 from rfl, Chip.drain_given hr, hperf]
  dsimp only
  rw [if_pos (show retiresNow (.fence h 15 15) = true from rfl), Chip.stepHalt_of_halts (hrun.trans hr), Chip.polls_of_none]
  · rw [Chip.hart_onHart, Hart.irqWait_halt, Hart.irqWait_stepped]; exact hirq'.trans hirq
  · rw [Chip.hart_onHart]; exact (Hart.haltWait_halt _ _).1
  · rw [Hart.csrBit_eq_getLsbD, hdcsr, ← Hart.csrBit_eq_getLsbD, hs]
  · rw [Chip.invEff_of_regs hregs, Hart.world, Hart.csrBits_eq_get, hworld, ← Hart.csrBits_eq_get]; exact hi

/-- The abstract access of an integer register of a halted hart. -/
theorem Chip.abstractAccess_of_xreg {c : Chip} {h n : Nat} (wr : Option Word) (hd : c.dmUnavail h = false) (hr : (c.hart h).run = .halted)
    (hn : n < 32) : c.abstractAccess h (0x1000 + n) wr = match wr with
      | none => { c with dmData := (c.hart h).xr (0x1000 + n - 0x1000), dmErr := 0 }
      | some v => ({ c with dmData := v, dmErr := 0 } : Chip).onHart h (fun x => x.setX (0x1000 + n - 0x1000) v) := by
  have hlo : ¬ 0x1000 + n < 0x1000 := by omega
  have hhi : 0x1000 + n < 0x1020 := by omega
  unfold Chip.abstractAccess
  rw [if_neg (by simp [hd, hr]), if_neg (by simp)]
  cases wr with
  | none => dsimp only; rw [if_neg hlo, if_pos hhi]
  | some v => dsimp only; rw [if_neg hlo, if_pos hhi]

/-- Settles O16: halting and resuming, triggers, the single step and the abstract access. -/
theorem externalDebug : Obligations.ExternalDebug := by
  refine ⟨fun s h hh hd hw => ?_, fun s h hh hr => ?_, fun s h a hh ha hr => ⟨?_, fun hi hb => ?_, fun hi hb => ?_, fun hi => ?_⟩,
    fun s h hh hr hq hirq hw hs hi => ?_, fun s h n v hh hn hd hr => ⟨?_, ?_⟩⟩
  · refine ⟨fun hr => ⟨fun hi => ⟨fun hb => ?_, fun hb => ?_⟩, fun hi => ?_⟩, fun hr => ?_⟩
    · exact gives_of_onChip rfl (hartOk_of_lt hh) ((Chip.haltreq_of_halts hd hw hr hi).trans
        (s.chip.onHart_congr h (Hart.haltSoon_of_not_begun 3 hb)))
    · exact gives_of_onChip rfl (hartOk_of_lt hh) ((Chip.haltreq_of_halts hd hw hr hi).trans
        (s.chip.onHart_congr h (Hart.haltSoon_of_begun 3 hb)))
    · exact gives_of_onChip rfl (hartOk_of_lt hh) (Chip.haltreq_of_waits hd hw (Or.inl ⟨hr, hi⟩))
    · exact gives_of_onChip rfl (hartOk_of_lt hh) (Chip.haltreq_of_waits hd hw (Or.inr hr))
  · have hres : Gives (.resumereq h) s (s.chip.resumereq h) := gives_of_onChip rfl (hartOk_of_lt hh) rfl
    rw [Chip.resumereq, if_pos hr] at hres
    intro m on
    refine ⟨fun hm => ?_, fun hm hw => ?_⟩
    · rwa [s.chip.onHart_congr h (g := on)] at hres
      dsimp only
      rw [if_neg (by tauto)]
    · rwa [s.chip.onHart_congr h (g := fun x => on (s.chip.gateEntry x))] at hres
      dsimp only
      rw [if_pos ⟨hm, hw⟩]
  · exact gives_of_onChip rfl (by simp only [hartOk_of_lt hh, vaOk, ha, decide_true, Bool.and_self]) (by simp [Chip.trigger, hr])
  · refine gives_of_onChip rfl (by simp only [hartOk_of_lt hh, vaOk, ha, decide_true, Bool.and_self]) ?_
    exact (Chip.trigger_of_halts a hr hi).trans (s.chip.onHart_congr h (Hart.haltSoon_of_not_begun 2 hb))
  · refine gives_of_onChip rfl (by simp only [hartOk_of_lt hh, vaOk, ha, decide_true, Bool.and_self]) ?_
    exact (Chip.trigger_of_halts a hr hi).trans (s.chip.onHart_congr h (Hart.haltSoon_of_begun 2 hb))
  · exact gives_of_onChip rfl (by simp only [hartOk_of_lt hh, vaOk, ha, decide_true, Bool.and_self]) (by simp [Chip.trigger, hr, hi])
  · have hgives : Gives (.fence h 15 15) s _ := gives_of_onChip rfl (by simp [hh]) (Chip.fence_stepped hr hq hirq hw hs hi)
    refine ⟨_, hgives, ?_⟩
    dsimp only
    rw [Chip.hart_onHart]
    refine ⟨(Hart.haltWait_halt _ _).2, Hart.csrBits_cause_halt _ _, fun pc w hf => ?_⟩
    obtain ⟨-, -, hfet, -⟩ := s.chip.fence_after h (.fence h 15 15)
    rw [Hart.getCsr_dpc_halt, Hart.stepped, hfet.trans hf]
  · refine gives_of_onChip rfl (by simp only [hartOk_of_lt hh, Bool.true_and, decide_eq_true_eq]; omega) ?_
    exact (Chip.abstractAccess_of_xreg _ hd hr hn).trans (by rw [Nat.add_sub_cancel_left])
  · refine gives_of_onChip rfl (by simp only [hartOk_of_lt hh, Bool.true_and, decide_eq_true_eq]; omega) ?_
    exact (Chip.abstractAccess_of_xreg _ hd hr hn).trans (by rw [Nat.add_sub_cancel_left])

end Sys2Proof.Machine
end

section
/-! The end of a maintenance operation (R162, R164) in a package whose partner lags: the operation goes on while a page of a synchronous
region of its range is marked (R402), although no mirror line waits for an acknowledgement. -/

namespace Sys2Proof.Machine

/-- A walk of die 0's engine that waits for no line. -/
def walkOver : MntRun := { key := 0, op := 1, lnd := false, cores := 0, world := 0, label := 0, wait := [] }

/-- The walk is over, no mirror line is queued, and region 0, a synchronous one of page 0, lags. -/
def walkLagging : State :=
  { State.reset with
    chip := { Chip.reset.setBit (.PAIR_REGION_STATUS 0) F.PAIR_REGION_STATUS_LAGGING true with
      mnt := [walkOver], pair := { PairSt.reset with base := [(0, 1)] } } }

/-- The operation goes on. -/
theorem walkLagging_goes_on : walkOver ∈ (walkLagging.toPkg.mntDone 0).chip.mnt := by decide +kernel

/-- An operation that ends is under way no longer. -/
theorem Chip.mem_mnt_mntEnd (c : Chip) (key result : Nat) {r : MntRun} (h : r ∈ (c.mntEnd key result).mnt) : r.key ≠ key := by
  rw [Chip.mntEnd, Chip.raiseEvent_frame] at h
  simpa using (List.mem_filter.1 h).2

/-- Refutes O28: with an empty mirror queue the operation need not end, since a synchronous region of its range may lag (R402). -/
theorem not_maintenance : ¬ Obligations.Maintenance := by
  unfold Obligations.Maintenance
  intro h
  have hdone : exec (.cmeDone 0) walkLagging = .next { walkLagging with chip := walkLagging.chip.mntEnd 0 1 } :=
    h.2.1.2.1 walkLagging 0 walkOver (Or.inl (by decide)) rfl rfl rfl rfl
  have hpkg : GivesPkg (.cmeDone 0) walkLagging (walkLagging.toPkg.mntDone 0) :=
    givesPkg_of_onPkg (ok := decide (0 < 12)) (f := fun p => p.mntDone 0) rfl rfl rfl
  have hsame := hpkg.symm.trans hdone
  have hchip : walkLagging.toPkg.mntDone 0 = { walkLagging.toPkg with chip := walkLagging.chip.mntEnd 0 1 } :=
    congrArg State.toPkg (Host.Outcome.next.inj hsame)
  have hmem := walkLagging_goes_on
  rw [hchip] at hmem
  exact Chip.mem_mnt_mntEnd _ _ _ hmem rfl

end Sys2Proof.Machine
end

section
/-! What the operations on messages and on cached lines leave of the chip. -/

namespace Sys2Proof.Machine

theorem Chip.charge_frame (c : Chip) (port cls : Nat) : c.charge port cls =
    { c with active := (c.charge port cls).active, tokens := (c.charge port cls).tokens } := rfl

/-- A request that leaves its agent changes the queues it may wait in, the tokens and the messages under way. -/
theorem Chip.sendTokens_frame (c : Chip) (m : Msg) : c.sendTokens m =
    { c with net := (c.sendTokens m).net, injQ := (c.sendTokens m).injQ, active := (c.sendTokens m).active
             tokens := (c.sendTokens m).tokens } := by
  unfold Chip.sendTokens
  split
  · rfl
  · dsimp only
    split
    · rfl
    · split
      · rfl
      · split
        · split <;> rfl
        · rfl

theorem Chip.issue_frame (c : Chip) (m : Msg) : c.issue m =
    { c with safeQ := (c.issue m).safeQ, net := (c.issue m).net, injQ := (c.issue m).injQ, active := (c.issue m).active
             tokens := (c.issue m).tokens } := by
  unfold Chip.issue
  split
  · rfl
  · rw [Chip.sendTokens_frame]

@[simp] theorem Chip.issue_l2 (c : Chip) (m : Msg) : (c.issue m).l2 = c.l2 := by rw [c.issue_frame]
@[simp] theorem Chip.issue_lnd (c : Chip) (m : Msg) : (c.issue m).lnd = c.lnd := by rw [c.issue_frame]
@[simp] theorem Chip.issue_wb (c : Chip) (m : Msg) : (c.issue m).wb = c.wb := by rw [c.issue_frame]
@[simp] theorem Chip.issue_miss (c : Chip) (m : Msg) : (c.issue m).miss = c.miss := by rw [c.issue_frame]
@[simp] theorem Chip.issue_dies (c : Chip) (m : Msg) : (c.issue m).dies = c.dies := by rw [c.issue_frame]
@[simp] theorem Chip.issue_regs (c : Chip) (m : Msg) : (c.issue m).regs = c.regs := by rw [c.issue_frame]
@[simp] theorem Chip.issue_harts (c : Chip) (m : Msg) : (c.issue m).harts = c.harts := by rw [c.issue_frame]
@[simp] theorem Chip.issue_hc (c : Chip) (m : Msg) : (c.issue m).hc = c.hc := by rw [c.issue_frame]

/-- The registers hold alike, so their fields read alike. -/
theorem Chip.fld_of_regs {c d : Chip} (h : d.regs = c.regs) (r : Reg) (f : Field) : d.fld r f = c.fld r f := by
  rw [Chip.fld, Chip.reg, h, Chip.fld, Chip.reg]
theorem Chip.bit_of_regs {c d : Chip} (h : d.regs = c.regs) (r : Reg) (f : Field) : d.bit r f = c.bit r f := by
  rw [Chip.bit, Chip.fld_of_regs h, Chip.bit]

-- a notice that a die's last copy has left

theorem Chip.cleanNotice_cases (c : Chip) (d line rid world label acc : Nat) :
    c.cleanNotice d line rid world label acc = c ∨ ∃ m, c.cleanNotice d line rid world label acc = c.issue m := by
  unfold Chip.cleanNotice
  split
  · exact Or.inr ⟨_, rfl⟩
  · exact Or.inl rfl

@[simp] theorem Chip.cleanNotice_l2 (c : Chip) (d line rid world label acc : Nat) : (c.cleanNotice d line rid world label acc).l2 = c.l2 := by
  rcases c.cleanNotice_cases d line rid world label acc with e | ⟨m, e⟩ <;> rw [e]
  rw [Chip.issue_l2]
@[simp] theorem Chip.cleanNotice_lnd (c : Chip) (d line rid world label acc : Nat) : (c.cleanNotice d line rid world label acc).lnd = c.lnd := by
  rcases c.cleanNotice_cases d line rid world label acc with e | ⟨m, e⟩ <;> rw [e]
  rw [Chip.issue_lnd]
@[simp] theorem Chip.cleanNotice_wb (c : Chip) (d line rid world label acc : Nat) : (c.cleanNotice d line rid world label acc).wb = c.wb := by
  rcases c.cleanNotice_cases d line rid world label acc with e | ⟨m, e⟩ <;> rw [e]
  rw [Chip.issue_wb]
@[simp] theorem Chip.cleanNotice_miss (c : Chip) (d line rid world label acc : Nat) :
    (c.cleanNotice d line rid world label acc).miss = c.miss := by
  rcases c.cleanNotice_cases d line rid world label acc with e | ⟨m, e⟩ <;> rw [e]
  rw [Chip.issue_miss]
@[simp] theorem Chip.cleanNotice_dies (c : Chip) (d line rid world label acc : Nat) :
    (c.cleanNotice d line rid world label acc).dies = c.dies := by
  rcases c.cleanNotice_cases d line rid world label acc with e | ⟨m, e⟩ <;> rw [e]
  rw [Chip.issue_dies]
@[simp] theorem Chip.cleanNotice_regs (c : Chip) (d line rid world label acc : Nat) :
    (c.cleanNotice d line rid world label acc).regs = c.regs := by
  rcases c.cleanNotice_cases d line rid world label acc with e | ⟨m, e⟩ <;> rw [e]
  rw [Chip.issue_regs]

end Sys2Proof.Machine
end

section
/-! Evictions and the modes of the landing and hall caches (R147, R167 to R173, R183, R186). -/

namespace Sys2Proof.Machine

-- an L2 gives up a line

@[simp] theorem Chip.lndAt_dropL2 (c : Chip) (h line d l : Nat) : (c.dropL2 h line).lndAt d l = c.lndAt d l := by
  simp only [Chip.lndAt, Chip.dropL2, Chip.onHart_lnd, Chip.setL2_lnd]
@[simp] theorem Chip.regs_dropL2 (c : Chip) (h line : Nat) : (c.dropL2 h line).regs = c.regs := by
  simp only [Chip.dropL2, Chip.onHart_regs, Chip.setL2_regs]
@[simp] theorem Chip.wb_dropL2 (c : Chip) (h line : Nat) : (c.dropL2 h line).wb = c.wb := by
  simp only [Chip.dropL2, Chip.onHart_wb, Chip.setL2_wb]
theorem Chip.lndMode_dropL2 (c : Chip) (h line d : Nat) : (c.dropL2 h line).lndMode d = c.lndMode d :=
  Chip.fld_of_regs (c.regs_dropL2 h line) _ _

theorem Chip.evict_of_held {c : Chip} {h line : Nat} (hv : c.victimOk (hartDie h) line = true) :
    c.evict h line = (c.evictL2 h line).retryInstalls (hartDie h) := by simp [Chip.evict, hv]

theorem Chip.evict_of_upgrade {c : Chip} {h line : Nat} (hv : c.victimOk (hartDie h) line = false) : c.evict h line = c := by
  simp [Chip.evict, hv]

theorem Moesi.dirty_iff {st : Moesi} : st.dirty = true ↔ st = .M ∨ st = .O := by cases st <;> decide

theorem Chip.evictL2_of_dirty {c : Chip} {h line : Nat} (hd : (c.l2at h line).st.dirty = true) : c.evictL2 h line =
    if c.wbCount h < 16 then
      { c.dropL2 h line with wb := c.wb ++ [{ h := h, line := line, st := (c.l2at h line).st, world := (c.l2at h line).world,
                                              data := (c.l2at h line).data, poison := (c.l2at h line).poison, sent := false
                                              superseded := false }] }
    else c := by
  unfold Chip.evictL2
  dsimp only
  rcases Moesi.dirty_iff.1 hd with hs | hs
  · simp only [hs]
  · simp only [hs]

/-- A clean line of which the die keeps no copy, while its landing cache is disabled, is given back to its home. -/
theorem Chip.evictL2_of_last {c : Chip} {h line : Nat} (hst : (c.l2at h line).st = .E ∨ (c.l2at h line).st = .S)
    (hmode : c.lndMode (hartDie h) = 1) (hlnd : c.lndAt (hartDie h) line = none) (hhold : (c.dropL2 h line).holders (hartDie h) line = [])
    (hwb : c.wb = []) : c.evictL2 h line = (c.dropL2 h line).issue {
      kind := .EVICT_CLEAN, die := hartDie h, line := line, rid := h, world := ((c.dropL2 h line).hart h).world
      label := ((c.dropL2 h line).hart h).label, acc := 1, tag := ((c.dropL2 h line).freeTag (hartDie h)).getD 0 } := by
  have hempty : (c.dropL2 h line).dieEmpty (hartDie h) line = true := by
    rw [Chip.dieEmpty, hhold, c.lndAt_dropL2, hlnd, c.wb_dropL2, hwb]
    rfl
  have halloc : ∀ data p w s, (c.dropL2 h line).lndAlloc (hartDie h) line h data p w s = c.dropL2 h line := fun data p w s => by
    rw [Chip.lndAlloc, if_pos (by rw [c.lndMode_dropL2, hmode]; decide)]
  have hevict : (c.dropL2 h line).evictClean (hartDie h) line h = (c.dropL2 h line).issue {
      kind := .EVICT_CLEAN, die := hartDie h, line := line, rid := h, world := ((c.dropL2 h line).hart h).world
      label := ((c.dropL2 h line).hart h).label, acc := 1, tag := ((c.dropL2 h line).freeTag (hartDie h)).getD 0 } := by
    rw [Chip.evictClean, Chip.cleanNotice, if_pos hempty]
  unfold Chip.evictL2
  dsimp only
  rcases hst with hst | hst
  · rw [hst]; dsimp only; rw [c.lndAt_dropL2, hlnd]; dsimp only; rw [halloc, hevict]
  · rw [hst]; dsimp only; rw [c.lndAt_dropL2, hlnd]; dsimp only; rw [halloc, hevict]

-- a request for a line in the write-back buffer

theorem Chip.wbHit_of_unsent {c : Chip} {h line : Nat} {e : WbEntry} (hw : c.wb = [e]) (hh : e.h = h) (hl : e.line = line)
    (hs : e.sent = false) (hsup : e.superseded = false) : c.wbHit h line = ((c.cancelWb e).getD c).runDie (hartDie h) := by
  unfold Chip.wbHit
  rw [hw, List.find?_cons_of_pos (by simp [hh, hl, hs, hsup])]

theorem Chip.wbHit_of_sent {c : Chip} {h line : Nat} {e : WbEntry} (hw : c.wb = [e]) (hs : e.sent = true) : c.wbHit h line = c := by
  unfold Chip.wbHit
  rw [hw, List.find?_cons_of_neg (by simp [hs]), List.find?_nil]

theorem Chip.cancelWb_alone {c : Chip} {e : WbEntry} (hw : c.wb = [e]) : c.cancelWb e =
    (({ c with wb := [] } : Chip).roomFor e.h e.line).map (fun x => x.l2Put e.h e.line
      { st := e.st, world := e.world, data := e.data, poison := e.poison, hold := none, pinned := false }) := by
  rw [Chip.cancelWb, hw, List.filter_cons_of_neg (by simp), List.filter_nil]

-- the lines of a cache

/-- The home of a line depends on the address map and on the registers and windows of the stations. -/
theorem Chip.homeHall_congr {c d : Chip} (hmap : d.reg .PKG_ADDR_MAP = c.reg .PKG_ADDR_MAP)
    (hreg : ∀ q : Reg, 0x4000000 ≤ q.offset → d.reg q = c.reg q) (hwin : d.winNow = c.winNow) (line : Nat) :
    d.homeHall line = c.homeHall line := by
  have hcfg : ∀ n, d.reg (.PORT_CFG n) = c.reg (.PORT_CFG n) := fun n => hreg _ (by simp only [Reg.offset]; omega)
  have hctl : ∀ n, d.reg (.PORT_CTL n) = c.reg (.PORT_CTL n) := fun n => hreg _ (by simp only [Reg.offset]; omega)
  have hbase : ∀ n j, d.reg (.PORT_CXL_BASE n j) = c.reg (.PORT_CXL_BASE n j) := fun n j => hreg _ (by simp only [Reg.offset]; omega)
  have hlim : ∀ n j, d.reg (.PORT_CXL_LIMIT n j) = c.reg (.PORT_CXL_LIMIT n j) := fun n j => hreg _ (by simp only [Reg.offset]; omega)
  have hcxl : ∀ pa n j, d.inCxl pa n j = c.inCxl pa n j := fun pa n j => by
    simp only [Chip.inCxl, Chip.cxlWindow, Chip.portFormed, Chip.portCount, Chip.bit, Chip.fld, hcfg, hctl, hbase, hlim]
    rfl
  have hregion : ∀ pa, d.region pa = c.region pa := fun pa => by
    simp only [Chip.region, hcxl, Chip.inEcam, Chip.inMwin, Chip.winReg, hwin, Chip.dramTop, Chip.capGib, Chip.fld, hmap]
    rfl
  have hdom : d.domains = c.domains := Chip.bit_of_reg hmap _
  have hcap : d.capGib = c.capGib := Chip.fld_of_reg hmap _
  rw [Chip.homeHall, Chip.homeHall, Chip.home, Chip.home, hregion, hdom, hcap]


-- a landing cache gives up its lines

/-- From `x` to `y` a line leaves the landing array of a die, unless an outstanding UPGRADE rests on it alone: then it is left to be dropped. -/
structure LeavesLanding (d line : Nat) (x y : Chip) : Prop where
  regs : y.regs = x.regs
  l2 : y.l2 = x.l2
  miss : y.miss = x.miss
  sub : ∀ e ∈ y.lnd, e ∈ x.lnd
  mono : ∀ l ∈ (x.die d).lndLeft, l ∈ (y.die d).lndLeft
  gone : (∀ e ∈ y.lnd, e.1 ≠ line * 12 + d) ∨ (x.lndMayDrop d line = false ∧ line ∈ (y.die d).lndLeft)

theorem Chip.lndMayDrop_congr {x y : Chip} (hl2 : y.l2 = x.l2) (hmiss : y.miss = x.miss) (d line : Nat) :
    y.lndMayDrop d line = x.lndMayDrop d line := by
  simp only [Chip.lndMayDrop, Chip.victimOk, Chip.holders, Chip.l2at, hl2, hmiss]

theorem Chip.mem_lnd_setLnd_none {c : Chip} {d line : Nat} {e : Nat × Option LndLine} (h : e ∈ (c.setLnd d line none).lnd) :
    e ∈ c.lnd ∧ e.1 ≠ line * 12 + d := by
  have he : e ∈ serase (line * 12 + d) c.lnd := by
    rw [Chip.setLnd] at h
    simpa [sset] using h
  simpa [serase] using he

theorem mem_addOnce_self (a : Nat) (l : List Nat) : a ∈ addOnce a l := by
  unfold addOnce
  split <;> simp_all
theorem mem_addOnce_of_mem {a b : Nat} {l : List Nat} (h : b ∈ l) : b ∈ addOnce a l := by
  unfold addOnce
  split <;> simp_all

theorem leavesLanding_left {x : Chip} {d line : Nat} (hm : x.lndMayDrop d line = false) :
    LeavesLanding d line x (x.onDie d (fun y => { y with lndLeft := addOnce line y.lndLeft })) := by
  refine ⟨rfl, rfl, rfl, fun _ h => h, fun l hl => ?_, Or.inr ⟨hm, ?_⟩⟩
  · rw [Chip.die_onDie]; exact mem_addOnce_of_mem hl
  · rw [Chip.die_onDie]; exact mem_addOnce_self _ _

theorem leavesLanding_setLnd (x : Chip) (d line : Nat) : LeavesLanding d line x (x.setLnd d line none) :=
  ⟨rfl, rfl, rfl, fun _ h => (Chip.mem_lnd_setLnd_none h).1, fun _ h => h, Or.inl fun _ h => (Chip.mem_lnd_setLnd_none h).2⟩

theorem leavesLanding_lndDrop (x : Chip) (d line : Nat) : LeavesLanding d line x (x.lndDrop d line) := by
  unfold Chip.lndDrop
  split
  next =>
    obtain ⟨hregs, hl2, hmiss, hsub, hmono, hgone⟩ := leavesLanding_setLnd x d line
    rw [Chip.cmeEvict]
    refine ⟨by rw [Chip.cleanNotice_regs, hregs], by rw [Chip.cleanNotice_l2, hl2], by rw [Chip.cleanNotice_miss, hmiss],
      by rw [Chip.cleanNotice_lnd]; exact hsub, ?_, ?_⟩
    · simpa only [Chip.die, Chip.cleanNotice_dies] using hmono
    · simpa only [Chip.die, Chip.cleanNotice_dies, Chip.cleanNotice_lnd] using hgone
  next hm => exact leavesLanding_left (by simpa using hm)

theorem leavesLanding_off (x : Chip) (d line : Nat) : LeavesLanding d line x
    (if x.lndMayDrop d line then x.setLnd d line none else x.onDie d (fun y => { y with lndLeft := addOnce line y.lndLeft })) := by
  split
  next => exact leavesLanding_setLnd x d line
  next hm => exact leavesLanding_left (by simpa using hm)

/-- What a landing cache still holds is what it has still to drop. -/
def Chip.KeptLeft (x : Chip) (d : Nat) : Prop :=
  ∀ line ∈ x.cacheLines (.landing d), x.lndMayDrop d line = false ∧ line ∈ (x.die d).lndLeft

theorem foldl_leavesLanding {f : Chip → Nat → Chip} {d : Nat} (hf : ∀ x l, LeavesLanding d l x (f x l)) (ls : List Nat) (x : Chip) :
    let y := ls.foldl f x
    y.regs = x.regs ∧ y.l2 = x.l2 ∧ y.miss = x.miss ∧ (∀ e ∈ y.lnd, e ∈ x.lnd) ∧ (∀ l ∈ (x.die d).lndLeft, l ∈ (y.die d).lndLeft)
      ∧ ∀ l ∈ ls, (∀ e ∈ y.lnd, e.1 ≠ l * 12 + d) ∨ (x.lndMayDrop d l = false ∧ l ∈ (y.die d).lndLeft) := by
  induction ls generalizing x with
  | nil => exact ⟨rfl, rfl, rfl, fun _ h => h, fun _ h => h, fun _ h => absurd h List.not_mem_nil⟩
  | cons l ls ih =>
    obtain ⟨hregs, hl2, hmiss, hsub, hmono, hgone⟩ := hf x l
    obtain ⟨hregs', hl2', hmiss', hsub', hmono', hgone'⟩ := ih (f x l)
    rw [List.foldl_cons]
    refine ⟨hregs'.trans hregs, hl2'.trans hl2, hmiss'.trans hmiss, fun e h => hsub e (hsub' e h), fun k h => hmono' k (hmono k h),
      fun k hk => ?_⟩
    rcases List.mem_cons.1 hk with rfl | hk
    · exact hgone.imp (fun h e he => h e (hsub' e he)) (fun h => ⟨h.1, hmono' _ h.2⟩)
    · rw [← Chip.lndMayDrop_congr hl2 hmiss]
      exact hgone' k hk

theorem Chip.keptLeft_foldl {f : Chip → Nat → Chip} {d : Nat} (hf : ∀ x l, LeavesLanding d l x (f x l)) (x : Chip) :
    ((x.cacheLines (.landing d)).foldl f x).KeptLeft d := by
  obtain ⟨-, hl2, hmiss, hsub, -, hgone⟩ := foldl_leavesLanding hf (x.cacheLines (.landing d)) x
  intro line hline
  obtain ⟨e, he, rfl⟩ := List.mem_map.1 hline
  obtain ⟨hmem, hp⟩ := List.mem_filter.1 he
  have hkey : e.1 = e.1 / 12 * 12 + d := by
    have hd : e.1 % 12 = d := by simp only [Bool.and_eq_true, beq_iff_eq] at hp; exact hp.1
    omega
  have hin : e.1 / 12 ∈ x.cacheLines (.landing d) := List.mem_map.2 ⟨e, List.mem_filter.2 ⟨hsub e hmem, hp⟩, rfl⟩
  rcases hgone _ hin with h | h
  · exact absurd hkey (h e hmem)
  · rw [Chip.lndMayDrop_congr hl2 hmiss]; exact h

theorem Chip.KeptLeft.of_regs {x y : Chip} {d : Nat} (h : x.KeptLeft d) (hl : y.lnd = x.lnd) (hl2 : y.l2 = x.l2) (hm : y.miss = x.miss)
    (hd : y.dies = x.dies) : y.KeptLeft d := fun line hline => by
  rw [Chip.cacheLines, hl] at hline
  rw [Chip.lndMayDrop_congr hl2 hm, Chip.die, hd]
  exact h line hline

-- a hall cache gives up its lines

theorem Chip.mem_hc_setHc_none {c : Chip} {line : Nat} {e : Nat × Option HcLine} (h : e ∈ (c.setHc line none).hc) : e ∈ c.hc ∧ e.1 ≠ line := by
  have he : e ∈ serase line c.hc := by
    rw [Chip.setHc] at h
    simpa [sset] using h
  simpa [serase] using he

theorem foldl_setHc_none (ls : List Nat) (x : Chip) : let y := ls.foldl (fun x l => x.setHc l none) x
    y.regs = x.regs ∧ y.winNow = x.winNow ∧ ∀ e ∈ y.hc, e ∈ x.hc ∧ e.1 ∉ ls := by
  induction ls generalizing x with
  | nil => exact ⟨rfl, rfl, fun _ h => ⟨h, List.not_mem_nil⟩⟩
  | cons l ls ih =>
    obtain ⟨hregs, hwin, hhc⟩ := ih (x.setHc l none)
    refine ⟨hregs, hwin, fun e he => ?_⟩
    obtain ⟨hmem, hls⟩ := hhc e he
    obtain ⟨hmem, hl⟩ := Chip.mem_hc_setHc_none hmem
    exact ⟨hmem, by simp [hl, hls]⟩

theorem Chip.homeHall_of_regs {c d : Chip} (hr : d.regs = c.regs) (hw : d.winNow = c.winNow) (line : Nat) : d.homeHall line = c.homeHall line :=
  Chip.homeHall_congr (by rw [Chip.reg, hr, Chip.reg]) (fun q _ => by rw [Chip.reg, hr, Chip.reg]) hw line

theorem Chip.cacheLines_hall_clear (x : Chip) (n : Nat) : (x.cacheClear (.hall n)).cacheLines (.hall n) = [] := by
  obtain ⟨hregs, hwin, hhc⟩ := foldl_setHc_none (x.cacheLines (.hall n)) x
  refine List.map_eq_nil_iff.2 (List.filter_eq_nil_iff.2 fun e he hp => ?_)
  obtain ⟨hmem, hout⟩ := hhc e he
  refine hout (List.mem_map.2 ⟨e, List.mem_filter.2 ⟨hmem, ?_⟩, rfl⟩)
  rwa [Chip.homeHall_of_regs (d := x.cacheClear (.hall n)) hregs hwin] at hp

/-- The chip with the cache of a hall powered off. -/
def Chip.hallOff (x : Chip) (n : Nat) : Chip := { x with hc := x.hc.filter (fun e => x.homeHall e.1 != n) }

theorem Chip.cacheLines_hall_off (x : Chip) (n : Nat) : (x.hallOff n).cacheLines (.hall n) = [] := by
  refine List.map_eq_nil_iff.2 (List.filter_eq_nil_iff.2 fun e he hp => ?_)
  have hout := (List.mem_filter.1 he).2
  rw [Chip.homeHall_of_regs (c := x) (d := x.hallOff n) rfl rfl] at hp
  simp only [Bool.and_eq_true, beq_iff_eq] at hp
  simp [hp.2] at hout

-- the commands

/-- What a cache still holds after a command that empties it: landing copies under an outstanding UPGRADE (R183). -/
def Chip.Kept (x : Chip) (k : CacheSel) : Prop :=
  ∀ line ∈ x.cacheLines k, ∃ d, k = .landing d ∧ x.victimOk d line = false ∧ x.holders d line = [] ∧ line ∈ (x.die d).lndLeft

theorem Chip.KeptLeft.kept {x : Chip} {d : Nat} (h : x.KeptLeft d) : x.Kept (.landing d) := fun line hline => by
  obtain ⟨hm, hleft⟩ := h line hline
  obtain ⟨hv, hh⟩ := Bool.or_eq_false_iff.1 hm
  exact ⟨d, rfl, hv, by simpa using hh, hleft⟩

theorem Chip.kept_of_empty {x : Chip} {k : CacheSel} (h : x.cacheLines k = []) : x.Kept k := fun line hline => by simp [h] at hline

/-- Changing a status register of the cache concerns no line. -/
theorem Chip.Kept.setBit {x : Chip} {k : CacheSel} (h : x.Kept k) (hk : cacheOk k = true) (f : Field) (b : Bool) :
    (x.setBit (cacheSts k) f b).Kept k := by
  cases k with
  | landing d => exact h
  | hall n =>
    have hn : n < 16 := by simpa [cacheOk] using hk
    have hoff : (cacheSts (.hall n)).offset < 0x4000000 := by simp only [cacheSts, Reg.offset]; omega
    have hhome : ∀ line, (x.setBit (cacheSts (.hall n)) f b).homeHall line = x.homeHall line := fun line =>
      Chip.homeHall_congr (Chip.reg_setBit_ne _ _ _ (by simp only [cacheSts, Reg.offset]; omega))
        (fun q hq => Chip.reg_setBit_ne _ _ _ (by omega)) rfl line
    intro line hline
    simp only [Chip.cacheLines, hhome] at hline
    obtain ⟨d, hd, -⟩ := h line hline
    exact absurd hd (by simp)

theorem Chip.setMode_mode (c : Chip) (k : CacheSel) {mode : Nat} (b : Bool) (hm : mode < 4) :
    (c.setMode k mode b).fld (cacheSts k) F.LND_STATUS_MODE = mode := by
  rw [Chip.setMode, Chip.fld_setBit_apart _ _ _ (by decide), Chip.fld_setFld_of_lt _ _ _ (by decide) (by decide) hm]

/-- The modes in which a command is taken (R170). -/
def Chip.takesCmd (c : Chip) (k : CacheSel) (cmd : Nat) : Bool :=
  match cmd with
  | 1 => c.fld (cacheSts k) F.LND_STATUS_MODE == 0
  | 2 => c.fld (cacheSts k) F.LND_STATUS_MODE ≤ 1
  | 3 => c.fld (cacheSts k) F.LND_STATUS_MODE ≤ 2
  | 4 => 1 ≤ c.fld (cacheSts k) F.LND_STATUS_MODE
  | 5 => c.fld (cacheSts k) F.LND_STATUS_MODE == 1 && !c.bit (cacheSts k) F.LND_STATUS_DARK_SEEN
  | _ => c.fld (cacheSts k) F.LND_STATUS_MODE == 2

/-- What a command does that is taken. -/
def Pkg.doCmd (p : Pkg) (who : Who) (k : CacheSel) (cmd : Nat) : Pkg :=
  match cmd with
  | 1 | 2 | 3 => p.cacheDisable k cmd
  | 4 => p.onChip (fun c => c.cacheEnable k)
  | 5 => p.onChip (fun c => c.setMode k 0 false)
  | _ => p.onChip (fun c => ((c.setMode k 0 false).setBit (cacheSts k) F.LND_STATUS_FORCED true).report
      (match k with | .landing d => unitDie d | .hall n => unitHall n) 13 who.rid who.world 1 0 (cacheCtl k).addr)

theorem Pkg.cacheCmd_eq (p : Pkg) (who : Who) (k : CacheSel) {cmd : Nat} (hc : ¬ (cmd = 0 ∨ 7 ≤ cmd)) : p.cacheCmd who k cmd =
    if !who.sealed then { p with chip := p.chip.refuseWrite who (cacheCtl k) }
    else if p.chip.bit (cacheSts k) F.LND_STATUS_BUSY || !p.chip.takesCmd k cmd then
      { p with chip := p.chip.setBit (cacheSts k) F.LND_STATUS_REFUSED true }
    else p.doCmd who k cmd := by
  unfold Pkg.cacheCmd
  dsimp only
  rw [if_neg hc]
  rfl

theorem Pkg.cacheCmd_of_taken {p : Pkg} {who : Who} {k : CacheSel} {cmd : Nat} (hc : ¬ (cmd = 0 ∨ 7 ≤ cmd)) (hw : who.sealed = true)
    (hb : p.chip.bit (cacheSts k) F.LND_STATUS_BUSY = false) (ht : p.chip.takesCmd k cmd = true) :
    p.cacheCmd who k cmd = p.doCmd who k cmd := by
  rw [p.cacheCmd_eq who k hc, if_neg (by simp [hw]), if_neg (by simp [hb, ht])]

theorem Pkg.cacheCmd_of_refused {p : Pkg} {who : Who} {k : CacheSel} {cmd : Nat} (hc : ¬ (cmd = 0 ∨ 7 ≤ cmd)) (hw : who.sealed = true)
    (hr : p.chip.bit (cacheSts k) F.LND_STATUS_BUSY = true ∨ p.chip.takesCmd k cmd = false) :
    p.cacheCmd who k cmd = { p with chip := p.chip.setBit (cacheSts k) F.LND_STATUS_REFUSED true } := by
  rw [p.cacheCmd_eq who k hc, if_neg (by simp [hw]), if_pos (by rcases hr with hr | hr <;> simp [hr])]

theorem Pkg.cacheCmd_of_foreign {p : Pkg} {who : Who} {k : CacheSel} {cmd : Nat} (hc : ¬ (cmd = 0 ∨ 7 ≤ cmd)) (hw : who.sealed = false) :
    p.cacheCmd who k cmd = { p with chip := p.chip.refuseWrite who (cacheCtl k) } := by
  rw [p.cacheCmd_eq who k hc, if_pos (by simp [hw])]

-- the end of a command

theorem Chip.cacheCmdEnd_of_none {c : Chip} {d : Nat} (h : (c.die d).lndLeft = []) :
    c.cacheCmdEnd (.landing d) = c.setBit (.LND_STATUS d) F.LND_STATUS_BUSY false := by
  have hx : c.dropLeft d = c := by rw [Chip.dropLeft, h, List.foldl_nil]
  rw [Chip.cacheCmdEnd]
  rw [hx, if_pos (by rw [h]; rfl)]
  rfl

/-- The one line that a die has still to drop is dropped no longer. -/
def Chip.noneLeft (c : Chip) (d : Nat) : Chip := c.onDie d (fun z => { z with lndLeft := [] })

theorem Chip.dropLeft_one {c : Chip} {d line : Nat} (h : (c.die d).lndLeft = [line]) : c.dropLeft d =
    if (c.lndAt d line).isNone then c.noneLeft d
    else if !c.lndMayDrop d line then c
    else if (c.noneLeft d).lndMode d = 3 then (c.noneLeft d).setLnd d line none
    else (c.noneLeft d).lndDrop d line := by
  have hy : c.onDie d (fun z => { z with lndLeft := z.lndLeft.filter (· != line) }) = c.noneLeft d := by
    rw [Chip.noneLeft, Chip.onDie, Chip.onDie, h]
    simp
  rw [Chip.dropLeft, h, List.foldl_cons, List.foldl_nil]
  rw [hy]

theorem Chip.lndLeft_noneLeft (c : Chip) (d : Nat) : ((c.noneLeft d).die d).lndLeft = [] := by rw [Chip.noneLeft, Chip.die_onDie]

/-- The chip with that line dropped. -/
def Chip.leftDropped (c : Chip) (d line : Nat) : Chip :=
  if c.fld (.LND_STATUS d) F.LND_STATUS_MODE = 3 then (c.noneLeft d).setLnd d line none else (c.noneLeft d).lndDrop d line

theorem Chip.lndAt_setLnd (c : Chip) (d line : Nat) (v : Option LndLine) : (c.setLnd d line v).lndAt d line = v := by
  simp only [Chip.lndAt, Chip.setLnd, sget_sset_self]

theorem Chip.leftDropped_spec {c : Chip} {d line : Nat} (hv : c.victimOk d line = true) :
    ((c.leftDropped d line).die d).lndLeft = [] ∧ (c.leftDropped d line).lndAt d line = none := by
  have hmay : (c.noneLeft d).lndMayDrop d line = true := by
    rw [Chip.lndMayDrop_congr (x := c) (y := c.noneLeft d) rfl rfl, Chip.lndMayDrop, hv, Bool.true_or]
  unfold Chip.leftDropped
  split
  · exact ⟨c.lndLeft_noneLeft d, Chip.lndAt_setLnd _ _ _ _⟩
  · rw [Chip.lndDrop, if_pos hmay, Chip.cmeEvict]
    refine ⟨?_, ?_⟩
    · rw [Chip.die, Chip.cleanNotice_dies]; exact c.lndLeft_noneLeft d
    · rw [Chip.lndAt, Chip.cleanNotice_lnd]; exact Chip.lndAt_setLnd _ _ _ _

theorem Chip.cacheCmdEnd_of_dropped {c : Chip} {d line : Nat} (h : (c.die d).lndLeft = [line]) (hl : (c.lndAt d line).isSome = true)
    (hv : c.victimOk d line = true) :
    c.cacheCmdEnd (.landing d) = (c.leftDropped d line).setBit (.LND_STATUS d) F.LND_STATUS_BUSY false := by
  have hx : c.dropLeft d = c.leftDropped d line := by
    rw [Chip.dropLeft_one h, if_neg (by simpa [Option.isSome_iff_ne_none] using hl), if_neg (by simp [Chip.lndMayDrop, hv])]
    rfl
  rw [Chip.cacheCmdEnd]
  rw [hx, if_pos (by rw [(Chip.leftDropped_spec hv).1]; rfl)]
  rfl

theorem Chip.cacheCmdEnd_of_gone {c : Chip} {d line : Nat} (h : (c.die d).lndLeft = [line]) (hl : c.lndAt d line = none) :
    c.cacheCmdEnd (.landing d) = (c.noneLeft d).setBit (.LND_STATUS d) F.LND_STATUS_BUSY false := by
  have hx : c.dropLeft d = c.noneLeft d := by rw [Chip.dropLeft_one h, if_pos (by simp [hl])]
  rw [Chip.cacheCmdEnd]
  rw [hx, if_pos (by rw [c.lndLeft_noneLeft d]; rfl)]
  rfl

theorem Chip.cacheCmdEnd_of_stays {c : Chip} {d line : Nat} (h : (c.die d).lndLeft = [line]) (hl : (c.lndAt d line).isSome = true)
    (hv : c.victimOk d line = false) (hh : c.holders d line = []) : c.cacheCmdEnd (.landing d) = c := by
  have hx : c.dropLeft d = c := by
    rw [Chip.dropLeft_one h, if_neg (by simpa [Option.isSome_iff_ne_none] using hl), if_pos (by simp [Chip.lndMayDrop, hv, hh])]
  rw [Chip.cacheCmdEnd]
  rw [hx, if_neg (by rw [h]; simp)]

-- the commands that power off and that invalidate

theorem Pkg.cacheDisable_off (p : Pkg) (k : CacheSel) (hk : cacheOk k = true) : let t := (p.cacheDisable k 3).chip
    t.fld (cacheSts k) F.LND_STATUS_MODE = 3 ∧ t.bit (cacheSts k) F.LND_STATUS_DARK_SEEN = true ∧ t.Kept k := by
  have hset : ∀ c : Chip, ((c.setMode k 3 true).setBit (cacheSts k) F.LND_STATUS_DARK_SEEN true).fld (cacheSts k) F.LND_STATUS_MODE = 3
      ∧ ((c.setMode k 3 true).setBit (cacheSts k) F.LND_STATUS_DARK_SEEN true).bit (cacheSts k) F.LND_STATUS_DARK_SEEN = true := fun c =>
    ⟨by rw [Chip.fld_setBit_apart _ _ _ (by decide), c.setMode_mode k true (by decide)], Chip.bit_setBit _ _ _ _ (by decide) (by decide)⟩
  intro t
  obtain ⟨hmode, hdark⟩ := hset (p.cacheClean k).chip
  cases k with
  | landing d =>
    let c2 := ((p.cacheClean (.landing d)).chip.setMode (.landing d) 3 true).setBit (cacheSts (.landing d)) F.LND_STATUS_DARK_SEEN true
    obtain ⟨hregs, -⟩ := foldl_leavesLanding (fun x l => leavesLanding_off x d l) (c2.cacheLines (.landing d)) c2
    exact ⟨(Chip.fld_of_regs hregs _ _).trans hmode, (Chip.bit_of_regs hregs _ _).trans hdark,
      (Chip.keptLeft_foldl (fun x l => leavesLanding_off x d l) c2).kept⟩
  | hall n => exact ⟨hmode, hdark, Chip.kept_of_empty (Chip.cacheLines_hall_off _ n)⟩

theorem Chip.cacheClear_regs (c : Chip) (k : CacheSel) : (c.cacheClear k).regs = c.regs := by
  cases k with
  | landing d => exact (foldl_leavesLanding (fun x l => leavesLanding_lndDrop x d l) (c.cacheLines (.landing d)) c).1
  | hall n => exact (foldl_setHc_none (c.cacheLines (.hall n)) c).1

theorem Chip.cacheClear_kept (c : Chip) (k : CacheSel) : (c.cacheClear k).Kept k := by
  cases k with
  | landing d => exact (Chip.keptLeft_foldl (fun x l => leavesLanding_lndDrop x d l) c).kept
  | hall n => exact Chip.kept_of_empty (c.cacheLines_hall_clear n)

theorem Chip.cacheEnable_spec (c : Chip) (k : CacheSel) (hk : cacheOk k = true) : let t := c.cacheEnable k
    t.fld (cacheSts k) F.LND_STATUS_MODE = 0 ∧ t.bit (cacheSts k) F.LND_STATUS_DARK_SEEN = false
      ∧ t.bit (cacheSts k) F.LND_STATUS_FORCED = false ∧ t.Kept k := by
  have hregs := (c.setMode k 0 true).cacheClear_regs k
  refine ⟨?_, ?_, Chip.bit_setBit _ _ _ _ (by decide) (by decide), ?_⟩
  · rw [Chip.cacheEnable, Chip.fld_setBit_apart _ _ _ (by decide), Chip.fld_setBit_apart _ _ _ (by decide), Chip.fld_of_regs hregs,
      c.setMode_mode k true (by decide)]
  · rw [Chip.cacheEnable, Chip.bit_setBit_apart _ _ _ (by decide), Chip.bit_setBit _ _ _ _ (by decide) (by decide)]
  · exact (((c.setMode k 0 true).cacheClear_kept k).setBit hk _ _).setBit hk _ _

/-- Settles O26: what an eviction, a hit in the write-back buffer and each command of a cache do. -/
theorem cacheEvictionsModes : Obligations.CacheEvictionsModes := by
  refine ⟨⟨fun s h line hh hl hv => ?_, fun s h line hh hl hv => ?_, fun s h line e hh hl hw heh hel => ?_⟩, fun s who k hk => ?_⟩
  · have hok : (hartOk h && lineOk line) = true := by simp only [hartOk_of_lt hh, lineOk, hl, decide_true, Bool.and_self]
    have hgives : Gives (.l2Eviction h line) s ((s.chip.evictL2 h line).retryInstalls (hartDie h)) :=
      gives_of_onChip rfl hok (Chip.evict_of_held hv)
    intro l c
    refine ⟨fun hd hwb => ?_, fun hd hwb => ?_, fun hst hmode hlnd hhold hwb => ?_⟩
    · rwa [Chip.evictL2_of_dirty hd, if_pos hwb] at hgives
    · rwa [Chip.evictL2_of_dirty hd, if_neg (Nat.not_lt.2 hwb)] at hgives
    · rw [Chip.evictL2_of_last hst hmode hlnd hhold hwb] at hgives
      exact hgives
  · have hok : (hartOk h && lineOk line) = true := by simp only [hartOk_of_lt hh, lineOk, hl, decide_true, Bool.and_self]
    exact gives_of_onChip rfl hok (Chip.evict_of_upgrade hv)
  · have hok : (hartOk h && lineOk line) = true := by simp only [hartOk_of_lt hh, lineOk, hl, decide_true, Bool.and_self]
    have hgives : Gives (.wbBufferHit h line) s (s.chip.wbHit h line) := gives_of_onChip rfl hok rfl
    refine ⟨fun c hs hsup hroom => ?_, fun hs hsup hroom => ?_, fun hs => ?_⟩
    · have hcancel : s.chip.cancelWb e = some (c.l2Put h line
          { st := e.st, world := e.world, data := e.data, poison := e.poison, hold := none, pinned := false }) := by
        rw [Chip.cancelWb_alone hw, heh, hel, hroom, Option.map_some]
      rwa [Chip.wbHit_of_unsent hw heh hel hs hsup, hcancel, Option.getD_some] at hgives
    · rwa [Chip.wbHit_of_unsent hw heh hel hs hsup, Chip.cancelWb_alone hw, heh, hel, hroom, Option.map_none, Option.getD_none] at hgives
    · rwa [Chip.wbHit_of_sent hw hs] at hgives
  · intro c sts mode kept dark
    let cmds : List (Instr × Nat) := [(.disableTracking who k, 1), (.disableDark who k, 2), (.disableOff who k, 3),
      (.enableInvalidate who k, 4), (.enableKeep who k, 5), (.forceKeep who k, 6)]
    have hcmd : ∀ e ∈ cmds, GivesPkg e.1 s (s.toPkg.cacheCmd who k e.2) ∧ ¬ (e.2 = 0 ∨ 7 ≤ e.2) := by
      simp only [cmds, List.forall_mem_cons, List.not_mem_nil, false_imp_iff, implies_true, and_true]
      refine ⟨?_, ?_, ?_, ?_, ?_, ?_⟩ <;> exact ⟨givesPkg_of_onPkg rfl hk rfl, by decide⟩
    have hdone : Gives (.cacheCmdDone k) s (s.chip.cacheCmdEnd k) := gives_of_onChip rfl hk rfl
    have h1 := (hcmd (.disableTracking who k, 1) (by simp [cmds])).1
    have h2 := (hcmd (.disableDark who k, 2) (by simp [cmds])).1
    have h3 := (hcmd (.disableOff who k, 3) (by simp [cmds])).1
    have h4 := (hcmd (.enableInvalidate who k, 4) (by simp [cmds])).1
    have h5 := (hcmd (.enableKeep who k, 5) (by simp [cmds])).1
    have h6 := (hcmd (.forceKeep who k, 6) (by simp [cmds])).1
    refine ⟨fun hw hb => ⟨fun hm => ?_, fun hm => ?_, fun hm => ?_, fun hm => ?_, fun hm hdk => ?_, fun hm => ?_, fun hm => ?_, fun hm => ?_⟩,
      fun hw hb i hi => ?_, fun hw i hi => ?_, fun n hn => ?_, fun d hd => ?_⟩
    · rwa [Pkg.cacheCmd_of_taken (cmd := 1) (by decide) hw hb (beq_iff_eq.2 hm)] at h1
    · rwa [Pkg.cacheCmd_of_taken (cmd := 2) (by decide) hw hb (decide_eq_true hm)] at h2
    · rw [Pkg.cacheCmd_of_taken (cmd := 3) (by decide) hw hb (decide_eq_true hm)] at h3
      exact ⟨_, h3, s.toPkg.cacheDisable_off k hk⟩
    · rw [Pkg.cacheCmd_of_taken (cmd := 4) (by decide) hw hb (decide_eq_true hm)] at h4
      obtain ⟨hmode, hdark, hforced, hkept⟩ := s.chip.cacheEnable_spec k hk
      exact ⟨_, h4, hmode, hdark, hforced, hkept, rfl⟩
    · rwa [Pkg.cacheCmd_of_taken (cmd := 5) (by decide) hw hb (Bool.and_eq_true_iff.2 ⟨beq_iff_eq.2 hm, by simp [c, sts] at hdk; simp [hdk]⟩)] at h5
    · rwa [Pkg.cacheCmd_of_taken (cmd := 6) (by decide) hw hb (beq_iff_eq.2 hm)] at h6
    · rwa [Pkg.cacheCmd_of_refused (cmd := 1) (by decide) hw (Or.inr (beq_eq_false_iff_ne.2 hm))] at h1
    · rwa [Pkg.cacheCmd_of_refused (cmd := 5) (by decide) hw (Or.inr ?_)] at h5
      show (mode == 1 && !c.bit sts F.LND_STATUS_DARK_SEEN) = false
      rcases hm with hm | hm <;> simp [hm]
    · obtain ⟨e, he, rfl⟩ := List.mem_map.1 (show i ∈ cmds.map Prod.fst from hi)
      obtain ⟨hgives, hc⟩ := hcmd e he
      rwa [Pkg.cacheCmd_of_refused hc hw (Or.inl hb)] at hgives
    · obtain ⟨e, he, rfl⟩ := List.mem_map.1 (show i ∈ cmds.map Prod.fst from hi)
      obtain ⟨hgives, hc⟩ := hcmd e he
      rwa [Pkg.cacheCmd_of_foreign hc hw] at hgives
    · subst hn
      exact hdone
    · subst hd
      refine ⟨fun hnone => ?_, fun line hone => ⟨fun hl hv hh => ?_, fun hl hv => ?_, fun hl => ?_⟩⟩
      · rwa [Chip.cacheCmdEnd_of_none hnone] at hdone
      · rwa [Chip.cacheCmdEnd_of_stays hone hl hv hh] at hdone
      · rw [Chip.cacheCmdEnd_of_dropped hone hl hv] at hdone
        exact ⟨hdone, _, hdone, (Chip.leftDropped_spec hv).2, Chip.bit_setBit _ _ _ _ (by decide) (by decide)⟩
      · rwa [Chip.cacheCmdEnd_of_gone hone hl] at hdone

end Sys2Proof.Machine
end

section
/-! Reads at the home of a line whose hall cache holds a clean copy other than memory's bytes, in a bypass region (R154): the copy is dropped
unwritten and the channel's bytes are read, where the statements promise the cached copy's. -/

namespace Sys2Proof.Machine

/-- The only outcome of a command that answers a package is that package. -/
theorem toPkg_of_givesPkg {i : Instr} {s t : State} {p : Pkg} (hp : GivesPkg i s p) (ht : exec i s = .next t) : t.toPkg = p :=
  (congrArg State.toPkg (Host.Outcome.next.inj (hp.symm.trans ht))).symm

/-- Line 0 stands clean in the hall cache of its home with its low bit set, memory holds zeros, and every region is a bypass region. -/
def staleCopy : State :=
  { State.reset with
    chip := { (Chip.reset.setFld .PKG_RAT_CTL F.PKG_RAT_CTL_DEFAULT_POLICY 3).setBit
        (.HALL_FLIGHT_STATUS (Chip.reset.homeHall 0)) F.HALL_FLIGHT_STATUS_IN_SERVICE true with
      hc := [(0, some { data := 1, poison := false, dirty := false, way := 0 })] } }

/-- A write by an I/O agent of no byte of line 0. -/
def writeNone : Msg := { kind := .WR_PART, die := 12, rid := 0x5000 }

/-- A fetch of line 0 for the ownership cache of hall 0. -/
def fetchPot : Msg := { kind := .HALL_RD, die := 12, rid := 0x4000 }

theorem staleCopy_idle (m : Msg) (hdie : m.die = 12) (hline : m.line = 0) : staleCopy.toPkg.IdleHome m where
  line := by omega
  alive := by omega
  noTxn := rfl
  noQueue := rfl
  unchecked := by decide +kernel
  own := by rw [hline]; decide +kernel

/-- What memory holds as the statements read it: the cached copy. -/
theorem memRead_staleCopy : staleCopy.toPkg.memRead 0 = (1, false) := by decide +kernel

/-- What a fetch for an ownership cache delivers: the channel's zeros. -/
theorem potFetch_staleCopy : ((staleCopy.toPkg.onChip (fun c => c.arrive fetchPot)).potFetch 0 0).2 = (0, false) := by decide +kernel

/-- The write of no byte leaves the channel's zeros. -/
theorem writeNone_staleCopy :
    ((staleCopy.toPkg.ifArrives writeNone (fun q => q.arrive writeNone)).memRead 0).1 = 0 := by decide +kernel

/-- Refutes O31: a partial write merges with what the channel holds, not with the cached copy that memory reads as. -/
theorem not_homeIo : ¬ Obligations.HomeIo := by
  unfold Obligations.HomeIo
  intro h
  obtain ⟨t, ht, hread, -⟩ := (h.2.1 staleCopy writeNone rfl (staleCopy_idle _ rfl rfl) (by decide +kernel) (by decide)
    (by decide +kernel) (by decide +kernel) (by decide +kernel) (by decide +kernel)).2.1 rfl
  have hpkg : GivesPkg (.wrPart writeNone) staleCopy (staleCopy.toPkg.ifArrives writeNone (fun q => q.arrive writeNone)) :=
    givesPkg_of_onPkg (ok := writeNone.fits .WR_PART) (f := fun p => p.ifArrives writeNone (fun q => q.arrive writeNone)) rfl rfl rfl
  have hzero := writeNone_staleCopy
  rw [← toPkg_of_givesPkg hpkg ht, show (t.toPkg.memRead 0).1 = _ from congrArg Prod.fst hread] at hzero
  exact absurd hzero (by decide +kernel)

/-- Refutes O32: a HALL_RD of a bypassed line delivers what the channel holds, not the cached copy that memory reads as. -/
theorem not_homeWriteBack : ¬ Obligations.HomeWriteBack := by
  unfold Obligations.HomeWriteBack
  intro h
  obtain ⟨-, -, -, -, hread⟩ := h.2.2.2 staleCopy fetchPot rfl (by decide) (by decide) (by decide +kernel) (by decide)
  have hmem := hread (by decide +kernel) (by decide +kernel) (by decide +kernel)
  rw [show ridIndex fetchPot.rid = 0 from rfl, show fetchPot.line = 0 from rfl, potFetch_staleCopy, memRead_staleCopy] at hmem
  exact absurd (congrArg (fun x => x.1.toNat) hmem) (by decide +kernel)

end Sys2Proof.Machine
end

section
/-! Data reach a die that has a line still to drop (R333): the line leaves with the message, where the statement has the outstanding request
alone change. -/

namespace Sys2Proof.Machine

/-- Home data for line 0 reach die 0. -/
def dataMsg : Msg := { kind := .DATA, die := 0 }

/-- Die 0 has a request for line 0 outstanding, and line 5 to drop. -/
def dropDue : State :=
  { State.reset with chip := { Chip.reset with
      miss := [{ h := 0, req := { kind := .RD_OWN, die := 0 }, comp := none, data := none, fwd := none }], toDrop := [(0, 5)] } }

/-- The die drops line 5 once the message has reached it. -/
theorem dropDue_drops : (dropDue.chip.ifArrives dataMsg (fun x => x.dataArrive dataMsg)).toDrop = [] := by decide +kernel

theorem dropDue_arrive : (dropDue.chip.arrive dataMsg).toDrop = [(0, 5)] := by decide +kernel

/-- Refutes O35: DATA also makes its die drop what it has still to drop (R333). -/
theorem not_dieAnswers : ¬ Obligations.DieAnswers := by
  unfold Obligations.DieAnswers
  intro h
  have hsaid := (h.1 dropDue dataMsg _ (by decide) (by decide) (by decide +kernel) rfl rfl rfl rfl rfl).1 rfl
  have hdone : Gives (.data dataMsg) dropDue (dropDue.chip.ifArrives dataMsg (fun x => x.dataArrive dataMsg)) :=
    gives_of_onChip (i := .data dataMsg) (ok := true) rfl rfl rfl
  have hsame := congrArg (fun t => t.chip.toDrop) (Host.Outcome.next.inj (hdone.symm.trans hsaid))
  exact absurd ((dropDue_drops.symm.trans hsame).trans dropDue_arrive) (by decide)

end Sys2Proof.Machine
end

section
/-! A die is reset while STATE of one of its links reads 7, a value that JL_STATUS gives no meaning: the reset takes the links of states 1
to 4 down and leaves that one, where the statement has both links down. -/

namespace Sys2Proof.Machine

/-- A die that brings its IDENT and trains neither link. -/
def noTrain : DieStart :=
  let id : Ident := { link := 0, stepping := 0xB0, serial := 0, cap := 0xF, failMask := 0 }
  { trainA := false, trainB := false, identA := id, identB := id }

/-- Die 0 is quiesced, its rail 100 mV away from its set-point, and STATE of link 0 reads 7. -/
def oddLink : State :=
  { State.reset with
    chip := ((Chip.reset.setFld (.PKG_DIE_STATUS 0) F.PKG_DIE_STATUS_STATE 4).setFld (.JL_STATUS 0) F.JL_STATUS_STATE 7).onDie 0
      (fun x => { x with mv := 100 }) }

/-- A writer of world W1. -/
def sealer : Who := { rid := 0, world := 1 }

/-- The state of link 0 once the die is held in reset. -/
theorem oddLink_stays : (oddLink.chip.dieCmd sealer 0 [0, 4, 5, 6] (fun x => x.startDie 0 noTrain)).linkState 0 = 7 := by decide +kernel

/-- Refutes O39: the links of a die held in reset need not read as down. -/
theorem not_dieStartStop : ¬ Obligations.DieStartStop := by
  unfold Obligations.DieStartStop
  intro h
  obtain ⟨t, ht, -, -, hdown, -⟩ := (h.1.1 oddLink sealer 0 noTrain (by decide) (by decide +kernel) rfl).2.1
    (by decide +kernel) (by decide +kernel)
  have hdone : Gives (.dieReset sealer 0 noTrain) oddLink (oddLink.chip.dieCmd sealer 0 [0, 4, 5, 6] (fun x => x.startDie 0 noTrain)) :=
    gives_of_onChip (ok := dieOk 0 && dieStartOk noTrain) (f := fun c => c.dieCmd sealer 0 [0, 4, 5, 6] (fun x => x.startDie 0 noTrain))
      rfl (by decide +kernel) rfl
  have hsame := congrArg (fun u => u.chip.linkState 0) (Host.Outcome.next.inj (hdone.symm.trans ht))
  exact absurd ((oddLink_stays.symm.trans hsame).trans hdown) (by decide)

end Sys2Proof.Machine
end

section
/-! A channel returns to service in a package whose HALL_CAP_GIB reads 511, beyond the 256 GiB that reach the end of package DRAM's address
range: the poison it was filled with (R323) is kept for lines below 4 TiB alone, where the statement has every line below DRAM_TOP
poisoned. -/

namespace Sys2Proof.Machine

/-- The hall whose lines the first line beyond package DRAM's address range is among. -/
def beyondHall : Nat := (Chip.reset.setFld .PKG_ADDR_MAP F.PKG_ADDR_MAP_HALL_CAP_GIB 511).homeHall (2 ^ 36)

/-- HALL_CAP_GIB reads 511, and a RETURN runs in that hall. -/
def bigCap : State :=
  { State.reset with
    chip := (Chip.reset.setFld .PKG_ADDR_MAP F.PKG_ADDR_MAP_HALL_CAP_GIB 511).setBit (.HALL_DRAM_CTL beyondHall)
      F.HALL_DRAM_CTL_BUSY true }

/-- The line reads unpoisoned once the channel has returned. -/
theorem bigCap_clean : ((bigCap.toPkg.chanReturnDone beyondHall true).chanRead (2 ^ 36)).2 = false := by decide +kernel

/-- Refutes O43: RETURN need not leave every line below DRAM_TOP poisoned. -/
theorem not_hallFlights : ¬ Obligations.HallFlights := by
  unfold Obligations.HallFlights
  intro h
  obtain ⟨t, ht, -, hpoison⟩ := (h.2.2.2.2.2.2.2 bigCap beyondHall (by decide +kernel) (by decide +kernel)).1
  have hpkg : GivesPkg (.chanReturnDone beyondHall true) bigCap (bigCap.toPkg.chanReturnDone beyondHall true) :=
    givesPkg_of_onPkg (ok := hallOk beyondHall) (f := fun p => p.chanReturnDone beyondHall true) rfl (by decide +kernel) rfl
  have hall := hpoison (2 ^ 36) (by decide +kernel) (by decide +kernel)
  rw [toPkg_of_givesPkg hpkg ht, bigCap_clean] at hall
  exact absurd hall (by decide)

end Sys2Proof.Machine
end

section
/-! What the operations that many units share leave of the chip: events, faults, the life record, the digest and the state of the pair. -/

namespace Sys2Proof.Machine

-- loops

/-- What each step of a loop leaves, the loop leaves. -/
theorem foldl_same {α β γ : Type} {f : β → α → β} (g : β → γ) (hf : ∀ b a, g (f b a) = g b) (l : List α) (b : β) :
    g (l.foldl f b) = g b := by
  induction l generalizing b with
  | nil => rfl
  | cons a l ih => rw [List.foldl_cons, ih, hf]

theorem forUpTo_same_of_lt {β γ : Type} {f : Nat → β → β} (g : β → γ) (n : Nat) (hf : ∀ i, i < n → ∀ b, g (f i b) = g b) (b : β) :
    g (forUpTo n f b) = g b := by
  induction n with
  | zero => rfl
  | succ n ih => rw [forUpTo_succ, hf n (by omega), ih fun i hi => hf i (by omega)]

theorem forUpTo_same {β γ : Type} {f : Nat → β → β} (g : β → γ) (hf : ∀ i b, g (f i b) = g b) (n : Nat) (b : β) :
    g (forUpTo n f b) = g b := forUpTo_same_of_lt g n (fun i _ => hf i) b

-- registers

theorem Chip.reg_raiseEvent_ne (c : Chip) (n : Nat) {q : Reg} (h : q.offset ≠ (Reg.EVR_SRC n).offset) :
    (c.raiseEvent n).reg q = c.reg q := by
  rcases c.raiseEvent_cases n with e | e | e | e | e <;> rw [e]
  case inr.inr.inr.inr => exact c.reg_setBit_ne _ _ h
  all_goals rfl

theorem Chip.fld_raiseEvent_ne (c : Chip) (n : Nat) {q : Reg} (f : Field) (h : q.offset ≠ (Reg.EVR_SRC n).offset) :
    (c.raiseEvent n).fld q f = c.fld q f := Chip.fld_of_reg (c.reg_raiseEvent_ne n h) f

theorem Chip.bit_raiseEvent_ne (c : Chip) (n : Nat) {q : Reg} (f : Field) (h : q.offset ≠ (Reg.EVR_SRC n).offset) :
    (c.raiseEvent n).bit q f = c.bit q f := Chip.bit_of_reg (c.reg_raiseEvent_ne n h) f

@[simp] theorem Chip.hold_reg (c : Chip) (u : Nat) (r : Report) (q : Reg) : (c.hold u r).reg q = c.reg q := by rw [c.hold_frame]; rfl

@[simp] theorem Chip.report_bit (c : Chip) (u src rid w acc d a : Nat) (q : Reg) (f : Field) :
    (c.report u src rid w acc d a).bit q f = c.bit q f := Chip.bit_of_reg (c.report_reg ..) f

theorem Chip.reg_setCause_ne (c : Chip) (n : Nat) (b : Bool) {q : Reg} (h : q.offset ≠ (Reg.FC_SRC n).offset) :
    (c.setCause n b).reg q = c.reg q := c.reg_setBit_ne _ _ h

@[simp] theorem Chip.setCause_cause (c : Chip) (n : Nat) (b : Bool) : (c.setCause n b).bit (.FC_SRC n) F.FC_SRC_CAUSE = b :=
  c.bit_setBit _ _ _ (by decide) (by decide)

theorem Chip.reg_reportLevel_ne (c : Chip) (u src rid w acc d a : Nat) {q : Reg} (h : q.offset ≠ (Reg.FC_SRC src).offset) :
    (c.reportLevel u src rid w acc d a).reg q = c.reg q := by
  rw [Chip.reportLevel, Chip.report_reg, Chip.reg_setCause_ne _ _ _ h]

@[simp] theorem Chip.reportLevel_cause (c : Chip) (u src rid w acc d a : Nat) :
    (c.reportLevel u src rid w acc d a).bit (.FC_SRC src) F.FC_SRC_CAUSE = true := by simp [Chip.reportLevel]

-- the life record

theorem Chip.lifeWrite_frame (c : Chip) (t : Nat) (l : List Byte) : c.lifeWrite t l =
    { c with regs := (c.lifeWrite t l).regs, uz := (c.lifeWrite t l).uz, fcHold := (c.lifeWrite t l).fcHold
             fcLost := (c.lifeWrite t l).fcLost } := by
  unfold Chip.lifeWrite
  split
  · rfl
  · dsimp only
    split
    · split
      · rfl
      · rw [Chip.report_frame]
    · split
      · rfl
      · rw [Chip.report_frame]

theorem UzSt.setHalf_frame (u : UzSt) (h : Nat) (l : List JRec) :
    u.setHalf h l = { u with half0 := (u.setHalf h l).half0, half1 := (u.setHalf h l).half1 } := by
  unfold UzSt.setHalf
  split <;> rfl

/-- A record that is written changes the journal and what waits for it. -/
theorem Chip.lifeWrite_uz (c : Chip) (t : Nat) (l : List Byte) : (c.lifeWrite t l).uz =
    { c.uz with half0 := (c.lifeWrite t l).uz.half0, half1 := (c.lifeWrite t l).uz.half1, nextSeq := (c.lifeWrite t l).uz.nextSeq
                sram := (c.lifeWrite t l).uz.sram } := by
  unfold Chip.lifeWrite
  split
  · rfl
  · dsimp only
    split
    · split
      · rfl
      · rw [Chip.report_frame]
    · split
      · rw [Chip.setFld_uz, UzSt.setHalf_frame]
      · rw [Chip.report_frame]

theorem Chip.reg_lifeWrite_ne (c : Chip) (t : Nat) (l : List Byte) {q : Reg} (h : q.offset ≠ Reg.UZ_LR_STATUS.offset) :
    (c.lifeWrite t l).reg q = c.reg q := by
  unfold Chip.lifeWrite
  split
  · rfl
  · dsimp only
    split
    · split
      · rfl
      · rw [Chip.report_reg]
    · split
      · rw [Chip.reg_setFld_ne _ _ _ h]; rfl
      · rw [Chip.report_reg]

theorem Chip.pairSay_frame (c : Chip) (u : PairCfg) : c.pairSay u = { c with pair := { c.pair with said := (c.pairSay u).pair.said } } := by
  unfold Chip.pairSay
  split <;> rfl

@[simp] theorem Chip.pairSay_reg (c : Chip) (u : PairCfg) (q : Reg) : (c.pairSay u).reg q = c.reg q := by rw [c.pairSay_frame]; rfl

theorem Chip.saySummary_frame (c : Chip) : c.saySummary =
    { c with free := c.saySummary.free, pair := { c.pair with said := c.saySummary.pair.said } } := by
  unfold Chip.saySummary
  split
  · rfl
  · rw [Chip.pairSay_frame]; rfl

@[simp] theorem Chip.saySummary_reg (c : Chip) (q : Reg) : c.saySummary.reg q = c.reg q := by rw [c.saySummary_frame]; rfl

theorem Chip.faultRecord_frame (c : Chip) (r : Report) (sev cap : Nat) : c.faultRecord r sev cap =
    { c with regs := (c.faultRecord r sev cap).regs, uz := (c.faultRecord r sev cap).uz, fcHold := (c.faultRecord r sev cap).fcHold
             fcLost := (c.faultRecord r sev cap).fcLost, free := (c.faultRecord r sev cap).free
             pair := { c.pair with said := (c.faultRecord r sev cap).pair.said } } := by
  unfold Chip.faultRecord
  dsimp only
  split
  · rw [Chip.saySummary_frame, Chip.lifeWrite_frame]
  · rw [Chip.lifeWrite_frame]

theorem Chip.reg_faultRecord_ne (c : Chip) (r : Report) (sev cap : Nat) {q : Reg} (h : q.offset ≠ Reg.UZ_LR_STATUS.offset) :
    (c.faultRecord r sev cap).reg q = c.reg q := by
  unfold Chip.faultRecord
  dsimp only
  split
  · rw [Chip.saySummary_reg, Chip.reg_lifeWrite_ne _ _ _ h]
  · rw [Chip.reg_lifeWrite_ne _ _ _ h]

-- the digest of the settings

theorem Chip.rematch_frame (c : Chip) : c.rematch = { c with regs := c.rematch.regs, msi := c.rematch.msi, free := c.rematch.free
                                                             fcHold := c.rematch.fcHold, fcLost := c.rematch.fcLost } := by
  unfold Chip.rematch
  split
  · rfl
  · dsimp only
    split
    · split
      · rfl
      · rw [Chip.setCause, Chip.raiseEvent_frame]; rfl
    · split
      · split
        · rfl
        · rw [Chip.raiseEvent_frame]; rfl
      · rw [Chip.reportLevel_frame]
        split
        · rfl
        · rw [Chip.raiseEvent_frame]; rfl

theorem Chip.reg_rematch_ne (c : Chip) {q : Reg} (hp : q.offset ≠ Reg.PAIR_STATUS.offset) (he : q.offset ≠ (Reg.EVR_SRC 583).offset)
    (hf : q.offset ≠ (Reg.FC_SRC 39).offset) : c.rematch.reg q = c.reg q := by
  have hc1 : ∀ same : Bool, ((if same == c.bit .PAIR_STATUS F.PAIR_STATUS_CFG_MATCH then c
      else (c.setBit .PAIR_STATUS F.PAIR_STATUS_CFG_MATCH same).raiseEvent 583).reg q) = c.reg q := fun same => by
    split
    · rfl
    · rw [Chip.reg_raiseEvent_ne _ _ he, Chip.reg_setBit_ne _ _ _ hp]
  unfold Chip.rematch
  split
  · rfl
  · dsimp only
    split
    · rw [Chip.reg_setCause_ne _ _ _ hf, hc1]
    · split
      · rw [hc1]
      · rw [Chip.reg_reportLevel_ne (h := hf), hc1]

theorem Chip.newDigest_frame (c : Chip) : c.newDigest =
    { c with regs := c.newDigest.regs, msi := c.newDigest.msi, free := c.newDigest.free, fcHold := c.newDigest.fcHold
             fcLost := c.newDigest.fcLost
             pair := { c.pair with ownDigest := c.newDigest.pair.ownDigest, said := c.newDigest.pair.said } } := by
  unfold Chip.newDigest
  split
  · rfl
  · dsimp only
    rw [Chip.pairSay_frame, Chip.rematch_frame]

theorem Chip.reg_newDigest_ne (c : Chip) {q : Reg} (hp : q.offset ≠ Reg.PAIR_STATUS.offset) (he : q.offset ≠ (Reg.EVR_SRC 583).offset)
    (hf : q.offset ≠ (Reg.FC_SRC 39).offset) : c.newDigest.reg q = c.reg q := by
  unfold Chip.newDigest
  split
  · rfl
  · dsimp only
    rw [Chip.pairSay_reg, Chip.reg_rematch_ne _ hp he hf]
    rfl

end Sys2Proof.Machine
end

section
/-! The page ownership table: its commit and its format (R279), and the operations on its pages (R287 to R289). -/

namespace Sys2Proof.Machine

-- a table whose registers read alike

theorem Chip.wldCommitBad_congr {c d : Chip} (hctl : d.reg .WLD_CTL = c.reg .WLD_CTL)
    (h : ∀ q : Reg, q.offset ≠ Reg.WLD_CTL.offset → d.reg q = c.reg q) : d.wldCommitBad = c.wldCommitBad := by
  have htable : ∀ s, d.reg (.WLD_POT_TABLE s) = c.reg (.WLD_POT_TABLE s) := fun s => h _ (by simp only [Reg.offset]; omega)
  have hfirst : ∀ s, d.reg (.WLD_POT_FIRST s) = c.reg (.WLD_POT_FIRST s) := fun s => h _ (by simp only [Reg.offset]; omega)
  have hlast : ∀ s, d.reg (.WLD_POT_LAST s) = c.reg (.WLD_POT_LAST s) := fun s => h _ (by simp only [Reg.offset]; omega)
  have hown : ∀ s, d.reg (.WLD_INST_OWN s) = c.reg (.WLD_INST_OWN s) := fun s => h _ (by simp only [Reg.offset]; omega)
  have hcfg : ∀ s k, d.reg (.SE_INST_CFG s k) = c.reg (.SE_INST_CFG s k) := fun s k => h _ (by simp only [Reg.offset]; omega)
  have hmap : d.reg .PKG_ADDR_MAP = c.reg .PKG_ADDR_MAP := h _ (by decide)
  have hvalid : d.segValid = c.segValid := funext fun s => Chip.bit_of_reg (htable s) _
  simp only [Chip.wldCommitBad, hvalid, Chip.segFirst, Chip.segLast, Chip.segTable, Chip.segBytes, Chip.dramTop, Chip.capGib,
    Chip.wldCommitted, Chip.bit, Chip.fld, hctl, htable, hfirst, hlast, hown, hcfg, hmap]
  rfl

/-- A write that leaves each field as it stands. -/
theorem Chip.afterWrite_of_same (c : Chip) {r : Reg} {v : Word}
    (h : ∀ f ∈ r.fields, ∀ locked, f.write locked (c.reg r) v = c.reg r) : c.afterWrite r v = c.reg r := by
  unfold Chip.afterWrite
  generalize r.fields = fs at h
  induction fs with
  | nil => rfl
  | cons f fs ih =>
    rw [List.foldl_cons, h f List.mem_cons_self]
    exact ih fun g hg => h g (List.mem_cons_of_mem f hg)

-- the commit

/-- What WLD_COMMIT writes to WLD_CTL: the register as it reads, COMMIT set and COMMIT_ERR left alone. -/
def commitWord (w : Word) : Word := F.WLD_CTL_COMMIT.put (w &&& ~~~F.WLD_CTL_COMMIT_ERR.mask) 1

theorem get_commitWord (w : Word) : F.WLD_CTL_COMMIT.get (commitWord w) = 1 := by
  rw [commitWord, Field.get_put _ _ _ (by decide) (by decide)]
  rfl

/-- A field put back as it stands. -/
theorem Field.put_same (f : Field) (w : Word) {n : Nat} (h : f.hi < 64) (h' : f.lo ≤ f.hi) (hn : n = f.get w) : f.put w n = w := by
  refine BitVec.eq_of_getLsbD_eq fun i hi => ?_
  rw [f.put_getLsbD w n h h' i hi, hn]
  split
  next hin =>
    have hw : i - f.lo < f.width := by simp only [Field.width]; omega
    rw [Field.get_testBit, Nat.add_sub_cancel' hin.1, decide_eq_true hw, Bool.true_and]
  next => rfl

/-- A write of 0 to a field that a 1 clears. -/
theorem Field.write_w1c_zero {f : Field} (locked : Bool) (old : Word) {v : Word} (hacc : f.acc = .w1c) (h : f.hi < 64) (h' : f.lo ≤ f.hi)
    (hv : f.get v = 0) : f.write locked old v = old := by
  simp only [Field.write, hacc]
  refine BitVec.eq_of_getLsbD_eq fun i hi => ?_
  rw [BitVec.getLsbD_and, BitVec.getLsbD_not, BitVec.getLsbD_and, f.mask_getLsbD h h' i]
  by_cases hin : f.lo ≤ i ∧ i ≤ f.hi
  · have hbit := f.get_testBit v (i - f.lo)
    rw [hv, Nat.zero_testBit, Nat.add_sub_cancel' hin.1] at hbit
    have hw : i - f.lo < f.width := by simp only [Field.width]; omega
    have hv0 : v.getLsbD i = false := by simpa [hw] using hbit.symm
    simp only [hv0, hi, Bool.false_and, Bool.not_false, decide_true, Bool.and_true]
  · have hout : (decide (f.lo ≤ i) && decide (i ≤ f.hi)) = false := by simpa using hin
    simp only [hout, hi, Bool.and_false, Bool.not_false, decide_true, Bool.and_true]

theorem get_commitErr_commitWord (w : Word) : F.WLD_CTL_COMMIT_ERR.get (commitWord w) = 0 := by
  rw [commitWord, Field.get_put_apart (by decide)]
  refine Nat.eq_of_testBit_eq fun i => ?_
  rw [Field.get_testBit, BitVec.getLsbD_and, BitVec.getLsbD_not, Field.mask_getLsbD _ (by decide) (by decide)]
  by_cases hi : i < F.WLD_CTL_COMMIT_ERR.width
  · have hi0 : i = 0 := by simpa [Field.width, F.WLD_CTL_COMMIT_ERR] using hi
    simp [hi0, F.WLD_CTL_COMMIT_ERR]
  · simp [hi]

theorem get_scrubInst_commitWord (w : Word) : F.WLD_CTL_SCRUB_INST.get (commitWord w) = F.WLD_CTL_SCRUB_INST.get w := by
  rw [commitWord, Field.get_put_apart (by decide)]
  refine Nat.eq_of_testBit_eq fun i => ?_
  rw [Field.get_testBit, Field.get_testBit, BitVec.getLsbD_and, BitVec.getLsbD_not, Field.mask_getLsbD _ (by decide) (by decide)]
  by_cases hi : i < F.WLD_CTL_SCRUB_INST.width
  · have hlt : i < 10 := hi
    have hin : F.WLD_CTL_SCRUB_INST.lo + i < 64 := by simp only [F.WLD_CTL_SCRUB_INST]; omega
    have hout : ¬F.WLD_CTL_SCRUB_INST.lo + i ≤ F.WLD_CTL_COMMIT_ERR.hi := by simp only [F.WLD_CTL_SCRUB_INST, F.WLD_CTL_COMMIT_ERR]; omega
    simp [hin, hout]
  · simp [hi]

theorem write_commitWord (w : Word) : ∀ f ∈ Reg.WLD_CTL.fields, ∀ locked, f.write locked w (commitWord w) = w := by
  simp only [Reg.fields, List.forall_mem_cons, List.not_mem_nil, false_imp_iff, implies_true, and_true]
  refine ⟨fun _ => rfl, fun _ => rfl, fun _ => rfl, fun locked => ?_, fun locked => ?_⟩
  · exact Field.write_w1c_zero locked w rfl (by decide) (by decide) (get_commitErr_commitWord w)
  · have hput : F.WLD_CTL_SCRUB_INST.put w (F.WLD_CTL_SCRUB_INST.get (commitWord w)) = w :=
      Field.put_same _ w (by decide) (by decide) (get_scrubInst_commitWord w)
    cases locked
    · exact hput
    · rfl

/-- The write of WLD_COMMIT stores nothing. -/
theorem Chip.storeFields_commitWord (c : Chip) :
    c.storeFields .WLD_CTL (commitWord (c.reg .WLD_CTL)) = c.setReg .WLD_CTL (c.reg .WLD_CTL) := by
  rw [Chip.storeFields, c.afterWrite_of_same (write_commitWord _)]

theorem Chip.wldCtlWrite_commit {c : Chip} {who : Who} (hw : who.sealed = true) :
    c.wldCtlWrite who (commitWord (c.reg .WLD_CTL)) = (c.setReg .WLD_CTL (c.reg .WLD_CTL)).wldCommit := by
  rw [Chip.wldCtlWrite, if_pos (get_commitWord _), Chip.ifMay_of_true _ _ _ _ hw, Chip.storeFields_commitWord]

theorem Chip.wldCommitBad_setReg_same (c : Chip) : (c.setReg .WLD_CTL (c.reg .WLD_CTL)).wldCommitBad = c.wldCommitBad :=
  Chip.wldCommitBad_congr (c.reg_setReg _ _) fun _ h => c.reg_setReg_ne _ h

theorem wldCommit_accepted (s : State) (who : Who) (hw : who.sealed = true) (hbad : s.chip.wldCommitBad = false) :
    ∃ t, exec (.wldCommit who) s = .next t ∧ t.chip.bit .WLD_CTL F.WLD_CTL_FORMAT_BUSY = true ∧ t.chip.wldCommitted = false := by
  have hdone : s.chip.wldCommitted = false := by
    simp only [Chip.wldCommitBad, Bool.or_eq_false_iff] at hbad
    exact hbad.2
  refine ⟨_, gives_of_onChip (ok := true) rfl rfl (Chip.wldCtlWrite_commit hw), ?_⟩
  dsimp only
  rw [Chip.wldCommit, Chip.wldCommitBad_setReg_same, hbad, if_neg Bool.false_ne_true]
  refine ⟨Chip.bit_setBit _ _ _ _ (by decide) (by decide), ?_⟩
  rw [Chip.wldCommitted, Chip.bit_setBit_apart _ _ _ (by decide), Chip.bit_of_reg (Chip.reg_setReg _ _ _)]
  exact hdone

theorem wldCommit_refused (s : State) (who : Who) (hw : who.sealed = true) (hbad : s.chip.wldCommitBad = true) :
    ∃ t, exec (.wldCommit who) s = .next t ∧ t.chip.bit .WLD_CTL F.WLD_CTL_COMMIT_ERR = true
      ∧ t.chip.wldCommitted = s.chip.wldCommitted := by
  refine ⟨_, gives_of_onChip (ok := true) rfl rfl (Chip.wldCtlWrite_commit hw), ?_⟩
  dsimp only
  rw [Chip.wldCommit, Chip.wldCommitBad_setReg_same, if_pos hbad]
  refine ⟨Chip.bit_setBit _ _ _ _ (by decide) (by decide), ?_⟩
  rw [Chip.wldCommitted, Chip.bit_setBit_apart _ _ _ (by decide), Chip.bit_of_reg (Chip.reg_setReg _ _ _)]
  rfl

theorem wldCommit_violates (s : State) (who : Who) (hw : who.sealed = false) :
    Gives (.wldCommit who) s (s.chip.refuseWrite who .WLD_CTL) := by
  refine gives_of_onChip (ok := true) rfl rfl ?_
  exact (if_pos (get_commitWord _)).trans (Chip.ifMay_of_false _ _ _ _ hw)

-- the format

theorem wldFormatDone_done (s : State) (hbusy : s.chip.bit .WLD_CTL F.WLD_CTL_FORMAT_BUSY = true) (hgo : s.chip.scrubGo = true) :
    ∃ t, exec .wldFormatDone s = .next t ∧ t.chip.wldCommitted = true ∧ t.chip.bit .WLD_CTL F.WLD_CTL_FORMAT_BUSY = false
      ∧ t.chip.ownc = [] := by
  refine ⟨_, givesPkg_of_onPkg (ok := true) rfl rfl rfl, ?_⟩
  simp only [Pkg.formatDone, hgo, hbusy, Bool.not_true, Bool.false_eq_true, if_false, if_true, Pkg.onChip_chip]
  generalize (forUpTo 4 (fun s q => q.formatOwn s) (forUpTo 4 (fun s q => q.formatSegment s) s.toPkg)).chip = c
  refine ⟨?_, ?_, ?_⟩
  · rw [Chip.wldCommitted, Chip.bit_of_reg (Chip.reg_newDigest_ne _ (by decide) (by decide) (by decide)),
      Chip.bit_setBit _ _ _ _ (by decide) (by decide)]
  · rw [Chip.bit_of_reg (Chip.reg_newDigest_ne _ (by decide) (by decide) (by decide)), Chip.bit_setBit_apart _ _ _ (by decide),
      Chip.bit_setBit _ _ _ _ (by decide) (by decide)]
  · rw [Chip.newDigest_frame]; rfl

theorem wldFormatDone_waits (s : State) (hgo : s.chip.scrubGo = false) :
    Gives .wldFormatDone s (s.chip.noteShort s.chip.scrubRid s.chip.scrubLabel) := by
  refine gives_of_onPkg (ok := true) rfl rfl ?_
  simp only [Pkg.formatDone, hgo, Bool.not_false, if_true]
  rfl

-- a write to WLD_POT_OP

/-- An operation is under way: WLD_POT_OP has been written, BUSY is set and RESULT is 0. -/
def Chip.potMarked (c : Chip) (v : Word) : Chip :=
  ((c.storeFields .WLD_POT_OP v).setBit .WLD_POT_STATUS F.WLD_POT_STATUS_BUSY true).setFld .WLD_POT_STATUS F.WLD_POT_STATUS_RESULT 0

theorem Chip.reg_potMarked_ne (c : Chip) (v : Word) {q : Reg} (hop : q.offset ≠ Reg.WLD_POT_OP.offset)
    (hst : q.offset ≠ Reg.WLD_POT_STATUS.offset) : (c.potMarked v).reg q = c.reg q := by
  rw [Chip.potMarked, Chip.reg_setFld_ne _ _ _ hst, Chip.reg_setBit_ne _ _ _ hst, Chip.reg_storeFields_ne _ _ hop]

theorem Chip.scrubRid_potMarked (c : Chip) (v : Word) : (c.potMarked v).scrubRid = c.scrubRid := by
  rw [Chip.scrubRid, Chip.scrubRid, Chip.fld_of_reg (c.reg_potMarked_ne v (by decide) (by decide))]

theorem Chip.scrubLabel_potMarked (c : Chip) (v : Word) : (c.potMarked v).scrubLabel = c.scrubLabel := by
  simp only [Chip.scrubLabel, Chip.fld_of_reg (c.reg_potMarked_ne v (q := .WLD_CTL) (by decide) (by decide))]
  exact Chip.fld_of_reg (c.reg_potMarked_ne v (by simp only [Reg.offset]; omega) (by simp only [Reg.offset]; omega)) _

theorem Chip.scrubGo_potMarked (c : Chip) (v : Word) : (c.potMarked v).scrubGo = c.scrubGo := by
  rw [Chip.scrubGo, Chip.scrubGo, c.scrubRid_potMarked, c.scrubLabel_potMarked]
  rfl

theorem Chip.potHeld_potMarked (c : Chip) (v : Word) : (c.potMarked v).potHeld = c.potHeld := by
  rw [Chip.potHeld, Chip.potHeld, c.scrubGo_potMarked, Chip.safe, Chip.safe,
    Chip.bit_of_reg (c.reg_potMarked_ne v (by decide) (by decide)), Chip.bit_of_reg (c.reg_potMarked_ne v (by decide) (by decide))]

theorem Chip.homeHall_potMarked (c : Chip) (v : Word) (line : Nat) : (c.potMarked v).homeHall line = c.homeHall line :=
  Chip.homeHall_congr (c.reg_potMarked_ne v (by decide) (by decide))
    (fun q hq => c.reg_potMarked_ne v (fun h => absurd (h ▸ hq) (by decide)) (fun h => absurd (h ▸ hq) (by decide))) rfl line

theorem Chip.pageDown_potMarked (c : Chip) (v : Word) : (c.potMarked v).pageDown = c.pageDown := funext fun pg => by
  simp only [Chip.pageDown, c.homeHall_potMarked]
  rfl

/-- The operation that a write to WLD_POT_OP asks for. -/
def Chip.potOpOf (c : Chip) (v : Word) : PotOp :=
  { op := F.WLD_POT_OP_OP.get v, page := c.fld .WLD_POT_OP_PAGE F.WLD_POT_OP_PAGE_PAGE, count := F.WLD_POT_OP_COUNT_M1.get v + 1
    dst := F.WLD_POT_OP_TO.get v, started := false }

/-- The seven operations on the table, each with the number that names it in WLD_POT_OP. -/
def potCommands (who : Who) (v : Word) : List (Instr × Nat) :=
  [(.transit who v, 1), (.scrub who v, 2), (.transfer who v, 3), (.unassign who v, 4), (.assign who v, 5), (.share who v, 6),
    (.unshare who v, 7)]

/-- A command of the table writes WLD_POT_OP. -/
theorem exec_potCommands {who : Who} {v : Word} {r : Instr × Nat} (hr : r ∈ potCommands who v) (hop : F.WLD_POT_OP_OP.get v = r.2)
    (s : State) : exec r.1 s = s.onPkg (fun p => p.potOpWrite who v) ∧ F.WLD_POT_OP_OP.get v ≠ 0 := by
  have hneed : need (potOpIs v r.2) (s.onPkg (fun p => p.potOpWrite who v)) = s.onPkg (fun p => p.potOpWrite who v) := by
    rw [potOpIs, hop, beq_self_eq_true, need_true]
  simp only [potCommands, List.mem_cons, List.not_mem_nil, or_false] at hr
  rcases hr with rfl | rfl | rfl | rfl | rfl | rfl | rfl <;> exact ⟨hneed, hop.trans_ne (by simp)⟩

theorem Pkg.potOpWrite_violates {p : Pkg} {who : Who} (v : Word) (hw : who.sealed = false) :
    p.potOpWrite who v = { p with chip := p.chip.refuseWrite who .WLD_POT_OP } := by
  simp only [Pkg.potOpWrite, hw, Bool.not_false, if_true]

section
variable {p : Pkg} {who : Who} {v : Word} (hop : F.WLD_POT_OP_OP.get v ≠ 0)
include hop

theorem Pkg.potOpWrite_busy (hw : who.sealed = true) (hb : p.chip.bit .WLD_POT_STATUS F.WLD_POT_STATUS_BUSY = true) :
    p.potOpWrite who v = { p with chip := p.chip.setFld .WLD_POT_STATUS F.WLD_POT_STATUS_RESULT 5 } := by
  simp only [Pkg.potOpWrite, hw, hb, Bool.not_true, Bool.false_eq_true, if_false, hop, ne_eq, not_false_eq_true, and_self, if_true]

theorem Pkg.potOpWrite_idle (hw : who.sealed = true) (hb : p.chip.bit .WLD_POT_STATUS F.WLD_POT_STATUS_BUSY = false) :
    p.potOpWrite who v = if !p.chip.wldCommitted then { p with chip := (p.chip.storeFields .WLD_POT_OP v).potEnd 7 }
      else if (F.WLD_POT_OP_OP.get v = 3 ∨ F.WLD_POT_OP_OP.get v = 5) ∧ F.WLD_POT_OP_TO.get v = 2 then
        { p with chip := (p.chip.storeFields .WLD_POT_OP v).potEnd 6 }
      else ({ p with chip := p.chip.potMarked v } : Pkg).potBegin (p.chip.potOpOf v) := by
  simp only [Pkg.potOpWrite, hw, hb, hop, Bool.not_true, Bool.false_eq_true, if_false, and_false]
  rfl

end

theorem Pkg.potBegin_down {p : Pkg} {o : PotOp} (hd : o.pages.any p.chip.pageDown = true) :
    p.potBegin o = p.onChip (fun c => c.potEnd 4) := if_pos hd

theorem Pkg.potBegin_held {p : Pkg} {o : PotOp} (hd : o.pages.any p.chip.pageDown = false) (hh : p.chip.potHeld = true) :
    p.potBegin o = p.onChip (fun c => { c.noteShort c.scrubRid c.scrubLabel with pot := some o }) := by
  rw [Pkg.potBegin, if_neg (by simp [hd]), if_pos hh]

theorem Pkg.potBegin_failed {p : Pkg} {o : PotOp} {pg : Nat} (hd : o.pages.any p.chip.pageDown = false) (hh : p.chip.potHeld = false)
    (hfind : o.pages.find? (fun x => p.potFail o.op x != 0) = some pg) :
    p.potBegin o = p.onChip (fun c => (c.setFld .WLD_POT_STATUS F.WLD_POT_STATUS_FAIL_PAGE pg).potEnd (p.potFail o.op pg)) := by
  rw [Pkg.potBegin, if_neg (by simp [hd]), if_neg (by simp [hh]), hfind]

theorem Pkg.potBegin_started {p : Pkg} {o : PotOp} (hd : o.pages.any p.chip.pageDown = false) (hh : p.chip.potHeld = false)
    (hall : ∀ pg ∈ o.pages, p.potFail o.op pg = 0) :
    p.potBegin o = (o.pages.foldl (fun q pg => q.potStep2 o pg) p).onChip (fun c => { c with pot := some { o with started := true } }) := by
  have hfind : o.pages.find? (fun pg => p.potFail o.op pg != 0) = none := List.find?_eq_none.2 fun pg hpg => by simpa using hall pg hpg
  rw [Pkg.potBegin, if_neg (by simp [hd]), if_neg (by simp [hh]), hfind]

section
variable {s : State} {who : Who} {v : Word} {i : Instr} (hexec : exec i s = s.onPkg (fun p => p.potOpWrite who v))
  (hne : F.WLD_POT_OP_OP.get v ≠ 0)
include hexec

theorem givesPkg_of_potOpWrite {q : Pkg} (hq : s.toPkg.potOpWrite who v = q) : GivesPkg i s q := by
  rw [GivesPkg, hexec, State.onPkg, hq]

include hne
variable (hw : who.sealed = true) (hb : s.chip.bit .WLD_POT_STATUS F.WLD_POT_STATUS_BUSY = false)
include hw hb

theorem pot_uncommitted (hcom : s.chip.wldCommitted = false) : Gives i s ((s.chip.storeFields .WLD_POT_OP v).potEnd 7) := by
  refine givesPkg_of_potOpWrite hexec ?_
  rw [Pkg.potOpWrite_idle hne hw hb, hcom]
  rfl

variable (hcom : s.chip.wldCommitted = true)
include hcom

theorem pot_toUzomuris (hto : (F.WLD_POT_OP_OP.get v = 3 ∨ F.WLD_POT_OP_OP.get v = 5) ∧ F.WLD_POT_OP_TO.get v = 2) :
    Gives i s ((s.chip.storeFields .WLD_POT_OP v).potEnd 6) := by
  refine givesPkg_of_potOpWrite hexec ?_
  rw [Pkg.potOpWrite_idle hne hw hb, hcom]
  exact if_pos hto

variable (hto : ¬((F.WLD_POT_OP_OP.get v = 3 ∨ F.WLD_POT_OP_OP.get v = 5) ∧ F.WLD_POT_OP_TO.get v = 2))
include hto

theorem pot_begins {q : Pkg} (hq : ({ s.toPkg with chip := s.chip.potMarked v } : Pkg).potBegin (s.chip.potOpOf v) = q) : GivesPkg i s q := by
  refine givesPkg_of_potOpWrite hexec ?_
  rw [Pkg.potOpWrite_idle hne hw hb, hcom, ← hq]
  exact if_neg hto

theorem pot_down (hd : (s.chip.potOpOf v).pages.any s.chip.pageDown = true) : Gives i s ((s.chip.potMarked v).potEnd 4) := by
  rw [← s.chip.pageDown_potMarked v] at hd
  exact pot_begins hexec hne hw hb hcom hto (Pkg.potBegin_down hd)

variable (hd : (s.chip.potOpOf v).pages.any s.chip.pageDown = false)
include hd

theorem pot_held (hh : s.chip.potHeld = true) :
    Gives i s { (s.chip.potMarked v).noteShort s.chip.scrubRid s.chip.scrubLabel with pot := some (s.chip.potOpOf v) } := by
  rw [← s.chip.pageDown_potMarked v] at hd
  rw [← s.chip.potHeld_potMarked v] at hh
  rw [← s.chip.scrubRid_potMarked v, ← s.chip.scrubLabel_potMarked v]
  exact pot_begins hexec hne hw hb hcom hto (Pkg.potBegin_held hd hh)

variable (hh : s.chip.potHeld = false)
include hh

theorem pot_started {p : Pkg} (hp : { s.toPkg with chip := s.chip.potMarked v } = p)
    (hall : ∀ pg ∈ (s.chip.potOpOf v).pages, p.potFail (s.chip.potOpOf v).op pg = 0) :
    GivesPkg i s (((s.chip.potOpOf v).pages.foldl (fun (q : Pkg) pg => q.potStep2 (s.chip.potOpOf v) pg) p).onChip (fun x =>
      { x with pot := some { s.chip.potOpOf v with started := true } })) := by
  rw [← s.chip.pageDown_potMarked v] at hd
  rw [← s.chip.potHeld_potMarked v] at hh
  subst hp
  exact pot_begins hexec hne hw hb hcom hto (Pkg.potBegin_started hd hh hall)

theorem pot_failed {p : Pkg} (hp : { s.toPkg with chip := s.chip.potMarked v } = p) {pg : Nat}
    (hfind : (s.chip.potOpOf v).pages.find? (fun x => p.potFail (s.chip.potOpOf v).op x != 0) = some pg) :
    GivesPkg i s (p.onChip (fun x => (x.setFld .WLD_POT_STATUS F.WLD_POT_STATUS_FAIL_PAGE pg).potEnd
      (p.potFail (s.chip.potOpOf v).op pg))) := by
  rw [← s.chip.pageDown_potMarked v] at hd
  rw [← s.chip.potHeld_potMarked v] at hh
  subst hp
  exact pot_begins hexec hne hw hb hcom hto (Pkg.potBegin_failed hd hh hfind)

end

-- the entry an operation leaves, and its end

theorem potAfter_entry (e dst : Nat) (_ : dst < 16) :
    (∀ op, op = 3 ∨ op = 5 → potAfter op dst e = potEntry dst 1 false)
    ∧ potState (potAfter 1 dst e) = 3 ∧ potScrubbed (potAfter 1 dst e) = false ∧ potScrubbed (potAfter 2 dst e) = true
    ∧ potState (potAfter 2 dst e) = potState e ∧ potAfter 4 dst e = potEntry 0 0 true ∧ potState (potAfter 6 dst e) = 2
    ∧ potState (potAfter 7 dst e) = 1 ∧ ∀ op, op = 1 ∨ op = 2 ∨ op = 6 ∨ op = 7 → potOwner (potAfter op dst e) = potOwner e := by
  have hstate : ∀ (w st : Nat) (b : Bool), w < 16 → st < 4 → potState (potEntry w st b) = st := fun w st b hw hst => by
    cases b <;> simp only [potState, potEntry, flag] <;> omega
  have howner : ∀ (w st : Nat) (b : Bool), w < 16 → potOwner (potEntry w st b) = w := fun w st b hw => by
    cases b <;> simp only [potOwner, potEntry, flag] <;> omega
  have hscrub : ∀ (w st : Nat) (b : Bool), w < 16 → st < 4 → potScrubbed (potEntry w st b) = b := fun w st b hw hst => by
    have hdiv : (w + 16 * st + 64 * flag b) / 2 ^ 6 = flag b := by cases b <;> simp only [flag] <;> omega
    rw [potScrubbed, bitAt, potEntry, Nat.testBit_eq_decide_div_mod_eq, hdiv]
    cases b <;> rfl
  have hw : potOwner e < 16 := Nat.mod_lt _ (by decide)
  have hst : potState e < 4 := Nat.mod_lt _ (by decide)
  refine ⟨?_, hstate _ _ _ hw (by decide), hscrub _ _ _ hw (by decide), hscrub _ _ _ hw hst, hstate _ _ _ hw hst, rfl,
    hstate _ _ _ hw (by decide), hstate _ _ _ hw (by decide), ?_⟩
  · rintro op (rfl | rfl) <;> rfl
  · rintro op (rfl | rfl | rfl | rfl) <;> exact howner _ _ _ hw

theorem Chip.potEnd_fields (c : Chip) (n : Nat) (hn : n < 8) : (c.potEnd n).bit .WLD_POT_STATUS F.WLD_POT_STATUS_BUSY = false
    ∧ (c.potEnd n).bit .WLD_POT_STATUS F.WLD_POT_STATUS_DONE = true ∧ (c.potEnd n).fld .WLD_POT_STATUS F.WLD_POT_STATUS_RESULT = n := by
  unfold Chip.potEnd
  refine ⟨?_, Chip.bit_setBit _ _ _ _ (by decide) (by decide), ?_⟩
  · rw [Chip.bit_setBit_apart _ _ _ (by decide), Chip.bit_setFld_apart _ _ _ (by decide), Chip.bit_setBit _ _ _ _ (by decide) (by decide)]
  · rw [Chip.fld_setBit_apart _ _ _ (by decide), Chip.fld_setFld_of_lt _ _ _ (by decide) (by decide) hn]

theorem potOpDone_done (s : State) (o : PotOp) (hpot : s.chip.pot = some o) (hst : o.started = true)
    (hscrub : o.op = 2 → s.chip.safe = false ∧ s.chip.scrubGo = true)
    (hidle : ∀ pg ∈ o.pages, ∀ l ∈ pageLines pg, s.chip.lineIdle l = true) :
    GivesPkg .potOpDone s ((o.pages.foldl (fun q pg => (pageLines pg).foldl (fun r l => r.potCache o.op l) q) s.toPkg).onChip (fun c =>
      c.potEnd 1)) := by
  refine givesPkg_of_onPkg (ok := true) rfl rfl ?_
  have hall : o.pages.all (fun pg => (pageLines pg).all s.chip.lineIdle) = true := by simpa using hidle
  have hgo : ¬(o.op = 2 ∧ (!s.chip.scrubGo) = true) := fun h => by simp [(hscrub h.1).2] at h
  have hsafe : (s.chip.safe && o.op == 2) = false := by
    by_cases h2 : o.op = 2
    · simp [(hscrub h2).1]
    · simp [h2]
  rw [Pkg.potDone, hpot]
  dsimp only
  rw [if_neg (by simp [hst]), if_neg hgo, if_pos (by simp [hall, hsafe])]

-- a query

theorem Line.slice_lt (l : Line) (k n : Nat) : Line.slice l k n < 2 ^ (8 * n) := Nat.mod_lt _ (by positivity)

theorem Pkg.potEntryOf_lt (p : Pkg) (pg : Nat) : (p.potEntryOf pg).getD 0 < 2 ^ 16 := by
  unfold Pkg.potEntryOf
  split
  · decide
  · dsimp only
    split
    · decide
    · exact Line.slice_lt _ _ _

theorem potQuery_done (s : State) (who : Who) (v : Word) (hw : who.sealed = true) : let pg := F.WLD_POT_QUERY_PAGE.get v
    ∃ t, exec (.potQuery who v) s = .next t ∧ t.dram = s.dram
      ∧ t.chip.fld .WLD_POT_QUERY F.WLD_POT_QUERY_ENTRY = (s.toPkg.potEntryOf pg).getD 0
      ∧ t.chip.bit .WLD_POT_QUERY F.WLD_POT_QUERY_COVERED = (s.chip.potSegment pg).isSome
      ∧ t.chip.bit .WLD_POT_QUERY F.WLD_POT_QUERY_UNREADABLE = (s.toPkg.potEntryOf pg).isNone := by
  intro pg
  refine ⟨_, givesPkg_of_onPkg (ok := true) rfl rfl rfl, rfl, ?_⟩
  simp only [Pkg.potQuery, Pkg.onChip_chip, Chip.ifMay_of_true _ _ _ _ hw]
  refine ⟨?_, ?_, Chip.bit_setBit _ _ _ _ (by decide) (by decide)⟩
  · rw [Chip.fld_setBit_apart _ _ _ (by decide), Chip.fld_setBit_apart _ _ _ (by decide),
      Chip.fld_setFld_of_lt _ _ _ (by decide) (by decide) (s.toPkg.potEntryOf_lt pg)]
  · rw [Chip.bit_setBit_apart _ _ _ (by decide), Chip.bit_setBit _ _ _ _ (by decide) (by decide)]

theorem potQuery_violates (s : State) (who : Who) (v : Word) (hw : who.sealed = false) :
    Gives (.potQuery who v) s (s.chip.refuseWrite who .WLD_POT_QUERY) := by
  refine gives_of_onPkg (ok := true) rfl rfl ?_
  rw [Pkg.potQuery, Pkg.onChip, Chip.ifMay_of_false _ _ _ _ hw]

/-- Settles O45: each part of R279 and R287 to R289 by its own lemma above. -/
theorem pageOwnership : Obligations.PageOwnership := by
  unfold Obligations.PageOwnership
  refine ⟨fun s who => ⟨wldCommit_accepted s who, wldCommit_refused s who, wldCommit_violates s who⟩,
    fun s => ⟨wldFormatDone_done s, wldFormatDone_waits s⟩, fun s who v r hr hop => ?_, fun e dst => potAfter_entry e dst,
    potOpDone_done, Chip.potEnd_fields, fun s who v => ⟨potQuery_done s who v, potQuery_violates s who v⟩⟩
  obtain ⟨hexec, hne⟩ := exec_potCommands hr hop s
  rw [← hop]
  refine ⟨fun ⟨hw, hb, hc, ht⟩ => pot_down hexec hne hw hb hc ht, fun ⟨hw, hb, hc, ht⟩ hd => pot_held hexec hne hw hb hc ht hd,
    fun hw => givesPkg_of_potOpWrite hexec (Pkg.potOpWrite_violates v hw),
    fun hw hb => givesPkg_of_potOpWrite hexec (Pkg.potOpWrite_busy hne hw hb), fun hw hb => pot_uncommitted hexec hne hw hb,
    fun hw hb hc h35 h2 => pot_toUzomuris hexec hne hw hb hc ⟨h35, h2⟩,
    fun ⟨hw, hb, hc, ht⟩ hh hd => pot_started hexec hne hw hb hc ht hd hh rfl,
    fun pg ⟨hw, hb, hc, ht⟩ hh hd => pot_failed hexec hne hw hb hc ht hd hh rfl⟩

end Sys2Proof.Machine
end

section
/-! Packets of the gallery, its fences and its reconfiguration (R206 to R224). -/

namespace Sys2Proof.Machine

-- what the steps of a packet leave alone

theorem Chip.taken_regs (c : Chip) (r port : Nat) (p : Packet) : (c.taken r port p).regs = c.regs := by
  unfold Chip.taken
  split <;> rfl

theorem Chip.served_frame (c : Chip) (r out plane vc port : Nat) : c.served r out plane vc port = { c with gal := { c.gal with
    passed := (c.served r out plane vc port).gal.passed, lastIn := (c.served r out plane vc port).gal.lastIn } } := by
  have hfold : ∀ (l : List Nat) (f : Chip → Nat → Chip)
      (_ : ∀ x v, f x v = { x with gal := { x.gal with passed := (f x v).gal.passed } }) (x : Chip),
      l.foldl f x = { x with gal := { x.gal with passed := (l.foldl f x).gal.passed } } := fun l f hf => by
    induction l with
    | nil => exact fun x => rfl
    | cons a l ih =>
      intro x
      rw [List.foldl_cons, ih, hf x a]
  unfold Chip.served
  dsimp only
  rw [hfold (f := _)]
  intro x v
  split
  · rfl
  · split <;> rfl

theorem Chip.probe_of_off {c : Chip} {r : Nat} (h : c.bit (.GAL_PRB_CTL r) F.GAL_PRB_CTL_EN = false) (port vc : Nat) (p : Packet) :
    c.probe r port vc p = c := by
  simp [Chip.probe, Chip.probeMatch, h]

theorem Pkg.next_of_idle {p : Pkg} (h : p.chip.homeQ = []) : p.next = p := by rw [Pkg.next, h]; rfl

theorem Chip.undeliverable_homeQ (c : Chip) (r : Nat) (p : Packet) (n : Nat) : (c.undeliverable r p n).homeQ = c.homeQ := by
  unfold Chip.undeliverable
  dsimp only
  split
  · rw [Chip.send_homeQ, Chip.report_frame]; rfl
  · rw [Chip.report_frame]; rfl

/-- A packet that its link brings whole, of its plane and unseen by a probe, enters the buffer of its VC. -/
theorem Chip.enterRouter_of_good {c : Chip} {r port plane vc : Nat} {p : Packet} {head data : UnitError} (hhead : head ≠ .uncorrectable)
    (hplane : cmdPlane p.cmd = plane) (hen : c.bit (.GAL_PRB_CTL r) F.GAL_PRB_CTL_EN = false) :
    let d := if p.units = 2 then data else .none
    c.enterRouter r port plane vc p head data = ((c.bump (.GAL_ERR_STATUS r) F.GAL_ERR_STATUS_CORR
      (flag (head == .corrected) + flag (d == .corrected))).bump (.GAL_ERR_STATUS r) F.GAL_ERR_STATUS_UNCORR_DATA
        (flag (d == .uncorrectable))).pushBuf (bufKey r port plane vc)
          (if d = .uncorrectable then { p with msg := { p.msg with poison := true } } else p) := by
  intro d
  unfold Chip.enterRouter
  rw [if_neg hhead, if_neg (by simp [hplane])]
  dsimp only
  rw [Chip.probe_of_off]
  rw [Chip.bump, Chip.bump, Chip.bit_setFld_ne _ _ _ _ (by simp only [Reg.offset]; omega),
    Chip.bit_setFld_ne _ _ _ _ (by simp only [Reg.offset]; omega)]
  exact hen

-- a packet at an injection port

section
variable {s : State} {r port plane vc : Nat} {p : Packet} (hvc : vcOk r port plane vc = true) (hp : packetOk p = true) (hpvc : p.vc = vc)
  (hoff : s.chip.offered r port p = true) (hstuck : s.chip.gal.stuck.contains (bufKey r port plane vc) = false) (hsrc : p.srcR = r)
  (hport : port = 4 + p.srcPort)
include hvc hp hpvc hoff hstuck hsrc hport

theorem inject_entered {head data : UnitError} (hdest : s.chip.destState p = 0)
    (hroom : s.chip.hasRoom (bufKey r port plane vc) plane p.units = true) (hplane : cmdPlane p.cmd = plane) (hhead : head ≠ .uncorrectable)
    (hen : s.chip.bit (.GAL_PRB_CTL r) F.GAL_PRB_CTL_EN = false) : let d := if p.units = 2 then data else .none
    Gives (.packetHop r port plane vc (some p) ⟨head, data⟩) s (((((s.chip.taken r port p).bump (.GAL_ERR_STATUS r) F.GAL_ERR_STATUS_CORR
      (flag (head == .corrected) + flag (d == .corrected))).bump (.GAL_ERR_STATUS r) F.GAL_ERR_STATUS_UNCORR_DATA
        (flag (d == .uncorrectable))).pushBuf (bufKey r port plane vc)
          (if d = .uncorrectable then { p with msg := { p.msg with poison := true } } else p))) := by
  intro d
  refine gives_of_onChip rfl (by simp [hvc, hp, hpvc]) ?_
  dsimp only
  rw [Chip.inject, if_neg (by simp [hsrc, hport]), if_neg (by simp only [hstuck, hoff, Bool.not_true, Bool.or_self, Bool.false_eq_true,
    not_false_eq_true]), hdest]
  dsimp only
  rw [if_neg (by decide), if_neg (by simp), if_pos hroom,
    Chip.enterRouter_of_good hhead hplane ((Chip.bit_of_reg (Chip.reg_of_regs (Chip.taken_regs _ _ _ _) _) _).trans hen)]

theorem inject_held {head data : UnitError} (hdest : s.chip.destState p = 2) (hreg : pktIsReg p = false)
    (hroom : (s.chip.heldAt r port).length < 8) : let c := s.chip.taken r port p
    Gives (.packetHop r port plane vc (some p) ⟨head, data⟩) s (({ c with gal := { c.gal with
      hold := c.gal.hold ++ [{ r := r, port := port, pkt := p, since := s.chip.now }] } } : Chip).heldCount r) := by
  intro c
  refine gives_of_onChip rfl (by simp [hvc, hp, hpvc]) ?_
  dsimp only
  rw [Chip.inject, if_neg (by simp [hsrc, hport]), if_neg (by simp only [hstuck, hoff, Bool.not_true, Bool.or_self, Bool.false_eq_true,
    not_false_eq_true]), hdest]
  dsimp only
  rw [if_neg (by decide), if_pos (by simp [hreg]), if_pos hroom]

end

-- a packet in the mesh

section
variable {s : State} {r port plane vc : Nat} {p0 : Packet} {rest : List Packet} (hvc : vcOk r port plane vc = true)
  (hbuf : s.chip.bufAt (bufKey r port plane vc) = p0 :: rest) {c1 c : Chip} {p : Packet} {out : Nat}
  (hp : p = s.chip.readdress r p0) (hout : out = s.chip.outPort r p)
  (hc1 : c1 = { s.chip with gal := { s.chip.gal with buf := sset [] (bufKey r port plane vc) (p :: rest) s.chip.gal.buf } })
  (hc : c = (c1.served r out plane vc port).popBuf (bufKey r port plane vc))
  (hleave : c1.canLeave r out plane vc p = true) (hwinVc : c1.winningVc r out plane = some vc)
  (hwinIn : c1.winningInput r out plane vc = some port)
include hvc hbuf hp hout hc1 hc hleave hwinVc hwinIn

theorem hop_moves (head data : UnitError) : Gives (.packetHop r port plane vc none ⟨head, data⟩) s
    (match neighbour r out with
    | some n => c.enterRouter n.1 n.2 plane vc p head data
    | none => c.leaveMesh r p) := by
  refine gives_of_onChip rfl (by simp [hvc]) ?_
  have hhop : s.chip.hop r port plane vc head data = if !c1.canLeave r out plane vc p then
        if c1.probeMatch r port p && c1.ninvEff p.msg.world then c1.probeAdd r 2 p.units else c1
      else if c1.winningVc r out plane = some vc ∧ c1.winningInput r out plane vc = some port then
        c1.moveOn r port plane vc out p head data
      else c1 := by
    rw [hc1, hout, hp, Chip.hop, hbuf]
  dsimp only
  rw [hhop, if_neg (by simp only [hleave, Bool.not_true, Bool.false_eq_true, not_false_eq_true]), if_pos ⟨hwinVc, hwinIn⟩, Chip.moveOn, hc] <;> rfl

omit hvc hbuf hp hout hleave hwinVc hwinIn in
theorem hop_frame : ∃ g, c = { s.chip with gal := g } := by
  rw [hc, Chip.served_frame, hc1]
  exact ⟨_, rfl⟩

theorem hop_leaves (hnone : neighbour r out = none) (hdest : s.chip.destState p ≠ 3) :
    Gives (.packetHop r port plane vc none ⟨.none, .none⟩) s (match linkAt p.destR p.destPort with
      | some k => let e := c.linkEnd k false; c.setLinkEnd k false { e with out := e.out ++ [p] }
      | none => { c with dlv := sset [] (p.destR * 3 + p.destPort) (c.delivered p.destR p.destPort ++ [p]) c.dlv }) := by
  have hmoves := hop_moves hvc hbuf hp hout hc1 hc hleave hwinVc hwinIn .none .none
  obtain ⟨g, hg⟩ := hop_frame hc1 hc
  have hdest' : c.destState p ≠ 3 := by rw [hg]; exact hdest
  rw [hnone] at hmoves
  dsimp only at hmoves
  rwa [Chip.leaveMesh, if_neg hdest'] at hmoves

theorem hop_enters {n : Nat × Nat} (hn : neighbour r out = some n) (hplane : cmdPlane p.cmd = plane)
    (hen : s.chip.bit (.GAL_PRB_CTL n.1) F.GAL_PRB_CTL_EN = false) :
    Gives (.packetHop r port plane vc none ⟨.corrected, .none⟩) s (((c.bump (.GAL_ERR_STATUS n.1) F.GAL_ERR_STATUS_CORR 1).bump
      (.GAL_ERR_STATUS n.1) F.GAL_ERR_STATUS_UNCORR_DATA 0).pushBuf (bufKey n.1 n.2 plane vc) p) := by
  have hmoves := hop_moves hvc hbuf hp hout hc1 hc hleave hwinVc hwinIn .corrected .none
  obtain ⟨g, hg⟩ := hop_frame hc1 hc
  have hen' : c.bit (.GAL_PRB_CTL n.1) F.GAL_PRB_CTL_EN = false := by rw [hg]; exact hen
  have hd : (if p.units = 2 then UnitError.none else .none) = .none := ite_self _
  rw [hn] at hmoves
  dsimp only at hmoves
  rw [Chip.enterRouter_of_good (by decide) hplane hen', hd] at hmoves
  exact hmoves

theorem hop_discarded {n : Nat × Nat} (data : UnitError) (hn : neighbour r out = some n) :
    Gives (.packetHop r port plane vc none ⟨.uncorrectable, data⟩) s
      (((c.setBit (.GAL_ERR_STATUS n.1) F.GAL_ERR_STATUS_HDR_UNCORR true).setFld (.GAL_ERR_STATUS n.1) F.GAL_ERR_STATUS_HDR_PORT
        n.2).report (unitRouter n.1) 8 (0x7000 + n.1) 1 15) := by
  have hmoves := hop_moves hvc hbuf hp hout hc1 hc hleave hwinVc hwinIn .uncorrectable data
  rw [hn] at hmoves
  exact hmoves

end

-- credits, the fence hold and the trace

theorem creditReturn_frees (s : State) (r port plane vc : Nat) (hvc : vcOk r port plane vc = true) : let k := bufKey r port plane vc
    ((s.chip.bufAt k).map (fun p => p.units)).sum < s.chip.usedAt k →
    Gives (.creditReturn r port plane vc) s { s.chip with gal := { s.chip.gal with used := sset 0 k (s.chip.usedAt k - 1) s.chip.gal.used } } :=
  fun hlt => gives_of_onChip rfl hvc (if_pos hlt)

section
variable {s : State} {r : Nat} {h : HeldPkt} (hr : r < 48) (hhold : s.chip.gal.hold = [h]) (hhr : h.r = r) (hq : s.chip.homeQ = [])
include hr hhold hhr hq

theorem fenceHoldTimeout_answers
    (hover : h.since + s.chip.fld (.GAL_FENCE_CTL h.pkt.destR) F.GAL_FENCE_CTL_FENCE_LIMIT ≤ s.chip.now) :
    Gives (.fenceHoldTimeout r) s
      ((({ s.chip with gal := { s.chip.gal with hold := [] } } : Chip).undeliverable r h.pkt 1).heldCount r) := by
  refine gives_of_onPkg rfl (decide_eq_true hr) ?_
  have hfind : s.chip.gal.hold.find? (fun h => h.r == r
      && h.since + s.chip.fld (.GAL_FENCE_CTL h.pkt.destR) F.GAL_FENCE_CTL_FENCE_LIMIT ≤ s.chip.now) = some h := by
    simp [hhold, hhr, hover]
  have hdrop : dropFirst h s.chip.gal.hold = [] := by simp [hhold, dropFirst]
  have hto : s.chip.holdTimeout r =
      (({ s.chip with gal := { s.chip.gal with hold := [] } } : Chip).undeliverable r h.pkt 1).heldCount r := by
    rw [Chip.holdTimeout, hfind]
    dsimp only
    rw [hdrop]
  rw [Pkg.onChip, hto]
  refine Pkg.next_of_idle ?_
  refine Eq.trans ?_ hq
  exact Chip.undeliverable_homeQ _ _ _ _

omit hhr in
theorem fenceHoldTimeout_early
    (hearly : s.chip.now < h.since + s.chip.fld (.GAL_FENCE_CTL h.pkt.destR) F.GAL_FENCE_CTL_FENCE_LIMIT) :
    Gives (.fenceHoldTimeout r) s s.chip := by
  refine gives_of_onPkg rfl (decide_eq_true hr) ?_
  have hfind : s.chip.gal.hold.find? (fun h => h.r == r
      && h.since + s.chip.fld (.GAL_FENCE_CTL h.pkt.destR) F.GAL_FENCE_CTL_FENCE_LIMIT ≤ s.chip.now) = none := by
    simp [hhold, hearly]
  have hto : s.chip.holdTimeout r = s.chip := by rw [Chip.holdTimeout, hfind]
  rw [Pkg.onChip, hto]
  exact Pkg.next_of_idle hq

end

theorem traceRec_writes (s : State) (r : Nat) (a b : BitVec 256) (rest : List (BitVec 256)) (hr : r < 48)
    (htrace : sget [] r s.chip.gal.trace = a :: b :: rest) :
    let c := s.chip
    let ctl := Reg.GAL_PRB_CTL r
    let line := c.fld (.GAL_PRB_TPTR r) F.GAL_PRB_TPTR_NEXT
    c.bit ctl F.GAL_PRB_CTL_FULL = false → c.bit ctl F.GAL_PRB_CTL_TERR = false → c.ioIdle line = true →
    let q : Pkg := { s.toPkg with chip := { c with gal := { c.gal with trace := sset [] r rest c.gal.trace } } }
    let w := q.ioWrite 0x5004 (c.fld ctl F.GAL_PRB_CTL_TRACE_WORLD) (c.fld ctl F.GAL_PRB_CTL_TRACE_LABEL) line
      (a.setWidth 512 ||| (b.setWidth 512 <<< 256)) (BitVec.allOnes 64) false
    (w.2 = 0 → GivesPkg (.traceRec r) s (w.1.onChip (fun x => x.tptrNext r)))
    ∧ (w.2 ≠ 0 → GivesPkg (.traceRec r) s (w.1.onChip (fun x => x.setBit ctl F.GAL_PRB_CTL_TERR true))) := by
  intro c ctl line hfull hterr hidle q w
  have hrec : s.toPkg.traceRec r = if w.2 ≠ 0 then w.1.onChip (fun x => x.setBit ctl F.GAL_PRB_CTL_TERR true)
      else w.1.onChip (fun x => x.tptrNext r) := by
    rw [Pkg.traceRec, htrace, if_neg (by simp [hfull, hterr, hidle, c, ctl, line])]
  exact ⟨fun h0 => givesPkg_of_onPkg rfl (decide_eq_true hr) (hrec.trans (if_neg (not_not.2 h0))),
    fun h0 => givesPkg_of_onPkg rfl (decide_eq_true hr) (hrec.trans (if_pos h0))⟩

/-- Settles O36: the packet at an injection port, the packet in the mesh, and what follows from a hold, a credit or a trace buffer. -/
theorem galleryPackets : Obligations.GalleryPackets := by
  unfold Obligations.GalleryPackets
  refine ⟨fun s r port plane vc p head data hvc hp hpvc hoff hstuck hsrc hport =>
      ⟨fun hdest hroom hplane hhead hen => inject_entered hvc hp hpvc hoff hstuck hsrc hport hdest hroom hplane hhead hen,
       fun hdest hreg hroom => inject_held hvc hp hpvc hoff hstuck hsrc hport hdest hreg hroom⟩,
    ?_, creditReturn_frees,
    fun s r h hr hhold hhr hq => ⟨fenceHoldTimeout_answers hr hhold hhr hq, fenceHoldTimeout_early hr hhold hq⟩, traceRec_writes⟩
  intro s r port plane vc p0 rest hvc k hbuf p c1 out c hleave hwinVc hwinIn
  refine ⟨fun x hnone hdest hlink => ?_, fun hnone hdest hlink => ?_,
    fun n hn => hop_enters hvc hbuf rfl rfl rfl rfl hleave hwinVc hwinIn hn,
    fun n data hn => hop_discarded hvc hbuf rfl rfl rfl rfl hleave hwinVc hwinIn data hn⟩
  · have hleaves := hop_leaves hvc hbuf rfl rfl rfl rfl hleave hwinVc hwinIn hnone hdest
    rwa [hlink] at hleaves
  · have hleaves := hop_leaves hvc hbuf rfl rfl rfl rfl hleave hwinVc hwinIn hnone hdest
    rwa [hlink] at hleaves

end Sys2Proof.Machine
end

section
/-! Fences and the reconfiguration of the gallery (R215 to R221). -/

namespace Sys2Proof.Machine

theorem Chip.heldCount_homeQ (c : Chip) (r : Nat) : (c.heldCount r).homeQ = c.homeQ := rfl

theorem Chip.releaseHeld_homeQ (c : Chip) (r port : Nat) : (c.releaseHeld r port).homeQ = c.homeQ := by
  unfold Chip.releaseHeld
  dsimp only
  rw [foldl_same (f := fun (x : Chip) (h : HeldPkt) => x.heldCount h.r) Chip.homeQ fun x h => Chip.heldCount_homeQ x h.r]

theorem Chip.unfence_homeQ (c : Chip) (r port : Nat) : (c.unfence r port).homeQ = c.homeQ := by
  unfold Chip.unfence
  split
  · exact Chip.releaseHeld_homeQ _ _ _
  · rfl

-- the state of a port

/-- The fields of GAL_FENCE_STATUS that are no port's state. -/
theorem portStateField_apart (port : Nat) : F.GAL_FENCE_STATUS_REFUSED.apart (portStateField port) = true
    ∧ F.GAL_FENCE_STATUS_UNAVAIL_COUNT.apart (portStateField port) = true ∧ F.GAL_FENCE_STATUS_HELD.apart (portStateField port) = true := by
  unfold portStateField
  split <;> decide

theorem Chip.portState_of_ne (c : Chip) {q : Reg} (f : Field) (n r port : Nat) (h : (Reg.GAL_FENCE_STATUS r).offset ≠ q.offset) :
    (c.setFld q f n).portState r port = c.portState r port := c.fld_setFld_ne f _ n h

theorem Chip.portState_setFld_apart (c : Chip) {f : Field} (n k r port : Nat) (h : f.apart (portStateField port) = true) :
    (c.setFld (.GAL_FENCE_STATUS k) f n).portState r port = c.portState r port := by
  by_cases hk : r = k
  · rw [hk]
    exact c.fld_setFld_apart _ n h
  · exact c.portState_of_ne f n r port (by simp only [Reg.offset]; omega)

theorem Chip.portState_of_regs {c d : Chip} (h : d.regs = c.regs) (r port : Nat) : d.portState r port = c.portState r port :=
  Chip.fld_of_reg (Chip.reg_of_regs h _) _

theorem Chip.undeliverable_portState (c : Chip) (k : Nat) (p : Packet) (n r port : Nat) :
    (c.undeliverable k p n).portState r port = c.portState r port := by
  have hbump : ∀ rid w acc d a, ((c.bump (.GAL_FENCE_STATUS k) F.GAL_FENCE_STATUS_UNAVAIL_COUNT).report (unitRouter k) 9 rid w acc d
      a).portState r port = c.portState r port := fun rid w acc d a => by
    rw [Chip.portState, Chip.report_fld]
    exact c.portState_setFld_apart _ k r port (portStateField_apart port).2.1
  unfold Chip.undeliverable
  dsimp only
  split
  · exact (Chip.portState_of_regs rfl _ _).trans (hbump ..)
  · exact hbump ..

theorem attachOf_link_lt {r port k : Nat} (h : attachOf r port = .link k) : k < 26 := by
  unfold attachOf at h
  split at h
  case h_17 =>
    split at h
    · cases h
    · split at h
      · cases h
      · split at h
        · cases h; omega
        · split at h
          · cases h; omega
          · split at h <;> cases h <;> omega
  all_goals cases h

theorem pktDie_lt {p : Packet} {d : Nat} (h : pktDie p = some d) : d < 13 := by
  unfold pktDie at h
  split at h
  next k hk =>
    cases h
    split at hk
    · have := attachOf_link_lt hk
      omega
    · cases hk
  next => cases h

theorem Chip.disabledAnswer_portState (c : Chip) (k : Nat) (p : Packet) (r port : Nat) :
    (c.disabledAnswer k p).portState r port = c.portState r port := by
  have hdrop : ∀ d, d < 13 → (c.bump (.PKG_DIE_STATUS d) F.PKG_DIE_STATUS_MSI_DROPS).portState r port = c.portState r port := fun d hd =>
    c.portState_of_ne _ _ r port (by simp only [Reg.offset]; omega)
  unfold Chip.disabledAnswer
  split
  · exact Chip.undeliverable_portState ..
  next d hd =>
    split
    · split
      · rw [Chip.undeliverable_portState, hdrop _ (pktDie_lt hd)]
      · exact Chip.undeliverable_portState ..
    · split
      · exact hdrop _ (pktDie_lt hd)
      · split
        · exact Chip.undeliverable_portState ..
        · rfl

theorem Chip.answerHeld_portState (c : Chip) (k q r port : Nat) : (c.answerHeld k q).portState r port = c.portState r port :=
  foldl_same (fun x : Chip => x.portState r port) (fun x h => by
    refine (Chip.portState_setFld_apart _ _ _ r port (portStateField_apart port).2.2).trans ?_
    exact (Chip.portState_of_regs rfl r port).trans ((Chip.disabledAnswer_portState _ _ _ r port).trans (Chip.portState_of_regs rfl r port))) _ _

theorem Chip.portState_setPortState (c : Chip) (r port : Nat) {st : Nat} (h : st < 4) : (c.setPortState r port st).portState r port = st := by
  unfold Chip.setPortState Chip.portState portStateField
  split <;> exact c.fld_setFld_of_lt _ _ (by decide) (by decide) h

-- a write to a fence register

section
variable {s : State} {who : Who} {r : Nat} {v : Word} (hr : r < 48) (hw : who.sealed = true)
include hr hw

/-- What a FENCE does: refused, begun, or left as it is. -/
theorem fenceCommand_does (hcmd : F.GAL_FENCE_CTL_CMD.get v = 1) :
    Gives (.fenceCommand who r v) s (let port := F.GAL_FENCE_CTL_PORT.get v
      if s.chip.fenceBad who r port then s.chip.galRefuse r
      else if s.chip.portState r port = 0 then (s.chip.storeFields (.GAL_FENCE_CTL r) v).beginFence r port
      else s.chip.storeFields (.GAL_FENCE_CTL r) v) := by
  refine gives_of_onChip rfl (by simp [hr, hcmd]) ?_
  simp only [Chip.fenceCtlWrite, Chip.ifMay_of_true _ _ _ _ hw, hcmd]

theorem unfence_does (hcmd : F.GAL_FENCE_CTL_CMD.get v = 2) (hq : s.chip.homeQ = []) :
    Gives (.unfence who r v) s ((s.chip.storeFields (.GAL_FENCE_CTL r) v).unfence r (F.GAL_FENCE_CTL_PORT.get v)) := by
  refine gives_of_onPkg rfl (by simp [hr, hcmd]) ?_
  have hwrite : s.chip.fenceCtlWrite who r v = (s.chip.storeFields (.GAL_FENCE_CTL r) v).unfence r (F.GAL_FENCE_CTL_PORT.get v) := by
    simp only [Chip.fenceCtlWrite, Chip.ifMay_of_true _ _ _ _ hw, hcmd]
  rw [Pkg.onChip, hwrite]
  exact Pkg.next_of_idle ((Chip.unfence_homeQ _ _ _).trans hq)

end

theorem fenceWrites_violate (s : State) (who : Who) (r : Nat) (v : Word) (hr : r < 48) (hw : who.sealed = false) :
    (F.GAL_FENCE_CTL_CMD.get v = 1 → Gives (.fenceCommand who r v) s (s.chip.refuseWrite who (.GAL_FENCE_CTL r)))
    ∧ (F.GAL_FENCE_CTL_CMD.get v = 2 → s.chip.homeQ = [] → Gives (.unfence who r v) s (s.chip.refuseWrite who (.GAL_FENCE_CTL r)))
    ∧ Gives (.galPortCtlWrite who r v) s (s.chip.refuseWrite who (.GAL_PORT_CTL r))
    ∧ Gives (.galIdWrite who r v) s (s.chip.refuseWrite who (.GAL_ID r)) := by
  have hfence : s.chip.fenceCtlWrite who r v = s.chip.refuseWrite who (.GAL_FENCE_CTL r) := Chip.ifMay_of_false _ _ _ _ hw
  refine ⟨fun hcmd => gives_of_onChip rfl (by simp [hr, hcmd]) hfence, fun hcmd hq => gives_of_onPkg rfl (by simp [hr, hcmd]) ?_,
    gives_of_onChip rfl (decide_eq_true hr) (Chip.ifMay_of_false _ _ _ _ hw),
    gives_of_onChip rfl (decide_eq_true hr) (Chip.ifMay_of_false _ _ _ _ hw)⟩
  rw [Pkg.onChip, hfence]
  refine Pkg.next_of_idle (Eq.trans ?_ hq)
  rw [Chip.refuseWrite, Chip.violate_frame]

-- the markers, and the end of a fence

theorem fenceMark_noted (s : State) (r port src plane vc : Nat) (hr : r < 48) (hport : port < 2) (hsrc : src < 144) (hplane : plane < 3)
    (hvc : vc < vcCount plane) (hst : s.chip.portState r port = 1) (hinj : s.chip.injects src = true)
    (hahead : s.chip.ahead r port src plane vc = false)
    (hnew : s.chip.gal.marks.contains (r * 2 + port, markKey src plane vc) = false) : Gives (.fenceMark r port src plane vc) s
      { s.chip with gal := { s.chip.gal with marks := s.chip.gal.marks ++ [(r * 2 + port, markKey src plane vc)] } } := by
  refine gives_of_onChip rfl (by simp [hr, hport, hsrc, hplane, hvc]) ?_
  rw [Chip.fenceMark, if_pos (by simp [hst, hinj, hahead])]
  simp only [hnew, Bool.false_eq_true, if_false]

theorem fenceDrained_fences (s : State) (r port : Nat) (hr : r < 48) (hport : port < 2) (hst : s.chip.portState r port = 1)
    (hmarks : s.chip.allMarks r port = true) (hreg : (s.chip.delivered r port).all pktIsReg = true)
    (hdrained : s.chip.drained (attachOf r port) = true) :
    Gives (.fenceDrained r port) s (({ s.chip with gal := { s.chip.gal with
      marks := s.chip.gal.marks.filter (fun m => m.1 != r * 2 + port) } } : Chip).setPortState r port 2) :=
  gives_of_onChip rfl (by simp [hr, hport]) (if_pos ⟨hst, hmarks, hreg, hdrained⟩)

theorem fenceDrained_waits (s : State) (r port : Nat) (hr : r < 48) (hport : port < 2) (hmarks : s.chip.allMarks r port = false) :
    Gives (.fenceDrained r port) s s.chip :=
  gives_of_onChip rfl (by simp [hr, hport]) (if_neg (by simp [hmarks]))

-- GAL_PORT_CTL and GAL_ID

section
variable {s : State} {who : Who} {r : Nat} {v : Word} (hr : r < 48) (hw : who.sealed = true)
include hr hw

section
variable (hold0 : bitAt (s.chip.reg (.GAL_PORT_CTL r)).toNat 0 = false) (hnew0 : bitAt v.toNat 0 = true)
  (hsame1 : bitAt (s.chip.reg (.GAL_PORT_CTL r)).toNat 1 = bitAt v.toNat 1)
include hold0 hnew0 hsame1

/-- A write that sets DIS of port 0 alone. -/
theorem galPortCtlWrite_does : Gives (.galPortCtlWrite who r v) s (if s.chip.portState r 0 < 2 then s.chip.galRefuse r
    else (s.chip.storeFields (.GAL_PORT_CTL r) v).setDis r 0 true) := by
  refine gives_of_onChip rfl (decide_eq_true hr) ?_
  have hrange : List.range 2 = [0, 1] := rfl
  simp only [Chip.portCtlWrite, Chip.ifMay_of_true _ _ _ _ hw, hrange, List.filter, hold0, hnew0, hsame1, List.any, bne_self_eq_false,
    Bool.not_true, Bool.and_false, Bool.or_false, List.foldl, decide_eq_true_eq, Bool.false_bne]

theorem galPortCtlWrite_disables (hst : s.chip.portState r 0 = 2) :
    ∃ t, exec (.galPortCtlWrite who r v) s = .next t ∧ t.chip.portState r 0 = 3 := by
  refine ⟨_, galPortCtlWrite_does hr hw hold0 hnew0 hsame1, ?_⟩
  dsimp only
  rw [if_neg (by rw [hst]; decide), Chip.setDis, if_pos rfl, Chip.answerHeld_portState, Chip.portState_setPortState _ _ _ (by decide)]

theorem galPortCtlWrite_refused (hst : s.chip.portState r 0 < 2) :
    Gives (.galPortCtlWrite who r v) s (s.chip.setBit (.GAL_FENCE_STATUS r) F.GAL_FENCE_STATUS_REFUSED true) := by
  have hdoes := galPortCtlWrite_does hr hw hold0 hnew0 hsame1
  rwa [if_pos hst] at hdoes

end

theorem galIdWrite_does : Gives (.galIdWrite who r v) s (if !s.chip.galQuiet || 6 ≤ F.GAL_ID_Y.get v then s.chip.galRefuse r
    else s.chip.storeFields (.GAL_ID r) v) :=
  gives_of_onChip rfl (decide_eq_true hr) (Chip.ifMay_of_true _ _ _ _ hw)

end

/-- Settles O37: each command of R215 to R221 by its own lemma above. -/
theorem galleryFences : Obligations.GalleryFences := by
  unfold Obligations.GalleryFences
  refine ⟨fun s who r v hr hw => ?_, fenceWrites_violate, fenceMark_noted, fenceDrained_fences, fenceDrained_waits,
    fun s who r v hr hw => ⟨fun h0 h0' h1 => ⟨galPortCtlWrite_disables hr hw h0 h0' h1, galPortCtlWrite_refused hr hw h0 h0' h1⟩,
      fun hquiet hy => ?_, fun hbad => ?_⟩⟩
  · refine ⟨fun hcmd hbad hst => ?_, fun hcmd hbad => ?_, fun hcmd hbad hst => ?_, fun hcmd hq hst => ?_, fun hcmd hq hst => ?_⟩
    · simpa only [hbad, hst, Bool.false_eq_true, if_false, if_true] using fenceCommand_does (s := s) hr hw hcmd
    · simpa only [hbad, if_true, Chip.galRefuse] using fenceCommand_does (s := s) hr hw hcmd
    · simpa only [hbad, hst, Bool.false_eq_true, if_false] using fenceCommand_does (s := s) hr hw hcmd
    · have hdoes := unfence_does hr hw hcmd hq
      rwa [Chip.unfence, if_pos hst] at hdoes
    · have hdoes := unfence_does hr hw hcmd hq
      rwa [Chip.unfence, if_neg hst] at hdoes
  · have hdoes := galIdWrite_does (s := s) (v := v) hr hw
    rwa [if_neg (by simp [hquiet, hy])] at hdoes
  · have hdoes := galIdWrite_does (s := s) (v := v) hr hw
    rwa [if_pos (by simpa using hbad)] at hdoes

end Sys2Proof.Machine
end

section
/-! Hand-over of blocks, power requests, consent and the debug grant (R291 to R301). -/

namespace Sys2Proof.Machine

-- RELEASE and CLAIM

section
variable {s : State} {who : Who} {b : Blk}

theorem release_does (dst : Nat) (hb : blkOk b = true) (hdst : dst < 16) : Gives (.release who b dst) s (s.chip.handOff who b dst) :=
  gives_of_onChip rfl (by simp [hb, hdst]) rfl

theorem claim_does (hb : blkOk b = true) : Gives (.claim who b) s (s.chip.takeOn who b) := gives_of_onChip rfl hb rfl

end

theorem release_cases (s : State) (who : Who) (b : Blk) (dst : Nat) (hb : blkOk b = true) (hdst : dst < 16) : let r := ownReg b
    let mine : Bool := who.sealed || who.world == s.chip.fld r F.WLD_OWN_OWNER
    (mine = true → s.chip.fld r F.WLD_OWN_STATE = 0 → s.chip.releaseBad b = false →
      Gives (.release who b dst) s ((((s.chip.setFld r F.WLD_OWN_NEXT dst).setFld r F.WLD_OWN_STATE 1).ownResult b 0).startQuiesceBlk b))
    ∧ (mine = true → s.chip.fld r F.WLD_OWN_STATE = 0 → s.chip.releaseBad b = true → Gives (.release who b dst) s (s.chip.ownResult b 2))
    ∧ (mine = true → s.chip.fld r F.WLD_OWN_STATE = 1 → Gives (.release who b dst) s (s.chip.ownResult b 4))
    ∧ (mine = true → 2 ≤ s.chip.fld r F.WLD_OWN_STATE → Gives (.release who b dst) s (s.chip.ownResult b 3))
    ∧ (mine = false → Gives (.release who b dst) s (s.chip.violate who 3 r.offset)) := by
  intro r mine
  have hdoes : Gives (.release who b dst) s (if !mine then s.chip.violate who 3 r.offset
      else if s.chip.fld r F.WLD_OWN_STATE = 1 then s.chip.ownResult b 4
      else if s.chip.fld r F.WLD_OWN_STATE ≠ 0 then s.chip.ownResult b 3
      else if s.chip.releaseBad b then s.chip.ownResult b 2
      else (((s.chip.setFld r F.WLD_OWN_NEXT dst).setFld r F.WLD_OWN_STATE 1).ownResult b 0).startQuiesceBlk b) := release_does dst hb hdst
  refine ⟨fun hm hst hbad => ?_, fun hm hst hbad => ?_, fun hm hst => ?_, fun hm hst => ?_, fun hm => ?_⟩
  · rwa [if_neg (by simp [hm]), if_neg (by simp [hst]), if_neg (by simp [hst]), if_neg (by simp [hbad])] at hdoes
  · rwa [if_neg (by simp [hm]), if_neg (by simp [hst]), if_neg (by simp [hst]), if_pos hbad] at hdoes
  · rwa [if_neg (by simp [hm]), if_pos hst] at hdoes
  · rwa [if_neg (by simp [hm]), if_neg (by omega), if_pos (by omega)] at hdoes
  · rwa [if_pos (by simp [hm])] at hdoes

theorem claim_cases (s : State) (who : Who) (b : Blk) (hb : blkOk b = true) : let r := ownReg b
    let next := s.chip.fld r F.WLD_OWN_NEXT
    let mine : Bool := who.uz || who.world == next
    (mine = true → s.chip.fld r F.WLD_OWN_STATE = 2 → Gives (.claim who b) s
      ((((s.chip.setFld r F.WLD_OWN_OWNER next).setFld r F.WLD_OWN_STATE 0).ownResult b 1).afterClaim b
        (s.chip.fld r F.WLD_OWN_OWNER != next)))
    ∧ (mine = true → s.chip.fld r F.WLD_OWN_STATE = 0 → Gives (.claim who b) s (s.chip.ownResult b 3))
    ∧ (mine = false → Gives (.claim who b) s (s.chip.violate who 3 r.offset)) := by
  intro r next mine
  have hdoes : Gives (.claim who b) s (if !mine then s.chip.violate who 3 r.offset
      else if s.chip.fld r F.WLD_OWN_STATE = 1 then s.chip.ownResult b 4
      else if s.chip.fld r F.WLD_OWN_STATE ≠ 2 then s.chip.ownResult b 3
      else (((s.chip.setFld r F.WLD_OWN_OWNER next).setFld r F.WLD_OWN_STATE 0).ownResult b 1).afterClaim b
        (s.chip.fld r F.WLD_OWN_OWNER != next)) := claim_does hb
  refine ⟨fun hm hst => ?_, fun hm hst => ?_, fun hm => ?_⟩
  · rwa [if_neg (by simp [hm]), if_neg (by simp [hst]), if_neg (by simp [hst])] at hdoes
  · rwa [if_neg (by simp [hm]), if_neg (by simp [hst]), if_pos (by simp [hst])] at hdoes
  · rwa [if_pos (by simp [hm])] at hdoes

/-- The registers of a slot are no ownership entry. -/
theorem Chip.clearSlot_reg (c : Chip) (k j : Nat) {q : Reg} (h : q.offset < 0x5000000) : (c.clearSlot k j).reg q = c.reg q := by
  have hne : ∀ r : Reg, 0x5000000 ≤ r.offset → ∀ x : Chip, (x.resetReg r).reg q = x.reg q := fun r hr x => by
    rw [Chip.resetReg, Chip.reg_setReg_ne _ _ (by omega)]
  simp only [Chip.clearSlot, List.foldl]
  rw [hne _ (by simp only [Reg.offset]; omega), hne _ (by simp only [Reg.offset]; omega), hne _ (by simp only [Reg.offset]; omega),
    hne _ (by simp only [Reg.offset]; omega), hne _ (by simp only [Reg.offset]; omega), hne _ (by simp only [Reg.offset]; omega),
    hne _ (by simp only [Reg.offset]; omega)]

theorem ownReg_offset_lt {b : Blk} (hb : blkOk b = true) : (ownReg b).offset < 0x5000000 := by
  cases b <;> simp only [blkOk, decide_eq_true_eq] at hb <;> simp only [ownReg, Reg.offset] <;> omega

theorem releaseDone_done (s : State) (b : Blk) (hb : blkOk b = true) : let r := ownReg b
    s.chip.fld r F.WLD_OWN_STATE = 1 → s.chip.blkQuiet b = true → ∃ t, exec (.releaseDone b) s = .next t
      ∧ t.chip.fld r F.WLD_OWN_STATE = 2 ∧ t.chip.fld r F.WLD_OWN_RESULT = 1 ∧ t.chip.fld r F.WLD_OWN_NEXT = s.chip.fld r F.WLD_OWN_NEXT := by
  intro r hst hquiet
  refine ⟨_, gives_of_onChip rfl hb rfl, ?_⟩
  have hreg : (s.chip.handOffDone b).reg r = ((s.chip.setFld r F.WLD_OWN_STATE 2).ownResult b 1).reg r := by
    rw [Chip.handOffDone, if_pos ⟨hst, hquiet⟩]
    dsimp only
    split
    · exact Chip.clearSlot_reg _ _ _ (ownReg_offset_lt hb)
    · rfl
  dsimp only
  refine ⟨?_, ?_, ?_⟩
  · rw [Chip.fld_of_reg hreg, Chip.ownResult, Chip.fld_setFld_apart _ _ _ (by decide), Chip.fld_setFld_of_lt _ _ _ (by decide) (by decide) (by decide)]
  · rw [Chip.fld_of_reg hreg]
    exact Chip.fld_setFld_of_lt _ _ _ (by decide) (by decide) (by decide)
  · rw [Chip.fld_of_reg hreg, Chip.ownResult, Chip.fld_setFld_apart _ _ _ (by decide), Chip.fld_setFld_apart _ _ _ (by decide)]

-- power requests

/-- RESULT of a power request, and what its record leaves. -/
theorem Chip.pwrResult_result (c : Chip) (who : Who) {n : Nat} (m : Nat) (hn : n < 8) :
    (c.pwrResult who n m).fld .WLD_PWR_STATUS F.WLD_PWR_STATUS_RESULT = n := by
  rw [Chip.pwrResult, Chip.fld_setFld_apart _ _ _ (by decide), Chip.fld_setFld_apart _ _ _ (by decide),
    Chip.fld_setFld_of_lt _ _ _ (by decide) (by decide) hn]

theorem Chip.powerEnd_fields (c : Chip) : c.powerEnd.down = c.down ∧ c.powerEnd.pwrReq = none
    ∧ c.powerEnd.bit .WLD_PWR_STATUS F.WLD_PWR_STATUS_BUSY = false ∧ c.powerEnd.fld .WLD_PWR_STATUS F.WLD_PWR_STATUS_RESULT = 1 := by
  refine ⟨rfl, rfl, ?_, Chip.fld_setFld_of_lt _ _ _ (by decide) (by decide) (by decide)⟩
  rw [Chip.powerEnd, Chip.bit_setFld_apart _ _ _ (by decide), Chip.bit_setBit _ _ _ _ (by decide) (by decide)]

/-- The ports of the gallery: what opens one changes its router's registers, and what is held there. -/
theorem Chip.releaseHeld_reg (c : Chip) (r port : Nat) {q : Reg} (h : q.offset < 0x1000000) : (c.releaseHeld r port).reg q = c.reg q := by
  unfold Chip.releaseHeld
  dsimp only
  rw [foldl_same (f := fun (x : Chip) (h : HeldPkt) => x.heldCount h.r) (fun x : Chip => x.reg q) fun x k => ?_]
  · rfl
  · exact (Chip.reg_setFld_ne _ _ _ (ne_of_lt (h.trans_le (by simp only [Reg.offset]; omega)))).trans rfl

theorem Chip.openPort_reg (c : Chip) (r port : Nat) {q : Reg} (h : q.offset < 0x1000000) : (c.openPort r port).reg q = c.reg q := by
  rw [Chip.openPort, Chip.releaseHeld_reg _ _ _ h, Chip.setPortState,
    Chip.reg_setFld_ne _ _ _ (ne_of_lt (h.trans_le (by simp only [Reg.offset]; omega)))]

theorem Chip.openPort_down (c : Chip) (r port : Nat) : (c.openPort r port).down = c.down := by
  unfold Chip.openPort Chip.releaseHeld
  dsimp only
  rw [foldl_same (f := fun (x : Chip) (h : HeldPkt) => x.heldCount h.r) Chip.down fun _ _ => rfl]
  rfl

/-- The consent field of a kind of unit. -/
def consentField (kind : Nat) : Field := if kind = 2 then F.WLD_CONSENT_CLUSTERS else F.WLD_CONSENT_HALLS

theorem consentField_wf (kind : Nat) : (consentField kind).hi < 64 ∧ (consentField kind).lo ≤ (consentField kind).hi := by
  unfold consentField
  split <;> decide

/-- The consent of one world for a unit is withdrawn. -/
def Chip.dropConsent (index : Nat) (f : Field) (w : Nat) (x : Chip) : Chip :=
  x.setFld (.WLD_CONSENT w) f (withBit (x.fld (.WLD_CONSENT w) f) index false)

theorem Chip.clearConsent_eq (c : Chip) (kind index : Nat) :
    c.clearConsent kind index = if kind = 1 then c else forUpTo 16 (Chip.dropConsent index (consentField kind)) c := rfl

theorem Chip.clearConsent_down (c : Chip) (kind index : Nat) : (c.clearConsent kind index).down = c.down := by
  rw [Chip.clearConsent_eq]
  split
  · rfl
  · exact forUpTo_same Chip.down (fun w x => Chip.setFld_down x _ _ _) 16 c

theorem Chip.dropConsent_given (x : Chip) {f : Field} (hf : f.hi < 64 ∧ f.lo ≤ f.hi) (index w : Nat) :
    bitAt ((x.dropConsent index f w).fld (.WLD_CONSENT w) f) index = false := by
  rw [Chip.dropConsent, Chip.fld_setFld _ _ _ _ hf.1 hf.2, bitAt, Nat.testBit_mod_two_pow, ← bitAt, bitAt_withBit, if_pos rfl, Bool.and_false]

theorem dropConsents (index : Nat) {f : Field} (hf : f.hi < 64 ∧ f.lo ≤ f.hi) (n : Nat) (c : Chip) {w : Nat} (hw : w < n) :
    bitAt ((forUpTo n (Chip.dropConsent index f) c).fld (.WLD_CONSENT w) f) index = false := by
  induction n with
  | zero => omega
  | succ n ih =>
    rw [forUpTo_succ]
    by_cases h : w = n
    · rw [h]; exact Chip.dropConsent_given _ hf _ _
    · rw [Chip.dropConsent, Chip.fld_setFld_ne _ _ _ _ (by simp only [Reg.offset]; omega)]
      exact ih (by omega)

theorem Chip.clearConsent_clears (c : Chip) {kind : Nat} (index : Nat) (hk : kind ≠ 1) {w : Nat} (hw : w < 16) :
    bitAt ((c.clearConsent kind index).fld (.WLD_CONSENT w) (consentField kind)) index = false := by
  rw [Chip.clearConsent_eq, if_neg hk]
  exact dropConsents index (consentField_wf kind) 16 c hw

theorem Chip.powerRestore_cases (c : Chip) (kind index : Nat) :
    let c1 := ({ c with down := c.down.filter (fun u => u != (kind, index)) } : Chip).clearConsent kind index
    c.powerRestore kind index = c1 ∨ ∃ p : Nat × Nat, c.powerRestore kind index = c1.openPort p.1 p.2 := by
  unfold Chip.powerRestore
  dsimp only
  split
  · split
    · split
      next p _ _ => exact Or.inr ⟨p, rfl⟩
      next => exact Or.inl rfl
    · exact Or.inl rfl
  · exact Or.inl rfl

theorem Chip.powerRestore_up (c : Chip) (kind index : Nat) : (kind, index) ∉ (c.powerRestore kind index).down := by
  have hdown : (c.powerRestore kind index).down = c.down.filter (fun u => u != (kind, index)) := by
    rcases c.powerRestore_cases kind index with h | ⟨p, h⟩
    · rw [h, Chip.clearConsent_down]
    · rw [h, Chip.openPort_down, Chip.clearConsent_down]
  rw [hdown]
  simp

theorem Chip.powerRestore_consent (c : Chip) {kind : Nat} (index : Nat) (hk : kind ≠ 1) {w : Nat} (hw : w < 16) :
    bitAt ((c.powerRestore kind index).fld (.WLD_CONSENT w) (consentField kind)) index = false := by
  rcases c.powerRestore_cases kind index with h | ⟨p, h⟩
  · rw [h]; exact Chip.clearConsent_clears _ _ hk hw
  · rw [h, Chip.fld_of_reg (Chip.openPort_reg _ _ _ (by simp only [Reg.offset]; omega))]
    exact Chip.clearConsent_clears _ _ hk hw

section
variable {s : State} {who : Who} {kind index : Nat} (h1 : 1 ≤ kind) (h3 : kind ≤ 3) (hi : index < 16)
include h1 h3 hi

theorem powerDownRequest_does : Gives (.powerDownRequest who kind index) s (s.chip.powerDown who kind index) :=
  gives_of_onChip rfl (by simp [pwrOk, h1, h3, hi]) rfl

theorem powerUpRequest_does : Gives (.powerUpRequest who kind index) s (s.chip.powerUp who kind index) :=
  gives_of_onChip rfl (by simp [pwrOk, h1, h3, hi]) rfl

variable (hb : s.chip.bit .WLD_PWR_STATUS F.WLD_PWR_STATUS_BUSY = false)
include hb

theorem powerRequests_noUnit (hok : powerIndexOk kind index = false) :
    Gives (.powerDownRequest who kind index) s (s.chip.pwrResult who 3 0) ∧ Gives (.powerUpRequest who kind index) s (s.chip.pwrResult who 3 0) := by
  have hdown := powerDownRequest_does (s := s) (who := who) h1 h3 hi
  have hup := powerUpRequest_does (s := s) (who := who) h1 h3 hi
  rw [Chip.powerDown, if_neg (by simp [hb]), if_pos (by simp [hok])] at hdown
  rw [Chip.powerUp, if_neg (by simp [hb]), if_pos (by simp [hok])] at hup
  exact ⟨hdown, hup⟩

variable (hok : powerIndexOk kind index = true)
include hok

theorem powerDownRequest_missing (hm : s.chip.powerMissing who kind index ≠ []) : Gives (.powerDownRequest who kind index) s
    ((s.chip.pwrResult who 2 ((s.chip.powerMissing who kind index).foldl (fun a w => a + 2 ^ w) 0)).violate who 2 Reg.WLD_PWR_REQ.offset) := by
  have hdown := powerDownRequest_does (s := s) (who := who) h1 h3 hi
  rwa [Chip.powerDown, if_neg (by simp [hb]), if_neg (by simp [hok]), if_pos hm] at hdown

theorem powerDownRequest_begins (hm : s.chip.powerMissing who kind index = [])
    (hhall : ¬(kind = 3 ∧ (s.chip.hallHasPot index = true ∨ s.chip.hallInUse index = true))) (hpot : s.chip.potRuns = false) :
    Gives (.powerDownRequest who kind index) s
      (((({ s.chip with pwrReq := some (kind, index) } : Chip).pwrResult who 0 0).setBit .WLD_PWR_STATUS F.WLD_PWR_STATUS_BUSY
        true).unitFence (powerUnit kind index)) := by
  have hdown := powerDownRequest_does (s := s) (who := who) h1 h3 hi
  rwa [Chip.powerDown, if_neg (by simp [hb]), if_neg (by simp [hok]), if_neg (by simp [hm]), if_neg hhall, if_neg (by simp [hpot])] at hdown

theorem powerUpRequest_waits (hpot : s.chip.potRuns = true) : Gives (.powerUpRequest who kind index) s
    ((({ s.chip with pwrReq := some (kind + 3, index) } : Chip).pwrResult who 0 0).setBit .WLD_PWR_STATUS F.WLD_PWR_STATUS_BUSY true) := by
  have hup := powerUpRequest_does (s := s) (who := who) h1 h3 hi
  rwa [Chip.powerUp, if_neg (by simp [hb]), if_neg (by simp [hok]), if_pos hpot] at hup

theorem powerUpRequest_restores (hpot : s.chip.potRuns = false) : ∃ t, exec (.powerUpRequest who kind index) s = .next t
    ∧ (kind, index) ∉ t.chip.down ∧ t.chip.fld .WLD_PWR_STATUS F.WLD_PWR_STATUS_RESULT = 1 ∧ ∀ w, w < 16 →
      (kind = 2 → bitAt (t.chip.fld (.WLD_CONSENT w) F.WLD_CONSENT_CLUSTERS) index = false)
      ∧ (kind = 3 → bitAt (t.chip.fld (.WLD_CONSENT w) F.WLD_CONSENT_HALLS) index = false) := by
  have hup := powerUpRequest_does (s := s) (who := who) h1 h3 hi
  rw [Chip.powerUp, if_neg (by simp [hb]), if_neg (by simp [hok]), if_neg (by simp [hpot])] at hup
  refine ⟨_, hup, Chip.powerRestore_up _ _ _, Chip.pwrResult_result _ _ _ (by decide), fun w hw => ?_⟩
  have hconsent : ∀ f, ((s.chip.powerRestore kind index).pwrResult who 1 0).fld (.WLD_CONSENT w) f =
      (s.chip.powerRestore kind index).fld (.WLD_CONSENT w) f := fun f => by
    rw [Chip.pwrResult, Chip.fld_setFld_ne _ _ _ _ (by simp only [Reg.offset]; omega), Chip.fld_setFld_ne _ _ _ _ (by simp only [Reg.offset]; omega),
      Chip.fld_setFld_ne _ _ _ _ (by simp only [Reg.offset]; omega)]
  dsimp only
  rw [hconsent, hconsent]
  constructor
  · rintro rfl
    exact Chip.powerRestore_consent _ _ (by decide) hw
  · rintro rfl
    exact Chip.powerRestore_consent _ _ (by decide) hw

end

theorem powerRequests_busy {s : State} {kind index : Nat} (who : Who) (h1 : 1 ≤ kind) (h3 : kind ≤ 3) (hi : index < 16)
    (hb : s.chip.bit .WLD_PWR_STATUS F.WLD_PWR_STATUS_BUSY = true) :
    Gives (.powerDownRequest who kind index) s (s.chip.setFld .WLD_PWR_STATUS F.WLD_PWR_STATUS_RESULT 4)
      ∧ Gives (.powerUpRequest who kind index) s (s.chip.setFld .WLD_PWR_STATUS F.WLD_PWR_STATUS_RESULT 4) := by
  have hdown := powerDownRequest_does (s := s) (who := who) h1 h3 hi
  have hup := powerUpRequest_does (s := s) (who := who) h1 h3 hi
  rw [Chip.powerDown, if_pos hb] at hdown
  rw [Chip.powerUp, if_pos hb] at hup
  exact ⟨hdown, hup⟩

theorem powerDownDone_up (s : State) (kind index : Nat) (h1 : 1 ≤ kind) (hreq : s.chip.pwrReq = some (kind + 3, index))
    (hpot : s.chip.potRuns = false) : ∃ t, exec .powerDownDone s = .next t ∧ (kind, index) ∉ t.chip.down ∧ t.chip.pwrReq = none
      ∧ t.chip.bit .WLD_PWR_STATUS F.WLD_PWR_STATUS_BUSY = false ∧ t.chip.fld .WLD_PWR_STATUS F.WLD_PWR_STATUS_RESULT = 1 := by
  have hend : s.chip.powerDownEnd = (s.chip.powerRestore kind index).powerEnd := by
    rw [Chip.powerDownEnd, hreq]
    dsimp only
    rw [if_neg (by simp [hpot]), if_pos (by omega), Nat.add_sub_cancel]
  exact ⟨_, gives_of_onChip (ok := true) rfl rfl hend, Chip.powerRestore_up _ _ _, (Chip.powerEnd_fields _).2⟩

theorem powerDownDone_down (s : State) (kind index : Nat) (h3 : kind ≤ 3) (hreq : s.chip.pwrReq = some (kind, index))
    (hpot : s.chip.potRuns = false) (hfenced : s.chip.unitFenced (powerUnit kind index) = true) : ∃ t, exec .powerDownDone s = .next t
      ∧ (kind, index) ∈ t.chip.down ∧ t.chip.pwrReq = none ∧ t.chip.bit .WLD_PWR_STATUS F.WLD_PWR_STATUS_BUSY = false
      ∧ t.chip.fld .WLD_PWR_STATUS F.WLD_PWR_STATUS_RESULT = 1 := by
  have hend : s.chip.powerDownEnd = ({ s.chip with
      down := if s.chip.down.contains (kind, index) then s.chip.down else s.chip.down ++ [(kind, index)] } : Chip).powerEnd := by
    rw [Chip.powerDownEnd, hreq]
    dsimp only
    rw [if_neg (by simp [hpot]), if_neg (by omega), if_pos hfenced]
    rfl
  refine ⟨_, gives_of_onChip (ok := true) rfl rfl hend, ?_, (Chip.powerEnd_fields _).2⟩
  dsimp only
  rw [(Chip.powerEnd_fields _).1]
  dsimp only
  split
  next h => simpa using h
  next => simp

-- the debug grant

theorem Chip.lifeWrite_grant (c : Chip) (t : Nat) (l : List Byte) :
    (c.lifeWrite t l).uz.nonce = c.uz.nonce ∧ (c.lifeWrite t l).uz.grantEnd = c.uz.grantEnd := by
  rw [Chip.lifeWrite_uz]
  exact ⟨rfl, rfl⟩

theorem revoke_ends (s : State) (who : Who) : (who.sealed = true → Gives (.revoke who) s s.chip.endGrant)
    ∧ (who.sealed = false → Gives (.revoke who) s (s.chip.refuseWrite who .WLD_DBG_GRANT)) := by
  have hput : F.WLD_DBG_GRANT_REVOKE.get (F.WLD_DBG_GRANT_REVOKE.put 0 1) = 1 := Field.get_put _ _ _ (by decide) (by decide)
  refine ⟨fun hw => gives_of_onChip (ok := true) rfl rfl ?_, fun hw => gives_of_onChip (ok := true) rfl rfl ?_⟩
  · exact (if_pos hput).trans (Chip.ifMay_of_true _ _ _ _ hw)
  · exact (if_pos hput).trans (Chip.ifMay_of_false _ _ _ _ hw)

theorem Chip.endGrant_of_some {c : Chip} {e : Nat} (h : c.uz.grantEnd = some e) : c.endGrant =
    ({ c.grantRecord with uz := { c.grantRecord.uz with grantEnd := none } } : Chip).setReg .WLD_DBG_GRANT 0 := by
  rw [Chip.endGrant, if_neg (by simp [h])]

theorem Chip.endGrant_now (c : Chip) : c.endGrant.now = c.now := by
  unfold Chip.endGrant
  split
  · rfl
  · rw [Chip.setReg_now, Chip.grantRecord, Chip.lifeWrite_frame]

theorem debugGrantExpiry_cases (s : State) (e : Nat) (he : s.chip.uz.grantEnd = some e) :
    (e ≤ s.chip.now → Gives .debugGrantExpiry s s.chip.endGrant) ∧ (s.chip.now < e → Gives .debugGrantExpiry s s.chip)
    ∧ s.chip.endGrant.uz.grantEnd = none ∧ s.chip.endGrant.reg .WLD_DBG_GRANT = 0 := by
  have hdoes : Gives .debugGrantExpiry s (if e ≤ s.chip.now then s.chip.endGrant else s.chip) :=
    gives_of_onChip (ok := true) rfl rfl (by rw [he])
  rw [Chip.endGrant_of_some he] at hdoes ⊢
  refine ⟨fun h => ?_, fun h => ?_, rfl, Chip.reg_setReg _ _ _⟩
  · rwa [if_pos h] at hdoes
  · rwa [if_neg (by omega)] at hdoes

theorem ofBytes_lt (l : List Byte) : ofBytes l < 256 ^ l.length := by
  induction l with
  | nil => decide
  | cons b l ih =>
    have hb := b.isLt
    rw [ofBytes, List.length_cons, Nat.pow_succ]
    omega

theorem sliceNum_lt (l : List Byte) (i n : Nat) : sliceNum l i n < 256 ^ n :=
  (ofBytes_lt _).trans_le (Nat.pow_le_pow_right (by decide) (List.length_take_le _ _))

theorem unlockToken_cases (s : State) (token : List Byte) :
    (s.chip.tokenFormOk token = false → Gives (.unlockToken token) s (s.chip.report unitUz 55 0x5000 1 15))
    ∧ (s.chip.tokenFormOk token = true → ∃ t, exec (.unlockToken token) s = .next t ∧ t.chip.uz.nonce = none
      ∧ (Config.tokenSigned token = true → t.chip.uz.grantEnd = some (s.chip.now + sliceNum token 52 4 * 10 ^ 9)
        ∧ t.chip.fld .WLD_DBG_GRANT F.WLD_DBG_GRANT_GRANT_INV = sliceNum token 48 2
        ∧ t.chip.fld .WLD_DBG_GRANT F.WLD_DBG_GRANT_GRANT_NINV = sliceNum token 50 2)
      ∧ (Config.tokenSigned token = false → t.chip.uz.grantEnd = s.chip.uz.grantEnd
        ∧ t.chip.reg .WLD_DBG_GRANT = s.chip.reg .WLD_DBG_GRANT)) := by
  refine ⟨fun h => gives_of_onChip (ok := true) rfl rfl (if_pos (by simp [h])), fun h => ⟨_, gives_of_onChip (ok := true) rfl rfl rfl, ?_⟩⟩
  dsimp only
  rw [Chip.unlock, if_neg (by simp [h])]
  cases hsig : Config.tokenSigned token
  · dsimp only
    rw [if_neg Bool.false_ne_true, if_neg Bool.false_ne_true, Chip.report_frame]
    exact ⟨rfl, fun h => absurd h Bool.false_ne_true, fun _ => ⟨rfl, rfl⟩⟩
  · dsimp only
    rw [if_pos rfl, if_pos rfl, Chip.grantRecord]
    refine ⟨(Chip.lifeWrite_grant _ _ _).1, fun _ => ⟨?_, ?_, ?_⟩, fun h => absurd h.symm Bool.false_ne_true⟩
    · rw [(Chip.lifeWrite_grant _ _ _).2]
      show some (s.chip.endGrant.now + _) = _
      rw [Chip.endGrant_now]
    · rw [Chip.fld_of_reg (Chip.reg_lifeWrite_ne _ _ _ (by decide)), Chip.fld_setFld_apart _ _ _ (by decide),
        Chip.fld_setFld_of_lt _ _ _ (by decide) (by decide) (sliceNum_lt _ _ _)]
    · rw [Chip.fld_of_reg (Chip.reg_lifeWrite_ne _ _ _ (by decide)),
        Chip.fld_setFld_of_lt _ _ _ (by decide) (by decide) (sliceNum_lt _ _ _)]

/-- Settles O46: each command of R291 to R301 by its own lemma above. -/
theorem handOverPower : Obligations.HandOverPower := by
  unfold Obligations.HandOverPower
  refine ⟨release_cases, releaseDone_done, claim_cases, fun s who kind index h1 h3 hi => ?_, powerDownDone_up, powerDownDone_down,
    fun s who w v hw => ⟨fun hmay => ?_, fun hw' hu => ?_⟩, revoke_ends, debugGrantExpiry_cases, unlockToken_cases⟩
  · exact ⟨powerRequests_busy who h1 h3 hi, powerRequests_noUnit h1 h3 hi, fun hb hok hm => powerDownRequest_missing h1 h3 hi hb hok hm,
      fun hb hok hm hhall hpot => powerDownRequest_begins h1 h3 hi hb hok hm hhall hpot, fun hb hok hpot => powerUpRequest_waits h1 h3 hi hb hok hpot,
      fun hb hok hpot => powerUpRequest_restores h1 h3 hi hb hok hpot⟩
  · rw [← Chip.consentWrite_of_may _ _ hmay]
    exact gives_consentWrite s who v hw
  · rw [Chip.refuseWrite, ← Chip.consentWrite_of_not_may _ v hw' hu]
    exact gives_consentWrite s who v hw

end Sys2Proof.Machine
end

section
/-! What the operations on the state of a pair change, and what they leave (R394 to R414). -/

namespace Sys2Proof.Machine

theorem Chip.pairCtl_frame (c : Chip) (u : Line) : c.pairCtl u = { c with link := (c.pairCtl u).link } := by
  unfold Chip.pairCtl
  generalize [24, 25].filter (fun k => c.linkState k == 2) = ks
  generalize hf : (fun (x : Chip) k => let e := x.linkEnd k false
    x.setLinkEnd k false { e with ctl := e.ctl.filter (fun y => y.toNat % 256 != u.toNat % 256) ++ [u] }) = f
  have hstep : ∀ x k, f x k = { x with link := (f x k).link } := fun x k => by rw [← hf]; rfl
  clear hf
  induction ks generalizing c with
  | nil => rfl
  | cons k ks ih => rw [List.foldl_cons, ih, hstep]

-- SOURCE

theorem Chip.noteTargets_frame (c : Chip) : c.noteTargets = { c with regs := c.noteTargets.regs } := by
  unfold Chip.noteTargets
  induction 16 with
  | zero => rfl
  | succ n ih => rw [forUpTo_succ, ih]; rfl

/-- The registers that name no region's status. -/
theorem Chip.reg_noteTargets_ne (c : Chip) {q : Reg} (h : ∀ n, q.offset ≠ (Reg.PAIR_REGION_STATUS n).offset) :
    c.noteTargets.reg q = c.reg q :=
  forUpTo_same (fun x : Chip => x.reg q) (fun n x => x.reg_setBit_ne _ _ (h n)) 16 c

theorem pairStatus_offset_ne (n : Nat) : Reg.PAIR_STATUS.offset ≠ (Reg.PAIR_REGION_STATUS n).offset := by simp only [Reg.offset]; omega

theorem Chip.setSource_frame (c : Chip) (b : Bool) : c.setSource b = { c with regs := (c.setSource b).regs } := by
  rw [Chip.setSource, Chip.noteTargets_frame]
  rfl

theorem Chip.reg_setSource_ne (c : Chip) (b : Bool) {q : Reg} (hs : q.offset ≠ Reg.PAIR_STATUS.offset)
    (hr : ∀ n, q.offset ≠ (Reg.PAIR_REGION_STATUS n).offset) : (c.setSource b).reg q = c.reg q := by
  rw [Chip.setSource, Chip.reg_noteTargets_ne _ hr, Chip.reg_setBit_ne _ _ _ hs]

@[simp] theorem Chip.setSource_isSource (c : Chip) (b : Bool) : (c.setSource b).isSource = b := by
  rw [Chip.isSource, Chip.setSource, Chip.bit_of_reg (Chip.reg_noteTargets_ne _ pairStatus_offset_ne),
    Chip.bit_setBit _ _ _ _ (by decide) (by decide)]

/-- The other fields of PAIR_STATUS. -/
theorem Chip.setSource_fld (c : Chip) (b : Bool) {f : Field} (h : F.PAIR_STATUS_SOURCE.apart f = true) :
    (c.setSource b).fld .PAIR_STATUS f = c.fld .PAIR_STATUS f := by
  rw [Chip.setSource, Chip.fld_of_reg (Chip.reg_noteTargets_ne _ pairStatus_offset_ne), Chip.fld_setBit_apart _ _ _ h]

-- STATE

theorem Chip.pairRecord_frame (c : Chip) : c.pairRecord =
    { c with regs := c.pairRecord.regs, uz := c.pairRecord.uz, fcHold := c.pairRecord.fcHold, fcLost := c.pairRecord.fcLost } :=
  Chip.lifeWrite_frame _ _ _

theorem Chip.reg_pairRecord_ne (c : Chip) {q : Reg} (h : q.offset ≠ Reg.UZ_LR_STATUS.offset) : c.pairRecord.reg q = c.reg q :=
  Chip.reg_lifeWrite_ne _ _ _ h

/-- STATE, the causes of two level faults and an event have been written. -/
def Chip.statedPair (c : Chip) (st : Nat) : Chip :=
  (((c.setFld .PAIR_STATUS F.PAIR_STATUS_STATE st).setCause 34 (st == 6)).setCause 38 (st == 7)).raiseEvent 576

theorem Chip.setPairState_eq (c : Chip) (st : Nat) : c.setPairState st = if c.pairState = st then c
    else (if aliveState st then c.statedPair st else (c.statedPair st).setAliveO false).pairRecord := rfl

theorem Chip.statedPair_frame (c : Chip) (st : Nat) : c.statedPair st =
    { c with regs := (c.statedPair st).regs, msi := (c.statedPair st).msi, free := (c.statedPair st).free } := by
  rw [Chip.statedPair, Chip.raiseEvent_frame]
  rfl

theorem Chip.setPairState_frame (c : Chip) (st : Nat) : c.setPairState st =
    { c with regs := (c.setPairState st).regs, msi := (c.setPairState st).msi, free := (c.setPairState st).free
             uz := (c.setPairState st).uz, fcHold := (c.setPairState st).fcHold, fcLost := (c.setPairState st).fcLost
             pins := (c.setPairState st).pins } := by
  rw [Chip.setPairState_eq]
  split
  · rfl
  · rw [Chip.pairRecord_frame]
    split
    · rw [Chip.statedPair_frame]
    · rw [Chip.statedPair_frame]; rfl

/-- PAIR_STATUS after a change of STATE: its other fields stay. -/
theorem Chip.setPairState_status (c : Chip) (st : Nat) : (c.setPairState st).reg .PAIR_STATUS =
    if c.pairState = st then c.reg .PAIR_STATUS else F.PAIR_STATUS_STATE.put (c.reg .PAIR_STATUS) st := by
  rw [Chip.setPairState_eq]
  split
  · rfl
  · have hstated : (c.statedPair st).reg .PAIR_STATUS = F.PAIR_STATUS_STATE.put (c.reg .PAIR_STATUS) st := by
      rw [Chip.statedPair, Chip.reg_raiseEvent_ne _ _ (by decide), Chip.reg_setCause_ne _ _ _ (by decide),
        Chip.reg_setCause_ne _ _ _ (by decide), Chip.reg_setFld]
    rw [Chip.reg_pairRecord_ne _ (by decide)]
    split
    · exact hstated
    · exact hstated

theorem Chip.setPairState_state (c : Chip) {st : Nat} (h : st < 8) : (c.setPairState st).pairState = st := by
  rw [Chip.pairState, Chip.fld, Chip.setPairState_status]
  split
  next hst => exact hst
  next => rw [Field.get_put _ _ _ (by decide) (by decide)]; exact Nat.mod_eq_of_lt h

theorem Chip.setPairState_fld (c : Chip) (st : Nat) {f : Field} (h : F.PAIR_STATUS_STATE.apart f = true) :
    (c.setPairState st).fld .PAIR_STATUS f = c.fld .PAIR_STATUS f := by
  rw [Chip.fld, Chip.setPairState_status, Chip.fld]
  split
  · rfl
  · exact Field.get_put_apart h _ _

theorem Chip.setPairState_isSource (c : Chip) (st : Nat) : (c.setPairState st).isSource = c.isSource :=
  Chip.bit_of_fld (c.setPairState_fld st (by decide))

-- PAIR_YIELD

theorem Chip.pairYield_frame (c : Chip) : c.pairYield =
    { c with regs := c.pairYield.regs, link := c.pairYield.link, uz := c.pairYield.uz, fcHold := c.pairYield.fcHold
             fcLost := c.pairYield.fcLost, pair := c.pairYield.pair, pins := c.pairYield.pins } := by
  unfold Chip.pairYield
  split
  · rfl
  · dsimp only
    rw [Chip.pairCtl_frame]
    split
    · rw [Chip.pairRecord_frame, Chip.setSource_frame]; rfl
    · rfl

theorem Chip.reg_pairYield_ne (c : Chip) {q : Reg} (hl : q.offset ≠ Reg.UZ_LR_STATUS.offset) (hs : q.offset ≠ Reg.PAIR_STATUS.offset)
    (hr : ∀ n, q.offset ≠ (Reg.PAIR_REGION_STATUS n).offset) : c.pairYield.reg q = c.reg q := by
  unfold Chip.pairYield
  split
  · rfl
  · dsimp only
    rw [Chip.pairCtl_frame]
    split
    · refine (Chip.reg_of_regs rfl q).trans ((Chip.reg_pairRecord_ne _ hl).trans ((Chip.reg_setSource_ne _ _ hs hr).trans ?_))
      rfl
    · rfl

theorem Chip.pairYield_uz (c : Chip) : c.pairYield.uz =
    { c.uz with half0 := c.pairYield.uz.half0, half1 := c.pairYield.uz.half1, nextSeq := c.pairYield.uz.nextSeq
                sram := c.pairYield.uz.sram } := by
  unfold Chip.pairYield
  split
  · rfl
  · dsimp only
    rw [Chip.pairCtl_frame]
    split
    · refine (Chip.lifeWrite_uz _ _ _).trans ?_
      rw [Chip.setSource_frame]
      rfl
    · rfl

end Sys2Proof.Machine
end

section
/-! What a package reset and the main power leave (R419, R420, R456). -/

namespace Sys2Proof.Machine

theorem sget_filter {V : Type} (d : V) {p : Nat → Bool} {k : Nat} (h : p k = true) (m : Sparse V) :
    sget d k (m.filter (fun e => p e.1)) = sget d k m := by
  induction m with
  | nil => rfl
  | cons e m ih =>
    obtain ⟨j, v⟩ := e
    by_cases hj : j = k
    · rw [List.filter_cons_of_pos (by simp [hj, h]), sget, sget, if_pos hj, if_pos hj]
    · rw [sget, if_neg hj, ← ih]
      by_cases hp : p j = true
      · rw [List.filter_cons_of_pos (by simpa using hp), sget, if_neg hj]
      · rw [List.filter_cons_of_neg (by simpa using hp)]

-- a debug grant ends

theorem Chip.endGrant_frame (c : Chip) : c.endGrant =
    { c with regs := c.endGrant.regs, uz := c.endGrant.uz, fcHold := c.endGrant.fcHold, fcLost := c.endGrant.fcLost } := by
  unfold Chip.endGrant
  split
  · rfl
  · dsimp only
    rw [Chip.grantRecord, Chip.lifeWrite_frame]
    rfl

theorem Chip.reg_endGrant_ne (c : Chip) {q : Reg} (hl : q.offset ≠ Reg.UZ_LR_STATUS.offset) (hg : q.offset ≠ Reg.WLD_DBG_GRANT.offset) :
    c.endGrant.reg q = c.reg q := by
  unfold Chip.endGrant
  split
  · rfl
  · dsimp only
    rw [Chip.reg_setReg_ne _ _ hg]
    exact Chip.reg_lifeWrite_ne _ _ _ hl

theorem Chip.endGrant_uz (c : Chip) : c.endGrant.uz =
    { c.uz with half0 := c.endGrant.uz.half0, half1 := c.endGrant.uz.half1, nextSeq := c.endGrant.uz.nextSeq
                sram := c.endGrant.uz.sram, grantEnd := c.endGrant.uz.grantEnd } := by
  unfold Chip.endGrant
  split
  · rfl
  · dsimp only
    rw [Chip.grantRecord, Chip.setReg_uz, Chip.lifeWrite_uz]

-- a package held in reset

theorem Chip.restoreBanks_frame (c : Chip) (p : Nat → Bool) : c.restoreBanks p = { c with banks := (c.restoreBanks p).banks } := rfl

/-- What a package reset leaves of Uzomuris. -/
theorem Chip.heldReset_uz (c : Chip) : c.heldReset.uz = { c.endGrant.uz with resetPending := false, nonce := none } := by
  unfold Chip.heldReset
  dsimp only
  rw [forUpTo_same Chip.uz fun i x => ?_]
  · rfl
  · split <;> rfl

theorem Chip.heldReset_reg (c : Chip) {q : Reg} (hk : keptReg q.offset = true) (hf : ∀ i, i < 6 → q.offset ≠ (Reg.FC_SRC (i + 1)).offset) :
    c.heldReset.reg q = c.endGrant.reg q := by
  unfold Chip.heldReset
  dsimp only
  rw [forUpTo_same_of_lt (fun x : Chip => x.reg q) 6 fun i hi x => ?_]
  · exact sget_filter _ hk _
  · split
    · exact Chip.reg_setCause_ne _ _ _ (hf i hi)
    · rfl

/-- The registers of Uzomuris but the one that describes the journal. -/
theorem Chip.heldReset_uzReg (c : Chip) {q : Reg} (h5 : 0x50000 ≤ q.offset) (h6 : q.offset < 0x60000)
    (hl : q.offset ≠ Reg.UZ_LR_STATUS.offset) : c.heldReset.reg q = c.reg q := by
  rw [c.heldReset_reg (by simp [keptReg, h5, h6]) fun i hi => ?_, Chip.reg_endGrant_ne _ hl]
  · have e : Reg.WLD_DBG_GRANT.offset = 0x30608 := rfl
    omega
  · have e : (Reg.FC_SRC (i + 1)).offset = 0x11000 + (i + 1) * 8 := rfl
    omega

-- a power-off

/-- Every die is held in reset and the main rails are off. -/
def Chip.poweredOff (c : Chip) : Chip := c.pairYield.heldReset.mainsOff

theorem Pkg.powerOffAll_eq (p : Pkg) : p.powerOffAll =
    if p.chip.uz.on && p.chip.mainsUp then (p.onChip Chip.poweredOff).dropDram else p := rfl

theorem Chip.poweredOff_uzReg (c : Chip) {q : Reg} (h5 : 0x50000 ≤ q.offset) (h6 : q.offset < 0x60000)
    (hl : q.offset ≠ Reg.UZ_LR_STATUS.offset) : c.poweredOff.reg q = c.reg q := by
  refine (Chip.heldReset_uzReg _ h5 h6 hl).trans (Chip.reg_pairYield_ne _ hl ?_ fun n => ?_)
  · have e : Reg.PAIR_STATUS.offset = 0x60010 := rfl
    omega
  · have e : (Reg.PAIR_REGION_STATUS n).offset = 0x60118 + n * 0x20 := rfl
    omega

theorem Chip.poweredOff_uz (c : Chip) : c.poweredOff.uz.lastAnswer = c.uz.lastAnswer ∧ c.poweredOff.uz.mainsOn = false := by
  refine ⟨?_, rfl⟩
  show c.pairYield.heldReset.uz.lastAnswer = _
  rw [Chip.heldReset_uz, Chip.endGrant_uz, Chip.pairYield_uz]

end Sys2Proof.Machine
end

section
/-! The life record and the management services (R423 to R432). -/

namespace Sys2Proof.Machine

-- the journal

theorem UzSt.half_setHalf (u : UzSt) (h : Nat) (l : List JRec) : (u.setHalf h l).half h = l := by
  unfold UzSt.setHalf UzSt.half
  split <;> rfl

theorem Chip.lrHalf_lt (c : Chip) : c.lrHalf < 2 := Field.get_lt _ _

/-- The record that a write of the life record makes. -/
def Chip.newRecord (c : Chip) (type : Nat) (l : List Byte) : JRec :=
  { seq := c.uz.nextSeq, type := type, time := c.now, boot := c.uz.boot, payload := l }

theorem lifeRecordWrite_does {s : State} {type : Nat} {l : List Byte} (ht : type < 65536) (hl : l.length ≤ 224) :
    Gives (.lifeRecordWrite type l) s (s.chip.lifeWrite type l) := gives_of_onChip rfl (by simp [ht, hl]) rfl

theorem lifeRecordWrite_cases (s : State) (type : Nat) (l : List Byte) (ht : type < 65536) (hl : l.length ≤ 224) : let h := s.chip.lrHalf
    let r : JRec := { seq := s.chip.uz.nextSeq, type := type, time := s.chip.now, boot := s.chip.uz.boot, payload := l }
    let i := Instr.lifeRecordWrite type l
    (s.chip.uz.on = true → s.chip.uz.formatted = true → s.chip.compacting = false → (s.chip.uz.half h).length < 32767 →
      ∃ t, exec i s = .next t ∧ t.chip.uz.half h = s.chip.uz.half h ++ [r]
        ∧ t.chip.uz.nextSeq = s.chip.uz.nextSeq + 1
        ∧ t.chip.fld .UZ_LR_STATUS F.UZ_LR_STATUS_RECORDS = (s.chip.uz.half h).length + 1)
    ∧ (s.chip.uz.on = true → s.chip.uz.formatted = true → s.chip.compacting = true → s.chip.uz.sram.length < 1024 →
      Gives i s { s.chip with uz := { s.chip.uz with sram := s.chip.uz.sram ++ [r] } })
    ∧ (s.chip.uz.on = true → s.chip.uz.formatted = true → s.chip.compacting = false → 32767 ≤ (s.chip.uz.half h).length →
      Gives i s (s.chip.uzFault 50))
    ∧ (s.chip.uz.on = false ∨ s.chip.uz.formatted = false → Gives i s s.chip) := by
  intro h r i
  have hdoes : Gives i s (s.chip.lifeWrite type l) := lifeRecordWrite_does ht hl
  refine ⟨fun hon hfmt hcomp hlen => ⟨_, hdoes, ?_⟩, fun hon hfmt hcomp hlen => ?_, fun hon hfmt hcomp hlen => ?_, fun hoff => ?_⟩
  · replace hlen : (s.chip.uz.half s.chip.lrHalf).length < 32767 := hlen
    dsimp only
    unfold Chip.lifeWrite
    rw [if_neg (by simp [hon, hfmt])]
    dsimp only
    rw [if_neg (by simp [hcomp]), if_pos hlen]
    refine ⟨UzSt.half_setHalf _ _ _, rfl, ?_⟩
    rw [Chip.fld_setFld_of_lt _ _ _ (by decide) (by decide)]
    · exact List.length_append
    · have : F.UZ_LR_STATUS_RECORDS.width = 16 := rfl
      rw [this, List.length_append, List.length_singleton]
      omega
  · rw [Chip.lifeWrite, if_neg (by simp [hon, hfmt])] at hdoes
    dsimp only at hdoes
    rwa [if_pos hcomp, if_pos hlen] at hdoes
  · rw [Chip.lifeWrite, if_neg (by simp [hon, hfmt])] at hdoes
    dsimp only at hdoes
    rwa [if_neg (by simp [hcomp]), if_neg (Nat.not_lt.2 hlen)] at hdoes
  · rwa [Chip.lifeWrite, if_pos (by simpa using hoff)] at hdoes

/-- A record is 256 bytes, the CRC of the others first (R427). -/
theorem JRec.bytes_crc (r : JRec) : r.bytes.length = 256 ∧ r.bytes.take 4 = toBytes 4 (crc32c (r.bytes.drop 4)) := by
  have hpad : ((r.payload ++ List.replicate (224 - r.payload.length) 0).take 224).length = 224 := by
    rw [List.length_take, List.length_append, List.length_replicate]
    omega
  unfold JRec.bytes
  dsimp only
  refine ⟨?_, ?_⟩
  · simp only [List.length_append, length_toBytes, hpad]
  · rw [List.take_left' (length_toBytes 4 _), List.drop_left' (length_toBytes 4 _)]

-- a compaction

theorem compaction_cases (s : State) : let n := (s.chip.uz.half s.chip.lrHalf).length
    (s.chip.uz.on = true → s.chip.compacting = false → 24576 ≤ n →
      Gives .compaction s (s.chip.setBit .UZ_LR_STATUS F.UZ_LR_STATUS_COMPACTING true))
    ∧ (n < 24576 ∨ s.chip.compacting = true → Gives .compaction s s.chip) := by
  intro n
  refine ⟨fun hon hcomp hn => gives_of_onChip (ok := true) rfl rfl (if_pos (by simp [hon, hcomp, n] at hn ⊢; exact hn)),
    fun h => gives_of_onChip (ok := true) rfl rfl (if_neg ?_)⟩
  rcases h with h | h
  · simp [Nat.not_le.2 h, n]
  · simp [h]

theorem Chip.noteJournal_frame (c : Chip) : c.noteJournal = { c with regs := c.noteJournal.regs } := rfl

/-- What the journal notes in UZ_LR_STATUS leaves its other fields. -/
theorem Chip.noteJournal_fld (c : Chip) {f : Field} (hr : F.UZ_LR_STATUS_RECORDS.apart f = true) (hg : F.UZ_LR_STATUS_GEN.apart f = true) :
    c.noteJournal.fld .UZ_LR_STATUS f = c.fld .UZ_LR_STATUS f := by
  rw [Chip.noteJournal, Chip.fld_setFld_apart _ _ _ hg, Chip.fld_setFld_apart _ _ _ hr]

/-- The end of a compaction: Uzomuris's new contents, and the other half in force. -/
theorem Chip.compactDone_fields (c : Chip) (u : UzSt) (h : Nat) (hh : h < 2) :
    let d := (((c.onUz (fun _ => u)).setBit .UZ_LR_STATUS F.UZ_LR_STATUS_COMPACTING false).setFld .UZ_LR_STATUS F.UZ_LR_STATUS_HALF
      h).noteJournal
    d.compacting = false ∧ d.lrHalf = h ∧ d.uz = u := by
  intro d
  refine ⟨?_, ?_, rfl⟩
  · rw [Chip.compacting, Chip.bit_of_fld (Chip.noteJournal_fld _ (by decide) (by decide)), Chip.bit_setFld_apart _ _ _ (by decide),
      Chip.bit_setBit _ _ _ _ (by decide) (by decide)]
  · rw [Chip.lrHalf, Chip.noteJournal_fld _ (by decide) (by decide), Chip.fld_setFld_of_lt _ _ _ (by decide) (by decide) hh]

/-- The half that a compaction fills is numbered on. -/
theorem seq_of_numbered (body : List JRec) (n k : Nat) (r : JRec)
    (h : (body.zipIdx.map (fun e => { e.1 with seq := n + e.2 }))[k]? = some r) : r.seq = n + k := by
  rw [List.getElem?_map, List.getElem?_zipIdx] at h
  cases hb : body[k]? with
  | none => simp [hb] at h
  | some b =>
    simp only [hb, Option.map_some, Option.some.injEq] at h
    rw [← h]
    simp

theorem compactionDone_cases (s : State) :
    (s.chip.compacting = true → ∃ t, exec .compactionDone s = .next t ∧ t.chip.compacting = false
      ∧ t.chip.lrHalf = 1 - s.chip.lrHalf ∧ t.chip.uz.sram = []
      ∧ t.chip.uz.gen (1 - s.chip.lrHalf) = s.chip.uz.gen s.chip.lrHalf + 1
      ∧ ∀ (k : Nat) (r : JRec), (t.chip.uz.half (1 - s.chip.lrHalf))[k]? = some r → r.seq = s.chip.uz.nextSeq + 1 + k)
    ∧ (s.chip.compacting = false → Gives .compactionDone s s.chip) := by
  refine ⟨fun hcomp => ⟨_, gives_of_onChip (ok := true) rfl rfl rfl, ?_⟩,
    fun hcomp => gives_of_onChip (ok := true) rfl rfl (if_pos (by simp [hcomp]))⟩
  dsimp only
  unfold Chip.compactDone
  rw [if_neg (by simp [hcomp])]
  dsimp only
  generalize latestKept _ ++ _ ++ _ ++ _ = body
  obtain ⟨h1, h2, h3⟩ := Chip.compactDone_fields s.chip _ (1 - s.chip.lrHalf) (by omega)
  refine ⟨h1, h2, ?_⟩
  rw [h3]
  refine ⟨rfl, ?_, ?_⟩
  · have hlt := s.chip.lrHalf_lt
    generalize s.chip.lrHalf = h at hlt
    have hh : h = 0 ∨ h = 1 := by omega
    rcases hh with rfl | rfl <;> rfl
  · intro k r hr
    refine seq_of_numbered body (s.chip.uz.nextSeq + 1) k r ?_
    rw [← UzSt.half_setHalf s.chip.uz (1 - s.chip.lrHalf) (body.zipIdx.map _)]
    exact hr

-- a record read back

/-- Registers that a loop loads, no two at one place. -/
theorem reg_forUpTo_setReg {R : Nat → Reg} {g : Nat → Word} (n : Nat) (c : Chip)
    (hinj : ∀ i j, i < n → j < n → i ≠ j → (R i).offset ≠ (R j).offset) {j : Nat} (hj : j < n) :
    (forUpTo n (fun k y => y.setReg (R k) (g k)) c).reg (R j) = g j := by
  induction n with
  | zero => omega
  | succ n ih =>
    rw [forUpTo_succ]
    by_cases h : j = n
    · rw [h, Chip.reg_setReg]
    · rw [Chip.reg_setReg_ne _ _ (hinj j n hj (by omega) h)]
      exact ih (fun i j hi hj => hinj i j (by omega) (by omega)) (by omega)

theorem uzLrReadWrite_cases (s : State) (who : Who) (v : Word) : let k := F.UZ_LR_READ_INDEX.get v
    (who.sealed = true → ∀ r, s.chip.recordAt k = some r → ∃ t, exec (.uzLrReadWrite who v) s = .next t
      ∧ t.chip.bit .UZ_LR_READ F.UZ_LR_READ_VALID = true
      ∧ ∀ j, j < 32 → t.chip.reg (.UZ_LR_DATA j) = BitVec.ofNat 64 (sliceNum r.bytes (8 * j) 8))
    ∧ (who.sealed = true → s.chip.recordAt k = none → ∃ t, exec (.uzLrReadWrite who v) s = .next t
      ∧ t.chip.bit .UZ_LR_READ F.UZ_LR_READ_VALID = false)
    ∧ (who.sealed = false → Gives (.uzLrReadWrite who v) s (s.chip.refuseWrite who .UZ_LR_READ)) := by
  intro k
  have hdoes : who.sealed = true → Gives (.uzLrReadWrite who v) s (match s.chip.recordAt k with
      | none => (s.chip.setFld .UZ_LR_READ F.UZ_LR_READ_INDEX k).setBit .UZ_LR_READ F.UZ_LR_READ_VALID false
      | some r => (forUpTo 32 (fun j y => y.setReg (.UZ_LR_DATA j) (BitVec.ofNat 64 (sliceNum r.bytes (8 * j) 8)))
          (s.chip.setFld .UZ_LR_READ F.UZ_LR_READ_INDEX k)).setBit .UZ_LR_READ F.UZ_LR_READ_VALID true) := fun hw =>
    gives_of_onChip (ok := true) rfl rfl (Chip.ifMay_of_true _ _ _ _ hw)
  refine ⟨fun hw r hr => ⟨_, hdoes hw, ?_⟩, fun hw hr => ⟨_, hdoes hw, ?_⟩,
    fun hw => gives_of_onChip (ok := true) rfl rfl (Chip.ifMay_of_false _ _ _ _ hw)⟩
  · rw [hr]
    refine ⟨Chip.bit_setBit _ _ _ _ (by decide) (by decide), fun j hj => ?_⟩
    dsimp only
    rw [Chip.reg_setBit_ne _ _ _ (by simp only [Reg.offset]; omega)]
    exact reg_forUpTo_setReg (R := fun j => .UZ_LR_DATA j) 32 _ (fun i j _ _ h => by simp only [Reg.offset]; omega) hj
  · rw [hr]
    exact Chip.bit_setBit _ _ _ _ (by decide) (by decide)

-- the hourly records

/-- What a record leaves of the supply registers. -/
theorem Chip.lifeWrite_supply (c : Chip) (t : Nat) (l : List Byte) (d : Nat) :
    (c.lifeWrite t l).reg (.CD_SUPPLY_STATUS d) = c.reg (.CD_SUPPLY_STATUS d) :=
  Chip.reg_lifeWrite_ne _ _ _ (by simp only [Reg.offset]; omega)

theorem vminRecords (n : Nat) (c : Chip) {d : Nat} (hd : d < n) :
    ((List.range n).foldl (fun (x : Chip) d => x.vminRecord d) c).fld (.CD_SUPPLY_STATUS d) F.CD_SUPPLY_STATUS_V_MIN_MV = 1023 := by
  induction n with
  | zero => omega
  | succ n ih =>
    rw [List.range_succ, List.foldl_append, List.foldl_cons, List.foldl_nil, Chip.vminRecord]
    by_cases h : d = n
    · rw [h, Chip.fld_setFld_of_lt _ _ _ (by decide) (by decide) (by decide)]
    · rw [Chip.fld_setFld_ne _ _ _ _ (by simp only [Reg.offset]; omega), Chip.fld_of_reg (Chip.lifeWrite_supply _ _ _ _)]
      exact ih (by omega)

theorem Chip.hourly_supply {c : Chip} (hon : c.uz.on = true) {d : Nat} (hd : d < 12) :
    c.hourly.fld (.CD_SUPPLY_STATUS d) F.CD_SUPPLY_STATUS_V_MIN_MV = 1023 := by
  have hcount : ∀ (type n k : Nat) (x : Chip), ((List.range k).foldl (fun (x : Chip) u =>
      x.nextFree.lifeWrite type (toBytes 8 u ++ freeBytes n x.free)) x).reg (.CD_SUPPLY_STATUS d) = x.reg (.CD_SUPPLY_STATUS d) :=
    fun type n k x => foldl_same (fun x : Chip => x.reg (.CD_SUPPLY_STATUS d))
      (fun x u => (Chip.lifeWrite_supply x.nextFree type (toBytes 8 u ++ freeBytes n x.free) d).trans (Chip.reg_of_regs rfl _)) _ x
  have htotals : ∀ (ls : List (List Byte)) (x : Chip), (ls.foldl (fun (x : Chip) l => x.lifeWrite 0x42 l) x).reg (.CD_SUPPLY_STATUS d)
      = x.reg (.CD_SUPPLY_STATUS d) :=
    fun ls x => foldl_same (fun x : Chip => x.reg (.CD_SUPPLY_STATUS d)) (fun x _ => Chip.lifeWrite_supply _ _ _ d) _ x
  unfold Chip.hourly
  rw [if_neg (by simp [hon])]
  dsimp only
  rw [← vminRecords 12 _ hd]
  refine Chip.fld_of_reg ?_ _
  rw [Chip.saySummary_reg, Chip.lifeWrite_supply]
  have hcnt : ∀ x : Chip, ({ x with cntNew := [] } : Chip).reg (.CD_SUPPLY_STATUS d) = x.reg (.CD_SUPPLY_STATUS d) := fun x => rfl
  rw [Chip.reg_of_regs (Chip.nextFree_regs _), htotals, hcnt, hcount]
  rw [Chip.linkRecord, Chip.lifeWrite_supply, Chip.lifeWrite_supply]

theorem hourlyRecords_cases (s : State) : (s.chip.uz.on = true → ∃ t, exec .hourlyRecords s = .next t ∧ ∀ d, d < 12 →
      t.chip.fld (.CD_SUPPLY_STATUS d) F.CD_SUPPLY_STATUS_V_MIN_MV = 1023)
    ∧ (s.chip.uz.on = false → Gives .hourlyRecords s s.chip) :=
  ⟨fun hon => ⟨_, gives_of_onChip (ok := true) rfl rfl rfl, fun _ hd => Chip.hourly_supply hon hd⟩,
    fun hoff => gives_of_onChip (ok := true) rfl rfl (if_pos (by simp [hoff]))⟩

-- requests on the bindings

theorem exec_manage {i : Instr} {q : Manage} {type op : Nat} {l : List Byte} {st : PkgStart} (hst : pkgStartOk st = true)
    (hi : (i = .mctpMessage type l st ∧ type < 256 ∧ q = manageOf type l) ∨ (i = .redfishRequest op l st ∧ op < 5 ∧ q = redfishOf op l))
    (s : State) : GivesPkg i s (s.toPkg.serve q st) := by
  rcases hi with ⟨rfl, ht, rfl⟩ | ⟨rfl, hop, rfl⟩
  · exact givesPkg_of_onPkg rfl (by simp [ht, hst]) rfl
  · exact givesPkg_of_onPkg rfl (by simp [hop, hst]) rfl

theorem Pkg.serve_off {p : Pkg} (q : Manage) (st : PkgStart) (h : p.chip.uz.on = false) : p.serve q st = p := if_pos (by simp [h])

theorem Pkg.serve_on {p : Pkg} (st : PkgStart) (h : p.chip.uz.on = true) : p.serve .reset st = p.resetPackage st
    ∧ p.serve .powerOff st = p.powerOffAll ∧ p.serve .powerOn st = p.mainOn (!p.chip.cool) st :=
  have hon : ¬(!p.chip.uz.on) = true := by simp [h]
  ⟨if_neg hon, if_neg hon, if_neg hon⟩

theorem Pkg.serve_manage {p : Pkg} {q : Manage} {st : PkgStart} (hon : p.chip.uz.on = true) (h1 : q ≠ .reset) (h2 : q ≠ .powerOff)
    (h3 : q ≠ .powerOn) : p.serve q st = p.onChip (fun c => c.manage q) := by
  unfold Pkg.serve
  rw [if_neg (by simp [hon])]
  split
  · exact absurd rfl h1
  · exact absurd rfl h2
  · exact absurd rfl h3
  · rfl

theorem Chip.firmware_below {c : Chip} {image : List Byte} (h : sliceNum image 0 4 < c.uz.minVer) : c.firmware image = c := if_pos h

theorem Chip.firmware_taken {c : Chip} {image : List Byte} (h : c.uz.minVer ≤ sliceNum image 0 4) : (c.firmware image).uz.slotVer =
    c.uz.slotVer.set (1 - c.fld .UZ_STATUS F.UZ_STATUS_FW_SLOT) (sliceNum image 0 4) := by
  rw [Chip.firmware, if_neg (Nat.not_lt.2 h)]
  rfl

theorem manage_cases (s : State) (i : Instr) (q : Manage) (type op : Nat) (l : List Byte) (st : PkgStart) (hst : pkgStartOk st = true)
    (hi : (i = .mctpMessage type l st ∧ type < 256 ∧ q = manageOf type l) ∨ (i = .redfishRequest op l st ∧ op < 5 ∧ q = redfishOf op l)) :
    (s.chip.uz.on = false → Gives i s s.chip)
    ∧ (s.chip.uz.on = true → q = .reset → GivesPkg i s (s.toPkg.resetPackage st))
    ∧ (s.chip.uz.on = true → q = .powerOff → GivesPkg i s s.toPkg.powerOffAll)
    ∧ (s.chip.uz.on = true → q = .powerOn → GivesPkg i s (s.toPkg.mainOn (!s.chip.cool) st))
    ∧ (s.chip.uz.on = true → q = .nonce → ∃ t, exec i s = .next t ∧ t.chip.uz.nonce = some t.chip.uz.lastAnswer)
    ∧ (∀ k, s.chip.uz.on = true → q = .record k → ∃ t, exec i s = .next t
      ∧ t.chip.uz.lastAnswer = (match s.chip.recordAt k with | some r => r.bytes | none => []))
    ∧ (∀ image, s.chip.uz.on = true → q = .firmware image → sliceNum image 0 4 < s.chip.uz.minVer →
      ∃ t, exec i s = .next t ∧ t.chip.uz.slotVer = s.chip.uz.slotVer ∧ t.chip.uz.slotOk = s.chip.uz.slotOk)
    ∧ (∀ image, s.chip.uz.on = true → q = .firmware image → s.chip.uz.minVer ≤ sliceNum image 0 4 →
      ∃ t, exec i s = .next t ∧ t.chip.uz.slotVer =
        s.chip.uz.slotVer.set (1 - s.chip.fld .UZ_STATUS F.UZ_STATUS_FW_SLOT) (sliceNum image 0 4)) := by
  have hdoes := exec_manage hst hi s
  have hmanage : s.chip.uz.on = true → q ≠ .reset → q ≠ .powerOff → q ≠ .powerOn → Gives i s (s.chip.manage q) := fun hon h1 h2 h3 => by
    rw [Pkg.serve_manage hon h1 h2 h3] at hdoes
    exact hdoes
  refine ⟨fun hoff => ?_, fun hon hq => ?_, fun hon hq => ?_, fun hon hq => ?_, fun hon hq => ?_, fun k hon hq => ?_,
    fun image hon hq hv => ?_, fun image hon hq hv => ?_⟩
  · rw [Pkg.serve_off _ _ hoff] at hdoes
    exact hdoes
  · rwa [hq, (Pkg.serve_on st hon).1] at hdoes
  · rwa [hq, (Pkg.serve_on st hon).2.1] at hdoes
  · rwa [hq, (Pkg.serve_on st hon).2.2] at hdoes
  · exact ⟨_, hmanage hon (by simp [hq]) (by simp [hq]) (by simp [hq]), by rw [hq]; rfl⟩
  · exact ⟨_, hmanage hon (by simp [hq]) (by simp [hq]) (by simp [hq]), by rw [hq]; rfl⟩
  · refine ⟨_, hmanage hon (by simp [hq]) (by simp [hq]) (by simp [hq]), ?_⟩
    rw [hq]
    show (s.chip.nextFree.firmware image).uz.slotVer = _ ∧ (s.chip.nextFree.firmware image).uz.slotOk = _
    rw [Chip.firmware_below (c := s.chip.nextFree) hv]
    exact ⟨rfl, rfl⟩
  · refine ⟨_, hmanage hon (by simp [hq]) (by simp [hq]) (by simp [hq]), ?_⟩
    rw [hq]
    exact Chip.firmware_taken (c := s.chip.nextFree) hv

-- mailboxes

theorem mbxCtl_sound (k : Nat) : (Reg.UZ_MBX_CTL k).sound := by
  rw [Reg.sound, Reg.fields]; decide

theorem uzMbxGo_cases (s : State) (who : Who) (k : Nat) (v : Word) (hk : k < 16) (hgo : F.UZ_MBX_CTL_GO.get v = 1) : let r := Reg.UZ_MBX_CTL k
    let n := F.UZ_MBX_CTL_LEN.get v
    (s.chip.mayMbx who k = true → s.chip.bit r F.UZ_MBX_CTL_BUSY = false → 1 ≤ n → n ≤ 248 →
      ∃ t, exec (.uzMbxGo who k v) s = .next t ∧ t.chip.bit r F.UZ_MBX_CTL_BUSY = true
        ∧ t.chip.fld r F.UZ_MBX_CTL_LEN = n)
    ∧ (s.chip.mayMbx who k = true → s.chip.bit r F.UZ_MBX_CTL_BUSY = true ∨ n = 0 ∨ 248 < n →
      ∃ t, exec (.uzMbxGo who k v) s = .next t ∧ t.chip.bit r F.UZ_MBX_CTL_REFUSED = true)
    ∧ (s.chip.mayMbx who k = false → Gives (.uzMbxGo who k v) s (s.chip.refuseWrite who r)) := by
  intro r n
  have hok : (decide (k < 16) && F.UZ_MBX_CTL_GO.get v == 1) = true := by simp [hk, hgo]
  have hdoes : s.chip.mayMbx who k = true → Gives (.uzMbxGo who k v) s
      (if s.chip.bit r F.UZ_MBX_CTL_BUSY || n == 0 || 248 < n then (s.chip.storeFields r v).setBit r F.UZ_MBX_CTL_REFUSED true
        else (s.chip.storeFields r v).setBit r F.UZ_MBX_CTL_BUSY true) := fun hmay => by
    refine gives_of_onChip rfl hok ?_
    unfold Chip.uzMbxWrite
    rw [Chip.ifMay_of_true _ _ _ _ hmay]
    exact if_neg (not_not.2 hgo)
  refine ⟨fun hmay hbusy h1 h2 => ⟨_, hdoes hmay, ?_⟩, fun hmay hbad => ⟨_, hdoes hmay, ?_⟩,
    fun hmay => gives_of_onChip rfl hok (by unfold Chip.uzMbxWrite; exact Chip.ifMay_of_false _ _ _ _ hmay)⟩
  · have hn : ¬(s.chip.bit r F.UZ_MBX_CTL_BUSY || n == 0 || 248 < n) = true := by
      simp only [hbusy, Bool.false_or, Bool.or_eq_true, beq_iff_eq, decide_eq_true_eq]
      omega
    rw [if_neg hn]
    refine ⟨Chip.bit_setBit _ _ _ _ (by decide) (by decide), ?_⟩
    dsimp only
    rw [Chip.fld_setBit_apart _ _ _ (by decide),
      Chip.fld_storeFields _ v (mbxCtl_sound k) (by simp [Reg.fields]) (Or.inr rfl) rfl (by decide) (by decide)]
  · rw [if_pos (by simpa [or_assoc] using hbad)]
    exact Chip.bit_setBit _ _ _ _ (by decide) (by decide)

-- Uzomuris answers a mailbox

theorem mbxData_inj {k i j : Nat} (h : i ≠ j) : (Reg.UZ_MBX_DATA k i).offset ≠ (Reg.UZ_MBX_DATA k j).offset := by
  simp only [Reg.offset]
  omega

theorem Chip.mbxAnswered_ctl (c : Chip) (i : Nat) : (c.mbxAnswered i).bit (.UZ_MBX_CTL i) F.UZ_MBX_CTL_BUSY = false := by
  rw [Chip.mbxAnswered, Chip.bit_of_reg (Chip.reg_raiseEvent_ne _ _ (by simp only [Reg.offset]; omega)),
    Chip.bit_setBit _ _ _ _ (by decide) (by decide)]

theorem Chip.mbxAnswered_data (c : Chip) (i : Nat) {j : Nat} (hi : i < 16) (hj : j < 31) :
    (c.mbxAnswered i).reg (.UZ_MBX_DATA i j) = BitVec.ofNat 64 (sliceNum c.uz.lastAnswer (8 * j) 8) := by
  rw [Chip.mbxAnswered, Chip.reg_raiseEvent_ne _ _ (by simp only [Reg.offset]; omega),
    Chip.reg_setBit_ne _ _ _ (by simp only [Reg.offset]; omega)]
  exact reg_forUpTo_setReg (R := fun j => .UZ_MBX_DATA i j) 31 _ (fun _ _ _ _ h => mbxData_inj h) hj

theorem Chip.mbxAnswered_mainsUp (c : Chip) (i : Nat) : (c.mbxAnswered i).mainsUp = c.mainsUp := by
  rw [Chip.mbxAnswered, Chip.raiseEvent_frame]
  exact forUpTo_inv (fun x : Chip => x.mainsUp = c.mainsUp) _ _ _ rfl fun _ _ h => h

/-- The owner of mailbox i may ask for what its message asks for. -/
def Chip.mbxOk (c : Chip) (i : Nat) : Bool := manageMay (c.fld (.WLD_UZMB_OWN i) F.WLD_OWN_OWNER) (c.mbxRequest i)

/-- The request of mailbox i is served, as a read where its owner may not ask for it; a reset it grants waits. -/
def Chip.mbxServed (c : Chip) (i : Nat) : Chip :=
  let d := c.manage (if c.mbxOk i then c.mbxRequest i else .read)
  if c.mbxOk i && c.mbxRequest i == .reset then d.onUz (fun u => { u with resetPending := true }) else d

theorem Pkg.mbxAnswer_busy {p : Pkg} {i : Nat} (hon : p.chip.uz.on = true) (hbusy : p.chip.bit (.UZ_MBX_CTL i) F.UZ_MBX_CTL_BUSY = true) :
    p.mbxAnswer i = if p.chip.mbxOk i && p.chip.mbxRequest i == .powerOff then
      ({ p with chip := (p.chip.mbxServed i).mbxAnswered i } : Pkg).powerOffAll
    else { p with chip := (p.chip.mbxServed i).mbxAnswered i } := if_neg (by simp [hon, hbusy])

/-- What Uzomuris's answer leaves, be it followed by a power-off or not. -/
theorem Pkg.mbxAnswer_uzReg {p : Pkg} {i : Nat} (hon : p.chip.uz.on = true) (hbusy : p.chip.bit (.UZ_MBX_CTL i) F.UZ_MBX_CTL_BUSY = true) :
    (p.mbxAnswer i).chip.uz.lastAnswer = (p.chip.mbxServed i).uz.lastAnswer
      ∧ ∀ q : Reg, 0x50000 ≤ q.offset → q.offset < 0x60000 → q.offset ≠ Reg.UZ_LR_STATUS.offset →
        (p.mbxAnswer i).chip.reg q = ((p.chip.mbxServed i).mbxAnswered i).reg q := by
  rw [Pkg.mbxAnswer_busy hon hbusy]
  split
  · rw [Pkg.powerOffAll_eq]
    split
    · exact ⟨(Chip.poweredOff_uz _).1.trans (by rw [Chip.mbxAnswered_uz]), fun q h5 h6 hl => Chip.poweredOff_uzReg _ h5 h6 hl⟩
    · exact ⟨by rw [Chip.mbxAnswered_uz], fun _ _ _ _ => rfl⟩
  · exact ⟨by rw [Chip.mbxAnswered_uz], fun _ _ _ _ => rfl⟩

theorem Chip.mbxServed_read {c : Chip} {i : Nat} (hok : c.mbxOk i = false) : (c.mbxServed i).uz.resetPending = c.uz.resetPending := by
  rw [Chip.mbxServed, hok]
  rfl

theorem Chip.mbxServed_reset {c : Chip} {i : Nat} (hok : c.mbxOk i = true) (hq : c.mbxRequest i = .reset) :
    (c.mbxServed i).uz.resetPending = true := by
  rw [Chip.mbxServed, hok, hq]
  rfl

theorem Chip.mbxServed_powerOff {c : Chip} {i : Nat} (hok : c.mbxOk i = true) (hq : c.mbxRequest i = .powerOff) :
    (c.mbxServed i).uz.on = c.uz.on ∧ (c.mbxServed i).mainsUp = c.mainsUp := by
  rw [Chip.mbxServed, hok, hq]
  exact ⟨rfl, rfl⟩

theorem Chip.mbxOk_of_owner {c : Chip} {i : Nat} (h : c.fld (.WLD_UZMB_OWN i) F.WLD_OWN_OWNER = 1) : c.mbxOk i = true := by
  rw [Chip.mbxOk, h]
  cases c.mbxRequest i <;> rfl

theorem Chip.mbxOk_reset {c : Chip} {i : Nat} (hq : c.mbxRequest i = .reset) (h : c.fld (.WLD_UZMB_OWN i) F.WLD_OWN_OWNER ≠ 1) :
    c.mbxOk i = false := by
  rw [Chip.mbxOk, hq]
  exact beq_eq_false_iff_ne.2 h

theorem uzMbxAnswer_cases (s : State) (k : Nat) (hk : k < 16) :
    let q := manageOf (((s.chip.mbxBytes k).head?).getD 0).toNat ((s.chip.mbxBytes k).drop 1)
    (s.chip.uz.on = true → s.chip.bit (.UZ_MBX_CTL k) F.UZ_MBX_CTL_BUSY = true →
      ∃ t, exec (.uzMbxAnswer k) s = .next t ∧ t.chip.bit (.UZ_MBX_CTL k) F.UZ_MBX_CTL_BUSY = false
        ∧ (∀ j, j < 31 → t.chip.reg (.UZ_MBX_DATA k j) = BitVec.ofNat 64 (sliceNum t.chip.uz.lastAnswer (8 * j) 8))
        ∧ (q = .reset → s.chip.fld (.WLD_UZMB_OWN k) F.WLD_OWN_OWNER = 1 → t.chip.uz.resetPending = true)
        ∧ (q = .reset → s.chip.fld (.WLD_UZMB_OWN k) F.WLD_OWN_OWNER ≠ 1 → t.chip.uz.resetPending = s.chip.uz.resetPending)
        ∧ (q = .powerOff → s.chip.fld (.WLD_UZMB_OWN k) F.WLD_OWN_OWNER = 1 → s.chip.mainsUp = true → t.chip.uz.mainsOn = false))
    ∧ (s.chip.bit (.UZ_MBX_CTL k) F.UZ_MBX_CTL_BUSY = false → Gives (.uzMbxAnswer k) s s.chip) := by
  intro q
  have hdoes : GivesPkg (.uzMbxAnswer k) s (s.toPkg.mbxAnswer k) := givesPkg_of_onPkg rfl (decide_eq_true hk) rfl
  refine ⟨fun hon hbusy => ?_, fun hfree => ?_⟩
  · obtain ⟨hlast, hregs⟩ := Pkg.mbxAnswer_uzReg (p := s.toPkg) (i := k) hon hbusy
    have heq := Pkg.mbxAnswer_busy (p := s.toPkg) (i := k) hon hbusy
    refine ⟨_, hdoes, ?_, fun j hj => ?_, fun hq ho => ?_, fun hq ho => ?_, fun hq ho hm => ?_⟩
    · refine (Chip.bit_of_reg (hregs _ ?_ ?_ ?_) _).trans (Chip.mbxAnswered_ctl _ _) <;> simp only [Reg.offset] <;> omega
    · refine (hregs _ ?_ ?_ ?_).trans ((Chip.mbxAnswered_data _ _ hk hj).trans (by rw [← hlast])) <;> simp only [Reg.offset] <;> omega
    · replace hq : s.chip.mbxRequest k = .reset := hq
      rw [heq, if_neg (by rw [show s.toPkg.chip.mbxRequest k = _ from hq]; simp)]
      show ((s.chip.mbxServed k).mbxAnswered k).uz.resetPending = true
      rw [Chip.mbxAnswered_uz, Chip.mbxServed_reset (Chip.mbxOk_of_owner ho) hq]
    · replace hq : s.chip.mbxRequest k = .reset := hq
      rw [heq, if_neg (by rw [show s.toPkg.chip.mbxRequest k = _ from hq]; simp)]
      show ((s.chip.mbxServed k).mbxAnswered k).uz.resetPending = _
      rw [Chip.mbxAnswered_uz, Chip.mbxServed_read (Chip.mbxOk_reset hq ho)]
    · replace hq : s.chip.mbxRequest k = .powerOff := hq
      have hok := Chip.mbxOk_of_owner ho
      obtain ⟨hon', hm'⟩ := Chip.mbxServed_powerOff hok hq
      rw [heq, if_pos (by rw [show s.toPkg.chip.mbxOk k = _ from hok, show s.toPkg.chip.mbxRequest k = _ from hq]; rfl), Pkg.powerOffAll_eq,
        if_pos ?_]
      · exact (Chip.poweredOff_uz _).2
      · have hup : ((s.chip.mbxServed k).mbxAnswered k).mainsUp = true := by
          rw [Chip.mbxAnswered_mainsUp, hm', hm]
        show (((s.chip.mbxServed k).mbxAnswered k).uz.on && ((s.chip.mbxServed k).mbxAnswered k).mainsUp) = true
        rw [hup, Chip.mbxAnswered_uz, hon', show s.chip.uz.on = true from hon]
        rfl
  · rw [show s.toPkg.mbxAnswer k = s.toPkg from if_pos (by simp [hfree])] at hdoes
    exact hdoes

/-- Settles O57: each service by the function that performs it. -/
theorem lifeRecordManagement : Obligations.LifeRecordManagement := by
  unfold Obligations.LifeRecordManagement
  refine ⟨lifeRecordWrite_cases, JRec.bytes_crc, fun s => ?_, uzLrReadWrite_cases, hourlyRecords_cases, manage_cases, uzMbxGo_cases,
    uzMbxAnswer_cases⟩
  obtain ⟨h1, h2⟩ := compaction_cases s
  obtain ⟨h3, h4⟩ := compactionDone_cases s
  exact ⟨h1, h2, h3, h4⟩

end Sys2Proof.Machine
end

section
/-! Power, start-up and temperature (R415 to R422, R437, R450 to R458). -/

namespace Sys2Proof.Machine

/-- What the step of each index establishes and every other step keeps, the loop establishes for each index. -/
theorem forUpTo_each {α : Type} {f : Nat → α → α} (P : Nat → α → Prop) (n : Nat) (a : α) (hown : ∀ k a, k < n → P k (f k a))
    (hkeep : ∀ j k a, k ≠ j → P k a → P k (f j a)) : ∀ k, k < n → P k (forUpTo n f a) := by
  induction n with
  | zero => intro k hk; omega
  | succ n ih =>
    intro k hk
    rw [forUpTo_succ]
    by_cases h : k = n
    · exact h ▸ hown n _ (by omega)
    · exact hkeep n k _ h (ih (fun k a hk => hown k a (by omega)) k (by omega))

theorem GivesPkg.congr {i : Instr} {s : State} {p q : Pkg} (h : GivesPkg i s p) (e : p = q) : GivesPkg i s q := e ▸ h

-- standby power rises

theorem Pkg.startUp_low {p : Pkg} {a b : Bool} {st : PkgStart} (h : p.chip.pins.pwrgd = false) : p.startUp a b st =
    if st.mfgMode then { p with chip := ({ p.chip with pins := { p.chip.pins with pwrgd := true, mfgMode := st.mfgMode } } : Chip).stage 1 }
    else if p.chip.uz.slotGood 0 a then
      (({ p with chip :=
        ((({ p.chip with pins := { p.chip.pins with pwrgd := true, mfgMode := st.mfgMode } } : Chip).stage 1).standby 0).heldReset }
        : Pkg).dropDram).startPackage st
    else if p.chip.uz.slotGood 1 b then
      (({ p with chip := (((({ p.chip with pins := { p.chip.pins with pwrgd := true, mfgMode := st.mfgMode } } : Chip).stage 1).standby
        1).uzFault 48).heldReset } : Pkg).dropDram).startPackage st
    else
      let c := ({ p.chip with pins := { p.chip.pins with pwrgd := true, mfgMode := st.mfgMode } } : Chip).stage 1
      let c2 := (({ c with uz := { c.uz with on := true } } : Chip).openJournal).faultRecord
        { source := 48, rid := 0x5000, world := 1, acc := 15, detail := 0, addr := 0, time := 0 } 2 0
      { p with chip := ({ c2 with uz := { c2.uz with on := false } } : Chip).stage 2 } := if_neg (by simp [h])

theorem Chip.stage_fld (c : Chip) {n : Nat} (h : n < 16) : (c.stage n).fld .UZ_STATUS F.UZ_STATUS_STAGE = n :=
  Chip.fld_setFld_of_lt _ _ _ (by decide) (by decide) h

theorem standbyPowerGood_cases (s : State) (a b : Bool) (st : PkgStart) (hst : pkgStartOk st = true) : let i := Instr.standbyPowerGood a b st
    let c := ({ s.chip with pins := { s.chip.pins with pwrgd := true, mfgMode := st.mfgMode } } : Chip).stage 1
    (s.chip.pins.pwrgd = true → Gives i s s.chip)
    ∧ (s.chip.pins.pwrgd = false → st.mfgMode = true → Gives i s c)
    ∧ (s.chip.pins.pwrgd = false → st.mfgMode = false → s.chip.uz.slotGood 0 a = true →
      GivesPkg i s ((({ s.toPkg with chip := (c.standby 0).heldReset } : Pkg).dropDram).startPackage st))
    ∧ (s.chip.pins.pwrgd = false → st.mfgMode = false → s.chip.uz.slotGood 0 a = false → s.chip.uz.slotGood 1 b = true →
      GivesPkg i s ((({ s.toPkg with chip := ((c.standby 1).uzFault 48).heldReset } : Pkg).dropDram).startPackage st))
    ∧ (s.chip.pins.pwrgd = false → st.mfgMode = false → s.chip.uz.slotGood 0 a = false → s.chip.uz.slotGood 1 b = false →
      ∃ t, exec i s = .next t ∧ t.chip.fld .UZ_STATUS F.UZ_STATUS_STAGE = 2 ∧ t.chip.uz.on = false) := by
  intro i c
  have hdoes : GivesPkg i s (s.toPkg.startUp a b st) := givesPkg_of_onPkg rfl hst rfl
  refine ⟨fun hup => ?_, fun hlow hmfg => ?_, fun hlow hmfg hA => ?_, fun hlow hmfg hA hB => ?_, fun hlow hmfg hA hB => ⟨_, hdoes, ?_⟩⟩
  · exact hdoes.congr (if_pos hup)
  · exact hdoes.congr ((Pkg.startUp_low hlow).trans (if_pos hmfg))
  · exact hdoes.congr ((Pkg.startUp_low hlow).trans ((if_neg (by simp [hmfg])).trans (if_pos hA)))
  · exact hdoes.congr ((Pkg.startUp_low hlow).trans ((if_neg (by simp [hmfg])).trans ((if_neg (by simp [hA])).trans (if_pos hB))))
  · rw [Pkg.startUp_low hlow, hmfg, show s.toPkg.chip.uz.slotGood 0 a = false from hA, show s.toPkg.chip.uz.slotGood 1 b = false from hB]
    exact ⟨Chip.stage_fld _ (by decide), rfl⟩

/-- DIMMs that do not agree stop the start-up at step 6. -/
theorem Pkg.startPackage_differ (p : Pkg) (st : PkgStart) (h : dimmsAgree st.channels = false) :
    (p.startPackage st).chip.fld .UZ_STATUS F.UZ_STATUS_STAGE = 6 ∧ (p.startPackage st).chip.bit (.FC_SRC 14) F.FC_SRC_CAUSE = true := by
  unfold Pkg.startPackage
  dsimp only
  rw [if_pos (by simp [h])]
  refine ⟨?_, Chip.reportLevel_cause _ _ _ _ _ _ _ _⟩
  rw [Chip.fld_of_reg (Chip.reg_reportLevel_ne _ _ _ _ _ _ _ _ (by decide)), Chip.stage_fld _ (by decide)]

-- a Uzomuris reset

theorem Chip.tearRecord_halves (c : Chip) : c.uz.half0 <+: c.tearRecord.uz.half0 ∧ c.uz.half1 <+: c.tearRecord.uz.half1 := by
  unfold Chip.tearRecord
  dsimp only
  split
  · show c.uz.half0 <+: (c.uz.setHalf _ _).half0 ∧ c.uz.half1 <+: (c.uz.setHalf _ _).half1
    unfold UzSt.setHalf UzSt.half
    split
    · exact ⟨List.prefix_append _ _, List.prefix_refl _⟩
    · exact ⟨List.prefix_refl _, List.prefix_append _ _⟩
  · exact ⟨List.prefix_refl _, List.prefix_refl _⟩

theorem Pkg.dropDram_byte (p : Pkg) {x : Nat} (hx : x < 0x40000000000) : p.dropDram.byteAt x = 0 := by
  have hnone : ∀ m : Sparse Byte, sget 0 x (m.filter (fun e => 0x40000000000 ≤ e.1)) = 0 := fun m => by
    induction m with
    | nil => rfl
    | cons e m ih =>
      by_cases he : 0x40000000000 ≤ e.1
      · rw [List.filter_cons_of_pos (by simpa using he), sget, if_neg (by omega)]
        exact ih
      · rw [List.filter_cons_of_neg (by simpa using he)]
        exact ih
  exact hnone p.dram

theorem uzomurisReset_does (s : State) : ∃ t, exec .uzomurisReset s = .next t ∧ t.chip.uz.on = false ∧ t.chip.now = 0
    ∧ s.chip.uz.half0 <+: t.chip.uz.half0 ∧ s.chip.uz.half1 <+: t.chip.uz.half1 ∧ t.chip.harts = [] ∧ t.chip.regs = []
    ∧ ∀ x, x < 0x40000000000 → t.readByte x = 0 := by
  have hdoes : GivesPkg .uzomurisReset s (s.toPkg.onChip Chip.uzReset).dropDram := givesPkg_of_onPkg (ok := true) rfl rfl rfl
  exact ⟨_, hdoes, rfl, rfl, s.chip.tearRecord_halves.1, s.chip.tearRecord_halves.2, rfl, rfl, fun x hx => Pkg.dropDram_byte _ hx⟩

theorem watchdogRestart_cases (s : State) :
    (s.chip.uz.on = true → Gives .watchdogRestart s ((s.chip.bump .UZ_STATUS F.UZ_STATUS_WDOG_COUNT).uzFault 53))
    ∧ (s.chip.uz.on = false → Gives .watchdogRestart s s.chip) :=
  ⟨fun h => gives_of_onChip (ok := true) rfl rfl (if_pos h), fun h => gives_of_onChip (ok := true) rfl rfl (if_neg (by simp [h]))⟩

theorem pkgReset_cases (s : State) (who : Who) (st : PkgStart) (hst : pkgStartOk st = true) :
    (who.sealed = true → GivesPkg (.pkgReset who st) s (s.toPkg.resetPackage st))
    ∧ (who.sealed = false → Gives (.pkgReset who st) s (s.chip.refuseWrite who .UZ_CTL)) := by
  have hdoes : GivesPkg (.pkgReset who st) s (s.toPkg.uzCtlReset who st) := givesPkg_of_onPkg rfl hst rfl
  exact ⟨fun h => hdoes.congr (if_pos h), fun h => hdoes.congr (if_neg (by simp [h]))⟩

-- main power

theorem Chip.saySummary_uz (c : Chip) : c.saySummary.uz = c.uz := by rw [Chip.saySummary_frame]

theorem Chip.faultRecord_uz (c : Chip) (r : Report) (sev cap : Nat) : (c.faultRecord r sev cap).uz =
    { c.uz with half0 := (c.faultRecord r sev cap).uz.half0, half1 := (c.faultRecord r sev cap).uz.half1
                nextSeq := (c.faultRecord r sev cap).uz.nextSeq, sram := (c.faultRecord r sev cap).uz.sram } := by
  unfold Chip.faultRecord
  dsimp only
  split
  · rw [Chip.saySummary_uz, Chip.lifeWrite_uz]
  · rw [Chip.lifeWrite_uz]

/-- The package after a main power-on with its sensors below 100 °C (R420). -/
def Pkg.poweredOn (p : Pkg) (st : PkgStart) : Pkg :=
  ((p.onChip (fun x => ((if x.uz.tripped then x.mainsOff else x).releaseTrip.mainsOn.heldReset).onUz (fun u =>
    { u with retryAt := none }))).dropDram).startPackage st

theorem Pkg.mainOn_cool {p : Pkg} {hot : Bool} {st : PkgStart} (hon : p.chip.uz.on = true) (hup : p.chip.mainsUp = false)
    (h : p.chip.uz.tripped = false ∨ hot = false) : p.mainOn hot st = p.poweredOn st := by
  unfold Pkg.mainOn
  dsimp only
  rw [if_neg (by simp [hon, hup]), if_neg (by rcases h with h | h <;> simp [h])]
  rfl

/-- The rails off again, and a retry in 60 s. -/
def Chip.powerPut (c : Chip) : Chip := (c.mainsOff).onUz (fun u => { u with retryAt := some (c.now + 60000000000) })

theorem Pkg.mainOn_hot {p : Pkg} {st : PkgStart} (hon : p.chip.uz.on = true) (hup : p.chip.mainsUp = false)
    (htrip : p.chip.uz.tripped = true) : ∃ r : Report, p.mainOn true st = { p with chip := p.chip.powerPut.faultRecord r 4 0 } := by
  unfold Pkg.mainOn
  dsimp only
  rw [if_neg (by simp [hon, hup]), if_pos (by simp [htrip])]
  exact ⟨_, rfl⟩

theorem Pkg.mainOn_same {p : Pkg} {hot : Bool} {st : PkgStart} (h : p.chip.uz.on = false ∨ p.chip.mainsUp = true) : p.mainOn hot st = p :=
  if_pos (by rcases h with h | h <;> simp [h])

theorem mainPowerOn_cases (s : State) (hot : Bool) (st : PkgStart) (hst : pkgStartOk st = true) :
    let q := ((s.toPkg.onChip (fun x => ((if x.uz.tripped then x.mainsOff else x).releaseTrip.mainsOn.heldReset).onUz (fun u => { u with retryAt := none }))).dropDram).startPackage st
    (s.chip.uz.on = true → s.chip.mainsUp = false → s.chip.uz.tripped = false ∨ hot = false →
      GivesPkg (.mainPowerOn hot st) s q
      ∧ ∀ e, s.chip.uz.retryAt = some e → (e ≤ s.chip.now → GivesPkg (.mainPowerOnRetry hot st) s q)
        ∧ (s.chip.now < e → Gives (.mainPowerOnRetry hot st) s s.chip))
    ∧ (s.chip.uz.on = true → s.chip.mainsUp = false → s.chip.uz.tripped = true → hot = true →
      ∃ t, exec (.mainPowerOn hot st) s = .next t ∧ t.chip.uz.retryAt = some (s.chip.now + 60000000000)
        ∧ t.chip.uz.mainsOn = false ∧ t.chip.rail = [])
    ∧ (s.chip.uz.on = false ∨ s.chip.mainsUp = true → Gives (.mainPowerOn hot st) s s.chip) := by
  intro q
  have hdoes : GivesPkg (.mainPowerOn hot st) s (s.toPkg.mainOn hot st) := givesPkg_of_onPkg rfl hst rfl
  have hretry : GivesPkg (.mainPowerOnRetry hot st) s
      (if s.toPkg.chip.uz.retryAt.any (fun t => t ≤ s.toPkg.chip.now) then s.toPkg.mainOn hot st else s.toPkg) :=
    givesPkg_of_onPkg rfl hst rfl
  refine ⟨fun hon hup h => ?_, fun hon hup htrip hhot => ?_, fun h => hdoes.congr (Pkg.mainOn_same h)⟩
  · have hq : s.toPkg.mainOn hot st = q := Pkg.mainOn_cool hon hup h
    refine ⟨hdoes.congr hq, fun e he => ⟨fun hle => hretry.congr ((if_pos ?_).trans hq), fun hlt => hretry.congr (if_neg ?_)⟩⟩
    · rw [show s.toPkg.chip.uz.retryAt = some e from he]
      exact decide_eq_true hle
    · rw [show s.toPkg.chip.uz.retryAt = some e from he]
      simpa using hlt
  · obtain ⟨r, hr⟩ := Pkg.mainOn_hot (p := s.toPkg) (st := st) hon hup htrip
    subst hhot
    refine ⟨_, hdoes.congr hr, ?_⟩
    dsimp only
    refine ⟨?_, ?_, ?_⟩
    · rw [Chip.faultRecord_uz]; rfl
    · rw [Chip.faultRecord_uz]; rfl
    · rw [Chip.faultRecord_frame]; rfl

theorem Chip.heldReset_harts (c : Chip) : c.heldReset.harts = [] := by
  unfold Chip.heldReset
  dsimp only
  rw [forUpTo_same Chip.harts fun i x => ?_]
  · rfl
  · split <;> rfl

theorem powerOffRequest_cases (s : State) : (s.chip.uz.on = true → s.chip.mainsUp = true → ∃ t, exec .powerOffRequest s = .next t
      ∧ t.chip.uz.mainsOn = false ∧ t.chip.rail = [] ∧ t.chip.harts = [] ∧ ∀ x, x < 0x40000000000 → t.readByte x = 0)
    ∧ (s.chip.uz.on = false ∨ s.chip.mainsUp = false → Gives .powerOffRequest s s.chip) := by
  have hdoes : GivesPkg .powerOffRequest s s.toPkg.powerOffAll := givesPkg_of_onPkg (ok := true) rfl rfl rfl
  refine ⟨fun hon hup => ⟨_, hdoes.congr ((Pkg.powerOffAll_eq _).trans (if_pos ?_)), ?_⟩, fun h => hdoes.congr (if_neg ?_)⟩
  · show (s.chip.uz.on && s.chip.mainsUp) = true
    rw [hon, hup]; rfl
  · exact ⟨(Chip.poweredOff_uz _).2, rfl, Chip.heldReset_harts _, fun x hx => Pkg.dropDram_byte _ hx⟩
  · rcases h with h | h <;> simp [h]

-- the PKG commit

theorem pkgCommit_cases (s : State) (who : Who) : (who.uz = true → ∃ t, exec (.pkgCommit who) s = .next t
      ∧ t.chip.bit .PKG_CTL F.PKG_CTL_COMMITTED = true)
    ∧ (who.uz = false → Gives (.pkgCommit who) s (s.chip.refuseWrite who .PKG_CTL)) := by
  have hdoes : Gives (.pkgCommit who) s (s.chip.pkgCtlWrite who 1) := gives_of_onChip (ok := true) rfl rfl rfl
  unfold Chip.pkgCtlWrite at hdoes
  refine ⟨fun h => ⟨_, hdoes, ?_⟩, fun h => by rwa [Chip.ifMay_of_false _ _ _ _ h] at hdoes⟩
  dsimp only
  rw [Chip.ifMay_of_true _ _ _ _ h, if_pos (by decide), Chip.bit_of_reg (Chip.reg_newDigest_ne _ (by decide) (by decide) (by decide)),
    Chip.bit_setBit _ _ _ _ (by decide) (by decide)]

-- temperature

theorem Chip.onDie_tj (c : Chip) (d : Nat) (f : DieSt → DieSt) (k : Nat) (hf : ∀ x, (f x).tj = x.tj) :
    ((c.onDie d f).die k).tj = (c.die k).tj := by
  by_cases h : k = d
  · rw [h, Chip.die_onDie, hf]
  · rw [Chip.die_onDie_ne _ _ h]

theorem Chip.onDie_reg (c : Chip) (d : Nat) (f : DieSt → DieSt) (r : Reg) : (c.onDie d f).reg r = c.reg r := (rfl)

theorem Chip.die_setFld (c : Chip) (r : Reg) (f : Field) (n k : Nat) : (c.setFld r f n).die k = c.die k := (rfl)

theorem Chip.die_noteCapping (c : Chip) (k : Nat) : c.noteCapping.die k = c.die k := (rfl)

theorem Chip.voutCommand_die (c : Chip) (rail mv k : Nat) : (c.voutCommand rail mv).die k = c.die k := rfl

theorem Chip.setPoint_tj (c : Chip) (d mv k : Nat) : ((c.setPoint d mv).die k).tj = (c.die k).tj := by
  unfold Chip.setPoint
  split
  · rfl
  · rw [Chip.voutCommand_die, Chip.onDie_tj]
    exact fun _ => rfl

theorem Chip.setPoint_regs (c : Chip) (d mv : Nat) : (c.setPoint d mv).regs = c.regs := by
  unfold Chip.setPoint
  split <;> rfl

theorem Chip.thermDown_tj (c : Chip) (d k : Nat) : ((c.thermDown d).die k).tj = (c.die k).tj := by
  have hreport : ∀ x : Chip, (((x.raiseEvent 20).uzFault 52).die k).tj = (x.die k).tj := fun x => by
    rw [Chip.uzFault, Chip.report_frame, Chip.raiseEvent_frame]
    rfl
  unfold Chip.thermDown
  dsimp only
  rw [Chip.onDie_tj _ _ _ _ ?hf]
  case hf => exact fun _ => rfl
  have hset : ∀ (lo : Nat) (x : Chip), ((if lo < (x.die d).setMv ∧ !x.regulatorLost d then x.lowerMv d else x.lowerCap d).die k).tj
      = (x.die k).tj := fun lo x => by
    split
    · exact Chip.setPoint_tj _ _ _ _
    · rfl
  rw [hset]
  split
  · exact hreport c
  · rfl

theorem Chip.thermUp_tj (c : Chip) (d k : Nat) : ((c.thermUp d).die k).tj = (c.die k).tj := by
  unfold Chip.thermUp
  split
  · rfl
  · rw [Chip.onDie_tj _ _ _ _ ?hf, Chip.raiseMv, Chip.setPoint_tj]
    exact fun _ => rfl

/-- A reading of die d changes the temperature of die d alone. -/
theorem Chip.thermDie_tj (c : Chip) (d t k : Nat) : ((c.thermDie d t).die k).tj = if k = d then t else (c.die k).tj := by
  have hread : ((c.onDie d (fun x => { x with tj := t })).die k).tj = if k = d then t else (c.die k).tj := by
    split
    next h => rw [h, Chip.die_onDie]
    next h => rw [Chip.die_onDie_ne _ _ h]
  rw [← hread]
  unfold Chip.thermDie
  dsimp only
  split
  · rfl
  · split
    · rw [Chip.thermDown_tj]
    · split
      · rfl
      · split
        · split
          · rw [Chip.thermUp_tj, Chip.onDie_tj]
            exact fun _ => rfl
          · rw [Chip.onDie_tj]
            exact fun _ => rfl
        · rw [Chip.onDie_tj]
          exact fun _ => rfl

theorem Chip.thermDown_reg (c : Chip) (d : Nat) : (c.thermDown d).reg .UZ_THERM_CFG = c.reg .UZ_THERM_CFG := by
  have hset : ∀ (lo : Nat) (x : Chip), (if lo < (x.die d).setMv ∧ !x.regulatorLost d then x.lowerMv d else x.lowerCap d).reg .UZ_THERM_CFG
      = x.reg .UZ_THERM_CFG := fun lo x => by
    split
    · exact Chip.reg_of_regs (Chip.setPoint_regs _ _ _) _
    · rw [Chip.lowerCap, Chip.reg_setFld_ne _ _ _ (by simp only [Reg.offset]; omega)]
      rfl
  unfold Chip.thermDown
  dsimp only
  rw [Chip.onDie_reg, hset]
  split
  · rw [Chip.uzFault, Chip.report_reg, Chip.reg_raiseEvent_ne _ _ (by decide)]
  · rfl

theorem Chip.thermUp_reg (c : Chip) (d : Nat) : (c.thermUp d).reg .UZ_THERM_CFG = c.reg .UZ_THERM_CFG := by
  unfold Chip.thermUp
  split
  · exact Chip.reg_setFld_ne _ _ _ (by simp only [Reg.offset]; omega)
  · exact Chip.reg_of_regs (Chip.setPoint_regs _ _ _) _

theorem Chip.thermDie_reg (c : Chip) (d t : Nat) : (c.thermDie d t).reg .UZ_THERM_CFG = c.reg .UZ_THERM_CFG := by
  unfold Chip.thermDie
  dsimp only
  split
  · rfl
  · split
    · rw [Chip.thermDown_reg]; rfl
    · split
      · rfl
      · split
        · split
          · rw [Chip.thermUp_reg]; rfl
          · rfl
        · rfl

theorem foldl_max_lt {b : Nat} (l : List Nat) (a : Nat) (ha : a < b) (hl : ∀ x ∈ l, x < b) : l.foldl max a < b := by
  induction l generalizing a with
  | nil => exact ha
  | cons x l ih => exact ih _ (max_lt ha (hl x (by simp))) fun y hy => hl y (by simp [hy])

theorem thermalSensorRead_cases (s : State) (temps : List Nat) (hlen : temps.length = 13) (hmax : ∀ x ∈ temps, x < 256) :
    (s.chip.uz.on = true → ∃ t, exec (.thermalSensorRead temps) s = .next t
      ∧ t.chip.fld .UZ_THERM_CFG F.UZ_THERM_CFG_HOTTEST_C = temps.foldl max 0
      ∧ ∀ d, d < 12 → (t.chip.die d).tj = temps.getD d 0)
    ∧ (s.chip.uz.on = false → Gives (.thermalSensorRead temps) s s.chip) := by
  have hdoes : Gives (.thermalSensorRead temps) s (s.chip.thermRead temps) :=
    gives_of_onChip rfl (by simpa [hlen] using hmax) rfl
  refine ⟨fun hon => ⟨_, hdoes, ?_⟩, fun hoff => by rwa [Chip.thermRead, if_pos (by simp [hoff])] at hdoes⟩
  unfold Chip.thermRead
  dsimp only
  rw [if_neg (by simp [hon])]
  refine ⟨?_, fun d hd => ?_⟩
  · refine (Chip.fld_of_reg (Chip.reg_setBit_ne _ _ _ (by decide)) _).trans ?_
    rw [Chip.fld_of_reg (forUpTo_same (fun x : Chip => x.reg .UZ_THERM_CFG) (fun i x => Chip.thermDie_reg x i _) _ _),
      Chip.fld_setFld_apart _ _ _ (by decide), Chip.fld_setFld_of_lt _ _ _ (by decide) (by decide)]
    exact foldl_max_lt (b := 256) temps 0 (by decide) hmax
  · rw [Chip.die_noteCapping]
    exact forUpTo_each (fun k (x : Chip) => (x.die k).tj = temps.getD k 0) 12 _ (fun k x _ => by rw [Chip.thermDie_tj, if_pos rfl])
      (fun j k x h hk => by rw [Chip.thermDie_tj, if_neg h, hk]) d hd

-- DIMM_CAP_STEP

theorem Chip.onUz_fld (c : Chip) (f : UzSt → UzSt) (r : Reg) (g : Field) : (c.onUz f).fld r g = c.fld r g := (rfl)

theorem Chip.dimmCap_down (c : Chip) (d : Nat) :
    (c.dimmCap true d).fld (.CD_PACER_STATUS d) F.CD_PACER_STATUS_CAP_A ≤ c.fld (.CD_PACER_STATUS d) F.CD_PACER_STATUS_CAP_A := by
  have hlt : c.fld (.CD_PACER_STATUS d) F.CD_PACER_STATUS_CAP_A < 2 ^ F.CD_PACER_STATUS_CAP_A.width := Field.get_lt _ _
  unfold Chip.dimmCap
  dsimp only
  rw [if_pos rfl, Chip.fld_setFld_of_lt _ _ _ (by decide) (by decide) (by omega)]
  omega

theorem Chip.dimmCap_ne (c : Chip) (b : Bool) {d k : Nat} (h : k ≠ d) :
    (c.dimmCap b d).fld (.CD_PACER_STATUS k) F.CD_PACER_STATUS_CAP_A = c.fld (.CD_PACER_STATUS k) F.CD_PACER_STATUS_CAP_A :=
  Chip.fld_setFld_ne _ _ _ _ (by simp only [Reg.offset]; omega)

theorem Chip.dimmCaps_down (n : Nat) (c : Chip) (k : Nat) :
    (forUpTo n (fun d x => x.dimmCap true d) c).fld (.CD_PACER_STATUS k) F.CD_PACER_STATUS_CAP_A
      ≤ c.fld (.CD_PACER_STATUS k) F.CD_PACER_STATUS_CAP_A := by
  induction n with
  | zero => exact Nat.le_refl _
  | succ n ih =>
    rw [forUpTo_succ]
    by_cases h : k = n
    · subst h
      exact (Chip.dimmCap_down _ k).trans ih
    · rw [Chip.dimmCap_ne _ _ h]
      exact ih

theorem dimmCapStep_cases (s : State) (hon : s.chip.uz.on = true) :
    ((List.range 16).any s.chip.throttles = true → ∃ t, exec .dimmCapStep s = .next t
      ∧ t.chip.uz.throttleAt = some s.chip.now ∧ ∀ d, d < 12 →
        t.chip.fld (.CD_PACER_STATUS d) F.CD_PACER_STATUS_CAP_A ≤ s.chip.fld (.CD_PACER_STATUS d) F.CD_PACER_STATUS_CAP_A)
    ∧ ((List.range 16).any s.chip.throttles = false → (∀ e, s.chip.uz.throttleAt = some e → s.chip.now < e + 100000000) →
      Gives .dimmCapStep s s.chip) := by
  have hdoes : Gives .dimmCapStep s s.chip.dimmStep := gives_of_onChip (ok := true) rfl rfl rfl
  refine ⟨fun h => ⟨_, hdoes, ?_⟩, fun h hat => ?_⟩
  · dsimp only
    rw [Chip.dimmStep, if_neg (by simp [hon]), if_pos h]
    refine ⟨rfl, fun d hd => ?_⟩
    rw [Chip.noteCapping, Chip.fld_of_reg (Chip.reg_setBit_ne _ _ _ (by simp only [Reg.offset]; omega)), Chip.onUz_fld]
    exact Chip.dimmCaps_down 12 s.chip d
  · rw [Chip.dimmStep, if_neg (by simp [hon]), if_neg (by simp [h])] at hdoes
    split at hdoes
    · exact hdoes
    · next e he => rwa [if_neg (by have := hat e he; omega)] at hdoes

-- a thermal trip

/-- Every hart that runs is stopped. -/
def Chip.stopHarts (c : Chip) : Chip := forUpTo 288 (fun h x => if (x.hart h).run = .held then x else x.onHart h Hart.stop) c

/-- The allowance of die i is zero. -/
def Chip.zeroAllowance (c : Chip) (i : Nat) : Chip :=
  (c.onDie i (fun y => { y with allow := 0 })).setFld (.CD_PACER_STATUS i) F.CD_PACER_STATUS_ALLOW_A 0

def Chip.zeroAllowances (c : Chip) : Chip := forUpTo 12 (fun i x => x.zeroAllowance i) c

/-- The trip is recorded and reported (R458). -/
def Chip.noteTrip (c : Chip) (d : Nat) : Chip :=
  let r : Report := { source := 56, rid := 0x5000, world := 1, acc := 15, detail := 0, addr := 0, time := c.now }
  ((({ c with pins := { c.pins with thermtripN := false }, uz := { c.uz with tripped := true } } : Chip).faultRecord
    { r with detail := d } 4 0).setCause 56 true).hold unitUz r

theorem Chip.trip_eq (c : Chip) (d : Nat) : c.trip d = (c.noteTrip d).stopHarts.zeroAllowances := rfl

theorem Chip.stopHarts_frame (c : Chip) : c.stopHarts = { c with harts := c.stopHarts.harts } := by
  refine forUpTo_inv (fun x : Chip => x = { c with harts := x.harts }) _ _ _ rfl fun h x hx => ?_
  split
  · exact hx
  · rw [hx]
    rfl

theorem Chip.stopHarts_regs (c : Chip) : c.stopHarts.regs = c.regs := by rw [Chip.stopHarts_frame]

theorem Chip.stopHarts_run (c : Chip) {h : Nat} (hh : h < 288) : (c.stopHarts.hart h).run = .held :=
  forUpTo_each (fun h (x : Chip) => (x.hart h).run = .held) 288 c
    (fun h x _ => by
      split
      · assumption
      · rw [Chip.hart_onHart]; rfl)
    (fun j k x hjk hk => by
      split
      · exact hk
      · rw [Chip.hart_onHart_ne _ _ hjk, hk]) h hh

theorem Chip.zeroAllowance_same (c : Chip) (i : Nat) :
    (c.zeroAllowance i).pins = c.pins ∧ (c.zeroAllowance i).uz = c.uz ∧ (c.zeroAllowance i).harts = c.harts := ⟨rfl, rfl, rfl⟩

theorem Chip.zeroAllowances_same (c : Chip) :
    c.zeroAllowances.pins = c.pins ∧ c.zeroAllowances.uz = c.uz ∧ c.zeroAllowances.harts = c.harts :=
  forUpTo_inv (fun x : Chip => x.pins = c.pins ∧ x.uz = c.uz ∧ x.harts = c.harts) _ _ _ ⟨rfl, rfl, rfl⟩ fun i x hx => by
    obtain ⟨h1, h2, h3⟩ := x.zeroAllowance_same i
    rwa [h1, h2, h3]

theorem Chip.zeroAllowance_cause (c : Chip) {i : Nat} (hi : i < 12) : (c.zeroAllowance i).reg (.FC_SRC 56) = c.reg (.FC_SRC 56) := by
  rw [Chip.zeroAllowance, Chip.reg_setFld_ne _ _ _ (by simp only [Reg.offset]; omega), Chip.onDie_reg]

theorem Chip.zeroAllowances_cause (c : Chip) : c.zeroAllowances.reg (.FC_SRC 56) = c.reg (.FC_SRC 56) :=
  forUpTo_same_of_lt (fun x : Chip => x.reg (.FC_SRC 56)) 12 (fun _ hi x => x.zeroAllowance_cause hi) c

theorem Chip.zeroAllowance_allow (c : Chip) (i : Nat) : ((c.zeroAllowance i).die i).allow = 0 := by
  rw [Chip.zeroAllowance, Chip.die_setFld, Chip.die_onDie]

theorem Chip.zeroAllowance_ne (c : Chip) {i k : Nat} (h : k ≠ i) : (c.zeroAllowance i).die k = c.die k := by
  rw [Chip.zeroAllowance, Chip.die_setFld, Chip.die_onDie_ne _ _ h]

theorem Chip.zeroAllowances_allow (c : Chip) {k : Nat} (hk : k < 12) : (c.zeroAllowances.die k).allow = 0 :=
  forUpTo_each (fun k (x : Chip) => (x.die k).allow = 0) 12 c (fun k x _ => x.zeroAllowance_allow k)
    (fun j k x hjk hk => by rw [Chip.zeroAllowance_ne _ hjk, hk]) k hk

theorem Chip.noteTrip_notes (c : Chip) (d : Nat) : (c.noteTrip d).pins.thermtripN = false ∧ (c.noteTrip d).uz.tripped = true
    ∧ (c.noteTrip d).bit (.FC_SRC 56) F.FC_SRC_CAUSE = true := by
  unfold Chip.noteTrip
  dsimp only
  refine ⟨?_, ?_, ?_⟩
  · rw [Chip.hold_frame, Chip.faultRecord_frame]; rfl
  · rw [Chip.hold_frame]
    show (Chip.faultRecord _ _ _ _).uz.tripped = true
    rw [Chip.faultRecord_uz]
  · rw [Chip.bit_of_reg (Chip.hold_reg _ _ _ _), Chip.setCause_cause]

theorem thermtrip_cases (s : State) (d : Nat) (hd : d < 13) :
    (s.chip.uz.tripped = false → ∃ t, exec (.thermtrip d) s = .next t ∧ t.chip.pins.thermtripN = false
      ∧ t.chip.uz.tripped = true ∧ t.chip.bit (.FC_SRC 56) F.FC_SRC_CAUSE = true ∧ (∀ h, h < 288 → (t.chip.hart h).run = .held)
      ∧ ∀ k, k < 12 → (t.chip.die k).allow = 0)
    ∧ (s.chip.uz.tripped = true → Gives (.thermtrip d) s s.chip) := by
  refine ⟨fun h => ⟨_, gives_of_onChip rfl (decide_eq_true hd) (if_neg (by simp [h])), ?_⟩,
    fun h => gives_of_onChip rfl (decide_eq_true hd) (if_pos h)⟩
  obtain ⟨hpin, htrip, hcause⟩ := s.chip.noteTrip_notes d
  obtain ⟨hpins, huz, hharts⟩ := (s.chip.noteTrip d).stopHarts.zeroAllowances_same
  dsimp only
  rw [Chip.trip_eq]
  refine ⟨?_, ?_, ?_, fun h hh => ?_, fun k hk => Chip.zeroAllowances_allow _ hk⟩
  · rw [hpins, Chip.stopHarts_frame]; exact hpin
  · rw [huz, Chip.stopHarts_frame]; exact htrip
  · rw [Chip.bit_of_reg (Chip.zeroAllowances_cause _), Chip.bit_of_reg (Chip.reg_of_regs (Chip.stopHarts_regs _) _), hcause]
  · have hsame : (s.chip.noteTrip d).stopHarts.zeroAllowances.hart h = (s.chip.noteTrip d).stopHarts.hart h := by
      rw [Chip.hart, hharts, ← Chip.hart]
    rw [hsame, Chip.stopHarts_run _ hh]

/-- Settles O56: each command by the function that performs it. -/
theorem uzomurisPower : Obligations.UzomurisPower := by
  unfold Obligations.UzomurisPower
  exact ⟨standbyPowerGood_cases, Pkg.startPackage_differ, uzomurisReset_does, watchdogRestart_cases, pkgReset_cases, mainPowerOn_cases,
    powerOffRequest_cases, pkgCommit_cases, thermalSensorRead_cases, dimmCapStep_cases, thermtrip_cases⟩

end Sys2Proof.Machine
end

section
/-! What reads and writes of memory leave of the chip: those of a channel, those through a hall cache, and those that first take every
copy that a die holds. -/

namespace Sys2Proof.Machine

/-- The chip but what a hall keeps of its channel and its cache. -/
def Chip.besideHalls (c : Chip) : Chip := { c with regs := [], halls := [], hc := [], banks := [], lru := [] }

/-- The chip but that, the copies of lines that the dies hold, and the directory. -/
def Chip.besideLines (c : Chip) : Chip := { c.besideHalls with l2 := [], harts := [], lnd := [], wb := [], dir := [] }

/-- A register that no read or write of a channel changes. -/
def Reg.besideDram (q : Reg) : Prop := ∀ n, q.offset ≠ (Reg.HALL_DRAM_STATUS n).offset ∧ q.offset ≠ (Reg.HALL_DRAM_CTL n).offset

theorem Reg.besideDram_of_lt {q : Reg} (h : q.offset < 0x2000000) : q.besideDram := fun n => by
  have e1 : (Reg.HALL_DRAM_STATUS n).offset = 0x2000000 + n * 0x100000 + 0x1500 := rfl
  have e2 : (Reg.HALL_DRAM_CTL n).offset = 0x2000000 + n * 0x100000 + 0x1700 := rfl
  omega

theorem Chip.besideLines_of_halls {c d : Chip} (h : d.besideHalls = c.besideHalls) : d.besideLines = c.besideLines :=
  congrArg (fun x : Chip => { x with l2 := [], harts := [], lnd := [], wb := [], dir := [] }) h

/-- Two chips alike but for a hall's channel and cache. -/
structure Chip.SameBesideHalls (c d : Chip) : Prop where
  rest : d.besideHalls = c.besideHalls
  reg : ∀ q : Reg, q.besideDram → d.reg q = c.reg q

/-- Two chips alike but for that, the copies of lines, and the directory. -/
structure Chip.SameBesideLines (c d : Chip) : Prop where
  rest : d.besideLines = c.besideLines
  reg : ∀ q : Reg, q.besideDram → d.reg q = c.reg q

theorem Chip.SameBesideHalls.refl (c : Chip) : c.SameBesideHalls c := ⟨rfl, fun _ _ => rfl⟩

theorem Chip.SameBesideHalls.trans {c d e : Chip} (h : c.SameBesideHalls d) (h' : d.SameBesideHalls e) : c.SameBesideHalls e :=
  ⟨h'.rest.trans h.rest, fun q hq => (h'.reg q hq).trans (h.reg q hq)⟩

theorem Chip.SameBesideHalls.of_regs {c d : Chip} (h : d.besideHalls = c.besideHalls) (hr : d.regs = c.regs) : c.SameBesideHalls d :=
  ⟨h, fun q _ => Chip.reg_of_regs hr q⟩

theorem Chip.SameBesideLines.refl (c : Chip) : c.SameBesideLines c := ⟨rfl, fun _ _ => rfl⟩

theorem Chip.SameBesideLines.trans {c d e : Chip} (h : c.SameBesideLines d) (h' : d.SameBesideLines e) : c.SameBesideLines e :=
  ⟨h'.rest.trans h.rest, fun q hq => (h'.reg q hq).trans (h.reg q hq)⟩

theorem Chip.SameBesideLines.of_regs {c d : Chip} (h : d.besideLines = c.besideLines) (hr : d.regs = c.regs) : c.SameBesideLines d :=
  ⟨h, fun q _ => Chip.reg_of_regs hr q⟩

theorem Chip.SameBesideHalls.lines {c d : Chip} (h : c.SameBesideHalls d) : c.SameBesideLines d :=
  ⟨Chip.besideLines_of_halls h.rest, h.reg⟩

-- a channel

/-- A counter of a hall's channel counts. -/
theorem Chip.bump_sameBesideHalls (c : Chip) {r : Reg} (f : Field) (hr : ∀ q : Reg, q.besideDram → q.offset ≠ r.offset) :
    c.SameBesideHalls (c.bump r f) := ⟨rfl, fun q hq => Chip.reg_setFld_ne _ _ _ (hr q hq)⟩

theorem Pkg.chanWrite_same (p : Pkg) (line : Nat) (v : Line) (poison : Bool) : p.chip.SameBesideHalls (p.chanWrite line v poison).chip := by
  unfold Pkg.chanWrite
  dsimp only
  split
  · split
    · rw [Pkg.onChip, Pkg.setPoison_chip, Pkg.putLine_chip]
      exact Chip.bump_sameBesideHalls _ _ fun q hq => (hq _).1
    · rw [Pkg.setPoison_chip, Pkg.putLine_chip]
      exact Chip.SameBesideHalls.refl _
  · split
    · exact Chip.SameBesideHalls.refl _
    · exact Chip.bump_sameBesideHalls _ _ fun q hq => (hq _).2

theorem Chip.owesBurst_same (c : Chip) (line cls : Nat) (write maint : Bool) (req : Msg) (known : Bool) :
    c.SameBesideHalls (c.owesBurst line cls write maint req known) := by
  unfold Chip.owesBurst
  split
  · exact Chip.SameBesideHalls.refl _
  · exact Chip.SameBesideHalls.of_regs rfl rfl

theorem Pkg.treadWrite_same (p : Pkg) (line : Nat) (v : Line) (poison : Bool) (cls : Nat) (maint : Bool) :
    p.chip.SameBesideHalls (p.treadWrite line v poison cls maint).chip :=
  (p.chanWrite_same line v poison).trans (Chip.owesBurst_same _ _ _ _ _ _ _)

-- a hall cache

theorem Chip.setHc_same (c : Chip) (line : Nat) (v : Option HcLine) : c.SameBesideHalls (c.setHc line v) :=
  Chip.SameBesideHalls.of_regs rfl rfl

theorem Chip.useHc_same (c : Chip) (line way : Nat) : c.SameBesideHalls (c.useHc line way) := Chip.SameBesideHalls.of_regs rfl rfl

theorem Chip.putHc_same (c : Chip) (line : Nat) (x : HcLine) : c.SameBesideHalls (c.putHc line x) := Chip.SameBesideHalls.of_regs rfl rfl

theorem Pkg.hcEvict_same (p : Pkg) (line cls : Nat) (maint : Bool) : p.chip.SameBesideHalls (p.hcEvict line cls maint).chip := by
  unfold Pkg.hcEvict
  split
  · exact Chip.SameBesideHalls.refl _
  · dsimp only
    split
    · exact (p.treadWrite_same _ _ _ _ _).trans (Chip.setHc_same _ _ _)
    · exact Chip.setHc_same _ _ _

theorem Pkg.hcAlloc_same (p : Pkg) (line : Nat) (v : Line) (poison dirty : Bool) (cls : Nat) :
    p.chip.SameBesideHalls (p.hcAlloc line v poison dirty cls).chip := by
  unfold Pkg.hcAlloc
  dsimp only
  split
  · exact Chip.putHc_same _ _ _
  · split
    · split
      · exact p.treadWrite_same _ _ _ _ _
      · exact Chip.SameBesideHalls.refl _
    · split
      · exact (p.hcEvict_same _ _ _).trans (Chip.putHc_same _ _ _)
      · exact Chip.putHc_same _ _ _

theorem Pkg.memWrite_same (p : Pkg) (line : Nat) (v : Line) (poison : Bool) (cls : Nat) :
    p.chip.SameBesideHalls (p.memWrite line v poison cls).chip := by
  unfold Pkg.memWrite
  dsimp only
  split
  · split
    · exact (Chip.setHc_same _ _ _).trans (Pkg.treadWrite_same (p.onChip (fun c => c.setHc line none)) _ _ _ _ _)
    · exact p.treadWrite_same _ _ _ _ _
  · split
    · exact Chip.putHc_same _ _ _
    · exact p.hcAlloc_same _ _ _ _ _
    · exact (Chip.putHc_same _ _ _).trans (Pkg.treadWrite_same (p.onChip (fun c => c.putHc line _)) _ _ _ _ _)
    · exact p.treadWrite_same _ _ _ _ _
    · split
      · exact Chip.putHc_same _ _ _
      · exact (Chip.putHc_same _ _ _).trans (Pkg.treadWrite_same (p.onChip (fun c => c.putHc line _)) _ _ _ _ _)
    · exact p.treadWrite_same _ _ _ _ _
    · exact (Chip.setHc_same _ _ _).trans (Pkg.treadWrite_same (p.onChip (fun c => c.setHc line none)) _ _ _ _ _)
    · exact p.treadWrite_same _ _ _ _ _

theorem Pkg.memFetch_same (p : Pkg) (line cls : Nat) (maint : Bool) (req : Msg) :
    p.chip.SameBesideHalls (p.memFetch line cls maint req).1.chip := by
  unfold Pkg.memFetch
  dsimp only
  split
  · exact Chip.useHc_same _ _ _
  · have hread : p.chip.SameBesideHalls ((if p.chip.hcMode (p.chip.homeHall line) == 0 && p.chip.policy line == 3 then
        p.hcEvict line cls maint else p).onChip (fun c => c.owesBurst line cls false maint req)).chip := by
      refine Chip.SameBesideHalls.trans ?_ (Chip.owesBurst_same _ _ _ _ _ _ _)
      split
      · exact p.hcEvict_same _ _ _
      · exact Chip.SameBesideHalls.refl _
    split
    · exact hread.trans (Pkg.hcAlloc_same _ _ _ _ _ _)
    · exact hread

theorem Pkg.fetchOr_same (p : Pkg) (copy : Option (Line × Bool)) (line cls : Nat) (req : Msg) :
    p.chip.SameBesideHalls (p.fetchOr copy line cls req).1.chip := by
  unfold Pkg.fetchOr
  split
  · exact Chip.SameBesideHalls.refl _
  · exact p.memFetch_same _ _ _ _

theorem Pkg.coherentFetch_same (p : Pkg) (line cls : Nat) (req : Msg) : p.chip.SameBesideHalls (p.coherentFetch line cls req).1.chip :=
  p.fetchOr_same _ _ _ _

-- the copies of the dies

theorem Chip.setLnd_same (c : Chip) (d line : Nat) (v : Option LndLine) : c.SameBesideLines (c.setLnd d line v) :=
  Chip.SameBesideLines.of_regs rfl rfl

theorem Chip.lndInval_same (c : Chip) (d line : Nat) : c.SameBesideLines (c.lndInval d line) := by
  unfold Chip.lndInval
  split
  · exact c.setLnd_same _ _ _
  · exact Chip.SameBesideLines.refl _

theorem Chip.setL2_same (c : Chip) (h line : Nat) (l : L2Line) : c.SameBesideLines (c.setL2 h line l) := Chip.SameBesideLines.of_regs rfl rfl

theorem Chip.onHart_same (c : Chip) (h : Nat) (f : Hart → Hart) : c.SameBesideLines (c.onHart h f) := Chip.SameBesideLines.of_regs rfl rfl

theorem Chip.dropL2_same (c : Chip) (h line : Nat) : c.SameBesideLines (c.dropL2 h line) :=
  (c.setL2_same h line L2Line.invalid).trans (Chip.onHart_same _ _ _)

theorem foldl_sameBesideLines {α : Type} {f : Chip → α → Chip} (hf : ∀ x a, Chip.SameBesideLines x (f x a)) (l : List α) (c : Chip) :
    c.SameBesideLines (l.foldl f c) := by
  induction l generalizing c with
  | nil => exact Chip.SameBesideLines.refl c
  | cons a l ih => exact (hf c a).trans (ih _)

theorem forUpTo_sameBesideLines {f : Nat → Chip → Chip} (hf : ∀ i x, Chip.SameBesideLines x (f i x)) (n : Nat) (c : Chip) :
    c.SameBesideLines (forUpTo n f c) :=
  forUpTo_inv (fun x : Chip => c.SameBesideLines x) _ _ _ (Chip.SameBesideLines.refl c) fun i x hx => hx.trans (hf i x)

theorem Chip.dieDrop_same (c : Chip) (d line : Nat) : c.SameBesideLines (c.dieDrop d line) :=
  (foldl_sameBesideLines (fun x h => x.dropL2_same h line) _ c).trans (Chip.lndInval_same _ _ _)

theorem Chip.supersede_same (c : Chip) (d line : Nat) : c.SameBesideLines (c.supersede d line) := Chip.SameBesideLines.of_regs rfl rfl

theorem Chip.snoopTake_eq (c : Chip) (d line : Nat) (own : Bool) : (c.snoopTake d line own).1 = (c.dieDrop d line).supersede d line := by
  unfold Chip.snoopTake
  dsimp only
  split
  · rfl
  · split
    · rfl
    · split <;> rfl

theorem Chip.snoopTake_same (c : Chip) (d line : Nat) (own : Bool) : c.SameBesideLines (c.snoopTake d line own).1 := by
  rw [Chip.snoopTake_eq]
  exact (c.dieDrop_same d line).trans (Chip.supersede_same _ _ _)

theorem Chip.setDir_same (c : Chip) (line : Nat) (e : DirEntry) : c.SameBesideLines (c.setDir line e) := Chip.SameBesideLines.of_regs rfl rfl

theorem Chip.purgeLine_same (c : Chip) (line : Nat) : c.SameBesideLines (c.purgeLine line) :=
  (forUpTo_sameBesideLines (fun d x => x.snoopTake_same d line false) 12 c).trans (Chip.setDir_same _ _ _)

theorem Pkg.rawWrite_same (p : Pkg) (line : Nat) (v : Line) (poison : Bool) (cls : Nat) :
    p.chip.SameBesideLines (p.rawWrite line v poison cls).chip :=
  (p.chip.purgeLine_same line).trans (Pkg.memWrite_same (p.onChip (fun c => c.purgeLine line)) _ _ _ _).lines

end Sys2Proof.Machine
end

section
/-! Dirty pages and held completions of a pair (R401, R402, R405, R412): what marking them and giving them leaves. -/

namespace Sys2Proof.Machine

/-- A register that no mark of a dirty page changes. -/
structure Reg.BesideDirty (q : Reg) : Prop where
  dram : q.besideDram
  record : q.offset ≠ Reg.UZ_LR_STATUS.offset
  region : ∀ n, q.offset ≠ (Reg.PAIR_REGION_STATUS n).offset
  late : q.offset ≠ (Reg.FC_SRC 37).offset

/-- Two chips whose pair differs in TRACKING at most, and whose registers differ where a mark of a dirty page may change them. -/
structure Chip.SameBesideDirty (c d : Chip) : Prop where
  pair : d.pair = { c.pair with tracking := d.pair.tracking }
  reg : ∀ q : Reg, q.BesideDirty → d.reg q = c.reg q

theorem Chip.SameBesideDirty.refl (c : Chip) : c.SameBesideDirty c := ⟨rfl, fun _ _ => rfl⟩

theorem Chip.SameBesideDirty.trans {c d e : Chip} (h : c.SameBesideDirty d) (h' : d.SameBesideDirty e) : c.SameBesideDirty e :=
  ⟨by rw [h'.pair, h.pair], fun q hq => (h'.reg q hq).trans (h.reg q hq)⟩

theorem Chip.SameBesideLines.pair {c d : Chip} (h : c.SameBesideLines d) : d.pair = c.pair :=
  (congrArg Chip.pair h.rest :)

theorem Chip.SameBesideLines.dirty {c d : Chip} (h : c.SameBesideLines d) : c.SameBesideDirty d :=
  ⟨by rw [h.pair], fun q hq => h.reg q hq.dram⟩

theorem Chip.track_same (c : Chip) : c.SameBesideDirty c.track := by
  unfold Chip.track
  split
  · refine ⟨?_, fun q hq => ?_⟩
    · rw [Chip.pairRecord_frame]
    · rw [Chip.reg_pairRecord_ne _ hq.record]
      rfl
  · exact Chip.SameBesideDirty.refl c

theorem Chip.setFld_region_same (c : Chip) (n : Nat) (f : Field) (v : Nat) : c.SameBesideDirty (c.setFld (.PAIR_REGION_STATUS n) f v) :=
  ⟨rfl, fun _ hq => Chip.reg_setFld_ne _ _ _ (hq.region n)⟩

theorem Chip.setCause_late_same (c : Chip) (b : Bool) : c.SameBesideDirty (c.setCause 37 b) :=
  ⟨rfl, fun _ hq => Chip.reg_setCause_ne _ _ _ hq.late⟩

/-- What a mark of a page, made or taken away, does to the region's counters. -/
def Chip.countDirty (c : Chip) (n : Nat) (b : Bool) : Chip :=
  let cnt := c.fld (.PAIR_REGION_STATUS n) F.PAIR_REGION_STATUS_DIRTY_PAGES
  let c1 := c.setFld (.PAIR_REGION_STATUS n) F.PAIR_REGION_STATUS_DIRTY_PAGES (if b then cnt + 1 else cnt - 1)
  let c2 := if b then c1.track else c1
  if !b && cnt ≤ 1 then
    (c2.setBit (.PAIR_REGION_STATUS n) F.PAIR_REGION_STATUS_LAGGING false).setCause 37
      ((List.range 16).any (fun i => i != n && c2.bit (.PAIR_REGION_STATUS i) F.PAIR_REGION_STATUS_LAGGING))
  else c2

theorem Chip.countDirty_same (c : Chip) (n : Nat) (b : Bool) : c.SameBesideDirty (c.countDirty n b) := by
  have htrack : ∀ x : Chip, x.SameBesideDirty (if b then x.track else x) := fun x => by
    split
    · exact x.track_same
    · exact Chip.SameBesideDirty.refl _
  unfold Chip.countDirty
  dsimp only
  split
  · exact (Chip.setFld_region_same c n _ _).trans ((htrack _).trans ((Chip.setFld_region_same _ n _ _).trans
      (Chip.setCause_late_same _ _)))
  · exact (Chip.setFld_region_same c n _ _).trans (htrack _)

/-- A mark that is not as asked is written in the line that holds it. -/
theorem Pkg.setDirty_eq (p : Pkg) (n pg : Nat) (b : Bool) : ∃ (line : Nat) (v : Line) (poison : Bool), p.setDirty n pg b =
    if p.pageDirty n pg == b then (if b then p.onChip Chip.track else p)
    else ((p.coherentFetch line 15).1.rawWrite line v poison 15).onChip (fun c => c.countDirty n b) := ⟨_, _, _, rfl⟩

theorem Pkg.setDirty_same (p : Pkg) (n pg : Nat) (b : Bool) : p.chip.SameBesideDirty (p.setDirty n pg b).chip := by
  obtain ⟨line, v, poison, heq⟩ := p.setDirty_eq n pg b
  rw [heq]
  split
  · split
    · exact p.chip.track_same
    · exact Chip.SameBesideDirty.refl _
  · exact (p.coherentFetch_same line 15 { kind := .RD_ONCE }).lines.dirty.trans
      ((Pkg.rawWrite_same _ line v poison 15).dirty.trans (Chip.countDirty_same _ n b))

/-- The lines that a queue gives up are marked dirty. -/
theorem Pkg.markDirty_same (p : Pkg) (l : List MirLine) :
    p.chip.SameBesideDirty (l.foldl (fun q e => q.setDirty e.region (e.line / 64) true) p).chip := by
  induction l generalizing p with
  | nil => exact Chip.SameBesideDirty.refl _
  | cons e l ih => exact (p.setDirty_same _ _ _).trans (ih _)

/-- The unacknowledged lines leave the queue. -/
theorem Pkg.markUnacked_queue (p : Pkg) (sel : MirLine → Bool) :
    (p.markUnacked sel).chip.pair.queue = p.chip.pair.queue.filter (fun e => !sel e)
      ∧ ∀ q : Reg, q.BesideDirty → (p.markUnacked sel).chip.reg q = p.chip.reg q := by
  unfold Pkg.markUnacked
  dsimp only
  have h := Pkg.markDirty_same (p.onChip (fun c => c.onPair (fun s => { s with
      queue := s.queue.filter (fun e => !sel e)
      held := s.held.map (fun h =>
        if (p.chip.pair.queue.filter sel).any (fun e => e.region == h.2.1 && e.line / 64 == h.1.line / 64) then (h.1, h.2.1, 0) else h) })))
      (p.chip.pair.queue.filter sel)
  exact ⟨by rw [h.pair]; rfl, fun q hq => h.reg q hq⟩

-- held completions

theorem Chip.sendDie_frame (c : Chip) (m : Msg) : c.sendDie m = { c with net := (c.sendDie m).net } := by
  unfold Chip.sendDie
  split <;> rfl

theorem Chip.giveHeld_frame (c : Chip) (m : Msg) : c.giveHeld m = { c with net := (c.giveHeld m).net, txn := (c.giveHeld m).txn } := by
  unfold Chip.giveHeld
  split
  · rw [Chip.sendDie_frame]
  · rfl

theorem Chip.giveAll_frame (l : List (Msg × Nat × Nat)) (c : Chip) : l.foldl (fun (x : Chip) e => x.giveHeld e.1) c =
    { c with net := (l.foldl (fun (x : Chip) e => x.giveHeld e.1) c).net, txn := (l.foldl (fun (x : Chip) e => x.giveHeld e.1) c).txn } := by
  induction l generalizing c with
  | nil => rfl
  | cons e l ih =>
    rw [List.foldl_cons, ih, Chip.giveHeld_frame]

theorem Chip.release_frame (c : Chip) (p : Msg × Nat × Nat → Bool) : c.release p =
    { c with net := (c.release p).net, txn := (c.release p).txn
             pair := { c.pair with held := c.pair.held.filter (fun e => !p e) } } := by
  unfold Chip.release
  rw [Chip.giveAll_frame]
  rfl

end Sys2Proof.Machine
end

section
/-! Liveness, heartbeats, separation and the roles of a pair (R394 to R397, R406 to R411). -/

namespace Sys2Proof.Machine

-- PAIR_STATUS

theorem pairStatus_besideDirty : Reg.PAIR_STATUS.BesideDirty where
  dram := Reg.besideDram_of_lt (by decide)
  record := by decide
  region := pairStatus_offset_ne
  late := by decide

/-- STATE and SOURCE follow the register that holds them. -/
theorem Chip.pairState_of_reg {c d : Chip} (h : d.reg .PAIR_STATUS = c.reg .PAIR_STATUS) : d.pairState = c.pairState := Chip.fld_of_reg h _

theorem Chip.isSource_of_reg {c d : Chip} (h : d.reg .PAIR_STATUS = c.reg .PAIR_STATUS) : d.isSource = c.isSource := Chip.bit_of_reg h _

theorem Chip.pairRecord_pair (c : Chip) : c.pairRecord.pair = c.pair := by rw [Chip.pairRecord_frame]
theorem Chip.setPairState_pair (c : Chip) (st : Nat) : (c.setPairState st).pair = c.pair := by rw [Chip.setPairState_frame]
theorem Chip.setSource_pair (c : Chip) (b : Bool) : (c.setSource b).pair = c.pair := by rw [Chip.setSource_frame]
theorem Chip.raiseEvent_pair (c : Chip) (n : Nat) : (c.raiseEvent n).pair = c.pair := by rw [Chip.raiseEvent_frame]
theorem Chip.reportLevel_pair (c : Chip) (u src rid w acc d a : Nat) : (c.reportLevel u src rid w acc d a).pair = c.pair := by
  rw [Chip.reportLevel, Chip.report_frame]
  rfl
theorem Chip.pairFault_pair (c : Chip) (n : Nat) : (c.pairFault n).pair = c.pair := by rw [Chip.pairFault, Chip.report_frame]
theorem Chip.pairFault_reg (c : Chip) (n : Nat) (q : Reg) : (c.pairFault n).reg q = c.reg q := by rw [Chip.pairFault, Chip.report_reg]
theorem Chip.raiseEvent_pairStatus (c : Chip) (n : Nat) (hn : n < 4096) : (c.raiseEvent n).reg .PAIR_STATUS = c.reg .PAIR_STATUS :=
  c.reg_raiseEvent_ne n (by simp only [Reg.offset]; omega)
theorem Chip.onPair_reg (c : Chip) (f : PairSt → PairSt) (q : Reg) : (c.onPair f).reg q = c.reg q := (rfl)
theorem Chip.release_reg (c : Chip) (p : Msg × Nat × Nat → Bool) (q : Reg) : (c.release p).reg q = c.reg q := by
  rw [Chip.release_frame]
  rfl
theorem Chip.release_pair (c : Chip) (p : Msg × Nat × Nat → Bool) :
    (c.release p).pair = { c.pair with held := c.pair.held.filter (fun e => !p e) } := by
  rw [Chip.release_frame]

-- the partner heard and alive

/-- PAIRED or RESYNC. -/
def Chip.joined (c : Chip) : Bool := c.pairState == 2 || c.pairState == 5

theorem Chip.joined_iff (c : Chip) : c.joined = true ↔ c.pairState = 2 ∨ c.pairState = 5 := by simp [Chip.joined]

def Chip.heard (c : Chip) : Bool := c.bit .PAIR_STATUS F.PAIR_STATUS_HEARD

def Chip.alive (c : Chip) : Bool := c.bit .PAIR_STATUS F.PAIR_STATUS_ALIVE

/-- Fault 33 while the partner is heard and silent on the wire (R407). -/
def Chip.pairNoted (c : Chip) : Chip :=
  if c.joined && c.heard && !c.alive then
    (if c.bit (.FC_SRC 33) F.FC_SRC_CAUSE then c else c.reportLevel unitUz 33 0x5000 1 15)
  else c.setCause 33 false

theorem Pkg.pairWatch_eq (p : Pkg) : p.pairWatch =
    if !p.chip.joined || p.chip.heard || p.chip.pair.yielded then p.onChip Chip.pairNoted
    else if p.chip.isSource then (p.onChip Chip.pairNoted).sourceAlone
    else if p.chip.alive then (p.onChip Chip.pairNoted).onChip Chip.detach
    else if p.chip.pairState = 2 then
      (if p.chip.linesWait then p.onChip Chip.pairNoted else (p.onChip Chip.pairNoted).onChip (fun x => x.separate.takeOver))
    else (p.onChip Chip.pairNoted).onChip (fun x => (x.separate.setPairState 7).reportLevel unitUz 38 0x5000 1 15) := rfl

theorem Pkg.pairWatch_stays {p : Pkg} (h : p.chip.joined = false ∨ p.chip.heard = true) : p.pairWatch = p.onChip Chip.pairNoted := by
  rw [Pkg.pairWatch_eq, if_pos]
  rcases h with h | h <;> simp [h]

/-- The watch of a package that no longer hears its partner. -/
theorem Pkg.pairWatch_apart {p : Pkg} (hj : p.chip.joined = true) (hh : p.chip.heard = false) (hy : p.chip.pair.yielded = false) :
    p.pairWatch = if p.chip.isSource then (p.onChip Chip.pairNoted).sourceAlone
    else if p.chip.alive then (p.onChip Chip.pairNoted).onChip Chip.detach
    else if p.chip.pairState = 2 then
      (if p.chip.linesWait then p.onChip Chip.pairNoted else (p.onChip Chip.pairNoted).onChip (fun x => x.separate.takeOver))
    else (p.onChip Chip.pairNoted).onChip (fun x => (x.separate.setPairState 7).reportLevel unitUz 38 0x5000 1 15) := by
  rw [Pkg.pairWatch_eq, if_neg (by simp [hj, hh, hy])]

theorem Chip.pairNoted_pair (c : Chip) : c.pairNoted.pair = c.pair := by
  unfold Chip.pairNoted
  split
  · split
    · rfl
    · rw [Chip.reportLevel_pair]
  · rfl

theorem Chip.pairNoted_reg (c : Chip) {q : Reg} (h : q.offset ≠ (Reg.FC_SRC 33).offset) : c.pairNoted.reg q = c.reg q := by
  unfold Chip.pairNoted
  split
  · split
    · rfl
    · rw [Chip.reg_reportLevel_ne _ _ _ _ _ _ _ _ h]
  · rw [Chip.reg_setCause_ne _ _ _ h]

theorem Chip.pairNoted_status (c : Chip) : c.pairNoted.reg .PAIR_STATUS = c.reg .PAIR_STATUS := c.pairNoted_reg (by decide)

theorem Chip.pairNoted_cause (c : Chip) : c.pairNoted.bit (.FC_SRC 33) F.FC_SRC_CAUSE = (c.joined && c.heard && !c.alive) := by
  unfold Chip.pairNoted
  split
  next h =>
    rw [h]
    split
    next hcause => exact hcause
    next => rw [Chip.reportLevel_cause]
  next h => rw [Chip.setCause_cause, Bool.eq_false_iff.2 h]

-- separation

theorem Chip.separate_reg (c : Chip) (q : Reg) : c.separate.reg q = c.reg q := (rfl)

theorem Pkg.sourceAlone_eq (p : Pkg) : (p.sourceAlone).chip = (((((p.onChip (fun c => c.separate.setPairState 3)).markUnacked
    (fun _ => true)).chip.release (fun _ => true)).raiseEvent 578).pairFault 32) := rfl

theorem Pkg.sourceAlone_spec (p : Pkg) : p.sourceAlone.chip.pairState = 3 ∧ p.sourceAlone.chip.pair.queue = []
    ∧ p.sourceAlone.chip.pair.held = [] := by
  obtain ⟨hq, hr⟩ := Pkg.markUnacked_queue (p.onChip (fun c => c.separate.setPairState 3)) (fun _ => true)
  rw [Pkg.sourceAlone_eq]
  refine ⟨?_, ?_, ?_⟩
  · rw [Chip.pairState_of_reg (Chip.pairFault_reg _ _ _), Chip.pairState_of_reg (Chip.raiseEvent_pairStatus _ _ (by decide)),
      Chip.pairState_of_reg (Chip.release_reg _ _ _), Chip.pairState_of_reg (hr _ pairStatus_besideDirty)]
    exact Chip.setPairState_state _ (by decide)
  · rw [Chip.pairFault_pair, Chip.raiseEvent_pair, Chip.release_pair, hq]
    exact List.filter_eq_nil_iff.2 fun _ _ => by simp
  · rw [Chip.pairFault_pair, Chip.raiseEvent_pair, Chip.release_pair]
    exact List.filter_eq_nil_iff.2 fun _ _ => by simp

theorem Chip.takeOver_spec (c : Chip) : c.takeOver.pairState = 3 ∧ c.takeOver.isSource = true := by
  have hreg : c.takeOver.reg .PAIR_STATUS =
      (((c.onPair (fun s => { s with yielded := false, queue := [] })).setSource true).setPairState 3).reg .PAIR_STATUS := by
    rw [Chip.takeOver, Chip.pairFault_reg, Chip.raiseEvent_pairStatus _ _ (by decide), Chip.release_reg]
  rw [Chip.pairState_of_reg hreg, Chip.isSource_of_reg hreg, Chip.setPairState_isSource, Chip.setSource_isSource]
  exact ⟨Chip.setPairState_state _ (by decide), rfl⟩

theorem Chip.detach_spec (c : Chip) : c.detach.pairState = 4 ∧ c.detach.isSource = c.isSource := by
  rw [Chip.detach, Chip.pairState_of_reg (Chip.raiseEvent_pairStatus _ _ (by decide)), Chip.isSource_of_reg (Chip.raiseEvent_pairStatus _ _ (by decide)),
    Chip.setPairState_isSource]
  exact ⟨Chip.setPairState_state _ (by decide), rfl⟩

theorem Chip.incomplete_spec (c : Chip) : ((c.separate.setPairState 7).reportLevel unitUz 38 0x5000 1 15).pairState = 7
    ∧ ((c.separate.setPairState 7).reportLevel unitUz 38 0x5000 1 15).isSource = c.isSource := by
  rw [Chip.pairState_of_reg (Chip.reg_reportLevel_ne _ _ _ _ _ _ _ _ (by decide)),
    Chip.isSource_of_reg (Chip.reg_reportLevel_ne _ _ _ _ _ _ _ _ (by decide)), Chip.setPairState_isSource]
  exact ⟨Chip.setPairState_state _ (by decide), rfl⟩

-- the wire

theorem pairAliveToggle_cases (s : State) :
    (aliveState s.chip.pairState = true → s.chip.safe = false → Gives .pairAliveToggle s (s.chip.setAliveO (!s.chip.pins.pairAliveO)))
    ∧ (aliveState s.chip.pairState = false ∨ s.chip.safe = true → Gives .pairAliveToggle s (s.chip.setAliveO false))
    ∧ (s.chip.pairLinkUp = true → 2 ≤ s.chip.pairState → s.chip.pair.yielded = false →
      Gives .pairHbSend s ((s.chip.onPair (fun x => { x with hbOut := x.hbOut + 1 })).pairCtl s.chip.hbUnit))
    ∧ (s.chip.pairLinkUp = false ∨ s.chip.pairState < 2 ∨ s.chip.pair.yielded = true → Gives .pairHbSend s s.chip) := by
  refine ⟨fun h1 h2 => gives_of_onChip (ok := true) rfl rfl (if_pos (by simp [h1, h2])),
    fun h => gives_of_onChip (ok := true) rfl rfl (if_neg ?_),
    fun h1 h2 h3 => gives_of_onChip (ok := true) rfl rfl (if_pos (by simp [h1, h2, h3])),
    fun h => gives_of_onChip (ok := true) rfl rfl (if_neg ?_)⟩
  · rcases h with h | h <;> simp [h]
  · rcases h with h | h | h
    · simp [h]
    · simp [Nat.not_le.2 h]
    · simp [h]

/-- ALIVE sets on an edge. -/
def Chip.aliveSeen (c : Chip) : Chip :=
  (({ c with pins := { c.pins with pairAliveI := !c.pins.pairAliveI } } : Chip).onPair (fun s => { s with aliveAt := some c.now })).setBit
    .PAIR_STATUS F.PAIR_STATUS_ALIVE true

theorem Chip.alive_apart (c : Chip) (b : Bool) (f : Field) (h : F.PAIR_STATUS_ALIVE.apart f = true) :
    (c.setBit .PAIR_STATUS F.PAIR_STATUS_ALIVE b).fld .PAIR_STATUS f = c.fld .PAIR_STATUS f := Chip.fld_setBit_apart _ _ _ h

theorem Chip.aliveSeen_fld (c : Chip) {f : Field} (h : F.PAIR_STATUS_ALIVE.apart f = true) :
    c.aliveSeen.fld .PAIR_STATUS f = c.fld .PAIR_STATUS f := (Chip.alive_apart _ _ _ h).trans rfl

theorem pairAliveIEdge_cases (s : State)
    (hpre : s.chip.pairState = 2 ∨ s.chip.pairState = 5 → s.chip.bit .PAIR_STATUS F.PAIR_STATUS_HEARD = true) :
    (s.chip.fld .PAIR_STATUS F.PAIR_STATUS_ROLE = 1 ∨ s.chip.fld .PAIR_STATUS F.PAIR_STATUS_ROLE = 2 → s.chip.pair.partnerYielded = false →
      ∃ t, exec .pairAliveIEdge s = .next t ∧ t.chip.bit .PAIR_STATUS F.PAIR_STATUS_ALIVE = true
        ∧ t.chip.pair.aliveAt = some s.chip.now ∧ t.chip.pairState = s.chip.pairState)
    ∧ ((∀ e, s.chip.pair.aliveAt = some e → e + 50000 ≤ s.chip.now) →
      ∃ t, exec .pairAliveTimeout s = .next t ∧ t.chip.bit .PAIR_STATUS F.PAIR_STATUS_ALIVE = false
        ∧ (t.chip.bit (.FC_SRC 33) F.FC_SRC_CAUSE = true ↔ s.chip.pairState = 2 ∨ s.chip.pairState = 5)) := by
  refine ⟨fun hrole hy => ?_, fun hat => ?_⟩
  · have hdoes : GivesPkg .pairAliveIEdge s s.toPkg.aliveEdge := givesPkg_of_onPkg (ok := true) rfl rfl rfl
    have hseen : s.toPkg.aliveEdge = (s.toPkg.onChip Chip.aliveSeen).pairWatch := by
      rw [Pkg.aliveEdge, Pkg.onChip, Pkg.onChip]
      dsimp only
      rw [if_neg (by rcases hrole with h | h <;> simp [h, hy])]
      rfl
    have hstays : (s.toPkg.onChip Chip.aliveSeen).pairWatch = (s.toPkg.onChip Chip.aliveSeen).onChip Chip.pairNoted := by
      refine Pkg.pairWatch_stays ?_
      by_cases hj : s.chip.joined = true
      · refine Or.inr ((Chip.bit_of_fld (s.chip.aliveSeen_fld (by decide))).trans (hpre ?_))
        exact (Chip.joined_iff _).1 hj
      · refine Or.inl ?_
        show s.chip.aliveSeen.joined = false
        rw [Chip.joined, Chip.pairState, Chip.aliveSeen_fld _ (by decide)]
        exact Bool.eq_false_iff.2 hj
    refine ⟨_, (hdoes.congr hseen).congr hstays, ?_, ?_, ?_⟩
    · refine (Chip.bit_of_reg (Chip.pairNoted_status _) _).trans ?_
      exact Chip.bit_setBit _ _ _ _ (by decide) (by decide)
    · exact (congrArg PairSt.aliveAt (Chip.pairNoted_pair _)).trans rfl
    · exact (Chip.pairState_of_reg (Chip.pairNoted_status _)).trans (s.chip.aliveSeen_fld (by decide))
  · have hdoes : GivesPkg .pairAliveTimeout s s.toPkg.aliveTimeout := givesPkg_of_onPkg (ok := true) rfl rfl rfl
    let c := s.chip.setBit .PAIR_STATUS F.PAIR_STATUS_ALIVE false
    have hout : s.toPkg.aliveTimeout = ({ s.toPkg with chip := c } : Pkg).pairWatch := by
      refine if_pos ?_
      show s.chip.pair.aliveAt.all (fun t => t + 50000 ≤ s.chip.now) = true
      cases hs : s.chip.pair.aliveAt with
      | none => rfl
      | some e => exact decide_eq_true (hat e hs)
    have hstate : c.pairState = s.chip.pairState := Chip.alive_apart _ _ _ (by decide)
    have hheard : c.heard = s.chip.heard := Chip.bit_of_fld (Chip.alive_apart _ _ _ (by decide))
    have halive : c.alive = false := Chip.bit_setBit _ _ _ _ (by decide) (by decide)
    have hjoin : c.joined = s.chip.joined := by rw [Chip.joined, hstate, Chip.joined]
    have hstays : ({ s.toPkg with chip := c } : Pkg).pairWatch = ({ s.toPkg with chip := c } : Pkg).onChip Chip.pairNoted := by
      refine Pkg.pairWatch_stays ?_
      show c.joined = false ∨ c.heard = true
      rw [hjoin, hheard]
      by_cases hj : s.chip.joined = true
      · exact Or.inr (hpre ((Chip.joined_iff _).1 hj))
      · exact Or.inl (Bool.eq_false_iff.2 hj)
    refine ⟨_, (hdoes.congr hout).congr hstays, ?_, ?_⟩
    · exact (Chip.bit_of_reg (Chip.pairNoted_status _) _).trans halive
    · show c.pairNoted.bit (.FC_SRC 33) F.FC_SRC_CAUSE = true ↔ _
      rw [Chip.pairNoted_cause, halive, hjoin, hheard, ← Chip.joined_iff]
      refine ⟨fun h => by simpa using (Bool.and_eq_true_iff.1 (Bool.and_eq_true_iff.1 h).1).1, fun hj => ?_⟩
      rw [hj, show s.chip.heard = true from hpre ((Chip.joined_iff _).1 hj)]
      rfl

theorem pairAliveTimeout_early (s : State) (e : Nat) (hat : s.chip.pair.aliveAt = some e) (hlt : s.chip.now < e + 50000) :
    Gives .pairAliveTimeout s s.chip := by
  have hdoes : GivesPkg .pairAliveTimeout s s.toPkg.aliveTimeout := givesPkg_of_onPkg (ok := true) rfl rfl rfl
  refine hdoes.congr (if_neg ?_)
  show ¬s.chip.pair.aliveAt.all (fun t => t + 50000 ≤ s.chip.now) = true
  rw [hat]
  simpa using hlt

-- heartbeats

/-- HEARD clears. -/
def Chip.unheard (c : Chip) : Chip := c.setBit .PAIR_STATUS F.PAIR_STATUS_HEARD false

theorem Chip.unheard_fld (c : Chip) {f : Field} (h : F.PAIR_STATUS_HEARD.apart f = true) :
    c.unheard.fld .PAIR_STATUS f = c.fld .PAIR_STATUS f := Chip.fld_setBit_apart _ _ _ h

theorem Chip.unheard_joined (c : Chip) : c.unheard.joined = c.joined := by
  rw [Chip.joined, Chip.pairState, Chip.unheard_fld _ (by decide), ← Chip.pairState, ← Chip.joined]

theorem pairHbTimeout_late {s : State} {e : Nat} (hat : s.chip.pair.hbAt = some e) (hle : e + s.chip.hbTimeout ≤ s.chip.now) :
    GivesPkg .pairHbTimeout s (s.toPkg.onChip Chip.unheard).pairWatch := by
  have hdoes : GivesPkg .pairHbTimeout s s.toPkg.hbTimedOut := givesPkg_of_onPkg (ok := true) rfl rfl rfl
  refine hdoes.congr (if_pos ?_)
  show s.chip.pair.hbAt.all (fun t => t + s.chip.hbTimeout ≤ s.chip.now) = true
  rw [hat]
  exact decide_eq_true hle

/-- A package whose partner has fallen silent separates (R407, R409). -/
theorem Pkg.unheard_watch {p : Pkg} (hj : p.chip.joined = true) (hy : p.chip.pair.yielded = false) :
    (p.onChip Chip.unheard).pairWatch = if p.chip.isSource then ((p.onChip Chip.unheard).onChip Chip.pairNoted).sourceAlone
    else if p.chip.alive then ((p.onChip Chip.unheard).onChip Chip.pairNoted).onChip Chip.detach
    else if p.chip.pairState = 2 then
      (if p.chip.linesWait then (p.onChip Chip.unheard).onChip Chip.pairNoted
        else ((p.onChip Chip.unheard).onChip Chip.pairNoted).onChip (fun x => x.separate.takeOver))
    else ((p.onChip Chip.unheard).onChip Chip.pairNoted).onChip
      (fun x => (x.separate.setPairState 7).reportLevel unitUz 38 0x5000 1 15) := by
  have hsource : p.chip.unheard.isSource = p.chip.isSource := Chip.bit_of_fld (p.chip.unheard_fld (by decide))
  have halive : p.chip.unheard.alive = p.chip.alive := Chip.bit_of_fld (p.chip.unheard_fld (by decide))
  have hstate : p.chip.unheard.pairState = p.chip.pairState := p.chip.unheard_fld (by decide)
  have hwait : p.chip.unheard.linesWait = p.chip.linesWait := by
    have hcommitted : p.chip.unheard.wldCommitted = p.chip.wldCommitted :=
      Chip.bit_of_reg (Chip.reg_setBit_ne _ _ _ (by decide)) _
    rw [Chip.linesWait, hcommitted]
    rfl
  rw [Pkg.pairWatch_apart (p := p.onChip Chip.unheard) ((p.chip.unheard_joined).trans hj) (Chip.bit_setBit _ _ _ _ (by decide) (by decide)) hy]
  rw [show (p.onChip Chip.unheard).chip.isSource = _ from hsource, show (p.onChip Chip.unheard).chip.alive = _ from halive,
    show (p.onChip Chip.unheard).chip.pairState = _ from hstate, show (p.onChip Chip.unheard).chip.linesWait = _ from hwait]

theorem Chip.unheardNoted_status (c : Chip) : c.unheard.pairNoted.pairState = c.pairState ∧ c.unheard.pairNoted.isSource = c.isSource := by
  rw [Chip.pairState_of_reg (Chip.pairNoted_status _), Chip.isSource_of_reg (Chip.pairNoted_status _)]
  exact ⟨c.unheard_fld (by decide), Chip.bit_of_fld (c.unheard_fld (by decide))⟩

theorem pairHbTimeout_cases (s : State) (e : Nat) (hat : s.chip.pair.hbAt = some e) :
    (s.chip.now < e + s.chip.hbTimeout → Gives .pairHbTimeout s s.chip)
    ∧ (e + s.chip.hbTimeout ≤ s.chip.now → s.chip.pair.yielded = false →
      let alive := s.chip.bit .PAIR_STATUS F.PAIR_STATUS_ALIVE
      (s.chip.pairState = 2 ∨ s.chip.pairState = 5 → s.chip.isSource = true →
        ∃ t, exec .pairHbTimeout s = .next t ∧ t.chip.pairState = 3 ∧ t.chip.pair.queue = [] ∧ t.chip.pair.held = [])
      ∧ (s.chip.pairState = 2 ∨ s.chip.pairState = 5 → s.chip.isSource = false → alive = true →
        ∃ t, exec .pairHbTimeout s = .next t ∧ t.chip.pairState = 4 ∧ t.chip.isSource = false)
      ∧ (s.chip.pairState = 2 → s.chip.isSource = false → alive = false →
        ∃ t, exec .pairHbTimeout s = .next t ∧ t.chip.pairState = (if s.chip.linesWait then 2 else 3)
          ∧ t.chip.isSource = !s.chip.linesWait)
      ∧ (s.chip.pairState = 5 → s.chip.isSource = false → alive = false →
        ∃ t, exec .pairHbTimeout s = .next t ∧ t.chip.pairState = 7 ∧ t.chip.isSource = false)) := by
  refine ⟨fun hlt => ?_, fun hle hy => ?_⟩
  · have hdoes : GivesPkg .pairHbTimeout s s.toPkg.hbTimedOut := givesPkg_of_onPkg (ok := true) rfl rfl rfl
    refine hdoes.congr (if_neg ?_)
    show ¬s.chip.pair.hbAt.all (fun t => t + s.chip.hbTimeout ≤ s.chip.now) = true
    rw [hat]
    simpa using hlt
  · intro alive
    have hdoes := pairHbTimeout_late hat hle
    obtain ⟨hst, hsrc⟩ := s.chip.unheardNoted_status
    have happly : s.chip.joined = true → _ := fun hj => hdoes.congr (Pkg.unheard_watch (p := s.toPkg) hj hy)
    refine ⟨fun hj h1 => ?_, fun hj h1 h2 => ?_, fun hs h1 h2 => ?_, fun hs h1 h2 => ?_⟩
    · exact ⟨_, (happly ((Chip.joined_iff _).2 hj)).congr (if_pos h1), Pkg.sourceAlone_spec _⟩
    · refine ⟨_, (happly ((Chip.joined_iff _).2 hj)).congr ((if_neg (by simp [h1])).trans (if_pos h2)), ?_⟩
      obtain ⟨h3, h4⟩ := s.chip.unheard.pairNoted.detach_spec
      exact ⟨h3, h4.trans (hsrc.trans h1)⟩
    · have hthird := (happly ((Chip.joined_iff _).2 (Or.inl hs))).congr ((if_neg (by simp [h1])).trans ((if_neg (by
        rw [show s.toPkg.chip.alive = false from h2]; simp)).trans (if_pos hs)))
      by_cases hw : s.chip.linesWait = true
      · refine ⟨_, hthird.congr (if_pos hw), ?_⟩
        rw [hw]
        exact ⟨hst.trans hs, hsrc.trans h1⟩
      · refine ⟨_, hthird.congr (if_neg hw), ?_⟩
        rw [Bool.eq_false_iff.2 hw]
        exact Chip.takeOver_spec _
    · refine ⟨_, (happly ((Chip.joined_iff _).2 (Or.inr hs))).congr ((if_neg (by simp [h1])).trans ((if_neg (by
        rw [show s.toPkg.chip.alive = false from h2]; simp)).trans (if_neg (by simp [hs])))), ?_⟩
      obtain ⟨h3, h4⟩ := s.chip.unheard.pairNoted.incomplete_spec
      exact ⟨h3, h4.trans (hsrc.trans h1)⟩

-- a heartbeat arrives

/-- The heartbeat is noted: the partner is heard. -/
def Chip.hbNoted (c : Chip) (state : Nat) (notReady : Bool) : Chip :=
  (c.onPair (fun s => { s with hbAt := some c.now, partnerState := state, partnerReady := !notReady })).setBit .PAIR_STATUS
    F.PAIR_STATUS_HEARD true

theorem Chip.hbNoted_fld (c : Chip) (state : Nat) (notReady : Bool) {f : Field} (h : F.PAIR_STATUS_HEARD.apart f = true) :
    (c.hbNoted state notReady).fld .PAIR_STATUS f = c.fld .PAIR_STATUS f := (Chip.fld_setBit_apart _ _ _ h).trans rfl

theorem Chip.hbNoted_heard (c : Chip) (state : Nat) (notReady : Bool) : (c.hbNoted state notReady).heard = true :=
  Chip.bit_setBit _ _ _ _ (by decide) (by decide)

/-- STATE after a heartbeat. -/
def hbNext (st : Nat) (isSource yielded split source notReady : Bool) : Nat :=
  if (st = 2 ∧ isSource = true ∧ notReady = true) ∨ (st = 3 ∧ source = false) ∨ (st = 4 ∧ yielded = false)
    ∨ (st = 6 ∧ split = true ∧ source = true) then 5 else st

/-- What a heartbeat does to STATE, and what it leaves. -/
theorem Chip.hbState_spec (c : Chip) (source notReady : Bool) :
    (c.hbState source notReady).pairState = hbNext c.pairState c.isSource c.pair.yielded c.pair.split source notReady
    ∧ (c.hbState source notReady).heard = c.heard ∧ (c.hbState source notReady).pair.hbAt = c.pair.hbAt
    ∧ (c.hbState source notReady).pair.partnerReady = c.pair.partnerReady := by
  have hfive : ∀ x : Chip, (x.setPairState 5).pairState = 5 ∧ (x.setPairState 5).heard = x.heard
      ∧ (x.setPairState 5).pair.hbAt = x.pair.hbAt ∧ (x.setPairState 5).pair.partnerReady = x.pair.partnerReady := fun x =>
    ⟨x.setPairState_state (by decide), Chip.bit_of_fld (x.setPairState_fld 5 (by decide)), by rw [x.setPairState_pair],
      by rw [x.setPairState_pair]⟩
  unfold Chip.hbState hbNext
  split
  next h =>
    rw [h]
    split
    next hb =>
      rw [if_pos (by simpa using hb)]
      exact hfive c
    next hb =>
      rw [if_neg (by simpa using hb)]
      exact ⟨h, rfl, rfl, rfl⟩
  next h =>
    rw [h]
    split
    next hb =>
      rw [if_neg (by simp [hb])]
      exact ⟨h, rfl, rfl, rfl⟩
    next hb =>
      rw [if_pos (by simpa using hb)]
      exact hfive c
  next h =>
    rw [h]
    split
    next hb =>
      rw [if_neg (by simp [hb])]
      exact ⟨h, rfl, rfl, rfl⟩
    next hb =>
      rw [if_pos (by simpa using hb)]
      exact hfive c
  next h =>
    rw [h]
    split
    next hb =>
      rw [if_pos (by simpa using hb)]
      obtain ⟨h1, h2, h3, h4⟩ := hfive ((c.onPair (fun s => { s with split := false })).setSource false)
      rw [Chip.setSource_pair] at h3 h4
      exact ⟨h1, h2.trans (Chip.bit_of_fld (Chip.setSource_fld _ _ (by decide))), h3, h4⟩
    next hb =>
      rw [if_neg (by simpa using hb)]
      exact ⟨h, rfl, rfl, rfl⟩
  next h2 h3 h4 h6 =>
    rw [if_neg (by tauto)]
    exact ⟨rfl, rfl, rfl, rfl⟩

theorem Chip.sayTable_frame (c : Chip) (now : Bool) : c.sayTable now = { c with pair := { c.pair with said := (c.sayTable now).pair.said } } := by
  unfold Chip.sayTable
  split
  · rw [Chip.pairSay_frame]
  · rfl

theorem Chip.sayTable_reg (c : Chip) (now : Bool) (q : Reg) : (c.sayTable now).reg q = c.reg q := by
  rw [Chip.sayTable_frame]
  rfl

/-- A package that hears its partner. -/
theorem Chip.hbTaken_spec (c : Chip) (state : Nat) (source notReady now : Bool) :
    let d := (((c.hbNoted state notReady).hbState source notReady).sayTable now).pairNoted
    d.heard = true ∧ d.pair.hbAt = some c.now ∧ d.pair.partnerReady = !notReady
      ∧ d.pairState = hbNext c.pairState c.isSource c.pair.yielded c.pair.split source notReady := by
  obtain ⟨h1, h2, h3, h4⟩ := (c.hbNoted state notReady).hbState_spec source notReady
  have hreg : ∀ x : Chip, (x.sayTable now).pairNoted.reg .PAIR_STATUS = x.reg .PAIR_STATUS := fun x =>
    (Chip.pairNoted_status _).trans (Chip.sayTable_reg _ _ _)
  refine ⟨?_, ?_, ?_, ?_⟩
  · exact (Chip.bit_of_reg (hreg _) _).trans (h2.trans (c.hbNoted_heard state notReady))
  · rw [Chip.pairNoted_pair, Chip.sayTable_frame]
    exact h3
  · rw [Chip.pairNoted_pair, Chip.sayTable_frame]
    exact h4
  · rw [Chip.pairState_of_reg (hreg _), h1, show (c.hbNoted state notReady).pairState = c.pairState from c.hbNoted_fld _ _ (by decide),
      show (c.hbNoted state notReady).isSource = c.isSource from Chip.bit_of_fld (c.hbNoted_fld _ _ (by decide))]
    rfl

theorem Chip.hbTaken_heard (c : Chip) (state : Nat) (source notReady now : Bool) :
    (((c.hbNoted state notReady).hbState source notReady).sayTable now).heard = true := by
  obtain ⟨_, h2, _⟩ := (c.hbNoted state notReady).hbState_spec source notReady
  exact (Chip.bit_of_reg (Chip.sayTable_reg _ _ _) _).trans (h2.trans (c.hbNoted_heard state notReady))

theorem pairHb_cases (s : State) (state time queued : Nat) (source safe notReady : Bool) (hs : state < 8) (ht : time < 2 ^ 64)
    (hq : queued < 2 ^ 32) : let st := s.chip.pairState
    (2 ≤ st → s.chip.pair.partnerYielded = false → ∃ t, exec (.pairHb state source safe notReady time queued) s = .next t
      ∧ t.chip.bit .PAIR_STATUS F.PAIR_STATUS_HEARD = true ∧ t.chip.pair.hbAt = some s.chip.now
      ∧ t.chip.pair.partnerReady = !notReady ∧ t.chip.pairState =
        (if (st = 2 ∧ s.chip.isSource = true ∧ notReady = true) ∨ (st = 3 ∧ source = false) ∨ (st = 4 ∧ s.chip.pair.yielded = false)
            ∨ (st = 6 ∧ s.chip.pair.split = true ∧ source = true) then 5 else st))
    ∧ (st < 2 ∨ s.chip.pair.partnerYielded = true → Gives (.pairHb state source safe notReady time queued) s s.chip) := by
  intro st
  have hdoes : GivesPkg (.pairHb state source safe notReady time queued) s (s.toPkg.heartbeat state source notReady) :=
    givesPkg_of_onPkg rfl (by simpa [hs] using ⟨ht, hq⟩) rfl
  refine ⟨fun h2 hy => ?_, fun h => hdoes.congr (if_pos h)⟩
  have hno : ¬(s.toPkg.chip.pairState < 2 ∨ s.toPkg.chip.pair.partnerYielded = true) := fun h => h.elim (fun h => absurd h2 (Nat.not_le.2 h))
    fun h => absurd (hy.symm.trans h) (by decide)
  exact ⟨_, hdoes.congr ((if_neg hno).trans (Pkg.pairWatch_stays (Or.inr (Chip.hbTaken_heard _ _ _ _ _)))),
    Chip.hbTaken_spec s.chip state source notReady _⟩

-- PAIR_YIELD

/-- The partner is neither heard nor alive. -/
def Chip.partnerGone (c : Chip) : Chip :=
  ((c.onPair (fun s => { s with partnerYielded := true, hbAt := none, aliveAt := none })).setBit .PAIR_STATUS F.PAIR_STATUS_HEARD
    false).setBit .PAIR_STATUS F.PAIR_STATUS_ALIVE false

theorem Chip.partnerGone_fld (c : Chip) {f : Field} (h1 : F.PAIR_STATUS_HEARD.apart f = true) (h2 : F.PAIR_STATUS_ALIVE.apart f = true) :
    c.partnerGone.fld .PAIR_STATUS f = c.fld .PAIR_STATUS f :=
  (Chip.fld_setBit_apart _ _ _ h2).trans (Chip.fld_setBit_apart _ _ _ h1)

theorem Chip.partnerGone_bits (c : Chip) : c.partnerGone.heard = false ∧ c.partnerGone.alive = false :=
  ⟨(Chip.bit_setBit_apart _ _ _ (by decide)).trans (Chip.bit_setBit _ _ _ _ (by decide) (by decide)),
    Chip.bit_setBit _ _ _ _ (by decide) (by decide)⟩

theorem pairYield_cases (s : State) : (s.chip.pairState ≠ 2 → s.chip.pairState ≠ 5 → ∃ t, exec .pairYield s = .next t
      ∧ t.chip.pair.partnerYielded = true ∧ t.chip.bit .PAIR_STATUS F.PAIR_STATUS_HEARD = false
      ∧ t.chip.bit .PAIR_STATUS F.PAIR_STATUS_ALIVE = false)
    ∧ (s.chip.pairState = 2 → s.chip.isSource = false → s.chip.pair.yielded = false → s.chip.linesWait = false →
      ∃ t, exec .pairYield s = .next t ∧ t.chip.pairState = 3 ∧ t.chip.isSource = true) := by
  have hdoes : GivesPkg .pairYield s (s.toPkg.onChip Chip.partnerGone).pairWatch := givesPkg_of_onPkg (ok := true) rfl rfl rfl
  have hstate : s.chip.partnerGone.pairState = s.chip.pairState := s.chip.partnerGone_fld (by decide) (by decide)
  obtain ⟨hheard, halive⟩ := s.chip.partnerGone_bits
  refine ⟨fun h2 h5 => ?_, fun h2 hsrc hy hw => ?_⟩
  · have hstays : (s.toPkg.onChip Chip.partnerGone).pairWatch = (s.toPkg.onChip Chip.partnerGone).onChip Chip.pairNoted := by
      refine Pkg.pairWatch_stays (Or.inl (Bool.eq_false_iff.2 fun hj => ?_))
      rcases (Chip.joined_iff _).1 hj with h | h
      · exact h2 (hstate.symm.trans h)
      · exact h5 (hstate.symm.trans h)
    refine ⟨_, hdoes.congr hstays, ?_, (Chip.bit_of_reg (Chip.pairNoted_status _) _).trans hheard,
      (Chip.bit_of_reg (Chip.pairNoted_status _) _).trans halive⟩
    exact (congrArg PairSt.partnerYielded (Chip.pairNoted_pair _)).trans rfl
  · have hsource : s.chip.partnerGone.isSource = false := (Chip.bit_of_fld (s.chip.partnerGone_fld (by decide) (by decide))).trans hsrc
    have hwait : s.chip.partnerGone.linesWait = false := by
      have hcommitted : s.chip.partnerGone.wldCommitted = s.chip.wldCommitted :=
        Chip.bit_of_reg ((Chip.reg_setBit_ne _ _ _ (by decide)).trans (Chip.reg_setBit_ne _ _ _ (by decide))) _
      rw [← hw, Chip.linesWait, hcommitted]
      rfl
    have hapart := Pkg.pairWatch_apart (p := s.toPkg.onChip Chip.partnerGone) ((Chip.joined_iff _).2 (Or.inl (hstate.trans h2))) hheard hy
    refine ⟨_, hdoes.congr (hapart.trans ((if_neg ?_).trans ((if_neg ?_).trans ((if_pos ?_).trans (if_neg ?_))))), Chip.takeOver_spec _⟩
    · rw [show (s.toPkg.onChip Chip.partnerGone).chip.isSource = false from hsource]; simp
    · rw [show (s.toPkg.onChip Chip.partnerGone).chip.alive = false from halive]; simp
    · exact hstate.trans h2
    · rw [show (s.toPkg.onChip Chip.partnerGone).chip.linesWait = false from hwait]; simp

-- discovery

theorem Chip.rematch_fld (c : Chip) {f : Field} (h : F.PAIR_STATUS_CFG_MATCH.apart f = true) :
    c.rematch.fld .PAIR_STATUS f = c.fld .PAIR_STATUS f := by
  have hmatch : ∀ same : Bool, (if same == c.bit .PAIR_STATUS F.PAIR_STATUS_CFG_MATCH then c
      else (c.setBit .PAIR_STATUS F.PAIR_STATUS_CFG_MATCH same).raiseEvent 583).fld .PAIR_STATUS f = c.fld .PAIR_STATUS f := fun same => by
    split
    · rfl
    · rw [Chip.fld_of_reg (Chip.raiseEvent_pairStatus _ _ (by decide)), Chip.fld_setBit_apart _ _ _ h]
  unfold Chip.rematch
  split
  · rfl
  · dsimp only
    split
    · rw [Chip.fld_of_reg (Chip.reg_setCause_ne _ _ _ (by decide))]
      exact hmatch _
    · split
      · exact hmatch _
      · rw [Chip.fld_of_reg (Chip.reg_reportLevel_ne _ _ _ _ _ _ _ _ (by decide))]
        exact hmatch _

theorem Chip.newDigest_fld (c : Chip) {f : Field} (h : F.PAIR_STATUS_CFG_MATCH.apart f = true) :
    c.newDigest.fld .PAIR_STATUS f = c.fld .PAIR_STATUS f := by
  unfold Chip.newDigest
  split
  · rfl
  · dsimp only
    rw [Chip.fld_of_reg (Chip.pairSay_reg _ _ _), Chip.rematch_fld _ h]
    rfl

/-- The role of a package: STATE, SOURCE and whether it is held out of a split. -/
def Chip.role (c : Chip) : Nat × Bool × Bool := (c.pairState, c.isSource, c.pair.split)

theorem Chip.newDigest_role (c : Chip) : c.newDigest.role = c.role := by
  have hpair : c.newDigest.pair.split = c.pair.split := by rw [Chip.newDigest_frame]
  have hsource : c.newDigest.isSource = c.isSource := Chip.bit_of_fld (c.newDigest_fld (by decide))
  rw [Chip.role, Chip.pairState, c.newDigest_fld (by decide), hsource, hpair]
  rfl

theorem Chip.pairRecord_role (c : Chip) : c.pairRecord.role = c.role := by
  have hreg := c.reg_pairRecord_ne (q := .PAIR_STATUS) (by decide)
  rw [Chip.role, Chip.pairState_of_reg hreg, Chip.isSource_of_reg hreg, Chip.pairRecord_pair, ← Chip.role]

theorem Chip.pairFault_role (c : Chip) (n : Nat) : (c.pairFault n).role = c.role := by
  have hreg := c.pairFault_reg n .PAIR_STATUS
  rw [Chip.role, Chip.pairState_of_reg hreg, Chip.isSource_of_reg hreg, Chip.pairFault_pair, ← Chip.role]

theorem Chip.setPairState_role (c : Chip) {st : Nat} (h : st < 8) : (c.setPairState st).role = (st, c.isSource, c.pair.split) := by
  rw [Chip.role, Chip.setPairState_state _ h, Chip.setPairState_isSource, Chip.setPairState_pair]

theorem Chip.heldOut_role (c : Chip) (fault : Nat) (split : Bool) : (c.heldOut fault split).role = (6, false, split) := by
  rw [Chip.heldOut, Chip.pairFault_role, Chip.setPairState_role _ (by decide), Chip.setSource_isSource, Chip.setSource_pair]
  rfl

theorem Chip.becomeSource_role (c : Chip) (all : Bool) : (c.becomeSource all).role = (2, true, c.pair.split) := by
  rw [Chip.becomeSource, Chip.setPairState_role _ (by decide), Chip.setSource_isSource, Chip.setSource_pair]
  split <;> rfl

theorem Chip.becomeTarget_role (c : Chip) : c.becomeTarget.role = (5, false, c.pair.split) := by
  rw [Chip.becomeTarget, Chip.setPairState_role _ (by decide), Chip.setSource_isSource, Chip.setSource_pair]

/-- Both records are known, and the pair begins anew (R396). -/
def Chip.discovered (c : Chip) (a : PairIdent) : Chip :=
  ((c.onPair (fun s => { s with
    yielded := false, partnerYielded := false, partnerReady := false, split := false, hbAt := some c.now, queue := []
    seq := [], rxSeq := [], ackOwed := [], fullCopy := [] })).setBit .PAIR_STATUS F.PAIR_STATUS_HEARD true).setReg
      .PAIR_PARTNER_SERIAL (BitVec.ofNat 64 a.serial)

/-- The role that the two records give (R396). -/
def Chip.assigned (c : Chip) (a : PairIdent) : Chip :=
  if c.pair.tracking && a.tracking then (c.discovered a).heldOut 35 true
  else if c.pair.tracking then (c.discovered a).becomeSource (a.srcAtSep || a.serial != (c.reg .PAIR_PARTNER_SERIAL).toNat)
  else if a.tracking then (c.discovered a).becomeTarget
  else if c.fld .PAIR_STATUS F.PAIR_STATUS_ROLE = 1 then (c.discovered a).becomeSource true
  else (c.discovered a).becomeTarget

theorem Chip.discover_eq (c : Chip) (a b : PairIdent) : c.discover a b =
    if a ≠ b ∨ a.role = c.fld .PAIR_STATUS F.PAIR_STATUS_ROLE then c.heldOut 34 false
    else (if (c.assigned a).pairState = c.pairState then (c.assigned a).pairRecord else c.assigned a).newDigest := rfl

theorem Chip.discover_role {c : Chip} {a b : PairIdent} (h : ¬(a ≠ b ∨ a.role = c.fld .PAIR_STATUS F.PAIR_STATUS_ROLE)) :
    (c.discover a b).role = (c.assigned a).role := by
  rw [Chip.discover_eq, if_neg h, Chip.newDigest_role]
  split
  · rw [Chip.pairRecord_role]
  · rfl

theorem Chip.role_eq {c : Chip} {st : Nat} {source split : Bool} (h : c.role = (st, source, split)) :
    c.pairState = st ∧ c.isSource = source ∧ c.pair.split = split := by
  obtain ⟨h1, h2, h3⟩ : _ ∧ _ ∧ _ := ⟨congrArg Prod.fst h, congrArg (fun x => x.2.1) h, congrArg (fun x => x.2.2) h⟩
  exact ⟨h1, h2, h3⟩

theorem pairDiscovery_cases (s : State) (a b : PairIdent) (ha : PairIdentOk a = true) (hb : PairIdentOk b = true) :
    (s.chip.pairState = 1 → ∃ t, exec (.pairDiscovery a b) s = .next t ∧
      (a ≠ b ∨ a.role = s.chip.fld .PAIR_STATUS F.PAIR_STATUS_ROLE → t.chip.pairState = 6 ∧ t.chip.isSource = false)
      ∧ (a = b → a.role ≠ s.chip.fld .PAIR_STATUS F.PAIR_STATUS_ROLE →
        (s.chip.pair.tracking = true → a.tracking = true → t.chip.pairState = 6 ∧ t.chip.pair.split = true ∧ t.chip.isSource = false)
        ∧ (s.chip.pair.tracking = true → a.tracking = false → t.chip.pairState = 2 ∧ t.chip.isSource = true)
        ∧ (s.chip.pair.tracking = false → a.tracking = true → t.chip.pairState = 5 ∧ t.chip.isSource = false)
        ∧ (s.chip.pair.tracking = false → a.tracking = false →
          (s.chip.fld .PAIR_STATUS F.PAIR_STATUS_ROLE = 1 → t.chip.pairState = 2 ∧ t.chip.isSource = true)
          ∧ (s.chip.fld .PAIR_STATUS F.PAIR_STATUS_ROLE ≠ 1 → t.chip.pairState = 5 ∧ t.chip.isSource = false))))
    ∧ (s.chip.pairState ≠ 1 → Gives (.pairDiscovery a b) s s.chip) := by
  have hok : (PairIdentOk a && PairIdentOk b) = true := by rw [ha, hb]; rfl
  refine ⟨fun h1 => ⟨_, gives_of_onChip rfl hok (if_pos h1), fun hdiffer => ?_, fun hsame hrole => ?_⟩,
    fun h1 => gives_of_onChip rfl hok (if_neg h1)⟩
  · dsimp only
    rw [Chip.discover_eq, if_pos hdiffer]
    obtain ⟨h2, h3, -⟩ := Chip.role_eq (s.chip.heldOut_role 34 false)
    exact ⟨h2, h3⟩
  · have hassigned : (s.chip.discover a b).role = (s.chip.assigned a).role :=
      Chip.discover_role (fun h => h.elim (fun h => h hsame) fun h => hrole h)
    unfold Chip.assigned at hassigned
    refine ⟨fun hm ht => ?_, fun hm ht => ?_, fun hm ht => ?_, fun hm ht => ⟨fun hr => ?_, fun hr => ?_⟩⟩
    · rw [if_pos (by simp [hm, ht]), Chip.heldOut_role] at hassigned
      obtain ⟨h2, h3, h4⟩ := Chip.role_eq hassigned
      exact ⟨h2, h4, h3⟩
    · rw [if_neg (by simp [ht]), if_pos hm, Chip.becomeSource_role] at hassigned
      obtain ⟨h2, h3, -⟩ := Chip.role_eq hassigned
      exact ⟨h2, h3⟩
    · rw [if_neg (by simp [hm]), if_neg (by simp [hm]), if_pos ht, Chip.becomeTarget_role] at hassigned
      obtain ⟨h2, h3, -⟩ := Chip.role_eq hassigned
      exact ⟨h2, h3⟩
    · rw [if_neg (by simp [hm]), if_neg (by simp [hm]), if_neg (by simp [ht]), if_pos hr, Chip.becomeSource_role] at hassigned
      obtain ⟨h2, h3, -⟩ := Chip.role_eq hassigned
      exact ⟨h2, h3⟩
    · rw [if_neg (by simp [hm]), if_neg (by simp [hm]), if_neg (by simp [ht]), if_neg hr, Chip.becomeTarget_role] at hassigned
      obtain ⟨h2, h3, -⟩ := Chip.role_eq hassigned
      exact ⟨h2, h3⟩

-- a pair link trains again

/-- A link that trains is up. -/
theorem Chip.trainLink_state (c : Chip) (k w spares : Nat) : (c.trainLink k true w spares).linkState k = 2 := by
  rw [Chip.linkState, Chip.trainLink, if_pos rfl, Chip.fld_of_reg (Chip.reg_setCause_ne _ _ _ (by simp only [Reg.offset]; omega)),
    Chip.fld_setFld_of_lt _ _ _ (by decide) (by decide) (by decide)]

theorem Chip.trainLink_reg (c : Chip) (k w spares : Nat) {q : Reg} (hs : q.offset ≠ (Reg.JL_STATUS k).offset)
    (hr : q.offset ≠ (Reg.JL_RETRY k).offset) (hf : q.offset ≠ (Reg.FC_SRC (400 + 2 * k)).offset) :
    (c.trainLink k true w spares).reg q = c.reg q := by
  rw [Chip.trainLink, if_pos rfl, Chip.reg_setCause_ne _ _ _ hf, Chip.reg_setFld_ne _ _ _ hs]
  refine (Chip.reg_of_regs rfl q).trans ((Chip.reg_setFld_ne _ _ _ hs).trans ((Chip.reg_setFld_ne _ _ _ hr).trans
    ((Chip.reg_setFld_ne _ _ _ hs).trans (Chip.reg_setReg_ne _ _ hs))))

theorem pairLinks_tried {c : Chip} {k : Nat} (hk : k = 24 ∨ k = 25) (h1 : c.linkState k ≠ 2) (h2 : c.linkState (49 - k) = 2) :
    [24, 25].filter (fun k => c.linkState k != 2) = [k] := by
  rcases hk with rfl | rfl
  · rw [List.filter_cons_of_pos (by simpa using h1), List.filter_cons_of_neg (by simpa using h2), List.filter_nil]
  · rw [List.filter_cons_of_neg (by simpa using h2), List.filter_cons_of_pos (by simpa using h1), List.filter_nil]

theorem Chip.pairLinkUp_of_other {c : Chip} {k : Nat} (hk : k = 24 ∨ k = 25) (h : c.linkState (49 - k) = 2) : c.pairLinkUp = true := by
  rcases hk with rfl | rfl <;> simp [Chip.pairLinkUp, h]

theorem Pkg.linkRetry_one {p : Pkg} {trains k : Nat} {peer : PairIdent} (hk : k = 24 ∨ k = 25)
    (hrole : p.chip.fld .PAIR_STATUS F.PAIR_STATUS_ROLE = 1 ∨ p.chip.fld .PAIR_STATUS F.PAIR_STATUS_ROLE = 2)
    (hstate : p.chip.pairState = 2 ∨ p.chip.pairState = 5) (h1 : p.chip.linkState k ≠ 2) (h2 : p.chip.linkState (49 - k) = 2)
    (hb : bitAt trains (k - 24) = true) : p.linkRetry trains peer = { p with chip := p.chip.trainLink k true 0 0xFFFFFFF } := by
  unfold Pkg.linkRetry
  dsimp only
  rw [if_neg (by rcases hrole with h | h <;> rcases hstate with h' | h' <;> simp [h, h']), pairLinks_tried hk h1 h2, if_neg (by simp [hb]),
    if_pos (by rcases hstate with h' | h' <;> simp [h', Chip.pairLinkUp_of_other hk h2]), List.foldl_cons, List.foldl_nil, if_pos hb]

theorem pairLinkRetry_does (s : State) (trains k : Nat) (peer : PairIdent) (ht : trains < 4) (hp : PairIdentOk peer = true)
    (hk : k = 24 ∨ k = 25) (hrole : s.chip.fld .PAIR_STATUS F.PAIR_STATUS_ROLE = 1 ∨ s.chip.fld .PAIR_STATUS F.PAIR_STATUS_ROLE = 2)
    (hstate : s.chip.pairState = 2 ∨ s.chip.pairState = 5) (h1 : s.chip.linkState k ≠ 2) (h2 : s.chip.linkState (49 - k) = 2)
    (hb : bitAt trains (k - 24) = true) :
    ∃ t, exec (.pairLinkRetry trains peer) s = .next t ∧ t.chip.linkState k = 2
      ∧ t.chip.linkState (49 - k) = 2 ∧ t.chip.pairState = s.chip.pairState := by
  have hdoes : GivesPkg (.pairLinkRetry trains peer) s (s.toPkg.linkRetry trains peer) := givesPkg_of_onPkg rfl (by simp [ht, hp]) rfl
  refine ⟨_, hdoes.congr (Pkg.linkRetry_one hk hrole hstate h1 h2 hb), ?_⟩
  refine ⟨s.chip.trainLink_state k 0 0xFFFFFFF, ?_, ?_⟩
  · refine (Chip.fld_of_reg (s.chip.trainLink_reg k 0 0xFFFFFFF ?_ ?_ ?_) _).trans h2
    all_goals rcases hk with rfl | rfl <;> decide
  · refine Chip.pairState_of_reg (s.chip.trainLink_reg k 0 0xFFFFFFF ?_ ?_ ?_)
    all_goals rcases hk with rfl | rfl <;> decide

-- FORCE_SOURCE

theorem Chip.pairResult_fld (c : Chip) {r : Nat} (hr : r < 8) : (c.pairResult r).fld .PAIR_STATUS F.PAIR_STATUS_RESULT = r := by
  rw [Chip.pairResult, Chip.fld_setBit_apart _ _ _ (by decide), Chip.fld_setFld_of_lt _ _ _ (by decide) (by decide) hr]

theorem Chip.pairResult_status (c : Chip) (r : Nat) : (c.pairResult r).pairState = c.pairState ∧ (c.pairResult r).isSource = c.isSource := by
  constructor
  · rw [Chip.pairState, Chip.pairResult, Chip.fld_setBit_apart _ _ _ (by decide), Chip.fld_setFld_apart _ _ _ (by decide), ← Chip.pairState]
  · rw [Chip.isSource, Chip.pairResult, Chip.bit_setBit_apart _ _ _ (by decide), Chip.bit_setFld_apart _ _ _ (by decide), ← Chip.isSource]

/-- A package that FORCE_SOURCE makes source. -/
theorem Chip.forced_spec {c : Chip} {st : Nat} (hst : c.pairState = st) (hsrc : c.isSource = true) :
    ((c.pairFault 35).pairResult 1).pairState = st ∧ ((c.pairFault 35).pairResult 1).isSource = true
      ∧ ((c.pairFault 35).pairResult 1).fld .PAIR_STATUS F.PAIR_STATUS_RESULT = 1 := by
  obtain ⟨h1, h2⟩ := (c.pairFault 35).pairResult_status 1
  exact ⟨h1.trans ((Chip.pairState_of_reg (Chip.pairFault_reg _ _ _)).trans hst),
    h2.trans ((Chip.isSource_of_reg (Chip.pairFault_reg _ _ _)).trans hsrc), Chip.pairResult_fld _ (by decide)⟩

theorem forceSource_cases (s : State) (who : Who) : (who.sealed = true →
      (s.chip.pairState = 4 ∨ s.chip.pairState = 7 → ∃ t, exec (.forceSource who) s = .next t
        ∧ t.chip.pairState = 3 ∧ t.chip.isSource = true ∧ t.chip.fld .PAIR_STATUS F.PAIR_STATUS_RESULT = 1)
      ∧ (s.chip.pairState = 6 → s.chip.pair.split = true → ∃ t, exec (.forceSource who) s = .next t
        ∧ t.chip.pairState = 2 ∧ t.chip.isSource = true ∧ t.chip.fld .PAIR_STATUS F.PAIR_STATUS_RESULT = 1)
      ∧ (s.chip.pairState ≠ 4 → s.chip.pairState ≠ 7 → s.chip.pairState ≠ 6 ∨ s.chip.pair.split = false →
        Gives (.forceSource who) s (s.chip.pairResult 4)))
    ∧ (who.sealed = false → Gives (.forceSource who) s (s.chip.refuseWrite who .PAIR_CTL)) := by
  refine ⟨fun hw => ?_, fun hw => gives_of_onChip (ok := true) rfl rfl ?_⟩
  · have hdoes : Gives (.forceSource who) s s.chip.forceSource := gives_of_onChip (ok := true) rfl rfl (by
      unfold Chip.pairCtlWrite
      rw [Chip.ifMay_of_true _ _ _ _ hw]
      rfl)
    refine ⟨fun hst => ⟨_, hdoes, ?_⟩, fun hst hsplit => ⟨_, hdoes, ?_⟩, fun h4 h7 h6 => ?_⟩
    · have heq : s.chip.forceSource = (s.chip.takeOver.pairFault 35).pairResult 1 := by
        rcases hst with h | h <;> simp only [Chip.forceSource, h]
      dsimp only
      rw [heq]
      obtain ⟨h1, h2⟩ := s.chip.takeOver_spec
      exact Chip.forced_spec h1 h2
    · have heq : s.chip.forceSource = (((s.chip.onPair (fun s => { s with split := false })).becomeSource true).pairFault 35).pairResult 1 := by
        simp only [Chip.forceSource, hst]
        exact if_pos hsplit
      dsimp only
      rw [heq]
      obtain ⟨h1, h2, -⟩ := Chip.role_eq (Chip.becomeSource_role (s.chip.onPair (fun s => { s with split := false })) true)
      exact Chip.forced_spec h1 h2
    · have heq : s.chip.forceSource = s.chip.pairResult 4 := by
        unfold Chip.forceSource
        split
        next h => rw [if_neg (by simpa using h6.resolve_left (fun h' => h' h))]
        next h => exact absurd h h4
        next h => exact absurd h h7
        next => rfl
      rwa [heq] at hdoes
  · unfold Chip.pairCtlWrite
    exact Chip.ifMay_of_false _ _ _ _ hw

/-- Settles O54: the watch on the partner gives the separation, and the two records its roles. -/
theorem pairRoles : Obligations.PairRoles := by
  unfold Obligations.PairRoles
  exact ⟨pairAliveToggle_cases, pairAliveIEdge_cases, pairAliveTimeout_early, pairHbTimeout_cases, pairHb_cases, pairYield_cases,
    pairDiscovery_cases, pairLinkRetry_does, forceSource_cases⟩

end Sys2Proof.Machine
end

section
/-! The region table, the mirror stream and resynchronisation (R397 to R405, R412, R413). -/

namespace Sys2Proof.Machine

theorem Gives.congr {i : Instr} {s : State} {c d : Chip} (h : Gives i s c) (e : c = d) : Gives i s d := e ▸ h

-- the region table

/-- Region n of the table takes three words. -/
def Chip.installRegion (c d : Chip) (words : List (Word × Word × Word)) (n : Nat) : Chip :=
  let w := words.getD n (0, 0, 0)
  let isNew : Bool := F.PAIR_REGION_BASE_MODE.get w.1 != 0 && F.PAIR_REGION_BASE_MODE.get (sget 0 n c.pair.base) == 0
  d.onPair (fun s => { s with
    base := sset 0 n w.1 s.base, limit := sset 0 n w.2.1 s.limit, remote := sset 0 n w.2.2 s.remote
    fullCopy := if isNew && c.isSource then sset 0 n 1 s.fullCopy else s.fullCopy })

theorem Chip.installTable_eq (c : Chip) (words : List (Word × Word × Word)) :
    c.installTable words = (forUpTo 16 (fun n x => c.installRegion x words n) c).noteTargets := rfl

/-- The words of region n of the table in force. -/
def PairSt.row (s : PairSt) (n : Nat) : Word × Word × Word := (sget 0 n s.base, sget 0 n s.limit, sget 0 n s.remote)

theorem Chip.installRegion_row (c d : Chip) (words : List (Word × Word × Word)) (n : Nat) :
    (c.installRegion d words n).pair.row n = words.getD n (0, 0, 0) := by
  unfold Chip.installRegion Chip.onPair PairSt.row
  dsimp only
  rw [sget_sset_self, sget_sset_self, sget_sset_self]

theorem Chip.installRegion_row_ne (c d : Chip) (words : List (Word × Word × Word)) {n k : Nat} (h : k ≠ n) :
    (c.installRegion d words n).pair.row k = d.pair.row k := by
  unfold Chip.installRegion Chip.onPair PairSt.row
  dsimp only
  rw [sget_sset_ne _ _ h, sget_sset_ne _ _ h, sget_sset_ne _ _ h]

theorem Chip.noteTargets_pair (c : Chip) : c.noteTargets.pair = c.pair := by rw [Chip.noteTargets_frame]

/-- The table is in force whole. -/
theorem Chip.installTable_row (c : Chip) (words : List (Word × Word × Word)) {n : Nat} (hn : n < 16) :
    (c.installTable words).pair.row n = words.getD n (0, 0, 0) := by
  rw [Chip.installTable_eq, Chip.noteTargets_pair]
  exact forUpTo_each (fun k (x : Chip) => x.pair.row k = words.getD k (0, 0, 0)) 16 c (fun k x _ => c.installRegion_row x words k)
    (fun j k x h hk => (c.installRegion_row_ne x words h).trans hk) n hn

theorem PairSt.row_eq {s : PairSt} {n : Nat} {w : Word × Word × Word} (h : s.row n = w) :
    sget 0 n s.base = w.1 ∧ sget 0 n s.limit = w.2.1 ∧ sget 0 n s.remote = w.2.2 := h ▸ ⟨rfl, rfl, rfl⟩

/-- The words that are staged. -/
def Chip.stagedTable (c : Chip) : List (Word × Word × Word) := (List.range 16).map (fun n =>
  (c.reg (.PAIR_REGION_BASE n), c.reg (.PAIR_REGION_LIMIT n), c.reg (.PAIR_REGION_REMOTE n)))

theorem Chip.stagedTable_get (c : Chip) {n : Nat} (hn : n < 16) : c.stagedTable.getD n (0, 0, 0) =
    (c.reg (.PAIR_REGION_BASE n), c.reg (.PAIR_REGION_LIMIT n), c.reg (.PAIR_REGION_REMOTE n)) := by
  rw [Chip.stagedTable, List.getD_eq_getElem?_getD, List.getElem?_map, List.getElem?_range hn]
  rfl

theorem Chip.regionCommit_eq (c : Chip) : c.regionCommit =
    if !c.isSource || !(c.pairState == 2 || (c.pairState == 5 && !c.pair.partnerReady)) then c.pairResult 4
    else if c.tableBad (c.stagedTable.map (fun w => regionRow w.1 w.2.1 w.2.2)) then c.pairResult 2
    else if !c.pair.partnerReady then ((c.installTable c.stagedTable).pairResult 1).raiseEvent 582
    else if Config.freeNat c.free % 2 = 1 then (c.nextFree.pairSay (.table c.stagedTable)).pairResult 3
    else (((c.nextFree.pairSay (.table c.stagedTable)).installTable c.stagedTable).pairResult 1).raiseEvent 582 := rfl

theorem Chip.committed_result (c : Chip) : ((c.pairResult 1).raiseEvent 582).fld .PAIR_STATUS F.PAIR_STATUS_RESULT = 1 := by
  rw [Chip.fld_of_reg (Chip.raiseEvent_pairStatus _ _ (by decide)), Chip.pairResult_fld _ (by decide)]

theorem Chip.committed_pair (c : Chip) : ((c.pairResult 1).raiseEvent 582).pair = c.pair := by
  rw [Chip.raiseEvent_pair]
  rfl

theorem Chip.pairSay_table (c : Chip) (u : PairCfg) : (c.pairSay u).pair.base = c.pair.base ∧ (c.pairSay u).pair.limit = c.pair.limit
    ∧ (c.pairSay u).pair.remote = c.pair.remote := by
  rw [Chip.pairSay_frame]
  exact ⟨rfl, rfl, rfl⟩

theorem pairCommit_cases (s : State) (who : Who) : let rows := (List.range 16).map (fun n =>
      regionRow (s.chip.reg (.PAIR_REGION_BASE n)) (s.chip.reg (.PAIR_REGION_LIMIT n)) (s.chip.reg (.PAIR_REGION_REMOTE n)))
    let may : Bool := s.chip.isSource && (s.chip.pairState == 2 || (s.chip.pairState == 5 && !s.chip.pair.partnerReady))
    (who.sealed = true → may = false → Gives (.pairCommit who) s (s.chip.pairResult 4))
    ∧ (who.sealed = true → may = true → s.chip.tableBad rows = true → Gives (.pairCommit who) s (s.chip.pairResult 2))
    ∧ (who.sealed = true → may = true → s.chip.tableBad rows = false → s.chip.pair.partnerReady = false →
      ∃ t, exec (.pairCommit who) s = .next t ∧ t.chip.fld .PAIR_STATUS F.PAIR_STATUS_RESULT = 1
        ∧ ∀ n, n < 16 → sget 0 n t.chip.pair.base = s.chip.reg (.PAIR_REGION_BASE n)
          ∧ sget 0 n t.chip.pair.limit = s.chip.reg (.PAIR_REGION_LIMIT n) ∧ sget 0 n t.chip.pair.remote = s.chip.reg (.PAIR_REGION_REMOTE n))
    ∧ (who.sealed = true → may = true → s.chip.tableBad rows = false → s.chip.pair.partnerReady = true →
      ∃ t, exec (.pairCommit who) s = .next t ∧
        (t.chip.fld .PAIR_STATUS F.PAIR_STATUS_RESULT = 1 ∨ (t.chip.fld .PAIR_STATUS F.PAIR_STATUS_RESULT = 3
          ∧ t.chip.pair.base = s.chip.pair.base ∧ t.chip.pair.limit = s.chip.pair.limit ∧ t.chip.pair.remote = s.chip.pair.remote)))
    ∧ (who.sealed = false → Gives (.pairCommit who) s (s.chip.refuseWrite who .PAIR_CTL)) := by
  intro rows may
  have hdoes : who.sealed = true → Gives (.pairCommit who) s s.chip.regionCommit := fun hw => gives_of_onChip (ok := true) rfl rfl (by
    unfold Chip.pairCtlWrite
    rw [Chip.ifMay_of_true _ _ _ _ hw]
    rfl)
  have hrows : s.chip.stagedTable.map (fun w => regionRow w.1 w.2.1 w.2.2) = rows := by
    rw [Chip.stagedTable, List.map_map]
    rfl
  have hno : may = true → ¬(!s.chip.isSource || !(s.chip.pairState == 2 || (s.chip.pairState == 5 && !s.chip.pair.partnerReady))) = true :=
    fun h => by
      rw [← Bool.not_and, show (s.chip.isSource && _) = true from h]
      decide
  refine ⟨fun hw hmay => (hdoes hw).congr ?_, fun hw hmay hbad => (hdoes hw).congr ?_, fun hw hmay hbad hr => ⟨_, hdoes hw, ?_⟩,
    fun hw hmay hbad hr => ⟨_, hdoes hw, ?_⟩, fun hw => gives_of_onChip (ok := true) rfl rfl ?_⟩
  · rw [Chip.regionCommit_eq, if_pos]
    rw [← Bool.not_and, show (s.chip.isSource && _) = false from hmay]
    rfl
  · rw [Chip.regionCommit_eq, if_neg (hno hmay), hrows, if_pos hbad]
  · dsimp only
    rw [Chip.regionCommit_eq, if_neg (hno hmay), hrows, if_neg (by simp [hbad]), if_pos (by simp [hr])]
    refine ⟨Chip.committed_result _, fun n hn => ?_⟩
    rw [Chip.committed_pair]
    exact PairSt.row_eq ((s.chip.installTable_row _ hn).trans (s.chip.stagedTable_get hn))
  · dsimp only
    rw [Chip.regionCommit_eq, if_neg (hno hmay), hrows, if_neg (by simp [hbad]), if_neg (by simp [hr])]
    split
    · refine Or.inr ⟨Chip.pairResult_fld _ (by decide), Chip.pairSay_table s.chip.nextFree (.table s.chip.stagedTable)⟩
    · exact Or.inl (Chip.committed_result _)
  · unfold Chip.pairCtlWrite
    exact Chip.ifMay_of_false _ _ _ _ hw

/-- A target installs the view of the table that it was sent. -/
theorem pairCfg_table (s : State) (l : List (Word × Word × Word)) (hlen : l.length = 16) (hst : 2 ≤ s.chip.pairState)
    (hsrc : s.chip.isSource = false) (hcommit : s.chip.wldCommitted = true)
    (hbad : s.chip.tableBad ((l.map mirrorView).map (fun w => regionRow w.1 w.2.1 w.2.2)) = false) :
    ∃ t, exec (.pairCfg (.table l)) s = .next t ∧ ∀ (n : Nat) (w : Word × Word × Word), l[n]? = some w →
      sget 0 n t.chip.pair.base = (mirrorView w).1 ∧ sget 0 n t.chip.pair.limit = (mirrorView w).2.1
        ∧ sget 0 n t.chip.pair.remote = (mirrorView w).2.2 := by
  refine ⟨_, gives_of_onChip rfl (beq_iff_eq.2 hlen) rfl, fun n w hw => ?_⟩
  have hn : n < 16 := hlen ▸ (List.getElem?_eq_some_iff.1 hw).1
  dsimp only
  unfold Chip.pairCfg
  rw [if_neg (Nat.not_lt.2 hst)]
  dsimp only
  rw [if_neg (by rw [hsrc, hcommit, hbad]; decide)]
  refine PairSt.row_eq ((Chip.installTable_row _ _ hn).trans ?_)
  rw [List.getD_eq_getElem?_getD, List.getElem?_map, hw]
  rfl

-- the digest

theorem Chip.rematch_match (c : Chip) {d : Nat} (h : c.pair.partnerDigest = some d) :
    c.rematch.bit .PAIR_STATUS F.PAIR_STATUS_CFG_MATCH = (d == c.pair.ownDigest)
      ∧ c.rematch.bit (.FC_SRC 39) F.FC_SRC_CAUSE = !(d == c.pair.ownDigest) := by
  have hnoted : ∀ same : Bool, (if same == c.bit .PAIR_STATUS F.PAIR_STATUS_CFG_MATCH then c
      else (c.setBit .PAIR_STATUS F.PAIR_STATUS_CFG_MATCH same).raiseEvent 583).bit .PAIR_STATUS F.PAIR_STATUS_CFG_MATCH = same := fun same => by
    split
    next hsame => exact (beq_iff_eq.1 hsame).symm
    next => rw [Chip.bit_of_reg (Chip.raiseEvent_pairStatus _ _ (by decide)), Chip.bit_setBit _ _ _ _ (by decide) (by decide)]
  have hcause : ∀ same : Bool, (if same == c.bit .PAIR_STATUS F.PAIR_STATUS_CFG_MATCH then c
      else (c.setBit .PAIR_STATUS F.PAIR_STATUS_CFG_MATCH same).raiseEvent 583).reg (.FC_SRC 39) = c.reg (.FC_SRC 39) := fun same => by
    split
    · rfl
    · rw [Chip.reg_raiseEvent_ne _ _ (by decide), Chip.reg_setBit_ne _ _ _ (by decide)]
  unfold Chip.rematch
  rw [h]
  dsimp only
  generalize (d == c.pair.ownDigest) = same at *
  cases same with
  | true =>
    rw [if_pos rfl, Chip.bit_of_reg (Chip.reg_setCause_ne _ _ _ (by decide)), Chip.setCause_cause]
    exact ⟨hnoted true, rfl⟩
  | false =>
    rw [if_neg (by decide)]
    split
    next hbit => exact ⟨hnoted false, (Chip.bit_of_reg (hcause false) _).trans hbit⟩
    next =>
      rw [Chip.bit_of_reg (Chip.reg_reportLevel_ne _ _ _ _ _ _ _ _ (by decide)), Chip.reportLevel_cause]
      exact ⟨hnoted false, rfl⟩

theorem pairCfg_digest (s : State) (d : Nat) (hd : d < 2 ^ 384) (hst : 2 ≤ s.chip.pairState) :
    ∃ t, exec (.pairCfg (.digest d)) s = .next t
    ∧ t.chip.pair.partnerDigest = some d ∧ (t.chip.bit .PAIR_STATUS F.PAIR_STATUS_CFG_MATCH = true ↔ d = s.chip.pair.ownDigest)
    ∧ (t.chip.bit (.FC_SRC 39) F.FC_SRC_CAUSE = true ↔ d ≠ s.chip.pair.ownDigest) := by
  refine ⟨_, gives_of_onChip rfl (decide_eq_true hd) (if_neg (Nat.not_lt.2 hst)), ?_⟩
  obtain ⟨hmatch, hcause⟩ := Chip.rematch_match (s.chip.onPair (fun s => { s with partnerDigest := some d })) rfl
  refine ⟨?_, ?_, ?_⟩
  · show (Chip.rematch _).pair.partnerDigest = some d
    rw [Chip.rematch_frame]
    rfl
  · rw [show _ = _ from hmatch]
    exact beq_iff_eq
  · rw [show _ = _ from hcause]
    simp [Chip.onPair]

-- the mirror stream

/-- A message of Jotor-P that is taken changes what the receive buffer of its link holds. -/
theorem Chip.pairTake_frame {c d : Chip} {k v : Nat} {units : List Line} (h : c.pairTake k v units = some d) :
    d = { c with link := d.link } := by
  unfold Chip.pairTake at h
  dsimp only at h
  split at h
  · split at h
    · cases h; rfl
    · cases h
  · split at h
    · cases h; rfl
    · cases h

theorem Chip.pairTake_pair {c d : Chip} {k v : Nat} {units : List Line} (h : c.pairTake k v units = some d) : d.pair = c.pair := by
  rw [Chip.pairTake_frame h]

theorem Chip.pairTake_reg {c d : Chip} {k v : Nat} {units : List Line} (h : c.pairTake k v units = some d) (q : Reg) : d.reg q = c.reg q := by
  rw [Chip.pairTake_frame h]
  rfl

/-- What the target accepts follows the registers and the state of the pair. -/
theorem Chip.mirTakes_congr {c d : Chip} (hp : d.pair = c.pair) (hr : ∀ q, d.reg q = c.reg q) : d.mirTakes = c.mirTakes := by
  rw [Chip.mirTakes, Chip.isSource_of_reg (hr _), Chip.pairState_of_reg (hr _), hp, Chip.wldCommitted, Chip.bit_of_reg (hr _),
    ← Chip.wldCommitted, ← Chip.mirTakes]

theorem Chip.mirTakes_of_go {c : Chip} (hsrc : c.isSource = false) (hy : c.pair.yielded = false) (hc : c.wldCommitted = true)
    (hst : c.pairState = 2 ∨ c.pairState = 4 ∨ c.pairState = 5 ∨ c.pairState = 7) : c.mirTakes = true := by
  rcases hst with h | h | h | h <;> simp [Chip.mirTakes, hsrc, hy, hc, h]

theorem Chip.mirTakes_of_source {c : Chip} (h : c.isSource = true) : c.mirTakes = false := by simp [Chip.mirTakes, h]

theorem Pkg.mirArrive_none {p : Pkg} {link n line seq : Nat} {poison copy : Bool} {v : Line}
    (h : p.chip.pairTake link 0 (mirWrUnits n line seq poison copy v) = none) : p.mirArrive link n line seq poison copy v = p := by
  unfold Pkg.mirArrive
  rw [h]

theorem Pkg.mirArrive_some {p : Pkg} {link n line seq : Nat} {poison copy : Bool} {v : Line} {c : Chip}
    (h : p.chip.pairTake link 0 (mirWrUnits n line seq poison copy v) = some c) : p.mirArrive link n line seq poison copy v =
    if c.mirTakes && c.pairGo (link - 24) line then (({ p with chip := c } : Pkg).mirWr (link - 24) n line seq poison v).pairWatch
    else if p.chip.mirTakes && p.chip.pairOpen (link - 24) line then
      p.onChip (fun x => x.noteShort (pairRid (link - 24)) (x.fld .PAIR_CFG F.PAIR_CFG_LABEL))
    else p := by
  unfold Pkg.mirArrive
  rw [h]

theorem Pkg.mirWr_refused {p : Pkg} {q n line seq : Nat} {poison : Bool} {v : Line}
    (h : ¬((sget 0 n p.chip.pair.rxSeq + 1) % 2 ^ 32 = seq ∧ p.chip.mirrorRegion (line / 64) = some n)) :
    p.mirWr q n line seq poison v = p.onChip (fun x => x.mirRefuse n seq) := if_pos (by tauto)

theorem Pkg.mirWr_fits {p : Pkg} {q n line seq : Nat} {poison : Bool} {v : Line} (h1 : (sget 0 n p.chip.pair.rxSeq + 1) % 2 ^ 32 = seq)
    (h2 : p.chip.mirrorRegion (line / 64) = some n) : p.mirWr q n line seq poison v =
    let w := p.ioWrite (pairRid q) 1 (p.chip.fld .PAIR_CFG F.PAIR_CFG_LABEL) line v (BitVec.allOnes 64) poison
    w.1.onChip (fun x => if w.2 = 0 then x.onPair (fun s => s.owe n seq false) else x.mirRefuse n seq) := if_neg (by tauto)

theorem mirWr_cases (s : State) (link n line seq : Nat) (poison copy : Bool) (v : Line) (hl : 24 ≤ link) (hl' : link < 26) (hn : n < 16)
    (hline : line < 2 ^ 46) (hseq : seq < 2 ^ 32) :
    let label := s.chip.fld .PAIR_CFG F.PAIR_CFG_LABEL
    let go : Prop := s.chip.isSource = false ∧ s.chip.pair.yielded = false ∧ s.chip.wldCommitted = true
      ∧ (s.chip.pairState = 2 ∨ s.chip.pairState = 4 ∨ s.chip.pairState = 5 ∨ s.chip.pairState = 7)
    let took := s.chip.pairTake link 0 (mirWrUnits n line seq poison copy v)
    (∀ c, took = some c → go → c.pairGo (link - 24) line = true → let i := Instr.mirWr link n poison copy line seq v
      let fits : Prop := (sget 0 n s.chip.pair.rxSeq + 1) % 2 ^ 32 = seq ∧ s.chip.mirrorRegion (line / 64) = some n
      let w := ({ s.toPkg with chip := c } : Pkg).ioWrite (pairRid (link - 24)) 1 label line v (BitVec.allOnes 64) poison
      (fits → w.2 = 0 → GivesPkg i s (w.1.onChip (fun x => x.onPair (fun y => { y with
        rxSeq := sset 0 n seq y.rxSeq, ackOwed := y.ackOwed.filter (fun a => a.1 != n || a.2.2) ++ [(n, seq, false)] }))).pairWatch)
      ∧ (fits → w.2 ≠ 0 → GivesPkg i s (w.1.onChip (fun x => x.mirRefuse n seq)).pairWatch)
      ∧ (¬fits → GivesPkg i s (({ s.toPkg with chip := c } : Pkg).onChip (fun x => x.mirRefuse n seq)).pairWatch))
    ∧ (took = none → Gives (.mirWr link n poison copy line seq v) s s.chip)
    ∧ (s.chip.isSource = true → Gives (.mirWr link n poison copy line seq v) s s.chip) := by
  intro label go took
  have hdoes : GivesPkg (.mirWr link n poison copy line seq v) s (s.toPkg.mirArrive link n line seq poison copy v) :=
    givesPkg_of_onPkg rfl (by simpa [hl, hl', hn] using ⟨hline, hseq⟩) rfl
  refine ⟨fun c hc hgo hmay => ?_, fun hnone => hdoes.congr (Pkg.mirArrive_none hnone), fun hsrc => ?_⟩
  · intro i fits w
    obtain ⟨hsrc, hy, hcommit, hst⟩ := hgo
    have htakes : c.mirTakes = true :=
      (Chip.mirTakes_congr (Chip.pairTake_pair hc) (Chip.pairTake_reg hc)).trans (Chip.mirTakes_of_go hsrc hy hcommit hst)
    have happly := hdoes.congr ((Pkg.mirArrive_some hc).trans (if_pos (by rw [htakes, hmay]; rfl)))
    have hpair := Chip.pairTake_pair hc
    have hregion : c.mirrorRegion (line / 64) = s.chip.mirrorRegion (line / 64) := by rw [Chip.pairTake_frame hc]; rfl
    have hlabel : c.fld .PAIR_CFG F.PAIR_CFG_LABEL = label := Chip.fld_of_reg (Chip.pairTake_reg hc _) _
    refine ⟨fun hfits hw => ?_, fun hfits hw => ?_, fun hfits => ?_⟩
    · rw [Pkg.mirWr_fits (p := { s.toPkg with chip := c }) ((congrArg (fun y : PairSt => (sget 0 n y.rxSeq + 1) % 2 ^ 32) hpair).trans hfits.1)
        (hregion.trans hfits.2), hlabel] at happly
      dsimp only at happly
      rw [show (Pkg.ioWrite _ _ _ _ _ _ _ _).2 = 0 from hw] at happly
      exact happly
    · rw [Pkg.mirWr_fits (p := { s.toPkg with chip := c }) ((congrArg (fun y : PairSt => (sget 0 n y.rxSeq + 1) % 2 ^ 32) hpair).trans hfits.1)
        (hregion.trans hfits.2), hlabel] at happly
      dsimp only at happly
      simp only [if_neg (show ¬(Pkg.ioWrite _ _ _ _ _ _ _ _).2 = 0 from hw)] at happly
      exact happly
    · rw [Pkg.mirWr_refused (p := { s.toPkg with chip := c })] at happly
      · exact happly
      · intro h
        exact hfits ⟨(congrArg (fun y : PairSt => (sget 0 n y.rxSeq + 1) % 2 ^ 32) hpair).symm.trans h.1, hregion.symm.trans h.2⟩
  · cases hc : s.chip.pairTake link 0 (mirWrUnits n line seq poison copy v) with
    | none => exact hdoes.congr (Pkg.mirArrive_none hc)
    | some c =>
      have hno := Chip.mirTakes_of_source hsrc
      have hno' : c.mirTakes = false := (Chip.mirTakes_congr (Chip.pairTake_pair hc) (Chip.pairTake_reg hc)).trans hno
      exact hdoes.congr ((Pkg.mirArrive_some hc).trans ((if_neg (by rw [hno']; simp)).trans (if_neg (by
        rw [show s.toPkg.chip.mirTakes = false from hno]; simp))))

-- acknowledgements

theorem Pkg.ackArrive_some {p : Pkg} {n seq : Nat} {refused : Bool} {c : Chip}
    (h : (p.chip.pairTake 24 1 (mirAckUnits n seq refused)).or (p.chip.pairTake 25 1 (mirAckUnits n seq refused)) = some c) :
    p.ackArrive n seq refused = ({ p with chip := c } : Pkg).mirAck n seq refused := by
  unfold Pkg.ackArrive
  dsimp only
  rw [h]

theorem Pkg.ackArrive_none {p : Pkg} {n seq : Nat} {refused : Bool}
    (h : (p.chip.pairTake 24 1 (mirAckUnits n seq refused)).or (p.chip.pairTake 25 1 (mirAckUnits n seq refused)) = none) :
    p.ackArrive n seq refused = p := by
  unfold Pkg.ackArrive
  dsimp only
  rw [h]

/-- The lines that an acknowledgement up to e gives up. -/
def MirLine.upTo (n : Nat) (e x : MirLine) : Bool := x.region == n && decide (x.seq ≤ e.seq)

/-- The lines leave the queue, and a refused one is reported. -/
def Pkg.ackTaken (p : Pkg) (n : Nat) (e : MirLine) (refused : Bool) : Pkg :=
  if refused then (p.markUnacked (MirLine.upTo n e)).onChip (fun c => c.pairFault 36)
  else p.onChip (fun c => c.onPair (fun s => { s with queue := s.queue.filter (fun x => !MirLine.upTo n e x) }))

theorem Pkg.mirAck_some {p : Pkg} {n seq : Nat} {refused : Bool} {e : MirLine} (h : p.chip.pair.acked n seq = some e) :
    p.mirAck n seq refused = (p.ackTaken n e refused).onChip (fun c => c.release (fun h => h.2.1 == n && ((h.2.2 != 0 && h.2.2 ≤ e.seq)
      || (p.ackTaken n e refused).copied h))) := by
  unfold Pkg.mirAck
  rw [h]
  rfl

theorem Pkg.mirAck_none {p : Pkg} {n seq : Nat} {refused : Bool} (h : p.chip.pair.acked n seq = none) : p.mirAck n seq refused = p := by
  unfold Pkg.mirAck
  rw [h]

theorem Pkg.ackTaken_queue (p : Pkg) (n : Nat) (e : MirLine) (refused : Bool) :
    (p.ackTaken n e refused).chip.pair.queue = p.chip.pair.queue.filter (fun x => !MirLine.upTo n e x) := by
  unfold Pkg.ackTaken
  split
  · refine (congrArg PairSt.queue (Chip.pairFault_pair _ _)).trans ?_
    exact (p.markUnacked_queue _).1
  · rfl

theorem mirAck_cases (s : State) (n seq : Nat) (refused : Bool) (hn : n < 16) (hseq : seq < 2 ^ 32) :
    let took := (s.chip.pairTake 24 1 (mirAckUnits n seq refused)).or (s.chip.pairTake 25 1 (mirAckUnits n seq refused))
    (took = none → Gives (.mirAck n seq refused) s s.chip)
    ∧ (∀ c, took = some c → s.chip.pair.acked n seq = none → Gives (.mirAck n seq refused) s c)
    ∧ ∀ c e, took = some c → s.chip.pair.acked n seq = some e → ∃ t, exec (.mirAck n seq refused) s = .next t
      ∧ t.chip.pair.queue = s.chip.pair.queue.filter (fun x => !(x.region == n && decide (x.seq ≤ e.seq)))
      ∧ (refused = false → ∀ h ∈ t.chip.pair.held, h.2.1 = n → h.2.2 = 0 ∨ e.seq < h.2.2) := by
  intro took
  have hdoes : GivesPkg (.mirAck n seq refused) s (s.toPkg.ackArrive n seq refused) :=
    givesPkg_of_onPkg rfl (by simpa [hn] using hseq) rfl
  have hpair : ∀ c, took = some c → c.pair = s.chip.pair := fun c hc => by
    rcases Option.or_eq_some_iff.1 hc with h | ⟨-, h⟩
    · exact Chip.pairTake_pair h
    · exact Chip.pairTake_pair h
  refine ⟨fun h => hdoes.congr (Pkg.ackArrive_none h), fun c hc hnone => ?_, fun c e hc hsome => ?_⟩
  · refine hdoes.congr ((Pkg.ackArrive_some hc).trans (Pkg.mirAck_none ?_))
    exact (congrArg (fun y : PairSt => y.acked n seq) (hpair c hc)).trans hnone
  · refine ⟨_, hdoes.congr ((Pkg.ackArrive_some hc).trans (Pkg.mirAck_some (e := e) ?_)), ?_, fun _ h hh hr => ?_⟩
    · exact (congrArg (fun y : PairSt => y.acked n seq) (hpair c hc)).trans hsome
    · refine (congrArg PairSt.queue (Chip.release_pair _ _)).trans ((Pkg.ackTaken_queue _ _ _ _).trans ?_)
      exact congrArg (fun y : PairSt => y.queue.filter _) (hpair c hc)
    · replace hh : h ∈ (Chip.release _ _).pair.held := hh
      rw [Chip.release_pair] at hh
      have hkeep := (List.mem_filter.1 hh).2
      simp only [hr, beq_self_eq_true, Bool.true_and, Bool.not_eq_true', Bool.or_eq_false_iff, Bool.and_eq_false_iff, bne_eq_false_iff_eq,
        decide_eq_false_iff_not, not_le] at hkeep
      exact hkeep.1

theorem mirAckSend_does (s : State) : Gives .mirAckSend s (s.chip.onPair (fun x => { x with ackOwed := [] })) :=
  gives_of_onChip (ok := true) rfl rfl rfl

-- a lagging region

/-- LAGGING of region n sets. -/
def Chip.lag (c : Chip) (n : Nat) : Chip :=
  if c.bit (.PAIR_REGION_STATUS n) F.PAIR_REGION_STATUS_LAGGING then c
  else ((c.setBit (.PAIR_REGION_STATUS n) F.PAIR_REGION_STATUS_LAGGING true).raiseEvent 581).reportLevel unitUz 37 0x5000 1 15

theorem Pkg.setLagging_eq (p : Pkg) (n pg : Nat) : p.setLagging n pg = (p.setDirty n pg true).onChip (fun c => c.lag n) := rfl

theorem Chip.lag_pair (c : Chip) (n : Nat) : (c.lag n).pair = c.pair := by
  unfold Chip.lag
  split
  · rfl
  · rw [Chip.reportLevel_pair, Chip.raiseEvent_pair]
    rfl

theorem Chip.lag_lagging (c : Chip) {n : Nat} (hn : n < 16) : (c.lag n).bit (.PAIR_REGION_STATUS n) F.PAIR_REGION_STATUS_LAGGING = true := by
  unfold Chip.lag
  split
  next h => exact h
  next =>
    rw [Chip.bit_of_reg (Chip.reg_reportLevel_ne _ _ _ _ _ _ _ _ (by simp only [Reg.offset]; omega)),
      Chip.bit_of_reg (Chip.reg_raiseEvent_ne _ _ (by simp only [Reg.offset]; omega)), Chip.bit_setBit _ _ _ _ (by decide) (by decide)]

theorem Pkg.setLagging_queue (p : Pkg) (n pg : Nat) : (p.setLagging n pg).chip.pair.queue = p.chip.pair.queue := by
  rw [Pkg.setLagging_eq]
  refine (congrArg PairSt.queue (Chip.lag_pair _ _)).trans ?_
  rw [(p.setDirty_same n pg true).pair]

theorem Pkg.setLagging_lagging (p : Pkg) (n pg : Nat) (hn : n < 16) :
    (p.setLagging n pg).chip.bit (.PAIR_REGION_STATUS n) F.PAIR_REGION_STATUS_LAGGING = true := by
  rw [Pkg.setLagging_eq]
  exact Chip.lag_lagging _ hn

/-- The pages of late lines are marked, and the region lags. -/
theorem Pkg.setLagging_all (n : Nat) (hn : n < 16) (l : List MirLine) (p : Pkg) :
    (l.foldl (fun q e => q.setLagging n (e.line / 64)) p).chip.pair.queue = p.chip.pair.queue
      ∧ (l ≠ [] → (l.foldl (fun q e => q.setLagging n (e.line / 64)) p).chip.bit (.PAIR_REGION_STATUS n) F.PAIR_REGION_STATUS_LAGGING = true) := by
  induction l generalizing p with
  | nil => exact ⟨rfl, fun h => absurd rfl h⟩
  | cons e l ih =>
    obtain ⟨hqueue, hlag⟩ := ih (p.setLagging n (e.line / 64))
    refine ⟨hqueue.trans (p.setLagging_queue _ _), fun _ => ?_⟩
    cases l with
    | nil =>
      rw [List.foldl_cons, List.foldl_nil]
      exact p.setLagging_lagging n _ hn
    | cons e' l =>
      rw [List.foldl_cons]
      exact hlag (List.cons_ne_nil _ _)

theorem lagLimitReached_cases (s : State) (n : Nat) (hn : n < 16) :
    let late := fun (e : MirLine) => e.region == n && e.at_ + 1000 * s.chip.fld .PAIR_CFG F.PAIR_CFG_LAG_MAX_US ≤ s.chip.now
    let async : Prop := F.PAIR_REGION_BASE_MODE.get (sget 0 n s.chip.pair.base) = 2 ∧ s.chip.isSource = true
    (async → ∃ t, exec (.lagLimitReached n) s = .next t
      ∧ t.chip.pair.queue = s.chip.pair.queue.filter (fun e => !late e)
      ∧ (s.chip.pair.queue.any late = true → t.chip.bit (.PAIR_REGION_STATUS n) F.PAIR_REGION_STATUS_LAGGING = true))
    ∧ (¬async → Gives (.lagLimitReached n) s s.chip) := by
  intro late async
  have hdoes : GivesPkg (.lagLimitReached n) s (s.toPkg.lagReached n) := givesPkg_of_onPkg rfl (decide_eq_true hn) rfl
  refine ⟨fun ha => ?_, fun ha => hdoes.congr (if_pos ?_)⟩
  · have hgo : s.toPkg.lagReached n = (s.chip.pair.queue.filter late).foldl (fun q e => q.setLagging n (e.line / 64))
        (s.toPkg.onChip (fun x => x.onPair (fun s => { s with queue := s.queue.filter (fun e => !late e) }))) :=
      if_neg (fun h => h.elim (fun h => h ha.1) fun h => by rw [ha.2] at h; exact absurd h (by decide))
    obtain ⟨hqueue, hlag⟩ := Pkg.setLagging_all n hn (s.chip.pair.queue.filter late)
      (s.toPkg.onChip (fun x => x.onPair (fun s => { s with queue := s.queue.filter (fun e => !late e) })))
    refine ⟨_, hdoes.congr hgo, hqueue, fun hany => hlag ?_⟩
    obtain ⟨e, he, hl⟩ := List.any_eq_true.1 hany
    exact List.ne_nil_of_mem (List.mem_filter.2 ⟨he, hl⟩)
  · by_cases hm : F.PAIR_REGION_BASE_MODE.get (sget 0 n s.chip.pair.base) = 2
    · exact Or.inr (by simpa using fun h => ha ⟨hm, h⟩)
    · exact Or.inl hm

-- resynchronisation

/-- A page of a complete copy has been taken: the next follows. -/
def Chip.copyNext (c : Chip) (n i : Nat) (isNext : Bool) : Chip :=
  if isNext then c.onPair (fun s => { s with fullCopy := sset 0 n (if i + 1 < c.regionPages n then i + 2 else 0) s.fullCopy }) else c

/-- A line of a page is read at its home and enters the region's stream. -/
def Pkg.copyLine (p : Pkg) (n cls l : Nat) : Pkg :=
  (p.coherentFetch l cls).1.onChip (fun x => x.enqueueMirror n l (p.coherentFetch l cls).2.1 (p.coherentFetch l cls).2.2 true)

theorem Pkg.copyLine_pair (p : Pkg) (n cls l : Nat) : (p.copyLine n cls l).chip.pair.queue.length = p.chip.pair.queue.length + 1
    ∧ (p.copyLine n cls l).chip.pair.fullCopy = p.chip.pair.fullCopy := by
  have hpair := (p.coherentFetch_same l cls { kind := .RD_ONCE }).lines.pair
  refine ⟨List.length_append.trans ?_, Eq.trans ?_ (congrArg PairSt.fullCopy hpair)⟩
  case refine_2 => rfl
  exact congrArg (fun y : PairSt => y.queue.length + 1) hpair

theorem Pkg.copyLines_pair (n cls : Nat) (l : List Nat) (p : Pkg) :
    let q := l.foldl (fun (a : Pkg) l => a.copyLine n cls l) p
    q.chip.pair.queue.length = p.chip.pair.queue.length + l.length ∧ q.chip.pair.fullCopy = p.chip.pair.fullCopy := by
  induction l generalizing p with
  | nil => exact ⟨rfl, rfl⟩
  | cons e l ih =>
    obtain ⟨h1, h2⟩ := ih (p.copyLine n cls e)
    obtain ⟨h3, h4⟩ := p.copyLine_pair n cls e
    refine ⟨?_, h2.trans h4⟩
    rw [List.length_cons]
    exact h1.trans (by rw [h3]; omega)

theorem Pkg.resync_eq (p : Pkg) (n i : Nat) : let pg := F.PAIR_REGION_BASE_PAGE.get (sget 0 n p.chip.pair.base) + i
    let isNext : Bool := sget 0 n p.chip.pair.fullCopy == i + 1
    let lines := (List.range 64).map (· + 64 * pg)
    p.resync n i = if !p.chip.isSource || p.chip.still || !(p.chip.pairState == 2 || p.chip.pairState == 5) || !p.chip.pair.partnerReady
        || p.chip.regionPages n ≤ i || !(isNext || p.pageDirty n pg) || 131072 < p.chip.pairQueued (p.chip.pairLink n) + 64
        || !lines.all p.chip.ioIdle then p
      else (lines.foldl (fun (a : Pkg) l => a.copyLine n
          (p.chip.classOf (pairRid (p.chip.pairLink n - 24)) (p.chip.fld .PAIR_CFG F.PAIR_CFG_LABEL)) l)
        ((p.setDirty n pg false).onChip (fun x => x.copyNext n i isNext))).onChip Chip.notePages := rfl

theorem Chip.copyNext_pair (c : Chip) (n i : Nat) (isNext : Bool) : (c.copyNext n i isNext).pair.queue = c.pair.queue
    ∧ (isNext = true → sget 0 n (c.copyNext n i isNext).pair.fullCopy = if i + 1 < c.regionPages n then i + 2 else 0) := by
  unfold Chip.copyNext
  split
  · exact ⟨rfl, fun _ => sget_sset_self _ _ _ _⟩
  next h => exact ⟨rfl, fun h' => absurd h' h⟩

theorem resync_cases (s : State) (n i : Nat) (hn : n < 16) (hi : i < 2 ^ 28) :
    let pg := F.PAIR_REGION_BASE_PAGE.get (sget 0 n s.chip.pair.base) + i
    (s.chip.isSource = true → s.chip.still = false → s.chip.pairState = 2 ∨ s.chip.pairState = 5 → s.chip.pair.partnerReady = true →
      i < s.chip.regionPages n → sget 0 n s.chip.pair.fullCopy = i + 1 ∨ s.toPkg.pageDirty n pg = true →
      s.chip.pairQueued (s.chip.pairLink n) + 64 ≤ 131072 → (∀ k, k < 64 → s.chip.ioIdle (k + 64 * pg) = true) →
      ∃ t, exec (.resync n i) s = .next t ∧ t.chip.pair.queue.length = s.chip.pair.queue.length + 64
        ∧ (sget 0 n s.chip.pair.fullCopy = i + 1 →
          sget 0 n t.chip.pair.fullCopy = if i + 1 < s.chip.regionPages n then i + 2 else 0))
    ∧ (s.chip.isSource = false ∨ s.chip.regionPages n ≤ i → Gives (.resync n i) s s.chip) := by
  intro pg
  have hdoes : GivesPkg (.resync n i) s (s.toPkg.resync n i) := givesPkg_of_onPkg rfl (by simpa [hn] using hi) rfl
  refine ⟨fun hsrc hstill hst hready hpages hmarked hroom hidle => ?_, fun h => hdoes.congr ((s.toPkg.resync_eq n i).trans (if_pos ?_))⟩
  · let cls := s.chip.classOf (pairRid (s.chip.pairLink n - 24)) (s.chip.fld .PAIR_CFG F.PAIR_CFG_LABEL)
    let isNext : Bool := sget 0 n s.chip.pair.fullCopy == i + 1
    let q := (s.toPkg.setDirty n pg false).onChip (fun x => x.copyNext n i isNext)
    have hgo : s.toPkg.resync n i =
        (((List.range 64).map (· + 64 * pg)).foldl (fun (a : Pkg) l => a.copyLine n cls l) q).onChip Chip.notePages := by
      refine (s.toPkg.resync_eq n i).trans (if_neg ?_)
      have hall : ((List.range 64).map (· + 64 * pg)).all s.chip.ioIdle = true := by
        rw [List.all_eq_true]
        intro x hx
        obtain ⟨k, hk, rfl⟩ := List.mem_map.1 hx
        exact hidle k (List.mem_range.1 hk)
      have hmark : (sget 0 n s.chip.pair.fullCopy == i + 1 || s.toPkg.pageDirty n pg) = true := by
        rcases hmarked with h | h <;> simp [h]
      have hstate : (s.chip.pairState == 2 || s.chip.pairState == 5) = true := by rcases hst with h | h <;> simp [h]
      rw [hsrc, hstill, hstate, hready, hmark, hall]
      simp only [Bool.not_true, Bool.false_or, Bool.or_false, Bool.or_eq_true, decide_eq_true_eq]
      omega
    have hsame := s.toPkg.setDirty_same n pg false
    obtain ⟨hlen, hcopy⟩ := Pkg.copyLines_pair n cls ((List.range 64).map (· + 64 * pg)) q
    obtain ⟨hqueue, hnext⟩ := (s.toPkg.setDirty n pg false).chip.copyNext_pair n i isNext
    refine ⟨_, hdoes.congr hgo, ?_, fun hfull => ?_⟩
    · refine hlen.trans ?_
      rw [List.length_map, List.length_range, show q.chip.pair.queue = _ from hqueue, hsame.pair]
    · refine (congrArg (sget 0 n) hcopy).trans ((hnext (beq_iff_eq.2 hfull)).trans ?_)
      rw [Chip.regionPages, hsame.pair]
      rfl
  · rcases h with h | h
    · rw [show s.toPkg.chip.isSource = false from h]; rfl
    · simp [h]

theorem resyncDone_cases (s : State) : let ready : Bool := if s.chip.isSource then (s.chip.pairState == 2 || s.chip.pairState == 5)
        && s.chip.pair.partnerReady && s.chip.pagesLeft == 0 && s.chip.pair.queue.isEmpty else s.chip.pairState == 5
    (ready = true → ∃ t, exec .resyncDone s = .next t ∧ t.chip.pairState = 2 ∧ t.chip.pair.tracking = false
      ∧ t.chip.pair.srcAtSep = false)
    ∧ (ready = false → Gives .resyncDone s s.chip) := by
  intro ready
  refine ⟨fun h => ⟨_, gives_of_onChip (ok := true) rfl rfl (if_pos h), ?_⟩,
    fun h => gives_of_onChip (ok := true) rfl rfl (if_neg fun h' => absurd (h.symm.trans h') (by decide))⟩
  let c1 := s.chip.onPair (fun s => { s with tracking := false, srcAtSep := false })
  let d := if s.chip.pairState = 2 then c1.pairRecord else c1.setPairState 2
  have hd : d.pairState = 2 ∧ d.pair = c1.pair := by
    by_cases h2 : s.chip.pairState = 2
    · rw [show d = c1.pairRecord from if_pos h2, Chip.pairRecord_pair]
      exact ⟨(Chip.pairState_of_reg (c1.reg_pairRecord_ne (by decide))).trans h2, rfl⟩
    · rw [show d = c1.setPairState 2 from if_neg h2, Chip.setPairState_pair]
      exact ⟨c1.setPairState_state (by decide), rfl⟩
  obtain ⟨hstate, hpair⟩ := hd
  have hend : (d.raiseEvent 580).notePages.pair = c1.pair := (Chip.raiseEvent_pair d 580).trans hpair
  refine ⟨?_, congrArg PairSt.tracking hend, congrArg PairSt.srcAtSep hend⟩
  refine (Chip.pairState_of_reg ?_).trans hstate
  exact (Chip.reg_setFld_ne _ _ _ (by decide)).trans (Chip.raiseEvent_pairStatus d 580 (by decide))

/-- Settles O55: each command by the function that performs it, and what marking pages and copying lines leaves of the pair. -/
theorem pairMirror : Obligations.PairMirror := by
  unfold Obligations.PairMirror
  exact ⟨pairCommit_cases, pairCfg_table, pairCfg_digest, mirWr_cases, mirAck_cases, mirAckSend_does, lagLimitReached_cases, resync_cases,
    resyncDone_cases⟩

end Sys2Proof.Machine
end

section
/-! Accesses to register space (R205, R213, R433 to R438, R461). -/

namespace Sys2Proof.Machine

-- what a message's way to its unit leaves

theorem Chip.readView_path (c : Chip) (n : List Msg) (d : Sparse (List Packet)) (l : Sparse LinkEnd) (g : Gallery) (r : Reg) :
    ({ c with net := n, dlv := d, link := l, gal := g } : Chip).readView r = c.readView r := by
  unfold Chip.readView
  rfl

theorem Chip.arrive_regRead (c : Chip) (m : Msg) (who : Who) (r : Reg) : (c.arrive m).regRead who r = c.regRead who r := by
  obtain ⟨n, d, l, g, h⟩ := c.arrive_form m
  rw [h, Chip.regRead, Chip.readView_path]
  rfl

theorem Chip.arrive_region (c : Chip) (m : Msg) (pa : Nat) : (c.arrive m).region pa = c.region pa := by
  obtain ⟨n, d, l, g, h⟩ := c.arrive_form m
  rw [h]
  rfl

theorem Chip.arrive_blockRefuses (c : Chip) (m : Msg) (who : Who) (r : Reg) : (c.arrive m).blockRefuses who r = c.blockRefuses who r := by
  obtain ⟨n, d, l, g, h⟩ := c.arrive_form m
  rw [h]
  rfl

theorem Chip.arrive_blockPowered (c : Chip) (m : Msg) (off : Nat) : (c.arrive m).blockPowered off = c.blockPowered off := by
  obtain ⟨n, d, l, g, h⟩ := c.arrive_form m
  rw [h]
  rfl

theorem Chip.arrive_dieState (c : Chip) (m : Msg) (d : Nat) : (c.arrive m).dieState d = c.dieState d :=
  Chip.fld_of_reg (Chip.reg_of_regs (c.arrive_regs m) _) _

theorem kind_of_ioMsgOk {m : Msg} {k : MsgKind} (h : ioMsgOk m k = true) : m.kind = k := by
  simp only [ioMsgOk, Msg.fits, Bool.and_eq_true, beq_iff_eq] at h
  tauto

-- an access of a register block

/- The decoder of an offset that a message gives cannot be evaluated (the offset is a difference from the base of register space), so the
equations below speak of the offset as a number on its own. -/

theorem Pkg.regAccess_fun : Pkg.regAccess = fun p m =>
    let off := ioOff m
    let d := (off - 0x10000000) / 0x1000000
    if 0x10000000 ≤ off ∧ off < 0x1C000000 ∧ 5 ≤ p.chip.dieState d then p.onChip (fun c => c.dieAnswer d m)
    else if !p.chip.blockPowered off then
      p.onChip (fun c => (if m.kind = .IO_WR ∧ pktIsMsi (c.packetOf m) then c.msiDropped d else c).ioReply m 0 0)
    else if m.kind = .IO_WR then p.ioWriteReg m
    else p.onChip (fun c => c.ioReadReg m) := rfl

/-- The access to an offset. -/
theorem Pkg.regAccess_at (p : Pkg) (m : Msg) : ∃ off, ioOff m = off ∧ p.regAccess m =
    if 0x10000000 ≤ off ∧ off < 0x1C000000 ∧ 5 ≤ p.chip.dieState ((off - 0x10000000) / 0x1000000) then
      p.onChip (fun c => c.dieAnswer ((off - 0x10000000) / 0x1000000) m)
    else if !p.chip.blockPowered off then
      p.onChip (fun c => (if m.kind = .IO_WR ∧ pktIsMsi (c.packetOf m) then c.msiDropped ((off - 0x10000000) / 0x1000000)
        else c).ioReply m 0 0)
    else if m.kind = .IO_WR then p.ioWriteReg m
    else p.onChip (fun c => c.ioReadReg m) :=
  have h := congrFun (congrFun Pkg.regAccess_fun p) m
  ⟨_, rfl, h⟩

/-- The offset is of a die that is lost or held out. -/
def Chip.offHeld (c : Chip) (off : Nat) : Prop := 0x10000000 ≤ off ∧ off < 0x1C000000 ∧ 5 ≤ c.dieState ((off - 0x10000000) / 0x1000000)

section
variable {p : Pkg} {m : Msg} (hheld : ¬p.chip.offHeld (ioOff m))
include hheld

theorem Pkg.regAccess_off (hp : p.chip.blockPowered (ioOff m) = false) : p.regAccess m =
    p.onChip (fun c => (if m.kind = .IO_WR ∧ pktIsMsi (c.packetOf m) then c.msiDropped ((ioOff m - 0x10000000) / 0x1000000)
      else c).ioReply m 0 0) := by
  obtain ⟨off, hoff, h⟩ := p.regAccess_at m
  rw [hoff] at hheld hp ⊢
  rw [Chip.offHeld] at hheld
  rw [h, if_neg hheld, if_pos (by simp [hp])]

theorem Pkg.regAccess_write (hp : p.chip.blockPowered (ioOff m) = true) (hk : m.kind = .IO_WR) : p.regAccess m = p.ioWriteReg m := by
  obtain ⟨off, hoff, h⟩ := p.regAccess_at m
  rw [hoff] at hheld hp
  rw [Chip.offHeld] at hheld
  rw [h, if_neg hheld, if_neg (by simp [hp]), if_pos hk]

theorem Pkg.regAccess_read (hp : p.chip.blockPowered (ioOff m) = true) (hk : m.kind = .IO_RD) :
    p.regAccess m = p.onChip (fun c => c.ioReadReg m) := by
  obtain ⟨off, hoff, h⟩ := p.regAccess_at m
  rw [hoff] at hheld hp
  rw [Chip.offHeld] at hheld
  rw [h, if_neg hheld, if_neg (by simp [hp]), if_neg (by simp [hk])]

end

-- what a register block answers

/-- A read that reaches an offset, by what stands there. -/
theorem Chip.ioReadReg_cases (c : Chip) (m : Msg) :
    (∀ r, regDecode (ioOff m) = .reg r → c.ioReadReg m =
      if m.code ≠ 3 then c.ioWidth m else if c.blockRefuses (msgWho m) r then c.ioRefuse m
      else c.ioReply m 0 (c.regRead (msgWho m) r).toNat)
    ∧ (regDecode (ioOff m) = .hole → m.code = 3 → c.ioReadReg m = c.ioReply m 0 0) := by
  have heq : Chip.ioReadReg = Chip.ioReadReg := rfl
  conv at heq => rhs; delta Chip.ioReadReg
  replace heq := congrFun (congrFun heq c) m
  beta_reduce at heq
  generalize ioOff m = off at heq ⊢
  refine ⟨fun r h => ?_, fun h hc => ?_⟩
  · rw [heq]
    dsimp only
    rw [h]
  · rw [heq]
    dsimp only
    rw [h]
    exact if_pos hc

/-- A write that reaches an offset, by what stands there. -/
theorem Pkg.ioWriteReg_cases (p : Pkg) (m : Msg) :
    (∀ r, regDecode (ioOff m) = .reg r → (∀ i, r ≠ .FC_REPORT i) → p.ioWriteReg m =
      if m.code ≠ 3 then p.onChip (fun c => c.ioWidth m)
      else if p.chip.blockRefuses (msgWho m) r then p.onChip (fun c => (c.blockWrong (msgWho m) r).ioRefuse m)
      else (p.writeReg (msgWho m) r (BitVec.ofNat 64 m.data.toNat)).onChip (fun c => c.ioReply m 0))
    ∧ (regDecode (ioOff m) = .hole → m.code = 3 → p.ioWriteReg m = p.onChip (fun c => c.ioReply m 0))
    ∧ (∀ i, regDecode (ioOff m) = .reg (.FC_REPORT i) → p.ioWriteReg m =
      if mayReport m.rid then (if m.code = 6 ∧ i = 0 then (p.acceptReport (reportOf m.data)).onChip (fun c => c.ioReply m 0)
        else p.onChip (fun c => c.ioReply m 0))
      else (p.onChip (fun c => c.refuseWrite (msgWho m) (.FC_REPORT i))).onChip (fun c => c.ioReply m 0)) := by
  have heq : Pkg.ioWriteReg = Pkg.ioWriteReg := rfl
  conv at heq => rhs; delta Pkg.ioWriteReg
  replace heq := congrFun (congrFun heq p) m
  beta_reduce at heq
  generalize regDecode = decode at heq ⊢
  extract_lets off v done width at heq
  refine ⟨fun r h hr => ?_, fun h hc => ?_, fun i h => ?_⟩
  · replace h : decode off = .reg r := h
    rw [heq, h]
    split
    next hi => cases hi
    next hi => cases hi
    next hi => cases hi
    next hi => cases hi
    next i hi => cases hi; exact absurd rfl (hr i)
    next hi => cases hi; rfl
  · replace h : decode off = .hole := h
    rw [heq, h]
    exact if_pos hc
  · replace h : decode off = .reg (.FC_REPORT i) := h
    rw [heq, h]

-- IO_RD and IO_WR

section
variable {s : State} {m : Msg} {o : Nat} (harr : s.chip.canArrive m = true) (hreg : s.chip.region (m.line * 64 + m.sub) = .regs o)
  (hheld : ¬s.chip.offHeld (ioOff m))

/-- The package with the message taken. -/
abbrev State.arrived (s : State) (m : Msg) : Pkg := { s.toPkg with chip := s.chip.arrive m }

include harr hreg in
theorem ioArrive_regs : s.toPkg.ifArrives m (fun q => q.ioArrive m) = (s.arrived m).regAccess m := by
  refine (if_pos harr).trans ?_
  unfold Pkg.ioArrive
  dsimp only
  rw [show (s.toPkg.onChip (fun c => c.arrive m)).chip.region (m.line * 64 + m.sub) = .regs o from (s.chip.arrive_region m _).trans hreg]
  rfl

include hheld in
theorem arrived_held : ¬(s.arrived m).chip.offHeld (ioOff m) := by
  rw [Chip.offHeld] at hheld ⊢
  rwa [show ∀ d, (s.arrived m).chip.dieState d = s.chip.dieState d from s.chip.arrive_dieState m]

include harr hreg hheld

theorem ioRd_off (hp : s.chip.blockPowered (ioOff m) = false) (hm : ioMsgOk m .IO_RD = true) :
    Gives (.ioRd m) s ((s.chip.arrive m).ioReply m 0 0) := by
  have hdoes : GivesPkg (.ioRd m) s (s.toPkg.ifArrives m (fun q => q.ioArrive m)) := givesPkg_of_onPkg rfl hm rfl
  refine hdoes.congr ((ioArrive_regs harr hreg).trans ((Pkg.regAccess_off (arrived_held hheld)
    ((s.chip.arrive_blockPowered m _).trans hp)).trans ?_))
  rw [Pkg.onChip, if_neg (by simp [kind_of_ioMsgOk hm])]

theorem ioWr_off (hp : s.chip.blockPowered (ioOff m) = false) (hm : ioMsgOk m .IO_WR = true) : let c := s.chip.arrive m
    Gives (.ioWr m) s ((if pktIsMsi (c.packetOf m) then c.msiDropped ((ioOff m - 0x10000000) / 0x1000000) else c).ioReply m 0 0) := by
  have hdoes : GivesPkg (.ioWr m) s (s.toPkg.ifArrives m (fun q => q.ioArrive m)) := givesPkg_of_onPkg rfl hm rfl
  refine hdoes.congr ((ioArrive_regs harr hreg).trans ((Pkg.regAccess_off (arrived_held hheld)
    ((s.chip.arrive_blockPowered m _).trans hp)).trans ?_))
  rw [Pkg.onChip]
  simp only [kind_of_ioMsgOk hm, true_and]

variable (hp : s.chip.blockPowered (ioOff m) = true)
include hp

theorem ioRd_regs (hm : ioMsgOk m .IO_RD = true) : Gives (.ioRd m) s ((s.chip.arrive m).ioReadReg m) := by
  have hdoes : GivesPkg (.ioRd m) s (s.toPkg.ifArrives m (fun q => q.ioArrive m)) := givesPkg_of_onPkg rfl hm rfl
  exact hdoes.congr ((ioArrive_regs harr hreg).trans (Pkg.regAccess_read (arrived_held hheld)
    ((s.chip.arrive_blockPowered m _).trans hp) (kind_of_ioMsgOk hm)))

theorem ioWr_regs (hm : ioMsgOk m .IO_WR = true) : GivesPkg (.ioWr m) s ((s.arrived m).ioWriteReg m) := by
  have hdoes : GivesPkg (.ioWr m) s (s.toPkg.ifArrives m (fun q => q.ioArrive m)) := givesPkg_of_onPkg rfl hm rfl
  exact hdoes.congr ((ioArrive_regs harr hreg).trans (Pkg.regAccess_write (arrived_held hheld)
    ((s.chip.arrive_blockPowered m _).trans hp) (kind_of_ioMsgOk hm)))

end

/-- Accesses of the registers of register space. -/
theorem ioAccess_cases (s : State) (m : Msg) (o : Nat) (harr : s.chip.canArrive m = true) : let c := s.chip.arrive m
    let off := ioOff m
    let reached : Prop := s.chip.region (m.line * 64 + m.sub) = .regs o ∧ s.chip.blockPowered off = true
      ∧ ¬(0x10000000 ≤ off ∧ off < 0x1C000000 ∧ 5 ≤ s.chip.dieState ((off - 0x10000000) / 0x1000000))
    (∀ r, regDecode off = .reg r → reached → m.code = 3 → s.chip.blockRefuses (msgWho m) r = false →
      (ioMsgOk m .IO_RD = true → Gives (.ioRd m) s (c.ioReply m 0 (s.chip.regRead (msgWho m) r).toNat))
      ∧ (ioMsgOk m .IO_WR = true → (∀ i, r ≠ .FC_REPORT i) → GivesPkg (.ioWr m) s
        ((({ s.toPkg with chip := c } : Pkg).writeReg (msgWho m) r (BitVec.ofNat 64 m.data.toNat)).onChip (fun x => x.ioReply m 0))))
    ∧ (∀ r, regDecode off = .reg r → reached → m.code = 3 → s.chip.blockRefuses (msgWho m) r = true →
      (ioMsgOk m .IO_RD = true → Gives (.ioRd m) s (c.ioRefuse m))
      ∧ (ioMsgOk m .IO_WR = true → (∀ i, r ≠ .FC_REPORT i) → Gives (.ioWr m) s ((c.blockWrong (msgWho m) r).ioRefuse m)))
    ∧ (∀ r, regDecode off = .reg r → reached → m.code ≠ 3 → (ioMsgOk m .IO_RD = true → Gives (.ioRd m) s (c.ioWidth m))
      ∧ (ioMsgOk m .IO_WR = true → (∀ i, r ≠ .FC_REPORT i) → Gives (.ioWr m) s (c.ioWidth m)))
    ∧ (regDecode off = .hole → reached → m.code = 3 → (ioMsgOk m .IO_RD = true → Gives (.ioRd m) s (c.ioReply m 0 0))
      ∧ (ioMsgOk m .IO_WR = true → Gives (.ioWr m) s (c.ioReply m 0)))
    ∧ (regDecode off = .reg (.FC_REPORT 0) → reached → ioMsgOk m .IO_WR = true → m.code = 6 → mayReport m.rid = true →
      GivesPkg (.ioWr m) s ((({ s.toPkg with chip := c } : Pkg).acceptReport (reportOf m.data)).onChip (fun x => x.ioReply m 0)))
    ∧ (∀ r, regDecode off = .reg (.FC_REPORT r) → reached → ioMsgOk m .IO_WR = true → mayReport m.rid = false →
      Gives (.ioWr m) s ((c.refuseWrite (msgWho m) (.FC_REPORT r)).ioReply m 0))
    ∧ (s.chip.region (m.line * 64 + m.sub) = .regs o → s.chip.blockPowered off = false →
      ¬(0x10000000 ≤ off ∧ off < 0x1C000000 ∧ 5 ≤ s.chip.dieState ((off - 0x10000000) / 0x1000000)) →
      (ioMsgOk m .IO_RD = true → Gives (.ioRd m) s (c.ioReply m 0 0))
      ∧ (ioMsgOk m .IO_WR = true → Gives (.ioWr m) s
        ((if pktIsMsi (c.packetOf m) then c.msiDropped ((off - 0x10000000) / 0x1000000) else c).ioReply m 0 0))) := by
  intro c off reached
  obtain ⟨hread, hreadHole⟩ := c.ioReadReg_cases m
  obtain ⟨hwrite, hwriteHole, hwriteReport⟩ := (s.arrived m).ioWriteReg_cases m
  have hrefuses : ∀ r, c.blockRefuses (msgWho m) r = s.chip.blockRefuses (msgWho m) r := s.chip.arrive_blockRefuses m (msgWho m)
  have hrd : reached → ioMsgOk m .IO_RD = true → Gives (.ioRd m) s (c.ioReadReg m) := fun ⟨h1, h2, h3⟩ => ioRd_regs harr h1 h3 h2
  have hwr : reached → ioMsgOk m .IO_WR = true → GivesPkg (.ioWr m) s ((s.arrived m).ioWriteReg m) :=
    fun ⟨h1, h2, h3⟩ => ioWr_regs harr h1 h3 h2
  refine ⟨fun r hr hre hc hb => ⟨fun hm => ?_, fun hm hne => ?_⟩, fun r hr hre hc hb => ⟨fun hm => ?_, fun hm hne => ?_⟩,
    fun r hr hre hc => ⟨fun hm => ?_, fun hm hne => ?_⟩, fun hr hre hc => ⟨fun hm => ?_, fun hm => ?_⟩, fun hr hre hm hc hmay => ?_,
    fun r hr hre hm hmay => ?_, fun hreg hp hheld => ⟨fun hm => ioRd_off harr hreg hheld hp hm, fun hm => ioWr_off harr hreg hheld hp hm⟩⟩
  · refine (hrd hre hm).congr ((hread r hr).trans ((if_neg (not_not.2 hc)).trans ((if_neg (by rw [hrefuses, hb]; decide)).trans ?_)))
    rw [show c.regRead (msgWho m) r = _ from s.chip.arrive_regRead m (msgWho m) r]
  · exact (hwr hre hm).congr ((hwrite r hr hne).trans ((if_neg (not_not.2 hc)).trans (if_neg (by
      rw [show (s.arrived m).chip.blockRefuses (msgWho m) r = _ from hrefuses r, hb]; decide))))
  · exact (hrd hre hm).congr ((hread r hr).trans ((if_neg (not_not.2 hc)).trans (if_pos (by rw [hrefuses, hb]))))
  · exact (hwr hre hm).congr ((hwrite r hr hne).trans ((if_neg (not_not.2 hc)).trans (if_pos (by
      rw [show (s.arrived m).chip.blockRefuses (msgWho m) r = _ from hrefuses r, hb]))))
  · exact (hrd hre hm).congr ((hread r hr).trans (if_pos hc))
  · exact (hwr hre hm).congr ((hwrite r hr hne).trans (if_pos hc))
  · exact (hrd hre hm).congr (hreadHole hr hc)
  · exact (hwr hre hm).congr (hwriteHole hr hc)
  · exact (hwr hre hm).congr ((hwriteReport 0 hr).trans ((if_pos hmay).trans (if_pos ⟨hc, rfl⟩)))
  · exact (hwr hre hm).congr ((hwriteReport r hr).trans (if_neg (by simp [hmay])))

-- a write of a register without a command of its own

theorem regDecode_resetVector : ∀ h < 12, regDecode (Reg.CD_RESET_VECTOR h).offset = .reg (.CD_RESET_VECTOR h) := by decide

theorem resetVector_sound (h : Nat) : (Reg.CD_RESET_VECTOR h).sound := by
  rw [Reg.sound, Reg.fields]; decide

/-- A write at the offset of a register that takes it. -/
theorem Pkg.registerWrite_taken {p : Pkg} {who : Who} {off : Nat} {r : Reg} (v : Word) (hr : regDecode off = .reg r)
    (hp : p.chip.blockPowered off = true) (hheld : ¬p.chip.offHeld off) (hb : p.chip.blockRefuses who r = false) :
    p.registerWrite who off v = p.writeReg who r v := by
  have hlost : (0x10000000 ≤ off && off < 0x1C000000 && 5 ≤ p.chip.dieState ((off - 0x10000000) / 0x1000000) : Bool) = false := by
    rw [Chip.offHeld] at hheld
    simpa [and_assoc] using hheld
  unfold Pkg.registerWrite
  rw [hr]
  dsimp only
  rw [hlost, hp, if_neg (by decide), if_neg (by rw [hb]; decide)]

/-- A die that is not off has its block powered. -/
theorem Chip.blockPowered_die {c : Chip} {off : Nat} (h1 : 0x10000000 ≤ off) (h2 : off < 0x1C000000)
    (h : c.dieState ((off - 0x10000000) / 0x1000000) ≠ 0) : c.blockPowered off = true := by
  rw [Chip.blockPowered, if_neg (by omega), if_neg (by omega), if_neg (by omega), if_pos ⟨h1, h2⟩]
  simpa using h

theorem Pkg.registerWrite_resetVector {p : Pkg} (who : Who) {h : Nat} (v : Word) (hh : h < 12) (h0 : p.chip.dieState h ≠ 0)
    (h5 : p.chip.dieState h < 5) : p.registerWrite who (Reg.CD_RESET_VECTOR h).offset v =
      p.onChip (fun c => c.writeFields who (.CD_RESET_VECTOR h) v) := by
  have hoff : (Reg.CD_RESET_VECTOR h).offset = 0x10000000 + h * 0x1000000 + 0x300 := rfl
  have hdecode := regDecode_resetVector h hh
  generalize (Reg.CD_RESET_VECTOR h).offset = off at hoff hdecode ⊢
  have hdie : (off - 0x10000000) / 0x1000000 = h := by omega
  refine Pkg.registerWrite_taken v hdecode (Chip.blockPowered_die (by omega) (by omega) (by rwa [hdie])) ?_ rfl
  rintro ⟨-, -, hlost⟩
  rw [hdie] at hlost
  omega

theorem registerWrite_does {s : State} {who : Who} {h : Nat} (v : Word) (hw : whoOk who = true) (hh : h < 12) (h0 : s.chip.dieState h ≠ 0)
    (h5 : s.chip.dieState h < 5) : Gives (.registerWrite who (Reg.CD_RESET_VECTOR h).offset v) s
      (s.chip.writeFields who (.CD_RESET_VECTOR h) v) := by
  have hoff : (Reg.CD_RESET_VECTOR h).offset = 0x10000000 + h * 0x1000000 + 0x300 := rfl
  have hok : (whoOk who && (Reg.CD_RESET_VECTOR h).offset < 2 ^ 30 && (Reg.CD_RESET_VECTOR h).offset % 8 == 0) = true := by
    simp only [hw, Bool.true_and, Bool.and_eq_true, decide_eq_true_eq, beq_iff_eq]
    omega
  exact GivesPkg.congr (givesPkg_of_onPkg rfl hok rfl) (Pkg.registerWrite_resetVector who v hh h0 h5)

theorem registerWrite_accepted (s : State) (who : Who) (h : Nat) (v : Word) (hw : whoOk who = true) (hs : who.sealed = true) (hh : h < 12)
    (h0 : s.chip.dieState h ≠ 0) (h5 : s.chip.dieState h < 5) : GivesPkg (.registerWrite who (Reg.CD_RESET_VECTOR h).offset v) s
      { s.toPkg with chip := s.chip.storeFields (.CD_RESET_VECTOR h) v } :=
  (registerWrite_does v hw hh h0 h5).congr (Chip.ifMay_of_true _ _ _ _ (by rw [hs, Bool.or_true]))

theorem registerWrite_refused (s : State) (who : Who) (h : Nat) (v : Word) (hw : whoOk who = true) (hs : who.sealed = false) (hh : h < 12)
    (h0 : s.chip.dieState h ≠ 0) (h5 : s.chip.dieState h < 5) : GivesPkg (.registerWrite who (Reg.CD_RESET_VECTOR h).offset v) s
      { s.toPkg with chip := s.chip.refuseWrite who (.CD_RESET_VECTOR h) } :=
  (registerWrite_does v hw hh h0 h5).congr (Chip.ifMay_of_false _ _ _ _ (by rw [hs]; rfl))

theorem resetVector_stored (c : Chip) (h : Nat) (v : Word) :
    (c.storeFields (.CD_RESET_VECTOR h) v).fld (.CD_RESET_VECTOR h) F.CD_RESET_VECTOR_ADDR = F.CD_RESET_VECTOR_ADDR.get v :=
  Chip.fld_storeFields _ v (resetVector_sound h) (by simp [Reg.fields]) (Or.inl rfl) rfl (by decide) (by decide)

/-- Settles O48: the read and the write of a register block, by what stands at the offset. -/
theorem registerAccess : Obligations.RegisterAccess := by
  unfold Obligations.RegisterAccess
  exact ⟨ioAccess_cases, registerWrite_accepted, registerWrite_refused, resetVector_stored⟩

end Sys2Proof.Machine
end

section
/-! Pacers, DROOP_N and power limits (R52 to R59). -/

namespace Sys2Proof.Machine

/-- A loop that visits each name once, each step changing only its own part, makes of each part what its own step does. -/
theorem foldl_at {α β γ : Type} {f : β → α → β} {g : β → γ} {w : γ → γ} {k : α} (hown : ∀ b, g (f b k) = w (g b))
    (hkeep : ∀ b a, a ≠ k → g (f b a) = g b) {l : List α} (hd : l.Nodup) (hk : k ∈ l) (b : β) : g (l.foldl f b) = w (g b) := by
  induction l generalizing b with
  | nil => exact absurd hk List.not_mem_nil
  | cons a l ih =>
    obtain ⟨ha, hd⟩ := List.nodup_cons.1 hd
    rw [List.foldl_cons]
    rcases List.mem_cons.1 hk with rfl | hk
    · have hrest : ∀ (m : List α) (x : β), k ∉ m → g (m.foldl f x) = g x := fun m => by
        induction m with
        | nil => exact fun _ _ => rfl
        | cons a m ih =>
          intro x hm
          obtain ⟨hne, hm⟩ := not_or.1 (mt List.mem_cons.2 hm)
          rw [List.foldl_cons, ih _ hm, hkeep _ _ (Ne.symm hne)]
      rw [hrest l _ ha, hown]
    · rw [ih hd hk, hkeep _ _ (ne_of_mem_of_not_mem hk ha).symm]

theorem nodup_filter_range (n : Nat) (p : Nat → Bool) : ((List.range n).filter p).Nodup := List.nodup_range.filter p

-- the pacer of a die

theorem Chip.estimate_le_top (c : Chip) (d : Nat) : c.estimate d ≤ c.ceiling d * 105 / 100 := by
  unfold Chip.estimate
  dsimp only
  split <;> omega

theorem Chip.estimate_le_allow (c : Chip) {d : Nat} (h : (c.bit (.CD_PACER_CFG d) F.CD_PACER_CFG_PACE_EN || c.emergency d) = true) :
    c.estimate d ≤ (c.die d).allow := by
  rw [Chip.estimate, if_pos h]
  omega

theorem Chip.newAllow_le (c : Chip) (d est : Nat) :
    c.newAllow d est ≤ c.ceiling d ∧ c.newAllow d est ≤ (c.die d).allow + c.growth d ∧ c.newAllow d est ≤ est + c.growth d := by
  unfold Chip.newAllow
  omega

theorem Chip.growth_le (c : Chip) (d : Nat) : c.growth d ≤ c.fld (.CD_PACER_CFG d) F.CD_PACER_CFG_RATE := by
  unfold Chip.growth
  dsimp only
  split
  · omega
  · split <;> omega

theorem Chip.growth_emergency (c : Chip) {d : Nat} (h : c.emergency d = true) : c.growth d = 0 := if_pos h

/-- The allowance that an update gives a die: the ceiling alone limits a die that is not paced. -/
def Chip.pacedAllow (c : Chip) (d : Nat) : Nat :=
  if c.bit (.CD_PACER_CFG d) F.CD_PACER_CFG_PACE_EN || c.emergency d then c.nextFree.nextFree.newAllow d (c.estimate d)
  else c.ceiling d

theorem Chip.pacedAllow_le (c : Chip) (d : Nat) : c.pacedAllow d ≤ c.ceiling d := by
  unfold Chip.pacedAllow
  split
  · exact (c.nextFree.nextFree.newAllow_le d _).1
  · exact le_rfl

theorem Chip.pacedAllow_grows (c : Chip) {d : Nat}
    (h : (c.bit (.CD_PACER_CFG d) F.CD_PACER_CFG_PACE_EN || c.emergency d) = true) :
    c.pacedAllow d ≤ (c.die d).allow + c.growth d ∧ c.pacedAllow d ≤ c.estimate d + c.growth d := by
  rw [Chip.pacedAllow, if_pos h]
  exact (c.nextFree.nextFree.newAllow_le d _).2

theorem Chip.pacerUpdate_die (c : Chip) (d : Nat) :
    ((c.pacerUpdate d).die d).allow = c.pacedAllow d ∧ ((c.pacerUpdate d).die d).est = c.estimate d := by
  have hset : ∀ (x : Chip) (f : DieSt → DieSt) (a b n m : Nat) (l : Bool),
      ((((((x.onDie d f).setFld (.CD_PACER_STATUS d) F.CD_PACER_STATUS_EST_A a).setFld (.CD_PACER_STATUS d)
        F.CD_PACER_STATUS_ALLOW_A b).setBit (.CD_PACER_STATUS d) F.CD_PACER_STATUS_LIMITING l).setFld (.CD_PACER_STATUS d)
        F.CD_PACER_STATUS_PACED_US n).die d) = f (x.die d) := fun x f a b n m l => x.die_onDie d f
  unfold Chip.pacerUpdate
  dsimp only
  rw [hset _ _ _ _ _ 0]
  exact ⟨rfl, rfl⟩

theorem Chip.pacerUpdate_est (c : Chip) (d : Nat) :
    (c.pacerUpdate d).fld (.CD_PACER_STATUS d) F.CD_PACER_STATUS_EST_A = min 255 (c.estimate d / 100) := by
  unfold Chip.pacerUpdate
  dsimp only
  rw [Chip.fld_setFld_apart _ _ _ (by decide), Chip.fld_setBit_apart _ _ _ (by decide), Chip.fld_setFld_apart _ _ _ (by decide),
    Chip.fld_setFld _ _ _ _ (by decide) (by decide)]
  refine Nat.mod_eq_of_lt ?_
  rw [show 2 ^ F.CD_PACER_STATUS_EST_A.width = 256 from rfl]
  omega

theorem pacerUpdate_does (s : State) (d : Nat) (hd : d < 12) : ∃ t, exec (.pacerUpdate d) s = .next t
    ∧ (t.chip.die d).allow ≤ s.chip.ceiling d
    ∧ t.chip.fld (.CD_PACER_STATUS d) F.CD_PACER_STATUS_EST_A * 10000 ≤ s.chip.ceiling d * 105
    ∧ (s.chip.bit (.CD_PACER_CFG d) F.CD_PACER_CFG_PACE_EN = true →
      (t.chip.die d).allow ≤ (s.chip.die d).allow + s.chip.fld (.CD_PACER_CFG d) F.CD_PACER_CFG_RATE)
    ∧ (s.chip.emergency d = true → (t.chip.die d).allow ≤ (s.chip.die d).allow)
    ∧ (s.chip.bit (.CD_PACER_CFG d) F.CD_PACER_CFG_PACE_EN = true ∨ s.chip.emergency d = true →
      (t.chip.die d).est ≤ (s.chip.die d).allow ∧ (t.chip.die d).allow ≤ (t.chip.die d).est + s.chip.growth d) := by
  obtain ⟨hallow, hest⟩ := s.chip.pacerUpdate_die d
  refine ⟨_, gives_of_onChip rfl (decide_eq_true hd) rfl, ?_⟩
  dsimp only
  rw [hallow, hest, Chip.pacerUpdate_est]
  refine ⟨s.chip.pacedAllow_le d, ?_, fun h => ?_, fun h => ?_, fun h => ?_⟩
  · have htop := s.chip.estimate_le_top d
    omega
  · have hgrow := (s.chip.pacedAllow_grows (d := d) (by rw [h]; rfl)).1
    have hrate := s.chip.growth_le d
    omega
  · have hgrow := (s.chip.pacedAllow_grows (d := d) (by rw [h]; exact Bool.or_true _)).1
    rwa [s.chip.growth_emergency h] at hgrow
  · have hpace := (Bool.or_eq_true _ _).mpr h
    exact ⟨s.chip.estimate_le_allow hpace, (s.chip.pacedAllow_grows hpace).2⟩

-- the package's growth

/-- What a package update gives die d of the package's growth. -/
def Chip.pkgShareOf (c : Chip) (short : List Nat) (total d : Nat) : Nat :=
  if short.contains d then min (c.fld (.CD_PACER_CFG d) F.CD_PACER_CFG_RATE * 10) (total / short.length) else 0

def Chip.giveShare (short : List Nat) (total d : Nat) (c : Chip) : Chip :=
  c.onDie d (fun y => { y with pkgShare := c.pkgShareOf short total d })

theorem Chip.giveShare_regs (short : List Nat) (total d : Nat) (c : Chip) : (c.giveShare short total d).regs = c.regs := (rfl)

theorem Chip.die_giveShares (c : Chip) (short : List Nat) (total n : Nat) {d : Nat} (hd : d < n) :
    ((forUpTo n (Chip.giveShare short total) c).die d).pkgShare = c.pkgShareOf short total d := by
  have hregs : ∀ m, (forUpTo m (Chip.giveShare short total) c).regs = c.regs :=
    fun m => forUpTo_same Chip.regs (Chip.giveShare_regs short total) m c
  induction n with
  | zero => exact absurd hd (Nat.not_lt_zero _)
  | succ n ih =>
    rw [forUpTo_succ]
    by_cases h : d = n
    · subst h
      rw [Chip.giveShare, Chip.die_onDie, Chip.pkgShareOf, Chip.fld_of_reg (Chip.reg_of_regs (hregs d) _), ← Chip.pkgShareOf]
    · rw [Chip.giveShare, Chip.die_onDie_ne _ _ h, ih (by omega)]

theorem pkgPacerUpdate_does (s : State) : ∃ t, exec .pkgPacerUpdate s = .next t ∧ ∀ d, d < 12 →
    (t.chip.die d).pkgShare ≤ s.chip.fld (.CD_PACER_CFG d) F.CD_PACER_CFG_RATE * 10
    ∧ ((s.chip.die d).demand ≤ (s.chip.die d).allow ∨ s.chip.dieUp d = false → (t.chip.die d).pkgShare = 0) := by
  refine ⟨_, gives_of_onChip (ok := true) rfl rfl rfl, fun d hd => ?_⟩
  let short := (List.range 12).filter (fun d => s.chip.dieUp d && decide ((s.chip.die d).allow < (s.chip.die d).demand))
  let total := s.chip.fld .PKG_PACER_CFG F.PKG_PACER_CFG_PKG_RATE * 10
  have hshare : (s.chip.pkgPacer.die d).pkgShare = s.chip.pkgShareOf short total d := s.chip.die_giveShares short total 12 hd
  dsimp only
  rw [hshare, Chip.pkgShareOf]
  refine ⟨by split <;> omega, fun h => if_neg fun hc => ?_⟩
  have hmem := (List.mem_filter.1 (List.contains_iff_mem.1 hc)).2
  rw [Bool.and_eq_true, decide_eq_true_eq] at hmem
  rcases h with h | h
  · omega
  · rw [h] at hmem
    exact absurd hmem.1 (by decide)

-- DROOP_N

/-- A die keeps the allowance that DROOP_N leaves it. -/
def DieSt.keep (allow : Nat) (y : DieSt) : DieSt := { y with allow := allow, droopEnd := none }

/-- The answer of die d to DROOP_N. -/
def Chip.droopDie (c : Chip) (pct d : Nat) : Chip :=
  ((c.onDie d (DieSt.keep ((c.die d).allow * pct / 100))).setBit (.CD_PACER_STATUS d)
    F.CD_PACER_STATUS_EMERGENCY true).setFld (.CD_PACER_STATUS d) F.CD_PACER_STATUS_ALLOW_A
    (min 255 ((c.die d).allow * pct / 100 / 100))

theorem Chip.droopDie_allow (c : Chip) (pct d : Nat) : ((c.droopDie pct d).die d).allow = (c.die d).allow * pct / 100 :=
  congrArg DieSt.allow (c.die_onDie d (DieSt.keep _))

theorem Chip.droopDie_ne (c : Chip) (pct : Nat) {d k : Nat} (h : k ≠ d) : (c.droopDie pct d).die k = c.die k :=
  c.die_onDie_ne (DieSt.keep _) h

theorem Chip.droopDie_emergency (c : Chip) (pct d : Nat) : (c.droopDie pct d).emergency d = true :=
  (Chip.bit_setFld_apart _ _ _ (by decide)).trans (Chip.bit_setBit _ _ _ _ (by decide) (by decide))

theorem Chip.droopDie_emergency_ne (c : Chip) (pct : Nat) {d k : Nat} (h : k ≠ d) : (c.droopDie pct d).emergency k = c.emergency k :=
  (Chip.bit_setFld_ne _ _ _ _ (by simp only [Reg.offset]; omega)).trans
    (Chip.bit_setBit_ne _ _ _ _ (by simp only [Reg.offset]; omega))

/-- The answer of all dies to DROOP_N, which Uzomuris has counted. -/
def Chip.droopAll (c : Chip) : Chip :=
  let c0 : Chip := { c with pins := { c.pins with droopN := false }, uz := { c.uz with droops := c.uz.droops + 1 } }
  c.droopDies.foldl (fun x d => x.droopDie (c.fld .PKG_PACER_CFG F.PKG_PACER_CFG_EMERG_PCT) d) c0

theorem Chip.droopAll_of (c : Chip) {d : Nat} (hd : d ∈ c.droopDies) : c.droopAll.emergency d = true
    ∧ (c.droopAll.die d).allow = (c.die d).allow * c.fld .PKG_PACER_CFG F.PKG_PACER_CFG_EMERG_PCT / 100 := by
  have hnodup : c.droopDies.Nodup := nodup_filter_range _ _
  exact ⟨foldl_at (g := fun x : Chip => x.emergency d) (w := fun _ => true) (fun b => b.droopDie_emergency _ _)
      (fun b a ha => b.droopDie_emergency_ne _ (Ne.symm ha)) hnodup hd _,
    foldl_at (g := fun x : Chip => (x.die d).allow) (w := fun a => a * c.fld .PKG_PACER_CFG F.PKG_PACER_CFG_EMERG_PCT / 100)
      (fun b => b.droopDie_allow _ _) (fun b a ha => congrArg DieSt.allow (b.droopDie_ne _ (Ne.symm ha))) hnodup hd _⟩

theorem Chip.droopDie_pins (c : Chip) (pct d : Nat) : (c.droopDie pct d).pins = c.pins ∧ (c.droopDie pct d).uz = c.uz := ⟨rfl, rfl⟩

theorem Chip.droopAll_pins (c : Chip) : c.droopAll.pins.droopN = false ∧ c.droopAll.uz.droops = c.uz.droops + 1 :=
  ⟨congrArg Pins.droopN (foldl_same Chip.pins (fun x d => (x.droopDie_pins _ d).1) _ _),
    congrArg UzSt.droops (foldl_same Chip.uz (fun x d => (x.droopDie_pins _ d).2) _ _)⟩

theorem droopNAssert_does (s : State) (hpin : s.chip.pins.droopN = true)
    (hen : s.chip.bit .PKG_PACER_CFG F.PKG_PACER_CFG_DROOP_N_EN = true) :
    ∃ t, exec .droopNAssert s = .next t ∧ t.chip.pins.droopN = false ∧ t.chip.uz.droops = s.chip.uz.droops + 1
      ∧ ∀ d ∈ s.chip.droopDies, t.chip.emergency d = true
        ∧ (t.chip.die d).allow = (s.chip.die d).allow * s.chip.fld .PKG_PACER_CFG F.PKG_PACER_CFG_EMERG_PCT / 100 := by
  refine ⟨_, gives_of_onChip (ok := true) rfl rfl ((if_neg (by rw [hpin]; decide)).trans (if_neg (by rw [hen]; decide))), ?_⟩
  have hall : ∀ d ∈ s.chip.droopDies, (s.chip.droopAll.raiseEvent 19).emergency d = true
      ∧ ((s.chip.droopAll.raiseEvent 19).die d).allow
        = (s.chip.die d).allow * s.chip.fld .PKG_PACER_CFG F.PKG_PACER_CFG_EMERG_PCT / 100 := fun d hd => by
    have hlt : d < 12 := List.mem_range.1 (List.mem_filter.1 hd).1
    obtain ⟨hemerg, hallow⟩ := s.chip.droopAll_of hd
    refine ⟨(Chip.bit_raiseEvent_ne _ _ _ (by simp only [Reg.offset]; omega)).trans hemerg, ?_⟩
    rw [Chip.raiseEvent_frame]
    exact hallow
  obtain ⟨hp, huz⟩ := s.chip.droopAll_pins
  exact ⟨by rw [Chip.raiseEvent_frame]; exact hp, (congrArg UzSt.droops (Chip.raiseEvent_uz _ _)).trans huz, hall⟩

/-- A die holds its allowance until `t`. -/
def DieSt.holdTo (t : Nat) (y : DieSt) : DieSt := { y with droopEnd := some t }

theorem Chip.foldl_holdTo (c : Chip) (t : Nat) (l : List Nat) : (l.foldl (fun x d => x.onDie d (DieSt.holdTo t)) c).pins = c.pins :=
  foldl_same Chip.pins (fun x d => x.onDie_pins d (DieSt.holdTo t)) l c

theorem droopNRelease_does (s : State) (hpin : s.chip.pins.droopN = false) :
    ∃ t, exec .droopNRelease s = .next t ∧ t.chip.pins.droopN = true ∧ ∀ d, d < 12 → s.chip.emergency d = true →
      (t.chip.die d).droopEnd = some (s.chip.now + s.chip.fld .PKG_PACER_CFG F.PKG_PACER_CFG_DROOP_HOLD * 100) := by
  refine ⟨_, gives_of_onChip (ok := true) rfl rfl (if_neg (by rw [hpin]; decide)), ?_, fun d hd he => ?_⟩
  · exact congrArg Pins.droopN (Chip.foldl_holdTo _ _ _)
  · exact foldl_at (g := fun x : Chip => (x.die d).droopEnd)
      (w := fun _ => some (s.chip.now + s.chip.fld .PKG_PACER_CFG F.PKG_PACER_CFG_DROOP_HOLD * 100))
      (fun b => congrArg DieSt.droopEnd (b.die_onDie d _))
      (fun b a ha => congrArg DieSt.droopEnd (b.die_onDie_ne _ (Ne.symm ha)))
      (nodup_filter_range _ _) (List.mem_filter.2 ⟨List.mem_range.2 hd, he⟩) _

theorem droopHoldExpiry_cases (s : State) (d e : Nat) (hd : d < 12) (hend : (s.chip.die d).droopEnd = some e) :
    (e ≤ s.chip.now → s.chip.pins.droopN = true → Gives (.droopHoldExpiry d) s
      ((s.chip.onDie d (fun x => { x with droopEnd := none })).setBit (.CD_PACER_STATUS d) F.CD_PACER_STATUS_EMERGENCY false))
    ∧ (s.chip.now < e → Gives (.droopHoldExpiry d) s s.chip) := by
  have hdoes : Gives (.droopHoldExpiry d) s (s.chip.droopHoldEnd d) := gives_of_onChip rfl (decide_eq_true hd) rfl
  rw [Chip.droopHoldEnd, hend] at hdoes
  dsimp only at hdoes
  exact ⟨fun h hpin => by rwa [if_pos ⟨h, hpin⟩] at hdoes, fun h => by rwa [if_neg (fun hc => absurd hc.1 (by omega))] at hdoes⟩

-- power limits

theorem Chip.setPoint_peak (c : Chip) (d mv : Nat) : (c.setPoint d mv).peakAt = c.peakAt := by
  unfold Chip.setPoint
  split <;> rfl

/-- What capping the package's power leaves: the peak episode and its mark. -/
structure Chip.SamePeak (c c' : Chip) : Prop where
  peakAt : c'.peakAt = c.peakAt
  active : c'.bit .PKG_POWER_STATUS F.PKG_POWER_STATUS_PEAK_ACTIVE = c.bit .PKG_POWER_STATUS F.PKG_POWER_STATUS_PEAK_ACTIVE

theorem Chip.SamePeak.refl (c : Chip) : c.SamePeak c := ⟨rfl, rfl⟩

theorem Chip.SamePeak.trans {a b c : Chip} (h : a.SamePeak b) (h' : b.SamePeak c) : a.SamePeak c :=
  ⟨h'.peakAt.trans h.peakAt, h'.active.trans h.active⟩

theorem Chip.lowerCap_samePeak (c : Chip) (d : Nat) : c.SamePeak (c.lowerCap d) :=
  ⟨rfl, Chip.bit_setFld_ne _ _ _ _ (by simp only [Reg.offset]; omega)⟩

theorem Chip.lowerMv_samePeak (c : Chip) (d : Nat) : c.SamePeak (c.lowerMv d) :=
  ⟨Chip.setPoint_peak _ _ _, Chip.bit_of_reg (Chip.reg_of_regs (Chip.setPoint_regs _ _ _) _) _⟩

theorem Chip.noteCapping_samePeak (c : Chip) : c.SamePeak c.noteCapping := ⟨rfl, Chip.bit_setBit_apart _ _ _ (by decide)⟩

theorem foldl_samePeak {f : Chip → Nat → Chip} (hf : ∀ (x : Chip) d, x.SamePeak (f x d)) (l : List Nat) (c : Chip) : c.SamePeak (l.foldl f c) := by
  induction l generalizing c with
  | nil => exact Chip.SamePeak.refl c
  | cons d l ih => exact (hf c d).trans (ih _)

theorem Chip.capPower_samePeak (c : Chip) : c.SamePeak c.capPower := by
  unfold Chip.capPower
  dsimp only
  split
  · exact (foldl_samePeak Chip.lowerCap_samePeak _ _).trans (Chip.noteCapping_samePeak _)
  · refine (foldl_samePeak (fun x d => ?_) _ _).trans (Chip.noteCapping_samePeak _)
    split
    · exact x.lowerCap_samePeak d
    · exact x.lowerMv_samePeak d

theorem powerSample_cases (s : State) (w : Nat) :
    (s.chip.bit .PKG_POWER_STATUS F.PKG_POWER_STATUS_PEAK_ACTIVE = true → w ≤ s.chip.tdp →
      ∃ t, exec (.powerSample w) s = .next t ∧ t.chip.bit .PKG_POWER_STATUS F.PKG_POWER_STATUS_PEAK_ACTIVE = false
        ∧ t.chip.fld .PKG_POWER_STATUS F.PKG_POWER_STATUS_PKG_W = min w 2047)
    ∧ (s.chip.bit .PKG_POWER_STATUS F.PKG_POWER_STATUS_PEAK_ACTIVE = false → s.chip.tdp < w → s.chip.peakBar = false →
      s.chip.peakMs ≠ 0 → ∃ t, exec (.powerSample w) s = .next t ∧ t.chip.peakAt = some s.chip.now
        ∧ t.chip.bit .PKG_POWER_STATUS F.PKG_POWER_STATUS_PEAK_ACTIVE = true) := by
  refine ⟨fun hact hw => ?_, fun hact hw hbar hms => ?_⟩
  · refine ⟨_, gives_of_onChip (ok := true) rfl rfl ((if_pos hact).trans (if_pos hw)), ?_, ?_⟩
    · exact Chip.bit_setBit _ _ _ _ (by decide) (by decide)
    · refine (Chip.fld_setBit_apart _ _ _ (by decide)).trans ((Chip.fld_setFld_apart _ _ _ (by decide)).trans ?_)
      refine (Chip.fld_setFld _ _ _ _ (by decide) (by decide)).trans (Nat.mod_eq_of_lt ?_)
      rw [show 2 ^ F.PKG_POWER_STATUS_PKG_W.width = 2048 from rfl]
      omega
  · have hbar' : ∀ b, ((s.chip.peakBar && b) || s.chip.peakMs == 0) = false := fun b => by
      rw [hbar, Bool.false_and, Bool.false_or, beq_eq_false_iff_ne]
      exact hms
    refine ⟨_, gives_of_onChip (ok := true) rfl rfl ((if_neg (by rw [hact]; decide)).trans
      ((if_pos hw).trans (if_neg (by rw [hbar']; decide)))), ?_⟩
    have hstart : ∀ (x : Chip) (b : Bool) (t : Nat),
        let y := ({ x with peakAt := some t } : Chip).setBit .PKG_POWER_STATUS F.PKG_POWER_STATUS_PEAK_ACTIVE true
        (if b then y.capPower else y).peakAt = some t
          ∧ (if b then y.capPower else y).bit .PKG_POWER_STATUS F.PKG_POWER_STATUS_PEAK_ACTIVE = true := fun x b t => by
      intro y
      have hy : y.peakAt = some t ∧ y.bit .PKG_POWER_STATUS F.PKG_POWER_STATUS_PEAK_ACTIVE = true :=
        ⟨rfl, Chip.bit_setBit _ _ _ _ (by decide) (by decide)⟩
      split
      · exact ⟨y.capPower_samePeak.peakAt.trans hy.1, y.capPower_samePeak.active.trans hy.2⟩
      · exact hy
    exact hstart _ _ _

theorem peakOverrun_cases (s : State) (b : Nat) (hb : s.chip.peakAt = some b) :
    (b + s.chip.peakMs * 1000000 ≤ s.chip.now → ∃ t, exec .peakOverrun s = .next t
      ∧ t.chip.bit .PKG_POWER_STATUS F.PKG_POWER_STATUS_PEAK_ACTIVE = false
      ∧ t.chip.bit .PKG_POWER_STATUS F.PKG_POWER_STATUS_PEAK_OVERRUN = true ∧ t.chip.peakAt = none)
    ∧ (s.chip.now < b + s.chip.peakMs * 1000000 → Gives .peakOverrun s s.chip) := by
  have hdoes : Gives .peakOverrun s s.chip.peakOverrun := gives_of_onChip (ok := true) rfl rfl rfl
  rw [Chip.peakOverrun, hb] at hdoes
  dsimp only at hdoes
  refine ⟨fun h => ?_, fun h => by rwa [if_neg (by omega)] at hdoes⟩
  rw [if_pos h] at hdoes
  have hend : ∀ x : Chip, let y := ((({ x with peakAt := none, peakBar := true } : Chip).setBit .PKG_POWER_STATUS
        F.PKG_POWER_STATUS_PEAK_ACTIVE false).setBit .PKG_POWER_STATUS F.PKG_POWER_STATUS_PEAK_OVERRUN true).noteCapping.raiseEvent 18
      y.bit .PKG_POWER_STATUS F.PKG_POWER_STATUS_PEAK_ACTIVE = false
        ∧ y.bit .PKG_POWER_STATUS F.PKG_POWER_STATUS_PEAK_OVERRUN = true ∧ y.peakAt = none := fun x => by
    intro y
    refine ⟨?_, ?_, ?_⟩
    · exact (Chip.bit_raiseEvent_ne _ _ _ (by decide)).trans ((Chip.bit_setBit_apart _ _ _ (by decide)).trans
        ((Chip.bit_setBit_apart _ _ _ (by decide)).trans (Chip.bit_setBit _ _ _ _ (by decide) (by decide))))
    · exact (Chip.bit_raiseEvent_ne _ _ _ (by decide)).trans ((Chip.bit_setBit_apart _ _ _ (by decide)).trans
        (Chip.bit_setBit _ _ _ _ (by decide) (by decide)))
    · exact congrArg Chip.peakAt (Chip.raiseEvent_frame _ 18)
  exact ⟨_, hdoes, hend _⟩

theorem pkgPowerCfgWrite_cases (s : State) (who : Who) (v : Word) :
    (who.sealed = true → powerCfgOk v = true → Gives (.pkgPowerCfgWrite who v) s (s.chip.storeFields .PKG_POWER_CFG v))
    ∧ (who.sealed = true → powerCfgOk v = false → Gives (.pkgPowerCfgWrite who v) s
      (s.chip.setBit .PKG_POWER_STATUS F.PKG_POWER_STATUS_CFG_REJECT true))
    ∧ (who.sealed = false → Gives (.pkgPowerCfgWrite who v) s (s.chip.refuseWrite who .PKG_POWER_CFG)) :=
  ⟨fun hw hv => gives_of_onChip (ok := true) rfl rfl ((if_pos hw).trans (if_pos hv)),
    fun hw hv => gives_of_onChip (ok := true) rfl rfl ((if_pos hw).trans (if_neg (by rw [hv]; decide))),
    fun hw => gives_of_onChip (ok := true) rfl rfl (if_neg (by rw [hw]; decide))⟩

/-- Settles O41: the pacers by what bounds the allowance, DROOP_N by the answer of each die, the peak episodes by what capping leaves. -/
theorem supplyPower : Obligations.SupplyPower := by
  unfold Obligations.SupplyPower
  exact ⟨pacerUpdate_does, pkgPacerUpdate_does, droopNAssert_does,
    fun s hpin hen => gives_of_onChip (ok := true) rfl rfl ((if_neg (by rw [hpin]; decide)).trans (if_pos (by rw [hen]; rfl))),
    droopNRelease_does, droopHoldExpiry_cases, powerSample_cases, peakOverrun_cases, pkgPowerCfgWrite_cases⟩

end Sys2Proof.Machine
end

section
/-! What disabling a die and training its links leave of the chip (R233, R236, R240). -/

namespace Sys2Proof.Machine

/-- The chip but its links, its gallery, what waits in them, and what events and faults and records of a link touch. -/
def Chip.besideLinks (c : Chip) : Chip :=
  { c with regs := [], net := [], gal := Chip.reset.gal, link := [], fcHold := [], fcLost := [], msi := [], free := 0, uz := UzSt.reset }

/-- A register that answering the packets held for a die does not change. -/
def Reg.offAnswers (q : Reg) : Prop := (∀ r, q.offset ≠ (Reg.GAL_FENCE_STATUS r).offset)
  ∧ ∀ d, d < 13 → q.offset ≠ (Reg.PKG_DIE_STATUS d).offset

/-- A register that disabling a die does not change. -/
def Reg.offDies (q : Reg) : Prop := (∀ k, q.offset ≠ (Reg.JL_STATUS k).offset) ∧ q.offAnswers

/-- A register that training the links of a die does not change. -/
def Reg.offTraining (q : Reg) : Prop := q.offDies ∧ (∀ k, q.offset ≠ (Reg.JL_RETRY k).offset) ∧ (∀ n, n < 4096 →
  q.offset ≠ (Reg.FC_SRC n).offset ∧ q.offset ≠ (Reg.EVR_SRC n).offset) ∧ q.offset ≠ Reg.UZ_LR_STATUS.offset

/-- Two chips alike but for the links and the gallery, and for registers that `P` does not keep. -/
structure Chip.SameBesideLinks (P : Reg → Prop) (c d : Chip) : Prop where
  rest : d.besideLinks = c.besideLinks
  reg : ∀ q : Reg, P q → d.reg q = c.reg q

section
variable {P : Reg → Prop} {c d e : Chip}

theorem Chip.SameBesideLinks.refl (c : Chip) : c.SameBesideLinks P c := ⟨rfl, fun _ _ => rfl⟩

theorem Chip.SameBesideLinks.trans (h : c.SameBesideLinks P d) (h' : d.SameBesideLinks P e) : c.SameBesideLinks P e :=
  ⟨h'.rest.trans h.rest, fun q hq => (h'.reg q hq).trans (h.reg q hq)⟩

theorem Chip.SameBesideLinks.of_regs (h : d.besideLinks = c.besideLinks) (hr : d.regs = c.regs) : c.SameBesideLinks P d :=
  ⟨h, fun q _ => Chip.reg_of_regs hr q⟩

theorem Chip.SameBesideLinks.mono {Q : Reg → Prop} (h : c.SameBesideLinks P d) (hQ : ∀ q, Q q → P q) : c.SameBesideLinks Q d :=
  ⟨h.rest, fun q hq => h.reg q (hQ q hq)⟩

theorem Chip.setFld_sameBesideLinks (c : Chip) {r : Reg} (f : Field) (n : Nat) (h : ∀ q, P q → q.offset ≠ r.offset) :
    c.SameBesideLinks P (c.setFld r f n) := ⟨rfl, fun q hq => Chip.reg_setFld_ne _ _ _ (h q hq)⟩

theorem Chip.setReg_sameBesideLinks (c : Chip) {r : Reg} (w : Word) (h : ∀ q, P q → q.offset ≠ r.offset) :
    c.SameBesideLinks P (c.setReg r w) := ⟨rfl, fun q hq => Chip.reg_setReg_ne _ _ (h q hq)⟩

theorem Chip.setGal_sameBesideLinks (c : Chip) (g : Gallery) : c.SameBesideLinks P { c with gal := g } := Chip.SameBesideLinks.of_regs rfl rfl

theorem Chip.setLinkEnd_sameBesideLinks (c : Chip) (k : Nat) (b : Bool) (l : LinkEnd) : c.SameBesideLinks P (c.setLinkEnd k b l) :=
  Chip.SameBesideLinks.of_regs rfl rfl

theorem foldl_sameBesideLinks {α : Type} {f : Chip → α → Chip} (hf : ∀ (x : Chip) a, x.SameBesideLinks P (f x a)) (l : List α) (c : Chip) :
    c.SameBesideLinks P (l.foldl f c) := by
  induction l generalizing c with
  | nil => exact Chip.SameBesideLinks.refl c
  | cons a l ih => exact (hf c a).trans (ih _)

theorem forUpTo_sameBesideLinks {f : Nat → Chip → Chip} (hf : ∀ i (x : Chip), x.SameBesideLinks P (f i x)) (n : Nat) (c : Chip) :
    c.SameBesideLinks P (forUpTo n f c) := by
  induction n with
  | zero => exact Chip.SameBesideLinks.refl c
  | succ n ih => rw [forUpTo_succ]; exact ih.trans (hf n _)

end

-- a die is disabled

theorem Chip.report_besideLinks (c : Chip) (u src rid w acc d a : Nat) : (c.report u src rid w acc d a).besideLinks = c.besideLinks := by
  rw [Chip.report_frame]
  rfl

theorem Chip.undeliverable_same (c : Chip) (r : Nat) (p : Packet) (n : Nat) : c.SameBesideLinks Reg.offAnswers (c.undeliverable r p n) := by
  have hreport : ∀ rid w acc d a, c.SameBesideLinks Reg.offAnswers ((c.bump (.GAL_FENCE_STATUS r)
      F.GAL_FENCE_STATUS_UNAVAIL_COUNT).report (unitRouter r) 9 rid w acc d a) := fun rid w acc d a =>
    (c.setFld_sameBesideLinks _ _ fun q hq => hq.1 r).trans (Chip.SameBesideLinks.of_regs (Chip.report_besideLinks ..) (Chip.report_regs ..))
  unfold Chip.undeliverable
  dsimp only
  split
  · exact (hreport ..).trans (Chip.SameBesideLinks.of_regs rfl rfl)
  · exact hreport ..

theorem Chip.disabledAnswer_same (c : Chip) (r : Nat) (p : Packet) : c.SameBesideLinks Reg.offAnswers (c.disabledAnswer r p) := by
  have hdrop : ∀ d, d < 13 → c.SameBesideLinks Reg.offAnswers (c.bump (.PKG_DIE_STATUS d) F.PKG_DIE_STATUS_MSI_DROPS) := fun d hd =>
    c.setFld_sameBesideLinks _ _ fun q hq => hq.2 d hd
  unfold Chip.disabledAnswer
  split
  · exact Chip.undeliverable_same ..
  next d hd =>
    split
    · split
      · exact (hdrop d (pktDie_lt hd)).trans (Chip.undeliverable_same ..)
      · exact Chip.undeliverable_same ..
    · split
      · exact hdrop d (pktDie_lt hd)
      · split
        · exact Chip.undeliverable_same ..
        · exact Chip.SameBesideLinks.refl _

theorem Chip.heldCount_same (c : Chip) (r : Nat) : c.SameBesideLinks Reg.offAnswers (c.heldCount r) :=
  (c.setGal_sameBesideLinks _).trans (Chip.setFld_sameBesideLinks _ _ _ fun _ (hq : Reg.offAnswers _) => hq.1 r)

/-- A packet that is held for a port is answered as one for a disabled port. -/
def Chip.answerOne (c : Chip) (h : HeldPkt) : Chip :=
  (({ c with gal := { c.gal with hold := dropFirst h c.gal.hold } } : Chip).disabledAnswer h.r h.pkt).heldCount h.r

theorem Chip.answerOne_same (c : Chip) (h : HeldPkt) : c.SameBesideLinks Reg.offAnswers (c.answerOne h) :=
  ((c.setGal_sameBesideLinks _).trans (Chip.disabledAnswer_same _ h.r h.pkt)).trans (Chip.heldCount_same _ h.r)

theorem Chip.answerHeld_same (c : Chip) (r port : Nat) : c.SameBesideLinks Reg.offAnswers (c.answerHeld r port) :=
  foldl_sameBesideLinks (f := Chip.answerOne) Chip.answerOne_same _ c

theorem Chip.moveLinks_same (c : Chip) (d st : Nat) (was : List Nat) : c.SameBesideLinks Reg.offDies (c.moveLinks d st was) := by
  refine forUpTo_sameBesideLinks (fun i x => ?_) 2 c
  split
  · exact x.setFld_sameBesideLinks _ _ fun q hq => hq.1 (2 * d + i)
  · exact Chip.SameBesideLinks.refl _

theorem Chip.clearLinks_same {P : Reg → Prop} (c : Chip) (d : Nat) : c.SameBesideLinks P (c.clearLinks d) :=
  forUpTo_sameBesideLinks (fun _ x => x.setLinkEnd_sameBesideLinks _ _ _) 4 c

theorem Chip.setPortState_same (c : Chip) (r port st : Nat) : c.SameBesideLinks Reg.offAnswers (c.setPortState r port st) :=
  c.setFld_sameBesideLinks _ _ fun _ hq => hq.1 r

/-- The ports of a die close. -/
theorem Chip.closePorts_same (c : Chip) (l : List (Nat × Nat)) :
    c.SameBesideLinks Reg.offAnswers (l.foldl (fun x p => (x.setPortState p.1 p.2 3).answerHeld p.1 p.2) c) :=
  foldl_sameBesideLinks (fun (x : Chip) (p : Nat × Nat) => (x.setPortState_same p.1 p.2 3).trans (Chip.answerHeld_same _ p.1 p.2)) _ _

theorem Chip.disableDie_same (c : Chip) (d : Nat) : c.SameBesideLinks Reg.offDies (c.disableDie d) :=
  ((c.moveLinks_same d 4 [1, 2]).trans (Chip.clearLinks_same _ d)).trans ((Chip.closePorts_same _ (diePorts d)).mono fun _ hq => hq.2)

-- the state of a die that is disabled

theorem Chip.undeliverable_dieState (c : Chip) (r : Nat) (p : Packet) (n : Nat) {k : Nat} (hk : k < 13) :
    (c.undeliverable r p n).dieState k = c.dieState k := by
  have hreport : ∀ rid w acc d a, ((c.bump (.GAL_FENCE_STATUS r) F.GAL_FENCE_STATUS_UNAVAIL_COUNT).report (unitRouter r) 9 rid w acc d
      a).dieState k = c.dieState k := fun rid w acc d a => by
    rw [Chip.dieState, Chip.report_fld]
    exact Chip.fld_setFld_ne _ _ _ _ (by simp only [Reg.offset]; omega)
  unfold Chip.undeliverable
  dsimp only
  split
  · exact (Chip.fld_of_reg (Chip.reg_of_regs rfl _) _).trans (hreport ..)
  · exact hreport ..

theorem Chip.disabledAnswer_dieState (c : Chip) (r : Nat) (p : Packet) {k : Nat} (hk : k < 13) :
    (c.disabledAnswer r p).dieState k = c.dieState k := by
  have hdrop : ∀ d, (c.bump (.PKG_DIE_STATUS d) F.PKG_DIE_STATUS_MSI_DROPS).dieState k = c.dieState k := fun d => by
    by_cases h : k = d
    · subst h
      exact Chip.fld_setFld_apart _ _ _ (by decide)
    · exact Chip.fld_setFld_ne _ _ _ _ (by simp only [Reg.offset]; omega)
  unfold Chip.disabledAnswer
  split
  · exact Chip.undeliverable_dieState _ _ _ _ hk
  · split
    · split
      · rw [Chip.undeliverable_dieState _ _ _ _ hk, hdrop]
      · exact Chip.undeliverable_dieState _ _ _ _ hk
    · split
      · exact hdrop _
      · split
        · exact Chip.undeliverable_dieState _ _ _ _ hk
        · rfl

theorem Chip.dieState_of_regs {c d : Chip} (h : d.regs = c.regs) (k : Nat) : d.dieState k = c.dieState k :=
  Chip.fld_of_reg (Chip.reg_of_regs h _) _

theorem Chip.dieState_setFld_ne (c : Chip) {r : Reg} (f : Field) (n : Nat) {k : Nat} (h : (Reg.PKG_DIE_STATUS k).offset ≠ r.offset) :
    (c.setFld r f n).dieState k = c.dieState k := Chip.fld_setFld_ne _ _ _ _ h

theorem Chip.setGal_dieState (c : Chip) (g : Gallery) (k : Nat) : ({ c with gal := g } : Chip).dieState k = c.dieState k := (rfl)

theorem Chip.heldCount_dieState (c : Chip) (r : Nat) {k : Nat} (hk : k < 13) : (c.heldCount r).dieState k = c.dieState k :=
  (Chip.dieState_setFld_ne _ _ _ (by simp only [Reg.offset]; omega)).trans (c.setGal_dieState _ k)

theorem Chip.answerOne_dieState (c : Chip) (h : HeldPkt) {k : Nat} (hk : k < 13) : (c.answerOne h).dieState k = c.dieState k :=
  (Chip.heldCount_dieState _ h.r hk).trans ((Chip.disabledAnswer_dieState _ h.r h.pkt hk).trans (c.setGal_dieState _ k))

theorem Chip.answerHeld_dieState (c : Chip) (r port : Nat) {k : Nat} (hk : k < 13) : (c.answerHeld r port).dieState k = c.dieState k :=
  foldl_same (f := Chip.answerOne) (fun x : Chip => x.dieState k) (fun x h => x.answerOne_dieState h hk) _ c

theorem Chip.setLinkEnd_dieState (c : Chip) (j : Nat) (b : Bool) (l : LinkEnd) (k : Nat) :
    (c.setLinkEnd j b l).dieState k = c.dieState k := (rfl)

theorem Chip.setPortState_dieState (c : Chip) (r port st : Nat) {k : Nat} (hk : k < 13) :
    (c.setPortState r port st).dieState k = c.dieState k := Chip.dieState_setFld_ne _ _ _ (by simp only [Reg.offset]; omega)

theorem Chip.disableDie_dieState (c : Chip) (d : Nat) {k : Nat} (hk : k < 13) : (c.disableDie d).dieState k = c.dieState k := by
  have hport : ∀ (x : Chip) (p : Nat × Nat), ((x.setPortState p.1 p.2 3).answerHeld p.1 p.2).dieState k = x.dieState k := fun x p =>
    (Chip.answerHeld_dieState _ p.1 p.2 hk).trans (x.setPortState_dieState p.1 p.2 3 hk)
  have hclear : (Chip.clearLinks (c.moveLinks d 4 [1, 2]) d).dieState k = (c.moveLinks d 4 [1, 2]).dieState k :=
    forUpTo_same (fun x : Chip => x.dieState k) (fun i x => x.setLinkEnd_dieState _ _ _ k) 4 _
  have hmove : (c.moveLinks d 4 [1, 2]).dieState k = c.dieState k :=
    forUpTo_same (fun x : Chip => x.dieState k) (fun i x => by
      split
      · exact Chip.dieState_setFld_ne _ _ _ (by simp only [Reg.offset]; omega)
      · rfl) 2 c
  exact (foldl_same (fun x : Chip => x.dieState k) hport (diePorts d) _).trans (hclear.trans hmove)

-- the links of a die train

theorem Chip.raiseEvent_besideLinks (c : Chip) (n : Nat) : (c.raiseEvent n).besideLinks = c.besideLinks := by
  rw [Chip.raiseEvent_frame]
  rfl

theorem Chip.raiseEvent_sameBesideLinks (c : Chip) {n : Nat} (hn : n < 4096) : c.SameBesideLinks Reg.offTraining (c.raiseEvent n) :=
  ⟨c.raiseEvent_besideLinks n, fun _ hq => c.reg_raiseEvent_ne n (hq.2.2.1 n hn).2⟩

theorem Chip.reportLevel_besideLinks (c : Chip) (u src rid w acc d a : Nat) :
    (c.reportLevel u src rid w acc d a).besideLinks = c.besideLinks := by
  rw [Chip.reportLevel_frame]
  rfl

theorem Chip.reportLevel_sameBesideLinks (c : Chip) (u rid w acc d a : Nat) {n : Nat} (hn : n < 4096) :
    c.SameBesideLinks Reg.offTraining (c.reportLevel u n rid w acc d a) :=
  ⟨c.reportLevel_besideLinks .., fun _ hq => c.reg_reportLevel_ne _ _ _ _ _ _ _ (hq.2.2.1 n hn).1⟩

theorem Chip.linkRecord_same (c : Chip) : c.SameBesideLinks Reg.offTraining c.linkRecord := by
  refine ⟨?_, fun _ hq => Chip.reg_lifeWrite_ne _ _ _ hq.2.2.2⟩
  rw [Chip.linkRecord, Chip.lifeWrite_frame]
  rfl

theorem Chip.linkStatus_same (c : Chip) (k : Nat) (f : Field) (n : Nat) :
    c.SameBesideLinks Reg.offTraining (c.setFld (.JL_STATUS k) f n) := c.setFld_sameBesideLinks _ _ fun _ hq => hq.1.1 k

theorem Chip.markFailed_same (c : Chip) {k : Nat} (cause : Nat) (hk : k < 26) : c.SameBesideLinks Reg.offTraining (c.markFailed k cause) := by
  have hrecord : c.SameBesideLinks Reg.offTraining ((((((((c.setLinkEnd k false { c.linkEnd k false with
      fails := (c.linkEnd k false).fails + 1 }).setFld (.JL_STATUS k) F.JL_STATUS_STATE 3).setFld
      (.JL_STATUS k) F.JL_STATUS_FAIL_CAUSE cause).setBit (.JL_STATUS k) F.JL_STATUS_FAILED_SEEN true).reportLevel
      (unitLink k false) (400 + 2 * k) (linkRid k) 1 15).raiseEvent (204 + k)).linkRecord)) :=
    ((((((c.setLinkEnd_sameBesideLinks _ _ _).trans (Chip.linkStatus_same _ k _ _)).trans (Chip.linkStatus_same _ k _ _)).trans
      (Chip.linkStatus_same _ k _ _)).trans (Chip.reportLevel_sameBesideLinks _ _ _ _ _ _ _ (by omega))).trans
      (Chip.raiseEvent_sameBesideLinks _ (by omega))).trans (Chip.linkRecord_same _)
  unfold Chip.markFailed
  dsimp only
  split
  · exact hrecord
  · exact hrecord.trans (Chip.setFld_sameBesideLinks _ _ _ fun _ hq => hq.1.2.2 _ (by omega))

theorem Chip.trainLink_same (c : Chip) {k : Nat} (ok : Bool) (wires spares : Nat) (hk : k < 26) :
    c.SameBesideLinks Reg.offTraining (c.trainLink k ok wires spares) := by
  have hstart : ∀ w n, c.SameBesideLinks Reg.offTraining ((((c.setReg (.JL_STATUS k) w).setFld (.JL_STATUS k)
      ⟨31, 4, .ro, none⟩ spares).setFld (.JL_RETRY k) F.JL_RETRY_RETRIES 0).setFld (.JL_STATUS k) F.JL_STATUS_STATE n) := fun w n =>
    (((c.setReg_sameBesideLinks w fun _ hq => hq.1.1 k).trans
      (Chip.linkStatus_same _ k _ _)).trans (Chip.setFld_sameBesideLinks _ _ _ fun _ hq => hq.2.1 k)).trans (Chip.linkStatus_same _ k _ _)
  unfold Chip.trainLink
  dsimp only
  split
  · exact ((((hstart ..).trans (Chip.setLinkEnd_sameBesideLinks _ _ _ _)).trans (Chip.setLinkEnd_sameBesideLinks _ _ _ _)).trans
      (Chip.linkStatus_same _ k _ _)).trans (Chip.setFld_sameBesideLinks _ _ _ fun _ hq => (hq.2.2.1 _ (by omega)).1)
  · exact (((hstart ..).trans (Chip.setLinkEnd_sameBesideLinks _ _ _ _)).trans (Chip.setLinkEnd_sameBesideLinks _ _ _ _)).trans
      (Chip.markFailed_same _ _ hk)

theorem Chip.holdOut_same (c : Chip) {d : Nat} (cause : Nat) (hd : d < 12) : c.SameBesideLinks Reg.offTraining (c.holdOut d cause) := by
  have hstate : ∀ (x : Chip) (f : Field) (n : Nat), x.SameBesideLinks Reg.offTraining (x.setFld (.PKG_DIE_STATUS d) f n) := fun x _ _ =>
    x.setFld_sameBesideLinks _ _ fun _ hq => hq.1.2.2 d (by omega)
  exact (((hstate _ _ _).trans (hstate _ _ _)).trans ((Chip.disableDie_same _ d).mono fun _ hq => hq.1)).trans
    (Chip.raiseEvent_sameBesideLinks _ (by omega))

theorem Chip.trainDie_same (c : Chip) {d : Nat} (st : DieStart) (hd : d < 12) : c.SameBesideLinks Reg.offTraining (c.trainDie d st) := by
  have hlinks : c.SameBesideLinks Reg.offTraining ((c.trainLink (2 * d) st.trainA st.wiresA st.sparesA).trainLink (2 * d + 1) st.trainB
      st.wiresB st.sparesB) := (c.trainLink_same _ _ _ (by omega)).trans (Chip.trainLink_same _ _ _ _ (by omega))
  unfold Chip.trainDie
  dsimp only
  split
  · exact hlinks.trans (Chip.holdOut_same _ _ hd)
  · exact hlinks

end Sys2Proof.Machine
end

section
/-! The time base and the rails (R36 to R39, R43, R47 to R51, R56). -/

namespace Sys2Proof.Machine

-- the time base

theorem Chip.raiseEvent_now (c : Chip) (n : Nat) : (c.raiseEvent n).now = c.now := by rw [Chip.raiseEvent_frame]

theorem Chip.reportLevel_now (c : Chip) (u src rid w acc d a : Nat) : (c.reportLevel u src rid w acc d a).now = c.now := by
  rw [Chip.reportLevel_frame]

theorem refclkFailure_does (s : State) (h : s.chip.bit .PKG_TIME_STATUS F.PKG_TIME_STATUS_HOLDOVER = false) :
    ∃ t, exec .refclkFailure s = .next t ∧ t.chip.bit .PKG_TIME_STATUS F.PKG_TIME_STATUS_HOLDOVER = true
      ∧ t.chip.bit .PKG_TIME_STATUS F.PKG_TIME_STATUS_REFCLK_OK = false ∧ t.chip.bit (.FC_SRC 5) F.FC_SRC_CAUSE = true
      ∧ t.chip.now = s.chip.now := by
  refine ⟨_, gives_of_onChip (ok := true) rfl rfl (if_neg (by rw [h]; decide)), ?_⟩
  have hout : ∀ x : Chip, let y := (((x.setBit .PKG_TIME_STATUS F.PKG_TIME_STATUS_REFCLK_OK false).setBit .PKG_TIME_STATUS
        F.PKG_TIME_STATUS_HOLDOVER true).setBit .PKG_TIME_STATUS F.PKG_TIME_STATUS_HOLDOVER_SEEN true).reportLevel unitUz 5 0x5000 1 15
      (y.raiseEvent 17).bit .PKG_TIME_STATUS F.PKG_TIME_STATUS_HOLDOVER = true
        ∧ (y.raiseEvent 17).bit .PKG_TIME_STATUS F.PKG_TIME_STATUS_REFCLK_OK = false
        ∧ (y.raiseEvent 17).bit (.FC_SRC 5) F.FC_SRC_CAUSE = true ∧ (y.raiseEvent 17).now = x.now := fun x => by
    intro y
    have hy : ∀ f, (y.raiseEvent 17).bit .PKG_TIME_STATUS f = (((x.setBit .PKG_TIME_STATUS F.PKG_TIME_STATUS_REFCLK_OK false).setBit
        .PKG_TIME_STATUS F.PKG_TIME_STATUS_HOLDOVER true).setBit .PKG_TIME_STATUS F.PKG_TIME_STATUS_HOLDOVER_SEEN true).bit
        .PKG_TIME_STATUS f := fun f => (Chip.bit_raiseEvent_ne _ _ _ (by decide)).trans
      (Chip.bit_of_reg (Chip.reg_reportLevel_ne _ _ _ _ _ _ _ _ (by decide)) f)
    refine ⟨(hy _).trans ?_, (hy _).trans ?_, (Chip.bit_raiseEvent_ne _ _ _ (by decide)).trans (Chip.reportLevel_cause ..), ?_⟩
    · exact (Chip.bit_setBit_apart _ _ _ (by decide)).trans (Chip.bit_setBit _ _ _ _ (by decide) (by decide))
    · exact (Chip.bit_setBit_apart _ _ _ (by decide)).trans ((Chip.bit_setBit_apart _ _ _ (by decide)).trans
        (Chip.bit_setBit _ _ _ _ (by decide) (by decide)))
    · exact (Chip.raiseEvent_now y 17).trans (Chip.reportLevel_now ..)
  exact hout _

theorem holdoverExit_cases (s : State) (g : Nat) (h : s.chip.bit .PKG_TIME_STATUS F.PKG_TIME_STATUS_HOLDOVER = true)
    (hg : s.chip.refclkGoodAt = some g) :
    (g + 100000 ≤ s.chip.now →
      ∃ t, exec .holdoverExit s = .next t ∧ t.chip.bit .PKG_TIME_STATUS F.PKG_TIME_STATUS_HOLDOVER = false
        ∧ t.chip.bit (.FC_SRC 5) F.FC_SRC_CAUSE = false ∧ t.chip.now = s.chip.now)
    ∧ (s.chip.now < g + 100000 → Gives .holdoverExit s s.chip) := by
  have hdoes : Gives .holdoverExit s s.chip.refclkGood := gives_of_onChip (ok := true) rfl rfl rfl
  rw [Chip.refclkGood, hg] at hdoes
  dsimp only at hdoes
  rw [h, Bool.true_and] at hdoes
  refine ⟨fun hlate => ?_, fun hsoon => by rwa [if_neg (by rw [decide_eq_true_eq]; omega)] at hdoes⟩
  rw [if_pos (decide_eq_true hlate)] at hdoes
  have hout : ∀ x : Chip, let y := ((x.setBit .PKG_TIME_STATUS F.PKG_TIME_STATUS_HOLDOVER false).setCause 5 false).raiseEvent 17
      y.bit .PKG_TIME_STATUS F.PKG_TIME_STATUS_HOLDOVER = false ∧ y.bit (.FC_SRC 5) F.FC_SRC_CAUSE = false ∧ y.now = x.now := fun x => by
    intro y
    refine ⟨(Chip.bit_raiseEvent_ne _ _ _ (by decide)).trans ((Chip.bit_setBit_ne _ _ _ _ (by decide)).trans
      (Chip.bit_setBit _ _ _ _ (by decide) (by decide))), (Chip.bit_raiseEvent_ne _ _ _ (by decide)).trans (Chip.setCause_cause _ _ _), ?_⟩
    exact Chip.raiseEvent_now _ 17
  exact ⟨_, hdoes, hout _⟩

-- a change of a rail

theorem CD_SUPPLY_STATUS_offTraining (d : Nat) : (Reg.CD_SUPPLY_STATUS d).offTraining := by
  refine ⟨⟨fun k => ?_, fun r => ?_, fun k hk => ?_⟩, fun k => ?_, fun n hn => ⟨?_, ?_⟩, ?_⟩ <;> simp only [Reg.offset] <;> omega

/-- Training the waiting links of a die leaves all but links, gallery and the die's start. -/
theorem Chip.trainWaiting_same (c : Chip) {d : Nat} (hd : d < 12) : (c.trainWaiting d).harts = c.harts ∧ (c.trainWaiting d).l2 = c.l2
    ∧ (c.trainWaiting d).now = c.now ∧ (c.trainWaiting d).reg (.CD_SUPPLY_STATUS d) = c.reg (.CD_SUPPLY_STATUS d) := by
  unfold Chip.trainWaiting
  split
  next st _ =>
    split
    · have hsame := Chip.trainDie_same (c.onDie d (fun x => { x with startWait := none })) st hd
      exact ⟨(congrArg Chip.harts hsame.rest : _), (congrArg Chip.l2 hsame.rest : _), (congrArg Chip.now hsame.rest : _),
        hsame.reg _ (CD_SUPPLY_STATUS_offTraining d)⟩
    · exact ⟨rfl, rfl, rfl, rfl⟩
  next => exact ⟨rfl, rfl, rfl, rfl⟩

/-- What the supervisor notes of the level of die d's rail. -/
def Chip.noteMv (c : Chip) (d mv : Nat) : Chip :=
  ((((({ c with rail := sset 0 d mv c.rail } : Chip).onDie d (fun x =>
    { x with mv := mv, floorLost := x.floorLost || mv < 420
             belowSince := if mv < 500 then some (x.belowSince.getD c.now) else none })).setFld (.CD_SUPPLY_STATUS d)
    F.CD_SUPPLY_STATUS_V_NOW_MV (min mv 1023)).setBit (.CD_SUPPLY_STATUS d) F.CD_SUPPLY_STATUS_BELOW_FUNC (mv < 500)).noteMin d mv)

theorem Chip.setDieMv_eq (c : Chip) (d mv : Nat) : c.setDieMv d mv = (c.noteMv d mv).trainWaiting d := rfl

theorem Chip.noteMv_status (c : Chip) (d mv : Nat) :
    (c.noteMv d mv).fld (.CD_SUPPLY_STATUS d) F.CD_SUPPLY_STATUS_V_NOW_MV = min mv 1023
    ∧ (c.noteMv d mv).bit (.CD_SUPPLY_STATUS d) F.CD_SUPPLY_STATUS_BELOW_FUNC = decide (mv < 500) := by
  refine ⟨?_, (Chip.bit_setFld_apart _ _ _ (by decide)).trans (Chip.bit_setBit _ _ _ _ (by decide) (by decide))⟩
  refine (Chip.fld_setFld_apart _ _ _ (by decide)).trans ((Chip.fld_setBit_apart _ _ _ (by decide)).trans
    ((Chip.fld_setFld _ _ _ _ (by decide) (by decide)).trans (Nat.mod_eq_of_lt ?_)))
  rw [show 2 ^ F.CD_SUPPLY_STATUS_V_NOW_MV.width = 1024 from rfl]
  omega

theorem Chip.noteMv_same (c : Chip) (d mv : Nat) : (c.noteMv d mv).harts = c.harts ∧ (c.noteMv d mv).l2 = c.l2
    ∧ (c.noteMv d mv).now = c.now := ⟨rfl, rfl, rfl⟩

theorem Chip.setRail_rail (c : Chip) (rail mv : Nat) : sget 0 rail (c.setRail rail mv).rail = mv := by
  unfold Chip.setRail
  dsimp only
  split <;> exact sget_sset_self _ _ _ _

theorem supplyChange_cases (s : State) (rail mv tj : Nat) (hmv : mv < 2048) (htj : tj < 256) :
    (rail < 12 → ∃ t, exec (.supplyChange rail mv tj) s = .next t
      ∧ t.chip.fld (.CD_SUPPLY_STATUS rail) F.CD_SUPPLY_STATUS_V_NOW_MV = min mv 1023
      ∧ (t.chip.bit (.CD_SUPPLY_STATUS rail) F.CD_SUPPLY_STATUS_BELOW_FUNC = true ↔ mv < 500)
      ∧ t.chip.harts = s.chip.harts ∧ t.chip.l2 = s.chip.l2 ∧ t.dram = s.dram ∧ t.chip.now = s.chip.now)
    ∧ (12 ≤ rail → rail < 16 → ∃ t, exec (.supplyChange rail mv tj) s = .next t ∧ sget 0 rail t.chip.rail = mv
      ∧ (mv = 0 → ∀ a, a < 0x40000000000 → t.readByte a = 0) ∧ (mv ≠ 0 → t.dram = s.dram)) := by
  have hok : rail < 16 → (decide (rail < 16) && decide (mv < 1024 * 2) && decide (tj < 256)) = true := fun h => by
    rw [decide_eq_true h, decide_eq_true (by omega), decide_eq_true htj]; rfl
  have hdoes : rail < 16 → GivesPkg (.supplyChange rail mv tj) s (s.toPkg.supplyChange rail mv tj) := fun h =>
    givesPkg_of_onPkg rfl (hok h) rfl
  refine ⟨fun hr => ?_, fun hlo hhi => ?_⟩
  · refine ⟨_, (hdoes (by omega)).congr (if_neg (by omega)), ?_⟩
    obtain ⟨hnow, hbelow⟩ := s.chip.noteMv_status rail mv
    obtain ⟨hharts, hl2, htime⟩ := s.chip.noteMv_same rail mv
    obtain ⟨hharts', hl2', htime', hreg⟩ := (s.chip.noteMv rail mv).trainWaiting_same hr
    dsimp only [Pkg.onChip]
    rw [Chip.supplyChange, if_pos hr, Chip.setDieMv_eq]
    refine ⟨(Chip.fld_of_reg hreg _).trans hnow, ?_, hharts'.trans hharts, hl2'.trans hl2, rfl, htime'.trans htime⟩
    have hbit : (((s.chip.noteMv rail mv).trainWaiting rail).onDie rail (fun x => { x with tj := tj })).bit (.CD_SUPPLY_STATUS rail)
        F.CD_SUPPLY_STATUS_BELOW_FUNC = decide (mv < 500) := (Chip.bit_of_reg hreg _).trans hbelow
    rw [hbit, decide_eq_true_eq]
  · have hrail : sget 0 rail (s.chip.supplyChange rail mv tj).rail = mv := by
      rw [Chip.supplyChange, if_neg (by omega), Chip.setRail_rail]
    by_cases h0 : mv = 0
    · exact ⟨_, (hdoes hhi).congr (if_pos ⟨hlo, h0⟩), hrail, fun _ a ha => Pkg.dropDram_byte _ ha, fun h => absurd h0 h⟩
    · exact ⟨_, (hdoes hhi).congr (if_neg fun h => h0 h.2), hrail, fun h => absurd h h0, fun _ => rfl⟩

-- droops

theorem droopEvent_cases (s : State) (d mv : Nat) (hd : d < 12) (hmv : mv < 1024) :
    (mv < s.chip.fld (.CD_SUPPLY_CFG d) F.CD_SUPPLY_CFG_DROOP_MARK_MV →
      let n := sget 0 d s.chip.uz.dieDroops
      Gives (.droopEvent d mv) s ((((({ s.chip with uz := { s.chip.uz with
        dieDroops := sset 0 d ((n + 1) % 2 ^ 32) s.chip.uz.dieDroops } } : Chip).onDie d (fun x => { x with
          floorLost := x.floorLost || mv < 420 })).noteMin d mv).bump (.CD_SUPPLY_STATUS d) F.CD_SUPPLY_STATUS_DROOP_COUNT)))
    ∧ (s.chip.fld (.CD_SUPPLY_CFG d) F.CD_SUPPLY_CFG_DROOP_MARK_MV ≤ mv → Gives (.droopEvent d mv) s s.chip)
    ∧ (500 ≤ mv → s.chip.dieState d ≠ 0 → s.chip.dieState d ≠ 5 → Gives (.railRecovery d mv) s (s.chip.setDieMv d mv)) := by
  have hok : (decide (d < 13) && decide (mv < 1024)) = true := by
    rw [decide_eq_true (by omega), decide_eq_true hmv]; rfl
  have hdoes : Gives (.droopEvent d mv) s (s.chip.droop d mv) := gives_of_onChip rfl hok (if_neg (by omega))
  refine ⟨fun h => hdoes.congr (if_pos h), fun h => hdoes.congr (if_neg (by omega)), fun h h0 h5 => ?_⟩
  have hok' : (dieOk d && decide (500 ≤ mv) && decide (mv < 1024)) = true := by
    rw [dieOk, decide_eq_true hd, decide_eq_true h, decide_eq_true hmv]; rfl
  exact gives_of_onChip rfl hok' (if_neg (not_or.2 ⟨h0, h5⟩))

theorem iodDroop_cases (s : State) (mv : Nat) (hmv : mv < 1024) :
    (mv < iodDroopMark → Gives (.droopEvent 12 mv) s { s.chip with
      iodDroops := s.chip.iodDroops + 1, viodFloor := s.chip.viodFloor || mv < 420 })
    ∧ (iodDroopMark ≤ mv → Gives (.droopEvent 12 mv) s s.chip) := by
  have hok : (decide (12 < 13) && decide (mv < 1024)) = true := by rw [decide_eq_true hmv]; rfl
  have hdoes : Gives (.droopEvent 12 mv) s (s.chip.iodDroop mv) := gives_of_onChip rfl hok (if_pos rfl)
  exact ⟨fun h => hdoes.congr (if_pos h), fun h => hdoes.congr (if_neg (by omega))⟩

-- brown-out and retention

theorem brownout_cases (s : State) (d since : Nat) (hd : d < 12) (hsince : (s.chip.die d).belowSince = some since)
    (h0 : s.chip.dieState d ≠ 0) (h5 : s.chip.dieState d ≠ 5) :
    (since + 1000 < s.chip.now → Gives (.brownout d) s
      (((s.chip.setBit (.CD_SUPPLY_STATUS d) F.CD_SUPPLY_STATUS_BROWNOUT true).setBit (.FC_SRC (64 + 12 * d + 2)) F.FC_SRC_CAUSE
        true).report (unitSup 0) (64 + 12 * d + 2) (0x1000 + 16 * d + 2) 1 15))
    ∧ (s.chip.now ≤ since + 1000 → Gives (.brownout d) s s.chip) := by
  have hdoes : Gives (.brownout d) s (s.chip.brownout d) := gives_of_onChip rfl (decide_eq_true hd) rfl
  have hbrown : (s.chip.browned d && s.chip.dieState d != 0 && s.chip.dieState d != 5) = decide (since + 1000 < s.chip.now) := by
    rw [Chip.browned, hsince, bne_iff_ne.2 h0, bne_iff_ne.2 h5, Bool.and_true, Bool.and_true]
  rw [Chip.brownout, hbrown] at hdoes
  exact ⟨fun h => hdoes.congr (if_pos (decide_eq_true h)), fun h => hdoes.congr (if_neg (by rw [decide_eq_true_eq]; omega))⟩

/-- A die that is lost is forgotten: its packets, its copies of lines and its harts. -/
def Chip.forgetDie (c : Chip) (d : Nat) : Chip :=
  ((({ c with net := c.net.filter (fun m => !toDie d m) } : Chip).dieClear d).onDie d (fun x => { x with purging := true, told := [] }))

theorem Chip.forgetDie_regs (c : Chip) (d : Nat) : (c.forgetDie d).regs = c.regs := (rfl)

theorem Chip.loseDie_eq (c : Chip) {d : Nat} (cause : Nat) (h : c.dieState d ≠ 0) (h5 : c.dieState d < 5) : c.loseDie d cause =
    ((((c.setDieState d 5 (if c.dieState d = 3 ∧ cause = 2 then 5 else cause)).disableDie d).forgetDie d).railOff d).report unitUz
      (64 + 12 * d + 11) (0x1000 + 16 * d + 2) 1 15 := if_neg (not_or.2 ⟨h, by omega⟩)

theorem Chip.setDieState_state (c : Chip) (d : Nat) {st : Nat} (cause : Nat) (h : st < 8) : (c.setDieState d st cause).dieState d = st :=
  (Chip.fld_setFld_apart _ _ _ (by decide)).trans (Chip.fld_setFld_of_lt _ _ _ (by decide) (by decide) h)

theorem Chip.setDieState_reg_ne (c : Chip) (d st cause : Nat) {q : Reg} (h : q.offset ≠ (Reg.PKG_DIE_STATUS d).offset) :
    (c.setDieState d st cause).reg q = c.reg q := (Chip.reg_setFld_ne _ _ _ h).trans (Chip.reg_setFld_ne _ _ _ h)

theorem Chip.railOff_reg_ne (c : Chip) (d : Nat) {q : Reg} (h : q.offset ≠ (Reg.CD_SUPPLY_STATUS d).offset) :
    (c.railOff d).reg q = c.reg q :=
  (Chip.reg_setBit_ne _ _ _ h).trans ((Chip.reg_setFld_ne _ _ _ h).trans (Chip.reg_of_regs rfl q))

theorem Chip.railOff_retention (c : Chip) (d : Nat) : (c.railOff d).bit (.CD_SUPPLY_STATUS d) F.CD_SUPPLY_STATUS_RETENTION_LOST
    = c.bit (.CD_SUPPLY_STATUS d) F.CD_SUPPLY_STATUS_RETENTION_LOST :=
  (Chip.bit_setBit_apart _ _ _ (by decide)).trans ((Chip.bit_setFld_apart _ _ _ (by decide)).trans
    (Chip.bit_of_reg (Chip.reg_of_regs rfl _) _))

theorem FC_SRC_offDies {n : Nat} (hn : n < 4096) : (Reg.FC_SRC n).offDies := by
  refine ⟨fun k => ?_, fun r => ?_, fun k hk => ?_⟩ <;> simp only [Reg.offset] <;> omega

/-- A die that is lost leaves the state of its supply but for the level, and the conditions of the faults. -/
theorem Chip.loseDie_lost (c : Chip) {d : Nat} (cause : Nat) (hd : d < 12) (h : c.dieState d ≠ 0) (h5 : c.dieState d < 5) :
    (c.loseDie d cause).dieState d = 5
    ∧ (c.loseDie d cause).bit (.CD_SUPPLY_STATUS d) F.CD_SUPPLY_STATUS_RETENTION_LOST
      = c.bit (.CD_SUPPLY_STATUS d) F.CD_SUPPLY_STATUS_RETENTION_LOST
    ∧ ∀ n, n < 4096 → (c.loseDie d cause).reg (.FC_SRC n) = c.reg (.FC_SRC n) := by
  rw [c.loseDie_eq cause h h5]
  generalize (if c.dieState d = 3 ∧ cause = 2 then 5 else cause) = why
  have hreg : ∀ q : Reg, q.offDies → (((c.setDieState d 5 why).disableDie d).forgetDie d).reg q = c.reg q := fun q hq =>
    (Chip.reg_of_regs (Chip.forgetDie_regs _ d) q).trans (((Chip.disableDie_same _ d).reg q hq).trans
      (Chip.setDieState_reg_ne _ _ _ _ (hq.2.2 d (by omega))))
  refine ⟨?_, ?_, fun n hn => ?_⟩
  · rw [Chip.dieState, Chip.report_fld, Chip.fld_of_reg (Chip.railOff_reg_ne _ _ (by simp only [Reg.offset]; omega)), ← Chip.dieState,
      Chip.dieState_of_regs (Chip.forgetDie_regs _ d), Chip.disableDie_dieState _ _ (by omega), Chip.setDieState_state _ _ _ (by decide)]
  · rw [Chip.report_bit, Chip.railOff_retention]
    exact Chip.bit_of_reg (hreg _ (CD_SUPPLY_STATUS_offTraining d).1) _
  · rw [Chip.report_reg, Chip.railOff_reg_ne _ _ (by simp only [Reg.offset]; omega)]
    exact hreg _ (FC_SRC_offDies hn)

theorem Chip.dieUp_cases {c : Chip} {d : Nat} (h : c.dieUp d = true) : c.dieState d = 2 ∨ c.dieState d = 3 := by
  rwa [Chip.dieUp, Bool.or_eq_true, beq_iff_eq, beq_iff_eq] at h

theorem retentionLost_cases (s : State) (d : Nat) (hd : d < 12) (hup : s.chip.dieUp d = true) :
    ((s.chip.die d).mv < 420 ∨ (s.chip.die d).floorLost = true → ∃ t, exec (.retentionLost d) s = .next t ∧ t.chip.dieState d = 5
      ∧ t.chip.bit (.CD_SUPPLY_STATUS d) F.CD_SUPPLY_STATUS_RETENTION_LOST = true
      ∧ t.chip.bit (.FC_SRC (64 + 12 * d + 2)) F.FC_SRC_CAUSE = true)
    ∧ (420 ≤ (s.chip.die d).mv → (s.chip.die d).floorLost = false → Gives (.retentionLost d) s s.chip) := by
  have hdoes : Gives (.retentionLost d) s (s.chip.retentionLost d) := gives_of_onChip rfl (decide_eq_true hd) rfl
  have hstate := Chip.dieUp_cases hup
  have hfloor : s.chip.belowFloor d = (decide ((s.chip.die d).mv < 420) || (s.chip.die d).floorLost) := by
    rw [Chip.belowFloor, bne_iff_ne.2 (by omega : s.chip.dieState d ≠ 0), bne_iff_ne.2 (by omega : s.chip.dieState d ≠ 5),
      Bool.and_true, Bool.and_true]
  rw [Chip.retentionLost, hfloor] at hdoes
  refine ⟨fun h => ?_, fun hmv hlost => hdoes.congr (if_neg ?_)⟩
  · refine ⟨_, hdoes.congr (if_pos ((Bool.or_eq_true _ _).mpr (h.imp_left decide_eq_true))), ?_⟩
    let x := (s.chip.setBit (.CD_SUPPLY_STATUS d) F.CD_SUPPLY_STATUS_RETENTION_LOST true).brownoutFault d
    have hx : x.dieState d = s.chip.dieState d := (Chip.fld_of_reg (Chip.reg_reportLevel_ne _ _ _ _ _ _ _ _ (by
      simp only [Reg.offset]; omega)) _).trans (Chip.fld_setBit_ne _ _ _ _ (by simp only [Reg.offset]; omega))
    obtain ⟨h5, hret, hcause⟩ := x.loseDie_lost 3 hd (by omega) (by omega)
    refine ⟨h5, hret.trans ?_, (Chip.bit_of_reg (hcause _ (by omega)) _).trans (Chip.reportLevel_cause ..)⟩
    exact (Chip.bit_of_reg (Chip.reg_reportLevel_ne _ _ _ _ _ _ _ _ (by simp only [Reg.offset]; omega)) _).trans
      (Chip.bit_setBit _ _ _ _ (by decide) (by decide))
  · rw [hlost, Bool.or_false, decide_eq_true_eq]
    omega

-- the rails of the I/O die

theorem iodBrownout_cases (s : State) : let f := (s.chip.setBit (.FC_SRC 1) F.FC_SRC_CAUSE true).report (unitSup 0) 1 (0x7000 + 67) 1 15
    (sget 0 12 s.chip.railBadAt ≠ 0 → sget 0 12 s.chip.railBadAt + 1000 ≤ s.chip.now → Gives (.iodBrownout false) s f)
    ∧ (sget 0 12 s.chip.rail < 420 ∨ s.chip.viodFloor = true →
      Gives (.iodBrownout true) s { f with uz := { s.chip.uz with resetPending := true } }) := by
  intro f
  refine ⟨fun h h' => gives_of_onChip (ok := true) rfl rfl (if_pos ⟨h, h'⟩), fun h => ?_⟩
  exact gives_of_onChip (ok := true) rfl rfl (if_pos ((Bool.or_eq_true _ _).mpr (h.imp_left decide_eq_true)))

theorem phyRailFault_does (s : State) (rail : Nat) (hlo : 13 ≤ rail) (hhi : rail < 16) (hbad : sget 0 rail s.chip.railBadAt ≠ 0)
    (hlate : sget 0 rail s.chip.railBadAt + 200 ≤ s.chip.now) :
    Gives (.phyRailFault rail) s ((s.chip.setBit (.FC_SRC (rail - 11)) F.FC_SRC_CAUSE true).report (unitSup (rail - 12)) (rail - 11)
      (0x7000 + 68 + (rail - 13)) 1 15) :=
  gives_of_onChip rfl (by rw [decide_eq_true hlo, decide_eq_true hhi]; rfl) (if_pos ⟨hbad, hlate⟩)

-- a supply's status and telemetry

theorem vMinReset_does (s : State) (who : Who) (d : Nat) (hd : d < 12) : ∃ t, exec (.vMinReset who d) s = .next t
    ∧ t.chip.fld (.CD_SUPPLY_STATUS d) F.CD_SUPPLY_STATUS_V_MIN_MV = 1023 := by
  refine ⟨_, gives_of_onChip rfl (decide_eq_true hd) rfl, ?_⟩
  have hmin : ∀ x : Chip, (x.setFld (.CD_SUPPLY_STATUS d) F.CD_SUPPLY_STATUS_V_MIN_MV 1023).fld (.CD_SUPPLY_STATUS d)
      F.CD_SUPPLY_STATUS_V_MIN_MV = 1023 := fun x => Chip.fld_setFld_of_lt _ _ _ (by decide) (by decide) (by decide)
  have hend : ∀ x : Chip, x.fld (.CD_SUPPLY_STATUS d) F.CD_SUPPLY_STATUS_V_MIN_MV = 1023 → ∀ b : Bool,
      (if b then x else x.setCause (64 + 12 * d + 2) false).fld (.CD_SUPPLY_STATUS d) F.CD_SUPPLY_STATUS_V_MIN_MV = 1023 := fun x hx b => by
    split
    · exact hx
    · exact (Chip.fld_of_reg (Chip.reg_setCause_ne _ _ _ (by simp only [Reg.offset]; omega)) _).trans hx
  unfold Chip.supplyStatusWrite
  dsimp only
  rw [if_pos (show F.CD_SUPPLY_STATUS_V_MIN_RESET.get (F.CD_SUPPLY_STATUS_V_MIN_RESET.put 0 1) = 1 by decide)]
  exact hend _ (hmin _) _

theorem pmbusTelemetryRead_cases (s : State) (rail : Nat) (hr : rail < 16) :
    (sget 0 rail s.chip.pmbusMiss = 2 → Gives (.pmbusTelemetryRead rail false) s
      (((({ s.chip with pmbusMiss := sset 0 rail 3 s.chip.pmbusMiss } : Chip).pmbusSend rail [.readVin, .readVout, .readIout,
        .readTemperature1, .statusWord]).setBit (.FC_SRC 6) F.FC_SRC_CAUSE true).report unitUz 6 0x5000 1 15))
    ∧ (∃ t, exec (.pmbusTelemetryRead rail true) s = .next t ∧ sget 0 rail t.chip.pmbusMiss = 0) := by
  have hdoes : ∀ b, Gives (.pmbusTelemetryRead rail b) s (s.chip.telemetry rail b) := fun b =>
    gives_of_onChip rfl (decide_eq_true hr) rfl
  have hanswered : (s.chip.telemetry rail true).pmbusMiss = sset 0 rail 0 s.chip.pmbusMiss := (rfl)
  refine ⟨fun h => ?_, ⟨_, hdoes true, (congrArg (sget 0 rail) hanswered).trans (sget_sset_self _ _ _ _)⟩⟩
  have hmiss := hdoes false
  unfold Chip.telemetry at hmiss
  dsimp only at hmiss
  rwa [show (if (false : Bool) = true then 0 else sget 0 rail s.chip.pmbusMiss + 1) = 3 by rw [h]; rfl, if_pos rfl] at hmiss

/-- Settles O40: each command by the function that performs it; a change of a die's rail by what training its waiting links leaves. -/
theorem supplyRails : Obligations.SupplyRails := by
  unfold Obligations.SupplyRails
  exact ⟨refclkFailure_does, holdoverExit_cases, supplyChange_cases, droopEvent_cases, iodDroop_cases, brownout_cases, retentionLost_cases,
    iodBrownout_cases, phyRailFault_does, vMinReset_does, pmbusTelemetryRead_cases⟩

end Sys2Proof.Machine
end

section
/-! Bandwidth regulation (R259 to R270). -/

namespace Sys2Proof.Machine

-- tables and loops

/-- A table that a loop fills holds at a key what the loop gave that key. -/
theorem sget_foldl_sset {α V : Type} [DecidableEq V] (d : V) (key : α → Nat) (f : α → V) (v : V) {k : Nat} (l : List α)
    (hv : ∀ b ∈ l, key b = k → f b = v) (m : Sparse V) (h : sget d k m = v ∨ ∃ a ∈ l, key a = k) :
    sget d k (l.foldl (fun m b => sset d (key b) (f b) m) m) = v := by
  induction l generalizing m with
  | nil => exact h.elim id fun ⟨a, ha, _⟩ => absurd ha List.not_mem_nil
  | cons b l ih =>
    rw [List.foldl_cons]
    refine ih (fun b hb => hv b (List.mem_cons_of_mem _ hb)) _ ?_
    by_cases hb : key b = k
    · exact Or.inl (by rw [hb, sget_sset_self, hv b List.mem_cons_self hb])
    · rcases h with h | ⟨a, ha, hk⟩
      · exact Or.inl (by rw [sget_sset_ne _ _ (Ne.symm hb), h])
      · rcases List.mem_cons.1 ha with rfl | ha
        · exact absurd hk hb
        · exact Or.inr ⟨a, ha, hk⟩

theorem sget_foldl_range {V : Type} [DecidableEq V] (d : V) (f : Nat → V) {k n : Nat} (hk : k < n) :
    sget d k ((List.range n).foldl (fun m b => sset d b (f b) m) []) = f k :=
  sget_foldl_sset d id f (f k) _ (fun _ _ hb => congrArg f hb) [] (Or.inr ⟨k, List.mem_range.2 hk, rfl⟩)

theorem mem_pairs {n m i j : Nat} (hi : i < n) (hj : j < m) : (i, j) ∈ pairs n m :=
  List.mem_flatMap.2 ⟨i, List.mem_range.2 hi, List.mem_map.2 ⟨j, List.mem_range.2 hj, rfl⟩⟩

theorem pairs_lt {n m : Nat} {p : Nat × Nat} (h : p ∈ pairs n m) : p.1 < n ∧ p.2 < m := by
  obtain ⟨i, hi, h⟩ := List.mem_flatMap.1 h
  obtain ⟨j, hj, rfl⟩ := List.mem_map.1 h
  exact ⟨List.mem_range.1 hi, List.mem_range.1 hj⟩

theorem Chip.divide_rate (c : Chip) {port k : Nat} (hp : port < 26) (hk : k < 15) :
    sget 0 (port * 16 + k) c.divide.portRate = c.shareOf port k := by
  unfold Chip.divide
  generalize hl : pairs 26 15 = l
  have hmem : (port, k) ∈ l := hl ▸ mem_pairs hp hk
  refine sget_foldl_sset 0 (fun pk : Nat × Nat => pk.1 * 16 + pk.2) (fun pk => c.shareOf pk.1 pk.2) _ l (fun b hb hkey => ?_) []
    (Or.inr ⟨(port, k), hmem, rfl⟩)
  subst hl
  obtain ⟨h1, h2⟩ := pairs_lt hb
  rw [show b.1 = port by omega, show b.2 = k by omega]

-- the windows end, the scale follows

/-- The committed set of the regulator. -/
def Chip.qosSet (c : Chip) : Sparse Nat × Sparse Word × Nat := (c.qosMap, c.qosCls, c.qosCap)

theorem Chip.endWindow_qos (c : Chip) (n : Nat) : (c.endWindow n).qosSet = c.qosSet := (rfl)

theorem Chip.noteWarm_qos (c : Chip) : c.noteWarm.qosSet = c.qosSet := (rfl)

theorem Chip.endWindows_qos (c : Chip) : c.endWindows.qosSet = c.qosSet :=
  (Chip.noteWarm_qos _).trans (forUpTo_same Chip.qosSet (fun n x => x.endWindow_qos n) 16 c)

theorem Chip.qosSet_parts {c d : Chip} (h : d.qosSet = c.qosSet) : d.qosMap = c.qosMap ∧ d.qosCls = c.qosCls ∧ d.qosCap = c.qosCap := by
  rw [Chip.qosSet, Chip.qosSet] at h
  obtain ⟨hmap, h⟩ := Prod.mk.inj h
  exact ⟨hmap, Prod.mk.inj h⟩

theorem Chip.endWindow_reg (c : Chip) (n : Nat) {q : Reg} (h : q.offset ≠ (Reg.HALL_FLIGHT_STATUS n).offset) :
    (c.endWindow n).reg q = c.reg q := Chip.reg_setBit_ne _ _ _ h

/-- The end of all windows leaves of QOS_STATUS all but WARMUP. -/
theorem Chip.endWindows_status (c : Chip) {f : Field} (h : F.QOS_STATUS_WARMUP.apart f = true) :
    c.endWindows.fld .QOS_STATUS f = c.fld .QOS_STATUS f := by
  refine (Chip.fld_setBit_apart _ _ _ h).trans (Chip.fld_of_reg ?_ _)
  exact forUpTo_same (fun x : Chip => x.reg .QOS_STATUS) (fun n x => x.endWindow_reg n (by simp only [Reg.offset]; omega)) 16 c

/-- The scale as it is after the recomputation, before SHORTFALL follows. -/
def Chip.scaled (c : Chip) : Chip :=
  let c1 := c.setFld .QOS_STATUS F.QOS_STATUS_SCALE c.factor.2
  if c.factor.2 = c.scale then c1 else c1.endWindows

theorem Chip.rescale_eq (c : Chip) : c.rescale = if c.factor.1 = c.bit .QOS_STATUS F.QOS_STATUS_SHORTFALL then c.scaled
    else (c.scaled.setBit .QOS_STATUS F.QOS_STATUS_SHORTFALL c.factor.1).raiseEvent 80 := rfl

theorem Chip.scaled_status (c : Chip) {f : Field} (h : F.QOS_STATUS_WARMUP.apart f = true) :
    c.scaled.fld .QOS_STATUS f = (c.setFld .QOS_STATUS F.QOS_STATUS_SCALE c.factor.2).fld .QOS_STATUS f := by
  unfold Chip.scaled
  dsimp only
  split
  · rfl
  · exact Chip.endWindows_status _ h

theorem Chip.rescale_status (c : Chip) {f : Field} (h : F.QOS_STATUS_SHORTFALL.apart f = true) :
    c.rescale.fld .QOS_STATUS f = c.scaled.fld .QOS_STATUS f := by
  rw [Chip.rescale_eq]
  split
  · rfl
  · rw [Chip.fld_raiseEvent_ne _ _ _ (by decide), Chip.fld_setBit_apart _ _ _ h]

theorem Chip.rescale_shortfall (c : Chip) : c.rescale.bit .QOS_STATUS F.QOS_STATUS_SHORTFALL = c.factor.1 := by
  rw [Chip.rescale_eq]
  split
  next h =>
    rw [h]
    exact Chip.bit_of_fld ((c.scaled_status (by decide)).trans (Chip.fld_setFld_apart _ _ _ (by decide)))
  next => rw [Chip.bit_raiseEvent_ne _ _ _ (by decide), Chip.bit_setBit _ _ _ _ (by decide) (by decide)]

theorem Chip.raiseEvent_qos (c : Chip) (n : Nat) : (c.raiseEvent n).qosSet = c.qosSet := by rw [Chip.raiseEvent_frame]; rfl

theorem Chip.rescale_qos (c : Chip) : c.rescale.qosSet = c.qosSet := by
  have hscaled : c.scaled.qosSet = c.qosSet := by
    unfold Chip.scaled
    dsimp only
    split
    · rfl
    · exact Chip.endWindows_qos _
  rw [Chip.rescale_eq]
  split
  · exact hscaled
  · rw [Chip.raiseEvent_qos]
    exact hscaled

/-- The factor of a recomputation is at most 1. -/
theorem Chip.factor_le (c : Chip) : c.factor.2 ≤ 1024 := by
  have hone : ∀ (d g : Nat) (acc : Bool × Nat), acc.2 ≤ 1024 →
      (if g = 0 then acc else (acc.1 || decide (d < g), min acc.2 (1024 * d / g)) : Bool × Nat).2 ≤ 1024 := fun d g acc h => by
    split
    · exact h
    · exact (min_le_left _ _).trans h
  have hfold : ∀ (f : Bool × Nat → Nat → Bool × Nat), (∀ acc n, acc.2 ≤ 1024 → (f acc n).2 ≤ 1024) → ∀ (l : List Nat) acc, acc.2 ≤ 1024 →
      (l.foldl f acc).2 ≤ 1024 := fun f hf l => by
    induction l with
    | nil => exact fun _ h => h
    | cons n l ih => exact fun acc h => ih _ (hf acc n h)
  unfold Chip.factor
  dsimp only
  refine hfold _ (fun acc n h => ?_) _ _ (hone _ _ _ le_rfl)
  split
  · exact hone _ _ _ h
  · exact h

theorem scaleRecompute_does (s : State) : ∃ t, exec .scaleRecompute s = .next t ∧ t.chip.scale = s.chip.factor.2
    ∧ t.chip.bit .QOS_STATUS F.QOS_STATUS_SHORTFALL = s.chip.factor.1 := by
  refine ⟨_, gives_of_onChip (ok := true) rfl rfl rfl, ?_, s.chip.rescale_shortfall⟩
  have hle := s.chip.factor_le
  refine (Chip.rescale_status _ (by decide)).trans ((Chip.scaled_status _ (by decide)).trans ?_)
  exact Chip.fld_setFld_of_lt _ _ _ (by decide) (by decide) (by rw [show 2 ^ F.QOS_STATUS_SCALE.width = 2048 from rfl]; omega)

-- a commit

/-- The staged set, taken. -/
def Chip.staged (c : Chip) : Chip := { c with
  qosMap := (List.range 64).foldl (fun m l => sset 0 l (c.fld (.QOS_LABEL_MAP l) F.QOS_LABEL_MAP_CLASS) m) []
  qosCls := (List.range 15).foldl (fun m k => sset 0x40FFFF0000 k (c.stagedCls k) m) []
  qosCap := c.stagedCap }

theorem Chip.takeStaged_eq (c : Chip) : c.takeStaged = c.staged.rescale.divide.endWindows := rfl

theorem Chip.staged_regs (c : Chip) : c.staged.regs = c.regs := (rfl)

theorem Chip.divide_qos (c : Chip) : c.divide.qosSet = c.qosSet := (rfl)

theorem Chip.divide_regs (c : Chip) : c.divide.regs = c.regs := (rfl)

theorem Chip.takeStaged_qos (c : Chip) : c.takeStaged.qosSet = c.staged.qosSet := by
  rw [Chip.takeStaged_eq, Chip.endWindows_qos, Chip.divide_qos, Chip.rescale_qos]

theorem Chip.takeStaged_busy (c : Chip) : c.takeStaged.bit .QOS_STATUS F.QOS_STATUS_BUSY = c.bit .QOS_STATUS F.QOS_STATUS_BUSY := by
  refine Chip.bit_of_fld ?_
  rw [Chip.takeStaged_eq, Chip.endWindows_status _ (by decide), Chip.fld_of_reg (Chip.reg_of_regs (Chip.divide_regs _) _),
    Chip.rescale_status _ (by decide), Chip.scaled_status _ (by decide), Chip.fld_setFld_apart _ _ _ (by decide),
    Chip.fld_of_reg (Chip.reg_of_regs (Chip.staged_regs _) _)]

theorem Chip.staged_qos (c : Chip) : (∀ l, l < 64 → sget 0 l c.staged.qosMap = c.fld (.QOS_LABEL_MAP l) F.QOS_LABEL_MAP_CLASS)
    ∧ (∀ k, k < 15 → c.staged.clsWord k = c.reg (.QOS_CLASS k)) ∧ c.staged.qosCap = c.fld .QOS_CAPACITY F.QOS_CAPACITY_CAPACITY := by
  refine ⟨fun l hl => sget_foldl_range 0 _ hl, fun k hk => ?_, rfl⟩
  have hword : c.staged.clsWord k = c.stagedCls k := sget_foldl_range 0x40FFFF0000 _ hk
  rw [hword, Chip.stagedCls, if_neg (by omega)]

theorem qosCommit_cases (s : State) (who : Who) (v : Word) (hv : F.QOS_CTL_COMMIT.get v = 1) (hmon : F.QOS_CTL_MON_EN.get v = 0)
    (hw : who.sealed = true) : let c := s.chip.storeFields .QOS_CTL v
    (s.chip.bit .QOS_STATUS F.QOS_STATUS_BUSY = true → Gives (.qosCommit who v) s (c.setFld .QOS_STATUS F.QOS_STATUS_RESULT 4))
    ∧ (s.chip.bit .QOS_STATUS F.QOS_STATUS_BUSY = false → c.commitResult ≠ 1 →
      Gives (.qosCommit who v) s (c.setFld .QOS_STATUS F.QOS_STATUS_RESULT c.commitResult))
    ∧ (s.chip.bit .QOS_STATUS F.QOS_STATUS_BUSY = false → c.commitResult = 1 →
      ∃ t, exec (.qosCommit who v) s = .next t ∧ t.chip.bit .QOS_STATUS F.QOS_STATUS_BUSY = true
        ∧ (∀ l, l < 64 → sget 0 l t.chip.qosMap = s.chip.fld (.QOS_LABEL_MAP l) F.QOS_LABEL_MAP_CLASS)
        ∧ (∀ k, k < 15 → t.chip.clsWord k = s.chip.reg (.QOS_CLASS k))
        ∧ t.chip.qosCap = s.chip.fld .QOS_CAPACITY F.QOS_CAPACITY_CAPACITY) := by
  intro c
  have hdoes : Gives (.qosCommit who v) s c.qosCommit := gives_of_onChip rfl (beq_iff_eq.2 hv) ((if_pos hw).trans ((if_pos hv).trans
    (congrArg Chip.qosCommit (if_neg (by rw [hmon]; simp)))))
  have hbusy : c.bit .QOS_STATUS F.QOS_STATUS_BUSY = s.chip.bit .QOS_STATUS F.QOS_STATUS_BUSY :=
    Chip.bit_storeFields_ne _ _ _ (by decide)
  refine ⟨fun h => hdoes.congr (if_pos (hbusy.trans h)), fun h h1 => hdoes.congr ((if_neg (by rw [hbusy, h]; decide)).trans (if_pos h1)),
    fun h h1 => ⟨_, hdoes.congr ((if_neg (by rw [hbusy, h]; decide)).trans (if_neg (not_not.2 h1))), ?_⟩⟩
  let x := c.setBit .QOS_STATUS F.QOS_STATUS_BUSY true
  have hreg : ∀ q : Reg, q.offset ≠ Reg.QOS_STATUS.offset → q.offset ≠ Reg.QOS_CTL.offset → x.reg q = s.chip.reg q := fun q hs hc =>
    (Chip.reg_setBit_ne _ _ _ hs).trans (Chip.reg_setReg_ne _ _ hc)
  obtain ⟨hmap, hcls, hcap⟩ := Chip.qosSet_parts x.takeStaged_qos
  obtain ⟨hm, hk, hp⟩ := x.staged_qos
  refine ⟨x.takeStaged_busy.trans (Chip.bit_setBit _ _ _ _ (by decide) (by decide)), fun l hl => ?_, fun k hlt => ?_, ?_⟩
  · rw [hmap, hm l hl, Chip.fld_of_reg (hreg _ (by simp only [Reg.offset]; omega) (by simp only [Reg.offset]; omega))]
  · rw [Chip.clsWord, hcls, ← Chip.clsWord, hk k hlt, hreg _ (by simp only [Reg.offset]; omega) (by simp only [Reg.offset]; omega)]
  · rw [hcap, hp, Chip.fld_of_reg (hreg _ (by decide) (by decide))]

theorem qosCommit_foreign (s : State) (who : Who) (v : Word) (hv : F.QOS_CTL_COMMIT.get v = 1) (hw : who.sealed = false) :
    Gives (.qosCommit who v) s (s.chip.refuseWrite who .QOS_CTL) :=
  gives_of_onChip rfl (beq_iff_eq.2 hv) (if_neg (by rw [hw]; decide))

theorem qosCommitDone_does (s : State) (h : s.chip.bit .QOS_STATUS F.QOS_STATUS_BUSY = true) :
    ∃ t, exec .qosCommitDone s = .next t ∧ t.chip.bit .QOS_STATUS F.QOS_STATUS_BUSY = false
      ∧ t.chip.fld .QOS_STATUS F.QOS_STATUS_RESULT = 1 := by
  refine ⟨_, gives_of_onChip (ok := true) rfl rfl (if_pos h), ?_⟩
  have hend : ∀ (x : Chip) (n : Nat), 
      let y := ((x.setFld .QOS_STATUS F.QOS_STATUS_RESULT 1).setBit .QOS_STATUS F.QOS_STATUS_BUSY false).setFld .QOS_STATUS
        F.QOS_STATUS_COMMITTED_SUM n
      y.newDigest.bit .QOS_STATUS F.QOS_STATUS_BUSY = false ∧ y.newDigest.fld .QOS_STATUS F.QOS_STATUS_RESULT = 1 := fun x n => by
    intro y
    have hreg := y.reg_newDigest_ne (q := .QOS_STATUS) (by decide) (by decide) (by decide)
    refine ⟨(Chip.bit_of_reg hreg _).trans ?_, (Chip.fld_of_reg hreg _).trans ?_⟩
    · exact (Chip.bit_setFld_apart _ _ _ (by decide)).trans (Chip.bit_setBit _ _ _ _ (by decide) (by decide))
    · exact (Chip.fld_setFld_apart _ _ _ (by decide)).trans ((Chip.fld_setBit_apart _ _ _ (by decide)).trans
        (Chip.fld_setFld_of_lt _ _ _ (by decide) (by decide) (by decide)))
  exact hend _ _

-- balances

/-- The balance of a class of a port after a refill. -/
def Chip.refilled (c : Chip) (port k : Nat) : Int :=
  if c.unlimited k then (c.burstOf k * 64 * tokUnit : Int)
  else min (c.burstOf k * 64 * tokUnit : Int) (c.tokenOf port k + (sget 0 (port * 16 + k) c.portRate : Nat))

theorem Chip.refill_of_idle {c : Chip} (h : c.injQ = []) (port k : Nat) :
    c.refill port k = { c with tokens := sset 0 (port * 16 + k) (c.refilled port k) c.tokens } := by
  rw [Chip.refill, h]
  rfl

/-- Refills of a port that holds no request change its balances alone, each by its own share. -/
theorem Chip.refills_of_idle {c : Chip} (h : c.injQ = []) (port n : Nat) (hn : n ≤ 16) :
    ∃ m, forUpTo n (fun k x => x.refill port k) c = { c with tokens := m }
      ∧ ∀ k, sget 0 (port * 16 + k) m = if k < n then c.refilled port k else c.tokenOf port k := by
  induction n with
  | zero => exact ⟨c.tokens, rfl, fun k => rfl⟩
  | succ n ih =>
    obtain ⟨m, hm, hk⟩ := ih (by omega)
    have hown : ({ c with tokens := m } : Chip).refilled port n = c.refilled port n := by
      have htok : ({ c with tokens := m } : Chip).tokenOf port n = c.tokenOf port n := (hk n).trans (if_neg (lt_irrefl n))
      rw [Chip.refilled, htok]
      rfl
    refine ⟨sset 0 (port * 16 + n) (c.refilled port n) m, ?_, fun k => ?_⟩
    · rw [forUpTo_succ, hm, Chip.refill_of_idle (c := { c with tokens := m }) h, hown]
    · by_cases hkn : k = n
      · rw [hkn, sget_sset_self, if_pos (by omega)]
      · rw [sget_sset_ne _ _ (by omega), hk]
        exact if_congr (by omega) rfl rfl

theorem tokenRefill_does (s : State) (port k : Nat) (hp : port < 26) (hk : k < 15) (hq : s.chip.injQ = []) (hs : s.chip.safeQ = []) :
    ∃ t, exec (.tokenRefill port) s = .next t
      ∧ t.chip.tokenOf port k = (if s.chip.unlimited k then (s.chip.burstOf k * 64 * tokUnit : Int)
          else min (s.chip.burstOf k * 64 * tokUnit : Int) (s.chip.tokenOf port k + (sget 0 (port * 16 + k) s.chip.portRate : Nat))) := by
  obtain ⟨m, hm, hbal⟩ := Chip.refills_of_idle hq port 15 (by omega)
  have hfill : s.chip.tokenRefill port = { s.chip with tokens := m, safeQ := [] } := by
    rw [Chip.tokenRefill, hm, Chip.reissue, hs]
    rfl
  exact ⟨_, gives_of_onChip rfl (decide_eq_true hp) hfill, (hbal k).trans (if_pos hk)⟩

theorem limitDivision_does (s : State) : ∃ t, exec .limitDivision s = .next t
    ∧ (∀ q, q ∈ t.chip.active ↔ (∃ x ∈ s.chip.injQ, x.1 = q) ∨ ∃ m ∈ s.chip.safeQ, s.chip.tokenQueue m = some q)
    ∧ ∀ port k, port < 26 → k < 15 → sget 0 (port * 16 + k) t.chip.portRate = s.chip.shareOf port k := by
  have hactive : s.chip.limitDivision.active = (s.chip.injQ.map (fun q => q.1) ++ s.chip.safeQ.filterMap s.chip.tokenQueue).eraseDups := rfl
  have hrate : s.chip.limitDivision.portRate = s.chip.divide.portRate := by rw [Chip.limitDivision]
  refine ⟨_, gives_of_onChip (ok := true) rfl rfl rfl, fun q => ?_, fun port k hp hk => ?_⟩ <;> dsimp only
  · rw [hactive]
    exact List.mem_eraseDups.trans (List.mem_append.trans (or_congr List.mem_map List.mem_filterMap))
  · rw [hrate, s.chip.divide_rate hp hk]

/-- The bytes of a class that the halls count. -/
def Chip.hallBytes (c : Chip) (k : Nat) : Nat := (List.range 16).foldl (fun a n => a + c.fld (.HALL_CLASS_BYTES n k) F.HALL_CLASS_BYTES_BYTES) 0

theorem Chip.hallBytes_sum (c : Chip) (j n k : Nat) (hj : j < 16) :
    (c.setFld (.QOS_BYTES j) F.QOS_BYTES_BYTES n).hallBytes k = c.hallBytes k := by
  have hfld : ∀ i, (c.setFld (.QOS_BYTES j) F.QOS_BYTES_BYTES n).fld (.HALL_CLASS_BYTES i k) F.HALL_CLASS_BYTES_BYTES
      = c.fld (.HALL_CLASS_BYTES i k) F.HALL_CLASS_BYTES_BYTES := fun i => Chip.fld_setFld_ne _ _ _ _ (by simp only [Reg.offset]; omega)
  unfold Chip.hallBytes
  simp only [hfld]

/-- QOS_BYTES of a class sums what the halls counted. -/
def Chip.sumClass (k : Nat) (c : Chip) : Chip := c.setFld (.QOS_BYTES k) F.QOS_BYTES_BYTES (c.hallBytes k)

theorem Chip.sums_hallBytes (c : Chip) {n : Nat} (hn : n ≤ 16) (k : Nat) : (forUpTo n Chip.sumClass c).hallBytes k = c.hallBytes k :=
  forUpTo_same_of_lt (fun x : Chip => x.hallBytes k) n (fun j hj x => x.hallBytes_sum j _ k (by omega)) c

theorem Chip.sums_bytes (c : Chip) {n k : Nat} (hn : n ≤ 16) (hk : k < n) :
    (forUpTo n Chip.sumClass c).fld (.QOS_BYTES k) F.QOS_BYTES_BYTES = c.hallBytes k % 2 ^ 48 := by
  induction n with
  | zero => exact absurd hk (Nat.not_lt_zero _)
  | succ n ih =>
    rw [forUpTo_succ, Chip.sumClass]
    by_cases h : k = n
    · rw [h, Chip.fld_setFld _ _ _ _ (by decide) (by decide), Chip.sums_hallBytes _ (by omega)]
      rfl
    · rw [Chip.fld_setFld_ne _ _ _ _ (by simp only [Reg.offset]; omega), ih (by omega) (by omega)]

theorem qosBytesSum_does (s : State) : ∃ t, exec .qosBytesSum s = .next t ∧ ∀ k, k < 16 →
    t.chip.fld (.QOS_BYTES k) F.QOS_BYTES_BYTES
      = (List.range 16).foldl (fun a n => a + s.chip.fld (.HALL_CLASS_BYTES n k) F.HALL_CLASS_BYTES_BYTES) 0 % 2 ^ 48 := by
  have hsum : s.chip.bytesSum = forUpTo 16 Chip.sumClass s.chip := rfl
  have hdoes : Gives .qosBytesSum s (forUpTo 16 Chip.sumClass s.chip) := gives_of_onChip (ok := true) rfl rfl hsum
  have hbytes : ∀ k, k < 16 → (forUpTo 16 Chip.sumClass s.chip).fld (.QOS_BYTES k) F.QOS_BYTES_BYTES = s.chip.hallBytes k % 2 ^ 48 :=
    fun k hk => s.chip.sums_bytes le_rfl hk
  exact ⟨_, hdoes, hbytes⟩

/-- Settles O44: a commit by what the rescaling and the end of the windows leave of the set, the balances by a loop over classes that hold
no request. -/
theorem regulation : Obligations.Regulation := by
  unfold Obligations.Regulation
  exact ⟨qosCommit_cases, qosCommit_foreign, qosCommitDone_does, scaleRecompute_does, tokenRefill_does, limitDivision_does, qosBytesSum_does⟩

end Sys2Proof.Machine
end

section
/-! The fault collector (R327 to R342). -/

namespace Sys2Proof.Machine

-- what handling an occurrence leaves of the collector

/-- A record that is written leaves what every unit but Uzomuris holds. -/
theorem Chip.lifeWrite_held (c : Chip) (t : Nat) (l : List Byte) {u : Nat} (hu : u ≠ unitUz) :
    sget [] u (c.lifeWrite t l).fcHold = sget [] u c.fcHold := by
  have hreport : sget [] u (c.report unitUz 50 0x5000 1 15).fcHold = sget [] u c.fcHold := by
    unfold Chip.report Chip.hold
    dsimp only
    split
    · exact sget_sset_ne _ _ hu _ _
    · split
      · exact sget_sset_ne _ _ hu _ _
      · rfl
  unfold Chip.lifeWrite
  split
  · rfl
  · dsimp only
    split
    · split
      · rfl
      · exact hreport
    · split
      · rfl
      · exact hreport

theorem Chip.faultRecord_held (c : Chip) (r : Report) (sev cap : Nat) {u : Nat} (hu : u ≠ unitUz) :
    sget [] u (c.faultRecord r sev cap).fcHold = sget [] u c.fcHold := by
  unfold Chip.faultRecord
  dsimp only
  split
  · rw [Chip.saySummary_frame]
    exact c.lifeWrite_held _ _ hu
  · exact c.lifeWrite_held _ _ hu

/-- A capture changes the capture registers, and UNCAPTURED of FC_STATUS. -/
theorem Chip.capture_cases (c : Chip) (r : Report) (sev : Nat) : (c.capture r sev).1 = c.fillFirst r sev
    ∨ (c.capture r sev).1 = c.fillEsc r sev ∨ (c.capture r sev).1 = c.bump .FC_STATUS F.FC_STATUS_UNCAPTURED
    ∨ (c.capture r sev).1 = (c.setBit .FC_ESC_INFO F.FC_INFO_OVERRUN true).bump .FC_STATUS F.FC_STATUS_UNCAPTURED := by
  unfold Chip.capture
  dsimp only
  split
  · exact Or.inl rfl
  · split
    · exact Or.inr (Or.inl rfl)
    · split
      · exact Or.inr (Or.inr (Or.inr rfl))
      · exact Or.inr (Or.inr (Or.inl rfl))

theorem Chip.capture_frame (c : Chip) (r : Report) (sev : Nat) : (c.capture r sev).1 = { c with regs := (c.capture r sev).1.regs } := by
  rcases c.capture_cases r sev with h | h | h | h <;> rw [h] <;> rfl

theorem Chip.reg_capture (c : Chip) (r : Report) (sev : Nat) {q : Reg} (h : 0x10400 ≤ q.offset) : (c.capture r sev).1.reg q = c.reg q := by
  have hne : ∀ {x : Reg}, x.offset < 0x10400 → q.offset ≠ x.offset := fun hx => by omega
  rcases c.capture_cases r sev with e | e | e | e <;> rw [e]
  · exact (Chip.reg_setReg_ne _ _ (hne (by decide))).trans ((Chip.reg_setFld_ne _ _ _ (hne (by decide))).trans
      (Chip.reg_setReg_ne _ _ (hne (by decide))))
  · exact (Chip.reg_setReg_ne _ _ (hne (by decide))).trans ((Chip.reg_setFld_ne _ _ _ (hne (by decide))).trans
      (Chip.reg_setReg_ne _ _ (hne (by decide))))
  · exact Chip.reg_setFld_ne _ _ _ (hne (by decide))
  · exact (Chip.reg_setFld_ne _ _ _ (hne (by decide))).trans (Chip.reg_setFld_ne _ _ _ (hne (by decide)))

theorem Chip.capture_status (c : Chip) (r : Report) (sev : Nat) {f : Field} (h : F.FC_STATUS_UNCAPTURED.apart f = true) :
    (c.capture r sev).1.fld .FC_STATUS f = c.fld .FC_STATUS f := by
  rcases c.capture_cases r sev with e | e | e | e <;> rw [e]
  · exact Chip.fld_of_reg ((Chip.reg_setReg_ne _ _ (by decide)).trans ((Chip.reg_setFld_ne _ _ _ (by decide)).trans
      (Chip.reg_setReg_ne _ _ (by decide)))) f
  · exact Chip.fld_of_reg ((Chip.reg_setReg_ne _ _ (by decide)).trans ((Chip.reg_setFld_ne _ _ _ (by decide)).trans
      (Chip.reg_setReg_ne _ _ (by decide)))) f
  · exact Chip.fld_setFld_apart _ _ _ h
  · exact (Chip.fld_setFld_apart _ _ _ h).trans (Chip.fld_setFld_ne _ _ _ _ (by decide))

/-- The first capture. -/
theorem Chip.capture_first {c : Chip} (h : c.bit .FC_FIRST_INFO F.FC_INFO_VALID = false) (r : Report) (sev : Nat) :
    (c.capture r sev).1.reg .FC_FIRST_INFO = F.FC_INFO_VALID.put (Report.info r sev) 1
    ∧ (c.capture r sev).1.reg .FC_FIRST_TIME = BitVec.ofNat 64 r.time := by
  have hfill : (c.capture r sev).1 = c.fillFirst r sev := by
    rw [Chip.capture, h]
    rfl
  rw [hfill]
  exact ⟨(Chip.reg_setReg_ne _ _ (by decide)).trans ((Chip.reg_setFld_ne _ _ _ (by decide)).trans (Chip.reg_setReg _ _ _)),
    Chip.reg_setReg _ _ _⟩

-- an occurrence is noted

/-- PEND and APPLIED of the source of an occurrence. -/
def Chip.markSource (c : Chip) (n sev : Nat) : Chip := (c.setFld (.FC_SRC n) F.FC_SRC_APPLIED sev).setBit (.FC_SRC n) F.FC_SRC_PEND true

theorem Chip.noteOccurrence_cases (c : Chip) (r : Report) (sev : Nat) :
    c.noteOccurrence r sev = ((c.markSource r.source sev).capture r sev).1
    ∨ ∃ k, c.noteOccurrence r sev = (((c.markSource r.source sev).capture r sev).1).faultRecord r sev k := by
  unfold Chip.noteOccurrence
  dsimp only
  split
  · exact Or.inr ⟨_, rfl⟩
  · exact Or.inl rfl

theorem Chip.reg_noteOccurrence (c : Chip) (r : Report) (sev : Nat) {q : Reg} (h : q.offset ≠ Reg.UZ_LR_STATUS.offset) :
    (c.noteOccurrence r sev).reg q = ((c.markSource r.source sev).capture r sev).1.reg q := by
  rcases c.noteOccurrence_cases r sev with e | ⟨k, e⟩ <;> rw [e]
  exact Chip.reg_faultRecord_ne _ _ _ _ h

theorem Chip.noteOccurrence_held (c : Chip) (r : Report) (sev : Nat) {u : Nat} (hu : u ≠ unitUz) :
    sget [] u (c.noteOccurrence r sev).fcHold = sget [] u c.fcHold := by
  have hcapture : ((c.markSource r.source sev).capture r sev).1.fcHold = c.fcHold := by rw [Chip.capture_frame]; rfl
  rcases c.noteOccurrence_cases r sev with e | ⟨k, e⟩ <;> rw [e]
  · rw [hcapture]
  · rw [Chip.faultRecord_held _ _ _ _ hu, hcapture]

theorem Chip.noteOccurrence_src (c : Chip) (r : Report) (sev n : Nat) (hn : n < 1536) :
    (c.noteOccurrence r sev).reg (.FC_SRC n) = (c.markSource r.source sev).reg (.FC_SRC n) :=
  (c.reg_noteOccurrence r sev (by simp only [Reg.offset]; omega)).trans (Chip.reg_capture _ _ _ (by simp only [Reg.offset]; omega))

theorem Chip.markSource_pend (c : Chip) (n : Nat) {sev : Nat} (h : sev < 8) : (c.markSource n sev).bit (.FC_SRC n) F.FC_SRC_PEND = true
    ∧ (c.markSource n sev).fld (.FC_SRC n) F.FC_SRC_APPLIED = sev :=
  ⟨Chip.bit_setBit _ _ _ _ (by decide) (by decide), (Chip.fld_setBit_apart _ _ _ (by decide)).trans
    (Chip.fld_setFld_of_lt _ _ _ (by decide) (by decide) h)⟩

theorem Chip.markSource_reg_ne (c : Chip) (n sev : Nat) {q : Reg} (h : q.offset ≠ (Reg.FC_SRC n).offset) :
    (c.markSource n sev).reg q = c.reg q := (Chip.reg_setBit_ne _ _ _ h).trans (Chip.reg_setFld_ne _ _ _ h)

theorem Chip.markSource_cause (c : Chip) (n sev k : Nat) : (c.markSource n sev).bit (.FC_SRC k) F.FC_SRC_CAUSE = c.bit (.FC_SRC k) F.FC_SRC_CAUSE := by
  by_cases h : k = n
  · subst h
    exact (Chip.bit_setBit_apart _ _ _ (by decide)).trans (Chip.bit_setFld_apart _ _ _ (by decide))
  · exact Chip.bit_of_reg (c.markSource_reg_ne n sev (by simp only [Reg.offset]; omega)) _

theorem Chip.noteOccurrence_status (c : Chip) {r : Report} (sev : Nat) {f : Field} (h : F.FC_STATUS_UNCAPTURED.apart f = true) :
    (c.noteOccurrence r sev).fld .FC_STATUS f = c.fld .FC_STATUS f :=
  (Chip.fld_of_reg (c.reg_noteOccurrence r sev (by decide)) f).trans ((Chip.capture_status _ _ _ h).trans
    (Chip.fld_of_reg (c.markSource_reg_ne _ _ (by simp only [Reg.offset]; omega)) f))

-- a notice

/-- The world that a notice to world w reaches. -/
def noticeWorld (w : Nat) : Nat := if w = 2 then 1 else w

theorem noticeWorld_lt {w : Nat} (h : w < 16) : noticeWorld w < 16 := by
  unfold noticeWorld
  split <;> omega

theorem Chip.notice_fills (c : Chip) (w : Nat) (r : Report) (sev : Nat) :
    c.notice w r sev = (c.noticeFill (noticeWorld w) r sev).raiseEvent (noticeWorld w) := c.notice_eq w r sev

theorem Chip.notice_fcHold (c : Chip) (w : Nat) (r : Report) (sev : Nat) : (c.notice w r sev).fcHold = c.fcHold := by
  have hraise : ∀ (x : Chip) (n : Nat), (x.raiseEvent n).fcHold = x.fcHold := fun x n => by rw [Chip.raiseEvent_frame]
  have hfill := congrArg Chip.fcHold (c.noticeFill_frame (noticeWorld w) r sev)
  exact (congrArg Chip.fcHold (c.notice_fills w r sev)).trans ((hraise _ _).trans hfill)

theorem Chip.reg_notice (c : Chip) {w : Nat} (r : Report) (sev : Nat) (hw : w < 16) {q : Reg}
    (h : q.offset < 0x10400 ∨ 0x11000 ≤ q.offset ∧ q.offset < 0x24000) : (c.notice w r sev).reg q = c.reg q := by
  have hlt := noticeWorld_lt hw
  rw [Chip.notice_fills, Chip.reg_raiseEvent_ne _ _ (by simp only [Reg.offset] at h ⊢; omega), Chip.reg_noticeFill_ne _ _ _
    (by simp only [Reg.offset] at h ⊢; omega) (by simp only [Reg.offset] at h ⊢; omega)]

/-- What a notice says. -/
theorem Chip.notice_says (c : Chip) {w : Nat} {r : Report} {sev : Nat} (hw : w < 16) (hsrc : r.source < 2048) (hsev : sev < 8) :
    let n := Reg.FC_NOTICE_INFO (noticeWorld w)
    (c.notice w r sev).bit n F.FC_NOTICE_INFO_VALID = true ∧ (c.notice w r sev).fld n F.FC_NOTICE_INFO_SOURCE = r.source
    ∧ (c.notice w r sev).fld n F.FC_NOTICE_INFO_SEV = sev
    ∧ (c.bit n F.FC_NOTICE_INFO_VALID = true → (c.notice w r sev).bit n F.FC_NOTICE_INFO_OVERRUN = true) := by
  have hlt := noticeWorld_lt hw
  intro n
  have hreg : (c.notice w r sev).reg n = (c.noticeFill (noticeWorld w) r sev).reg n :=
    (congrArg (fun x : Chip => x.reg n) (c.notice_fills w r sev)).trans (Chip.reg_raiseEvent_ne _ _ (by simp only [n, Reg.offset]; omega))
  refine ⟨?_, ?_, ?_, fun h => ?_⟩
  · rw [Chip.bit_of_reg hreg, Chip.bit_info_noticeFill, Chip.bit_valid_noticeInfo]
  · rw [Chip.fld_of_reg hreg, Chip.fld_info_noticeFill, Chip.fld_source_noticeInfo _ _ sev hsrc]
  · rw [Chip.fld_of_reg hreg, Chip.fld_info_noticeFill, Chip.fld_sev_noticeInfo _ _ r hsev]
  · rw [Chip.bit_of_reg hreg, Chip.bit_info_noticeFill, Chip.bit_overrun_noticeInfo, c.bit_overrun_noticeOverrun, h, Bool.true_or]

-- the safe state

/-- The safe state is entered: every register of the collector but FC_STATUS stays. -/
theorem Chip.reg_enterSafe (c : Chip) {q : Reg} (h : 0x10010 ≤ q.offset) (h' : q.offset < 0x24000) : c.enterSafe.reg q = c.reg q := by
  unfold Chip.enterSafe
  split
  · rfl
  · rw [Chip.reg_pairYield_ne _ (ne_of_lt (h'.trans (by decide))) (ne_of_lt (h'.trans (by decide)))
      (fun n => by simp only [Reg.offset] at h' ⊢; omega), Chip.reg_raiseEvent_ne _ _ (ne_of_lt (h'.trans (by decide)))]
    exact Chip.reg_setBit_ne _ _ _ (ne_of_gt (lt_of_lt_of_le (by decide) h))

theorem Chip.enterSafe_safe (c : Chip) : c.enterSafe.safe = true := by
  unfold Chip.enterSafe
  split
  next h => exact h
  next =>
    exact (Chip.bit_of_reg (Chip.reg_pairYield_ne _ (by decide) (by decide) (fun n => by simp only [Reg.offset]; omega)) _).trans
      ((Chip.bit_raiseEvent_ne _ _ _ (by decide)).trans (Chip.bit_setBit _ _ _ _ (by decide) (by decide)))

theorem Chip.reissue_regs (c : Chip) : c.reissue.regs = c.regs := foldl_same Chip.regs (fun x m => x.issue_regs m) _ _

/-- Two chips alike in what the sources show, but for the conditions of level sources. -/
def Chip.SameSources (c d : Chip) : Prop := ∀ n f, n < 1536 → (F.FC_SRC_CAUSE.apart f = true ∨ n = 0) → d.fld (.FC_SRC n) f = c.fld (.FC_SRC n) f

theorem Chip.SameSources.trans {a b c : Chip} (h : a.SameSources b) (h' : b.SameSources c) : a.SameSources c :=
  fun n f hn hf => (h' n f hn hf).trans (h n f hn hf)

theorem Chip.SameSources.of_reg {c d : Chip} (h : ∀ n, n < 1536 → d.reg (.FC_SRC n) = c.reg (.FC_SRC n)) : c.SameSources d :=
  fun n f hn _ => Chip.fld_of_reg (h n hn) f

theorem Chip.SameSources.bit {c d : Chip} (h : c.SameSources d) {n : Nat} (hn : n < 1536) {f : Field}
    (hf : F.FC_SRC_CAUSE.apart f = true ∨ n = 0) : d.bit (.FC_SRC n) f = c.bit (.FC_SRC n) f := Chip.bit_of_fld (h n f hn hf)

theorem Chip.setCause_sources (c : Chip) {n : Nat} (b : Bool) (hn : n ≠ 0) : c.SameSources (c.setCause n b) := fun k f hk hf => by
  by_cases h : k = n
  · subst h
    exact Chip.fld_setBit_apart _ _ _ (hf.resolve_right hn)
  · exact Chip.fld_setBit_ne _ _ _ _ (by simp only [Reg.offset]; omega)

theorem Chip.setPairState_sources (c : Chip) (st : Nat) : c.SameSources (c.setPairState st) := by
  have hstated : c.SameSources (c.statedPair st) := by
    refine Chip.SameSources.trans ?_ (Chip.SameSources.of_reg fun n hn => Chip.reg_raiseEvent_ne _ _ (by simp only [Reg.offset]; omega))
    refine Chip.SameSources.trans ?_ (Chip.setCause_sources _ _ (by decide))
    refine Chip.SameSources.trans ?_ (Chip.setCause_sources _ _ (by decide))
    exact Chip.SameSources.of_reg fun n hn => Chip.reg_setFld_ne _ _ _ (by simp only [Reg.offset]; omega)
  rw [Chip.setPairState_eq]
  split
  · exact Chip.SameSources.of_reg fun _ _ => rfl
  · refine Chip.SameSources.trans ?_ (Chip.SameSources.of_reg fun n hn => Chip.reg_pairRecord_ne _ (by simp only [Reg.offset]; omega))
    split
    · exact hstated
    · exact hstated

theorem Chip.reg_setPairState (c : Chip) (st : Nat) {q : Reg} (h : q.offset < 0x11000) : (c.setPairState st).reg q = c.reg q := by
  have hne : ∀ {x : Reg}, 0x11000 ≤ x.offset → q.offset ≠ x.offset := fun hx => by omega
  have hstated : (c.statedPair st).reg q = c.reg q := by
    rw [Chip.statedPair, Chip.reg_raiseEvent_ne _ _ (hne (by decide)), Chip.reg_setCause_ne _ _ _ (hne (by decide)),
      Chip.reg_setCause_ne _ _ _ (hne (by decide)), Chip.reg_setFld_ne _ _ _ (hne (by decide))]
  rw [Chip.setPairState_eq]
  split
  · rfl
  · rw [Chip.reg_pairRecord_ne _ (hne (by decide))]
    split
    · exact hstated
    · exact hstated

/-- The end of the safe state leaves what the sources show. -/
theorem Chip.leaveSafe_sources (c : Chip) : c.SameSources c.leaveSafe := by
  unfold Chip.leaveSafe Chip.pairAfterSafe
  split
  · exact Chip.SameSources.of_reg fun _ _ => rfl
  · have hopen : c.SameSources (c.setBit .FC_STATUS F.FC_STATUS_SAFE false).reissue := Chip.SameSources.of_reg fun n hn =>
      (Chip.reg_of_regs (Chip.reissue_regs _) _).trans (Chip.reg_setBit_ne _ _ _ (by simp only [Reg.offset]; omega))
    split
    · exact (hopen.trans (Chip.setPairState_sources _ _)).trans
        (Chip.SameSources.of_reg fun n hn => Chip.reg_raiseEvent_ne _ _ (by simp only [Reg.offset]; omega))
    · exact hopen

theorem Chip.reg_leaveSafe (c : Chip) {q : Reg} (h : 0x10010 ≤ q.offset) (h' : q.offset < 0x11000) : c.leaveSafe.reg q = c.reg q := by
  have hopen : (c.setBit .FC_STATUS F.FC_STATUS_SAFE false).reissue.reg q = c.reg q :=
    (Chip.reg_of_regs (Chip.reissue_regs _) _).trans (Chip.reg_setBit_ne _ _ _ (ne_of_gt (lt_of_lt_of_le (by decide) h)))
  unfold Chip.leaveSafe Chip.pairAfterSafe
  split
  · rfl
  · split
    · rw [Chip.reg_raiseEvent_ne _ _ (ne_of_lt (h'.trans (by decide))), Chip.reg_setPairState _ _ h', hopen]
    · exact hopen

theorem Chip.leaveSafe_of_unsafe {c : Chip} (h : c.safe = false) : c.leaveSafe = c := if_pos (by rw [h]; rfl)

theorem Chip.leaveSafe_of_held {c : Chip} (h : c.pendApplied 4 = true) : c.leaveSafe = c := if_pos (by rw [h, Bool.or_true])

theorem Chip.pendApplied_of {c : Chip} {n sev : Nat} (hn : n < 1536) (hpend : c.bit (.FC_SRC n) F.FC_SRC_PEND = true)
    (happ : c.fld (.FC_SRC n) F.FC_SRC_APPLIED = sev) : c.pendApplied sev = true :=
  List.any_eq_true.2 ⟨n, List.mem_range.2 hn, by rw [hpend, happ, beq_self_eq_true]; rfl⟩

end Sys2Proof.Machine
end

section
/-! Reports, clearing, the safe state and mending (R307, R329 to R341). -/

namespace Sys2Proof.Machine

/-- An accepted occurrence that the severity applies to has been noted. -/
def Chip.noted (c : Chip) (r : Report) (sev : Nat) : Chip := (c.countSource r.source (1 + r.merged)).noteOccurrence r sev

theorem Pkg.onChip_onChip (p : Pkg) (f g : Chip → Chip) : (p.onChip f).onChip g = p.onChip (fun c => g (f c)) := rfl

/-- The collector accepts a report of a source, by what it may do with it. -/
theorem Pkg.acceptReport_cases {p : Pkg} {r : Report} (hsrc : r.source < 1536) :
    p.acceptReport r =
      if p.chip.bit .FC_STATUS F.FC_STATUS_SAFE_RESET_ONLY then
        (p.onChip (fun c => c.countSource r.source (1 + r.merged))).onChip (fun c => c.faultRecord r 0 0)
      else if p.chip.severity r.source = 0 then
        (if p.chip.safe then (p.onChip (fun c => c.countSource r.source (1 + r.merged))).onChip (fun c => c.faultRecord r 0 0)
        else p.onChip (fun c => c.countSource r.source (1 + r.merged)))
      else (((p.onChip (fun c => c.countSource r.source (1 + r.merged))).onChip (fun c =>
        c.noteOccurrence r (p.chip.severity r.source))).applySeverity r (p.chip.severity r.source)).onChip Chip.leaveSafe :=
  if_neg (by omega)

theorem Pkg.acceptReport_counts {p : Pkg} {r : Report} (hsrc : r.source < 1536) (hopen : p.chip.bit .FC_STATUS F.FC_STATUS_SAFE_RESET_ONLY = false)
    (hsev : p.chip.severity r.source = 0) (hs : p.chip.safe = false) :
    p.acceptReport r = p.onChip (fun c => c.countSource r.source (1 + r.merged)) := by
  rw [Pkg.acceptReport_cases hsrc, if_neg (by rw [hopen]; decide), if_pos hsev, if_neg (by rw [hs]; decide)]

theorem Pkg.acceptReport_closed {p : Pkg} {r : Report} (hsrc : r.source < 1536) (h : p.chip.bit .FC_STATUS F.FC_STATUS_SAFE_RESET_ONLY = true) :
    (p.acceptReport r).chip = (p.chip.countSource r.source (1 + r.merged)).faultRecord r 0 0 := by
  rw [Pkg.acceptReport_cases hsrc, if_pos h, Pkg.onChip_chip, Pkg.onChip_chip]

theorem Pkg.acceptReport_eq {p : Pkg} {r : Report} {sev : Nat} (hsrc : r.source < 1536)
    (hopen : p.chip.bit .FC_STATUS F.FC_STATUS_SAFE_RESET_ONLY = false) (hs : p.chip.severity r.source = sev) (h0 : sev ≠ 0) :
    p.acceptReport r = ((p.onChip (fun c => c.noted r sev)).applySeverity r sev).onChip Chip.leaveSafe := by
  rw [Pkg.acceptReport_cases hsrc, if_neg (by rw [hopen]; decide), if_neg (by rw [hs]; exact h0), hs, Pkg.onChip_onChip]
  rfl

theorem Pkg.applySeverity_one (p : Pkg) (r : Report) : p.applySeverity r 1 = p := rfl

theorem Pkg.applySeverity_two (p : Pkg) (r : Report) : p.applySeverity r 2 = p.onChip (fun c => c.notice r.world r 2) := rfl

theorem Pkg.applySeverity_four (p : Pkg) (r : Report) : p.applySeverity r 4 = p.onChip (fun c => (c.notice 1 r 4).enterSafe) := rfl

theorem Chip.countSource_reg_ne (c : Chip) (n k : Nat) {q : Reg} (h : q.offset ≠ (Reg.FC_SRC n).offset) :
    (c.countSource n k).reg q = c.reg q := Chip.reg_setFld_ne _ _ _ h

theorem Chip.countSource_cause (c : Chip) (n k j : Nat) :
    (c.countSource n k).bit (.FC_SRC j) F.FC_SRC_CAUSE = c.bit (.FC_SRC j) F.FC_SRC_CAUSE := by
  by_cases h : j = n
  · subst h
    exact Chip.bit_setFld_apart _ _ _ (by decide)
  · exact Chip.bit_of_reg (c.countSource_reg_ne n k (by simp only [Reg.offset]; omega)) _

theorem Chip.noted_status (c : Chip) (r : Report) (sev : Nat) {f : Field} (h : F.FC_STATUS_UNCAPTURED.apart f = true) :
    (c.noted r sev).fld .FC_STATUS f = c.fld .FC_STATUS f :=
  (Chip.noteOccurrence_status _ _ h).trans (Chip.fld_of_reg (Chip.countSource_reg_ne _ _ _ (by simp only [Reg.offset]; omega)) f)

theorem Chip.noted_safe (c : Chip) (r : Report) (sev : Nat) : (c.noted r sev).safe = c.safe := Chip.bit_of_fld (c.noted_status r sev (by decide))

theorem Chip.noted_pend (c : Chip) {r : Report} {sev : Nat} (hr : r.source < 1536) (h : sev < 8) :
    (c.noted r sev).bit (.FC_SRC r.source) F.FC_SRC_PEND = true ∧ (c.noted r sev).fld (.FC_SRC r.source) F.FC_SRC_APPLIED = sev := by
  have hreg := Chip.noteOccurrence_src (c.countSource r.source (1 + r.merged)) r sev r.source hr
  obtain ⟨hpend, happ⟩ := (c.countSource r.source (1 + r.merged)).markSource_pend r.source h
  exact ⟨(Chip.bit_of_reg hreg _).trans hpend, (Chip.fld_of_reg hreg _).trans happ⟩

theorem Chip.noted_cause (c : Chip) (r : Report) (sev : Nat) {n : Nat} (hn : n < 1536) :
    (c.noted r sev).bit (.FC_SRC n) F.FC_SRC_CAUSE = c.bit (.FC_SRC n) F.FC_SRC_CAUSE :=
  (Chip.bit_of_reg (Chip.noteOccurrence_src _ r sev n hn) _).trans ((Chip.markSource_cause _ _ _ _).trans (c.countSource_cause _ _ _))

theorem Chip.noted_held (c : Chip) (r : Report) (sev : Nat) {u : Nat} (hu : u ≠ unitUz) :
    sget [] u (c.noted r sev).fcHold = sget [] u c.fcHold := Chip.noteOccurrence_held _ r sev hu

theorem Chip.noted_first {c : Chip} (h : c.bit .FC_FIRST_INFO F.FC_INFO_VALID = false) (r : Report) (sev : Nat) :
    (c.noted r sev).reg .FC_FIRST_INFO = F.FC_INFO_VALID.put (Report.info r sev) 1
    ∧ (c.noted r sev).reg .FC_FIRST_TIME = BitVec.ofNat 64 r.time := by
  have hvalid : ((c.countSource r.source (1 + r.merged)).markSource r.source sev).bit .FC_FIRST_INFO F.FC_INFO_VALID = false :=
    (Chip.bit_of_reg ((Chip.markSource_reg_ne _ _ _ (by simp only [Reg.offset]; omega)).trans
      (c.countSource_reg_ne _ _ (by simp only [Reg.offset]; omega))) _).trans h
  obtain ⟨hinfo, htime⟩ := Chip.capture_first hvalid r sev
  exact ⟨(Chip.reg_noteOccurrence _ r sev (by decide)).trans hinfo, (Chip.reg_noteOccurrence _ r sev (by decide)).trans htime⟩

theorem Chip.noted_notice (c : Chip) (r : Report) (sev : Nat) {w : Nat} (hw : w < 16) :
    (c.noted r sev).reg (.FC_NOTICE_INFO w) = c.reg (.FC_NOTICE_INFO w) :=
  (Chip.reg_noteOccurrence _ r sev (by simp only [Reg.offset]; omega)).trans ((Chip.reg_capture _ _ _ (by simp only [Reg.offset]; omega)).trans
    ((Chip.markSource_reg_ne _ _ _ (by simp only [Reg.offset]; omega)).trans (c.countSource_reg_ne _ _ (by simp only [Reg.offset]; omega))))

-- an occurrence is applied

/-- What LOG and NOTIFY make of an occurrence before the safe state may end. -/
def Chip.loggedOrNotified (c : Chip) (r : Report) (sev : Nat) : Chip := if sev = 2 then (c.noted r sev).notice r.world r 2 else c.noted r sev

section
variable {c : Chip} {r : Report} {sev : Nat} (hr : r.source < 1536) (hw : r.world < 16)
include hw

theorem Chip.loggedOrNotified_reg (c : Chip) (sev : Nat) {q : Reg} (h : q.offset < 0x10400 ∨ 0x11000 ≤ q.offset ∧ q.offset < 0x24000) :
    (c.loggedOrNotified r sev).reg q = (c.noted r sev).reg q := by
  unfold Chip.loggedOrNotified
  split
  · exact Chip.reg_notice _ r 2 hw h
  · rfl

include hr in
theorem Chip.loggedOrNotified_pend (h : sev < 8) : (c.loggedOrNotified r sev).leaveSafe.bit (.FC_SRC r.source) F.FC_SRC_PEND = true
    ∧ (c.loggedOrNotified r sev).leaveSafe.fld (.FC_SRC r.source) F.FC_SRC_APPLIED = sev := by
  have hreg := Chip.loggedOrNotified_reg hw c sev (q := .FC_SRC r.source) (by simp only [Reg.offset]; omega)
  have hsame := (c.loggedOrNotified r sev).leaveSafe_sources
  obtain ⟨hpend, happ⟩ := c.noted_pend hr h
  exact ⟨(hsame.bit hr (Or.inl (by decide))).trans ((Chip.bit_of_reg hreg _).trans hpend),
    (hsame _ _ hr (Or.inl (by decide))).trans ((Chip.fld_of_reg hreg _).trans happ)⟩

theorem Chip.loggedOrNotified_first (h : c.bit .FC_FIRST_INFO F.FC_INFO_VALID = false) :
    (c.loggedOrNotified r sev).leaveSafe.reg .FC_FIRST_INFO = F.FC_INFO_VALID.put (Report.info r sev) 1
    ∧ (c.loggedOrNotified r sev).leaveSafe.reg .FC_FIRST_TIME = BitVec.ofNat 64 r.time := by
  obtain ⟨hinfo, htime⟩ := Chip.noted_first h r sev
  exact ⟨(Chip.reg_leaveSafe _ (by decide) (by decide)).trans ((Chip.loggedOrNotified_reg hw c sev (Or.inl (by decide))).trans hinfo),
    (Chip.reg_leaveSafe _ (by decide) (by decide)).trans ((Chip.loggedOrNotified_reg hw c sev (Or.inl (by decide))).trans htime)⟩

theorem Chip.loggedOrNotified_held {u : Nat} (hu : u ≠ unitUz) (hs : c.safe = false) :
    sget [] u (c.loggedOrNotified r sev).leaveSafe.fcHold = sget [] u c.fcHold := by
  have hsafe : (c.loggedOrNotified r sev).safe = false :=
    (Chip.bit_of_reg (Chip.loggedOrNotified_reg hw c sev (Or.inl (by decide))) _).trans ((c.noted_safe r sev).trans hs)
  have hheld : (c.loggedOrNotified r sev).fcHold = (c.noted r sev).fcHold := by
    unfold Chip.loggedOrNotified
    split
    · exact Chip.notice_fcHold _ _ _ _
    · rfl
  rw [Chip.leaveSafe_of_unsafe hsafe, hheld, c.noted_held r sev hu]

include hr in
theorem Chip.loggedOrNotified_notice : let n := Reg.FC_NOTICE_INFO (noticeWorld r.world)
    (c.loggedOrNotified r 2).leaveSafe.bit n F.FC_NOTICE_INFO_VALID = true
    ∧ (c.loggedOrNotified r 2).leaveSafe.fld n F.FC_NOTICE_INFO_SOURCE = r.source
    ∧ (c.loggedOrNotified r 2).leaveSafe.fld n F.FC_NOTICE_INFO_SEV = 2
    ∧ (c.bit n F.FC_NOTICE_INFO_VALID = true → (c.loggedOrNotified r 2).leaveSafe.bit n F.FC_NOTICE_INFO_OVERRUN = true) := by
  intro n
  have hlt := noticeWorld_lt hw
  have hreg : (c.loggedOrNotified r 2).leaveSafe.reg n = ((c.noted r 2).notice r.world r 2).reg n :=
    Chip.reg_leaveSafe _ (by simp only [n, Reg.offset]; omega) (by simp only [n, Reg.offset]; omega)
  obtain ⟨hvalid, hsource, hsev, hover⟩ := (c.noted r 2).notice_says (r := r) (sev := 2) hw (by omega) (by decide)
  exact ⟨(Chip.bit_of_reg hreg _).trans hvalid, (Chip.fld_of_reg hreg _).trans hsource, (Chip.fld_of_reg hreg _).trans hsev,
    fun h => (Chip.bit_of_reg hreg _).trans (hover ((Chip.bit_of_reg (c.noted_notice r 2 hlt) _).trans h))⟩

end

/-- What SAFE makes of an occurrence. -/
def Chip.madeSafe (c : Chip) (r : Report) : Chip := ((c.noted r 4).notice 1 r 4).enterSafe

theorem Chip.madeSafe_src (c : Chip) (r : Report) {n : Nat} (hn : n < 1536) : (c.madeSafe r).reg (.FC_SRC n) = (c.noted r 4).reg (.FC_SRC n) :=
  (Chip.reg_enterSafe _ (by simp only [Reg.offset]; omega) (by simp only [Reg.offset]; omega)).trans
    (Chip.reg_notice _ r 4 (by decide) (by simp only [Reg.offset]; omega))

/-- The occurrence itself holds the safe state. -/
theorem Chip.madeSafe_holds (c : Chip) {r : Report} (hr : r.source < 1536) : (c.madeSafe r).leaveSafe = c.madeSafe r := by
  obtain ⟨hpend, happ⟩ := c.noted_pend hr (sev := 4) (by decide)
  exact Chip.leaveSafe_of_held (Chip.pendApplied_of hr ((Chip.bit_of_reg (c.madeSafe_src r hr) _).trans hpend)
    ((Chip.fld_of_reg (c.madeSafe_src r hr) _).trans happ))

theorem Pkg.acceptReport_log {p : Pkg} {r : Report} {sev : Nat} (hsrc : r.source < 1536)
    (hopen : p.chip.bit .FC_STATUS F.FC_STATUS_SAFE_RESET_ONLY = false) (hs : p.chip.severity r.source = sev) (h : sev = 1 ∨ sev = 2) :
    p.acceptReport r = p.onChip (fun c => (c.loggedOrNotified r sev).leaveSafe) := by
  rw [Pkg.acceptReport_eq hsrc hopen hs (by omega)]
  rcases h with rfl | rfl
  · rw [Pkg.applySeverity_one, Pkg.onChip_onChip]
    rfl
  · rw [Pkg.applySeverity_two, Pkg.onChip_onChip, Pkg.onChip_onChip]
    rfl

theorem Pkg.acceptReport_safe {p : Pkg} {r : Report} (hsrc : r.source < 1536)
    (hopen : p.chip.bit .FC_STATUS F.FC_STATUS_SAFE_RESET_ONLY = false) (hs : p.chip.severity r.source = 4) :
    p.acceptReport r = p.onChip (fun c => c.madeSafe r) := by
  rw [Pkg.acceptReport_eq hsrc hopen hs (by decide), Pkg.applySeverity_four, Pkg.onChip_onChip, Pkg.onChip_onChip]
  exact congrArg (fun c => ({ p with chip := c } : Pkg)) (p.chip.madeSafe_holds hsrc)

theorem faultReport_cases (s : State) (u : Nat) (r : Report) (rest : List Report) (hu : unitOk u = true)
    (hheld : sget [] u s.chip.fcHold = r :: rest) (hr : r.source < 1536) (hworld : r.world < 16)
    (hopen : s.chip.bit .FC_STATUS F.FC_STATUS_SAFE_RESET_ONLY = false) :
    let sev := s.chip.severity r.source
    let w := if r.world = 2 then 1 else r.world
    let held : Chip := { s.chip with fcHold := sset [] u rest s.chip.fcHold }
    (sev = 0 → s.chip.safe = false →
      Gives (.faultReport u) s { held.bump (.FC_SRC r.source) F.FC_SRC_COUNT (1 + r.merged) with
        cntNew := addOnce r.source s.chip.cntNew })
    ∧ (sev = 1 ∨ sev = 2 → ∃ t, exec (.faultReport u) s = .next t ∧ t.dram = s.dram
      ∧ (u ≠ unitUz → s.chip.safe = false → sget [] u t.chip.fcHold = rest)
      ∧ t.chip.bit (.FC_SRC r.source) F.FC_SRC_PEND = true ∧ t.chip.fld (.FC_SRC r.source) F.FC_SRC_APPLIED = sev
      ∧ (s.chip.bit .FC_FIRST_INFO F.FC_INFO_VALID = false →
        t.chip.reg .FC_FIRST_INFO = F.FC_INFO_VALID.put (Report.info r sev) 1 ∧ t.chip.reg .FC_FIRST_TIME = BitVec.ofNat 64 r.time)
      ∧ (sev = 2 → t.chip.bit (.FC_NOTICE_INFO w) F.FC_NOTICE_INFO_VALID = true
        ∧ t.chip.fld (.FC_NOTICE_INFO w) F.FC_NOTICE_INFO_SOURCE = r.source ∧ t.chip.fld (.FC_NOTICE_INFO w) F.FC_NOTICE_INFO_SEV = 2
        ∧ (s.chip.bit (.FC_NOTICE_INFO w) F.FC_NOTICE_INFO_VALID = true → t.chip.bit (.FC_NOTICE_INFO w) F.FC_NOTICE_INFO_OVERRUN = true)))
    ∧ (sev = 4 → ∃ t, exec (.faultReport u) s = .next t ∧ t.chip.safe = true) := by
  intro sev w held
  let p : Pkg := s.toPkg.onChip (fun _ => held)
  have hdoes : GivesPkg (.faultReport u) s (p.acceptReport r) := givesPkg_of_onPkg rfl hu (by rw [Pkg.faultReport, hheld]; rfl)
  have hsev : p.chip.severity r.source = sev := rfl
  refine ⟨fun h0 hs => ?_, fun h12 => ?_, fun h4 => ?_⟩
  · exact hdoes.congr (Pkg.acceptReport_counts hr hopen h0 hs)
  · refine ⟨_, hdoes.congr (Pkg.acceptReport_log hr hopen hsev h12), ?_⟩
    obtain ⟨hpend, happ⟩ := Chip.loggedOrNotified_pend (c := held) (sev := sev) hr hworld (by omega)
    refine ⟨rfl, fun hne hs => ?_, hpend, happ, fun hfirst => Chip.loggedOrNotified_first hworld hfirst, fun h2 => ?_⟩
    · exact (Chip.loggedOrNotified_held (c := held) hworld hne hs).trans (sget_sset_self _ _ _ _)
    · have hsays := Chip.loggedOrNotified_notice (c := held) hr hworld
      rw [← h2] at hsays ⊢
      exact hsays
  · exact ⟨_, hdoes.congr (Pkg.acceptReport_safe hr hopen (hsev.trans h4)), Chip.enterSafe_safe _⟩

theorem reportOverflow_does (s : State) (u : Nat) (hu : unitOk u = true) (hlost : sget 0 u s.chip.fcLost ≠ 0)
    (hroom : (sget [] u s.chip.fcHold).length < 16) (hnone : ∀ r ∈ sget [] u s.chip.fcHold, r.source ≠ 15) : Gives (.reportOverflow u) s
      (({ s.chip with fcLost := sset 0 u 0 s.chip.fcLost } : Chip).report u 15 (unitRid u) 1 15 0 (sget 0 u s.chip.fcLost)) := by
  refine gives_of_onChip rfl hu (if_neg ?_)
  rintro (h | h | h)
  · exact hlost h
  · omega
  · obtain ⟨r, hr, h15⟩ := List.any_eq_true.1 h
    exact hnone r hr (beq_iff_eq.1 h15)

-- clearing

theorem clears_cases (s : State) (who : Who) (n : Nat) (hn : n < 1536) : let r := Reg.FC_SRC n
    let open_ : Bool := s.chip.bit r F.FC_SRC_PEND && !s.chip.bit .FC_STATUS F.FC_STATUS_SAFE_RESET_ONLY
    let lasts : Bool := levelSource n && s.chip.bit r F.FC_SRC_CAUSE
    (who.sealed = true → open_ = true → lasts = false →
      Gives (.pendClear who n) s (s.chip.setBit r F.FC_SRC_PEND false).leaveSafe)
    ∧ (who.sealed = true → open_ = true → lasts = true → ∃ t, exec (.pendClear who n) s = .next t
      ∧ t.chip.bit r F.FC_SRC_PEND = true ∧ t.chip.bit .FC_STATUS F.FC_STATUS_CLEAR_FAIL = true
      ∧ t.chip.fld .FC_STATUS F.FC_STATUS_CLEAR_FAIL_SRC = n)
    ∧ (who.sealed = true → open_ = false → Gives (.pendClear who n) s s.chip)
    ∧ (who.sealed = false → Gives (.pendClear who n) s (s.chip.refuseWrite who r))
    ∧ (∀ v : Word,
      (who.sealed = true → F.FC_SRC_PEND.get v = 0 → n ≠ 0 → F.FC_SRC_SEV.get v ≤ 4 →
        Gives (.fcSrcWrite who n v) s (s.chip.setFld r F.FC_SRC_SEV (F.FC_SRC_SEV.get v)))
      ∧ (who.sealed = true → F.FC_SRC_PEND.get v = 0 → n = 0 ∨ 4 < F.FC_SRC_SEV.get v → Gives (.fcSrcWrite who n v) s s.chip)
      ∧ (who.sealed = false → Gives (.fcSrcWrite who n v) s (s.chip.refuseWrite who r)))
    ∧ (levelSource n = true → s.chip.condHolds n = false → Gives (.faultConditionEnd n) s (s.chip.setCause n false))
    ∧ (s.chip.condHolds n = true → Gives (.faultConditionEnd n) s s.chip) := by
  intro r open_ lasts
  have hok : sourceOk n = true := decide_eq_true hn
  have hopen : open_ = true → ¬ (!s.chip.bit (.FC_SRC n) F.FC_SRC_PEND || s.chip.bit .FC_STATUS F.FC_STATUS_SAFE_RESET_ONLY) = true :=
    fun h => by
      obtain ⟨hpend, hreset⟩ := (Bool.and_eq_true _ _).mp h
      rw [show s.chip.bit (.FC_SRC n) F.FC_SRC_PEND = true from hpend, (Bool.not_eq_true' _).mp hreset]
      decide
  have hpend : open_ = true → s.chip.bit r F.FC_SRC_PEND = true := fun h => ((Bool.and_eq_true _ _).mp h).1
  have hclosed : open_ = false → (!s.chip.bit (.FC_SRC n) F.FC_SRC_PEND || s.chip.bit .FC_STATUS F.FC_STATUS_SAFE_RESET_ONLY) = true :=
    fun h => by
      rcases (Bool.and_eq_false_iff).mp h with h | h
      · rw [show s.chip.bit (.FC_SRC n) F.FC_SRC_PEND = false from h]
        rfl
      · rw [(Bool.not_eq_false' _).mp h, Bool.or_true]
  have hforeign : who.sealed = false → ¬ who.sealed = true := fun h => by rw [h]; decide
  refine ⟨fun hw ho hl => gives_of_onChip rfl hok ((if_pos hw).trans ((if_neg (hopen ho)).trans (if_neg (ne_true_of_eq_false hl)))),
    fun hw ho hl => ⟨_, gives_of_onChip rfl hok ((if_pos hw).trans ((if_neg (hopen ho)).trans (if_pos hl))), ?_, ?_, ?_⟩,
    fun hw ho => gives_of_onChip rfl hok ((if_pos hw).trans (if_pos (hclosed ho))),
    fun hw => gives_of_onChip rfl hok (if_neg (hforeign hw)), fun v => ⟨fun hw hv h0 hle => ?_, fun hw hv h => ?_,
      fun hw => gives_of_onChip rfl hok (if_neg (hforeign hw))⟩, fun hl hc => ?_, fun hc => ?_⟩
  · exact (Chip.bit_setFld_ne _ _ _ _ (by simp only [r, Reg.offset]; omega)).trans
      ((Chip.bit_setBit_ne _ _ _ _ (by simp only [r, Reg.offset]; omega)).trans (hpend ho))
  · exact (Chip.bit_setFld_apart _ _ _ (by decide)).trans (Chip.bit_setBit _ _ _ _ (by decide) (by decide))
  · refine Chip.fld_setFld_of_lt _ _ _ (by decide) (by decide) ?_
    rw [show 2 ^ F.FC_STATUS_CLEAR_FAIL_SRC.width = 2048 from rfl]
    omega
  · exact gives_of_onChip rfl hok ((if_pos hw).trans ((if_neg (by rw [hv]; decide)).trans (if_neg (by omega))))
  · exact gives_of_onChip rfl hok ((if_pos hw).trans ((if_neg (by rw [hv]; decide)).trans (if_pos h)))
  · exact gives_of_onChip rfl hok (if_pos (by rw [hl, hc]; rfl))
  · exact gives_of_onChip rfl hok (if_neg (by rw [hc, Bool.not_true, Bool.and_false]; decide))

-- a parity error of the collector

theorem collectorParityError_does (s : State) : ∃ t, exec .collectorParityError s = .next t
    ∧ t.chip.bit .FC_STATUS F.FC_STATUS_SAFE_RESET_ONLY = true ∧ t.chip.bit (.FC_SRC 0) F.FC_SRC_CAUSE = true
    ∧ t.chip.uz.resetPending = true ∧ (s.chip.bit .FC_STATUS F.FC_STATUS_SAFE_RESET_ONLY = false → t.chip.safe = true) := by
  let r : Report := { source := 0, rid := ioUnitRid (Config.freeNat s.chip.free), world := 1, acc := 15, detail := 0, addr := 0,
                      time := s.chip.now }
  let p : Pkg := s.toPkg.onChip (fun c => c.nextFree.setCause 0 true)
  let q : Pkg := p.acceptReport r
  have hdoes : GivesPkg .collectorParityError s (q.onChip (fun c => (c.setBit .FC_STATUS F.FC_STATUS_SAFE_RESET_ONLY true).onUz (fun u =>
      { u with resetPending := true }))) := givesPkg_of_onPkg (ok := true) rfl rfl rfl
  have hcause : p.chip.bit (.FC_SRC 0) F.FC_SRC_CAUSE = true := Chip.setCause_cause _ _ _
  have hreset : p.chip.bit .FC_STATUS F.FC_STATUS_SAFE_RESET_ONLY = s.chip.bit .FC_STATUS F.FC_STATUS_SAFE_RESET_ONLY :=
    Chip.bit_setBit_ne _ _ _ _ (by decide)
  have hq : q.chip.bit (.FC_SRC 0) F.FC_SRC_CAUSE = true
      ∧ (s.chip.bit .FC_STATUS F.FC_STATUS_SAFE_RESET_ONLY = false → q.chip.safe = true) := by
    by_cases hr : p.chip.bit .FC_STATUS F.FC_STATUS_SAFE_RESET_ONLY = true
    · refine ⟨?_, fun h => absurd (hreset.symm.trans hr) (by rw [h]; decide)⟩
      have hclosed : q.chip = (p.chip.countSource 0 1).faultRecord r 0 0 := Pkg.acceptReport_closed (show r.source < 1536 from Nat.zero_lt_succ _) hr
      rw [hclosed, Chip.bit_of_reg (Chip.reg_faultRecord_ne _ _ _ _ (by decide)), Chip.countSource_cause, hcause]
    · have hsafe : q = p.onChip (fun c => c.madeSafe r) :=
        Pkg.acceptReport_safe (show r.source < 1536 from Nat.zero_lt_succ _) (eq_false_of_ne_true hr) rfl
      rw [hsafe, Pkg.onChip_chip]
      refine ⟨?_, fun _ => Chip.enterSafe_safe _⟩
      rw [Chip.bit_of_reg (p.chip.madeSafe_src r (by decide)), Chip.noted_cause _ _ _ (by decide), hcause]
  refine ⟨_, hdoes, Chip.bit_setBit _ _ _ _ (by decide) (by decide), ?_, rfl, fun h => ?_⟩
  · exact (Chip.bit_setBit_ne q.chip _ _ _ (by decide)).trans hq.1
  · exact (Chip.bit_setBit_apart q.chip _ _ (by decide)).trans (hq.2 h)

-- mending

theorem mend_cases (s : State) (a i b loc t : Nat) (rest : List (Nat × Nat)) (hok : bankOk a i b = true) : let k := bankKey a i b
    (s.chip.bank k).mends = (loc, t) :: rest → Gives (.mend a i b) s (s.chip.onBank k (fun x => x.rewritten loc))
      ∧ (t + 5000 ≤ s.chip.now → Gives (.mendForced a i b) s (s.chip.onBank k (fun x => x.rewritten loc)))
      ∧ (s.chip.now < t + 5000 → Gives (.mendForced a i b) s s.chip) := by
  intro k hm
  have hmend : s.chip.mend k = s.chip.onBank k (fun x => x.rewritten loc) := by
    rw [Chip.mend, Chip.onBank, hm, Chip.onBank]
  have hforced : s.chip.mendForced k = if t + 5000 ≤ s.chip.now then s.chip.mend k else s.chip := by rw [Chip.mendForced, hm]
  exact ⟨gives_of_onChip rfl hok hmend, fun h => gives_of_onChip rfl hok (hforced.trans ((if_pos h).trans hmend)),
    fun h => gives_of_onChip rfl hok (hforced.trans (if_neg (by omega)))⟩

/-- Settles O47: an occurrence by what noting and applying it leave of the collector's registers; the others by their functions. -/
theorem faultCollector : Obligations.FaultCollector := by
  unfold Obligations.FaultCollector
  exact ⟨faultReport_cases, reportOverflow_does, clears_cases, collectorParityError_does, mend_cases⟩

end Sys2Proof.Machine
end

section
/-! Snoops at a die (R181, R185, R186). -/

namespace Sys2Proof.Machine

-- copies that leave

theorem Chip.dropL2_l2at (c : Chip) (k line h : Nat) : (c.dropL2 k line).l2at h line = if h = k then L2Line.invalid else c.l2at h line := by
  have hl2 : (c.dropL2 k line).l2 = sset L2Line.invalid (l2Key k line) L2Line.invalid c.l2 := by
    rw [Chip.dropL2, Chip.onHart_l2, Chip.setL2]
  rw [Chip.l2at, hl2]
  split
  next e => rw [e, sget_sset_self]
  next e => rw [sget_sset_ne _ _ (by simp only [l2Key]; omega), ← Chip.l2at]

theorem Chip.dropAll_l2at (line h : Nat) (l : List Nat) (c : Chip) :
    (l.foldl (fun x k => x.dropL2 k line) c).l2at h line = if h ∈ l then L2Line.invalid else c.l2at h line := by
  induction l generalizing c with
  | nil => rw [List.foldl_nil, if_neg List.not_mem_nil]
  | cons k l ih =>
    rw [List.foldl_cons, ih, Chip.dropL2_l2at]
    by_cases hl : h ∈ l
    · rw [if_pos hl, if_pos (List.mem_cons_of_mem _ hl)]
    · rw [if_neg hl]
      exact if_congr (by rw [List.mem_cons]; tauto) rfl rfl

theorem mem_dieHarts {d h : Nat} (hd : h / 24 = d) : h ∈ dieHarts d :=
  List.mem_map.2 ⟨h % 24, List.mem_range.2 (Nat.mod_lt _ (by decide)), by omega⟩

theorem Chip.lndInval_l2 (c : Chip) (d line : Nat) : (c.lndInval d line).l2 = c.l2 := by
  unfold Chip.lndInval
  split <;> rfl

/-- A die that gives up a line keeps no copy in an L2. -/
theorem Chip.dieDrop_invalid (c : Chip) {d h : Nat} (line : Nat) (hd : h / 24 = d) : ((c.dieDrop d line).l2at h line).st = .I := by
  have hl2 : (c.dieDrop d line).l2at h line = ((c.holders d line).foldl (fun x k => x.dropL2 k line) c).l2at h line := by
    rw [Chip.l2at, Chip.dieDrop, Chip.lndInval_l2, ← Chip.l2at]
  rw [hl2, Chip.dropAll_l2at]
  split
  · rfl
  next hnot =>
    by_contra hst
    exact hnot (List.mem_filter.2 ⟨mem_dieHarts hd, bne_iff_ne.2 hst⟩)

theorem Chip.snoop_takes (c : Chip) {m : Msg} (h : m.kind = .SNP_OWN ∨ m.kind = .SNP_INV ∨ m.kind = .BACK_INV) :
    ∃ own, c.snoop m = c.snoopTake m.die m.line own := by
  rcases h with h | h | h
  · exact ⟨true, by rw [Chip.snoop, h]⟩
  · exact ⟨false, by rw [Chip.snoop, h]⟩
  · exact ⟨false, by rw [Chip.snoop, h]⟩

theorem snoop_takesAll (c : Chip) (m : Msg) (h : Nat) (hk : m.kind = .SNP_OWN ∨ m.kind = .SNP_INV ∨ m.kind = .BACK_INV)
    (hd : h / 24 = m.die) : ((c.snoop m).1.l2at h m.line).st = .I := by
  obtain ⟨own, hown⟩ := c.snoop_takes hk
  rw [hown, Chip.snoopTake_eq]
  exact c.dieDrop_invalid m.line hd

-- the one modified copy

/-- The one copy of a die, in M, is its strongest. -/
theorem Chip.strongest_of_modified {c : Chip} {d line h : Nat} (hone : c.holders d line = [h]) (hst : (c.l2at h line).st = .M)
    (hwb : c.wbOf d line = none) : c.strongest d line = (.M, (c.l2at h line).data, (c.l2at h line).poison, false) := by
  rw [Chip.strongest, hone, hwb]
  simp [hst, Moesi.rank]

theorem Chip.l2at_setL2 (c : Chip) (h line : Nat) (l : L2Line) : (c.setL2 h line l).l2at h line = l := sget_sset_self _ _ _ _

theorem Chip.setLnd_l2at (c : Chip) (d line : Nat) (v : Option LndLine) (h k : Nat) : (c.setLnd d line v).l2at h k = c.l2at h k := (rfl)

theorem Chip.lndUnshadow_l2at (c : Chip) (d line h k : Nat) : (c.lndUnshadow d line).l2at h k = c.l2at h k := by
  unfold Chip.lndUnshadow
  split
  · split
    · exact Chip.setLnd_l2at _ _ _ _ _ _
    · rfl
  · rfl

theorem Chip.dieMap_of_one {c : Chip} {d line h : Nat} (hone : c.holders d line = [h]) (f : Moesi → Moesi) :
    ((c.dieMap d line f).l2at h line).st = f (c.l2at h line).st := by
  rw [Chip.dieMap, hone]
  exact congrArg L2Line.st (c.l2at_setL2 h line _)

theorem snoop_modified (c : Chip) (m : Msg) (h : Nat) (hone : c.holders m.die m.line = [h]) (hst : (c.l2at h m.line).st = .M)
    (hwb : c.wbOf m.die m.line = none) : let l := c.l2at h m.line
    (m.kind = .SNP_SHARED → ((c.snoop m).1.l2at h m.line).st = .O
      ∧ (c.snoop m).2 = { held := 2, dcode := 2, dirty := true, poison := l.poison, data := l.data })
    ∧ (m.kind = .SNP_CLEAN → ((c.snoop m).1.l2at h m.line).st = .E
      ∧ (c.snoop m).2 = { held := 3, dcode := 1, dirty := true, poison := l.poison, data := l.data })
    ∧ (m.kind = .SNP_ONCE → c.snoop m = (c, { held := 3, dcode := 1, dirty := true, poison := l.poison, data := l.data })) := by
  intro l
  have hbest := Chip.strongest_of_modified hone hst hwb
  refine ⟨fun hk => ?_, fun hk => ?_, fun hk => ?_⟩
  · have hsnoop : c.snoop m = c.snoopShared m.die m.line := by rw [Chip.snoop, hk]
    rw [hsnoop, Chip.snoopShared, hbest]
    refine ⟨?_, rfl⟩
    exact (congrArg L2Line.st (Chip.lndUnshadow_l2at _ _ _ _ _)).trans ((Chip.dieMap_of_one hone _).trans (by rw [hst]))
  · have hsnoop : c.snoop m = c.snoopClean m.die m.line := by rw [Chip.snoop, hk]
    rw [hsnoop, Chip.snoopClean, hbest]
    refine ⟨?_, rfl⟩
    exact (Chip.dieMap_of_one hone (fun s => match s with | .M => .E | .O => .S | x => x)).trans (by rw [hst])
  · have hsnoop : c.snoop m = c.snoopOnce m.die m.line m.repair := by rw [Chip.snoop, hk]
    rw [hsnoop, Chip.snoopOnce, hbest]
    rfl

-- a snoop arrives

theorem Chip.arrive_dieUp (c : Chip) (m : Msg) (d : Nat) : (c.arrive m).dieUp d = c.dieUp d := by
  rw [Chip.dieUp, Chip.arrive_dieState, ← Chip.dieUp]

theorem Chip.arrive_dieHolds (c : Chip) (m : Msg) (d line : Nat) : (c.arrive m).dieHolds d line = c.dieHolds d line := by
  obtain ⟨n, d, l, g, h⟩ := c.arrive_form m
  rw [h]
  rfl

theorem Chip.snoopArrive_cases (c : Chip) (m : Msg) (hq : c.snoopQ = []) :
    (c.dieUp m.die = true → c.dieHolds m.die m.line = false →
      c.snoopArrive m = (((c.arrive m).answerSnoop m).runDie m.die).retryInstalls m.die)
    ∧ (c.dieUp m.die = true → c.dieHolds m.die m.line = true → c.snoopArrive m = { c.arrive m with snoopQ := [m] })
    ∧ (c.dieUp m.die = false → c.snoopArrive m = c.arrive m) := by
  have hempty : (c.arrive m).snoopQ = [] := (c.arrive_snoopQ m).trans hq
  refine ⟨fun hup hfree => ?_, fun hup hheld => ?_, fun hdown => if_pos (by rw [Chip.arrive_dieUp, hdown]; rfl)⟩
  · exact (if_neg (by rw [Chip.arrive_dieUp, hup]; decide)).trans
      (if_neg (by rw [Chip.arrive_dieHolds, hfree, hempty]; simp))
  · refine (if_neg (by rw [Chip.arrive_dieUp, hup]; decide)).trans
      ((if_pos (by rw [Chip.arrive_dieHolds, hheld]; rfl)).trans ?_)
    rw [hempty]
    rfl

/-- The six snoops are performed alike. -/
theorem snoops_do (s : State) (m : Msg) (hline : m.line < 2 ^ 46) (hd : m.die < 12) (hc : s.chip.canArrive m = true) :
    ∀ r ∈ ([(.snpShared m, .SNP_SHARED), (.snpOwn m, .SNP_OWN), (.snpInv m, .SNP_INV), (.snpOnce m, .SNP_ONCE), (.snpClean m, .SNP_CLEAN),
      (.backInv m, .BACK_INV)] : List (Instr × MsgKind)), m.kind = r.2 → Gives r.1 s (s.chip.snoopArrive m) := by
  have hok : ∀ k, m.kind = k → (m.fits k && decide (m.die < 12)) = true := fun k hk => by
    rw [Msg.fits, hk, beq_self_eq_true, decide_eq_true hline, decide_eq_true (by omega), decide_eq_true hd]
    rfl
  intro r hr hk
  simp only [List.mem_cons, List.not_mem_nil, or_false] at hr
  rcases hr with rfl | rfl | rfl | rfl | rfl | rfl <;> exact gives_of_onChip rfl (hok _ hk) (if_pos hc)

theorem snoops_cases (s : State) (m : Msg) (hline : m.line < 2 ^ 46) (hd : m.die < 12) (hc : s.chip.canArrive m = true) :
    ∀ r ∈ ([(.snpShared m, .SNP_SHARED), (.snpOwn m, .SNP_OWN), (.snpInv m, .SNP_INV), (.snpOnce m, .SNP_ONCE), (.snpClean m, .SNP_CLEAN),
        (.backInv m, .BACK_INV)] : List (Instr × MsgKind)), m.kind = r.2 →
    (s.chip.dieUp m.die = true → s.chip.snoopQ = [] → s.chip.dieHolds m.die m.line = false →
      Gives r.1 s ((((s.chip.arrive m).answerSnoop m).runDie m.die).retryInstalls m.die))
    ∧ (s.chip.dieUp m.die = true → s.chip.snoopQ = [] → s.chip.dieHolds m.die m.line = true →
      Gives r.1 s { s.chip.arrive m with snoopQ := [m] })
    ∧ (s.chip.dieUp m.die = false → Gives r.1 s (s.chip.arrive m)) := by
  intro r hr hk
  have hdoes := snoops_do s m hline hd hc r hr hk
  refine ⟨fun hup hq hfree => ?_, fun hup hq hheld => ?_, fun hdown => ?_⟩
  · rwa [(s.chip.snoopArrive_cases m hq).1 hup hfree] at hdoes
  · rwa [(s.chip.snoopArrive_cases m hq).2.1 hup hheld] at hdoes
  · rwa [show s.chip.snoopArrive m = s.chip.arrive m from if_pos (by rw [Chip.arrive_dieUp, hdown]; rfl)] at hdoes

/-- Settles O34: the six snoops by the function that performs them, the copies they take or weaken by the die's one strongest copy. -/
theorem dieSnoops : Obligations.DieSnoops := by
  unfold Obligations.DieSnoops
  exact ⟨snoops_cases, snoop_takesAll, snoop_modified⟩

end Sys2Proof.Machine
end

section
/-! What the steps of a home leave of its directory and its transactions (R177 to R187, R195). -/

namespace Sys2Proof.Machine

-- what serving data leaves

/-- The home's books are kept: its directory, its transactions and its queue stay, and no message on its way is lost. -/
structure Chip.KeepsHome (c d : Chip) : Prop where
  dir : d.dir = c.dir
  txn : d.txn = c.txn
  homeQ : d.homeQ = c.homeQ
  net : ∀ x ∈ c.net, x ∈ d.net

theorem Chip.KeepsHome.refl (c : Chip) : c.KeepsHome c := ⟨rfl, rfl, rfl, fun _ h => h⟩

theorem Chip.KeepsHome.trans {a b c : Chip} (h : a.KeepsHome b) (h' : b.KeepsHome c) : a.KeepsHome c :=
  ⟨h'.dir.trans h.dir, h'.txn.trans h.txn, h'.homeQ.trans h.homeQ, fun x hx => h'.net x (h.net x hx)⟩

theorem Chip.SameBesideHalls.keepsHome {c d : Chip} (h : c.SameBesideHalls d) : c.KeepsHome d :=
  ⟨(congrArg Chip.dir h.rest : _), (congrArg Chip.txn h.rest : _), (congrArg Chip.homeQ h.rest : _),
    fun x hx => by
      have hn : d.net = c.net := (congrArg Chip.net h.rest : _)
      rwa [hn]⟩

theorem Chip.send_keepsHome (c : Chip) (m : Msg) : c.KeepsHome (c.send m) := ⟨rfl, rfl, rfl, fun _ h => List.mem_append_left _ h⟩

theorem Chip.sendDie_keepsHome (c : Chip) (m : Msg) : c.KeepsHome (c.sendDie m) := by
  unfold Chip.sendDie
  split
  · exact Chip.KeepsHome.refl c
  · exact c.send_keepsHome m

theorem Chip.setFld_keepsHome (c : Chip) (r : Reg) (f : Field) (n : Nat) : c.KeepsHome (c.setFld r f n) := ⟨rfl, rfl, rfl, fun _ h => h⟩

theorem Chip.sendData_keepsHome (c : Chip) (m : Msg) (v : Line) (poison : Bool) : c.KeepsHome (c.sendData m v poison) :=
  (c.setFld_keepsHome _ _ _).trans (Chip.sendDie_keepsHome _ _)

theorem Chip.answered_of_kept {m : Msg} (hk : m.kind ≠ .RD_ONCE) (c : Chip) : c.answered m = c := if_neg hk

theorem Chip.waitTread_keepsHome (c : Chip) (t : TreadReq) : c.KeepsHome (c.waitTread t) := ⟨rfl, rfl, rfl, fun _ h => h⟩

theorem Pkg.readChannel_keepsHome (p : Pkg) {m : Msg} (alloc : Bool) (hk : m.kind ≠ .RD_ONCE) :
    p.chip.KeepsHome (p.readChannel m alloc).chip := by
  unfold Pkg.readChannel
  split
  · exact Chip.send_keepsHome _ _
  · split
    · rw [Pkg.onChip_chip, Chip.answered_of_kept hk]
      exact Chip.sendDie_keepsHome _ _
    · exact Chip.waitTread_keepsHome _ _

theorem Pkg.homeData_keepsHome (p : Pkg) {m : Msg} (hk : m.kind ≠ .RD_ONCE) : p.chip.KeepsHome (p.homeData m).chip := by
  unfold Pkg.homeData
  dsimp only
  split
  · exact p.readChannel_keepsHome _ hk
  · split
    · split
      · exact (p.hcEvict_same _ _ _).keepsHome.trans (Pkg.readChannel_keepsHome _ _ hk)
      · rw [Pkg.onChip_chip, Chip.answered_of_kept hk]
        exact (Chip.useHc_same _ _ _).keepsHome.trans (Chip.sendData_keepsHome _ _ _ _)
    · exact p.readChannel_keepsHome _ hk

-- the directory

theorem Chip.dirAt_setDir (c : Chip) (line : Nat) (e : DirEntry) : (c.setDir line e).dirAt line = e := sget_sset_self _ _ _ _

theorem Chip.dirAt_setDir_ne (c : Chip) {line k : Nat} (e : DirEntry) (h : k ≠ line) : (c.setDir line e).dirAt k = c.dirAt k :=
  sget_sset_ne _ _ h _ _

theorem wroteWord_waysOff (a i b w : Nat) (m : Sparse Bank) (k : Nat) :
    (sget Bank.reset k (wroteWord a i b w m)).waysOff = (sget Bank.reset k m).waysOff := by
  unfold wroteWord
  dsimp only
  by_cases h : k = bankKey a i b
  · rw [h, sget_sset_self]
    rfl
  · rw [sget_sset_ne _ _ h]

theorem wroteDir_waysOff (set : Nat × Nat) (way : Option Nat) (m : Sparse Bank) (k : Nat) :
    (sget Bank.reset k (wroteDir set way m)).waysOff = (sget Bank.reset k m).waysOff := by
  unfold wroteDir
  split
  · rfl
  · dsimp only
    rw [wroteWord_waysOff, wroteWord_waysOff]

/-- Two chips whose directories read alike, with the same ways out of use, and that are alike beside. -/
structure Chip.SameDirs (c d : Chip) : Prop where
  rest : d = { c with dir := d.dir, banks := d.banks }
  dirAt : ∀ l, d.dirAt l = c.dirAt l
  waysOff : ∀ k, (sget Bank.reset k d.banks).waysOff = (sget Bank.reset k c.banks).waysOff

theorem Chip.SameDirs.refl (c : Chip) : c.SameDirs c := ⟨rfl, fun _ => rfl, fun _ => rfl⟩

theorem Chip.SameDirs.trans {a b c : Chip} (h : a.SameDirs b) (h' : b.SameDirs c) : a.SameDirs c :=
  ⟨by rw [h'.rest, h.rest], fun l => (h'.dirAt l).trans (h.dirAt l), fun k => (h'.waysOff k).trans (h.waysOff k)⟩

/-- An entry written as it reads. -/
theorem Chip.setDir_sameDirs {c : Chip} {line : Nat} {e : DirEntry} (h : c.dirAt line = e) : c.SameDirs (c.setDir line e) := by
  refine ⟨rfl, fun l => ?_, fun k => wroteDir_waysOff _ _ _ _⟩
  by_cases hl : l = line
  · rw [hl, Chip.dirAt_setDir, h]
  · exact c.dirAt_setDir_ne e hl

theorem Chip.SameDirs.dirFreeWay {c d : Chip} (h : c.SameDirs d) (line : Nat) : d.dirFreeWay line = c.dirFreeWay line := by
  have hset : ∀ l, d.dirSetOf l = c.dirSetOf l := fun l => by rw [h.rest]; rfl
  have htxn : ∀ l, d.txnOf l = c.txnOf l := fun l => by rw [h.rest]; rfl
  have hway : d.dirWay = c.dirWay := by rw [h.rest]
  have hhall : d.homeHall line = c.homeHall line := by rw [h.rest]; rfl
  have hlocal : d.homeLocal line = c.homeLocal line := by rw [h.rest]; rfl
  have hlines : d.dirSetLines line = c.dirSetLines line := by
    unfold Chip.dirSetLines
    simp only [hset, htxn, hway, h.dirAt]
  have hways : d.dirWays line = c.dirWays line := by
    unfold Chip.dirWays
    simp only [hhall, hlocal, h.waysOff]
  unfold Chip.dirFreeWay Chip.dirInWay
  simp only [hways, hlines, hway]

-- dies that are lost

theorem Chip.lostAt_of_alive {c : Chip} {d : Nat} (h : c.dieLost d = false) (line : Nat) : c.lostAt d line = false := by
  rw [Chip.lostAt, h, Bool.false_and]

theorem Chip.lostNone {c : Chip} (h : c.NoneLost) (line : Nat) : (List.range 12).filter (fun d => c.lostAt d line) = [] :=
  List.filter_eq_nil_iff.2 fun d hd => by rw [Chip.lostAt_of_alive (h d (List.mem_range.1 hd))]; decide

theorem Pkg.purgeLine_of_noneLost {p : Pkg} (h : p.chip.NoneLost) (line : Nat) : p.purgeLine line = p := by
  rw [Pkg.purgeLine, Chip.lostNone h]
  rfl

/-- A line that no die holds has nothing to purge. -/
theorem Pkg.purgeLost_of_none {p : Pkg} {line : Nat} (h : p.chip.dirAt line = DirEntry.none) (d : Nat) :
    p.purgeLost d line = p.onChip (fun c => c.setDir line DirEntry.none) := by
  rw [Pkg.purgeLost, h]
  rfl

theorem Pkg.purgeLine_of_none {p : Pkg} {line : Nat} (h : p.chip.dirAt line = DirEntry.none) :
    ∃ x, p.purgeLine line = { p with chip := x } ∧ p.chip.SameDirs x := by
  have hfold : ∀ (l : List Nat) (q : Pkg), q.chip.dirAt line = DirEntry.none →
      ∃ x, l.foldl (fun q d => q.purgeLost d line) q = { q with chip := x } ∧ q.chip.SameDirs x := fun l => by
    induction l with
    | nil => exact fun q _ => ⟨q.chip, rfl, Chip.SameDirs.refl _⟩
    | cons d l ih =>
      intro q hq
      have hsame := Chip.setDir_sameDirs hq
      obtain ⟨x, hx, hs⟩ := ih (q.onChip (fun c => c.setDir line DirEntry.none)) ((hsame.dirAt line).trans hq)
      exact ⟨x, by rw [List.foldl_cons, Pkg.purgeLost_of_none hq, hx]; rfl, hsame.trans hs⟩
  exact hfold _ p h

-- a grant

theorem Chip.txnOf_setTxn (c : Chip) (t : Txn) : (c.setTxn t).txnOf t.req.line = some t := by
  have hnone : (c.txn.filter (fun x => x.req.line != t.req.line)).find? (fun x => x.req.line == t.req.line) = none :=
    List.find?_eq_none.2 fun x hx => by
      have := (List.mem_filter.1 hx).2
      simpa using this
  rw [Chip.txnOf, Chip.setTxn, List.find?_append, hnone]
  simp

theorem Chip.sendDie_of_alive {c : Chip} {m : Msg} (h : c.dieLost m.die = false) : c.sendDie m = c.send m :=
  if_neg (by rw [Chip.lostAt_of_alive h, Bool.and_false]; decide)

/-- A grant to a die that is not lost: the entry, the COMP, and the line stays occupied. -/
theorem Pkg.grant_spec (p : Pkg) {t : Txn} (e : DirEntry) (state src : Nat) (hk : t.req.kind ≠ .RD_ONCE)
    (halive : p.chip.dieLost t.req.die = false) :
    (p.grant t e state src).chip.dirAt t.req.line = e
    ∧ ({ t.req.reply .COMP with grant := state, src := src, poison := t.lost } : Msg) ∈ (p.grant t e state src).chip.net
    ∧ ((p.grant t e state src).chip.txnOf t.req.line).isSome = true ∧ (p.grant t e state src).chip.homeQ = p.chip.homeQ := by
  let x := (p.chip.setDir t.req.line e).setTxn { t with granted := true }
  let y : Msg := { t.req.reply .COMP with grant := state, src := src, poison := t.lost }
  have hx : x.dieLost t.req.die = false := halive
  have hsend : x.sendDie y = x.send y := Chip.sendDie_of_alive hx
  have hlost : (x.send y).lostAt t.req.die t.req.line = false := Chip.lostAt_of_alive (c := x.send y) hx _
  have hkeep : (x.send y).KeepsHome (p.grant t e state src).chip := by
    unfold Pkg.grant
    dsimp only [Pkg.onChip]
    rw [hsend, if_neg (by rw [hlost, Bool.and_false]; decide)]
    split
    · exact Pkg.homeData_keepsHome { p with chip := x.send y } hk
    · exact Chip.KeepsHome.refl _
  refine ⟨?_, hkeep.net y (List.mem_append_right _ (List.mem_singleton.2 rfl)), ?_, hkeep.homeQ⟩
  · rw [Chip.dirAt, hkeep.dir]
    exact p.chip.dirAt_setDir _ _
  · rw [Chip.txnOf, hkeep.txn]
    exact congrArg Option.isSome ((p.chip.setDir t.req.line e).txnOf_setTxn { t with granted := true })

/-- A request to own a line, answered by all, makes its die the owner in M. -/
theorem Pkg.finish_owns (p : Pkg) {t : Txn} (hk : t.req.kind = .RD_OWN ∨ t.req.kind = .UPGRADE ∨ t.req.kind = .RD_OWN_ZERO) :
    ∃ src, p.finish t = p.grant t (DirEntry.owned t.req.die) 3 src := by
  have hreads : (t.req.kind == .WR_PART) = false ∧ (t.req.kind == .IO_ATOMIC) = false := by
    rcases hk with hk | hk | hk <;> rw [hk] <;> decide
  unfold Pkg.finish
  simp only [hreads.1, hreads.2, Bool.false_and, Bool.or_false, Bool.and_false, Bool.false_eq_true, if_false]
  rcases hk with hk | hk | hk <;> rw [hk] <;> exact ⟨_, rfl⟩

end Sys2Proof.Machine
end

section
/-! Requests at a home (R177 to R187): how a request is started, and the settlement of O30. -/

namespace Sys2Proof.Machine

-- a request reaches its home

/-- A message that arrives leaves the chip but for where messages are on their way. -/
theorem Chip.arrive_leaves (c : Chip) (m : Msg) :
    ∃ n d l r, c.arrive m = { c with net := n, dlv := d, link := l, gal := { c.gal with released := r } } := by
  unfold Chip.arrive
  split
  · exact ⟨c.net, _, c.link, c.gal.released, rfl⟩
  · split
    · exact ⟨c.net, c.dlv, _, c.gal.released, rfl⟩
    · split
      · exact ⟨c.net, c.dlv, c.link, _, rfl⟩
      · obtain ⟨l, e⟩ := Chip.hear_form { c with net := dropFirst m c.net } m
        exact ⟨_, c.dlv, l, c.gal.released, e⟩

theorem Chip.arrive_homeTakes (c : Chip) (m : Msg) (line : Nat) : (c.arrive m).homeTakes line = c.homeTakes line := by
  obtain ⟨_, _, _, _, e⟩ := c.arrive_leaves m
  rw [e]
  rfl

theorem Chip.arrive_potWaits (c : Chip) (m : Msg) (line : Nat) : (c.arrive m).potWaits line = c.potWaits line := by
  unfold Chip.potWaits
  simp only [Chip.arrive_homeTakes]
  obtain ⟨_, _, _, _, e⟩ := c.arrive_form m
  rw [e]
  rfl

theorem Chip.arrive_dieLost (c : Chip) (m : Msg) (d : Nat) : (c.arrive m).dieLost d = c.dieLost d := by
  obtain ⟨_, _, _, _, e⟩ := c.arrive_form m
  rw [e]
  rfl

theorem Chip.arrive_noneLost {c : Chip} (m : Msg) (h : c.NoneLost) : (c.arrive m).NoneLost := fun d hd => (c.arrive_dieLost m d).trans (h d hd)

theorem Chip.arrive_wldCommitted (c : Chip) (m : Msg) : (c.arrive m).wldCommitted = c.wldCommitted := by
  obtain ⟨_, _, _, _, e⟩ := c.arrive_form m
  rw [e]
  rfl

theorem Chip.arrive_targetLine (c : Chip) (m : Msg) (line : Nat) : (c.arrive m).targetLine line = c.targetLine line := by
  obtain ⟨_, _, _, _, e⟩ := c.arrive_form m
  rw [e]
  rfl

theorem Chip.arrive_sameDirs (c : Chip) (m : Msg) (l : Nat) : (c.arrive m).dirAt l = c.dirAt l ∧ (c.arrive m).dirFreeWay l = c.dirFreeWay l := by
  obtain ⟨_, _, _, _, e⟩ := c.arrive_form m
  rw [e]
  exact ⟨rfl, rfl⟩

/-- A request to a home where nothing is under way is started at once. -/
theorem Pkg.arrive_of_free {p : Pkg} {m : Msg} (halive : m.die < 12 → p.chip.dieLost m.die = false) (htxn : p.chip.txn = [])
    (hqueue : p.chip.homeQ = []) (hpot : p.chip.potWaits m.line = false) :
    p.arrive m = ((p.onChip (fun c => c.arrive m)).startReq m).next := by
  have hlost : (decide (m.die < 12) && (p.chip.arrive m).lostAt m.die m.line) = false := by
    by_cases hd : m.die < 12
    · rw [Chip.lostAt_of_alive ((p.chip.arrive_dieLost m _).trans (halive hd)), Bool.and_false]
    · rw [decide_eq_false hd, Bool.false_and]
  have hmay : (p.chip.arrive m).mayStart m = true := by
    rw [Chip.mayStart, Chip.txnOf, Chip.arrive_txn, htxn, Chip.arrive_potWaits, hpot]
    simp
  unfold Pkg.arrive
  dsimp only
  rw [if_neg (by rw [Pkg.onChip_chip, hlost]; decide), if_neg (by rw [Pkg.onChip_chip, hmay, Chip.arrive_homeQ, hqueue]; exact Bool.false_ne_true)]

theorem potWaits_of_unchecked {c : Chip} (h : c.wldCommitted = false) (line : Nat) : c.potWaits line = false := by
  rw [Chip.potWaits, h, Bool.false_and]

/-- The requests of a compute die that read, own or maintain a line (R177, R183). -/
def homeRequests (m : Msg) : List (Instr × MsgKind) :=
  [(.rdShared m, .RD_SHARED), (.rdOwn m, .RD_OWN), (.upgrade m, .UPGRADE), (.rdOwnZero m, .RD_OWN_ZERO),
    (.cmoClean m, .CMO_CLEAN), (.cmoFlush m, .CMO_FLUSH), (.cmoInval m, .CMO_INVAL)]

theorem fits_of {m : Msg} {k : MsgKind} (hk : m.kind = k) (hline : m.line < 2 ^ 46) (hdie : m.die ≤ 12) : m.fits k = true := by
  rw [Msg.fits, hk, decide_eq_true hline, decide_eq_true hdie]
  cases k <;> rfl

theorem homeRequests_arrive {s : State} {m : Msg} (hline : m.line < 2 ^ 46) (hdie : m.die ≤ 12) (hcan : s.chip.canArrive m = true) :
    ∀ r ∈ homeRequests m, m.kind = r.2 → GivesPkg r.1 s (s.toPkg.arrive m) := by
  intro r hr hk
  have harr : s.toPkg.ifArrives m (fun q => q.arrive m) = s.toPkg.arrive m := if_pos hcan
  rw [← harr]
  simp only [homeRequests, List.mem_cons, List.not_mem_nil, or_false] at hr
  rcases hr with rfl | rfl | rfl | rfl | rfl | rfl | rfl <;> exact givesPkg_of_onPkg rfl (fits_of hk hline hdie) rfl

-- a request is started

/-- The transaction of a request, awaiting the dies that are snooped (R184). -/
def requestTxn (m : Msg) (e : DirEntry) (dies : List Nat) (now : Nat) : Txn :=
  { req := m, before := e, await := dies, got := none, ownerHeld := 0, fwd := false, fwdDirty := false, lost := false, granted := false, since := now }

/-- A snoop that the request of a die sends to another (R184). -/
def snoopMsg (m : Msg) (s : Nat × MsgKind) : Msg := { m.reply s.2 with die := s.1, fwd := m.die, rkind := m.rkind }

/-- The snoops of a transaction leave its home (R184). -/
def Chip.sendSnoops (c : Chip) (m : Msg) (sn : List (Nat × MsgKind)) : Chip := sn.foldl (fun x s => x.sendDie (snoopMsg m s)) c

theorem Chip.sendSnoops_cons (c : Chip) (m : Msg) (x : Nat × MsgKind) (sn : List (Nat × MsgKind)) :
    c.sendSnoops m (x :: sn) = (c.sendDie (snoopMsg m x)).sendSnoops m sn := rfl

theorem Chip.sendSnoops_keepsHome (c : Chip) (m : Msg) (sn : List (Nat × MsgKind)) : c.KeepsHome (c.sendSnoops m sn) := by
  induction sn generalizing c with
  | nil => exact Chip.KeepsHome.refl c
  | cons x sn ih =>
    rw [Chip.sendSnoops_cons]
    exact (c.sendDie_keepsHome _).trans (ih _)

theorem Chip.sendDie_dieLost (c : Chip) (m : Msg) (d : Nat) : (c.sendDie m).dieLost d = c.dieLost d := by
  unfold Chip.sendDie
  split <;> rfl

theorem Chip.mem_send (c : Chip) (m : Msg) : m ∈ (c.send m).net := List.mem_append_right _ (List.mem_singleton.2 rfl)

/-- The snoop to a die that is not lost is on its way. -/
theorem Chip.mem_sendSnoops {c : Chip} (m : Msg) {sn : List (Nat × MsgKind)} {x : Nat × MsgKind} (hsn : x ∈ sn)
    (h : c.dieLost x.1 = false) : snoopMsg m x ∈ (c.sendSnoops m sn).net := by
  induction sn generalizing c with
  | nil => exact absurd hsn List.not_mem_nil
  | cons y sn ih =>
    rw [Chip.sendSnoops_cons]
    rcases List.mem_cons.1 hsn with rfl | hsn
    · have hdie : c.dieLost (snoopMsg m x).die = false := h
      have hmem := c.mem_send (snoopMsg m x)
      rw [← Chip.sendDie_of_alive hdie] at hmem
      exact (Chip.sendSnoops_keepsHome _ m sn).net _ hmem
    · exact ih hsn ((c.sendDie_dieLost _ _).trans h)

theorem needsEntry_cases {k : MsgKind} (h : k.needsEntry = true) : k = .RD_SHARED ∨ k = .RD_OWN ∨ k = .UPGRADE ∨ k = .RD_OWN_ZERO := by
  revert h
  cases k <;> decide

/-- Before ownership checks are in force, a request for a line that no one die owns, and for which there is room, becomes a transaction. -/
theorem Pkg.startReq_of_room {p p1 room : Pkg} {m : Msg} {e : DirEntry} (hk : m.kind.needsEntry = true) (hun : p.chip.wldCommitted = false)
    (hrid : ridType m.rid = 0) (hown : p.chip.targetLine m.line = false) (hpurge : p.purgeLine m.line = p1) (he : p1.chip.dirAt m.line = e)
    (hst : e.state < 2) (hroom : (p1.onChip (fun c => c.setDir m.line e)).dirRoom m.line = (room, true)) :
    let sn := room.chip.snoops m e
    let t := requestTxn m e (sn.map (fun x => x.1)) p.chip.now
    let q := room.onChip (fun c => (c.setTxn t).sendSnoops m sn)
    p.startReq m = if sn = [] then q.finish t else q := by
  have hcheck : p.worldCheck m.rid m.world m.line = (p, 0, 0) := by
    rw [Pkg.worldCheck, hun, hrid]
    rfl
  unfold Pkg.startReq
  rcases needsEntry_cases hk with h | h | h | h <;>
    simp only [h, hcheck, hown, hpurge, he, MsgKind.needsEntry, hroom, Bool.false_and, Bool.false_eq_true, if_false, if_true,
      Nat.not_le.2 hst, false_and, and_false, ne_eq, not_true, OfNat.zero_ne_ofNat, reduceCtorEq, or_false, false_or] <;> rfl

-- O30

theorem Chip.useDir_keepsHome (c : Chip) (line : Nat) : c.KeepsHome (c.useDir line) := by
  unfold Chip.useDir
  split
  · exact ⟨rfl, rfl, rfl, fun _ h => h⟩
  · exact Chip.KeepsHome.refl c

theorem Chip.useDir_dieLost (c : Chip) (line d : Nat) : (c.useDir line).dieLost d = c.dieLost d := by
  unfold Chip.useDir
  split <;> rfl

/-- A line that the directory knows has its room (R180). -/
theorem Pkg.dirRoom_of_entry {p : Pkg} {line : Nat} (h : (p.chip.dirAt line).state ≠ 0) :
    p.dirRoom line = (p.onChip (fun c => c.useDir line), true) := if_pos h

/-- The other sharers of a line are told to give it up (R184). -/
theorem Chip.snoops_shared {c : Chip} {m : Msg} {e : DirEntry} (hk : m.kind = .RD_OWN ∨ m.kind = .UPGRADE ∨ m.kind = .RD_OWN_ZERO)
    (hst : e.state = 1) (hb : e.bcast = false) : c.snoops m e = (e.ptrs.filter (· ≠ m.die)).map (fun d => (d, MsgKind.SNP_INV)) := by
  have hsharers : c.sharersOf e [m.die] = e.ptrs.filter (· ≠ m.die) := by
    rw [Chip.sharersOf, hb]
    exact List.filter_congr fun d _ => by simp
  unfold Chip.snoops
  rcases hk with h | h | h <;> simp only [h, hst, hsharers]

/-- A request to own a line that others share: they are snooped, and the request awaits them. -/
theorem Pkg.startReq_shared {p : Pkg} {m : Msg} {e : DirEntry} {d : Nat} (hk : m.kind = .RD_OWN ∨ m.kind = .UPGRADE ∨ m.kind = .RD_OWN_ZERO)
    (hun : p.chip.wldCommitted = false) (hrid : ridType m.rid = 0) (hown : p.chip.targetLine m.line = false) (hnone : p.chip.NoneLost)
    (he : p.chip.dirAt m.line = e) (hst : e.state = 1) (hb : e.bcast = false) (hd : d ∈ e.ptrs) (hdm : d ≠ m.die) (hd12 : d < 12) :
    (p.startReq m).chip.dirAt m.line = e ∧ snoopMsg m (d, .SNP_INV) ∈ (p.startReq m).chip.net
    ∧ (p.startReq m).chip.homeQ = p.chip.homeQ
    ∧ ∃ x, (p.startReq m).chip.txnOf m.line = some x ∧ x.await = e.ptrs.filter (· ≠ m.die) := by
  let y := (p.chip.setDir m.line e).useDir m.line
  have hdir : ((p.onChip (fun c => c.setDir m.line e)).chip.dirAt m.line).state ≠ 0 := by
    rw [Pkg.onChip_chip, Chip.dirAt_setDir, hst]
    decide
  have hneeds : m.kind.needsEntry = true := by rcases hk with h | h | h <;> rw [h] <;> rfl
  have hstart := Pkg.startReq_of_room hneeds hun hrid hown (Pkg.purgeLine_of_noneLost hnone _) he (by omega)
    (Pkg.dirRoom_of_entry hdir)
  have hsn : y.snoops m e = (e.ptrs.filter (· ≠ m.die)).map (fun d => (d, MsgKind.SNP_INV)) := Chip.snoops_shared hk hst hb
  have hmem : (d, MsgKind.SNP_INV) ∈ y.snoops m e := by
    rw [hsn]
    exact List.mem_map.2 ⟨d, List.mem_filter.2 ⟨hd, by simpa using hdm⟩, rfl⟩
  have hawait : (y.snoops m e).map (fun x => x.1) = e.ptrs.filter (· ≠ m.die) := by rw [hsn, List.map_map]; exact List.map_id _
  let t := requestTxn m e ((y.snoops m e).map (fun x => x.1)) p.chip.now
  have hchip : (p.startReq m).chip = (y.setTxn t).sendSnoops m (y.snoops m e) := by
    rw [hstart]
    exact congrArg Pkg.chip (if_neg (List.ne_nil_of_mem hmem))
  have hkeep := (y.setTxn t).sendSnoops_keepsHome m (y.snoops m e)
  have hyk := (p.chip.setDir m.line e).useDir_keepsHome m.line
  rw [hchip]
  refine ⟨?_, Chip.mem_sendSnoops m hmem (((p.chip.setDir m.line e).useDir_dieLost m.line d).trans (hnone d hd12)),
    hkeep.homeQ.trans hyk.homeQ, t, ?_, hawait⟩
  · rw [Chip.dirAt, hkeep.dir]
    exact (congrArg (sget DirEntry.none m.line) hyk.dir).trans (p.chip.dirAt_setDir _ _)
  · rw [Chip.txnOf, hkeep.txn]
    exact y.txnOf_setTxn t

/-- The last sharer has answered: the die that asked owns the line in M. -/
theorem Pkg.answer_last {p : Pkg} {m : Msg} {x : Txn} (htxn : p.chip.txn = [x]) (hqueue : p.chip.homeQ = []) (hline : x.req.line = m.line)
    (hawait : x.await = [m.die]) (hk : x.req.kind = .RD_OWN ∨ x.req.kind = .UPGRADE ∨ x.req.kind = .RD_OWN_ZERO)
    (halive : p.chip.dieLost x.req.die = false) :
    (p.answer m).chip.dirAt m.line = DirEntry.owned x.req.die
    ∧ ∃ y ∈ (p.answer m).chip.net, y.kind = .COMP ∧ y.die = x.req.die ∧ y.line = m.line ∧ y.grant = 3 := by
  have hfound : (p.chip.arrive m).txnOf m.line = some x := by
    rw [Chip.txnOf, Chip.arrive_txn, htxn, List.find?_cons_of_pos (by rw [hline]; exact beq_self_eq_true _)]
  have hdrop : dropFirst m.die x.await = [] := by rw [hawait]; simp [dropFirst]
  have hin : x.await.contains m.die = true := by rw [hawait]; simp
  unfold Pkg.answer
  simp only [Pkg.onChip_chip, hfound, hin, hdrop, Bool.not_true, Bool.false_eq_true, if_false, if_true]
  generalize hx1 : ({ x with await := _, got := _, ownerHeld := _, fwd := _, fwdDirty := _ } : Txn) = x1
  have hreq : x1.req = x.req := by rw [← hx1]
  let p2 := (p.onChip (fun c => c.arrive m)).onChip (fun c => c.setTxn x1)
  obtain ⟨src, hfin⟩ := p2.finish_owns (t := x1) (by rw [hreq]; exact hk)
  have hq2 : p2.chip.homeQ = [] := (p.chip.arrive_homeQ m).trans hqueue
  have halive2 : p2.chip.dieLost x1.req.die = false := by rw [hreq]; exact (p.chip.arrive_dieLost m _).trans halive
  obtain ⟨hdir, hcomp, -, hq⟩ := p2.grant_spec (DirEntry.owned x1.req.die) 3 src
    (by rw [hreq]; rcases hk with h | h | h <;> rw [h] <;> decide) halive2
  have hclose : p2.close x1 = p2.finish x1 := by
    unfold Pkg.close
    rw [hfin]
    simp only [hq, hq2, List.find?_nil, Option.bind_fun_none]
  have hend : (p2.close x1).next = p2.grant x1 (DirEntry.owned x1.req.die) 3 src := by
    rw [hclose, hfin, Pkg.next_of_idle (hq.trans hq2)]
  have hd : x1.req.die = x.req.die := by rw [hreq]
  have hl : x1.req.line = m.line := by rw [hreq, hline]
  have hdirm : ((p2.close x1).next).chip.dirAt m.line = DirEntry.owned x.req.die := by rw [hend, ← hline, ← hreq]; exact hdir
  refine ⟨hdirm, { x1.req.reply .COMP with grant := 3, src := src, poison := x1.lost }, hend ▸ hcomp, rfl, hd, hl, rfl⟩

/-- COMP_ACK frees a line for which nothing waits (R187). -/
theorem Pkg.compAck_ends {p : Pkg} {m : Msg} {x : Txn} (htxn : p.chip.txn = [x]) (hqueue : p.chip.homeQ = []) (hline : x.req.line = m.line)
    (hgranted : x.granted = true) (hdie : x.req.die = m.die) (hnone : p.chip.NoneLost) :
    p.compAck m = p.onChip (fun c => { c.arrive m with txn := [] }) := by
  have hfound : (p.chip.arrive m).txnOf m.line = some x := by
    rw [Chip.txnOf, Chip.arrive_txn, htxn, List.find?_cons_of_pos (by rw [hline]; exact beq_self_eq_true _)]
  let q := p.onChip (fun c => { c.arrive m with txn := [] })
  have hend : (p.onChip (fun c => c.arrive m)).onChip (fun c => c.endTxn m.line) = q := by
    have htxn' : (p.chip.arrive m).endTxn m.line = { p.chip.arrive m with txn := [] } := by
      rw [Chip.endTxn, Chip.arrive_txn, htxn, List.filter_cons_of_neg (by rw [hline]; simp), List.filter_nil]
    exact congrArg (fun c => ({ p with chip := c } : Pkg)) htxn'
  have hq : q.chip.homeQ = [] := (p.chip.arrive_homeQ m).trans hqueue
  have hfirst : q.wbFirst m.line = q := by rw [Pkg.wbFirst, hq]; rfl
  have hpurge : q.purgeAfter m.line = q := by
    rw [Pkg.purgeAfter, hfirst]
    exact Pkg.purgeLine_of_noneLost (fun d hd => (p.chip.arrive_dieLost m d).trans (hnone d hd)) _
  unfold Pkg.compAck
  simp only [Pkg.onChip_chip, hfound, hgranted, hdie, beq_self_eq_true, Bool.and_self, if_true]
  rw [hend, hpurge, Pkg.next_of_idle hq]

/-- Settles O30: the home tells the other sharers, the last of whose answers makes the die that asked the owner, and COMP_ACK ends the
transaction. -/
theorem homeInvalidates : Obligations.HomeInvalidates := by
  unfold Obligations.HomeInvalidates
  refine ⟨?_, ?_, ?_⟩
  · intro s m e d hdie hidle hcan hrid he hst hb hd hdm hd12 hnone r hr hk
    have hmem : r ∈ homeRequests m := by
      simp only [List.mem_cons, List.not_mem_nil, or_false] at hr
      rcases hr with rfl | rfl | rfl <;> simp [homeRequests]
    have hown : m.kind = .RD_OWN ∨ m.kind = .UPGRADE ∨ m.kind = .RD_OWN_ZERO := by
      simp only [List.mem_cons, List.not_mem_nil, or_false] at hr
      rcases hr with rfl | rfl | rfl
      · exact .inl hk
      · exact .inr (.inl hk)
      · exact .inr (.inr hk)
    obtain ⟨hline, halive, htxn, hqueue, hun, htarget⟩ := hidle
    let p1 := s.toPkg.onChip (fun c => c.arrive m)
    obtain ⟨hdir, hnet, hq, hx⟩ := Pkg.startReq_shared (p := p1) hown ((s.chip.arrive_wldCommitted m).trans hun) hrid
      ((s.chip.arrive_targetLine m _).trans htarget) (s.chip.arrive_noneLost m hnone) ((s.chip.arrive_sameDirs m _).1.trans he) hst hb hd hdm hd12
    have hnext : s.toPkg.arrive m = p1.startReq m :=
      (Pkg.arrive_of_free halive htxn hqueue (potWaits_of_unchecked hun _)).trans
        (Pkg.next_of_idle (hq.trans ((s.chip.arrive_homeQ m).trans hqueue)))
    refine ⟨_, (homeRequests_arrive hline hdie.le hcan r hmem hk).congr hnext, hdir, hnet, hx⟩
  · intro s m x hk hline hdie hcan hcode htxn hqueue hx hawait hst hlost hown hxd halive
    have hdoes : GivesPkg (.rsp m) s (s.toPkg.ifArrives m (fun q => q.answer m)) :=
      givesPkg_of_onPkg rfl (fits_of hk hline hdie.le) rfl
    exact ⟨_, hdoes.congr (if_pos hcan), Pkg.answer_last (p := s.toPkg) htxn hqueue hx hawait hown halive⟩
  · intro s m x hk hline hdie hcan htxn hqueue hx hgranted hxd hnone
    have hdoes : GivesPkg (.compAck m) s (s.toPkg.ifArrives m (fun q => q.compAck m)) :=
      givesPkg_of_onPkg rfl (fits_of hk hline hdie) rfl
    exact hdoes.congr ((if_pos hcan).trans (Pkg.compAck_ends (p := s.toPkg) htxn hqueue hx hgranted hxd hnone))

end Sys2Proof.Machine
end

section
/-! The home grants an idle line and refuses by ownership (R148, R180, R184, R282, R283): O29. -/

namespace Sys2Proof.Machine

-- a grant of a line that no die holds

theorem Chip.takeDirWay_keepsHome (c : Chip) (line way : Nat) : c.KeepsHome (c.takeDirWay line way) :=
  Chip.KeepsHome.trans (b := { c with dirWay := sset none line (some way) (c.dirWay.filter fun e =>
    c.dirSetOf e.1 != c.dirSetOf line || (c.dirSetLines line).contains e.1) }) ⟨rfl, rfl, rfl, fun _ h => h⟩ (Chip.useDir_keepsHome _ line)

/-- What a home asks about a request but its books is as it was: the lost dies and the mirrored region. -/
structure Chip.SameAsked (c d : Chip) : Prop where
  dieLost : ∀ x, d.dieLost x = c.dieLost x
  targetLine : ∀ l, d.targetLine l = c.targetLine l

theorem Chip.SameAsked.trans {a b c : Chip} (h : a.SameAsked b) (h' : b.SameAsked c) : a.SameAsked c :=
  ⟨fun x => (h'.dieLost x).trans (h.dieLost x), fun l => (h'.targetLine l).trans (h.targetLine l)⟩

theorem Chip.SameDirs.sameAsked {c d : Chip} (h : c.SameDirs d) : c.SameAsked d := by
  rw [h.rest]
  exact ⟨fun _ => rfl, fun _ => rfl⟩

theorem Chip.takeDirWay_sameAsked (c : Chip) (line way : Nat) : c.SameAsked (c.takeDirWay line way) := by
  unfold Chip.takeDirWay Chip.useDir
  dsimp only
  split <;> exact ⟨fun _ => rfl, fun _ => rfl⟩

theorem Chip.snoops_none {c : Chip} {m : Msg} (hk : m.kind.needsEntry = true) : c.snoops m DirEntry.none = [] := by
  unfold Chip.snoops
  rcases needsEntry_cases hk with h | h | h | h <;> rw [h] <;> rfl

/-- A line that no die holds is granted at once: E to RD_SHARED, M to the others, all but RD_OWN_ZERO with the line. -/
theorem Pkg.finish_fresh {p : Pkg} {m : Msg} (now : Nat) (hown : p.chip.targetLine m.line = false) :
    ∀ e ∈ ([(.RD_SHARED, 1, 1), (.RD_OWN, 3, 1), (.UPGRADE, 3, 1), (.RD_OWN_ZERO, 3, 0)] : List (MsgKind × Nat × Nat)), m.kind = e.1 →
      p.finish (requestTxn m DirEntry.none [] now) = p.grant (requestTxn m DirEntry.none [] now) (DirEntry.owned m.die) e.2.1 e.2.2 := by
  intro e he hk
  simp only [List.mem_cons, List.not_mem_nil, or_false] at he
  have hreads : (m.kind == .WR_PART) = false ∧ (m.kind == .IO_ATOMIC) = false := by
    rcases he with rfl | rfl | rfl | rfl <;> rw [hk] <;> decide
  unfold Pkg.finish
  simp only [requestTxn, hreads.1, hreads.2, Bool.false_and, Bool.or_false, Bool.and_false, Bool.false_eq_true, if_false, hown]
  rcases he with rfl | rfl | rfl | rfl <;> simp only [hk, DirEntry.none]

theorem Pkg.dirRoom_of_free {p : Pkg} {line w : Nat} (h0 : (p.chip.dirAt line).state = 0) (hw : p.chip.dirFreeWay line = some w) :
    p.dirRoom line = (p.onChip (fun c => c.takeDirWay line w), true) := by
  unfold Pkg.dirRoom
  rw [if_neg (not_not.2 h0), hw]

theorem Pkg.startReq_fresh {p : Pkg} {m : Msg} (hun : p.chip.wldCommitted = false)
    (hrid : ridType m.rid = 0) (hown : p.chip.targetLine m.line = false) (hdir : p.chip.dirAt m.line = DirEntry.none)
    (hway : (p.chip.dirFreeWay m.line).isSome = true) (halive : p.chip.dieLost m.die = false) (hqueue : p.chip.homeQ = []) :
    ∀ e ∈ ([(.RD_SHARED, 1, 1), (.RD_OWN, 3, 1), (.UPGRADE, 3, 1), (.RD_OWN_ZERO, 3, 0)] : List (MsgKind × Nat × Nat)), m.kind = e.1 →
      (p.startReq m).chip.dirAt m.line = DirEntry.owned m.die
      ∧ ({ m.reply .COMP with grant := e.2.1, src := e.2.2 } : Msg) ∈ (p.startReq m).chip.net
      ∧ ((p.startReq m).chip.txnOf m.line).isSome = true ∧ (p.startReq m).chip.homeQ = [] := by
  intro e he hk
  have hneeds : m.kind.needsEntry = true := by
    simp only [List.mem_cons, List.not_mem_nil, or_false] at he
    rcases he with rfl | rfl | rfl | rfl <;> rw [hk] <;> rfl
  obtain ⟨x, hx, hs⟩ := Pkg.purgeLine_of_none hdir
  have hxdir : x.dirAt m.line = DirEntry.none := (hs.dirAt _).trans hdir
  have hs2 := hs.trans (Chip.setDir_sameDirs hxdir)
  obtain ⟨w, hw⟩ := Option.isSome_iff_exists.1 hway
  let z := x.setDir m.line DirEntry.none
  let p2 := ({ p with chip := x } : Pkg).onChip (fun c => c.setDir m.line DirEntry.none)
  have hroom := Pkg.dirRoom_of_free (p := p2) (w := w) (congrArg DirEntry.state ((hs2.dirAt _).trans hdir)) ((hs2.dirFreeWay _).trans hw)
  have hstart := Pkg.startReq_of_room hneeds hun hrid hown hx hxdir (by decide) hroom
  have hasked := hs2.sameAsked.trans (z.takeDirWay_sameAsked m.line w)
  have hempty : (z.takeDirWay m.line w).snoops m DirEntry.none = [] := Chip.snoops_none hneeds
  let t := requestTxn m DirEntry.none [] p.chip.now
  let q := (p2.onChip (fun c => c.takeDirWay m.line w)).onChip (fun c => c.setTxn t)
  have hfin : p.startReq m = q.grant t (DirEntry.owned m.die) e.2.1 e.2.2 := by
    refine Eq.trans ?_ (Pkg.finish_fresh (p := q) p.chip.now ((hasked.targetLine _).trans hown) e he hk)
    rw [hstart]
    exact (if_pos hempty).trans (by rw [show (p2.onChip (fun c => c.takeDirWay m.line w)).chip.snoops m DirEntry.none = [] from hempty]; rfl)
  have hq : q.chip.homeQ = [] := by
    have h1 : z.homeQ = p.chip.homeQ := (congrArg Chip.homeQ hs2.rest : _)
    exact ((z.takeDirWay_keepsHome m.line w).homeQ.trans h1).trans hqueue
  obtain ⟨h1, h2, h3, h4⟩ := q.grant_spec (t := t) (DirEntry.owned m.die) e.2.1 e.2.2
    (by intro h; rw [show t.req.kind = m.kind from rfl] at h; rw [h] at hneeds; exact Bool.false_ne_true hneeds)
    ((hasked.dieLost _).trans halive)
  rw [hfin]
  exact ⟨h1, h2, h3, h4.trans hq⟩

-- a refusal

theorem Chip.report_keepsHome (c : Chip) (u src rid w acc d a : Nat) : c.KeepsHome (c.report u src rid w acc d a) := by
  rw [c.report_frame]
  exact ⟨rfl, rfl, rfl, fun _ h => h⟩

theorem Chip.agentUnavail_keepsHome (c : Chip) (rid world acc line : Nat) : c.KeepsHome (c.agentUnavail rid world acc line) :=
  (c.setFld_keepsHome _ _ _).trans (Chip.report_keepsHome _ _ _ _ _ _ _ _)

theorem Pkg.potFetch_keepsHome (p : Pkg) (hall line : Nat) : p.chip.KeepsHome (p.potFetch hall line).1.chip := by
  unfold Pkg.potFetch
  split
  · exact Chip.agentUnavail_keepsHome _ _ _ _ _
  · exact (p.memFetch_same _ _ _ _).keepsHome

theorem Chip.owncFill_keepsHome (c : Chip) (hall el : Nat) (v : Line) : c.KeepsHome (c.owncFill hall el v) := by
  have htrim : ∀ n, c.KeepsHome (c.owncTrim hall el n) := fun n => by
    unfold Chip.owncTrim
    dsimp only
    split
    · exact Chip.KeepsHome.refl c
    · split
      · exact ⟨rfl, rfl, rfl, fun _ h => h⟩
      · exact Chip.KeepsHome.refl c
  have hset : ∀ (d : Chip) (o : Sparse (Option Line)), d.KeepsHome { d with ownc := o } := fun _ _ => ⟨rfl, rfl, rfl, fun _ h => h⟩
  unfold Chip.owncFill
  dsimp only
  split
  · exact Chip.KeepsHome.refl c
  · refine Chip.KeepsHome.trans (b := if (sget none (owncKey hall el) c.ownc).isSome then c
      else c.owncTrim hall el (c.owncWays hall el - 1)) ?_ (hset _ _)
    split
    · exact Chip.KeepsHome.refl c
    · exact htrim _

theorem Pkg.owncLookup_keepsHome (p : Pkg) (hall pg : Nat) : p.chip.KeepsHome (p.owncLookup hall pg).1.chip := by
  unfold Pkg.owncLookup
  split
  · exact Chip.KeepsHome.refl _
  · split
    · exact Chip.KeepsHome.refl _
    · dsimp only
      split
      · exact p.potFetch_keepsHome _ _
      · exact (p.potFetch_keepsHome _ _).trans (Chip.owncFill_keepsHome _ _ _ _)

theorem Pkg.worldCheck_keepsHome (p : Pkg) (rid world line : Nat) : p.chip.KeepsHome (p.worldCheck rid world line).1.chip := by
  unfold Pkg.worldCheck
  split
  · exact Chip.KeepsHome.refl _
  · exact p.owncLookup_keepsHome _ _

theorem Chip.checkRefusal_keepsHome (c : Chip) (rid world acc addr : Nat) : c.KeepsHome (c.checkRefusal rid world acc addr) := by
  unfold Chip.checkRefusal
  split
  · exact Chip.KeepsHome.refl c
  · exact c.report_keepsHome _ _ _ _ _ _ _

/-- A request that the ownership check refuses is reported and answered with the code, and nothing else is done. -/
theorem Pkg.startReq_refused {p q : Pkg} {m : Msg} {k e : Nat} (hk : m.kind ∈ (homeRequests m).map (fun r => r.2)) (hdie : m.die < 12)
    (hcheck : p.worldCheck m.rid m.world m.line = (q, k, e)) (hk0 : k ≠ 0) (hk15 : k ≠ 15) :
    p.startReq m = q.onChip (fun c => (c.checkRefusal m.rid m.world m.acc (m.line * 64 + m.sub)).sendDie { m.reply .WCHK_RSP with
        pass := false, code := k, mask := BitVec.ofNat 64 e }) := by
  unfold Pkg.startReq
  simp only [homeRequests, List.map_cons, List.map_nil, List.mem_cons, List.not_mem_nil, or_false] at hk
  rcases hk with h | h | h | h | h | h | h <;>
    simp only [h, hcheck, if_neg hk15, ne_eq, hk0, not_false_eq_true, if_true, Chip.sendRefusal, if_pos hdie]

/-- Settles O29: a line that no die holds is granted to the die that asks, and a request that the ownership check refuses is reported and
answered with the code of the check. -/
theorem homeGrantsRefuses : Obligations.HomeGrantsRefuses := by
  unfold Obligations.HomeGrantsRefuses
  refine ⟨?_, ?_⟩
  · intro s m hdie hidle hcan hrid hdir hway e he hk
    obtain ⟨hline, halive, htxn, hqueue, hun, htarget⟩ := hidle
    have hmem : (e.1, e.2.1) ∈ homeRequests m ∧ e.2 ∈ ([(.RD_SHARED, 1, 1), (.RD_OWN, 3, 1), (.UPGRADE, 3, 1), (.RD_OWN_ZERO, 3, 0)] : List (MsgKind × Nat × Nat)) := by
      simp only [List.mem_cons, List.not_mem_nil, or_false] at he
      rcases he with rfl | rfl | rfl | rfl <;> simp [homeRequests]
    let p1 := s.toPkg.onChip (fun c => c.arrive m)
    have hfree := s.chip.arrive_sameDirs m m.line
    obtain ⟨h1, h2, h3, h4⟩ := Pkg.startReq_fresh (p := p1) ((s.chip.arrive_wldCommitted m).trans hun) hrid
      ((s.chip.arrive_targetLine m _).trans htarget) (hfree.1.trans hdir) ((congrArg Option.isSome hfree.2).trans hway)
      ((s.chip.arrive_dieLost m _).trans (halive hdie)) ((s.chip.arrive_homeQ m).trans hqueue) e.2 hmem.2 hk
    have hnext : s.toPkg.arrive m = p1.startReq m :=
      (Pkg.arrive_of_free halive htxn hqueue (potWaits_of_unchecked hun _)).trans (Pkg.next_of_idle h4)
    exact ⟨_, (homeRequests_arrive hline hdie.le hcan _ hmem.1 hk).congr hnext, h1, h2, h3⟩
  · intro s m q k e hline hdie hcan halive htxn hqueue hpot hcheck hk0 hk15 r hr hk
    have hstart := Pkg.startReq_refused (hk ▸ List.mem_map_of_mem hr) hdie hcheck hk0 hk15
    have hq : q.chip.homeQ = [] := by
      have h := ((s.toPkg.onChip (fun c => c.arrive m)).worldCheck_keepsHome m.rid m.world m.line).homeQ
      rw [hcheck] at h
      exact h.trans ((s.chip.arrive_homeQ m).trans hqueue)
    refine (homeRequests_arrive hline hdie.le hcan r hr hk).congr
      ((Pkg.arrive_of_free (fun _ => halive) htxn hqueue hpot).trans ?_)
    rw [hstart]
    exact Pkg.next_of_idle (((q.chip.checkRefusal_keepsHome _ _ _ _).trans (Chip.sendDie_keepsHome _ _)).homeQ.trans hq)

end Sys2Proof.Machine
end

section
/-! The purge of a lost die and the end of a hold (R176, R195): O33. -/

namespace Sys2Proof.Machine

/-- An entry names die d: as the owner, or among the sharers it counts. -/
def DirEntry.names (e : DirEntry) (d : Nat) : Prop := (2 ≤ e.state ∧ e.owner = d) ∨ (e.bcast = false ∧ d ∈ e.ptrs)

theorem DirEntry.none_names (d : Nat) : ¬ DirEntry.none.names d := by
  rintro (⟨h, -⟩ | ⟨-, h⟩)
  · exact absurd h (by decide)
  · exact absurd h List.not_mem_nil

/-- The die that a drop takes from an entry that it does not own is named no more. -/
theorem DirEntry.drop_names {e : DirEntry} {d : Nat} (h : ¬ (2 ≤ e.state ∧ e.owner = d)) : ¬ (e.drop d).names d := by
  unfold DirEntry.drop
  split
  next hb =>
    rintro (h' | ⟨h', -⟩)
    · exact h h'
    · rw [hb] at h'
      exact absurd h' (by decide)
  · dsimp only
    split
    · exact DirEntry.none_names d
    · rintro (h' | ⟨-, h'⟩)
      · exact h h'
      · simpa using (List.mem_filter.1 h').2

/-- What the purge of die d at hall n builds on: the dies, the waiting requests and the hall's state stay, and an entry that does not name
the die comes not to name it. -/
structure Chip.PurgeKeeps (n d : Nat) (x y : Chip) : Prop where
  dies : y.dies = x.dies
  homeQ : y.homeQ = x.homeQ
  status : y.reg (.HALL_DIR_STATUS n) = x.reg (.HALL_DIR_STATUS n)
  clean : ∀ l, ¬ (x.dirAt l).names d → ¬ (y.dirAt l).names d

section
variable {n d : Nat} {x y z : Chip}

theorem Chip.PurgeKeeps.refl (x : Chip) : x.PurgeKeeps n d x := ⟨rfl, rfl, rfl, fun _ h => h⟩

theorem Chip.PurgeKeeps.trans (h : x.PurgeKeeps n d y) (h' : y.PurgeKeeps n d z) : x.PurgeKeeps n d z :=
  ⟨h'.dies.trans h.dies, h'.homeQ.trans h.homeQ, h'.status.trans h.status, fun l hl => h'.clean l (h.clean l hl)⟩

theorem Chip.PurgeKeeps.of_dir (hd : y.dies = x.dies) (hq : y.homeQ = x.homeQ) (hdir : y.dir = x.dir)
    (hr : y.reg (.HALL_DIR_STATUS n) = x.reg (.HALL_DIR_STATUS n)) : x.PurgeKeeps n d y :=
  ⟨hd, hq, hr, fun l hl => by rwa [Chip.dirAt, hdir]⟩

theorem besideDram_dirStatus (n : Nat) : (Reg.HALL_DIR_STATUS n).besideDram := fun k => by
  constructor <;> (simp only [Reg.offset]; omega)

theorem Chip.SameBesideLines.purgeKeeps (h : x.SameBesideLines y) (hdir : y.dir = x.dir) : x.PurgeKeeps n d y :=
  .of_dir (congrArg Chip.dies h.rest : _) (congrArg Chip.homeQ h.rest : _) hdir (h.reg _ (besideDram_dirStatus n))

theorem Chip.SameBesideHalls.purgeKeeps (h : x.SameBesideHalls y) : x.PurgeKeeps n d y :=
  h.lines.purgeKeeps (congrArg Chip.dir h.rest : _)

theorem Chip.setFld_purgeKeeps (x : Chip) {r : Reg} (f : Field) (v : Nat) (h : (Reg.HALL_DIR_STATUS n).offset ≠ r.offset) :
    x.PurgeKeeps n d (x.setFld r f v) := .of_dir rfl rfl rfl (Chip.reg_setFld_ne _ _ _ h)

theorem Chip.raiseEvent_purgeKeeps (x : Chip) {e : Nat} (h : e < 4096) : x.PurgeKeeps n d (x.raiseEvent e) := by
  refine .of_dir ?_ ?_ ?_ (Chip.reg_raiseEvent_ne _ _ (by simp only [Reg.offset]; omega)) <;> (rw [Chip.raiseEvent_frame])

theorem Chip.setCause_purgeKeeps (x : Chip) (b : Bool) : x.PurgeKeeps n d (x.setCause 37 b) :=
  .of_dir rfl rfl rfl (Chip.reg_setCause_ne _ _ _ (by simp only [Reg.offset]; omega))

theorem Chip.reportLevel_purgeKeeps (x : Chip) (u rid w acc k a : Nat) : x.PurgeKeeps n d (x.reportLevel u 37 rid w acc k a) := by
  refine .of_dir ?_ ?_ ?_ (Chip.reg_reportLevel_ne _ _ _ _ _ _ _ _ (by simp only [Reg.offset]; omega)) <;> (rw [Chip.reportLevel_frame])

/-- Room that is made for a line's value: the entry is freed. -/
theorem Chip.setDir_purgeKeeps (x : Chip) (line : Nat) {e : DirEntry} (h : ¬ e.names d) : x.PurgeKeeps n d (x.setDir line e) := by
  refine ⟨rfl, rfl, rfl, fun l hl => ?_⟩
  by_cases hline : l = line
  · rwa [hline, Chip.dirAt_setDir]
  · rwa [x.dirAt_setDir_ne e hline]

-- the copies that dies give up

theorem Chip.lndInval_dir (c : Chip) (k line : Nat) : (c.lndInval k line).dir = c.dir := by
  unfold Chip.lndInval
  split <;> rfl

theorem Chip.dropL2_dir (c : Chip) (h line : Nat) : (c.dropL2 h line).dir = c.dir := by
  rw [Chip.dropL2, Chip.onHart_dir, Chip.setL2_dir]

theorem Chip.dieDrop_dir (c : Chip) (k line : Nat) : (c.dieDrop k line).dir = c.dir :=
  (Chip.lndInval_dir _ _ _).trans (foldl_same Chip.dir (fun x h => x.dropL2_dir h line) _ c)

theorem Chip.snoopTake_purgeKeeps (x : Chip) (k line : Nat) (own : Bool) : x.PurgeKeeps n d (x.snoopTake k line own).1 :=
  (x.snoopTake_same k line own).purgeKeeps (by rw [Chip.snoopTake_eq]; exact x.dieDrop_dir k line)

theorem Chip.dropSharers_purgeKeeps (x : Chip) (e : DirEntry) (k line : Nat) : x.PurgeKeeps n d (x.dropSharers e k line) := by
  have hfold : ∀ (l : List Nat) (c : Chip), c.PurgeKeeps n d (l.foldl (fun x s => (x.snoopTake s line false).1) c) := fun l => by
    induction l with
    | nil => exact fun c => Chip.PurgeKeeps.refl c
    | cons a l ih => exact fun c => (c.snoopTake_purgeKeeps a line false).trans (ih _)
  exact hfold _ x

theorem Chip.purgeLine_purgeKeeps (x : Chip) (line : Nat) : x.PurgeKeeps n d (x.purgeLine line) :=
  (forUpTo_inv (fun y : Chip => x.PurgeKeeps n d y) _ _ _ (Chip.PurgeKeeps.refl x) fun k _ hy =>
    hy.trans (Chip.snoopTake_purgeKeeps _ k line false)).trans (Chip.setDir_purgeKeeps _ line (DirEntry.none_names d))

-- the mirror

theorem Chip.track_purgeKeeps (x : Chip) : x.PurgeKeeps n d x.track := by
  unfold Chip.track
  split
  · refine .of_dir ?_ ?_ ?_ (Chip.reg_pairRecord_ne _ (by simp only [Reg.offset]; omega)) <;> (rw [Chip.pairRecord_frame])
  · exact Chip.PurgeKeeps.refl x

theorem dirStatus_offset_ne_region (n : Nat) {i : Nat} (_ : i < 16) : (Reg.HALL_DIR_STATUS n).offset ≠ (Reg.PAIR_REGION_STATUS i).offset := by
  simp only [Reg.offset]
  omega

theorem Chip.countDirty_purgeKeeps (x : Chip) {i : Nat} (hi : i < 16) (b : Bool) : x.PurgeKeeps n d (x.countDirty i b) := by
  have hset : ∀ (y : Chip) f v, y.PurgeKeeps n d (y.setFld (.PAIR_REGION_STATUS i) f v) := fun y f v =>
    y.setFld_purgeKeeps f v (dirStatus_offset_ne_region n hi)
  have htrack : ∀ y : Chip, y.PurgeKeeps n d (if b then y.track else y) := fun y => by
    split
    · exact y.track_purgeKeeps
    · exact Chip.PurgeKeeps.refl _
  unfold Chip.countDirty
  dsimp only
  split
  · exact (hset ..).trans ((htrack _).trans ((hset ..).trans (Chip.setCause_purgeKeeps _ _)))
  · exact (hset ..).trans (htrack _)

theorem Pkg.setDirty_purgeKeeps (p : Pkg) {i : Nat} (hi : i < 16) (pg : Nat) (b : Bool) : p.chip.PurgeKeeps n d (p.setDirty i pg b).chip := by
  obtain ⟨line, v, poison, heq⟩ := p.setDirty_eq i pg b
  rw [heq]
  split
  · split
    · exact p.chip.track_purgeKeeps
    · exact Chip.PurgeKeeps.refl _
  · let q := (p.coherentFetch line 15).1
    exact (p.coherentFetch_same line 15 { kind := .RD_ONCE }).purgeKeeps.trans (((q.chip.purgeLine_purgeKeeps line).trans
      (Pkg.memWrite_same (q.onChip (fun c => c.purgeLine line)) _ _ _ _).purgeKeeps).trans (Chip.countDirty_purgeKeeps _ hi b))

theorem Pkg.setLagging_purgeKeeps (p : Pkg) {i : Nat} (hi : i < 16) (pg : Nat) : p.chip.PurgeKeeps n d (p.setLagging i pg).chip := by
  refine (p.setDirty_purgeKeeps hi pg true).trans ?_
  rw [Pkg.setLagging, Pkg.onChip_chip]
  split
  · exact Chip.PurgeKeeps.refl _
  · exact ((Chip.setFld_purgeKeeps _ _ _ (dirStatus_offset_ne_region n hi)).trans (Chip.raiseEvent_purgeKeeps _ (by decide))).trans
      (Chip.reportLevel_purgeKeeps ..)

theorem Pkg.mirror_purgeKeeps (p : Pkg) (line : Nat) (v : Line) (poison : Bool) : p.chip.PurgeKeeps n d (p.mirror line v poison).chip := by
  unfold Pkg.mirror
  split
  · exact Chip.PurgeKeeps.refl _
  next i hi =>
    have hi16 : i < 16 := List.mem_range.1 (List.mem_of_find?_eq_some hi)
    split
    · exact Chip.PurgeKeeps.refl _
    · split
      · exact p.setDirty_purgeKeeps hi16 _ _
      · split
        · split
          · exact p.setLagging_purgeKeeps hi16 _
          · exact .of_dir rfl rfl rfl rfl
        · exact Chip.PurgeKeeps.refl _

-- a line is purged

/-- A line is purged of a lost die: its entry names it no more, and no other entry comes to name it. -/
theorem Pkg.purgeLost_cleans (p : Pkg) (line : Nat) :
    p.chip.PurgeKeeps n d (p.purgeLost d line).chip ∧ ¬ ((p.purgeLost d line).chip.dirAt line).names d := by
  unfold Pkg.purgeLost
  dsimp only
  split
  next hown =>
    let q := p.onChip (fun c => c.dropSharers (p.chip.dirAt line) d line)
    let w := q.homeWrite line (q.memRead line).1 true 15
    have hwrite : q.chip.PurgeKeeps n d w.chip := (q.memWrite_same _ _ _ _).purgeKeeps.trans (Pkg.mirror_purgeKeeps _ _ _ _)
    have hset : w.chip.PurgeKeeps n d (w.chip.setDir line DirEntry.none) := Chip.setDir_purgeKeeps _ _ (DirEntry.none_names d)
    have hcount := Chip.setFld_purgeKeeps (n := n) (d := d) (w.chip.setDir line DirEntry.none)
      (r := .HALL_DIR_COUNT (w.chip.homeHall line)) F.HALL_DIR_COUNT_POISONED
    refine ⟨(p.chip.dropSharers_purgeKeeps _ d line).trans (hwrite.trans (hset.trans (hcount _ (by simp only [Reg.offset]; omega)))), ?_⟩
    have hnone : (w.chip.setDir line DirEntry.none).dirAt line = DirEntry.none := w.chip.dirAt_setDir _ _
    exact fun h => DirEntry.none_names d (hnone ▸ h)
  next hown =>
    have hdrop := DirEntry.drop_names hown
    refine ⟨Chip.setDir_purgeKeeps _ _ hdrop, ?_⟩
    rwa [Pkg.onChip_chip, Chip.dirAt_setDir]

/-- Lines are purged one after another. -/
theorem Pkg.purgeLosts_clean (lines : List Nat) (p : Pkg) : let t := lines.foldl (fun q line => q.purgeLost d line) p
    p.chip.PurgeKeeps n d t.chip ∧ ∀ l ∈ lines, ¬ (t.chip.dirAt l).names d := by
  induction lines generalizing p with
  | nil => exact ⟨Chip.PurgeKeeps.refl _, fun _ h => absurd h List.not_mem_nil⟩
  | cons a lines ih =>
    obtain ⟨hkeep, hclean⟩ := p.purgeLost_cleans (n := n) (d := d) a
    obtain ⟨hkeep', hclean'⟩ := ih (p.purgeLost d a)
    refine ⟨hkeep.trans hkeep', fun l hl => ?_⟩
    rcases List.mem_cons.1 hl with rfl | hl
    · exact hkeep'.clean _ hclean
    · exact hclean' l hl

end

-- O33

/-- The hall knows that die d is lost (R195): it is told, and its busy flag names the die. -/
def Chip.toldPurge (c : Chip) (n d : Nat) : Chip :=
  (((c.onDie d (fun x => { x with told := addOnce n x.told })).setFld (.HALL_DIR_STATUS n) F.HALL_DIR_STATUS_PURGE_DIE d).setBit
    (.HALL_DIR_STATUS n) F.HALL_DIR_STATUS_PURGE_BUSY true)

/-- The lines of a hall whose entries name die d, as the purge finds them. -/
def Chip.purgedLines (c : Chip) (n d : Nat) : List Nat :=
  (c.dir.filter (fun e => c.homeHall e.1 == n && (c.txnOf e.1).isNone && ((2 ≤ e.2.state && e.2.owner == d) || e.2.ptrs.contains d))).map
    (fun e => e.1)

/-- With nothing under way at the homes, the purge takes every line of the hall that names the die. -/
theorem Pkg.hallPurgeRun_idle {p : Pkg} {n d : Nat} (htxn : p.chip.txn = []) (hqueue : p.chip.homeQ = []) :
    p.hallPurgeRun n d = (((p.chip.toldPurge n d).purgedLines n d).foldl (fun q line => q.purgeLost d line)
      (p.onChip (fun c => c.toldPurge n d))).next := by
  unfold Pkg.hallPurgeRun
  extract_lets p0 mine p1 opened p2 ended p3 lines
  have hp1 : p1 = p.onChip (fun c => c.toldPurge n d) := by
    have hq : ∀ (sel : Msg → Bool), p.chip.homeQ.filter sel = p.chip.homeQ := fun sel => by rw [hqueue, List.filter_nil]
    exact congrArg (fun q => ({ p with chip := { p.chip.toldPurge n d with homeQ := q } } : Pkg)) (hq _)
  have htxn1 : p1.chip.txn = [] := by
    rw [hp1]
    exact htxn
  have hopened : opened = [] := List.filter_eq_nil_iff.2 fun t ht => absurd (htxn1 ▸ ht) List.not_mem_nil
  have hp2 : p2 = p1 := by
    simp only [p2, hopened, List.foldl_nil]
  have hended : ended = [] := List.filter_eq_nil_iff.2 fun t ht => by
    rw [hp2, htxn1] at ht
    exact absurd ht List.not_mem_nil
  have hp3 : p3 = p.onChip (fun c => c.toldPurge n d) := by
    simp only [p3, hended, List.foldl_nil, hp2, hp1]
  have hlines : lines = (p.chip.toldPurge n d).purgedLines n d := by
    simp only [lines, hp3]
    rfl
  rw [hlines, hp3]

/-- What reads as no default is stored. -/
theorem mem_of_sget_ne {V : Type} {d : V} {k : Nat} {m : Sparse V} (h : sget d k m ≠ d) : (k, sget d k m) ∈ m := by
  induction m with
  | nil => exact absurd rfl h
  | cons e m ih =>
    obtain ⟨j, v⟩ := e
    by_cases hj : j = k
    · rw [sget, if_pos hj, hj]
      exact List.mem_cons_self
    · rw [sget, if_neg hj] at h ⊢
      exact List.mem_cons_of_mem _ (ih h)

theorem Chip.names_purgedLines {c : Chip} {n d line : Nat} (htxn : c.txn = []) (hhall : c.homeHall line = n)
    (hnames : (c.dirAt line).names d) : line ∈ c.purgedLines n d := by
  have hfound : (line, c.dirAt line) ∈ c.dir := by
    exact mem_of_sget_ne fun h => DirEntry.none_names d (by rwa [Chip.dirAt, h] at hnames)
  refine List.mem_map.2 ⟨_, List.mem_filter.2 ⟨hfound, ?_⟩, rfl⟩
  have hfree : (c.txnOf line).isNone = true := by rw [Chip.txnOf, htxn]; rfl
  rw [hhall, hfree]
  rcases hnames with ⟨h2, ho⟩ | ⟨-, hp⟩
  · simp [h2, ho]
  · simp [hp]

theorem Chip.toldPurge_homeHall (c : Chip) {n : Nat} (hn : n < 16) (d line : Nat) : (c.toldPurge n d).homeHall line = c.homeHall line := by
  have hreg : ∀ q : Reg, q.offset ≠ (Reg.HALL_DIR_STATUS n).offset → (c.toldPurge n d).reg q = c.reg q := fun q hq =>
    (Chip.reg_setBit_ne _ _ _ hq).trans (Chip.reg_setFld_ne _ _ _ hq)
  exact Chip.homeHall_congr (hreg _ (by simp only [Reg.offset]; omega)) (fun q hq => hreg q (by simp only [Reg.offset] at hq ⊢; omega)) rfl line

/-- The purge of a die ends. -/
def Chip.endPurge (c : Chip) (d : Nat) : Chip := (c.onDie d (fun x => { x with purging := false, told := [] })).raiseEvent (192 + d)

/-- Every hall has been told and no entry names the die: the flags clear unless another die is being purged. -/
theorem Chip.purgeDone_all {c : Chip} {d : Nat} (hpurging : (c.die d).purging = true) (hfree : c.dirFree d = true)
    (htold : ∀ n, n < 16 → (c.die d).told.contains n = true) :
    c.purgeDone d = Chip.endPurge (if (List.range 12).any (fun x => x != d && (c.die x).purging) then c
      else forUpTo 16 (fun n x => x.setBit (.HALL_DIR_STATUS n) F.HALL_DIR_STATUS_PURGE_BUSY false) c) d := by
  have hall : (List.range 16).all (fun n => (c.die d).told.contains n) = true := List.all_eq_true.2 fun n hn => htold n (List.mem_range.1 hn)
  refine (if_pos (by rw [hpurging, hfree, hall]; rfl)).trans ?_
  dsimp only
  cases (List.range 12).any (fun x => x != d && (c.die x).purging) with
  | true => exact congrArg (fun x : Chip => x.endPurge d) (forUpTo_same id (fun _ _ => rfl) 16 c)
  | false => rfl

/-- Settles O33: the purge visits every line of the hall whose entry names the die, and cleans it; the last hall ends it. -/
theorem lostDiePurge : Obligations.LostDiePurge := by
  unfold Obligations.LostDiePurge
  refine ⟨fun s n d hn hd => ⟨?_, ?_⟩, fun s d hd hpurging hfree htold => ⟨?_, ?_⟩, fun s h line hh hline => ⟨?_, ?_⟩⟩
  · intro hpurging
    have hdoes : GivesPkg (.hallDiePurge n d) s (s.toPkg.hallPurge n d) := givesPkg_of_onPkg rfl (by simp [hn, hd]) rfl
    exact hdoes.congr (if_neg (by rw [show (s.toPkg.chip.die d).purging = false from hpurging]; decide))
  · intro hpurging htxn hqueue
    have hdoes : GivesPkg (.hallDiePurge n d) s (s.toPkg.hallPurge n d) := givesPkg_of_onPkg rfl (by simp [hn, hd]) rfl
    have hrun : s.toPkg.hallPurge n d = s.toPkg.hallPurgeRun n d := if_pos hpurging
    let p1 := s.toPkg.onChip (fun c => c.toldPurge n d)
    let t := ((s.chip.toldPurge n d).purgedLines n d).foldl (fun q line => q.purgeLost d line) p1
    obtain ⟨⟨hdies, hq, hstatus, hkeep⟩, hclean⟩ := p1.purgeLosts_clean (n := n) (d := d) ((s.chip.toldPurge n d).purgedLines n d)
    have hnext : s.toPkg.hallPurge n d = t :=
      (hrun.trans (Pkg.hallPurgeRun_idle htxn hqueue)).trans (Pkg.next_of_idle (hq.trans hqueue))
    refine ⟨_, hdoes.congr hnext, ?_, ?_, ?_, ?_⟩
    · have hdie : t.chip.die d = p1.chip.die d := congrArg (fun l => sget DieSt.reset d l) hdies
      have htold : (p1.chip.die d).told = addOnce n (s.chip.die d).told := congrArg DieSt.told (s.chip.die_onDie d (fun x => { x with told := addOnce n x.told }))
      rw [hdie, htold, List.contains_iff_mem]
      exact mem_addOnce_self n _
    · exact (Chip.bit_of_reg hstatus _).trans (Chip.bit_setBit _ _ _ _ (by decide) (by decide))
    · refine (Chip.fld_of_reg hstatus _).trans ((Chip.fld_setBit_apart _ _ _ (by decide)).trans ?_)
      exact Chip.fld_setFld_of_lt _ _ _ (by decide) (by decide) (by simp only [Field.width, F.HALL_DIR_STATUS_PURGE_DIE]; omega)
    · intro line hhall
      have hnot : ¬ (t.chip.dirAt line).names d := by
        by_cases hnames : (p1.chip.dirAt line).names d
        · exact hclean line (Chip.names_purgedLines (c := s.chip.toldPurge n d) htxn ((s.chip.toldPurge_homeHall hn d line).trans hhall) hnames)
        · exact hkeep line hnames
      exact ⟨fun h => hnot (.inl h), fun hb hp => hnot (.inr ⟨hb, hp⟩)⟩
  · intro hothers
    refine gives_of_onChip rfl (decide_eq_true hd) ((Chip.purgeDone_all hpurging hfree htold).trans
      (congrArg (fun c : Chip => c.endPurge d) (if_neg (Bool.not_eq_true _ ▸ List.any_eq_false.2 fun x hx => ?_))))
    by_cases hxd : x = d
    · simp [hxd]
    · simp [hothers x (List.mem_range.1 hx) hxd]
  · rintro ⟨x, hx, hxd, hp⟩
    exact gives_of_onChip rfl (decide_eq_true hd) ((Chip.purgeDone_all hpurging hfree htold).trans
      (congrArg (fun c : Chip => c.endPurge d) (if_pos (List.any_eq_true.2 ⟨x, List.mem_range.2 hx, by simp [hxd, hp]⟩))))
  · intro hheld
    exact gives_of_onChip rfl (by rw [hartOk, lineOk, decide_eq_true hh, decide_eq_true hline]; rfl) (if_pos hheld)
  · intro hheld
    exact gives_of_onChip rfl (by rw [hartOk, lineOk, decide_eq_true hh, decide_eq_true hline]; rfl) (if_neg (by rw [hheld]; decide))

end Sys2Proof.Machine
end

section
/-! Bundles of a link: sending, acceptance, replay, failure and failover (R228 to R235, R239): O38. -/

namespace Sys2Proof.Machine

-- the ends of a link

@[simp] theorem Chip.linkEnd_setLinkEnd (c : Chip) (k : Nat) (a : Bool) (e : LinkEnd) : (c.setLinkEnd k a e).linkEnd k a = e :=
  sget_sset_self _ _ _ _

theorem linkKey_ne {k j : Nat} {a b : Bool} (h : j ≠ k ∨ b ≠ a) : linkKey j b ≠ linkKey k a := by
  unfold linkKey
  cases a <;> cases b <;> simp only [flag, ne_eq, not_true, or_false, not_false_eq_true, reduceCtorEq] at h ⊢ <;>
    simp only [if_false, if_true] <;> omega

theorem Chip.linkEnd_setLinkEnd_ne (c : Chip) {k j : Nat} {a b : Bool} (e : LinkEnd) (h : j ≠ k ∨ b ≠ a) :
    (c.setLinkEnd k a e).linkEnd j b = c.linkEnd j b := sget_sset_ne _ _ (linkKey_ne h) _ _

theorem Chip.setLinkEnd_twice (c : Chip) (k : Nat) (a : Bool) (e f : LinkEnd) : (c.setLinkEnd k a e).setLinkEnd k a f = c.setLinkEnd k a f := by
  unfold Chip.setLinkEnd
  rw [sset_sset]

theorem Chip.linkState_setLinkEnd (c : Chip) (k j : Nat) (a : Bool) (e : LinkEnd) : (c.setLinkEnd k a e).linkState j = c.linkState j := rfl

theorem linkEnd_of_link {c d : Chip} (h : d.link = c.link) (k : Nat) (a : Bool) : d.linkEnd k a = c.linkEnd k a := by
  rw [Chip.linkEnd, h, ← Chip.linkEnd]

-- the failure of a link

theorem JL_STATUS_offAnswers (k : Nat) : (Reg.JL_STATUS k).offAnswers := by
  refine ⟨fun r => ?_, fun d hd => ?_⟩ <;> simp only [Reg.offset] <;> omega

theorem Chip.markFailed_status (c : Chip) {k cause : Nat} (hk : k < 26) (hc : cause < 2 ^ F.JL_STATUS_FAIL_CAUSE.width) :
    (c.markFailed k cause).linkState k = 3 ∧ (c.markFailed k cause).fld (.JL_STATUS k) F.JL_STATUS_FAIL_CAUSE = cause := by
  let x := ((((c.setLinkEnd k false { c.linkEnd k false with fails := (c.linkEnd k false).fails + 1 }).setFld (.JL_STATUS k)
    F.JL_STATUS_STATE 3).setFld (.JL_STATUS k) F.JL_STATUS_FAIL_CAUSE cause).setBit (.JL_STATUS k) F.JL_STATUS_FAILED_SEEN true)
  have hreg : (c.markFailed k cause).reg (.JL_STATUS k) = x.reg (.JL_STATUS k) := by
    have hrecord : (((x.reportLevel (unitLink k false) (400 + 2 * k) (linkRid k) 1 15).raiseEvent (204 + k)).linkRecord).reg (.JL_STATUS k)
        = x.reg (.JL_STATUS k) := by
      rw [Chip.linkRecord, Chip.reg_lifeWrite_ne _ _ _ (by simp only [Reg.offset]; omega),
        Chip.reg_raiseEvent_ne _ _ (by simp only [Reg.offset]; omega)]
      exact Chip.reg_reportLevel_ne _ _ _ _ _ _ _ _ (by simp only [Reg.offset]; omega)
    unfold Chip.markFailed
    dsimp only
    split
    · exact hrecord
    · exact (Chip.reg_setBit_ne _ _ _ (by simp only [Reg.offset]; omega)).trans hrecord
  refine ⟨(Chip.fld_of_reg hreg _).trans ?_, (Chip.fld_of_reg hreg _).trans ?_⟩
  · exact (Chip.fld_setBit_apart _ _ _ (by decide)).trans ((Chip.fld_setFld_apart _ _ _ (by decide)).trans
      (Chip.fld_setFld_of_lt _ _ _ (by decide) (by decide) (by decide)))
  · exact (Chip.fld_setBit_apart _ _ _ (by decide)).trans (Chip.fld_setFld_of_lt _ _ _ (by decide) (by decide) hc)

/-- A failed link stays as it is when its die is lost (R235). -/
theorem Chip.loseDie_failedLink (c : Chip) {k d : Nat} (cause : Nat) (hd : d < 13) (h : c.linkState k = 3) :
    (c.loseDie d cause).reg (.JL_STATUS k) = c.reg (.JL_STATUS k) := by
  have hmove : ∀ x : Chip, x.reg (.JL_STATUS k) = c.reg (.JL_STATUS k) → (x.moveLinks d 4 [1, 2]).reg (.JL_STATUS k) = c.reg (.JL_STATUS k) :=
    fun x hx => forUpTo_inv (fun y : Chip => y.reg (.JL_STATUS k) = c.reg (.JL_STATUS k)) _ _ _ hx fun i y hy => by
      split
      next hin =>
        have hne : 2 * d + i ≠ k := fun hj => by
          rw [hj, Chip.linkState, Chip.fld_of_reg hy, ← Chip.linkState, h] at hin
          exact absurd hin (by decide)
        exact (Chip.reg_setFld_ne _ _ _ (by simp only [Reg.offset]; omega)).trans hy
      next => exact hy
  by_cases h0 : c.dieState d = 0 ∨ 5 ≤ c.dieState d
  · rw [Chip.loseDie, if_pos h0]
  · rw [c.loseDie_eq cause (fun h => h0 (.inl h)) (by omega)]
    generalize (if c.dieState d = 3 ∧ cause = 2 then 5 else cause) = why
    rw [Chip.report_reg, Chip.railOff_reg_ne _ _ (by simp only [Reg.offset]; omega), Chip.reg_of_regs (Chip.forgetDie_regs _ d)]
    refine ((Chip.closePorts_same _ (diePorts d)).reg _ (JL_STATUS_offAnswers k)).trans ?_
    exact ((Chip.clearLinks_same _ d).reg _ (JL_STATUS_offAnswers k)).trans (hmove _ (Chip.setDieState_reg_ne _ _ _ _ ((JL_STATUS_offAnswers k).2 d hd)))

/-- Sixteen failures, or too many retries, fail a link that is up. -/
theorem Chip.failLink_status (c : Chip) {k cause : Nat} (a : Bool) (hk : k < 26) (hup : c.linkState k = 2)
    (hc : cause < 2 ^ F.JL_STATUS_FAIL_CAUSE.width) : (c.failLink k cause a).linkState k = 3
      ∧ (c.failLink k cause a).fld (.JL_STATUS k) F.JL_STATUS_FAIL_CAUSE = cause := by
  obtain ⟨hst, hcause⟩ := c.markFailed_status hk hc
  unfold Chip.failLink
  rw [if_neg (by omega)]
  dsimp only
  split
  · exact ⟨hst, hcause⟩
  · split
    next h =>
      have hreg := (c.markFailed k cause).loseDie_failedLink (d := k / 2) 1 (by omega) hst
      exact ⟨(Chip.fld_of_reg hreg _).trans hst, (Chip.fld_of_reg hreg _).trans hcause⟩
    next => exact ⟨hst, hcause⟩

theorem Pkg.pairFailed_of_die {p : Pkg} {k : Nat} (h : k < 24) : p.pairFailed k = p := if_neg (fun h' => by omega)

theorem Pkg.pairFailed_of_up {p : Pkg} {k : Nat} (h : p.chip.linkState k ≠ 3) : p.pairFailed k = p := if_neg (fun h' => h h'.2)

theorem JL_STATUS_besideDirty (k : Nat) : (Reg.JL_STATUS k).BesideDirty := by
  refine ⟨fun n => ⟨?_, ?_⟩, ?_, fun n => ?_, ?_⟩ <;> simp only [Reg.offset] <;> omega

theorem Pkg.pairFailed_linkState (p : Pkg) (k : Nat) : (p.pairFailed k).chip.linkState k = p.chip.linkState k := by
  unfold Pkg.pairFailed
  split
  · exact Chip.fld_of_reg ((Pkg.markDirty_same _ _).reg _ (JL_STATUS_besideDirty k)) _
  · rfl

-- a retry

/-- One retry without others in the last intervals sends every unacknowledged bundle again. -/
theorem Chip.retry_resends {c : Chip} {k : Nat} {a : Bool} (hnone : (c.linkEnd k a).retryAt = []) (hreplay : (c.linkEnd k a).replay ≠ []) :
    ((c.retry k a).linkEnd k a).resend = (c.linkEnd k a).replay ∧ ((c.retry k a).linkEnd k a).replay = (c.linkEnd k a).replay
    ∧ (c.retry k a).linkState k = c.linkState k := by
  let e := c.linkEnd k a
  let e1 : LinkEnd := { e with retryAt := c.now :: e.recentRetries c.now, resend := e.replay, waitFrom := c.now }
  have hrecent : e.recentRetries c.now = [] := by rw [LinkEnd.recentRetries, hnone, List.filter_nil]
  have hlen : ¬ 1000 < (c.now :: e.recentRetries c.now).length := by rw [hrecent]; simp
  have hend : (c.setLinkEnd k a e1).linkEnd k a = e1 := Chip.linkEnd_setLinkEnd _ _ _ _
  have hset : ∀ (f : Field) (n : Nat) (x : Chip), x.linkEnd k a = e1 ∧ x.linkState k = c.linkState k →
      (x.setFld (.JL_RETRY k) f n).linkEnd k a = e1 ∧ (x.setFld (.JL_RETRY k) f n).linkState k = c.linkState k := fun f n x hx =>
    ⟨(linkEnd_of_link rfl k a).trans hx.1, (Chip.fld_setFld_ne _ _ _ _ (by simp only [Reg.offset]; omega)).trans hx.2⟩
  have hgoal : (c.retry k a).linkEnd k a = e1 ∧ (c.retry k a).linkState k = c.linkState k := by
    unfold Chip.retry
    dsimp only
    rw [if_neg (by rw [List.isEmpty_iff]; exact hreplay), if_neg hlen]
    cases a with
    | true => exact ⟨hend, rfl⟩
    | false =>
      rw [if_neg (by decide)]
      have h1 := hset F.JL_RETRY_RETRIES ((c.setLinkEnd k false e1).fld (.JL_RETRY k) F.JL_RETRY_RETRIES + 1) _ ⟨hend, rfl⟩
      rw [if_pos (by rw [hnone]; rfl)]
      exact hset _ _ _ h1
  exact ⟨by rw [hgoal.1], by rw [hgoal.1], hgoal.2⟩

-- a bundle is sent and read

theorem Chip.waitsFor_setLinkEnd (c : Chip) (k j : Nat) (a : Bool) (e : LinkEnd) : (c.setLinkEnd k a e).waitsFor j = c.waitsFor j := (rfl)

theorem Chip.replayDepth_setLinkEnd (c : Chip) (k j : Nat) (a b : Bool) (e : LinkEnd) :
    (c.setLinkEnd k a e).replayDepth j b = c.replayDepth j b := (rfl)

/-- What one end of a link hears does not change what the other sends. -/
theorem Chip.sends_setLinkEnd (c : Chip) (k : Nat) (a : Bool) (e : LinkEnd) (ctl : List Line) :
    (c.setLinkEnd k a e).sends k (!a) ctl = c.sends k (!a) ctl := by
  have hend : (c.setLinkEnd k a e).linkEnd k (!a) = c.linkEnd k (!a) := c.linkEnd_setLinkEnd_ne e (.inr (by cases a <;> decide))
  unfold Chip.sends Chip.toSend
  rw [hend, Chip.waitsFor_setLinkEnd, Chip.replayDepth_setLinkEnd]

/-- An end that resends nothing keeps the bundle that it sends until it is acknowledged; the other end does not change. -/
theorem Chip.noteSent_new {c : Chip} {k : Nat} {a : Bool} (z : SentBundle) (h : (c.linkEnd k (!a)).resend = []) :
    (c.noteSent k (!a) z).linkEnd k a = c.linkEnd k a ∧ z ∈ ((c.noteSent k (!a) z).linkEnd k (!a)).replay := by
  unfold Chip.noteSent
  dsimp only
  rw [if_pos (by rw [h]; rfl)]
  constructor
  · rw [Chip.linkEnd_setLinkEnd_ne _ _ (.inr (by cases a <;> decide))]
    exact linkEnd_of_link rfl k a
  · rw [Chip.linkEnd_setLinkEnd]
    exact List.mem_append_right _ (List.mem_singleton.2 rfl)

theorem LinkEnd.credits_frame (e : LinkEnd) (b : Bundle) : ∃ m, e.credits b = { e with peerFreed := m } :=
  forUpTo_inv (fun x : LinkEnd => ∃ m, x = { e with peerFreed := m }) _ _ _ ⟨_, rfl⟩ (by rintro _ x ⟨m, rfl⟩; exact ⟨_, rfl⟩)

/-- A trailer without NAK changes credits and acknowledgements at its end. -/
theorem Chip.readTrailer_plain {c : Chip} {k : Nat} {a : Bool} {b : Bundle} (h : Bundle.field b 41 41 = 0) :
    ∃ e : LinkEnd, c.readTrailer k a b = c.setLinkEnd k a e ∧ e.expSeq = (c.linkEnd k a).expSeq ∧ e.rxBuf = (c.linkEnd k a).rxBuf := by
  obtain ⟨m, hm⟩ := (c.linkEnd k a).credits_frame b
  refine ⟨((c.linkEnd k a).credits b).acked k c.now (bndAck k b), ?_, ?_, ?_⟩
  · unfold Chip.readTrailer
    dsimp only
    rw [if_neg (by rw [h]; decide)]
  · rw [hm]
    rfl
  · rw [hm]
    rfl

/-- The bundle that the other end sends next, whole and in order, is accepted. -/
theorem Chip.dieBundle_accepts {c : Chip} {k : Nat} {a : Bool} {b : Bundle} {z : SentBundle} (hgood : bndGood b = true)
    (hctl : bndCtl b = []) (hnak : Bundle.field b 41 41 = 0) (hz : c.sends k (!a) [] = some z) (hunits : b.units = z.units)
    (htrailer : b.trailer = ((c.linkEnd k (!a)).form k z).trailer) (hseq : z.seq = (c.linkEnd k a).expSeq)
    (hresend : (c.linkEnd k (!a)).resend = []) :
    ((c.dieBundle k a b).linkEnd k a).rx = b.units
    ∧ ((c.dieBundle k a b).linkEnd k a).rxBuf = (c.linkEnd k a).rxBuf ++ z.pkts
    ∧ ((c.dieBundle k a b).linkEnd k a).expSeq = ((c.linkEnd k a).expSeq + 1) % seqMod k
    ∧ ((c.dieBundle k a b).linkEnd k a).nakFor = none
    ∧ ∃ x ∈ ((c.dieBundle k a b).linkEnd k (!a)).replay, x.seq = z.seq ∧ x.passed = true := by
  have hne : a ≠ !a := by cases a <;> decide
  obtain ⟨hsame, hkept⟩ := Chip.noteSent_new (a := a) z hresend
  obtain ⟨e, hread, hexp, hbuf⟩ := Chip.readTrailer_plain (c := c.noteSent k (!a) z) (k := k) (a := a) hnak
  let y := (c.noteSent k (!a) z).setLinkEnd k a e
  let y1 := y.setLinkEnd k a (e.pass k z)
  have hy : y.linkEnd k a = e := Chip.linkEnd_setLinkEnd _ _ _ _
  have hdo : c.dieBundle k a b = y1.setLinkEnd k (!a) ((y1.linkEnd k (!a)).passedOn z.seq) := by
    unfold Chip.dieBundle
    simp only [hgood, if_true, hctl, List.all_nil, Bool.not_true, Bool.false_eq_true, if_false, hz]
    rw [if_neg (by rintro (h | h); exacts [h hunits, h htrailer]), hread]
    rw [if_pos (hseq.trans ((congrArg LinkEnd.expSeq hsame).symm.trans (hexp.symm.trans (congrArg LinkEnd.expSeq hy.symm)))), hy]
    rfl
  have hme : (c.dieBundle k a b).linkEnd k a = e.pass k z := by
    rw [hdo, Chip.linkEnd_setLinkEnd_ne _ _ (.inr hne), Chip.linkEnd_setLinkEnd]
  have hother : (c.dieBundle k a b).linkEnd k (!a) = ((c.noteSent k (!a) z).linkEnd k (!a)).passedOn z.seq := by
    rw [hdo, Chip.linkEnd_setLinkEnd, Chip.linkEnd_setLinkEnd_ne _ _ (.inr hne.symm), Chip.linkEnd_setLinkEnd_ne _ _ (.inr hne.symm)]
  rw [hsame] at hexp hbuf
  refine ⟨by rw [hme, hunits]; rfl, by rw [hme, ← hbuf]; rfl, by rw [hme, ← hexp]; rfl, by rw [hme]; rfl, { z with passed := true }, ?_, rfl, rfl⟩
  rw [hother]
  exact List.mem_map.2 ⟨z, hkept, if_pos rfl⟩

/-- An end hears the other. -/
def Chip.hears (c : Chip) (k : Nat) (a : Bool) : Chip := c.setLinkEnd k a { c.linkEnd k a with lastHeard := c.now }

theorem Pkg.bundle_of_die {p : Pkg} {k : Nat} {a : Bool} {b : Bundle} {x : Chip} (hk : k < 24) (h : p.chip.bundle k a b = (x, [])) :
    p.bundle k a b = { p with chip := x } := by
  unfold Pkg.bundle
  rw [h]
  cases a <;> exact Pkg.pairFailed_of_die hk

/-- A bundle with units that reaches an end of a die link that is up is noted and judged. -/
theorem bundleReceive_does {s : State} {k : Nat} {a : Bool} {b : Bundle} (hk : k < 24) (hlen : b.units.length ≤ 8) (hunits : b.units ≠ [])
    (hup : s.chip.linkState k = 2) : Gives (.bundleReceive k a b) s ((s.chip.hears k a).dieBundle k a b) := by
  have hdoes : GivesPkg (.bundleReceive k a b) s (s.toPkg.bundle k a b) :=
    givesPkg_of_onPkg rfl (by rw [linkOk, decide_eq_true (show k < 26 by omega), decide_eq_true hlen]; rfl) rfl
  have hbundle : s.chip.bundle k a b = ((s.chip.hears k a).dieBundle k a b, []) := by
    unfold Chip.bundle
    rw [if_neg (not_not.2 hup)]
    dsimp only
    rw [if_neg (fun h => hunits (List.isEmpty_iff.1 h.1)), if_pos hk]
    rfl
  exact hdoes.congr (Pkg.bundle_of_die hk hbundle)

/-- A bundle that fails its CRC is discarded; whatever the other end sent stays to be sent again. -/
theorem Chip.dieBundle_discards {c : Chip} {k : Nat} {b : Bundle} (hbad : bndGood b = false) : c.dieBundle k true b =
    (match c.sends k false (c.linkEnd k false).ctl with
      | none => c
      | some z => c.noteSent k false z).discard k true false := by
  have hall : (c.linkEnd k false).ctl.all (fun u => c.ctlOk k true u || (c.linkEnd k false).ctl.contains u) = true :=
    List.all_eq_true.2 fun u hu => by rw [List.contains_iff_mem.2 hu, Bool.or_true]
  unfold Chip.dieBundle
  simp only [hbad, Bool.false_eq_true, if_false, Bool.not_true, hall]
  cases c.sends k false (c.linkEnd k false).ctl with
  | none => rfl
  | some z => rfl

theorem Chip.noteSent_other (c : Chip) (k : Nat) (z : SentBundle) : (c.noteSent k false z).linkEnd k true = c.linkEnd k true := by
  unfold Chip.noteSent
  dsimp only
  split
  · exact (Chip.linkEnd_setLinkEnd_ne _ _ (.inr (by decide))).trans (linkEnd_of_link rfl k true)
  · exact Chip.linkEnd_setLinkEnd_ne _ _ (.inr (by decide))

theorem Chip.noteSent_linkState (c : Chip) (k j : Nat) (a : Bool) (z : SentBundle) : (c.noteSent k a z).linkState j = c.linkState j := by
  unfold Chip.noteSent
  dsimp only
  split <;> rfl

/-- The consecutive failures of the SEQ that an end expects, with one more. -/
def LinkEnd.nextRun (e : LinkEnd) : Nat := (if e.failSeq = e.expSeq then e.failRun else 0) + 1

/-- An end asks for the SEQ that it expects after a CRC failure. -/
def LinkEnd.asks (e : LinkEnd) : LinkEnd :=
  { e with nakFor := some e.expSeq, nakOut := true, failSeq := e.expSeq, failRun := e.nextRun }

theorem Chip.discard_bad (c : Chip) (k : Nat) : c.discard k true false = if 16 ≤ (c.linkEnd k true).nextRun then
    (c.setLinkEnd k true (c.linkEnd k true).asks).failLink k 1 true else c.setLinkEnd k true (c.linkEnd k true).asks := rfl

/-- What the I/O die's end sends, as the die's end notes it. -/
def Chip.hearsBad (c : Chip) (k : Nat) : Chip :=
  match c.sends k false (c.linkEnd k false).ctl with
  | none => c.hears k true
  | some z => (c.hears k true).noteSent k false z

theorem bundleReceive_bad {s : State} {k : Nat} {b : Bundle} (hk : k < 24) (hlen : b.units.length ≤ 8) (hunits : b.units ≠ [])
    (hup : s.chip.linkState k = 2) (hbad : bndGood b = false) :
    Gives (.bundleReceive k true b) s ((s.chip.hearsBad k).discard k true false)
    ∧ (s.chip.hearsBad k).linkEnd k true = { s.chip.linkEnd k true with lastHeard := s.chip.now } ∧ (s.chip.hearsBad k).linkState k = 2 := by
  have hhears : (s.chip.hears k true).linkEnd k true = { s.chip.linkEnd k true with lastHeard := s.chip.now } := Chip.linkEnd_setLinkEnd _ _ _ _
  have hend : (s.chip.hears k true).linkEnd k false = s.chip.linkEnd k false := Chip.linkEnd_setLinkEnd_ne _ _ (.inr (by decide))
  have hsends : ∀ ctl, (s.chip.hears k true).sends k false ctl = s.chip.sends k false ctl := s.chip.sends_setLinkEnd k true _
  have hdo : (s.chip.hears k true).dieBundle k true b = (s.chip.hearsBad k).discard k true false := by
    rw [Chip.dieBundle_discards hbad, hend, hsends, Chip.hearsBad]
  refine ⟨(bundleReceive_does hk hlen hunits hup).congr hdo, ?_, ?_⟩
  · unfold Chip.hearsBad
    split
    · exact hhears
    · exact (Chip.noteSent_other _ _ _).trans hhears
  · unfold Chip.hearsBad
    split
    · exact hup
    · exact (Chip.noteSent_linkState _ _ _ _ _).trans hup

-- failover

theorem linkSibling_ne (k : Nat) : linkSibling k ≠ k := by
  unfold linkSibling
  split <;> omega

theorem Chip.sendLinkCtl_linkState (c : Chip) (k j type : Nat) (a : Bool) : (c.sendLinkCtl k a type).linkState j = c.linkState j := rfl

theorem Chip.sendLinkCtl_linkEnd (c : Chip) (k type : Nat) (a : Bool) : (c.sendLinkCtl k a type).linkEnd k a = c.linkEnd k a :=
  Chip.linkEnd_setLinkEnd_ne _ _ (.inl (linkSibling_ne k).symm)

theorem Chip.failover_linkState (c : Chip) (k j last : Nat) (a : Bool) : (c.failover k a last).linkState j = c.linkState j := by
  unfold Chip.failover
  split <;> rfl

/-- The bundles of an end that the other has not had and that can be sent again. -/
def LinkEnd.onwards (e : LinkEnd) (k last : Nat) : List SentBundle :=
  e.replay.filter (fun x => !x.bad && decide ((x.seq + seqMod k - (last + 1) % seqMod k) % seqMod k < seqMod k / 2))

/-- The sibling of a failed link takes what its end still has to send. -/
def Chip.onward (x : Chip) (k last : Nat) (a : Bool) (e : LinkEnd) : Chip :=
  let z := x.linkEnd (linkSibling k) a
  (x.setLinkEnd k a { e with replay := [], resend := [], out := [], ctl := [] }).setLinkEnd (linkSibling k) a
    { z with out := (e.onwards k last).flatMap (fun x => x.pkts) ++ e.out ++ z.out
             ctl := z.ctl ++ ((e.onwards k last).flatMap SentBundle.ctl ++ e.ctl).filter (fun u => u.toNat % 256 != 1) }

theorem Chip.failover_eq {c : Chip} {k : Nat} (last : Nat) (a : Bool) (h : c.linkState k = 3) (hs : c.linkState (linkSibling k) = 2) :
    c.failover k a last = c.onward k last a (c.linkEnd k a) := by
  have hl : ((c.linkEnd k a).unheard k last).filter (fun x => !x.bad) = (c.linkEnd k a).onwards k last := by
    rw [LinkEnd.unheard, List.filter_filter]
    rfl
  unfold Chip.failover
  rw [if_neg (by omega)]
  dsimp only
  rw [hl]
  rfl

/-- Settles O38: a bundle by what its two ends note, retries by the replay buffer, and failover by the sibling's queue. -/
theorem linkBundles : Obligations.LinkBundles := by
  unfold Obligations.LinkBundles
  refine ⟨?_, ?_, ?_, ?_, ?_, ?_⟩
  · intro s k a b z hk hlen hunits hup hgood hctl hnak e o hz hu htrailer hseq hresend
    have hme : (s.chip.hears k a).linkEnd k a = { e with lastHeard := s.chip.now } := Chip.linkEnd_setLinkEnd _ _ _ _
    have hother : (s.chip.hears k a).linkEnd k (!a) = o := Chip.linkEnd_setLinkEnd_ne _ _ (.inr (by cases a <;> decide))
    have hdone := Chip.dieBundle_accepts (c := s.chip.hears k a) hgood hctl hnak ((s.chip.sends_setLinkEnd k a _ []).trans hz) hu
      (by rw [hother]; exact htrailer) (by rw [hme]; exact hseq) (by rw [hother]; exact hresend)
    rw [hme] at hdone
    exact ⟨_, bundleReceive_does hk hlen hunits hup, hdone⟩
  · intro s k b hk hlen hunits hup hbad e run c0 c1 c
    obtain ⟨hdoes, hend, hstate⟩ := bundleReceive_bad hk hlen hunits hup hbad
    rw [Chip.discard_bad, hend] at hdoes
    refine ⟨fun h => hdoes.congr (if_neg (Nat.not_le.2 h)), fun h => ?_⟩
    have hdoes' := hdoes.congr (if_pos h)
    exact ⟨_, hdoes', Chip.failLink_status _ true (by omega) hstate (by decide)⟩
  · intro s k ack a hk hack hup hnone e hreplay
    have hdoes : GivesPkg (.nak k a ack) s ((s.toPkg.onChip (fun c => c.nak k a ack)).pairFailed k) :=
      givesPkg_of_onPkg rfl (by rw [linkOk, decide_eq_true hk, decide_eq_true hack]; rfl) rfl
    let x := s.chip.setLinkEnd k a e
    have hx : x.linkEnd k a = e := Chip.linkEnd_setLinkEnd _ _ _ _
    have hnak : s.chip.nak k a ack = x.retry k a := if_neg (not_not.2 hup)
    obtain ⟨hresend, hkept, hstate⟩ := Chip.retry_resends (c := x) (k := k) (a := a) (by rw [hx]; exact hnone) (by rw [hx]; exact hreplay)
    have hpkg : (s.toPkg.onChip (fun c => c.nak k a ack)).pairFailed k = { s.toPkg with chip := x.retry k a } := by
      rw [Pkg.onChip, show s.toPkg.chip.nak k a ack = _ from hnak]
      exact Pkg.pairFailed_of_up fun h => absurd (hup.symm.trans (hstate.symm.trans h)) (by decide)
    rw [hx] at hresend hkept
    exact ⟨_, hdoes.congr hpkg, hresend, hkept⟩
  · intro s k a hk hup hnone e due
    have hdoes : GivesPkg (.replayTimeout k a) s ((s.toPkg.onChip (fun c => c.replayTimeout k a)).pairFailed k) :=
      givesPkg_of_onPkg rfl (decide_eq_true hk) rfl
    refine ⟨fun hdue hreplay => ?_, fun hearly => ?_⟩
    · have hretry : s.chip.replayTimeout k a = s.chip.retry k a := if_pos ⟨hup, hdue⟩
      obtain ⟨hresend, -, hstate⟩ := Chip.retry_resends (c := s.chip) (k := k) (a := a) hnone hreplay
      have hpkg : (s.toPkg.onChip (fun c => c.replayTimeout k a)).pairFailed k = { s.toPkg with chip := s.chip.retry k a } := by
        rw [Pkg.onChip, show s.toPkg.chip.replayTimeout k a = _ from hretry]
        exact Pkg.pairFailed_of_up fun h => absurd (hup.symm.trans (hstate.symm.trans h)) (by decide)
      exact ⟨_, hdoes.congr hpkg, hresend⟩
    · have hstill : s.chip.replayTimeout k a = s.chip := if_neg fun h => absurd h.2 (Nat.not_le.2 hearly)
      have hpkg : (s.toPkg.onChip (fun c => c.replayTimeout k a)).pairFailed k = { s.toPkg with chip := s.chip } := by
        rw [Pkg.onChip, show s.toPkg.chip.replayTimeout k a = _ from hstill]
        exact Pkg.pairFailed_of_up fun h => absurd (hup.symm.trans h) (by decide)
      exact hdoes.congr hpkg
  · intro s k last a hk hlast hsib e unheard onward
    have hok : (linkOk k && decide (last < seqMod k)) = true := by rw [linkOk, decide_eq_true hk, decide_eq_true hlast]; rfl
    have hdown : GivesPkg (.linkDown k a last) s ((s.toPkg.onChip (fun c => c.linkDown k a last)).pairFailed k) :=
      givesPkg_of_onPkg rfl hok rfl
    have hsync : Gives (.linkSync k a last) s (s.chip.failover k a last) := gives_of_onChip rfl hok rfl
    refine ⟨fun hfailed => ⟨?_, hsync.congr (Chip.failover_eq last a hfailed hsib)⟩, fun hup => ⟨?_, ?_⟩⟩
    · have hend : (s.chip.sendLinkCtl k a 5).linkEnd k a = e := Chip.sendLinkCtl_linkEnd _ _ _ _
      have hmove : s.chip.linkDown k a last = (s.chip.sendLinkCtl k a 5).onward k last a e := by
        unfold Chip.linkDown
        rw [if_neg (show ¬ (s.chip.linkState k = 2 ∧ s.chip.linkState (linkSibling k) = 2) by omega)]
        dsimp only
        rw [if_neg (by omega), Chip.failover_eq (c := s.chip.sendLinkCtl k a 5) last a hfailed hsib, hend]
      refine hdown.congr ?_
      rw [Pkg.onChip, show s.toPkg.chip.linkDown k a last = _ from hmove]
      rfl
    · exact hsync.congr (if_pos (.inl (by omega)))
    · have hstate : (s.chip.linkDown k a last).linkState k = 3 := by
        have hmark := (s.chip.markFailed_status (cause := 0) hk (by decide)).1
        unfold Chip.linkDown
        rw [if_pos (⟨hup, hsib⟩ : s.chip.linkState k = 2 ∧ s.chip.linkState (linkSibling k) = 2)]
        dsimp only
        split
        · exact hmark
        · exact (Chip.failover_linkState _ _ _ _ _).trans hmark
      exact ⟨_, hdown, (Pkg.pairFailed_linkState _ _).trans hstate⟩
  · intro s k hk hup
    exact gives_of_onChip rfl (decide_eq_true hk) (if_pos hup)

end Sys2Proof.Machine
end

section
/-! Engine operations (R370, R381, R382): O52. -/

namespace Sys2Proof.Machine

/-- The operations of the engines: the command, its OP and what it does (R382). -/
noncomputable def engineOps (c k j : Nat) : List (Instr × Nat × (Slot → Flight → Eng → Done)) :=
  [(.copy c k j, 0x01, opCopy), (.fill c k j, 0x02, opFill), (.compare c k j, 0x03, opCompare), (.atomic c k j, 0x04, opAtomic),
    (.pack c k j, 0x10, opPack), (.unpack c k j, 0x11, opUnpack), (.verify c k j, 0x12, opVerify), (.gcmEnc c k j, 0x20, opGcmEnc),
    (.gcmDec c k j, 0x21, opGcmDec), (.xtsEnc c k j, 0x22, opXtsEnc), (.xtsDec c k j, 0x23, opXtsDec), (.hash c k j, 0x24, opHash),
    (.deflateC c k j, 0x30, opDeflateC), (.deflateD c k j, 0x31, opDeflateD), (.lz4fC c k j, 0x32, opLz4fC), (.lz4fD c k j, 0x33, opLz4fD)]

theorem engineOps_run (s : State) {c k j : Nat} (h : jobOk c k j = true) :
    ∀ e ∈ engineOps c k j, GivesPkg e.1 s (s.toPkg.runOp c k j e.2.1 e.2.2) := by
  intro e he
  simp only [engineOps, List.mem_cons, List.not_mem_nil, or_false] at he
  rcases he with rfl | rfl | rfl | rfl | rfl | rfl | rfl | rfl | rfl | rfl | rfl | rfl | rfl | rfl | rfl | rfl <;>
    exact givesPkg_of_onPkg rfl h rfl

section
variable {p : Pkg} {c k j op : Nat} {body : Slot → Flight → Eng → Done} {f : Flight} (hf : p.chip.flightAt c k j = some f)
include hf

/-- A descriptor of another operation, one that no engine has started or one that has run changes nothing. -/
theorem Pkg.runOp_idle (h : f.op ≠ op ∨ f.engine = none ∨ f.outcome.isSome = true ∨ f.segs < f.need) : p.runOp c k j op body = p := by
  unfold Pkg.runOp
  rw [hf]
  refine if_pos ?_
  rcases h with h | h | h | h <;> simp [h]

variable (hk : k < 512) (hop : f.op = op) (hstarted : f.engine.isSome = true) (hnew : f.outcome = none) (hsegs : f.need ≤ f.segs)
include hk hop hstarted hnew hsegs

theorem Pkg.runOp_due : p.runOp c k j op body = if !p.chip.instGo c k then p.onChip (fun x => x.instShort c k)
    else let d := body { c := c, k := k } f { Eng.start p with poison := f.bad }
      if d.x.wait then p
      else d.x.p.onChip (fun x => (x.onFlight c k j (fun g => { g with outcome := some (d.status, d.res) })).noteActive c) := by
  have hmbx : isMbx k = false := decide_eq_false (by omega)
  have hengine : f.engine.isNone = false := by
    rw [Option.isNone_eq_false_iff]
    exact hstarted
  unfold Pkg.runOp
  rw [hf]
  refine if_neg ?_
  simp [hmbx, hop, hengine, hnew, hsegs]

end

-- what the operations answer

theorem Eng.write_ended {x : Eng} (h : x.ended = true) (o : Slot) (a : Nat) (l : List Byte) : x.write o a l = x := by
  have hfold : ∀ (lines : List Nat) (g : Eng → Nat → Eng), lines.foldl (fun (y : Eng) line => if y.ended then y else g y line) x = x :=
    fun lines g => by
      induction lines with
      | nil => rfl
      | cons a lines ih => rw [List.foldl_cons, if_pos h, ih]
  unfold Eng.write
  split
  · rfl
  · exact hfold _ _

theorem Eng.resultOr_ok {x : Eng} (hst : x.st = 0) (hp : x.poison = false) (v : Word) : (x.resultOr 0 v).res = v := by
  unfold Eng.resultOr
  rw [if_neg (by simp [hst, hp])]

/-- The first byte at which two strings differ. -/
def firstDiff (a b : List Byte) : Option Nat := firstIdx (fun (q : Byte × Byte) => q.1 != q.2) (a.zip b)

theorem firstDiff_self (a : List Byte) : firstDiff a a = none := by
  unfold firstDiff
  induction a with
  | nil => rfl
  | cons x a ih => rw [List.zip_cons_cons, firstIdx, if_neg (by simp), ih]; rfl

theorem firstDiff_at {a b : List Byte} {n : Nat} (hn : n < a.length) (hlen : a.length = b.length) (hsame : a.take n = b.take n)
    (hdiff : a[n]? ≠ b[n]?) : firstDiff a b = some n := by
  unfold firstDiff
  induction n generalizing a b with
  | zero =>
    cases a with
    | nil => exact absurd hn (Nat.not_lt_zero _)
    | cons x a =>
      cases b with
      | nil => exact absurd hlen (by simp)
      | cons y b =>
        have hxy : x ≠ y := fun h => hdiff (by simp [h])
        rw [List.zip_cons_cons, firstIdx, if_pos (by simpa using hxy)]
  | succ n ih =>
    cases a with
    | nil => exact absurd hn (Nat.not_lt_zero _)
    | cons x a =>
      cases b with
      | nil => exact absurd hlen (by simp)
      | cons y b =>
        obtain ⟨hxy, htake⟩ := List.cons.inj hsame
        rw [List.zip_cons_cons, firstIdx, if_neg (by simp [hxy]),
          ih (Nat.lt_of_succ_lt_succ hn) (Nat.succ.inj hlen) htake (by simpa using hdiff)]
        rfl

/-- Settles O52: a descriptor runs once, whole, and each operation answers as its accesses went. -/
theorem engineOperations : Obligations.EngineOperations := by
  unfold Obligations.EngineOperations
  refine ⟨?_, ?_, ?_, ?_⟩
  · intro s c k j op i body f hc hk hj hmem hf
    have hok : jobOk c k j = true := by
      rw [jobOk, decide_eq_true hc, decide_eq_true hk, decide_eq_true (show j < 2 ^ 16 from hj)]
      rfl
    have hdoes : GivesPkg i s (s.toPkg.runOp c k j op body) := engineOps_run s hok (i, op, body) hmem
    refine ⟨fun hop hstarted hnew hsegs hgo => ?_, fun hop hstarted hnew hsegs hgo => ?_, fun h => ?_⟩
    · have hrun := Pkg.runOp_due (body := body) (p := s.toPkg) hf hk hop hstarted hnew hsegs
      rw [if_neg (show ¬ (!s.toPkg.chip.instGo c k) = true by rw [show s.toPkg.chip.instGo c k = true from hgo]; decide)] at hrun
      exact ⟨fun hwait => hdoes.congr (hrun.trans (if_pos hwait)),
        fun hwait => hdoes.congr (hrun.trans (if_neg (by rw [hwait]; decide)))⟩
    · refine hdoes.congr ((Pkg.runOp_due (body := body) (p := s.toPkg) hf hk hop hstarted hnew hsegs).trans (if_pos ?_))
      rw [show s.toPkg.chip.instGo c k = false from hgo]
      rfl
    · exact hdoes.congr (Pkg.runOp_idle (p := s.toPkg) hf h)
  · intro o f x hended
    exact Eng.write_ended hended _ _ _
  · intro o f x a b hst hp
    have hres : ∀ v, (b.1.resultOr 0 v).res = v := Eng.resultOr_ok hst hp
    refine ⟨fun heq => ?_, fun n hn hlen _ htake hdiff => ?_⟩
    · refine (hres _).trans ?_
      rw [show firstIdx _ (a.2.zip b.2) = firstDiff a.2 b.2 from rfl, heq, firstDiff_self]
    · refine (hres _).trans ?_
      rw [show firstIdx _ (a.2.zip b.2) = firstDiff a.2 b.2 from rfl, firstDiff_at hn hlen htake hdiff]
  · intro o f x r hended hopen
    unfold opGcmDec
    dsimp only
    rw [if_neg (by rw [hended]; decide), hopen]

end Sys2Proof.Machine
end

section
/-! Instances of the service engines and their rings (R370 to R391): O51. -/

namespace Sys2Proof.Machine

-- what an engine holds

@[simp] theorem Chip.inst_onInst (x : Chip) (c k : Nat) (f : InstSt → InstSt) : (x.onInst c k f).inst c k = f (x.inst c k) :=
  sget_sset_self _ _ _ _

theorem inst_of_insts {x y : Chip} (h : y.insts = x.insts) (c k : Nat) : y.inst c k = x.inst c k := by
  rw [Chip.inst, h, ← Chip.inst]

theorem Chip.noteActive_insts (x : Chip) (c : Nat) : (x.noteActive c).insts = x.insts := forUpTo_same Chip.insts (fun _ _ => rfl) 8 x

theorem Chip.noteActive_status (x : Chip) (c k : Nat) : (x.noteActive c).reg (.SE_INST_STATUS c k) = x.reg (.SE_INST_STATUS c k) :=
  forUpTo_same_of_lt (fun y : Chip => y.reg (.SE_INST_STATUS c k)) 8
    (fun e he y => Chip.reg_setFld_ne _ _ _ (by simp only [Reg.offset]; omega)) x

theorem Chip.noteActive_segments (x : Chip) (c e : Nat) :
    (x.noteActive c).fld (.SE_ENG_STATUS c e) F.SE_ENG_STATUS_SEGMENTS = x.fld (.SE_ENG_STATUS c e) F.SE_ENG_STATUS_SEGMENTS := by
  refine forUpTo_same (fun y : Chip => y.fld (.SE_ENG_STATUS c e) F.SE_ENG_STATUS_SEGMENTS) (fun i y => ?_) 8 x
  by_cases h : e = i
  · rw [h]
    exact Chip.fld_setFld_apart _ _ _ (by decide)
  · exact Chip.fld_setFld_ne _ _ _ _ (by simp only [Reg.offset]; omega)

theorem Chip.noteInflight_insts (x : Chip) (c k : Nat) : (x.noteInflight c k).insts = x.insts := (rfl)

theorem Chip.onInst_fld (x : Chip) (c k : Nat) (f : InstSt → InstSt) (r : Reg) (g : Field) : (x.onInst c k f).fld r g = x.fld r g := (rfl)

theorem Chip.noteInflight_fld (x : Chip) (c k : Nat) {f : Field} (h : F.SE_INST_STATUS_INFLIGHT.apart f = true) :
    (x.noteInflight c k).fld (.SE_INST_STATUS c k) f = x.fld (.SE_INST_STATUS c k) f := Chip.fld_setFld_apart _ _ _ h

theorem Chip.discardUnstarted_fld (x : Chip) (c k : Nat) {f : Field} (h : F.SE_INST_STATUS_INFLIGHT.apart f = true) :
    (x.discardUnstarted c k).fld (.SE_INST_STATUS c k) f = x.fld (.SE_INST_STATUS c k) f :=
  (Chip.fld_of_reg (Chip.noteActive_status _ c k) _).trans (Chip.noteInflight_fld _ c k h)

theorem Chip.discardUnstarted_resetAt (x : Chip) (c k : Nat) : ((x.discardUnstarted c k).inst c k).resetAt = (x.inst c k).resetAt := by
  unfold Chip.discardUnstarted
  rw [inst_of_insts (Chip.noteActive_insts _ c), inst_of_insts (Chip.noteInflight_insts _ c k), Chip.inst_onInst]

theorem Chip.instFault_status (x : Chip) (c k : Nat) : (x.instFault c k).reg (.SE_INST_STATUS c k) = x.reg (.SE_INST_STATUS c k) := by
  unfold Chip.instFault
  split
  · rfl
  · exact Chip.report_reg _ _ _ _ _ _ _ _ _

theorem Chip.instFault_insts (x : Chip) (c k : Nat) : (x.instFault c k).insts = x.insts := by
  unfold Chip.instFault
  split
  · rfl
  · rw [Chip.report_frame]

theorem Chip.setInstState_state (x : Chip) (c k : Nat) {st : Nat} (h : st < 8) : (x.setInstState c k st).instState c k = st :=
  Chip.fld_setFld_of_lt _ _ _ (by decide) (by decide) h

-- reset, error, enabling

/-- RESET begins a reset. -/
theorem Chip.instReset_resets {x : Chip} {c k : Nat} (h : x.instState c k ≠ 2) (h4 : x.instState c k ≠ 4) :
    (x.instReset c k false).instState c k = 2 ∧ ((x.instReset c k false).inst c k).resetAt.isSome = true := by
  have h4' : (x.instState c k == 4) = false := beq_false_of_ne h4
  unfold Chip.instReset
  dsimp only
  rw [if_neg (fun h' => h h'.1), h4', if_neg (by decide)]
  constructor
  · exact (Chip.discardUnstarted_fld _ c k (by decide)).trans (x.setInstState_state c k (by decide))
  · rw [Chip.discardUnstarted_resetAt, Chip.inst_onInst]
    rfl

theorem Chip.ringError_errs {x : Chip} {c k cause : Nat} (h : x.instState c k = 1) (hc : cause < 2 ^ F.SE_INST_STATUS_ERR_CAUSE.width) :
    (x.ringError c k cause).instState c k = 3
    ∧ (x.ringError c k cause).fld (.SE_INST_STATUS c k) F.SE_INST_STATUS_ERR_CAUSE = cause := by
  unfold Chip.ringError
  rw [if_neg (not_not.2 h)]
  constructor
  · refine (Chip.fld_of_reg (Chip.instFault_status _ c k) _).trans ((Chip.discardUnstarted_fld _ c k (by decide)).trans ?_)
    exact (Chip.fld_setFld_apart _ _ _ (by decide)).trans (x.setInstState_state c k (by decide))
  · refine (Chip.fld_of_reg (Chip.instFault_status _ c k) _).trans ((Chip.discardUnstarted_fld _ c k (by decide)).trans ?_)
    exact Chip.fld_setFld_of_lt _ _ _ (by decide) (by decide) hc

theorem Chip.ringError_idle {x : Chip} {c k : Nat} (cause : Nat) (h : x.instState c k ≠ 1) : x.ringError c k cause = x := if_pos h

theorem Chip.zeroRings_head (x : Chip) {c k : Nat} (_ : k < 544) : (x.zeroRings c k).fld (.SE_INST_STATUS c k) F.SE_INST_STATUS_HEAD = 0 := by
  unfold Chip.zeroRings
  rw [Chip.noteInflight_fld _ c k (by decide), Chip.onInst_fld]
  have hreg : ∀ (y : Chip) (r : Reg), (Reg.SE_INST_STATUS c k).offset ≠ r.offset →
      (y.resetReg r).fld (.SE_INST_STATUS c k) F.SE_INST_STATUS_HEAD = y.fld (.SE_INST_STATUS c k) F.SE_INST_STATUS_HEAD :=
    fun y r hr => Chip.fld_of_reg (Chip.reg_setReg_ne _ _ hr) _
  rw [hreg _ (.SE_DB_DLV_TAIL c k) (by simp only [Reg.offset]; omega), hreg _ (.SE_DB_CPL_HEAD c k) (by simp only [Reg.offset]; omega),
    hreg _ (.SE_DB_TAIL c k) (by simp only [Reg.offset]; omega)]
  exact Chip.fld_setFld_of_lt _ _ _ (by decide) (by decide) (by decide)

/-- A reset that has nothing left to drain ends. -/
theorem Chip.instResetDone_done {x : Chip} {c k : Nat} (hk : k < 544) (hst : x.instState c k = 2 ∨ x.instState c k = 4)
    (hreset : (x.inst c k).resetAt.isSome = true) (hempty : (x.inst c k).inflight = []) :
    (x.instResetDone c k).instState c k = (if x.instState c k = 4 then 4 else 0)
    ∧ (x.instResetDone c k).bit (.SE_INST_STATUS c k) F.SE_INST_STATUS_RESET_DONE = true
    ∧ (x.instResetDone c k).fld (.SE_INST_STATUS c k) F.SE_INST_STATUS_HEAD = 0 := by
  unfold Chip.instResetDone
  dsimp only
  rw [if_pos ⟨hst, hreset, hempty⟩]
  refine ⟨?_, Chip.bit_setBit _ _ _ _ (by decide) (by decide), ?_⟩
  · exact (Chip.fld_setBit_apart _ _ _ (by decide)).trans (Chip.setInstState_state _ c k (by split <;> decide))
  · exact (Chip.fld_setBit_apart _ _ _ (by decide)).trans ((Chip.fld_setFld_apart _ _ _ (by decide)).trans (x.zeroRings_head hk))

-- doorbells and refusals

section
variable {x : Chip} {who : Who} {c k : Nat}

theorem Chip.byInst_may (h : x.mayInst who c k = true) (r : Reg) (f : Chip → Chip) : x.byInst who c k r f = f x := if_pos h

theorem Chip.byInst_no (h : x.mayInst who c k = false) (h' : x.instOther who c k = false) (r : Reg) (f : Chip → Chip) :
    x.byInst who c k r f = x := (if_neg (by rw [h]; decide)).trans (if_neg (by rw [h']; decide))

theorem Chip.mayInst_of_other (h : x.instOther who c k = true) : x.mayInst who c k = false := by
  unfold Chip.instOther at h
  simp only [Bool.and_eq_true, Bool.not_eq_true', bne_iff_ne] at h
  obtain ⟨⟨⟨hdown, huz⟩, -⟩, howner⟩ := h
  rw [Chip.mayInst, hdown, huz, beq_false_of_ne howner, Bool.and_false]
  rfl

theorem Chip.byInst_other (h : x.instOther who c k = true) (r : Reg) (f : Chip → Chip) : x.byInst who c k r f = x.refuseWrite who r :=
  (if_neg (by rw [Chip.mayInst_of_other h]; decide)).trans (if_pos h)

/-- A doorbell of an engine that runs takes an index within the ring; another is a ring error. -/
theorem Chip.doorbellWrite_runs (hmay : x.mayInst who c k = true) (hbar : x.throughBar who c k = true) (hst : x.instState c k = 1)
    (r : Reg) (v : Word) : x.doorbellWrite who c k r v = if x.ringSize c k ≤ F.SE_DB_TAIL_INDEX.get v then x.ringError c k 1
      else x.setFld r F.SE_DB_TAIL_INDEX (F.SE_DB_TAIL_INDEX.get v) :=
  (Chip.byInst_may hmay r _).trans ((if_pos hbar).trans (if_neg (not_not.2 hst)))

end

-- the sharing of the engines

theorem Chip.readySlots_spec {x : Chip} {c e k : Nat} (h : k ∈ x.readySlots c e) : k < 512 ∧ (x.readyFor c k e).isSome = true := by
  obtain ⟨hin, hready⟩ := List.mem_filter.1 h
  obtain ⟨i, -, rfl⟩ := List.mem_map.1 hin
  exact ⟨Nat.mod_lt _ (by decide), hready⟩

/-- An engine serves a slot that is ready, and one that is short of its weight where there is one. -/
theorem Chip.choose_spec {x : Chip} {c e k : Nat} (h : x.choose c e = some k) : k < 512 ∧ (x.readyFor c k e).isSome = true
    ∧ ((∃ i ∈ x.readySlots c e, x.hadOf c i e < x.weightOf c i) → x.hadOf c k e < x.weightOf c k) := by
  unfold Chip.choose at h
  dsimp only at h
  split at h
  next j hj =>
    obtain rfl := Option.some.inj h
    obtain ⟨hlt, hready⟩ := Chip.readySlots_spec (List.mem_of_find?_eq_some hj)
    exact ⟨hlt, hready, fun _ => by simpa using List.find?_some hj⟩
  next hnone =>
    obtain ⟨hlt, hready⟩ := Chip.readySlots_spec (List.mem_of_mem_head? h)
    refine ⟨hlt, hready, fun ⟨i, hi, hshort⟩ => ?_⟩
    exact absurd (decide_eq_true hshort) (List.find?_eq_none.1 hnone i hi)

theorem nextStart_mem {l : List Flight} {f : Flight} (h : nextStart l = some f) : f ∈ l := by
  unfold nextStart at h
  split at h
  next g hg =>
    split at h
    · exact absurd h (by simp)
    · obtain rfl := Option.some.inj h
      exact List.mem_of_find?_eq_some hg
  next => exact absurd h (by simp)

theorem Chip.readyFor_mem {x : Chip} {c k e : Nat} {f : Flight} (h : x.readyFor c k e = some f) : f ∈ (x.inst c k).inflight := by
  unfold Chip.readyFor at h
  dsimp only at h
  split at h
  · exact absurd h (by simp)
  · split at h
    next g hg =>
      split at h
      · obtain rfl := Option.some.inj h
        exact List.mem_of_find?_eq_some hg
      · exact absurd h (by simp)
    next =>
      split at h
      · exact nextStart_mem h
      · exact absurd h (by simp)

/-- A count of segments leaves the registers and what is in flight. -/
theorem Chip.setHad_same (x : Chip) (c i e n k : Nat) : (x.setHad c i e n).regs = x.regs
    ∧ ((x.setHad c i e n).inst c k).inflight = (x.inst c k).inflight := by
  refine ⟨rfl, ?_⟩
  by_cases h : instKey c k = instKey c i
  · rw [Chip.inst, h, ← Chip.inst, Chip.setHad, Chip.inst_onInst, Chip.inst, ← h, ← Chip.inst]
  · exact congrArg InstSt.inflight (sget_sset_ne _ _ h _ _)

/-- The rounds of an engine as it serves a segment. -/
def Chip.rounds (x : Chip) (c e : Nat) (fresh : Bool) (ready : List Nat) : Chip :=
  (List.range 512).foldl (fun (y : Chip) i => if y.hadOf c i e != 0 && (fresh || !ready.contains i) then y.setHad c i e 0 else y) x

theorem Chip.rounds_same (x : Chip) (c e k : Nat) (fresh : Bool) (ready : List Nat) : (x.rounds c e fresh ready).regs = x.regs
    ∧ ((x.rounds c e fresh ready).inst c k).inflight = (x.inst c k).inflight := by
  constructor
  · refine foldl_same Chip.regs (fun y i => ?_) _ x
    split
    · exact (y.setHad_same c i e 0 k).1
    · rfl
  · refine foldl_same (fun y : Chip => (y.inst c k).inflight) (fun y i => ?_) _ x
    split
    · exact (y.setHad_same c i e 0 k).2
    · rfl

/-- An engine serves one segment of descriptor f of slot k. -/
def Chip.serveSegment (x : Chip) (c e k : Nat) (f : Flight) : Chip :=
  let x2 := (x.setHad c k e (x.hadOf c k e + 1)).onFlight c k f.j (fun g => { g with engine := some e, segs := g.segs + 1 })
  let x3 := x2.setFld (.SE_ENG_STATUS c e) F.SE_ENG_STATUS_SEGMENTS ((x2.fld (.SE_ENG_STATUS c e) F.SE_ENG_STATUS_SEGMENTS + 1) % 2 ^ 48)
  ({ x3 with engRR := sset 0 (c * 8 + e) ((k + 1) % 512) x3.engRR } : Chip).noteActive c

theorem Chip.serveSegment_spec (x : Chip) (c e k : Nat) {f : Flight} (hf : f ∈ (x.inst c k).inflight) :
    (∃ g ∈ ((x.serveSegment c e k f).inst c k).inflight, g.j = f.j ∧ g.engine = some e ∧ g.segs = f.segs + 1)
    ∧ (x.serveSegment c e k f).fld (.SE_ENG_STATUS c e) F.SE_ENG_STATUS_SEGMENTS
      = (x.fld (.SE_ENG_STATUS c e) F.SE_ENG_STATUS_SEGMENTS + 1) % 2 ^ 48 := by
  let y := x.setHad c k e (x.hadOf c k e + 1)
  let x2 := y.onFlight c k f.j (fun g => { g with engine := some e, segs := g.segs + 1 })
  let x3 := x2.setFld (.SE_ENG_STATUS c e) F.SE_ENG_STATUS_SEGMENTS ((x2.fld (.SE_ENG_STATUS c e) F.SE_ENG_STATUS_SEGMENTS + 1) % 2 ^ 48)
  let x4 : Chip := { x3 with engRR := sset 0 (c * 8 + e) ((k + 1) % 512) x3.engRR }
  obtain ⟨hregs, hflight⟩ := x.setHad_same c k e (x.hadOf c k e + 1) k
  have hserves : x.serveSegment c e k f = x4.noteActive c := rfl
  rw [hserves]
  constructor
  · refine ⟨{ f with engine := some e, segs := f.segs + 1 }, ?_, rfl, rfl, rfl⟩
    have hinst : (x4.noteActive c).inst c k = x2.inst c k := inst_of_insts (Chip.noteActive_insts x4 c) c k
    have hmap : (x2.inst c k).inflight = (y.inst c k).inflight.map (fun g => if g.j = f.j then { g with engine := some e, segs := g.segs + 1 } else g) :=
      congrArg InstSt.inflight (Chip.inst_onInst y c k _)
    rw [hinst, hmap, hflight]
    exact List.mem_map.2 ⟨f, hf, if_pos rfl⟩
  · have hold : x2.fld (.SE_ENG_STATUS c e) F.SE_ENG_STATUS_SEGMENTS = x.fld (.SE_ENG_STATUS c e) F.SE_ENG_STATUS_SEGMENTS :=
      Chip.fld_of_reg (Chip.reg_of_regs hregs _) _
    have hnew : x3.fld (.SE_ENG_STATUS c e) F.SE_ENG_STATUS_SEGMENTS = (x2.fld (.SE_ENG_STATUS c e) F.SE_ENG_STATUS_SEGMENTS + 1) % 2 ^ 48 :=
      Chip.fld_setFld_of_lt x2 _ _ (by decide) (by decide) (Nat.mod_lt _ (by decide))
    rw [Chip.noteActive_segments, ← hold, ← hnew]
    rfl

/-- The descriptor that an engine serves has one segment more, and the engine counts it. -/
theorem Chip.segment_serves {x : Chip} {c e k : Nat} {f : Flight} (hk : x.choose c e = some k) (hf : x.readyFor c k e = some f) :
    (∃ g ∈ ((x.segment c e).inst c k).inflight, g.j = f.j ∧ g.engine = some e ∧ g.segs = f.segs + 1)
    ∧ (x.segment c e).fld (.SE_ENG_STATUS c e) F.SE_ENG_STATUS_SEGMENTS
      = (x.fld (.SE_ENG_STATUS c e) F.SE_ENG_STATUS_SEGMENTS + 1) % 2 ^ 48 := by
  have hseg : ∃ fresh ready, x.segment c e = (x.rounds c e fresh ready).serveSegment c e k f := by
    unfold Chip.segment
    rw [hk]
    dsimp only
    rw [hf]
    exact ⟨_, _, rfl⟩
  obtain ⟨fresh, ready, hseg⟩ := hseg
  obtain ⟨hregs, hflight⟩ := x.rounds_same c e k fresh ready
  generalize x.rounds c e fresh ready = y at hseg hregs hflight
  obtain ⟨hserved, hcount⟩ := y.serveSegment_spec c e k (f := f) (by rw [hflight]; exact Chip.readyFor_mem hf)
  rw [hseg]
  exact ⟨hserved, hcount.trans (by rw [Chip.fld_of_reg (Chip.reg_of_regs hregs _)])⟩

-- completion

theorem Chip.noteWake_same (x : Chip) (n : Nat) : (x.noteWake n).regs = x.regs ∧ (x.noteWake n).insts = x.insts := by
  unfold Chip.noteWake
  exact ⟨rfl, rfl⟩

theorem Chip.sendMsix_same (x : Chip) (n f vec : Nat) : (x.sendMsix n f vec).regs = x.regs ∧ (x.sendMsix n f vec).insts = x.insts := by
  unfold Chip.sendMsix
  split
  · have hwake := (x.onFn n f (fun s => { s with msix := addOnce vec s.msix, pmeSts := true })).noteWake_same n
    dsimp only
    split
    · exact ⟨hwake.1, hwake.2⟩
    · exact hwake
  · exact ⟨rfl, rfl⟩

/-- The completion of a descriptor is told: by its interrupt, where it asks for one. -/
def Chip.tellDone (x : Chip) (c k : Nat) (irq : Bool) : Chip :=
  if !irq then x
  else match x.bound c k with
    | some (n, g) => x.sendMsix n g (x.fld (.SE_INST_CFG c k) F.SE_INST_CFG_VEC)
    | none => if isMbx k then x else x.raiseEvent (instEvent c k)

theorem instEvent_lt {c k : Nat} (hc : c < 2) (hk : k < 544) : instEvent c k < 4096 := by
  unfold instEvent
  split <;> omega

theorem Chip.tellDone_same (x : Chip) {c k : Nat} (irq : Bool) (hc : c < 2) (hk : k < 544) :
    (x.tellDone c k irq).insts = x.insts ∧ (x.tellDone c k irq).reg (.SE_INST_STATUS c k) = x.reg (.SE_INST_STATUS c k) := by
  have he := instEvent_lt hc hk
  unfold Chip.tellDone
  split
  · exact ⟨rfl, rfl⟩
  · split
    · obtain ⟨hregs, hinsts⟩ := x.sendMsix_same _ _ _
      exact ⟨hinsts, Chip.reg_of_regs hregs _⟩
    · split
      · exact ⟨rfl, rfl⟩
      · refine ⟨?_, Chip.reg_raiseEvent_ne _ _ (by simp only [Reg.offset]; omega)⟩
        rw [Chip.raiseEvent_frame]

/-- A completion takes the oldest descriptor from those in flight, and counts. -/
theorem Chip.completed_spec (x : Chip) {c k : Nat} (f : Flight) (st : Nat) (hc : c < 2) (hk : k < 544) :
    let y := x.completed { c := c, k := k } f st
    (y.inst c k).inflight = (x.inst c k).inflight.drop 1 ∧ (y.inst c k).cplNext = (f.j + 1) % x.ringSize c k
    ∧ y.fld (.SE_INST_STATUS c k) F.SE_INST_STATUS_COMPLETED = (x.fld (.SE_INST_STATUS c k) F.SE_INST_STATUS_COMPLETED + 1) % 2 ^ 24 := by
  let x1 := x.onInst c k (fun s => { s with
    inflight := s.inflight.drop 1
    cplNext := (f.j + 1) % x.ringSize c k
    phase := if f.j + 1 = x.ringSize c k then !s.phase else s.phase })
  let x0 := x1.setFld (.SE_INST_STATUS c k) F.SE_INST_STATUS_COMPLETED ((x1.fld (.SE_INST_STATUS c k) F.SE_INST_STATUS_COMPLETED + 1) % 2 ^ 24)
  let x2 := (x0.noteInflight c k).noteActive c
  let x3 := if st = 0 ∨ st = 8 then x2 else x2.instFault c k
  have hdone : x.completed { c := c, k := k } f st = x3.tellDone c k f.irq := rfl
  obtain ⟨hinsts, hstatus⟩ := x3.tellDone_same f.irq hc hk
  have h3 : x3.insts = x2.insts ∧ x3.reg (.SE_INST_STATUS c k) = x2.reg (.SE_INST_STATUS c k) := by
    by_cases h : st = 0 ∨ st = 8
    · rw [show x3 = x2 from if_pos h]
      exact ⟨rfl, rfl⟩
    · rw [show x3 = x2.instFault c k from if_neg h]
      exact ⟨x2.instFault_insts c k, x2.instFault_status c k⟩
  have hinst : (x3.tellDone c k f.irq).inst c k = x1.inst c k :=
    (inst_of_insts (hinsts.trans (h3.1.trans (Chip.noteActive_insts _ c))) c k).trans (inst_of_insts (Chip.noteInflight_insts x0 c k) c k)
  have hx1 : x1.inst c k = _ := Chip.inst_onInst x c k _
  dsimp only
  rw [hdone, hinst, hx1]
  refine ⟨rfl, rfl, ?_⟩
  refine (Chip.fld_of_reg (hstatus.trans (h3.2.trans (Chip.noteActive_status _ c k))) _).trans ?_
  refine (Chip.noteInflight_fld x0 c k (by decide)).trans ?_
  exact Chip.fld_setFld_of_lt x1 _ _ (by decide) (by decide) (Nat.mod_lt _ (by decide))


-- the commands of an engine

section
variable {s : State} {who : Who} {c k : Nat} (hok : instOk c k = true)
include hok

theorem enable_does : Gives (.enable who c k) s (s.chip.byInst who c k (.SE_INST_CTL c k) (fun y => y.instEnable c k)) :=
  gives_of_onChip rfl hok rfl

theorem reset_does : Gives (.reset who c k) s (s.chip.byInst who c k (.SE_INST_CTL c k) (fun y => y.instResetCmd c k)) :=
  gives_of_onChip rfl hok rfl

theorem shareWrite_does (v : Word) : Gives (.seInstShareWrite who c k v) s
    (s.chip.byInst who c k (.SE_INST_SHARE c k) (fun y => y.storeFields (.SE_INST_SHARE c k) v)) := gives_of_onChip rfl hok rfl

theorem tailWrite_does (v : Word) : Gives (.seDbTailWrite who c k v) s (s.chip.doorbellWrite who c k (.SE_DB_TAIL c k) v) :=
  gives_of_onChip rfl hok rfl

theorem cplHeadWrite_does (v : Word) : Gives (.seDbCplHeadWrite who c k v) s (s.chip.doorbellWrite who c k (.SE_DB_CPL_HEAD c k) v) :=
  gives_of_onChip rfl hok rfl

end

-- the rings

/-- A descriptor that has been fetched joins those in flight. -/
def Chip.tookDesc (x : Chip) (c k j : Nat) (g : Flight) : Chip :=
  ((x.setFld (.SE_INST_STATUS c k) F.SE_INST_STATUS_HEAD ((j + 1) % x.ringSize c k)).onInst c k (fun y =>
    { y with inflight := y.inflight ++ [g] })).noteInflight c k

theorem Pkg.descFetch_reads {p : Pkg} {c k : Nat} (hmay : p.chip.mayFetch c k = true) (hgo : p.chip.instGo c k = true)
    (haddr : p.chip.addrBad { c := c, k := k } (p.chip.ringBase (.SE_INST_DRING c k)) = false) {r : Eng × List Byte}
    (hr : (Eng.start p).read { c := c, k := k } (p.chip.ringBase (.SE_INST_DRING c k) + 64 * p.chip.fld (.SE_INST_STATUS c k) F.SE_INST_STATUS_HEAD) 64 = r)
    (hwait : r.1.wait = false) :
    let j := p.chip.fld (.SE_INST_STATUS c k) F.SE_INST_STATUS_HEAD
    let f : Flight := { j := j, desc := r.2, engine := none, segs := 0, outcome := none, delivered := false }
    p.descFetch c k = if r.1.st ≠ 0 ∨ r.1.poison then r.1.p.onChip (fun x => x.ringError c k 2)
      else r.1.p.onChip (fun x => x.tookDesc c k j (if !isMbx k && p.chip.descBad { c := c, k := k } f then { f with outcome := some (1, 0) } else f)) := by
  unfold Pkg.descFetch
  simp only [hmay, hgo, haddr, hr, hwait, Bool.not_true, Bool.false_eq_true, if_false]
  rfl

theorem Pkg.complete1_waits {p : Pkg} {c k : Nat} {f : Flight} {rest : List Flight} (hflight : (p.chip.inst c k).inflight = f :: rest)
    (h : f.outcome = none) : p.complete1 c k = p := by
  unfold Pkg.complete1
  simp only [hflight, List.head?_cons, h]

theorem Pkg.complete1_writes {p : Pkg} {c k st : Nat} {res : Word} {f : Flight} {rest : List Flight}
    (hflight : (p.chip.inst c k).inflight = f :: rest) (h : f.outcome = some (st, res)) (hspoil : isMbx k = true ∨ spoils st = false)
    (hgo : p.chip.instGo c k = true) (hoff : (p.chip.inst c k).cplOff = false) (hdest : p.chip.destWaits { c := c, k := k } f = false)
    (haddr : p.chip.addrBad { c := c, k := k } (p.chip.ringBase (.SE_INST_CRING c k)) = false) {y : Eng}
    (hy : (Eng.start p).write { c := c, k := k } (p.chip.ringBase (.SE_INST_CRING c k) + 16 * f.j) (f.record st res (p.chip.inst c k).phase) = y)
    (hwait : y.wait = false) :
    p.complete1 c k = if y.st ≠ 0 then y.p.onChip (fun x => (x.ringError c k 3).onInst c k (fun z => { z with cplOff := true }))
      else y.p.onChip (fun x => x.completed { c := c, k := k } f st) := by
  have hkeep : (!isMbx k && spoils st) = false := by
    rcases hspoil with h | h <;> rw [h]
    · rfl
    · exact Bool.and_false _
  unfold Pkg.complete1
  simp only [hflight, List.head?_cons, h, hoff, hdest, hgo, hkeep, haddr, hy, hwait, Bool.or_self, Bool.not_true, Bool.false_eq_true, if_false]

theorem Pkg.drainExpired_done (p : Pkg) {c k : Nat} (h : p.chip.drainOver c k = true) :
    ∀ f ∈ ((p.drainExpired c k).chip.inst c k).inflight, f.outcome.isSome = true := by
  have hleft : ∃ q keep, p.drainExpired c k = Pkg.onChip q (fun x => ((x.onInst c k (fun s => { s with inflight := keep })).noteInflight c k).noteActive c)
      ∧ ∀ f ∈ keep, f.outcome.isSome = true := by
    unfold Pkg.drainExpired
    dsimp only
    rw [if_neg (by rw [h]; decide)]
    refine ⟨_, _, rfl, fun f hf => ?_⟩
    split at hf
    · exact absurd hf List.not_mem_nil
    · exact List.mem_takeWhile_imp (p := fun f : Flight => f.outcome.isSome) hf
  obtain ⟨q, keep, hq, hkeep⟩ := hleft
  rw [hq, Pkg.onChip_chip, inst_of_insts (Chip.noteActive_insts _ c), inst_of_insts (Chip.noteInflight_insts _ c k), Chip.inst_onInst]
  exact hkeep

theorem Pkg.deliver_of {p : Pkg} {c k : Nat} {f : Flight} (hmbx : 512 ≤ k) (hflight : (p.chip.inst c k).inflight.find? (fun g => !g.delivered) = some f)
    (hst : p.chip.instState c k = 1) : p.deliver c k =
    let a := p.chip.dlvAddr c k f.j
    if 2 ^ 52 ≤ a then p.onChip (fun x => x.ringError c k 4)
    else if !p.chip.rangeIdle a 64 then p
    else if !p.chip.instGo c k then p.onChip (fun x => x.instShort c k)
    else
      let w := p.writeBytes (instRid c k) (p.chip.instOwner c k) (p.chip.instLabel c k) a f.desc false
      if w.2 ≠ 0 then w.1.onChip (fun x => x.ringError c k 4)
      else w.1.onChip (fun x => ((x.onFlight c k f.j (fun g => { g with delivered := true })).setFld (.SE_DB_DLV_TAIL c k)
        F.SE_DB_TAIL_INDEX ((f.j + 1) % x.ringSize c k)).raiseEvent (instEvent c k)) := by
  unfold Pkg.deliver
  rw [hflight]
  refine if_neg ?_
  rw [hst, isMbx, decide_eq_true hmbx]
  decide

section
variable {p : Pkg} {who : Who} {c k : Nat} {v : Word} (hmbx : 512 ≤ k) (hmay : p.chip.mayInst who c k = true)
  (hbar : p.chip.throughBar who c k = true)
include hmbx hmay hbar

theorem Pkg.dbReturn_refused (h : ∀ f, p.chip.flightAt c k (F.SE_DB_TAIL_INDEX.get v) = some f → f.delivered = false ∨ f.outcome.isSome = true) :
    p.dbReturn who c k v = p.onChip (fun x => x.instRefuse c k) := by
  have hm : isMbx k = true := decide_eq_true hmbx
  unfold Pkg.dbReturn
  simp only [hm, hmay, hbar, Bool.not_true, Bool.false_eq_true, if_false]
  split
  · rfl
  next f hf =>
    refine if_pos ?_
    rcases h f hf with h | h <;> rw [h]
    · rfl
    · exact Bool.or_true _

theorem Pkg.dbReturn_takes {f : Flight} (hf : p.chip.flightAt c k (F.SE_DB_TAIL_INDEX.get v) = some f) (hdel : f.delivered = true)
    (hout : f.outcome = none) {r : Pkg × List Byte × Nat × Bool}
    (hr : p.readBytes (instRid c k) (p.chip.instOwner c k) (p.chip.instLabel c k) (p.chip.dlvAddr c k (F.SE_DB_TAIL_INDEX.get v) % 2 ^ 52) 16 = r)
    (hst : r.2.2.1 = 0) (hp : r.2.2.2 = false) :
    p.dbReturn who c k v = r.1.onChip (fun x => x.onFlight c k (F.SE_DB_TAIL_INDEX.get v) (fun g =>
      { g with outcome := some (sliceNum r.2.1 6 1, BitVec.ofNat 64 (sliceNum r.2.1 8 8)), desc := g.desc.take 4 ++ r.2.1.take 4 ++ g.desc.drop 8 })) := by
  have hm : isMbx k = true := decide_eq_true hmbx
  unfold Pkg.dbReturn
  simp only [hm, hmay, hbar, hf, hdel, hout, hr, hst, hp, Bool.not_true, Bool.false_eq_true, if_false, Option.isSome_none, Bool.or_self,
    ne_eq, not_true, or_self]

end

theorem instOk_iff {c k : Nat} : instOk c k = true ↔ c < 2 ∧ k < 544 := by
  simp [instOk]

/-- Settles O51: the states of an engine by the fields of its status, its rings by the descriptors in flight. -/
theorem engineRings : Obligations.EngineRings := by
  unfold Obligations.EngineRings
  refine ⟨?_, ?_, ?_, ?_, ?_, ?_, ?_, ?_, ?_⟩
  · intro s who c k hok may st r
    obtain ⟨hc, hk⟩ := instOk_iff.1 hok
    refine ⟨fun hmay hbad => ?_, fun hmay hbad => ?_, fun hmay hst => ?_, fun hmay hst => ?_, fun hmay hother => ⟨?_, ?_⟩,
      fun hother => ⟨?_, ?_⟩, fun hst hreset hempty => ?_, fun hbusy => ?_, fun cause h1 h5 => ⟨fun hst => ?_, fun hst => ?_⟩, fun v => ?_⟩
    · exact (enable_does hok).congr ((Chip.byInst_may hmay _ _).trans (if_neg (by rw [hbad]; decide)))
    · exact (enable_does hok).congr ((Chip.byInst_may hmay _ _).trans (if_pos hbad))
    · have hcmd : s.chip.instResetCmd c k = s.chip.instReset c k false := if_pos hst
      obtain ⟨h2, hat⟩ := Chip.instReset_resets (x := s.chip) (c := c) (k := k) (show st ≠ 2 by omega) (show st ≠ 4 by omega)
      exact ⟨_, (reset_does hok).congr ((Chip.byInst_may hmay _ _).trans hcmd), h2, hat⟩
    · exact (reset_does hok).congr ((Chip.byInst_may hmay _ _).trans (if_neg (show ¬ (st = 0 ∨ st = 1 ∨ st = 3) by omega)))
    · exact (enable_does hok).congr (Chip.byInst_no hmay hother _ _)
    · exact (reset_does hok).congr (Chip.byInst_no hmay hother _ _)
    · exact (enable_does hok).congr (Chip.byInst_other hother _ _)
    · exact (reset_does hok).congr (Chip.byInst_other hother _ _)
    · exact ⟨_, gives_of_onChip rfl hok rfl, Chip.instResetDone_done hk hst hreset hempty⟩
    · exact gives_of_onChip rfl hok (if_neg fun h => hbusy h.2.2)
    · have hcmd : (instOk c k && decide (1 ≤ cause) && decide (cause ≤ 5)) = true := by
        rw [hok, decide_eq_true h1, decide_eq_true h5]
        rfl
      have hcause : cause < 2 ^ F.SE_INST_STATUS_ERR_CAUSE.width := lt_of_le_of_lt h5 (by decide)
      have herr := Chip.ringError_errs (c := c) (k := k) hst hcause
      exact ⟨_, gives_of_onChip rfl hcmd rfl, herr⟩
    · have hcmd : (instOk c k && decide (1 ≤ cause) && decide (cause ≤ 5)) = true := by
        rw [hok, decide_eq_true h1, decide_eq_true h5]
        rfl
      exact gives_of_onChip rfl hcmd (Chip.ringError_idle cause hst)
    · intro i
      refine ⟨fun hmay => ?_, fun hmay hbar hst hi => ⟨?_, ?_⟩, fun hmay hbar hst hi => ⟨?_, ?_⟩, fun hmay hother => ⟨?_, ?_, ?_⟩,
        fun hother => ⟨?_, ?_, ?_⟩⟩
      · exact (shareWrite_does hok v).congr (Chip.byInst_may hmay _ _)
      · exact (tailWrite_does hok v).congr ((Chip.doorbellWrite_runs hmay hbar hst _ v).trans (if_neg (Nat.not_le.2 hi)))
      · exact (cplHeadWrite_does hok v).congr ((Chip.doorbellWrite_runs hmay hbar hst _ v).trans (if_neg (Nat.not_le.2 hi)))
      · exact (tailWrite_does hok v).congr ((Chip.doorbellWrite_runs hmay hbar hst _ v).trans (if_pos hi))
      · exact (cplHeadWrite_does hok v).congr ((Chip.doorbellWrite_runs hmay hbar hst _ v).trans (if_pos hi))
      · exact (shareWrite_does hok v).congr (Chip.byInst_no hmay hother _ _)
      · exact (tailWrite_does hok v).congr (Chip.byInst_no hmay hother _ _)
      · exact (cplHeadWrite_does hok v).congr (Chip.byInst_no hmay hother _ _)
      · exact (shareWrite_does hok v).congr (Chip.byInst_other hother _ _)
      · exact (tailWrite_does hok v).congr (Chip.byInst_other hother _ _)
      · exact (cplHeadWrite_does hok v).congr (Chip.byInst_other hother _ _)
  · intro s c k hok o j a r f g
    have hdoes : GivesPkg (.descriptorFetch c k) s (s.toPkg.descFetch c k) := givesPkg_of_onPkg rfl hok rfl
    refine ⟨fun hmay => ?_, fun hmay hgo => ?_, fun hmay hgo haddr hwait hst hp => ?_, fun hmay hgo haddr hwait hbad => ?_⟩
    · exact hdoes.congr (if_pos (by rw [show s.toPkg.chip.mayFetch c k = false from hmay]; rfl))
    · refine hdoes.congr ((if_neg (by rw [show s.toPkg.chip.mayFetch c k = true from hmay]; decide)).trans (if_pos ?_))
      rw [show s.toPkg.chip.instGo c k = false from hgo]
      rfl
    · exact hdoes.congr ((Pkg.descFetch_reads (p := s.toPkg) hmay hgo haddr rfl hwait).trans
        (if_neg (by rintro (h | h); exacts [h hst, by rw [show r.1.poison = false from hp] at h; exact Bool.false_ne_true h])))
    · exact hdoes.congr ((Pkg.descFetch_reads (p := s.toPkg) hmay hgo haddr rfl hwait).trans (if_pos hbad))
  · intro s c e k f hc he hgo hk hf
    have hseg := Chip.segment_serves hk hf
    have hdoes : Gives (.segmentBoundary c e) s (if s.chip.engGo c e then s.chip.segment c e else s.chip) :=
      gives_of_onChip rfl (by rw [decide_eq_true hc, decide_eq_true he]; rfl) rfl
    rw [hgo, if_pos rfl] at hdoes
    generalize s.chip.segment c e = x at hdoes hseg
    exact ⟨_, hdoes, hseg⟩
  · intro s c e hc he hnone
    have hsame : s.chip.segment c e = s.chip := by
      unfold Chip.segment
      rw [hnone]
    have hdoes : Gives (.segmentBoundary c e) s (if s.chip.engGo c e then s.chip.segment c e else s.chip) :=
      gives_of_onChip rfl (by rw [decide_eq_true hc, decide_eq_true he]; rfl) rfl
    exact hdoes.congr (by rw [hsame, ite_self])
  · intro x c e k h
    exact Chip.choose_spec h
  · intro s c k st f rest res hok hflight o a y
    obtain ⟨hc, hk⟩ := instOk_iff.1 hok
    have hdoes : GivesPkg (.descriptorCompletion c k) s (s.toPkg.complete1 c k) := givesPkg_of_onPkg rfl hok rfl
    refine ⟨fun hnone => ?_, fun hsome hspoil hgo hoff hdest haddr hwait => ⟨fun h0 => ?_, fun h0 => ?_⟩, ?_⟩
    · exact hdoes.congr (Pkg.complete1_waits (p := s.toPkg) hflight hnone)
    · exact hdoes.congr ((Pkg.complete1_writes (p := s.toPkg) hflight hsome hspoil hgo hoff hdest haddr rfl hwait).trans (if_neg (not_not.2 h0)))
    · exact hdoes.congr ((Pkg.complete1_writes (p := s.toPkg) hflight hsome hspoil hgo hoff hdest haddr rfl hwait).trans (if_pos h0))
    · have h := s.chip.completed_spec f st hc hk
      rw [hflight] at h
      exact h
  · intro s c k hok
    have hdoes : GivesPkg (.drainLimitExpiry c k) s (s.toPkg.drainExpired c k) := givesPkg_of_onPkg rfl hok rfl
    exact ⟨fun hover => ⟨_, hdoes, s.toPkg.drainExpired_done hover⟩,
      fun hover => hdoes.congr (if_pos (by rw [show s.toPkg.chip.drainOver c k = false from hover]; rfl))⟩
  · intro s c k f hc hmbx hk hflight hst hgo a w
    have hok : (decide (c < 2) && decide (512 ≤ k) && decide (k < 544)) = true := by
      rw [decide_eq_true hc, decide_eq_true hmbx, decide_eq_true hk]
      rfl
    have hdoes : GivesPkg (.mailboxDelivery c k) s (s.toPkg.deliver c k) := givesPkg_of_onPkg rfl hok rfl
    have hdel := Pkg.deliver_of (p := s.toPkg) hmbx hflight hst
    refine ⟨fun ha => hdoes.congr (hdel.trans (if_pos ha)), fun ha hidle => ?_⟩
    have hwrite := hdel.trans ((if_neg (Nat.not_le.2 ha)).trans ((if_neg (by
      rw [show s.toPkg.chip.rangeIdle a 64 = true from hidle]; decide)).trans (if_neg (by
      rw [show s.toPkg.chip.instGo c k = true from hgo]; decide))))
    exact ⟨fun h0 => hdoes.congr (hwrite.trans (if_neg (not_not.2 h0))), fun h0 => hdoes.congr (hwrite.trans (if_pos h0))⟩
  · intro s who c k v hc hmbx hk hmay hbar j r
    have hok : (decide (c < 2) && decide (512 ≤ k) && decide (k < 544)) = true := by
      rw [decide_eq_true hc, decide_eq_true hmbx, decide_eq_true hk]
      rfl
    have hdoes : GivesPkg (.seDbReturn who c k v) s (s.toPkg.dbReturn who c k v) := givesPkg_of_onPkg rfl hok rfl
    refine ⟨fun hnone => ?_, fun f hf hbad => ?_, fun f hf hdel hout hst hp => ?_⟩
    · exact hdoes.congr (Pkg.dbReturn_refused (p := s.toPkg) hmbx hmay hbar fun f hf => absurd (hnone.symm.trans hf) (by simp))
    · exact hdoes.congr (Pkg.dbReturn_refused (p := s.toPkg) hmbx hmay hbar fun g hg => by
        obtain rfl := Option.some.inj (hf.symm.trans hg)
        exact hbad)
    · exact hdoes.congr (Pkg.dbReturn_takes (p := s.toPkg) hmbx hmay hbar hf hdel hout rfl hst hp)

end Sys2Proof.Machine
end

section
/-! An access of a hart to a line that its L2 holds (R148, R188, R197). -/

namespace Sys2Proof.Machine

-- two changes of one hart, and of a hart and an L2

theorem Chip.onHart_onHart (c : Chip) (h : Nat) (f g : Hart → Hart) : (c.onHart h f).onHart h g = c.onHart h (fun x => g (f x)) := by
  have hh : (c.onHart h f).hart h = f (c.hart h) := c.hart_onHart h f
  rw [Chip.onHart, hh, Chip.setHart_onHart]; rfl

theorem Chip.setL2_onHart (c : Chip) (h k line : Nat) (f : Hart → Hart) (l : L2Line) :
    (c.onHart h f).setL2 k line l = (c.setL2 k line l).onHart h f := rfl

theorem Chip.useL2_onHart (c : Chip) (h k line : Nat) (f : Hart → Hart) :
    (c.onHart h f).useL2 k line = (c.useL2 k line).onHart h f := rfl

theorem Chip.l2at_onHart (c : Chip) (h k line : Nat) (f : Hart → Hart) : (c.onHart h f).l2at k line = c.l2at k line := rfl

theorem Chip.l2at_useL2 (c : Chip) (h k line line' : Nat) : (c.useL2 h line).l2at k line' = c.l2at k line' := rfl

@[simp] theorem Chip.hart_useL2 (c : Chip) (k line h : Nat) : (c.useL2 k line).hart h = c.hart h := rfl

-- a line that the L2 holds

/-- A hart as a demand access that finds its line leaves it, while it awaits the line. -/
def Hart.demands (x : Hart) (line : Nat) : Hart :=
  { x with l2Streams := x.carryOn (line * 64) x.l2Streams, awaits := addOnce line x.awaits }

@[simp] theorem Hart.demands_world (x : Hart) (line : Nat) : (x.demands line).world = x.world := rfl

theorem Chip.noteDemand_of_held {c : Chip} {h line : Nat} (hst : (c.l2at h line).st ≠ .I) :
    c.noteDemand h line = c.onHart h (fun x => x.demands line) := by
  simp [Chip.noteDemand, hst, Hart.demands]

theorem Chip.seek_read {c : Chip} {h line : Nat} (hst : (c.l2at h line).st ≠ .I) (hw : (c.l2at h line).world = (c.hart h).world) (acc rk : Nat) :
    c.seek h line .read acc rk = (c.useL2 h line, .ready (c.l2at h line)) := by
  simp [Chip.seek, hst, hw]

theorem Chip.seek_write {c : Chip} {h line : Nat} {want : Want} (hwant : want ≠ .read) (hst : (c.l2at h line).st = .E ∨ (c.l2at h line).st = .M)
    (hw : (c.l2at h line).world = (c.hart h).world) (acc rk : Nat) :
    c.seek h line want acc rk
      = ((c.setL2 h line { c.l2at h line with st := .M }).useL2 h line, .ready { c.l2at h line with st := .M }) := by
  have hne : (c.l2at h line).st ≠ .I := by rcases hst with e | e <;> simp [e]
  simp [Chip.seek, hne, hw, hst, hwant, Chip.l2at_useL2, Chip.l2at_setL2]

/-- The access has its line: all that remains of the demand is that it has carried on the streams. -/
theorem Chip.gotLine_demands {c : Chip} {h pa : Nat} (ha : (c.hart h).awaits = []) :
    (c.onHart h (fun x => x.demands (pa / 64))).gotLine h (pa / 64) = c.hits h pa := by
  rw [Chip.gotLine, Chip.onHart_onHart]
  exact c.onHart_congr h (by simp [addOnce, ha, Hart.demands])

/-- A read of a line that the L2 holds. -/
theorem Chip.reach_read {c : Chip} {h pa : Nat} {l : L2Line} (hl : c.Holds h pa l) (ha : (c.hart h).awaits = []) (acc rk : Nat) :
    c.reach h (pa / 64) .read acc rk = (c.readHit h pa, .ready l) := by
  obtain ⟨-, hclear, rfl, hst, hw, -⟩ := hl
  rw [Chip.reach, hclear, Chip.noteDemand_of_held hst,
    Chip.seek_read (c := c.onHart h (fun x => x.demands (pa / 64))) hst (by simpa [Chip.l2at_onHart] using hw)]
  rw [Chip.readHit, ← Chip.gotLine_demands ha]
  rfl

/-- An access that writes a line that the L2 owns. -/
theorem Chip.reach_write {c : Chip} {h pa : Nat} {l : L2Line} {want : Want} (hwant : want ≠ .read) (hl : c.Owns h pa l)
    (ha : (c.hart h).awaits = []) (acc rk : Nat) :
    c.reach h (pa / 64) want acc rk = (c.won h pa l, .ready { l with st := .M }) := by
  obtain ⟨⟨-, hclear, rfl, hst, hw, -⟩, hown⟩ := hl
  rw [Chip.reach, hclear, Chip.noteDemand_of_held hst,
    Chip.seek_write (c := c.onHart h (fun x => x.demands (pa / 64))) hwant hown (by simpa [Chip.l2at_onHart] using hw)]
  rw [Chip.won, ← Chip.gotLine_demands ha]
  rfl

theorem Chip.reach_own {c : Chip} {h pa : Nat} {l : L2Line} (hl : c.Owns h pa l) (ha : (c.hart h).awaits = []) (acc rk : Nat) :
    c.reach h (pa / 64) .own acc rk = (c.won h pa l, .ready { l with st := .M }) := Chip.reach_write (by decide) hl ha acc rk

-- what such an access leaves

theorem Chip.hart_hits (c : Chip) (h pa : Nat) :
    (c.hits h pa).hart h = { c.hart h with l2Streams := (c.hart h).carryOn (pa / 64 * 64) (c.hart h).l2Streams } := c.hart_onHart h _

theorem Chip.hart_won (c : Chip) (h pa : Nat) (l : L2Line) :
    (c.won h pa l).hart h = { c.hart h with l2Streams := (c.hart h).carryOn (pa / 64 * 64) (c.hart h).l2Streams } := c.hart_hits h pa

theorem Chip.Calm.hits {c : Chip} {h : Nat} (hc : c.Calm h) (pa : Nat) : (c.hits h pa).Calm h :=
  hc.onHart (f := fun x => { x with l2Streams := x.carryOn (pa / 64 * 64) x.l2Streams }) (fun _ hx => hx) h

theorem Chip.Calm.readHit {c : Chip} {h : Nat} (hc : c.Calm h) (pa : Nat) : (c.readHit h pa).Calm h := hc.hits pa

theorem Chip.Calm.won {c : Chip} {h : Nat} (hc : c.Calm h) (pa : Nat) (l : L2Line) : (c.won h pa l).Calm h := hc.hits pa

theorem Chip.Calm.l2Store {c : Chip} {h : Nat} (hc : c.Calm h) (pa : Nat) (l : L2Line) (n v : Nat) : (c.l2Store h pa l n v).Calm h :=
  Chip.Calm.onHart (c := { c.setL2 h (pa / 64) (l.write (pa % 64) n v) with
    banks := wroteWord 4 h (pa / 64 % 8) (l2Word (pa / 64) l.way) (c.setL2 h (pa / 64) (l.write (pa % 64) n v)).banks })
    hc (f := fun x => x.l1Store (pa / 64) (pa % 64) n) (fun _ hx => hx) h

end Sys2Proof.Machine
end

section
/-! AMO, LR and SC on a line that the L2 owns (R188, R197). -/

namespace Sys2Proof.Machine

theorem vaOk_of_lt {va : Nat} (h : va < 2 ^ 64) : vaOk va = true := decide_eq_true h

/-- Pointer masking leaves the low bits of an address. -/
theorem Hart.pointer_low (x : Hart) (w : Word) : (x.pointer w).toNat % 64 = w.toNat % 64 := by
  have hlow : (w &&& 0x1FFFFFFFFFFFFFF).toNat % 2 ^ 6 = w.toNat % 2 ^ 6 := by
    rw [BitVec.toNat_and, Nat.and_mod_two_pow]
    exact Nat.and_two_pow_sub_one_eq_mod (w.toNat % 2 ^ 6) 6 |>.trans (Nat.mod_mod _ _)
  unfold Hart.pointer
  extract_lets e on mxr low
  generalize (x.getCsr (if e.2 then csrVsatp else csrSatp)).toNat = atp
  split
  · rfl
  · split
    · exact hlow
    · rw [BitVec.toNat_or]
      refine (Nat.or_mod_two_pow (n := 6)).trans ?_
      rw [hlow]
      exact Nat.or_zero _

theorem Hart.eaddr_aligned (x : Hart) {va size : Nat} (hs : size = 4 ∨ size = 8 ∨ size = 16) (hva : va % size = 0) :
    x.eaddr va % size = 0 := by
  have h := x.pointer_low (BitVec.ofNat 64 va)
  rw [BitVec.toNat_ofNat] at h
  unfold Hart.eaddr
  rcases hs with rfl | rfl | rfl <;> omega

theorem amoOk_size {op : AmoOp} {rd rs size : Nat} (h : amoOk op rd rs size = true) : size = 4 ∨ size = 8 ∨ size = 16 := by
  simp only [amoOk, Bool.and_eq_true, Bool.or_eq_true, beq_iff_eq] at h
  tauto

/-- An aligned atomic access to main memory, translated. -/
theorem Chip.atomicAt_of_homed {c : Chip} {h va size acc pa : Nat} (hal : va % size = 0)
    (hx : c.translate h (BitVec.ofNat 64 va) size acc = (c, .pa pa)) (hr : (c.region pa).homed = true) :
    c.atomicAt h va size acc = (c, .inl (some pa)) := by
  rw [Chip.atomicAt, if_neg (by simpa using hal), hx]
  dsimp only
  revert hr
  rcases c.region pa <;> simp [Region.homed]

section
variable {c : Chip} {h va size pa : Nat} {l : L2Line} (hal : va % size = 0) (ha : (c.hart h).awaits = []) (hown : c.Owns h pa l)
include hal ha hown

theorem Chip.amo_of_owns (op : AmoOp) (rd rs : Nat) (hcas : op = .cas → bitAt (c.die (hartDie h)).capEn 8 = true)
    (hx : c.translate h (BitVec.ofNat 64 va) size 2 = (c, .pa pa)) :
    c.amo h op rd rs va size = (((c.won h pa l).l2Store h pa { l with st := .M } size
      (amoResult op size (Line.slice l.data (pa % 64) size) ((c.hart h).amoArg rs size) ((c.hart h).amoArg rd size))).onHart h
        (fun x => x.amoDest rd size (Line.slice l.data (pa % 64) size)), .done) := by
  have hcap : ¬(op = .cas ∧ (!bitAt (c.die (hartDie h)).capEn 8) = true) := fun hc => by simp [hcas hc.1] at hc
  have harg : ∀ r, ((c.won h pa l).hart h).amoArg r size = (c.hart h).amoArg r size := fun r => by rw [Chip.hart_won]; rfl
  rw [Chip.amo, if_neg hcap, Chip.atomicAt_of_homed hal hx hown.holds.homed]
  simp only [Chip.reach_own hown ha, hown.holds.good, harg, Bool.false_eq_true, if_false]

theorem Chip.lr_of_owns (rd : Nat) (hx : c.translate h (BitVec.ofNat 64 va) size 1 = (c, .pa pa)) :
    c.lr h rd va size = (((((c.won h pa l).unpin h).setL2 h (pa / 64) { l with st := .M, pinned := l.winning }).useL2 h (pa / 64)).onHart h
      (fun x => { x.amoDest rd size (Line.slice l.data (pa % 64) size) with resv := some (pa / 64) }), .done) := by
  rw [Chip.lr, Chip.atomicAt_of_homed hal hx hown.holds.homed]
  simp only [Chip.reach_own hown ha, hown.holds.good, Bool.false_eq_true, if_false]

theorem Chip.sc_of_owns (rd rs : Nat) (hx : c.translate h (BitVec.ofNat 64 va) size 2 = (c, .pa pa)) :
    c.sc h rd rs va size = if (c.hart h).resv = some (pa / 64)
      then ((((c.won h pa l).l2Store h pa { l with st := .M } size ((c.hart h).amoArg rs size)).unpin h).onHart h
        (fun x => { x.setX rd 0 with resv := none }), .done)
      else ((c.unpin h).onHart h (fun x => { x.setX rd 1 with resv := none }), .done) := by
  rw [Chip.sc, Chip.atomicAt_of_homed hal hx hown.holds.homed]
  simp only [Chip.reach_own hown ha, ne_eq, ite_not]

end

/-- Settles O8: an AMO, an LR and an SC reach the line at the L2, which owns it, and leave. -/
theorem atomicsHit : Obligations.AtomicsHit := by
  unfold Obligations.AtomicsHit
  refine ⟨?_, ?_, ?_⟩
  · intro s h op rd rs va size pa l i c ea hf hok hva hal hcas hx hown old new
    have hp : c.perform h i = (_, .done) := Chip.amo_of_owns ((c.hart h).eaddr_aligned (amoOk_size hok) hal)
      (by simpa [c] using hf.awaits) hown op rd rs hcas hx
    exact gives_of_onChip rfl (by simp [hf.hart, hok, vaOk_of_lt hva]) (Chip.issueInstr_retires hf rfl hp
      ((((hf.calm_given i).won pa l).l2Store pa _ size new).onHart (fun x hx => hx.amoDest rd size old) h))
  · intro s h rd va size pa l i c ea hf hrd hs hva hal hx hown
    have hp : c.perform h i = (_, .done) := Chip.lr_of_owns ((c.hart h).eaddr_aligned (by omega) hal)
      (by simpa [c] using hf.awaits) hown rd hx
    have hcalm : ((((c.won h pa l).unpin h).setL2 h (pa / 64) { l with st := .M, pinned := l.winning }).useL2 h (pa / 64)).Calm h :=
      ((hf.calm_given i).won pa l).unpin h
    exact gives_of_onChip rfl (by simp [hf.hart, hrd, hs, vaOk_of_lt hva]) (Chip.issueInstr_retires hf rfl hp
      (hcalm.onHart (f := fun x => { x.amoDest rd size _ with resv := some (pa / 64) }) (fun x hx => hx.amoDest rd size _) h))
  · intro s h rd rs va size pa l i c ea hf hrd hrs hs hva hal hx hown
    have hp : c.perform h i = _ := Chip.sc_of_owns ((c.hart h).eaddr_aligned (by omega) hal) (by simpa [c] using hf.awaits) hown rd rs hx
    have hok : (hartOk h && regOk rd && regOk rs && (size == 4 || size == 8) && vaOk va) = true := by simp [hf.hart, hrd, hrs, hs, vaOk_of_lt hva]
    refine ⟨fun hr => ?_, fun hr => ?_⟩
    · rw [if_pos hr] at hp
      exact gives_of_onChip rfl hok (Chip.issueInstr_retires hf rfl hp
        (((((hf.calm_given i).won pa l).l2Store pa _ size _).unpin h).onHart (f := fun x => { x.setX rd 0 with resv := none })
          (fun x hx => hx.setX rd 0) h))
    · rw [if_neg hr] at hp
      exact gives_of_onChip rfl hok (Chip.issueInstr_retires hf rfl hp
        (((hf.calm_given i).unpin h).onHart (f := fun x => { x.setX rd 1 with resv := none }) (fun x hx => hx.setX rd 1) h))

end Sys2Proof.Machine
end

section
/-! What row-column parity makes of wrong bits (R304, R306, R307). -/

namespace Sys2Proof.Machine

-- which parities fail

theorem filter_range_single {n i : Nat} (hi : i < n) {p : Nat → Bool} (hp : ∀ k, k < n → (p k = true ↔ k = i)) : (List.range n).filter p = [i] := by
  have hcongr : (List.range n).filter p = (List.range n).filter (· == i) :=
    List.filter_congr (fun k hk => by rw [Bool.eq_iff_iff, hp k (List.mem_range.mp hk), beq_iff_eq])
  rw [hcongr, List.filter_beq, List.count_eq_one_of_mem List.nodup_range (List.mem_range.mpr hi), List.replicate_one]

theorem filter_range_none {n : Nat} {p : Nat → Bool} (hp : ∀ k, k < n → p k = false) : (List.range n).filter p = [] :=
  List.filter_eq_nil_iff.mpr (fun k hk => by simp [hp k (List.mem_range.mp hk)])

theorem two_le_filter_range {n i j : Nat} (hi : i < n) (hj : j < n) (hij : i ≠ j) {p : Nat → Bool} (hpi : p i = true) (hpj : p j = true) :
    2 ≤ ((List.range n).filter p).length := by
  refine (List.subperm_of_subset (l₁ := [i, j]) (by simpa using hij) ?_).length_le
  simp [hi, hj, hpi, hpj]

/-- The parity of a row, of a column, fails where it counts an odd number of wrong bits. -/
def oddIn (e : ArrErr) (at_ : Nat → Nat) (par : List Nat) (i : Nat) : Bool :=
  ((e.bits.filter (fun b => at_ b == i)).length + flag (par.contains i)) % 2 == 1

theorem failRows_eq (e : ArrErr) : failRows e = (List.range (arrayGrid e.array).1).filter (oddIn e (· / (arrayGrid e.array).2) e.rowPar) := (rfl)

theorem failCols_eq {e : ArrErr} (h : 2 < e.array) :
    failCols e = (List.range (arrayGrid e.array).2).filter (oddIn e (· % (arrayGrid e.array).2) e.colPar) :=
  if_neg (by omega)

theorem failCols_of_l1 {e : ArrErr} (h : e.array ≤ 2) : failCols e = [] := if_pos h

theorem oddIn_iff {e : ArrErr} {at_ : Nat → Nat} {par : List Nat} {i : Nat} :
    oddIn e at_ par i = true ↔ (e.bits.countP (fun b => at_ b == i) + if i ∈ par then 1 else 0) % 2 = 1 := by
  simp [oddIn, flag, List.countP_eq_length_filter]

-- what a read then does

theorem rcp_correct {e : ArrErr} (hr : failRows e = []) (hc : failCols e = []) : rcpOutcome e = .correct ∧ escapedBits e = e.bits := by
  simp [rcpOutcome, escapedBits, hr, hc]

theorem rcp_row {e : ArrErr} {i : Nat} (ha : 2 < e.array) (hr : failRows e = [i]) (hc : failCols e = []) :
    rcpOutcome e = .corrected ∧ escapedBits e = e.bits := by
  simp [rcpOutcome, escapedBits, hr, hc, ha]

theorem rcp_col {e : ArrErr} {j : Nat} (ha : 2 < e.array) (hr : failRows e = []) (hc : failCols e = [j]) :
    rcpOutcome e = .corrected ∧ escapedBits e = e.bits := by
  simp [rcpOutcome, escapedBits, hr, hc, ha]

/-- The bit where the failing row and the failing column meet is inverted. -/
theorem rcp_both {e : ArrErr} {i j b : Nat} (ha : 2 < e.array) (hr : failRows e = [i]) (hc : failCols e = [j])
    (hb : i * (arrayGrid e.array).2 + j = b) :
    rcpOutcome e = .corrected ∧ escapedBits e = if e.bits.contains b then e.bits.filter (· != b) else b :: e.bits := by
  subst hb
  simp [rcpOutcome, escapedBits, hr, hc, ha]

theorem rcp_uncorrectable {e : ArrErr} (h : 2 ≤ (failRows e).length ∨ 2 ≤ (failCols e).length) : rcpOutcome e = .uncorrectable := by
  simp only [rcpOutcome]
  rw [if_neg (by omega), if_neg (by omega)]

/-- The wrong bits of a word whose check bits are all right, but those named. -/
theorem failRows_one {e : ArrErr} {i : Nat} (hi : i < (arrayGrid e.array).1)
    (hp : ∀ k, oddIn e (· / (arrayGrid e.array).2) e.rowPar k = true ↔ k = i) : failRows e = [i] := by
  rw [failRows_eq]; exact filter_range_single hi (fun k _ => hp k)

theorem failRows_none {e : ArrErr} (hp : ∀ k, ¬oddIn e (· / (arrayGrid e.array).2) e.rowPar k = true) : failRows e = [] := by
  rw [failRows_eq]; exact filter_range_none (fun k _ => by simpa using hp k)

theorem failCols_one {e : ArrErr} {j : Nat} (ha : 2 < e.array) (hj : j < (arrayGrid e.array).2)
    (hp : ∀ k, oddIn e (· % (arrayGrid e.array).2) e.colPar k = true ↔ k = j) : failCols e = [j] := by
  rw [failCols_eq ha]; exact filter_range_single hj (fun k _ => hp k)

theorem failCols_none {e : ArrErr} (ha : 2 < e.array) (hp : ∀ k, ¬oddIn e (· % (arrayGrid e.array).2) e.colPar k = true) :
    failCols e = [] := by
  rw [failCols_eq ha]; exact filter_range_none (fun k _ => by simpa using hp k)

section
variable {e : ArrErr} {at_ : Nat → Nat} {par : List Nat}

theorem oddIn_bit {b k : Nat} (hb : e.bits = [b]) (hp : par = []) : oddIn e at_ par k = true ↔ k = at_ b := by
  rw [oddIn_iff, hb, hp]
  by_cases h : k = at_ b
  · simp [h]
  · simp [h, Ne.symm h]

theorem oddIn_par {i k : Nat} (hb : e.bits = []) (hp : par = [i]) : oddIn e at_ par k = true ↔ k = i := by
  rw [oddIn_iff, hb, hp]
  by_cases h : k = i <;> simp [h]

theorem not_oddIn_nil {k : Nat} (hb : e.bits = []) (hp : par = []) : ¬oddIn e at_ par k = true := by
  rw [oddIn_iff, hb, hp]; simp

/-- The parity bit of its own row or column hides a wrong bit. -/
theorem not_oddIn_own {b k : Nat} (hb : e.bits = [b]) (hp : par = [at_ b]) : ¬oddIn e at_ par k = true := by
  rw [oddIn_iff, hb, hp]
  by_cases h : k = at_ b
  · simp [h]
  · simp [h, Ne.symm h]

theorem oddIn_pair {a b : Nat} (hb : e.bits = [a, b]) (hp : par = []) (hne : at_ a ≠ at_ b) :
    oddIn e at_ par (at_ a) = true ∧ oddIn e at_ par (at_ b) = true := by
  simp [oddIn_iff, hb, hp, hne, hne.symm]

/-- Four wrong bits of which each row, each column that holds any holds two. -/
theorem not_oddIn_corners {a b c d k : Nat} (hb : e.bits = [a, b, c, d]) (hp : par = [])
    (hab : (at_ a = at_ b ∧ at_ c = at_ d) ∨ (at_ a = at_ c ∧ at_ b = at_ d)) : ¬oddIn e at_ par k = true := by
  rw [oddIn_iff, hb, hp]
  simp only [List.countP_cons, List.countP_nil, List.not_mem_nil, if_false]
  rcases hab with ⟨h1, h2⟩ | ⟨h1, h2⟩
  · rw [h1, h2]; omega
  · rw [h1, h2]; omega

end

/-- What the manual says of the parities of an array (R306), for the grid that R307 gives it. -/
theorem rcp_outcomes (e : ArrErr) : let g := arrayGrid e.array
    2 < e.array →
      (∀ b, b < g.1 * g.2 → e.bits = [b] → e.rowPar = [] → e.colPar = [] → rcpOutcome e = .corrected ∧ escapedBits e = [])
      ∧ (∀ i, i < g.1 → e.bits = [] → e.rowPar = [i] → e.colPar = [] → rcpOutcome e = .corrected ∧ escapedBits e = [])
      ∧ (∀ j, j < g.2 → e.bits = [] → e.rowPar = [] → e.colPar = [j] → rcpOutcome e = .corrected ∧ escapedBits e = [])
      ∧ (∀ a b, a < g.1 * g.2 → b < g.1 * g.2 → a ≠ b → e.bits = [a, b] → e.rowPar = [] → e.colPar = [] → rcpOutcome e = .uncorrectable)
      ∧ (∀ b, b < g.1 * g.2 → e.bits = [b] → (e.rowPar = [b / g.2] ∧ e.colPar = []) ∨ (e.rowPar = [] ∧ e.colPar = [b % g.2]) →
        rcpOutcome e = .corrected ∧ escapedBits e = [b])
      ∧ (∀ i j, i < g.1 → j < g.2 → e.bits = [] → e.rowPar = [i] → e.colPar = [j] →
        rcpOutcome e = .corrected ∧ escapedBits e = [i * g.2 + j])
      ∧ (∀ i k j l, i < g.1 → k < g.1 → j < g.2 → l < g.2 → i ≠ k → j ≠ l →
        e.bits = [i * g.2 + j, i * g.2 + l, k * g.2 + j, k * g.2 + l] → e.rowPar = [] → e.colPar = [] →
        rcpOutcome e = .correct ∧ escapedBits e = e.bits) := by
  intro g ha
  have hrow : ∀ b, b < g.1 * g.2 → b / g.2 < g.1 := fun b hb => Nat.div_lt_of_lt_mul (by rwa [Nat.mul_comm])
  have hcol : ∀ b, b < g.1 * g.2 → b % g.2 < g.2 := fun b hb => Nat.mod_lt _ (Nat.pos_of_ne_zero (fun h0 => by simp [h0] at hb))
  refine ⟨?_, ?_, ?_, ?_, ?_, ?_, ?_⟩
  · intro b hb hbits hr hc
    have := rcp_both ha (failRows_one (hrow b hb) (fun k => oddIn_bit hbits hr)) (failCols_one ha (hcol b hb) (fun k => oddIn_bit hbits hc))
      (Nat.div_add_mod' b g.2)
    rwa [hbits, if_pos (by simp), List.filter_cons_of_neg (by simp), List.filter_nil] at this
  · intro i hi hbits hr hc
    have := rcp_row ha (failRows_one hi (fun k => oddIn_par hbits hr)) (failCols_none ha (fun k => not_oddIn_nil hbits hc))
    rwa [hbits] at this
  · intro j hj hbits hr hc
    have := rcp_col ha (failRows_none (fun k => not_oddIn_nil hbits hr)) (failCols_one ha hj (fun k => oddIn_par hbits hc))
    rwa [hbits] at this
  · intro a b ha' hb hab hbits hr hc
    refine rcp_uncorrectable ?_
    by_cases h : a / g.2 = b / g.2
    · have hm : a % g.2 ≠ b % g.2 := fun hm => hab (by rw [← Nat.div_add_mod a g.2, ← Nat.div_add_mod b g.2, h, hm])
      obtain ⟨h1, h2⟩ := oddIn_pair (at_ := (· % g.2)) hbits hc hm
      exact .inr (failCols_eq ha ▸ two_le_filter_range (hcol a ha') (hcol b hb) hm h1 h2)
    · obtain ⟨h1, h2⟩ := oddIn_pair (at_ := (· / g.2)) hbits hr h
      exact .inl (failRows_eq e ▸ two_le_filter_range (hrow a ha') (hrow b hb) h h1 h2)
  · rintro b hb hbits (⟨hr, hc⟩ | ⟨hr, hc⟩)
    · have := rcp_col ha (failRows_none (fun k => not_oddIn_own hbits hr)) (failCols_one ha (hcol b hb) (fun k => oddIn_bit hbits hc))
      rwa [hbits] at this
    · have := rcp_row ha (failRows_one (hrow b hb) (fun k => oddIn_bit hbits hr)) (failCols_none ha (fun k => not_oddIn_own hbits hc))
      rwa [hbits] at this
  · intro i j hi hj hbits hr hc
    have := rcp_both ha (failRows_one hi (fun k => oddIn_par hbits hr)) (failCols_one ha hj (fun k => oddIn_par hbits hc)) rfl
    rwa [hbits, if_neg (by simp)] at this
  · intro i k j l hi hk hj hl _ _ hbits hr hc
    have hd : ∀ m n, n < g.2 → (m * g.2 + n) / g.2 = m := fun m n hn => by
      rw [Nat.mul_comm, Nat.mul_add_div (by omega), Nat.div_eq_of_lt hn, Nat.add_zero]
    have hm : ∀ m n, n < g.2 → (m * g.2 + n) % g.2 = n := fun m n hn => by rw [Nat.mul_add_mod', Nat.mod_eq_of_lt hn]
    exact rcp_correct (failRows_none (fun _ => not_oddIn_corners hbits hr (.inl ⟨by rw [hd i j hj, hd i l hl], by rw [hd k j hj, hd k l hl]⟩)))
      (failCols_none ha (fun _ => not_oddIn_corners hbits hc (.inr ⟨by rw [hm i j hj, hm k j hj], by rw [hm i l hl, hm k l hl]⟩)))

/-- Under the plain parity of an L1 array one wrong bit is found. -/
theorem rcp_l1 (e : ArrErr) : let g := arrayGrid e.array
    e.array = 1 ∨ e.array = 2 → ∀ b, b < g.1 * g.2 → e.bits = [b] → e.rowPar = [] → rcpOutcome e = .uncorrectable := by
  intro g ha b hb hbits hr
  have hrow : b / g.2 < g.1 := Nat.div_lt_of_lt_mul (by rwa [Nat.mul_comm])
  simp only [rcpOutcome, failRows_one hrow (fun k => oddIn_bit hbits hr), failCols_of_l1 (show e.array ≤ 2 by omega), List.length_singleton,
    List.length_nil]
  rw [if_neg (by omega), if_neg (by omega)]

end Sys2Proof.Machine
end

section
/-! Loads and stores of a line that the L2 holds (R146, R197), and the wrong bits that they meet in an array (R304, R306). -/

namespace Sys2Proof.Machine

-- what an access of a hart has found, which its instruction discards as it leaves

/-- A hart whose instruction has read `g` and translated to `t`. -/
def Hart.withAcc (x : Hart) (g t : List (Nat × Nat)) : Hart := { x with got := g, xlat := t }
def Chip.withAcc (c : Chip) (h : Nat) (g t : List (Nat × Nat)) : Chip := c.onHart h (fun x => x.withAcc g t)

theorem Chip.hart_withAcc (c : Chip) (h : Nat) (g t : List (Nat × Nat)) : (c.withAcc h g t).hart h = (c.hart h).withAcc g t := c.hart_onHart h _

theorem Chip.region_withAcc (c : Chip) (h pa : Nat) (g t : List (Nat × Nat)) : (c.withAcc h g t).region pa = c.region pa := rfl

/-- A change of a hart that does not turn on what an access has found. -/
theorem Chip.onHart_withAcc {f : Hart → Hart} (hf : ∀ (x : Hart) g t, f (x.withAcc g t) = (f x).withAcc g t) (c : Chip) (h : Nat)
    (g t : List (Nat × Nat)) : (c.withAcc h g t).onHart h f = (c.onHart h f).withAcc h g t := by
  simp only [Chip.withAcc, Chip.onHart_onHart, hf]

theorem Chip.hits_withAcc (c : Chip) (h pa : Nat) (g t : List (Nat × Nat)) : (c.withAcc h g t).hits h pa = (c.hits h pa).withAcc h g t :=
  Chip.onHart_withAcc (f := fun x => { x with l2Streams := x.carryOn (pa / 64 * 64) x.l2Streams }) (fun _ _ _ => rfl) c h g t

theorem Chip.readHit_withAcc (c : Chip) (h pa : Nat) (g t : List (Nat × Nat)) : (c.withAcc h g t).readHit h pa = (c.readHit h pa).withAcc h g t := by
  rw [Chip.readHit, Chip.hits_withAcc]; rfl

theorem Chip.won_withAcc (c : Chip) (h pa : Nat) (l : L2Line) (g t : List (Nat × Nat)) :
    (c.withAcc h g t).won h pa l = (c.won h pa l).withAcc h g t := by
  rw [Chip.won, Chip.hits_withAcc]; rfl

theorem Chip.demand_withAcc (c : Chip) (h pa : Nat) (g t : List (Nat × Nat)) : (c.withAcc h g t).demand h pa = (c.demand h pa).withAcc h g t :=
  Chip.onHart_withAcc (f := fun x => { x with l1dStreams := x.carryOn pa x.l1dStreams }) (fun _ _ _ => rfl) c h g t

theorem Chip.l2Store_withAcc (c : Chip) (h pa : Nat) (l : L2Line) (n v : Nat) (g t : List (Nat × Nat)) :
    (c.withAcc h g t).l2Store h pa l n v = (c.l2Store h pa l n v).withAcc h g t := by
  let d : Chip := { c.setL2 h (pa / 64) (l.write (pa % 64) n v) with
    banks := wroteWord 4 h (pa / 64 % 8) (l2Word (pa / 64) l.way) (c.setL2 h (pa / 64) (l.write (pa % 64) n v)).banks }
  exact Chip.onHart_withAcc (f := fun x => x.l1Store (pa / 64) (pa % 64) n) (fun _ _ _ => rfl) d h g t

theorem Chip.countEvent_withAcc (c : Chip) (h ev n : Nat) (g t : List (Nat × Nat)) :
    (c.withAcc h g t).countEvent h ev n = (c.countEvent h ev n).withAcc h g t := by
  refine Chip.onHart_withAcc (fun x g t => ?_) c h g t
  refine List.foldl_rel (r := fun a b : Hart => a = b.withAcc g t) rfl (fun i _ y z hyz => ?_)
  subst hyz
  dsimp only
  rw [apply_ite (fun y : Hart => y.withAcc g t), apply_ite (fun y : Hart => y.withAcc g t)]
  rfl

theorem Chip.l1dWay_withAcc (c : Chip) (h line : Nat) (g t : List (Nat × Nat)) : (c.withAcc h g t).l1dWay h line = c.l1dWay h line := by
  unfold Chip.l1dWay
  rw [Chip.hart_withAcc]; rfl

theorem Hart.l1dTrain_withAcc (x : Hart) (a : Nat) (g t : List (Nat × Nat)) : (x.withAcc g t).l1dTrain a = (x.l1dTrain a).withAcc g t := by
  unfold Hart.l1dTrain
  have hpage : (x.withAcc g t).mine (x.withAcc g t).l1dMiss = x.mine x.l1dMiss := rfl
  rw [hpage]
  dsimp only
  rcases strideOf a ((x.mine x.l1dMiss).filter (fun b => b / 4096 == a / 4096)) with _ | s <;> rfl

theorem Chip.fillL1d_withAcc (c : Chip) (h pa : Nat) (g t : List (Nat × Nat)) :
    (c.withAcc h g t).fillL1d h pa = (c.fillL1d h pa).withAcc h g t := by
  unfold Chip.fillL1d
  dsimp only
  rw [Chip.demand_withAcc, Chip.hart_withAcc, Chip.countEvent_withAcc, Chip.onHart_withAcc (fun x => x.l1dTrain_withAcc pa)]
  generalize c.demand h pa = d
  have hl1d : (((d.hart h).withAcc g t).l1d) = (d.hart h).l1d := rfl
  simp only [hl1d]
  generalize ((d.hart h).l1d.any fun e => e.1 == pa / 64) = hit
  rw [← apply_ite (fun e : Chip => e.withAcc h g t)]
  generalize (if hit = true then d else (d.countEvent h 0x20).onHart h fun x => x.l1dTrain pa) = e
  rw [Chip.l1dWay_withAcc]
  rcases e.l1dWay h (pa / 64) with _ | w
  · rfl
  · dsimp only
    rw [apply_ite (fun e : Chip => e.withAcc h g t)]
    rw [Chip.onHart_withAcc (fun x g t => rfl)]
    rfl

theorem Chip.settle_withAcc (c : Chip) (h : Nat) (g t : List (Nat × Nat)) : (c.withAcc h g t).settle h = (c.settle h).withAcc h g t := by
  refine List.foldl_rel (r := fun a b : Chip => a = b.withAcc h g t) rfl (fun line _ d e hde => ?_)
  subst hde
  rw [apply_ite (fun d : Chip => d.withAcc h g t)]
  rfl

/-- The instruction leaves, and what its accesses have found is discarded. -/
theorem Chip.leave_withAcc (c : Chip) (h : Nat) (g t : List (Nat × Nat)) : (c.withAcc h g t).leave h = c.leave h := by
  rw [Chip.leave, Chip.settle_withAcc, Chip.withAcc, Chip.onHart_onHart]; rfl

theorem Chip.noteGot_withAcc (c : Chip) (h k v : Nat) (g t : List (Nat × Nat)) :
    (c.withAcc h g t).noteGot h k v = c.withAcc h (g ++ [(k, v)]) t := by
  rw [Chip.noteGot, Chip.withAcc, Chip.onHart_onHart]; rfl

theorem Chip.holds_withAcc {c : Chip} {h pa : Nat} {l : L2Line} (hl : c.Holds h pa l) (g t : List (Nat × Nat)) :
    (c.withAcc h g t).Holds h pa l := by
  obtain ⟨hr, hclear, hline, hst, hw, hgood⟩ := hl
  exact ⟨hr, by rwa [Chip.hart_withAcc], hline, hst, by rwa [Chip.hart_withAcc], hgood⟩

theorem Chip.owns_withAcc {c : Chip} {h pa : Nat} {l : L2Line} (hl : c.Owns h pa l) (g t : List (Nat × Nat)) :
    (c.withAcc h g t).Owns h pa l := ⟨Chip.holds_withAcc hl.holds g t, hl.owned⟩

-- one access to main memory

/-- A read access of a line that the L2 holds gives its bytes, with the bits that the hart's L1 gives wrong. -/
theorem Chip.readMain_of_holds {c : Chip} {h pa : Nat} {l : L2Line} (hl : c.Holds h pa l) (ha : (c.hart h).awaits = [])
    (n code rk acc : Nat) (va : Word) : c.readMain h pa n code rk acc va
      = (c.readHit h pa, .inl (some (Line.slice (l.data ^^^ (c.hart h).l1Wrong code (pa / 64)) (pa % 64) n))) := by
  have hwrong : ((c.readHit h pa).hart h).l1Wrong code (pa / 64) = (c.hart h).l1Wrong code (pa / 64) := by
    rw [Chip.readHit, Chip.hart_useL2, Chip.hart_hits]; rfl
  rw [Chip.readMain, Chip.reach_read hl ha]
  simp only [hl.homed, hl.good, hwrong, Bool.not_true, Bool.false_eq_true, if_false]

/-- The region of main memory that the first byte of an access lies in. -/
theorem Chip.whereTo_main {c : Chip} {h va acc pa : Nat} (hx : (c.hart h).xlat = [])
    (ht : c.translate h (BitVec.ofNat 64 va) 1 acc = (c, .pa pa)) (hr : (c.region pa).homed = true) (code : Nat) :
    c.whereTo h va acc code = (c, .main) := by
  rw [Chip.whereTo, hx, List.head?_nil]
  simp only [ht]
  revert hr
  rcases c.region pa <;> simp [Region.homed]

/-- An access within one line is one piece. -/
theorem numberPieces_line {va n : Nat} (hva : va < 2 ^ 64) (hn : 0 < n) (hl : va % 64 + n ≤ 64) :
    numberPieces (linePieces va n) = [{ k := 0, va := va, n := n }] := by
  have hlines : linesOf va n = [va / 64] := by
    rw [linesOf, show (va + n - 1) / 64 - va / 64 + 1 = 1 by omega]; simp
  rw [linePieces, hlines]
  simp only [List.map_cons, List.map_nil, numberPieces, List.length_singleton, List.range_one, List.zip_cons_cons, List.zip_nil_left,
    List.cons.injEq, Piece.mk.injEq, true_and, and_true]
  omega

/-- The translation of an instruction's one access is kept. -/
theorem Chip.xlatOnce_one {c : Chip} {h acc pa : Nat} {p : Piece} (hx : (c.hart h).xlat = []) (hg : (c.hart h).got = [])
    (ht : c.translate h (BitVec.ofNat 64 p.va) p.n acc = (c, .pa pa)) :
    c.xlatOnce h acc [p] = (c.withAcc h [] [(p.k, pa)], .inl (some [(p, pa)])) := by
  simp only [Chip.xlatOnce, hx, Chip.xlatAll, ht, List.map_cons, List.map_nil, Chip.withAcc]
  rw [Chip.onHart_congr (g := fun x => x.withAcc [] [(p.k, pa)])]
  rw [Hart.withAcc, hg]

theorem hregOk_pos {r : HReg} {n : Nat} (h : hregOk r n = true) : 0 < n := by
  rcases Nat.eq_zero_or_pos n with rfl | hn
  · cases r <;> simp [hregOk, sizeOk] at h
  · exact hn

theorem Hart.setX_withAcc (x : Hart) (n : Nat) (v : Word) (g t : List (Nat × Nat)) : (x.withAcc g t).setX n v = (x.setX n v).withAcc g t := by
  rw [Hart.setX, Hart.setX, apply_ite (fun y : Hart => y.withAcc g t)]; rfl

theorem Hart.putCsr_withAcc (x : Hart) (n hi lo v : Nat) (g t : List (Nat × Nat)) :
    (x.withAcc g t).putCsr n hi lo v = (x.putCsr n hi lo v).withAcc g t := (rfl)

theorem Hart.putBit_withAcc (x : Hart) (n i : Nat) (b : Bool) (g t : List (Nat × Nat)) :
    (x.withAcc g t).putBit n i b = (x.putBit n i b).withAcc g t := (rfl)

theorem Hart.csrBits_withAcc (x : Hart) (n hi lo : Nat) (g t : List (Nat × Nat)) : (x.withAcc g t).csrBits n hi lo = x.csrBits n hi lo := (rfl)

theorem Hart.syncSd_withAcc (x : Hart) (g t : List (Nat × Nat)) : (x.withAcc g t).syncSd = x.syncSd.withAcc g t := by
  simp only [Hart.syncSd, Hart.putBit_withAcc, Hart.csrBits_withAcc]

theorem Hart.dirty_withAcc (x : Hart) (hi lo : Nat) (g t : List (Nat × Nat)) : (x.withAcc g t).dirty hi lo = (x.dirty hi lo).withAcc g t := by
  have hv : (x.withAcc g t).virt = x.virt := rfl
  simp only [Hart.dirty, hv, Hart.putCsr_withAcc, ← apply_ite (fun y : Hart => y.withAcc g t), Hart.syncSd_withAcc]

theorem Hart.fill_withAcc (x : Hart) (rd : HReg) (size v : Nat) (signed : Bool) (g t : List (Nat × Nat)) :
    (x.withAcc g t).fill rd size v signed = (x.fill rd size v signed).withAcc g t := by
  cases rd with
  | x n => exact x.setX_withAcc n _ g t
  | f n => exact Hart.dirty_withAcc { x with f := sset 0 n _ x.f } 14 13 g t
  | v n => exact Hart.dirty_withAcc { x with v := sset 0 n _ x.v } 10 9 g t

/-- The one read access of an instruction. -/
theorem Chip.readAll_one {c : Chip} {h pa : Nat} {l : L2Line} (hl : c.Holds h pa l) (ha : (c.hart h).awaits = []) (code rk acc : Nat)
    (p : Piece) (t : List (Nat × Nat)) :
    let v := Line.slice (l.data ^^^ (c.hart h).l1Wrong code (pa / 64)) (pa % 64) p.n
    (c.withAcc h [] t).readAll h code rk acc [(p, pa)] true = ((c.readHit h pa).withAcc h [(p.k, v)] t, .inl true) := by
  intro v
  have hgot : ((c.withAcc h [] t).hart h).gotAt p.k = none := by rw [Chip.hart_withAcc]; rfl
  have hwrong : ((c.withAcc h [] t).hart h).l1Wrong code (pa / 64) = (c.hart h).l1Wrong code (pa / 64) := by rw [Chip.hart_withAcc]; rfl
  rw [Chip.readAll, hgot, Chip.readMain_of_holds (Chip.holds_withAcc hl [] t) (by rwa [Chip.hart_withAcc])]
  simp only [Option.isSome_none, Bool.false_eq_true, if_false, Chip.readAll, hwrong, Chip.readHit_withAcc, Chip.noteGot_withAcc,
    List.nil_append, v]

/-- The one store access of an instruction. -/
theorem Chip.storeAll_one {c : Chip} {h pa : Nat} {l : L2Line} (hl : c.Owns h pa l) (ha : (c.hart h).awaits = []) (code : Nat)
    (val : Nat → Nat) (p : Piece) (t : List (Nat × Nat)) :
    (c.withAcc h [] t).storeAll h code false val [(p, pa)]
      = (((c.won h pa l).l2Store h pa { l with st := .M } p.n (val p.k)).withAcc h [(p.k, 0)] t, .inl true) := by
  have hgot : ((c.withAcc h [] t).hart h).gotAt p.k = none := by rw [Chip.hart_withAcc]; rfl
  have hr : ((c.withAcc h [] t).region pa).homed = true := hl.holds.homed
  rw [Chip.storeAll, hgot, Chip.reach_own (Chip.owns_withAcc hl [] t) (by rwa [Chip.hart_withAcc]), hr]
  simp only [Option.isSome_none, Bool.false_eq_true, Bool.not_true, if_false, Chip.storeAll, Chip.won_withAcc, Chip.l2Store_withAcc,
    Chip.noteGot_withAcc, List.nil_append]

-- a load, and a store

section
variable {c : Chip} {h va size pa : Nat} {l : L2Line} (hva : va < 2 ^ 64) (hn : 0 < size) (hline : va % 64 + size ≤ 64)
  (ha : (c.hart h).awaits = []) (hx : (c.hart h).xlat = []) (hg : (c.hart h).got = [])
include hva hn hline ha hx hg

theorem Chip.load_of_holds {rd : HReg} (hon : (c.hart h).regOn rd = true) (ht1 : c.translate h (BitVec.ofNat 64 va) 1 1 = (c, .pa pa))
    (ht : c.translate h (BitVec.ofNat 64 va) size 1 = (c, .pa pa)) (hl : c.Holds h pa l) (signed : Bool) :
    let v := Line.slice (l.data ^^^ (c.hart h).l1Wrong 0 (pa / 64)) (pa % 64) size
    c.load h rd va size signed
      = ((((c.readHit h pa).fillL1d h pa).onHart h (fun x => x.fill rd size v signed)).withAcc h [(0, v)] [(0, pa)], .done) := by
  intro v
  rw [Chip.load, hon, Chip.whereTo_main hx ht1 hl.homed]
  simp only [Bool.not_true, Bool.false_eq_true, if_false]
  rw [numberPieces_line hva hn hline, Chip.xlatOnce_one (p := { k := 0, va := va, n := size }) hx hg ht]
  dsimp only
  rw [Chip.readAll_one hl ha]
  simp only [List.foldl_cons, List.foldl_nil, Chip.fillL1d_withAcc, Chip.hart_withAcc]
  rw [Chip.onHart_withAcc (fun x => x.fill_withAcc rd size _ signed)]
  simp [Hart.joined, Hart.gotAt, Hart.withAcc, v]

theorem Chip.store_of_owns {rs : HReg} (hon : (c.hart h).regOn rs = true) (ht1 : c.translate h (BitVec.ofNat 64 va) 1 2 = (c, .pa pa))
    (ht : c.translate h (BitVec.ofNat 64 va) size 2 = (c, .pa pa)) (hl : c.Owns h pa l) :
    c.store h rs va size
      = ((((c.won h pa l).l2Store h pa { l with st := .M } size ((c.hart h).source rs)).demand h pa).withAcc h [(0, 0)] [(0, pa)], .done) := by
  rw [Chip.store, hon, Chip.whereTo_main hx ht1 hl.holds.homed]
  simp only [Bool.not_true, Bool.false_eq_true, if_false]
  rw [numberPieces_line hva hn hline, Chip.xlatOnce_one (p := { k := 0, va := va, n := size }) hx hg ht]
  dsimp only
  rw [Chip.storeAll_one hl ha]
  simp only [List.foldl_cons, List.foldl_nil, Chip.demand_withAcc]
  simp [pieceVal]

end

-- the hart stays calm

theorem Chip.Calm.withAcc {c : Chip} {h : Nat} (hc : c.Calm h) (g t : List (Nat × Nat)) : (c.withAcc h g t).Calm h :=
  hc.onHart (f := fun x => x.withAcc g t) (fun _ hx => hx) h

theorem Chip.Calm.demand {c : Chip} {h : Nat} (hc : c.Calm h) (pa : Nat) : (c.demand h pa).Calm h :=
  hc.onHart (f := fun x => { x with l1dStreams := x.carryOn pa x.l1dStreams }) (fun _ hx => hx) h

theorem Hart.Calm.l1dTrain {x : Hart} (hx : x.Calm) (a : Nat) : (x.l1dTrain a).Calm := by
  unfold Hart.l1dTrain
  dsimp only
  split <;> exact hx

theorem Hart.Calm.setL1d {x : Hart} (hx : x.Calm) (a : Sparse Line) (b : List (Nat × Nat)) : ({ x with l1x := a, l1d := b } : Hart).Calm := hx

theorem Chip.Calm.useWay {c : Chip} {h : Nat} (hc : c.Calm h) (l : Lru) (set way : Nat) : (c.useWay l set way).Calm h := hc

theorem Chip.Calm.fillL1d {c : Chip} {h : Nat} (hc : c.Calm h) (pa : Nat) : (c.fillL1d h pa).Calm h := by
  unfold Chip.fillL1d
  extract_lets line d hit e
  have he : e.Calm h := by
    unfold e
    split
    · exact hc.demand pa
    · exact ((hc.demand pa).countEvent h 0x20 1).onHart (fun x hx => hx.l1dTrain pa) h
  clear_value e
  split
  · exact he
  · split
    · exact he
    · refine Chip.Calm.useWay (Chip.Calm.onHart he (fun x hx => ?_) h) _ _ _
      exact hx.setL1d _ _

-- wrong bits in an array

/-- The package once an access has read the word in which it meets wrong bits. -/
def Pkg.afterMeet (p : Pkg) (e : ArrErr) (m : Meets) : Pkg :=
  match m with
  | some x => p.arrayRead e (some x)
  | none => p

theorem execLoad_meets (s : State) (h : Nat) (reg : HReg) (va size : Nat) (signed : Bool) {e : ArrErr} (he : errOk (some e) = true) :
    exec (.load h reg va size signed (some e)) s
      = exec (.load h reg va size signed none) { s with toPkg := s.toPkg.afterMeet e (s.chip.meets h va 1 e) } := by
  have hok : (hartOk h && hregOk reg size && vaOk va && errOk (some e)) = (hartOk h && hregOk reg size && vaOk va && errOk none) := by
    rw [he]; rfl
  exact congrArg (fun ok => need ok (s.onPkg (fun p => p.access h va 1 (some e) (.load h reg va size signed none)))) hok

theorem execStore_meets (s : State) (h : Nat) (reg : HReg) (va size : Nat) {e : ArrErr} (he : errOk (some e) = true) :
    exec (.store h reg va size (some e)) s
      = exec (.store h reg va size none) { s with toPkg := s.toPkg.afterMeet e (s.chip.meets h va 2 e) } := by
  have hok : (hartOk h && hregOk reg size && vaOk va && errOk (some e)) = (hartOk h && hregOk reg size && vaOk va && errOk none) := by
    rw [he]; rfl
  exact congrArg (fun ok => need ok (s.onPkg (fun p => p.access h va 2 (some e) (.store h reg va size none)))) hok

theorem Chip.meets_by {c : Chip} {h va acc : Nat} {e : ArrErr} {m : Met} (hb : e.by_ = some m) : c.meets h va acc e = some m := by
  rw [Chip.meets, hb]

theorem Chip.meets_own {c : Chip} {h va acc line : Nat} {e : ArrErr} (hb : e.by_ = none) (hr : (c.hart h).run = .running)
    (hl : c.lineOfAccess h va acc = some line) :
    c.meets h va acc e = some { rid := h, world := (c.hart h).world, acc := if acc = 1 then 0 else 1, line := line } := by
  simp [Chip.meets, hb, hr, hl]

theorem Chip.meets_nothing {c : Chip} {h va acc : Nat} {e : ArrErr} (hb : e.by_ = none)
    (hn : (c.hart h).run ≠ .running ∨ c.lineOfAccess h va acc = none) : c.meets h va acc e = none := by
  rcases hn with hr | hl
  · simp [Chip.meets, hb, hr]
  · simp [Chip.meets, hb, hl]

/-- Settles O7: the one access of the instruction finds its line at the L2, and what it kept for a retry is discarded as it leaves. -/
theorem loadStoreHit : Obligations.LoadStoreHit := by
  unfold Obligations.LoadStoreHit
  refine ⟨⟨?_, ?_⟩, ?_, fun e => ⟨rcp_outcomes e, rcp_l1 e⟩⟩
  · intro s h rd va size pa signed l i c ea hf hok hva hline hon ht1 ht hl v
    have hea : ea < 2 ^ 64 := BitVec.isLt _
    have hp : c.perform h i = _ := Chip.load_of_holds hea (hregOk_pos hok) hline (by simpa [c] using hf.awaits) (by simpa [c] using hf.xlat)
      (by simpa [c] using hf.got) hon ht1 ht hl signed
    have hcalm : (((c.readHit h pa).fillL1d h pa).onHart h (fun x => x.fill rd size v signed)).Calm h :=
      (((hf.calm_given i).readHit pa).fillL1d pa).onHart (fun x hx => hx.fill rd size v signed) h
    refine gives_of_onPkg rfl (by simp [hf.hart, hok, vaOk_of_lt hva, errOk]) (congrArg (fun d => { s.toPkg with chip := d }) ?_)
    exact (Chip.issueInstr_retires hf rfl hp (hcalm.withAcc _ _)).trans (by rw [Chip.leave_withAcc])
  · intro s h rs va size pa l i c ea hf hok hva hline hon ht1 ht hl
    have hea : ea < 2 ^ 64 := BitVec.isLt _
    have hp : c.perform h i = _ := Chip.store_of_owns hea (hregOk_pos hok) hline (by simpa [c] using hf.awaits) (by simpa [c] using hf.xlat)
      (by simpa [c] using hf.got) hon ht1 ht hl
    have hcalm : (((c.won h pa l).l2Store h pa { l with st := .M } size ((c.hart h).source rs)).demand h pa).Calm h :=
      (((hf.calm_given i).won pa l).l2Store pa _ size _).demand pa
    refine gives_of_onPkg rfl (by simp [hf.hart, hok, vaOk_of_lt hva, errOk]) (congrArg (fun d => { s.toPkg with chip := d }) ?_)
    exact (Chip.issueInstr_retires hf rfl hp (hcalm.withAcc _ _)).trans (by rw [Chip.leave_withAcc])
  · intro s h reg va size signed e he after own
    refine ⟨fun m hm => ⟨?_, ?_⟩, fun line hb hr hl => ?_, fun line hb hr hl => ?_, fun hb hn => ⟨?_, ?_⟩⟩
    · rw [execLoad_meets s h reg va size signed he, Chip.meets_by hm]; rfl
    · rw [execStore_meets s h reg va size he, Chip.meets_by hm]; rfl
    · rw [execLoad_meets s h reg va size signed he, Chip.meets_own hb hr hl]; rfl
    · rw [execStore_meets s h reg va size he, Chip.meets_own hb hr hl]; rfl
    · rw [execLoad_meets s h reg va size signed he, Chip.meets_nothing hb (hn.imp_right And.left)]; rfl
    · rw [execStore_meets s h reg va size he, Chip.meets_nothing hb (hn.imp_right And.right)]; rfl

end Sys2Proof.Machine
end

section
/-! A fetch, the cache-block operations, a fence and a prefetch (R65, R72, R158, R274). -/

namespace Sys2Proof.Machine

-- a hart of which no access is under way

/-- A calm hart whose instruction has found nothing yet and waits for no line. -/
def Hart.Fresh (x : Hart) : Prop := x.Calm ∧ x.awaits = [] ∧ x.got = []
def Chip.Fresh (c : Chip) (h : Nat) : Prop := (c.hart h).Fresh

theorem Hart.Fresh.of_eq {x y : Hart} (hx : x.Fresh) (hc : y.Calm) (ha : y.awaits = x.awaits) (hg : y.got = x.got) : y.Fresh :=
  ⟨hc, ha.trans hx.2.1, hg.trans hx.2.2⟩

theorem Chip.Free.fresh {c : Chip} {h : Nat} (hf : c.Free h) (i : Instr) : (c.given h i).Fresh h := by
  refine ⟨hf.calm_given i, ?_, ?_⟩
  · simpa using hf.awaits
  · simpa using hf.got

theorem Chip.Fresh.onHart {c : Chip} {h : Nat} (hc : c.Fresh h) {f : Hart → Hart} (hf : ∀ x : Hart, x.Fresh → (f x).Fresh) :
    (c.onHart h f).Fresh h := by
  rw [Chip.Fresh, Chip.hart_onHart]; exact hf _ hc

theorem Hart.Fresh.counted {x : Hart} (hx : x.Fresh) (i old n : Nat) (hi : i < 29) (b : Bool) :
    (if b then ((x.setCsr (0xB03 + i) (BitVec.ofNat 64 (old + n))).putBit (0x323 + i) 63 true).putBit csrMip 13 true
      else x.setCsr (0xB03 + i) (BitVec.ofNat 64 (old + n))).Fresh := by
  refine hx.of_eq (hx.1.counted i old n hi b) ?_ ?_
  · cases b <;> rfl
  · cases b <;> rfl

theorem Chip.Fresh.countEvent {c : Chip} {h : Nat} (hc : c.Fresh h) (ev n : Nat) : (c.countEvent h ev n).Fresh h := by
  refine hc.onHart (fun x hx => List.foldlRecOn _ _ hx fun y hy i hi => ?_)
  have hi := List.mem_range.mp hi
  dsimp only
  split
  · exact hy.counted i _ n hi _
  · exact hy

section
variable {c : Chip} {h : Nat} (hc : c.Fresh h)
include hc

theorem Chip.Fresh.noteTarget (pc next : Nat) : (c.onHart h (fun y => y.noteTarget pc next)).Fresh h := hc.onHart (fun _ hx => hx)
theorem Chip.Fresh.push (a : Nat) : (c.onHart h (fun y => y.push a)).Fresh h := hc.onHart (fun _ hx => hx)

theorem Chip.Fresh.nextFree : c.nextFree.Fresh h := hc
theorem Chip.Fresh.noteDirection (pc : Nat) (taken again : Bool) : (c.onHart h (fun y => y.noteDirection pc taken again)).Fresh h :=
  hc.onHart (fun _ hx => hx)

theorem Chip.Fresh.branchResolved (pc target next : Nat) (taken : Bool) : (c.branchResolved h pc target next taken).Fresh h := by
  unfold Chip.branchResolved
  extract_lets x guess wrong c1 c2 c3 c4
  have h1 : c1.Fresh h := by
    unfold c1
    split
    · exact hc.countEvent _ _
    · exact hc
  clear_value c1
  have h2 : c2.Fresh h := by
    unfold c2
    split
    · exact h1.countEvent _ _
    · exact h1
  clear_value c2
  have h3 : c3.Fresh h := by
    unfold c3
    split
    · exact Chip.Fresh.noteDirection (h2.countEvent _ _).nextFree _ _ _
    · exact h2
  clear_value c3
  have h4 : c4.Fresh h := by
    unfold c4
    split
    · exact h3.noteTarget pc next
    · exact h3
  clear_value c4
  split
  · exact h4.onHart (f := fun y => y.noteLoop pc taken) (fun _ hx => hx)
  · exact h4

theorem Chip.Fresh.returnResolved (next : Nat) : (c.returnResolved h next).Fresh h := by
  refine Chip.Fresh.onHart ?_ (fun _ hx => hx)
  split
  · exact hc
  · exact hc.countEvent _ _

theorem Chip.Fresh.resolve (next : Nat) : (c.resolve h next).Fresh h := by
  unfold Chip.resolve
  split
  · exact hc
  · extract_lets seq
    split
    · exact hc
    · exact hc.branchResolved _ _ _ _
    · split
      · exact (hc.noteTarget _ next).push seq
      · exact hc.noteTarget _ next
    · rename_i call ret _
      extract_lets c1 c2
      have h1 : c1.Fresh h := by
        unfold c1
        split
        · exact hc.returnResolved next
        · exact hc
      split
      · exact (h1.noteTarget _ next).push seq
      · exact h1.noteTarget _ next

end

-- a parcel of a fetch

/-- L1I takes the line: nothing else of the hart changes. -/
theorem Chip.fillL1i_hart (c : Chip) (h line : Nat) : ∃ a b, (c.fillL1i h line).hart h = { c.hart h with l1x := a, l1i := b } := by
  unfold Chip.fillL1i
  dsimp only
  split
  · exact ⟨_, _, rfl⟩
  · split
    · exact ⟨_, _, rfl⟩
    · exact ⟨_, _, c.hart_onHart h _⟩

/-- A parcel that the L2 holds, in L1I. -/
def Chip.parcel (c : Chip) (h a : Nat) : Chip := (c.readHit h a).fillL1i h (a / 64)

theorem Chip.parcel_hart (c : Chip) (h a : Nat) : ∃ s x i, (c.parcel h a).hart h = { c.hart h with l2Streams := s, l1x := x, l1i := i } := by
  obtain ⟨x, i, he⟩ := (c.readHit h a).fillL1i_hart h (a / 64)
  refine ⟨(c.hart h).carryOn (a / 64 * 64) (c.hart h).l2Streams, x, i, he.trans ?_⟩
  rw [Chip.readHit, Chip.hart_useL2, Chip.hart_hits]

theorem Chip.hart_noteGot (c : Chip) (h k v : Nat) : (c.noteGot h k v).hart h = { c.hart h with got := (c.hart h).got ++ [(k, v)] } :=
  c.hart_onHart h _

theorem Chip.got_parcel (c : Chip) (h a : Nat) : ((c.parcel h a).hart h).got = (c.hart h).got := by
  obtain ⟨s, x, i, he⟩ := c.parcel_hart h a
  rw [he]

theorem Chip.awaits_parcel (c : Chip) (h a : Nat) : ((c.parcel h a).hart h).awaits = (c.hart h).awaits := by
  obtain ⟨s, x, i, he⟩ := c.parcel_hart h a
  rw [he]

theorem Chip.got_noteGot (c : Chip) (h k v : Nat) : ((c.noteGot h k v).hart h).got = (c.hart h).got ++ [(k, v)] := by rw [Chip.hart_noteGot]
theorem Chip.awaits_noteGot (c : Chip) (h k v : Nat) : ((c.noteGot h k v).hart h).awaits = (c.hart h).awaits := by rw [Chip.hart_noteGot]

theorem Chip.Calm.parcel {c : Chip} {h : Nat} (hc : c.Calm h) (a : Nat) : (c.parcel h a).Calm h := by
  obtain ⟨s, x, i, he⟩ := c.parcel_hart h a
  rw [Chip.Calm, he]; exact hc

theorem Chip.Calm.noteGot {c : Chip} {h : Nat} (hc : c.Calm h) (k v : Nat) : (c.noteGot h k v).Calm h := by
  rw [Chip.Calm, Chip.hart_noteGot]; exact hc

theorem Chip.fetchParcel_of_holds {c : Chip} {h k va a : Nat} {l : L2Line} (hg : (c.hart h).gotAt k = none) (ha : (c.hart h).awaits = [])
    (ht : c.translate h (BitVec.ofNat 64 va) 2 0 = (c, .pa a)) (hl : c.Holds h a l) :
    let v := Line.slice (l.data ^^^ (c.hart h).l1Wrong 2 (a / 64)) (a % 64) 2
    c.fetchParcel h k va = ((c.parcel h a).noteGot h k v, .inl (some v)) := by
  intro v
  rw [Chip.fetchParcel, hg]
  simp only [ht, Chip.readMain_of_holds hl ha]
  rfl

/-- The instruction leaves: what it has read is discarded. -/
theorem Chip.leave_fetched (c : Chip) (h k v : Nat) (f : Option (Nat × Nat)) :
    ((c.noteGot h k v).onHart h (fun x => { x with fetched := f })).leave h = (c.onHart h (fun x => { x with fetched := f })).leave h := by
  have hset : ∀ g : Hart → Hart, (c.onHart h g).settle h = (c.settle h).onHart h g := by
    intro g
    refine List.foldl_rel (r := fun a b : Chip => a = b.onHart h g) rfl (fun line _ d e hde => ?_)
    subst hde
    rw [apply_ite (fun d : Chip => d.onHart h g)]
    rfl
  rw [Chip.noteGot, Chip.onHart_onHart, Chip.leave, Chip.leave, hset, hset, Chip.onHart_onHart, Chip.onHart_onHart]
  rfl

/-- The address of an access of M-mode without MPRV is as given. -/
theorem Hart.eaddr_of_m {x : Hart} {va : Nat} (hp : x.priv = 3) (hm : x.csrBit csrMstatus 17 = false) (hva : va < 2 ^ 64) : x.eaddr va = va := by
  have he : x.effective 1 = (3, x.virt) := by simp [Hart.effective, hp, hm]
  have hw : x.pointer (BitVec.ofNat 64 va) = BitVec.ofNat 64 va := by
    rw [Hart.pointer, he]
    rfl
  rw [Hart.eaddr, hw, BitVec.toNat_ofNat, Nat.mod_eq_of_lt hva]

-- cache-block operations

section
variable {c : Chip} {h va pa : Nat}

/-- The request to the home is one of the die's outstanding ones. -/
theorem Chip.sendMiss_missOf {m : Msg} (hh : h < 288) (hm : c.missOf m.die m.line = none) (ht : (c.freeTag m.die).isSome = true) :
    ((c.sendMiss h m).missOf m.die m.line).isSome = true := by
  obtain ⟨t, ht⟩ := Option.isSome_iff_exists.mp ht
  simp only [Chip.sendMiss, hm, Option.isSome_none, Bool.false_eq_true, if_false, ht, hh, if_true]
  rw [Chip.missOf, Chip.countEvent, Chip.onHart_miss, Chip.issue_miss]
  simp

/-- cbo.clean, cbo.flush and cbo.inval wait for the home, or for a free tag. -/
theorem Chip.cboMgmt_sends (k : MsgKind) (hh : h < 288) (hr : (c.hart h).refusal = none) (hio : (c.hart h).io = none)
    (ht : c.translate h (BitVec.ofNat 64 va) 1 1 = (c, .pa pa)) (hreg : (c.region pa).homed = true)
    (hm : c.missOf (hartDie h) (pa / 64) = none) :
    ((c.freeTag (hartDie h)).isSome = true → c.cboMgmt h va k
      = ((c.sendMiss h (c.hartMsg h k (pa / 64) 7)).onHart h (fun x => { x with io := some none }), .wait))
    ∧ (c.freeTag (hartDie h) = none → c.cboMgmt h va k = (c, .wait)) := by
  have hbase : c.cboMgmt h va k = ((if ((c.sendMiss h (c.hartMsg h k (pa / 64) 7)).missOf (hartDie h) (pa / 64)).isSome
      then (c.sendMiss h (c.hartMsg h k (pa / 64) 7)).onHart h (fun x => { x with io := some none })
      else c.sendMiss h (c.hartMsg h k (pa / 64) 7)), .wait) := by
    rw [Chip.cboMgmt]
    simp only [ht, hreg, hr, hio, hm, Option.filter_none, Option.isSome_none, Bool.not_true, Bool.false_eq_true, if_false]
  refine ⟨fun hf => ?_, fun hf => ?_⟩
  · have hs : ((c.sendMiss h (c.hartMsg h k (pa / 64) 7)).missOf (hartDie h) (pa / 64)).isSome = true :=
      Chip.sendMiss_missOf (m := c.hartMsg h k (pa / 64) 7) hh hm hf
    rw [hbase, if_pos hs]
  · have hs : c.sendMiss h (c.hartMsg h k (pa / 64) 7) = c := by
      have hm' : c.missOf (c.hartMsg h k (pa / 64) 7).die (c.hartMsg h k (pa / 64) 7).line = none := hm
      have hf' : c.freeTag (c.hartMsg h k (pa / 64) 7).die = none := hf
      rw [Chip.sendMiss, hm', hf']; rfl
    rw [hbase, hs, hm, if_neg (by simp)]

theorem Chip.cboZero_of_owns {l : L2Line} (ha : (c.hart h).awaits = [])
    (ht : c.translate h (BitVec.ofNat 64 (va / 64 * 64)) 64 2 = (c, .pa pa)) (hl : c.Owns h pa l) :
    c.cboZero h va = ((c.won h pa l).l2Store h (pa / 64 * 64) { l with st := .M } 64 0, .done) := by
  rw [Chip.cboZero]
  simp only [ht, hl.holds.homed, Chip.reach_write (want := .zero) (by decide) hl ha, Bool.not_true, Bool.false_eq_true, if_false]

theorem Hart.cboGate_of_m {x : Hart} (hp : x.priv = 3) (op : CboOp) : x.cboGate op = .inl op := by
  simp [Hart.cboGate, hp]

end

theorem Chip.Calm.sendMiss {c : Chip} {h : Nat} (hc : c.Calm h) (m : Msg) : (c.sendMiss h m).Calm h := by
  unfold Chip.sendMiss
  split
  · exact hc
  · split
    · exact hc
    · extract_lets m' c1
      have h1 : c1.Calm h := hc.of_harts (Chip.issue_harts _ _)
      clear_value c1
      split
      · exact h1.countEvent h _ _
      · exact h1

-- a prefetch

theorem Chip.hitWorld_onHart (c : Chip) (h k line : Nat) (f : Hart → Hart) : (c.onHart h f).hitWorld k line = c.hitWorld k line := rfl
theorem Chip.wbAny_onHart (c : Chip) (h d line : Nat) (f : Hart → Hart) : (c.onHart h f).wbAny d line = c.wbAny d line := rfl

section
variable {c : Chip} {h pa next : Nat} (hrun : (c.hart h).run = .running) (htr : (c.hart h).streamTrained pa next = true)
  (hpage : pa / 4096 = next / 4096) (hreg : (c.region next).homed = true)
include hrun htr hpage hreg

theorem Chip.prefetch_of_trained : c.prefetch h pa next = if (c.hitWorld h (next / 64)).any (fun w => w != (c.hart h).world)
    then (c.countEvent h 0x30).countEvent h 0x31
    else if (c.wbAny (hartDie h) (next / 64)).isSome then c.countEvent h 0x30
    else ((c.countEvent h 0x30).seek h (next / 64) .read 8 4).1 := by
  simp only [Chip.prefetch, hrun, htr, hpage, hreg, ne_eq, not_true_eq_false, Bool.not_true, Bool.false_eq_true, or_self, if_false, Chip.countEvent,
    Chip.hitWorld_onHart, Chip.wbAny_onHart]

end

theorem Chip.prefetch_of_crossing (c : Chip) {h pa next : Nat} (hpage : pa / 4096 ≠ next / 4096) : c.prefetch h pa next = c := by
  rw [Chip.prefetch]
  exact if_pos (.inr (.inr (.inl hpage)))

-- the statement's parts

/-- An operation that has its effect at a fence is nothing. -/
theorem fence_does (s : State) (h p q : Nat) (hf : s.chip.Free h) (hp : p < 16) (hq : q < 16) :
    Gives (.fence h p q) s (((s.chip.given h (.fence h p q)).leave h).finish h) :=
  gives_of_onChip rfl (by simp [hf.hart, hp, hq]) (Chip.issueInstr_retires hf rfl rfl (hf.calm_given _))

/-- The chip at which a fetch reads its first parcel. -/
def Chip.atFetch (c : Chip) (h va : Nat) : Chip :=
  ((c.given h (.instructionFetch h va)).resolve h va).onHart h (fun x => { x with pc := BitVec.ofNat 64 va, fetched := none })

theorem Chip.atFetch_eq (c : Chip) (h va : Nat) :
    ((c.given h (.instructionFetch h va)).resolve h va).onHart h (fun x => { x with pc := BitVec.ofNat 64 va, fetched := none })
      = c.atFetch h va := rfl

theorem Chip.perform_fetch (c : Chip) {h va : Nat} : c.perform h (.instructionFetch h va) = c.fetch h va := rfl

theorem Chip.Free.fresh_atFetch {c : Chip} {h : Nat} (hf : c.Free h) (va : Nat) : (c.atFetch h va).Fresh h :=
  ((hf.fresh _).resolve va).onHart (f := fun x => { x with pc := BitVec.ofNat 64 va, fetched := none }) (fun _ hx => hx)

theorem Chip.Free.calm_atFetch {c : Chip} {h : Nat} (hf : c.Free h) (va : Nat) : (c.atFetch h va).Calm h := (hf.fresh_atFetch va).1

/-- A fetch of one parcel, and of two. -/
theorem Chip.fetch_of_narrow {c d e : Chip} {h va lo : Nat}
    (hd : (c.resolve h va).onHart h (fun x => { x with pc := BitVec.ofNat 64 va, fetched := none }) = d)
    (hlo : d.fetchParcel h 0 va = (e, .inl (some lo))) (hw : isWide lo = false) :
    c.fetch h va = (e.onHart h (fun x => { x with fetched := some (va, lo) }), .done) := by
  rw [Chip.fetch, hd]
  simp only [hlo, hw, Bool.not_false, if_true, Chip.fetchDone]

theorem Chip.fetch_of_wide {c d e g : Chip} {h va lo hi : Nat}
    (hd : (c.resolve h va).onHart h (fun x => { x with pc := BitVec.ofNat 64 va, fetched := none }) = d)
    (hlo : d.fetchParcel h 0 va = (e, .inl (some lo))) (hw : isWide lo = true)
    (hhi : e.fetchParcel h 1 ((va + 2) % 2 ^ 64) = (g, .inl (some hi))) :
    c.fetch h va = if tileUndefined (lo + 65536 * hi) then (g.takeTrap h { cause := 2, tval := BitVec.ofNat 64 (lo + 65536 * hi) }, .ended)
      else (g.onHart h (fun x => { x with fetched := some (va, lo + 65536 * hi) }), .done) := by
  rw [Chip.fetch, hd]
  simp only [hlo, hw, hhi, Bool.not_true, Bool.false_eq_true, if_false, Chip.fetchDone, Chip.stopWith]

section
variable {s : State} {h va pa : Nat} {l : L2Line} (hf : s.chip.Free h) (hva : va < 2 ^ 64) (hev : va % 2 = 0)
  (ht : (s.chip.atFetch h va).translate h (BitVec.ofNat 64 va) 2 0 = (s.chip.atFetch h va, .pa pa)) (hl : (s.chip.atFetch h va).Holds h pa l)
include hf ht hl

/-- The low parcel of the fetch. -/
theorem fetch_low : let c := s.chip.atFetch h va
    let lo := Line.slice (l.data ^^^ (c.hart h).l1Wrong 2 (pa / 64)) (pa % 64) 2
    c.fetchParcel h 0 va = ((c.parcel h pa).noteGot h 0 lo, .inl (some lo)) := by
  obtain ⟨-, ha, hg⟩ := hf.fresh_atFetch va
  exact Chip.fetchParcel_of_holds (by rw [Hart.gotAt, hg]; rfl) ha ht hl

include hva hev

theorem fetch_narrow : let c := s.chip.atFetch h va
    let lo := Line.slice (l.data ^^^ (c.hart h).l1Wrong 2 (pa / 64)) (pa % 64) 2
    isWide lo = false → Gives (.instructionFetch h va) s (((c.parcel h pa).onHart h (fun x => { x with fetched := some (va, lo) })).leave h) := by
  intro c lo hw
  have hp := (s.chip.given h _).perform_fetch.trans (Chip.fetch_of_narrow (s.chip.atFetch_eq h va) (fetch_low hf ht hl) hw)
  have hcalm : (((c.parcel h pa).noteGot h 0 lo).onHart h (fun x => { x with fetched := some (va, lo) })).Calm h :=
    (((hf.calm_atFetch va).parcel pa).noteGot 0 lo).onHart (f := fun x => { x with fetched := some (va, lo) }) (fun _ hx => hx) h
  have hleaves := Chip.issueInstr_leaves hf rfl hp hcalm
  rw [Chip.leave_fetched] at hleaves
  exact gives_of_onChip rfl (by simp [hf.hart, vaOk_of_lt hva, hev]) hleaves

theorem fetch_wide (l' : L2Line) : let c := s.chip.atFetch h va
    let lo := Line.slice (l.data ^^^ (c.hart h).l1Wrong 2 (pa / 64)) (pa % 64) 2
    let c1 := (c.parcel h pa).noteGot h 0 lo
    isWide lo = true → c1.translate h (BitVec.ofNat 64 ((va + 2) % 2 ^ 64)) 2 0 = (c1, .pa (pa + 2)) → c1.Holds h (pa + 2) l' →
      let hi := Line.slice (l'.data ^^^ (c1.hart h).l1Wrong 2 ((pa + 2) / 64)) ((pa + 2) % 64) 2
      let w := lo + 65536 * hi
      (tileUndefined w = false → Gives (.instructionFetch h va) s
        (((c1.parcel h (pa + 2)).onHart h (fun x => { x with fetched := some (va, w) })).leave h))
      ∧ (tileUndefined w = true → Gives (.instructionFetch h va) s
        (((c1.parcel h (pa + 2)).noteGot h 1 hi).takeTrap h { cause := 2, tval := BitVec.ofNat 64 w })) := by
  intro c lo c1 hw ht' hl' hi w
  obtain ⟨-, ha, hg⟩ := hf.fresh_atFetch va
  have hgot : (c1.hart h).got = [(0, lo)] := by rw [Chip.got_noteGot, Chip.got_parcel, hg]; rfl
  have hawaits : (c1.hart h).awaits = [] := by rw [Chip.awaits_noteGot, Chip.awaits_parcel, ha]
  have hhi : c1.fetchParcel h 1 ((va + 2) % 2 ^ 64) = ((c1.parcel h (pa + 2)).noteGot h 1 hi, .inl (some hi)) :=
    Chip.fetchParcel_of_holds (by rw [Hart.gotAt, hgot]; rfl) hawaits ht' hl'
  have hp := (s.chip.given h _).perform_fetch.trans (Chip.fetch_of_wide (s.chip.atFetch_eq h va) (fetch_low hf ht hl) hw hhi)
  have hcalm' : ((c1.parcel h (pa + 2)).noteGot h 1 hi).Calm h := ((((hf.calm_atFetch va).parcel pa).noteGot 0 lo).parcel (pa + 2)).noteGot 1 hi
  have hok : (hartOk h && vaOk va && va % 2 == 0) = true := by simp [hf.hart, vaOk_of_lt hva, hev]
  constructor
  · intro hu
    rw [if_neg (by simpa using hu)] at hp
    have hleaves := Chip.issueInstr_leaves hf rfl hp (hcalm'.onHart (f := fun x => { x with fetched := some (va, w) }) (fun _ hx => hx) h)
    rw [Chip.leave_fetched] at hleaves
    exact gives_of_onChip rfl hok hleaves
  · intro hu
    rw [if_pos hu] at hp
    exact gives_of_onChip rfl hok (Chip.issueInstr_of_ended hf hp (hcalm'.takeTrap _))

end

/-- The cache-block operations that the home performs. -/
theorem cboMgmt_does (s : State) (h va pa : Nat) (k : MsgKind) (i : Instr)
    (hi : (i = .cboClean h va ∧ k = .CMO_CLEAN) ∨ (i = .cboFlush h va ∧ k = .CMO_FLUSH) ∨ (i = .cboInval h va ∧ k = .CMO_INVAL)) :
    let c := s.chip.given h i
    s.chip.Free h → va < 2 ^ 64 → (c.hart h).priv = 3 → (c.hart h).csrBit csrMstatus 17 = false → (c.hart h).refusal = none
    → (c.hart h).io = none → c.translate h (BitVec.ofNat 64 va) 1 1 = (c, .pa pa) → (c.region pa).homed = true
    → c.missOf (hartDie h) (pa / 64) = none →
    ((c.freeTag (hartDie h)).isSome = true →
      Gives i s ((c.sendMiss h (c.hartMsg h k (pa / 64) 7)).onHart h (fun x => { x with io := some none })))
    ∧ (c.freeTag (hartDie h) = none → Gives i s c) := by
  intro c hf hva hp hm hr hio ht hreg hmiss
  obtain ⟨hsends, hwaits⟩ := Chip.cboMgmt_sends k hf.hart hr hio ht hreg hmiss
  have hok : (hartOk h && vaOk va) = true := by simp [hf.hart, vaOk_of_lt hva]
  have hea : (c.hart h).eaddr va = va := Hart.eaddr_of_m hp hm hva
  have hperf : c.perform h i = c.cboMgmt h va k := by
    rcases hi with ⟨rfl, rfl⟩ | ⟨rfl, rfl⟩ | ⟨rfl, rfl⟩
    · change c.cbo h ((c.hart h).eaddr va) .clean = _
      rw [hea, Chip.cbo, Hart.cboGate_of_m hp]
    · change c.cbo h ((c.hart h).eaddr va) .flush = _
      rw [hea, Chip.cbo, Hart.cboGate_of_m hp]
    · change c.cbo h ((c.hart h).eaddr va) .inval = _
      rw [hea, Chip.cbo, Hart.cboGate_of_m hp]
  have hexec : exec i s = need (hartOk h && vaOk va) (s.onChip (fun c => c.issueInstr h i)) := by
    rcases hi with ⟨rfl, rfl⟩ | ⟨rfl, rfl⟩ | ⟨rfl, rfl⟩ <;> rfl
  constructor
  · intro htag
    exact gives_of_onChip hexec hok (Chip.issueInstr_of_wait hf (hperf.trans (hsends htag))
      (((hf.calm_given i).sendMiss _).onHart (f := fun x => { x with io := some none }) (fun _ hx => hx) h))
  · intro htag
    exact gives_of_onChip hexec hok (Chip.issueInstr_of_wait hf (hperf.trans (hwaits htag)) (hf.calm_given i))

theorem cboZero_does (s : State) (h va pa : Nat) (l : L2Line) :
    let i := Instr.cboZero h va
    let c := s.chip.given h i
    s.chip.Free h → va < 2 ^ 64 → (c.hart h).priv = 3 → (c.hart h).csrBit csrMstatus 17 = false
    → c.translate h (BitVec.ofNat 64 (va / 64 * 64)) 64 2 = (c, .pa pa) → c.Owns h pa l →
    Gives i s ((((c.won h pa l).l2Store h (pa / 64 * 64) { l with st := .M } 64 0).leave h).finish h) := by
  intro i c hf hva hp hm ht hl
  have hperf : c.perform h i = c.cboZero h va := by
    change c.cbo h ((c.hart h).eaddr va) .zero = _
    rw [Hart.eaddr_of_m hp hm hva, Chip.cbo, Hart.cboGate_of_m hp]
  have hzero := Chip.cboZero_of_owns (hf.fresh i).2.1 ht hl
  exact gives_of_onChip rfl (by simp [hf.hart, vaOk_of_lt hva]) (Chip.issueInstr_retires hf rfl (hperf.trans hzero)
    (((hf.calm_given i).won pa l).l2Store _ _ _ _))

/-- Settles O9. -/
theorem fenceFetchCboPrefetch : Obligations.FenceFetchCboPrefetch := by
  unfold Obligations.FenceFetchCboPrefetch
  refine ⟨⟨fence_does, ?_, cboMgmt_does, cboZero_does⟩, ?_, ?_⟩
  · intro s h va pa l i c parcel lo hf hva hev ht hl
    exact ⟨fetch_narrow hf hva hev ht hl, fun l' => fetch_wide hf hva hev ht hl l'⟩
  · intro s h pa next hh hpa hnext hrun htr hpage hreg line
    have hok : (hartOk h && pa < 2 ^ 52 && next < 2 ^ 52) = true := by
      rw [hartOk_of_lt hh, decide_eq_true hpa, decide_eq_true hnext]; rfl
    refine ⟨fun hhit hwb => ?_, fun w hhit hw => ?_⟩
    · refine gives_of_onChip rfl hok ((Chip.prefetch_of_trained hrun htr hpage hreg).trans ?_)
      rw [hhit, if_neg (by simp), hwb, if_neg (by simp)]
    · refine gives_of_onChip rfl hok ((Chip.prefetch_of_trained hrun htr hpage hreg).trans ?_)
      rw [hhit, if_pos (by simpa using hw)]
  · intro s h pa next hh hpa hnext hpage
    have hok : (hartOk h && pa < 2 ^ 52 && next < 2 ^ 52) = true := by
      rw [hartOk_of_lt hh, decide_eq_true hpa, decide_eq_true hnext]; rfl
    exact gives_of_onChip rfl hok (Chip.prefetch_of_crossing s.chip hpage)

end Sys2Proof.Machine
end

section
/-! The accesses of a tile instruction whose lines the L2 holds, or owns (R114 to R116). -/

namespace Sys2Proof.Machine

-- the accesses of an instruction

theorem length_numberPieces (l : List (Nat × Nat)) : (numberPieces l).length = l.length := by simp [numberPieces]

/-- Accesses are numbered one after the other. -/
theorem numberPieces_keys (l : List (Nat × Nat)) : (numberPieces l).map Piece.k = List.range l.length := by
  simp only [numberPieces, List.map_map]
  exact List.map_snd_zip (by simp)

theorem numberPieces_nodup (l : List (Nat × Nat)) : ((numberPieces l).map Piece.k).Nodup := by
  rw [numberPieces_keys]; exact List.nodup_range

theorem key_lt_of_mem {l : List (Nat × Nat)} {p : Piece} (h : p ∈ numberPieces l) : p.k < l.length := by
  rw [← List.mem_range, ← numberPieces_keys]
  exact List.mem_map_of_mem h

theorem insertPiece_perm (p : Piece) (l : List Piece) : (insertPiece p l).Perm (p :: l) := by
  induction l with
  | nil => exact .refl _
  | cons q qs ih =>
    rw [insertPiece]
    split
    · exact .refl _
    · exact (ih.cons q).trans (.swap p q qs)

theorem sortPieces_perm (l : List Piece) : (sortPieces l).Perm l := by
  have h : ∀ (l acc : List Piece), (l.foldl (fun acc p => insertPiece p acc) acc).Perm (l ++ acc) := by
    intro l
    induction l with
    | nil => exact fun acc => .refl _
    | cons p ps ih => exact fun acc => (ih _).trans (((insertPiece_perm p acc).append_left ps).trans List.perm_middle)
  simpa [sortPieces] using h l []

theorem mem_sortPieces {l : List Piece} {p : Piece} : p ∈ sortPieces l ↔ p ∈ l := (sortPieces_perm l).mem_iff

theorem sortPieces_nodup {l : List Piece} (h : (l.map Piece.k).Nodup) : ((sortPieces l).map Piece.k).Nodup :=
  ((sortPieces_perm l).map Piece.k).nodup_iff.mpr h

/-- Among accesses numbered apart, the one with a number. -/
theorem find?_key {α : Type} {l : List Piece} (f : Piece → α) {p : Piece} (hp : p ∈ l) (hl : (l.map Piece.k).Nodup) :
    (l.map (fun q => (q, f q))).find? (fun e => e.1.k == p.k) = some (p, f p) := by
  induction l with
  | nil => simp at hp
  | cons q qs ih =>
    rw [List.map_cons, List.nodup_cons] at hl
    rw [List.map_cons, List.find?_cons]
    rcases List.mem_cons.mp hp with rfl | hq
    · simp
    · have hne : (q.k == p.k) = false := beq_false_of_ne (fun e => hl.1 (e ▸ List.mem_map_of_mem hq))
      rw [hne]
      exact ih hq hl.2

-- what an access has read

theorem Hart.gotAt_append (x : Hart) (k v j : Nat) :
    ({ x with got := x.got ++ [(k, v)] } : Hart).gotAt j = (x.gotAt j).or (if k = j then some v else none) := by
  simp only [Hart.gotAt, List.find?_append]
  by_cases h : k = j
  · cases hx : x.got.find? (fun e => e.1 == j) <;> simp [h]
  · cases hx : x.got.find? (fun e => e.1 == j) <;> simp [h]

theorem Chip.gotAt_noteGot (c : Chip) (h k v j : Nat) :
    ((c.noteGot h k v).hart h).gotAt j = ((c.hart h).gotAt j).or (if k = j then some v else none) := by
  rw [Chip.hart_noteGot, Hart.gotAt_append]

theorem Chip.gotAt_readHit (c : Chip) (h pa j : Nat) : ((c.readHit h pa).hart h).gotAt j = (c.hart h).gotAt j := by
  rw [Chip.readHit, Chip.hart_useL2, Chip.hart_hits]; rfl

theorem Chip.gotAt_won (c : Chip) (h pa j : Nat) (l : L2Line) : ((c.won h pa l).hart h).gotAt j = (c.hart h).gotAt j := by
  rw [Chip.hart_won]; rfl

-- the translations

theorem Chip.xlatAll_of_translated {c : Chip} {h acc : Nat} {pa : Nat → Nat} {l : List Piece}
    (ht : ∀ p ∈ l, c.translate h (BitVec.ofNat 64 p.va) p.n acc = (c, .pa (pa p.k))) :
    c.xlatAll h acc l = (c, .inl (some (l.map (fun p => (p, pa p.k))))) := by
  induction l with
  | nil => rfl
  | cons p ps ih =>
    rw [Chip.xlatAll, ht p (by simp)]
    simp only [ih (fun q hq => ht q (List.mem_cons_of_mem _ hq)), List.map_cons]

/-- The first time, the accesses are translated, lowest address first. -/
theorem Chip.xlatOnce_first {c : Chip} {h acc : Nat} {pa : Nat → Nat} {ps : List Piece} (hx : (c.hart h).xlat = [])
    (ht : c.Translated h acc ps pa) :
    c.xlatOnce h acc (sortPieces ps) = (c.afterXlat h ps pa, .inl (some ((sortPieces ps).map (fun p => (p, pa p.k))))) := by
  rw [Chip.xlatOnce, hx, Chip.xlatAll_of_translated (fun p hp => (ht p (mem_sortPieces.mp hp)).1)]
  simp only [List.map_map, Chip.afterXlat]
  rfl

theorem Chip.region_onHart (c : Chip) (h a : Nat) (f : Hart → Hart) : (c.onHart h f).region a = c.region a := rfl
theorem Chip.region_useL2 (c : Chip) (h line a : Nat) : (c.useL2 h line).region a = c.region a := rfl
theorem Chip.region_setL2 (c : Chip) (h line a : Nat) (l : L2Line) : (c.setL2 h line l).region a = c.region a := rfl

/-- A line is held as before where the hart and its L2 are, as far as that turns on them. -/
theorem Chip.Holds.of_same {c d : Chip} {h a : Nat} {l : L2Line} (hl : c.Holds h a l) (hreg : d.region a = c.region a)
    (hclear : (d.hart h).refusal = (c.hart h).refusal) (hw : (d.hart h).world = (c.hart h).world)
    (hline : d.l2at h (a / 64) = c.l2at h (a / 64)) : d.Holds h a l :=
  ⟨(congrArg Region.homed hreg).trans hl.homed, hclear.trans hl.clear, hline.trans hl.line, hl.valid, hl.world.trans hw.symm, hl.good⟩

-- reads

/-- A read access of a tile instruction is made: its line is used, and its bytes, those that the L2 of chip c holds, are noted. -/
def Chip.readStep (c : Chip) (h : Nat) (pa : Nat → Nat) (y : Chip) (p : Piece) : Chip :=
  (y.readHit h (pa p.k)).noteGot h p.k (Line.slice (c.l2at h (pa p.k / 64)).data (pa p.k % 64) p.n)

theorem Chip.afterReads_eq (c : Chip) (h : Nat) (ps : List Piece) (pa : Nat → Nat) :
    c.afterReads h ps pa = (sortPieces ps).foldl (c.readStep h pa) (c.afterXlat h ps pa) := rfl

section
variable {c y : Chip} {h : Nat} {pa : Nat → Nat} {p : Piece}

theorem Chip.region_readStep (a : Nat) : (c.readStep h pa y p).region a = y.region a := by
  rw [Chip.readStep, Chip.noteGot, Chip.region_onHart, Chip.readHit, Chip.region_useL2, Chip.hits, Chip.region_onHart]

theorem Chip.l2at_readStep (line : Nat) : (c.readStep h pa y p).l2at h line = y.l2at h line := by
  rw [Chip.readStep, Chip.noteGot, Chip.l2at_onHart, Chip.readHit, Chip.l2at_useL2, Chip.hits, Chip.l2at_onHart]

theorem Chip.hart_readStep : ((c.readStep h pa y p).hart h).refusal = (y.hart h).refusal ∧ ((c.readStep h pa y p).hart h).world = (y.hart h).world := by
  rw [Chip.readStep, Chip.hart_noteGot, Chip.readHit, Chip.hart_useL2, Chip.hart_hits]
  exact ⟨rfl, rfl⟩

theorem Chip.Holds.readStep {a : Nat} {l : L2Line} (hl : y.Holds h a l) (p : Piece) : (c.readStep h pa y p).Holds h a l :=
  hl.of_same (Chip.region_readStep a) Chip.hart_readStep.1 Chip.hart_readStep.2 (Chip.l2at_readStep (a / 64))

theorem Chip.awaits_readStep : ((c.readStep h pa y p).hart h).awaits = (y.hart h).awaits := by
  rw [Chip.readStep, Chip.awaits_noteGot, Chip.readHit, Chip.hart_useL2, Chip.hart_hits]

theorem Chip.gotAt_readStep (j : Nat) : ((c.readStep h pa y p).hart h).gotAt j
    = ((y.hart h).gotAt j).or (if p.k = j then some (Line.slice (c.l2at h (pa p.k / 64)).data (pa p.k % 64) p.n) else none) := by
  rw [Chip.readStep, Chip.gotAt_noteGot, Chip.gotAt_readHit]

theorem Chip.Calm.readStep (hy : y.Calm h) (p : Piece) : (c.readStep h pa y p).Calm h := (hy.readHit _).noteGot _ _

end

theorem Chip.readAll_of_holds {c : Chip} {h : Nat} {pa : Nat → Nat} (rk acc : Nat) (l : List Piece) (y : Chip)
    (hl : ∀ p ∈ l, y.Holds h (pa p.k) (c.l2at h (pa p.k / 64))) (ha : (y.hart h).awaits = []) (hn : (l.map Piece.k).Nodup)
    (hg : ∀ p ∈ l, (y.hart h).gotAt p.k = none) :
    y.readAll h 4 rk acc (l.map (fun p => (p, pa p.k))) true = (l.foldl (c.readStep h pa) y, .inl true) := by
  induction l generalizing y with
  | nil => rfl
  | cons p ps ih =>
    rw [List.map_cons, List.nodup_cons] at hn
    have hread := Chip.readMain_of_holds (hl p (by simp)) ha p.n 4 rk acc (BitVec.ofNat 64 p.va)
    have hwrong : (y.hart h).l1Wrong 4 (pa p.k / 64) = 0 := by simp [Hart.l1Wrong]
    have hxor : (c.l2at h (pa p.k / 64)).data ^^^ (0 : Line) = (c.l2at h (pa p.k / 64)).data := BitVec.xor_zero
    rw [List.map_cons, Chip.readAll, hg p (by simp), hread, hwrong, hxor]
    refine ih (c.readStep h pa y p) (fun q hq => (hl q (List.mem_cons_of_mem _ hq)).readStep p) (Chip.awaits_readStep.trans ha) hn.2
      (fun q hq => ?_)
    rw [Chip.gotAt_readStep, hg q (List.mem_cons_of_mem _ hq), if_neg (fun e : p.k = q.k => hn.1 (e ▸ List.mem_map_of_mem hq))]
    rfl

/-- After the reads each access has the bytes that the L2 holds. -/
theorem Chip.gotAt_reads {c : Chip} {h : Nat} {pa : Nat → Nat} (l : List Piece) (y : Chip) (hn : (l.map Piece.k).Nodup)
    (hg : ∀ p ∈ l, (y.hart h).gotAt p.k = none) {p : Piece} (hp : p ∈ l) :
    ((l.foldl (c.readStep h pa) y).hart h).gotAt p.k = some (Line.slice (c.l2at h (pa p.k / 64)).data (pa p.k % 64) p.n) := by
  have hkeep : ∀ (l : List Piece) (y : Chip) (j v : Nat), (y.hart h).gotAt j = some v → ((l.foldl (c.readStep h pa) y).hart h).gotAt j = some v := by
    intro l
    induction l with
    | nil => exact fun _ _ _ hv => hv
    | cons q qs ih => exact fun y j v hv => ih _ j v (by rw [Chip.gotAt_readStep, hv]; rfl)
  induction l generalizing y with
  | nil => simp at hp
  | cons q qs ih =>
    rw [List.map_cons, List.nodup_cons] at hn
    rw [List.foldl_cons]
    rcases List.mem_cons.mp hp with rfl | hq
    · exact hkeep qs _ p.k _ (by rw [Chip.gotAt_readStep, hg p (by simp), if_pos rfl]; rfl)
    · refine ih _ hn.2 (fun r hr => ?_) hq
      rw [Chip.gotAt_readStep, hg r (List.mem_cons_of_mem _ hr), if_neg (fun e : q.k = r.k => hn.1 (e ▸ List.mem_map_of_mem hr))]
      rfl

section
variable {c : Chip} {h : Nat} {pa : Nat → Nat} {ps : List Piece} (hx : (c.hart h).xlat = []) (hg : (c.hart h).got = [])
  (ha : (c.hart h).awaits = []) (hn : (ps.map Piece.k).Nodup)

theorem Chip.hart_afterXlat (c : Chip) (h : Nat) (ps : List Piece) (pa : Nat → Nat) :
    (c.afterXlat h ps pa).hart h = { c.hart h with xlat := (sortPieces ps).map (fun p => (p.k, pa p.k)) } := c.hart_onHart h _

include hg in
theorem Chip.gotAt_afterXlat (j : Nat) : ((c.afterXlat h ps pa).hart h).gotAt j = none := by
  rw [Chip.hart_afterXlat]
  simp [Hart.gotAt, hg]

theorem Chip.Holds.afterXlat {a : Nat} {l : L2Line} (hl : c.Holds h a l) : (c.afterXlat h ps pa).Holds h a l :=
  hl.of_same rfl (by rw [Chip.hart_afterXlat]) (by rw [Chip.hart_afterXlat]; rfl) rfl

include hg hn

include hx ha in
/-- The reads of a tile instruction, all of lines that the L2 holds, are made, and it goes on. -/
theorem Chip.tileRead_of_holds (ht : c.Translated h 1 ps pa) (hl : c.HoldsAll h ps pa) (k : Chip → Chip × Perf) :
    c.tileRead h ps k = k (c.afterReads h ps pa) := by
  have hreads := Chip.readAll_of_holds (c := c) (pa := pa) 3 1 (sortPieces ps) (c.afterXlat h ps pa)
    (fun p hp => (hl p (mem_sortPieces.mp hp)).afterXlat) (by rw [Chip.hart_afterXlat]; exact ha) (sortPieces_nodup hn)
    (fun p _ => Chip.gotAt_afterXlat hg p.k)
  rw [Chip.tileRead, Chip.xlatOnce_first hx ht]
  simp only [hreads, Chip.afterReads_eq]

theorem Chip.gotAt_afterReads {p : Piece} (hp : p ∈ ps) : ((c.afterReads h ps pa).hart h).gotAt p.k
    = some (Line.slice (c.l2at h (pa p.k / 64)).data (pa p.k % 64) p.n) :=
  Chip.gotAt_reads (sortPieces ps) _ (sortPieces_nodup hn) (fun p _ => Chip.gotAt_afterXlat hg p.k) (mem_sortPieces.mpr hp)

/-- The bytes of accesses among those made, in their order. -/
theorem Chip.gotBytes_afterReads {qs : List Piece} (hq : ∀ p ∈ qs, p ∈ ps) :
    ((c.afterReads h ps pa).hart h).gotBytes qs = c.bytesHeld h qs pa :=
  List.flatMap_congr (fun p hp => by rw [Chip.gotAt_afterReads hg hn (hq p hp)]; rfl)

end

theorem Chip.Calm.afterReads {c : Chip} {h : Nat} (hc : c.Calm h) (ps : List Piece) (pa : Nat → Nat) : (c.afterReads h ps pa).Calm h :=
  Chip.Calm.foldl (hc.onHart (f := fun x => { x with xlat := (sortPieces ps).map (fun p => (p.k, pa p.k)) }) (fun _ hx => hx) h)
    (fun _ p hd => Chip.Calm.readStep (c := c) (pa := pa) hd p) _

-- stores

/-- What an L2 owns for its hart's accesses it still owns. -/
structure Chip.KeepsOwned (y d : Chip) (h : Nat) : Prop where
  region : ∀ a, d.region a = y.region a
  clear : (d.hart h).refusal = (y.hart h).refusal
  world : (d.hart h).world = (y.hart h).world
  line : ∀ line, (y.l2at h line).st = .E ∨ (y.l2at h line).st = .M → (y.l2at h line).poison = false →
    ((d.l2at h line).st = .E ∨ (d.l2at h line).st = .M) ∧ (d.l2at h line).poison = false ∧ (d.l2at h line).world = (y.l2at h line).world

theorem Chip.KeepsOwned.trans {x y z : Chip} {h : Nat} (h1 : x.KeepsOwned y h) (h2 : y.KeepsOwned z h) : x.KeepsOwned z h := by
  refine ⟨fun a => (h2.region a).trans (h1.region a), h2.clear.trans h1.clear, h2.world.trans h1.world, fun line hst hp => ?_⟩
  obtain ⟨hst', hp', hw'⟩ := h1.line line hst hp
  obtain ⟨hst'', hp'', hw''⟩ := h2.line line hst' hp'
  exact ⟨hst'', hp'', hw''.trans hw'⟩

theorem Chip.KeepsOwned.owns {y d : Chip} {h a : Nat} (hk : y.KeepsOwned d h) (ho : y.Owns h a (y.l2at h (a / 64))) :
    d.Owns h a (d.l2at h (a / 64)) := by
  obtain ⟨hst, hp, hw⟩ := hk.line (a / 64) ho.owned ho.holds.good
  have hv : (d.l2at h (a / 64)).st ≠ .I := by rcases hst with e | e <;> simp [e]
  exact ⟨⟨(congrArg Region.homed (hk.region a)).trans ho.holds.homed, hk.clear.trans ho.holds.clear, rfl, hv,
    (hw.trans ho.holds.world).trans hk.world.symm, hp⟩, hst⟩

/-- A change of the hart that leaves its world and its refusal. -/
theorem Chip.keepsOwned_onHart (c : Chip) (h : Nat) {f : Hart → Hart} (hr : ∀ x : Hart, (f x).refusal = x.refusal)
    (hw : ∀ x : Hart, (f x).world = x.world) : c.KeepsOwned (c.onHart h f) h :=
  ⟨fun a => c.region_onHart h a f, by rw [Chip.hart_onHart, hr], by rw [Chip.hart_onHart, hw],
    fun line hst hp => by rw [Chip.l2at_onHart]; exact ⟨hst, hp, rfl⟩⟩

theorem l2Key_ne {h line line' : Nat} (hne : line' ≠ line) : l2Key h line' ≠ l2Key h line := by unfold l2Key; omega

theorem Chip.l2at_setL2_ne (c : Chip) {h line line' : Nat} (l : L2Line) (hne : line' ≠ line) : (c.setL2 h line l).l2at h line' = c.l2at h line' :=
  sget_sset_ne _ _ (l2Key_ne hne) _ _

/-- A line of the L2 is written, and stays its owner's. -/
theorem Chip.keepsOwned_setL2 (c : Chip) (h line : Nat) {l : L2Line} (hst : l.st = .M)
    (hp : (c.l2at h line).poison = false → l.poison = false) (hw : l.world = (c.l2at h line).world) :
    c.KeepsOwned (c.setL2 h line l) h := by
  refine ⟨fun a => c.region_setL2 h line a l, rfl, rfl, fun line' hst' hp' => ?_⟩
  rcases eq_or_ne line' line with rfl | hne
  · rw [Chip.l2at_setL2]
    exact ⟨.inr hst, hp hp', hw⟩
  · rw [Chip.l2at_setL2_ne _ _ hne]
    exact ⟨hst', hp', rfl⟩

theorem Chip.keepsOwned_noteGot (c : Chip) (h k v : Nat) : c.KeepsOwned (c.noteGot h k v) h :=
  c.keepsOwned_onHart h (fun _ => rfl) (fun _ => rfl)

theorem Chip.keepsOwned_won (c : Chip) (h a : Nat) : c.KeepsOwned (c.won h a (c.l2at h (a / 64))) h := by
  have h1 : c.KeepsOwned (c.hits h a) h := c.keepsOwned_onHart h (fun _ => rfl) (fun _ => rfl)
  have h2 : (c.hits h a).KeepsOwned ((c.hits h a).setL2 h (a / 64) { c.l2at h (a / 64) with st := .M }) h :=
    (c.hits h a).keepsOwned_setL2 h (a / 64) rfl (fun hp => hp) rfl
  obtain ⟨hr, hc, hw, hl⟩ := h1.trans h2
  exact ⟨hr, hc, hw, hl⟩

theorem Chip.l2at_won (c : Chip) (h a : Nat) (l : L2Line) : (c.won h a l).l2at h (a / 64) = { l with st := .M } := by
  rw [Chip.won, Chip.l2at_useL2, Chip.l2at_setL2]

/-- A line of the L2 as a store has written it, before L1D's copy is updated. -/
def Chip.l2Written (c : Chip) (h a : Nat) (l : L2Line) (n v : Nat) : Chip :=
  { c.setL2 h (a / 64) (l.write (a % 64) n v) with
    banks := wroteWord 4 h (a / 64 % 8) (l2Word (a / 64) l.way) (c.setL2 h (a / 64) (l.write (a % 64) n v)).banks }

theorem Chip.l2Store_eq (c : Chip) (h a : Nat) (l : L2Line) (n v : Nat) :
    c.l2Store h a l n v = (c.l2Written h a l n v).onHart h (fun x => x.l1Store (a / 64) (a % 64) n) := (rfl)

theorem Chip.keepsOwned_l2Store (c : Chip) (h a n v : Nat) : c.KeepsOwned (c.l2Store h a (c.l2at h (a / 64)) n v) h := by
  have h1 : c.KeepsOwned (c.setL2 h (a / 64) ((c.l2at h (a / 64)).write (a % 64) n v)) h :=
    c.keepsOwned_setL2 h (a / 64) rfl (fun hp => by simp [L2Line.write, hp]) rfl
  obtain ⟨hr, hc, hw, hl⟩ := h1
  have h2 : c.KeepsOwned (c.l2Written h a (c.l2at h (a / 64)) n v) h := ⟨hr, hc, hw, hl⟩
  rw [Chip.l2Store_eq]
  exact h2.trans (Chip.keepsOwned_onHart _ h (f := fun x => x.l1Store (a / 64) (a % 64) n) (fun _ => rfl) (fun _ => rfl))

-- a tile store finds its lines

/-- A line of a tile store is won, and marked so. -/
def Chip.probeStep (h : Nat) (pa : Nat → Nat) (y : Chip) (p : Piece) : Chip :=
  (y.won h (pa p.k) (y.l2at h (pa p.k / 64))).noteGot h (p.k + 2 ^ 20) 0

/-- A line leaves L1D. -/
def Hart.leavesL1d (x : Hart) (line : Nat) : Hart := { x with l1d := x.l1d.filter (fun e => e.1 != line) }

/-- A store access of a tile store to a line that the L2 has in M. -/
def Chip.tileStored (z : Chip) (h a n v : Nat) : Chip :=
  (z.l2Store h a (z.l2at h (a / 64)) n v).onHart h (fun x => x.leavesL1d (a / 64))

/-- A store access of a tile store is made. -/
def Chip.storeStep (h : Nat) (pa val : Nat → Nat) (y : Chip) (p : Piece) : Chip :=
  ((y.won h (pa p.k) (y.l2at h (pa p.k / 64))).tileStored h (pa p.k) p.n (val p.k)).noteGot h p.k 0

theorem Chip.afterProbes_eq (c : Chip) (h : Nat) (ps : List Piece) (pa : Nat → Nat) :
    c.afterProbes h ps pa = (sortPieces ps).foldl (Chip.probeStep h pa) (c.afterXlat h ps pa) := rfl

theorem Chip.afterStores_eq (c : Chip) (h : Nat) (ps : List Piece) (pa val : Nat → Nat) :
    c.afterStores h ps pa val = ps.foldl (Chip.storeStep h pa val) (c.afterProbes h ps pa) := (rfl)

theorem Chip.keepsOwned_probeStep (h : Nat) (pa : Nat → Nat) (y : Chip) (p : Piece) : y.KeepsOwned (Chip.probeStep h pa y p) h :=
  (y.keepsOwned_won h (pa p.k)).trans (Chip.keepsOwned_noteGot _ _ _ _)

theorem Chip.keepsOwned_tileStored (z : Chip) (h a n v : Nat) : z.KeepsOwned (z.tileStored h a n v) h :=
  (z.keepsOwned_l2Store h a n v).trans (Chip.keepsOwned_onHart _ h (f := fun x => x.leavesL1d (a / 64)) (fun _ => rfl) (fun _ => rfl))

theorem Chip.keepsOwned_storeStep (h : Nat) (pa val : Nat → Nat) (y : Chip) (p : Piece) : y.KeepsOwned (Chip.storeStep h pa val y p) h :=
  ((y.keepsOwned_won h (pa p.k)).trans (Chip.keepsOwned_tileStored _ _ _ _ _)).trans (Chip.keepsOwned_noteGot _ _ _ _)

/-- What the accesses of an instruction have found. -/
def Hart.found (x : Hart) : List (Nat × Nat) × List (Nat × Nat) × List Nat := (x.got, x.xlat, x.awaits)

theorem Chip.found_won (c : Chip) (h a : Nat) (l : L2Line) : ((c.won h a l).hart h).found = (c.hart h).found := by rw [Chip.hart_won]; rfl

theorem Chip.hart_l2Written (c : Chip) (h a : Nat) (l : L2Line) (n v : Nat) : (c.l2Written h a l n v).hart h = c.hart h := rfl

theorem Chip.found_tileStored (z : Chip) (h a n v : Nat) : ((z.tileStored h a n v).hart h).found = (z.hart h).found := by
  rw [Chip.tileStored, Chip.l2Store_eq, Chip.hart_onHart, Chip.hart_onHart, Chip.hart_l2Written]; rfl

theorem Chip.found_noteGot (c : Chip) (h k v : Nat) : ((c.noteGot h k v).hart h).found
    = ((c.hart h).got ++ [(k, v)], (c.hart h).xlat, (c.hart h).awaits) := by rw [Chip.hart_noteGot]; rfl

theorem Chip.found_probeStep (h : Nat) (pa : Nat → Nat) (y : Chip) (p : Piece) : ((Chip.probeStep h pa y p).hart h).found
    = ((y.hart h).got ++ [(p.k + 2 ^ 20, 0)], (y.hart h).xlat, (y.hart h).awaits) := by
  have hw := y.found_won h (pa p.k) (y.l2at h (pa p.k / 64))
  simp only [Hart.found, Prod.mk.injEq] at hw
  rw [Chip.probeStep, Chip.found_noteGot, hw.1, hw.2.1, hw.2.2]

theorem Chip.found_storeStep (h : Nat) (pa val : Nat → Nat) (y : Chip) (p : Piece) : ((Chip.storeStep h pa val y p).hart h).found
    = ((y.hart h).got ++ [(p.k, 0)], (y.hart h).xlat, (y.hart h).awaits) := by
  have hw := ((y.won h (pa p.k) (y.l2at h (pa p.k / 64))).found_tileStored h (pa p.k) p.n (val p.k)).trans (y.found_won h (pa p.k) _)
  simp only [Hart.found, Prod.mk.injEq] at hw
  rw [Chip.storeStep, Chip.found_noteGot, hw.1, hw.2.1, hw.2.2]

theorem Hart.gotAt_of_found {x y : Hart} {k v : Nat} {t : List (Nat × Nat)} {w : List Nat} (hf : y.found = (x.got ++ [(k, v)], t, w)) (j : Nat) :
    y.gotAt j = (x.gotAt j).or (if k = j then some v else none) := by
  rw [← x.gotAt_append k v j, Hart.gotAt, Hart.gotAt]
  rw [show y.got = x.got ++ [(k, v)] from congrArg Prod.fst hf]

theorem Hart.xlat_of_found {y : Hart} {g t : List (Nat × Nat)} {w : List Nat} (hf : y.found = (g, t, w)) : y.xlat = t := by
  simp only [Hart.found, Prod.mk.injEq] at hf
  exact hf.2.1

theorem Hart.awaits_of_found {y : Hart} {g t : List (Nat × Nat)} {w : List Nat} (hf : y.found = (g, t, w)) : y.awaits = w := by
  simp only [Hart.found, Prod.mk.injEq] at hf
  exact hf.2.2

theorem Chip.Calm.probeStep {y : Chip} {h : Nat} (hy : y.Calm h) (pa : Nat → Nat) (p : Piece) : (Chip.probeStep h pa y p).Calm h :=
  (hy.won _ _).noteGot _ _

theorem Chip.Calm.storeStep {y : Chip} {h : Nat} (hy : y.Calm h) (pa val : Nat → Nat) (p : Piece) : (Chip.storeStep h pa val y p).Calm h :=
  (((hy.won _ _).l2Store _ _ _ _).onHart (f := fun x => x.leavesL1d (pa p.k / 64)) (fun _ hx => hx) h).noteGot _ _

theorem Chip.probeAll_cons {h : Nat} {pa : Nat → Nat} {y : Chip} {p : Piece} (hp : y.Owns h (pa p.k) (y.l2at h (pa p.k / 64)))
    (ha : (y.hart h).awaits = []) (hg : (y.hart h).gotAt (p.k + 2 ^ 20) = none) (ps : List (Piece × Nat)) :
    y.probeAll h ((p, pa p.k) :: ps) = (Chip.probeStep h pa y p).probeAll h ps := by
  rw [Chip.probeAll, hg, Chip.reach_own hp ha, hp.holds.homed]
  simp only [Option.isSome_none, Bool.false_eq_true, Bool.not_true, if_false, Chip.probeStep]

/-- Every line is found in an L2 that owns it. -/
theorem Chip.probeAll_of_owns {h : Nat} {pa : Nat → Nat} (l : List Piece) (y : Chip)
    (hl : ∀ p ∈ l, y.Owns h (pa p.k) (y.l2at h (pa p.k / 64))) (ha : (y.hart h).awaits = []) (hn : (l.map Piece.k).Nodup)
    (hg : ∀ p ∈ l, (y.hart h).gotAt (p.k + 2 ^ 20) = none) :
    y.probeAll h (l.map (fun p => (p, pa p.k))) = (l.foldl (Chip.probeStep h pa) y, .inl true) := by
  induction l generalizing y with
  | nil => rfl
  | cons p ps ih =>
    rw [List.map_cons, List.nodup_cons] at hn
    have hfound := Chip.found_probeStep h pa y p
    have hl' : ∀ q ∈ ps, (Chip.probeStep h pa y p).Owns h (pa q.k) ((Chip.probeStep h pa y p).l2at h (pa q.k / 64)) :=
      fun q hq => (Chip.keepsOwned_probeStep h pa y p).owns (hl q (List.mem_cons_of_mem _ hq))
    have hg' : ∀ q ∈ ps, ((Chip.probeStep h pa y p).hart h).gotAt (q.k + 2 ^ 20) = none := fun q hq => by
      have hne : p.k + 2 ^ 20 ≠ q.k + 2 ^ 20 := fun e => hn.1 (by rw [Nat.add_right_cancel e]; exact List.mem_map_of_mem hq)
      rw [Hart.gotAt_of_found hfound, hg q (List.mem_cons_of_mem _ hq), if_neg hne]; rfl
    have ha' : ((Chip.probeStep h pa y p).hart h).awaits = [] := (Hart.awaits_of_found hfound).trans ha
    rw [List.map_cons, Chip.probeAll_cons (hl p (by simp)) ha (hg p (by simp)), ih _ hl' ha' hn.2 hg', List.foldl_cons]

theorem Chip.storeAll_cons {h code : Nat} {pa val : Nat → Nat} {y : Chip} {p : Piece} (hp : y.Owns h (pa p.k) (y.l2at h (pa p.k / 64)))
    (ha : (y.hart h).awaits = []) (hg : (y.hart h).gotAt p.k = none) (ps : List (Piece × Nat)) :
    y.storeAll h code true val ((p, pa p.k) :: ps) = (Chip.storeStep h pa val y p).storeAll h code true val ps := by
  rw [Chip.storeAll, hg, Chip.reach_own hp ha, hp.holds.homed]
  simp only [Option.isSome_none, Bool.false_eq_true, Bool.not_true, if_false, if_true, Chip.storeStep, Chip.tileStored, Chip.l2at_won,
    Hart.leavesL1d]

/-- Every store is made to a line that the L2 owns. -/
theorem Chip.storeAll_of_owns {h : Nat} {pa val : Nat → Nat} (code : Nat) (l : List Piece) (y : Chip)
    (hl : ∀ p ∈ l, y.Owns h (pa p.k) (y.l2at h (pa p.k / 64))) (ha : (y.hart h).awaits = []) (hn : (l.map Piece.k).Nodup)
    (hg : ∀ p ∈ l, (y.hart h).gotAt p.k = none) :
    y.storeAll h code true val (l.map (fun p => (p, pa p.k))) = (l.foldl (Chip.storeStep h pa val) y, .inl true) := by
  induction l generalizing y with
  | nil => rfl
  | cons p ps ih =>
    rw [List.map_cons, List.nodup_cons] at hn
    have hfound := Chip.found_storeStep h pa val y p
    have hl' : ∀ q ∈ ps, (Chip.storeStep h pa val y p).Owns h (pa q.k) ((Chip.storeStep h pa val y p).l2at h (pa q.k / 64)) :=
      fun q hq => (Chip.keepsOwned_storeStep h pa val y p).owns (hl q (List.mem_cons_of_mem _ hq))
    have hg' : ∀ q ∈ ps, ((Chip.storeStep h pa val y p).hart h).gotAt q.k = none := fun q hq => by
      have hne : p.k ≠ q.k := fun e => hn.1 (by rw [e]; exact List.mem_map_of_mem hq)
      rw [Hart.gotAt_of_found hfound, hg q (List.mem_cons_of_mem _ hq), if_neg hne]; rfl
    have ha' : ((Chip.storeStep h pa val y p).hart h).awaits = [] := (Hart.awaits_of_found hfound).trans ha
    rw [List.map_cons, Chip.storeAll_cons (hl p (by simp)) ha (hg p (by simp)), ih _ hl' ha' hn.2 hg', List.foldl_cons]

theorem Chip.Calm.afterProbes {c : Chip} {h : Nat} (hc : c.Calm h) (ps : List Piece) (pa : Nat → Nat) : (c.afterProbes h ps pa).Calm h :=
  Chip.Calm.foldl (hc.onHart (f := fun x => { x with xlat := (sortPieces ps).map (fun p => (p.k, pa p.k)) }) (fun _ hx => hx) h)
    (fun _ p hd => hd.probeStep pa p) _

theorem Chip.Calm.afterStores {c : Chip} {h : Nat} (hc : c.Calm h) (ps : List Piece) (pa val : Nat → Nat) : (c.afterStores h ps pa val).Calm h := by
  rw [Chip.afterStores_eq]
  exact Chip.Calm.foldl (hc.afterProbes ps pa) (fun _ p hd => hd.storeStep pa val p) ps

/-- The translations are kept, nothing is awaited, and no store below a mark is noted as made. -/
structure Chip.KeepsFound (y z : Chip) (h : Nat) : Prop where
  xlat : (z.hart h).xlat = (y.hart h).xlat
  awaits : (z.hart h).awaits = (y.hart h).awaits
  got : ∀ j, j < 2 ^ 20 → (z.hart h).gotAt j = (y.hart h).gotAt j

theorem Chip.keepsFound_probeStep (h : Nat) (pa : Nat → Nat) (y : Chip) (p : Piece) : y.KeepsFound (Chip.probeStep h pa y p) h := by
  have hfound := Chip.found_probeStep h pa y p
  refine ⟨Hart.xlat_of_found hfound, Hart.awaits_of_found hfound, fun j hj => ?_⟩
  have hne : p.k + 2 ^ 20 ≠ j := by omega
  rw [Hart.gotAt_of_found hfound, if_neg hne, Option.or_none]

theorem Chip.KeepsFound.trans {x y z : Chip} {h : Nat} (h1 : x.KeepsFound y h) (h2 : y.KeepsFound z h) : x.KeepsFound z h :=
  ⟨h2.xlat.trans h1.xlat, h2.awaits.trans h1.awaits, fun j hj => (h2.got j hj).trans (h1.got j hj)⟩

theorem Chip.keepsFound_probes {h : Nat} {pa : Nat → Nat} (l : List Piece) (y : Chip) : y.KeepsFound (l.foldl (Chip.probeStep h pa) y) h :=
  foldl_keeps (P := fun z : Chip => y.KeepsFound z h) (fun z p hz => hz.trans (Chip.keepsFound_probeStep h pa z p)) l ⟨rfl, rfl, fun _ _ => rfl⟩

theorem Chip.keepsOwned_probes {h : Nat} {pa : Nat → Nat} (l : List Piece) (y : Chip) : y.KeepsOwned (l.foldl (Chip.probeStep h pa) y) h :=
  foldl_keeps (P := fun z : Chip => y.KeepsOwned z h) (fun z p hz => hz.trans (Chip.keepsOwned_probeStep h pa z p)) l
    ⟨fun _ => rfl, rfl, rfl, fun _ hst hp => ⟨hst, hp, rfl⟩⟩

/-- A retry finds the translations it kept. -/
theorem Chip.xlatOnce_again {c : Chip} {h acc : Nat} {pa : Nat → Nat} {ps : List Piece} (hne : ps ≠ [])
    (hx : (c.hart h).xlat = (sortPieces ps).map (fun p => (p.k, pa p.k))) :
    c.xlatOnce h acc (sortPieces ps) = (c, .inl (some ((sortPieces ps).map (fun p => (p, pa p.k))))) := by
  have hfind : ∀ (l : List Piece) p, p ∈ l → (l.map (fun p => (p.k, pa p.k))).find? (fun e => e.1 == p.k) = some (p.k, pa p.k) := by
    intro l p hp
    induction l with
    | nil => simp at hp
    | cons q qs ih =>
      rw [List.map_cons, List.find?_cons]
      by_cases he : q.k = p.k
      · simp [he]
      · have hq : p ∈ qs := (List.mem_cons.mp hp).resolve_left (fun e => he (by rw [e]))
        rw [show (q.k == p.k) = false from beq_false_of_ne he]
        exact ih hq
  have hmap : ∀ l : List Piece, (∀ p ∈ l, p ∈ sortPieces ps) →
      l.filterMap (fun p => (((sortPieces ps).map (fun p => (p.k, pa p.k))).find? (fun e => e.1 == p.k)).map (fun e => (p, e.2)))
        = l.map (fun p => (p, pa p.k)) := by
    intro l hl
    induction l with
    | nil => rfl
    | cons q qs ih =>
      rw [List.filterMap_cons, hfind _ q (hl q (by simp)), Option.map_some, List.map_cons, ← ih (fun p hp => hl p (List.mem_cons_of_mem _ hp))]
  rw [Chip.xlatOnce, hx]
  split
  · next hnil =>
    have hlen := congrArg List.length hnil
    rw [List.length_map, (sortPieces_perm ps).length_eq, List.length_nil, List.length_eq_zero_iff] at hlen
    exact absurd hlen hne
  · rw [hmap _ (fun _ hp => hp)]

section
variable {c : Chip} {h : Nat} {pa : Nat → Nat} {ps : List Piece} (hx : (c.hart h).xlat = []) (hg : (c.hart h).got = [])
  (ha : (c.hart h).awaits = []) (hn : (ps.map Piece.k).Nodup)

theorem Chip.keepsOwned_afterXlat : c.KeepsOwned (c.afterXlat h ps pa) h :=
  c.keepsOwned_onHart h (f := fun x => { x with xlat := (sortPieces ps).map (fun p => (p.k, pa p.k)) }) (fun _ => rfl) (fun _ => rfl)

include hg ha hn

include hx in
/-- A tile store finds its lines, all owned by the L2, and goes on. -/
theorem Chip.tileFind_of_owns (ht : c.Translated h 2 ps pa) (hl : c.OwnsAll h ps pa) (k : Chip → Chip × Perf) :
    c.tileFind h ps k = k (c.afterProbes h ps pa) := by
  have hprobes := Chip.probeAll_of_owns (pa := pa) (sortPieces ps) (c.afterXlat h ps pa)
    (fun p hp => Chip.keepsOwned_afterXlat.owns (hl p (mem_sortPieces.mp hp))) (by rw [Chip.hart_afterXlat]; exact ha) (sortPieces_nodup hn)
    (fun p _ => Chip.gotAt_afterXlat hg _)
  rw [Chip.tileFind, Chip.xlatOnce_first hx ht]
  simp only [hprobes, Chip.afterProbes_eq]

/-- The stores of a tile instruction that has found its lines are made, in their order, and it goes on. -/
theorem Chip.tileWrite_of_owns (hk : ∀ p ∈ ps, p.k < 2 ^ 20) (hne : ps ≠ []) (hl : c.OwnsAll h ps pa) (val : Nat → Nat) (k : Chip → Chip × Perf) :
    (c.afterProbes h ps pa).tileWrite h ps val k = k (c.afterStores h ps pa val) := by
  have hown : c.KeepsOwned (c.afterProbes h ps pa) h := Chip.keepsOwned_afterXlat.trans (Chip.keepsOwned_probes _ _)
  have hfound : (c.afterXlat h ps pa).KeepsFound (c.afterProbes h ps pa) h := Chip.keepsFound_probes _ _
  have hxlat : ((c.afterProbes h ps pa).hart h).xlat = (sortPieces ps).map (fun p => (p.k, pa p.k)) := by
    rw [hfound.xlat, Chip.hart_afterXlat]
  have hawaits : ((c.afterProbes h ps pa).hart h).awaits = [] := by rw [hfound.awaits, Chip.hart_afterXlat]; exact ha
  have hordered : ps.filterMap (fun p => ((sortPieces ps).map (fun p => (p, pa p.k))).find? (fun e => e.1.k == p.k))
      = ps.map (fun p => (p, pa p.k)) := by
    have hsub : ∀ l : List Piece, (∀ p ∈ l, p ∈ ps) →
        l.filterMap (fun p => ((sortPieces ps).map (fun p => (p, pa p.k))).find? (fun e => e.1.k == p.k)) = l.map (fun p => (p, pa p.k)) := by
      intro l hl
      induction l with
      | nil => rfl
      | cons q qs ih =>
        rw [List.filterMap_cons, find?_key (fun p => pa p.k) (mem_sortPieces.mpr (hl q (by simp))) (sortPieces_nodup hn), List.map_cons,
          ← ih (fun p hp => hl p (List.mem_cons_of_mem _ hp))]
    exact hsub ps (fun _ hp => hp)
  have hstores := Chip.storeAll_of_owns (pa := pa) (val := val) 5 ps (c.afterProbes h ps pa) (fun p hp => hown.owns (hl p hp)) hawaits hn
    (fun p hp => (hfound.got p.k (hk p hp)).trans (Chip.gotAt_afterXlat hg p.k))
  rw [Chip.tileWrite, Chip.xlatOnce_again hne hxlat]
  simp only [hordered, hstores, Chip.afterStores_eq]

end

end Sys2Proof.Machine
end

section
/-! Tile loads, stores, saves and restores of lines that the L2 holds (R112, R113, R120, R121). -/

namespace Sys2Proof.Machine

-- how many accesses there are

theorem lineList_keys {va n : Nat} {p : Piece} (hp : p ∈ lineList va n) : p.k < n / 64 := by
  have h := key_lt_of_mem hp
  rwa [List.length_map, List.length_range] at h

theorem lineList_nodup (va n : Nat) : ((lineList va n).map Piece.k).Nodup := numberPieces_nodup _

theorem lineList_ne_nil {va n : Nat} (hn : 64 ≤ n) : lineList va n ≠ [] := by
  intro h
  have hlen := congrArg List.length h
  rw [lineList, length_numberPieces, List.length_map, List.length_range, List.length_nil] at hlen
  omega

/-- A row is at most 48 bytes: it touches one line, or two. -/
theorem length_linePieces {a n : Nat} (hn : n ≤ 48) : (linePieces a n).length ≤ 2 := by
  rw [linePieces, List.length_map, linesOf, List.length_map, List.length_range]
  omega

theorem linePieces_ne_nil (a n : Nat) : linePieces a n ≠ [] := by
  intro h
  have hlen := congrArg List.length h
  rw [linePieces, List.length_map, linesOf, List.length_map, List.length_range, List.length_nil] at hlen
  omega

theorem length_rowPieces (cfg : Nat) (ea : Word → Word) (base stride : Word) : (rowPieces cfg ea base stride).length ≤ 64 := by
  rw [rowPieces, List.length_flatMap]
  have hcols : (cfgCols cfg + 1) / 2 * 3 ≤ 48 := by unfold cfgCols; omega
  have hrows : cfgRows cfg ≤ 32 := by unfold cfgRows; omega
  have hsum := List.sum_le_card_nsmul ((List.range (cfgRows cfg)).map (fun i =>
    ((linePieces ((ea (base + BitVec.ofNat 64 i * stride)).toNat) ((cfgCols cfg + 1) / 2 * 3)).map (fun e => (i, e.1, e.2))).length)) 2
    (fun x hx => by
      obtain ⟨i, -, rfl⟩ := List.mem_map.mp hx
      rw [List.length_map]
      exact length_linePieces hcols)
  rw [List.length_map, List.length_range, smul_eq_mul] at hsum
  omega

theorem rowPieces_ne_nil (cfg : Nat) (ea : Word → Word) (base stride : Word) : rowPieces cfg ea base stride ≠ [] := by
  intro h
  have h0 : 0 ∈ List.range (cfgRows cfg) := List.mem_range.mpr (by unfold cfgRows; omega)
  have hnil := List.flatMap_eq_nil_iff.mp h 0 h0
  exact linePieces_ne_nil _ _ (List.map_eq_nil_iff.mp hnil)

/-- The accesses of the rows of a tile register. -/
theorem rows_keys {rows : List (Nat × Nat × Nat)} (hl : rows.length ≤ 64) {p : Piece}
    (hp : p ∈ numberPieces (rows.map (fun e => (e.2.1, e.2.2)))) : p.k < 2 ^ 20 := by
  have h := key_lt_of_mem hp
  rw [List.length_map] at h
  omega

theorem rows_ne_nil {rows : List (Nat × Nat × Nat)} (hl : rows ≠ []) : numberPieces (rows.map (fun e => (e.2.1, e.2.2))) ≠ [] := by
  intro h
  have hlen := congrArg List.length h
  rw [length_numberPieces, List.length_map, List.length_nil, List.length_eq_zero_iff] at hlen
  exact hl hlen

-- an instruction at a hart whose tile unit has room

theorem Chip.TileFree.room_given_save {c : Chip} {h r1 : Nat} (hf : c.TileFree h) (hs : (c.hart h).tsent = []) :
    let x := (c.given h (.tsave h r1)).hart h
    ¬(isTile (.tsave h r1) ∧ (8 ≤ x.tsent.length ∨ x.younger ≠ 0 ∨ (isSave (.tsave h r1) ∧ x.tsent ≠ []))) := by
  intro x
  have ht : x.tsent = [] := by rw [show x = _ from Chip.hart_given _ _ _]; exact hs
  have hy : x.younger = 0 := by rw [show x = _ from Chip.hart_given _ _ _]; exact hf.older
  rw [ht, hy]
  simp

section
variable {c : Chip} {h acc t r1 r2 : Nat} {legal : Bool} (hon : (c.hart h).tileOn = true) (hl : legal = true)
include hon

theorem Chip.tileGate_tload (ha : ((c.hart h).xr r1).toNat % 64 = 0) : c.tileGate h (.tload h t r1 r2) true acc true = none := by
  simp [Chip.tileGate, hon, ha]
theorem Chip.tileGate_tsave (ha : ((c.hart h).xr r1).toNat % 64 = 0) : c.tileGate h (.tsave h r1) true acc true = none := by
  simp [Chip.tileGate, hon, ha]
theorem Chip.tileGate_trestore (ha : ((c.hart h).xr r1).toNat % 64 = 0) : c.tileGate h (.trestore h r1) true acc true = none := by
  simp [Chip.tileGate, hon, ha]
include hl
theorem Chip.tileGate_tstore (ha : ((c.hart h).xr r1).toNat % 64 = 0) : c.tileGate h (.tstore h t r1 r2) true acc legal = none := by
  simp [Chip.tileGate, hon, ha, hl]
theorem Chip.tileGate_tloadu : c.tileGate h (.tloadu h t r1 r2) false acc legal = none := by simp [Chip.tileGate, hon, hl]
theorem Chip.tileGate_tstoreu : c.tileGate h (.tstoreu h t r1 r2) false acc legal = none := by simp [Chip.tileGate, hon, hl]

end

-- reads

theorem kinds_of_cons (t k : Nat) (ks : List Nat) (g : Nat → TFail) (hg : ∀ k, g k = { kind := k, reg := t }) :
    [g k] ++ (ks.map g).map (fun f => { f with kind := 9 }) = g k :: ks.map (fun _ => { kind := 9, reg := t }) := by
  rw [List.map_map, List.singleton_append]
  exact congrArg _ (List.map_congr_left (fun j _ => by rw [Function.comp_apply, hg]))

section
variable {c : Chip} {h : Nat} {pa : Nat → Nat} (hon : (c.hart h).tileOn = true) (hx : (c.hart h).xlat = []) (hg : (c.hart h).got = [])
  (ha : (c.hart h).awaits = [])
include hon hx hg ha

section
variable {t r1 r2 : Nat} {ps : List Piece} (hps : lineList ((c.hart h).pointer ((c.hart h).xr r1)).toNat 1600 = ps)
  (hal : ((c.hart h).xr r1).toNat % 64 = 0) (ht : c.Translated h 1 ps pa) (hl : c.HoldsAll h ps pa)
include hps hal ht hl

/-- TLOAD with a record whose checks pass. -/
theorem Chip.tload_passes (hf : recFails (c.bytesHeld h ps pa) ((c.hart h).xr r2).toNat = []) :
    let b := c.bytesHeld h ps pa
    let c' := c.afterReads h ps pa
    c.tload h t r1 r2 = ((c'.setHart h (((c'.hart h).putTile t (mkTile (recCfg b) (recEl b)) false).dirtyXs)).tileSent h 0, .done) := by
  have hn : (ps.map Piece.k).Nodup := hps ▸ lineList_nodup _ _
  rw [Chip.tload, Chip.tileGate_tload hon hal]
  dsimp only
  rw [hps, Chip.tileRead_of_holds hx hg ha hn ht hl, Chip.gotBytes_afterReads hg hn (fun _ hp => hp), hf]
  rfl

/-- TLOAD with a record of which a check fails. -/
theorem Chip.tload_fails {k : Nat} {ks : List Nat} (hf : recFails (c.bytesHeld h ps pa) ((c.hart h).xr r2).toNat = k :: ks) :
    c.tload h t r1 r2 = ((c.afterReads h ps pa).tileFail h ({ kind := k, reg := t } :: ks.map (fun _ => { kind := 9, reg := t })) []
      ((c.hart h).xr r1), .ended) := by
  have hn : (ps.map Piece.k).Nodup := hps ▸ lineList_nodup _ _
  rw [Chip.tload, Chip.tileGate_tload hon hal]
  dsimp only
  rw [hps, Chip.tileRead_of_holds hx hg ha hn ht hl, Chip.gotBytes_afterReads hg hn (fun _ hp => hp), hf, List.map_cons]
  dsimp only
  rw [kinds_of_cons t k ks _ (fun _ => rfl), Chip.tileStop]

end

section
variable {r1 : Nat} {ps : List Piece} (hps : lineList ((c.hart h).pointer ((c.hart h).xr r1)).toNat 28736 = ps)
  (hal : ((c.hart h).xr r1).toNat % 64 = 0) (ht : c.Translated h 1 ps pa) (hl : c.HoldsAll h ps pa)
include hps hal ht hl

/-- TRESTORE of a save area whose checks pass. -/
theorem Chip.trestore_passes (hf : saveFails (c.bytesHeld h ps pa) = []) :
    let c' := c.afterReads h ps pa
    c.trestore h r1 = ((c'.setHart h ((c'.hart h).restore (c.bytesHeld h ps pa))).tileSent h 0, .done) := by
  have hn : (ps.map Piece.k).Nodup := hps ▸ lineList_nodup _ _
  rw [Chip.trestore, Chip.tileGate_trestore hon hal]
  dsimp only
  rw [hps, Chip.tileRead_of_holds hx hg ha hn ht hl, Chip.gotBytes_afterReads hg hn (fun _ hp => hp), hf]

/-- TRESTORE of a save area of which a check fails. -/
theorem Chip.trestore_fails {k : Nat} {ks : List Nat} (hf : saveFails (c.bytesHeld h ps pa) = k :: ks) :
    c.trestore h r1 = ((c.afterReads h ps pa).tileFail h ({ kind := k, reg := 0 } :: ks.map (fun _ => { kind := 9, reg := 0 })) []
      ((c.hart h).xr r1), .ended) := by
  have hn : (ps.map Piece.k).Nodup := hps ▸ lineList_nodup _ _
  rw [Chip.trestore, Chip.tileGate_trestore hon hal]
  dsimp only
  rw [hps, Chip.tileRead_of_holds hx hg ha hn ht hl, Chip.gotBytes_afterReads hg hn (fun _ hp => hp), hf]
  rfl

end

/-- TLOADU reads its rows. -/
theorem Chip.tloadu_reads {t r1 r2 : Nat} {rows : List (Nat × Nat × Nat)} {ps : List Piece}
    (hrows : rowPieces ((c.hart h).tileAt t).word (c.hart h).pointer ((c.hart h).xr r1) ((c.hart h).xr r2) = rows)
    (hps : numberPieces (rows.map (fun e => (e.2.1, e.2.2))) = ps) (hk : cfgKind ((c.hart h).tileAt t).word ≠ 0)
    (hgd : (c.hart h).guarded = false) (ht : c.Translated h 1 ps pa) (hl : c.HoldsAll h ps pa) :
    let row := fun (n : Nat) => c.bytesHeld h (ps.filter (fun p => (rows.getD p.k (0, 0, 0)).1 == n)) pa
    let c' := c.afterReads h ps pa
    c.tloadu h t r1 r2 = ((c'.setHart h (((c'.hart h).putTile t
      (mkTile ((c.hart h).tileAt t).word (fun n j => unpackEl (row n) j)) true).dirtyXs)).tileSent h 0, .done) := by
  have hn : (ps.map Piece.k).Nodup := hps ▸ numberPieces_nodup _
  have hrow : ∀ n, (ps.filter (fun p => (rows.getD p.k (0, 0, 0)).1 == n)).flatMap (fun p =>
      toBytes p.n ((((c.afterReads h ps pa).hart h).gotAt p.k).getD 0))
        = c.bytesHeld h (ps.filter (fun p => (rows.getD p.k (0, 0, 0)).1 == n)) pa :=
    fun n => Chip.gotBytes_afterReads hg hn (fun p hp => (List.mem_filter.mp hp).1)
  rw [Chip.tloadu, Chip.tileGate_tloadu hon (by simp [hk, hgd])]
  dsimp only
  rw [hrows, hps, Chip.tileRead_of_holds hx hg ha hn ht hl]
  simp only [hrow]

-- stores

section
variable {ps : List Piece} (ht : c.Translated h 2 ps pa) (hl : c.OwnsAll h ps pa)
include ht hl

/-- TSTORE of a register whose checks pass. -/
theorem Chip.tstore_stores {t r1 r2 : Nat} (hps : lineList ((c.hart h).pointer ((c.hart h).xr r1)).toNat 1600 = ps)
    (hal : ((c.hart h).xr r1).toNat % 64 = 0) (hk : cfgKind ((c.hart h).tileAt t).word ≠ 0)
    (hu : ((c.hart h).guarded && (c.hart h).ung t) = false) (hc : ((c.hart h).tileAt t).check t 4 false = none) :
    let b := mkRecord ((c.hart h).tileAt t).word ((c.hart h).xr r2).toNat (elAt ((c.hart h).tileAt t).el)
    c.tstore h t r1 r2 = ((c.afterStores h ps pa (fun k => ofBytes ((b.drop (64 * k)).take 64))).tileSent h 0, .done) := by
  intro b
  have hn : (ps.map Piece.k).Nodup := hps ▸ lineList_nodup _ _
  have hkeys : ∀ p ∈ ps, p.k < 2 ^ 20 := fun p hp => by
    have hlt := lineList_keys (hps ▸ hp : p ∈ lineList _ 1600)
    omega
  have hne : ps ≠ [] := hps ▸ lineList_ne_nil (by decide)
  rw [Chip.tstore, Chip.tileGate_tstore hon (by simp [hk, hu]) hal]
  dsimp only
  rw [hps, Chip.tileFind_of_owns hx hg ha hn ht hl, hc]
  dsimp only
  rw [Chip.tileWrite_of_owns hg ha hn hkeys hne hl]

/-- TSAVE of registers whose checks pass. -/
theorem Chip.tsave_stores {r1 : Nat} (hps : lineList ((c.hart h).pointer ((c.hart h).xr r1)).toNat 28736 = ps)
    (hal : ((c.hart h).xr r1).toNat % 64 = 0) (ht8 : ∀ t, t < 8 → ((c.hart h).tileAt t).check t 4 true = none)
    (ha4 : ∀ a, a < 4 → ((c.hart h).accAt a).check (8 + a) 4 = none) :
    c.tsave h r1 = ((c.afterStores h ps pa (fun k => ofBytes (((c.hart h).saveArea.drop (64 * k)).take 64))).tileSent h 0, .done) := by
  have hn : (ps.map Piece.k).Nodup := hps ▸ lineList_nodup _ _
  have hkeys : ∀ p ∈ ps, p.k < 2 ^ 20 := fun p hp => by
    have hlt := lineList_keys (hps ▸ hp : p ∈ lineList _ 28736)
    omega
  have hne : ps ≠ [] := hps ▸ lineList_ne_nil (by decide)
  have hnone : (List.range 8).filterMap (fun t => ((c.hart h).tileAt t).check t 4 true)
      ++ (List.range 4).filterMap (fun a => ((c.hart h).accAt a).check (8 + a) 4) = [] := by
    rw [List.filterMap_eq_nil_iff.mpr (fun t ht => ht8 t (List.mem_range.mp ht)),
      List.filterMap_eq_nil_iff.mpr (fun a ha => ha4 a (List.mem_range.mp ha))]
    rfl
  rw [Chip.tsave, Chip.tileGate_tsave hon hal]
  dsimp only
  rw [hps, Chip.tileFind_of_owns hx hg ha hn ht hl, hnone, if_neg (by simp), Chip.tileWrite_of_owns hg ha hn hkeys hne hl]

/-- TSTOREU of a register whose checks pass. -/
theorem Chip.tstoreu_stores {t r1 r2 : Nat} {rows : List (Nat × Nat × Nat)}
    (hrows : rowPieces ((c.hart h).tileAt t).word (c.hart h).pointer ((c.hart h).xr r1) ((c.hart h).xr r2) = rows)
    (hps : numberPieces (rows.map (fun e => (e.2.1, e.2.2))) = ps) (hk : cfgKind ((c.hart h).tileAt t).word ≠ 0)
    (hu : ((c.hart h).guarded && (c.hart h).ung t) = false) (hc : ((c.hart h).tileAt t).check t 4 false = none) :
    let T := (c.hart h).tileAt t
    c.tstoreu h t r1 r2 = ((c.afterStores h ps pa (fun k =>
      ofBytes ((rowBytes T.word T.el (rows.getD k (0, 0, 0)).1).drop (rowOffset rows k)))).tileSent h 0, .done) := by
  intro T
  have hn : (ps.map Piece.k).Nodup := hps ▸ numberPieces_nodup _
  have hkeys : ∀ p ∈ ps, p.k < 2 ^ 20 := fun p hp => rows_keys (hrows ▸ length_rowPieces _ _ _ _) (hps ▸ hp)
  have hne : ps ≠ [] := hps ▸ rows_ne_nil (hrows ▸ rowPieces_ne_nil _ _ _ _)
  rw [Chip.tstoreu, Chip.tileGate_tstoreu hon (by simp [hk, hu])]
  dsimp only
  rw [hrows, hps, Chip.tileFind_of_owns hx hg ha hn ht hl, hc]
  dsimp only
  rw [Chip.tileWrite_of_owns hg ha hn hkeys hne hl]

end

end

/-- What a hart of which nothing is under way has found. -/
theorem Chip.TileFree.given {c : Chip} {h : Nat} (hf : c.TileFree h) (i : Instr) :
    ((c.given h i).hart h).xlat = [] ∧ ((c.given h i).hart h).got = [] ∧ ((c.given h i).hart h).awaits = [] := by
  rw [Chip.hart_given]
  exact ⟨hf.free.xlat, hf.free.got, hf.free.awaits⟩

theorem Hart.Calm.restore {x : Hart} (hx : x.Calm) (b : List Byte) : (x.restore b).Calm := by
  refine Hart.Calm.dirtyXs (forUpTo_inv Hart.Calm 4 _ _ (forUpTo_inv Hart.Calm 8 _ _ hx ?_) ?_)
  · exact fun t y hy => hy.putTile t _ _
  · exact fun a y hy => (hy.putAcc a _).putSuspect a _

/-- Settles O24: the accesses of the instruction are served by the L2 in their order, and the unit completes it or its checks trap. -/
theorem tileLoadsStores : Obligations.TileLoadsStores := by
  unfold Obligations.TileLoadsStores
  refine ⟨⟨?_, ?_, ?_⟩, ?_, ?_, ?_⟩
  · intro s h t r1 r2 pa hf ht hr1 hr2 i c x ps b c' hal htr hl
    obtain ⟨hx, hg, ha⟩ := hf.given i
    have hon := hf.on_given i
    have hok : (hartOk h && tOk t && regOk r1 && regOk r2) = true := by simp [hf.free.hart, ht, hr1, hr2]
    have hret : retiresNow i = false := retiresNow_of_tileBits (encR_ne_zero _ _ _ _ _ (by decide))
    have hperf : c.perform h i = c.tload h t r1 r2 := if_neg (hf.room_given rfl)
    have hcalm : c'.Calm h := (hf.free.calm_given i).afterReads ps pa
    constructor
    · intro hfails
      exact gives_of_onChip rfl hok (Chip.issueInstr_leaves hf.free hret (hperf.trans (Chip.tload_passes hon hx hg ha rfl hal htr hl hfails))
        ((Chip.Calm.setHart (Hart.Calm.dirtyXs (Hart.Calm.putTile hcalm _ _ _))).tileSent h 0))
    · intro k ks hfails
      exact gives_of_onChip rfl hok (Chip.issueInstr_of_ended hf.free (hperf.trans (Chip.tload_fails hon hx hg ha rfl hal htr hl hfails))
        (hcalm.tileFail _ _ _))
  · intro s h r1 pa hf hr1 i c x ps b c' hal htr hl
    obtain ⟨hx, hg, ha⟩ := hf.given i
    have hon := hf.on_given i
    have hok : (hartOk h && regOk r1) = true := by simp [hf.free.hart, hr1]
    have hret : retiresNow i = false := retiresNow_of_tileBits (encR_ne_zero _ _ _ _ _ (by decide))
    have hperf : c.perform h i = c.trestore h r1 := if_neg (hf.room_given rfl)
    have hcalm : c'.Calm h := (hf.free.calm_given i).afterReads ps pa
    constructor
    · intro hfails
      exact gives_of_onChip rfl hok (Chip.issueInstr_leaves hf.free hret (hperf.trans (Chip.trestore_passes hon hx hg ha rfl hal htr hl hfails))
        ((Chip.Calm.setHart (Hart.Calm.restore hcalm _)).tileSent h 0))
    · intro k ks hfails
      exact gives_of_onChip rfl hok (Chip.issueInstr_of_ended hf.free (hperf.trans (Chip.trestore_fails hon hx hg ha rfl hal htr hl hfails))
        (hcalm.tileFail _ _ _))
  · intro s h t r1 r2 pa hf ht hr1 hr2 i c x cfg rows ps row c' hk hgd htr hl
    obtain ⟨hx, hg, ha⟩ := hf.given i
    have hok : (hartOk h && tOk t && regOk r1 && regOk r2) = true := by simp [hf.free.hart, ht, hr1, hr2]
    have hret : retiresNow i = false := retiresNow_of_tileBits (encR_ne_zero _ _ _ _ _ (by decide))
    have hperf : c.perform h i = c.tloadu h t r1 r2 := if_neg (hf.room_given rfl)
    have hcalm : c'.Calm h := (hf.free.calm_given i).afterReads ps pa
    exact gives_of_onChip rfl hok (Chip.issueInstr_leaves hf.free hret
      (hperf.trans (Chip.tloadu_reads (hf.on_given i) hx hg ha rfl rfl hk hgd htr hl))
      ((Chip.Calm.setHart (Hart.Calm.dirtyXs (Hart.Calm.putTile hcalm _ _ _))).tileSent h 0))
  · intro s h t r1 r2 pa hf ht hr1 hr2 i c x ps b hal hk hu hc htr hl
    obtain ⟨hx, hg, ha⟩ := hf.given i
    have hok : (hartOk h && tOk t && regOk r1 && regOk r2) = true := by simp [hf.free.hart, ht, hr1, hr2]
    have hret : retiresNow i = false := retiresNow_of_tileBits (encR_ne_zero _ _ _ _ _ (by decide))
    have hperf : c.perform h i = c.tstore h t r1 r2 := if_neg (hf.room_given rfl)
    exact gives_of_onChip rfl hok (Chip.issueInstr_leaves hf.free hret
      (hperf.trans (Chip.tstore_stores (hf.on_given i) hx hg ha htr hl rfl hal hk hu hc))
      (((hf.free.calm_given i).afterStores ps pa _).tileSent h 0))
  · intro s h r1 pa hf hr1 hsent i c x ps hal ht8 ha4 htr hl
    obtain ⟨hx, hg, ha⟩ := hf.given i
    have hok : (hartOk h && regOk r1) = true := by simp [hf.free.hart, hr1]
    have hret : retiresNow i = false := retiresNow_of_tileBits (encR_ne_zero _ _ _ _ _ (by decide))
    have hperf : c.perform h i = c.tsave h r1 := if_neg (hf.room_given_save hsent)
    exact gives_of_onChip rfl hok (Chip.issueInstr_leaves hf.free hret
      (hperf.trans (Chip.tsave_stores (hf.on_given i) hx hg ha htr hl rfl hal ht8 ha4))
      (((hf.free.calm_given i).afterStores ps pa _).tileSent h 0))
  · intro s h t r1 r2 pa hf ht hr1 hr2 i c x T rows ps hk hu hc htr hl
    obtain ⟨hx, hg, ha⟩ := hf.given i
    have hok : (hartOk h && tOk t && regOk r1 && regOk r2) = true := by simp [hf.free.hart, ht, hr1, hr2]
    have hret : retiresNow i = false := retiresNow_of_tileBits (encR_ne_zero _ _ _ _ _ (by decide))
    have hperf : c.perform h i = c.tstoreu h t r1 r2 := if_neg (hf.room_given rfl)
    exact gives_of_onChip rfl hok (Chip.issueInstr_leaves hf.free hret
      (hperf.trans (Chip.tstoreu_stores (hf.on_given i) hx hg ha htr hl rfl rfl hk hu hc))
      (((hf.free.calm_given i).afterStores ps pa _).tileSent h 0))

end Sys2Proof.Machine
end

section
/-! The bytes that a TSTORE leaves in its lines (R112). -/

namespace Sys2Proof.Machine

-- the bytes of a line

theorem Line.getLsbD_byte (l : Line) (k i : Nat) (hi : i < 8) : (Line.byte l k).getLsbD i = l.getLsbD (8 * k + i) := by
  rw [Line.byte, BitVec.getLsbD_ofNat, Nat.testBit_div_two_pow, Nat.add_comm i, BitVec.getLsbD, decide_eq_true hi, Bool.true_and]

theorem Line.getLsbD_setByte (l : Line) (k j : Nat) (b : Byte) (hj : j < 512) :
    (Line.setByte l k b).getLsbD j = if 8 * k ≤ j ∧ j < 8 * k + 8 then b.getLsbD (j - 8 * k) else l.getLsbD j := by
  have hmask : ((0xFF : Line) <<< (8 * k)).getLsbD j = decide (8 * k ≤ j ∧ j < 8 * k + 8) := by
    have h255 : ∀ q, (0xFF : Line).getLsbD q = decide (q < 8) := fun q => by
      have hq := Nat.testBit_two_pow_sub_one 8 q
      rw [show (0xFF : Line) = BitVec.ofNat 512 (2 ^ 8 - 1) from rfl, BitVec.getLsbD_ofNat, hq]
      by_cases h : q < 8
      · simp [h, Nat.lt_trans h (by decide : 8 < 512)]
      · simp [h]
    rw [BitVec.getLsbD_shiftLeft, h255, decide_eq_true hj, Bool.true_and]
    by_cases h : j < 8 * k
    · rw [decide_eq_true h, Bool.not_true, Bool.false_and, decide_eq_false (by omega)]
    · rw [decide_eq_false h, Bool.not_false, Bool.true_and]
      exact decide_eq_decide.mpr (by omega)
  rw [Line.setByte, BitVec.getLsbD_or, BitVec.getLsbD_and, BitVec.getLsbD_not, hmask, decide_eq_true hj, BitVec.getLsbD_shiftLeft,
    BitVec.getLsbD_setWidth, decide_eq_true hj]
  by_cases h : 8 * k ≤ j ∧ j < 8 * k + 8
  · rw [if_pos h, decide_eq_true h, decide_eq_false (by omega : ¬j < 8 * k), decide_eq_true (by omega : j - 8 * k < 512)]
    simp
  · rw [if_neg h, decide_eq_false h]
    rcases Nat.lt_or_ge j (8 * k) with hlt | hge
    · simp [hlt]
    · rw [BitVec.getLsbD_of_ge b (j - 8 * k) (by omega)]
      simp

theorem Line.byte_setByte (l : Line) {k j : Nat} (b : Byte) (hj : j < 64) :
    Line.byte (Line.setByte l k b) j = if j = k then b else Line.byte l j := by
  refine BitVec.eq_of_getLsbD_eq (fun i hi => ?_)
  rw [Line.getLsbD_byte _ _ _ hi, Line.getLsbD_setByte _ _ _ _ (by omega)]
  by_cases h : j = k
  · subst h
    rw [if_pos (by omega), if_pos rfl, Nat.add_sub_cancel_left]
  · rw [if_neg (by omega), if_neg h, Line.getLsbD_byte _ _ _ hi]

/-- A line that is written whole. -/
theorem Line.byte_patch (l : Line) (v n : Nat) {j : Nat} (hj : j < 64) :
    Line.byte (Line.patch l 0 n v) j = if j < n then BitVec.ofNat 8 (v / 2 ^ (8 * j)) else Line.byte l j := by
  induction n with
  | zero => simp [Line.patch, forUpTo]
  | succ n ih =>
    have hstep : Line.patch l 0 (n + 1) v = Line.setByte (Line.patch l 0 n v) (0 + n) (BitVec.ofNat 8 (v / 2 ^ (8 * n))) := by
      simp only [Line.patch, forUpTo, List.range_succ, List.foldl_append, List.foldl_cons, List.foldl_nil]
    rw [hstep, Nat.zero_add, Line.byte_setByte _ _ hj, ih]
    by_cases h : j = n
    · subst h
      simp
    · rw [if_neg h]
      by_cases hlt : j < n
      · rw [if_pos hlt, if_pos (by omega)]
      · rw [if_neg hlt, if_neg (by omega)]

theorem ofNat_ofBytes (l : List Byte) (j : Nat) : BitVec.ofNat 8 (ofBytes l / 2 ^ (8 * j)) = l.getD j 0 := by
  induction l generalizing j with
  | nil => simp [ofBytes]
  | cons b bs ih =>
    cases j with
    | zero =>
      simp only [ofBytes, Nat.mul_zero, Nat.pow_zero, Nat.div_one, List.getD_cons_zero]
      exact BitVec.eq_of_toNat_eq (by rw [BitVec.toNat_ofNat]; have := b.isLt; omega)
    | succ j =>
      have hdiv : ofBytes (b :: bs) / 2 ^ (8 * (j + 1)) = ofBytes bs / 2 ^ (8 * j) := by
        have hb := b.isLt
        rw [show 2 ^ (8 * (j + 1)) = 256 * 2 ^ (8 * j) by rw [Nat.mul_add, Nat.pow_add]; omega, ← Nat.div_div_eq_div_mul, ofBytes]
        rw [Nat.add_mul_div_left _ _ (by decide), Nat.div_eq_of_lt hb, Nat.zero_add]
      rw [hdiv, ih, List.getD_cons_succ]

/-- 64 bytes of a list, as a store of them leaves them in their line. -/
theorem Line.byte_patch_bytes (l : Line) (bs : List Byte) (k : Nat) {j : Nat} (hj : j < 64) :
    Line.byte (Line.patch l 0 64 (Sys2Proof.Machine.ofBytes ((bs.drop (64 * k)).take 64))) j = bs.getD (64 * k + j) 0 := by
  rw [Line.byte_patch _ _ _ hj, if_pos hj, ofNat_ofBytes, List.getD_eq_getElem?_getD, List.getElem?_take_of_lt hj, List.getElem?_drop,
    List.getD_eq_getElem?_getD]

-- the data of the lines of an L2

/-- The data of a line in the L2 of a hart. -/
def Chip.dataAt (c : Chip) (h line : Nat) : Line := (c.l2at h line).data

theorem Chip.dataAt_onHart (c : Chip) (h line : Nat) (f : Hart → Hart) : (c.onHart h f).dataAt h line = c.dataAt h line := rfl

theorem Chip.dataAt_setL2 (c : Chip) (h line line' : Nat) (l : L2Line) :
    (c.setL2 h line l).dataAt h line' = if line' = line then l.data else c.dataAt h line' := by
  by_cases he : line' = line
  · subst he
    rw [if_pos rfl, Chip.dataAt, Chip.l2at_setL2]
  · rw [if_neg he, Chip.dataAt, Chip.l2at_setL2_ne _ _ he, Chip.dataAt]

theorem Chip.dataAt_won (c : Chip) (h a line : Nat) : (c.won h a (c.l2at h (a / 64))).dataAt h line = c.dataAt h line := by
  change ((c.hits h a).setL2 h (a / 64) { c.l2at h (a / 64) with st := .M }).dataAt h line = _
  rw [Chip.dataAt_setL2]
  by_cases he : line = a / 64
  · rw [if_pos he, he]; rfl
  · rw [if_neg he, Chip.hits, Chip.dataAt_onHart]

theorem Chip.dataAt_probeStep (h : Nat) (pa : Nat → Nat) (y : Chip) (p : Piece) (line : Nat) :
    (Chip.probeStep h pa y p).dataAt h line = y.dataAt h line := by
  rw [Chip.probeStep, Chip.noteGot, Chip.dataAt_onHart, Chip.dataAt_won]

theorem Chip.dataAt_l2Written (c : Chip) (h a : Nat) (l : L2Line) (n v line : Nat) :
    (c.l2Written h a l n v).dataAt h line = (c.setL2 h (a / 64) (l.write (a % 64) n v)).dataAt h line := rfl

theorem Chip.dataAt_storeStep (h : Nat) (pa val : Nat → Nat) (y : Chip) (p : Piece) (line : Nat) :
    (Chip.storeStep h pa val y p).dataAt h line
      = if line = pa p.k / 64 then Line.patch (y.dataAt h line) (pa p.k % 64) p.n (val p.k) else y.dataAt h line := by
  rw [Chip.storeStep, Chip.noteGot, Chip.dataAt_onHart, Chip.tileStored, Chip.dataAt_onHart, Chip.l2Store_eq, Chip.dataAt_onHart,
    Chip.dataAt_l2Written, Chip.dataAt_setL2, Chip.dataAt_won]
  by_cases he : line = pa p.k / 64
  · rw [if_pos he, if_pos he, Chip.l2at_won, he]; rfl
  · rw [if_neg he, if_neg he]

theorem Chip.dataAt_stores_other {h : Nat} {pa val : Nat → Nat} {line : Nat} (l : List Piece) (y : Chip) (hl : ∀ p ∈ l, line ≠ pa p.k / 64) :
    (l.foldl (Chip.storeStep h pa val) y).dataAt h line = y.dataAt h line := by
  induction l generalizing y with
  | nil => rfl
  | cons p ps ih =>
    rw [List.foldl_cons, ih _ (fun q hq => hl q (List.mem_cons_of_mem _ hq)), Chip.dataAt_storeStep, if_neg (hl p (by simp))]

/-- A line to which one of the stores goes has its bytes. -/
theorem Chip.dataAt_stores {h : Nat} {pa val : Nat → Nat} (l : List Piece) (y : Chip) (hn : (l.map Piece.k).Nodup)
    (hpa : ∀ p ∈ l, ∀ q ∈ l, pa p.k / 64 = pa q.k / 64 → p.k = q.k) {q : Piece} (hq : q ∈ l) :
    ∃ d, (l.foldl (Chip.storeStep h pa val) y).dataAt h (pa q.k / 64) = Line.patch d (pa q.k % 64) q.n (val q.k) := by
  induction l generalizing y with
  | nil => simp at hq
  | cons p ps ih =>
    rw [List.map_cons, List.nodup_cons] at hn
    rw [List.foldl_cons]
    rcases List.mem_cons.mp hq with rfl | hmem
    · refine ⟨_, (Chip.dataAt_stores_other ps _ (fun r hr he => ?_)).trans ((Chip.dataAt_storeStep h pa val y q _).trans (if_pos rfl))⟩
      have hk : q.k = r.k := hpa q (by simp) r (List.mem_cons_of_mem _ hr) he
      exact hn.1 (by rw [hk]; exact List.mem_map_of_mem hr)
    · exact ih _ hn.2 (fun a ha b hb => hpa a (List.mem_cons_of_mem _ ha) b (List.mem_cons_of_mem _ hb)) hmem

theorem Chip.dataAt_settle (c : Chip) (h line : Nat) : (c.settle h).dataAt h line = c.dataAt h line := by
  refine foldl_keeps (P := fun d : Chip => d.dataAt h line = c.dataAt h line) (fun d line' hd => ?_) _ rfl
  split
  · rw [Chip.dataAt_setL2]
    by_cases he : line = line'
    · rw [if_pos he, ← hd, he]; rfl
    · rw [if_neg he, hd]
  · exact hd

theorem Chip.dataAt_leave (c : Chip) (h line : Nat) : (c.leave h).dataAt h line = c.dataAt h line := by
  rw [Chip.leave, Chip.dataAt_onHart, Chip.dataAt_settle]

-- the accesses to a list of lines

theorem mem_lineList {va n : Nat} {p : Piece} (hp : p ∈ lineList va n) : p.va = (va + 64 * p.k) % 2 ^ 64 ∧ p.n = 64 := by
  obtain ⟨i, hi, rfl⟩ := List.mem_iff_getElem.mp hp
  simp [lineList, numberPieces]

theorem mem_lineList_of_lt {va n k : Nat} (hk : k < n / 64) : { k := k, va := (va + 64 * k) % 2 ^ 64, n := 64 } ∈ lineList va n := by
  refine List.mem_iff_getElem.mpr ⟨k, by simpa [lineList, numberPieces] using hk, ?_⟩
  simp [lineList, numberPieces]

section
variable {c : Chip} {h a pa : Nat}

theorem translated_lineList (hpa : pa % 64 = 0)
    (ht : ∀ k, k < 25 → c.translate h (BitVec.ofNat 64 (a + 64 * k)) 64 2 = (c, .pa (pa + 64 * k))) :
    c.Translated h 2 (lineList a 1600) (fun k => pa + 64 * k) := by
  intro p hp
  obtain ⟨hva, hn⟩ := mem_lineList hp
  have hk : p.k < 25 := lineList_keys hp
  have hw : BitVec.ofNat 64 p.va = BitVec.ofNat 64 (a + 64 * p.k) := by
    rw [hva]
    exact BitVec.eq_of_toNat_eq (by rw [BitVec.toNat_ofNat, BitVec.toNat_ofNat, Nat.mod_mod])
  refine ⟨?_, by dsimp only; omega⟩
  rw [hw, hn, ht p.k hk]

theorem ownsAll_lineList {l : Nat → L2Line} (hown : ∀ k, k < 25 → c.Owns h (pa + 64 * k) (l k)) :
    c.OwnsAll h (lineList a 1600) (fun k => pa + 64 * k) := by
  intro p hp
  have ho := hown p.k (lineList_keys hp)
  rw [← ho.holds.line] at ho
  exact ho

/-- The lines of a record after its stores. -/
theorem byte_afterStores (hpa : pa % 64 = 0) (bs : List Byte) {n : Nat} (hn : n < 1600) :
    Line.byte ((c.afterStores h (lineList a 1600) (fun k => pa + 64 * k)
      (fun k => ofBytes ((bs.drop (64 * k)).take 64))).dataAt h (pa / 64 + n / 64)) (n % 64) = bs.getD n 0 := by
  have hmem : { k := n / 64, va := (a + 64 * (n / 64)) % 2 ^ 64, n := 64 } ∈ lineList a 1600 := mem_lineList_of_lt (by omega)
  have hlines : ∀ p ∈ lineList a 1600, ∀ q ∈ lineList a 1600, (pa + 64 * p.k) / 64 = (pa + 64 * q.k) / 64 → p.k = q.k :=
    fun p _ q _ he => by omega
  obtain ⟨d, hd⟩ := Chip.dataAt_stores (h := h) (pa := fun k => pa + 64 * k) (val := fun k => ofBytes ((bs.drop (64 * k)).take 64))
    (lineList a 1600) (c.afterProbes h (lineList a 1600) (fun k => pa + 64 * k)) (lineList_nodup _ _) hlines hmem
  have hline : (pa + 64 * (n / 64)) / 64 = pa / 64 + n / 64 := by omega
  have hoff : (pa + 64 * (n / 64)) % 64 = 0 := by omega
  dsimp only at hd
  rw [hline, hoff] at hd
  rw [Chip.afterStores_eq, hd, Line.byte_patch_bytes _ _ _ (Nat.mod_lt _ (by decide)), Nat.div_add_mod]

end

/-- Settles O25: the 25 stores of the record go to 25 lines, of which each keeps its 64 bytes. -/
theorem tstoreWritesRecord : Obligations.TstoreWritesRecord := by
  unfold Obligations.TstoreWritesRecord
  intro s h t r1 r2 pa l hf ht hr1 hr2 c x a hal hpa hT hk hgd htr hown
  obtain ⟨hx, hg, ha⟩ := hf.given (.tstore h t r1 r2)
  have hh : c.hart h = { x with hq := [.tstore h t r1 r2] } := Chip.hart_given _ _ _
  have hps : lineList ((c.hart h).pointer ((c.hart h).xr r1)).toNat 1600 = lineList a 1600 := by rw [hh]; rfl
  have hx1 : (x.xr r1).toNat % 64 = 0 := (x.pointer_low (x.xr r1)).symm.trans hal
  have hguard : (x.guarded && x.ung t) = false := by rw [hgd, Bool.false_and]
  have hstores := Chip.tstore_stores (t := t) (r2 := r2) (hf.on_given _) hx hg ha (translated_lineList hpa htr) (ownsAll_lineList hown) hps
    (by rw [hh]; exact hx1) (by rw [hh]; exact hk) (by rw [hh]; exact hguard) (by rw [hh]; exact hT.check_eq_none t 4 false)
  have hrec : mkRecord ((c.hart h).tileAt t).word ((c.hart h).xr r2).toNat (elAt ((c.hart h).tileAt t).el)
      = mkRecord (x.tileAt t).word (x.xr r2).toNat (elAt (x.tileAt t).el) := by rw [hh]; rfl
  dsimp only at hstores
  rw [hrec] at hstores
  generalize mkRecord (x.tileAt t).word (x.xr r2).toNat (elAt (x.tileAt t).el) = bs at hstores ⊢
  have hperf : c.perform h (.tstore h t r1 r2) = c.tstore h t r1 r2 := if_neg (hf.room_given rfl)
  have hdoes : Gives (.tstore h t r1 r2) s (((c.afterStores h (lineList a 1600) (fun k => pa + 64 * k)
      (fun k => ofBytes ((bs.drop (64 * k)).take 64))).tileSent h 0).leave h) :=
    gives_of_onChip rfl (by simp [hf.free.hart, ht, hr1, hr2]) (Chip.issueInstr_leaves hf.free
      (retiresNow_of_tileBits (encR_ne_zero _ _ _ _ _ (by decide))) (hperf.trans hstores)
      (((hf.free.calm_given _).afterStores _ _ _).tileSent h 0))
  refine ⟨_, hdoes, fun n hn => ?_⟩
  refine Eq.trans (congrArg (fun d => Line.byte d (n % 64)) ?_) (byte_afterStores (c := c) (h := h) (a := a) hpa bs hn)
  exact (Chip.dataAt_leave _ _ _).trans (Chip.dataAt_onHart _ _ _ _)

end Sys2Proof.Machine
end

section
/-! What the operations of a dual-role station leave of the chip: the loss of a link, slot status, function-level reset (R352 to R369). -/

namespace Sys2Proof.Machine

-- ports and functions

@[simp] theorem Chip.port_onPort (c : Chip) (n j : Nat) (f : PortSt → PortSt) : (c.onPort n j f).port n j = f (c.port n j) :=
  sget_sset_self _ _ _ _

theorem Chip.port_onPort_ne (c : Chip) {n j k : Nat} (h : k ≠ j) (f : PortSt → PortSt) : (c.onPort n j f).port n k = c.port n k :=
  sget_sset_ne _ _ (by omega) _ _

@[simp] theorem Chip.fn_onFn (c : Chip) (n f : Nat) (g : FnSt → FnSt) : (c.onFn n f g).fn n f = g (c.fn n f) := sget_sset_self _ _ _ _

theorem Chip.fn_onFn_ne (c : Chip) {n f k : Nat} (h : k ≠ f) (g : FnSt → FnSt) : (c.onFn n f g).fn n k = c.fn n k :=
  sget_sset_ne _ _ (by omega) _ _

theorem port_of_portSt {x y : Chip} (h : y.portSt = x.portSt) (n j : Nat) : y.port n j = x.port n j := by rw [Chip.port, h, ← Chip.port]

theorem fn_of_fnSt {x y : Chip} (h : y.fnSt = x.fnSt) (n f : Nat) : y.fn n f = x.fn n f := by rw [Chip.fn, h, ← Chip.fn]

@[simp] theorem Chip.onPort_reg (c : Chip) (n j : Nat) (f : PortSt → PortSt) (q : Reg) : (c.onPort n j f).reg q = c.reg q := (rfl)

@[simp] theorem Chip.onFn_reg (c : Chip) (n f : Nat) (g : FnSt → FnSt) (q : Reg) : (c.onFn n f g).reg q = c.reg q := (rfl)

theorem Chip.setReg_port (c : Chip) (r : Reg) (v : Word) (n j : Nat) : (c.setReg r v).port n j = c.port n j := (rfl)

@[simp] theorem Chip.setFld_port (c : Chip) (r : Reg) (f : Field) (v n j : Nat) : (c.setFld r f v).port n j = c.port n j := (rfl)

@[simp] theorem Chip.setBit_port (c : Chip) (r : Reg) (f : Field) (b : Bool) (n j : Nat) : (c.setBit r f b).port n j = c.port n j := (rfl)

@[simp] theorem Chip.raiseEvent_port (c : Chip) (e n j : Nat) : (c.raiseEvent e).port n j = c.port n j :=
  port_of_portSt (by rw [Chip.raiseEvent_frame]) n j

@[simp] theorem Chip.portEvent_port (c : Chip) (a b m n j : Nat) : (c.portEvent a b m).port n j = c.port n j := c.raiseEvent_port _ n j

@[simp] theorem Chip.report_port (c : Chip) (u src rid w acc d a n j : Nat) : (c.report u src rid w acc d a).port n j = c.port n j :=
  port_of_portSt (by rw [Chip.report_frame]) n j

@[simp] theorem Chip.portError_port (c : Chip) (a b code rid w acc ad n j : Nat) : (c.portError a b code rid w acc ad).port n j = c.port n j :=
  c.report_port ..

@[simp] theorem Chip.portError_reg (c : Chip) (a b code rid w acc ad : Nat) (q : Reg) : (c.portError a b code rid w acc ad).reg q = c.reg q :=
  c.report_reg ..

theorem Chip.reg_portEvent_ne (c : Chip) (n j m : Nat) {q : Reg} (h : q.offset ≠ (Reg.EVR_SRC (256 + 32 * n + 8 * j + m)).offset) :
    (c.portEvent n j m).reg q = c.reg q := c.reg_raiseEvent_ne _ h

/-- What says of a port how it was formed and committed lies in two registers. -/
theorem portCount_of_reg {x y : Chip} {n : Nat} (h : y.reg (.PORT_CFG n) = x.reg (.PORT_CFG n)) : y.portCount n = x.portCount n := by
  rw [Chip.portCount, Chip.portCount, Chip.fld_of_reg h]

theorem isEp_of_reg {x y : Chip} {n : Nat} (h : y.reg (.PORT_CFG n) = x.reg (.PORT_CFG n)) (j : Nat) : y.isEp n j = x.isEp n j := by
  simp only [Chip.isEp, Chip.portFormed, portCount_of_reg h, Chip.fld, h]

theorem isRoot_of_reg {x y : Chip} {n : Nat} (h : y.reg (.PORT_CFG n) = x.reg (.PORT_CFG n)) (h' : y.reg (.PORT_CTL n) = x.reg (.PORT_CTL n))
    (j : Nat) : y.isRoot n j = x.isRoot n j := by
  simp only [Chip.isRoot, Chip.portCommitted, Chip.bit_of_reg h', Chip.portFormed, portCount_of_reg h, isEp_of_reg h]

-- registers that the operations of a station's ports leave

/-- A register that a function-level reset at station n does not change. -/
def Reg.offFlr (n : Nat) (q : Reg) : Prop := (∀ c k, c < 2 → k < 544 → q.offset ≠ (Reg.SE_INST_STATUS c k).offset)
  ∧ (∀ c e, c < 2 → e < 8 → q.offset ≠ (Reg.SE_ENG_STATUS c e).offset) ∧ ∀ f, f < 256 → q.offset ≠ (Reg.PORT_FN_CFG n f).offset

/-- A register that the loss of a link of station n does not change. -/
def Reg.offLoss (n : Nat) (q : Reg) : Prop := (∀ j, j < 4 → q.offset ≠ (Reg.PORT_STATUS n j).offset ∧ q.offset ≠ (Reg.PORT_ERR n j).offset)
  ∧ ∀ e, e < 4096 → q.offset ≠ (Reg.EVR_SRC e).offset

theorem portSlot_offFlr {n j : Nat} (hj : j < 4) : (Reg.PORT_SLOT n j).offFlr n := by
  refine ⟨fun _ _ => ?_, fun _ => ?_, fun _ _ => ?_⟩ <;> simp only [Reg.offset] <;> omega

theorem portSlot_offLoss {n j : Nat} (hj : j < 4) : (Reg.PORT_SLOT n j).offLoss n := by
  refine ⟨fun _ _ => ?_, fun _ => ?_⟩ <;> simp only [Reg.offset] <;> omega

theorem portStatus_offFlr {n j : Nat} (hn : n < 10) (hj : j < 4) : (Reg.PORT_STATUS n j).offFlr n := by
  refine ⟨fun _ _ => ?_, fun _ => ?_, fun _ _ => ?_⟩ <;> simp only [Reg.offset] <;> omega

theorem portEvent_lt {n j m : Nat} (hn : n < 10) (hj : j < 4) (hm : m < 8) : 256 + 32 * n + 8 * j + m < 4096 := by omega

section
variable {n j : Nat} (hn : n < 10) (hj : j < 4)
include hn hj

theorem Chip.portEvent_offLoss (c : Chip) {m : Nat} (hm : m < 8) {q : Reg} (h : q.offLoss n) : (c.portEvent n j m).reg q = c.reg q :=
  c.reg_raiseEvent_ne _ (h.2 _ (portEvent_lt hn hj hm))

/-- A register of the station is no event register. -/
theorem Chip.portEvent_station (c : Chip) {m : Nat} (hm : m < 8) {q : Reg} (h : 0x4000000 ≤ q.offset) : (c.portEvent n j m).reg q = c.reg q :=
  c.reg_raiseEvent_ne _ (by
    rw [show (Reg.EVR_SRC (256 + 32 * n + 8 * j + m)).offset = 0x24000 + (256 + 32 * n + 8 * j + m) * 8 from rfl]
    omega)

theorem Chip.slotStatus_station (c : Chip) (en : Nat) (g : Word → Word) {q : Reg} (h : 0x4000000 ≤ q.offset) :
    (c.slotStatus n j en g).reg q = c.reg q := by
  unfold Chip.slotStatus
  dsimp only
  split
  · exact Chip.portEvent_station hn hj _ (by decide) h
  · rfl

theorem Chip.slotStatus_offLoss (c : Chip) (en : Nat) (g : Word → Word) {q : Reg} (h : q.offLoss n) :
    (c.slotStatus n j en g).reg q = c.reg q := by
  unfold Chip.slotStatus
  dsimp only
  split
  · exact Chip.portEvent_offLoss hn hj _ (by decide) h
  · rfl

end

theorem Chip.slotStatus_port (c : Chip) (n j en : Nat) (g : Word → Word) :
    (c.slotStatus n j en g).port n j = { c.port n j with slotSts := g (c.port n j).slotSts } := by
  unfold Chip.slotStatus
  dsimp only
  split
  · rw [Chip.portEvent_port, Chip.port_onPort]
  · rw [Chip.port_onPort]

-- what is outstanding fails

/-- A station's answer is a message. -/
theorem Chip.ioReply_frame (c : Chip) (m : Msg) (st v : Nat) : c.ioReply m st v = { c with net := (c.ioReply m st v).net } := by
  unfold Chip.ioReply
  split <;> rw [Chip.sendDie_frame]

theorem Chip.replyTo_frame (c : Chip) (q : PortReq) (st : Nat) : c.replyTo q st = { c with net := (c.replyTo q st).net } := by
  unfold Chip.replyTo
  split
  · rfl
  · exact c.ioReply_frame ..

theorem Chip.replyTo_reg (c : Chip) (q : PortReq) (st : Nat) (r : Reg) : (c.replyTo q st).reg r = c.reg r := by rw [Chip.replyTo_frame]; rfl

@[simp] theorem Chip.replyTo_port (c : Chip) (q : PortReq) (st n j : Nat) : (c.replyTo q st).port n j = c.port n j :=
  port_of_portSt (by rw [Chip.replyTo_frame]) n j

theorem Chip.failOutstanding_reg (c : Chip) (n j : Nat) (r : Reg) : (c.failOutstanding n j).reg r = c.reg r :=
  foldl_same (fun x : Chip => x.reg r) (fun x q => x.replyTo_reg q 1 r) _ c

theorem Chip.failOutstanding_port (c : Chip) (n j : Nat) : (c.failOutstanding n j).port n j = { c.port n j with outst := [] } := by
  have hfold : ∀ l : List PortReq, (l.foldl (fun (x : Chip) q => x.replyTo q 1) c).port n j = c.port n j := fun l =>
    foldl_same (fun x : Chip => x.port n j) (fun x q => x.replyTo_port q 1 n j) l c
  rw [Chip.failOutstanding, Chip.port_onPort, hfold]

-- a link is lost

theorem Chip.linkLoss_of_down {c : Chip} {n j : Nat} (h : c.linkUp n j = false) : c.linkLoss n j = c := by simp [Chip.linkLoss, h]

/-- The link that is lost, before Slot Status notes it. -/
def Chip.linkGone (c : Chip) (n j : Nat) : Chip :=
  ((((c.failOutstanding n j).onPort n j (fun s => { s with retired := [] })).setReg (.PORT_STATUS n j)
    (F.PORT_STATUS_DSTATE.put 0 (c.fld (.PORT_STATUS n j) F.PORT_STATUS_DSTATE))).setFld (.PORT_ERR n j) F.PORT_ERR_RETIRED 0).portEvent n j 0

theorem Chip.linkLoss_of_up {c : Chip} {n j : Nat} (h : c.linkUp n j = true) : c.linkLoss n j =
    if (c.linkGone n j).isRoot n j then (c.linkGone n j).slotStatus n j 12 (orBits 0x100) else c.linkGone n j := by
  simp only [Chip.linkLoss, h, Bool.not_true, Bool.false_eq_true, if_false]
  rfl

theorem Chip.linkGone_port (c : Chip) (n j : Nat) : (c.linkGone n j).port n j = { c.port n j with outst := [], retired := [] } := by
  rw [Chip.linkGone, Chip.portEvent_port, Chip.setFld_port, Chip.setReg_port, Chip.port_onPort, Chip.failOutstanding_port]

/-- The port of a lost link has nothing outstanding and no retired tag; Slot Status may say so. -/
theorem Chip.linkLoss_port {c : Chip} {n j : Nat} (h : c.linkUp n j = true) :
    ∃ w, (c.linkLoss n j).port n j = { c.port n j with outst := [], retired := [], slotSts := w } := by
  rw [Chip.linkLoss_of_up h]
  split
  · exact ⟨_, by rw [Chip.slotStatus_port, Chip.linkGone_port]⟩
  · exact ⟨_, c.linkGone_port n j⟩

theorem Chip.linkLoss_perst (c : Chip) (n j : Nat) : ((c.linkLoss n j).port n j).perst = (c.port n j).perst := by
  cases h : c.linkUp n j
  · rw [Chip.linkLoss_of_down h]
  · obtain ⟨w, hw⟩ := Chip.linkLoss_port h
    rw [hw]

theorem Chip.linkLoss_dpc (c : Chip) (n j : Nat) : ((c.linkLoss n j).port n j).dpc = (c.port n j).dpc := by
  cases h : c.linkUp n j
  · rw [Chip.linkLoss_of_down h]
  · obtain ⟨w, hw⟩ := Chip.linkLoss_port h
    rw [hw]

section
variable {n j : Nat} (hn : n < 10) (hj : j < 4)
include hn hj

theorem Chip.linkLoss_offLoss (c : Chip) {q : Reg} (h : q.offLoss n) : (c.linkLoss n j).reg q = c.reg q := by
  have hgone : (c.linkGone n j).reg q = c.reg q := by
    rw [Chip.linkGone, Chip.portEvent_offLoss hn hj _ (by decide) h, Chip.reg_setFld_ne _ _ _ (h.1 j hj).2,
      Chip.reg_setReg_ne _ _ (h.1 j hj).1, Chip.onPort_reg, Chip.failOutstanding_reg]
  cases hup : c.linkUp n j
  · rw [Chip.linkLoss_of_down hup]
  · rw [Chip.linkLoss_of_up hup]
    split
    · rw [Chip.slotStatus_offLoss hn hj _ _ _ h, hgone]
    · exact hgone

/-- What a register of the station reads once a link is lost. -/
theorem Chip.linkLoss_station {c : Chip} (hup : c.linkUp n j = true) {q : Reg} (h : 0x4000000 ≤ q.offset) :
    (c.linkLoss n j).reg q = (((c.failOutstanding n j).setReg (.PORT_STATUS n j) (F.PORT_STATUS_DSTATE.put 0 (c.fld (.PORT_STATUS n j)
      F.PORT_STATUS_DSTATE))).setFld (.PORT_ERR n j) F.PORT_ERR_RETIRED 0).reg q := by
  have hgone : (c.linkGone n j).reg q = _ := Chip.portEvent_station hn hj _ (by decide) h
  rw [Chip.linkLoss_of_up hup]
  split
  · rw [Chip.slotStatus_station hn hj _ _ _ h, hgone]
    rfl
  · rw [hgone]
    rfl

theorem Chip.linkLoss_down (c : Chip) : (c.linkLoss n j).linkUp n j = false := by
  cases hup : c.linkUp n j
  · rw [Chip.linkLoss_of_down hup, hup]
  · have hreg := Chip.linkLoss_station hn hj hup (q := .PORT_STATUS n j) (by simp only [Reg.offset]; omega)
    rw [Chip.reg_setFld_ne _ _ _ (by simp only [Reg.offset]; omega), Chip.reg_setReg] at hreg
    rw [Chip.linkUp, Chip.bit, Chip.fld, hreg, Field.get_put_apart (by decide)]
    rfl

theorem Chip.linkLoss_retired {c : Chip} (hup : c.linkUp n j = true) : (c.linkLoss n j).fld (.PORT_ERR n j) F.PORT_ERR_RETIRED = 0 := by
  rw [Chip.fld_of_reg (Chip.linkLoss_station hn hj hup (by simp only [Reg.offset]; omega))]
  exact Chip.fld_setFld_of_lt _ _ _ (by decide) (by decide) (by decide)

end

-- a function-level reset

/-- What a function-level reset at station n keeps: registers, functions, and ports but for what is outstanding. -/
structure Chip.FlrKeeps (n : Nat) (c d : Chip) : Prop where
  reg : ∀ q : Reg, q.offFlr n → d.reg q = c.reg q
  port : ∀ m j, ∃ l, d.port m j = { c.port m j with outst := l }

theorem Chip.FlrKeeps.refl {n : Nat} (c : Chip) : c.FlrKeeps n c := ⟨fun _ _ => rfl, fun _ _ => ⟨_, rfl⟩⟩

theorem Chip.FlrKeeps.trans {n : Nat} {c d e : Chip} (h : c.FlrKeeps n d) (h' : d.FlrKeeps n e) : c.FlrKeeps n e :=
  ⟨fun q hq => (h'.reg q hq).trans (h.reg q hq), fun m j => by
    obtain ⟨l, hl⟩ := h.port m j
    obtain ⟨l', hl'⟩ := h'.port m j
    exact ⟨l', by rw [hl', hl]⟩⟩

theorem foldl_flrKeeps {α : Type} {n : Nat} {f : Chip → α → Chip} (l : List α) (hf : ∀ (x : Chip), ∀ a ∈ l, x.FlrKeeps n (f x a)) (c : Chip) :
    c.FlrKeeps n (l.foldl f c) := by
  induction l generalizing c with
  | nil => exact Chip.FlrKeeps.refl c
  | cons a l ih => exact (hf c a List.mem_cons_self).trans (ih (fun x b hb => hf x b (List.mem_cons_of_mem a hb)) _)

theorem lt_of_mem_slots {s : Nat × Nat} (h : s ∈ slots) : s.1 < 2 ∧ s.2 < 544 := by
  obtain ⟨i, hi, hs⟩ := List.mem_flatMap.1 h
  obtain ⟨k, hk, rfl⟩ := List.mem_map.1 hs
  exact ⟨List.mem_range.1 hi, List.mem_range.1 hk⟩

theorem Chip.noteActive_reg_ne (x : Chip) (c : Nat) {q : Reg} (h : ∀ e, e < 8 → q.offset ≠ (Reg.SE_ENG_STATUS c e).offset) :
    (x.noteActive c).reg q = x.reg q :=
  forUpTo_same_of_lt (fun y : Chip => y.reg q) 8 (fun e he y => Chip.reg_setFld_ne y _ _ (h e he)) x

theorem Chip.discardUnstarted_reg_ne (x : Chip) (c k : Nat) {q : Reg} (h : q.offset ≠ (Reg.SE_INST_STATUS c k).offset)
    (h' : ∀ e, e < 8 → q.offset ≠ (Reg.SE_ENG_STATUS c e).offset) : (x.discardUnstarted c k).reg q = x.reg q := by
  rw [Chip.discardUnstarted, Chip.noteActive_reg_ne _ _ h', Chip.noteInflight, Chip.reg_setFld_ne _ _ _ h]
  rfl

theorem Chip.instReset_reg_ne (x : Chip) (c k : Nat) (b : Bool) {q : Reg} (h : q.offset ≠ (Reg.SE_INST_STATUS c k).offset)
    (h' : ∀ e, e < 8 → q.offset ≠ (Reg.SE_ENG_STATUS c e).offset) : (x.instReset c k b).reg q = x.reg q := by
  unfold Chip.instReset
  dsimp only
  split
  · rfl
  · rw [Chip.discardUnstarted_reg_ne _ _ _ h h']
    exact Chip.reg_setFld_ne _ _ _ h

/-- The stations' part of the chip. -/
def Chip.stations (c : Chip) : Sparse PortSt × Sparse FnSt := (c.portSt, c.fnSt)

theorem port_of_stations {x y : Chip} (h : y.stations = x.stations) (n j : Nat) : y.port n j = x.port n j :=
  port_of_portSt (congrArg Prod.fst h) n j

theorem fn_of_stations {x y : Chip} (h : y.stations = x.stations) (n f : Nat) : y.fn n f = x.fn n f := fn_of_fnSt (congrArg Prod.snd h) n f

theorem Chip.noteActive_stations (x : Chip) (c : Nat) : (x.noteActive c).stations = x.stations := forUpTo_same Chip.stations (fun _ _ => rfl) 8 x

theorem Chip.instReset_stations (x : Chip) (c k : Nat) (b : Bool) : (x.instReset c k b).stations = x.stations := by
  unfold Chip.instReset
  dsimp only
  split
  · rfl
  · exact Chip.noteActive_stations _ c

/-- The bound instances of a function reset. -/
theorem Chip.resetBound_stations (l : List (Nat × Nat)) (c : Chip) :
    (l.foldl (fun (x : Chip) s => x.instReset s.1 s.2 false) c).stations = c.stations :=
  foldl_same (f := fun (x : Chip) (s : Nat × Nat) => x.instReset s.1 s.2 false) Chip.stations
    (fun x s => x.instReset_stations s.1 s.2 false) l c

theorem Chip.resetBound_reg_ne {l : List (Nat × Nat)} (hl : ∀ s ∈ l, s ∈ slots) (c : Chip) {q : Reg}
    (h : ∀ c k, c < 2 → k < 544 → q.offset ≠ (Reg.SE_INST_STATUS c k).offset)
    (h' : ∀ c e, c < 2 → e < 8 → q.offset ≠ (Reg.SE_ENG_STATUS c e).offset) :
    (l.foldl (fun (x : Chip) s => x.instReset s.1 s.2 false) c).reg q = c.reg q := by
  induction l generalizing c with
  | nil => rfl
  | cons s l ih =>
    obtain ⟨h1, h2⟩ := lt_of_mem_slots (hl s List.mem_cons_self)
    rw [List.foldl_cons, ih (fun s hs => hl s (List.mem_cons_of_mem _ hs)), Chip.instReset_reg_ne _ _ _ _ (h _ _ h1 h2) fun e he => h' _ e h1 he]

theorem Chip.flrSend_reg (c : Chip) (n f : Nat) (q : Reg) : (c.flrSend n f).reg q = c.reg q := by
  unfold Chip.flrSend
  dsimp only
  split
  · rfl
  · split
    · rfl
    · split <;> rfl

theorem Chip.flrSend_fnSt (c : Chip) (n f : Nat) : (c.flrSend n f).fnSt = c.fnSt := by
  unfold Chip.flrSend
  dsimp only
  split
  · rfl
  · split
    · rfl
    · split <;> rfl

theorem Chip.onPort_outst (c : Chip) (n j : Nat) (g : List PortReq → List PortReq) (m k : Nat) :
    ∃ l, (c.onPort n j (fun s => { s with outst := g s.outst })).port m k = { c.port m k with outst := l } := by
  by_cases h : m * 4 + k = n * 4 + j
  · refine ⟨g (c.port n j).outst, ?_⟩
    rw [Chip.port, h]
    refine (sget_sset_self _ _ _ _).trans ?_
    rw [Chip.port, Chip.port, h]
  · exact ⟨_, sget_sset_ne _ _ h _ _⟩

theorem Chip.flrSend_port (c : Chip) (n f m j : Nat) : ∃ l, (c.flrSend n f).port m j = { c.port m j with outst := l } := by
  unfold Chip.flrSend
  dsimp only
  split
  · exact ⟨_, rfl⟩
  · split
    · exact ⟨_, rfl⟩
    · split
      · exact ⟨_, rfl⟩
      · exact Chip.onPort_outst c.nextFree n _ (· ++ [_]) m j

/-- The function-level reset that has begun, before the function's instances reset. -/
def Chip.flrBegun (c : Chip) (n f : Nat) : Chip :=
  ((c.setBit (.PORT_FN_CFG n f) F.PORT_FN_CFG_FLR_BUSY true).onFn n f (fun s => { s with msix := [], flrSince := some c.now })).flrSend n f

theorem Chip.flrStart_of_busy {c : Chip} {n f : Nat} (h : c.bit (.PORT_FN_CFG n f) F.PORT_FN_CFG_FLR_BUSY = true) : c.flrStart n f = c := by
  simp [Chip.flrStart, h]

theorem Chip.flrStart_of_idle {c : Chip} {n f : Nat} (h : c.bit (.PORT_FN_CFG n f) F.PORT_FN_CFG_FLR_BUSY = false) : c.flrStart n f =
    ((c.flrBegun n f).boundTo n f).foldl (fun (x : Chip) s => x.instReset s.1 s.2 false) (c.flrBegun n f) := by
  simp only [Chip.flrStart, h, Bool.false_eq_true, if_false]
  rfl

theorem Chip.boundTo_slots (c : Chip) (n f : Nat) : ∀ s ∈ c.boundTo n f, s ∈ slots := fun _ h => (List.mem_filter.1 h).1

theorem Chip.flrStart_keeps (c : Chip) {n f : Nat} (hf : f < 256) : c.FlrKeeps n (c.flrStart n f) := by
  cases h : c.bit (.PORT_FN_CFG n f) F.PORT_FN_CFG_FLR_BUSY
  · rw [Chip.flrStart_of_idle h]
    refine ⟨fun q hq => ?_, fun m j => ?_⟩
    · rw [Chip.resetBound_reg_ne (Chip.boundTo_slots _ n f) _ hq.1 hq.2.1, Chip.flrBegun, Chip.flrSend_reg, Chip.onFn_reg]
      exact Chip.reg_setBit_ne _ _ _ (hq.2.2 f hf)
    · rw [port_of_stations (Chip.resetBound_stations _ _)]
      exact Chip.flrSend_port _ n f m j
  · rw [Chip.flrStart_of_busy h]
    exact Chip.FlrKeeps.refl c

/-- The functions of a formed port. -/
theorem Chip.portFns_lt (c : Chip) {n j f : Nat} (hj : c.portFormed n j = true) (h : f ∈ c.portFns n j) : f < 256 := by
  obtain ⟨i, hi, rfl⟩ := List.mem_map.1 h
  have hi : i < 256 / c.portCount n := List.mem_range.1 hi
  have hj : j < c.portCount n := of_decide_eq_true hj
  have hmul := Nat.div_mul_le_self 256 (c.portCount n)
  have hle : (j + 1) * (256 / c.portCount n) ≤ c.portCount n * (256 / c.portCount n) := Nat.mul_le_mul_right _ hj
  simp only [Chip.fnRange]
  rw [Nat.succ_mul] at hle
  rw [Nat.mul_comm] at hmul
  omega

end Sys2Proof.Machine
end

section
/-! Ports, slots and errors of a dual-role station (R344 to R369): O49. -/

namespace Sys2Proof.Machine

-- the PORT commit and RESTART

theorem any_congr_mem {α : Type} {p q : α → Bool} {l : List α} (h : ∀ a ∈ l, p a = q a) : l.any p = l.any q := by
  rw [Bool.eq_iff_iff, List.any_eq_true, List.any_eq_true]
  exact ⟨fun ⟨a, ha, hp⟩ => ⟨a, ha, h a ha ▸ hp⟩, fun ⟨a, ha, hq⟩ => ⟨a, ha, (h a ha).symm ▸ hq⟩⟩

theorem portCtl_sound (n : Nat) : (Reg.PORT_CTL n).sound := by
  rw [Reg.sound, Reg.fields]
  decide

/-- The chip after the fields of a write to PORT_CTL are stored. -/
def Chip.ctlStored (c : Chip) (n : Nat) (v : Word) : Chip := c.storeFields (.PORT_CTL n) v

theorem Chip.ctlStored_port (c : Chip) (n : Nat) (v : Word) (m j : Nat) : (c.ctlStored n v).port m j = c.port m j := (rfl)

theorem Chip.ctlStored_ro (c : Chip) (n : Nat) (v : Word) {f : Field} (hf : f ∈ (Reg.PORT_CTL n).fields) (hacc : f.acc = .ro) :
    (c.ctlStored n v).fld (.PORT_CTL n) f = c.fld (.PORT_CTL n) f := c.fld_storeFields_ro v (portCtl_sound n) hf (.inl hacc)

theorem Chip.ctlStored_committed (c : Chip) (n : Nat) (v : Word) : (c.ctlStored n v).portCommitted n = c.portCommitted n :=
  Chip.bit_of_fld (c.ctlStored_ro n v (.tail _ (.head _)) rfl)

theorem Chip.ctlStored_stopped (c : Chip) (n : Nat) (v : Word) (j : Nat) : (c.ctlStored n v).stopped n j = c.stopped n j := by
  rw [Chip.stopped, c.ctlStored_ro n v (.tail _ (.tail _ (.tail _ (.tail _ (.head _))))) rfl, Chip.stopped]

theorem Chip.ctlStored_reg (c : Chip) (n : Nat) (v : Word) {q : Reg} (h : q.offset ≠ (Reg.PORT_CTL n).offset) :
    (c.ctlStored n v).reg q = c.reg q := c.reg_storeFields_ne v h

theorem Chip.cxlBad_of_ctl {x y : Chip} {n : Nat} (h : ∀ q : Reg, q.offset ≠ (Reg.PORT_CTL n).offset → y.reg q = x.reg q) {j : Nat}
    (hj : j < 4) : y.cxlBad n j = x.cxlBad n j := by
  have hbase : ∀ m i, i < 4 → y.reg (.PORT_CXL_BASE m i) = x.reg (.PORT_CXL_BASE m i) := fun m i hi => h _ (by simp only [Reg.offset]; omega)
  have hlimit : ∀ m i, i < 4 → y.reg (.PORT_CXL_LIMIT m i) = x.reg (.PORT_CXL_LIMIT m i) := fun m i hi => h _ (by simp only [Reg.offset]; omega)
  have hctl : ∀ m, m ≠ n → y.portCommitted m = x.portCommitted m := fun m hm => Chip.bit_of_reg (h _ (by simp only [Reg.offset]; omega)) _
  have hany : ∀ lo hi : Nat, ((pairs 10 4).any fun q => q.1 != n && y.portCommitted q.1 && y.bit (.PORT_CXL_BASE q.1 q.2) F.PORT_CXL_BASE_VALID
        && decide (lo ≤ y.fld (.PORT_CXL_LIMIT q.1 q.2) F.PORT_CXL_LIMIT_ADDR)
        && decide (y.fld (.PORT_CXL_BASE q.1 q.2) F.PORT_CXL_BASE_ADDR ≤ hi))
      = (pairs 10 4).any fun q => q.1 != n && x.portCommitted q.1 && x.bit (.PORT_CXL_BASE q.1 q.2) F.PORT_CXL_BASE_VALID
        && decide (lo ≤ x.fld (.PORT_CXL_LIMIT q.1 q.2) F.PORT_CXL_LIMIT_ADDR)
        && decide (x.fld (.PORT_CXL_BASE q.1 q.2) F.PORT_CXL_BASE_ADDR ≤ hi) := fun lo hi => by
    refine any_congr_mem fun q hq => ?_
    obtain ⟨i, hi, hq⟩ := List.mem_flatMap.1 hq
    obtain ⟨k, hk, rfl⟩ := List.mem_map.1 hq
    have hk : k < 4 := List.mem_range.1 hk
    by_cases hne : i = n
    · simp [hne]
    · simp only [hctl i hne, Chip.bit_of_reg (hbase i k hk), Chip.fld_of_reg (hbase i k hk), Chip.fld_of_reg (hlimit i k hk)]
  simp only [Chip.cxlBad, Chip.bit_of_reg (hbase n j hj), Chip.fld_of_reg (hbase n j hj), Chip.fld_of_reg (hlimit n j hj), hany]

theorem Chip.portCommitBad_of_ctl {x y : Chip} {n : Nat} (h : ∀ q : Reg, q.offset ≠ (Reg.PORT_CTL n).offset → y.reg q = x.reg q) :
    y.portCommitBad n = x.portCommitBad n := by
  have hcfg : y.reg (.PORT_CFG n) = x.reg (.PORT_CFG n) := h _ (by simp only [Reg.offset]; omega)
  have hep : ∀ j, j < 4 → y.reg (.PORT_EP_CFG n j) = x.reg (.PORT_EP_CFG n j) := fun j hj => h _ (by simp only [Reg.offset]; omega)
  have hcxl : (List.range 4).any (fun j => y.cxlBad n j) = (List.range 4).any (fun j => x.cxlBad n j) :=
    any_congr_mem fun j hj => Chip.cxlBad_of_ctl h (List.mem_range.1 hj)
  have hvfs : (List.range 4).any (fun j => y.isEp n j && decide (y.fnRange n ≤ y.fld (.PORT_EP_CFG n j) F.PORT_EP_CFG_TOTAL_VFS))
      = (List.range 4).any (fun j => x.isEp n j && decide (x.fnRange n ≤ x.fld (.PORT_EP_CFG n j) F.PORT_EP_CFG_TOTAL_VFS)) :=
    any_congr_mem fun j hj => by
      rw [isEp_of_reg hcfg, Chip.fnRange, portCount_of_reg hcfg, Chip.fld_of_reg (hep j (List.mem_range.1 hj)), ← Chip.fnRange]
  rw [Chip.portCommitBad, Chip.fld_of_reg hcfg, hcxl, hvfs]
  simp only [isEp_of_reg hcfg, Chip.fld_of_reg hcfg]
  rw [Chip.portCommitBad]

theorem Chip.ctlStored_bad (c : Chip) (n : Nat) (v : Word) : (c.ctlStored n v).portCommitBad n = c.portCommitBad n :=
  Chip.portCommitBad_of_ctl fun _ hq => c.ctlStored_reg n v hq

theorem Chip.stationCtl_commit {c : Chip} {who : Who} (n : Nat) (h : who.sealed = true) :
    c.stationCtlWrite who n (F.PORT_CTL_COMMIT.put 0 1) = (c.ctlStored n (F.PORT_CTL_COMMIT.put 0 1)).portCommit n := by
  have h1 : F.PORT_CTL_COMMIT.get (F.PORT_CTL_COMMIT.put 0 1) = 1 := by decide
  have h2 : F.PORT_CTL_RESTART.get (F.PORT_CTL_COMMIT.put 0 1) = 0 := by decide
  simp only [Chip.stationCtlWrite, h, h1, h2, bitAt, Nat.zero_testBit, Bool.not_true, Bool.and_false, Bool.false_eq_true, if_false, if_true]
  rfl

/-- What of RESTART a write with one bit names. -/
theorem restartBit {j : Nat} (hj : j < 4) : F.PORT_CTL_COMMIT.get (F.PORT_CTL_RESTART.put 0 (2 ^ j)) = 0
    ∧ F.PORT_CTL_RESTART.get (F.PORT_CTL_RESTART.put 0 (2 ^ j)) = 2 ^ j := by
  revert j
  decide

theorem forUpTo_one {α : Type} (f : Nat → α → α) {j : Nat} (hj : j < 4) (a : α) :
    forUpTo 4 (fun i x => if bitAt (2 ^ j) i then f i x else x) a = f j a := by
  obtain rfl | rfl | rfl | rfl : j = 0 ∨ j = 1 ∨ j = 2 ∨ j = 3 := by omega
  all_goals rfl

theorem Chip.stationCtl_restart {c : Chip} {who : Who} (n : Nat) {j : Nat} (hj : j < 4) (h : who.sealed = true) :
    c.stationCtlWrite who n (F.PORT_CTL_RESTART.put 0 (2 ^ j)) = (c.ctlStored n (F.PORT_CTL_RESTART.put 0 (2 ^ j))).restartPort n j := by
  obtain ⟨h1, h2⟩ := restartBit hj
  simp only [Chip.stationCtlWrite, h, h1, h2, Bool.not_true, Bool.and_false, Bool.false_eq_true, if_false]
  exact forUpTo_one (fun i (x : Chip) => x.restartPort n i) hj _

theorem Chip.stationCtl_refused {c : Chip} {who : Who} (n : Nat) {v : Word} (h : who.sealed = false)
    (hv : F.PORT_CTL_COMMIT.get v = 1 ∨ F.PORT_CTL_RESTART.get v ≠ 0) : c.stationCtlWrite who n v = c.refuseWrite who (.PORT_CTL n) := by
  simp only [Chip.stationCtlWrite]
  rw [if_pos]
  rcases hv with hv | hv <;> simp [h, hv]

theorem portCommit_cases (s : State) (who : Who) (n : Nat) (hn : n < 10) :
    (who.sealed = true → s.chip.portCommitted n = false → s.chip.portCommitBad n = false →
      ∃ t, exec (.portCommit who n) s = .next t ∧ t.chip.portCommitted n = true)
    ∧ (who.sealed = true → s.chip.portCommitted n = false → s.chip.portCommitBad n = true →
      ∃ t, exec (.portCommit who n) s = .next t ∧ t.chip.portCommitted n = false
        ∧ t.chip.bit (.PORT_CTL n) F.PORT_CTL_COMMIT_ERR = true)
    ∧ (who.sealed = false → Gives (.portCommit who n) s (s.chip.refuseWrite who (.PORT_CTL n))) := by
  have hdoes : Gives (.portCommit who n) s (s.chip.stationCtlWrite who n (F.PORT_CTL_COMMIT.put 0 1)) :=
    gives_of_onChip rfl (decide_eq_true hn) rfl
  refine ⟨fun hw hc hb => ⟨_, hdoes, ?_⟩, fun hw hc hb => ⟨_, hdoes, ?_⟩, fun hw => hdoes.congr ?_⟩
  · dsimp only
    rw [Chip.stationCtl_commit n hw, Chip.portCommit, Chip.ctlStored_committed, Chip.ctlStored_bad, hc, hb]
    exact Chip.bit_setBit _ _ _ _ (by decide) (by decide)
  · dsimp only
    rw [Chip.stationCtl_commit n hw, Chip.portCommit, Chip.ctlStored_committed, Chip.ctlStored_bad, hc, hb]
    refine ⟨?_, Chip.bit_setBit _ _ _ _ (by decide) (by decide)⟩
    exact (Chip.bit_setBit_apart _ _ _ (by decide)).trans ((Chip.ctlStored_committed _ n _).trans hc)
  · exact Chip.stationCtl_refused n hw (.inl (by decide))

theorem Chip.setStopped_stopped (c : Chip) (n : Nat) {j : Nat} (hj : j < 4) (b : Bool) : (c.setStopped n j b).stopped n j = b := by
  have hb := bitAt_withBit (c.fld (.PORT_CTL n) F.PORT_CTL_STOPPED) j b j
  rw [bitAt, if_pos rfl] at hb
  rw [Chip.stopped, Chip.setStopped, Chip.fld_setFld _ _ _ _ (by decide) (by decide), bitAt, Nat.testBit_mod_two_pow,
    decide_eq_true (show j < F.PORT_CTL_STOPPED.width from hj), Bool.true_and, hb]

section
variable (s : State) {n j : Nat} (hn : n < 10) (hj : j < 4)
include hn hj

theorem portOk_of_lt : portOk n j = true := by simp [portOk, hn, hj]

theorem Chip.restartPort_runs {c : Chip} (h : c.stopped n j = true) :
    (c.restartPort n j).stopped n j = false ∧ ((c.restartPort n j).port n j).linkDis = false := by
  rw [Chip.restartPort, if_pos h]
  refine ⟨?_, by rw [Chip.portEvent_port, Chip.port_onPort]⟩
  rw [Chip.stopped, Chip.fld_of_reg (Chip.portEvent_station hn hj _ (by decide) (by simp only [Reg.offset]; omega))]
  exact Chip.setStopped_stopped c n hj false

theorem restart_cases (who : Who) :
    (who.sealed = true → s.chip.stopped n j = true → ∃ t, exec (.restart who n j) s = .next t
        ∧ t.chip.stopped n j = false ∧ (t.chip.port n j).linkDis = false)
      ∧ (who.sealed = false → Gives (.restart who n j) s (s.chip.refuseWrite who (.PORT_CTL n))) := by
  have hdoes : Gives (.restart who n j) s (s.chip.stationCtlWrite who n (F.PORT_CTL_RESTART.put 0 (2 ^ j))) :=
    gives_of_onChip rfl (portOk_of_lt hn hj) rfl
  refine ⟨fun hw hs => ⟨_, hdoes, ?_⟩, fun hw => hdoes.congr ?_⟩
  · dsimp only
    rw [Chip.stationCtl_restart n hj hw]
    exact Chip.restartPort_runs hn hj ((Chip.ctlStored_stopped ..).trans hs)
  · refine Chip.stationCtl_refused n hw (.inr ?_)
    rw [(restartBit hj).2]
    exact (Nat.two_pow_pos j).ne'

-- links

omit hn hj in
/-- PORT_STATUS of a link that has trained. -/
def Chip.linkRuns (c : Chip) (n j rate width : Nat) (flit cxl : Bool) : Chip :=
  ((((c.setBit (.PORT_STATUS n j) F.PORT_STATUS_LINK_UP true).setFld (.PORT_STATUS n j) F.PORT_STATUS_RATE rate).setFld (.PORT_STATUS n j)
    F.PORT_STATUS_WIDTH width).setBit (.PORT_STATUS n j) F.PORT_STATUS_FLIT (flit || rate == 6)).setBit (.PORT_STATUS n j)
    F.PORT_STATUS_CXL_UP (cxl && !c.isEp n j && bitAt (c.fld (.PORT_CFG n) F.PORT_CFG_CXL) j)

omit hn hj in
theorem Chip.linkRuns_status (c : Chip) {rate width : Nat} (flit cxl : Bool) (hr : rate < 8) (hw : width ≤ 16) :
    let x := c.linkRuns n j rate width flit cxl
    x.linkUp n j = true ∧ x.fld (.PORT_STATUS n j) F.PORT_STATUS_RATE = rate ∧ x.fld (.PORT_STATUS n j) F.PORT_STATUS_WIDTH = width
      ∧ x.bit (.PORT_STATUS n j) F.PORT_STATUS_FLIT = (flit || rate == 6) := by
  refine ⟨?_, ?_, ?_, ?_⟩
  · rw [Chip.linkUp, Chip.linkRuns, Chip.bit_setBit_apart _ _ _ (by decide), Chip.bit_setBit_apart _ _ _ (by decide),
      Chip.bit_setFld_apart _ _ _ (by decide), Chip.bit_setFld_apart _ _ _ (by decide), Chip.bit_setBit _ _ _ _ (by decide) (by decide)]
  · rw [Chip.linkRuns, Chip.fld_setBit_apart _ _ _ (by decide), Chip.fld_setBit_apart _ _ _ (by decide),
      Chip.fld_setFld_apart _ _ _ (by decide), Chip.fld_setFld_of_lt _ _ _ (by decide) (by decide) hr]
  · rw [Chip.linkRuns, Chip.fld_setBit_apart _ _ _ (by decide), Chip.fld_setBit_apart _ _ _ (by decide),
      Chip.fld_setFld_of_lt _ _ _ (by decide) (by decide) (Nat.lt_of_le_of_lt hw (by decide))]
  · rw [Chip.linkRuns, Chip.bit_setBit_apart _ _ _ (by decide), Chip.bit_setBit _ _ _ _ (by decide) (by decide)]

/-- A trained link reads as its training left it. -/
theorem Chip.linkTrain_status {c : Chip} {rate width : Nat} {flit cxl : Bool} (hc : c.portCommitted n = true) (hf : c.portFormed n j = true)
    (hs : c.stopped n j = false) (hl : c.linkUp n j = false) (hd : (c.port n j).linkDis = false) (hp : (c.port n j).dpc = false)
    (hi : (c.port n j).perst = false) (ho : c.isEp n j = true ∨ (c.port n j).perstHigh = true) (hr : 1 ≤ rate) (hr' : rate ≤ c.maxRate n)
    (hw : 1 ≤ width) (hw' : width ≤ c.portWidth n) {q : Reg} (hq : 0x4000000 ≤ q.offset) :
    (c.linkTrain n j rate width flit cxl).reg q = (c.linkRuns n j rate width flit cxl).reg q := by
  have hgo : (!c.portCommitted n || !c.portFormed n j || c.stopped n j || c.linkUp n j || (c.port n j).linkDis || (c.port n j).dpc
      || (c.port n j).perst || (!c.isEp n j && !(c.port n j).perstHigh) || rate == 0 || decide (c.maxRate n < rate) || width == 0
      || decide (c.portWidth n < width)) = false := by
    have ho : (!c.isEp n j && !(c.port n j).perstHigh) = false := by rcases ho with h | h <;> simp [h]
    rw [hc, hf, hs, hl, hd, hp, hi, ho, decide_eq_false (Nat.not_lt.2 hr'), decide_eq_false (Nat.not_lt.2 hw')]
    simp
    omega
  have hevent : ((c.linkRuns n j rate width flit cxl).portEvent n j 0).reg q = (c.linkRuns n j rate width flit cxl).reg q :=
    Chip.portEvent_station hn hj _ (by decide) hq
  have htrain : c.linkTrain n j rate width flit cxl = if ((c.linkRuns n j rate width flit cxl).portEvent n j 0).isRoot n j
      then ((c.linkRuns n j rate width flit cxl).portEvent n j 0).slotStatus n j 12 (orBits 0x100)
      else (c.linkRuns n j rate width flit cxl).portEvent n j 0 := if_neg (by rw [hgo]; decide)
  rw [htrain]
  split
  · exact (Chip.slotStatus_station hn hj _ _ _ hq).trans hevent
  · exact hevent

theorem portLinkUp_cases (rate width : Nat) (flit cxl : Bool) (hr : rate < 8) (hw : width ≤ 16) :
    (s.chip.portCommitted n = true → s.chip.portFormed n j = true → s.chip.stopped n j = false → s.chip.linkUp n j = false →
        (s.chip.port n j).linkDis = false → (s.chip.port n j).dpc = false → (s.chip.port n j).perst = false →
        s.chip.isEp n j = true ∨ (s.chip.port n j).perstHigh = true → 1 ≤ rate → rate ≤ s.chip.maxRate n → 1 ≤ width →
        width ≤ s.chip.portWidth n → ∃ t, exec (.portLinkUp n j rate width flit cxl) s = .next t
          ∧ t.chip.linkUp n j = true ∧ t.chip.fld (.PORT_STATUS n j) F.PORT_STATUS_RATE = rate
          ∧ t.chip.fld (.PORT_STATUS n j) F.PORT_STATUS_WIDTH = width
          ∧ t.chip.bit (.PORT_STATUS n j) F.PORT_STATUS_FLIT = (flit || rate == 6))
      ∧ (s.chip.stopped n j = true ∨ (s.chip.isEp n j = false ∧ (s.chip.port n j).perstHigh = false) ∨ s.chip.maxRate n < rate
        ∨ s.chip.portWidth n < width → Gives (.portLinkUp n j rate width flit cxl) s s.chip) := by
  have hdoes : Gives (.portLinkUp n j rate width flit cxl) s (s.chip.linkTrain n j rate width flit cxl) :=
    gives_of_onChip rfl (by simp [portOk_of_lt hn hj, hr, hw]) rfl
  refine ⟨fun hc hf hs hl hd hp hi ho hr1 hr2 hw1 hw2 => ⟨_, hdoes, ?_⟩, fun h => hdoes.congr (if_pos ?_)⟩
  · have hreg := Chip.linkTrain_status (flit := flit) (cxl := cxl) hn hj hc hf hs hl hd hp hi ho hr1 hr2 hw1 hw2 (q := .PORT_STATUS n j)
      (by simp only [Reg.offset]; omega)
    have hruns := s.chip.linkRuns_status (n := n) (j := j) flit cxl hr hw
    dsimp only at hruns ⊢
    rw [Chip.linkUp, Chip.bit_of_reg hreg, Chip.fld_of_reg hreg, Chip.fld_of_reg hreg, Chip.bit_of_reg hreg]
    exact hruns
  · rcases h with h | ⟨h, h'⟩ | h | h
    · simp [h]
    · simp [h, h']
    · simp [h]
    · simp [h]

theorem portLinkDown_cases :
    (s.chip.linkUp n j = true → ∃ t, exec (.portLinkDown n j) s = .next t ∧ t.chip.linkUp n j = false
      ∧ (t.chip.port n j).outst = [] ∧ (t.chip.port n j).retired = [] ∧ t.chip.fld (.PORT_ERR n j) F.PORT_ERR_RETIRED = 0)
    ∧ (s.chip.linkUp n j = false → Gives (.portLinkDown n j) s s.chip) := by
  have hdoes : Gives (.portLinkDown n j) s (s.chip.linkLoss n j) := gives_of_onChip rfl (portOk_of_lt hn hj) rfl
  refine ⟨fun h => ⟨_, hdoes, Chip.linkLoss_down hn hj _, ?_⟩, fun h => hdoes.congr (Chip.linkLoss_of_down h)⟩
  obtain ⟨w, hw⟩ := Chip.linkLoss_port h
  rw [hw]
  exact ⟨rfl, rfl, Chip.linkLoss_retired hn hj h⟩

-- the slot

theorem slotControlWrite_cases (v : Word) :
    (s.chip.isRoot n j = true → Gives (.slotControlWrite n j v) s
        (s.chip.onPort n j (fun x => { x with slotCtl := v &&& 0x1FFF, cut := x.cut && !bitAt v.toNat 10 })))
      ∧ (s.chip.isRoot n j = false → Gives (.slotControlWrite n j v) s s.chip) := by
  have hdoes : Gives (.slotControlWrite n j v) s (s.chip.slotControl n j v) := gives_of_onChip rfl (portOk_of_lt hn hj) rfl
  exact ⟨fun h => hdoes.congr (if_neg (by simp [h])), fun h => hdoes.congr (if_pos (by simp [h]))⟩

omit hn hj in
/-- The slot's power has not come good in time. -/
def Chip.powerFault (c : Chip) (n j : Nat) : Chip :=
  (((c.onPort n j (fun s => { s with slotSts := orBits 2 s.slotSts })).portEvent n j 1).onPort n j (fun s =>
    { s with cut := true, perstHigh := false, pwrAt := none }))

omit hn hj in
theorem Chip.powerFault_port (c : Chip) (n j : Nat) : (c.powerFault n j).port n j =
    { c.port n j with slotSts := orBits 2 (c.port n j).slotSts, cut := true, perstHigh := false, pwrAt := none } := by
  rw [Chip.powerFault, Chip.port_onPort, Chip.portEvent_port, Chip.port_onPort]

omit hn hj in
theorem Chip.pwrGoodLate_of_waits {c : Chip} {b : Nat} (hp : (c.port n j).pwrAt = some b) (hg : (c.port n j).goodAt = none) :
    c.pwrGoodLate n j = if b + 500000000 ≤ c.now then c.powerFault n j else c := by
  simp only [Chip.pwrGoodLate, hp, hg]
  rfl

omit hn hj in
theorem Chip.pwrGoodLate_of_good {c : Chip} {g : Nat} (hg : (c.port n j).goodAt = some g) : c.pwrGoodLate n j = c := by
  unfold Chip.pwrGoodLate
  split
  · next h => cases hg.symm.trans h
  · rfl

theorem pwrGoodTimeout_does : Gives (.pwrGoodTimeout n j) s (s.chip.pwrGoodLate n j) := gives_of_onChip rfl (portOk_of_lt hn hj) rfl

theorem pwrGoodTimeout_cases (b : Nat) (hp : (s.chip.port n j).pwrAt = some b) (hg : (s.chip.port n j).goodAt = none) :
    (b + 500000000 ≤ s.chip.now → ∃ t, exec (.pwrGoodTimeout n j) s = .next t
        ∧ (t.chip.port n j).slotSts = (s.chip.port n j).slotSts ||| 2 ∧ (t.chip.port n j).cut = true ∧ (t.chip.port n j).perstHigh = false)
      ∧ (s.chip.now < b + 500000000 → Gives (.pwrGoodTimeout n j) s s.chip) := by
  have hdoes := pwrGoodTimeout_does s hn hj
  rw [Chip.pwrGoodLate_of_waits hp hg] at hdoes
  refine ⟨fun h => ⟨_, hdoes.congr (if_pos h), ?_⟩, fun h => hdoes.congr (if_neg (Nat.not_le.2 h))⟩
  dsimp only
  rw [Chip.powerFault_port]
  exact ⟨rfl, rfl, rfl⟩

theorem perstRelease_cases (g : Nat) (hg : (s.chip.port n j).goodAt = some g) :
    (g + 100000000 ≤ s.chip.now → Gives (.perstRelease n j) s (s.chip.onPort n j (fun x => { x with perstHigh := true })))
      ∧ (s.chip.now < g + 100000000 → Gives (.perstRelease n j) s s.chip) ∧ Gives (.pwrGoodTimeout n j) s s.chip := by
  have hrel : s.chip.perstRelease n j = if g + 100000000 ≤ s.chip.now then s.chip.onPort n j (fun x => { x with perstHigh := true })
      else s.chip := by
    simp only [Chip.perstRelease, hg]
  have hdoes : Gives (.perstRelease n j) s (s.chip.perstRelease n j) := gives_of_onChip rfl (portOk_of_lt hn hj) rfl
  rw [hrel] at hdoes
  exact ⟨fun h => hdoes.congr (if_pos h), fun h => hdoes.congr (if_neg (Nat.not_le.2 h)),
    (pwrGoodTimeout_does s hn hj).congr (Chip.pwrGoodLate_of_good hg)⟩

-- timeouts and late completions

omit hn hj in
theorem Chip.aerLog_port (c : Chip) (n j b : Nat) :
    (c.aerLog n j b).port n j = { c.port n j with aer := withBit (c.port n j).aer b true } := by
  unfold Chip.aerLog
  dsimp only
  split
  · rw [Chip.portEvent_port, Chip.port_onPort]
  · rw [Chip.port_onPort]

theorem Chip.aerLog_station (c : Chip) (b : Nat) {q : Reg} (h : 0x4000000 ≤ q.offset) : (c.aerLog n j b).reg q = c.reg q := by
  unfold Chip.aerLog
  dsimp only
  split
  · exact Chip.portEvent_station hn hj _ (by decide) h
  · rfl

omit hn hj in
/-- A counter of 16 bits goes up by one and stays at its top. -/
theorem Chip.bump_count (c : Chip) (r : Reg) {f : Field} (hf : f.hi < 64) (hlo : f.lo ≤ f.hi) (hw : f.width = 16) :
    (c.bump r f).fld r f = min (c.fld r f + 1) 65535 := by
  have hm : 2 ^ f.width - 1 = 65535 := by rw [hw]; rfl
  rw [Chip.bump, Chip.fld_setFld_of_lt _ _ _ hf hlo (by rw [hm, hw]; omega), hm]

omit hn hj in
/-- The request times out: its tag is retired, the error is logged and counted, and reported. -/
def Chip.timedOut (c : Chip) (n j tag : Nat) (q : PortReq) : Chip :=
  (((((c.onPort n j (fun s => { s with outst := s.outst.filter (fun x => x.tag != tag), retired := s.retired ++ [tag] })).replyTo q 3).aerLog
    n j 14).bump (.PORT_ERR n j) F.PORT_ERR_CT_COUNT).portError n j 2 q.who.rid q.who.world q.acc q.addr).noteRetired n j

omit hn hj in
theorem Chip.noteRetired_port (c : Chip) (n j : Nat) : (c.noteRetired n j).port n j = c.port n j := (rfl)

omit hn hj in
theorem Chip.timedOut_port (c : Chip) (n j tag : Nat) (q : PortReq) : ∃ a, (c.timedOut n j tag q).port n j =
    { c.port n j with outst := (c.port n j).outst.filter (fun x => x.tag != tag), retired := (c.port n j).retired ++ [tag], aer := a } :=
  ⟨_, by rw [Chip.timedOut, Chip.noteRetired_port, Chip.portError_port, Chip.bump, Chip.setFld_port, Chip.aerLog_port, Chip.replyTo_port,
    Chip.port_onPort]⟩

theorem Chip.timedOut_count (c : Chip) (tag : Nat) (q : PortReq) : (c.timedOut n j tag q).fld (.PORT_ERR n j) F.PORT_ERR_CT_COUNT =
    min (c.fld (.PORT_ERR n j) F.PORT_ERR_CT_COUNT + 1) 65535 := by
  rw [Chip.timedOut, Chip.noteRetired, Chip.fld_setFld_apart _ _ _ (by decide), Chip.fld_of_reg (Chip.portError_reg ..),
    Chip.bump_count _ _ (by decide) (by decide) (by decide),
    Chip.fld_of_reg (Chip.aerLog_station hn hj _ _ (by simp only [Reg.offset]; omega)), Chip.fld_of_reg (Chip.replyTo_reg ..),
    Chip.fld_of_reg (Chip.onPort_reg ..)]

omit hn hj in
theorem Chip.cplTimeout_eq {c : Chip} {tag : Nat} {q : PortReq} (h : (c.port n j).outst.find? (fun x => x.tag == tag) = some q) :
    c.cplTimeout n j tag = if q.at_ + 1000 * c.fld (.PORT_CT n j) F.PORT_CT_CT_US ≤ c.now then
      (if ((c.timedOut n j tag q).port n j).retired.length = 513 then (c.timedOut n j tag q).portError n j 11 else c.timedOut n j tag q)
      else c := by
  simp only [Chip.cplTimeout, h]
  rfl

theorem completionTimeout_cases (tag : Nat) (q : PortReq) (ht : tag < 768)
    (hq : (s.chip.port n j).outst.find? (fun x => x.tag == tag) = some q) :
    (q.at_ + 1000 * s.chip.fld (.PORT_CT n j) F.PORT_CT_CT_US ≤ s.chip.now →
        ∃ t, exec (.completionTimeout n j tag) s = .next t
          ∧ t.chip.fld (.PORT_ERR n j) F.PORT_ERR_CT_COUNT = min (s.chip.fld (.PORT_ERR n j) F.PORT_ERR_CT_COUNT + 1) 65535
          ∧ tag ∈ (t.chip.port n j).retired ∧ ∀ x ∈ (t.chip.port n j).outst, x.tag ≠ tag)
      ∧ (s.chip.now < q.at_ + 1000 * s.chip.fld (.PORT_CT n j) F.PORT_CT_CT_US → Gives (.completionTimeout n j tag) s s.chip) := by
  have hdoes : Gives (.completionTimeout n j tag) s (s.chip.cplTimeout n j tag) :=
    gives_of_onChip rfl (by simp [portOk_of_lt hn hj, ht]) rfl
  rw [Chip.cplTimeout_eq hq] at hdoes
  refine ⟨fun h => ⟨_, hdoes.congr (if_pos h), ?_⟩, fun h => hdoes.congr (if_neg (Nat.not_le.2 h))⟩
  have hsame : ∀ x : Chip, x = (if ((s.chip.timedOut n j tag q).port n j).retired.length = 513
      then (s.chip.timedOut n j tag q).portError n j 11 else s.chip.timedOut n j tag q) →
      x.port n j = (s.chip.timedOut n j tag q).port n j ∧ x.reg (.PORT_ERR n j) = (s.chip.timedOut n j tag q).reg (.PORT_ERR n j) :=
    fun x hx => by
      rw [hx]
      split
      · exact ⟨Chip.portError_port .., Chip.portError_reg ..⟩
      · exact ⟨rfl, rfl⟩
  obtain ⟨hport, hreg⟩ := hsame _ rfl
  obtain ⟨a, ha⟩ := s.chip.timedOut_port n j tag q
  dsimp only
  rw [Chip.fld_of_reg hreg, hport, ha]
  exact ⟨Chip.timedOut_count hn hj _ _ _, List.mem_append_right _ List.mem_cons_self, fun x hx => by simpa using (List.mem_filter.1 hx).2⟩

theorem lateCompletion_cases (tag : Nat) (ht : tag < 768) :
    (tag ∈ (s.chip.port n j).retired → ∃ t, exec (.lateCompletion n j tag) s = .next t ∧ tag ∉ (t.chip.port n j).retired
        ∧ t.chip.fld (.PORT_ERR n j) F.PORT_ERR_LATE_CPL = min (s.chip.fld (.PORT_ERR n j) F.PORT_ERR_LATE_CPL + 1) 65535)
      ∧ (tag ∉ (s.chip.port n j).retired → Gives (.lateCompletion n j tag) s s.chip) := by
  have hdoes : Gives (.lateCompletion n j tag) s (s.chip.cplLate n j tag) := gives_of_onChip rfl (by simp [portOk_of_lt hn hj, ht]) rfl
  refine ⟨fun h => ⟨_, hdoes.congr (if_pos (List.contains_iff_mem.2 h)), ?_, ?_⟩,
    fun h => hdoes.congr (if_neg (by rwa [List.contains_iff_mem]))⟩
  · dsimp only
    rw [Chip.noteRetired_port, Chip.portError_port, Chip.bump, Chip.setFld_port, Chip.aerLog_port, Chip.port_onPort]
    simp
  · dsimp only
    rw [Chip.noteRetired, Chip.fld_setFld_apart _ _ _ (by decide), Chip.fld_of_reg (Chip.portError_reg ..),
      Chip.bump_count _ _ (by decide) (by decide) (by decide),
      Chip.fld_of_reg (Chip.aerLog_station hn hj _ _ (by simp only [Reg.offset]; omega)), Chip.fld_of_reg (Chip.onPort_reg ..)]

-- messages from below a root port

omit hn hj in
/-- An error message is logged and reported. -/
def Chip.aerNoted (c : Chip) (n j : Nat) (fatal : Bool) : Chip :=
  (((c.aerLog n j 34).aerLog n j (if fatal then 38 else 37)).portEvent n j 4).portError n j (if fatal then 8 else 9)

omit hn hj in
theorem Chip.aerMessage_of_root {c : Chip} (h : c.isRoot n j = true) (fatal : Bool) : c.aerMessage n j fatal =
    if (fatal && c.dpcOn n j != 0) || c.dpcOn n j == 2 then (c.aerNoted n j fatal).dpcTrigger n j else c.aerNoted n j fatal := by
  simp only [Chip.aerMessage, h, Bool.not_true, Bool.false_eq_true, if_false]
  rfl

omit hn hj in
theorem Chip.aerNoted_dpcOn (c : Chip) (n j : Nat) (fatal : Bool) : (c.aerNoted n j fatal).dpcOn n j = c.dpcOn n j := by
  rw [Chip.dpcOn, Chip.aerNoted, Chip.portError_port, Chip.portEvent_port, Chip.aerLog_port, Chip.aerLog_port]
  rfl

omit hn hj in
/-- DPC that is enabled triggers. -/
theorem Chip.dpcTrigger_dpc {c : Chip} (h : c.dpcOn n j ≠ 0) : ((c.dpcTrigger n j).port n j).dpc = true := by
  unfold Chip.dpcTrigger
  split
  · next h' => exact h'.resolve_left h
  · rw [Chip.portEvent_port, Chip.linkLoss_dpc, Chip.port_onPort]

theorem aerErrorMessage_root (h : s.chip.isRoot n j = true) (fatal : Bool) :
    (s.chip.dpcOn n j = 0 → Gives (.aerErrorMessage n j fatal) s (s.chip.aerNoted n j fatal))
    ∧ (s.chip.dpcOn n j = 2 ∨ (fatal = true ∧ s.chip.dpcOn n j ≠ 0) →
      ∃ t, exec (.aerErrorMessage n j fatal) s = .next t ∧ (t.chip.port n j).dpc = true) := by
  have hdoes : Gives (.aerErrorMessage n j fatal) s (s.chip.aerMessage n j fatal) := gives_of_onChip rfl (portOk_of_lt hn hj) rfl
  rw [Chip.aerMessage_of_root h] at hdoes
  refine ⟨fun h0 => hdoes.congr (if_neg (by simp [h0])), fun h2 => ⟨_, hdoes.congr (if_pos ?_), Chip.dpcTrigger_dpc ?_⟩⟩
  · rcases h2 with h2 | ⟨h2, h3⟩
    · simp [h2]
    · simp [h2, h3]
  · rw [Chip.aerNoted_dpcOn]
    rcases h2 with h2 | ⟨h2, h3⟩
    · simp [h2]
    · exact h3

theorem rootMessages_cases :
    (s.chip.isRoot n j = true → Gives (.intxReceived n j) s (s.chip.bump (.PORT_ERR n j) F.PORT_ERR_INTX_DROPS)
      ∧ Gives (.pmeReceived n j) s (s.chip.portEvent n j 3)
      ∧ ∀ fatal : Bool, (s.chip.dpcOn n j = 0 → Gives (.aerErrorMessage n j fatal) s (s.chip.aerNoted n j fatal))
        ∧ (s.chip.dpcOn n j = 2 ∨ (fatal = true ∧ s.chip.dpcOn n j ≠ 0) →
          ∃ t, exec (.aerErrorMessage n j fatal) s = .next t ∧ (t.chip.port n j).dpc = true))
    ∧ (s.chip.isRoot n j = false → Gives (.intxReceived n j) s s.chip ∧ Gives (.pmeReceived n j) s s.chip
      ∧ ∀ fatal : Bool, Gives (.aerErrorMessage n j fatal) s s.chip) := by
  have hok := portOk_of_lt hn hj
  refine ⟨fun h => ⟨gives_of_onChip rfl hok (if_pos h), gives_of_onChip rfl hok (if_pos h), aerErrorMessage_root s hn hj h⟩,
    fun h => ⟨gives_of_onChip rfl hok (if_neg (by simp [h])), gives_of_onChip rfl hok (if_neg (by simp [h])), fun fatal =>
      gives_of_onChip rfl hok (if_pos (by simp [h]))⟩⟩

-- PERST_IN_N

omit hn hj in
/-- Every function of an endpoint port begins its reset. -/
theorem Chip.flrAll_keeps (l : List Nat) (hl : ∀ f ∈ l, f < 256) (c : Chip) :
    c.FlrKeeps n (l.foldl (fun (x : Chip) f => x.flrStart n f) c) :=
  foldl_flrKeeps l (fun x f hf => x.flrStart_keeps (hl f hf)) c

omit hn hj in
theorem Chip.noteWake_reg (c : Chip) (n : Nat) (q : Reg) : (c.noteWake n).reg q = c.reg q := (rfl)

omit hn hj in
theorem Chip.noteWake_port (c : Chip) (n m j : Nat) : (c.noteWake n).port m j = c.port m j := (rfl)

omit hn hj in
/-- A port at D3cold, its link down. -/
def Chip.perstDown (c : Chip) (n j : Nat) : Chip := (c.onPort n j (fun s => { s with perst := true })).linkLoss n j

omit hn hj in
theorem Chip.perstFall_of_high {c : Chip} (hc : c.portCommitted n = true) (he : c.isEp n j = true) (hp : (c.port n j).perst = false) :
    c.perstFall n j = ((((c.perstDown n j).portFns n j).filter (fun f => (c.perstDown n j).epFn n f)).foldl
      (fun (x : Chip) f => x.flrStart n f) (c.perstDown n j)).noteWake n := by
  simp only [Chip.perstFall, hc, he, hp, Bool.not_true, Bool.or_self, Bool.false_eq_true, if_false]
  rfl

omit hn hj in
theorem Chip.perstFall_of_low {c : Chip} (h : (!c.portCommitted n || !c.isEp n j || (c.port n j).perst) = true) : c.perstFall n j = c :=
  if_pos h

theorem Chip.perstDown_offLoss (c : Chip) {q : Reg} (h : q.offLoss n) : (c.perstDown n j).reg q = c.reg q := by
  rw [Chip.perstDown, Chip.linkLoss_offLoss hn hj _ h, Chip.onPort_reg]

/-- The functions of a formed port that goes to D3cold. -/
theorem Chip.perstDown_fns {c : Chip} (he : c.isEp n j = true) : ∀ f ∈ ((c.perstDown n j).portFns n j).filter
    (fun f => (c.perstDown n j).epFn n f), f < 256 := fun f hf => by
  have hcfg : (c.perstDown n j).reg (.PORT_CFG n) = c.reg (.PORT_CFG n) := Chip.perstDown_offLoss hn hj _
    ⟨fun i hi => by simp only [Reg.offset]; omega, fun e he => by simp only [Reg.offset]; omega⟩
  have hformed : (c.perstDown n j).portFormed n j = true := by
    rw [Chip.portFormed, portCount_of_reg hcfg, ← Chip.portFormed]
    exact (Bool.and_eq_true_iff.1 he).1
  exact Chip.portFns_lt _ hformed (List.mem_filter.1 hf).1

theorem perstInFall_does (hc : s.chip.portCommitted n = true) (he : s.chip.isEp n j = true) (hp : (s.chip.port n j).perst = false) :
    ∃ t, exec (.perstInFall n j) s = .next t ∧ (t.chip.port n j).perst = true ∧ t.chip.linkUp n j = false := by
  have hdoes : Gives (.perstInFall n j) s (s.chip.perstFall n j) := gives_of_onChip rfl (portOk_of_lt hn hj) rfl
  have hkeeps := Chip.flrAll_keeps (n := n) _ (Chip.perstDown_fns hn hj he) (s.chip.perstDown n j)
  obtain ⟨l, hl⟩ := hkeeps.port n j
  refine ⟨_, hdoes.congr (Chip.perstFall_of_high hc he hp), ?_, ?_⟩
  · dsimp only
    rw [Chip.noteWake_port, hl]
    dsimp only
    rw [Chip.perstDown, Chip.linkLoss_perst, Chip.port_onPort]
  · dsimp only
    rw [Chip.linkUp, Chip.bit_of_reg (Chip.noteWake_reg _ n _), Chip.bit_of_reg (hkeeps.reg _ (portStatus_offFlr hn hj))]
    exact Chip.linkLoss_down hn hj _

end

end Sys2Proof.Machine
end

section
/-! The slot sideband bus (R352 to R356), and O49. -/

namespace Sys2Proof.Machine

theorem forUpTo_each_of_lt {α : Type} {f : Nat → α → α} (P : Nat → α → Prop) (n : Nat) (a : α) (hown : ∀ k a, k < n → P k (f k a))
    (hkeep : ∀ j k a, j < n → k ≠ j → P k a → P k (f j a)) : ∀ k, k < n → P k (forUpTo n f a) := by
  have hmain : ∀ m, m ≤ n → ∀ k, k < m → P k (forUpTo m f a) := fun m => by
    induction m with
    | zero => intro _ k hk; omega
    | succ m ih =>
      intro hm k hk
      rw [forUpTo_succ]
      by_cases h : k = m
      · rw [h]
        exact hown m _ hm
      · exact hkeep m k _ hm h (ih (by omega) k (by omega))
  exact hmain n le_rfl

-- what leaves the slots' registers

section
variable {n j : Nat} (hn : n < 10) (hj : j < 4) {q : Reg} (hq : q.offLoss n)
include hn hj hq

theorem Chip.slotInput_reg (c : Chip) (inBit state changed en : Nat) : (c.slotInput n j inBit state changed en).reg q = c.reg q := by
  unfold Chip.slotInput
  split
  · rfl
  · split
    · rfl
    · exact Chip.slotStatus_offLoss hn hj _ _ _ hq

theorem Chip.attnInput_reg (c : Chip) : (c.attnInput n j).reg q = c.reg q := by
  unfold Chip.attnInput
  split
  · rfl
  · dsimp only
    split
    · exact Chip.slotStatus_offLoss hn hj _ _ _ hq
    · rfl

theorem Chip.dpcTrigger_reg (c : Chip) : (c.dpcTrigger n j).reg q = c.reg q := by
  unfold Chip.dpcTrigger
  split
  · rfl
  · rw [Chip.portEvent_offLoss hn hj _ (by decide) hq, Chip.linkLoss_offLoss hn hj _ hq, Chip.onPort_reg]

theorem Chip.slotShut_reg (c : Chip) : (c.slotShut n j).reg q = c.reg q := by
  rw [Chip.slotShut, Chip.linkLoss_offLoss hn hj _ hq, Chip.failOutstanding_reg, Chip.dpcTrigger_reg hn hj hq, Chip.onPort_reg]

theorem Chip.perstFall_reg (hf : q.offFlr n) (c : Chip) : (c.perstFall n j).reg q = c.reg q := by
  cases h : !c.portCommitted n || !c.isEp n j || (c.port n j).perst
  · simp only [Bool.or_eq_false_iff, Bool.not_eq_false'] at h
    obtain ⟨⟨hc, he⟩, hp⟩ := h
    rw [Chip.perstFall_of_high hc he hp, Chip.noteWake_reg,
      (Chip.flrAll_keeps (n := n) _ (Chip.perstDown_fns hn hj he) (c.perstDown n j)).reg _ hf, Chip.perstDown_offLoss hn hj _ hq]
  · rw [Chip.perstFall_of_low h]

omit hn hj hq in
/-- The in byte of a port is taken. -/
def Chip.slotTaken (c : Chip) (n j b : Nat) : Chip :=
  (c.onPort n j (fun s => { s with inHist := (b :: s.inHist).take 3, lastIn := b })).setFld (.PORT_SLOT n j) F.PORT_SLOT_IN b

/-- What an in byte brings about leaves the registers of the slots as taking the byte left them. -/
theorem Chip.slotByte_reg (hf : q.offFlr n) (c : Chip) (b : Nat) : (c.slotByte n j b).reg q = (c.slotTaken n j b).reg q := by
  have hinputs : (((c.slotTaken n j b).slotInput n j 0 6 3 3).slotInput n j 3 5 2 2 |>.attnInput n j).reg q = (c.slotTaken n j b).reg q := by
    rw [Chip.attnInput_reg hn hj hq, Chip.slotInput_reg hn hj hq, Chip.slotInput_reg hn hj hq]
  have hfault : ∀ x : Chip, ((x.slotStatus n j 1 (orBits 2)).slotShut n j).reg q = x.reg q := fun x => by
    rw [Chip.slotShut_reg hn hj hq, Chip.slotStatus_offLoss hn hj _ _ _ hq]
  have hgone : ∀ x : Chip, ((x.slotShut n j).portError n j 1).reg q = x.reg q := fun x => by
    rw [Chip.portError_reg, Chip.slotShut_reg hn hj hq]
  have hfall := Chip.perstFall_reg hn hj hq hf (c.slotTaken n j b)
  unfold Chip.slotTaken at hinputs hfall ⊢
  unfold Chip.slotByte
  dsimp only
  split
  · split
    · rfl
    · exact hfall
  · split
    · rfl
    · rw [Chip.onPort_reg]
      split
      · rw [hgone]
        split
        · rw [hfault, hinputs]
        · exact hinputs
      · split
        · rw [hfault, hinputs]
        · exact hinputs

end

-- the out bytes

theorem outBits_lt (s : PortSt) : s.outBits < 128 := by
  have hflag : ∀ b : Bool, flag b ≤ 1 := by decide
  have hbits : ∀ m : Nat, m % 4 ≤ 3 := fun m => by omega
  have h1 := hflag (!bitAt s.slotCtl.toNat 10 && !s.cut)
  have h2 := hflag (!bitAt s.slotCtl.toNat 10 && !s.cut && s.perstHigh)
  have h3 : bits s.slotCtl.toNat 9 8 ≤ 3 := hbits _
  have h4 : bits s.slotCtl.toNat 7 6 ≤ 3 := hbits _
  simp only [PortSt.outBits]
  omega

theorem Chip.outByte_lt (c : Chip) (n j : Nat) : c.outByte n j < 256 := by
  have hflag : ∀ b : Bool, flag b ≤ 1 := by decide
  have h1 := outBits_lt (c.port n j)
  have h2 := hflag (parityBit (c.port n j).outBits)
  unfold Chip.outByte
  split
  · dsimp only
    omega
  · decide

theorem outByte_of_same {x y : Chip} {n j : Nat} (h : y.reg (.PORT_CFG n) = x.reg (.PORT_CFG n))
    (h' : y.reg (.PORT_CTL n) = x.reg (.PORT_CTL n)) (hp : y.port n j = x.port n j) : y.outByte n j = x.outByte n j := by
  rw [Chip.outByte, isRoot_of_reg h h', hp, ← Chip.outByte]

/-- The out byte of one port is driven, in a frame that began at `now`. -/
def Chip.driveOut (now n j : Nat) (x : Chip) : Chip :=
  (x.setFld (.PORT_SLOT n j) F.PORT_SLOT_OUT (x.outByte n j)).onPort n j (fun s => { s with
    pwrAt := if (x.outByte n j).testBit 0 && x.isRoot n j then some (s.pwrAt.getD now) else none
    perstHigh := s.perstHigh && (x.outByte n j).testBit 0 })

theorem Chip.driveOut_reg_ne (x : Chip) (now n j : Nat) {q : Reg} (h : q.offset ≠ (Reg.PORT_SLOT n j).offset) : (x.driveOut now n j).reg q = x.reg q :=
  Chip.reg_setFld_ne x _ _ h

theorem Chip.driveOut_slot (x : Chip) (now n j k : Nat) {f : Field} (h : F.PORT_SLOT_OUT.apart f = true) :
    (x.driveOut now n j).fld (.PORT_SLOT n k) f = x.fld (.PORT_SLOT n k) f := by
  by_cases hk : k = j
  · rw [hk]
    exact Chip.fld_setFld_apart x _ _ h
  · exact Chip.fld_of_reg (x.driveOut_reg_ne _ n j (by simp only [Reg.offset]; omega)) _

theorem Chip.driveOut_out (x : Chip) (now n j : Nat) : (x.driveOut now n j).fld (.PORT_SLOT n j) F.PORT_SLOT_OUT = x.outByte n j :=
  Chip.fld_setFld_of_lt x _ _ (by decide) (by decide) (x.outByte_lt n j)

theorem Chip.driveOut_port_ne (x : Chip) (now : Nat) {n j k : Nat} (h : k ≠ j) : (x.driveOut now n j).port n k = x.port n k := Chip.port_onPort_ne _ h _

theorem Chip.driveOut_badRun (x : Chip) (now n j k : Nat) : ((x.driveOut now n j).port n k).badRun = (x.port n k).badRun := by
  by_cases h : k = j
  · rw [h, Chip.driveOut, Chip.port_onPort, Chip.setFld_port]
  · rw [x.driveOut_port_ne now h]

/-- The out bytes of the four ports are driven. -/
def Chip.driveAll (n : Nat) (c : Chip) : Chip := forUpTo 4 (fun j x => x.driveOut c.now n j) c

theorem Chip.driveAll_reg (c : Chip) (n : Nat) {q : Reg} (h : ∀ j, j < 4 → q.offset ≠ (Reg.PORT_SLOT n j).offset) :
    (c.driveAll n).reg q = c.reg q :=
  forUpTo_same_of_lt (f := fun j x => Chip.driveOut c.now n j x) (fun x : Chip => x.reg q) 4 (fun j hj x => x.driveOut_reg_ne _ n j (h j hj)) c

theorem Chip.driveAll_slot (c : Chip) (n k : Nat) {f : Field} (h : F.PORT_SLOT_OUT.apart f = true) :
    (c.driveAll n).fld (.PORT_SLOT n k) f = c.fld (.PORT_SLOT n k) f :=
  forUpTo_same (f := fun j x => Chip.driveOut c.now n j x) (fun x : Chip => x.fld (.PORT_SLOT n k) f) (fun j x => x.driveOut_slot _ n j k h) 4 c

theorem Chip.driveAll_badRun (c : Chip) (n k : Nat) : ((c.driveAll n).port n k).badRun = (c.port n k).badRun :=
  forUpTo_same (f := fun j x => Chip.driveOut c.now n j x) (fun x : Chip => (x.port n k).badRun) (fun j x => x.driveOut_badRun _ n j k) 4 c

/-- Driving the bytes of the first ports leaves the byte of the next one as it was. -/
theorem Chip.driveSome_outByte (c : Chip) (n : Nat) {i k : Nat} (hk : i ≤ k) :
    (forUpTo i (fun j x => Chip.driveOut c.now n j x) c).outByte n k = c.outByte n k := by
  refine outByte_of_same ?_ ?_ ?_
  · exact forUpTo_same_of_lt (fun x : Chip => x.reg (.PORT_CFG n)) i (fun j _ x => x.driveOut_reg_ne _ n j (by simp only [Reg.offset]; omega)) c
  · exact forUpTo_same_of_lt (fun x : Chip => x.reg (.PORT_CTL n)) i (fun j _ x => x.driveOut_reg_ne _ n j (by simp only [Reg.offset]; omega)) c
  · exact forUpTo_same_of_lt (fun x : Chip => x.port n k) i (fun j _ x => x.driveOut_port_ne _ (by omega)) c

theorem Chip.driveAll_out (c : Chip) (n : Nat) {k : Nat} (hk : k < 4) : (c.driveAll n).fld (.PORT_SLOT n k) F.PORT_SLOT_OUT = c.outByte n k := by
  have hmain : ∀ i, i ≤ 4 → k < i → (forUpTo i (fun j x => Chip.driveOut c.now n j x) c).fld (.PORT_SLOT n k) F.PORT_SLOT_OUT = c.outByte n k :=
    fun i => by
      induction i with
      | zero => intro _ h; omega
      | succ i ih =>
        intro hi hki
        rw [forUpTo_succ]
        by_cases h : k = i
        · rw [h, Chip.driveOut_out]
          exact Chip.driveSome_outByte c n le_rfl
        · rw [Chip.fld_of_reg (Chip.driveOut_reg_ne _ _ n i (by simp only [Reg.offset]; omega))]
          exact ih (by omega) (by omega)
  exact hmain 4 le_rfl hk

-- a frame

section
variable (s : State) {n : Nat} (hn : n < 10) (l : List Byte)

theorem Chip.ssbFrame_good {c : Chip} {n : Nat} {l : List Byte} (h : l.all parityOk = true) : c.ssbFrame n l =
    (forUpTo 4 (fun j x => x.slotByte n j (l.getD j 0).toNat) (c.driveAll n)).onPort n 0 (fun s => { s with badRun := 0 }) := by
  simp only [Chip.ssbFrame, if_pos h, Chip.driveAll, Chip.driveOut]

theorem Chip.slotTaken_reg_ne (c : Chip) {j k : Nat} (b : Nat) (h : k ≠ j) :
    (c.slotTaken n j b).reg (.PORT_SLOT n k) = c.reg (.PORT_SLOT n k) :=
  Chip.reg_setFld_ne (c.onPort n j _) _ _ (by simp only [Reg.offset]; omega)

include hn

/-- A good frame's bytes are taken. -/
theorem Chip.takeBytes_in (c : Chip) {k : Nat} (hk : k < 4) :
    (forUpTo 4 (fun j x => x.slotByte n j (l.getD j 0).toNat) c).fld (.PORT_SLOT n k) F.PORT_SLOT_IN = (l.getD k 0).toNat :=
  forUpTo_each_of_lt (f := fun j (x : Chip) => x.slotByte n j (l.getD j 0).toNat)
    (fun k x => k < 4 → x.fld (.PORT_SLOT n k) F.PORT_SLOT_IN = (l.getD k 0).toNat) 4 c
    (fun k x hk _ => by
      rw [Chip.fld_of_reg (Chip.slotByte_reg hn hk (portSlot_offLoss hk) (portSlot_offFlr hk) x _)]
      exact Chip.fld_setFld_of_lt _ _ _ (by decide) (by decide) (l.getD k 0).isLt)
    (fun j k x hj hkj hP hk => by
      rw [Chip.fld_of_reg (Chip.slotByte_reg hn hj (portSlot_offLoss hk) (portSlot_offFlr hk) x _),
        Chip.fld_of_reg (Chip.slotTaken_reg_ne x _ hkj), hP hk]) k hk hk

theorem Chip.takeBytes_out (c : Chip) {k : Nat} (hk : k < 4) :
    (forUpTo 4 (fun j x => x.slotByte n j (l.getD j 0).toNat) c).fld (.PORT_SLOT n k) F.PORT_SLOT_OUT = c.fld (.PORT_SLOT n k) F.PORT_SLOT_OUT :=
  forUpTo_same_of_lt (f := fun j (x : Chip) => x.slotByte n j (l.getD j 0).toNat) (fun x : Chip => x.fld (.PORT_SLOT n k) F.PORT_SLOT_OUT) 4
    (fun j hj x => by
      rw [Chip.fld_of_reg (Chip.slotByte_reg hn hj (portSlot_offLoss hk) (portSlot_offFlr hk) x _)]
      by_cases h : k = j
      · rw [h]
        exact Chip.fld_setFld_apart (x.onPort n j _) _ _ (by decide)
      · exact Chip.fld_of_reg (Chip.slotTaken_reg_ne x _ h) _) c

omit hn in
/-- A bad frame is counted at every port. -/
def Chip.countBad (n : Nat) (c : Chip) : Chip := forUpTo 4 (fun j x => x.bump (.PORT_SLOT n j) F.PORT_SLOT_BAD_FRAMES) c

omit hn in
theorem Chip.countBad_port (c : Chip) (m j : Nat) : (c.countBad n).port m j = c.port m j :=
  forUpTo_same (f := fun j (x : Chip) => x.bump (.PORT_SLOT n j) F.PORT_SLOT_BAD_FRAMES) (fun x : Chip => x.port m j) (fun _ _ => rfl) 4 c

omit hn in
theorem Chip.countBad_reg (c : Chip) {q : Reg} (h : ∀ j, j < 4 → q.offset ≠ (Reg.PORT_SLOT n j).offset) : (c.countBad n).reg q = c.reg q :=
  forUpTo_same_of_lt (f := fun j (x : Chip) => x.bump (.PORT_SLOT n j) F.PORT_SLOT_BAD_FRAMES) (fun x : Chip => x.reg q) 4
    (fun j hj x => Chip.reg_setFld_ne x _ _ (h j hj)) c

omit hn in
theorem Chip.countBad_in (c : Chip) (k : Nat) : (c.countBad n).fld (.PORT_SLOT n k) F.PORT_SLOT_IN = c.fld (.PORT_SLOT n k) F.PORT_SLOT_IN :=
  forUpTo_same (f := fun j (x : Chip) => x.bump (.PORT_SLOT n j) F.PORT_SLOT_BAD_FRAMES) (fun x : Chip => x.fld (.PORT_SLOT n k) F.PORT_SLOT_IN)
    (fun j x => by
      by_cases h : k = j
      · rw [h]
        exact Chip.fld_setFld_apart x _ _ (by decide)
      · exact Chip.fld_setFld_ne x _ _ _ (by simp only [Reg.offset]; omega)) 4 c

omit hn in
/-- Each port's counter goes up once. -/
theorem Chip.countBad_count (c : Chip) {k : Nat} (hk : k < 4) : (c.countBad n).fld (.PORT_SLOT n k) F.PORT_SLOT_BAD_FRAMES =
    min (c.fld (.PORT_SLOT n k) F.PORT_SLOT_BAD_FRAMES + 1) 65535 := by
  have hne : ∀ (x : Chip) j, k ≠ j → (x.bump (.PORT_SLOT n j) F.PORT_SLOT_BAD_FRAMES).fld (.PORT_SLOT n k) F.PORT_SLOT_BAD_FRAMES =
      x.fld (.PORT_SLOT n k) F.PORT_SLOT_BAD_FRAMES := fun x j h => Chip.fld_setFld_ne x _ _ _ (by simp only [Reg.offset]; omega)
  have hbefore : (forUpTo k (fun j (x : Chip) => x.bump (.PORT_SLOT n j) F.PORT_SLOT_BAD_FRAMES) c).fld (.PORT_SLOT n k)
      F.PORT_SLOT_BAD_FRAMES = c.fld (.PORT_SLOT n k) F.PORT_SLOT_BAD_FRAMES :=
    forUpTo_same_of_lt (fun x : Chip => x.fld (.PORT_SLOT n k) F.PORT_SLOT_BAD_FRAMES) k (fun j hj x => hne x j (by omega)) c
  have hmain : ∀ i, k < i → (forUpTo i (fun j (x : Chip) => x.bump (.PORT_SLOT n j) F.PORT_SLOT_BAD_FRAMES) c).fld (.PORT_SLOT n k)
      F.PORT_SLOT_BAD_FRAMES = min (c.fld (.PORT_SLOT n k) F.PORT_SLOT_BAD_FRAMES + 1) 65535 := fun i => by
    induction i with
    | zero => intro h; omega
    | succ i ih =>
      intro hki
      rw [forUpTo_succ]
      by_cases h : k = i
      · subst h
        rw [Chip.bump_count _ _ (by decide) (by decide) (by decide), hbefore]
      · rw [hne _ i h, ih (by omega)]
  exact hmain 4 hk

omit hn in
/-- A port's sideband bus has failed. -/
def Chip.ssbFail (n j : Nat) (x : Chip) : Chip := (x.setBit (.PORT_SLOT n j) F.PORT_SLOT_SSB_FAIL true).portError n j 10

omit hn in
theorem Chip.ssbFail_slot (x : Chip) (j k : Nat) {f : Field} (h : F.PORT_SLOT_SSB_FAIL.apart f = true) :
    (x.ssbFail n j).fld (.PORT_SLOT n k) f = x.fld (.PORT_SLOT n k) f := by
  rw [Chip.ssbFail, Chip.fld_of_reg (Chip.portError_reg ..)]
  by_cases hk : k = j
  · rw [hk]
    exact Chip.fld_setBit_apart _ _ _ h
  · exact Chip.fld_setBit_ne _ _ _ _ (by simp only [Reg.offset]; omega)

omit hn in
/-- The root ports among the four fail. -/
def Chip.ssbFails (c2 : Chip) (n : Nat) (c : Chip) : Chip := ((List.range 4).filter (fun j => c2.isRoot n j)).foldl (fun x j => Chip.ssbFail n j x) c

omit hn in
theorem Chip.ssbFails_slot (c2 c : Chip) (k : Nat) {f : Field} (h : F.PORT_SLOT_SSB_FAIL.apart f = true) :
    (c2.ssbFails n c).fld (.PORT_SLOT n k) f = c.fld (.PORT_SLOT n k) f :=
  foldl_same (f := fun x j => Chip.ssbFail n j x) (fun x : Chip => x.fld (.PORT_SLOT n k) f) (fun x j => x.ssbFail_slot j k h) _ c

omit hn in
theorem Chip.ssbFails_port (c2 c : Chip) (m k : Nat) : (c2.ssbFails n c).port m k = c.port m k :=
  foldl_same (f := fun x j => Chip.ssbFail n j x) (fun x : Chip => x.port m k) (fun x j => by
    rw [Chip.ssbFail, Chip.portError_port, Chip.setBit_port]) _ c

omit hn in
theorem Chip.ssbFails_fail (c2 c : Chip) {k : Nat} (hk : k < 4) (hr : c2.isRoot n k = true) :
    (c2.ssbFails n c).bit (.PORT_SLOT n k) F.PORT_SLOT_SSB_FAIL = true := by
  have hown : ∀ x : Chip, (x.ssbFail n k).bit (.PORT_SLOT n k) F.PORT_SLOT_SSB_FAIL = true := fun x => by
    rw [Chip.ssbFail, Chip.bit_of_reg (Chip.portError_reg ..), Chip.bit_setBit _ _ _ _ (by decide) (by decide)]
  have hkeep : ∀ (l : List Nat) (x : Chip), k ∈ l ∨ x.bit (.PORT_SLOT n k) F.PORT_SLOT_SSB_FAIL = true →
      (l.foldl (fun x j => Chip.ssbFail n j x) x).bit (.PORT_SLOT n k) F.PORT_SLOT_SSB_FAIL = true := fun l => by
    induction l with
    | nil => exact fun x h => h.resolve_left List.not_mem_nil
    | cons j l ih =>
      intro x h
      refine ih _ ?_
      by_cases hkj : k = j
      · rw [← hkj]
        exact .inr (hown x)
      · rcases h with h | h
        · exact .inl ((List.mem_cons.1 h).resolve_left hkj)
        · refine .inr ?_
          unfold Chip.ssbFail
          rw [Chip.bit_of_reg (Chip.portError_reg ..), Chip.bit_setBit_ne _ _ _ _ (by simp only [Reg.offset]; omega), h]
  exact hkeep _ c (.inl (List.mem_filter.2 ⟨List.mem_range.2 hk, hr⟩))

omit hn in
/-- A bad frame, before its eighth in a row is noted. -/
def Chip.frameBad (n : Nat) (c : Chip) : Chip :=
  ((c.driveAll n).onPort n 0 (fun s => { s with badRun := ((c.driveAll n).port n 0).badRun + 1 })).countBad n

omit hn in
theorem Chip.frameBad_notes (c : Chip) : ((c.frameBad n).port n 0).badRun = (c.port n 0).badRun + 1
    ∧ ∀ j, j < 4 → (c.frameBad n).fld (.PORT_SLOT n j) F.PORT_SLOT_IN = c.fld (.PORT_SLOT n j) F.PORT_SLOT_IN
      ∧ (c.frameBad n).fld (.PORT_SLOT n j) F.PORT_SLOT_BAD_FRAMES = min (c.fld (.PORT_SLOT n j) F.PORT_SLOT_BAD_FRAMES + 1) 65535
      ∧ (c.frameBad n).isRoot n j = c.isRoot n j := by
  have hreg : ∀ q : Reg, (∀ j, j < 4 → q.offset ≠ (Reg.PORT_SLOT n j).offset) → (c.frameBad n).reg q = c.reg q := fun q hq => by
    rw [Chip.frameBad, Chip.countBad_reg _ hq, Chip.onPort_reg, Chip.driveAll_reg _ _ hq]
  refine ⟨?_, fun j hj => ⟨?_, ?_, ?_⟩⟩
  · rw [Chip.frameBad, Chip.countBad_port, Chip.port_onPort, Chip.driveAll_badRun]
  · rw [Chip.frameBad, Chip.countBad_in, Chip.fld_of_reg (Chip.onPort_reg ..), Chip.driveAll_slot _ _ _ (by decide)]
  · rw [Chip.frameBad, Chip.countBad_count _ hj, Chip.fld_of_reg (Chip.onPort_reg ..), Chip.driveAll_slot _ _ _ (by decide)]
  · exact isRoot_of_reg (hreg _ fun i hi => by simp only [Reg.offset]; omega) (hreg _ fun i hi => by simp only [Reg.offset]; omega) j

omit hn in
theorem Chip.ssbFrame_bad {c : Chip} (h : l.all parityOk = false) : c.ssbFrame n l =
    if (c.port n 0).badRun + 1 = 8 then (c.frameBad n).ssbFails n (c.frameBad n) else c.frameBad n := by
  rw [← Chip.driveAll_badRun c n 0]
  simp only [Chip.ssbFrame, h, Bool.false_eq_true, if_false, Chip.frameBad, Chip.ssbFails, Chip.countBad, Chip.driveAll,
    Chip.driveOut]
  rfl

theorem ssbFrame_cases (b0 b1 b2 b3 : Byte) : let l := [b0, b1, b2, b3]
    (l.all parityOk = true → ∃ t, exec (.ssbFrame n b0 b1 b2 b3) s = .next t ∧ (t.chip.port n 0).badRun = 0
      ∧ ∀ j, j < 4 → t.chip.fld (.PORT_SLOT n j) F.PORT_SLOT_IN = (l.getD j 0).toNat
        ∧ t.chip.fld (.PORT_SLOT n j) F.PORT_SLOT_OUT = s.chip.outByte n j)
    ∧ (l.all parityOk = false → ∃ t, exec (.ssbFrame n b0 b1 b2 b3) s = .next t
      ∧ (t.chip.port n 0).badRun = (s.chip.port n 0).badRun + 1
      ∧ ∀ j, j < 4 → t.chip.fld (.PORT_SLOT n j) F.PORT_SLOT_IN = s.chip.fld (.PORT_SLOT n j) F.PORT_SLOT_IN
        ∧ t.chip.fld (.PORT_SLOT n j) F.PORT_SLOT_BAD_FRAMES = min (s.chip.fld (.PORT_SLOT n j) F.PORT_SLOT_BAD_FRAMES + 1) 65535
        ∧ ((s.chip.port n 0).badRun = 7 → s.chip.isRoot n j = true → t.chip.bit (.PORT_SLOT n j) F.PORT_SLOT_SSB_FAIL = true)) := by
  intro l
  have hdoes : Gives (.ssbFrame n b0 b1 b2 b3) s (s.chip.ssbFrame n l) := gives_of_onChip rfl (decide_eq_true hn) rfl
  clear_value l
  refine ⟨fun h => ⟨_, hdoes.congr (Chip.ssbFrame_good h), ?_, fun j hj => ⟨?_, ?_⟩⟩,
    fun h => ⟨_, hdoes.congr (Chip.ssbFrame_bad l h), ?_⟩⟩
  · dsimp only
    rw [Chip.port_onPort]
  · exact Chip.takeBytes_in hn l _ hj
  · exact (Chip.takeBytes_out hn l _ hj).trans (Chip.driveAll_out _ n hj)
  · obtain ⟨hrun, hslots⟩ := s.chip.frameBad_notes (n := n)
    dsimp only
    split
    · refine ⟨by rw [Chip.ssbFails_port, hrun], fun j hj => ?_⟩
      obtain ⟨hin, hcount, hroot⟩ := hslots j hj
      exact ⟨by rw [Chip.ssbFails_slot _ _ _ (by decide), hin], by rw [Chip.ssbFails_slot _ _ _ (by decide), hcount],
        fun _ hr => Chip.ssbFails_fail _ _ hj (hroot.trans hr)⟩
    · next h8 =>
      refine ⟨hrun, fun j hj => ?_⟩
      obtain ⟨hin, hcount, hroot⟩ := hslots j hj
      exact ⟨hin, hcount, fun h7 => absurd (by omega) h8⟩

end

/-- Settles O49: each command of a port by the function that performs it. -/
theorem portLinksErrors : Obligations.PortLinksErrors := by
  unfold Obligations.PortLinksErrors
  refine ⟨fun s who n hn => portCommit_cases s who n hn, fun s n j hn hj => ?_, fun s n b0 b1 b2 b3 hn => ssbFrame_cases s hn b0 b1 b2 b3⟩
  obtain ⟨hup, hdown⟩ := portLinkDown_cases s hn hj
  obtain ⟨hroot, hother⟩ := rootMessages_cases s hn hj
  exact ⟨restart_cases s hn hj, fun rate width flit cxl => portLinkUp_cases s hn hj rate width flit cxl, hup, hdown,
    slotControlWrite_cases s hn hj, pwrGoodTimeout_cases s hn hj, perstRelease_cases s hn hj,
    fun tag q ht hq => completionTimeout_cases s hn hj tag q ht hq, lateCompletion_cases s hn hj, hroot, hother, perstInFall_does s hn hj⟩

end Sys2Proof.Machine
end

section
/-! Accesses through the windows of a dual-role station and its window commits (R347, R348, R360 to R362). -/

namespace Sys2Proof.Machine

-- the message of an access

section
variable (s : State) {who : Who} {addr size : Nat} {wr : Option Word}

/-- The requester of an access is the one that its message names. -/
theorem msgWho_ioMsg (addr size : Nat) (wr : Option Word) (hid : who.rid / 4096 = 5 ↔ who.uz = true) : msgWho (ioMsg who addr size wr) = who := by
  have huz : (ridType who.rid == 5) = who.uz := by
    rw [Bool.eq_iff_iff, ← hid, beq_iff_eq, ridType]
  show ({ rid := who.rid, world := who.world, uz := ridType who.rid == 5 } : Who) = who
  rw [huz]

/-- Its address. -/
theorem ioMsg_addr (who : Who) (addr size : Nat) (wr : Option Word) : (ioMsg who addr size wr).line * 64 + (ioMsg who addr size wr).sub = addr :=
  Nat.div_add_mod' addr 64

theorem ioMsg_data (who : Who) (addr size : Nat) (v : Word) : (ioMsg who addr size (some v)).data.toNat = v.toNat :=
  (BitVec.toNat_ofNat _ _).trans (Nat.mod_eq_of_lt (Nat.lt_of_lt_of_le v.isLt (Nat.pow_le_pow_right Nat.two_pos (show 64 ≤ 512 by decide))))

theorem ioMsg_kind (who : Who) (addr size : Nat) (wr : Option Word) : ((ioMsg who addr size wr).kind == .IO_WR) = wr.isSome := by
  cases wr <;> rfl

/-- A port in STATE 0 is not shut. -/
theorem Chip.portShut_of_open {c : Chip} {p : Packet} (h : c.destState p = 0) : (p.destPort < 2 && c.portShut (p.destR, p.destPort)) = false := by
  rw [Bool.and_eq_false_iff, decide_eq_false_iff_not]
  by_cases hp : p.destPort < 2
  · refine .inr ?_
    rw [Chip.destState, if_pos hp] at h
    simp [Chip.portShut, h]
  · exact .inl hp

/-- An access whose port is open reaches the station. -/
theorem Chip.windowIo_of_open {c : Chip} {m : Msg} (h : c.destState (c.packetOf m) = 0) : c.windowIo m = c.stationIo m := by
  simp only [Chip.windowIo, Chip.portShut_of_open h, Bool.false_eq_true, if_false]
  exact if_pos h

theorem ecamAccess_does (who : Who) (wr : Option Word) (ha : addrOk addr = true) (hw : whoOk who = true) (h4 : addr % 4 = 0) :
    Gives (.ecamAccess who addr wr) s (s.chip.windowIo (ioMsg who addr 2 wr)) := gives_of_onChip rfl (by simp [ha, hw, h4]) rfl

theorem windowAccess_does (who : Who) (wr : Option Word) (ha : addrOk addr = true) (hw : whoOk who = true) (hs : size ≤ 3)
    (hl : addr % 64 + 2 ^ size ≤ 64) : Gives (.pcieWindowAccess who addr size wr) s (s.chip.windowIo (ioMsg who addr size wr)) :=
  gives_of_onChip rfl (by simp [ha, hw, hs, hl]) rfl

-- the ECAM window

/-- What an ECAM access to a root port does. -/
theorem Chip.stationIo_ecam {c : Chip} {n j : Nat} (hr : c.region addr = .ecam n j) (hid : who.rid / 4096 = 5 ↔ who.uz = true) :
    c.stationIo (ioMsg who addr 2 wr) = if !c.ecamMay who n j (addr % 2 ^ 28 / 4096) then c.ioRefuse (ioMsg who addr 2 wr)
      else if addr % 2 ^ 28 / 4096 = 0 then
        if (ioMsg who addr 2 wr).kind = .IO_WR then (c.rootCfgWrite n j (addr % 4096 / 4) ((ioMsg who addr 2 wr).data.toNat % 2 ^ 32)).ioReply
          (ioMsg who addr 2 wr) 0
        else c.ioReply (ioMsg who addr 2 wr) 0 (c.rootCfgRead n j (addr % 4096 / 4))
      else if c.busBehind n j (addr % 2 ^ 28 / 4096 / 256) then
        c.outbound n j (ioMsg who addr 2 wr) ((c.boundFn n j (addr % 2 ^ 28 / 4096)).getD 256) false
      else c.ioReply (ioMsg who addr 2 wr) 1 := by
  simp only [Chip.stationIo, ioMsg_addr, hr, Chip.ecam, ecamBdf, ecamDword, msgWho_ioMsg addr 2 wr hid]

theorem Chip.ecamMay_of_bound {c : Chip} {n j bdf f : Nat} (hb : bdf ≠ 0) (hf : c.boundFn n j bdf = some f) :
    c.ecamMay who n j bdf = c.mayFn who n f := by simp only [Chip.ecamMay, if_neg hb, hf]

theorem Chip.ecamMay_of_unbound {c : Chip} {n j bdf : Nat} (h : bdf = 0 ∨ c.boundFn n j bdf = none) :
    c.ecamMay who n j bdf = (who.world == 0 || who.sealed) := by
  unfold Chip.ecamMay
  rcases h with h | h
  · rw [if_pos h]
  · rw [h, ite_self]

/-- The bus number registers of a root port say which buses are behind it. -/
theorem Chip.busBehind_iff (c : Chip) (n j bus : Nat) : c.busBehind n j bus = true ↔
    bits ((c.port n j).cfgAt 6).toNat 15 8 ≤ bus ∧ bus ≤ bits ((c.port n j).cfgAt 6).toNat 23 16 := by
  simp only [Chip.busBehind, Bool.and_eq_true, decide_eq_true_eq]

section
variable {n j : Nat} (ha : addrOk addr = true) (hw : whoOk who = true) (h4 : addr % 4 = 0) (hr : s.chip.region addr = .ecam n j)
  (hid : who.rid / 4096 = 5 ↔ who.uz = true) (hd : s.chip.destState (s.chip.packetOf (ioMsg who addr 2 wr)) = 0)
include ha hw h4 hr hid hd

omit hr hid in
theorem ecam_gives : Gives (.ecamAccess who addr wr) s (s.chip.stationIo (ioMsg who addr 2 wr)) :=
  (ecamAccess_does s who wr ha hw h4).congr (Chip.windowIo_of_open hd)

/-- An access that is not admitted is refused. -/
theorem ecam_refused (h : s.chip.ecamMay who n j (addr % 2 ^ 28 / 4096) = false) :
    Gives (.ecamAccess who addr wr) s (s.chip.ioRefuse (ioMsg who addr 2 wr)) :=
  (ecam_gives s ha hw h4 hd).congr ((Chip.stationIo_ecam hr hid).trans (if_pos (by rw [h]; decide)))

/-- One that is admitted to what lies below the root port goes on where its bus is behind the port. -/
theorem ecam_below (hb : addr % 2 ^ 28 / 4096 ≠ 0) (h : s.chip.ecamMay who n j (addr % 2 ^ 28 / 4096) = true) :
    (s.chip.busBehind n j (addr % 2 ^ 28 / 4096 / 256) = true → Gives (.ecamAccess who addr wr) s
      (s.chip.outbound n j (ioMsg who addr 2 wr) ((s.chip.boundFn n j (addr % 2 ^ 28 / 4096)).getD 256) false))
    ∧ (s.chip.busBehind n j (addr % 2 ^ 28 / 4096 / 256) = false → Gives (.ecamAccess who addr wr) s
      (s.chip.ioReply (ioMsg who addr 2 wr) 1)) := by
  have hdoes := (ecam_gives s ha hw h4 hd).congr ((Chip.stationIo_ecam hr hid).trans ((if_neg (by rw [h]; decide)).trans (if_neg hb)))
  exact ⟨fun hbus => hdoes.congr (if_pos hbus), fun hbus => hdoes.congr (if_neg (by rw [hbus]; decide))⟩

theorem ecamAccess_cases : let m := ioMsg who addr 2 wr
    let bdf := addr % 2 ^ 28 / 4096
    (bdf = 0 → who.world = 0 ∨ who.sealed = true → (wr = none →
        Gives (.ecamAccess who addr wr) s (s.chip.ioReply m 0 (s.chip.rootCfgRead n j (addr % 4096 / 4))))
      ∧ (∀ v, wr = some v → Gives (.ecamAccess who addr wr) s
        ((s.chip.rootCfgWrite n j (addr % 4096 / 4) (v.toNat % 2 ^ 32)).ioReply m 0)))
    ∧ (bdf = 0 → who.world ≠ 0 → who.sealed = false → Gives (.ecamAccess who addr wr) s (s.chip.ioRefuse m))
    ∧ (let bus := ((s.chip.port n j).cfgAt 6).toNat
      let inside := bits bus 15 8 ≤ bdf / 256 ∧ bdf / 256 ≤ bits bus 23 16
      (∀ f, bdf ≠ 0 → s.chip.boundFn n j bdf = some f →
        (s.chip.mayFn who n f = false → Gives (.ecamAccess who addr wr) s (s.chip.ioRefuse m))
        ∧ (s.chip.mayFn who n f = true → inside → Gives (.ecamAccess who addr wr) s (s.chip.outbound n j m f false))
        ∧ (s.chip.mayFn who n f = true → ¬ inside → Gives (.ecamAccess who addr wr) s (s.chip.ioReply m 1)))
      ∧ (bdf ≠ 0 → s.chip.boundFn n j bdf = none → who.world = 0 ∨ who.sealed = true →
        (inside → Gives (.ecamAccess who addr wr) s (s.chip.outbound n j m 256 false))
        ∧ (¬ inside → Gives (.ecamAccess who addr wr) s (s.chip.ioReply m 1)))
      ∧ (bdf ≠ 0 → s.chip.boundFn n j bdf = none → who.world ≠ 0 → who.sealed = false →
        Gives (.ecamAccess who addr wr) s (s.chip.ioRefuse m))) := by
  intro m bdf
  have hdoes := (ecam_gives s ha hw h4 hd).congr (Chip.stationIo_ecam hr hid)
  have hbelow := ecam_below s ha hw h4 hr hid hd
  have hrefused := ecam_refused s ha hw h4 hr hid hd
  have hmay : who.world = 0 ∨ who.sealed = true → (who.world == 0 || who.sealed) = true := fun h => by rcases h with h | h <;> simp [h]
  have hmayNot : who.world ≠ 0 → who.sealed = false → (who.world == 0 || who.sealed) = false := fun h h' => by simp [h, h']
  refine ⟨fun hb hwho => ?_, fun hb h0 hs => hrefused ((Chip.ecamMay_of_unbound (.inl hb)).trans (hmayNot h0 hs)), ?_⟩
  · have hroot := hdoes.congr ((if_neg (by rw [Chip.ecamMay_of_unbound (.inl hb), hmay hwho]; decide)).trans (if_pos hb))
    refine ⟨fun hnone => ?_, fun v hv => ?_⟩
    · subst hnone
      exact hroot.congr (if_neg (show ¬ MsgKind.IO_RD = .IO_WR by decide))
    · subst hv
      refine hroot.congr ((if_pos rfl).trans ?_)
      rw [ioMsg_data]
  · intro bus inside
    have hin : s.chip.busBehind n j (bdf / 256) = true ↔ inside := Chip.busBehind_iff ..
    have hout : ¬ inside → s.chip.busBehind n j (bdf / 256) = false := fun h => Bool.eq_false_iff.2 fun hb => h (hin.1 hb)
    refine ⟨fun f hb hf => ?_, fun hb hf hwho => ?_, fun hb hf h0 hs => hrefused ((Chip.ecamMay_of_unbound (.inr hf)).trans (hmayNot h0 hs))⟩
    · have hecam := Chip.ecamMay_of_bound (who := who) hb hf
      refine ⟨fun h => hrefused (hecam.trans h), fun h hi => ?_, fun h hi => (hbelow hb (hecam.trans h)).2 (hout hi)⟩
      have hgo := (hbelow hb (hecam.trans h)).1 (hin.2 hi)
      rwa [show addr % 2 ^ 28 / 4096 = bdf from rfl, hf] at hgo
    · have hecam := (Chip.ecamMay_of_unbound (who := who) (c := s.chip) (n := n) (j := j) (.inr hf)).trans (hmay hwho)
      refine ⟨fun hi => ?_, fun hi => (hbelow hb hecam).2 (hout hi)⟩
      have hgo := (hbelow hb hecam).1 (hin.2 hi)
      rwa [show addr % 2 ^ 28 / 4096 = bdf from rfl, hf] at hgo

end

-- the memory windows

theorem Chip.outbound_of_down {c : Chip} {n j fn : Nat} {m : Msg} {posted : Bool} (h : c.linkUp n j = false ∨ c.stopped n j = true) :
    c.outbound n j m fn posted = c.ioReply m 1 := if_pos (by rcases h with h | h <;> simp [h])

theorem Chip.outbound_posted {c : Chip} {n j fn : Nat} {m : Msg} (h : c.linkUp n j = true) (h' : c.stopped n j = false) :
    c.outbound n j m fn true = c.ioReply m 0 := by simp [Chip.outbound, h, h']

theorem Chip.stationIo_mwin {c : Chip} {n e : Nat} (hr : c.region addr = .mwin n e) (hid : who.rid / 4096 = 5 ↔ who.uz = true) :
    c.stationIo (ioMsg who addr size wr) =
      if c.mayFn who n (F.PORT_MWIN_LIMIT_FN.get (c.winReg (.PORT_MWIN_LIMIT n e))) then
        c.outbound n (F.PORT_MWIN_BASE_PORT.get (c.winReg (.PORT_MWIN_BASE n e))) (ioMsg who addr size wr)
          (F.PORT_MWIN_LIMIT_FN.get (c.winReg (.PORT_MWIN_LIMIT n e))) wr.isSome
      else c.ioRefuse (ioMsg who addr size wr) := by
  simp only [Chip.stationIo, ioMsg_addr, hr, Chip.mwinAccess, msgWho_ioMsg addr size wr hid, ioMsg_kind]

theorem memoryWindow_cases {n e : Nat} (ha : addrOk addr = true) (hw : whoOk who = true) (hs : size ≤ 3) (hl : addr % 64 + 2 ^ size ≤ 64)
    (hr : s.chip.region addr = .mwin n e) (hid : who.rid / 4096 = 5 ↔ who.uz = true)
    (hd : s.chip.destState (s.chip.packetOf (ioMsg who addr size wr)) = 0) : let m := ioMsg who addr size wr
    let j := F.PORT_MWIN_BASE_PORT.get (s.chip.winReg (.PORT_MWIN_BASE n e))
    let f := F.PORT_MWIN_LIMIT_FN.get (s.chip.winReg (.PORT_MWIN_LIMIT n e))
    (s.chip.mayFn who n f = true → s.chip.linkUp n j = false ∨ s.chip.stopped n j = true →
      Gives (.pcieWindowAccess who addr size wr) s (s.chip.ioReply m 1))
    ∧ (s.chip.mayFn who n f = true → s.chip.linkUp n j = true → s.chip.stopped n j = false → wr.isSome = true →
      Gives (.pcieWindowAccess who addr size wr) s (s.chip.ioReply m 0))
    ∧ (s.chip.mayFn who n f = true → wr = none → Gives (.pcieWindowAccess who addr size wr) s (s.chip.outbound n j m f false))
    ∧ (s.chip.mayFn who n f = false → Gives (.pcieWindowAccess who addr size wr) s (s.chip.ioRefuse m)) := by
  intro m j f
  have hdoes := (windowAccess_does s who wr ha hw hs hl).congr ((Chip.windowIo_of_open hd).trans (Chip.stationIo_mwin hr hid))
  refine ⟨fun h hdown => (hdoes.congr (if_pos h)).congr (Chip.outbound_of_down hdown), fun h hup hrun hwr => (hdoes.congr (if_pos h)).congr ?_,
    fun h hwr => (hdoes.congr (if_pos h)).congr ?_, fun h => hdoes.congr (if_neg (by simpa using h))⟩
  · rw [hwr]
    exact Chip.outbound_posted hup hrun
  · subst hwr
    rfl

/-- An access whose port is fenced waits; one whose port is shut is answered at the requester's port. -/
theorem closedPort_cases (ha : addrOk addr = true) (hw : whoOk who = true) (h4 : addr % 4 = 0) : let m := ioMsg who addr 2 wr
    let p := s.chip.packetOf m
    p.destPort < 2 →
    (s.chip.destState p ≠ 0 → s.chip.portShut (p.destR, p.destPort) = false →
      Gives (.ecamAccess who addr wr) s s.chip ∧ Gives (.pcieWindowAccess who addr 2 wr) s s.chip)
    ∧ (s.chip.portShut (p.destR, p.destPort) = true →
      let c1 := s.chip.undeliverable p.srcR p (if s.chip.destState p = 3 then 2 else 1)
      Gives (.ecamAccess who addr wr) s c1 ∧ Gives (.pcieWindowAccess who addr 2 wr) s c1) := by
  intro m p hp
  have h1 := ecamAccess_does s who wr ha hw h4
  have h2 := windowAccess_does s (size := 2) who wr ha hw (by decide) (by omega)
  have heq : s.chip.windowIo m = if decide (p.destPort < 2) && s.chip.portShut (p.destR, p.destPort) then
      s.chip.undeliverable p.srcR p (if s.chip.destState p = 3 then 2 else 1)
    else if s.chip.destState p = 0 then s.chip.stationIo m else s.chip := rfl
  refine ⟨fun hst hshut => ?_, fun hshut => ?_⟩
  · have hstay : s.chip.windowIo m = s.chip := heq.trans ((if_neg (by simp [hshut])).trans (if_neg hst))
    exact ⟨h1.congr hstay, h2.congr hstay⟩
  · have hanswer := heq.trans (if_pos (by simp [hp, hshut]))
    exact ⟨h1.congr hanswer, h2.congr hanswer⟩

end

end Sys2Proof.Machine
end

section
/-! Window commits of a dual-role station (R360 to R362). -/

namespace Sys2Proof.Machine

-- the write that commits

theorem winCtl_sound (n : Nat) : (Reg.PORT_WIN_CTL n).sound := by
  rw [Reg.sound, Reg.fields]
  decide

/-- The value of the write that commits. -/
def winCommitWord (w : Word) : Word := F.PORT_WIN_CTL_COMMIT.put (w &&& ~~~F.PORT_WIN_CTL_DONE.mask) 1

theorem winCommitWord_commit (w : Word) : F.PORT_WIN_CTL_COMMIT.get (winCommitWord w) = 1 := Field.get_put _ _ _ (by decide) (by decide)

/-- A field is not changed by clearing bits of another. -/
theorem Field.get_and_mask_apart {f g : Field} (h : f.apart g = true) (w : Word) : g.get (w &&& ~~~f.mask) = g.get w :=
  Nat.eq_of_testBit_eq fun i => by
    rw [g.get_testBit, g.get_testBit]
    by_cases hi : i < g.width
    · rw [BitVec.getLsbD_and, BitVec.getLsbD_not, Field.mask_bit_apart h hi]
      by_cases hb : g.lo + i < 64
      · simp [hb]
      · rw [BitVec.getLsbD_of_ge _ _ (Nat.not_lt.1 hb)]
        simp
    · simp [hi]

theorem winCommitWord_drain (w : Word) : F.PORT_WIN_CTL_WINDOW_DRAIN.get (winCommitWord w) = F.PORT_WIN_CTL_WINDOW_DRAIN.get w := by
  rw [winCommitWord, Field.get_put_apart (by decide), Field.get_and_mask_apart (by decide)]

/-- The chip after the fields of that write are stored. -/
def Chip.winStored (c : Chip) (n : Nat) : Chip := c.storeFields (.PORT_WIN_CTL n) (winCommitWord (c.reg (.PORT_WIN_CTL n)))

theorem Chip.winStored_reg (c : Chip) (n : Nat) {q : Reg} (h : q.offset ≠ (Reg.PORT_WIN_CTL n).offset) : (c.winStored n).reg q = c.reg q :=
  c.reg_storeFields_ne _ h

theorem Chip.winStored_now (c : Chip) (n : Nat) : (c.winStored n).winNow = c.winNow := (rfl)

theorem Chip.winStored_busy (c : Chip) (n : Nat) :
    (c.winStored n).bit (.PORT_WIN_CTL n) F.PORT_WIN_CTL_BUSY = c.bit (.PORT_WIN_CTL n) F.PORT_WIN_CTL_BUSY :=
  Chip.bit_of_fld (c.fld_storeFields_ro _ (winCtl_sound n) (.tail _ (.tail _ (.head _))) (.inl rfl))

theorem Chip.winStored_drain (c : Chip) (n : Nat) :
    (c.winStored n).bit (.PORT_WIN_CTL n) F.PORT_WIN_CTL_WINDOW_DRAIN = c.bit (.PORT_WIN_CTL n) F.PORT_WIN_CTL_WINDOW_DRAIN :=
  Chip.bit_of_fld ((c.fld_storeFields _ (winCtl_sound n) (.tail _ (.head _)) (.inl rfl) rfl (by decide) (by decide)).trans (winCommitWord_drain _))

/-- What the staged set and its check read lies outside PORT_WIN_CTL. -/
theorem windowsOf_congr {n : Nat} {get get' : Reg → Word} (h : ∀ q : Reg, q.offset ≠ (Reg.PORT_WIN_CTL n).offset → get' q = get q) :
    windowsOf n get' = windowsOf n get := by
  have hecam : ∀ j, j < 4 → get' (.PORT_ECAM n j) = get (.PORT_ECAM n j) := fun j hj => h _ (by simp only [Reg.offset]; omega)
  have hbase : ∀ e, get' (.PORT_MWIN_BASE n e) = get (.PORT_MWIN_BASE n e) := fun e => h _ (by simp only [Reg.offset]; omega)
  have hlimit : ∀ e, get' (.PORT_MWIN_LIMIT n e) = get (.PORT_MWIN_LIMIT n e) := fun e => h _ (by simp only [Reg.offset]; omega)
  unfold windowsOf
  refine congrArg₂ (· ++ ·) (List.filterMap_congr fun j hj => ?_) (List.filterMap_congr fun e he => ?_)
  · rw [hecam j (List.mem_range.1 hj)]
  · rw [hbase e, hlimit e]

section
variable {x y : Chip} {n : Nat} (h : ∀ q : Reg, q.offset ≠ (Reg.PORT_WIN_CTL n).offset → y.reg q = x.reg q)
include h

theorem portOfFn_of_ctl (f : Nat) : y.portOfFn n f = x.portOfFn n f := by
  rw [Chip.portOfFn, Chip.fnRange, portCount_of_reg (h _ (by simp only [Reg.offset]; omega)), ← Chip.fnRange, ← Chip.portOfFn]

theorem winBad_of_ctl (hw : y.winNow = x.winNow) : y.winBad n = x.winBad n := by
  have hreg : y.winReg = x.winReg := funext fun q => by rw [Chip.winReg, hw, ← Chip.winReg]
  have hbase : ∀ e, y.reg (.PORT_MWIN_BASE n e) = x.reg (.PORT_MWIN_BASE n e) := fun e => h _ (by simp only [Reg.offset]; omega)
  have hlimit : ∀ e, y.reg (.PORT_MWIN_LIMIT n e) = x.reg (.PORT_MWIN_LIMIT n e) := fun e => h _ (by simp only [Reg.offset]; omega)
  simp only [Chip.winBad, windowsOf_congr h, hreg, hbase, hlimit, portOfFn_of_ctl h]

theorem winRegs_of_ctl : y.winRegs n = x.winRegs n := by
  have hbase : ∀ e, y.reg (.PORT_MWIN_BASE n e) = x.reg (.PORT_MWIN_BASE n e) := fun e => h _ (by simp only [Reg.offset]; omega)
  simp only [Chip.winRegs, hbase, portOfFn_of_ctl h]

end

-- the staged set

/-- A staged register is one of the station's windows. -/
theorem mem_winRegs {c : Chip} {n : Nat} {q : Reg × Nat} (h : q ∈ c.winRegs n) : (∃ j, j < 4 ∧ q.1 = .PORT_ECAM n j)
    ∨ (∃ e, e < 32 ∧ (q.1 = .PORT_MWIN_BASE n e ∨ q.1 = .PORT_MWIN_LIMIT n e)) ∨ ∃ f, f < 256 ∧ q.1 = .PORT_FN_WIN n f := by
  rcases List.mem_append.1 h with h | h
  · rcases List.mem_append.1 h with h | h
    · obtain ⟨j, hj, rfl⟩ := List.mem_map.1 h
      exact .inl ⟨j, List.mem_range.1 hj, rfl⟩
    · obtain ⟨e, he, hq⟩ := List.mem_flatMap.1 h
      refine .inr (.inl ⟨e, List.mem_range.1 he, ?_⟩)
      rcases List.mem_cons.1 hq with rfl | hq
      · exact .inl rfl
      · rw [List.mem_singleton.1 hq]
        exact .inr rfl
  · obtain ⟨f, hf, rfl⟩ := List.mem_map.1 h
    exact .inr (.inr ⟨f, List.mem_range.1 hf, rfl⟩)

/-- No two staged registers share an offset. -/
theorem winRegs_offset {c : Chip} {n : Nat} {p q : Reg × Nat} (hp : p ∈ c.winRegs n) (hq : q ∈ c.winRegs n)
    (h : p.1.offset = q.1.offset) : p.1 = q.1 := by
  rcases mem_winRegs hp with ⟨i, hi, ep⟩ | ⟨i, hi, ep | ep⟩ | ⟨i, hi, ep⟩ <;>
    rcases mem_winRegs hq with ⟨k, hk, eq⟩ | ⟨k, hk, eq | eq⟩ | ⟨k, hk, eq⟩ <;>
    (rw [ep, eq] at h ⊢; simp only [Reg.offset] at h)
  any_goals (exfalso; omega)
  all_goals rw [show i = k by omega]

theorem Chip.reg_of_winOffset {c x : Chip} {n : Nat} {p q : Reg × Nat} (hp : p ∈ c.winRegs n) (hq : q ∈ c.winRegs n)
    (h : p.1.offset = q.1.offset) : x.reg p.1 = x.reg q.1 := by rw [winRegs_offset hp hq h]

/-- The set in force after the change. -/
def Chip.switched (c : Chip) (n : Nat) : Sparse Word :=
  ((c.winRegs n).filter (fun p => c.reg p.1 != c.winReg p.1)).foldl (fun m p => sset 0 p.1.offset (c.reg p.1) m) c.winNow

/-- The change puts every staged register in force. -/
theorem Chip.switched_get (c : Chip) (n : Nat) {q : Reg × Nat} (hq : q ∈ c.winRegs n) : sget 0 q.1.offset (c.switched n) = c.reg q.1 := by
  refine sget_foldl_sset 0 (fun p : Reg × Nat => p.1.offset) (fun p => c.reg p.1) (c.reg q.1) _
    (fun b hb hk => Chip.reg_of_winOffset (List.mem_filter.1 hb).1 hq hk) c.winNow ?_
  by_cases h : c.reg q.1 = c.winReg q.1
  · exact .inl h.symm
  · exact .inr ⟨q, List.mem_filter.2 ⟨hq, by simpa using h⟩, rfl⟩

-- the end of a commit

/-- PORT_WIN_CTL of a commit that has ended. -/
def Chip.winOver (c : Chip) (n : Nat) : Chip :=
  ((c.setBit (.PORT_WIN_CTL n) F.PORT_WIN_CTL_BUSY false).setFld (.PORT_WIN_CTL n) F.PORT_WIN_CTL_RESULT 1).setBit (.PORT_WIN_CTL n)
    F.PORT_WIN_CTL_DONE true

theorem Chip.winOver_ctl (c : Chip) (n : Nat) : (c.winOver n).bit (.PORT_WIN_CTL n) F.PORT_WIN_CTL_BUSY = false
    ∧ (c.winOver n).bit (.PORT_WIN_CTL n) F.PORT_WIN_CTL_DONE = true ∧ (c.winOver n).fld (.PORT_WIN_CTL n) F.PORT_WIN_CTL_RESULT = 1 := by
  refine ⟨?_, ?_, ?_⟩
  · rw [Chip.winOver, Chip.bit_setBit_apart _ _ _ (by decide), Chip.bit_setFld_apart _ _ _ (by decide),
      Chip.bit_setBit _ _ _ _ (by decide) (by decide)]
  · rw [Chip.winOver, Chip.bit_setBit _ _ _ _ (by decide) (by decide)]
  · rw [Chip.winOver, Chip.fld_setBit_apart _ _ _ (by decide), Chip.fld_setFld_of_lt _ _ _ (by decide) (by decide) (by decide)]

/-- What pends at the station's functions has been told. -/
def Chip.pendNone (n : Nat) (c : Chip) : Chip := forUpTo 256 (fun f x => x.onFn n f (fun s => { s with winPend := false })) c

/-- A port whose windows changed says so. -/
def Chip.tellChange (n j : Nat) (x : Chip) : Chip :=
  if (x.port n j).winChanged then (x.onPort n j (fun s => { s with winChanged := false })).portEvent n j 5 else x

theorem Chip.winEnd_eq (c : Chip) (n : Nat) : c.winEnd n = forUpTo 4 (fun j x => x.tellChange n j) ((c.winOver n).pendNone n) := rfl

section
variable {n : Nat} (hn : n < 10)
include hn

theorem Chip.tellChange_station {j : Nat} (hj : j < 4) (x : Chip) {q : Reg} (h : 0x4000000 ≤ q.offset) : (x.tellChange n j).reg q = x.reg q := by
  unfold Chip.tellChange
  split
  · exact (Chip.portEvent_station hn hj _ (by decide) h).trans (x.onPort_reg n j _ q)
  · rfl

theorem Chip.winEnd_station (c : Chip) {q : Reg} (h : 0x4000000 ≤ q.offset) : (c.winEnd n).reg q = (c.winOver n).reg q := by
  have hpend : ((c.winOver n).pendNone n).reg q = (c.winOver n).reg q :=
    forUpTo_same (f := fun f (x : Chip) => x.onFn n f (fun s => { s with winPend := false })) (fun x : Chip => x.reg q)
      (fun f x => x.onFn_reg n f _ q) 256 _
  rw [Chip.winEnd_eq, ← hpend]
  exact forUpTo_same_of_lt (f := fun j (x : Chip) => x.tellChange n j) (fun x : Chip => x.reg q) 4 (fun j hj x => Chip.tellChange_station hn hj x h) _

theorem Chip.winEnd_ctl (c : Chip) : (c.winEnd n).bit (.PORT_WIN_CTL n) F.PORT_WIN_CTL_BUSY = false
    ∧ (c.winEnd n).bit (.PORT_WIN_CTL n) F.PORT_WIN_CTL_DONE = true ∧ (c.winEnd n).fld (.PORT_WIN_CTL n) F.PORT_WIN_CTL_RESULT = 1 := by
  have hreg := Chip.winEnd_station hn c (q := .PORT_WIN_CTL n) (by simp only [Reg.offset]; omega)
  rw [Chip.bit_of_reg hreg, Chip.bit_of_reg hreg, Chip.fld_of_reg hreg]
  exact c.winOver_ctl n

omit hn in
theorem Chip.winEnd_now (c : Chip) : (c.winEnd n).winNow = c.winNow := by
  have hpend : ((c.winOver n).pendNone n).winNow = c.winNow :=
    forUpTo_same (f := fun f (x : Chip) => x.onFn n f (fun s => { s with winPend := false })) Chip.winNow (fun f x => rfl) 256 _
  rw [Chip.winEnd_eq, ← hpend]
  refine forUpTo_same (f := fun j (x : Chip) => x.tellChange n j) Chip.winNow (fun j x => ?_) 4 _
  unfold Chip.tellChange
  split
  · rw [Chip.portEvent, Chip.raiseEvent_frame]
    rfl
  · rfl

-- the change over

omit hn in
/-- The set in force changes, and the ports whose windows changed are noted. -/
def Chip.winChange (c : Chip) (n : Nat) : Chip :=
  ((c.winRegs n).filter (fun p => c.reg p.1 != c.winReg p.1)).foldl (fun (x : Chip) p => x.onPort n p.2 (fun s => { s with winChanged := true }))
    { c with winNow := c.switched n, winEra := sset 0 n (sget 0 n c.winEra + 1) c.winEra }

omit hn in
theorem Chip.winChange_now (c : Chip) : (c.winChange n).winNow = c.switched n :=
  foldl_same (f := fun (x : Chip) (p : Reg × Nat) => x.onPort n p.2 (fun s => { s with winChanged := true })) Chip.winNow (fun _ _ => rfl) _ _

omit hn in
/-- The functions whose windows changed pend. -/
def Chip.pendChanged (c : Chip) (n : Nat) (x : Chip) : Chip := forUpTo 256 (fun f (x : Chip) =>
  if c.reg (.PORT_FN_WIN n f) ≠ c.winReg (.PORT_FN_WIN n f) then x.onFn n f (fun s => { s with winPend := true }) else x) x

omit hn in
theorem Chip.pendChanged_now (c x : Chip) : (c.pendChanged n x).winNow = x.winNow :=
  forUpTo_same (f := fun f (x : Chip) => if c.reg (.PORT_FN_WIN n f) ≠ c.winReg (.PORT_FN_WIN n f) then
    x.onFn n f (fun s => { s with winPend := true }) else x) Chip.winNow (fun f x => by split <;> rfl) 256 x

omit hn in
theorem Chip.winSwitch_eq (c : Chip) (n : Nat) : c.winSwitch n = if c.bit (.PORT_WIN_CTL n) F.PORT_WIN_CTL_WINDOW_DRAIN then
    (c.pendChanged n (c.winChange n)).setBit (.PORT_WIN_CTL n) F.PORT_WIN_CTL_BUSY true else (c.winChange n).winEnd n := rfl

omit hn in
theorem Chip.winSwitch_now (c : Chip) : (c.winSwitch n).winNow = c.switched n := by
  rw [Chip.winSwitch_eq]
  split
  · rw [Chip.setBit_winNow, Chip.pendChanged_now, Chip.winChange_now]
  · rw [Chip.winEnd_now, Chip.winChange_now]

theorem Chip.winSwitch_busy (c : Chip) : (c.winSwitch n).bit (.PORT_WIN_CTL n) F.PORT_WIN_CTL_BUSY =
    c.bit (.PORT_WIN_CTL n) F.PORT_WIN_CTL_WINDOW_DRAIN := by
  rw [Chip.winSwitch_eq]
  split
  · next h => rw [h, Chip.bit_setBit _ _ _ _ (by decide) (by decide)]
  · next h => rw [Bool.eq_false_iff.2 h, ((c.winChange n).winEnd_ctl hn).1]

-- the commands

omit hn in
theorem Chip.winCtl_commit {c : Chip} {who : Who} (h : who.sealed = true) : c.winCtlWrite who n (winCommitWord (c.reg (.PORT_WIN_CTL n))) =
    if (c.winStored n).bit (.PORT_WIN_CTL n) F.PORT_WIN_CTL_BUSY then (c.winStored n).setFld (.PORT_WIN_CTL n) F.PORT_WIN_CTL_RESULT 3
    else if (c.winStored n).winBad n then ((c.winStored n).setFld (.PORT_WIN_CTL n) F.PORT_WIN_CTL_RESULT 2).setBit (.PORT_WIN_CTL n)
      F.PORT_WIN_CTL_DONE true
    else (c.winStored n).winSwitch n := by
  rw [Chip.winCtlWrite, Chip.ifMay_of_true _ _ _ _ h]
  refine (if_neg ?_).trans rfl
  rw [winCommitWord_commit]
  decide

omit hn in
theorem Chip.winCtl_refused {c : Chip} {who : Who} (h : who.sealed = false) (v : Word) :
    c.winCtlWrite who n v = c.refuseWrite who (.PORT_WIN_CTL n) := by
  rw [Chip.winCtlWrite, Chip.ifMay_of_false _ _ _ _ h]

theorem winCommit_cases (s : State) (who : Who) : let r := Reg.PORT_WIN_CTL n
    (who.sealed = false → Gives (.winCommit who n) s (s.chip.refuseWrite who r))
    ∧ (who.sealed = true → s.chip.bit r F.PORT_WIN_CTL_BUSY = true → ∃ t, exec (.winCommit who n) s = .next t
      ∧ t.chip.fld r F.PORT_WIN_CTL_RESULT = 3 ∧ t.chip.winNow = s.chip.winNow)
    ∧ (who.sealed = true → s.chip.bit r F.PORT_WIN_CTL_BUSY = false → s.chip.winBad n = true →
      ∃ t, exec (.winCommit who n) s = .next t ∧ t.chip.fld r F.PORT_WIN_CTL_RESULT = 2
        ∧ t.chip.bit r F.PORT_WIN_CTL_DONE = true ∧ t.chip.winNow = s.chip.winNow)
    ∧ (who.sealed = true → s.chip.bit r F.PORT_WIN_CTL_BUSY = false → s.chip.winBad n = false →
      ∃ t, exec (.winCommit who n) s = .next t ∧ (∀ q ∈ s.chip.winRegs n, t.chip.winReg q.1 = s.chip.reg q.1)
        ∧ t.chip.bit r F.PORT_WIN_CTL_BUSY = s.chip.bit r F.PORT_WIN_CTL_WINDOW_DRAIN) := by
  intro r
  have hdoes : Gives (.winCommit who n) s (s.chip.winCtlWrite who n (winCommitWord (s.chip.reg (.PORT_WIN_CTL n)))) :=
    gives_of_onChip rfl (decide_eq_true hn) rfl
  have hother : ∀ q : Reg, q.offset ≠ (Reg.PORT_WIN_CTL n).offset → (s.chip.winStored n).reg q = s.chip.reg q := fun q hq =>
    s.chip.winStored_reg n hq
  have hbusy := s.chip.winStored_busy n
  have hbad := winBad_of_ctl hother (s.chip.winStored_now n)
  refine ⟨fun h => hdoes.congr (Chip.winCtl_refused h _), fun h hb => ⟨_, hdoes.congr ((Chip.winCtl_commit h).trans
    (if_pos (hbusy.trans hb))), ?_, rfl⟩, fun h hb hw => ⟨_, hdoes.congr ((Chip.winCtl_commit h).trans ((if_neg (by
      rw [hbusy, hb]; decide)).trans (if_pos (hbad.trans hw)))), ?_, ?_, rfl⟩, fun h hb hw => ⟨_, hdoes.congr ((Chip.winCtl_commit h).trans
      ((if_neg (by rw [hbusy, hb]; decide)).trans (if_neg (by rw [hbad, hw]; decide)))), fun q hq => ?_, ?_⟩⟩
  · exact Chip.fld_setFld_of_lt _ _ _ (by decide) (by decide) (by decide)
  · exact (Chip.fld_setBit_apart _ _ _ (by decide)).trans (Chip.fld_setFld_of_lt _ _ _ (by decide) (by decide) (by decide))
  · exact Chip.bit_setBit _ _ _ _ (by decide) (by decide)
  · dsimp only
    rw [Chip.winReg, Chip.winSwitch_now, Chip.switched_get _ n (by rwa [winRegs_of_ctl hother])]
    refine hother _ ?_
    rcases mem_winRegs hq with ⟨i, hi, e⟩ | ⟨i, hi, e | e⟩ | ⟨i, hi, e⟩ <;> rw [e] <;> simp only [Reg.offset] <;> omega
  · exact (Chip.winSwitch_busy hn _).trans (s.chip.winStored_drain n)

theorem winDrainDone_cases (s : State) : let r := Reg.PORT_WIN_CTL n
    (s.chip.bit r F.PORT_WIN_CTL_BUSY = true → s.chip.winDrained n = true →
      ∃ t, exec (.winDrainDone n) s = .next t ∧ t.chip.bit r F.PORT_WIN_CTL_BUSY = false
        ∧ t.chip.bit r F.PORT_WIN_CTL_DONE = true ∧ t.chip.fld r F.PORT_WIN_CTL_RESULT = 1)
    ∧ (s.chip.winDrained n = false → Gives (.winDrainDone n) s s.chip) := by
  have hdoes : Gives (.winDrainDone n) s (if s.chip.bit (.PORT_WIN_CTL n) F.PORT_WIN_CTL_BUSY && s.chip.winDrained n then s.chip.winEnd n
      else s.chip) := gives_of_onChip rfl (decide_eq_true hn) rfl
  refine ⟨fun hb hd => ⟨_, hdoes.congr (if_pos ?_), ?_⟩, fun hd => hdoes.congr (if_neg ?_)⟩
  · rw [hb, hd]
    rfl
  · dsimp only
    exact s.chip.winEnd_ctl hn
  · rw [hd, Bool.and_false]
    decide

end

end Sys2Proof.Machine
end

section
/-! Endpoint functions: their configuration by the host, power states and function-level reset (R357, R361, R363, R364). -/

namespace Sys2Proof.Machine

-- a reset of one function, seen from the functions' registers

theorem resetBound_fnCfg {n : Nat} (l : List (Nat × Nat)) (hl : ∀ s ∈ l, s ∈ slots) (c : Chip) {g : Nat} (hg : g < 256) :
    (l.foldl (fun (x : Chip) s => x.instReset s.1 s.2 false) c).reg (.PORT_FN_CFG n g) = c.reg (.PORT_FN_CFG n g) :=
  Chip.resetBound_reg_ne hl c (fun _ _ _ _ => by simp only [Reg.offset]; omega) (fun _ _ _ _ => by simp only [Reg.offset]; omega)

section
variable {n : Nat}

theorem Chip.flrStart_fnCfg {c : Chip} {f g : Nat} (h : c.bit (.PORT_FN_CFG n f) F.PORT_FN_CFG_FLR_BUSY = false) (hg : g < 256) :
    (c.flrStart n f).reg (.PORT_FN_CFG n g) = (c.setBit (.PORT_FN_CFG n f) F.PORT_FN_CFG_FLR_BUSY true).reg (.PORT_FN_CFG n g) := by
  rw [Chip.flrStart_of_idle h, resetBound_fnCfg _ (Chip.boundTo_slots _ n f) _ hg, Chip.flrBegun, Chip.flrSend_reg, Chip.onFn_reg]

/-- A function whose reset has begun is busy. -/
theorem Chip.flrStart_busy (c : Chip) {f : Nat} (hf : f < 256) : (c.flrStart n f).bit (.PORT_FN_CFG n f) F.PORT_FN_CFG_FLR_BUSY = true := by
  cases h : c.bit (.PORT_FN_CFG n f) F.PORT_FN_CFG_FLR_BUSY
  · rw [Chip.bit_of_reg (Chip.flrStart_fnCfg h hf), Chip.bit_setBit _ _ _ _ (by decide) (by decide)]
  · rw [Chip.flrStart_of_busy h, h]

/-- It stays so while others begin. -/
theorem Chip.flrStart_busy_keeps {c : Chip} {f g : Nat} (hg : g < 256) (h : c.bit (.PORT_FN_CFG n g) F.PORT_FN_CFG_FLR_BUSY = true) :
    (c.flrStart n f).bit (.PORT_FN_CFG n g) F.PORT_FN_CFG_FLR_BUSY = true := by
  by_cases hfg : g = f
  · rw [← hfg]
    exact Chip.flrStart_busy c hg
  · cases h' : c.bit (.PORT_FN_CFG n f) F.PORT_FN_CFG_FLR_BUSY
    · rw [Chip.bit_of_reg (Chip.flrStart_fnCfg h' hg), Chip.bit_setBit_ne _ _ _ _ (by simp only [Reg.offset]; omega), h]
    · rw [Chip.flrStart_of_busy h', h]

theorem flrAll_busy (l : List Nat) {g : Nat} (hg : g < 256) (c : Chip)
    (h : g ∈ l ∨ c.bit (.PORT_FN_CFG n g) F.PORT_FN_CFG_FLR_BUSY = true) :
    (l.foldl (fun (x : Chip) f => x.flrStart n f) c).bit (.PORT_FN_CFG n g) F.PORT_FN_CFG_FLR_BUSY = true := by
  induction l generalizing c with
  | nil => exact h.resolve_left List.not_mem_nil
  | cons f l ih =>
    refine ih _ ?_
    rcases h with h | h
    · rcases List.mem_cons.1 h with rfl | h
      · exact .inr (Chip.flrStart_busy c hg)
      · exact .inl h
    · exact .inr (Chip.flrStart_busy_keeps hg h)

end

theorem Chip.flrStart_msix {c : Chip} {n f : Nat} (h : c.bit (.PORT_FN_CFG n f) F.PORT_FN_CFG_FLR_BUSY = false) :
    ((c.flrStart n f).fn n f).msix = [] := by
  rw [Chip.flrStart_of_idle h, fn_of_stations (Chip.resetBound_stations _ _), Chip.flrBegun, fn_of_fnSt (Chip.flrSend_fnSt _ n f), Chip.fn_onFn]

/-- The functions of an endpoint port. -/
theorem Chip.portFns_of_epFn {c : Chip} {n f g : Nat} (h : c.epFn n f = true) (hg : g ∈ c.portFns n (c.portOfFn n f)) : g < 256 := by
  simp only [Chip.epFn, Bool.and_eq_true] at h
  exact c.portFns_lt (Bool.and_eq_true_iff.1 h.1.2).1 hg

-- events at a port leave the functions

@[simp] theorem Chip.portEvent_fn (c : Chip) (a b m n f : Nat) : (c.portEvent a b m).fn n f = c.fn n f :=
  fn_of_fnSt (by rw [Chip.portEvent, Chip.raiseEvent_frame]) n f

theorem Chip.portEvent_msix (c : Chip) (a b m : Nat) : (c.portEvent a b m).msix = c.msix := by
  rw [Chip.portEvent, Chip.raiseEvent_frame]

-- the commands

section
variable (s : State) {n f : Nat} (hn : n < 10) (hf : f < 256)
include hn hf

theorem fnOk_of_lt : fnOk n f = true := by simp [fnOk, hn, hf]

/-- Both dwords of a BAR take effect together. -/
theorem barUpperWrite_cases (he : s.chip.epFn n f = true) (bar : Nat) (v : BitVec 32) (hb : barOk bar = true) :
    ∃ t, exec (.barUpperWrite n f bar v) s = .next t ∧ sget 0 bar (t.chip.fn n f).bar =
      (v.toNat * 2 ^ 32 + (sget 0 bar (s.chip.fn n f).barLow).toNat) / s.chip.barSize n f bar * s.chip.barSize n f bar := by
  have hdoes : Gives (.barUpperWrite n f bar v) s (s.chip.barUpper n f bar v) := gives_of_onChip rfl (by simp [fnOk_of_lt hn hf, hb]) rfl
  refine ⟨_, hdoes.congr (if_neg (by simp [he])), ?_⟩
  dsimp only
  rw [Chip.fn_onFn]
  exact sget_sset_self _ _ _ _

omit hn hf in
/-- The messages of a function in D0 go to its host, in their order. -/
theorem sendAll_msix (l : List Nat) {c : Chip} (h : (c.fn n f).d3 = false) : (l.foldl (fun (x : Chip) v => x.sendMsix n f v) c).fnSt = c.fnSt
    ∧ (l.foldl (fun (x : Chip) v => x.sendMsix n f v) c).msix = c.msix ++ l.map (fun v => (256 * n + f, v)) := by
  induction l generalizing c with
  | nil => exact ⟨rfl, (List.append_nil _).symm⟩
  | cons v l ih =>
    have hsend : c.sendMsix n f v = { c with msix := c.msix ++ [(256 * n + f, v)] } := if_neg (by simp [h])
    obtain ⟨h1, h2⟩ := ih (c := c.sendMsix n f v) (by rw [hsend]; exact h)
    rw [List.foldl_cons, h1, h2, hsend]
    exact ⟨rfl, by rw [List.map_cons, List.append_assoc, List.singleton_append]⟩

theorem dStateChange_does (d3 : Bool) : Gives (.dStateChange n f d3) s (s.chip.setD n f d3) := gives_of_onChip rfl (fnOk_of_lt hn hf) rfl

omit hn hf in
/-- DSTATE and the event of a power state. -/
def Chip.dNoted (c x : Chip) (n f : Nat) (d3 : Bool) : Chip :=
  (if c.vfOf n f = 0 then x.setFld (.PORT_STATUS n (c.portOfFn n f)) F.PORT_STATUS_DSTATE (if d3 then 3 else 0) else x).portEvent n
    (c.portOfFn n f) 3

omit hn hf in
theorem Chip.dNoted_same (c x : Chip) (n f : Nat) (d3 : Bool) : (c.dNoted x n f d3).fn n f = x.fn n f ∧ (c.dNoted x n f d3).msix = x.msix := by
  rw [Chip.dNoted, Chip.portEvent_fn, Chip.portEvent_msix]
  split <;> exact ⟨rfl, rfl⟩

omit hn hf in
theorem Chip.setD_sleep {c : Chip} (he : c.epFn n f = true) (h : (c.fn n f).d3 = false) :
    c.setD n f true = c.dNoted (c.onFn n f (fun s => { s with d3 := true, msix := s.msix })) n f true := if_neg (by simp [he, h])

omit hn hf in
/-- A function that goes back to D0, with nothing pending. -/
def Chip.woken (c : Chip) (n f : Nat) : Chip := c.onFn n f (fun s => { s with d3 := false, msix := [] })

omit hn hf in
theorem Chip.setD_wake {c : Chip} (he : c.epFn n f = true) (h : (c.fn n f).d3 = true) :
    c.setD n f false = c.dNoted ((c.fn n f).msix.foldl (fun (x : Chip) v => x.sendMsix n f v) (c.woken n f)) n f false :=
  if_neg (by simp [he, h])

theorem dStateChange_cases (he : s.chip.epFn n f = true) :
    ((s.chip.fn n f).d3 = false → ∃ t, exec (.dStateChange n f true) s = .next t ∧ (t.chip.fn n f).d3 = true
        ∧ (t.chip.fn n f).msix = (s.chip.fn n f).msix)
      ∧ ((s.chip.fn n f).d3 = true → ∃ t, exec (.dStateChange n f false) s = .next t ∧ (t.chip.fn n f).d3 = false
        ∧ (t.chip.fn n f).msix = [] ∧ t.chip.msix = s.chip.msix ++ (s.chip.fn n f).msix.map (fun v => (256 * n + f, v))) := by
  refine ⟨fun h => ⟨_, (dStateChange_does s hn hf true).congr (Chip.setD_sleep he h), ?_⟩,
    fun h => ⟨_, (dStateChange_does s hn hf false).congr (Chip.setD_wake he h), ?_⟩⟩
  · dsimp only
    rw [(Chip.dNoted_same ..).1, Chip.fn_onFn]
    exact ⟨rfl, rfl⟩
  · obtain ⟨h1, h2⟩ := sendAll_msix (n := n) (f := f) (s.chip.fn n f).msix (c := s.chip.woken n f) (by rw [Chip.woken, Chip.fn_onFn])
    dsimp only
    rw [(Chip.dNoted_same ..).1, (Chip.dNoted_same ..).2, fn_of_fnSt h1, h2, Chip.woken, Chip.fn_onFn]
    exact ⟨rfl, rfl, rfl⟩

theorem pageSelWrite_cases (he : s.chip.epFn n f = true) (v : Word) :
    (s.chip.barOn n f = true → Gives (.pageSelWrite n f v) s (s.chip.onFn n f (fun y => { y with pageSel := v.toNat % 2 ^ 13 })))
      ∧ (s.chip.barOn n f = false → Gives (.pageSelWrite n f v) s s.chip) := by
  have hdoes : Gives (.pageSelWrite n f v) s (s.chip.pageSel n f v) := gives_of_onChip rfl (fnOk_of_lt hn hf) rfl
  exact ⟨fun h => hdoes.congr (if_pos (by simp [he, h])), fun h => hdoes.congr (if_neg (by simp [h]))⟩

theorem hostConfigWrite_does {off : Nat} (v : BitVec 32) (ho : off < 4096) (h4 : off % 4 = 0) :
    Gives (.hostConfigWrite n f off v) s (s.chip.hostConfig n f off v) := gives_of_onChip rfl (by simp [fnOk_of_lt hn hf, ho, h4]) rfl

omit hn hf in
/-- VF Enable as its host writes it; VFs that were enabled and are no longer begin their reset. -/
def Chip.vfWrite (c : Chip) (n f : Nat) (v : BitVec 32) : Chip :=
  if c.vfOf n f = 0 ∧ c.vfEnable n (c.portOfFn n f) ∧ !v.toNat.testBit 0 then
    ((c.portFns n (c.portOfFn n f)).filter (fun g => g != f && c.epFn n g)).foldl (fun (x : Chip) g => x.flrStart n g)
      (c.onFn n f (fun s => { s with cfg := sset 0 0x5A (v &&& 0x19) s.cfg }))
  else c.onFn n f (fun s => { s with cfg := sset 0 0x5A (v &&& 0x19) s.cfg })

omit hn hf in
/-- What a configuration write does, by the dword it names. -/
theorem Chip.hostConfig_eq {c : Chip} (he : c.epFn n f = true) (hb : c.bit (.PORT_FN_CFG n f) F.PORT_FN_CFG_FLR_BUSY = false) (off : Nat)
    (v : BitVec 32) :
    (off / 4 = 1 → c.hostConfig n f off v = c.onFn n f (fun s => { s with memEn := v.toNat.testBit 1 }))
    ∧ (off / 4 = 5 → c.hostConfig n f off v = c.barUpper n f 0 v)
    ∧ (off / 4 = 20 → c.hostConfig n f off v = if v.toNat.testBit 15 then c.flrStart n f else c)
    ∧ (off / 4 = 90 → c.hostConfig n f off v = c.vfWrite n f v)
    ∧ (off / 4 = 92 → c.hostConfig n f off v = if c.vfEnable n (c.portOfFn n f) then c
        else c.onFn n f (fun s => { s with cfg := sset 0 92 (v &&& 0xFFFF) s.cfg }))
    ∧ (22 ≤ off / 4 → off / 4 ≠ 90 → off / 4 ≠ 92 → c.hostConfig n f off v =
        c.onFn n f (fun s => { s with cfg := sset 0 (off / 4) v s.cfg })) := by
  have hgo : (!c.epFn n f || c.bit (.PORT_FN_CFG n f) F.PORT_FN_CFG_FLR_BUSY) = false := by simp [he, hb]
  have hone : ∀ k x, off / 4 = k → c.hostConfig n f (4 * k) v = x → c.hostConfig n f off v = x := fun k x hk hx => by
    rw [← hx]
    unfold Chip.hostConfig
    rw [hk, Nat.mul_div_cancel_left k (by decide)]
  refine ⟨fun h => hone 1 _ h (if_neg (by rw [hgo]; decide)), fun h => hone 5 _ h (if_neg (by rw [hgo]; decide)),
    fun h => hone 20 _ h (if_neg (by rw [hgo]; decide)), fun h => hone 90 _ h (if_neg (by rw [hgo]; decide)),
    fun h => hone 92 _ h (if_neg (by rw [hgo]; decide)), fun h22 h90 h92 => ?_⟩
  unfold Chip.hostConfig
  rw [if_neg (by rw [hgo]; decide)]
  generalize off / 4 = i at h22 h90 h92
  dsimp only
  split
  any_goals omega
  rfl

omit hn hf in
theorem Chip.vfWrite_keeps {c : Chip} {v : BitVec 32}
    (h : ¬ (c.vfOf n f = 0 ∧ c.vfEnable n (c.portOfFn n f) = true ∧ v.toNat.testBit 0 = false)) :
    c.vfWrite n f v = c.onFn n f (fun y => { y with cfg := sset 0 90 (v &&& 0x19) y.cfg }) :=
  if_neg (by simpa using h)

omit hn hf in
/-- Every other function of the port that its host had enabled is busy. -/
theorem Chip.vfWrite_resets {c : Chip} {v : BitVec 32} (he : c.epFn n f = true) (h0 : c.vfOf n f = 0)
    (hv : c.vfEnable n (c.portOfFn n f) = true) (hb : v.toNat.testBit 0 = false) {g : Nat} (hg : g ∈ c.portFns n (c.portOfFn n f))
    (hne : g ≠ f) (heg : c.epFn n g = true) : (c.vfWrite n f v).bit (.PORT_FN_CFG n g) F.PORT_FN_CFG_FLR_BUSY = true := by
  rw [Chip.vfWrite, if_pos ⟨h0, hv, by simp [hb]⟩]
  exact flrAll_busy _ (Chip.portFns_of_epFn he hg) _ (.inl (List.mem_filter.2 ⟨hg, by simp [hne, heg]⟩))

theorem hostConfigWrite_cases (he : s.chip.epFn n f = true) (hb : s.chip.bit (.PORT_FN_CFG n f) F.PORT_FN_CFG_FLR_BUSY = false) (off : Nat)
    (v : BitVec 32) (ho : off < 4096) (h4 : off % 4 = 0) :
    (off = 4 → Gives (.hostConfigWrite n f off v) s (s.chip.onFn n f (fun y => { y with memEn := v.toNat.testBit 1 })))
    ∧ (off = 20 → Gives (.hostConfigWrite n f off v) s (s.chip.barUpper n f 0 v))
    ∧ (off = 80 → v.toNat.testBit 15 = true → Gives (.hostConfigWrite n f off v) s (s.chip.flrStart n f))
    ∧ (88 ≤ off → off ≠ 360 → off ≠ 368 → Gives (.hostConfigWrite n f off v) s
      (s.chip.onFn n f (fun y => { y with cfg := sset 0 (off / 4) v y.cfg })))
    ∧ (off = 360 → ¬ (s.chip.vfOf n f = 0 ∧ s.chip.vfEnable n (s.chip.portOfFn n f) = true ∧ v.toNat.testBit 0 = false) →
      Gives (.hostConfigWrite n f off v) s (s.chip.onFn n f (fun y => { y with cfg := sset 0 90 (v &&& 0x19) y.cfg })))
    ∧ (off = 360 → s.chip.vfOf n f = 0 → s.chip.vfEnable n (s.chip.portOfFn n f) = true → v.toNat.testBit 0 = false →
      ∃ t, exec (.hostConfigWrite n f off v) s = .next t
        ∧ ∀ g ∈ s.chip.portFns n (s.chip.portOfFn n f), g ≠ f → s.chip.epFn n g = true →
          t.chip.bit (.PORT_FN_CFG n g) F.PORT_FN_CFG_FLR_BUSY = true)
    ∧ (off = 368 → (s.chip.vfEnable n (s.chip.portOfFn n f) = true → Gives (.hostConfigWrite n f off v) s s.chip)
      ∧ (s.chip.vfEnable n (s.chip.portOfFn n f) = false → Gives (.hostConfigWrite n f off v) s
        (s.chip.onFn n f (fun y => { y with cfg := sset 0 92 (v &&& 0xFFFF) y.cfg })))) := by
  have hdoes := hostConfigWrite_does s hn hf v ho h4
  obtain ⟨h1, h5, h20, h90, h92, hrest⟩ := Chip.hostConfig_eq he hb off v
  refine ⟨fun e => hdoes.congr (h1 (by omega)), fun e => hdoes.congr (h5 (by omega)), fun e hv => hdoes.congr ((h20 (by omega)).trans
    (if_pos hv)), fun e e1 e2 => hdoes.congr (hrest (by omega) (by omega) (by omega)), fun e hv => hdoes.congr ((h90 (by omega)).trans
    (Chip.vfWrite_keeps hv)), fun e h0 hv hb' => ⟨_, hdoes.congr (h90 (by omega)), fun g hg hne heg => ?_⟩, fun e => ⟨fun hv =>
    hdoes.congr ((h92 (by omega)).trans (if_pos hv)), fun hv => hdoes.congr ((h92 (by omega)).trans (if_neg (by simp [hv])))⟩⟩
  exact Chip.vfWrite_resets he h0 hv hb' hg hne heg

/-- What the host writes to a function that is not there has no effect. -/
theorem absentFunction_cases (he : s.chip.epFn n f = false) (off : Nat) (v : BitVec 32) (d3 : Bool) (w : Word) (ho : off < 4096)
    (h4 : off % 4 = 0) : Gives (.hostConfigWrite n f off v) s s.chip ∧ Gives (.dStateChange n f d3) s s.chip
      ∧ Gives (.pageSelWrite n f w) s s.chip ∧ Gives (.barUpperWrite n f 0 v) s s.chip :=
  ⟨(hostConfigWrite_does s hn hf v ho h4).congr (if_pos (by simp [he])), (dStateChange_does s hn hf d3).congr (if_pos (by simp [he])),
    gives_of_onChip rfl (fnOk_of_lt hn hf) (if_neg (by simp [he])),
    gives_of_onChip rfl (by simp [fnOk_of_lt hn hf, barOk]) (if_pos (by simp [he]))⟩

-- function-level reset

omit hn hf in
theorem fnCfg_sound (n f : Nat) : (Reg.PORT_FN_CFG n f).sound := by
  rw [Reg.sound, Reg.fields]
  decide

omit hn hf in
/-- The chip after the fields of a write to PORT_FN_CFG are stored. -/
def Chip.cfgStored (c : Chip) (n f : Nat) (v : Word) : Chip := c.storeFields (.PORT_FN_CFG n f) v

omit hn hf in
theorem Chip.cfgStored_busy (c : Chip) (n f : Nat) (v : Word) :
    (c.cfgStored n f v).bit (.PORT_FN_CFG n f) F.PORT_FN_CFG_FLR_BUSY = c.bit (.PORT_FN_CFG n f) F.PORT_FN_CFG_FLR_BUSY :=
  Chip.bit_of_fld (c.fld_storeFields_ro v (fnCfg_sound n f) (.tail _ (.tail _ (.tail _ (.tail _ (.head _))))) (.inl rfl))

omit hn hf in
theorem Chip.fnCfg_flr {c : Chip} {who : Who} (h : who.sealed = true) (w : Word) :
    c.fnCfgWrite who n f (F.PORT_FN_CFG_FLR.put w 1) = (c.cfgStored n f (F.PORT_FN_CFG_FLR.put w 1)).flrStart n f := by
  rw [Chip.fnCfgWrite, Chip.ifMay_of_true _ _ _ _ h]
  exact if_pos (Field.get_put _ _ _ (by decide) (by decide))

omit hn hf in
theorem Chip.fnCfg_refused {c : Chip} {who : Who} (h : who.sealed = false) (v : Word) :
    c.fnCfgWrite who n f v = c.refuseWrite who (.PORT_FN_CFG n f) := by
  rw [Chip.fnCfgWrite, Chip.ifMay_of_false _ _ _ _ h]

theorem flr_cases (who : Who) :
    (who.sealed = true → s.chip.bit (.PORT_FN_CFG n f) F.PORT_FN_CFG_FLR_BUSY = false → ∃ t, exec (.flr who n f) s = .next t
        ∧ t.chip.bit (.PORT_FN_CFG n f) F.PORT_FN_CFG_FLR_BUSY = true ∧ (t.chip.fn n f).msix = [])
      ∧ (who.sealed = false → Gives (.flr who n f) s (s.chip.refuseWrite who (.PORT_FN_CFG n f))) := by
  have hdoes : Gives (.flr who n f) s (s.chip.fnCfgWrite who n f (F.PORT_FN_CFG_FLR.put (s.chip.reg (.PORT_FN_CFG n f)) 1)) :=
    gives_of_onChip rfl (fnOk_of_lt hn hf) rfl
  exact ⟨fun h hb => ⟨_, hdoes.congr (Chip.fnCfg_flr h _), Chip.flrStart_busy _ hf, Chip.flrStart_msix ((Chip.cfgStored_busy ..).trans hb)⟩,
    fun h => hdoes.congr (Chip.fnCfg_refused h _)⟩

omit hn hf in
/-- The function after its reset. -/
def Chip.flrOver (c : Chip) (n f : Nat) : Chip := (c.setBit (.PORT_FN_CFG n f) F.PORT_FN_CFG_FLR_BUSY false).onFn n f (fun s =>
  { FnSt.reset with disabled := s.disabled, winPend := s.winPend, pmeSts := s.pmeSts, pmeEn := s.pmeEn })

omit hn hf in
/-- Its port's DSTATE, too, where the function is the PF. -/
def Chip.flrTold (c : Chip) (n f : Nat) : Chip :=
  (if c.epFn n f && c.vfOf n f == 0 then (c.flrOver n f).setFld (.PORT_STATUS n (c.portOfFn n f)) F.PORT_STATUS_DSTATE 0
    else c.flrOver n f).portEvent n (c.portOfFn n f) 6

omit hn hf in
theorem Chip.flrEnd_of_still {c : Chip} (hb : c.bit (.PORT_FN_CFG n f) F.PORT_FN_CFG_FLR_BUSY = true)
    (ho : ∀ q ∈ (c.port n (c.portOfFn n f)).outst, q.fn ≠ f) (hi : ∀ q ∈ c.boundTo n f, c.instState q.1 q.2 ≠ 2) :
    c.flrEnd n f = c.flrTold n f := by
  have h1 : (c.port n (c.portOfFn n f)).outst.any (fun q => q.fn == f) = false := by simpa using ho
  have h2 : (c.boundTo n f).any (fun s => c.instState s.1 s.2 == 2) = false := by
    simp only [List.any_eq_false, beq_iff_eq]
    exact hi
  exact (if_neg (by rw [hb]; decide)).trans (if_neg (by rw [h1, h2]; decide))

omit hn hf in
theorem Chip.flrTold_fn (c : Chip) (n f : Nat) : (c.flrTold n f).fn n f = { FnSt.reset with
    disabled := (c.fn n f).disabled, winPend := (c.fn n f).winPend, pmeSts := (c.fn n f).pmeSts, pmeEn := (c.fn n f).pmeEn } := by
  have hover : (c.flrOver n f).fn n f = { FnSt.reset with
      disabled := (c.fn n f).disabled, winPend := (c.fn n f).winPend, pmeSts := (c.fn n f).pmeSts, pmeEn := (c.fn n f).pmeEn } :=
    Chip.fn_onFn _ n f _
  rw [Chip.flrTold, Chip.portEvent_fn]
  split
  · exact hover
  · exact hover

omit hn in
theorem Chip.flrTold_idle {c : Chip} : (c.flrTold n f).bit (.PORT_FN_CFG n f) F.PORT_FN_CFG_FLR_BUSY = false := by
  have hover : (c.flrOver n f).bit (.PORT_FN_CFG n f) F.PORT_FN_CFG_FLR_BUSY = false := Chip.bit_setBit c _ _ _ (by decide) (by decide)
  have hport : c.portOfFn n f ≤ f := Nat.div_le_self _ _
  rw [Chip.flrTold, Chip.bit_of_reg (Chip.reg_portEvent_ne _ _ _ _ (by simp only [Reg.offset]; omega))]
  split
  · rw [Chip.bit_setFld_ne _ _ _ _ (by simp only [Reg.offset]; omega)]
    exact hover
  · exact hover

theorem flrDone_cases :
    (s.chip.bit (.PORT_FN_CFG n f) F.PORT_FN_CFG_FLR_BUSY = true →
      (∀ q ∈ (s.chip.port n (s.chip.portOfFn n f)).outst, q.fn ≠ f) →
      (∀ q ∈ s.chip.boundTo n f, s.chip.instState q.1 q.2 ≠ 2) → ∃ t, exec (.flrDone n f) s = .next t
        ∧ t.chip.bit (.PORT_FN_CFG n f) F.PORT_FN_CFG_FLR_BUSY = false ∧ t.chip.fn n f =
          { FnSt.reset with disabled := (s.chip.fn n f).disabled, winPend := (s.chip.fn n f).winPend, pmeSts := (s.chip.fn n f).pmeSts
                            pmeEn := (s.chip.fn n f).pmeEn })
    ∧ (s.chip.bit (.PORT_FN_CFG n f) F.PORT_FN_CFG_FLR_BUSY = false → Gives (.flrDone n f) s s.chip) := by
  have hdoes : Gives (.flrDone n f) s (s.chip.flrEnd n f) := gives_of_onChip rfl (fnOk_of_lt hn hf) rfl
  exact ⟨fun hb ho hi => ⟨_, hdoes.congr (Chip.flrEnd_of_still hb ho hi), Chip.flrTold_idle hf, Chip.flrTold_fn _ n f⟩,
    fun hb => hdoes.congr (if_pos (by rw [hb]; rfl))⟩

/-- The commands of an endpoint function (R357 to R364). -/
theorem functions_cases : let x := s.chip.fn n f
    let busy := s.chip.bit (.PORT_FN_CFG n f) F.PORT_FN_CFG_FLR_BUSY
    (s.chip.epFn n f = true →
      (∀ (bar : Nat) (v : BitVec 32), barOk bar = true → ∃ t, exec (.barUpperWrite n f bar v) s = .next t
        ∧ sget 0 bar (t.chip.fn n f).bar = (v.toNat * 2 ^ 32 + (sget 0 bar x.barLow).toNat) / s.chip.barSize n f bar * s.chip.barSize n f bar)
      ∧ (x.d3 = false → ∃ t, exec (.dStateChange n f true) s = .next t ∧ (t.chip.fn n f).d3 = true
        ∧ (t.chip.fn n f).msix = x.msix)
      ∧ (x.d3 = true → ∃ t, exec (.dStateChange n f false) s = .next t ∧ (t.chip.fn n f).d3 = false
        ∧ (t.chip.fn n f).msix = [] ∧ t.chip.msix = s.chip.msix ++ x.msix.map (fun v => (256 * n + f, v)))
      ∧ (∀ v : Word, (s.chip.barOn n f = true → Gives (.pageSelWrite n f v) s
          (s.chip.onFn n f (fun y => { y with pageSel := v.toNat % 2 ^ 13 })))
        ∧ (s.chip.barOn n f = false → Gives (.pageSelWrite n f v) s s.chip))
      ∧ (busy = false → ∀ (off : Nat) (v : BitVec 32), off < 4096 → off % 4 = 0 →
        (off = 4 → Gives (.hostConfigWrite n f off v) s (s.chip.onFn n f (fun y => { y with memEn := v.toNat.testBit 1 })))
        ∧ (off = 20 → Gives (.hostConfigWrite n f off v) s (s.chip.barUpper n f 0 v))
        ∧ (off = 80 → v.toNat.testBit 15 = true → Gives (.hostConfigWrite n f off v) s (s.chip.flrStart n f))
        ∧ (88 ≤ off → off ≠ 360 → off ≠ 368 → Gives (.hostConfigWrite n f off v) s
          (s.chip.onFn n f (fun y => { y with cfg := sset 0 (off / 4) v y.cfg })))
        ∧ (off = 360 → ¬ (s.chip.vfOf n f = 0 ∧ s.chip.vfEnable n (s.chip.portOfFn n f) = true ∧ v.toNat.testBit 0 = false) →
          Gives (.hostConfigWrite n f off v) s (s.chip.onFn n f (fun y => { y with cfg := sset 0 90 (v &&& 0x19) y.cfg })))
        ∧ (off = 360 → s.chip.vfOf n f = 0 → s.chip.vfEnable n (s.chip.portOfFn n f) = true → v.toNat.testBit 0 = false →
          ∃ t, exec (.hostConfigWrite n f off v) s = .next t
            ∧ ∀ g ∈ s.chip.portFns n (s.chip.portOfFn n f), g ≠ f → s.chip.epFn n g = true →
              t.chip.bit (.PORT_FN_CFG n g) F.PORT_FN_CFG_FLR_BUSY = true)
        ∧ (off = 368 → (s.chip.vfEnable n (s.chip.portOfFn n f) = true → Gives (.hostConfigWrite n f off v) s s.chip)
          ∧ (s.chip.vfEnable n (s.chip.portOfFn n f) = false → Gives (.hostConfigWrite n f off v) s
            (s.chip.onFn n f (fun y => { y with cfg := sset 0 92 (v &&& 0xFFFF) y.cfg }))))))
    ∧ (s.chip.epFn n f = false → ∀ (off : Nat) (v : BitVec 32) (d3 : Bool) (w : Word), off < 4096 → off % 4 = 0 →
      Gives (.hostConfigWrite n f off v) s s.chip ∧ Gives (.dStateChange n f d3) s s.chip ∧ Gives (.pageSelWrite n f w) s s.chip
        ∧ Gives (.barUpperWrite n f 0 v) s s.chip)
    ∧ (∀ who : Who, (who.sealed = true → busy = false → ∃ t, exec (.flr who n f) s = .next t
        ∧ t.chip.bit (.PORT_FN_CFG n f) F.PORT_FN_CFG_FLR_BUSY = true ∧ (t.chip.fn n f).msix = [])
      ∧ (who.sealed = false → Gives (.flr who n f) s (s.chip.refuseWrite who (.PORT_FN_CFG n f))))
    ∧ (busy = true → (∀ q ∈ (s.chip.port n (s.chip.portOfFn n f)).outst, q.fn ≠ f) →
      (∀ q ∈ s.chip.boundTo n f, s.chip.instState q.1 q.2 ≠ 2) → ∃ t, exec (.flrDone n f) s = .next t
        ∧ t.chip.bit (.PORT_FN_CFG n f) F.PORT_FN_CFG_FLR_BUSY = false ∧ t.chip.fn n f =
          { FnSt.reset with disabled := x.disabled, winPend := x.winPend, pmeSts := x.pmeSts, pmeEn := x.pmeEn })
    ∧ (busy = false → Gives (.flrDone n f) s s.chip) := by
  intro x busy
  obtain ⟨hover, hidle⟩ := flrDone_cases s hn hf
  refine ⟨fun he => ?_, fun he off v d3 w ho h4 => absentFunction_cases s hn hf he off v d3 w ho h4, flr_cases s hn hf, hover, hidle⟩
  obtain ⟨hsleep, hwake⟩ := dStateChange_cases s hn hf he
  exact ⟨barUpperWrite_cases s hn hf he, hsleep, hwake, pageSelWrite_cases s hn hf he, hostConfigWrite_cases s hn hf he⟩

end

end Sys2Proof.Machine
end

section
/-! What a hart does leaves the registers of the IOMMUs: they are reached by messages alone (R285). One lemma for each operation of a
hart, in the order of the model. -/

namespace Sys2Proof.Machine

-- the hart itself

@[simp] theorem Chip.report_iommu (c : Chip) (u src rid w acc d a : Nat) : (c.report u src rid w acc d a).iommu = c.iommu := by
  rw [Chip.report_frame]

theorem Chip.settle_iommu (c : Chip) (h : Nat) : (c.settle h).iommu = c.iommu :=
  foldl_same Chip.iommu (fun x line => by split <;> simp) _ c

theorem Chip.unpin_iommu (c : Chip) (h : Nat) : (c.unpin h).iommu = c.iommu :=
  foldl_same Chip.iommu (fun x line => by split <;> simp) _ c

theorem Chip.stepHalt_iommu (c : Chip) (h : Nat) : (c.stepHalt h).iommu = c.iommu := by
  unfold Chip.stepHalt
  dsimp only
  split <;> simp

theorem Chip.haltAtGate_iommu (c : Chip) (h : Nat) : (c.haltAtGate h).iommu = c.iommu := by
  unfold Chip.haltAtGate
  dsimp only
  split <;> simp

@[simp] theorem Chip.takeTrap_iommu (c : Chip) (h : Nat) (t : TrapInfo) : (c.takeTrap h t).iommu = c.iommu := by
  unfold Chip.takeTrap
  dsimp only
  rw [Chip.stepHalt_iommu]
  split <;> simp only [Chip.haltAtGate_iommu, Chip.settle_iommu, Chip.unpin_iommu, Chip.setHart_iommu]

@[simp] theorem Chip.except_iommu (c : Chip) (h cause : Nat) (tval : Word) : (c.except h cause tval).iommu = c.iommu := c.takeTrap_iommu ..

@[simp] theorem Chip.stopIllegal_iommu (c : Chip) (h cause : Nat) : (c.stopIllegal h cause).1.iommu = c.iommu :=
  (c.nextFree.except_iommu ..).trans c.nextFree_iommu

@[simp] theorem Chip.stopWith_iommu (c : Chip) (h : Nat) (t : TrapInfo) : (c.stopWith h t).1.iommu = c.iommu := c.takeTrap_iommu h t

theorem Chip.irqPoll_iommu (c : Chip) (h : Nat) : (c.irqPoll h).iommu = c.iommu := by
  unfold Chip.irqPoll
  dsimp only
  split
  · rfl
  · split
    · rfl
    · split <;> simp

theorem Chip.haltPoll_iommu (c : Chip) (h : Nat) : (c.haltPoll h).iommu = c.iommu := by
  unfold Chip.haltPoll
  dsimp only
  split
  · rfl
  · split
    · rfl
    · split <;> simp

@[simp] theorem Chip.countEvent_iommu (c : Chip) (h ev n : Nat) : (c.countEvent h ev n).iommu = c.iommu := c.onHart_iommu ..

@[simp] theorem Chip.hartRefusal_iommu (c : Chip) (h acc addr : Nat) : (c.hartRefusal h acc addr).iommu = c.iommu := c.report_iommu ..

@[simp] theorem Chip.poisonTrap_iommu (c : Chip) (h addr acc : Nat) (va : Word) : (c.poisonTrap h addr acc va).1.iommu = c.iommu :=
  c.report_iommu ..

@[simp] theorem Chip.noteGot_iommu (c : Chip) (h k v : Nat) : (c.noteGot h k v).iommu = c.iommu := c.onHart_iommu ..

theorem Chip.finish_iommu (c : Chip) (h : Nat) : (c.finish h).iommu = c.iommu := by
  unfold Chip.finish
  split
  · exact Chip.countEvent_iommu _ _ _ _
  · simp

-- messages

theorem Chip.sendTokens_iommu (c : Chip) (m : Msg) : (c.sendTokens m).iommu = c.iommu := by
  have hcharge : ∀ p k, (c.charge p k).iommu = c.iommu := fun _ _ => rfl
  unfold Chip.sendTokens
  split
  · rfl
  · dsimp only
    repeat' split
    all_goals simp [hcharge, Chip.markActive]

@[simp] theorem Chip.issue_iommu (c : Chip) (m : Msg) : (c.issue m).iommu = c.iommu := by
  unfold Chip.issue
  split
  · rfl
  · exact c.sendTokens_iommu m

@[simp] theorem Chip.sendCheck_iommu (c : Chip) (h line acc : Nat) : (c.sendCheck h line acc).iommu = c.iommu := by
  unfold Chip.sendCheck
  split
  · rfl
  · split
    · rfl
    · simp

@[simp] theorem Chip.sendMiss_iommu (c : Chip) (h : Nat) (m : Msg) : (c.sendMiss h m).iommu = c.iommu := by
  unfold Chip.sendMiss
  split
  · rfl
  · split
    · rfl
    · dsimp only
      split <;> simp

-- lines

theorem ite_iommu {α : Type} {p : Prop} [Decidable p] {a b : Chip × α} {m : Sparse Word} (ha : a.1.iommu = m) (hb : b.1.iommu = m) :
    (if p then a else b).1.iommu = m := by split <;> assumption

@[simp] theorem Chip.useWay_iommu (c : Chip) (l : Lru) (set way : Nat) : (c.useWay l set way).iommu = c.iommu := rfl

@[simp] theorem Chip.useL2_iommu (c : Chip) (h line : Nat) : (c.useL2 h line).iommu = c.iommu := rfl

@[simp] theorem Chip.dropL2_iommu (c : Chip) (h line : Nat) : (c.dropL2 h line).iommu = c.iommu := by
  rw [Chip.dropL2, Chip.onHart_iommu, Chip.setL2_iommu]

@[simp] theorem Chip.setLnd_iommu (c : Chip) (d line : Nat) (v : Option LndLine) : (c.setLnd d line v).iommu = c.iommu := rfl

@[simp] theorem Chip.evictClean_iommu (c : Chip) (d line h : Nat) : (c.evictClean d line h).iommu = c.iommu := by
  unfold Chip.evictClean Chip.cleanNotice
  split <;> simp

@[simp] theorem Chip.lndUnshadow_iommu (c : Chip) (d line : Nat) : (c.lndUnshadow d line).iommu = c.iommu := by
  unfold Chip.lndUnshadow
  split
  · split <;> simp
  · rfl

@[simp] theorem Chip.lndAlloc_iommu (c : Chip) (d line h : Nat) (data : Line) (poison : Bool) (world : Nat) (shadowed : Bool) :
    (c.lndAlloc d line h data poison world shadowed).iommu = c.iommu := by
  unfold Chip.lndAlloc
  split
  · rfl
  · split
    · rfl
    · dsimp only
      rw [Chip.useWay_iommu, Chip.setLnd_iommu]
      split <;> simp

@[simp] theorem Chip.evictL2_iommu (c : Chip) (h line : Nat) : (c.evictL2 h line).iommu = c.iommu := by
  have hclean : ∀ l : L2Line, ((match (c.dropL2 h line).lndAt (hartDie h) line with
      | some _ => (c.dropL2 h line).lndUnshadow (hartDie h) line
      | none => (c.dropL2 h line).lndAlloc (hartDie h) line h l.data l.poison l.world ((c.dropL2 h line).ownedOn (hartDie h) line)).evictClean
        (hartDie h) line h).iommu = c.iommu := fun l => by
    rw [Chip.evictClean_iommu]
    split <;> simp
  unfold Chip.evictL2
  dsimp only
  split
  case h_1 => rfl
  case h_2 | h_3 => split <;> simp
  case h_4 | h_5 => exact hclean _

@[simp] theorem Chip.l2Put_iommu (c : Chip) (h line : Nat) (l : L2Line) : (c.l2Put h line l).iommu = c.iommu := by
  unfold Chip.l2Put
  split
  · rfl
  · dsimp only
    rw [Chip.useWay_iommu, Chip.setL2_iommu]
    split <;> simp

theorem Chip.filterEvict_iommu (c : Chip) (d line : Nat) : (c.filterEvict d line).iommu = c.iommu :=
  foldl_same (f := fun (x : Chip) h => x.evictL2 h line) Chip.iommu (fun x h => x.evictL2_iommu h line) _ c

theorem Chip.filterRoom_iommu {c x : Chip} {d line : Nat} (h : c.filterRoom d line = some x) : x.iommu = c.iommu := by
  unfold Chip.filterRoom at h
  dsimp only at h
  split at h
  · cases h
    rfl
  · obtain ⟨v, -, rfl⟩ := Option.map_eq_some_iff.1 h
    rw [Chip.filterEvict_iommu, Chip.nextFree_iommu]

theorem Chip.roomFor_iommu {c x : Chip} {h line : Nat} (hx : c.roomFor h line = some x) : x.iommu = c.iommu :=
  Chip.filterRoom_iommu (Option.filter_eq_some_iff.1 hx).1

theorem Chip.cancelWb_iommu {c x : Chip} {e : WbEntry} (hx : c.cancelWb e = some x) : x.iommu = c.iommu := by
  obtain ⟨y, hy, rfl⟩ := Option.map_eq_some_iff.1 hx
  rw [Chip.l2Put_iommu, Chip.roomFor_iommu hy]

theorem Chip.pastWb_iommu (c : Chip) (d line : Nat) {k : Chip → Chip × Acq} (hk : ∀ x, (k x).1.iommu = x.iommu) :
    (c.pastWb d line k).1.iommu = c.iommu := by
  unfold Chip.pastWb
  split
  · exact hk c
  · split
    · rfl
    · split
      · rfl
      next x hx => exact (hk x).trans (Chip.cancelWb_iommu hx)

@[simp] theorem Chip.dieMap_iommu (c : Chip) (d line : Nat) (f : Moesi → Moesi) : (c.dieMap d line f).iommu = c.iommu :=
  foldl_same (f := fun (x : Chip) h => x.setL2 h line { x.l2at h line with st := f (x.l2at h line).st }) Chip.iommu
    (fun x h => x.setL2_iommu h line _) _ c

@[simp] theorem Chip.installL2_iommu (c : Chip) (h line : Nat) (st : Moesi) (world : Nat) (data : Line) (poison : Bool) :
    (c.installL2 h line st world data poison).iommu = c.iommu := by
  have hroom : ((c.roomFor h line).getD c).iommu = c.iommu := by
    cases hr : c.roomFor h line with
    | none => rfl
    | some x => exact Chip.roomFor_iommu hr
  have hput : ∀ l, (((c.roomFor h line).getD c).l2Put h line l).iommu = c.iommu := fun l => (Chip.l2Put_iommu ..).trans hroom
  have hshadow : ∀ x : Chip, (match x.lndAt (hartDie h) line with
      | some e => if x.lndMode (hartDie h) ≤ 1 then x.setLnd (hartDie h) line (some { e with shadowed := true }) else x
      | none => x).iommu = x.iommu := fun x => by
    split
    · split <;> simp
    · rfl
  unfold Chip.installL2
  dsimp only
  by_cases hst : st.owns = true
  · rw [if_pos hst]
    exact (hshadow _).trans (hput _)
  · rw [if_neg hst]
    exact hput _

@[simp] theorem Chip.lndInval_iommu (c : Chip) (d line : Nat) : (c.lndInval d line).iommu = c.iommu := by
  unfold Chip.lndInval
  split <;> simp

@[simp] theorem Chip.dropOthers_iommu (c : Chip) (h line : Nat) : (c.dropOthers h line).iommu = c.iommu :=
  foldl_same (f := fun (x : Chip) s => x.dropL2 s line) Chip.iommu (fun x s => x.dropL2_iommu s line) _ c

@[simp] theorem Chip.missAt_iommu (c : Chip) (h line : Nat) (want : Want) (acc rkind : Nat) :
    (c.missAt h line want acc rkind).1.iommu = c.iommu := by
  unfold Chip.missAt
  dsimp only
  generalize (match c.bestHolder (hartDie h) line with
    | some s => c.l2at s line
    | none => L2Line.invalid) = sl
  have hcheck := c.sendCheck_iommu h line acc
  have hmiss : ∀ m, (c.sendMiss h m, Acq.wait).1.iommu = c.iommu := fun m => c.sendMiss_iommu h m
  have hinstall : ∀ (e : LndLine) w st, (((c.countEvent h 0x22).useWay (.lnd (hartDie h)) (line % 32768) e.way).installL2 h line st w e.data
      e.poison).iommu = c.iommu := fun e w st => (Chip.installL2_iommu ..).trans ((Chip.useWay_iommu ..).trans (c.countEvent_iommu ..))
  refine ite_iommu rfl (ite_iommu rfl (ite_iommu (ite_iommu hcheck (ite_iommu rfl ?_)) (ite_iommu (ite_iommu hcheck (ite_iommu rfl ?_)) ?_)))
  · dsimp only
    rw [Chip.installL2_iommu, Chip.lndUnshadow_iommu, Chip.dieMap_iommu]
  · dsimp only
    rw [Chip.installL2_iommu, Chip.lndInval_iommu, Chip.dropOthers_iommu]
  · split
    · refine ite_iommu hcheck (ite_iommu rfl ?_)
      exact hinstall _ _ _
    · exact hmiss _

theorem Chip.seek_iommu (c : Chip) (h line : Nat) (want : Want) (acc rkind : Nat) : (c.seek h line want acc rkind).1.iommu = c.iommu := by
  have hmiss : ∀ (x : Chip) m, (x.sendMiss h m, Acq.wait).1.iommu = x.iommu := fun x m => x.sendMiss_iommu h m
  unfold Chip.seek
  dsimp only
  split
  · split
    · simp
    · split
      · simp
      · split
        · simp
        · exact c.pastWb_iommu _ _ fun x => hmiss x _
  · refine c.pastWb_iommu _ _ fun x => ?_
    repeat' split
    all_goals simp

@[simp] theorem Chip.reach_iommu (c : Chip) (h line : Nat) (want : Want) (acc rkind : Nat) :
    (c.reach h line want acc rkind).1.iommu = c.iommu := by
  have hdemand : (c.noteDemand h line).iommu = c.iommu := by
    unfold Chip.noteDemand
    dsimp only
    rw [Chip.onHart_iommu]
    split <;> simp
  have hseek : ((c.noteDemand h line).seek h line want acc rkind).1.iommu = c.iommu := (Chip.seek_iommu ..).trans hdemand
  unfold Chip.reach
  split
  · simp
  · dsimp only
    split
    · exact hseek
    · exact hseek

-- translation

@[simp] theorem Chip.readPte_iommu (c : Chip) (h pa acc : Nat) (va : Word) : (c.readPte h pa acc va).1.iommu = c.iommu := by
  unfold Chip.readPte
  dsimp only
  repeat' split
  all_goals simp

@[simp] theorem Chip.leafReady_iommu (c : Chip) (h pa pte acc cfg : Nat) (va : Word) : (c.leafReady h pa pte acc cfg va).1.iommu = c.iommu := by
  unfold Chip.leafReady Chip.updatePte
  dsimp only
  repeat' split
  all_goals simp

theorem Chip.gWalk_iommu (c : Chip) (h gpa acc walk : Nat) (va : Word) (n base lvl : Nat) :
    (c.gWalk h gpa acc walk va n base lvl).1.iommu = c.iommu := by
  induction lvl generalizing c base with
  | zero => rfl
  | succ lvl ih =>
    unfold Chip.gWalk
    dsimp only
    repeat' split
    all_goals simp [ih]

@[simp] theorem Chip.gStage_iommu (c : Chip) (h gpa acc walk : Nat) (va : Word) : (c.gStage h gpa acc walk va).1.iommu = c.iommu := by
  unfold Chip.gStage
  dsimp only
  repeat' split
  all_goals simp [Chip.gWalk_iommu]

theorem Chip.sWalk_iommu (c : Chip) (h acc : Nat) (va : Word) (priv : Nat) (virt : Bool) (base lvl : Nat) :
    (c.sWalk h acc va priv virt base lvl).1.iommu = c.iommu := by
  induction lvl generalizing c base with
  | zero => rfl
  | succ lvl ih =>
    have hstage : ∀ (b : Bool) (x : Chip) (gpa walk a : Nat),
        (if b then x.gStage h gpa acc walk va else (x, Xlate.pa a)).1.iommu = x.iommu := fun b x gpa walk a =>
      ite_iommu (x.gStage_iommu ..) rfl
    unfold Chip.sWalk
    dsimp only
    have hg := hstage virt c (base + 8 * (va.toNat / 2 ^ (12 + 9 * lvl) % 512)) 1 (base + 8 * (va.toNat / 2 ^ (12 + 9 * lvl) % 512))
    generalize (if virt then c.gStage h (base + 8 * (va.toNat / 2 ^ (12 + 9 * lvl) % 512)) acc 1 va
      else (c, Xlate.pa (base + 8 * (va.toNat / 2 ^ (12 + 9 * lvl) % 512)))) = g at hg ⊢
    split
    · exact hg
    · exact hg
    next pa _ =>
      have hr := (g.1.readPte_iommu h pa acc va).trans hg
      generalize g.1.readPte h pa acc va = r at hr ⊢
      split
      · exact hr
      · exact hr
      next pte _ =>
        refine ite_iommu hr (ite_iommu ((ih _ _).trans hr) (ite_iommu hr (ite_iommu hr (ite_iommu hr ?_))))
        split
        · have hw := (hstage (virt && !(pte.testBit 6 && (acc != 2 || pte.testBit 7)) && (c.hart h).envOn csrHenvcfg 61) r.1
            (base + 8 * (va.toNat / 2 ^ (12 + 9 * lvl) % 512)) 2 pa).trans hr
          generalize (if virt && !(pte.testBit 6 && (acc != 2 || pte.testBit 7)) && (c.hart h).envOn csrHenvcfg 61 then
            r.1.gStage h (base + 8 * (va.toNat / 2 ^ (12 + 9 * lvl) % 512)) acc 2 va else (r.1, Xlate.pa pa)) = w at hw ⊢
          have hleaf : (match w.2 with
              | .pa _ => w.1.leafReady h pa pte acc (if virt then csrHenvcfg else csrMenvcfg) va
              | _ => w).1.iommu = c.iommu := by
            split
            · exact (Chip.leafReady_iommu ..).trans hw
            · exact hw
          split <;> exact hleaf
        · exact hr

@[simp] theorem Chip.translate_iommu (c : Chip) (h : Nat) (va : Word) (n acc : Nat) : (c.translate h va n acc).1.iommu = c.iommu := by
  unfold Chip.translate
  dsimp only
  repeat' split
  all_goals simp [Chip.sWalk_iommu]

@[simp] theorem Chip.whereTo_iommu (c : Chip) (h va acc code : Nat) : (c.whereTo h va acc code).1.iommu = c.iommu := by
  unfold Chip.whereTo
  dsimp only
  repeat' split
  all_goals simp

theorem Chip.xlatAll_iommu (c : Chip) (h acc : Nat) (ps : List Piece) : (c.xlatAll h acc ps).1.iommu = c.iommu := by
  induction ps generalizing c with
  | nil => rfl
  | cons p ps ih =>
    unfold Chip.xlatAll
    dsimp only
    repeat' split
    all_goals simp [ih]

@[simp] theorem Chip.xlatOnce_iommu (c : Chip) (h acc : Nat) (ps : List Piece) : (c.xlatOnce h acc ps).1.iommu = c.iommu := by
  have hall := c.xlatAll_iommu h acc ps
  unfold Chip.xlatOnce
  dsimp only
  split
  · split <;> exact hall
  · rfl

end Sys2Proof.Machine
end

section
/-! What a hart does leaves the registers of the IOMMUs, continued: loads and stores, fetches, cache-block operations, the tile unit, and
the queue of what a hart has been given. -/

namespace Sys2Proof.Machine

-- loads and stores

@[simp] theorem Chip.readMain_iommu (c : Chip) (h pa n code rk acc : Nat) (va : Word) : (c.readMain h pa n code rk acc va).1.iommu = c.iommu := by
  unfold Chip.readMain
  dsimp only
  repeat' split
  all_goals simp

@[simp] theorem Chip.readAll_iommu (c : Chip) (h code rk acc : Nat) (l : List (Piece × Nat)) (ok : Bool) :
    (c.readAll h code rk acc l ok).1.iommu = c.iommu := by
  induction l generalizing c ok with
  | nil => rfl
  | cons e l ih =>
    unfold Chip.readAll
    dsimp only
    repeat' split
    all_goals simp [ih]

@[simp] theorem Chip.fillL1d_iommu (c : Chip) (h pa : Nat) : (c.fillL1d h pa).iommu = c.iommu := by
  have hdemand : (c.demand h pa).iommu = c.iommu := c.onHart_iommu ..
  have htrain : (if ((c.demand h pa).hart h).l1d.any (fun e => e.1 == pa / 64) then c.demand h pa
      else ((c.demand h pa).countEvent h 0x20).onHart h (fun x => x.l1dTrain pa)).iommu = c.iommu := by
    split <;> simp [hdemand]
  unfold Chip.fillL1d
  dsimp only
  generalize (if ((c.demand h pa).hart h).l1d.any (fun e => e.1 == pa / 64) then c.demand h pa
      else ((c.demand h pa).countEvent h 0x20).onHart h (fun x => x.l1dTrain pa)) = c1 at htrain ⊢
  split
  · exact htrain
  · split
    · exact htrain
    · exact htrain

theorem fillAll_iommu (h : Nat) (l : List (Piece × Nat)) (c : Chip) : (l.foldl (fun (x : Chip) e => x.fillL1d h e.2) c).iommu = c.iommu :=
  foldl_same (f := fun (x : Chip) (e : Piece × Nat) => x.fillL1d h e.2) Chip.iommu (fun x e => x.fillL1d_iommu h e.2) l c

theorem demandAll_iommu (h : Nat) (l : List (Piece × Nat)) (c : Chip) : (l.foldl (fun (x : Chip) e => x.demand h e.2) c).iommu = c.iommu :=
  foldl_same (f := fun (x : Chip) (e : Piece × Nat) => x.demand h e.2) Chip.iommu (fun x _ => x.onHart_iommu ..) l c

theorem Chip.regAccessTrap_iommu {c : Chip} {h pa n acc code : Nat} {va : Word} {r : Chip × TrapInfo}
    (hr : c.regAccessTrap h pa n acc code va = some r) : r.1.iommu = c.iommu := by
  unfold Chip.regAccessTrap at hr
  split at hr
  · split at hr
    · cases hr
      rfl
    · split at hr
      · cases hr
        exact c.hartRefusal_iommu ..
      · cases hr
  · cases hr
    exact c.hartRefusal_iommu ..
  · cases hr

@[simp] theorem Chip.ioAccess_iommu (c : Chip) (h pa n acc code : Nat) (va : Word) (wr : Option Nat) :
    (c.ioAccess h pa n acc code va wr).1.iommu = c.iommu := by
  unfold Chip.ioAccess
  dsimp only
  repeat' split
  all_goals simp

@[simp] theorem Chip.ioAll_iommu (c : Chip) (h acc code : Nat) (wr : Option (Nat → Nat)) (l : List (Piece × Nat)) :
    (c.ioAll h acc code wr l).1.iommu = c.iommu := by
  induction l generalizing c with
  | nil => rfl
  | cons e l ih =>
    unfold Chip.ioAll
    dsimp only
    split
    · exact ih c
    · split
      next r hr => exact Chip.regAccessTrap_iommu hr
      · repeat' split
        all_goals simp [ih]

@[simp] theorem Chip.load_iommu (c : Chip) (h : Nat) (rd : HReg) (va size : Nat) (signed : Bool) :
    (c.load h rd va size signed).1.iommu = c.iommu := by
  unfold Chip.load
  dsimp only
  repeat' split
  all_goals simp [fillAll_iommu]

@[simp] theorem Chip.l2Store_iommu (c : Chip) (h pa : Nat) (l : L2Line) (n v : Nat) : (c.l2Store h pa l n v).iommu = c.iommu := rfl

@[simp] theorem Chip.storeAll_iommu (c : Chip) (h code : Nat) (drop : Bool) (val : Nat → Nat) (l : List (Piece × Nat)) :
    (c.storeAll h code drop val l).1.iommu = c.iommu := by
  induction l generalizing c with
  | nil => rfl
  | cons e l ih =>
    unfold Chip.storeAll
    dsimp only
    repeat' split
    all_goals simp [ih]

@[simp] theorem Chip.store_iommu (c : Chip) (h : Nat) (rs : HReg) (va size : Nat) : (c.store h rs va size).1.iommu = c.iommu := by
  unfold Chip.store
  dsimp only
  repeat' split
  all_goals simp [demandAll_iommu]

@[simp] theorem Chip.atomicAt_iommu (c : Chip) (h va size acc : Nat) : (c.atomicAt h va size acc).1.iommu = c.iommu := by
  unfold Chip.atomicAt
  dsimp only
  repeat' split
  all_goals simp

@[simp] theorem Chip.amo_iommu (c : Chip) (h : Nat) (op : AmoOp) (rd rs va size : Nat) : (c.amo h op rd rs va size).1.iommu = c.iommu := by
  unfold Chip.amo
  dsimp only
  repeat' split
  all_goals simp

@[simp] theorem Chip.lr_iommu (c : Chip) (h rd va size : Nat) : (c.lr h rd va size).1.iommu = c.iommu := by
  unfold Chip.lr
  dsimp only
  repeat' split
  all_goals simp [Chip.unpin_iommu]

@[simp] theorem Chip.sc_iommu (c : Chip) (h rd rs va size : Nat) : (c.sc h rd rs va size).1.iommu = c.iommu := by
  unfold Chip.sc
  dsimp only
  repeat' split
  all_goals simp [Chip.unpin_iommu]

-- fetches

theorem Chip.branchResolved_iommu (c : Chip) (h pc target next : Nat) (taken : Bool) :
    (c.branchResolved h pc target next taken).iommu = c.iommu := by
  unfold Chip.branchResolved
  dsimp only
  repeat' split
  all_goals simp

theorem Chip.returnResolved_iommu (c : Chip) (h next : Nat) : (c.returnResolved h next).iommu = c.iommu := by
  unfold Chip.returnResolved
  dsimp only
  split <;> simp

theorem Chip.resolve_iommu (c : Chip) (h next : Nat) : (c.resolve h next).iommu = c.iommu := by
  unfold Chip.resolve
  dsimp only
  repeat' split
  all_goals simp [Chip.branchResolved_iommu, Chip.returnResolved_iommu]

theorem Chip.fillL1i_iommu (c : Chip) (h line : Nat) : (c.fillL1i h line).iommu = c.iommu := by
  unfold Chip.fillL1i
  dsimp only
  repeat' split
  all_goals simp

@[simp] theorem Chip.fetchParcel_iommu (c : Chip) (h k va : Nat) : (c.fetchParcel h k va).1.iommu = c.iommu := by
  unfold Chip.fetchParcel
  dsimp only
  repeat' split
  all_goals simp [Chip.fillL1i_iommu]

@[simp] theorem Chip.fetch_iommu (c : Chip) (h va : Nat) : (c.fetch h va).1.iommu = c.iommu := by
  unfold Chip.fetch Chip.fetchDone
  dsimp only
  repeat' split
  all_goals simp [Chip.resolve_iommu]

-- cache-block operations

@[simp] theorem Chip.cboMgmt_iommu (c : Chip) (h va : Nat) (k : MsgKind) : (c.cboMgmt h va k).1.iommu = c.iommu := by
  unfold Chip.cboMgmt
  dsimp only
  repeat' split
  all_goals simp

@[simp] theorem Chip.cboZero_iommu (c : Chip) (h va : Nat) : (c.cboZero h va).1.iommu = c.iommu := by
  unfold Chip.cboZero
  dsimp only
  repeat' split
  all_goals simp

@[simp] theorem Chip.cbo_iommu (c : Chip) (h va : Nat) (op : CboOp) : (c.cbo h va op).1.iommu = c.iommu := by
  unfold Chip.cbo
  split <;> simp

-- the rest of the hart's own instructions

@[simp] theorem Chip.mret_iommu (c : Chip) (h : Nat) : (c.mret h).iommu = c.iommu := by
  unfold Chip.mret
  dsimp only
  repeat' split
  all_goals simp [Chip.haltAtGate_iommu]

@[simp] theorem Chip.tileCsr_iommu (c : Chip) (h rd : Nat) (isFault : Bool) (wr : Option Word) : (c.tileCsr h rd isFault wr).1.iommu = c.iommu := by
  unfold Chip.tileCsr
  dsimp only
  split <;> simp

@[simp] theorem Chip.wfi_iommu (c : Chip) (h : Nat) : (c.wfi h).1.iommu = c.iommu := by
  unfold Chip.wfi
  dsimp only
  repeat' split
  all_goals simp

-- the tile unit

@[simp] theorem Chip.tileFail_iommu (c : Chip) (h : Nat) (fs : List TFail) (suspect : List Nat) (xtval : Word) :
    (c.tileFail h fs suspect xtval).iommu = c.iommu := by simp [Chip.tileFail]

@[simp] theorem Chip.tileSent_iommu (c : Chip) (h steps : Nat) : (c.tileSent h steps).iommu = c.iommu := c.onHart_iommu ..

@[simp] theorem Chip.tileReg_iommu (c : Chip) (h : Nat) (i : Instr) (f : Hart → TOut) : (c.tileReg h i f).1.iommu = c.iommu := by
  unfold Chip.tileReg Chip.tileRun
  dsimp only
  repeat' split
  all_goals simp

@[simp] theorem Chip.tileStop_iommu (c : Chip) (h : Nat) (fs : List TFail) (xtval : Word) : (c.tileStop h fs xtval).1.iommu = c.iommu :=
  c.tileFail_iommu ..

theorem Chip.tileGate_iommu {c : Chip} {h : Nat} {i : Instr} {aligned : Bool} {acc : Nat} {legal : Bool} {r : Chip × Perf}
    (hr : c.tileGate h i aligned acc legal = some r) : r.1.iommu = c.iommu := by
  unfold Chip.tileGate at hr
  dsimp only at hr
  by_cases hl : (!(c.hart h).tileOn || !legal) = true
  · rw [if_pos hl] at hr
    cases hr
    exact c.stopWith_iommu ..
  · rw [if_neg hl] at hr
    obtain ⟨-, hr⟩ := Option.ite_none_right_eq_some.1 hr
    cases hr
    exact c.stopWith_iommu ..

@[simp] theorem Chip.probeAll_iommu (c : Chip) (h : Nat) (l : List (Piece × Nat)) : (c.probeAll h l).1.iommu = c.iommu := by
  induction l generalizing c with
  | nil => rfl
  | cons e l ih =>
    unfold Chip.probeAll
    dsimp only
    repeat' split
    all_goals simp [ih]

section
variable (c : Chip) (h : Nat) (ps : List Piece) {k : Chip → Chip × Perf} (hk : ∀ x, (k x).1.iommu = x.iommu)
include hk

theorem Chip.tileRead_iommu : (c.tileRead h ps k).1.iommu = c.iommu := by
  unfold Chip.tileRead
  dsimp only
  repeat' split
  all_goals simp [hk]

theorem Chip.tileFind_iommu : (c.tileFind h ps k).1.iommu = c.iommu := by
  unfold Chip.tileFind
  dsimp only
  repeat' split
  all_goals simp [hk]

theorem Chip.tileWrite_iommu (val : Nat → Nat) : (c.tileWrite h ps val k).1.iommu = c.iommu := by
  unfold Chip.tileWrite
  dsimp only
  repeat' split
  all_goals simp [hk]

end

/-- What a tile instruction that writes memory does once its bytes are known. -/
theorem tileStored_iommu (h : Nat) (ps : List Piece) (val : Nat → Nat) (x : Chip) :
    (x.tileWrite h ps val (fun c => (c.tileSent h 0, .done))).1.iommu = x.iommu := x.tileWrite_iommu h ps (fun c => c.tileSent_iommu h 0) val

/-- `Chip.tload_iommu` and `Chip.trestore_iommu` go through this form of the statement: the two compute with the bytes they have read,
which a comparison of registers would evaluate. -/
def Chip.KeepsIommu (c : Chip) (r : Chip × Perf) : Prop := r.1.iommu = c.iommu

theorem Chip.tileRead_keepsIommu (c : Chip) (h : Nat) (ps : List Piece) {k : Chip → Chip × Perf} (hk : ∀ x : Chip, x.KeepsIommu (k x)) :
    c.KeepsIommu (c.tileRead h ps k) := c.tileRead_iommu h ps hk

theorem Chip.tileSent_keepsIommu (c : Chip) (h : Nat) (x : Hart) : c.KeepsIommu ((c.setHart h x).tileSent h 0, .done) :=
  (Chip.tileSent_iommu ..).trans (c.setHart_iommu ..)

theorem Chip.tload_keepsIommu (c : Chip) (h t rs1 rs2 : Nat) : c.KeepsIommu (c.tload h t rs1 rs2) := by
  unfold Chip.tload
  dsimp only
  split
  next r hr => exact Chip.tileGate_iommu hr
  · refine c.tileRead_keepsIommu h _ fun x => ?_
    split
    · exact x.tileSent_keepsIommu ..
    · exact x.tileStop_iommu ..

@[simp] theorem Chip.tload_iommu (c : Chip) (h t rs1 rs2 : Nat) : (c.tload h t rs1 rs2).1.iommu = c.iommu := c.tload_keepsIommu ..

@[simp] theorem Chip.tstore_iommu (c : Chip) (h t rs1 rs2 : Nat) : (c.tstore h t rs1 rs2).1.iommu = c.iommu := by
  unfold Chip.tstore
  dsimp only
  split
  next r hr => exact Chip.tileGate_iommu hr
  · refine c.tileFind_iommu h _ fun x => ?_
    split
    · simp
    · exact tileStored_iommu ..

@[simp] theorem Chip.tloadu_iommu (c : Chip) (h t rs1 rs2 : Nat) : (c.tloadu h t rs1 rs2).1.iommu = c.iommu := by
  unfold Chip.tloadu
  dsimp only
  split
  next r hr => exact Chip.tileGate_iommu hr
  · exact c.tileRead_iommu h _ fun x => by simp

@[simp] theorem Chip.tstoreu_iommu (c : Chip) (h t rs1 rs2 : Nat) : (c.tstoreu h t rs1 rs2).1.iommu = c.iommu := by
  unfold Chip.tstoreu
  dsimp only
  split
  next r hr => exact Chip.tileGate_iommu hr
  · refine c.tileFind_iommu h _ fun x => ?_
    split
    · simp
    · exact tileStored_iommu ..

@[simp] theorem Chip.tsave_iommu (c : Chip) (h rs1 : Nat) : (c.tsave h rs1).1.iommu = c.iommu := by
  unfold Chip.tsave
  dsimp only
  split
  next r hr => exact Chip.tileGate_iommu hr
  · refine c.tileFind_iommu h _ fun x => ?_
    split
    · simp
    · exact tileStored_iommu ..

theorem Chip.trestore_keepsIommu (c : Chip) (h rs1 : Nat) : c.KeepsIommu (c.trestore h rs1) := by
  unfold Chip.trestore
  dsimp only
  split
  next r hr => exact Chip.tileGate_iommu hr
  · refine c.tileRead_keepsIommu h _ fun x => ?_
    split
    · exact x.tileSent_keepsIommu ..
    · exact x.tileStop_iommu ..

@[simp] theorem Chip.trestore_iommu (c : Chip) (h rs1 : Nat) : (c.trestore h rs1).1.iommu = c.iommu := c.trestore_keepsIommu ..

-- the queue

theorem Chip.perform_iommu (c : Chip) (h : Nat) (i : Instr) : (c.perform h i).1.iommu = c.iommu := by
  unfold Chip.perform
  refine ite_iommu rfl ?_
  split <;> (try split) <;> simp

theorem Chip.drain_iommu (c : Chip) (h k : Nat) : (c.drain h k).iommu = c.iommu := by
  induction k generalizing c with
  | zero => rfl
  | succ k ih =>
    unfold Chip.drain
    dsimp only
    split
    next i l _ _ =>
      have hp := c.perform_iommu h i
      have hdone : ∀ f, (((c.perform h i).1.settle h).onHart h f).iommu = c.iommu := fun f => by
        rw [Chip.onHart_iommu, Chip.settle_iommu, hp]
      split
      · exact hp
      · exact (ih _).trans hp
      · rw [ih]
        split
        · rw [Chip.stepHalt_iommu, Chip.finish_iommu, hdone]
        · split
          · rw [Chip.stepHalt_iommu, hdone]
          · exact hdone _
    · rfl

/-- Whatever a hart does next leaves the IOMMUs' registers. -/
@[simp] theorem Chip.run_iommu (c : Chip) (h : Nat) : (c.run h).iommu = c.iommu := by
  rw [Chip.run, Chip.haltPoll_iommu, Chip.irqPoll_iommu, Chip.drain_iommu]

-- the IOMMU's own interrupts and counters

theorem Chip.iommuMsi_iommu (c : Chip) (n src : Nat) : (c.iommuMsi n src).iommu = c.iommu := by
  have hwake : ∀ (x : Chip) h, (x.wake h).iommu = x.iommu := fun x h => by
    unfold Chip.wake
    split <;> simp
  unfold Chip.iommuMsi
  dsimp only
  split
  · split
    · exact Chip.setFld_iommu ..
    · split
      · rw [Chip.run_iommu, hwake, Chip.onHart_iommu]
      · rfl
  · rfl

theorem Chip.iommuReg_setIommu_ne (c : Chip) (n v : Nat) {i k : Nat} (h : k ≠ i) : (c.setIommu n i v).iommuReg n k = c.iommuReg n k := by
  rw [Chip.iommuReg, Chip.setIommu, sget_sset_ne _ _ (by omega), ← Chip.iommuReg]

theorem Chip.iommuIrq_reg (c : Chip) (n src : Nat) {k : Nat} (h : k ≠ 10) : (c.iommuIrq n src).iommuReg n k = c.iommuReg n k := by
  unfold Chip.iommuIrq
  split
  · rfl
  · rw [Chip.iommuReg, Chip.iommuMsi_iommu, ← Chip.iommuReg]
    exact c.iommuReg_setIommu_ne n _ h

/-- The counters of an IOMMU leave the pointer to its directory. -/
theorem Chip.iommuCount_ddtp (c : Chip) (n f ev : Nat) : (c.iommuCount n f ev).iommuReg n 2 = c.iommuReg n 2 := by
  refine forUpTo_same (fun x : Chip => x.iommuReg n 2) (fun i x => ?_) 8 c
  dsimp only
  have hcount : ∀ v, (x.setIommu n (13 + i) v).iommuReg n 2 = x.iommuReg n 2 := fun v => x.iommuReg_setIommu_ne n v (by omega)
  split
  · rfl
  · split
    · rw [Chip.iommuIrq_reg _ _ _ (by decide), Chip.iommuReg_setIommu_ne _ _ _ (by omega), hcount]
    · exact hcount _

end Sys2Proof.Machine
end

section
/-! Requests of devices and hosts, through the IOMMU of a station, and its command queue (R285, R345, R346, R349, R358, R363). -/

namespace Sys2Proof.Machine

-- a line that is marked bad

@[simp] theorem Pkg.linePoison_setPoison (p : Pkg) (line : Nat) (b : Bool) : (p.setPoison line b).linePoison line = b := by
  have hread : sget 0 line (p.setPoison line b).dpoison = if b = p.chip.filledPoison line then 0 else if b then 1 else 2 :=
    sget_sset_self _ _ _ _
  unfold Pkg.linePoison
  rw [hread, Pkg.setPoison_chip]
  cases p.chip.filledPoison line <;> cases b <;> rfl

-- how a request comes to the IOMMU

theorem not_translate_of_ats {q : DevReq} (h : (reqKind q).ats = 0) (wr : Bool) : reqBase q ≠ .translate wr := by
  induction q with
  | translate w => exact absurd h (show 2 ≠ 0 by decide)
  | translated q => exact absurd h (show 1 ≠ 0 by decide)
  | withPasid k q ih => exact ih h
  | read | write | poisoned | media | atomic => exact DevReq.noConfusion

section
variable (p : Pkg) {n j f iova : Nat} {q : DevReq}

theorem Pkg.fnRequest_silent (h : p.chip.fnSilent n f = true) : p.fnRequest n j f iova q = p.onChip (fun c => c.unsupported n j) := if_pos h

theorem Pkg.fnRequest_shut (h : p.chip.fnSilent n f = false) (ho : p.chip.stationOpen n = false) : p.fnRequest n j f iova q = p := by
  have hgo : (!p.chip.stationGo n f) = true := by simp [Chip.stationGo, ho]
  rw [Pkg.fnRequest, if_neg (by simp [h]), if_pos hgo, Pkg.onChip, if_neg (by simp [ho])]

/-- In Bare mode an untranslated address is physical; a request that ATS concerns is a fault (R285). -/
theorem Pkg.ioTranslate_bare {k : IoKind} {wr : Bool} (hb : p.chip.iommuReg n 2 % 16 = 1) :
    p.ioTranslate n f iova wr k = (p, if k.ats = 0 then .inl iova else .inr 260) := if_pos hb

section
variable (hb : p.chip.iommuReg n 2 % 16 = 1)
include hb

/-- A request that is counted meets the same directory. -/
theorem Pkg.counted_bare (ev : Nat) (k : IoKind) (wr : Bool) : (p.onChip (fun c => c.iommuCount n f ev)).ioTranslate n f iova wr k =
    (p.onChip (fun c => c.iommuCount n f ev), if k.ats = 0 then .inl iova else .inr 260) :=
  Pkg.ioTranslate_bare _ (by rw [Pkg.onChip_chip, Chip.iommuCount_ddtp, hb])

theorem Pkg.iommu_bare {wr : Bool} {k : IoKind} (hk : k.ats = 0) :
    p.iommu n f iova wr k = (p.onChip (fun c => c.iommuCount n f 1), some iova) := by
  have h := p.counted_bare (f := f) (iova := iova) hb (k.ats + 1) k wr
  rw [if_pos hk] at h
  unfold Pkg.iommu
  simp only [h]
  rw [hk]

theorem Pkg.iommu_bareAts {wr : Bool} {k : IoKind} (hk : k.ats ≠ 0) : (p.iommu n f iova wr k).2 = none := by
  have h := p.counted_bare (f := f) (iova := iova) hb (k.ats + 1) k wr
  rw [if_neg hk] at h
  unfold Pkg.iommu
  simp only [h]

theorem Pkg.ioAts_bare {wr : Bool} {pid : Option Nat} : (p.ioAts n f iova wr pid).2 = none := by
  have h := p.counted_bare (f := f) (iova := iova) hb 3 { pid := pid, ats := 2 } false
  rw [if_neg (show 2 ≠ 0 by decide)] at h
  unfold Pkg.ioAts
  simp only [h]
  rw [if_neg (by decide)]

variable (hs : p.chip.fnSilent n f = false) (hg : p.chip.stationGo n f = true)
include hs hg

theorem Pkg.fnRequest_bare (hk : (reqKind q).ats = 0) (ha : iova < 2 ^ 52) :
    p.fnRequest n j f iova q = (p.onChip (fun c => c.iommuCount n f 1)).fnAccess n j f iova q := by
  rw [Pkg.fnRequest, if_neg (by simp [hs]), if_neg (by simp [hg])]
  split
  next wr h => exact absurd h (not_translate_of_ats hk wr)
  · rw [Pkg.iommu_bare p hb hk]
    exact if_pos (decide_eq_true ha)

/-- In Bare mode what ATS concerns is answered with Unsupported Request. -/
theorem Pkg.fnRequest_bareAts (hk : (reqKind q).ats ≠ 0) : ((p.fnRequest n j f iova q).chip.port n j).cpl = some (1, 0, false) := by
  have hans : ∀ r : Pkg, ((r.onChip (fun c => c.unsupported n j)).chip.port n j).cpl = some (1, 0, false) := fun r => by
    rw [Pkg.onChip_chip, Chip.unsupported, Chip.cpl, Chip.port_onPort]
  rw [Pkg.fnRequest, if_neg (by simp [hs]), if_neg (by simp [hg])]
  split
  · dsimp only
    rw [Pkg.ioAts_bare p hb]
    exact hans _
  · dsimp only
    rw [Pkg.iommu_bareAts p hb hk]
    exact hans _

end

end

-- requests from below a root port

section
variable {p : Pkg} {n j rid addr : Nat} {q : DevReq} (hroot : p.chip.isRoot n j = true) (hup : p.chip.linkUp n j = true)
include hroot hup

theorem Pkg.downstream_media (hq : reqBase q = .media) (hr : p.chip.region addr = .cxl n j) (hc : p.chip.chanUp (addr / 64) = true) :
    p.downstream n j rid addr q = p.setPoison (addr / 64) true := by
  rw [Pkg.downstream, if_neg (by simp [hroot, hup]), if_pos hq, Pkg.mediaBad, if_pos ⟨hr, hc⟩]

variable (hq : reqBase q ≠ .media)
include hq

theorem Pkg.downstream_blocked (hb : p.chip.acsBlocks n j rid = true) :
    p.downstream n j rid addr q = p.onChip (fun c => ((c.unsupported n j).aerLog n j 21).portError n j 7) := by
  rw [Pkg.downstream, if_neg (by simp [hroot, hup]), if_neg hq, if_pos hb]

variable (hb : p.chip.acsBlocks n j rid = false)
include hb

theorem Pkg.downstream_unmapped (hf : p.chip.boundFn n j rid = none) :
    p.downstream n j rid addr q = p.onChip (fun c => (c.unsupported n j).portError n j 6) := by
  rw [Pkg.downstream, if_neg (by simp [hroot, hup]), if_neg hq, if_neg (by simp [hb]), hf]

theorem Pkg.downstream_bound {f : Nat} (hf : p.chip.boundFn n j rid = some f) :
    p.downstream n j rid addr q = p.fnRequest n j f addr q := by
  rw [Pkg.downstream, if_neg (by simp [hroot, hup]), if_neg hq, if_neg (by simp [hb]), hf]

end

-- the commands

section
variable (s : State)

/-- A fact about the package that a command leaves. -/
theorem GivesPkg.exists {i : Instr} {p : Pkg} {P : Pkg → Prop} (h : GivesPkg i s p) (hp : P p) : ∃ t, exec i s = .next t ∧ P t.toPkg :=
  ⟨_, h, hp⟩

theorem downstreamRequest_cases {n j rid addr : Nat} {wr : DevReq} (hn : n < 10) (hj : j < 4) (hrid : rid < 65536) (ha : addr < 2 ^ 64)
    (hok : reqOk addr wr = true) (hroot : s.chip.isRoot n j = true) (hup : s.chip.linkUp n j = true) :
    (reqBase wr = .media → s.chip.region addr = .cxl n j → s.chip.chanUp (addr / 64) = true →
      ∃ t, exec (.downstreamRequest n j rid addr wr) s = .next t ∧ t.linePoison (addr / 64) = true ∧ t.chip = s.chip)
    ∧ (reqBase wr ≠ .media → s.chip.acsBlocks n j rid = true →
      Gives (.downstreamRequest n j rid addr wr) s (((s.chip.unsupported n j).aerLog n j 21).portError n j 7))
    ∧ (reqBase wr ≠ .media → s.chip.acsBlocks n j rid = false → s.chip.boundFn n j rid = none →
      Gives (.downstreamRequest n j rid addr wr) s ((s.chip.unsupported n j).portError n j 6))
    ∧ ∀ f, reqBase wr ≠ .media → s.chip.acsBlocks n j rid = false → s.chip.boundFn n j rid = some f →
      (s.chip.fnSilent n f = true → Gives (.downstreamRequest n j rid addr wr) s (s.chip.unsupported n j))
      ∧ (s.chip.fnSilent n f = false → s.chip.stationOpen n = false → Gives (.downstreamRequest n j rid addr wr) s s.chip)
      ∧ (s.chip.fnSilent n f = false → s.chip.stationGo n f = true → s.chip.iommuReg n 2 % 16 = 1 → (reqKind wr).ats ≠ 0 →
        ∃ t, exec (.downstreamRequest n j rid addr wr) s = .next t ∧ (t.chip.port n j).cpl = some (1, 0, false))
      ∧ (s.chip.fnSilent n f = false → s.chip.stationGo n f = true → s.chip.iommuReg n 2 % 16 = 1 → (reqKind wr).ats = 0 → addr < 2 ^ 52 →
        GivesPkg (.downstreamRequest n j rid addr wr) s
          ((s.toPkg.onChip (fun c => c.iommuCount n f 1)).fnAccess n j f addr wr)) := by
  have hdoes : GivesPkg (.downstreamRequest n j rid addr wr) s (s.toPkg.downstream n j rid addr wr) :=
    givesPkg_of_onPkg rfl (by
      rw [portOk_of_lt hn hj, hok, decide_eq_true (show rid < 2 ^ 16 from hrid), decide_eq_true ha]
      rfl) rfl
  refine ⟨fun h hr hc => GivesPkg.exists s (P := fun p => p.linePoison (addr / 64) = true ∧ p.chip = s.chip)
      (hdoes.congr (Pkg.downstream_media hroot hup h hr hc)) ⟨Pkg.linePoison_setPoison .., Pkg.setPoison_chip ..⟩,
    fun h hb => hdoes.congr (Pkg.downstream_blocked hroot hup h hb), fun h hb hf => hdoes.congr (Pkg.downstream_unmapped hroot hup h hb hf),
    fun f h hb hf => ?_⟩
  have hreq := Pkg.downstream_bound (addr := addr) hroot hup h hb hf
  exact ⟨fun hs => hdoes.congr (hreq.trans (s.toPkg.fnRequest_silent hs)),
    fun hs ho => hdoes.congr (hreq.trans (s.toPkg.fnRequest_shut hs ho)),
    fun hs hg hbare hk => GivesPkg.exists s (P := fun p => (p.chip.port n j).cpl = some (1, 0, false)) (hdoes.congr hreq)
      (s.toPkg.fnRequest_bareAts hbare hs hg hk),
    fun hs hg hbare hk ha => hdoes.congr (hreq.trans (s.toPkg.fnRequest_bare hbare hs hg hk ha))⟩

theorem bar2Request_cases {n f off : Nat} {wr : DevReq} (hn : n < 10) (hf : f < 256) (ho : off < 2 ^ 40) (hok : reqOk off wr = true)
    (he : s.chip.epFn n f = true) : let j := s.chip.portOfFn n f
    let w := s.chip.winReg (.PORT_FN_WIN n f)
    s.chip.linkUp n j = true →
    let known : Prop := reqKind wr = {} ∧ reqBase wr ≠ .media
    (¬known → Gives (.bar2Request n f off wr) s ((s.chip.unsupported n j).portError n j 4))
    ∧ (known → s.chip.barOn n f = false ∨ s.chip.bar2Size n f ≤ off ∨ F.PORT_FN_WIN_VALID.get w = 0 →
      Gives (.bar2Request n f off wr) s (s.chip.unsupported n j))
    ∧ (known → s.chip.barOn n f = true → off < s.chip.bar2Size n f → F.PORT_FN_WIN_VALID.get w ≠ 0 →
      GivesPkg (.bar2Request n f off wr) s (s.toPkg.fnRequest n j f (F.PORT_FN_WIN_TARGET.get w * 2 ^ 20 + off) wr)) := by
  intro j w hup known
  have hgo : ¬ (!s.chip.epFn n f || !s.chip.linkUp n j) = true := by simp [he, hup]
  have hdoes : GivesPkg (.bar2Request n f off wr) s (s.toPkg.bar2 n f off wr) :=
    givesPkg_of_onPkg rfl (by
      rw [fnOk_of_lt hn hf, hok, decide_eq_true ho]
      rfl) rfl
  have hknown : (reqKind wr != {} || reqBase wr == .media) = true ↔ ¬ known := by
    rw [Bool.or_eq_true, bne_iff_ne, beq_iff_eq, not_and_or, not_not]
  have hpassed : known → s.toPkg.bar2 n f off wr =
      if !s.chip.barOn n f || s.chip.bar2Size n f ≤ off || F.PORT_FN_WIN_VALID.get w == 0 then s.toPkg.onChip (fun c => c.unsupported n j)
      else s.toPkg.fnRequest n j f (F.PORT_FN_WIN_TARGET.get w * 2 ^ 20 + off) wr := fun h =>
    (if_neg hgo).trans (if_neg fun h' => hknown.1 h' h)
  refine ⟨fun h => hdoes.congr ((if_neg hgo).trans (if_pos (hknown.2 h))), fun h hw => hdoes.congr ((hpassed h).trans (if_pos ?_)),
    fun h hb hsize hv => hdoes.congr ((hpassed h).trans (if_neg ?_))⟩
  · simpa [or_assoc] using hw
  · simp [hb, hsize, hv]

/-- An invalidation or a fence of the command queue passes: no translation is kept. -/
theorem iommuCommand_cases {n : Nat} (hn : n < 10) : let head := s.chip.iommuReg n 4 % 2 ^ 32
    let size := 2 ^ (s.chip.iommuReg n 3 % 32 + 1)
    let r := s.toPkg.readBytes (0x2000 + 256 * n) 1 (s.chip.fnWalker n 0).label (bits (s.chip.iommuReg n 3) 53 10 * 4096 + 16 * head) 16
    let op := ofBytes (r.2.1.take 8) % 128
    (s.chip.cqOn n = false ∨ head = s.chip.iommuReg n 4 / 2 ^ 32 → Gives (.iommuCommand n) s s.chip)
    ∧ (s.chip.cqOn n = true → head ≠ s.chip.iommuReg n 4 / 2 ^ 32 → s.chip.still = false → r.2.2.1 = 0 → r.2.2.2 = false →
      op = 1 ∨ op = 3 ∨ op = 4 →
      GivesPkg (.iommuCommand n) s (r.1.onChip (fun c => c.putIommu n 4 31 0 ((head + 1) % size)))) := by
  intro head size r op
  have hdoes : GivesPkg (.iommuCommand n) s (s.toPkg.iommuCommand n) := givesPkg_of_onPkg rfl (by simp [hn]) rfl
  refine ⟨fun h => hdoes.congr (if_pos ?_), fun hon hne hst hok hp hop => hdoes.congr ?_⟩
  · rw [Bool.or_eq_true, Bool.or_eq_true, beq_iff_eq, Bool.not_eq_true']
    exact .inl h
  · have hgo : ¬ (!s.chip.cqOn n || head == s.chip.iommuReg n 4 / 2 ^ 32 || s.chip.still) = true := by
      rw [hon, hst, beq_eq_false_iff_ne.2 hne]
      decide
    have hfetched : ¬ (r.2.2.1 ≠ 0 ∨ r.2.2.2 = true) := by
      rw [hok, hp]
      decide
    refine (if_neg hgo).trans ((if_neg hfetched).trans ?_)
    show (match op with | 1 | 3 | 4 => _ | 2 => _ | _ => _) = _
    rcases hop with h | h | h <;> (rw [h]; rfl)

end

/-- Settles O50: each access and each command takes the branch of the model that its premises name; the one fact behind a request's
translation in Bare mode is that what the IOMMU counts before it leaves its directory pointer. -/
theorem portFunctionsWindows : Obligations.PortFunctionsWindows := by
  unfold Obligations.PortFunctionsWindows
  refine ⟨fun s who addr n j wr ha hw h4 hr hid hd => ecamAccess_cases s ha hw h4 hr hid hd,
    fun s who addr size n e wr ha hw hs hl hr hid hd => memoryWindow_cases s ha hw hs hl hr hid hd,
    fun s who addr wr ha hw h4 => closedPort_cases s ha hw h4,
    fun s n j rid addr wr hn hj hrid ha hok hroot hup => downstreamRequest_cases s hn hj hrid ha hok hroot hup,
    fun s n f off wr hn hf ho hok he => bar2Request_cases s hn hf ho hok he,
    fun s who n hn => ?_, fun s n f hn hf => functions_cases s hn hf, fun s n hn => iommuCommand_cases s hn⟩
  obtain ⟨h1, h2, h3, h4⟩ := winCommit_cases hn s who
  obtain ⟨h5, h6⟩ := winDrainDone_cases hn s
  exact ⟨h1, h2, h3, h4, h5, h6⟩

end Sys2Proof.Machine
end

section
/-! What a start of the package keeps of one that is held in reset (R417, R419). -/

namespace Sys2Proof.Machine

/-- Package time, the lines that are held anywhere, the requests outstanding, the harts, and the end of a debug grant. -/
def Chip.bootCore (c : Chip) := (c.now, c.l2, c.wb, c.lnd, c.hc, c.ownc, c.miss, c.txn, c.harts, c.uz.grantEnd)

/-- What a step of the start keeps; the journal grows alone. -/
structure Chip.Boots (c d : Chip) : Prop where
  core : d.bootCore = c.bootCore
  grant : d.reg .WLD_DBG_GRANT = c.reg .WLD_DBG_GRANT
  half0 : c.uz.half0 <+: d.uz.half0
  half1 : c.uz.half1 <+: d.uz.half1

section
variable {c d e : Chip}

theorem Chip.Boots.refl (c : Chip) : c.Boots c := ⟨rfl, rfl, List.prefix_refl _, List.prefix_refl _⟩

theorem Chip.Boots.trans (h : c.Boots d) (h' : d.Boots e) : c.Boots e :=
  ⟨h'.core.trans h.core, h'.grant.trans h.grant, h.half0.trans h'.half0, h.half1.trans h'.half1⟩

theorem Chip.Boots.of_uz (h : d.bootCore = c.bootCore) (hr : d.reg .WLD_DBG_GRANT = c.reg .WLD_DBG_GRANT) (hu : d.uz = c.uz) : c.Boots d :=
  ⟨h, hr, hu ▸ List.prefix_refl _, hu ▸ List.prefix_refl _⟩

theorem Chip.Boots.of_regs (h : d.bootCore = c.bootCore) (hr : d.regs = c.regs) (hu : d.uz = c.uz) : c.Boots d :=
  Chip.Boots.of_uz h (Chip.reg_of_regs hr _) hu

theorem foldl_boots {α : Type} {f : Chip → α → Chip} (hf : ∀ (x : Chip) a, x.Boots (f x a)) (l : List α) (c : Chip) : c.Boots (l.foldl f c) :=
  foldl_keeps (P := c.Boots) (fun x a h => h.trans (hf x a)) l (Chip.Boots.refl c)

theorem forUpTo_boots {f : Nat → Chip → Chip} {n : Nat} (hf : ∀ i, i < n → ∀ x : Chip, x.Boots (f i x)) (c : Chip) :
    c.Boots (forUpTo n f c) := by
  induction n with
  | zero => exact Chip.Boots.refl c
  | succ n ih =>
    rw [forUpTo_succ]
    exact (ih fun i hi => hf i (by omega)).trans (hf n (by omega) _)

end

-- registers, reports and records

section
variable (c : Chip)

theorem Chip.setFld_boots {r : Reg} (h : Reg.WLD_DBG_GRANT.offset ≠ r.offset) (f : Field) (n : Nat) : c.Boots (c.setFld r f n) :=
  Chip.Boots.of_uz rfl (Chip.reg_setFld_ne _ _ _ h) rfl

theorem Chip.setBit_boots {r : Reg} (h : Reg.WLD_DBG_GRANT.offset ≠ r.offset) (f : Field) (b : Bool) : c.Boots (c.setBit r f b) :=
  c.setFld_boots h f _

theorem Chip.setReg_boots {r : Reg} (h : Reg.WLD_DBG_GRANT.offset ≠ r.offset) (w : Word) : c.Boots (c.setReg r w) :=
  Chip.Boots.of_uz rfl (Chip.reg_setReg_ne _ _ h) rfl

theorem Chip.report_boots (u src rid w acc d a : Nat) : c.Boots (c.report u src rid w acc d a) := by
  refine Chip.Boots.of_regs ?_ (Chip.report_regs ..) ?_
  · rw [Chip.report_frame]; rfl
  · rw [Chip.report_frame]

theorem Chip.reportLevel_boots (u rid w acc d a : Nat) {src : Nat} (h : Reg.WLD_DBG_GRANT.offset ≠ (Reg.FC_SRC src).offset) :
    c.Boots (c.reportLevel u src rid w acc d a) := by
  refine Chip.Boots.of_uz ?_ (Chip.reg_reportLevel_ne _ _ _ _ _ _ _ _ h) ?_
  · rw [Chip.reportLevel_frame]; rfl
  · rw [Chip.reportLevel_frame]

theorem Chip.raiseEvent_boots {n : Nat} (h : n < 4096) : c.Boots (c.raiseEvent n) := by
  refine Chip.Boots.of_uz ?_ (Chip.reg_raiseEvent_ne _ _ (by simp only [Reg.offset]; omega)) ?_
  · rw [Chip.raiseEvent_frame]; rfl
  · rw [Chip.raiseEvent_frame]

theorem UzSt.setHalf_grows (u : UzSt) (h : Nat) (r : JRec) : u.half0 <+: (u.setHalf h (u.half h ++ [r])).half0
    ∧ u.half1 <+: (u.setHalf h (u.half h ++ [r])).half1 := by
  unfold UzSt.setHalf UzSt.half
  split
  · exact ⟨List.prefix_append _ _, List.prefix_refl _⟩
  · exact ⟨List.prefix_refl _, List.prefix_append _ _⟩

/-- A record joins its half, and leaves the other. -/
theorem Chip.lifeWrite_grows (t : Nat) (l : List Byte) : c.uz.half0 <+: (c.lifeWrite t l).uz.half0
    ∧ c.uz.half1 <+: (c.lifeWrite t l).uz.half1 := by
  have hreport : ∀ u src rid w acc d a, (c.report u src rid w acc d a).uz = c.uz := fun u src rid w acc d a => by rw [Chip.report_frame]
  unfold Chip.lifeWrite
  split
  · exact ⟨List.prefix_refl _, List.prefix_refl _⟩
  · dsimp only
    split
    · split
      · exact ⟨List.prefix_refl _, List.prefix_refl _⟩
      · rw [hreport]
        exact ⟨List.prefix_refl _, List.prefix_refl _⟩
    · split
      · exact c.uz.setHalf_grows _ _
      · rw [hreport]
        exact ⟨List.prefix_refl _, List.prefix_refl _⟩

theorem Chip.lifeWrite_boots (t : Nat) (l : List Byte) : c.Boots (c.lifeWrite t l) := by
  refine ⟨?_, Chip.reg_lifeWrite_ne _ _ _ (by decide), (c.lifeWrite_grows t l).1, (c.lifeWrite_grows t l).2⟩
  have huz : (c.lifeWrite t l).uz.grantEnd = c.uz.grantEnd := by rw [Chip.lifeWrite_uz]
  unfold Chip.bootCore
  rw [huz, Chip.lifeWrite_frame]

end

-- links and ports

section
variable (c : Chip)

theorem Chip.setGal_boots (g : Gallery) : c.Boots { c with gal := g } := Chip.Boots.of_regs rfl rfl rfl

theorem Chip.setLinkEnd_boots (k : Nat) (b : Bool) (l : LinkEnd) : c.Boots (c.setLinkEnd k b l) := Chip.Boots.of_regs rfl rfl rfl

theorem Chip.linkStatus_boots (k : Nat) (f : Field) (n : Nat) : c.Boots (c.setFld (.JL_STATUS k) f n) :=
  c.setFld_boots (by simp only [Reg.offset]; omega) f n

theorem Chip.dieStatus_boots {d : Nat} (hd : d < 13) (f : Field) (n : Nat) : c.Boots (c.setFld (.PKG_DIE_STATUS d) f n) :=
  c.setFld_boots (by simp only [Reg.offset]; omega) f n

theorem Chip.fence_boots (r : Nat) (f : Field) (n : Nat) : c.Boots (c.setFld (.GAL_FENCE_STATUS r) f n) :=
  c.setFld_boots (by simp only [Reg.offset]; omega) f n

theorem Chip.heldCount_boots (r : Nat) : c.Boots (c.heldCount r) := (c.setGal_boots _).trans (Chip.fence_boots _ r _ _)

theorem Chip.openPort_boots (r port : Nat) : c.Boots (c.openPort r port) :=
  ((c.fence_boots r _ _).trans (Chip.setGal_boots _ _)).trans (foldl_boots (fun x (h : HeldPkt) => x.heldCount_boots h.r) _ _)

theorem Chip.openAttach_boots (a : Attach) : c.Boots (c.openAttach a) := by
  unfold Chip.openAttach
  split
  · exact c.openPort_boots ..
  · exact Chip.Boots.refl c

theorem Chip.undeliverable_boots (r : Nat) (p : Packet) (n : Nat) : c.Boots (c.undeliverable r p n) := by
  have hreport : ∀ rid w acc d a, c.Boots ((c.bump (.GAL_FENCE_STATUS r) F.GAL_FENCE_STATUS_UNAVAIL_COUNT).report (unitRouter r) 9 rid w
      acc d a) := fun rid w acc d a => (c.fence_boots r _ _).trans (Chip.report_boots ..)
  unfold Chip.undeliverable
  dsimp only
  split
  · exact (hreport ..).trans (Chip.Boots.of_regs rfl rfl rfl)
  · exact hreport ..

theorem Chip.disabledAnswer_boots (r : Nat) (p : Packet) : c.Boots (c.disabledAnswer r p) := by
  unfold Chip.disabledAnswer
  split
  · exact Chip.undeliverable_boots ..
  next d hd =>
    have hdrop : c.Boots (c.bump (.PKG_DIE_STATUS d) F.PKG_DIE_STATUS_MSI_DROPS) := c.dieStatus_boots (pktDie_lt hd) _ _
    split
    · split
      · exact hdrop.trans (Chip.undeliverable_boots ..)
      · exact Chip.undeliverable_boots ..
    · split
      · exact hdrop
      · split
        · exact Chip.undeliverable_boots ..
        · exact Chip.Boots.refl c

theorem Chip.answerOne_boots (h : HeldPkt) : c.Boots (c.answerOne h) :=
  ((c.setGal_boots _).trans (Chip.disabledAnswer_boots _ h.r h.pkt)).trans (Chip.heldCount_boots _ h.r)

theorem Chip.moveLinks_boots (d st : Nat) (was : List Nat) : c.Boots (c.moveLinks d st was) := by
  refine forUpTo_boots (fun i _ x => ?_) c
  split
  · exact x.linkStatus_boots ..
  · exact Chip.Boots.refl x

theorem Chip.clearLinks_boots (d : Nat) : c.Boots (c.clearLinks d) := forUpTo_boots (fun _ _ x => x.setLinkEnd_boots _ _ _) c

theorem Chip.disableDie_boots (d : Nat) : c.Boots (c.disableDie d) := by
  have hclose : ∀ (x : Chip) (p : Nat × Nat), x.Boots ((x.setPortState p.1 p.2 3).answerHeld p.1 p.2) := fun x p =>
    (x.fence_boots p.1 _ _).trans (foldl_boots (f := Chip.answerOne) Chip.answerOne_boots _ _)
  exact ((c.moveLinks_boots d 4 [1, 2]).trans (Chip.clearLinks_boots _ d)).trans (foldl_boots hclose _ _)

theorem Chip.setDieState_boots {d : Nat} (hd : d < 13) (st cause : Nat) : c.Boots (c.setDieState d st cause) :=
  (c.dieStatus_boots hd _ _).trans (Chip.dieStatus_boots _ hd _ _)

theorem Chip.holdOut_boots {d : Nat} (hd : d < 12) (cause : Nat) : c.Boots (c.holdOut d cause) :=
  ((c.setDieState_boots (by omega) 6 cause).trans (Chip.disableDie_boots _ d)).trans (Chip.raiseEvent_boots _ (by omega))

theorem Chip.markFailed_boots {k : Nat} (hk : k < 26) (cause : Nat) : c.Boots (c.markFailed k cause) := by
  have hrecord : c.Boots ((((((((c.setLinkEnd k false { c.linkEnd k false with
      fails := (c.linkEnd k false).fails + 1 }).setFld (.JL_STATUS k) F.JL_STATUS_STATE 3).setFld
      (.JL_STATUS k) F.JL_STATUS_FAIL_CAUSE cause).setBit (.JL_STATUS k) F.JL_STATUS_FAILED_SEEN true).reportLevel
      (unitLink k false) (400 + 2 * k) (linkRid k) 1 15).raiseEvent (204 + k)).linkRecord)) :=
    ((((((c.setLinkEnd_boots _ _ _).trans (Chip.linkStatus_boots _ k _ _)).trans (Chip.linkStatus_boots _ k _ _)).trans
      (Chip.linkStatus_boots _ k _ _)).trans (Chip.reportLevel_boots _ _ _ _ _ _ _ (by simp only [Reg.offset]; omega))).trans
      (Chip.raiseEvent_boots _ (by omega))).trans (Chip.lifeWrite_boots _ _ _)
  unfold Chip.markFailed
  dsimp only
  split
  · exact hrecord
  · exact hrecord.trans (Chip.dieStatus_boots _ (by omega) _ _)

theorem Chip.trainLink_boots {k : Nat} (hk : k < 26) (ok : Bool) (wires spares : Nat) : c.Boots (c.trainLink k ok wires spares) := by
  have hstart : ∀ w n, c.Boots ((((c.setReg (.JL_STATUS k) w).setFld (.JL_STATUS k) ⟨31, 4, .ro, none⟩ spares).setFld (.JL_RETRY k)
      F.JL_RETRY_RETRIES 0).setFld (.JL_STATUS k) F.JL_STATUS_STATE n) := fun w n =>
    (((c.setReg_boots (by simp only [Reg.offset]; omega) w).trans (Chip.linkStatus_boots _ k _ _)).trans
      (Chip.setFld_boots _ (by simp only [Reg.offset]; omega) _ _)).trans (Chip.linkStatus_boots _ k _ _)
  unfold Chip.trainLink
  dsimp only
  split
  · exact ((((hstart ..).trans (Chip.setLinkEnd_boots _ _ _ _)).trans (Chip.setLinkEnd_boots _ _ _ _)).trans
      (Chip.linkStatus_boots _ k _ _)).trans (Chip.setFld_boots _ (by simp only [Reg.offset]; omega) _ _)
  · exact (((hstart ..).trans (Chip.setLinkEnd_boots _ _ _ _)).trans (Chip.setLinkEnd_boots _ _ _ _)).trans (Chip.markFailed_boots _ hk _)

theorem Chip.trainDie_boots {d : Nat} (hd : d < 12) (st : DieStart) : c.Boots (c.trainDie d st) := by
  have hlinks : c.Boots ((c.trainLink (2 * d) st.trainA st.wiresA st.sparesA).trainLink (2 * d + 1) st.trainB st.wiresB st.sparesB) :=
    (c.trainLink_boots (by omega) _ _ _).trans (Chip.trainLink_boots _ (by omega) _ _ _)
  unfold Chip.trainDie
  dsimp only
  split
  · exact hlinks.trans (Chip.holdOut_boots _ hd _)
  · exact hlinks

end

-- memory, settings, the pair

section
variable (c : Chip)

theorem Chip.uzFault_boots (n : Nat) : c.Boots (c.uzFault n) := c.report_boots ..

theorem Chip.uzStatus_boots (f : Field) (n : Nat) : c.Boots (c.setFld .UZ_STATUS f n) := c.setFld_boots (by decide) f n

theorem Chip.flight_boots (n : Nat) (f : Field) (v : Nat) : c.Boots (c.setFld (.HALL_FLIGHT_STATUS n) f v) :=
  c.setFld_boots (by simp only [Reg.offset]; omega) f v

theorem Chip.onHall_boots (n : Nat) (f : HallSt → HallSt) : c.Boots (c.onHall n f) := Chip.Boots.of_regs rfl rfl rfl

theorem Chip.trainChannel_boots (n : Nat) (s : ChannelStart) : c.Boots (c.trainChannel n s) := by
  have hup : ∀ x : Chip, c.Boots x → c.Boots ((x.setBit (.HALL_FLIGHT_STATUS n) F.HALL_FLIGHT_STATUS_IN_SERVICE true).setFld
      (.HALL_FLIGHT_STATUS n) F.HALL_FLIGHT_STATUS_MTS_100 s.mts) := fun x h =>
    (h.trans (x.flight_boots n _ _)).trans (Chip.flight_boots _ n _ _)
  have hdown : ∀ x : Chip, c.Boots x → c.Boots ((x.onHall n (fun h => { h with trainBad := true })).reportLevel (unitHall n)
      (208 + 12 * n + 11) (0x4000 + n) 1 15) := fun x h =>
    (h.trans (x.onHall_boots n _)).trans (Chip.reportLevel_boots _ _ _ _ _ _ _ (by simp only [Reg.offset]; omega))
  unfold Chip.trainChannel
  dsimp only
  generalize (s.reuseOk && _) = reuse
  have hmarked : ∀ v, c.Boots ((c.setFld .UZ_STATUS F.UZ_STATUS_TRAIN_FULL v).uzFault 51) := fun v =>
    (c.uzStatus_boots ..).trans (Chip.uzFault_boots ..)
  cases reuse with
  | true => exact hup _ (c.uzStatus_boots ..)
  | false =>
    cases s.trainOk with
    | true => exact hup _ ((hmarked _).trans (Chip.lifeWrite_boots ..))
    | false => exact hdown _ (hmarked _)

theorem Chip.endWindows_boots : c.Boots c.endWindows :=
  (forUpTo_boots (f := fun n x => x.endWindow n) (fun n _ x => (x.onHall_boots n _).trans (Chip.flight_boots _ n _ _)) c).trans
    (Chip.setBit_boots _ (by decide) _ _)

theorem Chip.qosStatus_boots (f : Field) (n : Nat) : c.Boots (c.setFld .QOS_STATUS f n) := c.setFld_boots (by decide) f n

theorem Chip.rescale_boots : c.Boots c.rescale := by
  have hscaled : c.Boots c.scaled := by
    unfold Chip.scaled
    dsimp only
    split
    · exact c.qosStatus_boots ..
    · exact (c.qosStatus_boots ..).trans (Chip.endWindows_boots _)
  rw [Chip.rescale_eq]
  split
  · exact hscaled
  · exact (hscaled.trans (Chip.qosStatus_boots _ _ _)).trans (Chip.raiseEvent_boots _ (by decide))

theorem Chip.takeStaged_boots : c.Boots c.takeStaged := by
  have hstaged : c.Boots c.staged := Chip.Boots.of_regs rfl rfl rfl
  have hdivide : ∀ x : Chip, x.Boots x.divide := fun x => Chip.Boots.of_regs rfl rfl rfl
  exact ((hstaged.trans (Chip.rescale_boots _)).trans (hdivide _)).trans (Chip.endWindows_boots _)

theorem Chip.startSettings_boots (st : PkgStart) : c.Boots (c.startSettings st) := by
  have hcommit : ∀ x : Chip, x.Boots x.startCommit := fun x => by
    unfold Chip.startCommit
    split
    · exact x.takeStaged_boots.trans (Chip.qosStatus_boots _ _ _)
    · exact x.qosStatus_boots _ _
  unfold Chip.startSettings
  exact ((((((c.setBit_boots (by decide) _ _).trans (Chip.setBit_boots _ (by decide) _ _)).trans (Chip.setFld_boots _ (by decide) _ _)).trans
    (Chip.setFld_boots _ (by decide) _ _)).trans (foldl_boots (fun x (e : Nat × Nat) =>
      x.setFld_boots (r := .QOS_LABEL_MAP e.1) (by simp only [Reg.offset]; omega) _ _) _ _)).trans
    (Chip.setFld_boots _ (by decide) _ _)).trans (hcommit _)

theorem Chip.setPairState_boots (st : Nat) : c.Boots (c.setPairState st) := by
  have hstated : c.Boots (c.statedPair st) :=
    (((c.setFld_boots (by decide) _ _).trans (Chip.setBit_boots _ (by decide) _ _)).trans (Chip.setBit_boots _ (by decide) _ _)).trans
      (Chip.raiseEvent_boots _ (by decide))
  rw [Chip.setPairState_eq]
  split
  · exact Chip.Boots.refl c
  · split
    · exact hstated.trans (Chip.lifeWrite_boots _ _ _)
    · have hquiet : (c.statedPair st).Boots ((c.statedPair st).setAliveO false) := Chip.Boots.of_regs rfl rfl rfl
      exact (hstated.trans hquiet).trans (Chip.lifeWrite_boots _ _ _)

theorem Chip.startPair_boots (st : PkgStart) : c.Boots (c.startPair st) := by
  have hstrap : ∀ (p : Pins) (n : Nat), c.Boots (({ c with pins := p } : Chip).setFld .PAIR_STATUS F.PAIR_STATUS_ROLE n) := fun p n =>
    (Chip.Boots.of_regs rfl rfl rfl : c.Boots { c with pins := p }).trans (Chip.setFld_boots _ (by decide) _ _)
  unfold Chip.startPair
  dsimp only
  split
  · exact (hstrap ..).trans (Chip.uzFault_boots ..)
  · split
    · exact hstrap ..
    · exact (((hstrap ..).trans (Chip.trainLink_boots _ (by decide) _ _ _)).trans (Chip.trainLink_boots _ (by decide) _ _ _)).trans
        (Chip.setPairState_boots _ _)

theorem Chip.newDigest_boots : c.Boots c.newDigest := by
  refine Chip.Boots.of_uz ?_ (Chip.reg_newDigest_ne _ (by decide) (by decide) (by decide)) ?_
  · rw [Chip.newDigest_frame]; rfl
  · rw [Chip.newDigest_frame]

theorem Chip.startOwners_boots : c.Boots c.startOwners := by
  unfold Chip.startOwners
  exact ((((c.setFld_boots (by decide) _ _).trans (Chip.setBit_boots _ (by decide) _ _)).trans (forUpTo_boots (fun n _ x =>
    x.setFld_boots (r := .WLD_SRC_OWN n) (by simp only [Reg.offset]; omega) _ _) _)).trans (Chip.setFld_boots _ (by decide) _ _)).trans
    (Chip.newDigest_boots _)

theorem Chip.startPorts_boots : c.Boots c.startPorts := foldl_boots Chip.openAttach_boots _ c

end

-- the core map of a die

section
variable (c : Chip) {d : Nat}

theorem Chip.coreStatus_boots (f : Field) (n : Nat) : c.Boots (c.setFld (.CD_CORE_STATUS d) f n) :=
  c.setFld_boots (by simp only [Reg.offset]; omega) f n

theorem Chip.onDie_boots (f : DieSt → DieSt) : c.Boots (c.onDie d f) := Chip.Boots.of_regs rfl rfl rfl

theorem Chip.writeMap_boots (m : List Nat) : c.Boots (c.writeMap d m) := by
  refine forUpTo_boots (fun i _ x => ?_) c
  split <;> exact x.setFld_boots (by simp only [Reg.offset]; omega) _ _

theorem Chip.buildCoreMap_boots (failMask : Nat) : c.Boots (c.buildCoreMap d failMask) := by
  unfold Chip.buildCoreMap
  exact (((((c.writeMap_boots _).trans (Chip.onDie_boots _ _)).trans (foldl_boots (fun x (_ : Nat) => x.lifeWrite_boots _ _) _ _)).trans
    (((Chip.coreStatus_boots _ _ _).trans (Chip.coreStatus_boots _ _ _)).trans (Chip.coreStatus_boots _ _ _))).trans
    (Chip.coreStatus_boots _ _ _)).trans (Chip.lifeWrite_boots _ _ _)

theorem Chip.identArrive_boots (hd : d < 12) (st : DieStart) : c.Boots (c.identArrive d st) := by
  have hmap : ∀ (x : Chip) b m, c.Boots x → c.Boots ((x.setBit (.PKG_DIE_STATUS d) F.PKG_DIE_STATUS_SINGLE_LINK b).buildCoreMap d m) :=
    fun x b m h => (h.trans (x.dieStatus_boots (by omega) _ _)).trans (Chip.buildCoreMap_boots _ _)
  have hdie : ∀ (x : Chip) (w : Word) (n k : Nat), c.Boots x → c.Boots (((x.setReg (.PKG_DIE_SERIAL d) w).setFld (.PKG_DIE_CAP d)
      F.PKG_DIE_CAP_CAP n).setFld (.PKG_DIE_CAP d) F.PKG_DIE_CAP_STEPPING k) := fun x w n k h =>
    ((h.trans (x.setReg_boots (by simp only [Reg.offset]; omega) _)).trans (Chip.setFld_boots _ (by simp only [Reg.offset]; omega) _ _)).trans
      (Chip.setFld_boots _ (by simp only [Reg.offset]; omega) _ _)
  unfold Chip.identArrive
  dsimp only
  split
  · exact Chip.Boots.refl c
  · split
    · exact c.holdOut_boots hd _
    · refine hmap _ _ _ ?_
      split
      · exact c.onDie_boots _
      · exact hdie _ _ _ _ (c.onDie_boots _)

end

end Sys2Proof.Machine
end

section
/-! The package reset: what it leaves, and what performs it (R85, R302, R416, R419). -/

namespace Sys2Proof.Machine

/-- A hart as a package reset leaves it: nothing waits for it. -/
structure Hart.AtReset (y : Hart) : Prop where
  hq : y.hq = []
  priv : y.priv = 3
  world : y.world = 1
  x : y.x = []
  haltPending : y.haltPending = false
  run : y.run = .held ∨ y.run = .running

theorem Hart.atReset_of_csr {y : Hart} (hcsr : y.csr = []) (hq : y.hq = []) (hp : y.priv = 3) (hx : y.x = []) (hh : y.haltPending = false)
    (hr : y.run = .held ∨ y.run = .running) : y.AtReset := by
  refine ⟨hq, hp, ?_, hx, hh, hr⟩
  rw [Hart.world, Hart.csrBits, Hart.getCsr, hcsr]
  decide

/-- The lines that are held anywhere, and the requests outstanding. -/
def Chip.heldLines (c : Chip) := (c.l2, c.wb, c.lnd, c.hc, c.ownc, c.miss, c.txn)

/-- A chip `c` whose package has been reset, as its chip was `s`, and starts. -/
structure Chip.FreshFrom (s c : Chip) : Prop where
  now : c.now = s.now
  half0 : s.uz.half0 <+: c.uz.half0
  half1 : s.uz.half1 <+: c.uz.half1
  grantEnd : c.uz.grantEnd = none
  grant : c.reg .WLD_DBG_GRANT = 0
  lines : c.heldLines = ([], [], [], [], [], [], [])
  harts : ∀ h, (c.hart h).AtReset

section
variable {s c d : Chip}

theorem Chip.bootCore_parts (h : d.bootCore = c.bootCore) :
    d.now = c.now ∧ d.heldLines = c.heldLines ∧ d.harts = c.harts ∧ d.uz.grantEnd = c.uz.grantEnd := by
  simp only [Chip.bootCore, Prod.mk.injEq] at h
  obtain ⟨hnow, hl2, hwb, hlnd, hhc, hownc, hmiss, htxn, hharts, hgrant⟩ := h
  refine ⟨hnow, ?_, hharts, hgrant⟩
  rw [Chip.heldLines, hl2, hwb, hlnd, hhc, hownc, hmiss, htxn, Chip.heldLines]

theorem Chip.Boots.harts (h : c.Boots d) : d.harts = c.harts := (Chip.bootCore_parts h.core).2.2.1

theorem Chip.FreshFrom.boots (hc : s.FreshFrom c) (h : c.Boots d) : s.FreshFrom d := by
  obtain ⟨hnow, hlines, hharts, hgrant⟩ := Chip.bootCore_parts h.core
  exact ⟨hnow.trans hc.now, hc.half0.trans h.half0, hc.half1.trans h.half1, hgrant.trans hc.grantEnd, h.grant.trans hc.grant,
    hlines.trans hc.lines, fun k => by rw [Chip.hart, hharts]; exact hc.harts k⟩

-- a die starts

theorem atReset_sset {m : Sparse Hart} (hm : ∀ k, (sget Hart.reset k m).AtReset) (h : Nat) {x : Hart} (hx : x.AtReset) (k : Nat) :
    (sget Hart.reset k (sset Hart.reset h x m)).AtReset := by
  by_cases e : k = h
  · rw [e, sget_sset_self]
    exact hx
  · rw [sget_sset_ne _ _ e]
    exact hm k

theorem Chip.FreshFrom.dieClear (hc : s.FreshFrom c) (d : Nat) : s.FreshFrom (c.dieClear d) := by
  have hlines := hc.lines
  simp only [Chip.heldLines, Prod.mk.injEq] at hlines
  obtain ⟨hl2, hwb, hlnd, hhc, hownc, hmiss, htxn⟩ := hlines
  refine ⟨hc.now, hc.half0, hc.half1, hc.grantEnd, hc.grant, ?_, ?_⟩
  · simp only [Chip.heldLines, Chip.dieClear, hl2, hwb, hlnd, hhc, hownc, hmiss, htxn, List.filter_nil]
  · have hheld : ∀ h, ({ Hart.reset with haltPending := (c.hart h).haltPending } : Hart).AtReset := fun h =>
      Hart.atReset_of_csr rfl rfl rfl rfl (hc.harts h).haltPending (.inl rfl)
    exact foldl_keeps (P := fun m => ∀ k, (sget Hart.reset k m).AtReset) (fun m h hm => atReset_sset hm h (hheld h)) (dieHarts d) hc.harts

theorem Chip.FreshFrom.startHart (hc : s.FreshFrom c) (h : Nat) : s.FreshFrom (c.startHart h) := by
  rw [Chip.startHart_of_calm (hc.harts h).haltPending]
  have hstarted : ∀ pc, ({ Hart.reset with run := .running, pc := pc } : Hart).AtReset := fun pc =>
    Hart.atReset_of_csr rfl rfl rfl rfl rfl (.inr rfl)
  exact ⟨hc.now, hc.half0, hc.half1, hc.grantEnd, hc.grant, hc.lines, atReset_sset hc.harts h (hstarted _)⟩

theorem Chip.railOn_boots (c : Chip) (d mv : Nat) : c.Boots (c.railOn d mv) := Chip.Boots.of_regs rfl rfl rfl

theorem Chip.restoreBanks_boots (c : Chip) (p : Nat → Bool) : c.Boots (c.restoreBanks p) := Chip.Boots.of_regs rfl rfl rfl

/-- The registers of a die go back to their reset values. -/
theorem Chip.dieRegs_boots (c : Chip) (d : Nat) : c.Boots { c with regs := c.regs.filter (fun e => !cdRegister d e.1) } := by
  refine Chip.Boots.of_uz rfl (sget_filter _ (p := fun k => !cdRegister d k) ?_ c.regs) rfl
  have hlow : ¬ 0x10000000 + d * 0x1000000 ≤ 0x30608 := by omega
  simp only [cdRegister, show Reg.WLD_DBG_GRANT.offset = 0x30608 from rfl, decide_eq_false hlow, Bool.false_and, Bool.not_false]

theorem Chip.trainWaiting_boots (c : Chip) {d : Nat} (hd : d < 12) : c.Boots (c.trainWaiting d) := by
  unfold Chip.trainWaiting
  split
  · split
    · exact (c.onDie_boots _).trans (Chip.trainDie_boots _ hd _)
    · exact Chip.Boots.refl c
  · exact Chip.Boots.refl c

theorem Chip.FreshFrom.startDie (hc : s.FreshFrom c) {d : Nat} (hd : d < 12) (st : DieStart) : s.FreshFrom (c.startDie d st) := by
  have hheld : ∀ w, s.FreshFrom (((c.dieClear d).restoreBanks (dieBank d)).setReg (.PKG_DIE_STATUS d) w) := fun w =>
    ((hc.dieClear d).boots (Chip.restoreBanks_boots _ _)).boots (Chip.setReg_boots _ (by simp only [Reg.offset]; omega) w)
  have hrest : ∀ (x : Chip) f n b, s.FreshFrom x → s.FreshFrom ((((((({ x with regs := x.regs.filter (fun e => !cdRegister d e.1) } : Chip).onDie d
      f).clearLinks d).moveLinks d 0 [1, 2, 3, 4]).setFld (.CD_SUPPLY_STATUS d) F.CD_SUPPLY_STATUS_V_NOW_MV n).setBit (.CD_SUPPLY_STATUS d)
      F.CD_SUPPLY_STATUS_BELOW_FUNC b).trainWaiting d) := fun x f n b hx =>
    hx.boots ((((((x.dieRegs_boots d).trans (Chip.onDie_boots _ _)).trans (Chip.clearLinks_boots _ d)).trans
      (Chip.moveLinks_boots _ d _ _)).trans (Chip.setFld_boots _ (by simp only [Reg.offset]; omega) _ _)).trans
      (Chip.setBit_boots _ (by simp only [Reg.offset]; omega) _ _) |>.trans (Chip.trainWaiting_boots _ hd))
  unfold Chip.startDie
  dsimp only
  refine hrest _ _ _ _ ?_
  split
  · exact (hheld _).boots (Chip.railOn_boots _ _ _)
  · exact hheld _

theorem Chip.FreshFrom.identAck (hc : s.FreshFrom c) {d : Nat} (hd : d < 12) (cap : Nat) : s.FreshFrom (c.identAck d cap) := by
  have hstart : ∀ (x : Chip) h, s.FreshFrom x → s.FreshFrom (if x.corePhys h = 31 then x else x.startHart h) := fun x h hx => by
    split
    · exact hx
    · exact hx.startHart h
  unfold Chip.identAck
  dsimp only
  split
  · exact hc
  · refine Chip.FreshFrom.boots (foldl_keeps hstart _ (hc.boots ?_)) (Chip.raiseEvent_boots _ (by omega))
    exact ((c.onDie_boots _).trans (Chip.setDieState_boots _ (by omega) 2 0)).trans
      (foldl_boots (fun x (p : Nat × Nat) => x.openPort_boots p.1 p.2) _ _)

theorem Chip.FreshFrom.forUpTo {f : Nat → Chip → Chip} {n : Nat} (hf : ∀ i, i < n → ∀ x : Chip, s.FreshFrom x → s.FreshFrom (f i x)) (hc : s.FreshFrom c) :
    s.FreshFrom (forUpTo n f c) := by
  induction n with
  | zero => exact hc
  | succ n ih =>
    rw [forUpTo_succ]
    exact hf n (by omega) _ (ih fun i hi => hf i (by omega))

end

-- the start of the package

/-- The first image has been copied to memory. -/
def Pkg.imageCopied (p : Pkg) (st : PkgStart) : Pkg :=
  st.image.zipIdx.foldl (fun (q : Pkg) e => if st.imageAddr + e.2 < p.chip.dramTop then q.putByte (st.imageAddr + e.2) e.1 else q) p

/-- The reset vector of every die is the image's address. -/
def Chip.vectored (c : Chip) (st : PkgStart) : Chip :=
  (forUpTo 12 (fun d x => x.setFld (.CD_RESET_VECTOR d) F.CD_RESET_VECTOR_ADDR (st.imageAddr / 4)) c).onUz (fun u => { u with image := st.image })

theorem Pkg.startImage_eq (p : Pkg) (st : PkgStart) : p.startImage st = (p.imageCopied st).onChip (fun c => c.vectored st) := rfl

/-- The chip has stayed. -/
def Pkg.SameChip (p q : Pkg) : Prop := q.chip = p.chip

theorem Pkg.imageCopied_sameChip (p : Pkg) (st : PkgStart) : p.SameChip (p.imageCopied st) := by
  have hput : ∀ (q : Pkg) a b, p.SameChip q → p.SameChip (q.putByte a b) := fun _ _ _ h => h
  unfold Pkg.imageCopied
  refine foldl_keeps (P := p.SameChip) (fun q e h => ?_) _ rfl
  split
  · exact hput q _ _ h
  · exact h

theorem Chip.vectored_boots (c : Chip) (st : PkgStart) : c.Boots (c.vectored st) := by
  have himage : ∀ x : Chip, x.Boots (x.onUz (fun u => { u with image := st.image })) := fun x =>
    ⟨rfl, rfl, List.prefix_refl _, List.prefix_refl _⟩
  exact (forUpTo_boots (fun d _ y => y.setFld_boots (r := .CD_RESET_VECTOR d) (by simp only [Reg.offset]; omega) _ _) c).trans (himage _)

theorem Pkg.startImage_boots (p : Pkg) (st : PkgStart) : p.chip.Boots (p.startImage st).chip := by
  rw [Pkg.startImage_eq, Pkg.onChip_chip, show (p.imageCopied st).chip = p.chip from p.imageCopied_sameChip st]
  exact Chip.vectored_boots _ st

section
variable {s : Chip} (p : Pkg) (st : PkgStart)

/-- The channels have been trained. -/
def Pkg.trained : Chip :=
  (st.channels.zipIdx.foldl (fun (x : Chip) e => x.trainChannel e.2 e.1)
    ({ p.chip with pins := { p.chip.pins with mfgMode := st.mfgMode } } : Chip)).stage 6

theorem Pkg.trained_boots : p.chip.Boots (p.trained st) := by
  have hpins : p.chip.Boots { p.chip with pins := { p.chip.pins with mfgMode := st.mfgMode } } := Chip.Boots.of_regs rfl rfl rfl
  exact (hpins.trans (foldl_boots (fun x (e : ChannelStart × Nat) => x.trainChannel_boots e.2 e.1) _ _)).trans (Chip.uzStatus_boots _ _ _)

/-- The start has stopped at step 6. -/
def Pkg.stopped6 : Chip := (p.trained st).reportLevel unitUz 14 0x5000 1 15

theorem Pkg.stopped6_boots : p.chip.Boots (p.stopped6 st) := (p.trained_boots st).trans (Chip.reportLevel_boots _ _ _ _ _ _ _ (by decide))

/-- The start has come to step 12. -/
def Pkg.ported (cap : Nat) : Chip :=
  (((((forUpTo 16 (fun n x => x.openAttach (.hall n)) ((p.trained st).setFld .PKG_ADDR_MAP F.PKG_ADDR_MAP_HALL_CAP_GIB cap)).startSettings
    st).startPair st).startDies st).startOwners.startPorts)

/-- The image has been copied, and the dies that were accepted run. -/
def Pkg.started (cap : Nat) : Chip :=
  (forUpTo 12 (fun d x => x.identAck d (x.capEnFor d)) (({ p with chip := p.ported st cap } : Pkg).startImage st).chip).stage 15

theorem Pkg.startPackage_eq : p.startPackage st = if !(dimmsAgree st.channels && (List.range 16).all (p.trained st).inService) then
    { p with chip := p.stopped6 st }
    else { ({ p with chip := p.ported st ((st.channels.head?.map (fun s => s.capGib)).getD 0) } : Pkg).startImage st with
      chip := p.started st ((st.channels.head?.map (fun s => s.capGib)).getD 0) } := rfl

theorem Pkg.ported_fresh (h : s.FreshFrom p.chip) (cap : Nat) : s.FreshFrom (p.ported st cap) := by
  have hsettings : p.chip.Boots (((forUpTo 16 (fun n x => x.openAttach (.hall n)) ((p.trained st).setFld .PKG_ADDR_MAP
      F.PKG_ADDR_MAP_HALL_CAP_GIB cap)).startSettings st).startPair st) :=
    ((((p.trained_boots st).trans (Chip.setFld_boots _ (by decide) _ _)).trans (forUpTo_boots (fun n _ x => x.openAttach_boots _) _)).trans
      (Chip.startSettings_boots _ st)).trans (Chip.startPair_boots _ st)
  have hdies : ∀ x : Chip, s.FreshFrom x → s.FreshFrom (x.startDies st) := fun x hx =>
    Chip.FreshFrom.forUpTo (fun d hd y hy => (hy.startDie hd _).boots (Chip.identArrive_boots _ hd _)) hx
  exact (hdies _ (h.boots hsettings)).boots ((Chip.startOwners_boots _).trans (Chip.startPorts_boots _))

theorem Pkg.started_fresh (h : s.FreshFrom p.chip) (cap : Nat) : s.FreshFrom (p.started st cap) := by
  have hported := p.ported_fresh st h cap
  unfold Pkg.started
  generalize p.ported st cap = x at hported ⊢
  have himage : x.Boots (({ p with chip := x } : Pkg).startImage st).chip := Pkg.startImage_boots { p with chip := x } st
  exact (Chip.FreshFrom.forUpTo (fun d hd x hx => hx.identAck hd _) (hported.boots himage)).boots (Chip.uzStatus_boots _ _ _)

theorem Pkg.startPackage_fresh (h : s.FreshFrom p.chip) : s.FreshFrom (p.startPackage st).chip := by
  rw [Pkg.startPackage_eq]
  split
  · exact h.boots (p.stopped6_boots st)
  · exact p.started_fresh st h _

/-- Where the DIMMs do not agree nothing starts. -/
theorem Pkg.startPackage_stops (h : dimmsAgree st.channels = false) :
    p.startPackage st = { p with chip := p.stopped6 st } := by
  rw [Pkg.startPackage_eq, if_pos (by rw [h]; rfl)]

end

-- everything held in reset

theorem sget_filter_out {V : Type} (d : V) {p : Nat → Bool} {k : Nat} (h : p k = false) (m : Sparse V) :
    sget d k (m.filter (fun e => p e.1)) = d := by
  induction m with
  | nil => rfl
  | cons e m ih =>
    by_cases hp : p e.1 = true
    · rw [List.filter_cons_of_pos (by simpa using hp), sget, if_neg (fun hk => by rw [hk, h] at hp; exact absurd hp (by decide))]
      exact ih
    · rw [List.filter_cons_of_neg (by simpa using hp)]
      exact ih

section
variable (c : Chip)

theorem Chip.endGrant_grows : c.uz.half0 <+: c.endGrant.uz.half0 ∧ c.uz.half1 <+: c.endGrant.uz.half1 := by
  unfold Chip.endGrant
  split
  · exact ⟨List.prefix_refl _, List.prefix_refl _⟩
  · exact c.lifeWrite_grows _ _

theorem Chip.endGrant_none : c.endGrant.uz.grantEnd = none := by
  unfold Chip.endGrant
  split
  next h => exact Option.isNone_iff_eq_none.1 h
  next => rfl

theorem Chip.heldReset_grant : c.heldReset.reg .WLD_DBG_GRANT = 0 := by
  unfold Chip.heldReset
  dsimp only
  rw [forUpTo_same_of_lt (fun x : Chip => x.reg .WLD_DBG_GRANT) 6 fun i hi x => ?_]
  · exact sget_filter_out _ (by decide) _
  · split
    · exact Chip.reg_setCause_ne _ _ _ (by simp only [Reg.offset]; omega)
    · rfl

theorem Chip.heldReset_core : c.heldReset.now = c.now ∧ c.heldReset.heldLines = ([], [], [], [], [], [], []) := by
  have hsame : ∀ {γ : Type} (g : Chip → γ) (hg : ∀ (x : Chip) i, g (x.setCause i true) = g x) (k r : Chip),
      g (forUpTo 6 (fun i x => if k.bit (.FC_SRC (i + 1)) F.FC_SRC_CAUSE then x.setCause (i + 1) true else x) r) = g r := fun g hg k r =>
    forUpTo_same g (fun i x => by split <;> simp [hg]) 6 r
  unfold Chip.heldReset
  dsimp only
  rw [hsame Chip.now (fun _ _ => rfl), hsame Chip.heldLines (fun _ _ => rfl), Chip.restoreBanks_frame, Chip.endGrant_frame]
  exact ⟨rfl, rfl⟩

theorem Chip.pairYield_grows : c.uz.half0 <+: c.pairYield.uz.half0 ∧ c.uz.half1 <+: c.pairYield.uz.half1 := by
  have hrecord : ∀ x : Chip, x.uz = c.uz → c.uz.half0 <+: (x.pairRecord.setAliveO false).uz.half0
      ∧ c.uz.half1 <+: (x.pairRecord.setAliveO false).uz.half1 := fun x hx => by
    rw [← hx]
    exact x.lifeWrite_grows _ _
  have hctl : ∀ (x : Chip) u, (x.pairCtl u).uz = x.uz := fun x u => by rw [Chip.pairCtl_frame]
  unfold Chip.pairYield
  split
  · exact ⟨List.prefix_refl _, List.prefix_refl _⟩
  · dsimp only
    split
    · refine hrecord _ ?_
      rw [Chip.setSource_frame]
      exact hctl _ _
    · rw [show ∀ x : Chip, (x.setAliveO false).uz = x.uz from fun _ => rfl, hctl]
      exact ⟨List.prefix_refl _, List.prefix_refl _⟩

/-- After PAIR_YIELD, and with everything held in reset, the start may begin. -/
theorem Chip.heldReset_fresh : c.FreshFrom c.pairYield.heldReset := by
  obtain ⟨hnow, hlines⟩ := c.pairYield.heldReset_core
  obtain ⟨hy0, hy1⟩ := c.pairYield_grows
  obtain ⟨hg0, hg1⟩ := c.pairYield.endGrant_grows
  refine ⟨hnow.trans (by rw [Chip.pairYield_frame]), ?_, ?_, ?_, Chip.heldReset_grant _, hlines, fun h => ?_⟩
  · rw [Chip.heldReset_uz]
    exact hy0.trans hg0
  · rw [Chip.heldReset_uz]
    exact hy1.trans hg1
  · rw [Chip.heldReset_uz]
    exact Chip.endGrant_none _
  · rw [Chip.hart, Chip.heldReset_harts]
    exact Hart.atReset_of_csr rfl rfl rfl rfl rfl (.inl rfl)

end

-- the package reset

/-- Everything is held in reset, and main memory is empty. -/
def Pkg.heldEmpty (p : Pkg) : Pkg := ({ p with chip := p.chip.pairYield.heldReset } : Pkg).dropDram

section
variable {p : Pkg} (st : PkgStart) (hon : p.chip.uz.on = true) (hup : p.chip.mainsUp = true) (htrip : p.chip.uz.tripped = false)
  (hpend : p.chip.uz.resetPending = false)
include hon hup htrip hpend

theorem Pkg.resetPackage_running : p.resetPackage st = p.heldEmpty.startPackage st := by
  have hyield : p.chip.pairYield.uz.tripped = false := by rw [Chip.pairYield_uz, htrip]
  unfold Pkg.resetPackage
  dsimp only
  rw [if_neg (by simp [hon]), if_neg (by simp [hup]), if_neg (by simp [hpend]), htrip, Bool.false_and, if_neg Bool.false_ne_true,
    if_neg (by simp [hyield])]
  rfl

end

section
variable (s : Chip) (p : Pkg) (st : PkgStart)

theorem Pkg.heldEmpty_fresh : p.chip.FreshFrom p.heldEmpty.chip := p.chip.heldReset_fresh

/-- Where the DIMMs do not agree every hart is held, and main memory empty. -/
theorem Pkg.heldEmpty_stops (h : dimmsAgree st.channels = false) : (∀ k, ((p.heldEmpty.startPackage st).chip.hart k).run = .held)
    ∧ ∀ a, a < 0x40000000000 → (p.heldEmpty.startPackage st).byteAt a = 0 := by
  rw [Pkg.startPackage_stops _ st h]
  refine ⟨fun k => ?_, fun a ha => Pkg.dropDram_byte _ ha⟩
  rw [Chip.hart, (p.heldEmpty.stopped6_boots st).harts, show p.heldEmpty.chip.harts = [] from Chip.heldReset_harts _]
  rfl

end

-- the commands

section
variable (s : State) {st : PkgStart} (hst : pkgStartOk st = true)
include hst

omit hst in
/-- A part that has left production has LOCKED set, whatever its other fuses (R300). -/
theorem lock_closed : fuseLocked = true := by
  have hbit : ∀ n, n < 2 ^ 32 → bitAt (n + 2 ^ 32) 32 = true := fun n hn => by
    rw [bitAt, Nat.testBit_eq_decide_div_mod_eq, show (n + 2 ^ 32) / 2 ^ 32 = 1 by omega]
    rfl
  exact hbit _ (Nat.mod_lt _ (Nat.two_pow_pos 32))

theorem ndmreset_does : GivesPkg (.ndmreset st) s (if s.chip.lockOpen then s.toPkg.resetPackage st else s.toPkg) := givesPkg_of_onPkg rfl hst rfl

theorem resets_does {i : Instr} (hi : i ∈ [Instr.packageReset st, .resetNFall st, .ndmreset st])
    (h : i ≠ .ndmreset st ∨ bitAt (s.chip.fld .WLD_DBG_GRANT F.WLD_DBG_GRANT_GRANT_INV) 1 = true) :
    GivesPkg i s (s.toPkg.resetPackage st) := by
  rcases List.mem_cons.1 hi with rfl | hi
  · exact givesPkg_of_onPkg rfl hst rfl
  · rcases List.mem_cons.1 hi with rfl | hi
    · exact givesPkg_of_onPkg rfl hst rfl
    · obtain rfl := List.mem_singleton.1 hi
      refine (ndmreset_does s hst).congr (if_pos ?_)
      rw [Chip.lockOpen, h.resolve_left fun hne => hne rfl, Bool.or_true]

end

/-- Settles O17: what is held in reset is fresh, and every step of the start keeps that (`Chip.FreshFrom`): a step leaves package time, the
lines and the requests, writes no register of the grant, adds records alone, and starts harts from their reset. -/
theorem packageResets : Obligations.PackageResets := by
  unfold Obligations.PackageResets
  intro s st hst granted
  refine ⟨fun hg => (ndmreset_does s hst).congr (if_neg ?_), fun i hi hmay => ?_⟩
  · rw [Chip.lockOpen, show bitAt (s.chip.fld .WLD_DBG_GRANT F.WLD_DBG_GRANT_GRANT_INV) 1 = false from hg, lock_closed]
    decide
  · have hdoes := resets_does s hst hi hmay
    refine ⟨hdoes, fun hoff => hdoes.congr (if_pos (by simp [hoff])), fun hon hup htrip hpend => ?_⟩
    have hrun := hdoes.congr (Pkg.resetPackage_running st hon hup htrip hpend)
    have hfresh := s.toPkg.heldEmpty.startPackage_fresh st s.toPkg.heldEmpty_fresh
    have hstage := s.toPkg.heldEmpty.startPackage_differ st
    have hheld := s.toPkg.heldEmpty_stops st
    generalize s.toPkg.heldEmpty.startPackage st = q at hrun hfresh hstage hheld
    have hlines := hfresh.lines
    simp only [Chip.heldLines, Prod.mk.injEq] at hlines
    obtain ⟨hl2, hwb, hlnd, hhc, hownc, hmiss, htxn⟩ := hlines
    refine ⟨{ s with toPkg := q }, hrun, ?_⟩
    dsimp only
    refine ⟨rfl, hfresh.now, hfresh.half0, hfresh.half1, hfresh.grantEnd, ?_, hl2, hwb, hlnd, hhc, hownc, hmiss, htxn, fun h _ => ?_,
      fun hd => ?_⟩
    · show F.WLD_DBG_GRANT_GRANT_INV.get (q.chip.reg .WLD_DBG_GRANT) = 0
      rw [hfresh.grant]
      decide
    · obtain ⟨hq, hpriv, hworld, hx, -, hrun⟩ := hfresh.harts h
      exact ⟨hq, hpriv, hworld, hx, hrun⟩
    · obtain ⟨h6, hcause⟩ := hstage hd
      obtain ⟨hheld, hempty⟩ := hheld hd
      exact ⟨h6, hcause, fun h _ => hheld h, hempty⟩

end Sys2Proof.Machine
end
